-- ==== Sys2Proof/Word.lean ====
section
/-! DEFINITION. Words, bytes and the sparse canonical map: the plainest data of the TQ-64 model. -/
namespace Sys2Proof

/-- A byte. -/
abbrev Byte := BitVec 8
/-- A 32-bit word: a CSR, a lane, an FP32 encoding. -/
abbrev W32 := BitVec 32
/-- A 64-bit word: a scalar register, a Uresque instruction word (R184). -/
abbrev W64 := BitVec 64
/-- A vector register: 64 lanes of 32 bits, lane i in bits [32i + 31 : 32i] (R54). -/
abbrev VReg := BitVec 2048

/-- A sparse map: keys strictly rising, and no entry equal to the map's default value. -/
abbrev SMap (α : Type) := List (Nat × α)

end Sys2Proof
end

