-- ==== Sys2Proof/Types.lean ====
section
/-! DEFINITION. The operand types of the commands: agents, command headers, packets and flits. -/
namespace Sys2Proof

/-- A physical core: cluster 0-7 and physical core 0-8 of that cluster (R18, R20). -/
structure CoreId where
  cl : Fin 8
  core : Fin 9
  deriving DecidableEq, Repr

/-- A hardware thread (R44). -/
structure Hart where
  cl : Fin 8
  core : Fin 9
  thr : Fin 64
  deriving DecidableEq, Repr

/-- Who issues an instruction: a hardware thread, a cluster controller or the device controller (R289). -/
inductive Agent where
  | thread (h : Hart)
  | cluster (c : Fin 8)
  | device
  deriving DecidableEq, Repr

/-- Who makes a CSR access (R865). -/
inductive Requester where
  | devCtl
  | mgmt
  | clCtl (c : Fin 8)
  | walker
  deriving DecidableEq, Repr

/-- A host or management command as it arrives (R619, Table HST-3): the fields the sender fills, and its payload. -/
structure CmdHdr where
  /-- FENCE: start only after every earlier command of the function has completed. -/
  fence : Bool
  /-- 1: some reserved bit of the header is nonzero (R623). -/
  resv : Bool
  tag : W32
  job : W32
  arg0 : W64
  arg1 : W64
  arg2 : W64
  arg3 : W64
  arg4 : W64
  arg5 : W64
  payload : List Byte
  deriving DecidableEq, Repr

/-- A header of zeros. -/
def CmdHdr.init : CmdHdr :=
  { fence := false, resv := false, tag := 0#32, job := 0#32, arg0 := 0#64, arg1 := 0#64, arg2 := 0#64,
    arg3 := 0#64, arg4 := 0#64, arg5 := 0#64, payload := [] }

/-- An error that an access meets in the memory which it reads (R447, R450, R451): none; a single-bit error, corrected; one that
a second read corrects; one that it does not. `off` counts the bytes that the access reads, in the order read, and after them
those of the granules which it writes only in part (R452). -/
inductive MemErr where
  | none
  | corrected (off : Nat)
  | reread (off : Nat)
  | failed (off : Nat)
  deriving DecidableEq, Repr

/-- Fabric packet (R532). -/
structure Packet where
  /-- TYPE (R532). -/
  type : BitVec 4
  /-- Dateline class (R532). -/
  dl : Bool
  /-- Broadcast (R532). -/
  bc : Bool
  /-- Over PR (R532). -/
  pair : Bool
  /-- PART (R532). -/
  part : BitVec 3
  /-- SUB (R532). -/
  sub : BitVec 5
  /-- EPOCH (R532). -/
  epoch : BitVec 16
  /-- DST (R532). -/
  dst : BitVec 18
  /-- SRC (R532). -/
  src : BitVec 18
  /-- LEN (R532). -/
  len : BitVec 9
  /-- TID (R532). -/
  tid : BitVec 16
  /-- STATUS (R532). -/
  status : BitVec 8
  /-- FCODE (R532). -/
  fcode : BitVec 8
  /-- ADDR (R532). -/
  addr : BitVec 48
  /-- VALUE (R532). -/
  value : BitVec 64
  /-- Data (R532). -/
  data : List (BitVec 8)
  deriving DecidableEq, Repr

/-- The reset value of Packet. -/
def Packet.init : Packet where
  type := 0#4
  dl := false
  bc := false
  pair := false
  part := 0#3
  sub := 0#5
  epoch := 0#16
  dst := 0#18
  src := 0#18
  len := 0#9
  tid := 0#16
  status := 0#8
  fcode := 0#8
  addr := 0#48
  value := 0#64
  data := []

/-- One flit (R525, R526). -/
structure Flit where
  /-- FTYPE (R526). -/
  ftype : BitVec 4
  /-- SEQ (R526). -/
  seq : BitVec 24
  /-- OWNER (R526). -/
  owner : BitVec 4
  /-- ACK (R526). -/
  ack : BitVec 24
  /-- NAK (R526). -/
  nak : Bool
  /-- Class and 32 bytes of each unit (R525 R526). -/
  units : List (BitVec 3 × BitVec 256)
  /-- Credit returns (R526). -/
  cret : List (BitVec 4 × Nat)
  /-- Sideband chunks freed (R526). -/
  sbcret : Nat
  /-- Sideband chunk with its dateline class SBDL (R525 R526). -/
  sb : Option (Bool × BitVec 128)
  deriving DecidableEq, Repr

/-- The reset value of Flit. -/
def Flit.init : Flit where
  ftype := 0#4
  seq := 0#24
  owner := 9#4
  ack := 0#24
  nak := false
  units := []
  cret := []
  sbcret := 0
  sb := none

end Sys2Proof
end

