-- ==== Sys2Proof/Syntax.lean ====
section
/-! DEFINITION. The commands of the TQ-64: one constructor per row of spec/opcode_table.json, in its order. -/
namespace Sys2Proof

/-- A command: an instruction issued by an agent (its 64-bit word of R184 carried whole), or an event. -/
inductive Instr where
  /-- ADD (R188): Scalar add of two registers into D. -/
  | add (a : Agent) (w : W64)
  /-- ADDI (R188): Scalar add of a register and the sign-extended immediate into D. -/
  | addi (a : Agent) (w : W64)
  /-- SUB (R188): Scalar subtract of B from A into D. -/
  | sub (a : Agent) (w : W64)
  /-- AND (R188): Bitwise AND of two registers into D. -/
  | and (a : Agent) (w : W64)
  /-- ANDI (R188): Bitwise AND of a register with the immediate into D. -/
  | andi (a : Agent) (w : W64)
  /-- OR (R188): Bitwise OR of two registers into D. -/
  | or (a : Agent) (w : W64)
  /-- ORI (R188): Bitwise OR of a register with the immediate into D. -/
  | ori (a : Agent) (w : W64)
  /-- XOR (R188): Bitwise XOR of two registers into D. -/
  | xor (a : Agent) (w : W64)
  /-- XORI (R188): Bitwise XOR of a register with the immediate into D. -/
  | xori (a : Agent) (w : W64)
  /-- SHL (R188): Shift left by a register amount modulo 64. -/
  | shl (a : Agent) (w : W64)
  /-- SHLI (R188): Shift left by an immediate amount modulo 64. -/
  | shli (a : Agent) (w : W64)
  /-- SHR (R188): Logical shift right by a register amount. -/
  | shr (a : Agent) (w : W64)
  /-- SHRI (R188): Logical shift right by an immediate amount. -/
  | shri (a : Agent) (w : W64)
  /-- SRA (R188): Arithmetic shift right by a register amount. -/
  | sra (a : Agent) (w : W64)
  /-- SRAI (R188): Arithmetic shift right by an immediate amount. -/
  | srai (a : Agent) (w : W64)
  /-- MUL (R188): Low 64 bits of the product into D. -/
  | mul (a : Agent) (w : W64)
  /-- MULH (R188): High 64 bits of the signed 128-bit product into D. -/
  | mulh (a : Agent) (w : W64)
  /-- MULHU (R188): High 64 bits of the unsigned 128-bit product into D. -/
  | mulhu (a : Agent) (w : W64)
  /-- DIV (R189): Signed division truncated toward zero, with defined results for zero divisor and overflow. -/
  | div (a : Agent) (w : W64)
  /-- DIVU (R189): Unsigned division, all-ones result on a zero divisor. -/
  | divu (a : Agent) (w : W64)
  /-- REM (R189): Signed remainder with the sign of A. -/
  | rem (a : Agent) (w : W64)
  /-- REMU (R189): Unsigned remainder. -/
  | remu (a : Agent) (w : W64)
  /-- SLT (R188): Set D to 1 when A is less than B, signed or unsigned by X[0]. -/
  | slt (a : Agent) (w : W64)
  /-- SLTI (R188): Set D to 1 when A is less than the immediate. -/
  | slti (a : Agent) (w : W64)
  /-- LI (R188): Load the sign-extended immediate into D. -/
  | li (a : Agent) (w : W64)
  /-- LIH (R188): Load the immediate into the upper 32 bits, keeping the low 32 bits of A. -/
  | lih (a : Agent) (w : W64)
  /-- LD8 (R191): Load 8 bits from a store into D, zero- or sign-extended. -/
  | ld8 (a : Agent) (w : W64)
  /-- LD16 (R191): Load 16 bits from a store into D. -/
  | ld16 (a : Agent) (w : W64)
  /-- LD32 (R191): Load 32 bits from a store into D. -/
  | ld32 (a : Agent) (w : W64)
  /-- LD64 (R191): Load 64 bits from a store into D. -/
  | ld64 (a : Agent) (w : W64)
  /-- ST8 (R192): Store the low 8 bits of B. -/
  | st8 (a : Agent) (w : W64) (fails : MemErr)
  /-- ST16 (R192): Store the low 16 bits of B. -/
  | st16 (a : Agent) (w : W64) (fails : MemErr)
  /-- ST32 (R192): Store the low 32 bits of B. -/
  | st32 (a : Agent) (w : W64) (fails : MemErr)
  /-- ST64 (R192): Store all 64 bits of B. -/
  | st64 (a : Agent) (w : W64) (fails : MemErr)
  /-- BEQ (R195): Branch when A equals B. -/
  | beq (a : Agent) (w : W64)
  /-- BNE (R195): Branch when A differs from B. -/
  | bne (a : Agent) (w : W64)
  /-- BLT (R195): Branch when A is less than B, signed. -/
  | blt (a : Agent) (w : W64)
  /-- BGE (R195): Branch when A is at least B, signed. -/
  | bge (a : Agent) (w : W64)
  /-- BLTU (R195): Branch when A is less than B, unsigned. -/
  | bltu (a : Agent) (w : W64)
  /-- BGEU (R195): Branch when A is at least B, unsigned. -/
  | bgeu (a : Agent) (w : W64)
  /-- JAL (R196): Jump relative and write the return address to D. -/
  | jal (a : Agent) (w : W64)
  /-- JALR (R197): Jump to a register target and write the return address, faulting ALIGN on a misaligned target. -/
  | jalr (a : Agent) (w : W64)
  /-- FENCE (R205): Wait until every earlier store and atomic of the thread is performed. -/
  | fence (a : Agent) (w : W64)
  /-- BAR (R206): Fence and wait at a core- or job-scope barrier. -/
  | bar (a : Agent) (w : W64)
  /-- MWAIT (R205): Wait until every array-queue entry of the thread has completed. -/
  | mwait (a : Agent) (w : W64)
  /-- IBAR (R205): Fence and then empty the fetch buffer. -/
  | ibar (a : Agent) (w : W64)
  /-- AMOADD (R211): Atomic add on a store word, returning the old value. -/
  | amoadd (a : Agent) (w : W64) (fails : MemErr)
  /-- AMOSWAP (R211): Atomic swap on a store word. -/
  | amoswap (a : Agent) (w : W64) (fails : MemErr)
  /-- AMOCAS (R211): Atomic compare-and-swap on a store word. -/
  | amocas (a : Agent) (w : W64) (fails : MemErr)
  /-- AMOMAX (R211): Atomic signed maximum on a store word. -/
  | amomax (a : Agent) (w : W64) (fails : MemErr)
  /-- VADD (R214): Lane-wise add in FP32 or INT32. -/
  | vadd (a : Agent) (w : W64)
  /-- VSUB (R214): Lane-wise subtract. -/
  | vsub (a : Agent) (w : W64)
  /-- VMUL (R214): Lane-wise multiply. -/
  | vmul (a : Agent) (w : W64)
  /-- VFMA (R214): Lane-wise fused multiply-add with one rounding. -/
  | vfma (a : Agent) (w : W64)
  /-- VMIN (R216): Lane-wise minimum. -/
  | vmin (a : Agent) (w : W64)
  /-- VMAX (R216): Lane-wise maximum. -/
  | vmax (a : Agent) (w : W64)
  /-- VCMP (R217): Lane-wise comparison producing all-ones or zero. -/
  | vcmp (a : Agent) (w : W64)
  /-- VSEL (R214): Lane-wise select by a mask register. -/
  | vsel (a : Agent) (w : W64)
  /-- VAND (R214): Lane-wise bitwise AND. -/
  | vand (a : Agent) (w : W64)
  /-- VOR (R214): Lane-wise bitwise OR. -/
  | vor (a : Agent) (w : W64)
  /-- VXOR (R214): Lane-wise bitwise XOR. -/
  | vxor (a : Agent) (w : W64)
  /-- VSH (R214): Lane-wise shift by an immediate count. -/
  | vsh (a : Agent) (w : W64)
  /-- VBCAST (R214): Broadcast the low 32 bits of a scalar into every lane. -/
  | vbcast (a : Agent) (w : W64)
  /-- VGET (R214): Copy one lane into a scalar register. -/
  | vget (a : Agent) (w : W64)
  /-- VPUT (R214): Write one lane from a scalar register. -/
  | vput (a : Agent) (w : W64)
  /-- VLD (R214): Load 256 bytes into a vector register. -/
  | vld (a : Agent) (w : W64)
  /-- VST (R214): Store 256 bytes from a vector register. -/
  | vst (a : Agent) (w : W64) (fails : MemErr)
  /-- VLDB (R214): Load a bounded number of bytes, zeroing the rest. -/
  | vldb (a : Agent) (w : W64)
  /-- VSTB (R214): Store a bounded number of bytes. -/
  | vstb (a : Agent) (w : W64) (fails : MemErr)
  /-- VRSUM (R218): Sum of all lanes by the pairwise tree into lane 0. -/
  | vrsum (a : Agent) (w : W64)
  /-- VRMAX (R216): Maximum of all lanes into lane 0. -/
  | vrmax (a : Agent) (w : W64)
  /-- VRMIN (R216): Minimum of all lanes into lane 0. -/
  | vrmin (a : Agent) (w : W64)
  /-- VPERM (R214): Permute lanes by an index register. -/
  | vperm (a : Agent) (w : W64)
  /-- VPACK (R214): Pack the low bits of each lane into a dense register. -/
  | vpack (a : Agent) (w : W64)
  /-- VUNPK (R214): Unpack packed fields into lanes. -/
  | vunpk (a : Agent) (w : W64)
  /-- VFN (R219): Evaluate a reference function bit for bit on each lane. -/
  | vfn (a : Agent) (w : W64)
  /-- VCVT (R220): Convert lanes between FP32 and a narrow float format. -/
  | vcvt (a : Agent) (w : W64)
  /-- QCVT (R180): Quantise FP32 lanes to an integer format with scale and zero point. -/
  | qcvt (a : Agent) (w : W64)
  /-- DQCVT (R181): Dequantise integer lanes to FP32. -/
  | dqcvt (a : Agent) (w : W64)
  /-- MXQ (R221): Convert 64 FP32 lanes into two MX blocks and their scales. -/
  | mxq (a : Agent) (w : W64)
  /-- DMA_COPY (R224): Issue a linear copy and take a tag. -/
  | dmaCopy (a : Agent) (w : W64)
  /-- DMA_DESC (R233): Read a DMA descriptor at issue and take a tag. -/
  | dmaDesc (a : Agent) (w : W64)
  /-- MOVE (R100): Issue a change of home for a page range and take a tag. -/
  | move (a : Agent) (w : W64)
  /-- SPLICE (R511): Read a Splice plan at issue and take a tag. -/
  | splice (a : Agent) (w : W64)
  /-- DMA_WAIT (R229): Wait for a tagged operation and return its status, freeing the tag. -/
  | dmaWait (a : Agent) (w : W64)
  /-- MLOADW (R245): Enqueue the load of a stationary weight tile. -/
  | mloadw (a : Agent) (w : W64)
  /-- MMUL (R249): Enqueue the product of one K-block into a slot. -/
  | mmul (a : Agent) (w : W64)
  /-- ACC_CLAIM (R58): Take ownership of a slot or wait for it. -/
  | accClaim (a : Agent) (w : W64)
  /-- ACC_FREE (R60): Release a slot and grant it to the earliest waiter. -/
  | accFree (a : Agent) (w : W64)
  /-- ACC_ZERO (R238): Enqueue the zeroing of a slot with kind, mode, base and tag. -/
  | accZero (a : Agent) (w : W64)
  /-- LADDER_SAVE (R262): Enqueue writing a slot's ladder image. -/
  | ladderSave (a : Agent) (w : W64)
  /-- LADDER_MERGE (R147): Enqueue merging a slot with a ladder image. -/
  | ladderMerge (a : Agent) (w : W64)
  /-- DRAIN (R266): Enqueue draining slot rows to the core store. -/
  | drain (a : Agent) (w : W64)
  /-- DRAIN_Q (R177): Enqueue a requantising drain using a descriptor. -/
  | drainQ (a : Agent) (w : W64)
  /-- LADDER_LOAD (R262): Enqueue replacing a slot's state from an image. -/
  | ladderLoad (a : Agent) (w : W64)
  /-- ATTN_INIT (R380): Initialise attention output slots and running max and sum. -/
  | attnInit (a : Agent) (w : W64)
  /-- ATTN_STEP (R386): Attend one query tile over one KV page with online softmax. -/
  | attnStep (a : Agent) (w : W64)
  /-- ATTN_FINISH (R388): Normalise and write the attention output. -/
  | attnFinish (a : Agent) (w : W64)
  /-- FUSE_SET (R303): Enqueue loading one fusion-table entry. -/
  | fuseSet (a : Agent) (w : W64)
  /-- REC_RUN (R318): Enqueue running a Reel's recurrence over samples. -/
  | recRun (a : Agent) (w : W64)
  /-- REEL_SUBMIT (R331): Copy a chunk descriptor and submit the chunk to its Reel. -/
  | reelSubmit (a : Agent) (w : W64)
  /-- REEL_SWAPOUT (R340): Request swap-out of a Reel. -/
  | reelSwapout (a : Agent) (w : W64)
  /-- REEL_DESTROY (R340): Destroy a Reel. -/
  | reelDestroy (a : Agent) (w : W64)
  /-- REEL_QUERY (R329): Return a Reel's state, queued chunks and SEQ. -/
  | reelQuery (a : Agent) (w : W64)
  /-- GATE_LOAD (R306): Enqueue loading gate-buffer rows. -/
  | gateLoad (a : Agent) (w : W64)
  /-- POOL (R412): Reduce rows into a vector by max, average or sum. -/
  | pool (a : Agent) (w : W64)
  /-- BOXDEC (R414): Decode 64 boxes into corner form. -/
  | boxdec (a : Agent) (w : W64)
  /-- NMS (R416): Enqueue non-maximum suppression over a descriptor. -/
  | nms (a : Agent) (w : W64)
  /-- BOXCLIP (R415): Clip corner boxes in place. -/
  | boxclip (a : Agent) (w : W64)
  /-- NOP (R275): No operation. -/
  | nop (a : Agent) (w : W64)
  /-- END (R286): Begin ending the thread by waiting for its queue entries and DMA. -/
  | endThread (a : Agent) (w : W64)
  /-- THREAD_END (R287): After END's wait, free slots and tags and make the thread FREE. -/
  | threadEnd (h : Hart)
  /-- TRAP (R275): Halt the thread with fault TRAP and its immediate. -/
  | trap (a : Agent) (w : W64)
  /-- CLAP (R271): Wait until Slate reaches a count, or report lateness. -/
  | clap (a : Agent) (w : W64)
  /-- CLAP_WAKE (R272): A thread waiting at CLAP becomes READY when Slate reaches its count. -/
  | clapWake (c : CoreId)
  /-- RDSLATE (R274): Read Slate nanoseconds or fraction. -/
  | rdslate (a : Agent) (w : W64)
  /-- RDTSW (R275): Read the thread status word. -/
  | rdtsw (a : Agent) (w : W64)
  /-- CLRTSW (R275): Clear sticky status bits. -/
  | clrtsw (a : Agent) (w : W64)
  /-- RDCNT (R821): Read a core counter. -/
  | rdcnt (a : Agent) (w : W64)
  /-- CSRR (R293): Controller reads a CSR or its own registers. -/
  | csrr (a : Agent) (w : W64)
  /-- CSRW (R293): Controller writes a CSR or its own registers. -/
  | csrw (a : Agent) (w : W64)
  /-- WFE (R297): Controller takes the next event word, waiting while none. -/
  | wfe (a : Agent) (w : W64)
  /-- ERET (R289): Controller returns to EPC and clears ECAUSE. -/
  | eret (a : Agent) (w : W64)
  /-- MBOX_POST (R298): Post a 64-byte request to the device controller's mailbox. -/
  | mboxPost (a : Agent) (w : W64) (fails : MemErr)
  /-- FETCH_BLOCK_ARRIVE (R201): A requested instruction block arrives in the fetch buffer. -/
  | fetchBlockArrive (h : Hart) (fails : MemErr)
  /-- LOAD_RETURN (R53): Loaded data is written to the register and the thread leaves WAIT_MEM. -/
  | loadReturn (a : Agent) (fails : MemErr)
  /-- BARRIER_RELEASE (R207): A barrier releases its waiting threads. -/
  | barrierRelease (c : CoreId) (job : Bool)
  /-- THREAD_RESUME (R284): The supervisor resumes or ends a halted thread. -/
  | threadResume (h : Hart) (pc : Option W64)
  /-- QUEUE_ENTRY_BEGIN (R243): An array-queue entry begins once its predecessors and resources allow. -/
  | queueEntryBegin (c : CoreId) (fails : MemErr)
  /-- DEFERRED_HALT (R279): The thread with a deferred fault halts before its next issue. -/
  | deferredHalt (h : Hart)
  /-- QUEUE_ENTRY_COMPLETE (R244): An array-queue entry has made all its effects. -/
  | queueEntryComplete (c : CoreId) (n : Nat)
  /-- TWO_D_COPY (R928): The DMA engine starts a linear or two-dimensional copy. -/
  | twoDCopy (c : CoreId) (fails : MemErr)
  /-- WINDOW_STREAM (R405): The DMA engine starts a window stream. -/
  | windowStream (c : CoreId) (fails : MemErr)
  /-- PAGE_GATHER (R361): The DMA engine starts a KV page gather. -/
  | pageGather (c : CoreId) (fails : MemErr)
  /-- EXPANSION (R478): The DMA engine starts an exponent-coded expansion. -/
  | expansion (c : CoreId) (fails : MemErr)
  /-- MOVE_START (R924): The DMA engine checks and begins a MOVE. -/
  | moveStart (c : CoreId) (fails : MemErr)
  /-- SPLICE_START (R512): The DMA engine checks and begins a Splice plan. -/
  | spliceStart (c : CoreId) (fails : MemErr)
  /-- DMA_OP_COMPLETE (R228): A DMA, MOVE or Splice operation completes with its status. -/
  | dmaOpComplete (c : CoreId)
  /-- HOST_DATA_ARRIVE (R627): Host-request data arrive on EP2 OUT. -/
  | hostDataArrive (p : Fin 8) (num : W32) (data : List Byte)
  /-- HOST_REQUEST_TIMEOUT (R629): A host request outstanding for 1 s abandons its operation. -/
  | hostRequestTimeout (p : Fin 8) (num : W32)
  /-- CHUNK_DISPATCH (R336): The dispatcher starts a chunk on a free thread of its core. -/
  | chunkDispatch (c : CoreId)
  /-- CHUNK_END (R343): A chunk ends; checkpoint, completion and forwarding follow. -/
  | chunkEnd (h : Hart)
  /-- REEL_SWAPIN_DONE (R340): A swap-in ends and the held chunk starts. -/
  | reelSwapinDone (p : Fin 8) (idx : BitVec 12)
  /-- STEP_BOUNDARY (R499): A step's last thread becomes FREE and the scheduler acts. -/
  | stepBoundary (p : Fin 8) (job : Nat)
  /-- CONTEXT_SWITCH_END (R507): A context switch finishes and the incoming job issues. -/
  | contextSwitchEnd (c : CoreId)
  /-- CMD_NOP (R621): Host command that completes OK. -/
  | cmdNop (p : Fin 8) (h : CmdHdr)
  /-- JOB_CREATE (R485): Create a job from a parameter block. -/
  | jobCreate (p : Fin 8) (h : CmdHdr)
  /-- JOB_SET (R519): Change a job's parameters at its next boundary. -/
  | jobSet (p : Fin 8) (h : CmdHdr)
  /-- JOB_DESTROY (R621): Destroy a job at its next switch point. -/
  | jobDestroy (p : Fin 8) (h : CmdHdr)
  /-- STEP (R621): Launch one step of a BATCH job, optionally at a Slate count. -/
  | step (p : Fin 8) (h : CmdHdr)
  /-- SEQ_ADMIT (R494): Admit a sequence to a serving job. -/
  | seqAdmit (p : Fin 8) (h : CmdHdr)
  /-- SEQ_RUN (R621): Request tokens from a sequence. -/
  | seqRun (p : Fin 8) (h : CmdHdr)
  /-- SEQ_END (R621): Retire a sequence at the next step boundary. -/
  | seqEnd (p : Fin 8) (h : CmdHdr)
  /-- ALLOC (R929): Allocate pages in a home and return the virtual address. -/
  | alloc (p : Fin 8) (h : CmdHdr)
  /-- FREE (R105): Free an allocation. -/
  | free (p : Fin 8) (h : CmdHdr)
  /-- CMD_MOVE (R100): Host command to move pages to a home. -/
  | cmdMove (p : Fin 8) (h : CmdHdr)
  /-- SEAL (R95): Seal an AF_RO_SHARED allocation read-only. -/
  | seal (p : Fin 8) (h : CmdHdr)
  /-- WRITE (R626): Write host data from EP2 OUT into partition memory. -/
  | write (p : Fin 8) (h : CmdHdr) (fails : MemErr)
  /-- READ (R626): Read partition memory out on EP2 IN. -/
  | read (p : Fin 8) (h : CmdHdr) (fails : MemErr)
  /-- HOSTMAP (R621): Write entries of the host page map. -/
  | hostmap (p : Fin 8) (h : CmdHdr)
  /-- CMD_REEL_SUBMIT (R621): Host submits a Reel chunk. -/
  | cmdReelSubmit (p : Fin 8) (h : CmdHdr)
  /-- CMD_REEL_DESTROY (R621): Host destroys a Reel. -/
  | cmdReelDestroy (p : Fin 8) (h : CmdHdr)
  /-- ATTEST (R754): Produce a signed attestation certificate for the partition. -/
  | attest (p : Fin 8) (h : CmdHdr)
  /-- SESSION_OPEN (R760): Decapsulate a KEM ciphertext and open a sealed session. -/
  | sessionOpen (p : Fin 8) (h : CmdHdr)
  /-- MEASURE (R756): Extend the partition measurement with a hash of a range. -/
  | measure (p : Fin 8) (h : CmdHdr)
  /-- LINK_KEY (R768): Install a job link key and peer list. -/
  | linkKey (p : Fin 8) (h : CmdHdr) (fails : MemErr)
  /-- LINK_KEY_ERASE (R753): Erase a job's link key and abandon its fabric commands. -/
  | linkKeyErase (p : Fin 8) (h : CmdHdr)
  /-- DEV_ATTEST (R754): Management attestation of the device. -/
  | devAttest (h : CmdHdr)
  /-- REL_SET (R816): Set slow policy, step checkpoints and watchdog. -/
  | relSet (p : Fin 8) (h : CmdHdr)
  /-- DECLARE (R816): Management declares a unit failed. -/
  | declare (h : CmdHdr)
  /-- READMIT (R809): Management re-admits a quarantined unit. -/
  | readmit (h : CmdHdr)
  /-- PART_CREATE (R70): Create a partition. -/
  | partCreate (h : CmdHdr)
  /-- PART_CHANGE (R75): Change a partition's cluster and stack masks. -/
  | partChange (h : CmdHdr)
  /-- PART_DESTROY (R637): Disable a partition's function and scrub it. -/
  | partDestroy (h : CmdHdr)
  /-- PART_RESET (R112): Reset a partition, abandoning in-flight commands within 1 ms. -/
  | partReset (h : CmdHdr)
  /-- FUNC_DISABLE (R638): Disable a partition's USB function. -/
  | funcDisable (h : CmdHdr)
  /-- FUNC_ENABLE (R643): Start a non-operating function with empty buffers. -/
  | funcEnable (h : CmdHdr)
  /-- USB_SHARE (R616): Set a partition's USB burst slots. -/
  | usbShare (h : CmdHdr)
  /-- FLASH_WRITE (R655): Erase and write package flash sectors. -/
  | flashWrite (h : CmdHdr)
  /-- FLASH_READ (R637): Read package flash to EP2 IN. -/
  | flashRead (h : CmdHdr)
  /-- IMAGE_BCAST (R637): Broadcast a firmware image to followers. -/
  | imageBcast (h : CmdHdr)
  /-- LOCKSTEP (R854): Enable or disable lock-step for a partition. -/
  | lockstep (h : CmdHdr)
  /-- CSR_READ (R635): EP0 vendor read of consecutive CSRs. -/
  | csrRead (off : BitVec 24) (len : BitVec 16)
  /-- CSR_WRITE (R635): EP0 vendor write of consecutive CSRs. -/
  | csrWrite (off : BitVec 24) (data : List Byte)
  /-- MGMT_RESULT (R634): Return the oldest unread management completion. -/
  | mgmtResult
  /-- BOOT_STATUS (R634): Return the boot status code and firmware version. -/
  | bootStatus
  /-- USB_RESET (R638): A USB reset, disconnect or deconfiguration disables every function. -/
  | usbReset
  /-- FUNC_DRAIN_TIMEOUT (R641): At D plus 1 ms remaining commands of a disabled function are abandoned. -/
  | funcDrainTimeout (p : Fin 8)
  /-- FUNC_STOP (R642): A disabled function stops after its last completion or 10 ms. -/
  | funcStop (p : Fin 8)
  /-- SEALED_RECORD (R762): A sealed record arrives and is checked and decrypted. -/
  | sealedRecord (p : Fin 8) (data : List Byte)
  /-- CL_GATE (R729): Mailbox request to gate a cluster as a cluster transition. -/
  | clGate (p : Fin 8)
  /-- CL_UNGATE (R739): Mailbox request to power a gated cluster. -/
  | clUngate (p : Fin 8)
  /-- WAKE (R718): Mailbox request posting a stage 1 or 2 wake. -/
  | wake (p : Fin 8)
  /-- BP_ARM (R826): Mailbox request arming a breakpoint. -/
  | bpArm (p : Fin 8)
  /-- PORT_WR (R693): Mailbox request writing an owned port register. -/
  | portWr (p : Fin 8)
  /-- PORT_RD (R693): Mailbox request reading an owned port register. -/
  | portRd (p : Fin 8)
  /-- MBOX_TURN (R300): A 10 µs mailbox turn begins for the next partition. -/
  | mboxTurn
  /-- HBM_REFRESH (R454): A per-bank HBM refresh command at its fixed interval. -/
  | hbmRefresh (st : Fin 8)
  /-- ROW_REPAIR_DONE (R455): A soft post-package row repair completes. -/
  | rowRepairDone (st : Fin 8) (spare : Bool)
  /-- STACK_FAIL (R458): A whole stack fails. -/
  | stackFail (st : Fin 8)
  /-- FLIT_RECEIVE (R528): A flit is received, checked and accepted or discarded. -/
  | flitReceive (l : Fin 7) (fix : List (Fin 544)) (fecOk : Bool) (msg : BitVec 5140)
  /-- NAK_REPEAT (R529): The NAK is repeated every 1.2 µs until the expected flit arrives. -/
  | nakRepeat (l : Fin 7)
  /-- LINK_SLOT (R539): At each frame slot the transmitter sends or lends the slot. -/
  | linkSlot (l : Fin 7)
  /-- LANE_FAIL (R577): A lane loses lock or exceeds the error threshold and retrain begins. -/
  | laneFail (l : Fin 7) (lane : Fin 8)
  /-- RETRAIN_DONE (R579): A retrain ends at 8 lanes, 4 lanes or failed. -/
  | retrainDone (l : Fin 7) (ok : Byte)
  /-- RD (R533): A read request packet arrives at its destination. -/
  | rd (l : Fin 7) (k : Packet) (fails : MemErr)
  /-- WR (R533): A write request packet arrives at its destination. -/
  | wr (l : Fin 7) (k : Packet) (fails : MemErr)
  /-- NOTIFY (R564): A NOTIFY packet performs an unsigned maximum on a word. -/
  | notify (l : Fin 7) (k : Packet) (fails : MemErr)
  /-- RDATA (R560): A read response arrives for a fabric command. -/
  | rdata (l : Fin 7) (k : Packet) (fails : MemErr)
  /-- ACKR (R560): A write or notify completion response arrives. -/
  | ackr (l : Fin 7) (k : Packet)
  /-- STREAM (R574): A sensor stream packet arrives and is written or dropped. -/
  | stream (l : Fin 7) (k : Packet) (fails : MemErr)
  /-- SYNC_REQUEST (R600): A SYNC request arrives and the partner responds at once. -/
  | syncRequest (l : Fin 7) (k : Packet)
  /-- SYNC_RESPONSE (R602): A SYNC response arrives and yields an offset. -/
  | syncResponse (l : Fin 7) (k : Packet)
  /-- ENUM (R568): An enumeration packet assigns coordinates. -/
  | enum (l : Fin 7) (k : Packet)
  /-- REPORT (R568): A report reaches the master. -/
  | report (l : Fin 7) (k : Packet)
  /-- GEOM (R568): The geometry broadcast sets fabric sizes and routing begins. -/
  | geom (l : Fin 7) (k : Packet)
  /-- IMAGE (R572): A piece of the firmware image arrives by broadcast. -/
  | image (l : Fin 7) (k : Packet)
  /-- CSR_RD (R570): A follower CSR read from the master. -/
  | csrRd (l : Fin 7) (k : Packet)
  /-- CSR_WR (R570): A follower CSR write from the master. -/
  | csrWr (l : Fin 7) (k : Packet)
  /-- LAUNCH (R605): A LAUNCH broadcast arrives with a Slate count. -/
  | launch (l : Fin 7) (k : Packet)
  /-- FAULTMAP (R582): A fault-map update is applied and fabric engines resend. -/
  | faultmap (l : Fin 7) (k : Packet)
  /-- MGMT_FENCE (R808): A FENCE packet quarantines or re-admits a device. -/
  | mgmtFence (l : Fin 7) (k : Packet)
  /-- FABRIC_WRITE (R558): The fabric engine starts a WRITE descriptor. -/
  | fabricWrite (c : Fin 8) (fails : MemErr)
  /-- FABRIC_READ (R558): The fabric engine starts a READ descriptor. -/
  | fabricRead (c : Fin 8)
  /-- FABRIC_NOTIFY (R558): The fabric engine starts a NOTIFY descriptor. -/
  | fabricNotify (c : Fin 8)
  /-- FABRIC_REQ_TIMEOUT (R563): A request unanswered for 1 ms abandons its command. -/
  | fabricReqTimeout (c : Fin 8) (n : Nat)
  /-- SLOTMAP_APPLY (R877): A committed slot map takes effect at the next frame boundary. -/
  | slotmapApply (l : Fin 7)
  /-- TIME_CTL_WRITE (R589): A write of time source or parent changes the time state. -/
  | timeCtlWrite (v : W32)
  /-- ALLOW_STEP (R586): Writing ALLOW_STEP enters ACQUIRE. -/
  | allowStep (v : W32)
  /-- PTP_OFFSET_WRITE (R593): A PTP offset write runs the servo once. -/
  | ptpOffsetWrite (hi : W32)
  /-- SYNC_INTERVAL (R600): The sync interval expires and a SYNC request is sent. -/
  | syncInterval
  /-- HOLDOVER_TIMEOUT (R590): No valid offset for 8 intervals enters HOLDOVER. -/
  | holdoverTimeout
  /-- LAUNCH_START (R605): Slate reaches the launch count and the step's threads start. -/
  | launchStart (p : Fin 8) (job : Nat)
  /-- SLATE_PPS_RISE (R908): SLATE_PPS rises at each whole second of Slate. -/
  | slatePpsRise
  /-- SLATE_PPS_FALL (R908): SLATE_PPS falls 1 ms after its rise. -/
  | slatePpsFall
  /-- PTP_EVENT_MESSAGE (R596): A PTP event message is timestamped on receive or transmit. -/
  | ptpEventMessage (tx : Bool) (oneStep : Bool) (frame : List Byte)
  /-- SLATE_SAMPLE_READ (R889): A read of SLATE_NS_LO latches a Slate sample. -/
  | slateSampleRead (r : Requester)
  /-- CSI_FRAME_START (R664): An FS opens frames and commits pending parameters. -/
  | csiFrameStart (p : Fin 4) (vc : BitVec 4) (fnum : BitVec 16) (hdrErr : BitVec 2) (skewOk : Bool)
  /-- CSI_FRAME_END (R664): An FE closes frames of its virtual channel. -/
  | csiFrameEnd (p : Fin 4) (vc : BitVec 4) (fnum : BitVec 16) (hdrErr : BitVec 2)
  /-- CSI_LINE_MARKER (R661): A line start or end short packet is accepted and ignored. -/
  | csiLineMarker (p : Fin 4) (vc : BitVec 4) (start : Bool) (hdrErr : BitVec 2)
  /-- CSI_LONG_PACKET (R663): A long packet is matched to a stream and delivered. -/
  | csiLongPacket (p : Fin 4) (vc : BitVec 4) (dt : BitVec 6) (hdrErr : BitVec 2) (crcOk : Bool) (data : List Byte)
  /-- CSI_LINE_TIMEOUT (R667): No line within LTO closes the frame LATE. -/
  | csiLineTimeout (p : Fin 4) (idx : Fin 16)
  /-- ISP_LINE (R669): A pipeline half processes a context line once all exposures have it. -/
  | ispLine (x : Fin 16) (fails : MemErr)
  /-- FRAME_RECORD (R683): After all pixel writes, the frame record is written and HEAD advances. -/
  | frameRecord (x : Fin 32) (fails : MemErr)
  /-- CTX_COMMIT (R676): Writing COMMIT sets PEND. -/
  | ctxCommit (x : Fin 16)
  /-- CTX_ENABLE (R681): Setting or clearing CTX.CTL.EN. -/
  | ctxEnable (x : Fin 16) (en : Bool)
  /-- INSOLE_FRAME (R710): Every 256 samples Insole runs the detector and records the ring. -/
  | insoleFrame (bits : List (List Bool))
  /-- FEED_FROM_WRITE (R717): A write of FEED_FROM starts a replay. -/
  | feedFromWrite (n : BitVec 48)
  /-- FEED_REPLAY_BLOCK (R717): A replay writes the next block every 0.5 ms. -/
  | feedReplayBlock
  /-- TDM_PORT_START (R704): A TDM port starts its first frame at its Slate count. -/
  | tdmPortStart (p : Fin 4)
  /-- TDM_INPUT_FRAME (R705): A completed 16-sample input frame is written and its chunk submitted. -/
  | tdmInputFrame (p : Fin 4) (frame : List (List W32)) (fails : MemErr)
  /-- TDM_OUTPUT_STEP (R706): At the output step the frame is checked complete or late. -/
  | tdmOutputStep (p : Fin 4) (f : Nat) (fails : MemErr)
  /-- PLAYBACK_BLOCK (R702): A ring-out port reads a block or drives zeros on underrun. -/
  | playbackBlock (p : Fin 4) (fails : MemErr)
  /-- GAF_REQ_RUN (R739): GAF.REQ with target RUN. -/
  | gafReqRun
  /-- GAF_REQ_TRIM (R739): GAF.REQ with target TRIM. -/
  | gafReqTrim (gate : Byte)
  /-- GAF_REQ_WATCH (R739): GAF.REQ with target WATCH. -/
  | gafReqWatch
  /-- GAF_REQ_LISTEN (R739): GAF.REQ with target LISTEN. -/
  | gafReqListen
  /-- HS_GRANT (R732): A block grants a fall; the Gaffer commits when all grant. -/
  | hsGrant (t : Option (Fin 8)) (blk : Fin 27)
  /-- HS_DELAY (R731): A block answers DELAY. -/
  | hsDelay (t : Option (Fin 8)) (blk : Fin 27)
  /-- HS_REASK (R731): The delay expires and the Gaffer asks again. -/
  | hsReask (t : Option (Fin 8)) (blk : Fin 27)
  /-- HS_REFUSE (R733): A block refuses and the transition is abandoned. -/
  | hsRefuse (t : Option (Fin 8)) (blk : Fin 27)
  /-- HS_TIMEOUT (R733): No commit by HS_LIMIT abandons the transition. -/
  | hsTimeout (t : Option (Fin 8))
  /-- FALL_COMPLETE (R732): The committed fall is carried out within 200 µs. -/
  | fallComplete (t : Option (Fin 8))
  /-- RISE_STEP (R735): A rise step starts at its fixed delay and checks power-good. -/
  | riseStep (t : Option (Fin 8)) (railOk : Bool)
  /-- RISE_END (R738): A rise ends and a held wake may raise further. -/
  | riseEnd (t : Option (Fin 8))
  /-- THROTTLE_WINDOW (R742): A 20,000-cycle window ends and the throttle level updates. -/
  | throttleWindow (c : Fin 8)
  /-- EMERGENCY_ENTER (R744): Overtemperature or VR_ALERT_N sets the throttle floor. -/
  | emergencyEnter (temp : Byte) (vr : Bool)
  /-- EMERGENCY_EXIT (R744): After 1 ms of safe readings the floor is released. -/
  | emergencyExit (temp : Byte)
  /-- THERMTRIP (R745): At 105 °C THERMTRIP_N asserts and clocks stop. -/
  | thermtrip (temp : Byte)
  /-- IND_DATA_ACCESS (R866): An access to IND_DATA reaches the addressed register. -/
  | indDataAccess (r : Requester) (blk : BitVec 24) (wr : Option W32)
  /-- IND_NOCLK_TIMEOUT (R870): An access to a stopped domain completes after 2 µs with NOCLK. -/
  | indNoclkTimeout (r : Requester) (blk : BitVec 24)
  /-- DANGER_VAL_WRITE (R873): A dangerous register VAL write is held pending. -/
  | dangerValWrite (r : Requester) (reg : W32) (v : W32)
  /-- DANGER_CHK_WRITE (R872): A CHK write commits or rejects a dangerous register. -/
  | dangerChkWrite (r : Requester) (reg : W32) (v : W32)
  /-- DANGER_WINDOW_EXPIRE (R874): A pending VAL expires after 64 cycles without CHK. -/
  | dangerWindowExpire (r : Requester) (reg : W32)
  /-- CRC_PASS_START (R881): Every 100 µs the configuration CRC walker starts a pass. -/
  | crcPassStart
  /-- CRC_PASS_END (R884): A pass finishes, is compared and may post EV_CFG_DRIFT. -/
  | crcPassEnd
  /-- CFG_CRC_REF (R883): Writing the reference arms the check. -/
  | cfgCrcRef (v : W32)
  /-- ALIVE (R785): A cluster controller writes its liveness register. -/
  | alive (c : Fin 8)
  /-- COUNTER_LOW_READ (R890): Reading a counter's low word latches its high word. -/
  | counterLowRead (r : Requester) (c : CoreId) (n : BitVec 12)
  /-- REG_WRITE (R862): A write to a register with no row of its own. -/
  | regWrite (r : Requester) (reg : W32) (v : W32)
  /-- SIGNER_TURN (R757): The signer's 40 ms turn passes to the next owner. -/
  | signerTurn
  /-- HASH_SLOT (R757): The hash engine's 1 µs slot passes to the next owner. -/
  | hashSlot (fails : MemErr)
  /-- SCRUB_START (R779): A scrub begins when the partition's last command completes. -/
  | scrubStart (p : Fin 8)
  /-- SCRUB_DONE (R779): HBM zero-fill ends and the scrub completes. -/
  | scrubDone (p : Fin 8)
  /-- CORE_HANG (R785): The watchdog expires on a core making no progress. -/
  | coreHang (c : CoreId)
  /-- CORE_PARITY (R785): Parity fails in core control state. -/
  | coreParity (c : CoreId)
  /-- REPLACE_RESUME (R790, R792): Members stopped, the store is copied, state restored and work resumed; `answers` is false where the
  failed store answers no access. -/
  | replaceResume (c : Fin 8) (answers : Bool)
  /-- CTL_SILENCE (R785): A controller silent for 200 µs is declared failed. -/
  | ctlSilence (c : Fin 8)
  /-- CTL_RESTART_DONE (R801): The restarted controller runs again. -/
  | ctlRestartDone (c : Fin 8)
  /-- DEVICE_LOST (R785): The master declares a device lost after 10 ms without answer. -/
  | deviceLost (node : BitVec 18)
  /-- PR_PARTNER_TIMEOUT (R813): No partner answer within 500 µs marks the pair partner lost. -/
  | prPartnerTimeout (alive : Bool)
  /-- SIGNATURE_RECEIVE (R855): A partner's lock-step signature arrives and is compared. -/
  | signatureReceive (p : Fin 8) (ctr : Nat) (data : List Byte)
  /-- LOCKSTEP_TIMEOUT (R857): No partner signature after 10 ms stops comparison. -/
  | lockstepTimeout (p : Fin 8) (job : Nat) (n : Nat) (core : Nat)
  /-- CORE_DRAIN_DONE (R829): A draining core or cluster has completed everything and halts. -/
  | coreDrainDone (c : CoreId)
  /-- RESUME_CL (R834): DBG.RESUME_CL restarts a halted controller. -/
  | resumeCl (v : Byte)
  /-- TRIG (R844): A write to DBG.TRIG triggers Dailies. -/
  | trig (r : Requester)
  /-- TRACE_ENABLE (R842): Enabling TRACE_CFG reserves the carve-out and restarts at index 0. -/
  | traceEnable (c : Fin 8) (v : W32)
  /-- MISSED_TRIG_CLEAR (R851): Writing 0 to MISSED_TRIG clears it and re-arms MISSED_SLATE. -/
  | missedTrigClear (c : Fin 8) (v : W32)
  /-- FREEZE_PIN (R835): FREEZE_N held low 200 ns freezes the device. -/
  | freezePin
  /-- FREEZE (R835): TAP FREEZE instruction freezes the device. -/
  | freeze
  /-- CHAIN_SEL (R838): Select a scan chain. -/
  | chainSel (n : BitVec 16)
  /-- CHAIN_OUT (R839): Shift out the selected chain on a frozen device. -/
  | chainOut
  /-- MEM_OUT (R839): Shift out an SRAM word with check bits on a frozen device. -/
  | memOut (v : BitVec 72)
  /-- DBG_CSR (R838): Access a DBG block register through the TAP. -/
  | dbgCsr (v : W64) (write : Bool)
  /-- IDCODE (R911): Select the IDCODE register. -/
  | idcode
  /-- BYPASS (R911): Select the bypass register. -/
  | bypass
  /-- SAMPLE_PRELOAD (R911): Sample or preload the boundary register. -/
  | samplePreload (cells : SMap (BitVec 1))
  /-- EXTEST (R913): Drive pins from the boundary register. -/
  | extest
  /-- EXTEST_PULSE (R913): IEEE 1149.6 pulse test on AC-coupled pins. -/
  | extestPulse
  /-- EXTEST_TRAIN (R913): IEEE 1149.6 train test on AC-coupled pins. -/
  | extestTrain
  /-- CLAMP (R913): Hold pins from the boundary register with bypass selected. -/
  | clamp
  /-- HIGHZ (R913): Place outputs in high impedance. -/
  | highz
  /-- TAP_RESET (R912): The TAP resets on TRST_N low or VDDIO_18 rising. -/
  | tapReset
  /-- VDD_AON_RISE (R900): VDD_AON rises, resetting Insole and driving EN and MAIN_OFF low. -/
  | vddAonRise
  /-- INSOLE_POR_DONE (R900): Insole leaves power-on reset at 1 ms. -/
  | insolePorDone
  /-- PG_SOC_RISE (R900): PG_SOC rises and starts the EN sequence. -/
  | pgSocRise
  /-- EN_SEQUENCE_STEP (R900): Insole raises the next EN output at its fixed time. -/
  | enSequenceStep
  /-- PG_TIMEOUT (R901): A PG input not risen 150 µs after its EN shuts down the rails. -/
  | pgTimeout (n : Fin 14)
  /-- PG_CL_FALL (R902): A cluster power-good falls and the cluster is gated. -/
  | pgClFall (c : Fin 8)
  /-- PG_LOSS (R903): Another power-good falls and all domains but CK_AON stop. -/
  | pgLoss (n : Fin 14)
  /-- REFCLK_LOSS (R903): REFCLK stops and all domains but CK_AON stop. -/
  | refclkLoss
  /-- RESET_N_FALL (R836): RESET_N falls, ending a freeze and resetting the main device. -/
  | resetNFall
  /-- RESET_N_RISE (R646): RESET_N rises, straps are sampled and the boot ROM starts. -/
  | resetNRise
  /-- MAIN_RESTART (R905): After RESET_N low for 1 ms Insole lowers MAIN_OFF. -/
  | mainRestart
  /-- IMAGE_RECEIVE (R649): The last byte of a firmware image arrives and verification begins. -/
  | imageReceive (data : List Byte) (last : Bool)
  /-- IMAGE_VERIFY_DONE (R651): Verification accepts and starts firmware, or rejects the image. -/
  | imageVerifyDone
  /-- VDD_AON_LOSS (R897): VDD_AON is removed, every switched rail turns off and the device enters OFF. -/
  | vddAonLoss
  /-- FLL_LOCK (R695): Once the 32.768 kHz crystal has started, the frequency-locked loop locks the RC oscillator to it and sets AON.STATUS.FLL. -/
  | fllLock
  /-- AUD_MCLK_LOSS (R703): AUD_MCLK stops or CK_AUD loses lock, so the TDM ports stop, drive SDO low and count lost frames. -/
  | audMclkLoss
  /-- CK_AUD_LOCK (R696): AUD_MCLK returns and CK_AUD locks again, ending the stopped span of the TDM ports. -/
  | ckAudLock
  /-- PLL_LOCK (R588): After RESET_N rises, CK_CTL and the other PLLs lock, Slate starts counting from zero and the ROM runs. -/
  | pllLock
  /-- USB_IN_SERVICE (R633): The host services an IN stream or interrupt endpoint and takes a completion, host request, data transfer or event record, which frees its queue entry. -/
  | usbInService (ep : Fin 26)
  /-- USB_CONNECT (R610): VBUS is detected and the port connects and trains to the fastest speed that the host reaches. -/
  | usbConnect (speed : BitVec 3)
  /-- U3_SUSPEND (R609): The host places the USB link in U3 suspend, from which the part makes a remote wake when an event record is queued. -/
  | u3Suspend
  deriving DecidableEq, Repr

end Sys2Proof
end

