-- ==== Sys2Proof/Machine/Sparse.lean ====
section
/-! DEFINITION. The operations of the sparse maps, of byte memories in their canonical form, and of small lists. -/
namespace Sys2Proof

/-- The entry at key k, if one is listed. -/
def SMap.find {α : Type} (m : SMap α) (k : Nat) : Option α :=
  match m with
  | [] => none
  | (j, x) :: t => if j = k then some x else SMap.find t k

/-- The entry at key k, or d where none is listed. -/
def SMap.get {α : Type} (m : SMap α) (d : α) (k : Nat) : α :=
  (SMap.find m k).getD d

/-- The map with the entry at key k set to v; keys stay strictly rising. -/
def SMap.put {α : Type} (m : SMap α) (k : Nat) (v : α) : SMap α :=
  match m with
  | [] => [(k, v)]
  | (j, x) :: t => if k < j then (k, v) :: (j, x) :: t
      else if j = k then (k, v) :: t else (j, x) :: SMap.put t k v

/-- The map without an entry at key k. -/
def SMap.erase {α : Type} (m : SMap α) (k : Nat) : SMap α :=
  List.filter (fun e => e.1 != k) m

/-- The entry at key k updated by f, with d standing for an unlisted one. -/
def SMap.upd {α : Type} (m : SMap α) (d : α) (k : Nat) (f : α → α) : SMap α :=
  m.put k (f (m.get d k))

/-- Whether key k is listed. -/
def SMap.has {α : Type} (m : SMap α) (k : Nat) : Bool := (m.find k).isSome

/-- The listed keys, rising. -/
def SMap.keys {α : Type} (m : SMap α) : List Nat := List.map (fun e => e.1) m

/-- Every listed entry updated by f. -/
def SMap.mapV {α : Type} (m : SMap α) (f : Nat → α → α) : SMap α :=
  List.map (fun e => (e.1, f e.1 e.2)) m

/-- Keys strictly rising. -/
def SMap.Sorted {α : Type} (m : SMap α) : Bool :=
  match m with
  | [] => true
  | (j, _) :: t => t.all (fun e => decide (j < e.1)) && SMap.Sorted t

namespace Machine

/-- A byte memory: addresses strictly rising, and no entry equal to what an unlisted address reads as (log 8). -/
abbrev Memory := List Host.Cell

/-- What an address that nothing has written reads as: 0 (log 8, DESIGN CHOICE). -/
def Memory.blank : Byte := 0#8

/-- One byte of a memory. -/
def Memory.read (m : Memory) (a : Nat) : Byte := SMap.get m Memory.blank a

/-- The memory with one byte written; writing the blank value removes the entry, so the form stays canonical. -/
def Memory.write (m : Memory) (a : Nat) (b : Byte) : Memory :=
  if b = Memory.blank then SMap.erase m a else SMap.put m a b

/-- The canonical form: addresses strictly rising and no entry blank. -/
def Memory.wf (m : Memory) : Bool :=
  SMap.Sorted m && m.all (fun c => c.2 != Memory.blank)

/-- n bytes from address a. -/
def Memory.readN (m : Memory) (a : Nat) : Nat → List Byte
  | 0 => []
  | n + 1 => Memory.read m a :: Memory.readN m (a + 1) n

/-- A list of bytes written from address a, in ascending order. -/
def Memory.writeN (m : Memory) (a : Nat) : List Byte → Memory
  | [] => m
  | b :: t => Memory.writeN (Memory.write m a b) (a + 1) t

end Machine
end Sys2Proof
end

