-- ==== Sys2Proof/Machine/Bits.lean ====
section
/-! DEFINITION. Bit fields, byte order and sign extension: values are little-endian everywhere (R15). -/
namespace Sys2Proof.Machine

/-- Bits [lo + n - 1 : lo] of a natural number. -/
def bitsAt (v lo n : Nat) : Nat := (v >>> lo) % 2 ^ n

/-- Bit i of a natural number. -/
def bitAt (v i : Nat) : Bool := (v >>> i) % 2 == 1

/-- 1 for true. -/
def b2n (b : Bool) : Nat := if b then 1 else 0

/-- The value of a list of bytes, least significant first (R15). -/
def leVal : List Byte → Nat
  | [] => 0
  | b :: t => b.toNat + 256 * leVal t

/-- The n low bytes of a value, least significant first (R15). -/
def leBytes : Nat → Nat → List Byte
  | 0, _ => []
  | n + 1, v => BitVec.ofNat 8 v :: leBytes n (v / 256)

/-- The n low bytes of a value, most significant first. -/
def beBytes (n v : Nat) : List Byte := (leBytes n v).reverse

/-- The integer that n bits hold in two's complement. -/
def sextN (n v : Nat) : Int :=
  let u := v % 2 ^ n
  if u ≥ 2 ^ (n - 1) ∧ n ≠ 0 then (u : Int) - (2 ^ n : Nat) else (u : Int)

/-- The n-bit two's-complement encoding of an integer, wrapping. -/
def wrapN (n : Nat) (i : Int) : Nat := (i % ((2 ^ n : Nat) : Int)).toNat

/-- The nearest integer of the n-bit two's-complement range, and whether it differs (R136, R917, R920). -/
def satN (n : Nat) (i : Int) : Int × Bool :=
  let hi : Int := ((2 ^ (n - 1) : Nat) : Int) - 1
  let lo : Int := -((2 ^ (n - 1) : Nat) : Int)
  if i > hi then (hi, true) else if i < lo then (lo, true) else (i, false)

/-- The smallest multiple quotient: n divided by d, rounded up. -/
def ceilDiv (n d : Nat) : Nat := (n + d - 1) / d

/-- An exact integer shifted right by f bits, to nearest with ties away from zero (R116, R137). -/
def shiftRoundAway (i : Int) (f : Nat) : Int :=
  if f = 0 then i else
    let q : Nat := (i.natAbs + 2 ^ (f - 1)) / 2 ^ f
    if i < 0 then -(q : Int) else (q : Int)

/-- The numbers 0 to n − 1. -/
def upTo (n : Nat) : List Nat := List.range n

/-- n bytes of a list from position i, zero beyond its end. -/
def sliceB (l : List Byte) (i n : Nat) : List Byte :=
  let x := (l.drop i).take n
  x ++ List.replicate (n - x.length) 0#8

/-- The value of n bytes of a record from byte i. -/
def recN (l : List Byte) (i n : Nat) : Nat := leVal (sliceB l i n)

/-- Bits [lo + n - 1 : lo] of a record. -/
def recBits (l : List Byte) (lo n : Nat) : Nat := bitsAt (leVal (sliceB l (lo / 8) ((n + 7) / 8 + 1))) (lo % 8) n

/-- Whether the named bits of a record are all zero. -/
def recZero (l : List Byte) (lo n : Nat) : Bool := recBits l lo n == 0

/-- Lane i of a vector register (R54). -/
def lane (v : VReg) (i : Nat) : W32 := BitVec.ofNat 32 (v.toNat >>> (32 * i))

/-- The vector register whose lane i is f i (R54). -/
def ofLanes (f : Nat → W32) : VReg :=
  BitVec.ofNat 2048 ((upTo 64).foldl (fun acc i => acc + ((f i).toNat <<< (32 * i))) 0)

/-- The 256 bytes of a vector register, lane i in bytes 4i to 4i + 3 (R214). -/
def vregBytes (v : VReg) : List Byte := leBytes 256 v.toNat

/-- The vector register of a list of at most 256 bytes, zero beyond (R214). -/
def bytesVreg (l : List Byte) : VReg := BitVec.ofNat 2048 (leVal (l.take 256))

/-- The ASCII bytes of a label. -/
def ascii (t : String) : List Byte := t.toList.map (fun c => BitVec.ofNat 8 c.toNat)

/-- rdiv: the nearest integer of a quotient, ties away from zero. -/
def rdiv (a : Int) (b : Nat) : Int :=
  let q : Nat := if b = 0 then 0 else (2 * a.natAbs + b) / (2 * b)
  if a < 0 then -(q : Int) else (q : Int)

end Sys2Proof.Machine
end

