-- ==== Sys2Proof/Machine/Aes.lean ====
section
/-! DEFINITION. AES-256 of FIPS 197 with the modes that the spec's rules name: GCM of SP 800-38D and XTS of IEEE 1619 (R761, R764, R768,
R769); their text is the standards', not the spec's (log 13). -/
namespace Sys2Proof.Machine

/-! ### The field of 256 elements and the substitution -/

/-- The product by x in the field of AES. -/
def xtime (a : Byte) : Byte := (a <<< 1) ^^^ (if a.getLsbD 7 then 0x1B#8 else 0#8)

/-- A product in the field of AES. -/
def gfMul (a b : Byte) : Byte :=
  ((upTo 8).foldl (fun (acc : Byte × Byte) i => (if b.getLsbD i then acc.1 ^^^ acc.2 else acc.1, xtime acc.2)) (0#8, a)).1

/-- The inverse in the field, 0 of 0: the power 254. -/
def gfInv (a : Byte) : Byte :=
  ((upTo 7).foldl (fun (acc : Byte × Byte) _ => let q := gfMul acc.2 acc.2; (gfMul acc.1 q, q)) (1#8, a)).1

/-- The substitution of a byte. -/
def subByte (a : Byte) : Byte :=
  let b := gfInv a
  b ^^^ b.rotateLeft 1 ^^^ b.rotateLeft 2 ^^^ b.rotateLeft 3 ^^^ b.rotateLeft 4 ^^^ 0x63#8

/-- The inverse substitution. -/
def invSubByte (a : Byte) : Byte := gfInv (a.rotateLeft 1 ^^^ a.rotateLeft 3 ^^^ a.rotateLeft 6 ^^^ 0x05#8)

/-! ### Keys and blocks -/

/-- Byte by byte the sum of two strings. -/
def xorBytes (a b : List Byte) : List Byte := a.zipWith (fun x y => x ^^^ y) b

/-- The words of the key schedule from the i-th on, newest first; `rc` is the round constant that comes next. -/
def aesWords : Nat → Nat → Byte → List (List Byte) → List (List Byte)
  | 0, _, _, w => w
  | n + 1, i, rc, w =>
    let t := w.getD 0 []
    let old := w.getD 7 []
    if i % 8 = 0 then
      let u := ((t.drop 1) ++ (t.take 1)).map subByte
      aesWords n (i + 1) (xtime rc) (xorBytes old (xorBytes u [rc, 0#8, 0#8, 0#8]) :: w)
    else aesWords n (i + 1) rc (xorBytes old (if i % 8 = 4 then t.map subByte else t) :: w)

/-- The fifteen round keys of a 32-byte key. -/
def aesKeys (key : List Byte) : List (List Byte) :=
  let w := (aesWords 52 8 1#8 ((upTo 8).map (fun i => sliceB key (4 * i) 4)).reverse).reverse
  (upTo 15).map (fun i => ((w.drop (4 * i)).take 4).flatMap (fun x => x))

/-- The rows of a block rotated: row r by r columns, to the left or back. -/
def shiftRows (back : Bool) (b : List Byte) : List Byte :=
  (upTo 16).map (fun i => b.getD (i % 4 + 4 * ((i / 4 + (if back then 4 - i % 4 else i % 4)) % 4)) 0#8)

/-- The columns of a block multiplied by a circulant of four coefficients. -/
def mixColumns (m : List Byte) (b : List Byte) : List Byte :=
  (upTo 16).map (fun i => (upTo 4).foldl (fun v j =>
    v ^^^ gfMul (m.getD ((j + 4 - i % 4) % 4) 0#8) (b.getD (i / 4 * 4 + j) 0#8)) 0#8)

/-- The cipher on a block of 16 bytes. -/
def aesEnc (key block : List Byte) : List Byte :=
  match aesKeys key with
  | [] => block
  | k0 :: ks =>
    let s := (ks.take 13).foldl (fun s k =>
      xorBytes (mixColumns [2#8, 3#8, 1#8, 1#8] (shiftRows false (s.map subByte))) k) (xorBytes block k0)
    xorBytes (shiftRows false (s.map subByte)) (ks.getD 13 [])

/-- The inverse cipher on a block. -/
def aesDec (key block : List Byte) : List Byte :=
  match (aesKeys key).reverse with
  | [] => block
  | k0 :: ks =>
    let s := (ks.take 13).foldl (fun s k =>
      mixColumns [14#8, 11#8, 13#8, 9#8] (xorBytes ((shiftRows true s).map invSubByte) k)) (xorBytes block k0)
    xorBytes ((shiftRows true s).map invSubByte) (ks.getD 13 [])

/-! ### Galois/counter mode -/

/-- A string as a polynomial of degree below 128: the first bit is the constant term's. -/
def gcmPoly (l : List Byte) : BitVec 128 := BitVec.ofNat 128 (leVal (sliceB l 0 16).reverse)

/-- The product of two blocks in the field of 2^128 elements. -/
def gcmMul (x y : BitVec 128) : BitVec 128 :=
  ((upTo 128).foldl (fun (acc : BitVec 128 × BitVec 128) i =>
    (if x.getLsbD (127 - i) then acc.1 ^^^ acc.2 else acc.1,
     (acc.2 >>> 1) ^^^ (if acc.2.getLsbD 0 then 0xE1#128 <<< 120 else 0#128))) (0#128, y)).1

/-- The 16-byte blocks of a string, the last filled with zeros. -/
def blocksOf (l : List Byte) : List (List Byte) := (upTo (ceilDiv l.length 16)).map (fun i => sliceB l (16 * i) 16)

/-- The hash of additional data and ciphertext. -/
def ghash (h : BitVec 128) (aad ct : List Byte) : BitVec 128 :=
  (blocksOf aad ++ blocksOf ct ++ [beBytes 8 (8 * aad.length) ++ beBytes 8 (8 * ct.length)]).foldl (fun y b =>
    gcmMul (y ^^^ gcmPoly b) h) 0#128

/-- The key stream applied to a string, from counter 2 on. -/
def gcmCtr (key nonce l : List Byte) : List Byte :=
  (upTo (ceilDiv l.length 16)).flatMap (fun i =>
    xorBytes ((l.drop (16 * i)).take 16) (aesEnc key (nonce ++ beBytes 4 (i + 2))))

/-- The tag of additional data and ciphertext. -/
def gcmTag (key nonce aad ct : List Byte) : List Byte :=
  xorBytes (beBytes 16 (ghash (gcmPoly (aesEnc key (List.replicate 16 0#8))) aad ct).toNat) (aesEnc key (nonce ++ beBytes 4 1))

/-- AES-256-GCM sealing: ciphertext, then the tag of 16 bytes. -/
def gcmSeal (key : BitVec 256) (nonce : BitVec 96) (aad l : List Byte) : List Byte :=
  let k := leBytes 32 key.toNat
  let n := leBytes 12 nonce.toNat
  let ct := gcmCtr k n l
  ct ++ gcmTag k n aad ct

/-- AES-256-GCM opening: the plaintext when the tag verifies. -/
def gcmOpen (key : BitVec 256) (nonce : BitVec 96) (aad ct tag : List Byte) : Option (List Byte) :=
  let k := leBytes 32 key.toNat
  let n := leBytes 12 nonce.toNat
  if gcmTag k n aad ct = tag then some (gcmCtr k n ct) else none

/-! ### XTS -/

/-- The tweak of the next block: times x in the field of 2^128 elements. -/
def xtsNext (t : BitVec 128) : BitVec 128 := (t <<< 1) ^^^ (if t.getLsbD 127 then 0x87#128 else 0#128)

/-- The blocks of a data unit, each between two sums with its tweak. -/
def xtsBlocks (f : List Byte → List Byte) : Nat → BitVec 128 → List Byte → List Byte
  | 0, _, _ => []
  | n + 1, t, l =>
    let w := leBytes 16 t.toNat
    xorBytes (f (xorBytes (l.take 16) w)) w ++ xtsBlocks f n (xtsNext t) (l.drop 16)

/-- The first tweak of a data unit: the tweak value enciphered under the second key of the pair. -/
def xtsFirst (pair : BitVec 512) (tweak : BitVec 128) : BitVec 128 :=
  BitVec.ofNat 128 (leVal (aesEnc (leBytes 32 (pair.toNat / 2 ^ 256)) (leBytes 16 tweak.toNat)))

/-- AES-256-XTS over a data unit of whole blocks: key pair, tweak, plaintext. -/
def xtsEnc (pair : BitVec 512) (tweak : BitVec 128) (l : List Byte) : List Byte :=
  xtsBlocks (aesEnc (leBytes 32 pair.toNat)) (l.length / 16) (xtsFirst pair tweak) l

/-- The inverse. -/
def xtsDec (pair : BitVec 512) (tweak : BitVec 128) (l : List Byte) : List Byte :=
  xtsBlocks (aesDec (leBytes 32 pair.toNat)) (l.length / 16) (xtsFirst pair tweak) l

end Sys2Proof.Machine
end

