-- ==== Sys2Proof/Machine/Fp.lean ====
section
/-! DEFINITION. Exact floating values, the ten formats of Table FMT-1, the one rounding of the part, and conversion. -/
namespace Sys2Proof.Machine

/-- An exact value: a NaN, a signed infinity, or (-1)^neg × m × 2^e, zeros signed. -/
inductive Fp where
  | nan
  | inf (neg : Bool)
  | fin (neg : Bool) (m : Nat) (e : Int)
  deriving DecidableEq, Repr

/-- Positive zero. -/
def Fp.zero : Fp := .fin false 0 0

/-- One. -/
def Fp.one : Fp := .fin false 1 0

/-- The exact product: zero times infinity is NaN, the sign is the exclusive OR (R118, R133, R215). -/
def Fp.mul : Fp → Fp → Fp
  | .nan, _ => .nan
  | _, .nan => .nan
  | .inf s, .inf t => .inf (s != t)
  | .inf s, .fin t m _ => if m = 0 then .nan else .inf (s != t)
  | .fin s m _, .inf t => if m = 0 then .nan else .inf (s != t)
  | .fin s m e, .fin t n f => .fin (s != t) (m * n) (e + f)

/-- The integer multiple of 2^f that a finite value is, for f at most its exponent. -/
def scaledInt (neg : Bool) (m : Nat) (e f : Int) : Int :=
  let a : Nat := m * 2 ^ (e - f).toNat
  if neg then -(a : Int) else (a : Int)

/-- The exact sum: opposite infinities give NaN; an exact zero is +0 but for two −0 operands (R119, R133). -/
def Fp.add : Fp → Fp → Fp
  | .nan, _ => .nan
  | _, .nan => .nan
  | .inf s, .inf t => if s = t then .inf s else .nan
  | .inf s, .fin _ _ _ => .inf s
  | .fin _ _ _, .inf t => .inf t
  | .fin s m e, .fin t n f =>
    if m = 0 ∧ n = 0 then .fin (s && t) 0 0
    else if m = 0 then .fin t n f
    else if n = 0 then .fin s m e
    else
      let g := min e f
      let v := scaledInt s m e g + scaledInt t n f g
      .fin (decide (v < 0)) v.natAbs g

/-- The value with its sign reversed. -/
def Fp.neg : Fp → Fp
  | .nan => .nan
  | .inf s => .inf (!s)
  | .fin s m e => .fin (!s) m e

/-- Whether a value is NaN. -/
def Fp.isNan : Fp → Bool
  | .nan => true
  | _ => false

/-- Whether a value is an infinity. -/
def Fp.isInf : Fp → Bool
  | .inf _ => true
  | _ => false

/-- Whether a value is a zero of either sign. -/
def Fp.isZero : Fp → Bool
  | .fin _ 0 _ => true
  | _ => false

/-- The sign of a value. -/
def Fp.sign : Fp → Bool
  | .nan => false
  | .inf s => s
  | .fin s _ _ => s

/-- Strictly less, of two values that are not NaN; zeros are equal (R217). -/
def Fp.lt : Fp → Fp → Bool
  | .nan, _ => false
  | _, .nan => false
  | .inf s, .inf t => s && !t
  | .inf s, .fin _ _ _ => s
  | .fin _ _ _, .inf t => !t
  | .fin s m e, .fin t n f =>
    let g := min e f
    decide (scaledInt s m e g < scaledInt t n f g)

/-- Equal as values: zeros are equal, a NaN equals nothing (R217). -/
def Fp.eqv (x y : Fp) : Bool := !x.isNan && !y.isNan && !Fp.lt x y && !Fp.lt y x

/-- The layout of a floating format: mantissa bits, exponent of the smallest subnormal, the encoding of the largest
finite magnitude, width, the encoding of infinity where the format has one, and of the NaN (Table FMT-1). -/
structure Layout where
  mb : Nat
  elsb : Int
  maxE : Nat
  width : Nat
  infE : Option Nat
  nanE : Option Nat
  deriving DecidableEq, Repr

/-- FP32 (Table FMT-1). -/
def layFp32 : Layout := { mb := 23, elsb := -149, maxE := 0x7F7FFFFF, width := 32, infE := some 0x7F800000, nanE := some 0x7FC00000 }
/-- BF16 (Table FMT-1). -/
def layBf16 : Layout := { mb := 7, elsb := -133, maxE := 0x7F7F, width := 16, infE := some 0x7F80, nanE := some 0x7FC0 }
/-- FP16 (Table FMT-1). -/
def layFp16 : Layout := { mb := 10, elsb := -24, maxE := 0x7BFF, width := 16, infE := some 0x7C00, nanE := some 0x7E00 }
/-- FP8-E4M3 (Table FMT-1). -/
def layE4m3 : Layout := { mb := 3, elsb := -9, maxE := 0x7E, width := 8, infE := none, nanE := some 0x7F }
/-- FP8-E5M2 (Table FMT-1). -/
def layE5m2 : Layout := { mb := 2, elsb := -16, maxE := 0x7B, width := 8, infE := some 0x7C, nanE := some 0x7E }
/-- MXFP6-E2M3 (Table FMT-1). -/
def layE2m3 : Layout := { mb := 3, elsb := -3, maxE := 0x1F, width := 6, infE := none, nanE := none }
/-- MXFP4-E2M1 (Table FMT-1). -/
def layE2m1 : Layout := { mb := 1, elsb := -1, maxE := 0x7, width := 4, infE := none, nanE := none }

/-- The layout of a floating format code 0-6 (Table FMT-1). -/
def layOf : Nat → Layout
  | 0 => layFp32
  | 1 => layBf16
  | 2 => layFp16
  | 3 => layE4m3
  | 4 => layE5m2
  | 5 => layE2m3
  | _ => layE2m1

/-- The value that an encoding of a floating format has (Table FMT-1). -/
def decodeFp (l : Layout) (w : Nat) : Fp :=
  let neg := bitAt w (l.width - 1)
  let mag := w % 2 ^ (l.width - 1)
  let special : Bool := decide (mag > l.maxE)
  if special then
    match l.infE with
    | some i => if mag = i then .inf neg else .nan
    | none => .nan
  else
    let ex := mag >>> l.mb
    let ma := mag % 2 ^ l.mb
    if ex = 0 then .fin neg ma l.elsb
    else .fin neg (ma + 2 ^ l.mb) (l.elsb + ((ex - 1 : Nat) : Int))

/-- The magnitude encoding of m × 2^e rounded to nearest, ties away, as though the exponent had no upper limit
(R116, R121). -/
def encMag (l : Layout) (m : Nat) (e : Int) : Nat :=
  if m = 0 then 0 else
    let bits : Nat := Nat.log2 m + 1
    let q : Int := max (e + (bits : Int) - ((l.mb + 1 : Nat) : Int)) l.elsb
    let r : Nat :=
      if q ≤ e then m * 2 ^ (e - q).toNat
      else
        let s := (q - e).toNat
        (m + 2 ^ (s - 1)) / 2 ^ s
    (q - l.elsb).toNat * 2 ^ l.mb + r

/-- The encoding with its sign. -/
def withSign (l : Layout) (neg : Bool) (mag : Nat) : Nat := if neg then 2 ^ (l.width - 1) + mag else mag

/-- Rounding to FP32 from arithmetic: overflow gives infinity, a NaN the canonical NaN (Table FMT-2, R117, R120). -/
def roundFp32 : Fp → W32
  | .nan => 0x7FC00000#32
  | .inf s => if s then 0xFF800000#32 else 0x7F800000#32
  | .fin s m e =>
    let g := encMag layFp32 m e
    BitVec.ofNat 32 (withSign layFp32 s (if g > layFp32.maxE then 0x7F800000 else g))

/-- The value of an FP32 encoding. -/
def fp (w : W32) : Fp := decodeFp layFp32 w.toNat

/-- One value rounded to FP32, as a value. -/
def rnd (x : Fp) : Fp := fp (roundFp32 x)

/-- Rounded FP32 sum of two encodings. -/
def addW (a b : W32) : W32 := roundFp32 ((fp a).add (fp b))
/-- Rounded FP32 product of two encodings. -/
def mulW (a b : W32) : W32 := roundFp32 ((fp a).mul (fp b))
/-- Rounded FP32 difference of two encodings. -/
def subW (a b : W32) : W32 := roundFp32 ((fp a).add (fp b).neg)
/-- A × B + C with one rounding. -/
def fmaW (a b c : W32) : W32 := roundFp32 (((fp a).mul (fp b)).add (fp c))

/-- A NaN encoding of FP32. -/
def isNanW (a : W32) : Bool := (fp a).isNan
/-- An infinity of FP32. -/
def isInfW (a : W32) : Bool := (fp a).isInf

/-- Conversion of a value into a floating format code 1-6 (R121, R122, Table FMT-2), and whether it saturates
(R917). An MX element of a NaN is 0: the block's scale carries it. -/
def convFp (code : Nat) (x : Fp) : Nat × Bool :=
  let l := layOf code
  match x with
  | .nan => (match l.nanE with | some n => n | none => 0, false)
  | .inf s =>
    match l.infE with
    | some i => (withSign l s i, false)
    | none => (withSign l s l.maxE, true)
  | .fin s m e =>
    let g := encMag l m e
    if g > l.maxE then
      if code = 4 then (withSign l s 0x7C, false) else (withSign l s l.maxE, true)
    else (withSign l s g, false)

/-- A value rounded to an integer, ties away (R116); none for a NaN or an infinity. -/
def Fp.toInt : Fp → Option Int
  | .fin s m e =>
    let a : Nat := if e ≥ 0 then m * 2 ^ e.toNat
      else (m + 2 ^ ((-e).toNat - 1)) / 2 ^ (-e).toNat
    some (if s then -(a : Int) else (a : Int))
  | _ => none

/-- The width of an integer format code 7-9 (Table FMT-1). -/
def intWidth : Nat → Nat
  | 7 => 8
  | 8 => 4
  | _ => 16

/-- Conversion of a value into an n-bit integer (R121, R122, Table FMT-2), and whether it saturates (R917). -/
def convInt (n : Nat) (x : Fp) : Int × Bool :=
  match x with
  | .nan => (0, false)
  | .inf s => (if s then -((2 ^ (n - 1) : Nat) : Int) else ((2 ^ (n - 1) : Nat) : Int) - 1, true)
  | .fin s m e => satN n ((Fp.toInt (.fin s m e)).getD 0)

/-- The exact value of an integer. -/
def Fp.ofInt (i : Int) : Fp := .fin (decide (i < 0)) i.natAbs 0

/-- Minimum and maximum of FP32 lanes: NaN if any is, −0 below +0 (R216). -/
def fpKey (w : W32) : Int :=
  let mag : Nat := w.toNat % 2 ^ 31
  if bitAt w.toNat 31 then -(mag : Int) - 1 else (mag : Int)

/-- Minimum of two FP32 lanes (R216). -/
def minW (a b : W32) : W32 :=
  if isNanW a || isNanW b then 0x7FC00000#32 else if fpKey b < fpKey a then b else a

/-- Maximum of two FP32 lanes (R216). -/
def maxW (a b : W32) : W32 :=
  if isNanW a || isNanW b then 0x7FC00000#32 else if fpKey a < fpKey b then b else a

/-- The pairwise tree of R132 over a list of exact leaves: adjacent pairs, each sum rounded to FP32, one level. -/
def treeLevel : List Fp → List Fp
  | a :: b :: t => rnd (a.add b) :: treeLevel t
  | l => l

/-- The root of the pairwise tree, n levels (R132). -/
def treeSum : Nat → List Fp → Fp
  | 0, l => l.headD Fp.zero
  | n + 1, l => treeSum n (treeLevel l)

/-- The exact real sum of a list of products (R128). -/
def exactSum (l : List Fp) : Fp :=
  match l with
  | [] => .fin true 0 0
  | x :: t => t.foldl Fp.add x

end Sys2Proof.Machine
end

