-- ==== Sys2Proof/Machine/Keccak.lean ====
section
/-! DEFINITION. The Keccak permutation and the functions of FIPS 202 that the spec's rules name (R651, R749, R756, R760, R764, R768);
their text is the standard's, not the spec's (log 13). -/
namespace Sys2Proof.Machine

/-! ### The permutation -/

/-- Lane (x, y) of a state of 25 lanes; coordinates count modulo 5. -/
def kLane (a : List (BitVec 64)) (x y : Nat) : BitVec 64 := a.getD (x % 5 + 5 * (y % 5)) 0#64

/-- A state made lane by lane. -/
def kState (f : Nat → Nat → BitVec 64) : List (BitVec 64) := (upTo 25).map (fun i => f (i % 5) (i / 5))

/-- By how much step ρ rotates each lane. -/
def rhoBy : List Nat :=
  [0, 1, 62, 28, 27, 36, 44, 6, 55, 20, 3, 10, 43] ++ [25, 39, 41, 45, 15, 21, 8, 18, 2, 61, 56, 14]

/-- The constants of step ι. -/
def iotaOf : List (BitVec 64) :=
  [0x0000000000000001#64, 0x0000000000008082#64, 0x800000000000808A#64, 0x8000000080008000#64, 0x000000000000808B#64,
   0x0000000080000001#64, 0x8000000080008081#64, 0x8000000000008009#64, 0x000000000000008A#64, 0x0000000000000088#64,
   0x0000000080008009#64, 0x000000008000000A#64] ++
  [0x000000008000808B#64, 0x800000000000008B#64, 0x8000000000008089#64, 0x8000000000008003#64, 0x8000000000008002#64,
   0x8000000000000080#64, 0x000000000000800A#64, 0x800000008000000A#64, 0x8000000080008081#64, 0x8000000000008080#64,
   0x0000000080000001#64, 0x8000000080008008#64]

/-- One round: θ, ρ and π, χ, ι. -/
def keccakRound (a : List (BitVec 64)) (rc : BitVec 64) : List (BitVec 64) :=
  let c := (upTo 5).map (fun x => (upTo 5).foldl (fun v y => v ^^^ kLane a x y) 0#64)
  let t := kState (fun x y => kLane a x y ^^^ kLane c (x + 4) 0 ^^^ (kLane c (x + 1) 0).rotateLeft 1)
  let b := kState (fun x y => (kLane t (x + 3 * y) x).rotateLeft (rhoBy.getD ((x + 3 * y) % 5 + 5 * x) 0))
  let e := kState (fun x y => kLane b x y ^^^ (~~~(kLane b (x + 1) y) &&& kLane b (x + 2) y))
  match e with
  | [] => []
  | l :: r => (l ^^^ rc) :: r

/-- Keccak-f[1600]: 24 rounds. -/
def keccakF (a : List (BitVec 64)) : List (BitVec 64) := iotaOf.foldl keccakRound a

/-! ### The sponge -/

/-- A block added into a state. -/
def addRate (a : List (BitVec 64)) (m : List Byte) : List (BitVec 64) :=
  kState (fun x y => kLane a x y ^^^ BitVec.ofNat 64 (recN m (8 * (x + 5 * y)) 8))

/-- n blocks of r bytes absorbed. -/
def absorb (r : Nat) : Nat → List Byte → List (BitVec 64) → List (BitVec 64)
  | 0, _, a => a
  | n + 1, m, a => absorb r n (m.drop r) (keccakF (addRate a (m.take r)))

/-- n blocks of r bytes squeezed. -/
def squeeze (r : Nat) : Nat → List (BitVec 64) → List Byte
  | 0, _ => []
  | n + 1, a => (a.flatMap (fun l => leBytes 8 l.toNat)).take r ++ squeeze r n (keccakF a)

/-- n bytes of the sponge of rate r over a message, with the suffix that tells the functions apart. -/
def sponge (r : Nat) (suffix : Byte) (m : List Byte) (n : Nat) : List Byte :=
  let z := r - 1 - m.length % r
  let p := m ++ (if z = 0 then [suffix ||| 0x80#8] else suffix :: List.replicate (z - 1) 0#8 ++ [0x80#8])
  (squeeze r (ceilDiv n r) (absorb r (p.length / r) p (kState (fun _ _ => 0#64)))).take n

/-! ### The functions -/

/-- n bytes of SHAKE256. -/
def shakeN (m : List Byte) (n : Nat) : List Byte := sponge 136 0x1F#8 m n

/-- n bytes of SHAKE128. -/
def shake128 (m : List Byte) (n : Nat) : List Byte := sponge 168 0x1F#8 m n

/-- SHA3-256. -/
def sha3 (m : List Byte) : List Byte := sponge 136 0x06#8 m 32

/-- SHA3-512. -/
def sha3Long (m : List Byte) : List Byte := sponge 72 0x06#8 m 64

/-- SHAKE256 with 256 bits of output. -/
def shake256 (m : List Byte) : BitVec 256 := BitVec.ofNat 256 (leVal (shakeN m 32))

/-- SHAKE256 with 512 bits of output. -/
def shake512 (m : List Byte) : BitVec 512 := BitVec.ofNat 512 (leVal (shakeN m 64))

end Sys2Proof.Machine
end

