-- ==== Sys2Proof/Machine/Kem.lean ====
section
/-! DEFINITION. ML-KEM-1024 of FIPS 203: the key pair that the root secret gives, and decapsulation (R749, R760, R768); its text is the
standard's, not the spec's (log 13). -/
namespace Sys2Proof.Machine

/-! ### Polynomials of 256 coefficients modulo 3329 -/

/-- The modulus. -/
def kemQ : Nat := 3329

/-- The sum of two polynomials. -/
def polyAdd (f g : List Nat) : List Nat := f.zipWith (fun a b => (a + b) % kemQ) g

/-- The difference of two polynomials. -/
def polySub (f g : List Nat) : List Nat := f.zipWith (fun a b => (a + kemQ - b) % kemQ) g

/-- A polynomial times a constant. -/
def polyScale (c : Nat) (f : List Nat) : List Nat := f.map (fun a => c * a % kemQ)

/-- The seven bits of a number in reverse order. -/
def rev7 (i : Nat) : Nat := (upTo 7).foldl (fun v b => 2 * v + i / 2 ^ b % 2) 0

/-- A power of the root 17, of order 256. -/
def kemRoot (e : Nat) : Nat := (upTo (e % 256)).foldl (fun v _ => 17 * v % kemQ) 1

/-- The transform of a part of a polynomial, d levels down from node k. -/
def nttFrom : Nat → Nat → List Nat → List Nat
  | 0, _, f => f
  | d + 1, k, f =>
    let n := f.length / 2
    let hi := polyScale (kemRoot (rev7 k)) (f.drop n)
    nttFrom d (2 * k) (polyAdd (f.take n) hi) ++ nttFrom d (2 * k + 1) (polySub (f.take n) hi)

/-- The inverse, but for the factor of 128. -/
def nttBack : Nat → Nat → List Nat → List Nat
  | 0, _, f => f
  | d + 1, k, f =>
    let n := f.length / 2
    let lo := nttBack d (2 * k) (f.take n)
    let hi := nttBack d (2 * k + 1) (f.drop n)
    polyAdd lo hi ++ polyScale (kemRoot (256 - rev7 k)) (polySub lo hi)

/-- The number-theoretic transform. -/
def ntt (f : List Nat) : List Nat := nttFrom 7 1 f

/-- Its inverse. -/
def unNtt (f : List Nat) : List Nat := polyScale 3303 (nttBack 7 1 f)

/-- The product of two transformed polynomials, pair by pair. -/
def nttMul (f g : List Nat) : List Nat :=
  (upTo 128).flatMap (fun i =>
    let a (j : Nat) : Nat := f.getD (2 * i + j) 0
    let b (j : Nat) : Nat := g.getD (2 * i + j) 0
    [(a 0 * b 0 + a 1 * b 1 % kemQ * kemRoot (2 * rev7 i + 1)) % kemQ, (a 0 * b 1 + a 1 * b 0) % kemQ])

/-- The zero polynomial. -/
def polyZero : List Nat := List.replicate 256 0

/-- The sum of products of two vectors of transformed polynomials. -/
def nttDot (v w : List (List Nat)) : List Nat := (v.zipWith nttMul w).foldl polyAdd polyZero

/-! ### Bytes and samples -/

/-- Coefficients of d bits as bytes. -/
def polyBytes (d : Nat) (f : List Nat) : List Byte := leBytes (32 * d) (f.foldr (fun a v => a % 2 ^ d + 2 ^ d * v) 0)

/-- Bytes as coefficients of d bits. -/
def bytesPoly (d : Nat) (l : List Byte) : List Nat :=
  let v := leVal l
  (upTo 256).map (fun i => bitsAt v (d * i) d)

/-- Coefficients compressed to d bits, to nearest. -/
def compress (d : Nat) (f : List Nat) : List Nat := f.map (fun a => (2 ^ (d + 1) * a + kemQ) / (2 * kemQ) % 2 ^ d)

/-- Coefficients of d bits spread over the modulus, to nearest. -/
def decompress (d : Nat) (f : List Nat) : List Nat := f.map (fun a => (2 * kemQ * a + 2 ^ d) / 2 ^ (d + 1))

/-- The values below the modulus in a stream of twelve-bit numbers. -/
def below : List Byte → List Nat
  | a :: b :: c :: t =>
    [a.toNat + 256 * (b.toNat % 16), b.toNat / 16 + 16 * c.toNat].filter (fun x => decide (x < kemQ)) ++ below t
  | _ => []

/-- The transformed polynomial (i, j) of the public matrix, out of the seed's stream. -/
def kemMatrix (rho : List Byte) (i j : Nat) : List Nat :=
  (below (shake128 (rho ++ [BitVec.ofNat 8 j, BitVec.ofNat 8 i]) 1344)).take 256

/-- Small coefficients: differences of two sums of two bits. -/
def kemNoise (seed : List Byte) (n : Nat) : List Nat :=
  let v := leVal (shakeN (seed ++ [BitVec.ofNat 8 n]) 128)
  (upTo 256).map (fun i =>
    let b (j : Nat) : Nat := bitsAt v (4 * i + j) 1
    (b 0 + b 1 + kemQ - b 2 - b 3) % kemQ)

/-! ### The scheme, in dimension four -/

/-- The encapsulation key, and the secret vector, of a seed d. -/
def kemKeys (d : List Byte) : List Byte × List (List Nat) :=
  let g := sha3Long (d ++ [4#8])
  let rho := g.take 32
  let sec := (upTo 4).map (fun i => ntt (kemNoise (g.drop 32) i))
  let pub := (upTo 4).map (fun i =>
    polyAdd (nttDot ((upTo 4).map (kemMatrix rho i)) sec) (ntt (kemNoise (g.drop 32) (4 + i))))
  (pub.flatMap (polyBytes 12) ++ rho, sec)

/-- The encryption of a message under a key with the coins r. -/
def kemEnc (ek m r : List Byte) : List Byte :=
  let pub := (upTo 4).map (fun i => (bytesPoly 12 ((ek.drop (384 * i)).take 384)).map (fun a => a % kemQ))
  let rho := ek.drop 1536
  let y := (upTo 4).map (fun i => ntt (kemNoise r i))
  let u := (upTo 4).map (fun i =>
    polyAdd (unNtt (nttDot ((upTo 4).map (fun j => kemMatrix rho j i)) y)) (kemNoise r (4 + i)))
  let v := polyAdd (polyAdd (unNtt (nttDot pub y)) (kemNoise r 8)) (decompress 1 (bytesPoly 1 m))
  u.flatMap (fun f => polyBytes 11 (compress 11 f)) ++ polyBytes 5 (compress 5 v)

/-- The message of a ciphertext. -/
def kemDec (sec : List (List Nat)) (c : List Byte) : List Byte :=
  let u := (upTo 4).map (fun i => ntt (decompress 11 (bytesPoly 11 ((c.drop (352 * i)).take 352))))
  let v := decompress 5 (bytesPoly 5 (c.drop 1408))
  polyBytes 1 (compress 1 (polySub v (unNtt (nttDot sec u))))

/-- The seeds (d, z) of the part's key pair (Table SEC-1). -/
def kemSeeds (rs : BitVec 256) : List Byte := shakeN (leBytes 32 rs.toNat ++ ascii "TQ64 KEM") 64

/-- The encapsulation key EK (Table SEC-1). -/
def encapKey (rs : BitVec 256) : List Byte := (kemKeys ((kemSeeds rs).take 32)).1

/-- Decapsulation of c under DK: the shared secret, or the value of implicit rejection (R760, R768). -/
def kemDecap (rs : BitVec 256) (c : List Byte) : BitVec 256 :=
  let k := kemKeys ((kemSeeds rs).take 32)
  let m := kemDec k.2 c
  let g := sha3Long (m ++ sha3 k.1)
  let ss := if kemEnc k.1 m (g.drop 32) = c then g.take 32 else shakeN ((kemSeeds rs).drop 32 ++ c) 32
  BitVec.ofNat 256 (leVal ss)

end Sys2Proof.Machine
end

