-- ==== Sys2Proof/Config.lean ====
section
/-! DEFINITION. What an implementation fixes and what the manual leaves open: constants with no body, so that every claim holds for every value of them. -/
namespace Sys2Proof.Config

/-- A fresh open value, applied to an index that a counter of the partition or of the device gives: undefined outcomes of R107
(log 5). -/
opaque freeValue : Nat → BitVec 64
/-- The bank of an HBM channel that holds a row of it: no rule states it (R455, log 22). -/
opaque hbmBank : Nat → Nat
/-- A fresh open byte of an undefined memory content of R107; the second argument is the byte's index (log 5). -/
opaque freeByte : Nat → Nat → BitVec 8
/-- A fresh open 32-bit element of an undefined matrix result of R107 (log 5). -/
opaque freeWord : Nat → Nat → BitVec 32
/-- Where the threads of a STEP begin, by the argument block's address: no rule states it (log 11). -/
opaque stepEntry : BitVec 64 → BitVec 64
/-- Pages of the KV pool of a job, by partition and job: no command states it (log 12). -/
opaque kvPoolPages : Nat → Nat → Nat
/-- Where the KV pool of a job begins (POOL of R358), by partition and job; stated nowhere (log 12). -/
opaque kvPool : Nat → Nat → Nat
/-- Bytes between the layers of a pool (LSTRIDE of R358, log 12). -/
opaque kvLayerStride : Nat → Nat → Nat
/-- Bytes between the pages of a pool (PSTRIDE of R358, log 12). -/
opaque kvPageStride : Nat → Nat → Nat
/-- Layers of a pool (log 12). -/
opaque kvLayers : Nat → Nat → Nat
/-- Bytes of a page of one layer (R356, log 12). -/
opaque kvPageBytes : Nat → Nat → Nat
/-- Where the page list of a sequence lies (R359), by partition, job and sequence (log 12). -/
opaque kvList : Nat → Nat → Nat → Nat
/-- The PUF helper data and the check value of the root secret, as the flash holds them, given what has been written to it; none when they
cannot be read (R748, log 13). -/
opaque pufHelper : List (Nat × Byte) → Option (List Byte × BitVec 256)
/-- What an attempt at reconstruction yields: boot, attempt, helper data (R748, log 13). -/
opaque pufTry : Nat → Nat → List Byte → BitVec 256
/-- The 64-bit boot value drawn at the n-th boot (R752, log 13). -/
opaque bootValue : Nat → BitVec 64
/-- Whether the entropy source passes its health tests (R888, log 13). -/
opaque drbgGood : Bool
/-- The value that the signer draws for a signature, which FIPS 205 leaves to it; the n-th drawn (R754, log 13). -/
opaque signRand : Nat → BitVec 256
/-- The vendor key hash held in the ROM (R651, log 13). -/
opaque vendorKeyHash : BitVec 256
/-- The bits of a scan chain's register positions, in Fenevehan's scan map (R838, R839, log 14). -/
opaque scanChain : Nat → BitVec 16 → List Bool
/-- The device address of the SRAM word that a MEM_OUT value names, and the check bits of a word: neither encoding is stated
(R838, log 14). -/
opaque memOutAddr : BitVec 72 → Nat
opaque checkBits : BitVec 64 → BitVec 8
/-- The image of the cluster controllers that a firmware image carries (R801): its place in BODY is not stated (log 15). -/
opaque ctlImage : List Byte → List Byte
/-- The entry of the cluster-controller image (R801, log 15). -/
opaque ctlEntry : List Byte → BitVec 64

/-- The contents of the package flash as it leaves Fenevehan and the board maker, by offset (R654, log 8). -/
opaque factoryByte : Nat → Byte
/-- The timestamp latencies of the calibration region, given what has been written to the flash: ETH_TX_LAT, ETH_RX_LAT, LTX_LAT0 to
LTX_LAT6, LRX_LAT0 to LRX_LAT6; their places in the region are not stated (R596, R601, R915, log 60). -/
opaque latency : List (Nat × Byte) → Nat → BitVec 24
/-- The serial number, the ordering code and the identity certificate of the flash header, whose places in it no rule states
(R751, R754, log 8). -/
opaque serialNo : List Byte
opaque orderCode : List Byte
opaque idCert : List Byte

end Sys2Proof.Config
end

