-- ==== Sys2Proof/Machine/State.lean ====
section
/-! DEFINITION. The state of the device: plain data, holding all the state the spec names; its reset; the model's stops. -/
namespace Sys2Proof.Machine

/-- Thread states of Table PGM-1 (R48). -/
inductive ThState where
  | free | ready | waitMem | waitSync | waitMtx | halted
  deriving DecidableEq, Repr

/-- What a waiting thread waits for (Table PGM-1, R200, R206, R229, R271, R286). -/
inductive Wait where
  | none
  | load
  | fetch
  | fence
  | dma (tag : Nat)
  | dmaReg (tag : Nat) (reg : Nat)
  | barrier (job : Bool)
  | clap (count : Nat)
  | slot (n : Nat)
  | mtx
  | mwait
  | ending
  | page (va : Nat)
  deriving DecidableEq, Repr

/-- Forms of DMA operation (R224, R233). -/
inductive DmaKind where
  | copy | desc | move | splice
  deriving DecidableEq, Repr

/-- Function states (R612, R638, R642). -/
inductive FuncSt where
  | off | operating | draining
  deriving DecidableEq, Repr

/-- Fault record of one thread, sub-block FAULTt (R282, R890). -/
structure FaultRec where
  /-- Fault code (R277 R890). -/
  code : BitVec 8
  /-- 1: the record holds a halt (R890). -/
  v : Bool
  /-- Program counter at which the thread halted (R282 R890). -/
  pc : BitVec 48
  /-- Address of the faulting queue entry of a deferred fault (R282 R890). -/
  entry : BitVec 48
  /-- Faulting virtual address (R282 R923). -/
  va : BitVec 48
  /-- TRAP immediate (R275 R282). -/
  imm : BitVec 32
  deriving DecidableEq, Repr

/-- The reset value of FaultRec. -/
def FaultRec.init : FaultRec where
  code := 0#8
  v := false
  pc := 0#48
  entry := 0#48
  va := 0#48
  imm := 0#32

/-- One held DMA tag of a thread (R225, R229). -/
structure TagSt where
  /-- MODEL: which operation of the core holds the tag (R225). -/
  serial : Nat
  /-- FCODE and STATUS once the operation completed (R229). -/
  done : Option (BitVec 16)
  deriving DecidableEq, Repr

/-- The reset value of TagSt. -/
def TagSt.init : TagSt where
  serial := 0
  done := none

/-- The load a thread waits for (R53). -/
structure PendLoad where
  /-- Destination register (R53). -/
  reg : BitVec 5
  /-- Destination is a vector register (R214). -/
  vec : Bool
  /-- Bytes to read (R191 R214). -/
  bytes : Nat
  /-- Sign-extend (R191). -/
  sext : Bool
  /-- Virtual address (R191). -/
  va : BitVec 64
  /-- MODEL: cluster cycle at which its data are due at their nominal latency (R426). -/
  due : Nat
  deriving DecidableEq, Repr

/-- The reset value of PendLoad. -/
def PendLoad.init : PendLoad where
  reg := 0#5
  vec := false
  bytes := 0
  sext := false
  va := 0#64
  due := 0

/-- One hardware thread (R44-R56). -/
structure Thread where
  /-- Table PGM-1 state (R48). -/
  st : ThState
  /-- What the thread waits for (R48). -/
  wait : Wait
  /-- Program counter (R56 R195). -/
  pc : BitVec 64
  /-- G1 to g31 (g0 reads zero) (R54 R55). -/
  gr : SMap (BitVec 64)
  /-- V0 to v15 (R54). -/
  vr : SMap VReg
  /-- VSAT, VNAN, VINF of the thread status word (R276). -/
  sticky : BitVec 8
  /-- Held tags (R225 R276). -/
  tags : SMap TagSt
  /-- Vector registers left pending by queue entries (R51 R173 R376). -/
  pendV : List Nat
  /-- The load in flight (R53). -/
  load : Option PendLoad
  /-- Deferred fault not yet taken: code, entry address, va (R279 R282). -/
  deferred : Option (BitVec 8 × BitVec 48 × BitVec 48)
  /-- Fault record (R282). -/
  flt : FaultRec
  /-- 128-byte block held in the fetch buffer (R199). -/
  fcur : Option (BitVec 64)
  /-- Next sequential block, arrived (R199). -/
  fnext : Option (BitVec 64)
  /-- Blocks requested and not arrived (R199 R200). -/
  freq : List (BitVec 64)
  /-- Instructions of the block held (R199). -/
  fwords : List (BitVec 64)
  /-- Instructions of the next block, arrived (R199). -/
  fnwords : List (BitVec 64)
  /-- The Reel chunk the thread runs (R336). -/
  chunk : Option Nat
  /-- Ended by the supervisor (R284 R288). -/
  supEnd : Bool
  /-- END (or a supervisor end) waits for entries and DMA (R286). -/
  ending : Bool
  /-- Slate ns at its start (R810). -/
  startNs : BitVec 64
  /-- Slate ns at which it became FREE (R810). -/
  freeNs : BitVec 64
  deriving DecidableEq, Repr

/-- The reset value of Thread. -/
def Thread.init : Thread where
  st := .free
  wait := .none
  pc := 0#64
  gr := []
  vr := []
  sticky := 0#8
  tags := []
  pendV := []
  load := none
  deferred := none
  flt := FaultRec.init
  fcur := none
  fnext := none
  freq := []
  fwords := []
  fnwords := []
  chunk := none
  supEnd := false
  ending := false
  startNs := 0#64
  freeNs := 0#64

/-- One accumulator slot acc0-acc7 (R57-R65, R134, R139). -/
structure Slot where
  /-- Owning thread (R57). -/
  owner : Option Nat
  /-- Reel the slot is bound to (R65). -/
  reel : Option Nat
  /-- Accumulator kind (R134). -/
  kind : BitVec 2
  /-- 1: non-canonical (R139 R157). -/
  mode : Bool
  /-- First K-block index (R139). -/
  base : BitVec 12
  /-- Blocks added (R139). -/
  count : Nat
  /-- Occupied levels (R139). -/
  mask : BitVec 13
  /-- Chain tag (R139). -/
  tag : BitVec 32
  /-- Sticky saturation (R139). -/
  sat : Bool
  /-- Operand format code (R154). -/
  fmt : BitVec 4
  /-- Binary point of WIDE (R134). -/
  f : BitVec 6
  /-- FP32 entries, key 4096*level + 64*row + col; level 12 is the accumulator (R139). -/
  lad : SMap (BitVec 32)
  /-- Integer sums (R134). -/
  acc : SMap (BitVec 64)
  deriving DecidableEq, Repr

/-- The reset value of Slot. -/
def Slot.init : Slot where
  owner := none
  reel := none
  kind := 0#2
  mode := false
  base := 0#12
  count := 0
  mask := 0#13
  tag := 0#32
  sat := false
  fmt := 0#4
  f := 0#6
  lad := []
  acc := []

/-- One stationary buffer (R245, R253). -/
structure StatBuf where
  /-- Format of the MLOADW that last filled it, none since job start (R253). -/
  fmt : Option (BitVec 4)
  /-- Tile rows, packed as Table FMT-3, by output column (R245). -/
  rows : SMap (List (BitVec 8))
  deriving DecidableEq, Repr

/-- The reset value of StatBuf. -/
def StatBuf.init : StatBuf where
  fmt := none
  rows := []

/-- One fusion-table entry (R303). -/
structure FusEntry where
  /-- Activation code (R303). -/
  act : Nat
  /-- Column scales (R303). -/
  scale : Option (SMap (BitVec 32))
  /-- Column biases (R303). -/
  bias : Option (SMap (BitVec 32))
  /-- Gate code (R303). -/
  gate : Nat
  /-- Output format code (R303). -/
  ofmt : Nat
  /-- Clamp lower bound (R303). -/
  lo : BitVec 32
  /-- Clamp upper bound (R303). -/
  hi : BitVec 32
  deriving DecidableEq, Repr

/-- The reset value of FusEntry. -/
def FusEntry.init : FusEntry where
  act := 0
  scale := none
  bias := none
  gate := 0
  ofmt := 0
  lo := 0#32
  hi := 0#32

/-- One array-queue entry (R242-R244). -/
structure QEntry where
  /-- MODEL: issue order number (R243). -/
  serial : Nat
  /-- Issuing thread (R242). -/
  thr : Nat
  /-- Address of the issuing instruction (R282). -/
  pc : BitVec 48
  /-- Instruction word (R237). -/
  w : BitVec 64
  /-- Value of register A at issue (R241). -/
  va : BitVec 64
  /-- Value of register B at issue (R241). -/
  vb : BitVec 64
  /-- Value of register C at issue (R241). -/
  vc : BitVec 64
  /-- Row-sum register read at issue (R176). -/
  rs : VReg
  /-- Descriptor read at issue (R318 R373 R416). -/
  desc : List (BitVec 8)
  /-- Reel whose state REC.RUN runs on (R318). -/
  reel : Option Nat
  /-- Operands read from memory when the entry began (R163 R176 R249 R303). -/
  opnd : List (BitVec 8)
  /-- Stationary buffer read when an MMUL began (R249). -/
  tile : SMap (List (BitVec 8))
  /-- Entry has begun (R243). -/
  begun : Bool
  /-- A write met an operand it had not read: result undefined (R107). -/
  tainted : Bool
  /-- Occupancy in cluster cycles (R270 R393). -/
  cycles : Nat
  /-- Bytes of the coded blocks, as the expander decoded them at the begin (R481). -/
  sizes : List Nat
  /-- MODEL: cluster cycle at which the entry ends without stalls (R426). -/
  due : Nat
  deriving DecidableEq, Repr

/-- The reset value of QEntry. -/
def QEntry.init : QEntry where
  serial := 0
  thr := 0
  pc := 0#48
  w := 0#64
  va := 0#64
  vb := 0#64
  vc := 0#64
  rs := 0#2048
  desc := []
  reel := none
  opnd := []
  tile := []
  begun := false
  tainted := false
  cycles := 0
  sizes := []
  due := 0

/-- One operation of a core's DMA engine (R224, R227). -/
structure DmaOp where
  /-- MODEL: issue order number (R227). -/
  serial : Nat
  /-- Issuing thread (R225). -/
  thr : Nat
  /-- Its tag (R225). -/
  tag : Nat
  /-- Form (R224 R233). -/
  kind : DmaKind
  /-- Destination of DMA.COPY, range of MOVE (R224). -/
  dst : BitVec 64
  /-- Source of DMA.COPY (R224). -/
  src : BitVec 64
  /-- Bytes (R224). -/
  len : BitVec 64
  /-- Destination home of MOVE (R234). -/
  dest : BitVec 8
  /-- Descriptor or Splice plan, read at issue (R233 R511). -/
  desc : List (BitVec 8)
  /-- Host MOVE command behind the operation (R621). -/
  hostTag : Option Nat
  /-- Engine has started it (R227). -/
  started : Bool
  /-- Its destination was freed before it started: contents undefined (R107). -/
  stale : Bool
  /-- Pages in motion: group that changes home together, page, its entry to be (R101 R103 R104). -/
  held : List (Nat × Nat × BitVec 64)
  /-- FCODE and STATUS found, not yet completed (R228). -/
  status : Option (BitVec 16)
  /-- Host requests outstanding for it (R627). -/
  waitHost : List Nat
  /-- Duration in cluster cycles (R438 R440 R443 R516). -/
  cycles : Nat
  /-- MODEL: cluster cycle at which the operation ends without stalls (R426). -/
  due : Nat
  /-- Groups of the plan still to perform, in plan order: page, its entry to be (R101 R513). -/
  plan : List (List (Nat × BitVec 64))
  /-- MODEL: next group number (R513). -/
  group : Nat
  /-- Writes that wait for an earlier byte of the operation: 1 + host request number (0: none), destination, data (R928). -/
  writes : List (Nat × BitVec 64 × Option (List (BitVec 8)))
  /-- MODEL: cycles of the blocks that an expansion has still to decode, as far as they were counted (R480). -/
  blocks : List Nat
  /-- MODEL: cluster cycle at which the first of those blocks starts (R479 R480). -/
  blockAt : Nat
  /-- MODEL: page of a gather whose entry is read once the host data before it have come (R361). -/
  gatherAt : Option Nat
  /-- MODEL: free value of its destination, where that is undefined (R107). -/
  undef : Option Nat
  /-- MODEL: virtual ranges that the started operation reads or writes (R730). -/
  touch : List (Nat × Nat)
  deriving DecidableEq, Repr

/-- The reset value of DmaOp. -/
def DmaOp.init : DmaOp where
  serial := 0
  thr := 0
  tag := 0
  kind := .copy
  dst := 0#64
  src := 0#64
  len := 0#64
  dest := 0#8
  desc := []
  hostTag := none
  started := false
  stale := false
  held := []
  status := none
  waitHost := []
  cycles := 0
  due := 0
  plan := []
  group := 0
  writes := []
  blocks := []
  blockAt := 0
  gatherAt := none
  undef := none
  touch := []

/-- One look-aside entry of the page-walk unit (R367). -/
structure LabEnt where
  /-- Entry number (R367). -/
  slot : Nat
  /-- Root address (R367). -/
  root : BitVec 64
  /-- I[9:5] (R367). -/
  hi : BitVec 5
  /-- Level-2 table address (R367). -/
  l2 : BitVec 64
  deriving DecidableEq, Repr

/-- The reset value of LabEnt. -/
def LabEnt.init : LabEnt where
  slot := 0
  root := 0#64
  hi := 0#5
  l2 := 0#64

/-- One chunk in a core's chunk queue (R331, R336). -/
structure Chunk where
  /-- MODEL: submission order number (R334). -/
  serial : Nat
  /-- Reel handle (R331). -/
  handle : BitVec 32
  /-- Samples (R331). -/
  len : BitVec 16
  /-- Mark position (R331). -/
  mark : BitVec 16
  /-- IN (R331). -/
  inp : BitVec 64
  /-- OUT (R331). -/
  out : BitVec 64
  /-- ARG (R331). -/
  arg : BitVec 64
  /-- Completion record address (R331). -/
  recAddr : BitVec 64
  /-- Downstream handle (R331). -/
  next : BitVec 32
  /-- Forward on OK (R331). -/
  nxv : Bool
  /-- Submitter's TAG (R331). -/
  tag : BitVec 16
  /-- Thread tag to complete (R225). -/
  owner : Option (Nat × Nat)
  /-- Host command to complete (R621). -/
  cmd : Option Nat
  /-- Started (R334). -/
  running : Bool
  /-- Held for a swap-in (R335). -/
  held : Bool
  /-- Lock-step signature (R852). -/
  sig : BitVec 64
  /-- Lowest page written (R852). -/
  sigLo : BitVec 32
  /-- Highest page written (R852). -/
  sigHi : BitVec 32
  /-- MODEL: device ranges that other software has written since the chunk was submitted (R107). -/
  changed : List (Nat × Nat)
  deriving DecidableEq, Repr

/-- The reset value of Chunk. -/
def Chunk.init : Chunk where
  serial := 0
  handle := 0#32
  len := 0#16
  mark := 0xFFFF#16
  inp := 0#64
  out := 0#64
  arg := 0#64
  recAddr := 0#64
  next := 0#32
  nxv := false
  tag := 0#16
  owner := none
  cmd := none
  running := false
  held := false
  sig := 0#64
  sigLo := 0xFFFFFFFF#32
  sigHi := 0#32
  changed := []

/-- One breakpoint (R825). -/
structure Bp where
  /-- BPn_CTL (ANY resets to 1) (R825). -/
  ctl : BitVec 32
  /-- BPn_ADDR_LO (R825). -/
  lo : BitVec 32
  /-- BPn_ADDR_HI (R825). -/
  hi : BitVec 32
  /-- BPn_HITS (R827). -/
  hits : BitVec 32
  /-- MODEL: matches let pass since the breakpoint was armed (R827). -/
  seen : Nat
  deriving DecidableEq, Repr

/-- The reset value of Bp. -/
def Bp.init : Bp where
  ctl := 0x800#32
  lo := 0#32
  hi := 0#32
  hits := 0#32
  seen := 0

/-- One physical core (R18, R20). -/
structure Core where
  /-- Hardware threads (R44). -/
  threads : SMap Thread
  /-- Thread that last issued; the spec gives no reset value: 63 lets thread 0 come first (log 82, DESIGN CHOICE) (R49). -/
  last : Nat
  /-- Accumulator slots (R57). -/
  slots : SMap Slot
  /-- Stationary buffers (R245). -/
  sbuf : SMap StatBuf
  /-- Array queue (R242). -/
  queue : List QEntry
  /-- Waiting claims (slot, thread) in issue order (R60). -/
  claims : List (Nat × Nat)
  /-- DMA operations in issue order (R227). -/
  dmaq : List DmaOp
  /-- Fusion table (1-15), unlisted: not loaded (R303). -/
  fus : SMap FusEntry
  /-- Entries loaded since the job started (R308). -/
  fusLoaded : List Nat
  /-- Gate buffer (R306). -/
  gate : SMap (BitVec 32)
  /-- Look-aside buffer, most recently used first (R367). -/
  lab : List LabEnt
  /-- Chunk queue (R332). -/
  chunkq : List Chunk
  /-- Counters by number (R819 R820). -/
  cnt : SMap (BitVec 64)
  /-- CNT_CTL.FULL (R822 R890). -/
  full : Bool
  /-- Breakpoints (R825). -/
  bp : SMap Bp
  /-- Job placed on the core (R44). -/
  job : Option Nat
  /-- Draining under a breakpoint (R829). -/
  draining : Bool
  /-- The drain is a cluster drain (ACTION 2) (R829). -/
  drainAll : Bool
  /-- Context switch in progress, to which job (R503 R508). -/
  switching : Option Nat
  /-- Expander decoding for an expansion (R480). -/
  expBusy : Bool
  /-- Lock-step signature (R852). -/
  sig : BitVec 64
  /-- Lowest page written (R852). -/
  sigLo : BitVec 32
  /-- Highest page written (R852). -/
  sigHi : BitVec 32
  /-- Corrected errors of the core store (R447). -/
  ceCount : BitVec 32
  /-- MODEL: next issue-order number (R227 R243). -/
  serial : Nat
  /-- Charges of the running window, in units of 1/1000 pJ (R741 R925). -/
  winE : Nat
  /-- MODEL: stall causes for which the head of the array queue waits (R445). -/
  qStall : List Nat
  /-- MODEL: cluster cycle at which the block ends that the head of the queue waits for (R480). -/
  qStallEnd : Nat
  /-- MODEL: stall cause for which the engine waits to start its oldest operation, 0 none (R445). -/
  dmaStall : Nat
  /-- MODEL: host data arrived since the last cycle (R444). -/
  hostCame : Bool
  /-- MODEL: cycles that a wait in progress has still to count, by stall cause (R445). -/
  owed : SMap Nat
  deriving DecidableEq, Repr

/-- The reset value of Core. -/
def Core.init : Core where
  threads := []
  last := 63
  slots := []
  sbuf := []
  queue := []
  claims := []
  dmaq := []
  fus := []
  fusLoaded := []
  gate := []
  lab := []
  chunkq := []
  cnt := []
  full := false
  bp := []
  job := none
  draining := false
  drainAll := false
  switching := none
  expBusy := false
  sig := 0#64
  sigLo := 0xFFFFFFFF#32
  sigHi := 0#32
  ceCount := 0#32
  serial := 0
  winE := 0
  qStall := []
  qStallEnd := 0
  dmaStall := 0
  hostCame := false
  owed := []

/-- One controller: 8 cluster controllers and the device controller (R289-R300). -/
structure Ctl where
  /-- Registers g1-g31 (R289). -/
  gr : SMap (BitVec 64)
  /-- Program counter (R292). -/
  pc : BitVec 64
  /-- EPC (R294). -/
  epc : BitVec 40
  /-- ECAUSE (R294). -/
  ecause : BitVec 8
  /-- HBASE (R294). -/
  hbase : BitVec 40
  /-- Event words (R297). -/
  events : List (BitVec 64)
  /-- Destination of a waiting WFE (R297). -/
  wfe : Option Nat
  /-- Load in flight (R291). -/
  load : Option PendLoad
  /-- Stopped by a second fault (R296). -/
  stopped : Bool
  /-- Halted at a breakpoint (R829 R832). -/
  halted : Bool
  /-- Local memory, key = offset (R291). -/
  mem : SMap (BitVec 8)
  /-- Controller breakpoints (R832). -/
  bp : SMap Bp
  /-- Request waiting for a full mailbox (R300). -/
  mboxWait : Option (List (BitVec 8))
  /-- Fenced, restart in progress (R801). -/
  fenced : Bool
  deriving DecidableEq, Repr

/-- The reset value of Ctl. -/
def Ctl.init : Ctl where
  gr := []
  pc := 0xEFFFF00000#64
  epc := 0#40
  ecause := 0#8
  hbase := 0#40
  events := []
  wfe := none
  load := none
  stopped := false
  halted := false
  mem := []
  bp := []
  mboxWait := none
  fenced := false

/-- A fabric command in progress (R558-R563). -/
structure FabCmd where
  /-- MODEL: start order number (R556). -/
  serial : Nat
  /-- Descriptor (R557). -/
  desc : List (BitVec 8)
  /-- Outstanding requests: TID, offset, bytes (R558). -/
  sent : List (Nat × Nat × Nat)
  /-- FCODE and STATUS of the first failed response (R560). -/
  failed : Option (BitVec 16)
  /-- Slate ns at which each request was last sent, by TID (R563). -/
  sentAt : SMap Nat
  /-- Destination (R557). -/
  dstNode : BitVec 18
  /-- Pieces not sent yet: offset, bytes (R558). -/
  left : List (Nat × Nat)
  /-- Job to which it belongs (R772). -/
  job : Option Nat
  deriving DecidableEq, Repr

/-- The reset value of FabCmd. -/
def FabCmd.init : FabCmd where
  serial := 0
  desc := []
  sent := []
  failed := none
  sentAt := []
  dstNode := 0#18
  left := []
  job := none

/-- One cluster and its CL block (R18, R818, R890). -/
structure Cluster where
  /-- Cluster controller (R289). -/
  ctl : Ctl
  /-- PT_ROOT (R890). -/
  ptRoot : BitVec 40
  /-- REEL_BASE (R890). -/
  reelBase : BitVec 40
  /-- REEL_N (R890). -/
  reelN : BitVec 13
  /-- FQ_BASE (R890). -/
  fqBase : BitVec 40
  /-- FQ_SIZE (R890). -/
  fqSize : BitVec 13
  /-- Writes waiting for the next step or chunk boundary (R890). -/
  clPend : SMap (BitVec 32)
  /-- REL_CFG.WDOG (R818). -/
  wdog : BitVec 9
  /-- REL_CFG.POLICY (R818). -/
  policy : BitVec 2
  /-- REL_CFG.CKPT (R818). -/
  ckpt : Bool
  /-- COREMAPk (R818). -/
  coremap : SMap (BitVec 4)
  /-- PCORE_STATEj.STATE (R818). -/
  pstate : SMap (BitVec 2)
  /-- PCORE_STATEj.EPOCH (R818). -/
  pepoch : SMap (BitVec 16)
  /-- CTLEPOCH (R818). -/
  ctlEpoch : BitVec 16
  /-- FENCE_DROP (R818). -/
  fenceDrop : BitVec 32
  /-- Slate ns of the last EV_FENCE per sender (R805). -/
  fencePost : SMap (BitVec 64)
  /-- Slate ns of the last ALIVE write (R785). -/
  aliveNs : BitVec 64
  /-- Powered (not gated) (R725 R736). -/
  powered : Bool
  /-- Replacement in progress: failed physical core, logical core, KIND, Slate ns of the fault (R790). -/
  spareBusy : Option (Nat × Nat × Nat × Nat)
  /-- Declarations that wait for a context switch: physical core, KIND (R795). -/
  declPend : List (Nat × Nat)
  /-- Corrected errors of the cluster store (R447). -/
  ceCount : BitVec 32
  /-- Fabric commands in progress (R556). -/
  fab : List FabCmd
  /-- MODEL: next fabric serial (R556). -/
  fabSerial : Nat
  /-- Bias: 0 off, 1 forward +150 mV, 2 none with read assist (R740). -/
  ctxBias : BitVec 2
  /-- MODEL: requests of a fenced core still in flight, by physical core: its logical number, how many (R805 R807). -/
  stale : SMap (Nat × Nat)
  deriving DecidableEq, Repr

/-- The reset value of Cluster. -/
def Cluster.init : Cluster where
  ctl := Ctl.init
  ptRoot := 0#40
  reelBase := 0#40
  reelN := 0#13
  fqBase := 0#40
  fqSize := 16#13
  clPend := []
  wdog := 50#9
  policy := 0#2
  ckpt := true
  coremap := [(1, 1#4), (2, 2#4), (3, 3#4), (4, 4#4), (5, 5#4), (6, 6#4), (7, 7#4)]
  pstate := [(8, 1#2)]
  pepoch := []
  ctlEpoch := 0#16
  fenceDrop := 0#32
  fencePost := []
  aliveNs := 0#64
  powered := false
  spareBusy := none
  declPend := []
  ceCount := 0#32
  fab := []
  fabSerial := 0
  ctxBias := 0#2
  stale := []

/-- One HBM stack and its block (R463, R464). -/
structure Hbm where
  /-- STATUS.STATE (R464). -/
  state : BitVec 2
  /-- STATUS.FAILED (R458 R464). -/
  failed : Bool
  /-- STATUS.REPAIRED (R464). -/
  repaired : BitVec 8
  /-- STATUS.EXHAUSTED (R456 R464). -/
  exhausted : Bool
  /-- CE_COUNT (R463). -/
  ce : BitVec 32
  /-- UE_COUNT (R463). -/
  ue : BitVec 32
  /-- ELOG_ADDR (R463). -/
  logAddr : BitVec 40
  /-- ELOG_INFO (R464). -/
  logInfo : BitVec 32
  /-- Soft repair in progress (R455). -/
  repairing : List (Nat × Nat)
  /-- Refresh commands issued (R454). -/
  refreshes : Nat
  /-- Rows that have yielded one corrected error since reset: channel, row (R455). -/
  ceRows : List (Nat × Nat)
  /-- Rows under hard repair since the boot: channel, row (R457). -/
  hard : List (Nat × Nat)
  deriving DecidableEq, Repr

/-- The reset value of Hbm. -/
def Hbm.init : Hbm where
  state := 0#2
  failed := false
  repaired := 0#8
  exhausted := false
  ce := 0#32
  ue := 0#32
  logAddr := 0#40
  logInfo := 0#32
  repairing := []
  refreshes := 0
  ceRows := []
  hard := []

/-- DEV.OWNp (R885). -/
structure Own where
  /-- Clusters owned (R885). -/
  clusters : BitVec 8
  /-- Stacks owned (R885). -/
  stks : BitVec 8
  /-- Confidential (R885). -/
  conf : Bool
  /-- Partition exists (R885). -/
  v : Bool
  deriving DecidableEq, Repr

/-- The reset value of Own. -/
def Own.init : Own where
  clusters := 0#8
  stks := 0#8
  conf := false
  v := false

/-- DEV block (R885). -/
structure Dev where
  /-- STATUS.BOOT (R885). -/
  boot : BitVec 4
  /-- ID.BIN, 20 or 18 (R885). -/
  bin : BitVec 8
  /-- MASTER_SEL as sampled (R885). -/
  master : Bool
  /-- BOOT_SRC as sampled (R885). -/
  bootSrc : Bool
  /-- QUAR (R885 R808). -/
  quar : Bool
  /-- GEOM (R885). -/
  geom : Bool
  /-- NODE (R885). -/
  node : BitVec 18
  /-- SIZES (R885). -/
  sizes : BitVec 18
  /-- FWVER (R885). -/
  fwver : BitVec 32
  /-- EPOCH (R885). -/
  epoch : BitVec 16
  /-- EPTAB_IDX (R885). -/
  eptabIdx : BitVec 18
  /-- Epoch table (R566). -/
  eptab : SMap (BitVec 16)
  /-- TEST.MODE (R885). -/
  test : BitVec 4
  /-- CFG_CRC_CTL.EN (R885). -/
  crcEn : Bool
  /-- CFG_CRC_REF (R885). -/
  crcRef : BitVec 32
  /-- CFG_CRC_LAST (R885). -/
  crcLast : BitVec 32
  /-- CFG_CRC_STAT.VALID (R885). -/
  crcValid : Bool
  /-- ARMED (R882 R885). -/
  crcArmed : Bool
  /-- MATCH (R885). -/
  crcMatch : Bool
  /-- SKIP (R885). -/
  crcSkip : BitVec 12
  /-- RSKIP (R885). -/
  crcRskip : BitVec 12
  /-- Pass in progress, with its void flag (R881 R882). -/
  crcRun : Option Bool
  /-- A drift was posted and no match seen since (R884). -/
  crcDrift : Bool
  /-- DANGER_ERR (R885). -/
  dangerErr : BitVec 32
  /-- DANGER_ADDR (R885). -/
  dangerAddr : BitVec 24
  /-- CSR_REJ (R885). -/
  csrRej : BitVec 32
  /-- OWNp (R74 R885). -/
  own : SMap Own
  /-- REPORTs received by the master, by node (R568). -/
  reports : SMap (BitVec 18)
  /-- Coordinates taken (R568). -/
  enumerated : Bool
  /-- Size minus one recorded in X (R568). -/
  nx : Option (BitVec 6)
  /-- In Y (R568). -/
  ny : Option (BitVec 6)
  /-- In Z (R568). -/
  nz : Option (BitVec 6)
  /-- Failed links (node, link) (R547 R582). -/
  faultMap : List (BitVec 18 × Nat)
  /-- Enumeration failed (R569). -/
  enumFailed : Bool
  /-- Links that failed before the device took its coordinates (R581). -/
  early : List Nat
  /-- Devices declared lost (R785 R815). -/
  lostNodes : List (BitVec 18)
  /-- CSR_RD replies received (R570). -/
  mgmtReply : List (List (BitVec 8))
  deriving DecidableEq, Repr

/-- The reset value of Dev. -/
def Dev.init : Dev where
  boot := 0#4
  bin := 20#8
  master := false
  bootSrc := false
  quar := false
  geom := false
  node := 0#18
  sizes := 0#18
  fwver := 0#32
  epoch := 0#16
  eptabIdx := 0#18
  eptab := []
  test := 0#4
  crcEn := false
  crcRef := 0#32
  crcLast := 0#32
  crcValid := false
  crcArmed := false
  crcMatch := false
  crcSkip := 0#12
  crcRskip := 0#12
  crcRun := none
  crcDrift := false
  dangerErr := 0#32
  dangerAddr := 0#24
  csrRej := 0#32
  own := []
  reports := []
  enumerated := false
  nx := none
  ny := none
  nz := none
  faultMap := []
  enumFailed := false
  early := []
  lostNodes := []
  mgmtReply := []

/-- A power transition (R729-R739). -/
structure Trans where
  /-- Device transition (else cluster) (R729). -/
  dev : Bool
  /-- Target state (R739). -/
  target : Nat
  /-- Clusters to gate (R739). -/
  gate : BitVec 8
  /-- Clusters to power (R739). -/
  rise : BitVec 8
  /-- Partition of a cluster transition (R729). -/
  part : Nat
  /-- Mailbox request to answer (R299). -/
  mbox : Option (BitVec 16)
  /-- Controller to answer (R299). -/
  mboxCl : Nat
  /-- Latest answer per block: 1 GRANT, 2 DELAY, 3 asked (R730). -/
  asked : SMap (BitVec 2)
  /-- Committed (R732). -/
  committed : Bool
  /-- Rise in progress (R735). -/
  rising : Bool
  /-- Steps of Table PWR-5 still to run (R735). -/
  plan : List Nat
  /-- Clusters that the rise has powered (R737). -/
  raised : BitVec 8
  /-- A raise asked for by a wake (R34). -/
  wake : Bool
  /-- First camera DELAY (R694). -/
  camDelayNs : BitVec 64
  /-- Slate ns of the request (R733). -/
  startNs : BitVec 64
  deriving DecidableEq, Repr

/-- The reset value of Trans. -/
def Trans.init : Trans where
  dev := true
  target := 0
  gate := 0#8
  rise := 0#8
  part := 0
  mbox := none
  mboxCl := 0
  asked := []
  committed := false
  rising := false
  plan := []
  raised := 0#8
  wake := false
  camDelayNs := 0#64
  startNs := 0#64

/-- GAF block and the Gaffer (R886). -/
structure Gaf where
  /-- STATE.STATE (R886). -/
  state : BitVec 3
  /-- RAILERR (R886). -/
  railErr : Bool
  /-- Bias of the I/O die: 0 off, 1 forward +100 mV, 2 reverse −400 mV at retention level (R740). -/
  ioBias : BitVec 2
  /-- EMERG (R886). -/
  emerg : Bool
  /-- HS_STATUS.REASON (R886). -/
  hsReason : BitVec 3
  /-- HS_STATUS.BLOCK (R886). -/
  hsBlock : BitVec 5
  /-- HS_STATUS.ABANDON (R886). -/
  hsAbandon : Bool
  /-- HS_LIMIT.MS (R886). -/
  hsLimit : BitVec 10
  /-- WATCH_CFG.CLUSTER (R886). -/
  watchCl : BitVec 3
  /-- WATCH_CFG.STACK (R886). -/
  watchSt : BitVec 3
  /-- LISTEN_CFG.RAILS (R886). -/
  listenRails : Bool
  /-- TEMP_LIMIT (R886). -/
  tempLimit : BitVec 8
  /-- TEMP (R886). -/
  temp : BitVec 8
  /-- WAKE_THRs (R886). -/
  wakeThr : SMap (BitVec 16)
  /-- CLKc.FREQ = 2 x ID.BIN (R886). -/
  clkFreq : SMap (BitVec 6)
  /-- CLKc.CUR (R886). -/
  clkCur : SMap (BitVec 6)
  /-- CLKc.LEVEL (R742 R886). -/
  level : SMap (BitVec 4)
  /-- BUDGETp (R886). -/
  budget : SMap (BitVec 10)
  /-- RAIL_EN (R886 R887). -/
  railEn : BitVec 13
  /-- Device transition in progress (R729). -/
  cur : Option Trans
  /-- Transitions waiting (R729). -/
  waiting : List Trans
  /-- Cluster transitions in progress (R729). -/
  clTrans : List Trans
  /-- Target state of a wake held during a rise (R738). -/
  heldWake : Option Nat
  /-- Wakes recorded below threshold (R35). -/
  lastWakeBelow : Nat
  /-- FREQ that the cluster took when it was powered up (R886). -/
  clkUse : SMap (BitVec 6)
  deriving DecidableEq, Repr

/-- The reset value of Gaf. -/
def Gaf.init : Gaf where
  state := 0#3
  railErr := false
  ioBias := 1#2
  emerg := false
  hsReason := 0#3
  hsBlock := 0#5
  hsAbandon := false
  hsLimit := 100#10
  watchCl := 0#3
  watchSt := 0#3
  listenRails := false
  tempLimit := 95#8
  temp := 0#8
  wakeThr := [(0, 0x8000#16), (1, 0x8000#16), (2, 0x8000#16)]
  clkFreq := [(0, 40#6), (1, 40#6), (2, 40#6), (3, 40#6), (4, 40#6), (5, 40#6), (6, 40#6), (7, 40#6)]
  clkCur := []
  level := []
  budget := []
  railEn := 0x1FFF#13
  cur := none
  waiting := []
  clTrans := []
  heldWake := none
  lastWakeBelow := 0
  clkUse := []

/-- Security state of one partition number (R765, R784). -/
structure SecPart where
  /-- Key epoch (R765). -/
  epoch : BitVec 32
  /-- PSTATE.STATE (R784). -/
  state : BitVec 2
  /-- Authentication drops (R771). -/
  authDrop : BitVec 32
  /-- SHAKE256 of c of the open session (R760). -/
  session : Option (BitVec 256)
  /-- Session keys KS (R760). -/
  keys : BitVec 512
  /-- Next CTR per channel, host to part (R761). -/
  rxCtr : SMap (BitVec 64)
  /-- Next CTR per channel, part to host (R761). -/
  txCtr : SMap (BitVec 64)
  /-- Job link key (R768). -/
  jobKey : Option (BitVec 256)
  /-- Job that holds the key (R767). -/
  keyJob : Nat
  /-- Peer list (R768). -/
  peers : List (BitVec 18)
  /-- Sender's counters (R770). -/
  txCount : SMap (BitVec 64)
  /-- Highest accepted counts (R771). -/
  rxHigh : SMap (BitVec 64)
  /-- Accepted (node, count) pairs (R771). -/
  rxSeen : List (Nat × Nat)
  /-- Partition measurement (R756). -/
  pm : BitVec 256
  /-- Extensions of PM (R756). -/
  next : BitVec 64
  /-- Waiting ATTEST: command serial and nonce (R757). -/
  signQ : List (Nat × List (BitVec 8))
  /-- Waiting MEASURE: serial, address, bytes left, bytes so far (R757). -/
  hashQ : List (Nat × Nat × Nat × List (BitVec 8))
  /-- Plaintext of EP1 OUT records not yet taken as commands (R761). -/
  ep1 : List (BitVec 8)
  /-- Plaintext of EP2 OUT records not yet taken (R761). -/
  ep2 : List (BitVec 8)
  deriving DecidableEq, Repr

/-- The reset value of SecPart. -/
def SecPart.init : SecPart where
  epoch := 0#32
  state := 0#2
  authDrop := 0#32
  session := none
  keys := 0#512
  rxCtr := []
  txCtr := []
  jobKey := none
  keyJob := 0
  peers := []
  txCount := []
  rxHigh := []
  rxSeen := []
  pm := 0#256
  next := 0#64
  signQ := []
  hashQ := []
  ep1 := []
  ep2 := []

/-- SEC block (R784, R888). -/
structure Sec where
  /-- STATUS.PUF_OK (R888). -/
  pufOk : Bool
  /-- STATUS.DRBG_OK (R888). -/
  drbgOk : Bool
  /-- FREEZE_IGN (R775). -/
  freezeIgn : BitVec 32
  /-- CSR_IGN (R775). -/
  csrIgn : BitVec 32
  /-- Per partition; key 8 is management (R784). -/
  parts : SMap SecPart
  /-- Owner of the signer's turn (R757). -/
  signTurn : Nat
  /-- Owner of the hash slot (R757). -/
  hashTurn : Nat
  /-- Root secret RS (R747). -/
  rs : BitVec 256
  /-- Boot value BV (R752). -/
  bv : BitVec 64
  /-- Firmware measurement (R651). -/
  fwm : BitVec 256
  deriving DecidableEq, Repr

/-- The reset value of Sec. -/
def Sec.init : Sec where
  pufOk := false
  drbgOk := false
  freezeIgn := 0#32
  csrIgn := 0#32
  parts := []
  signTurn := 0
  hashTurn := 0
  rs := 0#256
  bv := 0#64
  fwm := 0#256

/-- TIME block and Slate (R584-R604, R889). -/
structure Time where
  /-- Slate (R584). -/
  slate : BitVec 96
  /-- CK_CTL has locked since reset (R588). -/
  locked : Bool
  /-- TIME.INC (R585). -/
  inc : BitVec 32
  /-- CTL.SRC (R889). -/
  src : BitVec 2
  /-- CTL.PARENT (R889). -/
  parent : BitVec 3
  /-- STATUS.STATE: FREE after reset (R590) (R889 R590). -/
  state : BitVec 3
  /-- IVL.K (R889). -/
  ivl : BitVec 4
  /-- KP (R889). -/
  kp : BitVec 24
  /-- KI (R889). -/
  ki : BitVec 24
  /-- STEP_THRESH (R889). -/
  stepThresh : BitVec 32
  /-- INC_LIMIT (R889). -/
  incLimit : BitVec 32
  /-- PTP_OFFSET_LO (R889). -/
  ptpLo : BitVec 32
  /-- ETH_TX_LAT (R889). -/
  ethTx : BitVec 24
  /-- ETH_RX_LAT (R889). -/
  ethRx : BitVec 24
  /-- LTX_LATn (R889). -/
  ltx : SMap (BitVec 24)
  /-- LRX_LATn (R889). -/
  lrx : SMap (BitVec 24)
  /-- ASYMn (R889). -/
  asym : SMap (BitVec 24)
  /-- LDELAYn (R889). -/
  ldelay : SMap (BitVec 32)
  /-- PTP_IVL (R889). -/
  ptpIvl : BitVec 4
  /-- Latched Slate samples (R889). -/
  samples : SMap (BitVec 96)
  /-- Servo integral (R593). -/
  integ : Int
  /-- LOCKED entered since reset (R590). -/
  everLocked : Bool
  /-- Consecutive offsets within 4 ns (R590). -/
  goodRun : Nat
  /-- Consecutive offsets above 4 ns (R590). -/
  badRun : Nat
  /-- T1 of the request outstanding (R600 R603). -/
  syncT1 : Option (BitVec 96)
  /-- TID of the newest request (R603 R532). -/
  syncTid : BitVec 16
  /-- SLATE_PPS level (R908). -/
  pps : Bool
  /-- Seconds at the last rise (R908). -/
  ppsSec : BitVec 64
  /-- Last PTP or Lacing timestamp (R596). -/
  lastStamp : BitVec 96
  /-- Receive timestamp of the last Pdelay_Req (R597). -/
  pdelayT2 : BitVec 96
  /-- Last one-step frame as it left (R597). -/
  ethFrame : List (BitVec 8)
  deriving DecidableEq, Repr

/-- The reset value of Time. -/
def Time.init : Time where
  slate := 0#96
  locked := false
  inc := 0xD5555555#32
  src := 0#2
  parent := 0#3
  state := 4#3
  ivl := 7#4
  kp := 8192#24
  ki := 256#24
  stepThresh := 256000#32
  incLimit := 715828#32
  ptpLo := 0#32
  ethTx := 0#24
  ethRx := 0#24
  ltx := []
  lrx := []
  asym := []
  ldelay := []
  ptpIvl := 0#4
  samples := []
  integ := 0
  everLocked := false
  goodRun := 0
  badRun := 0
  syncT1 := none
  syncTid := 0#16
  pps := false
  ppsSec := 0#64
  lastStamp := 0#96
  pdelayT2 := 0#96
  ethFrame := []

/-- Event record (R630). -/
structure EventRec where
  /-- SLATE (R630). -/
  slate : BitVec 64
  /-- CODE (R630). -/
  code : BitVec 8
  /-- SOURCE (R630). -/
  source : BitVec 8
  /-- UNIT (R630). -/
  unit : BitVec 8
  /-- PART (R630). -/
  part : BitVec 4
  /-- DEV (R630). -/
  dev : Bool
  /-- LOST (R630 R633). -/
  lost : BitVec 8
  /-- DETAIL (R630). -/
  detail : BitVec 128
  deriving DecidableEq, Repr

/-- The reset value of EventRec. -/
def EventRec.init : EventRec where
  slate := 0#64
  code := 0#8
  source := 0#8
  unit := 0#8
  part := 0#4
  dev := false
  lost := 0#8
  detail := 0#128

/-- Completion header (R624). -/
structure Completion where
  /-- TAG (R624). -/
  tag : BitVec 32
  /-- STATUS (R624). -/
  status : BitVec 8
  /-- FCODE (R624). -/
  fcode : BitVec 8
  /-- OPC (R624). -/
  opc : BitVec 8
  /-- KIND: 1 host request (R624). -/
  req : Bool
  /-- T_ARR (R624). -/
  tArr : BitVec 64
  /-- T_DONE (R624). -/
  tDone : BitVec 64
  /-- DETAIL0 (R624). -/
  d0 : BitVec 64
  /-- DETAIL1 (R624). -/
  d1 : BitVec 64
  /-- MODEL: arrival order number of the command (R624). -/
  serial : Nat
  /-- MODEL: CK_CTL cycle of posting (R624). -/
  cycle : Nat
  deriving DecidableEq, Repr

/-- The reset value of Completion. -/
def Completion.init : Completion where
  tag := 0#32
  status := 0#8
  fcode := 0#8
  opc := 0#8
  req := false
  tArr := 0#64
  tDone := 0#64
  d0 := 0#64
  d1 := 0#64
  serial := 0
  cycle := 0

/-- A host command that has arrived and not completed (R620). -/
structure HCmd where
  /-- MODEL: arrival order number (R622). -/
  serial : Nat
  /-- OPC (R619). -/
  opc : BitVec 8
  /-- The command header and payload (R619). -/
  hdr : CmdHdr
  /-- Started (R640). -/
  started : Bool
  /-- Arrival time (R624). -/
  tArr : BitVec 64
  /-- MODEL: the error that its access will meet (R447). -/
  err : MemErr
  deriving DecidableEq, Repr

/-- The reset value of HCmd. -/
def HCmd.init : HCmd where
  serial := 0
  opc := 0#8
  hdr := CmdHdr.init
  started := false
  tArr := 0#64
  err := .none

/-- An outstanding host request (R627). -/
structure HostReq where
  /-- Request number (R627). -/
  num : Nat
  /-- 1: to the host (R627). -/
  write : Bool
  /-- Page handle (R624). -/
  handle : BitVec 64
  /-- Offset in the page (R624). -/
  off : Nat
  /-- At most 64 KiB (R627). -/
  bytes : Nat
  /-- Core whose DMA needs it (R627). -/
  core : Nat
  /-- Operation (R627). -/
  op : Nat
  /-- Destination of read data (R627). -/
  dst : BitVec 64
  /-- The destination is a device address of a page in motion (R103). -/
  dev : Bool
  /-- Pages in motion that the request belongs to (R103). -/
  group : Nat
  /-- Data of a write (R627). -/
  data : List (BitVec 8)
  /-- Posted; at most 64 are (R628). -/
  posted : Bool
  /-- Slate ns of posting (R629). -/
  sentNs : BitVec 64
  /-- Of the scheduler, not of an operation: job, sequence, logical page, offset in the bytes of that page (R399 R400). -/
  kv : Option (Nat × Nat × Nat × Nat)
  deriving DecidableEq, Repr

/-- The reset value of HostReq. -/
def HostReq.init : HostReq where
  num := 0
  write := false
  handle := 0#64
  off := 0
  bytes := 0
  core := 0
  op := 0
  dst := 0#64
  dev := false
  group := 0
  data := []
  posted := false
  sentNs := 0#64
  kv := none

/-- USB function of one partition (R612, R638-R643). -/
structure Func where
  /-- Not operating, operating, draining (R612 R642). -/
  st : FuncSt
  /-- Slate ns of D (R638). -/
  dNs : BitVec 64
  /-- Command buffer (R620). -/
  cmds : List HCmd
  /-- EP1 IN queue, posting order (R624). -/
  out : List Completion
  /-- EP2 IN transfers: 1 + serial of the command that it completes, or 0 (R625). -/
  in2 : List (Nat × List (BitVec 8))
  /-- Outstanding host requests (R628). -/
  reqs : List HostReq
  /-- MODEL: next request number (R627). -/
  reqNum : Nat
  /-- Last arrival was answered NRDY (R620). -/
  nrdy : Bool
  /-- MODEL: next arrival number (R622). -/
  serial : Nat
  deriving DecidableEq, Repr

/-- The reset value of Func. -/
def Func.init : Func where
  st := .off
  dNs := 0#64
  cmds := []
  out := []
  in2 := []
  reqs := []
  reqNum := 0
  nrdy := false
  serial := 0

/-- USB port (R609-R618). -/
structure Usb where
  /-- STATUS.speed (Table REG-10). -/
  speed : BitVec 3
  /-- SHAREp (R616). -/
  share : SMap (BitVec 7)
  /-- Functions (R612). -/
  funcs : SMap Func
  /-- Event queues, key 0-7 partitions, 8 EP3 (R633). -/
  evq : SMap (List EventRec)
  /-- Records dropped since the last delivered (R633). -/
  lost : SMap Nat
  /-- Management commands in progress (R637). -/
  mgmtCmds : List HCmd
  /-- Management completions, unread first (R634). -/
  mgmtOut : List Completion
  /-- EP2 IN stream 9: 1 + serial of the command that it completes, or 0 (R637). -/
  mgmtIn2 : List (Nat × List (BitVec 8))
  /-- Link in U3 suspend (R609). -/
  u3 : Bool
  /-- A remote wake was signalled (R609). -/
  remoteWake : Bool
  /-- Last EP0 IN data stage (R634). -/
  ep0 : List (BitVec 32)
  /-- EP0 answered STALL (R635). -/
  stall : Bool
  /-- Connected (R610). -/
  connected : Bool
  /-- MODEL: next management serial (R71). -/
  mgmtSerial : Nat
  /-- Last event record taken by the host, before it is sealed (R633). -/
  delivered : Option EventRec
  /-- Bytes of the last IN transfer of EP1, EP2 or an interrupt endpoint as they left on the pins (R624 R761). -/
  wire : List (BitVec 8)
  /-- Next burst slot of the frame (R616). -/
  slotPos : Nat
  /-- Owner that borrowed last, 8 management (R617). -/
  lastBorrow : Nat
  deriving DecidableEq, Repr

/-- The reset value of Usb. -/
def Usb.init : Usb where
  speed := 0#3
  share := []
  funcs := []
  evq := []
  lost := []
  mgmtCmds := []
  mgmtOut := []
  mgmtIn2 := []
  u3 := false
  remoteWake := false
  ep0 := []
  stall := false
  connected := false
  mgmtSerial := 0
  delivered := none
  wire := []
  slotPos := 0
  lastBorrow := 8

/-- One allocation (R92-R95). -/
structure Alloc where
  /-- Pages (R929). -/
  pages : Nat
  /-- 2 MiB pages (R84). -/
  big : Bool
  /-- Home flag (R92). -/
  home : BitVec 2
  /-- AF_PIN (R92). -/
  pin : Bool
  /-- AF_RO_SHARED (R92). -/
  sh : Bool
  /-- Sealed (R95). -/
  sealed : Bool
  deriving DecidableEq, Repr

/-- The reset value of Alloc. -/
def Alloc.init : Alloc where
  pages := 0
  big := false
  home := 0#2
  pin := false
  sh := false
  sealed := false

/-- One sequence of a serving job (R492-R495). -/
structure Seq where
  /-- Priority (R395). -/
  prio : Nat
  /-- Admission number (R397). -/
  admNo : Nat
  /-- Prompt tokens not taken (R492). -/
  remaining : Nat
  /-- Prompt address (R621). -/
  prompt : BitVec 64
  /-- Positions held (R355). -/
  pos : Nat
  /-- Waited count (R492). -/
  waited : Nat
  /-- Not pre-empted (R492). -/
  resident : Bool
  /-- Order of pre-emption (R400). -/
  preAt : Nat
  /-- Admitted to steps (R494). -/
  active : Bool
  /-- Outstanding SEQ_RUN command (R621). -/
  run : Option Nat
  /-- Tokens taken by the running step (R492). -/
  took : Nat
  /-- Tokens still to produce (R621). -/
  want : Nat
  /-- Output address (R621). -/
  outAddr : BitVec 64
  /-- SEQ_END received (R621). -/
  ended : Bool
  /-- Page list (R359). -/
  pages : List Nat
  /-- The pages of the sequence in the partition's host swap area: logical page, the bytes of all layers (R399). -/
  swap : SMap (List (BitVec 8))
  deriving DecidableEq, Repr

/-- The reset value of Seq. -/
def Seq.init : Seq where
  prio := 0
  admNo := 0
  remaining := 0
  prompt := 0#64
  pos := 0
  waited := 0
  resident := true
  preAt := 0
  active := false
  run := none
  took := 0
  want := 0
  outAddr := 0#64
  ended := false
  pages := []
  swap := []

/-- One job (R485, Table SCH-2). -/
structure Job where
  /-- BATCH, SERVING, REEL (R484). -/
  kind : BitVec 2
  /-- Whole clusters (R485). -/
  whole : Bool
  /-- CONTINUOUS (R485). -/
  mode : Bool
  /-- Never pre-empted (R485). -/
  pinned : Bool
  /-- Priority (R485). -/
  prio : Nat
  /-- Cores (R485). -/
  cores : Nat
  /-- Threads per core (R485). -/
  threads : Nat
  /-- Save area, 64 KiB units (R485). -/
  save : Nat
  /-- Live slots (R485). -/
  live : BitVec 8
  /-- Step budget (R485). -/
  budget : Nat
  /-- Prefill chunk (R485). -/
  chunk : Nat
  /-- Admission number (R490). -/
  admNo : Nat
  /-- Logical (cluster, core) it is placed on (R488). -/
  placed : List (Nat × Nat)
  /-- Cores held when pre-empted (R491). -/
  held : List (Nat × Nat)
  /-- JOB_SET blocks waiting for the boundary (R486). -/
  pendingSet : List (List (BitVec 8))
  /-- JOB_DESTROY waiting for the switch point (R621). -/
  destroy : Option Nat
  /-- Pre-empt at its next switch point (R501). -/
  victim : Bool
  /-- STEP command whose step runs (0 for a built step) (R621). -/
  running : Option Nat
  /-- Slate count a prepared step waits for (R605). -/
  startAt : Option (BitVec 64)
  /-- Argument block of the step (R47). -/
  argBlk : BitVec 64
  /-- Supervisor ended one of its threads (R288). -/
  faulted : Bool
  /-- Lock-step in force for the job (R854). -/
  lock : Bool
  /-- Slow core to replace at the next step boundary (R812). -/
  retire : Option Nat
  /-- Lateness of the launch (R607). -/
  late : BitVec 64
  /-- The step that runs was started by a LAUNCH packet (R605). -/
  launched : Bool
  /-- Steps launched (R855). -/
  stepNo : Nat
  /-- Sequences (R494). -/
  seqs : SMap Seq
  /-- MODEL: next sequence number (R621). -/
  nextSeq : Nat
  /-- Live slots saved at the last switch, key 8*core rank + slot (R503). -/
  saved : SMap Slot
  /-- AF_CORE pages moved to the save area, each with its core-store home (R504). -/
  savedPages : List (Nat × Nat)
  /-- Newest committed bank (R796). -/
  ckptBank : Bool
  /-- Newest committed step checkpoint (R796). -/
  ckpt : SMap Slot
  /-- Consecutive lagging steps per member (R811). -/
  lag : SMap Nat
  /-- The running step was launched again (R811). -/
  again : Bool
  /-- The running step is stopped for a replacement (R790). -/
  stopped : Bool
  /-- Slate ns of the launch (R810). -/
  launchNs : BitVec 64
  /-- Pool pages freed (R395). -/
  kvFree : List Nat
  /-- MODEL: pool pages never used start here (R395). -/
  kvNext : Nat
  /-- MODEL: pre-emptions so far (R400). -/
  preCount : Nat
  /-- MODEL: device ranges that other software, or the run of the step that was cut off, has written since the step was submitted (R107 R799). -/
  changed : List (Nat × Nat)
  /-- MODEL: device ranges that the running step has written (R799). -/
  wrote : List (Nat × Nat)
  /-- The running step has issued a MOVE or SPLICE (R799). -/
  moved : Bool
  /-- Its last step boundary, or its placement, left a step checkpoint (R796 R798). -/
  ckptOn : Bool
  /-- FCODE with which its step completes FAULTED (R792). -/
  fcode : BitVec 8
  deriving DecidableEq, Repr

/-- The reset value of Job. -/
def Job.init : Job where
  kind := 0#2
  whole := false
  mode := false
  pinned := false
  prio := 0
  cores := 0
  threads := 0
  save := 0
  live := 0#8
  budget := 0
  chunk := 0
  admNo := 0
  placed := []
  held := []
  pendingSet := []
  destroy := none
  victim := false
  running := none
  startAt := none
  argBlk := 0#64
  faulted := false
  lock := false
  retire := none
  late := 0#64
  launched := false
  stepNo := 0
  seqs := []
  nextSeq := 1
  saved := []
  savedPages := []
  ckptBank := false
  ckpt := []
  lag := []
  again := false
  stopped := false
  launchNs := 0#64
  kvFree := []
  kvNext := 0
  preCount := 0
  changed := []
  wrote := []
  moved := false
  ckptOn := false
  fcode := 0#8

/-- What the part keeps of a bound Reel (R338-R346). -/
structure ReelDyn where
  /-- Bound slots (R337). -/
  slots : List Nat
  /-- Core it is bound on (R337). -/
  core : Nat
  /-- Swap-out pending (R340). -/
  swapPend : Bool
  /-- Destroy pending (R340). -/
  destroyPend : Bool
  /-- Order of its last chunk's completion (R338). -/
  lastDone : Nat
  deriving DecidableEq, Repr

/-- The reset value of ReelDyn. -/
def ReelDyn.init : ReelDyn where
  slots := []
  core := 0
  swapPend := false
  destroyPend := false
  lastDone := 0

/-- One lock-step signature (R852, R855). -/
structure SigRec where
  /-- Job number, or 2^32 + Reel handle (R855). -/
  job : Nat
  /-- Step number, or SEQ (R855). -/
  n : Nat
  /-- Logical core: 8 x cluster + core (R855). -/
  core : Nat
  /-- Signature (R852). -/
  sig : BitVec 64
  /-- Lowest page written (R852). -/
  lo : BitVec 32
  /-- Highest page written (R852). -/
  hi : BitVec 32
  /-- Slate ns at which it was sent (R857). -/
  ns : BitVec 64
  deriving DecidableEq, Repr

/-- The reset value of SigRec. -/
def SigRec.init : SigRec where
  job := 0
  n := 0
  core := 0
  sig := 0#64
  lo := 0#32
  hi := 0#32
  ns := 0#64

/-- One partition's state held by the part and its supervisor (R70, R84-R106). -/
structure Part where
  /-- Logical cluster to physical cluster plus 1 (R921). -/
  lmap : SMap Nat
  /-- Link credit share (R70). -/
  share : Nat
  /-- Level-3 translation entries by VA[47:16] (R89). -/
  ptes : SMap (BitVec 64)
  /-- Allocations by first page number (R92). -/
  allocs : SMap Alloc
  /-- Host page map (R626). -/
  hostMap : SMap (BitVec 64)
  /-- Jobs by number (R485). -/
  jobs : SMap Job
  /-- MODEL: next job number (R621). -/
  nextJob : Nat
  /-- MODEL: next admission number (R490). -/
  nextAdmit : Nat
  /-- Mailbox: sending cluster, 64-byte request (R300). -/
  mbox : List (Nat × List (BitVec 8))
  /-- Dynamic Reel state by index (R337). -/
  reels : SMap ReelDyn
  /-- MODEL: order of chunk completions (R338). -/
  doneOrder : Nat
  /-- REL_SET waiting for the boundary (R816). -/
  relPend : Option (Nat × Nat × Nat)
  /-- Lock-step as commanded (R854). -/
  lockstep : Bool
  /-- Own signatures sent and awaiting comparison (R855). -/
  sigs : List SigRec
  /-- Partner signatures received before the own ones (R855). -/
  peerSigs : List SigRec
  /-- Accesses blocked and counted (R79). -/
  badAccess : Nat
  /-- Scrub in progress: destroy, clusters, stacks (R779). -/
  scrub : Option (Bool × BitVec 8 × BitVec 8)
  /-- Start of the scrub (R779). -/
  scrubNs : BitVec 64
  /-- Management command it completes (R779). -/
  scrubCmd : Option Nat
  /-- MODEL: next chunk serial (R334). -/
  chunkSerial : Nat
  /-- Fabric packets that wait for a page in motion: link, packet, the error they will meet (R104 R559). -/
  fabWait : List (Nat × Packet × MemErr)
  /-- LINK_TX_n bytes (R819). -/
  linkTx : SMap Nat
  /-- LINK_RX_n bytes (R819). -/
  linkRx : SMap Nat
  /-- LINK_RPL_n flits (R819). -/
  linkRpl : SMap Nat
  /-- MODEL: counter to which the free values of the partition are applied (R109, R110). -/
  freeCtr : Nat
  /-- MODEL: writes of the part itself that wait for a page in motion: virtual address, bytes (R104). -/
  late : List (BitVec 64 × List (BitVec 8))
  deriving DecidableEq, Repr

/-- The reset value of Part. -/
def Part.init : Part where
  lmap := []
  share := 0
  ptes := []
  allocs := []
  hostMap := []
  jobs := []
  nextJob := 1
  nextAdmit := 0
  mbox := []
  reels := []
  doneOrder := 0
  relPend := none
  lockstep := false
  sigs := []
  peerSigs := []
  badAccess := 0
  scrub := none
  scrubNs := 0#64
  scrubCmd := none
  chunkSerial := 0
  fabWait := []
  linkTx := []
  linkRx := []
  linkRpl := []
  freeCtr := 0
  late := []

/-- A packet on its way out over a link (R534, R540, R551). -/
structure TxEnt where
  /-- Input that it came from: 0 to 6 a link, 7 the device's own engine (R540). -/
  input : Nat
  /-- Class in which it came (R534). -/
  inCls : Nat
  /-- Class in which it leaves (R540). -/
  cls : Nat
  /-- Its header; the data of the device's own (R532). -/
  pkt : Packet
  /-- Units at hand that have not left (R534). -/
  units : List (BitVec 256)
  /-- Units that have not arrived yet (R551). -/
  due : Nat
  deriving DecidableEq, Repr

/-- The reset value of TxEnt. -/
def TxEnt.init : TxEnt where
  input := 7
  inCls := 0
  cls := 0
  pkt := Packet.init
  units := []
  due := 0

/-- A sideband packet on its way out over a link (R533). -/
structure SbEnt where
  /-- Link that it came from, or 7 (R540). -/
  input : Nat
  /-- MODEL: number of the packet, the same for all copies of one broadcast (R543). -/
  id : Nat
  /-- The packet (R532). -/
  pkt : Packet
  /-- Chunks that have left (R525). -/
  next : Nat
  /-- Chunks that have not arrived yet (R551). -/
  due : Nat
  deriving DecidableEq, Repr

/-- The reset value of SbEnt. -/
def SbEnt.init : SbEnt where
  input := 7
  id := 0
  pkt := Packet.init
  next := 0
  due := 0

/-- A flit in the replay buffer (R530). -/
structure TxFlit where
  /-- The flit as last sent (R530). -/
  flit : Flit
  /-- Times that it has been resent (R531). -/
  count : Nat
  /-- MODEL: number of the sideband packet whose chunk it carries (R600). -/
  sbId : Nat
  /-- MODEL: which chunk (R600). -/
  sbIdx : Nat
  /-- MODEL: the packet of its sideband chunk (R600). -/
  sbPkt : Option Packet
  deriving DecidableEq, Repr

/-- The reset value of TxFlit. -/
def TxFlit.init : TxFlit where
  flit := Flit.init
  count := 0
  sbId := 0
  sbIdx := 0
  sbPkt := none

/-- One Lacing link and its LNK block (R520-R583). -/
structure Link where
  /-- STATUS.STATE (R583). -/
  state : BitVec 3
  /-- LANE_OK (R583). -/
  laneOk : BitVec 8
  /-- WIRING (R583). -/
  wiring : Bool
  /-- PEER (R583). -/
  peer : BitVec 18
  /-- CFG.EN (R583). -/
  en : Bool
  /-- CFG.FULL (R583). -/
  full : Bool
  /-- CFG.DEG_THRESH (R583). -/
  deg : BitVec 8
  /-- SLOTMAP, reset PRESUMED every slot none (R535). -/
  slotmap : BitVec 256
  /-- Committed map waiting for the frame boundary (R877). -/
  slotmapNew : Option (BitVec 256)
  /-- Counters by offset (R583). -/
  cnt : SMap (BitVec 32)
  /-- SEQ of the next new flit (R527). -/
  txSeq : BitVec 24
  /-- Next expected SEQ (R528). -/
  rxSeq : BitVec 24
  /-- NAK to send in the next header (R529). -/
  nakOut : Bool
  /-- Discards since the last accepted flit (R529). -/
  discarding : Bool
  /-- Replay buffer (R530). -/
  replay : List TxFlit
  /-- Numbers of the flits to resend, in order (R530). -/
  resend : List (BitVec 24)
  /-- Free credits by owner, key 9 the loan pool (R541). -/
  holding : SMap Nat
  /-- Credits in use beyond the slots that a new map left their owner (R541 R877). -/
  debt : SMap Nat
  /-- Credits of a new map that their owner waits for (R541 R877). -/
  short : SMap Nat
  /-- Free sideband chunks at the far end (R543). -/
  sbFree : Nat
  /-- Next frame slot (R535). -/
  slotPos : Nat
  /-- Owner that borrowed last (R539). -/
  lastBorrow : Nat
  /-- Input that last sent (R540). -/
  lastInput : SMap Nat
  /-- Packets waiting (R540). -/
  txq : List TxEnt
  /-- Sideband packets waiting, or begun (R525). -/
  sbq : List SbEnt
  /-- Units received of packets in progress, key 8*owner + class (R534 R551). -/
  part : SMap (List (BitVec 256))
  /-- Receive-buffer units free (R541). -/
  rxFree : Nat
  /-- Slate ns of the lane fault (R578). -/
  trainNs : BitVec 64
  /-- Lanes in use: 0 all, 1 lanes 0-3, 2 lanes 4-7 (R579). -/
  lanes : BitVec 2
  /-- Packets begun, key 8*owner + class (R534). -/
  txCur : SMap TxEnt
  /-- Credits to return by owner (R526 R541). -/
  cretPend : SMap Nat
  /-- Sideband chunks to return (R526). -/
  sbPend : Nat
  /-- Lock-step signatures sent over the link: count and bytes, sealed or not (R576 R855 R775). -/
  sigOut : List (Nat × List (BitVec 8))
  /-- Transit packets discarded at a failure (R581). -/
  dropped : Nat
  /-- Units of each owner in the receive buffer (R541). -/
  rxHeld : SMap Nat
  /-- Units still to come of discarded packets, key 8*owner + class (R581). -/
  skip : SMap Nat
  /-- Chunks received of a sideband packet in progress, by dateline class (R525). -/
  sbIn : SMap (List (BitVec 128))
  /-- Receive timestamp of its first chunk, by dateline class (R601). -/
  sbInAt : SMap (BitVec 96)
  /-- MODEL: sideband packets numbered so far (R543). -/
  sbNum : Nat
  /-- MODEL: number of the sideband packet being passed on while it arrives, by dateline class (R551). -/
  sbPass : SMap Nat
  /-- The message of the codeword last sent (R523). -/
  txMsg : BitVec 5140
  /-- Codeword count of the next codeword sent (R523). -/
  txCount : BitVec 16
  /-- Codeword count of the codeword last received (R523). -/
  rxCount : BitVec 16
  /-- Number of the 8 us window in which corrected symbols are counted (R577). -/
  corrWin : BitVec 64
  /-- Corrected symbols of each lane in that window (R577). -/
  corr : SMap Nat
  deriving DecidableEq, Repr

/-- The reset value of Link. -/
def Link.init : Link where
  state := 0#3
  laneOk := 0#8
  wiring := false
  peer := 0#18
  en := true
  full := false
  deg := 0x40#8
  slotmap := BitVec.allOnes 256
  slotmapNew := none
  cnt := []
  txSeq := 0#24
  rxSeq := 0#24
  nakOut := false
  discarding := false
  replay := []
  resend := []
  holding := []
  debt := []
  short := []
  sbFree := 512
  slotPos := 0
  lastBorrow := 0
  lastInput := []
  txq := []
  sbq := []
  part := []
  rxFree := 4096
  trainNs := 0#64
  lanes := 0#2
  txCur := []
  cretPend := []
  sbPend := 0
  sigOut := []
  dropped := 0
  rxHeld := []
  skip := []
  sbIn := []
  sbInAt := []
  sbNum := 0
  sbPass := []
  txMsg := 0#5140
  txCount := 0#16
  rxCount := 0#16
  corrWin := 0#64
  corr := []

/-- Ring parameters (R682, Table CAM-8). -/
structure Ring where
  /-- RBASE (Table CAM-8). -/
  base : BitVec 64
  /-- Buffers (Table CAM-8). -/
  n : Nat
  /-- PITCH (Table CAM-8). -/
  pitch : Nat
  /-- ROWPITCH (Table CAM-8). -/
  rowPitch : Nat
  /-- PLANEPITCH (Table CAM-8). -/
  planePitch : Nat
  /-- DEST (Table CAM-8). -/
  fabric : Bool
  /-- NODE (Table CAM-8). -/
  node : BitVec 18
  /-- PADV of a bypass ring (R667). -/
  padv : BitVec 32
  deriving DecidableEq, Repr

/-- The reset value of Ring. -/
def Ring.init : Ring where
  base := 0#64
  n := 0
  pitch := 0
  rowPitch := 0
  planePitch := 0
  fabric := false
  node := 0#18
  padv := 0#32

/-- An open camera frame (R664-R667, R686). -/
structure Frame where
  /-- Port (R664). -/
  port : Nat
  /-- Stream entry (R664). -/
  idx : Nat
  /-- Entry as read at the FS (R665). -/
  entry : BitVec 64
  /-- Lines delivered, in order (R667). -/
  lines : List (List (BitVec 20))
  /-- Slate ns of each line (R690). -/
  stamps : List (BitVec 64)
  /-- FLAGS (R686). -/
  flags : BitVec 16
  /-- LINES_FIXED (R686). -/
  fixed : Nat
  /-- FNUM (R686). -/
  fnum : BitVec 16
  /-- T_FS (R686). -/
  tFs : BitVec 64
  /-- T_END (R686). -/
  tEnd : BitVec 64
  /-- Active parameters that govern the frame (R677). -/
  par : SMap (BitVec 32)
  /-- Ring parameters that govern the frame (R682). -/
  ring : Ring
  /-- Closed (R664). -/
  closed : Bool
  /-- HEAD of its buffer; none: discarded (R682). -/
  bufIdx : Option (BitVec 64)
  /-- Output lines written (R669). -/
  done : Nat
  /-- Lines delivered as padding, which hold no place in the input buffer (R667 R688). -/
  padded : List Nat
  /-- TAIL not yet read: its page is in motion (R104 R682). -/
  tailDue : Bool
  /-- Fault code of a failed write (R684). -/
  fcode : BitVec 8
  /-- GEN applied (R686). -/
  gen : BitVec 16
  /-- Time of the stream's previous packet (R667). -/
  lastNs : BitVec 64
  deriving DecidableEq, Repr

/-- The reset value of Frame. -/
def Frame.init : Frame where
  port := 0
  idx := 0
  entry := 0#64
  lines := []
  stamps := []
  flags := 0#16
  fixed := 0
  fnum := 0#16
  tFs := 0#64
  tEnd := 0#64
  par := []
  ring := Ring.init
  closed := false
  bufIdx := none
  done := 0
  padded := []
  tailDue := false
  fcode := 0#8
  gen := 0#16
  lastNs := 0#64

/-- One camera port (R657-R667). -/
structure CamPort where
  /-- PORT_CFG (CAM registers). -/
  cfg : BitVec 32
  /-- PORT_STATUS.SKEW_OK, as the D-PHY receiver reports it (CAM registers). -/
  skewOk : Bool
  /-- PHDR_CORR to OUTSIDE (CAM registers). -/
  cnt : SMap (BitVec 32)
  /-- Stream table (Table CAM-3). -/
  entries : SMap (BitVec 64)
  /-- Entries as read at their streams' last FS (R665). -/
  eff : SMap (BitVec 64)
  deriving DecidableEq, Repr

/-- The reset value of CamPort. -/
def CamPort.init : CamPort where
  cfg := 0#32
  skewOk := false
  cnt := []
  entries := []
  eff := []

/-- One pipeline context (R676-R681). -/
structure Ctx where
  /-- CTL.EN as in force (R681). -/
  en : Bool
  /-- CTL.EN as written (R681). -/
  enReq : Bool
  /-- MODEL: records still to come before a cleared EN takes effect (R681). -/
  offIn : Nat
  /-- CTL.FLKEN (R690). -/
  flk : Bool
  /-- STATUS.PEND (R676). -/
  pend : Bool
  /-- STATUS.CERR (R677). -/
  cerr : Bool
  /-- STATUS.WLOST (R680). -/
  wlost : Bool
  /-- STATUS.GEN (R677). -/
  gen : BitVec 16
  /-- Shadow parameters by offset (R676). -/
  shadow : SMap (BitVec 32)
  /-- Active parameters by offset (R676). -/
  active : SMap (BitVec 32)
  deriving DecidableEq, Repr

/-- The reset value of Ctx. -/
def Ctx.init : Ctx where
  en := false
  enReq := false
  offIn := 0
  flk := false
  pend := false
  cerr := false
  wlost := false
  gen := 0#16
  shadow := []
  active := []

/-- CAM and ISP blocks. -/
structure Cam where
  /-- Ports (R657). -/
  ports : SMap CamPort
  /-- PORT_OWN, reset PRESUMED none (R691). -/
  own : BitVec 16
  /-- Bypass ring registers by offset (Table CAM-8). -/
  rings : SMap (SMap (BitVec 32))
  /-- WFAULT (R684). -/
  wfault : BitVec 32
  /-- Contexts (R668). -/
  ctx : SMap Ctx
  /-- OVERRUN per pipeline half (ISP registers). -/
  overrun : SMap (BitVec 32)
  /-- Open frames (R664). -/
  frames : List Frame
  /-- DROPPED since the previous record, key 0-15 contexts, 16-31 rings (R682). -/
  dropped : SMap (BitVec 16)
  /-- HEAD of each ring (R682). -/
  heads : SMap (BitVec 64)
  /-- Entries whose packets count in UNMATCHED (R666). -/
  ignored : List (Nat × Nat)
  deriving DecidableEq, Repr

/-- The reset value of Cam. -/
def Cam.init : Cam where
  ports := []
  own := 0xFFFF#16
  rings := []
  wfault := 0#32
  ctx := []
  overrun := []
  frames := []
  dropped := []
  heads := []
  ignored := []

/-- One TDM port (R700-R706). -/
structure TdmPort where
  /-- PORTp_CFG: use in [1:0], rate 96 kHz [2], 24 bits [3], INT16 format [4], enable [5] (layout DESIGN CHOICE) (R702). -/
  cfg : BitVec 32
  /-- PORTp_START (R704). -/
  start : BitVec 64
  /-- PORTp_LOST (R703). -/
  lost : BitVec 32
  /-- PORTp_UNDER (R702). -/
  under : BitVec 32
  /-- The input frame in progress is touched by a stopped span and counted (R703). -/
  touched : Bool
  /-- Pin and ring settings (AUD registers). -/
  set : SMap (BitVec 32)
  /-- First frame started (R704). -/
  running : Bool
  /-- Next input frame number f (R705). -/
  frame : Nat
  /-- The next frame follows a start or a loss (R705). -/
  gap : Bool
  /-- A block of the ring has been discarded since the last record (R706 R716). -/
  skipped : Bool
  /-- Delay lines (R708). -/
  delayQ : SMap (List (BitVec 24))
  /-- Last output frame driven (R706). -/
  sdo : List (BitVec 32)
  /-- HEAD of the input ring (R702). -/
  head : BitVec 64
  /-- Blocks read of the playback ring (R702). -/
  rpos : BitVec 64
  /-- Samples gathered for a ring block (R702). -/
  blk : List (List (BitVec 24))
  /-- Frames and blocks that wait for a page in motion: frame, gap, Slate ns, samples (R104 R702). -/
  held : List (Nat × Bool × BitVec 64 × List (List (BitVec 24)))
  deriving DecidableEq, Repr

/-- The reset value of TdmPort. -/
def TdmPort.init : TdmPort where
  cfg := 0#32
  start := 0#64
  lost := 0#32
  under := 0#32
  touched := false
  set := []
  running := false
  frame := 0
  gap := true
  skipped := false
  delayQ := []
  sdo := []
  head := 0#64
  rpos := 0#64
  blk := []
  held := []

/-- AUD block. -/
structure Aud where
  /-- Ports (R697). -/
  ports : SMap TdmPort
  /-- PORT_OWN, reset PRESUMED none (R703). -/
  own : BitVec 16
  /-- Calibration entries of the TDM ports; unlisted reads GAIN 0x4000 (R707). -/
  calib : SMap (BitVec 32)
  /-- CK_AUD locked (R696). -/
  locked : Bool
  deriving DecidableEq, Repr

/-- The reset value of Aud. -/
def Aud.init : Aud where
  ports := []
  own := 0xFFFF#16
  calib := []
  locked := false

/-- Run state of one class on one channel (R713). -/
structure ClassRun where
  /-- A run is open (R713). -/
  active : Bool
  /-- Highest confidence posted in the run (R713). -/
  best : BitVec 16
  /-- Consecutive frames below CT (R713). -/
  below : Nat
  /-- First frame of the unbroken stretch (R720). -/
  onset : BitVec 48
  /-- Matcher: current run length (R713). -/
  onLen : Nat
  /-- Matcher: current run is on (R713). -/
  isOn : Bool
  /-- Matcher: least confidence of the current on-run (R713). -/
  minConf : BitVec 16
  /-- Matcher: first frame of the current on-run (R720). -/
  matchOnset : BitVec 48
  /-- Matcher: least confidence and first frame of the last valid on-runs, newest first (R713 R720). -/
  past : List (BitVec 16 × BitVec 48)
  deriving DecidableEq, Repr

/-- The reset value of ClassRun. -/
def ClassRun.init : ClassRun where
  active := false
  best := 0#16
  below := 0
  onset := 0#48
  onLen := 0
  isOn := false
  minConf := 0xFFFF#16
  matchOnset := 0#48
  past := []

/-- AON block and Insole (R695-R724). -/
structure Aon where
  /-- CTL.PDM_EN (Table AUD-6). -/
  pdmEn : BitVec 8
  /-- CTL.DIV (Table AUD-6). -/
  div : BitVec 2
  /-- CTL.DET (Table AUD-6). -/
  det : Bool
  /-- CTL.RING (Table AUD-6). -/
  ring : Bool
  /-- STATUS.FLL (Table AUD-6). -/
  fll : Bool
  /-- STATUS.REPLAY (Table AUD-6). -/
  replay : Bool
  /-- STATUS.MERR (Table AUD-6). -/
  merr : Bool
  /-- DET_MASK (AON registers). -/
  detMask : BitVec 16
  /-- FEED_OWN, reset PRESUMED none (AON registers). -/
  feedOwn : BitVec 4
  /-- FEED_FROM (R717). -/
  feedFrom : BitVec 48
  /-- MARGIN (R720). -/
  margin : BitVec 5
  /-- HOLD (R722). -/
  hold : BitVec 8
  /-- CLASS_CFG (R712). -/
  classCfg : SMap (BitVec 18)
  /-- DECIM (R699). -/
  decim : SMap (BitVec 16)
  /-- SAMPLE_NO (R714). -/
  sampleNo : BitVec 48
  /-- Model memory (R710). -/
  model : SMap (BitVec 8)
  /-- Pre-roll ring, key 512*channel + slot (R714). -/
  ringMem : SMap (List (BitVec 8))
  /-- First block that the ring has recorded since it was last empty (R714 R720). -/
  ringFrom : Nat
  /-- Encoder state: predictor and index (R714). -/
  adpcm : SMap (BitVec 24)
  /-- Feature history per channel, newest first (R711). -/
  hist : SMap (List (BitVec 8))
  /-- PDM bits kept for the CIC filter, newest first (R699). -/
  pdm : SMap (List Bool)
  /-- U values kept for the compensation filter (R699). -/
  uhist : SMap (List Int)
  /-- Class runs, key 8*channel + class (R713). -/
  runs : SMap ClassRun
  /-- Next block the feed writes (R717). -/
  feedBlk : BitVec 48
  /-- GAP and CLIPPED to set in the next record (R716). -/
  feedPend : Nat
  /-- Live blocks that wait for a page in motion (R104 R716). -/
  feedWait : List Nat
  /-- Block of the last FEED_OWN change (R782). -/
  feedChange : BitVec 48
  /-- Frame of the last stage-0 wake at or above its threshold (R722). -/
  lastWake : Option (BitVec 48)
  /-- HEAD of the feed ring (R716). -/
  feedHead : BitVec 64
  /-- Feed ring parameters (R716). -/
  feedRing : Ring
  /-- AON_WAKE (R728). -/
  wakePin : Bool
  /-- Slate ns at the last sample of the block in a ring slot (R716). -/
  blkNs : SMap (BitVec 64)
  /-- Insole's copy of the calibration entries of the PDM channels (R707 R708). -/
  calib : SMap (BitVec 32)
  deriving DecidableEq, Repr

/-- The reset value of Aon. -/
def Aon.init : Aon where
  pdmEn := 0#8
  div := 0#2
  det := false
  ring := false
  fll := false
  replay := false
  merr := false
  detMask := 0#16
  feedOwn := 15#4
  feedFrom := 0#48
  margin := 0#5
  hold := 0#8
  classCfg := []
  decim := []
  sampleNo := 0#48
  model := []
  ringMem := []
  ringFrom := 0
  adpcm := []
  hist := []
  pdm := []
  uhist := []
  runs := []
  feedBlk := 0#48
  feedPend := 0
  feedWait := []
  feedChange := 0#48
  lastWake := none
  feedHead := 0#64
  feedRing := Ring.init
  wakePin := false
  blkNs := []
  calib := []

/-- Dailies of one cluster (R841-R851). -/
structure Trace where
  /-- TRACE_CFG (PRE 8, XTRIG 1) (R851). -/
  cfg : BitVec 32
  /-- STATUS.STATE (R851). -/
  state : BitVec 2
  /-- NOROOM (R851). -/
  noroom : Bool
  /-- TRIGGERED (R851). -/
  trig : Bool
  /-- WRPTR (R851). -/
  wrptr : BitVec 32
  /-- TRIG_POS (R851). -/
  trigPos : BitVec 32
  /-- MISSED_TRIG (R847). -/
  missed : BitVec 32
  /-- MISSED_SLATE (R847). -/
  missedNs : BitVec 64
  /-- SPILL_BASE (R850). -/
  spillBase : BitVec 40
  /-- SPILL_SIZE (R850). -/
  spillSize : BitVec 32
  /-- Records by index (R841). -/
  buf : SMap (BitVec 256)
  /-- Records still to write after the trigger (R845). -/
  post : Nat
  /-- Records written since the enable (R845). -/
  written : Nat
  /-- Carve-out taken (R842). -/
  carve : Bool
  /-- MODEL: cluster cycle of the last record (R843). -/
  cyc : Nat
  /-- MODEL: records written in that cycle (R843). -/
  inCyc : Nat
  /-- Records dropped since the last one written (R843). -/
  gap : Nat
  deriving DecidableEq, Repr

/-- The reset value of Trace. -/
def Trace.init : Trace where
  cfg := 0x240#32
  state := 0#2
  noroom := false
  trig := false
  wrptr := 0#32
  trigPos := 0#32
  missed := 0#32
  missedNs := 0#64
  spillBase := 0#40
  spillSize := 0#32
  buf := []
  post := 0
  written := 0
  carve := false
  cyc := 0
  inCyc := 0
  gap := 0

/-- DBG block, TAP and lock-step (R819-R858). -/
structure Dbg where
  /-- FREEZE_STATUS (R835). -/
  freeze : BitVec 25
  /-- IND_SEL (Table REG-10). -/
  indSel : BitVec 3
  /-- Dailies per cluster (R851). -/
  traces : SMap Trace
  /-- TAP instruction register (R911). -/
  ir : BitVec 8
  /-- Selected scan chain (R838). -/
  chain : BitVec 16
  /-- Boundary register (R911). -/
  bsr : SMap (BitVec 1)
  /-- Data last shifted out (R838). -/
  tdo : List Bool
  /-- Pins: 0 functional, 1 boundary register, 2 high impedance (R913). -/
  pinCtl : BitVec 2
  /-- Data register of DBG_CSR (R838). -/
  tapData : BitVec 64
  deriving DecidableEq, Repr

/-- The reset value of Dbg. -/
def Dbg.init : Dbg where
  freeze := 0#25
  indSel := 0#3
  traces := []
  ir := 1#8
  chain := 0#16
  bsr := []
  tdo := []
  pinCtl := 0#2
  tapData := 0#64

/-- Pins and rails (R891-R913). -/
structure Pins where
  /-- VDD_AON present (R900). -/
  vddAon : Bool
  /-- Insole out of power-on reset (R900). -/
  insoleUp : Bool
  /-- EN outputs: SRAM, SD, IO12, HBM0, HBM1, CL0-CL7 (R900). -/
  en : BitVec 13
  /-- PG inputs: SOC, then as EN (R896). -/
  pg : BitVec 14
  /-- MAIN_OFF (R899). -/
  mainOff : Bool
  /-- PWR_RET (R898). -/
  pwrRet : Bool
  /-- RESET_N level (R646). -/
  resetN : Bool
  /-- FREEZE_N level (R835). -/
  freezeN : Bool
  /-- VR_ALERT_N asserted (R744). -/
  vrAlert : Bool
  /-- THERMTRIP_N asserted (R745). -/
  therm : Bool
  /-- Rails shut down by Insole (R901 R903). -/
  shutdown : Bool
  /-- Only removal of VDD_AON restarts (R901). -/
  latched : Bool
  /-- EN sequence in progress, next step (R900). -/
  enSeq : Option Nat
  /-- Domains other than CK_AON run (R903 R745). -/
  clocksOn : Bool
  /-- REFCLK present (R903). -/
  refclk : Bool
  /-- MASTER_SEL ball (R646 R894). -/
  masterSel : Bool
  /-- BOOT_SRC ball (R646 R894). -/
  bootSrcPin : Bool
  /-- Device OFF (R725). -/
  off : Bool
  /-- AUD_MCLK present (R703). -/
  audMclk : Bool
  /-- USB_VBUS_DET (R610). -/
  vbus : Bool
  deriving DecidableEq, Repr

/-- The reset value of Pins. -/
def Pins.init : Pins where
  vddAon := true
  insoleUp := true
  en := 0x1FFF#13
  pg := 0x3FFF#14
  mainOff := false
  pwrRet := false
  resetN := false
  freezeN := true
  vrAlert := false
  therm := false
  shutdown := false
  latched := false
  enSeq := none
  clocksOn := false
  refclk := true
  masterSel := false
  bootSrcPin := false
  off := false
  audMclk := true
  vbus := false

/-- Start-up (R646-R653). -/
structure Boot where
  /-- Image received (R649). -/
  image : List (BitVec 8)
  /-- ENTRY of the running firmware (R651). -/
  entry : BitVec 32
  /-- Firmware runs (R636). -/
  running : Bool
  /-- ROM stopped (R647 R748). -/
  romStopped : Bool
  /-- Copy of the cluster-controller image (R801). -/
  ctlImage : List (BitVec 8)
  /-- Slate ns at which the firmware started (R649). -/
  startNs : BitVec 64
  deriving DecidableEq, Repr

/-- The reset value of Boot. -/
def Boot.init : Boot where
  image := []
  entry := 0#32
  running := false
  romStopped := false
  ctlImage := []
  startNs := 0#64

/-- Pending VAL of one requester and register word (R872, R873). -/
structure Danger where
  /-- Pending value (R872). -/
  val : BitVec 32
  /-- CK_CTL cycle of the VAL write (R872). -/
  atCyc : Nat
  /-- Matched by its CHK word (R877). -/
  ok : Bool
  deriving DecidableEq, Repr

/-- The reset value of Danger. -/
def Danger.init : Danger where
  val := 0#32
  atCyc := 0
  ok := false

/-- One requester's bank of an indirect pair (R865). -/
structure IndBank where
  /-- IND_ADDR (R865). -/
  addr : BitVec 32
  /-- IND_CTL.AUTOINC (R866). -/
  auto : Bool
  /-- IND_STAT.NOCLK (R870). -/
  noclk : Bool
  /-- Accesses accepted for a stopped domain, oldest first: some value for a write (R869 R870). -/
  waiting : List (Option (BitVec 32))
  deriving DecidableEq, Repr

/-- The reset value of IndBank. -/
def IndBank.init : IndBank where
  addr := 0#32
  auto := false
  noclk := false
  waiting := []

/-- The device. -/
structure State where
  /-- DEV block (R885). -/
  dev : Dev
  /-- GAF block and Gaffer (R886). -/
  gaf : Gaf
  /-- SEC block (R888). -/
  sec : Sec
  /-- TIME block (R889). -/
  time : Time
  /-- DBG block and TAP (R851). -/
  dbg : Dbg
  /-- USB port (R609). -/
  usb : Usb
  /-- ETH MAC address (Table REG-10). -/
  eth : BitVec 48
  /-- ETH link up (Table REG-10). -/
  ethUp : Bool
  /-- CAM and ISP blocks (R657). -/
  cam : Cam
  /-- AUD block (R697). -/
  aud : Aud
  /-- Insole and AON block (R710). -/
  aon : Aon
  /-- HBM stacks (R464). -/
  hbm : SMap Hbm
  /-- Links (R520). -/
  links : SMap Link
  /-- Clusters (R18). -/
  clusters : SMap Cluster
  /-- Physical cores, key 16*cluster + core (R18). -/
  cores : SMap Core
  /-- Partitions (R70). -/
  parts : SMap Part
  /-- Device controller (R289). -/
  devCtl : Ctl
  /-- HBM and stores by device address (R459). -/
  mem : List Host.Cell
  /-- HBM granules that are encrypted: partition number, key epoch and boot value under which; mem holds their plaintext (R764). -/
  cipher : SMap (Nat × BitVec 32 × BitVec 64)
  /-- Device addresses of words or granules with an uncorrectable error (R448 R451). -/
  badWords : List Nat
  /-- Poisoned granules (R451). -/
  poison : List Nat
  /-- Package flash (R654). -/
  flash : SMap (BitVec 8)
  /-- Pins and rails (R892). -/
  pins : Pins
  /-- Start-up (R649). -/
  boot : Boot
  /-- Pending VAL writes (R873). -/
  danger : SMap Danger
  /-- Indirect pairs, key 16*block + requester (R865). -/
  ind : SMap IndBank
  /-- Latched counter high words (R890). -/
  latches : SMap (BitVec 32)
  /-- Partition whose mailbox turn it is (R300). -/
  mboxTurn : Nat
  /-- A request has been decided in this turn (R300). -/
  mboxDone : Bool
  /-- Bytes received for the image (R649). -/
  usbData : List (BitVec 8)
  /-- CK_CTL cycles since the lock (R861). -/
  cycle : Nat
  /-- MODEL: writes not yet ordered: device address, bytes, thread (1 + 64*core key + number), 1 + serial of the DMA operation (0: a store or a queue entry) (R107 R213). -/
  dirty : List (Nat × Nat × Nat × Nat)
  /-- MODEL: counter to which free values are applied. -/
  freeCtr : Nat
  /-- MODEL: commands waiting, first in first out. -/
  pending : List Instr
  deriving DecidableEq, Repr

/-- The machine right after reset: main reset held, every register at the value the spec states or the log names. -/
def State.reset : State where
  dev := Dev.init
  gaf := Gaf.init
  sec := Sec.init
  time := Time.init
  dbg := Dbg.init
  usb := Usb.init
  eth := 0#48
  ethUp := false
  cam := Cam.init
  aud := Aud.init
  aon := Aon.init
  hbm := []
  links := []
  clusters := []
  cores := []
  parts := []
  devCtl := Ctl.init
  mem := []
  cipher := []
  badWords := []
  poison := []
  flash := []
  pins := Pins.init
  boot := Boot.init
  danger := []
  ind := []
  latches := []
  mboxTurn := 0
  mboxDone := false
  usbData := []
  cycle := 0
  dirty := []
  freeCtr := 0
  pending := []

/-- Reasons to stop with a fault. The spec's own faults are states of the device, never this. -/
inductive Fault where
  /-- Raised by a meaning whose command names nothing the device has (an ill-formed command). Safe: the model stops. -/
  | malformed
  deriving DecidableEq, Repr

/-- Reasons to refuse. -/
inductive Refusal where
  /-- Raised by an arm of exec that has no meaning yet. Safe: the model stops. -/
  | notModelled (mnemonic : String)
  deriving DecidableEq, Repr

end Sys2Proof.Machine
end

