-- ==== Sys2Proof/Machine/Setters.lean ====
section
/-! DEFINITION. One named update per field of the state. -/
namespace Sys2Proof.Machine

/-- The state with dev replaced. -/
def State.setDev (s : State) (x : Dev) : State := { s with dev := x }
/-- The state with gaf replaced. -/
def State.setGaf (s : State) (x : Gaf) : State := { s with gaf := x }
/-- The state with sec replaced. -/
def State.setSec (s : State) (x : Sec) : State := { s with sec := x }
/-- The state with time replaced. -/
def State.setTime (s : State) (x : Time) : State := { s with time := x }
/-- The state with dbg replaced. -/
def State.setDbg (s : State) (x : Dbg) : State := { s with dbg := x }
/-- The state with usb replaced. -/
def State.setUsb (s : State) (x : Usb) : State := { s with usb := x }
/-- The state with eth replaced. -/
def State.setEth (s : State) (x : BitVec 48) : State := { s with eth := x }
/-- The state with ethUp replaced. -/
def State.setEthUp (s : State) (x : Bool) : State := { s with ethUp := x }
/-- The state with cam replaced. -/
def State.setCam (s : State) (x : Cam) : State := { s with cam := x }
/-- The state with aud replaced. -/
def State.setAud (s : State) (x : Aud) : State := { s with aud := x }
/-- The state with aon replaced. -/
def State.setAon (s : State) (x : Aon) : State := { s with aon := x }
/-- The state with hbm replaced. -/
def State.setHbm (s : State) (x : SMap Hbm) : State := { s with hbm := x }
/-- The state with links replaced. -/
def State.setLinks (s : State) (x : SMap Link) : State := { s with links := x }
/-- The state with clusters replaced. -/
def State.setClusters (s : State) (x : SMap Cluster) : State := { s with clusters := x }
/-- The state with cores replaced. -/
def State.setCores (s : State) (x : SMap Core) : State := { s with cores := x }
/-- The state with parts replaced. -/
def State.setParts (s : State) (x : SMap Part) : State := { s with parts := x }
/-- The state with devCtl replaced. -/
def State.setDevCtl (s : State) (x : Ctl) : State := { s with devCtl := x }
/-- The state with mem replaced. -/
def State.setMem (s : State) (x : List Host.Cell) : State := { s with mem := x }
/-- The state with cipher replaced. -/
def State.setCipher (s : State) (x : SMap (Nat × BitVec 32 × BitVec 64)) : State := { s with cipher := x }
/-- The state with badWords replaced. -/
def State.setBadWords (s : State) (x : List Nat) : State := { s with badWords := x }
/-- The state with poison replaced. -/
def State.setPoison (s : State) (x : List Nat) : State := { s with poison := x }
/-- The state with flash replaced. -/
def State.setFlash (s : State) (x : SMap (BitVec 8)) : State := { s with flash := x }
/-- The state with pins replaced. -/
def State.setPins (s : State) (x : Pins) : State := { s with pins := x }
/-- The state with boot replaced. -/
def State.setBoot (s : State) (x : Boot) : State := { s with boot := x }
/-- The state with danger replaced. -/
def State.setDanger (s : State) (x : SMap Danger) : State := { s with danger := x }
/-- The state with ind replaced. -/
def State.setInd (s : State) (x : SMap IndBank) : State := { s with ind := x }
/-- The state with latches replaced. -/
def State.setLatches (s : State) (x : SMap (BitVec 32)) : State := { s with latches := x }
/-- The state with mboxTurn replaced. -/
def State.setMboxTurn (s : State) (x : Nat) : State := { s with mboxTurn := x }
/-- The state with mboxDone replaced. -/
def State.setMboxDone (s : State) (x : Bool) : State := { s with mboxDone := x }
/-- The state with usbData replaced. -/
def State.setUsbData (s : State) (x : List (BitVec 8)) : State := { s with usbData := x }
/-- The state with cycle replaced. -/
def State.setCycle (s : State) (x : Nat) : State := { s with cycle := x }
/-- The state with dirty replaced. -/
def State.setDirty (s : State) (x : List (Nat × Nat × Nat × Nat)) : State := { s with dirty := x }
/-- The state with freeCtr replaced. -/
def State.setFreeCtr (s : State) (x : Nat) : State := { s with freeCtr := x }
/-- The state with pending replaced. -/
def State.setPending (s : State) (x : List Instr) : State := { s with pending := x }

end Sys2Proof.Machine
end

