-- ==== Sys2Proof/Machine/SlhDsa.lean ====
section
/-! DEFINITION. SLH-DSA-SHAKE-256s and -256f of FIPS 205, in pure mode with an empty context: the check of a firmware image, the identity
key and the signature of a certificate (R651, R749, R754); its text is the standard's, not the spec's (log 13). -/
namespace Sys2Proof.Machine

/-- The parameters that tell the two sets apart: layers, height of a layer's tree, height and number of the trees of few-time keys. -/
structure SlhSet where
  layers : Nat
  tall : Nat
  fewTall : Nat
  fews : Nat
  deriving DecidableEq, Repr

/-- The small set: 29,792 bytes of signature. -/
def slhSmall : SlhSet := { layers := 8, tall := 8, fewTall := 14, fews := 22 }

/-- The fast set: 49,856 bytes of signature. -/
def slhFast : SlhSet := { layers := 17, tall := 4, fewTall := 9, fews := 35 }

/-! ### Addresses and hashes -/

/-- The value of bytes, most significant first. -/
def bigVal (l : List Byte) : Nat := leVal l.reverse

/-- Where a tree stands: its layer and its number in the layer. -/
structure SlhAt where
  layer : Nat
  tree : Nat
  deriving DecidableEq, Repr

/-- An address of 32 bytes: where, its type, and the three words that the type gives a meaning. -/
def SlhAt.adrs (w : SlhAt) (type a b c : Nat) : List Byte :=
  beBytes 4 w.layer ++ beBytes 12 w.tree ++ beBytes 4 type ++ beBytes 4 a ++ beBytes 4 b ++ beBytes 4 c

/-- The tweaked hash of 32 bytes; seeds stand before an address in it. -/
def slhHash (seed adrs m : List Byte) : List Byte := shakeN (seed ++ adrs ++ m) 32

/-- A string cut into numbers of b bits, n of them. -/
def digits (b n : Nat) (l : List Byte) : List Nat :=
  let v := bigVal l
  (upTo n).map (fun i => v / 2 ^ (8 * l.length - b * (i + 1)) % 2 ^ b)

/-! ### One-time keys -/

/-- A chain from link i on, n links. -/
def slhChain (seed : List Byte) (w : SlhAt) (key chain : Nat) : Nat → Nat → List Byte → List Byte
  | 0, _, x => x
  | n + 1, i, x => slhChain seed w key chain n (i + 1) (slhHash seed (w.adrs 0 key chain i) x)

/-- The 67 digits of a value to be signed: 64 of it and three of its check sum. -/
def slhDigits (m : List Byte) : List Nat :=
  let d := digits 4 64 m
  d ++ digits 4 3 (beBytes 2 (16 * (d.foldl (fun v x => v + (15 - x)) 0)))

/-- The secret of a chain. -/
def slhSecret (seed sk : List Byte) (w : SlhAt) (key chain : Nat) : List Byte := slhHash seed (w.adrs 5 key chain 0) sk

/-- The public key of a one-time key, of the ends of its chains. -/
def slhEnds (seed : List Byte) (w : SlhAt) (key : Nat) (l : List (List Byte)) : List Byte :=
  slhHash seed (w.adrs 1 key 0 0) (l.flatMap (fun x => x))

/-- The leaf of a one-time key. -/
def slhLeaf (seed sk : List Byte) (w : SlhAt) (key : Nat) : List Byte :=
  slhEnds seed w key ((upTo 67).map (fun i => slhChain seed w key i 15 0 (slhSecret seed sk w key i)))

/-- A value signed with a one-time key. -/
def slhOnce (seed sk : List Byte) (w : SlhAt) (key : Nat) (m : List Byte) : List Byte :=
  ((slhDigits m).zip (upTo 67)).flatMap (fun x => slhChain seed w key x.2 x.1 0 (slhSecret seed sk w key x.2))

/-- The leaf that a signature gives. -/
def slhOnceLeaf (seed : List Byte) (w : SlhAt) (key : Nat) (m sig : List Byte) : List Byte :=
  slhEnds seed w key (((slhDigits m).zip (upTo 67)).map (fun x =>
    slhChain seed w key x.2 (15 - x.1) x.1 ((sig.drop (32 * x.2)).take 32)))

/-! ### Trees -/

/-- A node of a tree: z levels above its leaves, the i-th there; `join` hashes two nodes into the one above them, at its level and
place. -/
def slhNode (leaf : Nat → List Byte) (join : Nat → Nat → List Byte → List Byte) : Nat → Nat → List Byte
  | 0, i => leaf i
  | z + 1, i => join (z + 1) i (slhNode leaf join z (2 * i) ++ slhNode leaf join z (2 * i + 1))

/-- The nodes beside the way up from leaf i of a tree of n levels. -/
def slhPath (leaf : Nat → List Byte) (join : Nat → Nat → List Byte → List Byte) (n i : Nat) : List Byte :=
  (upTo n).flatMap (fun j => slhNode leaf join j (i / 2 ^ j + 1 - 2 * (i / 2 ^ j % 2)))

/-- The root that a leaf and its path give. -/
def slhClimb (join : Nat → Nat → List Byte → List Byte) (n i : Nat) (leaf path : List Byte) : List Byte :=
  (upTo n).foldl (fun x j =>
    let y := (path.drop (32 * j)).take 32
    join (j + 1) (i / 2 ^ (j + 1)) (if i / 2 ^ j % 2 = 0 then x ++ y else y ++ x)) leaf

/-- Two nodes of a tree of one-time keys joined. -/
def slhJoin (seed : List Byte) (w : SlhAt) (z i : Nat) (m : List Byte) : List Byte := slhHash seed (w.adrs 2 0 z i) m

/-- A value signed by leaf `key` of a tree. -/
def slhTreeSign (g : SlhSet) (seed sk : List Byte) (w : SlhAt) (key : Nat) (m : List Byte) : List Byte :=
  slhOnce seed sk w key m ++ slhPath (slhLeaf seed sk w) (slhJoin seed w) g.tall key

/-- The root of a tree that a signature gives. -/
def slhTreeRoot (g : SlhSet) (seed : List Byte) (w : SlhAt) (key : Nat) (m sig : List Byte) : List Byte :=
  slhClimb (slhJoin seed w) g.tall key (slhOnceLeaf seed w key m (sig.take 2144)) (sig.drop 2144)

/-- A value signed through n layers, the lowest first. -/
def slhHyper (g : SlhSet) (seed sk : List Byte) : Nat → Nat → Nat → Nat → List Byte → List Byte
  | 0, _, _, _, _ => []
  | n + 1, layer, tree, key, m =>
    let w : SlhAt := { layer := layer, tree := tree }
    let s := slhTreeSign g seed sk w key m
    s ++ slhHyper g seed sk n (layer + 1) (tree / 2 ^ g.tall) (tree % 2 ^ g.tall) (slhTreeRoot g seed w key m s)

/-- The root of the top layer that a signature gives. -/
def slhHyperRoot (g : SlhSet) (seed : List Byte) : Nat → Nat → Nat → Nat → List Byte → List Byte → List Byte
  | 0, _, _, _, m, _ => m
  | n + 1, layer, tree, key, m, sig =>
    let size := 2144 + 32 * g.tall
    slhHyperRoot g seed n (layer + 1) (tree / 2 ^ g.tall) (tree % 2 ^ g.tall)
      (slhTreeRoot g seed { layer := layer, tree := tree } key m (sig.take size)) (sig.drop size)

/-! ### Few-time keys -/

/-- Two nodes of a tree of few-time keys joined. -/
def slhFewJoin (seed : List Byte) (w : SlhAt) (key z i : Nat) (m : List Byte) : List Byte := slhHash seed (w.adrs 3 key z i) m

/-- The secret of a few-time leaf. -/
def slhFewSecret (seed sk : List Byte) (w : SlhAt) (key i : Nat) : List Byte := slhHash seed (w.adrs 6 key 0 i) sk

/-- A digest signed with few-time key `key`. -/
def slhFew (g : SlhSet) (seed sk : List Byte) (w : SlhAt) (key : Nat) (md : List Byte) : List Byte :=
  let leaf (i : Nat) : List Byte := slhFewJoin seed w key 0 i (slhFewSecret seed sk w key i)
  ((digits g.fewTall g.fews md).zip (upTo g.fews)).flatMap (fun x =>
    let i := x.2 * 2 ^ g.fewTall + x.1
    slhFewSecret seed sk w key i ++ slhPath leaf (slhFewJoin seed w key) g.fewTall i)

/-- The public key that a few-time signature gives. -/
def slhFewRoot (g : SlhSet) (seed : List Byte) (w : SlhAt) (key : Nat) (md sig : List Byte) : List Byte :=
  let size := 32 * (g.fewTall + 1)
  slhHash seed (w.adrs 4 key 0 0) (((digits g.fewTall g.fews md).zip (upTo g.fews)).flatMap (fun x =>
    let i := x.2 * 2 ^ g.fewTall + x.1
    let s := (sig.drop (size * x.2)).take size
    slhClimb (slhFewJoin seed w key) g.fewTall i (slhFewJoin seed w key 0 i (s.take 32)) (s.drop 32)))

/-! ### Signing and checking -/

/-- What a message's digest names: the digest that is signed, the tree and the leaf. -/
def slhPlan (g : SlhSet) (r seed root m : List Byte) : List Byte × Nat × Nat :=
  let high := (g.layers - 1) * g.tall
  let a := ceilDiv (g.fewTall * g.fews) 8
  let b := ceilDiv high 8
  let d := shakeN (r ++ seed ++ root ++ [0#8, 0#8] ++ m) (a + b + ceilDiv g.tall 8)
  (d.take a, bigVal ((d.drop a).take b) % 2 ^ high, bigVal (d.drop (a + b)) % 2 ^ g.tall)

/-- Whether a signature of a message verifies under a public key: its seed, then its root. -/
def slhCheck (g : SlhSet) (pk m sig : List Byte) : Bool :=
  let seed := pk.take 32
  let few := 32 * g.fews * (g.fewTall + 1)
  let x := slhPlan g (sig.take 32) seed (pk.drop 32) m
  let w : SlhAt := { layer := 0, tree := x.2.1 }
  decide (sig.length = 32 + few + g.layers * (2144 + 32 * g.tall)) &&
    slhHyperRoot g seed g.layers 0 x.2.1 x.2.2 (slhFewRoot g seed w x.2.2 x.1 ((sig.drop 32).take few)) (sig.drop (32 + few)) ==
      pk.drop 32

/-- The root of the top tree of a key. -/
def slhRoot (g : SlhSet) (seed sk : List Byte) : List Byte :=
  let w : SlhAt := { layer := g.layers - 1, tree := 0 }
  slhNode (slhLeaf seed sk w) (slhJoin seed w) g.tall 0

/-- A message signed; `rnd` is the value that the standard lets the signer draw. -/
def slhSignWith (g : SlhSet) (sk prf seed rnd m : List Byte) : List Byte :=
  let r := shakeN (prf ++ rnd ++ [0#8, 0#8] ++ m) 32
  let x := slhPlan g r seed (slhRoot g seed sk) m
  let w : SlhAt := { layer := 0, tree := x.2.1 }
  let few := slhFew g seed sk w x.2.2 x.1
  r ++ few ++ slhHyper g seed sk g.layers 0 x.2.1 x.2.2 (slhFewRoot g seed w x.2.2 x.1 few)

/-- The firmware check of the ROM: SLH-DSA-SHAKE-256s (R651). -/
def slhVerify (pk m sig : List Byte) : Bool := slhCheck slhSmall pk m sig

/-- The three seeds of the identity key (Table SEC-1). -/
def identitySeeds (rs : BitVec 256) : List Byte := shakeN (leBytes 32 rs.toNat ++ ascii "TQ64 ID") 96

/-- The identity public key IDPK (Table SEC-1). -/
def identityKey (rs : BitVec 256) : List Byte :=
  let x := identitySeeds rs
  x.drop 64 ++ slhRoot slhFast (x.drop 64) (x.take 32)

/-- The signature under the identity key, with the value that the signer draws (R754). -/
def slhSign (rs : BitVec 256) (rnd m : List Byte) : List Byte :=
  let x := identitySeeds rs
  slhSignWith slhFast (x.take 32) ((x.drop 32).take 32) (x.drop 64) rnd m

end Sys2Proof.Machine
end

