-- ==== Sys2Proof/Machine/Ops.lean ====
section
/-! DEFINITION. The named operations over the state: records by number, registers, ownership, the device address map,
the memory of the device, translation of virtual addresses. -/
namespace Sys2Proof.Machine

/-! ### Records by number -/

/-- Key of physical core k of cluster c. -/
def coreKey (c k : Nat) : Nat := 16 * c + k

end Sys2Proof.Machine

/-- Key of a core. -/
def Sys2Proof.CoreId.key (c : Sys2Proof.CoreId) : Nat := Sys2Proof.Machine.coreKey c.cl.val c.core.val
/-- Key of a thread's core. -/
def Sys2Proof.Hart.key (h : Sys2Proof.Hart) : Nat := Sys2Proof.Machine.coreKey h.cl.val h.core.val

namespace Sys2Proof.Machine

/-- Cluster of a core key. -/
def keyCl (k : Nat) : Nat := k / 16
/-- Physical core of a core key. -/
def keyCore (k : Nat) : Nat := k % 16

/-- Core by key. -/
def State.core (s : State) (k : Nat) : Core := s.cores.get Core.init k
/-- Core updated. -/
def State.updCore (s : State) (k : Nat) (f : Core → Core) : State := { s with cores := s.cores.upd Core.init k f }
/-- Thread t of a core. -/
def State.thr (s : State) (k t : Nat) : Thread := (s.core k).threads.get Thread.init t
/-- Thread updated. -/
def State.updThr (s : State) (k t : Nat) (f : Thread → Thread) : State :=
  s.updCore k (fun c => { c with threads := c.threads.upd Thread.init t f })
/-- Accumulator slot n of a core. -/
def State.slot (s : State) (k n : Nat) : Slot := (s.core k).slots.get Slot.init n
/-- Slot updated. -/
def State.updSlot (s : State) (k n : Nat) (f : Slot → Slot) : State :=
  s.updCore k (fun c => { c with slots := c.slots.upd Slot.init n f })
/-- Cluster by number. -/
def State.cl (s : State) (c : Nat) : Cluster := s.clusters.get Cluster.init c
/-- Cluster updated. -/
def State.updCl (s : State) (c : Nat) (f : Cluster → Cluster) : State := { s with clusters := s.clusters.upd Cluster.init c f }
/-- Partition by number. -/
def State.part (s : State) (p : Nat) : Part := s.parts.get Part.init p
/-- Partition updated. -/
def State.updPart (s : State) (p : Nat) (f : Part → Part) : State := { s with parts := s.parts.upd Part.init p f }
/-- Job of a partition. -/
def State.job (s : State) (p j : Nat) : Job := (s.part p).jobs.get Job.init j
/-- Job updated. -/
def State.updJob (s : State) (p j : Nat) (f : Job → Job) : State :=
  s.updPart p (fun x => { x with jobs := x.jobs.upd Job.init j f })
/-- USB function of a partition. -/
def State.func (s : State) (p : Nat) : Func := s.usb.funcs.get Func.init p
/-- USB function updated. -/
def State.updFunc (s : State) (p : Nat) (f : Func → Func) : State :=
  { s with usb := { s.usb with funcs := s.usb.funcs.upd Func.init p f } }
/-- Link by number. -/
def State.link (s : State) (n : Nat) : Link := s.links.get Link.init n
/-- Link updated. -/
def State.updLink (s : State) (n : Nat) (f : Link → Link) : State := { s with links := s.links.upd Link.init n f }
/-- HBM stack by number. -/
def State.stack (s : State) (n : Nat) : Hbm := s.hbm.get Hbm.init n
/-- HBM stack updated. -/
def State.updStack (s : State) (n : Nat) (f : Hbm → Hbm) : State := { s with hbm := s.hbm.upd Hbm.init n f }
/-- Ownership record of a partition number (R885). -/
def State.own (s : State) (p : Nat) : Own := s.dev.own.get Own.init p
/-- Ownership record updated. -/
def State.updOwn (s : State) (p : Nat) (f : Own → Own) : State :=
  { s with dev := { s.dev with own := s.dev.own.upd Own.init p f } }
/-- Security state of a partition number; 8 is management. -/
def State.secp (s : State) (p : Nat) : SecPart := s.sec.parts.get SecPart.init p
/-- Security state updated. -/
def State.updSecp (s : State) (p : Nat) (f : SecPart → SecPart) : State :=
  { s with sec := { s.sec with parts := s.sec.parts.upd SecPart.init p f } }
/-- Controller: cluster controllers 0-7, the device controller otherwise. -/
def State.ctl (s : State) (c : Option Nat) : Ctl :=
  match c with
  | some n => (s.cl n).ctl
  | none => s.devCtl
/-- Controller updated. -/
def State.updCtl (s : State) (c : Option Nat) (f : Ctl → Ctl) : State :=
  match c with
  | some n => s.updCl n (fun x => { x with ctl := f x.ctl })
  | none => { s with devCtl := f s.devCtl }
/-- A fresh index for a free value of the device (log 5). -/
def State.fresh (s : State) : Nat × State := (16 * s.freeCtr + 15, { s with freeCtr := s.freeCtr + 1 })
/-- The next index for a free value of partition p: each partition has indices of its own, which no other one advances
(R109, R110, log 5); 8 stands for none. -/
def State.freeAt (s : State) (p : Nat) : Nat := 16 * (s.part p).freeCtr + p
/-- The indices of partition p advanced by n. -/
def State.freshP (s : State) (p n : Nat) : State := s.updPart p (fun x => { x with freeCtr := x.freeCtr + n })

/-- Integer nanoseconds of Slate (R584). -/
def State.ns (s : State) : Nat := s.time.slate.toNat / 2 ^ 32
/-- The fraction of Slate (R584). -/
def State.frac (s : State) : Nat := s.time.slate.toNat % 2 ^ 32
/-- Integer nanoseconds of Slate as a register value. -/
def State.nsW (s : State) : BitVec 64 := BitVec.ofNat 64 s.ns

/-- Whether the firmware is still starting: for 250 ms the rows recorded are repaired and the stacks train (Table HST-12, log 60). -/
def State.starting (s : State) : Bool := s.boot.running && decide (s.ns < s.boot.startNs.toNat + 250000000)

/-- The boot status: STARTING, then READY (Tables HST-12 and HST-14). -/
def State.bootCode (s : State) : BitVec 4 := if s.starting then 7#4 else s.dev.boot

/-! ### Registers -/

/-- Scalar register of a thread: g0 reads zero (R55). -/
def Thread.g (t : Thread) (n : Nat) : W64 := if n = 0 then 0#64 else t.gr.get 0#64 n
/-- Scalar register written: a write to g0 has no effect (R55). -/
def Thread.setG (t : Thread) (n : Nat) (v : W64) : Thread := if n = 0 then t else { t with gr := t.gr.put n v }
/-- Vector register of a thread (R54). -/
def Thread.v (t : Thread) (n : Nat) : VReg := t.vr.get 0#2048 n
/-- Vector register written. -/
def Thread.setV (t : Thread) (n : Nat) (x : VReg) : Thread := { t with vr := t.vr.put n x }
/-- Register of a controller: g0 reads zero (R55). -/
def Ctl.g (t : Ctl) (n : Nat) : W64 := if n = 0 then 0#64 else t.gr.get 0#64 n
/-- Register of a controller written. -/
def Ctl.setG (t : Ctl) (n : Nat) (v : W64) : Ctl := if n = 0 then t else { t with gr := t.gr.put n v }

/-! ### Ownership -/

/-- Whether partition p exists (OWNp.V, R885). -/
def State.exists? (s : State) (p : Nat) : Bool := (s.own p).v
/-- Whether partition p is confidential. -/
def State.conf (s : State) (p : Nat) : Bool := (s.own p).v && (s.own p).conf
/-- Whether the scrub of partition p runs (PSTATE 2, R779, R784): nothing of it is delivered to or sent. -/
def State.scrubbing (s : State) (p : Nat) : Bool := (s.secp p).state == 2#2
/-- A covered word of the configuration CRC is written: the check is disarmed, and a pass in progress is void (R882). -/
def State.coverTouch (s : State) : State :=
  { s with dev := { s.dev with crcArmed := false, crcRun := s.dev.crcRun.map (fun _ => true) } }
/-- Whether any confidential partition exists (SEC.STATUS.CONF_ANY, R888). -/
def State.confAny (s : State) : Bool := (upTo 8).any s.conf
/-- The partition that owns cluster c (R73); none when it is free. -/
def State.ownerCl (s : State) (c : Nat) : Option Nat :=
  (upTo 8).find? (fun p => (s.own p).v && (s.own p).clusters.getLsbD c)
/-- The partition that owns stack n (R73). -/
def State.ownerSt (s : State) (n : Nat) : Option Nat :=
  (upTo 8).find? (fun p => (s.own p).v && (s.own p).stks.getLsbD n)
/-- The partition of a core key; 8 stands for none. -/
def State.partOf (s : State) (k : Nat) : Nat := (s.ownerCl (keyCl k)).getD 8
/-- The clusters of a partition, ascending. -/
def State.clustersOf (s : State) (p : Nat) : List Nat :=
  (upTo 8).filter (fun c => (s.own p).v && (s.own p).clusters.getLsbD c)
/-- The stacks of a partition, ascending. -/
def State.stacksOf (s : State) (p : Nat) : List Nat :=
  (upTo 8).filter (fun c => (s.own p).v && (s.own p).stks.getLsbD c)
/-- The lead cluster of a partition: its lowest-numbered owned cluster (R69). -/
def State.lead (s : State) (p : Nat) : Nat := (s.clustersOf p).headD 0
/-- Physical cluster of logical cluster l (R921). -/
def State.physCl (s : State) (p l : Nat) : Option Nat :=
  match (s.part p).lmap.find l with
  | some (n + 1) => if (s.own p).clusters.getLsbD n then some n else none
  | _ => none
/-- Logical cluster of physical cluster c (R921). -/
def State.logCl (s : State) (p c : Nat) : Option Nat :=
  (upTo 8).find? (fun l => (s.part p).lmap.get 0 l == c + 1)
/-- Physical core of logical core j of a physical cluster; none where COREMAP reads 15 (R818). -/
def State.physCore (s : State) (c j : Nat) : Option Nat :=
  let m := ((s.cl c).coremap.get 0#4 j).toNat
  if m > 8 then none else some m
/-- Logical core of a physical core (R22, R818); none for a spare or a quarantined core. -/
def State.logCore (s : State) (c k : Nat) : Option Nat :=
  (upTo 8).find? (fun j => s.physCore c j == some k)
/-- Core key of a logical core of a partition (R90). -/
def State.logKey (s : State) (p l j : Nat) : Option Nat :=
  match s.physCl p l with
  | none => none
  | some c => (s.physCore c j).map (fun k => coreKey c k)
/-- The logical cluster and core of a core key, 0 where there is none. -/
def State.logOf (s : State) (k : Nat) : Nat × Nat :=
  ((s.logCl (s.partOf k) (keyCl k)).getD 0, (s.logCore (keyCl k) (keyCore k)).getD 0)
/-- The clock of a cluster in MHz: CLKc.CUR in units of 50 MHz (R886). -/
def State.clkMHz (s : State) (c : Nat) : Nat := (s.gaf.clkCur.get 0#6 c).toNat * 50
/-- L_HBM in cycles of a cluster's clock (R424). -/
def State.lHbm (s : State) (c : Nat) : Nat := ceilDiv (450 * s.clkMHz c) 1000

/-! ### The device address map (R459) -/

/-- Bytes of one stack's range (R432). -/
def stackBytes : Nat := 0xC00000000
/-- Device address of a byte of cluster store c. -/
def clStore (c off : Nat) : Nat := 0xF000000000 + c * 0x4000000 + off
/-- Device address of a byte of the store of core k of cluster c. -/
def coreStore (k off : Nat) : Nat := 0xF100000000 + k * 0x800000 + off
/-- The base of the CSR space. -/
def csrBase : Nat := 0xFF00000000

/-- A region of the device address space. -/
inductive Region where
  | hbm (st : Nat)
  | localMem (off : Nat)
  | cluster (c off : Nat)
  | core (k off : Nat)
  | csr (off : Nat)
  | hole
  deriving DecidableEq, Repr

/-- The region of a device address (Table MEM-5): the unpopulated halves of store windows are holes (R460). -/
def regionOf (a : Nat) : Region :=
  if a < 8 * stackBytes then .hbm (a / stackBytes)
  else if 0xEFFFF00000 ≤ a ∧ a < 0xF000000000 then .localMem (a - 0xEFFFF00000)
  else if 0xF000000000 ≤ a ∧ a < 0xF020000000 then
    let o := (a - 0xF000000000) % 0x4000000
    if o < 0x2000000 then .cluster ((a - 0xF000000000) / 0x4000000) o else .hole
  else if 0xF100000000 ≤ a ∧ a < 0xF100000000 + 128 * 0x800000 then
    let k := (a - 0xF100000000) / 0x800000
    let o := (a - 0xF100000000) % 0x800000
    if o < 0x400000 ∧ k % 16 < 9 then .core k o else .hole
  else if csrBase ≤ a ∧ a < csrBase + 0x1000000 then .csr (a - csrBase)
  else .hole

/-- Channel placement of an HBM address in its interleave set (R433, R434): stack, channel, offset in the channel. -/
def State.placeHbm (s : State) (a : Nat) : Nat × Nat × Nat :=
  let st := a / stackBytes
  let set := match s.ownerSt st with
    | some p => s.stacksOf p
    | none => [st]
  let n := set.length
  let x := (set.findIdx (fun i => i == st)) * stackBytes + a % stackBytes
  let q := x / 256
  let c := 32 * n
  let r := q / c
  let h := (bitsAt r 0 8) ^^^ (bitsAt r 8 8) ^^^ (bitsAt r 16 7)
  let k := (q % c + h) % c
  (set.getD (k / 32) st, k % 32, r * 256 + a % 256)

/-- Bank of a cluster-store offset (R428). -/
def bankOf (off : Nat) : Nat := (bitsAt off 6 5) ^^^ (bitsAt off 11 5)

/-! ### Memory of the device -/

/-- Under what the granule at an HBM address is encrypted (R764): the partition number, the key epoch and the boot value of its
confidential owner; none where the stack has no confidential owner, and for the stores (R766). -/
def State.xtsKey (s : State) (a : Nat) : Option (Nat × BitVec 32 × BitVec 64) :=
  match regionOf a with
  | .hbm n => match s.ownerSt n with
    | some p => if s.conf p then some (p, (s.secp p).epoch, s.sec.bv) else none
    | none => none
  | _ => none

/-- The key pair of R764: the 64 bytes of SHAKE256(MK ‖ "TQ64 XTS" ‖ BV), with MK of R749. -/
def State.xtsPair (s : State) (bv : BitVec 64) : BitVec 512 :=
  shake512 (leBytes 32 (shake256 (leBytes 32 s.sec.rs.toNat ++ ascii "TQ64 MEM")).toNat ++ ascii "TQ64 XTS" ++
    leBytes 8 bv.toNat)

/-- The tweak of R764: A[39:6] in [33:0], the partition number in [38:36], the key epoch in [95:64]. -/
def xtsTweak (g p epoch : Nat) : BitVec 128 := BitVec.ofNat 128 (g % 2 ^ 34 + 2 ^ 36 * (p % 8) + 2 ^ 64 * (epoch % 2 ^ 32))

/-- The key under which a granule of HBM was last written; the stores of clusters and cores are not encrypted (R764, R766). -/
def State.cipherAt (s : State) (g : Nat) : Option (Nat × BitVec 32 × BitVec 64) :=
  match regionOf (64 * g) with
  | .hbm _ => s.cipher.find g
  | _ => none

/-- What the 64 bytes of granule g read as (R764, R780): mem holds the plaintext that was written under the key that cipher
lists. Under the same key they read so; under another, the stored ciphertext is decrypted with the key of the present owner. -/
def State.granule (s : State) (g : Nat) : List Byte :=
  let l := Memory.readN s.mem (64 * g) 64
  let raw := match s.cipherAt g with
    | none => l
    | some k => xtsEnc (s.xtsPair k.2.2) (xtsTweak g k.1 k.2.1.toNat) l
  match s.xtsKey (64 * g) with
  | none => raw
  | some k => xtsDec (s.xtsPair k.2.2) (xtsTweak g k.1 k.2.1.toNat) raw

/-- Whether a granule is held under the key that its owner reads it with. -/
def State.sameKey (s : State) (g : Nat) : Bool := s.cipherAt g == s.xtsKey (64 * g)

/-- The granules that n bytes from an address touch. -/
def granulesOf (a n : Nat) : List Nat := if n = 0 then [] else (upTo ((a + n - 1) / 64 - a / 64 + 1)).map (fun i => a / 64 + i)

/-- One byte at a device address. -/
def State.rd (s : State) (a : Nat) : Byte :=
  if s.sameKey (a / 64) then Memory.read s.mem a else (s.granule (a / 64)).getD (a % 64) 0#8
/-- n bytes from a device address. -/
def State.rdN (s : State) (a n : Nat) : List Byte :=
  if (granulesOf a n).all s.sameKey then Memory.readN s.mem a n else (upTo n).map (fun i => s.rd (a + i))
/-- A granule brought under the key of its owner: every byte reads as before. -/
def State.rekey (s : State) (g : Nat) : State :=
  if s.sameKey g then s
  else { s with mem := Memory.writeN s.mem (64 * g) (sliceB (s.granule g) 0 64),
                cipher := match s.xtsKey (64 * g) with
                  | none => s.cipher.erase g
                  | some k => s.cipher.put g k }
/-- Bytes written from a device address: every granule of HBM is encrypted under its owner's key (R764). -/
def State.wrN (s : State) (a : Nat) (l : List Byte) : State :=
  let s := (granulesOf a l.length).foldl (fun s g => s.rekey g) s
  { s with mem := Memory.writeN s.mem a l }
/-- A little-endian value at a device address. -/
def State.rdVal (s : State) (a n : Nat) : Nat := leVal (s.rdN a n)
/-- A little-endian value written at a device address. -/
def State.wrVal (s : State) (a n v : Nat) : State := s.wrN a (leBytes n v)

/-- The unit of error checking that holds an address: a 64-byte granule of HBM, a 64-bit word of a store (R431, R450). -/
def errUnit (a : Nat) : Nat := match regionOf a with
  | .hbm _ => a / 64 * 64
  | _ => a / 8 * 8

/-- Whether a stack has failed as a whole (R458). -/
def State.deadStack (s : State) (a : Nat) : Bool := match regionOf a with
  | .hbm n => (s.stack n).failed
  | _ => false

/-- Whether a byte cannot be read: its unit holds a known uncorrectable error or its stack has failed (R448, R452, R458). -/
def State.badAt (s : State) (a : Nat) : Bool :=
  s.deadStack a || s.badWords.contains (errUnit a) || s.poison.contains (errUnit a)

/-- The first unreadable byte of a list of device addresses. -/
def State.firstBad (s : State) (l : List Nat) : Option Nat := l.find? s.badAt

/-- Whether two byte ranges share a byte. -/
def overlaps (a n b m : Nat) : Bool := decide (n > 0) && decide (m > 0) && decide (a < b + m) && decide (b < a + n)

/-- Bytes of the error unit at an address (R431, R450). -/
def unitSize (a : Nat) : Nat := match regionOf a with
  | .hbm _ => 64
  | _ => 8

/-- Whether a device range holds a byte that cannot be read. -/
def State.badIn (s : State) (a n : Nat) : Bool :=
  decide (n > 0) && (s.deadStack a || (s.badWords ++ s.poison).any (fun u => overlaps u (unitSize u) a n))

/-- The offset of the first byte of a device range that cannot be read. -/
def State.badFirst (s : State) (a n : Nat) : Option Nat :=
  if n = 0 then none
  else if s.deadStack a then some 0
  else ((s.badWords ++ s.poison).filter (fun u => overlaps u (unitSize u) a n)).foldl
    (fun m u => some (min (m.getD n) (u - a))) none

/-- The offset of the first byte of a write that it may not perform: an error unit which the write covers only in part, or
a failed stack (R449, R452, R458). -/
def State.badPart (s : State) (a n : Nat) : Option Nat :=
  if n = 0 then none
  else if s.deadStack a then some 0
  else ((s.badWords ++ s.poison).filter (fun u => overlaps u (unitSize u) a n &&
      !(decide (a ≤ u) && decide (u + unitSize u ≤ a + n)))).foldl
    (fun m u => some (min (m.getD n) (u - a))) none

/-- Error units fully covered by a write lose their error (R452). -/
def clearUnits (marks : List Nat) (size a n : Nat) : List Nat :=
  marks.filter (fun u => !(decide (a ≤ u) && decide (u + size ≤ a + n)))

/-- A write of a run of bytes; it clears the error of every store word and granule it covers whole (R452). -/
def State.store (s : State) (a : Nat) (l : List Byte) : State :=
  let n := l.length
  let size := match regionOf a with
    | .hbm _ => 64
    | _ => 8
  let s := s.wrN a l
  { s with badWords := clearUnits s.badWords size a n, poison := clearUnits s.poison size a n }

/-! ### Translation (R84 to R91, R922, R923) -/

/-- The lead cluster's level-1 table when it lies in that cluster's store; none when no tables are set up (log 9). -/
def State.ptRoot (s : State) (p : Nat) : Option Nat :=
  let r := (s.cl (s.lead p)).ptRoot.toNat
  match regionOf r with
  | .cluster c _ => if c = s.lead p ∧ (s.own p).v then some r else none
  | _ => none

/-- The next table named by an upper-level entry: valid bit 63, device address in [39:0], in the lead cluster's store. -/
def State.nextTable (s : State) (p entry : Nat) : Option Nat :=
  if bitAt entry 63 then
    match regionOf (bitsAt entry 0 40) with
    | .cluster c _ => if c = s.lead p then some (bitsAt entry 0 40) else none
    | _ => none
  else none

/-- The device address of the level-3 entry of a page, where tables in memory reach one: level 1 by VA[47:37], level 2
by VA[36:26], level 3 by VA[25:16]. -/
def State.walk (s : State) (p page : Nat) : Option Nat :=
  match s.ptRoot p with
  | none => none
  | some r =>
    match s.nextTable p (s.rdVal (r + 8 * bitsAt page 21 11) 8) with
    | none => none
    | some t2 =>
      match s.nextTable p (s.rdVal (t2 + 8 * bitsAt page 10 11) 8) with
      | none => none
      | some t3 => some (t3 + 8 * bitsAt page 0 10)

/-- Whether the walk of a page meets a pointer out of the lead cluster's store: the part blocks it (R79). -/
def State.walkOut (s : State) (p page : Nat) : Bool :=
  let out (e : Nat) : Bool := bitAt e 63 && (s.nextTable p e).isNone
  match s.ptRoot p with
  | none => false
  | some r =>
    let e1 := s.rdVal (r + 8 * bitsAt page 21 11) 8
    out e1 || (match s.nextTable p e1 with
      | some t2 => out (s.rdVal (t2 + 8 * bitsAt page 10 11) 8)
      | none => false)

/-- Whether a page is in motion: some operation holds it with MV = 1 (R101, R103). -/
def State.moving (s : State) (p page : Nat) : Bool :=
  (s.clustersOf p).any (fun c => (upTo 9).any (fun j => (s.core (coreKey c j)).dmaq.any (fun o =>
    o.held.any (fun x => x.2.1 == page))))

/-- An entry as the part takes it from a table in memory: its reserved bits count as zero, and MV, which is RO to software,
says whether the page is in motion (Table PGM-4, R103). -/
def State.entryOf (s : State) (p page v : Nat) : W64 :=
  let e : W64 := BitVec.ofNat 64 v &&& 0xFFFFFF0770FF#64
  if e.getLsbD 0 && s.moving p page then e ||| 0x100#64 else e

/-- The level-3 entry of a page (Table PGM-4): from memory where the tables reach it, else the part's own map (log 9). A page
beyond the 48-bit addresses has none (R84, R923), nor has one whose walk the part blocks (R79). -/
def State.pte (s : State) (p page : Nat) : W64 :=
  if page ≥ 2 ^ 32 then 0#64
  else match s.walk p page with
    | some a => s.entryOf p page (s.rdVal a 8)
    | none => if s.walkOut p page then 0#64 else (s.part p).ptes.get 0#64 page

/-- The level-3 entry of a page written by the part. -/
def State.setPte (s : State) (p page : Nat) (e : W64) : State :=
  match s.walk p page with
  | some a => s.wrVal a 8 e.toNat
  | none => s.updPart p (fun x => { x with
      ptes := if e = 0#64 then x.ptes.erase page else x.ptes.put page e })

/-- Fields of a level-3 entry (Table PGM-4). -/
def pteV (e : W64) : Bool := e.getLsbD 0
/-- L. -/
def pteL (e : W64) : Bool := e.getLsbD 1
/-- TIER. -/
def pteTier (e : W64) : Nat := bitsAt e.toNat 2 2
/-- PIN. -/
def ptePin (e : W64) : Bool := e.getLsbD 4
/-- RO. -/
def pteRo (e : W64) : Bool := e.getLsbD 5
/-- SH. -/
def pteSh (e : W64) : Bool := e.getLsbD 6
/-- X. -/
def pteX (e : W64) : Bool := e.getLsbD 7
/-- MV. -/
def pteMv (e : W64) : Bool := e.getLsbD 8
/-- CORE. -/
def pteCore (e : W64) : Nat := bitsAt e.toNat 12 3
/-- CLUSTER. -/
def pteCluster (e : W64) : Nat := bitsAt e.toNat 16 3
/-- FRAME. -/
def pteFrame (e : W64) : Nat := bitsAt e.toNat 24 24
/-- The home of an entry as MOVE's IMM[7:0] names it: tier, core, cluster (R234). -/
def pteHome (e : W64) : Nat :=
  match pteTier e with
  | 0 => 0 + 4 * pteCore e + 32 * pteCluster e
  | 1 => 1 + 32 * pteCluster e
  | t => t

/-- An entry built from its fields (Table PGM-4). -/
def mkPte (l pin ro sh x mv : Bool) (home frame : Nat) : W64 :=
  BitVec.ofNat 64 (1 + 2 * b2n l + 4 * (home % 4) + 16 * b2n pin + 32 * b2n ro + 64 * b2n sh + 128 * b2n x +
    256 * b2n mv + 4096 * bitsAt home 2 3 + 65536 * bitsAt home 5 3 + 16777216 * (frame % 2 ^ 24))

/-- The entry with its MV bit set or cleared (R103). -/
def pteSetMv (e : W64) (b : Bool) : W64 :=
  mkPte (pteL e) (ptePin e) (pteRo e) (pteSh e) (pteX e) b (pteHome e) (pteFrame e)

/-- The device address that an entry gives a virtual address; none for the host tier, for a core that has no physical
core, and for a place the partition does not own (R79, R90). -/
def State.devOf (s : State) (p : Nat) (e : W64) (va : Nat) : Option Nat :=
  let off := if pteL e then va % 0x200000 else va % 0x10000
  let o := pteFrame e * 0x10000 + off
  match pteTier e with
  | 0 => if o < 0x400000 then (s.logKey p (pteCluster e) (pteCore e)).map (fun k => coreStore k o) else none
  | 1 => if o < 0x2000000 then (s.physCl p (pteCluster e)).map (fun c => clStore c o) else none
  | 2 => if o < 8 * stackBytes ∧ s.ownerSt (o / stackBytes) = some p then some o else none
  | _ => none

/-- Whether an address has an entry, or a table of its walk, that lies outside what the partition owns: in a stack or a cluster of
another, or in no store at all (R73, R79). -/
def State.outside (s : State) (p va : Nat) : Bool :=
  let e := s.pte p (va / 65536)
  let o := pteFrame e * 0x10000
  decide (va < 2 ^ 48) && (s.walkOut p (va / 65536) || pteV e && (match pteTier e with
    | 0 => (s.physCl p (pteCluster e)).isNone
    | 1 => (s.physCl p (pteCluster e)).isNone
    | 2 => s.ownerSt (o / stackBytes) != some p
    | _ => false))

/-- An access that was blocked counts where it fell outside the partition's ownership (R79). -/
def State.noteOutside (s : State) (p va : Nat) : State :=
  if s.outside p va then s.updPart p (fun x => { x with badAccess := x.badAccess + 1 }) else s

/-- The device address of a virtual address, where it has one that the partition owns. -/
def State.va? (s : State) (p va : Nat) : Option Nat :=
  if va ≥ 2 ^ 48 then none
  else
    let e := s.pte p (va / 65536)
    if pteV e && decide (va ≥ 65536) then s.devOf p e va else none

/-- Who may reach which home: a thread its own stores, the queue's own core store, a ladder image or a tile any home
but the host, a DMA any home (R87, R88). -/
inductive Reach where
  | ownStores
  | ownCore
  | device
  | any
  deriving DecidableEq, Repr

/-- Whether the home of an entry lies within reach of core k. -/
def State.reaches (s : State) (k : Nat) (r : Reach) (e : W64) (va : Nat) : Bool :=
  let d := s.devOf (s.partOf k) e va
  match r with
  | .any => pteTier e == 3 || d.isSome
  | .device => d.isSome
  | .ownCore => match d with
    | some a => (match regionOf a with | .core j _ => j == k | _ => false)
    | none => false
  | .ownStores => match d with
    | some a => (match regionOf a with | .core j _ => j == k | .cluster c _ => c == keyCl k | _ => false)
    | none => false

/-- Fault codes of Table ISA-15 and of the later chapters. -/
def fcIllegal : Nat := 0x01
/-- PRIV. -/
def fcPriv : Nat := 0x02
/-- ALIGN. -/
def fcAlign : Nat := 0x03
/-- FETCH_FAULT. -/
def fcFetch : Nat := 0x04
/-- PAGE_FAULT. -/
def fcPage : Nat := 0x05
/-- TIER_FAULT. -/
def fcTier : Nat := 0x06
/-- WRITE_RO. -/
def fcRo : Nat := 0x07
/-- MEM_UE. -/
def fcUe : Nat := 0x08
/-- ACC_OWNER. -/
def fcOwner : Nat := 0x09
/-- ACC_KIND. -/
def fcKind : Nat := 0x0A
/-- LADDER_FULL. -/
def fcFull : Nat := 0x0B
/-- LADDER_RANGE. -/
def fcRange : Nat := 0x0C
/-- QDESC. -/
def fcQdesc : Nat := 0x0D
/-- DMA_TAGS. -/
def fcTags : Nat := 0x0E
/-- BREAK. -/
def fcBreak : Nat := 0x0F
/-- TRAP. -/
def fcTrap : Nat := 0x10
/-- FUSE_DESC. -/
def fcFuse : Nat := 0x20
/-- RUN_DESC. -/
def fcRun : Nat := 0x21
/-- NO_CHUNK. -/
def fcNoChunk : Nat := 0x22

/-- The fault of an access to one page, in the order PAGE_FAULT, TIER_FAULT, WRITE_RO (R926). -/
def State.pageFault (s : State) (k : Nat) (r : Reach) (write : Bool) (va : Nat) : Option Nat :=
  if va ≥ 2 ^ 48 ∨ va < 65536 then some fcPage
  else
    let e := s.pte (s.partOf k) (va / 65536)
    if !pteV e then some fcPage
    else if !s.reaches k r e va then some fcTier
    else if write && pteRo e then some fcRo
    else none

/-- The first byte of a range in each page that it touches, ascending (R241). -/
def pagesOf (va len : Nat) : List Nat :=
  if len = 0 then []
  else
    let p0 := va / 65536
    let n := (va + len - 1) / 65536 - p0 + 1
    (upTo n).map (fun i => if i = 0 then va else (p0 + i) * 65536)

/-- An operand range: address, bytes, who must reach it, whether it is written. -/
structure Range where
  va : Nat
  len : Nat
  reach : Reach
  write : Bool
  deriving DecidableEq, Repr

/-- The first translation fault of a list of ranges, each in ascending address (R926 item 8): code and address. -/
def State.rangeFault (s : State) (k : Nat) : List Range → Option (Nat × Nat)
  | [] => none
  | r :: t =>
    match (pagesOf r.va r.len).findSome? (fun a => (s.pageFault k r.reach r.write a).map (fun c => (c, a))) with
    | some x => some x
    | none => State.rangeFault s k t

/-- Whether a range reaches the addresses reserved for S-level code (R86): PRIV. -/
def inSRange (va len : Nat) : Bool :=
  decide (len > 0) && decide (va < 2 ^ 48) && decide (va + len > 0xFFFF00000000)

/-- Whether a page of a range has its MV bit set (R104). -/
def State.mvRange (s : State) (k va len : Nat) : Bool :=
  (pagesOf va len).any (fun a => let e := s.pte (s.partOf k) (a / 65536); pteV e && pteMv e)

/-- One byte at a virtual address of a partition; zero where it has no device address. -/
def State.vrd (s : State) (p va : Nat) : Byte :=
  match s.va? p va with
  | some a => s.rd a
  | none => 0#8

/-- n bytes from a virtual address. -/
def State.vrdN (s : State) (p va n : Nat) : List Byte := (upTo n).map (fun i => s.vrd p (va + i))

/-- A little-endian value at a virtual address. -/
def State.vrdVal (s : State) (p va n : Nat) : Nat := leVal (s.vrdN p va n)

/-- Whether any byte of a virtual range cannot be read without error (R448). -/
def State.vbad (s : State) (p va n : Nat) : Bool :=
  (upTo n).any (fun i => match s.va? p (va + i) with
    | some a => s.badAt a
    | none => false)

/-- Runs of a virtual range that lie in one page: device address, offset in the range, bytes. -/
def State.runs (s : State) (p va n : Nat) : List (Option Nat × Nat × Nat) :=
  (pagesOf va n).map (fun a =>
    let off := a - va
    let len := min (n - off) (65536 - a % 65536)
    (s.va? p a, off, len))

/-- Whether a write of a virtual range may not be performed: it covers an error unit only in part, or reaches a failed stack
(R449, R452, R458). -/
def State.vbadPart (s : State) (p va n : Nat) : Bool :=
  (s.runs p va n).any (fun r => match r.1 with
    | some a => (s.badPart a r.2.2).isSome
    | none => false)

/-- Bytes written at a virtual address, page by page; bytes without a device address are not written. -/
def State.vwr (s : State) (p va : Nat) (l : List Byte) : State :=
  (s.runs p va l.length).foldl (fun s r =>
    match r.1 with
    | some a => s.store a ((l.drop r.2.1).take r.2.2)
    | none => s) s

end Sys2Proof.Machine
end

