-- ==== Sys2Proof/Machine/Report.lean ====
section
/-! DEFINITION. What the device reports: counters (R819 to R822), Dailies and its triggers (R841 to R851), event records
(R630 to R633), completions (R624), event words of controllers (R297), and the CRCs. -/
namespace Sys2Proof.Machine

/-! ### Checksums -/

/-- One step of a reflected CRC with the given reflected polynomial. -/
def crcStep (poly c : Nat) : Nat := if c % 2 = 1 then (c / 2) ^^^ poly else c / 2

/-- A byte taken into a reflected CRC. -/
def crcByte (poly c : Nat) (b : Byte) : Nat :=
  let x := c ^^^ b.toNat
  crcStep poly (crcStep poly (crcStep poly (crcStep poly (crcStep poly (crcStep poly (crcStep poly (crcStep poly x)))))))

/-- The CRC-64 of R526: polynomial 0x42F0_E1EB_A9EA_3693 reflected, all ones at the start and at the end. -/
def crc64 (l : List Byte) : Nat :=
  (l.foldl (crcByte 0xC96C5795D7870F42) 0xFFFFFFFFFFFFFFFF) ^^^ 0xFFFFFFFFFFFFFFFF

/-- The CRC-32C pass over a list of 32-bit words (R880). -/
def crc32c (ws : List W32) : Nat :=
  (ws.foldl (fun c w => (leBytes 4 w.toNat).foldl (crcByte 0x82F63B78) c) 0xFFFFFFFF) ^^^ 0xFFFFFFFF

/-! ### Counters -/

/-- Whether a counter belongs to the set Always (Table DBG-1). -/
def cntAlways (n : Nat) : Bool :=
  decide (n ≤ 3) || (decide (0x20 ≤ n) && decide (n ≤ 0x27)) || n == 0x2A || n == 0x2B || (decide (0x50 ≤ n) && decide (n ≤ 0x66))

/-- Whether Table DBG-1 lists a counter number (R819). -/
def cntListed (n : Nat) : Bool :=
  decide (n ≤ 3) || (decide (0x11 ≤ n) && decide (n ≤ 0x1D)) || (decide (0x20 ≤ n) && decide (n ≤ 0x2B)) ||
  (decide (0x40 ≤ n) && decide (n ≤ 0x47)) || (decide (0x50 ≤ n) && decide (n ≤ 0x5D)) || (decide (0x60 ≤ n) && decide (n ≤ 0x66))

/-- What the estimate charges for one count of a counter, in units of 1/1000 pJ (Table PWR-7, R741). -/
def charge (n : Nat) : Nat := match n with
  | 0x11 => 900
  | 0x12 => 900
  | 0x19 => 900
  | 0x13 => 450
  | 0x14 => 450
  | 0x17 => 450
  | 0x15 => 225
  | 0x16 => 225
  | 0x18 => 225
  | 0x1A => 1000
  | 0x40 => 400
  | 0x41 => 400
  | 0x42 => 1000
  | 0x43 => 1000
  | 0x44 => 4000
  | 0x45 => 4000
  | _ => 0

/-- A core's counter advanced by v: Always counters at every moment, Full ones only under CNT_CTL.FULL (R822). The
compatibility counters are held in bytes (R820). The power estimate takes its charges whether or not FULL is set (R741). -/
def Core.count (c : Core) (n v : Nat) : Core :=
  let c := { c with winE := c.winE + charge n * v }
  if cntAlways n || c.full then { c with cnt := c.cnt.put n (BitVec.ofNat 64 ((c.cnt.get 0#64 n).toNat + v)) } else c

/-- A counter of the core with key k advanced. -/
def State.count (s : State) (k n v : Nat) : State := s.updCore k (fun c => c.count n v)

/-- The cycle count of a cluster, in its clock (log 3). -/
def State.clCycle (s : State) (c : Nat) : Nat := s.cycle * s.clkMHz c / 1200

/-- The count that a read of a counter of a core gives: native counters modulo 2^64, compatibility counters in units of
64 bytes modulo 2^48 (R820); link and authentication counters are the partition's, the same on every core (Table DBG-1). -/
def State.counter (s : State) (k n : Nat) : W64 :=
  let p := s.partOf k
  let units (b : Nat) : W64 := BitVec.ofNat 64 (b / 64 % 2 ^ 48)
  if n = 0 then (s.core k).cnt.get 0#64 0 + BitVec.ofNat 64 (s.clCycle (keyCl k))
  else if n = 0x2A then (s.secp p).authDrop.setWidth 64
  else if 0x50 ≤ n ∧ n ≤ 0x5D then
    (if n % 2 = 0 then units ((s.part p).linkTx.get 0 ((n - 0x50) / 2)) else units ((s.part p).linkRx.get 0 ((n - 0x50) / 2)))
  else if 0x60 ≤ n ∧ n ≤ 0x66 then BitVec.ofNat 64 ((s.part p).linkRpl.get 0 (n - 0x60))
  else if 0x40 ≤ n ∧ n ≤ 0x47 then units ((s.core k).cnt.get 0#64 n).toNat
  else (s.core k).cnt.get 0#64 n

/-- The compatibility byte counter of an access: 0x40 + 2 × tier, plus one for a write (Table DBG-1). -/
def byteCnt (tier : Nat) (write : Bool) : Nat := 0x40 + 2 * tier + b2n write

/-- The tier of a device address: 0 core store, 1 cluster store, 2 HBM. -/
def tierOf (a : Nat) : Nat := match regionOf a with
  | .core _ _ => 0
  | .cluster _ _ => 1
  | _ => 2

/-! ### Dailies -/

/-- Trace state of a cluster. -/
def State.trace (s : State) (c : Nat) : Trace := s.dbg.traces.get Trace.init c
/-- Trace state updated. -/
def State.updTrace (s : State) (c : Nat) (f : Trace → Trace) : State :=
  { s with dbg := { s.dbg with traces := s.dbg.traces.upd Trace.init c f } }

/-- Records that the buffer holds: 131,072 in the carve-out (R842), SPILL_SIZE / 32 in HBM (R850). -/
def Trace.n (t : Trace) : Nat := if t.cfg.getLsbD 8 then t.spillSize.toNat / 32 else 131072
/-- The mode: 0 STOP, 1 WRAP, 2 CENTRE (Table DBG-7). -/
def Trace.mode (t : Trace) : Nat := bitsAt t.cfg.toNat 1 2
/-- P of R845: records that follow the first trigger in CENTRE. -/
def Trace.postN (t : Trace) : Nat := t.n - t.n * bitsAt t.cfg.toNat 3 4 / 16 - 1

/-- A 32-byte record (Table DBG-5). -/
def traceRec (ty core thr part cyc ns pc : Nat) (data : Nat) : BitVec 256 :=
  BitVec.ofNat 256 (ty % 256 + 2 ^ 8 * (core % 16) + 2 ^ 12 * (thr % 64) + 2 ^ 18 * (part % 8) + 2 ^ 32 * (cyc % 2 ^ 32) +
    2 ^ 64 * (ns % 2 ^ 64) + 2 ^ 128 * (pc % 2 ^ 48) + 2 ^ 192 * (data % 2 ^ 64))

/-- A record placed at the next index; STOP stops when the buffer is full (R845). -/
def State.tracePut (s : State) (c : Nat) (r : BitVec 256) : State :=
  let t := s.trace c
  let i := if t.n = 0 then 0 else t.written % t.n
  let full : Bool := t.mode == 0 && decide (t.written + 1 ≥ t.n)
  let post : Nat := t.post - 1
  let t' := { t with
    buf := if t.cfg.getLsbD 8 then t.buf else t.buf.put i r,
    written := t.written + 1,
    wrptr := BitVec.ofNat 32 (if t.n = 0 then 0 else (t.written + 1) % t.n),
    post := if t.state = 2#2 then post else t.post,
    state := if full then 3#2 else if t.state = 2#2 && post == 0 then 3#2 else t.state }
  let s := s.updTrace c (fun _ => t')
  if t.cfg.getLsbD 8 then s.store (t.spillBase.toNat + 32 * i) (leBytes 32 r.toNat) else s

/-- Records that a cluster's Dailies has written in the present cluster cycle (R843). -/
def State.traceUsed (s : State) (c : Nat) : Nat := if (s.trace c).cyc = s.clCycle c then (s.trace c).inCyc else 0

/-- A record goes to Dailies: at most two in a cluster cycle, a further one is dropped and counted; the next one written comes
after a GAP record with the count (R843). A TRIGGER record comes before every other record of its cycle, and is not dropped
(R844). -/
def State.traceWrite (s : State) (c : Nat) (trig : Bool) (r : BitVec 256) : State :=
  let used := s.traceUsed c
  let gap := (s.trace c).gap
  if !trig && decide (used ≥ 2) then s.updTrace c (fun t => { t with gap := t.gap + 1 })
  else
    let s := if gap = 0 then s
      else (s.tracePut c (Machine.traceRec 0 0 0 ((s.ownerCl c).getD 0) (s.clCycle c) s.ns 0 gap)).updTrace c (fun t => { t with gap := 0 })
    let s := s.updTrace c (fun t => { t with cyc := s.clCycle c, inCyc := used + 1 + b2n (gap != 0) })
    if (s.trace c).state = 1#2 ∨ (s.trace c).state = 2#2 then s.tracePut c r else s

/-- Whether lossless Dailies holds a cluster in this cycle: it records and cannot accept a further record (R843). -/
def State.traceHeld (s : State) (c : Nat) : Bool :=
  let t := s.trace c
  t.cfg.getLsbD 7 && (t.state == 1#2 || t.state == 2#2) && decide (s.traceUsed c ≥ 2)

/-- A record of type ty written by cluster c's Dailies when it records that type; nothing is recorded from a
confidential partition (R775). -/
def State.traceRec (s : State) (k ty thr pc data : Nat) : State :=
  let c := keyCl k
  let t := s.trace c
  let p := s.partOf k
  if (t.state = 1#2 ∨ t.state = 2#2) ∧ bitAt t.cfg.toNat (10 + (ty - 2)) ∧ !s.conf p then
    s.traceWrite c false (Machine.traceRec ty (keyCore k) thr p (s.clCycle c) s.ns pc data)
  else s

/-! ### Event records -/

/-- Whether the endpoint of an event queue delivers: 8 is EP3, p the function of partition p (R612, R632). -/
def State.evOpen (s : State) (q : Nat) : Bool := q == 8 || (s.func q).st != FuncSt.off

/-- A record queued on an endpoint: 256 are held, a further one is dropped and counted (R633); a record for a function
that does not operate is discarded. A queued record signals a remote wake from U3 (R609). -/
def State.postRaw (s : State) (q : Nat) (r : EventRec) : State :=
  if !s.evOpen q then s
  else
    let l := s.usb.evq.get [] q
    if l.length ≥ 256 then { s with usb := { s.usb with lost := s.usb.lost.upd 0 q (fun n => n + 1) } }
    else { s with usb := { s.usb with evq := s.usb.evq.put q (l ++ [r]), remoteWake := s.usb.remoteWake || s.usb.u3 } }

/-- An event record at the present Slate time (Table HST-6). -/
def State.mkEvent (s : State) (code source unit part : Nat) (dev : Bool) (detail : Nat) : EventRec :=
  { EventRec.init with
    slate := s.nsW, code := BitVec.ofNat 8 code, source := BitVec.ofNat 8 source, unit := BitVec.ofNat 8 unit,
    part := BitVec.ofNat 4 part, dev := dev, detail := BitVec.ofNat 128 detail }

/-- A trigger taken by one cluster's Dailies, or missed when its buffer is stopped (R844 to R847). -/
def State.takeTrigger (s : State) (c : Nat) (cause core thr : Nat) : State × Bool × Bool :=
  let t := s.trace c
  if t.state = 1#2 ∨ t.state = 2#2 then
    let first := !t.trig
    let s := s.traceWrite c true (Machine.traceRec 1 core thr ((s.ownerCl c).getD 0) (s.clCycle c) s.ns 0 cause)
    let s := s.updTrace c (fun u => { u with
      trig := true
      trigPos := if first then BitVec.ofNat 32 (if u.n = 0 then 0 else (u.written - 1) % u.n) else u.trigPos })
    let s := s.updTrace c (fun u =>
      if first && t.mode == 1 then { u with state := 3#2 }
      else if first && t.mode == 2 then
        { u with state := if u.postN = 0 then 3#2 else 2#2, post := u.postN }
      else u)
    (s, true, false)
  else if t.state = 3#2 then
    (s.updTrace c (fun t => { t with
      missed := if t.missed = 0xFFFFFFFF#32 then t.missed else t.missed + 1#32,
      missedNs := if t.missed = 0#32 then s.nsW else t.missedNs }), true, true)
  else (s, false, false)

/-- The detail of EV_TRACE_TRIG (Table DBG-6), its bits counted from 128. -/
def trigDetail (cause : Nat) (missed : Bool) (c core step low high job : Nat) : Nat :=
  cause % 16 + 2 ^ 4 * b2n missed + 2 ^ 5 * (c % 8) + 2 ^ 8 * (core % 16) + 2 ^ 16 * (step % 2 ^ 32) +
    2 ^ 48 * (low % 2 ^ 32) + 2 ^ 80 * (high % 2 ^ 32) + 2 ^ 112 * (job % 2 ^ 16)

/-- A trigger: it reaches the originating cluster and every cluster with XTRIG (R844); each cluster that takes or misses
it posts EV_TRACE_TRIG to the management owner (R849, log 20). -/
def State.trigger (s : State) (origin : Option Nat) (cause core thr step low high job : Nat) : State :=
  (upTo 8).foldl (fun s c =>
    if origin = some c ∨ (s.trace c).cfg.getLsbD 9 then
      let r := s.takeTrigger c cause core thr
      if r.2.1 then
        r.1.postRaw 8 (s.mkEvent 0x09 8 c ((s.ownerCl c).getD 0) true (trigDetail cause r.2.2 c core step low high job))
      else r.1
    else s) s

/-- An event record posted, with the triggers that its code makes (R844) and the EVENT record of its cluster. -/
def State.post (s : State) (q : Nat) (cl : Option Nat) (code source unit part : Nat) (dev : Bool) (detail : Nat) : State :=
  let s := s.postRaw q (s.mkEvent code source unit part dev detail)
  let s := match cl with
    | some c => s.traceRec (coreKey c 0) 10 0 0 code
    | none => s
  if (upTo 8).any (fun c => bitsAt (s.trace c).cfg.toNat 20 8 == code && code != 0) then
    (upTo 8).foldl (fun s c =>
      if bitsAt (s.trace c).cfg.toNat 20 8 = code then
        let r := s.takeTrigger c 1 0 0
        if r.2.1 then r.1.postRaw 8 (s.mkEvent 0x09 8 c ((s.ownerCl c).getD 0) true (trigDetail 1 r.2.2 c 0 0 0 0 0)) else r.1
      else s) s
  else s

/-- A device-level record on EP3 (R632). -/
def State.postDev (s : State) (code source unit part detail : Nat) : State := s.post 8 none code source unit part true detail

/-- EV_MEM_UE to the partition that owns the granule's range and to the management owner (R453); DETAIL holds the
device address's virtual granule as given (log 21). -/
def State.postMemUe (s : State) (p : Option Nat) (st va : Nat) : State :=
  let s := match p with
    | some p => if p < 8 then s.post p none 0x0B 4 st p false va else s
    | none => s
  s.post 8 none 0x0B 4 st (match p with | some p => if p < 8 then p else 0 | none => 0) true va

/-! ### The log of an HBM block -/

/-- A 32-bit count that saturates. -/
def satInc (c : W32) : W32 := if c = 0xFFFFFFFF#32 then c else c + 1#32

/-- An uncorrectable error entered in the block of a stack (R463, R464): the log keeps the first after it is cleared. KIND 0
failed second read, 1 read of a poisoned granule, both in the stack that holds the granule; 2 stack failure, in the stack that
failed. -/
def State.hbmLog (s : State) (a kind : Nat) : State :=
  let pl := s.placeHbm a
  let g := a / 64 * 64
  let own := match regionOf a with
    | .hbm n => s.ownerSt n
    | _ => none
  s.updStack (if kind = 2 then a / stackBytes else pl.1) (fun h => { h with
    ue := satInc h.ue,
    logAddr := if h.logInfo.getLsbD 0 then h.logAddr else BitVec.ofNat 40 g,
    logInfo := if h.logInfo.getLsbD 0 then h.logInfo ||| 2#32
      else BitVec.ofNat 32 (1 + 4 * kind + 16 * pl.2.1 + 512 * own.getD 0 + 4096 * b2n own.isSome) })

/-- A read of a granule already poisoned or of a failed stack enters the log (R464). -/
def State.logUe (s : State) (a : Nat) (fresh : Bool) : State :=
  match regionOf a with
  | .hbm _ => if s.deadStack a then s.hbmLog a 2 else if fresh then s else s.hbmLog a 1
  | _ => s

/-! ### Completions -/

/-- A completion takes its place at the end of a queue, before those of later arrivals that were posted in the same CK_CTL cycle
(R624). -/
def queueCompletion (l : List Completion) (c : Completion) : List Completion :=
  let n := (l.reverse.takeWhile (fun x => !x.req && x.cycle == c.cycle && decide (c.serial < x.serial))).length
  l.take (l.length - n) ++ c :: l.drop (l.length - n)

/-- A completion header queued on a function's EP1 IN (Table HST-5). -/
def State.postCompletion (s : State) (p : Nat) (c : HCmd) (status fcode d0 d1 : Nat) : State :=
  s.updFunc p (fun f => { f with out := queueCompletion f.out { Completion.init with
    tag := c.hdr.tag, status := BitVec.ofNat 8 status, fcode := BitVec.ofNat 8 fcode, opc := c.opc, tArr := c.tArr,
    tDone := s.nsW, d0 := BitVec.ofNat 64 d0, d1 := BitVec.ofNat 64 d1, serial := c.serial, cycle := s.cycle } })

/-- A command that is held completes: exactly one completion, and it leaves the command buffer (R620, R624). -/
def State.complete (s : State) (p serial status fcode d0 d1 : Nat) : State :=
  match (s.func p).cmds.find? (fun c => c.serial == serial) with
  | none => s
  | some c =>
    (s.postCompletion p c status fcode d0 d1).updFunc p (fun f => { f with
      cmds := f.cmds.filter (fun x => x.serial != serial), nrdy := false })

/-- A management command that is held completes (R637, R624). -/
def State.completeMgmt (s : State) (serial status fcode d0 d1 : Nat) : State :=
  match s.usb.mgmtCmds.find? (fun c => c.serial == serial) with
  | none => s
  | some c =>
    { s with usb := { s.usb with
        mgmtCmds := s.usb.mgmtCmds.filter (fun x => x.serial != serial),
        mgmtOut := s.usb.mgmtOut ++ [{ Completion.init with
          tag := c.hdr.tag, status := BitVec.ofNat 8 status, fcode := BitVec.ofNat 8 fcode, opc := c.opc, tArr := c.tArr,
          tDone := s.nsW, d0 := BitVec.ofNat 64 d0, d1 := BitVec.ofNat 64 d1 }] } }

/-- Status codes of Table ISA-8. -/
def stOk : Nat := 0
/-- ABANDONED. -/
def stAbandoned : Nat := 1
/-- FAULTED. -/
def stFaulted : Nat := 2
/-- PREEMPTED. -/
def stPreempted : Nat := 3
/-- REFUSED. -/
def stRefused : Nat := 4
/-- REEL_GONE. -/
def stGone : Nat := 5

/-- A completion header as sixteen words (Table HST-5). -/
def Completion.words (c : Completion) : List W32 :=
  let lo (x : BitVec 64) : W32 := x.setWidth 32
  let hi (x : BitVec 64) : W32 := BitVec.ofNat 32 (x.toNat / 2 ^ 32)
  [c.tag, BitVec.ofNat 32 (c.status.toNat + 2 ^ 8 * c.fcode.toNat + 2 ^ 16 * c.opc.toNat + 2 ^ 24 * b2n c.req),
   lo c.tArr, hi c.tArr, lo c.tDone, hi c.tDone, lo c.d0, hi c.d0, lo c.d1, hi c.d1] ++ List.replicate 6 0#32

/-- The nonce of a packet of a job: source, destination, class bit, counter (R769). -/
def linkNonce (src dst : Nat) (rsp : Bool) (ctr : Nat) : BitVec 96 :=
  BitVec.ofNat 96 (src * 2 ^ 78 + dst * 2 ^ 60 + b2n rsp * 2 ^ 59 + ctr % 2 ^ 59)

/-! ### Lock-step signatures -/

/-- Whether a link carries traffic: up on 8 or 4 lanes and enabled (Table FAB-11). -/
def State.linkUp (s : State) (l : Nat) : Bool :=
  let x := s.link l
  x.en && decide (2 ≤ x.state.toNat) && decide (x.state.toNat ≤ 4)

/-- A signature as bytes: job, step or SEQ, core, pages, signature (log 83, DESIGN CHOICE). -/
def SigRec.bytes (r : SigRec) : List Byte :=
  leBytes 8 r.job ++ leBytes 8 r.n ++ leBytes 4 r.core ++ leBytes 4 r.lo.toNat ++ leBytes 4 r.hi.toNat ++ leBytes 8 r.sig.toNat

/-- The signature of such bytes, received at a time. -/
def sigOf (l : List Byte) (ns : BitVec 64) : SigRec :=
  { job := recN l 0 8, n := recN l 8 8, core := recN l 16 4, lo := BitVec.ofNat 32 (recN l 20 4), hi := BitVec.ofNat 32 (recN l 24 4)
    sig := BitVec.ofNat 64 (recN l 28 8), ns := ns }

/-- A signature goes to the partner over PR, which keeps it while the link retrains; of a confidential partition under the job key, by
the next count of the peer, and not at all without a key (R576, R775, R855, log 83). -/
def State.overPr (s : State) (p : Nat) (l : List Byte) : State :=
  let put (s : State) (ctr : Nat) (l : List Byte) : State := s.updLink 6 (fun x => { x with sigOut := x.sigOut ++ [(ctr, l)] })
  if !(s.link 6).en || (s.link 6).state = 5#3 then s
  else if !s.conf p then put s 0 l
  else match (s.secp p).jobKey with
    | none => s
    | some key =>
      let n := s.dev.node.toNat
      let ctr := ((s.secp p).txCount.get 0#64 n).toNat
      put (s.updSecp p (fun y => { y with txCount := y.txCount.put n (BitVec.ofNat 64 (ctr + 1)) })) ctr
        (gcmSeal key (linkNonce n n false ctr) [] l)

/-- A signature of a core of a partition awaits its comparison, and goes to the partner (R855). -/
def State.sendSig (s : State) (p : Nat) (r : SigRec) : State :=
  (s.updPart p (fun z => { z with sigs := z.sigs ++ [r] })).overPr p r.bytes

/-! ### Event words of controllers -/

/-- An event word (R297): kind, logical core, thread, fault code, detail. -/
def eventWord (kind core thr code detail : Nat) : W64 :=
  BitVec.ofNat 64 (kind % 256 + 2 ^ 8 * (core % 256) + 2 ^ 16 * (thr % 256) + 2 ^ 24 * (code % 256) + 2 ^ 32 * (detail % 2 ^ 32))

/-- An event word posted to a controller: a waiting WFE takes it at once, else it queues (R297, R802). -/
def State.ctlEvent (s : State) (c : Option Nat) (w : W64) : State :=
  s.updCtl c (fun t => match t.wfe with
    | some r => if t.fenced then { t with events := t.events ++ [w] }
      else { (t.setG r w) with wfe := none, pc := t.pc + 8#64 }
    | none => { t with events := t.events ++ [w] })

end Sys2Proof.Machine
end

