-- ==== Sys2Proof/Machine/Operands.lean ====
section
/-! DEFINITION. The fields of the instruction words (Tables ISA-1 and ISA-10) and the encoding checks of R186. -/
namespace Sys2Proof.Machine

/-- Opcode. -/
def opcOf (w : W64) : Nat := bitsAt w.toNat 0 8
/-- D. -/
def fD (w : W64) : Nat := bitsAt w.toNat 8 5
/-- A. -/
def fA (w : W64) : Nat := bitsAt w.toNat 13 5
/-- B. -/
def fB (w : W64) : Nat := bitsAt w.toNat 18 5
/-- C. -/
def fC (w : W64) : Nat := bitsAt w.toNat 23 5
/-- X. -/
def fX (w : W64) : Nat := bitsAt w.toNat 28 4
/-- Bit i of X. -/
def xBit (w : W64) (i : Nat) : Bool := bitAt w.toNat (28 + i)
/-- IMM as a number. -/
def fImm (w : W64) : Nat := bitsAt w.toNat 32 32
/-- IMM sign-extended to 64 bits. -/
def immS (w : W64) : W64 := (BitVec.ofNat 32 (fImm w)).signExtend 64

/-- Masks of the fields of the general word. -/
def mO : Nat := 0xFF
/-- D. -/
def mD : Nat := 0x1F00
/-- A. -/
def mA : Nat := 0x3E000
/-- B. -/
def mB : Nat := 0x7C0000
/-- C. -/
def mC : Nat := 0xF800000
/-- X[0]. -/
def mX0 : Nat := 0x10000000
/-- X[2:1]. -/
def mX12 : Nat := 0x60000000
/-- IMM. -/
def mI : Nat := 0xFFFFFFFF00000000
/-- The low n bits of IMM. -/
def mIn (n : Nat) : Nat := (2 ^ n - 1) * 2 ^ 32

/-- Whether a bit outside the used fields is nonzero (R186). -/
def unusedSet (w : W64) (mask : Nat) : Bool := w.toNat &&& (2 ^ 64 - 1 - mask) != 0

/-- The opcodes of the class tables (R187): every other one is reserved. -/
def listedOpc (o : Nat) : Bool :=
  decide (o ≤ 0x10) || (decide (0x12 ≤ o) && decide (o ≤ 0x19) && o != 0x11) || o == 0x1F ||
  (decide (0x20 ≤ o) && decide (o ≤ 0x27)) || (decide (0x30 ≤ o) && decide (o ≤ 0x35)) || o == 0x38 || o == 0x39 ||
  (decide (0x40 ≤ o) && decide (o ≤ 0x47)) || (decide (0x50 ≤ o) && decide (o ≤ 0x5E)) ||
  (decide (0x60 ≤ o) && decide (o ≤ 0x69)) || (decide (0x70 ≤ o) && decide (o ≤ 0x74)) ||
  (decide (0x80 ≤ o) && decide (o ≤ 0x83)) || o == 0x8F || o == 0x90 || o == 0x91 ||
  (decide (0xA0 ≤ o) && decide (o ≤ 0xA7)) || (decide (0xB0 ≤ o) && decide (o ≤ 0xBB)) ||
  (decide (0xD0 ≤ o) && decide (o ≤ 0xD7)) || (decide (0xE0 ≤ o) && decide (o ≤ 0xE4))

/-- The opcodes of Table ISA-16 that a controller executes (R289). -/
def ctlOpc (o : Nat) : Bool :=
  listedOpc o && (decide (o < 0x40) || o == 0x40 || (decide (0x43 ≤ o) && decide (o ≤ 0x47)) || o == 0xD0 || o == 0xD4 ||
    (decide (0xE0 ≤ o) && decide (o ≤ 0xE4)))

/-- The address A + sext(IMM) (R191). -/
def addrOf (a : W64) (w : W64) : Nat := (a + immS w).toNat

/-- The n-byte granule alignment test. -/
def aligned (a n : Nat) : Bool := a % n == 0

/-- Fields of the matrix word (Table ISA-10). -/
def qSlot (w : W64) : Nat := bitsAt w.toNat 8 3
/-- OVW / LEFT. -/
def qOvw (w : W64) : Bool := bitAt w.toNat 11
/-- RS. -/
def qRs (w : W64) : Bool := bitAt w.toNat 12
/-- RV. -/
def qRv (w : W64) : Nat := bitsAt w.toNat 13 4
/-- A. -/
def qA (w : W64) : Nat := bitsAt w.toNat 17 5
/-- B. -/
def qB (w : W64) : Nat := bitsAt w.toNat 22 5
/-- C. -/
def qC (w : W64) : Nat := bitsAt w.toNat 27 5
/-- Rows M. -/
def qM (w : W64) : Nat := bitsAt w.toNat 32 6 + 1
/-- FMT. -/
def qFmt (w : W64) : Nat := bitsAt w.toNat 38 4
/-- BUF. -/
def qBuf (w : W64) : Nat := bitsAt w.toNat 42 1
/-- E. -/
def qE (w : W64) : Bool := bitAt w.toNat 43
/-- FUS. -/
def qFus (w : W64) : Nat := bitsAt w.toNat 44 4
/-- KV. -/
def qKv (w : W64) : Nat := bitsAt w.toNat 48 8

/-- Masks of the matrix word: SLOT, OVW, RS, RV, A, B, C, MM1, FMT, BUF, E, FUS, KV. -/
def mqSlot : Nat := 0x7 * 2 ^ 8
/-- OVW. -/
def mqOvw : Nat := 2 ^ 11
/-- RS. -/
def mqRs : Nat := 2 ^ 12
/-- RV. -/
def mqRv : Nat := 0xF * 2 ^ 13
/-- A. -/
def mqA : Nat := 0x1F * 2 ^ 17
/-- B. -/
def mqB : Nat := 0x1F * 2 ^ 22
/-- C. -/
def mqC : Nat := 0x1F * 2 ^ 27
/-- MM1. -/
def mqM : Nat := 0x3F * 2 ^ 32
/-- FMT. -/
def mqFmt : Nat := 0xF * 2 ^ 38
/-- BUF. -/
def mqBuf : Nat := 2 ^ 42
/-- E. -/
def mqE : Nat := 2 ^ 43
/-- FUS. -/
def mqFus : Nat := 0xF * 2 ^ 44
/-- KV. -/
def mqKv : Nat := 0xFF * 2 ^ 48

/-- The vector registers that an instruction word reads or writes (R51): those of Table ISA-6, the row sums of MMUL and
DRAIN.Q, those of ATTN.STEP, POOL, BOXDEC and BOXCLIP. -/
def wordVregs (w : W64) : List Nat :=
  let four (n : Nat) : List Nat := [n, n + 1, n + 2, n + 3]
  match opcOf w with
  | 0x53 => [fD w, fA w, fB w, fC w]
  | 0x57 => [fD w, fA w, fB w, fC w]
  | 0x5B => [fD w, fA w]
  | 0x5C => [fD w]
  | 0x5D => [fA w]
  | 0x5E => [fD w]
  | 0x60 => [fD w]
  | 0x61 => [fB w]
  | 0x62 => [fD w]
  | 0x63 => [fB w]
  | 0x67 => [fD w, fA w, fB w]
  | 0x91 => if qRs w then [qRv w] else []
  | 0xA6 => if qRs w then [qRv w] else []
  | 0xB0 => [fD w, fD w + 1]
  | 0xB8 => [fD w]
  | 0xB9 => four (fD w) ++ four (fA w)
  | 0xBB => four (fD w)
  | o => if 0x50 ≤ o ∧ o ≤ 0x5A then [fD w, fA w, fB w] else if 0x60 ≤ o ∧ o ≤ 0x74 then [fD w, fA w] else []

/-- Whether an instruction runs in the lanes of the element-wise pipeline: the classes 0x5, 0x6 and 0x7, and POOL, BOXDEC and
BOXCLIP, which run there in the same way (R223, R413, R414, R415). -/
def laneWord (w : W64) : Bool :=
  (decide (0x50 ≤ opcOf w) && decide (opcOf w ≤ 0x7F)) || opcOf w == 0xB8 || opcOf w == 0xB9 || opcOf w == 0xBB

/-- Elements of a K-block of a format (Table FMT-3): 1, 2, 9 → 64; 3, 4, 7 → 128; 5, 6, 8 → 256. -/
def kB (fmt : Nat) : Nat :=
  if fmt = 1 ∨ fmt = 2 ∨ fmt = 9 then 64 else if fmt = 3 ∨ fmt = 4 ∨ fmt = 7 then 128 else 256
/-- Bytes of a K-block row (Table FMT-3). -/
def rowBytes (fmt : Nat) : Nat := if fmt = 5 then 200 else if fmt = 6 then 136 else 128
/-- Whether a format names a K-block packing (R246). -/
def kFmt (fmt : Nat) : Bool := decide (1 ≤ fmt) && decide (fmt ≤ 9)

end Sys2Proof.Machine
end

