-- ==== Sys2Proof/Machine/Flags.lean ====
section
/-! DEFINITION. The sticky bits of the thread status word (R222, R276) and the word itself (Table ISA-14). -/
namespace Sys2Proof.Machine

/-- VSAT. -/
def bVSAT : BitVec 8 := 1#8
/-- VNAN. -/
def bVNAN : BitVec 8 := 2#8
/-- VINF. -/
def bVINF : BitVec 8 := 4#8

/-- The bits that one lane's result sets: VNAN for a NaN and VINF for an infinity made from operands that hold none,
VSAT for a conversion that saturates (R222). -/
def laneFlags (inNan inInf outNan outInf sat : Bool) : BitVec 8 :=
  (if sat then bVSAT else 0#8) ||| (if outNan && !inNan then bVNAN else 0#8) ||| (if outInf && !inInf then bVINF else 0#8)

/-- The flags of one FP32 lane result. Whether "operands that hold none" means the lane's own or the whole registers is not
stated: the lane's own (R222, log 77, DESIGN CHOICE). -/
def f32Flags (ins : List W32) (out : W32) : BitVec 8 :=
  laneFlags (ins.any isNanW) (ins.any isInfW) (isNanW out) (isInfW out) false

/-- The union of the flags of 64 lanes. -/
def orFlags (f : Nat → BitVec 8) : BitVec 8 := (upTo 64).foldl (fun acc i => acc ||| f i) 0#8

/-- Sticky bits set in a thread. -/
def Thread.stick (t : Thread) (b : BitVec 8) : Thread := { t with sticky := t.sticky ||| b }

/-- The thread status word: sticky bits, CLAIMS in [15:8], TAGS in [31:16] (Table ISA-14). -/
def State.tsw (s : State) (k t : Nat) : W64 :=
  let th := s.thr k t
  let claims := (upTo 8).foldl (fun a n => if (s.slot k n).owner = some t then a + 2 ^ n else a) 0
  let tags := (upTo 16).foldl (fun a n => if th.tags.has n then a + 2 ^ n else a) 0
  BitVec.ofNat 64 (th.sticky.toNat % 8 + 2 ^ 8 * claims + 2 ^ 16 * tags)

end Sys2Proof.Machine
end

