-- ==== Sys2Proof/Machine/RefFn.lean ====
section
/-! DEFINITION. The reference functions of the element-wise pipeline, bit for bit (R312 to R317). -/
namespace Sys2Proof.Machine

/-- Entry j is 2^(j/64), rounded once (R313). -/
def tabT2 : List Nat :=
  [0x3F800000, 0x3F8164D2, 0x3F82CD87, 0x3F843A29, 0x3F85AAC3, 0x3F871F62, 0x3F88980F, 0x3F8A14D5, 0x3F8B95C2, 0x3F8D1ADF, 0x3F8EA43A, 0x3F9031DC, 0x3F91C3D3, 0x3F935A2B, 0x3F94F4F0, 0x3F96942D] ++
  [0x3F9837F0, 0x3F99E046, 0x3F9B8D3A, 0x3F9D3EDA, 0x3F9EF532, 0x3FA0B051, 0x3FA27043, 0x3FA43516, 0x3FA5FED7, 0x3FA7CD94, 0x3FA9A15B, 0x3FAB7A3A, 0x3FAD583F, 0x3FAF3B79, 0x3FB123F6, 0x3FB311C4] ++
  [0x3FB504F3, 0x3FB6FD92, 0x3FB8FBAF, 0x3FBAFF5B, 0x3FBD08A4, 0x3FBF179A, 0x3FC12C4D, 0x3FC346CD, 0x3FC5672A, 0x3FC78D75, 0x3FC9B9BE, 0x3FCBEC15, 0x3FCE248C, 0x3FD06334, 0x3FD2A81E, 0x3FD4F35B] ++
  [0x3FD744FD, 0x3FD99D16, 0x3FDBFBB8, 0x3FDE60F5, 0x3FE0CCDF, 0x3FE33F89, 0x3FE5B907, 0x3FE8396A, 0x3FEAC0C7, 0x3FED4F30, 0x3FEFE4BA, 0x3FF28177, 0x3FF5257D, 0x3FF7D0DF, 0x3FFA83B3, 0x3FFD3E0C]

/-- Entry j is 128 / (129 + 2j), rounded once (R313). -/
def tabRC : List Nat :=
  [0x3F7E03F8, 0x3F7A232D, 0x3F76603E, 0x3F72B9D6, 0x3F6F2EB7, 0x3F6BBDB3, 0x3F6865AC, 0x3F652598, 0x3F61FC78, 0x3F5EE95C, 0x3F5BEB62, 0x3F5901B2, 0x3F562B81, 0x3F53680D, 0x3F50B6A0, 0x3F4E168A] ++
  [0x3F4B8728, 0x3F4907DA, 0x3F46980C, 0x3F443730, 0x3F41E4BC, 0x3F3FA030, 0x3F3D6910, 0x3F3B3EE7, 0x3F392144, 0x3F370FBB, 0x3F3509E7, 0x3F330F63, 0x3F311FD4, 0x3F2F3ADE, 0x3F2D602B, 0x3F2B8F6A] ++
  [0x3F29C84A, 0x3F280A81, 0x3F2655C4, 0x3F24A9CF, 0x3F23065E, 0x3F216B31, 0x3F1FD80A, 0x3F1E4CAD, 0x3F1CC8E1, 0x3F1B4C70, 0x3F19D723, 0x3F1868C8, 0x3F17012E, 0x3F15A025, 0x3F144581, 0x3F12F114] ++
  [0x3F11A2B4, 0x3F105A38, 0x3F0F177A, 0x3F0DDA52, 0x3F0CA29C, 0x3F0B7034, 0x3F0A42F8, 0x3F091AC7, 0x3F07F781, 0x3F06D905, 0x3F05BF37, 0x3F04A9FA, 0x3F039930, 0x3F028CC0, 0x3F01848E, 0x3F008081]

/-- Entry j is −ln of the FP32 entry RC[j], rounded once (R313). -/
def tabLG : List Nat :=
  [0x3BFF015B, 0x3CBDC8D6, 0x3D1CF437, 0x3D5A16F0, 0x3D8B29B9, 0x3DA8D837, 0x3DC61A33, 0x3DE2F2A6, 0x3DFF648A, 0x3E0DB958, 0x3E1B8FE1, 0x3E29372F, 0x3E36B07E, 0x3E43FD04, 0x3E511DE0, 0x3E5E1436] ++
  [0x3E6AE10A, 0x3E778570, 0x3E82012E, 0x3E882C5F, 0x3E8E44C6, 0x3E944AD0, 0x3E9A3EEE, 0x3EA02185, 0x3EA5F2FD, 0x3EABB3BA, 0x3EB16416, 0x3EB70476, 0x3EBC952A, 0x3EC2168E, 0x3EC788F5, 0x3ECCECAC] ++
  [0x3ED24205, 0x3ED78949, 0x3EDCC2C5, 0x3EE1EEBE, 0x3EE70D79, 0x3EEC1F3A, 0x3EF12441, 0x3EF61CCF, 0x3EFB0921, 0x3EFFE96F, 0x3F025EFD, 0x3F04C37B, 0x3F07224C, 0x3F097B8D, 0x3F0BCF55, 0x3F0E1DC0] ++
  [0x3F1066E6, 0x3F12AADF, 0x3F14E9C0, 0x3F1723A2, 0x3F19589A, 0x3F1B88BE, 0x3F1DB423, 0x3F1FDADD, 0x3F21FCFE, 0x3F241A9F, 0x3F2633CE, 0x3F28489E, 0x3F2A5924, 0x3F2C656D, 0x3F2E6D8E, 0x3F307197]

/-- Entry j is 1 / √(1 + (2j + 1)/32), rounded once (R313). -/
def tabRS : List Nat :=
  [0x3F7C1764, 0x3F74C867, 0x3F6E133E, 0x3F67E3ED, 0x3F6229ED, 0x3F5CD76E, 0x3F57E0CF, 0x3F533C2E, 0x3F4EE116, 0x3F4AC83F, 0x3F46EB5A, 0x3F4344E6, 0x3F3FD012, 0x3F3C889F, 0x3F396ACE, 0x3F36734A] ++
  [0x3F339F19, 0x3F30EB96, 0x3F2E565C, 0x3F2BDD46, 0x3F297E62, 0x3F2737F0, 0x3F250855, 0x3F22EE1D, 0x3F20E7F5, 0x3F1EF4A4, 0x3F1D130E, 0x3F1B422C, 0x3F19810C, 0x3F17CED0, 0x3F162AA9, 0x3F1493D9] ++
  [0x3F1309AF, 0x3F118B87, 0x3F1018C6, 0x3F0EB0E0, 0x3F0D534F, 0x3F0BFF97, 0x3F0AB544, 0x3F0973E8, 0x3F083B1E, 0x3F070A87, 0x3F05E1C7, 0x3F04C08B, 0x3F03A682, 0x3F029362, 0x3F0186E2, 0x3F0080C1]

/-- An FP32 constant as a value. -/
def c32 (w : Nat) : Fp := fp (BitVec.ofNat 32 w)

/-- rnd(a × b + c), one rounding. -/
def fmaF (a b c : Fp) : Fp := rnd ((a.mul b).add c)
/-- rnd(a × b). -/
def mulF (a b : Fp) : Fp := rnd (a.mul b)
/-- rnd(a + b). -/
def addF (a b : Fp) : Fp := rnd (a.add b)
/-- rnd(a − b). -/
def subF (a b : Fp) : Fp := rnd (a.add b.neg)
/-- scale(y, n) := rnd(y × 2^n) (R312). -/
def scaleF (y : Fp) (n : Int) : Fp :=
  match y with
  | .fin s m e => rnd (.fin s m (e + n))
  | z => z

/-- Positive infinity. -/
def Fp.pinf : Fp := .inf false

/-- An integer as a value. -/
def intF (i : Int) : Fp := Fp.ofInt i

/-- Whether x ≥ n for an integer n. -/
def geI (x : Fp) (n : Int) : Bool := !x.isNan && !Fp.lt x (intF n)
/-- Whether x > n for an integer n. -/
def gtI (x : Fp) (n : Int) : Bool := Fp.lt (intF n) x
/-- Whether x < n for an integer n. -/
def ltI (x : Fp) (n : Int) : Bool := Fp.lt x (intF n)

/-- split(x) of R312: |x| = m × 2^e with 1 ≤ m < 2, and the index j = floor((m − 1) × 64). -/
def splitF (x : Fp) : Fp × Int × Nat :=
  match x with
  | .fin _ m e =>
    let l := Nat.log2 m
    (.fin false m (-(l : Int)), e + (l : Int), m * 64 / 2 ^ l - 64)
  | _ => (Fp.one, 0, 0)

/-- The common core of the exponentials (R314). -/
def expCore (k : Int) (r c1 c2 c3 : Fp) : Fp :=
  let j : Nat := (k % 64).toNat
  let e : Int := (k - (j : Int)) / 64
  let t := mulF c3 r
  let t := addF t c2
  let t := mulF t r
  let t := addF t c1
  let t := mulF t r
  let y := c32 (tabT2.getD j 0)
  scaleF (fmaF y t y) e

/-- exp2 (R314). -/
def exp2F (x : Fp) : Fp :=
  if x.isNan then .nan
  else if geI x 128 then .pinf
  else if ltI x (-150) then .zero
  else
    let k := ((x.mul (intF 64)).toInt).getD 0
    let r := rnd (x.add (Fp.fin (decide (k > 0)) k.natAbs (-6)))
    expCore k r (c32 0x3F317218) (c32 0x3E75FDF0) (c32 0x3D635847)

/-- exp (R314). -/
def expF (x : Fp) : Fp :=
  if x.isNan then .nan
  else if gtI x 89 then .pinf
  else if ltI x (-104) then .zero
  else
    let k := ((mulF x (c32 0x42B8AA3B)).toInt).getD 0
    let r := subF x (mulF (intF k) (c32 0x3C318000))
    let r := subF r (mulF (intF k) (c32 0xB65E8083))
    expCore k r (c32 0x3F800000) (c32 0x3F000000) (c32 0x3E2AAAAB)

/-- log (R315). -/
def logF (x : Fp) : Fp :=
  if x.isNan then .nan
  else if x.isZero then .inf true
  else if x.sign then .nan
  else if x.isInf then .pinf
  else if Fp.eqv x Fp.one then .zero
  else
    let (m, e, j) := splitF x
    let r := fmaF m (c32 (tabRC.getD j 0)) Fp.one.neg
    let u := mulF (c32 0x3EAAAAAB) r
    let u := addF u (c32 0xBF000000)
    let u := mulF u r
    let u := mulF u r
    let p := addF u r
    let z := addF p (mulF (intF e) (c32 0xB95E8083))
    let z := addF z (c32 (tabLG.getD j 0))
    addF z (mulF (intF e) (c32 0x3F318000))

/-- One Newton step of the reciprocal (R315). -/
def recipStep (m y : Fp) : Fp :=
  let d := fmaF m.neg y Fp.one
  fmaF y d y

/-- The value with the sign of another. -/
def Fp.withSignOf (y x : Fp) : Fp := if x.sign then y.neg else y

/-- recip (R315). -/
def recipF (x : Fp) : Fp :=
  if x.isNan then .nan
  else if x.isZero then .inf x.sign
  else if x.isInf then .fin x.sign 0 0
  else
    let (m, e, j) := splitF x
    let y := if Fp.eqv m Fp.one then Fp.one
      else recipStep m (recipStep m (c32 (tabRC.getD j 0)))
    (scaleF y (-e)).withSignOf x

/-- One Newton step of the reciprocal square root (R315). -/
def rsqrtStep (m y : Fp) : Fp :=
  let h := mulF y y
  let d := fmaF m.neg h Fp.one
  let q := mulF y d
  fmaF (c32 0x3F000000) q y

/-- rsqrt (R315). -/
def rsqrtF (x : Fp) : Fp :=
  if x.isNan then .nan
  else if x.isZero then .inf x.sign
  else if x.sign then .nan
  else if x.isInf then .zero
  else
    let (m, e, j) := splitF x
    let odd : Bool := e % 2 != 0
    let m' := if odd then m.mul (intF 2) else m
    let e' := if odd then e - 1 else e
    let idx := if odd then j / 2 + 16 else j / 4
    let y := rsqrtStep m' (rsqrtStep m' (c32 (tabRS.getD idx 0)))
    scaleF y (-(e' / 2))

/-- tanh (R316). -/
def tanhF (x : Fp) : Fp :=
  if x.isNan then .nan
  else
    let a := if x.sign then x.neg else x
    if Fp.lt a (.fin false 1 (-12)) then x
    else if Fp.lt a (.fin false 1 (-2)) then
      let s := mulF x x
      let p := mulF (c32 0x3CB327A4) s
      let p := addF p (c32 0xBD5D0DD1)
      let p := mulF p s
      let p := addF p (c32 0x3E088889)
      let p := mulF p s
      let p := addF p (c32 0xBEAAAAAB)
      let p := mulF p s
      fmaF x p x
    else
      let q := addF (expF (mulF (intF 2) a)) Fp.one
      (subF Fp.one (mulF (intF 2) (recipF q))).withSignOf x

/-- sigmoid (R316). -/
def sigmoidF (x : Fp) : Fp :=
  if x.isNan then .nan else recipF (addF Fp.one (expF x.neg))

/-- silu (R316). -/
def siluF (x : Fp) : Fp :=
  if x = .inf true then .fin true 0 0 else mulF x (sigmoidF x)

/-- gelu (R316). -/
def geluF (x : Fp) : Fp :=
  if x.isNan then .nan
  else if x = .inf false then .pinf
  else if x = .inf true then .fin true 0 0
  else
    let u := mulF (mulF x x) x
    let u := fmaF (c32 0x3D372713) u x
    let u := mulF (c32 0x3F4C422A) u
    mulF (mulF (.fin false 1 (-1)) x) (addF Fp.one (tanhF u))

/-- softplus (R316). -/
def softplusF (x : Fp) : Fp :=
  if x.isNan then .nan
  else if gtI x 20 then x
  else if ltI x (-17) then expF x
  else logF (addF Fp.one (expF x))

/-- The function that VFN's IMM selects, 0 to 9 (R219). -/
def refFn (code : Nat) (w : W32) : W32 :=
  let x := fp w
  roundFp32 (match code with
    | 0 => expF x
    | 1 => exp2F x
    | 2 => logF x
    | 3 => recipF x
    | 4 => rsqrtF x
    | 5 => tanhF x
    | 6 => sigmoidF x
    | 7 => geluF x
    | 8 => siluF x
    | _ => softplusF x)

end Sys2Proof.Machine
end

