-- ==== Sys2Proof/Machine/Tiles.lean ====
section
/-! DEFINITION. Tiles: packing, block sums, accumulator slots, ladders, ladder images and the drain path's values
(R123 to R163, R171 to R179, R301 to R307). -/
namespace Sys2Proof.Machine

/-! ### Packing (Table FMT-3) -/

/-- Bits of an element of a format. -/
def elemBits (fmt : Nat) : Nat :=
  if fmt = 0 then 32 else if fmt = 1 ∨ fmt = 2 ∨ fmt = 9 then 16 else if fmt = 3 ∨ fmt = 4 ∨ fmt = 7 then 8
  else if fmt = 5 then 6 else 4

/-- Element i of a packed row. -/
def rowElem (fmt : Nat) (row : List Byte) (i : Nat) : Nat := recBits row (elemBits fmt * i) (elemBits fmt)

/-- Element i of a packed row of a floating format, as a value. -/
def fpElem (fmt : Nat) (row : List Byte) (i : Nat) : Fp := decodeFp (layOf fmt) (rowElem fmt row i)

/-- Element i of a packed row of an integer format. -/
def intElem (fmt : Nat) (row : List Byte) (i : Nat) : Int := sextN (intWidth fmt) (rowElem fmt row i)

/-- Whether a format carries block scales. -/
def mxFmt (fmt : Nat) : Bool := fmt == 5 || fmt == 6

/-- Scale j of an MX row (R124). -/
def rowScale (fmt : Nat) (row : List Byte) (j : Nat) : Nat := (row.getD ((if fmt = 5 then 192 else 128) + j) 0#8).toNat

/-- Element encodings packed in ascending order (Table FMT-3). -/
def packRow (fmt : Nat) (l : List Nat) : List Byte :=
  let b := elemBits fmt
  leBytes ((l.length * b + 7) / 8) ((upTo l.length).foldl (fun a i => a + (l.getD i 0 % 2 ^ b) * 2 ^ (b * i)) 0)

/-! ### Sums within a K-block (R126 to R133) -/

/-- The exact product at position i, scaled in the MX formats (R129). -/
def product (fmt : Nat) (a w : List Byte) (i : Nat) : Fp :=
  let p := (fpElem fmt a i).mul (fpElem fmt w i)
  if mxFmt fmt then
    match p with
    | .fin s m e => .fin s m (e + (rowScale fmt a (i / 32) : Int) + (rowScale fmt w (i / 32) : Int) - 254)
    | x => x
  else p

/-- The block sum of a floating format; positions kv + 1 and on are padding (R126, R128 to R130, R132). -/
def blockSumF (fmt kv : Nat) (a w : List Byte) : W32 :=
  let real := min (kv + 1) (kB fmt)
  let ps := (upTo real).map (product fmt a w)
  if fmt = 3 ∨ fmt = 5 ∨ fmt = 6 then
    if mxFmt fmt && (upTo ((real + 31) / 32)).any (fun j => rowScale fmt a j == 255 || rowScale fmt w j == 255)
    then 0x7FC00000#32
    else roundFp32 (exactSum (if real < kB fmt then ps ++ [Fp.zero] else ps))
  else
    roundFp32 (treeSum (Nat.log2 (kB fmt)) (ps ++ List.replicate (kB fmt - real) Fp.zero))

/-- The block sum of an integer format (R131). -/
def blockSumI (fmt kv : Nat) (a w : List Byte) : Int :=
  (upTo (min (kv + 1) (kB fmt))).foldl (fun s i => s + intElem fmt a i * intElem fmt w i) 0

/-- The sum of the stored activation values of a row over the real positions (R171). -/
def rowSum (fmt kv : Nat) (a : List Byte) : Int :=
  (upTo (min (kv + 1) (kB fmt))).foldl (fun s i => s + intElem fmt a i) 0

/-! ### Slots -/

/-- Whether a kind accepts an operand format (Table FMT-4). -/
def kindAccepts (kind fmt : Nat) : Bool :=
  match kind with
  | 0 => decide (1 ≤ fmt) && decide (fmt ≤ 6)
  | 1 => fmt == 7 || fmt == 8
  | 2 => fmt == 7 || fmt == 8 || fmt == 9
  | _ => false

/-- Keys of a 64 × 64 tile of 32-bit entries at a base, zero entries unlisted. -/
def tileList (base : Nat) (f : Nat → W32) : SMap W32 :=
  (upTo 4096).filterMap (fun i => let x := f i; if x = 0#32 then none else some (base + i, x))

/-- Level l of a ladder replaced. -/
def putLevel (m : SMap W32) (l : Nat) (f : Nat → W32) : SMap W32 :=
  List.filter (fun e => decide (e.1 < 4096 * l)) m ++ tileList (4096 * l) f ++
    List.filter (fun e => decide (e.1 ≥ 4096 * l + 4096)) m

/-- Level l of a ladder emptied. -/
def dropLevel (m : SMap W32) (l : Nat) : SMap W32 :=
  List.filter (fun e => decide (e.1 < 4096 * l) || decide (e.1 ≥ 4096 * l + 4096)) m

/-- Entry i of level l. -/
def Slot.at_ (s : Slot) (l i : Nat) : W32 := s.lad.get 0#32 (4096 * l + i)
/-- Integer sum i. -/
def Slot.int (s : Slot) (i : Nat) : Int := (s.acc.get 0#64 i).toInt

/-- The slot zeroed as ACC.ZERO zeroes it (R139, R238): owner, Reel and operand format are kept. -/
def Slot.zeroed (s : Slot) (kind : Nat) (mode : Bool) (f base tag : Nat) : Slot :=
  { s with
    kind := BitVec.ofNat 2 kind, mode := mode, base := BitVec.ofNat 12 base, count := 0, mask := 0#13,
    tag := BitVec.ofNat 32 tag, sat := false, f := BitVec.ofNat 6 f, lad := [], acc := [] }

/-- The slot zeroed under the overwrite option (R142); its binary point F, which R142 does not list, stays (log 82, DESIGN CHOICE). -/
def Slot.restarted (s : Slot) : Slot :=
  { s with count := 0, mask := 0#13, sat := false, lad := [], acc := [] }

/-- A subtree taken into level l and carried up while the level is occupied (R140, R147); none above level 12 (R918). -/
def carryUp (comb : W32 → W32 → W32) : Nat → Nat → (Nat → W32) → SMap W32 → Nat → Option (SMap W32 × Nat)
  | 0, _, _, _, _ => none
  | fuel + 1, l, x, lad, mask =>
    if !bitAt mask l then some (putLevel lad l x, mask + 2 ^ l)
    else if l ≥ 12 then none
    else carryUp comb fuel (l + 1) (fun i => comb (lad.get 0#32 (4096 * l + i)) (x i)) (dropLevel lad l) (mask - 2 ^ l)

/-- The integer sums of a tile, saturated to 64 bits, and whether any saturated (R920). -/
def intTile (f : Nat → Int) : SMap W64 × Bool :=
  ((upTo 4096).filterMap (fun i => let x := (satN 64 (f i)).1; if x = 0 then none else some (i, BitVec.ofInt 64 x)),
   (upTo 4096).any (fun i => (satN 64 (f i)).2))

/-- One K-block of block sums added into a slot (R140, R141, R158, R159, R920); none is LADDER_FULL. FMT of a chain that mixes operand
formats is that of its last block (log 82, DESIGN CHOICE). -/
def Slot.addBlock (s : Slot) (fmt : Nat) (sf : Nat → W32) (si : Nat → Int) : Option Slot :=
  if s.kind = 0#2 ∧ s.mode then
    some { s with
      lad := putLevel s.lad 12 (fun i => addW (s.at_ 12 i) (sf i)), count := min (s.count + 1) 4096,
      fmt := BitVec.ofNat 4 fmt }
  else if s.count + 1 > 4096 then none
  else if s.kind = 0#2 then
    match carryUp addW 13 0 sf s.lad s.mask.toNat with
    | none => none
    | some r => some { s with
        lad := r.1, mask := BitVec.ofNat 13 r.2, count := s.count + 1, fmt := BitVec.ofNat 4 fmt }
  else
    let r := intTile (fun i => s.int i + si i)
    some { s with acc := r.1, sat := s.sat || r.2, count := s.count + 1, fmt := BitVec.ofNat 4 fmt }

/-- The occupied levels, ascending. -/
def Slot.levels (s : Slot) : List Nat := (upTo 13).filter (fun l => s.mask.getLsbD l)

/-- The drained FP32 value of element i: the fold of R143, or the accumulator entry. -/
def Slot.value (s : Slot) (i : Nat) : W32 :=
  if s.mode then s.at_ 12 i
  else match s.levels with
    | [] => 0#32
    | l :: t => t.foldl (fun r l => addW (s.at_ l i) r) (s.at_ l i)

/-! ### Ladder images (R154 to R156) -/

/-- Bytes of the largest ladder image (R241). -/
def imageMax : Nat := 196672

/-- The bytes of a ladder image (R154, R155): MASK is zero for integer kinds and non-canonical mode. -/
def Slot.image (s : Slot) : List Byte :=
  let canon : Bool := s.kind == 0#2 && !s.mode
  let head := s.base.toNat + 2 ^ 16 * s.count + (if canon then 2 ^ 32 * s.mask.toNat else 0) + 2 ^ 48 * s.kind.toNat +
    2 ^ 50 * b2n s.mode + 2 ^ 51 * b2n s.sat + 2 ^ 52 * s.fmt.toNat + 2 ^ 56 * s.f.toNat + 2 ^ 64 * s.tag.toNat
  let tile (l : Nat) : List Byte := (upTo 4096).flatMap (fun i => leBytes 4 (s.at_ l i).toNat)
  leBytes 64 head ++
    (if canon then s.levels.flatMap tile
     else if s.kind = 0#2 then tile 12
     else (upTo 4096).flatMap (fun i => leBytes 8 (s.acc.get 0#64 i).toNat))

/-- How many bytes a slot's image has (R154, R155). -/
def Slot.imageBytes (s : Slot) : Nat :=
  64 + (if s.kind = 0#2 then (if s.mode then 16384 else 16384 * s.levels.length) else 32768)

/-- The bytes of the image that a header announces. A MASK with all 13 levels, which no save makes, announces 13 tiles, more
than the bytes that R241 calls the largest image: all of them are read (log 77, DESIGN CHOICE). -/
def imageLen (h : List Byte) : Nat :=
  match recBits h 48 2 with
  | 0 => if bitAt (recN h 6 1) 2 then 64 + 16384
    else 64 + 16384 * ((upTo 13).filter (fun l => bitAt (recBits h 32 13) l)).length
  | 3 => 64
  | _ => 64 + 32768

/-- The entries of the levels of a mask, whose tiles follow one another from byte off. -/
def imageLevels (l : List Byte) : List Nat → Nat → SMap W32
  | [], _ => []
  | k :: t, off => tileList (4096 * k) (fun i => BitVec.ofNat 32 (recN l (off + 4 * i) 4)) ++ imageLevels l t (off + 16384)

/-- A slot whose state is that of an image; its owner and Reel stay (R262). F = 63, which Table FMT-4 does not list, is a binary
point of 63 (log 77, DESIGN CHOICE). -/
def Slot.ofImage (s : Slot) (l : List Byte) : Slot :=
  let kind := recBits l 48 2
  let mode := bitAt (recN l 6 1) 2
  let mask := recBits l 32 13
  let canon : Bool := kind == 0 && !mode
  { s with
    base := BitVec.ofNat 12 (recBits l 0 12), count := recBits l 16 13, mask := BitVec.ofNat 13 (if canon then mask else 0),
    kind := BitVec.ofNat 2 kind, mode := mode, sat := bitAt (recN l 6 1) 3, fmt := BitVec.ofNat 4 (recBits l 52 4),
    f := BitVec.ofNat 6 (recBits l 56 6), tag := BitVec.ofNat 32 (recN l 8 4),
    lad := if canon then imageLevels l ((upTo 13).filter (fun k => bitAt mask k)) 64
      else if kind = 0 then imageLevels l [12] 64 else [],
    acc := if kind = 0 then [] else (upTo 4096).filterMap (fun i =>
      let x := BitVec.ofNat 64 (recN l (64 + 8 * i) 8)
      if x = 0#64 then none else some (i, x)) }

/-- The fault of LADDER.LOAD on a header, if any (R265). -/
def loadFault (h : List Byte) : Option Nat :=
  if recBits h 48 2 = 3 ∨ (bitAt (recN h 6 1) 2 ∧ recBits h 48 2 ≠ 0) then some fcKind
  else if recBits h 16 13 > 4096 then some fcFull
  else none

/-- LADDER.MERGE of two ladders: the merged state in the place of slot s, or its fault (R147 to R151, R160, R918 to
R920). What the rules do not list is the right ladder's (R147: out := right). Where neighbours that are not siblings merge first,
R147's steps leave another grouping of the sums than R145 and R146 promise: the model follows the steps (log 77, DESIGN CHOICE). -/
def mergeSlots (s left right : Slot) : Slot ⊕ Nat :=
  let keep (x : Slot) : Slot := { x with owner := s.owner, reel := s.reel }
  let nc : Bool := left.kind == 0#2 && left.mode
  if left.kind ≠ right.kind ∨ left.mode ≠ right.mode ∨ left.kind = 3#2 then .inr fcKind
  else if left.tag ≠ right.tag then .inr fcRange
  else if !nc && left.base.toNat + left.count != right.base.toNat then .inr fcRange
  else if !nc && decide (left.count + right.count > 4096) then .inr fcFull
  else
    let out := { keep right with
      base := left.base, count := min (left.count + right.count) 4096, sat := left.sat || right.sat }
    if nc then .inl { out with lad := putLevel [] 12 (fun i => addW (left.at_ 12 i) (right.at_ 12 i)) }
    else if left.kind ≠ 0#2 then
      let r := intTile (fun i => left.int i + right.int i)
      .inl { out with acc := r.1, sat := out.sat || r.2 }
    else
      match (upTo 13).foldl (fun acc l => match acc with
          | none => none
          | some (lad, mask) =>
            if left.mask.getLsbD l then carryUp (fun o x => addW x o) 13 l (left.at_ l) lad mask else some (lad, mask))
          (some (right.lad, right.mask.toNat)) with
      | none => .inr fcFull
      | some r => .inl { out with lad := r.1, mask := BitVec.ofNat 13 r.2 }

/-! ### Drains -/

/-- Whether a drain form fits the slot's kind (R267). -/
def formOk (kind form : Nat) : Bool := (kind == 0 && form == 0) || (kind == 1 && form == 1) || (kind == 2 && (form == 1 || form == 2))

/-- The activation stage of a fusion entry (R305). -/
def actStage (e : FusEntry) (y : W32) : W32 :=
  match e.act with
  | 0 => y
  | 1 => if isNanW y then 0x7FC00000#32 else if Fp.lt Fp.zero (fp y) then y else 0#32
  | 2 => minW (maxW y e.lo) e.hi
  | 3 => roundFp32 (tanhF (fp y))
  | 4 => roundFp32 (sigmoidF (fp y))
  | 5 => roundFp32 (geluF (fp y))
  | 6 => roundFp32 (siluF (fp y))
  | 7 => roundFp32 (softplusF (fp y))
  | _ => roundFp32 (expF (fp y))

/-- The gate stage on element i; capture passes the value (R303, R306). -/
def gateStage (e : FusEntry) (g : SMap W32) (i : Nat) (y : W32) : W32 :=
  match e.gate with
  | 2 => mulW y (g.get 0#32 i)
  | 3 => addW y (g.get 0#32 i)
  | _ => y

/-- The stages of a fused DRAIN on element i, up to the gate (R301). -/
def fuseDrain (e : FusEntry) (g : SMap W32) (i : Nat) (y : W32) : W32 :=
  let y := match e.scale with | some m => mulW y (m.get 0#32 (i % 64)) | none => y
  let y := match e.bias with | some m => addW y (m.get 0#32 (i % 64)) | none => y
  gateStage e g i (actStage e y)

/-- The element of an INT32 form, and whether it saturates (R136, R137). -/
def int32Form (s : Slot) (i : Nat) : Int × Bool :=
  satN 32 (if s.kind = 2#2 then shiftRoundAway (s.int i) s.f.toNat else s.int i)

/-- A value converted into an output format, and whether it saturates (R121, R122, R917). -/
def convOut (fmt : Nat) (y : Fp) : Nat × Bool :=
  if fmt = 0 then ((roundFp32 y).toNat, false)
  else if fmt ≥ 7 then let r := convInt (intWidth fmt) y; (wrapN (intWidth fmt) r.1, r.2)
  else convFp fmt y

/-- Fields of a quantisation descriptor (Table QNT-1, Table QNT-2). -/
def qdOfmt (d : List Byte) : Nat := recBits d 0 4
/-- PCH. -/
def qdPch (d : List Byte) : Bool := recBits d 4 1 == 1
/-- BIAS. -/
def qdBias (d : List Byte) : Bool := recBits d 5 1 == 1
/-- ZP. -/
def qdZp (d : List Byte) : Bool := recBits d 6 1 == 1
/-- ZA. -/
def qdZa (d : List Byte) : Int := sextN 8 (recN d 1 1)
/-- ZOUT. -/
def qdZout (d : List Byte) : Int := sextN 8 (recN d 2 1)
/-- K. -/
def qdK (d : List Byte) : Nat := recBits d 32 21
/-- ZW entry j. -/
def qdZw (d : List Byte) (j : Nat) : Int := sextN 8 (recN d (320 + j) 1)

/-- Whether a zero point lies in the range of a format (R169). -/
def zpOk (fmt : Nat) (z : Int) : Bool :=
  match fmt with
  | 7 => true
  | 8 => decide (-8 ≤ z) && decide (z ≤ 7)
  | _ => z == 0

/-- The checks of R175: the bytes of the descriptor, from its first on, that a check needs, and whether it fails. -/
def qdChecks (s : Slot) (d : List Byte) : List (Nat × Bool) :=
  let o := qdOfmt d
  let fmt := s.fmt.toNat
  let b := if kFmt fmt then kB fmt else 0
  [(1, o == 5 || o == 6 || decide (o ≥ 10)), (1, qdZp d && s.kind == 0#2), (2, qdZp d && !zpOk fmt (qdZa d)),
    (3, !zpOk o (qdZout d)), (0, s.count == 0 || !kFmt fmt),
    (7, decide (qdK d < b * (s.count - 1) + 1) || decide (qdK d > b * s.count))] ++
  (upTo (if qdPch d then 64 else 1)).map (fun j => (321 + j, qdZp d && !zpOk fmt (qdZw d j)))

/-- Whether a whole descriptor fails a check of R175. -/
def qdBad (s : Slot) (d : List Byte) : Bool := (qdChecks s d).any (fun x => x.2)

/-- Whether the bytes that could be read of a descriptor fail one (R919). -/
def qdBadIn (s : Slot) (d : List Byte) : Bool := (qdChecks s d).any (fun x => decide (x.1 ≤ d.length) && x.2)

/-- The value t of R177 on element i, after the fusion stages that DRAIN.Q enters (R302). y is exact and has no width: sums of a
loaded image, which R178's chain limit does not bound, may take it beyond 64 bits (log 77, DESIGN CHOICE). -/
def quantValue (s : Slot) (d : List Byte) (rs : VReg) (e : Option FusEntry) (g : SMap W32) (i : Nat) : W32 :=
  let j := if qdPch d then i % 64 else 0
  let mul := BitVec.ofNat 32 (recN d (384 + 4 * j) 4)
  let t : W32 :=
    if s.kind = 0#2 then
      let y := s.value i
      let y := if qdBias d then addW y (BitVec.ofNat 32 (recN d (640 + 4 * j) 4)) else y
      mulW y mul
    else
      let y := s.int i
      let a := (lane rs (i / 64)).toInt
      let za := qdZa d
      let zw := qdZw d j
      let y := if qdZp d then y - zw * a - za * sextN 32 (recN d (64 + 4 * j) 4) + (qdK d : Int) * za * zw else y
      let y := if qdBias d then y + sextN 32 (recN d (640 + 4 * j) 4) else y
      mulW (roundFp32 (Fp.ofInt y)) mul
  match e with
  | some e => gateStage e g i (actStage e t)
  | none => t

/-- The output element of DRAIN.Q, and whether it saturates (R177, R179). -/
def quantOut (d : List Byte) (t : W32) : Nat × Bool :=
  let o := qdOfmt d
  if o = 7 ∨ o = 8 then
    match (fp t).toInt with
    | some n => let r := satN (intWidth o) (n + qdZout d); (wrapN (intWidth o) r.1, r.2)
    | none => let r := convInt (intWidth o) (fp t); (wrapN (intWidth o) r.1, r.2)
  else convOut o (fp t)

/-- Cycles of a drain (Table FMT-7). -/
def drainCycles (s : Slot) (int64 : Bool) : Nat :=
  if s.kind = 0#2 ∧ !s.mode then 64 + 16 * (s.levels.length - 1) else if int64 then 128 else 64

/-- Row r of a drain: a list of 64 results and whether any of them saturates. -/
def rowOf64 (f : Nat → Nat × Bool) (r : Nat) : List Nat × Bool :=
  let l := (upTo 64).map (fun c => f (64 * r + c))
  (l.map (fun x => x.1), l.any (fun x => x.2))

end Sys2Proof.Machine
end

