-- ==== Sys2Proof/Machine/Attn.lean ====
section
/-! DEFINITION. ATTN.STEP: its descriptor, its operand ranges, and what INIT, STEP and FINISH compute (R371 to R393). -/
namespace Sys2Proof.Machine

/-! ### The descriptor (Table ATN-3) -/

/-- SLOT. -/
def atSlot (d : List Byte) : Nat := recBits d 0 3
/-- CAUSAL. -/
def atCausal (d : List Byte) : Bool := recBits d 3 1 == 1
/-- XR. -/
def atXr (d : List Byte) : Bool := recBits d 4 1 == 1
/-- The cache format: BF16 or FP8-E4M3. -/
def atFmt (d : List Byte) : Nat := if recBits d 5 1 = 1 then 3 else 1
/-- OFMT: 1 gives BF16. -/
def atBf16 (d : List Byte) : Bool := recBits d 6 1 == 1
/-- M. -/
def atM (d : List Byte) : Nat := recBits d 8 6 + 1
/-- D / 64. -/
def atDq (d : List Byte) : Nat := recBits d 14 2 + 1
/-- D. -/
def atD (d : List Byte) : Nat := 64 * atDq d
/-- R. -/
def atR (d : List Byte) : Nat := 64 * recBits d 16 2
/-- L. -/
def atL (d : List Byte) : Nat := 64 * (recBits d 18 4 + 1)
/-- PAGE. -/
def atPage (d : List Byte) : Nat := recBits d 22 10
/-- SEQLEN. -/
def atSeq (d : List Byte) : Nat := recBits d 32 19
/-- QPOS. -/
def atQpos (d : List Byte) : Nat := recBits d 64 18
/-- WIN. -/
def atWin (d : List Byte) : Nat := recBits d 96 19
/-- SCALE. -/
def atScale (d : List Byte) : W32 := BitVec.ofNat 32 (recN d 16 4)
/-- TAG. -/
def atTag (d : List Byte) : Nat := recN d 20 4
/-- Q. -/
def atQ (d : List Byte) : Nat := recN d 24 8
/-- QSTRIDE. -/
def atQs (d : List Byte) : Nat := recN d 32 4
/-- OSTRIDE. -/
def atOs (d : List Byte) : Nat := recN d 36 4
/-- PG. -/
def atPg (d : List Byte) : Nat := recN d 40 8
/-- WUK. -/
def atWuk (d : List Byte) : Nat := recN d 48 8
/-- WUV. -/
def atWuv (d : List Byte) : Nat := recN d 56 8
/-- SCR. -/
def atScr (d : List Byte) : Nat := recN d 64 8
/-- MASK. -/
def atMask (d : List Byte) : Nat := recN d 72 8
/-- OUT. -/
def atOut (d : List Byte) : Nat := recN d 80 8

/-- Element size of the cache format. -/
def atElem (d : List Byte) : Nat := if atFmt d = 3 then 1 else 2
/-- K-blocks of an expansion chain, Kx. -/
def atKx (d : List Byte) : Nat := atL d / kB (atFmt d)
/-- Bytes of a page. -/
def atPageBytes (d : List Byte) : Nat := 256 * (atL d + atR d) * atElem d
/-- Bytes of an up-projection. -/
def atWeightBytes (d : List Byte) : Nat := atKx d * atDq d * 8192

/-- The checks of R374, which apply to every operation. -/
def attnBad (d : List Byte) : Bool :=
  !recZero d 7 1 || !recZero d 51 13 || !recZero d 82 14 || !recZero d 115 13 || !recZero d 704 320 ||
  recBits d 16 2 == 3 || atL d % kB (atFmt d) != 0 || atSeq d == 0 || decide (atSeq d > 262144) ||
  decide (atQpos d + atM d > 262144) || decide (atWin d > 262144) || decide (atSlot d + atDq d > 7) ||
  isNanW (atScale d) || isInfW (atScale d)

/-- The slots of the operation: output slots, then the work slot. -/
def attnSlots (d : List Byte) : List Nat := (upTo (atDq d + 1)).map (fun i => atSlot d + i)

/-- The operand ranges of an operation, in the order of R375: address, bytes, whether it is written. -/
def attnRanges (op : Nat) (d : List Byte) : List (Nat × Nat × Bool) :=
  if op = 1 then
    (upTo (atM d)).map (fun r => ((atQ d + r * atQs d) % 2 ^ 64, (atD d + atR d) * 2, false)) ++
    [(atScr d, 360448, true)] ++ (if atMask d = 0 then [] else [(atMask d, 32 * atM d, false)]) ++
    (if atXr d then [] else [(atPg d, atPageBytes d, false), (atWuk d, atWeightBytes d, false),
      (atWuv d, atWeightBytes d, false)])
  else if op = 2 then
    (upTo (atM d)).map (fun r => ((atOut d + r * atOs d) % 2 ^ 64, atD d * (if atBf16 d then 2 else 4), true))
  else []

/-- The addresses and strides that must be multiples of 64 (R375). -/
def attnAligned (op : Nat) (d : List Byte) : List Nat :=
  if op = 1 then
    [atQ d, atQs d, atScr d] ++ (if atMask d = 0 then [] else [atMask d]) ++
    (if atXr d then [] else [atPg d, atWuk d, atWuv d])
  else if op = 2 then [atOut d, atOs d] else []

/-- The conditions of ATTN_STATE (R385, R388) on the output slots. -/
def attnStateBad (d : List Byte) (outs : List Slot) : Bool :=
  match outs with
  | [] => false
  | o :: _ => outs.any (fun x => x.kind != 0#2 || !x.mode || x.base != o.base || x.count != o.count || x.tag != o.tag ||
      x.tag.toNat != atTag d)

/-- The order check of R385. -/
def attnOrderBad (d : List Byte) (outs : List Slot) : Bool :=
  match outs with
  | [] => false
  | o :: _ => atPage d != o.base.toNat + o.count

/-! ### Arithmetic -/

/-- Adjacent pairs added; a child alone passes unchanged (R138). -/
def pairUp : List W32 → List W32
  | a :: b :: t => addW a b :: pairUp t
  | l => l

/-- The canonical value of a chain of at most 2^n block sums (R138); an empty chain is +0 (R143). -/
def canonValue : Nat → List W32 → W32
  | 0, l => l.headD 0#32
  | n + 1, l => canonValue n (pairUp l)

/-- The canonical value of the chain over n K-blocks of a format, rows taken by block. -/
def chain (fmt n : Nat) (a w : Nat → List Byte) : W32 :=
  canonValue 12 ((upTo n).map (fun b => blockSumF fmt (kB fmt - 1) (a b) (w b)))

/-- An FP32 value converted to BF16 (R121, R122). -/
def toBf16 (x : W32) : Nat := (convFp 1 (fp x)).1
/-- A BF16 encoding widened exactly. -/
def ofBf16 (n : Nat) : W32 := BitVec.ofNat 32 (n * 65536)

/-- The expansion of token t against an up-projection: D BF16 values packed (R381). -/
def expandRow (d page w : List Byte) (t : Nat) : List Byte :=
  let kx := atKx d
  (upTo (atD d)).flatMap (fun c =>
    leBytes 2 (toBf16 (chain (atFmt d) kx
      (fun b => sliceB page (t * atL d * atElem d + 128 * b) 128)
      (fun b => sliceB w ((c / 64 * kx + b) * 8192 + 128 * (c % 64)) 128))))

/-- The positional key of token t, each element widened to BF16 (R357, R381). -/
def posKey (d page : List Byte) (t : Nat) : List Byte :=
  (upTo (atR d)).flatMap (fun j =>
    let o := (256 * atL d + t * atR d + j) * atElem d
    if atFmt d = 3 then leBytes 2 (convFp 1 (decodeFp layE4m3 (recN page o 1))).1 else sliceB page o 2)

/-- Whether position t of the page is masked for row r (R384). -/
def attnMasked (d mask : List Byte) (r t : Nat) : Bool :=
  let j := 256 * atPage d + t
  decide (j ≥ atSeq d) || (atCausal d && decide (j > atQpos d + r)) ||
  (decide (atWin d > 0) && decide (j + atWin d ≤ atQpos d + r)) ||
  (atMask d != 0 && bitAt (recN mask (32 * r + t / 8) 1) (t % 8))

/-- The scores of row r (R383, R384). -/
def attnScores (d mask q : List Byte) (ks : List (List Byte)) (r : Nat) : List W32 :=
  (upTo 256).map (fun t =>
    if attnMasked d mask r t then 0xFF800000#32
    else mulW (chain 1 ((atD d + atR d) / 64) (fun b => sliceB q (128 * b) 128) (fun b => sliceB (ks.getD t []) (128 * b) 128))
      (atScale d))

/-- What STEP makes of a row whose mn is not −∞: the factor when the maximum rises, l, mn and the weights (R386). -/
structure RowUp where
  f : Option W32
  l : W32
  mn : W32
  p : List Nat

/-- The softmax update of one row (R386); none when mn is −∞. -/
def rowUpdate (m l : W32) (sc : List W32) : Option RowUp :=
  let mb := match sc with
    | [] => 0xFF800000#32
    | x :: t => t.foldl maxW x
  let mn := maxW m mb
  if mn = 0xFF800000#32 then none
  else
    let f : Option W32 := if isNanW mn || Fp.lt (fp m) (fp mn) then some (roundFp32 (expF (fp (subW m mn)))) else none
    let l1 := match f with | some f => mulW f l | none => l
    let p := sc.map (fun x => toBf16 (roundFp32 (expF (fp (subW x mn)))))
    some { f := f, l := addW l1 (roundFp32 (treeSum 8 (p.map (fun n => fp (ofBf16 n))))), mn := mn, p := p }

/-- The weighted values of column c for the weights p (R386). -/
def attnPv (p : List Nat) (vs : List (List Byte)) (c : Nat) : W32 :=
  let row := p.flatMap (fun n => leBytes 2 n)
  chain 1 4 (fun b => sliceB row (128 * b) 128)
    (fun b => (upTo 64).flatMap (fun i => sliceB (vs.getD (64 * b + i) []) (2 * c) 2))

/-- The keys and values of a page: from the scratch area when XR = 1, else expanded (R381, R382). -/
def attnKv (d page wuk wuv scr : List Byte) : List (List Byte) × List (List Byte) :=
  if atXr d then
    ((upTo 256).map (fun t => sliceB scr (768 * t) (2 * (atD d + atR d))),
     (upTo 256).map (fun t => sliceB scr (196608 + 512 * t) (2 * atD d)))
  else
    ((upTo 256).map (fun t => expandRow d page wuk t ++ posKey d page t), (upTo 256).map (expandRow d page wuv))

/-- An output slot after a STEP: the rows updated, COUNT one more (R386, R387, R159). -/
def attnOut (ups : List (Option RowUp)) (vs : List (List Byte)) (j : Nat) (o : Slot) : Slot :=
  { o with
    lad := putLevel o.lad 12 (fun i =>
      match ups.getD (i / 64) none with
      | some u =>
        let x := o.at_ 12 i
        addW (match u.f with | some f => mulW f x | none => x) (attnPv u.p vs (64 * j + i % 64))
      | none => o.at_ 12 i),
    count := min (o.count + 1) 4096 }

/-- One output row of FINISH (R388). A BF16 conversion that saturates sets no sticky flag: no rule names one (log 77, DESIGN
CHOICE). -/
def finishRow (d : List Byte) (outs : List Slot) (l : W32) (r : Nat) : List Byte :=
  let rc := roundFp32 (recipF (fp l))
  (upTo (atD d)).flatMap (fun c =>
    let o := ((outs[c / 64]?).getD Slot.init).at_ 12 (64 * r + c % 64)
    let x := if l = 0#32 then 0#32 else mulW o rc
    if atBf16 d then leBytes 2 (toBf16 x) else leBytes 4 x.toNat)

/-- Cycles of an operation (R380, R388, Table ATN-6). -/
def attnCycles (op : Nat) (d : List Byte) : Nat :=
  let m := atM d
  match op with
  | 0 => 4 + atDq d
  | 1 => 72 + (if atXr d then 0 else atDq d * (512 * atKx d + 512)) + (4 * ((atD d + atR d) / 64) * max m 16 + 256) +
      (32 + 8 * m) + atDq d * (4 * max m 16 + 64)
  | _ => 16 + m * atDq d

end Sys2Proof.Machine
end

