-- ==== Sys2Proof/Machine/Issue.lean ====
section
/-! DEFINITION. The issue of an instruction by a thread: readiness, breakpoints, precise faults, the fetch buffer, and
the advance of the program counter (R48 to R53, R198 to R200, R278 to R283, R825 to R831). -/
namespace Sys2Proof.Machine

/-- The outcome of a command. -/
abbrev Out := Host.Outcome State Fault Refusal

/-- Whether the main domains run: out of reset (R648), not frozen (R835), clocks present (R745, R903). -/
def State.live (s : State) : Bool := s.dbg.freeze == 0#25 && s.pins.clocksOn && s.pins.resetN

/-- A command's effect while the main domains run; otherwise nothing happens (log 1). -/
def whenLive (s : State) (x : State) : Out := if s.live then .next x else .next s

/-! ### The fetch buffer -/

/-- The 128-byte block of an address (R199). -/
def blockOf (a : W64) : W64 := BitVec.ofNat 64 (a.toNat / 128 * 128)

/-- A thread leaves a wait: READY when its next instruction is in its fetch buffer, else it waits for the block, which is
requested if it is not yet (R199, R200). -/
def Thread.goOn (t : Thread) : Thread :=
  let b := blockOf t.pc
  if t.fcur = some b then { t with st := .ready, wait := .none }
  else if t.fnext = some b then
    { t with st := .ready, wait := .none, fcur := some b, fwords := t.fnwords, fnext := none, fnwords := [] }
  else { t with st := .waitMem, wait := .fetch,
                freq := if t.freq.contains b then t.freq else t.freq ++ [b] }

/-- A wait of a thread ends; a HALTED thread stays HALTED, with its wait over (R834). -/
def Thread.wake (t : Thread) : Thread := if t.st = .halted then { t with wait := .none } else t.goOn

/-- The first instruction issued from a block requests the next sequential block (R199). -/
def Thread.ahead (t : Thread) : Thread :=
  let b := blockOf t.pc + 128#64
  if t.fnext.isSome || t.freq.contains b then t else { t with freq := t.freq ++ [b] }

/-- After a taken branch or a jump the buffer is empty and the target's block is requested (R200). -/
def Thread.jump (t : Thread) (pc : W64) : Thread :=
  { t with pc := pc, fcur := none, fwords := [], fnext := none, fnwords := [], freq := [blockOf pc],
           st := .waitMem, wait := .fetch }

/-- The instruction word that the fetch buffer holds for the program counter: of a counter that is no multiple of 8, which the
spec gives no outcome, the word that it lies in (R184, log 77, DESIGN CHOICE). -/
def Thread.fetched (t : Thread) : Option W64 :=
  if t.fcur = some (blockOf t.pc) then t.fwords[t.pc.toNat % 128 / 8]? else none

/-! ### Halting -/

/-- A thread halts: HALTED, fault record, event word to its cluster's controller, FAULT record in Dailies (R282, R283). What
[63:32] of the word holds is not stated: the TRAP immediate, else 0 (R297, log 77, DESIGN CHOICE). -/
def State.halt (s : State) (k t code entry va imm : Nat) : State :=
  let th := s.thr k t
  let s := s.updThr k t (fun x => { x with
    st := .halted, wait := .none,
    flt := { code := BitVec.ofNat 8 code, v := true, pc := th.pc.setWidth 48, entry := BitVec.ofNat 48 entry,
             va := BitVec.ofNat 48 va, imm := BitVec.ofNat 32 imm } })
  let s := s.traceRec k 3 t th.pc.toNat code
  s.ctlEvent (some (keyCl k)) (eventWord 0 (s.logOf k).2 t code imm)

/-! ### Breakpoints -/

/-- Whether breakpoint b matches thread t on an access of the given kind that touches len bytes at va (Table DBG-2). -/
def Bp.matches? (b : Bp) (kind t va len : Nat) : Bool :=
  let c := b.ctl.toNat
  let ign := 2 ^ bitsAt c 12 4
  let a := (b.lo.toNat + 2 ^ 32 * (b.hi.toNat % 2 ^ 16)) / ign * ign
  bitAt c 0 && bitsAt c 1 2 == kind && (bitAt c 11 || bitsAt c 5 6 == t) &&
  (if kind = 3 then bitsAt c 24 8 == va else decide (va < a + ign) && decide (a < va + len))

/-- A match counted: HITS saturates; the breakpoint fires on the match that follows SKIP matches, and then clears EN
(R827). -/
def Bp.hit (b : Bp) : Bp × Bool :=
  let b1 := { b with hits := if b.hits = 0xFFFFFFFF#32 then b.hits else b.hits + 1#32 }
  if b.seen ≥ bitsAt b.ctl.toNat 16 8 then ({ b1 with ctl := b.ctl &&& 0xFFFFFFFE#32, seen := 0 }, true)
  else ({ b1 with seen := b.seen + 1 }, false)

/-- ACTION of a breakpoint. -/
def Bp.action (b : Bp) : Nat := bitsAt b.ctl.toNat 3 2

/-- The start of a drain of one core (R829). -/
def State.drainCore (s : State) (k : Nat) (all : Bool) : State :=
  s.updCore k (fun c => { c with draining := true, drainAll := c.drainAll || all })

/-- The effect of a firing: a Dailies trigger of cause 0 (R831), and the drain of the core or of the cluster (R829). -/
def State.fire (s : State) (k t action : Nat) : State :=
  let s := s.trigger (some (keyCl k)) 0 (keyCore k) t 0 0 0 0
  if action = 1 then s.drainCore k false
  else if action = 2 then (upTo 9).foldl (fun s j => s.drainCore (coreKey (keyCl k) j) true) s
  else s

/-- Every armed breakpoint of a core tried against the touches of one instruction, in ascending number; the answer says
whether one fired that halts the thread (R826 to R828). -/
def State.bpScan (s : State) (k t : Nat) (touch : List (Nat × Nat × Nat)) : State × Bool :=
  (upTo 8).foldl (fun acc n =>
    let s := acc.1
    let b := (s.core k).bp.get Bp.init n
    if touch.any (fun x => b.matches? x.1 t x.2.1 x.2.2) then
      let r := b.hit
      let s := s.updCore k (fun c => { c with bp := c.bp.put n r.1 })
      if r.2 then (s.fire k t b.action, acc.2 || b.action != 3) else (s, acc.2)
    else acc) (s, false)

/-! ### Issue -/

/-- What an instruction does at issue. -/
inductive Res where
  /-- A precise fault: code and virtual address (R278). -/
  | fault (code va : Nat)
  /-- A precise fault of an access that met an error not known before: what the memory is then, code and virtual address (R448). -/
  | faultAt (s : State) (code va : Nat)
  /-- TRAP with its immediate (R275). -/
  | trap (imm : Nat)
  /-- The instruction does not issue now, and the thread waits as the state says (R242, R104). -/
  | block (s : State)
  /-- The instruction issues; the program counter goes on to the next one. -/
  | done (s : State)
  /-- The instruction issues and jumps. -/
  | jump (s : State) (pc : W64)

/-- Whether a drain occupies the lanes of a core's element-wise pipeline: a DRAIN or DRAIN.Q that has begun (R223). -/
def State.laneHeld (s : State) (k : Nat) : Bool :=
  (s.core k).queue.any (fun e => e.begun && (opcOf e.w == 0xA5 || opcOf e.w == 0xA6))

/-- Whether a thread is able to issue its next instruction: READY, no deferred fault found for it (R279), no register that
the instruction names still pending (R51), and the lanes free for an instruction that runs in them: while a drain occupies
them the thread counts as in WAIT_MTX (R48, R223). -/
def State.able (s : State) (k t : Nat) : Bool :=
  let th := s.thr k t
  th.st == .ready && th.deferred == none && match th.fetched with
    | some w => !(wordVregs w).any (fun r => th.pendV.contains r) && !(laneWord w && s.laneHeld k)
    | none => false

/-- Whether the issue stage takes thread t, were it able: none of the threads above the one that last issued, up to it,
wrapping from 63 to 0, is able to issue (R49). -/
def State.turn (s : State) (k t : Nat) : Bool :=
  let last := (s.core k).last
  !(upTo ((t + 63 - last) % 64)).any (fun i => s.able k ((last + 1 + i) % 64))

/-- A thread may issue the word w: READY, no deferred fault found for it (R279), its core neither draining (R829) nor in
a context switch (R508) nor held by lossless Dailies (R843), the word in its fetch buffer (or in memory at its program
counter, R107), no register it names still pending from a queue entry (R51, R204), the lanes free for it (R223), and the
issue stage at it in its round (R49). -/
def State.canIssue (s : State) (k t : Nat) (w : W64) (vregs : List Nat) : Bool :=
  let th := s.thr k t
  th.st == .ready && th.deferred == none && !(s.core k).draining && (s.core k).switching == none &&
  (th.fetched == some w || (th.fetched.isSome && s.vrdVal (s.partOf k) th.pc.toNat 8 == w.toNat)) &&
  !vregs.any (fun r => th.pendV.contains r) && !(laneWord w && s.laneHeld k) && !s.traceHeld (keyCl k) && s.turn k t

/-- What a precise fault of a thread's access counts besides: MEM_UE delivered (R444), an access outside the ownership (R79). -/
def State.noteFault (s : State) (k code va : Nat) : State :=
  if code = fcUe then s.count k 0x22 1 else if code = fcTier ∨ code = fcPage then s.noteOutside (s.partOf k) va else s

/-- The issue is counted, and the thread becomes the one that last issued (R49, R819). -/
def State.noteIssue (s : State) (k t : Nat) : State :=
  s.updCore k (fun c => { c.count 1 1 with last := t })

/-- After the issue the program counter goes on by one word; a thread that the instruction left running goes on with its
fetch buffer (R199). -/
def State.advance (s : State) (k t : Nat) : State :=
  s.updThr k t (fun th =>
    let th' := { th.ahead with pc := th.pc + 8#64 }
    if th.st = .ready then th'.goOn else th')

/-- An instruction of a thread: breakpoints first, then its effect or its precise fault (R278, R926). A branch or jump that is
taken is recorded in Dailies (Table DBG-5); IBAR only fetches anew. -/
def State.issue (s : State) (h : Hart) (w : W64) (vregs : List Nat) (touch : List (Nat × Nat × Nat))
    (sem : State → Res) : State :=
  let k := h.key
  let t := h.thr.val
  if !s.canIssue k t w vregs then s
  else match sem s with
  | .block s' => s'
  | _ =>
    let b := s.bpScan k t ((0, (s.thr k t).pc.toNat, 8) :: touch)
    if b.2 then b.1.halt k t fcBreak 0 0 0
    else
      let pc := (s.thr k t).pc
      match sem b.1 with
      | .fault c va => (b.1.noteFault k c va).halt k t c 0 va 0
      | .faultAt s' c va => (s'.noteFault k c va).halt k t c 0 va 0
      | .trap imm => b.1.halt k t fcTrap 0 0 imm
      | .done s' => (s'.noteIssue k t).advance k t
      | .jump s' pc' =>
        let s2 := (s'.noteIssue k t).updThr k t (fun th => th.jump pc')
        if opcOf w = 0x43 then s2 else s2.traceRec k 2 t pc.toNat pc'.toNat
      | .block s' => s'

/-- A word whose opcode is that of its row is well formed; a word with a reserved opcode is one that any issue row may
name, and it raises ILLEGAL (R186); any other word makes the command ill formed (log 1). -/
def issueRow (op : Nat) (w : W64) (s : State) (legal illegal : State) : Out :=
  if opcOf w = op then whenLive s legal
  else if listedOpc (opcOf w) then .fault .malformed
  else whenLive s illegal

end Sys2Proof.Machine
end

