-- ==== Sys2Proof/Machine/Ctl.lean ====
section
/-! DEFINITION. The issue of an instruction by a controller, its faults, and the failure of a cluster controller
(R289 to R297, R785, R801, R817, R832). Controllers are `some c` for cluster c and `none` for the device. -/
namespace Sys2Proof.Machine

/-- The DETAIL of the reliability events (Table REL-6), its bits counted from 128. -/
def relDetail (kind action phys epoch node a b : Nat) : Nat :=
  kind % 16 + 2 ^ 4 * (action % 16) + 2 ^ 8 * (phys % 16) + 2 ^ 16 * (epoch % 2 ^ 16) + 2 ^ 32 * (node % 2 ^ 18) +
    2 ^ 64 * (a % 2 ^ 32) + 2 ^ 96 * (b % 2 ^ 32)

/-- A record of a core or cluster controller: to the partition that owns the cluster with logical numbers, and a
device-level copy with physical numbers (R787). -/
def State.postUnit (s : State) (code source c unitLog unitPhys kind action phys epoch a b : Nat) : State :=
  let s := match s.ownerCl c with
    | some p => s.post p (some c) code source unitLog p false (relDetail kind action 0 epoch 0 a b)
    | none => s
  s.post 8 none code source unitPhys ((s.ownerCl c).getD 0) true (relDetail kind action phys epoch s.dev.node.toNat a b)

/-- The next epoch of a unit: beyond 0xFFFE the unit is retired and its epoch reads 0xFFFF (R804). -/
def nextEpoch (e : BitVec 16) : BitVec 16 := if e.toNat ≥ 0xFFFE then 0xFFFF#16 else e + 1#16

/-- Requests of a unit of cluster c whose epoch is stale dropped and counted, with EV_FENCE at most once per sender in each
millisecond (R787, R805, R807): a core by its physical number, or the controller as sender 15. -/
def State.dropStale (s : State) (c sender log n : Nat) : State :=
  if n = 0 then s
  else
    let s := s.updCl c (fun x => { x with fenceDrop := BitVec.ofNat 32 (min (x.fenceDrop.toNat + n) 0xFFFFFFFF) })
    let due : Bool := match (s.cl c).fencePost.find sender with
      | some t => decide (t.toNat + 1000000 ≤ s.ns)
      | none => true
    if !due then s
    else
      let s := s.updCl c (fun x => { x with fencePost := x.fencePost.put sender s.nsW })
      let drops := (s.cl c).fenceDrop.toNat
      let l := (s.logCl ((s.ownerCl c).getD 8) c).getD 0
      if sender = 15 then s.postUnit 0x06 2 c l c 8 4 0 (s.cl c).ctlEpoch.toNat drops 0
      else s.postUnit 0x06 1 c (8 * l + log) (9 * c + sender) 8 4 sender ((s.cl c).pepoch.get 0#16 sender).toNat drops 0

/-- A cluster controller is declared failed: it is fenced, its epoch rises, and requests that it posted under the old
epoch are dropped and counted, with EV_FENCE (R801 step 1, R803, R805, R806). -/
def State.ctlFail (s : State) (c kind : Nat) : State :=
  let e := nextEpoch (s.cl c).ctlEpoch
  let s := s.updCl c (fun x => { x with
    ctlEpoch := e, ctl := { x.ctl with fenced := true, mboxWait := none, load := none, wfe := none } })
  let n := (upTo 8).foldl (fun n p => n + ((s.part p).mbox.filter (fun m => m.1 == c)).length) 0
  let s := (upTo 8).foldl (fun s p => s.updPart p (fun x => { x with mbox := x.mbox.filter (fun m => m.1 != c) })) s
  let s := s.dropStale c 15 0 n
  s.postUnit 0x03 2 c ((s.logCl ((s.ownerCl c).getD 8) c).getD 0) c kind 2 0 e.toNat 0 0

/-- A controller instruction faults: to HBASE with EPC and ECAUSE while ECAUSE is zero, else the controller stops, which
for a cluster controller is a unit fault (R295, R296). The stop of the device controller is not covered: the management commands that it
holds complete ABANDONED (R789, log 71). -/
def State.ctlFault (s : State) (c : Option Nat) (code : Nat) : State :=
  let t := s.ctl c
  if t.ecause = 0#8 then
    s.updCtl c (fun t => { t with
      epc := t.pc.setWidth 40, ecause := BitVec.ofNat 8 code, pc := t.hbase.setWidth 64 })
  else
    let s := s.updCtl c (fun t => { t with stopped := true })
    match c with
    | some n => s.ctlFail n 3
    | none => s.usb.mgmtCmds.foldl (fun s x => s.completeMgmt x.serial stAbandoned 0 0 0) s

/-- An access outside the ownership counted under R79. -/
def State.ctlCount (s : State) (c : Option Nat) (code : Nat) : State :=
  match c with
  | some n => if code = fcPriv then (match s.ownerCl n with
      | some p => s.updPart p (fun x => { x with badAccess := x.badAccess + 1 })
      | none => s) else s
  | none => s

/-- The base of a controller's local memory (R291). -/
def localBase : Nat := 0xEFFFF00000
/-- Whether an address lies in the local memory. -/
def inLocal (a : Nat) : Bool := decide (localBase ≤ a) && decide (a < localBase + 0x100000)

/-- The word at a controller's program counter, in its local memory (R292). -/
def Ctl.fetched (t : Ctl) : Nat := leVal (Memory.readN t.mem (t.pc.toNat - localBase) 8)

/-- A controller that may issue: firmware runs, its cluster is powered, and it neither waits nor is stopped, halted or fenced. -/
def State.ctlReady (s : State) (c : Option Nat) : Bool :=
  let t := s.ctl c
  s.boot.running && !t.stopped && !t.halted && !t.fenced && t.wfe == none && t.load == none && t.mboxWait == none &&
    c.all (fun n => (s.cl n).powered)

/-- The breakpoints of a controller tried: KIND 0 on its program counter, KIND 1 on its loads; every firing halts it and
drains its cluster (R832). -/
def State.ctlBp (s : State) (c : Nat) (touch : List (Nat × Nat × Nat)) : State × Bool :=
  (upTo 8).foldl (fun acc n =>
    let s := acc.1
    let b := (s.cl c).ctl.bp.get Bp.init n
    if touch.any (fun x => decide (x.1 < 2) && b.matches? x.1 0 x.2.1 x.2.2) then
      let r := b.hit
      let s := s.updCl c (fun x => { x with ctl := { x.ctl with bp := x.ctl.bp.put n r.1 } })
      if r.2 then ((s.fire (coreKey c 0) 0 2).updCl c (fun x => { x with ctl := { x.ctl with halted := true } }), true)
      else (s, acc.2)
    else acc) (s, false)

/-- What a fault of a controller's access counts and logs besides: an error unit that cannot be read (R464), an access outside the
ownership (R79). -/
def State.ctlNote (s : State) (c : Option Nat) (code va : Nat) : State :=
  (if code = fcUe then s.logUe va false else s).ctlCount c code

/-- An instruction of a controller (R289, R292, R295): the word stands in its local memory at its program counter. -/
def State.ctlIssue (s : State) (c : Option Nat) (w : W64) (touch : List (Nat × Nat × Nat)) (sem : State → Res) : State :=
  if !s.ctlReady c then s
  else if !inLocal (s.ctl c).pc.toNat || (s.ctl c).pc.toNat % 8 != 0 then s.ctlFault c fcFetch
  else if (s.ctl c).fetched != w.toNat then s
  else match sem s with
  | .block s' => s'
  | _ =>
    let b := match c with
      | some n => s.ctlBp n ((0, (s.ctl c).pc.toNat, 8) :: touch)
      | none => (s, false)
    if b.2 then b.1
    else if !ctlOpc (opcOf w) then b.1.ctlFault c fcIllegal
    else match sem b.1 with
      | .fault code va => (b.1.ctlNote c code va).ctlFault c code
      | .faultAt s' code va => (s'.ctlNote c code va).ctlFault c code
      | .trap _ => b.1.ctlFault c fcTrap
      | .done s' => s'.updCtl c (fun t => { t with pc := t.pc + 8#64 })
      | .jump s' pc => s'.updCtl c (fun t => { t with pc := pc })
      | .block s' => s'

/-- The controller that an agent is. -/
def ctlOf : Agent → Option Nat
  | .cluster c => some c.val
  | _ => none

/-- An instruction of any agent: the effect given by a register-level function for both forms. -/
def State.issueAny (s : State) (a : Agent) (w : W64) (vregs : List Nat) (touch : List (Nat × Nat × Nat))
    (thr : Hart → State → Res) (ctl : Option Nat → State → Res) : State :=
  match a with
  | .thread h => s.issue h w vregs touch (thr h)
  | .cluster c => s.ctlIssue (some c.val) w touch (ctl (some c.val))
  | .device => s.ctlIssue none w touch (ctl none)

/-- The meaning of an issue row for every agent; a row that only cores execute raises ILLEGAL on a controller (R289). -/
def issueMeaning (op : Nat) (a : Agent) (w : W64) (s : State) (vregs : List Nat) (touch : List (Nat × Nat × Nat))
    (thr : Hart → State → Res) (ctl : Option Nat → State → Res) : Out :=
  issueRow op w s (s.issueAny a w vregs touch thr ctl)
    (s.issueAny a w [] [] (fun _ _ => .fault fcIllegal 0) (fun _ _ => .fault fcIllegal 0))

/-- ILLEGAL on a controller. -/
def noCtl (_ : Option Nat) (_ : State) : Res := .fault fcIllegal 0

end Sys2Proof.Machine
end

