-- ==== Sys2Proof/Machine/Errors.lean ====
section
/-! DEFINITION. Uncorrectable errors: the log of an HBM block, poison, MEM_UE deliveries and their events (R447 to R458,
R463, R464). -/
namespace Sys2Proof.Machine

/-- The row that a repair names: channel and row of granules of its offset (log 22). -/
def State.rowOf (s : State) (a : Nat) : Nat × Nat × Nat :=
  let pl := s.placeHbm a
  (pl.1, pl.2.1, pl.2.2 / 256)

/-- A soft repair of the row that holds an address starts, unless it runs (R455). -/
def State.startRepair (s : State) (a : Nat) : State :=
  let r := s.rowOf a
  s.updStack r.1 (fun h => { h with
    repairing := if h.repairing.contains (r.2.1, r.2.2) then h.repairing else h.repairing ++ [(r.2.1, r.2.2)] })

/-- A single-bit error corrected on a read and written back within the access: counted in the store's corrected-error count or
in CE_COUNT (R447, R463). The second corrected error of an HBM row since reset starts its repair (R455). -/
def State.correct (s : State) (a : Nat) : State :=
  match regionOf a with
  | .hbm _ =>
    let r := s.rowOf a
    let again := (s.stack r.1).ceRows.contains (r.2.1, r.2.2)
    let s := s.updStack r.1 (fun h => { h with
      ce := satInc h.ce, ceRows := if again then h.ceRows else h.ceRows ++ [(r.2.1, r.2.2)] })
    if again then s.startRepair a else s
  | .core k _ => s.updCore k (fun c => { c with ceCount := satInc c.ceCount })
  | .cluster c _ => s.updCl c (fun x => { x with ceCount := satInc x.ceCount })
  | _ => s

/-- A read meets an uncorrectable error not yet known: a store word, or a granule whose second read fails too. The granule
is poisoned, EV_MEM_UE goes out and a repair of its row starts (R448, R451, R453, R455). -/
def State.newUe (s : State) (a : Nat) : State :=
  match regionOf a with
  | .hbm n =>
    if s.badAt a then s
    else
      let s := { s with poison := s.poison ++ [errUnit a] }
      let s := s.hbmLog a 0
      (s.postMemUe (s.ownerSt n) (s.rowOf a).1 (errUnit a)).startRepair a
  | .core _ _ => if s.badAt a then s else { s with badWords := s.badWords ++ [errUnit a] }
  | .cluster _ _ => if s.badAt a then s else { s with badWords := s.badWords ++ [errUnit a] }
  | _ => s

/-- Cycles that a wait of core k will count under a stall cause, one in each cycle from now on (R445). -/
def State.owe (s : State) (k cause n : Nat) : State :=
  if n = 0 then s else s.updCore k (fun c => { c with owed := c.owed.put cause (c.owed.get 0 cause + n) })

/-- The second read of a granule of HBM: a read of core k waits for it, and each cycle of the wait counts as MEM_RETRY. How many
they are is not stated (R444, R451, log 78). -/
def State.retry (s : State) (k : Option Nat) (a : Nat) : State :=
  match regionOf a, k with
  | .hbm _, some k =>
    let p := s.partOf k
    (s.owe k 0x21 (Config.freeValue (s.freeAt p)).toNat).freshP p 1
  | _, _ => s

/-- The error that an access of core k, or of another reader, meets at a device address: nothing more happens where the unit's
error is known. -/
def State.meet (s : State) (k : Option Nat) (a : Nat) (e : MemErr) : State :=
  if s.badAt a then s
  else match e with
    | .none => s
    | .corrected _ => s.correct a
    | .reread _ => s.retry k a
    | .failed _ => (s.retry k a).newUe a

/-- Where in the bytes that an access reads its error lies. -/
def errOff (e : MemErr) : Nat := match e with
  | .none => 0
  | .corrected n => n
  | .reread n => n
  | .failed n => n

/-- Whether the error is one that makes the read fail. -/
def errFails (e : MemErr) : Bool := match e with
  | .failed _ => true
  | _ => false

/-- The address of byte i of a list of ranges, in their order. -/
def rangeByte : List (Nat × Nat) → Nat → Option Nat
  | [], _ => none
  | r :: t, i => if i < r.2 then some ((r.1 + i) % 2 ^ 64) else rangeByte t (i - r.2)

/-- The error that core k's access meets in the virtual ranges that it reads, in their order. -/
def State.meetV (s : State) (k : Nat) (l : List (Nat × Nat)) (e : MemErr) : State :=
  match (rangeByte l (errOff e)).bind (fun va => s.va? (s.partOf k) va) with
  | some a => s.meet (some k) a e
  | none => s

/-- The error that an access of a controller meets in the device ranges that it reads (R290). -/
def State.meetA (s : State) (l : List (Nat × Nat)) (e : MemErr) : State :=
  match rangeByte l (errOff e) with
  | some a => s.meet none a e
  | none => s

/-- Bytes of the error unit at a virtual address. -/
def State.unitAt (s : State) (p va : Nat) : Nat := match s.va? p va with
  | some a => unitSize a
  | none => 8

/-- The parts of a written range that cover an error unit only in part, with units of u bytes at its first byte and of w at its
last: such a write meets an error not yet found as a read does; one that covers the unit whole reads nothing (R449, R452). -/
def edgesOf (u w va n : Nat) : List (Nat × Nat) :=
  let a := (va + u - 1) / u * u
  let b := (va + n) / w * w
  if n = 0 then [] else if a > b then [(va, n)] else [(va, a - va), (b, va + n - b)]

/-- The parts of a written virtual range that cover an error unit only in part. -/
def State.edges (s : State) (p va n : Nat) : List (Nat × Nat) := edgesOf (s.unitAt p va) (s.unitAt p (va + n - 1)) va n

/-- An uncorrectable error delivered as MEM_UE to core k (R444): counted, and logged. -/
def State.tellUe (s : State) (k a : Nat) (fresh : Bool) : State := (s.count k 0x22 1).logUe a fresh

/-- The first unreadable byte of a virtual range: its device address. -/
def State.vbadAt (s : State) (p va n : Nat) : Option Nat :=
  (s.runs p va n).findSome? (fun r => match r.1 with
    | some a => (s.badFirst a r.2.2).map (fun o => a + o)
    | none => none)

/-- MEM_UE delivered to core k for the first unreadable byte of a virtual range. -/
def State.tellUeV (s : State) (k va n : Nat) (fresh : Bool) : State :=
  match s.vbadAt (s.partOf k) va n with
  | some a => s.tellUe k a fresh
  | none => s.count k 0x22 1

/-- An access of another reader than a core to a virtual range with an unreadable byte is logged, unless that access found it
(R464). -/
def State.logUeV (s : State) (p va n : Nat) (fresh : Bool) : State :=
  match s.vbadAt p va n with
  | some a => s.logUe a fresh
  | none => s

/-! ### Repair records in the package flash (R457, R654) -/

/-- A byte of the flash: as last written, else as it left the factory (log 8). -/
def State.flashRd (s : State) (o : Nat) : Byte := (s.flash.find o).getD (Config.factoryByte o)

/-- Flash offset of repair record i: 8,192 records of eight bytes in the last 64 KiB of the calibration tables (log 60). -/
def repairOff (i : Nat) : Nat := 0x1FF0000 + 8 * i

/-- Repair record i: a stack with bit 7 set, a channel and a row. -/
def State.repairRec (s : State) (i : Nat) : Option (Nat × Nat × Nat) :=
  let l := (upTo 8).map (fun b => s.flashRd (repairOff i + b))
  if recN l 0 1 / 8 = 16 then some (recN l 0 1 % 8, recN l 1 1, recN l 2 4) else none

/-- The rows that the flash records, of a stack. -/
def State.repairRows (s : State) (n : Nat) : List (Nat × Nat) :=
  ((upTo 8192).filterMap s.repairRec).filterMap (fun x => if x.1 = n then some x.2 else none)

/-- A repaired row recorded in the first free record (R457). -/
def State.recordRepair (s : State) (n : Nat) (r : Nat × Nat) : State :=
  match (upTo 8192).find? (fun i => (s.repairRec i).isNone) with
  | none => s
  | some i =>
    let l := [BitVec.ofNat 8 (128 + n), BitVec.ofNat 8 r.1] ++ leBytes 4 r.2 ++ [0#8, 0#8]
    { s with flash := (upTo 8).foldl (fun m b => m.put (repairOff i + b) (l.getD b 0#8)) s.flash }

/-! ### Banks under repair (R455) -/

/-- Whether a device range touches a bank in which a row is under repair: an access to it waits (R455). -/
def State.bankBusy (s : State) (a n : Nat) : Bool :=
  s.hbm.any (fun h => !h.2.repairing.isEmpty) && match regionOf a with
    | .hbm _ => (upTo ((n + 255) / 256 + 1)).any (fun i =>
        let r := s.rowOf (a + min (256 * i) (n - 1))
        (s.stack r.1).repairing.any (fun x => x.1 == r.2.1 && Config.hbmBank x.2 == Config.hbmBank r.2.2))
    | _ => false

/-- Whether a virtual range touches such a bank. -/
def State.vbankBusy (s : State) (p va n : Nat) : Bool :=
  decide (n > 0) && (s.runs p va n).any (fun r => match r.1 with
    | some a => s.bankBusy a r.2.2
    | none => false)

end Sys2Proof.Machine
end

