-- ==== Sys2Proof/Machine/Access.lean ====
section
/-! DEFINITION. The memory accesses of threads: checks, the wait for a page in motion, loads, stores, atomics, and what a
write does besides (R85 to R88, R104, R107, R191 to R194, R210 to R213, R805, R852). -/
namespace Sys2Proof.Machine

/-- The number under which a thread's unordered writes are kept (log 16). -/
def gid (k t : Nat) : Nat := 1 + 64 * k + t

/-! ### What a write does besides -/

/-- The ranges from which an entry of the array queue reads operands of R107: the tile rows of MLOADW, the activation rows
of MMUL, the image of LADDER.MERGE and LADDER.LOAD, the descriptor of DRAIN.Q, the operands of ATTN.STEP and NMS (R163,
R176, R245, R249, R378, R416). -/
def State.operandRows (s : State) (k : Nat) (e : QEntry) : List (Nat × Nat) :=
  let n := rowBytes (qFmt e.w)
  let va := e.va.toNat
  match opcOf e.w with
  | 0x90 => if qE e.w then [(va, 8208)]
    else (upTo 64).map (fun r => ((va + r * (if e.vb = 0#64 then n else e.vb.toNat)) % 2 ^ 64, n))
  | 0x91 => (upTo (qM e.w)).map (fun r => ((va + r * e.vb.toNat) % 2 ^ 64, n))
  | 0xA4 => [(va, imageLen (s.vrdN (s.partOf k) va 64))]
  | 0xA7 => [(va, imageLen (s.vrdN (s.partOf k) va 64))]
  | 0xA6 => [(e.vc.toNat, 896)]
  | 0xB0 => if fX e.w % 4 = 1 then (attnRanges 1 e.desc).map (fun r => (r.1, r.2.1)) else []
  | 0xBA => [(recN e.desc 16 8, 16 * recBits e.desc 0 14), (recN e.desc 24 8, 4 * recBits e.desc 0 14)]
  | _ => []

/-- Whether an entry has yet to read its operands: ATTN.STEP and NMS count so until they complete (R378, R416). -/
def QEntry.unread (e : QEntry) : Bool := !e.begun || opcOf e.w == 0xB0 || opcOf e.w == 0xBA

/-- A store, DMA or MOVE into a range that a queued entry has not yet read leaves its result undefined (R107). -/
def State.taintQueues (s : State) (p va n : Nat) : State :=
  { s with cores := s.cores.mapV (fun k c =>
      if s.partOf k = p then
        { c with queue := c.queue.map (fun e =>
            if e.unread && (s.operandRows k e).any (fun r => overlaps r.1 r.2 va n) then { e with tainted := true } else e) }
      else c) }

/-- The record of one 64-byte granule that a write touches (R852): address, mask, bytes. -/
def granuleRec (g va : Nat) (l : List Byte) : List Byte :=
  let inR (i : Nat) : Bool := decide (va ≤ g + i) && decide (g + i < va + l.length)
  leBytes 8 g ++ leBytes 8 ((upTo 64).foldl (fun a i => if inR i then a + 2 ^ i else a) 0) ++
    (upTo 64).map (fun i => if inR i then l.getD (g + i - va) 0#8 else 0#8)

/-- The lock-step signature of a core, or of the chunk that thread t runs, takes a write (R852); it is formed while
lock-step is enabled (log 17). -/
def State.signWrite (s : State) (k t va : Nat) (l : List Byte) : State :=
  let lock : Bool := match (s.core k).job with
    | some j => (s.job (s.partOf k) j).lock
    | none => false
  if !lock || l.isEmpty then s
  else
    let g0 := va / 64
    let n := (va + l.length - 1) / 64 - g0 + 1
    let sum := (upTo n).foldl (fun a i => a + crc64 (granuleRec ((g0 + i) * 64) va l)) 0
    let lo (x : W32) : W32 := BitVec.ofNat 32 (min x.toNat (va / 65536))
    let hi (x : W32) : W32 := BitVec.ofNat 32 (max x.toNat ((va + l.length - 1) / 65536))
    match (s.thr k t).chunk with
    | none => s.updCore k (fun c => { c with sig := c.sig + BitVec.ofNat 64 sum, sigLo := lo c.sigLo, sigHi := hi c.sigHi })
    | some n => s.updCore k (fun c => { c with chunkq := c.chunkq.map (fun (x : Chunk) =>
        if x.serial = n then { x with sig := x.sig + BitVec.ofNat 64 sum, sigLo := lo x.sigLo, sigHi := hi x.sigHi } else x) })

/-- The chunk that a thread runs, in its core's chunk queue. -/
def State.chunkOf (s : State) (k t : Nat) : Option Chunk :=
  match (s.thr k t).chunk with
  | some n => (s.core k).chunkq.find? (fun c => c.serial == n)
  | none => none

/-! ### Inputs that change under a chunk, a step or a launch (R107, R799, log 16) -/

/-- A list of ranges without the bytes of one. -/
def cutRange (a n : Nat) (l : List (Nat × Nat)) : List (Nat × Nat) :=
  l.flatMap (fun r =>
    if overlaps r.1 r.2 a n then
      (if r.1 < a then [(r.1, a - r.1)] else []) ++ (if a + n < r.1 + r.2 then [(a + n, r.1 + r.2 - (a + n))] else [])
    else [r])

/-- Device bytes of a partition written by a job, or by software outside its cores. They change under every step that runs and every
chunk that is submitted, but for those of the job itself; of its own running step they are no longer what the run that was cut off
left. -/
def State.noteChange (s : State) (p : Nat) (job : Option Nat) (a n : Nat) : State :=
  let s := s.updPart p (fun x => { x with jobs := x.jobs.mapV (fun j y =>
    if y.running.isNone then y
    else if job = some j then { y with wrote := (a, n) :: cutRange a n y.wrote, changed := cutRange a n y.changed }
    else { y with changed := y.changed ++ [(a, n)] }) })
  { s with cores := s.cores.mapV (fun k c =>
      if s.partOf k = p ∧ !(job.isSome && c.job == job) then
        { c with chunkq := c.chunkq.map (fun h => { h with changed := h.changed ++ [(a, n)] }) }
      else c) }

/-- The same for a virtual range, page by page. -/
def State.noteChangeV (s : State) (p : Nat) (job : Option Nat) (va n : Nat) : State :=
  (s.runs p va n).foldl (fun s r => match r.1 with
    | some a => s.noteChange p job a r.2.2
    | none => s) s

/-- The device ranges that have changed under the chunk of thread t, or under the step of the job on its core. -/
def State.changesOf (s : State) (k t : Nat) : List (Nat × Nat) :=
  match s.chunkOf k t, (s.core k).job with
  | some c, _ => c.changed
  | none, some j => (s.job (s.partOf k) j).changed
  | none, none => []

/-- Whether a virtual range that thread t reads has changed so. -/
def State.vchanged (s : State) (k t va n : Nat) : Bool :=
  let l := s.changesOf k t
  !l.isEmpty && (s.runs (s.partOf k) va n).any (fun r => match r.1 with
    | some a => l.any (fun x => overlaps x.1 x.2 a r.2.2)
    | none => false)

/-- A write of bytes at a virtual address by core k for its thread t, with everything that follows from it. -/
def State.write (s : State) (k t va : Nat) (l : List Byte) : State :=
  let p := s.partOf k
  (((s.vwr p va l).taintQueues p va l.length).signWrite k t va l).noteChangeV p (s.core k).job va l.length

/-! ### Unordered accesses (R107, log 16) -/

/-- Whether a range of device bytes meets an unordered write of another thread, or one that a DMA of the thread itself may
yet make: of the DMA's writes, any moment from its issue to the return of the DMA.WAIT that names it (R213). -/
def State.raced (s : State) (g a n : Nat) : Bool :=
  s.dirty.any (fun d => (d.2.2.1 != g || d.2.2.2 != 0) && overlaps d.1 d.2.1 a n)

/-- Whether a virtual range meets such a write. -/
def State.vraced (s : State) (k t va n : Nat) : Bool :=
  (s.runs (s.partOf k) va n).any (fun r => match r.1 with
    | some a => s.raced (gid k t) a r.2.2
    | none => false)

/-- Whether a virtual range that an operation or entry of thread t reads meets an unordered write of another thread. -/
def State.vraced2 (s : State) (k t va n : Nat) : Bool :=
  (s.runs (s.partOf k) va n).any (fun r => match r.1 with
    | some a => s.dirty.any (fun d => d.2.2.1 != gid k t && overlaps d.1 d.2.1 a r.2.2)
    | none => false)

/-- Bytes that an undefined case of R107 leaves open. -/
def freeBytes (ctr from_ n : Nat) : List Byte := (upTo n).map (fun i => Config.freeByte ctr (from_ + i))

/-- The bytes that a thread's write leaves: free ones when an unordered write meets it (R107). -/
def State.settle (s : State) (k t va : Nat) (l : List Byte) : List Byte × State :=
  if s.vraced k t va l.length then (freeBytes (s.freeAt (s.partOf k)) 0 l.length, s.freshP (s.partOf k) 1) else (l, s)

/-- The bytes that an operation of the engine or an entry of the queue writes for thread t (R107). -/
def State.settle2 (s : State) (k t va : Nat) (l : List Byte) : List Byte × State :=
  if s.vraced2 k t va l.length then (freeBytes (s.freeAt (s.partOf k)) 0 l.length, s.freshP (s.partOf k) 1) else (l, s)

/-- The bytes that a thread's load or atomic reads: open where an unordered write meets them, or where they have changed under the
thread's work (R107). -/
def State.settleRead (s : State) (k t va : Nat) (l : List Byte) : List Byte × State :=
  if s.vraced k t va l.length || s.vchanged k t va l.length then
    (freeBytes (s.freeAt (s.partOf k)) 0 l.length, s.freshP (s.partOf k) 1) else (l, s)

/-- Whether what an operation or entry of thread t reads in a virtual range is open (R107). -/
def State.openRead (s : State) (k t va n : Nat) : Bool := s.vraced2 k t va n || s.vchanged k t va n

/-- The bytes that an operation or an entry of thread t reads (R107). -/
def State.settleRead2 (s : State) (k t va : Nat) (l : List Byte) : List Byte × State :=
  if s.openRead k t va l.length then (freeBytes (s.freeAt (s.partOf k)) 0 l.length, s.freshP (s.partOf k) 1) else (l, s)

/-- A range kept as written and unordered by thread t: src 0 for a store or a queue entry, else 1 + the DMA's serial. -/
def State.markSrc (s : State) (k t va n src : Nat) : State :=
  let new := (s.runs (s.partOf k) va n).filterMap (fun r => r.1.map (fun a => (a, r.2.2, gid k t, src)))
  { s with dirty := s.dirty ++ new.filter (fun x => !s.dirty.contains x) }

/-- The range of a thread's write kept as unordered until the thread fences, waits at a barrier, frees a slot or ends. -/
def State.markDirty (s : State) (k t va n : Nat) : State := s.markSrc k t va n 0

/-- The thread's earlier writes are performed and ordered (FENCE, R205); those of a DMA that no DMA.WAIT has named stay
unordered (R213). -/
def State.order (s : State) (k t : Nat) : State :=
  { s with dirty := s.dirty.filter (fun d => d.2.2.1 != gid k t || d.2.2.2 != 0) }

/-- The writes of a DMA whose DMA.WAIT returns count as performed: from now on the thread's next FENCE or BAR orders them
(R213). -/
def State.waited (s : State) (k t serial : Nat) : State :=
  { s with dirty := s.dirty.map (fun d => if d.2.2.1 = gid k t ∧ d.2.2.2 = serial + 1 then (d.1, d.2.1, d.2.2.1, 0) else d) }

/-- Every write of a thread that has ended is ordered (R286). -/
def State.orderAll (s : State) (k t : Nat) : State := { s with dirty := s.dirty.filter (fun d => d.2.2.1 != gid k t) }

/-- A write of bytes at a virtual address by an entry of core k's array queue that thread t issued: a write of that thread
(R107). -/
def State.writeQ (s : State) (k t va : Nat) (l : List Byte) : State :=
  let r := s.settle2 k t va l
  (((r.2.vwr (s.partOf k) va r.1).signWrite k t va r.1).noteChangeV (s.partOf k) (s.core k).job va l.length).markDirty k t va l.length

/-- A write of the part itself for a partition, page by page: a completion record, a checkpoint, an undefined output. Bytes whose
page is unmapped, sealed, reserved for S-level code or outside the partition are not written (R79, R86, R95), nor are those that
cover an error unit only in part (R449, R452); those of a page in motion wait until it is still (R104, log 79). -/
def State.putPart (s : State) (p va : Nat) (l : List Byte) : State :=
  (pagesOf va l.length).foldl (fun s a =>
    let x := (l.drop (a - va)).take (65536 - a % 65536)
    let e := s.pte p (a / 65536)
    if inSRange a 1 || !pteV e || pteRo e then s
    else if pteMv e then s.updPart p (fun y => { y with late := y.late ++ [(BitVec.ofNat 64 a, x)] })
    else if s.vbadPart p a x.length then s
    else ((s.noteOutside p a).vwr p a x).taintQueues p a x.length) s

/-- The writes of the part that waited for a page which is in motion no longer are made (R104). -/
def State.flushLate (s : State) (p : Nat) : State :=
  let l := (s.part p).late
  if l.isEmpty then s
  else l.foldl (fun s x => s.putPart p x.1.toNat x.2) (s.updPart p (fun y => { y with late := [] }))

/-- Outputs of a command that completes ABANDONED: undefined bytes (R107). -/
def State.freeOutputs (s : State) (p : Nat) (l : List (Nat × Nat)) : State :=
  l.foldl (fun s r => (s.putPart p r.1 (freeBytes (s.freeAt p) 0 r.2)).freshP p 1) s

/-! ### Fences of failed units -/

/-- A request of a core that was in flight when its fence closed reaches nothing (R807). -/
def State.fenceDrop (s : State) (k : Nat) : State :=
  match (s.cl (keyCl k)).stale.find (keyCore k) with
  | none => s
  | some x =>
    (s.updCl (keyCl k) (fun y => { y with
      stale := if x.2 ≤ 1 then y.stale.erase (keyCore k) else y.stale.put (keyCore k) (x.1, x.2 - 1) })).dropStale
      (keyCl k) (keyCore k) x.1 1

/-- Whether a physical core is fenced: quarantined or retired (R793, R804). -/
def State.fencedCore (s : State) (k : Nat) : Bool := decide (((s.cl (keyCl k)).pstate.get 0#2 (keyCore k)).toNat ≥ 2)

/-! ### Thread accesses -/

/-- The precise fault of a thread's access: PRIV, ALIGN, then the translation faults (R926). -/
def State.accessFault (s : State) (k va n align : Nat) (write : Bool) : Option (Nat × Nat) :=
  if inSRange va n then some (fcPriv, va)
  else if va % align ≠ 0 then some (fcAlign, va)
  else s.rangeFault k [{ va := va, len := n, reach := .ownStores, write := write }]

/-- A thread waits for a page whose MV bit is set; each cycle of the wait counts as PAGE_WAIT (R104, R445). -/
def State.waitPage (s : State) (k t va : Nat) : State :=
  s.updThr k t (fun x => { x with st := .waitMem, wait := .page (va / 65536) })

/-- The tier that a thread's access reaches. -/
def State.tierAt (s : State) (k va : Nat) : Nat := match s.va? (s.partOf k) va with
  | some a => tierOf a
  | none => 2

/-- The nominal latency of a read of a store by a core, in cycles (R203). -/
def storeLat (tier : Nat) : Nat := if tier = 0 then 6 else 40

/-- A load of n bytes (R191, R53): the thread waits in WAIT_MEM for LOAD_RETURN. -/
def loadSem (mask align : Nat) (w : W64) (ld : Thread → PendLoad) (h : Hart) (s : State) : Res :=
  let k := h.key
  let t := h.thr.val
  let l := ld (s.thr k t)
  let va := l.va.toNat
  if unusedSet w mask then .fault fcIllegal 0
  else match s.accessFault k va l.bytes align false with
    | some f => .fault f.1 f.2
    | none =>
      if s.mvRange k va l.bytes then .block (s.waitPage k t va)
      else
        .done ((s.updThr k t (fun x => { x with
            st := .waitMem, wait := .load
            load := some { l with due := s.clCycle (keyCl k) + storeLat (s.tierAt k va) } })).count k
          (byteCnt (s.tierAt k va) false) l.bytes)

/-- A store of a list of bytes (R192): performed at issue, in program order (R194). A word that it covers only in part is read, and
may hold an error not yet found (R447, R449). -/
def storeSem (w : W64) (mask align : Nat) (at_ : Thread → Nat) (val : Thread → List Byte) (e : MemErr) (h : Hart)
    (s : State) : Res :=
  let k := h.key
  let t := h.thr.val
  let va := at_ (s.thr k t)
  let l := val (s.thr k t)
  if unusedSet w mask then .fault fcIllegal 0
  else match s.accessFault k va l.length align true with
    | some f => .fault f.1 f.2
    | none =>
      if s.mvRange k va l.length then .block (s.waitPage k t va)
      else
        let s := s.meetV k (s.edges (s.partOf k) va l.length) e
        if s.vbadPart (s.partOf k) va l.length then .faultAt s fcUe va
        else
          let r := s.settle k t va l
          .done (((r.2.write k t va r.1).markDirty k t va l.length).count k (byteCnt (s.tierAt k va) true) l.length)

/-- An atomic on the aligned 64-bit word at register A (R210, R211): D takes the old value, which is open where another thread
writes the word by no atomic, with nothing to order it (R107). The word read may hold an error not yet found (R447). -/
def atomicSem (w : W64) (mask : Nat) (f : W64 → W64 → W64 → Option W64) (e : MemErr) (h : Hart) (s : State) : Res :=
  let k := h.key
  let t := h.thr.val
  let th := s.thr k t
  let va := (th.g (fA w)).toNat
  if unusedSet w mask then .fault fcIllegal 0
  else match s.accessFault k va 8 8 true with
    | some x => .fault x.1 x.2
    | none =>
      if s.mvRange k va 8 then .block (s.waitPage k t va)
      else
        let s := s.meetV k [(va, 8)] e
        if s.vbad (s.partOf k) va 8 then .faultAt s fcUe va
        else
          let r := s.settleRead k t va (s.vrdN (s.partOf k) va 8)
          let old := BitVec.ofNat 64 (leVal r.1)
          let s := r.2
          let s1 := match f old (th.g (fB w)) (th.g (fC w)) with
            | some v => s.write k t va (leBytes 8 v.toNat)
            | none => s
          .done (((s1.updThr k t (fun x => x.setG (fD w) old)).count k (byteCnt (s.tierAt k va) false) 8).count k
            (byteCnt (s.tierAt k va) true) 8)

end Sys2Proof.Machine
end

