-- ==== Sys2Proof/Machine/Vector.lean ====
section
/-! DEFINITION. The vector instructions and the vector conversions (R180 to R183, R214 to R222, Table ISA-6). -/
namespace Sys2Proof.Machine

/-- Whether the vector register fields hold registers v0 to v15 (R186). -/
def vOk (l : List Nat) : Bool := l.all (fun r => decide (r < 16))

/-- A vector instruction: encoding checks, then its effect on the thread, counted under EWP_OPS and VFN_OPS (R925). -/
def vecSem (mask : Nat) (legal : Bool) (ops vfn : Nat) (f : Thread → Thread) (w : W64) (h : Hart) (s : State) : Res :=
  if unusedSet w mask || !legal then .fault fcIllegal 0
  else .done (((s.updThr h.key h.thr.val f).count h.key 0x1A ops).count h.key 0x1B vfn)

/-- The meaning of a vector row: vector registers read or written, then the effect. -/
def vecRow (op mask : Nat) (vregs : List Nat) (legal : Bool) (ops vfn : Nat) (f : Thread → Thread)
    (a : Agent) (w : W64) (s : State) : Out :=
  issueMeaning op a w s vregs [] (vecSem mask (vOk vregs && legal) ops vfn f w) noCtl

/-- A lane-wise instruction of one to three vector sources: results, and the sticky bits they set. -/
def laneOp (d : Nat) (f : Nat → W32) (fl : Nat → BitVec 8) (t : Thread) : Thread :=
  (t.setV d (ofLanes f)).stick (orFlags fl)

/-- A two-source arithmetic instruction, FP32 or INT32 by X[0]. -/
def arith2 (ff fi : W32 → W32 → W32) (w : W64) (t : Thread) : Thread :=
  let a := t.v (fA w)
  let b := t.v (fB w)
  if xBit w 0 then laneOp (fD w) (fun i => fi (lane a i) (lane b i)) (fun _ => 0#8) t
  else laneOp (fD w) (fun i => ff (lane a i) (lane b i))
    (fun i => f32Flags [lane a i, lane b i] (ff (lane a i) (lane b i))) t

/-- Masks of the vector forms. -/
def mV3 : Nat := mO + mD + mA + mB
/-- Signed minimum of INT32 lanes. -/
def minI (a b : W32) : W32 := if b.slt a then b else a
/-- Signed maximum of INT32 lanes. -/
def maxI (a b : W32) : W32 := if a.slt b then b else a

/-- The meaning of a two-source arithmetic row. -/
def arithRow (op : Nat) (ff fi : W32 → W32 → W32) (a : Agent) (w : W64) (s : State) : Out :=
  vecRow op (mV3 + mX0) [fD w, fA w, fB w] true 64 0 (arith2 ff fi w) a w s

/-- VADD. -/
def execVadd (a : Agent) (w : W64) (s : State) : Out := arithRow 0x50 addW (fun x y => x + y) a w s
/-- VSUB. -/
def execVsub (a : Agent) (w : W64) (s : State) : Out := arithRow 0x51 subW (fun x y => x - y) a w s
/-- VMUL; INT32 keeps the low 32 bits. -/
def execVmul (a : Agent) (w : W64) (s : State) : Out := arithRow 0x52 mulW (fun x y => x * y) a w s
/-- VMIN (R216). -/
def execVmin (a : Agent) (w : W64) (s : State) : Out := arithRow 0x54 minW minI a w s
/-- VMAX (R216). -/
def execVmax (a : Agent) (w : W64) (s : State) : Out := arithRow 0x55 maxW maxI a w s

/-- VFMA: A × B + C, one rounding for FP32. -/
def vfmaT (w : W64) (t : Thread) : Thread :=
  let a := t.v (fA w)
  let b := t.v (fB w)
  let c := t.v (fC w)
  if xBit w 0 then laneOp (fD w) (fun i => lane a i * lane b i + lane c i) (fun _ => 0#8) t
  else laneOp (fD w) (fun i => fmaW (lane a i) (lane b i) (lane c i))
    (fun i => f32Flags [lane a i, lane b i, lane c i] (fmaW (lane a i) (lane b i) (lane c i))) t

/-- VFMA. -/
def execVfma (a : Agent) (w : W64) (s : State) : Out :=
  vecRow 0x53 (mV3 + mC + mX0) [fD w, fA w, fB w, fC w] true 64 0 (vfmaT w) a w s

/-- The condition of VCMP on one pair of lanes (R216, R217). -/
def cmpLane (int : Bool) (cond : Nat) (a b : W32) : Bool :=
  if int then
    match cond with
    | 0 => a == b
    | 1 => a.slt b
    | 2 => !b.slt a
    | _ => a != b
  else
    let x := fp a
    let y := fp b
    match cond with
    | 0 => Fp.eqv x y
    | 1 => Fp.lt x y
    | 2 => Fp.lt x y || Fp.eqv x y
    | _ => !Fp.eqv x y

/-- All ones for true. -/
def maskW (b : Bool) : W32 := if b then 0xFFFFFFFF#32 else 0#32

/-- VCMP; X[2:1] selects EQ, LT, LE or NE. -/
def execVcmp (a : Agent) (w : W64) (s : State) : Out :=
  vecRow 0x56 (mV3 + mX0 + mX12) [fD w, fA w, fB w] true 64 0
    (fun t => laneOp (fD w) (fun i => maskW (cmpLane (xBit w 0) (fX w / 2 % 4) (lane (t.v (fA w)) i) (lane (t.v (fB w)) i)))
      (fun _ => 0#8) t) a w s
/-- VSEL: A where lane C is nonzero, else B. -/
def execVsel (a : Agent) (w : W64) (s : State) : Out :=
  vecRow 0x57 (mV3 + mC) [fD w, fA w, fB w, fC w] true 64 0
    (fun t => laneOp (fD w) (fun i => if lane (t.v (fC w)) i ≠ 0#32 then lane (t.v (fA w)) i else lane (t.v (fB w)) i)
      (fun _ => 0#8) t) a w s
/-- VAND. -/
def execVand (a : Agent) (w : W64) (s : State) : Out :=
  vecRow 0x58 mV3 [fD w, fA w, fB w] true 64 0 (fun t => t.setV (fD w) (t.v (fA w) &&& t.v (fB w))) a w s
/-- VOR. -/
def execVor (a : Agent) (w : W64) (s : State) : Out :=
  vecRow 0x59 mV3 [fD w, fA w, fB w] true 64 0 (fun t => t.setV (fD w) (t.v (fA w) ||| t.v (fB w))) a w s
/-- VXOR. -/
def execVxor (a : Agent) (w : W64) (s : State) : Out :=
  vecRow 0x5A mV3 [fD w, fA w, fB w] true 64 0 (fun t => t.setV (fD w) (t.v (fA w) ^^^ t.v (fB w))) a w s

/-- A lane shifted by the count and kind of VSH. -/
def shLane (kind n : Nat) (x : W32) : W32 :=
  match kind with
  | 0 => x <<< n
  | 1 => x >>> n
  | _ => x.sshiftRight n

/-- VSH: count in IMM[4:0], kind in X[2:1]; kind 3 is not listed. -/
def execVsh (a : Agent) (w : W64) (s : State) : Out :=
  vecRow 0x5B (mO + mD + mA + mX12 + mIn 5) [fD w, fA w] (fX w / 2 % 4 != 3) 64 0
    (fun t => laneOp (fD w) (fun i => shLane (fX w / 2 % 4) (fImm w % 32) (lane (t.v (fA w)) i)) (fun _ => 0#8) t) a w s
/-- VBCAST: the low 32 bits of gA in every lane. -/
def execVbcast (a : Agent) (w : W64) (s : State) : Out :=
  vecRow 0x5C (mO + mD + mA) [fD w] true 64 0
    (fun t => t.setV (fD w) (ofLanes (fun _ => (t.g (fA w)).setWidth 32))) a w s
/-- VGET: a lane into gD, zero- or sign-extended. -/
def execVget (a : Agent) (w : W64) (s : State) : Out :=
  vecRow 0x5D (mO + mD + mA + mX0 + mIn 6) [fA w] true 1 0
    (fun t => let x := lane (t.v (fA w)) (fImm w % 64)
      t.setG (fD w) (if xBit w 0 then x.signExtend 64 else x.setWidth 64)) a w s
/-- VPUT: the named lane takes the low 32 bits of gA. -/
def execVput (a : Agent) (w : W64) (s : State) : Out :=
  vecRow 0x5E (mO + mD + mA + mIn 6) [fD w] true 1 0
    (fun t => t.setV (fD w) (ofLanes (fun i =>
      if i = fImm w % 64 then (t.g (fA w)).setWidth 32 else lane (t.v (fD w)) i))) a w s

/-- Loads and stores of whole vector registers and of their first bytes (R193: no alignment). -/
def vldLoad (w : W64) (t : Thread) : PendLoad :=
  { PendLoad.init with reg := BitVec.ofNat 5 (fD w), vec := true, bytes := 256, sext := false, va := BitVec.ofNat 64 (addrOf (t.g (fA w)) w) }
/-- The load of VLDB: min(gC, 256) bytes. -/
def vldbLoad (w : W64) (t : Thread) : PendLoad :=
  { PendLoad.init with reg := BitVec.ofNat 5 (fD w), vec := true, bytes := min (t.g (fC w)).toNat 256, sext := false, va := t.g (fA w) }

/-- The meaning of a vector load. -/
def vloadRow (op mask : Nat) (ld : W64 → Thread → PendLoad) (a : Agent) (w : W64) (s : State) : Out :=
  let touch := match a with
    | .thread h => let l := ld w (s.thr h.key h.thr.val); [(1, l.va.toNat, l.bytes)]
    | _ => []
  issueMeaning op a w s [fD w] touch
    (fun h s => if !vOk [fD w] then .fault fcIllegal 0 else loadSem mask 1 w (ld w) h s) noCtl

/-- The meaning of a vector store. -/
def vstoreRow (op mask : Nat) (at_ : Thread → Nat) (val : Thread → List Byte) (a : Agent) (w : W64) (e : MemErr) (s : State) : Out :=
  let touch := match a with
    | .thread h => [(2, at_ (s.thr h.key h.thr.val), (val (s.thr h.key h.thr.val)).length)]
    | _ => []
  issueMeaning op a w s [fB w] touch
    (fun h s => if !vOk [fB w] then .fault fcIllegal 0 else storeSem w mask 1 at_ val e h s) noCtl

/-- VLD: 256 bytes from gA + sext(IMM). -/
def execVld (a : Agent) (w : W64) (s : State) : Out := vloadRow 0x60 (mO + mD + mA + mI) vldLoad a w s
/-- VST: 256 bytes to gA + sext(IMM). -/
def execVst (a : Agent) (w : W64) (e : MemErr) (s : State) : Out :=
  vstoreRow 0x61 (mO + mB + mA + mI) (fun t => addrOf (t.g (fA w)) w) (fun t => vregBytes (t.v (fB w))) a w e s
/-- VLDB. -/
def execVldb (a : Agent) (w : W64) (s : State) : Out := vloadRow 0x62 (mO + mD + mA + mC) vldbLoad a w s
/-- VSTB: the first min(gC, 256) bytes. -/
def execVstb (a : Agent) (w : W64) (e : MemErr) (s : State) : Out :=
  vstoreRow 0x63 (mO + mB + mA + mC) (fun t => (t.g (fA w)).toNat)
    (fun t => (vregBytes (t.v (fB w))).take (min (t.g (fC w)).toNat 256)) a w e s

/-- The 64 lanes of a register. -/
def lanes (v : VReg) : List W32 := (upTo 64).map (lane v)

/-- A reduction: lane 0 takes the result, the other lanes 0. -/
def reduceT (w : W64) (ff fi : List W32 → W32) (t : Thread) : Thread :=
  let l := lanes (t.v (fA w))
  if xBit w 0 then t.setV (fD w) (ofLanes (fun i => if i = 0 then fi l else 0#32))
  else (t.setV (fD w) (ofLanes (fun i => if i = 0 then ff l else 0#32))).stick (f32Flags l (ff l))

/-- The FP32 sum of VRSUM: the pairwise tree of R132 over the lanes (R218). -/
def rsumF (l : List W32) : W32 := roundFp32 (treeSum 6 (l.map fp))

/-- The meaning of a reduction row. -/
def reduceRow (op : Nat) (ff fi : List W32 → W32) (a : Agent) (w : W64) (s : State) : Out :=
  vecRow op (mO + mD + mA + mX0) [fD w, fA w] true 64 0 (reduceT w ff fi) a w s

/-- VRSUM. -/
def execVrsum (a : Agent) (w : W64) (s : State) : Out := reduceRow 0x64 rsumF (fun l => l.foldl (fun x y => x + y) 0#32) a w s
/-- VRMAX. -/
def execVrmax (a : Agent) (w : W64) (s : State) : Out :=
  reduceRow 0x65 (fun l => l.foldl maxW 0xFF800000#32) (fun l => l.foldl maxI 0x80000000#32) a w s
/-- VRMIN. -/
def execVrmin (a : Agent) (w : W64) (s : State) : Out :=
  reduceRow 0x66 (fun l => l.foldl minW 0x7F800000#32) (fun l => l.foldl minI 0x7FFFFFFF#32) a w s

/-- VPERM: vA lane (lane i of vB mod 64). -/
def execVperm (a : Agent) (w : W64) (s : State) : Out :=
  vecRow 0x67 mV3 [fD w, fA w, fB w] true 64 0
    (fun t => t.setV (fD w) (ofLanes (fun i => lane (t.v (fA w)) ((lane (t.v (fB w)) i).toNat % 64)))) a w s

/-- Whether IMM is a packing width. -/
def packW (n : Nat) : Bool := n == 4 || n == 8 || n == 16

/-- VPACK: the low n bits of lane i to bits [n(i + 1) − 1 : ni]. -/
def execVpack (a : Agent) (w : W64) (s : State) : Out :=
  let n := fImm w
  vecRow 0x68 (mO + mD + mA + mI) [fD w, fA w] (packW n) 64 0
    (fun t => t.setV (fD w) (BitVec.ofNat 2048 ((upTo 64).foldl
      (fun acc i => acc + ((lane (t.v (fA w)) i).toNat % 2 ^ n) <<< (n * i)) 0))) a w s
/-- VUNPK: bits [n(i + 1) − 1 : ni] of vA, zero- or sign-extended. -/
def execVunpk (a : Agent) (w : W64) (s : State) : Out :=
  let n := fImm w
  vecRow 0x69 (mO + mD + mA + mX0 + mI) [fD w, fA w] (packW n) 64 0
    (fun t => t.setV (fD w) (ofLanes (fun i =>
      let u := bitsAt (t.v (fA w)).toNat (n * i) n
      if xBit w 0 then BitVec.ofInt 32 (sextN n u) else BitVec.ofNat 32 u))) a w s

/-- VFN: the reference function of IMM[3:0] (R219). -/
def execVfn (a : Agent) (w : W64) (s : State) : Out :=
  let c := fImm w % 16
  vecRow 0x70 (mO + mD + mA + mIn 4) [fD w, fA w] (decide (c ≤ 9)) 64 64
    (fun t => laneOp (fD w) (fun i => refFn c (lane (t.v (fA w)) i))
      (fun i => f32Flags [lane (t.v (fA w)) i] (refFn c (lane (t.v (fA w)) i))) t) a w s

/-- VCVT of one lane: into the format, or out of it (R220). -/
def cvtLane (fmt : Nat) (widen : Bool) (x : W32) : W32 :=
  if widen then roundFp32 (decodeFp (layOf fmt) (x.toNat % 2 ^ (layOf fmt).width))
  else BitVec.ofNat 32 (convFp fmt (fp x)).1
/-- The sticky bits of one lane of VCVT. -/
def cvtFlags (fmt : Nat) (widen : Bool) (x : W32) : BitVec 8 :=
  if widen then
    let i := decodeFp (layOf fmt) (x.toNat % 2 ^ (layOf fmt).width)
    laneFlags i.isNan i.isInf i.isNan i.isInf false
  else
    let r := convFp fmt (fp x)
    let o := decodeFp (layOf fmt) r.1
    laneFlags (isNanW x) (isInfW x) o.isNan o.isInf r.2

/-- VCVT. -/
def execVcvt (a : Agent) (w : W64) (s : State) : Out :=
  let f := fImm w % 16
  vecRow 0x71 (mO + mD + mA + mX0 + mIn 4) [fD w, fA w] (decide (1 ≤ f) && decide (f ≤ 4)) 64 0
    (fun t => laneOp (fD w) (fun i => cvtLane f (xBit w 0) (lane (t.v (fA w)) i))
      (fun i => cvtFlags f (xBit w 0) (lane (t.v (fA w)) i)) t) a w s

/-- int_round of a value plus an exact integer, converted into n bits: NaN gives 0, an infinity saturates (R122, R180). -/
def roundAddConv (n : Nat) (x : Fp) (z : Int) : Int × Bool :=
  match x with
  | .fin s m e => satN n ((Fp.toInt (.fin s m e)).getD 0 + z)
  | y => convInt n y

/-- QCVT of one lane (R180). -/
def qcvtLane (n : Nat) (invS : W32) (z : Int) (x : W32) : Int × Bool :=
  roundAddConv n (rnd ((fp x).mul (fp invS))) z

/-- QCVT: gB[31:0] is inv_s and gC is z, a signed 64-bit integer. -/
def execQcvt (a : Agent) (w : W64) (s : State) : Out :=
  let f := fImm w % 16
  vecRow 0x72 (mO + mD + mA + mB + mC + mIn 4) [fD w, fA w] (decide (7 ≤ f) && decide (f ≤ 9)) 64 0
    (fun t =>
      let r (i : Nat) := qcvtLane (intWidth f) ((t.g (fB w)).setWidth 32) (t.g (fC w)).toInt (lane (t.v (fA w)) i)
      laneOp (fD w) (fun i => BitVec.ofInt 32 (r i).1) (fun i => if (r i).2 then bVSAT else 0#8) t) a w s

/-- DQCVT of one lane (R181). -/
def dqcvtLane (sc : W32) (z : Int) (x : W32) : W32 := roundFp32 ((Fp.ofInt (x.toInt - z)).mul (fp sc))

/-- DQCVT: gB[31:0] is s and gC is z. -/
def execDqcvt (a : Agent) (w : W64) (s : State) : Out :=
  vecRow 0x73 (mO + mD + mA + mB + mC) [fD w, fA w] true 64 0
    (fun t =>
      let sc : W32 := (t.g (fB w)).setWidth 32
      let r (i : Nat) := dqcvtLane sc (t.g (fC w)).toInt (lane (t.v (fA w)) i)
      laneOp (fD w) r (fun i => f32Flags [sc] (r i)) t) a w s

/-- floor(log2) of a finite nonzero value. -/
def floorLog2 : Fp → Int
  | .fin _ m e => (Nat.log2 m : Int) + e
  | _ => 0

/-- The block scale of MXQ over 32 values (R182). -/
def mxScale (l : List Fp) : Nat :=
  if l.any Fp.isNan then 0xFF
  else
    let fs := l.filter (fun x => !x.isInf && !x.isZero)
    match fs with
    | [] => 127
    | x :: t => (max 0 ((t.foldl (fun m y => max m (floorLog2 y)) (floorLog2 x)) - 2 + 127)).toNat

/-- One element of MXQ under a block scale (R183): encoding and saturation. -/
def mxElem (fmt scale : Nat) (x : Fp) : Nat × Bool :=
  if scale = 0xFF then (0, false)
  else match x with
    | .fin s m e => convFp fmt (.fin s m (e - ((scale : Int) - 127)))
    | y => convFp fmt y

/-- The packing of one row of elements (Table FMT-3): 6-bit elements in groups of four in 24 bits, 4-bit in bytes. -/
def packElems (width : Nat) (l : List Nat) : Nat :=
  (l.foldr (fun x acc => x + 2 ^ width * acc) 0)

/-- MXQ: blocks of lanes 0-31 and 32-63; elements packed from byte 0 of vD, scales into gC (R221). -/
def mxqT (w : W64) (t : Thread) : Thread :=
  let f := fImm w % 16
  let l := (lanes (t.v (fA w))).map fp
  let s0 := mxScale (l.take 32)
  let s1 := mxScale (l.drop 32)
  let es := (l.take 32).map (mxElem f s0) ++ (l.drop 32).map (mxElem f s1)
  let packed := packElems (if f = 5 then 6 else 4) (es.map (fun e => e.1))
  (((t.setV (fD w) (BitVec.ofNat 2048 packed)).setG (fC w) (BitVec.ofNat 64 (s0 + 256 * s1)))).stick
    (if es.any (fun e => e.2) then bVSAT else 0#8)

/-- MXQ. -/
def execMxq (a : Agent) (w : W64) (s : State) : Out :=
  let f := fImm w % 16
  vecRow 0x74 (mO + mD + mA + mC + mIn 4) [fD w, fA w] (f == 5 || f == 6) 64 0 (mxqT w) a w s

end Sys2Proof.Machine
end

