-- ==== Sys2Proof/Machine/Detect.lean ====
section
/-! DEFINITION. Pooling, box decoding, box clipping, and the computation of NMS (R412 to R421). -/
namespace Sys2Proof.Machine

/-- WIN_DESC. -/
def fcWin : Nat := 0x30

/-! ### Reads of a vector instruction from the own core store -/

/-- Rows read at issue by a vector instruction of class 0xB: encoding, PRIV, ALIGN, translation, then the page wait and
the uncorrectable error; bytes that another thread's unordered write meets are free (R88, R104, R107, R223). -/
def rowsSem (ill : Bool) (aligned : List Nat) (rs : List (Nat × Nat)) (h : Hart) (s : State)
    (f : List (List Byte) → State → State) : Res :=
  let k := h.key
  let t := h.thr.val
  if ill then .fault fcIllegal 0
  else match rs.find? (fun r => inSRange r.1 r.2) with
    | some r => .fault fcPriv r.1
    | none => match aligned.find? (fun a => a % 8 != 0) with
      | some a => .fault fcAlign a
      | none => match s.rangeFault k (rs.map (fun r => { va := r.1, len := r.2, reach := .ownCore, write := false })) with
        | some x => .fault x.1 x.2
        | none => match rs.find? (fun r => s.mvRange k r.1 r.2) with
          | some r => .block (s.waitPage k t r.1)
          | none => match rs.find? (fun r => s.vbad (s.partOf k) r.1 r.2) with
            | some r => .fault fcUe r.1
            | none =>
              let x := rs.foldl (fun acc r =>
                let y := acc.2.settleRead k t r.1 (acc.2.vrdN (acc.2.partOf k) r.1 r.2)
                (acc.1 ++ [y.1], y.2.count k (byteCnt 0 false) r.2)) (([] : List (List Byte)), s)
              .done (f x.1 x.2)

/-- A NaN made canonical (R117). -/
def canonNan (x : W32) : W32 := if isNanW x then 0x7FC00000#32 else x

/-! ### POOL -/

/-- Lane i of a pooled row (R412). -/
def poolLane (bf16 : Bool) (row : List Byte) (i : Nat) : W32 :=
  if bf16 then ofBf16 (recN row (2 * i) 2) else BitVec.ofNat 32 (recN row (4 * i) 4)

/-- The result of POOL on one lane: maximum, average or sum (R412). -/
def poolOp (op : Nat) (c : W32) (l : List W32) : W32 :=
  match op with
  | 0 => canonNan (l.foldl maxW (l.headD 0#32))
  | 1 => mulW (canonValue 8 l) c
  | _ => canonNan (canonValue 8 l)

/-- POOL's effect on the thread. -/
def poolT (w : W64) (rows : List (List Byte)) (t : Thread) : Thread :=
  let op := fX w / 2 % 4
  let c := (t.g (fC w)).setWidth 32
  let col (i : Nat) : List W32 := rows.map (fun r => poolLane (xBit w 0) r i)
  laneOp (fD w) (fun i => poolOp op c (col i))
    (fun i => f32Flags (if op = 1 then col i ++ [c] else col i) (poolOp op c (col i))) t

/-- POOL at issue (R412, R413). -/
def poolSem (w : W64) (h : Hart) (s : State) : Res :=
  let th := s.thr h.key h.thr.val
  let n := fImm w % 256 + 1
  let a := (th.g (fA w)).toNat
  let b := (th.g (fB w)).toNat
  rowsSem (unusedSet w (mO + mD + mA + mB + mC + mX0 + mX12 + mIn 8) || !vOk [fD w] || fX w / 2 % 4 == 3) [a, b]
    ((upTo n).map (fun j => ((a + j * b) % 2 ^ 64, if xBit w 0 then 128 else 256))) h s
    (fun rows s => (s.updThr h.key h.thr.val (poolT w rows)).count h.key 0x1A (64 * n))

/-- The ranges that a vector instruction of class 0xB loads, for the breakpoints of KIND 1. -/
def rowsTouch (a : Agent) (s : State) (f : Thread → List (Nat × Nat)) : List (Nat × Nat × Nat) :=
  match a with
  | .thread h => (f (s.thr h.key h.thr.val)).map (fun r => (1, r.1, r.2))
  | _ => []

/-- POOL. -/
def execPool (a : Agent) (w : W64) (s : State) : Out :=
  issueMeaning 0xB8 a w s [fD w] (rowsTouch a s (fun t => (upTo (fImm w % 256 + 1)).map (fun j =>
    (((t.g (fA w)).toNat + j * (t.g (fB w)).toNat) % 2 ^ 64, if xBit w 0 then 128 else 256)))) (poolSem w) noCtl

/-! ### BOXDEC and BOXCLIP -/

/-- The corners of one box (R414): deltas, anchor, scales and clip. -/
def boxOf (corner : Bool) (dl an sc : Nat → W32) : List W32 :=
  if corner then
    [subW (an 0) (mulW (dl 0) (sc 0)), subW (an 1) (mulW (dl 1) (sc 1)),
     addW (an 0) (mulW (dl 2) (sc 2)), addW (an 1) (mulW (dl 3) (sc 3))]
  else
    let half : W32 := 0x3F000000#32
    let cx := addW (an 0) (mulW (mulW (dl 0) (sc 0)) (an 2))
    let cy := addW (an 1) (mulW (mulW (dl 1) (sc 1)) (an 3))
    let w := mulW (an 2) (roundFp32 (expF (fp (minW (mulW (dl 2) (sc 2)) (sc 4)))))
    let h := mulW (an 3) (roundFp32 (expF (fp (minW (mulW (dl 3) (sc 3)) (sc 4)))))
    [subW cx (mulW half w), subW cy (mulW half h), addW cx (mulW half w), addW cy (mulW half h)]

/-- BOXDEC's effect on the thread; rows hold the 64 anchors and the scales with the clip. -/
def boxdecT (w : W64) (rows : List (List Byte)) (t : Thread) : Thread :=
  let an := rows.getD 0 []
  let sc := rows.getD 1 []
  let dl (i q : Nat) : W32 := lane (t.v (fA w + q)) i
  let anc (i q : Nat) : W32 := BitVec.ofNat 32 (recN an (16 * i + 4 * q) 4)
  let scl (q : Nat) : W32 := BitVec.ofNat 32 (recN sc (4 * q) 4)
  let box (i : Nat) : List W32 := boxOf (xBit w 0) (dl i) (anc i) scl
  let ins (i : Nat) : List W32 := (upTo 4).map (dl i) ++ (upTo 4).map (anc i) ++ (upTo 5).map scl
  (upTo 4).foldl (fun x q => laneOp (fD w + q) (fun i => (box i).getD q 0#32)
    (fun i => f32Flags (ins i) ((box i).getD q 0#32)) x) t

/-- The four registers from a base. -/
def four (n : Nat) : List Nat := [n, n + 1, n + 2, n + 3]

/-- BOXDEC at issue (R414). -/
def boxdecSem (w : W64) (h : Hart) (s : State) : Res :=
  let th := s.thr h.key h.thr.val
  let b := (th.g (fB w)).toNat
  let c := (th.g (fC w)).toNat
  rowsSem (unusedSet w (mO + mD + mA + mB + mC + mX0) || fD w % 4 != 0 || fA w % 4 != 0 || !vOk (four (fD w) ++ four (fA w)))
    [b, c] [(b, 1024), (c, 20)] h s
    (fun rows s => ((s.updThr h.key h.thr.val (boxdecT w rows)).count h.key 0x1A 256).count h.key 0x1B 128)

/-- BOXDEC. -/
def execBoxdec (a : Agent) (w : W64) (s : State) : Out :=
  issueMeaning 0xB9 a w s (four (fD w) ++ four (fA w))
    (rowsTouch a s (fun t => [((t.g (fB w)).toNat, 1024), ((t.g (fC w)).toNat, 20)])) (boxdecSem w) noCtl

/-- One coordinate limited to 0 ≤ v ≤ m (R415). -/
def clipTo (m v : W32) : W32 := minW (maxW v 0#32) m

/-- BOXCLIP's effect on the thread. -/
def boxclipT (w : W64) (t : Thread) : Thread :=
  let lim (q : Nat) : W32 := (t.g (if q % 2 = 0 then fA w else fB w)).setWidth 32
  (upTo 4).foldl (fun x q =>
    let v := t.v (fD w + q)
    laneOp (fD w + q) (fun i => clipTo (lim q) (lane v i))
      (fun i => f32Flags [lane v i, lim q] (clipTo (lim q) (lane v i))) x) t

/-- BOXCLIP. -/
def execBoxclip (a : Agent) (w : W64) (s : State) : Out :=
  vecRow 0xBB (mO + mD + mA + mB) (four (fD w)) (fD w % 4 == 0) 256 0 (boxclipT w) a w s

/-! ### Non-maximum suppression -/

/-- N. -/
def nmN (d : List Byte) : Nat := recBits d 0 14
/-- KMAX. -/
def nmK (d : List Byte) : Nat := recBits d 16 14
/-- THR. -/
def nmThr (d : List Byte) : W32 := BitVec.ofNat 32 (recN d 8 4)
/-- SMIN. -/
def nmMin (d : List Byte) : W32 := BitVec.ofNat 32 (recN d 12 4)

/-- The checks of R420. -/
def nmsBad (d : List Byte) : Bool :=
  !recZero d 14 2 || !recZero d 30 34 || !recZero d 384 128 || nmN d == 0 || decide (nmN d > 8192) || nmK d == 0 ||
  decide (nmK d > 8192) || isNanW (nmThr d) || Fp.lt (fp (nmThr d)) Fp.zero || Fp.lt Fp.one (fp (nmThr d))

/-- The operand ranges of NMS: boxes, scores, kept indices, count. -/
def nmsRanges (d : List Byte) : List (Nat × Nat × Bool) :=
  [(recN d 16 8, 16 * nmN d, false), (recN d 24 8, 4 * nmN d, false), (recN d 32 8, 4 * min (nmN d) (nmK d), true),
   (recN d 40 8, 4, true)]

/-- A candidate placed behind those of at least its score (R417). -/
def placeCand (sc : Nat → W32) (i : Nat) : List Nat → List Nat
  | [] => [i]
  | j :: t => if Fp.lt (fp (sc j)) (fp (sc i)) then i :: j :: t else j :: placeCand sc i t

/-- The candidates that take part, in their order (R417). -/
def nmsOrder (sc : Nat → W32) (smin : W32) (n : Nat) : List Nat :=
  ((upTo n).filter (fun i => Fp.lt (fp smin) (fp (sc i)) || Fp.eqv (fp smin) (fp (sc i)))).foldl (fun l i => placeCand sc i l) []

/-- The area of a box (R418). -/
def boxArea (b : Nat → W32) : W32 :=
  mulW (maxW 0#32 (subW (b 2) (b 0))) (maxW 0#32 (subW (b 3) (b 1)))

/-- Whether box b suppresses box a (R418). -/
def suppresses (thr : W32) (a b : Nat → W32) : Bool :=
  let iw := maxW 0#32 (subW (minW (a 2) (b 2)) (maxW (a 0) (b 0)))
  let ih := maxW 0#32 (subW (minW (a 3) (b 3)) (maxW (a 1) (b 1)))
  let inter := mulW iw ih
  let union := subW (addW (boxArea a) (boxArea b)) inter
  Fp.lt (fp (mulW thr union)) (fp inter) && Fp.lt Fp.zero (fp union)

/-- The boxes kept, in order, at most kmax (R418). -/
def nmsKeep (thr : W32) (box : Nat → Nat → W32) (kmax : Nat) (l : List Nat) : List Nat :=
  l.foldl (fun kept i =>
    if kept.length ≥ kmax then kept
    else if kept.any (fun j => suppresses thr (box i) (box j)) then kept else kept ++ [i]) []

/-- The candidates that take part and the boxes kept, from the bytes of the boxes and of the scores. -/
def nmsRun (d boxes scores : List Byte) : List Nat × List Nat :=
  let sc (i : Nat) : W32 := BitVec.ofNat 32 (recN scores (4 * i) 4)
  let box (i q : Nat) : W32 := BitVec.ofNat 32 (recN boxes (16 * i + 4 * q) 4)
  let l := nmsOrder sc (nmMin d) (nmN d)
  (l, nmsKeep (nmThr d) box (nmK d) l)

end Sys2Proof.Machine
end

