-- ==== Sys2Proof/Machine/Expander.lean ====
section
/-! DEFINITION. The expander: exponent-coded blocks decoded to 2,048 BF16 values (R465 to R471, R474, R483). Bytes are
read through a function of the offset from block 0, which gives zero outside the read window (R471). -/
namespace Sys2Proof.Machine

/-- A code-table entry with a length from 1 to 12: length and symbol (R468, R469). -/
abbrev CodeEnt := Nat × Nat

/-- An entry placed after those of a smaller or equal (length, symbol): ties go to the lower entry number (R469). -/
def insertEnt (e : CodeEnt) : List CodeEnt → List CodeEnt
  | [] => [e]
  | x :: t => if e.1 < x.1 ∨ (e.1 = x.1 ∧ e.2 < x.2) then e :: x :: t else x :: insertEnt e t

/-- The entries in canonical order with their codes: length, symbol, code (R469). -/
def assignCodes : Nat → Nat → List CodeEnt → List (Nat × Nat × Nat)
  | _, _, [] => []
  | code, prev, e :: t =>
    let c := code * 2 ^ (e.1 - prev)
    (e.1, e.2, c) :: assignCodes (c + 1) e.1 t

/-- The canonical code of a block whose table starts at byte `at_` (R468, R469). -/
def codeOf (rd : Nat → Byte) (at_ n : Nat) : List (Nat × Nat × Nat) :=
  let ents := (upTo n).filterMap (fun j =>
    let len := (rd (at_ + 2 * j + 1)).toNat % 16
    if 1 ≤ len ∧ len ≤ 12 then some (len, (rd (at_ + 2 * j)).toNat) else none)
  let order := ents.foldl (fun l e => insertEnt e l) []
  assignCodes 0 ((order.map (fun e => e.1)).headD 0) order

/-- Twelve stream bits from bit pos, the first most significant; a bit at or beyond 8 × EBYTES reads as zero (R470, R471). -/
def streamBits (rd : Nat → Byte) (base ebytes pos : Nat) : Nat :=
  (upTo 12).foldl (fun a i =>
    let p := pos + i
    2 * a + (if p < 8 * ebytes then b2n (bitAt (rd (base + p / 8)).toNat (7 - p % 8)) else 0)) 0

/-- Exponent and length that a window of 12 bits decodes to: 0 and 12 when no entry matches (R470). -/
def matchCode (w : Nat) : List (Nat × Nat × Nat) → Nat × Nat
  | [] => (0, 12)
  | e :: t => if e.2.2 < 2 ^ e.1 ∧ w / 2 ^ (12 - e.1) = e.2.2 then (e.2.1, e.1) else matchCode w t

/-- The values of a coded block from value i on (R470). -/
def decodeVals (rd : Nat → Byte) (sm base ebytes : Nat) (code : List (Nat × Nat × Nat)) :
    Nat → Nat → Nat → List Byte
  | 0, _, _ => []
  | n + 1, i, pos =>
    let m := matchCode (streamBits rd base ebytes pos) code
    let b := (rd (sm + i)).toNat
    leBytes 2 (2 ^ 15 * (b / 128) + 128 * m.1 + b % 128) ++
      decodeVals rd sm base ebytes code n (i + 1) (pos + m.2)

/-- Size in bytes of the block at an offset, from its header (R466 to R468). -/
def blockSize (rd : Nat → Byte) (off : Nat) : Nat :=
  let h := leVal ((upTo 8).map (fun i => rd (off + i)))
  if bitAt h 0 then 2056 + 2 * (bitsAt h 8 9 + 1) + bitsAt h 24 12 else 4104

/-- The 4,096 bytes of values of the block at an offset (R467, R470). -/
def blockVals (rd : Nat → Byte) (off : Nat) : List Byte :=
  let h := leVal ((upTo 8).map (fun i => rd (off + i)))
  if bitAt h 0 then
    let n := bitsAt h 8 9 + 1
    decodeVals rd (off + 8) (off + 2056 + 2 * n) (bitsAt h 24 12) (codeOf rd (off + 2056) n) 2048 0 0
  else (upTo 4096).map (fun i => rd (off + 8 + i))

/-- The 8,192 bytes of a coded tile: block 1 starts where block 0 ends (R465). -/
def tileVals (rd : Nat → Byte) : List Byte := blockVals rd 0 ++ blockVals rd (blockSize rd 0)

/-- Cycles of one block without waits: max(32, ⌈size / rate⌉) (R476). -/
def blockCycles (size rate : Nat) : Nat := max 32 (ceilDiv size rate)

end Sys2Proof.Machine
end

