-- ==== Sys2Proof/Machine/Homes.lean ====
section
/-! DEFINITION. Homes of pages: frames in use and free, capacity, the change of a page's home, and the host requests that
carry data of the host tier (R84, R93, R97 to R106, R234, R236, R488, R505, R626 to R629, R842). -/
namespace Sys2Proof.Machine

/-! ### Frames and capacity -/

/-- The pages that the tables in memory map: valid level-3 entries, ascending (log 9). -/
def State.tablePages (s : State) (p : Nat) : List Nat :=
  match s.ptRoot p with
  | none => []
  | some r =>
    (upTo 2048).flatMap (fun i => match s.nextTable p (s.rdVal (r + 8 * i) 8) with
      | none => []
      | some t2 => (upTo 2048).flatMap (fun j => match s.nextTable p (s.rdVal (t2 + 8 * j) 8) with
        | none => []
        | some t3 => (upTo 1024).filterMap (fun n =>
            if bitAt (s.rdVal (t3 + 8 * n) 8) 0 then some (i * 2 ^ 21 + j * 2 ^ 10 + n) else none)))

/-- Every mapped page of a partition. -/
def State.mapped (s : State) (p : Nat) : List Nat :=
  ((s.part p).ptes.keys.filter (fun n => (s.walk p n).isNone && pteV (s.pte p n))) ++ s.tablePages p

/-- The frame that an entry of a page occupies in its home: a large page spans 32 frames of HBM and one index of the host
page map. -/
def frameUsed (page : Nat) (e : W64) : Nat :=
  if pteL e && pteTier e == 2 then pteFrame e + page % 32 else pteFrame e

/-- The engine operations of a partition's cores. -/
def State.partOps (s : State) (p : Nat) : List DmaOp :=
  (s.clustersOf p).flatMap (fun c => (upTo 9).flatMap (fun j => (s.core (coreKey c j)).dmaq))

/-- The pages of a partition that a MOVE or Splice in flight moves or has still to move: page and entry to be (R101). -/
def State.inMotion (s : State) (p : Nat) : List (Nat × Nat × W64) :=
  (s.partOps p).flatMap (fun o => o.held ++ o.plan.flatMap (fun g => g.map (fun x => (0, x.1, x.2))))

/-- The frames of a home that hold pages or are held for pages in motion. -/
def State.usedFrames (s : State) (p home : Nat) : List Nat :=
  (s.mapped p).filterMap (fun n => let e := s.pte p n; if pteHome e = home then some (frameUsed n e) else none) ++
  (s.inMotion p).filterMap (fun x => if pteHome x.2.2 = home then some (frameUsed x.2.1 x.2.2) else none)

/-- The 64 KiB units of cluster store that save areas of placed or pre-empted jobs reserve and do not hold now, and those
of the Dailies carve-out, of the bounce buffers and peer state of a confidential partition in its lead cluster (R489, R763,
R768, R842). -/
def State.reserved (s : State) (p l : Nat) : Nat :=
  let saves := (s.part p).jobs.foldl (fun a j =>
    let cores := (if j.2.placed.isEmpty then j.2.held else j.2.placed).filter (fun x => x.1 == l)
    let inside := j.2.savedPages.filter (fun x => pteHome (s.pte p x.1) == 1 + 32 * l)
    a + (j.2.save * cores.length - inside.length)) 0
  let sec := if s.conf p && s.logCl p (s.lead p) == some l then 9 + ceilDiv (64 * (s.secp p).peers.length) 65536 else 0
  saves + sec + match s.physCl p l with
    | some c => if (s.trace c).carve then 64 else 0
    | none => 0

/-- The first run of n free frames at or after f that lies below the limit, in steps of n. -/
def firstFree (used : List Nat) (n limit : Nat) : Nat → Nat → Option Nat
  | 0, _ => none
  | fuel + 1, f =>
    if f + n > limit then none
    else if (upTo n).any (fun i => used.contains (f + i)) then firstFree used n limit fuel (f + n)
    else some f

/-- A free place for a unit of n pages in a home, the lowest (DESIGN CHOICE, log 23); none when the capacity is short. A
store holds no large page. -/
def State.freeFrame (s : State) (p home n : Nat) : Option Nat :=
  let used := s.usedFrames p home
  match home % 4 with
  | 0 => if n = 1 then firstFree used 1 64 (used.length + 1) 0 else none
  | 1 => if n = 1 && decide (used.length + s.reserved p (home / 32) < 512) then firstFree used 1 512 (used.length + 1) 0
    else none
  | 2 => (s.stacksOf p).findSome? (fun st => firstFree used n ((st + 1) * 786432) (used.length + 1) (st * 786432))
  | _ => (s.part p).hostMap.keys.find? (fun i => !used.contains i)

/-- Whether a destination home exists: its cluster is the partition's and powered, its core has a physical core, the
partition owns a stack (R924 item 2, R725). That a cluster which is owned and gated is refused as a home is the model's choice
(log 82, DESIGN CHOICE). -/
def State.homeOk (s : State) (p home : Nat) : Bool :=
  match home % 4 with
  | 0 => match s.logKey p (bitsAt home 5 3) (bitsAt home 2 3) with
    | some k => (s.cl (keyCl k)).powered
    | none => false
  | 1 => match s.physCl p (bitsAt home 5 3) with
    | some c => (s.cl c).powered
    | none => false
  | 2 => !(s.stacksOf p).isEmpty
  | _ => true

/-! ### Units of a range -/

/-- The units of a range of pages, ascending: first page and pages, 32 for a large page. -/
def State.units (s : State) (p page n : Nat) : List (Nat × Nat) :=
  (upTo n).filterMap (fun i =>
    let q := page + i
    if pteL (s.pte p q) then (if q % 32 = 0 then some (q, 32) else none) else some (q, 1))

/-- Whether a range covers part, but not all, of a large page (R236). -/
def State.cutsLarge (s : State) (p page n : Nat) : Bool :=
  (upTo n).any (fun i =>
    let q := page + i
    pteL (s.pte p q) && (decide (q / 32 * 32 < page) || decide (q / 32 * 32 + 32 > page + n)))

/-- Whether a page may not move: PIN = 1, or sealed and mapped by more than one job (R97, R102). -/
def State.unmovable (s : State) (p page : Nat) : Bool :=
  let e := s.pte p page
  ptePin e || (pteSh e && pteRo e && decide ((s.part p).jobs.length > 1))

/-- The entry of a page in another home: only TIER, CORE, CLUSTER, FRAME and MV change (R930). -/
def entryAt (e : W64) (home frame : Nat) : W64 := mkPte (pteL e) (ptePin e) (pteRo e) (pteSh e) (pteX e) false home frame

/-- A group of pages that change home together: page and new entry. -/
abbrev Group := List (Nat × W64)

/-- The group that takes a unit to a home at a frame. -/
def State.groupTo (s : State) (p page n home frame : Nat) : Group :=
  (upTo n).map (fun i => (page + i, entryAt (s.pte p (page + i)) home frame))

/-- A page goes to the home of an entry: of the entry that it has now only TIER, CORE, CLUSTER, FRAME and MV change (R930). -/
def State.setHome (s : State) (p page : Nat) (e : W64) : State :=
  s.setPte p page (entryAt (s.pte p page) (pteHome e) (pteFrame e))

/-- The pages of a group go to the homes of its entries. -/
def State.setGroup (s : State) (p : Nat) (g : Group) : State := g.foldl (fun s x => s.setHome p x.1 x.2) s

/-- The group's MV bits set or cleared (R103). -/
def State.markGroup (s : State) (p : Nat) (g : Group) (b : Bool) : State :=
  g.foldl (fun s x => s.setPte p x.1 (pteSetMv (s.pte p x.1) b)) s

/-- The moves of a list of units to one home, each found a frame in turn; none when the capacity is short (R101). The
second part is the state in which every move found is made in the entries alone. -/
def State.planMoves (s : State) (p home : Nat) (us : List (Nat × Nat)) : Option (List Group × State) :=
  us.foldl (fun acc u => match acc with
    | none => none
    | some (gs, s) =>
      if pteHome (s.pte p u.1) = home then some (gs, s)
      else match s.freeFrame p home u.2 with
        | none => none
        | some f => let g := s.groupTo p u.1 u.2 home f; some (gs ++ [g], s.setGroup p g)) (some ([], s))

/-! ### Host requests -/

/-- Header of a bulk transfer (R625): TAG, KIND, bytes that follow; the data are padded to a multiple of 64. -/
def bulk (tag kind : Nat) (l : List Byte) : List Byte :=
  leBytes 4 tag ++ leBytes 4 kind ++ leBytes 8 l.length ++ List.replicate 48 0#8 ++ l ++
    List.replicate ((64 - l.length % 64) % 64) 0#8

/-- Host requests are posted in order while fewer than 64 are outstanding (R627, R628). -/
def State.pumpReqs (s : State) (p : Nat) : State :=
  (s.func p).reqs.foldl (fun s r =>
    if r.posted || decide (((s.func p).reqs.filter (fun x => x.posted)).length ≥ 64) then s
    else s.updFunc p (fun f =>
      let f := { f with reqs := f.reqs.map (fun x => if x.num = r.num then { x with posted := true, sentNs := s.nsW } else x) }
      if f.st = .off then f
      else { f with
        out := f.out ++ [{ Completion.init with
          tag := BitVec.ofNat 32 r.num, opc := BitVec.ofNat 8 (b2n r.write), req := true, tDone := s.nsW,
          d0 := r.handle, d1 := BitVec.ofNat 64 (r.off + 2 ^ 32 * r.bytes) }],
        in2 := if r.write then f.in2 ++ [(0, bulk r.num 1 r.data)] else f.in2 })) s

/-- Operation of a core's engine updated. -/
def State.updOp (s : State) (k serial : Nat) (f : DmaOp → DmaOp) : State :=
  s.updCore k (fun c => { c with dmaq := c.dmaq.map (fun o => if o.serial = serial then f o else o) })

/-- A host request queued for an operation. -/
def State.addReq (s : State) (p k serial : Nat) (r : HostReq) : State :=
  let n := (s.func p).reqNum
  let s := s.updFunc p (fun f => { f with
    reqNum := n + 1, reqs := f.reqs ++ [{ r with num := n, core := k, op := serial, posted := false }] })
  (s.updOp k serial (fun o => { o with waitHost := o.waitHost ++ [n] })).count k (0x46 + b2n r.write) r.bytes

/-- The thread that issued an operation of a core's engine. -/
def State.opThr (s : State) (k serial : Nat) : Nat :=
  ((s.core k).dmaq.find? (fun o => o.serial == serial)).elim 64 (fun o => o.thr)

/-- Handle and offset in the host page of a virtual address of the host tier (R626). -/
def State.hostPlace (s : State) (p : Nat) (e : W64) (va : Nat) : BitVec 64 × Nat :=
  ((s.part p).hostMap.get 0#64 (pteFrame e), if pteL e then va % 0x200000 else va % 0x10000)

/-! ### The change of a home -/

/-- The status word of a DMA operation (Table ISA-8). -/
def dmaStatus (st fcode : Nat) : BitVec 16 := BitVec.ofNat 16 (st + 256 * fcode)

/-- The status that the operation found. -/
def State.setStatus (s : State) (k serial st fcode : Nat) : State :=
  s.updOp k serial (fun x => { x with status := some (dmaStatus st fcode) })

/-- Threads that wait for a page which is no longer in motion go on, and so do writes of the part itself (R104). -/
def State.wakePages (s : State) (p : Nat) : State :=
  let s := s.flushLate p
  { s with cores := s.cores.mapV (fun k c =>
      if s.partOf k = p then
        { c with threads := c.threads.mapV (fun _ t => match t.wait with
            | .page n => if pteMv (s.pte p n) then t else t.wake
            | _ => t) }
      else c) }

/-- The pages that an operation holds in motion stay at their old homes, and their MV bits clear (R103, R106). -/
def State.releaseHeld (s : State) (p : Nat) (o : DmaOp) : State :=
  (o.held.foldl (fun s x => s.setPte p x.2.1 (pteSetMv (s.pte p x.2.1) false)) s).wakePages p

/-- The places of a group's pages that lie in the device: old ones and new ones. -/
def State.groupOld (s : State) (p : Nat) (g : Group) : List Nat :=
  g.filterMap (fun x => s.devOf p (s.pte p x.1) (x.1 * 65536))
/-- The new ones. -/
def State.groupNew (s : State) (p : Nat) (g : Group) : List Nat := g.filterMap (fun x => s.devOf p x.2 (x.1 * 65536))

/-- Why a group cannot change home (R79, R106, R228, R452, R458): a page whose entry points outside the partition, an
unreadable byte of the old place, a failed stack at the new one. The state has the error counted. -/
def State.groupFault (s : State) (k p : Nat) (g : Group) : Option (State × Nat) :=
  match g.find? (fun x => pteTier (s.pte p x.1) != 3 && (s.devOf p (s.pte p x.1) (x.1 * 65536)).isNone) with
  | some x => some (s.noteOutside p (x.1 * 65536), fcTier)
  | none => match (s.groupOld p g).find? (fun a => s.badIn a 65536) with
    | some a => some (s.tellUe k (a + (s.badFirst a 65536).getD 0) false, fcUe)
    | none => match (s.groupNew p g).find? s.deadStack with
      | some a => some (s.tellUe k a false, fcUe)
      | none => none

/-- The unordered writes of pages that change place go with their bytes (R107, R213). -/
def State.carryDirty (s : State) (l : List (Nat × Nat)) : State :=
  { s with dirty := s.dirty.map (fun d => match l.find? (fun x => decide (x.1 ≤ d.1) && decide (d.1 < x.1 + 65536)) with
      | some x => (d.1 - x.1 + x.2, d.2)
      | none => d) }

/-- A group changes home at one instant (R103, R513): its bytes are copied between the device's places, then the entries
change. -/
def State.moveGroup (s : State) (k t p : Nat) (g : Group) : State :=
  let olds := s.groupOld p g
  let news := s.groupNew p g
  let data := olds.map (fun a => s.rdN a 65536)
  let s := (news.zip data).foldl (fun s x => s.store x.1 x.2) s
  let s := (olds.zip news).foldl (fun s x =>
    (s.count k (byteCnt (tierOf x.1) false) 65536).count k (byteCnt (tierOf x.2) true) 65536) s
  let s := (g.zip data).foldl (fun s x => s.signWrite k t (x.1.1 * 65536) x.2) s
  (s.carryDirty (olds.zip news)).setGroup p g

/-- Whether a group has a place in the host tier, old or new. -/
def State.hostGroup (s : State) (p : Nat) (g : Group) : Bool :=
  g.any (fun x => pteTier (s.pte p x.1) == 3 || pteTier x.2 == 3)

/-- The host requests of a group (R627): its pages carry MV = 1 until the last of them ends. Reads are posted before the
writes, whose data are taken now. -/
def State.sendGroup (s : State) (k p serial n : Nat) (g : Group) : State :=
  let reads := g.filterMap (fun x =>
    let e := s.pte p x.1
    if pteTier e = 3 then
      let h := s.hostPlace p e (x.1 * 65536)
      let d := s.devOf p x.2 (x.1 * 65536)
      some { HostReq.init with
        handle := h.1, off := h.2, bytes := 65536, group := n, dev := true, dst := BitVec.ofNat 64 (d.getD 0) }
    else none)
  let writes := g.filterMap (fun x =>
    let e := s.pte p x.1
    if pteTier x.2 = 3 then
      let h := s.hostPlace p x.2 (x.1 * 65536)
      some { HostReq.init with
        write := true, handle := h.1, off := h.2, bytes := 65536, group := n
        data := match s.devOf p e (x.1 * 65536) with
          | some a => s.rdN a 65536
          | none => [] }
    else none)
  let s := (reads ++ writes).foldl (fun s r => s.addReq p k serial r) s
  let s := g.foldl (fun s x => match s.devOf p (s.pte p x.1) (x.1 * 65536) with
    | some a => s.signWrite k (s.opThr k serial) (x.1 * 65536) (s.rdN a 65536)
    | none => s) s
  let s := s.updOp k serial (fun o => { o with held := o.held ++ g.map (fun x => (n, x.1, x.2)), group := n + 1 })
  (s.markGroup p g true).pumpReqs p

/-- The groups of a plan performed in order, up to the first that fails (R106, R513, R514). A group with a place in the host
tier holds the later ones back until its last request has ended. -/
def State.runPlan (s : State) (k p serial : Nat) : List Group → State
  | [] => (s.updOp k serial (fun o => { o with plan := [] })).setStatus k serial stOk 0
  | g :: t =>
    match s.groupFault k p g with
    | some x => (x.1.updOp k serial (fun o => { o with plan := [] })).setStatus k serial stFaulted x.2
    | none =>
      if s.hostGroup p g then
        let n := ((s.core k).dmaq.find? (fun o => o.serial == serial)).elim 0 (fun o => o.group)
        (s.sendGroup k p serial n g).updOp k serial (fun o => { o with plan := t })
      else
        State.runPlan (g.foldl (fun s x => s.taintQueues p (x.1 * 65536) 65536) (s.moveGroup k (s.opThr k serial) p g)) k p serial t

/-- The operation whose destination fails while host data arrive ends FAULTED: its requests are dropped, its pages in motion
keep their homes, later groups are not performed (R106, R514). -/
def State.failPlan (s : State) (k p serial code : Nat) : State :=
  let s := match (s.core k).dmaq.find? (fun o => o.serial == serial) with
    | some o => s.releaseHeld p o
    | none => s
  let s := s.updFunc p (fun f => { f with reqs := f.reqs.filter (fun r => !(r.core == k && r.op == serial)) })
  (s.updOp k serial (fun o => { o with held := [], plan := [], writes := [], waitHost := [] })).setStatus k serial stFaulted code

/-- A group whose last request has ended changes home, its MV bits clear (R103), and the plan goes on (R513). -/
def State.endGroup (s : State) (k p serial n : Nat) : State :=
  if (s.func p).reqs.any (fun r => r.core == k && r.op == serial && r.group == n) then s
  else match (s.core k).dmaq.find? (fun o => o.serial == serial) with
    | none => s
    | some o =>
      let g : Group := (o.held.filter (fun x => x.1 == n)).map (fun x => (x.2.1, x.2.2))
      if g.isEmpty then s
      else
        let came := g.filter (fun x => pteTier (s.pte p x.1) == 3)
        let s := s.setGroup p g
        let s := came.foldl (fun s x => s.signWrite k o.thr (x.1 * 65536) (s.vrdN p (x.1 * 65536) 65536)) s
        let s := if o.hostTag.isSome then s else came.foldl (fun s x => s.markSrc k o.thr (x.1 * 65536) 65536 (serial + 1)) s
        let s := g.foldl (fun s x => s.taintQueues p (x.1 * 65536) 65536) s
        let s := s.updOp k serial (fun o => { o with held := o.held.filter (fun x => x.1 != n) })
        if o.status.isSome then s else s.runPlan k p serial o.plan

/-- One entry of a Splice plan (Table SCH-6). -/
structure PlanEnt where
  op : Nat
  dest : Nat
  n : Nat
  va : Nat
  vb : Nat
  deriving DecidableEq, Repr

/-- The entries of a plan. -/
def planEnts (l : List Byte) : List PlanEnt :=
  (upTo (recN l 0 2)).map (fun i =>
    let o := 64 + 32 * i
    { op := recBits l (8 * o) 2, dest := recN l (o + 1) 1, n := bitsAt (recN l (o + 4) 4) 0 20,
      va := recN l (o + 8) 8, vb := recN l (o + 16) 8 })

/-- The ranges of an entry: first page and pages. -/
def PlanEnt.ranges (e : PlanEnt) : List (Nat × Nat) :=
  if e.op = 1 then [(e.va / 65536, e.n), (e.vb / 65536, e.n)] else [(e.va / 65536, e.n)]

/-- The ranges of pages of a MOVE or Splice. -/
def DmaOp.ranges (o : DmaOp) : List (Nat × Nat) :=
  match o.kind with
  | .move => [(o.dst.toNat / 65536, o.len.toNat / 65536)]
  | .splice => (planEnts o.desc).flatMap (fun e => e.ranges)
  | _ => []

/-- The virtual ranges that a started operation reads or writes. -/
def DmaOp.touched (o : DmaOp) : List (Nat × Nat) := o.touch ++ o.ranges.map (fun r => (65536 * r.1, 65536 * r.2))

/-- Whether a range of pages overlaps a MOVE or Splice in flight: one that has started and not completed (R105, R515). -/
def State.motionMeets (s : State) (p page n : Nat) : Bool :=
  (s.partOps p).any (fun o => o.started && o.ranges.any (fun r => overlaps r.1 r.2 page n))

/-- A device transfer cost: rate in bytes per cycle and first-data latency between two places (Table MEM-3); none stands
for a place in the host tier. -/
def State.pair (s : State) (k : Nat) (a b : Option Nat) : Nat × Nat :=
  match a, b with
  | some a, some b =>
    let hbm (x : Nat) : Bool := tierOf x == 2
    let own (x : Nat) : Bool := match regionOf x with
      | .core j _ => keyCl j == keyCl k
      | .cluster c _ => c == keyCl k
      | _ => false
    let mine (x : Nat) : Bool := match regionOf x with
      | .core j _ => j == k
      | _ => false
    if hbm a && hbm b then (64, s.lHbm (keyCl k))
    else if hbm a || hbm b then (128, s.lHbm (keyCl k))
    else if !own a || !own b then (128, 120)
    else if mine a && mine b then (256, 6)
    else (256, 40)
  | _, _ => (1, 0)

/-- Cycles of a MOVE or Splice plan: P × (⌈z / ρ⌉ + 64) for moves, twice that for an exchange (R443, R516). -/
def State.planCycles (s : State) (k p : Nat) (gs : List Group) (factor : Nat) : Nat :=
  gs.foldl (fun a g => match g with
    | [] => a
    | x :: _ =>
      let r := s.pair k (s.devOf p (s.pte p x.1) (x.1 * 65536)) (s.devOf p x.2 (x.1 * 65536))
      a + factor * (ceilDiv (g.length * 65536) r.1 + 64)) 0

end Sys2Proof.Machine
end

