-- ==== Sys2Proof/Machine/Dma.lean ====
section
/-! DEFINITION. DMA, MOVE and Splice: the instructions that issue them (R224 to R236, R511) and the steps of a core's DMA
engine (R227, R228, R361 to R369, R404 to R408, R438, R478, R512 to R514, R627, R629, R924, R927, R928). -/
namespace Sys2Proof.Machine

/-! ### Issue -/

/-- The lowest-numbered free tag of a thread (R225). -/
def Thread.freeTag (t : Thread) : Option Nat := (upTo 16).find? (fun n => !t.tags.has n)

/-- A record read at issue from the issuing core's core store: PRIV, ALIGN, then the translation faults of its address and
extent (R926 items 3 and 4); a page in motion makes the thread wait (R104). -/
def descSem (k t va len align : Nat) (s : State) (f : List Byte → Res) : Res :=
  if inSRange va len then .fault fcPriv va
  else if va % align ≠ 0 then .fault fcAlign va
  else match s.rangeFault k [{ va := va, len := len, reach := .ownCore, write := false }] with
    | some x => .fault x.1 x.2
    | none =>
      if s.mvRange k va len then .block (s.waitPage k t va)
      else if s.vbad (s.partOf k) va len then .fault fcUe va
      else f (s.vrdN (s.partOf k) va len)

/-- Destination ranges of a descriptor, by its KIND (Tables ISA-9, WIN-1, ATN-2, CMP-2). -/
def descDst (l : List Byte) : List (Nat × Nat) :=
  match recBits l 0 4 with
  | 0 => (upTo (recN l 4 4)).map (fun r =>
      ((recN l 16 8 + wrapN 64 ((r : Int) * sextN 64 (recN l 32 8))) % 2 ^ 64, recN l 8 4))
  | 1 => (upTo (recN l 16 2)).map (fun r => (recN l 40 8 + r * recN l 48 4,
      (recBits l 36 4 + 1) * (recBits l 40 4 + 1) * recN l 18 2))
  | 2 => (upTo (recBits l 32 11)).map (fun r => (recN l 40 8 + r * recN l 52 4, recN l 48 4))
  | 3 => [(recN l 16 8, 4096 * recN l 4 4)]
  | _ => []

/-- Destination ranges of a Splice plan. -/
def planDst (l : List Byte) : List (Nat × Nat) :=
  (upTo (recN l 0 2)).flatMap (fun i =>
    let o := 64 + 32 * i
    let n := bitsAt (recN l (o + 4) 4) 0 20 * 65536
    if recBits l (8 * o) 2 = 1 then [(recN l (o + 8) 8, n), (recN l (o + 16) 8, n)] else [(recN l (o + 8) 8, n)])

/-- The ranges that an operation writes for the thread that issued it (R213): a MOVE and a Splice write the pages of their
ranges. -/
def DmaOp.dirties (o : DmaOp) : List (Nat × Nat) :=
  match o.kind with
  | .copy => [(o.dst.toNat, o.len.toNat)]
  | .desc => descDst o.desc
  | .move => [(o.dst.toNat, o.len.toNat)]
  | .splice => planDst o.desc

/-- The step of a core's job has issued a MOVE or SPLICE (R799). -/
def State.noteMove (s : State) (k : Nat) : State :=
  match (s.core k).job with
  | some j => s.updJob (s.partOf k) j (fun x => if x.running.isSome then { x with moved := true } else x)
  | none => s

/-- An operation put behind the earlier ones of its core with the thread's next free tag; D takes the tag (R225 to R227). From
now on its writes may be performed at any moment (R213). -/
def State.enqueueDma (s : State) (k t : Nat) (w : W64) (o : DmaOp) : Res :=
  match (s.thr k t).freeTag with
  | none => .fault fcTags 0
  | some tag =>
    let n := (s.core k).serial
    let s := s.updCore k (fun c => { c with serial := n + 1, dmaq := c.dmaq ++ [{ o with serial := n, thr := t, tag := tag }] })
    let s := o.dirties.foldl (fun s r => s.markSrc k t r.1 r.2 (n + 1)) s
    let s := if o.kind = .move ∨ o.kind = .splice then s.noteMove k else s
    .done (s.updThr k t (fun x => { (x.setG (fD w) (BitVec.ofNat 64 tag)) with
      tags := x.tags.put tag { serial := n, done := none } }))

/-- DMA.COPY (Table ISA-7). -/
def dmaCopySem (w : W64) (h : Hart) (s : State) : Res :=
  let th := s.thr h.key h.thr.val
  if unusedSet w (mO + mD + mA + mB + mC) then .fault fcIllegal 0
  else s.enqueueDma h.key h.thr.val w { DmaOp.init with
    kind := .copy, dst := th.g (fA w), src := th.g (fB w), len := th.g (fC w) }

/-- DMA.DESC reads its 64-byte descriptor at issue (R233). -/
def dmaDescSem (w : W64) (h : Hart) (s : State) : Res :=
  let k := h.key
  let t := h.thr.val
  if unusedSet w (mO + mD + mA) then .fault fcIllegal 0
  else descSem k t ((s.thr k t).g (fA w)).toNat 64 64 s (fun l => s.enqueueDma k t w { DmaOp.init with kind := .desc, desc := l })

/-- Whether IMM names a destination home: the fields that the tier does not use are zero (R234). -/
def homeImm (imm : Nat) : Bool :=
  decide (imm < 256) && (imm % 4 == 0 || (imm % 4 == 1 && bitsAt imm 2 3 == 0) || bitsAt imm 2 6 == 0)

/-- MOVE (R234, R235). -/
def moveSem (w : W64) (h : Hart) (s : State) : Res :=
  let th := s.thr h.key h.thr.val
  let a := th.g (fA w)
  let b := th.g (fB w)
  if unusedSet w (mO + mD + mA + mB + mI) || !homeImm (fImm w) then .fault fcIllegal 0
  else if a.toNat % 65536 ≠ 0 then .fault fcAlign a.toNat
  else if b.toNat % 65536 ≠ 0 then .fault fcAlign b.toNat
  else s.enqueueDma h.key h.thr.val w { DmaOp.init with
    kind := .move, dst := a, len := b, dest := BitVec.ofNat 8 (fImm w) }

/-- SPLICE reads its whole plan at issue: header and NENT entries (R510, R511). -/
def spliceSem (w : W64) (h : Hart) (s : State) : Res :=
  let k := h.key
  let t := h.thr.val
  let a := ((s.thr k t).g (fA w)).toNat
  if unusedSet w (mO + mD + mA) then .fault fcIllegal 0
  else descSem k t a 64 64 s (fun hd =>
    descSem k t a (64 + 32 * recN hd 0 2) 64 s (fun l =>
      s.enqueueDma k t w { DmaOp.init with kind := .splice, desc := l }))

/-- DMA.WAIT: the status of the operation whose tag A names; a tag that is not held gives REFUSED at once (R229, R231). The
return frees the tag (R225), and the operation's writes have been performed (R213). -/
def dmaWaitSem (w : W64) (h : Hart) (s : State) : Res :=
  let k := h.key
  let t := h.thr.val
  let th := s.thr k t
  let tag := (th.g (fA w)).toNat
  if unusedSet w (mO + mD + mA) then .fault fcIllegal 0
  else match (if tag < 16 then th.tags.find tag else none) with
    | none => .done (s.updThr k t (fun x => x.setG (fD w) (BitVec.ofNat 64 stRefused)))
    | some x => match x.done with
      | some st => .done ((s.waited k t x.serial).updThr k t (fun y => { (y.setG (fD w) (st.setWidth 64)) with
          tags := y.tags.erase tag }))
      | none => .done (s.updThr k t (fun y => { y with st := .waitMem, wait := .dmaReg tag (fD w) }))

/-- The destination ranges of an operation that issues, for the breakpoints of KIND 2 (Table DBG-2). -/
def dmaTouch (a : Agent) (s : State) (f : Hart → Thread → List (Nat × Nat)) : List (Nat × Nat × Nat) :=
  match a with
  | .thread h => (f h (s.thr h.key h.thr.val)).map (fun r => (2, r.1, r.2))
  | _ => []

/-- DMA_COPY. -/
def execDmaCopy (a : Agent) (w : W64) (s : State) : Out :=
  issueMeaning 0x80 a w s [] (dmaTouch a s (fun _ t => [((t.g (fA w)).toNat, (t.g (fC w)).toNat)])) (dmaCopySem w) noCtl
/-- DMA_DESC. -/
def execDmaDesc (a : Agent) (w : W64) (s : State) : Out :=
  issueMeaning 0x81 a w s [] (dmaTouch a s (fun h t => descDst (s.vrdN (s.partOf h.key) (t.g (fA w)).toNat 64)))
    (dmaDescSem w) noCtl
/-- MOVE. -/
def execMove (a : Agent) (w : W64) (s : State) : Out :=
  issueMeaning 0x82 a w s [] (dmaTouch a s (fun _ t => [((t.g (fA w)).toNat, (t.g (fB w)).toNat)])) (moveSem w) noCtl
/-- SPLICE. -/
def execSplice (a : Agent) (w : W64) (s : State) : Out :=
  issueMeaning 0x83 a w s [] (dmaTouch a s (fun h t =>
      let p := s.partOf h.key
      let va := (t.g (fA w)).toNat
      planDst (s.vrdN p va (64 + 32 * s.vrdVal p va 2)))) (spliceSem w) noCtl
/-- DMA_WAIT. -/
def execDmaWait (a : Agent) (w : W64) (s : State) : Out :=
  issueMeaning 0x8F a w s [] [] (dmaWaitSem w) noCtl

/-! ### Copies -/

/-- The fault of one page of a DMA access (R86, R228, R923). -/
def State.dmaFault (s : State) (k : Nat) (reach : Reach) (write : Bool) (va : Nat) : Option Nat :=
  if inSRange (va % 2 ^ 64) 1 then some fcPriv else s.pageFault k reach write (va % 2 ^ 64)

/-- The bytes of a virtual range up to the first that cannot be read, and the fault of that one (R228, R928). -/
def State.readUpto (s : State) (k : Nat) (reach : Reach) (va n : Nat) : List Byte × Option Nat :=
  (pagesOf va n).foldl (fun acc a => match acc.2 with
    | some _ => acc
    | none =>
      let len := min (n - (a - va)) (65536 - a % 65536)
      match s.dmaFault k reach false a with
      | some c => (acc.1, some c)
      | none => match s.va? (s.partOf k) (a % 2 ^ 64) with
        | none => (acc.1, some fcTier)
        | some d => match s.badFirst d len with
          | some i => (acc.1 ++ s.rdN d i, some fcUe)
          | none => (acc.1 ++ s.rdN d len, none)) ([], none)

/-- Bytes written at a virtual address up to the first that cannot be written, and the fault of that one (R228, R452). Bytes
that another thread writes too, with nothing to order them, take free values (R107). -/
def State.writeUpto (s : State) (k t va : Nat) (l : List Byte) : State × Option Nat :=
  let r := s.settle2 k t va l
  (pagesOf va l.length).foldl (fun acc a => match acc.2 with
    | some _ => acc
    | none =>
      let s := acc.1
      let off := a - va
      let len := min (l.length - off) (65536 - a % 65536)
      match s.dmaFault k .any true a with
      | some c => (s.noteOutside (s.partOf k) (a % 2 ^ 64), some c)
      | none => match s.va? (s.partOf k) (a % 2 ^ 64) with
        | none => (s, some fcTier)
        | some d =>
          let i := (s.badPart d len).getD len
          let s1 := (s.write k t (a % 2 ^ 64) ((r.1.drop off).take i)).count k (byteCnt (tierOf d) true) i
          if i < len then (s1.tellUe k (d + i) false, some fcUe) else (s1, none)) (r.2, none)

/-- One piece of a copy: bytes read at a source, or bytes given; they go to a destination. -/
structure Piece where
  dst : Nat
  src : Option Nat
  len : Nat
  data : List Byte
  deriving DecidableEq, Repr

/-- Whether a page of a virtual range lies in the host tier. -/
def State.hostRange (s : State) (p va n : Nat) : Bool :=
  (pagesOf va n).any (fun a => let e := s.pte p (a / 65536); pteV e && pteTier e == 3)

/-- A source and a destination cut at every page of either: source, destination, bytes. -/
def cutPages : Nat → Nat → Nat → Nat → List (Nat × Nat × Nat)
  | 0, _, _, _ => []
  | fuel + 1, a, b, n =>
    if n = 0 then []
    else
      let x := min n (min (65536 - a % 65536) (65536 - b % 65536))
      (a, b, x) :: cutPages fuel (a + x) (b + x) (n - x)

/-- A chunk within one page that goes to the host tier: a write request with the data (R627). -/
def State.sendHost (s : State) (k serial va : Nat) (l : List Byte) : State :=
  let p := s.partOf k
  let h := s.hostPlace p (s.pte p (va / 65536)) va
  let s := s.signWrite k (s.opThr k serial) va l
  s.addReq p k serial { HostReq.init with write := true, handle := h.1, off := h.2, bytes := l.length, data := l }

/-- The operation of a core's engine with a serial number. -/
def State.opOf (s : State) (k serial : Nat) : DmaOp := ((s.core k).dmaq.find? (fun o => o.serial == serial)).getD DmaOp.init

/-- Bytes written at a destination by an operation: in the host tier a write request with the data, else at once. -/
def State.doWrite (s : State) (k serial dst : Nat) (l : List Byte) : State × Option Nat :=
  if l.isEmpty then (s, none)
  else if s.hostRange (s.partOf k) dst l.length then
    match s.dmaFault k .any true dst with
    | some c => (s, some c)
    | none => (s.sendHost k serial dst l, none)
  else s.writeUpto k (s.opThr k serial) dst l

/-- The next write of an operation, in the order in which its form copies: while bytes from the host that come before it are
outstanding it waits (R928). -/
def State.emit (s : State) (k serial dst : Nat) (l : List Byte) : State × Option Nat :=
  if (s.opOf k serial).writes.isEmpty then s.doWrite k serial dst l
  else (s.updOp k serial (fun o => { o with writes := o.writes ++ [(0, BitVec.ofNat 64 dst, some l)] }), none)

/-- Bytes of a source in the device read by an operation: those up to the first that cannot be read, and its fault (R228, R928).
Bytes that another thread writes, with nothing to order them, read as free values (R107). `fresh`: the error was found now. -/
def State.readOp (s : State) (k serial src n : Nat) (fresh : Bool) : List Byte × State × Option Nat :=
  let p := s.partOf k
  let r := s.readUpto k .any src n
  let s := s.count k (byteCnt (match s.va? p src with | some d => tierOf d | none => 2) false) r.1.length
  let at_ := (src + r.1.length) % 2 ^ 64
  let s := match r.2 with
    | some c => if c = fcUe then s.tellUeV k at_ 1 fresh else s.noteOutside p at_
    | none => s
  let x := s.settleRead2 k (s.opThr k serial) src r.1
  (x.1, x.2, r.2)

/-- A chunk of a piece, within one page at the source and one at the destination, or with no place in the host tier: a source
in the host tier is requested (R627), and its write waits for the data. -/
def State.copyChunk (s : State) (k serial : Nat) (put : List Byte → List Byte) (src dst n : Nat) (fresh : Bool) :
    State × Option Nat :=
  let p := s.partOf k
  if s.hostRange p src n then
    match (match s.dmaFault k .any false src with
      | some c => some (src, c)
      | none => (s.dmaFault k .any true dst).map (fun c => (dst, c))) with
    | some x => (s.noteOutside p x.1, some x.2)
    | none =>
      let h := s.hostPlace p (s.pte p (src / 65536)) src
      let num := (s.func p).reqNum
      let s := s.addReq p k serial { HostReq.init with handle := h.1, off := h.2, bytes := n, dst := BitVec.ofNat 64 dst }
      (s.updOp k serial (fun o => { o with writes := o.writes ++ [(num + 1, BitVec.ofNat 64 dst, none)] }), none)
  else
    let r := s.readOp k serial src n fresh
    let y := r.2.1.emit k serial dst (put r.1)
    (y.1, match y.2 with | some c => some c | none => r.2.2)

/-- A list of steps performed in order up to the first fault. -/
def untilFault {α : Type} (l : List α) (s : State) (f : State → α → State × Option Nat) : State × Option Nat :=
  l.foldl (fun acc x => match acc.2 with
    | some _ => acc
    | none => f acc.1 x) (s, none)

/-- A piece performed: every write that comes before the first byte that cannot be read or written, and none after it
(R928). `undef` holds the number of the free value when the destination is undefined (R107). -/
def State.runPiece (s : State) (k serial : Nat) (undef : Option Nat) (fresh : Bool) (x : Piece) : State × Option Nat :=
  let p := s.partOf k
  let dst := x.dst % 2 ^ 64
  match x.src with
  | none =>
    let l := match undef with
      | some n => freeBytes n dst x.data.length
      | none => x.data
    if s.hostRange p dst l.length then
      untilFault (cutPages (l.length / 65536 + 2) dst dst l.length) s (fun s c =>
        s.emit k serial c.2.1 ((l.drop (c.2.1 - dst)).take c.2.2))
    else s.emit k serial dst l
  | some a =>
    let src := a % 2 ^ 64
    let put (d : Nat) (l : List Byte) : List Byte := match undef with
      | some n => freeBytes n d l.length
      | none => l
    if s.hostRange p dst x.len || s.hostRange p src x.len then
      untilFault (cutPages (x.len / 32768 + 3) src dst x.len) s (fun s c => s.copyChunk k serial (put c.2.1) c.1 c.2.1 c.2.2 fresh)
    else s.copyChunk k serial (put dst) src dst x.len fresh

/-- Pieces performed in order (R928). -/
def State.runPieces (s : State) (k serial : Nat) (undef : Option Nat) (fresh : Bool) (l : List Piece) : State × Option Nat :=
  untilFault l s (fun s x => s.runPiece k serial undef fresh x)

/-- The operation fails at a byte whose write had waited: no write after it is performed, and its outstanding reads are dropped
(R228, R928). -/
def State.failCopy (s : State) (k p serial code : Nat) : State :=
  let mine (r : HostReq) : Bool := r.core == k && r.op == serial && !r.write
  let gone := ((s.func p).reqs.filter mine).map (fun y => y.num)
  let s := s.updFunc p (fun f => { f with reqs := f.reqs.filter (fun r => !mine r) })
  (s.updOp k serial (fun o => { o with writes := [], waitHost := o.waitHost.filter (fun n => !gone.contains n) })).setStatus k serial
    stFaulted code

/-- Writes whose bytes have come performed in order, up to the first that still waits (R928). -/
def State.flushWrites (s : State) (k p serial : Nat) : Nat → State
  | 0 => s
  | n + 1 =>
    match (s.opOf k serial).writes with
    | (0, dst, some l) :: t =>
      let x := (s.updOp k serial (fun o => { o with writes := t })).doWrite k serial dst.toNat l
      match x.2 with
      | some c => x.1.failCopy k p serial c
      | none => State.flushWrites x.1 k p serial n
    | _ => s

/-- Whether a source range of the pieces meets a destination range (R107). -/
def piecesOverlap (l : List Piece) : Bool :=
  l.any (fun x => match x.src with
    | some a => l.any (fun y => overlaps a x.len y.dst y.len)
    | none => false)

/-- Whether a page that the pieces touch is in motion (R104). -/
def State.piecesMv (s : State) (k : Nat) (l : List Piece) : Bool :=
  l.any (fun x => s.mvRange k (x.dst % 2 ^ 64) x.len || match x.src with
    | some a => s.mvRange k (a % 2 ^ 64) x.len
    | none => false)

/-- Granules of 64 bytes that a range touches (R438). -/
def granules (a n : Nat) : Nat := if n = 0 then 0 else (a + n - 1) / 64 - a / 64 + 1

/-- The parts of a piece between two changes of a home: homes of source and destination, source, destination, bytes (R438). -/
def State.homeParts (s : State) (p : Nat) (x : Piece) : List ((Nat × Nat) × Nat × Nat × Nat) :=
  match x.src with
  | none => []
  | some a =>
    ((cutPages (x.len / 32768 + 3) a x.dst x.len).foldl (fun (acc : List ((Nat × Nat) × Nat × Nat × Nat)) c =>
      let h := (pteHome (s.pte p (c.1 % 2 ^ 64 / 65536)), pteHome (s.pte p (c.2.1 % 2 ^ 64 / 65536)))
      match acc with
      | y :: t => if y.1 = h then (h, y.2.1, y.2.2.1, y.2.2.2 + c.2.2) :: t else (h, c.1, c.2.1, c.2.2) :: y :: t
      | [] => [(h, c.1, c.2.1, c.2.2)]) []).reverse

/-- Cycles of a copy by segments: 16 + λ + Σ ⌈b' / ρ⌉ (R438). A segment goes on while both homes stay; b' counts, row by row,
the larger number of granules that the row's part of the segment touches at the source and at the destination. -/
def State.copyCycles (s : State) (k : Nat) (l : List Piece) : Nat :=
  let p := s.partOf k
  let segs := (l.flatMap (s.homeParts p)).foldl (fun (acc : List ((Nat × Nat) × (Nat × Nat) × Nat)) x =>
    let g := max (granules x.2.1 x.2.2.2) (granules x.2.2.1 x.2.2.2)
    match acc with
    | h :: t => if h.1 = x.1 then (h.1, h.2.1, h.2.2 + g) :: t
        else (x.1, s.pair k (s.va? p (x.2.1 % 2 ^ 64)) (s.va? p (x.2.2.1 % 2 ^ 64)), g) :: h :: t
    | [] => [(x.1, s.pair k (s.va? p (x.2.1 % 2 ^ 64)) (s.va? p (x.2.2.1 % 2 ^ 64)), g)]) []
  16 + ((segs.getLast?.map (fun x => x.2.1.2)).getD 0) + segs.foldl (fun a x => a + ceilDiv (64 * x.2.2) x.2.1.1) 0

/-! ### The engine -/

/-- The operation that the engine may start: the oldest of the core when none runs (R227, R439). -/
def State.dmaHead (s : State) (k : Nat) : Option DmaOp :=
  match (s.core k).dmaq with
  | o :: _ => if o.started then none else some o
  | [] => none

/-- Whether the engine of a core runs: the core is not fenced and its cluster has power. -/
def State.engineUp (s : State) (k : Nat) : Bool := !s.fencedCore k && (s.cl (keyCl k)).powered

/-- The operation starts, and with it its accesses to the ranges given: DMA_START in Dailies. -/
def State.beginOp (s : State) (k : Nat) (o : DmaOp) (touch : List (Nat × Nat)) (bytes cycles : Nat) : State :=
  let s := s.updOp k o.serial (fun x => { x with
    started := true, cycles := cycles, due := s.clCycle (keyCl k) + cycles, touch := touch })
  let s := s.updCore k (fun c => { c with dmaStall := 0 })
  s.traceRec k 6 o.thr 0 (o.tag + 2 ^ 8 * bytes)

/-- The engine waits to start its oldest operation, and each cycle counts under a cause (R104, R445, R455). -/
def State.holdDma (s : State) (k cause : Nat) : State := s.updCore k (fun c => { c with dmaStall := cause })

/-- The virtual ranges that pieces read and write (R730). -/
def pieceTouch (l : List Piece) : List (Nat × Nat) :=
  l.flatMap (fun x => (x.dst % 2 ^ 64, x.len) :: (match x.src with
    | some a => [(a % 2 ^ 64, x.len)]
    | none => []))

/-- Why the pieces of an operation cannot start yet: a page in motion (R104), a bank under repair (R455). -/
def State.pieceWait (s : State) (k : Nat) (l : List Piece) : Option Nat :=
  if s.piecesMv k l then some 0x25
  else if l.any (fun x => s.vbankBusy (s.partOf k) (x.dst % 2 ^ 64) x.len || match x.src with
      | some a => s.vbankBusy (s.partOf k) (a % 2 ^ 64) x.len
      | none => false) then some 0x20
  else none

/-- A start that ends at once with a status, nothing moved. -/
def State.endOp (s : State) (k : Nat) (o : DmaOp) (st fcode : Nat) : State :=
  (s.beginOp k o [] 0 16).setStatus k o.serial st fcode

/-- The ranges in which an operation's error may lie: the sources in their order, then what the destinations cover only in
part of an error unit (R448, R452). -/
def State.pieceRanges (s : State) (k : Nat) (l : List Piece) : List (Nat × Nat) :=
  l.filterMap (fun x => x.src.map (fun a => (a % 2 ^ 64, x.len))) ++
    l.flatMap (fun x => s.edges (s.partOf k) (x.dst % 2 ^ 64) x.len)

/-- The free value of an operation whose destination is undefined (R107), and the state in which it is drawn and noted. -/
def State.drawUndef (s : State) (k : Nat) (o : DmaOp) (u : Bool) : Option Nat × State :=
  if u then
    let n := s.freeAt (s.partOf k)
    (some n, (s.freshP (s.partOf k) 1).updOp k o.serial (fun x => { x with undef := some n }))
  else (none, s)

/-- What a copy found: the status of its first fault, else OK; its host requests go out. -/
def State.foundStatus (s : State) (k serial : Nat) (code : Option Nat) : State :=
  (match code with
    | some c => s.setStatus k serial stFaulted c
    | none => s.setStatus k serial stOk 0).pumpReqs (s.partOf k)

/-- Pieces run by an operation, with what follows from their first fault: fault, if any, after the last piece. -/
def State.startPieces (s : State) (k : Nat) (o : DmaOp) (l : List Piece) (after : Option Nat) (cycles : Nat) (e : MemErr) :
    State :=
  match s.pieceWait k l with
  | some cause => s.holdDma k cause
  | none =>
    let s := s.meetV k (s.pieceRanges k l) e
    let s := s.beginOp k o (pieceTouch l) (l.foldl (fun a x => a + x.len) 0) cycles
    let u := s.drawUndef k o (o.stale || piecesOverlap l)
    let r := u.2.runPieces k o.serial u.1 (errFails e) l
    r.1.foundStatus k o.serial (match r.2 with | some c => some c | none => after)

/-- Rows of a two-dimensional copy: row 0 first (Table ISA-9, R928). -/
def rowPieces (src dst : Nat) (ss ds : Int) (rows bytes : Nat) : List Piece :=
  (upTo rows).map (fun r => { dst := wrapN 64 ((dst : Int) + r * ds), src := some (wrapN 64 ((src : Int) + r * ss)),
                              len := bytes, data := [] })

/-- KIND of a descriptor operation; the linear copy counts as KIND 0. -/
def DmaOp.form (o : DmaOp) : Nat := match o.kind with
  | .copy => 0
  | .desc => if recBits o.desc 0 4 ≤ 3 then recBits o.desc 0 4 else 0
  | .move => 4
  | .splice => 5

/-- An engine step of the forms in a list. -/
def engineStep (c : CoreId) (form : Nat) (s : State) (f : Nat → DmaOp → State) : Out :=
  whenLive s (match s.dmaHead c.key with
    | none => s
    | some o => if o.form = form ∧ s.engineUp c.key ∧ !s.traceHeld (keyCl c.key) then f c.key o else s)

/-- TWO_D_COPY: a linear or two-dimensional copy starts (R232, R233, R927, R928). -/
def execTwoDCopy (c : CoreId) (fails : MemErr) (s : State) : Out :=
  engineStep c 0 s (fun k o =>
    match o.kind with
    | .copy =>
      let l := if o.len = 0#64 then [] else rowPieces o.src.toNat o.dst.toNat 0 0 1 o.len.toNat
      s.startPieces k o l none (if l.isEmpty then 16 else s.copyCycles k l) fails
    | _ =>
      let d := o.desc
      if recBits d 0 4 ≠ 0 then s.endOp k o stFaulted fcIllegal
      else if !recZero d 4 28 || !recZero d 96 32 || !recZero d 384 128 then s.endOp k o stFaulted fcIllegal
      else
        let rows := recN d 4 4
        let bytes := recN d 8 4
        let l := if rows = 0 ∨ bytes = 0 then []
          else rowPieces (recN d 24 8) (recN d 16 8) (sextN 64 (recN d 40 8)) (sextN 64 (recN d 32 8)) rows bytes
        s.startPieces k o l none (if l.isEmpty then 16 else s.copyCycles k l) fails)

/-- Output size of a window stream in one direction (R404): none when it is below 1. -/
def outDim (inp padA padB dil kern stride : Nat) : Option Nat :=
  let x := inp + padA + padB
  let y := dil * (kern - 1) + 1
  if x < y then none else some ((x - y) / stride + 1)

/-- The pieces of a window stream in the order of R405: taps of each output pixel in turn. -/
def windowPieces (d : List Byte) (ow : Nat) : List Piece :=
  let sy := recBits d 8 3 + 1
  let sx := recBits d 11 3 + 1
  let dy := recBits d 14 3 + 1
  let dx := recBits d 17 3 + 1
  let pt := recBits d 20 4
  let pl := recBits d 28 4
  let kh := recBits d 36 4 + 1
  let kw := recBits d 40 4 + 1
  let ih := recN d 8 2 + 1
  let iw := recN d 10 2 + 1
  let o0 := recN d 12 4
  let cb := recN d 18 2
  let pad := (upTo cb).map (fun i => BitVec.ofNat 8 (if bitAt (recN d 0 1) 4 ∧ i % 2 = 1 then recN d 7 1 else recN d 6 1))
  (upTo (recN d 16 2)).flatMap (fun i =>
    let o := o0 + i
    (upTo (kh * kw)).map (fun q =>
      let y : Int := ((o / ow * sy + q / kw * dy : Nat) : Int) - pt
      let x : Int := ((o % ow * sx + q % kw * dx : Nat) : Int) - pl
      let dst := recN d 40 8 + i * recN d 48 4 + q * cb
      if 0 ≤ y ∧ y < ih ∧ 0 ≤ x ∧ x < iw then
        { dst := dst, src := some (recN d 24 8 + y.toNat * recN d 32 4 + x.toNat * recN d 36 4), len := cb, data := [] }
      else { dst := dst, src := none, len := cb, data := pad }))

/-- Cycles of a window stream: 16 + λ, then each tap segment in order (R408). -/
def State.windowCycles (s : State) (k : Nat) (l : List Piece) : Nat :=
  let p := s.partOf k
  let lam := ((l.findSome? (fun x => x.src.map (fun a => (s.pair k (s.va? p a) (s.va? p x.dst)).2))).getD 0)
  16 + lam + l.foldl (fun (a : Nat) (x : Piece) => a + match x.src with
    | some b => ceilDiv x.len (s.pair k (s.va? p b) (s.va? p x.dst)).1
    | none => ceilDiv x.len 256) 0

/-- WINDOW_STREAM: a window stream starts (R404 to R409). -/
def execWindowStream (c : CoreId) (fails : MemErr) (s : State) : Out :=
  engineStep c 1 s (fun k o =>
    let d := o.desc
    let oh := outDim (recN d 8 2 + 1) (recBits d 20 4) (recBits d 24 4) (recBits d 14 3 + 1) (recBits d 36 4 + 1)
      (recBits d 8 3 + 1)
    let ow := outDim (recN d 10 2 + 1) (recBits d 28 4) (recBits d 32 4) (recBits d 17 3 + 1) (recBits d 40 4 + 1)
      (recBits d 11 3 + 1)
    let cb := recN d 18 2
    let row := (recBits d 36 4 + 1) * (recBits d 40 4 + 1) * cb
    let npix := recN d 16 2
    let dstride := recN d 48 4
    match oh, ow with
    | some oh, some ow =>
      if !recZero d 5 3 || !recZero d 44 4 || !recZero d 160 32 || !recZero d 416 96 || npix < 1 || npix > 4096 ||
          recN d 12 4 + npix > oh * ow || cb < 8 || cb > 4096 || cb % 8 ≠ 0 || dstride % 8 ≠ 0 || dstride < row then
        s.endOp k o stFaulted fcIllegal
      else
        let l := windowPieces d ow
        s.startPieces k o l none (s.windowCycles k l) fails
    | _, _ => s.endOp k o stFaulted fcIllegal)

/-- KV_PAGE (Table ATN-4). -/
def fcKvPage : Nat := 0x28

/-- A look-aside hit makes its entry the most recently used; the hit is counted (R367). -/
def State.labHit (s : State) (k : Nat) (root : W64) (hi : BitVec 5) : Option (W64 × State) :=
  match (s.core k).lab.find? (fun e => e.root == root && e.hi == hi) with
  | some e => some (e.l2, (s.updCore k (fun c => { c with
      lab := e :: c.lab.filter (fun x => x.slot != e.slot) })).count k 0x28 1)
  | none => none

/-- A new pair goes into the lowest-numbered empty entry, else in place of the least recently used one (R367). -/
def State.labInstall (s : State) (k : Nat) (root : W64) (hi : BitVec 5) (l2 : W64) : State :=
  let lab := (s.core k).lab
  let slot := ((upTo 64).find? (fun n => !lab.any (fun e => e.slot == n))).getD ((lab.getLast?.map (fun e => e.slot)).getD 0)
  s.updCore k (fun c => { c with
    lab := { slot := slot, root := root, hi := hi, l2 := l2 } :: c.lab.filter (fun e => e.slot != slot) })

/-- A table entry read by a walk of thread t's gather, in the core's own stores (R364): the value or its fault. An entry that another
thread writes, with nothing to order it, reads as a free value (R107). -/
def State.walkRead (s : State) (k t va n : Nat) : (Nat × Option Nat) × State :=
  let r := s.readUpto k .ownStores va n
  match r.2 with
  | some c => ((0, some c), if c = fcUe then s.tellUeV k va n false else s.noteOutside (s.partOf k) va)
  | none => let x := s.settleRead2 k t va r.1; ((leVal x.1, none), x.2)

/-- Latency of the tier of a table entry in cycles (R440). -/
def State.tableLat (s : State) (k va : Nat) : Nat := if s.tierAt k va = 0 then 6 else 40

/-- The pool page of a logical page: by page list or by fork table (R359, R365 to R367). The answer is the page number or
a fault, the state after the look-aside, and λ_e. -/
def State.kvEntry (s : State) (k t : Nat) (fork : Bool) (list page : Nat) : (Nat × Option Nat) × State × Nat :=
  if !fork then
    let r := s.walkRead k t (list + 4 * page) 4
    (r.1, r.2, s.tableLat k (list + 4 * page))
  else if list % 256 ≠ 0 then ((0, some fcKvPage), s, 0)
  else
    let hi := BitVec.ofNat 5 (page / 32)
    match s.labHit k (BitVec.ofNat 64 list) hi with
    | some (l2, s1) =>
      let a := l2.toNat + 4 * (page % 32)
      let r := s1.walkRead k t a 4
      (r.1, r.2, 2 + s.tableLat k a)
    | none =>
      let a := list + 8 * (page / 32)
      let r := (s.count k 0x29 1).walkRead k t a 8
      match r.1.2 with
      | some c => ((0, some c), r.2, s.tableLat k a)
      | none =>
        if r.1.1 = 0 ∨ r.1.1 % 128 ≠ 0 then ((0, some fcKvPage), r.2, s.tableLat k a)
        else
          let b := r.1.1 + 4 * (page % 32)
          let x := (r.2.labInstall k (BitVec.ofNat 64 list) hi (BitVec.ofNat 64 r.1.1)).walkRead k t b 4
          (x.1, x.2, 2 * s.tableLat k b)

/-- The piece that copies page i of a gather, its entry read in the present state (R361, R362): the piece or its fault, the state
after the look-aside, cycles. -/
def State.gatherPiece (s : State) (k t : Nat) (d : List Byte) (i : Nat) : (Piece ⊕ Nat) × State × Nat :=
  let r := s.kvEntry k t (bitAt (recN d 0 1) 4) (recN d 8 8) (recBits d 16 10 + i)
  match r.1.2 with
  | some c => (.inr c, r.2.1, r.2.2)
  | none =>
    if r.1.1 ≥ recN d 28 4 then (.inr fcKvPage, r.2.1, r.2.2)
    else
      let src := recN d 16 8 + recN d 6 2 * recN d 32 8 + r.1.1 * recN d 24 4
      let dst := recN d 40 8 + i * recN d 52 4
      let pr := s.pair k (s.va? (s.partOf k) (src % 2 ^ 64)) (s.va? (s.partOf k) (dst % 2 ^ 64))
      (.inl { dst := dst, src := some src, len := recN d 48 4, data := [] }, r.2.1, r.2.2 + pr.2 + ceilDiv (recN d 48 4) pr.1)

/-- The pieces that a gather would copy with the entries as they stand, up to its first fault, and its cycles (R440). -/
def State.gatherPieces (s : State) (k t : Nat) (d : List Byte) : List Piece × Nat :=
  let r := (upTo (recBits d 32 11)).foldl (fun (acc : List Piece × State × Bool × Nat) i =>
    if acc.2.2.1 then acc
    else
      let x := acc.2.1.gatherPiece k t d i
      match x.1 with
      | .inr _ => (acc.1, x.2.1, true, acc.2.2.2 + x.2.2)
      | .inl y => (acc.1 ++ [y], x.2.1, false, acc.2.2.2 + x.2.2)) ([], s, false, 16)
  (r.1, r.2.2.2)

/-- The table entries that a gather reads, as far as the descriptor names them: its part of the page list, or of the fork
table's first level (R359, R365). -/
def gatherTable (d : List Byte) : Nat × Nat :=
  let a := recBits d 16 10
  let n := recBits d 32 11
  if bitAt (recN d 0 1) 4 then (recN d 8 8 + 8 * (a / 32), 8 * ((a + n - 1) / 32 - a / 32 + 1)) else (recN d 8 8 + 4 * a, 4 * n)

/-- The pages of a gather from page i on copied in ascending order, each one's entry read immediately before it is copied (R361):
while the bytes of an earlier page have still to come from the host, the later entries are not read. -/
def State.gatherRun (s : State) (k serial : Nat) (undef : Option Nat) (fresh : Bool) (d : List Byte) (i : Nat) : State × Option Nat :=
  let s := s.updOp k serial (fun o => { o with gatherAt := none })
  untilFault ((upTo (recBits d 32 11)).drop i) s (fun s i =>
    let o := s.opOf k serial
    if o.gatherAt.isSome then (s, none)
    else if !o.writes.isEmpty then (s.updOp k serial (fun o => { o with gatherAt := some i }), none)
    else
      let x := s.gatherPiece k (s.opThr k serial) d i
      match x.1 with
      | .inr c => (x.2.1, some c)
      | .inl y => x.2.1.runPiece k serial undef fresh y)

/-- What a gather has found: its status, unless pages are left whose entries it may not read yet (R361). -/
def State.gatherFound (s : State) (k serial : Nat) (code : Option Nat) : State :=
  if (s.opOf k serial).gatherAt.isSome && code.isNone then s.pumpReqs (s.partOf k) else s.foundStatus k serial code

/-- A gather goes on once the host data before its next page have been copied (R361). -/
def State.gatherOn (s : State) (k serial : Nat) : State :=
  let o := s.opOf k serial
  match o.gatherAt with
  | some i =>
    if !o.writes.isEmpty then s
    else let r := s.gatherRun k serial o.undef false o.desc i; r.1.gatherFound k serial r.2
  | none => s

/-- PAGE_GATHER: a KV page gather starts (R360 to R369). -/
def execPageGather (c : CoreId) (fails : MemErr) (s : State) : Out :=
  engineStep c 2 s (fun k o =>
    let d := o.desc
    let npg := recBits d 32 11
    let pstride := recN d 24 4
    let pbytes := recN d 48 4
    let pitch := recN d 52 4
    if !recZero d 6 10 || !recZero d 26 6 || !recZero d 43 5 || !recZero d 448 64 || npg < 1 || npg > 1024 ||
        pstride % 64 ≠ 0 || recN d 32 8 % 64 ≠ 0 || pbytes % 64 ≠ 0 || pbytes < 64 || pbytes > pstride ||
        pitch % 64 ≠ 0 || pitch < pbytes then s.endOp k o stFaulted fcIllegal
    else if recBits d 16 10 + npg > 1024 then s.endOp k o stFaulted fcKvPage
    else
      let s0 := if bitAt (recN d 0 1) 4 && bitAt (recN d 0 1) 5 then s.updCore k (fun c => { c with lab := [] }) else s
      let g := s0.gatherPieces k o.thr d
      let tab := gatherTable d
      match (if s.mvRange k tab.1 tab.2 then some 0x25 else s.pieceWait k g.1) with
      | some cause => s.holdDma k cause
      | none =>
        let s := s0.meetV k (tab :: s0.pieceRanges k g.1) fails
        let s := s.beginOp k o (tab :: pieceTouch g.1) (g.1.foldl (fun a x => a + x.len) 0) g.2
        let u := s.drawUndef k o (o.stale || piecesOverlap g.1)
        let r := u.2.gatherRun k o.serial u.1 (errFails fails) d 0
        r.1.gatherFound k o.serial r.2)

/-- The blocks of an expansion from an offset: pieces with the block's values, the fault that ends them with its address, and the
cycles of the blocks (R465, R478, R479). A block is written once all of it has been read. -/
def State.expandPieces (s : State) (k src win dst rIn rOut : Nat) :
    Nat → Nat → Nat → List Piece → List Nat → List Piece × Option (Nat × Nat) × List Nat
  | 0, _, _, acc, cyc => (acc.reverse, none, cyc.reverse)
  | n + 1, b, off, acc, cyc =>
    let rd (i : Nat) : Byte := if i < win then s.vrd (s.partOf k) ((src + i) % 2 ^ 64) else 0#8
    let h := s.readUpto k .any (src + off) (min 8 (win - off))
    match h.2 with
    | some c => (acc.reverse, some (c, src + off + h.1.length), cyc.reverse)
    | none =>
      let size := blockSize rd off
      let x := s.readUpto k .any (src + off) (min size (win - off))
      match x.2 with
      | some c => (acc.reverse, some (c, src + off + x.1.length), cyc.reverse)
      | none =>
        State.expandPieces s k src win dst rIn rOut n (b + 1) (off + size)
          ({ dst := dst + 4096 * b, src := none, len := 4096, data := blockVals rd off } :: acc)
          (max (blockCycles size rIn) (ceilDiv 4096 rOut) :: cyc)

/-- Whether the array queue has begun an MLOADW with E = 1: it holds the core's one expander (R474, R480). -/
def State.expTaken (s : State) (k : Nat) : Bool := (s.core k).queue.any (fun e => e.begun && opcOf e.w == 0x90 && qE e.w)

/-- Blocks of an expansion, the first of which starts at a cycle, without those that have ended by the cycle n. -/
def dropBlocks (n : Nat) : Nat → List Nat → Nat × List Nat
  | at_, [] => (at_, [])
  | at_, b :: t => if at_ + b ≤ n then dropBlocks n (at_ + b) t else (at_, b :: t)

/-- The blocks that an expansion has not ended at a cycle. -/
def DmaOp.dropTo (o : DmaOp) (n : Nat) : DmaOp :=
  let r := dropBlocks n o.blockAt o.blocks
  { o with blockAt := r.1, blocks := r.2 }

/-- Entries of a core's queue dropped: those that f refuses. Where an MLOADW leaves that held the expander, the blocks which an
expansion has still to decode go on, the first of them from now on (R480). -/
def State.keepEntries (s : State) (k : Nat) (f : QEntry → Bool) : State :=
  let s1 := s.updCore k (fun c => { c with queue := c.queue.filter f })
  if s.expTaken k && !s1.expTaken k then
    let now := s.clCycle (keyCl k)
    s1.updCore k (fun c => { c with dmaq := c.dmaq.map (fun o =>
      if o.blocks.isEmpty then o else { o with blockAt := max o.blockAt now, due := o.due + (now - o.blockAt) }) })
  else s1

/-- Whether a page of a virtual range lies in the host tier, of a range of any length. -/
def State.hostSpan (s : State) (p va n : Nat) : Bool :=
  decide (n > 0) && (s.mapped p).any (fun q =>
    decide (va / 65536 ≤ q) && decide (q ≤ (va + n - 1) / 65536) && pteTier (s.pte p q) == 3)

/-- EXPANSION: an exponent-coded expansion starts, once no MLOADW holds the expander (R474, R477 to R480). The source is the read
window of SBYTES bytes, the destination the NBLK blocks, and each has its first byte at least (R232, R478). -/
def execExpansion (c : CoreId) (fails : MemErr) (s : State) : Out :=
  engineStep c 3 s (fun k o =>
    let d := o.desc
    let n := recN d 4 4
    let src := recN d 24 8
    let dst := recN d 16 8
    let p := s.partOf k
    let win := min (recN d 8 8) (8208 * n)
    if !recZero d 4 28 || !recZero d 256 256 then s.endOp k o stFaulted fcIllegal
    else if src % 8 ≠ 0 ∨ dst % 8 ≠ 0 then s.endOp k o stFaulted fcAlign
    else if s.hostSpan p src (max 1 (recN d 8 8)) || s.hostSpan p dst (max 1 (4096 * n)) then s.endOp k o stFaulted fcTier
    else if n = 0 then s.endOp k o stOk 0
    else if s.expTaken k then s
    else if s.mvRange k src win then s.holdDma k 0x25
    else if s.vbankBusy p src win then s.holdDma k 0x20
    else
      let s1 := s.meetV k ((src, win) :: s.edges p dst (4096 * n)) fails
      let pr := s.pair k (s.va? p src) (s.va? p dst)
      let r := s1.expandPieces k src win dst (min pr.1 128) pr.1 n 0 0 [] []
      match s1.pieceWait k r.1 with
      | some cause => s.holdDma k cause
      | none =>
        let s2 := s1.beginOp k o [(src, win), (dst, 4096 * n)] (4096 * r.1.length) (16 + pr.2 + r.2.2.foldl (fun a x => a + x) 0)
        let u := s2.drawUndef k o (o.stale || overlaps src win dst (4096 * n) || s.openRead k o.thr src win)
        let s2 := (u.2.updOp k o.serial (fun x => { x with
          blocks := r.2.2, blockAt := s.clCycle (keyCl k) + 16 + pr.2 })).updCore k (fun c => { c with expBusy := true })
        let s2 := match r.2.1 with
          | some x => if x.1 = fcUe then s2.tellUeV k x.2 1 (errFails fails) else s2.noteOutside p x.2
          | none => s2
        let y := s2.runPieces k o.serial u.1 false r.1
        y.1.foundStatus k o.serial (match y.2 with | some c => some c | none => r.2.1.map (fun x => x.1)))

/-! ### MOVE and Splice -/

/-- Whether a page of a range lies in the addresses reserved for S-level code (R86). -/
def pagesPriv (page n : Nat) : Bool := decide (n > 0) && inSRange (page * 65536) (n * 65536)

/-- The first check of R924 that fails, else the groups of a MOVE in ascending order. R924 does not list PRIV: the model takes
it for pages of the S-level range before R924's list, of mapped and of unmapped ones (R86, R924, log 77, DESIGN CHOICE). -/
def State.movePlan (s : State) (p va n dest : Nat) : (Nat × Nat) ⊕ List Group :=
  let page := va / 65536
  let np := n / 65536
  if pagesPriv page np then .inl (stFaulted, fcPriv)
  else if (upTo np).any (fun i => let a := (page + i) * 65536; decide (a ≥ 2 ^ 48) || decide (a = 0) || !pteV (s.pte p (page + i)))
  then .inl (stFaulted, fcPage)
  else if !s.homeOk p dest then .inl (stRefused, 0)
  else if s.cutsLarge p page np then .inl (stRefused, 0)
  else if (upTo np).any (fun i => s.unmovable p (page + i)) then .inl (stRefused, 0)
  else match s.planMoves p dest (s.units p page np) with
    | none => .inl (stRefused, 0)
    | some r => .inr r.1

/-- Whether a place that a plan reads or writes lies in a bank under repair (R455). -/
def State.planBusy (s : State) (p : Nat) (gs : List Group) : Bool :=
  gs.any (fun g => (s.groupOld p g ++ s.groupNew p g).any (fun a => s.bankBusy a 65536))

/-- A plan run by an operation: its groups in order, its status found (R106, R513, R514). -/
def State.startPlan (s : State) (k p : Nat) (o : DmaOp) (gs : List Group) (cycles : Nat) (e : MemErr) : State :=
  let s := match rangeByte (gs.flatMap (fun g => (s.groupOld p g).map (fun a => (a, 65536)))) (errOff e) with
    | some a => s.meet (some k) a e
    | none => s
  let s := s.beginOp k o [] (gs.foldl (fun a g => a + 65536 * g.length) 0) cycles
  s.runPlan k p o.serial gs

/-- MOVE_START: the engine checks and begins a MOVE, after any wait for a MOVE or Splice in flight that it meets (R100 to
R106, R515, R924). -/
def execMoveStart (c : CoreId) (fails : MemErr) (s : State) : Out :=
  engineStep c 4 s (fun k o =>
    let p := s.partOf k
    let va := o.dst.toNat
    let n := o.len.toNat
    if s.motionMeets p (va / 65536) (n / 65536) then s
    else match s.movePlan p va n o.dest.toNat with
      | .inl x => s.endOp k o x.1 x.2
      | .inr gs =>
        if s.planBusy p gs then s.holdDma k 0x20
        else
          let lam := match gs with
            | (x :: _) :: _ => (s.pair k (s.devOf p (s.pte p x.1) (x.1 * 65536)) (s.devOf p x.2 (x.1 * 65536))).2
            | _ => 0
          s.startPlan k p o gs (16 + lam + s.planCycles k p gs 1) fails)

/-- Whether every field of an entry is of Table SCH-6. -/
def entOk (l : List Byte) (i : Nat) : Bool :=
  let o := 64 + 32 * i
  let op := recBits l (8 * o) 2
  let dest := recN l (o + 1) 1
  recZero l (8 * o + 2) 6 && recZero l (8 * o + 16) 16 && recZero l (8 * o + 52) 12 && recZero l (8 * o + 192) 64 &&
  decide (bitsAt (recN l (o + 4) 4) 0 20 ≥ 1) && recN l (o + 8) 8 % 65536 == 0 && recN l (o + 16) 8 % 65536 == 0 &&
  ((op == 0 && homeImm dest && recN l (o + 16) 8 == 0) || (op == 1 && dest == 0))

/-- Whether two ranges of a list share a page. -/
def anyOverlap : List (Nat × Nat) → Bool
  | [] => false
  | r :: t => t.any (fun x => overlaps r.1 r.2 x.1 x.2) || anyOverlap t

/-- The groups of one entry and the state with its entries changed: a move finds frames, an exchange swaps page by page
(R510, R512); none when the capacity is short. -/
def State.planEntry (s : State) (p : Nat) (e : PlanEnt) : Option (List Group × State) :=
  if e.op = 0 then s.planMoves p e.dest (s.units p (e.va / 65536) e.n)
  else
    some ((s.units p (e.va / 65536) e.n).foldl (fun acc u =>
      let s := acc.2
      let d := u.1 - e.va / 65536
      let g : Group := (upTo u.2).flatMap (fun i =>
        let a := u.1 + i
        let b := e.vb / 65536 + d + i
        let ea := s.pte p a
        let eb := s.pte p b
        [(a, entryAt ea (pteHome eb) (pteFrame eb)), (b, entryAt eb (pteHome ea) (pteFrame ea))])
      (acc.1 ++ [g], s.setGroup p g)) ([], s))

/-- The first check of Table SCH-7 that fails, else the groups of the whole plan in plan order. PRIV, which the table does not
list, comes between its first two rows (R86, R512, log 77, DESIGN CHOICE). -/
def State.splicePlan (s : State) (p : Nat) (l : List Byte) : (Nat × Nat) ⊕ List (PlanEnt × List Group) :=
  let n := recN l 0 2
  let es := planEnts l
  let rs := es.flatMap (fun e => e.ranges)
  if n < 1 ∨ n > 1024 ∨ !recZero l 16 496 ∨ (upTo n).any (fun i => !entOk l i) then .inl (stFaulted, fcIllegal)
  else if rs.any (fun r => pagesPriv r.1 r.2) then .inl (stFaulted, fcPriv)
  else if rs.any (fun r => (upTo r.2).any (fun i =>
      let q := r.1 + i
      decide (q = 0) || decide (q ≥ 2 ^ 32) || !pteV (s.pte p q))) then .inl (stFaulted, fcPage)
  else if anyOverlap rs then .inl (stRefused, 0)
  else if rs.any (fun r => (upTo r.2).any (fun i => s.unmovable p (r.1 + i))) then .inl (stRefused, 0)
  else if rs.any (fun r => s.cutsLarge p r.1 r.2) then .inl (stRefused, 0)
  else if es.any (fun e => e.op == 1 && (upTo e.n).any (fun i =>
      pteL (s.pte p (e.va / 65536 + i)) != pteL (s.pte p (e.vb / 65536 + i)))) then .inl (stRefused, 0)
  else if es.any (fun e => e.op == 0 && !s.homeOk p e.dest) then .inl (stRefused, 0)
  else match es.foldl (fun acc e => match acc with
      | none => none
      | some (gs, s) => match State.planEntry s p e with
        | none => none
        | some r => some (gs ++ [(e, r.1)], r.2)) (some ([], s)) with
    | none => .inl (stRefused, 0)
    | some r => .inr r.1

/-- SPLICE_START: the engine checks a whole plan and performs it (R512 to R516). -/
def execSpliceStart (c : CoreId) (fails : MemErr) (s : State) : Out :=
  engineStep c 5 s (fun k o =>
    let p := s.partOf k
    if o.ranges.any (fun r => s.motionMeets p r.1 r.2) then s
    else match s.splicePlan p o.desc with
      | .inl x => s.endOp k o x.1 x.2
      | .inr es =>
        let gs := es.flatMap (fun e => e.2)
        if s.planBusy p gs then s.holdDma k 0x20
        else
          let lam := match gs with
            | (x :: _) :: _ => (s.pair k (s.devOf p (s.pte p x.1) (x.1 * 65536)) (s.devOf p x.2 (x.1 * 65536))).2
            | _ => 0
          let cyc := 16 + 8 * es.length + gs.length + lam +
            es.foldl (fun a e => a + (if e.1.op = 1 then s.planCycles k p (e.2.map (fun g => (upTo (g.length / 2)).filterMap
              (fun i => g[2 * i]?))) 2 else s.planCycles k p e.2 1)) 0
          s.startPlan k p o gs cyc fails)

end Sys2Proof.Machine
end

