-- ==== Sys2Proof/Machine/Recur.lean ====
section
/-! DEFINITION. The recurrent operators of REC.RUN (R318 to R326). -/
namespace Sys2Proof.Machine

/-! ### The run descriptor (Table REC-3) -/

/-- MODE: scan. -/
def rnScan (d : List Byte) : Bool := recBits d 0 2 == 1
/-- IFMT. -/
def rnIn (d : List Byte) : Nat := recBits d 2 2
/-- OFMT. -/
def rnOut (d : List Byte) : Nat := recBits d 4 2
/-- ASTEP. -/
def rnStep (d : List Byte) : Bool := recBits d 6 1 == 1
/-- OFF. -/
def rnOff (d : List Byte) : Nat := recN d 2 2
/-- LEN. -/
def rnLen (d : List Byte) : Nat := recN d 4 2
/-- Bytes of an element of a format: FP32, BF16, INT16. -/
def rnSize (f : Nat) : Nat := if f = 0 then 4 else 2

/-- The checks of R320; iir says that the Reel is an IIR cascade, len is the chunk's LEN. R320 lists neither reserved bits nor
LEN = 0: the first are ignored (R16), the second runs no sample (log 77, DESIGN CHOICE). ASTRIDE is checked with ASTEP = 1 alone
(log 82, DESIGN CHOICE). -/
def runBad (d : List Byte) (iir : Bool) (len : Nat) : Bool :=
  decide (recBits d 0 2 ≥ 2) || rnIn d == 3 || rnOut d == 3 ||
  (iir && (rnScan d || rnStep d)) || decide (rnOff d + rnLen d > len) ||
  recN d 24 4 % rnSize (rnIn d) != 0 || recN d 28 4 % rnSize (rnOut d) != 0 || (rnStep d && recN d 40 4 % 4 != 0)

/-- The operand ranges of a run of the given width: inputs, outputs, per-sample coefficients, in that order; t counts the
positions of the chunk, as in R323. -/
def runRanges (d : List Byte) (n : Nat) : List (Nat × Nat × Bool) :=
  let ts := (upTo (rnLen d)).map (fun t => rnOff d + t)
  ts.map (fun t => ((recN d 8 8 + t * recN d 24 4) % 2 ^ 64, n * rnSize (rnIn d), false)) ++
  ts.map (fun t => ((recN d 16 8 + t * recN d 28 4) % 2 ^ 64, n * rnSize (rnOut d), true)) ++
  (if rnStep d then ts.map (fun t => ((recN d 32 8 + t * recN d 40 4) % 2 ^ 64, 8 * n, false)) else [])

/-- An input element as FP32 (R322). -/
def runInput (f v : Nat) : W32 :=
  match f with
  | 0 => BitVec.ofNat 32 v
  | 1 => ofBf16 v
  | _ => let q := sextN 16 v; roundFp32 (.fin (decide (q < 0)) q.natAbs (-15))

/-- An output element in its format (R322). A conversion that saturates sets no sticky flag: no rule names one (log 77, DESIGN
CHOICE). -/
def runOutput (f : Nat) (h : W32) : List Byte :=
  match f with
  | 0 => leBytes 4 h.toNat
  | 1 => leBytes 2 (toBf16 h)
  | _ => leBytes 2 (wrapN 16 (convInt 16 (fp (roundFp32 ((fp h).mul (.fin false 1 15))))).1)

/-- rnd(b × x). -/
def bx (b x : W32) : W32 := mulW b x

/-- The serial recurrence of one state element over a list of (a, b, x), reset before the sample with number p (R323):
final state and outputs. -/
def serialRun (p : Option Nat) (rst : W32) : Nat → W32 → List (W32 × W32 × W32) → W32 × List W32
  | _, h, [] => (h, [])
  | t, h, (a, b, x) :: l =>
    let h0 := if p = some t then rst else h
    let h1 := fmaW a h0 (bx b x)
    let r := serialRun p rst (t + 1) h1 l
    (r.1, h1 :: r.2)

/-- The scan of one state element (R325): a segment ends at every multiple of 16 and at the mark. -/
def scanRun (p : Option Nat) (rst : W32) : Nat → W32 → W32 → W32 → W32 → Bool → List (W32 × W32 × W32) → W32 × List W32
  | _, h, _, _, _, _, [] => (h, [])
  | t, h, hin, pp, qq, first, (a, b, x) :: l =>
    let new : Bool := first || t % 16 == 0 || p == some t
    let hin := if new then (if p = some t then rst else h) else hin
    let pp := mulW a (if new then 0x3F800000#32 else pp)
    let qq := fmaW a (if new then 0#32 else qq) (bx b x)
    let out := fmaW pp hin qq
    let r := scanRun p rst (t + 1) out hin pp qq false l
    (r.1, out :: r.2)

/-- One section of an IIR cascade (R324): coefficients b0, b1, b2, a1, a2 and states; output and new states. -/
def iirSection (c : List W32) (s1 s2 x : W32) : W32 × W32 × W32 :=
  let g (i : Nat) : W32 := c.getD i 0#32
  let neg (w : W32) : W32 := w ^^^ 0x80000000#32
  let y := fmaW (g 0) x s1
  let t1 := fmaW (neg (g 3)) y (fmaW (g 1) x s2)
  let t2 := fmaW (neg (g 4)) y (bx (g 2) x)
  (y, t1, t2)

/-- One sample through the sections: output and new states. -/
def iirSample : List (List W32) → List (W32 × W32) → W32 → W32 × List (W32 × W32)
  | c :: cs, (s1, s2) :: ss, x =>
    let r := iirSection c s1 s2 x
    let q := iirSample cs ss r.1
    (q.1, (r.2.1, r.2.2) :: q.2)
  | _, _, x => (x, [])

/-- The samples of one channel of a cascade, its states reset before sample p. -/
def iirRun (p : Option Nat) (rst : List (W32 × W32)) (cs : List (List W32)) :
    Nat → List (W32 × W32) → List W32 → List (W32 × W32) × List W32
  | _, st, [] => (st, [])
  | t, st, x :: l =>
    let r := iirSample cs (if p = some t then rst else st) x
    let q := iirRun p rst cs (t + 1) r.2 l
    (q.1, r.1 :: q.2)

/-- Segments that a scan touches, the mark splitting its own (R325). -/
def segments (off len : Nat) (p : Option Nat) : Nat :=
  if len = 0 then 0
  else (off + len - 1) / 16 - off / 16 + 1 + (match p with
    | some m => if off < m ∧ m < off + len ∧ m % 16 ≠ 0 then 1 else 0
    | none => 0)

/-- Cycles of a run (Table REC-4). -/
def runCycles (iir scan : Bool) (n sections off len : Nat) (p : Option Nat) : Nat :=
  if iir then 16 + 8 * sections * len
  else if scan then 16 + 3 * ceilDiv (n * len) 64 + 4 * segments off len p * ceilDiv n 64
  else 16 + len * max 4 (ceilDiv n 64)

end Sys2Proof.Machine
end

