-- ==== Sys2Proof/Machine/ReelTab.lean ====
section
/-! DEFINITION. The Reel table and the chunk descriptor: their fields (Tables REC-5 and REC-8, R327, R328). -/
namespace Sys2Proof.Machine

/-- Device address of a Reel table entry: the table lies in the lead controller's cluster store (R327). -/
def State.reelAddr (s : State) (p idx : Nat) : Nat := (s.cl (s.lead p)).reelBase.toNat + 64 * idx

/-- The bytes of a Reel table entry; an index beyond REEL_N has none. -/
def State.reelRec (s : State) (p idx : Nat) : List Byte :=
  if idx < (s.cl (s.lead p)).reelN.toNat then s.rdN (s.reelAddr p idx) 64 else List.replicate 64 0#8

/-- V. -/
def rlV (r : List Byte) : Bool := recBits r 0 1 == 1
/-- KIND. -/
def rlKind (r : List Byte) : Nat := recBits r 1 2
/-- PIN. -/
def rlPin (r : List Byte) : Bool := recBits r 3 1 == 1
/-- RZ. -/
def rlRz (r : List Byte) : Bool := recBits r 4 1 == 1
/-- Slots bound. -/
def rlSlots (r : List Byte) : Nat := recBits r 5 2 + 1
/-- CORE. -/
def rlCore (r : List Byte) : Nat := recBits r 8 3
/-- CLUSTER. -/
def rlCluster (r : List Byte) : Nat := recBits r 11 3
/-- N of a diagonal recurrence, C of a cascade. -/
def rlWidth (r : List Byte) : Nat := if rlKind r = 1 then recBits r 16 6 + 1 else recBits r 16 12 + 1
/-- S of a cascade. -/
def rlSections (r : List Byte) : Nat := recBits r 22 4 + 1
/-- ENTRY. -/
def rlEntry (r : List Byte) : Nat := recN r 8 8
/-- STATE. -/
def rlState (r : List Byte) : Nat := recN r 16 8
/-- COEF. -/
def rlCoef (r : List Byte) : Nat := recN r 24 8
/-- GEN. -/
def rlGen (r : List Byte) : Nat := recN r 32 2
/-- RSTATE: 0 NEW, 1 IDLE, 2 RUN, 3 OUT, 4 IN, 5 GONE. -/
def rlRstate (r : List Byte) : Nat := recBits r 272 3
/-- SEQ. -/
def rlSeq (r : List Byte) : Nat := recN r 40 8

/-- Table index of a handle. -/
def hIdx (h : Nat) : Nat := bitsAt h 0 12
/-- Whether a handle names a valid entry of its generation (R328). -/
def State.reelLive (s : State) (p h : Nat) : Bool :=
  let r := s.reelRec p (hIdx h)
  rlV r && rlGen r == bitsAt h 12 16 && bitsAt h 28 4 == 0

/-- RSTATE written by the part. -/
def State.setRstate (s : State) (p idx st : Nat) : State := s.wrVal (s.reelAddr p idx + 34) 1 st
/-- SEQ written by the part. -/
def State.setReelSeq (s : State) (p idx seq : Nat) : State := s.wrVal (s.reelAddr p idx + 40) 8 seq

/-- Dynamic state of a Reel. -/
def State.reel (s : State) (p idx : Nat) : ReelDyn := (s.part p).reels.get ReelDyn.init idx
/-- Dynamic state of a Reel updated. -/
def State.updReel (s : State) (p idx : Nat) (f : ReelDyn → ReelDyn) : State :=
  s.updPart p (fun x => { x with reels := x.reels.upd ReelDyn.init idx f })

/-- Bytes of a checkpoint bank: a header and one image per bound slot at the image pitch (R342). -/
def bankBytes (n : Nat) : Nat := 64 + n * imagePitch
where
  /-- Pitch of the images of a bank (R342). -/
  imagePitch : Nat := 196672

/-- Virtual address of image i of the reset image, which follows the two banks (R342). -/
def resetImage (r : List Byte) (i : Nat) : Nat := rlState r + 2 * bankBytes (rlSlots r) + i * 196672

end Sys2Proof.Machine
end

