-- ==== Sys2Proof/Machine/Matrix.lean ====
section
/-! DEFINITION. The issue of the instructions that enter the array queue, and of ACC.CLAIM and ACC.FREE (R57 to R65,
R171 to R176, R237 to R269, R303, R306, R318 to R321, R371 to R378, R416, R420). -/
namespace Sys2Proof.Machine

/-! ### Operands at issue -/

/-- An instruction that would enter a full queue waits in WAIT_MTX (R242). -/
def State.waitQueue (s : State) (k t : Nat) : State := s.updThr k t (fun x => { x with st := .waitMtx, wait := .mtx })

/-- Encoding first, then room in the queue, then the rest (R186, R242). -/
def queueSem (ill : Bool) (h : Hart) (s : State) (f : State → Res) : Res :=
  if ill then .fault fcIllegal 0
  else if (s.core h.key).queue.length ≥ 16 then .block (s.waitQueue h.key h.thr.val)
  else f s

/-- The first operand range that reaches the addresses reserved for S-level code (R86): PRIV comes before the faults of a
descriptor that was read (R926). -/
def privOf (rs : List Range) : Option Nat := (rs.find? (fun r => inSRange r.va r.len)).map (fun r => r.va)

/-- The precise fault of operands: PRIV, ACC_OWNER, ALIGN, then the translation faults of the ranges in their order
(R926). Addresses and strides are given with the number that they must be a multiple of. -/
def State.operandFault (s : State) (k t : Nat) (slots : List Nat) (aligned : List (Nat × Nat)) (rs : List Range) :
    Option (Nat × Nat) :=
  match privOf rs with
  | some va => some (fcPriv, va)
  | none =>
    if slots.any (fun n => (s.slot k n).owner != some t) then some (fcOwner, 0)
    else match aligned.find? (fun a => a.1 % a.2 != 0) with
      | some a => some (fcAlign, a.1)
      | none => s.rangeFault k rs

/-- An entry put at the end of the queue; the registers that it leaves pending are noted (R51, R173, R376). -/
def State.pushEntry (s : State) (k t : Nat) (w : W64) (e : QEntry) (pend : List Nat) : State :=
  let n := (s.core k).serial
  let pc := (s.thr k t).pc
  (s.updCore k (fun c => { c with
    serial := n + 1, queue := c.queue ++ [{ e with serial := n, thr := t, pc := pc.setWidth 48, w := w }] })).updThr k t
    (fun x => { x with pendV := x.pendV ++ pend })

/-- The operands of an entry: the values of registers A, B and C of the matrix word. -/
def mxEntry (th : Thread) (w : W64) : QEntry :=
  { QEntry.init with va := th.g (qA w), vb := th.g (qB w), vc := th.g (qC w) }

/-- Row ranges from an address and a stride. -/
def rowRanges (va vb rows len : Nat) (reach : Reach) (write : Bool) : List Range :=
  (upTo rows).map (fun r => { va := (va + r * vb) % 2 ^ 64, len := len, reach := reach, write := write })

/-- An instruction of the matrix word: its entry enters the queue when no operand faults. -/
def mxSem (ill : Bool) (w : W64) (h : Hart) (s : State) (slots : List Nat) (aligned : List (Nat × Nat)) (rs : List Range)
    (e : QEntry) (pend : List Nat) : Res :=
  queueSem ill h s (fun s =>
    match s.operandFault h.key h.thr.val slots aligned rs with
    | some f => .fault f.1 f.2
    | none => .done (s.pushEntry h.key h.thr.val w e pend))

/-! ### MLOADW and MMUL -/

/-- MLOADW at issue (R245, R246, R442, R475). -/
def mloadwSem (w : W64) (h : Hart) (s : State) : Res :=
  let th := s.thr h.key h.thr.val
  let e := mxEntry th w
  let fmt := qFmt w
  let a := e.va.toNat
  let n := rowBytes fmt
  let ill := unusedSet w (mO + mqBuf + mqFmt + mqE + mqA + mqB) || !kFmt fmt || (qE w && (fmt != 1 || e.vb != 0#64))
  mxSem ill w h s [] [(a, 8), (e.vb.toNat, 8)]
    (if qE w then [{ va := a, len := 8208, reach := .device, write := false }]
     else rowRanges a (if e.vb = 0#64 then n else e.vb.toNat) 64 n .device false) e []

/-- MMUL at issue (R249 to R254, R171). -/
def mmulSem (w : W64) (h : Hart) (s : State) : Res :=
  let th := s.thr h.key h.thr.val
  let e := mxEntry th w
  let fmt := qFmt w
  let ill := unusedSet w (mO + mqSlot + mqOvw + mqRs + mqRv + mqA + mqB + mqM + mqFmt + mqBuf + mqKv) || !kFmt fmt ||
    decide (qKv w ≥ kB fmt) || (qRs w && fmt != 7 && fmt != 8)
  mxSem ill w h s [qSlot w] [(e.va.toNat, 8), (e.vb.toNat, 8)]
    (rowRanges e.va.toNat e.vb.toNat (qM w) (rowBytes fmt) .ownCore false) e (if qRs w then [qRv w] else [])

/-- The vector register that MMUL and DRAIN.Q name with RS = 1. -/
def rsRegs (w : W64) : List Nat := if qRs w then [qRv w] else []

/-! ### ACC.CLAIM and ACC.FREE -/

/-- A slot loses its owner; where a thread waits for it, the one whose claim issued first takes it and goes on (R60). -/
def State.freeSlot (s : State) (k n : Nat) : State :=
  let s := s.updSlot k n (fun x => { x with owner := none })
  match (s.core k).claims.find? (fun c => c.1 == n) with
  | some (_, t) =>
    if (s.slot k n).reel.isSome then s
    else
      ((s.updCore k (fun c => { c with claims := c.claims.filter (fun x => x != (n, t)) })).updSlot k n
        (fun x => { x with owner := some t })).updThr k t (fun th => if th.wait = .slot n then th.wake else th)
  | none => s

/-- ACC.CLAIM at issue (R58, R59, R65, R259, R260). -/
def claimSem (w : W64) (h : Hart) (s : State) : Res :=
  let k := h.key
  let t := h.thr.val
  let n := qSlot w
  let sl := s.slot k n
  let mine : Bool := match sl.reel with
    | some r => (match s.chunkOf k t with
        | some c => hIdx c.handle.toNat == r
        | none => false)
    | none => true
  if unusedSet w (mO + mqSlot) then .fault fcIllegal 0
  else if !mine then .fault fcOwner 0
  else match sl.owner with
    | none => .done (s.updSlot k n (fun x => { x with owner := some t }))
    | some o =>
      if o = t then .done s
      else .done ((s.updCore k (fun c => { c with claims := c.claims ++ [(n, t)] })).updThr k t (fun x => { x with
        st := .waitSync, wait := .slot n }))

/-- ACC.FREE at issue (R60, R261). Ownership of a slot orders its writes (R107). -/
def freeSem (w : W64) (h : Hart) (s : State) : Res :=
  let n := qSlot w
  if unusedSet w (mO + mqSlot) then .fault fcIllegal 0
  else if (s.slot h.key n).owner ≠ some h.thr.val then .fault fcOwner 0
  else .done ((s.order h.key h.thr.val).freeSlot h.key n)

/-! ### Slots, ladders and drains -/

/-- The fields of ACC.ZERO (R238). -/
def zKind (w : W64) : Nat := bitsAt w.toNat 32 2
/-- MODE. -/
def zMode (w : W64) : Bool := bitAt w.toNat 34
/-- F. -/
def zF (w : W64) : Nat := bitsAt w.toNat 35 6
/-- BASE. -/
def zBase (w : W64) : Nat := bitsAt w.toNat 48 12
/-- Mask of the fields of R238. -/
def mZero : Nat := mO + mqSlot + mqA + 0x1FF * 2 ^ 32 + 0xFFF * 2 ^ 48

/-- ACC.ZERO at issue (R238, R239). No rule refuses F = 63, which Table FMT-4 does not list: the slot's binary point is 63
(log 77, DESIGN CHOICE). -/
def zeroSem (w : W64) (h : Hart) (s : State) : Res :=
  let e := mxEntry (s.thr h.key h.thr.val) w
  mxSem (unusedSet w mZero || zKind w == 3 || (zMode w && zKind w != 0) || (zF w != 0 && zKind w != 2)) w h s
    [qSlot w] [] [] e []

/-- LADDER.SAVE, LADDER.MERGE and LADDER.LOAD at issue (R241, R262, R263). -/
def ladderSem (mask : Nat) (write : Bool) (w : W64) (h : Hart) (s : State) : Res :=
  let e := mxEntry (s.thr h.key h.thr.val) w
  mxSem (unusedSet w mask) w h s [qSlot w] [(e.va.toNat, 64)]
    [{ va := e.va.toNat, len := imageMax, reach := .device, write := write }] e []

/-- DRAIN at issue (R241, R266, R269). -/
def drainSem (w : W64) (h : Hart) (s : State) : Res :=
  let e := mxEntry (s.thr h.key h.thr.val) w
  mxSem (unusedSet w (mO + mqSlot + mqA + mqB + mqM + mqFmt + mqFus) || decide (qFmt w > 2)) w h s [qSlot w]
    [(e.va.toNat, 32), (e.vb.toNat, 32)]
    (rowRanges e.va.toNat e.vb.toNat (qM w) (if qFmt w = 2 then 512 else 256) .ownCore true) e []

/-- DRAIN.Q at issue: the row sums are read now (R176, R241, R268, R269). -/
def drainQSem (w : W64) (h : Hart) (s : State) : Res :=
  let th := s.thr h.key h.thr.val
  let e := { mxEntry th w with rs := if qRs w then th.v (qRv w) else 0#2048 }
  mxSem (unusedSet w (mO + mqSlot + mqRs + mqRv + mqA + mqB + mqC + mqM + mqFus)) w h s [qSlot w]
    [(e.va.toNat, 32), (e.vb.toNat, 32), (e.vc.toNat, 64)]
    (rowRanges e.va.toNat e.vb.toNat (qM w) 256 .ownCore true ++
      [{ va := e.vc.toNat, len := 896, reach := .ownCore, write := false }]) e []

/-- MLOADW. -/
def execMloadw (a : Agent) (w : W64) (s : State) : Out := issueMeaning 0x90 a w s [] [] (mloadwSem w) noCtl
/-- MMUL. -/
def execMmul (a : Agent) (w : W64) (s : State) : Out := issueMeaning 0x91 a w s (rsRegs w) [] (mmulSem w) noCtl
/-- ACC_CLAIM. -/
def execAccClaim (a : Agent) (w : W64) (s : State) : Out := issueMeaning 0xA0 a w s [] [] (claimSem w) noCtl
/-- ACC_FREE. -/
def execAccFree (a : Agent) (w : W64) (s : State) : Out := issueMeaning 0xA1 a w s [] [] (freeSem w) noCtl
/-- ACC_ZERO. -/
def execAccZero (a : Agent) (w : W64) (s : State) : Out := issueMeaning 0xA2 a w s [] [] (zeroSem w) noCtl
/-- LADDER_SAVE. -/
def execLadderSave (a : Agent) (w : W64) (s : State) : Out :=
  issueMeaning 0xA3 a w s [] [] (ladderSem (mO + mqSlot + mqA) true w) noCtl
/-- LADDER_MERGE. -/
def execLadderMerge (a : Agent) (w : W64) (s : State) : Out :=
  issueMeaning 0xA4 a w s [] [] (ladderSem (mO + mqSlot + mqOvw + mqA) false w) noCtl
/-- DRAIN. -/
def execDrain (a : Agent) (w : W64) (s : State) : Out := issueMeaning 0xA5 a w s [] [] (drainSem w) noCtl
/-- DRAIN_Q. -/
def execDrainQ (a : Agent) (w : W64) (s : State) : Out := issueMeaning 0xA6 a w s (rsRegs w) [] (drainQSem w) noCtl
/-- LADDER_LOAD. -/
def execLadderLoad (a : Agent) (w : W64) (s : State) : Out :=
  issueMeaning 0xA7 a w s [] [] (ladderSem (mO + mqSlot + mqA) false w) noCtl

/-! ### ATTN.STEP -/

/-- ATTN_DESC. -/
def fcAttn : Nat := 0x29
/-- ATTN_ORDER. -/
def fcOrder : Nat := 0x2A
/-- ATTN_STATE. -/
def fcState : Nat := 0x2B

/-- Operand ranges of the own core store. -/
def ownRanges (l : List (Nat × Nat × Bool)) : List Range :=
  l.map (fun r => { va := r.1, len := r.2.1, reach := .ownCore, write := r.2.2 })

/-- ATTN.STEP at issue with operation op (R371 to R376). -/
def attnSem (op : Nat) (w : W64) (h : Hart) (s : State) : Res :=
  let k := h.key
  let t := h.thr.val
  let ill := unusedSet w (mO + mD + mA + 0x3 * 2 ^ 28) || fX w % 4 != op || fD w % 2 != 0 || decide (fD w > 14)
  queueSem ill h s (fun s =>
    descSem k t ((s.thr k t).g (fA w)).toNat 128 128 s (fun d =>
      if let some va := privOf (ownRanges (attnRanges op d)) then .fault fcPriv va
      else if attnBad d then .fault fcAttn 0
      else match s.operandFault k t (attnSlots d) ((attnAligned op d).map (fun a => (a, 64))) (ownRanges (attnRanges op d)) with
        | some f => .fault f.1 f.2
        | none => .done (s.pushEntry k t w { QEntry.init with desc := d } [fD w, fD w + 1])))

/-- The meaning of a row of ATTN.STEP: a word of another operation belongs to another row; X[1:0] = 3 is ILLEGAL in every
row (R372). -/
def attnRow (op : Nat) (a : Agent) (w : W64) (s : State) : Out :=
  if opcOf w = 0xB0 ∧ fX w % 4 ≠ op ∧ fX w % 4 ≠ 3 then .fault .malformed
  else issueMeaning 0xB0 a w s [fD w, fD w + 1] [] (attnSem op w) noCtl

/-- ATTN_INIT. -/
def execAttnInit (a : Agent) (w : W64) (s : State) : Out := attnRow 0 a w s
/-- ATTN_STEP. -/
def execAttnStep (a : Agent) (w : W64) (s : State) : Out := attnRow 1 a w s
/-- ATTN_FINISH. -/
def execAttnFinish (a : Agent) (w : W64) (s : State) : Out := attnRow 2 a w s

/-! ### The element-wise pipeline -/

/-- FUSE.SET at issue (R303, R304). -/
def fuseSem (w : W64) (h : Hart) (s : State) : Res :=
  let a := (s.thr h.key h.thr.val).g (fA w)
  mxSem (unusedSet w (mO + mA + mIn 4) || fImm w % 16 == 0) w h s [] []
    [{ va := a.toNat, len := 64, reach := .ownCore, write := false }] { QEntry.init with va := a } []

/-- GATE.LOAD at issue (R304, R306). -/
def gateSem (w : W64) (h : Hart) (s : State) : Res :=
  let th := s.thr h.key h.thr.val
  let a := th.g (fA w)
  let b := th.g (fB w)
  mxSem (unusedSet w (mO + mA + mB + mIn 6)) w h s [] []
    (rowRanges a.toNat b.toNat (fImm w % 64 + 1) 256 .ownCore false) { QEntry.init with va := a, vb := b } []

/-- REC.RUN at issue (R318 to R321). NO_CHUNK comes before PRIV, which R926 has in the same item (log 82, DESIGN CHOICE). -/
def recSem (w : W64) (h : Hart) (s : State) : Res :=
  let k := h.key
  let t := h.thr.val
  let p := s.partOf k
  queueSem (unusedSet w (mO + mA)) h s (fun s =>
    match s.chunkOf k t with
    | none => .fault fcNoChunk 0
    | some c =>
      let idx := hIdx c.handle.toNat
      let r := s.reelRec p idx
      if rlKind r ≥ 2 then .fault fcNoChunk 0
      else descSem k t ((s.thr k t).g (fA w)).toNat 64 1 s (fun d =>
        if let some va := privOf (ownRanges (runRanges d (rlWidth r))) then .fault fcPriv va
        else if runBad d (rlKind r == 1) c.len.toNat then .fault fcRun 0
        else match s.operandFault k t [] [] (ownRanges (runRanges d (rlWidth r))) with
          | some f => .fault f.1 f.2
          | none => .done (s.pushEntry k t w { QEntry.init with desc := d, reel := some idx } [])))

/-- NMS at issue: the descriptor is read now (R416, R420). -/
def nmsSem (w : W64) (h : Hart) (s : State) : Res :=
  let k := h.key
  let t := h.thr.val
  queueSem (unusedSet w (mO + mA)) h s (fun s =>
    descSem k t ((s.thr k t).g (fA w)).toNat 64 1 s (fun d =>
      if let some va := privOf (ownRanges (nmsRanges d)) then .fault fcPriv va
      else if nmsBad d then .fault fcWin 0
      else match s.operandFault k t [] [] (ownRanges (nmsRanges d)) with
        | some f => .fault f.1 f.2
        | none => .done (s.pushEntry k t w { QEntry.init with desc := d } [])))

/-- FUSE_SET. -/
def execFuseSet (a : Agent) (w : W64) (s : State) : Out := issueMeaning 0xB1 a w s [] [] (fuseSem w) noCtl
/-- REC_RUN. -/
def execRecRun (a : Agent) (w : W64) (s : State) : Out := issueMeaning 0xB2 a w s [] [] (recSem w) noCtl
/-- GATE_LOAD. -/
def execGateLoad (a : Agent) (w : W64) (s : State) : Out := issueMeaning 0xB7 a w s [] [] (gateSem w) noCtl
/-- NMS. -/
def execNms (a : Agent) (w : W64) (s : State) : Out := issueMeaning 0xBA a w s [] [] (nmsSem w) noCtl

end Sys2Proof.Machine
end

