-- ==== Sys2Proof/Machine/Queue.lean ====
section
/-! DEFINITION. The array queue: how its entries begin, find deferred faults, and complete (R161 to R163, R173 to R179,
R243 to R257, R264 to R270, R279, R280, R301 to R311, R322 to R326, R377 to R388, R416 to R421, R828, R919, R925). -/
namespace Sys2Proof.Machine

/-! ### Entries -/

/-- FUSE_DESC, QDESC and the entries' opcodes that occupy the drain path (R264, R270, R311, R326, R377, R416). -/
def pathOpc (o : Nat) : Bool :=
  (decide (0xA3 ≤ o) && decide (o ≤ 0xA7)) || o == 0xB0 || o == 0xB1 || o == 0xB2 || o == 0xB7 || o == 0xBA

/-- The slots that an entry names (R161, R318, R377). -/
def State.entrySlots (s : State) (k : Nat) (e : QEntry) : List Nat :=
  match opcOf e.w with
  | 0x90 => []
  | 0xB0 => attnSlots e.desc
  | 0xB1 => []
  | 0xB7 => []
  | 0xBA => []
  | 0xB2 => (match e.reel with
    | some r => (s.reel (s.partOf k) r).slots.take 1
    | none => [])
  | _ => [qSlot e.w]

/-- The vector registers that an entry leaves pending (R173, R376). -/
def QEntry.pend (e : QEntry) : List Nat :=
  if opcOf e.w = 0x91 then rsRegs e.w else if opcOf e.w = 0xB0 then [fD e.w, fD e.w + 1] else []

/-- The entries issued before an entry and not complete. -/
def State.earlier (s : State) (k : Nat) (e : QEntry) : List QEntry :=
  (s.core k).queue.filter (fun x => decide (x.serial < e.serial))

/-- Whether an earlier entry that names one of the entry's slots is not complete. -/
def State.slotBusy (s : State) (k : Nat) (e : QEntry) : Bool :=
  let mine := s.entrySlots k e
  (s.earlier k e).any (fun x => (s.entrySlots k x).any (fun n => mine.contains n))

/-- Whether the entry's own rule lets it begin (R243, R247, R255, R258, R270, R326, R377, R416). -/
def State.mayBegin (s : State) (k : Nat) (e : QEntry) : Bool :=
  let o := opcOf e.w
  let q := (s.core k).queue.filter (fun x => x.begun)
  let path : Bool := q.any (fun x => pathOpc (opcOf x.w))
  let attn : Bool := q.any (fun x => opcOf x.w == 0xB0)
  let load : Bool := q.any (fun x => opcOf x.w == 0x90)
  let mine := s.entrySlots k e
  if o = 0x90 then !attn && !load
  else if o = 0x91 then
    !attn && !q.any (fun x => opcOf x.w == 0x90 && qBuf x.w == qBuf e.w) &&
    !(s.earlier k e).any (fun x => x.thr != e.thr && (s.entrySlots k x).any (fun n => mine.contains n))
  else if o = 0xA2 then !s.slotBusy k e
  else if o = 0xB0 then !path && !load && !q.any (fun x => opcOf x.w == 0x91) && !s.slotBusy k e
  else !path && !s.slotBusy k e

/-! ### The effect of an entry on its slot -/

/-- The rows of an MMUL: activation rows as read when it began. -/
def QEntry.aRow (e : QEntry) (r : Nat) : List Byte := sliceB e.opnd (r * rowBytes (qFmt e.w)) (rowBytes (qFmt e.w))

/-- The block sums of an MMUL, +0 in rows M to 63 (R249, R252). -/
def QEntry.sumF (e : QEntry) (i : Nat) : W32 :=
  if i / 64 < qM e.w then blockSumF (qFmt e.w) (qKv e.w) (e.aRow (i / 64)) (e.tile.get [] (i % 64)) else 0#32
/-- The same for integer formats. -/
def QEntry.sumI (e : QEntry) (i : Nat) : Int :=
  if i / 64 < qM e.w then blockSumI (qFmt e.w) (qKv e.w) (e.aRow (i / 64)) (e.tile.get [] (i % 64)) else 0

/-- The slot after an entry of the matrix or accumulator class; unchanged when the entry would fault (R140 to R142, R158,
R238, R262). -/
def QEntry.onSlot (e : QEntry) (s : Slot) : Slot :=
  match opcOf e.w with
  | 0x91 => ((if qOvw e.w then s.restarted else s).addBlock (qFmt e.w) e.sumF e.sumI).getD s
  | 0xA2 => s.zeroed (zKind e.w) (zMode e.w) (zF e.w) (zBase e.w) (e.va.toNat % 2 ^ 32)
  | 0xA4 =>
    let img := Slot.init.ofImage e.opnd
    (match (if qOvw e.w then mergeSlots s img s else mergeSlots s s img) with
      | .inl x => x
      | .inr _ => s)
  | 0xA7 => s.ofImage e.opnd
  | _ => s

/-- The slot that an entry will find: the entries of it that have begun and not completed applied in order (R161). -/
def State.slotFor (s : State) (k : Nat) (e : QEntry) (n : Nat) : Slot :=
  ((s.earlier k e).filter (fun x => (s.entrySlots k x).contains n)).foldl (fun a x => x.onSlot a) (s.slot k n)

/-! ### Operands -/

/-- The bytes of a coded tile, by offset. -/
def State.codedRd (s : State) (k va i : Nat) : Byte := if i < 8208 then s.vrd (s.partOf k) ((va + i) % 2 ^ 64) else 0#8

/-- The rows of a coded tile decoded (R465, R475, R482). -/
def State.codedTile (s : State) (k va : Nat) : List Byte := tileVals (s.codedRd k va)

/-- The bytes of its two blocks. -/
def State.codedSizes (s : State) (k va : Nat) : List Nat :=
  let n0 := blockSize (s.codedRd k va) 0
  [n0, blockSize (s.codedRd k va) n0]

/-- The bytes of blocks of the given sizes that lie in the tile. -/
def codedBytes (l : List Nat) : Nat := min 8208 (l.foldl (fun a x => a + x) 0)

/-- The ranges that an entry reads from memory when it begins, in the order read, or later for ATTN.STEP and REC.RUN. -/
def State.readRanges (s : State) (k : Nat) (e : QEntry) : List (Nat × Nat) :=
  let va := e.va.toNat
  match opcOf e.w with
  | 0x90 => if qE e.w then [(va, codedBytes (s.codedSizes k va))] else s.operandRows k e
  | 0xA4 => [(va, 64), (va + 64, imageLen (s.vrdN (s.partOf k) va 64) - 64)]
  | 0xA7 => [(va, 64), (va + 64, imageLen (s.vrdN (s.partOf k) va 64) - 64)]
  | 0xB0 => (attnRanges (fX e.w % 4) e.desc).filterMap (fun r => if r.2.2 then none else some (r.1, r.2.1)) ++
      (if fX e.w % 4 = 1 ∧ atXr e.desc then [(atScr e.desc, 327680)] else [])
  | 0xB1 =>
    let d := s.vrdN (s.partOf k) va 64
    [(va, 64)] ++ (if recBits d 4 1 = 1 then [(recN d 16 8, 256)] else []) ++
      (if recBits d 5 1 = 1 then [(recN d 24 8, 256)] else [])
  | 0xB2 => (match e.reel with
    | some i =>
      let r := s.reelRec (s.partOf k) i
      (runRanges e.desc (rlWidth r)).filterMap (fun x => if x.2.2 then none else some (x.1, x.2.1)) ++
        (if rlKind r = 1 then [(rlCoef r, 1280 * rlSections r)] else if rnStep e.desc then [] else [(rlCoef r, 8 * rlWidth r)])
    | none => [])
  | 0xB7 => (upTo (fImm e.w % 64 + 1)).map (fun r => ((va + r * e.vb.toNat) % 2 ^ 64, 256))
  | _ => s.operandRows k e

/-- The ranges that an entry writes in memory. -/
def State.writeRanges (s : State) (k : Nat) (e : QEntry) : List (Nat × Nat) :=
  let rows (n : Nat) := (upTo (qM e.w)).map (fun r => ((e.va.toNat + r * e.vb.toNat) % 2 ^ 64, n))
  match opcOf e.w with
  | 0xA3 => [(e.va.toNat, (s.slotFor k e (qSlot e.w)).imageBytes)]
  | 0xA5 => rows (if qFmt e.w = 2 then 512 else 256)
  | 0xA6 => rows 256
  | 0xB0 => (attnRanges (fX e.w % 4) e.desc).filterMap (fun r => if r.2.2 then some (r.1, r.2.1) else none)
  | 0xB2 => (match e.reel with
    | some i => (runRanges e.desc (rlWidth (s.reelRec (s.partOf k) i))).filterMap (fun x => if x.2.2 then some (x.1, x.2.1) else none)
    | none => [])
  | 0xBA => (nmsRanges e.desc).filterMap (fun x => if x.2.2 then some (x.1, x.2.1) else none)
  | _ => []

/-- The bytes of a list of ranges, up to the first that cannot be read: bytes, code and address of its fault. SADDR and BADDR of
FUSE.SET (R303) are read in any home of the partition (log 82, DESIGN CHOICE). -/
def State.gather (s : State) (k : Nat) (l : List (Nat × Nat)) : List Byte × Option (Nat × Nat) :=
  l.foldl (fun acc r => match acc.2 with
    | some _ => acc
    | none =>
      let x := s.readUpto k .any r.1 r.2
      (acc.1 ++ x.1, x.2.map (fun c => (c, r.1 + x.1.length)))) ([], none)

/-! ### Deferred faults -/

/-- The deferred fault that an entry finds before it reads operand data, in the order of R919 (R127, R134, R141, R148 to
R150, R175, R253, R265, R267, R308, R309, R385, R388, R918). -/
def State.entryFault (s : State) (k : Nat) (e : QEntry) (l : List Byte) : Option Nat :=
  let sl := s.slotFor k e (qSlot e.w)
  let noFus : Bool := qFus e.w != 0 && !(s.core k).fusLoaded.contains (qFus e.w)
  let fe := (s.core k).fus.get FusEntry.init (qFus e.w)
  match opcOf e.w with
  | 0x91 =>
    if ((s.core k).sbuf.get StatBuf.init (qBuf e.w)).fmt ≠ some (BitVec.ofNat 4 (qFmt e.w)) then some fcKind
    else if !kindAccepts sl.kind.toNat (qFmt e.w) then some fcKind
    else if ((if qOvw e.w then sl.restarted else sl).addBlock (qFmt e.w) (fun _ => 0#32) (fun _ => 0)).isNone then some fcFull
    else none
  | 0xA4 =>
    let img := Slot.init.ofImage l
    (match (if qOvw e.w then mergeSlots sl img sl else mergeSlots sl sl img) with
      | .inl _ => none
      | .inr c => some c)
  | 0xA7 => loadFault l
  | 0xA5 =>
    if !formOk sl.kind.toNat (qFmt e.w) then some fcKind
    else if noFus || (qFus e.w != 0 && qFmt e.w != 0) then some fcFuse
    else none
  | 0xA6 =>
    if qdBadIn sl l then some fcQdesc
    else if noFus || (qFus e.w != 0 && (fe.scale.isSome || fe.bias.isSome || fe.ofmt != 0)) then some fcFuse
    else none
  | 0xB1 =>
    if recBits l 0 4 > 8 ∨ recBits l 8 4 > 4 ∨ isNanW (BitVec.ofNat 32 (recN l 4 4)) ∨ isNanW (BitVec.ofNat 32 (recN l 8 4)) ∨
      Fp.lt (fp (BitVec.ofNat 32 (recN l 8 4))) (fp (BitVec.ofNat 32 (recN l 4 4))) then some fcFuse
    else none
  | 0xB0 =>
    let outs := (upTo (atDq e.desc)).map (fun i => s.slotFor k e (atSlot e.desc + i))
    if fX e.w % 4 = 0 then none
    else if attnStateBad e.desc outs then some fcState
    else if fX e.w % 4 = 1 ∧ attnOrderBad e.desc outs then some fcOrder
    else none
  | _ => none

/-- Threads that the queue kept waiting go on: one whose next instruction found the queue full, one at MWAIT with no entry
left (R205, R242, R244), unless a deferred fault halts it there (R279). -/
def State.wakeQueue (s : State) (k : Nat) : State :=
  s.updCore k (fun c => { c with threads := c.threads.mapV (fun t th =>
    if th.wait = .mtx then th.wake
    else if th.wait = .mwait ∧ th.deferred.isNone ∧ !c.queue.any (fun e => e.thr == t) then th.wake
    else th) })

/-- A deferred fault: the entry and the thread's later ones are discarded, their registers released unwritten, and the
thread will halt (R279, R280). -/
def State.deferFault (s : State) (k : Nat) (e : QEntry) (code va : Nat) : State :=
  let s := if code = fcTier ∨ code = fcPage then s.noteOutside (s.partOf k) va else s
  let s := (s.keepEntries k (fun x => x.thr != e.thr || decide (x.serial < e.serial))).updCore k (fun c => { c with
    qStall := [], qStallEnd := 0 })
  let s := s.updThr k e.thr (fun th => { th with
    pendV := ((s.core k).queue.filter (fun x => x.thr == e.thr)).flatMap QEntry.pend
    deferred := if th.deferred.isSome then th.deferred else some (BitVec.ofNat 8 code, e.pc, BitVec.ofNat 48 va) })
  s.wakeQueue k

/-! ### Beginning -/

/-- The cycles that an entry occupies its unit (R248, R255, R264, R270, R311, R326, R388, R393, R441, R476). -/
def State.entryCycles (s : State) (k : Nat) (e : QEntry) (l : List Byte) : Nat :=
  let sl := s.slotFor k e (qSlot e.w)
  match opcOf e.w with
  | 0x90 =>
    let d := s.va? (s.partOf k) e.va.toNat
    let own : Bool := match d with
      | some a => (match regionOf a with | .core j _ => j == k | _ => false)
      | none => true
    let pr := if own then (512, 0) else s.pair k d (some (coreStore k 0))
    if qE e.w then (s.codedSizes k e.va.toNat).foldl (fun a n => a + blockCycles n 128) pr.2
    else pr.2 + ceilDiv (64 * rowBytes (qFmt e.w)) pr.1
  | 0x91 => qM e.w
  | 0xA3 => ceilDiv sl.imageBytes 256
  | 0xA4 => ceilDiv (imageLen l) 256
  | 0xA7 => ceilDiv (imageLen l) 256
  | 0xA5 => drainCycles sl (qFmt e.w == 2)
  | 0xA6 => drainCycles sl false + 8
  | 0xB0 => attnCycles (fX e.w % 4) e.desc
  | 0xB1 => 3
  | 0xB7 => fImm e.w % 64 + 1
  | 0xB2 => (match e.reel with
    | some i =>
      let r := s.reelRec (s.partOf k) i
      let mark := (s.chunkOf k e.thr).map (fun c => c.mark.toNat)
      runCycles (rlKind r == 1) (rnScan e.desc) (rlWidth r) (rlSections r) (rnOff e.desc) (rnLen e.desc) mark
    | none => 0)
  | 0xBA =>
    let r := nmsRun e.desc (l.take (16 * nmN e.desc)) (l.drop (16 * nmN e.desc))
    64 + 3 * nmN e.desc + 4 * r.2.length * ceilDiv r.1.length 64
  | _ => 1

/-- The number of an entry that QBEGIN and QEND record: opcode and slot. -/
def State.qData (s : State) (k : Nat) (e : QEntry) : Nat := opcOf e.w + 2 ^ 8 * ((s.entrySlots k e).headD 0)

/-- An MLOADW that takes the expander, now or when it began to wait for the block that it met: of an expansion it leaves the blocks
that have not ended then (R480). -/
def State.takeExpander (s : State) (k : Nat) : State :=
  let end_ := (s.core k).qStallEnd
  s.updCore k (fun c => { c with dmaq := c.dmaq.map (fun o => o.dropTo (if end_ = 0 then s.clCycle (keyCl k) else end_)) })

/-- An entry begins with the operands that it read (R243, R245, R249, R306). Where another thread writes one of them, with
nothing to order them, what was read is open (R107). The cycles in which the expander will wait for a coded tile's input count
as EXP_STALL (R481). -/
def State.beginEntry (s : State) (k : Nat) (e : QEntry) (l : List Byte) : State :=
  let o := opcOf e.w
  let p := s.partOf k
  let open_ := e.tainted || (s.readRanges k e).any (fun r => s.openRead k e.thr r.1 r.2)
  let keep : List Byte :=
    if o = 0xB0 ∨ o = 0xB2 then []
    else if o = 0x90 ∧ qE e.w then s.codedTile k e.va.toNat
    else l
  let keep := if open_ ∧ (o = 0x90 ∨ o = 0xB1 ∨ o = 0xB7) then freeBytes (s.freeAt p) 0 keep.length else keep
  let cyc := s.entryCycles k e l
  let sizes := if o = 0x90 ∧ qE e.w then s.codedSizes k e.va.toNat else []
  let s1 := if o = 0x90 ∧ qE e.w then s.takeExpander k else s
  let s1 := s1.updCore k (fun c => { c with
    qStall := [], qStallEnd := 0
    queue := c.queue.map (fun x =>
      if x.serial = e.serial then { e with
        begun := true, opnd := keep, tile := if o = 0x91 then (c.sbuf.get StatBuf.init (qBuf e.w)).rows else []
        tainted := open_, cycles := cyc, sizes := sizes, due := s.clCycle (keyCl k) + cyc }
      else x) })
  let s1 := if open_ then s1.freshP p 1 else s1
  let s1 := s1.owe k 0x24 (sizes.foldl (fun a n => a + (ceilDiv n 128 - 32)) 0)
  s1.traceRec k 4 e.thr e.pc.toNat (s.qData k e)

/-- Bytes of a header that the checks of an entry need: of LADDER.MERGE up to its TAG, of LADDER.LOAD its first word, of FUSE.SET up to
HI. The checks of DRAIN.Q need what each of them names (R919). -/
def opcNeed (o : Nat) : Nat := if o = 0xA4 ∨ o = 0xB1 then 12 else if o = 0xA7 then 8 else 0

/-- The cluster cycle at which the block ends that an expansion decodes now; none while none is decoded, before its first block as
well (R479, R480). -/
def State.blockEnd (s : State) (k : Nat) : Option Nat :=
  let now := s.clCycle (keyCl k)
  (s.core k).dmaq.findSome? (fun o =>
    let x := o.dropTo now
    match x.blocks with
    | b :: _ => if x.blockAt ≤ now then some (x.blockAt + b) else none
    | [] => none)

/-- What an entry, free to begin by its own rule, waits for: the block that the expander decodes (R480), a page in motion
(R104), a bank under repair (R455); a coded tile's late data count as EXP_STALL in the same cycles (R481). The counters of the causes,
and the cycle at which the wait ends where that is known. -/
def State.entryWait (s : State) (k : Nat) (e : QEntry) : Option (List Nat × Nat) :=
  let end_ := (s.core k).qStallEnd
  let block : Option Nat :=
    if opcOf e.w = 0x90 ∧ qE e.w then
      (if end_ = 0 then s.blockEnd k else if s.clCycle (keyCl k) < end_ then some end_ else none)
    else none
  let rs := s.readRanges k e ++ s.writeRanges k e
  match block with
  | some t => some ([0x24], t)
  | none =>
    if rs.any (fun r => s.mvRange k r.1 r.2) then some ([0x25], end_)
    else if rs.any (fun r => s.vbankBusy (s.partOf k) r.1 r.2) then
      some (if opcOf e.w = 0x90 ∧ qE e.w then [0x20, 0x24] else [0x20], end_)
    else none

/-- Whether the queue of a core may begin an entry now: its engine runs, and neither a drain nor lossless Dailies holds it
(R829, R843). -/
def State.queueUp (s : State) (k : Nat) : Bool :=
  s.engineUp k && !(s.core k).draining && !s.traceHeld (keyCl k)

/-- The entry's checks, then its operands: a deferred fault, or the begin (R279, R448, R458, R919). -/
def State.tryEntry (s : State) (k : Nat) (e : QEntry) (fails : MemErr) : State :=
  let g := s.gather k (s.readRanges k e)
  let chk := s.entryFault k e g.1
  match (if g.1.length ≥ opcNeed (opcOf e.w) then chk else none) with
  | some code => s.deferFault k e code 0
  | none =>
    let t := s.meetV k (s.readRanges k e) fails
    let s := if opcOf e.w = 0x90 ∧ qE e.w then t.owe k 0x24 ((t.core k).owed.get 0 0x21 - (s.core k).owed.get 0 0x21) else t
    let g := s.gather k (s.readRanges k e)
    match g.2 with
    | some x =>
      let s := if x.1 = fcUe then s.tellUeV k x.2 1 (errFails fails) else s
      s.deferFault k e x.1 x.2
    | none => match (s.writeRanges k e).find? (fun r => s.vbadPart (s.partOf k) r.1 r.2) with
      | some r => (s.tellUeV k r.1 r.2 false).deferFault k e fcUe r.1
      | none => s.beginEntry k e g.1

/-- QUEUE_ENTRY_BEGIN: the oldest entry that has not begun begins, when its predecessors and its unit allow it. While it waits
for one of the counted causes alone, each cycle counts under it (R104, R445, R455, R480); a breakpoint of KIND 3 discards it
(R828); a check or an operand may fault (R279, R919). -/
def execQueueEntryBegin (c : CoreId) (fails : MemErr) (s : State) : Out :=
  let k := c.key
  whenLive s (
    if !s.queueUp k then s
    else match (s.core k).queue.find? (fun e => !e.begun) with
    | none => s
    | some e =>
      if !s.mayBegin k e then s
      else match s.entryWait k e with
        | some x => s.updCore k (fun c => { c with qStall := x.1, qStallEnd := x.2 })
        | none =>
          let b := s.bpScan k e.thr [(3, opcOf e.w, 1)]
          if b.2 then b.1.deferFault k e fcBreak 0 else b.1.tryEntry k e fails)

/-! ### Completing -/

/-- Rows written in memory from an address and a stride, counted under the core store's bytes written. -/
def State.putRows (s : State) (k t va vb : Nat) (rows : List (List Byte)) : State :=
  (rows.zip (upTo rows.length)).foldl (fun s x =>
    (s.writeQ k t ((va + x.2 * vb) % 2 ^ 64) x.1).count k (byteCnt 0 true) x.1.length) s

/-- SAT set in a slot (R136, R137, R179, R307). -/
def State.satSlot (s : State) (k n : Nat) (b : Bool) : State := if b then s.updSlot k n (fun x => { x with sat := true }) else s

/-- The gate buffer with rows 0 to m − 1 taken from f (R306). -/
def gateRows (g : SMap W32) (m : Nat) (f : Nat → W32) : SMap W32 :=
  List.filter (fun e => decide (e.1 < 64 * m)) (tileList 0 f) ++ List.filter (fun e => decide (e.1 ≥ 64 * m)) g

/-- The value of an element of a drain in FP32, before the output conversion. -/
def drainValue (sl : Slot) (fe : Option FusEntry) (g : SMap W32) (i : Nat) : W32 :=
  match fe with
  | some e => fuseDrain e g i (sl.value i)
  | none => sl.value i

/-- The completion of DRAIN (R266, R301, R306, R307). -/
def State.endDrain (s : State) (k : Nat) (e : QEntry) : State :=
  let n := qSlot e.w
  let sl := s.slot k n
  let m := qM e.w
  let c := s.core k
  let fe := if qFus e.w = 0 then none else c.fus.find (qFus e.w)
  let s := (s.count k 0x1A (64 * m)).count k 0x1B (match fe with | some x => if x.act = 0 then 0 else 64 * m | none => 0)
  if qFmt e.w = 2 then
    s.putRows k e.thr e.va.toNat e.vb.toNat ((upTo m).map (fun r => (upTo 64).flatMap (fun i =>
      leBytes 8 (wrapN 64 (sl.int (64 * r + i))))))
  else if qFmt e.w = 1 then
    let rows := (upTo m).map (rowOf64 (fun i => let x := int32Form sl i; (wrapN 32 x.1, x.2)))
    (s.putRows k e.thr e.va.toNat e.vb.toNat (rows.map (fun r => packRow 0 r.1))).satSlot k n (rows.any (fun r => r.2))
  else
    match fe with
    | some x =>
      if x.gate = 1 then
        s.updCore k (fun y => { y with gate := gateRows y.gate m (drainValue sl fe c.gate) })
      else
        let rows := (upTo m).map (rowOf64 (fun i => convOut x.ofmt (fp (drainValue sl fe c.gate i))))
        let out := if x.ofmt = 0 then (upTo m).map (fun r => packRow 0 ((upTo 64).map (fun i =>
            (drainValue sl fe c.gate (64 * r + i)).toNat))) else rows.map (fun r => packRow x.ofmt r.1)
        (s.putRows k e.thr e.va.toNat e.vb.toNat out).satSlot k n (x.ofmt != 0 && rows.any (fun r => r.2))
    | none => s.putRows k e.thr e.va.toNat e.vb.toNat ((upTo m).map (fun r => packRow 0 ((upTo 64).map (fun i =>
        (sl.value (64 * r + i)).toNat))))

/-- The completion of DRAIN.Q (R177, R179, R268, R302, R306, R307). A descriptor overwritten before it was read leaves the
rows free (R107, R176). -/
def State.endDrainQ (s : State) (k : Nat) (e : QEntry) : State :=
  let n := qSlot e.w
  let sl := s.slot k n
  let m := qM e.w
  let c := s.core k
  let p := s.partOf k
  let ctr := s.freeAt p
  let fe := if qFus e.w = 0 then none else c.fus.find (qFus e.w)
  let o := qdOfmt e.opnd
  let val := quantValue sl e.opnd e.rs fe c.gate
  let s := (s.count k 0x1A (64 * m)).count k 0x1B (match fe with | some x => if x.act = 0 then 0 else 64 * m | none => 0)
  let s := if e.tainted then s.freshP p 1 else s
  let capture : Bool := match fe with | some x => x.gate == 1 | none => false
  if capture then
    s.updCore k (fun y => { y with
      gate := gateRows y.gate m (fun i => if e.tainted then Config.freeWord ctr i else val i) })
  else if e.tainted then
    s.putRows k e.thr e.va.toNat e.vb.toNat ((upTo m).map (fun r => freeBytes ctr (256 * r) (8 * elemBits o)))
  else
    let rows := (upTo m).map (rowOf64 (fun i => quantOut e.opnd (val i)))
    (s.putRows k e.thr e.va.toNat e.vb.toNat (rows.map (fun r => packRow o r.1))).satSlot k n (rows.any (fun r => r.2))

/-- A slot whose contents an undefined case leaves open (R107): every entry is free. Of a merge whose image was written while it
was queued, BASE, COUNT, MASK and SAT, and its fault, follow the header as it is read (R163, log 77, DESIGN CHOICE). -/
def Slot.freed (s : Slot) (ctr : Nat) : Slot :=
  let tile (l : Nat) (m : SMap W32) : SMap W32 := putLevel m l (fun i => Config.freeWord ctr (4096 * l + i))
  if s.kind = 0#2 then { s with lad := if s.mode then tile 12 s.lad else s.levels.foldl (fun m l => tile l m) s.lad }
  else { s with acc := (upTo 4096).map (fun i =>
    (i, (Config.freeWord ctr i).setWidth 64 + (Config.freeWord ctr (4096 + i)).setWidth 64 <<< 32)) }

/-- The completion of MMUL (R171, R172, R249, R256, R257). -/
def State.endMmul (s : State) (k : Nat) (e : QEntry) : State :=
  let m := qM e.w
  let p := s.partOf k
  let ctr := s.freeAt p
  let s1 := s.updSlot k (qSlot e.w) (fun x => let y := e.onSlot x; if e.tainted then y.freed ctr else y)
  let s1 := if qRs e.w then s1.updThr k e.thr (fun th =>
      let v := th.v (qRv e.w)
      th.setV (qRv e.w) (ofLanes (fun r =>
        if r < m then (if e.tainted then Config.freeWord ctr (8192 + r)
          else lane v r + BitVec.ofInt 32 (rowSum (qFmt e.w) (qKv e.w) (e.aRow r)))
        else lane v r))) else s1
  let s1 := if e.tainted then s1.freshP p 1 else s1
  ((s1.count k 2 m).count k (0x10 + qFmt e.w) (m * 64 * kB (qFmt e.w))).count k (byteCnt 0 false) (m * rowBytes (qFmt e.w))

/-- The completion of MLOADW: the buffer holds the tile (R245). -/
def State.endMloadw (s : State) (k : Nat) (e : QEntry) : State :=
  let fmt := qFmt e.w
  let tier := match s.va? (s.partOf k) e.va.toNat with | some a => tierOf a | none => 2
  let b : StatBuf :=
    { fmt := some (BitVec.ofNat 4 fmt), rows := (upTo 64).map (fun r => (r, sliceB e.opnd (r * rowBytes fmt) (rowBytes fmt))) }
  let s := s.updCore k (fun c => { c with sbuf := c.sbuf.put (qBuf e.w) b })
  s.count k (byteCnt tier false) (if qE e.w then codedBytes e.sizes else 64 * rowBytes fmt)

/-- The completion of ATTN.STEP (R380 to R388, R925). -/
def State.endAttn (s : State) (k : Nat) (e : QEntry) : State :=
  let op := fX e.w % 4
  let d := e.desc
  let p := s.partOf k
  let m := atM d
  let th := s.thr k e.thr
  let vm := th.v (fD e.w)
  let vl := th.v (fD e.w + 1)
  let outs := (upTo (atDq d)).map (fun i => s.slot k (atSlot d + i))
  let work := atSlot d + atDq d
  let ctr := s.freeAt p
  let open_ := e.tainted || (s.readRanges k e).any (fun r => s.openRead k e.thr r.1 r.2)
  let s := (s.count k 2 e.cycles)
  if op = 0 then
    let s := (upTo (atDq d)).foldl (fun s i => s.updSlot k (atSlot d + i) (fun x => x.zeroed 0 true 0 (atPage d) (atTag d))) s
    let s := s.updSlot k work (fun x => x.zeroed 0 false 0 0 (atTag d))
    s.updThr k e.thr (fun t => (t.setV (fD e.w) (ofLanes (fun _ => 0xFF800000#32))).setV (fD e.w + 1) 0#2048)
  else if op = 2 then
    let s := (s.count k 0x1A (atD d * m)).count k 0x1B m
    s.putRows k e.thr (atOut d) (atOs d) ((upTo m).map (fun r => finishRow d outs (lane vl r) r))
  else
    let rd (va n : Nat) : List Byte := s.vrdN p va n
    let mask := if atMask d = 0 then [] else rd (atMask d) (32 * m)
    let kv := attnKv d (if atXr d then [] else rd (atPg d) (atPageBytes d)) (if atXr d then [] else rd (atWuk d) (atWeightBytes d))
      (if atXr d then [] else rd (atWuv d) (atWeightBytes d)) (if atXr d then rd (atScr d) 327680 else [])
    let ups := (upTo m).map (fun r =>
      rowUpdate (lane vm r) (lane vl r)
        (attnScores d mask (rd (atQ d + r * atQs d) (2 * (atD d + atR d))) kv.1 r))
    let s1 := if atXr d then s else (s.putRows k e.thr (atScr d) 768 kv.1).putRows k e.thr (atScr d + 196608) 512 kv.2
    let s1 := s1.putRows k e.thr (atScr d + 327680) 512 (ups.map (fun u => match u with
      | some u => u.p.flatMap (fun n => leBytes 2 n)
      | none => List.replicate 512 0#8))
    let s1 := (upTo (atDq d)).foldl (fun s i => s.updSlot k (atSlot d + i) (fun x =>
      let y := attnOut ups kv.2 i x
      if open_ then y.freed (ctr + 16 * i) else y)) s1
    let s1 := s1.updSlot k work (fun x => x.zeroed 0 false 0 0 (atTag d))
    let upd (v : VReg) (off : Nat) (f : RowUp → W32) : VReg := ofLanes (fun r =>
      match ups.getD r none with
      | some u => if open_ then Config.freeWord ctr (16384 + off + r) else f u
      | none => if open_ && decide (r < m) then Config.freeWord ctr (16384 + off + r) else lane v r)
    let s1 := s1.updThr k e.thr (fun t => (t.setV (fD e.w) (upd vm 0 (fun u => u.mn))).setV (fD e.w + 1) (upd vl 64 (fun u => u.l)))
    let s1 := if open_ then
        (s1.putRows k e.thr (atScr d) 512 ((upTo 704).map (fun r => freeBytes (ctr + 128) (512 * r) 512))).freshP p 9
      else s1
    let s1 := if atXr d then s1 else s1.count k (0x10 + atFmt d) (2 * 256 * atD d * atL d)
    ((((s1.count k 0x11 (m * 256 * (2 * atD d + atR d))).count k 0x1A (256 * m + atD d * m)).count k 0x1B (256 * m)).count k
      0x1C 1)

/-- The completion of FUSE.SET (R303). -/
def State.endFuse (s : State) (k : Nat) (e : QEntry) : State :=
  let d := e.opnd
  let n := fImm e.w % 16
  let arr (off : Nat) : SMap W32 := (upTo 64).map (fun c => (c, BitVec.ofNat 32 (recN d (off + 4 * c) 4)))
  let sc : Bool := recBits d 4 1 == 1
  let bi : Bool := recBits d 5 1 == 1
  s.updCore k (fun c => { c with
    fus := c.fus.put n { FusEntry.init with
      act := recBits d 0 4, scale := if sc then some (arr 64) else none,
      bias := if bi then some (arr (if sc then 320 else 64)) else none, gate := recBits d 6 2, ofmt := recBits d 8 4,
      lo := BitVec.ofNat 32 (recN d 4 4), hi := BitVec.ofNat 32 (recN d 8 4) },
    fusLoaded := if c.fusLoaded.contains n then c.fusLoaded else c.fusLoaded ++ [n] })

/-- The reset value of state element i of a Reel (R339): zero, or that of the reset image. -/
def State.reelReset (s : State) (p : Nat) (r : List Byte) : Nat → W32 :=
  if rlRz r then fun _ => 0#32
  else
    let img := Slot.init.ofImage (s.vrdN p (resetImage r 0) imageMax)
    fun i => img.at_ 12 i

/-- The completion of REC.RUN (R322 to R326, R925); an output that saturates sets no sticky flag (log 77, DESIGN CHOICE). Level 12 of the
Reel's first slot is read and written whatever kind and mode the slot has now, and constant vectors have b at COEF + 4N
(log 82, DESIGN CHOICE). -/
def State.endRec (s : State) (k : Nat) (e : QEntry) : State :=
  let p := s.partOf k
  match e.reel, s.chunkOf k e.thr with
  | some idx, some ch =>
    let r := s.reelRec p idx
    let d := e.desc
    let n := rlWidth r
    let off := rnOff d
    let len := rnLen d
    let slot := ((s.reel p idx).slots).headD 0
    let sl := s.slot k slot
    let rst := s.reelReset p r
    let mark := if ch.mark.toNat = 0xFFFF then none else some ch.mark.toNat
    let isz := rnSize (rnIn d)
    let inRow (t : Nat) : List Byte := s.vrdN p ((recN d 8 8 + t * recN d 24 4) % 2 ^ 64) (n * isz)
    let rows := (upTo len).map (fun j => inRow (off + j))
    let x (j i : Nat) : W32 := runInput (rnIn d) (recN (rows.getD j []) (isz * i) isz)
    let f32 (va : Nat) : W32 := BitVec.ofNat 32 (s.vrdVal p (va % 2 ^ 64) 4)
    let res : List (List W32) × List (Nat × W32) :=
      if rlKind r = 1 then
        let sec := rlSections r
        let per := (upTo n).map (fun c =>
          let cs := (upTo sec).map (fun q => (upTo 5).map (fun z => f32 (rlCoef r + 4 * ((5 * q + z) * 64 + c))))
          let st (f : Nat → W32) : List (W32 × W32) := (upTo sec).map (fun q => (f (128 * q + c), f (128 * q + 64 + c)))
          iirRun mark (st rst) cs off (st (sl.at_ 12)) ((upTo len).map (fun j => x j c)))
        (per.map (fun y => y.2), (upTo n).flatMap (fun c => (upTo sec).flatMap (fun q =>
          let y := ((per[c]?).map (fun z => z.1)).getD []
          let v := y.getD q (0#32, 0#32)
          [(128 * q + c, v.1), (128 * q + 64 + c, v.2)])))
      else
        let per := (upTo n).map (fun i =>
          let ab (j : Nat) : W32 × W32 :=
            let base := if rnStep d then recN d 32 8 + (off + j) * recN d 40 4 else rlCoef r
            (f32 (base + 4 * i), f32 (base + 4 * n + 4 * i))
          let l := (upTo len).map (fun j => ((ab j).1, (ab j).2, x j i))
          if rnScan d then scanRun mark (rst i) off (sl.at_ 12 i) 0#32 0#32 0#32 true l
          else serialRun mark (rst i) off (sl.at_ 12 i) l)
        (per.map (fun y => y.2), (upTo n).map (fun i => (i, ((per[i]?).map (fun z => z.1)).getD 0#32)))
    let ctr := s.freeAt p
    let open_ := e.tainted || (s.readRanges k e).any (fun r => s.openRead k e.thr r.1 r.2)
    let outRow (j : Nat) : List Byte :=
      if open_ then freeBytes (ctr + 16) (4096 * j) (n * rnSize (rnOut d))
      else (upTo n).flatMap (fun i => runOutput (rnOut d) ((res.1.getD i []).getD j 0#32))
    let st : SMap W32 := res.2.foldl (fun (m : SMap W32) y => m.put y.1 y.2) []
    let s := s.putRows k e.thr (recN d 16 8 + off * recN d 28 4) (recN d 28 4) ((upTo len).map outRow)
    let s := s.updSlot k slot (fun y => { y with lad := putLevel y.lad 12 (fun i =>
      match st.find i with
      | some v => if open_ then Config.freeWord ctr i else v
      | none => y.at_ 12 i) })
    let s := if open_ then s.freshP p 2 else s
    let ops := if rlKind r = 1 then n * rlSections r * len else n * len
    (s.count k 0x1D len).count k 0x1A ops
  | _, _ => s

/-- The completion of NMS (R419, R421, R925). -/
def State.endNms (s : State) (k : Nat) (e : QEntry) : State :=
  let d := e.desc
  let r := nmsRun d (e.opnd.take (16 * nmN d)) (e.opnd.drop (16 * nmN d))
  let p := s.partOf k
  let ctr := s.freeAt p
  let s1 := s.count k 0x1A (64 * e.cycles)
  if e.tainted || (s.readRanges k e).any (fun r => s.openRead k e.thr r.1 r.2) then
    let n := min (nmN d) (nmK d)
    ((s1.putRows k e.thr (recN d 32 8) 4 ((upTo n).map (fun i => freeBytes ctr (4 * i) 4))).putRows k e.thr (recN d 40 8) 4
      [freeBytes ctr (4 * n) 4]).freshP p 1
  else
    (s1.putRows k e.thr (recN d 32 8) 4 (r.2.map (fun i => leBytes 4 i))).putRows k e.thr (recN d 40 8) 4 [leBytes 4 r.2.length]

/-- The effects of an entry when it completes (R244). -/
def State.entryEffect (s : State) (k : Nat) (e : QEntry) : State :=
  let o := opcOf e.w
  let s := if pathOpc o then s.count k 3 e.cycles else s
  let tier := match s.va? (s.partOf k) e.va.toNat with | some a => tierOf a | none => 2
  match o with
  | 0x90 => s.endMloadw k e
  | 0x91 => s.endMmul k e
  | 0xA2 => s.updSlot k (qSlot e.w) e.onSlot
  | 0xA3 =>
    let img := (s.slot k (qSlot e.w)).image
    (s.writeQ k e.thr e.va.toNat img).count k (byteCnt tier true) img.length
  | 0xA5 => s.endDrain k e
  | 0xA6 => s.endDrainQ k e
  | 0xB0 => s.endAttn k e
  | 0xB1 => s.endFuse k e
  | 0xB2 => s.endRec k e
  | 0xB7 => s.updCore k (fun c => { c with
      gate := gateRows c.gate (fImm e.w % 64 + 1) (fun i => BitVec.ofNat 32 (recN e.opnd (4 * i) 4)) })
  | 0xBA => s.endNms k e
  | _ =>
    let p := s.partOf k
    let ctr := s.freeAt p
    let s := s.updSlot k (qSlot e.w) (fun x => let y := e.onSlot x; if e.tainted then y.freed ctr else y)
    (if e.tainted then s.freshP p 1 else s).count k (byteCnt tier false) e.opnd.length

/-- QUEUE_ENTRY_COMPLETE: the entry at place n of the queue, oldest first, makes its effects and leaves (R244); an entry
of its slots issued before it completes first (R161, R257). -/
def execQueueEntryComplete (c : CoreId) (n : Nat) (s : State) : Out :=
  let k := c.key
  whenLive s (match (s.core k).queue[n]? with
    | none => s
    | some e =>
      if !e.begun || s.slotBusy k e || !s.engineUp k then s
      else
        let s := s.entryEffect k e
        let s := s.keepEntries k (fun x => x.serial != e.serial)
        let s := s.updThr k e.thr (fun th => { th with
          pendV := ((s.core k).queue.filter (fun x => x.thr == e.thr)).flatMap QEntry.pend })
        let s := s.traceRec k 5 e.thr e.pc.toNat (s.qData k e)
        s.wakeQueue k)

end Sys2Proof.Machine
end

