-- ==== Sys2Proof/Machine/CtlMem.lean ====
section
/-! DEFINITION. The memory accesses of controllers in the physical device space (R290, R291, R460, R462). -/
namespace Sys2Proof.Machine

/-- Whether the partition of a controller owns a region; the device controller reaches every region (R462). -/
def State.ctlOwns (s : State) (c : Option Nat) (r : Region) : Bool :=
  match c with
  | none => true
  | some n =>
    match s.ownerCl n with
    | none => false
    | some p => match r with
      | .hbm st => s.ownerSt st == some p
      | .cluster m _ => s.ownerCl m == some p
      | .core k _ => s.ownerCl (keyCl k) == some p
      | _ => true

/-- The fault of a controller's access of n bytes, and whether it is counted as an access outside the ownership (R79,
R193, R290, R460, R462). The CSR space has its own rules. -/
def State.ctlFaultAt (s : State) (c : Option Nat) (a n : Nat) : Option Nat :=
  if a % n ≠ 0 then some fcAlign
  else match regionOf a with
    | .hole => some fcTier
    | .csr _ => none
    | .localMem _ => none
    | r => if s.ctlOwns c r then none else some fcPriv

/-- n bytes read by a controller; its own local memory at its window (R291). -/
def State.ctlRead (s : State) (c : Option Nat) (a n : Nat) : List Byte :=
  match regionOf a with
  | .localMem o => Memory.readN (s.ctl c).mem o n
  | _ => s.rdN a n

/-- The page whose level-3 entry holds the byte at a device address in the tables of a partition, with the entry's address. -/
def State.entryAtAddr (s : State) (p a : Nat) : Option (Nat × Nat) :=
  (s.ptRoot p).bind (fun r => (upTo 2048).findSome? (fun i => (s.nextTable p (s.rdVal (r + 8 * i) 8)).bind (fun t2 =>
    (upTo 2048).findSome? (fun j => (s.nextTable p (s.rdVal (t2 + 8 * j) 8)).bind (fun t3 =>
      if t3 ≤ a ∧ a < t3 + 8192 then some (i * 2 ^ 21 + j * 2 ^ 10 + (a - t3) / 8, t3 + (a - t3) / 8 * 8) else none)))))

/-- The level-3 entries that a write touched take from it their RW fields alone: MV stays as the part keeps it, and what is reserved
is zero (Table PGM-4). -/
def State.keepEntry (s : State) (p a : Nat) : State :=
  match s.entryAtAddr p a with
  | some x => s.wrVal x.2 8 (s.entryOf p x.1 (s.rdVal x.2 8)).toNat
  | none => s

/-- Bytes written by a controller. -/
def State.ctlWrite (s : State) (c : Option Nat) (a : Nat) (l : List Byte) : State :=
  match regionOf a with
  | .localMem o => s.updCtl c (fun t => { t with mem := Memory.writeN t.mem o l })
  | .cluster n _ => (match s.ownerCl n with
    | some p => (s.store a l).keepEntry p a
    | none => s.store a l)
  | _ => s.store a l

/-- Whether a controller's access meets an uncorrectable error (R448). -/
def State.ctlBad (s : State) (a n : Nat) : Bool :=
  match regionOf a with
  | .localMem _ => false
  | _ => s.badIn a n

/-- The error that a controller's access meets in the device ranges that it reads; its local memory shows none (R447, R448). -/
def State.ctlMeet (s : State) (a : Nat) (l : List (Nat × Nat)) (e : MemErr) : State :=
  match regionOf a with
  | .localMem _ => s
  | _ => s.meetA l e

/-- Whether a controller's access waits for a bank under repair (R455). -/
def State.ctlWaits (s : State) (a n : Nat) : Bool :=
  match regionOf a with
  | .localMem _ => false
  | _ => s.bankBusy a n

/-- Whether a controller's store may not be performed: it covers an error unit only in part, or reaches a failed stack (R449,
R452, R458). -/
def State.ctlBadPart (s : State) (a n : Nat) : Bool :=
  match regionOf a with
  | .localMem _ => false
  | _ => (s.badPart a n).isSome

end Sys2Proof.Machine
end

