-- ==== Sys2Proof/Machine/Sync.lean ====
section
/-! DEFINITION. Synchronisation and atomics (R205 to R213, Table ISA-5). -/
namespace Sys2Proof.Machine

/-- Whether a thread has queue entries that have not completed. -/
def State.hasEntries (s : State) (k t : Nat) : Bool := (s.core k).queue.any (fun e => e.thr == t)
/-- Whether a thread has DMA operations that have not completed. -/
def State.hasDma (s : State) (k t : Nat) : Bool := (s.core k).dmaq.any (fun e => e.thr == t)

/-- FENCE of a thread: its stores are performed at their issue, so it only orders them (R205). -/
def fenceThr (w : W64) (h : Hart) (s : State) : Res :=
  if unusedSet w mO then .fault fcIllegal 0 else .done (s.order h.key h.thr.val)

/-- FENCE of a controller. -/
def fenceCtl (w : W64) (_ : Option Nat) (s : State) : Res :=
  if unusedSet w mO then .fault fcIllegal 0 else .done s

/-- BAR: FENCE, then the thread waits at a barrier of the scope of X[0] (R206, R208). -/
def barThr (w : W64) (h : Hart) (s : State) : Res :=
  if unusedSet w (mO + mX0) then .fault fcIllegal 0
  else .done ((s.order h.key h.thr.val).updThr h.key h.thr.val (fun x => { x with
    st := .waitSync, wait := .barrier (xBit w 0) }))

/-- MWAIT: waits until every array-queue entry of the thread has completed (R205, R244). -/
def mwaitThr (w : W64) (h : Hart) (s : State) : Res :=
  if unusedSet w mO then .fault fcIllegal 0
  else if s.hasEntries h.key h.thr.val then
    .done (s.updThr h.key h.thr.val (fun x => { x with st := .waitMtx, wait := .mwait }))
  else .done s

/-- IBAR: FENCE, then the fetch buffer is emptied and the next instruction's block is requested (R205, R200). -/
def ibarThr (w : W64) (h : Hart) (s : State) : Res :=
  if unusedSet w mO then .fault fcIllegal 0
  else .jump (s.order h.key h.thr.val) ((s.thr h.key h.thr.val).pc + 8#64)

/-- An atomic of a controller, on a word of a core or cluster store at a physical address (R210, R290). -/
def atomicCtl (mask : Nat) (f : W64 → W64 → W64 → Option W64) (w : W64) (e : MemErr) (c : Option Nat) (s : State) : Res :=
  let t := s.ctl c
  let a := (t.g (fA w)).toNat
  let inStore : Bool := match regionOf a with
    | .core _ _ => true
    | .cluster _ _ => true
    | _ => false
  if unusedSet w mask then .fault fcIllegal 0
  else match s.ctlFaultAt c a 8 with
    | some code => .fault code a
    | none =>
      if !inStore then .fault fcTier a
      else
        let s := s.ctlMeet a [(a, 8)] e
        if s.ctlBad a 8 then .faultAt s fcUe a
        else
          let old := BitVec.ofNat 64 (s.rdVal a 8)
          let s1 := match f old (t.g (fB w)) (t.g (fC w)) with
            | some v => s.store a (leBytes 8 v.toNat)
            | none => s
          .done (s1.updCtl c (fun x => x.setG (fD w) old))

/-- The meaning of an atomic row. -/
def atomicRow (op mask : Nat) (f : W64 → W64 → W64 → Option W64) (a : Agent) (w : W64) (e : MemErr) (s : State) : Out :=
  let touch := match a with
    | .thread h => let va := ((s.thr h.key h.thr.val).g (fA w)).toNat; [(1, va, 8), (2, va, 8)]
    | _ => let va := ((s.ctl (ctlOf a)).g (fA w)).toNat; [(1, va, 8)]
  issueMeaning op a w s [] touch (atomicSem w mask f e) (atomicCtl mask f w e)

/-- Signed maximum. -/
def maxS (x y : W64) : W64 := if x.slt y then y else x

/-- FENCE. -/
def execFence (a : Agent) (w : W64) (s : State) : Out := issueMeaning 0x40 a w s [] [] (fenceThr w) (fenceCtl w)
/-- BAR. -/
def execBar (a : Agent) (w : W64) (s : State) : Out := issueMeaning 0x41 a w s [] [] (barThr w) noCtl
/-- MWAIT. -/
def execMwait (a : Agent) (w : W64) (s : State) : Out := issueMeaning 0x42 a w s [] [] (mwaitThr w) noCtl
/-- IBAR. -/
def execIbar (a : Agent) (w : W64) (s : State) : Out := issueMeaning 0x43 a w s [] [] (ibarThr w) (fenceCtl w)
/-- AMOADD: memory := old + B. -/
def execAmoadd (a : Agent) (w : W64) (e : MemErr) (s : State) : Out :=
  atomicRow 0x44 (mO + mD + mA + mB) (fun o b _ => some (o + b)) a w e s
/-- AMOSWAP: memory := B. -/
def execAmoswap (a : Agent) (w : W64) (e : MemErr) (s : State) : Out :=
  atomicRow 0x45 (mO + mD + mA + mB) (fun _ b _ => some b) a w e s
/-- AMOCAS: when old = C, memory := B. -/
def execAmocas (a : Agent) (w : W64) (e : MemErr) (s : State) : Out :=
  atomicRow 0x46 (mO + mD + mA + mB + mC) (fun o b c => if o = c then some b else none) a w e s
/-- AMOMAX: memory := signed maximum of old and B. -/
def execAmomax (a : Agent) (w : W64) (e : MemErr) (s : State) : Out :=
  atomicRow 0x47 (mO + mD + mA + mB) (fun o b _ => some (maxS o b)) a w e s

end Sys2Proof.Machine
end

