-- ==== Sys2Proof/Machine/System.lean ====
section
/-! DEFINITION. The system and time instructions of cores (R271 to R276), the end, halting and resuming of threads (R278 to
R288), and the events of the threads: fetch blocks, loads, barriers, drains (R198 to R209, R829, R830). -/
namespace Sys2Proof.Machine

/-! ### System and time instructions -/

/-- NOP of a thread or controller. -/
def nopThr (w : W64) (_ : Hart) (s : State) : Res := if unusedSet w mO then .fault fcIllegal 0 else .done s

/-- END: the thread's writes are ordered, and it waits for its entries and operations (R286). -/
def endThr (w : W64) (h : Hart) (s : State) : Res :=
  if unusedSet w mO then .fault fcIllegal 0
  else
    let st : ThState := if s.hasEntries h.key h.thr.val then .waitMtx else .waitMem
    .done ((s.order h.key h.thr.val).updThr h.key h.thr.val (fun x => { x with
      ending := true, st := st, wait := .ending }))

/-- TRAP halts the thread with the value of IMM (R275, R282). -/
def trapThr (w : W64) (_ : Hart) (_ : State) : Res := if unusedSet w (mO + mI) then .fault fcIllegal 0 else .trap (fImm w)

/-- CLAP: a count that Slate has not reached makes the thread wait, with D := 0; otherwise D is the lateness (R271). -/
def clapThr (w : W64) (h : Hart) (s : State) : Res :=
  let n := ((s.thr h.key h.thr.val).g (fA w)).toNat
  if unusedSet w (mO + mD + mA) then .fault fcIllegal 0
  else if s.ns < n then
    .done (s.updThr h.key h.thr.val (fun x => { (x.setG (fD w) 0#64) with st := .waitSync, wait := .clap n }))
  else .done (s.updThr h.key h.thr.val (fun x => x.setG (fD w) (BitVec.ofNat 64 (s.ns - n))))

/-- The part of Slate that RDSLATE names (R274). -/
def State.slatePart (s : State) (w : W64) : W64 := if xBit w 0 then BitVec.ofNat 64 s.frac else s.nsW

/-- RDSLATE of a thread. -/
def rdslateThr (w : W64) (h : Hart) (s : State) : Res :=
  if unusedSet w (mO + mD + mX0) then .fault fcIllegal 0
  else .done (s.updThr h.key h.thr.val (fun x => x.setG (fD w) (s.slatePart w)))

/-- RDSLATE of a controller. -/
def rdslateCtl (w : W64) (c : Option Nat) (s : State) : Res :=
  if unusedSet w (mO + mD + mX0) then .fault fcIllegal 0
  else .done (s.updCtl c (fun x => x.setG (fD w) (s.slatePart w)))

/-- RDTSW: D := the thread status word (R275, R276). -/
def rdtswThr (w : W64) (h : Hart) (s : State) : Res :=
  if unusedSet w (mO + mD) then .fault fcIllegal 0
  else .done (s.updThr h.key h.thr.val (fun x => x.setG (fD w) (s.tsw h.key h.thr.val)))

/-- CLRTSW clears the sticky bits that are 1 in IMM[7:0] (R275, R276). -/
def clrtswThr (w : W64) (h : Hart) (s : State) : Res :=
  if unusedSet w (mO + mIn 8) then .fault fcIllegal 0
  else .done (s.updThr h.key h.thr.val (fun x => { x with sticky := x.sticky &&& ~~~(BitVec.ofNat 8 (fImm w)) }))

/-- RDCNT: D := the counter that IMM numbers, before this issue is counted (R275, R821); a number that Table DBG-1 does not
list raises ILLEGAL (log 24). -/
def rdcntThr (w : W64) (h : Hart) (s : State) : Res :=
  if unusedSet w (mO + mD + mI) || !cntListed (fImm w) then .fault fcIllegal 0
  else .done (s.updThr h.key h.thr.val (fun x => x.setG (fD w) (s.counter h.key (fImm w))))

/-- NOP. -/
def execNop (a : Agent) (w : W64) (s : State) : Out := issueMeaning 0xD0 a w s [] [] (nopThr w) (fenceCtl w)
/-- END. -/
def execEndThread (a : Agent) (w : W64) (s : State) : Out := issueMeaning 0xD1 a w s [] [] (endThr w) noCtl
/-- TRAP. -/
def execTrap (a : Agent) (w : W64) (s : State) : Out := issueMeaning 0xD2 a w s [] [] (trapThr w) noCtl
/-- CLAP. -/
def execClap (a : Agent) (w : W64) (s : State) : Out := issueMeaning 0xD3 a w s [] [] (clapThr w) noCtl
/-- RDSLATE. -/
def execRdslate (a : Agent) (w : W64) (s : State) : Out := issueMeaning 0xD4 a w s [] [] (rdslateThr w) (rdslateCtl w)
/-- RDTSW. -/
def execRdtsw (a : Agent) (w : W64) (s : State) : Out := issueMeaning 0xD5 a w s [] [] (rdtswThr w) noCtl
/-- CLRTSW. -/
def execClrtsw (a : Agent) (w : W64) (s : State) : Out := issueMeaning 0xD6 a w s [] [] (clrtswThr w) noCtl
/-- RDCNT. -/
def execRdcnt (a : Agent) (w : W64) (s : State) : Out := issueMeaning 0xD7 a w s [] [] (rdcntThr w) noCtl

/-- CLAP_WAKE: every thread of a core whose count Slate has reached goes on (R272, R273). -/
def execClapWake (c : CoreId) (s : State) : Out :=
  whenLive s (s.updCore c.key (fun x => { x with threads := x.threads.mapV (fun _ t =>
    match t.wait with
    | .clap n => if n ≤ s.ns ∧ t.st = .waitSync then t.goOn else t
    | _ => t) }))

/-! ### Ending and halting -/

/-- The slots that a thread owns are freed, and its waiting claims are dropped (R63). -/
def State.freeSlots (s : State) (k t : Nat) : State :=
  let s := s.updCore k (fun c => { c with claims := c.claims.filter (fun x => x.2 != t) })
  (upTo 8).foldl (fun s n => if (s.slot k n).owner = some t then s.freeSlot k n else s) s

/-- A thread becomes FREE: its slots are freed and its tags released, its writes are ordered (R286, R287). -/
def State.finishThread (s : State) (k t : Nat) : State :=
  ((s.freeSlots k t).orderAll k t).updThr k t (fun x => { x with
    st := .free, wait := .none, ending := false, tags := [], deferred := none, pendV := [], load := none,
    fcur := none, fwords := [], fnext := none, fnwords := [], freq := [], freeNs := s.nsW })

/-- Whether a thread at its END, or ended by the supervisor, has nothing left to wait for. -/
def State.mayFinish (s : State) (k t : Nat) : Bool :=
  let th := s.thr k t
  th.ending && th.st != .free && !s.hasEntries k t && !s.hasDma k t && (th.deferred == none || th.supEnd)

/-- THREAD_END: the entries and operations of a thread at END have completed (R286 to R288). -/
def execThreadEnd (h : Hart) (s : State) : Out :=
  whenLive s (if s.mayFinish h.key h.thr.val then s.finishThread h.key h.thr.val else s)

/-- Whether a thread with a deferred fault stands where it halts: before an issue, or at an MWAIT or END (R279). -/
def Thread.atIssue (t : Thread) : Bool :=
  t.st == .ready || (match t.wait with
    | .mwait => true
    | .ending => true
    | .mtx => true
    | .fetch => true
    | .page _ => true
    | _ => false)

/-- A thread that waits at an MWAIT or an END halts at that instruction. -/
def Thread.backUp (t : Thread) : Thread :=
  if t.wait = .mwait ∨ t.wait = .ending then { t with pc := t.pc - 8#64, ending := false } else t

/-- A thread halts with its deferred fault (R279, R282). -/
def State.haltDeferred (s : State) (k t : Nat) : State :=
  match (s.thr k t).deferred with
  | none => s
  | some d => (s.updThr k t (fun x => { x.backUp with deferred := none })).halt k t d.1.toNat d.2.1.toNat d.2.2.toNat 0

/-- DEFERRED_HALT: a thread with a deferred fault halts before its next issue, and no later than at its next MWAIT or END
(R279, R281 to R283). -/
def execDeferredHalt (h : Hart) (s : State) : Out :=
  let th := s.thr h.key h.thr.val
  whenLive s (if th.st != .halted && th.st != .free && !th.supEnd && th.atIssue then s.haltDeferred h.key h.thr.val else s)

/-- The state that a resumed thread takes: at another program counter it fetches; at the one it halted at it goes on with a
wait that it was in when its core drained (R834, log 25). -/
def Thread.resume (t : Thread) (pc : W64) : Thread :=
  let t := { t with flt := { t.flt with v := false } }
  if t.pc = pc then
    match t.wait with
    | .barrier _ => { t with st := .waitSync }
    | .clap _ => { t with st := .waitSync }
    | .slot _ => { t with st := .waitSync }
    | .mwait => { t with st := .waitMtx }
    | _ => t.jump pc
  else t.jump pc

/-- THREAD_RESUME: the supervisor resumes a halted thread at a program counter, or ends it (R64, R284, R288). A thread that
it ends becomes FREE once its entries and operations have completed (log 26). -/
def execThreadResume (h : Hart) (pc : Option W64) (s : State) : Out :=
  let k := h.key
  let t := h.thr.val
  whenLive s (
    if (s.thr k t).st ≠ .halted then s
    else match pc with
      | some p => s.updThr k t (fun x => x.resume p)
      | none =>
        let s := (s.freeSlots k t).updThr k t (fun x => { x with
          st := .waitMem, wait := .ending, ending := true, supEnd := true, flt := { x.flt with v := false } })
        let s := match (s.core k).job with
          | some j => s.updJob (s.partOf k) j (fun x => { x with faulted := true })
          | none => s
        if s.mayFinish k t then s.finishThread k t else s)

/-! ### Fetch and loads -/

/-- The fault of fetching from an address: PRIV in the S-level range, PAGE_FAULT, then FETCH_FAULT for a home other than
the own stores or a page with X = 0 (R86, R91, R198). -/
def State.fetchFault (s : State) (k va : Nat) : Option Nat :=
  if inSRange va 8 then some fcPriv
  else if va ≥ 2 ^ 48 ∨ va < 65536 then some fcPage
  else
    let e := s.pte (s.partOf k) (va / 65536)
    if !pteV e then some fcPage
    else if !s.reaches k .ownStores e va || !pteX e then some fcFetch
    else if s.vbad (s.partOf k) va 128 then some fcUe
    else none

/-- A thread that waits for a block which it may not fetch halts at its program counter (R91, R198); MEM_UE and an access outside
the ownership count (R79, R444). -/
def State.fetchHalt (s : State) (k t code : Nat) (b : W64) : State :=
  let pc := (s.thr k t).pc.toNat
  let s := if code = fcUe then s.tellUeV k b.toNat 128 false else if code = fcFetch then s.noteOutside (s.partOf k) b.toNat else s
  s.halt k t code 0 pc 0

/-- FETCH_BLOCK_ARRIVE: the oldest block that a thread requested arrives. The thread goes on when it waits for that block; a
block that may not be fetched faults only a thread that waits for it (R198 to R200, log 27). A page in motion holds the block back
(R104). The block's bytes may hold an error not yet found (R447). -/
def execFetchBlockArrive (h : Hart) (fails : MemErr) (s : State) : Out :=
  let k := h.key
  let t := h.thr.val
  let th := s.thr k t
  whenLive s (if s.fencedCore k then s.fenceDrop k else match th.freq with
    | [] => s
    | b :: rest =>
      let s := s.updThr k t (fun x => { x with freq := rest })
      let waits : Bool := th.wait == .fetch && b == blockOf th.pc && th.st == .waitMem
      let s := if s.mvRange k b.toNat 128 || (s.fetchFault k b.toNat).isSome then s else s.meetV k [(b.toNat, 128)] fails
      match s.fetchFault k b.toNat with
      | some c => if waits then s.fetchHalt k t c b else s
      | none =>
        if s.mvRange k b.toNat 128 then s.updThr k t (fun x => { x with freq := b :: rest })
        else
          let ws := (upTo 16).map (fun i => BitVec.ofNat 64 (s.vrdVal (s.partOf k) (b.toNat + 8 * i) 8))
          if b = blockOf th.pc then
            s.updThr k t (fun x =>
              let y := { x with fcur := some b, fwords := ws }
              if waits then { y with st := .ready, wait := .none } else y)
          else s.updThr k t (fun x => { x with fnext := some b, fnwords := ws }))

/-- The register value of a load of scalar bytes (R191). -/
def loadVal (l : List Byte) (sext : Bool) : W64 :=
  if sext then BitVec.ofInt 64 (sextN (8 * l.length) (leVal l)) else BitVec.ofNat 64 (leVal l)

/-- A thread's load returns (R53, R191, R214): an unreadable byte makes it fault as if it had not issued (R448, R451). -/
def State.loadReturn (s : State) (k t : Nat) (fails : MemErr) : State :=
  match (s.thr k t).load with
  | none => s
  | some l =>
    let va := l.va.toNat
    let s := s.meetV k [(va, l.bytes)] fails
    if s.vbad (s.partOf k) va l.bytes then
      let s := s.tellUeV k va l.bytes (errFails fails)
      (s.updThr k t (fun x => { x with load := none, pc := x.pc - 8#64 })).halt k t fcUe 0 va 0
    else
      let r := s.settleRead k t va (s.vrdN (s.partOf k) va l.bytes)
      r.2.updThr k t (fun x =>
        let y := { x with load := none }
        let z := if l.vec then y.setV (l.reg.toNat % 16) (bytesVreg r.1) else y.setG l.reg.toNat (loadVal r.1 l.sext)
        z.goOn)

/-- A controller's load returns (R291, R448). A bank under repair holds it back (R455). -/
def State.ctlLoadReturn (s : State) (c : Option Nat) (fails : MemErr) : State :=
  match (s.ctl c).load with
  | none => s
  | some l =>
    let a := l.va.toNat
    if s.bankBusy a l.bytes then s
    else
      let s := s.meet none (a + min (errOff fails) (l.bytes - 1)) fails
      if s.ctlBad a l.bytes then
        let s := s.logUe (a + (s.badFirst a l.bytes).getD 0) (errFails fails)
        (s.updCtl c (fun t => { t with load := none, pc := t.pc - 8#64 })).ctlFault c fcUe
      else s.updCtl c (fun t => { (t.setG l.reg.toNat (loadVal (s.ctlRead c a l.bytes) l.sext)) with load := none })

/-- LOAD_RETURN: the loaded value is written and the waiting thread or controller goes on (R53). A request that a core placed before its
fence is dropped (R805, R807). -/
def execLoadReturn (a : Agent) (fails : MemErr) (s : State) : Out :=
  whenLive s (match a with
    | .thread h => if s.fencedCore h.key then s.fenceDrop h.key else s.loadReturn h.key h.thr.val fails
    | .cluster c => s.ctlLoadReturn (some c.val) fails
    | .device => s.ctlLoadReturn none fails)

/-! ### Barriers -/

/-- The keys of the physical cores that a job uses. -/
def State.jobCores (s : State) (p j : Nat) : List Nat :=
  (s.job p j).placed.filterMap (fun x => s.logKey p x.1 x.2)

/-- Whether every live thread of a core waits at a barrier of one scope; none of them is HALTED (R206, R207). -/
def State.allAtBarrier (s : State) (k : Nat) (job : Bool) : Bool :=
  (s.core k).threads.all (fun e => e.2.st == .free || (e.2.st == .waitSync && e.2.wait == .barrier job))

/-- The threads of a core that wait at a barrier of a scope go on. -/
def State.releaseBarrier (s : State) (k : Nat) (job : Bool) : State :=
  s.updCore k (fun c => { c with threads := c.threads.mapV (fun _ t => if t.wait = .barrier job then t.wake else t) })

/-- BARRIER_RELEASE: a barrier releases once every included thread waits at it (R206 to R209). -/
def execBarrierRelease (c : CoreId) (job : Bool) (s : State) : Out :=
  let k := c.key
  whenLive s (match (s.core k).job with
    | none => s
    | some j =>
      let ks := if job then s.jobCores (s.partOf k) j else [k]
      if ks.all (fun x => s.allAtBarrier x job) then ks.foldl (fun s x => s.releaseBarrier x job) s else s)

/-! ### Drains -/

/-- One thread of a drained core is HALTED: with its deferred fault, else with BREAK at its next instruction, and with the
wait that it goes on with (R829, R830). -/
def State.haltDrained (s : State) (k t : Nat) : State :=
  let th := s.thr k t
  if th.st = .free ∨ th.st = .halted ∨ th.supEnd then s
  else if th.deferred.isSome then s.haltDeferred k t
  else
    let s := if th.wait = .ending then s.updThr k t (fun x => { x.backUp with wait := .none }) else s
    let w := (s.thr k t).wait
    (s.halt k t fcBreak 0 0 0).updThr k t (fun x => { x with wait := w })

/-- CORE_DRAIN_DONE: every begun entry, operation and load of a draining core has completed; its threads halt, and after a
cluster drain the cluster controller (R829, R830). -/
def execCoreDrainDone (c : CoreId) (s : State) : Out :=
  let k := c.key
  let x := s.core k
  whenLive s (
    if !x.draining || x.queue.any (fun e => e.begun) || !x.dmaq.isEmpty || x.threads.any (fun t => t.2.load.isSome) then s
    else
      let s := x.threads.keys.foldl (fun s t => s.haltDrained k t) s
      let all := x.drainAll
      let s := s.updCore k (fun y => { y with draining := false, drainAll := false })
      if all && (upTo 9).all (fun j => !(s.core (coreKey c.cl.val j)).drainAll) then
        s.updCl c.cl.val (fun y => { y with ctl := { y.ctl with halted := true } })
      else s)

end Sys2Proof.Machine
end

