-- ==== Sys2Proof/Machine/Reel.lean ====
section
/-! DEFINITION. Reels and chunks: submission, the Reel instructions, dispatch, checkpoints, swaps and forwarding (R327 to
R350, R705). -/
namespace Sys2Proof.Machine

/-! ### Chunks -/

/-- The fields of a chunk descriptor (Table REC-8). -/
def chunkFrom (l : List Byte) : Chunk :=
  { Chunk.init with
    handle := BitVec.ofNat 32 (recN l 0 4), len := BitVec.ofNat 16 (recN l 4 2), mark := BitVec.ofNat 16 (recN l 6 2),
    inp := BitVec.ofNat 64 (recN l 8 8), out := BitVec.ofNat 64 (recN l 16 8), arg := BitVec.ofNat 64 (recN l 24 8),
    recAddr := BitVec.ofNat 64 (recN l 32 8), next := BitVec.ofNat 32 (recN l 40 4), nxv := recBits l 352 1 == 1,
    tag := BitVec.ofNat 16 (recN l 46 2) }

/-- A chunk completion record (Table REC-9). -/
def chunkRec (status fcode mark tag seq ns : Nat) : List Byte :=
  leBytes 1 status ++ leBytes 1 fcode ++ leBytes 2 mark ++ leBytes 2 tag ++ leBytes 2 0 ++ leBytes 8 seq ++ leBytes 8 ns ++
    leBytes 8 0

/-- The tag of a thread's operation takes its status: a thread that waits for it goes on with the value and the tag is free
(R225, R229). `serial` is the operation's number. -/
def Thread.tagDone (t : Thread) (tag serial : Nat) (st : BitVec 16) : Thread :=
  match t.tags.find tag with
  | none => t
  | some x =>
    if x.serial ≠ serial then t
    else match t.wait with
      | .dmaReg n r => if n = tag then { (t.setG r (st.setWidth 64)) with tags := t.tags.erase tag }.wake
        else { t with tags := t.tags.put tag { x with done := some st } }
      | _ => { t with tags := t.tags.put tag { x with done := some st } }

/-- The owner of a chunk submitted by a thread: the thread's key, and its tag with the operation's number. -/
def chunkOwner (k t tag serial : Nat) : Nat × Nat := (64 * k + t, 16 * serial + tag)

/-- Why the part may not write a range for a partition: PRIV of the S-level range, WRITE_RO of a sealed page (R86, R95). -/
def State.partFault (s : State) (p va n : Nat) : Option Nat :=
  if inSRange va n then some fcPriv
  else if (pagesOf va n).any (fun a => let e := s.pte p (a / 65536); pteV e && pteRo e) then some fcRo
  else none

/-- A chunk completes: its record is written where it may be (R79, R86, R95, R104), its submitter's tag and host command take the
status (R333, R348). A record whose place raises PRIV or WRITE_RO makes the completion FAULTED with that code (log 79, DESIGN
CHOICE). -/
def State.finishChunk (s : State) (p : Nat) (c : Chunk) (status0 fcode0 : Nat) : State :=
  let seq := rlSeq (s.reelRec p (hIdx c.handle.toNat))
  let bad := if c.recAddr = 0#64 then none else s.partFault p c.recAddr.toNat 32
  let status := if bad.isSome then stFaulted else status0
  let fcode := bad.getD fcode0
  let l := chunkRec status fcode c.mark.toNat c.tag.toNat seq s.ns
  let s := if c.recAddr = 0#64 then s else s.putPart p c.recAddr.toNat l
  let s := match c.owner with
    | some o => s.updThr (o.1 / 64) (o.1 % 64) (fun t => t.tagDone (o.2 % 16) (o.2 / 16) (dmaStatus status fcode))
    | none => s
  match c.cmd with
  | some n => s.complete p n status fcode seq 0
  | none => s

/-- The core that runs the chunks of a Reel. -/
def State.reelCore (s : State) (p idx : Nat) : Option Nat :=
  let r := s.reelRec p idx
  s.logKey p (rlCluster r) (rlCore r)

/-- A chunk is submitted: REFUSED for a bad LEN or MARK, REEL_GONE for a handle that is GONE, REFUSED for a core that is not
there or for a full chunk queue; else it enters the queue of the Reel's core (R328, R332, R340). -/
def State.submitChunk (s : State) (p : Nat) (c : Chunk) : State :=
  let n := (s.part p).chunkSerial
  let s := s.updPart p (fun x => { x with chunkSerial := n + 1 })
  let c := { c with serial := n, running := false, held := false, changed := [] }
  if c.len = 0#16 ∨ (c.mark ≠ 0xFFFF#16 ∧ c.mark.toNat ≥ c.len.toNat) then s.finishChunk p c stRefused 0
  else if !s.reelLive p c.handle.toNat then s.finishChunk p c stGone 0
  else match s.reelCore p (hIdx c.handle.toNat) with
    | none => s.finishChunk p c stRefused 0
    | some k =>
      if (s.core k).chunkq.length ≥ 64 then s.finishChunk p c stRefused 0
      else s.updCore k (fun x => { x with chunkq := x.chunkq ++ [c] })

/-- A chunk leaves its core's chunk queue. -/
def State.dropChunk (s : State) (k serial : Nat) : State :=
  s.updCore k (fun c => { c with chunkq := c.chunkq.filter (fun x => x.serial != serial) })

/-- A chunk of a core's queue updated. -/
def State.updChunk (s : State) (k serial : Nat) (f : Chunk → Chunk) : State :=
  s.updCore k (fun c => { c with chunkq := c.chunkq.map (fun x => if x.serial = serial then f x else x) })

/-! ### The slots of a Reel -/

/-- A ladder image in memory loaded into a slot as LADDER.LOAD would: an image that it would refuse leaves the slot (R265, R339,
log 80). -/
def State.loadImage (s : State) (p k n va : Nat) : State :=
  let h := s.vrdN p va 64
  if (loadFault h).isSome then s
  else
    let img := s.vrdN p va (imageLen h)
    s.updSlot k n (fun sl => sl.ofImage img)

/-- Images loaded into the slots of a Reel, image i from place `at_ i`, after `head` further bytes: the drain path takes 256 of all
these bytes in a cycle (R344). -/
def State.loadImages (s : State) (p k : Nat) (slots : List Nat) (head : Nat) (at_ : Nat → Nat) : State :=
  let l := slots.zip (upTo slots.length)
  let bytes := l.foldl (fun a x => a + imageLen (s.vrdN p (at_ x.2) 64)) head
  (l.foldl (fun s x => s.loadImage p k x.1 (at_ x.2)) s).count k 3 (ceilDiv bytes 256)

/-- Slots loaded with the reset value of a Reel (R339). -/
def State.loadReset (s : State) (p k idx : Nat) : State :=
  let r := s.reelRec p idx
  let l := (s.reel p idx).slots
  if rlRz r then l.foldl (fun s n => s.updSlot k n (fun sl => sl.zeroed 0 (rlKind r != 2) 0 0 0)) s
  else s.loadImages p k l 0 (resetImage r)

/-- Virtual address of bank b of a Reel's checkpoint area (R342). -/
def bankVa (r : List Byte) (b : Nat) : Nat := rlState r + b * bankBytes (rlSlots r)

/-- SEQ of a bank when its valid bit is set (R342). -/
def State.bankSeq (s : State) (p : Nat) (r : List Byte) (b : Nat) : Option Nat :=
  if s.vrdVal p (bankVa r b + 8) 1 % 2 = 1 then some (s.vrdVal p (bankVa r b) 8) else none

/-- The bank of the newest checkpoint: the higher valid SEQ (R344). -/
def State.newestBank (s : State) (p : Nat) (r : List Byte) : Option Nat :=
  match s.bankSeq p r 0, s.bankSeq p r 1 with
  | none, none => none
  | some _, none => some 0
  | none, some _ => some 1
  | some a, some b => if a ≥ b then some 0 else some 1

/-- A Reel restored from its newest checkpoint, or from its reset value when there is none (R341, R345, R346). -/
def State.restoreReel (s : State) (p k idx : Nat) : State :=
  let r := s.reelRec p idx
  match s.newestBank p r with
  | none => s.loadReset p k idx
  | some b => s.loadImages p k (s.reel p idx).slots 64 (fun i => bankVa r b + 64 + 196672 * i)

/-- Whether a page of a Reel's checkpoint area or of its reset image is in motion: what reads or writes it waits (R104). -/
def State.bankMoves (s : State) (p k idx : Nat) : Bool :=
  let r := s.reelRec p idx
  s.mvRange k (rlState r) ((if rlRz r then 2 else 3) * bankBytes (rlSlots r))

/-- Bytes of a checkpoint written for the chunk of thread t, which its signature takes (R852). -/
def State.writeBank (s : State) (p k t va : Nat) (l : List Byte) : State := (s.putPart p va l).signWrite k t va l

/-- The images of a Reel written to the bank that does not hold the newest checkpoint, then its header with SEQ + 1, then
the table's SEQ (R342, R343). The drain path takes 256 bytes of the bank in a cycle (R344). -/
def State.checkpointReel (s : State) (p k t idx : Nat) : State :=
  let r := s.reelRec p idx
  let b := match s.newestBank p r with
    | some 0 => 1
    | _ => 0
  let l := (s.reel p idx).slots
  let seq := (rlSeq r + 1) % 2 ^ 64
  let bytes := l.foldl (fun a n => a + (s.slot k n).imageBytes) 64
  let s := (l.zip (upTo l.length)).foldl (fun s x => s.writeBank p k t (bankVa r b + 64 + 196672 * x.2) (s.slot k x.1).image)
    (s.count k 3 (ceilDiv bytes 256))
  let s := s.writeBank p k t (bankVa r b) (leBytes 8 seq ++ leBytes 8 1 ++ List.replicate 48 0#8)
  s.setReelSeq p idx seq

/-- The slots bound to a Reel are released. -/
def State.unbindReel (s : State) (p idx : Nat) : State :=
  let d := s.reel p idx
  let s := d.slots.foldl (fun s n => s.updSlot d.core n (fun x => { x with reel := none, owner := none })) s
  s.updReel p idx (fun x => { x with slots := [] })

/-- A Reel becomes GONE: its slots are released and its entry's V clears (R340, Table REC-5). -/
def State.reelGone (s : State) (p idx : Nat) : State :=
  let s := (s.unbindReel p idx).setRstate p idx 5
  let a := s.reelAddr p idx
  (s.wrVal a 1 ((s.rd a).toNat / 2 * 2)).updReel p idx (fun x => { x with swapPend := false, destroyPend := false })

/-- The slots of a core that are both unbound and unowned (R338). -/
def State.looseSlots (s : State) (k : Nat) : List Nat :=
  (upTo 8).filter (fun n => (s.slot k n).reel.isNone && (s.slot k n).owner.isNone)

/-- TDM port by number. -/
def State.tdm (s : State) (p : Nat) : TdmPort := s.aud.ports.get TdmPort.init p
/-- The owner of a TDM port (R74). -/
def State.tdmOwner (s : State) (p : Nat) : Option Nat :=
  let n := bitsAt s.aud.own.toNat (4 * p) 4
  if n < 8 then some n else none
/-- The use of a port: 0 off, 1 pinned path, 2 ring, 3 pinned path in and ring out (R702; places DESIGN CHOICE, log 49). -/
def TdmPort.use (t : TdmPort) : Nat := bitsAt t.cfg.toNat 0 2
/-- The port is enabled. -/
def TdmPort.on (t : TdmPort) : Bool := t.cfg.getLsbD 5 && t.use != 0

/-- Whether a core is one of a pinned audio path: an enabled port of its partition submits its frames to a live Reel of this
core (R351, R705). -/
def State.audPinned (s : State) (k : Nat) : Bool :=
  let p := s.partOf k
  (upTo 4).any (fun n =>
    let t := s.tdm n
    let h := t.set.get 0#32 0
    t.on && (t.use == 1 || t.use == 3) && s.tdmOwner n == some p && s.reelLive p h.toNat && s.reelCore p (hIdx h.toNat) == some k)

/-- Whether a core is pinned, by its job or an audio path: its Reels behave as though PIN = 1 (R351, R485). -/
def State.pinnedCore (s : State) (k : Nat) : Bool :=
  s.audPinned k || (match (s.core k).job with
  | some j => (s.job (s.partOf k) j).pinned
  | none => false)

/-- The IDLE Reels of a core that may be swapped out, the one whose last chunk completed earliest first (R338). -/
def State.evictable (s : State) (p k : Nat) : List Nat :=
  if s.pinnedCore k then []
  else
    let l := (s.part p).reels.keys.filter (fun i =>
      let r := s.reelRec p i
      !(s.reel p i).slots.isEmpty && (s.reel p i).core == k && rlRstate r == 1 && !rlPin r)
    l.mergeSort (fun a b => decide ((s.reel p a).lastDone ≤ (s.reel p b).lastDone))

/-- Slots made free for a Reel by swapping IDLE Reels out, as far as needed and possible (R338). -/
def State.makeRoom (s : State) (p k need : Nat) : State :=
  (s.evictable p k).foldl (fun s i =>
    if (s.looseSlots k).length ≥ need then s else (s.unbindReel p i).setRstate p i 3) s

/-- Slots bound to a Reel on its core, the lowest-numbered loose ones. -/
def State.bindReel (s : State) (p k idx need : Nat) : State :=
  let l := (s.looseSlots k).take need
  let s := l.foldl (fun s n => s.updSlot k n (fun x => { x with reel := some idx })) s
  s.updReel p idx (fun x => { x with slots := l, core := k })

/-! ### Starting a chunk -/

/-- The lowest-numbered FREE thread of a core; one whose chunk has not yet ended is none. -/
def State.freeThread (s : State) (k : Nat) : Option Nat := (upTo 64).find? (fun t => (s.thr k t).st == .free && (s.thr k t).chunk.isNone)

/-- g2 at a thread's start: logical cluster, logical core, thread (R47). -/
def State.g2At (s : State) (k t : Nat) : W64 :=
  let l := s.logOf k
  BitVec.ofNat 64 (l.1 * 65536 + l.2 * 256 + t)

/-- A thread starts at an address: every register reads zero (R46), and its first block is requested. -/
def State.startThread (s : State) (k t : Nat) (pc : W64) (regs : List (Nat × W64)) (chunk : Option Nat) : State :=
  s.updThr k t (fun _ =>
    (regs.foldl (fun (x : Thread) r => x.setG r.1 r.2) { Thread.init with chunk := chunk, startNs := s.nsW }).jump pc)

/-- A chunk starts on a thread at the Reel's ENTRY; the thread owns the Reel's slots, and a mark at position 0 loads the
reset value (R336, R337, R339). -/
def State.startChunk (s : State) (p k t idx : Nat) (c : Chunk) : State :=
  let r := s.reelRec p idx
  let s := if c.mark = 0#16 then s.loadReset p k idx else s
  let l := (s.reel p idx).slots
  let s := l.foldl (fun s n => s.updSlot k n (fun x => { x with owner := some t })) s
  let mask := l.foldl (fun a n => a + 2 ^ n) 0
  let g4 := mask + 2 ^ 8 * c.len.toNat + 2 ^ 24 * c.mark.toNat + 2 ^ 40 * c.tag.toNat
  let s := s.startThread k t (BitVec.ofNat 64 (rlEntry r))
    [(1, c.inp), (2, s.g2At k t), (3, c.handle.setWidth 64), (4, BitVec.ofNat 64 g4), (5, c.out), (6, c.arg)] (some c.serial)
  let s := (s.updChunk k c.serial (fun x => { x with
    running := true, held := false, sig := 0#64, sigLo := 0xFFFFFFFF#32, sigHi := 0#32 })).setRstate p idx 2
  s.traceRec k 8 t (rlEntry r) c.handle.toNat

/-- What the dispatcher does with one chunk of a core's queue, and whether it acted on it; a chunk for whose Reel the swap-outs of
R338 do not free enough slots waits, and they stand (R334 to R340). -/
def State.tryChunk (s : State) (p k : Nat) (c : Chunk) : State × Bool :=
  let idx := hIdx c.handle.toNat
  if c.running || c.held then (s, false)
  else if (s.core k).chunkq.any (fun x => decide (x.serial < c.serial) && hIdx x.handle.toNat == idx) then (s, false)
  else if !s.reelLive p c.handle.toNat then ((s.dropChunk k c.serial).finishChunk p c stGone 0, true)
  else if s.bankMoves p k idx then (s, false)
  else
    let r := s.reelRec p idx
    let need := rlSlots r
    match rlRstate r, s.freeThread k with
    | 0, some t =>
      let s1 := s.makeRoom p k need
      if (s1.looseSlots k).length < need then (s1, false)
      else (((s1.bindReel p k idx need).loadReset p k idx).startChunk p k t idx c, true)
    | 1, some t => (s.startChunk p k t idx c, true)
    | 3, _ =>
      let s1 := s.makeRoom p k need
      if (s1.looseSlots k).length < need then (s1, false)
      else (((s1.bindReel p k idx need).updChunk k c.serial (fun x => { x with held := true })).setRstate p idx 4, true)
    | _, _ => (s, false)

/-- A swap-out requested of a Reel: 0 accepted, 4 refused (Tables REC-6 and REC-10). -/
def State.swapOut (s : State) (p h : Nat) : Nat × State :=
  let idx := hIdx h
  let r := s.reelRec p idx
  let pinned : Bool := match s.reelCore p idx with
    | some k => s.pinnedCore k
    | none => false
  if !s.reelLive p h || rlPin r || pinned then (4, s)
  else match rlRstate r with
    | 1 => (0, (s.unbindReel p idx).setRstate p idx 3)
    | 2 => (0, s.updReel p idx (fun x => { x with swapPend := true }))
    | 4 => (0, s.updReel p idx (fun x => { x with swapPend := true }))
    | _ => (0, s)

/-- A destroy requested of a Reel: 0, or 4 when it is already GONE (Tables REC-6 and REC-10). -/
def State.destroyReel (s : State) (p h : Nat) : Nat × State :=
  let idx := hIdx h
  if !s.reelLive p h then (4, s)
  else match rlRstate (s.reelRec p idx) with
    | 2 => (0, s.updReel p idx (fun x => { x with destroyPend := true }))
    | 4 => (0, s.updReel p idx (fun x => { x with destroyPend := true }))
    | _ => (0, s.reelGone p idx)

/-- A Reel leaves RUN: a pending destroy or swap-out is done, else it is IDLE (Table REC-10). -/
def State.reelRests (s : State) (p idx : Nat) : State :=
  let d := s.reel p idx
  let n := (s.part p).doneOrder + 1
  let s := (s.updPart p (fun x => { x with doneOrder := n })).updReel p idx (fun x => { x with lastDone := n, swapPend := false })
  if d.destroyPend then s.reelGone p idx
  else if d.swapPend then (s.unbindReel p idx).setRstate p idx 3
  else s.setRstate p idx 1

/-- The Reels of a core that has no spare to take them over: their slots are lost, and the next chunk of each starts on its newest
checkpoint, swapped in, or on its reset value (R341, R345, log 80). A destroy that waited is done. -/
def State.loseReels (s : State) (p k : Nat) : State :=
  (s.part p).reels.keys.foldl (fun s i =>
    if (s.reel p i).slots.isEmpty || (s.reel p i).core != k then s
    else if (s.reel p i).destroyPend then s.reelGone p i
    else (s.unbindReel p i).setRstate p i 3) s

/-- The chunk that a completed one forwards: its forward record stands at its ARG (R349). -/
def forwardOf (c : Chunk) (f : List Byte) : Chunk :=
  { chunkFrom f with handle := c.next, len := c.len, mark := c.mark, tag := c.tag, inp := c.out }

/-- The fault of a forward: PRIV of an ARG in the S-level range, which the record's read is kept from as the chunk program is (R86,
log 79, DESIGN CHOICE), ALIGN of ARG, then TIER_FAULT outside the core store of the Reel's core (R350). -/
def State.forwardFault (s : State) (k : Nat) (c : Chunk) : Option Nat :=
  if !c.nxv then none
  else if inSRange c.arg.toNat 64 then some fcPriv
  else if c.arg.toNat % 64 ≠ 0 then some fcAlign
  else if s.reaches k .ownCore (s.pte (s.partOf k) (c.arg.toNat / 65536)) c.arg.toNat &&
      decide (c.arg.toNat < 2 ^ 48) && pteV (s.pte (s.partOf k) (c.arg.toNat / 65536)) then none
  else some fcTier

/-! ### Lock-step (R849, R855 to R857) -/

/-- A LOCKSTEP trigger: on the core's cluster, to the management owner and to the partition (R849). -/
def State.lockTrigger (s : State) (p cause core n lo hi job : Nat) : State :=
  match s.logKey p (core / 8) (core % 8) with
  | none => s
  | some k =>
    let c := keyCl k
    let off : Bool := (s.trace c).state == 0#2
    let d := trigDetail cause false c (keyCore k) n lo hi job
    let s := s.trigger (some c) cause (keyCore k) 0 n lo hi job
    let s := if off then s.postRaw 8 (s.mkEvent 0x09 8 c p true d) else s
    s.postRaw p (s.mkEvent 0x09 8 (core / 8) p false (trigDetail cause false (core / 8) (core % 8) n lo hi job))

/-- The job behind a signature: its number, or the job on the core of a Reel's chunk. -/
def State.sigJob (s : State) (p : Nat) (r : SigRec) : Option Nat :=
  if r.job < 2 ^ 32 then some r.job
  else match s.logKey p (r.core / 8) (r.core % 8) with
    | some k => (s.core k).job
    | none => none

/-- A first mismatch: every member core of the job drains and halts, and a trigger of cause 3 tells the core, the step and the
union of both page ranges (R856). -/
def State.lockMismatch (s : State) (p : Nat) (a b : SigRec) : State :=
  match s.sigJob p a with
  | none => s
  | some j =>
    if !(s.job p j).lock then s
    else
      let s := (s.jobCores p j).foldl (fun s k => s.drainCore k false) s
      let s := s.updJob p j (fun x => { x with lock := false })
      s.lockTrigger p 3 a.core a.n (min a.lo.toNat b.lo.toNat) (max a.hi.toNat b.hi.toNat) (a.job % 65536)

/-- Whether two signatures are of the same work (R855). -/
def SigRec.same (a b : SigRec) : Bool := a.job == b.job && a.n == b.n && a.core == b.core

/-- The own signatures that the partner has answered are compared (R855, R856). -/
def State.matchSigs (s : State) (p : Nat) : State :=
  (s.part p).sigs.foldl (fun s a => match (s.part p).peerSigs.find? (fun b => a.same b) with
    | none => s
    | some b =>
      let s := s.updPart p (fun x => { x with
        sigs := x.sigs.filter (fun y => !y.same a), peerSigs := x.peerSigs.filter (fun y => !y.same a) })
      if a.sig = b.sig then s else s.lockMismatch p a b) s

/-- Comparison stops: the signatures that wait are dropped, and the jobs go on (R857). -/
def State.stopLock (s : State) (p : Nat) : State :=
  s.updPart p (fun x => { x with
    lockstep := false, sigs := [], peerSigs := [], jobs := x.jobs.mapV (fun _ j => { j with lock := false }) })

/-- The signature of a chunk of a job in lock-step is sent, keyed by 2^32 + handle and SEQ (R855). -/
def State.sendChunkSig (s : State) (p k t idx serial : Nat) : State :=
  match (s.core k).job, (s.core k).chunkq.find? (fun c => c.serial == serial) with
  | some j, some c =>
    if !(s.job p j).lock then s
    else
      let s := s.traceRec k 11 t 0 c.sig.toNat
      let l := s.logOf k
      (s.sendSig p { SigRec.init with
        job := 2 ^ 32 + c.handle.toNat, n := rlSeq (s.reelRec p idx), core := 8 * l.1 + l.2, sig := c.sig, lo := c.sigLo,
        hi := c.sigHi, ns := s.nsW }).matchSigs p
  | _, _ => s

/-- Why the checkpoint of a Reel cannot be written: PRIV or WRITE_RO of its banks (R86, R95). -/
def State.bankFault (s : State) (p idx : Nat) : Option Nat :=
  let r := s.reelRec p idx
  s.partFault p (rlState r) (2 * bankBytes (rlSlots r))

/-- A chunk ends with a status: checkpoint or restore, completion, then the forward (R343, R345, R349, R350). A checkpoint whose banks
raise PRIV or WRITE_RO is not written, and the chunk is FAULTED with that code (log 79, DESIGN CHOICE). -/
def State.endChunk (s : State) (p k t : Nat) (c : Chunk) (status fcode : Nat) : State :=
  let idx := hIdx c.handle.toNat
  let fwd := if status = stOk then (match s.forwardFault k c with
    | some x => some x
    | none => s.bankFault p idx) else none
  let f := s.vrdN p c.arg.toNat 64
  let st := if fwd.isSome then stFaulted else status
  let fc := fwd.getD fcode
  let s := if st = stOk then s.checkpointReel p k t idx else s.restoreReel p k idx
  let s := s.sendChunkSig p k t idx c.serial
  let s := ((s.dropChunk k c.serial).finishChunk p c st fc).reelRests p idx
  if st = stOk ∧ c.nxv then s.submitChunk p (forwardOf c f) else s

/-! ### Instructions -/

/-- REEL.SUBMIT at issue (R331, R333). -/
def reelSubmitSem (w : W64) (h : Hart) (s : State) : Res :=
  let k := h.key
  let t := h.thr.val
  if unusedSet w (mO + mD + mA) then .fault fcIllegal 0
  else descSem k t ((s.thr k t).g (fA w)).toNat 64 64 s (fun l =>
    match (s.thr k t).freeTag with
    | none => .fault fcTags 0
    | some tag =>
      let n := (s.core k).serial
      let s := s.updCore k (fun c => { c with serial := n + 1 })
      let s := s.updThr k t (fun x => { (x.setG (fD w) (BitVec.ofNat 64 tag)) with
        tags := x.tags.put tag { serial := n, done := none } })
      .done (s.submitChunk (s.partOf k) { chunkFrom l with owner := some (chunkOwner k t tag n) }))

/-- A Reel instruction that answers in D. -/
def reelSem (f : State → Nat → Nat → W64 × State) (w : W64) (h : Hart) (s : State) : Res :=
  if unusedSet w (mO + mD + mA) then .fault fcIllegal 0
  else
    let r := f s (s.partOf h.key) ((s.thr h.key h.thr.val).g (fA w)).toNat
    .done (r.2.updThr h.key h.thr.val (fun x => x.setG (fD w) r.1))

/-- The handle in a register: a value above 32 bits names nothing. -/
def regHandle (n : Nat) : Nat := if n < 2 ^ 32 then n else 2 ^ 31

/-- The answer of REEL.QUERY: RSTATE, queued chunks, SEQ[31:0]; a handle that is GONE answers 5 (R328, log 28). -/
def State.queryReel (s : State) (p h : Nat) : W64 :=
  let r := s.reelRec p (hIdx h)
  if !s.reelLive p h then 5#64
  else
    let q := match s.reelCore p (hIdx h) with
      | some k => ((s.core k).chunkq.filter (fun c => c.handle.toNat == h && !c.running)).length
      | none => 0
    BitVec.ofNat 64 (rlRstate r + 2 ^ 8 * (q % 256) + 2 ^ 32 * (rlSeq r % 2 ^ 32))

/-- REEL_SUBMIT. -/
def execReelSubmit (a : Agent) (w : W64) (s : State) : Out := issueMeaning 0xB3 a w s [] [] (reelSubmitSem w) noCtl
/-- REEL_SWAPOUT. -/
def execReelSwapout (a : Agent) (w : W64) (s : State) : Out :=
  issueMeaning 0xB4 a w s [] [] (reelSem (fun s p h => let r := s.swapOut p (regHandle h); (BitVec.ofNat 64 r.1, r.2)) w) noCtl
/-- REEL_DESTROY. -/
def execReelDestroy (a : Agent) (w : W64) (s : State) : Out :=
  issueMeaning 0xB5 a w s [] [] (reelSem (fun s p h => let r := s.destroyReel p (regHandle h); (BitVec.ofNat 64 r.1, r.2)) w) noCtl
/-- REEL_QUERY. -/
def execReelQuery (a : Agent) (w : W64) (s : State) : Out :=
  issueMeaning 0xB6 a w s [] [] (reelSem (fun s p h => (s.queryReel p (regHandle h), s)) w) noCtl

end Sys2Proof.Machine
end

