-- ==== Sys2Proof/Machine/Spare.lean ====
section
/-! DEFINITION. DMA operations cut off, cores fenced and replaced by the spare: the phases up to the stop of the members
(R227 to R229, R641, R787, R790 to R795, R804). -/
namespace Sys2Proof.Machine

/-! ### DMA operations that end early -/

/-- Whether a thread waits at a DMA.WAIT for a tag. -/
def Thread.waitsTag (t : Thread) (tag : Nat) : Bool := match t.wait with
  | .dmaReg n _ => n == tag
  | _ => false

/-- An operation leaves its engine with a status: its tag or its host command takes it (R225, R228, R621). A DMA.WAIT that waits
for it returns, and its writes have been performed (R213). -/
def State.finishOp (s : State) (p k : Nat) (o : DmaOp) (st : BitVec 16) : State :=
  let s := s.updCore k (fun c => { c with dmaq := c.dmaq.filter (fun x => x.serial != o.serial),
                                          expBusy := if o.form = 3 then false else c.expBusy })
  let s := match o.hostTag with
    | some n => s.complete p n (st.toNat % 256) (st.toNat / 256) 0 0
    | none => (if (s.thr k o.thr).waitsTag o.tag then s.waited k o.thr o.serial else s).updThr k o.thr
        (fun t => t.tagDone o.tag o.serial st)
  s.traceRec k 7 o.thr 0 st.toNat

/-- An operation is cut off with status ABANDONED (R641, R790): its host requests are dropped, its pages keep their homes, and
what it wrote is undefined (R107). -/
def State.abandonOp (s : State) (p k : Nat) (o : DmaOp) : State :=
  let s := s.updFunc p (fun f => { f with reqs := f.reqs.filter (fun r => !(r.core == k && r.op == o.serial)) })
  let s := (s.releaseHeld p o).freeOutputs p o.dirties
  (s.finishOp p k o (dmaStatus stAbandoned 0)).pumpReqs p

/-- Every operation of a core's engine is cut off. -/
def State.abandonDma (s : State) (p k : Nat) : State :=
  (s.core k).dmaq.foldl (fun s o => s.abandonOp p k o) s

/-! ### Threads ended by the supervisor -/

/-- A live thread is ended: it is FREE once its operations have completed, its entries are discarded (R112, R790), and threads that
waited for room in the queue go on (R242). -/
def State.endThr (s : State) (k t : Nat) : State :=
  if (s.thr k t).st = .free then s
  else
    let s := s.keepEntries k (fun e => e.thr != t)
    let s := (s.freeSlots k t).updThr k t (fun x => { x with
      st := .waitMem, wait := .ending, ending := true, supEnd := true, load := none, pendV := [], freq := [] })
    (if s.hasDma k t then s else s.finishThread k t).wakeQueue k

/-- Every live thread of a core is ended. -/
def State.endThreads (s : State) (k : Nat) : State :=
  (s.core k).threads.keys.foldl (fun s t => s.endThr k t) s

/-! ### Replacing a core -/

/-- The jobs of a partition placed on a logical core. -/
def State.jobsOn (s : State) (p l j : Nat) : List Nat :=
  ((s.part p).jobs.filter (fun x => x.2.placed.contains (l, j))).map (fun x => x.1)

/-- The Reels of a core go over to the one that takes its logical number. -/
def State.moveReels (s : State) (p k k' : Nat) : State :=
  (s.part p).reels.keys.foldl (fun s i =>
    if !(s.reel p i).slots.isEmpty && (s.reel p i).core == k then
      let s := (s.reel p i).slots.foldl (fun s n => s.updSlot k' n (fun x => { x with reel := some i, owner := none })) s
      s.updReel p i (fun x => { x with core := k' })
    else s) s

/-- A chunk that will run again from its first sample (R346). -/
def Chunk.again (c : Chunk) : Chunk := { c with running := false }

/-- The spare of a cluster, if it has one. -/
def State.spareOf (s : State) (c : Nat) : Option Nat := (upTo 9).find? (fun j => (s.cl c).pstate.get 0#2 j == 1#2)

/-- The state in which a job's step is stopped on all its cores (phase 4); `lost` marks it FAULTED (R794, R800). A step that waits for
its Slate count has not started. -/
def State.stopJob (s : State) (p j : Nat) (lost : Bool) : State :=
  let s := (s.jobCores p j).foldl (fun s k => s.endThreads k) s
  s.updJob p j (fun x =>
    if x.running.isSome && x.startAt.isNone then { x with faulted := x.faulted || lost, again := !lost, stopped := !lost } else x)

/-- Whether some unit of the device is being recovered: a core by its spare, or a cluster controller by its restart (R789). -/
def State.recovering (s : State) : Bool := (upTo 8).any (fun c => (s.cl c).spareBusy.isSome || (s.cl c).ctl.fenced)

/-- Whether a cluster is being scrubbed (R795). -/
def State.scrubbingCl (s : State) (c : Nat) : Bool := (upTo 8).any (fun p => match (s.part p).scrub with
  | some x => x.2.1.getLsbD c
  | none => false)

/-- The requests of a core that are in flight: loads and instruction blocks that have not come (R807). -/
def Core.inFlight (c : Core) : Nat := c.threads.foldl (fun n t => n + b2n t.2.load.isSome + t.2.freq.length) 0

/-- EV_FAULT_CORE of a core (R787, R817). -/
def State.postCore (s : State) (k lg kind action us again : Nat) : State :=
  let c := keyCl k
  s.postUnit 0x03 1 c (8 * ((s.logCl (s.partOf k) c).getD 0) + lg) (9 * c + keyCore k) kind action (keyCore k)
    ((s.cl c).pepoch.get 0#16 (keyCore k)).toNat us again

/-- A core is declared failed: fenced, its epoch raised, its logical number bound to the spare, and the members stopped
(phases 2 to 4 of Table REL-3); with no spare the core is quarantined and its jobs are FAULTED (R793, R794). The work that a second
fault touches while the device recovers from a first one completes FAULTED (R789). -/
def State.fenceCore (s : State) (k kind : Nat) : State :=
  let c := keyCl k
  let f := keyCore k
  let p := s.partOf k
  let lg := s.logCore c f
  let spare := s.spareOf c
  let e := nextEpoch ((s.cl c).pepoch.get 0#16 f)
  let old := s.core k
  let busy := s.recovering
  let s := s.abandonDma p k
  let s := s.updCl c (fun x => { x with
    pepoch := x.pepoch.put f e, pstate := x.pstate.put f (if e = 0xFFFF#16 then 3#2 else 2#2)
    stale := if old.inFlight = 0 then x.stale else x.stale.put f (lg.getD 0, old.inFlight) })
  match lg with
  | none => s.postCore k 0 kind 4 0 0
  | some j =>
    let jobs := match s.logCl p c with
      | some l => s.jobsOn p l j
      | none => []
    match spare with
    | some sp =>
      let k' := coreKey c sp
      let s := s.updCl c (fun x => { x with
        coremap := x.coremap.put j (BitVec.ofNat 4 sp), pstate := x.pstate.put sp 0#2 })
      let s := { s with cores := (s.cores.put k' { Core.init with
        chunkq := (old.chunkq.filter (fun (x : Chunk) => !(busy && x.running))).map Chunk.again, cnt := old.cnt, full := old.full, bp := old.bp, job := old.job,
        serial := old.serial }).put k Core.init }
      if p ≥ 8 || s.scrubbingCl c then s.postCore k j kind 1 0 0
      else
        let s := s.moveReels p k k'
        let s := if busy then (old.chunkq.filter (fun x => x.running)).foldl (fun s ch => s.finishChunk p ch stFaulted 0) s else s
        let s := jobs.foldl (fun s n => if (s.job p n).kind = 2#2 then s
          else s.stopJob p n (busy || !(s.cl (s.lead p)).ckpt || !(s.job p n).ckptOn)) s
        let w := if kind = 0 then (s.cl c).wdog.toNat * 1000 else 0
        s.updCl c (fun x => { x with spareBusy := some (f, j, kind, s.ns - w) })
    | none =>
      let s := s.updCl c (fun x => { x with coremap := x.coremap.put j 15#4 })
      let s := s.updCore k (fun x => { Core.init with serial := x.serial })
      let s := if p ≥ 8 then s else s.loseReels p k
      let s := if p ≥ 8 then s else jobs.foldl (fun s n => s.stopJob p n true) s
      let s := old.chunkq.foldl (fun s ch => s.finishChunk p ch stFaulted 0) s
      s.postCore k j kind (if jobs.isEmpty then 4 else 3) 0 0

/-- A declaration of a core's failure; it waits while the core switches context (R795), and a core that is fenced already is
not declared again. -/
def State.declareCore (s : State) (k kind : Nat) : State :=
  if s.fencedCore k then s
  else if (s.core k).switching.isSome then
    s.updCl (keyCl k) (fun x => { x with declPend := x.declPend ++ [(keyCore k, kind)] })
  else s.fenceCore k kind

end Sys2Proof.Machine
end

