-- ==== Sys2Proof/Machine/Sched.lean ====
section
/-! DEFINITION. The scheduler of a partition: job parameters, placement, steps, sequences and the KV pool, pre-emption, context
switches, step checkpoints, slow members (R395 to R400, R484 to R508, R517 to R519, R794 to R800, R810 to R812, R854, R855). -/
namespace Sys2Proof.Machine

/-! ### Job parameters (Tables SCH-2 and SCH-8) -/

/-- Whether every reserved bit of a parameter block is zero. -/
def blockResv (b : List Byte) : Bool :=
  recZero b 5 3 && recZero b 12 4 && recZero b 23 1 && recZero b 31 1 && recZero b 38 2 && recZero b 62 2 && recZero b 74 22 &&
    recZero b 104 408

/-- The parameters of a block. -/
def jobOf (b : List Byte) : Job :=
  { Job.init with
    kind := BitVec.ofNat 2 (recBits b 0 2), whole := recBits b 2 1 == 1, mode := recBits b 3 1 == 1,
    pinned := recBits b 4 1 == 1, prio := recBits b 8 4, cores := recBits b 16 7, threads := recBits b 24 7,
    save := recBits b 32 6, live := BitVec.ofNat 8 (recBits b 40 8), budget := recBits b 48 14, chunk := recBits b 64 10 }

/-- CHG. -/
def blockChg (b : List Byte) : Nat := recN b 12 1

/-- Whether a serving job in SERVICE mode. -/
def Job.service (j : Job) : Bool := j.kind == 1#2 && !j.mode

/-- The ranges of Table SCH-2; a field that the kind does not use is zero (R519). -/
def Job.modeOk (j : Job) : Bool := j.kind == 1#2 || !j.mode
/-- Threads. -/
def Job.threadsOk (j : Job) : Bool := decide (1 ≤ j.threads) && decide (j.threads ≤ 64)
/-- Step budget. -/
def Job.budgetOk (j : Job) : Bool :=
  if j.service then decide (64 ≤ j.budget) && decide (j.budget ≤ 8192) && j.budget % 64 == 0 else j.budget == 0
/-- Prefill chunk. -/
def Job.chunkOk (j : Job) : Bool :=
  if j.service then decide (64 ≤ j.chunk) && decide (j.chunk ≤ 512) && j.chunk % 64 == 0 else j.chunk == 0
/-- Every parameter of a new job (R485). -/
def Job.ok (j : Job) : Bool :=
  decide (j.kind.toNat ≤ 2) && j.modeOk && decide (1 ≤ j.cores) && decide (j.cores ≤ 64) && (!j.whole || j.cores % 8 == 0) &&
    j.threadsOk && decide (j.save ≤ 32) && j.budgetOk && j.chunkOk

/-- Bytes of the two step-checkpoint banks of a core (R796, R797): none without live slots (log 29). -/
def ckptBytes (live : BitVec 8) : Nat :=
  let n := ((upTo 8).filter (fun i => live.getLsbD i)).length
  if n = 0 then 0 else 2 * bankBytes n

/-- The parameters after a JOB_SET block: the fields whose CHG bit is 1. -/
def Job.setFrom (j : Job) (b : List Byte) : Job :=
  let n := jobOf b
  let c := blockChg b
  { j with
    prio := if bitAt c 0 then n.prio else j.prio, threads := if bitAt c 1 then n.threads else j.threads,
    live := if bitAt c 2 then n.live else j.live, mode := if bitAt c 3 then n.mode else j.mode,
    budget := if bitAt c 4 then n.budget else j.budget, chunk := if bitAt c 5 then n.chunk else j.chunk,
    pinned := if bitAt c 6 then n.pinned else j.pinned }

/-- Whether the changed fields of a JOB_SET lie in their ranges (R519). -/
def Job.setOk (j : Job) (b : List Byte) : Bool :=
  let n := j.setFrom b
  let c := blockChg b
  !bitAt c 7 && (!bitAt c 1 || n.threadsOk) && (!bitAt c 3 || n.modeOk) && (!bitAt c 4 || n.budgetOk) && (!bitAt c 5 || n.chunkOk)

/-! ### Placement (R487 to R491) -/

/-- The logical cores of a partition on which no job is placed, in scan order; a logical core without a physical core is
never free (R487, R489, R794), and one of a pinned audio path is free for a job of kind REEL alone, whose chunks the path runs
(R351). -/
def State.freeCores (s : State) (p : Nat) (reel : Bool) : List (Nat × Nat) :=
  ((upTo 8).flatMap (fun l => (upTo 8).map (fun j => (l, j)))).filter (fun x => match s.logKey p x.1 x.2 with
    | some k => (s.core k).job.isNone && s.engineUp k && (reel || !s.audPinned k)
    | none => false)

/-- The cores that a job takes out of a list of free ones (R488, R491). -/
def chooseCores (j : Job) (free : List (Nat × Nat)) : Option (List (Nat × Nat)) :=
  if !j.held.isEmpty then (if j.held.all (fun x => free.contains x) then some j.held else none)
  else if j.whole then
    let cl := (upTo 8).filter (fun l => (upTo 8).all (fun k => free.contains (l, k)))
    if cl.length < j.cores / 8 then none
    else some ((cl.take (j.cores / 8)).flatMap (fun l => (upTo 8).map (fun k => (l, k))))
  else if free.length < j.cores then none
  else some (free.take j.cores)

/-- Whether the save area of a job fits the cluster stores of its cores (R489). -/
def State.saveFits (s : State) (p : Nat) (j : Job) (cores : List (Nat × Nat)) : Bool :=
  !j.held.isEmpty || (upTo 8).all (fun l =>
    let n := (cores.filter (fun x => x.1 == l)).length
    n == 0 || decide ((s.usedFrames p (1 + 32 * l)).length + s.reserved p l + j.save * n ≤ 512))

/-- The admission queue: by priority from highest, then by admission number (R490). -/
def State.admission (s : State) (p : Nat) : List Nat :=
  (((s.part p).jobs.filter (fun x => x.2.placed.isEmpty)).mergeSort (fun a b =>
    decide (b.2.prio < a.2.prio) || (decide (b.2.prio = a.2.prio) && decide (a.2.admNo ≤ b.2.admNo)))).map (fun x => x.1)

/-- A job is placed: each core begins its switch to the job, and its look-aside buffer is cleared (R368, R503, R508). -/
def State.placeJob (s : State) (p j : Nat) (cores : List (Nat × Nat)) : State :=
  let s := s.updJob p j (fun x => { x with placed := cores, held := [], victim := false, ckptOn := (s.cl (s.lead p)).ckpt, ckpt := x.saved })
  cores.foldl (fun s x => match s.logKey p x.1 x.2 with
    | some k => s.updCore k (fun c => { c with job := some j, switching := some j, lab := [] })
    | none => s) s

/-! ### Switching out (R501 to R505) -/

/-- AF_CORE pages on a logical core, which belong to the job placed there (log 23). -/
def State.corePages (s : State) (p l k : Nat) : List Nat :=
  (s.mapped p).filter (fun n => pteHome (s.pte p n) == 4 * k + 32 * l)

/-- Bytes of the images of the live slots of a core (R154, R503). -/
def State.liveBytes (s : State) (k : Nat) (live : BitVec 8) : Nat :=
  (upTo 8).foldl (fun a n => if live.getLsbD n then a + (s.slot k n).image.length else a) 0

/-- Whether a job counts as pinned (R500, R505): so set, on a core of a pinned audio path (R351), with a page that has PIN = 1, or
with more on a core than its save area holds. A REEL job has no step-checkpoint banks (R796). -/
def State.jobPinned (s : State) (p : Nat) (j : Job) : Bool :=
  j.pinned || j.placed.any (fun x =>
    let pages := s.corePages p x.1 x.2
    let images := match s.logKey p x.1 x.2 with
      | some k => s.liveBytes k j.live
      | none => 0
    (match s.logKey p x.1 x.2 with | some k => s.audPinned k | none => false) ||
    pages.any (fun n => ptePin (s.pte p n)) ||
    decide (pages.length * 65536 + images +
      (if (s.cl (s.lead p)).ckpt && j.kind != 2#2 then ckptBytes j.live else 0) > j.save * 65536))

/-- A page moved between its core and the save area; the entry alone names its home (R504). -/
def State.shiftPage (s : State) (p k page home : Nat) : State :=
  let limit := if home % 4 = 0 then 64 else 512
  match firstFree (s.usedFrames p home) 1 limit (limit + 1) 0 with
  | none => s
  | some f => s.moveGroup k 64 p [(page, entryAt (s.pte p page) home f)]

/-- The live state of a job leaves one of its cores (rank i among them): live slots saved, AF_CORE pages moved to the save
area, Reels become OUT (R502 to R504). -/
def State.leaveCore (s : State) (p j i l q : Nat) (save : Bool) : State :=
  match s.logKey p l q with
  | none => s
  | some k =>
    let x := s.job p j
    let keep := (upTo 8).filter (fun n => x.live.getLsbD n && (s.slot k n).reel.isNone)
    let s := if save then
        s.updJob p j (fun y => { y with
          saved := keep.foldl (fun m n => m.put (8 * i + n) (s.slot k n)) (y.saved.filter (fun z => z.1 / 8 != i)) })
      else s
    let pages := if save then (s.corePages p l q).filter (fun n => !ptePin (s.pte p n)) else []
    let s := pages.foldl (fun s n => (s.updJob p j (fun y => { y with savedPages := y.savedPages ++ [(n, 4 * q + 32 * l)] })).shiftPage
      p k n (1 + 32 * l)) s
    let reels := (s.part p).reels.keys.filter (fun r => !(s.reel p r).slots.isEmpty && (s.reel p r).core == k)
    let s := reels.foldl (fun s r =>
      let st := rlRstate (s.reelRec p r)
      (s.unbindReel p r).setRstate p r (if st = 5 then 5 else 3)) s
    s.updCore k (fun c => { c with job := none, switching := none, chunkq := c.chunkq.map (fun h => { h with held := false }) })

/-- Whether a core of a REEL job stands at a switch point: no chunk runs on it and none waits for a swap-in. -/
def State.chunkIdle (s : State) (k : Nat) : Bool :=
  (s.core k).chunkq.all (fun c => !c.running && !c.held) && (s.core k).threads.all (fun t => t.2.st == .free)

/-- Whether a job still holds each core that it is placed on. -/
def State.holdsAll (s : State) (p j : Nat) : Bool :=
  (s.job p j).placed.all (fun y => match s.logKey p y.1 y.2 with
    | some k => (s.core k).job == some j
    | none => true)

/-- A victim leaves the cores on which it stands at a switch point; once it has left them all it is back in the admission
queue (R501, R502). A core whose switch-in has not ended is left when it has (R503). One that counts as pinned by then is a victim no
longer (R505). -/
def State.preempt (s : State) (p j : Nat) : State :=
  let x := s.job p j
  if !x.victim || x.placed.isEmpty then s
  else if s.jobPinned p x && s.holdsAll p j then s.updJob p j (fun y => { y with victim := false })
  else
    let l := x.placed.zip (upTo x.placed.length)
    if x.kind = 2#2 then
      let s := l.foldl (fun s y => match s.logKey p y.1.1 y.1.2 with
        | some k => if (s.core k).job = some j ∧ s.chunkIdle k ∧ (s.core k).switching.isNone then
            s.leaveCore p j y.2 y.1.1 y.1.2 true else s
        | none => s) s
      if x.placed.all (fun y => match s.logKey p y.1 y.2 with
          | some k => (s.core k).job != some j
          | none => true) then
        s.updJob p j (fun y => { y with held := y.placed, placed := [], victim := false })
      else s
    else if x.running.isSome || (s.jobCores p j).any (fun k => (s.core k).switching.isSome) then s
    else
      let s := l.foldl (fun s y => s.leaveCore p j y.2 y.1.1 y.1.2 true) s
      s.updJob p j (fun y => { y with held := y.placed, placed := [], victim := false })

/-- The running job that pre-emption takes next for a job of a priority: lower priority, not pinned; the lowest priority
first, then the latest admitted (R500). -/
def State.nextVictim (s : State) (p prio : Nat) : Option Nat :=
  (((s.part p).jobs.filter (fun x => !x.2.placed.isEmpty && !x.2.victim && decide (x.2.prio < prio) &&
      !s.jobPinned p x.2)).mergeSort (fun a b =>
    decide (a.2.prio < b.2.prio) || (decide (a.2.prio = b.2.prio) && decide (b.2.admNo ≤ a.2.admNo)))).head?.map (fun x => x.1)

/-- Victims marked until the cores that they still hold would let the head be placed, or none remains (R500). -/
def State.markVictims (s : State) (p head : Nat) : Nat → State
  | 0 => s
  | n + 1 =>
    let coming := ((s.part p).jobs.filter (fun x => x.2.victim)).flatMap (fun x => x.2.placed.filter (fun y =>
      match s.logKey p y.1 y.2 with
      | some k => (s.core k).job == some x.1
      | none => false))
    if (chooseCores (s.job p head) ((s.freeCores p ((s.job p head).kind == 2#2) ++ coming).mergeSort (fun a b => decide (8 * a.1 + a.2 ≤ 8 * b.1 + b.2)))).isSome
    then s
    else match s.nextVictim p (s.job p head).prio with
      | none => s
      | some v => State.markVictims (s.updJob p v (fun x => { x with victim := true })) p head n

/-- The head of the admission queue is placed, and the next one after it, as long as that is possible (R488 to R491, R500);
victims that stand at a switch point leave at once. -/
def State.placeLoop (s : State) (p : Nat) : Nat → State
  | 0 => s
  | n + 1 =>
    match s.admission p with
    | [] => s
    | h :: _ =>
      let x := s.job p h
      match chooseCores x (s.freeCores p (x.kind == 2#2)) with
      | some cs => if s.saveFits p x cs then State.placeLoop (s.placeJob p h cs) p n else s
      | none =>
        let s1 := s.markVictims p h (s.part p).jobs.length
        let s2 := (s1.part p).jobs.keys.foldl (fun s v => s.preempt p v) s1
        match chooseCores x (s2.freeCores p (x.kind == 2#2)) with
        | some cs => if s2.saveFits p x cs then State.placeLoop (s2.placeJob p h cs) p n else s2
        | none => s2

/-! ### Steps -/

/-- Whether a job may launch a step: placed on cores that are not being replaced, no step running, not leaving, and in
lock-step with the step before the last compared (R855). -/
def State.mayLaunch (s : State) (p j : Nat) : Bool :=
  let x := s.job p j
  !x.placed.isEmpty && x.running.isNone && !x.victim && x.destroy.isNone &&
    x.placed.all (fun y => match s.physCl p y.1 with
      | some c => (s.cl c).spareBusy.isNone
      | none => true) &&
    !(x.lock && (s.part p).sigs.any (fun r => r.job == j && decide (r.n + 2 ≤ x.stepNo + 1)))

/-- A step's threads start on every core of a job (R45 to R47); a core that is lost makes the step FAULTED (R794). -/
def State.launch (s : State) (p j : Nat) : State :=
  let x := s.job p j
  let lost := x.placed.any (fun y => match s.logKey p y.1 y.2 with
    | some k => !(s.cl (keyCl k)).powered
    | none => true)
  let s := s.updJob p j (fun y => { y with
    startAt := none, launchNs := s.nsW, faulted := lost, stepNo := if y.again then y.stepNo else y.stepNo + 1 })
  if lost then s
  else
    (s.jobCores p j).foldl (fun s k =>
      let s := s.updCore k (fun c => { c with sig := 0#64, sigLo := 0xFFFFFFFF#32, sigHi := 0#32 })
      let s := (upTo x.threads).foldl (fun s t =>
        s.startThread k t (Config.stepEntry x.argBlk) [(1, x.argBlk), (2, s.g2At k t)] none) s
      s.traceRec k 9 0 0 (s.job p j).stepNo) s

/-- A step begins: at once where it has no count, or when Slate reaches its count, and then it is late by what Slate has passed
(R605, R607). -/
def State.beginStep (s : State) (p j running : Nat) (arg : BitVec 64) (count : Option Nat) : State :=
  let n := count.getD s.ns
  let s := s.updJob p j (fun x => { x with
    running := some running, argBlk := arg, faulted := false, again := false, launched := false, changed := [], wrote := [],
    moved := false, fcode := 0#8, late := BitVec.ofNat 64 (s.ns - n)
    startAt := if n > s.ns then some (BitVec.ofNat 64 n) else none })
  if n > s.ns then s else s.launch p j

/-! ### Sequences (R395 to R400, R492 to R498) -/

/-- The lowest-numbered free page of a job's KV pool (R395). -/
def State.freeKv (s : State) (p j : Nat) : Option Nat :=
  let x := s.job p j
  match x.kvFree with
  | a :: t => some (t.foldl min a)
  | [] => if x.kvNext < Config.kvPoolPages p j then some x.kvNext else none

/-- The entry of a sequence's page list in memory, which the scheduler owns (R359, log 12). -/
def State.setList (s : State) (p j q i page : Nat) : State := s.putPart p (Config.kvList p j q + 4 * i) (leBytes 4 page)

/-- The mark of an absent page in a page list (R359). -/
def kvAbsent : Nat := 0xFFFFFFFF

/-- The address of a layer of a pool page (R358). -/
def kvAddr (p j layer page : Nat) : Nat := Config.kvPool p j + layer * Config.kvLayerStride p j + page * Config.kvPageStride p j

/-- The bytes of all layers of a pool page (R358), those of the host tier as zeros until they come. A layer with an uncorrectable error
reads as free bytes, and the error is logged (R464, log 12, DESIGN CHOICE). -/
def State.kvRead (s : State) (p j page : Nat) : List Byte × State :=
  (upTo (Config.kvLayers p j)).foldl (fun (acc : List Byte × State) l =>
    let s := acc.2
    let a := kvAddr p j l page
    let n := Config.kvPageBytes p j
    if s.vbad p a n then (acc.1 ++ freeBytes (s.freeAt p) 0 n, (s.logUeV p a n false).freshP p 1)
    else (acc.1 ++ s.vrdN p a n, s)) ([], s)

/-- The parts of a pool page that lie in the host tier: offset in the bytes of all layers, virtual address, bytes (R358, R88). -/
def State.kvHost (s : State) (p j page : Nat) : List (Nat × Nat × Nat) :=
  let n := Config.kvPageBytes p j
  (upTo (Config.kvLayers p j)).flatMap (fun l =>
    let a := kvAddr p j l page
    (pagesOf a n).filterMap (fun b =>
      let e := s.pte p (b / 65536)
      if pteV e && pteTier e == 3 then some (l * n + (b - a), b, min (n - (b - a)) (65536 - b % 65536)) else none))

/-- A host request of the scheduler itself, for a page of a sequence (R399, R400, R627). -/
def State.addKvReq (s : State) (p j q i : Nat) (x : Nat × Nat × Nat) (data : Option (List Byte)) : State :=
  let h := s.hostPlace p (s.pte p (x.2.1 / 65536)) x.2.1
  let n := (s.func p).reqNum
  s.updFunc p (fun f => { f with
    reqNum := n + 1
    reqs := f.reqs ++ [{ HostReq.init with
      num := n, write := data.isSome, handle := h.1, off := h.2, bytes := x.2.2, data := data.getD [], kv := some (j, q, i, x.1) }] })

/-- Whether bytes of a sequence's pages have still to come from the host (R399). -/
def State.kvComing (s : State) (p j q : Nat) : Bool := (s.func p).reqs.any (fun r => !r.write && match r.kv with
  | some x => x.1 == j && x.2.1 == q
  | none => false)

/-- Bytes of the host tier come for a page in the swap area (R399). -/
def State.kvLand (s : State) (p : Nat) (x : Nat × Nat × Nat × Nat) (data : List Byte) : State :=
  let put (l : List Byte) : List Byte := l.take x.2.2.2 ++ data ++ l.drop (x.2.2.2 + data.length)
  if !(s.part p).jobs.has x.1 || !(s.job p x.1).seqs.has x.2.1 then s
  else s.updJob p x.1 (fun y => { y with seqs := y.seqs.upd Seq.init x.2.1 (fun z => { z with
    swap := match z.swap.find x.2.2.1 with
      | some l => z.swap.put x.2.2.1 (put l)
      | none => z.swap }) })

/-- The bytes of all layers of logical page i of a sequence written to a pool page; those of the host tier go there as requests. -/
def State.kvWrite (s : State) (p j q i page : Nat) (d : List Byte) : State :=
  let n := Config.kvPageBytes p j
  let s := (upTo (Config.kvLayers p j)).foldl (fun s l => s.putPart p (kvAddr p j l page) ((d.drop (l * n)).take n)) s
  ((s.kvHost p j page).foldl (fun s x => s.addKvReq p j q i x (some ((d.drop x.1).take x.2.2))) s).pumpReqs p

/-- A free page taken out of the pool of a job. -/
def Job.popKv (x : Job) (page : Nat) : Job :=
  { x with kvFree := x.kvFree.filter (fun n => n != page), kvNext := if page = x.kvNext then page + 1 else x.kvNext }

/-- A page taken from the pool as the next logical page of a sequence, and its page-list entry (R359, R395). -/
def State.takeKv (s : State) (p j q page : Nat) : State :=
  let i := ((s.job p j).seqs.get Seq.init q).pages.length
  (s.updJob p j (fun x => { x.popKv page with
    seqs := x.seqs.upd Seq.init q (fun y => { y with pages := y.pages ++ [page] }) })).setList p j q i page

/-- The pages of a sequence go back to the pool; a page that a resident sequence shares stays (R399, R495). -/
def State.giveKv (s : State) (p j q : Nat) : State :=
  s.updJob p j (fun x =>
    let mine := (x.seqs.get Seq.init q).pages.filter (fun n => n != kvAbsent)
    let others := (x.seqs.filter (fun y => y.1 != q && y.2.resident)).flatMap (fun y => y.2.pages)
    { x with kvFree := x.kvFree ++ mine.filter (fun n => !others.contains n)
             seqs := x.seqs.upd Seq.init q (fun y => { y with pages := [], swap := [] }) })

/-- One page of a sequence swapped out: its bytes go to the host swap area, its page-list entry is marked absent, and the pool page
is free; a page that a resident sequence shares stays (R399). -/
def State.swapOutPage (s : State) (p j q i : Nat) : State :=
  let x := s.job p j
  let n := (x.seqs.get Seq.init q).pages.getD i kvAbsent
  if n = kvAbsent ∨ x.seqs.any (fun y => y.1 != q && y.2.resident && y.2.pages.contains n) then s
  else
    let r := s.kvRead p j n
    let s := r.2.updJob p j (fun x => { x with
      kvFree := x.kvFree ++ [n]
      seqs := x.seqs.upd Seq.init q (fun y => { y with pages := y.pages.set i kvAbsent, swap := y.swap.put i r.1 }) })
    (((s.kvHost p j n).foldl (fun s x => s.addKvReq p j q i x none) s).pumpReqs p).setList p j q i kvAbsent

/-- A resident sequence is pre-empted: swapped out in ascending logical page order, and its outstanding request PREEMPTED. When it is
the one that asked for a page, its request waits for its swap-in instead (R397 to R399). -/
def State.swapOutSeq (s : State) (p j q : Nat) (self : Bool) : State :=
  let y := (s.job p j).seqs.get Seq.init q
  let s := (upTo y.pages.length).foldl (fun s i => s.swapOutPage p j q i) s
  let s := s.updJob p j (fun x => { x with
    preCount := x.preCount + 1,
    seqs := x.seqs.upd Seq.init q (fun z => { z with
      resident := false, preAt := x.preCount, run := if self then z.run else none, want := if self then z.want else 0, took := 0 }) })
  match (if self then none else y.run) with
  | some n => s.complete p n stPreempted 0 0 0
  | none => s

/-- The resident sequence that pre-emption takes first: lowest priority, latest admitted, highest number (R397). -/
def Job.kvVictim (x : Job) : Option Nat :=
  ((x.seqs.filter (fun y => y.2.resident && y.2.active)).mergeSort (fun a b =>
    decide (a.2.prio < b.2.prio) || (decide (a.2.prio = b.2.prio) && (decide (b.2.admNo < a.2.admNo) ||
      (decide (b.2.admNo = a.2.admNo) && decide (b.1 ≤ a.1)))))).head?.map (fun y => y.1)

/-- One page for a sequence, pre-empting one at a time until one is free; the sequence itself may be chosen (R395, R397). -/
def State.onePage (s : State) (p j q : Nat) : Nat → State
  | 0 => s
  | n + 1 =>
    if !((s.job p j).seqs.get Seq.init q).resident then s
    else match s.freeKv p j with
      | some g => s.takeKv p j q g
      | none => match (s.job p j).kvVictim with
        | none => s
        | some v => State.onePage (s.swapOutSeq p j v (v == q)) p j q n

/-- The pages of a sequence in the swap area come back, in ascending logical order, to pages assigned as R395 states; their list
entries are restored (R400, R401). -/
def State.swapInSeq (s : State) (p j q : Nat) : State :=
  let y := (s.job p j).seqs.get Seq.init q
  let s := s.updJob p j (fun x => { x with seqs := x.seqs.upd Seq.init q (fun z => { z with resident := true, swap := [] }) })
  y.swap.foldl (fun s d => match s.freeKv p j with
    | none => s
    | some g => ((s.updJob p j (fun x => { x.popKv g with
        seqs := x.seqs.upd Seq.init q (fun z => { z with pages := z.pages.set d.1 g }) })).kvWrite p j q d.1 g d.2).setList p j q d.1 g) s

/-- Pre-empted sequences swapped in while the pool holds all of one's pages: highest priority, then earliest pre-empted
(R400). One whose bytes have still to come from the host waits for them. -/
def State.swapIns (s : State) (p j : Nat) : Nat → State
  | 0 => s
  | n + 1 =>
    let x := s.job p j
    match ((x.seqs.filter (fun y => !y.2.resident && !s.kvComing p j y.1)).mergeSort (fun a b =>
        decide (b.2.prio < a.2.prio) || (decide (b.2.prio = a.2.prio) && decide (a.2.preAt ≤ b.2.preAt)))).head? with
    | none => s
    | some (q, y) =>
      if x.kvFree.length + (Config.kvPoolPages p j - x.kvNext) < y.swap.length then s
      else State.swapIns (s.swapInSeq p j q) p j n

/-- Sequences of a job in the order of R492: priority from highest, waited count from highest, admission from earliest. -/
def Job.seqOrder (x : Job) : List (Nat × Seq) :=
  (x.seqs.filter (fun y => y.2.resident && y.2.active && !y.2.ended)).mergeSort (fun a b =>
    decide (b.2.prio < a.2.prio) || (decide (b.2.prio = a.2.prio) && (decide (b.2.waited < a.2.waited) ||
      (decide (b.2.waited = a.2.waited) && decide (a.2.admNo ≤ b.2.admNo)))))

/-- The tokens that a step takes of each sequence (R492, R497): number and tokens, 0 for one that is skipped. -/
def Job.plan (x : Job) : List (Nat × Nat) :=
  let l := x.seqOrder
  let dec := l.filter (fun y => y.2.remaining == 0 && decide (y.2.want > 0))
  let pre := l.filter (fun y => decide (y.2.remaining > 0))
  if x.mode then dec.map (fun y => (y.1, 1)) ++ pre.map (fun y => (y.1, y.2.remaining))
  else
    let a := dec.foldl (fun (acc : List (Nat × Nat) × Nat) y =>
      if acc.2 ≥ 1 then (acc.1 ++ [(y.1, 1)], acc.2 - 1) else (acc.1 ++ [(y.1, 0)], acc.2)) ([], x.budget)
    (pre.foldl (fun (acc : List (Nat × Nat) × Nat) y =>
      let n := min y.2.remaining (min x.chunk acc.2)
      let n := if n < y.2.remaining then n / 64 * 64 else n
      (acc.1 ++ [(y.1, n)], acc.2 - n)) a).1

/-- Pages a sequence needs for the tokens of a step (R355). -/
def Seq.need (y : Seq) (n : Nat) : Nat := ceilDiv (y.pos + n) 256

/-- Pages for the sequences that the next step takes, one page at a time: the step is planned anew after each, so that the budget of
one that is pre-empted goes to the resident ones (R395, R397, R492). -/
def State.growPlan (s : State) (p j : Nat) : Nat → State
  | 0 => s
  | n + 1 =>
    let x := s.job p j
    match x.plan.find? (fun t => decide (t.2 > 0) && decide ((x.seqs.get Seq.init t.1).pages.length < (x.seqs.get Seq.init t.1).need t.2)) with
    | none => s
    | some t => State.growPlan (s.onePage p j t.1 (x.seqs.length + 1)) p j n

/-- Sequences are swapped in and pre-empted against the KV pool (action 4 of Table SCH-3). -/
def State.kvAct (s : State) (p j : Nat) : State :=
  let n := (s.job p j).seqs.length
  if (s.job p j).kind ≠ 1#2 then s else (s.swapIns p j n).growPlan p j (1025 * n)

/-- A serving job's next step is built and launched when it would take a token (action 7 of Table SCH-3, R492, R493, R497). The
argument block of a built step is stated nowhere: a free value (log 30). -/
def State.buildStep (s : State) (p j : Nat) : State :=
  let x := s.job p j
  if x.kind ≠ 1#2 ∨ !s.mayLaunch p j then s
  else
    let plan := x.plan
    if plan.all (fun t => t.2 == 0) then s
    else
      let s := s.updJob p j (fun x => { x with seqs := plan.foldl (fun m t => m.upd Seq.init t.1 (fun y =>
        { y with took := t.2, waited := if t.2 = 0 then y.waited + 1 else 0 })) x.seqs })
      (s.freshP p 1).beginStep p j 0 (Config.freeValue (s.freeAt p)) none

/-- The tokens of an ended step: prompts advance, decoding requests complete when their tokens are written (R492, R621). -/
def State.settleSeqs (s : State) (p j : Nat) (ok : Bool) : State :=
  (s.job p j).seqs.keys.foldl (fun s q =>
    let y := (s.job p j).seqs.get Seq.init q
    if y.took = 0 then s
    else if !ok then
      let s := s.updJob p j (fun x => { x with seqs := x.seqs.upd Seq.init q (fun z => { z with took := 0, run := none, want := 0 }) })
      match y.run with
      | some n => s.complete p n stFaulted 0 0 0
      | none => s
    else
      let dec := y.remaining = 0
      let want := if dec then y.want - 1 else y.want
      let done : Bool := dec && want == 0
      let s := s.updJob p j (fun x => { x with seqs := x.seqs.upd Seq.init q (fun z => { z with
        took := 0, pos := z.pos + y.took, remaining := z.remaining - (if dec then 0 else y.took), want := want,
        run := if done then none else z.run }) })
      match (if done then y.run else none) with
      | some n => s.complete p n stOk 0 0 0
      | none => s) s

/-- Sequences that SEQ_END has retired leave, and their pages are freed (R495, Table HST-4). -/
def State.retireSeqs (s : State) (p j : Nat) : State :=
  (s.job p j).seqs.keys.foldl (fun s q =>
    let y := (s.job p j).seqs.get Seq.init q
    if !y.ended then s
    else
      let s := s.giveKv p j q
      let s := match y.run with
        | some n => s.complete p n stAbandoned 0 0 0
        | none => s
      s.updJob p j (fun x => { x with seqs := x.seqs.erase q })) s

/-- The jobs of a partition by admission number (R499). -/
def State.jobsByAdm (s : State) (p : Nat) : List Nat :=
  ((s.part p).jobs.mergeSort (fun a b => decide (a.2.admNo ≤ b.2.admNo))).map (fun x => x.1)

/-- The scheduler's work when a command of a partition may let something begin (actions 4, 6 and 7 of Table SCH-3). -/
def State.schedule (s : State) (p : Nat) : State :=
  let s := s.placeLoop p ((s.part p).jobs.length + 1)
  (s.jobsByAdm p).foldl (fun s j => if s.mayLaunch p j then (s.kvAct p j).buildStep p j else s) s

/-! ### Ends of jobs -/

/-- Declarations of a core's failure that waited for its context switch take effect (R795). -/
def State.takeDecl (s : State) (k : Nat) : State :=
  if (s.core k).switching.isSome then s
  else
    let l := (s.cl (keyCl k)).declPend.filter (fun d => d.1 == keyCore k)
    let s := s.updCl (keyCl k) (fun y => { y with declPend := y.declPend.filter (fun d => d.1 != keyCore k) })
    l.foldl (fun s d => s.declareCore k d.2) s

/-- A job ends: it leaves its cores, its requests that have not run are ABANDONED, and its JOB_DESTROY completes (log 31). -/
def State.removeJob (s : State) (p j : Nat) : State :=
  let x := s.job p j
  let l := x.placed.zip (upTo x.placed.length)
  let s := l.foldl (fun s y => match s.logKey p y.1.1 y.1.2 with
    | some k => if (s.core k).job = some j then s.leaveCore p j y.2 y.1.1 y.1.2 false else s
    | none => s) s
  let s := x.seqs.foldl (fun s q => match q.2.run with
    | some n => s.complete p n stAbandoned 0 0 0
    | none => s) s
  let waits := (s.func p).cmds.filter (fun c => !c.started && c.hdr.job.toNat == j && some c.serial != x.destroy)
  let s := waits.foldl (fun s c => s.complete p c.serial stAbandoned 0 0 0) s
  let s := s.updPart p (fun y => { y with jobs := y.jobs.erase j })
  let s := (x.placed.filterMap (fun y => s.logKey p y.1 y.2)).foldl (fun s k => s.takeDecl k) s
  match x.destroy with
  | some n => s.complete p n stOk 0 0 0
  | none => s

/-- Whether a job stands at its switch point (Table SCH-1). -/
def State.atSwitch (s : State) (p j : Nat) : Bool :=
  let x := s.job p j
  if x.kind = 2#2 then (s.jobCores p j).all (fun k => s.chunkIdle k) else x.running.isNone

/-- A destroy or a pre-emption that waits for the switch point takes effect (R501, Table HST-4). -/
def State.switchPoint (s : State) (p j : Nat) : State :=
  let x := s.job p j
  if x.destroy.isSome then (if s.atSwitch p j then s.removeJob p j else s)
  else s.preempt p j

/-! ### The step boundary -/

/-- Settings of REL_SET in force on every cluster of a partition (R816, R818). -/
def State.applyRel (s : State) (p : Nat) : State :=
  match (s.part p).relPend with
  | none => s
  | some r =>
    let s := (s.clustersOf p).foldl (fun s c => s.updCl c (fun x => { x with
      policy := BitVec.ofNat 2 r.1, ckpt := r.2.1 == 1, wdog := BitVec.ofNat 9 r.2.2 })) s
    s.updPart p (fun x => { x with relPend := none })

/-- Table registers written during a step or chunk take effect (R890). -/
def State.applyCl (s : State) (c : Nat) : State :=
  s.updCl c (fun x =>
    let g (o : Nat) (d : Nat) : Nat := (x.clPend.get (BitVec.ofNat 32 d) o).toNat
    { x with
      ptRoot := BitVec.ofNat 40 (g 0 (x.ptRoot.toNat % 2 ^ 32) + 2 ^ 32 * g 4 (x.ptRoot.toNat / 2 ^ 32)),
      reelBase := BitVec.ofNat 40 (g 8 (x.reelBase.toNat % 2 ^ 32) + 2 ^ 32 * g 12 (x.reelBase.toNat / 2 ^ 32)),
      reelN := BitVec.ofNat 13 (g 16 x.reelN.toNat),
      fqBase := BitVec.ofNat 40 (g 24 (x.fqBase.toNat % 2 ^ 32) + 2 ^ 32 * g 28 (x.fqBase.toNat / 2 ^ 32)),
      fqSize := BitVec.ofNat 13 (g 32 x.fqSize.toNat), clPend := [] })

/-- The signatures of a job's cores are sent and wait for the partner's (R855). -/
def State.sendSigs (s : State) (p j : Nat) : State :=
  let x := s.job p j
  if !x.lock then s
  else
    (x.placed.foldl (fun s y => match s.logKey p y.1 y.2 with
      | none => s
      | some k =>
        let c := s.core k
        let s := s.traceRec k 11 0 0 c.sig.toNat
        s.sendSig p { SigRec.init with
          job := j, n := x.stepNo, core := 8 * y.1 + y.2, sig := c.sig, lo := c.sigLo, hi := c.sigHi, ns := s.nsW }) s).matchSigs p

/-- The live slots of a job's cores saved in the bank that is not the newest, where step checkpoints are enabled (R796). -/
def State.checkpointJob (s : State) (p j : Nat) : State :=
  let x := s.job p j
  if !(s.cl (s.lead p)).ckpt then s.updJob p j (fun y => { y with ckptOn := false })
  else
    let l := x.placed.zip (upTo x.placed.length)
    let m := l.foldl (fun (m : SMap Slot) y => match s.logKey p y.1.1 y.1.2 with
      | some k => (upTo 8).foldl (fun m n => if x.live.getLsbD n then m.put (8 * y.2 + n) (s.slot k n) else m) m
      | none => m) []
    s.updJob p j (fun y => { y with ckpt := m, ckptBank := !y.ckptBank, ckptOn := true })

/-- Settings of REL_SET that waited are in force, and the live slots of every placed BATCH or SERVING job that runs no step now are
saved if step checkpoints have become enabled (R796, R816). -/
def State.takeRel (s : State) (p : Nat) : State :=
  if (s.part p).relPend.isNone then s
  else
    let s := s.applyRel p
    ((s.part p).jobs.filter (fun x => x.2.kind != 2#2 && x.2.running.isNone && !x.2.placed.isEmpty)).foldl
      (fun s x => s.checkpointJob p x.1) s

/-- Slots of a core at the restore of a switch or a replacement: those that were saved, the others zeroed as FP32, canonical,
BASE 0, TAG 0 (R503, R798, R800). -/
def State.restoreSlots (s : State) (k i : Nat) (saved : SMap Slot) : State :=
  (upTo 8).foldl (fun s n =>
    if (s.slot k n).reel.isSome then s
    else match saved.find (8 * i + n) with
      | some x => s.updSlot k n (fun sl => { sl.ofImage x.image with owner := none })
      | none => s.updSlot k n (fun sl => { sl.zeroed 0 false 0 0 0 with owner := none })) s

/-- The time of one member in a step: from the launch until its last thread became FREE (R810). -/
def State.memberNs (s : State) (k : Nat) (x : Job) : Nat :=
  ((upTo x.threads).foldl (fun a t => max a (s.thr k t).freeNs.toNat) x.launchNs.toNat) - x.launchNs.toNat

/-- The policy acts on a member declared slow (R812, Table REL-4). -/
def State.declareSlow (s : State) (p j k t m : Nat) : State :=
  let c := keyCl k
  let pol := (s.cl (s.lead p)).policy.toNat
  let spare := (s.spareOf c).isSome
  let action := if pol = 1 then 6 else if pol = 2 ∧ spare then 1 else 5
  let s := s.postUnit 0x07 1 c (8 * (s.logOf k).1 + (s.logOf k).2) (9 * c + keyCore k) 9 action (keyCore k)
    ((s.cl c).pepoch.get 0#16 (keyCore k)).toNat (t / 1000) (m / 1000)
  if pol = 2 ∧ spare then s.updJob p j (fun x => { x with retire := some k }) else s

/-- The lag counts of a step (R810, R811). -/
def State.countLag (s : State) (p j : Nat) : State :=
  let x := s.job p j
  let ks := s.jobCores p j
  if ks.length < 2 ∨ x.again then s
  else
    let ts := ks.map (fun k => s.memberNs k x)
    let m := (ts.mergeSort (fun a b => decide (a ≤ b))).getD (ceilDiv ts.length 2 - 1) 0
    ((ks.zip ts).zip (upTo ks.length)).foldl (fun s y =>
      let n := (s.job p j).lag.get 0 y.2 + 1
      if y.1.2 > m + m / 10 then
        if n ≥ 16 then (s.updJob p j (fun x => { x with lag := x.lag.put y.2 0 })).declareSlow p j y.1.1 y.1.2 m
        else s.updJob p j (fun x => { x with lag := x.lag.put y.2 n })
      else s.updJob p j (fun x => { x with lag := x.lag.put y.2 0 })) s

/-- Whether a job's step has ended: it has started, and every thread of its cores is FREE (R288). -/
def State.stepEnded (s : State) (p j : Nat) : Bool :=
  let x := s.job p j
  x.running.isSome && x.startAt.isNone && !x.stopped && !(s.cl (s.lead p)).ctl.fenced &&
    (s.jobCores p j).all (fun k => (s.core k).threads.all (fun t => t.2.st == .free))

/-- The completion of a LAUNCH on a device: an event word of kind 3 to its partition's lead controller, with the status in the place of
the fault code and the lateness as its detail (R288, R297, R606, R607, log 36). -/
def State.launchDone (s : State) (p st late : Nat) : State :=
  s.ctlEvent (some (s.lead p)) (eventWord 3 0 0 st (min late (2 ^ 32 - 1)))

/-- The completion of the step of a job: a STEP's to the host, a LAUNCH's to the lead controller (R288, R607). -/
def State.stepDone (s : State) (p j st : Nat) : State :=
  let x := s.job p j
  let s := if x.launched then s.launchDone p st x.late.toNat else s
  match x.running with
  | some (n + 1) => s.complete p n st x.fcode.toNat x.late.toNat 0
  | _ => s

/-- The actions of Table SCH-3 at a step boundary of a job, in their order, and what else happens there (R499, R796, R812, R816,
R854, R855, R890). -/
def State.boundary (s : State) (p j : Nat) : State :=
  let x := s.job p j
  let st := if x.faulted then stFaulted else stOk
  let retire := x.retire
  let s := s.sendSigs p j
  let s := s.countLag p j
  let s := s.stepDone p j st
  let s := s.updJob p j (fun y => { y with
    running := none, again := false, stopped := false, launched := false, retire := if retire = y.retire then none else y.retire })
  let s := s.settleSeqs p j (st == stOk)
  let s := s.retireSeqs p j
  let s := s.updJob p j (fun y => { y.pendingSet.foldl (fun z b => z.setFrom b) y with pendingSet := [], lock := (s.part p).lockstep })
  let s := (s.clustersOf p).foldl (fun s c => s.applyCl c) (s.takeRel p)
  let s := s.checkpointJob p j
  let s := s.updJob p j (fun y => { y with seqs := y.seqs.mapV (fun _ q => { q with active := true }) })
  let s := match retire with
    | some k => s.fenceCore k 9
    | none => s
  let s := (s.kvAct p j).switchPoint p j
  let s := s.placeLoop p ((s.part p).jobs.length + 1)
  (s.jobsByAdm p).foldl (fun s i => if i = j then s.buildStep p i
    else if s.mayLaunch p i then (s.kvAct p i).buildStep p i else s) s

end Sys2Proof.Machine
end

