-- ==== Sys2Proof/Machine/FabBase.lean ====
section
/-! DEFINITION. Fabric commands: their descriptors and their end (R557, R560, R563, LINK_KEY_ERASE of Table SEC-3, R783). -/
namespace Sys2Proof.Machine

/-- OP. -/
def fbOp (d : List Byte) : Nat := recBits d 0 4
/-- PAIR. -/
def fbPair (d : List Byte) : Bool := recBits d 4 1 == 1
/-- NODE. -/
def fbNode (d : List Byte) : Nat := recBits d 32 18
/-- LVA. -/
def fbLva (d : List Byte) : Nat := recN d 8 8
/-- RVA. -/
def fbRva (d : List Byte) : Nat := recN d 16 8
/-- LEN. -/
def fbLen (d : List Byte) : Nat := recN d 24 8
/-- VALUE. -/
def fbValue (d : List Byte) : Nat := recN d 32 8
/-- CPL. -/
def fbCpl (d : List Byte) : Nat := recN d 40 8

/-- Fabric command updated. -/
def State.updFab (s : State) (c n : Nat) (f : FabCmd → FabCmd) : State :=
  s.updCl c (fun x => { x with fab := x.fab.map (fun y => if y.serial = n then f y else y) })

/-- A status word written at CPL, in the layout of Table ISA-8, where it may be (R79, R86, R95, R104); 0 names none (R557, R560). -/
def State.fabStatus (s : State) (p : Nat) (d : List Byte) (st : BitVec 16) : State :=
  if fbCpl d = 0 then s else s.putPart p (fbCpl d) (leBytes 8 st.toNat)

/-- A fabric command completes with a status (R560). -/
def State.finishFab (s : State) (c : Nat) (x : FabCmd) (st : BitVec 16) : State :=
  match s.ownerCl c with
  | none => s.updCl c (fun y => { y with fab := y.fab.filter (fun z => z.serial != x.serial) })
  | some p => (s.fabStatus p x.desc st).updCl c (fun y => { y with fab := y.fab.filter (fun z => z.serial != x.serial) })

/-- Every fabric command of a partition in progress completes with status ABANDONED. -/
def State.abandonFab (s : State) (p : Nat) : State :=
  (s.clustersOf p).foldl (fun s c => (s.cl c).fab.foldl (fun s x => s.finishFab c x (dmaStatus stAbandoned 0)) s) s

/-- The fabric commands of a job in progress complete with status ABANDONED. -/
def State.abandonFabOf (s : State) (p j : Nat) : State :=
  (s.clustersOf p).foldl (fun s c =>
    ((s.cl c).fab.filter (fun x => x.job == some j)).foldl (fun s x => s.finishFab c x (dmaStatus stAbandoned 0)) s) s

/-- A partition's job key is erased with its peers' counters. -/
def State.eraseKey (s : State) (p : Nat) : State :=
  s.updSecp p (fun x => { x with jobKey := none, keyJob := 0, peers := [], txCount := [], rxHigh := [], rxSeen := [] })

/-- A partition's job key is erased, and its fabric commands are abandoned (R783). -/
def State.eraseJobKey (s : State) (p : Nat) : State := (s.abandonFab p).eraseKey p

/-- LINK_KEY_ERASE: the link key of a job, if it holds one, and the job's fabric commands (Table SEC-3). -/
def State.dropLinkKey (s : State) (p j : Nat) : State :=
  let s := s.abandonFabOf p j
  if (s.secp p).keyJob = j ∧ (s.secp p).jobKey.isSome then s.eraseKey p else s

/-- The job to which a fabric command of a cluster belongs: the one that holds the partition's key where it is placed there, else the
lowest job placed there (log 64, DESIGN CHOICE). -/
def State.fabJob (s : State) (p c : Nat) : Option Nat :=
  match s.logCl p c with
  | none => none
  | some l =>
    let here := ((s.part p).jobs.filter (fun j => j.2.placed.any (fun x => x.1 == l))).map (fun j => j.1)
    let k := (s.secp p).keyJob
    if (s.secp p).jobKey.isSome && here.contains k then some k else here.head?

/-- A session closes: its keys and counts are erased (R759). -/
def State.closeSession (s : State) (p : Nat) : State :=
  s.updSecp p (fun x => { x with session := none, keys := 0#512, rxCtr := [], txCtr := [], ep1 := [], ep2 := [] })

end Sys2Proof.Machine
end

