-- ==== Sys2Proof/Machine/UsbPort.lean ====
section
/-! DEFINITION. The USB port: its endpoints, the speeds at which they work, and the burst slots of bulk traffic (R609 to R618). -/
namespace Sys2Proof.Machine

/-! ### Interfaces and endpoints (R611, Table HST-2) -/

/-- Types of endpoint. -/
inductive EpKind where
  | control
  | bulk
  | interrupt
  deriving DecidableEq, Repr

/-- An endpoint: interface none for the device, packet bytes, packets in a burst, streams, service interval in µs (0: none). -/
structure EpDesc where
  num : Nat
  input : Bool
  kind : EpKind
  iface : Option Nat
  packet : Nat
  burst : Nat
  streams : Nat
  us : Nat
  deriving DecidableEq, Repr

/-- A bulk endpoint of interface 1, at SuperSpeed. -/
def bulkEp (num : Nat) (input : Bool) : EpDesc :=
  { num := num, input := input, kind := .bulk, iface := some 1, packet := 1024, burst := 16, streams := 16, us := 0 }

/-- The interrupt endpoint of an interface. -/
def eventEp (num iface : Nat) : EpDesc :=
  { num := num, input := true, kind := .interrupt, iface := some iface, packet := 1024, burst := 1, streams := 0, us := 125 }

/-- The endpoints, described at every speed whichever partitions exist; EP0's packets have 64 bytes below SuperSpeed. -/
def State.endpoints (s : State) : List EpDesc :=
  [{ num := 0, input := true, kind := .control, iface := none, packet := if s.usb.speed.toNat ≥ 3 then 512 else 64, burst := 1,
     streams := 0, us := 0 },
   bulkEp 1 false, bulkEp 1 true, bulkEp 2 false, bulkEp 2 true, eventEp 3 0] ++ (upTo 8).map (fun p => eventEp (4 + p) (2 + p))

/-! ### What works at a speed (R609, R612 to R615) -/

/-- Whether bulk and interrupt endpoints work: full speed serves enumeration and EP0 only (Table HST-1). -/
def State.usbBulk (s : State) : Bool := s.usb.connected && decide (s.usb.speed.toNat ≥ 2)

/-- Whether bulk endpoints have streams: the port is connected at a SuperSpeed rate (R612, R614). -/
def State.usbStreams (s : State) : Bool := s.usb.connected && decide (s.usb.speed.toNat ≥ 3)

/-- Whether partition functions work at the port: it is connected at a speed with streams, and the device is no follower (R613 to
R615). -/
def State.portOpen (s : State) : Bool := s.usbStreams && s.dev.master

/-- Whether the function of a partition delivers: it operates or drains, and its partition's scrub does not run (R612, R642,
R779). -/
def State.funcSends (s : State) (p : Nat) : Bool := (s.func p).st != .off && !s.scrubbing p

/-- The GCM nonce of a sealed record (R761). -/
def sealNonce (ctr chan : Nat) (fromPart : Bool) : BitVec 96 :=
  BitVec.ofNat 96 (ctr % 2 ^ 64 + 2 ^ 64 * (chan % 256) + 2 ^ 72 * b2n fromPart)

/-! ### Burst slots (R616 to R618) -/

/-- Bytes of a burst: 16 KiB. -/
def burstBytes : Nat := (bulkEp 1 true).packet * (bulkEp 1 true).burst

/-- The owner of slot i of a frame: partitions have theirs in ascending order, and management, 8, those that none owns (log 79). -/
def State.burstOwner (s : State) (i : Nat) : Nat :=
  ((upTo 8).find? (fun p => decide (i < (upTo (p + 1)).foldl (fun a q => a + (s.usb.share.get 0#7 q).toNat) 0))).getD 8

/-- Whether an owner has a burst ready to go to the host. -/
def State.burstReady (s : State) (o : Nat) : Bool :=
  if o < 8 then s.portOpen && s.funcSends o && !((s.func o).out.isEmpty && (s.func o).in2.isEmpty) else !s.usb.mgmtIn2.isEmpty

/-- Whom a slot is granted to while the host serves an owner, 9 for none, and whether it is lent: to the first ready borrower after
the one that borrowed last; a confidential partition neither lends nor borrows (R617). -/
def State.burstTo (s : State) (want i last : Nat) : Nat × Bool :=
  let o := s.burstOwner i
  let ready (q : Nat) : Bool := q == want || s.burstReady q
  let conf (q : Nat) : Bool := decide (q < 8) && s.conf q
  if ready o then (o, false)
  else if conf o then (9, false)
  else match ((upTo 9).map (fun j => (last + 1 + j) % 9)).find? (fun q => !conf q && ready q) with
    | some q => (q, true)
    | none => (9, false)

/-- The next slot granted to an owner, and the last borrower then. -/
def State.burstNext (s : State) (want : Nat) : Nat → Nat → Nat → Option (Nat × Nat)
  | 0, _, _ => none
  | n + 1, i, last =>
    let g := s.burstTo want i last
    let last := if g.2 then g.1 else last
    if g.1 = want then some ((i + 1) % 64, last) else State.burstNext s want n ((i + 1) % 64) last

/-- So many bursts of an owner granted, each in the next slot that is its own or is lent to it; none when no slot of the frame can be
(R616 to R618, log 79). -/
def State.takeBursts (s : State) (o : Nat) : Nat → Option State
  | 0 => some s
  | n + 1 => match s.burstNext o 576 s.usb.slotPos s.usb.lastBorrow with
    | none => none
    | some x => State.takeBursts { s with usb := { s.usb with slotPos := x.1, lastBorrow := x.2 } } o n

/-- A transfer of bytes between the host and an owner, which happens once all its bursts are granted; else the host finds the stream
not ready. -/
def State.inBursts (s : State) (o bytes : Nat) (f : State → State) : State :=
  match s.takeBursts o (max 1 (ceilDiv bytes burstBytes)) with
  | none => s
  | some t => f t

end Sys2Proof.Machine
end

