-- ==== Sys2Proof/Machine/HostCmd.lean ====
section
/-! DEFINITION. The commands of a partition's host session: their arrival, their checks and their start (R92 to R95, R105,
R485, R486, R519, R619 to R628, R639, R753 to R760, R767, R768, R816, R929, R930). -/
namespace Sys2Proof.Machine

/-! ### Memory for the host -/

/-- A fault of a host access to one page of a virtual range, the host tier among them (log 32). -/
def State.hostFault (s : State) (p va : Nat) (write : Bool) : Option Nat :=
  if va ≥ 2 ^ 48 ∨ va < 65536 then some fcPage
  else if va ≥ 0xFFFF00000000 then some fcPriv
  else
    let e := s.pte p (va / 65536)
    if !pteV e then some fcPage
    else match s.devOf p e va with
      | none => some fcTier
      | some a =>
        if write && pteRo e then some fcRo
        else if s.deadStack a then some fcUe
        else none

/-- What a refused host access leaves: an access outside the ownership counts (R79), one to a failed stack is logged (R464). -/
def State.hostNote (s : State) (p va code : Nat) : State :=
  if code = fcUe then (match s.va? p va with
    | some a => s.logUe a false
    | none => s)
  else s.noteOutside p va

/-- Data written at a virtual address page by page, up to the first page that faults or the first byte that may not be written
(R79, R95, R449, R452, R458). -/
def State.hostWrite (s : State) (p va : Nat) (l : List Byte) : State × Option Nat :=
  (pagesOf va l.length).foldl (fun acc a => match acc.2 with
    | some _ => acc
    | none =>
      let s := acc.1
      let off := a - va
      let len := min (l.length - off) (65536 - a % 65536)
      match s.hostFault p a true, s.va? p a with
      | some c, _ => (s.hostNote p a c, some c)
      | none, none => (s, some fcTier)
      | none, some d =>
        let n := (s.badPart d len).getD len
        let s := ((s.vwr p a ((l.drop off).take n)).taintQueues p a n).noteChangeV p none a n
        (s, if n < len then some fcUe else none)) (s, none)

/-- Data read from a virtual range, or the fault of its first page that faults. -/
def State.hostRead (s : State) (p va n : Nat) : List Byte ⊕ Nat :=
  match (pagesOf va n).findSome? (fun a => s.hostFault p a false) with
  | some c => .inr c
  | none => if s.vbad p va n then .inr fcUe else .inl (s.vrdN p va n)

/-- The error that an access of another reader than a core meets in the ranges of a partition that it reads, or writes only in
part, where their pages may be accessed (R447, R450, R451, R452). -/
def State.hostMeets (s : State) (p : Nat) (l : List (Nat × Nat)) (write : Bool) (e : MemErr) : State :=
  match rangeByte l (errOff e) with
  | some va => (match s.hostFault p va write, s.va? p va with
    | none, some a => s.meet none a e
    | _, _ => s)
  | none => s

/-- What a host read that faults leaves: its first page that faults is noted, else the unreadable byte is logged, unless the read
itself found its error (R79, R464). -/
def State.hostMiss (s : State) (p va n : Nat) (e : MemErr) : State :=
  match (pagesOf va n).find? (fun a => (s.hostFault p a false).isSome) with
  | some a => s.hostNote p a ((s.hostFault p a false).getD 0)
  | none => s.logUeV p va n (errFails e)

/-- Whether a page of a virtual range of a partition is in motion (R104). -/
def State.mvPart (s : State) (p va n : Nat) : Bool :=
  (pagesOf va n).any (fun a => let e := s.pte p (a / 65536); pteV e && pteMv e)

/-! ### Allocation -/

/-- Frames for n units of u pages in a home, each found in turn; none when the capacity is short. -/
def State.findFrames (s : State) (p home u : Nat) (mk : Nat → Nat → W64) : Nat → Nat → State → Option State
  | 0, _, t => some t
  | n + 1, page, t =>
    match t.freeFrame p home u with
    | none => none
    | some f =>
      let t := (upTo u).foldl (fun t i => t.setPte p (page + i) (mk (page + i) f)) t
      State.findFrames s p home u mk n (page + u) t

/-- The lowest page number, a multiple of u and at least 1, from which n pages are unmapped and lie below the S-level range
(R929). -/
def State.findRange (s : State) (p u n : Nat) : Option Nat :=
  let m := s.mapped p
  let up (x : Nat) : Nat := ceilDiv x u * u
  let cands := (up 1 :: m.map (fun x => up (x + 1))).filter (fun a =>
    decide (a + n ≤ 0xFFFF0000) && !m.any (fun x => decide (a ≤ x) && decide (x < a + n)))
  match cands with
  | [] => none
  | a :: t => some (t.foldl min a)

/-- Units that the home could hold when it is empty: an allocation beyond them is refused at once. -/
def State.homeUnits (s : State) (p home : Nat) : Nat :=
  match home with
  | 0 => 64
  | 1 => 512
  | 2 => 786432 * (s.stacksOf p).length
  | _ => (s.part p).hostMap.length

/-- ALLOC: the new state and the address, none when it is refused (R92 to R94, R929, R930). -/
def State.alloc (s : State) (p flags bytes place : Nat) : Option (State × Nat) :=
  let home := flags % 4
  let pin := bitAt flags 2
  let sh := bitAt flags 3
  let big := bitAt flags 4
  let l := place % 8
  let q := bitsAt place 3 3
  let u := if big then 32 else 1
  let n := ceilDiv bytes (u * 65536)
  let h := match home with
    | 0 => 4 * q + 32 * l
    | 1 => 1 + 32 * l
    | t => t
  if (sh && home != 1 && home != 2) || (big && decide (home < 2)) || bytes == 0 || !s.homeOk p h ||
      decide (n > s.homeUnits p home) then none
  else match s.findRange p u (n * u) with
    | none => none
    | some a =>
      match s.findFrames p h u (fun _ f => mkPte big pin false sh (decide (home < 2)) false h f) n a s with
      | none => none
      | some t =>
        let al : Alloc := { Alloc.init with pages := n * u, big := big, home := BitVec.ofNat 2 home, pin := pin, sh := sh }
        some (t.updPart p (fun x => { x with allocs := x.allocs.put a al }), a * 65536)

/-- FREE: the pages are unmapped; what operations in flight have still to write there is undefined (R107). -/
def State.free (s : State) (p page : Nat) (a : Alloc) : State :=
  let s := (upTo a.pages).foldl (fun s i => s.setPte p (page + i) 0#64) s
  let s := { s with cores := s.cores.mapV (fun k c =>
    if s.partOf k = p then
      { c with dmaq := c.dmaq.map (fun (o : DmaOp) =>
          if !o.dirties.any (fun r => overlaps r.1 r.2 (page * 65536) (a.pages * 65536)) then o
          else if o.started then { o with undef := some (s.freeAt p) } else { o with stale := true }) }
    else c) }
  (s.freshP p 1).updPart p (fun x => { x with
    allocs := x.allocs.erase page
    jobs := x.jobs.mapV (fun _ j => { j with savedPages := j.savedPages.filter (fun y =>
      !(decide (page ≤ y.1) && decide (y.1 < page + a.pages))) }) })

/-- SEAL: every page of the allocation becomes read-only (R95, R930). -/
def State.sealPages (s : State) (p page : Nat) (a : Alloc) : State :=
  let s := (upTo a.pages).foldl (fun s i =>
    let e := s.pte p (page + i)
    s.setPte p (page + i) (mkPte (pteL e) (ptePin e) true (pteSh e) (pteX e) (pteMv e) (pteHome e) (pteFrame e))) s
  s.updPart p (fun x => { x with allocs := x.allocs.put page { a with sealed := true } })

/-! ### What a command is -/

/-- The bytes of a 256-bit value, least significant first. -/
def b256 (x : BitVec 256) : List Byte := leBytes 32 x.toNat

/-- The arguments of a header as a list. -/
def CmdArgs (h : CmdHdr) : List Nat :=
  [h.arg0.toNat, h.arg1.toNat, h.arg2.toNat, h.arg3.toNat, h.arg4.toNat, h.arg5.toNat]

/-- The shape of each command: arguments used, whether JOB names a job, payload bytes permitted (Tables HST-4, SEC-3, REL-5);
none for an opcode that no table lists. -/
def cmdShape (opc : Nat) : Option (Nat × Bool × (Nat → Bool)) :=
  match opc with
  | 0x00 => some (0, false, fun n => n == 0)
  | 0x01 => some (0, false, fun n => n == 64)
  | 0x02 => some (0, true, fun n => n == 64)
  | 0x03 => some (0, true, fun n => n == 0)
  | 0x04 => some (2, true, fun n => n == 0)
  | 0x05 => some (3, true, fun n => n == 0)
  | 0x06 => some (3, true, fun n => n == 0)
  | 0x07 => some (1, true, fun n => n == 0)
  | 0x08 => some (3, false, fun n => n == 0)
  | 0x09 => some (1, false, fun n => n == 0)
  | 0x0A => some (3, false, fun n => n == 0)
  | 0x0B => some (1, false, fun n => n == 0)
  | 0x0C => some (2, false, fun _ => true)
  | 0x0D => some (2, false, fun n => n == 0)
  | 0x0E => some (1, false, fun n => n % 64 == 0 && decide (n ≤ 4032))
  | 0x0F => some (0, false, fun n => n == 64)
  | 0x10 => some (1, false, fun n => n == 0)
  | 0x11 => some (3, false, fun n => n == 0)
  | 0x20 => some (0, false, fun n => n == 64)
  | 0x21 => some (0, false, fun n => n == 1600)
  | 0x22 => some (2, false, fun n => n == 0)
  | 0x23 => some (2, true, fun n => n == 1664)
  | 0x24 => some (0, true, fun n => n == 0)
  | _ => none

/-- The checks of R623 that depend on the header alone: FAULTED, ILLEGAL when one fails. -/
def State.cmdIllegal (s : State) (p opc : Nat) (h : CmdHdr) : Bool :=
  match cmdShape opc with
  | none => true
  | some (n, job, len) =>
    h.resv || ((CmdArgs h).drop n).any (fun a => a != 0) || !len h.payload.length ||
    (if job then !(s.part p).jobs.has h.job.toNat else h.job != 0#32) ||
    (let a := CmdArgs h
     let x (i : Nat) : Nat := a.getD i 0
     let j := s.job p h.job.toNat
     match opc with
     | 0x01 => !blockResv h.payload
     | 0x02 => !blockResv h.payload
     | 0x04 => j.kind != 0#2
     | 0x05 => j.kind != 1#2 || decide (x 0 > 15)
     | 0x06 => j.kind != 1#2 || !j.seqs.has (x 0)
     | 0x07 => j.kind != 1#2 || !j.seqs.has (x 0)
     | 0x08 => decide (x 0 ≥ 32) || decide (x 2 ≥ 64)
     | 0x0A => x 0 % 65536 != 0 || x 1 % 65536 != 0 || !homeImm (x 2)
     | 0x0E => decide (x 0 + h.payload.length / 8 > 65536)
     | 0x10 => decide (x 0 ≥ 2 ^ 32)
     | 0x11 => decide (x 0 > 2) || decide (x 1 > 1) || decide (x 2 < 10) || decide (x 2 > 500)
     | 0x21 => (h.payload.drop 1568).any (fun b => b != 0#8)
     | 0x22 => x 1 % 64 != 0
     | 0x23 => decide (x 1 < 1) || decide (x 1 > 4096) || (h.payload.drop 1616).any (fun b => b != 0#8)
     | _ => false)

/-! ### Starting a command -/

/-- A command that completes at its start. -/
def State.done1 (s : State) (p : Nat) (c : HCmd) (st fc d0 : Nat) : State := s.complete p c.serial st fc d0 0

/-- An EP2 IN transfer that completes a command when the host has taken it (log 33). -/
def State.sendData (s : State) (p : Nat) (c : HCmd) (l : List Byte) : State :=
  s.updFunc p (fun f => { f with in2 := f.in2 ++ [(c.serial + 1, bulk c.hdr.tag.toNat 0 l)] })

/-- JOB_CREATE (R485, R519, R797). -/
def State.doCreate (s : State) (p : Nat) (c : HCmd) : State :=
  let b := c.hdr.payload
  let j := jobOf b
  if blockChg b ≠ 0 ∨ !j.ok then s.done1 p c stRefused 0 0
  else if (s.cl (s.lead p)).ckpt ∧ j.kind ≠ 2#2 ∧ ckptBytes j.live > j.save * 65536 then s.done1 p c stRefused 0 0
  else
    let n := (s.part p).nextJob
    let a := (s.part p).nextAdmit
    let s := s.updPart p (fun x => { x with
      nextJob := n + 1, nextAdmit := a + 1, jobs := x.jobs.put n { j with admNo := a, lock := x.lockstep } })
    (s.done1 p c stOk 0 n).schedule p

/-- Whether a step or a chunk of a job is running. -/
def State.jobBusy (s : State) (p j : Nat) : Bool := !s.atSwitch p j

/-- JOB_SET (R486, R519). -/
def State.doSet (s : State) (p : Nat) (c : HCmd) : State :=
  let j := c.hdr.job.toNat
  let b := c.hdr.payload
  if !(s.job p j).setOk b then s.done1 p c stRefused 0 0
  else
    let s := if s.jobBusy p j then s.updJob p j (fun x => { x with pendingSet := x.pendingSet ++ [b] })
      else s.updJob p j (fun x => x.setFrom b)
    (s.done1 p c stOk 0 0).schedule p

/-- SEQ_ADMIT (R396, R494). -/
def State.doAdmit (s : State) (p : Nat) (c : HCmd) : State :=
  let j := c.hdr.job.toNat
  let x := s.job p j
  if c.hdr.arg2.toNat > 262144 then s.done1 p c stRefused 0 0
  else
    let n := x.nextSeq
    let s := s.updJob p j (fun y => { y with
      nextSeq := n + 1
      seqs := y.seqs.put n { Seq.init with
        prio := c.hdr.arg0.toNat, admNo := n, remaining := c.hdr.arg2.toNat, prompt := c.hdr.arg1,
        active := y.running.isNone } })
    (s.done1 p c stOk 0 n).schedule p

/-- SEQ_RUN (R396, Table HST-4). -/
def State.doRun (s : State) (p : Nat) (c : HCmd) : State :=
  let j := c.hdr.job.toNat
  let q := c.hdr.arg0.toNat
  let y := (s.job p j).seqs.get Seq.init q
  let n := c.hdr.arg1.toNat
  if y.pos + y.remaining + n > 262144 then s.done1 p c stRefused 0 0
  else if n = 0 then s.done1 p c stOk 0 0
  else
    (s.updJob p j (fun x => { x with seqs := x.seqs.upd Seq.init q (fun z => { z with
      run := some c.serial, want := n, outAddr := c.hdr.arg2 }) })).schedule p

/-- SEQ_END (Table HST-4): at once when no step runs. -/
def State.doEnd (s : State) (p : Nat) (c : HCmd) : State :=
  let j := c.hdr.job.toNat
  let s := s.updJob p j (fun x => { x with seqs := x.seqs.upd Seq.init c.hdr.arg0.toNat (fun z => { z with ended := true }) })
  let s := if (s.job p j).running.isSome then s else s.retireSeqs p j
  (s.done1 p c stOk 0 0).schedule p

/-- The core whose engine runs a partition's host MOVEs: the first of its lead cluster. -/
def State.hostCore (s : State) (p : Nat) : Option Nat :=
  ((upTo 8).findSome? (fun j => s.physCore (s.lead p) j)).map (fun j => coreKey (s.lead p) j)

/-- MOVE of the host enters a DMA engine (R100, R621). -/
def State.doMove (s : State) (p : Nat) (c : HCmd) : State :=
  match s.hostCore p with
  | none => s.done1 p c stRefused 0 0
  | some k =>
    s.updCore k (fun x => { x with serial := x.serial + 1, dmaq := x.dmaq ++ [{ DmaOp.init with
      serial := x.serial, thr := 64, kind := .move, dst := c.hdr.arg0, len := c.hdr.arg1, dest := c.hdr.arg2.setWidth 8,
      hostTag := some c.serial }] })

/-- WRITE with its EP2 OUT transfer: 64 bytes of data header, then the data (R625, R626, log 34). -/
def State.cmdWrite (s : State) (p : Nat) (c : HCmd) : State :=
  let l := c.hdr.payload
  let n := c.hdr.arg1.toNat
  if recN l 0 4 ≠ c.hdr.tag.toNat ∨ recBits l 32 2 ≠ 0 ∨ recN l 8 8 ≠ n then s.done1 p c stFaulted fcIllegal 0
  else
    let va := c.hdr.arg0.toNat
    let r := (s.hostMeets p (s.edges p va n) true c.err).hostWrite p va (sliceB l 64 n)
    match r.2 with
    | some f => r.1.done1 p c stFaulted f 0
    | none => r.1.done1 p c stOk 0 0

/-- READ: its data leave as one EP2 IN transfer (R626). -/
def State.doRead (s : State) (p : Nat) (c : HCmd) : State :=
  let va := c.hdr.arg0.toNat
  let n := c.hdr.arg1.toNat
  let s := s.hostMeets p [(va, n)] false c.err
  match s.hostRead p va n with
  | .inr f => (s.hostMiss p va n c.err).done1 p c stFaulted f 0
  | .inl l => s.sendData p c l

/-- HOSTMAP (Table HST-4): handles of the host page map. -/
def State.doHostmap (s : State) (p : Nat) (c : HCmd) : State :=
  let l := c.hdr.payload
  let s := s.updPart p (fun x => { x with hostMap := (upTo (l.length / 8)).foldl (fun m i =>
    m.put (c.hdr.arg0.toNat + i) (BitVec.ofNat 64 (recN l (8 * i) 8))) x.hostMap })
  s.done1 p c stOk 0 0

/-- REL_SET (R797, R816): in force from the next step boundary, or now when no step runs. -/
def State.doRelSet (s : State) (p : Nat) (c : HCmd) : State :=
  if c.hdr.arg1 = 1#64 ∧ (s.part p).jobs.any (fun j => j.2.kind != 2#2 && decide (ckptBytes j.2.live > j.2.save * 65536)) then
    s.done1 p c stRefused 0 0
  else
    let s := s.updPart p (fun x => { x with relPend := some (c.hdr.arg0.toNat, c.hdr.arg1.toNat, c.hdr.arg2.toNat) })
    let s := if (s.part p).jobs.any (fun j => j.2.running.isSome) then s else s.takeRel p
    s.done1 p c stOk 0 0

/-- SESSION_OPEN (R758, R760). -/
def State.doSession (s : State) (p : Nat) (c : HCmd) : State :=
  let x := s.secp p
  if !s.conf p ∨ x.session.isSome then s.done1 p c stRefused 0 0
  else
    let ct := c.hdr.payload.take 1568
    let ss := kemDecap s.sec.rs ct
    let hc := shake256 ct
    let ks := shake512 (b256 ss ++ ascii "TQ64 SES" ++ [BitVec.ofNat 8 p] ++ b256 hc)
    (s.updSecp p (fun y => { y with session := some hc, keys := ks, rxCtr := [], txCtr := [] })).done1 p c stOk 0 0

/-- MEASURE: the range is checked, and the hash engine takes it in its owner's slots (R756, R757). -/
def State.doMeasure (s : State) (p : Nat) (c : HCmd) : State :=
  let va := c.hdr.arg0.toNat
  let n := c.hdr.arg1.toNat
  match (pagesOf va n).findSome? (fun a => s.hostFault p a false) with
  | some f => (s.hostMiss p va n .none).done1 p c stFaulted f 0
  | none => s.updSecp p (fun x => { x with hashQ := x.hashQ ++ [(c.serial, va, n, [])] })

/-- Free 64 KiB units of a cluster store of a partition. -/
def State.clusterRoom (s : State) (p l : Nat) : Nat := 512 - ((s.usedFrames p (1 + 32 * l)).length + s.reserved p l)

/-- LINK_KEY (R767, R768). -/
def State.doLinkKey (s : State) (p : Nat) (c : HCmd) : State :=
  let x := s.secp p
  let j := c.hdr.job.toNat
  let n := c.hdr.arg1.toNat
  let l := (s.logCl p (s.lead p)).getD 0
  let old := ceilDiv (64 * x.peers.length) 65536
  if !s.conf p ∨ (x.jobKey.isSome ∧ x.keyJob ≠ j) ∨ ceilDiv (64 * n) 65536 > s.clusterRoom p l + old then s.done1 p c stRefused 0 0
  else
    let va := c.hdr.arg0.toNat
    let s := s.hostMeets p [(va, 4 * n)] false c.err
    match s.hostRead p va (4 * n) with
    | .inr f => (s.hostMiss p va (4 * n) c.err).done1 p c stFaulted f 0
    | .inl b =>
      let ct := c.hdr.payload.take 1568
      let w := sliceB c.hdr.payload 1568 48
      let ss := kemDecap s.sec.rs ct
      let kek := shake256 (b256 ss ++ ascii "TQ64 LNK" ++ [BitVec.ofNat 8 p] ++ leBytes 4 j)
      match gcmOpen kek 0#96 [] (w.take 32) (w.drop 32) with
      | none => s.done1 p c stRefused 0 0
      | some k =>
        (s.updSecp p (fun y => { y with
          jobKey := some (BitVec.ofNat 256 (leVal (k.take 32))), keyJob := j, txCount := [], rxHigh := [], rxSeen := []
          peers := (upTo n).map (fun i => BitVec.ofNat 18 (recN b (4 * i) 4)) })).done1 p c stOk 0 0

/-- The effect of a command at its start. -/
def State.startCmd (s : State) (p : Nat) (c : HCmd) : State :=
  let h := c.hdr
  let j := h.job.toNat
  if s.cmdIllegal p c.opc.toNat h then s.done1 p c stFaulted fcIllegal 0
  else match c.opc.toNat with
  | 0x01 => s.doCreate p c
  | 0x02 => s.doSet p c
  | 0x03 =>
    let s := s.updJob p j (fun x => { x with destroy := some c.serial })
    if s.atSwitch p j then (s.removeJob p j).schedule p else s
  | 0x04 => s.beginStep p j (c.serial + 1) h.arg0 (if h.arg1 = 0#64 then none else some h.arg1.toNat)
  | 0x05 => s.doAdmit p c
  | 0x06 => s.doRun p c
  | 0x07 => s.doEnd p c
  | 0x08 => match s.alloc p h.arg0.toNat h.arg1.toNat h.arg2.toNat with
    | some r => (r.1.done1 p c stOk 0 r.2).schedule p
    | none => s.done1 p c stRefused 0 0
  | 0x09 => match (if h.arg0.toNat % 65536 = 0 then (s.part p).allocs.find (h.arg0.toNat / 65536) else none) with
    | some a => ((s.free p (h.arg0.toNat / 65536) a).done1 p c stOk 0 0).schedule p
    | none => s.done1 p c stRefused 0 0
  | 0x0A => s.doMove p c
  | 0x0B => match (if h.arg0.toNat % 65536 = 0 then (s.part p).allocs.find (h.arg0.toNat / 65536) else none) with
    | some a => if a.sh then (s.sealPages p (h.arg0.toNat / 65536) a).done1 p c stOk 0 0 else s.done1 p c stRefused 0 0
    | none => s.done1 p c stRefused 0 0
  | 0x0C => s.cmdWrite p c
  | 0x0D => s.doRead p c
  | 0x0E => s.doHostmap p c
  | 0x0F => s.submitChunk p { chunkFrom h.payload with cmd := some c.serial }
  | 0x10 => let r := s.destroyReel p h.arg0.toNat
    r.2.done1 p c (if r.1 = 0 then stOk else stRefused) 0 0
  | 0x11 => s.doRelSet p c
  | 0x20 => s.updSecp p (fun x => { x with signQ := x.signQ ++ [(c.serial, h.payload)] })
  | 0x21 => s.doSession p c
  | 0x22 => s.doMeasure p c
  | 0x23 => s.doLinkKey p c
  | 0x24 => (s.dropLinkKey p j).done1 p c stOk 0 0
  | _ => s.done1 p c stOk 0 0

/-- Whether the resources of a command are free (R105, R622): a STEP's job, a SEQ_RUN's sequence, the pages that a FREE,
WRITE, READ, MEASURE or LINK_KEY touches. -/
def State.cmdFree (s : State) (p : Nat) (c : HCmd) : Bool :=
  let h := c.hdr
  let va := h.arg0.toNat
  s.cmdIllegal p c.opc.toNat h || (match c.opc.toNat with
  | 0x04 => s.mayLaunch p h.job.toNat
  | 0x06 => (((s.job p h.job.toNat).seqs.get Seq.init va).run).isNone
  | 0x09 => match (s.part p).allocs.find (va / 65536) with
    | some a => !s.motionMeets p (va / 65536) a.pages
    | none => true
  | 0x0C => !s.mvPart p va h.arg1.toNat
  | 0x0D => !s.mvPart p va h.arg1.toNat
  | 0x22 => !s.mvPart p va h.arg1.toNat
  | 0x23 => !s.mvPart p va (4 * h.arg1.toNat)
  | _ => true)

/-- Whether a command that has arrived may start (R619, R622): a FENCE command after every earlier one has completed, the
commands of one job in their order of arrival, the WRITEs in theirs (R626). -/
def State.cmdReady (s : State) (p : Nat) (c : HCmd) : Bool :=
  let earlier := (s.func p).cmds.filter (fun x => decide (x.serial < c.serial))
  !c.started && (!c.hdr.fence || earlier.isEmpty) &&
    !earlier.any (fun x => !x.started && ((x.hdr.job == c.hdr.job && c.hdr.job != 0#32) ||
      (x.opc == c.opc && c.opc == 0x0C#8) || (x.hdr.fence && c.hdr.fence))) && s.cmdFree p c

/-- The commands of a function that may start do, oldest first. -/
def State.pumpN (s : State) (p : Nat) : Nat → State
  | 0 => s
  | n + 1 =>
    match (s.func p).cmds.find? (fun c => s.cmdReady p c) with
    | none => s
    | some c =>
      let s := s.updFunc p (fun f => { f with cmds := f.cmds.map (fun x => if x.serial = c.serial then { x with started := true } else x) })
      State.pumpN (s.startCmd p c) p n

/-- Every command that may start does. -/
def State.pump (s : State) (p : Nat) : State := s.pumpN p ((s.func p).cmds.length)

/-- Whether a function holds as many commands as it may (R620). -/
def State.funcFull (s : State) (p : Nat) : Bool := decide ((s.func p).cmds.length ≥ 256)

/-- EP1 OUT of a function answers NRDY (R620). -/
def State.notReady (s : State) (p : Nat) : State := s.updFunc p (fun f => { f with nrdy := true })

/-- A command has arrived: REFUSED at or after a disable; on a confidential partition without a session only NOP, ATTEST and
SESSION_OPEN are accepted (R639, R758). An accepted one posts an event word of kind 2 to the lead controller, whose detail no rule
states (R297, log 56). -/
def State.arriveCmd (s : State) (p opc : Nat) (h : CmdHdr) (e : MemErr) : State :=
  let f := s.func p
  let c : HCmd := { serial := f.serial, opc := BitVec.ofNat 8 opc, hdr := h, started := false, tArr := s.nsW, err := e }
  match f.st with
  | .off => s
  | .draining => s.postCompletion p c stRefused 0 0 0
  | .operating =>
    let s := s.updFunc p (fun f => { f with serial := f.serial + 1 })
    if s.conf p ∧ (s.secp p).session.isNone ∧ opc ≠ 0x00 ∧ opc ≠ 0x20 ∧ opc ≠ 0x21 then s.postCompletion p c stRefused 0 0 0
    else
      let s := (s.freshP p 1).ctlEvent (some (s.lead p)) (eventWord 2 0 0 0 (Config.freeValue (s.freeAt p)).toNat)
      (s.updFunc p (fun f => { f with cmds := f.cmds ++ [c] })).pump p

/-- The host sends a command: NRDY while the function does not operate, holds 256 or is granted no burst slot (R613 to R617, R620).
A command of a partition with an open session arrives out of sealed records (log 35). -/
def State.arrive (s : State) (p opc : Nat) (h : CmdHdr) (e : MemErr) : State :=
  if !s.boot.running || !s.portOpen || (s.func p).st == .off then s
  else if (s.func p).st == .operating && s.funcFull p then s.notReady p
  else s.inBursts p (64 + h.payload.length) (fun s => s.arriveCmd p opc h e)

/-- The meaning of a command row of Table HST-4, Table SEC-3 or Table REL-5; e is the error that its memory access will meet. -/
def hostRow (opc : Nat) (p : Fin 8) (h : CmdHdr) (e : MemErr) (s : State) : Out := whenLive s (s.arrive p.val opc h e)

/-- CMD_NOP. -/
def execCmdNop (p : Fin 8) (h : CmdHdr) (s : State) : Out := hostRow 0x00 p h .none s
/-- JOB_CREATE. -/
def execJobCreate (p : Fin 8) (h : CmdHdr) (s : State) : Out := hostRow 0x01 p h .none s
/-- JOB_SET. -/
def execJobSet (p : Fin 8) (h : CmdHdr) (s : State) : Out := hostRow 0x02 p h .none s
/-- JOB_DESTROY. -/
def execJobDestroy (p : Fin 8) (h : CmdHdr) (s : State) : Out := hostRow 0x03 p h .none s
/-- STEP. -/
def execStep (p : Fin 8) (h : CmdHdr) (s : State) : Out := hostRow 0x04 p h .none s
/-- SEQ_ADMIT. -/
def execSeqAdmit (p : Fin 8) (h : CmdHdr) (s : State) : Out := hostRow 0x05 p h .none s
/-- SEQ_RUN. -/
def execSeqRun (p : Fin 8) (h : CmdHdr) (s : State) : Out := hostRow 0x06 p h .none s
/-- SEQ_END. -/
def execSeqEnd (p : Fin 8) (h : CmdHdr) (s : State) : Out := hostRow 0x07 p h .none s
/-- ALLOC. -/
def execAlloc (p : Fin 8) (h : CmdHdr) (s : State) : Out := hostRow 0x08 p h .none s
/-- FREE. -/
def execFree (p : Fin 8) (h : CmdHdr) (s : State) : Out := hostRow 0x09 p h .none s
/-- CMD_MOVE. -/
def execCmdMove (p : Fin 8) (h : CmdHdr) (s : State) : Out := hostRow 0x0A p h .none s
/-- SEAL. -/
def execSeal (p : Fin 8) (h : CmdHdr) (s : State) : Out := hostRow 0x0B p h .none s
/-- WRITE. -/
def execWrite (p : Fin 8) (h : CmdHdr) (e : MemErr) (s : State) : Out := hostRow 0x0C p h e s
/-- READ. -/
def execRead (p : Fin 8) (h : CmdHdr) (e : MemErr) (s : State) : Out := hostRow 0x0D p h e s
/-- HOSTMAP. -/
def execHostmap (p : Fin 8) (h : CmdHdr) (s : State) : Out := hostRow 0x0E p h .none s
/-- CMD_REEL_SUBMIT. -/
def execCmdReelSubmit (p : Fin 8) (h : CmdHdr) (s : State) : Out := hostRow 0x0F p h .none s
/-- CMD_REEL_DESTROY. -/
def execCmdReelDestroy (p : Fin 8) (h : CmdHdr) (s : State) : Out := hostRow 0x10 p h .none s
/-- REL_SET. -/
def execRelSet (p : Fin 8) (h : CmdHdr) (s : State) : Out := hostRow 0x11 p h .none s
/-- ATTEST. -/
def execAttest (p : Fin 8) (h : CmdHdr) (s : State) : Out := hostRow 0x20 p h .none s
/-- SESSION_OPEN. -/
def execSessionOpen (p : Fin 8) (h : CmdHdr) (s : State) : Out := hostRow 0x21 p h .none s
/-- MEASURE. -/
def execMeasure (p : Fin 8) (h : CmdHdr) (s : State) : Out := hostRow 0x22 p h .none s
/-- LINK_KEY. -/
def execLinkKey (p : Fin 8) (h : CmdHdr) (e : MemErr) (s : State) : Out := hostRow 0x23 p h e s
/-- LINK_KEY_ERASE. -/
def execLinkKeyErase (p : Fin 8) (h : CmdHdr) (s : State) : Out := hostRow 0x24 p h .none s

end Sys2Proof.Machine
end

