-- ==== Sys2Proof/Machine/FabNet.lean ====
section
/-! DEFINITION. The torus: packets as units, routes, the broadcast tree, and packets queued at links (R525 to R534, R546 to
R551, R566, R571, R572). -/
namespace Sys2Proof.Machine

/-! ### Packets and units -/

/-- The header unit of a packet (Table FAB-4). -/
def packetHead (k : Packet) : BitVec 256 :=
  BitVec.ofNat 256 (k.type.toNat + 2 ^ 4 * b2n k.dl + 2 ^ 5 * b2n k.bc + 2 ^ 6 * b2n k.pair + 2 ^ 8 * k.part.toNat +
    2 ^ 11 * k.sub.toNat + 2 ^ 16 * k.epoch.toNat + 2 ^ 32 * k.dst.toNat + 2 ^ 56 * k.src.toNat + 2 ^ 80 * k.len.toNat +
    2 ^ 96 * k.tid.toNat + 2 ^ 112 * k.status.toNat + 2 ^ 120 * k.fcode.toNat + 2 ^ 128 * k.addr.toNat +
    2 ^ 176 * k.value.toNat)

/-- Units of a packet (R534). -/
def packetUnits (len : Nat) : Nat := 1 + ceilDiv len 32

/-- The units of a packet: its header, then its data padded with zeros. -/
def packetBits (k : Packet) : List (BitVec 256) :=
  packetHead k :: (upTo (ceilDiv k.len.toNat 32)).map (fun i => BitVec.ofNat 256 (recN k.data (32 * i) 32))

/-- The packet of a header unit and its data units. -/
def packetOf (h : BitVec 256) (l : List (BitVec 256)) : Packet :=
  let x := h.toNat
  { type := BitVec.ofNat 4 x, dl := bitAt x 4, bc := bitAt x 5, pair := bitAt x 6, part := BitVec.ofNat 3 (x / 2 ^ 8),
    sub := BitVec.ofNat 5 (x / 2 ^ 11), epoch := BitVec.ofNat 16 (x / 2 ^ 16), dst := BitVec.ofNat 18 (x / 2 ^ 32),
    src := BitVec.ofNat 18 (x / 2 ^ 56), len := BitVec.ofNat 9 (x / 2 ^ 80), tid := BitVec.ofNat 16 (x / 2 ^ 96),
    status := BitVec.ofNat 8 (x / 2 ^ 112), fcode := BitVec.ofNat 8 (x / 2 ^ 120), addr := BitVec.ofNat 48 (x / 2 ^ 128),
    value := BitVec.ofNat 64 (x / 2 ^ 176),
    data := (l.flatMap (fun u => leBytes 32 u.toNat)).take (x / 2 ^ 80 % 512) }

/-- The class of a packet in a flit: REQ0, REQ1, RSP0, RSP1, FWD0, FWD1 as 1 to 6; 0 for the sideband and reserved types
(Tables FAB-3 and FAB-5). -/
def packetClass (k : Packet) : Nat :=
  if k.type.toNat ≤ 2 then 1 + b2n k.dl
  else if k.type.toNat ≤ 4 then 3 + b2n k.dl
  else if k.type.toNat = 5 then 5 + b2n k.dl
  else 0

/-- The owner whose slots a packet uses: its partition number, FWD for a STREAM (R538, R574). -/
def packetOwner (k : Packet) : Nat := if k.type.toNat = 5 then 8 else k.part.toNat

/-! ### Links -/

/-- A counter of a link's block advanced, saturating (R583). -/
def State.linkCnt (s : State) (l off : Nat) : State := s.updLink l (fun x => { x with cnt := x.cnt.upd 0#32 off satInc })

/-- The owner of slot i of a link's frame: 0 to 7 a partition, 8 FWD, 15 none (R535). -/
def slotOwner (map : BitVec 256) (i : Nat) : Nat := bitsAt map.toNat (4 * i) 4

/-- Slots of an owner in a map. -/
def slotsOf (map : BitVec 256) (o : Nat) : Nat := ((upTo 64).filter (fun i => slotOwner map i == o)).length

/-- Slots of a map that no owner has. -/
def slotsFree (map : BitVec 256) : Nat := ((upTo 64).filter (fun i => decide (slotOwner map i > 8))).length

/-- The free credits of an owner on a link, key 9 the loan pool: 64 per slot until some are taken (R541). -/
def Link.credits (x : Link) (o : Nat) : Nat :=
  x.holding.get (64 * (if o = 9 then slotsFree x.slotmap else slotsOf x.slotmap o)) o

/-! ### Routes (R546 to R549) -/

/-- Coordinate of a node in dimension d: X, Y, Z as 0, 1, 2. -/
def coord (n d : Nat) : Nat := bitsAt n (12 - 6 * d) 6
/-- A node with the coordinate of a dimension replaced. -/
def withCoord (n d v : Nat) : Nat := n - coord n d * 2 ^ (12 - 6 * d) + v * 2 ^ (12 - 6 * d)
/-- Size of the fabric in a dimension (R568, DEV.SIZES). -/
def State.ringSize (s : State) (d : Nat) : Nat := coord s.dev.sizes.toNat d + 1
/-- The device's own coordinates. -/
def State.node (s : State) : Nat := s.dev.node.toNat

/-- The position after one hop in a ring of n. -/
def ringNext (n a : Nat) (pos : Bool) : Nat := if pos then (a + 1) % n else (a + n - 1) % n

/-- Whether the link out of a node in a direction is in the fault map, seen from either of its ends (R547). -/
def State.linkBad (s : State) (node d : Nat) (pos : Bool) : Bool :=
  let far := withCoord node d (ringNext (s.ringSize d) (coord node d) pos)
  s.dev.faultMap.any (fun x => (x.1.toNat == node && x.2 == 2 * d + b2n (!pos)) || (x.1.toNat == far && x.2 == 2 * d + b2n pos))

/-- Whether a segment of so many hops holds a failed link. -/
def State.segBad (s : State) (d : Nat) (pos : Bool) : Nat → Nat → Bool
  | 0, _ => false
  | k + 1, node =>
    s.linkBad node d pos || s.segBad d pos k (withCoord node d (ringNext (s.ringSize d) (coord node d) pos))

/-- The way in one ring from a node to a coordinate: none when unreachable, else the direction, if any (R546 to R548). -/
def State.ringWay (s : State) (node d b : Nat) : Option (Option Bool) :=
  let n := s.ringSize d
  let a := coord node d
  if a = b then some none
  else
    let up := (b + n - a) % n
    let pos : Bool := decide (2 * up ≤ n)
    let hops (p : Bool) : Nat := if p then up else n - up
    if !s.segBad d pos (hops pos) node then some (some pos)
    else if !s.segBad d (!pos) (hops (!pos)) node then some (some (!pos))
    else none

/-- The route from this device to a node: none when it lies outside the fabric or is unreachable; some none when it is this
device; else the link of the first hop (R546 to R548, R561). -/
def State.route (s : State) (dst : Nat) : Option (Option Nat) :=
  if (upTo 3).any (fun d => decide (coord dst d ≥ s.ringSize d)) then none
  else
    let ways := (upTo 3).map (fun d =>
      let base := (upTo d).foldl (fun n e => withCoord n e (coord dst e)) s.node
      (d, s.ringWay base d (coord dst d)))
    if ways.any (fun w => w.2.isNone) then none
    else some ((ways.findSome? (fun w => match w.2 with
      | some (some pos) => some (2 * w.1 + b2n (!pos))
      | _ => none)))

/-- The dateline class of a packet that leaves on a link: 0 when it starts the dimension, 1 once it crosses the link between
coordinates n − 1 and 0 (R549). -/
def State.dateline (s : State) (input out : Nat) (dl : Bool) : Bool :=
  let d := out / 2
  let a := coord s.node d
  let dl := if input < 6 ∧ input / 2 = d then dl else false
  dl || (if out % 2 = 0 then a + 1 == s.ringSize d else a == 0)

/-! ### Queues of links -/

/-- The number of the sideband packet that an input of a link queues: that of the packet received last, or the next one for the
device's own. -/
def State.sbId (s : State) (l input : Nat) : Nat := if input < 7 then (s.link input).sbNum else (s.link l).sbNum + 1

/-- A packet queued at a link for its input (0 to 6 a link, 7 the device's own engines): in its class, or in the sideband
(R533, R540). -/
def State.enqueue (s : State) (l input : Nat) (k : Packet) : State :=
  let n := s.sbId l input
  if packetClass k = 0 then s.updLink l (fun x => { x with
    sbq := x.sbq ++ [{ SbEnt.init with input := input, id := n, pkt := k }], sbNum := if input < 7 then x.sbNum else n })
  else s.updLink l (fun x => { x with txq := x.txq ++ [{ TxEnt.init with
    input := input, inCls := packetClass k, cls := packetClass k, pkt := k, units := packetBits k }] })

/-- A packet sent towards its destination: over PR when PAIR is set, else by the route; one that has no way is lost. A
quarantined device sends no packet of its own except REPORT (R808). -/
def State.sendPacket (s : State) (input : Nat) (k : Packet) : State :=
  if s.dev.quar && input == 7 && !(k.type == 6#4 && k.sub == 1#5) then s
  else if k.pair then s.enqueue 6 input { k with dl := false }
  else match s.route k.dst.toNat with
    | some (some l) => s.enqueue l input { k with dl := s.dateline input l k.dl }
    | _ => s

/-- A packet of this device with its source and its epoch filled in. -/
def State.ownPacket (s : State) (k : Packet) : Packet := { k with src := s.dev.node, epoch := s.dev.epoch }

/-- Whether a ring through a node holds a failed link (R572). -/
def State.ringFails (s : State) (node d : Nat) : Bool := s.segBad d true (s.ringSize d) node

/-- The links on which a device starts a ring of the broadcast tree. -/
def State.startRing (s : State) (d : Nat) : List Nat :=
  if s.ringSize d = 1 then []
  else if s.ringFails s.node d then
    (if s.linkBad s.node d true then [] else [2 * d]) ++ (if s.linkBad s.node d false then [] else [2 * d + 1])
  else [2 * d]

/-- The links on which a device forwards a broadcast of a root that reached it on a link, none for the root itself. A device
reached in X starts its Y ring and, as the device at which that Y ring begins, its Z ring, so that every device is reached
exactly once (R571, R572, log 38). -/
def State.treeLinks (s : State) (root : Nat) (input : Option Nat) : List Nat :=
  match input with
  | none => s.startRing 0 ++ s.startRing 1 ++ s.startRing 2
  | some l =>
    let d := l / 2
    let pos : Bool := l % 2 == 1
    let next := ringNext (s.ringSize d) (coord s.node d) pos
    let on := if next = coord root d ∨ s.linkBad s.node d pos then [] else [2 * d + b2n (!pos)]
    on ++ (if d = 0 then s.startRing 1 ++ s.startRing 2 else if d = 1 then s.startRing 2 else [])

/-- Data of a packet ended with zeros at a multiple of 16 bytes (R532). -/
def pad16 (l : List Byte) : List Byte := l ++ List.replicate ((16 - l.length % 16) % 16) 0#8

/-- A management packet with a word in its first data bytes, which end with zeros at 16 (log 36). -/
def withWord (k : Packet) (v : Nat) : Packet := { k with len := 16#9, data := leBytes 16 (v % 2 ^ 64) }

/-- The word that a management packet carries. -/
def mgmtWord (k : Packet) : Nat := recN k.data 0 8

/-- A management packet broadcast from this device; over the dateline of a ring it starts in class 1 (R549, R571). -/
def State.broadcast (s : State) (k : Packet) : State :=
  let k := s.ownPacket { k with type := 6#4, bc := true }
  (s.treeLinks s.node none).foldl (fun s l => s.enqueue l 7 { k with dl := s.dateline 7 l false }) s

/-- A management packet sent to one node. -/
def State.sendMgmt (s : State) (dst : BitVec 18) (sub : Nat) (v : Nat) : State :=
  s.sendPacket 7 (s.ownPacket (withWord { Packet.init with type := 6#4, sub := BitVec.ofNat 5 sub, dst := dst } v))

/-- The master of a fabric stands at (0, 0, 0) (R567). -/
def masterNode : BitVec 18 := 0#18

/-- A report to the master: kind 0 an enumeration with sizes, 1 a boot status, 2 a failed link, 3 a stale node (log 36). The
master itself takes it at once. -/
def reportValue (kind v : Nat) : Nat := v + 2 ^ 60 * kind

/-! ### Dropped packets -/

/-- The master sends FENCE with VALUE 0 to a node whose packets carry a stale epoch (R808). -/
def State.fenceNode (s : State) (node : BitVec 18) (v : Nat) : State :=
  s.sendPacket 7 { s.ownPacket { Packet.init with
    type := 6#4, sub := 8#5, dst := node, value := BitVec.ofNat 64 v } with
    addr := (s.dev.eptab.get 0#16 node.toNat).setWidth 48 }

/-- A packet whose epoch is not that of its source in the epoch table is dropped: counted, EV_FENCE to the management owner,
and the node is reported to the master (R566, R808). -/
def State.epochDrop (s : State) (l : Nat) (k : Packet) : State :=
  let s := s.linkCnt l 0x118
  let e := (s.dev.eptab.get 0#16 k.src.toNat).toNat
  let s := s.postDev 0x06 0 0 k.part.toNat (relDetail 8 4 0 e k.src.toNat 1 0)
  if s.dev.master then s.fenceNode k.src 0
  else s.sendMgmt masterNode 1 (reportValue 3 k.src.toNat)

/-- Whether a packet's epoch is current. -/
def State.epochOk (s : State) (k : Packet) : Bool := k.epoch == s.dev.eptab.get 0#16 k.src.toNat

end Sys2Proof.Machine
end

