-- ==== Sys2Proof/Machine/FabDst.lean ====
section
/-! DEFINITION. Fabric requests at their destination, responses at their source, and the fabric engines (R555 to R566,
R574, R575, R768 to R774). -/
namespace Sys2Proof.Machine

/-! ### Sealing by the job key (R769 to R771) -/

/-- The additional data of a packet: its header unit, its dateline class, which changes on the way, taken as 0 (log 37). -/
def linkAad (k : Packet) : List Byte := leBytes 32 (packetHead { k with dl := false }).toNat

/-- A packet of a confidential partition sealed under its job key: the tag ends its data and counts in LEN (R534, R769). -/
def State.sealPacket (s : State) (p : Nat) (k : Packet) (rsp : Bool) (ctr : Nat) : Packet :=
  if !s.conf p then k
  else
    let k := { k with len := k.len + 16#9 }
    let key := (s.secp p).jobKey.getD 0#256
    { k with data := gcmSeal key (linkNonce k.src.toNat k.dst.toNat rsp ctr) (linkAad k) k.data }

/-- The plain data of a packet of a confidential partition, when its tag verifies. -/
def State.openPacket (s : State) (p : Nat) (k : Packet) (rsp : Bool) (ctr : Nat) : Option (List Byte) :=
  match (s.secp p).jobKey with
  | none => none
  | some key =>
    if k.len.toNat < 16 then none
    else gcmOpen key (linkNonce k.src.toNat k.dst.toNat rsp ctr) (linkAad k) (k.data.take (k.len.toNat - 16))
      (k.data.drop (k.len.toNat - 16))

/-- The value congruent to TID modulo 2^16 that lies nearest a count (R771). -/
def nearest (high tid : Nat) : Nat :=
  let b := high / 65536 * 65536 + tid
  let far (x : Nat) : Nat := (high - x) + (x - high)
  let best := if b + 65536 - high ≤ far b then b + 65536 else b
  if b ≥ 65536 ∧ far (b - 65536) < far best then b - 65536 else best

/-- An authentication drop of a partition (R771). -/
def State.authDrop (s : State) (p : Nat) : State := s.updSecp p (fun x => { x with authDrop := satInc x.authDrop })

/-- A request of a confidential partition accepted: its counter and its plain data (R771). -/
def State.acceptReq (s : State) (p : Nat) (k : Packet) : Option (Nat × List Byte) :=
  let x := s.secp p
  let src := k.src.toNat
  if !x.peers.contains k.src then none
  else
    let high := (x.rxHigh.get 0#64 src).toNat
    let ctr := nearest high k.tid.toNat
    if ctr + 384 ≤ high ∨ x.rxSeen.contains (src, ctr) then none
    else (s.openPacket p k false ctr).map (fun l => (ctr, l))

/-- The count of an accepted request is noted. -/
def State.noteCount (s : State) (p src ctr : Nat) : State :=
  s.updSecp p (fun x =>
    let high := max (x.rxHigh.get 0#64 src).toNat ctr
    { x with rxHigh := x.rxHigh.put src (BitVec.ofNat 64 high)
             rxSeen := (x.rxSeen.filter (fun y => y.1 != src || decide (y.2 + 384 > high))) ++ [(src, ctr)] })

/-! ### A request at its destination -/

/-- The response of a request. -/
def State.respond (s : State) (p : Nat) (k : Packet) (ctr st fc : Nat) (data : List Byte) : Packet :=
  let data := pad16 data
  let r := s.ownPacket { Packet.init with
    type := if k.type = 0#4 then 3#4 else 4#4, pair := k.pair, part := k.part, dst := k.src, tid := k.tid
    status := BitVec.ofNat 8 st, fcode := BitVec.ofNat 8 fc, len := BitVec.ofNat 9 data.length, data := data }
  s.sealPacket p r true ctr

/-- The effect of an accepted request on a partition's memory, and its response (R533, R558 to R560); e is the error that it meets. -/
def State.perform (s : State) (p : Nat) (k : Packet) (ctr n : Nat) (data : List Byte) (e : MemErr) : State × Packet :=
  let va := k.addr.toNat
  let s := match k.type.toNat with
    | 0 => s.hostMeets p [(va, n)] false e
    | 1 => s.hostMeets p (s.edges p va n) true e
    | _ => if va % 8 ≠ 0 then s else s.hostMeets p [(va, 8)] true e
  match k.type.toNat with
  | 0 => match s.hostRead p va n with
    | .inl l => (s, s.respond p k ctr stOk 0 l)
    | .inr f => let s := s.hostMiss p va n e; (s, s.respond p k ctr stFaulted f [])
  | 1 =>
    let r := s.hostWrite p va (data.take n)
    match r.2 with
    | none => (r.1, r.1.respond p k ctr stOk 0 [])
    | some f => (r.1, r.1.respond p k ctr stFaulted f [])
  | _ =>
    if va % 8 ≠ 0 then (s, s.respond p k ctr stFaulted fcAlign [])
    else match s.hostFault p va true, s.vbad p va 8 with
      | none, false =>
        let m := max (s.vrdVal p va 8) k.value.toNat
        let s := ((s.vwr p va (leBytes 8 m)).taintQueues p va 8).noteChangeV p none va 8
        (s, s.respond p k ctr stOk 0 [])
      | some f, _ => let s := s.hostNote p va f; (s, s.respond p k ctr stFaulted f [])
      | none, true => let s := s.logUeV p va 8 (errFails e); (s, s.respond p k ctr stFaulted fcUe [])

/-! ### A response at its source -/

/-- The fabric command of a partition that a response matches: its cluster and the command. -/
def State.findFab (s : State) (p : Nat) (k : Packet) : Option (Nat × FabCmd) :=
  (s.clustersOf p).findSome? (fun c =>
    ((s.cl c).fab.find? (fun x => x.dstNode == k.src && fbPair x.desc == k.pair &&
      x.sent.any (fun y => y.1 == k.tid.toNat))).map (fun x => (c, x)))

/-- Packets of a command that have not left are withdrawn (R560). -/
def State.withdraw (s : State) (c n : Nat) : State :=
  match (s.cl c).fab.find? (fun x => x.serial == n) with
  | none => s
  | some x =>
    let p := (s.ownerCl c).getD 8
    let mine (e : TxEnt) : Bool :=
      e.input == 7 && decide (e.pkt.type.toNat ≤ 2) && e.pkt.part.toNat == p && e.pkt.dst == x.dstNode &&
        x.sent.any (fun y => y.1 == e.pkt.tid.toNat)
    let gone := (upTo 7).flatMap (fun l => ((s.link l).txq.filter mine).map (fun e => e.pkt.tid.toNat))
    let s := (upTo 7).foldl (fun s l => s.updLink l (fun y => { y with txq := y.txq.filter (fun e => !mine e) })) s
    s.updFab c n (fun y => { y with sent := y.sent.filter (fun z => !gone.contains z.1), left := [] })

/-- A command with no request outstanding or left to send completes (R560). -/
def State.settleFab (s : State) (c n : Nat) : State :=
  match (s.cl c).fab.find? (fun x => x.serial == n) with
  | none => s
  | some x => if x.sent.isEmpty && x.left.isEmpty then s.finishFab c x (x.failed.getD (dmaStatus stOk 0)) else s

/-- A response takes its request off its command; read data land at LVA, and a failure ends the command's sending
(R558, R560). -/
def State.takeResponse (s : State) (p c : Nat) (x : FabCmd) (k : Packet) (data : List Byte) (e : MemErr) : State :=
  let y := (x.sent.find? (fun y => y.1 == k.tid.toNat)).getD (0, 0, 0)
  let s := s.updFab c x.serial (fun z => { z with sent := z.sent.filter (fun w => w.1 != k.tid.toNat) })
  let r : State × Option (BitVec 16) :=
    if k.status ≠ 0#8 then (s, some (dmaStatus k.status.toNat k.fcode.toNat))
    else if k.type = 3#4 then
      let va := (fbLva x.desc + y.2.1) % 2 ^ 64
      let w := (s.hostMeets p (s.edges p va y.2.2) true e).hostWrite p va (data.take y.2.2)
      (w.1, w.2.map (fun f => dmaStatus stFaulted f))
    else (s, none)
  let s := match r.2 with
    | none => r.1
    | some st => (r.1.updFab c x.serial (fun z => { z with failed := match z.failed with
        | some a => some a
        | none => some st })).withdraw c x.serial
  s.settleFab c x.serial

/-! ### Arrival -/

/-- A response arrives: one that matches no request, or whose tag fails, is an authentication drop in a confidential
partition and is dropped in any other (R560, R771). -/
def State.arriveRsp (s : State) (l : Nat) (k : Packet) (e : MemErr) : State :=
  let p := k.part.toNat
  match s.findFab p k with
  | none => if s.conf p then s.authDrop p else s
  | some (c, x) =>
    let ctr := nearest (((s.secp p).txCount.get 0#64 k.src.toNat).toNat) k.tid.toNat
    let data := if s.conf p then s.openPacket p k true ctr else some k.data
    match data with
    | none => s.authDrop p
    | some d =>
      let y := (x.sent.find? (fun y => y.1 == k.tid.toNat)).getD (0, 0, 0)
      if k.type = 3#4 ∧ k.status = 0#8 ∧ s.mvPart p ((fbLva x.desc + y.2.1) % 2 ^ 64) y.2.2 then
        s.updPart p (fun z => { z with fabWait := z.fabWait ++ [(l, k, e)] })
      else s.takeResponse p c x k d e

/-- A response is sent back, or taken at once when the source is this device itself. -/
def State.sendBack (s : State) (l : Nat) (r : Packet) : State :=
  if !r.pair && r.dst == s.dev.node then s.arriveRsp l r .none else s.sendPacket 7 r

/-- A request arrives: REFUSED when no partition of its number exists; for a confidential partition only when R771 accepts
it; it waits while its page is in motion (R104, R559, R565, R771). -/
def State.arriveReq (s : State) (l : Nat) (k : Packet) (e : MemErr) : State :=
  let p := k.part.toNat
  if !s.exists? p then s.sendBack l (s.respond 8 k 0 stRefused 0 [])
  else
    let n := k.len.toNat - (if s.conf p then 16 else 0)
    if s.mvPart p k.addr.toNat (if k.type = 2#4 then 8 else n) then s.updPart p (fun z => { z with fabWait := z.fabWait ++ [(l, k, e)] })
    else if s.conf p then
      match s.acceptReq p k with
      | none => s.authDrop p
      | some (ctr, d) =>
        let r := (s.noteCount p k.src.toNat ctr).perform p k ctr n d e
        r.1.sendBack l r.2
    else
      let r := s.perform p k 0 n k.data e
      r.1.sendBack l r.2

/-- A STREAM packet arrives: its data are written at its address, or it is dropped and counted when the partition is absent
or confidential or a page faults (R574, R575, R774). -/
def State.arriveStream (s : State) (l : Nat) (k : Packet) (e : MemErr) : State :=
  let p := k.part.toNat
  if !s.exists? p || s.conf p then s.linkCnt l 0x11C
  else if s.mvPart p k.addr.toNat k.len.toNat then s.updPart p (fun z => { z with fabWait := z.fabWait ++ [(l, k, e)] })
  else match (pagesOf k.addr.toNat k.len.toNat).find? (fun a => (s.hostFault p a true).isSome) with
    | some a => (s.hostNote p a ((s.hostFault p a true).getD 0)).linkCnt l 0x11C
    | none => ((s.hostMeets p (s.edges p k.addr.toNat k.len.toNat) true e).hostWrite p k.addr.toNat (k.data.take k.len.toNat)).1

/-! ### The fabric engines -/

/-- Data bytes of a packet of a partition at most (R534, R558). -/
def State.fabMax (s : State) (p : Nat) : Nat := if s.conf p then 240 else 256

/-- The packet of one piece of a command, numbered by the next count for its destination; the fault of its local read
(R558, R770). -/
def State.fabReq (s : State) (p : Nat) (x : FabCmd) (off n : Nat) : (State × Packet) ⊕ Nat :=
  let d := x.desc
  let dst := x.dstNode
  let ctr := ((s.secp p).txCount.get 0#64 dst.toNat).toNat
  let mk (data : List Byte) : State × Packet :=
    let k := s.ownPacket { Packet.init with
      type := BitVec.ofNat 4 (match fbOp d with | 0 => 1 | 1 => 0 | _ => 2), pair := fbPair d, part := BitVec.ofNat 3 p
      dst := dst, tid := BitVec.ofNat 16 ctr, addr := BitVec.ofNat 48 (fbRva d + off), value := BitVec.ofNat 64 (if fbOp d = 2 then fbValue d else 0)
      len := BitVec.ofNat 9 n, data := data }
    (s.updSecp p (fun y => { y with txCount := y.txCount.put dst.toNat (BitVec.ofNat 64 (ctr + 1)) }), s.sealPacket p k false ctr)
  if fbOp d = 0 then
    match s.hostRead p ((fbLva d + off) % 2 ^ 64) n with
    | .inl l => .inl (mk l)
    | .inr f => .inr f
  else .inl (mk (List.replicate n 0#8))

/-- A request goes to its link and is outstanding; one for this device itself is performed at once. -/
def State.sendReq (s : State) (c n : Nat) (off len : Nat) (k : Packet) : State :=
  let own := !k.pair && k.dst == s.dev.node
  let t := k.tid.toNat
  let s := s.updFab c n (fun x => { x with
    sent := x.sent ++ [(t, off, len)], sentAt := if own then x.sentAt.put t s.ns else x.sentAt.erase t })
  if own then s.arriveReq 7 k .none else s.sendPacket 7 k

/-- Whether a NOTIFY waits: an earlier WRITE of its queue to the same destination has not completed (R564). -/
def State.fabHeld (s : State) (c : Nat) (x : FabCmd) : Bool :=
  fbOp x.desc == 2 && (s.cl c).fab.any (fun y => decide (y.serial < x.serial) && fbOp y.desc == 0 && y.dstNode == x.dstNode &&
    fbPair y.desc == fbPair x.desc)

/-- Whether the next transaction number of a partition for a destination is still in use (R532, R558). -/
def State.tidBusy (s : State) (p : Nat) (dst : BitVec 18) : Bool :=
  let n := ((s.secp p).txCount.get 0#64 dst.toNat).toNat % 65536
  (s.clustersOf p).any (fun c => (s.cl c).fab.any (fun y => y.dstNode == dst && y.sent.any (fun z => z.1 == n)))

/-- The pieces of a command that are left sent in ascending address order, up to the first that cannot be read; a NOTIFY waits for
earlier WRITEs, and a piece for a free transaction number (R558, R560, R564). -/
def State.sendMore (s : State) (c p n : Nat) : Nat → State
  | 0 => s
  | i + 1 => match (s.cl c).fab.find? (fun x => x.serial == n) with
    | none => s
    | some x => match x.left with
      | [] => s
      | y :: r =>
        if x.failed.isSome then s.updFab c n (fun z => { z with left := [] })
        else if s.fabHeld c x || s.tidBusy p x.dstNode then s
        else
          let s := s.updFab c n (fun z => { z with left := r })
          match s.fabReq p x y.1 y.2 with
          | .inl q => State.sendMore (q.1.sendReq c n y.1 y.2 q.2) c p n i
          | .inr f => (s.hostMiss p ((fbLva x.desc + y.1) % 2 ^ 64) y.2 .none).updFab c n (fun z => { z with
              failed := some (dmaStatus stFaulted f), left := [] })

/-- The commands of a cluster's engine go on in their order, and those that are done complete. -/
def State.pumpFab (s : State) (c p : Nat) : State :=
  ((s.cl c).fab.map (fun x => (x.serial, x.left.length))).foldl (fun s x => (s.sendMore c p x.1 (x.2 + 1)).settleFab c x.1) s

/-- The commands of every engine of a partition go on. -/
def State.pumpFabs (s : State) (p : Nat) : State := (s.clustersOf p).foldl (fun s c => s.pumpFab c p) s

/-- Offsets and lengths of the packets of a command. -/
def fabPieces (op len m : Nat) : List (Nat × Nat) :=
  if op ≥ 2 then [(0, 0)]
  else (upTo (ceilDiv len m)).map (fun i => (m * i, min m (len - m * i)))

/-- The checks of a packet on arrival at its destination: a packet on PR must come from the twin, and no other may have
PAIR set; then its epoch (R550, R566). Its data bytes count for its partition. -/
def State.checked (s : State) (l : Nat) (k : Packet) (f : State → State) : State :=
  let s := if k.type.toNat ≤ 5 then s.updPart k.part.toNat (fun x => { x with
      linkRx := x.linkRx.upd 0 l (fun n => n + k.len.toNat) }) else s
  if (if l = 6 then !k.pair || k.src != s.dev.node else k.pair) then s.linkCnt l 0x120
  else if !s.epochOk k then s.epochDrop l k
  else f s

/-- A data packet arrives at this device. -/
def State.arriveData (s : State) (l : Nat) (k : Packet) (e : MemErr) : State :=
  s.checked l k (fun s =>
    if k.type.toNat ≤ 2 then s.arriveReq l k e
    else if k.type.toNat ≤ 4 then (s.arriveRsp l k e).pumpFabs k.part.toNat
    else s.arriveStream l k e)

/-- Packets that waited for pages in motion are taken again. -/
def State.retryFab (s : State) (p : Nat) : State :=
  let l := (s.part p).fabWait
  (l.foldl (fun s x =>
    if x.2.1.type.toNat ≤ 2 then s.arriveReq x.1 x.2.1 x.2.2
    else if x.2.1.type.toNat ≤ 4 then s.arriveRsp x.1 x.2.1 x.2.2
    else s.arriveStream x.1 x.2.1 x.2.2) (s.updPart p (fun y => { y with fabWait := [] }))).pumpFabs p

/-- Whether a packet row's packet reaches this device: its link carries traffic and it names this node. -/
def State.here (s : State) (l : Nat) (k : Packet) : Bool := s.linkUp l && (k.pair || k.dst == s.dev.node)

/-- The meaning of a data packet row: a packet of its type arrives on a link; e is the error that it meets in memory. -/
def dataRow (ty : Nat) (l : Fin 7) (k : Packet) (e : MemErr) (s : State) : Out :=
  if k.type.toNat ≠ ty then .fault .malformed
  else whenLive s (if s.here l.val k then s.arriveData l.val k e else s)

/-- RD (R533, R559, R565). -/
def execRd (l : Fin 7) (k : Packet) (e : MemErr) (s : State) : Out := dataRow 0 l k e s
/-- WR. -/
def execWr (l : Fin 7) (k : Packet) (e : MemErr) (s : State) : Out := dataRow 1 l k e s
/-- NOTIFY (R564). -/
def execNotify (l : Fin 7) (k : Packet) (e : MemErr) (s : State) : Out := dataRow 2 l k e s
/-- RDATA (R560). -/
def execRdata (l : Fin 7) (k : Packet) (e : MemErr) (s : State) : Out := dataRow 3 l k e s
/-- ACKR (R560). -/
def execAckr (l : Fin 7) (k : Packet) (s : State) : Out := dataRow 4 l k .none s
/-- STREAM (R574, R575). -/
def execStream (l : Fin 7) (k : Packet) (e : MemErr) (s : State) : Out := dataRow 5 l k e s

/-- Whether a destination has a way (R548, R561). -/
def State.fabWay (s : State) (d : List Byte) : Bool :=
  if fbPair d then s.linkUp 6 || decide ((s.link 6).state.toNat = 1) else (s.route (fbNode d)).isSome

/-- Whether a command of a confidential partition may send: its job holds the key, and its destination is a peer (R772). -/
def State.keyed (s : State) (p : Nat) (x : FabCmd) : Bool :=
  (s.secp p).jobKey.isSome && x.job == some (s.secp p).keyJob && (s.secp p).peers.contains x.dstNode

/-- The descriptor at the HEAD of a cluster's fabric queue starts when its OP is that of the row; one with a reserved OP, by any row, and
ends with ILLEGAL (R555 to R561, R772, log 64). What a WRITE reads may hold an error not yet found (R447). -/
def State.startFab (s : State) (c p op : Nat) (e : MemErr) : State :=
  let base := (s.cl c).fqBase.toNat
  let n := max 1 (s.cl c).fqSize.toNat
  let tail := s.rdVal base 8
  let head := s.rdVal (base + 8) 8
  if base / 0x4000000 ≠ clStore c 0 / 0x4000000 ∨ head % n = tail % n then s
  else
    let d := s.rdN (base + 64 + 64 * (head % n)) 64
    if fbOp d ≠ op ∧ fbOp d ≤ 2 then s
    else if fbOp d = 0 ∧ s.mvPart p (fbLva d) (fbLen d) then s
    else
      let s := s.wrVal (base + 8) 8 ((head + 1) % n)
      let i := (s.cl c).fabSerial
      let dst : BitVec 18 := if fbPair d then s.dev.node else BitVec.ofNat 18 (fbNode d)
      let x : FabCmd := { FabCmd.init with serial := i, desc := d, dstNode := dst, job := s.fabJob p c }
      let s := s.updCl c (fun y => { y with fabSerial := i + 1, fab := y.fab ++ [x] })
      if fbOp d > 2 then s.finishFab c x (dmaStatus stFaulted fcIllegal)
      else if !s.fabWay d || (s.conf p && !s.keyed p x) then
        s.finishFab c x (dmaStatus stRefused 0)
      else
        let s := if op = 0 then s.hostMeets p [(fbLva d, fbLen d)] false e else s
        (s.updFab c i (fun z => { z with left := fabPieces op (fbLen d) (s.fabMax p) })).pumpFab c p

/-- The meaning of a fabric row: the engine of a cluster starts one descriptor. -/
def fabRow (op : Nat) (c : Fin 8) (e : MemErr) (s : State) : Out :=
  whenLive s (match s.ownerCl c.val with
    | none => s
    | some p => if s.dev.quar || !(s.cl c.val).powered || s.scrubbing p then s else s.startFab c.val p op e)

/-- FABRIC_WRITE. -/
def execFabricWrite (c : Fin 8) (e : MemErr) (s : State) : Out := fabRow 0 c e s
/-- FABRIC_READ. -/
def execFabricRead (c : Fin 8) (s : State) : Out := fabRow 1 c .none s
/-- FABRIC_NOTIFY. -/
def execFabricNotify (c : Fin 8) (s : State) : Out := fabRow 2 c .none s

/-- Whether a request of a command has had no response for 1 ms since it was last sent (R563). -/
def FabCmd.late (x : FabCmd) (ns : Nat) : Bool :=
  x.sent.any (fun y => match x.sentAt.find y.1 with
    | some t => decide (t + 1000000 ≤ ns)
    | none => false)

/-- What a command that is abandoned leaves open on this device: the destination of a READ, and of a WRITE or NOTIFY to the device
itself, whose requests that wait here are dropped (R107, R563). -/
def State.fabOpen (s : State) (p : Nat) (x : FabCmd) : State :=
  let d := x.desc
  if fbOp d = 1 then s.freeOutputs p [(fbLva d, fbLen d)]
  else if fbPair d || x.dstNode != s.dev.node then s
  else
    let mine (k : Packet) : Bool := k.src == s.dev.node && !k.pair && decide (k.type.toNat ≤ 2) && x.sent.any (fun y => y.1 == k.tid.toNat)
    (s.updPart p (fun z => { z with fabWait := z.fabWait.filter (fun y => !mine y.2.1) })).freeOutputs p
      [(fbRva d, if fbOp d = 2 then 8 else fbLen d)]

/-- FABRIC_REQ_TIMEOUT: a request unanswered for 1 ms ends its command ABANDONED (R563). -/
def execFabricReqTimeout (c : Fin 8) (n : Nat) (s : State) : Out :=
  whenLive s (match (s.cl c.val).fab.find? (fun x => x.serial == n) with
    | none => s
    | some x =>
      if !x.late s.ns then s
      else
        let p := (s.ownerCl c.val).getD 8
        (((s.fabOpen p x).withdraw c.val n).finishFab c.val x (dmaStatus stAbandoned 0)).pumpFab c.val p)

/-- The requests of a command that are outstanding sent again, in their order, by the present route (R562). A command of which a
response has failed sends nothing more, and waits for the responses that are still to come (R560). -/
def State.resendFab (s : State) (c n : Nat) : State :=
  match (s.cl c).fab.find? (fun x => x.serial == n), s.ownerCl c with
  | some x, some p =>
    if x.failed.isSome then s
    else
      let s := s.withdraw c n
      (s.updFab c n (fun y => { y with sent := [], left := x.sent.map (fun z => z.2) ++ x.left })).pumpFab c p
  | _, _ => s

end Sys2Proof.Machine
end

