-- ==== Sys2Proof/Machine/Events.lean ====
section
/-! DEFINITION. Events of DMA operations, host requests, chunks, steps, switches and replacements (R227 to R229, R334 to
R350, R499, R503, R627 to R629, R790, R798). -/
namespace Sys2Proof.Machine

/-! ### DMA operations and host requests -/

/-- What may follow once an operation or a request of a partition has ended. -/
def State.after (s : State) (p : Nat) : State := (((s.wakePages p).pumpReqs p).pump p).retryFab p

/-- Whether an expansion has blocks left that it may not decode: an MLOADW holds the expander (R480). -/
def State.expHeld (s : State) (k : Nat) (o : DmaOp) : Bool := !o.blocks.isEmpty && s.expTaken k

/-- DMA_OP_COMPLETE: the running operation of a core's engine completes with its status (R228, R438 to R443, R480). -/
def execDmaOpComplete (c : CoreId) (s : State) : Out :=
  let k := c.key
  let p := s.partOf k
  whenLive s (match (s.core k).dmaq with
    | [] => s
    | o :: _ => match o.status with
      | none => s
      | some st =>
        if !o.started || !o.waitHost.isEmpty || !s.engineUp k || s.expHeld k o then s
        else ((s.releaseHeld p o).finishOp p k o st).after p)

/-- A host request that has ended leaves; a group of pages with no request left changes home (R103). -/
def State.reqDone (s : State) (p num : Nat) : State :=
  match (s.func p).reqs.find? (fun r => r.num == num) with
  | none => s
  | some r =>
    let s := s.updFunc p (fun f => { f with reqs := f.reqs.filter (fun x => x.num != num) })
    if r.kv.isSome then (s.schedule p).after p
    else
      let s := s.updOp r.core r.op (fun o => { o with waitHost := o.waitHost.filter (fun n => n != num) })
      (s.endGroup r.core p r.op r.group).after p

/-- Host data land: a page of a MOVE in its new place, unless that stack has failed (R106, R458, R514); of a copy they take their
place in the order of its writes, and those that waited for them follow (R228, R928). -/
def State.hostLand (s : State) (p : Nat) (r : HostReq) (data : List Byte) : State :=
  if r.dev then
    if r.dst = 0#64 then s
    else if s.deadStack r.dst.toNat then ((s.tellUe r.core r.dst.toNat false).failPlan r.core p r.op fcUe).pumpReqs p
    else s.store r.dst.toNat data
  else
    let l := match (s.opOf r.core r.op).undef with
      | some n => freeBytes n r.dst.toNat data.length
      | none => data
    let s := s.updOp r.core r.op (fun o => { o with
      writes := o.writes.map (fun x => if x.1 = r.num + 1 then (0, x.2.1, some l) else x) })
    (s.flushWrites r.core p r.op (s.opOf r.core r.op).writes.length).gatherOn r.core r.op

/-- Whether a partition's function takes transfers at the port: it operates or drains there (R612 to R615). -/
def State.funcTakes (s : State) (p : Nat) : Bool := s.portOpen && (s.func p).st != .off

/-- The bytes of a read request have come: a request that is not outstanding, or another number of bytes, changes nothing (R627). -/
def State.hostArrive (s : State) (p num : Nat) (data : List Byte) : State :=
  match (s.func p).reqs.find? (fun r => r.num == num && r.posted && !r.write && r.bytes == data.length) with
  | none => s
  | some r => (match r.kv with
    | some x => s.kvLand p x data
    | none => (s.updCore r.core (fun c => { c with hostCame := true })).hostLand p r data).reqDone p num

/-- HOST_DATA_ARRIVE: host data arrive on EP2 OUT, in bursts of the partition's slots (R616, R627). -/
def execHostDataArrive (p : Fin 8) (num : W32) (data : List Byte) (s : State) : Out :=
  whenLive s (if s.funcTakes p.val then s.inBursts p.val (64 + data.length) (fun s => s.hostArrive p.val num.toNat data) else s)

/-- HOST_REQUEST_TIMEOUT: a request outstanding for 1 s; its operation completes ABANDONED, its pages keep their homes, and what it
wrote is undefined (R106, R107, R629); of the scheduler's own, the bytes are open. -/
def execHostRequestTimeout (p : Fin 8) (num : W32) (s : State) : Out :=
  whenLive s (match (s.func p.val).reqs.find? (fun r => r.num == num.toNat && r.posted) with
    | none => s
    | some r =>
      if s.ns < r.sentNs.toNat + 1000000000 then s
      else if let some x := r.kv then
        ((if r.write then s else s.kvLand p.val x (freeBytes (s.freeAt p.val) 0 r.bytes)).freshP p.val 1).reqDone p.val num.toNat
      else
        let s := match (s.core r.core).dmaq.find? (fun o => o.serial == r.op) with
          | some o => (s.releaseHeld p.val o).freeOutputs p.val o.dirties
          | none => s
        let s := s.updFunc p.val (fun f => { f with reqs := f.reqs.filter (fun x => !(x.core == r.core && x.op == r.op)) })
        (s.updOp r.core r.op (fun o => { o with
          status := some (dmaStatus stAbandoned 0), waitHost := [], held := [], plan := [], writes := [] })).after p.val)

/-! ### Chunks -/

/-- Whether the dispatcher of a core may start chunks: a job of kind REEL is on it and stays, and the core runs (R508,
R790, R829). -/
def State.mayDispatch (s : State) (p k : Nat) : Bool :=
  (match (s.core k).job with
    | some j => (s.job p j).kind == 2#2 && !(s.job p j).victim && (s.job p j).destroy.isNone
    | none => false) &&
  !(s.core k).draining && (s.core k).switching.isNone && s.engineUp k && (s.cl (keyCl k)).spareBusy.isNone

/-- CHUNK_DISPATCH: the first chunk of a core's queue that can start, swap in or complete REEL_GONE does, after the swap-outs for
those that it passes (R334 to R340). -/
def execChunkDispatch (c : CoreId) (s : State) : Out :=
  let k := c.key
  let p := s.partOf k
  whenLive s (
    if !s.mayDispatch p k then s
    else ((s.core k).chunkq.foldl (fun (acc : State × Bool) x => if acc.2 then acc else acc.1.tryChunk p k x) (s, false)).1)

/-- What happens at the chunk boundary of a core: register writes and JOB_SETs that waited (R486), a change of lock-step, a destroy or a
pre-emption (R340, R501, R854, R890). -/
def State.chunkBoundary (s : State) (p k : Nat) : State :=
  let s := s.applyCl (keyCl k)
  match (s.core k).job with
  | none => s.pump p
  | some j =>
    let s := s.updJob p j (fun x => { x.pendingSet.foldl (fun z b => z.setFrom b) x with pendingSet := [], lock := (s.part p).lockstep })
    ((s.switchPoint p j).schedule p).pump p

/-- CHUNK_END: the thread of a chunk has become FREE: OK when it ended by END, FAULTED with the fault's code when the
supervisor ended it (R288, R343, R345, R347 to R350). A page of the checkpoint area in motion holds it back (R104). -/
def execChunkEnd (h : Hart) (s : State) : Out :=
  let k := h.key
  let t := h.thr.val
  let p := s.partOf k
  let th := s.thr k t
  whenLive s (match th.chunk with
    | none => s
    | some n =>
      if th.st ≠ .free then s
      else match (s.core k).chunkq.find? (fun x => x.serial == n) with
        | none => s.updThr k t (fun x => { x with chunk := none })
        | some c =>
          if s.bankMoves p k (hIdx c.handle.toNat) then s
          else
          let s := s.endChunk p k t c (if th.supEnd then stFaulted else stOk) (if th.supEnd then th.flt.code.toNat else 0)
          (s.updThr k t (fun x => { x with chunk := none, supEnd := false })).chunkBoundary p k)

/-- REEL_SWAPIN_DONE: the swap-in of a Reel ends: its newest checkpoint is in its slots, and the held chunk starts; with a
destroy pending it completes REEL_GONE (R335, R338, R340). It waits while the core is replaced (R790), and while a page of the
checkpoint area is in motion (R104). -/
def execReelSwapinDone (p : Fin 8) (idx : BitVec 12) (s : State) : Out :=
  let p := p.val
  let i := idx.toNat
  let d := s.reel p i
  whenLive s (
    if rlRstate (s.reelRec p i) ≠ 4 ∨ d.slots.isEmpty ∨ (s.cl (keyCl d.core)).spareBusy.isSome ∨ s.bankMoves p d.core i then s
    else match (s.core d.core).chunkq.find? (fun x => x.held && hIdx x.handle.toNat == i) with
      | none => (s.restoreReel p d.core i).setRstate p i 1
      | some c =>
        if d.destroyPend then
          (((s.dropChunk d.core c.serial).finishChunk p c stGone 0).reelGone p i).pump p
        else
          let s := (s.restoreReel p d.core i).setRstate p i 1
          match s.freeThread d.core with
          | some t => s.startChunk p d.core t i c
          | none => s.updChunk d.core c.serial (fun x => { x with held := false }))

/-! ### Steps and switches -/

/-- STEP_BOUNDARY: every thread of a job's step is FREE (R288, R499). -/
def execStepBoundary (p : Fin 8) (job : Nat) (s : State) : Out :=
  whenLive s (if s.stepEnded p.val job then (s.boundary p.val job).pump p.val else s)

/-- The pages that a job left in the save area of a core come back to it, but for those that a MOVE or Splice has taken elsewhere
since (R504). -/
def State.pagesBack (s : State) (p j k : Nat) : State :=
  let home := 4 * (s.logOf k).2 + 32 * (s.logOf k).1
  let mine := (s.job p j).savedPages.filter (fun x => x.2 == home && pteV (s.pte p x.1) && !pteMv (s.pte p x.1) &&
    pteHome (s.pte p x.1) == 1 + 32 * (s.logOf k).1)
  let s := mine.foldl (fun s x => s.shiftPage p k x.1 home) s
  s.updJob p j (fun x => { x with savedPages := x.savedPages.filter (fun y => y.2 != home) })

/-- The rank of a core among those of a job. -/
def State.rank (s : State) (p j k : Nat) : Nat := ((s.job p j).placed.findIdx? (fun x => x == s.logOf k)).getD 0

/-- CONTEXT_SWITCH_END: the incoming job's live slots and pages are in place, and the core issues (R503, R504, R507, R508).
Declarations of failure that waited for it take effect (R795), and so does a pre-emption or destroy of the job decided meanwhile (R501).
A resumed job counts as started anew for the buffers' formats (R253) and the fusion entries (R308) (log 82, DESIGN CHOICE). -/
def execContextSwitchEnd (c : CoreId) (s : State) : Out :=
  let k := c.key
  let p := s.partOf k
  whenLive s (match (s.core k).switching with
    | none => s
    | some j =>
      let i := s.rank p j k
      let s := s.restoreSlots k i (s.job p j).saved
      let s := s.updJob p j (fun x => { x with saved := x.saved.filter (fun z => z.1 / 8 != i) })
      let s := s.pagesBack p j k
      let s := s.updCore k (fun y => { y with
        switching := none, sbuf := y.sbuf.mapV (fun _ b => { b with fmt := none }), fusLoaded := [] })
      (((s.takeDecl k).switchPoint p j).schedule p).pump p)

/-! ### Detection and resumption of a core (R785, R790) -/

/-- Whether a core has work that the watchdog watches: a READY thread, or a queue entry (Table REL-1). -/
def State.watched (s : State) (k : Nat) : Bool :=
  s.engineUp k && (s.logCore (keyCl k) (keyCore k)).isSome &&
    ((s.core k).threads.any (fun t => t.2.st == .ready) || !(s.core k).queue.isEmpty)

/-- CORE_HANG: the watchdog of a core's cluster expires on it (R785, R786). -/
def execCoreHang (c : CoreId) (s : State) : Out :=
  whenLive s (if s.watched c.key then s.declareCore c.key 0 else s)

/-- CORE_PARITY: parity fails in a core's thread table, array queue or slot ownership (R785). -/
def execCoreParity (c : CoreId) (s : State) : Out :=
  whenLive s (if (s.cl c.cl.val).powered then s.declareCore c.key 1 else s)

/-- The bytes of a store from one place to another, with the marks of its bad words (phase 5, R792). -/
def State.copyStore (s : State) (a b n : Nat) : State :=
  let inR (x y : Nat) : Bool := decide (y ≤ x) && decide (x < y + n)
  let old := s.mem.filter (fun c => inR c.1 b)
  let new := s.mem.filter (fun c => inR c.1 a)
  let m := old.foldl (fun m c => Memory.write m c.1 Memory.blank) s.mem
  let m := new.foldl (fun m c => Memory.write m (b + (c.1 - a)) c.2) m
  { s with mem := m
           badWords := s.badWords.filter (fun x => !inR x b) ++
             (s.badWords.filter (fun x => inR x a)).map (fun x => b + (x - a)) }

/-- The operations that the threads of a stopped step still run are abandoned, and the threads become FREE (phase 4). -/
def State.stopMember (s : State) (p k : Nat) : State :=
  let s := ((s.core k).dmaq.filter (fun o => o.hostTag.isNone)).foldl (fun s o => s.abandonOp p k o) s
  (s.core k).threads.keys.foldl (fun s t => if s.mayFinish k t then s.finishThread k t else s) s

/-- The failed store answers no access: phase 5 stops, and the jobs on the core complete FAULTED with MEM_UE: their steps at the step
boundary, the chunks of the core now (R789, R792). -/
def State.unreadable (s : State) (p k : Nat) (jobs : List Nat) : State :=
  let s := jobs.foldl (fun s n => s.updJob p n (fun x => if x.running.isSome && x.startAt.isNone then
    { x with faulted := true, again := false, stopped := false, fcode := BitVec.ofNat 8 fcUe } else x)) s
  let q := (s.core k).chunkq
  let s := (s.updCore k (fun x => { x with chunkq := [] })).loseReels p k
  q.foldl (fun s x => s.finishChunk p x stFaulted fcUe) s

/-- A step that is launched again. What the run that was cut off wrote has changed under it, and after a MOVE or SPLICE everything
has, but for what the new run writes itself (R798, R799). -/
def Job.rerun (x : Job) : Job :=
  { x with stopped := false, changed := if x.moved then [(0, 2 ^ 40)] else x.changed ++ x.wrote, wrote := [] }

/-- REPLACE_RESUME: the members of the failed core's jobs have stopped, its store is copied, slots and Reels are restored,
and the work goes on; EV_FAULT_CORE is posted (phases 4 to 7 of Table REL-3, R787, R792, R798, R800). `answers`: the failed core's
store can be read. -/
def State.replaceResume (s : State) (c : Nat) (answers : Bool) : State :=
  match (s.cl c).spareBusy with
  | none => s
  | some (f, j, kind, ns0) =>
    let s := s.updCl c (fun x => { x with spareBusy := none })
    match s.ownerCl c, s.physCore c j with
    | some p, some sp =>
      let k := coreKey c sp
      let l := (s.logCl p c).getD 0
      let ckpt := (s.cl (s.lead p)).ckpt
      let jobs := (s.jobsOn p l j).filter (fun n => (s.job p n).kind != 2#2)
      let s := jobs.foldl (fun s n => (s.jobCores p n).foldl (fun s m => s.stopMember p m) s) s
      if !answers then (((s.unreadable p k jobs).schedule p).pump p) else
      let s := s.updCore k (fun x => { x with lab := [] })
      let s := s.copyStore (coreStore (coreKey c f) 0) (coreStore k 0) 0x400000
      let s := jobs.foldl (fun s n =>
        let x := s.job p n
        ((s.jobCores p n).zip (upTo x.placed.length)).foldl (fun s y =>
          s.restoreSlots y.1 y.2 (if ckpt && x.ckptOn then x.ckpt else [])) s) s
      let reels := (s.part p).reels.keys.filter (fun i => !(s.reel p i).slots.isEmpty && (s.reel p i).core == k)
      let s := reels.foldl (fun s i =>
        let s := s.restoreReel p k i
        if rlRstate (s.reelRec p i) = 2 then s.setRstate p i 1 else s) s
      let again := jobs.filter (fun n => (s.job p n).stopped)
      let s := again.foldl (fun s n =>
        (s.updJob p n Job.rerun).launch p n) s
      let s := if kind = 9 then s else s.postCore (coreKey c f) j kind 1 ((s.ns - ns0) / 1000) again.length
      (s.schedule p).pump p
    | _, _ => s

/-- REPLACE_RESUME. -/
def execReplaceResume (c : Fin 8) (answers : Bool) (s : State) : Out :=
  whenLive s (if (s.cl c.val).ctl.fenced then s else s.replaceResume c.val answers)

end Sys2Proof.Machine
end

