-- ==== Sys2Proof/Machine/Isp.lean ====
section
/-! DEFINITION. The arithmetic of the image pipeline, of its checks and of the flicker statistics, as functions of a frame's
lines and of a context's parameters (R670 to R675, R678, R690). -/
namespace Sys2Proof.Machine

/-! ### Parameters of a context (Table CAM-11) -/

/-- A parameter word of a context. -/
def parW (m : SMap W32) (off : Nat) : Nat := (m.get 0#32 off).toNat
/-- A 16-bit parameter, two per word. -/
def parH (m : SMap W32) (off : Nat) : Nat := bitsAt (parW m (off / 4 * 4)) (8 * (off % 4)) 16
/-- Exposures of a context. -/
def parNexp (m : SMap W32) : Nat := bitsAt (parW m 0x100) 0 2 + 1
/-- MTYPE. -/
def parMtype (m : SMap W32) : Nat := bitsAt (parW m 0x100) 2 3
/-- OFMT. -/
def parOfmt (m : SMap W32) : Nat := bitsAt (parW m 0x100) 5 3
/-- LAYOUT: interleaved. -/
def parInter (m : SMap W32) : Bool := bitAt (parW m 0x100) 8
/-- NCH. -/
def parNch (m : SMap W32) : Nat := bitsAt (parW m 0x100) 9 2 + 1
/-- FBR. -/
def parFbr (m : SMap W32) : Nat := bitsAt (parW m 0x100) 11 6 + 1
/-- Gain of an exposure: G0 is 1. -/
def parG (m : SMap W32) (e : Nat) : Nat := if e = 0 then 1 else parW m (0x104 + 4 * e)
/-- PADV of a context. -/
def parPadv (m : SMap W32) : Nat := parW m 0x114
/-- MOS[k], 3 bits each from bit 0 of the word at 0x120. -/
def parMos (m : SMap W32) (k : Nat) : Nat := bitsAt (parW m 0x120 + parW m 0x124 * 2 ^ 32) (3 * k) 3
/-- CCM[i][j], signed 16 bits. -/
def parCcm (m : SMap W32) (i j : Nat) : Int := sextN 16 (parW m (0x18C + 16 * i + 4 * j))
/-- OFF[i], signed 25 bits; OFF[1] and OFF[2] do not fit the range that Table CAM-11 gives and are taken at 0x1F0 and 0x1F4
(log 41). -/
def parOff (m : SMap W32) (i : Nat) : Int := sextN 25 (parW m (if i = 0 then 0x1BC else 0x1EC + 4 * i))
/-- The crop: X0, Y0, CW, CH. -/
def parCrop (m : SMap W32) : Nat × Nat × Nat × Nat :=
  (bitsAt (parW m 0x1C0) 0 16, bitsAt (parW m 0x1C0) 16 16, parW m 0x1C4 + 1, parW m 0x1C8 + 1)
/-- FX and FY. -/
def parScale (m : SMap W32) : Nat × Nat := (bitsAt (parW m 0x1CC) 0 3 + 1, bitsAt (parW m 0x1CC) 3 3 + 1)

/-! ### Exact arithmetic (R670) -/

/-- A table of 4,097 entries read at an input of b bits. -/
def lutAt (t : Nat → Nat) (x b : Nat) : Nat :=
  if b > 12 then
    let i := x / 2 ^ (b - 12)
    let f := x % 2 ^ (b - 12)
    ((t i : Int) + rdiv (((t (i + 1) : Int) - (t i : Int)) * (f : Int)) (2 ^ (b - 12))).toNat
  else t (x * 2 ^ (12 - b))

/-- A frame of one context: its size, its parameters, the depth and the raw samples of each exposure. -/
structure Picture where
  w : Nat
  h : Nat
  par : SMap W32
  depth : List Nat
  raw : List (List (List (BitVec 20)))
  deriving DecidableEq, Repr

/-- The raw sample of an exposure. -/
def Picture.rawAt (q : Picture) (e y x : Nat) : Nat := (((q.raw.getD e []).getD y []).getD x 0#20).toNat
/-- The mosaic position of a sample (R670). -/
def mosPos (y x : Nat) : Nat := 4 * (y % 4) + x % 4
/-- The colour of a sample: 0 R, 1 G, 2 B, 3 IR, 4 C, 5 W; a monochrome sample counts as colour 0 (log 42). -/
def Picture.colour (q : Picture) (y x : Nat) : Nat := if parMtype q.par = 5 then 0 else parMos q.par (mosPos y x)

/-- A sample after black level and linearisation (stages 2 and 3). -/
def Picture.lin (q : Picture) (e y x : Nat) : Nat :=
  let bl := parW q.par (0x140 + 4 * mosPos y x) % 2 ^ 20
  lutAt (fun i => parW q.par (0x1000 + 4 * i)) (q.rawAt e y x - bl) (q.depth.getD e 12)

/-- The largest value of the pipeline. -/
def max24 : Nat := 2 ^ 24 - 1

/-- The merged exposures (stage 4): the longest below KNEE, else the last. -/
def Picture.merged (q : Picture) (y x : Nat) : Nat :=
  let n := parNexp q.par
  let e := ((upTo n).find? (fun e => decide (q.lin e y x < parW q.par 0x104))).getD (n - 1)
  min max24 (q.lin e y x * parG q.par e)

/-- An index mirrored about the edge sample: −1 reads 1 (R672). -/
def mirror (n : Nat) (i : Int) : Nat :=
  if n ≤ 1 then 0
  else
    let p : Nat := 2 * (n - 1)
    let j := (i % (p : Int)).toNat
    if j < n then j else p - j

/-- The places of the 5 × 5 window about a sample, centre excluded, with their squared distances; the window mirrors at the
edges (R672; so taken at stage 5 too: log 42). -/
def Picture.window (q : Picture) (y x : Nat) : List (Nat × Nat × Nat) :=
  (upTo 25).filterMap (fun i =>
    if i = 12 then none
    else
      let dy : Int := ((i / 5 : Nat) : Int) - 2
      let dx : Int := ((i % 5 : Nat) : Int) - 2
      some ((dy * dy + dx * dx).natAbs, mirror q.h ((y : Int) + dy), mirror q.w ((x : Int) + dx)))

/-- Defective pixels corrected (stage 5). -/
def Picture.fixed (q : Picture) (y x : Nat) : Nat :=
  let m := q.merged y x
  let nb := ((q.window y x).filter (fun p => q.colour p.2.1 p.2.2 == q.colour y x)).map (fun p => q.merged p.2.1 p.2.2)
  let dpt := parW q.par 0x110
  match nb with
  | [] => m
  | a :: t =>
    let hi := t.foldl max a
    let lo := t.foldl min a
    let m := if m > hi + dpt then hi else m
    if m + dpt < lo then lo else m

/-- An entry of the lens-shading grid of a colour: colour-major, then row, then column (Table CAM-11). -/
def Picture.grid (q : Picture) (c gy gx : Nat) : Int := (parH q.par (0xB000 + 2 * (289 * c + 17 * gy + gx)) : Int)

/-- The interpolated gain of a sample (R671). -/
def Picture.gain (q : Picture) (y x : Nat) : Int :=
  let sx := ceilDiv q.w 16
  let sy := ceilDiv q.h 16
  let c := q.colour y x
  let gx := x / sx
  let fx : Int := ((x % sx : Nat) : Int)
  let gy := y / sy
  let fy : Int := ((y % sy : Nat) : Int)
  let ux : Int := (sx : Int) - fx
  let uy : Int := (sy : Int) - fy
  rdiv (ux * uy * q.grid c gy gx + fx * uy * q.grid c gy (gx + 1) + ux * fy * q.grid c (gy + 1) gx +
    fx * fy * q.grid c (gy + 1) (gx + 1)) (sx * sy)

/-- A sample after lens shading (stage 6). -/
def Picture.shaded (q : Picture) (y x : Nat) : Nat :=
  min max24 (rdiv ((q.fixed y x : Int) * q.gain y x) (2 ^ 14)).toNat

/-- The colours of the planes of a mosaic (Table CAM-6). -/
def planeColours (mtype : Nat) : List Nat := match mtype with
  | 0 => [0, 1, 2]
  | 1 => [0, 1, 2, 3]
  | 2 => [0, 4, 2]
  | 3 => [0, 4, 1]
  | 4 => [0, 1, 2, 5]
  | _ => [0]

/-- A plane at a pixel: its own sample, or the mean of the nearest samples of the plane's colour (R672). -/
def Picture.plane (q : Picture) (j y x : Nat) : Int :=
  match (planeColours (parMtype q.par))[j]? with
  | none => 0
  | some c =>
    if q.colour y x = c then (q.shaded y x : Int)
    else
      let l := (q.window y x).filter (fun p => q.colour p.2.1 p.2.2 == c)
      let d := l.foldl (fun m p => min m p.1) 100
      let l := l.filter (fun p => p.1 == d)
      rdiv (l.foldl (fun (a : Int) p => a + (q.shaded p.2.1 p.2.2 : Int)) 0) l.length

/-- Stages 8 to 10: IR subtraction, colour correction and tone curve; four planes. -/
def Picture.toned (q : Picture) (y x : Nat) : List Nat :=
  let p3 := q.plane 3 y x
  let p (i : Nat) : Int :=
    let v := q.plane i y x
    if parMtype q.par = 1 ∧ i < 3 then max 0 (v - rdiv ((parW q.par (0x180 + 4 * i) % 65536 : Nat) * p3) (2 ^ 12)) else v
  let ps : List Int := (upTo 4).map p
  let qv (i : Nat) : Nat :=
    if i = 3 then p3.toNat
    else
      let t := (upTo 4).foldl (fun (a : Int) j => a + parCcm q.par i j * ps.getD j 0) 0
      min max24 (max 0 (rdiv t (2 ^ 12) + parOff q.par i)).toNat
  (upTo 4).map (fun i => lutAt (fun k => parW q.par (0x6000 + 4 * k)) (qv i) 24)

/-- The output size (R673). -/
def outW (m : SMap W32) : Nat := (parCrop m).2.2.1 / (parScale m).1
/-- Output rows. -/
def outH (m : SMap W32) : Nat := (parCrop m).2.2.2 / (parScale m).2

/-- An output pixel: the mean of its block in each plane (R673). -/
def Picture.scaled (q : Picture) (oy ox : Nat) : List Nat :=
  let c := parCrop q.par
  let f := parScale q.par
  let px := (upTo (f.1 * f.2)).map (fun i => q.toned (c.2.1 + oy * f.2 + i / f.1) (c.1 + ox * f.1 + i % f.1))
  (upTo 4).map (fun j => (rdiv ((px.foldl (fun a l => a + l.getD j 0) 0 : Nat) : Int) (f.1 * f.2)).toNat)

/-- Bytes of an output element (Table CAM-7). -/
def elemBytes (m : SMap W32) : Nat := if parOfmt m ≤ 2 then 2 else 1

/-- An output element of plane c (R674). -/
def outElem (m : SMap W32) (c u : Nat) : List Byte :=
  let t := fmaW (roundFp32 (Fp.ofInt (u : Int))) (m.get 0#32 (0x1D0 + 4 * c)) (m.get 0#32 (0x1E0 + 4 * c))
  match parOfmt m with
  | 0 => leBytes 2 u
  | 1 => leBytes 2 (convFp 1 (fp t)).1
  | 2 => leBytes 2 (convFp 2 (fp t)).1
  | 3 => leBytes 1 (convFp 3 (fp t)).1
  | _ => leBytes 1 (wrapN 8 (convInt 8 (fp t)).1)

/-- The writes of one output row: offset from IMG and bytes (R675). -/
def Picture.rowWrites (q : Picture) (oy : Nat) : List (Nat × List Byte) :=
  let m := q.par
  let px := (upTo (outW m)).map (q.scaled oy)
  let row := oy * parW m 0x210
  if parInter m then
    [(row, px.flatMap (fun l =>
      let b := (upTo (parNch m)).flatMap (fun c => outElem m c (l.getD c 0))
      b ++ List.replicate (8 - b.length) 0#8))]
  else (upTo (parNch m)).map (fun c => (c * parW m 0x214 + row, px.flatMap (fun l => outElem m c (l.getD c 0))))

/-- The last input line that an output row depends on: the windows of stages 5 and 7 reach two rows down each. -/
def Picture.lastLine (q : Picture) (oy : Nat) : Nat :=
  min (q.h - 1) ((parCrop q.par).2.1 + (oy + 1) * (parScale q.par).2 + 3)

/-- Image bytes of a ring's buffer: the rows of every plane. -/
def imageBytes (m : SMap W32) : Nat :=
  if parInter m then outH m * parW m 0x210 else (parNch m - 1) * parW m 0x214 + outH m * parW m 0x210

/-! ### The checks of a commit that need no stream table (R678) -/

/-- Places along an edge of n samples whose windows show all that occur: those near its ends, and a mosaic's period between. -/
def edgePlaces (n : Nat) : List Nat := (upTo 8 ++ (upTo 4).map (fun i => n - 4 + i)).filter (fun i => decide (i < n))

/-- The places that a window of five about a place covers along an edge of n samples; it mirrors at the ends (R672). -/
def windowSpan (n i : Nat) : List Nat := (upTo 5).map (fun d => mirror n ((i : Int) + (d : Int) - 2))

/-- Whether a colour occurs in every 5 × 5 window of a picture of w × h (R678). -/
def mosHas (m : SMap W32) (w h c : Nat) : Bool :=
  (edgePlaces h).all (fun y => (edgePlaces w).all (fun x =>
    (windowSpan h y).any (fun j => (windowSpan w x).any (fun i => parMos m (mosPos j i) == c))))

/-- Mosaic, crop and ranges of a shadow for a picture of w × h. -/
def parOk (m : SMap W32) (w h : Nat) : Bool :=
  let mt := parMtype m
  let c := parCrop m
  let f := parScale m
  let all (n off lim : Nat) : Bool := (upTo n).all (fun i => decide (parW m (off + 4 * i) < lim))
  let signed (b off : Nat) : Bool := sextN b (parW m off) == sextN 32 (parW m off)
  let mul64 (off : Nat) : Bool := parW m off % 64 == 0
  decide (parNexp m ≤ 3) && decide (mt ≤ 5) && decide (parOfmt m ≤ 4) &&
  (mt == 5 || ((upTo 16).all (fun k => (planeColours mt).contains (parMos m k)) && (planeColours mt).all (mosHas m w h))) &&
  decide (c.1 + c.2.2.1 ≤ w) && decide (c.2.1 + c.2.2.2 ≤ h) && c.2.2.1 % f.1 == 0 && c.2.2.2 % f.2 == 0 &&
  decide (parW m 0x104 < 2 ^ 20) && decide (1 ≤ parG m 1) && decide (parG m 1 ≤ 256) && decide (1 ≤ parG m 2) &&
  decide (parG m 2 ≤ 256) && decide (parW m 0x110 < 2 ^ 24) && decide (parW m 0x114 < 2 ^ 20) &&
  all 16 0x140 (2 ^ 20) && all 3 0x180 (2 ^ 16) && (upTo 12).all (fun i => signed 16 (0x18C + 4 * i)) && signed 25 0x1BC && signed 25 0x1F0 && signed 25 0x1F4 &&
   all 4097 0x1000 (2 ^ 20) && all 4097 0x6000 (2 ^ 16) &&
  mul64 0x200 && decide (parW m 0x204 < 65536) && decide (2 ≤ parW m 0x208) && decide (parW m 0x208 ≤ 64) &&
  mul64 0x20C && mul64 0x210 && mul64 0x214 && decide (64 + imageBytes m ≤ parW m 0x20C) &&
  decide (parW m 0x218 ≤ 1) && decide (parW m 0x21C < 2 ^ 18)

/-! ### Flicker (R690) -/

/-- COS[0] to COS[42]. -/
def cosTabA : List Nat :=
  [32767, 32766, 32765, 32761, 32757, 32752, 32745, 32737, 32728, 32717, 32705, 32692, 32678, 32663, 32646,
   32628, 32609, 32589, 32567, 32545, 32521, 32495, 32469, 32441, 32412, 32382, 32351, 32318, 32285, 32250,
   32213, 32176, 32137, 32098, 32057, 32014, 31971, 31926, 31880, 31833, 31785, 31736, 31685]
/-- COS[43] to COS[85]. -/
def cosTabB : List Nat :=
  [31633, 31580, 31526, 31470, 31414, 31356, 31297, 31237, 31176, 31113, 31050, 30985, 30919, 30852, 30783,
   30714, 30643, 30571, 30498, 30424, 30349, 30273, 30195, 30117, 30037, 29956, 29874, 29791, 29706, 29621,
   29534, 29447, 29358, 29268, 29177, 29085, 28992, 28898, 28803, 28706, 28609, 28510, 28411]
/-- COS[86] to COS[128]. -/
def cosTabC : List Nat :=
  [28310, 28208, 28105, 28001, 27896, 27790, 27683, 27575, 27466, 27356, 27245, 27133, 27019, 26905, 26790,
   26674, 26556, 26438, 26319, 26198, 26077, 25955, 25832, 25708, 25582, 25456, 25329, 25201, 25072, 24942,
   24811, 24680, 24547, 24413, 24279, 24143, 24007, 23870, 23731, 23592, 23452, 23311, 23170]
/-- COS[129] to COS[171]. -/
def cosTabD : List Nat :=
  [23027, 22884, 22739, 22594, 22448, 22301, 22154, 22005, 21856, 21705, 21554, 21403, 21250, 21096, 20942,
   20787, 20631, 20475, 20317, 20159, 20000, 19841, 19680, 19519, 19357, 19195, 19032, 18868, 18703, 18537,
   18371, 18204, 18037, 17869, 17700, 17530, 17360, 17189, 17018, 16846, 16673, 16499, 16325]
/-- COS[172] to COS[214]. -/
def cosTabE : List Nat :=
  [16151, 15976, 15800, 15623, 15446, 15269, 15090, 14912, 14732, 14553, 14372, 14191, 14010, 13828, 13645,
   13462, 13279, 13094, 12910, 12725, 12539, 12353, 12167, 11980, 11793, 11605, 11417, 11228, 11039, 10849,
   10659, 10469, 10278, 10087, 9896, 9704, 9512, 9319, 9126, 8933, 8739, 8545, 8351]
/-- COS[215] to COS[256]. -/
def cosTabF : List Nat :=
  [8157, 7962, 7767, 7571, 7375, 7179, 6983, 6786, 6590, 6393, 6195, 5998, 5800, 5602, 5404,
   5205, 5007, 4808, 4609, 4410, 4210, 4011, 3811, 3612, 3412, 3212, 3012, 2811, 2611, 2410,
   2210, 2009, 1809, 1608, 1407, 1206, 1005, 804, 603, 402, 201, 0]
/-- The first quarter of COS, its end included. -/
def cosQuarter : List Nat := cosTabA ++ cosTabB ++ cosTabC ++ cosTabD ++ cosTabE ++ cosTabF

/-- COS[j] = round(32,767 × cos(2πj / 1,024)). -/
def cosTab (j : Nat) : Int :=
  let j := j % 1024
  let k := if j > 512 then 1024 - j else j
  if k ≤ 256 then (cosQuarter.getD k 0 : Int) else -(cosQuarter.getD (512 - k) 0 : Int)

/-- Band sums and the times of their first lines. -/
def Picture.bands (q : Picture) (stamps : List W64) : List (Nat × Nat) :=
  let r := parFbr q.par
  (upTo (q.h / r)).map (fun b =>
    ((upTo (r * q.w)).foldl (fun a i => a + q.lin 0 (b * r + i / q.w) (i % q.w)) 0, (stamps.getD (b * r) 0#64).toNat))

/-- The exact squared magnitude at a frequency, rounded to FP32. -/
def flickMag (l : List (Nat × Nat)) (f : Nat) : W32 :=
  let t0 := (l.headD (0, 0)).2
  let mu := rdiv ((l.foldl (fun a x => a + x.1) 0 : Nat) : Int) l.length
  let r := l.foldl (fun (a : Int × Int) x =>
    let j := (f * (x.2 - t0)) % 1000000000 * 1024 / 1000000000
    let d := (x.1 : Int) - mu
    (a.1 + d * cosTab j, a.2 + d * cosTab (j + 768))) (0, 0)
  roundFp32 (Fp.ofInt (r.1 * r.1 + r.2 * r.2))

/-- The bin of largest magnitude among those that qualify, 255 for none. -/
def flickBin (l : List (Nat × Nat)) : Nat :=
  let n := l.length
  let span := (l.getLastD (0, 0)).2 - (l.headD (0, 0)).2
  if n < 4 then 255
  else
    let ok := (upTo 48).filter (fun k => decide (2 * (200 + 250 * k) * span < (n - 1) * 1000000000))
    match ok with
    | [] => 255
    | a :: t => t.foldl (fun b k =>
        if (flickMag l (200 + 250 * k)).toNat > (flickMag l (200 + 250 * b)).toNat then k else b) a

end Sys2Proof.Machine
end

