-- ==== Sys2Proof/Machine/Time.lean ====
section
/-! DEFINITION. Slate, its servo and its sources, the TIME block, PTP and Lacing timestamps, launches at a count and the
PPS pin (R584 to R608, R889, R908). -/
namespace Sys2Proof.Machine

/-! ### Rejected register writes -/

/-- DEV.CSR_REJ counts, saturating (R863, R876). -/
def State.csrRejected (s : State) : State := { s with dev := { s.dev with csrRej := satInc s.dev.csrRej } }

/-- Number of a requester in the maps that hold state per requester. -/
def Requester.num : Requester → Nat
  | .devCtl => 0
  | .mgmt => 1
  | .clCtl c => 2 + c.val
  | .walker => 10

/-! ### States of the time service (R590) -/

/-- INC_NOM (R585). -/
def incNom : Nat := 0xD5555555

/-- The states of Table TIM-1 as STATUS.STATE encodes them (R889). -/
def tsAcquire : BitVec 3 := 0#3
/-- TRACK. -/
def tsTrack : BitVec 3 := 1#3
/-- LOCKED. -/
def tsLocked : BitVec 3 := 2#3
/-- HOLDOVER. -/
def tsHoldover : BitVec 3 := 3#3
/-- FREE. -/
def tsFree : BitVec 3 := 4#3

/-- A time state entered: the runs of offsets start anew, and entering HOLDOVER posts EV_PTP_HOLDOVER (R590, R591). -/
def State.enterTime (s : State) (st : BitVec 3) : State :=
  let post : Bool := st == tsHoldover && s.time.state != tsHoldover
  let s := { s with time := { s.time with
    state := st, goodRun := 0, badRun := 0
    everLocked := s.time.everLocked || st == tsLocked
    inc := if st = tsFree then BitVec.ofNat 32 incNom else s.time.inc } }
  if post then s.postDev 0x0A 6 0 0 0 else s

/-- HOLDOVER of a device that has a time source, from which no offsets arrive (R590). -/
def State.holdover (s : State) : State :=
  if s.time.src = 0#2 ∨ s.time.state = tsFree then s else s.enterTime tsHoldover

/-- HOLDOVER at a new GEOM or master epoch, whatever the source (R590). -/
def State.newMaster (s : State) : State := s.enterTime tsHoldover

/-- The epoch of a node in the epoch table; the master's new one is a new master epoch (R566, R590). -/
def State.setEpoch (s : State) (node : BitVec 18) (e : BitVec 16) : State :=
  let old := s.dev.eptab.get 0#16 node.toNat
  let s := { s with dev := { s.dev with eptab := s.dev.eptab.put node.toNat e } }
  if node = masterNode ∧ e ≠ old then s.newMaster else s

/-- A write of TIME.CTL (R586, R589, R590): the reserved source is out of range (R863). ALLOW_STEP enters ACQUIRE whatever
the source written with it (log 39). -/
def State.timeCtl (s : State) (v : W32) : State :=
  let src := v.extractLsb' 0 2
  let par := v.extractLsb' 2 3
  if src = 3#2 then s.csrRejected
  else
    let chg : Bool := (src != s.time.src && src != 0#2) || par != s.time.parent
    let s := { s with time := { s.time with
      src := src, parent := par, syncT1 := if chg then none else s.time.syncT1 } }
    if v.getLsbD 5 then s.enterTime tsAcquire
    else if src = 0#2 then s.enterTime tsFree
    else if !s.time.everLocked then s.enterTime tsAcquire
    else if chg then s.enterTime tsHoldover
    else s

/-! ### The servo (R593) -/

/-- An integer held within limits. -/
def clampI (lo hi x : Int) : Int := if x < lo then lo else if x > hi then hi else x

/-- The offsets of the present state counted, and the state they lead to (R590): |θ| at most 4 ns sixteen times in a row
gives LOCKED, above it four times in a row while LOCKED gives TRACK. -/
def State.countOffset (s : State) (th : Int) : State :=
  let good : Bool := decide (th.natAbs ≤ 1024)
  let s := { s with time := { s.time with
    goodRun := if good then s.time.goodRun + 1 else 0, badRun := if good then 0 else s.time.badRun + 1 } }
  if s.time.state = tsLocked then (if s.time.badRun ≥ 4 then s.enterTime tsTrack else s)
  else if s.time.goodRun ≥ 16 then s.enterTime tsLocked
  else s

/-- The servo's action on Slate or on TIME.INC; the increment stays between 1 and 2^32 − 1 (R586, R593, log 39). -/
def State.servo (s : State) (th : Int) : State :=
  if s.time.state = tsAcquire ∧ (th.natAbs : Nat) > s.time.stepThresh.toNat then
    { s with time := { s.time with
      slate := s.time.slate - BitVec.ofInt 96 (th * (2 ^ 24 : Nat)), integ := 0 } }
  else
    let lim : Int := s.time.incLimit.toNat
    let nom : Int := incNom
    let integ := clampI (-(2 ^ 47 : Nat)) ((2 ^ 47 : Nat) - 1) (s.time.integ + s.time.ki.toNat * th)
    let adj := shiftRoundAway (s.time.kp.toNat * th + integ) 8
    let inc := clampI 1 ((2 ^ 32 : Nat) - 1) (clampI (nom - lim) (nom + lim) (nom - adj))
    { s with time := { s.time with integ := integ, inc := BitVec.ofInt 32 inc } }

/-- One offset θ in units of 2^−8 ns (R590, R593): a device in HOLDOVER tracks again; without a servo nothing happens. -/
def State.offset (s : State) (th : Int) : State :=
  if s.time.src = 0#2 ∨ s.time.state = tsFree then s
  else
    let s := if s.time.state = tsHoldover then s.enterTime tsTrack else s
    (s.servo th).countOffset th

/-- An offset written by firmware counts while the source is PTP (R589, log 39). -/
def State.ptpOffset (s : State) (hi : W32) : State :=
  if s.time.src = 1#2 then s.offset (hi ++ s.time.ptpLo).toInt else s

/-! ### Timestamps (R587, R596, R601) -/

/-- A timestamp: Slate to 1/256 ns, with a latency in units of 2^−8 ns added or taken off. -/
def State.stamp (s : State) (lat : BitVec 24) (add : Bool) : BitVec 96 :=
  let t := s.time.slate.toNat / 2 ^ 24 * 2 ^ 24
  let d := lat.toNat * 2 ^ 24
  BitVec.ofNat 96 (if add then t + d else t + 2 ^ 96 - d)

/-- A timestamp that leaves or arrives on a Lacing link (R601). -/
def State.linkStamp (s : State) (l : Nat) (tx : Bool) : BitVec 96 :=
  if tx then s.stamp (s.time.ltx.get 0#24 l) true else s.stamp (s.time.lrx.get 0#24 l) false

/-- A timestamp in units of 2^−8 ns. -/
def tsUnits (t : BitVec 96) : Int := ((t.toNat / 2 ^ 24 : Nat) : Int)

/-! ### Lacing synchronisation (R598 to R603) -/

/-- The tree link of R598: towards coordinate 0 in the highest dimension whose coordinate is nonzero; the other link of the
ring when it is in the fault map. -/
def State.treeLink (s : State) : Option Nat :=
  match [2, 1, 0].find? (fun d => coord s.node d != 0) with
  | none => none
  | some d =>
    let pos : Bool := !decide (2 * coord s.node d ≤ s.ringSize d)
    let pos := if s.linkBad s.node d pos then !pos else pos
    some (2 * d + b2n (!pos))

/-- The link that a device with source 2 follows (R589). -/
def State.parentLink (s : State) : Option Nat :=
  if s.time.parent.toNat < 7 then some s.time.parent.toNat else s.treeLink

/-- A SYNC packet of one hop, in class 1 over a dateline (R549, R599): the data are T1, T2, T3, NOTREADY and zeros. -/
def State.syncPacket (s : State) (l sub : Nat) (tid : BitVec 16) (t1 t2 t3 : BitVec 96) (notReady : Bool) : Packet :=
  s.ownPacket { Packet.init with
    type := 7#4, dl := decide (l < 6) && s.dateline 7 l false, pair := l == 6, sub := BitVec.ofNat 5 sub
    dst := (s.link l).peer, tid := tid, len := 48#9
    data := leBytes 12 t1.toNat ++ leBytes 12 t2.toNat ++ leBytes 12 t3.toNat ++ leBytes 12 (b2n notReady) }

/-- The timestamp of a SYNC packet inserted as its flit leaves: T1 of a request, T3 of a response (R600). -/
def State.stampSync (s : State) (l : Nat) (k : Packet) : Packet :=
  if k.type ≠ 7#4 then k
  else
    let t := leBytes 12 (s.linkStamp l true).toNat
    if k.sub = 0#5 then { k with data := t ++ k.data.drop 12 }
    else { k with data := k.data.take 24 ++ t ++ k.data.drop 36 }

/-- A SYNC request received at a time is answered at once, under its own transaction number (R532, R600). -/
def State.syncReq (s : State) (l : Nat) (k : Packet) (t2 : BitVec 96) : State :=
  s.checked l k (fun s =>
    let t3 := s.linkStamp l true
    let s := { s with time := { s.time with lastStamp := t2 } }
    s.enqueue l 7 (s.syncPacket l 1 k.tid (BitVec.ofNat 96 (recN k.data 0 12)) t2 t3 (s.time.state == tsAcquire)))

/-- A SYNC response received at a time gives an offset when it answers the newest request on the parent link and its sender is
ready; halves are rounded as everywhere (R116, R602, R603). -/
def State.syncRsp (s : State) (l : Nat) (k : Packet) (t4 : BitVec 96) : State :=
  s.checked l k (fun s =>
    let t (i : Nat) : BitVec 96 := BitVec.ofNat 96 (recN k.data (12 * i) 12)
    let s := { s with time := { s.time with lastStamp := t4 } }
    if s.time.syncT1.isNone ∨ s.time.src ≠ 2#2 ∨ s.parentLink ≠ some l ∨ k.tid ≠ s.time.syncTid then s
    else
      let s := { s with time := { s.time with syncT1 := none } }
      if (recN k.data 36 1) % 2 = 1 then s
      else
        let d := rdiv ((tsUnits t4 - tsUnits (t 0)) - (tsUnits (t 2) - tsUnits (t 1))) 2
        let h := rdiv ((tsUnits (t 0) - tsUnits (t 1)) + (tsUnits t4 - tsUnits (t 2))) 2
        State.offset { s with time := { s.time with ldelay := s.time.ldelay.put l (BitVec.ofInt 32 d) } }
          (h + (s.time.asym.get 0#24 l).toInt))

/-- SYNC_REQUEST: a request arrives on a link. -/
def execSyncRequest (l : Fin 7) (k : Packet) (s : State) : Out :=
  if k.type ≠ 7#4 ∨ k.sub ≠ 0#5 then .fault .malformed
  else whenLive s (if s.linkUp l.val then s.syncReq l.val k (s.linkStamp l.val false) else s)

/-- SYNC_RESPONSE: a response arrives on a link. -/
def execSyncResponse (l : Fin 7) (k : Packet) (s : State) : Out :=
  if k.type ≠ 7#4 ∨ k.sub ≠ 1#5 then .fault .malformed
  else whenLive s (if s.linkUp l.val then s.syncRsp l.val k (s.linkStamp l.val false) else s)

/-- SYNC_INTERVAL: a device with source 2 sends a request on its parent link; an unanswered one yields no offset (R600,
R603). -/
def execSyncInterval (s : State) : Out :=
  whenLive s (
    if s.time.src ≠ 2#2 then s
    else
      let s := { s with time := { s.time with syncT1 := none } }
      match s.parentLink with
      | none => s
      | some l =>
        if !s.linkUp l then s
        else
          let t1 := s.linkStamp l true
          let n := s.time.syncTid + 1#16
          ({ s with time := { s.time with syncT1 := some t1, syncTid := n } }).enqueue l 7 (s.syncPacket l 0 n t1 0#96 0#96 false))

/-- HOLDOVER_TIMEOUT: eight intervals of the selected source passed without a valid offset (R590, R591, log 3). -/
def execHoldoverTimeout (s : State) : Out := whenLive s s.holdover

/-! ### Registers of the TIME block (Table REG-8) -/

/-- A register of the TIME block read by a requester; the low word of Slate latches a sample (R889). -/
def State.timeRd (s : State) (r off : Nat) : W32 × State :=
  let t := s.time
  let smp := (t.samples.get 0#96 r).toNat
  let i := off % 32 / 4
  if off = 0xC0 then (BitVec.ofNat 32 (t.slate.toNat / 2 ^ 32), { s with time := { t with samples := t.samples.put r t.slate } })
  else
    ((match off with
      | 0x00 => BitVec.ofNat 32 (t.src.toNat + 4 * t.parent.toNat)
      | 0x04 => t.state.setWidth 32
      | 0x08 => t.inc
      | 0x0C => t.ivl.setWidth 32
      | 0x10 => t.kp.setWidth 32
      | 0x14 => t.ki.setWidth 32
      | 0x18 => t.stepThresh
      | 0x1C => t.incLimit
      | 0x28 => t.ethTx.setWidth 32
      | 0x2C => t.ethRx.setWidth 32
      | 0xC4 => BitVec.ofNat 32 (smp / 2 ^ 64)
      | 0xC8 => BitVec.ofNat 32 smp
      | 0xD0 => t.ptpIvl.setWidth 32
      | _ =>
        if off % 4 ≠ 0 ∨ i > 6 then 0#32
        else match off / 32 with
          | 2 => (t.ltx.get 0#24 i).setWidth 32
          | 3 => (t.lrx.get 0#24 i).setWidth 32
          | 4 => (t.asym.get 0#24 i).setWidth 32
          | 5 => t.ldelay.get 0#32 i
          | _ => 0#32), s)

/-- A register of the TIME block written; a value out of a field's range leaves it and counts (R863). -/
def State.timeWr (s : State) (off : Nat) (v : W32) : State :=
  let t := s.time
  let i := off % 32 / 4
  match off with
  | 0x00 => s.timeCtl v
  | 0x0C => if 4 ≤ bitsAt v.toNat 0 4 ∧ bitsAt v.toNat 0 4 ≤ 10 then { s with time := { t with ivl := v.setWidth 4 } }
    else s.csrRejected
  | 0x10 => { s with time := { t with kp := v.setWidth 24 } }
  | 0x14 => { s with time := { t with ki := v.setWidth 24 } }
  | 0x18 => { s with time := { t with stepThresh := v } }
  | 0x1C => { s with time := { t with incLimit := v } }
  | 0x20 => { s with time := { t with ptpLo := v } }
  | 0x24 => s.ptpOffset v
  | 0x28 => { s with time := { t with ethTx := v.setWidth 24 } }
  | 0x2C => { s with time := { t with ethRx := v.setWidth 24 } }
  | 0xD0 => if -7 ≤ (v.setWidth 4).toInt ∧ (v.setWidth 4).toInt ≤ 4 then { s with time := { t with ptpIvl := v.setWidth 4 } }
    else s.csrRejected
  | _ =>
    if off % 4 ≠ 0 ∨ i > 6 then s
    else match off / 32 with
      | 2 => { s with time := { t with ltx := t.ltx.put i (v.setWidth 24) } }
      | 3 => { s with time := { t with lrx := t.lrx.put i (v.setWidth 24) } }
      | 4 => { s with time := { t with asym := t.asym.put i (v.setWidth 24) } }
      | _ => s

/-- TIME_CTL_WRITE: a write of TIME.CTL. -/
def execTimeCtlWrite (v : W32) (s : State) : Out := whenLive s (s.coverTouch.timeCtl v)

/-- ALLOW_STEP: a write of TIME.CTL with ALLOW_STEP set. -/
def execAllowStep (v : W32) (s : State) : Out := whenLive s (s.coverTouch.timeCtl (v ||| 0x20#32))

/-- PTP_OFFSET_WRITE: a write of PTP_OFFSET_HI (R889, R593). -/
def execPtpOffsetWrite (hi : W32) (s : State) : Out := whenLive s (s.ptpOffset hi)

/-- SLATE_SAMPLE_READ: a read of SLATE_NS_LO latches a sample for its requester (R889); a cluster controller does not reach
the block (R293, R860). -/
def execSlateSampleRead (r : Requester) (s : State) : Out :=
  whenLive s (match r with
    | .clCtl _ => s
    | r => (s.timeRd (Requester.num r) 0xC0).2)

/-! ### PTP event messages (R596, R597) -/

/-- A value of n bytes at byte i of a frame, most significant first. -/
def beN (l : List Byte) (i n : Nat) : Nat := leVal (sliceB l i n).reverse
/-- Bytes of a frame replaced from byte i. -/
def putBytes (l : List Byte) (i : Nat) (b : List Byte) : List Byte := l.take i ++ b ++ l.drop (i + b.length)

/-- Where the PTP message of an Ethernet frame begins, and where its UDP checksum lies: Annex E directly in the frame, Annex C
in UDP to port 319 over IPv4; no other transport (R595; the places are those of IEEE 802.3, RFC 791 and RFC 768: PRESUMED, log 40). -/
def ptpAt (l : List Byte) : Option (Nat × Option Nat) :=
  if beN l 12 2 = 0x88F7 then some (14, none)
  else if beN l 12 2 = 0x0800 ∧ recN l 14 1 / 16 = 4 ∧ recN l 23 1 = 17 then
    let u := 14 + 4 * (recN l 14 1 % 16)
    if beN l (u + 2) 2 = 319 then some (u + 8, some (u + 6)) else none
  else none

/-- Whether a frame is an event message that the part supports: of a supported transport, a domain up to 127, and of one of the
four event types (R595; IEEE 1588: log 40). -/
def ptpEvent (l : List Byte) : Bool := match ptpAt l with
  | some (b, _) => decide (recN l (b + 4) 1 ≤ 127) && decide (recN l b 1 % 16 ≤ 3)
  | none => false

/-- A one-step frame as it leaves: originTimestamp of a Sync, the turnaround time added to the correctionField of a
Pdelay_Resp, in units of 2^−16 ns, and the UDP checksum zero on IPv4 (R597; field places of IEEE 1588: log 40). -/
def oneStep (l : List Byte) (t t2 : BitVec 96) : List Byte :=
  match ptpAt l with
  | none => l
  | some (b, ck) =>
    let ty := recN l b 1 % 16
    let l := if ty = 0 then
        putBytes l (b + 34) (beBytes 6 (t.toNat / 2 ^ 32 / 1000000000) ++ beBytes 4 (t.toNat / 2 ^ 32 % 1000000000))
      else if ty = 3 then
        putBytes l (b + 8) (beBytes 8 (beN l (b + 8) 8 + (t.toNat + 2 ^ 96 - t2.toNat) % 2 ^ 96 / 2 ^ 16))
      else l
    match ck with
    | some c => if ty = 0 ∨ ty = 3 then putBytes l c [0#8, 0#8] else l
    | none => l

/-- Whether CK_ETH runs: in RUN and TRIM (Table PWR-1). -/
def State.ethOn (s : State) : Bool := decide (s.gaf.state.toNat ≤ 1)

/-- PTP_EVENT_MESSAGE: an event message is timestamped as it arrives or leaves; in one-step mode the frame is completed as it
leaves. A frame that is none that the part supports is not timestamped (R595). -/
def execPtpEventMessage (tx : Bool) (one : Bool) (frame : List Byte) (s : State) : Out :=
  whenLive s (
    if !s.ethOn then s
    else if !ptpEvent frame then (if tx then { s with time := { s.time with ethFrame := frame } } else s)
    else
    let t := if tx then s.stamp s.time.ethTx true else s.stamp s.time.ethRx false
    let req : Bool := match ptpAt frame with
      | some (b, _) => recN frame b 1 % 16 == 2
      | none => false
    { s with time := { s.time with
      lastStamp := t
      pdelayT2 := if !tx && req then t else s.time.pdelayT2
      ethFrame := if tx then (if one then oneStep frame t s.time.pdelayT2 else frame) else s.time.ethFrame } })

/-! ### Launch at a count, and the PPS pin -/

/-- LAUNCH_START: Slate has reached the count of a prepared step, and its threads start (R605), once no core of it is being replaced
(R790). -/
def execLaunchStart (p : Fin 8) (job : Nat) (s : State) : Out :=
  whenLive s (match (s.job p.val job).startAt with
    | none => s
    | some c => if s.ns < c.toNat || (s.jobCores p.val job).any (fun k => (s.cl (keyCl k)).spareBusy.isSome) then s
      else s.launch p.val job)

/-- SLATE_PPS_RISE: the integer part of Slate has reached a multiple of 1,000,000,000 (R908). -/
def execSlatePpsRise (s : State) : Out :=
  whenLive s (
    let n := BitVec.ofNat 64 (s.ns / 1000000000)
    if s.time.pps ∨ n = s.time.ppsSec then s else { s with time := { s.time with pps := true, ppsSec := n } })

/-- SLATE_PPS_FALL: 1 ms after its rise (R908). -/
def execSlatePpsFall (s : State) : Out :=
  whenLive s (if s.time.pps && decide (s.ns ≥ s.time.ppsSec.toNat * 1000000000 + 1000000) then
    { s with time := { s.time with pps := false } } else s)

end Sys2Proof.Machine
end

