-- ==== Sys2Proof/Machine/Camera.lean ====
section
/-! DEFINITION. Camera ports, streams, frames, pipeline contexts and rings (R657 to R694). -/
namespace Sys2Proof.Machine

/-! ### Ports and stream entries -/

/-- Camera port by number. -/
def State.camPort (s : State) (p : Nat) : CamPort := s.cam.ports.get CamPort.init p
/-- Camera port updated. -/
def State.updCamPort (s : State) (p : Nat) (f : CamPort → CamPort) : State :=
  { s with cam := { s.cam with ports := s.cam.ports.upd CamPort.init p f } }
/-- Pipeline context by number. -/
def State.ctx (s : State) (x : Nat) : Ctx := s.cam.ctx.get Ctx.init x
/-- Pipeline context updated. -/
def State.updCtx (s : State) (x : Nat) (f : Ctx → Ctx) : State :=
  { s with cam := { s.cam with ctx := s.cam.ctx.upd Ctx.init x f } }
/-- Open frames replaced. -/
def State.setFrames (s : State) (l : List Frame) : State := { s with cam := { s.cam with frames := l } }
/-- A counter of a camera port advanced, saturating. -/
def State.camCnt (s : State) (p off : Nat) : State := s.updCamPort p (fun x => { x with cnt := x.cnt.upd 0#32 off satInc })

/-- The owner of a camera port (R691). -/
def State.camOwner (s : State) (p : Nat) : Option Nat :=
  let n := bitsAt s.cam.own.toNat (4 * p) 4
  if n < 8 then some n else none

/-- Whether the ports and the pipeline are powered: in RUN, TRIM and WATCH (R694). -/
def State.camPowered (s : State) : Bool := decide (s.gaf.state.toNat ≤ 2)

/-- The partition that a camera port serves: its owner, unless that is being scrubbed (R779, R781). -/
def State.camServes (s : State) (p : Nat) : Option Nat := (s.camOwner p).filter (fun o => !s.scrubbing o)

/-- Whether a port receives: enabled, owned, powered (R692, R694). -/
def State.camRx (s : State) (p : Nat) : Bool := (s.camPort p).cfg.getLsbD 0 && (s.camServes p).isSome && s.camPowered

/-- The wrong bits of a packet's header counted: one is corrected; with more the packet is discarded (R659). -/
def State.camHeader (s : State) (p : Nat) (hdrErr : BitVec 2) : State :=
  if hdrErr = 0#2 then s else if hdrErr = 1#2 then s.camCnt p 0x10 else s.camCnt p 0x14

/-- Fields of a stream-table entry (Table CAM-3). -/
def entV (e : W64) : Bool := e.getLsbD 0
/-- VC. -/
def entVc (e : W64) : Nat := bitsAt e.toNat 1 4
/-- DT. -/
def entDt (e : W64) : Nat := bitsAt e.toNat 5 6
/-- ROUTE: bypass. -/
def entByp (e : W64) : Bool := e.getLsbD 11
/-- TGT. -/
def entTgt (e : W64) : Nat := bitsAt e.toNat 12 4
/-- EXP. -/
def entExp (e : W64) : Nat := bitsAt e.toNat 16 2
/-- W. -/
def entW (e : W64) : Nat := bitsAt e.toNat 32 14 + 1
/-- H. -/
def entH (e : W64) : Nat := bitsAt e.toNat 48 14 + 1
/-- The ring that an entry's frames go to: 0 to 15 a context's, 16 to 31 a bypass ring. -/
def entRing (e : W64) : Nat := entTgt e + 16 * b2n (entByp e)

/-- Whether a data type is a long-packet type of Table CAM-2. -/
def dtLong (dt : Nat) : Bool := dt == 0x12 || dt == 0x1E || (decide (0x2A ≤ dt) && decide (dt ≤ 0x2F))
/-- Bits per sample (Table CAM-2). -/
def dtBits (dt : Nat) : Nat := match dt with
  | 0x2B => 10
  | 0x2C => 12
  | 0x2D => 14
  | 0x2E => 16
  | 0x2F => 20
  | _ => 8

/-! ### Samples of a long packet (the packing is that of MIPI CSI-2: PRESUMED, log 43) -/

/-- Complete groups of n bytes. -/
def groups (n : Nat) (l : List Byte) : List (List Nat) :=
  (upTo (l.length / n)).map (fun i => ((l.drop (n * i)).take n).map (fun b => b.toNat))

/-- The samples of a long packet of a data type. -/
def samplesOf (dt : Nat) (l : List Byte) : List Nat :=
  match dt with
  | 0x2B => (groups 5 l).flatMap (fun g => (upTo 4).map (fun i => g.getD i 0 * 4 + bitsAt (g.getD 4 0) (2 * i) 2))
  | 0x2C => (groups 3 l).flatMap (fun g => (upTo 2).map (fun i => g.getD i 0 * 16 + bitsAt (g.getD 2 0) (4 * i) 4))
  | 0x2D => (groups 7 l).flatMap (fun g =>
      let low := g.getD 4 0 + 256 * g.getD 5 0 + 65536 * g.getD 6 0
      (upTo 4).map (fun i => g.getD i 0 * 64 + bitsAt low (6 * i) 6))
  | 0x2E => (groups 2 l).map (fun g => g.getD 0 0 * 256 + g.getD 1 0)
  | 0x2F => (groups 5 l).flatMap (fun g => (upTo 2).map (fun i =>
      (g.getD (2 * i) 0 * 4 + bitsAt (g.getD 4 0) (4 * i) 2) * 1024 + g.getD (2 * i + 1) 0 * 4 +
        bitsAt (g.getD 4 0) (4 * i + 2) 2))
  | _ => l.map (fun b => b.toNat)

/-- The bytes of a line that a bypass stream writes (R675). -/
def bypassBytes (dt : Nat) (l : List (BitVec 20)) : List Byte :=
  l.flatMap (fun x => leBytes (if dt = 0x12 ∨ dt = 0x1E then 1 else if dt = 0x2F then 4 else 2) x.toNat)

/-! ### Rings (R682 to R686) -/

/-- The ring of a context's parameters. -/
def ctxRing (m : SMap W32) : Ring :=
  { Ring.init with
    base := BitVec.ofNat 64 (parW m 0x200 + parW m 0x204 * 2 ^ 32), n := parW m 0x208, pitch := parW m 0x20C
    rowPitch := parW m 0x210, planePitch := parW m 0x214, fabric := bitAt (parW m 0x218) 0
    node := BitVec.ofNat 18 (parW m 0x21C) }

/-- A bypass ring: its words in the order in which the register list names them (log 44). -/
def State.bypassRing (s : State) (r : Nat) : Ring :=
  let m := s.cam.rings.get [] r
  { Ring.init with
    base := BitVec.ofNat 64 (parW m 0x00 + parW m 0x04 * 2 ^ 32), n := parW m 0x08, pitch := parW m 0x0C
    rowPitch := parW m 0x10, fabric := bitAt (parW m 0x14) 0, node := BitVec.ofNat 18 (parW m 0x18)
    padv := m.get 0#32 0x1C }

/-- The address of a ring's buffer for a HEAD. -/
def Ring.buf (r : Ring) (head : Nat) : Nat := r.base.toNat + 64 + (if r.n = 0 then 0 else head % r.n) * r.pitch

/-- Bytes sent as STREAM packets of a partition to a node, at most 256 each (R574, R685); to this device itself they are
written at once. STREAM packets are never encrypted, so a confidential partition sends none (R774). -/
def State.sendStream (s : State) (p : Nat) (node : BitVec 18) (va : Nat) (l : List Byte) : State :=
  (upTo (ceilDiv l.length 256)).foldl (fun s i =>
    let d := (l.drop (256 * i)).take 256
    if s.route node.toNat = some none then (s.hostWrite p (va + 256 * i) d).1
    else if s.conf p then s
    else s.sendPacket 7 (s.ownPacket { Packet.init with
      type := 5#4, part := BitVec.ofNat 3 p, dst := node, addr := BitVec.ofNat 48 (va + 256 * i)
      len := BitVec.ofNat 9 d.length, data := d })) s

/-- Bytes written into a ring at its partition, or streamed; and the fault of the first page that faults (R684, R685). -/
def State.ringWrite (s : State) (p : Nat) (r : Ring) (va : Nat) (l : List Byte) : State × Option Nat :=
  if r.fabric then (s.sendStream p r.node va l, none) else s.hostWrite p va l

/-- TAIL of a ring; one that cannot be read is an open value (log 5). -/
def State.ringTail (s : State) (p : Nat) (r : Ring) : Nat × State :=
  match s.hostRead p r.base.toNat 8 with
  | .inl l => (leVal l, s)
  | .inr _ => ((Config.freeValue (s.freeAt p)).toNat, (s.hostMiss p r.base.toNat 8 .none).freshP p 1)

/-- Whether TAIL of a ring cannot be read yet: its page is in motion (R104). -/
def State.tailWaits (s : State) (p : Nat) (r : Ring) : Bool := !r.fabric && s.mvPart p r.base.toNat 8

/-- Whether a block of n bytes for a ring's next buffer waits for a page in motion (R104). -/
def State.ringMoves (s : State) (p : Nat) (r : Ring) (head n : Nat) : Bool :=
  !r.fabric && (s.mvPart p r.base.toNat 16 || s.mvPart p (r.buf head) n)

/-- Frames of a ring that hold a buffer whose record is not yet written. -/
def State.heldBufs (s : State) (k : Nat) : Nat :=
  (s.cam.frames.filter (fun f => entRing f.entry == k && f.bufIdx.isSome)).length

/-- The buffer that a new frame of a ring takes: none when it is discarded and counted (R682, R685). Frames of the ring whose
records are still to come hold the buffers before it (log 44). -/
def State.takeBuf (s : State) (p k : Nat) (r : Ring) : Option W64 × State :=
  let head := (s.cam.heads.get 0#64 k) + BitVec.ofNat 64 (s.heldBufs k)
  if r.fabric then (some head, s)
  else
    let t := s.ringTail p r
    if (head - BitVec.ofNat 64 t.1).toNat < r.n then (some head, t.2)
    else (none, { t.2 with cam := { t.2.cam with
      dropped := t.2.cam.dropped.upd 0#16 k (fun n => if n = 0xFFFF#16 then n else n + 1#16) } })

/-! ### Frames (R664 to R667) -/

/-- A flag of a frame. -/
def Frame.flag (f : Frame) (i : Nat) : Frame := { f with flags := f.flags ||| (1#16 <<< i) }
/-- The value of padded samples of a frame. -/
def Frame.padv (f : Frame) : BitVec 20 :=
  if entByp f.entry then f.ring.padv.setWidth 20 else BitVec.ofNat 20 (parPadv f.par)
/-- A line of padding. -/
def Frame.padLine (f : Frame) : List (BitVec 20) := List.replicate (entW f.entry) f.padv
/-- A line delivered. -/
def Frame.addLine (f : Frame) (ns : W64) (l : List (BitVec 20)) : Frame :=
  { f with lines := f.lines ++ [l], stamps := f.stamps ++ [ns] }

/-- A frame closed: missing lines are delivered as padding (R667). -/
def Frame.close (f : Frame) (ns : W64) : Frame :=
  let n := entH f.entry - f.lines.length
  let f := { f with
    lines := f.lines ++ List.replicate n f.padLine, stamps := f.stamps ++ List.replicate n ns
    padded := f.padded ++ (upTo n).map (fun i => f.lines.length + i)
    fixed := f.fixed + n, tEnd := ns, closed := true }
  if n > 0 then f.flag 2 else f

/-- Whether a frame is the open one of a stream. -/
def Frame.isOpen (f : Frame) (p i : Nat) : Bool := !f.closed && f.port == p && f.idx == i

/-- The open frame of a stream updated. -/
def State.updOpen (s : State) (p i : Nat) (g : Frame → Frame) : State :=
  s.setFrames (s.cam.frames.map (fun f => if f.isOpen p i then g f else f))

/-- Whether two frames are the same: one stream opens no two frames with the same place in the list. -/
def State.updFrameAt (s : State) (n : Nat) (g : Frame → Frame) : State := s.setFrames (s.cam.frames.modify n g)

/-- The lines of a bypass frame that have arrived and are not yet written are written, unless a page that they touch is in
motion (R104, R675); a fault ends the frame's pixel writes (R684). -/
def State.flushAt (s : State) (n : Nat) : State :=
  match s.cam.frames[n]? with
  | none => s
  | some f =>
    if !entByp f.entry then s
    else match s.camServes f.port with
      | none => s
      | some p =>
        if f.tailDue then s
        else (upTo (f.lines.length - f.done)).foldl (fun (s : State) (i : Nat) =>
          match s.cam.frames[n]? with
          | none => s
          | some g =>
            let y := f.done + i
            if g.done ≠ y then s
            else match g.bufIdx with
              | none => s.updFrameAt n (fun h => { h with done := y + 1 })
              | some hd =>
                let l := bypassBytes (entDt g.entry) (g.lines.getD y [])
                let va := g.ring.buf hd.toNat + 64 + y * g.ring.rowPitch
                if bitAt g.flags.toNat 7 then s.updFrameAt n (fun h => { h with done := y + 1 })
                else if !g.ring.fabric && s.mvPart p va l.length then s
                else
                  let r := s.ringWrite p g.ring va l
                  r.1.updFrameAt n (fun h =>
                    let h := { h with done := y + 1 }
                    match r.2 with
                    | some c => { h.flag 7 with fcode := BitVec.ofNat 8 c }
                    | none => h)) s

/-- The buffer of a frame chosen as soon as TAIL can be read (R104, R682). -/
def State.settleTail (s : State) (n : Nat) : State :=
  match s.cam.frames[n]? with
  | none => s
  | some f =>
    match s.camServes f.port with
    | some p =>
      if !f.tailDue || s.tailWaits p f.ring then s
      else
        let b := s.takeBuf p (entRing f.entry) f.ring
        b.2.updFrameAt n (fun f => { f with tailDue := false, bufIdx := b.1 })
    | none => s

/-- Whether no frame of a context takes an exposure: not its open frames of exposure 0, nor the parameters in force. -/
def State.spareExpo (s : State) (x e : Nat) : Bool :=
  decide (parNexp (s.ctx x).active ≤ e) &&
    s.cam.frames.all (fun g => entRing g.entry != x || entExp g.entry != 0 || decide (parNexp g.par ≤ e))

/-- Closed frames of exposures that no frame of their context takes leave the list (log 63). -/
def State.dropSpare (s : State) : State :=
  s.setFrames (s.cam.frames.filter (fun f =>
    !(f.closed && !entByp f.entry && s.spareExpo (entTgt f.entry) (entExp f.entry))))

/-- What the frames of the list can do by themselves: buffers are chosen, and every bypass frame's arrived lines written. -/
def State.flushAll (s : State) : State :=
  ((upTo s.cam.frames.length).foldl (fun s n => (s.settleTail n).flushAt n) s).dropSpare

/-! ### Commits and contexts (R676 to R681) -/

/-- The valid entries of all ports that name a context: port, entry. -/
def State.feeds (s : State) (x : Nat) : List (Nat × W64) :=
  (upTo 4).flatMap (fun p => ((s.camPort p).entries.filter (fun e => entV e.2 && !entByp e.2 && entTgt e.2 == x)).map
    (fun e => (p, e.2)))

/-- Whether the base of a ring lies in a tier that Table CAM-8 allows: any but the host's. -/
def State.ringTier (s : State) (p : Nat) (r : Ring) : Bool :=
  let e := s.pte p (r.base.toNat / 65536)
  !(pteV e && pteTier e == 3)

/-- The checks of a commit (R678, R774). -/
def State.commitOk (s : State) (x : Nat) : Bool :=
  let m := (s.ctx x).shadow
  let l := s.feeds x
  let n := parNexp m
  let r := ctxRing m
  match l.find? (fun e => entExp e.2 == 0) with
  | none => false
  | some e0 =>
    let own := (s.camOwner e0.1).getD 9
    let away := r.fabric && s.route r.node.toNat != some none
    !(away && s.conf own) && (r.fabric || s.ringTier own r) &&
    let mine := l.filter (fun e => decide (entExp e.2 < n))
    (upTo n).all (fun e => (l.filter (fun y => entExp y.2 == e)).length == 1) &&
    mine.all (fun e => entW e.2 == entW e0.2 && entH e.2 == entH e0.2 && s.camOwner e.1 == s.camOwner e0.1) &&
    parOk m (entW e0.2) (entH e0.2)

/-- A pending shadow at the FS of exposure 0: copied when every check passes, else CERR (R677). -/
def State.commitCtx (s : State) (x : Nat) : State :=
  if !(s.ctx x).pend then s
  else if s.commitOk x then s.updCtx x (fun c => { c with pend := false, active := c.shadow, gen := c.gen + 1#16 })
  else s.updCtx x (fun c => { c with pend := false, cerr := true })

/-- A context's enable as written; clearing it takes effect once the records of the frames that it has then are written (R681). -/
def State.setCtxEn (s : State) (x : Nat) (en : Bool) : State :=
  let n := (s.cam.frames.filter (fun f => entRing f.entry == x && entExp f.entry == 0)).length
  s.updCtx x (fun c =>
    if en then { c with enReq := true, offIn := 0 }
    else if !c.enReq then c
    else { c with enReq := false, offIn := n, en := c.en && n != 0 })

/-- A context's enable takes effect at the next FS of a stream that feeds it; its ring then starts at HEAD 0 (R681, log 44). -/
def State.enableAtFs (s : State) (x : Nat) : State :=
  if (s.ctx x).enReq && !(s.ctx x).en then
    let s := s.updCtx x (fun c => { c with en := true })
    { s with cam := { s.cam with heads := s.cam.heads.put x 0#64 } }
  else s

/-- A stream's frame opened at an FS, or its packets counted as unmatched (R664 to R666, R677, R682). -/
def State.openStream (s : State) (p i : Nat) (e : W64) (fnum : BitVec 16) (own : Nat) : State :=
  let x := entTgt e
  let s := if !entByp e then s.enableAtFs x else s
  let bad : Bool := !entByp e && (entDt e == 0x12 || entDt e == 0x1E || !(s.ctx x).en || decide (entW e > 8192))
  let rest := s.cam.ignored.filter (fun y => y != (p, i))
  if bad then { s with cam := { s.cam with ignored := rest ++ [(p, i)] } }
  else
    let s := { s with cam := { s.cam with ignored := rest } }
    let s := if !entByp e && entExp e == 0 then s.commitCtx x else s
    let c := s.ctx x
    let ring := if entByp e then s.bypassRing x else ctxRing c.active
    let takes := entByp e || entExp e == 0
    let late := takes && s.tailWaits own ring
    let b := if takes && !late then s.takeBuf own (entRing e) ring else (none, s)
    let s := b.2
    s.setFrames (s.cam.frames ++ [{ Frame.init with
      port := p, idx := i, entry := e, tailDue := late, fnum := fnum, tFs := s.nsW, lastNs := s.nsW, bufIdx := b.1, ring := ring
      par := if entByp e then [] else c.active, gen := if entByp e then 0#16 else c.gen }])

/-- An FS of a virtual channel: it reads the entries, closes a frame still open as at FE, and opens the frames of the valid
entries with that channel (R664 to R667). -/
def State.frameStart (s : State) (p v own : Nat) (fnum : BitVec 16) : State :=
  (upTo 16).foldl (fun s i =>
    let cur := (s.camPort p).entries.get 0#64 i
    let old := (s.camPort p).eff.get 0#64 i
    let isCur : Bool := entV cur && entVc cur == v
    let isOld : Bool := entV old && entVc old == v
    if !isCur && !isOld then s
    else
      let s := s.updOpen p i (fun f => (f.close s.nsW).flag 8)
      let s := s.flushAll
      let s := s.updCamPort p (fun x => { x with eff := x.eff.put i cur })
      if isCur then s.openStream p i cur fnum own else s) s

/-- CSI_FRAME_START: an FS arrives with hdrErr wrong header bits (R659, R664 to R667); skewOk is what the D-PHY receiver
reports of its skew calibration (R657). -/
def execCsiFrameStart (p : Fin 4) (vc : BitVec 4) (fnum : BitVec 16) (hdrErr : BitVec 2) (skewOk : Bool) (s : State) : Out :=
  let p := p.val
  whenLive s (match s.camOwner p with
    | none => s
    | some own =>
      if !s.camRx p then s
      else
        let s := (s.updCamPort p (fun x => { x with skewOk := skewOk })).camHeader p hdrErr
        if hdrErr.toNat ≥ 2 then s else s.frameStart p vc.toNat own fnum)

/-- CSI_FRAME_END: an FE arrives with hdrErr wrong header bits and closes the frames of its virtual channel (R659, R664, R667). -/
def execCsiFrameEnd (p : Fin 4) (vc : BitVec 4) (_ : BitVec 16) (hdrErr : BitVec 2) (s : State) : Out :=
  whenLive s (if !s.camRx p.val then s
    else
      let s := s.camHeader p.val hdrErr
      if hdrErr.toNat ≥ 2 then s
      else (s.setFrames (s.cam.frames.map (fun f =>
        if !f.closed && f.port == p.val && entVc f.entry == vc.toNat then f.close s.nsW else f))).flushAll)

/-- CSI_LINE_MARKER: a line start or line end is accepted and ignored, but for the errors of its header (R659, Table CAM-2). -/
def execCsiLineMarker (p : Fin 4) (_ : BitVec 4) (_ : Bool) (hdrErr : BitVec 2) (s : State) : Out :=
  whenLive s (if s.camRx p.val then s.camHeader p.val hdrErr else s)

/-- Lines of an instance's contexts that have arrived and are not yet taken: they fill its input buffer (R688). Padding holds no
place, nor do the exposures that no frame takes (log 63). -/
def State.heldLines (s : State) (inst : Nat) : Nat :=
  (upTo 8).foldl (fun a i =>
    let x := 8 * inst + i
    let done := match s.cam.frames.find? (fun f => entRing f.entry == x && entExp f.entry == 0) with
      | some f => f.done
      | none => 0
    (upTo 4).foldl (fun a e =>
      if s.spareExpo x e then a
      else
        let l := s.cam.frames.filter (fun f => entRing f.entry == x && entExp f.entry == e)
        (l.zip (upTo l.length)).foldl (fun a y =>
          let from_ := if y.2 = 0 then done else 0
          a + ((upTo y.1.lines.length).filter (fun r => decide (from_ ≤ r) && !y.1.padded.contains r)).length) a) a) 0

/-- A line of a stream taken into its open frame (R667); a pipeline's input buffer holds 32 lines (R688). -/
def State.takeLine (s : State) (p i : Nat) (f : Frame) (crcOk : Bool) (l : List Nat) : State :=
  let full := decide (s.heldLines (entTgt f.entry / 8) ≥ 32)
  let w := entW f.entry
  let ns := s.nsW
  let g (f : Frame) : Frame :=
    let f := { f with lastNs := ns }
    let f := if crcOk then f else f.flag 5
    if f.lines.length ≥ entH f.entry then f.flag 3
    else if full && !entByp f.entry then
      { ((f.addLine ns f.padLine).flag 6) with fixed := f.fixed + 1, padded := f.padded ++ [f.lines.length] }
    else
      let x := (l.take w).map (fun v => BitVec.ofNat 20 v)
      let f' := f.addLine ns (x ++ List.replicate (w - x.length) f.padv)
      if l.length < w then { f'.flag 0 with fixed := f.fixed + 1 }
      else if l.length > w then { f'.flag 1 with fixed := f.fixed + 1 } else f'
  let ovr : Bool := full && !entByp f.entry && decide (f.lines.length < entH f.entry)
  let s := s.updOpen p i g
  let s := if ovr then { s with cam := { s.cam with overrun := s.cam.overrun.upd 0#32 (entTgt f.entry / 8) satInc } } else s
  s.flushAll

/-- CSI_LONG_PACKET: a long packet with hdrErr wrong header bits is checked, matched to a stream and delivered (R659 to R667). -/
def execCsiLongPacket (p : Fin 4) (vc : BitVec 4) (dt : BitVec 6) (hdrErr : BitVec 2) (crcOk : Bool) (data : List Byte)
    (s : State) : Out :=
  let p := p.val
  whenLive s (
    if !s.camRx p then s
    else if hdrErr.toNat ≥ 2 then s.camHeader p hdrErr
    else
      let s := s.camHeader p hdrErr
      let s := if crcOk then s else s.camCnt p 0x18
      if !dtLong dt.toNat then s.camCnt p 0x20
      else
        match (upTo 16).find? (fun i => let e := (s.camPort p).eff.get 0#64 i
            entV e && entVc e == vc.toNat && entDt e == dt.toNat) with
        | none => s.camCnt p 0x1C
        | some i =>
          if s.cam.ignored.contains (p, i) then s.camCnt p 0x1C
          else match s.cam.frames.find? (fun f => f.isOpen p i) with
            | none => s.camCnt p 0x24
            | some f => s.takeLine p i f crcOk (samplesOf dt.toNat data))

/-- CSI_LINE_TIMEOUT: no line and no FE within LTO of a stream's previous packet closes its frame LATE (R667). -/
def execCsiLineTimeout (p : Fin 4) (idx : Fin 16) (s : State) : Out :=
  let lto := bitsAt (s.camPort p.val).cfg.toNat 16 16
  whenLive s (match s.cam.frames.find? (fun f => f.isOpen p.val idx.val) with
    | none => s
    | some f =>
      if s.ns < f.lastNs.toNat + 1000 * lto then s
      else (s.updOpen p.val idx.val (fun f => (f.close s.nsW).flag 4)).flushAll)

/-! ### The pipeline and the records (R669, R683 to R686) -/

/-- The places in the list of a context's first frames, one per exposure. -/
def State.expoAt (s : State) (x : Nat) : Option (List Nat) :=
  let at? (e : Nat) : Option Nat := s.cam.frames.findIdx? (fun f => entRing f.entry == x && entExp f.entry == e)
  match at? 0 with
  | none => none
  | some n0 =>
    let l := (upTo (parNexp (s.cam.frames.getD n0 Frame.init).par)).map at?
    if l.any (fun o => o.isNone) then none else some (l.map (fun o => o.getD 0))

/-- A frame of the list. -/
def State.frameAt (s : State) (n : Nat) : Frame := s.cam.frames.getD n Frame.init

/-- The time at which a context's next line was complete: line y of every exposure has arrived (R669). -/
def State.lineReady (s : State) (x : Nat) : Option Nat :=
  match s.expoAt x with
  | none => none
  | some l =>
    let f := s.frameAt (l.headD 0)
    if f.done ≥ entH f.entry ∨ l.any (fun n => decide ((s.frameAt n).lines.length ≤ f.done)) then none
    else some (l.foldl (fun m n => max m ((s.frameAt n).stamps.getD f.done 0#64).toNat) 0)

/-- The picture of a context's frames. -/
def State.pictureOf (s : State) (l : List Nat) : Picture :=
  let f := s.frameAt (l.headD 0)
  { w := entW f.entry, h := entH f.entry, par := f.par, depth := l.map (fun n => dtBits (entDt (s.frameAt n).entry)),
    raw := l.map (fun n => (s.frameAt n).lines) }

/-- Pixel writes of a frame in order, up to the first that faults (R684). -/
def State.pixelWrites (s : State) (p : Nat) (r : Ring) (img : Nat) (l : List (Nat × List Byte)) : State × Option Nat :=
  l.foldl (fun acc w => match acc.2 with
    | some _ => acc
    | none => acc.1.ringWrite p r (img + w.1) w.2) (s, none)

/-- A line of a context processed: the output rows whose last input line it is are written (R669 to R675). The
units that the writes cover only in part may hold an error not yet found (R447, R452). -/
def State.ispStep (s : State) (x : Nat) (fails : MemErr) : State :=
  match s.expoAt x with
  | none => s
  | some l =>
    let n0 := l.headD 0
    let f := s.frameAt n0
    let q := s.pictureOf l
    let rows := (upTo (outH f.par)).filter (fun oy => q.lastLine oy == f.done)
    let step (s : State) : State := s.updFrameAt n0 (fun h => { h with done := h.done + 1 })
    if f.tailDue then s
    else match f.bufIdx, s.camServes f.port with
    | some hd, some p =>
      if bitAt f.flags.toNat 7 then step s
      else
        let img := f.ring.buf hd.toNat + 64
        let ws := rows.flatMap q.rowWrites
        if !f.ring.fabric && ws.any (fun w => s.mvPart p (img + w.1) w.2.length) then s
        else
          let s := if f.ring.fabric then s else s.hostMeets p (ws.flatMap (fun w => s.edges p (img + w.1) w.2.length)) true fails
          let r := s.pixelWrites p f.ring img ws
          let s := step r.1
          match r.2 with
          | some c => s.updFrameAt n0 (fun h => { h.flag 7 with fcode := BitVec.ofNat 8 c })
          | none => s
    | _, _ => step s

/-- ISP_LINE: an instance processes the next line of a context: that line of every exposure has arrived, and no line of
another context of the instance was complete before it, or at the same time with a lower number (R669). -/
def execIspLine (x : Fin 16) (fails : MemErr) (s : State) : Out :=
  whenLive s (let s := s.flushAll; match s.lineReady x.val with
    | none => s
    | some t =>
      let first := (upTo 16).all (fun y => y == x.val || y / 8 != x.val / 8 || (match s.lineReady y with
        | some u => decide (t < u) || (t == u && decide (x.val < y))
        | none => true))
      if !first || !s.camPowered then s else s.ispStep x.val fails)

/-- The statistics of a frame: PWMBIN, PWMMAG, M100, M120 (R690). What they are without flicker statistics, or without a
qualifying bin, no rule states: PWMBIN is 255 (none) and the magnitudes are open (log 5). -/
def State.flicker (s : State) (p : Nat) (f : Frame) (x : Nat) : (Nat × Nat × Nat × Nat × Nat) × State :=
  let q : Picture := { w := entW f.entry, h := entH f.entry, par := f.par, depth := [dtBits (entDt f.entry)], raw := [f.lines] }
  let b := q.bands f.stamps
  let open3 (s : State) : Nat × State := ((Config.freeValue (s.freeAt p)).toNat % 2 ^ 32, s.freshP p 1)
  if entByp f.entry || !(s.ctx x).flk || b.isEmpty then
    let a := open3 s
    let c := open3 a.2
    let d := open3 c.2
    ((255, a.1, c.1, d.1, 0), d.2)
  else
    let m100 := flickMag b 100
    let m120 := flickMag b 120
    let thr := fp (f.par.get 0#32 0x118)
    let ge (m : W32) : Bool := !thr.isNan && !Fp.lt (fp m) thr
    let fl := 512 * b2n (ge m100 && Fp.lt (fp m120) (fp m100)) + 1024 * b2n (ge m120 && Fp.lt (fp m100) (fp m120))
    let k := flickBin b
    if k = 255 then
      let a := open3 s
      ((255, a.1, m100.toNat, m120.toNat, fl), a.2)
    else ((k, (flickMag b (200 + 250 * k)).toNat, m100.toNat, m120.toNat, fl), s)

/-- The record of a frame (Table CAM-9): flags and corrections of all its exposures, the end of the last of them. -/
def frameRecordBytes (l : List Frame) (dropped : BitVec 16) (st : Nat × Nat × Nat × Nat × Nat) : List Byte :=
  let f := l.headD Frame.init
  let flags := l.foldl (fun (a : BitVec 16) g => a ||| g.flags) 0#16 ||| BitVec.ofNat 16 st.2.2.2.2
  let fixed := min 65535 (l.foldl (fun a g => a + g.fixed) 0)
  let tEnd := l.foldl (fun a g => max a g.tEnd.toNat) 0
  leBytes 2 f.fnum.toNat ++ leBytes 2 f.gen.toNat ++ leBytes 2 dropped.toNat ++ leBytes 2 flags.toNat ++
    leBytes 8 f.tFs.toNat ++ leBytes 8 tEnd ++ leBytes 2 fixed ++ leBytes 1 f.fcode.toNat ++ leBytes 1 st.1 ++
    leBytes 4 st.2.1 ++ leBytes 4 st.2.2.1 ++ leBytes 4 st.2.2.2.1 ++ List.replicate 24 0#8

/-- A frame leaves the list with those of its other exposures; a cleared EN takes effect with the last of the frames that it waits
for (R681). -/
def State.dropFrames (s : State) (k : Nat) (l : List Nat) : State :=
  let s := s.setFrames (((s.cam.frames.zip (upTo s.cam.frames.length)).filter (fun y => !l.contains y.2)).map (fun y => y.1))
  let s := s.dropSpare
  if k < 16 then s.updCtx k (fun c =>
    if c.en && !c.enReq then { c with offIn := c.offIn - 1, en := decide (1 < c.offIn) } else c) else s

/-- The record of a ring's oldest frame is written, and HEAD advances (R683 to R685). -/
def State.writeRecord (s : State) (k : Nat) (l : List Nat) (fails : MemErr) : State :=
  let f := s.frameAt (l.headD 0)
  match f.bufIdx, s.camServes f.port with
  | some hd, some p =>
    let va := f.ring.buf hd.toNat
    if !f.ring.fabric && (s.mvPart p va 64 || s.mvPart p f.ring.base.toNat 16) then s
    else
      let st := s.flicker p f k
      let s := st.2
      let recd := frameRecordBytes (l.map s.frameAt) (s.cam.dropped.get 0#16 k) st.1
      let s := if f.ring.fabric then s else s.hostMeets p (s.edges p (f.ring.base.toNat + 8) 8) true fails
      let r := s.ringWrite p f.ring va recd
      let h := (s.cam.heads.get 0#64 k) + 1#64
      let r := match r.2 with
        | some _ => r
        | none => r.1.ringWrite p f.ring (f.ring.base.toNat + 8) (leBytes 8 h.toNat)
      let s := r.1
      match r.2 with
      | some _ =>
        let s := { s with cam := { s.cam with wfault := satInc s.cam.wfault } }
        let s := if k < 16 then s.updCtx k (fun c => { c with en := false, enReq := false, offIn := 0 }) else s
        s.dropFrames k l
      | none =>
        let s := { s with cam := { s.cam with heads := s.cam.heads.put k h, dropped := s.cam.dropped.put k 0#16 } }
        s.dropFrames k l
  | _, _ => s.dropFrames k l

/-- FRAME_RECORD: the oldest frame of a ring is closed and every pixel write of it is performed: its record is written and
HEAD advances (R683). The unit that HEAD lies in may hold an error not yet found (R447, R452). -/
def execFrameRecord (x : Fin 32) (fails : MemErr) (s : State) : Out :=
  let k := x.val
  whenLive s (
    let s' := s.flushAll
    let l := if k < 16 then s'.expoAt k else (s'.cam.frames.findIdx? (fun f => entRing f.entry == k)).map (fun n => [n])
    match l with
    | none => s
    | some l =>
      let f := s'.frameAt (l.headD 0)
      if f.done < entH f.entry || f.tailDue || l.any (fun n => !(s'.frameAt n).closed) || !s'.camPowered then s'
      else s'.writeRecord k l fails)

/-- CTX_COMMIT: COMMIT sets PEND (R676). -/
def execCtxCommit (x : Fin 16) (s : State) : Out :=
  whenLive s (if s.camPowered then s.updCtx x.val (fun c => { c with pend := true }) else s)

/-- CTX_ENABLE: CTL.EN set or cleared (R681). -/
def execCtxEnable (x : Fin 16) (en : Bool) (s : State) : Out :=
  whenLive s (if s.camPowered then s.setCtxEn x.val en else s)

/-! ### Ownership and power (R691, R692, R694) -/

/-- Every open frame of a port ends, with those of the contexts that it feeds, whose EN is cleared (R692). -/
def State.camEnd (s : State) (p : Nat) : State :=
  let fed (x : Nat) : Bool := (s.feeds x).any (fun e => e.1 == p) ||
    s.cam.frames.any (fun f => f.port == p && entRing f.entry == x) ||
    (s.camPort p).eff.any (fun e => entV e.2 && !entByp e.2 && entTgt e.2 == x)
  let xs := (upTo 16).filter fed
  let s' := s.setFrames (s.cam.frames.filter (fun f => f.port != p && !xs.contains (entRing f.entry)))
  xs.foldl (fun s x => s.updCtx x (fun c => { c with en := false, enReq := false, offIn := 0 })) s'

/-- CAM.PORT_OWN takes a value: the ports whose owner changes end their frames (R691, R692). -/
def State.camOwn (s : State) (v : BitVec 16) : State :=
  let s := (upTo 4).foldl (fun s p =>
    if bitsAt v.toNat (4 * p) 4 = bitsAt s.cam.own.toNat (4 * p) 4 then s else s.camEnd p) s
  { s with cam := { s.cam with own := v } }

/-- Whether a value of a port ownership register names partitions that exist, or none (R74, R691). -/
def State.portOwnOk (s : State) (v : BitVec 16) : Bool :=
  (upTo 4).all (fun p => let n := bitsAt v.toNat (4 * p) 4
    n == 15 || (decide (n < 8) && s.exists? n))

/-- The frames that are open when the ports lose power end, with the contexts that their ports feed (R694); closed frames whose
records are still to come are lost with the pipeline (log 63). -/
def State.camOff (s : State) : State :=
  ((upTo 4).foldl (fun s p => if s.cam.frames.any (fun f => f.port == p && !f.closed) then s.camEnd p else s) s).setFrames []

/-- The ports of a partition that is scrubbed accept LP-11 only: their frames end (R692, R779). -/
def State.camScrub (s : State) (o : Nat) : State :=
  (upTo 4).foldl (fun s p => if s.camOwner p = some o then s.camEnd p else s) s

/-! ### Registers (R693, Tables CAM-10 and CAM-11) -/

/-- PORT_STATUS.state: off, stop, receiving, held for want of an owner. -/
def State.camState (s : State) (p : Nat) : Nat :=
  if !(s.camPort p).cfg.getLsbD 0 then 0
  else if (s.camOwner p).isNone then 3
  else if s.cam.frames.any (fun f => f.port == p && !f.closed) then 2 else 1

/-- A register of the CAM block. -/
def State.camRd (s : State) (ia : Nat) : W32 :=
  if ia % 4 ≠ 0 then 0#32
  else if ia < 0x400 then
    let p := ia / 0x100
    let o := ia % 0x100
    if o = 0 then (s.camPort p).cfg
    else if o = 4 then BitVec.ofNat 32 (s.camState p + 4 * b2n (s.camPort p).skewOk)
    else if 0x10 ≤ o ∧ o ≤ 0x24 then (s.camPort p).cnt.get 0#32 o else 0#32
  else if ia = 0x800 then s.cam.own.setWidth 32
  else if 0x1000 ≤ ia ∧ ia < 0x1200 then
    let n := (ia - 0x1000) / 8
    BitVec.ofNat 32 (((s.camPort (n / 16)).entries.get 0#64 (n % 16)).toNat / 2 ^ (32 * (ia % 8 / 4)))
  else if 0x2000 ≤ ia ∧ ia < 0x2400 then (s.cam.rings.get [] ((ia - 0x2000) / 0x40)).get 0#32 (ia % 0x40)
  else if ia = 0x3000 then s.cam.wfault
  else 0#32

/-- Bits of an entry word that are fields. -/
def entMask (hi : Bool) : W32 := if hi then 0x3FFF3FFF#32 else 0x0003FFFF#32

/-- A register of the CAM block written; PORT_OWN is dangerous and not written here (R863). -/
def State.camWr (s : State) (ia : Nat) (v : W32) : State :=
  if ia % 4 ≠ 0 then s
  else if ia < 0x400 then
    if ia % 0x100 ≠ 0 then s
    else if bitsAt v.toNat 1 2 = 3 ∨ bitsAt v.toNat 16 16 = 0 then s.csrRejected
    else s.updCamPort (ia / 0x100) (fun x => { x with cfg := v &&& 0xFFFF0007#32 })
  else if 0x1000 ≤ ia ∧ ia < 0x1200 then
    let n := (ia - 0x1000) / 8
    let hi : Bool := ia % 8 == 4
    let w := v &&& entMask hi
    let e := w.setWidth 64
    if !hi && entV e && (!dtLong (entDt e) || (entByp e && entExp e != 0)) then s.csrRejected
    else s.updCamPort (n / 16) (fun x => { x with entries := x.entries.upd 0#64 (n % 16) (fun old =>
      if hi then w ++ old.setWidth 32 else (old.extractLsb' 32 32) ++ w) })
  else if 0x2000 ≤ ia ∧ ia < 0x2400 then
    let r := (ia - 0x2000) / 0x40
    let o := ia % 0x40
    let n := v.toNat
    let bad : Bool := (o == 0 && n % 64 != 0) || (o == 4 && decide (n ≥ 65536)) ||
      (o == 8 && (decide (n < 2) || decide (n > 64))) || ((o == 0x0C || o == 0x10) && n % 64 != 0) ||
      (o == 0x14 && decide (n > 1)) || (o == 0x18 && decide (n ≥ 2 ^ 18))
    if o ≥ 0x20 then s
    else if bad then s.csrRejected
    else
      let s := { s with cam := { s.cam with rings := s.cam.rings.upd [] r (fun m => m.put o v) } }
      if o = 0 then { s with cam := { s.cam with heads := s.cam.heads.put (16 + r) 0#64 } } else s
  else s

/-- Whether an offset of a context holds a shadow parameter (Table CAM-11); any other is reserved (R859). -/
def parOff? (o : Nat) : Bool :=
  o % 4 == 0 && ((decide (0x100 ≤ o) && decide (o ≤ 0x118)) || (decide (0x120 ≤ o) && decide (o ≤ 0x124)) ||
    (decide (0x140 ≤ o) && decide (o < 0x1F8)) || (decide (0x200 ≤ o) && decide (o < 0x220)) ||
    (decide (0x1000 ≤ o) && decide (o < 0x5004)) || (decide (0x6000 ≤ o) && decide (o < 0xA004)) ||
    (decide (0xB000 ≤ o) && decide (o < 0xBD8C)))

/-- The bits of a shadow parameter's word that Table CAM-11 names; the others are reserved (R16): of MODE, MOS and the factors. -/
def parMask (o : Nat) : W32 :=
  if o = 0x100 then 0x1FFFF#32 else if o = 0x124 then 0xFFFF#32 else if o = 0x1CC then 0x3F#32 else 0xFFFFFFFF#32

/-- A register of the ISP block; parameters read as the shadow holds them. -/
def State.ispRd (s : State) (ia : Nat) : W32 :=
  let x := ia / 0x10000
  let o := ia % 0x10000
  if ia = 0x100000 then s.cam.overrun.get 0#32 0
  else if ia = 0x100100 then s.cam.overrun.get 0#32 1
  else if x ≥ 16 then 0#32
  else
    let c := s.ctx x
    if o = 0 then BitVec.ofNat 32 (b2n c.enReq + 2 * b2n c.flk)
    else if o = 4 then BitVec.ofNat 32 (b2n c.pend + 2 * b2n c.cerr + 4 * b2n c.wlost +
      8 * b2n (s.cam.frames.any (fun f => entRing f.entry == x && !f.closed)) + 65536 * c.gen.toNat)
    else if parOff? o then c.shadow.get 0#32 o else 0#32

/-- A register of the ISP block written (R676, R680). -/
def State.ispWr (s : State) (ia : Nat) (v : W32) : State :=
  let x := ia / 0x10000
  let o := ia % 0x10000
  if x ≥ 16 then s
  else if o = 0 then (s.setCtxEn x (v.getLsbD 0)).updCtx x (fun c => { c with flk := v.getLsbD 1 })
  else if o = 4 then s.updCtx x (fun c => { c with cerr := c.cerr && !v.getLsbD 1, wlost := c.wlost && !v.getLsbD 2 })
  else if o = 8 then (if v.getLsbD 0 then s.updCtx x (fun c => { c with pend := true }) else s)
  else if !parOff? o then s
  else s.updCtx x (fun c => if c.pend then { c with wlost := true } else { c with shadow := c.shadow.put o (v &&& parMask o) })

end Sys2Proof.Machine
end

