-- ==== Sys2Proof/Machine/Tdm.lean ====
section
/-! DEFINITION. The TDM ports: clocks, frames, the pinned path, audio rings and the AUD block (R352, R354, R696, R700 to R708,
Table AUD-2). -/
namespace Sys2Proof.Machine

/-- The gain of a calibration entry (Table AUD-2). -/
def calGain (e : W32) : Nat := if e.getLsbD 31 then bitsAt e.toNat 0 16 else 0x4000
/-- DELAY of an entry that applies. -/
def calDelay (e : W32) : Nat := if e.getLsbD 31 then bitsAt e.toNat 16 8 else 0

/-- TDM port updated. -/
def State.updTdm (s : State) (p : Nat) (f : TdmPort → TdmPort) : State :=
  { s with aud := { s.aud with ports := s.aud.ports.upd TdmPort.init p f } }
/-- 24 data bits; otherwise 16. -/
def TdmPort.wide (t : TdmPort) : Bool := t.cfg.getLsbD 3
/-- Samples are INT16; otherwise FP32. -/
def TdmPort.int16 (t : TdmPort) : Bool := t.cfg.getLsbD 4
/-- A 48-bit address of the pin settings. -/
def TdmPort.adr (t : TdmPort) (o : Nat) : Nat := (t.set.get 0#32 o).toNat + 2 ^ 32 * (t.set.get 0#32 (o + 4)).toNat
/-- The input ring. -/
def TdmPort.inRing (t : TdmPort) : Ring :=
  { Ring.init with
    base := BitVec.ofNat 64 (t.adr 0x44)
    n := (t.set.get 0#32 0x4C).toNat
    pitch := (t.set.get 0#32 0x50).toNat
    fabric := (t.set.get 0#32 0x64).getLsbD 31
    node := (t.set.get 0#32 0x64).setWidth 18 }
/-- The playback ring. -/
def TdmPort.outRing (t : TdmPort) : Ring :=
  { Ring.init with base := BitVec.ofNat 64 (t.adr 0x54), n := (t.set.get 0#32 0x5C).toNat, pitch := (t.set.get 0#32 0x60).toNat }

/-- Whether CK_AUD or its rails change or are off: LISTEN, and a committed transition into or out of it (R703). -/
def State.audMoving (s : State) : Bool :=
  s.gaf.state == 3#3 || (match s.gaf.cur with
    | some t => t.committed && t.target == 3
    | none => false)

/-- Whether a port has no owner, or no clock (R696, R703). -/
def State.tdmStopped (s : State) (p : Nat) : Bool :=
  (match s.tdmOwner p with | some o => s.scrubbing o | none => true) || !s.pins.audMclk || !s.aud.locked || s.audMoving

/-- The frame in progress of a running port is touched by a stopped span: it is lost and counted once, and the port drives
zeros (R703). -/
def State.tdmTouch (s : State) (p : Nat) : State :=
  s.updTdm p (fun t =>
    if !t.running || t.touched then t
    else { t with touched := true, lost := satInc t.lost, sdo := [], delayQ := [], gap := true })

/-- Every port is touched. -/
def State.tdmTouchAll (s : State) : State := (upTo 4).foldl (fun s p => s.tdmTouch p) s

/-- The ports of a partition that is scrubbed are touched (R779). -/
def State.tdmScrub (s : State) (o : Nat) : State :=
  (upTo 4).foldl (fun s p => if s.tdmOwner p = some o then s.tdmTouch p else s) s

/-- TDM_PORT_START: the first CK_AUD cycle in which Slate has reached PORTp_START (R704). -/
def execTdmPortStart (p : Fin 4) (s : State) : Out :=
  let t := s.tdm p.val
  whenLive s (
    if !t.on || t.running || s.tdmStopped p.val || decide (s.ns < t.start.toNat) then s
    else s.updTdm p.val (fun t => { t with
      running := true, frame := 0, gap := true, skipped := false, touched := false, delayQ := [], sdo := [], blk := [], held := [] }))

/-! ### Samples (R701, R704, R708) -/

/-- The 24-bit sample of a slot: bits [31:8], or [31:16] with zeros below (R701). -/
def slotSample (wide : Bool) (w : W32) : Int :=
  if wide then sextN 24 (w.toNat / 256) else sextN 24 (w.toNat / 65536 * 256)

/-- The samples of a frame after delay and gain, and the delay lines: newest first (R708). -/
def TdmPort.calibrate (t : TdmPort) (cal : Nat → W32) (frame : List (List W32)) : List (List (BitVec 24)) × SMap (List (BitVec 24)) :=
  frame.foldl (fun acc row =>
    let r := (upTo 16).foldl (fun (b : List (BitVec 24) × SMap (List (BitVec 24))) i =>
      let x : BitVec 24 := BitVec.ofInt 24 (slotSample t.wide (row.getD i 0#32))
      let q := x :: b.2.get [] i
      let y := (q.getD (calDelay (cal i) % 32) 0#24).toInt
      let z := (satN 24 (rdiv (y * (calGain (cal i) : Int)) (2 ^ 14))).1
      (b.1 ++ [BitVec.ofInt 24 z], b.2.put i (q.take 31))) ([], acc.2)
    (acc.1 ++ [r.1], r.2)) ([], t.delayQ)

/-- The bytes of a sample in the port's format: FP32 x × 2^-23, or INT16 sat16(rdiv(x, 2^8)) (R704). -/
def sampleBytes (int16 : Bool) (x : BitVec 24) : List Byte :=
  if int16 then leBytes 2 (wrapN 16 (satN 16 (rdiv x.toInt 256)).1)
  else leBytes 4 (roundFp32 (.fin (decide (x.toInt < 0)) x.toInt.natAbs (-23))).toNat

/-- Bytes of one sample. -/
def sampleSize (int16 : Bool) : Nat := if int16 then 2 else 4

/-- The 24-bit sample that an output value stands for: x = v × 2^8, or sat24(int_round(v × 2^23)); a NaN gives 0 (R122, R704). -/
def outSample (int16 : Bool) (v : Nat) : Int :=
  if int16 then sextN 16 v * 256
  else match (fp (BitVec.ofNat 32 v)).mul (.fin false 1 23) with
    | .fin n m e => (satN 24 ((Fp.toInt (.fin n m e)).getD 0)).1
    | .inf n => if n then -(2 ^ 23 : Int) else 2 ^ 23 - 1
    | .nan => 0

/-- The slot word of an output sample (R701). -/
def slotWord (wide : Bool) (x : Int) : W32 :=
  let w := wrapN 24 x
  BitVec.ofNat 32 (if wide then w * 256 else w / 256 * 65536)

/-! ### Input (R352, R703, R705, R714, R716) -/

/-- The audio block submits frame f of a pinned path: the samples at IBUF[f mod 2], and a chunk by the frame template f mod 2.
False where a page of the buffer or of the template faults (log 49). The units written only in part, and then the template, may hold
an error not yet found (R447, R452). -/
def State.pinnedFrame (s : State) (own p f : Nat) (gap : Bool) (x : List (List (BitVec 24))) (e : MemErr) : State × Bool :=
  let t := s.tdm p
  let b := f % 2
  let ib := t.adr (0x04 + 8 * b)
  let tp := t.adr (0x34 + 8 * b)
  let data := x.flatMap (fun r => r.flatMap (sampleBytes t.int16))
  let s := s.hostMeets own (s.edges own ib data.length ++ [(tp, 64)]) false e
  let w := s.hostWrite own ib data
  match w.2, w.1.hostRead own tp 64 with
  | none, .inl l =>
    let c := { chunkFrom l with
      handle := t.set.get 0#32 0, len := 16#16, mark := if gap then 0#16 else 0xFFFF#16,
      inp := BitVec.ofNat 64 ib, tag := BitVec.ofNat 16 f }
    (w.1.submitChunk own c, true)
  | none, .inr _ => (w.1.hostMiss own tp 64 e, false)
  | _, _ => (w.1, false)

/-- A block of 256 samples per slot written into the port's ring, or streamed; a full ring discards it, and GAP is set in the
next record; a confidential partition streams nothing (R574, R702, R714, R716, R774). -/
def State.tdmBlock (s : State) (own p f : Nat) (ns : W64) (blk : List (List (BitVec 24))) (e : MemErr) : State :=
  let t := s.tdm p
  let r := t.inRing
  let tl := if r.fabric then (t.head.toNat, s) else s.ringTail own r
  let s := tl.2
  if (t.head - BitVec.ofNat 64 tl.1).toNat ≥ r.n || (r.fabric && s.conf own) then s.updTdm p (fun t => { t with skipped := true })
  else
    let recd := leBytes 6 (f / 16) ++ leBytes 1 (4 * b2n t.skipped) ++ [0#8] ++ leBytes 8 ns.toNat ++ List.replicate 48 0#8
    let data := (upTo 16).flatMap (fun i => blk.flatMap (fun row => sampleBytes t.int16 (row.getD i 0#24)))
    let s := if r.fabric then s else s.hostMeets own (s.edges own (r.buf t.head.toNat) (64 + data.length) ++
      s.edges own (r.base.toNat + 8) 8) true e
    let w := s.ringWrite own r (r.buf t.head.toNat) (recd ++ data)
    let h := t.head + 1#64
    let w := match w.2 with
      | some _ => w
      | none => w.1.ringWrite own r (r.base.toNat + 8) (leBytes 8 h.toNat)
    match w.2 with
    | some _ => w.1.updTdm p (fun t => { t with skipped := true })
    | none => w.1.updTdm p (fun t => { t with skipped := false, head := h })

/-- Whether what a port holds next for its owner's memory waits for a page in motion (R104). -/
def State.tdmMoves (s : State) (own p f : Nat) : Bool :=
  let t := s.tdm p
  if t.use = 2 then s.ringMoves own t.inRing t.head.toNat (64 + 4096 * sampleSize t.int16)
  else s.mvPart own (t.adr (0x04 + 8 * (f % 2))) (256 * sampleSize t.int16) || s.mvPart own (t.adr (0x34 + 8 * (f % 2))) 64

/-- A frame of a pinned path, or a block of a ring, goes to memory. -/
def State.tdmLand (s : State) (own p : Nat) (x : Nat × Bool × W64 × List (List (BitVec 24))) (e : MemErr) : State :=
  if (s.tdm p).use = 2 then s.tdmBlock own p x.1 x.2.2.1 x.2.2.2 e
  else
    let y := s.pinnedFrame own p x.1 x.2.1 x.2.2.2 e
    if y.2 then y.1 else y.1.updTdm p (fun t => { t with gap := true, lost := satInc t.lost })

/-- What a port holds for its owner's memory lands in order, up to the first that waits for a page in motion (R104). -/
def State.tdmFlushN (s : State) (p : Nat) (e : MemErr) : Nat → State
  | 0 => s
  | n + 1 => match (s.tdm p).held, s.tdmOwner p with
    | x :: r, some own =>
      if s.tdmMoves own p x.1 || s.scrubbing own then s
      else State.tdmFlushN ((s.updTdm p (fun t => { t with held := r })).tdmLand own p x e) p .none n
    | _, _ => s

/-- Everything that a port holds and that can land does. -/
def State.tdmFlush (s : State) (p : Nat) (e : MemErr) : State := s.tdmFlushN p e (s.tdm p).held.length

/-- A frame delivered to the selected destination (R702). -/
def State.tdmDeliver (s : State) (p : Nat) (frame : List (List W32)) (e : MemErr) : State :=
  let t := s.tdm p
  let r := t.calibrate (fun i => s.aud.calib.get 0x4000#32 (16 * p + i)) frame
  let f := t.frame
  let s := s.updTdm p (fun t => { t with delayQ := r.2, frame := f + 1 })
  let hold (gap : Bool) (x : List (List (BitVec 24))) (s : State) : State :=
    (s.updTdm p (fun t => { t with held := t.held ++ [(f, gap, s.nsW, x)] })).tdmFlush p e
  if t.use = 2 then
    let blk := t.blk ++ r.1
    if blk.length ≥ 256 then hold false blk (s.updTdm p (fun t => { t with blk := [] }))
    else s.updTdm p (fun t => { t with blk := blk })
  else hold t.gap r.1 (s.updTdm p (fun t => { t with gap := false }))

/-- TDM_INPUT_FRAME: an input frame of 16 samples, 16 slots each, has ended; a frame that a stopped span touched is lost
(R702, R703, R705). -/
def execTdmInputFrame (p : Fin 4) (frame : List (List W32)) (fails : MemErr) (s : State) : Out :=
  let p := p.val
  let t := s.tdm p
  whenLive s (
    if !t.running then s
    else if t.touched then
      let s := s.updTdm p (fun t => { t with frame := t.frame + 1, gap := true, touched := false })
      if s.tdmStopped p then s.tdmTouch p else s
    else match s.tdmStopped p, s.tdmOwner p with
      | false, some _ => s.tdmDeliver p frame fails
      | _, _ =>
        let s := (s.tdmTouch p).updTdm p (fun t => { t with frame := t.frame + 1, gap := true, touched := false })
        s.tdmTouch p)

/-! ### Output (R354, R702, R706) -/

/-- The slot words of an output buffer of n samples, sample-major. -/
def TdmPort.words (t : TdmPort) (l : List Byte) (n : Nat) : List W32 :=
  (upTo n).map (fun i => slotWord t.wide (outSample t.int16 (recN l (sampleSize t.int16 * i) (sampleSize t.int16))))

/-- TDM_OUTPUT_STEP: at the output step of frame f the chain is complete when CREC[f mod 2] holds STATUS OK and the frame's tag;
otherwise, or where a page that it reads is in motion (R104, log 49), the frame is late: zeros, and the core's LATE_FRAME
counter (R354, R706). -/
def execTdmOutputStep (p : Fin 4) (f : Nat) (fails : MemErr) (s : State) : Out :=
  let p := p.val
  let t := s.tdm p
  whenLive s (
    if !t.running || t.use != 1 then s
    else match s.tdmStopped p, s.tdmOwner p with
      | false, some own =>
        let z := 16 * 16 * sampleSize t.int16
        let cr := t.adr (0x24 + 8 * (f % 2))
        let ob := t.adr (0x14 + 8 * (f % 2))
        let still := !s.mvPart own cr 32 && !s.mvPart own ob z
        let s := if still then s.hostMeets own [(cr, 32), (ob, z)] false fails else s
        let ok : Bool := still && match s.hostRead own cr 32 with
          | .inl l => recN l 0 1 == stOk && recN l 4 2 == f % 65536
          | .inr _ => false
        let miss (va n : Nat) (s : State) : State := match s.hostRead own va n with
          | .inl _ => s
          | .inr _ => if still then s.hostMiss own va n fails else s
        match ok, s.hostRead own ob z with
        | true, .inl l => s.updTdm p (fun t => { t with sdo := t.words l 256 })
        | _, _ =>
          let s := (if ok then miss ob z s else miss cr 32 s).updTdm p (fun t => { t with sdo := [] })
          match s.reelCore own (hIdx (t.set.get 0#32 0).toNat) with
          | some k => s.count k 0x27 1
          | none => s
      | _, _ => s.updTdm p (fun t => { t with sdo := [] }))

/-- PLAYBACK_BLOCK: at a block boundary a ring-out port reads the next block of its playback ring; with none there it drives
zeros for the block and counts it (R702); with a page of it in motion it drives zeros until the block is asked for again (R104). The
read count is written as HEAD (log 49). -/
def execPlaybackBlock (p : Fin 4) (fails : MemErr) (s : State) : Out :=
  let p := p.val
  let t := s.tdm p
  whenLive s (
    if !t.running || decide (t.use < 2) then s
    else match s.tdmStopped p, s.tdmOwner p with
      | false, some own =>
        let r := t.outRing
        let va := r.buf t.rpos.toNat + 64
        let z := 4096 * sampleSize t.int16
        let under (s : State) : State := s.updTdm p (fun t => { t with sdo := [], under := satInc t.under })
        if r.n = 0 || s.ringMoves own r t.rpos.toNat (64 + z) then s.updTdm p (fun t => { t with sdo := [] })
        else
          let tl := s.ringTail own r
          let s := tl.2
          if BitVec.ofNat 64 tl.1 = t.rpos then under s
          else
            let s := s.hostMeets own [(va, z)] false fails
            match s.hostRead own va z with
            | .inr _ => under (s.hostMiss own va z fails)
            | .inl l =>
              let w := t.words l 4096
              let h := t.rpos + 1#64
              let s := (s.hostWrite own (r.base.toNat + 8) (leBytes 8 h.toNat)).1
              s.updTdm p (fun t => { t with
                rpos := h, sdo := (upTo 4096).map (fun i => w.getD (256 * (i % 16) + i / 16) 0#32) })
      | _, _ => s.updTdm p (fun t => { t with sdo := [] }))

/-! ### The clock (R696, R703) -/

/-- AUD_MCLK_LOSS: AUD_MCLK stops, in any power state, so CK_AUD loses its lock and every port stops (R696, R703). -/
def execAudMclkLoss (s : State) : Out :=
  .next (if s.dbg.freeze ≠ 0#25 then s
    else ({ s with pins := { s.pins with audMclk := false }, aud := { s.aud with locked := false } } : State).tdmTouchAll)

/-- CK_AUD_LOCK: AUD_MCLK is there, and CK_AUD locks where the device has its clocks (R696). -/
def execCkAudLock (s : State) : Out :=
  .next (if s.dbg.freeze ≠ 0#25 then s
    else { s with pins := { s.pins with audMclk := true }, aud := { s.aud with locked := s.aud.locked || s.live } })

/-! ### Registers -/

/-- PORT_OWN takes a value: the frame in progress of a port that changes owner is lost, and the new owner's ring starts anew
(R74, R703). -/
def State.audOwn (s : State) (v : BitVec 16) : State :=
  let s := (upTo 4).foldl (fun s p =>
    if bitsAt v.toNat (4 * p) 4 = bitsAt s.aud.own.toNat (4 * p) 4 then s
    else (s.tdmTouch p).updTdm p (fun t => { t with head := 0#64, rpos := 0#64, blk := [], held := [] })) s
  { s with aud := { s.aud with own := v } }

/-- A register of the AUD block. -/
def State.audRd (s : State) (ia : Nat) : W32 :=
  if ia % 4 ≠ 0 then 0#32
  else if ia < 0x400 then
    let t := s.tdm (ia / 0x100)
    match ia % 0x100 with
    | 0x00 => t.cfg
    | 0x08 => t.start.setWidth 32
    | 0x0C => BitVec.ofNat 32 (t.start.toNat / 2 ^ 32)
    | 0x10 => t.lost
    | 0x14 => t.under
    | _ => 0#32
  else if ia = 0x800 then s.aud.own.setWidth 32
  else if 0x2000 ≤ ia ∧ ia < 0x2200 then
    let o := (ia - 0x2000) % 0x80
    if o ≤ 0x64 then (s.tdm ((ia - 0x2000) / 0x80)).set.get 0#32 o else 0#32
  else if 0x3000 ≤ ia ∧ ia < 0x3140 then s.aud.calib.get 0x4000#32 ((ia - 0x3000) / 4)
  else 0#32

/-- Calibration entry i of AUD written: a TDM DELAY above 31 is out of range (R16, R707, R863). -/
def State.calibWr (s : State) (i : Nat) (v : W32) : State :=
  let v := v &&& 0x80FFFFFF#32
  let bad := i < 64 ∧ bitsAt v.toNat 16 8 > 31
  { s with
    dev := { s.dev with csrRej := if bad then satInc s.dev.csrRej else s.dev.csrRej }
    aud := { s.aud with calib :=
      if bad then s.aud.calib else if v = 0x4000#32 then s.aud.calib.erase i else s.aud.calib.put i v } }

/-- A register of the AUD block written; PORT_OWN is dangerous and not written here (R863). Disabling a port, or giving it
another use, stops it. The low word of a ring's RBASE starts the ring anew. -/
def State.audWr (s : State) (ia : Nat) (v : W32) : State :=
  if ia % 4 ≠ 0 then s
  else if ia < 0x400 then
    let p := ia / 0x100
    match ia % 0x100 with
    | 0x00 =>
      let c := v &&& 0x3F#32
      s.updTdm p (fun t =>
        let u := { t with cfg := c }
        if u.on && u.use == t.use then u else { u with running := false, sdo := [], delayQ := [], blk := [], held := [], touched := false })
    | 0x08 => s.updTdm p (fun t => { t with start := BitVec.ofNat 64 (t.start.toNat / 2 ^ 32 * 2 ^ 32 + v.toNat) })
    | 0x0C => s.updTdm p (fun t => { t with start := BitVec.ofNat 64 (t.start.toNat % 2 ^ 32 + v.toNat * 2 ^ 32) })
    | 0x10 => s.updTdm p (fun t => { t with lost := 0#32 })
    | 0x14 => s.updTdm p (fun t => { t with under := 0#32 })
    | _ => s
  else if 0x2000 ≤ ia ∧ ia < 0x2200 then
    let o := (ia - 0x2000) % 0x80
    if o > 0x64 then s
    else s.updTdm ((ia - 0x2000) / 0x80) (fun t => { t with
      set := t.set.put o v
      head := if o = 0x44 then 0#64 else t.head
      rpos := if o = 0x54 then 0#64 else t.rpos })
  else if 0x3000 ≤ ia ∧ ia < 0x3140 then s.calibWr ((ia - 0x3000) / 4) v
  else s

end Sys2Proof.Machine
end

