-- ==== Sys2Proof/Machine/Power.lean ====
section
/-! DEFINITION. Power states, the Gaffer's transitions, rises, throttling, emergencies and the GAF block (R34, R35, R78,
R725 to R746, R886, R887). -/
namespace Sys2Proof.Machine

/-! ### Clusters gated and powered -/

/-- Power states as STATE.STATE encodes them (R886). -/
def gsRun : Nat := 0
/-- TRIM. -/
def gsTrim : Nat := 1
/-- WATCH. -/
def gsWatch : Nat := 2
/-- LISTEN. -/
def gsListen : Nat := 3

/-- A device range cleared: its bytes read as blank and its error marks are gone. -/
def State.clearRange (s : State) (a n : Nat) : State :=
  let out (x : Nat) : Bool := !(decide (a ≤ x) && decide (x < a + n))
  { s with mem := s.mem.filter (fun c => out c.1), badWords := s.badWords.filter out, poison := s.poison.filter out,
           cipher := List.filter (fun c => out (64 * c.1)) s.cipher }

/-- A core's state as power-up leaves it: slots, registers and store zero (R736). -/
def Core.fresh (c : Core) : Core := { Core.init with serial := c.serial }

/-- A cluster's stores, slots and registers zeroed (R736, R779). -/
def State.zeroCluster (s : State) (c : Nat) : State :=
  let s := (s.clearRange (clStore c 0) 0x2000000).updTrace c (fun t => { t with buf := [] })
  (upTo 9).foldl (fun s j => (s.clearRange (coreStore (coreKey c j) 0) 0x400000).updCore (coreKey c j) Core.fresh) s

/-- A cluster controller starts: its local memory is loaded from the copy of the image, and it begins at the image's entry
with ECAUSE zero; its event queue stays (R736, R801, R802, log 15). -/
def State.startCtl (s : State) (c : Nat) : State :=
  let mem : SMap Byte := ((s.boot.ctlImage.zip (upTo s.boot.ctlImage.length)).filter (fun x => x.1 != 0#8)).map (fun x => (x.2, x.1))
  s.updCl c (fun x => { x with
    aliveNs := s.nsW
    ctl := { Ctl.init with pc := Config.ctlEntry s.boot.image, mem := mem, events := x.ctl.events, bp := x.ctl.bp } })

/-- A cluster is gated: it loses its stores (R725), and Reels bound on its cores start anew from their checkpoints (R341). -/
def State.gateCluster (s : State) (c : Nat) : State :=
  let s := match s.ownerCl c with
    | some p => (upTo 9).foldl (fun (s : State) j => s.loseReels p (coreKey c j)) s
    | none => s
  let s := (s.zeroCluster c).updCl c (fun x => { x with powered := false, ctxBias := 0#2 })
  { s with gaf := { s.gaf with clkCur := s.gaf.clkCur.put c 0#6 } }

/-- The lower of a frequency and 1.0 GHz in units of 50 MHz (R725). -/
def capWatch (f : BitVec 6) : BitVec 6 := if f.toNat > 20 then 20#6 else f

/-- EV_THROTTLE's DETAIL, which no rule lays out (log 47): L in [3:0], cluster in [10:8], the emergency bit in [16]. -/
def throttleDetail (l c : Nat) (emerg : Bool) : Nat := l + 256 * c + 65536 * b2n emerg

/-- A cluster's L: where it leaves 0 or returns to 0, EV_THROTTLE goes to the owner (R743). -/
def State.setLevel (s : State) (c l : Nat) : State :=
  let old := (s.gaf.level.get 0#4 c).toNat
  let s := { s with gaf := { s.gaf with level := s.gaf.level.put c (BitVec.ofNat 4 l) } }
  match s.ownerCl c with
  | some p =>
    if (old == 0) != (l == 0) then
      let n := (s.logCl p c).getD 0
      s.post p none 0x08 7 n p false (throttleDetail l n false)
    else s
  | none => s

/-- The emergency floor: L is at least 12 in a powered cluster (R744). -/
def State.floorLevel (s : State) (c : Nat) : State :=
  if (s.gaf.level.get 0#4 c).toNat < 12 then s.setLevel c 12 else s

/-- A cluster is powered up: zeroed, its bias set, its clock the FREQ written last, the emergency floor in force, its controller
started (R736, R740, R744, R886). -/
def State.powerCluster (s : State) (c : Nat) (watch : Bool) : State :=
  let f := s.gaf.clkFreq.get 40#6 c
  let s := (s.zeroCluster c).updCl c (fun x => { x with powered := true, ctxBias := if watch then 2#2 else 1#2 })
  let s := { s with gaf := { s.gaf with
    clkUse := s.gaf.clkUse.put c f, clkCur := s.gaf.clkCur.put c (if watch then capWatch f else f) } }
  (if s.gaf.emerg then s.floorLevel c else s).startCtl c

/-- The owned clusters that are powered, and those that are not. -/
def State.ownedCl (s : State) (powered : Bool) : List Nat :=
  (upTo 8).filter (fun c => (s.ownerCl c).isSome && (s.cl c).powered == powered)

/-- In RUN and TRIM the state is TRIM exactly while an owned cluster is gated (R725). -/
def State.settleTrim (s : State) : State :=
  if s.gaf.state.toNat ≤ 1 then
    { s with gaf := { s.gaf with state := if (s.ownedCl false).isEmpty then 0#3 else 1#3 } }
  else s

/-- A stack's state (Table MEM-6): 2 active, 3 self-refresh. -/
def State.setStack (s : State) (n : Nat) (st : BitVec 2) : State := s.updStack n (fun h => { h with state := st })

/-- The watch partition, which owns the WATCH cluster and the WATCH stack and no other stack (R726). -/
def State.watchPart (s : State) : Option Nat :=
  let st := s.gaf.watchSt.toNat
  (upTo 8).find? (fun p => s.ownerCl s.gaf.watchCl.toNat == some p && s.stacksOf p == [st])

/-! ### Transitions in progress and waiting (R729) -/

/-- Whether a transition has started. -/
def Trans.live (t : Trans) : Bool := t.committed || t.rising || !t.asked.isEmpty

/-- The transition that a command names: the device's, or the first of a partition's cluster transitions. -/
def State.trans (s : State) (t : Option (Fin 8)) : Option Trans :=
  match t with
  | none => s.gaf.cur
  | some p => s.gaf.clTrans.find? (fun x => x.part == p.val)

/-- That transition updated, or taken off. -/
def State.setTrans (s : State) (t : Option (Fin 8)) (x : Option Trans) : State :=
  match t with
  | none => { s with gaf := { s.gaf with cur := x } }
  | some p =>
    let l := s.gaf.clTrans
    let n := l.findIdx (fun y => y.part == p.val)
    { s with gaf := { s.gaf with clTrans := match x with
      | some y => l.set n y
      | none => l.eraseIdx n } }

/-- Clusters named by a mask. -/
def maskBits (m : BitVec 8) : List Nat := (upTo 8).filter (fun i => m.getLsbD i)
/-- A mask of clusters. -/
def bitsMask (l : List Nat) : BitVec 8 := l.foldl (fun (m : BitVec 8) i => m ||| (1#8 <<< i)) 0#8

/-! ### Steps of a rise (Table PWR-5) -/

/-- The clusters that a rise to RUN, or to TRIM with some left gated, powers after the WATCH cluster. -/
def State.riseClusters (s : State) (keep : BitVec 8) (watch : Bool) : List Nat :=
  (s.ownedCl false).filter (fun c => !keep.getLsbD c && !(watch && c == s.gaf.watchCl.toNat))

/-- The steps of a rise from LISTEN to WATCH: rails, clocks, bias, WATCH stack, WATCH cluster; 6 marks that WATCH is
reached. -/
def State.planWatch (s : State) : List Nat :=
  [0, 1, 2, 3] ++ (if (s.ownerCl s.gaf.watchCl.toNat).isSome then [16 + s.gaf.watchCl.toNat] else []) ++ [6]

/-- The steps of a rise from WATCH to RUN or TRIM: bias, stacks, clusters in ascending order; 7 marks that RUN or TRIM is
reached. -/
def State.planRun (s : State) (keep : BitVec 8) (fromListen : Bool) : List Nat :=
  [4, 5] ++ (s.riseClusters keep fromListen).map (fun c => 16 + c) ++ [7]

/-- The plan's marks at its head taken: the state is reached, and at WATCH AON_WAKE falls (R728). -/
def State.takeMarks (s : State) (t : Trans) : State × Trans :=
  match t.plan with
  | 6 :: r => ({ s with gaf := { s.gaf with state := 2#3 }, aon := { s.aon with wakePin := false } }, { t with plan := r, raised := 0#8 })
  | 7 :: r => (({ s with gaf := { s.gaf with state := 0#3 } }).settleTrim, { t with plan := r })
  | _ => (s, t)

/-! ### The handshake of a fall (R730, Table PWR-3) -/

/-- A block's answer to a fall. -/
inductive Answer where
  | grant
  | delay
  | refuse (reason : Nat)
  deriving DecidableEq, Repr

/-- Whether a home of a partition lies in a cluster's stores. -/
def State.homesIn (s : State) (c : Nat) : Bool :=
  match s.ownerCl c with
  | none => false
  | some p => match s.logCl p c with
    | none => false
    | some l => (s.mapped p).any (fun n => let e := s.pte p n; decide (pteTier e < 2) && pteCluster e == l)

/-- Whether a virtual range has a byte in a stack: its rows go over the channels of the interleave set (R433, R434). -/
def State.hitsStack (s : State) (p va n st : Nat) : Bool :=
  (s.runs p va n).any (fun r => match r.1 with
    | some a => (match regionOf a with
      | .hbm _ => (upTo ((r.2.2 + 255) / 256 + 1)).any (fun i => (s.placeHbm (a + min (256 * i) (r.2.2 - 1))).1 == st)
      | _ => false)
    | none => false)

/-- Whether an access to a stack is outstanding: of a started DMA operation, of a begun entry of an array queue, of a fetch. Every
other access to HBM is whole within its command (R730, Table PWR-3). -/
def State.stackBusy (s : State) (n : Nat) : Bool :=
  match s.ownerSt n with
  | none => false
  | some p => s.cores.any (fun k => s.partOf k.1 == p &&
      (k.2.dmaq.any (fun o => o.started && o.touched.any (fun r => s.hitsStack p r.1 r.2 n)) ||
       k.2.queue.any (fun e => e.begun && (s.readRanges k.1 e).any (fun r => s.hitsStack p r.1 r.2 n)) ||
       k.2.threads.any (fun t => t.2.freq.any (fun a => s.hitsStack p (128 * (a.toNat / 128)) 128 n))))

/-- The answer that a block gives now (Table PWR-3, R694, R722): blocks as HS_STATUS.BLOCK numbers them. -/
def State.hsAnswer (s : State) (t : Trans) (blk : Nat) : Answer :=
  if 1 ≤ blk ∧ blk ≤ 8 then
    let c := blk - 1
    let jobs := (upTo 9).filterMap (fun j => (s.core (coreKey c j)).job)
    if (upTo 9).any (fun j => s.pinnedCore (coreKey c j)) then .refuse 2
    else if s.homesIn c then .refuse 3
    else if !jobs.isEmpty then .refuse 4
    else .grant
  else if blk ≤ 16 then (if s.stackBusy (blk - 9) then .delay else .grant)
  else if blk = 17 then
    (if s.cam.frames.all (fun f => f.closed) ∨ (t.asked.get 0#2 31 ≠ 0#2 ∧ s.ns ≥ t.camDelayNs.toNat + 50000000) then .grant else .delay)
  else if blk ≤ 24 then (if (s.link (blk - 18)).en then .refuse 5 else .grant)
  else if blk = 25 then .grant
  else match s.aon.lastWake with
    | some f => if s.aon.sampleNo.toNat / 256 < f.toNat + s.aon.hold.toNat then .refuse 1 else .grant
    | none => .grant

/-- The blocks that a fall to a state asks, the clusters to be gated given (Table PWR-3). -/
def State.hsBlocks (s : State) (target : Nat) (gate : BitVec 8) : List Nat :=
  (maskBits gate).map (fun c => c + 1) ++
  (if target ≥ 2 then
    ((upTo 8).filter (fun n => (s.stack n).state == 2#2 && !(target == 2 && n == s.gaf.watchSt.toNat))).map (fun n => n + 9)
   else []) ++
  (if target = 3 then [17, 18, 19, 20, 21, 22, 23, 24, 25, 26] else [])

/-- A fall begins: every block that it touches is asked in one cycle; one that touches none commits at once (R730, R732). -/
def State.beginFall (s : State) (t : Trans) : Trans :=
  let l := s.hsBlocks (if t.dev then t.target else 1) t.gate
  { t with
    asked := l.map (fun b => (b, 3#2)), startNs := s.nsW, committed := l.isEmpty }

/-! ### Answers to the mailbox -/

/-- A mailbox answer posted to the controller that sent the request: kind 1, STATUS and SERIAL (R297, R299). -/
def State.mboxAnswer (s : State) (cl : Nat) (serial : BitVec 16) (st : Nat) : State :=
  s.ctlEvent (some cl) (eventWord 1 0 0 0 (st % 256 + 256 * serial.toNat))

/-- The mailbox request behind a transition is answered. -/
def State.answerTrans (s : State) (t : Trans) (st : Nat) : State :=
  match t.mbox with
  | some n => s.mboxAnswer t.mboxCl n st
  | none => s

/-! ### Starting transitions -/

/-- Whether any transition is in progress. -/
def State.transBusy (s : State) : Bool := s.gaf.cur.isSome || s.gaf.clTrans.any (fun t => t.live)

/-- The abandon recorded (R734). -/
def State.recordAbandon (s : State) (reason blk : Nat) : State :=
  { s with gaf := { s.gaf with hsReason := BitVec.ofNat 3 reason, hsBlock := BitVec.ofNat 5 blk, hsAbandon := true } }

/-- A stage-0 wake while the main rails are removed: accepted, it drives AON_WAKE and lowers MAIN_OFF, unless a rail fault or
THERMTRIP_N holds the device (R728, R899, R903, R905). -/
def State.wakeRails (s : State) (acc : Bool) : State :=
  if !acc || s.pins.therm || s.pins.shutdown || s.pins.latched then s
  else { s with aon := { s.aon with wakePin := true }, pins := { s.pins with mainOff := false } }

/-- A device transition starts in the present state (Table PWR-4, R726); one that has no effect ends at once. A wake accepted after
the commit of a fall to LISTEN raises the device from there: in mode DROP by AON_WAKE (R724, R728). -/
def State.startDevice (s : State) (t : Trans) : State :=
  let st := s.gaf.state.toNat
  let tg := t.target
  let owned := bitsMask (s.ownedCl true ++ s.ownedCl false)
  let gated := bitsMask (s.ownedCl false)
  let on := bitsMask (s.ownedCl true)
  let begin (x : Trans) : State := { s with gaf := { s.gaf with cur := some (s.beginFall x) } }
  let rise (p : List Nat) : State := { s with gaf := { s.gaf with cur := some { t with rising := true, plan := p } } }
  if t.wake ∧ ¬(tg < st) then s
  else if st ≤ 1 then
    if tg = 0 then (if gated = 0#8 then s else rise ((maskBits gated).map (fun c => 16 + c) ++ [7]))
    else if tg = 1 then
      let want := t.gate &&& owned
      let add := want &&& on
      let back := gated &&& ~~~want
      if want = gated ∨ (st = 0 ∧ want = 0#8) then s
      else if add = 0#8 then rise ((maskBits back).map (fun c => 16 + c) ++ [7])
      else begin { t with gate := add, rise := back }
    else if tg = 2 then
      if s.watchPart.isNone then s.recordAbandon 6 0
      else begin { t with gate := on &&& ~~~(bitsMask [s.gaf.watchCl.toNat]), rise := gated &&& bitsMask [s.gaf.watchCl.toNat] }
    else begin { t with gate := on }
  else if st = 2 then
    if tg = 3 then begin { t with gate := on }
    else if tg ≤ 1 then rise (s.planRun (if tg = 1 then t.gate else 0#8) false)
    else s
  else if tg = 3 then s
  else if !s.pins.pwrRet then s.wakeRails t.wake
  else if s.watchPart.isNone then s.recordAbandon 6 0
  else rise (s.planWatch ++ (if tg ≤ 1 then s.planRun (if tg = 1 then t.gate else 0#8) true else []))

/-- A cluster transition starts: a fall asks its cluster's controller, a rise has one step (R729, R739). -/
def State.startCluster (s : State) (t : Trans) : Trans :=
  if t.gate = 0#8 then { t with rising := true, plan := (maskBits t.rise).map (fun c => 16 + c) } else s.beginFall t

/-- Whether a cluster transition may start: no device transition is in progress, and it is the first of its partition. -/
def State.startableCl (s : State) (n : Nat) (t : Trans) : Bool :=
  s.gaf.cur.isNone && !t.live && !(s.gaf.clTrans.take n).any (fun x => x.part == t.part)

/-- Whether the clusters of a cluster transition are already in the state that it asks for. -/
def State.clDone (s : State) (t : Trans) : Bool :=
  (maskBits t.gate).all (fun c => !(s.cl c).powered) && (maskBits t.rise).all (fun c => (s.cl c).powered)

/-- Cluster transitions that may start do: in WATCH and LISTEN one is refused, and one that has nothing to do ends with its answer
(R725, R729, log 46). -/
def State.startCls (s : State) : Nat → State
  | 0 => s
  | n + 1 =>
    match (upTo s.gaf.clTrans.length).find? (fun i => (s.gaf.clTrans[i]?).any (fun t => s.startableCl i t)) with
    | none => s
    | some i =>
      let t := s.gaf.clTrans.getD i Trans.init
      let l := s.gaf.clTrans
      State.startCls (if s.gaf.state.toNat ≥ 2 then
          State.answerTrans { s with gaf := { s.gaf with clTrans := l.eraseIdx i } } t stRefused
        else if s.clDone t then
          State.answerTrans { s with gaf := { s.gaf with clTrans := l.eraseIdx i } } t stOk
        else { s with gaf := { s.gaf with clTrans := l.set i (s.startCluster t) } }) n

/-- Waiting transitions start when they may: the oldest device transition first (R729, log 46). -/
def State.startNext (s : State) : State :=
  let s := (upTo s.gaf.waiting.length).foldl (fun s _ => match s.gaf.waiting with
    | t :: r => if s.transBusy then s else State.startDevice { s with gaf := { s.gaf with waiting := r } } t
    | [] => s) s
  s.startCls s.gaf.clTrans.length

/-- A transition ends, and waiting ones start. -/
def State.endTrans (s : State) (t : Option (Fin 8)) : State := (s.setTrans t none).startNext

/-- A device transition asked for (R729). -/
def State.askDevice (s : State) (t : Trans) : State :=
  State.startNext { s with gaf := { s.gaf with waiting := s.gaf.waiting ++ [t] } }

/-- A cluster transition asked for (R729). -/
def State.askCluster (s : State) (t : Trans) : State :=
  State.startNext { s with gaf := { s.gaf with clTrans := s.gaf.clTrans ++ [t] } }

/-- A write of GAF.REQ; a reserved TARGET changes nothing and counts (R739, R886). -/
def State.gafReq (s : State) (target : Nat) (gate : BitVec 8) : State :=
  if target > 3 then s.csrRejected
  else s.askDevice { Trans.init with target := target, gate := if target = 1 then gate else 0#8 }

/-- The state that a target stage runs in (Table ARC-3). -/
def stageState (stage : Nat) : Nat := if stage ≥ 3 then 0 else 2

/-- An accepted wake raises the state to that of its target stage; during a rise it is held (R34, R738). -/
def State.raiseTo (s : State) (st : Nat) : State :=
  match s.gaf.cur with
  | some t =>
    if t.rising then { s with gaf := { s.gaf with heldWake := some (min st (s.gaf.heldWake.getD 3)) } }
    else s.askDevice { Trans.init with target := st, wake := true }
  | none => s.askDevice { Trans.init with target := st, wake := true }

/-- Whether the Gaffer acts: it is neither in reset nor frozen, and CK_CTL runs, LISTEN retains it, or the rise from there
is under way (R727, R735). -/
def State.gafLive (s : State) : Bool :=
  s.dbg.freeze == 0#25 && (s.pins.clocksOn || (s.gaf.state == 3#3 && (s.pins.pwrRet || s.gaf.cur.any (fun t => t.rising)))) && !s.pins.therm && !s.pins.shutdown &&
    s.pins.resetN

/-- A Gaffer command's effect while the Gaffer acts. -/
def whenGaf (s : State) (x : State) : Out := if s.gafLive then .next x else .next s

/-- GAF_REQ_RUN. -/
def execGafReqRun (s : State) : Out := whenGaf s (s.gafReq 0 0#8)
/-- GAF_REQ_TRIM. -/
def execGafReqTrim (gate : Byte) (s : State) : Out := whenGaf s (s.gafReq 1 gate)
/-- GAF_REQ_WATCH. -/
def execGafReqWatch (s : State) : Out := whenGaf s (s.gafReq 2 0#8)
/-- GAF_REQ_LISTEN. -/
def execGafReqListen (s : State) : Out := whenGaf s (s.gafReq 3 0#8)

/-! ### Answers (R731 to R734) -/

/-- A transition abandoned: the reason and the block are recorded, and the state stays (R733, R734). -/
def State.abandon (s : State) (t : Option (Fin 8)) (reason blk : Nat) : State :=
  match s.trans t with
  | none => s
  | some x => ((s.recordAbandon reason blk).answerTrans x stRefused).endTrans t

/-- HS_GRANT: a block that was asked grants; once every latest answer is GRANT the transition commits (R732). -/
def execHsGrant (t : Option (Fin 8)) (blk : Fin 27) (s : State) : Out :=
  whenGaf s (match s.trans t with
    | none => s
    | some x =>
      if x.committed || x.asked.find blk.val != some 3#2 || s.hsAnswer x blk.val != .grant then s
      else
        let a := x.asked.put blk.val 1#2
        s.setTrans t (some { x with asked := a, committed := a.all (fun y => y.1 == 31 || y.2 == 1#2) }))

/-- HS_DELAY: a block that was asked answers DELAY (R730, R731). -/
def execHsDelay (t : Option (Fin 8)) (blk : Fin 27) (s : State) : Out :=
  whenGaf s (match s.trans t with
    | none => s
    | some x =>
      if x.committed || x.asked.find blk.val != some 3#2 || s.hsAnswer x blk.val != .delay then s
      else
        let first : Bool := blk.val == 17 && !x.asked.has 31
        let a := x.asked.put blk.val 2#2
        s.setTrans t (some { x with
          asked := if first then a.put 31 1#2 else a, camDelayNs := if first then s.nsW else x.camDelayNs }))

/-- HS_REASK: the delay is over, and the block is asked again (R731). -/
def execHsReask (t : Option (Fin 8)) (blk : Fin 27) (s : State) : Out :=
  whenGaf s (match s.trans t with
    | none => s
    | some x => if x.committed || x.asked.find blk.val != some 2#2 then s
      else s.setTrans t (some { x with asked := x.asked.put blk.val 3#2 }))

/-- HS_REFUSE: an asked block refuses, or replaces an earlier answer by a refusal, before the commit (R731, R733). -/
def execHsRefuse (t : Option (Fin 8)) (blk : Fin 27) (s : State) : Out :=
  whenGaf s (match s.trans t with
    | none => s
    | some x =>
      if x.committed || !x.asked.has blk.val then s
      else match s.hsAnswer x blk.val with
        | .refuse r => s.abandon t r blk.val
        | _ => s)

/-- HS_TIMEOUT: no commit by HS_LIMIT after the request (R733). -/
def execHsTimeout (t : Option (Fin 8)) (s : State) : Out :=
  whenGaf s (match s.trans t with
    | none => s
    | some x =>
      if x.committed || x.asked.isEmpty || decide (s.ns < x.startNs.toNat + 1000000 * s.gaf.hsLimit.toNat) then s
      else s.abandon t 7 0)

/-! ### The fall (R725 to R727, R732) -/

/-- The rails that LISTEN keeps: in RETAIN SRAM and HBM, in DROP none (R727, R898, R899). -/
def State.enterListen (s : State) : State :=
  let drop := s.gaf.listenRails
  let s := s.camOff.tdmTouchAll
  { s with pins := { s.pins with
      clocksOn := false, pwrRet := !drop, mainOff := drop, en := if drop then 0#13 else s.pins.en &&& 0b0000000011001#13 }
           gaf := { s.gaf with ioBias := if drop then 0#2 else 2#2 }
           aud := { s.aud with locked := false } }

/-- Stacks other than the WATCH stack enter self-refresh; in LISTEN all active ones do. -/
def State.stacksFall (s : State) (target : Nat) : State :=
  (upTo 8).foldl (fun s n =>
    if (s.stack n).state = 2#2 ∧ ¬(target = 2 ∧ n = s.gaf.watchSt.toNat) then s.setStack n 3#2 else s) s

/-- Bits of the EN outputs of clusters (Table PIN-1): SRAM, SD, IO12, HBM0, HBM1, then CL0 to CL7. -/
def enCl (c : Nat) : BitVec 13 := 1#13 <<< (5 + c)

/-- A committed fall carried out. -/
def State.fall (s : State) (t : Trans) : State :=
  let s := (maskBits t.gate).foldl (fun s c =>
    let s := s.gateCluster c
    { s with pins := { s.pins with en := s.pins.en &&& ~~~(enCl c) } }) s
  if !t.dev || t.target ≤ 1 then s.settleTrim
  else
    let s := s.stacksFall t.target
    let s := { s with gaf := { s.gaf with state := BitVec.ofNat 3 t.target } }
    if t.target = 3 then s.enterListen
    else
      let w := s.gaf.watchCl.toNat
      let s := { s with gaf := { s.gaf with clkCur := s.gaf.clkCur.upd 0#6 w capWatch } }
      s.updCl w (fun x => { x with ctxBias := if x.powered then 2#2 else 0#2 })

/-- FALL_COMPLETE: the committed fall is carried out; a transition that also powers clusters goes on as a rise (R732,
Table PWR-4). -/
def execFallComplete (t : Option (Fin 8)) (s : State) : Out :=
  whenGaf s (match s.trans t with
    | none => s
    | some x =>
      if !x.committed || x.rising then s
      else
        let s := s.fall x
        if x.rise = 0#8 then (s.answerTrans x stOk).endTrans t
        else s.setTrans t (some { x with
          rising := true, gate := 0#8, plan := (maskBits x.rise).map (fun c => 16 + c) ++ (if x.target ≤ 1 then [7] else []) }))

/-! ### The rise (R735 to R739) -/

/-- A rise ends, done or failed: its request is answered, and a wake held during a device's rise raises the state, before
any request that waits (R34, R738). -/
def State.takeHeld (s : State) (x : Trans) (st : Nat) (t : Option (Fin 8)) : State :=
  let s := s.answerTrans x st
  match s.gaf.heldWake, t with
  | some w, none => State.endTrans { s with gaf := { s.gaf with
      heldWake := none, waiting := { Trans.init with target := w, wake := true } :: s.gaf.waiting } } t
  | _, _ => s.endTrans t

/-- A rise that met a bad rail: what it powered is gated, RAILERR is set, EV_FAULT_CORE goes out device-level, and the device
stays in the lower state (R737). -/
def State.failRise (s : State) (t : Option (Fin 8)) (x : Trans) (unit : Nat) : State :=
  let s := (maskBits x.raised).foldl (fun s c =>
    let s := s.gateCluster c
    { s with pins := { s.pins with en := s.pins.en &&& ~~~(enCl c) } }) s
  let s := if s.gaf.state = 3#3 then
      (s.stacksFall 3).enterListen
    else if s.gaf.state = 2#3 then
      let w := s.gaf.watchCl.toNat
      let s := s.stacksFall 2
      let s := { s with gaf := { s.gaf with clkCur := s.gaf.clkCur.upd 0#6 w capWatch } }
      s.updCl w (fun y => { y with ctxBias := if y.powered then 2#2 else 0#2 })
    else s.settleTrim
  let s := { s with gaf := { s.gaf with railErr := true } }
  let s := s.postDev 0x03 7 unit 0 (relDetail 7 0 0 0 s.dev.node.toNat 0 0)
  s.takeHeld x stRefused t

/-- One step of a rise. -/
def State.riseDo (s : State) (d : Nat) : State :=
  match d with
  | 0 => { s with pins := { s.pins with pwrRet := false, en := s.pins.en ||| 0b0000000000110#13 } }
  | 1 => ({ s with pins := { s.pins with clocksOn := true }, aud := { s.aud with locked := s.pins.audMclk } } : State).tdmTouchAll
  | 2 => { s with gaf := { s.gaf with ioBias := 1#2 } }
  | 3 => s.setStack s.gaf.watchSt.toNat 2#2
  | 4 =>
    let w := s.gaf.watchCl.toNat
    let s := { s with gaf := { s.gaf with clkCur := s.gaf.clkCur.upd 0#6 w (fun f => if f = 0#6 then f else s.gaf.clkUse.get 40#6 w) } }
    s.updCl w (fun y => { y with ctxBias := if y.powered then 1#2 else 0#2 })
  | 5 => (upTo 8).foldl (fun s n => if (s.ownerSt n).isSome then s.setStack n 2#2 else s) s
  | d =>
    if d < 16 then s
    else
      let s := s.powerCluster (d - 16) (decide (s.gaf.state.toNat ≥ 2 ∧ d - 16 = s.gaf.watchCl.toNat))
      { s with pins := { s.pins with en := s.pins.en ||| enCl (d - 16) } }

/-- Whether the rails of a step may be powered (R887). -/
def State.railMay (s : State) (d : Nat) : Bool :=
  if d = 0 then s.gaf.railEn.getLsbD 9 && s.gaf.railEn.getLsbD 10
  else d < 16 || s.gaf.railEn.getLsbD (d - 16)

/-- RISE_STEP: the next step of a rise ends, and the power-good input of its rail is checked (R735, R737, R887). -/
def execRiseStep (t : Option (Fin 8)) (railOk : Bool) (s : State) : Out :=
  whenGaf s (match s.trans t with
    | none => s
    | some x => match x.plan with
      | [] => s
      | d :: r =>
        if !x.rising then s
        else if (d == 0 || decide (d ≥ 16)) && (!railOk || !s.railMay d) then
          s.failRise t x (if d = 0 then 0 else d - 16)
        else
          let s := s.riseDo d
          let y := s.takeMarks { x with plan := r, raised := if d ≥ 16 then x.raised ||| bitsMask [d - 16] else x.raised }
          y.1.setTrans t (some y.2))

/-- RISE_END: every step of a rise is done; a wake held during it raises the state further (R735, R738). -/
def execRiseEnd (t : Option (Fin 8)) (s : State) : Out :=
  whenGaf s (match s.trans t with
    | none => s
    | some x =>
      if !x.rising || !x.plan.isEmpty then s
      else
        s.settleTrim.takeHeld x stOk t)

/-! ### Throttling (R741 to R743) -/

/-- The next throttle level: E and B_w scaled alike (R742). -/
def nextLevel (l e bw : Nat) : Nat :=
  if e > bw then min 15 (l + ceilDiv (16 * (e - bw)) e)
  else if 8 * e ≤ 7 * bw then l - 1
  else l

/-- THROTTLE_WINDOW: a window of 20,000 cycles of a powered cluster ends: the estimate is formed, the cycles held are counted,
and the level is updated, under the emergency floor (R741 to R744). -/
def execThrottleWindow (c : Fin 8) (s : State) : Out :=
  let c := c.val
  whenLive s (match s.ownerCl c with
    | none => s
    | some p =>
      if !(s.cl c).powered then s
      else
        let n := (s.clustersOf p).length
        let f := s.clkMHz c
        let stk := ((s.stacksOf p).filter (fun i => (s.stack i).state != 3#2)).length
        let dyn := (upTo 9).foldl (fun a j => a + (s.core (coreKey c j)).winE) 0
        let e := (20 * n + 2 * stk) * 20000 * 1000000000 + dyn * n * f
        let bw := (s.gaf.budget.get 0#10 p).toNat * 20000 * 1000000000
        let l := (s.gaf.level.get 0#4 c).toNat
        let l' := nextLevel l e bw
        let l' := if s.gaf.emerg then max 12 l' else l'
        let s := (upTo 9).foldl (fun s j => (s.count (coreKey c j) 0x26 (1250 * l)).updCore (coreKey c j)
          (fun x => { x with winE := 0 })) s
        s.setLevel c l')

/-! ### Emergencies (R744 to R746) -/

/-- EMERGENCY_ENTER: a sensor at or above TEMP_LIMIT, or VR_ALERT_N: every powered cluster is throttled at 12 or above, and
EV_THROTTLE goes out. -/
def execEmergencyEnter (temp : Byte) (vr : Bool) (s : State) : Out :=
  whenLive s (
    let s := { s with gaf := { s.gaf with temp := temp }, pins := { s.pins with vrAlert := s.pins.vrAlert || vr } }
    if temp.toNat < s.gaf.tempLimit.toNat && !vr then s
    else
      let on := (upTo 8).filter (fun c => (s.cl c).powered)
      let first := !s.gaf.emerg
      let s := on.foldl (fun s c => s.floorLevel c) ({ s with gaf := { s.gaf with emerg := true } } : State)
      if !first then s
      else
        let s := s.postDev 0x08 7 0 0 (throttleDetail 12 0 true)
        ((upTo 8).filter (fun p => on.any (fun c => s.ownerCl c == some p))).foldl (fun s p =>
          s.post p none 0x08 7 0 p false (throttleDetail 12 0 true)) s)

/-- EMERGENCY_EXIT: every sensor has read at least 5 °C below the limit, and VR_ALERT_N has been high, for 1 ms: the floor is
released (R744, log 3). -/
def execEmergencyExit (temp : Byte) (s : State) : Out :=
  whenLive s (
    let s := { s with gaf := { s.gaf with temp := temp }, pins := { s.pins with vrAlert := false } }
    if temp.toNat + 5 ≤ s.gaf.tempLimit.toNat then { s with gaf := { s.gaf with emerg := false } } else s)

/-- THERMTRIP: at 105 °C the part asserts THERMTRIP_N and stops every clock except CK_AON; transitions end at once, the EN
outputs go low and MAIN_OFF high (R745, R899, R904). Without the main rails the device has no sensor. -/
def execThermtrip (temp : Byte) (s : State) : Out :=
  if s.dbg.freeze != 0#25 || temp.toNat < 105 || s.pins.mainOff || s.pins.en == 0#13 then .next s
  else .next { s.tdmTouchAll with
    gaf := { s.gaf with temp := temp, cur := none, waiting := [], clTrans := [], heldWake := none }
    pins := { s.pins with therm := true, clocksOn := false, en := 0#13, mainOff := true, pwrRet := false } }

/-! ### Registers of the GAF block (Table REG-6) -/

/-- A register of the GAF block. -/
def State.gafRd (s : State) (off : Nat) : W32 :=
  let g := s.gaf
  let i := off % 0x40 / 4
  match off with
  | 0x00 => BitVec.ofNat 32 (g.state.toNat + 8 * b2n s.transBusy + 16 * b2n g.railErr + 32 * b2n g.emerg)
  | 0x08 => BitVec.ofNat 32 (g.hsReason.toNat + 8 * g.hsBlock.toNat + 256 * b2n g.hsAbandon)
  | 0x0C => g.hsLimit.setWidth 32
  | 0x10 => BitVec.ofNat 32 (g.watchCl.toNat + 16 * g.watchSt.toNat)
  | 0x14 => BitVec.ofNat 32 (b2n g.listenRails)
  | 0x18 => g.tempLimit.setWidth 32
  | 0x1C => g.temp.setWidth 32
  | 0x20 => (g.wakeThr.get 0#16 0).setWidth 32
  | 0x24 => (g.wakeThr.get 0#16 1).setWidth 32
  | 0x28 => (g.wakeThr.get 0#16 2).setWidth 32
  | 0x80 => g.railEn.setWidth 32
  | _ =>
    if off % 4 ≠ 0 then 0#32
    else if 0x30 ≤ off ∧ off < 0x50 then
      let c := (off - 0x30) / 4
      BitVec.ofNat 32 ((g.clkFreq.get 0#6 c).toNat + 256 * (g.clkCur.get 0#6 c).toNat + 65536 * (g.level.get 0#4 c).toNat)
    else if 0x60 ≤ off ∧ off < 0x80 then (g.budget.get 0#10 (i - 8)).setWidth 32
    else 0#32

/-- A register of the GAF block written; RAIL_EN is dangerous and not written here (R863, R886). -/
def State.gafWr (s : State) (off : Nat) (v : W32) : State :=
  let g := s.gaf
  let n := v.toNat
  match off with
  | 0x00 => { s with gaf := { g with railErr := g.railErr && !v.getLsbD 4 } }
  | 0x04 => s.gafReq (n % 8) (BitVec.ofNat 8 (n / 256))
  | 0x08 => { s with gaf := { g with hsAbandon := g.hsAbandon && !v.getLsbD 8 } }
  | 0x0C => if 1 ≤ n % 1024 ∧ n % 1024 ≤ 1000 then { s with gaf := { g with hsLimit := v.setWidth 10 } } else s.csrRejected
  | 0x10 => { s with gaf := { g with watchCl := v.setWidth 3, watchSt := BitVec.ofNat 3 (n / 16) } }
  | 0x14 => { s with gaf := { g with listenRails := v.getLsbD 0 } }
  | 0x18 => if 60 ≤ n % 256 ∧ n % 256 ≤ 95 then { s with gaf := { g with tempLimit := v.setWidth 8 } } else s.csrRejected
  | 0x20 => { s with gaf := { g with wakeThr := g.wakeThr.put 0 (v.setWidth 16) } }
  | 0x24 => { s with gaf := { g with wakeThr := g.wakeThr.put 1 (v.setWidth 16) } }
  | 0x28 => { s with gaf := { g with wakeThr := g.wakeThr.put 2 (v.setWidth 16) } }
  | _ =>
    if off % 4 ≠ 0 then s
    else if 0x30 ≤ off ∧ off < 0x50 then
      (if 20 ≤ n % 64 ∧ n % 64 ≤ 2 * s.dev.bin.toNat then
        { s with gaf := { g with clkFreq := g.clkFreq.put ((off - 0x30) / 4) (v.setWidth 6) } } else s.csrRejected)
    else if 0x60 ≤ off ∧ off < 0x80 then
      (if 1 ≤ n % 1024 ∧ n % 1024 ≤ 800 then
        { s with gaf := { g with budget := g.budget.put ((off - 0x60) / 4) (v.setWidth 10) } } else s.csrRejected)
    else s

end Sys2Proof.Machine
end

