-- ==== Sys2Proof/Machine/Insole.lean ====
section
/-! DEFINITION. Insole: PDM decimation, the detector, the pre-roll ring, the feed, wakes and the AON block (R32 to R35, R695,
R698, R699, R708, R710 to R724, R728, R782). -/
namespace Sys2Proof.Machine

/-- Insole runs in every power state except OFF; it stops only while the device is frozen (R32, R715). -/
def State.insoleLive (s : State) : Bool := s.dbg.freeze == 0#25 && s.pins.vddAon && s.pins.insoleUp

/-- A command's effect while Insole runs. -/
def whenInsole (s : State) (x : State) : Out := if s.insoleLive then .next x else .next s

/-! ### Decimation (R697 to R699, R708) -/

/-- The decimation ratio R of CTL.DIV. -/
def cicR (div : BitVec 2) : Nat := if div = 0#2 then 125 else if div = 1#2 then 100 else 50

/-- C(x + 3, 3). -/
def tetra (x : Nat) : Nat := (x + 3) * (x + 2) * (x + 1) / 6

/-- The impulse response of a fourth-order CIC filter of ratio R: four boxes of R ones convolved (R699). -/
def cicTap (r i : Nat) : Int :=
  (upTo 5).foldl (fun (a : Int) k =>
    if i < k * r then a
    else
      let b : Nat := match k with
        | 1 => 4
        | 2 => 6
        | 3 => 4
        | _ => 1
      let v : Int := ((b * tetra (i - k * r) : Nat) : Int)
      if k % 2 = 0 then a + v else a - v) 0

/-- The CIC output whose newest bit stands at place t of a list of bits, oldest first; places before the list count 0. -/
def cicAt (r t : Nat) (bits : List Bool) : Int :=
  (upTo (4 * r - 3)).foldl (fun (a : Int) i =>
    if i > t then a
    else match bits[t - i]? with
      | some true => a + cicTap r i
      | some false => a - cicTap r i
      | none => a) 0

/-- PDM bits kept of a channel, newest first, and its last u values, after a frame; and the frame's calibrated samples
(R699, R708). -/
def decimate (div : BitVec 2) (h : SMap (BitVec 16)) (cal : W32) (old : List Bool) (us : List Int) (new : List Bool) :
    List Int × List Bool × List Int :=
  let r := cicR div
  let bits := old.reverse ++ new
  let n0 := old.length
  let d := calDelay cal
  let u (n : Nat) : Int :=
    let t := n0 + (n + 1) * r - 1
    rdiv ((if t < d then 0 else cicAt r (t - d) bits) * (2 ^ 15 : Nat)) (r ^ 4)
  let un := (upTo 256).map u
  let all := us.reverse ++ un
  let m := us.length
  let y (n : Nat) : Int :=
    let t := (upTo 32).foldl (fun (a : Int) i =>
      if i > m + n then a else a + (h.get 0#16 i).toInt * all.getD (m + n - i) 0) 0
    let v := (satN 16 (rdiv t (2 ^ 15))).1
    if cal.getLsbD 31 then (satN 16 (rdiv (v * (calGain cal : Int)) (2 ^ 14))).1 else v
  ((upTo 256).map y, (bits.reverse).take (4 * r - 4 + 255), (all.reverse).take 31)

/-- Whether a PDM channel is enabled: channel 2n and 2n + 1 of input n (R698). -/
def Aon.chanOn (a : Aon) (c : Nat) : Bool := a.pdmEn.getLsbD (c / 2)

/-! ### IMA ADPCM (R714; step and index tables of IMA: PRESUMED, log 43) -/

/-- Step sizes 0 to 44. -/
def imaA : List Nat :=
  [7, 8, 9, 10, 11, 12, 13, 14, 16, 17, 19, 21, 23, 25, 28, 31, 34, 37, 41, 45, 50, 55, 60, 66, 73, 80, 88, 97, 107, 118,
   130, 143, 157, 173, 190, 209, 230, 253, 279, 307, 337, 371, 408, 449, 494]
/-- Step sizes 45 to 88. -/
def imaB : List Nat :=
  [544, 598, 658, 724, 796, 876, 963, 1060, 1166, 1282, 1411, 1552, 1707, 1878, 2066, 2272, 2499, 2749, 3024, 3327, 3660,
   4026, 4428, 4871, 5358, 5894, 6484, 7132, 7845, 8630, 9493, 10442, 11487, 12635, 13899, 15289, 16818, 18500, 20350,
   22385, 24623, 27086, 29794, 32767]
/-- The step size of an index. -/
def imaStep (i : Nat) : Nat := (imaA ++ imaB).getD i 32767

/-- The predictor and index after a nibble. -/
def imaNext (p : Int) (i nib : Nat) : Int × Nat :=
  let st := imaStep i
  let d := st / 8 + (if bitAt nib 2 then st else 0) + (if bitAt nib 1 then st / 2 else 0) + (if bitAt nib 0 then st / 4 else 0)
  let q := (satN 16 (if bitAt nib 3 then p - (d : Int) else p + (d : Int))).1
  let m := nib % 8
  (q, if m < 4 then i - 1 else min 88 (i + 2 * (m - 3)))

/-- The nibble of a sample. -/
def imaNibble (p : Int) (i : Nat) (x : Int) : Nat :=
  let st := imaStep i
  let d := (x - p).natAbs
  let b2 := decide (d ≥ st)
  let d := if b2 then d - st else d
  let b1 := decide (d ≥ st / 2)
  let d := if b1 then d - st / 2 else d
  let b0 := decide (d ≥ st / 4)
  (if x < p then 8 else 0) + 4 * b2n b2 + 2 * b2n b1 + b2n b0

/-- The nibbles of samples, and the state of the encoder after them. -/
def imaEncode (p : Int) (i : Nat) : List Int → List Nat × Int × Nat
  | [] => ([], p, i)
  | x :: t =>
    let n := imaNibble p i x
    let q := imaNext p i n
    let r := imaEncode q.1 q.2 t
    (n :: r.1, r.2.1, r.2.2)

/-- The samples of nibbles. -/
def imaDecode (p : Int) (i : Nat) : List Nat → List Int
  | [] => []
  | n :: t => let q := imaNext p i n
    q.1 :: imaDecode q.1 q.2 t

/-- Pairs of nibbles as bytes, the first in bits [3:0]. -/
def nibBytes : List Nat → List Byte
  | a :: b :: t => BitVec.ofNat 8 (a + 16 * b) :: nibBytes t
  | [a] => [BitVec.ofNat 8 a]
  | [] => []

/-- A block of the pre-roll ring: predictor, index, nibbles (R714). -/
def ringBlock (st : BitVec 24) (l : List Int) : List Byte × BitVec 24 :=
  let p := (st.setWidth 16).toInt
  let i := bitsAt st.toNat 16 8
  let r := imaEncode p i l
  (leBytes 2 (wrapN 16 p) ++ leBytes 2 i ++ nibBytes r.1,
   BitVec.ofNat 24 (wrapN 16 r.2.1 + 65536 * r.2.2))

/-- The samples of a block of the ring. -/
def ringSamples (b : List Byte) : List Int :=
  imaDecode (sextN 16 (recN b 0 2)) (recN b 2 1) ((upTo 256).map (fun i => bitsAt (recN b (4 + i / 2) 1) (4 * (i % 2)) 4))

/-! ### The detector (R710 to R713) -/

/-- A value held to INT8. -/
def sat8 (x : Int) : Int := (satN 8 x).1

/-- A byte of model memory. -/
def Aon.modelB (a : Aon) (o : Nat) : Nat := (a.model.get 0#8 o).toNat
/-- An INT8 of model memory. -/
def Aon.modelI8 (a : Aon) (o : Nat) : Int := sextN 8 (a.modelB o)
/-- An INT32 of model memory. -/
def Aon.modelI32 (a : Aon) (o : Nat) : Int :=
  sextN 32 (a.modelB o + 256 * a.modelB (o + 1) + 65536 * a.modelB (o + 2) + 16777216 * a.modelB (o + 3))

/-- A layer descriptor: 16 bytes (Table AUD-3). -/
def Aon.layer (a : Aon) (n : Nat) : Nat := (upTo 16).foldl (fun v i => v + a.modelB (16 * n + i) * 2 ^ (8 * i)) 0

/-- The layers of the model: descriptors from offset 0 up to the first that is all zero, 16 at most (log 48). -/
def Aon.layers (a : Aon) : List Nat := ((upTo 16).map a.layer).takeWhile (fun d => d != 0)

/-- The feature of a pair: eight times the logarithm of its power, by the three bits below the leading one (R711). -/
def powerFeature (x y : Int) : Int :=
  let p := (x * x + y * y).natAbs
  if p = 0 then -128
  else
    let l := Nat.log2 p
    let f := if l ≥ 3 then bitsAt p (l - 3) 3 else bitsAt (p * 8) l 3
    sat8 (8 * (l : Int) + (f : Int) - 128)

/-- A POWER layer over a frame's samples: rows 2j and 2j + 1 of its weights give the pair j (R711, log 48). -/
def Aon.powerLayer (a : Aon) (d : Nat) (x : List Int) : List Int :=
  let w := bitsAt d 32 19
  let row (r : Nat) : Int := (upTo 256).foldl (fun (s : Int) i => s + a.modelI8 (w + 256 * r + i) * x.getD i 0) 0
  (upTo (bitsAt d 20 8 + 1)).map (fun j => powerFeature (row (2 * j)) (row (2 * j + 1)))

/-- A DENSE layer (R711). -/
def Aon.denseLayer (a : Aon) (d : Nat) (x : List Int) : List Int :=
  let w := bitsAt d 32 19
  let b := bitsAt d 64 19
  let n := bitsAt d 10 10 + 1
  (upTo (bitsAt d 20 8 + 1)).map (fun o =>
    let s := (upTo n).foldl (fun (s : Int) i => s + a.modelI8 (w + n * o + i) * x.getD i 0) (a.modelI32 (b + 4 * o))
    let y := sat8 (rdiv (s * (bitsAt d 96 16 : Int)) (2 ^ bitsAt d 112 5))
    if bitAt d 3 then max 0 y else y)

/-- The model run on one channel's frame: the scores, and the channel's history, newest frame first (R711). -/
def Aon.runModel (a : Aon) (hist : List Byte) (x : List Int) : List Int × List Byte :=
  (a.layers).foldl (fun acc d =>
    if d % 4 = 0 then
      let f := a.powerLayer d x
      (f, (f.map (fun v => BitVec.ofInt 8 v) ++ acc.2).take (64 * f.length))
    else
      let nf := (a.layers.find? (fun e => e % 4 == 0)).map (fun e => bitsAt e 20 8 + 1)
      let k := nf.getD 1
      let frames := bitsAt d 4 6 + 1
      let inp := if bitAt d 2 then
          (upTo frames).flatMap (fun i => (upTo k).map (fun j => (acc.2.getD (k * (frames - 1 - i) + j) 0#8).toInt))
        else acc.1
      (a.denseLayer d inp, acc.2)) ([], hist)

/-- Whether a layer holds a reserved code (Table AUD-6, MERR). -/
def Aon.modelBad (a : Aon) : Bool := a.layers.any (fun d => decide (d % 4 ≥ 2))

/-- The confidence of a score (R712). -/
def confOf (sc : Int) : BitVec 16 := BitVec.ofInt 16 ((sc + 128) * 257)

/-- A direct class takes a frame: whether it posts (R713). -/
def ClassRun.direct (r : ClassRun) (frame : Nat) (ct c : BitVec 16) : ClassRun × Bool :=
  if c.toNat ≥ ct.toNat then
    let onset := if r.onLen = 0 then BitVec.ofNat 48 frame else r.onset
    let r := { r with onset := onset, onLen := r.onLen + 1, below := 0 }
    if !r.active || decide (c.toNat > r.best.toNat) then ({ r with active := true, best := c }, true) else (r, false)
  else
    let b := r.below + 1
    ({ r with onLen := 0, below := b, active := r.active && decide (b < 8) }, false)

/-- The matcher takes a frame of a temporal class: the confidence and first frame of the pattern when it posts (R713). -/
def ClassRun.temporal (r : ClassRun) (frame : Nat) (ct c : BitVec 16) : ClassRun × Option (BitVec 16 × BitVec 48) :=
  let good (n : Nat) : Bool := decide (28 ≤ n) && decide (n ≤ 35)
  if c.toNat ≥ ct.toNat then
    if r.isOn then ({ r with onLen := r.onLen + 1, minConf := if c.toNat < r.minConf.toNat then c else r.minConf }, none)
    else ({ r with isOn := true, onLen := 1, minConf := c, matchOnset := BitVec.ofNat 48 frame,
                   past := if good r.onLen then r.past else [] }, none)
  else if r.isOn then
    ({ r with isOn := false, onLen := 1, past := if good r.onLen then ((r.minConf, r.matchOnset) :: r.past).take 3 else [] }, none)
  else
    let n := r.onLen + 1
    if n = 36 then
      ({ r with onLen := n, past := [] },
        if r.past.length = 3 then
          some (r.past.foldl (fun m x => if x.1.toNat < m.toNat then x.1 else m) 0xFFFF#16, (r.past.getLastD (0#16, 0#48)).2)
        else none)
    else ({ r with onLen := n }, none)

/-! ### Wakes (R33 to R35, R718 to R724, R728) -/

/-- DETAIL of EV_WAKE (Table AUD-4). -/
def wakeDetail (stage target : Nat) (acc ref : Bool) (cls chan conf onset : Nat) : Nat :=
  stage % 16 + 16 * (target % 4) + 64 * b2n acc + 128 * b2n ref + 256 * (cls % 16) + 4096 * (chan % 16) + 65536 * (conf % 65536) +
    2 ^ 32 * (onset % 2 ^ 48)

/-- The partition that owns the feed; 15: none, as when the number names no partition. -/
def State.feedPart (s : State) : Nat := if s.exists? s.aon.feedOwn.toNat then s.aon.feedOwn.toNat else 15

/-- A wake posted: the Gaffer compares its confidence with the threshold of its posting stage, and raises the state or
records it (R34, R35, R719, R721). A stage-0 wake at or above its threshold makes Insole refuse a fall to LISTEN that is not
committed (R723); in LISTEN it drives AON_WAKE (R728). -/
def State.postWake (s : State) (stage target cls chan : Nat) (conf : BitVec 16) (onset unit unitDev : Nat) : State :=
  let acc : Bool := decide (conf.toNat ≥ (s.gaf.wakeThr.get 0x8000#16 stage).toNat)
  let frame := BitVec.ofNat 48 (s.aon.sampleNo.toNat / 256)
  let s := if stage = 0 ∧ acc then { s with aon := { s.aon with lastWake := some frame } } else s
  if s.pins.mainOff then s.wakeRails acc
  else if !s.pins.resetN then s
  else
    let ref : Bool := stage == 0 && acc && (match s.gaf.cur with
      | some t => !t.committed && t.asked.has 26
      | none => false)
    let s := if ref then s.abandon none 1 26 else s
    let src := if stage = 0 then 5 else 1
    let own := s.feedPart
    let d := wakeDetail stage target acc ref cls chan conf.toNat onset
    let s := if own < 8 then s.post own none 0x01 src unit own false d else s
    if !acc then { s with gaf := { s.gaf with lastWakeBelow := s.gaf.lastWakeBelow + 1 } }
    else
      let s := s.post 8 none 0x01 src unitDev (if own < 8 then own else 0) true d
      let s := if s.gaf.state = 3#3 then { s with aon := { s.aon with wakePin := true } } else s
      s.raiseTo (stageState target)

/-- The oldest block in the pre-roll ring (R714). -/
def State.oldestBlock (s : State) : Nat := max (s.aon.sampleNo.toNat / 256 - 500) s.aon.ringFrom

/-- The onset of a stage-0 wake: the first frame given less MARGIN, not older than the oldest block of the ring (R720). -/
def State.wakeOnset (s : State) (first : Nat) : Nat :=
  256 * max (first - s.aon.margin.toNat) (if s.aon.ring then s.oldestBlock else 0)

/-! ### The feed (R716, R717, R782) -/

/-- Whether the feed writes: in RUN, TRIM and WATCH, with an owner. -/
def State.feedOn (s : State) : Bool :=
  s.live && decide (s.gaf.state.toNat ≤ 2) && decide (s.feedPart < 8) && !s.scrubbing s.feedPart && s.aon.ring

/-- The channels that the ring records. -/
def Aon.chans (a : Aon) : List Nat := (upTo 16).filter a.chanOn

/-- A block written to the feed owner's ring: block record, then the decoded samples, channel-major; when the ring is full
the block is discarded and GAP is set in the next record (R716). -/
def State.feedWrite (s : State) (b : Nat) (replay : Bool) : State :=
  let p := s.aon.feedOwn.toNat
  let r := s.aon.feedRing
  let head := s.aon.feedHead
  let t := s.ringTail p r
  let s := t.2
  let next := { s.aon with feedBlk := BitVec.ofNat 48 (b + 1) }
  if (head - BitVec.ofNat 64 t.1).toNat ≥ r.n then { s with aon := { next with feedPend := s.aon.feedPend ||| 4 } }
  else
    let slot := b % 500
    let flags := b2n replay + s.aon.feedPend
    let recd := leBytes 6 b ++ leBytes 1 flags ++ [0#8] ++ leBytes 8 (s.aon.blkNs.get 0#64 slot).toNat ++ List.replicate 48 0#8
    let data := s.aon.chans.flatMap (fun c =>
      (ringSamples (s.aon.ringMem.get [] (512 * c + slot))).flatMap (fun x => leBytes 2 (wrapN 16 x)))
    let w := s.hostWrite p (r.buf head.toNat) (recd ++ data)
    let h := head + 1#64
    let w := match w.2 with
      | some _ => w
      | none => w.1.hostWrite p (r.base.toNat + 8) (leBytes 8 h.toNat)
    match w.2 with
    | some _ => { w.1 with aon := { next with feedPend := s.aon.feedPend ||| 4 } }
    | none => { w.1 with aon := { next with feedPend := 0, feedHead := h } }

/-- Whether a feed block waits for a page in motion (R104). -/
def State.feedMoves (s : State) : Bool :=
  s.ringMoves s.aon.feedOwn.toNat s.aon.feedRing s.aon.feedHead.toNat (64 + 512 * s.aon.chans.length)

/-- The live blocks that waited are written, up to the first that still waits for a page in motion (R104). -/
def State.feedFlushN (s : State) : Nat → State
  | 0 => s
  | n + 1 => match s.aon.feedWait with
    | b :: r => if s.feedMoves || !s.feedOn then s
      else State.feedFlushN (({ s with aon := { s.aon with feedWait := r } } : State).feedWrite b false) n
    | [] => s

/-- Every live block that can be written is. -/
def State.feedFlush (s : State) : State := s.feedFlushN s.aon.feedWait.length

/-- FEED_FROM: a replay starts at the block of a sample; at the oldest block, or at the first after the feed changed owner,
with CLIPPED, when the block is gone (R717, R782). -/
def State.feedFrom (s : State) (n : BitVec 48) : State :=
  let lo := max s.oldestBlock s.aon.feedChange.toNat
  let b := n.toNat / 256
  { s with aon := { s.aon with
    feedFrom := n, replay := true, feedWait := [], feedBlk := BitVec.ofNat 48 (max b lo)
    feedPend := if b < lo then s.aon.feedPend ||| 2 else s.aon.feedPend } }

/-- FEED_FROM_WRITE: a write of the owner's sample number. -/
def execFeedFromWrite (n : BitVec 48) (s : State) : Out := whenLive s (if s.insoleLive then s.feedFrom n else s)

/-- FEED_REPLAY_BLOCK: a replay writes its next block; at the newest completed block it ends (R717). -/
def execFeedReplayBlock (s : State) : Out :=
  whenInsole s (
    let now := s.aon.sampleNo.toNat / 256
    let b := max s.aon.feedBlk.toNat s.oldestBlock
    let clip : Bool := decide (s.aon.feedBlk.toNat < s.oldestBlock)
    if !s.aon.replay || !s.feedOn || s.feedMoves then s
    else if b ≥ now then { s with aon := { s.aon with replay := false } }
    else
      let s := if clip then { s with aon := { s.aon with feedPend := s.aon.feedPend ||| 2 } } else s
      let s := s.feedWrite b true
      if b + 1 ≥ now then { s with aon := { s.aon with replay := false } } else s)

/-- FEED_OWN takes a value: the feed starts anew for its owner, and a replay cannot reach behind the change (R782). -/
def State.setFeedOwn (s : State) (v : BitVec 4) : State :=
  if v = s.aon.feedOwn then s
  else
    let now := s.aon.sampleNo.toNat / 256
    { s with aon := { s.aon with
      feedOwn := v, feedChange := BitVec.ofNat 48 (now + 1), feedBlk := BitVec.ofNat 48 now, feedPend := 0, feedHead := 0#64
      replay := false, feedWait := [] } }

/-! ### A frame of Insole (R710 to R716) -/

/-- The bits of a frame taken in: each enabled channel's samples; a channel that is off keeps nothing (R699). -/
def Aon.takeBits (a : Aon) (bits : List (List Bool)) : List (Nat × List Int) × Aon :=
  (upTo 16).foldl (fun acc c =>
    if a.chanOn c then
      let r := decimate a.div a.decim (a.calib.get 0x4000#32 c) (a.pdm.get [] c) (a.uhist.get [] c) (bits.getD c [])
      (acc.1 ++ [(c, r.1)], { acc.2 with pdm := acc.2.pdm.put c r.2.1, uhist := acc.2.uhist.put c r.2.2 })
    else (acc.1, { acc.2 with
      pdm := acc.2.pdm.erase c, uhist := acc.2.uhist.erase c, adpcm := acc.2.adpcm.erase c, hist := acc.2.hist.erase c }))
    ([], a)

/-- The block of each channel recorded in the ring (R714); a ring that records nothing holds no block that counts. -/
def Aon.recordRing (a : Aon) (b : Nat) (l : List (Nat × List Int)) : Aon :=
  if !a.ring || l.isEmpty then { a with ringFrom := b + 1 }
  else l.foldl (fun (a : Aon) x =>
    let r := ringBlock (a.adpcm.get 0#24 x.1) x.2
    { a with ringMem := a.ringMem.put (512 * x.1 + b % 500) r.1, adpcm := a.adpcm.put x.1 r.2 }) a

/-- A wake that stage 0 would post: channel, class, confidence, first frame. -/
abbrev Post0 := Nat × Nat × BitVec 16 × BitVec 48

/-- The detector on one channel: its history and runs, and the wakes its classes would post (R711 to R713). -/
def Aon.detect (a : Aon) (frame c : Nat) (x : List Int) : Aon × List Post0 :=
  let m := a.runModel (a.hist.get [] c) x
  let a := { a with hist := a.hist.put c m.2 }
  (upTo (min 8 m.1.length)).foldl (fun acc k =>
    let cfg := acc.1.classCfg.get 0#18 k
    let ct := cfg.setWidth 16
    let r := acc.1.runs.get ClassRun.init (8 * c + k)
    let conf := confOf (m.1.getD k 0)
    if bitsAt cfg.toNat 16 2 = 1 then
      let d := r.direct frame ct conf
      ({ acc.1 with runs := acc.1.runs.put (8 * c + k) d.1 }, if d.2 then acc.2 ++ [(c, k, conf, d.1.onset)] else acc.2)
    else if bitsAt cfg.toNat 16 2 = 2 then
      let d := r.temporal frame ct conf
      ({ acc.1 with runs := acc.1.runs.put (8 * c + k) d.1 }, match d.2 with
        | some y => acc.2 ++ [(c, 15, y.1, y.2)]
        | none => acc.2)
    else acc) (a, [])

/-- The wakes of a frame: of one channel all that its classes post; when several channels post, one, of the highest confidence, ties to
the lower channel (R713). -/
def pickWakes (l : List Post0) : List Post0 :=
  match l with
  | [] => []
  | a :: t =>
    if t.all (fun x => x.1 == a.1) then l
    else [t.foldl (fun (b : Post0) x => if x.2.2.1.toNat > b.2.2.1.toNat then x else b) a]

/-- Stage 0 on a frame: detection on the channels of DET_MASK, then its wakes (R710, R713, R718, R720). A reserved code in a
layer sets MERR and stops stage 0. -/
def State.stage0 (s : State) (frame : Nat) (l : List (Nat × List Int)) : State :=
  if !s.aon.det || s.aon.merr then s
  else if s.aon.modelBad then { s with aon := { s.aon with merr := true } }
  else
    let r := (l.filter (fun x => s.aon.detMask.getLsbD x.1)).foldl (fun (acc : Aon × List Post0) x =>
      let d := acc.1.detect frame x.1 x.2
      (d.1, acc.2 ++ d.2)) (s.aon, [])
    let s := { s with aon := r.1 }
    (pickWakes r.2).foldl (fun s w => s.postWake 0 1 w.2.1 w.1 w.2.2.1 (s.wakeOnset w.2.2.2.toNat) 0 0) s

/-- INSOLE_FRAME: 256 samples of every enabled channel are complete: they are decimated, recorded, scored and fed (R699, R710,
R714 to R716). bits holds each channel's PDM bits of the frame, oldest first. -/
def execInsoleFrame (bits : List (List Bool)) (s : State) : Out :=
  whenInsole s (
    let b := s.aon.sampleNo.toNat / 256
    let t := s.aon.takeBits bits
    let a := t.2.recordRing b t.1
    let s := { s with aon := { a with
      sampleNo := BitVec.ofNat 48 (256 * (b + 1)), blkNs := a.blkNs.put (b % 500) s.nsW } }
    let s := s.stage0 b t.1
    if s.feedOn && !s.aon.replay && decide (b ≥ s.aon.feedBlk.toNat) then
      ({ s with aon := { s.aon with feedWait := s.aon.feedWait ++ [b] } } : State).feedFlush
    else s)

/-- FLL_LOCK: the crystal has started, and the loop locks the RC oscillator to it (R695). -/
def execFllLock (s : State) : Out := whenInsole s { s with aon := { s.aon with fll := true } }

/-! ### Registers of the AON block (Table AUD-6) -/

/-- A register of the AON block; the feed ring's parameters, to which no rule gives a place, lie at 0x0D0 to 0x0DF
(log 44). -/
def State.aonRd (s : State) (ia : Nat) : W32 :=
  let a := s.aon
  if ia % 4 ≠ 0 then 0#32
  else match ia with
  | 0x000 => BitVec.ofNat 32 (a.pdmEn.toNat + 256 * a.div.toNat + 1024 * b2n a.det + 2048 * b2n a.ring)
  | 0x004 => BitVec.ofNat 32 (b2n a.fll + 2 * b2n a.replay + 4 * b2n a.merr)
  | 0x008 => a.detMask.setWidth 32
  | 0x010 => a.feedOwn.setWidth 32
  | 0x018 => a.feedFrom.setWidth 32
  | 0x01C => BitVec.ofNat 32 (a.feedFrom.toNat / 2 ^ 32)
  | 0x020 => a.margin.setWidth 32
  | 0x024 => a.hold.setWidth 32
  | 0x0C0 => a.sampleNo.setWidth 32
  | 0x0C4 => BitVec.ofNat 32 (a.sampleNo.toNat / 2 ^ 32)
  | 0x0D0 => a.feedRing.base.setWidth 32
  | 0x0D4 => BitVec.ofNat 32 (a.feedRing.base.toNat / 2 ^ 32)
  | 0x0D8 => BitVec.ofNat 32 a.feedRing.n
  | 0x0DC => BitVec.ofNat 32 a.feedRing.pitch
  | _ =>
    if 0x040 ≤ ia ∧ ia < 0x060 then (a.classCfg.get 0#18 ((ia - 0x40) / 4)).setWidth 32
    else if 0x080 ≤ ia ∧ ia < 0x0C0 then
      let i := (ia - 0x80) / 2
      (a.decim.get 0#16 (i + 1)) ++ (a.decim.get 0#16 i)
    else if 0x100000 ≤ ia ∧ ia < 0x160000 then
      let o := ia - 0x100000
      BitVec.ofNat 32 (a.modelB o + 256 * a.modelB (o + 1) + 65536 * a.modelB (o + 2) + 16777216 * a.modelB (o + 3))
    else 0#32

/-- A register of the AON block written; FEED_OWN is dangerous and not written here (R863). FEED_FROM acts with its high word
(log 44). -/
def State.aonWr (s : State) (ia : Nat) (v : W32) : State :=
  let a := s.aon
  let n := v.toNat
  if ia % 4 ≠ 0 then s
  else match ia with
  | 0x000 => if bitsAt n 8 2 = 3 then s.csrRejected
    else { s with aon := { a with
      pdmEn := v.setWidth 8, div := BitVec.ofNat 2 (n / 256), det := v.getLsbD 10, ring := v.getLsbD 11 } }
  | 0x004 => { s with aon := { a with merr := a.merr && !v.getLsbD 2 } }
  | 0x008 => { s with aon := { a with detMask := v.setWidth 16 } }
  | 0x018 => { s with aon := { a with feedFrom := BitVec.ofNat 48 (a.feedFrom.toNat / 2 ^ 32 * 2 ^ 32 + n) } }
  | 0x01C => s.feedFrom (BitVec.ofNat 48 (a.feedFrom.toNat % 2 ^ 32 + n * 2 ^ 32))
  | 0x020 => { s with aon := { a with margin := v.setWidth 5 } }
  | 0x024 => { s with aon := { a with hold := v.setWidth 8 } }
  | 0x0D0 => { s with aon := { a with feedHead := 0#64, feedRing := { a.feedRing with
      base := BitVec.ofNat 64 (a.feedRing.base.toNat / 2 ^ 32 * 2 ^ 32 + n) } } }
  | 0x0D4 => { s with aon := { a with feedRing := { a.feedRing with
      base := BitVec.ofNat 64 (a.feedRing.base.toNat % 2 ^ 32 + n * 2 ^ 32) } } }
  | 0x0D8 => { s with aon := { a with feedRing := { a.feedRing with n := n } } }
  | 0x0DC => { s with aon := { a with feedRing := { a.feedRing with pitch := n } } }
  | _ =>
    if 0x040 ≤ ia ∧ ia < 0x060 then
      (if bitsAt n 16 2 = 3 then s.csrRejected
       else { s with aon := { a with classCfg := a.classCfg.put ((ia - 0x40) / 4) (v.setWidth 18) } })
    else if 0x080 ≤ ia ∧ ia < 0x0C0 then
      let i := (ia - 0x80) / 2
      { s with aon := { a with decim := (a.decim.put i (v.setWidth 16)).put (i + 1) (BitVec.ofNat 16 (n / 65536)) } }
    else if 0x100000 ≤ ia ∧ ia < 0x160000 then
      let o := ia - 0x100000
      { s with aon := { a with model := (upTo 4).foldl (fun m i => m.put (o + i) (BitVec.ofNat 8 (n / 2 ^ (8 * i)))) a.model } }
    else s

end Sys2Proof.Machine
end

