-- ==== Sys2Proof/Machine/Part.lean ====
section
/-! DEFINITION. The life of a partition and of its function: creation, change, disable, drain, reset, scrub (R70 to R78, R112,
R536, R537, R612, R638 to R645, R759, R779 to R781, R921). -/
namespace Sys2Proof.Machine

/-! ### Disabling and draining a function (R638 to R643) -/

/-- The disable of a function, in the cycle D: commands not started complete ABANDONED and its session closes (R638, R640,
R759). -/
def State.disableFunc (s : State) (p : Nat) : State :=
  if (s.func p).st ≠ .operating then s
  else
    let s := s.updFunc p (fun f => { f with st := .draining, dNs := s.nsW, nrdy := false })
    let idle := (s.func p).cmds.filter (fun c => !c.started)
    (idle.foldl (fun s c => s.complete p c.serial stAbandoned 0 0 0) s).closeSession p

/-- A transfer cut off at a 64-byte boundary: how much of it has gone is open (R641, R107). -/
def State.cutTransfer (s : State) (p serial : Nat) : State :=
  let n := s.freeAt p
  let cut (l : List Byte) : List Byte := l.take (64 * ((Config.freeValue n).toNat % (l.length / 64 + 1)))
  (s.freshP p 1).updFunc p (fun f => { f with in2 := f.in2.map (fun t => if t.1 = serial + 1 then (0, cut t.2) else t) })

/-- The step of a job ends: its threads end and their operations are cut off (R112, R641). -/
def State.endJobStep (s : State) (p j : Nat) : State :=
  if (s.job p j).startAt.isSome then s.updJob p j (fun x => { x with running := none, startAt := none, launched := false })
  else
    let s := s.stopJob p j true
    (s.jobCores p j).foldl (fun s k =>
      let s := s.abandonDma p k
      (s.core k).threads.keys.foldl (fun s t => if s.mayFinish k t then s.finishThread k t else s) s) s

/-- A chunk ends ABANDONED: a running one with its thread (R112, R230). -/
def State.abandonChunk (s : State) (p k : Nat) (c : Chunk) : State :=
  if c.running then
    match (s.core k).threads.find? (fun t => t.2.chunk == some c.serial) with
    | some t =>
      let s := ((s.core k).dmaq.filter (fun o => o.thr == t.1 && o.hostTag.isNone)).foldl (fun s o => s.abandonOp p k o) s
      let s := s.endThr k t.1
      let s := s.endChunk p k t.1 c stAbandoned 0
      s.updThr k t.1 (fun x => { x with chunk := none, supEnd := false })
    | none => (s.dropChunk k c.serial).finishChunk p c stAbandoned 0
  else (s.dropChunk k c.serial).finishChunk p c stAbandoned 0

/-- A command that is held completes ABANDONED, and what it runs ends (R112, R641). -/
def State.abandonCmd (s : State) (p : Nat) (c : HCmd) : State :=
  let n := c.serial
  let j := c.hdr.job.toNat
  let s := if !c.started then s
    else match c.opc.toNat with
    | 0x03 => s.updJob p j (fun x => { x with destroy := none })
    | 0x04 => if (s.job p j).running = some (n + 1) then s.endJobStep p j else s
    | 0x06 =>
      let s := s.updJob p j (fun x => { x with seqs := x.seqs.mapV (fun _ q => if q.run = some n then { q with run := none } else q) })
      if (s.job p j).running.isSome then s.endJobStep p j else s
    | 0x0A => (s.clustersOf p).foldl (fun s cl => (upTo 9).foldl (fun s i =>
        ((s.core (coreKey cl i)).dmaq.filter (fun o => o.hostTag == some n)).foldl (fun s o => s.abandonOp p (coreKey cl i) o) s) s) s
    | 0x0D => s.cutTransfer p n
    | 0x0F => (s.clustersOf p).foldl (fun s cl => (upTo 9).foldl (fun s i =>
        ((s.core (coreKey cl i)).chunkq.filter (fun x => x.cmd == some n)).foldl (fun s x => s.abandonChunk p (coreKey cl i) x) s) s) s
    | 0x20 => s.updSecp p (fun x => { x with signQ := x.signQ.filter (fun y => y.1 != n) })
    | 0x22 => s.updSecp p (fun x => { x with hashQ := x.hashQ.filter (fun y => y.1 != n) })
    | _ => s
  s.complete p n stAbandoned 0 0 0

/-- Every command that a function holds is abandoned. -/
def State.abandonCmds (s : State) (p : Nat) : State := (s.func p).cmds.foldl (fun s c => s.abandonCmd p c) s

/-- FUNC_DRAIN_TIMEOUT: at D + 1 ms every remaining command completes ABANDONED (R641). -/
def execFuncDrainTimeout (p : Fin 8) (s : State) : Out :=
  let f := s.func p.val
  whenLive s (
    if f.st ≠ .draining || decide (s.ns < f.dNs.toNat + 1000000) then s else (s.abandonCmds p.val).pump p.val)

/-- The function stops: records that it has not delivered are discarded (R642). -/
def State.stopFunc (s : State) (p : Nat) : State :=
  let s := s.updFunc p (fun f => { f with st := .off, out := [], in2 := [], nrdy := false })
  { s with usb := { s.usb with evq := s.usb.evq.erase p, lost := s.usb.lost.erase p } }

/-- FUNC_STOP: a draining function has delivered its last completion, or 10 ms have passed since D (R642). -/
def execFuncStop (p : Fin 8) (s : State) : Out :=
  let f := s.func p.val
  let done : Bool := f.cmds.isEmpty && !f.out.any (fun c => !c.req)
  whenLive s (
    if f.st ≠ .draining || !(done || decide (s.ns ≥ f.dNs.toNat + 10000000)) then s
    else ((s.abandonCmds p.val).stopFunc p.val).pump p.val)

/-- A function starts with its buffers empty (R643); on a follower none does (R615). -/
def State.startFunc (s : State) (p : Nat) : State :=
  if !s.portOpen then s
  else
    let s := s.updFunc p (fun f => { f with st := .operating, cmds := [], out := [], in2 := [], nrdy := false })
    { s with usb := { s.usb with evq := s.usb.evq.erase p, lost := s.usb.lost.erase p } }

/-- A reset of a partition's work: its commands in flight and its launches complete ABANDONED, its threads end, its operations and fabric
commands are cut off and its session closes (R112, R759). -/
def State.resetPart (s : State) (p : Nat) : State :=
  let s := s.abandonCmds p
  let s := (s.clustersOf p).foldl (fun s c => (upTo 9).foldl (fun s i =>
    let k := coreKey c i
    let s := (s.core k).chunkq.foldl (fun s x => s.abandonChunk p k x) s
    let s := s.endThreads k
    let s := s.abandonDma p k
    (s.core k).threads.keys.foldl (fun s t => if s.mayFinish k t then s.finishThread k t else s) s) s) s
  let s := ((s.part p).jobs.filter (fun x => x.2.launched)).foldl (fun s x => s.launchDone p stAbandoned x.2.late.toNat) s
  let s := s.updPart p (fun x => { x with jobs := x.jobs.mapV (fun _ j =>
    if j.running.isSome then { j with faulted := true, startAt := none, launched := false } else j) })
  let s := s.abandonFab p
  s.closeSession p

/-! ### Resources of partitions (R72 to R78, R921) -/

/-- Whether a scrub still holds a cluster. -/
def State.scrubbedCl (s : State) (c : Nat) : Bool := (upTo 8).any (fun p => match (s.part p).scrub with
  | some x => x.2.1.getLsbD c
  | none => false)
/-- Whether a scrub still holds a stack. -/
def State.scrubbedSt (s : State) (n : Nat) : Bool := (upTo 8).any (fun p => match (s.part p).scrub with
  | some x => x.2.2.getLsbD n
  | none => false)

/-- Whether clusters and stacks are free for partition p: its own, or of no partition and scrubbed (R72, R73). -/
def State.unitsFree (s : State) (p : Nat) (cl st : BitVec 8) : Bool :=
  (upTo 8).all (fun n =>
    (!cl.getLsbD n || s.ownerCl n == some p || ((s.ownerCl n).isNone && !s.scrubbedCl n)) &&
    (!st.getLsbD n || s.ownerSt n == some p || ((s.ownerSt n).isNone && !s.scrubbedSt n)))

/-- Logical cluster numbers after a change of the cluster mask: kept ones stay, new clusters take the lowest free numbers in
ascending order (R921). -/
def renumber (m : SMap Nat) (cl : BitVec 8) : SMap Nat :=
  let kept := m.filter (fun x => decide (x.2 ≥ 1) && cl.getLsbD (x.2 - 1))
  let new := (upTo 8).filter (fun c => cl.getLsbD c && !kept.any (fun x => x.2 == c + 1))
  new.foldl (fun (k : SMap Nat) c => match (upTo 8).find? (fun l => !k.has l) with
    | some l => k.put l (c + 1)
    | none => k) kept

/-- The registers of a CL block that belong to its partition, at their reset values. -/
def Cluster.plain (x : Cluster) : Cluster :=
  { x with
    ptRoot := 0#40, reelBase := 0#40, reelN := 0#13, fqBase := 0#40, fqSize := 16#13, clPend := [], wdog := 50#9
    policy := 0#2, ckpt := true, fab := [] }

/-- A cluster that a partition takes: powered and zeroed where the power state runs clusters (R736, R779, R887). -/
def State.takeCluster (s : State) (c : Nat) : State :=
  let s := s.updCl c Cluster.plain
  if decide (s.gaf.state.toNat ≤ 1) && s.gaf.railEn.getLsbD c then
    let s := s.powerCluster c false
    { s with pins := { s.pins with en := s.pins.en ||| enCl c } }
  else s

/-- A stack that a partition takes is active in RUN and TRIM (R78, Table MEM-6). -/
def State.takeStack (s : State) (n : Nat) : State :=
  if decide (s.gaf.state.toNat ≤ 1) && !(s.stack n).failed then s.setStack n 2#2 else s

/-- Clusters and stacks put under scrub for partition p: their stores, slots and registers are overwritten (R779, Table
SEC-6). -/
def State.beginScrub (s : State) (p : Nat) (whole : Bool) (cl st : BitVec 8) : State :=
  let s := (maskBits cl).foldl (fun s c => ((s.zeroCluster c).updCl c Cluster.plain).updTrace c (fun _ => Trace.init)) s
  s.updPart p (fun x =>
    let old := x.scrub.getD (false, 0#8, 0#8)
    { x with scrub := some (whole || old.1, cl ||| old.2.1, st ||| old.2.2), scrubNs := s.nsW })

/-- A partition's masks change: numbers, power of what it gains, scrub of what it loses (R75, R76, R77, R921). -/
def State.ownSet (s : State) (p : Nat) (cl st : BitVec 8) (conf v : Bool) : State :=
  let o := s.own p
  let s := s.updPart p (fun x => { x with lmap := renumber x.lmap cl })
  let s := s.coverTouch.updOwn p (fun _ => { clusters := cl, stks := st, conf := conf, v := v })
  let s := (maskBits (cl &&& ~~~o.clusters)).foldl (fun s c => s.takeCluster c) s
  let s := (maskBits (st &&& ~~~o.stks)).foldl (fun s n => s.takeStack n) s
  let lc := o.clusters &&& ~~~cl
  let ls := o.stks &&& ~~~st
  let s := if lc = 0#8 ∧ ls = 0#8 then s else s.beginScrub p false lc ls
  s.settleTrim

/-! ### Link slots (R536, R537, R878) -/

/-- The slot map that a link has, or is about to take. -/
def Link.newMap (x : Link) : BitVec 256 := x.slotmapNew.getD x.slotmap

/-- A slot of a map given to an owner. -/
def slotSet (map : BitVec 256) (i o : Nat) : BitVec 256 :=
  (map &&& ~~~((0xF#256) <<< (4 * i))) ||| ((BitVec.ofNat 256 (o % 16)) <<< (4 * i))

/-- The lowest free slots of a map given to a partition. -/
def giveSlots (map : BitVec 256) (p n : Nat) : BitVec 256 :=
  (((upTo 64).filter (fun i => decide (slotOwner map i > 8))).take n).foldl (fun m i => slotSet m i p) map

/-- The slots of a partition freed. -/
def dropSlots (map : BitVec 256) (p : Nat) : BitVec 256 :=
  (upTo 64).foldl (fun m i => if slotOwner m i = p then slotSet m i 15 else m) map

/-- Every link's map changed at its next frame boundary (R877). -/
def State.mapSlots (s : State) (f : BitVec 256 → BitVec 256) : State :=
  (upTo 7).foldl (fun s l => s.updLink l (fun x => { x with slotmapNew := some (f x.newMap) })) s.coverTouch

/-! ### Creation and change -/

/-- PARAMS of a certificate (Table SEC-2, R755). -/
def State.params (s : State) (p : Nat) : BitVec 64 :=
  let o := s.own p
  BitVec.ofNat 64 (p % 8 + 2 ^ 3 * b2n o.conf + 2 ^ 8 * o.clusters.toNat + 2 ^ 16 * o.stks.toNat +
    2 ^ 24 * (s.gaf.budget.get 0#10 p).toNat + 2 ^ 34 * ((s.part p).share % 128) + 2 ^ 41 * (s.usb.share.get 0#7 p).toNat)

/-- PART_CREATE refused (R72, R73, R537): the number is in use, a unit is taken, or the slots do not suffice. -/
def State.createRefused (s : State) (p : Nat) (cl st : BitVec 8) (share : Nat) : Bool :=
  s.exists? p || (s.part p).scrub.isSome || !s.unitsFree 8 cl st ||
    (upTo 7).any (fun l => decide (slotsFree (dropSlots (s.link l).newMap p) < share))

/-- A partition is created with the parameters of Table PGM-3: its link slots, in place of any that its number had before (R538), its
measurement, its function (R70, R536, R612, R756). -/
def State.createPart (s : State) (p : Nat) (cl st : BitVec 8) (conf : Bool) (budget share : Nat) : State :=
  let s := { s with parts := s.parts.put p { Part.init with share := share } }
  let s := { s with gaf := { s.gaf with budget := s.gaf.budget.put p (BitVec.ofNat 10 budget) } }
  let s := s.mapSlots (fun m => giveSlots (dropSlots m p) p share)
  let s := s.ownSet p cl st conf true
  let s := s.updSecp p (fun x => { SecPart.init with
    epoch := x.epoch, state := 1#2, pm := shake256 (leBytes 8 (s.params p).toNat) })
  s.startFunc p

/-- Whether a cluster may be released: no thread of the partition runs on it and no home lies in its stores (R76). -/
def State.mayRelease (s : State) (p c : Nat) : Bool :=
  (upTo 9).all (fun i => (s.core (coreKey c i)).threads.all (fun t => t.2.st == .free)) &&
    (match s.logCl p c with
      | some l => (s.usedFrames p (1 + 32 * l)).isEmpty && (upTo 8).all (fun q => (s.usedFrames p (4 * q + 32 * l)).isEmpty)
      | none => true)

/-- PART_CHANGE refused (R72, R73, R76, R77). -/
def State.changeRefused (s : State) (p : Nat) (cl st : BitVec 8) : Bool :=
  let o := s.own p
  !o.v || s.scrubbing p || !s.unitsFree p cl st || (maskBits (o.clusters &&& ~~~cl)).any (fun c => !s.mayRelease p c) ||
    (st != o.stks && (s.part p).allocs.any (fun a => a.2.home == 2#2))

/-- Jobs placed on a logical cluster that is released go back to the admission queue. -/
def State.clearLogical (s : State) (p l : Nat) : State :=
  ((s.part p).jobs.filter (fun j => j.2.placed.any (fun x => x.1 == l))).foldl (fun s j =>
    let pl := j.2.placed
    let s := (pl.zip (upTo pl.length)).foldl (fun s y => s.leaveCore p j.1 y.2 y.1.1 y.1.2 true) s
    s.updJob p j.1 (fun x => { x with placed := [], held := [] })) s

/-- PART_CHANGE: the masks change, and the jobs that wait may be placed (R75 to R77). -/
def State.changePart (s : State) (p : Nat) (cl st : BitVec 8) : State :=
  let o := s.own p
  let gone := (maskBits (o.clusters &&& ~~~cl)).filterMap (fun c => s.logCl p c)
  let s := gone.foldl (fun s l => s.clearLogical p l) s
  (s.ownSet p cl st o.conf true).schedule p

/-! ### The scrub (R779 to R781) -/

/-- The scrub of a whole partition begins: keys erased, key epoch raised, counters reset, stores overwritten,
its CSI ports at LP-11 and its TDM ports silent (Table SEC-6). -/
def State.scrubPart (s : State) (p : Nat) : State :=
  let o := s.own p
  let cmd := (s.part p).scrubCmd
  let s := (s.eraseJobKey p).closeSession p
  let s := s.updSecp p (fun x => { SecPart.init with epoch := x.epoch + 1#32, state := 2#2 })
  let s := s.beginScrub p true o.clusters o.stks
  let s := s.updPart p (fun x => { Part.init with
    lmap := x.lmap, share := x.share, scrub := x.scrub, scrubNs := x.scrubNs, scrubCmd := cmd })
  (s.camScrub p).tdmScrub p

/-- SCRUB_START: the partition's last command has completed (R779). -/
def execScrubStart (p : Fin 8) (s : State) : Out :=
  let p := p.val
  whenLive s (
    if (s.part p).scrubCmd.isNone || s.scrubbing p || !(s.func p).cmds.isEmpty then s else s.scrubPart p)

/-- The units that a scrub has finished: HBM reads as zero, clusters are gated, stacks in self-refresh (R78, R779). -/
def State.endScrub (s : State) (p : Nat) : State :=
  match (s.part p).scrub with
  | none => s
  | some x =>
    let s := (maskBits x.2.1).foldl (fun s c =>
      let s := s.gateCluster c
      { s with pins := { s.pins with en := s.pins.en &&& ~~~(enCl c) } }) s
    let s := (maskBits x.2.2).foldl (fun s n => (s.clearRange (n * stackBytes) stackBytes).setStack n 3#2) s
    s.updPart p (fun y => { y with scrub := none })

/-- The port ownerships that name a partition go to none (Table SEC-6). -/
def ownNone (v : BitVec 16) (p : Nat) : BitVec 16 :=
  BitVec.ofNat 16 ((upTo 4).foldl (fun a i => a + 2 ^ (4 * i) * (if bitsAt v.toNat (4 * i) 4 = p then 15 else bitsAt v.toNat (4 * i) 4)) 0)

/-- A destroyed partition leaves: its slots, ports and function are free (Table SEC-6). -/
def State.dropPart (s : State) (p : Nat) : State :=
  let s := s.mapSlots (fun m => dropSlots m p)
  let s := s.camOwn (ownNone s.cam.own p)
  let s := s.audOwn (ownNone s.aud.own p)
  let s := if s.aon.feedOwn.toNat = p then s.setFeedOwn 15#4 else s
  let s := s.stopFunc p
  let s := s.updOwn p (fun _ => Own.init)
  let s := { s with
    gaf := { s.gaf with budget := s.gaf.budget.erase p }
    usb := { s.usb with share := s.usb.share.erase p, funcs := s.usb.funcs.erase p }
    parts := s.parts.erase p }
  s.updSecp p (fun x => { SecPart.init with epoch := x.epoch })

/-! ### What a certificate and a measurement are (R754 to R757) -/

/-- The bytes of a list as a field of n bytes, zero-padded. -/
def fieldN (n : Nat) (l : List Byte) : List Byte := (upTo n).map (fun i => l.getD i 0#8)

/-- An attestation certificate (Table SEC-2); owner 8 is the management owner's. -/
def State.certificate (s : State) (o : Nat) (nonce : List Byte) : List Byte :=
  let x := s.secp o
  let par := if o = 8 then BitVec.ofNat 64 (2 ^ 63) else s.params o
  let body := leBytes 4 0x43545441 ++ leBytes 4 1 ++ leBytes 4 81512 ++ leBytes 4 s.dev.fwver.toNat ++ fieldN 16 Config.serialNo ++
    fieldN 16 Config.orderCode ++ fieldN 64 (identityKey s.sec.rs) ++ b256 s.sec.fwm ++ leBytes 8 par.toNat ++
    b256 (if o = 8 then 0#256 else x.pm) ++ leBytes 8 (if o = 8 then 0 else x.next.toNat) ++ b256 (x.session.getD 0#256) ++
    leBytes 8 s.ns ++ fieldN 64 nonce ++ fieldN 1568 (encapKey s.sec.rs) ++ fieldN 29792 Config.idCert
  body ++ slhSign s.sec.rs (b256 (Config.signRand s.freeCtr)) body

end Sys2Proof.Machine
end

