-- ==== Sys2Proof/Machine/Mgmt.lean ====
section
/-! DEFINITION. The management commands and requests on EP0, failed units and their re-admission (R71, R634 to R637, R643, R654,
R655, R785, R801, R806 to R809, R815, R816, R854). -/
namespace Sys2Proof.Machine

/-! ### Devices lost, quarantined and re-admitted (R806 to R809, R815) -/

/-- The epoch of a node in every device's table: the master's own entry, and broadcast CSR_WR packets to EPTAB_IDX and to EPTAB's
VAL and CHK (R806, Table REG-5). -/
def State.spreadEpoch (s : State) (node : BitVec 18) (e : BitVec 16) : State :=
  let s := s.setEpoch node e
  let wr (s : State) (off v : Nat) : State := s.broadcast
    (withWord { Packet.init with sub := 5#5, addr := BitVec.ofNat 48 (csrBase + off) } v)
  wr (wr (wr s 0x020 node.toNat) 0x024 e.toNat) 0x028 (2 ^ 32 - 1 - e.toNat)

/-- Work that spans a lost node: the fabric commands to it complete ABANDONED, and the jobs whose clusters issued them are FAULTED
(R815, log 50). -/
def State.spanFault (s : State) (node : BitVec 18) : State :=
  (upTo 8).foldl (fun s c =>
    let l := (s.cl c).fab.filter (fun x => x.dstNode == node && !fbPair x.desc)
    if l.isEmpty then s
    else
      let p := (s.ownerCl c).getD 8
      let s := l.foldl (fun s x => s.finishFab c x (dmaStatus stAbandoned 0)) s
      match s.logCl p c with
      | none => s
      | some lg =>
        ((s.part p).jobs.filter (fun j => j.2.placed.any (fun x => x.1 == lg) && j.2.running.isSome)).foldl
          (fun s j => s.endJobStep p j.1) s) s

/-- The master declares a device lost: its epoch rises in every table, its jobs are FAULTED, EV_FAULT_CORE goes to the management
owner (R785, R806, R815). -/
def State.loseDevice (s : State) (node : BitVec 18) (kind : Nat) : State :=
  if s.dev.lostNodes.contains node then s
  else
    let e := nextEpoch (s.dev.eptab.get 0#16 node.toNat)
    let s := { s with dev := { s.dev with lostNodes := s.dev.lostNodes ++ [node] } }
    let s := (s.spreadEpoch node e).spanFault node
    s.postDev 0x03 0 0 0 (relDetail kind 3 0 e.toNat node.toNat 0 0)

/-- A FENCE with VALUE 0: the device ends every partition's work, stops its fabric engines and is quarantined (R808). -/
def State.quarantine (s : State) : State :=
  let s := (upTo 8).foldl (fun s p => if s.exists? p then s.resetPart p else s) s
  { s with dev := { s.dev with quar := true } }

/-- A FENCE with VALUE 1: the device takes its epoch, leaves quarantine and holds no partitions (R809). -/
def State.unquarantine (s : State) (e : BitVec 16) : State :=
  let s := (upTo 8).foldl (fun s p =>
    if s.exists? p then (((s.scrubPart p).endScrub p).dropPart p) else s) s
  let s := s.setEpoch s.dev.node e
  { s.coverTouch with dev := { s.coverTouch.dev with epoch := e, quar := false } }

/-- A quarantined core comes back: zeroed, on the lowest logical number without a physical core, or as the spare (R809). -/
def State.readmitCore (s : State) (k : Nat) : State :=
  let c := keyCl k
  let j := keyCore k
  let s := (s.clearRange (coreStore k 0) 0x400000).updCore k Core.fresh
  match (upTo 8).find? (fun l => (s.physCore c l).isNone) with
  | some l =>
    let s := s.updCl c (fun x => { x with coremap := x.coremap.put l (BitVec.ofNat 4 j), pstate := x.pstate.put j 0#2 })
    match s.ownerCl c with
    | some p => s.schedule p
    | none => s
  | none => s.updCl c (fun x => { x with pstate := x.pstate.put j 1#2 })

/-! ### The package flash (R654, R655) -/

/-- Whether a range of the flash is writable by FLASH_WRITE (Table HST-15). -/
def flashMay (o n : Nat) : Bool := decide (0x1000000 ≤ o) && decide (o + n ≤ 0x4000000)

/-! ### Management commands (Tables HST-9, SEC-3, REL-5) -/

/-- The shape of a management command: arguments used, payload permitted. -/
def mgmtShape (opc : Nat) : Option (Nat × (Nat → Bool)) :=
  match opc with
  | 0x40 => some (5, fun n => n == 0)
  | 0x41 => some (2, fun n => n == 0)
  | 0x42 => some (1, fun n => n == 0)
  | 0x43 => some (1, fun n => n == 0)
  | 0x44 => some (1, fun n => n == 0)
  | 0x45 => some (1, fun n => n == 0)
  | 0x46 => some (2, fun n => n == 0)
  | 0x47 => some (2, fun n => decide (n ≥ 64))
  | 0x48 => some (2, fun n => n == 0)
  | 0x49 => some (0, fun n => decide (n ≥ 64))
  | 0x4A => some (0, fun n => n == 64)
  | 0x4B => some (2, fun n => n == 0)
  | 0x4C => some (2, fun n => n == 0)
  | 0x4D => some (2, fun n => n == 0)
  | _ => none

/-- The checks of R623 on a management command. -/
def mgmtIllegal (opc : Nat) (h : CmdHdr) : Bool :=
  match mgmtShape opc with
  | none => true
  | some (n, len) =>
    let x (i : Nat) : Nat := (CmdArgs h).getD i 0
    h.resv || h.job != 0#32 || ((CmdArgs h).drop n).any (fun a => a != 0) || !len h.payload.length ||
    (match opc with
     | 0x40 => decide (x 0 > 7) || x 1 % 256 == 0 || decide (x 1 ≥ 65536) || decide (x 2 > 1) || decide (x 3 < 1) ||
         decide (x 3 > 800) || decide (x 4 > 64)
     | 0x41 => decide (x 0 > 7) || x 1 % 256 == 0 || decide (x 1 ≥ 65536)
     | 0x42 => decide (x 0 > 7)
     | 0x43 => decide (x 0 > 7)
     | 0x44 => decide (x 0 > 7)
     | 0x45 => decide (x 0 > 7)
     | 0x46 => decide (x 0 > 7)
     | 0x47 => x 0 % 4096 != 0 || x 1 % 4096 != 0
     | 0x48 => x 0 % 4096 != 0 || x 1 % 4096 != 0
     | 0x4B => decide (x 0 > 2) || (if x 0 = 2 then decide (x 1 ≥ 2 ^ 18)
         else decide (x 1 % 16 > 7) || (if x 0 = 0 then decide (x 1 / 16 > 8) else x 1 / 16 != 0))
     | 0x4C => decide (x 0 > 2) || (if x 0 = 2 then decide (x 1 ≥ 2 ^ 18)
         else decide (x 1 % 16 > 7) || (if x 0 = 0 then decide (x 1 / 16 > 8) else x 1 / 16 != 0))
     | 0x4D => decide (x 0 > 7) || decide (x 1 > 1)
     | _ => false)

/-- Whether the data header of a transfer on stream 9 fits its command: TAG, KIND and length (R625, R626). -/
def headerFits (h : CmdHdr) (kind n : Nat) : Bool :=
  let l := h.payload
  recN l 0 4 == h.tag.toNat && recBits l 32 2 == kind && recN l 8 8 == n && decide (l.length ≥ 64 + n)

/-- DECLARE (Table REL-5). -/
def State.declare (s : State) (kind x : Nat) : State :=
  match kind with
  | 0 => s.declareCore (coreKey (x % 16) (x / 16)) 2
  | 1 => if (s.cl (x % 16)).ctl.fenced then s else s.ctlFail (x % 16) 2
  | _ => s.loseDevice (BitVec.ofNat 18 x) 2

/-- Whether READMIT is refused: the unit is not quarantined, or its epoch reads 0xFFFF (Table REL-5). A controller restarts by
itself and is never quarantined. -/
def State.readmitRefused (s : State) (kind x : Nat) : Bool :=
  match kind with
  | 0 => (s.cl (x % 16)).pstate.get 0#2 (x / 16) != 2#2 || (s.cl (x % 16)).pepoch.get 0#16 (x / 16) == 0xFFFF#16
  | 1 => true
  | _ => !s.dev.lostNodes.contains (BitVec.ofNat 18 x) || s.dev.eptab.get 0#16 x == 0xFFFF#16

/-- READMIT (R809). -/
def State.readmit (s : State) (kind x : Nat) : State :=
  match kind with
  | 0 => s.readmitCore (coreKey (x % 16) (x / 16))
  | 1 => s
  | _ =>
    let s := { s with dev := { s.dev with lostNodes := s.dev.lostNodes.filter (fun n => n.toNat != x) } }
    s.fenceNode (BitVec.ofNat 18 x) 1

/-- LOCKSTEP refused: the partition does not exist; or turning it on with no PR link up, or for a confidential partition whose
job holds no key (R775, R854). -/
def State.lockRefused (s : State) (p on : Nat) : Bool :=
  !s.exists? p || (on == 1 && (!s.linkUp 6 || (s.conf p && (s.secp p).jobKey.isNone)))

/-- An image broadcast to the followers as IMAGE packets of at most 256 bytes, each with its offset in ADDR (Table FAB-9). -/
def State.sendImage (s : State) (l : List Byte) : State :=
  (upTo (ceilDiv l.length 256)).foldl (fun s i =>
    let d := pad16 ((l.drop (256 * i)).take 256)
    s.broadcast { Packet.init with sub := 3#5, addr := BitVec.ofNat 48 (256 * i), len := BitVec.ofNat 9 d.length, data := d }) s

/-- The effect of a management command when it starts. -/
def State.runMgmt (s : State) (c : HCmd) : State :=
  let opc := c.opc.toNat
  let h := c.hdr
  let p := h.arg0.toNat
  let ok (s : State) : State := s.completeMgmt c.serial stOk 0 0 0
  let no : State := s.completeMgmt c.serial stRefused 0 0 0
  let bad : State := s.completeMgmt c.serial stFaulted fcIllegal 0 0
  let cl : BitVec 8 := BitVec.ofNat 8 h.arg1.toNat
  let st : BitVec 8 := BitVec.ofNat 8 (h.arg1.toNat / 256)
  if mgmtIllegal opc h then bad
  else match opc with
  | 0x40 => if s.createRefused p cl st h.arg4.toNat then no
    else ok (s.createPart p cl st (h.arg2 == 1#64) h.arg3.toNat h.arg4.toNat)
  | 0x41 => if s.changeRefused p cl st then no else ok (s.changePart p cl st)
  | 0x42 => if !s.exists? p || (s.part p).scrubCmd.isSome then no
    else (s.disableFunc p).updPart p (fun x => { x with scrubCmd := some c.serial })
  | 0x43 => if !s.exists? p || s.scrubbing p then no else ok ((s.resetPart p).schedule p)
  | 0x44 => if !s.exists? p then no else ok ((s.disableFunc p).pump p)
  | 0x45 => if !s.exists? p || s.scrubbing p || (s.func p).st == .draining || (s.part p).scrubCmd.isSome || !s.usbStreams then no
    else if (s.func p).st = .operating then ok s
    else ok (s.startFunc p)
  | 0x46 =>
    let rest := (upTo 8).foldl (fun a q => if q = p then a else a + (s.usb.share.get 0#7 q).toNat) 0
    if h.arg1.toNat > 64 ∨ rest + h.arg1.toNat > 64 then no
    else ok { s.coverTouch with usb := { s.usb with share := s.usb.share.put p (BitVec.ofNat 7 h.arg1.toNat) } }
  | 0x47 =>
    let n := h.arg1.toNat
    if !headerFits h 3 n then bad
    else if !flashMay p n then no
    else ok { s with flash := (upTo n).foldl (fun m i => m.put (p + i) (h.payload.getD (64 + i) 0#8)) s.flash }
  | 0x48 =>
    let n := h.arg1.toNat
    if p + n > 0x4000000 then no
    else { s with usb := { s.usb with
      mgmtIn2 := s.usb.mgmtIn2 ++ [(c.serial + 1, bulk h.tag.toNat 3 ((upTo n).map (fun i => s.flashRd (p + i))))] } }
  | 0x49 =>
    let n := recN h.payload 8 8
    if !headerFits h 2 n then bad else ok (s.sendImage (sliceB h.payload 64 n))
  | 0x4A => s.updSecp 8 (fun x => { x with signQ := x.signQ ++ [(c.serial, h.payload)] })
  | 0x4B => ok (s.declare p h.arg1.toNat)
  | 0x4C => if s.readmitRefused p h.arg1.toNat then no else ok (s.readmit p h.arg1.toNat)
  | 0x4D => if s.lockRefused p h.arg1.toNat then no
    else ok (s.updPart p (fun x => { x with lockstep := h.arg1 == 1#64 }))
  | _ => bad

/-- Bytes of EP2 OUT data, stream 9, that a command takes before it acts: FLASH_WRITE and IMAGE_BCAST; none for one that fails its
checks (R623, R625, Table HST-9). -/
def mgmtBulk (c : HCmd) : Nat :=
  if (c.opc == 0x47#8 || c.opc == 0x49#8) && !mgmtIllegal c.opc.toNat c.hdr then c.hdr.payload.length else 0

/-- The data of a management command arrive in bursts that management owns or borrows; none at full speed, or while no slot is granted
(R609, R616). -/
def State.mgmtData (s : State) (n : Nat) : Option State :=
  if n = 0 then some s
  else if s.usbBulk then s.takeBursts 8 (ceilDiv n burstBytes) else none

/-- Management commands that may start do: a FENCE command after every earlier one has completed (R622, R637), one with data once they
have arrived. -/
def State.mgmtPumpN (s : State) : Nat → State
  | 0 => s
  | n + 1 =>
    let l := s.usb.mgmtCmds
    match l.find? (fun c => !c.started && !l.any (fun (x : HCmd) => decide (x.serial < c.serial) && (c.hdr.fence || !x.started))) with
    | none => s
    | some c => match s.mgmtData (mgmtBulk c) with
      | none => s
      | some s =>
        let s := { s with usb := { s.usb with
          mgmtCmds := l.map (fun (x : HCmd) => if x.serial = c.serial then { x with started := true } else x) } }
        State.mgmtPumpN (s.runMgmt c) n

/-- Every management command that may start does. -/
def State.mgmtPump (s : State) : State := s.mgmtPumpN s.usb.mgmtCmds.length

/-- EP0 answers STALL (R635, R636). -/
def State.ep0Stall (s : State) : State := { s with usb := { s.usb with ep0 := [], stall := true } }
/-- EP0 answers with a data stage. -/
def State.ep0Data (s : State) (l : List W32) : State := { s with usb := { s.usb with ep0 := l, stall := false } }

/-- Whether EP0 takes vendor requests beside BOOT_STATUS: the port is connected, firmware runs, and the device is a master
(R615, R636). -/
def State.ep0Open (s : State) : Bool := s.usb.connected && s.boot.running && s.dev.master

/-- MGMT_CMD: a command header on EP0, decided at once (R71, R634, R637). -/
def mgmtRow (opc : Nat) (h : CmdHdr) (s : State) : Out :=
  whenLive s (
    if !s.usb.connected then s
    else if !s.ep0Open then s.ep0Stall
    else
      let n := s.usb.mgmtSerial
      let c : HCmd := { serial := n, opc := BitVec.ofNat 8 opc, hdr := h, started := false, tArr := s.nsW, err := .none }
      let s := { s with usb := { s.usb with mgmtSerial := n + 1, mgmtCmds := s.usb.mgmtCmds ++ [c], stall := false, ep0 := [] } }
      s.mgmtPump)

/-- PART_CREATE (R70 to R72). -/
def execPartCreate (h : CmdHdr) (s : State) : Out := mgmtRow 0x40 h s
/-- PART_CHANGE (R75 to R77). -/
def execPartChange (h : CmdHdr) (s : State) : Out := mgmtRow 0x41 h s
/-- PART_DESTROY (R638, R779). -/
def execPartDestroy (h : CmdHdr) (s : State) : Out := mgmtRow 0x42 h s
/-- PART_RESET (R112). -/
def execPartReset (h : CmdHdr) (s : State) : Out := mgmtRow 0x43 h s
/-- FUNC_DISABLE (R638). -/
def execFuncDisable (h : CmdHdr) (s : State) : Out := mgmtRow 0x44 h s
/-- FUNC_ENABLE (R643). -/
def execFuncEnable (h : CmdHdr) (s : State) : Out := mgmtRow 0x45 h s
/-- USB_SHARE (R616). -/
def execUsbShare (h : CmdHdr) (s : State) : Out := mgmtRow 0x46 h s
/-- FLASH_WRITE (R655). -/
def execFlashWrite (h : CmdHdr) (s : State) : Out := mgmtRow 0x47 h s
/-- FLASH_READ (R655). -/
def execFlashRead (h : CmdHdr) (s : State) : Out := mgmtRow 0x48 h s
/-- IMAGE_BCAST (Table FAB-9). -/
def execImageBcast (h : CmdHdr) (s : State) : Out := mgmtRow 0x49 h s
/-- DEV_ATTEST (R754). -/
def execDevAttest (h : CmdHdr) (s : State) : Out := mgmtRow 0x4A h s
/-- DECLARE (R785). -/
def execDeclare (h : CmdHdr) (s : State) : Out := mgmtRow 0x4B h s
/-- READMIT (R809). -/
def execReadmit (h : CmdHdr) (s : State) : Out := mgmtRow 0x4C h s
/-- LOCKSTEP (R854). -/
def execLockstep (h : CmdHdr) (s : State) : Out := mgmtRow 0x4D h s

/-! ### Other requests on EP0 (Table HST-8) -/

/-- MGMT_RESULT: the oldest unread management completion, or a zero-length data stage (R634). -/
def execMgmtResult (s : State) : Out :=
  whenLive s (
    if !s.usb.connected then s
    else if !s.ep0Open then s.ep0Stall
    else match s.usb.mgmtOut with
      | [] => s.ep0Data []
      | c :: t => ({ s with usb := { s.usb with mgmtOut := t } } : State).ep0Data c.words)

/-- BOOT_STATUS: the boot code in byte 0, the firmware version in bytes 4 to 7 (R634, R636). -/
def execBootStatus (s : State) : Out :=
  whenLive s (
    if !s.usb.connected then s else s.ep0Data [s.bootCode.setWidth 32, s.dev.fwver])

end Sys2Proof.Machine
end

