-- ==== Sys2Proof/Machine/Security.lean ====
section
/-! DEFINITION. The SEC block: the signer, the hash engine, sealed records, key erasure, the end of a scrub, lock-step
signatures (R757, R761, R762, R779, R783, R784, R855, R857, R888). -/
namespace Sys2Proof.Machine

/-! ### The signer and the hash engine (R757) -/

/-- SIGNER_TURN: the turn passes to the next owner, which makes at most one certificate in it (R754, R757). -/
def execSignerTurn (s : State) : Out :=
  whenLive s (
    let o := (s.sec.signTurn + 1) % 9
    let s := { s with sec := { s.sec with signTurn := o } }
    match (s.secp o).signQ with
    | [] => s
    | q :: t =>
      let l := s.certificate o q.2
      let s := State.updSecp { s with freeCtr := s.freeCtr + 1 } o (fun x => { x with signQ := t })
      if o = 8 then
        match s.usb.mgmtCmds.find? (fun c => c.serial == q.1) with
        | none => s
        | some c => { s with usb := { s.usb with mgmtIn2 := s.usb.mgmtIn2 ++ [(c.serial + 1, bulk c.hdr.tag.toNat 0 l)] } }
      else match (s.func o).cmds.find? (fun c => c.serial == q.1) with
        | none => s
        | some c => s.sendData o c l)

/-- A measurement has hashed its range: PM := SHAKE256(PM ‖ h), NEXT + 1, DETAIL0 := NEXT (R756, Table SEC-3). -/
def State.measured (s : State) (o serial : Nat) (l : List Byte) : State :=
  let x := s.secp o
  let pm := shake256 (b256 x.pm ++ b256 (shake256 l))
  let s := s.updSecp o (fun y => { y with pm := pm, next := x.next + 1#64 })
  (s.complete o serial stOk 0 (x.next + 1#64).toNat 0).pump o

/-- HASH_SLOT: the slot passes to the next owner, whose oldest MEASURE takes at most 4 KiB in it; a page in motion lets the
slot pass (R104), and one that has become unreadable ends it FAULTED without effect (R756, R757). -/
def execHashSlot (fails : MemErr) (s : State) : Out :=
  whenLive s (
    let o := (s.sec.hashTurn + 1) % 9
    let s := { s with sec := { s.sec with hashTurn := o } }
    match (s.secp o).hashQ with
    | [] => s
    | (serial, va, left, got) :: t =>
      let n := min 4096 left
      if s.mvPart o va n then s
      else
        let s := s.hostMeets o [(va, n)] false fails
        match s.hostRead o va n with
        | .inr f => (((s.hostMiss o va n fails).updSecp o (fun x => { x with hashQ := t })).complete o serial stFaulted f 0 0).pump o
        | .inl l =>
          if left ≤ 4096 then (s.updSecp o (fun x => { x with hashQ := t })).measured o serial (got ++ l)
          else s.updSecp o (fun x => { x with hashQ := (serial, va + n, left - n, got ++ l) :: t }))

/-! ### The end of a scrub (R779, R780) -/

/-- SCRUB_DONE: the zero-fill has ended. After a PART_DESTROY the partition is gone and the command completes with the
scrub's duration in DETAIL0 (Table SEC-6). -/
def execScrubDone (p : Fin 8) (s : State) : Out :=
  let p := p.val
  let x := s.part p
  whenLive s (
    match x.scrub with
    | none => s
    | some _ =>
      if x.scrubCmd.isNone then
        let s := s.endScrub p
        (if s.exists? p then s else s.updSecp p (fun y => { y with state := 0#2 })).mgmtPump
      else if !s.scrubbing p then s
      else
        let d := s.ns - x.scrubNs.toNat
        let s := ((s.endScrub p).dropPart p).settleTrim
        (s.completeMgmt (x.scrubCmd.getD 0) stOk 0 d 0).mgmtPump)

/-! ### Key erasure (R783, R888) -/

/-- A committed value of SEC.KEY_ERASE: sessions close and job keys are erased. -/
def State.keyErase (s : State) (v : W32) : State :=
  (upTo 8).foldl (fun s p => if v.getLsbD p then (s.eraseJobKey p).closeSession p else s) s

/-! ### Sealed records (R761, R762) -/

/-- A command header of the EP1 stream (Table HST-3). -/
def headerOf (l : List Byte) (payload : List Byte) : CmdHdr :=
  let plen := recBits l 96 12
  { fence := recBits l 8 1 == 1
    resv := recBits l 9 23 != 0 || recBits l 108 20 != 0 || plen % 64 != 0 || decide (plen > 4032)
    tag := BitVec.ofNat 32 (recN l 4 4), job := BitVec.ofNat 32 (recN l 8 4)
    arg0 := BitVec.ofNat 64 (recN l 16 8), arg1 := BitVec.ofNat 64 (recN l 24 8), arg2 := BitVec.ofNat 64 (recN l 32 8)
    arg3 := BitVec.ofNat 64 (recN l 40 8), arg4 := BitVec.ofNat 64 (recN l 48 8), arg5 := BitVec.ofNat 64 (recN l 56 8)
    payload := payload }

/-- Bytes of the first transfer of an EP2 OUT stream: its header and its data, padded to a multiple of 64 (R625). -/
def transferLen (l : List Byte) : Nat := 64 + ceilDiv (recN l 8 8) 64 * 64

/-- Host-request data at the front of a function's EP2 plaintext reach their request (R627). -/
def State.takeHostData (s : State) (p : Nat) : Nat → State
  | 0 => s
  | n + 1 =>
    let l := (s.secp p).ep2
    if l.length < 64 || l.length < transferLen l || recBits l 32 2 != 1 then s
    else
      let s := s.updSecp p (fun x => { x with ep2 := l.drop (transferLen l) })
      let num := recN l 0 4
      let data := sliceB l 64 (recN l 8 8)
      State.takeHostData (s.hostArrive p num data) p n

/-- Commands at the front of a function's EP1 plaintext arrive while it holds fewer than 256, a WRITE once its data are there (R619,
R620, R626). -/
def State.takeCmds (s : State) (p : Nat) : Nat → State
  | 0 => s
  | n + 1 =>
    let s := s.takeHostData p ((s.secp p).ep2.length / 64)
    let l := (s.secp p).ep1
    let plen := recBits l 96 12
    let opc := recN l 0 1
    let e2 := (s.secp p).ep2
    if l.length < 64 + plen then s
    else if s.funcFull p then s.notReady p
    else if opc = 0x0C then
      if e2.length < 64 || e2.length < transferLen e2 then s
      else
        let s := s.updSecp p (fun x => { x with ep1 := l.drop (64 + plen), ep2 := e2.drop (transferLen e2) })
        State.takeCmds (s.arriveCmd p opc (headerOf l (e2.take (transferLen e2))) .none) p n
    else
      let s := s.updSecp p (fun x => { x with ep1 := l.drop (64 + plen) })
      State.takeCmds (s.arriveCmd p opc (headerOf l (sliceB l 64 plen)) .none) p n

/-- The plaintext of a sealed record that is the next of its channel and whose tag verifies (R761, R762, Table SEC-4). -/
def State.openRecord (s : State) (p : Nat) (data : List Byte) : Option (List Byte) :=
  let x := s.secp p
  let n := recN data 0 4
  let chan := recN data 4 1
  let ctr := recN data 8 8
  if n < 1 ∨ n > 16384 ∨ chan > 2 ∨ recN data 5 3 ≠ 0 ∨ data.length ≠ 32 + n ∨ ctr ≠ (x.rxCtr.get 0#64 chan).toNat then none
  else gcmOpen (x.keys.setWidth 256) (sealNonce ctr chan false) (data.take 16) (sliceB data 16 n) (data.drop (16 + n))

/-- The commands that a function's plaintext holds arrive, as far as it has room (R620). -/
def State.takeAll (s : State) (p : Nat) : State := s.takeCmds p ((s.secp p).ep1.length / 64 + 1)

/-- A sealed record is taken: one that is out of order or whose tag fails closes the session, and its arrival is D of the function
(R761, R762). -/
def State.takeRecord (s : State) (p : Nat) (data : List Byte) : State :=
  match s.openRecord p data with
  | none => (s.disableFunc p).closeSession p
  | some l =>
    let chan := recN data 4 1
    let s := s.updSecp p (fun x => { x with
      rxCtr := x.rxCtr.upd 0#64 chan (fun v => v + 1#64)
      ep1 := if chan = 0 then x.ep1 ++ l else x.ep1
      ep2 := if chan = 1 then x.ep2 ++ l else x.ep2 })
    s.takeAll p

/-- SEALED_RECORD: a record arrives at a function with an open session; EP1 is not ready while it holds 256 commands (R613, R620,
R761). -/
def execSealedRecord (p : Fin 8) (data : List Byte) (s : State) : Out :=
  let p := p.val
  whenLive s (
    if !s.boot.running || !s.portOpen || (s.func p).st == .off || (s.secp p).session.isNone then s
    else if recN data 4 1 = 0 && s.funcFull p then s.notReady p
    else s.inBursts p data.length (fun s => s.takeRecord p data))

/-! ### Lock-step signatures (R855, R857) -/

/-- The bytes of a signature that has come from the partner; of a confidential partition they open under the job key (R775). -/
def State.openSig (s : State) (p ctr : Nat) (l : List Byte) : Option (List Byte) :=
  if !s.conf p then some l
  else
    let n := s.dev.node.toNat
    (s.secp p).jobKey.bind (fun key => gcmOpen key (linkNonce n n false ctr) [] (l.take (l.length - 16)) (l.drop (l.length - 16)))

/-- SIGNATURE_RECEIVE: a partner's signature arrives over PR and is compared with the own one, or waits for it; one that does not open
is an authentication drop (R771, R775, R855). -/
def execSignatureReceive (p : Fin 8) (ctr : Nat) (data : List Byte) (s : State) : Out :=
  let p := p.val
  whenLive s (
    if !s.linkUp 6 || (!(s.part p).lockstep && !(s.part p).jobs.any (fun j => j.2.lock)) then s
    else match s.openSig p ctr data with
      | none => s.authDrop p
      | some l => ((s.updPart p (fun x => { x with peerSigs := x.peerSigs ++ [sigOf l s.nsW] })).matchSigs p).pump p)

/-- LOCKSTEP_TIMEOUT: the partner's signature has not come 10 ms after the own one: comparison stops with cause 4 (R857). -/
def execLockstepTimeout (p : Fin 8) (job n core : Nat) (s : State) : Out :=
  let p := p.val
  whenLive s (match (s.part p).sigs.find? (fun r => r.job == job && r.n == n && r.core == core) with
    | none => s
    | some r =>
      if s.ns < r.ns.toNat + 10000000 then s
      else ((s.stopLock p).lockTrigger p 4 core n 0 0 (job % 65536)).pump p)

/-! ### Registers (Tables SEC-7 and REG-7) -/

/-- A register of the SEC block; management reads a confidential partition's authentication drops as zero (R775, R784). -/
def State.secRd (s : State) (mgmt : Bool) (off : Nat) : W32 :=
  if off % 4 ≠ 0 then 0#32
  else if off = 0 then BitVec.ofNat 32 (b2n s.sec.pufOk + 2 * b2n s.sec.drbgOk + 4 * b2n s.confAny)
  else if 0x100 ≤ off ∧ off < 0x120 then
    let p := (off - 0x100) / 4
    let x := s.secp p
    BitVec.ofNat 32 (x.state.toNat + 4 * b2n (s.conf p) + 8 * b2n x.session.isSome + 16 * b2n x.jobKey.isSome)
  else if 0x140 ≤ off ∧ off < 0x160 then (s.secp ((off - 0x140) / 4)).epoch
  else if 0x180 ≤ off ∧ off < 0x1A0 then
    let p := (off - 0x180) / 4
    if mgmt && s.conf p then 0#32 else (s.secp p).authDrop
  else if off = 0x1C0 then s.sec.freezeIgn
  else if off = 0x1C4 then s.sec.csrIgn
  else 0#32

end Sys2Proof.Machine
end

