-- ==== Sys2Proof/Machine/Faults.lean ====
section
/-! DEFINITION. Failed controllers, lost devices and pair partners, liveness (R785, R801 to R803, R813, R815, R832 to R834). -/
namespace Sys2Proof.Machine

/-- ALIVE: a cluster controller writes its liveness register; a fenced one writes nothing (R785, R805). -/
def execAlive (c : Fin 8) (s : State) : Out :=
  let x := s.cl c.val
  whenLive s (
    if !x.powered || x.ctl.fenced || x.ctl.stopped || x.ctl.halted then s
    else s.updCl c.val (fun y => { y with aliveNs := s.nsW }))

/-- CTL_SILENCE: a controller that has not written ALIVE for 200 µs is declared failed; one halted at a breakpoint is not
(R785, R801, R833). -/
def execCtlSilence (c : Fin 8) (s : State) : Out :=
  let x := s.cl c.val
  whenLive s (
    if !x.powered || x.ctl.fenced || x.ctl.halted || decide (s.ns < x.aliveNs.toNat + 200000) then s
    else s.ctlFail c.val 4)

/-- CTL_RESTART_DONE: the restarted controller runs from the image's entry; one whose epoch is used up stays fenced (R801,
R802, R804). -/
def execCtlRestartDone (c : Fin 8) (s : State) : Out :=
  let x := s.cl c.val
  whenLive s (if !x.powered || !x.ctl.fenced || x.ctlEpoch == 0xFFFF#16 then s else s.startCtl c.val)

/-- Whether a node lies within the fabric's sizes. -/
def State.inFabric (s : State) (node : BitVec 18) : Bool :=
  (upTo 3).all (fun d => decide (coord node.toNat d < s.ringSize d))

/-- DEVICE_LOST: the master declares a device lost, whose six torus links have failed or which has answered nothing for 10 ms
(R785, R806, R815). -/
def execDeviceLost (node : BitVec 18) (s : State) : Out :=
  whenLive s (
    if !s.dev.master || !s.dev.geom || node == s.dev.node || !s.inFabric node then s else s.loseDevice node 5)

/-- PR_PARTNER_TIMEOUT: after a failure of PR no answer has come within 500 µs: the partner is lost, EV_FAULT_CORE goes out with
KIND 6, and lock-step stops; an answer leaves only the link's own event (R813, R814, R857). -/
def execPrPartnerTimeout (alive : Bool) (s : State) : Out :=
  whenLive s (
    if alive || (s.link 6).state != 5#3 || !s.dev.master then s
    else
      let s := s.postDev 0x03 0 0 0 (relDetail 6 0 0 0 s.dev.node.toNat 0 0)
      (upTo 8).foldl (fun s p =>
        if (s.part p).lockstep || (s.part p).jobs.any (fun j => j.2.lock) then
          match (s.part p).sigs.head? with
          | some r => ((s.stopLock p).lockTrigger p 4 r.core r.n 0 0 (r.job % 65536)).pump p
          | none => (s.stopLock p).lockTrigger p 4 (8 * ((s.logCl p (s.lead p)).getD 0)) 0 0 0 0
        else s) s)

/-- RESUME_CL: the controllers named restart where they halted (R834). -/
def execResumeCl (v : Byte) (s : State) : Out :=
  whenLive s ((upTo 8).foldl (fun s c => if v.getLsbD c then s.updCtl (some c) (fun t => { t with halted := false }) else s) s)

end Sys2Proof.Machine
end

