-- ==== Sys2Proof/Machine/Debug.lean ====
section
/-! DEFINITION. The DBG block, Dailies' registers, the freeze, and the test access port (R775, R835 to R840, R842 to R851, R911 to
R913). -/
namespace Sys2Proof.Machine

/-! ### Dailies (R842, R850, R851) -/

/-- Whether 4 MiB of a cluster's store are free for the carve-out (R842). -/
def State.carveFits (s : State) (c : Nat) : Bool :=
  (s.trace c).carve || ((s.cl c).powered && (match s.ownerCl c with
    | none => false
    | some p => match s.logCl p c with
      | none => false
      | some l => decide (64 ≤ s.clusterRoom p l)))

/-- Whether the spill region of a cluster lies in an HBM range that its partition owns (R850). -/
def State.spillFits (s : State) (c : Nat) : Bool :=
  let t := s.trace c
  let a := t.spillBase.toNat
  let n := t.spillSize.toNat
  match s.ownerCl c with
  | none => false
  | some p => decide (0 < n) && decide (a + n ≤ 8 * stackBytes) &&
      (upTo 8).all (fun st => decide (a + n ≤ st * stackBytes) || decide ((st + 1) * stackBytes ≤ a) || s.ownerSt st == some p)

/-- A write of TRACE_CFG (R842, R850, R851): MODE 3 is out of range (R863). -/
def State.traceCfg (s : State) (c : Nat) (v : W32) : State :=
  let t := s.trace c
  let cfg := v &&& 0x0FFFFFFF#32
  if bitsAt v.toNat 1 2 = 3 then s.csrRejected
  else if !v.getLsbD 0 then s.updTrace c (fun t => { t with cfg := cfg, state := 0#2, carve := false })
  else if t.state = 1#2 ∨ t.state = 2#2 then s
  else if t.cfg.getLsbD 0 then s.updTrace c (fun t => { t with cfg := cfg })
  else if !s.carveFits c || (v.getLsbD 8 && !s.spillFits c) then s.updTrace c (fun t => { t with noroom := true })
  else s.updTrace c (fun t => { t with
    cfg := cfg, state := 1#2, trig := false, wrptr := 0#32, trigPos := 0#32, buf := [], post := 0, written := 0, carve := true })

/-- TRACE_ENABLE: a write of TRACE_CFG of a cluster (R842, R851). -/
def execTraceEnable (c : Fin 8) (v : W32) (s : State) : Out := whenLive s (s.traceCfg c.val v)

/-- MISSED_TRIG written with 0 clears, and the next missed trigger latches MISSED_SLATE again (R847, R851). -/
def State.clearMissed (s : State) (c : Nat) (v : W32) : State :=
  if v = 0#32 then s.updTrace c (fun t => { t with missed := 0#32 }) else s

/-- MISSED_TRIG_CLEAR. -/
def execMissedTrigClear (c : Fin 8) (v : W32) (s : State) : Out := whenLive s (s.clearMissed c.val v)

/-- A write to DBG.TRIG: a trigger of cause 2 for every cluster with XTRIG (R844). -/
def State.dbgTrig (s : State) : State := s.trigger none 2 0 0 0 0 0 0

/-- TRIG: by the device controller or the management owner; no other requester reaches the DBG block (R844, R860). -/
def execTrig (r : Requester) (s : State) : Out :=
  whenLive s (match r with
    | .devCtl => s.dbgTrig
    | .mgmt => s.dbgTrig
    | .clCtl _ => s
    | .walker => s)

/-! ### Registers of the DBG block (Table REG-10, R851) -/

/-- A register of the DBG block. -/
def State.dbgRd (s : State) (off : Nat) : W32 :=
  if off % 4 ≠ 0 then 0#32
  else if off = 0 then s.dbg.freeze.setWidth 32
  else if off = 0x00C then s.dbg.indSel.setWidth 32
  else if 0x100 ≤ off ∧ off < 0x300 then
    let t := s.trace ((off - 0x100) / 0x40)
    match (off - 0x100) % 0x40 with
    | 0x00 => t.cfg
    | 0x04 => BitVec.ofNat 32 (t.state.toNat + 4 * b2n t.noroom + 8 * b2n t.trig)
    | 0x08 => t.wrptr
    | 0x0C => t.trigPos
    | 0x10 => t.missed
    | 0x18 => t.missedNs.setWidth 32
    | 0x1C => BitVec.ofNat 32 (t.missedNs.toNat / 2 ^ 32)
    | 0x20 => t.spillBase.setWidth 32
    | 0x24 => BitVec.ofNat 32 (t.spillBase.toNat / 2 ^ 32)
    | 0x28 => t.spillSize
    | _ => 0#32
  else 0#32

/-- SPILL_BASE and SPILL_SIZE keep their values while the buffer records (log 51). -/
def State.spillWr (s : State) (c : Nat) (f : Trace → Trace) : State :=
  s.updTrace c (fun t => if t.state = 1#2 ∨ t.state = 2#2 then t else f t)

/-- A register of the DBG block written. -/
def State.dbgWr (s : State) (off : Nat) (v : W32) : State :=
  if off % 4 ≠ 0 then s
  else if off = 0x004 then s.dbgTrig
  else if off = 0x008 then
    (upTo 8).foldl (fun s c => if v.getLsbD c then s.updCtl (some c) (fun t => { t with halted := false }) else s) s
  else if off = 0x00C then { s with dbg := { s.dbg with indSel := v.setWidth 3 } }
  else if 0x100 ≤ off ∧ off < 0x300 then
    let c := (off - 0x100) / 0x40
    match (off - 0x100) % 0x40 with
    | 0x00 => s.traceCfg c v
    | 0x04 => s.updTrace c (fun t => { t with noroom := t.noroom && !v.getLsbD 2 })
    | 0x10 => s.clearMissed c v
    | 0x20 => s.spillWr c (fun t => { t with spillBase := BitVec.ofNat 40 (t.spillBase.toNat / 2 ^ 32 * 2 ^ 32 + v.toNat) })
    | 0x24 => s.spillWr c (fun t => { t with spillBase := BitVec.ofNat 40 (t.spillBase.toNat % 2 ^ 32 + v.toNat * 2 ^ 32) })
    | 0x28 =>
      if v.toNat % 0x400000 ≠ 0 ∨ v.toNat < 0x400000 ∨ v.toNat > 0x40000000 then s.csrRejected
      else s.spillWr c (fun t => { t with spillSize := v })
    | _ => s
  else s

/-- A word of the trace buffer of the cluster in IND_SEL, by indirect address (Table REG-1, R841). -/
def State.traceRd (s : State) (ia : Nat) : W32 :=
  let t := s.trace s.dbg.indSel.toNat
  let i := ia / 32
  if ia % 4 ≠ 0 ∨ i ≥ t.n then 0#32
  else if t.cfg.getLsbD 8 then BitVec.ofNat 32 (s.rdVal (t.spillBase.toNat + ia) 4)
  else BitVec.ofNat 32 (bitsAt (t.buf.get 0#256 i).toNat (8 * (ia % 32)) 32)

/-! ### The freeze (R775, R835 to R837) -/

/-- Every clock domain stops; HBM contents, pre-roll samples and link state are not kept (R835, R837, log 52). -/
def State.freezeAll (s : State) : State :=
  let s := s.clearRange 0 (8 * stackBytes)
  { s with
    dbg := { s.dbg with freeze := BitVec.allOnes 25 }
    aon := { s.aon with ringMem := [], adpcm := [], ringFrom := s.aon.sampleNo.toNat / 256 }
    links := [] }

/-- FREEZE_PIN: FREEZE_N stays low for 200 ns: the device freezes, or counts the assertion while a confidential partition exists
(R775, R835). -/
def execFreezePin (s : State) : Out :=
  let s := { s with pins := { s.pins with freezeN := false } }
  if !s.pins.vddAon || s.dbg.freeze != 0#25 then .next s
  else if s.confAny then .next { s with sec := { s.sec with freezeIgn := satInc s.sec.freezeIgn } }
  else .next s.freezeAll

/-! ### The test access port (R838 to R840, R911 to R913, Tables DBG-4 and PIN-8) -/

/-- Whether the TAP is powered: VDDIO_18 is a main rail. -/
def State.tapLive (s : State) : Bool := s.pins.vddAon && !s.pins.mainOff

/-- The bits of a value, the least significant first. -/
def bitList (n v : Nat) : List Bool := (upTo n).map (fun i => bitAt v i)

/-- An instruction loaded into the TAP, with the bits that it shifts out. Pins go back to their functions. -/
def State.tapLoad (s : State) (ir : Nat) (out : List Bool) : State :=
  { s with dbg := { s.dbg with ir := BitVec.ofNat 8 ir, tdo := out, pinCtl := 0#2 } }

/-- BYPASS loaded, or in the place of an instruction that is not accepted: one bit that captures 0. -/
def State.tapBypass (s : State) : State := s.tapLoad 0xFF [false]

/-- An instruction that R840 allows only without a confidential partition. -/
def tapRow (s x : State) : Out := if !s.tapLive then .next s else if s.confAny then .next s.tapBypass else .next x

/-- An instruction that takes control of the pins, only while RESET_N is low or the device is frozen (R913). -/
def State.tapPins (s : State) (ir : Nat) (ctl : BitVec 2) : State :=
  if s.pins.resetN && s.dbg.freeze == 0#25 then s.tapBypass
  else
    let s := s.tapLoad ir []
    { s with dbg := { s.dbg with pinCtl := ctl } }

/-- FREEZE: the device freezes at Update-IR, with BYPASS selected (R835, Table DBG-4). -/
def execFreeze (s : State) : Out := tapRow s ((s.tapLoad 0x20 [false]).freezeAll)

/-- CHAIN_SEL: a scan chain is chosen (R838). -/
def execChainSel (n : BitVec 16) (s : State) : Out :=
  tapRow s (let s := s.tapLoad 0x21 []
    { s with dbg := { s.dbg with chain := n } })

/-- CHAIN_OUT: the chosen chain of a frozen device, zeros of a running one; the state does not change (R839). What each bit is,
Fenevehan's scan map says (log 14). -/
def execChainOut (s : State) : Out :=
  tapRow s (
    let l := Config.scanChain s.freeCtr s.dbg.chain
    let s := { s with freeCtr := s.freeCtr + 1 }
    if s.dbg.freeze = 0#25 then s.tapLoad 0x22 (l.map (fun _ => false)) else s.tapLoad 0x22 l)

/-- MEM_OUT: the data and check bits of an SRAM word of a frozen device, zeros of a running one (R839, log 14). -/
def execMemOut (v : BitVec 72) (s : State) : Out :=
  tapRow s (
    if s.dbg.freeze = 0#25 then s.tapLoad 0x23 (List.replicate 72 false)
    else
      let d : BitVec 64 := BitVec.ofNat 64 (s.rdVal (Config.memOutAddr v) 8)
      s.tapLoad 0x23 (bitList 64 d.toNat ++ bitList 8 (Config.checkBits d).toNat))

/-- DBG_CSR: an access to a register of the DBG block: address in [23:0], data in [63:32] (Table DBG-4). A frozen device takes no
write (log 53). -/
def execDbgCsr (v : W64) (write : Bool) (s : State) : Out :=
  tapRow s (
    let a := bitsAt v.toNat 0 24
    let d : W32 := BitVec.ofNat 32 (v.toNat / 2 ^ 32)
    let mine : Bool := decide (0x40000 ≤ a) && decide (a < 0x50000)
    let r := if mine && !write then s.dbgRd (a - 0x40000) else 0#32
    let s := if mine && write && s.live then s.dbgWr (a - 0x40000) d else s
    let x : BitVec 64 := BitVec.ofNat 64 (a + 2 ^ 32 * (if write then d else r).toNat)
    let s := s.tapLoad 0x24 (bitList 64 x.toNat)
    { s with dbg := { s.dbg with tapData := x } })

/-- IDCODE: 0x1544_014B is shifted out (R911). -/
def execIdcode (s : State) : Out := if s.tapLive then .next (s.tapLoad 0x01 (bitList 32 0x1544014B)) else .next s

/-- BYPASS. -/
def execBypass (s : State) : Out := if s.tapLive then .next s.tapBypass else .next s

/-- SAMPLE/PRELOAD: the boundary register takes the cells shifted in (R911; the cells, which the BSDL lists, log 14). -/
def execSamplePreload (cells : SMap (BitVec 1)) (s : State) : Out :=
  tapRow s (let s := s.tapLoad 0x02 []
    { s with dbg := { s.dbg with bsr := cells } })

/-- EXTEST: the pins follow the boundary register (R913). -/
def execExtest (s : State) : Out := tapRow s (s.tapPins 0x03 1#2)
/-- EXTEST_PULSE (IEEE 1149.6, R913). -/
def execExtestPulse (s : State) : Out := tapRow s (s.tapPins 0x04 1#2)
/-- EXTEST_TRAIN (IEEE 1149.6, R913). -/
def execExtestTrain (s : State) : Out := tapRow s (s.tapPins 0x05 1#2)
/-- CLAMP: the pins follow the boundary register, with BYPASS selected (R913). -/
def execClamp (s : State) : Out := tapRow s (s.tapPins 0x06 1#2)
/-- HIGHZ: outputs are in high impedance (R913). -/
def execHighz (s : State) : Out := tapRow s (s.tapPins 0x07 2#2)

/-- The TAP as its reset leaves it: IDCODE selected, pins at their functions (R912; IEEE 1149.1). -/
def State.tapReset (s : State) : State :=
  { s with dbg := { s.dbg with ir := 1#8, tdo := [], pinCtl := 0#2, bsr := [], chain := 0#16, tapData := 0#64 } }

/-- TAP_RESET: TRST_N is low, or VDDIO_18 rises (R912). -/
def execTapReset (s : State) : Out := .next s.tapReset

end Sys2Proof.Machine
end

