-- ==== Sys2Proof/Machine/Hbm.lean ====
section
/-! DEFINITION. HBM stacks: their registers, refresh, row repair and failure (R454 to R458, R463, R464). -/
namespace Sys2Proof.Machine

/-- A register of an HBM block (Table MEM-6, R463); an address that the block does not define reads zero. While the firmware
starts, the stacks train (R649, log 60). -/
def State.hbmRd (s : State) (n ia : Nat) : W32 :=
  let h := s.stack n
  match ia with
  | 0x000 => BitVec.ofNat 32 ((if s.starting then 1 else h.state.toNat) + 4 * b2n h.failed + 256 * h.repaired.toNat + 65536 * b2n h.exhausted)
  | 0x010 => h.ce
  | 0x014 => h.ue
  | 0x020 => BitVec.ofNat 32 (h.logAddr.toNat / 64 * 64)
  | 0x024 => BitVec.ofNat 32 (h.logAddr.toNat / 2 ^ 32)
  | 0x028 => h.logInfo
  | _ => 0#32

/-- A write to an HBM block: only ELOG_INFO.VALID and MORE act; VALID clears the log (R464). -/
def State.hbmWr (s : State) (n ia : Nat) (v : W32) : State :=
  if ia ≠ 0x028 then s
  else s.updStack n (fun h =>
    if v.getLsbD 0 then { h with logInfo := 0#32, logAddr := 0#40 }
    else if v.getLsbD 1 then { h with logInfo := h.logInfo &&& ~~~2#32 } else h)

/-- HBM_REFRESH: a per-bank refresh command of an active stack; no content changes (R454). A stack in self-refresh gets
none. -/
def execHbmRefresh (st : Fin 8) (s : State) : Out :=
  whenLive s (if (s.stack st.val).state = 2#2 then
    s.updStack st.val (fun h => { h with refreshes := h.refreshes + 1 }) else s)

/-- ROW_REPAIR_DONE: the oldest soft repair of a stack completes: the row's granules lie in the spare row, poisoned ones
stay poisoned, and the firmware records the row in the flash; with no spare row left the row stays as it is and EXHAUSTED is set
(R455 to R457). -/
def execRowRepairDone (st : Fin 8) (spare : Bool) (s : State) : Out :=
  whenLive s (match (s.stack st.val).repairing with
    | [] => s
    | r :: t =>
      if spare then (s.recordRepair st.val r).updStack st.val (fun h => { h with
        repairing := t, repaired := if h.repaired = 0xFF#8 then h.repaired else h.repaired + 1#8 })
      else s.updStack st.val (fun h => { h with repairing := t, exhausted := true }))

/-- STACK_FAIL: a stack fails as a whole: every later access to its range fails, and EV_MEM_UE goes out (R458, log 21). -/
def execStackFail (st : Fin 8) (s : State) : Out :=
  whenLive s (if (s.stack st.val).failed then s
    else
      let s := s.updStack st.val (fun h => { h with failed := true })
      (s.hbmLog (st.val * stackBytes) 2).postMemUe (s.ownerSt st.val) st.val (st.val * stackBytes))

end Sys2Proof.Machine
end

