-- ==== Sys2Proof/Machine/Csr.lean ====
section
/-! DEFINITION. The CSR space: direct registers, indirect pairs, dangerous registers, the configuration CRC, and the blocks that
have no file of their own (R859 to R885, R887, R890, Table REG-10). -/
namespace Sys2Proof.Machine

/-! ### Names of registers

A direct register is named by its CSR offset; a register behind pair k is named by 2^24 · (k + 1) plus its indirect address.
Pairs: 0 USB, 1 ETH, 2 CAM, 3 ISP, 4 AUD, 5 AON, 6 to 13 HBM, 14 to 20 LNK, 21 to 28 CL, 29 the trace pair of DBG (Table
REG-1). -/

/-- The base of the block of a pair. -/
def pairBase (k : Nat) : Nat :=
  if k < 6 then 0x50000 + 0x10000 * k
  else if k < 14 then 0x100000 + 0x10000 * (k - 6)
  else if k < 21 then 0x200000 + 0x10000 * (k - 14)
  else if k < 29 then 0x400000 + 0x100000 * (k - 21)
  else 0x40000

/-- The offset of IND_ADDR from the base of its block (R864). -/
def pairRegs (k : Nat) : Nat := if 21 ≤ k ∧ k < 29 then 0xFFF00 else 0xFF00

/-- The pair and the register (0 IND_ADDR, 1 IND_DATA, 2 IND_CTL, 3 IND_STAT) at a CSR offset. -/
def pairAt (off : Nat) : Option (Nat × Nat) :=
  (upTo 30).findSome? (fun k =>
    let b := pairBase k + pairRegs k
    if b ≤ off ∧ off < b + 16 ∧ off % 4 = 0 then some (k, (off - b) / 4) else none)

/-- The pair of a block, by the offset of the block's base. -/
def pairOfBase (blk : Nat) : Option Nat := (upTo 30).find? (fun k => pairBase k == blk)

/-- The pair of a register's name; none when it is reached directly. -/
def idPair (id : Nat) : Option Nat := if id < 2 ^ 24 then none else some (id / 2 ^ 24 - 1)
/-- The address of a register's name: its CSR offset or its indirect address. -/
def idAddr (id : Nat) : Nat := id % 2 ^ 24
/-- The name of an indirect address behind a pair; the CSR space ends at 16 MiB, and so does every block. -/
def pairId (k ia : Nat) : Nat := 2 ^ 24 * (k + 1) + ia

/-- The CSR offset that DANGER_ADDR and a reader's rights go by: the register's own, or the base of its block (R874). -/
def idOffset (id : Nat) : Nat := match idPair id with
  | none => idAddr id
  | some k => pairBase k

/-! ### Rights (R293, R463, R775, R860) -/

/-- Whether a requester reaches the block at an offset: the management owner and the device controller, which acts for it, every
block (Table PGM-2, log 18), a cluster controller its own CL block. -/
def Requester.reaches (r : Requester) (off : Nat) : Bool := match r with
  | .mgmt => true
  | .walker => true
  | .devCtl => true
  | .clCtl c => off / 0x100000 == 4 + c.val

/-- Whether a confidential partition owns a cluster. -/
def State.confCl (s : State) (c : Nat) : Bool := match s.ownerCl c with
  | some p => s.conf p
  | none => false

/-- Whether the clock domain of a pair runs (R870, Table PWR-1). -/
def State.pairOn (s : State) (k : Nat) : Bool :=
  s.live && (
    if k = 1 then s.ethOn
    else if k = 2 ∨ k = 3 then s.camPowered
    else if k = 4 then s.pins.audMclk && decide (s.gaf.state.toNat ≤ 2)
    else if 14 ≤ k ∧ k < 21 then
      let x := s.link (k - 14)
      !x.en || x.state != 0#3
    else if 21 ≤ k ∧ k < 29 then (s.cl (k - 21)).powered
    else true)

/-! ### The DEV block (Table REG-5) -/

/-- A register of the DEV block. -/
def State.devRd (s : State) (off : Nat) : W32 :=
  let d := s.dev
  match off with
  | 0x000 => BitVec.ofNat 32 (0x5000B040 + 65536 * d.bin.toNat)
  | 0x004 => BitVec.ofNat 32 (s.bootCode.toNat + 16 * b2n d.master + 32 * b2n d.bootSrc + 64 * b2n d.quar + 128 * b2n d.geom)
  | 0x008 => d.node.setWidth 32
  | 0x00C => d.sizes.setWidth 32
  | 0x010 => d.fwver
  | 0x014 => d.epoch.setWidth 32
  | 0x020 => d.eptabIdx.setWidth 32
  | 0x024 => (d.eptab.get 0#16 d.eptabIdx.toNat).setWidth 32
  | 0x040 => d.test.setWidth 32
  | 0x080 => BitVec.ofNat 32 (b2n d.crcEn)
  | 0x084 => d.crcRef
  | 0x088 => d.crcLast
  | 0x08C => BitVec.ofNat 32 (b2n d.crcValid + 2 * b2n d.crcArmed + 4 * b2n d.crcMatch + 16 * d.crcSkip.toNat + 65536 * d.crcRskip.toNat)
  | 0x0A0 => d.dangerErr
  | 0x0A4 => d.dangerAddr.setWidth 32
  | 0x0A8 => d.csrRej
  | _ =>
    if 0x100 ≤ off ∧ off < 0x180 ∧ off % 16 = 0 then
      let o := s.own ((off - 0x100) / 16)
      BitVec.ofNat 32 (o.clusters.toNat + 256 * o.stks.toNat + 65536 * b2n o.conf + 131072 * b2n o.v)
    else 0#32

/-- DEV.CFG_CRC_REF written: the check is armed against this value and the last pass's SKIP (R883). -/
def State.crcRefWr (s : State) (v : W32) : State :=
  { s with dev := { s.dev with crcRef := v, crcArmed := true, crcRskip := s.dev.crcSkip, crcDrift := false } }

/-- A register of the DEV block written; dangerous ones are not written here. -/
def State.devWr (s : State) (off : Nat) (v : W32) : State :=
  match off with
  | 0x020 => { s with dev := { s.dev with eptabIdx := v.setWidth 18 } }
  | 0x080 => { s with dev := { s.dev with crcEn := v.getLsbD 0 } }
  | 0x084 => s.crcRefWr v
  | _ => s

/-! ### The USB, ETH and LNK blocks (Table REG-10, R583) -/

/-- A register of the USB block. -/
def State.usbRd (s : State) (ia : Nat) : W32 :=
  if ia = 0 then s.usb.speed.setWidth 32
  else if 0x10 ≤ ia ∧ ia < 0x30 ∧ ia % 4 = 0 then (s.usb.share.get 0#7 ((ia - 0x10) / 4)).setWidth 32
  else 0#32

/-- A register of the USB block written: a share that does not fit its frame is out of range (R616, R863). -/
def State.usbWr (s : State) (ia : Nat) (v : W32) : State :=
  if 0x10 ≤ ia ∧ ia < 0x30 ∧ ia % 4 = 0 then
    let p := (ia - 0x10) / 4
    let rest := (upTo 8).foldl (fun a q => if q = p then a else a + (s.usb.share.get 0#7 q).toNat) 0
    if rest + v.toNat % 128 > 64 then s.csrRejected
    else { s with usb := { s.usb with share := s.usb.share.put p (v.setWidth 7) } }
  else s

/-- A register of the ETH block. -/
def State.ethRd (s : State) (ia : Nat) : W32 :=
  if ia = 0 then s.eth.setWidth 32
  else if ia = 4 then BitVec.ofNat 32 (s.eth.toNat / 2 ^ 32)
  else if ia = 8 then BitVec.ofNat 32 (b2n s.ethUp)
  else 0#32

/-- A register of the ETH block written. -/
def State.ethWr (s : State) (ia : Nat) (v : W32) : State :=
  if ia = 0 then { s with eth := BitVec.ofNat 48 (s.eth.toNat / 2 ^ 32 * 2 ^ 32 + v.toNat) }
  else if ia = 4 then { s with eth := BitVec.ofNat 48 (s.eth.toNat % 2 ^ 32 + v.toNat * 2 ^ 32) }
  else s

/-- A register of a LNK block (Table FAB-11). -/
def State.lnkRd (s : State) (n ia : Nat) : W32 :=
  let x := s.link n
  if ia % 4 ≠ 0 then 0#32
  else if ia = 0 then
    BitVec.ofNat 32 (x.state.toNat + 8 * x.laneOk.toNat + 2048 * b2n x.wiring + 4096 * x.peer.toNat)
  else if ia = 8 then BitVec.ofNat 32 (b2n x.en + 2 * b2n x.full + 4 * x.deg.toNat)
  else if 0x40 ≤ ia ∧ ia < 0x60 then BitVec.ofNat 32 (bitsAt x.slotmap.toNat (8 * (ia - 0x40)) 32)
  else if 0x100 ≤ ia ∧ ia ≤ 0x120 then x.cnt.get 0#32 ia
  else 0#32

/-- LNK.CFG takes a value: a disabled link is off, an enabled one trains; only the management owner sets FULL (R580, R583). -/
def State.lnkCfg (s : State) (r : Requester) (n : Nat) (v : W32) : State :=
  s.updLink n (fun x =>
    let en := v.getLsbD 0
    { x with
      en := en, full := v.getLsbD 1 && (r == .mgmt || x.full), deg := BitVec.ofNat 8 (v.toNat / 4)
      state := if !en then 0#3 else if !x.en then 1#3 else x.state
      trainNs := if en && !x.en then s.nsW else x.trainNs })

/-! ### The CL blocks (Tables REG-9, DBG-2 and REL-7) -/

/-- Where the high word of a counter is latched for a requester (R890). -/
def latchKey (r : Requester) (k n : Nat) : Nat := (Requester.num r * 256 + k) * 4096 + n

/-- The count that a reader of the core sub-blocks sees: zero in a confidential partition (R775). -/
def State.cntSeen (s : State) (k n : Nat) : Nat :=
  if !cntListed n || s.confCl (keyCl k) then 0 else (s.counter k n).toNat

/-- A read of a counter's low word latches its high word for the reader (R890). -/
def State.cntLow (s : State) (r : Requester) (k n : Nat) : W32 × State :=
  let v := s.cntSeen k n
  (BitVec.ofNat 32 v, { s with latches := s.latches.put (latchKey r k n) (BitVec.ofNat 32 (v / 2 ^ 32)) })

/-- A word of a breakpoint (R825). -/
def Bp.word (b : Bp) (o : Nat) : W32 := match o with
  | 0 => b.ctl
  | 4 => b.lo
  | 8 => b.hi
  | 12 => b.hits
  | _ => 0#32

/-- A word of a breakpoint written: BPn_HITS is maintained by the part. A write of BPn_CTL begins a new count of matches. -/
def Bp.put (b : Bp) (o : Nat) (v : W32) : Bp := match o with
  | 0 => { b with ctl := v, seen := 0 }
  | 4 => { b with lo := v }
  | 8 => { b with hi := v &&& 0xFFFF#32 }
  | _ => b

/-- A word of a fault record (Table REG-9). -/
def FaultRec.word (f : FaultRec) (o : Nat) : W32 :=
  let lo (x : BitVec 48) : W32 := x.setWidth 32
  let hi (x : BitVec 48) : W32 := BitVec.ofNat 32 (x.toNat / 2 ^ 32)
  match o with
  | 0x00 => BitVec.ofNat 32 (f.code.toNat + 256 * b2n f.v)
  | 0x04 => lo f.pc
  | 0x08 => hi f.pc
  | 0x0C => lo f.entry
  | 0x10 => hi f.entry
  | 0x14 => lo f.va
  | 0x18 => hi f.va
  | 0x1C => f.imm
  | _ => 0#32

/-- A word of a core sub-block. -/
def State.coreRd (s : State) (r : Requester) (k o : Nat) : W32 × State :=
  if o % 4 ≠ 0 then (0#32, s)
  else if o = 0 then (BitVec.ofNat 32 (b2n (s.core k).full), s)
  else if 0x100 ≤ o ∧ o < 0x500 then
    let n := (o - 0x100) / 8
    if o % 8 = 0 then s.cntLow r k n else (s.latches.get 0#32 (latchKey r k n), s)
  else if 0x800 ≤ o ∧ o < 0x880 then (((s.core k).bp.get Bp.init ((o - 0x800) / 16)).word (o % 16), s)
  else if 0x1000 ≤ o ∧ o < 0x1800 then ((s.thr k ((o - 0x1000) / 32)).flt.word (o % 32), s)
  else (0#32, s)

/-- A word of the table registers of a CL block: the value written last, in force or not yet (R890). -/
def State.tableRd (s : State) (c o : Nat) : W32 :=
  let x := s.cl c
  let w (n : Nat) : W32 := BitVec.ofNat 32 n
  x.clPend.get (match o with
    | 0 => w x.ptRoot.toNat
    | 4 => w (x.ptRoot.toNat / 2 ^ 32)
    | 8 => w x.reelBase.toNat
    | 12 => w (x.reelBase.toNat / 2 ^ 32)
    | 16 => w x.reelN.toNat
    | 24 => w x.fqBase.toNat
    | 28 => w (x.fqBase.toNat / 2 ^ 32)
    | 32 => w x.fqSize.toNat
    | _ => 0#32) o

/-- A register of a CL block. -/
def State.clRd (s : State) (r : Requester) (c ia : Nat) : W32 × State :=
  let x := s.cl c
  if r = .mgmt ∧ s.confCl c then (0#32, s)
  else if ia < 0x90000 then s.coreRd r (coreKey c (ia / 0x10000)) (ia % 0x10000)
  else if ia % 4 ≠ 0 then (0#32, s)
  else if ia < 0x90024 then (s.tableRd c (ia - 0x90000), s)
  else if ia = 0xA0000 then (BitVec.ofNat 32 (x.wdog.toNat + 512 * x.policy.toNat + 2048 * b2n x.ckpt), s)
  else if 0xA0100 ≤ ia ∧ ia < 0xA0124 then
    let k := (ia - 0xA0100) / 4
    (if k = 8 then 15#32 else (x.coremap.get 0#4 k).setWidth 32, s)
  else if 0xA0200 ≤ ia ∧ ia < 0xA0224 then
    let j := (ia - 0xA0200) / 4
    (BitVec.ofNat 32 ((x.pstate.get 0#2 j).toNat + 65536 * (x.pepoch.get 0#16 j).toNat), s)
  else if ia = 0xA0300 then (x.ctlEpoch.setWidth 32, s)
  else if ia = 0xA0308 then (x.fenceDrop, s)
  else if 0xB0000 ≤ ia ∧ ia < 0xB0080 then ((x.ctl.bp.get Bp.init ((ia - 0xB0000) / 16)).word (ia % 16), s)
  else (0#32, s)

/-- Whether a write to a breakpoint word has an effect: only the management owner arms one here (R826). -/
def bpMay (r : Requester) (o : Nat) (v : W32) : Bool := r == .mgmt || !(o == 0 && v.getLsbD 0)

/-- A register of a CL block written (R775, R826, R890). -/
def State.clWr (s : State) (r : Requester) (c ia : Nat) (v : W32) : State :=
  let pend (o : Nat) : State := s.updCl c (fun x => { x with clPend := x.clPend.put o v })
  if r = .mgmt ∧ s.confCl c then { s with sec := { s.sec with csrIgn := satInc s.sec.csrIgn } }
  else if ia % 4 ≠ 0 then s
  else if ia < 0x90000 then
    let k := coreKey c (ia / 0x10000)
    let o := ia % 0x10000
    if o = 0 then s.updCore k (fun x => { x with full := v.getLsbD 0 })
    else if 0x800 ≤ o ∧ o < 0x880 then
      (if bpMay r (o % 16) v && !(s.confCl c && o % 16 == 0 && v.getLsbD 0) then
        s.updCore k (fun x => { x with bp := x.bp.upd Bp.init ((o - 0x800) / 16) (fun b => b.put (o % 16) v) })
      else s)
    else s
  else match ia with
    | 0x90000 => pend 0
    | 0x90004 => s.updCl c (fun x => { x with clPend := x.clPend.put 4 (v &&& 0xFF#32) })
    | 0x90008 => pend 8
    | 0x9000C => s.updCl c (fun x => { x with clPend := x.clPend.put 12 (v &&& 0xFF#32) })
    | 0x90010 => if v.toNat % 8192 > 4096 then s.csrRejected
      else s.updCl c (fun x => { x with clPend := x.clPend.put 16 (v &&& 0x1FFF#32) })
    | 0x90018 => pend 24
    | 0x9001C => s.updCl c (fun x => { x with clPend := x.clPend.put 28 (v &&& 0xFF#32) })
    | 0x90020 => if v.toNat % 8192 < 16 ∨ v.toNat % 8192 > 4096 then s.csrRejected
      else s.updCl c (fun x => { x with clPend := x.clPend.put 32 (v &&& 0x1FFF#32) })
    | 0xA0304 => if v.getLsbD 0 then s.updCl c (fun x => { x with aliveNs := s.nsW }) else s
    | _ =>
      if 0xB0000 ≤ ia ∧ ia < 0xB0080 ∧ bpMay r (ia % 16) v then
        s.updCtl (some c) (fun t => { t with bp := t.bp.upd Bp.init ((ia - 0xB0000) / 16) (fun b => b.put (ia % 16) v) })
      else s

/-! ### The configuration CRC (R879 to R884) -/

/-- The bits of a covered word that are RW fields or a committed dangerous value; 0: the word is not covered (R879). -/
def coverMask (k : Option Nat) (a : Nat) : Nat :=
  if a % 4 ≠ 0 then 0
  else match k with
  | none =>
    if a = 0x14 then 0xFFFF
    else if a = 0x40 then 0xF
    else if 0x100 ≤ a ∧ a < 0x180 ∧ a % 16 = 0 then 0x3FFFF
    else if a = 0x1000C then 0x3FF
    else if a = 0x10010 then 0x77
    else if a = 0x10014 then 1
    else if a = 0x10018 then 0xFF
    else if 0x10020 ≤ a ∧ a ≤ 0x10028 then 0xFFFF
    else if 0x10030 ≤ a ∧ a < 0x10050 then 0x3F
    else if 0x10060 ≤ a ∧ a < 0x10080 then 0x3FF
    else if a = 0x10080 then 0x1FFF
    else if a = 0x20020 then 0xFF
    else if a = 0x30000 then 0x1F
    else if a = 0x3000C ∨ a = 0x300D0 then 0xF
    else if a = 0x30018 ∨ a = 0x3001C then 0xFFFFFFFF
    else if a = 0x30010 ∨ a = 0x30014 ∨ a = 0x30028 ∨ a = 0x3002C then 0xFFFFFF
    else if 0x30040 ≤ a ∧ a < 0x300A0 ∧ a % 32 ≤ 24 then 0xFFFFFF
    else 0
  | some 0 => if 0x10 ≤ a ∧ a < 0x30 then 0x7F else 0
  | some 1 => if a = 0 then 0xFFFFFFFF else if a = 4 then 0xFFFF else 0
  | some 2 =>
    if a < 0x400 ∧ a % 0x100 = 0 then 0xFFFF0007
    else if a = 0x800 then 0xFFFF
    else if 0x1000 ≤ a ∧ a < 0x1200 then (entMask (a % 8 == 4)).toNat
    else if 0x2000 ≤ a ∧ a < 0x2400 ∧ a % 0x40 < 0x20 then 0xFFFFFFFF
    else 0
  | some 4 =>
    if a < 0x400 ∧ a % 0x100 = 0 then 0x3F
    else if a < 0x400 ∧ (a % 0x100 = 8 ∨ a % 0x100 = 12) then 0xFFFFFFFF
    else if a = 0x800 then 0xFFFF
    else if 0x2000 ≤ a ∧ a < 0x2200 ∧ a % 0x80 ≤ 0x64 then 0xFFFFFFFF
    else if 0x3000 ≤ a ∧ a < 0x3100 then 0xFFFFFFFF
    else 0
  | some 5 =>
    if a = 0 then 0xFFF
    else if a = 8 then 0xFFFF
    else if a = 0x10 then 0xF
    else if a = 0x20 then 0x1F
    else if a = 0x24 then 0xFF
    else if 0x40 ≤ a ∧ a < 0x60 then 0x3FFFF
    else if 0x80 ≤ a ∧ a < 0xC0 then 0xFFFFFFFF
    else if 0xD0 ≤ a ∧ a < 0xE0 then 0xFFFFFFFF
    else 0
  | some k =>
    if 14 ≤ k ∧ k < 21 then (if a = 8 then 0x3FD else if 0x40 ≤ a ∧ a < 0x60 then 0xFFFFFFFF else 0) else 0

/-- The addresses below n that are covered in a block. -/
def coverAddrs (k : Option Nat) (base n : Nat) : List Nat :=
  ((upTo (n / 4)).map (fun i => base + 4 * i)).filter (fun a => coverMask k a != 0)

/-- The blocks behind pairs that the CRC covers, in ascending base, each with its bit of SKIP and the span of its addresses
(R880, R881). -/
def coverPairs : List (Nat × Nat × Nat) :=
  [(0, 7, 0x30), (1, 8, 8), (2, 9, 0x2400), (4, 10, 0x3100), (5, 11, 0xE0)] ++ (upTo 7).map (fun n => (14 + n, n, 0x60))

/-- A covered word: its value with every other bit zero. -/
def State.coverWord (s : State) (k : Option Nat) (a : Nat) : W32 :=
  let v : W32 := match k with
    | none =>
      if a < 0x10000 then s.devRd a
      else if a < 0x20000 then s.gafRd (a - 0x10000)
      else if a < 0x30000 then 0#32
      else (s.timeRd 10 (a - 0x30000)).1
    | some 0 => s.usbRd a
    | some 1 => s.ethRd a
    | some 2 => s.camRd a
    | some 4 => s.audRd a
    | some 5 => s.aonRd a
    | some k => s.lnkRd (k - 14) a
  v &&& BitVec.ofNat 32 (coverMask k a)

/-- The SKIP mask of a pass: the covered blocks whose domain does not run (R881). -/
def State.crcSkipNow (s : State) : BitVec 12 :=
  BitVec.ofNat 12 (coverPairs.foldl (fun m x => if s.pairOn x.1 then m else m + 2 ^ x.2.1) 0)

/-- The result of a pass over the covered words (R880). -/
def State.crcPass (s : State) : W32 :=
  let direct := (coverAddrs none 0 0x180 ++ coverAddrs none 0x10000 0x84 ++ coverAddrs none 0x20000 0x24 ++
    coverAddrs none 0x30000 0xD4).map (fun a => s.coverWord none a)
  let pairs := coverPairs.flatMap (fun x =>
    if s.pairOn x.1 then (coverAddrs (some x.1) 0 x.2.2).map (fun a => s.coverWord (some x.1) a) else [])
  BitVec.ofNat 32 (crc32c (direct ++ pairs))

/-- CRC_PASS_START: a pass starts, not in LISTEN; one that still runs becomes void (R881, R882). -/
def execCrcPassStart (s : State) : Out :=
  whenLive s (
    if !s.dev.crcEn || s.gaf.state == 3#3 then s
    else { s with dev := { s.dev with crcRun := some s.dev.crcRun.isSome } })

/-- CRC_PASS_END: a pass completes; one that is not void, while the check is armed and the same blocks were left out, is
compared with REF, and the first difference posts EV_CFG_DRIFT (R882 to R884). -/
def execCrcPassEnd (s : State) : Out :=
  whenLive s (match s.dev.crcRun with
    | none => s
    | some void =>
      let last := s.crcPass
      let skip := s.crcSkipNow
      let d := s.dev
      let cmp : Bool := !void && d.crcArmed && skip == d.crcRskip
      let same : Bool := last == d.crcRef
      let s := { s with dev := { d with
        crcRun := none, crcLast := last, crcValid := !void, crcSkip := skip
        crcMatch := if cmp then same else d.crcMatch
        crcDrift := if cmp then !same else d.crcDrift } }
      if cmp && !same && !d.crcDrift then
        s.postDev 0x02 9 0 0 (last.toNat + 2 ^ 32 * d.crcRef.toNat + 2 ^ 64 * skip.toNat)
      else s)

/-- CFG_CRC_REF: the reference written (R883). -/
def execCfgCrcRef (v : W32) (s : State) : Out := whenLive s (s.crcRefWr v)

/-! ### Dangerous registers (R871 to R877) -/

/-- Whether a name is that of a VAL word (Table REG-4). -/
def dangerVal (id : Nat) : Bool :=
  let a := idAddr id
  match idPair id with
  | none => a == 0x14 || a == 0x24 || a == 0x40 || (decide (0x100 ≤ a) && decide (a < 0x180) && a % 16 == 0) || a == 0x10080 || a == 0x20020
  | some 2 => a == 0x800
  | some 4 => a == 0x800
  | some 5 => a == 0x10
  | some k => decide (14 ≤ k) && decide (k < 21) && (a == 8 || (decide (0x40 ≤ a) && decide (a < 0x60) && a % 4 == 0))

/-- The VAL word of a CHK word's name. -/
def dangerChk (id : Nat) : Option Nat :=
  let b := if (match idPair id with | some k => decide (14 ≤ k) && decide (k < 21) | none => false) && decide (idAddr id ≥ 0x60) then id - 0x20 else id - 4
  if dangerVal b && !dangerVal id then some b else none

/-- Whether a VAL word belongs to a slot map, a register of eight words. -/
def mapWord (id : Nat) : Bool := match idPair id with
  | some k => decide (14 ≤ k) && decide (k < 21) && decide (0x40 ≤ idAddr id) && decide (idAddr id < 0x60)
  | none => false

/-- Where a requester's pending value of a VAL word is kept (R873). -/
def dangerKey (r : Requester) (id : Nat) : Nat := Requester.num r * 2 ^ 32 + id

/-- The VAL words of the register that a VAL word belongs to. -/
def dangerWords (id : Nat) : List Nat :=
  if mapWord id then (upTo 8).map (fun i => 2 ^ 24 * (id / 2 ^ 24) + 0x40 + 4 * i) else [id]

/-- Every pending word of a requester's register discarded (R877). -/
def State.dangerDrop (s : State) (r : Requester) (id : Nat) : State :=
  { s with danger := (dangerWords id).foldl (fun m i => m.erase (dangerKey r i)) s.danger }

/-- A failure of R874: counted, its address latched, and every pending word of the register discarded. -/
def State.dangerFail (s : State) (r : Requester) (id : Nat) : State :=
  let s := s.dangerDrop r id
  { s with dev := { s.dev with dangerErr := satInc s.dev.dangerErr, dangerAddr := BitVec.ofNat 24 (idOffset id) } }

/-- OWNp takes a value: a partition appears, changes its masks, or ends with a scrub (R72 to R77, R885, log 54). -/
def State.ownCommit (s : State) (p : Nat) (v : W32) : State :=
  let cl : BitVec 8 := v.setWidth 8
  let st : BitVec 8 := BitVec.ofNat 8 (v.toNat / 256)
  let conf := v.getLsbD 16
  if v.getLsbD 17 then
    if cl = 0#8 then s.csrRejected
    else if s.exists? p then
      (if conf != s.conf p || s.changeRefused p cl st then s.csrRejected else s.changePart p cl st)
    else if s.createRefused p cl st 0 then s.csrRejected
    else s.createPart p cl st conf (s.gaf.budget.get 0#10 p).toNat 0
  else if !s.exists? p then s
  else if (s.part p).scrubCmd.isSome then s.csrRejected
  else
    let s := (s.resetPart p).scrubPart p
    let sc := (s.part p).scrub
    let s := ((s.dropPart p).updPart p (fun x => { x with scrub := sc, scrubNs := s.nsW })).updSecp p (fun x => { x with state := 2#2 })
    s.settleTrim

/-- The value of the words of a slot map that a requester has pending. -/
def State.slotValue (s : State) (r : Requester) (id : Nat) : BitVec 256 :=
  BitVec.ofNat 256 (((dangerWords id).zip (upTo 8)).foldl (fun a x =>
    a + (s.danger.get Danger.init (dangerKey r x.1)).val.toNat * 2 ^ (32 * x.2)) 0)

/-- Whether every nibble of a slot map names an owner that Table FAB-3 lists (R535). -/
def slotMapOk (m : BitVec 256) : Bool := (upTo 64).all (fun i => decide (slotOwner m i ≤ 8) || slotOwner m i == 15)

/-- Whether a slot map leaves every partition of the device its slots on a link, as the map last committed gives them (R536). -/
def State.slotsKept (s : State) (l : Nat) (m : BitVec 256) : Bool :=
  let old := (s.link l).slotmapNew.getD (s.link l).slotmap
  (upTo 64).all (fun i => slotOwner m i == slotOwner old i ||
    (!s.exists? (slotOwner m i) && !s.exists? (slotOwner old i)))

/-- A dangerous register takes a value, if its chapter's rules permit it (R872, R876). -/
def State.dangerCommit (s : State) (r : Requester) (id : Nat) (v : W32) : State :=
  let a := idAddr id
  let s := if coverMask (idPair id) a = 0 then s else s.coverTouch
  match idPair id with
  | none =>
    if a = 0x14 then
      let old := s.dev.epoch
      let s := { s with dev := { s.dev with epoch := v.setWidth 16 } }
      if s.dev.master && s.dev.epoch != old then s.newMaster else s
    else if a = 0x24 then
      s.setEpoch s.dev.eptabIdx (v.setWidth 16)
    else if a = 0x40 then
      if v.toNat % 16 > 2 ∨ (v.toNat % 16 ≠ 0 ∧ (upTo 8).any (fun p => s.exists? p) = true) then s.csrRejected
      else { s with dev := { s.dev with test := v.setWidth 4 } }
    else if a = 0x10080 then { s with gaf := { s.gaf with railEn := v.setWidth 13 } }
    else if a = 0x20020 then s.keyErase v
    else s.ownCommit ((a - 0x100) / 16) v
  | some 2 => if s.portOwnOk (v.setWidth 16) then s.camOwn (v.setWidth 16) else s.csrRejected
  | some 4 => if s.portOwnOk (v.setWidth 16) then s.audOwn (v.setWidth 16) else s.csrRejected
  | some 5 =>
    let n := v.toNat % 16
    if n = 15 ∨ (n < 8 ∧ s.exists? n = true) then s.setFeedOwn (v.setWidth 4) else s.csrRejected
  | some k =>
    if a = 8 then s.lnkCfg r (k - 14) v
    else
      let m := s.slotValue r id
      if slotMapOk m && s.slotsKept (k - 14) m then s.updLink (k - 14) (fun x => { x with slotmapNew := some m }) else s.csrRejected

/-- A VAL word written: it is pending for its writer, in the place of an earlier one (R873). -/
def State.dangerValWr (s : State) (r : Requester) (id : Nat) (v : W32) : State :=
  let d : Danger := { val := v, atCyc := s.cycle, ok := false }
  { s with danger := s.danger.put (dangerKey r id) d }

/-- A CHK word written: it is compared with the writer's own pending value (R872 to R874, R877). -/
def State.dangerChkWr (s : State) (r : Requester) (id : Nat) (v : W32) : State :=
  match s.danger.find (dangerKey r id) with
  | none => s.dangerFail r id
  | some d =>
    if d.ok || v != ~~~d.val then s.dangerFail r id
    else if s.cycle > d.atCyc + 64 then (s.dangerFail r id).dangerFail r id
    else if !mapWord id then (s.dangerDrop r id).dangerCommit r id d.val
    else
      let s := { s with danger := s.danger.put (dangerKey r id) { d with ok := true } }
      if (dangerWords id).all (fun i => (s.danger.get Danger.init (dangerKey r i)).ok) then
        (s.dangerCommit r id d.val).dangerDrop r id
      else s

/-! ### Reads and writes by name -/

/-- A register behind a pair whose domain runs. -/
def State.pairRd (s : State) (r : Requester) (k ia : Nat) : W32 × State :=
  match k with
  | 0 => (s.usbRd ia, s)
  | 1 => (s.ethRd ia, s)
  | 2 => (s.camRd ia, s)
  | 3 => (s.ispRd ia, s)
  | 4 => (s.audRd ia, s)
  | 5 => (s.aonRd ia, s)
  | 29 => (s.traceRd ia, s)
  | k =>
    if k < 14 then (s.hbmRd (k - 6) ia, s)
    else if k < 21 then (s.lnkRd (k - 14) ia, s)
    else s.clRd r (k - 21) ia

/-- A register behind a pair whose domain runs, written. -/
def State.pairWr (s : State) (r : Requester) (k ia : Nat) (v : W32) : State :=
  match k with
  | 0 => s.usbWr ia v
  | 1 => s.ethWr ia v
  | 2 => s.camWr ia v
  | 3 => s.ispWr ia v
  | 4 => s.audWr ia v
  | 5 => s.aonWr ia v
  | 29 => s
  | k =>
    if k < 14 then s.hbmWr (k - 6) ia v
    else if k < 21 then s
    else s.clWr r (k - 21) ia v

/-- A direct register. -/
def State.directRd (s : State) (r : Requester) (off : Nat) : W32 × State :=
  match off / 0x10000 with
  | 0 => (s.devRd off, s)
  | 1 => (s.gafRd (off - 0x10000), s)
  | 2 => (s.secRd (r == .mgmt) (off - 0x20000), s)
  | 3 => s.timeRd (Requester.num r) (off - 0x30000)
  | 4 => (s.dbgRd (off - 0x40000), s)
  | _ => (0#32, s)

/-- A direct register written. -/
def State.directWr (s : State) (off : Nat) (v : W32) : State :=
  match off / 0x10000 with
  | 0 => s.devWr off v
  | 1 => s.gafWr (off - 0x10000) v
  | 3 => s.timeWr (off - 0x30000) v
  | 4 => s.dbgWr (off - 0x40000) v
  | _ => s

/-- A write to a register by its name, dangerous ones included; a write to a covered word voids the pass (R862, R871, R882). -/
def State.regWr (s : State) (r : Requester) (id : Nat) (v : W32) : State :=
  if !Requester.reaches r (idOffset id) then s
  else if dangerVal id then s.dangerValWr r id v
  else match dangerChk id with
    | some b => s.dangerChkWr r b v
    | none =>
      let s := if coverMask (idPair id) (idAddr id) = 0 then s else s.coverTouch
      match idPair id with
      | none => s.directWr (idAddr id) v
      | some k => s.pairWr r k (idAddr id) v

/-! ### Indirect pairs (R864 to R870) -/

/-- Where a requester's bank of a pair is kept (R865). -/
def bankKey (r : Requester) (k : Nat) : Nat := 16 * k + Requester.num r
/-- A requester's bank of a pair. -/
def State.bank (s : State) (r : Requester) (k : Nat) : IndBank := s.ind.get IndBank.init (bankKey r k)
/-- A requester's bank of a pair updated. -/
def State.updBank (s : State) (r : Requester) (k : Nat) (f : IndBank → IndBank) : State :=
  { s with ind := s.ind.upd IndBank.init (bankKey r k) f }

/-- After an access to IND_DATA the address goes on by 4 with AUTOINC (R866). -/
def State.bankStep (s : State) (r : Requester) (k : Nat) : State :=
  s.updBank r k (fun b => if b.auto then { b with addr := b.addr + 4#32 } else b)

/-- An indirect address as a block sees it: every block ends below 16 MiB. -/
def indAddr (b : IndBank) : Option Nat := if b.addr.toNat < 2 ^ 24 then some b.addr.toNat else none

/-- A requester reads IND_DATA: zero with NOCLK when the domain does not run (R866, R870). -/
def State.indRd (s : State) (r : Requester) (k : Nat) : W32 × State :=
  if !s.pairOn k then (0#32, (s.updBank r k (fun b => { b with noclk := true })).bankStep r k)
  else match indAddr (s.bank r k) with
    | none => (0#32, s.bankStep r k)
    | some ia =>
      let v := if Requester.reaches r (pairBase k) && (dangerChk (pairId k ia)).isNone then s.pairRd r k ia else (0#32, s)
      (v.1, v.2.bankStep r k)

/-- A requester writes IND_DATA: discarded with NOCLK when the domain does not run. -/
def State.indWr (s : State) (r : Requester) (k : Nat) (v : W32) : State :=
  if !s.pairOn k then (s.updBank r k (fun b => { b with noclk := true })).bankStep r k
  else match indAddr (s.bank r k) with
    | none => s.bankStep r k
    | some ia => (s.regWr r (pairId k ia) v).bankStep r k

/-- A requester reads the CSR at an offset. -/
def State.csrGet (s : State) (r : Requester) (off : Nat) : W32 × State :=
  match pairAt off with
  | some (k, i) =>
    if !Requester.reaches r (pairBase k) then (0#32, s)
    else match i with
    | 0 => ((s.bank r k).addr, s)
    | 1 => s.indRd r k
    | 2 => (BitVec.ofNat 32 (b2n (s.bank r k).auto), s)
    | _ => (BitVec.ofNat 32 (b2n (s.bank r k).noclk + 2 * b2n ((s.bank r k).waiting.any Option.isSome)), s)
  | none => if !Requester.reaches r off || (dangerChk off).isSome then (0#32, s) else s.directRd r off

/-- A requester writes the CSR at an offset. -/
def State.csrPut (s : State) (r : Requester) (off : Nat) (v : W32) : State :=
  match pairAt off with
  | some (k, i) =>
    if !Requester.reaches r (pairBase k) then s
    else match i with
    | 0 => s.updBank r k (fun b => { b with addr := v })
    | 1 => s.indWr r k v
    | 2 => s.updBank r k (fun b => { b with auto := v.getLsbD 0 })
    | _ => s.updBank r k (fun b => { b with noclk := b.noclk && !v.getLsbD 0 })
  | none => s.regWr r off v

/-! ### Commands -/

/-- IND_DATA_ACCESS: an access to the IND_DATA of a block, a write when a value is given. One that meets a domain that does not
run waits for its end; a pair holds 8 (R866, R869, R870). -/
def execIndDataAccess (r : Requester) (blk : BitVec 24) (wr : Option W32) (s : State) : Out :=
  whenLive s (match pairOfBase blk.toNat with
    | none => s
    | some k =>
      if !Requester.reaches r (pairBase k) then s
      else if !s.pairOn k then
        (if (s.bank r k).waiting.length ≥ 8 then s else s.updBank r k (fun b => { b with waiting := b.waiting ++ [wr] }))
      else match wr with
        | some v => s.indWr r k v
        | none => (s.indRd r k).2)

/-- IND_NOCLK_TIMEOUT: 2 µs after it was accepted, the oldest waiting access completes with NOCLK (R870). -/
def execIndNoclkTimeout (r : Requester) (blk : BitVec 24) (s : State) : Out :=
  whenLive s (match pairOfBase blk.toNat with
    | none => s
    | some k => match (s.bank r k).waiting with
      | [] => s
      | _ :: t => (s.updBank r k (fun b => { b with waiting := t, noclk := true })).bankStep r k)

/-- Whether a write by name may be made: its requester reaches the block, and the domain of a pair runs. -/
def State.nameOk (s : State) (r : Requester) (id : Nat) : Bool :=
  Requester.reaches r (idOffset id) && r != .walker && (match idPair id with
    | some k => decide (k < 30) && s.pairOn k
    | none => true)

/-- DANGER_VAL_WRITE; a cluster controller reaches no dangerous register (R873, R876). -/
def execDangerValWrite (r : Requester) (reg : W32) (v : W32) (s : State) : Out :=
  whenLive s (if s.nameOk r reg.toNat && dangerVal reg.toNat then s.dangerValWr r reg.toNat v else s)

/-- DANGER_CHK_WRITE: the CHK write of the register that the VAL word names (R872, R874). -/
def execDangerChkWrite (r : Requester) (reg : W32) (v : W32) (s : State) : Out :=
  whenLive s (if s.nameOk r reg.toNat && dangerVal reg.toNat then s.dangerChkWr r reg.toNat v else s)

/-- DANGER_WINDOW_EXPIRE: a pending VAL has reached the end of its 64 cycles without a matching CHK (R874). -/
def execDangerWindowExpire (r : Requester) (reg : W32) (s : State) : Out :=
  whenLive s (match s.danger.find (dangerKey r reg.toNat) with
    | none => s
    | some d => if d.ok || decide (s.cycle < d.atCyc + 64) then s else s.dangerFail r reg.toNat)

/-- COUNTER_LOW_READ: a counter's low word read through its core sub-block (R890). -/
def execCounterLowRead (r : Requester) (c : CoreId) (n : BitVec 12) (s : State) : Out :=
  whenLive s (
    if s.nameOk r (pairId (21 + c.cl.val) 0) && decide (n.toNat < 128) && !(r == .mgmt && s.confCl c.cl.val) then
      (s.cntLow r (coreKey c.cl.val c.core.val) n.toNat).2
    else s)

/-- REG_WRITE: a write to a register, by its name (R862). -/
def execRegWrite (r : Requester) (reg : W32) (v : W32) (s : State) : Out :=
  whenLive s (
    if reg.toNat < 2 ^ 24 then (if r == .walker then s else s.csrPut r reg.toNat v)
    else if s.nameOk r reg.toNat then s.regWr r reg.toNat v
    else match idPair reg.toNat with
      | some k =>
        if decide (k < 30) && r != .walker && Requester.reaches r (pairBase k) then s.updBank r k (fun b => { b with noclk := true }) else s
      | none => s)

end Sys2Proof.Machine
end

