-- ==== Sys2Proof/Machine/FabMgmt.lean ====
section
/-! DEFINITION. Management packets: enumeration, reports, geometry, images, CSR accesses, LAUNCH, the fault map and FENCE
(R562, R567 to R572, R582, R605 to R607, R808, R809). What their fields hold beside Table FAB-4 is log 36. -/
namespace Sys2Proof.Machine

/-! ### Ways of management packets -/

/-- Before the geometry is known a REPORT goes back along the rings by which coordinates came: ZN, then YN, then XN (log 36). -/
def upLink (node : Nat) : Option Nat :=
  if coord node 2 ≠ 0 then some 5 else if coord node 1 ≠ 0 then some 3 else if coord node 0 ≠ 0 then some 1 else none

/-- A packet of one destination sent on by a device, whose input it came from. -/
def State.sendOn (s : State) (input : Nat) (k : Packet) : State :=
  if s.dev.geom || k.pair then s.sendPacket input k
  else match upLink s.node with
    | some l => s.enqueue l input k
    | none => s

/-- A REPORT to the master. -/
def State.sendReport (s : State) (kind v : Nat) : State :=
  s.sendOn 7 (s.ownPacket (withWord { Packet.init with type := 6#4, sub := 1#5, dst := masterNode } (reportValue kind v)))

/-- A broadcast passed on along its tree, unchanged but for its dateline class (R554, R571). -/
def State.passOn (s : State) (l : Nat) (k : Packet) : State :=
  (s.treeLinks k.src.toNat (some l)).foldl (fun s o => s.enqueue o l { k with dl := s.dateline l o k.dl }) s

/-- A management packet arrives on a link: a broadcast is taken and passed on, by the geometry and the
fault map that it leaves; an ENUM, a packet over PR and a packet for this
device are taken; any other travels on (R550, R554, R571). -/
def State.arriveMgmt (s : State) (l : Nat) (k : Packet) (take : State → State) : State :=
  if l = 6 ∨ k.pair = true then s.checked l k take
  else if k.bc then (s.checked l k take).passOn l k
  else if k.sub = 0#5 then s.checked l k take
  else if k.dst = s.dev.node ∧ (k.dst ≠ masterNode ∨ s.dev.master = true) then s.checked l k take
  else s.sendOn l k

/-- Whether a packet comes from the master's node; its epoch has been checked (R570). -/
def fromMaster (k : Packet) : Bool := k.src == masterNode && !k.pair

/-- The effect of a packet that a follower accepts only from the master; any other is dropped and counted (R570). -/
def State.masterOnly (s : State) (l : Nat) (k : Packet) (f : State → State) : State :=
  if s.dev.master || !fromMaster k then s.linkCnt l 0x120 else f s

/-! ### The fault map (R547, R562, R582) -/

/-- The way from a node to another, ring by ring. -/
def State.way (s : State) (src dst : Nat) : List (Option (Option Bool)) :=
  (upTo 3).map (fun d =>
    s.ringWay ((upTo d).foldl (fun n e => withCoord n e (coord dst e)) src) d (coord dst d))

/-- The ways of the requests to a node and of its responses. -/
def State.ways (s : State) (dst : Nat) : List (Option (Option Bool)) := s.way s.node dst ++ s.way dst s.node

/-- The fabric engines send the outstanding requests of every command again whose route has changed, on the way there or back (R562,
R582). -/
def State.reroute (s old : State) : State :=
  (upTo 8).foldl (fun s c => ((s.cl c).fab.filter (fun x =>
      !fbPair x.desc && !x.sent.isEmpty && s.ways x.dstNode.toNat != old.ways x.dstNode.toNat)).foldl
    (fun s x => s.resendFab c x.serial) s) s

/-- A link of a node enters or leaves the fault map. -/
def State.setFault (s : State) (node : BitVec 18) (l : Nat) (remove : Bool) : State :=
  let m := s.dev.faultMap.filter (fun x => x != (node, l))
  State.reroute { s with dev := { s.dev with faultMap := if remove then m else m ++ [(node, l)] } } s

/-- The word of a FAULTMAP: node in [17:0], link in [22:20], removal in [31]. -/
def faultValue (node l : Nat) (remove : Bool) : Nat := node + 2 ^ 20 * l + 2 ^ 31 * b2n remove

/-- The master takes a failed or repaired link and broadcasts FAULTMAP (R582). -/
def State.spreadFault (s : State) (node : BitVec 18) (l : Nat) (remove : Bool) : State :=
  (s.setFault node l remove).broadcast (withWord { Packet.init with sub := 7#5 } (faultValue node.toNat l remove))

/-- A device's own link has failed or come back: its own fault map, and the master (R581, R582). -/
def State.ownFault (s : State) (l : Nat) (remove : Bool) : State :=
  if s.dev.master then s.spreadFault s.dev.node l remove
  else (s.setFault s.dev.node l remove).sendReport 2 (l + 16 * b2n remove)

/-- Links that had failed before the device took its coordinates enter its fault map (R581, log 55). -/
def State.earlyFaults (s : State) : State :=
  s.dev.early.foldl (fun s l => s.ownFault l false) { s with dev := { s.dev with early := [] } }

/-! ### Enumeration (R568, R569, Table FAB-8) -/

/-- The dimensions whose rings begin at a node. -/
def originDims (node : Nat) : List Nat :=
  (if node = 0 then [0] else []) ++ (if coord node 1 = 0 ∧ coord node 2 = 0 then [1] else []) ++ (if coord node 2 = 0 then [2] else [])

/-- The size less one of a dimension, as recorded. -/
def Dev.size? (d : Dev) (i : Nat) : Option (BitVec 6) := match i with
  | 0 => d.nx
  | 1 => d.ny
  | _ => d.nz

/-- A size less one recorded. -/
def State.setSize (s : State) (i : Nat) (v : BitVec 6) : State :=
  match i with
  | 0 => { s with dev := { s.dev with nx := some v } }
  | 1 => { s with dev := { s.dev with ny := some v } }
  | _ => { s with dev := { s.dev with nz := some v } }

/-- The recorded sizes in the layout of DEV.SIZES; a size not recorded is 0. -/
def Dev.sizesSeen (d : Dev) : BitVec 18 :=
  (d.nx.getD 0#6) ++ (d.ny.getD 0#6) ++ (d.nz.getD 0#6)

/-- An ENUM packet sent on a link. -/
def State.sendEnum (s : State) (l node : Nat) : State :=
  s.enqueue l 7 (s.ownPacket { Packet.init with type := 6#4, dst := BitVec.ofNat 18 node })

/-- A ring begins at this device: ENUM leaves with coordinate 1, or the size is 1 when the link is not up. -/
def State.beginRing (s : State) (d : Nat) : State :=
  if s.linkUp (2 * d) then s.sendEnum (2 * d) (withCoord s.node d 1) else s.setSize d 0#6

/-- Every device takes the geometry: sizes, neighbours, and HOLDOVER of its time service (R568, R583, R590). -/
def State.setGeom (s : State) (v : BitVec 18) : State :=
  let s := { s with dev := { s.dev with sizes := v, geom := true } }
  let near (l : Nat) : Nat :=
    if l = 6 then s.node else withCoord s.node (l / 2) (ringNext (s.ringSize (l / 2)) (coord s.node (l / 2)) (l % 2 == 0))
  let s := (upTo 7).foldl (fun s l => s.updLink l (fun x => { x with peer := BitVec.ofNat 18 (near l) })) s
  s.newMaster

/-- The master broadcasts GEOM once as many REPORTs as devices agree with its own sizes, unless the enumeration has failed; and then
the links that have failed by now (R582). -/
def State.checkGeom (s : State) : State :=
  let d := s.dev
  if !d.master || d.geom || d.enumFailed then s
  else match d.nx, d.ny, d.nz with
    | some x, some y, some z =>
      let v : BitVec 18 := x ++ y ++ z
      let agrees (r : Nat × BitVec 18) : Bool := (originDims r.1).all (fun i => coord r.2.toNat i == coord v.toNat i) &&
        (upTo 3).all (fun i => decide (coord r.1 i ≤ coord v.toNat i))
      if d.reports.length + 1 = (x.toNat + 1) * (y.toNat + 1) * (z.toNat + 1) ∧ d.reports.all agrees = true then
        let s := (s.setGeom v).broadcast (withWord { Packet.init with sub := 2#5 } v.toNat)
        s.dev.faultMap.foldl (fun s x => s.broadcast
          (withWord { Packet.init with sub := 7#5 } (faultValue x.1.toNat x.2 false))) s
      else s
    | _, _, _ => s

/-- A device that knows the size of every ring that begins at it reports; the master takes its own sizes at once. -/
def State.maybeReport (s : State) : State :=
  if (originDims s.node).any (fun i => (s.dev.size? i).isNone) then s
  else if s.dev.master then s.checkGeom
  else s.sendReport 0 s.dev.sizesSeen.toNat

/-- The enumeration has failed: the master reports it to the host by an EV_FAULT_LINK with DETAIL 1 (R569, log 36). -/
def State.enumFail (s : State) (l : Nat) : State :=
  if s.dev.enumFailed then s else State.postDev { s with dev := { s.dev with enumFailed := true } } 0x04 3 l 0 1

/-- A wiring fault on a link, of which the master learns; a device without coordinates reports it on the link of the ENUM (R569). -/
def State.wiring (s : State) (l : Nat) : State :=
  let s := s.updLink l (fun x => { x with wiring := true })
  if s.dev.master then s.enumFail l
  else if s.dev.enumerated then s.sendReport 4 l
  else s.enqueue l 7 (s.ownPacket (withWord { Packet.init with type := 6#4, sub := 1#5, dst := masterNode } (reportValue 4 l)))

/-- The master takes coordinates (0, 0, 0) and starts the enumeration (R567, R568). -/
def State.startEnum (s : State) : State :=
  let s := State.earlyFaults { s with dev := { s.dev with enumerated := true, node := masterNode } }
  (((s.beginRing 0).beginRing 1).beginRing 2).maybeReport

/-- An ENUM is taken (Table FAB-8, R569). -/
def State.takeEnum (s : State) (l : Nat) (k : Packet) : State :=
  let d := l / 2
  let c := k.dst.toNat
  let neg : Bool := l % 2 == 1 && decide (l < 6)
  let flat : Bool := (upTo 3).all (fun i => decide (i ≤ d) || coord c i == 0)
  if !s.dev.enumerated then
    if !neg || !flat || coord c d == 0 then s.wiring l
    else
      let s := State.earlyFaults { s with dev := { s.dev with node := k.dst, enumerated := true } }
      let s := s.sendEnum (2 * d) (withCoord c d ((coord c d + 1) % 64))
      (((originDims c).filter (fun i => decide (i > d))).foldl (fun s i => s.beginRing i) s).maybeReport
  else if neg && (originDims s.node).contains d && (upTo 3).all (fun i => i == d || coord c i == coord s.node i) then
    (s.setSize d (BitVec.ofNat 6 (coord c d + 63))).maybeReport
  else if k.dst = s.dev.node ∧ upLink s.node = some l then s
  else s.wiring l

/-! ### Reports, geometry, image, launch, fence -/

/-- A REPORT reaches the master: an enumeration, a failed link, a node whose packets carry a stale epoch, a wiring fault
(R568, R569, R582, R808). -/
def State.takeReport (s : State) (k : Packet) : State :=
  let v := mgmtWord k % 2 ^ 60
  match mgmtWord k / 2 ^ 60 with
  | 0 => State.checkGeom { s with dev := { s.dev with reports := s.dev.reports.put k.src.toNat (BitVec.ofNat 18 v) } }
  | 2 => s.spreadFault k.src (v % 8) (bitAt v 4)
  | 3 => s.fenceNode (BitVec.ofNat 18 v) 0
  | 4 => s.enumFail (v % 8)
  | _ => s

/-- The last byte of an image has arrived in cluster store 0, and its verification begins (R649). -/
def State.imageWhole (s : State) (l : List Byte) : State :=
  let s := s.store (clStore 0 0) l
  { s with usbData := [], boot := { s.boot with image := l }, dev := { s.dev with boot := 2#4 } }

/-- Part of an image has arrived in cluster store 0 (R649). -/
def State.imageSome (s : State) (l : List Byte) : State :=
  let s := s.store (clStore 0 0) l
  { s with usbData := l, dev := { s.dev with boot := 1#4 } }

/-- An image that is loading is lost, and the ROM waits for one. -/
def State.dropImage (s : State) : State :=
  if s.dev.boot = 1#4 then { s with usbData := [], dev := { s.dev with boot := 0#4 } } else s

/-- Whether the ROM waits for an image: it runs, and no image is verifying or running (R647, R649, R652). -/
def State.wantsImage (s : State) : Bool :=
  s.time.locked && !s.boot.running && !s.boot.romStopped && s.dev.boot != 2#4

/-- A piece of an image, at its offset ADDR, taken in order; the image is whole when it has LEN bytes (R571, Table HST-13). -/
def State.imagePiece (s : State) (off : Nat) (d : List Byte) : State :=
  if !s.wantsImage || !s.dev.bootSrc then s
  else
    let got := if off = 0 then [] else s.usbData
    if off ≠ got.length then s
    else
      let l := got ++ d
      let n := recN l 8 4
      if l.length ≥ 12 ∧ n ≤ l.length then s.imageWhole (l.take n)
      else s.imageSome l

/-- A LAUNCH: PART, the job and the Slate count in the data, its argument block in ADDR; REFUSED in ACQUIRE, or when
the job cannot launch a step (R605 to R607). -/
def State.takeLaunch (s : State) (k : Packet) : State :=
  let p := k.part.toNat
  let j := recN k.data 0 4
  let n := recN k.data 8 8
  if !s.exists? p then s
  else if s.time.state = 0#3 ∨ !(s.part p).jobs.has j ∨ (s.job p j).kind ≠ 0#2 ∨ !s.mayLaunch p j ∨ s.scrubbing p then
    s.launchDone p stRefused 0
  else (s.beginStep p j 0 (k.addr.setWidth 64) (some n)).updJob p j (fun x => { x with launched := true })

/-- The offset in the CSR space of a packet's address; none outside it. -/
def csrOff (k : Packet) : Option Nat :=
  if csrBase ≤ k.addr.toNat ∧ k.addr.toNat < csrBase + 0x1000000 ∧ k.addr.toNat % 4 = 0 then some (k.addr.toNat - csrBase) else none

/-- The offset of the i-th register of an access of several: an IND_DATA is accessed again and again (R635, R867). -/
def csrNext (off i : Nat) : Nat := match pairAt off with
  | some (_, 1) => off
  | _ => off + 4 * i

/-- n registers read for the management owner. -/
def State.csrGetN (s : State) (off n : Nat) : List W32 × State :=
  (upTo n).foldl (fun a i =>
    let r := a.2.csrGet .mgmt (csrNext off i)
    (a.1 ++ [r.1], r.2)) ([], s)

/-- Registers written by the management owner. -/
def State.csrPutN (s : State) (off : Nat) (l : List W32) : State :=
  (l.zip (upTo l.length)).foldl (fun s x => s.csrPut .mgmt (csrNext off x.2) x.1) s

/-- CSR_RD: at a follower, a register read for the master, whose value goes back in a CSR_RD packet; at the master, such a reply
(R570, R860). -/
def State.takeCsrRd (s : State) (k : Packet) : State :=
  if s.dev.master then { s with dev := { s.dev with mgmtReply := s.dev.mgmtReply ++ [k.data] } }
  else match csrOff k with
    | none => s
    | some off =>
      let r := s.csrGet .mgmt off
      r.2.sendPacket 7 (s.ownPacket (withWord { Packet.init with
        type := 6#4, sub := 4#5, dst := k.src, tid := k.tid, addr := k.addr } r.1.toNat))

/-- CSR_WR: the value stands in the first word of the data (R570, R860). -/
def State.takeCsrWr (s : State) (k : Packet) : State :=
  match csrOff k with
  | none => s
  | some off => s.csrPut .mgmt off (BitVec.ofNat 32 (mgmtWord k))

/-- FENCE: VALUE 0 quarantines the device; VALUE 1 re-admits it with the epoch in ADDR (R808, R809). -/
def State.takeFence (s : State) (k : Packet) : State :=
  if k.value = 0#64 then s.quarantine
  else if k.value = 1#64 then s.unquarantine (k.addr.setWidth 16)
  else s

/-- What any management packet does when it is taken, by its SUB; a reserved one is dropped and counted. -/
def State.takeMgmt (s : State) (l : Nat) (k : Packet) : State :=
  match k.sub.toNat with
  | 0 => s.takeEnum l k
  | 1 => if s.dev.master then s.takeReport k else s
  | 2 => if s.dev.master || !fromMaster k then s else s.setGeom (BitVec.ofNat 18 (mgmtWord k))
  | 3 => s.masterOnly l k (fun s => s.imagePiece k.addr.toNat k.data)
  | 4 => if s.dev.master || fromMaster k then s.takeCsrRd k else s.linkCnt l 0x120
  | 5 => s.masterOnly l k (fun s => s.takeCsrWr k)
  | 6 => s.masterOnly l k (fun s => s.takeLaunch k)
  | 7 => s.masterOnly l k (fun s => s.setFault (BitVec.ofNat 18 (mgmtWord k)) (bitsAt (mgmtWord k) 20 3) (bitAt (mgmtWord k) 31))
  | 8 => s.masterOnly l k (fun s => s.takeFence k)
  | _ => s.linkCnt l 0x120

/-- The meaning of a management packet row: a packet of its SUB arrives on a link. -/
def mgmtPkt (sub : Nat) (l : Fin 7) (k : Packet) (s : State) : Out :=
  if k.type.toNat ≠ 6 || k.sub.toNat ≠ sub then .fault .malformed
  else whenLive s (if s.linkUp l.val then s.arriveMgmt l.val k (fun s => s.takeMgmt l.val k) else s)

/-- ENUM: it travels one hop and gives coordinates in DST (R568, R569). -/
def execEnum (l : Fin 7) (k : Packet) (s : State) : Out := mgmtPkt 0 l k s
/-- REPORT (R568, R582). -/
def execReport (l : Fin 7) (k : Packet) (s : State) : Out := mgmtPkt 1 l k s
/-- GEOM (R568). -/
def execGeom (l : Fin 7) (k : Packet) (s : State) : Out := mgmtPkt 2 l k s
/-- IMAGE (R571). -/
def execImage (l : Fin 7) (k : Packet) (s : State) : Out := mgmtPkt 3 l k s
/-- CSR_RD (R570). -/
def execCsrRd (l : Fin 7) (k : Packet) (s : State) : Out := mgmtPkt 4 l k s
/-- CSR_WR (R570). -/
def execCsrWr (l : Fin 7) (k : Packet) (s : State) : Out := mgmtPkt 5 l k s
/-- LAUNCH (R605 to R607). On the master it is the master's own, which it broadcasts and starts itself, like each device (log 36). -/
def execLaunch (l : Fin 7) (k : Packet) (s : State) : Out :=
  if k.type.toNat = 6 ∧ k.sub.toNat = 6 ∧ s.dev.master ∧ fromMaster k then whenLive s ((s.broadcast k).takeLaunch k)
  else mgmtPkt 6 l k s
/-- FAULTMAP (R582). -/
def execFaultmap (l : Fin 7) (k : Packet) (s : State) : Out := mgmtPkt 7 l k s
/-- MGMT_FENCE (R808, R809). -/
def execMgmtFence (l : Fin 7) (k : Packet) (s : State) : Out := mgmtPkt 8 l k s

end Sys2Proof.Machine
end

