-- ==== Sys2Proof/Machine/Link.lean ====
section
/-! DEFINITION. The Lacing links: codewords, flits, replay, credits, slots, lane failures and retraining (R523 to R544, R549 to R554,
R577 to R583, R877). -/
namespace Sys2Proof.Machine

/-! ### Codewords and flits as bits (R523, R525, R526) -/

/-- Lanes on which a link runs, lowest first (R523, R579). -/
def Link.active (x : Link) : List Nat :=
  if x.state = 3#3 then [0, 1, 2, 3] else if x.state = 4#3 then [4, 5, 6, 7] else upTo 8

/-- The lane to which a symbol of a codeword is dealt: round robin over the active lanes, lowest first (R523). -/
def Link.laneOf (x : Link) (i : Nat) : Nat := x.active.getD (i % x.active.length) 0

/-- A credit return entry; owner 15 with no units where there is none (Table FAB-3). -/
def cretBits (e : Option (BitVec 4 × Nat)) : Nat := match e with
  | some x => x.1.toNat + 16 * (x.2 % 4096)
  | none => 15

/-- The bits of bytes 0 to 631 of a flit: link header, sideband chunk, units (Tables FAB-2 and FAB-3). -/
def flitBody (f : Flit) : Nat :=
  f.ftype.toNat + 2 ^ 4 * f.owner.toNat + 2 ^ 8 * f.seq.toNat + 2 ^ 32 * f.ack.toNat + 2 ^ 56 * b2n f.nak +
    (upTo 18).foldl (fun a u => a + 2 ^ (64 + 3 * u) * (f.units.getD u (0#3, 0#256)).1.toNat) 0 +
    (upTo 4).foldl (fun a e => a + 2 ^ (128 + 16 * e) * cretBits f.cret[e]?) 0 +
    2 ^ 192 * f.sbcret + (match f.sb with
      | some c => 2 ^ 200 + 2 ^ 201 * b2n c.1 + 2 ^ 320 * c.2.toNat
      | none => 0) +
    (upTo 18).foldl (fun a u => a + 2 ^ (448 + 256 * u) * (f.units.getD u (0#3, 0#256)).2.toNat) 0

/-- The CRC-64 of the first 632 bytes of a flit (R526). -/
def flitCrc (body : Nat) : Nat := crc64 (leBytes 632 body)

/-- The message of a codeword: a flit with its CRC, and the codeword count (R523, R525). -/
def codeword (f : Flit) (count : BitVec 16) : BitVec 5140 :=
  BitVec.ofNat 5140 (flitBody f + 2 ^ 5056 * flitCrc (flitBody f) + 2 ^ 5120 * count.toNat)

/-- The flit of a message; units of class 0 are empty (Tables FAB-2 and FAB-3). -/
def flitOf (x : Nat) : Flit :=
  { ftype := BitVec.ofNat 4 x, owner := BitVec.ofNat 4 (x / 2 ^ 4), seq := BitVec.ofNat 24 (x / 2 ^ 8)
    ack := BitVec.ofNat 24 (x / 2 ^ 32), nak := bitAt x 56
    units := ((upTo 18).map (fun u => (BitVec.ofNat 3 (x / 2 ^ (64 + 3 * u)), BitVec.ofNat 256 (x / 2 ^ (448 + 256 * u))))).filter
      (fun u => u.1 != 0#3)
    cret := (upTo 4).map (fun e => (BitVec.ofNat 4 (x / 2 ^ (128 + 16 * e)), bitsAt x (132 + 16 * e) 12))
    sbcret := bitsAt x 192 8
    sb := if bitAt x 200 then some (bitAt x 201, BitVec.ofNat 128 (x / 2 ^ 320)) else none }

/-- Whether the CRC of a flit is good (R526). -/
def crcGood (x : Nat) : Bool := bitsAt x 5056 64 == flitCrc (x % 2 ^ 5056)

/-- Chunk i of a sideband packet: its header is the first two, its data follow (R525, R533). -/
def sbChunk (k : Packet) (i : Nat) : BitVec 128 :=
  if i < 2 then BitVec.ofNat 128 ((packetHead k).toNat / 2 ^ (128 * i)) else BitVec.ofNat 128 (recN k.data (16 * (i - 2)) 16)

/-- Chunks of a sideband packet. -/
def chunksOf (k : Packet) : Nat := 2 + ceilDiv k.len.toNat 16

/-- The packet of chunks received. -/
def packetOfChunks (l : List (BitVec 128)) : Packet :=
  let k := packetOf (BitVec.ofNat 256 ((l.getD 0 0#128).toNat + 2 ^ 128 * (l.getD 1 0#128).toNat)) []
  { k with data := ((l.drop 2).flatMap (fun c => leBytes 16 c.toNat)).take k.len.toNat }

/-! ### Credits (R541 to R543) -/

/-- Receive-buffer units of an owner that are free again, to be returned in a header to come: those that the owner holds beyond
64 for each of its slots belong to the loan pool, code 9 (R541). -/
def State.freeUnits (s : State) (l o n : Nat) : State :=
  s.updLink l (fun x =>
    let held := x.rxHeld.get 0 o
    let loan := min n (held - 64 * slotsOf x.slotmap o)
    let m := if loan = 0 then x.cretPend else x.cretPend.upd 0 9 (fun a => a + loan)
    { x with
      rxFree := x.rxFree + n, rxHeld := x.rxHeld.put o (held - n)
      cretPend := if n = loan then m else m.upd 0 o (fun a => a + (n - loan)) })

/-- The holdings in order: the loan pool, then the owners. -/
def holders : List Nat := 9 :: upTo 9

/-- So many credits taken from a map of counts, in the order of a list. -/
def takeFrom (l : List Nat) (m : SMap Nat) (n : Nat) : SMap Nat :=
  (l.foldl (fun (a : SMap Nat × Nat) o =>
    let t := min a.2 (a.1.get 0 o)
    (if t = 0 then a.1 else if t = a.1.get 0 o then a.1.erase o else a.1.put o (a.1.get 0 o - t), a.2 - t)) (m, n)).1

/-- Credits that have come back to owners in debt go to those who wait for them. -/
def Link.repay (x : Link) (from_ : List Nat) (n : Nat) : Link :=
  let y := { x with debt := takeFrom from_ x.debt n, short := takeFrom holders x.short n }
  holders.foldl (fun (y : Link) o => { y with
    holding := y.holding.put o (x.credits o + (x.short.get 0 o - y.short.get 0 o)) }) y

/-- Credits of an owner arrive: those in use beyond its slots go back first (R877); what exceeds 64 for each of its slots belongs to the
loan pool (R541). -/
def Link.addCredits (x : Link) (o n : Nat) : Link :=
  let from_ := if o = 9 then holders else [o]
  let t := min n ((from_.map (fun i => x.debt.get 0 i)).foldl (fun a b => a + b) 0)
  let x := if t = 0 then x else x.repay from_ t
  let cap := 64 * (if o = 9 then slotsFree x.slotmap else slotsOf x.slotmap o)
  let a := x.credits o + (n - t)
  if o = 9 ∨ a ≤ cap then { x with holding := x.holding.put o a }
  else
    let x := { x with holding := x.holding.put o cap }
    { x with holding := x.holding.put 9 (x.credits 9 + (a - cap)) }

/-- A map takes effect: credits in use stay in use. An owner whose credits in use exceed its new slots owes them, and those who gain
wait for as many, the loan pool first, so that the credits sum to 4,096 as before (R541, R877, log 65, DESIGN CHOICE). -/
def Link.applyMap (x : Link) (m : BitVec 256) : Link :=
  let cap (map : BitVec 256) (o : Nat) : Nat := 64 * (if o = 9 then slotsFree map else slotsOf map o)
  let used (o : Nat) : Nat := cap x.slotmap o + x.debt.get 0 o - (x.credits o + x.short.get 0 o)
  let debt : SMap Nat := (upTo 10).filterMap (fun o => if used o ≤ cap m o then none else some (o, used o - cap m o))
  let free : SMap Nat := (upTo 10).map (fun o => (o, cap m o - used o))
  let rest := takeFrom holders free (debt.foldl (fun a e => a + e.2) 0)
  let left (o : Nat) : Nat := rest.get 0 o
  { x with
    slotmap := m, slotmapNew := none, debt := debt
    holding := (upTo 10).map (fun o => (o, left o))
    short := (upTo 10).filterMap (fun o => if free.get 0 o = left o then none else some (o, free.get 0 o - left o)) }

/-- Rank of a class: REQ0 0, REQ1 1, RSP0 2, RSP1 3, FWD0 2, FWD1 3 (R542). -/
def classRank (c : Nat) : Nat := if c ≤ 4 then c - 1 else c - 3

/-- The holding from which a packet of n units may take its credits: the owner's, or the loan pool unless the owner is
confidential (R541, R542). -/
def Link.creditFor (x : Link) (conf : Bool) (o c n : Nat) : Option Nat :=
  let need := n + 9 * (3 - classRank c)
  if x.credits o ≥ need then some o
  else if !conf && decide (x.credits 9 ≥ need) then some 9
  else none

/-! ### Packets received (R534, R548 to R551, R554) -/

/-- A data packet that is complete: it is taken here; one of a reserved type, or that has no way, is dropped and counted. -/
def State.arriveWhole (s : State) (l o : Nat) (k : Packet) : State :=
  let n := packetUnits k.len.toNat
  if k.type.toNat < 6 ∧ (l = 6 ∨ k.pair = true ∨ k.dst = s.dev.node) then (s.arriveData l k .none).freeUnits l o n
  else (s.linkCnt l 0x120).freeUnits l o n

/-- The link by which a packet that arrived on a link goes on, if it does. -/
def State.transit (s : State) (l : Nat) (k : Packet) : Option Nat :=
  if l = 6 ∨ k.pair = true ∨ k.dst = s.dev.node ∨ k.type.toNat ≥ 6 then none
  else match s.route k.dst.toNat with
    | some (some m) => some m
    | _ => none

/-- Whether a packet on its way out came by an input, a class and an owner, with units still to come. -/
def TxEnt.comes (e : TxEnt) (l c o : Nat) : Bool := e.input == l && e.inCls == c && packetOwner e.pkt == o && decide (e.due > 0)

/-- One more unit of a packet on its way out. -/
def TxEnt.more (e : TxEnt) (u : BitVec 256) : TxEnt := { e with units := e.units ++ [u], due := e.due - 1 }

/-- The link on which a packet leaves whose units arrive by an input, a class and an owner. -/
def State.leaving (s : State) (l c o : Nat) : Option Nat :=
  (upTo 7).find? (fun m => (s.link m).txq.any (fun e => e.comes l c o) || (s.link m).txCur.any (fun e => e.2.comes l c o))

/-- A unit received of a packet that is being forwarded (R551). -/
def State.passUnit (s : State) (m l c o : Nat) (u : BitVec 256) : State :=
  let f (e : TxEnt) : TxEnt := if e.comes l c o then e.more u else e
  s.updLink m (fun x => { x with txq := x.txq.map f, txCur := x.txCur.mapV (fun _ e => f e) })

/-- Forwarding begins with the header unit of a packet, its dateline class renewed (R549, R551). -/
def State.passHead (s : State) (m l c : Nat) (k : Packet) : State :=
  let k := { k with dl := s.dateline l m k.dl }
  s.updLink m (fun x => { x with txq := x.txq ++ [{ TxEnt.init with
    input := l, inCls := c, cls := packetClass k, pkt := k, units := [packetHead k], due := packetUnits k.len.toNat - 1 }] })

/-- A unit of a class received from an owner: passed on, or gathered until its packet is whole (R534, R551). -/
def State.unitIn (s : State) (l o : Nat) (u : BitVec 3 × BitVec 256) : State :=
  let c := u.1.toNat
  if c = 0 then s
  else if c = 7 ∨ o > 8 then s.linkCnt l 0x120
  else
    let key := 8 * o + c
    let s := s.updLink l (fun x => { x with rxFree := x.rxFree - 1, rxHeld := x.rxHeld.upd 0 o (fun a => a + 1) })
    if (s.link l).skip.get 0 key > 0 then
      (s.updLink l (fun x => { x with skip := x.skip.upd 0 key (fun a => a - 1) })).freeUnits l o 1
    else match s.leaving l c o with
      | some m => s.passUnit m l c o u.2
      | none =>
        let old := (s.link l).part.get [] key
        match (if old.isEmpty then s.transit l (packetOf u.2 []) else none) with
        | some m => s.passHead m l c (packetOf u.2 [])
        | none =>
          let got := old ++ [u.2]
          if got.length < packetUnits (packetOf (got.headD 0#256) []).len.toNat then
            s.updLink l (fun x => { x with part := x.part.put key got })
          else
            (s.updLink l (fun x => { x with part := x.part.erase key })).arriveWhole l o (packetOf (got.headD 0#256) got.tail)

/-! ### The sideband (R525, R533, R543) -/

/-- Chunks of the receive buffer that a sideband packet of an input held go back once no link has a copy left to send. -/
def State.sbReturn (s : State) (input id n : Nat) : State :=
  if input ≥ 7 || (upTo 7).any (fun m => (s.link m).sbq.any (fun e => e.input == input && e.id == id)) then s
  else s.updLink input (fun x => { x with sbPend := x.sbPend + n })

/-- The number of a sideband packet that begins to arrive on a link. -/
def State.sbBegin (s : State) (l : Nat) : State := s.updLink l (fun x => { x with sbNum := x.sbNum + 1 })

/-- A sideband packet received: management, synchronisation, or of a reserved type, which is dropped and counted (Table
FAB-5). Its chunks stay in the receive buffer while it waits to go on. -/
def State.sidebandIn (s : State) (l : Nat) (k : Packet) (t : BitVec 96) : State :=
  let s := s.sbBegin l
  let id := (s.link l).sbNum
  let s := if k.type = 6#4 then s.arriveMgmt l k (fun s => s.takeMgmt l k)
    else if k.type = 7#4 then (if k.sub = 0#5 then s.syncReq l k t else if k.sub = 1#5 then s.syncRsp l k t else s.linkCnt l 0x120)
    else s.linkCnt l 0x120
  s.sbReturn l id (chunksOf k)

/-- Whether a management packet goes on as soon as its header is here: one for another device, or a broadcast that does not itself decide
where it goes (R551, log 65). -/
def State.goesOn (s : State) (l : Nat) (k : Packet) : Bool :=
  k.type == 6#4 && l != 6 && !k.pair && decide (chunksOf k > 2) &&
    (if k.bc then k.sub != 2#5 && k.sub != 7#5 else k.sub != 0#5 && !(k.dst == s.dev.node && (k.dst != masterNode || s.dev.master)))

/-- The copies of a packet that is being passed on. -/
def State.updPass (s : State) (l id : Nat) (f : SbEnt → SbEnt) : State :=
  (upTo 7).foldl (fun s m => s.updLink m (fun x => { x with
    sbq := x.sbq.map (fun e => if e.input == l && e.id == id then f e else e) })) s

/-- Forwarding of a sideband packet begins with its header, with its data still to come (R551). -/
def State.sbHead (s : State) (l key : Nat) (k : Packet) : State :=
  let s := s.sbBegin l
  let id := (s.link l).sbNum
  let s := if k.bc then s.passOn l k else s.sendOn l k
  (s.updPass l id (fun e => { e with due := chunksOf k - 2 })).updLink l (fun x => { x with sbPass := x.sbPass.put key id })

/-- One more chunk of a packet that is being passed on; with the last one, a broadcast is taken. -/
def State.sbMore (s : State) (l key id : Nat) (k : Packet) (last : Bool) : State :=
  let s := s.updPass l id (fun e => { e with due := e.due - 1, pkt := { e.pkt with data := k.data } })
  if !last then s
  else
    let s := s.updLink l (fun x => { x with sbPass := x.sbPass.erase key })
    let s := if k.bc then s.checked l k (fun s => s.takeMgmt l k) else s
    s.sbReturn l id (chunksOf k)

/-- A sideband chunk received: the first one of a packet gives its receive timestamp (R601). -/
def State.chunkIn (s : State) (l : Nat) (dl : Bool) (w : BitVec 128) : State :=
  let key := b2n dl
  let got := (s.link l).sbIn.get [] key ++ [w]
  let s := if got.length = 1 then
      let t := s.linkStamp l false
      s.updLink l (fun x => { x with sbInAt := x.sbInAt.put key t })
    else s
  let k := packetOfChunks got
  let last : Bool := decide (got.length ≥ 2) && decide (got.length ≥ chunksOf k)
  let at_ := (s.link l).sbInAt.get 0#96 key
  let s := s.updLink l (fun x => { x with sbIn := if last then x.sbIn.erase key else x.sbIn.put key got })
  match (s.link l).sbPass.find key with
  | some id => s.sbMore l key id k last
  | none =>
    if last then s.sidebandIn l k at_
    else if got.length = 2 && s.goesOn l k then s.sbHead l key k
    else s

/-! ### Retraining starts (R531, R577, R578) -/

/-- Both ends stop and retrain. -/
def State.retrain (s : State) (l : Nat) : State :=
  (s.updLink l (fun x => { x with state := 1#3, trainNs := s.nsW })).linkCnt l 0x110

/-! ### Reception (R528 to R530) -/

/-- A flit discarded: the first one after an accepted flit calls for a NAK (R529). -/
def State.discard (s : State) (l : Nat) : State :=
  s.updLink l (fun x => if x.discarding then x else { x with discarding := true, nakOut := true })

/-- Whether sequence number a is at most b, modulo 2^24. -/
def seqLe (a b : BitVec 24) : Bool := decide ((b - a).toNat < 2 ^ 23)

/-- ACK and NAK of a header: covered flits are freed; on a NAK the rest is sent again, or the link retrains when one of them has
been resent 8 times (R530, R531). -/
def State.ackIn (s : State) (l : Nat) (f : Flit) : State :=
  let s := s.updLink l (fun x => { x with
    replay := x.replay.filter (fun e => !seqLe e.flit.seq f.ack), resend := x.resend.filter (fun n => !seqLe n f.ack) })
  if !f.nak || (s.link l).replay.isEmpty then s
  else if (s.link l).replay.any (fun e => decide (e.count ≥ 8)) then s.retrain l
  else (s.updLink l (fun x => { x with resend := x.replay.map (fun e => e.flit.seq) })).linkCnt l 0x10C

/-- Credit returns of a header (Table FAB-3). -/
def State.cretIn (s : State) (l : Nat) (f : Flit) : State :=
  let s := f.cret.foldl (fun s e => if e.1.toNat ≤ 9 then s.updLink l (fun x => x.addCredits e.1.toNat e.2) else s) s
  s.updLink l (fun x => { x with sbFree := min 512 (x.sbFree + f.sbcret) })

/-- An accepted flit: its header, its units, its sideband chunk. -/
def State.accept (s : State) (l : Nat) (f : Flit) : State :=
  let s := s.updLink l (fun x => { x with rxSeq := x.rxSeq + 1#24, discarding := false, nakOut := false })
  let s := (s.cretIn l f).ackIn l f
  let s := f.units.foldl (fun s u => s.unitIn l f.owner.toNat u) s
  match f.sb with
  | some c => s.chunkIn l c.1 c.2
  | none => s

/-- Symbols that the FEC corrected, counted for the link and, in the running window of 8 µs, for their lanes (R577). -/
def State.countFixes (s : State) (l : Nat) (fix : List (Fin 544)) : State :=
  if fix.isEmpty then s
  else
    let w := BitVec.ofNat 64 (s.ns / 8000)
    s.updLink l (fun x => { x with
      cnt := x.cnt.upd 0#32 0x100 (fun a => BitVec.ofNat 32 (min (2 ^ 32 - 1) (a.toNat + fix.length)))
      corrWin := w
      corr := fix.foldl (fun m i => m.upd 0 (x.laneOf i.val) (fun a => a + 1)) (if w = x.corrWin then x.corr else []) })

/-- Lanes whose corrected symbols in the window exceed the threshold (R577). -/
def Link.worn (x : Link) : List Nat := (x.corr.filter (fun e => decide (e.2 > 16 * x.deg.toNat))).map (fun e => e.1)

/-- Lanes fail: the link stops at once and retrains (R577, R578). -/
def State.failLanes (s : State) (l : Nat) (lanes : List Nat) : State :=
  (s.updLink l (fun x => { x with
    corr := [], laneOk := lanes.foldl (fun m i => m &&& ~~~(1#8 <<< i)) x.laneOk })).retrain l

/-- Whether a link carries flits: it is up, and no lane test runs (R885). -/
def State.flitsOn (s : State) (l : Nat) : Bool := s.linkUp l && s.dev.test == 0#4

/-- FLIT_RECEIVE: the message of a codeword arrives, with the places of the symbols that the FEC corrected, or one that it could
not correct. An uncorrectable codeword and a bad CRC are counted; a lane with too many corrected symbols fails; only the
expected flit with a good CRC is accepted (R523, R524, R528, R529, R577). -/
def execFlitReceive (l : Fin 7) (fix : List (Fin 544)) (fecOk : Bool) (msg : BitVec 5140) (s : State) : Out :=
  let l := l.val
  whenLive s (
    if !s.flitsOn l then s
    else if !fecOk then (s.linkCnt l 0x104).discard l
    else
      let s := (s.countFixes l fix).updLink l (fun x => { x with rxCount := BitVec.ofNat 16 (msg.toNat / 2 ^ 5120) })
      if !(s.link l).worn.isEmpty then s.failLanes l (s.link l).worn
      else if !crcGood msg.toNat then (s.linkCnt l 0x108).discard l
      else
        let f := flitOf msg.toNat
        if f.seq ≠ (s.link l).rxSeq then s.discard l else s.accept l f)

/-- NAK_REPEAT: the NAK goes out again until the expected flit arrives (R529). -/
def execNakRepeat (l : Fin 7) (s : State) : Out :=
  whenLive s (if s.flitsOn l.val && (s.link l.val).discarding then s.updLink l.val (fun x => { x with nakOut := true }) else s)

/-! ### Transmission (R535 to R543) -/

/-- Classes in the order in which a flit takes them: RSP1, RSP0, REQ1, REQ0, FWD1, FWD0 (R540). -/
def classOrder : List Nat := [4, 3, 2, 1, 6, 5]

/-- The packet of an owner and a class that goes next: the oldest of the first input after the one that last sent (R540). -/
def Link.nextOf (x : Link) (o c : Nat) : Option TxEnt :=
  let last := x.lastInput.get 7 c
  (upTo 8).findSome? (fun i => x.txq.find? (fun e => e.input == (last + 1 + i) % 8 && e.cls == c && packetOwner e.pkt == o))

/-- Whether a class of an owner has a unit to send: of the packet begun, or of one that has credits. -/
def Link.readyIn (x : Link) (conf : Bool) (o c : Nat) : Bool :=
  match x.txCur.find (8 * o + c) with
  | some e => !e.units.isEmpty
  | none => match x.nextOf o c with
    | some e => (x.creditFor conf o c (packetUnits e.pkt.len.toNat)).isSome
    | none => false

/-- Whether an owner has a unit to send. -/
def Link.ready (x : Link) (conf : Bool) (o : Nat) : Bool := classOrder.any (fun c => x.readyIn conf o c)

/-- A request of a command leaves: the time of its sending is noted (R563). -/
def State.noteSent (s : State) (k : Packet) : State :=
  let t := k.tid.toNat
  if k.type.toNat > 2 then s
  else (s.clustersOf k.part.toNat).foldl (fun s c => s.updCl c (fun y => { y with fab := y.fab.map (fun x =>
    if x.dstNode == k.dst && fbPair x.desc == k.pair && x.sent.any (fun z => z.1 == t) then { x with sentAt := x.sentAt.put t s.ns }
    else x) })) s

/-- A packet begins to leave: it takes its credits; one of this device counts for its partition. -/
def State.startPacket (s : State) (l o c : Nat) (e : TxEnt) (from_ : Nat) : State :=
  let s := s.updLink l (fun x => { x with
    txq := x.txq.erase e, lastInput := x.lastInput.put c e.input
    holding := x.holding.put from_ (x.credits from_ - packetUnits e.pkt.len.toNat), txCur := x.txCur.put (8 * o + c) e })
  if e.input = 7 ∧ o < 8 then
    (s.updPart o (fun p => { p with linkTx := p.linkTx.upd 0 l (fun a => a + e.pkt.len.toNat) })).noteSent e.pkt
  else s

/-- Units of the packet begun of a class taken for a flit; those that came from a link give that link's buffer back (R541, R551). -/
def State.takeUnits (s : State) (l o c room : Nat) : State × List (BitVec 256) :=
  match (s.link l).txCur.find (8 * o + c) with
  | none => (s, [])
  | some e =>
    let r := e.units.drop room
    let s := s.updLink l (fun x => { x with
      txCur := if r.isEmpty && e.due == 0 then x.txCur.erase (8 * o + c) else x.txCur.put (8 * o + c) { e with units := r } })
    let u := e.units.take room
    (if e.input < 7 then s.freeUnits e.input o u.length else s, u)

/-- The units of one owner for a flit with so much room. -/
def State.fillFlit (s : State) (l o : Nat) (conf : Bool) : Nat → Nat → List (BitVec 3 × BitVec 256) → State × List (BitVec 3 × BitVec 256)
  | 0, _, acc => (s, acc)
  | fuel + 1, room, acc =>
    if room = 0 then (s, acc)
    else match classOrder.find? (fun c => (s.link l).readyIn conf o c) with
      | none => (s, acc)
      | some c =>
        let x := s.link l
        let s := if (x.txCur.find (8 * o + c)).isSome then s
          else match x.nextOf o c with
            | some e => s.startPacket l o c e ((x.creditFor conf o c (packetUnits e.pkt.len.toNat)).getD o)
            | none => s
        let r := s.takeUnits l o c room
        State.fillFlit r.1 l o conf fuel (room - r.2.length) (acc ++ r.2.map (fun u => (BitVec.ofNat 3 c, u)))

/-- The owner whose flit a slot carries: the slot's, or a borrower (R539); none is 9, as in the slots of a confidential partition and
of one that is scrubbed (Table SEC-6). -/
def State.slotSender (s : State) (l : Nat) : Nat × Bool :=
  let x := s.link l
  let o := slotOwner x.slotmap (x.slotPos % 64)
  let conf (p : Nat) : Bool := decide (p < 8) && s.conf p
  let ready (p : Nat) : Bool := !(decide (p < 8) && s.scrubbing p) && x.ready (conf p) p
  if o ≤ 8 ∧ ready o = true then (o, false)
  else if conf o || (decide (o < 8) && s.scrubbing o) then (9, false)
  else match (upTo 9).find? (fun i => let p := (x.lastBorrow + 1 + i) % 9
      !conf p && ready p) with
    | some i => ((x.lastBorrow + 1 + i) % 9, true)
    | none => (9, false)

/-- The sideband packet whose chunk goes next: the first of its dateline class, with room at the far end; one of class 0 leaves 18
chunks free (R543, R553). -/
def Link.nextSb (x : Link) : Option SbEnt :=
  x.sbq.find? (fun e => (x.sbq.find? (fun f => f.pkt.dl == e.pkt.dl)).any (fun f => f == e) &&
    decide (1 + (if e.pkt.dl then 0 else 18) ≤ x.sbFree) && decide (e.next + e.due < chunksOf e.pkt))

/-- A SYNC packet takes its timestamp as its first chunk leaves, each time that it does, for the chunks that follow (R600, R601). -/
def State.restamp (s : State) (l id : Nat) (k : Packet) : State :=
  if k.type ≠ 7#4 then s
  else s.updLink l (fun x => { x with
    sbq := x.sbq.map (fun e => if e.input = 7 ∧ e.id = id then { e with pkt := k } else e)
    replay := x.replay.map (fun e => if e.sbId = id ∧ e.sbPkt.any (fun p => p.type == 7#4) then { e with sbPkt := some k } else e) })

/-- The chunk that a sideband packet sends now; the packet leaves the queue with its last one. -/
def State.sendChunk (s : State) (l : Nat) (e : SbEnt) : State :=
  let s := s.updLink l (fun x => { x with
    sbFree := x.sbFree - 1
    sbq := if e.next + 1 = chunksOf e.pkt then x.sbq.filter (fun y => y.input != e.input || y.id != e.id)
      else x.sbq.map (fun y => if y.input = e.input ∧ y.id = e.id then { y with next := e.next + 1 } else y) })
  if e.next + 1 = chunksOf e.pkt then s.sbReturn e.input e.id (chunksOf e.pkt) else s

/-- A codeword leaves with a flit and its count (R523). -/
def State.emitFlit (s : State) (l : Nat) (f : Flit) : State :=
  s.updLink l (fun x => { x with txMsg := codeword f x.txCount, txCount := x.txCount + 1#16 })

/-- A new flit leaves, kept for replay (R527, R530). -/
def State.sendFlit (s : State) (l : Nat) : State :=
  let w := s.slotSender l
  let s := if w.2 then s.updLink l (fun x => { x with lastBorrow := w.1 }) else s
  let r := if w.1 = 9 then (s, []) else s.fillFlit l w.1 (decide (w.1 < 8) && s.conf w.1) 19 18 []
  let s := r.1
  let x := s.link l
  let sb := x.nextSb.map (fun e => if e.next = 0 then { e with pkt := s.stampSync l e.pkt } else e)
  let f : Flit := { Flit.init with
    seq := x.txSeq, owner := BitVec.ofNat 4 w.1, ack := x.rxSeq - 1#24, nak := x.nakOut, units := r.2
    cret := (x.cretPend.take 4).map (fun e => (BitVec.ofNat 4 e.1, min 4095 e.2)), sbcret := min 255 x.sbPend
    sb := sb.map (fun e => (e.pkt.dl, sbChunk e.pkt e.next)) }
  let s := s.updLink l (fun x => { x with
    txSeq := x.txSeq + 1#24, nakOut := false, sbPend := x.sbPend - min 255 x.sbPend
    cretPend := (x.cretPend.take 4).foldl (fun m e => if e.2 ≤ 4095 then m.erase e.1 else m.put e.1 (e.2 - 4095)) x.cretPend
    replay := x.replay ++ [{ TxFlit.init with
      flit := f, sbId := (sb.map (fun e => e.id)).getD 0, sbIdx := (sb.map (fun e => e.next)).getD 0, sbPkt := sb.map (fun e => e.pkt) }] })
  let s := match sb with
    | some e => (s.restamp l e.id e.pkt).sendChunk l e
    | none => s
  s.emitFlit l f

/-- A flit sent again, counted for its partition; the first chunk of a SYNC packet takes the time of this sending (R530, R600). -/
def State.resendFlit (s : State) (l : Nat) (e : TxFlit) : State :=
  let k := e.sbPkt.map (fun k => if e.sbIdx = 0 then s.stampSync l k else k)
  let f : Flit := { e.flit with
    ack := (s.link l).rxSeq - 1#24, nak := (s.link l).nakOut, sb := k.map (fun k => (k.dl, sbChunk k e.sbIdx)) }
  let s := s.updLink l (fun x => { x with
    resend := x.resend.tail, nakOut := false
    replay := x.replay.map (fun y => if y.flit.seq = f.seq then { e with flit := f, count := e.count + 1, sbPkt := k } else y) })
  let s := match k with
    | some k => s.restamp l e.sbId k
    | none => s
  let s := if f.owner.toNat < 8 then
      s.updPart f.owner.toNat (fun p => { p with linkRpl := p.linkRpl.upd 0 l (fun n => n + 1) })
    else s
  s.emitFlit l f

/-- LINK_SLOT: at each slot one flit is sent: one to be resent first, else a new one of the slot's owner or of a borrower, while
the replay buffer has room (R530, R539). -/
def execLinkSlot (l : Fin 7) (s : State) : Out :=
  let l := l.val
  whenLive s (
    if !s.flitsOn l then s
    else
      let s := match (s.link l).resend with
        | n :: _ => match (s.link l).replay.find? (fun (e : TxFlit) => e.flit.seq == n) with
          | some e => s.resendFlit l e
          | none => s.updLink l (fun x => { x with resend := x.resend.tail })
        | [] => if (s.link l).replay.length ≥ 256 then s else s.sendFlit l
      s.updLink l (fun x => { x with slotPos := (x.slotPos + 1) % 64 }))

/-- SLOTMAP_APPLY: at a frame boundary the committed map takes effect; credits in use stay in use (R541, R877). -/
def execSlotmapApply (l : Fin 7) (s : State) : Out :=
  whenLive s (match (s.link l.val).slotmapNew with
    | none => s
    | some m => s.updLink l.val (fun x => x.applyMap m))

/-! ### Lanes (R577 to R582) -/

/-- LANE_FAIL: a lane has lost lock: the link stops and retrains (R577). -/
def execLaneFail (l : Fin 7) (lane : Fin 8) (s : State) : Out :=
  whenLive s (if !s.linkUp l.val then s else s.failLanes l.val [lane.val])

/-- The state in which a retrain ends, by the lanes that passed their check (R579, R580): 8 lanes unless the link is degraded and
FULL was not written; else lanes 0 to 3, else lanes 4 to 7, else failed. -/
def Link.trained (x : Link) (ok : Byte) : BitVec 3 :=
  if ok = 0xFF#8 ∧ (x.lanes = 0#2 ∨ x.full = true) then 2#3
  else if ok.extractLsb' 0 4 = 0xF#4 then 3#3
  else if ok.extractLsb' 4 4 = 0xF#4 then 4#3
  else 5#3

/-- A transit packet discarded before it left: its units at hand give their buffer back, and those to come are skipped (R581). -/
def State.dropTransit (s : State) (e : TxEnt) : State :=
  let o := packetOwner e.pkt
  (s.updLink e.input (fun x => { x with skip := x.skip.upd 0 (8 * o + e.inCls) (fun a => a + e.due) })).freeUnits e.input o e.units.length

/-- Units that nothing constrains. -/
def freeUnits256 (ctr n : Nat) : List (BitVec 256) := (upTo n).map (fun i => BitVec.ofNat 256 (leVal (freeBytes ctr (32 * i) 32)))

/-- The packets that come by a link which has failed have no more units: what is missing of those being forwarded is undefined
(log 65). -/
def State.breakOff (s : State) (l : Nat) : State :=
  let pad (e : TxEnt) : TxEnt :=
    if e.input = l then { e with units := e.units ++ freeUnits256 (s.freeAt e.pkt.part.toNat) e.due, due := 0 } else e
  let side (e : SbEnt) : SbEnt :=
    if e.input = l && decide (e.due > 0) then
      let n := e.pkt.len.toNat - e.pkt.data.length
      { e with due := 0, pkt := { e.pkt with data := e.pkt.data ++ freeBytes s.freeCtr 0 n } }
    else e
  let s := (upTo 7).foldl (fun s m => s.updLink m (fun x => { x with
    txq := x.txq.map pad, txCur := x.txCur.mapV (fun _ e => pad e), sbq := x.sbq.map side })) s
  let s := { s with freeCtr := s.freeCtr + 1 }
  (upTo 8).foldl (fun s p => s.freshP p 1) s

/-- The transit packets queued for a failed link, or begun, are discarded and counted, those of the sideband too, with their buffers
given back; packets of this device go by another way (R562, R581). -/
def State.flushLink (s : State) (l : Nat) : State :=
  let x := s.link l
  let q := x.txq ++ x.txCur.map (fun e => e.2)
  let transit := q.filter (fun e => decide (e.input < 7))
  let side := x.sbq.filter (fun e => decide (e.input < 7))
  let s := s.updLink l (fun x => { x with
    txq := [], txCur := [], part := [], replay := [], resend := [], sbq := [], sbIn := [], sbPass := [], skip := []
    dropped := x.dropped + transit.length + side.length })
  let s := transit.foldl (fun s e => s.dropTransit e) s
  let s := side.foldl (fun s e => s.sbReturn e.input e.id (chunksOf e.pkt)) s
  let s := s.breakOff l
  let s := (x.txq.filter (fun e => e.input == 7)).foldl (fun s e => if e.pkt.pair then s else s.sendPacket 7 e.pkt) s
  (x.sbq.filter (fun e => e.input == 7 && !e.pkt.pair && !e.pkt.bc && e.pkt.type == 6#4)).foldl (fun s e => s.sendPacket 7 e.pkt) s

/-- RETRAIN_DONE: the check of each lane is known, and the link resumes with a replay, degraded or not, or has failed. A device
without coordinates enters a failed link in its fault map when it takes them (log 55). -/
def execRetrainDone (l : Fin 7) (ok : Byte) (s : State) : Out :=
  let l := l.val
  whenLive s (
    if (s.link l).state ≠ 1#3 || !(s.link l).en then s
    else
      let st := (s.link l).trained ok
      let s := s.updLink l (fun x => { x with
        state := st, laneOk := ok, full := false, discarding := false, nakOut := false
        lanes := if st = 2#3 then 0#2 else if st = 3#3 then 1#2 else if st = 4#3 then 2#2 else x.lanes
        resend := x.replay.map (fun e => e.flit.seq), corr := [] })
      let bad := s.dev.faultMap.contains (s.dev.node, l)
      if st = 5#3 then
        let s := if bad then s else if s.dev.enumerated then s.ownFault l false else { s with dev := { s.dev with
          early := s.dev.early.filter (fun m => m != l) ++ [l] } }
        (s.flushLink l).postDev 0x04 3 l 0 0
      else
        let s := { s with dev := { s.dev with early := s.dev.early.filter (fun m => m != l) } }
        let s := if bad then s.ownFault l true else s
        if st = 2#3 then s else (s.linkCnt l 0x114).postDev 0x05 3 l 0 0)

end Sys2Proof.Machine
end

