-- ==== Sys2Proof/Machine/Boot.lean ====
section
/-! DEFINITION. Reset, boot, and the rails and clocks as their pins tell of them (R646 to R653, R747, R748, R752, R836, R897,
R899 to R905, Tables HST-11 to HST-14 and PIN-3). -/
namespace Sys2Proof.Machine

/-! ### Reset (R588, R646 to R648, R836) -/

/-- The main reset: every part of the device but Insole is reset; the flash keeps its contents, the rails and the pins their
levels, and the TAP, which TRST_N and VDDIO_18 reset, its state (R648, R654, R909, R912). AON_WAKE falls (R728). -/
def State.mainReset (s : State) : State :=
  let d := State.reset.dbg
  { State.reset with
    aon := { s.aon with wakePin := false }
    flash := s.flash
    pending := s.pending
    freeCtr := s.freeCtr
    dbg := { d with
      ir := s.dbg.ir, chain := s.dbg.chain, bsr := s.dbg.bsr, tdo := s.dbg.tdo, pinCtl := s.dbg.pinCtl, tapData := s.dbg.tapData }
    pins := { s.pins with resetN := false, freezeN := true, pwrRet := false, clocksOn := false } }

/-- RESET_N_FALL: the main device is reset, and a freeze ends (R648, R836). -/
def execResetNFall (s : State) : Out := if s.pins.resetN then .next s.mainReset else .next s

/-- The root secret that the n-th boot reconstructs: the first of three attempts whose SHAKE256 is the check value; none when all differ
or the helper data cannot be read (R748). -/
def pufSecret (n : Nat) (flash : List (Nat × Byte)) : Option (BitVec 256) :=
  match Config.pufHelper flash with
  | none => none
  | some x => ((upTo 3).map (fun i => Config.pufTry n i x.1)).find? (fun r => shake256 (leBytes 32 r.toNat) == x.2)

/-- The ROM starts: the straps are sampled; both 1 are STRAP_ERROR, an unreadable root secret is FLASH_ERROR, and in either case
the ROM stops; else it waits for an image, with the boot value drawn (R646, R647, R748, R752). -/
def State.romStart (s : State) : State :=
  let m := s.pins.masterSel
  let b := s.pins.bootSrcPin
  let s := { s with dev := { s.dev with master := m, bootSrc := b } }
  if m && b then { s with dev := { s.dev with boot := 6#4 }, boot := { s.boot with romStopped := true } }
  else
    let n := s.freeCtr
    let s := { s with freeCtr := n + 1 }
    match pufSecret n s.flash with
    | none => { s with dev := { s.dev with boot := 9#4 }, boot := { s.boot with romStopped := true } }
    | some rs => { s with sec := { s.sec with pufOk := true, drbgOk := Config.drbgGood, rs := rs, bv := Config.bootValue n } }

/-- RESET_N_RISE: the EN outputs are the Gaffer's, a pin control of the TAP ends, and the ROM starts (R646, R909, R913). -/
def execResetNRise (s : State) : Out :=
  if s.pins.resetN || !s.pins.vddAon || !s.pins.insoleUp || s.pins.mainOff || s.pins.enSeq.isSome then .next s
  else
    let ir := if s.dbg.pinCtl = 0#2 then s.dbg.ir else 0xFF#8
    .next (State.romStart { s with
      pins := { s.pins with resetN := true, en := 0x1FFF#13 }
      dbg := { s.dbg with ir := ir, pinCtl := 0#2 } })

/-- PLL_LOCK: CK_CTL and the other PLLs have locked: Slate counts from zero, and the links train (R568, R588). -/
def execPllLock (s : State) : Out :=
  if !s.pins.resetN || s.time.locked || s.pins.mainOff || s.dbg.freeze != 0#25 then .next s
  else
    let s := { s with
      pins := { s.pins with clocksOn := true, refclk := true }, time := { s.time with locked := true } }
    .next ((upTo 7).foldl (fun s l => s.updLink l (fun x =>
      if x.en then { x with state := 1#3, trainNs := s.nsW } else x)) s)

/-! ### Images (R649 to R653) -/

/-- IMAGE_RECEIVE: bytes of an image arrive on EP2 OUT, stream 9, in bursts, which full speed does not offer; with the last of them its
verification begins (R609, R616, R649). -/
def execImageReceive (data : List Byte) (last : Bool) (s : State) : Out :=
  if s.live && s.wantsImage && !s.dev.bootSrc && s.usbBulk then
    .next (s.inBursts 8 data.length (fun s =>
      let l := s.usbData ++ data
      if last then s.imageWhole l else s.imageSome l))
  else .next s

/-- The fixed fields of an image are in range, and the device-controller code lies within BODY (Table HST-13, R651 check 1). -/
def imageFormat (l : List Byte) : Bool :=
  let n := recN l 8 4
  let off := recN l 16 4
  let len := recN l 20 4
  let ent := recN l 24 4
  recN l 0 4 == 0x34365154 && recN l 4 4 == 1 && n == l.length && decide (30048 ≤ n) && decide (n ≤ 31457280) &&
    off % 64 == 0 && decide (len ≤ 0x100000) && ent % 8 == 0 && decide (ent < len) && decide (256 ≤ off) &&
    decide (off + len ≤ n - 29792) &&
    ((l.drop 28).take 36).all (fun b => b == 0#8) && ((l.drop 128).take 128).all (fun b => b == 0#8)

/-- The verdict on an image: 8 accepted, else the code of Table HST-14 that rejects it (R651). -/
def imageVerdict (l : List Byte) : BitVec 4 :=
  let pk := (l.drop 64).take 64
  let n := l.length - 29792
  if !imageFormat l then 3#4
  else if shake256 pk != Config.vendorKeyHash then 4#4
  else if !slhVerify pk (l.take n) (l.drop n) then 5#4
  else 8#4

/-- Word i of the audio calibration in the flash (R707). -/
def State.calibWord (s : State) (i : Nat) : W32 :=
  BitVec.ofNat 32 (leVal ((upTo 4).map (fun b => s.flashRd (0x1100000 + 4 * i + b))))

/-- Firmware copies the 80 entries into AUD, and those of the PDM channels into AON (R708). -/
def State.copyCalib (s : State) : State :=
  let t := (upTo 80).foldl (fun t i => t.calibWr i (s.calibWord i)) s
  { t with aon := { t.aon with calib := (t.aud.calib.filter (fun e => 64 ≤ e.1)).map (fun e => (e.1 - 64, e.2)) } }

/-- The firmware of an accepted image starts: the measurement and the version are recorded, the device-controller code stands in
local memory, the rows that the flash records are repaired, the stacks are trained and in self-refresh, and the timestamp latencies
and the audio calibration are copied (R454, R457, R596, R601, R649, R651, R653, R708). -/
def State.startFirmware (s : State) (l : List Byte) : State :=
  let code := (l.drop (recN l 16 4)).take (recN l 20 4)
  let ent := recN l 24 4
  let mem : SMap Byte := ((code.zip (upTo code.length)).filter (fun x => x.1 != 0#8)).map (fun x => (x.2, x.1))
  let stks : SMap Hbm := (upTo 8).map (fun n => (n, { s.stack n with state := 3#2, hard := s.repairRows n }))
  State.copyCalib { s.clearRange (clStore 0 0) 0x2000000 with
    boot := { s.boot with entry := BitVec.ofNat 32 ent, running := true, startNs := s.nsW, ctlImage := Config.ctlImage l }
    dev := { s.dev with boot := 8#4, fwver := BitVec.ofNat 32 (recN l 12 4) }
    sec := { s.sec with fwm := shake256 l }
    devCtl := { Ctl.init with pc := BitVec.ofNat 64 (localBase + ent), mem := mem }
    hbm := stks
    time := { s.time with
      ethTx := Config.latency s.flash 0, ethRx := Config.latency s.flash 1
      ltx := (upTo 7).map (fun n => (n, Config.latency s.flash (2 + n)))
      lrx := (upTo 7).map (fun n => (n, Config.latency s.flash (9 + n))) } }

/-- IMAGE_VERIFY_DONE: the verdict on the image received; a rejected one leaves nothing running, and the ROM accepts another
(R651, R652). -/
def execImageVerifyDone (s : State) : Out :=
  if !s.live || s.dev.boot != 2#4 then .next s
  else
    let l := s.boot.image
    let v := imageVerdict l
    if v = 8#4 then
      let s := s.startFirmware l
      .next (if s.dev.master then s.startEnum else s.sendReport 1 8)
    else
      let s := { s with dev := { s.dev with boot := v }, boot := { s.boot with image := [] } }
      .next (if s.dev.master then s else s.sendReport 1 v.toNat)

/-! ### Rails (R897, R899 to R905) -/

/-- VDD_AON_RISE: Insole and the rest of the device are in reset, every EN output and MAIN_OFF low (R648, R897, R900). -/
def execVddAonRise (s : State) : Out :=
  if s.pins.vddAon then .next s
  else
    let s := s.mainReset.tapReset
    .next { s with
      aon := Aon.init
      pins := { s.pins with
        vddAon := true, insoleUp := false, en := 0#13, pg := 0#14, mainOff := false, off := false, shutdown := false
        latched := false, therm := false, enSeq := none, refclk := false } }

/-- INSOLE_POR_DONE: Insole leaves its power-on reset, 1 ms after VDD_AON rose (R900). -/
def execInsolePorDone (s : State) : Out :=
  .next (if s.pins.vddAon then { s with pins := { s.pins with insoleUp := true } } else s)

/-- PG_SOC_RISE: with MAIN_OFF and every EN output low, the EN sequence of Table PIN-3 begins; VDDIO_18 has risen with VDD_SOC
(R900, R912, Table PIN-2). -/
def execPgSocRise (s : State) : Out :=
  if !s.pins.vddAon || !s.pins.insoleUp || s.pins.mainOff || s.pins.en != 0#13 || s.pins.enSeq.isSome then .next s
  else
    let s := s.tapReset
    .next { s with pins := { s.pins with pg := s.pins.pg ||| 1#14, enSeq := some 0 } }

/-- EN_SEQUENCE_STEP: the next EN output rises in the order SRAM, SD, IO12, HBM0, HBM1, CL0 to CL7, and its rail's PG input
follows it (R896, R900, Table PIN-3). -/
def execEnSequenceStep (s : State) : Out :=
  match s.pins.enSeq with
  | none => .next s
  | some i => .next { s with pins := { s.pins with
      en := s.pins.en ||| (1#13 <<< i), pg := s.pins.pg ||| (1#14 <<< (i + 1)), enSeq := if i ≥ 12 then none else some (i + 1) } }

/-- Insole drives every EN output low and raises MAIN_OFF, and every domain but CK_AON has stopped; transitions end at once (R903,
R904). -/
def State.stopAll (s : State) : State :=
  { s.tdmTouchAll with
    pins := { s.pins with clocksOn := false, en := 0#13, mainOff := true, shutdown := true, pwrRet := false, enSeq := none }
    gaf := { s.gaf with cur := none, waiting := [], clTrans := [], heldWake := none } }

/-- PG_TIMEOUT: the PG input n of an EN output that rose in the sequence has not risen in 150 µs: the rails are shut down until
VDD_AON is removed (R901). -/
def execPgTimeout (n : Fin 14) (s : State) : Out :=
  if n.val = 0 ∨ s.pins.resetN = true ∨ s.pins.vddAon = false ∨ s.pins.en.getLsbD (n.val - 1) = false then .next s
  else
    let s := s.stopAll
    .next { s with pins := { s.pins with latched := true, pg := s.pins.pg &&& ~~~(1#14 <<< n.val) } }

/-- PG_LOSS: the PG input of a rail in use that is no cluster's falls: every domain but CK_AON stops, and the rails are shut down
(R903). -/
def execPgLoss (n : Fin 14) (s : State) : Out :=
  let used : Bool := if n.val = 0 then !s.pins.mainOff else s.pins.en.getLsbD (n.val - 1)
  if n.val ≥ 6 ∨ s.dbg.freeze ≠ 0#25 ∨ s.pins.vddAon = false ∨ used = false then .next s
  else
    let s := s.stopAll
    .next { s with pins := { s.pins with pg := s.pins.pg &&& ~~~(1#14 <<< n.val) } }

/-- REFCLK_LOSS: REFCLK stops while its input is supplied: as for PG_LOSS (R903; VDD_SD supplies the input, Table PIN-2). -/
def execRefclkLoss (s : State) : Out :=
  let on := s.pins.en.getLsbD 1
  let s := { s with pins := { s.pins with refclk := false } }
  .next (if s.dbg.freeze = 0#25 ∧ on = true then s.stopAll else s)

/-- Requests of a cluster's controller leave the mailbox. -/
def State.dropMbox (s : State) (c : Nat) : State :=
  (upTo 8).foldl (fun s p => s.updPart p (fun x => { x with mbox := x.mbox.filter (fun m => m.1 != c) })) s

/-- What ran in a cluster that loses power ends: steps and chunks FAULTED, its Reels OUT, fabric commands and mailbox requests dropped
(R341, R345, R902). -/
def State.cutCluster (s : State) (c : Nat) : State :=
  let s := match s.ownerCl c with
    | none => s
    | some p =>
      let hit (j : Nat) : Bool := (s.jobCores p j).any (fun k => keyCl k == c)
      let jobs := (s.part p).jobs.keys.filter hit
      let s := jobs.foldl (fun (s : State) j => if (s.job p j).running.isSome then s.endJobStep p j else s) s
      (upTo 9).foldl (fun s j =>
        let k := coreKey c j
        let s := (s.abandonDma p k).loseReels p k
        let q := (s.core k).chunkq
        let s := s.updCore k (fun x => { x with chunkq := [] })
        q.foldl (fun s x => s.finishChunk p x stFaulted 0) s) s
  (s.updCl c (fun x => { x with fab := [] })).dropMbox c

/-- The transition that has powered a cluster in its rise fails (R737). -/
def State.failRiseOf (s : State) (c : Nat) : State :=
  match s.gaf.cur with
  | some t => if t.rising && t.raised.getLsbD c then s.failRise none t c else s
  | none => match s.gaf.clTrans.find? (fun t => t.rising && t.raised.getLsbD c) with
    | some t => if h : t.part < 8 then s.failRise (some ⟨t.part, h⟩) t c else s
    | none => s

/-- PG_CL_FALL: the power-good of a powered cluster falls: the Gaffer gates the cluster, its jobs are FAULTED, RAILERR is set and
EV_FAULT_CORE of KIND 7 goes out (R902); a rise that powered it fails (R737, R904). -/
def execPgClFall (c : Fin 8) (s : State) : Out :=
  let c := c.val
  if !s.live || !(s.cl c).powered then .next s
  else
    let s := s.failRiseOf c
    let s := s.cutCluster c
    let s := s.postUnit 0x03 7 c ((s.logCl ((s.ownerCl c).getD 8) c).getD 0) c 7 3 0 0 0 0
    let s := s.gateCluster c
    let s := { s with
      pins := { s.pins with en := s.pins.en &&& ~~~(enCl c), pg := s.pins.pg &&& ~~~(1#14 <<< (6 + c)) }
      gaf := { s.gaf with railErr := true } }
    let s := s.settleTrim
    .next (match s.ownerCl c with
      | some p => s.schedule p
      | none => s)

/-- MAIN_RESTART: RESET_N has been low for 1 ms after R903 or THERMTRIP_N: Insole lowers MAIN_OFF (R905). -/
def execMainRestart (s : State) : Out :=
  if s.pins.resetN || !(s.pins.shutdown || s.pins.therm) || s.pins.latched || !s.pins.vddAon then .next s
  else .next { s with pins := { s.pins with shutdown := false, therm := false, mainOff := false } }

/-- VDD_AON_LOSS: every switched rail turns off, and the device is OFF: nothing is retained but the flash (R725, R897). -/
def execVddAonLoss (s : State) : Out :=
  if !s.pins.vddAon then .next s
  else
    let s := s.mainReset.tapReset
    .next { s with
      aon := Aon.init
      pins := { s.pins with
        vddAon := false, insoleUp := false, en := 0#13, pg := 0#14, mainOff := false, off := true, shutdown := false
        latched := false, therm := false, enSeq := none, refclk := false, vrAlert := false } }

end Sys2Proof.Machine
end

