-- ==== Sys2Proof/Machine/Branch.lean ====
section
/-! DEFINITION. Branches and jumps (R195 to R197), of threads and controllers. -/
namespace Sys2Proof.Machine

/-- The target PC + sext(IMM) × 8. -/
def relTarget (pc : W64) (w : W64) : W64 := pc + immS w * 8#64

/-- A branch: the condition over A and B decides between the target and the next word (R195). -/
def branchThr (cond : W64 → W64 → Bool) (w : W64) (h : Hart) (s : State) : Res :=
  let t := s.thr h.key h.thr.val
  if unusedSet w (mO + mA + mB + mI) then .fault fcIllegal 0
  else if cond (t.g (fA w)) (t.g (fB w)) then .jump s (relTarget t.pc w)
  else .done s

/-- A branch of a controller. -/
def branchCtl (cond : W64 → W64 → Bool) (w : W64) (c : Option Nat) (s : State) : Res :=
  let t := s.ctl c
  if unusedSet w (mO + mA + mB + mI) then .fault fcIllegal 0
  else if cond (t.g (fA w)) (t.g (fB w)) then .jump s (relTarget t.pc w)
  else .done s

/-- The meaning of a branch row. -/
def branchRow (op : Nat) (cond : W64 → W64 → Bool) (a : Agent) (w : W64) (s : State) : Out :=
  issueMeaning op a w s [] [] (branchThr cond w) (branchCtl cond w)

/-- BEQ. -/
def execBeq (a : Agent) (w : W64) (s : State) : Out := branchRow 0x30 (fun x y => x == y) a w s
/-- BNE. -/
def execBne (a : Agent) (w : W64) (s : State) : Out := branchRow 0x31 (fun x y => x != y) a w s
/-- BLT, signed. -/
def execBlt (a : Agent) (w : W64) (s : State) : Out := branchRow 0x32 (fun x y => x.slt y) a w s
/-- BGE, signed. -/
def execBge (a : Agent) (w : W64) (s : State) : Out := branchRow 0x33 (fun x y => !x.slt y) a w s
/-- BLTU, unsigned. -/
def execBltu (a : Agent) (w : W64) (s : State) : Out := branchRow 0x34 (fun x y => x.ult y) a w s
/-- BGEU, unsigned. -/
def execBgeu (a : Agent) (w : W64) (s : State) : Out := branchRow 0x35 (fun x y => !x.ult y) a w s

/-- JAL of a thread: D := PC + 8, then PC + sext(IMM) × 8 (R196). -/
def jalThr (w : W64) (h : Hart) (s : State) : Res :=
  let t := s.thr h.key h.thr.val
  if unusedSet w (mO + mD + mI) then .fault fcIllegal 0
  else .jump (s.updThr h.key h.thr.val (fun x => x.setG (fD w) (t.pc + 8#64))) (relTarget t.pc w)

/-- JAL of a controller. -/
def jalCtl (w : W64) (c : Option Nat) (s : State) : Res :=
  let t := s.ctl c
  if unusedSet w (mO + mD + mI) then .fault fcIllegal 0
  else .jump (s.updCtl c (fun x => x.setG (fD w) (t.pc + 8#64))) (relTarget t.pc w)

/-- JALR of a thread: D := PC + 8, then A + sext(IMM); a target that is not a multiple of 8 raises ALIGN and changes
neither (R197). -/
def jalrThr (w : W64) (h : Hart) (s : State) : Res :=
  let t := s.thr h.key h.thr.val
  let target := t.g (fA w) + immS w
  if unusedSet w (mO + mD + mA + mI) then .fault fcIllegal 0
  else if target.toNat % 8 ≠ 0 then .fault fcAlign 0
  else .jump (s.updThr h.key h.thr.val (fun x => x.setG (fD w) (t.pc + 8#64))) target

/-- JALR of a controller. -/
def jalrCtl (w : W64) (c : Option Nat) (s : State) : Res :=
  let t := s.ctl c
  let target := t.g (fA w) + immS w
  if unusedSet w (mO + mD + mA + mI) then .fault fcIllegal 0
  else if target.toNat % 8 ≠ 0 then .fault fcAlign 0
  else .jump (s.updCtl c (fun x => x.setG (fD w) (t.pc + 8#64))) target

/-- JAL. -/
def execJal (a : Agent) (w : W64) (s : State) : Out := issueMeaning 0x38 a w s [] [] (jalThr w) (jalCtl w)
/-- JALR. -/
def execJalr (a : Agent) (w : W64) (s : State) : Out := issueMeaning 0x39 a w s [] [] (jalrThr w) (jalrCtl w)

end Sys2Proof.Machine
end

