-- ==== Sys2Proof/Machine/LoadStore.lean ====
section
/-! DEFINITION. Scalar loads and stores, and the controller-only instructions (R187, R191 to R194, R289 to R300, R462). -/
namespace Sys2Proof.Machine

/-! ### A controller's accesses to the CSR space (R293, R859, R860) -/

/-- The requester that a controller is. -/
def ctlReq (c : Option Nat) : Requester :=
  match c with
  | some n => if h : n < 8 then .clCtl ⟨n, h⟩ else .walker
  | none => .devCtl

/-- Whether a controller may address a CSR: the device controller any, a cluster controller its own CL block (R293). -/
def ctlMayCsr (c : Option Nat) (off : Nat) : Bool := c.isNone || Requester.reaches (ctlReq c) off

/-- n bytes read in the CSR space: the register or registers that hold them, in ascending order (log 57). -/
def State.csrBytes (s : State) (c : Option Nat) (off n : Nat) : List Byte × State :=
  let a := s.csrGet (ctlReq c) (off / 4 * 4)
  if n ≤ 4 then ((((leBytes 4 a.1.toNat).drop (off % 4)).take n), a.2)
  else
    let b := a.2.csrGet (ctlReq c) (off + 4)
    (leBytes 4 a.1.toNat ++ leBytes 4 b.1.toNat, b.2)

/-- Bytes written in the CSR space, in whole registers; a narrower store changes nothing (log 57). -/
def State.csrStore (s : State) (c : Option Nat) (off : Nat) (l : List Byte) : State :=
  if l.length < 4 then s
  else
    let s := s.csrPut (ctlReq c) off (BitVec.ofNat 32 (leVal (l.take 4)))
    if l.length < 8 then s else s.csrPut (ctlReq c) (off + 4) (BitVec.ofNat 32 (leVal (l.drop 4)))

/-! ### Loads and stores -/

/-- The load of a scalar load of n bytes (R191). -/
def scalarLoad (n : Nat) (w a : W64) : PendLoad :=
  { PendLoad.init with reg := BitVec.ofNat 5 (fD w), bytes := n, sext := xBit w 0, va := BitVec.ofNat 64 (addrOf a w) }

/-- A scalar load of a controller (R290, R291): a register of the CSR space is read at once. -/
def loadCtl (n : Nat) (w : W64) (c : Option Nat) (s : State) : Res :=
  let l := scalarLoad n w ((s.ctl c).g (fA w))
  let a := l.va.toNat
  if unusedSet w (mO + mD + mA + mX0 + mI) then .fault fcIllegal 0
  else match s.ctlFaultAt c a n with
    | some code => .fault code a
    | none => match regionOf a with
      | .csr off =>
        if !ctlMayCsr c off then .fault fcPriv a
        else
          let r := s.csrBytes c off n
          .done (r.2.updCtl c (fun t => t.setG (fD w) (loadVal r.1 l.sext)))
      | _ => .done (s.updCtl c (fun t => { t with load := some l }))

/-- A scalar store of a controller (R192, R290). A unit that it covers only in part is read (R449, R452). -/
def storeCtl (n : Nat) (w : W64) (e : MemErr) (c : Option Nat) (s : State) : Res :=
  let t := s.ctl c
  let a := addrOf (t.g (fA w)) w
  let l := leBytes n (t.g (fB w)).toNat
  if unusedSet w (mO + mB + mA + mI) then .fault fcIllegal 0
  else match s.ctlFaultAt c a n with
    | some code => .fault code a
    | none => match regionOf a with
      | .csr off => if !ctlMayCsr c off then .fault fcPriv a else .done (s.csrStore c off l)
      | _ =>
        if s.ctlWaits a n then .block s
        else
          let s := s.ctlMeet a (edgesOf (unitSize a) (unitSize a) a n) e
          if s.ctlBadPart a n then .faultAt s fcUe a else .done (s.ctlWrite c a l)

/-- The address that a scalar access of an agent touches. -/
def State.touchAt (s : State) (a : Agent) (w : W64) : Nat :=
  match a with
  | .thread h => addrOf ((s.thr h.key h.thr.val).g (fA w)) w
  | _ => addrOf ((s.ctl (ctlOf a)).g (fA w)) w

/-- The meaning of a scalar load of n bytes. -/
def loadRow (op n : Nat) (a : Agent) (w : W64) (s : State) : Out :=
  issueMeaning op a w s [] [(1, s.touchAt a w, n)]
    (fun h s => loadSem (mO + mD + mA + mX0 + mI) n w (fun t => scalarLoad n w (t.g (fA w))) h s) (loadCtl n w)

/-- The meaning of a scalar store of n bytes. -/
def storeRow (op n : Nat) (a : Agent) (w : W64) (e : MemErr) (s : State) : Out :=
  issueMeaning op a w s [] [(2, s.touchAt a w, n)]
    (fun h s => storeSem w (mO + mB + mA + mI) n (fun t => addrOf (t.g (fA w)) w) (fun t => leBytes n (t.g (fB w)).toNat) e h s)
    (storeCtl n w e)

/-- LD8. -/
def execLd8 (a : Agent) (w : W64) (s : State) : Out := loadRow 0x20 1 a w s
/-- LD16. -/
def execLd16 (a : Agent) (w : W64) (s : State) : Out := loadRow 0x21 2 a w s
/-- LD32. -/
def execLd32 (a : Agent) (w : W64) (s : State) : Out := loadRow 0x22 4 a w s
/-- LD64. -/
def execLd64 (a : Agent) (w : W64) (s : State) : Out := loadRow 0x23 8 a w s
/-- ST8. -/
def execSt8 (a : Agent) (w : W64) (e : MemErr) (s : State) : Out := storeRow 0x24 1 a w e s
/-- ST16. -/
def execSt16 (a : Agent) (w : W64) (e : MemErr) (s : State) : Out := storeRow 0x25 2 a w e s
/-- ST32. -/
def execSt32 (a : Agent) (w : W64) (e : MemErr) (s : State) : Out := storeRow 0x26 4 a w e s
/-- ST64. -/
def execSt64 (a : Agent) (w : W64) (e : MemErr) (s : State) : Out := storeRow 0x27 8 a w e s

/-! ### Controller-only instructions (Table ISA-16) -/

/-- On a core the controller-only opcodes raise PRIV, after the encoding check (R186, R187). -/
def privThr (mask : Nat) (w : W64) (_ : Hart) (_ : State) : Res :=
  if unusedSet w mask then .fault fcIllegal 0 else .fault fcPriv 0

/-- A controller's own register at an address below 0x100 (R294). The addresses that R294 does not list read zero and ignore
writes (log 77, DESIGN CHOICE). -/
def Ctl.ownRd (t : Ctl) (a : Nat) : W32 :=
  match a with
  | 0x000 => t.epc.setWidth 32
  | 0x004 => BitVec.ofNat 32 (t.epc.toNat / 2 ^ 32)
  | 0x008 => t.ecause.setWidth 32
  | 0x00C => t.hbase.setWidth 32
  | 0x010 => BitVec.ofNat 32 (t.hbase.toNat / 2 ^ 32)
  | _ => 0#32

/-- A controller's own register written (R294). -/
def Ctl.ownWr (t : Ctl) (a : Nat) (v : W32) : Ctl :=
  match a with
  | 0x000 => { t with epc := (t.epc.extractLsb' 32 8) ++ v }
  | 0x004 => { t with epc := (v.setWidth 8) ++ (t.epc.setWidth 32) }
  | 0x008 => { t with ecause := v.setWidth 8 }
  | 0x00C => { t with hbase := (t.hbase.extractLsb' 32 8) ++ v }
  | 0x010 => { t with hbase := (v.setWidth 8) ++ (t.hbase.setWidth 32) }
  | _ => t

/-- What the address of a CSRR or CSRW reaches: an own register, a CSR, or a fault (R293, R294, Table ISA-14). -/
inductive CsrAt where
  | own (a : Nat)
  | reg (off : Nat)
  | bad (code : Nat)
  deriving DecidableEq, Repr

/-- Where a CSRR or CSRW of a controller goes. -/
def csrAt (c : Option Nat) (a : Nat) : CsrAt :=
  if a % 4 ≠ 0 then .bad fcAlign
  else if a < 0x100 then .own a
  else match regionOf a with
    | .csr off => if ctlMayCsr c off then .reg off else .bad fcPriv
    | .hole => .bad fcTier
    | _ => if c.isSome then .bad fcPriv else .bad fcTier

/-- CSRR of a controller. -/
def csrrCtl (w : W64) (c : Option Nat) (s : State) : Res :=
  let a := addrOf ((s.ctl c).g (fA w)) w
  if unusedSet w (mO + mD + mA + mI) then .fault fcIllegal 0
  else match csrAt c a with
    | .bad code => .fault code a
    | .own o => .done (s.updCtl c (fun t => t.setG (fD w) ((t.ownRd o).setWidth 64)))
    | .reg off =>
      let r := s.csrGet (ctlReq c) off
      .done (r.2.updCtl c (fun t => t.setG (fD w) (r.1.setWidth 64)))

/-- CSRW of a controller. -/
def csrwCtl (w : W64) (c : Option Nat) (s : State) : Res :=
  let a := addrOf ((s.ctl c).g (fA w)) w
  let v : W32 := ((s.ctl c).g (fB w)).setWidth 32
  if unusedSet w (mO + mB + mA + mI) then .fault fcIllegal 0
  else match csrAt c a with
    | .bad code => .fault code a
    | .own o => .done (s.updCtl c (fun t => t.ownWr o v))
    | .reg off => .done (s.csrPut (ctlReq c) off v)

/-- WFE of a controller: the next event word, or a wait for one (R297). -/
def wfeCtl (w : W64) (c : Option Nat) (s : State) : Res :=
  if unusedSet w (mO + mD) then .fault fcIllegal 0
  else match (s.ctl c).events with
    | e :: r => .done (s.updCtl c (fun t => { (t.setG (fD w) e) with events := r }))
    | [] => .block (s.updCtl c (fun t => { t with wfe := some (fD w) }))

/-- ERET of a controller: to EPC, with ECAUSE cleared. -/
def eretCtl (w : W64) (c : Option Nat) (s : State) : Res :=
  if unusedSet w mO then .fault fcIllegal 0
  else .jump (s.updCtl c (fun t => { t with ecause := 0#8 })) ((s.ctl c).epc.setWidth 64)

/-- A request enters its partition's mailbox; a full one makes its controller wait (R300). -/
def State.mboxPut (s : State) (c : Nat) (l : List Byte) : State :=
  match s.ownerCl c with
  | none => s
  | some p =>
    if (s.part p).mbox.length ≥ 16 then s.updCtl (some c) (fun t => { t with mboxWait := some l })
    else s.updPart p (fun x => { x with mbox := x.mbox ++ [(c, l)] })

/-- MBOX.POST of a controller: the 64 bytes at gA are read and posted (R298 to R300). The device controller has no partition,
and posts nothing (log 58). -/
def mboxPostCtl (w : W64) (e : MemErr) (c : Option Nat) (s : State) : Res :=
  let a := ((s.ctl c).g (fA w)).toNat
  if unusedSet w (mO + mA) then .fault fcIllegal 0
  else match (upTo 64).findSome? (fun i => s.ctlFaultAt c (a + i) 1) with
    | some code => .fault code a
    | none =>
      if s.ctlWaits a 64 then .block s
      else
        let s := s.ctlMeet a [(a, 64)] e
        if s.ctlBad a 64 then .faultAt s fcUe a
        else match c with
          | some n => .done (s.mboxPut n (s.ctlRead c a 64))
          | none => .done s

/-- CSRR. -/
def execCsrr (a : Agent) (w : W64) (s : State) : Out :=
  issueMeaning 0xE0 a w s [] [] (privThr (mO + mD + mA + mI) w) (csrrCtl w)
/-- CSRW. -/
def execCsrw (a : Agent) (w : W64) (s : State) : Out :=
  issueMeaning 0xE1 a w s [] [] (privThr (mO + mB + mA + mI) w) (csrwCtl w)
/-- WFE. -/
def execWfe (a : Agent) (w : W64) (s : State) : Out := issueMeaning 0xE2 a w s [] [] (privThr (mO + mD) w) (wfeCtl w)
/-- ERET. -/
def execEret (a : Agent) (w : W64) (s : State) : Out := issueMeaning 0xE3 a w s [] [] (privThr mO w) (eretCtl w)
/-- MBOX.POST. -/
def execMboxPost (a : Agent) (w : W64) (e : MemErr) (s : State) : Out :=
  issueMeaning 0xE4 a w s [] [] (privThr (mO + mA) w) (mboxPostCtl w e)

end Sys2Proof.Machine
end

