-- ==== Sys2Proof/Machine/Scalar.lean ====
section
/-! DEFINITION. The scalar instructions (R188 to R190, Table ISA-3), of threads and controllers. -/
namespace Sys2Proof.Machine

/-- Whether a scalar word is well encoded for the fields it uses (R186). -/
def legalMask (w : W64) (mask : Nat) : Bool := !unusedSet w mask

/-- A scalar instruction that computes D from A, B and IMM. -/
def scalarThr (mask : Nat) (f : W64 → W64 → W64 → W64) (w : W64) (h : Hart) (s : State) : Res :=
  if unusedSet w mask then .fault fcIllegal 0
  else
    let t := s.thr h.key h.thr.val
    .done (s.updThr h.key h.thr.val (fun x => x.setG (fD w) (f (t.g (fA w)) (t.g (fB w)) (immS w))))

/-- The same on a controller. -/
def scalarCtl (mask : Nat) (f : W64 → W64 → W64 → W64) (w : W64) (c : Option Nat) (s : State) : Res :=
  if unusedSet w mask then .fault fcIllegal 0
  else
    let t := s.ctl c
    .done (s.updCtl c (fun x => x.setG (fD w) (f (t.g (fA w)) (t.g (fB w)) (immS w))))

/-- The meaning of a scalar row. -/
def scalarRow (op mask : Nat) (f : W64 → W64 → W64 → W64) (a : Agent) (w : W64) (s : State) : Out :=
  issueMeaning op a w s [] [] (scalarThr mask f w) (scalarCtl mask f w)

/-- Fields of the register form. -/
def mRR : Nat := mO + mD + mA + mB
/-- Fields of the immediate form. -/
def mRI : Nat := mO + mD + mA + mI

/-- Shift count: b mod 64. -/
def shCnt (b : W64) : Nat := b.toNat % 64
/-- High half of the signed product. -/
def mulhS (a b : W64) : W64 := BitVec.ofInt 64 ((a.toInt * b.toInt) / (2 ^ 64 : Int))
/-- High half of the unsigned product. -/
def mulhU (a b : W64) : W64 := BitVec.ofNat 64 (a.toNat * b.toNat / 2 ^ 64)
/-- Signed division, truncated toward zero; all ones for a zero divisor, −2^63 for −2^63 / −1 (R189, R190). -/
def divS (a b : W64) : W64 := if b = 0#64 then BitVec.allOnes 64 else BitVec.ofInt 64 (a.toInt.tdiv b.toInt)
/-- Unsigned division (R189). -/
def divU (a b : W64) : W64 := if b = 0#64 then BitVec.allOnes 64 else BitVec.ofNat 64 (a.toNat / b.toNat)
/-- Signed remainder with the sign of A; A for a zero divisor (R189, R190). -/
def remS (a b : W64) : W64 := if b = 0#64 then a else BitVec.ofInt 64 (a.toInt.tmod b.toInt)
/-- Unsigned remainder (R189). -/
def remU (a b : W64) : W64 := if b = 0#64 then a else BitVec.ofNat 64 (a.toNat % b.toNat)
/-- A < b: signed, or unsigned. -/
def sltV (uns : Bool) (a b : W64) : W64 := if (if uns then a.ult b else a.slt b) then 1#64 else 0#64

/-- ADD: D := A + B. -/
def execAdd (a : Agent) (w : W64) (s : State) : Out := scalarRow 0x00 mRR (fun x y _ => x + y) a w s
/-- ADDI: D := A + sext(IMM). -/
def execAddi (a : Agent) (w : W64) (s : State) : Out := scalarRow 0x10 mRI (fun x _ i => x + i) a w s
/-- SUB: D := A − B. -/
def execSub (a : Agent) (w : W64) (s : State) : Out := scalarRow 0x01 mRR (fun x y _ => x - y) a w s
/-- AND. -/
def execAnd (a : Agent) (w : W64) (s : State) : Out := scalarRow 0x02 mRR (fun x y _ => x &&& y) a w s
/-- ANDI. -/
def execAndi (a : Agent) (w : W64) (s : State) : Out := scalarRow 0x12 mRI (fun x _ i => x &&& i) a w s
/-- OR. -/
def execOr (a : Agent) (w : W64) (s : State) : Out := scalarRow 0x03 mRR (fun x y _ => x ||| y) a w s
/-- ORI. -/
def execOri (a : Agent) (w : W64) (s : State) : Out := scalarRow 0x13 mRI (fun x _ i => x ||| i) a w s
/-- XOR. -/
def execXor (a : Agent) (w : W64) (s : State) : Out := scalarRow 0x04 mRR (fun x y _ => x ^^^ y) a w s
/-- XORI. -/
def execXori (a : Agent) (w : W64) (s : State) : Out := scalarRow 0x14 mRI (fun x _ i => x ^^^ i) a w s
/-- SHL: A shifted left by B mod 64. -/
def execShl (a : Agent) (w : W64) (s : State) : Out := scalarRow 0x05 mRR (fun x y _ => x <<< shCnt y) a w s
/-- SHLI. -/
def execShli (a : Agent) (w : W64) (s : State) : Out := scalarRow 0x15 mRI (fun x _ i => x <<< shCnt i) a w s
/-- SHR: logical right shift. -/
def execShr (a : Agent) (w : W64) (s : State) : Out := scalarRow 0x06 mRR (fun x y _ => x >>> shCnt y) a w s
/-- SHRI. -/
def execShri (a : Agent) (w : W64) (s : State) : Out := scalarRow 0x16 mRI (fun x _ i => x >>> shCnt i) a w s
/-- SRA: arithmetic right shift. -/
def execSra (a : Agent) (w : W64) (s : State) : Out := scalarRow 0x07 mRR (fun x y _ => x.sshiftRight (shCnt y)) a w s
/-- SRAI. -/
def execSrai (a : Agent) (w : W64) (s : State) : Out := scalarRow 0x17 mRI (fun x _ i => x.sshiftRight (shCnt i)) a w s
/-- MUL: low 64 bits of A × B. -/
def execMul (a : Agent) (w : W64) (s : State) : Out := scalarRow 0x08 mRR (fun x y _ => x * y) a w s
/-- MULH: high 64 bits of the signed product. -/
def execMulh (a : Agent) (w : W64) (s : State) : Out := scalarRow 0x09 mRR (fun x y _ => mulhS x y) a w s
/-- MULHU: high 64 bits of the unsigned product. -/
def execMulhu (a : Agent) (w : W64) (s : State) : Out := scalarRow 0x0A mRR (fun x y _ => mulhU x y) a w s
/-- DIV (R189, R190). -/
def execDiv (a : Agent) (w : W64) (s : State) : Out := scalarRow 0x0B mRR (fun x y _ => divS x y) a w s
/-- DIVU (R189). -/
def execDivu (a : Agent) (w : W64) (s : State) : Out := scalarRow 0x0C mRR (fun x y _ => divU x y) a w s
/-- REM (R189, R190). -/
def execRem (a : Agent) (w : W64) (s : State) : Out := scalarRow 0x0D mRR (fun x y _ => remS x y) a w s
/-- REMU (R189). -/
def execRemu (a : Agent) (w : W64) (s : State) : Out := scalarRow 0x0E mRR (fun x y _ => remU x y) a w s
/-- SLT: X[0] = 1 compares unsigned. -/
def execSlt (a : Agent) (w : W64) (s : State) : Out := scalarRow 0x0F (mRR + mX0) (fun x y _ => sltV (xBit w 0) x y) a w s
/-- SLTI. -/
def execSlti (a : Agent) (w : W64) (s : State) : Out := scalarRow 0x1F (mRI + mX0) (fun x _ i => sltV (xBit w 0) x i) a w s
/-- LI: D := sext(IMM). -/
def execLi (a : Agent) (w : W64) (s : State) : Out := scalarRow 0x18 (mO + mD + mI) (fun _ _ i => i) a w s
/-- LIH: D := (IMM shifted left by 32) OR (A AND 0xFFFF_FFFF). -/
def execLih (a : Agent) (w : W64) (s : State) : Out :=
  scalarRow 0x19 mRI (fun x _ i => (i <<< 32) ||| (x &&& 0xFFFFFFFF#64)) a w s

end Sys2Proof.Machine
end

