-- ==== Sys2Proof/Machine/Supplier.lean ====
section
/-! DEFINITION. The device controller's decisions on mailbox requests (R298 to R300, R693, R718, R729, R739, R826, Table ISA-17). -/
namespace Sys2Proof.Machine

/-! ### The mailbox (R299, R300) -/

/-- The CODE of a request. -/
def mbCode (l : List Byte) : Nat := recN l 0 2
/-- The SERIAL of a request. -/
def mbSerial (l : List Byte) : BitVec 16 := BitVec.ofNat 16 (recN l 2 2)

/-- The oldest request of a partition leaves its mailbox, and a request that waits for room enters: that of the lowest-numbered
cluster (R300, log 58). -/
def State.mboxPop (s : State) (p : Nat) : State :=
  let s := s.updPart p (fun x => { x with mbox := x.mbox.tail })
  match (s.clustersOf p).find? (fun c => (s.cl c).powered && (s.cl c).ctl.mboxWait.isSome) with
  | none => s
  | some c => (s.updCtl (some c) (fun t => { t with mboxWait := none })).mboxPut c ((s.cl c).ctl.mboxWait.getD [])

/-- The request that the turn's partition has decided: none when the turn is another's, its request is decided, or the oldest
request has another code. -/
def State.mboxFront (s : State) (p code : Nat) : Option (Nat × List Byte) :=
  if s.mboxTurn ≠ p ∨ s.mboxDone = true ∨ s.boot.running = false then none
  else match (s.part p).mbox with
    | m :: _ => if mbCode m.2 = code then some m else none
    | [] => none

/-- The request of a supplier row is taken off and decided. -/
def State.decideReq (s : State) (p code : Nat) (f : Nat → List Byte → State → State) : Out :=
  whenLive s (match s.mboxFront p code with
    | none => s
    | some m => f m.1 m.2 { s.mboxPop p with mboxDone := true })

/-- The answer to a request whose action has finished. -/
def State.mboxDoneWith (s : State) (cl : Nat) (l : List Byte) (st : Nat) : State := s.mboxAnswer cl (mbSerial l) st

/-! ### CL_GATE and CL_UNGATE (R725, R729, R739) -/

/-- CL_GATE or CL_UNGATE of the logical cluster of byte 8, a cluster transition that waits for the earlier ones of its partition and
for a device transition (R300, R729). -/
def State.gateReq (s : State) (p : Nat) (on : Bool) (cl : Nat) (l : List Byte) : State :=
  match s.physCl p (recN l 8 1) with
  | none => s.mboxDoneWith cl l stRefused
  | some c =>
    let m := bitsMask [c]
    s.askCluster { Trans.init with
      dev := false, target := 1, gate := if on then 0#8 else m, rise := if on then m else 0#8, part := p
      mbox := some (mbSerial l), mboxCl := cl }

/-- CL_GATE. -/
def execClGate (p : Fin 8) (s : State) : Out := s.decideReq p.val 1 (fun cl l s => s.gateReq p.val false cl l)
/-- CL_UNGATE. -/
def execClUngate (p : Fin 8) (s : State) : Out := s.decideReq p.val 2 (fun cl l s => s.gateReq p.val true cl l)

/-! ### WAKE (R718, R719) -/

/-- A WAKE request: stages 1 and 2 post to a higher target stage. -/
def State.wakeReq (s : State) (p cl : Nat) (l : List Byte) : State :=
  let st := recN l 8 1
  let tg := recN l 9 1
  if st < 1 ∨ st > 2 ∨ tg ≤ st ∨ tg > 3 then s.mboxDoneWith cl l stRefused
  else
    let conf := BitVec.ofNat 16 (recN l 12 2)
    (s.postWake st tg (recN l 10 1 % 16) 0 conf (recN l 16 6) (8 * ((s.logCl p cl).getD 0)) (9 * cl)).mboxDoneWith cl l stOk

/-- WAKE. -/
def execWake (p : Fin 8) (s : State) : Out := s.decideReq p.val 3 (fun cl l s => s.wakeReq p.val cl l)

/-! ### BP_ARM (R775, R826) -/

/-- A BP_ARM request: a breakpoint of one of the partition's cores takes its words; it cannot arm one on a confidential
partition. -/
def State.bpReq (s : State) (p cl : Nat) (l : List Byte) : State :=
  let v := recN l 8 1
  let n := recN l 9 1
  match s.logKey p (v / 8 % 8) (v % 8) with
  | none => s.mboxDoneWith cl l stRefused
  | some k =>
    if v ≥ 64 ∨ n > 7 ∨ s.conf p = true then s.mboxDoneWith cl l stRefused
    else
      let va := recN l 16 8
      let f (b : Bp) : Bp := ((b.put 0 (BitVec.ofNat 32 (recN l 12 4))).put 4 (BitVec.ofNat 32 va)).put 8 (BitVec.ofNat 32 (va / 2 ^ 32))
      (s.updCore k (fun x => { x with bp := x.bp.upd Bp.init n f })).mboxDoneWith cl l stOk

/-- BP_ARM. -/
def execBpArm (p : Fin 8) (s : State) : Out := s.decideReq p.val 4 (fun cl l s => s.bpReq p.val cl l)

/-! ### PORT_WR and PORT_RD (R693) -/

/-- The partition of a TDM port. -/
def State.tdmPart (s : State) (port : Nat) : Nat := bitsAt s.aud.own.toNat (4 * port) 4

/-- The camera ports whose valid entries name a context or a bypass ring. -/
def State.portsOf (s : State) (byp : Bool) (t : Nat) : List Nat :=
  (upTo 4).filter (fun q => (s.camPort q).entries.any (fun e => entV e.2 && entByp e.2 == byp && entTgt e.2 == t))

/-- Whether a context or a bypass ring is the partition's: entries of its ports name it, and none of another's does (log 59). -/
def State.ownsTarget (s : State) (p : Nat) (byp : Bool) (t : Nat) : Bool :=
  let l := s.portsOf byp t
  !l.isEmpty && l.all (fun q => s.camOwner q == some p)

/-- Whether the register at an indirect address of a block belongs to a port, stream, context or ring of a partition; an entry
that a write makes valid must not name what is another's (log 59). -/
def State.portMay (s : State) (p blk ia : Nat) (wr : Option W32) : Bool :=
  ia % 4 == 0 &&
  match blk with
  | 0 =>
    if ia < 0x400 then s.camOwner (ia / 0x100) == some p
    else if 0x1000 ≤ ia ∧ ia < 0x1200 then
      let e : BitVec 64 := (wr.getD 0#32).setWidth 64
      s.camOwner ((ia - 0x1000) / 128) == some p &&
        (ia % 8 == 4 || !entV e || (s.portsOf (entByp e) (entTgt e)).all (fun q => s.camOwner q == some p))
    else if 0x2000 ≤ ia ∧ ia < 0x2400 then s.ownsTarget p true ((ia - 0x2000) / 0x40)
    else false
  | 1 => decide (ia < 0x100000) && s.ownsTarget p false (ia / 0x10000)
  | 2 =>
    if ia < 0x400 then s.tdmPart (ia / 0x100) == p
    else if 0x2000 ≤ ia ∧ ia < 0x2200 then s.tdmPart ((ia - 0x2000) / 0x80) == p
    else if 0x3000 ≤ ia ∧ ia < 0x3100 then s.tdmPart ((ia - 0x3000) / 64) == p
    else false
  | _ => false

/-- A PORT_WR request. -/
def State.portWrReq (s : State) (p cl : Nat) (l : List Byte) : State :=
  let blk := recN l 8 1
  let ia := recN l 12 4
  let v := BitVec.ofNat 32 (recN l 16 4)
  if !s.portMay p blk ia (some v) then s.mboxDoneWith cl l stRefused
  else (s.regWr .devCtl (pairId (2 + blk) ia) v).mboxDoneWith cl l stOk

/-- PORT_WR. -/
def execPortWr (p : Fin 8) (s : State) : Out := s.decideReq p.val 5 (fun cl l s => s.portWrReq p.val cl l)

/-- A PORT_RD request: the reply word lies in a cluster store of the partition. -/
def State.portRdReq (s : State) (p cl : Nat) (l : List Byte) : State :=
  let blk := recN l 8 1
  let ia := recN l 12 4
  let a := recN l 24 8
  let home : Bool := match regionOf a with
    | .cluster c _ => s.ownerCl c == some p && a % 4 == 0
    | _ => false
  if !home || !s.portMay p blk ia none then s.mboxDoneWith cl l stRefused
  else
    let r := s.pairRd .devCtl (2 + blk) ia
    (r.2.store a (leBytes 4 r.1.toNat)).mboxDoneWith cl l stOk

/-- PORT_RD. -/
def execPortRd (p : Fin 8) (s : State) : Out := s.decideReq p.val 6 (fun cl l s => s.portRdReq p.val cl l)

/-! ### Turns (R299, R300) -/

/-- The decision on a request by its CODE; one that is not listed is REFUSED (R299). -/
def State.decideCode (s : State) (p cl : Nat) (l : List Byte) : State :=
  match mbCode l with
  | 1 => s.gateReq p false cl l
  | 2 => s.gateReq p true cl l
  | 3 => s.wakeReq p cl l
  | 4 => s.bpReq p cl l
  | 5 => s.portWrReq p cl l
  | 6 => s.portRdReq p cl l
  | _ => s.mboxDoneWith cl l stRefused

/-- The oldest request of a partition decided in its turn, unless one has been. -/
def State.decideFront (s : State) (p : Nat) : State :=
  match (s.part p).mbox with
  | m :: _ => if s.mboxDone then s else State.decideCode { s.mboxPop p with mboxDone := true } p m.1 m.2
  | [] => s

/-- MBOX_TURN: the next partition's turn of 10 µs. The oldest request of the turn that ends has been decided in it, at the latest
now; in the new one a request whose CODE is not listed is answered REFUSED at once (R299, R300, log 58). -/
def execMboxTurn (s : State) : Out :=
  whenLive s (
    if !s.boot.running then s
    else
      let s := s.decideFront s.mboxTurn
      let p := (s.mboxTurn + 1) % 8
      let s := { s with mboxTurn := p, mboxDone := false }
      match (s.part p).mbox with
      | m :: _ => if 1 ≤ mbCode m.2 ∧ mbCode m.2 ≤ 6 then s else s.decideFront p
      | [] => s)

end Sys2Proof.Machine
end

