-- ==== Sys2Proof/Machine/Usb.lean ====
section
/-! DEFINITION. The USB port: connection, reset, suspend, the CSR requests of EP0, and what its IN endpoints deliver (R609 to
R618, R624 to R627, R633 to R636, R638, R645, R761, R860, R867). -/
namespace Sys2Proof.Machine

/-! ### The link (R609, R610, R614, R638, R645) -/

/-- USB_CONNECT: the port connects at the speed that training reached, which it keeps; 0, 6 and 7 are no speeds (R610). A ROM that has stopped
answers BOOT_STATUS (R636). -/
def execUsbConnect (speed : BitVec 3) (s : State) : Out :=
  whenLive s (
    if s.usb.connected || speed.toNat < 1 || speed.toNat > 5 then s
    else State.mgmtPump { s with
      usb := { s.usb with connected := true, speed := speed, u3 := false, remoteWake := false, ep0 := [], stall := false }
      pins := { s.pins with vbus := true } })

/-- USB_RESET: a reset or disconnect disables every function; work that no host command started goes on (R638, R645). -/
def execUsbReset (s : State) : Out :=
  whenLive s (
    let s := (upTo 8).foldl (fun s p => s.disableFunc p) s
    let s := if s.dev.bootSrc then s else s.dropImage
    { s with usb := { s.usb with
      connected := false, speed := 0#3, u3 := false, remoteWake := false, ep0 := [], stall := false } })

/-- U3_SUSPEND: the host suspends the link (R609). -/
def execU3Suspend (s : State) : Out :=
  whenLive s (if s.usb.connected then { s with usb := { s.usb with u3 := true, remoteWake := false } } else s)

/-! ### CSR requests (R634 to R636) -/

/-- Whether a request for n bytes of registers is one that EP0 takes: aligned, 4 to 1,024 bytes by fours, within the CSR space;
an IND_DATA is accessed again and again (R635, R867). -/
def csrSpan (off n : Nat) : Bool :=
  off % 4 == 0 && n % 4 == 0 && decide (4 ≤ n) && decide (n ≤ 1024) && decide (csrNext off (n / 4 - 1) < 0x1000000)

/-- CSR_READ. -/
def execCsrRead (off : BitVec 24) (len : BitVec 16) (s : State) : Out :=
  whenLive s (
    if !s.usb.connected then s
    else if !s.ep0Open || !csrSpan off.toNat len.toNat then s.ep0Stall
    else
      let r := s.csrGetN off.toNat (len.toNat / 4)
      r.2.ep0Data r.1)

/-- CSR_WRITE. -/
def execCsrWrite (off : BitVec 24) (data : List Byte) (s : State) : Out :=
  whenLive s (
    if !s.usb.connected then s
    else if !s.ep0Open || !csrSpan off.toNat data.length then s.ep0Stall
    else (s.csrPutN off.toNat ((upTo (data.length / 4)).map (fun i => BitVec.ofNat 32 (recN data (4 * i) 4)))).ep0Data [])

/-! ### IN endpoints (R611 to R615, R624 to R627, R633, R761) -/

/-- A record of an event as it leaves (Table HST-6). -/
def EventRec.bytes (r : EventRec) : List Byte :=
  leBytes 8 r.slate.toNat ++ leBytes 4 (r.code.toNat + 2 ^ 8 * r.source.toNat + 2 ^ 16 * r.unit.toNat + 2 ^ 24 * r.part.toNat +
    2 ^ 28 * b2n r.dev) ++ leBytes 4 r.lost.toNat ++ leBytes 16 r.detail.toNat

/-- The sealed record of at most 16,384 bytes under a session's part-to-host key (Table SEC-4). -/
def sealRecord (keys : BitVec 512) (chan ctr : Nat) (l : List Byte) : List Byte :=
  let h := leBytes 4 l.length ++ leBytes 4 chan ++ leBytes 8 ctr
  h ++ gcmSeal (BitVec.ofNat 256 (keys.toNat / 2 ^ 256)) (sealNonce ctr chan true) h l

/-- Bytes leave on a channel of a partition's function: in sealed records while a session is open, whose opening has been told in the
clear (R760, R761). -/
def State.sealOut (s : State) (p chan : Nat) (l : List Byte) : State :=
  let x := s.secp p
  let told := !(s.func p).out.any (fun c => c.opc == 0x21#8 && c.status == 0#8)
  if x.session.isNone || !told then { s with usb := { s.usb with wire := l } }
  else
    let n := ceilDiv l.length 16384
    let i := (x.txCtr.get 0#64 chan).toNat
    let s := { s with usb := { s.usb with
      wire := (upTo n).flatMap (fun j => sealRecord x.keys chan (i + j) ((l.drop (16384 * j)).take 16384)) } }
    s.updSecp p (fun x => { x with txCtr := x.txCtr.upd 0#64 chan (fun v => v + BitVec.ofNat 64 n) })

/-- The oldest completion or host request of a function is taken on EP1 IN: 64 bytes (R624). -/
def State.takeEp1 (s : State) (p : Nat) : State :=
  match (s.func p).out with
  | [] => s
  | c :: r => (s.sealOut p 0 (c.words.flatMap (fun w => leBytes 4 w.toNat))).updFunc p (fun f => { f with out := r })

/-- The oldest EP2 IN transfer of a function is taken: it completes its command, or the host request whose data it carries
(R626, R627, log 33). -/
def State.takeEp2 (s : State) (p : Nat) : State :=
  match (s.func p).in2 with
  | [] => s
  | t :: r =>
    let s := (s.sealOut p 1 t.2).updFunc p (fun f => { f with in2 := r })
    if t.1 ≠ 0 then (s.complete p (t.1 - 1) stOk 0 0 0).after p
    else if recN t.2 4 1 % 4 = 1 then
      match (s.func p).reqs.find? (fun x => x.write && x.num % 2 ^ 32 == recN t.2 0 4) with
      | some x => s.reqDone p x.num
      | none => s
    else s

/-- The oldest transfer of stream 9 is taken: it completes its management command. -/
def State.takeMgmt2 (s : State) : State :=
  match s.usb.mgmtIn2 with
  | [] => s
  | t :: r =>
    let s := { s with usb := { s.usb with mgmtIn2 := r, wire := t.2 } }
    if t.1 = 0 then s else (s.completeMgmt (t.1 - 1) stOk 0 0 0).mgmtPump

/-- The oldest event record of an interrupt endpoint is delivered, with the count of those dropped since the last (R633). -/
def State.takeEvent (s : State) (q : Nat) : State :=
  match s.usb.evq.get [] q with
  | [] => s
  | r :: t =>
    let r := { r with lost := BitVec.ofNat 8 (min 255 (s.usb.lost.get 0 q)) }
    let s := if q < 8 then s.sealOut q 2 r.bytes else { s with usb := { s.usb with wire := r.bytes } }
    { s with usb := { s.usb with
      evq := if t.isEmpty then s.usb.evq.erase q else s.usb.evq.put q t
      lost := s.usb.lost.erase q
      delivered := some r } }

/-- The host serves an EP1 stream whose function has a record for it. -/
def State.serveEp1 (s : State) (p : Nat) : State :=
  if !s.portOpen || !s.funcSends p || (s.func p).out.isEmpty then s else s.inBursts p 64 (fun s => s.takeEp1 p)

/-- Whether an EP2 IN transfer carries the data of a host request that has not been delivered on EP1: they follow it (R627). -/
def Func.early (f : Func) (t : Nat × List Byte) : Bool :=
  t.1 == 0 && recN t.2 4 1 % 4 == 1 && f.out.any (fun c => c.req && c.tag.toNat == recN t.2 0 4)

/-- The host serves an EP2 IN stream whose function has a transfer for it. -/
def State.serveEp2 (s : State) (p : Nat) : State :=
  if !s.portOpen || !s.funcSends p then s
  else match (s.func p).in2 with
    | [] => s
    | t :: _ => if (s.func p).early t then s else s.inBursts p t.2.length (fun s => s.takeEp2 p)

/-- The host serves stream 9 of EP2 IN. -/
def State.serveMgmt (s : State) : State :=
  match s.usb.mgmtIn2 with
  | [] => s
  | t :: _ => s.inBursts 8 t.2.length (fun s => s.takeMgmt2)

/-- USB_IN_SERVICE: the host services an IN endpoint: 0 to 7 EP1 streams of partitions 0 to 7, 8 to 15 their EP2 streams, 16 stream
9 of EP2, 17 EP3, 18 to 25 EP4 to EP11. A follower offers none, full speed neither; without streams no partition function operates
(R609, R614, R615). -/
def execUsbInService (ep : Fin 26) (s : State) : Out :=
  let n := ep.val
  whenLive s (
    if !s.usbBulk || !s.dev.master then s
    else
      let s := { s with usb := { s.usb with u3 := false, remoteWake := false } }
      if n < 8 then (s.serveEp1 n).mgmtPump
      else if n < 16 then (s.serveEp2 (n - 8)).mgmtPump
      else if n = 16 then s.serveMgmt
      else if n = 17 then s.takeEvent 8
      else if s.portOpen && s.funcSends (n - 18) then s.takeEvent (n - 18)
      else s)

end Sys2Proof.Machine
end

