-- ==== Sys2Proof/Machine/Dispatch.lean ====
section
/-! DEFINITION. The dispatch: one arm per command, each one direct call of its meaning. -/
namespace Sys2Proof.Machine

/-- The effect of a command on everything but the queue. -/
def exec (i : Instr) (s : State) : Host.Outcome State Fault Refusal :=
  match i with
  | .add a w => Sys2Proof.Machine.execAdd a w s
  | .addi a w => Sys2Proof.Machine.execAddi a w s
  | .sub a w => Sys2Proof.Machine.execSub a w s
  | .and a w => Sys2Proof.Machine.execAnd a w s
  | .andi a w => Sys2Proof.Machine.execAndi a w s
  | .or a w => Sys2Proof.Machine.execOr a w s
  | .ori a w => Sys2Proof.Machine.execOri a w s
  | .xor a w => Sys2Proof.Machine.execXor a w s
  | .xori a w => Sys2Proof.Machine.execXori a w s
  | .shl a w => Sys2Proof.Machine.execShl a w s
  | .shli a w => Sys2Proof.Machine.execShli a w s
  | .shr a w => Sys2Proof.Machine.execShr a w s
  | .shri a w => Sys2Proof.Machine.execShri a w s
  | .sra a w => Sys2Proof.Machine.execSra a w s
  | .srai a w => Sys2Proof.Machine.execSrai a w s
  | .mul a w => Sys2Proof.Machine.execMul a w s
  | .mulh a w => Sys2Proof.Machine.execMulh a w s
  | .mulhu a w => Sys2Proof.Machine.execMulhu a w s
  | .div a w => Sys2Proof.Machine.execDiv a w s
  | .divu a w => Sys2Proof.Machine.execDivu a w s
  | .rem a w => Sys2Proof.Machine.execRem a w s
  | .remu a w => Sys2Proof.Machine.execRemu a w s
  | .slt a w => Sys2Proof.Machine.execSlt a w s
  | .slti a w => Sys2Proof.Machine.execSlti a w s
  | .li a w => Sys2Proof.Machine.execLi a w s
  | .lih a w => Sys2Proof.Machine.execLih a w s
  | .ld8 a w => Sys2Proof.Machine.execLd8 a w s
  | .ld16 a w => Sys2Proof.Machine.execLd16 a w s
  | .ld32 a w => Sys2Proof.Machine.execLd32 a w s
  | .ld64 a w => Sys2Proof.Machine.execLd64 a w s
  | .st8 a w e => Sys2Proof.Machine.execSt8 a w e s
  | .st16 a w e => Sys2Proof.Machine.execSt16 a w e s
  | .st32 a w e => Sys2Proof.Machine.execSt32 a w e s
  | .st64 a w e => Sys2Proof.Machine.execSt64 a w e s
  | .beq a w => Sys2Proof.Machine.execBeq a w s
  | .bne a w => Sys2Proof.Machine.execBne a w s
  | .blt a w => Sys2Proof.Machine.execBlt a w s
  | .bge a w => Sys2Proof.Machine.execBge a w s
  | .bltu a w => Sys2Proof.Machine.execBltu a w s
  | .bgeu a w => Sys2Proof.Machine.execBgeu a w s
  | .jal a w => Sys2Proof.Machine.execJal a w s
  | .jalr a w => Sys2Proof.Machine.execJalr a w s
  | .fence a w => Sys2Proof.Machine.execFence a w s
  | .bar a w => Sys2Proof.Machine.execBar a w s
  | .mwait a w => Sys2Proof.Machine.execMwait a w s
  | .ibar a w => Sys2Proof.Machine.execIbar a w s
  | .amoadd a w e => Sys2Proof.Machine.execAmoadd a w e s
  | .amoswap a w e => Sys2Proof.Machine.execAmoswap a w e s
  | .amocas a w e => Sys2Proof.Machine.execAmocas a w e s
  | .amomax a w e => Sys2Proof.Machine.execAmomax a w e s
  | .vadd a w => Sys2Proof.Machine.execVadd a w s
  | .vsub a w => Sys2Proof.Machine.execVsub a w s
  | .vmul a w => Sys2Proof.Machine.execVmul a w s
  | .vfma a w => Sys2Proof.Machine.execVfma a w s
  | .vmin a w => Sys2Proof.Machine.execVmin a w s
  | .vmax a w => Sys2Proof.Machine.execVmax a w s
  | .vcmp a w => Sys2Proof.Machine.execVcmp a w s
  | .vsel a w => Sys2Proof.Machine.execVsel a w s
  | .vand a w => Sys2Proof.Machine.execVand a w s
  | .vor a w => Sys2Proof.Machine.execVor a w s
  | .vxor a w => Sys2Proof.Machine.execVxor a w s
  | .vsh a w => Sys2Proof.Machine.execVsh a w s
  | .vbcast a w => Sys2Proof.Machine.execVbcast a w s
  | .vget a w => Sys2Proof.Machine.execVget a w s
  | .vput a w => Sys2Proof.Machine.execVput a w s
  | .vld a w => Sys2Proof.Machine.execVld a w s
  | .vst a w e => Sys2Proof.Machine.execVst a w e s
  | .vldb a w => Sys2Proof.Machine.execVldb a w s
  | .vstb a w e => Sys2Proof.Machine.execVstb a w e s
  | .vrsum a w => Sys2Proof.Machine.execVrsum a w s
  | .vrmax a w => Sys2Proof.Machine.execVrmax a w s
  | .vrmin a w => Sys2Proof.Machine.execVrmin a w s
  | .vperm a w => Sys2Proof.Machine.execVperm a w s
  | .vpack a w => Sys2Proof.Machine.execVpack a w s
  | .vunpk a w => Sys2Proof.Machine.execVunpk a w s
  | .vfn a w => Sys2Proof.Machine.execVfn a w s
  | .vcvt a w => Sys2Proof.Machine.execVcvt a w s
  | .qcvt a w => Sys2Proof.Machine.execQcvt a w s
  | .dqcvt a w => Sys2Proof.Machine.execDqcvt a w s
  | .mxq a w => Sys2Proof.Machine.execMxq a w s
  | .dmaCopy a w => Sys2Proof.Machine.execDmaCopy a w s
  | .dmaDesc a w => Sys2Proof.Machine.execDmaDesc a w s
  | .move a w => Sys2Proof.Machine.execMove a w s
  | .splice a w => Sys2Proof.Machine.execSplice a w s
  | .dmaWait a w => Sys2Proof.Machine.execDmaWait a w s
  | .mloadw a w => Sys2Proof.Machine.execMloadw a w s
  | .mmul a w => Sys2Proof.Machine.execMmul a w s
  | .accClaim a w => Sys2Proof.Machine.execAccClaim a w s
  | .accFree a w => Sys2Proof.Machine.execAccFree a w s
  | .accZero a w => Sys2Proof.Machine.execAccZero a w s
  | .ladderSave a w => Sys2Proof.Machine.execLadderSave a w s
  | .ladderMerge a w => Sys2Proof.Machine.execLadderMerge a w s
  | .drain a w => Sys2Proof.Machine.execDrain a w s
  | .drainQ a w => Sys2Proof.Machine.execDrainQ a w s
  | .ladderLoad a w => Sys2Proof.Machine.execLadderLoad a w s
  | .attnInit a w => Sys2Proof.Machine.execAttnInit a w s
  | .attnStep a w => Sys2Proof.Machine.execAttnStep a w s
  | .attnFinish a w => Sys2Proof.Machine.execAttnFinish a w s
  | .fuseSet a w => Sys2Proof.Machine.execFuseSet a w s
  | .recRun a w => Sys2Proof.Machine.execRecRun a w s
  | .reelSubmit a w => Sys2Proof.Machine.execReelSubmit a w s
  | .reelSwapout a w => Sys2Proof.Machine.execReelSwapout a w s
  | .reelDestroy a w => Sys2Proof.Machine.execReelDestroy a w s
  | .reelQuery a w => Sys2Proof.Machine.execReelQuery a w s
  | .gateLoad a w => Sys2Proof.Machine.execGateLoad a w s
  | .pool a w => Sys2Proof.Machine.execPool a w s
  | .boxdec a w => Sys2Proof.Machine.execBoxdec a w s
  | .nms a w => Sys2Proof.Machine.execNms a w s
  | .boxclip a w => Sys2Proof.Machine.execBoxclip a w s
  | .nop a w => Sys2Proof.Machine.execNop a w s
  | .endThread a w => Sys2Proof.Machine.execEndThread a w s
  | .threadEnd h => Sys2Proof.Machine.execThreadEnd h s
  | .trap a w => Sys2Proof.Machine.execTrap a w s
  | .clap a w => Sys2Proof.Machine.execClap a w s
  | .clapWake c => Sys2Proof.Machine.execClapWake c s
  | .rdslate a w => Sys2Proof.Machine.execRdslate a w s
  | .rdtsw a w => Sys2Proof.Machine.execRdtsw a w s
  | .clrtsw a w => Sys2Proof.Machine.execClrtsw a w s
  | .rdcnt a w => Sys2Proof.Machine.execRdcnt a w s
  | .csrr a w => Sys2Proof.Machine.execCsrr a w s
  | .csrw a w => Sys2Proof.Machine.execCsrw a w s
  | .wfe a w => Sys2Proof.Machine.execWfe a w s
  | .eret a w => Sys2Proof.Machine.execEret a w s
  | .mboxPost a w e => Sys2Proof.Machine.execMboxPost a w e s
  | .fetchBlockArrive h e => Sys2Proof.Machine.execFetchBlockArrive h e s
  | .loadReturn a fails => Sys2Proof.Machine.execLoadReturn a fails s
  | .barrierRelease c job => Sys2Proof.Machine.execBarrierRelease c job s
  | .threadResume h pc => Sys2Proof.Machine.execThreadResume h pc s
  | .queueEntryBegin c fails => Sys2Proof.Machine.execQueueEntryBegin c fails s
  | .deferredHalt h => Sys2Proof.Machine.execDeferredHalt h s
  | .queueEntryComplete c n => Sys2Proof.Machine.execQueueEntryComplete c n s
  | .twoDCopy c fails => Sys2Proof.Machine.execTwoDCopy c fails s
  | .windowStream c fails => Sys2Proof.Machine.execWindowStream c fails s
  | .pageGather c fails => Sys2Proof.Machine.execPageGather c fails s
  | .expansion c fails => Sys2Proof.Machine.execExpansion c fails s
  | .moveStart c fails => Sys2Proof.Machine.execMoveStart c fails s
  | .spliceStart c fails => Sys2Proof.Machine.execSpliceStart c fails s
  | .dmaOpComplete c => Sys2Proof.Machine.execDmaOpComplete c s
  | .hostDataArrive p num data => Sys2Proof.Machine.execHostDataArrive p num data s
  | .hostRequestTimeout p num => Sys2Proof.Machine.execHostRequestTimeout p num s
  | .chunkDispatch c => Sys2Proof.Machine.execChunkDispatch c s
  | .chunkEnd h => Sys2Proof.Machine.execChunkEnd h s
  | .reelSwapinDone p idx => Sys2Proof.Machine.execReelSwapinDone p idx s
  | .stepBoundary p job => Sys2Proof.Machine.execStepBoundary p job s
  | .contextSwitchEnd c => Sys2Proof.Machine.execContextSwitchEnd c s
  | .cmdNop p h => Sys2Proof.Machine.execCmdNop p h s
  | .jobCreate p h => Sys2Proof.Machine.execJobCreate p h s
  | .jobSet p h => Sys2Proof.Machine.execJobSet p h s
  | .jobDestroy p h => Sys2Proof.Machine.execJobDestroy p h s
  | .step p h => Sys2Proof.Machine.execStep p h s
  | .seqAdmit p h => Sys2Proof.Machine.execSeqAdmit p h s
  | .seqRun p h => Sys2Proof.Machine.execSeqRun p h s
  | .seqEnd p h => Sys2Proof.Machine.execSeqEnd p h s
  | .alloc p h => Sys2Proof.Machine.execAlloc p h s
  | .free p h => Sys2Proof.Machine.execFree p h s
  | .cmdMove p h => Sys2Proof.Machine.execCmdMove p h s
  | .seal p h => Sys2Proof.Machine.execSeal p h s
  | .write p h e => Sys2Proof.Machine.execWrite p h e s
  | .read p h e => Sys2Proof.Machine.execRead p h e s
  | .hostmap p h => Sys2Proof.Machine.execHostmap p h s
  | .cmdReelSubmit p h => Sys2Proof.Machine.execCmdReelSubmit p h s
  | .cmdReelDestroy p h => Sys2Proof.Machine.execCmdReelDestroy p h s
  | .attest p h => Sys2Proof.Machine.execAttest p h s
  | .sessionOpen p h => Sys2Proof.Machine.execSessionOpen p h s
  | .measure p h => Sys2Proof.Machine.execMeasure p h s
  | .linkKey p h e => Sys2Proof.Machine.execLinkKey p h e s
  | .linkKeyErase p h => Sys2Proof.Machine.execLinkKeyErase p h s
  | .devAttest h => Sys2Proof.Machine.execDevAttest h s
  | .relSet p h => Sys2Proof.Machine.execRelSet p h s
  | .declare h => Sys2Proof.Machine.execDeclare h s
  | .readmit h => Sys2Proof.Machine.execReadmit h s
  | .partCreate h => Sys2Proof.Machine.execPartCreate h s
  | .partChange h => Sys2Proof.Machine.execPartChange h s
  | .partDestroy h => Sys2Proof.Machine.execPartDestroy h s
  | .partReset h => Sys2Proof.Machine.execPartReset h s
  | .funcDisable h => Sys2Proof.Machine.execFuncDisable h s
  | .funcEnable h => Sys2Proof.Machine.execFuncEnable h s
  | .usbShare h => Sys2Proof.Machine.execUsbShare h s
  | .flashWrite h => Sys2Proof.Machine.execFlashWrite h s
  | .flashRead h => Sys2Proof.Machine.execFlashRead h s
  | .imageBcast h => Sys2Proof.Machine.execImageBcast h s
  | .lockstep h => Sys2Proof.Machine.execLockstep h s
  | .csrRead off len => Sys2Proof.Machine.execCsrRead off len s
  | .csrWrite off data => Sys2Proof.Machine.execCsrWrite off data s
  | .mgmtResult => Sys2Proof.Machine.execMgmtResult s
  | .bootStatus => Sys2Proof.Machine.execBootStatus s
  | .usbReset => Sys2Proof.Machine.execUsbReset s
  | .funcDrainTimeout p => Sys2Proof.Machine.execFuncDrainTimeout p s
  | .funcStop p => Sys2Proof.Machine.execFuncStop p s
  | .sealedRecord p data => Sys2Proof.Machine.execSealedRecord p data s
  | .clGate p => Sys2Proof.Machine.execClGate p s
  | .clUngate p => Sys2Proof.Machine.execClUngate p s
  | .wake p => Sys2Proof.Machine.execWake p s
  | .bpArm p => Sys2Proof.Machine.execBpArm p s
  | .portWr p => Sys2Proof.Machine.execPortWr p s
  | .portRd p => Sys2Proof.Machine.execPortRd p s
  | .mboxTurn => Sys2Proof.Machine.execMboxTurn s
  | .hbmRefresh st => Sys2Proof.Machine.execHbmRefresh st s
  | .rowRepairDone st spare => Sys2Proof.Machine.execRowRepairDone st spare s
  | .stackFail st => Sys2Proof.Machine.execStackFail st s
  | .flitReceive l fix fecOk msg => Sys2Proof.Machine.execFlitReceive l fix fecOk msg s
  | .nakRepeat l => Sys2Proof.Machine.execNakRepeat l s
  | .linkSlot l => Sys2Proof.Machine.execLinkSlot l s
  | .laneFail l lane => Sys2Proof.Machine.execLaneFail l lane s
  | .retrainDone l ok => Sys2Proof.Machine.execRetrainDone l ok s
  | .rd l k e => Sys2Proof.Machine.execRd l k e s
  | .wr l k e => Sys2Proof.Machine.execWr l k e s
  | .notify l k e => Sys2Proof.Machine.execNotify l k e s
  | .rdata l k e => Sys2Proof.Machine.execRdata l k e s
  | .ackr l k => Sys2Proof.Machine.execAckr l k s
  | .stream l k e => Sys2Proof.Machine.execStream l k e s
  | .syncRequest l k => Sys2Proof.Machine.execSyncRequest l k s
  | .syncResponse l k => Sys2Proof.Machine.execSyncResponse l k s
  | .enum l k => Sys2Proof.Machine.execEnum l k s
  | .report l k => Sys2Proof.Machine.execReport l k s
  | .geom l k => Sys2Proof.Machine.execGeom l k s
  | .image l k => Sys2Proof.Machine.execImage l k s
  | .csrRd l k => Sys2Proof.Machine.execCsrRd l k s
  | .csrWr l k => Sys2Proof.Machine.execCsrWr l k s
  | .launch l k => Sys2Proof.Machine.execLaunch l k s
  | .faultmap l k => Sys2Proof.Machine.execFaultmap l k s
  | .mgmtFence l k => Sys2Proof.Machine.execMgmtFence l k s
  | .fabricWrite c e => Sys2Proof.Machine.execFabricWrite c e s
  | .fabricRead c => Sys2Proof.Machine.execFabricRead c s
  | .fabricNotify c => Sys2Proof.Machine.execFabricNotify c s
  | .fabricReqTimeout c n => Sys2Proof.Machine.execFabricReqTimeout c n s
  | .slotmapApply l => Sys2Proof.Machine.execSlotmapApply l s
  | .timeCtlWrite v => Sys2Proof.Machine.execTimeCtlWrite v s
  | .allowStep v => Sys2Proof.Machine.execAllowStep v s
  | .ptpOffsetWrite hi => Sys2Proof.Machine.execPtpOffsetWrite hi s
  | .syncInterval => Sys2Proof.Machine.execSyncInterval s
  | .holdoverTimeout => Sys2Proof.Machine.execHoldoverTimeout s
  | .launchStart p job => Sys2Proof.Machine.execLaunchStart p job s
  | .slatePpsRise => Sys2Proof.Machine.execSlatePpsRise s
  | .slatePpsFall => Sys2Proof.Machine.execSlatePpsFall s
  | .ptpEventMessage tx oneStep frame => Sys2Proof.Machine.execPtpEventMessage tx oneStep frame s
  | .slateSampleRead r => Sys2Proof.Machine.execSlateSampleRead r s
  | .csiFrameStart p vc fnum hdrErr skewOk => Sys2Proof.Machine.execCsiFrameStart p vc fnum hdrErr skewOk s
  | .csiFrameEnd p vc fnum hdrErr => Sys2Proof.Machine.execCsiFrameEnd p vc fnum hdrErr s
  | .csiLineMarker p vc start hdrErr => Sys2Proof.Machine.execCsiLineMarker p vc start hdrErr s
  | .csiLongPacket p vc dt hdrErr crcOk data => Sys2Proof.Machine.execCsiLongPacket p vc dt hdrErr crcOk data s
  | .csiLineTimeout p idx => Sys2Proof.Machine.execCsiLineTimeout p idx s
  | .ispLine x fails => Sys2Proof.Machine.execIspLine x fails s
  | .frameRecord x fails => Sys2Proof.Machine.execFrameRecord x fails s
  | .ctxCommit x => Sys2Proof.Machine.execCtxCommit x s
  | .ctxEnable x en => Sys2Proof.Machine.execCtxEnable x en s
  | .insoleFrame bits => Sys2Proof.Machine.execInsoleFrame bits s
  | .feedFromWrite n => Sys2Proof.Machine.execFeedFromWrite n s
  | .feedReplayBlock => Sys2Proof.Machine.execFeedReplayBlock s
  | .tdmPortStart p => Sys2Proof.Machine.execTdmPortStart p s
  | .tdmInputFrame p frame e => Sys2Proof.Machine.execTdmInputFrame p frame e s
  | .tdmOutputStep p f e => Sys2Proof.Machine.execTdmOutputStep p f e s
  | .playbackBlock p e => Sys2Proof.Machine.execPlaybackBlock p e s
  | .gafReqRun => Sys2Proof.Machine.execGafReqRun s
  | .gafReqTrim gate => Sys2Proof.Machine.execGafReqTrim gate s
  | .gafReqWatch => Sys2Proof.Machine.execGafReqWatch s
  | .gafReqListen => Sys2Proof.Machine.execGafReqListen s
  | .hsGrant t blk => Sys2Proof.Machine.execHsGrant t blk s
  | .hsDelay t blk => Sys2Proof.Machine.execHsDelay t blk s
  | .hsReask t blk => Sys2Proof.Machine.execHsReask t blk s
  | .hsRefuse t blk => Sys2Proof.Machine.execHsRefuse t blk s
  | .hsTimeout t => Sys2Proof.Machine.execHsTimeout t s
  | .fallComplete t => Sys2Proof.Machine.execFallComplete t s
  | .riseStep t railOk => Sys2Proof.Machine.execRiseStep t railOk s
  | .riseEnd t => Sys2Proof.Machine.execRiseEnd t s
  | .throttleWindow c => Sys2Proof.Machine.execThrottleWindow c s
  | .emergencyEnter temp vr => Sys2Proof.Machine.execEmergencyEnter temp vr s
  | .emergencyExit temp => Sys2Proof.Machine.execEmergencyExit temp s
  | .thermtrip temp => Sys2Proof.Machine.execThermtrip temp s
  | .indDataAccess r blk wr => Sys2Proof.Machine.execIndDataAccess r blk wr s
  | .indNoclkTimeout r blk => Sys2Proof.Machine.execIndNoclkTimeout r blk s
  | .dangerValWrite r reg v => Sys2Proof.Machine.execDangerValWrite r reg v s
  | .dangerChkWrite r reg v => Sys2Proof.Machine.execDangerChkWrite r reg v s
  | .dangerWindowExpire r reg => Sys2Proof.Machine.execDangerWindowExpire r reg s
  | .crcPassStart => Sys2Proof.Machine.execCrcPassStart s
  | .crcPassEnd => Sys2Proof.Machine.execCrcPassEnd s
  | .cfgCrcRef v => Sys2Proof.Machine.execCfgCrcRef v s
  | .alive c => Sys2Proof.Machine.execAlive c s
  | .counterLowRead r c n => Sys2Proof.Machine.execCounterLowRead r c n s
  | .regWrite r reg v => Sys2Proof.Machine.execRegWrite r reg v s
  | .signerTurn => Sys2Proof.Machine.execSignerTurn s
  | .hashSlot e => Sys2Proof.Machine.execHashSlot e s
  | .scrubStart p => Sys2Proof.Machine.execScrubStart p s
  | .scrubDone p => Sys2Proof.Machine.execScrubDone p s
  | .coreHang c => Sys2Proof.Machine.execCoreHang c s
  | .coreParity c => Sys2Proof.Machine.execCoreParity c s
  | .replaceResume c answers => Sys2Proof.Machine.execReplaceResume c answers s
  | .ctlSilence c => Sys2Proof.Machine.execCtlSilence c s
  | .ctlRestartDone c => Sys2Proof.Machine.execCtlRestartDone c s
  | .deviceLost node => Sys2Proof.Machine.execDeviceLost node s
  | .prPartnerTimeout alive => Sys2Proof.Machine.execPrPartnerTimeout alive s
  | .signatureReceive p ctr data => Sys2Proof.Machine.execSignatureReceive p ctr data s
  | .lockstepTimeout p job n core => Sys2Proof.Machine.execLockstepTimeout p job n core s
  | .coreDrainDone c => Sys2Proof.Machine.execCoreDrainDone c s
  | .resumeCl v => Sys2Proof.Machine.execResumeCl v s
  | .trig r => Sys2Proof.Machine.execTrig r s
  | .traceEnable c v => Sys2Proof.Machine.execTraceEnable c v s
  | .missedTrigClear c v => Sys2Proof.Machine.execMissedTrigClear c v s
  | .freezePin => Sys2Proof.Machine.execFreezePin s
  | .freeze => Sys2Proof.Machine.execFreeze s
  | .chainSel n => Sys2Proof.Machine.execChainSel n s
  | .chainOut => Sys2Proof.Machine.execChainOut s
  | .memOut v => Sys2Proof.Machine.execMemOut v s
  | .dbgCsr v write => Sys2Proof.Machine.execDbgCsr v write s
  | .idcode => Sys2Proof.Machine.execIdcode s
  | .bypass => Sys2Proof.Machine.execBypass s
  | .samplePreload cells => Sys2Proof.Machine.execSamplePreload cells s
  | .extest => Sys2Proof.Machine.execExtest s
  | .extestPulse => Sys2Proof.Machine.execExtestPulse s
  | .extestTrain => Sys2Proof.Machine.execExtestTrain s
  | .clamp => Sys2Proof.Machine.execClamp s
  | .highz => Sys2Proof.Machine.execHighz s
  | .tapReset => Sys2Proof.Machine.execTapReset s
  | .vddAonRise => Sys2Proof.Machine.execVddAonRise s
  | .insolePorDone => Sys2Proof.Machine.execInsolePorDone s
  | .pgSocRise => Sys2Proof.Machine.execPgSocRise s
  | .enSequenceStep => Sys2Proof.Machine.execEnSequenceStep s
  | .pgTimeout n => Sys2Proof.Machine.execPgTimeout n s
  | .pgClFall c => Sys2Proof.Machine.execPgClFall c s
  | .pgLoss n => Sys2Proof.Machine.execPgLoss n s
  | .refclkLoss => Sys2Proof.Machine.execRefclkLoss s
  | .resetNFall => Sys2Proof.Machine.execResetNFall s
  | .resetNRise => Sys2Proof.Machine.execResetNRise s
  | .mainRestart => Sys2Proof.Machine.execMainRestart s
  | .imageReceive data last => Sys2Proof.Machine.execImageReceive data last s
  | .imageVerifyDone => Sys2Proof.Machine.execImageVerifyDone s
  | .vddAonLoss => Sys2Proof.Machine.execVddAonLoss s
  | .fllLock => Sys2Proof.Machine.execFllLock s
  | .audMclkLoss => Sys2Proof.Machine.execAudMclkLoss s
  | .ckAudLock => Sys2Proof.Machine.execCkAudLock s
  | .pllLock => Sys2Proof.Machine.execPllLock s
  | .usbInService ep => Sys2Proof.Machine.execUsbInService ep s
  | .usbConnect speed => Sys2Proof.Machine.execUsbConnect speed s
  | .u3Suspend => Sys2Proof.Machine.execU3Suspend s

end Sys2Proof.Machine
end

