-- ==== Sys2Proof/Machine/Tick.lean ====
section
/-! DEFINITION. One cycle of CK_CTL (R584, R861), and what each cycle of a core counts (R444, R445, R843). -/
namespace Sys2Proof.Machine

/-- Cycles after a and up to b of a core that count under each stall cause, by counter number (Table MEM-4, R426, R445, R843): a
thread, an entry of the queue or an operation of the engine waits for data beyond the nominal latency, or for a page in motion; the
head of the queue or the engine waits to begin; a second read or an expander input is waited for; a host-tier operation gets no data;
lossless Dailies holds the cluster. -/
def State.waits (s : State) (k a b : Nat) : List (Nat × Nat) :=
  let c := s.core k
  let n := b - a
  let page (t : Thread) : Bool := match t.wait with
    | .page _ => true
    | .fetch => s.mvRange k t.pc.toNat 8
    | _ => false
  let past (due : Nat) : Nat := n - (min b due - min a due)
  let thr (t : Thread) : Nat := match t.wait, t.load with
    | .load, some l => past l.due
    | _, _ => 0
  let held (x : Nat) : Bool := c.qStall.contains x || c.dmaStall == x
  let owed (x : Nat) : Nat := min n (c.owed.get 0 x)
  let dues := (c.queue.filter (fun e => e.begun && !(s.readRanges k e).isEmpty && !s.slotBusy k e)).map (fun e => e.due) ++
    (c.dmaq.filter (fun o => o.started && o.status.isSome && o.waitHost.isEmpty && !o.touched.isEmpty && !s.expHeld k o)).map
      (fun o => o.due)
  let late := dues.foldl (fun m d => max m (past d)) (c.threads.foldl (fun m t => max m (thr t.2)) 0)
  [(0x20, if held 0x20 then n else late),
   (0x21, owed 0x21),
   (0x23, if c.dmaq.any (fun o => !o.waitHost.isEmpty) then n - b2n c.hostCame else 0),
   (0x24, max (owed 0x24) (if !held 0x24 then 0 else if held 0x20 then n else min b c.qStallEnd - min a c.qStallEnd)),
   (0x25, if held 0x25 || c.threads.any (fun t => page t.2) then n else 0),
   (0x2B, if s.traceHeld (keyCl k) then min n 1 else 0)]

/-- The cycles of a core's clock that a CK_CTL cycle brought, counted. -/
def State.countWaits (s t : State) (k : Nat) : State :=
  let a := s.clCycle (keyCl k)
  let b := t.clCycle (keyCl k)
  if a = b then t
  else ((s.waits k a b).foldl (fun t x => if x.2 = 0 then t else t.count k x.1 x.2) t).updCore k (fun c => { c with
    hostCame := false, owed := c.owed.filterMap (fun x => if x.2 ≤ b - a then none else some (x.1, x.2 - (b - a))) })

/-- One CK_CTL cycle with nothing commanded (log 2): Slate takes its increment once CK_CTL has locked (R584, R588), the cores count
their stalls, functions with room take the commands that their records hold (R620), and the audio that waits for pages lands (R104). While the clocks are stopped or the device is
frozen nothing changes (R835, R903). -/
def State.tick (s : State) : State :=
  if s.dbg.freeze == 0#25 && s.pins.clocksOn && s.pins.resetN && s.time.locked then
    let t := { s with cycle := s.cycle + 1, time := { s.time with slate := s.time.slate + s.time.inc.setWidth 96 } }
    let t := s.cores.keys.dedup.foldl (fun t k => s.countWaits t k) t
    let t := (upTo 8).foldl (fun t p => if (t.secp p).ep1.isEmpty then t else t.takeAll p) t
    ((upTo 4).foldl (fun t p => t.tdmFlush p .none) t).feedFlush
  else s

end Sys2Proof.Machine
end

