-- ==== Sys2Proof/WellFormed.lean ====
section
/-! DEFINITION. Well-formed commands: what a sender can send (log 1). -/
namespace Sys2Proof

/-- The opcodes of the instruction rows (R187), with the word that a command of the row carries. -/
def Instr.word : Instr → Option (Nat × W64)
  | .add _ w => some (0x00, w)
  | .addi _ w => some (0x10, w)
  | .sub _ w => some (0x01, w)
  | .and _ w => some (0x02, w)
  | .andi _ w => some (0x12, w)
  | .or _ w => some (0x03, w)
  | .ori _ w => some (0x13, w)
  | .xor _ w => some (0x04, w)
  | .xori _ w => some (0x14, w)
  | .shl _ w => some (0x05, w)
  | .shli _ w => some (0x15, w)
  | .shr _ w => some (0x06, w)
  | .shri _ w => some (0x16, w)
  | .sra _ w => some (0x07, w)
  | .srai _ w => some (0x17, w)
  | .mul _ w => some (0x08, w)
  | .mulh _ w => some (0x09, w)
  | .mulhu _ w => some (0x0A, w)
  | .div _ w => some (0x0B, w)
  | .divu _ w => some (0x0C, w)
  | .rem _ w => some (0x0D, w)
  | .remu _ w => some (0x0E, w)
  | .slt _ w => some (0x0F, w)
  | .slti _ w => some (0x1F, w)
  | .li _ w => some (0x18, w)
  | .lih _ w => some (0x19, w)
  | .ld8 _ w => some (0x20, w)
  | .ld16 _ w => some (0x21, w)
  | .ld32 _ w => some (0x22, w)
  | .ld64 _ w => some (0x23, w)
  | .st8 _ w _ => some (0x24, w)
  | .st16 _ w _ => some (0x25, w)
  | .st32 _ w _ => some (0x26, w)
  | .st64 _ w _ => some (0x27, w)
  | .beq _ w => some (0x30, w)
  | .bne _ w => some (0x31, w)
  | .blt _ w => some (0x32, w)
  | .bge _ w => some (0x33, w)
  | .bltu _ w => some (0x34, w)
  | .bgeu _ w => some (0x35, w)
  | .jal _ w => some (0x38, w)
  | .jalr _ w => some (0x39, w)
  | .fence _ w => some (0x40, w)
  | .bar _ w => some (0x41, w)
  | .mwait _ w => some (0x42, w)
  | .ibar _ w => some (0x43, w)
  | .amoadd _ w _ => some (0x44, w)
  | .amoswap _ w _ => some (0x45, w)
  | .amocas _ w _ => some (0x46, w)
  | .amomax _ w _ => some (0x47, w)
  | .vadd _ w => some (0x50, w)
  | .vsub _ w => some (0x51, w)
  | .vmul _ w => some (0x52, w)
  | .vfma _ w => some (0x53, w)
  | .vmin _ w => some (0x54, w)
  | .vmax _ w => some (0x55, w)
  | .vcmp _ w => some (0x56, w)
  | .vsel _ w => some (0x57, w)
  | .vand _ w => some (0x58, w)
  | .vor _ w => some (0x59, w)
  | .vxor _ w => some (0x5A, w)
  | .vsh _ w => some (0x5B, w)
  | .vbcast _ w => some (0x5C, w)
  | .vget _ w => some (0x5D, w)
  | .vput _ w => some (0x5E, w)
  | .vld _ w => some (0x60, w)
  | .vst _ w _ => some (0x61, w)
  | .vldb _ w => some (0x62, w)
  | .vstb _ w _ => some (0x63, w)
  | .vrsum _ w => some (0x64, w)
  | .vrmax _ w => some (0x65, w)
  | .vrmin _ w => some (0x66, w)
  | .vperm _ w => some (0x67, w)
  | .vpack _ w => some (0x68, w)
  | .vunpk _ w => some (0x69, w)
  | .vfn _ w => some (0x70, w)
  | .vcvt _ w => some (0x71, w)
  | .qcvt _ w => some (0x72, w)
  | .dqcvt _ w => some (0x73, w)
  | .mxq _ w => some (0x74, w)
  | .dmaCopy _ w => some (0x80, w)
  | .dmaDesc _ w => some (0x81, w)
  | .move _ w => some (0x82, w)
  | .splice _ w => some (0x83, w)
  | .dmaWait _ w => some (0x8F, w)
  | .mloadw _ w => some (0x90, w)
  | .mmul _ w => some (0x91, w)
  | .accClaim _ w => some (0xA0, w)
  | .accFree _ w => some (0xA1, w)
  | .accZero _ w => some (0xA2, w)
  | .ladderSave _ w => some (0xA3, w)
  | .ladderMerge _ w => some (0xA4, w)
  | .drain _ w => some (0xA5, w)
  | .drainQ _ w => some (0xA6, w)
  | .ladderLoad _ w => some (0xA7, w)
  | .attnInit _ w => some (0xB0, w)
  | .attnStep _ w => some (0xB0, w)
  | .attnFinish _ w => some (0xB0, w)
  | .fuseSet _ w => some (0xB1, w)
  | .recRun _ w => some (0xB2, w)
  | .reelSubmit _ w => some (0xB3, w)
  | .reelSwapout _ w => some (0xB4, w)
  | .reelDestroy _ w => some (0xB5, w)
  | .reelQuery _ w => some (0xB6, w)
  | .gateLoad _ w => some (0xB7, w)
  | .pool _ w => some (0xB8, w)
  | .boxdec _ w => some (0xB9, w)
  | .nms _ w => some (0xBA, w)
  | .boxclip _ w => some (0xBB, w)
  | .nop _ w => some (0xD0, w)
  | .endThread _ w => some (0xD1, w)
  | .trap _ w => some (0xD2, w)
  | .clap _ w => some (0xD3, w)
  | .rdslate _ w => some (0xD4, w)
  | .rdtsw _ w => some (0xD5, w)
  | .clrtsw _ w => some (0xD6, w)
  | .rdcnt _ w => some (0xD7, w)
  | .csrr _ w => some (0xE0, w)
  | .csrw _ w => some (0xE1, w)
  | .wfe _ w => some (0xE2, w)
  | .eret _ w => some (0xE3, w)
  | .mboxPost _ w _ => some (0xE4, w)
  | _ => none

/-- The command header that a host or management command carries. -/
def Instr.header : Instr → Option CmdHdr
  | .cmdNop _ h => some h
  | .jobCreate _ h => some h
  | .jobSet _ h => some h
  | .jobDestroy _ h => some h
  | .step _ h => some h
  | .seqAdmit _ h => some h
  | .seqRun _ h => some h
  | .seqEnd _ h => some h
  | .alloc _ h => some h
  | .free _ h => some h
  | .cmdMove _ h => some h
  | .seal _ h => some h
  | .write _ h _ => some h
  | .read _ h _ => some h
  | .hostmap _ h => some h
  | .cmdReelSubmit _ h => some h
  | .cmdReelDestroy _ h => some h
  | .attest _ h => some h
  | .sessionOpen _ h => some h
  | .measure _ h => some h
  | .linkKey _ h _ => some h
  | .linkKeyErase _ h => some h
  | .devAttest h => some h
  | .relSet _ h => some h
  | .declare h => some h
  | .readmit h => some h
  | .partCreate h => some h
  | .partChange h => some h
  | .partDestroy h => some h
  | .partReset h => some h
  | .funcDisable h => some h
  | .funcEnable h => some h
  | .usbShare h => some h
  | .flashWrite h => some h
  | .flashRead h => some h
  | .imageBcast h => some h
  | .lockstep h => some h
  | _ => none

/-- The packet that a packet row carries. -/
def Instr.packet : Instr → Option Packet
  | .rd _ k _ => some k
  | .wr _ k _ => some k
  | .notify _ k _ => some k
  | .rdata _ k _ => some k
  | .ackr _ k => some k
  | .stream _ k _ => some k
  | .syncRequest _ k => some k
  | .syncResponse _ k => some k
  | .enum _ k => some k
  | .report _ k => some k
  | .geom _ k => some k
  | .image _ k => some k
  | .csrRd _ k => some k
  | .csrWr _ k => some k
  | .launch _ k => some k
  | .faultmap _ k => some k
  | .mgmtFence _ k => some k
  | _ => none

/-- The places of the symbols that the FEC corrected in the codeword of a flit row. -/
def Instr.fixes : Instr → Option (List (Fin 544))
  | .flitReceive _ fix _ _ => some fix
  | _ => none

/-- Whether the opcode of the word of an instruction row is the row's (R184). -/
def Instr.opcodeOk (i : Instr) : Bool :=
  match i.word with
  | some x => x.2.toNat % 256 == x.1
  | none => true

/-- Commands whose data arrive as an EP2 OUT transfer (R625, R655, log 34). -/
def Instr.bulkRow : Instr → Bool
  | .write _ _ _ => true
  | .flashWrite _ => true
  | .imageBcast _ => true
  | _ => false

/-- Whether the payload of a command fits its EP1 OUT transfer: at most 4,032 bytes (Table HST-3). -/
def Instr.payloadOk (i : Instr) : Bool :=
  match i.header with
  | some h => i.bulkRow || decide (h.payload.length ≤ 4032)
  | none => true

/-- Whether a packet carries at most 256 bytes of data (R532). -/
def Instr.packetOk (i : Instr) : Bool :=
  match i.packet with
  | some k => decide (k.data.length ≤ 256)
  | none => true

/-- Whether a codeword has at most 15 corrected symbols, each named once: RS(544,514) corrects no more (R523). -/
def Instr.flitOk (i : Instr) : Bool :=
  match i.fixes with
  | some l => decide (l.length ≤ 15) && decide l.Nodup
  | none => true

/-- A well-formed command. -/
def Instr.wf (i : Instr) : Bool := i.opcodeOk && i.payloadOk && i.packetOk && i.flitOk

end Sys2Proof
end

