-- ==== Sys2Proof/Safety.lean ====
section
/-! DEFINITION. What a safe run is: its commands are well formed, and no step stops. -/
namespace Sys2Proof

/-- Every command that waits is well formed. -/
def Safe.queue (s : Machine.State) : Prop := ∀ c ∈ s.pending, c.wf = true

/-- A step that goes on. -/
def Safe.goesOn (s : Machine.State) : Prop := ∃ t, Machine.step s = .next t

/-- The state is safe: its queue is well formed and its memory canonical. -/
def Safe.state (s : Machine.State) : Prop := Safe.queue s ∧ Machine.Memory.wf s.mem = true

end Sys2Proof
end

