-- ==== Sys2Proof/Claims.lean ====
section
/-! DEFINITION. The terms in which the claims are stated: when an instruction issues, and what a step leaves alone. -/
namespace Sys2Proof.Machine

/-- No breakpoint of a core is armed. -/
def State.unarmed (s : State) (k : Nat) : Prop := ∀ n, n < 8 → bitAt ((s.core k).bp.get Bp.init n).ctl.toNat 0 = false

/-- No breakpoint of a controller is armed. -/
def State.ctlUnarmed (s : State) (c : Option Nat) : Prop :=
  ∀ n, n < 8 → bitAt ((s.ctl c).bp.get Bp.init n).ctl.toNat 0 = false

/-- The thread issues the word: the main domains run, the thread may issue, and no breakpoint of its core is armed. -/
def State.issues (s : State) (h : Hart) (w : W64) (vregs : List Nat) : Prop :=
  s.live = true ∧ s.canIssue h.key h.thr.val w vregs = true ∧ s.unarmed h.key

/-- The controller executes the word: the main domains run, the word stands at the program counter of a controller that may
issue it, and no breakpoint of it is armed. -/
def State.ctlIssues (s : State) (c : Option Nat) (w : W64) : Prop :=
  s.live = true ∧ s.ctlReady c = true ∧ inLocal (s.ctl c).pc.toNat = true ∧ (s.ctl c).pc.toNat % 8 = 0 ∧
    (s.ctl c).fetched = w.toNat ∧ s.ctlUnarmed c

/-- The agent that is a controller. -/
def ctlAgent : Option (Fin 8) → Agent
  | some c => .cluster c
  | none => .device

/-- The number of a controller. -/
def ctlNum : Option (Fin 8) → Option Nat
  | some c => some c.val
  | none => none

/-- The thread that an agent number names. -/
abbrev State.of (s : State) (h : Hart) : Thread := s.thr h.key h.thr.val

/-- Nothing but core k differs. -/
def State.onlyCore (s t : State) (k : Nat) : Prop := t = { s with cores := t.cores } ∧ ∀ j, j ≠ k → t.core j = s.core j

/-- No other thread of the core differs. -/
def State.otherThreads (s t : State) (h : Hart) : Prop := ∀ j, j ≠ h.thr.val → t.thr h.key j = s.thr h.key j

/-- Nothing but one thread differs, with the counters of its core and the number of the thread that issued last. -/
def State.onlyThread (s t : State) (h : Hart) : Prop :=
  s.onlyCore t h.key ∧ s.otherThreads t h ∧
    t.core h.key = { s.core h.key with
      threads := (t.core h.key).threads, cnt := (t.core h.key).cnt, winE := (t.core h.key).winE, last := h.thr.val }

/-- Two threads differ in no more than program counter, fetch buffer, and thread state. -/
def Thread.sameBut (x y : Thread) : Prop :=
  y = { x with
    pc := y.pc, st := y.st, wait := y.wait, fcur := y.fcur, fnext := y.fnext, freq := y.freq, fwords := y.fwords,
    fnwords := y.fnwords }

/-- Thread x, its instruction executed, goes on as y at the next word. -/
def Thread.wentOn (x y : Thread) : Prop :=
  Thread.sameBut x y ∧ y.pc = x.pc + 8#64 ∧ (y.st = .ready ∨ (y.st = .waitMem ∧ y.wait = .fetch))

/-- Thread x, its instruction executed, jumps as y. -/
def Thread.jumpedTo (x y : Thread) (pc : W64) : Prop :=
  Thread.sameBut x y ∧ y.pc = pc ∧ y.st = .waitMem ∧ y.wait = .fetch ∧ y.fcur = none ∧ y.fnext = none ∧ y.freq = [blockOf pc]

/-- Thread x, its instruction executed, waits as y with the program counter at the next word. -/
def Thread.waitsAs (x y : Thread) (st : ThState) (wait : Wait) : Prop :=
  Thread.sameBut x y ∧ y.pc = x.pc + 8#64 ∧ y.st = st ∧ y.wait = wait

/-- The bytes of a range are no case of R107 for a thread that accesses them: no unordered write of another thread meets them, and
they have not changed under the thread's work. -/
def State.ordered (s : State) (k t va n : Nat) : Prop := s.vraced k t va n = false ∧ s.vchanged k t va n = false

/-- Nothing but one controller differs. -/
def State.onlyCtl (s t : State) (c : Option Nat) : Prop :=
  t = { s with clusters := t.clusters, devCtl := t.devCtl } ∧ (∀ d, d ≠ c → t.ctl d = s.ctl d) ∧
    ∀ n, { t.cl n with ctl := (s.cl n).ctl } = s.cl n

/-- Dailies of the core's cluster records nothing. -/
def State.noTrace (s : State) (k : Nat) : Prop := (s.trace (keyCl k)).state ≠ 1#2 ∧ (s.trace (keyCl k)).state ≠ 2#2

/-- The thread halts with a fault record: HALTED, its registers and program counter as they were, and an event word for the
controller of its cluster where no WFE waits there. -/
def State.haltsWith (s t : State) (h : Hart) (code entry va imm : Nat) : Prop :=
  (t.of h).st = .halted ∧
    (t.of h).flt = { code := BitVec.ofNat 8 code, v := true, pc := (s.of h).pc.setWidth 48, entry := BitVec.ofNat 48 entry,
                     va := BitVec.ofNat 48 va, imm := BitVec.ofNat 32 imm } ∧
    t.of h = { s.of h with st := .halted, wait := (t.of h).wait, flt := (t.of h).flt } ∧
    s.otherThreads t h ∧ (∀ j, j ≠ h.key → t.core j = s.core j) ∧
    ((s.cl h.cl.val).ctl.wfe = none →
      (t.cl h.cl.val).ctl.events = (s.cl h.cl.val).ctl.events ++ [eventWord 0 (s.logOf h.key).2 h.thr.val code imm]) ∧
    (s.noTrace h.key → t = { s with cores := t.cores, clusters := t.clusters, parts := t.parts } ∧
      (∀ p, t.part p = { s.part p with badAccess := (t.part p).badAccess }) ∧ (code ≠ 0x05 → code ≠ 0x06 → t.parts = s.parts))

/-- A job stands still: it is not held, leaving or being destroyed, asks for cores, and is unplaced or pinned with no step that
could be built. -/
structure Job.still (x : Job) : Prop where
  held : x.held = []
  victim : x.victim = false
  destroy : x.destroy = none
  cores : 1 ≤ x.cores
  whole : x.whole = true → 8 ≤ x.cores
  rest : x.placed = [] ∨ (x.pinned = true ∧ (x.kind ≠ 1#2 ∨ x.running.isSome = true))

/-- Every job of a partition stands still, and no core is free while one waits: the scheduler has nothing to do. -/
def State.settled (s : State) (p : Nat) : Prop :=
  (∀ x ∈ (s.part p).jobs, x.2.still) ∧ ((∀ b, s.freeCores p b = []) ∨ ∀ x ∈ (s.part p).jobs, x.2.placed ≠ [])

/-! ### Host commands -/

/-- The bursts of a transfer of bytes are granted to a partition (R616, R617). -/
def State.granted (s : State) (p bytes : Nat) : Prop := (s.takeBursts p (max 1 (ceilDiv bytes burstBytes))).isSome = true

/-- A function takes a command with an opcode: the image runs, a master's port is connected with streams, the function operates and
holds no command, its bursts are granted, and a confidential partition has its session, or the opcode needs none (R613 to R617,
R620, R758). -/
def State.takes (s : State) (p opc : Nat) (h : CmdHdr) : Prop :=
  s.live = true ∧ s.boot.running = true ∧ s.portOpen = true ∧ (s.func p).st = .operating ∧ (s.func p).cmds = [] ∧
    s.granted p (64 + h.payload.length) ∧
    (s.conf p = true → (s.secp p).session = none → opc = 0x00 ∨ opc = 0x20 ∨ opc = 0x21)

/-- What the acceptance of a command touches beside its own effect: the function, the burst slots, the event words of a controller,
and the index of the partition's free values. -/
def State.hostFrame (s t : State) (p : Nat) : Prop :=
  t = { s with usb := t.usb, clusters := t.clusters, parts := t.parts } ∧
    t.usb = { s.usb with funcs := t.usb.funcs, slotPos := t.usb.slotPos, lastBorrow := t.usb.lastBorrow } ∧
    (∀ q, q ≠ p → t.func q = s.func q) ∧ (∀ q, t.part q = { s.part q with freeCtr := (t.part q).freeCtr }) ∧
    ∀ c, t.cl c = { s.cl c with ctl := (t.cl c).ctl }

/-- The command completes, its completion queued on its function's EP1 IN, and the function holds no command (R620, R624). -/
def State.completes (s t : State) (p : Nat) (h : CmdHdr) (opc st fc d0 : Nat) : Prop :=
  (t.func p).cmds = [] ∧
    (t.func p).out = queueCompletion (s.func p).out { Completion.init with
      tag := h.tag, status := BitVec.ofNat 8 st, fcode := BitVec.ofNat 8 fc, opc := BitVec.ofNat 8 opc, tArr := s.nsW,
      tDone := s.nsW, d0 := BitVec.ofNat 64 d0, serial := (s.func p).serial, cycle := s.cycle }

/-- The command has started and does not complete yet. -/
def State.holdsCmd (s t : State) (p : Nat) (h : CmdHdr) (opc : Nat) : Prop :=
  (t.func p).cmds = [{ serial := (s.func p).serial, opc := BitVec.ofNat 8 opc, hdr := h, started := true, tArr := s.nsW, err := .none }] ∧
    (t.func p).out = (s.func p).out

/-- The pages of a run have their level-3 entries in the part's own map (log 9). -/
def State.unwalked (s : State) (p page n : Nat) : Prop := ∀ i, i < n → s.walk p (page + i) = none

/-! ### Management commands -/

/-- EP0 takes a management command: a connected master whose firmware runs, no command held (R615, R634 to R637). -/
def State.takesMgmt (s : State) : Prop :=
  s.live = true ∧ s.usb.connected = true ∧ s.boot.running = true ∧ s.dev.master = true ∧ s.usb.mgmtCmds = []

/-- The management command completes, as the last unread completion (R634, R637). -/
def State.completesMgmt (s t : State) (h : CmdHdr) (opc st fc d0 : Nat) : Prop :=
  t.usb.mgmtCmds = [] ∧
    t.usb.mgmtOut = s.usb.mgmtOut ++ [{ Completion.init with
      tag := h.tag, status := BitVec.ofNat 8 st, fcode := BitVec.ofNat 8 fc, opc := BitVec.ofNat 8 opc, tArr := s.nsW,
      tDone := s.nsW, d0 := BitVec.ofNat 64 d0 }]

/-- The management command has started and does not complete yet. -/
def State.holdsMgmt (s t : State) (h : CmdHdr) (opc : Nat) : Prop :=
  t.usb.mgmtCmds = [{ serial := s.usb.mgmtSerial, opc := BitVec.ofNat 8 opc, hdr := h, started := true, tArr := s.nsW, err := .none }] ∧
    t.usb.mgmtOut = s.usb.mgmtOut

/-- What the acceptance of a management command touches. -/
def State.mgmtFrame (s t : State) : Prop :=
  t = { s with usb := { s.usb with
    mgmtSerial := t.usb.mgmtSerial, mgmtCmds := t.usb.mgmtCmds, mgmtOut := t.usb.mgmtOut, stall := false, ep0 := [] } }

/-- Every byte of the device's memory but those of one range. -/
def State.sameOutside (s t : State) (a n : Nat) : Prop := ∀ x, x < a ∨ a + n ≤ x → t.rd x = s.rd x

end Sys2Proof.Machine
end

