-- ==== Sys2Proof/Certificates/Slice0/Obligations.lean ====
section
/-! DEFINITION. The statements for the provers. -/
open Sys2Proof Sys2Proof.Machine

/-! ### Scalar instructions -/

/-- A scalar instruction as Table ISA-3 gives it: its constructor, opcode, used fields, and D of the word, A and B. -/
structure Claims.ScalarForm where
  ins : Agent → W64 → Instr
  op : Nat
  mask : Nat
  f : W64 → W64 → W64 → W64

/-- Table ISA-3, with the corners of R189 and R190. -/
def Claims.scalarForms : List Claims.ScalarForm := [
  ⟨.add, 0x00, mRR, fun _ a b => a + b⟩, ⟨.addi, 0x10, mRI, fun w a _ => a + immS w⟩,
  ⟨.sub, 0x01, mRR, fun _ a b => a - b⟩,
  ⟨.and, 0x02, mRR, fun _ a b => a &&& b⟩, ⟨.andi, 0x12, mRI, fun w a _ => a &&& immS w⟩,
  ⟨.or, 0x03, mRR, fun _ a b => a ||| b⟩, ⟨.ori, 0x13, mRI, fun w a _ => a ||| immS w⟩,
  ⟨.xor, 0x04, mRR, fun _ a b => a ^^^ b⟩, ⟨.xori, 0x14, mRI, fun w a _ => a ^^^ immS w⟩,
  ⟨.shl, 0x05, mRR, fun _ a b => a <<< (b.toNat % 64)⟩, ⟨.shli, 0x15, mRI, fun w a _ => a <<< ((immS w).toNat % 64)⟩,
  ⟨.shr, 0x06, mRR, fun _ a b => a >>> (b.toNat % 64)⟩, ⟨.shri, 0x16, mRI, fun w a _ => a >>> ((immS w).toNat % 64)⟩,
  ⟨.sra, 0x07, mRR, fun _ a b => a.sshiftRight (b.toNat % 64)⟩,
  ⟨.srai, 0x17, mRI, fun w a _ => a.sshiftRight ((immS w).toNat % 64)⟩] ++ [
  ⟨.mul, 0x08, mRR, fun _ a b => a * b⟩,
  ⟨.mulh, 0x09, mRR, fun _ a b => BitVec.ofInt 64 ((a.toInt * b.toInt) / (2 ^ 64 : Int))⟩,
  ⟨.mulhu, 0x0A, mRR, fun _ a b => BitVec.ofNat 64 (a.toNat * b.toNat / 2 ^ 64)⟩,
  ⟨.div, 0x0B, mRR, fun _ a b => if b = 0#64 then BitVec.allOnes 64 else BitVec.ofInt 64 (a.toInt.tdiv b.toInt)⟩,
  ⟨.divu, 0x0C, mRR, fun _ a b => if b = 0#64 then BitVec.allOnes 64 else BitVec.ofNat 64 (a.toNat / b.toNat)⟩,
  ⟨.rem, 0x0D, mRR, fun _ a b => if b = 0#64 then a else BitVec.ofInt 64 (a.toInt.tmod b.toInt)⟩,
  ⟨.remu, 0x0E, mRR, fun _ a b => if b = 0#64 then a else BitVec.ofNat 64 (a.toNat % b.toNat)⟩,
  ⟨.slt, 0x0F, mRR + mX0, fun w a b =>
    if xBit w 0 then (if a.toNat < b.toNat then 1#64 else 0#64) else if a.toInt < b.toInt then 1#64 else 0#64⟩,
  ⟨.slti, 0x1F, mRI + mX0, fun w a _ =>
    if xBit w 0 then (if a.toNat < (immS w).toNat then 1#64 else 0#64)
    else if a.toInt < (immS w).toInt then 1#64 else 0#64⟩,
  ⟨.li, 0x18, mO + mD + mI, fun w _ _ => immS w⟩,
  ⟨.lih, 0x19, mRI, fun w a _ => (immS w <<< 32) ||| (a &&& 0xFFFFFFFF#64)⟩]

/-- Every scalar instruction of a thread that issues it: D takes the value of Table ISA-3, g0 keeps reading zero, no other
register, thread, core or byte changes, the program counter goes on by 8, and the issue is counted (R55, R188 to R190). -/
def Claims.ScalarOnThread : Prop :=
  ∀ r ∈ Claims.scalarForms, ∀ (h : Hart) (w : W64) (s : State),
    opcOf w = r.op → unusedSet w r.mask = false → s.issues h w [] →
    ∃ t, exec (r.ins (.thread h) w) s = .next t ∧
      (fD w ≠ 0 → (t.of h).g (fD w) = r.f w ((s.of h).g (fA w)) ((s.of h).g (fB w))) ∧ (t.of h).g 0 = 0#64 ∧
      (∀ n, n ≠ fD w → (t.of h).g n = (s.of h).g n) ∧
      Thread.wentOn { s.of h with gr := (t.of h).gr } (t.of h) ∧ s.onlyThread t h ∧
      (t.core h.key).cnt.get 0#64 1 = (s.core h.key).cnt.get 0#64 1 + 1#64

/-- The same of a controller (R289). -/
def Claims.ScalarOnController : Prop :=
  ∀ r ∈ Claims.scalarForms, ∀ (c : Option (Fin 8)) (w : W64) (s : State),
    opcOf w = r.op → unusedSet w r.mask = false → s.ctlIssues (ctlNum c) w →
    ∃ t, exec (r.ins (ctlAgent c) w) s = .next t ∧
      (fD w ≠ 0 → (t.ctl (ctlNum c)).g (fD w) = r.f w ((s.ctl (ctlNum c)).g (fA w)) ((s.ctl (ctlNum c)).g (fB w))) ∧
      (∀ n, n ≠ fD w → (t.ctl (ctlNum c)).g n = (s.ctl (ctlNum c)).g n) ∧
      t.ctl (ctlNum c) = { s.ctl (ctlNum c) with gr := (t.ctl (ctlNum c)).gr, pc := (s.ctl (ctlNum c)).pc + 8#64 } ∧
      s.onlyCtl t (ctlNum c)

/-! ### Branches and jumps -/

/-- A branch of Table ISA-4 with its condition, on registers A and B. -/
def Claims.branchForms : List ((Agent → W64 → Instr) × Nat × (W64 → W64 → Bool)) := [
  (.beq, 0x30, fun a b => decide (a = b)), (.bne, 0x31, fun a b => decide (a ≠ b)),
  (.blt, 0x32, fun a b => decide (a.toInt < b.toInt)), (.bge, 0x33, fun a b => decide (b.toInt ≤ a.toInt)),
  (.bltu, 0x34, fun a b => decide (a.toNat < b.toNat)), (.bgeu, 0x35, fun a b => decide (b.toNat ≤ a.toNat))]

/-- A branch that a thread or a controller issues goes to PC + sext(IMM) × 8 when its condition holds and to the next word
otherwise; nothing else changes but, where Dailies records branches, its records (R195, R200). -/
def Claims.BranchesGo : Prop :=
  ∀ r ∈ Claims.branchForms, ∀ (w : W64) (s : State), opcOf w = r.2.1 → unusedSet w (mO + mA + mB + mI) = false →
    (∀ h : Hart, s.issues h w [] →
      ∃ t, exec (r.1 (.thread h) w) s = .next t ∧
        (if r.2.2 ((s.of h).g (fA w)) ((s.of h).g (fB w)) then
          Thread.jumpedTo (s.of h) (t.of h) ((s.of h).pc + immS w * 8#64)
         else Thread.wentOn (s.of h) (t.of h)) ∧
        (s.noTrace h.key → s.onlyThread t h)) ∧
    (∀ c : Option (Fin 8), s.ctlIssues (ctlNum c) w →
      ∃ t, exec (r.1 (ctlAgent c) w) s = .next t ∧ s.onlyCtl t (ctlNum c) ∧
        t.ctl (ctlNum c) = { s.ctl (ctlNum c) with
          pc := if r.2.2 ((s.ctl (ctlNum c)).g (fA w)) ((s.ctl (ctlNum c)).g (fB w))
            then (s.ctl (ctlNum c)).pc + immS w * 8#64 else (s.ctl (ctlNum c)).pc + 8#64 })

/-- JAL and JALR write PC + 8 to D and jump, JALR where its target is a multiple of 8; a thread's JALR to another target
halts it with ALIGN, D unchanged (R196, R197). -/
def Claims.JumpsLink : Prop :=
  ∀ (w : W64) (s : State) (h : Hart), s.issues h w [] →
    (opcOf w = 0x38 → unusedSet w (mO + mD + mI) = false →
      ∃ t, exec (.jal (.thread h) w) s = .next t ∧
        Thread.jumpedTo ((s.of h).setG (fD w) ((s.of h).pc + 8#64)) (t.of h) ((s.of h).pc + immS w * 8#64) ∧
        (fD w ≠ 0 → (t.of h).g (fD w) = (s.of h).pc + 8#64) ∧ (∀ n, n ≠ fD w → (t.of h).g n = (s.of h).g n) ∧
        (s.noTrace h.key → s.onlyThread t h)) ∧
    (opcOf w = 0x39 → unusedSet w (mO + mD + mA + mI) = false →
      ((s.of h).g (fA w) + immS w).toNat % 8 = 0 →
      ∃ t, exec (.jalr (.thread h) w) s = .next t ∧
        Thread.jumpedTo ((s.of h).setG (fD w) ((s.of h).pc + 8#64)) (t.of h) ((s.of h).g (fA w) + immS w) ∧
        (fD w ≠ 0 → (t.of h).g (fD w) = (s.of h).pc + 8#64) ∧ (∀ n, n ≠ fD w → (t.of h).g n = (s.of h).g n) ∧
        (s.noTrace h.key → s.onlyThread t h)) ∧
    (opcOf w = 0x39 → unusedSet w (mO + mD + mA + mI) = false →
      ((s.of h).g (fA w) + immS w).toNat % 8 ≠ 0 →
      ∃ t, exec (.jalr (.thread h) w) s = .next t ∧ (t.of h).st = .halted ∧ (t.of h).flt.code = 0x03#8 ∧
        (t.of h).pc = (s.of h).pc ∧ (t.of h).gr = (s.of h).gr)

/-- The jumps of a controller (R196, R197, R289). -/
def Claims.ControllerJumps : Prop :=
  ∀ (w : W64) (s : State) (c : Option (Fin 8)), s.ctlIssues (ctlNum c) w →
    (opcOf w = 0x38 → unusedSet w (mO + mD + mI) = false →
      ∃ t, exec (.jal (ctlAgent c) w) s = .next t ∧ s.onlyCtl t (ctlNum c) ∧
        (t.ctl (ctlNum c)).pc = (s.ctl (ctlNum c)).pc + immS w * 8#64 ∧
        (fD w ≠ 0 → (t.ctl (ctlNum c)).g (fD w) = (s.ctl (ctlNum c)).pc + 8#64) ∧
        (∀ n, n ≠ fD w → (t.ctl (ctlNum c)).g n = (s.ctl (ctlNum c)).g n)) ∧
    (opcOf w = 0x39 → unusedSet w (mO + mD + mA + mI) = false →
      ((s.ctl (ctlNum c)).g (fA w) + immS w).toNat % 8 = 0 →
      ∃ t, exec (.jalr (ctlAgent c) w) s = .next t ∧ s.onlyCtl t (ctlNum c) ∧
        (t.ctl (ctlNum c)).pc = (s.ctl (ctlNum c)).g (fA w) + immS w ∧
        (fD w ≠ 0 → (t.ctl (ctlNum c)).g (fD w) = (s.ctl (ctlNum c)).pc + 8#64) ∧
        (∀ n, n ≠ fD w → (t.ctl (ctlNum c)).g n = (s.ctl (ctlNum c)).g n))

/-! ### Words that fault -/

/-- The rows of Table ISA-16 that only controllers execute, with opcode and used fields. -/
def Claims.privForms : List ((Agent → W64 → Instr) × Nat × Nat) := [
  (.csrr, 0xE0, mO + mD + mA + mI), (.csrw, 0xE1, mO + mB + mA + mI), (.wfe, 0xE2, mO + mD), (.eret, 0xE3, mO),
  (fun a w => .mboxPost a w .none, 0xE4, mO + mA)]

/-- On a core a controller-only instruction raises PRIV (code 0x02), and a scalar, branch or controller-only word with a
nonzero unused field raises ILLEGAL (0x01); the thread halts before the instruction, with its registers unchanged. -/
def Claims.IllegalAndPrivHalt : Prop :=
  ∀ (h : Hart) (w : W64) (s : State), s.issues h w [] →
    (∀ r ∈ Claims.privForms, opcOf w = r.2.1 → unusedSet w r.2.2 = false →
      ∃ t, exec (r.1 (.thread h) w) s = .next t ∧ s.haltsWith t h 0x02 0 0 0) ∧
    (∀ r ∈ Claims.privForms, opcOf w = r.2.1 → unusedSet w r.2.2 = true →
      ∃ t, exec (r.1 (.thread h) w) s = .next t ∧ s.haltsWith t h 0x01 0 0 0) ∧
    (∀ r ∈ Claims.scalarForms, opcOf w = r.op → unusedSet w r.mask = true →
      ∃ t, exec (r.ins (.thread h) w) s = .next t ∧ s.haltsWith t h 0x01 0 0 0) ∧
    (∀ r ∈ Claims.branchForms, opcOf w = r.2.1 → unusedSet w (mO + mA + mB + mI) = true →
      ∃ t, exec (r.1 (.thread h) w) s = .next t ∧ s.haltsWith t h 0x01 0 0 0) ∧
    (∀ r ∈ Claims.scalarForms, listedOpc (opcOf w) = false →
      ∃ t, exec (r.ins (.thread h) w) s = .next t ∧ s.haltsWith t h 0x01 0 0 0)

/-- A controller that executes a core-only opcode takes ILLEGAL: EPC and ECAUSE record it and it goes to HBASE, while ECAUSE
was zero; a further fault stops it (R289, R295, R296). -/
def Claims.ControllerFaults : Prop :=
  ∀ r ∈ ([(.bar, 0x41), (.mwait, 0x42), (.vadd, 0x50), (.vld, 0x60), (.mmul, 0x91), (.dmaWait, 0x8F), (.endThread, 0xD1),
      (.rdcnt, 0xD7)] : List ((Agent → W64 → Instr) × Nat)),
    ∀ (c : Option (Fin 8)) (w : W64) (s : State), opcOf w = r.2 → s.ctlIssues (ctlNum c) w →
      ∃ t, exec (r.1 (ctlAgent c) w) s = .next t ∧
        ((s.ctl (ctlNum c)).ecause = 0#8 → s.onlyCtl t (ctlNum c) ∧
          t.ctl (ctlNum c) = { s.ctl (ctlNum c) with
            epc := (s.ctl (ctlNum c)).pc.setWidth 40, ecause := 0x01#8, pc := (s.ctl (ctlNum c)).hbase.setWidth 64 }) ∧
        ((s.ctl (ctlNum c)).ecause ≠ 0#8 → (t.ctl (ctlNum c)).stopped = true ∧
          (∀ n : Fin 8, c = some n → (t.ctl (ctlNum c)).fenced = true))

/-! ### Loads -/

/-- A load of a core: its constructor, opcode, used fields, whether it loads a vector register, bytes, address, alignment. -/
structure Claims.LoadForm where
  ins : Agent → W64 → Instr
  op : Nat
  mask : Nat
  vec : Bool
  bytes : W64 → Thread → Nat
  addr : W64 → Thread → W64
  align : Nat

/-- The loads of Tables ISA-5 and ISA-6. -/
def Claims.loadForms : List Claims.LoadForm := [
  ⟨.ld8, 0x20, mO + mD + mA + mX0 + mI, false, fun _ _ => 1, fun w x => x.g (fA w) + immS w, 1⟩,
  ⟨.ld16, 0x21, mO + mD + mA + mX0 + mI, false, fun _ _ => 2, fun w x => x.g (fA w) + immS w, 2⟩,
  ⟨.ld32, 0x22, mO + mD + mA + mX0 + mI, false, fun _ _ => 4, fun w x => x.g (fA w) + immS w, 4⟩,
  ⟨.ld64, 0x23, mO + mD + mA + mX0 + mI, false, fun _ _ => 8, fun w x => x.g (fA w) + immS w, 8⟩,
  ⟨.vld, 0x60, mO + mD + mA + mI, true, fun _ _ => 256, fun w x => x.g (fA w) + immS w, 1⟩,
  ⟨.vldb, 0x62, mO + mD + mA + mC, true, fun w x => min (x.g (fC w)).toNat 256, fun w x => x.g (fA w), 1⟩]

/-- The register fields of a vector form that must name v0 to v15. -/
def Claims.vecOf (vec : Bool) (n : Nat) : List Nat := if vec then [n] else []

/-- A load whose bytes translate without a fault, on a core that is not fenced and with no page in motion, leaves its thread in
WAIT_MEM with the load recorded; nothing else changes until it returns. One whose access faults halts the thread with that
fault's code and address (R53, R191, R193, R214, R278, R926). -/
def Obligations.LoadsWait : Prop :=
  ∀ r ∈ Claims.loadForms, ∀ (h : Hart) (w : W64) (s : State), opcOf w = r.op → unusedSet w r.mask = false →
    (r.vec = true → fD w < 16) → s.issues h w (Claims.vecOf r.vec (fD w)) →
    (s.accessFault h.key (r.addr w (s.of h)).toNat (r.bytes w (s.of h)) r.align false = none →
      s.mvRange h.key (r.addr w (s.of h)).toNat (r.bytes w (s.of h)) = false → s.fencedCore h.key = false →
      ∃ t, exec (r.ins (.thread h) w) s = .next t ∧ s.onlyThread t h ∧
        Thread.waitsAs { s.of h with load := (t.of h).load } (t.of h) .waitMem .load ∧
        (t.of h).load = some { reg := BitVec.ofNat 5 (fD w), vec := r.vec, bytes := r.bytes w (s.of h),
                               sext := !r.vec && xBit w 0, va := r.addr w (s.of h), due := ((t.of h).load.getD PendLoad.init).due }) ∧
    (∀ code va, s.accessFault h.key (r.addr w (s.of h)).toNat (r.bytes w (s.of h)) r.align false = some (code, va) →
      ∃ t, exec (r.ins (.thread h) w) s = .next t ∧ s.haltsWith t h code 0 va 0)

/-- LOAD_RETURN: the register of the load in flight takes the bytes at its address, least significant first, and the thread
goes on; no other register and nothing in memory changes (R53, R191, R214). A single-bit error that it meets in a cluster store is
corrected and counted; an uncorrectable one in a store halts the thread at the load with MEM_UE and stays in the word (R447, R448). -/
def Claims.LoadReturns : Prop :=
  ∀ (h : Hart) (s : State) (l : PendLoad), s.live = true → s.fencedCore h.key = false → (s.of h).load = some l →
    s.vbad (s.partOf h.key) l.va.toNat l.bytes = false → s.ordered h.key h.thr.val l.va.toNat l.bytes →
    (l.vec = true → l.reg.toNat < 16) →
    (∀ off a, off < l.bytes → l.va.toNat + l.bytes ≤ 2 ^ 48 → s.va? (s.partOf h.key) (l.va.toNat + off) = some a → s.badAt a = false →
      (∀ j o, regionOf a = .cluster j o → ∃ t, exec (.loadReturn (.thread h) (.corrected off)) s = .next t ∧
        (t.cl j).ceCount = satInc (s.cl j).ceCount ∧ (t.of h).load = none ∧ (t.of h).st ≠ .halted) ∧
      (∀ j o, regionOf a = .cluster j o ∨ regionOf a = .core j o →
        ∃ t, exec (.loadReturn (.thread h) (.failed off)) s = .next t ∧ (t.of h).st = .halted ∧ (t.of h).flt.code = 0x08#8 ∧
          (t.of h).pc = (s.of h).pc - 8#64 ∧ (t.of h).gr = (s.of h).gr ∧ t.mem = s.mem ∧ errUnit a ∈ t.badWords)) ∧
    ∃ t, exec (.loadReturn (.thread h) .none) s = .next t ∧ s.onlyCore t h.key ∧ s.otherThreads t h ∧
      t.core h.key = { s.core h.key with threads := (t.core h.key).threads } ∧ (t.of h).load = none ∧
      (l.vec = false →
        (∀ n, (t.of h).g n = if n ≠ 0 ∧ n = l.reg.toNat then
          loadVal (s.vrdN (s.partOf h.key) l.va.toNat l.bytes) l.sext else (s.of h).g n) ∧ (t.of h).vr = (s.of h).vr) ∧
      (l.vec = true →
        (∀ n, (t.of h).v n = if n = l.reg.toNat then
          bytesVreg (s.vrdN (s.partOf h.key) l.va.toNat l.bytes) else (s.of h).v n) ∧ (t.of h).gr = (s.of h).gr) ∧
      ((t.of h).st = .ready ∨ ((t.of h).st = .waitMem ∧ (t.of h).wait = .fetch))

/-! ### Stores -/

/-- A store of a core: its constructor, opcode, used fields, whether it stores a vector register, address, bytes stored,
alignment. -/
structure Claims.StoreForm where
  ins : Agent → W64 → MemErr → Instr
  op : Nat
  mask : Nat
  vec : Bool
  addr : W64 → Thread → W64
  data : W64 → Thread → List Byte
  align : Nat

/-- The stores of Tables ISA-5 and ISA-6. -/
def Claims.storeForms : List Claims.StoreForm := [
  ⟨.st8, 0x24, mO + mB + mA + mI, false, fun w x => x.g (fA w) + immS w, fun w x => leBytes 1 (x.g (fB w)).toNat, 1⟩,
  ⟨.st16, 0x25, mO + mB + mA + mI, false, fun w x => x.g (fA w) + immS w, fun w x => leBytes 2 (x.g (fB w)).toNat, 2⟩,
  ⟨.st32, 0x26, mO + mB + mA + mI, false, fun w x => x.g (fA w) + immS w, fun w x => leBytes 4 (x.g (fB w)).toNat, 4⟩,
  ⟨.st64, 0x27, mO + mB + mA + mI, false, fun w x => x.g (fA w) + immS w, fun w x => leBytes 8 (x.g (fB w)).toNat, 8⟩,
  ⟨.vst, 0x61, mO + mB + mA + mI, true, fun w x => x.g (fA w) + immS w, fun w x => vregBytes (x.v (fB w)), 1⟩,
  ⟨.vstb, 0x63, mO + mB + mA + mC, true, fun w x => x.g (fA w),
    fun w x => (vregBytes (x.v (fB w))).take (min (x.g (fC w)).toNat 256), 1⟩]

/-- A store puts its bytes, least significant first, at the device bytes of its virtual addresses and changes no other byte of
memory; no register changes and the thread goes on. One whose access faults halts the thread with that fault, and so does one that
finds an uncorrectable error in a word which it covers only in part; a store of whole words meets none (R192 to R194, R214, R448,
R449, R926). -/
def Claims.StoresWrite : Prop :=
  ∀ r ∈ Claims.storeForms, ∀ (h : Hart) (w : W64) (s : State), opcOf w = r.op → unusedSet w r.mask = false →
    (r.vec = true → fB w < 16) → s.issues h w (Claims.vecOf r.vec (fB w)) →
    let va := (r.addr w (s.of h)).toNat
    let l := r.data w (s.of h)
    (s.accessFault h.key va l.length r.align true = none → s.mvRange h.key va l.length = false →
      s.fencedCore h.key = false → s.vbadPart (s.partOf h.key) va l.length = false →
      s.vraced h.key h.thr.val va l.length = false →
      ∃ t, exec (r.ins (.thread h) w .none) s = .next t ∧
        (∀ i, i < l.length → ∀ a, s.va? (s.partOf h.key) (va + i) = some a → t.rd a = l.getD i 0#8) ∧
        (∀ x, (∀ i, i < l.length → s.va? (s.partOf h.key) (va + i) ≠ some x) → t.rd x = s.rd x) ∧
        Thread.wentOn (s.of h) (t.of h) ∧ s.otherThreads t h ∧
        (∀ j, j ≠ h.key → (t.core j).threads = (s.core j).threads) ∧
        (∀ q, t.part q = { s.part q with jobs := (t.part q).jobs }) ∧
        t = { s with
          cores := t.cores, parts := t.parts, mem := t.mem, cipher := t.cipher, badWords := t.badWords, poison := t.poison
          dirty := t.dirty }) ∧
    (∀ e code f, s.accessFault h.key va l.length r.align true = some (code, f) →
      ∃ t, exec (r.ins (.thread h) w e) s = .next t ∧ s.haltsWith t h code 0 f 0) ∧
    (∀ e, s.accessFault h.key va l.length r.align true = none → s.mvRange h.key va l.length = false →
      (s.meetV h.key (s.edges (s.partOf h.key) va l.length) e).vbadPart (s.partOf h.key) va l.length = true →
      ∃ t, exec (r.ins (.thread h) w e) s = .next t ∧ (t.of h).st = .halted ∧ (t.of h).flt.code = 0x08#8 ∧
        (t.of h).gr = (s.of h).gr ∧ (t.of h).pc = (s.of h).pc ∧ t.mem = s.mem) ∧
    (∀ e, s.edges (s.partOf h.key) va l.length = [] → exec (r.ins (.thread h) w e) s = exec (r.ins (.thread h) w .none) s)

/-! ### Loads and stores of controllers -/

/-- The scalar loads and stores with opcode and bytes. -/
def Claims.ctlLoads : List ((Agent → W64 → Instr) × Nat × Nat) := [
  (.ld8, 0x20, 1), (.ld16, 0x21, 2), (.ld32, 0x22, 4), (.ld64, 0x23, 8)]
/-- The scalar stores with opcode and bytes. -/
def Claims.ctlStores : List ((Agent → W64 → Instr) × Nat × Nat) := [
  (fun a w => .st8 a w .none, 0x24, 1), (fun a w => .st16 a w .none, 0x25, 2), (fun a w => .st32 a w .none, 0x26, 4),
  (fun a w => .st64 a w .none, 0x27, 8)]

/-- Whether an address lies in the CSR space. -/
def Claims.inCsr (a : Nat) : Bool := match regionOf a with
  | .csr _ => true
  | _ => false

/-- Whether a store of bytes by a controller touches no level-3 entry of the partition whose cluster store it addresses. -/
def Claims.noEntry (s : State) (a : Nat) (l : List Byte) : Prop :=
  ∀ n o p, regionOf a = .cluster n o → s.ownerCl n = some p → (s.store a l).entryAtAddr p a = none

/-- A controller's load of memory waits for its data; its return writes the register. Its store writes its bytes at the
physical address, in its own local memory where that is addressed, and no other byte, where no bank under repair holds it and it
touches no page-table entry (R290, R291, R455, R460, R462). -/
def Claims.ControllerLoadsStores : Prop :=
  ∀ (c : Option (Fin 8)) (w : W64) (s : State), s.ctlIssues (ctlNum c) w →
    let x := s.ctl (ctlNum c)
    let a := (x.g (fA w) + immS w).toNat
    (∀ r ∈ Claims.ctlLoads, opcOf w = r.2.1 → unusedSet w (mO + mD + mA + mX0 + mI) = false →
      s.ctlFaultAt (ctlNum c) a r.2.2 = none → Claims.inCsr a = false →
      ∃ t, exec (r.1 (ctlAgent c) w) s = .next t ∧ s.onlyCtl t (ctlNum c) ∧
        t.ctl (ctlNum c) = { x with
          pc := x.pc + 8#64, load := some { PendLoad.init with
            reg := BitVec.ofNat 5 (fD w), bytes := r.2.2, sext := xBit w 0, va := x.g (fA w) + immS w } }) ∧
    (∀ r ∈ Claims.ctlStores, opcOf w = r.2.1 → unusedSet w (mO + mB + mA + mI) = false →
      s.ctlFaultAt (ctlNum c) a r.2.2 = none → Claims.inCsr a = false → s.ctlWaits a r.2.2 = false →
      s.ctlBadPart a r.2.2 = false → Claims.noEntry s a (leBytes r.2.2 (x.g (fB w)).toNat) →
      ∃ t, exec (r.1 (ctlAgent c) w) s = .next t ∧
        t.ctlRead (ctlNum c) a r.2.2 = leBytes r.2.2 (x.g (fB w)).toNat ∧
        (inLocal a = true → t.mem = s.mem) ∧ (inLocal a = false → s.sameOutside t a r.2.2 ∧ (t.ctl (ctlNum c)).mem = x.mem) ∧
        (t.ctl (ctlNum c)).gr = x.gr ∧ (t.ctl (ctlNum c)).pc = x.pc + 8#64)

/-- LOAD_RETURN of a controller writes the loaded value (R191, R291). -/
def Claims.ControllerLoadReturns : Prop :=
  ∀ (c : Option (Fin 8)) (s : State) (l : PendLoad), s.live = true → (s.ctl (ctlNum c)).load = some l →
    s.ctlBad l.va.toNat l.bytes = false → s.bankBusy l.va.toNat l.bytes = false →
    ∃ t, exec (.loadReturn (ctlAgent c) .none) s = .next t ∧ s.onlyCtl t (ctlNum c) ∧ (t.ctl (ctlNum c)).load = none ∧
      (∀ n, (t.ctl (ctlNum c)).g n = if n ≠ 0 ∧ n = l.reg.toNat then
        loadVal (s.ctlRead (ctlNum c) l.va.toNat l.bytes) l.sext else (s.ctl (ctlNum c)).g n) ∧
      (t.ctl (ctlNum c)).pc = (s.ctl (ctlNum c)).pc

/-- Controller-only instructions: CSRR and CSRW reach the own registers, where the spec places them, and a CSR that the
controller may address; WFE takes the next event word or waits; ERET returns to EPC with ECAUSE cleared; MBOX.POST puts 64
bytes into its partition's mailbox while it has room (R293, R294, R297 to R300). -/
def Obligations.ControllerOnly : Prop :=
  ∀ (c : Option (Fin 8)) (w : W64) (s : State), s.ctlIssues (ctlNum c) w →
    let x := s.ctl (ctlNum c)
    let a := (x.g (fA w) + immS w).toNat
    (opcOf w = 0xE0 → unusedSet w (mO + mD + mA + mI) = false → a % 4 = 0 → a < 0x100 →
      ∃ t, exec (.csrr (ctlAgent c) w) s = .next t ∧ s.onlyCtl t (ctlNum c) ∧ (t.ctl (ctlNum c)).pc = x.pc + 8#64 ∧
        (∀ n, n ≠ fD w → (t.ctl (ctlNum c)).g n = x.g n) ∧
        (fD w ≠ 0 →
          (a = 0x00 → (t.ctl (ctlNum c)).g (fD w) = (x.epc.setWidth 32).setWidth 64) ∧
          (a = 0x04 → (t.ctl (ctlNum c)).g (fD w) = BitVec.ofNat 64 (x.epc.toNat / 2 ^ 32)) ∧
          (a = 0x08 → (t.ctl (ctlNum c)).g (fD w) = x.ecause.setWidth 64) ∧
          (a = 0x0C → (t.ctl (ctlNum c)).g (fD w) = (x.hbase.setWidth 32).setWidth 64) ∧
          (a = 0x10 → (t.ctl (ctlNum c)).g (fD w) = BitVec.ofNat 64 (x.hbase.toNat / 2 ^ 32)))) ∧
    (opcOf w = 0xE1 → unusedSet w (mO + mB + mA + mI) = false → a = 0x08 →
      ∃ t, exec (.csrw (ctlAgent c) w) s = .next t ∧ s.onlyCtl t (ctlNum c) ∧
        t.ctl (ctlNum c) = { x with ecause := (x.g (fB w)).setWidth 8, pc := x.pc + 8#64 }) ∧
    (opcOf w = 0xE1 → unusedSet w (mO + mB + mA + mI) = false → a = 0x0C →
      ∃ t, exec (.csrw (ctlAgent c) w) s = .next t ∧ s.onlyCtl t (ctlNum c) ∧
        ((t.ctl (ctlNum c)).hbase.setWidth 32 : BitVec 32) = (x.g (fB w)).setWidth 32 ∧
        (t.ctl (ctlNum c)).hbase.toNat / 2 ^ 32 = x.hbase.toNat / 2 ^ 32) ∧
    (opcOf w = 0xE2 → unusedSet w (mO + mD) = false → ∀ e rest, x.events = e :: rest →
      ∃ t, exec (.wfe (ctlAgent c) w) s = .next t ∧ s.onlyCtl t (ctlNum c) ∧ (t.ctl (ctlNum c)).events = rest ∧
        (∀ n, (t.ctl (ctlNum c)).g n = if n ≠ 0 ∧ n = fD w then e else x.g n) ∧
        (t.ctl (ctlNum c)).pc = x.pc + 8#64) ∧
    (opcOf w = 0xE2 → unusedSet w (mO + mD) = false → x.events = [] →
      ∃ t, exec (.wfe (ctlAgent c) w) s = .next t ∧ s.onlyCtl t (ctlNum c) ∧
        t.ctl (ctlNum c) = { x with wfe := some (fD w) }) ∧
    (opcOf w = 0xE3 → unusedSet w mO = false →
      ∃ t, exec (.eret (ctlAgent c) w) s = .next t ∧ s.onlyCtl t (ctlNum c) ∧
        t.ctl (ctlNum c) = { x with ecause := 0#8, pc := x.epc.setWidth 64 }) ∧
    (opcOf w = 0xE4 → unusedSet w (mO + mA) = false → ∀ (n : Fin 8) (p : Nat), c = some n → s.ownerCl n.val = some p →
      (∀ i, i < 64 → s.ctlFaultAt (ctlNum c) ((x.g (fA w)).toNat + i) 1 = none) →
      s.ctlWaits (x.g (fA w)).toNat 64 = false → s.ctlBad (x.g (fA w)).toNat 64 = false →
      ∃ t, exec (.mboxPost (ctlAgent c) w .none) s = .next t ∧ (t.ctl (ctlNum c)).pc = x.pc + 8#64 ∧
        ((s.part p).mbox.length < 16 →
          (t.part p).mbox = (s.part p).mbox ++ [(n.val, s.ctlRead (ctlNum c) (x.g (fA w)).toNat 64)]) ∧
        ((s.part p).mbox.length = 16 →
          (t.part p).mbox = (s.part p).mbox ∧
          (t.ctl (ctlNum c)).mboxWait = some (s.ctlRead (ctlNum c) (x.g (fA w)).toNat 64)))

/-! ### Synchronisation -/

/-- The atomics of Table ISA-5 with used fields and the word stored, from the old word, B and C. -/
def Claims.atomicForms : List ((Agent → W64 → Instr) × Nat × Nat × (W64 → W64 → W64 → W64)) := [
  (fun a w => .amoadd a w .none, 0x44, mO + mD + mA + mB, fun o b _ => o + b),
  (fun a w => .amoswap a w .none, 0x45, mO + mD + mA + mB, fun _ b _ => b),
  (fun a w => .amocas a w .none, 0x46, mO + mD + mA + mB + mC, fun o b c => if o = c then b else o),
  (fun a w => .amomax a w .none, 0x47, mO + mD + mA + mB, fun o b _ => if o.toInt < b.toInt then b else o)]

/-- An atomic of a thread on an aligned word that translates without a fault: D takes the old word, memory the new one, and no
other byte changes; a controller's is the same on a physical address in a store (R210 to R212, R290). -/
def Obligations.AtomicsExchange : Prop :=
  ∀ r ∈ Claims.atomicForms, ∀ (w : W64) (s : State), opcOf w = r.2.1 → unusedSet w r.2.2.1 = false →
    (∀ (h : Hart) (a : Nat), s.issues h w [] → s.accessFault h.key ((s.of h).g (fA w)).toNat 8 8 true = none →
      s.mvRange h.key ((s.of h).g (fA w)).toNat 8 = false → s.fencedCore h.key = false →
      s.vbad (s.partOf h.key) ((s.of h).g (fA w)).toNat 8 = false →
      s.ordered h.key h.thr.val ((s.of h).g (fA w)).toNat 8 →
      s.va? (s.partOf h.key) ((s.of h).g (fA w)).toNat = some a →
      let old := BitVec.ofNat 64 (s.rdVal a 8)
      ∃ t, exec (r.1 (.thread h) w) s = .next t ∧
        (∀ n, (t.of h).g n = if n ≠ 0 ∧ n = fD w then old else (s.of h).g n) ∧
        t.rdN a 8 = leBytes 8 (r.2.2.2 old ((s.of h).g (fB w)) ((s.of h).g (fC w))).toNat ∧ s.sameOutside t a 8 ∧
        Thread.wentOn { s.of h with gr := (t.of h).gr } (t.of h) ∧ s.otherThreads t h) ∧
    (∀ (c : Option (Fin 8)) (k o : Nat), s.ctlIssues (ctlNum c) w →
      let x := s.ctl (ctlNum c)
      let a := (x.g (fA w)).toNat
      (regionOf a = .core k o ∨ regionOf a = .cluster k o) → s.ctlFaultAt (ctlNum c) a 8 = none → s.ctlBad a 8 = false →
      let old := BitVec.ofNat 64 (s.rdVal a 8)
      ∃ t, exec (r.1 (ctlAgent c) w) s = .next t ∧
        (∀ n, (t.ctl (ctlNum c)).g n = if n ≠ 0 ∧ n = fD w then old else x.g n) ∧
        t.rdN a 8 = leBytes 8 (r.2.2.2 old (x.g (fB w)) (x.g (fC w))).toNat ∧ s.sameOutside t a 8 ∧
        (t.ctl (ctlNum c)).pc = x.pc + 8#64)

/-- FENCE orders the thread's writes, BAR also waits at the barrier of its scope, IBAR also fetches the next word anew, MWAIT
waits while an entry of its thread is in the queue; no register and no byte changes (R205, R206, R208, R244). -/
def Claims.SyncOrders : Prop :=
  ∀ (h : Hart) (w : W64) (s : State), s.issues h w [] →
    (opcOf w = 0x40 → unusedSet w mO = false →
      ∃ t, exec (.fence (.thread h) w) s = .next t ∧ Thread.wentOn (s.of h) (t.of h) ∧
        (∀ d ∈ t.dirty, d.2.2.1 ≠ gid h.key h.thr.val ∨ d.2.2.2 ≠ 0) ∧ t = { s with cores := t.cores, dirty := t.dirty }) ∧
    (opcOf w = 0x41 → unusedSet w (mO + mX0) = false →
      ∃ t, exec (.bar (.thread h) w) s = .next t ∧ Thread.waitsAs (s.of h) (t.of h) .waitSync (.barrier (xBit w 0)) ∧
        (∀ d ∈ t.dirty, d.2.2.1 ≠ gid h.key h.thr.val ∨ d.2.2.2 ≠ 0) ∧ t = { s with cores := t.cores, dirty := t.dirty }) ∧
    (opcOf w = 0x42 → unusedSet w mO = false →
      ∃ t, exec (.mwait (.thread h) w) s = .next t ∧ s.onlyThread t h ∧
        (((∃ e ∈ (s.core h.key).queue, e.thr = h.thr.val) ∧ Thread.waitsAs (s.of h) (t.of h) .waitMtx .mwait) ∨
         ((∀ e ∈ (s.core h.key).queue, e.thr ≠ h.thr.val) ∧ Thread.wentOn (s.of h) (t.of h)))) ∧
    (opcOf w = 0x43 → unusedSet w mO = false →
      ∃ t, exec (.ibar (.thread h) w) s = .next t ∧ Thread.jumpedTo (s.of h) (t.of h) ((s.of h).pc + 8#64) ∧
        (∀ d ∈ t.dirty, d.2.2.1 ≠ gid h.key h.thr.val ∨ d.2.2.2 ≠ 0) ∧
        (s.noTrace h.key → t = { s with cores := t.cores, dirty := t.dirty }))

/-- BARRIER_RELEASE: a core's barrier lets every thread that waits at it go on exactly when each of its threads is FREE or
waits at that barrier; otherwise nothing happens (R206 to R209). -/
def Claims.BarrierReleases : Prop :=
  ∀ (c : CoreId) (s : State) (j : Nat), s.live = true → (s.core c.key).job = some j →
    ((∀ e ∈ (s.core c.key).threads, e.2.st = .free ∨ (e.2.st = .waitSync ∧ e.2.wait = .barrier false)) →
      ∃ t, exec (.barrierRelease c false) s = .next t ∧ s.onlyCore t c.key ∧
        (∀ n x, (n, x) ∈ (s.core c.key).threads → x.wait = .barrier false → x.st = .waitSync →
          ∃ y, (n, y) ∈ (t.core c.key).threads ∧ Thread.sameBut x y ∧
            (y.st = .ready ∨ (y.st = .waitMem ∧ y.wait = .fetch)) ∧ y.pc = x.pc)) ∧
    ((∃ e ∈ (s.core c.key).threads, e.2.st ≠ .free ∧ ¬(e.2.st = .waitSync ∧ e.2.wait = .barrier false)) →
      exec (.barrierRelease c false) s = .next s)

/-! ### Vector instructions -/

/-- A lane-wise vector instruction: constructor, opcode, used fields, vector registers named, further encoding condition, and
the result of lane i and the sticky bits it sets, from the word and the thread. -/
structure Claims.LaneForm where
  ins : Agent → W64 → Instr
  op : Nat
  mask : Nat
  regs : W64 → List Nat
  ok : W64 → Bool
  lane : W64 → Thread → Nat → W32
  flags : W64 → Thread → Nat → BitVec 8

/-- Lane i of the registers that fields A, B and C name. -/
def Claims.lA (w : W64) (t : Thread) (i : Nat) : W32 := lane (t.v (fA w)) i
/-- Field B. -/
def Claims.lB (w : W64) (t : Thread) (i : Nat) : W32 := lane (t.v (fB w)) i
/-- Field C. -/
def Claims.lC (w : W64) (t : Thread) (i : Nat) : W32 := lane (t.v (fC w)) i

/-- A two-source arithmetic form: FP32 by X[0] = 0, INT32 by X[0] = 1. -/
def Claims.arithForm (ins : Agent → W64 → Instr) (op : Nat) (ff fi : W32 → W32 → W32) : Claims.LaneForm :=
  ⟨ins, op, mO + mD + mA + mB + mX0, fun w => [fD w, fA w, fB w], fun _ => true,
    fun w t i => if xBit w 0 then fi (Claims.lA w t i) (Claims.lB w t i) else ff (Claims.lA w t i) (Claims.lB w t i),
    fun w t i => if xBit w 0 then 0#8 else f32Flags [Claims.lA w t i, Claims.lB w t i] (ff (Claims.lA w t i) (Claims.lB w t i))⟩

/-- A form without sticky bits over the given sources. -/
def Claims.plainForm (ins : Agent → W64 → Instr) (op mask : Nat) (regs : W64 → List Nat) (ok : W64 → Bool)
    (f : W64 → Thread → Nat → W32) : Claims.LaneForm := ⟨ins, op, mask, regs, ok, f, fun _ _ _ => 0#8⟩

/-- The lane-wise instructions of Table ISA-6. -/
def Claims.laneForms : List Claims.LaneForm := [
  Claims.arithForm .vadd 0x50 addW (fun x y => x + y), Claims.arithForm .vsub 0x51 subW (fun x y => x - y),
  Claims.arithForm .vmul 0x52 mulW (fun x y => x * y),
  Claims.arithForm .vmin 0x54 minW (fun x y => if y.toInt < x.toInt then y else x),
  Claims.arithForm .vmax 0x55 maxW (fun x y => if x.toInt < y.toInt then y else x),
  ⟨.vfma, 0x53, mO + mD + mA + mB + mC + mX0, fun w => [fD w, fA w, fB w, fC w], fun _ => true,
    fun w t i => if xBit w 0 then Claims.lA w t i * Claims.lB w t i + Claims.lC w t i
      else fmaW (Claims.lA w t i) (Claims.lB w t i) (Claims.lC w t i),
    fun w t i => if xBit w 0 then 0#8
      else f32Flags [Claims.lA w t i, Claims.lB w t i, Claims.lC w t i]
        (fmaW (Claims.lA w t i) (Claims.lB w t i) (Claims.lC w t i))⟩] ++ [
  Claims.plainForm .vcmp 0x56 (mO + mD + mA + mB + mX0 + mX12) (fun w => [fD w, fA w, fB w]) (fun _ => true)
    (fun w t i => if cmpLane (xBit w 0) (fX w / 2 % 4) (Claims.lA w t i) (Claims.lB w t i) then 0xFFFFFFFF#32 else 0#32),
  Claims.plainForm .vsel 0x57 (mO + mD + mA + mB + mC) (fun w => [fD w, fA w, fB w, fC w]) (fun _ => true)
    (fun w t i => if Claims.lC w t i = 0#32 then Claims.lB w t i else Claims.lA w t i),
  Claims.plainForm .vand 0x58 (mO + mD + mA + mB) (fun w => [fD w, fA w, fB w]) (fun _ => true)
    (fun w t i => Claims.lA w t i &&& Claims.lB w t i),
  Claims.plainForm .vor 0x59 (mO + mD + mA + mB) (fun w => [fD w, fA w, fB w]) (fun _ => true)
    (fun w t i => Claims.lA w t i ||| Claims.lB w t i),
  Claims.plainForm .vxor 0x5A (mO + mD + mA + mB) (fun w => [fD w, fA w, fB w]) (fun _ => true)
    (fun w t i => Claims.lA w t i ^^^ Claims.lB w t i),
  Claims.plainForm .vsh 0x5B (mO + mD + mA + mX12 + mIn 5) (fun w => [fD w, fA w]) (fun w => fX w / 2 % 4 != 3)
    (fun w t i => if fX w / 2 % 4 = 0 then Claims.lA w t i <<< (fImm w % 32)
      else if fX w / 2 % 4 = 1 then Claims.lA w t i >>> (fImm w % 32) else (Claims.lA w t i).sshiftRight (fImm w % 32)),
  Claims.plainForm .vbcast 0x5C (mO + mD + mA) (fun w => [fD w]) (fun _ => true) (fun w t _ => (t.g (fA w)).setWidth 32),
  Claims.plainForm .vput 0x5E (mO + mD + mA + mIn 6) (fun w => [fD w]) (fun _ => true)
    (fun w t i => if i = fImm w % 64 then (t.g (fA w)).setWidth 32 else lane (t.v (fD w)) i),
  Claims.plainForm .vperm 0x67 (mO + mD + mA + mB) (fun w => [fD w, fA w, fB w]) (fun _ => true)
    (fun w t i => Claims.lA w t ((Claims.lB w t i).toNat % 64))] ++ [
  Claims.plainForm .vpack 0x68 (mO + mD + mA + mI) (fun w => [fD w, fA w])
    (fun w => fImm w == 4 || fImm w == 8 || fImm w == 16)
    (fun w t i => BitVec.ofNat 32 ((upTo (32 / fImm w)).foldl (fun acc j =>
      acc + ((if 32 / fImm w * i + j < 64 then (Claims.lA w t (32 / fImm w * i + j)).toNat else 0) % 2 ^ fImm w) *
        2 ^ (fImm w * j)) 0)),
  Claims.plainForm .vunpk 0x69 (mO + mD + mA + mX0 + mI) (fun w => [fD w, fA w])
    (fun w => fImm w == 4 || fImm w == 8 || fImm w == 16)
    (fun w t i => let u := bitsAt (t.v (fA w)).toNat (fImm w * i) (fImm w)
      if xBit w 0 then BitVec.ofInt 32 (if u ≥ 2 ^ (fImm w - 1) then (u : Int) - 2 ^ fImm w else u) else BitVec.ofNat 32 u),
  ⟨.vfn, 0x70, mO + mD + mA + mIn 4, fun w => [fD w, fA w], fun w => decide (fImm w % 16 ≤ 9),
    fun w t i => refFn (fImm w % 16) (Claims.lA w t i),
    fun w t i => f32Flags [Claims.lA w t i] (refFn (fImm w % 16) (Claims.lA w t i))⟩,
  ⟨.vcvt, 0x71, mO + mD + mA + mX0 + mIn 4, fun w => [fD w, fA w], fun w => decide (1 ≤ fImm w % 16 ∧ fImm w % 16 ≤ 4),
    fun w t i => cvtLane (fImm w % 16) (xBit w 0) (Claims.lA w t i),
    fun w t i => cvtFlags (fImm w % 16) (xBit w 0) (Claims.lA w t i)⟩,
  ⟨.qcvt, 0x72, mO + mD + mA + mB + mC + mIn 4, fun w => [fD w, fA w], fun w => decide (7 ≤ fImm w % 16 ∧ fImm w % 16 ≤ 9),
    fun w t i => BitVec.ofInt 32 (qcvtLane (intWidth (fImm w % 16)) ((t.g (fB w)).setWidth 32) (t.g (fC w)).toInt
      (Claims.lA w t i)).1,
    fun w t i => if (qcvtLane (intWidth (fImm w % 16)) ((t.g (fB w)).setWidth 32) (t.g (fC w)).toInt
      (Claims.lA w t i)).2 then 0x01#8 else 0#8⟩,
  ⟨.dqcvt, 0x73, mO + mD + mA + mB + mC, fun w => [fD w, fA w], fun _ => true,
    fun w t i => roundFp32 ((Fp.ofInt ((Claims.lA w t i).toInt - (t.g (fC w)).toInt)).mul (fp ((t.g (fB w)).setWidth 32))),
    fun w t i => f32Flags [(t.g (fB w)).setWidth 32]
      (roundFp32 ((Fp.ofInt ((Claims.lA w t i).toInt - (t.g (fC w)).toInt)).mul (fp ((t.g (fB w)).setWidth 32))))⟩]

/-- Every lane of vD takes its result, the sticky bits of the lanes are set and none is cleared, and nothing else changes but
counters (R180, R181, R214 to R222, R276). -/
def Claims.VectorLanes : Prop :=
  ∀ r ∈ Claims.laneForms, ∀ (h : Hart) (w : W64) (s : State), opcOf w = r.op → unusedSet w r.mask = false →
    (∀ n ∈ r.regs w, n < 16) → r.ok w = true → s.issues h w (r.regs w) →
    ∃ t, exec (r.ins (.thread h) w) s = .next t ∧
      (∀ i, i < 64 → lane ((t.of h).v (fD w)) i = r.lane w (s.of h) i) ∧
      (∀ n, n ≠ fD w → (t.of h).v n = (s.of h).v n) ∧
      (t.of h).sticky = (s.of h).sticky ||| orFlags (r.flags w (s.of h)) ∧
      Thread.wentOn { s.of h with vr := (t.of h).vr, sticky := (t.of h).sticky } (t.of h) ∧ s.onlyThread t h

/-- VGET, the reductions, and MXQ: a lane into a scalar register; lane 0 the reduction and the others zero; elements packed
into vD with the two scales in gC (R182, R183, R215, R218, R221). -/
def Claims.VectorOthers : Prop :=
  ∀ (h : Hart) (w : W64) (s : State),
    (opcOf w = 0x5D → unusedSet w (mO + mD + mA + mX0 + mIn 6) = false → fA w < 16 → s.issues h w [fA w] →
      ∃ t, exec (.vget (.thread h) w) s = .next t ∧ s.onlyThread t h ∧
        (∀ n, (t.of h).g n = if n ≠ 0 ∧ n = fD w then
          (if xBit w 0 then (Claims.lA w (s.of h) (fImm w % 64)).signExtend 64
           else (Claims.lA w (s.of h) (fImm w % 64)).setWidth 64) else (s.of h).g n) ∧
        Thread.wentOn { s.of h with gr := (t.of h).gr } (t.of h)) ∧
    (∀ r ∈ ([(.vrsum, 0x64, fun l => roundFp32 (treeSum 6 (l.map fp)), fun l => l.foldl (fun x y => x + y) 0#32),
        (.vrmax, 0x65, fun l => l.foldl maxW 0xFF800000#32, fun l => l.foldl maxI 0x80000000#32),
        (.vrmin, 0x66, fun l => l.foldl minW 0x7F800000#32, fun l => l.foldl minI 0x7FFFFFFF#32)] :
          List ((Agent → W64 → Instr) × Nat × (List W32 → W32) × (List W32 → W32))),
      opcOf w = r.2.1 → unusedSet w (mO + mD + mA + mX0) = false → fD w < 16 → fA w < 16 → s.issues h w [fD w, fA w] →
      let l := (upTo 64).map (Claims.lA w (s.of h))
      ∃ t, exec (r.1 (.thread h) w) s = .next t ∧ s.onlyThread t h ∧
        lane ((t.of h).v (fD w)) 0 = (if xBit w 0 then r.2.2.2 l else r.2.2.1 l) ∧
        (∀ i, 0 < i → i < 64 → lane ((t.of h).v (fD w)) i = 0#32) ∧ (∀ n, n ≠ fD w → (t.of h).v n = (s.of h).v n) ∧
        (t.of h).sticky = (s.of h).sticky ||| (if xBit w 0 then 0#8 else f32Flags l (r.2.2.1 l)) ∧
        Thread.wentOn { s.of h with vr := (t.of h).vr, sticky := (t.of h).sticky } (t.of h)) ∧
    (opcOf w = 0x74 → unusedSet w (mO + mD + mA + mC + mIn 4) = false → (fImm w % 16 = 5 ∨ fImm w % 16 = 6) → fD w < 16 →
      fA w < 16 → s.issues h w [fD w, fA w] →
      let f := fImm w % 16
      let l := ((upTo 64).map (Claims.lA w (s.of h))).map fp
      let s0 := mxScale (l.take 32)
      let s1 := mxScale (l.drop 32)
      ∃ t, exec (.mxq (.thread h) w) s = .next t ∧ s.onlyThread t h ∧
        (t.of h).v (fD w) = BitVec.ofNat 2048 (packElems (if f = 5 then 6 else 4)
          (((l.take 32).map (mxElem f s0) ++ (l.drop 32).map (mxElem f s1)).map (fun e => e.1))) ∧
        (t.of h).sticky = (s.of h).sticky |||
          (if ((l.take 32).map (mxElem f s0) ++ (l.drop 32).map (mxElem f s1)).any (fun e => e.2) then 0x01#8 else 0#8) ∧
        (∀ n, n ≠ fD w → (t.of h).v n = (s.of h).v n) ∧
        (∀ n, (t.of h).g n = if n ≠ 0 ∧ n = fC w then BitVec.ofNat 64 (s0 + 256 * s1) else (s.of h).g n) ∧
        Thread.wentOn { s.of h with vr := (t.of h).vr, gr := (t.of h).gr, sticky := (t.of h).sticky } (t.of h))

/-! ### The array queue -/

/-- An instruction of the matrix word that enters the array queue: constructor, opcode, vector registers it names, encoding
condition, slots, operands with the number they must be a multiple of, operand ranges, the registers whose values the entry
holds, and the row sums that it reads at issue. -/
structure Claims.QueueForm where
  ins : Agent → W64 → Instr
  op : Nat
  regs : W64 → List Nat
  legal : W64 → Thread → Bool
  slots : W64 → List Nat
  aligned : W64 → Thread → List (Nat × Nat)
  ranges : W64 → Thread → List Range
  va : W64 → Thread → W64
  vb : W64 → Thread → W64
  vc : W64 → Thread → W64
  rs : W64 → Thread → VReg

/-- The form whose entry holds the registers of the fields A, B and C of the matrix word. -/
def Claims.mxForm (ins : Agent → W64 → Instr) (op : Nat) (regs : W64 → List Nat) (legal : W64 → Thread → Bool)
    (slots : W64 → List Nat) (aligned : W64 → Thread → List (Nat × Nat)) (ranges : W64 → Thread → List Range) : Claims.QueueForm :=
  ⟨ins, op, regs, legal, slots, aligned, ranges, fun w x => x.g (qA w), fun w x => x.g (qB w), fun w x => x.g (qC w),
    fun _ _ => 0#2048⟩

/-- The address in register A of the matrix word. -/
def Claims.addrA (w : W64) (x : Thread) : Nat := (x.g (qA w)).toNat
/-- The stride in register B of the matrix word. -/
def Claims.strideB (w : W64) (x : Thread) : Nat := (x.g (qB w)).toNat

/-- The instructions of the matrix class (R237 to R269). -/
def Claims.queueForms : List Claims.QueueForm := [
  Claims.mxForm .mloadw 0x90 (fun _ => [])
    (fun w x => !unusedSet w (mO + mqBuf + mqFmt + mqE + mqA + mqB) && kFmt (qFmt w) &&
      !(qE w && (qFmt w != 1 || x.g (qB w) != 0#64)))
    (fun _ => []) (fun w x => [(Claims.addrA w x, 8), (Claims.strideB w x, 8)])
    (fun w x => if qE w then [{ va := Claims.addrA w x, len := 8208, reach := .device, write := false }]
      else rowRanges (Claims.addrA w x) (if x.g (qB w) = 0#64 then rowBytes (qFmt w) else Claims.strideB w x) 64 (rowBytes (qFmt w))
        .device false),
  Claims.mxForm .mmul 0x91 (fun w => if qRs w then [qRv w] else [])
    (fun w _ => !unusedSet w (mO + mqSlot + mqOvw + mqRs + mqRv + mqA + mqB + mqM + mqFmt + mqBuf + mqKv) && kFmt (qFmt w) &&
      decide (qKv w < kB (qFmt w)) && !(qRs w && qFmt w != 7 && qFmt w != 8))
    (fun w => [qSlot w]) (fun w x => [(Claims.addrA w x, 8), (Claims.strideB w x, 8)])
    (fun w x => rowRanges (Claims.addrA w x) (Claims.strideB w x) (qM w) (rowBytes (qFmt w)) .ownCore false),
  Claims.mxForm .accZero 0xA2 (fun _ => [])
    (fun w _ => !unusedSet w mZero && zKind w != 3 && !(zMode w && zKind w != 0) && !(zF w != 0 && zKind w != 2))
    (fun w => [qSlot w]) (fun _ _ => []) (fun _ _ => []),
  Claims.mxForm .ladderSave 0xA3 (fun _ => []) (fun w _ => !unusedSet w (mO + mqSlot + mqA)) (fun w => [qSlot w])
    (fun w x => [(Claims.addrA w x, 64)])
    (fun w x => [{ va := Claims.addrA w x, len := imageMax, reach := .device, write := true }]),
  Claims.mxForm .ladderMerge 0xA4 (fun _ => []) (fun w _ => !unusedSet w (mO + mqSlot + mqOvw + mqA)) (fun w => [qSlot w])
    (fun w x => [(Claims.addrA w x, 64)])
    (fun w x => [{ va := Claims.addrA w x, len := imageMax, reach := .device, write := false }]),
  Claims.mxForm .ladderLoad 0xA7 (fun _ => []) (fun w _ => !unusedSet w (mO + mqSlot + mqA)) (fun w => [qSlot w])
    (fun w x => [(Claims.addrA w x, 64)])
    (fun w x => [{ va := Claims.addrA w x, len := imageMax, reach := .device, write := false }])] ++ [
  Claims.mxForm .drain 0xA5 (fun _ => [])
    (fun w _ => !unusedSet w (mO + mqSlot + mqA + mqB + mqM + mqFmt + mqFus) && decide (qFmt w ≤ 2)) (fun w => [qSlot w])
    (fun w x => [(Claims.addrA w x, 32), (Claims.strideB w x, 32)])
    (fun w x => rowRanges (Claims.addrA w x) (Claims.strideB w x) (qM w) (if qFmt w = 2 then 512 else 256) .ownCore true),
  { Claims.mxForm .drainQ 0xA6 (fun w => if qRs w then [qRv w] else [])
      (fun w _ => !unusedSet w (mO + mqSlot + mqRs + mqRv + mqA + mqB + mqC + mqM + mqFus)) (fun w => [qSlot w])
      (fun w x => [(Claims.addrA w x, 32), (Claims.strideB w x, 32), ((x.g (qC w)).toNat, 64)])
      (fun w x => rowRanges (Claims.addrA w x) (Claims.strideB w x) (qM w) 256 .ownCore true ++
        [{ va := (x.g (qC w)).toNat, len := 896, reach := .ownCore, write := false }]) with
    rs := fun w x => if qRs w then x.v (qRv w) else 0#2048 },
  ⟨.fuseSet, 0xB1, fun _ => [], fun w _ => !unusedSet w (mO + mA + mIn 4) && fImm w % 16 != 0, fun _ => [], fun _ _ => [],
    fun w x => [{ va := (x.g (fA w)).toNat, len := 64, reach := .ownCore, write := false }], fun w x => x.g (fA w),
    fun _ _ => 0#64, fun _ _ => 0#64, fun _ _ => 0#2048⟩,
  ⟨.gateLoad, 0xB7, fun _ => [], fun w _ => !unusedSet w (mO + mA + mB + mIn 6), fun _ => [], fun _ _ => [],
    fun w x => rowRanges (x.g (fA w)).toNat (x.g (fB w)).toNat (fImm w % 64 + 1) 256 .ownCore false, fun w x => x.g (fA w),
    fun w x => x.g (fB w), fun _ _ => 0#64, fun _ _ => 0#2048⟩]

/-- The entry that a thread puts into the queue, with the word and the operand values read at issue. -/
def Claims.entryOf (s : State) (h : Hart) (w : W64) (e : QEntry) : QEntry :=
  { e with serial := (s.core h.key).serial, thr := h.thr.val, pc := (s.of h).pc.setWidth 48, w := w, begun := false }

/-- Nothing but the queue, the thread, and the counters of one core differs. -/
def Claims.queued (s t : State) (h : Hart) (e : QEntry) (pend : List Nat) : Prop :=
  (t.core h.key).queue = (s.core h.key).queue ++ [e] ∧ s.onlyCore t h.key ∧ s.otherThreads t h ∧
    t.core h.key = { s.core h.key with
      threads := (t.core h.key).threads, cnt := (t.core h.key).cnt, winE := (t.core h.key).winE, last := h.thr.val,
      queue := (t.core h.key).queue, serial := (s.core h.key).serial + 1 } ∧
    (t.of h).pendV = (s.of h).pendV ++ pend ∧ Thread.wentOn { s.of h with pendV := (t.of h).pendV } (t.of h)

/-- An instruction of the matrix class whose operands raise no fault enters the array queue, behind every earlier entry, with
its operand values; it changes no slot and no byte yet, and the thread goes on. With 16 entries in the queue the thread waits
in WAIT_MTX at the instruction (R186, R237, R241 to R243). -/
def Claims.MatrixEntersQueue : Prop :=
  ∀ r ∈ Claims.queueForms, ∀ (h : Hart) (w : W64) (s : State), opcOf w = r.op → r.legal w (s.of h) = true →
    s.issues h w (r.regs w) →
    ((s.core h.key).queue.length < 16 →
      s.operandFault h.key h.thr.val (r.slots w) (r.aligned w (s.of h)) (r.ranges w (s.of h)) = none →
      ∃ t, exec (r.ins (.thread h) w) s = .next t ∧
        Claims.queued s t h
          (Claims.entryOf s h w { QEntry.init with
            va := r.va w (s.of h), vb := r.vb w (s.of h), vc := r.vc w (s.of h), rs := r.rs w (s.of h) })
          (if r.op = 0x91 ∧ qRs w then [qRv w] else [])) ∧
    (16 ≤ (s.core h.key).queue.length →
      ∃ t, exec (r.ins (.thread h) w) s = .next t ∧ t.of h = { s.of h with st := .waitMtx, wait := .mtx } ∧
        s.otherThreads t h ∧ s.onlyCore t h.key ∧
        t.core h.key = { s.core h.key with threads := (t.core h.key).threads })

/-- A record in the own core store that an instruction reads at issue without a fault (R926). -/
def Claims.readable (s : State) (h : Hart) (va len align : Nat) : Prop :=
  inSRange va len = false ∧ va % align = 0 ∧
    s.rangeFault h.key [{ va := va, len := len, reach := .ownCore, write := false }] = none ∧
    s.mvRange h.key va len = false ∧ s.vbad (s.partOf h.key) va len = false

/-- ATTN.STEP in its three operations, REC.RUN and NMS read their descriptor at issue; with a descriptor and operands that
raise no fault they enter the queue (R318 to R321, R371 to R376, R416, R420). -/
def Claims.DescriptorsEnterQueue : Prop :=
  ∀ (h : Hart) (w : W64) (s : State), (s.core h.key).queue.length < 16 →
    let va := ((s.of h).g (fA w)).toNat
    (∀ r ∈ ([(.attnInit, 0), (.attnStep, 1), (.attnFinish, 2)] : List ((Agent → W64 → Instr) × Nat)),
      opcOf w = 0xB0 → unusedSet w (mO + mD + mA + 0x3 * 2 ^ 28) = false → fX w % 4 = r.2 → fD w % 2 = 0 → fD w ≤ 14 →
      s.issues h w [fD w, fD w + 1] → Claims.readable s h va 128 128 →
      let d := s.vrdN (s.partOf h.key) va 128
      attnBad d = false →
      s.operandFault h.key h.thr.val (attnSlots d) ((attnAligned r.2 d).map (fun a => (a, 64))) (ownRanges (attnRanges r.2 d)) =
        none →
      ∃ t, exec (r.1 (.thread h) w) s = .next t ∧
        Claims.queued s t h (Claims.entryOf s h w { QEntry.init with desc := d }) [fD w, fD w + 1]) ∧
    (opcOf w = 0xB2 → unusedSet w (mO + mA) = false → s.issues h w [] → Claims.readable s h va 64 1 →
      let d := s.vrdN (s.partOf h.key) va 64
      ∀ c, s.chunkOf h.key h.thr.val = some c →
      let r := s.reelRec (s.partOf h.key) (hIdx c.handle.toNat)
      rlKind r < 2 → runBad d (rlKind r == 1) c.len.toNat = false →
      s.operandFault h.key h.thr.val [] [] (ownRanges (runRanges d (rlWidth r))) = none →
      ∃ t, exec (.recRun (.thread h) w) s = .next t ∧
        Claims.queued s t h (Claims.entryOf s h w { QEntry.init with desc := d, reel := some (hIdx c.handle.toNat) }) []) ∧
    (opcOf w = 0xB2 → unusedSet w (mO + mA) = false → s.issues h w [] → s.chunkOf h.key h.thr.val = none →
      ∃ t, exec (.recRun (.thread h) w) s = .next t ∧ s.haltsWith t h 0x22 0 0 0) ∧
    (opcOf w = 0xBA → unusedSet w (mO + mA) = false → s.issues h w [] → Claims.readable s h va 64 1 →
      let d := s.vrdN (s.partOf h.key) va 64
      nmsBad d = false → s.operandFault h.key h.thr.val [] [] (ownRanges (nmsRanges d)) = none →
      ∃ t, exec (.nms (.thread h) w) s = .next t ∧
        Claims.queued s t h (Claims.entryOf s h w { QEntry.init with desc := d }) [])

/-! ### Accumulator slots -/

/-- ACC.CLAIM of a slot that no Reel holds: an unowned slot becomes the thread's, an own slot stays so, and for another
thread's slot it waits behind the earlier claims. ACC.FREE gives the slot to the oldest claim, which goes on, or leaves it
unowned; a slot that is not the thread's raises ACC_OWNER (R58 to R60, R259 to R261). -/
def Obligations.SlotsClaimed : Prop :=
  ∀ (h : Hart) (w : W64) (s : State), unusedSet w (mO + mqSlot) = false → s.issues h w [] →
    let k := h.key
    let sl := s.slot k (qSlot w)
    (opcOf w = 0xA0 → sl.reel = none →
      ∃ t, exec (.accClaim (.thread h) w) s = .next t ∧ s.onlyCore t k ∧ s.otherThreads t h ∧
        (∀ n, n ≠ qSlot w → t.slot k n = s.slot k n) ∧
        (sl.owner = none → t.slot k (qSlot w) = { sl with owner := some h.thr.val } ∧ Thread.wentOn (s.of h) (t.of h)) ∧
        (sl.owner = some h.thr.val → t.slot k (qSlot w) = sl ∧ Thread.wentOn (s.of h) (t.of h)) ∧
        (∀ o, sl.owner = some o → o ≠ h.thr.val → t.slot k (qSlot w) = sl ∧
          (t.core k).claims = (s.core k).claims ++ [(qSlot w, h.thr.val)] ∧
          Thread.waitsAs (s.of h) (t.of h) .waitSync (.slot (qSlot w)))) ∧
    (opcOf w = 0xA1 → sl.owner = some h.thr.val →
      ∃ t, exec (.accFree (.thread h) w) s = .next t ∧ t = { s with cores := t.cores, dirty := t.dirty } ∧
        (∀ n, n ≠ qSlot w → t.slot k n = s.slot k n) ∧
        ((∀ c ∈ (s.core k).claims, c.1 ≠ qSlot w) → t.slot k (qSlot w) = { sl with owner := none } ∧
          s.otherThreads t h ∧ Thread.wentOn (s.of h) (t.of h)) ∧
        (∀ c, (s.core k).claims.find? (fun c => c.1 == qSlot w) = some c → sl.reel = none → c.2 ≠ h.thr.val →
          t.slot k (qSlot w) = { sl with owner := some c.2 } ∧
          (t.core k).claims = (s.core k).claims.filter (fun x => x != c) ∧
          ((s.thr k c.2).wait = .slot (qSlot w) → (s.thr k c.2).st = .waitSync → (t.thr k c.2).st ≠ .waitSync) ∧
          Thread.wentOn (s.of h) (t.of h))) ∧
    (opcOf w = 0xA1 → sl.owner ≠ some h.thr.val →
      ∃ t, exec (.accFree (.thread h) w) s = .next t ∧ s.haltsWith t h 0x09 0 0 0)

/-! ### DMA instructions -/

/-- The operation that a thread puts behind the earlier ones of its core, with the lowest free tag; D takes the tag. -/
def Claims.enqueued (s t : State) (h : Hart) (w : W64) (o : DmaOp) (tag : Nat) : Prop :=
  (t.core h.key).dmaq = (s.core h.key).dmaq ++ [{ o with serial := (s.core h.key).serial, thr := h.thr.val, tag := tag }] ∧
    t = { s with cores := t.cores, dirty := t.dirty } ∧ (∀ j, j ≠ h.key → t.core j = s.core j) ∧ s.otherThreads t h ∧
    (∀ d ∈ s.dirty, d ∈ t.dirty) ∧
    (∀ d ∈ t.dirty, d ∈ s.dirty ∨ d.2.2 = (gid h.key h.thr.val, (s.core h.key).serial + 1)) ∧
    t.core h.key = { s.core h.key with
      threads := (t.core h.key).threads, cnt := (t.core h.key).cnt, winE := (t.core h.key).winE, last := h.thr.val,
      dmaq := (t.core h.key).dmaq, serial := (s.core h.key).serial + 1 } ∧
    (∀ n, (t.of h).g n = if n ≠ 0 ∧ n = fD w then BitVec.ofNat 64 tag else (s.of h).g n) ∧
    (t.of h).tags = (s.of h).tags.put tag { serial := (s.core h.key).serial, done := none } ∧
    Thread.wentOn { s.of h with gr := (t.of h).gr, tags := (t.of h).tags } (t.of h)

/-- Tag n is the thread's lowest free one. -/
def Claims.lowestTag (x : Thread) (n : Nat) : Prop := n < 16 ∧ x.tags.has n = false ∧ ∀ m, m < n → x.tags.has m = true

/-- DMA.COPY, DMA.DESC, MOVE and SPLICE take the lowest free tag and queue their operation with what they read at issue; with
all 16 tags held they raise DMA_TAGS. DMA.WAIT answers REFUSED for a tag that is not held, takes the status of a completed
operation and frees its tag, and waits otherwise (R224 to R235, R511). -/
def Claims.DmaInstructions : Prop :=
  ∀ (h : Hart) (w : W64) (s : State), s.issues h w [] →
    let x := s.of h
    let va := (x.g (fA w)).toNat
    let rd (n : Nat) := s.vrdN (s.partOf h.key) va n
    (opcOf w = 0x80 → unusedSet w (mO + mD + mA + mB + mC) = false → ∀ n, Claims.lowestTag x n →
      ∃ t, exec (.dmaCopy (.thread h) w) s = .next t ∧
        Claims.enqueued s t h w { DmaOp.init with kind := .copy, dst := x.g (fA w), src := x.g (fB w), len := x.g (fC w) } n) ∧
    (opcOf w = 0x80 → unusedSet w (mO + mD + mA + mB + mC) = false → (∀ n, n < 16 → x.tags.has n = true) →
      ∃ t, exec (.dmaCopy (.thread h) w) s = .next t ∧ s.haltsWith t h 0x0E 0 0 0) ∧
    (opcOf w = 0x81 → unusedSet w (mO + mD + mA) = false → Claims.readable s h va 64 64 → ∀ n, Claims.lowestTag x n →
      ∃ t, exec (.dmaDesc (.thread h) w) s = .next t ∧
        Claims.enqueued s t h w { DmaOp.init with kind := .desc, desc := rd 64 } n) ∧
    (opcOf w = 0x82 → unusedSet w (mO + mD + mA + mB + mI) = false → homeImm (fImm w) = true → va % 65536 = 0 →
      (x.g (fB w)).toNat % 65536 = 0 → ∀ n, Claims.lowestTag x n →
      ∃ t, exec (.move (.thread h) w) s = .next t ∧
        Claims.enqueued s t h w
          { DmaOp.init with kind := .move, dst := x.g (fA w), len := x.g (fB w), dest := BitVec.ofNat 8 (fImm w) } n) ∧
    (opcOf w = 0x83 → unusedSet w (mO + mD + mA) = false → Claims.readable s h va 64 64 →
      Claims.readable s h va (64 + 32 * recN (rd 64) 0 2) 64 → ∀ n, Claims.lowestTag x n →
      ∃ t, exec (.splice (.thread h) w) s = .next t ∧
        Claims.enqueued s t h w { DmaOp.init with kind := .splice, desc := rd (64 + 32 * recN (rd 64) 0 2) } n) ∧
    (opcOf w = 0x8F → unusedSet w (mO + mD + mA) = false →
      ((16 ≤ va ∨ x.tags.find va = none) →
        ∃ t, exec (.dmaWait (.thread h) w) s = .next t ∧ s.onlyThread t h ∧
          (∀ n, (t.of h).g n = if n ≠ 0 ∧ n = fD w then 4#64 else x.g n) ∧
          Thread.wentOn { x with gr := (t.of h).gr } (t.of h)) ∧
      (∀ y st, va < 16 → x.tags.find va = some y → y.done = some st →
        ∃ t, exec (.dmaWait (.thread h) w) s = .next t ∧ t = { s with cores := t.cores, dirty := t.dirty } ∧
          (∀ n, (t.of h).g n = if n ≠ 0 ∧ n = fD w then st.setWidth 64 else x.g n) ∧ (t.of h).tags = x.tags.erase va ∧
          Thread.wentOn { x with gr := (t.of h).gr, tags := (t.of h).tags } (t.of h)) ∧
      (∀ y, va < 16 → x.tags.find va = some y → y.done = none →
        ∃ t, exec (.dmaWait (.thread h) w) s = .next t ∧ t = { s with cores := t.cores, dirty := t.dirty } ∧
          Thread.waitsAs x (t.of h) .waitMem (.dmaReg va (fD w))))

/-! ### Reel instructions -/

/-- The handle in register A names a live Reel of the thread's partition. -/
def Claims.liveHandle (s : State) (h : Hart) (w : W64) : Prop :=
  ((s.of h).g (fA w)).toNat < 2 ^ 32 ∧ s.reelLive (s.partOf h.key) ((s.of h).g (fA w)).toNat = true

/-- REEL.QUERY answers RSTATE, the queued chunks and SEQ of a live handle, and changes nothing; REEL.SWAPOUT refuses (4) a GONE
or pinned Reel, marks a running one and releases the slots of an IDLE one; REEL.DESTROY refuses a GONE handle and marks a
running Reel; REEL.SUBMIT puts its chunk at the end of the queue of the Reel's core and takes a tag (R328 to R333, R340). -/
def Claims.ReelInstructions : Prop :=
  ∀ (h : Hart) (w : W64) (s : State), unusedSet w (mO + mD + mA) = false → s.issues h w [] →
    let p := s.partOf h.key
    let hd := ((s.of h).g (fA w)).toNat
    let r := s.reelRec p (hIdx hd)
    let answers (t : State) (v : W64) : Prop :=
      (∀ n, (t.of h).g n = if n ≠ 0 ∧ n = fD w then v else (s.of h).g n) ∧
        Thread.wentOn { s.of h with gr := (t.of h).gr } (t.of h) ∧ s.otherThreads t h
    (opcOf w = 0xB6 → Claims.liveHandle s h w → ∀ k, s.logKey p (rlCluster r) (rlCore r) = some k →
      ∃ t, exec (.reelQuery (.thread h) w) s = .next t ∧ s.onlyThread t h ∧
        answers t (BitVec.ofNat 64 (rlRstate r +
          2 ^ 8 * (((s.core k).chunkq.filter (fun c => c.handle.toNat == hd && !c.running)).length % 256) +
          2 ^ 32 * (rlSeq r % 2 ^ 32)))) ∧
    (opcOf w = 0xB4 → ¬ Claims.liveHandle s h w →
      ∃ t, exec (.reelSwapout (.thread h) w) s = .next t ∧ s.onlyThread t h ∧ answers t 4#64) ∧
    (opcOf w = 0xB4 → Claims.liveHandle s h w → rlPin r = true →
      ∃ t, exec (.reelSwapout (.thread h) w) s = .next t ∧ s.onlyThread t h ∧ answers t 4#64) ∧
    (opcOf w = 0xB4 → Claims.liveHandle s h w → rlPin r = false →
      (∀ k, s.logKey p (rlCluster r) (rlCore r) = some k → s.pinnedCore k = false) → (rlRstate r = 2 ∨ rlRstate r = 4) →
      ∃ t, exec (.reelSwapout (.thread h) w) s = .next t ∧ answers t 0#64 ∧
        t.reel p (hIdx hd) = { s.reel p (hIdx hd) with swapPend := true } ∧ t.mem = s.mem) ∧
    (opcOf w = 0xB4 → Claims.liveHandle s h w → rlPin r = false →
      (∀ k, s.logKey p (rlCluster r) (rlCore r) = some k → s.pinnedCore k = false) → rlRstate r = 1 →
      ∃ t, exec (.reelSwapout (.thread h) w) s = .next t ∧ answers t 0#64 ∧ (t.reel p (hIdx hd)).slots = [] ∧
        (∀ n ∈ (s.reel p (hIdx hd)).slots, (t.slot (s.reel p (hIdx hd)).core n).reel = none) ∧
        t.rd (s.reelAddr p (hIdx hd) + 34) = 3#8 ∧ s.sameOutside t (s.reelAddr p (hIdx hd) + 34) 1) ∧
    (opcOf w = 0xB5 → ¬ Claims.liveHandle s h w →
      ∃ t, exec (.reelDestroy (.thread h) w) s = .next t ∧ s.onlyThread t h ∧ answers t 4#64) ∧
    (opcOf w = 0xB5 → Claims.liveHandle s h w → (rlRstate r = 2 ∨ rlRstate r = 4) →
      ∃ t, exec (.reelDestroy (.thread h) w) s = .next t ∧ answers t 0#64 ∧
        t.reel p (hIdx hd) = { s.reel p (hIdx hd) with destroyPend := true } ∧ t.mem = s.mem) ∧
    (opcOf w = 0xB3 → Claims.readable s h hd 64 64 → ∀ n k, Claims.lowestTag (s.of h) n →
      let c := chunkFrom (s.vrdN p hd 64)
      s.reelLive p c.handle.toNat = true → c.len ≠ 0#16 → (c.mark = 0xFFFF#16 ∨ c.mark.toNat < c.len.toNat) →
      s.reelCore p (hIdx c.handle.toNat) = some k → (s.core k).chunkq.length < 64 →
      ∃ t, exec (.reelSubmit (.thread h) w) s = .next t ∧ s.otherThreads t h ∧
        (∀ m, (t.of h).g m = if m ≠ 0 ∧ m = fD w then BitVec.ofNat 64 n else (s.of h).g m) ∧
        Thread.wentOn { s.of h with gr := (t.of h).gr, tags := (t.of h).tags } (t.of h) ∧
        (t.core k).chunkq = (s.core k).chunkq ++ [{ c with
          serial := (s.part p).chunkSerial, owner := some (64 * h.key + h.thr.val, 16 * (s.core h.key).serial + n) }] ∧
        (t.of h).tags = (s.of h).tags.put n { serial := (s.core h.key).serial, done := none })

/-! ### Detection instructions -/

/-- Every row that a detection instruction reads translates, is free of errors and no case of R107. -/
def Claims.rowsReadable (s : State) (h : Hart) (rs : List (Nat × Nat)) : Prop :=
  (∀ r ∈ rs, inSRange r.1 r.2 = false ∧ s.mvRange h.key r.1 r.2 = false ∧ s.vbad (s.partOf h.key) r.1 r.2 = false ∧
    s.ordered h.key h.thr.val r.1 r.2) ∧
  s.rangeFault h.key (rs.map (fun r => { va := r.1, len := r.2, reach := .ownCore, write := false })) = none

/-- POOL pools its rows lane by lane; BOXDEC decodes 64 boxes; BOXCLIP limits the coordinates to 0 and the widths in gA and
gB; each writes only its destination registers and sticky bits (R412 to R415). -/
def Obligations.DetectionLanes : Prop :=
  ∀ (h : Hart) (w : W64) (s : State),
    let x := s.of h
    let a := (x.g (fA w)).toNat
    let b := (x.g (fB w)).toNat
    let c := (x.g (fC w)).toNat
    let p := s.partOf h.key
    (opcOf w = 0xB8 → unusedSet w (mO + mD + mA + mB + mC + mX0 + mX12 + mIn 8) = false → fD w < 16 →
      fX w / 2 % 4 ≠ 3 → a % 8 = 0 → b % 8 = 0 → s.issues h w [fD w] →
      let rs := (upTo (fImm w % 256 + 1)).map (fun j => ((a + j * b) % 2 ^ 64, if xBit w 0 then 128 else 256))
      Claims.rowsReadable s h rs →
      let col (i : Nat) : List W32 := rs.map (fun r => poolLane (xBit w 0) (s.vrdN p r.1 r.2) i)
      ∃ t, exec (.pool (.thread h) w) s = .next t ∧ s.onlyThread t h ∧
        (∀ i, i < 64 → lane ((t.of h).v (fD w)) i = poolOp (fX w / 2 % 4) ((x.g (fC w)).setWidth 32) (col i)) ∧
        (∀ n, n ≠ fD w → (t.of h).v n = x.v n) ∧
        Thread.wentOn { x with vr := (t.of h).vr, sticky := (t.of h).sticky } (t.of h)) ∧
    (opcOf w = 0xB9 → unusedSet w (mO + mD + mA + mB + mC + mX0) = false → fD w % 4 = 0 → fA w % 4 = 0 → fD w < 16 →
      fA w < 16 → b % 8 = 0 → c % 8 = 0 → s.issues h w (four (fD w) ++ four (fA w)) →
      Claims.rowsReadable s h [(b, 1024), (c, 20)] →
      let an := s.vrdN p b 1024
      let sc := s.vrdN p c 20
      ∃ t, exec (.boxdec (.thread h) w) s = .next t ∧ s.onlyThread t h ∧
        (∀ q i, q < 4 → i < 64 → lane ((t.of h).v (fD w + q)) i =
          (boxOf (xBit w 0) (fun j => lane (x.v (fA w + j)) i) (fun j => BitVec.ofNat 32 (recN an (16 * i + 4 * j) 4))
            (fun j => BitVec.ofNat 32 (recN sc (4 * j) 4))).getD q 0#32) ∧
        (∀ n, (n < fD w ∨ fD w + 4 ≤ n) → (t.of h).v n = x.v n) ∧
        Thread.wentOn { x with vr := (t.of h).vr, sticky := (t.of h).sticky } (t.of h)) ∧
    (opcOf w = 0xBB → unusedSet w (mO + mD + mA + mB) = false → fD w % 4 = 0 → fD w < 16 → s.issues h w (four (fD w)) →
      ∃ t, exec (.boxclip (.thread h) w) s = .next t ∧ s.onlyThread t h ∧
        (∀ q i, q < 4 → i < 64 → lane ((t.of h).v (fD w + q)) i =
          minW (maxW (lane (x.v (fD w + q)) i) 0#32) ((x.g (if q % 2 = 0 then fA w else fB w)).setWidth 32)) ∧
        (∀ n, (n < fD w ∨ fD w + 4 ≤ n) → (t.of h).v n = x.v n) ∧
        Thread.wentOn { x with vr := (t.of h).vr, sticky := (t.of h).sticky } (t.of h))

/-! ### System and time instructions -/

/-- NOP changes nothing; END orders the writes and waits; TRAP halts with code 0x10 and its immediate; CLAP answers the
lateness of a count that Slate has reached and waits for one that it has not; RDSLATE, RDTSW and RDCNT read; CLRTSW clears the
sticky bits named (R271, R274 to R276, R286, R821). -/
def Claims.SystemInstructions : Prop :=
  ∀ (h : Hart) (w : W64) (s : State), s.issues h w [] →
    let x := s.of h
    let reads (t : State) (v : W64) : Prop :=
      s.onlyThread t h ∧ (∀ n, (t.of h).g n = if n ≠ 0 ∧ n = fD w then v else x.g n) ∧
        Thread.wentOn { x with gr := (t.of h).gr } (t.of h)
    (opcOf w = 0xD0 → unusedSet w mO = false →
      ∃ t, exec (.nop (.thread h) w) s = .next t ∧ s.onlyThread t h ∧ Thread.wentOn x (t.of h)) ∧
    (opcOf w = 0xD1 → unusedSet w mO = false →
      ∃ t, exec (.endThread (.thread h) w) s = .next t ∧ t = { s with cores := t.cores, dirty := t.dirty } ∧
        (t.of h).ending = true ∧ (t.of h).wait = .ending ∧
        ((t.of h).st = .waitMtx ↔ ∃ e ∈ (s.core h.key).queue, e.thr = h.thr.val) ∧ (t.of h).gr = x.gr ∧
        (∀ d ∈ t.dirty, d.2.2.1 ≠ gid h.key h.thr.val ∨ d.2.2.2 ≠ 0)) ∧
    (opcOf w = 0xD2 → unusedSet w (mO + mI) = false →
      ∃ t, exec (.trap (.thread h) w) s = .next t ∧ s.haltsWith t h 0x10 0 0 (fImm w)) ∧
    (opcOf w = 0xD3 → unusedSet w (mO + mD + mA) = false → (x.g (fA w)).toNat ≤ s.ns →
      ∃ t, exec (.clap (.thread h) w) s = .next t ∧ reads t (BitVec.ofNat 64 (s.ns - (x.g (fA w)).toNat))) ∧
    (opcOf w = 0xD3 → unusedSet w (mO + mD + mA) = false → s.ns < (x.g (fA w)).toNat →
      ∃ t, exec (.clap (.thread h) w) s = .next t ∧ s.onlyThread t h ∧
        (∀ n, (t.of h).g n = if n = fD w then 0#64 else x.g n) ∧
        Thread.waitsAs { x with gr := (t.of h).gr } (t.of h) .waitSync (.clap (x.g (fA w)).toNat)) ∧
    (opcOf w = 0xD4 → unusedSet w (mO + mD + mX0) = false →
      ∃ t, exec (.rdslate (.thread h) w) s = .next t ∧
        reads t (BitVec.ofNat 64 (if xBit w 0 then s.time.slate.toNat % 2 ^ 32 else s.time.slate.toNat / 2 ^ 32))) ∧
    (opcOf w = 0xD5 → unusedSet w (mO + mD) = false →
      ∃ t, exec (.rdtsw (.thread h) w) s = .next t ∧ reads t (s.tsw h.key h.thr.val)) ∧
    (opcOf w = 0xD6 → unusedSet w (mO + mIn 8) = false →
      ∃ t, exec (.clrtsw (.thread h) w) s = .next t ∧ s.onlyThread t h ∧
        (∀ i, (t.of h).sticky.getLsbD i = (x.sticky.getLsbD i && !(fImm w).testBit i)) ∧
        Thread.wentOn { x with sticky := (t.of h).sticky } (t.of h)) ∧
    (opcOf w = 0xD7 → unusedSet w (mO + mD + mI) = false → cntListed (fImm w) = true →
      ∃ t, exec (.rdcnt (.thread h) w) s = .next t ∧ reads t (s.counter h.key (fImm w))) ∧
    (opcOf w = 0xD7 → unusedSet w (mO + mD + mI) = false → cntListed (fImm w) = false →
      ∃ t, exec (.rdcnt (.thread h) w) s = .next t ∧ s.haltsWith t h 0x01 0 0 0)

/-- NOP, FENCE, IBAR and RDSLATE of a controller (R205, R274, R289). -/
def Claims.ControllerSystem : Prop :=
  ∀ (c : Option (Fin 8)) (w : W64) (s : State), s.ctlIssues (ctlNum c) w →
    (∀ r ∈ ([(.nop, 0xD0), (.fence, 0x40), (.ibar, 0x43)] : List ((Agent → W64 → Instr) × Nat)), opcOf w = r.2 →
      unusedSet w mO = false →
      ∃ t, exec (r.1 (ctlAgent c) w) s = .next t ∧ s.onlyCtl t (ctlNum c) ∧
        t.ctl (ctlNum c) = { s.ctl (ctlNum c) with pc := (s.ctl (ctlNum c)).pc + 8#64 }) ∧
    (opcOf w = 0xD4 → unusedSet w (mO + mD + mX0) = false →
      ∃ t, exec (.rdslate (ctlAgent c) w) s = .next t ∧ s.onlyCtl t (ctlNum c) ∧
        (t.ctl (ctlNum c)).pc = (s.ctl (ctlNum c)).pc + 8#64 ∧
        (∀ n, (t.ctl (ctlNum c)).g n = if n ≠ 0 ∧ n = fD w then
          BitVec.ofNat 64 (if xBit w 0 then s.time.slate.toNat % 2 ^ 32 else s.time.slate.toNat / 2 ^ 32)
          else (s.ctl (ctlNum c)).g n))

/-! ### Threads that end, wait and halt -/

/-- CLAP_WAKE lets a thread whose count Slate has reached go on and leaves every other thread; THREAD_END frees a thread at END
without entries or operations, with its slots and tags (R272, R273, R286, R287). -/
def Claims.ThreadsEnd : Prop :=
  (∀ (c : CoreId) (s : State), s.live = true →
    ∃ t, exec (.clapWake c) s = .next t ∧ s.onlyCore t c.key ∧
      (∀ n x, (s.core c.key).threads.find n = some x →
        ∃ y, (t.core c.key).threads.find n = some y ∧ Thread.sameBut x y ∧ y.pc = x.pc ∧
          (∀ m, x.wait = .clap m → x.st = .waitSync → m ≤ s.ns → y.st ≠ .waitSync) ∧
          (∀ m, x.wait = .clap m → s.ns < m → y = x) ∧ ((∀ m, x.wait ≠ .clap m) → y = x))) ∧
  (∀ (h : Hart) (s : State), s.live = true → s.mayFinish h.key h.thr.val = true →
    ∃ t, exec (.threadEnd h) s = .next t ∧ (t.of h).st = .free ∧ (t.of h).tags = [] ∧ (t.of h).gr = (s.of h).gr ∧
      (∀ n, n < 8 → (t.slot h.key n).owner ≠ some h.thr.val) ∧ (∀ c ∈ (t.core h.key).claims, c.2 ≠ h.thr.val) ∧
      (∀ d ∈ t.dirty, d.2.2.1 ≠ gid h.key h.thr.val) ∧ t = { s with cores := t.cores, dirty := t.dirty } ∧
      ∀ j, j ≠ h.key → t.core j = s.core j)

/-- A fetched block arrives: the thread that waits for it holds its 16 words and is READY; one that may not be fetched halts a
waiting thread with the fault's code, and so does an uncorrectable error that the fetch finds (R86, R91, R198 to R200, R448). -/
def Claims.FetchArrives : Prop :=
  ∀ (h : Hart) (s : State) (rest : List W64), s.live = true → s.fencedCore h.key = false → (s.of h).st = .waitMem → (s.of h).wait = .fetch →
    (s.of h).freq = blockOf (s.of h).pc :: rest →
    let b := (blockOf (s.of h).pc).toNat
    (s.fetchFault h.key b = none → s.mvRange h.key b 128 = false →
      ∃ t, exec (.fetchBlockArrive h .none) s = .next t ∧ s.onlyCore t h.key ∧ s.otherThreads t h ∧ (t.of h).st = .ready ∧
        (t.of h).fcur = some (blockOf (s.of h).pc) ∧ (t.of h).freq = rest ∧ (t.of h).pc = (s.of h).pc ∧
        (t.of h).gr = (s.of h).gr ∧
        ∀ i, i < 16 → (t.of h).fwords[i]? = some (BitVec.ofNat 64 (s.vrdVal (s.partOf h.key) (b + 8 * i) 8))) ∧
    (∀ off a, off < 128 → s.fetchFault h.key b = none → s.mvRange h.key b 128 = false →
      s.va? (s.partOf h.key) (b + off) = some a → (∃ j o, regionOf a = .cluster j o ∨ regionOf a = .core j o) →
      ∃ t, exec (.fetchBlockArrive h (.failed off)) s = .next t ∧ (t.of h).st = .halted ∧ (t.of h).flt.code = 0x08#8 ∧
        (t.of h).pc = (s.of h).pc ∧ errUnit a ∈ t.badWords) ∧
    (∀ e code, s.fetchFault h.key b = some code →
      ∃ t, exec (.fetchBlockArrive h e) s = .next t ∧ (t.of h).st = .halted ∧ (t.of h).flt.code = BitVec.ofNat 8 code ∧
        (t.of h).flt.v = true ∧ (t.of h).pc = (s.of h).pc ∧ (t.of h).gr = (s.of h).gr ∧ s.otherThreads t h)

/-- DEFERRED_HALT halts a READY thread with its deferred fault, recorded with the entry's address; THREAD_RESUME sends a halted
thread to the address given, or ends it when none is given; CORE_DRAIN_DONE halts the running threads of a drained core with
BREAK (R279, R282 to R284, R288, R829, R830). -/
def Obligations.HaltsAndResumes : Prop :=
  (∀ (h : Hart) (s : State) (d : BitVec 8 × BitVec 48 × BitVec 48), s.live = true → (s.of h).st = .ready →
    (s.of h).supEnd = false → (s.of h).deferred = some d → (s.of h).wait = .none →
    ∃ t, exec (.deferredHalt h) s = .next t ∧ (t.of h).st = .halted ∧ (t.of h).flt.code = d.1 ∧ (t.of h).flt.entry = d.2.1 ∧
      (t.of h).flt.va = d.2.2 ∧ (t.of h).flt.v = true ∧ (t.of h).deferred = none ∧ (t.of h).pc = (s.of h).pc ∧
      (t.of h).gr = (s.of h).gr ∧ s.otherThreads t h) ∧
  (∀ (h : Hart) (s : State) (pc : W64), s.live = true → (s.of h).st = .halted → (s.of h).pc ≠ pc →
    ∃ t, exec (.threadResume h (some pc)) s = .next t ∧ s.onlyCore t h.key ∧ s.otherThreads t h ∧ (t.of h).flt.v = false ∧
      (t.of h).gr = (s.of h).gr ∧ (t.of h).vr = (s.of h).vr ∧
      Thread.jumpedTo { s.of h with flt := (t.of h).flt } (t.of h) pc) ∧
  (∀ (h : Hart) (s : State), s.live = true → (s.of h).st = .halted →
    ∃ t, exec (.threadResume h none) s = .next t ∧ (t.of h).flt.v = false ∧
      (∀ n, n < 8 → (t.slot h.key n).owner ≠ some h.thr.val) ∧
      ((t.of h).st = .free ∨ ((t.of h).ending = true ∧ (t.of h).supEnd = true))) ∧
  (∀ (c : CoreId) (s : State) (n : Nat) (x : Thread), s.live = true → (s.core c.key).draining = true →
    (s.core c.key).queue = [] → (s.core c.key).dmaq = [] → (s.core c.key).threads = [(n, x)] → x.st = .ready →
    x.load = none → x.deferred = none → x.supEnd = false → x.wait = .none → (s.core c.key).drainAll = false →
    ∃ t, exec (.coreDrainDone c) s = .next t ∧ (t.core c.key).draining = false ∧ (t.thr c.key n).st = .halted ∧
      (t.thr c.key n).flt.code = 0x0F#8 ∧ (t.thr c.key n).pc = x.pc ∧ (t.thr c.key n).gr = x.gr)

/-! ### The array queue at work -/

/-- QUEUE_ENTRY_BEGIN: the oldest entry that has not begun, when it may begin, waits for no page, bank or block, and finds no
fault, begins with the operands that it reads; no slot and no register changes. A check that fails discards the entry with its thread's later ones and leaves the
thread a deferred fault that names the entry (R243, R249, R279, R280, R919). -/
def Claims.QueueEntryBegins : Prop :=
  ∀ (c : CoreId) (s : State) (e : QEntry),
    let k := c.key
    s.live = true → s.queueUp k = true → (s.core k).queue.find? (fun x => !x.begun) = some e → s.unarmed k →
    s.mayBegin k e = true → s.entryWait k e = none →
    let g := s.gather k (s.readRanges k e)
    (s.entryFault k e g.1 = none → g.2 = none → e.tainted = false →
      (∀ r ∈ s.readRanges k e, s.openRead k e.thr r.1 r.2 = false) →
      (∀ r ∈ s.writeRanges k e, s.vbadPart (s.partOf k) r.1 r.2 = false) →
      ∃ t, exec (.queueEntryBegin c .none) s = .next t ∧ (t.core k).queue.length = (s.core k).queue.length ∧
        (∀ x ∈ (s.core k).queue, x.serial ≠ e.serial → x ∈ (t.core k).queue) ∧
        (∃ y ∈ (t.core k).queue, y.serial = e.serial ∧ y.begun = true ∧ y.w = e.w ∧ y.thr = e.thr ∧
          (opcOf e.w ≠ 0x90 → opcOf e.w ≠ 0xB0 → opcOf e.w ≠ 0xB2 → y.opnd = g.1) ∧
          (opcOf e.w = 0x91 → y.tile = ((s.core k).sbuf.get StatBuf.init (qBuf e.w)).rows)) ∧
        (∀ n, t.slot k n = s.slot k n) ∧ (t.core k).threads = (s.core k).threads ∧
        (s.noTrace k → t = { s with cores := t.cores })) ∧
    (∀ code, s.entryFault k e g.1 = some code → opcNeed (opcOf e.w) ≤ g.1.length →
      ∃ t, exec (.queueEntryBegin c .none) s = .next t ∧ s.onlyCore t k ∧
        (∀ x, x ∈ (t.core k).queue ↔ x ∈ (s.core k).queue ∧ (x.thr ≠ e.thr ∨ x.serial < e.serial)) ∧
        ((s.thr k e.thr).deferred = none → (t.thr k e.thr).deferred = some (BitVec.ofNat 8 code, e.pc, 0#48)) ∧
        (∀ n, t.slot k n = s.slot k n))

/-- QUEUE_ENTRY_COMPLETE: an entry that has begun leaves the queue with its effect: ACC.ZERO leaves the slot zeroed with its
KIND, MODE, F, BASE and TAG; MMUL adds its block to its slot; MLOADW fills its buffer with the 64 rows read; GATE.LOAD fills
the rows of the gate buffer; FUSE.SET loads its entry; no other slot changes (R140, R238, R244, R245, R303, R306). -/
def Claims.QueueEntryCompletes : Prop :=
  ∀ (c : CoreId) (n : Nat) (s : State) (e : QEntry),
    let k := c.key
    s.live = true → s.engineUp k = true → (s.core k).queue[n]? = some e → e.begun = true → s.slotBusy k e = false →
    e.tainted = false → (opcOf e.w = 0x91 → qRs e.w = false) →
    opcOf e.w ∈ [0x90, 0x91, 0xA2, 0xB1, 0xB7] →
    ∃ t, exec (.queueEntryComplete c n) s = .next t ∧
      (∀ x, x ∈ (t.core k).queue ↔ x ∈ (s.core k).queue ∧ x.serial ≠ e.serial) ∧
      (∀ m, (opcOf e.w = 0xA2 ∨ opcOf e.w = 0x91 → m ≠ qSlot e.w) → t.slot k m = s.slot k m) ∧
      (opcOf e.w = 0xA2 → t.slot k (qSlot e.w) = { s.slot k (qSlot e.w) with
        kind := BitVec.ofNat 2 (zKind e.w), mode := zMode e.w, f := BitVec.ofNat 6 (zF e.w), base := BitVec.ofNat 12 (zBase e.w),
        tag := e.va.setWidth 32, count := 0, mask := 0#13, sat := false, lad := [], acc := [] }) ∧
      (opcOf e.w = 0x91 → ∀ y, (if qOvw e.w then (s.slot k (qSlot e.w)).restarted else s.slot k (qSlot e.w)).addBlock (qFmt e.w)
        e.sumF e.sumI = some y → t.slot k (qSlot e.w) = y) ∧
      (opcOf e.w = 0x90 → ((t.core k).sbuf.get StatBuf.init (qBuf e.w)).fmt = some (BitVec.ofNat 4 (qFmt e.w)) ∧
        ∀ r, r < 64 → ((t.core k).sbuf.get StatBuf.init (qBuf e.w)).rows.get [] r =
          sliceB e.opnd (r * rowBytes (qFmt e.w)) (rowBytes (qFmt e.w))) ∧
      (opcOf e.w = 0xB7 → ∀ i, (t.core k).gate.get 0#32 i =
        if i < 64 * (fImm e.w % 64 + 1) then BitVec.ofNat 32 (recN e.opnd (4 * i) 4) else (s.core k).gate.get 0#32 i) ∧
      (opcOf e.w = 0xB1 → (fImm e.w % 16) ∈ (t.core k).fusLoaded ∧
        ((t.core k).fus.get FusEntry.init (fImm e.w % 16)).act = recBits e.opnd 0 4 ∧
        ((t.core k).fus.get FusEntry.init (fImm e.w % 16)).gate = recBits e.opnd 6 2)

/-! ### The DMA engine -/

/-- The oldest operation of a core has started and holds a status. -/
def Claims.startedWith (t : State) (k : Nat) (o : DmaOp) (ok : BitVec 16 → Prop) : Prop :=
  ∃ x rest st, (t.core k).dmaq = x :: rest ∧ x.serial = o.serial ∧ x.tag = o.tag ∧ x.started = true ∧ x.status = some st ∧ ok st

/-- The oldest operation of a core, a page gather, has started: it holds a status that it found, or waits for the host's data of
an earlier page before it reads the entry of its next one (R361). -/
def Claims.gathers (t : State) (k : Nat) (o : DmaOp) : Prop :=
  ∃ x rest, (t.core k).dmaq = x :: rest ∧ x.serial = o.serial ∧ x.tag = o.tag ∧ x.started = true ∧
    (x.gatherAt.isSome = true ∨ x.status = some 0#16 ∨ ∃ code, x.status = some (BitVec.ofNat 16 (2 + 256 * code)))

/-- A status that a start finds: OK, or FAULTED with a code (Table ISA-8). -/
def Claims.found (st : BitVec 16) : Prop := st = 0#16 ∨ ∃ code, st = BitVec.ofNat 16 (2 + 256 * code)

/-- The engine of a core may start operation o, which has the given form. -/
def Claims.mayStart (s : State) (k : Nat) (o : DmaOp) (form : Nat) : Prop :=
  s.live = true ∧ s.engineUp k = true ∧ s.traceHeld (keyCl k) = false ∧ s.dmaHead k = some o ∧ o.form = form

/-- Nothing moves: memory stays, and the operation ends with the status. -/
def Claims.endsWith (s t : State) (k : Nat) (o : DmaOp) (st fcode : Nat) : Prop :=
  Claims.startedWith t k o (fun x => x = BitVec.ofNat 16 (st + 256 * fcode)) ∧ (s.noTrace k → t = { s with cores := t.cores })

/-- Bytes at a virtual destination within one page may be written by operation o: no fault, no error, no page in motion, no bank
under repair, no unordered write of another thread. They lie at device address d. -/
structure Claims.mayWrite (s : State) (k : Nat) (o : DmaOp) (dst n d : Nat) : Prop where
  bytes : 0 < n
  page : dst % 65536 + n ≤ 65536
  fault : s.dmaFault k .any true dst = none
  place : s.va? (s.partOf k) dst = some d
  whole : s.badPart d n = none
  still : s.mvRange k dst n = false
  bank : s.vbankBusy (s.partOf k) dst n = false
  ordered : s.vraced2 k o.thr dst n = false
  fresh : o.stale = false ∧ o.writes = []
  quiet : s.noTrace k

/-- Bytes at a virtual source within one page may be read by operation o. They lie at device address a. -/
structure Claims.mayRead (s : State) (k : Nat) (o : DmaOp) (src n a : Nat) : Prop where
  page : src % 65536 + n ≤ 65536
  fault : s.dmaFault k .any false src = none
  place : s.va? (s.partOf k) src = some a
  good : s.badFirst a n = none
  still : s.mvRange k src n = false
  bank : s.vbankBusy (s.partOf k) src n = false
  ordered : s.openRead k o.thr src n = false

/-- The operation starts with status OK, and the bytes given are at the destination; every other byte is as it was. -/
def Claims.wrote (s t : State) (k : Nat) (o : DmaOp) (d : Nat) (l : List Byte) : Prop :=
  t.rdN d l.length = l ∧ s.sameOutside t d l.length ∧ Claims.startedWith t k o (fun st => st = 0#16)

/-- Two ranges of n bytes at the virtual addresses src and dst, which lie at a and d, share no byte (R107). -/
def Claims.apart (src dst n a d : Nat) : Prop := overlaps src n dst n = false ∧ (a + n ≤ d ∨ d + n ≤ a)

/-- TWO_D_COPY of a linear copy within one page of each side, free of faults and errors, leaves the source's bytes at the
destination and every other byte as it was, with status OK; every linear or two-dimensional copy whose pages stand still and
whose banks are not under repair starts with the status that it finds; a descriptor whose KIND no table lists ends FAULTED with
ILLEGAL and moves nothing (R224, R227, R228, R232, R233). -/
def Claims.CopyMovesBytes : Prop :=
  ∀ (c : CoreId) (s : State) (o : DmaOp),
    let k := c.key
    let src := o.src.toNat
    let dst := o.dst.toNat
    let n := o.len.toNat
    let d := o.desc
    Claims.mayStart s k o 0 →
    (∀ a b, o.kind = .copy → Claims.mayRead s k o src n a → Claims.mayWrite s k o dst n b → Claims.apart src dst n a b →
      ∃ t, exec (.twoDCopy c .none) s = .next t ∧ Claims.wrote s t k o b (s.rdN a n)) ∧
    (o.kind = .copy → s.pieceWait k (if o.len = 0#64 then [] else rowPieces src dst 0 0 1 n) = none →
      ∃ t, exec (.twoDCopy c .none) s = .next t ∧ Claims.startedWith t k o Claims.found) ∧
    (o.kind = .desc → recBits d 0 4 = 0 → recZero d 4 28 = true → recZero d 96 32 = true → recZero d 384 128 = true →
      s.pieceWait k (if recN d 4 4 = 0 ∨ recN d 8 4 = 0 then []
        else rowPieces (recN d 24 8) (recN d 16 8) (sextN 64 (recN d 40 8)) (sextN 64 (recN d 32 8)) (recN d 4 4) (recN d 8 4)) =
          none →
      ∃ t, exec (.twoDCopy c .none) s = .next t ∧ Claims.startedWith t k o Claims.found) ∧
    (o.kind = .desc → 3 < recBits d 0 4 →
      ∃ t, exec (.twoDCopy c .none) s = .next t ∧ Claims.endsWith s t k o 2 1)

/-- The look-aside buffer as a page gather finds it: its INV bit empties it (R368). -/
def Claims.gatherStart (s : State) (k : Nat) (d : List Byte) : State :=
  if bitAt (recN d 0 1) 4 && bitAt (recN d 0 1) 5 then s.updCore k (fun c => { c with lab := [] }) else s

/-- A window stream's descriptor is legal, with outputs of the given width (R404). -/
def Claims.windowOk (d : List Byte) (ow : Nat) : Prop :=
  (∃ oh, outDim (recN d 8 2 + 1) (recBits d 20 4) (recBits d 24 4) (recBits d 14 3 + 1) (recBits d 36 4 + 1) (recBits d 8 3 + 1) =
      some oh ∧ recN d 12 4 + recN d 16 2 ≤ oh * ow) ∧
    outDim (recN d 10 2 + 1) (recBits d 28 4) (recBits d 32 4) (recBits d 17 3 + 1) (recBits d 40 4 + 1) (recBits d 11 3 + 1) =
      some ow ∧
    recZero d 5 3 = true ∧ recZero d 44 4 = true ∧ recZero d 160 32 = true ∧ recZero d 416 96 = true ∧ 1 ≤ recN d 16 2 ∧
    recN d 16 2 ≤ 4096 ∧ 8 ≤ recN d 18 2 ∧ recN d 18 2 ≤ 4096 ∧ recN d 18 2 % 8 = 0 ∧ recN d 48 4 % 8 = 0 ∧
    (recBits d 36 4 + 1) * (recBits d 40 4 + 1) * recN d 18 2 ≤ recN d 48 4

/-- A page gather's descriptor is legal (R360). -/
def Claims.gatherOk (d : List Byte) : Prop :=
  recZero d 6 10 = true ∧ recZero d 26 6 = true ∧ recZero d 43 5 = true ∧ recZero d 448 64 = true ∧ 1 ≤ recBits d 32 11 ∧
    recBits d 16 10 + recBits d 32 11 ≤ 1024 ∧ recN d 24 4 % 64 = 0 ∧ recN d 32 8 % 64 = 0 ∧ recN d 48 4 % 64 = 0 ∧
    64 ≤ recN d 48 4 ∧ recN d 48 4 ≤ recN d 24 4 ∧ recN d 52 4 % 64 = 0 ∧ recN d 48 4 ≤ recN d 52 4

/-- An expansion's descriptor is legal, and its ranges lie in no host page (R477, R478). -/
def Claims.expandOk (s : State) (p : Nat) (d : List Byte) : Prop :=
  recZero d 4 28 = true ∧ recZero d 256 256 = true ∧ recN d 24 8 % 8 = 0 ∧ recN d 16 8 % 8 = 0 ∧
    s.hostSpan p (recN d 24 8) (max 1 (recN d 8 8)) = false ∧ s.hostSpan p (recN d 16 8) (max 1 (4096 * recN d 4 4)) = false

/-- WINDOW_STREAM, PAGE_GATHER and EXPANSION with a legal descriptor, their pages still and no bank of theirs under repair, start
with the status that they find; a gather whose page comes from the host has none before the host's data. What one step of them moves is stated of a stream of one tap, a gather of one page and an expansion
of one block: the tap's source or its padding, the page, and the block's values are at the destination, every other byte as it was.
A descriptor of no table ends FAULTED with the code of its check and moves nothing (R360, R361, R404, R405, R465, R477, R478). -/
def Claims.EngineStarts : Prop :=
  ∀ (c : CoreId) (s : State) (o : DmaOp),
    let k := c.key
    let p := s.partOf k
    let d := o.desc
    (Claims.mayStart s k o 1 → recN d 16 2 = 0 →
      ∃ t, exec (.windowStream c .none) s = .next t ∧ Claims.endsWith s t k o 2 1) ∧
    (Claims.mayStart s k o 1 → ∀ ow, Claims.windowOk d ow → s.pieceWait k (windowPieces d ow) = none →
      (∃ t, exec (.windowStream c .none) s = .next t ∧ Claims.startedWith t k o Claims.found) ∧
      ∀ x b, windowPieces d ow = [x] → Claims.mayWrite s k o x.dst x.len b →
        (∀ src a, x.src = some src → Claims.mayRead s k o src x.len a → Claims.apart src x.dst x.len a b →
          ∃ t, exec (.windowStream c .none) s = .next t ∧ Claims.wrote s t k o b (s.rdN a x.len)) ∧
        (x.src = none → x.data.length = x.len →
          ∃ t, exec (.windowStream c .none) s = .next t ∧ Claims.wrote s t k o b x.data)) ∧
    (Claims.mayStart s k o 2 → recBits d 32 11 = 0 →
      ∃ t, exec (.pageGather c .none) s = .next t ∧ Claims.endsWith s t k o 2 1) ∧
    (Claims.mayStart s k o 2 → Claims.gatherOk d →
      let g := ((Claims.gatherStart s k d).gatherPieces k o.thr d).1
      s.pieceWait k g = none → s.mvRange k (gatherTable d).1 (gatherTable d).2 = false →
      (∃ t, exec (.pageGather c .none) s = .next t ∧ Claims.gathers t k o) ∧
      ∀ x src a b, recBits d 32 11 = 1 → g = [x] → x.src = some src → Claims.mayRead s k o src x.len a →
        Claims.mayWrite s k o x.dst x.len b → Claims.apart src x.dst x.len a b →
        ∃ t, exec (.pageGather c .none) s = .next t ∧ Claims.wrote s t k o b (s.rdN a x.len)) ∧
    (Claims.mayStart s k o 3 → Claims.expandOk s p d →
      let n := recN d 4 4
      let src := recN d 24 8
      let dst := recN d 16 8
      let win := min (recN d 8 8) (8208 * n)
      let pr := s.pair k (s.va? p src) (s.va? p dst)
      (n = 0 → ∃ t, exec (.expansion c .none) s = .next t ∧ Claims.endsWith s t k o 0 0) ∧
      (n ≠ 0 → s.expTaken k = false → s.mvRange k src win = false → s.vbankBusy p src win = false →
        s.pieceWait k (s.expandPieces k src win dst (min pr.1 128) pr.1 n 0 0 [] []).1 = none →
        (∃ t, exec (.expansion c .none) s = .next t ∧ Claims.startedWith t k o Claims.found) ∧
        ∀ b, n = 1 → (s.expandPieces k src win dst (min pr.1 128) pr.1 n 0 0 [] []).2.1 = none →
          overlaps src win dst 4096 = false → s.openRead k o.thr src win = false → Claims.mayWrite s k o dst 4096 b →
          ∃ t, exec (.expansion c .none) s = .next t ∧
            Claims.wrote s t k o b (blockVals (fun i => if i < win then s.vrd p ((src + i) % 2 ^ 64) else 0#8) 0))) ∧
    (Claims.mayStart s k o 3 → recZero d 4 28 = true → recZero d 256 256 = true → recN d 24 8 % 8 ≠ 0 →
      ∃ t, exec (.expansion c .none) s = .next t ∧ Claims.endsWith s t k o 2 3)

/-- The pages of a group in the device change home together: their bytes lie at the new places, their entries are the new ones, and
every other entry and byte is as it was (R103, R930). -/
def Claims.groupMoves (s t : State) (p : Nat) (g : Machine.Group) (old new : Nat → Nat) : Prop :=
  (∀ x ∈ g, t.rdN (new x.1) 65536 = s.rdN (old x.1) 65536 ∧ t.pte p x.1 = x.2) ∧
    (∀ q, (∀ x ∈ g, x.1 ≠ q) → t.pte p q = s.pte p q) ∧
    ∀ a, (∀ x ∈ g, a < new x.1 ∨ new x.1 + 65536 ≤ a) → t.rd a = s.rd a

/-- The pages of a group lie in the device at places `old`, free of errors, and go to places `new` there, which are apart and in no
failed stack; their entries stand in the part's own map (log 9). -/
structure Claims.groupClean (s : State) (k p : Nat) (g : Machine.Group) (old new : Nat → Nat) : Prop where
  map : s.ptRoot p = none
  once : (g.map (fun x => x.1)).Nodup
  olds : ∀ x ∈ g, pteTier (s.pte p x.1) ≠ 3 ∧ s.devOf p (s.pte p x.1) (x.1 * 65536) = some (old x.1) ∧
    s.badIn (old x.1) 65536 = false
  news : ∀ x ∈ g, pteTier x.2 ≠ 3 ∧ s.devOf p x.2 (x.1 * 65536) = some (new x.1) ∧ s.deadStack (new x.1) = false
  apart : ∀ x ∈ g, ∀ y ∈ g, x.1 ≠ y.1 → new x.1 + 65536 ≤ new y.1 ∨ new y.1 + 65536 ≤ new x.1
  quiet : s.noTrace k

/-- MOVE_START and SPLICE_START, meeting no MOVE or Splice in flight, end with the status of the first check that fails and move
nothing; a plan that passes its checks starts, and one group of pages in the device changes home at once: bytes and entries, and
nothing else (R100, R101, R103, R512 to R514, R924, R930). -/
def Claims.MovesStart : Prop :=
  ∀ (c : CoreId) (s : State) (o : DmaOp),
    let k := c.key
    let p := s.partOf k
    let starts (i : Instr) (gs : List Machine.Group) : Prop :=
      (∃ t, exec i s = .next t ∧ ∃ x rest, (t.core k).dmaq = x :: rest ∧ x.serial = o.serial ∧ x.started = true) ∧
        (gs = [] → ∃ t, exec i s = .next t ∧ Claims.endsWith s t k o 0 0) ∧
        ∀ g old new, gs = [g] → Claims.groupClean s k p g old new →
          ∃ t, exec i s = .next t ∧ Claims.groupMoves s t p g old new ∧ Claims.startedWith t k o (fun st => st = 0#16)
    (Claims.mayStart s k o 4 → s.motionMeets p (o.dst.toNat / 65536) (o.len.toNat / 65536) = false →
      (∀ x, s.movePlan p o.dst.toNat o.len.toNat o.dest.toNat = .inl x →
        ∃ t, exec (.moveStart c .none) s = .next t ∧ Claims.endsWith s t k o x.1 x.2) ∧
      (∀ gs, s.movePlan p o.dst.toNat o.len.toNat o.dest.toNat = .inr gs → s.planBusy p gs = false →
        starts (.moveStart c .none) gs)) ∧
    (Claims.mayStart s k o 5 → (∀ r ∈ o.ranges, s.motionMeets p r.1 r.2 = false) →
      (∀ x, s.splicePlan p o.desc = .inl x →
        ∃ t, exec (.spliceStart c .none) s = .next t ∧ Claims.endsWith s t k o x.1 x.2) ∧
      (∀ es, s.splicePlan p o.desc = .inr es → s.planBusy p (es.flatMap (fun e => e.2)) = false →
        starts (.spliceStart c .none) (es.flatMap (fun e => e.2))))

/-- A partition with no host command, no request, no fabric request or command, and no write of the part waiting. -/
def Claims.calm (s : State) (p : Nat) : Prop :=
  (s.func p).cmds = [] ∧ (s.func p).reqs = [] ∧ (s.part p).fabWait = [] ∧ (s.part p).late = [] ∧
    ∀ c ∈ s.clustersOf p, (s.cl c).fab = []

/-- DMA_OP_COMPLETE: an operation with its status and no host request outstanding leaves the engine, and the tag of its thread
holds the status, or the thread that waits for the tag takes it and goes on. HOST_DATA_ARRIVE puts the bytes of a page in
motion at its new place; HOST_REQUEST_TIMEOUT after 1 s ends the operation ABANDONED, and only bytes that it writes are left open
(R107, R225, R228, R229, R627, R629). -/
def Claims.OperationsEnd : Prop :=
  (∀ (c : CoreId) (s : State) (o : DmaOp) (rest : List DmaOp) (st : BitVec 16) (y : TagSt),
    let k := c.key
    s.live = true → Claims.calm s (s.partOf k) → s.engineUp k = true → (s.core k).dmaq = o :: rest → o.started = true →
    o.status = some st → o.waitHost = [] → o.held = [] → s.expHeld k o = false → o.hostTag = none →
    (s.thr k o.thr).tags.find o.tag = some y → y.serial = o.serial → s.noTrace k →
    ∃ t, exec (.dmaOpComplete c) s = .next t ∧ (∀ x, x ∈ (t.core k).dmaq ↔ x ∈ (s.core k).dmaq ∧ x.serial ≠ o.serial) ∧
      t.mem = s.mem ∧
      ((∀ n r, (s.thr k o.thr).wait ≠ .dmaReg n r) → (t.thr k o.thr).tags.find o.tag = some { y with done := some st } ∧
        (t.thr k o.thr).gr = (s.thr k o.thr).gr) ∧
      (∀ r, (s.thr k o.thr).wait = .dmaReg o.tag r → r ≠ 0 → (t.thr k o.thr).g r = st.setWidth 64 ∧
        (t.thr k o.thr).tags.find o.tag = none)) ∧
  (∀ (p : Fin 8) (num : W32) (data : List Byte) (s : State) (r : HostReq), s.live = true → s.funcTakes p.val = true →
    Claims.calm (s.updFunc p.val (fun f => { f with reqs := [] })) p.val → (s.func p.val).reqs = [r] →
    r.num = num.toNat → r.posted = true → r.write = false →
    r.bytes = data.length → r.dev = true → r.dst ≠ 0#64 → s.deadStack r.dst.toNat = false → (s.core r.core).dmaq = [] →
    ∃ t, exec (.hostDataArrive p num data) s = .next t ∧ t.rdN r.dst.toNat data.length = data ∧
      s.sameOutside t r.dst.toNat data.length ∧ (t.func p.val).reqs = []) ∧
  (∀ (p : Fin 8) (num : W32) (s : State) (r : HostReq) (o : DmaOp), s.live = true →
    Claims.calm (s.updFunc p.val (fun f => { f with reqs := [] })) p.val → (s.func p.val).reqs = [r] →
    r.num = num.toNat → r.posted = true →
    r.sentNs.toNat + 1000000000 ≤ s.ns → (s.core r.core).dmaq = [o] → o.serial = r.op → o.held = [] →
    ∃ t, exec (.hostRequestTimeout p num) s = .next t ∧ (t.func p.val).reqs = [] ∧
      (∃ x, (t.core r.core).dmaq = [x] ∧ x.status = some 1#16 ∧ x.waitHost = []) ∧
      (o.dirties = [] → t.mem = s.mem) ∧
      (s.ptRoot p.val = none → ∀ a, (∀ w ∈ o.dirties, ∀ i, i < w.2 → s.va? p.val (w.1 + i) ≠ some a) → t.rd a = s.rd a))

/-! ### Chunks and Reels -/

/-- The thread starts at an address with the registers given and zeros elsewhere (R46, R337). -/
def Claims.starts (t : State) (k n : Nat) (pc : W64) (g : Nat → W64) : Prop :=
  (t.thr k n).pc = pc ∧ (t.thr k n).st = .waitMem ∧ (t.thr k n).wait = .fetch ∧ (t.thr k n).freq = [blockOf pc] ∧
    (∀ i, (t.thr k n).g i = g i) ∧ ∀ i, (t.thr k n).v i = 0#2048

/-- The scalar registers of a chunk's thread (R337). -/
def Claims.chunkRegs (s : State) (k n : Nat) (slots : List Nat) (c : Chunk) (i : Nat) : W64 :=
  match i with
  | 1 => c.inp
  | 2 => s.g2At k n
  | 3 => c.handle.setWidth 64
  | 4 => BitVec.ofNat 64 (slots.foldl (fun a n => a + 2 ^ n) 0 + 2 ^ 8 * c.len.toNat + 2 ^ 24 * c.mark.toNat +
      2 ^ 40 * c.tag.toNat)
  | 5 => c.out
  | 6 => c.arg
  | _ => 0#64

/-- CHUNK_DISPATCH starts the only chunk of a core on the lowest free thread when its Reel is IDLE, with the registers of R337,
the Reel's slots owned and RSTATE RUN; a Reel that is OUT with enough free slots takes slots and becomes IN, the chunk held; a
chunk of a GONE Reel completes REEL_GONE (R334 to R340). -/
def Claims.ChunksDispatch : Prop :=
  ∀ (c : CoreId) (s : State) (x : Chunk),
    let k := c.key
    let p := s.partOf k
    let i := hIdx x.handle.toNat
    let r := s.reelRec p i
    let sl := (s.reel p i).slots
    s.live = true → s.mayDispatch p k = true → (s.core k).chunkq = [x] → x.running = false → x.held = false →
    (s.reelLive p x.handle.toNat = true → s.bankMoves p k i = false → rlRstate r = 1 → s.noTrace k → ∀ n, s.freeThread k = some n →
      ∃ t, exec (.chunkDispatch c) s = .next t ∧
        Claims.starts t k n (BitVec.ofNat 64 (rlEntry r)) (Claims.chunkRegs s k n sl x) ∧
        (t.thr k n).chunk = some x.serial ∧ (∀ m, m ≠ n → t.thr k m = s.thr k m) ∧
        (∀ m, m ∈ sl → (t.slot k m).owner = some n) ∧ (∀ m, m ∉ sl → t.slot k m = s.slot k m) ∧
        (x.mark ≠ 0#16 → ∀ m, t.slot k m = { s.slot k m with owner := (t.slot k m).owner }) ∧
        (x.mark = 0#16 → rlRz r = true → ∀ m ∈ sl, (t.slot k m).acc = [] ∧ (t.slot k m).lad = [] ∧ (t.slot k m).count = 0) ∧
        (t.core k).chunkq = [{ x with running := true, sig := 0#64, sigLo := 0xFFFFFFFF#32, sigHi := 0#32 }] ∧
        t.rd (s.reelAddr p i + 34) = 2#8 ∧ s.sameOutside t (s.reelAddr p i + 34) 1) ∧
    (s.reelLive p x.handle.toNat = true → s.bankMoves p k i = false → rlRstate r = 3 → rlSlots r ≤ (s.looseSlots k).length →
      ∃ t, exec (.chunkDispatch c) s = .next t ∧ (t.core k).chunkq = [{ x with held := true }] ∧
        (t.reel p i).slots = (s.looseSlots k).take (rlSlots r) ∧ (t.reel p i).core = k ∧
        (∀ m ∈ (s.looseSlots k).take (rlSlots r), t.slot k m = { s.slot k m with reel := some i }) ∧
        t.rd (s.reelAddr p i + 34) = 4#8 ∧ s.sameOutside t (s.reelAddr p i + 34) 1 ∧
        (t.core k).threads = (s.core k).threads) ∧
    (s.reelLive p x.handle.toNat = false → x.recAddr = 0#64 → x.cmd = none → x.owner = none →
      ∃ t, exec (.chunkDispatch c) s = .next t ∧ s.onlyCore t k ∧
        t.core k = { s.core k with chunkq := [] })

/-- CHUNK_END: a chunk whose thread is FREE and that forwards nothing leaves its core, its thread holds no chunk, and its Reel
is IDLE again. REEL_SWAPIN_DONE: the held chunk starts on the lowest free thread from the restored slots; with a destroy
pending it leaves and the Reel is GONE (R335, R338, R340, R343 to R348). -/
def Claims.ChunksEnd : Prop :=
  (∀ (h : Hart) (s : State) (x : Chunk) (j : Nat),
    let k := h.key
    let p := s.partOf k
    let i := hIdx x.handle.toNat
    s.live = true → Claims.calm s p → s.settled p → (s.core k).chunkq = [x] → (s.of h).chunk = some x.serial →
    (s.of h).st = .free → x.nxv = false → x.recAddr = 0#64 → x.cmd = none → x.owner = none → (s.core k).job = some j →
    (s.part p).jobs.has j = true → (s.job p j).lock = false → (s.job p j).pendingSet = [] → s.bankMoves p k i = false →
    (s.reel p i).destroyPend = false →
    (s.reel p i).swapPend = false →
    ∃ t, exec (.chunkEnd h) s = .next t ∧ (t.core k).chunkq = [] ∧ (t.of h).chunk = none ∧ (t.of h).st = .free ∧
      (t.of h).gr = (s.of h).gr ∧ t.rd (s.reelAddr p i + 34) = 1#8 ∧ (t.reel p i).slots = (s.reel p i).slots ∧
      (t.reel p i).lastDone = (s.part p).doneOrder + 1) ∧
  (∀ (q : Fin 8) (idx : BitVec 12) (s : State) (x : Chunk),
    let p := q.val
    let i := idx.toNat
    let k := (s.reel p i).core
    s.live = true → rlRstate (s.reelRec p i) = 4 → (s.reel p i).slots ≠ [] → (s.core k).chunkq = [x] → x.held = true →
    hIdx x.handle.toNat = i → s.noTrace k → (s.cl (keyCl k)).spareBusy = none → s.bankMoves p k i = false →
    (∀ n, (s.reel p i).destroyPend = false → s.freeThread k = some n →
      ∃ t, exec (.reelSwapinDone q idx) s = .next t ∧
        Claims.starts t k n (BitVec.ofNat 64 (rlEntry (s.reelRec p i))) (Claims.chunkRegs s k n (s.reel p i).slots x) ∧
        (t.thr k n).chunk = some x.serial ∧ (∀ m ∈ (s.reel p i).slots, (t.slot k m).owner = some n) ∧
        t.rd (s.reelAddr p i + 34) = 2#8 ∧ s.sameOutside t (s.reelAddr p i + 34) 1) ∧
    ((s.reel p i).destroyPend = true → Claims.calm s p → x.recAddr = 0#64 → x.cmd = none → x.owner = none →
      ∃ t, exec (.reelSwapinDone q idx) s = .next t ∧ (t.core k).chunkq = [] ∧ (t.reel p i).slots = [] ∧
        (t.reel p i).destroyPend = false ∧ t.rd (s.reelAddr p i + 34) = 5#8 ∧
        t.rd (s.reelAddr p i) = BitVec.ofNat 8 ((s.rd (s.reelAddr p i)).toNat / 2 * 2)))

/-! ### Steps and replacements -/

/-- The threads of a step: every thread that the job asks for starts at the step's entry on each of its cores, with the
argument block in g1 and its place in g2 (R45 to R47). -/
def Claims.stepStarts (s t : State) (p j : Nat) (arg : W64) : Prop :=
  ∀ k ∈ s.jobCores p j, ∀ n, n < (s.job p j).threads →
    Claims.starts t k n (Config.stepEntry arg) (fun i => match i with
      | 1 => arg
      | 2 => s.g2At k n
      | _ => 0#64)

/-- A command that one function holds. -/
def Claims.heldCmd (h : CmdHdr) (opc serial : Nat) (at_ : BitVec 64) : HCmd :=
  { serial := serial, opc := BitVec.ofNat 8 opc, hdr := h, started := true, tArr := at_, err := .none }

/-- LAUNCH_START: when Slate has reached the count of a prepared step its threads start. STEP_BOUNDARY: a BATCH step whose
threads are all FREE ends, and its STEP command completes with its lateness. CONTEXT_SWITCH_END: the core issues again, with
the incoming job's saved slots or zeroed ones. REPLACE_RESUME: the store of the failed core stands in the spare's, and the
replacement is over (R45 to R47, R288, R499, R503, R605, R607, R792). -/
def Obligations.StepsRun : Prop :=
  (∀ (q : Fin 8) (j : Nat) (s : State) (n : BitVec 64),
    let p := q.val
    s.live = true → (s.job p j).startAt = some n → n.toNat ≤ s.ns →
    (∀ x ∈ (s.job p j).placed, ∃ k, s.logKey p x.1 x.2 = some k ∧ (s.cl (keyCl k)).powered = true) →
    (∀ k ∈ s.jobCores p j, (s.cl (keyCl k)).spareBusy = none) →
    (∀ k, s.noTrace k) →
    ∃ t, exec (.launchStart q j) s = .next t ∧ (t.job p j).startAt = none ∧ t.mem = s.mem ∧
      (t.job p j).placed = (s.job p j).placed ∧ (t.job p j).running = (s.job p j).running ∧
      Claims.stepStarts s t p j (s.job p j).argBlk) ∧
  (∀ (q : Fin 8) (j : Nat) (s : State) (c : HCmd),
    let p := q.val
    let x := s.job p j
    s.live = true → s.stepEnded p j = true → x.kind = 0#2 → x.running = some (c.serial + 1) → (s.func p).cmds = [c] →
    (s.part p).jobs.has j = true → x.lock = false → x.seqs = [] → x.pendingSet = [] → x.retire = none →
    (s.jobCores p j).length < 2 → (s.part p).relPend = none → (s.cl (s.lead p)).ckpt = false → s.settled p →
    (∀ d ∈ s.clustersOf p, (s.cl d).clPend = []) →
    ∃ t, exec (.stepBoundary q j) s = .next t ∧ (t.job p j).running = none ∧ (t.job p j).placed = x.placed ∧
      (t.job p j).lock = (s.part p).lockstep ∧ (t.func p).cmds = [] ∧
      (t.func p).out = queueCompletion (s.func p).out { Completion.init with
        tag := c.hdr.tag, status := if x.faulted then 2#8 else 0#8, fcode := x.fcode, opc := c.opc, tArr := c.tArr, tDone := s.nsW,
        d0 := x.late, serial := c.serial, cycle := s.cycle } ∧ t.mem = s.mem ∧ t.cores = s.cores) ∧
  (∀ (c : CoreId) (s : State) (j : Nat),
    let k := c.key
    let p := s.partOf k
    let x := s.job p j
    s.live = true → Claims.calm s p → (s.core k).switching = some j → x.savedPages = [] →
    s.settled p → (s.part p).jobs.has j = true →
    (∀ d ∈ (s.cl (keyCl k)).declPend, d.1 ≠ keyCore k) →
    ∃ t, exec (.contextSwitchEnd c) s = .next t ∧ (t.core k).switching = none ∧ (t.core k).fusLoaded = [] ∧
      (∀ b, ((t.core k).sbuf.get StatBuf.init b).fmt = none ∨ (s.core k).sbuf.find b = none) ∧
      (t.core k).threads = (s.core k).threads ∧ t.mem = s.mem ∧
      (∀ n, n < 8 → (s.slot k n).reel.isSome = true → t.slot k n = s.slot k n) ∧
      (∀ n y, n < 8 → (s.slot k n).reel = none → x.saved.find (8 * s.rank p j k + n) = some y →
        t.slot k n = { (s.slot k n).ofImage y.image with owner := none }) ∧
      (∀ n, n < 8 → (s.slot k n).reel = none → x.saved.find (8 * s.rank p j k + n) = none →
        (t.slot k n).kind = 0#2 ∧ (t.slot k n).mode = false ∧ (t.slot k n).base = 0#12 ∧ (t.slot k n).tag = 0#32 ∧
          (t.slot k n).lad = [] ∧ (t.slot k n).acc = [] ∧ (t.slot k n).owner = none)) ∧
  (∀ (c : Fin 8) (s : State) (f j p sp : Nat) (n : Nat),
    s.live = true → Memory.wf s.mem = true → (s.cl c.val).ctl.fenced = false → (s.cl c.val).spareBusy = some (f, j, 9, n) →
    s.ownerCl c.val = some p → s.physCore c.val j = some sp → f ≠ sp → f < 9 → sp < 9 →
    (s.jobsOn p ((s.logCl p c.val).getD 0) j).filter (fun n => (s.job p n).kind != 2#2) = [] →
    (∀ i ∈ (s.part p).reels.keys, (s.reel p i).core = coreKey c.val sp → (s.reel p i).slots = []) →
    s.settled p → Claims.calm s p →
    ∃ t, exec (.replaceResume c true) s = .next t ∧ (t.cl c.val).spareBusy = none ∧
      (∀ i, i < 0x400000 → t.rd (coreStore (coreKey c.val sp) i) = s.rd (coreStore (coreKey c.val f) i)) ∧
      s.sameOutside t (coreStore (coreKey c.val sp) 0) 0x400000 ∧
      ∀ q, t.core q = { s.core q with lab := if q = coreKey c.val sp then [] else (s.core q).lab })

/-! ### Host commands -/

/-- The commands of Tables HST-4, SEC-3 and REL-5: constructor, opcode, arguments used, whether JOB names a job; e is the error that
the access of a WRITE, READ or LINK_KEY would meet. -/
def Claims.hostRows (e : MemErr) : List ((Fin 8 → CmdHdr → Instr) × Nat × Nat × Bool) := [
  (.cmdNop, 0x00, 0, false), (.jobCreate, 0x01, 0, false), (.jobSet, 0x02, 0, true), (.jobDestroy, 0x03, 0, true),
  (.step, 0x04, 2, true), (.seqAdmit, 0x05, 3, true), (.seqRun, 0x06, 3, true), (.seqEnd, 0x07, 1, true),
  (.alloc, 0x08, 3, false), (.free, 0x09, 1, false), (.cmdMove, 0x0A, 3, false), (.seal, 0x0B, 1, false),
  (fun q h => .write q h e, 0x0C, 2, false), (fun q h => .read q h e, 0x0D, 2, false), (.hostmap, 0x0E, 1, false), (.cmdReelSubmit, 0x0F, 0, false),
  (.cmdReelDestroy, 0x10, 1, false), (.relSet, 0x11, 3, false), (.attest, 0x20, 0, false), (.sessionOpen, 0x21, 0, false),
  (.measure, 0x22, 2, false), (fun q h => .linkKey q h e, 0x23, 2, true), (.linkKeyErase, 0x24, 0, true)]

/-- Every command of a host session with a nonzero reserved bit, a nonzero argument that it does not use, or a JOB that names
no job of the partition (a nonzero JOB where it has none) completes FAULTED with ILLEGAL and has no effect; a function that
drains completes it REFUSED, and one that is off, a device without its image, a port without streams or a follower's answers
nothing. A function that holds 256 commands is not ready, and one that is granted no burst slot takes nothing (R613 to R617, R620,
R623, R639). -/
def Claims.HostChecks : Prop :=
  ∀ (e : MemErr), ∀ r ∈ Claims.hostRows e, ∀ (q : Fin 8) (h : CmdHdr) (s : State),
    (s.takes q.val r.2.1 h →
      (h.resv = true ∨ (∃ a ∈ (CmdArgs h).drop r.2.2.1, a ≠ 0) ∨
        (if r.2.2.2 then (s.part q.val).jobs.has h.job.toNat = false else h.job ≠ 0#32)) →
      ∃ t, exec (r.1 q h) s = .next t ∧ s.completes t q.val h r.2.1 2 1 0 ∧ s.hostFrame t q.val) ∧
    (s.live = true → s.boot.running = true → s.portOpen = true → (s.func q.val).st = .draining →
      s.granted q.val (64 + h.payload.length) →
      ∃ t, exec (r.1 q h) s = .next t ∧ s.hostFrame t q.val ∧ (t.func q.val).cmds = (s.func q.val).cmds ∧
        (t.func q.val).out = queueCompletion (s.func q.val).out { Completion.init with
          tag := h.tag, status := 4#8, opc := BitVec.ofNat 8 r.2.1, tArr := s.nsW, tDone := s.nsW,
          serial := (s.func q.val).serial, cycle := s.cycle }) ∧
    (s.live = true → (s.boot.running = false ∨ s.portOpen = false ∨ (s.func q.val).st = .off) →
      exec (r.1 q h) s = .next s) ∧
    (s.live = true → s.boot.running = true → s.portOpen = true → (s.func q.val).st = .operating →
      (256 ≤ (s.func q.val).cmds.length →
        exec (r.1 q h) s = .next (s.updFunc q.val (fun f => { f with nrdy := true }))) ∧
      ((s.func q.val).cmds.length < 256 → ¬ s.granted q.val (64 + h.payload.length) → exec (r.1 q h) s = .next s))

/-- NOP completes OK. ALLOC of one unit maps it in its home at the lowest free range and answers its address; FREE unmaps an
allocation; SEAL makes its pages read-only; HOSTMAP writes handles; MOVE enters a DMA engine (R92 to R95, R100, R621, R929,
R930). -/
def Obligations.HostMemoryMap : Prop :=
  ∀ (q : Fin 8) (h : CmdHdr) (s : State),
    let p := q.val
    let fl := h.arg0.toNat
    let big := bitAt fl 4
    let u := if big then 32 else 1
    let pl := h.arg2.toNat
    let hm := match fl % 4 with
      | 0 => 4 * bitsAt pl 3 3 + 32 * (pl % 8)
      | 1 => 1 + 32 * (pl % 8)
      | n => n
    let pg := h.arg0.toNat / 65536
    (s.takes p 0x00 h → s.cmdIllegal p 0x00 h = false →
      ∃ t, exec (.cmdNop q h) s = .next t ∧ s.completes t p h 0x00 0 0 0 ∧ s.hostFrame t p) ∧
    (s.takes p 0x08 h → s.cmdIllegal p 0x08 h = false → s.settled p → 1 ≤ h.arg1.toNat → h.arg1.toNat ≤ u * 65536 →
      (bitAt fl 3 = true → fl % 4 = 1 ∨ fl % 4 = 2) → (big = true → 2 ≤ fl % 4) → s.homeOk p hm = true →
      1 ≤ s.homeUnits p (fl % 4) →
      ∀ a f, s.findRange p u u = some a → s.freeFrame p hm u = some f → s.unwalked p a u →
      ∃ t, exec (.alloc q h) s = .next t ∧ s.completes t p h 0x08 0 0 (a * 65536) ∧
        (∀ i, i < u → t.pte p (a + i) = mkPte big (bitAt fl 2) false (bitAt fl 3) (decide (fl % 4 < 2)) false hm f) ∧
        (t.part p).allocs.find a = some { Alloc.init with
          pages := u, big := big, home := BitVec.ofNat 2 (fl % 4), pin := bitAt fl 2, sh := bitAt fl 3 } ∧
        t.mem = s.mem) ∧
    (s.takes p 0x08 h → s.cmdIllegal p 0x08 h = false →
      (h.arg1 = 0#64 ∨ (big = true ∧ fl % 4 < 2) ∨ (bitAt fl 3 = true ∧ fl % 4 ≠ 1 ∧ fl % 4 ≠ 2) ∨ s.homeOk p hm = false) →
      ∃ t, exec (.alloc q h) s = .next t ∧ s.completes t p h 0x08 4 0 0 ∧ s.hostFrame t p) ∧
    (∀ al, s.takes p 0x09 h → s.cmdIllegal p 0x09 h = false → s.settled p → h.arg0.toNat % 65536 = 0 →
      (s.part p).allocs.find pg = some al → s.motionMeets p pg al.pages = false → s.unwalked p pg al.pages →
      ∃ t, exec (.free q h) s = .next t ∧ s.completes t p h 0x09 0 0 0 ∧ (t.part p).allocs.find pg = none ∧
        (∀ i, i < al.pages → t.pte p (pg + i) = 0#64) ∧ t.mem = s.mem) ∧
    (s.takes p 0x09 h → s.cmdIllegal p 0x09 h = false → (s.part p).allocs.find pg = none →
      ∃ t, exec (.free q h) s = .next t ∧ s.completes t p h 0x09 4 0 0 ∧ s.hostFrame t p) ∧
    (∀ al, s.takes p 0x0B h → s.cmdIllegal p 0x0B h = false → h.arg0.toNat % 65536 = 0 →
      (s.part p).allocs.find pg = some al → al.sh = true → s.unwalked p pg al.pages →
      ∃ t, exec (.seal q h) s = .next t ∧ s.completes t p h 0x0B 0 0 0 ∧
        (t.part p).allocs.find pg = some { al with sealed := true } ∧
        (∀ i, i < al.pages → pteRo (t.pte p (pg + i)) = true) ∧ t.mem = s.mem) ∧
    (∀ al, s.takes p 0x0B h → s.cmdIllegal p 0x0B h = false → (s.part p).allocs.find pg = some al → al.sh = false →
      ∃ t, exec (.seal q h) s = .next t ∧ s.completes t p h 0x0B 4 0 0 ∧ s.hostFrame t p) ∧
    (s.takes p 0x0E h → s.cmdIllegal p 0x0E h = false →
      ∃ t, exec (.hostmap q h) s = .next t ∧ s.completes t p h 0x0E 0 0 0 ∧
        (∀ i, i < h.payload.length / 8 →
          (t.part p).hostMap.get 0#64 (h.arg0.toNat + i) = BitVec.ofNat 64 (recN h.payload (8 * i) 8)) ∧
        (∀ i, (i < h.arg0.toNat ∨ h.arg0.toNat + h.payload.length / 8 ≤ i) →
          (t.part p).hostMap.get 0#64 i = (s.part p).hostMap.get 0#64 i) ∧ t.mem = s.mem) ∧
    (∀ k, s.takes p 0x0A h → s.cmdIllegal p 0x0A h = false → s.hostCore p = some k →
      ∃ t, exec (.cmdMove q h) s = .next t ∧ s.holdsCmd t p h 0x0A ∧
        (t.core k).dmaq = (s.core k).dmaq ++ [{ DmaOp.init with
          serial := (s.core k).serial, thr := 64, kind := .move, dst := h.arg0, len := h.arg1, dest := h.arg2.setWidth 8,
          hostTag := some (s.func p).serial }] ∧ t.mem = s.mem)

/-- A host access that faults with a code at an address leaves memory as it was; one outside the partition's ownership counts (R79),
one to a failed stack enters that stack's log (R464). -/
def Claims.hostMissed (s t : State) (p va f : Nat) : Prop :=
  t = { s with usb := t.usb, clusters := t.clusters, parts := t.parts, hbm := t.hbm } ∧ (f ≠ 8 → t.hbm = s.hbm) ∧
    (t.part p).badAccess = (s.part p).badAccess + (if f ≠ 8 ∧ s.outside p va then 1 else 0)

/-- WRITE of a range in one page puts its data there and changes no other byte; READ answers the bytes of its range over EP2
and changes nothing; a range that faults ends either FAULTED with the fault's code (R625, R626, R928). -/
def Obligations.HostReadsWrites : Prop :=
  ∀ (q : Fin 8) (h : CmdHdr) (s : State),
    let p := q.val
    let va := h.arg0.toNat
    let n := h.arg1.toNat
    (∀ d, s.takes p 0x0C h → s.cmdIllegal p 0x0C h = false → recN h.payload 0 4 = h.tag.toNat → recBits h.payload 32 2 = 0 →
      recN h.payload 8 8 = n → 64 + n ≤ h.payload.length → 0 < n → va % 65536 + n ≤ 65536 → s.mvPart p va n = false →
      s.hostFault p va true = none → s.va? p va = some d → s.badPart d n = none →
      ∃ t, exec (.write q h .none) s = .next t ∧ s.completes t p h 0x0C 0 0 0 ∧ t.rdN d n = sliceB h.payload 64 n ∧
        s.sameOutside t d n) ∧
    (∀ f, s.takes p 0x0C h → s.cmdIllegal p 0x0C h = false → recN h.payload 0 4 = h.tag.toNat → recBits h.payload 32 2 = 0 →
      recN h.payload 8 8 = n → 64 + n ≤ h.payload.length → 0 < n → va % 65536 + n ≤ 65536 → s.mvPart p va n = false →
      s.hostFault p va true = some f →
      ∃ t, exec (.write q h .none) s = .next t ∧ s.completes t p h 0x0C 2 f 0 ∧ Claims.hostMissed s t p va f) ∧
    (s.takes p 0x0D h → s.cmdIllegal p 0x0D h = false → s.mvPart p va n = false →
      (∀ a ∈ pagesOf va n, s.hostFault p a false = none) → s.vbad p va n = false →
      ∃ t, exec (.read q h .none) s = .next t ∧ s.hostFrame t p ∧ s.holdsCmd t p h 0x0D ∧
        (t.func p).in2 = (s.func p).in2 ++ [((s.func p).serial + 1, bulk h.tag.toNat 0 (s.vrdN p va n))]) ∧
    (∀ f, s.takes p 0x0D h → s.cmdIllegal p 0x0D h = false → s.mvPart p va n = false → 0 < n →
      s.hostFault p va false = some f →
      ∃ t, exec (.read q h .none) s = .next t ∧ s.completes t p h 0x0D 2 f 0 ∧ Claims.hostMissed s t p va f)

/-! ### Jobs, steps and sequences -/

/-- A job of SERVING with one sequence updated. -/
def Claims.seqOf (s : State) (p : Nat) (h : CmdHdr) (n : Nat) : Seq := (s.job p h.job.toNat).seqs.get Seq.init n

/-- JOB_CREATE queues a job with the parameters of its block under the next number, REFUSED when they lie out of range;
JOB_SET changes what its CHG names, at the next boundary where a step runs; JOB_DESTROY ends a job that stands at a switch
point; STEP starts a step's threads or prepares it for its count; the SEQ commands admit, run and end sequences; the Reel
commands submit and destroy; REL_SET takes effect where no step runs (R340, R396, R485, R486, R494, R519, R605, R621, R816). -/
def Claims.HostJobs : Prop :=
  ∀ (q : Fin 8) (h : CmdHdr) (s : State),
    let p := q.val
    let j := h.job.toNat
    let x := s.job p j
    let b := h.payload
    let nj := (s.part p).nextJob
    (s.takes p 0x01 h → s.cmdIllegal p 0x01 h = false → s.settled p → (∀ b, s.freeCores p b = []) → blockChg b = 0 →
      (jobOf b).ok = true → (s.cl (s.lead p)).ckpt = false →
      ∃ t, exec (.jobCreate q h) s = .next t ∧ s.completes t p h 0x01 0 0 nj ∧
        (t.part p).jobs.find nj = some { jobOf b with admNo := (s.part p).nextAdmit, lock := (s.part p).lockstep } ∧
        (t.part p).nextJob = nj + 1 ∧ t.cores = s.cores) ∧
    (s.takes p 0x01 h → s.cmdIllegal p 0x01 h = false → (blockChg b ≠ 0 ∨ (jobOf b).ok = false) →
      ∃ t, exec (.jobCreate q h) s = .next t ∧ s.completes t p h 0x01 4 0 0 ∧ s.hostFrame t p) ∧
    (s.takes p 0x02 h → s.cmdIllegal p 0x02 h = false → s.settled p → x.setOk b = true → x.placed = [] →
      s.atSwitch p j = true →
      ∃ t, exec (.jobSet q h) s = .next t ∧ s.completes t p h 0x02 0 0 0 ∧ t.job p j = x.setFrom b) ∧
    (s.takes p 0x02 h → s.cmdIllegal p 0x02 h = false → s.settled p → x.setOk b = true → s.atSwitch p j = false →
      ∃ t, exec (.jobSet q h) s = .next t ∧ s.completes t p h 0x02 0 0 0 ∧
        t.job p j = { x with pendingSet := x.pendingSet ++ [b] }) ∧
    (s.takes p 0x03 h → s.cmdIllegal p 0x03 h = false → s.settled p → x.placed = [] → x.seqs = [] → s.atSwitch p j = true →
      ∃ t, exec (.jobDestroy q h) s = .next t ∧ s.completes t p h 0x03 0 0 0 ∧ (t.part p).jobs.has j = false) ∧
    (s.takes p 0x03 h → s.cmdIllegal p 0x03 h = false → s.atSwitch p j = false →
      ∃ t, exec (.jobDestroy q h) s = .next t ∧ s.holdsCmd t p h 0x03 ∧
        t.job p j = { x with destroy := some (s.func p).serial }) ∧
    (s.takes p 0x04 h → s.cmdIllegal p 0x04 h = false → s.mayLaunch p j = true → h.arg1 = 0#64 →
      (∀ y ∈ x.placed, ∃ k, s.logKey p y.1 y.2 = some k ∧ (s.cl (keyCl k)).powered = true) → (∀ k, s.noTrace k) →
      ∃ t, exec (.step q h) s = .next t ∧ s.holdsCmd t p h 0x04 ∧
        (t.job p j).running = some ((s.func p).serial + 1) ∧ (t.job p j).late = 0#64 ∧
        Claims.stepStarts s t p j h.arg0 ∧ t.mem = s.mem) ∧
    (s.takes p 0x04 h → s.cmdIllegal p 0x04 h = false → s.mayLaunch p j = true → s.ns < h.arg1.toNat →
      ∃ t, exec (.step q h) s = .next t ∧ s.holdsCmd t p h 0x04 ∧
        (t.job p j).startAt = some h.arg1 ∧ (t.job p j).argBlk = h.arg0 ∧ t.cores = s.cores) ∧
    (s.takes p 0x05 h → s.cmdIllegal p 0x05 h = false → s.settled p → h.arg2.toNat ≤ 262144 →
      ∃ t, exec (.seqAdmit q h) s = .next t ∧ s.completes t p h 0x05 0 0 x.nextSeq ∧
        t.job p j = { x with nextSeq := x.nextSeq + 1, seqs := x.seqs.put x.nextSeq { Seq.init with
          prio := h.arg0.toNat, admNo := x.nextSeq, remaining := h.arg2.toNat, prompt := h.arg1,
          active := x.running.isNone } }) ∧
    (s.takes p 0x05 h → s.cmdIllegal p 0x05 h = false → 262144 < h.arg2.toNat →
      ∃ t, exec (.seqAdmit q h) s = .next t ∧ s.completes t p h 0x05 4 0 0 ∧ s.hostFrame t p) ∧
    (let y := Claims.seqOf s p h h.arg0.toNat
     s.takes p 0x06 h → s.cmdIllegal p 0x06 h = false → s.settled p → y.run = none → h.arg1 ≠ 0#64 →
      y.pos + y.remaining + h.arg1.toNat ≤ 262144 →
      ∃ t, exec (.seqRun q h) s = .next t ∧ s.holdsCmd t p h 0x06 ∧
        Claims.seqOf t p h h.arg0.toNat = { y with
          run := some (s.func p).serial, want := h.arg1.toNat, outAddr := h.arg2 }) ∧
    (s.takes p 0x07 h → s.cmdIllegal p 0x07 h = false → s.settled p → x.running.isSome = true →
      ∃ t, exec (.seqEnd q h) s = .next t ∧ s.completes t p h 0x07 0 0 0 ∧
        Claims.seqOf t p h h.arg0.toNat = { Claims.seqOf s p h h.arg0.toNat with ended := true }) ∧
    (s.takes p 0x07 h → s.cmdIllegal p 0x07 h = false → s.settled p → x.running = none →
      (∀ y ∈ x.seqs, y.2.ended = false) → (Claims.seqOf s p h h.arg0.toNat).run = none →
      ∃ t, exec (.seqEnd q h) s = .next t ∧ s.completes t p h 0x07 0 0 0 ∧ (t.job p j).seqs.has h.arg0.toNat = false)

/-- CMD_REEL_SUBMIT puts its chunk at the end of the queue of the Reel's core, and completes REFUSED for a LEN or MARK that no
chunk may have, else REEL_GONE for a GONE handle;
CMD_REEL_DESTROY refuses a GONE handle and marks a running Reel; REL_SET is in force at once where no step runs, and waits for
the boundary otherwise (R332, R333, R340, R816). -/
def Claims.HostReels : Prop :=
  ∀ (q : Fin 8) (h : CmdHdr) (s : State),
    let p := q.val
    let c := chunkFrom h.payload
    let hd := h.arg0.toNat
    (∀ k, s.takes p 0x0F h → s.cmdIllegal p 0x0F h = false → s.reelLive p c.handle.toNat = true → c.len ≠ 0#16 →
      (c.mark = 0xFFFF#16 ∨ c.mark.toNat < c.len.toNat) → s.reelCore p (hIdx c.handle.toNat) = some k →
      (s.core k).chunkq.length < 64 →
      ∃ t, exec (.cmdReelSubmit q h) s = .next t ∧ s.holdsCmd t p h 0x0F ∧ s.core k = { t.core k with chunkq := (s.core k).chunkq } ∧
        (t.core k).chunkq = (s.core k).chunkq ++ [{ c with
          serial := (s.part p).chunkSerial, cmd := some (s.func p).serial }] ∧ t.mem = s.mem) ∧
    (s.takes p 0x0F h → s.cmdIllegal p 0x0F h = false → c.recAddr = 0#64 →
      (let bad := c.len = 0#16 ∨ (c.mark ≠ 0xFFFF#16 ∧ c.len.toNat ≤ c.mark.toNat)
       bad ∨ s.reelLive p c.handle.toNat = false →
        ∃ t, exec (.cmdReelSubmit q h) s = .next t ∧
          (bad → s.completes t p h 0x0F 4 0 (rlSeq (s.reelRec p (hIdx c.handle.toNat)))) ∧
          (¬ bad → s.completes t p h 0x0F 5 0 (rlSeq (s.reelRec p (hIdx c.handle.toNat)))) ∧ t.cores = s.cores ∧ t.mem = s.mem)) ∧
    (s.takes p 0x10 h → s.cmdIllegal p 0x10 h = false → s.reelLive p hd = false →
      ∃ t, exec (.cmdReelDestroy q h) s = .next t ∧ s.completes t p h 0x10 4 0 0 ∧ s.hostFrame t p) ∧
    (s.takes p 0x10 h → s.cmdIllegal p 0x10 h = false → s.reelLive p hd = true →
      (rlRstate (s.reelRec p (hIdx hd)) = 2 ∨ rlRstate (s.reelRec p (hIdx hd)) = 4) →
      ∃ t, exec (.cmdReelDestroy q h) s = .next t ∧ s.completes t p h 0x10 0 0 0 ∧
        t.reel p (hIdx hd) = { s.reel p (hIdx hd) with destroyPend := true } ∧ t.mem = s.mem) ∧
    (s.takes p 0x11 h → s.cmdIllegal p 0x11 h = false → h.arg1 = 0#64 →
      (∀ y ∈ (s.part p).jobs, y.2.running = none) →
      ∃ t, exec (.relSet q h) s = .next t ∧ s.completes t p h 0x11 0 0 0 ∧ (t.part p).relPend = none ∧
        ∀ d ∈ s.clustersOf p, (t.cl d).policy = BitVec.ofNat 2 h.arg0.toNat ∧ (t.cl d).ckpt = false ∧
          (t.cl d).wdog = BitVec.ofNat 9 h.arg2.toNat) ∧
    (s.takes p 0x11 h → s.cmdIllegal p 0x11 h = false → h.arg1 = 0#64 →
      (∃ y ∈ (s.part p).jobs, y.2.running.isSome = true) →
      ∃ t, exec (.relSet q h) s = .next t ∧ s.completes t p h 0x11 0 0 0 ∧
        (t.part p).relPend = some (h.arg0.toNat, 0, h.arg2.toNat) ∧ ∀ d, (t.cl d).policy = (s.cl d).policy)

/-! ### Confidential partitions -/

/-- ATTEST and MEASURE wait for the signer and the hash engine; SESSION_OPEN on a confidential partition derives the session's
keys, and is REFUSED otherwise; LINK_KEY unwraps the job's key, or is REFUSED when its tag fails; LINK_KEY_ERASE erases it
(R754, R756 to R758, R760, R767, R768). -/
def Claims.HostSecurity : Prop :=
  ∀ (q : Fin 8) (h : CmdHdr) (s : State),
    let p := q.val
    let j := h.job.toNat
    let va := h.arg0.toNat
    let n := h.arg1.toNat
    let x := s.secp p
    let ct := h.payload.take 1568
    let ss := kemDecap s.sec.rs ct
    (s.takes p 0x20 h → s.cmdIllegal p 0x20 h = false →
      ∃ t, exec (.attest q h) s = .next t ∧ s.holdsCmd t p h 0x20 ∧
        t.secp p = { x with signQ := x.signQ ++ [((s.func p).serial, h.payload)] } ∧ t.mem = s.mem) ∧
    (s.takes p 0x21 h → s.cmdIllegal p 0x21 h = false → s.conf p = true → x.session = none →
      ∃ t, exec (.sessionOpen q h) s = .next t ∧ s.completes t p h 0x21 0 0 0 ∧
        t.secp p = { x with
          session := some (shake256 ct), rxCtr := [], txCtr := []
          keys := shake512 (b256 ss ++ ascii "TQ64 SES" ++ [BitVec.ofNat 8 p] ++ b256 (shake256 ct)) }) ∧
    (s.takes p 0x21 h → s.cmdIllegal p 0x21 h = false → (s.conf p = false ∨ x.session.isSome = true) →
      ∃ t, exec (.sessionOpen q h) s = .next t ∧ s.completes t p h 0x21 4 0 0 ∧ s.hostFrame t p) ∧
    (s.takes p 0x22 h → s.cmdIllegal p 0x22 h = false → s.mvPart p va n = false →
      (∀ a ∈ pagesOf va n, s.hostFault p a false = none) →
      ∃ t, exec (.measure q h) s = .next t ∧ s.holdsCmd t p h 0x22 ∧
        t.secp p = { x with hashQ := x.hashQ ++ [((s.func p).serial, va, n, [])] } ∧ t.mem = s.mem) ∧
    (let l := (s.logCl p (s.lead p)).getD 0
     let b := s.vrdN p va (4 * n)
     let kek := shake256 (b256 ss ++ ascii "TQ64 LNK" ++ [BitVec.ofNat 8 p] ++ leBytes 4 j)
     let w := sliceB h.payload 1568 48
     s.takes p 0x23 h → s.cmdIllegal p 0x23 h = false → s.conf p = true → (x.jobKey = none ∨ x.keyJob = j) →
      ceilDiv (64 * n) 65536 ≤ s.clusterRoom p l + ceilDiv (64 * x.peers.length) 65536 →
      s.mvPart p va (4 * n) = false → (∀ a ∈ pagesOf va (4 * n), s.hostFault p a false = none) → s.vbad p va (4 * n) = false →
      ∃ t, exec (.linkKey q h .none) s = .next t ∧
        (∀ k, gcmOpen kek 0#96 [] (w.take 32) (w.drop 32) = some k → s.completes t p h 0x23 0 0 0 ∧ (t.secp p).keyJob = j ∧
          (t.secp p).jobKey = some (BitVec.ofNat 256 (leVal (k.take 32))) ∧
          (t.secp p).peers = (upTo n).map (fun i => BitVec.ofNat 18 (recN b (4 * i) 4)) ∧ t.mem = s.mem) ∧
        (gcmOpen kek 0#96 [] (w.take 32) (w.drop 32) = none → s.completes t p h 0x23 4 0 0 ∧ s.hostFrame t p)) ∧
    (s.takes p 0x24 h → s.cmdIllegal p 0x24 h = false → x.keyJob = j → x.jobKey.isSome = true →
      (∀ c ∈ s.clustersOf p, (s.cl c).fab = []) →
      ∃ t, exec (.linkKeyErase q h) s = .next t ∧ s.completes t p h 0x24 0 0 0 ∧ (t.secp p).jobKey = none ∧
        (t.secp p).peers = [] ∧ (t.secp p).session = x.session ∧ t.mem = s.mem) ∧
    (s.takes p 0x24 h → s.cmdIllegal p 0x24 h = false → (x.keyJob ≠ j ∨ x.jobKey = none) →
      (∀ c ∈ s.clustersOf p, ∀ y ∈ (s.cl c).fab, y.job ≠ some j) →
      ∃ t, exec (.linkKeyErase q h) s = .next t ∧ s.completes t p h 0x24 0 0 0 ∧ s.hostFrame t p)

/-- SIGNER_TURN and HASH_SLOT pass their turn to the next owner, whose oldest request is served: a certificate leaves over EP2,
a range's last piece extends the measurement register and completes its MEASURE. A sealed record that does not verify closes
the session and drains the function; one that does feeds the command stream, where a NOP completes (R754 to R757, R761, R762). -/
def Claims.SecurityTurns : Prop :=
  (∀ (s : State),
    let o := (s.sec.signTurn + 1) % 9
    s.live = true →
    ((s.secp o).signQ = [] →
      exec .signerTurn s = .next { s with sec := { s.sec with signTurn := o } }) ∧
    (∀ n l rest c, (s.secp o).signQ = (n, l) :: rest → o < 8 → (s.func o).cmds = [c] → c.serial = n →
      ∃ t, exec .signerTurn s = .next t ∧ t.sec.signTurn = o ∧ (t.secp o).signQ = rest ∧ (t.func o).cmds = [c] ∧
        (t.func o).in2 = (s.func o).in2 ++ [(n + 1, bulk c.hdr.tag.toNat 0 (s.certificate o l))])) ∧
  (∀ (s : State),
    let o := (s.sec.hashTurn + 1) % 9
    s.live = true →
    ((s.secp o).hashQ = [] →
      exec (.hashSlot .none) s = .next { s with sec := { s.sec with hashTurn := o } }) ∧
    (∀ n va left got rest c, (s.secp o).hashQ = (n, va, left, got) :: rest → (s.func o).cmds = [c] → c.serial = n →
      s.mvPart o va (min 4096 left) = false →
      (∀ a ∈ pagesOf va (min 4096 left), s.hostFault o a false = none) → s.vbad o va (min 4096 left) = false →
      (left ≤ 4096 →
        ∃ t, exec (.hashSlot .none) s = .next t ∧ (t.secp o).hashQ = rest ∧ (t.func o).cmds = [] ∧
          (t.secp o).pm = shake256 (b256 (s.secp o).pm ++ b256 (shake256 (got ++ s.vrdN o va left))) ∧
          (t.secp o).next = (s.secp o).next + 1#64 ∧
          (t.func o).out = queueCompletion (s.func o).out { Completion.init with
            tag := c.hdr.tag, opc := c.opc, tArr := c.tArr, tDone := s.nsW, d0 := (s.secp o).next + 1#64, serial := c.serial,
            cycle := s.cycle }) ∧
      (4096 < left →
        ∃ t, exec (.hashSlot .none) s = .next t ∧ (t.secp o).pm = (s.secp o).pm ∧ (t.func o).cmds = [c] ∧
          (t.secp o).hashQ = (n, va + 4096, left - 4096, got ++ s.vrdN o va 4096) :: rest))) ∧
  (∀ (q : Fin 8) (data : List Byte) (s : State),
    let p := q.val
    s.live = true → s.boot.running = true → s.portOpen = true → (s.func p).st = .operating → (s.func p).cmds = [] →
    s.granted p data.length → (s.secp p).session.isSome = true →
    (∃ t, exec (.sealedRecord q data) s = .next t ∧
      (s.openRecord p data = none →
        (t.func p).st = .draining ∧ (t.secp p).session = none ∧ (t.secp p).keys = 0#512 ∧ t.mem = s.mem)) ∧
    (recN data 4 1 = 0 → (s.secp p).ep1 = [] → (s.secp p).ep2 = [] →
      ∃ t, exec (.sealedRecord q data) s = .next t ∧
        (∀ l, s.openRecord p data = some l → l.length < 64 → (t.secp p).ep1 = l ∧ t.usb.funcs = s.usb.funcs ∧
          (t.secp p).rxCtr.get 0#64 0 = (s.secp p).rxCtr.get 0#64 0 + 1#64) ∧
        (∀ l, s.openRecord p data = some l → l.length = 64 → recBits l 96 12 = 0 → recN l 0 1 = 0 →
          s.cmdIllegal p 0x00 (headerOf l []) = false → s.completes t p (headerOf l []) 0x00 0 0 0 ∧ (t.secp p).ep1 = [] ∧
            (t.secp p).rxCtr.get 0#64 0 = (s.secp p).rxCtr.get 0#64 0 + 1#64)))

/-! ### Management -/

/-- The management commands of Tables HST-9, SEC-3 and REL-5, with opcode and number of arguments. -/
def Claims.mgmtRows : List ((CmdHdr → Instr) × Nat × Nat) := [
  (.partCreate, 0x40, 5), (.partChange, 0x41, 2), (.partDestroy, 0x42, 1), (.partReset, 0x43, 1), (.funcDisable, 0x44, 1),
  (.funcEnable, 0x45, 1), (.usbShare, 0x46, 2), (.flashWrite, 0x47, 2), (.flashRead, 0x48, 2), (.imageBcast, 0x49, 0),
  (.devAttest, 0x4A, 0), (.declare, 0x4B, 2), (.readmit, 0x4C, 2), (.lockstep, 0x4D, 2)]

/-- A management command with a nonzero reserved bit, JOB or unused argument completes FAULTED with ILLEGAL and has no effect;
a device that is no master answers STALL (R615, R623, R636). -/
def Claims.MgmtChecks : Prop :=
  ∀ r ∈ Claims.mgmtRows, ∀ (h : CmdHdr) (s : State),
    (s.takesMgmt → (h.resv = true ∨ h.job ≠ 0#32 ∨ ∃ a ∈ (CmdArgs h).drop r.2.2, a ≠ 0) →
      ∃ t, exec (r.1 h) s = .next t ∧ s.completesMgmt t h r.2.1 2 1 0 ∧ s.mgmtFrame t) ∧
    (s.live = true → s.usb.connected = true → s.dev.master = false →
      exec (r.1 h) s = .next { s with usb := { s.usb with ep0 := [], stall := true } })

/-- The partition commands: PART_CREATE gives a partition its clusters, stacks, budget, share and function; PART_CHANGE its new
masks; PART_DESTROY disables the function and waits for the scrub; PART_RESET ends the work; a taken number or unit and a
partition that does not exist are REFUSED (R70 to R77, R112, R638, R921). -/
def Claims.PartitionCommands : Prop :=
  ∀ (h : CmdHdr) (s : State),
    let p := h.arg0.toNat
    let cl := BitVec.ofNat 8 h.arg1.toNat
    let st := BitVec.ofNat 8 (h.arg1.toNat / 256)
    (s.takesMgmt → mgmtIllegal 0x40 h = false → s.createRefused p cl st h.arg4.toNat = false → s.usbStreams = true →
      ∃ t, exec (.partCreate h) s = .next t ∧ s.completesMgmt t h 0x40 0 0 0 ∧
        t.own p = { clusters := cl, stks := st, conf := decide (h.arg2 = 1#64), v := true } ∧
        (∀ q, q ≠ p → t.own q = s.own q) ∧ (t.func p).st = .operating ∧ (t.func p).cmds = [] ∧
        (t.part p).share = h.arg4.toNat ∧ (t.part p).jobs = [] ∧ (t.part p).lmap = renumber [] cl ∧
        t.gaf.budget.get 0#10 p = BitVec.ofNat 10 h.arg3.toNat ∧ (t.secp p).state = 1#2) ∧
    (s.takesMgmt → mgmtIllegal 0x40 h = false → (s.exists? p = true ∨ ∃ n, n < 8 ∧ cl.getLsbD n = true ∧
        (s.ownerCl n).isSome = true) →
      ∃ t, exec (.partCreate h) s = .next t ∧ s.completesMgmt t h 0x40 4 0 0 ∧ s.mgmtFrame t) ∧
    (s.takesMgmt → mgmtIllegal 0x41 h = false → s.changeRefused p cl st = false → (s.part p).jobs = [] →
      ∃ t, exec (.partChange h) s = .next t ∧ s.completesMgmt t h 0x41 0 0 0 ∧
        t.own p = { clusters := cl, stks := st, conf := (s.own p).conf, v := true } ∧
        (t.part p).allocs = (s.part p).allocs ∧ (t.part p).lmap = renumber (s.part p).lmap cl ∧
        (t.func p).st = (s.func p).st) ∧
    (s.takesMgmt → mgmtIllegal 0x42 h = false → s.exists? p = true → (s.part p).scrubCmd = none → (s.func p).st = .operating →
      (s.func p).cmds = [] →
      ∃ t, exec (.partDestroy h) s = .next t ∧ s.holdsMgmt t h 0x42 ∧ (t.part p).scrubCmd = some s.usb.mgmtSerial ∧
        (t.func p).st = .draining ∧ (t.secp p).session = none ∧ t.own p = s.own p ∧ t.mem = s.mem) ∧
    (s.takesMgmt → mgmtIllegal 0x43 h = false → s.exists? p = true → s.scrubbing p = false → s.settled p →
      (s.func p).cmds = [] →
      (∀ c ∈ s.clustersOf p, ∀ i, i < 9 → (s.core (coreKey c i)).chunkq = [] ∧ (s.core (coreKey c i)).dmaq = [] ∧
        (s.core (coreKey c i)).claims = []) →
      ∃ t, exec (.partReset h) s = .next t ∧ s.completesMgmt t h 0x43 0 0 0 ∧ (t.secp p).session = none ∧
        (∀ c ∈ s.clustersOf p, ∀ i n, i < 9 → (t.thr (coreKey c i) n).st = .free) ∧
        (∀ j, (s.part p).jobs.has j = true → (s.job p j).running.isSome = true → (t.job p j).faulted = true)) ∧
    (∀ r ∈ ([(.partDestroy, 0x42), (.partReset, 0x43), (.funcDisable, 0x44), (.funcEnable, 0x45)] : List ((CmdHdr → Instr) × Nat)),
      s.takesMgmt → mgmtIllegal r.2 h = false → s.exists? p = false →
      ∃ t, exec (r.1 h) s = .next t ∧ s.completesMgmt t h r.2 4 0 0 ∧ s.mgmtFrame t)

/-- FUNC_DISABLE drains a function and FUNC_ENABLE starts one; USB_SHARE sets a share where the sum stays within 64;
FLASH_WRITE writes its range and FLASH_READ answers it; IMAGE_BCAST broadcasts; DEV_ATTEST waits for the signer; DECLARE fences
a core; READMIT makes a quarantined core the spare with an empty store; LOCKSTEP is set (R616, R638, R643, R655, R754, R785,
R809, R854). -/
def Obligations.ManagementCommands : Prop :=
  ∀ (h : CmdHdr) (s : State),
    let p := h.arg0.toNat
    let n := h.arg1.toNat
    (s.takesMgmt → mgmtIllegal 0x44 h = false → s.exists? p = true → (s.func p).st = .operating → (s.func p).cmds = [] →
      ∃ t, exec (.funcDisable h) s = .next t ∧ s.completesMgmt t h 0x44 0 0 0 ∧ (t.func p).st = .draining ∧
        (t.func p).dNs = s.nsW ∧ (t.secp p).session = none) ∧
    (s.takesMgmt → mgmtIllegal 0x45 h = false → s.exists? p = true → s.scrubbing p = false → (s.func p).st = .off →
      (s.part p).scrubCmd = none → s.usbStreams = true →
      ∃ t, exec (.funcEnable h) s = .next t ∧ s.completesMgmt t h 0x45 0 0 0 ∧ (t.func p).st = .operating ∧
        (t.func p).cmds = [] ∧ (t.func p).out = [] ∧ t.usb.evq.find p = none) ∧
    (let rest := (upTo 8).foldl (fun a q => if q = p then a else a + (s.usb.share.get 0#7 q).toNat) 0
     s.takesMgmt → mgmtIllegal 0x46 h = false →
      (rest + n ≤ 64 →
        ∃ t, exec (.usbShare h) s = .next t ∧ s.completesMgmt t h 0x46 0 0 0 ∧ t.usb.share.get 0#7 p = BitVec.ofNat 7 n ∧
          ∀ q, q ≠ p → t.usb.share.get 0#7 q = s.usb.share.get 0#7 q) ∧
      (64 < rest + n → ∃ t, exec (.usbShare h) s = .next t ∧ s.completesMgmt t h 0x46 4 0 0 ∧ s.mgmtFrame t)) ∧
    (s.takesMgmt → mgmtIllegal 0x47 h = false → headerFits h 3 n = true →
      (s.mgmtData h.payload.length).isSome = true →
      (0x1000000 ≤ p → p + n ≤ 0x4000000 →
        ∃ t, exec (.flashWrite h) s = .next t ∧ s.completesMgmt t h 0x47 0 0 0 ∧
          (∀ i, i < n → t.flashRd (p + i) = h.payload.getD (64 + i) 0#8) ∧
          (∀ o, o < p ∨ p + n ≤ o → t.flashRd o = s.flashRd o)) ∧
      (p < 0x1000000 ∨ 0x4000000 < p + n →
        ∃ t, exec (.flashWrite h) s = .next t ∧ s.completesMgmt t h 0x47 4 0 0 ∧ t = { s with usb := t.usb })) ∧
    (s.takesMgmt → mgmtIllegal 0x48 h = false → p + n ≤ 0x4000000 →
      ∃ t, exec (.flashRead h) s = .next t ∧ s.holdsMgmt t h 0x48 ∧ t.flash = s.flash ∧
        t.usb.mgmtIn2 = s.usb.mgmtIn2 ++
          [(s.usb.mgmtSerial + 1, bulk h.tag.toNat 3 ((upTo n).map (fun i => s.flashRd (p + i))))]) ∧
    (s.takesMgmt → mgmtIllegal 0x49 h = false → headerFits h 2 (recN h.payload 8 8) = true →
      (s.mgmtData h.payload.length).isSome = true →
      ∃ t, exec (.imageBcast h) s = .next t ∧ s.completesMgmt t h 0x49 0 0 0 ∧ t.mem = s.mem ∧ t.flash = s.flash ∧
        t.links = (s.sendImage (sliceB h.payload 64 (recN h.payload 8 8))).links) ∧
    (s.takesMgmt → mgmtIllegal 0x4A h = false →
      ∃ t, exec (.devAttest h) s = .next t ∧ s.holdsMgmt t h 0x4A ∧
        (t.secp 8).signQ = (s.secp 8).signQ ++ [(s.usb.mgmtSerial, h.payload)]) ∧
    (∀ c i, s.takesMgmt → mgmtIllegal 0x4B h = false → p = 0 → n = 16 * i + c → c < 8 → i < 9 →
      (s.cl c).pstate.get 0#2 i = 0#2 → (s.core (coreKey c i)).switching = none →
      ∃ t, exec (.declare h) s = .next t ∧ s.completesMgmt t h 0x4B 0 0 0 ∧ t.fencedCore (coreKey c i) = true ∧
        (t.cl c).pepoch.get 0#16 i = nextEpoch ((s.cl c).pepoch.get 0#16 i)) ∧
    (∀ c i, s.takesMgmt → mgmtIllegal 0x4C h = false → p = 0 → n = 16 * i + c → c < 8 → i < 9 →
      (s.cl c).pstate.get 0#2 i = 2#2 → (s.cl c).pepoch.get 0#16 i ≠ 0xFFFF#16 →
      (∀ l, l < 8 → (s.physCore c l).isSome = true) →
      ∃ t, exec (.readmit h) s = .next t ∧ s.completesMgmt t h 0x4C 0 0 0 ∧ (t.cl c).pstate.get 0#2 i = 1#2 ∧
        (∀ a, a < 0x400000 → t.rd (coreStore (coreKey c i) a) = 0#8) ∧
        s.sameOutside t (coreStore (coreKey c i) 0) 0x400000) ∧
    (s.takesMgmt → mgmtIllegal 0x4C h = false → p = 1 →
      ∃ t, exec (.readmit h) s = .next t ∧ s.completesMgmt t h 0x4C 4 0 0 ∧ s.mgmtFrame t) ∧
    (s.takesMgmt → mgmtIllegal 0x4D h = false → s.exists? p = true → (n = 0 ∨ (s.linkUp 6 = true ∧ (s.conf p = true → (s.secp p).jobKey.isSome = true))) →
      ∃ t, exec (.lockstep h) s = .next t ∧ s.completesMgmt t h 0x4D 0 0 0 ∧ (t.part p).lockstep = decide (n = 1))

/-- MGMT_RESULT answers the oldest unread completion; BOOT_STATUS the boot code and the firmware version. At D + 1 ms the
commands of a draining function complete ABANDONED; a drained function stops; its partition's scrub then overwrites its
stores and keys, and its end frees everything and completes the PART_DESTROY (R634, R636, R641, R642, R779, R780). -/
def Claims.FunctionsEnd : Prop :=
  (∀ (s : State) (c : Completion) (rest : List Completion), s.live = true → s.usb.connected = true → s.boot.running = true →
    s.dev.master = true → s.usb.mgmtOut = c :: rest →
    exec .mgmtResult s = .next { s with usb := { s.usb with mgmtOut := rest, ep0 := c.words, stall := false } }) ∧
  (∀ s : State, s.live = true → s.usb.connected = true →
    exec .bootStatus s =
      .next { s with usb := { s.usb with ep0 := [s.bootCode.setWidth 32, s.dev.fwver], stall := false } }) ∧
  (∀ (q : Fin 8) (s : State) (c : HCmd), s.live = true → (s.func q.val).st = .draining →
    (s.func q.val).dNs.toNat + 1000000 ≤ s.ns → (s.func q.val).cmds = [c] → c.started = false →
    ∃ t, exec (.funcDrainTimeout q) s = .next t ∧ (t.func q.val).cmds = [] ∧ (t.func q.val).st = .draining ∧
      (t.func q.val).out = queueCompletion (s.func q.val).out { Completion.init with
        tag := c.hdr.tag, status := 1#8, opc := c.opc, tArr := c.tArr, tDone := s.nsW, serial := c.serial, cycle := s.cycle } ∧ t.mem = s.mem) ∧
  (∀ (q : Fin 8) (s : State), s.live = true → (s.func q.val).st = .draining → (s.func q.val).cmds = [] →
    ((∀ x ∈ (s.func q.val).out, x.req = true) ∨ (s.func q.val).dNs.toNat + 10000000 ≤ s.ns) →
    ∃ t, exec (.funcStop q) s = .next t ∧ (t.func q.val).st = .off ∧ (t.func q.val).out = [] ∧ (t.func q.val).in2 = [] ∧
      t.usb.evq.find q.val = none ∧ (∀ r, r ≠ q.val → t.func r = s.func r) ∧ t.mem = s.mem) ∧
  (∀ (q : Fin 8) (s : State), s.live = true → (s.part q.val).scrubCmd.isSome = true → s.scrubbing q.val = false →
    (s.func q.val).cmds = [] →
    ∃ t, exec (.scrubStart q) s = .next t ∧ (t.secp q.val).state = 2#2 ∧ (t.secp q.val).jobKey = none ∧
      (t.secp q.val).session = none ∧ (t.secp q.val).epoch = (s.secp q.val).epoch + 1#32 ∧
      (∀ c a, c < 8 → (s.own q.val).clusters.getLsbD c = true → a < 0x2000000 → t.rd (clStore c a) = 0#8) ∧
      (∀ c i a, c < 8 → i < 9 → (s.own q.val).clusters.getLsbD c = true → a < 0x400000 →
        t.rd (coreStore (coreKey c i) a) = 0#8)) ∧
  (∀ (q : Fin 8) (s : State) (c : HCmd) (x : Bool × BitVec 8 × BitVec 8), s.live = true → (s.part q.val).scrub = some x →
    (s.part q.val).scrubCmd = some c.serial → s.scrubbing q.val = true → s.usb.mgmtCmds = [c] →
    ∃ t, exec (.scrubDone q) s = .next t ∧ t.own q.val = Own.init ∧ (t.part q.val) = Part.init ∧
      (t.secp q.val).state = 0#2 ∧ (t.func q.val) = Func.init ∧ t.usb.mgmtCmds = [] ∧
      t.usb.mgmtOut = s.usb.mgmtOut ++ [{ Completion.init with
        tag := c.hdr.tag, opc := c.opc, tArr := c.tArr, tDone := s.nsW,
        d0 := BitVec.ofNat 64 (s.ns - (s.part q.val).scrubNs.toNat) }] ∧
      (∀ n a, n < 8 → x.2.2.getLsbD n = true → n * stackBytes ≤ a → a < (n + 1) * stackBytes → t.rd a = 0#8))

/-! ### The USB port and the CSR space -/

/-- The port connects at the speed that training reached, a reset disables every function, a suspended link keeps its state;
the host takes the oldest completion of a function that a burst slot is granted to, and the oldest event record of EP3 (R609 to R617,
R624, R633, R638, R645). -/
def Obligations.UsbEvents : Prop :=
  (∀ (v : BitVec 3) (s : State), s.live = true → s.usb.connected = false → 1 ≤ v.toNat → v.toNat ≤ 5 →
    s.usb.mgmtCmds = [] →
    exec (.usbConnect v) s = .next { s with
      usb := { s.usb with connected := true, speed := v, u3 := false, remoteWake := false, ep0 := [], stall := false }
      pins := { s.pins with vbus := true } }) ∧
  (∀ s : State, s.live = true → (∀ p, p < 8 → (s.func p).cmds = []) →
    ∃ t, exec .usbReset s = .next t ∧ t.usb.connected = false ∧ t.usb.speed = 0#3 ∧ t.cores = s.cores ∧ t.mem = s.mem ∧
      ∀ p, p < 8 →
        ((s.func p).st = .operating → (t.func p).st = .draining ∧ (t.func p).dNs = s.nsW ∧ (t.secp p).session = none) ∧
        ((s.func p).st ≠ .operating → t.func p = s.func p ∧ t.secp p = s.secp p)) ∧
  (∀ s : State, s.live = true → s.usb.connected = true →
    exec .u3Suspend s = .next { s with usb := { s.usb with u3 := true, remoteWake := false } }) ∧
  (∀ (p : Fin 8) (s : State) (c : Completion) (r : List Completion), s.live = true → s.portOpen = true →
    s.funcSends p.val = true → (s.func p.val).out = c :: r → s.usb.mgmtCmds = [] →
    (s.granted p.val 64 →
      ∃ t, exec (.usbInService ⟨p.val, by omega⟩) s = .next t ∧ t.func p.val = { s.func p.val with out := r } ∧
        t.usb.u3 = false ∧ (∀ q, q ≠ p.val → t.func q = s.func q) ∧ t.mem = s.mem) ∧
    (¬ s.granted p.val 64 →
      exec (.usbInService ⟨p.val, by omega⟩) s = .next { s with usb := { s.usb with u3 := false, remoteWake := false } })) ∧
  (∀ (s : State) (e : EventRec) (r : List EventRec), s.live = true → s.usbBulk = true → s.dev.master = true →
    s.usb.evq.get [] 8 = e :: r →
    ∃ t, exec (.usbInService 17) s = .next t ∧ t.usb.evq.get [] 8 = r ∧ t.usb.lost.get 0 8 = 0 ∧
      t.usb.delivered = some { e with lost := BitVec.ofNat 8 (min 255 (s.usb.lost.get 0 8)) } ∧ t.mem = s.mem)

/-- EP0 takes vendor requests. -/
def Claims.ep0 (s : State) : Prop :=
  s.live = true ∧ s.usb.connected = true ∧ s.boot.running = true ∧ s.dev.master = true

/-- CSR_READ of one register of the DEV block answers its value and CSR_WRITE of EPTAB_IDX sets it; a request that is not
aligned or reaches beyond the CSR space answers STALL. IND_DATA reaches the register at IND_ADDR, which AUTOINC steps; an
access to a domain that does not run waits, and completes with NOCLK (R635, R636, R860, R864 to R870, R885). -/
def Obligations.CsrAccesses : Prop :=
  (∀ (off : BitVec 24) (s : State), Claims.ep0 s → off.toNat % 4 = 0 → off.toNat < 0x10000 → dangerChk off.toNat = none →
    exec (.csrRead off 4#16) s = .next { s with usb := { s.usb with ep0 := [s.devRd off.toNat], stall := false } }) ∧
  (∀ s : State, Claims.ep0 s →
    exec (.csrRead 0#24 4#16) s = .next { s with usb := { s.usb with
      ep0 := [BitVec.ofNat 32 (0x5000B040 + 65536 * s.dev.bin.toNat)], stall := false } }) ∧
  (∀ (data : List Byte) (s : State), Claims.ep0 s → data.length = 4 →
    exec (.csrWrite 0x20#24 data) s = .next { s with
      dev := { s.dev with eptabIdx := BitVec.ofNat 18 (recN data 0 4) }, usb := { s.usb with ep0 := [], stall := false } }) ∧
  (∀ (off : BitVec 24) (n : BitVec 16) (data : List Byte) (s : State), Claims.ep0 s →
    ((off.toNat % 4 ≠ 0 ∨ n.toNat % 4 ≠ 0 ∨ n.toNat < 4 ∨ 1024 < n.toNat) →
      exec (.csrRead off n) s = .next { s with usb := { s.usb with ep0 := [], stall := true } }) ∧
    ((off.toNat % 4 ≠ 0 ∨ data.length % 4 ≠ 0 ∨ data.length < 4 ∨ 1024 < data.length) →
      exec (.csrWrite off data) s = .next { s with usb := { s.usb with ep0 := [], stall := true } })) ∧
  (∀ (s : State) (v : W32), s.live = true → s.ethOn = true → (s.bank .mgmt 1).addr = 0#32 →
    ∃ t, exec (.indDataAccess .mgmt 0x60000#24 (some v)) s = .next t ∧
      t.eth = BitVec.ofNat 48 (s.eth.toNat / 2 ^ 32 * 2 ^ 32 + v.toNat) ∧
      (t.bank .mgmt 1).addr = (if (s.bank .mgmt 1).auto then 4#32 else 0#32) ∧ t.dev.crcArmed = false ∧ t.mem = s.mem) ∧
  (∀ (s : State) (v : Option W32), s.live = true → s.ethOn = false → (s.bank .mgmt 1).waiting.length < 8 →
    ∃ t, exec (.indDataAccess .mgmt 0x60000#24 v) s = .next t ∧ t = { s with ind := t.ind } ∧
      t.bank .mgmt 1 = { s.bank .mgmt 1 with waiting := (s.bank .mgmt 1).waiting ++ [v] }) ∧
  (∀ (r : Requester) (blk : BitVec 24) (k : Nat) (s : State) (a : Option W32) (l : List (Option W32)), s.live = true →
    pairOfBase blk.toNat = some k → (s.bank r k).waiting = a :: l →
    ∃ t, exec (.indNoclkTimeout r blk) s = .next t ∧ t = { s with ind := t.ind } ∧ (t.bank r k).waiting = l ∧
      (t.bank r k).noclk = true ∧
      (t.bank r k).addr = (if (s.bank r k).auto then (s.bank r k).addr + 4#32 else (s.bank r k).addr)) ∧
  (∀ (r : Requester) (v : W32) (s : State), s.live = true → (r = .mgmt ∨ r = .devCtl) →
    exec (.regWrite r 0x80#32 v) s = .next { s with dev := { s.dev with crcEn := v.getLsbD 0 } }) ∧
  (∀ (r : Requester) (c : CoreId) (n : BitVec 12) (s : State), s.live = true → (r = .mgmt ∨ r = .devCtl) →
    (s.cl c.cl.val).powered = true → n.toNat < 128 → s.confCl c.cl.val = false → cntListed n.toNat = true →
    ∃ t, exec (.counterLowRead r c n) s = .next t ∧ t = { s with latches := t.latches } ∧
      t.latches.get 0#32 (latchKey r c.key n.toNat) = BitVec.ofNat 32 ((s.counter c.key n.toNat).toNat / 2 ^ 32))

/-- A dangerous register takes a value only through VAL and a CHK word that is its complement within 64 cycles by the same
writer: here EPOCH. Anything else, and a window that ends, discards the value and counts (R871 to R877, R883 to R885). -/
def Obligations.DangerousRegisters : Prop :=
  (∀ (r : Requester) (v : W32) (s : State), s.live = true → (r = .mgmt ∨ r = .devCtl) →
    exec (.dangerValWrite r 0x14#32 v) s = .next { s with
      danger := s.danger.put (dangerKey r 0x14) { val := v, atCyc := s.cycle, ok := false } }) ∧
  (∀ (r : Requester) (v : W32) (s : State) (d : Danger), s.live = true → (r = .mgmt ∨ r = .devCtl) →
    s.danger.find (dangerKey r 0x14) = some d → d.ok = false → s.cycle ≤ d.atCyc + 64 →
    (v = ~~~d.val →
      ∃ t, exec (.dangerChkWrite r 0x14#32 v) s = .next t ∧ t.dev.epoch = d.val.setWidth 16 ∧ t.dev.crcArmed = false ∧
        t.danger.find (dangerKey r 0x14) = none ∧ t.dev.dangerErr = s.dev.dangerErr) ∧
    (v ≠ ~~~d.val →
      ∃ t, exec (.dangerChkWrite r 0x14#32 v) s = .next t ∧ t.dev.epoch = s.dev.epoch ∧
        t.dev.dangerErr = satInc s.dev.dangerErr ∧ t.dev.dangerAddr = 0x14#24 ∧
        t.danger.find (dangerKey r 0x14) = none)) ∧
  (∀ (r : Requester) (s : State) (d : Danger), s.live = true → s.danger.find (dangerKey r 0x14) = some d → d.ok = false →
    d.atCyc + 64 ≤ s.cycle →
    ∃ t, exec (.dangerWindowExpire r 0x14#32) s = .next t ∧ t.dev.epoch = s.dev.epoch ∧
      t.dev.dangerErr = satInc s.dev.dangerErr ∧ t.danger.find (dangerKey r 0x14) = none) ∧
  (∀ s : State, s.live = true → s.dev.crcEn = true → s.gaf.state ≠ 3#3 →
    exec .crcPassStart s = .next { s with dev := { s.dev with crcRun := some s.dev.crcRun.isSome } }) ∧
  (∀ (s : State) (b : Bool), s.live = true → s.dev.crcRun = some b →
    ∃ t, exec .crcPassEnd s = .next t ∧ t.dev.crcRun = none ∧ t.dev.crcLast = s.crcPass ∧ t.dev.crcValid = !b ∧
      t.dev.crcSkip = s.crcSkipNow ∧
      (b = false → s.dev.crcArmed = true → s.crcSkipNow = s.dev.crcRskip → t.dev.crcMatch = (s.crcPass == s.dev.crcRef)) ∧
      (b = true → t.dev.crcMatch = s.dev.crcMatch)) ∧
  (∀ (v : W32) (s : State), s.live = true →
    exec (.cfgCrcRef v) s = .next { s with dev := { s.dev with
      crcRef := v, crcArmed := true, crcRskip := s.dev.crcSkip, crcDrift := false } })

/-! ### The mailbox and the supplier -/

/-- A partition's oldest request, of the given code, is up for decision: it is the partition's turn, no request of it has been
decided in the turn, and no controller waits for room. -/
def Claims.decides (s : State) (p code : Nat) (m : Nat × List Byte) (rest : List (Nat × List Byte)) : Prop :=
  s.live = true ∧ s.boot.running = true ∧ s.mboxTurn = p ∧ s.mboxDone = false ∧ (s.part p).mbox = m :: rest ∧
    mbCode m.2 = code ∧ (∀ c ∈ s.clustersOf p, (s.cl c).ctl.mboxWait = none) ∧ (s.cl m.1).ctl.wfe = none

/-- The request has left the mailbox, and its controller has its answer (R297, R299, R300). -/
def Claims.answered (s t : State) (p : Nat) (m : Nat × List Byte) (rest : List (Nat × List Byte)) (st : Nat) : Prop :=
  (t.part p).mbox = rest ∧ t.mboxDone = true ∧
    (t.cl m.1).ctl.events = (s.cl m.1).ctl.events ++ [eventWord 1 0 0 0 (st + 256 * (mbSerial m.2).toNat)]

/-- CL_GATE and CL_UNGATE begin the transition of their cluster while none is in progress, WAKE raises the state, BP_ARM sets a
breakpoint, PORT_WR and PORT_RD reach a calibration register of an owned TDM port; a request that may not be granted is
answered REFUSED. The turn passes on; a request that it leaves is decided as it ends (R298 to R300, R693, R718, R729, R739, R826,
logs 46 and 58). -/
def Obligations.SupplierDecides : Prop :=
  ∀ (q : Fin 8) (s : State) (m : Nat × List Byte) (rest : List (Nat × List Byte)),
    let p := q.val
    let l := m.2
    let idle : Prop := s.gaf.cur = none ∧ s.gaf.waiting = [] ∧ s.gaf.clTrans = []
    let gates : Bool → Instr := fun on => if on then .clUngate q else .clGate q
    (∀ c, Claims.decides s p 1 m rest → idle → s.physCl p (recN l 8 1) = some c → c < 8 → s.gaf.state.toNat < 2 →
      (s.cl c).powered = true →
      ∃ t, exec (.clGate q) s = .next t ∧ (t.part p).mbox = rest ∧ t.mboxDone = true ∧
        t.gaf.clTrans = [{ Trans.init with
          dev := false, target := 1, gate := 1#8 <<< c, part := p, mbox := some (mbSerial l), mboxCl := m.1,
          asked := [(c + 1, 3#2)], startNs := s.nsW }] ∧ (t.cl c).powered = true) ∧
    (∀ c, Claims.decides s p 2 m rest → idle → s.physCl p (recN l 8 1) = some c → c < 8 → s.gaf.state.toNat < 2 →
      (s.cl c).powered = false →
      ∃ t, exec (.clUngate q) s = .next t ∧ (t.part p).mbox = rest ∧ t.mboxDone = true ∧
        t.gaf.clTrans = [{ Trans.init with
          dev := false, target := 1, rise := 1#8 <<< c, part := p, mbox := some (mbSerial l), mboxCl := m.1,
          rising := true, plan := [16 + c] }]) ∧
    (∀ on : Bool, Claims.decides s p (if on then 2 else 1) m rest →
      (s.physCl p (recN l 8 1) = none ∨ (idle ∧ 2 ≤ s.gaf.state.toNat) →
        ∃ t, exec (gates on) s = .next t ∧ Claims.answered s t p m rest 4 ∧ t.gaf = s.gaf) ∧
      (∀ c, idle → s.physCl p (recN l 8 1) = some c → c < 8 → s.gaf.state.toNat < 2 → (s.cl c).powered = on →
        ∃ t, exec (gates on) s = .next t ∧ Claims.answered s t p m rest 0 ∧ t.gaf = s.gaf)) ∧
    (Claims.decides s p 3 m rest → idle → recN l 8 1 = 1 → recN l 9 1 = 3 → s.gaf.state = 2#3 → s.feedPart = 15 →
      s.pins.mainOff = false → (s.gaf.wakeThr.get 0x8000#16 1).toNat ≤ recN l 12 2 → s.usb.evq.get [] 8 = [] →
      (∀ c, c < 8 → bitsAt (s.trace c).cfg.toNat 20 8 ≠ 1) →
      ∃ t, exec (.wake q) s = .next t ∧ Claims.answered s t p m rest 0 ∧ t.gaf.state = s.gaf.state ∧
        t.gaf.cur = some { Trans.init with target := 0, wake := true, rising := true, plan := s.planRun 0#8 false }) ∧
    (Claims.decides s p 3 m rest → (recN l 8 1 < 1 ∨ 2 < recN l 8 1 ∨ recN l 9 1 ≤ recN l 8 1 ∨ 3 < recN l 9 1) →
      ∃ t, exec (.wake q) s = .next t ∧ Claims.answered s t p m rest 4 ∧ t.gaf = s.gaf) ∧
    (∀ k, Claims.decides s p 4 m rest → recN l 8 1 < 64 → recN l 9 1 ≤ 7 → s.conf p = false →
      s.logKey p (recN l 8 1 / 8 % 8) (recN l 8 1 % 8) = some k →
      ∃ t, exec (.bpArm q) s = .next t ∧ Claims.answered s t p m rest 0 ∧
        (((t.core k).bp.get Bp.init (recN l 9 1)).ctl) = BitVec.ofNat 32 (recN l 12 4) ∧
        (((t.core k).bp.get Bp.init (recN l 9 1)).lo) = BitVec.ofNat 32 (recN l 16 8) ∧
        (∀ n, n ≠ recN l 9 1 → (t.core k).bp.get Bp.init n = (s.core k).bp.get Bp.init n)) ∧
    (Claims.decides s p 5 m rest → recN l 8 1 = 2 → recN l 12 4 % 4 = 0 → 0x3000 ≤ recN l 12 4 → recN l 12 4 < 0x3100 →
      s.tdmPart ((recN l 12 4 - 0x3000) / 64) = p →
      ∃ t, exec (.portWr q) s = .next t ∧ Claims.answered s t p m rest 0 ∧
        t.aud.calib.get 0x4000#32 ((recN l 12 4 - 0x3000) / 4) =
          (if bitsAt (recN l 16 4) 16 8 ≤ 31 then BitVec.ofNat 32 (recN l 16 4) &&& 0x80FFFFFF#32
           else s.aud.calib.get 0x4000#32 ((recN l 12 4 - 0x3000) / 4)) ∧
        (∀ n, n ≠ (recN l 12 4 - 0x3000) / 4 → t.aud.calib.get 0x4000#32 n = s.aud.calib.get 0x4000#32 n)) ∧
    (∀ c o, Claims.decides s p 6 m rest → recN l 8 1 = 2 → recN l 12 4 % 4 = 0 → 0x3000 ≤ recN l 12 4 → recN l 12 4 < 0x3100 →
      s.tdmPart ((recN l 12 4 - 0x3000) / 64) = p → regionOf (recN l 24 8) = .cluster c o → s.ownerCl c = some p →
      recN l 24 8 % 4 = 0 →
      ∃ t, exec (.portRd q) s = .next t ∧ Claims.answered s t p m rest 0 ∧
        t.rdVal (recN l 24 8) 4 = (s.aud.calib.get 0x4000#32 ((recN l 12 4 - 0x3000) / 4)).toNat ∧
        s.sameOutside t (recN l 24 8) 4) ∧
    (∀ r ∈ ([(.portWr, 5), (.portRd, 6)] : List ((Fin 8 → Instr) × Nat)), Claims.decides s p r.2 m rest → 3 ≤ recN l 8 1 →
      ∃ t, exec (r.1 q) s = .next t ∧ Claims.answered s t p m rest 4 ∧ t.mem = s.mem) ∧
    (s.live = true → s.boot.running = true → (s.mboxTurn + 1) % 8 = p →
      (s.mboxDone = true ∨ (s.part s.mboxTurn).mbox = []) →
      ((s.part p).mbox = [] → exec .mboxTurn s = .next { s with mboxTurn := p, mboxDone := false }) ∧
      ((s.part p).mbox = m :: rest → 1 ≤ mbCode l → mbCode l ≤ 6 →
        exec .mboxTurn s = .next { s with mboxTurn := p, mboxDone := false }) ∧
      ((s.part p).mbox = m :: rest → (mbCode l = 0 ∨ 6 < mbCode l) →
        (∀ c ∈ s.clustersOf p, (s.cl c).ctl.mboxWait = none) → (s.cl m.1).ctl.wfe = none →
        ∃ t, exec .mboxTurn s = .next t ∧ Claims.answered s t p m rest 4 ∧ t.mboxTurn = p)) ∧
    (Claims.decides s p 3 m rest → (recN l 8 1 < 1 ∨ 2 < recN l 8 1 ∨ recN l 9 1 ≤ recN l 8 1 ∨ 3 < recN l 9 1) →
      (s.part ((p + 1) % 8)).mbox = [] →
      ∃ t, exec .mboxTurn s = .next t ∧ (t.part p).mbox = rest ∧ t.mboxTurn = (p + 1) % 8 ∧ t.mboxDone = false ∧
        (t.cl m.1).ctl.events = (s.cl m.1).ctl.events ++ [eventWord 1 0 0 0 (4 + 256 * (mbSerial l).toNat)] ∧ t.gaf = s.gaf)

/-! ### HBM -/

/-- A refresh leaves every content; a row repair completes with a spare row or leaves EXHAUSTED; a stack that fails keeps its
bytes but every byte of it is unreadable (R453 to R458). -/
def Obligations.HbmEvents : Prop :=
  (∀ (n : Fin 8) (s : State), s.live = true → (s.stack n.val).state = 2#2 →
    ∃ t, exec (.hbmRefresh n) s = .next t ∧ t = { s with hbm := t.hbm } ∧
      t.stack n.val = { s.stack n.val with refreshes := (s.stack n.val).refreshes + 1 } ∧
      ∀ m, m ≠ n.val → t.stack m = s.stack m) ∧
  (∀ (n : Fin 8) (s : State) (r : Nat × Nat) (l : List (Nat × Nat)), s.live = true → (s.stack n.val).repairing = r :: l →
    (∃ t, exec (.rowRepairDone n true) s = .next t ∧ t = { s with hbm := t.hbm, flash := t.flash } ∧
      t.flash = (s.recordRepair n.val r).flash ∧ (t.stack n.val).repairing = l ∧
      (t.stack n.val).exhausted = (s.stack n.val).exhausted ∧
      ((s.stack n.val).repaired ≠ 0xFF#8 → (t.stack n.val).repaired = (s.stack n.val).repaired + 1#8)) ∧
    (∃ t, exec (.rowRepairDone n false) s = .next t ∧ t = { s with hbm := t.hbm } ∧ (t.stack n.val).repairing = l ∧
      (t.stack n.val).exhausted = true ∧ (t.stack n.val).repaired = (s.stack n.val).repaired)) ∧
  (∀ (n : Fin 8) (s : State), s.live = true → (s.stack n.val).failed = false → (∀ k, s.noTrace k) →
    ∃ t, exec (.stackFail n) s = .next t ∧ t.mem = s.mem ∧ t.cores = s.cores ∧ (t.stack n.val).failed = true ∧
      (∀ a, n.val * stackBytes ≤ a → a < (n.val + 1) * stackBytes → t.badAt a = true) ∧
      (∀ m, m ≠ n.val → (t.stack m).failed = (s.stack m).failed))

/-! ### Power states -/

/-- No transition is in progress or waits. -/
def Claims.still (s : State) : Prop := s.gaf.cur = none ∧ s.gaf.waiting = [] ∧ s.gaf.clTrans = []

/-- A request to the Gaffer in WATCH starts a rise with its steps in order, one to WATCH or LISTEN from RUN or TRIM asks every
block that it touches, and one that meets a transition in progress waits; the state itself does not change yet (R725 to R730,
R735, R739). -/
def Claims.GafferRequests : Prop :=
  (∀ s : State, s.gafLive = true → Claims.still s → s.gaf.state = 2#3 →
    (exec .gafReqRun s = .next { s with gaf := { s.gaf with
      cur := some { Trans.init with target := 0, rising := true, plan := s.planRun 0#8 false } } }) ∧
    (∀ g, exec (.gafReqTrim g) s = .next { s with gaf := { s.gaf with
      cur := some { Trans.init with target := 1, gate := g, rising := true, plan := s.planRun g false } } })) ∧
  (∀ s : State, s.gafLive = true → Claims.still s → s.gaf.state.toNat ≤ 1 →
    let on := bitsMask (s.ownedCl true)
    (∀ w, s.watchPart = some w →
      let gate := on &&& ~~~(bitsMask [s.gaf.watchCl.toNat])
      ∃ t x, exec .gafReqWatch s = .next t ∧ t = { s with gaf := { s.gaf with cur := some x } } ∧ x.target = 2 ∧
        x.gate = gate ∧ x.rising = false ∧ x.startNs = s.nsW ∧ x.asked = (s.hsBlocks 2 gate).map (fun b => (b, 3#2)) ∧
        x.committed = (s.hsBlocks 2 gate).isEmpty) ∧
    (s.watchPart = none →
      exec .gafReqWatch s = .next { s with gaf := { s.gaf with hsReason := 6#3, hsBlock := 0#5, hsAbandon := true } }) ∧
    ∃ t x, exec .gafReqListen s = .next t ∧ t = { s with gaf := { s.gaf with cur := some x } } ∧ x.target = 3 ∧
      x.gate = on ∧ x.rising = false ∧ x.asked = (s.hsBlocks 3 on).map (fun b => (b, 3#2)) ∧ x.committed = false) ∧
  (∀ s : State, s.gafLive = true → s.gaf.cur.isSome = true →
    let waits (x : Trans) : Out := .next { s with gaf := { s.gaf with waiting := s.gaf.waiting ++ [x] } }
    exec .gafReqRun s = waits { Trans.init with target := 0 } ∧
    (∀ g, exec (.gafReqTrim g) s = waits { Trans.init with target := 1, gate := g }) ∧
    exec .gafReqWatch s = waits { Trans.init with target := 2 } ∧
    exec .gafReqListen s = waits { Trans.init with target := 3 })

/-- The handshake: an asked block grants, delays and is asked again as its condition says; when every latest answer is GRANT
the transition commits; a refusal and a timeout record their reason and end it with the state as it was (R730 to R734). -/
def Claims.Handshake : Prop :=
  ∀ (w : Option (Fin 8)) (b : Fin 27) (s : State) (x : Trans), s.gafLive = true → s.trans w = some x → x.committed = false →
    (x.asked.find b.val = some 3#2 → s.hsAnswer x b.val = .grant →
      ∃ t, exec (.hsGrant w b) s = .next t ∧ t = { s with gaf := t.gaf } ∧ t.gaf.state = s.gaf.state ∧
        t.trans w = some { x with
          asked := x.asked.put b.val 1#2
          committed := (x.asked.put b.val 1#2).all (fun y => y.1 == 31 || y.2 == 1#2) }) ∧
    (x.asked.find b.val = some 3#2 → s.hsAnswer x b.val = .delay → b.val ≠ 17 →
      ∃ t, exec (.hsDelay w b) s = .next t ∧ t = { s with gaf := t.gaf } ∧
        t.trans w = some { x with asked := x.asked.put b.val 2#2 }) ∧
    (x.asked.find b.val = some 2#2 →
      ∃ t, exec (.hsReask w b) s = .next t ∧ t = { s with gaf := t.gaf } ∧
        t.trans w = some { x with asked := x.asked.put b.val 3#2 }) ∧
    (s.gaf.waiting = [] →
      (∀ r, x.asked.has b.val = true → s.hsAnswer x b.val = .refuse r →
        ∃ t, exec (.hsRefuse w b) s = .next t ∧ t.gaf.hsReason = BitVec.ofNat 3 r ∧ t.gaf.hsBlock = BitVec.ofNat 5 b.val ∧
          t.gaf.hsAbandon = true ∧ t.gaf.state = s.gaf.state ∧ t.pins = s.pins ∧ (w = none → t.gaf.cur = none) ∧
          (w ≠ none → t.gaf.clTrans.length + 1 ≤ s.gaf.clTrans.length)) ∧
      (x.asked ≠ [] → x.startNs.toNat + 1000000 * s.gaf.hsLimit.toNat ≤ s.ns →
        ∃ t, exec (.hsTimeout w) s = .next t ∧ t.gaf.hsReason = 7#3 ∧ t.gaf.hsBlock = 0#5 ∧ t.gaf.hsAbandon = true ∧
          t.gaf.state = s.gaf.state ∧ t.pins = s.pins ∧ (w = none → t.gaf.cur = none) ∧
          (w ≠ none → t.gaf.clTrans.length + 1 ≤ s.gaf.clTrans.length)))

/-- A committed fall gates its clusters, whose stores read zero, and enters LISTEN with CK_CTL stopped and the rails as
LISTEN_RAILS says. A step of a rise powers its cluster, cleared, with its controller at the image's entry; a bad rail sets
RAILERR and ends the rise; a rise whose steps are done ends (R725 to R727, R732, R735 to R738, R801). -/
def Obligations.FallsAndRises : Prop :=
  (∀ (s : State) (x : Trans), s.gafLive = true → s.trans none = some x → x.committed = true → x.rising = false →
    x.rise = 0#8 → x.dev = true → x.target = 3 → s.gaf.waiting = [] →
    ∃ t, exec (.fallComplete none) s = .next t ∧ t.gaf.state = 3#3 ∧ t.gaf.cur = none ∧ t.pins.clocksOn = false ∧
      t.pins.mainOff = s.gaf.listenRails ∧ t.pins.pwrRet = !s.gaf.listenRails ∧
      (∀ c, c < 8 → x.gate.getLsbD c = true → (t.cl c).powered = false) ∧
      (∀ n, n < 8 → (t.stack n).state ≠ 2#2)) ∧
  (∀ (p : Fin 8) (s : State) (x : Trans), s.gafLive = true → s.trans (some p) = some x → x.committed = true →
    x.rising = false → x.rise = 0#8 → x.dev = false → s.gaf.waiting = [] →
    (∀ q i, (s.reel q i).slots ≠ [] → x.gate.getLsbD (keyCl (s.reel q i).core) = false) →
    ∃ t, exec (.fallComplete (some p)) s = .next t ∧ t.gaf.clTrans.length + 1 ≤ s.gaf.clTrans.length ∧
      (∀ c, c < 8 → x.gate.getLsbD c = true → (t.cl c).powered = false ∧
        (∀ a, a < 0x2000000 → t.rd (clStore c a) = 0#8)) ∧
      (∀ c, c < 8 → x.gate.getLsbD c = false → (t.cl c).powered = (s.cl c).powered)) ∧
  (∀ (w : Option (Fin 8)) (c : Nat) (s : State) (x : Trans) (r : List Nat), s.gafLive = true → s.trans w = some x →
    x.rising = true → x.plan = (16 + c) :: r → c < 8 →
    (s.gaf.railEn.getLsbD c = true →
      ∃ t, exec (.riseStep w true) s = .next t ∧ (t.cl c).powered = true ∧
        (t.cl c).ctl.pc = Config.ctlEntry s.boot.image ∧ (t.cl c).ctl.ecause = 0#8 ∧
        (∀ a, a < 0x2000000 → t.rd (clStore c a) = 0#8) ∧
        (∀ d, d ≠ c → t.cl d = s.cl d)) ∧
    (s.gaf.waiting = [] → s.gaf.heldWake = none → s.gaf.state.toNat ≤ 1 →
      ∃ t, exec (.riseStep w false) s = .next t ∧ t.gaf.railErr = true ∧ t.gaf.state.toNat ≤ 1 ∧
        (w = none → t.gaf.cur = none) ∧
        (∀ d, d < 8 → x.raised.getLsbD d = true → (t.cl d).powered = false))) ∧
  (∀ (w : Option (Fin 8)) (s : State) (x : Trans), s.gafLive = true → s.trans w = some x → x.rising = true → x.plan = [] →
    s.gaf.waiting = [] → s.gaf.heldWake = none →
    ∃ t, exec (.riseEnd w) s = .next t ∧ (w = none → t.gaf.cur = none) ∧
      (w ≠ none → t.gaf.clTrans.length + 1 ≤ s.gaf.clTrans.length) ∧ t.cores = s.cores ∧ t.mem = s.mem)

/-- The next throttle level of R742 from the level, the estimate and the budget. -/
def Claims.throttle (l e b : Nat) : Nat :=
  if b < e then min 15 (l + ceilDiv (16 * (e - b)) e) else if 8 * e ≤ 7 * b then l - 1 else l

/-- A throttle window compares the cluster's share of the estimate with the budget and sets the level; an emergency throttles
every powered cluster at 12 or above and posts EV_THROTTLE once; its exit releases the floor; THERMTRIP stops every clock but
CK_AON and takes the rails away (R741 to R745, R904). -/
def Obligations.Throttling : Prop :=
  (∀ (c : Fin 8) (s : State) (p : Nat), s.live = true → s.ownerCl c.val = some p → (s.cl c.val).powered = true →
    s.gaf.emerg = false →
    let n := (s.clustersOf p).length
    let k := ((s.stacksOf p).filter (fun i => (s.stack i).state != 3#2)).length
    let dyn := (upTo 9).foldl (fun a j => a + (s.core (coreKey c.val j)).winE) 0
    let e := (20 * n + 2 * k) * 20000 * 1000000000 + dyn * n * s.clkMHz c.val
    let b := (s.gaf.budget.get 0#10 p).toNat * 20000 * 1000000000
    ∃ t, exec (.throttleWindow c) s = .next t ∧
      t.gaf.level.get 0#4 c.val = BitVec.ofNat 4 (Claims.throttle (s.gaf.level.get 0#4 c.val).toNat e b) ∧
      (∀ d, d ≠ c.val → t.gaf.level.get 0#4 d = s.gaf.level.get 0#4 d) ∧
      (∀ j, j < 9 → (t.core (coreKey c.val j)).winE = 0)) ∧
  (∀ (v : Byte) (vr : Bool) (s : State), s.live = true → (s.gaf.tempLimit.toNat ≤ v.toNat ∨ vr = true) →
    ∃ t, exec (.emergencyEnter v vr) s = .next t ∧ t.gaf.emerg = true ∧ t.gaf.temp = v ∧
      (∀ c, c < 8 → (s.cl c).powered = true → 12 ≤ (t.gaf.level.get 0#4 c).toNat) ∧
      (∀ c, (s.cl c).powered = false → t.gaf.level.get 0#4 c = s.gaf.level.get 0#4 c) ∧
      (s.gaf.emerg = true → (∀ c, c < 8 → (s.cl c).powered = true → 12 ≤ (s.gaf.level.get 0#4 c).toNat) → t.usb = s.usb)) ∧
  (∀ (v : Byte) (s : State), s.live = true →
    ∃ t, exec (.emergencyExit v) s = .next t ∧ t.gaf.temp = v ∧ t.pins = { s.pins with vrAlert := false } ∧
      t.gaf.emerg = (s.gaf.emerg && !decide (v.toNat + 5 ≤ s.gaf.tempLimit.toNat)) ∧ t.gaf.level = s.gaf.level) ∧
  (∀ (v : Byte) (s : State), s.dbg.freeze = 0#25 → 105 ≤ v.toNat → s.pins.mainOff = false → s.pins.en ≠ 0#13 →
    ∃ t, exec (.thermtrip v) s = .next t ∧
      t.gaf = { s.gaf with temp := v, cur := none, waiting := [], clTrans := [], heldWake := none } ∧
      t.pins = { s.pins with therm := true, clocksOn := false, en := 0#13, mainOff := true, pwrRet := false } ∧
      t.mem = s.mem ∧ t.cores = s.cores ∧ t.usb = s.usb)

/-! ### Links -/

/-- Nothing but one link differs. -/
def Claims.onlyLink (s t : State) (l : Nat) : Prop := t = { s with links := t.links } ∧ ∀ m, m ≠ l → t.link m = s.link m

/-- A flit with the expected number and a good CRC is accepted: the count advances, acknowledged flits leave the replay buffer,
and the unit of a packet not yet whole is kept, or passed on at once where the packet is for another node. A bad codeword, a bad CRC
and a wrong number discard the flit and call for one NAK, which NAK_REPEAT sends again; corrected symbols are counted, and too many
of one lane in a window fail it. A slot sends the first flit to be resent, or a new flit with the oldest packet of its owner, for
which credits are taken (R523 to R531, R534, R539 to R543, R551, R577). -/
def Claims.LinkFlits : Prop :=
  (∀ (l : Fin 7) (m : BitVec 5140) (s : State), s.live = true → s.flitsOn l.val = true → (s.link l.val).worn = [] →
    crcGood m.toNat = true →
    let f := flitOf m.toNat
    let x := s.link l.val
    let kept (t : State) : Prop :=
      (t.link l.val).rxSeq = x.rxSeq + 1#24 ∧ (t.link l.val).discarding = false ∧
      (t.link l.val).nakOut = false ∧ (t.link l.val).sbFree = min 512 (x.sbFree + f.sbcret) ∧
      (t.link l.val).replay = x.replay.filter (fun e => !seqLe e.flit.seq f.ack) ∧
      (t.link l.val).resend = x.resend.filter (fun n => !seqLe n f.ack) ∧
      (t.link l.val).rxCount = BitVec.ofNat 16 (m.toNat / 2 ^ 5120)
    f.seq = x.rxSeq → f.sb = none → f.nak = false → (∀ e ∈ f.cret, 9 < e.1.toNat) →
    (f.units = [] → ∃ t, exec (.flitReceive l [] true m) s = .next t ∧ Claims.onlyLink s t l.val ∧ kept t) ∧
    (∀ c u, f.units = [(c, u)] → 1 ≤ c.toNat → c.toNat ≤ 6 → f.owner.toNat ≤ 8 →
      let key := 8 * f.owner.toNat + c.toNat
      x.part.get [] key = [] → x.skip.get 0 key = 0 → s.leaving l.val c.toNat f.owner.toNat = none →
      (s.transit l.val (packetOf u []) = none → (packetOf u []).len ≠ 0#9 →
        ∃ t, exec (.flitReceive l [] true m) s = .next t ∧ Claims.onlyLink s t l.val ∧ kept t ∧
          (t.link l.val).part.get [] key = [u] ∧ (t.link l.val).rxFree = x.rxFree - 1) ∧
      (∀ o, s.transit l.val (packetOf u []) = some o → o ≠ l.val →
        let k := { packetOf u [] with dl := s.dateline l.val o (packetOf u []).dl }
        ∃ t, exec (.flitReceive l [] true m) s = .next t ∧ t = { s with links := t.links } ∧ kept t ∧
          t.link o = { s.link o with txq := (s.link o).txq ++ [{ TxEnt.init with
            input := l.val, inCls := c.toNat, cls := packetClass k, pkt := k, units := [packetHead k]
            due := packetUnits k.len.toNat - 1 }] }))) ∧
  (∀ (l : Fin 7) (fix : List (Fin 544)) (m : BitVec 5140) (s : State), s.live = true → s.flitsOn l.val = true →
    let x := s.link l.val
    let off (y : Link) : Link := { x with
      discarding := true, nakOut := x.nakOut || !x.discarding, cnt := y.cnt, rxCount := y.rxCount }
    (∃ t, exec (.flitReceive l fix false m) s = .next t ∧ Claims.onlyLink s t l.val ∧ t.link l.val = off (t.link l.val) ∧
      (t.link l.val).cnt.get 0#32 0x104 = satInc (x.cnt.get 0#32 0x104)) ∧
    (x.worn = [] → crcGood m.toNat = false →
      ∃ t, exec (.flitReceive l [] true m) s = .next t ∧ Claims.onlyLink s t l.val ∧ t.link l.val = off (t.link l.val) ∧
        (t.link l.val).cnt.get 0#32 0x108 = satInc (x.cnt.get 0#32 0x108)) ∧
    (x.worn = [] → crcGood m.toNat = true → (flitOf m.toNat).seq ≠ x.rxSeq →
      ∃ t, exec (.flitReceive l [] true m) s = .next t ∧ Claims.onlyLink s t l.val ∧ t.link l.val = off (t.link l.val) ∧
        (t.link l.val).cnt = x.cnt)) ∧
  (∀ (l : Fin 7) (i : Fin 544) (n : Nat) (m : BitVec 5140) (s : State), s.live = true → s.flitsOn l.val = true → 1 ≤ n →
    let x := s.link l.val
    let old := if x.corrWin = BitVec.ofNat 64 (s.ns / 8000) then x.corr.get 0 (x.laneOf i.val) else 0
    ∃ t, exec (.flitReceive l (List.replicate n i) true m) s = .next t ∧
      (t.link l.val).cnt.get 0#32 0x100 = BitVec.ofNat 32 (min (2 ^ 32 - 1) ((x.cnt.get 0#32 0x100).toNat + n)) ∧
      (16 * x.deg.toNat < old + n → Claims.onlyLink s t l.val ∧ (t.link l.val).state = 1#3 ∧
        (t.link l.val).laneOk.getLsbD (x.laneOf i.val) = false ∧ (t.link l.val).rxSeq = x.rxSeq)) ∧
  (∀ (l : Fin 7) (s : State), s.live = true → s.flitsOn l.val = true → (s.link l.val).discarding = true →
    ∃ t, exec (.nakRepeat l) s = .next t ∧ Claims.onlyLink s t l.val ∧ t.link l.val = { s.link l.val with nakOut := true }) ∧
  (∀ (l : Fin 7) (s : State) (n : BitVec 24) (r : List (BitVec 24)) (e : TxFlit), s.live = true → s.flitsOn l.val = true →
    (s.link l.val).resend = n :: r → (s.link l.val).replay.find? (fun y => y.flit.seq == n) = some e → e.sbPkt = none →
    8 ≤ e.flit.owner.toNat →
    let x := s.link l.val
    let f : Flit := { e.flit with ack := x.rxSeq - 1#24, nak := x.nakOut, sb := none }
    ∃ t, exec (.linkSlot l) s = .next t ∧ Claims.onlyLink s t l.val ∧
      t.link l.val = { x with
        resend := r, nakOut := false, slotPos := (x.slotPos + 1) % 64, txMsg := codeword f x.txCount, txCount := x.txCount + 1#16
        replay := x.replay.map (fun y => if y.flit.seq = n then { e with flit := f, count := e.count + 1 } else y) }) ∧
  (∀ (l : Fin 7) (s : State) (c o : Nat) (k : Packet), s.live = true → s.flitsOn l.val = true → (s.link l.val).resend = [] →
    (s.link l.val).replay.length < 256 → (s.link l.val).sbq = [] → (s.link l.val).txCur = [] →
    (s.link l.val).txq = [{ TxEnt.init with input := 7, inCls := c, cls := c, pkt := k, units := packetBits k }] →
    c = packetClass k → c ≠ 0 → k.len = 0#9 → o = packetOwner k →
    o = slotOwner (s.link l.val).slotmap ((s.link l.val).slotPos % 64) → s.scrubbing o = false →
    28 ≤ (s.link l.val).credits o →
    let x := s.link l.val
    ∃ t f, exec (.linkSlot l) s = .next t ∧ (t.link l.val).replay = x.replay ++ [{ TxFlit.init with flit := f }] ∧
      f.seq = x.txSeq ∧ f.owner.toNat = o ∧ f.ack = x.rxSeq - 1#24 ∧ f.nak = x.nakOut ∧
      f.units = [(BitVec.ofNat 3 c, packetHead k)] ∧ f.sb = none ∧ (t.link l.val).txSeq = x.txSeq + 1#24 ∧
      (t.link l.val).txMsg = codeword f x.txCount ∧ (t.link l.val).txCount = x.txCount + 1#16 ∧
      (t.link l.val).txq = [] ∧ (t.link l.val).txCur = [] ∧ (t.link l.val).nakOut = false ∧
      (t.link l.val).holding.find o = some (x.credits o - 1) ∧
      (t.link l.val).slotPos = (x.slotPos + 1) % 64)

/-- A lane that fails stops its link, which retrains; with all lanes good the link comes up on 8, with only one half good on 4,
else it has failed, which a device without coordinates remembers (log 55); what was not acknowledged is sent again. A committed slot map takes effect at the frame boundary (R541,
R577 to R581, R877). -/
def Claims.LinkLanes : Prop :=
  (∀ (l : Fin 7) (lane : Fin 8) (s : State), s.live = true → s.linkUp l.val = true →
    ∃ t, exec (.laneFail l lane) s = .next t ∧ Claims.onlyLink s t l.val ∧
      t.link l.val = { s.link l.val with
        laneOk := (s.link l.val).laneOk &&& ~~~(1#8 <<< lane.val), state := 1#3, trainNs := s.nsW, corr := [],
        cnt := (t.link l.val).cnt } ∧
      (t.link l.val).cnt.get 0#32 0x110 = satInc ((s.link l.val).cnt.get 0#32 0x110)) ∧
  (∀ (l : Fin 7) (ok : Byte) (s : State), s.live = true → (s.link l.val).state = 1#3 → (s.link l.val).en = true →
    s.dev.faultMap.contains (s.dev.node, l.val) = false →
    (ok = 0xFF#8 → ((s.link l.val).lanes = 0#2 ∨ (s.link l.val).full = true) →
      ∃ t, exec (.retrainDone l ok) s = .next t ∧
        Claims.onlyLink { s with dev := { s.dev with early := s.dev.early.filter (fun m => m != l.val) } } t l.val ∧
        t.link l.val = { s.link l.val with
          state := 2#3, laneOk := ok, full := false, discarding := false, nakOut := false, lanes := 0#2, corr := []
          resend := (s.link l.val).replay.map (fun e => e.flit.seq) }) ∧
    (ok.extractLsb' 0 4 = 0xF#4 → ok ≠ 0xFF#8 →
      ∃ t, exec (.retrainDone l ok) s = .next t ∧ (t.link l.val).state = 3#3 ∧ (t.link l.val).lanes = 1#2 ∧
        (t.link l.val).resend = (s.link l.val).replay.map (fun e => e.flit.seq) ∧
        (t.link l.val).cnt.get 0#32 0x114 = satInc ((s.link l.val).cnt.get 0#32 0x114)) ∧
    (ok.extractLsb' 0 4 ≠ 0xF#4 → ok.extractLsb' 4 4 = 0xF#4 →
      ∃ t, exec (.retrainDone l ok) s = .next t ∧ (t.link l.val).state = 4#3 ∧ (t.link l.val).lanes = 2#2) ∧
    (ok.extractLsb' 0 4 ≠ 0xF#4 → ok.extractLsb' 4 4 ≠ 0xF#4 → s.dev.enumerated = false →
      ∃ t, exec (.retrainDone l ok) s = .next t ∧ (t.link l.val).state = 5#3 ∧ (t.link l.val).replay = [] ∧
        (t.link l.val).resend = [] ∧ (t.link l.val).txCur = [] ∧ l.val ∈ t.dev.early)) ∧
  (∀ (l : Fin 7) (s : State) (m : BitVec 256), s.live = true → (s.link l.val).slotmapNew = some m →
    let x := s.link l.val
    let cap (map : BitVec 256) (i : Nat) : Nat := 64 * (if i = 9 then slotsFree map else slotsOf map i)
    ∃ t, exec (.slotmapApply l) s = .next t ∧ Claims.onlyLink s t l.val ∧
      t.link l.val = { x with
        slotmap := m, slotmapNew := none, holding := (t.link l.val).holding, debt := (t.link l.val).debt
        short := (t.link l.val).short } ∧
      (x.debt = [] → x.short = [] → (∀ i, i < 10 → cap x.slotmap i ≤ x.credits i + cap m i) →
        (t.link l.val).debt = [] ∧ (t.link l.val).short = [] ∧
        ∀ i, i < 10 → (t.link l.val).credits i = cap m i - (cap x.slotmap i - x.credits i)))

/-! ### Packets -/

/-- A packet of a type arrives on a torus link for this device, with the current epoch of its source. -/
def Claims.arrives (s : State) (l : Fin 7) (k : Packet) (ty : BitVec 4) : Prop :=
  s.live = true ∧ s.linkUp l.val = true ∧ l.val < 6 ∧ k.type = ty ∧ k.pair = false ∧ k.dst = s.dev.node ∧
    s.epochOk k = true

/-- The state in which a data packet acts: its bytes have counted for its partition. -/
def Claims.counted (s : State) (l : Fin 7) (k : Packet) : State :=
  s.updPart k.part.toNat (fun x => { x with linkRx := x.linkRx.upd 0 l.val (fun n => n + k.len.toNat) })

/-- A packet of this device, as it stands in the queue of the link by which it leaves. -/
def Claims.leaves (k : Packet) : TxEnt :=
  { TxEnt.init with input := 7, inCls := packetClass k, cls := packetClass k, pkt := k, units := packetBits k }

/-- A response to a request, of the given type, as it stands in the queue of the link by which it leaves; its data end with zeros at
a multiple of 16 bytes. -/
def Claims.answer (s : State) (o : Nat) (k : Packet) (ty : BitVec 4) (st fc : Nat) (data : List Byte) : TxEnt :=
  Claims.leaves { Packet.init with
    type := ty, part := k.part, dst := k.src, src := s.dev.node, epoch := s.dev.epoch, tid := k.tid
    status := BitVec.ofNat 8 st, fcode := BitVec.ofNat 8 fc, len := BitVec.ofNat 9 (pad16 data).length, data := pad16 data
    dl := s.dateline 7 o false }

/-- A request to a plain partition is performed and answered at once by the route to its source: RD with the bytes read, WR
after its bytes are written, NOTIFY after its 8-byte word has become the greater of the word and VALUE; REFUSED when the
partition does not exist, and FAULTED when the access faults. A STREAM packet is written and not answered (R533, R550, R558 to
R560, R564, R574, R575). -/
def Claims.FabricRequests : Prop :=
  ∀ (l : Fin 7) (k : Packet) (s : State) (o : Nat),
    let p := k.part.toNat
    let va := k.addr.toNat
    let n := k.len.toNat
    let a := Claims.counted s l k
    let plain : Prop := s.exists? p = true ∧ s.conf p = false
    let way : Prop := k.src ≠ s.dev.node ∧ s.dev.quar = false ∧ s.route k.src.toNat = some (some o)
    (Claims.arrives s l k 0#4 → plain → way → a.mvPart p va n = false →
      (∀ d, a.hostRead p va n = .inl d →
        ∃ t, exec (.rd l k .none) s = .next t ∧ t = { a with links := t.links } ∧
          t.link o = { a.link o with txq := (a.link o).txq ++ [Claims.answer s o k 3#4 0 0 d] }) ∧
      (∀ f, a.hostRead p va n = .inr f →
        ∃ t, exec (.rd l k .none) s = .next t ∧ t.mem = a.mem ∧ t.cores = a.cores ∧ t.clusters = a.clusters ∧
          t.link o = { a.link o with txq := (a.link o).txq ++ [Claims.answer s o k 3#4 2 f []] })) ∧
    (Claims.arrives s l k 1#4 → plain → way → a.mvPart p va n = false →
      ∀ w, a.hostWrite p va (k.data.take n) = (w, none) → w.link o = a.link o → w.dev = s.dev →
        ∃ t, exec (.wr l k .none) s = .next t ∧ t = { w with links := t.links } ∧
          t.link o = { a.link o with txq := (a.link o).txq ++ [Claims.answer s o k 4#4 0 0 []] }) ∧
    (Claims.arrives s l k 2#4 → plain → way → a.mvPart p va 8 = false → va % 8 = 0 → a.hostFault p va true = none →
      a.vbad p va 8 = false →
      ∃ t, exec (.notify l k .none) s = .next t ∧
        t.mem = (a.vwr p va (leBytes 8 (max (a.vrdVal p va 8) k.value.toNat))).mem ∧ t.usb = s.usb ∧ t.clusters = s.clusters ∧
        t.link o = { s.link o with txq := (s.link o).txq ++ [Claims.answer s o k 4#4 0 0 []] }) ∧
    (Claims.arrives s l k 0#4 → way → s.exists? p = false → s.conf 8 = false →
      ∃ t, exec (.rd l k .none) s = .next t ∧ t.mem = s.mem ∧
        t.link o = { s.link o with txq := (s.link o).txq ++ [Claims.answer s o k 3#4 4 0 []] }) ∧
    (Claims.arrives s l k 5#4 → plain → a.mvPart p va n = false →
      (pagesOf va n).findSome? (fun x => a.hostFault p x true) = none →
      exec (.stream l k .none) s = .next (a.hostWrite p va (k.data.take n)).1)

/-- No fabric command of a partition has a packet left to send, and each waits for a response. -/
def Claims.fabStill (s : State) (p : Nat) : Prop :=
  ∀ c ∈ s.clustersOf p, ∀ y ∈ (s.cl c).fab, y.left = [] ∧ y.sent ≠ []

/-- A response takes its request off the one command of its cluster that sent it; when none is outstanding the command
completes, and leaves its engine. Read data are written at LVA. A response that matches no request is dropped (R558, R560). -/
def Claims.FabricResponses : Prop :=
  ∀ (l : Fin 7) (k : Packet) (s : State),
    let p := k.part.toNat
    let a := Claims.counted s l k
    Claims.fabStill s p →
    (∀ (c : Nat) (x : FabCmd) (off n : Nat),
      let b := a.updFab c x.serial (fun z => { z with sent := z.sent.filter (fun w => w.1 != k.tid.toNat) })
      a.findFab p k = some (c, x) → x.sent = [(k.tid.toNat, off, n)] →
      x.failed = none → fbCpl x.desc = 0 → s.conf p = false → k.status = 0#8 →
      (∀ y ∈ (s.cl c).fab, y.serial = x.serial → y = x) → s.ownerCl c = some p →
      (Claims.arrives s l k 3#4 → a.mvPart p ((fbLva x.desc + off) % 2 ^ 64) n = false →
        ∀ w, b.hostWrite p ((fbLva x.desc + off) % 2 ^ 64) (k.data.take n) = (w, none) → w.clusters = b.clusters →
          w.sec = b.sec → w.dev = b.dev →
          ∃ t, exec (.rdata l k .none) s = .next t ∧ t.mem = w.mem ∧
            (t.cl c).fab = (s.cl c).fab.filter (fun z => z.serial != x.serial)) ∧
      (Claims.arrives s l k 4#4 →
        ∃ t, exec (.ackr l k) s = .next t ∧ t = { a with clusters := t.clusters } ∧
          (t.cl c).fab = (s.cl c).fab.filter (fun z => z.serial != x.serial) ∧
          ∀ d, d ≠ c → t.cl d = s.cl d)) ∧
    (a.findFab p k = none → s.conf p = false →
      (Claims.arrives s l k 3#4 → exec (.rdata l k .none) s = .next a) ∧
      (Claims.arrives s l k 4#4 → exec (.ackr l k) s = .next a))

/-- A packet is for this device: on a torus link by its destination or as a broadcast, over PR from the twin. -/
def Claims.forThis (s : State) (l : Fin 7) (k : Packet) : Prop :=
  (l.val < 6 ∧ k.pair = false ∧ k.dst = s.dev.node ∧ (k.dst ≠ masterNode ∨ s.dev.master = true)) ∨
    (l.val < 6 ∧ k.pair = false ∧ k.type = 6#4 ∧ k.bc = true) ∨ (l.val = 6 ∧ k.pair = true ∧ k.src = s.dev.node)

/-- The command that stands for the arrival of a packet. -/
def Claims.arrival (i : Instr) (l : Fin 7) (k : Packet) : Prop :=
  (∃ e, (i = .rd l k e ∧ k.type = 0#4) ∨ (i = .wr l k e ∧ k.type = 1#4) ∨ (i = .notify l k e ∧ k.type = 2#4) ∨
    (i = .rdata l k e ∧ k.type = 3#4) ∨ (i = .stream l k e ∧ k.type = 5#4)) ∨ (i = .ackr l k ∧ k.type = 4#4) ∨
    (k.type = 6#4 ∧ ((i = .enum l k ∧ k.sub = 0#5) ∨ (i = .report l k ∧ k.sub = 1#5) ∨ (i = .geom l k ∧ k.sub = 2#5) ∨
      (i = .image l k ∧ k.sub = 3#5) ∨ (i = .csrRd l k ∧ k.sub = 4#5) ∨ (i = .csrWr l k ∧ k.sub = 5#5) ∨
      (i = .launch l k ∧ k.sub = 6#5) ∨ (i = .faultmap l k ∧ k.sub = 7#5) ∨ (i = .mgmtFence l k ∧ k.sub = 8#5))) ∨
    (k.type = 7#4 ∧ ((i = .syncRequest l k ∧ k.sub = 0#5) ∨ (i = .syncResponse l k ∧ k.sub = 1#5)))

/-- A packet whose EPOCH is not that of its SRC in the epoch table is dropped: it is counted in EPOCH_DROP of its link, EV_FENCE
goes to the management owner, and nothing that it names is touched; a LAUNCH of the master's own is no arrival (R566, log 36). -/
def Obligations.StaleEpochDrops : Prop :=
  ∀ (i : Instr) (l : Fin 7) (k : Packet) (s : State), s.live = true → s.linkUp l.val = true → Claims.forThis s l k →
    Claims.arrival i l k → k.epoch ≠ s.dev.eptab.get 0#16 k.src.toNat → (∀ c, s.noTrace c) →
    ¬ (k.type = 6#4 ∧ k.sub = 6#5 ∧ s.dev.master = true ∧ fromMaster k = true) →
    ∃ t, exec i s = .next t ∧ t.mem = s.mem ∧ t.cores = s.cores ∧ t.clusters = s.clusters ∧ t.dev = s.dev ∧ t.time = s.time ∧
      t.boot = s.boot ∧ (t.link l.val).cnt.get 0#32 0x118 = satInc ((s.link l.val).cnt.get 0#32 0x118) ∧
      ((s.usb.evq.get [] 8).length < 256 → ∃ e, e ∈ t.usb.evq.get [] 8 ∧ e.code = 6#8 ∧ e.dev = true)

/-- The engine of a cluster takes the descriptor at HEAD when its OP is the row's: HEAD advances, and the command is
outstanding with its one packet queued on the route to its node; one with a reserved OP ends at once (R555 to R561, R564, log 64). A
request unanswered for 1 ms ends its command, and what a READ, or a WRITE to the device itself, wrote is undefined (R107, R563). -/
def Obligations.FabricCommands : Prop :=
  (∀ (c : Fin 8) (s : State) (p op o : Nat) (data : List Byte),
    let base := (s.cl c.val).fqBase.toNat
    let n := max 1 (s.cl c.val).fqSize.toNat
    let head := s.rdVal (base + 8) 8
    let d := s.rdN (base + 64 + 64 * (head % n)) 64
    let i := (s.cl c.val).fabSerial
    let len := if op = 2 then 0 else fbLen d
    let node : BitVec 18 := BitVec.ofNat 18 (fbNode d)
    let x : FabCmd := { FabCmd.init with serial := i, desc := d, dstNode := node, job := s.fabJob p c.val }
    let h := s.wrVal (base + 8) 8 ((head + 1) % n)
    let a := h.updCl c.val (fun y => { y with fabSerial := i + 1, fab := y.fab ++ [x] })
    let tid := ((s.secp p).txCount.get 0#64 node.toNat).toNat
    s.live = true → s.ownerCl c.val = some p → s.dev.quar = false → (s.cl c.val).powered = true → s.scrubbing p = false →
    base / 0x4000000 = clStore c.val 0 / 0x4000000 → head % n ≠ s.rdVal base 8 % n →
    (∀ y ∈ (s.cl c.val).fab, y.serial ≠ i ∧ y.left = [] ∧ y.sent ≠ []) →
    (op ≤ 2 → fbOp d = op → fbPair d = false → node ≠ s.dev.node → s.conf p = false →
      s.route (fbNode d) = some (some o) → (op ≤ 1 → 1 ≤ fbLen d ∧ fbLen d ≤ 256) →
      (op = 0 → s.mvPart p (fbLva d) (fbLen d) = false ∧ a.hostRead p (fbLva d % 2 ^ 64) (fbLen d) = .inl data) →
      (op ≠ 0 → data = List.replicate len 0#8) → s.tidBusy p node = false → a.fabHeld c.val x = false →
      let k : Packet := { Packet.init with
        type := if op = 0 then 1#4 else if op = 1 then 0#4 else 2#4, part := BitVec.ofNat 3 p
        dst := node, src := s.dev.node, epoch := s.dev.epoch, tid := BitVec.ofNat 16 tid
        addr := BitVec.ofNat 48 (fbRva d), value := BitVec.ofNat 64 (if op = 2 then fbValue d else 0), len := BitVec.ofNat 9 len
        data := data, dl := s.dateline 7 o false }
      ∃ t, (op = 0 → exec (.fabricWrite c .none) s = .next t) ∧ (op = 1 → exec (.fabricRead c) s = .next t) ∧
        (op = 2 → exec (.fabricNotify c) s = .next t) ∧ t.mem = h.mem ∧
        (t.cl c.val).fabSerial = i + 1 ∧ (t.cl c.val).fab = (s.cl c.val).fab ++ [{ x with
          sent := [((BitVec.ofNat 16 tid).toNat, 0, len)] }] ∧
        (t.link o).txq = (s.link o).txq ++ [Claims.leaves k]) ∧
    (∀ g ∈ ([(fun c => .fabricWrite c .none), .fabricRead, .fabricNotify] : List (Fin 8 → Instr)), 2 < fbOp d → fbCpl d = 0 →
      ∃ t, exec (g c) s = .next t ∧ t.mem = h.mem ∧ (t.cl c.val).fabSerial = i + 1 ∧ (t.cl c.val).fab = (s.cl c.val).fab ∧
        t.links = s.links)) ∧
  (∀ (c : Fin 8) (s : State) (p : Nat) (x : FabCmd) (n : Nat), s.live = true → s.ownerCl c.val = some p →
    (s.cl c.val).fab.find? (fun y => y.serial == n) = some x → (∃ y ∈ x.sent, ∃ a, x.sentAt.find y.1 = some a ∧ a + 1000000 ≤ s.ns) →
    (∀ y ∈ (s.cl c.val).fab, y.serial ≠ n → y.left = [] ∧ y.sent ≠ []) →
    let f := s.fabOpen p x
    ∃ t, exec (.fabricReqTimeout c n) s = .next t ∧ (t.cl c.val).fab = (s.cl c.val).fab.filter (fun y => y.serial != n) ∧
      (fbCpl x.desc = 0 → t.mem = f.mem) ∧
      (fbCpl x.desc ≠ 0 →
        t.mem = ((f.withdraw c.val n).putPart p (fbCpl x.desc) (leBytes 8 (dmaStatus stAbandoned 0).toNat)).mem))

/-! ### Management packets -/

/-- A management packet of the master arrives at a follower, for it alone. -/
def Claims.orders (s : State) (l : Fin 7) (k : Packet) (sub : BitVec 5) : Prop :=
  Claims.arrives s l k 6#4 ∧ k.sub = sub ∧ k.bc = false ∧ k.src = masterNode ∧ s.dev.node ≠ masterNode ∧ s.dev.master = false

/-- A sideband packet of this device, as it stands in the queue of a link. -/
def Claims.side (x : Link) (k : Packet) : SbEnt := { SbEnt.init with input := 7, id := x.sbNum + 1, pkt := k }

/-- ENUM gives a device its coordinates and goes on in its ring; a REPORT reaches the master; GEOM gives the sizes and the
neighbours; IMAGE, CSR_RD, CSR_WR, LAUNCH, FAULTMAP and FENCE of the master act on a follower (R568 to R571, R582, R605 to R607,
R808, R809). Where the packets carry their operands is the model's choice (log 36). -/
def Claims.ManagementPackets : Prop :=
  (∀ (l : Fin 7) (k : Packet) (s : State) (x : Nat), s.live = true → l.val = 1 → s.linkUp 1 = true → s.linkUp 2 = true →
    s.linkUp 4 = true → k.type = 6#4 → k.sub = 0#5 → k.pair = false → k.bc = false → s.epochOk k = true →
    s.dev.enumerated = false → s.dev.geom = false → s.dev.master = false → s.dev.quar = false → s.dev.early = [] → 1 ≤ x → x < 64 →
    k.dst = BitVec.ofNat 18 (4096 * x) →
    ∃ t, exec (.enum l k) s = .next t ∧ t.dev.node = k.dst ∧ t.dev.enumerated = true ∧
      (t.link 0).sbq = (s.link 0).sbq ++ [Claims.side (s.link 0) { Packet.init with
        type := 6#4, dst := BitVec.ofNat 18 (4096 * ((x + 1) % 64)), src := k.dst, epoch := s.dev.epoch }]) ∧
  (∀ (l : Fin 7) (k : Packet) (s : State), Claims.arrives s l k 6#4 → k.sub = 1#5 → k.bc = false → s.dev.master = true →
    s.dev.geom = true → mgmtWord k < 2 ^ 18 →
    exec (.report l k) s = .next { s with dev := { s.dev with
      reports := s.dev.reports.put k.src.toNat (BitVec.ofNat 18 (mgmtWord k)) } }) ∧
  (∀ (l : Fin 7) (k : Packet) (s : State), Claims.orders s l k 2#5 →
    ∃ t, exec (.geom l k) s = .next t ∧ t.dev = { s.dev with sizes := BitVec.ofNat 18 (mgmtWord k), geom := true } ∧
      (∀ m, m < 6 → (t.link m).peer = BitVec.ofNat 18
        (withCoord s.node (m / 2) (ringNext (t.ringSize (m / 2)) (coord s.node (m / 2)) (m % 2 == 0)))) ∧
      (t.link 6).peer = s.dev.node ∧ t.time.state = 3#3 ∧ t.time.slate = s.time.slate ∧ t.cores = s.cores) ∧
  (∀ (l : Fin 7) (k : Packet) (s : State), Claims.orders s l k 3#5 → s.wantsImage = true → s.dev.bootSrc = true →
    k.addr = 0#48 → k.data.length ≤ 256 →
    let stored (t : State) (d : List Byte) : Prop := t.rdN (clStore 0 0) d.length = d ∧ s.sameOutside t (clStore 0 0) d.length
    (12 ≤ k.data.length → recN k.data 8 4 ≤ k.data.length →
      let d := k.data.take (recN k.data 8 4)
      ∃ t, exec (.image l k) s = .next t ∧ stored t d ∧ t.usbData = [] ∧ t.boot = { s.boot with image := d } ∧
        t.dev = { s.dev with boot := 2#4 }) ∧
    (k.data.length < 12 ∨ k.data.length < recN k.data 8 4 →
      ∃ t, exec (.image l k) s = .next t ∧ stored t k.data ∧ t.usbData = k.data ∧ t.boot = s.boot ∧
        t.dev = { s.dev with boot := 1#4 })) ∧
  (∀ (l : Fin 7) (k : Packet) (s : State) (o : Nat), Claims.orders s l k 4#5 → k.addr = BitVec.ofNat 48 csrBase →
    s.dev.quar = false → s.route 0 = some (some o) →
    ∃ t, exec (.csrRd l k) s = .next t ∧ t = { s with links := t.links } ∧
      t.link o = { s.link o with
        sbNum := (s.link o).sbNum + 1
        sbq := (s.link o).sbq ++ [Claims.side (s.link o) { Packet.init with
          type := 6#4, sub := 4#5, dst := masterNode, src := s.dev.node, epoch := s.dev.epoch, tid := k.tid, addr := k.addr
          len := 16#9, dl := s.dateline 7 o false
          data := leBytes 16 (0x5000B040 + 65536 * s.dev.bin.toNat) }] }) ∧
  (∀ (l : Fin 7) (k : Packet) (s : State), Claims.orders s l k 5#5 → k.addr = BitVec.ofNat 48 (csrBase + 0x20) →
    exec (.csrWr l k) s = .next { s with dev := { s.dev with eptabIdx := BitVec.ofNat 18 (mgmtWord k) } }) ∧
  (∀ (l : Fin 7) (k : Packet) (s : State),
    let p := k.part.toNat
    let j := recN k.data 0 4
    let n := recN k.data 8 8
    let x := s.job p j
    let done (t : State) (st : Nat) : Prop := (t.cl (s.lead p)).ctl.events =
      (s.cl (s.lead p)).ctl.events ++ [eventWord 3 0 0 st 0]
    Claims.orders s l k 6#5 → s.exists? p = true → (s.cl (s.lead p)).ctl.wfe = none →
    (s.time.state ≠ 0#3 → (s.part p).jobs.has j = true → x.kind = 0#2 → s.mayLaunch p j = true → s.scrubbing p = false →
      s.ns < n →
      ∃ t, exec (.launch l k) s = .next t ∧ t = { s with parts := t.parts } ∧ t.job p j = { x with
        running := some 0, argBlk := k.addr.setWidth 64, faulted := false, again := false, late := 0#64, launched := true
        changed := [], wrote := [], moved := false, fcode := 0#8, startAt := some (BitVec.ofNat 64 n) }) ∧
    (s.time.state = 0#3 ∨ (s.part p).jobs.has j = false ∨ x.kind ≠ 0#2 ∨ s.mayLaunch p j = false ∨ s.scrubbing p = true →
      ∃ t, exec (.launch l k) s = .next t ∧ done t 4 ∧ t = { s with clusters := t.clusters })) ∧
  (∀ (l : Fin 7) (k : Packet) (s : State), Claims.orders s l k 7#5 → (∀ c, c < 8 → (s.cl c).fab = []) →
    let node := BitVec.ofNat 18 (mgmtWord k)
    let lk := bitsAt (mgmtWord k) 20 3
    let m := s.dev.faultMap.filter (fun x => x != (node, lk))
    exec (.faultmap l k) s = .next { s with dev := { s.dev with
      faultMap := if bitAt (mgmtWord k) 31 then m else m ++ [(node, lk)] } }) ∧
  (∀ (l : Fin 7) (k : Packet) (s : State), Claims.orders s l k 8#5 →
    (k.value = 0#64 → ∃ t, exec (.mgmtFence l k) s = .next t ∧ t.dev.quar = true ∧ t.dev.epoch = s.dev.epoch ∧
      ∀ p, p < 8 → s.exists? p = true → (t.secp p).session = none ∧ ∀ c ∈ s.clustersOf p, (t.cl c).fab = []) ∧
    (k.value = 1#64 → ∃ t, exec (.mgmtFence l k) s = .next t ∧ t.dev.quar = false ∧ t.dev.epoch = k.addr.setWidth 16 ∧
      t.dev.eptab.get 0#16 s.dev.node.toNat = k.addr.setWidth 16 ∧ ∀ p, p < 8 → t.exists? p = false))

/-- A follower drops and counts what only the master may send (R570). -/
def Claims.MasterOnly : Prop :=
  ∀ (l : Fin 7) (k : Packet) (s : State), Claims.arrives s l k 6#4 → k.bc = false → k.src ≠ masterNode →
    s.dev.node ≠ masterNode → s.dev.master = false →
    ∀ i : Instr, (i = .image l k ∧ k.sub = 3#5) ∨ (i = .csrRd l k ∧ k.sub = 4#5) ∨ (i = .csrWr l k ∧ k.sub = 5#5) ∨
        (i = .launch l k ∧ k.sub = 6#5) ∨ (i = .faultmap l k ∧ k.sub = 7#5) ∨ (i = .mgmtFence l k ∧ k.sub = 8#5) →
      ∃ t, exec i s = .next t ∧ Claims.onlyLink s t l.val ∧
        t.link l.val = { s.link l.val with cnt := (t.link l.val).cnt } ∧
        (t.link l.val).cnt.get 0#32 0x120 = satInc ((s.link l.val).cnt.get 0#32 0x120)

/-! ### Time -/

/-- A write of TIME.CTL sets the source and the parent: no source gives FREE with the nominal increment; a device that was
never LOCKED acquires, and one whose source changes holds over; ALLOW_STEP acquires; Slate itself does not change. The reserved
source is rejected. Offsets that no longer come give HOLDOVER (R586, R589, R590, R863, R889). -/
def Claims.TimeSource : Prop :=
  (∀ (v : W32) (s : State), s.live = true →
    let src := v.extractLsb' 0 2
    let par := v.extractLsb' 2 3
    let chg : Bool := (src != s.time.src && src != 0#2) || par != s.time.parent
    let kept (t : State) : Prop := t.time.src = src ∧ t.time.parent = par ∧ t.time.slate = s.time.slate ∧ t.mem = s.mem
    (src ≠ 3#2 → v.getLsbD 5 = false → (chg = true → ∀ c, s.noTrace c) →
      ∃ t, exec (.timeCtlWrite v) s = .next t ∧ kept t ∧
        t.time.state = (if src = 0#2 then 4#3 else if s.time.everLocked = false then 0#3 else if chg then 3#3 else s.time.state) ∧
        t.time.inc = (if src = 0#2 then 0xD5555555#32 else s.time.inc)) ∧
    (src ≠ 3#2 → ∃ t, exec (.allowStep v) s = .next t ∧ kept t ∧ t.time.state = 0#3 ∧ t.time.inc = s.time.inc) ∧
    (src = 3#2 → ∃ t, exec (.timeCtlWrite v) s = .next t ∧ t.time = s.time ∧ t.dev.csrRej = satInc s.dev.csrRej)) ∧
  (∀ s : State, s.live = true →
    (s.time.src ≠ 0#2 → s.time.state ≠ 4#3 →
      ∃ t, exec .holdoverTimeout s = .next t ∧ t.time = { s.time with state := 3#3, goodRun := 0, badRun := 0 } ∧
        t.cores = s.cores) ∧
    (s.time.src = 0#2 ∨ s.time.state = 4#3 → exec .holdoverTimeout s = .next s))

/-- An offset of firmware drives the servo while the source is PTP: in ACQUIRE one beyond the step threshold moves Slate at
once; any other gives the increment of the proportional and integral terms, within its limits. Sixteen small offsets in a row
lock, four large ones unlock (R589, R590, R593). -/
def Claims.TimeServo : Prop :=
  ∀ (hi : W32) (s : State), s.live = true →
    let th := (hi ++ s.time.ptpLo).toInt
    let good : Bool := decide (th.natAbs ≤ 1024)
    let gr := if good then s.time.goodRun + 1 else 0
    let br := if good then 0 else s.time.badRun + 1
    let next (b : BitVec 3) : BitVec 3 := if b = 2#3 then (if 4 ≤ br then 1#3 else b) else if 16 ≤ gr then 2#3 else b
    (s.time.src = 1#2 → (s.time.state = 0#3 ∨ s.time.state = 1#3 ∨ s.time.state = 2#3) →
      (s.time.state = 0#3 → s.time.stepThresh.toNat < th.natAbs →
        ∃ t, exec (.ptpOffsetWrite hi) s = .next t ∧ t = { s with time := t.time } ∧
          t.time.slate = s.time.slate - BitVec.ofInt 96 (th * (2 ^ 24 : Nat)) ∧ t.time.inc = s.time.inc ∧ t.time.integ = 0 ∧
          t.time.state = next s.time.state) ∧
      ((s.time.state = 0#3 → th.natAbs ≤ s.time.stepThresh.toNat) →
        ∃ t, exec (.ptpOffsetWrite hi) s = .next t ∧ t = { s with time := t.time } ∧ t.time.slate = s.time.slate ∧
          t.time.integ = max (-(2 ^ 47)) (min (2 ^ 47 - 1) (s.time.integ + s.time.ki.toNat * th)) ∧
          t.time.inc = BitVec.ofInt 32 (max 1 (min (2 ^ 32 - 1)
            (max (0xD5555555 - (s.time.incLimit.toNat : Int)) (min (0xD5555555 + (s.time.incLimit.toNat : Int))
              (0xD5555555 - shiftRoundAway (s.time.kp.toNat * th + t.time.integ) 8))))) ∧
          t.time.state = next s.time.state)) ∧
    (s.time.src ≠ 1#2 → exec (.ptpOffsetWrite hi) s = .next s)

/-- A SYNC request is answered on its link with T2 and T3, and NOTREADY in ACQUIRE; a device with source 2 sends a request on
its parent link at each interval; the answer to its newest request gives the link delay and an offset, halves rounded away from zero
(R116, R598 to R603). PPS rises when Slate
passes a second and falls 1 ms later; an event message is stamped; a read of SLATE_NS_LO latches a sample for its requester
(R587, R596, R597, R601, R889, R908). -/
def Obligations.Timestamps : Prop :=
  (∀ (l : Fin 7) (k : Packet) (s : State), Claims.arrives s l k 7#4 → k.sub = 0#5 →
    let x := s.link l.val
    ∃ t, exec (.syncRequest l k) s = .next t ∧ t = { s with links := t.links, time := t.time } ∧
      t.time = { s.time with lastStamp := s.linkStamp l.val false } ∧
      t.link l.val = { x with sbNum := x.sbNum + 1, sbq := x.sbq ++ [Claims.side x { Packet.init with
        type := 7#4, sub := 1#5, dst := x.peer, src := s.dev.node, epoch := s.dev.epoch, tid := k.tid, len := 48#9
        dl := s.dateline 7 l.val false
        data := leBytes 12 (recN k.data 0 12) ++ leBytes 12 (s.linkStamp l.val false).toNat ++
          leBytes 12 (s.linkStamp l.val true).toNat ++ leBytes 12 (b2n (s.time.state == 0#3)) }] }) ∧
  (∀ (l : Fin 7) (k : Packet) (s : State) (t0 : BitVec 96), Claims.arrives s l k 7#4 → k.sub = 1#5 → s.time.syncT1 = some t0 →
    s.time.src = 2#2 → s.parentLink = some l.val →
    let u (i : Nat) : Int := tsUnits (BitVec.ofNat 96 (recN k.data (12 * i) 12))
    let t4 := tsUnits (s.linkStamp l.val false)
    let half (n : Int) : Int := if 0 ≤ n then (n + 1) / 2 else -((1 - n) / 2)
    let dl := half ((t4 - u 0) - (u 2 - u 1))
    let th := half ((u 0 - u 1) + (t4 - u 2))
    (k.tid ≠ s.time.syncTid →
      exec (.syncResponse l k) s = .next { s with time := { s.time with lastStamp := s.linkStamp l.val false } }) ∧
    (k.tid = s.time.syncTid → recN k.data 36 1 % 2 = 1 →
      exec (.syncResponse l k) s = .next { s with time := { s.time with
        lastStamp := s.linkStamp l.val false, syncT1 := none } }) ∧
    (k.tid = s.time.syncTid → recN k.data 36 1 % 2 = 0 →
      exec (.syncResponse l k) s = .next (State.offset { s with time := { s.time with
        lastStamp := s.linkStamp l.val false, syncT1 := none, ldelay := s.time.ldelay.put l.val (BitVec.ofInt 32 dl) } }
        (th + (s.time.asym.get 0#24 l.val).toInt)))) ∧
  (∀ (s : State) (l : Nat), s.live = true → s.time.src = 2#2 → s.parentLink = some l → s.linkUp l = true →
    ∃ t, exec .syncInterval s = .next t ∧ t = { s with links := t.links, time := t.time } ∧
      t.time = { s.time with syncT1 := some (s.linkStamp l true), syncTid := s.time.syncTid + 1#16 } ∧
      ∃ k, (t.link l).sbq = (s.link l).sbq ++ [Claims.side (s.link l) k] ∧ k.type = 7#4 ∧ k.sub = 0#5 ∧
        k.tid = s.time.syncTid + 1#16 ∧ k.dst = (s.link l).peer ∧ k.data.take 12 = leBytes 12 (s.linkStamp l true).toNat) ∧
  (∀ s : State, s.live = true →
    (s.time.pps = false → BitVec.ofNat 64 (s.ns / 1000000000) ≠ s.time.ppsSec →
      exec .slatePpsRise s = .next { s with time := { s.time with
        pps := true, ppsSec := BitVec.ofNat 64 (s.ns / 1000000000) } }) ∧
    (s.time.pps = true → s.time.ppsSec.toNat * 1000000000 + 1000000 ≤ s.ns →
      exec .slatePpsFall s = .next { s with time := { s.time with pps := false } })) ∧
  (∀ (tx one : Bool) (f : List Byte) (s : State), s.live = true → s.gaf.state.toNat ≤ 1 → ptpEvent f = false →
    exec (.ptpEventMessage tx one f) s = .next (if tx then { s with time := { s.time with ethFrame := f } } else s)) ∧
  (∀ (tx one : Bool) (f : List Byte) (s : State), s.live = true → s.gaf.state.toNat ≤ 1 → ptpEvent f = true →
    let st := s.time.slate.toNat / 2 ^ 24 * 2 ^ 24
    ∃ t, exec (.ptpEventMessage tx one f) s = .next t ∧ t = { s with time := t.time } ∧
      (tx = true → t.time.lastStamp = BitVec.ofNat 96 (st + s.time.ethTx.toNat * 2 ^ 24) ∧
        (one = false → t.time.ethFrame = f)) ∧
      (tx = false → t.time.lastStamp = BitVec.ofNat 96 (st + 2 ^ 96 - s.time.ethRx.toNat * 2 ^ 24) ∧
        t.time.ethFrame = s.time.ethFrame)) ∧
  (∀ (r : Requester) (s : State), s.live = true → (∀ c, r ≠ .clCtl c) →
    exec (.slateSampleRead r) s = .next { s with time := { s.time with
      samples := s.time.samples.put (Requester.num r) s.time.slate } })

/-! ### Cameras -/

/-- Entry i of a port, and no other entry of it, names a virtual channel, now or as read at its last frame start. -/
def Claims.loneEntry (s : State) (p i v : Nat) (e : W64) : Prop :=
  (s.camPort p).entries.get 0#64 i = e ∧ entV e = true ∧ entVc e = v ∧
    ∀ j, j < 16 → j ≠ i →
      (entV ((s.camPort p).entries.get 0#64 j) && entVc ((s.camPort p).entries.get 0#64 j) == v) = false ∧
      (entV ((s.camPort p).eff.get 0#64 j) && entVc ((s.camPort p).eff.get 0#64 j) == v) = false

/-- A frame as a frame start opens it. -/
def Claims.opened (s : State) (p i : Nat) (e : W64) (fnum : BitVec 16) (f : Frame) : Prop :=
  f.port = p ∧ f.idx = i ∧ f.entry = e ∧ f.fnum = fnum ∧ f.tFs = s.nsW ∧ f.lines = [] ∧ f.flags = 0#16 ∧ f.fixed = 0 ∧
    f.closed = false ∧ f.done = 0 ∧ f.tailDue = false

/-- A frame closed: missing lines are padded, counted and flagged. -/
def Claims.closedAs (f g : Frame) (ns : W64) (also : BitVec 16) : Prop :=
  let n := entH f.entry - f.lines.length
  g.lines = f.lines ++ List.replicate n (List.replicate (entW f.entry) f.padv) ∧ g.fixed = f.fixed + n ∧ g.tEnd = ns ∧
    g.closed = true ∧ g.flags = f.flags ||| (if n = 0 then 0#16 else 4#16) ||| also ∧ g.bufIdx = f.bufIdx ∧ g.done = f.done

/-- A frame start opens the frame of the entry with its channel: a bypass stream's, with the next buffer of its ring, or none
and a count when the ring is full; a pipeline stream's, whose context takes its committed parameters. A frame end and a line
timeout close it; a long packet with its type delivers one line, or padding when 32 lines wait in the instance; a header with one
wrong bit is counted and corrected, one with more counted and dropped; a packet that no stream takes is counted. Line markers
are ignored (R659 to R667, R677, R682, R688). -/
def Claims.CameraPackets : Prop :=
  (∀ (q : Fin 4) (vc : BitVec 4) (fnum : BitVec 16) (hdr : BitVec 2) (sk : Bool) (s : State) (own i : Nat) (e : W64),
    let p := q.val
    s.live = true → s.camRx p = true → s.camOwner p = some own → i < 16 → Claims.loneEntry s p i vc.toNat e →
    s.cam.frames = [] →
    (2 ≤ hdr.toNat → ∃ t, exec (.csiFrameStart q vc fnum hdr sk) s = .next t ∧ t = { s with cam := t.cam } ∧
      t.cam.frames = [] ∧ (t.camPort p).cnt.get 0#32 0x14 = satInc ((s.camPort p).cnt.get 0#32 0x14)) ∧
    (∀ l, hdr.toNat ≤ 1 → entByp e = true → (s.bypassRing (entTgt e)).fabric = false →
      s.mvPart own (s.bypassRing (entTgt e)).base.toNat 8 = false →
      s.hostRead own (s.bypassRing (entTgt e)).base.toNat 8 = .inl l →
      let head := s.cam.heads.get 0#64 (entRing e)
      let room : Bool := decide ((head - BitVec.ofNat 64 (leVal l)).toNat < (s.bypassRing (entTgt e)).n)
      ∃ t f, exec (.csiFrameStart q vc fnum hdr sk) s = .next t ∧ t = { s with cam := t.cam } ∧ t.cam.frames = [f] ∧
        Claims.opened s p i e fnum f ∧ f.bufIdx = (if room then some head else none) ∧
        (t.camPort p).eff.get 0#64 i = e ∧ (t.camPort p).skewOk = sk ∧ (room = true → t.cam.dropped = s.cam.dropped) ∧
        (hdr = 1#2 → (t.camPort p).cnt.get 0#32 0x10 = satInc ((s.camPort p).cnt.get 0#32 0x10))) ∧
    (hdr = 0#2 → entByp e = false → entExp e = 0 → entDt e ≠ 0x12 → entDt e ≠ 0x1E → entW e ≤ 8192 →
      (s.ctx (entTgt e)).en = true → s.mvPart own (ctxRing (s.ctx (entTgt e)).active).base.toNat 8 = false →
      s.mvPart own (ctxRing (s.ctx (entTgt e)).shadow).base.toNat 8 = false →
      ∃ t f, exec (.csiFrameStart q vc fnum hdr sk) s = .next t ∧ t.cam.frames = [f] ∧ Claims.opened s p i e fnum f ∧
        f.gen = (t.ctx (entTgt e)).gen ∧ f.par = (t.ctx (entTgt e)).active ∧
        ((s.ctx (entTgt e)).pend = false → (t.ctx (entTgt e)).gen = (s.ctx (entTgt e)).gen) ∧
        ((s.ctx (entTgt e)).pend = true → (t.ctx (entTgt e)).pend = false ∧
          ((t.ctx (entTgt e)).cerr = false → (t.ctx (entTgt e)).active = (s.ctx (entTgt e)).shadow ∧
            (t.ctx (entTgt e)).gen = (s.ctx (entTgt e)).gen + 1#16)))) ∧
  (∀ (q : Fin 4) (vc : BitVec 4) (fnum : BitVec 16) (s : State) (f : Frame), s.live = true → s.camRx q.val = true →
    s.cam.frames = [f] → entByp f.entry = false → f.closed = false → f.tailDue = false → f.port = q.val →
    entVc f.entry = vc.toNat → s.spareExpo (entTgt f.entry) (entExp f.entry) = false →
    ∃ t g, exec (.csiFrameEnd q vc fnum 0#2) s = .next t ∧ t = { s with cam := { s.cam with frames := [g] } } ∧
      Claims.closedAs f g s.nsW 0#16) ∧
  (∀ (q : Fin 4) (i : Fin 16) (s : State) (f : Frame), s.live = true → s.cam.frames = [f] → f.isOpen q.val i.val = true →
    entByp f.entry = false → f.tailDue = false → s.spareExpo (entTgt f.entry) (entExp f.entry) = false →
    f.lastNs.toNat + 1000 * bitsAt (s.camPort q.val).cfg.toNat 16 16 ≤ s.ns →
    ∃ t g, exec (.csiLineTimeout q i) s = .next t ∧ t = { s with cam := { s.cam with frames := [g] } } ∧
      Claims.closedAs f g s.nsW 0x10#16) ∧
  (∀ (q : Fin 4) (vc : BitVec 4) (b : Bool) (s : State), exec (.csiLineMarker q vc b 0#2) s = .next s) ∧
  (∀ (q : Fin 4) (vc : BitVec 4) (dt : BitVec 6) (ok : Bool) (data : List Byte) (s : State),
    let p := q.val
    let takes (j : Nat) : Bool := let e := (s.camPort p).eff.get 0#64 j
      entV e && entVc e == vc.toNat && entDt e == dt.toNat
    let counts (t : State) (off : Nat) : Prop := t = { s with cam := t.cam } ∧ t.cam.frames = s.cam.frames ∧
      (t.camPort p).cnt.get 0#32 off = satInc ((s.camPort p).cnt.get 0#32 off) ∧ t.cam.ctx = s.cam.ctx
    s.live = true → s.camRx p = true →
    (∀ (hdr : BitVec 2) i f, hdr.toNat ≤ 1 → dtLong dt.toNat = true → i < 16 → takes i = true → (∀ j, j < i → takes j = false) →
      s.cam.ignored.contains (p, i) = false → s.cam.frames = [f] → f.isOpen p i = true → entByp f.entry = false →
      f.tailDue = false → f.lines.length < entH f.entry →
      ∃ t, exec (.csiLongPacket q vc dt hdr ok data) s = .next t ∧ t = { s with cam := t.cam } ∧
        (hdr = 1#2 → (t.camPort p).cnt.get 0#32 0x10 = satInc ((s.camPort p).cnt.get 0#32 0x10)) ∧
        (ok = false → (t.camPort p).cnt.get 0#32 0x18 = satInc ((s.camPort p).cnt.get 0#32 0x18)) ∧
        let bad := if ok then f.flags else f.flags ||| 0x20#16
        (s.heldLines (entTgt f.entry / 8) < 32 → (samplesOf dt.toNat data).length = entW f.entry →
          t.cam.overrun = s.cam.overrun ∧
          t.cam.frames = [{ f with
            lastNs := s.nsW, flags := bad
            lines := f.lines ++ [(samplesOf dt.toNat data).map (fun v => BitVec.ofNat 20 v)]
            stamps := f.stamps ++ [s.nsW] }]) ∧
        (32 ≤ s.heldLines (entTgt f.entry / 8) →
          t.cam.overrun = s.cam.overrun.upd 0#32 (entTgt f.entry / 8) satInc ∧
          t.cam.frames = [{ f with
            lastNs := s.nsW, flags := bad ||| 0x40#16, fixed := f.fixed + 1, padded := f.padded ++ [f.lines.length]
            lines := f.lines ++ [List.replicate (entW f.entry) f.padv]
            stamps := f.stamps ++ [s.nsW] }])) ∧
    (∀ hdr : BitVec 2, 2 ≤ hdr.toNat → ∃ t, exec (.csiLongPacket q vc dt hdr ok data) s = .next t ∧ counts t 0x14) ∧
    (dtLong dt.toNat = false → ∃ t, exec (.csiLongPacket q vc dt 0#2 ok data) s = .next t ∧ counts t 0x20) ∧
    (dtLong dt.toNat = true → (∀ j, j < 16 → takes j = false) →
      ∃ t, exec (.csiLongPacket q vc dt 0#2 ok data) s = .next t ∧ counts t 0x1C))

/-- The pipeline processes the next line of its context's frame and writes the output rows that it completes; the record of a
frame whose lines are all processed is written into its buffer, and HEAD advances. COMMIT sets PEND; a cleared CTL.EN acts at
once when the context has no frame, else with the record of the last that it has then (R669, R675, R676, R681, R683, R686). -/
def Claims.CameraPipeline : Prop :=
  (∀ (x : Fin 16) (s : State) (f : Frame), s.live = true → s.camPowered = true → s.cam.frames = [f] → entByp f.entry = false →
    entTgt f.entry = x.val → entExp f.entry = 0 → parNexp f.par = 1 → f.tailDue = false → f.done < entH f.entry → f.done < f.lines.length →
    (∀ e, f.bufIdx = none →
      exec (.ispLine x e) s = .next { s with cam := { s.cam with frames := [{ f with done := f.done + 1 }] } }) ∧
    (∀ hd p w, f.bufIdx = some hd → s.camServes f.port = some p → bitAt f.flags.toNat 7 = false → f.ring.fabric = false →
      let pic : Picture := { w := entW f.entry, h := entH f.entry, par := f.par, depth := [dtBits (entDt f.entry)], raw := [f.lines] }
      let ws := ((upTo (outH f.par)).filter (fun y => pic.lastLine y == f.done)).flatMap pic.rowWrites
      let img := f.ring.buf hd.toNat + 64
      (∀ y ∈ ws, s.mvPart p (img + y.1) y.2.length = false) → s.pixelWrites p f.ring img ws = (w, none) → w.cam = s.cam →
      exec (.ispLine x .none) s = .next { w with cam := { s.cam with frames := [{ f with done := f.done + 1 }] } })) ∧
  (∀ (x : Fin 32) (s : State) (f : Frame), s.live = true → s.camPowered = true → s.cam.frames = [f] →
    entByp f.entry = false → entRing f.entry = x.val → entExp f.entry = 0 → parNexp f.par = 1 → f.closed = true → f.tailDue = false →
    entH f.entry ≤ f.done →
    let c := s.ctx x.val
    let cleared (t : State) : Prop :=
      t.ctx x.val = if c.en && !c.enReq then { c with offIn := c.offIn - 1, en := decide (1 < c.offIn) } else c
    (∀ e, f.bufIdx = none →
      ∃ t, exec (.frameRecord x e) s = .next t ∧ t = { s with cam := t.cam } ∧ t.cam.frames = [] ∧ cleared t) ∧
    (∀ hd p w v, f.bufIdx = some hd → s.camServes f.port = some p → f.ring.fabric = false →
      let va := f.ring.buf hd.toNat
      let st := s.flicker p f x.val
      let h := s.cam.heads.get 0#64 x.val + 1#64
      s.mvPart p va 64 = false → s.mvPart p f.ring.base.toNat 16 = false →
      st.2.hostWrite p va (frameRecordBytes [f] (s.cam.dropped.get 0#16 x.val) st.1) = (w, none) →
      w.hostWrite p (f.ring.base.toNat + 8) (leBytes 8 h.toNat) = (v, none) → v.cam = s.cam →
      ∃ t, exec (.frameRecord x .none) s = .next t ∧ t = { v with cam := t.cam } ∧ t.cam.frames = [] ∧
        t.cam.heads.get 0#64 x.val = h ∧ t.cam.dropped.get 0#16 x.val = 0#16 ∧ cleared t)) ∧
  (∀ (x : Fin 16) (s : State), s.live = true → s.camPowered = true →
    (∃ t, exec (.ctxCommit x) s = .next t ∧ t = { s with cam := { s.cam with ctx := t.cam.ctx } } ∧
      t.ctx x.val = { s.ctx x.val with pend := true } ∧ ∀ y, y ≠ x.val → t.ctx y = s.ctx y) ∧
    (∀ en, ∃ t, exec (.ctxEnable x en) s = .next t ∧ t = { s with cam := { s.cam with ctx := t.cam.ctx } } ∧
      (∀ y, y ≠ x.val → t.ctx y = s.ctx y) ∧
      let c := s.ctx x.val
      let n := (s.cam.frames.filter (fun f => entRing f.entry == x.val && entExp f.entry == 0)).length
      t.ctx x.val =
        if en then { c with enReq := true, offIn := 0 }
        else if c.enReq then { c with enReq := false, offIn := n, en := c.en && n != 0 }
        else c))

/-! ### Insole and the feed -/

/-- Insole completes a frame: the sample number advances by 256 and the block keeps its time; a channel that is off keeps
nothing; without detector and feed nothing else happens. FLL_LOCK locks the loop. A replay starts at the block of its sample,
or at the oldest one, flagged CLIPPED; it ends when it has caught up (R695, R698, R699, R710, R714 to R717, R782). -/
def Obligations.Insole : Prop :=
  (∀ (bits : List (List Bool)) (s : State), s.insoleLive = true → s.aon.det = false → s.feedPart = 15 →
    let b := s.aon.sampleNo.toNat / 256
    ∃ t, exec (.insoleFrame bits) s = .next t ∧ t = { s with aon := t.aon } ∧
      t.aon.sampleNo = BitVec.ofNat 48 (256 * (b + 1)) ∧ t.aon.blkNs.get 0#64 (b % 500) = s.nsW ∧
      (∀ c, c < 16 → s.aon.chanOn c = false → t.aon.pdm.find c = none ∧ t.aon.hist.find c = none) ∧
      (s.aon.ring = false → t.aon.ringMem = s.aon.ringMem) ∧
      (s.aon.ring = true → ∀ c, c < 16 → s.aon.chanOn c = true →
        t.aon.ringMem.get [] (512 * c + b % 500) =
          (ringBlock (s.aon.adpcm.get 0#24 c) (decimate s.aon.div s.aon.decim (s.aon.calib.get 0#32 c) (s.aon.pdm.get [] c)
            (s.aon.uhist.get [] c) (bits.getD c [])).1).1)) ∧
  (∀ s : State, s.insoleLive = true → exec .fllLock s = .next { s with aon := { s.aon with fll := true } }) ∧
  (∀ (n : BitVec 48) (s : State), s.live = true → s.insoleLive = true →
    let lo := max s.oldestBlock s.aon.feedChange.toNat
    exec (.feedFromWrite n) s = .next { s with aon := { s.aon with
      feedFrom := n, replay := true, feedWait := [], feedBlk := BitVec.ofNat 48 (max (n.toNat / 256) lo)
      feedPend := if n.toNat / 256 < lo then s.aon.feedPend ||| 2 else s.aon.feedPend } }) ∧
  (∀ s : State, s.insoleLive = true → s.feedOn = true → s.aon.replay = true → s.feedMoves = false →
    let now := s.aon.sampleNo.toNat / 256
    let b := max s.aon.feedBlk.toNat s.oldestBlock
    (now ≤ b → exec .feedReplayBlock s = .next { s with aon := { s.aon with replay := false } }) ∧
    (b < now →
      let s := if s.aon.feedBlk.toNat < s.oldestBlock then { s with aon := { s.aon with feedPend := s.aon.feedPend ||| 2 } } else s
      let t := s.feedWrite b true
      exec .feedReplayBlock s = .next { t with aon := { t.aon with replay := t.aon.replay && decide (b + 1 < now) } }))

/-! ### TDM -/

/-- A port starts when Slate has reached its start. A frame of a ring port adds its 16 samples to the block; a frame that a
stop touched is lost. At an output step the pinned path drives the buffer when its chain is complete, else zeros; a playback
ring gives its next block, or zeros and a count. The loss of AUD_MCLK stops every port, and its lock comes back (R696, R700 to
R708). The places of the settings are the model's (log 49). -/
def Obligations.TdmPorts : Prop :=
  (∀ (q : Fin 4) (s : State),
    let t0 := s.tdm q.val
    s.live = true → t0.on = true → t0.running = false → s.tdmStopped q.val = false → t0.start.toNat ≤ s.ns →
    ∃ t, exec (.tdmPortStart q) s = .next t ∧ t = { s with aud := { s.aud with ports := t.aud.ports } } ∧
      t.tdm q.val = { t0 with running := true, frame := 0, gap := true, skipped := false, touched := false, delayQ := [], sdo := [], blk := [], held := [] } ∧
      ∀ p, p ≠ q.val → t.tdm p = s.tdm p) ∧
  (∀ (q : Fin 4) (frame : List (List W32)) (s : State),
    let t0 := s.tdm q.val
    s.live = true → t0.running = true → s.tdmStopped q.val = false →
    (t0.touched = true →
      ∃ t, exec (.tdmInputFrame q frame .none) s = .next t ∧ t = { s with aud := { s.aud with ports := t.aud.ports } } ∧
        t.tdm q.val = { t0 with frame := t0.frame + 1, gap := true, touched := false }) ∧
    (t0.touched = false → t0.use = 2 → t0.blk.length + frame.length < 256 →
      let c := t0.calibrate (fun i => s.aud.calib.get 0x4000#32 (16 * q.val + i)) frame
      ∃ t, exec (.tdmInputFrame q frame .none) s = .next t ∧ t = { s with aud := { s.aud with ports := t.aud.ports } } ∧
        t.tdm q.val = { t0 with frame := t0.frame + 1, delayQ := c.2, blk := t0.blk ++ c.1 } ∧
        (∀ p, p ≠ q.val → t.tdm p = s.tdm p))) ∧
  (∀ (q : Fin 4) (f : Nat) (s : State) (own : Nat),
    let t0 := s.tdm q.val
    let rec_ := t0.adr (0x24 + 8 * (f % 2))
    let buf := t0.adr (0x14 + 8 * (f % 2))
    s.live = true → t0.running = true → t0.use = 1 → s.tdmStopped q.val = false → s.tdmOwner q.val = some own →
    (∀ l d, s.mvPart own rec_ 32 = false → s.mvPart own buf (256 * sampleSize t0.int16) = false →
      s.hostRead own rec_ 32 = .inl l → recN l 0 1 = 0 → recN l 4 2 = f % 65536 →
      s.hostRead own buf (256 * sampleSize t0.int16) = .inl d →
      ∃ t, exec (.tdmOutputStep q f .none) s = .next t ∧ t = { s with aud := { s.aud with ports := t.aud.ports } } ∧
        t.tdm q.val = { t0 with sdo := (upTo 256).map (fun i =>
          slotWord t0.wide (outSample t0.int16 (recN d (sampleSize t0.int16 * i) (sampleSize t0.int16)))) }) ∧
    (∀ l k, s.hostRead own rec_ 32 = .inl l → recN l 4 2 ≠ f % 65536 →
      s.reelCore own (hIdx (t0.set.get 0#32 0).toNat) = some k →
      ∃ t, exec (.tdmOutputStep q f .none) s = .next t ∧ t.tdm q.val = { t0 with sdo := [] } ∧
        t = ({ s with aud := t.aud }).count k 0x27 1)) ∧
  (∀ (q : Fin 4) (s : State) (own : Nat) (l : List Byte),
    let t0 := s.tdm q.val
    let r := t0.outRing
    s.live = true → t0.running = true → 2 ≤ t0.use → s.tdmStopped q.val = false → s.tdmOwner q.val = some own → r.n ≠ 0 →
    s.ringMoves own r t0.rpos.toNat (64 + 4096 * sampleSize t0.int16) = false →
    s.hostRead own r.base.toNat 8 = .inl l →
    (BitVec.ofNat 64 (leVal l) = t0.rpos →
      ∃ t, exec (.playbackBlock q .none) s = .next t ∧ t = { s with aud := { s.aud with ports := t.aud.ports } } ∧
        t.tdm q.val = { t0 with sdo := [], under := satInc t0.under }) ∧
    (∀ d, BitVec.ofNat 64 (leVal l) ≠ t0.rpos →
      s.hostRead own (r.buf t0.rpos.toNat + 64) (4096 * sampleSize t0.int16) = .inl d →
      ∃ t, exec (.playbackBlock q .none) s = .next t ∧
        t.mem = (s.hostWrite own (r.base.toNat + 8) (leBytes 8 (t0.rpos + 1#64).toNat)).1.mem ∧
        (t.tdm q.val).rpos = t0.rpos + 1#64 ∧ (t.tdm q.val).sdo.length = 4096 ∧
        ∀ i, i < 4096 → (t.tdm q.val).sdo.getD i 0#32 = (t0.words d 4096).getD (256 * (i % 16) + i / 16) 0#32)) ∧
  (∀ s : State, s.dbg.freeze = 0#25 →
    (∃ t, exec .audMclkLoss s = .next t ∧ t.pins = { s.pins with audMclk := false } ∧ t.aud.locked = false ∧
      ∀ p, p < 4 → (t.tdm p).running = (s.tdm p).running ∧
        ((s.tdm p).running = true → (t.tdm p).touched = true) ∧
        ((s.tdm p).running = true → (s.tdm p).touched = false → (t.tdm p).lost = satInc (s.tdm p).lost ∧ (t.tdm p).sdo = [])) ∧
    exec .ckAudLock s = .next { s with pins := { s.pins with audMclk := true }, aud := { s.aud with locked := s.aud.locked || s.live } })

/-! ### Failed units -/

/-- A core that hangs or whose parity fails is fenced and its epoch rises: the spare of its cluster takes its logical number and
its chunks; without a spare the core leaves the map. A declaration during a context switch waits (R785, R787, R790, R793 to R795,
R804). -/
def Claims.CoresFail : Prop :=
  ∀ (c : CoreId) (s : State) (i : Instr) (j : Nat),
    let k := c.key
    let cl := keyCl k
    let f := keyCore k
    let e := nextEpoch ((s.cl cl).pepoch.get 0#16 f)
    let gone (t : State) : Prop := (t.cl cl).pepoch.get 0#16 f = e ∧
      (t.cl cl).pstate.get 0#2 f = (if e = 0xFFFF#16 then 3#2 else 2#2)
    s.live = true → (i = .coreHang c ∧ s.watched k = true) ∨ (i = .coreParity c ∧ (s.cl c.cl.val).powered = true) →
    s.fencedCore k = false → s.logCore cl f = some j → (s.core k).dmaq = [] →
    ((s.core k).switching.isSome = true →
      ∃ t, exec i s = .next t ∧ t.cores = s.cores ∧ t.mem = s.mem ∧
        t.cl cl = { s.cl cl with declPend := (s.cl cl).declPend ++ [(f, if i = .coreHang c then 0 else 1)] }) ∧
    (∀ sp, (s.core k).switching = none → s.recovering = false → s.spareOf cl = some sp → sp ≠ f →
      ∃ t, exec i s = .next t ∧ gone t ∧ (t.cl cl).coremap.get 0#4 j = BitVec.ofNat 4 sp ∧
        (t.cl cl).pstate.get 0#2 sp = 0#2 ∧ t.core k = Core.init ∧
        (t.core (coreKey cl sp)).chunkq = (s.core k).chunkq.map (fun x => { x with running := false }) ∧
        (t.core (coreKey cl sp)).cnt.get 0#64 0x26 = (s.core k).cnt.get 0#64 0x26) ∧
    ((s.core k).switching = none → s.spareOf cl = none → (s.core k).chunkq = [] →
      (∀ l, s.logCl (s.partOf k) cl = some l → s.jobsOn (s.partOf k) l j = []) →
      (∀ n, (s.reel (s.partOf k) n).slots = [] ∨ (s.reel (s.partOf k) n).core ≠ k) →
      ∃ t, exec i s = .next t ∧ gone t ∧ (t.cl cl).coremap.get 0#4 j = 15#4 ∧
        t.core k = { Core.init with serial := (s.core k).serial })

/-- A controller writes its liveness; one silent for 200 µs is fenced under a new epoch and its requests are dropped and counted; restarted,
it begins at the image's entry with its events kept. RESUME_CL releases the halted controllers that it names (R785, R801 to R805,
R834). -/
def Claims.ControllersFail : Prop :=
  (∀ (c : Fin 8) (s : State),
    let x := s.cl c.val
    s.live = true → x.powered = true →
    (x.ctl.fenced = false → x.ctl.stopped = false → x.ctl.halted = false →
      ∃ t, exec (.alive c) s = .next t ∧ t = { s with clusters := t.clusters } ∧ t.cl c.val = { x with aliveNs := s.nsW } ∧
        ∀ d, d ≠ c.val → t.cl d = s.cl d) ∧
    (x.ctl.fenced = false → x.ctl.halted = false → x.aliveNs.toNat + 200000 ≤ s.ns → (∀ k, s.noTrace k) →
      ∃ t, exec (.ctlSilence c) s = .next t ∧ t.cores = s.cores ∧ t.mem = s.mem ∧
        let n := ((upTo 8).flatMap (fun p => (s.part p).mbox.filter (fun m => m.1 == c.val))).length
        t.cl c.val = { x with
          ctlEpoch := nextEpoch x.ctlEpoch, ctl := { x.ctl with fenced := true, mboxWait := none, load := none, wfe := none }
          fenceDrop := BitVec.ofNat 32 (min (x.fenceDrop.toNat + n) 0xFFFFFFFF), fencePost := (t.cl c.val).fencePost } ∧
        ∀ p, p < 8 → (t.part p).mbox = (s.part p).mbox.filter (fun m => m.1 != c.val)) ∧
    (x.ctl.fenced = true → x.ctlEpoch ≠ 0xFFFF#16 →
      ∃ t, exec (.ctlRestartDone c) s = .next t ∧ t = { s with clusters := t.clusters } ∧ (t.cl c.val).aliveNs = s.nsW ∧
        (t.cl c.val).ctl.fenced = false ∧ (t.cl c.val).ctl.pc = Config.ctlEntry s.boot.image ∧ (t.cl c.val).ctl.ecause = 0#8 ∧
        (t.cl c.val).ctl.events = x.ctl.events ∧ (t.cl c.val).ctl.gr = [] ∧ (t.cl c.val).ctlEpoch = x.ctlEpoch)) ∧
  (∀ (v : Byte) (s : State), s.live = true →
    ∃ t, exec (.resumeCl v) s = .next t ∧ t = { s with clusters := t.clusters } ∧
      ∀ c, c < 8 → t.cl c = { s.cl c with ctl := { (s.cl c).ctl with halted := (s.cl c).ctl.halted && !v.getLsbD c } })

/-- The master declares a device lost: its epoch rises in the master's table, and the node is remembered. A partner that does not
answer after its link failed ends lock-step (R785, R806, R813 to R815, R857). -/
def Claims.DevicesFail : Prop :=
  (∀ (node : BitVec 18) (s : State), s.live = true → s.dev.master = true → s.dev.geom = true → node ≠ s.dev.node →
    s.inFabric node = true → s.dev.lostNodes.contains node = false → (∀ c, c < 8 → (s.cl c).fab = []) →
    ∃ t, exec (.deviceLost node) s = .next t ∧ t.dev = { s.dev with
      eptab := s.dev.eptab.put node.toNat (nextEpoch (s.dev.eptab.get 0#16 node.toNat))
      lostNodes := s.dev.lostNodes ++ [node] } ∧ t.cores = s.cores ∧ t.clusters = s.clusters) ∧
  (∀ s : State, s.live = true →
    exec (.prPartnerTimeout true) s = .next s ∧
    ((s.link 6).state = 5#3 → s.dev.master = true → (∀ p, p < 8 → (s.func p).cmds = []) →
      ∃ t, exec (.prPartnerTimeout false) s = .next t ∧ t.cores = s.cores ∧ t.clusters = s.clusters ∧
        ∀ p, p < 8 → (s.part p).lockstep = true → (t.part p).lockstep = false ∧ (t.part p).sigs = [] ∧ (t.part p).peerSigs = []))

/-- In lock-step the partner's signature of the same work is compared with the own one: both leave when they agree; when they
differ the job leaves lock-step; one whose own signature is not there yet waits. A confidential partition's signature opens under
its job key, else it is dropped and counted. A signature that has waited 10 ms ends the comparison (R771, R775, R855 to R857). The
bytes of a signature are the model's choice (log 83). -/
def Claims.LockStep : Prop :=
  (∀ (q : Fin 8) (ctr : Nat) (data : List Byte) (s : State) (a : SigRec),
    let p := q.val
    let i : Instr := .signatureReceive q ctr data
    s.live = true → s.linkUp 6 = true → (s.part p).lockstep = true → (s.func p).cmds = [] → (s.part p).sigs = [a] → (s.part p).peerSigs = [] →
    (s.openSig p ctr data = none → exec i s = .next (s.updSecp p (fun x => { x with authDrop := satInc x.authDrop }))) ∧
    (s.conf p = false → s.openSig p ctr data = some data) ∧
    (∀ l, s.openSig p ctr data = some l →
      let r := sigOf l s.nsW
      (a.job = r.job → a.n = r.n → a.core = r.core → a.sig = r.sig →
        ∃ t, exec i s = .next t ∧ t = { s with parts := t.parts } ∧ t.part p = { s.part p with sigs := [], peerSigs := [] }) ∧
      (a.job = r.job → a.n = r.n → a.core = r.core → a.sig ≠ r.sig → r.job < 2 ^ 32 → (s.job p r.job).lock = true →
        ∃ t, exec i s = .next t ∧ (t.part p).sigs = [] ∧ (t.part p).peerSigs = [] ∧ (t.job p r.job).lock = false) ∧
      ((a.job ≠ r.job ∨ a.n ≠ r.n ∨ a.core ≠ r.core) →
        ∃ t, exec i s = .next t ∧ t = { s with parts := t.parts } ∧ t.part p = { s.part p with peerSigs := [r] }))) ∧
  (∀ (q : Fin 8) (job n core : Nat) (s : State) (r : SigRec),
    let p := q.val
    s.live = true → (s.func p).cmds = [] →
    (s.part p).sigs.find? (fun r => r.job == job && r.n == n && r.core == core) = some r → r.ns.toNat + 10000000 ≤ s.ns →
    ∃ t, exec (.lockstepTimeout q job n core) s = .next t ∧ (t.part p).lockstep = false ∧ (t.part p).sigs = [] ∧
      (t.part p).peerSigs = [] ∧ (∀ j, (t.job p j).lock = false ∨ (s.part p).jobs.has j = false) ∧ t.cores = s.cores)

/-! ### Debug -/

/-- A write of TRIG stops or marks the buffers with XTRIG and no other; TRACE_CFG with EN starts an empty buffer, and without EN
stops it; MISSED_TRIG written with 0 clears (R842 to R847, R851). -/
def Claims.Dailies : Prop :=
  (∀ (r : Requester) (s : State), s.live = true → (r = .mgmt ∨ r = .devCtl) →
    ∃ t, exec (.trig r) s = .next t ∧ t.cores = s.cores ∧ t.clusters = s.clusters ∧ t.parts = s.parts ∧ ∀ c, c < 8 →
      ((s.trace c).cfg.getLsbD 9 = false → t.trace c = s.trace c) ∧
      ((s.trace c).cfg.getLsbD 9 = true → (s.trace c).state = 1#2 ∨ (s.trace c).state = 2#2 →
        (t.trace c).trig = true ∧ (t.trace c).missed = (s.trace c).missed) ∧
      ((s.trace c).cfg.getLsbD 9 = true → (s.trace c).state = 3#2 → (s.trace c).missed ≠ 0xFFFFFFFF#32 →
        (t.trace c).missed = (s.trace c).missed + 1#32)) ∧
  (∀ (c : Fin 8) (v : W32) (s : State), s.live = true →
    let x := s.trace c.val
    let one (t : State) (y : Trace) : Prop := t = { s with dbg := { s.dbg with traces := t.dbg.traces } } ∧ t.trace c.val = y ∧
      ∀ d, d ≠ c.val → t.trace d = s.trace d
    (v.getLsbD 0 = false → bitsAt v.toNat 1 2 ≠ 3 →
      ∃ t, exec (.traceEnable c v) s = .next t ∧ one t { x with cfg := v &&& 0x0FFFFFFF#32, state := 0#2, carve := false }) ∧
    (v.getLsbD 0 = true → bitsAt v.toNat 1 2 ≠ 3 → x.cfg.getLsbD 0 = false → x.state = 0#2 → s.carveFits c.val = true →
      v.getLsbD 8 = false →
      ∃ t, exec (.traceEnable c v) s = .next t ∧ one t { x with
        cfg := v &&& 0x0FFFFFFF#32, state := 1#2, trig := false, wrptr := 0#32, trigPos := 0#32, buf := [], post := 0
        written := 0, carve := true }) ∧
    ∃ t, exec (.missedTrigClear c 0#32) s = .next t ∧ one t { x with missed := 0#32 })

/-- A frozen device: its clocks have stopped, HBM and links are not kept, and cores and clusters stand as they were. -/
def Claims.froze (s t : State) : Prop :=
  t.dbg.freeze = BitVec.allOnes 25 ∧ t.cores = s.cores ∧ t.clusters = s.clusters ∧ t.devCtl = s.devCtl ∧ t.parts = s.parts ∧
    t.links = [] ∧ (∀ a, a < 8 * stackBytes → t.rd a = 0#8) ∧ ∀ a, 8 * stackBytes ≤ a → t.rd a = s.rd a

/-- FREEZE_N and the TAP's FREEZE stop the device, unless a confidential partition exists: then the pin's assertion is counted,
and the TAP selects BYPASS (R775, R835, R837, R840). -/
def Claims.Freezes : Prop :=
  (∀ s : State, s.pins.vddAon = true → s.dbg.freeze = 0#25 →
    (s.confAny = false → ∃ t, exec .freezePin s = .next t ∧ Claims.froze s t ∧ t.pins = { s.pins with freezeN := false }) ∧
    (s.confAny = true → exec .freezePin s = .next { s with
      pins := { s.pins with freezeN := false }, sec := { s.sec with freezeIgn := satInc s.sec.freezeIgn } })) ∧
  (∀ s : State, s.tapLive = true →
    (s.confAny = false → ∃ t, exec .freeze s = .next t ∧ Claims.froze s t ∧ t.pins = s.pins ∧ t.dbg.ir = 0x20#8 ∧
      t.dbg.tdo = [false]) ∧
    (s.confAny = true → exec .freeze s = .next { s with dbg := { s.dbg with ir := 0xFF#8, tdo := [false], pinCtl := 0#2 } }))

/-- The TAP loads an instruction: its code, the bits that it shifts out, the pins at their functions, and what it does beside. -/
def Claims.loads (s : State) (i : Instr) (ir : Byte) (out : List Bool) (f : Dbg → Dbg) : Prop :=
  exec i s = .next { s with dbg := f { s.dbg with ir := ir, tdo := out, pinCtl := 0#2 } }

/-- EXTEST, EXTEST_PULSE, EXTEST_TRAIN, CLAMP and HIGHZ take the pins only while RESET_N is low or the device is frozen; at any
other time, and while a confidential partition exists, the TAP loads BYPASS in their place (R840, R913). -/
def Obligations.TapPins : Prop :=
  ∀ (s : State) (i : Instr) (ir : Byte) (ctl : BitVec 2), s.tapLive = true →
    (i = .extest ∧ ir = 3#8 ∧ ctl = 1#2) ∨ (i = .extestPulse ∧ ir = 4#8 ∧ ctl = 1#2) ∨
      (i = .extestTrain ∧ ir = 5#8 ∧ ctl = 1#2) ∨ (i = .clamp ∧ ir = 6#8 ∧ ctl = 1#2) ∨ (i = .highz ∧ ir = 7#8 ∧ ctl = 2#2) →
    (s.confAny = false → (s.pins.resetN = false ∨ s.dbg.freeze ≠ 0#25) →
      Claims.loads s i ir [] (fun d => { d with pinCtl := ctl })) ∧
    (s.pins.resetN = true → s.dbg.freeze = 0#25 → Claims.loads s i 0xFF#8 [false] id) ∧
    (s.confAny = true → Claims.loads s i 0xFF#8 [false] id)

/-- The TAP: IDCODE and BYPASS at any time; the others only without a confidential partition, else BYPASS. Scan chains and SRAM
words come out of a frozen device and zeros out of a running one (R838 to R840, R911, R912). What the chains and the boundary
register hold is not the spec's (log 14). -/
def Obligations.TestAccess : Prop :=
  ∀ s : State, s.tapLive = true →
    let loads := Claims.loads s
    loads .idcode 1#8 ((upTo 32).map (fun i => bitAt 0x1544014B i)) id ∧ loads .bypass 0xFF#8 [false] id ∧
    exec .tapReset s = .next { s with dbg := { s.dbg with
      ir := 1#8, tdo := [], pinCtl := 0#2, bsr := [], chain := 0#16, tapData := 0#64 } } ∧
    (s.confAny = true → ∀ i, i = .chainOut ∨ (∃ n, i = .chainSel n) ∨ (∃ v, i = .memOut v) ∨ (∃ v w, i = .dbgCsr v w) ∨
        (∃ c, i = .samplePreload c) → loads i 0xFF#8 [false] id) ∧
    (s.confAny = false →
      (∀ n, loads (.chainSel n) 0x21#8 [] (fun d => { d with chain := n })) ∧
      (∀ c, loads (.samplePreload c) 2#8 [] (fun d => { d with bsr := c })) ∧
      (∀ v, s.dbg.freeze = 0#25 → loads (.memOut v) 0x23#8 (List.replicate 72 false) id) ∧
      (∀ v, s.dbg.freeze ≠ 0#25 → ∃ t, exec (.memOut v) s = .next t ∧ t = { s with dbg := t.dbg } ∧ t.dbg.tdo.length = 72 ∧
        ∀ n, n < 64 → t.dbg.tdo.getD n false = bitAt (s.rdVal (Config.memOutAddr v) 8 % 2 ^ 64) n) ∧
      (∃ t, exec .chainOut s = .next t ∧ t = { s with freeCtr := s.freeCtr + 1, dbg := t.dbg } ∧
        (s.dbg.freeze = 0#25 → t.dbg.tdo.all (fun b => !b) = true) ∧
        (s.dbg.freeze ≠ 0#25 → t.dbg.tdo = Config.scanChain s.freeCtr s.dbg.chain)) ∧
      (∀ v : W64, bitsAt v.toNat 0 24 = 0x40000 →
        ∃ t, exec (.dbgCsr v false) s = .next t ∧ t = { s with dbg := t.dbg } ∧ t.dbg.ir = 0x24#8 ∧
          t.dbg.tapData = BitVec.ofNat 64 (0x40000 + 2 ^ 32 * s.dbg.freeze.toNat)))

/-! ### Reset, rails and boot -/

/-- Everything but Insole, the flash, the pins, the TAP and the queue is as reset leaves it. -/
def Claims.mainAtReset (s t : State) : Prop :=
  t = { State.reset with
    aon := t.aon, flash := s.flash, pending := s.pending, freeCtr := s.freeCtr, pins := t.pins
    dbg := { State.reset.dbg with
      ir := t.dbg.ir, chain := t.dbg.chain, bsr := t.dbg.bsr, tdo := t.dbg.tdo, pinCtl := t.dbg.pinCtl,
      tapData := t.dbg.tapData } }

/-- RESET_N resets everything but Insole, the flash and the TAP, and ends a freeze: memory reads zero, no partition exists, the
state is RUN, the time service is FREE at its nominal increment with Slate 0, and the thresholds of wakes and temperature are
their tables'. Released, the ROM samples the straps and waits for an image, or stops on two straps of 1 or an unreadable root
secret. When the PLLs lock, the clocks run and the enabled links train (R568, R588, R590, R646 to R648, R752, R836, R886, R909). -/
def Obligations.ResetAndRom : Prop :=
  (∀ s : State, s.pins.resetN = true →
    ∃ t, exec .resetNFall s = .next t ∧ Claims.mainAtReset s t ∧ t.aon = { s.aon with wakePin := false } ∧
      t.pins.resetN = false ∧ t.pins.clocksOn = false ∧ t.pins.en = s.pins.en ∧ t.dbg.freeze = 0#25 ∧ t.dbg.ir = s.dbg.ir ∧
      (∀ a, a < 8 * stackBytes → t.rd a = 0#8) ∧ (∀ p, t.exists? p = false) ∧ t.gaf.state = 0#3 ∧
      t.time.state = 4#3 ∧ t.time.inc = 0xD5555555#32 ∧ t.time.slate = 0#96 ∧ t.time.locked = false ∧
      t.gaf.tempLimit = 95#8 ∧ t.gaf.hsLimit = 100#10 ∧ (∀ i, i < 3 → t.gaf.wakeThr.get 0#16 i = 0x8000#16) ∧
      t.dev.boot = 0#4) ∧
  (∀ s : State, s.pins.resetN = false → s.pins.vddAon = true → s.pins.insoleUp = true → s.pins.mainOff = false →
    s.pins.enSeq = none →
    ∃ t, exec .resetNRise s = .next t ∧ t.pins = { s.pins with resetN := true, en := 0x1FFF#13 } ∧
      t.dev.master = s.pins.masterSel ∧ t.dev.bootSrc = s.pins.bootSrcPin ∧ t.dbg.pinCtl = 0#2 ∧ t.cores = s.cores ∧
      (s.pins.masterSel = true → s.pins.bootSrcPin = true → t.dev.boot = 6#4 ∧ t.boot.romStopped = true) ∧
      ((s.pins.masterSel && s.pins.bootSrcPin) = false → t.freeCtr = s.freeCtr + 1 ∧
        (pufSecret s.freeCtr s.flash = none → t.dev.boot = 9#4 ∧ t.boot.romStopped = true) ∧
        ∀ rs, pufSecret s.freeCtr s.flash = some rs → t.dev.boot = s.dev.boot ∧ t.boot = s.boot ∧
          t.sec = { s.sec with pufOk := true, drbgOk := Config.drbgGood, rs := rs, bv := Config.bootValue s.freeCtr })) ∧
  (∀ s : State, s.pins.resetN = true → s.time.locked = false → s.pins.mainOff = false → s.dbg.freeze = 0#25 →
    ∃ t, exec .pllLock s = .next t ∧ t = { s with pins := t.pins, time := t.time, links := t.links } ∧
      t.pins = { s.pins with clocksOn := true, refclk := true } ∧ t.time = { s.time with locked := true } ∧
      ∀ l, l < 7 → (s.link l).en = true → t.link l = { s.link l with state := 1#3, trainNs := s.nsW })

/-- The bytes of an image arrive on the bulk endpoint, each piece when its bursts are granted; with the last of them it stands in
cluster store 0 and is verified; an accepted one runs: its code stands in the device controller's memory with the pc at its entry,
its digest and version are recorded, the store is cleared, and the stacks are in self-refresh. A rejected one leaves nothing
running, the verdict in BOOT_STATUS (R454, R616, R649, R651 to R653). -/
def Obligations.Images : Prop :=
  (∀ (data : List Byte) (last : Bool) (s : State), s.live = true → s.wantsImage = true → s.dev.bootSrc = false → s.usbBulk = true →
    let bursts := max 1 (ceilDiv data.length burstBytes)
    let l := s.usbData ++ data
    (s.takeBursts 8 bursts = none → exec (.imageReceive data last) s = .next s) ∧
    (∀ u, s.takeBursts 8 bursts = some u →
      u = { s with usb := { s.usb with slotPos := u.usb.slotPos, lastBorrow := u.usb.lastBorrow } } ∧
      exec (.imageReceive data last) s = .next { u.store (clStore 0 0) l with
        usbData := if last then [] else l, boot := if last then { s.boot with image := l } else s.boot
        dev := { s.dev with boot := if last then 2#4 else 1#4 } })) ∧
  (∀ s : State, s.live = true → s.dev.boot = 2#4 → s.dev.master = false → s.dev.geom = false → upLink s.node = none →
    let l := s.boot.image
    let v := imageVerdict l
    let entry := recN l 24 4
    ∃ t, exec .imageVerifyDone s = .next t ∧ t.dev.boot = v ∧
      (v = 8#4 → t.boot.running = true ∧ t.dev.fwver = BitVec.ofNat 32 (recN l 12 4) ∧ t.sec.fwm = shake256 l ∧
        t.devCtl.pc = BitVec.ofNat 64 (localBase + entry) ∧ t.devCtl.ecause = 0#8 ∧
        (∀ i, i < recN l 20 4 → i < (l.drop (recN l 16 4)).length →
          t.devCtl.mem.get 0#8 i = l.getD (recN l 16 4 + i) 0#8) ∧
        (∀ n, n < 8 → (t.stack n).state = 3#2) ∧ t.clusters = s.clusters ∧
        ∀ a, Memory.read t.mem a = if clStore 0 0 ≤ a ∧ a < clStore 0 0 + 0x2000000 then 0#8 else Memory.read s.mem a) ∧
      (v ≠ 8#4 → t = { s with dev := { s.dev with boot := v }, boot := { s.boot with image := [] } }))

/-- The rails: with VDD_AON the device is in reset with every EN and MAIN_OFF low, and Insole's own reset ends later; power-good
of the SoC rail starts the EN sequence, one output at a step in its order. A PG input that falls, or the loss of REFCLK, shuts them down; a cluster's is gated with RAILERR.
RESET_N held low brings the main rails back; without VDD_AON nothing is retained but the flash (R725, R896, R897, R899 to R905). -/
def Obligations.Rails : Prop :=
  (∀ s : State, s.pins.vddAon = false →
    ∃ t, exec .vddAonRise s = .next t ∧ Claims.mainAtReset s t ∧ t.aon = Aon.init ∧ t.pins.vddAon = true ∧
      t.pins.insoleUp = false ∧ t.pins.resetN = false ∧ t.pins.en = 0#13 ∧ t.pins.mainOff = false ∧ t.pins.latched = false) ∧
  (∀ s : State, s.pins.vddAon = true →
    (∃ t, exec .vddAonLoss s = .next t ∧ Claims.mainAtReset s t ∧ t.aon = Aon.init ∧ t.pins.vddAon = false ∧
      t.pins.off = true ∧ t.pins.en = 0#13) ∧
    exec .insolePorDone s = .next { s with pins := { s.pins with insoleUp := true } } ∧
    (s.pins.insoleUp = true → s.pins.mainOff = false → s.pins.en = 0#13 → s.pins.enSeq = none →
      ∃ t, exec .pgSocRise s = .next t ∧ t = { s with pins := t.pins, dbg := t.dbg } ∧
        t.pins = { s.pins with pg := s.pins.pg ||| 1#14, enSeq := some 0 } ∧ t.dbg.ir = 1#8) ∧
    (∀ n : Fin 14, n.val < 6 → s.dbg.freeze = 0#25 →
      (if n.val = 0 then !s.pins.mainOff else s.pins.en.getLsbD (n.val - 1)) = true →
      ∃ t, exec (.pgLoss n) s = .next t ∧ t = { s with pins := t.pins, gaf := t.gaf, aud := t.aud } ∧ t.pins.en = 0#13 ∧
        t.pins.mainOff = true ∧ t.pins.shutdown = true ∧ t.pins.latched = s.pins.latched ∧ t.pins.clocksOn = false ∧
        t.gaf.state = s.gaf.state ∧ t.gaf.cur = none ∧ t.gaf.clTrans = []) ∧
    (s.pins.resetN = false → s.pins.latched = false → (s.pins.shutdown = true ∨ s.pins.therm = true) →
      exec .mainRestart s = .next { s with pins := { s.pins with shutdown := false, therm := false, mainOff := false } }) ∧
    (s.pins.latched = true → exec .mainRestart s = .next s)) ∧
  (∀ (s : State) (i : Nat), s.pins.enSeq = some i → i < 13 →
    exec .enSequenceStep s = .next { s with pins := { s.pins with
      en := s.pins.en ||| (1#13 <<< i), pg := s.pins.pg ||| (1#14 <<< (i + 1)), enSeq := if i = 12 then none else some (i + 1) } }) ∧
  (∀ s : State,
    (s.dbg.freeze = 0#25 → s.pins.en.getLsbD 1 = true →
      ∃ t, exec .refclkLoss s = .next t ∧ t = { s with pins := t.pins, gaf := t.gaf, aud := t.aud } ∧ t.pins.refclk = false ∧
        t.pins.en = 0#13 ∧ t.pins.mainOff = true ∧ t.pins.shutdown = true) ∧
    (s.pins.en.getLsbD 1 = false → exec .refclkLoss s = .next { s with pins := { s.pins with refclk := false } })) ∧
  (∀ (c : Fin 8) (s : State), s.live = true → (s.cl c.val).powered = true → s.gaf.cur = none → s.gaf.clTrans = [] →
    (∀ p, s.ownerCl c.val = some p → (s.part p).jobs = [] ∧
      ∀ j, j < 9 → (s.core (coreKey c.val j)).chunkq = [] ∧ (s.core (coreKey c.val j)).dmaq = []) →
    ∃ t, exec (.pgClFall c) s = .next t ∧ (t.cl c.val).powered = false ∧ t.gaf.railErr = true ∧
      t.pins.en.getLsbD (5 + c.val) = false ∧ t.pins.pg.getLsbD (6 + c.val) = false ∧
      (∀ d, d < 8 → d ≠ c.val → (t.cl d).powered = (s.cl d).powered))

/-- The rails are shut down until VDD_AON is removed: every EN output is low, MAIN_OFF is high, and no main clock runs. -/
def Claims.latchedOff (s : State) : Prop :=
  s.pins.vddAon = true ∧ s.pins.latched = true ∧ s.pins.en = 0#13 ∧ s.pins.mainOff = true ∧ s.pins.shutdown = true ∧
    s.pins.enSeq = none ∧ s.pins.clocksOn = false

/-- When a PG input has not risen 150 µs after its EN output, Insole drives every EN output low and raises MAIN_OFF; no step
changes that until VDD_AON is removed (R901). That the 150 µs have passed is what the command PG_TIMEOUT says (log 3). -/
def Obligations.PgTimeoutLatches : Prop :=
  (∀ (n : Fin 14) (s : State), s.pins.vddAon = true → s.pins.resetN = false → 1 ≤ n.val →
    s.pins.en.getLsbD (n.val - 1) = true →
    ∃ t, exec (.pgTimeout n) s = .next t ∧ Claims.latchedOff t ∧ t = { s with pins := t.pins, gaf := t.gaf, aud := t.aud } ∧
      t.pins.pg.getLsbD n.val = false) ∧
  (∀ s t : State, Claims.latchedOff s → s.pending.head? ≠ some .vddAonLoss → step s = .next t → Claims.latchedOff t) ∧
  (∀ s : State, Claims.latchedOff s →
    ∃ t u, exec .vddAonLoss s = .next t ∧ exec .vddAonRise t = .next u ∧ u.pins.latched = false ∧ u.pins.mainOff = false)

/-! ### The block as a whole -/

/-- A step takes the command at the front of the queue, and runs it on the state with the rest; on an empty queue one CK_CTL cycle
passes: Slate grows by its increment while the clocks run, and each core counts the cycles of its own clock that it stalls (R445,
R584, R588); nothing else happens where no sealed record holds commands and no audio waits for a page in motion. Where the clocks stand, nothing happens. What an empty
queue does is the model's choice (log 2). -/
def Obligations.StepRunsFront : Prop :=
  (∀ (c : Instr) (rest : List Instr) (s : State),
    step { s with pending := c :: rest } = exec c { s with pending := rest }) ∧
  (∀ s : State, s.live = true → s.time.locked = true → s.pending = [] →
    ∃ t, step s = .next t ∧ t.cycle = s.cycle + 1 ∧ t.time = { s.time with slate := s.time.slate + s.time.inc.setWidth 96 } ∧
      t.pending = [] ∧
      ((∀ p, p < 8 → (s.secp p).ep1 = []) → (∀ p, p < 4 → (s.tdm p).held = []) → s.aon.feedWait = [] →
        t = { s with cycle := t.cycle, time := t.time, cores := t.cores } ∧
        (∀ k, t.core k = { s.core k with
          cnt := (t.core k).cnt, winE := (t.core k).winE, hostCame := (t.core k).hostCame, owed := (t.core k).owed }) ∧
        ∀ k, s.cores.has k = true →
          let n := t.clCycle (keyCl k) - s.clCycle (keyCl k)
          let grows (i v : Nat) : Prop := (t.core k).cnt.get 0#64 i = (s.core k).cnt.get 0#64 i + BitVec.ofNat 64 v
          ((0x20 ∈ (s.core k).qStall ∨ (s.core k).dmaStall = 0x20) → grows 0x20 n) ∧
          grows 0x21 (min n ((s.core k).owed.get 0 0x21)) ∧
          (0x24 ∉ (s.core k).qStall → (s.core k).dmaStall ≠ 0x24 → grows 0x24 (min n ((s.core k).owed.get 0 0x24))) ∧
          ((0x25 ∈ (s.core k).qStall ∨ (s.core k).dmaStall = 0x25 ∨ ∃ x ∈ (s.core k).threads, ∃ a, x.2.wait = .page a) →
            grows 0x25 n) ∧
          ((s.core k).hostCame = false → (∃ o ∈ (s.core k).dmaq, o.waitHost ≠ []) → grows 0x23 n) ∧
          (∀ i, i ∉ [0x20, 0x21, 0x23, 0x24, 0x25, 0x2B] → grows i 0))) ∧
  (∀ s : State, (s.live = false ∨ s.time.locked = false) → s.pending = [] → step s = .next s)

/-- A freeze lasts until RESET_N falls, or VDD_AON, under which the device is in reset too: until then no step ends it or
changes a core, a cluster, a controller, a partition, the USB port or the cycle count; the fall of RESET_N ends it (R836). -/
def Obligations.FrozenStands : Prop :=
  (∀ s t : State, s.dbg.freeze ≠ 0#25 →
    (∀ c, s.pending.head? = some c → c ≠ .resetNFall ∧ c ≠ .vddAonRise ∧ c ≠ .vddAonLoss) → step s = .next t →
    t.dbg.freeze ≠ 0#25 ∧ t.pending = s.pending.tail ∧ t.cores = s.cores ∧ t.clusters = s.clusters ∧ t.devCtl = s.devCtl ∧
      t.parts = s.parts ∧ t.usb = s.usb ∧ t.cycle = s.cycle) ∧
  (∀ s : State, s.pins.resetN = true → ∃ t, exec .resetNFall s = .next t ∧ t.dbg.freeze = 0#25)

/-- The main device is held in its reset. -/
def Claims.held (s : State) : Prop :=
  s.pins.resetN = false ∧ s.cores = [] ∧ s.clusters = [] ∧ s.parts = [] ∧ s.devCtl = Ctl.init ∧ s.usb = Usb.init ∧
    s.boot = Boot.init ∧ s.sec = Sec.init ∧ s.dev = Dev.init ∧ s.cam = Cam.init

/-- A device held in reset stays as reset left it whatever is commanded, until RESET_N rises (R646,
R648). -/
def Obligations.ResetHolds : Prop :=
  ∀ s t : State, Claims.held s → s.pending.head? ≠ some .resetNRise → step s = .next t →
    Claims.held t ∧ t.pending = s.pending.tail

/-- State.reset is held in reset with nothing commanded, and these registers hold their tables' values: no partition, HBM reads zero,
the time service FREE at the nominal increment, the temperature limit, the handshake limit and the wake thresholds (R589, R590,
R724, R739, R746, R886, R889). -/
def Obligations.ResetStateHeld : Prop :=
  Claims.held State.reset ∧ State.reset.pending = [] ∧ State.reset.time.state = 4#3 ∧ State.reset.time.inc = 0xD5555555#32 ∧
    State.reset.gaf.tempLimit = 95#8 ∧ State.reset.gaf.hsLimit = 100#10 ∧ State.reset.gaf.state = 0#3 ∧
    (∀ p, State.reset.exists? p = false) ∧ (∀ a, a < 8 * stackBytes → State.reset.rd a = 0#8) ∧
    (∀ i, i < 3 → State.reset.gaf.wakeThr.get 0#16 i = 0x8000#16)

/-! ### Claims that belong together -/

/-- Scalar instructions write their result, on a thread and on a controller. -/
def Obligations.ScalarInstructions : Prop := Claims.ScalarOnThread ∧ Claims.ScalarOnController

/-- Branches and jumps set the program counter, on a thread and on a controller. -/
def Obligations.BranchesAndJumps : Prop := Claims.BranchesGo ∧ Claims.JumpsLink ∧ Claims.ControllerJumps

/-- A load that waits returns its value, to a thread and to a controller. -/
def Obligations.LoadsReturn : Prop := Claims.LoadReturns ∧ Claims.ControllerLoadReturns

/-- A word that may not be executed halts a thread with its record, and takes a controller to its handler. -/
def Obligations.InstructionFaults : Prop := Claims.IllegalAndPrivHalt ∧ Claims.ControllerFaults

/-- Stores write their bytes, and a controller loads and stores. -/
def Obligations.StoresAndLoads : Prop := Claims.StoresWrite ∧ Claims.ControllerLoadsStores

/-- Fences, waits and barriers. -/
def Obligations.FencesAndBarriers : Prop := Claims.SyncOrders ∧ Claims.BarrierReleases

/-- Vector instructions write their lanes. -/
def Obligations.VectorInstructions : Prop := Claims.VectorLanes ∧ Claims.VectorOthers

/-- Matrix and descriptor instructions enter the array queue. -/
def Obligations.QueueInstructions : Prop := Claims.MatrixEntersQueue ∧ Claims.DescriptorsEnterQueue

/-- DMA and Reel instructions. -/
def Obligations.EngineInstructions : Prop := Claims.DmaInstructions ∧ Claims.ReelInstructions

/-- System instructions, on a thread and on a controller. -/
def Obligations.SystemRows : Prop := Claims.SystemInstructions ∧ Claims.ControllerSystem

/-- Threads end, and fetched blocks arrive. -/
def Obligations.ThreadsAndFetch : Prop := Claims.ThreadsEnd ∧ Claims.FetchArrives

/-- An entry of the array queue begins and completes. -/
def Obligations.QueueEntries : Prop := Claims.QueueEntryBegins ∧ Claims.QueueEntryCompletes

/-- The DMA engine starts copies, window streams, page gathers and expansions, and moves their bytes. -/
def Obligations.DmaEngine : Prop := Claims.CopyMovesBytes ∧ Claims.EngineStarts

/-- MOVEs and Splices start and move their pages, and operations and host requests end. -/
def Obligations.MovesAndEnds : Prop := Claims.MovesStart ∧ Claims.OperationsEnd

/-- Chunks are dispatched and end. -/
def Obligations.ReelChunks : Prop := Claims.ChunksDispatch ∧ Claims.ChunksEnd

/-- Host commands on jobs, sequences and Reels. -/
def Obligations.HostJobsAndReels : Prop := Claims.HostJobs ∧ Claims.HostReels

/-- What makes a host or a management command complete without effect. -/
def Obligations.CommandChecks : Prop := Claims.HostChecks ∧ Claims.MgmtChecks

/-- Security commands, and the turns of the shared engines. -/
def Obligations.Security : Prop := Claims.HostSecurity ∧ Claims.SecurityTurns

/-- Partitions are made and destroyed, and their functions end. -/
def Obligations.Partitions : Prop := Claims.PartitionCommands ∧ Claims.FunctionsEnd

/-- Power transitions are requested and agreed. -/
def Obligations.PowerRequests : Prop := Claims.GafferRequests ∧ Claims.Handshake

/-- Links carry flits, lose lanes and retrain. -/
def Obligations.Links : Prop := Claims.LinkFlits ∧ Claims.LinkLanes

/-- Fabric requests are performed, and responses end commands. -/
def Obligations.FabricTraffic : Prop := Claims.FabricRequests ∧ Claims.FabricResponses

/-- Management packets act, and only those of the master where it alone may send them. -/
def Obligations.ManagementTraffic : Prop := Claims.ManagementPackets ∧ Claims.MasterOnly

/-- The time service and its servo. -/
def Obligations.TimeService : Prop := Claims.TimeSource ∧ Claims.TimeServo

/-- Camera packets make frames, and the pipeline writes them. -/
def Obligations.Cameras : Prop := Claims.CameraPackets ∧ Claims.CameraPipeline

/-- Cores and cluster controllers fail, and are replaced or restarted. -/
def Obligations.UnitsFail : Prop := Claims.CoresFail ∧ Claims.ControllersFail

/-- Devices and partners are lost, and lock-step compares and ends. -/
def Obligations.PartnersFail : Prop := Claims.DevicesFail ∧ Claims.LockStep

/-- Dailies records and stops, and a freeze stops the device. -/
def Obligations.DailiesAndFreezes : Prop := Claims.Dailies ∧ Claims.Freezes
end

