-- ==== Sys2Proof/Laws/Sparse.lean ====
section
/-! SUPPORT. The laws of sparse maps and of byte memories: a read after a write, and the canonical form that every memory
operation keeps. -/
namespace Sys2Proof

/-! ### Sparse maps -/

/-- What a map holds at key j once key k has the value v. -/
theorem SMap.find_put {α : Type} (m : SMap α) (k j : Nat) (v : α) :
    (m.put k v).find j = if k = j then some v else m.find j := by
  fun_induction SMap.put m k v with
  | case1 => rfl
  | case2 i x t h => rfl
  | case3 x t h => simp only [SMap.find]; split <;> rfl
  | case4 i x t h e ih => simp only [SMap.find, ih]; grind

/-- What a map holds at key j once key k has gone. -/
theorem SMap.find_erase {α : Type} (m : SMap α) (k j : Nat) : (m.erase k).find j = if k = j then none else m.find j := by
  induction m with
  | nil => exact (ite_self none).symm
  | cons e t ih =>
    have step : SMap.erase (e :: t) k = if e.1 = k then SMap.erase t k else e :: SMap.erase t k := by
      rw [SMap.erase, List.filter_cons]; by_cases h : e.1 = k <;> simp [h, SMap.erase]
    rw [step, SMap.find.eq_def (e :: t)]
    split <;> grind [SMap.find]

@[simp] theorem SMap.find_put_same {α : Type} (m : SMap α) (k : Nat) (v : α) : (m.put k v).find k = some v :=
  (SMap.find_put m k k v).trans (if_pos rfl)

theorem SMap.find_put_ne {α : Type} (m : SMap α) (k j : Nat) (v : α) (h : j ≠ k) : (m.put k v).find j = m.find j :=
  (SMap.find_put m k j v).trans (if_neg h.symm)

@[simp] theorem SMap.get_put_same {α : Type} (m : SMap α) (d : α) (k : Nat) (v : α) : (m.put k v).get d k = v := by
  simp [SMap.get]

theorem SMap.get_put_ne {α : Type} (m : SMap α) (d : α) (k j : Nat) (v : α) (h : j ≠ k) :
    (m.put k v).get d j = m.get d j := by
  simp [SMap.get, SMap.find_put_ne m k j v h]

@[simp] theorem SMap.get_upd_same {α : Type} (m : SMap α) (d : α) (k : Nat) (f : α → α) :
    (m.upd d k f).get d k = f (m.get d k) := by
  simp [SMap.upd]

theorem SMap.get_upd_ne {α : Type} (m : SMap α) (d : α) (k j : Nat) (f : α → α) (h : j ≠ k) :
    (m.upd d k f).get d j = m.get d j := by
  simp [SMap.upd, SMap.get_put_ne m d k j _ h]

@[simp] theorem SMap.find_erase_same {α : Type} (m : SMap α) (k : Nat) : (m.erase k).find k = none :=
  (SMap.find_erase m k k).trans (if_pos rfl)

theorem SMap.find_erase_ne {α : Type} (m : SMap α) (k j : Nat) (h : j ≠ k) : (m.erase k).find j = m.find j :=
  (SMap.find_erase m k j).trans (if_neg h.symm)

@[simp] theorem SMap.get_nil {α : Type} (d : α) (k : Nat) : SMap.get ([] : SMap α) d k = d := rfl

/-! ### The canonical form -/

/-- The entries after a put are the new one and entries that were there. -/
theorem SMap.mem_put {α : Type} (m : SMap α) (k : Nat) (v : α) (e : Nat × α) (h : e ∈ m.put k v) : e = (k, v) ∨ e ∈ m := by
  fun_induction SMap.put m k v <;> grind

theorem SMap.put_all {α : Type} (m : SMap α) (k : Nat) (v : α) (p : Nat × α → Bool) (hk : p (k, v) = true)
    (hm : List.all m p = true) : List.all (m.put k v) p = true := by
  rw [List.all_eq_true] at hm ⊢
  intro e he
  rcases SMap.mem_put m k v e he with rfl | h
  exacts [hk, hm e h]

theorem SMap.sorted_put {α : Type} (m : SMap α) (k : Nat) (v : α) (h : m.Sorted = true) : (m.put k v).Sorted = true := by
  fun_induction SMap.put m k v with
  | case1 => rfl
  | case2 i x t lt =>
    simp only [SMap.Sorted, List.all_cons, Bool.and_eq_true, List.all_eq_true, decide_eq_true_eq] at h ⊢
    exact ⟨⟨lt, fun e he => lt.trans (h.1 e he)⟩, h⟩
  | case3 x t lt => exact h
  | case4 i x t lt ne ih =>
    simp only [SMap.Sorted, Bool.and_eq_true] at h ⊢
    exact ⟨SMap.put_all t k v _ (by simp only [decide_eq_true_eq]; omega) h.1, ih h.2⟩

theorem SMap.sorted_filter {α : Type} (m : SMap α) (p : Nat × α → Bool) (h : m.Sorted = true) :
    SMap.Sorted (List.filter p m) = true := by
  fun_induction SMap.Sorted m with
  | case1 => rfl
  | case2 j x t ih =>
    rw [Bool.and_eq_true, List.all_eq_true] at h
    rw [List.filter_cons]
    split
    · rw [SMap.Sorted, Bool.and_eq_true, List.all_eq_true]
      exact ⟨fun e he => h.1 e (List.mem_of_mem_filter he), ih h.2⟩
    · exact ih h.2

namespace Machine

theorem Memory.wf_filter (m : Memory) (p : Host.Cell → Bool) (h : m.wf = true) : Memory.wf (List.filter p m) = true := by
  simp only [Memory.wf, Bool.and_eq_true] at h ⊢
  refine ⟨SMap.sorted_filter m p h.1, ?_⟩
  exact List.all_eq_true.2 (fun e he => List.all_eq_true.1 h.2 e (List.mem_filter.1 he).1)

/-- Writing one byte keeps the canonical form. -/
theorem Memory.wf_write (m : Memory) (a : Nat) (b : Byte) (h : m.wf = true) : (m.write a b).wf = true := by
  unfold Memory.write
  split
  · exact Memory.wf_filter m _ h
  · rename_i hb
    simp only [Memory.wf, Bool.and_eq_true] at h ⊢
    exact ⟨SMap.sorted_put m a b h.1, SMap.put_all m a b _ (by simpa using hb) h.2⟩

/-- Writing bytes keeps the canonical form. -/
theorem Memory.wf_writeN (l : List Byte) (m : Memory) (a : Nat) (h : m.wf = true) : (m.writeN a l).wf = true := by
  induction l generalizing m a with
  | nil => exact h
  | cons b t ih => exact ih _ _ (Memory.wf_write m a b h)

/-! ### Reads after writes -/

@[simp] theorem Memory.read_write_same (m : Memory) (a : Nat) (b : Byte) : (m.write a b).read a = b := by
  unfold Memory.write Memory.read
  split
  · rename_i h; simp [SMap.get, h]
  · simp

theorem Memory.read_write_ne (m : Memory) (a c : Nat) (b : Byte) (h : c ≠ a) : (m.write a b).read c = m.read c := by
  unfold Memory.write Memory.read
  split
  · simp [SMap.get, SMap.find_erase_ne m a c h]
  · exact SMap.get_put_ne m _ a c b h

/-- A byte outside the bytes written reads as before. -/
theorem Memory.read_writeN_out (l : List Byte) (m : Memory) (a c : Nat) (h : c < a ∨ a + l.length ≤ c) :
    (m.writeN a l).read c = m.read c := by
  induction l generalizing m a with
  | nil => rfl
  | cons b t ih =>
    simp only [Memory.writeN, List.length_cons] at h ⊢
    rw [ih _ _ (by omega), Memory.read_write_ne m a c b (by omega)]

/-- A byte written reads as it was written. -/
theorem Memory.read_writeN_in (l : List Byte) (m : Memory) (a i : Nat) (h : i < l.length) :
    (m.writeN a l).read (a + i) = l[i] := by
  induction l generalizing m a i with
  | nil => simp at h
  | cons b t ih =>
    cases i with
    | zero => simp only [Memory.writeN, Nat.add_zero, List.getElem_cons_zero]
              rw [Memory.read_writeN_out t _ _ _ (by omega), Memory.read_write_same]
    | succ i =>
      simp only [Memory.writeN, List.getElem_cons_succ]
      have := ih (m.write a b) (a + 1) i (by simpa using h)
      rwa [show a + 1 + i = a + (i + 1) by omega] at this

@[simp] theorem Memory.readN_length (n : Nat) (m : Memory) (a : Nat) : (m.readN a n).length = n := by
  induction n generalizing a with
  | zero => rfl
  | succ n ih => simp [Memory.readN, ih]

/-- What has been written is read back. -/
theorem Memory.readN_writeN (l : List Byte) (m : Memory) (a : Nat) : (m.writeN a l).readN a l.length = l := by
  induction l generalizing m a with
  | nil => rfl
  | cons b t ih =>
    simp only [Memory.writeN, List.length_cons, Memory.readN, ih]
    rw [Memory.read_writeN_out t _ _ _ (by omega), Memory.read_write_same]

end Machine
end Sys2Proof
end

