-- ==== Sys2Proof/Laws/Issue.lean ====
section
/-! SUPPORT. What the shared operations do: records by number, the issue of an instruction by a thread or a controller, and the
guards of the rows. -/
namespace Sys2Proof.Machine

/-! ### Records by number -/

@[simp] theorem State.core_updCore_same (s : State) (k : Nat) (f : Core → Core) : (s.updCore k f).core k = f (s.core k) := by
  simp [State.core, State.updCore]

theorem State.core_updCore_ne (s : State) (k j : Nat) (f : Core → Core) (h : j ≠ k) : (s.updCore k f).core j = s.core j := by
  simp [State.core, State.updCore, SMap.get_upd_ne _ _ _ _ _ h]

@[simp] theorem State.thr_updThr_same (s : State) (k t : Nat) (f : Thread → Thread) :
    (s.updThr k t f).thr k t = f (s.thr k t) := by
  simp [State.thr, State.updThr]

theorem State.thr_updThr_ne (s : State) (k t j : Nat) (f : Thread → Thread) (h : j ≠ t) :
    (s.updThr k t f).thr k j = s.thr k j := by
  simp [State.thr, State.updThr, SMap.get_upd_ne _ _ _ _ _ h]

@[simp] theorem State.cl_updCl_same (s : State) (c : Nat) (f : Cluster → Cluster) : (s.updCl c f).cl c = f (s.cl c) := by
  simp [State.cl, State.updCl]

theorem State.cl_updCl_ne (s : State) (c j : Nat) (f : Cluster → Cluster) (h : j ≠ c) : (s.updCl c f).cl j = s.cl j := by
  simp [State.cl, State.updCl, SMap.get_upd_ne _ _ _ _ _ h]

@[simp] theorem State.ctl_updCtl_same (s : State) (c : Option Nat) (f : Ctl → Ctl) : (s.updCtl c f).ctl c = f (s.ctl c) := by
  cases c <;> simp [State.ctl, State.updCtl]

@[simp] theorem State.part_updPart_same (s : State) (p : Nat) (f : Part → Part) : (s.updPart p f).part p = f (s.part p) := by
  simp [State.part, State.updPart]

theorem State.part_updPart_ne (s : State) (p q : Nat) (f : Part → Part) (h : q ≠ p) : (s.updPart p f).part q = s.part q := by
  simp [State.part, State.updPart, SMap.get_upd_ne _ _ _ _ _ h]

@[simp] theorem State.func_updFunc_same (s : State) (p : Nat) (f : Func → Func) : (s.updFunc p f).func p = f (s.func p) := by
  simp [State.func, State.updFunc]

@[simp] theorem State.link_updLink_same (s : State) (n : Nat) (f : Link → Link) : (s.updLink n f).link n = f (s.link n) := by
  simp [State.link, State.updLink]

theorem State.link_updLink_ne (s : State) (n j : Nat) (f : Link → Link) (h : j ≠ n) : (s.updLink n f).link j = s.link j := by
  simp [State.link, State.updLink, SMap.get_upd_ne _ _ _ _ _ h]

@[simp] theorem State.stack_updStack_same (s : State) (n : Nat) (f : Hbm → Hbm) : (s.updStack n f).stack n = f (s.stack n) := by
  simp [State.stack, State.updStack]

@[simp] theorem State.secp_updSecp_same (s : State) (p : Nat) (f : SecPart → SecPart) : (s.updSecp p f).secp p = f (s.secp p) := by
  simp [State.secp, State.updSecp]

/-! ### Guards -/

theorem whenLive_live (s x : State) (h : s.live = true) : whenLive s x = .next x := by simp [whenLive, h]
theorem whenLive_not (s x : State) (h : s.live = false) : whenLive s x = .next s := by simp [whenLive, h]

theorem issueRow_legal (op : Nat) (w : W64) (s x y : State) (ho : opcOf w = op) (hl : s.live = true) :
    issueRow op w s x y = .next x := by simp [issueRow, ho, whenLive, hl]

theorem issueMeaning_legal (op : Nat) (a : Agent) (w : W64) (s : State) (vregs : List Nat) (touch : List (Nat × Nat × Nat))
    (thr : Hart → State → Res) (ctl : Option Nat → State → Res) (ho : opcOf w = op) (hl : s.live = true) :
    issueMeaning op a w s vregs touch thr ctl = .next (s.issueAny a w vregs touch thr ctl) :=
  issueRow_legal op w s _ _ ho hl

/-! ### Breakpoints that are not armed -/

theorem Bp.no_match (b : Bp) (kind t va len : Nat) (h : bitAt b.ctl.toNat 0 = false) : b.matches? kind t va len = false := by
  simp [Bp.matches?, h]

theorem State.bpScan_unarmed (s : State) (k t : Nat) (touch : List (Nat × Nat × Nat)) (h : s.unarmed k) :
    s.bpScan k t touch = (s, false) := by
  have key : ∀ l : List Nat, (∀ n ∈ l, n < 8) →
      l.foldl (fun (acc : State × Bool) n =>
        let s := acc.1
        let b := (s.core k).bp.get Bp.init n
        if touch.any (fun x => b.matches? x.1 t x.2.1 x.2.2) then
          let r := b.hit
          let s := s.updCore k (fun c => { c with bp := c.bp.put n r.1 })
          if r.2 then (s.fire k t b.action, acc.2 || b.action != 3) else (s, acc.2)
        else acc) (s, false) = (s, false) := by
    intro l
    induction l with
    | nil => intro _; rfl
    | cons n l ih =>
      intro hn
      have hm : touch.any (fun x => ((s.core k).bp.get Bp.init n).matches? x.1 t x.2.1 x.2.2) = false := by
        simp [Bp.no_match _ _ _ _ _ (h n (hn n (by simp)))]
      simp only [List.foldl_cons, hm]
      exact ih (fun m hm => hn m (by simp [hm]))
  exact key (upTo 8) (by simp [upTo])

theorem State.ctlBp_unarmed (s : State) (c : Nat) (touch : List (Nat × Nat × Nat)) (h : s.ctlUnarmed (some c)) :
    s.ctlBp c touch = (s, false) := by
  have key : ∀ l : List Nat, (∀ n ∈ l, n < 8) →
      l.foldl (fun (acc : State × Bool) n =>
        let s := acc.1
        let b := (s.cl c).ctl.bp.get Bp.init n
        if touch.any (fun x => decide (x.1 < 2) && b.matches? x.1 0 x.2.1 x.2.2) then
          let r := b.hit
          let s := s.updCl c (fun x => { x with ctl := { x.ctl with bp := x.ctl.bp.put n r.1 } })
          if r.2 then ((s.fire (coreKey c 0) 0 2).updCl c (fun x => { x with ctl := { x.ctl with halted := true } }), true)
          else (s, acc.2)
        else acc) (s, false) = (s, false) := by
    intro l
    induction l with
    | nil => intro _; rfl
    | cons n l ih =>
      intro hn
      have hm : touch.any (fun x => decide (x.1 < 2) && ((s.cl c).ctl.bp.get Bp.init n).matches? x.1 0 x.2.1 x.2.2) = false := by
        have h0 := h n (hn n (by simp))
        simp only [State.ctl] at h0
        simp [Bp.no_match _ _ _ _ _ h0]
      simp only [List.foldl_cons, hm]
      exact ih (fun m hm => hn m (by simp [hm]))
  exact key (upTo 8) (by simp [upTo])

/-! ### The issue by a thread -/

/-- An instruction that issues without a fault on a core with no armed breakpoint. -/
theorem State.issue_done (s s' : State) (h : Hart) (w : W64) (vregs : List Nat) (touch : List (Nat × Nat × Nat))
    (sem : State → Res) (hc : s.canIssue h.key h.thr.val w vregs = true) (hb : s.unarmed h.key) (hs : sem s = .done s') :
    s.issue h w vregs touch sem = (s'.noteIssue h.key h.thr.val).advance h.key h.thr.val := by
  simp [State.issue, hc, hs, State.bpScan_unarmed s _ _ _ hb]

theorem State.issue_jump (s s' : State) (h : Hart) (w : W64) (vregs : List Nat) (touch : List (Nat × Nat × Nat))
    (sem : State → Res) (pc : W64) (hc : s.canIssue h.key h.thr.val w vregs = true) (hb : s.unarmed h.key)
    (hs : sem s = .jump s' pc) :
    s.issue h w vregs touch sem =
      let s2 := (s'.noteIssue h.key h.thr.val).updThr h.key h.thr.val (fun th => th.jump pc)
      if opcOf w = 0x43 then s2 else s2.traceRec h.key 2 h.thr.val (s.thr h.key h.thr.val).pc.toNat pc.toNat := by
  simp [State.issue, hc, hs, State.bpScan_unarmed s _ _ _ hb]

theorem State.issue_fault (s : State) (h : Hart) (w : W64) (vregs : List Nat) (touch : List (Nat × Nat × Nat))
    (sem : State → Res) (code va : Nat) (hc : s.canIssue h.key h.thr.val w vregs = true) (hb : s.unarmed h.key)
    (hs : sem s = .fault code va) :
    s.issue h w vregs touch sem = (s.noteFault h.key code va).halt h.key h.thr.val code 0 va 0 := by
  simp [State.issue, hc, hs, State.bpScan_unarmed s _ _ _ hb]

/-- A fault that is neither MEM_UE nor TIER_FAULT nor PAGE_FAULT counts nothing besides. -/
theorem State.noteFault_none (s : State) (k code va : Nat) (h1 : code ≠ fcUe) (h2 : code ≠ fcTier) (h3 : code ≠ fcPage) :
    s.noteFault k code va = s := by
  simp [State.noteFault, h1, h2, h3]

theorem State.issue_trap (s : State) (h : Hart) (w : W64) (vregs : List Nat) (touch : List (Nat × Nat × Nat))
    (sem : State → Res) (imm : Nat) (hc : s.canIssue h.key h.thr.val w vregs = true) (hb : s.unarmed h.key)
    (hs : sem s = .trap imm) :
    s.issue h w vregs touch sem = s.halt h.key h.thr.val fcTrap 0 0 imm := by
  simp [State.issue, hc, hs, State.bpScan_unarmed s _ _ _ hb]

theorem State.issue_block (s s' : State) (h : Hart) (w : W64) (vregs : List Nat) (touch : List (Nat × Nat × Nat))
    (sem : State → Res) (hc : s.canIssue h.key h.thr.val w vregs = true) (hs : sem s = .block s') :
    s.issue h w vregs touch sem = s' := by
  simp [State.issue, hc, hs]

/-- A thread that may not issue the word does nothing. -/
theorem State.issue_not (s : State) (h : Hart) (w : W64) (vregs : List Nat) (touch : List (Nat × Nat × Nat))
    (sem : State → Res) (hc : s.canIssue h.key h.thr.val w vregs = false) : s.issue h w vregs touch sem = s := by
  simp [State.issue, hc]

/-! ### The issue by a controller -/

theorem State.ctlIssue_done (s s' : State) (c : Option Nat) (w : W64) (touch : List (Nat × Nat × Nat)) (sem : State → Res)
    (hi : s.ctlIssues c w) (ho : ctlOpc (opcOf w) = true) (hs : sem s = .done s') :
    s.ctlIssue c w touch sem = s'.updCtl c (fun t => { t with pc := t.pc + 8#64 }) := by
  obtain ⟨_, h1, h2, h3, h4, h5⟩ := hi
  cases c with
  | none => simp [State.ctlIssue, h1, h2, h3, h4, hs, ho]
  | some n => simp [State.ctlIssue, h1, h2, h3, h4, hs, ho, State.ctlBp_unarmed s n _ h5]

theorem State.ctlIssue_jump (s s' : State) (c : Option Nat) (w : W64) (touch : List (Nat × Nat × Nat)) (sem : State → Res)
    (pc : W64) (hi : s.ctlIssues c w) (ho : ctlOpc (opcOf w) = true) (hs : sem s = .jump s' pc) :
    s.ctlIssue c w touch sem = s'.updCtl c (fun t => { t with pc := pc }) := by
  obtain ⟨_, h1, h2, h3, h4, h5⟩ := hi
  cases c with
  | none => simp [State.ctlIssue, h1, h2, h3, h4, hs, ho]
  | some n => simp [State.ctlIssue, h1, h2, h3, h4, hs, ho, State.ctlBp_unarmed s n _ h5]

theorem State.ctlIssue_fault (s : State) (c : Option Nat) (w : W64) (touch : List (Nat × Nat × Nat)) (sem : State → Res)
    (code va : Nat) (hi : s.ctlIssues c w) (ho : ctlOpc (opcOf w) = true) (hs : sem s = .fault code va) :
    s.ctlIssue c w touch sem = (s.ctlNote c code va).ctlFault c code := by
  obtain ⟨_, h1, h2, h3, h4, h5⟩ := hi
  cases c with
  | none => simp [State.ctlIssue, h1, h2, h3, h4, hs, ho]
  | some n => simp [State.ctlIssue, h1, h2, h3, h4, hs, ho, State.ctlBp_unarmed s n _ h5]

theorem State.ctlIssue_block (s s' : State) (c : Option Nat) (w : W64) (touch : List (Nat × Nat × Nat)) (sem : State → Res)
    (hi : s.ctlIssues c w) (hs : sem s = .block s') : s.ctlIssue c w touch sem = s' := by
  obtain ⟨_, h1, h2, h3, h4, h5⟩ := hi
  simp [State.ctlIssue, h1, h2, h3, h4, hs]

/-! ### Memory (R764) -/

theorem Memory.readN_congr (m m' : Memory) (n a : Nat) (h : ∀ i, i < n → m.read (a + i) = m'.read (a + i)) :
    m.readN a n = m'.readN a n := by
  induction n generalizing a with
  | zero => rfl
  | succ n ih =>
    simp only [Memory.readN]
    rw [show m.read a = m'.read a from h 0 (by omega), ih (a + 1) (fun i hi => by
      have := h (i + 1) (by omega)
      rwa [show a + (i + 1) = a + 1 + i by omega] at this)]

@[simp] theorem State.xtsKey_mem (s : State) (m : Memory) (c : SMap (Nat × BitVec 32 × BitVec 64)) (a : Nat) :
    ({ s with mem := m, cipher := c } : State).xtsKey a = s.xtsKey a := rfl

theorem sliceB_length (l : List Byte) (i n : Nat) : (sliceB l i n).length = n := by
  simp only [sliceB, List.length_append, List.length_take, List.length_drop, List.length_replicate]; omega

theorem sliceB_getElem (l : List Byte) (n i : Nat) (h : i < n) :
    (sliceB l 0 n)[i]'(by rw [sliceB_length]; exact h) = l.getD i 0#8 := by
  simp only [sliceB, List.drop_zero, List.getElem_append, List.length_take, List.getElem_replicate, List.getElem_take,
    List.getD_eq_getElem?_getD]
  split
  · rename_i hl; rw [List.getElem?_eq_getElem (by omega)]; rfl
  · rename_i hl; rw [List.getElem?_eq_none (by omega)]; rfl

/-- A granule brought under its owner's key is under it. -/
theorem State.rekey_sameKey (s : State) (g : Nat) : (s.rekey g).sameKey g = true := by
  unfold State.rekey
  split
  · assumption
  · simp only [State.sameKey, State.cipherAt, State.xtsKey_mem]
    cases hr : regionOf (64 * g)
    · cases s.xtsKey (64 * g) <;> simp
    all_goals simp [State.xtsKey, hr]

theorem State.rekey_sameKey_ne (s : State) (g h : Nat) (hne : h ≠ g) : (s.rekey g).sameKey h = s.sameKey h := by
  unfold State.rekey
  split
  · rfl
  · simp only [State.sameKey, State.cipherAt, State.xtsKey_mem]
    cases s.xtsKey (64 * g) <;> simp [SMap.find_put_ne _ _ _ _ hne, SMap.find_erase_ne _ _ _ hne]

/-- Bringing a granule under its owner's key leaves every byte as it reads. -/
theorem State.rekey_rd (s : State) (g a : Nat) : (s.rekey g).rd a = s.rd a := by
  by_cases hs : s.sameKey g = true
  · simp [State.rekey, hs]
  · by_cases ha : a / 64 = g
    · have h1 : (s.rekey g).sameKey (a / 64) = true := by rw [ha]; exact State.rekey_sameKey s g
      have h2 : (s.rekey g).mem = Memory.writeN s.mem (64 * g) (sliceB (s.granule g) 0 64) := by simp [State.rekey, hs]
      have h3 : a = 64 * g + a % 64 := by omega
      have h4 : a % 64 < (sliceB (s.granule g) 0 64).length := by rw [sliceB_length]; omega
      rw [State.rd, if_pos h1, h2, State.rd, if_neg (by rw [ha]; exact hs), ha]
      conv_lhs => rw [h3]
      rw [Memory.read_writeN_in _ _ _ _ h4, sliceB_getElem _ _ _ (by omega)]
    · have hm : ∀ b, b / 64 ≠ g → Memory.read (s.rekey g).mem b = Memory.read s.mem b := by
        intro b hb
        have h2 : (s.rekey g).mem = Memory.writeN s.mem (64 * g) (sliceB (s.granule g) 0 64) := by simp [State.rekey, hs]
        rw [h2]
        exact Memory.read_writeN_out _ _ _ _ (by rw [sliceB_length]; omega)
      have hc : (s.rekey g).cipherAt (a / 64) = s.cipherAt (a / 64) := by
        simp only [State.rekey, hs, State.cipherAt]
        cases s.xtsKey (64 * g) <;> simp [SMap.find_put_ne _ _ _ _ ha, SMap.find_erase_ne _ _ _ ha]
      have hx : ∀ b, (s.rekey g).xtsKey b = s.xtsKey b := by intro b; simp [State.rekey, hs]
      have hp : ∀ b, (s.rekey g).xtsPair b = s.xtsPair b := by
        intro b; simp only [State.rekey, hs]; rfl
      have hr : Memory.readN (s.rekey g).mem (64 * (a / 64)) 64 = Memory.readN s.mem (64 * (a / 64)) 64 :=
        Memory.readN_congr _ _ _ _ (fun i hi => hm _ (by omega))
      have hg : (s.rekey g).granule (a / 64) = s.granule (a / 64) := by
        unfold State.granule
        simp only [hr, hc, hx, hp]
      rw [State.rd, State.rd, State.rekey_sameKey_ne _ _ _ ha, hg, hm a ha]

theorem State.rekeys_rd (l : List Nat) (s : State) (a : Nat) : (l.foldl (fun s g => s.rekey g) s).rd a = s.rd a := by
  induction l generalizing s with
  | nil => rfl
  | cons g l ih => rw [List.foldl_cons, ih, State.rekey_rd]

theorem State.rekeys_sameKey (l : List Nat) (s : State) (g : Nat) (h : g ∈ l ∨ s.sameKey g = true) :
    (l.foldl (fun s g => s.rekey g) s).sameKey g = true := by
  induction l generalizing s with
  | nil => simpa using h
  | cons j l ih =>
    rw [List.foldl_cons]
    by_cases hj : g = j
    · exact ih _ (.inr (by rw [hj]; exact State.rekey_sameKey s j))
    · refine ih _ ?_
      rcases h with h | h
      · exact .inl ((List.mem_cons.1 h).resolve_left hj)
      · exact .inr (by rw [State.rekey_sameKey_ne _ _ _ hj]; exact h)

theorem mem_granulesOf (a n i : Nat) (h : i < n) : (a + i) / 64 ∈ granulesOf a n := by
  rw [granulesOf, if_neg (by omega), List.mem_map]
  refine ⟨(a + i) / 64 - a / 64, ?_, ?_⟩
  · simp only [upTo, List.mem_range]; omega
  · omega

theorem State.rekey_wf (s : State) (g : Nat) (h : Memory.wf s.mem = true) : Memory.wf (s.rekey g).mem = true := by
  unfold State.rekey
  split
  · exact h
  · exact Memory.wf_writeN _ _ _ h

theorem State.wrN_wf (s : State) (a : Nat) (l : List Byte) (h : Memory.wf s.mem = true) : Memory.wf (s.wrN a l).mem = true := by
  refine Memory.wf_writeN _ _ _ ?_
  generalize granulesOf a l.length = gs
  induction gs generalizing s with
  | nil => exact h
  | cons g gs ih => exact ih _ (State.rekey_wf s g h)

/-- A store keeps the canonical form. -/
theorem State.store_wf (s : State) (a : Nat) (l : List Byte) (h : Memory.wf s.mem = true) : Memory.wf (s.store a l).mem = true :=
  State.wrN_wf s a l h

theorem State.wrVal_wf (s : State) (a n v : Nat) (h : Memory.wf s.mem = true) : Memory.wf (s.wrVal a n v).mem = true :=
  State.wrN_wf s a _ h

/-- A write of bytes leaves every other byte as it was. -/
theorem State.rd_wrN_out (s : State) (a c : Nat) (l : List Byte) (h : c < a ∨ a + l.length ≤ c) : (s.wrN a l).rd c = s.rd c := by
  rw [← State.rekeys_rd (granulesOf a l.length) s c]
  generalize hg : granulesOf a l.length = gs
  have hk : ∀ i, i < l.length → (gs.foldl (fun s g => s.rekey g) s).sameKey ((a + i) / 64) = true := fun i hi =>
    State.rekeys_sameKey gs s _ (.inl (by rw [← hg]; exact mem_granulesOf a _ i hi))
  simp only [State.wrN, hg]
  generalize gs.foldl (fun s g => s.rekey g) s = t at hk
  have hx : ∀ b, ({ t with mem := Memory.writeN t.mem a l } : State).xtsKey b = t.xtsKey b := fun _ => rfl
  have hs : ∀ g, ({ t with mem := Memory.writeN t.mem a l } : State).sameKey g = t.sameKey g := fun _ => rfl
  rw [State.rd, State.rd, hs]
  split
  · exact Memory.read_writeN_out _ _ _ _ h
  · rename_i hn
    have hr : Memory.readN (Memory.writeN t.mem a l) (64 * (c / 64)) 64 = Memory.readN t.mem (64 * (c / 64)) 64 := by
      refine Memory.readN_congr _ _ _ _ (fun i hi => Memory.read_writeN_out _ _ _ _ ?_)
      by_contra hc
      have := hk (64 * (c / 64) + i - a) (by omega)
      rw [show (a + (64 * (c / 64) + i - a)) / 64 = c / 64 by omega] at this
      exact hn this
    have : ({ t with mem := Memory.writeN t.mem a l } : State).granule (c / 64) = t.granule (c / 64) := by
      unfold State.granule
      simp only [hr]
      rfl
    rw [this]

/-- What a store leaves: the bytes stored, and every other byte as it was. -/
theorem State.rd_store_out (s : State) (a c : Nat) (l : List Byte) (h : c < a ∨ a + l.length ≤ c) :
    (s.store a l).rd c = s.rd c := State.rd_wrN_out s a c l h

theorem State.rdN_store (s : State) (a : Nat) (l : List Byte) : (s.store a l).rdN a l.length = l := by
  have hk : (granulesOf a l.length).all (s.store a l).sameKey = true := by
    rw [List.all_eq_true]
    intro g hg
    exact State.rekeys_sameKey (granulesOf a l.length) s g (.inl hg)
  rw [State.rdN, if_pos hk]
  exact Memory.readN_writeN l _ a

end Sys2Proof.Machine
end

