-- ==== Sys2Proof/Laws/Sched.lean ====
section
/-! SUPPORT. Laws of the scheduler: where every job of a partition stands still it changes nothing. -/
namespace Sys2Proof.Machine
theorem find_mem {α : Type} {m : SMap α} {k : Nat} {x : α} (h : m.find k = some x) : (k, x) ∈ m := by
  induction m with
  | nil => simp [SMap.find] at h
  | cons e t ih =>
    obtain ⟨j, y⟩ := e
    simp only [SMap.find] at h
    split at h
    · next hj => subst hj; simp_all
    · exact List.mem_cons_of_mem _ (ih h)

theorem job_mem {s : State} {p j : Nat} (h : (s.part p).jobs.has j = true) : (j, s.job p j) ∈ (s.part p).jobs := by
  unfold SMap.has at h
  obtain ⟨x, hx⟩ := Option.isSome_iff_exists.1 h
  have := find_mem hx
  simpa [State.job, SMap.get, hx] using this

theorem has_of_mem {α : Type} {m : SMap α} {e : Nat × α} (h : e ∈ m) : m.has e.1 = true := by
  induction m with
  | nil => simp at h
  | cons a t ih =>
    obtain ⟨j, y⟩ := a
    simp only [SMap.has, SMap.find]
    split
    · rfl
    · rcases List.mem_cons.1 h with rfl | h
      · simp_all
      · exact ih h

theorem State.settled.job {s : State} {p j : Nat} (h : s.settled p) (hj : (s.part p).jobs.has j = true) : (s.job p j).still :=
  h.1 _ (job_mem hj)

theorem preempt_settled {s : State} {p j : Nat} (h : s.settled p) (hj : (s.part p).jobs.has j = true) : s.preempt p j = s := by
  simp [State.preempt, (h.job hj).victim]

theorem nextVictim_settled {s : State} {p n : Nat} (h : s.settled p) : s.nextVictim p n = none := by
  have : ((s.part p).jobs.filter (fun x => !x.2.placed.isEmpty && !x.2.victim && decide (x.2.prio < n) &&
      !s.jobPinned p x.2)) = [] := by
    rw [List.filter_eq_nil_iff]
    intro x hx
    have hs := h.1 x hx
    rcases hs.rest with h1 | ⟨h1, -⟩
    · simp [h1]
    · simp [State.jobPinned, h1]
  simp [State.nextVictim, this]

theorem chooseCores_nil {j : Job} (h : j.still) : chooseCores j [] = none := by
  have h1 := h.cores
  by_cases hw : j.whole = true
  · have := h.whole hw
    have he : (List.filter (fun l => (upTo 8).all fun k => List.contains ([] : List (Nat × Nat)) (l, k)) (upTo 8)) = [] := by decide
    simp only [chooseCores, h.held, hw, he, List.isEmpty_nil, Bool.not_true, Bool.false_eq_true, if_false, if_true,
      List.length_nil]
    rw [if_pos (by omega)]
  · simp [chooseCores, h.held, hw]; omega

theorem placeLoop_settled {s : State} {p n : Nat} (h : s.settled p) : s.placeLoop p n = s := by
  cases n with
  | zero => rfl
  | succ n =>
    unfold State.placeLoop
    split
    · rfl
    · next a t ha =>
      have hm : a ∈ s.admission p := by simp [ha]
      simp only [State.admission, List.mem_map, List.mem_mergeSort, List.mem_filter] at hm
      obtain ⟨x, ⟨hx, hp⟩, rfl⟩ := hm
      have hhas := has_of_mem hx
      have hst := h.job hhas
      rcases h.2 with hf | hf
      · have hc : ∀ b, chooseCores (s.job p x.1) (s.freeCores p b) = none := by intro b; rw [hf]; exact chooseCores_nil hst
        simp only [hc]
        have hmv : ∀ m, s.markVictims p x.1 m = s := by
          intro m
          cases m with
          | zero => rfl
          | succ m =>
            simp only [State.markVictims]
            split
            · rfl
            · simp [nextVictim_settled h]
        simp only [hmv]
        have hpre : ∀ l : List Nat, (∀ v ∈ l, (s.part p).jobs.has v = true) → l.foldl (fun s v => s.preempt p v) s = s := by
          intro l hl
          induction l with
          | nil => rfl
          | cons v l ih =>
            simp only [List.foldl_cons]
            rw [preempt_settled h (hl v (by simp))]
            exact ih (fun w hw => hl w (by simp [hw]))
        rw [hpre _ (by
          intro v hv
          simp only [SMap.keys, List.mem_map] at hv
          obtain ⟨e, he, rfl⟩ := hv
          exact has_of_mem he)]
        simp [hc]
      · exact absurd (by simpa using hp) (hf x hx)

theorem buildStep_settled {s : State} {p j : Nat} (h : (s.job p j).still) : s.buildStep p j = s := by
  unfold State.buildStep
  have : (s.job p j).kind ≠ 1#2 ∨ !s.mayLaunch p j := by
    rcases h.rest with h1 | ⟨-, h1 | h1⟩
    · right; simp [State.mayLaunch, h1]
    · left; exact h1
    · right; cases hr : (s.job p j).running <;> simp_all [State.mayLaunch]
  simp only [this, if_true]

theorem launchPart_settled {s : State} {p j : Nat} (h : (s.job p j).still) :
    (if s.mayLaunch p j then (s.kvAct p j).buildStep p j else s) = s := by
  split
  · next hm =>
    have hk : (s.job p j).kind ≠ 1#2 := by
      rcases h.rest with h1 | ⟨-, h1 | h1⟩
      · simp [State.mayLaunch, h1] at hm
      · exact h1
      · cases hr : (s.job p j).running <;> simp_all [State.mayLaunch]
    have : s.kvAct p j = s := by simp [State.kvAct, hk]
    rw [this, buildStep_settled h]
  · rfl

theorem schedule_settled {s : State} {p : Nat} (h : s.settled p) : s.schedule p = s := by
  unfold State.schedule
  simp only [placeLoop_settled h]
  have key : ∀ l : List Nat, (∀ v ∈ l, (s.part p).jobs.has v = true) →
      l.foldl (fun s j => if s.mayLaunch p j then (s.kvAct p j).buildStep p j else s) s = s := by
    intro l hl
    induction l with
    | nil => rfl
    | cons v l ih =>
      simp only [List.foldl_cons]
      rw [launchPart_settled (h.job (hl v (by simp)))]
      exact ih (fun w hw => hl w (by simp [hw]))
  apply key
  intro v hv
  simp only [State.jobsByAdm, List.mem_map, List.mem_mergeSort] at hv
  obtain ⟨e, he, rfl⟩ := hv
  exact has_of_mem he
end Sys2Proof.Machine
end

