-- ==== Sys2Proof/Laws/State.lean ====
section
/-! SUPPORT. One lemma per field per update of the state: a setter changes its own field and no other. -/
namespace Sys2Proof.Machine

@[simp] theorem State.setDev_dev (s : State) (x : Dev) : (s.setDev x).dev = x := rfl
@[simp] theorem State.setDev_gaf (s : State) (x : Dev) : (s.setDev x).gaf = s.gaf := rfl
@[simp] theorem State.setDev_sec (s : State) (x : Dev) : (s.setDev x).sec = s.sec := rfl
@[simp] theorem State.setDev_time (s : State) (x : Dev) : (s.setDev x).time = s.time := rfl
@[simp] theorem State.setDev_dbg (s : State) (x : Dev) : (s.setDev x).dbg = s.dbg := rfl
@[simp] theorem State.setDev_usb (s : State) (x : Dev) : (s.setDev x).usb = s.usb := rfl
@[simp] theorem State.setDev_eth (s : State) (x : Dev) : (s.setDev x).eth = s.eth := rfl
@[simp] theorem State.setDev_ethUp (s : State) (x : Dev) : (s.setDev x).ethUp = s.ethUp := rfl
@[simp] theorem State.setDev_cam (s : State) (x : Dev) : (s.setDev x).cam = s.cam := rfl
@[simp] theorem State.setDev_aud (s : State) (x : Dev) : (s.setDev x).aud = s.aud := rfl
@[simp] theorem State.setDev_aon (s : State) (x : Dev) : (s.setDev x).aon = s.aon := rfl
@[simp] theorem State.setDev_hbm (s : State) (x : Dev) : (s.setDev x).hbm = s.hbm := rfl
@[simp] theorem State.setDev_links (s : State) (x : Dev) : (s.setDev x).links = s.links := rfl
@[simp] theorem State.setDev_clusters (s : State) (x : Dev) : (s.setDev x).clusters = s.clusters := rfl
@[simp] theorem State.setDev_cores (s : State) (x : Dev) : (s.setDev x).cores = s.cores := rfl
@[simp] theorem State.setDev_parts (s : State) (x : Dev) : (s.setDev x).parts = s.parts := rfl
@[simp] theorem State.setDev_devCtl (s : State) (x : Dev) : (s.setDev x).devCtl = s.devCtl := rfl
@[simp] theorem State.setDev_mem (s : State) (x : Dev) : (s.setDev x).mem = s.mem := rfl
@[simp] theorem State.setDev_cipher (s : State) (x : Dev) : (s.setDev x).cipher = s.cipher := rfl
@[simp] theorem State.setDev_badWords (s : State) (x : Dev) : (s.setDev x).badWords = s.badWords := rfl
@[simp] theorem State.setDev_poison (s : State) (x : Dev) : (s.setDev x).poison = s.poison := rfl
@[simp] theorem State.setDev_flash (s : State) (x : Dev) : (s.setDev x).flash = s.flash := rfl
@[simp] theorem State.setDev_pins (s : State) (x : Dev) : (s.setDev x).pins = s.pins := rfl
@[simp] theorem State.setDev_boot (s : State) (x : Dev) : (s.setDev x).boot = s.boot := rfl
@[simp] theorem State.setDev_danger (s : State) (x : Dev) : (s.setDev x).danger = s.danger := rfl
@[simp] theorem State.setDev_ind (s : State) (x : Dev) : (s.setDev x).ind = s.ind := rfl
@[simp] theorem State.setDev_latches (s : State) (x : Dev) : (s.setDev x).latches = s.latches := rfl
@[simp] theorem State.setDev_mboxTurn (s : State) (x : Dev) : (s.setDev x).mboxTurn = s.mboxTurn := rfl
@[simp] theorem State.setDev_mboxDone (s : State) (x : Dev) : (s.setDev x).mboxDone = s.mboxDone := rfl
@[simp] theorem State.setDev_usbData (s : State) (x : Dev) : (s.setDev x).usbData = s.usbData := rfl
@[simp] theorem State.setDev_cycle (s : State) (x : Dev) : (s.setDev x).cycle = s.cycle := rfl
@[simp] theorem State.setDev_dirty (s : State) (x : Dev) : (s.setDev x).dirty = s.dirty := rfl
@[simp] theorem State.setDev_freeCtr (s : State) (x : Dev) : (s.setDev x).freeCtr = s.freeCtr := rfl
@[simp] theorem State.setDev_pending (s : State) (x : Dev) : (s.setDev x).pending = s.pending := rfl
@[simp] theorem State.setGaf_dev (s : State) (x : Gaf) : (s.setGaf x).dev = s.dev := rfl
@[simp] theorem State.setGaf_gaf (s : State) (x : Gaf) : (s.setGaf x).gaf = x := rfl
@[simp] theorem State.setGaf_sec (s : State) (x : Gaf) : (s.setGaf x).sec = s.sec := rfl
@[simp] theorem State.setGaf_time (s : State) (x : Gaf) : (s.setGaf x).time = s.time := rfl
@[simp] theorem State.setGaf_dbg (s : State) (x : Gaf) : (s.setGaf x).dbg = s.dbg := rfl
@[simp] theorem State.setGaf_usb (s : State) (x : Gaf) : (s.setGaf x).usb = s.usb := rfl
@[simp] theorem State.setGaf_eth (s : State) (x : Gaf) : (s.setGaf x).eth = s.eth := rfl
@[simp] theorem State.setGaf_ethUp (s : State) (x : Gaf) : (s.setGaf x).ethUp = s.ethUp := rfl
@[simp] theorem State.setGaf_cam (s : State) (x : Gaf) : (s.setGaf x).cam = s.cam := rfl
@[simp] theorem State.setGaf_aud (s : State) (x : Gaf) : (s.setGaf x).aud = s.aud := rfl
@[simp] theorem State.setGaf_aon (s : State) (x : Gaf) : (s.setGaf x).aon = s.aon := rfl
@[simp] theorem State.setGaf_hbm (s : State) (x : Gaf) : (s.setGaf x).hbm = s.hbm := rfl
@[simp] theorem State.setGaf_links (s : State) (x : Gaf) : (s.setGaf x).links = s.links := rfl
@[simp] theorem State.setGaf_clusters (s : State) (x : Gaf) : (s.setGaf x).clusters = s.clusters := rfl
@[simp] theorem State.setGaf_cores (s : State) (x : Gaf) : (s.setGaf x).cores = s.cores := rfl
@[simp] theorem State.setGaf_parts (s : State) (x : Gaf) : (s.setGaf x).parts = s.parts := rfl
@[simp] theorem State.setGaf_devCtl (s : State) (x : Gaf) : (s.setGaf x).devCtl = s.devCtl := rfl
@[simp] theorem State.setGaf_mem (s : State) (x : Gaf) : (s.setGaf x).mem = s.mem := rfl
@[simp] theorem State.setGaf_cipher (s : State) (x : Gaf) : (s.setGaf x).cipher = s.cipher := rfl
@[simp] theorem State.setGaf_badWords (s : State) (x : Gaf) : (s.setGaf x).badWords = s.badWords := rfl
@[simp] theorem State.setGaf_poison (s : State) (x : Gaf) : (s.setGaf x).poison = s.poison := rfl
@[simp] theorem State.setGaf_flash (s : State) (x : Gaf) : (s.setGaf x).flash = s.flash := rfl
@[simp] theorem State.setGaf_pins (s : State) (x : Gaf) : (s.setGaf x).pins = s.pins := rfl
@[simp] theorem State.setGaf_boot (s : State) (x : Gaf) : (s.setGaf x).boot = s.boot := rfl
@[simp] theorem State.setGaf_danger (s : State) (x : Gaf) : (s.setGaf x).danger = s.danger := rfl
@[simp] theorem State.setGaf_ind (s : State) (x : Gaf) : (s.setGaf x).ind = s.ind := rfl
@[simp] theorem State.setGaf_latches (s : State) (x : Gaf) : (s.setGaf x).latches = s.latches := rfl
@[simp] theorem State.setGaf_mboxTurn (s : State) (x : Gaf) : (s.setGaf x).mboxTurn = s.mboxTurn := rfl
@[simp] theorem State.setGaf_mboxDone (s : State) (x : Gaf) : (s.setGaf x).mboxDone = s.mboxDone := rfl
@[simp] theorem State.setGaf_usbData (s : State) (x : Gaf) : (s.setGaf x).usbData = s.usbData := rfl
@[simp] theorem State.setGaf_cycle (s : State) (x : Gaf) : (s.setGaf x).cycle = s.cycle := rfl
@[simp] theorem State.setGaf_dirty (s : State) (x : Gaf) : (s.setGaf x).dirty = s.dirty := rfl
@[simp] theorem State.setGaf_freeCtr (s : State) (x : Gaf) : (s.setGaf x).freeCtr = s.freeCtr := rfl
@[simp] theorem State.setGaf_pending (s : State) (x : Gaf) : (s.setGaf x).pending = s.pending := rfl
@[simp] theorem State.setSec_dev (s : State) (x : Sec) : (s.setSec x).dev = s.dev := rfl
@[simp] theorem State.setSec_gaf (s : State) (x : Sec) : (s.setSec x).gaf = s.gaf := rfl
@[simp] theorem State.setSec_sec (s : State) (x : Sec) : (s.setSec x).sec = x := rfl
@[simp] theorem State.setSec_time (s : State) (x : Sec) : (s.setSec x).time = s.time := rfl
@[simp] theorem State.setSec_dbg (s : State) (x : Sec) : (s.setSec x).dbg = s.dbg := rfl
@[simp] theorem State.setSec_usb (s : State) (x : Sec) : (s.setSec x).usb = s.usb := rfl
@[simp] theorem State.setSec_eth (s : State) (x : Sec) : (s.setSec x).eth = s.eth := rfl
@[simp] theorem State.setSec_ethUp (s : State) (x : Sec) : (s.setSec x).ethUp = s.ethUp := rfl
@[simp] theorem State.setSec_cam (s : State) (x : Sec) : (s.setSec x).cam = s.cam := rfl
@[simp] theorem State.setSec_aud (s : State) (x : Sec) : (s.setSec x).aud = s.aud := rfl
@[simp] theorem State.setSec_aon (s : State) (x : Sec) : (s.setSec x).aon = s.aon := rfl
@[simp] theorem State.setSec_hbm (s : State) (x : Sec) : (s.setSec x).hbm = s.hbm := rfl
@[simp] theorem State.setSec_links (s : State) (x : Sec) : (s.setSec x).links = s.links := rfl
@[simp] theorem State.setSec_clusters (s : State) (x : Sec) : (s.setSec x).clusters = s.clusters := rfl
@[simp] theorem State.setSec_cores (s : State) (x : Sec) : (s.setSec x).cores = s.cores := rfl
@[simp] theorem State.setSec_parts (s : State) (x : Sec) : (s.setSec x).parts = s.parts := rfl
@[simp] theorem State.setSec_devCtl (s : State) (x : Sec) : (s.setSec x).devCtl = s.devCtl := rfl
@[simp] theorem State.setSec_mem (s : State) (x : Sec) : (s.setSec x).mem = s.mem := rfl
@[simp] theorem State.setSec_cipher (s : State) (x : Sec) : (s.setSec x).cipher = s.cipher := rfl
@[simp] theorem State.setSec_badWords (s : State) (x : Sec) : (s.setSec x).badWords = s.badWords := rfl
@[simp] theorem State.setSec_poison (s : State) (x : Sec) : (s.setSec x).poison = s.poison := rfl
@[simp] theorem State.setSec_flash (s : State) (x : Sec) : (s.setSec x).flash = s.flash := rfl
@[simp] theorem State.setSec_pins (s : State) (x : Sec) : (s.setSec x).pins = s.pins := rfl
@[simp] theorem State.setSec_boot (s : State) (x : Sec) : (s.setSec x).boot = s.boot := rfl
@[simp] theorem State.setSec_danger (s : State) (x : Sec) : (s.setSec x).danger = s.danger := rfl
@[simp] theorem State.setSec_ind (s : State) (x : Sec) : (s.setSec x).ind = s.ind := rfl
@[simp] theorem State.setSec_latches (s : State) (x : Sec) : (s.setSec x).latches = s.latches := rfl
@[simp] theorem State.setSec_mboxTurn (s : State) (x : Sec) : (s.setSec x).mboxTurn = s.mboxTurn := rfl
@[simp] theorem State.setSec_mboxDone (s : State) (x : Sec) : (s.setSec x).mboxDone = s.mboxDone := rfl
@[simp] theorem State.setSec_usbData (s : State) (x : Sec) : (s.setSec x).usbData = s.usbData := rfl
@[simp] theorem State.setSec_cycle (s : State) (x : Sec) : (s.setSec x).cycle = s.cycle := rfl
@[simp] theorem State.setSec_dirty (s : State) (x : Sec) : (s.setSec x).dirty = s.dirty := rfl
@[simp] theorem State.setSec_freeCtr (s : State) (x : Sec) : (s.setSec x).freeCtr = s.freeCtr := rfl
@[simp] theorem State.setSec_pending (s : State) (x : Sec) : (s.setSec x).pending = s.pending := rfl
@[simp] theorem State.setTime_dev (s : State) (x : Time) : (s.setTime x).dev = s.dev := rfl
@[simp] theorem State.setTime_gaf (s : State) (x : Time) : (s.setTime x).gaf = s.gaf := rfl
@[simp] theorem State.setTime_sec (s : State) (x : Time) : (s.setTime x).sec = s.sec := rfl
@[simp] theorem State.setTime_time (s : State) (x : Time) : (s.setTime x).time = x := rfl
@[simp] theorem State.setTime_dbg (s : State) (x : Time) : (s.setTime x).dbg = s.dbg := rfl
@[simp] theorem State.setTime_usb (s : State) (x : Time) : (s.setTime x).usb = s.usb := rfl
@[simp] theorem State.setTime_eth (s : State) (x : Time) : (s.setTime x).eth = s.eth := rfl
@[simp] theorem State.setTime_ethUp (s : State) (x : Time) : (s.setTime x).ethUp = s.ethUp := rfl
@[simp] theorem State.setTime_cam (s : State) (x : Time) : (s.setTime x).cam = s.cam := rfl
@[simp] theorem State.setTime_aud (s : State) (x : Time) : (s.setTime x).aud = s.aud := rfl
@[simp] theorem State.setTime_aon (s : State) (x : Time) : (s.setTime x).aon = s.aon := rfl
@[simp] theorem State.setTime_hbm (s : State) (x : Time) : (s.setTime x).hbm = s.hbm := rfl
@[simp] theorem State.setTime_links (s : State) (x : Time) : (s.setTime x).links = s.links := rfl
@[simp] theorem State.setTime_clusters (s : State) (x : Time) : (s.setTime x).clusters = s.clusters := rfl
@[simp] theorem State.setTime_cores (s : State) (x : Time) : (s.setTime x).cores = s.cores := rfl
@[simp] theorem State.setTime_parts (s : State) (x : Time) : (s.setTime x).parts = s.parts := rfl
@[simp] theorem State.setTime_devCtl (s : State) (x : Time) : (s.setTime x).devCtl = s.devCtl := rfl
@[simp] theorem State.setTime_mem (s : State) (x : Time) : (s.setTime x).mem = s.mem := rfl
@[simp] theorem State.setTime_cipher (s : State) (x : Time) : (s.setTime x).cipher = s.cipher := rfl
@[simp] theorem State.setTime_badWords (s : State) (x : Time) : (s.setTime x).badWords = s.badWords := rfl
@[simp] theorem State.setTime_poison (s : State) (x : Time) : (s.setTime x).poison = s.poison := rfl
@[simp] theorem State.setTime_flash (s : State) (x : Time) : (s.setTime x).flash = s.flash := rfl
@[simp] theorem State.setTime_pins (s : State) (x : Time) : (s.setTime x).pins = s.pins := rfl
@[simp] theorem State.setTime_boot (s : State) (x : Time) : (s.setTime x).boot = s.boot := rfl
@[simp] theorem State.setTime_danger (s : State) (x : Time) : (s.setTime x).danger = s.danger := rfl
@[simp] theorem State.setTime_ind (s : State) (x : Time) : (s.setTime x).ind = s.ind := rfl
@[simp] theorem State.setTime_latches (s : State) (x : Time) : (s.setTime x).latches = s.latches := rfl
@[simp] theorem State.setTime_mboxTurn (s : State) (x : Time) : (s.setTime x).mboxTurn = s.mboxTurn := rfl
@[simp] theorem State.setTime_mboxDone (s : State) (x : Time) : (s.setTime x).mboxDone = s.mboxDone := rfl
@[simp] theorem State.setTime_usbData (s : State) (x : Time) : (s.setTime x).usbData = s.usbData := rfl
@[simp] theorem State.setTime_cycle (s : State) (x : Time) : (s.setTime x).cycle = s.cycle := rfl
@[simp] theorem State.setTime_dirty (s : State) (x : Time) : (s.setTime x).dirty = s.dirty := rfl
@[simp] theorem State.setTime_freeCtr (s : State) (x : Time) : (s.setTime x).freeCtr = s.freeCtr := rfl
@[simp] theorem State.setTime_pending (s : State) (x : Time) : (s.setTime x).pending = s.pending := rfl
@[simp] theorem State.setDbg_dev (s : State) (x : Dbg) : (s.setDbg x).dev = s.dev := rfl
@[simp] theorem State.setDbg_gaf (s : State) (x : Dbg) : (s.setDbg x).gaf = s.gaf := rfl
@[simp] theorem State.setDbg_sec (s : State) (x : Dbg) : (s.setDbg x).sec = s.sec := rfl
@[simp] theorem State.setDbg_time (s : State) (x : Dbg) : (s.setDbg x).time = s.time := rfl
@[simp] theorem State.setDbg_dbg (s : State) (x : Dbg) : (s.setDbg x).dbg = x := rfl
@[simp] theorem State.setDbg_usb (s : State) (x : Dbg) : (s.setDbg x).usb = s.usb := rfl
@[simp] theorem State.setDbg_eth (s : State) (x : Dbg) : (s.setDbg x).eth = s.eth := rfl
@[simp] theorem State.setDbg_ethUp (s : State) (x : Dbg) : (s.setDbg x).ethUp = s.ethUp := rfl
@[simp] theorem State.setDbg_cam (s : State) (x : Dbg) : (s.setDbg x).cam = s.cam := rfl
@[simp] theorem State.setDbg_aud (s : State) (x : Dbg) : (s.setDbg x).aud = s.aud := rfl
@[simp] theorem State.setDbg_aon (s : State) (x : Dbg) : (s.setDbg x).aon = s.aon := rfl
@[simp] theorem State.setDbg_hbm (s : State) (x : Dbg) : (s.setDbg x).hbm = s.hbm := rfl
@[simp] theorem State.setDbg_links (s : State) (x : Dbg) : (s.setDbg x).links = s.links := rfl
@[simp] theorem State.setDbg_clusters (s : State) (x : Dbg) : (s.setDbg x).clusters = s.clusters := rfl
@[simp] theorem State.setDbg_cores (s : State) (x : Dbg) : (s.setDbg x).cores = s.cores := rfl
@[simp] theorem State.setDbg_parts (s : State) (x : Dbg) : (s.setDbg x).parts = s.parts := rfl
@[simp] theorem State.setDbg_devCtl (s : State) (x : Dbg) : (s.setDbg x).devCtl = s.devCtl := rfl
@[simp] theorem State.setDbg_mem (s : State) (x : Dbg) : (s.setDbg x).mem = s.mem := rfl
@[simp] theorem State.setDbg_cipher (s : State) (x : Dbg) : (s.setDbg x).cipher = s.cipher := rfl
@[simp] theorem State.setDbg_badWords (s : State) (x : Dbg) : (s.setDbg x).badWords = s.badWords := rfl
@[simp] theorem State.setDbg_poison (s : State) (x : Dbg) : (s.setDbg x).poison = s.poison := rfl
@[simp] theorem State.setDbg_flash (s : State) (x : Dbg) : (s.setDbg x).flash = s.flash := rfl
@[simp] theorem State.setDbg_pins (s : State) (x : Dbg) : (s.setDbg x).pins = s.pins := rfl
@[simp] theorem State.setDbg_boot (s : State) (x : Dbg) : (s.setDbg x).boot = s.boot := rfl
@[simp] theorem State.setDbg_danger (s : State) (x : Dbg) : (s.setDbg x).danger = s.danger := rfl
@[simp] theorem State.setDbg_ind (s : State) (x : Dbg) : (s.setDbg x).ind = s.ind := rfl
@[simp] theorem State.setDbg_latches (s : State) (x : Dbg) : (s.setDbg x).latches = s.latches := rfl
@[simp] theorem State.setDbg_mboxTurn (s : State) (x : Dbg) : (s.setDbg x).mboxTurn = s.mboxTurn := rfl
@[simp] theorem State.setDbg_mboxDone (s : State) (x : Dbg) : (s.setDbg x).mboxDone = s.mboxDone := rfl
@[simp] theorem State.setDbg_usbData (s : State) (x : Dbg) : (s.setDbg x).usbData = s.usbData := rfl
@[simp] theorem State.setDbg_cycle (s : State) (x : Dbg) : (s.setDbg x).cycle = s.cycle := rfl
@[simp] theorem State.setDbg_dirty (s : State) (x : Dbg) : (s.setDbg x).dirty = s.dirty := rfl
@[simp] theorem State.setDbg_freeCtr (s : State) (x : Dbg) : (s.setDbg x).freeCtr = s.freeCtr := rfl
@[simp] theorem State.setDbg_pending (s : State) (x : Dbg) : (s.setDbg x).pending = s.pending := rfl
@[simp] theorem State.setUsb_dev (s : State) (x : Usb) : (s.setUsb x).dev = s.dev := rfl
@[simp] theorem State.setUsb_gaf (s : State) (x : Usb) : (s.setUsb x).gaf = s.gaf := rfl
@[simp] theorem State.setUsb_sec (s : State) (x : Usb) : (s.setUsb x).sec = s.sec := rfl
@[simp] theorem State.setUsb_time (s : State) (x : Usb) : (s.setUsb x).time = s.time := rfl
@[simp] theorem State.setUsb_dbg (s : State) (x : Usb) : (s.setUsb x).dbg = s.dbg := rfl
@[simp] theorem State.setUsb_usb (s : State) (x : Usb) : (s.setUsb x).usb = x := rfl
@[simp] theorem State.setUsb_eth (s : State) (x : Usb) : (s.setUsb x).eth = s.eth := rfl
@[simp] theorem State.setUsb_ethUp (s : State) (x : Usb) : (s.setUsb x).ethUp = s.ethUp := rfl
@[simp] theorem State.setUsb_cam (s : State) (x : Usb) : (s.setUsb x).cam = s.cam := rfl
@[simp] theorem State.setUsb_aud (s : State) (x : Usb) : (s.setUsb x).aud = s.aud := rfl
@[simp] theorem State.setUsb_aon (s : State) (x : Usb) : (s.setUsb x).aon = s.aon := rfl
@[simp] theorem State.setUsb_hbm (s : State) (x : Usb) : (s.setUsb x).hbm = s.hbm := rfl
@[simp] theorem State.setUsb_links (s : State) (x : Usb) : (s.setUsb x).links = s.links := rfl
@[simp] theorem State.setUsb_clusters (s : State) (x : Usb) : (s.setUsb x).clusters = s.clusters := rfl
@[simp] theorem State.setUsb_cores (s : State) (x : Usb) : (s.setUsb x).cores = s.cores := rfl
@[simp] theorem State.setUsb_parts (s : State) (x : Usb) : (s.setUsb x).parts = s.parts := rfl
@[simp] theorem State.setUsb_devCtl (s : State) (x : Usb) : (s.setUsb x).devCtl = s.devCtl := rfl
@[simp] theorem State.setUsb_mem (s : State) (x : Usb) : (s.setUsb x).mem = s.mem := rfl
@[simp] theorem State.setUsb_cipher (s : State) (x : Usb) : (s.setUsb x).cipher = s.cipher := rfl
@[simp] theorem State.setUsb_badWords (s : State) (x : Usb) : (s.setUsb x).badWords = s.badWords := rfl
@[simp] theorem State.setUsb_poison (s : State) (x : Usb) : (s.setUsb x).poison = s.poison := rfl
@[simp] theorem State.setUsb_flash (s : State) (x : Usb) : (s.setUsb x).flash = s.flash := rfl
@[simp] theorem State.setUsb_pins (s : State) (x : Usb) : (s.setUsb x).pins = s.pins := rfl
@[simp] theorem State.setUsb_boot (s : State) (x : Usb) : (s.setUsb x).boot = s.boot := rfl
@[simp] theorem State.setUsb_danger (s : State) (x : Usb) : (s.setUsb x).danger = s.danger := rfl
@[simp] theorem State.setUsb_ind (s : State) (x : Usb) : (s.setUsb x).ind = s.ind := rfl
@[simp] theorem State.setUsb_latches (s : State) (x : Usb) : (s.setUsb x).latches = s.latches := rfl
@[simp] theorem State.setUsb_mboxTurn (s : State) (x : Usb) : (s.setUsb x).mboxTurn = s.mboxTurn := rfl
@[simp] theorem State.setUsb_mboxDone (s : State) (x : Usb) : (s.setUsb x).mboxDone = s.mboxDone := rfl
@[simp] theorem State.setUsb_usbData (s : State) (x : Usb) : (s.setUsb x).usbData = s.usbData := rfl
@[simp] theorem State.setUsb_cycle (s : State) (x : Usb) : (s.setUsb x).cycle = s.cycle := rfl
@[simp] theorem State.setUsb_dirty (s : State) (x : Usb) : (s.setUsb x).dirty = s.dirty := rfl
@[simp] theorem State.setUsb_freeCtr (s : State) (x : Usb) : (s.setUsb x).freeCtr = s.freeCtr := rfl
@[simp] theorem State.setUsb_pending (s : State) (x : Usb) : (s.setUsb x).pending = s.pending := rfl
@[simp] theorem State.setEth_dev (s : State) (x : BitVec 48) : (s.setEth x).dev = s.dev := rfl
@[simp] theorem State.setEth_gaf (s : State) (x : BitVec 48) : (s.setEth x).gaf = s.gaf := rfl
@[simp] theorem State.setEth_sec (s : State) (x : BitVec 48) : (s.setEth x).sec = s.sec := rfl
@[simp] theorem State.setEth_time (s : State) (x : BitVec 48) : (s.setEth x).time = s.time := rfl
@[simp] theorem State.setEth_dbg (s : State) (x : BitVec 48) : (s.setEth x).dbg = s.dbg := rfl
@[simp] theorem State.setEth_usb (s : State) (x : BitVec 48) : (s.setEth x).usb = s.usb := rfl
@[simp] theorem State.setEth_eth (s : State) (x : BitVec 48) : (s.setEth x).eth = x := rfl
@[simp] theorem State.setEth_ethUp (s : State) (x : BitVec 48) : (s.setEth x).ethUp = s.ethUp := rfl
@[simp] theorem State.setEth_cam (s : State) (x : BitVec 48) : (s.setEth x).cam = s.cam := rfl
@[simp] theorem State.setEth_aud (s : State) (x : BitVec 48) : (s.setEth x).aud = s.aud := rfl
@[simp] theorem State.setEth_aon (s : State) (x : BitVec 48) : (s.setEth x).aon = s.aon := rfl
@[simp] theorem State.setEth_hbm (s : State) (x : BitVec 48) : (s.setEth x).hbm = s.hbm := rfl
@[simp] theorem State.setEth_links (s : State) (x : BitVec 48) : (s.setEth x).links = s.links := rfl
@[simp] theorem State.setEth_clusters (s : State) (x : BitVec 48) : (s.setEth x).clusters = s.clusters := rfl
@[simp] theorem State.setEth_cores (s : State) (x : BitVec 48) : (s.setEth x).cores = s.cores := rfl
@[simp] theorem State.setEth_parts (s : State) (x : BitVec 48) : (s.setEth x).parts = s.parts := rfl
@[simp] theorem State.setEth_devCtl (s : State) (x : BitVec 48) : (s.setEth x).devCtl = s.devCtl := rfl
@[simp] theorem State.setEth_mem (s : State) (x : BitVec 48) : (s.setEth x).mem = s.mem := rfl
@[simp] theorem State.setEth_cipher (s : State) (x : BitVec 48) : (s.setEth x).cipher = s.cipher := rfl
@[simp] theorem State.setEth_badWords (s : State) (x : BitVec 48) : (s.setEth x).badWords = s.badWords := rfl
@[simp] theorem State.setEth_poison (s : State) (x : BitVec 48) : (s.setEth x).poison = s.poison := rfl
@[simp] theorem State.setEth_flash (s : State) (x : BitVec 48) : (s.setEth x).flash = s.flash := rfl
@[simp] theorem State.setEth_pins (s : State) (x : BitVec 48) : (s.setEth x).pins = s.pins := rfl
@[simp] theorem State.setEth_boot (s : State) (x : BitVec 48) : (s.setEth x).boot = s.boot := rfl
@[simp] theorem State.setEth_danger (s : State) (x : BitVec 48) : (s.setEth x).danger = s.danger := rfl
@[simp] theorem State.setEth_ind (s : State) (x : BitVec 48) : (s.setEth x).ind = s.ind := rfl
@[simp] theorem State.setEth_latches (s : State) (x : BitVec 48) : (s.setEth x).latches = s.latches := rfl
@[simp] theorem State.setEth_mboxTurn (s : State) (x : BitVec 48) : (s.setEth x).mboxTurn = s.mboxTurn := rfl
@[simp] theorem State.setEth_mboxDone (s : State) (x : BitVec 48) : (s.setEth x).mboxDone = s.mboxDone := rfl
@[simp] theorem State.setEth_usbData (s : State) (x : BitVec 48) : (s.setEth x).usbData = s.usbData := rfl
@[simp] theorem State.setEth_cycle (s : State) (x : BitVec 48) : (s.setEth x).cycle = s.cycle := rfl
@[simp] theorem State.setEth_dirty (s : State) (x : BitVec 48) : (s.setEth x).dirty = s.dirty := rfl
@[simp] theorem State.setEth_freeCtr (s : State) (x : BitVec 48) : (s.setEth x).freeCtr = s.freeCtr := rfl
@[simp] theorem State.setEth_pending (s : State) (x : BitVec 48) : (s.setEth x).pending = s.pending := rfl
@[simp] theorem State.setEthUp_dev (s : State) (x : Bool) : (s.setEthUp x).dev = s.dev := rfl
@[simp] theorem State.setEthUp_gaf (s : State) (x : Bool) : (s.setEthUp x).gaf = s.gaf := rfl
@[simp] theorem State.setEthUp_sec (s : State) (x : Bool) : (s.setEthUp x).sec = s.sec := rfl
@[simp] theorem State.setEthUp_time (s : State) (x : Bool) : (s.setEthUp x).time = s.time := rfl
@[simp] theorem State.setEthUp_dbg (s : State) (x : Bool) : (s.setEthUp x).dbg = s.dbg := rfl
@[simp] theorem State.setEthUp_usb (s : State) (x : Bool) : (s.setEthUp x).usb = s.usb := rfl
@[simp] theorem State.setEthUp_eth (s : State) (x : Bool) : (s.setEthUp x).eth = s.eth := rfl
@[simp] theorem State.setEthUp_ethUp (s : State) (x : Bool) : (s.setEthUp x).ethUp = x := rfl
@[simp] theorem State.setEthUp_cam (s : State) (x : Bool) : (s.setEthUp x).cam = s.cam := rfl
@[simp] theorem State.setEthUp_aud (s : State) (x : Bool) : (s.setEthUp x).aud = s.aud := rfl
@[simp] theorem State.setEthUp_aon (s : State) (x : Bool) : (s.setEthUp x).aon = s.aon := rfl
@[simp] theorem State.setEthUp_hbm (s : State) (x : Bool) : (s.setEthUp x).hbm = s.hbm := rfl
@[simp] theorem State.setEthUp_links (s : State) (x : Bool) : (s.setEthUp x).links = s.links := rfl
@[simp] theorem State.setEthUp_clusters (s : State) (x : Bool) : (s.setEthUp x).clusters = s.clusters := rfl
@[simp] theorem State.setEthUp_cores (s : State) (x : Bool) : (s.setEthUp x).cores = s.cores := rfl
@[simp] theorem State.setEthUp_parts (s : State) (x : Bool) : (s.setEthUp x).parts = s.parts := rfl
@[simp] theorem State.setEthUp_devCtl (s : State) (x : Bool) : (s.setEthUp x).devCtl = s.devCtl := rfl
@[simp] theorem State.setEthUp_mem (s : State) (x : Bool) : (s.setEthUp x).mem = s.mem := rfl
@[simp] theorem State.setEthUp_cipher (s : State) (x : Bool) : (s.setEthUp x).cipher = s.cipher := rfl
@[simp] theorem State.setEthUp_badWords (s : State) (x : Bool) : (s.setEthUp x).badWords = s.badWords := rfl
@[simp] theorem State.setEthUp_poison (s : State) (x : Bool) : (s.setEthUp x).poison = s.poison := rfl
@[simp] theorem State.setEthUp_flash (s : State) (x : Bool) : (s.setEthUp x).flash = s.flash := rfl
@[simp] theorem State.setEthUp_pins (s : State) (x : Bool) : (s.setEthUp x).pins = s.pins := rfl
@[simp] theorem State.setEthUp_boot (s : State) (x : Bool) : (s.setEthUp x).boot = s.boot := rfl
@[simp] theorem State.setEthUp_danger (s : State) (x : Bool) : (s.setEthUp x).danger = s.danger := rfl
@[simp] theorem State.setEthUp_ind (s : State) (x : Bool) : (s.setEthUp x).ind = s.ind := rfl
@[simp] theorem State.setEthUp_latches (s : State) (x : Bool) : (s.setEthUp x).latches = s.latches := rfl
@[simp] theorem State.setEthUp_mboxTurn (s : State) (x : Bool) : (s.setEthUp x).mboxTurn = s.mboxTurn := rfl
@[simp] theorem State.setEthUp_mboxDone (s : State) (x : Bool) : (s.setEthUp x).mboxDone = s.mboxDone := rfl
@[simp] theorem State.setEthUp_usbData (s : State) (x : Bool) : (s.setEthUp x).usbData = s.usbData := rfl
@[simp] theorem State.setEthUp_cycle (s : State) (x : Bool) : (s.setEthUp x).cycle = s.cycle := rfl
@[simp] theorem State.setEthUp_dirty (s : State) (x : Bool) : (s.setEthUp x).dirty = s.dirty := rfl
@[simp] theorem State.setEthUp_freeCtr (s : State) (x : Bool) : (s.setEthUp x).freeCtr = s.freeCtr := rfl
@[simp] theorem State.setEthUp_pending (s : State) (x : Bool) : (s.setEthUp x).pending = s.pending := rfl
@[simp] theorem State.setCam_dev (s : State) (x : Cam) : (s.setCam x).dev = s.dev := rfl
@[simp] theorem State.setCam_gaf (s : State) (x : Cam) : (s.setCam x).gaf = s.gaf := rfl
@[simp] theorem State.setCam_sec (s : State) (x : Cam) : (s.setCam x).sec = s.sec := rfl
@[simp] theorem State.setCam_time (s : State) (x : Cam) : (s.setCam x).time = s.time := rfl
@[simp] theorem State.setCam_dbg (s : State) (x : Cam) : (s.setCam x).dbg = s.dbg := rfl
@[simp] theorem State.setCam_usb (s : State) (x : Cam) : (s.setCam x).usb = s.usb := rfl
@[simp] theorem State.setCam_eth (s : State) (x : Cam) : (s.setCam x).eth = s.eth := rfl
@[simp] theorem State.setCam_ethUp (s : State) (x : Cam) : (s.setCam x).ethUp = s.ethUp := rfl
@[simp] theorem State.setCam_cam (s : State) (x : Cam) : (s.setCam x).cam = x := rfl
@[simp] theorem State.setCam_aud (s : State) (x : Cam) : (s.setCam x).aud = s.aud := rfl
@[simp] theorem State.setCam_aon (s : State) (x : Cam) : (s.setCam x).aon = s.aon := rfl
@[simp] theorem State.setCam_hbm (s : State) (x : Cam) : (s.setCam x).hbm = s.hbm := rfl
@[simp] theorem State.setCam_links (s : State) (x : Cam) : (s.setCam x).links = s.links := rfl
@[simp] theorem State.setCam_clusters (s : State) (x : Cam) : (s.setCam x).clusters = s.clusters := rfl
@[simp] theorem State.setCam_cores (s : State) (x : Cam) : (s.setCam x).cores = s.cores := rfl
@[simp] theorem State.setCam_parts (s : State) (x : Cam) : (s.setCam x).parts = s.parts := rfl
@[simp] theorem State.setCam_devCtl (s : State) (x : Cam) : (s.setCam x).devCtl = s.devCtl := rfl
@[simp] theorem State.setCam_mem (s : State) (x : Cam) : (s.setCam x).mem = s.mem := rfl
@[simp] theorem State.setCam_cipher (s : State) (x : Cam) : (s.setCam x).cipher = s.cipher := rfl
@[simp] theorem State.setCam_badWords (s : State) (x : Cam) : (s.setCam x).badWords = s.badWords := rfl
@[simp] theorem State.setCam_poison (s : State) (x : Cam) : (s.setCam x).poison = s.poison := rfl
@[simp] theorem State.setCam_flash (s : State) (x : Cam) : (s.setCam x).flash = s.flash := rfl
@[simp] theorem State.setCam_pins (s : State) (x : Cam) : (s.setCam x).pins = s.pins := rfl
@[simp] theorem State.setCam_boot (s : State) (x : Cam) : (s.setCam x).boot = s.boot := rfl
@[simp] theorem State.setCam_danger (s : State) (x : Cam) : (s.setCam x).danger = s.danger := rfl
@[simp] theorem State.setCam_ind (s : State) (x : Cam) : (s.setCam x).ind = s.ind := rfl
@[simp] theorem State.setCam_latches (s : State) (x : Cam) : (s.setCam x).latches = s.latches := rfl
@[simp] theorem State.setCam_mboxTurn (s : State) (x : Cam) : (s.setCam x).mboxTurn = s.mboxTurn := rfl
@[simp] theorem State.setCam_mboxDone (s : State) (x : Cam) : (s.setCam x).mboxDone = s.mboxDone := rfl
@[simp] theorem State.setCam_usbData (s : State) (x : Cam) : (s.setCam x).usbData = s.usbData := rfl
@[simp] theorem State.setCam_cycle (s : State) (x : Cam) : (s.setCam x).cycle = s.cycle := rfl
@[simp] theorem State.setCam_dirty (s : State) (x : Cam) : (s.setCam x).dirty = s.dirty := rfl
@[simp] theorem State.setCam_freeCtr (s : State) (x : Cam) : (s.setCam x).freeCtr = s.freeCtr := rfl
@[simp] theorem State.setCam_pending (s : State) (x : Cam) : (s.setCam x).pending = s.pending := rfl
@[simp] theorem State.setAud_dev (s : State) (x : Aud) : (s.setAud x).dev = s.dev := rfl
@[simp] theorem State.setAud_gaf (s : State) (x : Aud) : (s.setAud x).gaf = s.gaf := rfl
@[simp] theorem State.setAud_sec (s : State) (x : Aud) : (s.setAud x).sec = s.sec := rfl
@[simp] theorem State.setAud_time (s : State) (x : Aud) : (s.setAud x).time = s.time := rfl
@[simp] theorem State.setAud_dbg (s : State) (x : Aud) : (s.setAud x).dbg = s.dbg := rfl
@[simp] theorem State.setAud_usb (s : State) (x : Aud) : (s.setAud x).usb = s.usb := rfl
@[simp] theorem State.setAud_eth (s : State) (x : Aud) : (s.setAud x).eth = s.eth := rfl
@[simp] theorem State.setAud_ethUp (s : State) (x : Aud) : (s.setAud x).ethUp = s.ethUp := rfl
@[simp] theorem State.setAud_cam (s : State) (x : Aud) : (s.setAud x).cam = s.cam := rfl
@[simp] theorem State.setAud_aud (s : State) (x : Aud) : (s.setAud x).aud = x := rfl
@[simp] theorem State.setAud_aon (s : State) (x : Aud) : (s.setAud x).aon = s.aon := rfl
@[simp] theorem State.setAud_hbm (s : State) (x : Aud) : (s.setAud x).hbm = s.hbm := rfl
@[simp] theorem State.setAud_links (s : State) (x : Aud) : (s.setAud x).links = s.links := rfl
@[simp] theorem State.setAud_clusters (s : State) (x : Aud) : (s.setAud x).clusters = s.clusters := rfl
@[simp] theorem State.setAud_cores (s : State) (x : Aud) : (s.setAud x).cores = s.cores := rfl
@[simp] theorem State.setAud_parts (s : State) (x : Aud) : (s.setAud x).parts = s.parts := rfl
@[simp] theorem State.setAud_devCtl (s : State) (x : Aud) : (s.setAud x).devCtl = s.devCtl := rfl
@[simp] theorem State.setAud_mem (s : State) (x : Aud) : (s.setAud x).mem = s.mem := rfl
@[simp] theorem State.setAud_cipher (s : State) (x : Aud) : (s.setAud x).cipher = s.cipher := rfl
@[simp] theorem State.setAud_badWords (s : State) (x : Aud) : (s.setAud x).badWords = s.badWords := rfl
@[simp] theorem State.setAud_poison (s : State) (x : Aud) : (s.setAud x).poison = s.poison := rfl
@[simp] theorem State.setAud_flash (s : State) (x : Aud) : (s.setAud x).flash = s.flash := rfl
@[simp] theorem State.setAud_pins (s : State) (x : Aud) : (s.setAud x).pins = s.pins := rfl
@[simp] theorem State.setAud_boot (s : State) (x : Aud) : (s.setAud x).boot = s.boot := rfl
@[simp] theorem State.setAud_danger (s : State) (x : Aud) : (s.setAud x).danger = s.danger := rfl
@[simp] theorem State.setAud_ind (s : State) (x : Aud) : (s.setAud x).ind = s.ind := rfl
@[simp] theorem State.setAud_latches (s : State) (x : Aud) : (s.setAud x).latches = s.latches := rfl
@[simp] theorem State.setAud_mboxTurn (s : State) (x : Aud) : (s.setAud x).mboxTurn = s.mboxTurn := rfl
@[simp] theorem State.setAud_mboxDone (s : State) (x : Aud) : (s.setAud x).mboxDone = s.mboxDone := rfl
@[simp] theorem State.setAud_usbData (s : State) (x : Aud) : (s.setAud x).usbData = s.usbData := rfl
@[simp] theorem State.setAud_cycle (s : State) (x : Aud) : (s.setAud x).cycle = s.cycle := rfl
@[simp] theorem State.setAud_dirty (s : State) (x : Aud) : (s.setAud x).dirty = s.dirty := rfl
@[simp] theorem State.setAud_freeCtr (s : State) (x : Aud) : (s.setAud x).freeCtr = s.freeCtr := rfl
@[simp] theorem State.setAud_pending (s : State) (x : Aud) : (s.setAud x).pending = s.pending := rfl
@[simp] theorem State.setAon_dev (s : State) (x : Aon) : (s.setAon x).dev = s.dev := rfl
@[simp] theorem State.setAon_gaf (s : State) (x : Aon) : (s.setAon x).gaf = s.gaf := rfl
@[simp] theorem State.setAon_sec (s : State) (x : Aon) : (s.setAon x).sec = s.sec := rfl
@[simp] theorem State.setAon_time (s : State) (x : Aon) : (s.setAon x).time = s.time := rfl
@[simp] theorem State.setAon_dbg (s : State) (x : Aon) : (s.setAon x).dbg = s.dbg := rfl
@[simp] theorem State.setAon_usb (s : State) (x : Aon) : (s.setAon x).usb = s.usb := rfl
@[simp] theorem State.setAon_eth (s : State) (x : Aon) : (s.setAon x).eth = s.eth := rfl
@[simp] theorem State.setAon_ethUp (s : State) (x : Aon) : (s.setAon x).ethUp = s.ethUp := rfl
@[simp] theorem State.setAon_cam (s : State) (x : Aon) : (s.setAon x).cam = s.cam := rfl
@[simp] theorem State.setAon_aud (s : State) (x : Aon) : (s.setAon x).aud = s.aud := rfl
@[simp] theorem State.setAon_aon (s : State) (x : Aon) : (s.setAon x).aon = x := rfl
@[simp] theorem State.setAon_hbm (s : State) (x : Aon) : (s.setAon x).hbm = s.hbm := rfl
@[simp] theorem State.setAon_links (s : State) (x : Aon) : (s.setAon x).links = s.links := rfl
@[simp] theorem State.setAon_clusters (s : State) (x : Aon) : (s.setAon x).clusters = s.clusters := rfl
@[simp] theorem State.setAon_cores (s : State) (x : Aon) : (s.setAon x).cores = s.cores := rfl
@[simp] theorem State.setAon_parts (s : State) (x : Aon) : (s.setAon x).parts = s.parts := rfl
@[simp] theorem State.setAon_devCtl (s : State) (x : Aon) : (s.setAon x).devCtl = s.devCtl := rfl
@[simp] theorem State.setAon_mem (s : State) (x : Aon) : (s.setAon x).mem = s.mem := rfl
@[simp] theorem State.setAon_cipher (s : State) (x : Aon) : (s.setAon x).cipher = s.cipher := rfl
@[simp] theorem State.setAon_badWords (s : State) (x : Aon) : (s.setAon x).badWords = s.badWords := rfl
@[simp] theorem State.setAon_poison (s : State) (x : Aon) : (s.setAon x).poison = s.poison := rfl
@[simp] theorem State.setAon_flash (s : State) (x : Aon) : (s.setAon x).flash = s.flash := rfl
@[simp] theorem State.setAon_pins (s : State) (x : Aon) : (s.setAon x).pins = s.pins := rfl
@[simp] theorem State.setAon_boot (s : State) (x : Aon) : (s.setAon x).boot = s.boot := rfl
@[simp] theorem State.setAon_danger (s : State) (x : Aon) : (s.setAon x).danger = s.danger := rfl
@[simp] theorem State.setAon_ind (s : State) (x : Aon) : (s.setAon x).ind = s.ind := rfl
@[simp] theorem State.setAon_latches (s : State) (x : Aon) : (s.setAon x).latches = s.latches := rfl
@[simp] theorem State.setAon_mboxTurn (s : State) (x : Aon) : (s.setAon x).mboxTurn = s.mboxTurn := rfl
@[simp] theorem State.setAon_mboxDone (s : State) (x : Aon) : (s.setAon x).mboxDone = s.mboxDone := rfl
@[simp] theorem State.setAon_usbData (s : State) (x : Aon) : (s.setAon x).usbData = s.usbData := rfl
@[simp] theorem State.setAon_cycle (s : State) (x : Aon) : (s.setAon x).cycle = s.cycle := rfl
@[simp] theorem State.setAon_dirty (s : State) (x : Aon) : (s.setAon x).dirty = s.dirty := rfl
@[simp] theorem State.setAon_freeCtr (s : State) (x : Aon) : (s.setAon x).freeCtr = s.freeCtr := rfl
@[simp] theorem State.setAon_pending (s : State) (x : Aon) : (s.setAon x).pending = s.pending := rfl
@[simp] theorem State.setHbm_dev (s : State) (x : SMap Hbm) : (s.setHbm x).dev = s.dev := rfl
@[simp] theorem State.setHbm_gaf (s : State) (x : SMap Hbm) : (s.setHbm x).gaf = s.gaf := rfl
@[simp] theorem State.setHbm_sec (s : State) (x : SMap Hbm) : (s.setHbm x).sec = s.sec := rfl
@[simp] theorem State.setHbm_time (s : State) (x : SMap Hbm) : (s.setHbm x).time = s.time := rfl
@[simp] theorem State.setHbm_dbg (s : State) (x : SMap Hbm) : (s.setHbm x).dbg = s.dbg := rfl
@[simp] theorem State.setHbm_usb (s : State) (x : SMap Hbm) : (s.setHbm x).usb = s.usb := rfl
@[simp] theorem State.setHbm_eth (s : State) (x : SMap Hbm) : (s.setHbm x).eth = s.eth := rfl
@[simp] theorem State.setHbm_ethUp (s : State) (x : SMap Hbm) : (s.setHbm x).ethUp = s.ethUp := rfl
@[simp] theorem State.setHbm_cam (s : State) (x : SMap Hbm) : (s.setHbm x).cam = s.cam := rfl
@[simp] theorem State.setHbm_aud (s : State) (x : SMap Hbm) : (s.setHbm x).aud = s.aud := rfl
@[simp] theorem State.setHbm_aon (s : State) (x : SMap Hbm) : (s.setHbm x).aon = s.aon := rfl
@[simp] theorem State.setHbm_hbm (s : State) (x : SMap Hbm) : (s.setHbm x).hbm = x := rfl
@[simp] theorem State.setHbm_links (s : State) (x : SMap Hbm) : (s.setHbm x).links = s.links := rfl
@[simp] theorem State.setHbm_clusters (s : State) (x : SMap Hbm) : (s.setHbm x).clusters = s.clusters := rfl
@[simp] theorem State.setHbm_cores (s : State) (x : SMap Hbm) : (s.setHbm x).cores = s.cores := rfl
@[simp] theorem State.setHbm_parts (s : State) (x : SMap Hbm) : (s.setHbm x).parts = s.parts := rfl
@[simp] theorem State.setHbm_devCtl (s : State) (x : SMap Hbm) : (s.setHbm x).devCtl = s.devCtl := rfl
@[simp] theorem State.setHbm_mem (s : State) (x : SMap Hbm) : (s.setHbm x).mem = s.mem := rfl
@[simp] theorem State.setHbm_cipher (s : State) (x : SMap Hbm) : (s.setHbm x).cipher = s.cipher := rfl
@[simp] theorem State.setHbm_badWords (s : State) (x : SMap Hbm) : (s.setHbm x).badWords = s.badWords := rfl
@[simp] theorem State.setHbm_poison (s : State) (x : SMap Hbm) : (s.setHbm x).poison = s.poison := rfl
@[simp] theorem State.setHbm_flash (s : State) (x : SMap Hbm) : (s.setHbm x).flash = s.flash := rfl
@[simp] theorem State.setHbm_pins (s : State) (x : SMap Hbm) : (s.setHbm x).pins = s.pins := rfl
@[simp] theorem State.setHbm_boot (s : State) (x : SMap Hbm) : (s.setHbm x).boot = s.boot := rfl
@[simp] theorem State.setHbm_danger (s : State) (x : SMap Hbm) : (s.setHbm x).danger = s.danger := rfl
@[simp] theorem State.setHbm_ind (s : State) (x : SMap Hbm) : (s.setHbm x).ind = s.ind := rfl
@[simp] theorem State.setHbm_latches (s : State) (x : SMap Hbm) : (s.setHbm x).latches = s.latches := rfl
@[simp] theorem State.setHbm_mboxTurn (s : State) (x : SMap Hbm) : (s.setHbm x).mboxTurn = s.mboxTurn := rfl
@[simp] theorem State.setHbm_mboxDone (s : State) (x : SMap Hbm) : (s.setHbm x).mboxDone = s.mboxDone := rfl
@[simp] theorem State.setHbm_usbData (s : State) (x : SMap Hbm) : (s.setHbm x).usbData = s.usbData := rfl
@[simp] theorem State.setHbm_cycle (s : State) (x : SMap Hbm) : (s.setHbm x).cycle = s.cycle := rfl
@[simp] theorem State.setHbm_dirty (s : State) (x : SMap Hbm) : (s.setHbm x).dirty = s.dirty := rfl
@[simp] theorem State.setHbm_freeCtr (s : State) (x : SMap Hbm) : (s.setHbm x).freeCtr = s.freeCtr := rfl
@[simp] theorem State.setHbm_pending (s : State) (x : SMap Hbm) : (s.setHbm x).pending = s.pending := rfl
@[simp] theorem State.setLinks_dev (s : State) (x : SMap Link) : (s.setLinks x).dev = s.dev := rfl
@[simp] theorem State.setLinks_gaf (s : State) (x : SMap Link) : (s.setLinks x).gaf = s.gaf := rfl
@[simp] theorem State.setLinks_sec (s : State) (x : SMap Link) : (s.setLinks x).sec = s.sec := rfl
@[simp] theorem State.setLinks_time (s : State) (x : SMap Link) : (s.setLinks x).time = s.time := rfl
@[simp] theorem State.setLinks_dbg (s : State) (x : SMap Link) : (s.setLinks x).dbg = s.dbg := rfl
@[simp] theorem State.setLinks_usb (s : State) (x : SMap Link) : (s.setLinks x).usb = s.usb := rfl
@[simp] theorem State.setLinks_eth (s : State) (x : SMap Link) : (s.setLinks x).eth = s.eth := rfl
@[simp] theorem State.setLinks_ethUp (s : State) (x : SMap Link) : (s.setLinks x).ethUp = s.ethUp := rfl
@[simp] theorem State.setLinks_cam (s : State) (x : SMap Link) : (s.setLinks x).cam = s.cam := rfl
@[simp] theorem State.setLinks_aud (s : State) (x : SMap Link) : (s.setLinks x).aud = s.aud := rfl
@[simp] theorem State.setLinks_aon (s : State) (x : SMap Link) : (s.setLinks x).aon = s.aon := rfl
@[simp] theorem State.setLinks_hbm (s : State) (x : SMap Link) : (s.setLinks x).hbm = s.hbm := rfl
@[simp] theorem State.setLinks_links (s : State) (x : SMap Link) : (s.setLinks x).links = x := rfl
@[simp] theorem State.setLinks_clusters (s : State) (x : SMap Link) : (s.setLinks x).clusters = s.clusters := rfl
@[simp] theorem State.setLinks_cores (s : State) (x : SMap Link) : (s.setLinks x).cores = s.cores := rfl
@[simp] theorem State.setLinks_parts (s : State) (x : SMap Link) : (s.setLinks x).parts = s.parts := rfl
@[simp] theorem State.setLinks_devCtl (s : State) (x : SMap Link) : (s.setLinks x).devCtl = s.devCtl := rfl
@[simp] theorem State.setLinks_mem (s : State) (x : SMap Link) : (s.setLinks x).mem = s.mem := rfl
@[simp] theorem State.setLinks_cipher (s : State) (x : SMap Link) : (s.setLinks x).cipher = s.cipher := rfl
@[simp] theorem State.setLinks_badWords (s : State) (x : SMap Link) : (s.setLinks x).badWords = s.badWords := rfl
@[simp] theorem State.setLinks_poison (s : State) (x : SMap Link) : (s.setLinks x).poison = s.poison := rfl
@[simp] theorem State.setLinks_flash (s : State) (x : SMap Link) : (s.setLinks x).flash = s.flash := rfl
@[simp] theorem State.setLinks_pins (s : State) (x : SMap Link) : (s.setLinks x).pins = s.pins := rfl
@[simp] theorem State.setLinks_boot (s : State) (x : SMap Link) : (s.setLinks x).boot = s.boot := rfl
@[simp] theorem State.setLinks_danger (s : State) (x : SMap Link) : (s.setLinks x).danger = s.danger := rfl
@[simp] theorem State.setLinks_ind (s : State) (x : SMap Link) : (s.setLinks x).ind = s.ind := rfl
@[simp] theorem State.setLinks_latches (s : State) (x : SMap Link) : (s.setLinks x).latches = s.latches := rfl
@[simp] theorem State.setLinks_mboxTurn (s : State) (x : SMap Link) : (s.setLinks x).mboxTurn = s.mboxTurn := rfl
@[simp] theorem State.setLinks_mboxDone (s : State) (x : SMap Link) : (s.setLinks x).mboxDone = s.mboxDone := rfl
@[simp] theorem State.setLinks_usbData (s : State) (x : SMap Link) : (s.setLinks x).usbData = s.usbData := rfl
@[simp] theorem State.setLinks_cycle (s : State) (x : SMap Link) : (s.setLinks x).cycle = s.cycle := rfl
@[simp] theorem State.setLinks_dirty (s : State) (x : SMap Link) : (s.setLinks x).dirty = s.dirty := rfl
@[simp] theorem State.setLinks_freeCtr (s : State) (x : SMap Link) : (s.setLinks x).freeCtr = s.freeCtr := rfl
@[simp] theorem State.setLinks_pending (s : State) (x : SMap Link) : (s.setLinks x).pending = s.pending := rfl
@[simp] theorem State.setClusters_dev (s : State) (x : SMap Cluster) : (s.setClusters x).dev = s.dev := rfl
@[simp] theorem State.setClusters_gaf (s : State) (x : SMap Cluster) : (s.setClusters x).gaf = s.gaf := rfl
@[simp] theorem State.setClusters_sec (s : State) (x : SMap Cluster) : (s.setClusters x).sec = s.sec := rfl
@[simp] theorem State.setClusters_time (s : State) (x : SMap Cluster) : (s.setClusters x).time = s.time := rfl
@[simp] theorem State.setClusters_dbg (s : State) (x : SMap Cluster) : (s.setClusters x).dbg = s.dbg := rfl
@[simp] theorem State.setClusters_usb (s : State) (x : SMap Cluster) : (s.setClusters x).usb = s.usb := rfl
@[simp] theorem State.setClusters_eth (s : State) (x : SMap Cluster) : (s.setClusters x).eth = s.eth := rfl
@[simp] theorem State.setClusters_ethUp (s : State) (x : SMap Cluster) : (s.setClusters x).ethUp = s.ethUp := rfl
@[simp] theorem State.setClusters_cam (s : State) (x : SMap Cluster) : (s.setClusters x).cam = s.cam := rfl
@[simp] theorem State.setClusters_aud (s : State) (x : SMap Cluster) : (s.setClusters x).aud = s.aud := rfl
@[simp] theorem State.setClusters_aon (s : State) (x : SMap Cluster) : (s.setClusters x).aon = s.aon := rfl
@[simp] theorem State.setClusters_hbm (s : State) (x : SMap Cluster) : (s.setClusters x).hbm = s.hbm := rfl
@[simp] theorem State.setClusters_links (s : State) (x : SMap Cluster) : (s.setClusters x).links = s.links := rfl
@[simp] theorem State.setClusters_clusters (s : State) (x : SMap Cluster) : (s.setClusters x).clusters = x := rfl
@[simp] theorem State.setClusters_cores (s : State) (x : SMap Cluster) : (s.setClusters x).cores = s.cores := rfl
@[simp] theorem State.setClusters_parts (s : State) (x : SMap Cluster) : (s.setClusters x).parts = s.parts := rfl
@[simp] theorem State.setClusters_devCtl (s : State) (x : SMap Cluster) : (s.setClusters x).devCtl = s.devCtl := rfl
@[simp] theorem State.setClusters_mem (s : State) (x : SMap Cluster) : (s.setClusters x).mem = s.mem := rfl
@[simp] theorem State.setClusters_cipher (s : State) (x : SMap Cluster) : (s.setClusters x).cipher = s.cipher := rfl
@[simp] theorem State.setClusters_badWords (s : State) (x : SMap Cluster) : (s.setClusters x).badWords = s.badWords := rfl
@[simp] theorem State.setClusters_poison (s : State) (x : SMap Cluster) : (s.setClusters x).poison = s.poison := rfl
@[simp] theorem State.setClusters_flash (s : State) (x : SMap Cluster) : (s.setClusters x).flash = s.flash := rfl
@[simp] theorem State.setClusters_pins (s : State) (x : SMap Cluster) : (s.setClusters x).pins = s.pins := rfl
@[simp] theorem State.setClusters_boot (s : State) (x : SMap Cluster) : (s.setClusters x).boot = s.boot := rfl
@[simp] theorem State.setClusters_danger (s : State) (x : SMap Cluster) : (s.setClusters x).danger = s.danger := rfl
@[simp] theorem State.setClusters_ind (s : State) (x : SMap Cluster) : (s.setClusters x).ind = s.ind := rfl
@[simp] theorem State.setClusters_latches (s : State) (x : SMap Cluster) : (s.setClusters x).latches = s.latches := rfl
@[simp] theorem State.setClusters_mboxTurn (s : State) (x : SMap Cluster) : (s.setClusters x).mboxTurn = s.mboxTurn := rfl
@[simp] theorem State.setClusters_mboxDone (s : State) (x : SMap Cluster) : (s.setClusters x).mboxDone = s.mboxDone := rfl
@[simp] theorem State.setClusters_usbData (s : State) (x : SMap Cluster) : (s.setClusters x).usbData = s.usbData := rfl
@[simp] theorem State.setClusters_cycle (s : State) (x : SMap Cluster) : (s.setClusters x).cycle = s.cycle := rfl
@[simp] theorem State.setClusters_dirty (s : State) (x : SMap Cluster) : (s.setClusters x).dirty = s.dirty := rfl
@[simp] theorem State.setClusters_freeCtr (s : State) (x : SMap Cluster) : (s.setClusters x).freeCtr = s.freeCtr := rfl
@[simp] theorem State.setClusters_pending (s : State) (x : SMap Cluster) : (s.setClusters x).pending = s.pending := rfl
@[simp] theorem State.setCores_dev (s : State) (x : SMap Core) : (s.setCores x).dev = s.dev := rfl
@[simp] theorem State.setCores_gaf (s : State) (x : SMap Core) : (s.setCores x).gaf = s.gaf := rfl
@[simp] theorem State.setCores_sec (s : State) (x : SMap Core) : (s.setCores x).sec = s.sec := rfl
@[simp] theorem State.setCores_time (s : State) (x : SMap Core) : (s.setCores x).time = s.time := rfl
@[simp] theorem State.setCores_dbg (s : State) (x : SMap Core) : (s.setCores x).dbg = s.dbg := rfl
@[simp] theorem State.setCores_usb (s : State) (x : SMap Core) : (s.setCores x).usb = s.usb := rfl
@[simp] theorem State.setCores_eth (s : State) (x : SMap Core) : (s.setCores x).eth = s.eth := rfl
@[simp] theorem State.setCores_ethUp (s : State) (x : SMap Core) : (s.setCores x).ethUp = s.ethUp := rfl
@[simp] theorem State.setCores_cam (s : State) (x : SMap Core) : (s.setCores x).cam = s.cam := rfl
@[simp] theorem State.setCores_aud (s : State) (x : SMap Core) : (s.setCores x).aud = s.aud := rfl
@[simp] theorem State.setCores_aon (s : State) (x : SMap Core) : (s.setCores x).aon = s.aon := rfl
@[simp] theorem State.setCores_hbm (s : State) (x : SMap Core) : (s.setCores x).hbm = s.hbm := rfl
@[simp] theorem State.setCores_links (s : State) (x : SMap Core) : (s.setCores x).links = s.links := rfl
@[simp] theorem State.setCores_clusters (s : State) (x : SMap Core) : (s.setCores x).clusters = s.clusters := rfl
@[simp] theorem State.setCores_cores (s : State) (x : SMap Core) : (s.setCores x).cores = x := rfl
@[simp] theorem State.setCores_parts (s : State) (x : SMap Core) : (s.setCores x).parts = s.parts := rfl
@[simp] theorem State.setCores_devCtl (s : State) (x : SMap Core) : (s.setCores x).devCtl = s.devCtl := rfl
@[simp] theorem State.setCores_mem (s : State) (x : SMap Core) : (s.setCores x).mem = s.mem := rfl
@[simp] theorem State.setCores_cipher (s : State) (x : SMap Core) : (s.setCores x).cipher = s.cipher := rfl
@[simp] theorem State.setCores_badWords (s : State) (x : SMap Core) : (s.setCores x).badWords = s.badWords := rfl
@[simp] theorem State.setCores_poison (s : State) (x : SMap Core) : (s.setCores x).poison = s.poison := rfl
@[simp] theorem State.setCores_flash (s : State) (x : SMap Core) : (s.setCores x).flash = s.flash := rfl
@[simp] theorem State.setCores_pins (s : State) (x : SMap Core) : (s.setCores x).pins = s.pins := rfl
@[simp] theorem State.setCores_boot (s : State) (x : SMap Core) : (s.setCores x).boot = s.boot := rfl
@[simp] theorem State.setCores_danger (s : State) (x : SMap Core) : (s.setCores x).danger = s.danger := rfl
@[simp] theorem State.setCores_ind (s : State) (x : SMap Core) : (s.setCores x).ind = s.ind := rfl
@[simp] theorem State.setCores_latches (s : State) (x : SMap Core) : (s.setCores x).latches = s.latches := rfl
@[simp] theorem State.setCores_mboxTurn (s : State) (x : SMap Core) : (s.setCores x).mboxTurn = s.mboxTurn := rfl
@[simp] theorem State.setCores_mboxDone (s : State) (x : SMap Core) : (s.setCores x).mboxDone = s.mboxDone := rfl
@[simp] theorem State.setCores_usbData (s : State) (x : SMap Core) : (s.setCores x).usbData = s.usbData := rfl
@[simp] theorem State.setCores_cycle (s : State) (x : SMap Core) : (s.setCores x).cycle = s.cycle := rfl
@[simp] theorem State.setCores_dirty (s : State) (x : SMap Core) : (s.setCores x).dirty = s.dirty := rfl
@[simp] theorem State.setCores_freeCtr (s : State) (x : SMap Core) : (s.setCores x).freeCtr = s.freeCtr := rfl
@[simp] theorem State.setCores_pending (s : State) (x : SMap Core) : (s.setCores x).pending = s.pending := rfl
@[simp] theorem State.setParts_dev (s : State) (x : SMap Part) : (s.setParts x).dev = s.dev := rfl
@[simp] theorem State.setParts_gaf (s : State) (x : SMap Part) : (s.setParts x).gaf = s.gaf := rfl
@[simp] theorem State.setParts_sec (s : State) (x : SMap Part) : (s.setParts x).sec = s.sec := rfl
@[simp] theorem State.setParts_time (s : State) (x : SMap Part) : (s.setParts x).time = s.time := rfl
@[simp] theorem State.setParts_dbg (s : State) (x : SMap Part) : (s.setParts x).dbg = s.dbg := rfl
@[simp] theorem State.setParts_usb (s : State) (x : SMap Part) : (s.setParts x).usb = s.usb := rfl
@[simp] theorem State.setParts_eth (s : State) (x : SMap Part) : (s.setParts x).eth = s.eth := rfl
@[simp] theorem State.setParts_ethUp (s : State) (x : SMap Part) : (s.setParts x).ethUp = s.ethUp := rfl
@[simp] theorem State.setParts_cam (s : State) (x : SMap Part) : (s.setParts x).cam = s.cam := rfl
@[simp] theorem State.setParts_aud (s : State) (x : SMap Part) : (s.setParts x).aud = s.aud := rfl
@[simp] theorem State.setParts_aon (s : State) (x : SMap Part) : (s.setParts x).aon = s.aon := rfl
@[simp] theorem State.setParts_hbm (s : State) (x : SMap Part) : (s.setParts x).hbm = s.hbm := rfl
@[simp] theorem State.setParts_links (s : State) (x : SMap Part) : (s.setParts x).links = s.links := rfl
@[simp] theorem State.setParts_clusters (s : State) (x : SMap Part) : (s.setParts x).clusters = s.clusters := rfl
@[simp] theorem State.setParts_cores (s : State) (x : SMap Part) : (s.setParts x).cores = s.cores := rfl
@[simp] theorem State.setParts_parts (s : State) (x : SMap Part) : (s.setParts x).parts = x := rfl
@[simp] theorem State.setParts_devCtl (s : State) (x : SMap Part) : (s.setParts x).devCtl = s.devCtl := rfl
@[simp] theorem State.setParts_mem (s : State) (x : SMap Part) : (s.setParts x).mem = s.mem := rfl
@[simp] theorem State.setParts_cipher (s : State) (x : SMap Part) : (s.setParts x).cipher = s.cipher := rfl
@[simp] theorem State.setParts_badWords (s : State) (x : SMap Part) : (s.setParts x).badWords = s.badWords := rfl
@[simp] theorem State.setParts_poison (s : State) (x : SMap Part) : (s.setParts x).poison = s.poison := rfl
@[simp] theorem State.setParts_flash (s : State) (x : SMap Part) : (s.setParts x).flash = s.flash := rfl
@[simp] theorem State.setParts_pins (s : State) (x : SMap Part) : (s.setParts x).pins = s.pins := rfl
@[simp] theorem State.setParts_boot (s : State) (x : SMap Part) : (s.setParts x).boot = s.boot := rfl
@[simp] theorem State.setParts_danger (s : State) (x : SMap Part) : (s.setParts x).danger = s.danger := rfl
@[simp] theorem State.setParts_ind (s : State) (x : SMap Part) : (s.setParts x).ind = s.ind := rfl
@[simp] theorem State.setParts_latches (s : State) (x : SMap Part) : (s.setParts x).latches = s.latches := rfl
@[simp] theorem State.setParts_mboxTurn (s : State) (x : SMap Part) : (s.setParts x).mboxTurn = s.mboxTurn := rfl
@[simp] theorem State.setParts_mboxDone (s : State) (x : SMap Part) : (s.setParts x).mboxDone = s.mboxDone := rfl
@[simp] theorem State.setParts_usbData (s : State) (x : SMap Part) : (s.setParts x).usbData = s.usbData := rfl
@[simp] theorem State.setParts_cycle (s : State) (x : SMap Part) : (s.setParts x).cycle = s.cycle := rfl
@[simp] theorem State.setParts_dirty (s : State) (x : SMap Part) : (s.setParts x).dirty = s.dirty := rfl
@[simp] theorem State.setParts_freeCtr (s : State) (x : SMap Part) : (s.setParts x).freeCtr = s.freeCtr := rfl
@[simp] theorem State.setParts_pending (s : State) (x : SMap Part) : (s.setParts x).pending = s.pending := rfl
@[simp] theorem State.setDevCtl_dev (s : State) (x : Ctl) : (s.setDevCtl x).dev = s.dev := rfl
@[simp] theorem State.setDevCtl_gaf (s : State) (x : Ctl) : (s.setDevCtl x).gaf = s.gaf := rfl
@[simp] theorem State.setDevCtl_sec (s : State) (x : Ctl) : (s.setDevCtl x).sec = s.sec := rfl
@[simp] theorem State.setDevCtl_time (s : State) (x : Ctl) : (s.setDevCtl x).time = s.time := rfl
@[simp] theorem State.setDevCtl_dbg (s : State) (x : Ctl) : (s.setDevCtl x).dbg = s.dbg := rfl
@[simp] theorem State.setDevCtl_usb (s : State) (x : Ctl) : (s.setDevCtl x).usb = s.usb := rfl
@[simp] theorem State.setDevCtl_eth (s : State) (x : Ctl) : (s.setDevCtl x).eth = s.eth := rfl
@[simp] theorem State.setDevCtl_ethUp (s : State) (x : Ctl) : (s.setDevCtl x).ethUp = s.ethUp := rfl
@[simp] theorem State.setDevCtl_cam (s : State) (x : Ctl) : (s.setDevCtl x).cam = s.cam := rfl
@[simp] theorem State.setDevCtl_aud (s : State) (x : Ctl) : (s.setDevCtl x).aud = s.aud := rfl
@[simp] theorem State.setDevCtl_aon (s : State) (x : Ctl) : (s.setDevCtl x).aon = s.aon := rfl
@[simp] theorem State.setDevCtl_hbm (s : State) (x : Ctl) : (s.setDevCtl x).hbm = s.hbm := rfl
@[simp] theorem State.setDevCtl_links (s : State) (x : Ctl) : (s.setDevCtl x).links = s.links := rfl
@[simp] theorem State.setDevCtl_clusters (s : State) (x : Ctl) : (s.setDevCtl x).clusters = s.clusters := rfl
@[simp] theorem State.setDevCtl_cores (s : State) (x : Ctl) : (s.setDevCtl x).cores = s.cores := rfl
@[simp] theorem State.setDevCtl_parts (s : State) (x : Ctl) : (s.setDevCtl x).parts = s.parts := rfl
@[simp] theorem State.setDevCtl_devCtl (s : State) (x : Ctl) : (s.setDevCtl x).devCtl = x := rfl
@[simp] theorem State.setDevCtl_mem (s : State) (x : Ctl) : (s.setDevCtl x).mem = s.mem := rfl
@[simp] theorem State.setDevCtl_cipher (s : State) (x : Ctl) : (s.setDevCtl x).cipher = s.cipher := rfl
@[simp] theorem State.setDevCtl_badWords (s : State) (x : Ctl) : (s.setDevCtl x).badWords = s.badWords := rfl
@[simp] theorem State.setDevCtl_poison (s : State) (x : Ctl) : (s.setDevCtl x).poison = s.poison := rfl
@[simp] theorem State.setDevCtl_flash (s : State) (x : Ctl) : (s.setDevCtl x).flash = s.flash := rfl
@[simp] theorem State.setDevCtl_pins (s : State) (x : Ctl) : (s.setDevCtl x).pins = s.pins := rfl
@[simp] theorem State.setDevCtl_boot (s : State) (x : Ctl) : (s.setDevCtl x).boot = s.boot := rfl
@[simp] theorem State.setDevCtl_danger (s : State) (x : Ctl) : (s.setDevCtl x).danger = s.danger := rfl
@[simp] theorem State.setDevCtl_ind (s : State) (x : Ctl) : (s.setDevCtl x).ind = s.ind := rfl
@[simp] theorem State.setDevCtl_latches (s : State) (x : Ctl) : (s.setDevCtl x).latches = s.latches := rfl
@[simp] theorem State.setDevCtl_mboxTurn (s : State) (x : Ctl) : (s.setDevCtl x).mboxTurn = s.mboxTurn := rfl
@[simp] theorem State.setDevCtl_mboxDone (s : State) (x : Ctl) : (s.setDevCtl x).mboxDone = s.mboxDone := rfl
@[simp] theorem State.setDevCtl_usbData (s : State) (x : Ctl) : (s.setDevCtl x).usbData = s.usbData := rfl
@[simp] theorem State.setDevCtl_cycle (s : State) (x : Ctl) : (s.setDevCtl x).cycle = s.cycle := rfl
@[simp] theorem State.setDevCtl_dirty (s : State) (x : Ctl) : (s.setDevCtl x).dirty = s.dirty := rfl
@[simp] theorem State.setDevCtl_freeCtr (s : State) (x : Ctl) : (s.setDevCtl x).freeCtr = s.freeCtr := rfl
@[simp] theorem State.setDevCtl_pending (s : State) (x : Ctl) : (s.setDevCtl x).pending = s.pending := rfl
@[simp] theorem State.setMem_dev (s : State) (x : List Host.Cell) : (s.setMem x).dev = s.dev := rfl
@[simp] theorem State.setMem_gaf (s : State) (x : List Host.Cell) : (s.setMem x).gaf = s.gaf := rfl
@[simp] theorem State.setMem_sec (s : State) (x : List Host.Cell) : (s.setMem x).sec = s.sec := rfl
@[simp] theorem State.setMem_time (s : State) (x : List Host.Cell) : (s.setMem x).time = s.time := rfl
@[simp] theorem State.setMem_dbg (s : State) (x : List Host.Cell) : (s.setMem x).dbg = s.dbg := rfl
@[simp] theorem State.setMem_usb (s : State) (x : List Host.Cell) : (s.setMem x).usb = s.usb := rfl
@[simp] theorem State.setMem_eth (s : State) (x : List Host.Cell) : (s.setMem x).eth = s.eth := rfl
@[simp] theorem State.setMem_ethUp (s : State) (x : List Host.Cell) : (s.setMem x).ethUp = s.ethUp := rfl
@[simp] theorem State.setMem_cam (s : State) (x : List Host.Cell) : (s.setMem x).cam = s.cam := rfl
@[simp] theorem State.setMem_aud (s : State) (x : List Host.Cell) : (s.setMem x).aud = s.aud := rfl
@[simp] theorem State.setMem_aon (s : State) (x : List Host.Cell) : (s.setMem x).aon = s.aon := rfl
@[simp] theorem State.setMem_hbm (s : State) (x : List Host.Cell) : (s.setMem x).hbm = s.hbm := rfl
@[simp] theorem State.setMem_links (s : State) (x : List Host.Cell) : (s.setMem x).links = s.links := rfl
@[simp] theorem State.setMem_clusters (s : State) (x : List Host.Cell) : (s.setMem x).clusters = s.clusters := rfl
@[simp] theorem State.setMem_cores (s : State) (x : List Host.Cell) : (s.setMem x).cores = s.cores := rfl
@[simp] theorem State.setMem_parts (s : State) (x : List Host.Cell) : (s.setMem x).parts = s.parts := rfl
@[simp] theorem State.setMem_devCtl (s : State) (x : List Host.Cell) : (s.setMem x).devCtl = s.devCtl := rfl
@[simp] theorem State.setMem_mem (s : State) (x : List Host.Cell) : (s.setMem x).mem = x := rfl
@[simp] theorem State.setMem_cipher (s : State) (x : List Host.Cell) : (s.setMem x).cipher = s.cipher := rfl
@[simp] theorem State.setMem_badWords (s : State) (x : List Host.Cell) : (s.setMem x).badWords = s.badWords := rfl
@[simp] theorem State.setMem_poison (s : State) (x : List Host.Cell) : (s.setMem x).poison = s.poison := rfl
@[simp] theorem State.setMem_flash (s : State) (x : List Host.Cell) : (s.setMem x).flash = s.flash := rfl
@[simp] theorem State.setMem_pins (s : State) (x : List Host.Cell) : (s.setMem x).pins = s.pins := rfl
@[simp] theorem State.setMem_boot (s : State) (x : List Host.Cell) : (s.setMem x).boot = s.boot := rfl
@[simp] theorem State.setMem_danger (s : State) (x : List Host.Cell) : (s.setMem x).danger = s.danger := rfl
@[simp] theorem State.setMem_ind (s : State) (x : List Host.Cell) : (s.setMem x).ind = s.ind := rfl
@[simp] theorem State.setMem_latches (s : State) (x : List Host.Cell) : (s.setMem x).latches = s.latches := rfl
@[simp] theorem State.setMem_mboxTurn (s : State) (x : List Host.Cell) : (s.setMem x).mboxTurn = s.mboxTurn := rfl
@[simp] theorem State.setMem_mboxDone (s : State) (x : List Host.Cell) : (s.setMem x).mboxDone = s.mboxDone := rfl
@[simp] theorem State.setMem_usbData (s : State) (x : List Host.Cell) : (s.setMem x).usbData = s.usbData := rfl
@[simp] theorem State.setMem_cycle (s : State) (x : List Host.Cell) : (s.setMem x).cycle = s.cycle := rfl
@[simp] theorem State.setMem_dirty (s : State) (x : List Host.Cell) : (s.setMem x).dirty = s.dirty := rfl
@[simp] theorem State.setMem_freeCtr (s : State) (x : List Host.Cell) : (s.setMem x).freeCtr = s.freeCtr := rfl
@[simp] theorem State.setMem_pending (s : State) (x : List Host.Cell) : (s.setMem x).pending = s.pending := rfl
@[simp] theorem State.setCipher_dev (s : State) (x : SMap (Nat × BitVec 32 × BitVec 64)) : (s.setCipher x).dev = s.dev := rfl
@[simp] theorem State.setCipher_gaf (s : State) (x : SMap (Nat × BitVec 32 × BitVec 64)) : (s.setCipher x).gaf = s.gaf := rfl
@[simp] theorem State.setCipher_sec (s : State) (x : SMap (Nat × BitVec 32 × BitVec 64)) : (s.setCipher x).sec = s.sec := rfl
@[simp] theorem State.setCipher_time (s : State) (x : SMap (Nat × BitVec 32 × BitVec 64)) : (s.setCipher x).time = s.time := rfl
@[simp] theorem State.setCipher_dbg (s : State) (x : SMap (Nat × BitVec 32 × BitVec 64)) : (s.setCipher x).dbg = s.dbg := rfl
@[simp] theorem State.setCipher_usb (s : State) (x : SMap (Nat × BitVec 32 × BitVec 64)) : (s.setCipher x).usb = s.usb := rfl
@[simp] theorem State.setCipher_eth (s : State) (x : SMap (Nat × BitVec 32 × BitVec 64)) : (s.setCipher x).eth = s.eth := rfl
@[simp] theorem State.setCipher_ethUp (s : State) (x : SMap (Nat × BitVec 32 × BitVec 64)) : (s.setCipher x).ethUp = s.ethUp := rfl
@[simp] theorem State.setCipher_cam (s : State) (x : SMap (Nat × BitVec 32 × BitVec 64)) : (s.setCipher x).cam = s.cam := rfl
@[simp] theorem State.setCipher_aud (s : State) (x : SMap (Nat × BitVec 32 × BitVec 64)) : (s.setCipher x).aud = s.aud := rfl
@[simp] theorem State.setCipher_aon (s : State) (x : SMap (Nat × BitVec 32 × BitVec 64)) : (s.setCipher x).aon = s.aon := rfl
@[simp] theorem State.setCipher_hbm (s : State) (x : SMap (Nat × BitVec 32 × BitVec 64)) : (s.setCipher x).hbm = s.hbm := rfl
@[simp] theorem State.setCipher_links (s : State) (x : SMap (Nat × BitVec 32 × BitVec 64)) : (s.setCipher x).links = s.links := rfl
@[simp] theorem State.setCipher_clusters (s : State) (x : SMap (Nat × BitVec 32 × BitVec 64)) : (s.setCipher x).clusters = s.clusters := rfl
@[simp] theorem State.setCipher_cores (s : State) (x : SMap (Nat × BitVec 32 × BitVec 64)) : (s.setCipher x).cores = s.cores := rfl
@[simp] theorem State.setCipher_parts (s : State) (x : SMap (Nat × BitVec 32 × BitVec 64)) : (s.setCipher x).parts = s.parts := rfl
@[simp] theorem State.setCipher_devCtl (s : State) (x : SMap (Nat × BitVec 32 × BitVec 64)) : (s.setCipher x).devCtl = s.devCtl := rfl
@[simp] theorem State.setCipher_mem (s : State) (x : SMap (Nat × BitVec 32 × BitVec 64)) : (s.setCipher x).mem = s.mem := rfl
@[simp] theorem State.setCipher_cipher (s : State) (x : SMap (Nat × BitVec 32 × BitVec 64)) : (s.setCipher x).cipher = x := rfl
@[simp] theorem State.setCipher_badWords (s : State) (x : SMap (Nat × BitVec 32 × BitVec 64)) : (s.setCipher x).badWords = s.badWords := rfl
@[simp] theorem State.setCipher_poison (s : State) (x : SMap (Nat × BitVec 32 × BitVec 64)) : (s.setCipher x).poison = s.poison := rfl
@[simp] theorem State.setCipher_flash (s : State) (x : SMap (Nat × BitVec 32 × BitVec 64)) : (s.setCipher x).flash = s.flash := rfl
@[simp] theorem State.setCipher_pins (s : State) (x : SMap (Nat × BitVec 32 × BitVec 64)) : (s.setCipher x).pins = s.pins := rfl
@[simp] theorem State.setCipher_boot (s : State) (x : SMap (Nat × BitVec 32 × BitVec 64)) : (s.setCipher x).boot = s.boot := rfl
@[simp] theorem State.setCipher_danger (s : State) (x : SMap (Nat × BitVec 32 × BitVec 64)) : (s.setCipher x).danger = s.danger := rfl
@[simp] theorem State.setCipher_ind (s : State) (x : SMap (Nat × BitVec 32 × BitVec 64)) : (s.setCipher x).ind = s.ind := rfl
@[simp] theorem State.setCipher_latches (s : State) (x : SMap (Nat × BitVec 32 × BitVec 64)) : (s.setCipher x).latches = s.latches := rfl
@[simp] theorem State.setCipher_mboxTurn (s : State) (x : SMap (Nat × BitVec 32 × BitVec 64)) : (s.setCipher x).mboxTurn = s.mboxTurn := rfl
@[simp] theorem State.setCipher_mboxDone (s : State) (x : SMap (Nat × BitVec 32 × BitVec 64)) : (s.setCipher x).mboxDone = s.mboxDone := rfl
@[simp] theorem State.setCipher_usbData (s : State) (x : SMap (Nat × BitVec 32 × BitVec 64)) : (s.setCipher x).usbData = s.usbData := rfl
@[simp] theorem State.setCipher_cycle (s : State) (x : SMap (Nat × BitVec 32 × BitVec 64)) : (s.setCipher x).cycle = s.cycle := rfl
@[simp] theorem State.setCipher_dirty (s : State) (x : SMap (Nat × BitVec 32 × BitVec 64)) : (s.setCipher x).dirty = s.dirty := rfl
@[simp] theorem State.setCipher_freeCtr (s : State) (x : SMap (Nat × BitVec 32 × BitVec 64)) : (s.setCipher x).freeCtr = s.freeCtr := rfl
@[simp] theorem State.setCipher_pending (s : State) (x : SMap (Nat × BitVec 32 × BitVec 64)) : (s.setCipher x).pending = s.pending := rfl
@[simp] theorem State.setBadWords_dev (s : State) (x : List Nat) : (s.setBadWords x).dev = s.dev := rfl
@[simp] theorem State.setBadWords_gaf (s : State) (x : List Nat) : (s.setBadWords x).gaf = s.gaf := rfl
@[simp] theorem State.setBadWords_sec (s : State) (x : List Nat) : (s.setBadWords x).sec = s.sec := rfl
@[simp] theorem State.setBadWords_time (s : State) (x : List Nat) : (s.setBadWords x).time = s.time := rfl
@[simp] theorem State.setBadWords_dbg (s : State) (x : List Nat) : (s.setBadWords x).dbg = s.dbg := rfl
@[simp] theorem State.setBadWords_usb (s : State) (x : List Nat) : (s.setBadWords x).usb = s.usb := rfl
@[simp] theorem State.setBadWords_eth (s : State) (x : List Nat) : (s.setBadWords x).eth = s.eth := rfl
@[simp] theorem State.setBadWords_ethUp (s : State) (x : List Nat) : (s.setBadWords x).ethUp = s.ethUp := rfl
@[simp] theorem State.setBadWords_cam (s : State) (x : List Nat) : (s.setBadWords x).cam = s.cam := rfl
@[simp] theorem State.setBadWords_aud (s : State) (x : List Nat) : (s.setBadWords x).aud = s.aud := rfl
@[simp] theorem State.setBadWords_aon (s : State) (x : List Nat) : (s.setBadWords x).aon = s.aon := rfl
@[simp] theorem State.setBadWords_hbm (s : State) (x : List Nat) : (s.setBadWords x).hbm = s.hbm := rfl
@[simp] theorem State.setBadWords_links (s : State) (x : List Nat) : (s.setBadWords x).links = s.links := rfl
@[simp] theorem State.setBadWords_clusters (s : State) (x : List Nat) : (s.setBadWords x).clusters = s.clusters := rfl
@[simp] theorem State.setBadWords_cores (s : State) (x : List Nat) : (s.setBadWords x).cores = s.cores := rfl
@[simp] theorem State.setBadWords_parts (s : State) (x : List Nat) : (s.setBadWords x).parts = s.parts := rfl
@[simp] theorem State.setBadWords_devCtl (s : State) (x : List Nat) : (s.setBadWords x).devCtl = s.devCtl := rfl
@[simp] theorem State.setBadWords_mem (s : State) (x : List Nat) : (s.setBadWords x).mem = s.mem := rfl
@[simp] theorem State.setBadWords_cipher (s : State) (x : List Nat) : (s.setBadWords x).cipher = s.cipher := rfl
@[simp] theorem State.setBadWords_badWords (s : State) (x : List Nat) : (s.setBadWords x).badWords = x := rfl
@[simp] theorem State.setBadWords_poison (s : State) (x : List Nat) : (s.setBadWords x).poison = s.poison := rfl
@[simp] theorem State.setBadWords_flash (s : State) (x : List Nat) : (s.setBadWords x).flash = s.flash := rfl
@[simp] theorem State.setBadWords_pins (s : State) (x : List Nat) : (s.setBadWords x).pins = s.pins := rfl
@[simp] theorem State.setBadWords_boot (s : State) (x : List Nat) : (s.setBadWords x).boot = s.boot := rfl
@[simp] theorem State.setBadWords_danger (s : State) (x : List Nat) : (s.setBadWords x).danger = s.danger := rfl
@[simp] theorem State.setBadWords_ind (s : State) (x : List Nat) : (s.setBadWords x).ind = s.ind := rfl
@[simp] theorem State.setBadWords_latches (s : State) (x : List Nat) : (s.setBadWords x).latches = s.latches := rfl
@[simp] theorem State.setBadWords_mboxTurn (s : State) (x : List Nat) : (s.setBadWords x).mboxTurn = s.mboxTurn := rfl
@[simp] theorem State.setBadWords_mboxDone (s : State) (x : List Nat) : (s.setBadWords x).mboxDone = s.mboxDone := rfl
@[simp] theorem State.setBadWords_usbData (s : State) (x : List Nat) : (s.setBadWords x).usbData = s.usbData := rfl
@[simp] theorem State.setBadWords_cycle (s : State) (x : List Nat) : (s.setBadWords x).cycle = s.cycle := rfl
@[simp] theorem State.setBadWords_dirty (s : State) (x : List Nat) : (s.setBadWords x).dirty = s.dirty := rfl
@[simp] theorem State.setBadWords_freeCtr (s : State) (x : List Nat) : (s.setBadWords x).freeCtr = s.freeCtr := rfl
@[simp] theorem State.setBadWords_pending (s : State) (x : List Nat) : (s.setBadWords x).pending = s.pending := rfl
@[simp] theorem State.setPoison_dev (s : State) (x : List Nat) : (s.setPoison x).dev = s.dev := rfl
@[simp] theorem State.setPoison_gaf (s : State) (x : List Nat) : (s.setPoison x).gaf = s.gaf := rfl
@[simp] theorem State.setPoison_sec (s : State) (x : List Nat) : (s.setPoison x).sec = s.sec := rfl
@[simp] theorem State.setPoison_time (s : State) (x : List Nat) : (s.setPoison x).time = s.time := rfl
@[simp] theorem State.setPoison_dbg (s : State) (x : List Nat) : (s.setPoison x).dbg = s.dbg := rfl
@[simp] theorem State.setPoison_usb (s : State) (x : List Nat) : (s.setPoison x).usb = s.usb := rfl
@[simp] theorem State.setPoison_eth (s : State) (x : List Nat) : (s.setPoison x).eth = s.eth := rfl
@[simp] theorem State.setPoison_ethUp (s : State) (x : List Nat) : (s.setPoison x).ethUp = s.ethUp := rfl
@[simp] theorem State.setPoison_cam (s : State) (x : List Nat) : (s.setPoison x).cam = s.cam := rfl
@[simp] theorem State.setPoison_aud (s : State) (x : List Nat) : (s.setPoison x).aud = s.aud := rfl
@[simp] theorem State.setPoison_aon (s : State) (x : List Nat) : (s.setPoison x).aon = s.aon := rfl
@[simp] theorem State.setPoison_hbm (s : State) (x : List Nat) : (s.setPoison x).hbm = s.hbm := rfl
@[simp] theorem State.setPoison_links (s : State) (x : List Nat) : (s.setPoison x).links = s.links := rfl
@[simp] theorem State.setPoison_clusters (s : State) (x : List Nat) : (s.setPoison x).clusters = s.clusters := rfl
@[simp] theorem State.setPoison_cores (s : State) (x : List Nat) : (s.setPoison x).cores = s.cores := rfl
@[simp] theorem State.setPoison_parts (s : State) (x : List Nat) : (s.setPoison x).parts = s.parts := rfl
@[simp] theorem State.setPoison_devCtl (s : State) (x : List Nat) : (s.setPoison x).devCtl = s.devCtl := rfl
@[simp] theorem State.setPoison_mem (s : State) (x : List Nat) : (s.setPoison x).mem = s.mem := rfl
@[simp] theorem State.setPoison_cipher (s : State) (x : List Nat) : (s.setPoison x).cipher = s.cipher := rfl
@[simp] theorem State.setPoison_badWords (s : State) (x : List Nat) : (s.setPoison x).badWords = s.badWords := rfl
@[simp] theorem State.setPoison_poison (s : State) (x : List Nat) : (s.setPoison x).poison = x := rfl
@[simp] theorem State.setPoison_flash (s : State) (x : List Nat) : (s.setPoison x).flash = s.flash := rfl
@[simp] theorem State.setPoison_pins (s : State) (x : List Nat) : (s.setPoison x).pins = s.pins := rfl
@[simp] theorem State.setPoison_boot (s : State) (x : List Nat) : (s.setPoison x).boot = s.boot := rfl
@[simp] theorem State.setPoison_danger (s : State) (x : List Nat) : (s.setPoison x).danger = s.danger := rfl
@[simp] theorem State.setPoison_ind (s : State) (x : List Nat) : (s.setPoison x).ind = s.ind := rfl
@[simp] theorem State.setPoison_latches (s : State) (x : List Nat) : (s.setPoison x).latches = s.latches := rfl
@[simp] theorem State.setPoison_mboxTurn (s : State) (x : List Nat) : (s.setPoison x).mboxTurn = s.mboxTurn := rfl
@[simp] theorem State.setPoison_mboxDone (s : State) (x : List Nat) : (s.setPoison x).mboxDone = s.mboxDone := rfl
@[simp] theorem State.setPoison_usbData (s : State) (x : List Nat) : (s.setPoison x).usbData = s.usbData := rfl
@[simp] theorem State.setPoison_cycle (s : State) (x : List Nat) : (s.setPoison x).cycle = s.cycle := rfl
@[simp] theorem State.setPoison_dirty (s : State) (x : List Nat) : (s.setPoison x).dirty = s.dirty := rfl
@[simp] theorem State.setPoison_freeCtr (s : State) (x : List Nat) : (s.setPoison x).freeCtr = s.freeCtr := rfl
@[simp] theorem State.setPoison_pending (s : State) (x : List Nat) : (s.setPoison x).pending = s.pending := rfl
@[simp] theorem State.setFlash_dev (s : State) (x : SMap (BitVec 8)) : (s.setFlash x).dev = s.dev := rfl
@[simp] theorem State.setFlash_gaf (s : State) (x : SMap (BitVec 8)) : (s.setFlash x).gaf = s.gaf := rfl
@[simp] theorem State.setFlash_sec (s : State) (x : SMap (BitVec 8)) : (s.setFlash x).sec = s.sec := rfl
@[simp] theorem State.setFlash_time (s : State) (x : SMap (BitVec 8)) : (s.setFlash x).time = s.time := rfl
@[simp] theorem State.setFlash_dbg (s : State) (x : SMap (BitVec 8)) : (s.setFlash x).dbg = s.dbg := rfl
@[simp] theorem State.setFlash_usb (s : State) (x : SMap (BitVec 8)) : (s.setFlash x).usb = s.usb := rfl
@[simp] theorem State.setFlash_eth (s : State) (x : SMap (BitVec 8)) : (s.setFlash x).eth = s.eth := rfl
@[simp] theorem State.setFlash_ethUp (s : State) (x : SMap (BitVec 8)) : (s.setFlash x).ethUp = s.ethUp := rfl
@[simp] theorem State.setFlash_cam (s : State) (x : SMap (BitVec 8)) : (s.setFlash x).cam = s.cam := rfl
@[simp] theorem State.setFlash_aud (s : State) (x : SMap (BitVec 8)) : (s.setFlash x).aud = s.aud := rfl
@[simp] theorem State.setFlash_aon (s : State) (x : SMap (BitVec 8)) : (s.setFlash x).aon = s.aon := rfl
@[simp] theorem State.setFlash_hbm (s : State) (x : SMap (BitVec 8)) : (s.setFlash x).hbm = s.hbm := rfl
@[simp] theorem State.setFlash_links (s : State) (x : SMap (BitVec 8)) : (s.setFlash x).links = s.links := rfl
@[simp] theorem State.setFlash_clusters (s : State) (x : SMap (BitVec 8)) : (s.setFlash x).clusters = s.clusters := rfl
@[simp] theorem State.setFlash_cores (s : State) (x : SMap (BitVec 8)) : (s.setFlash x).cores = s.cores := rfl
@[simp] theorem State.setFlash_parts (s : State) (x : SMap (BitVec 8)) : (s.setFlash x).parts = s.parts := rfl
@[simp] theorem State.setFlash_devCtl (s : State) (x : SMap (BitVec 8)) : (s.setFlash x).devCtl = s.devCtl := rfl
@[simp] theorem State.setFlash_mem (s : State) (x : SMap (BitVec 8)) : (s.setFlash x).mem = s.mem := rfl
@[simp] theorem State.setFlash_cipher (s : State) (x : SMap (BitVec 8)) : (s.setFlash x).cipher = s.cipher := rfl
@[simp] theorem State.setFlash_badWords (s : State) (x : SMap (BitVec 8)) : (s.setFlash x).badWords = s.badWords := rfl
@[simp] theorem State.setFlash_poison (s : State) (x : SMap (BitVec 8)) : (s.setFlash x).poison = s.poison := rfl
@[simp] theorem State.setFlash_flash (s : State) (x : SMap (BitVec 8)) : (s.setFlash x).flash = x := rfl
@[simp] theorem State.setFlash_pins (s : State) (x : SMap (BitVec 8)) : (s.setFlash x).pins = s.pins := rfl
@[simp] theorem State.setFlash_boot (s : State) (x : SMap (BitVec 8)) : (s.setFlash x).boot = s.boot := rfl
@[simp] theorem State.setFlash_danger (s : State) (x : SMap (BitVec 8)) : (s.setFlash x).danger = s.danger := rfl
@[simp] theorem State.setFlash_ind (s : State) (x : SMap (BitVec 8)) : (s.setFlash x).ind = s.ind := rfl
@[simp] theorem State.setFlash_latches (s : State) (x : SMap (BitVec 8)) : (s.setFlash x).latches = s.latches := rfl
@[simp] theorem State.setFlash_mboxTurn (s : State) (x : SMap (BitVec 8)) : (s.setFlash x).mboxTurn = s.mboxTurn := rfl
@[simp] theorem State.setFlash_mboxDone (s : State) (x : SMap (BitVec 8)) : (s.setFlash x).mboxDone = s.mboxDone := rfl
@[simp] theorem State.setFlash_usbData (s : State) (x : SMap (BitVec 8)) : (s.setFlash x).usbData = s.usbData := rfl
@[simp] theorem State.setFlash_cycle (s : State) (x : SMap (BitVec 8)) : (s.setFlash x).cycle = s.cycle := rfl
@[simp] theorem State.setFlash_dirty (s : State) (x : SMap (BitVec 8)) : (s.setFlash x).dirty = s.dirty := rfl
@[simp] theorem State.setFlash_freeCtr (s : State) (x : SMap (BitVec 8)) : (s.setFlash x).freeCtr = s.freeCtr := rfl
@[simp] theorem State.setFlash_pending (s : State) (x : SMap (BitVec 8)) : (s.setFlash x).pending = s.pending := rfl
@[simp] theorem State.setPins_dev (s : State) (x : Pins) : (s.setPins x).dev = s.dev := rfl
@[simp] theorem State.setPins_gaf (s : State) (x : Pins) : (s.setPins x).gaf = s.gaf := rfl
@[simp] theorem State.setPins_sec (s : State) (x : Pins) : (s.setPins x).sec = s.sec := rfl
@[simp] theorem State.setPins_time (s : State) (x : Pins) : (s.setPins x).time = s.time := rfl
@[simp] theorem State.setPins_dbg (s : State) (x : Pins) : (s.setPins x).dbg = s.dbg := rfl
@[simp] theorem State.setPins_usb (s : State) (x : Pins) : (s.setPins x).usb = s.usb := rfl
@[simp] theorem State.setPins_eth (s : State) (x : Pins) : (s.setPins x).eth = s.eth := rfl
@[simp] theorem State.setPins_ethUp (s : State) (x : Pins) : (s.setPins x).ethUp = s.ethUp := rfl
@[simp] theorem State.setPins_cam (s : State) (x : Pins) : (s.setPins x).cam = s.cam := rfl
@[simp] theorem State.setPins_aud (s : State) (x : Pins) : (s.setPins x).aud = s.aud := rfl
@[simp] theorem State.setPins_aon (s : State) (x : Pins) : (s.setPins x).aon = s.aon := rfl
@[simp] theorem State.setPins_hbm (s : State) (x : Pins) : (s.setPins x).hbm = s.hbm := rfl
@[simp] theorem State.setPins_links (s : State) (x : Pins) : (s.setPins x).links = s.links := rfl
@[simp] theorem State.setPins_clusters (s : State) (x : Pins) : (s.setPins x).clusters = s.clusters := rfl
@[simp] theorem State.setPins_cores (s : State) (x : Pins) : (s.setPins x).cores = s.cores := rfl
@[simp] theorem State.setPins_parts (s : State) (x : Pins) : (s.setPins x).parts = s.parts := rfl
@[simp] theorem State.setPins_devCtl (s : State) (x : Pins) : (s.setPins x).devCtl = s.devCtl := rfl
@[simp] theorem State.setPins_mem (s : State) (x : Pins) : (s.setPins x).mem = s.mem := rfl
@[simp] theorem State.setPins_cipher (s : State) (x : Pins) : (s.setPins x).cipher = s.cipher := rfl
@[simp] theorem State.setPins_badWords (s : State) (x : Pins) : (s.setPins x).badWords = s.badWords := rfl
@[simp] theorem State.setPins_poison (s : State) (x : Pins) : (s.setPins x).poison = s.poison := rfl
@[simp] theorem State.setPins_flash (s : State) (x : Pins) : (s.setPins x).flash = s.flash := rfl
@[simp] theorem State.setPins_pins (s : State) (x : Pins) : (s.setPins x).pins = x := rfl
@[simp] theorem State.setPins_boot (s : State) (x : Pins) : (s.setPins x).boot = s.boot := rfl
@[simp] theorem State.setPins_danger (s : State) (x : Pins) : (s.setPins x).danger = s.danger := rfl
@[simp] theorem State.setPins_ind (s : State) (x : Pins) : (s.setPins x).ind = s.ind := rfl
@[simp] theorem State.setPins_latches (s : State) (x : Pins) : (s.setPins x).latches = s.latches := rfl
@[simp] theorem State.setPins_mboxTurn (s : State) (x : Pins) : (s.setPins x).mboxTurn = s.mboxTurn := rfl
@[simp] theorem State.setPins_mboxDone (s : State) (x : Pins) : (s.setPins x).mboxDone = s.mboxDone := rfl
@[simp] theorem State.setPins_usbData (s : State) (x : Pins) : (s.setPins x).usbData = s.usbData := rfl
@[simp] theorem State.setPins_cycle (s : State) (x : Pins) : (s.setPins x).cycle = s.cycle := rfl
@[simp] theorem State.setPins_dirty (s : State) (x : Pins) : (s.setPins x).dirty = s.dirty := rfl
@[simp] theorem State.setPins_freeCtr (s : State) (x : Pins) : (s.setPins x).freeCtr = s.freeCtr := rfl
@[simp] theorem State.setPins_pending (s : State) (x : Pins) : (s.setPins x).pending = s.pending := rfl
@[simp] theorem State.setBoot_dev (s : State) (x : Boot) : (s.setBoot x).dev = s.dev := rfl
@[simp] theorem State.setBoot_gaf (s : State) (x : Boot) : (s.setBoot x).gaf = s.gaf := rfl
@[simp] theorem State.setBoot_sec (s : State) (x : Boot) : (s.setBoot x).sec = s.sec := rfl
@[simp] theorem State.setBoot_time (s : State) (x : Boot) : (s.setBoot x).time = s.time := rfl
@[simp] theorem State.setBoot_dbg (s : State) (x : Boot) : (s.setBoot x).dbg = s.dbg := rfl
@[simp] theorem State.setBoot_usb (s : State) (x : Boot) : (s.setBoot x).usb = s.usb := rfl
@[simp] theorem State.setBoot_eth (s : State) (x : Boot) : (s.setBoot x).eth = s.eth := rfl
@[simp] theorem State.setBoot_ethUp (s : State) (x : Boot) : (s.setBoot x).ethUp = s.ethUp := rfl
@[simp] theorem State.setBoot_cam (s : State) (x : Boot) : (s.setBoot x).cam = s.cam := rfl
@[simp] theorem State.setBoot_aud (s : State) (x : Boot) : (s.setBoot x).aud = s.aud := rfl
@[simp] theorem State.setBoot_aon (s : State) (x : Boot) : (s.setBoot x).aon = s.aon := rfl
@[simp] theorem State.setBoot_hbm (s : State) (x : Boot) : (s.setBoot x).hbm = s.hbm := rfl
@[simp] theorem State.setBoot_links (s : State) (x : Boot) : (s.setBoot x).links = s.links := rfl
@[simp] theorem State.setBoot_clusters (s : State) (x : Boot) : (s.setBoot x).clusters = s.clusters := rfl
@[simp] theorem State.setBoot_cores (s : State) (x : Boot) : (s.setBoot x).cores = s.cores := rfl
@[simp] theorem State.setBoot_parts (s : State) (x : Boot) : (s.setBoot x).parts = s.parts := rfl
@[simp] theorem State.setBoot_devCtl (s : State) (x : Boot) : (s.setBoot x).devCtl = s.devCtl := rfl
@[simp] theorem State.setBoot_mem (s : State) (x : Boot) : (s.setBoot x).mem = s.mem := rfl
@[simp] theorem State.setBoot_cipher (s : State) (x : Boot) : (s.setBoot x).cipher = s.cipher := rfl
@[simp] theorem State.setBoot_badWords (s : State) (x : Boot) : (s.setBoot x).badWords = s.badWords := rfl
@[simp] theorem State.setBoot_poison (s : State) (x : Boot) : (s.setBoot x).poison = s.poison := rfl
@[simp] theorem State.setBoot_flash (s : State) (x : Boot) : (s.setBoot x).flash = s.flash := rfl
@[simp] theorem State.setBoot_pins (s : State) (x : Boot) : (s.setBoot x).pins = s.pins := rfl
@[simp] theorem State.setBoot_boot (s : State) (x : Boot) : (s.setBoot x).boot = x := rfl
@[simp] theorem State.setBoot_danger (s : State) (x : Boot) : (s.setBoot x).danger = s.danger := rfl
@[simp] theorem State.setBoot_ind (s : State) (x : Boot) : (s.setBoot x).ind = s.ind := rfl
@[simp] theorem State.setBoot_latches (s : State) (x : Boot) : (s.setBoot x).latches = s.latches := rfl
@[simp] theorem State.setBoot_mboxTurn (s : State) (x : Boot) : (s.setBoot x).mboxTurn = s.mboxTurn := rfl
@[simp] theorem State.setBoot_mboxDone (s : State) (x : Boot) : (s.setBoot x).mboxDone = s.mboxDone := rfl
@[simp] theorem State.setBoot_usbData (s : State) (x : Boot) : (s.setBoot x).usbData = s.usbData := rfl
@[simp] theorem State.setBoot_cycle (s : State) (x : Boot) : (s.setBoot x).cycle = s.cycle := rfl
@[simp] theorem State.setBoot_dirty (s : State) (x : Boot) : (s.setBoot x).dirty = s.dirty := rfl
@[simp] theorem State.setBoot_freeCtr (s : State) (x : Boot) : (s.setBoot x).freeCtr = s.freeCtr := rfl
@[simp] theorem State.setBoot_pending (s : State) (x : Boot) : (s.setBoot x).pending = s.pending := rfl
@[simp] theorem State.setDanger_dev (s : State) (x : SMap Danger) : (s.setDanger x).dev = s.dev := rfl
@[simp] theorem State.setDanger_gaf (s : State) (x : SMap Danger) : (s.setDanger x).gaf = s.gaf := rfl
@[simp] theorem State.setDanger_sec (s : State) (x : SMap Danger) : (s.setDanger x).sec = s.sec := rfl
@[simp] theorem State.setDanger_time (s : State) (x : SMap Danger) : (s.setDanger x).time = s.time := rfl
@[simp] theorem State.setDanger_dbg (s : State) (x : SMap Danger) : (s.setDanger x).dbg = s.dbg := rfl
@[simp] theorem State.setDanger_usb (s : State) (x : SMap Danger) : (s.setDanger x).usb = s.usb := rfl
@[simp] theorem State.setDanger_eth (s : State) (x : SMap Danger) : (s.setDanger x).eth = s.eth := rfl
@[simp] theorem State.setDanger_ethUp (s : State) (x : SMap Danger) : (s.setDanger x).ethUp = s.ethUp := rfl
@[simp] theorem State.setDanger_cam (s : State) (x : SMap Danger) : (s.setDanger x).cam = s.cam := rfl
@[simp] theorem State.setDanger_aud (s : State) (x : SMap Danger) : (s.setDanger x).aud = s.aud := rfl
@[simp] theorem State.setDanger_aon (s : State) (x : SMap Danger) : (s.setDanger x).aon = s.aon := rfl
@[simp] theorem State.setDanger_hbm (s : State) (x : SMap Danger) : (s.setDanger x).hbm = s.hbm := rfl
@[simp] theorem State.setDanger_links (s : State) (x : SMap Danger) : (s.setDanger x).links = s.links := rfl
@[simp] theorem State.setDanger_clusters (s : State) (x : SMap Danger) : (s.setDanger x).clusters = s.clusters := rfl
@[simp] theorem State.setDanger_cores (s : State) (x : SMap Danger) : (s.setDanger x).cores = s.cores := rfl
@[simp] theorem State.setDanger_parts (s : State) (x : SMap Danger) : (s.setDanger x).parts = s.parts := rfl
@[simp] theorem State.setDanger_devCtl (s : State) (x : SMap Danger) : (s.setDanger x).devCtl = s.devCtl := rfl
@[simp] theorem State.setDanger_mem (s : State) (x : SMap Danger) : (s.setDanger x).mem = s.mem := rfl
@[simp] theorem State.setDanger_cipher (s : State) (x : SMap Danger) : (s.setDanger x).cipher = s.cipher := rfl
@[simp] theorem State.setDanger_badWords (s : State) (x : SMap Danger) : (s.setDanger x).badWords = s.badWords := rfl
@[simp] theorem State.setDanger_poison (s : State) (x : SMap Danger) : (s.setDanger x).poison = s.poison := rfl
@[simp] theorem State.setDanger_flash (s : State) (x : SMap Danger) : (s.setDanger x).flash = s.flash := rfl
@[simp] theorem State.setDanger_pins (s : State) (x : SMap Danger) : (s.setDanger x).pins = s.pins := rfl
@[simp] theorem State.setDanger_boot (s : State) (x : SMap Danger) : (s.setDanger x).boot = s.boot := rfl
@[simp] theorem State.setDanger_danger (s : State) (x : SMap Danger) : (s.setDanger x).danger = x := rfl
@[simp] theorem State.setDanger_ind (s : State) (x : SMap Danger) : (s.setDanger x).ind = s.ind := rfl
@[simp] theorem State.setDanger_latches (s : State) (x : SMap Danger) : (s.setDanger x).latches = s.latches := rfl
@[simp] theorem State.setDanger_mboxTurn (s : State) (x : SMap Danger) : (s.setDanger x).mboxTurn = s.mboxTurn := rfl
@[simp] theorem State.setDanger_mboxDone (s : State) (x : SMap Danger) : (s.setDanger x).mboxDone = s.mboxDone := rfl
@[simp] theorem State.setDanger_usbData (s : State) (x : SMap Danger) : (s.setDanger x).usbData = s.usbData := rfl
@[simp] theorem State.setDanger_cycle (s : State) (x : SMap Danger) : (s.setDanger x).cycle = s.cycle := rfl
@[simp] theorem State.setDanger_dirty (s : State) (x : SMap Danger) : (s.setDanger x).dirty = s.dirty := rfl
@[simp] theorem State.setDanger_freeCtr (s : State) (x : SMap Danger) : (s.setDanger x).freeCtr = s.freeCtr := rfl
@[simp] theorem State.setDanger_pending (s : State) (x : SMap Danger) : (s.setDanger x).pending = s.pending := rfl
@[simp] theorem State.setInd_dev (s : State) (x : SMap IndBank) : (s.setInd x).dev = s.dev := rfl
@[simp] theorem State.setInd_gaf (s : State) (x : SMap IndBank) : (s.setInd x).gaf = s.gaf := rfl
@[simp] theorem State.setInd_sec (s : State) (x : SMap IndBank) : (s.setInd x).sec = s.sec := rfl
@[simp] theorem State.setInd_time (s : State) (x : SMap IndBank) : (s.setInd x).time = s.time := rfl
@[simp] theorem State.setInd_dbg (s : State) (x : SMap IndBank) : (s.setInd x).dbg = s.dbg := rfl
@[simp] theorem State.setInd_usb (s : State) (x : SMap IndBank) : (s.setInd x).usb = s.usb := rfl
@[simp] theorem State.setInd_eth (s : State) (x : SMap IndBank) : (s.setInd x).eth = s.eth := rfl
@[simp] theorem State.setInd_ethUp (s : State) (x : SMap IndBank) : (s.setInd x).ethUp = s.ethUp := rfl
@[simp] theorem State.setInd_cam (s : State) (x : SMap IndBank) : (s.setInd x).cam = s.cam := rfl
@[simp] theorem State.setInd_aud (s : State) (x : SMap IndBank) : (s.setInd x).aud = s.aud := rfl
@[simp] theorem State.setInd_aon (s : State) (x : SMap IndBank) : (s.setInd x).aon = s.aon := rfl
@[simp] theorem State.setInd_hbm (s : State) (x : SMap IndBank) : (s.setInd x).hbm = s.hbm := rfl
@[simp] theorem State.setInd_links (s : State) (x : SMap IndBank) : (s.setInd x).links = s.links := rfl
@[simp] theorem State.setInd_clusters (s : State) (x : SMap IndBank) : (s.setInd x).clusters = s.clusters := rfl
@[simp] theorem State.setInd_cores (s : State) (x : SMap IndBank) : (s.setInd x).cores = s.cores := rfl
@[simp] theorem State.setInd_parts (s : State) (x : SMap IndBank) : (s.setInd x).parts = s.parts := rfl
@[simp] theorem State.setInd_devCtl (s : State) (x : SMap IndBank) : (s.setInd x).devCtl = s.devCtl := rfl
@[simp] theorem State.setInd_mem (s : State) (x : SMap IndBank) : (s.setInd x).mem = s.mem := rfl
@[simp] theorem State.setInd_cipher (s : State) (x : SMap IndBank) : (s.setInd x).cipher = s.cipher := rfl
@[simp] theorem State.setInd_badWords (s : State) (x : SMap IndBank) : (s.setInd x).badWords = s.badWords := rfl
@[simp] theorem State.setInd_poison (s : State) (x : SMap IndBank) : (s.setInd x).poison = s.poison := rfl
@[simp] theorem State.setInd_flash (s : State) (x : SMap IndBank) : (s.setInd x).flash = s.flash := rfl
@[simp] theorem State.setInd_pins (s : State) (x : SMap IndBank) : (s.setInd x).pins = s.pins := rfl
@[simp] theorem State.setInd_boot (s : State) (x : SMap IndBank) : (s.setInd x).boot = s.boot := rfl
@[simp] theorem State.setInd_danger (s : State) (x : SMap IndBank) : (s.setInd x).danger = s.danger := rfl
@[simp] theorem State.setInd_ind (s : State) (x : SMap IndBank) : (s.setInd x).ind = x := rfl
@[simp] theorem State.setInd_latches (s : State) (x : SMap IndBank) : (s.setInd x).latches = s.latches := rfl
@[simp] theorem State.setInd_mboxTurn (s : State) (x : SMap IndBank) : (s.setInd x).mboxTurn = s.mboxTurn := rfl
@[simp] theorem State.setInd_mboxDone (s : State) (x : SMap IndBank) : (s.setInd x).mboxDone = s.mboxDone := rfl
@[simp] theorem State.setInd_usbData (s : State) (x : SMap IndBank) : (s.setInd x).usbData = s.usbData := rfl
@[simp] theorem State.setInd_cycle (s : State) (x : SMap IndBank) : (s.setInd x).cycle = s.cycle := rfl
@[simp] theorem State.setInd_dirty (s : State) (x : SMap IndBank) : (s.setInd x).dirty = s.dirty := rfl
@[simp] theorem State.setInd_freeCtr (s : State) (x : SMap IndBank) : (s.setInd x).freeCtr = s.freeCtr := rfl
@[simp] theorem State.setInd_pending (s : State) (x : SMap IndBank) : (s.setInd x).pending = s.pending := rfl
@[simp] theorem State.setLatches_dev (s : State) (x : SMap (BitVec 32)) : (s.setLatches x).dev = s.dev := rfl
@[simp] theorem State.setLatches_gaf (s : State) (x : SMap (BitVec 32)) : (s.setLatches x).gaf = s.gaf := rfl
@[simp] theorem State.setLatches_sec (s : State) (x : SMap (BitVec 32)) : (s.setLatches x).sec = s.sec := rfl
@[simp] theorem State.setLatches_time (s : State) (x : SMap (BitVec 32)) : (s.setLatches x).time = s.time := rfl
@[simp] theorem State.setLatches_dbg (s : State) (x : SMap (BitVec 32)) : (s.setLatches x).dbg = s.dbg := rfl
@[simp] theorem State.setLatches_usb (s : State) (x : SMap (BitVec 32)) : (s.setLatches x).usb = s.usb := rfl
@[simp] theorem State.setLatches_eth (s : State) (x : SMap (BitVec 32)) : (s.setLatches x).eth = s.eth := rfl
@[simp] theorem State.setLatches_ethUp (s : State) (x : SMap (BitVec 32)) : (s.setLatches x).ethUp = s.ethUp := rfl
@[simp] theorem State.setLatches_cam (s : State) (x : SMap (BitVec 32)) : (s.setLatches x).cam = s.cam := rfl
@[simp] theorem State.setLatches_aud (s : State) (x : SMap (BitVec 32)) : (s.setLatches x).aud = s.aud := rfl
@[simp] theorem State.setLatches_aon (s : State) (x : SMap (BitVec 32)) : (s.setLatches x).aon = s.aon := rfl
@[simp] theorem State.setLatches_hbm (s : State) (x : SMap (BitVec 32)) : (s.setLatches x).hbm = s.hbm := rfl
@[simp] theorem State.setLatches_links (s : State) (x : SMap (BitVec 32)) : (s.setLatches x).links = s.links := rfl
@[simp] theorem State.setLatches_clusters (s : State) (x : SMap (BitVec 32)) : (s.setLatches x).clusters = s.clusters := rfl
@[simp] theorem State.setLatches_cores (s : State) (x : SMap (BitVec 32)) : (s.setLatches x).cores = s.cores := rfl
@[simp] theorem State.setLatches_parts (s : State) (x : SMap (BitVec 32)) : (s.setLatches x).parts = s.parts := rfl
@[simp] theorem State.setLatches_devCtl (s : State) (x : SMap (BitVec 32)) : (s.setLatches x).devCtl = s.devCtl := rfl
@[simp] theorem State.setLatches_mem (s : State) (x : SMap (BitVec 32)) : (s.setLatches x).mem = s.mem := rfl
@[simp] theorem State.setLatches_cipher (s : State) (x : SMap (BitVec 32)) : (s.setLatches x).cipher = s.cipher := rfl
@[simp] theorem State.setLatches_badWords (s : State) (x : SMap (BitVec 32)) : (s.setLatches x).badWords = s.badWords := rfl
@[simp] theorem State.setLatches_poison (s : State) (x : SMap (BitVec 32)) : (s.setLatches x).poison = s.poison := rfl
@[simp] theorem State.setLatches_flash (s : State) (x : SMap (BitVec 32)) : (s.setLatches x).flash = s.flash := rfl
@[simp] theorem State.setLatches_pins (s : State) (x : SMap (BitVec 32)) : (s.setLatches x).pins = s.pins := rfl
@[simp] theorem State.setLatches_boot (s : State) (x : SMap (BitVec 32)) : (s.setLatches x).boot = s.boot := rfl
@[simp] theorem State.setLatches_danger (s : State) (x : SMap (BitVec 32)) : (s.setLatches x).danger = s.danger := rfl
@[simp] theorem State.setLatches_ind (s : State) (x : SMap (BitVec 32)) : (s.setLatches x).ind = s.ind := rfl
@[simp] theorem State.setLatches_latches (s : State) (x : SMap (BitVec 32)) : (s.setLatches x).latches = x := rfl
@[simp] theorem State.setLatches_mboxTurn (s : State) (x : SMap (BitVec 32)) : (s.setLatches x).mboxTurn = s.mboxTurn := rfl
@[simp] theorem State.setLatches_mboxDone (s : State) (x : SMap (BitVec 32)) : (s.setLatches x).mboxDone = s.mboxDone := rfl
@[simp] theorem State.setLatches_usbData (s : State) (x : SMap (BitVec 32)) : (s.setLatches x).usbData = s.usbData := rfl
@[simp] theorem State.setLatches_cycle (s : State) (x : SMap (BitVec 32)) : (s.setLatches x).cycle = s.cycle := rfl
@[simp] theorem State.setLatches_dirty (s : State) (x : SMap (BitVec 32)) : (s.setLatches x).dirty = s.dirty := rfl
@[simp] theorem State.setLatches_freeCtr (s : State) (x : SMap (BitVec 32)) : (s.setLatches x).freeCtr = s.freeCtr := rfl
@[simp] theorem State.setLatches_pending (s : State) (x : SMap (BitVec 32)) : (s.setLatches x).pending = s.pending := rfl
@[simp] theorem State.setMboxTurn_dev (s : State) (x : Nat) : (s.setMboxTurn x).dev = s.dev := rfl
@[simp] theorem State.setMboxTurn_gaf (s : State) (x : Nat) : (s.setMboxTurn x).gaf = s.gaf := rfl
@[simp] theorem State.setMboxTurn_sec (s : State) (x : Nat) : (s.setMboxTurn x).sec = s.sec := rfl
@[simp] theorem State.setMboxTurn_time (s : State) (x : Nat) : (s.setMboxTurn x).time = s.time := rfl
@[simp] theorem State.setMboxTurn_dbg (s : State) (x : Nat) : (s.setMboxTurn x).dbg = s.dbg := rfl
@[simp] theorem State.setMboxTurn_usb (s : State) (x : Nat) : (s.setMboxTurn x).usb = s.usb := rfl
@[simp] theorem State.setMboxTurn_eth (s : State) (x : Nat) : (s.setMboxTurn x).eth = s.eth := rfl
@[simp] theorem State.setMboxTurn_ethUp (s : State) (x : Nat) : (s.setMboxTurn x).ethUp = s.ethUp := rfl
@[simp] theorem State.setMboxTurn_cam (s : State) (x : Nat) : (s.setMboxTurn x).cam = s.cam := rfl
@[simp] theorem State.setMboxTurn_aud (s : State) (x : Nat) : (s.setMboxTurn x).aud = s.aud := rfl
@[simp] theorem State.setMboxTurn_aon (s : State) (x : Nat) : (s.setMboxTurn x).aon = s.aon := rfl
@[simp] theorem State.setMboxTurn_hbm (s : State) (x : Nat) : (s.setMboxTurn x).hbm = s.hbm := rfl
@[simp] theorem State.setMboxTurn_links (s : State) (x : Nat) : (s.setMboxTurn x).links = s.links := rfl
@[simp] theorem State.setMboxTurn_clusters (s : State) (x : Nat) : (s.setMboxTurn x).clusters = s.clusters := rfl
@[simp] theorem State.setMboxTurn_cores (s : State) (x : Nat) : (s.setMboxTurn x).cores = s.cores := rfl
@[simp] theorem State.setMboxTurn_parts (s : State) (x : Nat) : (s.setMboxTurn x).parts = s.parts := rfl
@[simp] theorem State.setMboxTurn_devCtl (s : State) (x : Nat) : (s.setMboxTurn x).devCtl = s.devCtl := rfl
@[simp] theorem State.setMboxTurn_mem (s : State) (x : Nat) : (s.setMboxTurn x).mem = s.mem := rfl
@[simp] theorem State.setMboxTurn_cipher (s : State) (x : Nat) : (s.setMboxTurn x).cipher = s.cipher := rfl
@[simp] theorem State.setMboxTurn_badWords (s : State) (x : Nat) : (s.setMboxTurn x).badWords = s.badWords := rfl
@[simp] theorem State.setMboxTurn_poison (s : State) (x : Nat) : (s.setMboxTurn x).poison = s.poison := rfl
@[simp] theorem State.setMboxTurn_flash (s : State) (x : Nat) : (s.setMboxTurn x).flash = s.flash := rfl
@[simp] theorem State.setMboxTurn_pins (s : State) (x : Nat) : (s.setMboxTurn x).pins = s.pins := rfl
@[simp] theorem State.setMboxTurn_boot (s : State) (x : Nat) : (s.setMboxTurn x).boot = s.boot := rfl
@[simp] theorem State.setMboxTurn_danger (s : State) (x : Nat) : (s.setMboxTurn x).danger = s.danger := rfl
@[simp] theorem State.setMboxTurn_ind (s : State) (x : Nat) : (s.setMboxTurn x).ind = s.ind := rfl
@[simp] theorem State.setMboxTurn_latches (s : State) (x : Nat) : (s.setMboxTurn x).latches = s.latches := rfl
@[simp] theorem State.setMboxTurn_mboxTurn (s : State) (x : Nat) : (s.setMboxTurn x).mboxTurn = x := rfl
@[simp] theorem State.setMboxTurn_mboxDone (s : State) (x : Nat) : (s.setMboxTurn x).mboxDone = s.mboxDone := rfl
@[simp] theorem State.setMboxTurn_usbData (s : State) (x : Nat) : (s.setMboxTurn x).usbData = s.usbData := rfl
@[simp] theorem State.setMboxTurn_cycle (s : State) (x : Nat) : (s.setMboxTurn x).cycle = s.cycle := rfl
@[simp] theorem State.setMboxTurn_dirty (s : State) (x : Nat) : (s.setMboxTurn x).dirty = s.dirty := rfl
@[simp] theorem State.setMboxTurn_freeCtr (s : State) (x : Nat) : (s.setMboxTurn x).freeCtr = s.freeCtr := rfl
@[simp] theorem State.setMboxTurn_pending (s : State) (x : Nat) : (s.setMboxTurn x).pending = s.pending := rfl
@[simp] theorem State.setMboxDone_dev (s : State) (x : Bool) : (s.setMboxDone x).dev = s.dev := rfl
@[simp] theorem State.setMboxDone_gaf (s : State) (x : Bool) : (s.setMboxDone x).gaf = s.gaf := rfl
@[simp] theorem State.setMboxDone_sec (s : State) (x : Bool) : (s.setMboxDone x).sec = s.sec := rfl
@[simp] theorem State.setMboxDone_time (s : State) (x : Bool) : (s.setMboxDone x).time = s.time := rfl
@[simp] theorem State.setMboxDone_dbg (s : State) (x : Bool) : (s.setMboxDone x).dbg = s.dbg := rfl
@[simp] theorem State.setMboxDone_usb (s : State) (x : Bool) : (s.setMboxDone x).usb = s.usb := rfl
@[simp] theorem State.setMboxDone_eth (s : State) (x : Bool) : (s.setMboxDone x).eth = s.eth := rfl
@[simp] theorem State.setMboxDone_ethUp (s : State) (x : Bool) : (s.setMboxDone x).ethUp = s.ethUp := rfl
@[simp] theorem State.setMboxDone_cam (s : State) (x : Bool) : (s.setMboxDone x).cam = s.cam := rfl
@[simp] theorem State.setMboxDone_aud (s : State) (x : Bool) : (s.setMboxDone x).aud = s.aud := rfl
@[simp] theorem State.setMboxDone_aon (s : State) (x : Bool) : (s.setMboxDone x).aon = s.aon := rfl
@[simp] theorem State.setMboxDone_hbm (s : State) (x : Bool) : (s.setMboxDone x).hbm = s.hbm := rfl
@[simp] theorem State.setMboxDone_links (s : State) (x : Bool) : (s.setMboxDone x).links = s.links := rfl
@[simp] theorem State.setMboxDone_clusters (s : State) (x : Bool) : (s.setMboxDone x).clusters = s.clusters := rfl
@[simp] theorem State.setMboxDone_cores (s : State) (x : Bool) : (s.setMboxDone x).cores = s.cores := rfl
@[simp] theorem State.setMboxDone_parts (s : State) (x : Bool) : (s.setMboxDone x).parts = s.parts := rfl
@[simp] theorem State.setMboxDone_devCtl (s : State) (x : Bool) : (s.setMboxDone x).devCtl = s.devCtl := rfl
@[simp] theorem State.setMboxDone_mem (s : State) (x : Bool) : (s.setMboxDone x).mem = s.mem := rfl
@[simp] theorem State.setMboxDone_cipher (s : State) (x : Bool) : (s.setMboxDone x).cipher = s.cipher := rfl
@[simp] theorem State.setMboxDone_badWords (s : State) (x : Bool) : (s.setMboxDone x).badWords = s.badWords := rfl
@[simp] theorem State.setMboxDone_poison (s : State) (x : Bool) : (s.setMboxDone x).poison = s.poison := rfl
@[simp] theorem State.setMboxDone_flash (s : State) (x : Bool) : (s.setMboxDone x).flash = s.flash := rfl
@[simp] theorem State.setMboxDone_pins (s : State) (x : Bool) : (s.setMboxDone x).pins = s.pins := rfl
@[simp] theorem State.setMboxDone_boot (s : State) (x : Bool) : (s.setMboxDone x).boot = s.boot := rfl
@[simp] theorem State.setMboxDone_danger (s : State) (x : Bool) : (s.setMboxDone x).danger = s.danger := rfl
@[simp] theorem State.setMboxDone_ind (s : State) (x : Bool) : (s.setMboxDone x).ind = s.ind := rfl
@[simp] theorem State.setMboxDone_latches (s : State) (x : Bool) : (s.setMboxDone x).latches = s.latches := rfl
@[simp] theorem State.setMboxDone_mboxTurn (s : State) (x : Bool) : (s.setMboxDone x).mboxTurn = s.mboxTurn := rfl
@[simp] theorem State.setMboxDone_mboxDone (s : State) (x : Bool) : (s.setMboxDone x).mboxDone = x := rfl
@[simp] theorem State.setMboxDone_usbData (s : State) (x : Bool) : (s.setMboxDone x).usbData = s.usbData := rfl
@[simp] theorem State.setMboxDone_cycle (s : State) (x : Bool) : (s.setMboxDone x).cycle = s.cycle := rfl
@[simp] theorem State.setMboxDone_dirty (s : State) (x : Bool) : (s.setMboxDone x).dirty = s.dirty := rfl
@[simp] theorem State.setMboxDone_freeCtr (s : State) (x : Bool) : (s.setMboxDone x).freeCtr = s.freeCtr := rfl
@[simp] theorem State.setMboxDone_pending (s : State) (x : Bool) : (s.setMboxDone x).pending = s.pending := rfl
@[simp] theorem State.setUsbData_dev (s : State) (x : List (BitVec 8)) : (s.setUsbData x).dev = s.dev := rfl
@[simp] theorem State.setUsbData_gaf (s : State) (x : List (BitVec 8)) : (s.setUsbData x).gaf = s.gaf := rfl
@[simp] theorem State.setUsbData_sec (s : State) (x : List (BitVec 8)) : (s.setUsbData x).sec = s.sec := rfl
@[simp] theorem State.setUsbData_time (s : State) (x : List (BitVec 8)) : (s.setUsbData x).time = s.time := rfl
@[simp] theorem State.setUsbData_dbg (s : State) (x : List (BitVec 8)) : (s.setUsbData x).dbg = s.dbg := rfl
@[simp] theorem State.setUsbData_usb (s : State) (x : List (BitVec 8)) : (s.setUsbData x).usb = s.usb := rfl
@[simp] theorem State.setUsbData_eth (s : State) (x : List (BitVec 8)) : (s.setUsbData x).eth = s.eth := rfl
@[simp] theorem State.setUsbData_ethUp (s : State) (x : List (BitVec 8)) : (s.setUsbData x).ethUp = s.ethUp := rfl
@[simp] theorem State.setUsbData_cam (s : State) (x : List (BitVec 8)) : (s.setUsbData x).cam = s.cam := rfl
@[simp] theorem State.setUsbData_aud (s : State) (x : List (BitVec 8)) : (s.setUsbData x).aud = s.aud := rfl
@[simp] theorem State.setUsbData_aon (s : State) (x : List (BitVec 8)) : (s.setUsbData x).aon = s.aon := rfl
@[simp] theorem State.setUsbData_hbm (s : State) (x : List (BitVec 8)) : (s.setUsbData x).hbm = s.hbm := rfl
@[simp] theorem State.setUsbData_links (s : State) (x : List (BitVec 8)) : (s.setUsbData x).links = s.links := rfl
@[simp] theorem State.setUsbData_clusters (s : State) (x : List (BitVec 8)) : (s.setUsbData x).clusters = s.clusters := rfl
@[simp] theorem State.setUsbData_cores (s : State) (x : List (BitVec 8)) : (s.setUsbData x).cores = s.cores := rfl
@[simp] theorem State.setUsbData_parts (s : State) (x : List (BitVec 8)) : (s.setUsbData x).parts = s.parts := rfl
@[simp] theorem State.setUsbData_devCtl (s : State) (x : List (BitVec 8)) : (s.setUsbData x).devCtl = s.devCtl := rfl
@[simp] theorem State.setUsbData_mem (s : State) (x : List (BitVec 8)) : (s.setUsbData x).mem = s.mem := rfl
@[simp] theorem State.setUsbData_cipher (s : State) (x : List (BitVec 8)) : (s.setUsbData x).cipher = s.cipher := rfl
@[simp] theorem State.setUsbData_badWords (s : State) (x : List (BitVec 8)) : (s.setUsbData x).badWords = s.badWords := rfl
@[simp] theorem State.setUsbData_poison (s : State) (x : List (BitVec 8)) : (s.setUsbData x).poison = s.poison := rfl
@[simp] theorem State.setUsbData_flash (s : State) (x : List (BitVec 8)) : (s.setUsbData x).flash = s.flash := rfl
@[simp] theorem State.setUsbData_pins (s : State) (x : List (BitVec 8)) : (s.setUsbData x).pins = s.pins := rfl
@[simp] theorem State.setUsbData_boot (s : State) (x : List (BitVec 8)) : (s.setUsbData x).boot = s.boot := rfl
@[simp] theorem State.setUsbData_danger (s : State) (x : List (BitVec 8)) : (s.setUsbData x).danger = s.danger := rfl
@[simp] theorem State.setUsbData_ind (s : State) (x : List (BitVec 8)) : (s.setUsbData x).ind = s.ind := rfl
@[simp] theorem State.setUsbData_latches (s : State) (x : List (BitVec 8)) : (s.setUsbData x).latches = s.latches := rfl
@[simp] theorem State.setUsbData_mboxTurn (s : State) (x : List (BitVec 8)) : (s.setUsbData x).mboxTurn = s.mboxTurn := rfl
@[simp] theorem State.setUsbData_mboxDone (s : State) (x : List (BitVec 8)) : (s.setUsbData x).mboxDone = s.mboxDone := rfl
@[simp] theorem State.setUsbData_usbData (s : State) (x : List (BitVec 8)) : (s.setUsbData x).usbData = x := rfl
@[simp] theorem State.setUsbData_cycle (s : State) (x : List (BitVec 8)) : (s.setUsbData x).cycle = s.cycle := rfl
@[simp] theorem State.setUsbData_dirty (s : State) (x : List (BitVec 8)) : (s.setUsbData x).dirty = s.dirty := rfl
@[simp] theorem State.setUsbData_freeCtr (s : State) (x : List (BitVec 8)) : (s.setUsbData x).freeCtr = s.freeCtr := rfl
@[simp] theorem State.setUsbData_pending (s : State) (x : List (BitVec 8)) : (s.setUsbData x).pending = s.pending := rfl
@[simp] theorem State.setCycle_dev (s : State) (x : Nat) : (s.setCycle x).dev = s.dev := rfl
@[simp] theorem State.setCycle_gaf (s : State) (x : Nat) : (s.setCycle x).gaf = s.gaf := rfl
@[simp] theorem State.setCycle_sec (s : State) (x : Nat) : (s.setCycle x).sec = s.sec := rfl
@[simp] theorem State.setCycle_time (s : State) (x : Nat) : (s.setCycle x).time = s.time := rfl
@[simp] theorem State.setCycle_dbg (s : State) (x : Nat) : (s.setCycle x).dbg = s.dbg := rfl
@[simp] theorem State.setCycle_usb (s : State) (x : Nat) : (s.setCycle x).usb = s.usb := rfl
@[simp] theorem State.setCycle_eth (s : State) (x : Nat) : (s.setCycle x).eth = s.eth := rfl
@[simp] theorem State.setCycle_ethUp (s : State) (x : Nat) : (s.setCycle x).ethUp = s.ethUp := rfl
@[simp] theorem State.setCycle_cam (s : State) (x : Nat) : (s.setCycle x).cam = s.cam := rfl
@[simp] theorem State.setCycle_aud (s : State) (x : Nat) : (s.setCycle x).aud = s.aud := rfl
@[simp] theorem State.setCycle_aon (s : State) (x : Nat) : (s.setCycle x).aon = s.aon := rfl
@[simp] theorem State.setCycle_hbm (s : State) (x : Nat) : (s.setCycle x).hbm = s.hbm := rfl
@[simp] theorem State.setCycle_links (s : State) (x : Nat) : (s.setCycle x).links = s.links := rfl
@[simp] theorem State.setCycle_clusters (s : State) (x : Nat) : (s.setCycle x).clusters = s.clusters := rfl
@[simp] theorem State.setCycle_cores (s : State) (x : Nat) : (s.setCycle x).cores = s.cores := rfl
@[simp] theorem State.setCycle_parts (s : State) (x : Nat) : (s.setCycle x).parts = s.parts := rfl
@[simp] theorem State.setCycle_devCtl (s : State) (x : Nat) : (s.setCycle x).devCtl = s.devCtl := rfl
@[simp] theorem State.setCycle_mem (s : State) (x : Nat) : (s.setCycle x).mem = s.mem := rfl
@[simp] theorem State.setCycle_cipher (s : State) (x : Nat) : (s.setCycle x).cipher = s.cipher := rfl
@[simp] theorem State.setCycle_badWords (s : State) (x : Nat) : (s.setCycle x).badWords = s.badWords := rfl
@[simp] theorem State.setCycle_poison (s : State) (x : Nat) : (s.setCycle x).poison = s.poison := rfl
@[simp] theorem State.setCycle_flash (s : State) (x : Nat) : (s.setCycle x).flash = s.flash := rfl
@[simp] theorem State.setCycle_pins (s : State) (x : Nat) : (s.setCycle x).pins = s.pins := rfl
@[simp] theorem State.setCycle_boot (s : State) (x : Nat) : (s.setCycle x).boot = s.boot := rfl
@[simp] theorem State.setCycle_danger (s : State) (x : Nat) : (s.setCycle x).danger = s.danger := rfl
@[simp] theorem State.setCycle_ind (s : State) (x : Nat) : (s.setCycle x).ind = s.ind := rfl
@[simp] theorem State.setCycle_latches (s : State) (x : Nat) : (s.setCycle x).latches = s.latches := rfl
@[simp] theorem State.setCycle_mboxTurn (s : State) (x : Nat) : (s.setCycle x).mboxTurn = s.mboxTurn := rfl
@[simp] theorem State.setCycle_mboxDone (s : State) (x : Nat) : (s.setCycle x).mboxDone = s.mboxDone := rfl
@[simp] theorem State.setCycle_usbData (s : State) (x : Nat) : (s.setCycle x).usbData = s.usbData := rfl
@[simp] theorem State.setCycle_cycle (s : State) (x : Nat) : (s.setCycle x).cycle = x := rfl
@[simp] theorem State.setCycle_dirty (s : State) (x : Nat) : (s.setCycle x).dirty = s.dirty := rfl
@[simp] theorem State.setCycle_freeCtr (s : State) (x : Nat) : (s.setCycle x).freeCtr = s.freeCtr := rfl
@[simp] theorem State.setCycle_pending (s : State) (x : Nat) : (s.setCycle x).pending = s.pending := rfl
@[simp] theorem State.setDirty_dev (s : State) (x : List (Nat × Nat × Nat × Nat)) : (s.setDirty x).dev = s.dev := rfl
@[simp] theorem State.setDirty_gaf (s : State) (x : List (Nat × Nat × Nat × Nat)) : (s.setDirty x).gaf = s.gaf := rfl
@[simp] theorem State.setDirty_sec (s : State) (x : List (Nat × Nat × Nat × Nat)) : (s.setDirty x).sec = s.sec := rfl
@[simp] theorem State.setDirty_time (s : State) (x : List (Nat × Nat × Nat × Nat)) : (s.setDirty x).time = s.time := rfl
@[simp] theorem State.setDirty_dbg (s : State) (x : List (Nat × Nat × Nat × Nat)) : (s.setDirty x).dbg = s.dbg := rfl
@[simp] theorem State.setDirty_usb (s : State) (x : List (Nat × Nat × Nat × Nat)) : (s.setDirty x).usb = s.usb := rfl
@[simp] theorem State.setDirty_eth (s : State) (x : List (Nat × Nat × Nat × Nat)) : (s.setDirty x).eth = s.eth := rfl
@[simp] theorem State.setDirty_ethUp (s : State) (x : List (Nat × Nat × Nat × Nat)) : (s.setDirty x).ethUp = s.ethUp := rfl
@[simp] theorem State.setDirty_cam (s : State) (x : List (Nat × Nat × Nat × Nat)) : (s.setDirty x).cam = s.cam := rfl
@[simp] theorem State.setDirty_aud (s : State) (x : List (Nat × Nat × Nat × Nat)) : (s.setDirty x).aud = s.aud := rfl
@[simp] theorem State.setDirty_aon (s : State) (x : List (Nat × Nat × Nat × Nat)) : (s.setDirty x).aon = s.aon := rfl
@[simp] theorem State.setDirty_hbm (s : State) (x : List (Nat × Nat × Nat × Nat)) : (s.setDirty x).hbm = s.hbm := rfl
@[simp] theorem State.setDirty_links (s : State) (x : List (Nat × Nat × Nat × Nat)) : (s.setDirty x).links = s.links := rfl
@[simp] theorem State.setDirty_clusters (s : State) (x : List (Nat × Nat × Nat × Nat)) : (s.setDirty x).clusters = s.clusters := rfl
@[simp] theorem State.setDirty_cores (s : State) (x : List (Nat × Nat × Nat × Nat)) : (s.setDirty x).cores = s.cores := rfl
@[simp] theorem State.setDirty_parts (s : State) (x : List (Nat × Nat × Nat × Nat)) : (s.setDirty x).parts = s.parts := rfl
@[simp] theorem State.setDirty_devCtl (s : State) (x : List (Nat × Nat × Nat × Nat)) : (s.setDirty x).devCtl = s.devCtl := rfl
@[simp] theorem State.setDirty_mem (s : State) (x : List (Nat × Nat × Nat × Nat)) : (s.setDirty x).mem = s.mem := rfl
@[simp] theorem State.setDirty_cipher (s : State) (x : List (Nat × Nat × Nat × Nat)) : (s.setDirty x).cipher = s.cipher := rfl
@[simp] theorem State.setDirty_badWords (s : State) (x : List (Nat × Nat × Nat × Nat)) : (s.setDirty x).badWords = s.badWords := rfl
@[simp] theorem State.setDirty_poison (s : State) (x : List (Nat × Nat × Nat × Nat)) : (s.setDirty x).poison = s.poison := rfl
@[simp] theorem State.setDirty_flash (s : State) (x : List (Nat × Nat × Nat × Nat)) : (s.setDirty x).flash = s.flash := rfl
@[simp] theorem State.setDirty_pins (s : State) (x : List (Nat × Nat × Nat × Nat)) : (s.setDirty x).pins = s.pins := rfl
@[simp] theorem State.setDirty_boot (s : State) (x : List (Nat × Nat × Nat × Nat)) : (s.setDirty x).boot = s.boot := rfl
@[simp] theorem State.setDirty_danger (s : State) (x : List (Nat × Nat × Nat × Nat)) : (s.setDirty x).danger = s.danger := rfl
@[simp] theorem State.setDirty_ind (s : State) (x : List (Nat × Nat × Nat × Nat)) : (s.setDirty x).ind = s.ind := rfl
@[simp] theorem State.setDirty_latches (s : State) (x : List (Nat × Nat × Nat × Nat)) : (s.setDirty x).latches = s.latches := rfl
@[simp] theorem State.setDirty_mboxTurn (s : State) (x : List (Nat × Nat × Nat × Nat)) : (s.setDirty x).mboxTurn = s.mboxTurn := rfl
@[simp] theorem State.setDirty_mboxDone (s : State) (x : List (Nat × Nat × Nat × Nat)) : (s.setDirty x).mboxDone = s.mboxDone := rfl
@[simp] theorem State.setDirty_usbData (s : State) (x : List (Nat × Nat × Nat × Nat)) : (s.setDirty x).usbData = s.usbData := rfl
@[simp] theorem State.setDirty_cycle (s : State) (x : List (Nat × Nat × Nat × Nat)) : (s.setDirty x).cycle = s.cycle := rfl
@[simp] theorem State.setDirty_dirty (s : State) (x : List (Nat × Nat × Nat × Nat)) : (s.setDirty x).dirty = x := rfl
@[simp] theorem State.setDirty_freeCtr (s : State) (x : List (Nat × Nat × Nat × Nat)) : (s.setDirty x).freeCtr = s.freeCtr := rfl
@[simp] theorem State.setDirty_pending (s : State) (x : List (Nat × Nat × Nat × Nat)) : (s.setDirty x).pending = s.pending := rfl
@[simp] theorem State.setFreeCtr_dev (s : State) (x : Nat) : (s.setFreeCtr x).dev = s.dev := rfl
@[simp] theorem State.setFreeCtr_gaf (s : State) (x : Nat) : (s.setFreeCtr x).gaf = s.gaf := rfl
@[simp] theorem State.setFreeCtr_sec (s : State) (x : Nat) : (s.setFreeCtr x).sec = s.sec := rfl
@[simp] theorem State.setFreeCtr_time (s : State) (x : Nat) : (s.setFreeCtr x).time = s.time := rfl
@[simp] theorem State.setFreeCtr_dbg (s : State) (x : Nat) : (s.setFreeCtr x).dbg = s.dbg := rfl
@[simp] theorem State.setFreeCtr_usb (s : State) (x : Nat) : (s.setFreeCtr x).usb = s.usb := rfl
@[simp] theorem State.setFreeCtr_eth (s : State) (x : Nat) : (s.setFreeCtr x).eth = s.eth := rfl
@[simp] theorem State.setFreeCtr_ethUp (s : State) (x : Nat) : (s.setFreeCtr x).ethUp = s.ethUp := rfl
@[simp] theorem State.setFreeCtr_cam (s : State) (x : Nat) : (s.setFreeCtr x).cam = s.cam := rfl
@[simp] theorem State.setFreeCtr_aud (s : State) (x : Nat) : (s.setFreeCtr x).aud = s.aud := rfl
@[simp] theorem State.setFreeCtr_aon (s : State) (x : Nat) : (s.setFreeCtr x).aon = s.aon := rfl
@[simp] theorem State.setFreeCtr_hbm (s : State) (x : Nat) : (s.setFreeCtr x).hbm = s.hbm := rfl
@[simp] theorem State.setFreeCtr_links (s : State) (x : Nat) : (s.setFreeCtr x).links = s.links := rfl
@[simp] theorem State.setFreeCtr_clusters (s : State) (x : Nat) : (s.setFreeCtr x).clusters = s.clusters := rfl
@[simp] theorem State.setFreeCtr_cores (s : State) (x : Nat) : (s.setFreeCtr x).cores = s.cores := rfl
@[simp] theorem State.setFreeCtr_parts (s : State) (x : Nat) : (s.setFreeCtr x).parts = s.parts := rfl
@[simp] theorem State.setFreeCtr_devCtl (s : State) (x : Nat) : (s.setFreeCtr x).devCtl = s.devCtl := rfl
@[simp] theorem State.setFreeCtr_mem (s : State) (x : Nat) : (s.setFreeCtr x).mem = s.mem := rfl
@[simp] theorem State.setFreeCtr_cipher (s : State) (x : Nat) : (s.setFreeCtr x).cipher = s.cipher := rfl
@[simp] theorem State.setFreeCtr_badWords (s : State) (x : Nat) : (s.setFreeCtr x).badWords = s.badWords := rfl
@[simp] theorem State.setFreeCtr_poison (s : State) (x : Nat) : (s.setFreeCtr x).poison = s.poison := rfl
@[simp] theorem State.setFreeCtr_flash (s : State) (x : Nat) : (s.setFreeCtr x).flash = s.flash := rfl
@[simp] theorem State.setFreeCtr_pins (s : State) (x : Nat) : (s.setFreeCtr x).pins = s.pins := rfl
@[simp] theorem State.setFreeCtr_boot (s : State) (x : Nat) : (s.setFreeCtr x).boot = s.boot := rfl
@[simp] theorem State.setFreeCtr_danger (s : State) (x : Nat) : (s.setFreeCtr x).danger = s.danger := rfl
@[simp] theorem State.setFreeCtr_ind (s : State) (x : Nat) : (s.setFreeCtr x).ind = s.ind := rfl
@[simp] theorem State.setFreeCtr_latches (s : State) (x : Nat) : (s.setFreeCtr x).latches = s.latches := rfl
@[simp] theorem State.setFreeCtr_mboxTurn (s : State) (x : Nat) : (s.setFreeCtr x).mboxTurn = s.mboxTurn := rfl
@[simp] theorem State.setFreeCtr_mboxDone (s : State) (x : Nat) : (s.setFreeCtr x).mboxDone = s.mboxDone := rfl
@[simp] theorem State.setFreeCtr_usbData (s : State) (x : Nat) : (s.setFreeCtr x).usbData = s.usbData := rfl
@[simp] theorem State.setFreeCtr_cycle (s : State) (x : Nat) : (s.setFreeCtr x).cycle = s.cycle := rfl
@[simp] theorem State.setFreeCtr_dirty (s : State) (x : Nat) : (s.setFreeCtr x).dirty = s.dirty := rfl
@[simp] theorem State.setFreeCtr_freeCtr (s : State) (x : Nat) : (s.setFreeCtr x).freeCtr = x := rfl
@[simp] theorem State.setFreeCtr_pending (s : State) (x : Nat) : (s.setFreeCtr x).pending = s.pending := rfl
@[simp] theorem State.setPending_dev (s : State) (x : List Instr) : (s.setPending x).dev = s.dev := rfl
@[simp] theorem State.setPending_gaf (s : State) (x : List Instr) : (s.setPending x).gaf = s.gaf := rfl
@[simp] theorem State.setPending_sec (s : State) (x : List Instr) : (s.setPending x).sec = s.sec := rfl
@[simp] theorem State.setPending_time (s : State) (x : List Instr) : (s.setPending x).time = s.time := rfl
@[simp] theorem State.setPending_dbg (s : State) (x : List Instr) : (s.setPending x).dbg = s.dbg := rfl
@[simp] theorem State.setPending_usb (s : State) (x : List Instr) : (s.setPending x).usb = s.usb := rfl
@[simp] theorem State.setPending_eth (s : State) (x : List Instr) : (s.setPending x).eth = s.eth := rfl
@[simp] theorem State.setPending_ethUp (s : State) (x : List Instr) : (s.setPending x).ethUp = s.ethUp := rfl
@[simp] theorem State.setPending_cam (s : State) (x : List Instr) : (s.setPending x).cam = s.cam := rfl
@[simp] theorem State.setPending_aud (s : State) (x : List Instr) : (s.setPending x).aud = s.aud := rfl
@[simp] theorem State.setPending_aon (s : State) (x : List Instr) : (s.setPending x).aon = s.aon := rfl
@[simp] theorem State.setPending_hbm (s : State) (x : List Instr) : (s.setPending x).hbm = s.hbm := rfl
@[simp] theorem State.setPending_links (s : State) (x : List Instr) : (s.setPending x).links = s.links := rfl
@[simp] theorem State.setPending_clusters (s : State) (x : List Instr) : (s.setPending x).clusters = s.clusters := rfl
@[simp] theorem State.setPending_cores (s : State) (x : List Instr) : (s.setPending x).cores = s.cores := rfl
@[simp] theorem State.setPending_parts (s : State) (x : List Instr) : (s.setPending x).parts = s.parts := rfl
@[simp] theorem State.setPending_devCtl (s : State) (x : List Instr) : (s.setPending x).devCtl = s.devCtl := rfl
@[simp] theorem State.setPending_mem (s : State) (x : List Instr) : (s.setPending x).mem = s.mem := rfl
@[simp] theorem State.setPending_cipher (s : State) (x : List Instr) : (s.setPending x).cipher = s.cipher := rfl
@[simp] theorem State.setPending_badWords (s : State) (x : List Instr) : (s.setPending x).badWords = s.badWords := rfl
@[simp] theorem State.setPending_poison (s : State) (x : List Instr) : (s.setPending x).poison = s.poison := rfl
@[simp] theorem State.setPending_flash (s : State) (x : List Instr) : (s.setPending x).flash = s.flash := rfl
@[simp] theorem State.setPending_pins (s : State) (x : List Instr) : (s.setPending x).pins = s.pins := rfl
@[simp] theorem State.setPending_boot (s : State) (x : List Instr) : (s.setPending x).boot = s.boot := rfl
@[simp] theorem State.setPending_danger (s : State) (x : List Instr) : (s.setPending x).danger = s.danger := rfl
@[simp] theorem State.setPending_ind (s : State) (x : List Instr) : (s.setPending x).ind = s.ind := rfl
@[simp] theorem State.setPending_latches (s : State) (x : List Instr) : (s.setPending x).latches = s.latches := rfl
@[simp] theorem State.setPending_mboxTurn (s : State) (x : List Instr) : (s.setPending x).mboxTurn = s.mboxTurn := rfl
@[simp] theorem State.setPending_mboxDone (s : State) (x : List Instr) : (s.setPending x).mboxDone = s.mboxDone := rfl
@[simp] theorem State.setPending_usbData (s : State) (x : List Instr) : (s.setPending x).usbData = s.usbData := rfl
@[simp] theorem State.setPending_cycle (s : State) (x : List Instr) : (s.setPending x).cycle = s.cycle := rfl
@[simp] theorem State.setPending_dirty (s : State) (x : List Instr) : (s.setPending x).dirty = s.dirty := rfl
@[simp] theorem State.setPending_freeCtr (s : State) (x : List Instr) : (s.setPending x).freeCtr = s.freeCtr := rfl
@[simp] theorem State.setPending_pending (s : State) (x : List Instr) : (s.setPending x).pending = x := rfl

end Sys2Proof.Machine
end

