-- ==== Sys2Proof/Laws/Thread.lean ====
section
/-! SUPPORT. What the issue of an instruction leaves: the thread at its next word or at a target, and everything else. -/
namespace Sys2Proof.Machine

/-! ### Registers -/

@[simp] theorem Thread.g_zero (t : Thread) : t.g 0 = 0#64 := by simp [Thread.g]
theorem Thread.g_setG_same (t : Thread) (n : Nat) (v : W64) (h : n ≠ 0) : (t.setG n v).g n = v := by
  simp [Thread.g, Thread.setG, h]
theorem Thread.g_setG_ne (t : Thread) (n m : Nat) (v : W64) (h : m ≠ n) : (t.setG n v).g m = t.g m := by
  unfold Thread.g Thread.setG
  split
  · rfl
  · split
    · rfl
    · simp [SMap.get_put_ne _ _ _ _ _ h]
theorem Thread.setG_eq (t : Thread) (n : Nat) (v : W64) : t.setG n v = { t with gr := (t.setG n v).gr } := by
  unfold Thread.setG; split <;> rfl
@[simp] theorem Thread.setG_st (t : Thread) (n : Nat) (v : W64) : (t.setG n v).st = t.st := by unfold Thread.setG; split <;> rfl
@[simp] theorem Thread.setG_pc (t : Thread) (n : Nat) (v : W64) : (t.setG n v).pc = t.pc := by unfold Thread.setG; split <;> rfl
@[simp] theorem Ctl.g_zero (t : Ctl) : t.g 0 = 0#64 := by simp [Ctl.g]
theorem Ctl.g_setG_same (t : Ctl) (n : Nat) (v : W64) (h : n ≠ 0) : (t.setG n v).g n = v := by
  simp [Ctl.g, Ctl.setG, h]
theorem Ctl.g_setG_ne (t : Ctl) (n m : Nat) (v : W64) (h : m ≠ n) : (t.setG n v).g m = t.g m := by
  unfold Ctl.g Ctl.setG
  split
  · rfl
  · split
    · rfl
    · simp [SMap.get_put_ne _ _ _ _ _ h]
theorem Ctl.setG_eq (t : Ctl) (n : Nat) (v : W64) : t.setG n v = { t with gr := (t.setG n v).gr } := by
  unfold Ctl.setG; split <;> rfl

/-! ### The thread after the issue -/

theorem Thread.goOn_sameBut (t : Thread) : Thread.sameBut t t.goOn := by
  unfold Thread.sameBut Thread.goOn; dsimp only; split
  · rfl
  · split <;> rfl
@[simp] theorem Thread.goOn_pc (t : Thread) : t.goOn.pc = t.pc := by
  unfold Thread.goOn; dsimp only; split
  · rfl
  · split <;> rfl
theorem Thread.goOn_st (t : Thread) : t.goOn.st = .ready ∨ (t.goOn.st = .waitMem ∧ t.goOn.wait = .fetch) := by
  unfold Thread.goOn; dsimp only; split
  · exact .inl rfl
  · split
    · exact .inl rfl
    · exact .inr ⟨rfl, rfl⟩
theorem Thread.ahead_sameBut (t : Thread) : Thread.sameBut t t.ahead := by
  unfold Thread.sameBut Thread.ahead; dsimp only; split <;> rfl
@[simp] theorem Thread.ahead_st (t : Thread) : t.ahead.st = t.st := by unfold Thread.ahead; dsimp only; split <;> rfl
@[simp] theorem Thread.ahead_wait (t : Thread) : t.ahead.wait = t.wait := by unfold Thread.ahead; dsimp only; split <;> rfl

theorem Thread.sameBut_trans {x y z : Thread} (h : Thread.sameBut x y) (g : Thread.sameBut y z) : Thread.sameBut x z := by
  unfold Thread.sameBut at *; rw [g, h]

/-- What `advance` makes of a thread. -/
def Thread.next (th : Thread) : Thread :=
  let th' := { th.ahead with pc := th.pc + 8#64 }
  if th.st = .ready then th'.goOn else th'

theorem Thread.next_wentOn (t : Thread) (h : t.st = .ready) : Thread.wentOn t t.next := by
  have e : t.next = ({ t.ahead with pc := t.pc + 8#64 } : Thread).goOn := by simp [Thread.next, h]
  refine ⟨?_, by simp [e], by rw [e]; exact Thread.goOn_st _⟩
  rw [e]
  refine Thread.sameBut_trans (y := { t.ahead with pc := t.pc + 8#64 }) ?_ (Thread.goOn_sameBut _)
  have := Thread.ahead_sameBut t
  unfold Thread.sameBut at *; rw [this]

theorem Thread.next_waitsAs (t : Thread) (h : t.st ≠ .ready) : Thread.waitsAs t t.next t.st t.wait := by
  have e : t.next = { t.ahead with pc := t.pc + 8#64 } := by simp [Thread.next, h]
  refine ⟨?_, by simp [e], by simp [e], by simp [e]⟩
  rw [e]
  have := Thread.ahead_sameBut t
  unfold Thread.sameBut at *; rw [this]

theorem Thread.jump_jumpedTo (t : Thread) (pc : W64) : Thread.jumpedTo t (t.jump pc) pc := by
  simp [Thread.jumpedTo, Thread.sameBut, Thread.jump]

/-! ### The state after the issue -/

/-- The state after an instruction that goes on. -/
def State.issuedBy (s : State) (h : Hart) : State := (s.noteIssue h.key h.thr.val).advance h.key h.thr.val

@[simp] theorem Core.count_threads (c : Core) (n v : Nat) : (c.count n v).threads = c.threads := by
  unfold Core.count; dsimp only; split <;> rfl

theorem Core.count_eq (c : Core) (n v : Nat) : c.count n v = { c with cnt := (c.count n v).cnt, winE := (c.count n v).winE } := by
  unfold Core.count; dsimp only; split <;> rfl

/-- Nothing but one thread and its core's counters and last issuer differ. -/
def State.near (s t : State) (h : Hart) : Prop :=
  s.onlyCore t h.key ∧ s.otherThreads t h ∧
    t.core h.key = { s.core h.key with
      threads := (t.core h.key).threads, cnt := (t.core h.key).cnt, winE := (t.core h.key).winE, last := (t.core h.key).last }

theorem State.near_refl (s : State) (h : Hart) : s.near s h := ⟨⟨rfl, fun _ _ => rfl⟩, fun _ _ => rfl, rfl⟩

theorem State.near_trans {s t u : State} {h : Hart} (a : s.near t h) (b : t.near u h) : s.near u h := by
  obtain ⟨⟨a1, a2⟩, a3, a4⟩ := a
  obtain ⟨⟨b1, b2⟩, b3, b4⟩ := b
  refine ⟨⟨?_, fun j hj => (b2 j hj).trans (a2 j hj)⟩, fun j hj => (b3 j hj).trans (a3 j hj), ?_⟩
  · rw [b1, a1]
  · rw [b4, a4]

theorem State.near_updThr (s : State) (h : Hart) (f : Thread → Thread) : s.near (s.updThr h.key h.thr.val f) h :=
  ⟨⟨rfl, fun j hj => State.core_updCore_ne _ _ _ _ hj⟩, fun j hj => State.thr_updThr_ne _ _ _ _ _ hj, by simp [State.updThr]⟩

theorem State.near_count (s : State) (h : Hart) (n v : Nat) : s.near (s.count h.key n v) h := by
  refine ⟨⟨rfl, fun j hj => State.core_updCore_ne _ _ _ _ hj⟩, fun j _ => by simp [State.thr, State.count], ?_⟩
  rw [State.count, State.core_updCore_same, Core.count_eq]

theorem State.near_noteIssue (s : State) (h : Hart) : s.near (s.noteIssue h.key h.thr.val) h := by
  refine ⟨⟨rfl, fun j hj => State.core_updCore_ne _ _ _ _ hj⟩, fun j _ => by simp [State.thr, State.noteIssue], ?_⟩
  rw [State.noteIssue, State.core_updCore_same, Core.count_eq]

theorem State.advance_eq (s : State) (k t : Nat) : s.advance k t = s.updThr k t Thread.next := rfl

theorem State.onlyThread_issuedBy {s t : State} {h : Hart} (a : s.near t h) : s.onlyThread (t.issuedBy h) h := by
  have b := State.near_trans (State.near_trans a (t.near_noteIssue h)) ((t.noteIssue h.key h.thr.val).near_updThr h Thread.next)
  obtain ⟨b1, b2, b3⟩ := b
  refine ⟨b1, b2, b3.trans ?_⟩
  simp [State.issuedBy, State.advance_eq, State.noteIssue, State.updThr]

@[simp] theorem State.thr_count (s : State) (k n v k' t : Nat) : (s.count k n v).thr k' t = s.thr k' t := by
  by_cases h : k' = k
  · subst h; simp [State.thr, State.count]
  · simp [State.thr, State.count, State.core_updCore_ne _ _ _ _ h]

@[simp] theorem State.thr_noteIssue (s : State) (k t k' t' : Nat) : (s.noteIssue k t).thr k' t' = s.thr k' t' := by
  by_cases h : k' = k
  · subst h; simp [State.thr, State.noteIssue]
  · simp [State.thr, State.noteIssue, State.core_updCore_ne _ _ _ _ h]

@[simp] theorem State.issuedBy_of (s : State) (h : Hart) : (s.issuedBy h).of h = (s.of h).next := by
  simp [State.issuedBy, State.advance, State.of, Thread.next]

theorem State.issuedBy_cnt (s : State) (h : Hart) :
    ((s.issuedBy h).core h.key).cnt.get 0#64 1 = (s.core h.key).cnt.get 0#64 1 + 1#64 := by
  simp [State.issuedBy, State.advance, State.noteIssue, State.updThr, Core.count, cntAlways, SMap.get_put_same]
  apply BitVec.eq_of_toNat_eq; simp

/-! ### Whole rows -/

/-- A row that goes on. -/
theorem issueMeaning_done (op : Nat) (h : Hart) (w : W64) (s s' : State) (vregs : List Nat) (touch : List (Nat × Nat × Nat))
    (thr : Hart → State → Res) (ctl : Option Nat → State → Res) (ho : opcOf w = op) (hi : s.issues h w vregs)
    (hs : thr h s = .done s') : issueMeaning op (.thread h) w s vregs touch thr ctl = .next (s'.issuedBy h) := by
  rw [issueMeaning_legal _ _ _ _ _ _ _ _ ho hi.1]
  exact congrArg _ (State.issue_done s s' h w vregs touch (thr h) hi.2.1 hi.2.2 hs)

theorem issueMeaning_ctl (op : Nat) (c : Option (Fin 8)) (w : W64) (s s' : State) (vregs : List Nat)
    (touch : List (Nat × Nat × Nat)) (thr : Hart → State → Res) (ctl : Option Nat → State → Res) (ho : opcOf w = op)
    (hx : ctlOpc op = true) (hi : s.ctlIssues (ctlNum c) w) (hs : ctl (ctlNum c) s = .done s') :
    issueMeaning op (ctlAgent c) w s vregs touch thr ctl =
      .next (s'.updCtl (ctlNum c) (fun t => { t with pc := t.pc + 8#64 })) := by
  rw [issueMeaning_legal _ _ _ _ _ _ _ _ ho hi.1]
  cases c with
  | none => exact congrArg _ (State.ctlIssue_done s s' none w touch (ctl none) hi (by rw [ho]; exact hx) hs)
  | some n => exact congrArg _ (State.ctlIssue_done s s' (some n.val) w touch (ctl (some n.val)) hi (by rw [ho]; exact hx) hs)

end Sys2Proof.Machine
end

