-- ==== Sys2Proof/Tests/Slice0.lean ====
section
/-! SUPPORT. The model's own tests: ill-formed commands that the checks refuse, states that meet the hypotheses of the statements,
and single steps on small states. -/
namespace Sys2Proof.Tests
open Sys2Proof.Machine

/-! ### Small states -/

/-- A word of the general form, from opcode, D, A, B, C, X and IMM (Table ISA-1). -/
def wd (op d a b c x imm : Nat) : W64 :=
  BitVec.ofNat 64 (op + 2 ^ 8 * d + 2 ^ 13 * a + 2 ^ 18 * b + 2 ^ 23 * c + 2 ^ 28 * x + 2 ^ 32 * imm)

/-- The main domains run, the firmware runs, partition 0 owns cluster 0 and stack 0, and its pages 1 to 5 lie in core store 0
(code), core store 0, the cluster store, HBM and the host. -/
def base : State :=
  { State.reset with
    pins := { Pins.init with resetN := true, clocksOn := true }
    boot := { Boot.init with running := true }
    dev := { Dev.init with master := true, own := [(0, { clusters := 1#8, stks := 1#8, conf := false, v := true })] }
    clusters := [(0, { Cluster.init with powered := true })]
    parts := [(0, { Part.init with
      lmap := [(0, 1)]
      ptes := [(1, mkPte false false false false true false 0 0), (2, mkPte false false false false false false 0 1),
               (3, mkPte false false false false false false 1 1), (4, mkPte false false false false false false 2 1),
               (5, mkPte false false false false false false 3 1)] })] }

/-- A thread READY at the word w, which its fetch buffer holds. -/
def thr (w : W64) (gr : SMap W64) : Thread :=
  { Thread.init with st := .ready, pc := 0x10000#64, fcur := some 0x10000#64, fwords := List.replicate 16 w, gr := gr }

/-- Core 0 of cluster 0 with thread 0 as given. -/
def core0 (t : Thread) : Core := { Core.init with threads := [(0, t)] }

/-- Thread 0 stands at the word w. -/
def at0 (w : W64) (gr : SMap W64) : State := { base with cores := [(0, core0 (thr w gr))] }

/-- Its number. -/
def h0 : Hart := ⟨0, 0, 0⟩

/-- A controller at the word w in its local memory. -/
def ctlOf (w : W64) (gr : SMap W64) : Ctl :=
  { Ctl.init with gr := gr, mem := Memory.writeN [] 0 (leBytes 8 w.toNat) }

/-- The device controller stands at the word w. -/
def atDev (w : W64) (gr : SMap W64) : State := { base with devCtl := ctlOf w gr }

/-- The controller of cluster 0 stands at the word w. -/
def atCl (w : W64) (gr : SMap W64) : State :=
  { base with clusters := [(0, { Cluster.init with powered := true, ctl := ctlOf w gr })] }

/-- A thread issues a word where the conditions hold as Booleans. -/
theorem issues_of {s : State} {h : Hart} {w : W64} {v : List Nat}
    (h1 : (s.live && s.canIssue h.key h.thr.val w v && decide ((s.core h.key).bp = [])) = true) : s.issues h w v := by
  simp only [Bool.and_eq_true, decide_eq_true_eq] at h1
  refine ⟨h1.1.1, h1.1.2, fun n _ => ?_⟩
  rw [h1.2]; exact show bitAt 0x800 0 = false by decide

/-- A controller issues a word where the conditions hold as Booleans. -/
theorem ctlIssues_of {s : State} {c : Option Nat} {w : W64}
    (h1 : (s.live && s.ctlReady c && inLocal (s.ctl c).pc.toNat && decide ((s.ctl c).pc.toNat % 8 = 0) &&
      decide ((s.ctl c).fetched = w.toNat) && decide ((s.ctl c).bp = [])) = true) : s.ctlIssues c w := by
  simp only [Bool.and_eq_true, decide_eq_true_eq] at h1
  simp only [State.ctlIssues, h1, true_and]
  intro n _
  rw [h1.2]; exact show bitAt 0x800 0 = false by decide

/-- A matrix word from opcode, SLOT, RS, RV, A, B, C, MM1, FMT and the bits from BUF up (Table ISA-10). -/
def qw (op slot rs rv a b c m fmt hi : Nat) : W64 :=
  BitVec.ofNat 64 (op + 2 ^ 8 * slot + 2 ^ 12 * rs + 2 ^ 13 * rv + 2 ^ 17 * a + 2 ^ 22 * b + 2 ^ 27 * c + 2 ^ 32 * m +
    2 ^ 38 * fmt + 2 ^ 42 * hi)

/-- A record of n bytes from its fields: bit offset and value. -/
def recOf (n : Nat) (fs : List (Nat × Nat)) : List Byte := leBytes n (fs.foldl (fun a f => a + f.2 * 2 ^ f.1) 0)

/-- Bytes written at device addresses. -/
def withMem (s : State) (l : List (Nat × List Byte)) : State :=
  { s with mem := l.foldl (fun m x => Memory.writeN m x.1 x.2) s.mem }

/-- Pages 16 to 31 in core store 0, frames 2 to 17, besides those of `base`. -/
def bigParts : SMap Part :=
  [(0, { base.part 0 with
    ptes := (base.part 0).ptes ++ (upTo 16).map (fun i => (16 + i, mkPte false false false false false false 0 (2 + i))) })]

/-- What a value of an option has, where the test of it says so. -/
theorem opt_all {α : Type} {o : Option α} {P : α → Prop} [DecidablePred P] (h : o.all (fun x => decide (P x)) = true) :
    ∀ k, o = some k → P k := by
  rintro k rfl; simpa using h

/-- Nothing is traced where no trace unit is set up. -/
theorem noTrace_of {s : State} (h : s.dbg.traces = []) (k : Nat) : s.noTrace k := by
  unfold State.noTrace State.trace; rw [h]; exact ⟨show Trace.init.state ≠ 1#2 by decide, show Trace.init.state ≠ 2#2 by decide⟩

/-- The test of `Job.still`. -/
def stillB (x : Job) : Bool :=
  decide (x.held = []) && !x.victim && decide (x.destroy = none) && decide (1 ≤ x.cores) && (!x.whole || decide (8 ≤ x.cores)) &&
    (decide (x.placed = []) || (x.pinned && (decide (x.kind ≠ 1#2) || x.running.isSome)))

theorem still_of {x : Job} (h : stillB x = true) : x.still := by
  simp only [stillB, Bool.and_eq_true, Bool.or_eq_true, decide_eq_true_eq, Bool.not_eq_true'] at h
  constructor
  all_goals first | exact fun w => h.1.2.resolve_left (by simp [w]) | simp only [h]

theorem settled_of {s : State} {p : Nat} (h : ((s.part p).jobs.all (fun x => stillB x.2) &&
    (decide (∀ b, s.freeCores p b = []) || (s.part p).jobs.all (fun x => decide (x.2.placed ≠ [])))) = true) : s.settled p := by
  simp only [Bool.and_eq_true, Bool.or_eq_true, List.all_eq_true, decide_eq_true_eq] at h
  exact ⟨fun x hx => still_of (h.1 x hx), h.2⟩

theorem placed_of {α β : Type} {l : List β} {f : β → Option α} {P : α → Prop} [DecidablePred P]
    (h : l.all (fun x => (f x).any (fun k => decide (P k))) = true) : ∀ x ∈ l, ∃ k, f x = some k ∧ P k := by
  intro x hx
  obtain ⟨k, hk, hp⟩ := Option.any_eq_true .. |>.mp (List.all_eq_true.mp h x hx)
  exact ⟨k, hk, of_decide_eq_true hp⟩

/-- A store to a cluster store whose partition has no level-3 entry there. -/
theorem noEntry_of {s : State} {a : Nat} {l : List Byte} (n o p : Nat) (h : regionOf a = .cluster n o)
    (h2 : s.ownerCl n = some p) (h3 : (s.store a l).entryAtAddr p a = none) : Claims.noEntry s a l := by
  intro n' o' p' e e'
  rw [h] at e; cases e
  rw [h2] at e'; cases e'
  exact h3

/-- No Reel holds slots where none is listed. -/
theorem noSlots_of {s : State} (h : s.parts.all (fun x => decide (x.2.reels = [])) = true) (q i : Nat) : (s.reel q i).slots = [] := by
  unfold State.reel State.part SMap.get
  cases e : s.parts.find q with
  | none => rfl
  | some x => rw [Option.getD_some, of_decide_eq_true (List.all_eq_true.mp h _ (find_mem e))]; rfl

/-- The conditions of `Claims.mayWrite`. -/
theorem mayWrite_of {s : State} {k : Nat} {o : DmaOp} {dst n d : Nat}
    (h : 0 < n ∧ dst % 65536 + n ≤ 65536 ∧ s.dmaFault k .any true dst = none ∧ s.va? (s.partOf k) dst = some d ∧
      s.badPart d n = none ∧ s.mvRange k dst n = false ∧ s.vbankBusy (s.partOf k) dst n = false ∧
      s.vraced2 k o.thr dst n = false ∧ (o.stale = false ∧ o.writes = [])) (q : s.dbg.traces = []) :
    Claims.mayWrite s k o dst n d := by
  constructor
  all_goals first | exact noTrace_of q k | simp only [h, and_self]

/-- The conditions of `Claims.mayRead`. -/
theorem mayRead_of {s : State} {k : Nat} {o : DmaOp} {src n a : Nat}
    (h : src % 65536 + n ≤ 65536 ∧ s.dmaFault k .any false src = none ∧ s.va? (s.partOf k) src = some a ∧
      s.badFirst a n = none ∧ s.mvRange k src n = false ∧ s.vbankBusy (s.partOf k) src n = false ∧
      s.openRead k o.thr src n = false) : Claims.mayRead s k o src n a := by
  constructor
  all_goals simp only [h]

/-- The next state of an outcome. -/
def nxt (o : Host.Outcome State Fault Refusal) : State := match o with | .next t => t | _ => State.reset

/-- Whether an outcome is a next state. -/
def isNxt (o : Host.Outcome State Fault Refusal) : Bool := match o with | .next _ => true | _ => false

theorem nxt_of {o : Host.Outcome State Fault Refusal} (h : isNxt o = true) : o = .next (nxt o) := by
  cases o <;> simp_all [isNxt, nxt]

/-- The value of a read that faults nowhere. -/
def getL (x : List Byte ⊕ Nat) : List Byte := match x with | .inl l => l | .inr _ => []

theorem getL_of {x : List Byte ⊕ Nat} (h : x.isLeft = true) : x = .inl (getL x) := by
  cases x <;> simp_all [getL]

/-- Nothing is unreadable where no error is held and no stack has failed. -/
theorem vbad_clean {s : State} {p va n : Nat} (h : s.badWords = [] ∧ s.poison = [] ∧ s.hbm = []) :
    s.vbad p va n = false := by
  obtain ⟨h1, h2, h3⟩ := h
  have hd : ∀ a, s.deadStack a = false := by
    intro a; unfold State.deadStack; split <;> simp [State.stack, h3] <;> rfl
  simp only [State.vbad, List.any_eq_false]
  intro i _
  split <;> simp [State.badAt, hd, h1, h2]

theorem hostRead_left {s : State} {p va n : Nat}
    (h : (pagesOf va n).findSome? (fun a => s.hostFault p a false) = none)
    (hc : s.badWords = [] ∧ s.poison = [] ∧ s.hbm = []) : (s.hostRead p va n).isLeft = true := by
  simp [State.hostRead, h, vbad_clean hc]

theorem pair_of {x : State × Option Nat} (h : x.2 = none) : x = (x.1, none) := by
  obtain ⟨a, b⟩ := x; subst h; rfl

set_option Elab.async false
/-! ### States of the witnesses -/

def ws := wd 0x18 3 0 0 0 0 0x80000001 :: (Claims.scalarForms.map (·.op)).flatMap (fun o => [wd o 31 30 29 0 0 0, wd o 0 30 29 0 1 0, wd o 3 30 0 0 0 0x80000001, wd o 3 30 0 0 1 5])
def ws2 := (Claims.branchForms.map (·.2.1)).flatMap (fun o => [wd o 0 1 2 0 0 0xFFFFFFFF, wd o 0 1 1 0 0 3]) ++ [wd 0x38 1 0 0 0 0 0xFFFFFFFF, wd 0x38 0 0 0 0 0 8, wd 0x39 1 1 0 0 0 8, wd 0x39 2 1 0 0 0 4, wd 0x39 0 2 0 0 0 8]
def l1State_0 : List State := ws.flatMap (fun w => let g := [(29, 0xFFFFFFFFFFFFFFFF#64), (30, 0x8000000000000000#64)]; [at0 w g, atDev w g, atCl w g])
def l1State_1 : List State := ws2.flatMap (fun w => let g := [(1, 0xFFFFFFFFFFFFFFF8#64), (2, 0x8000000000000000#64)]; [at0 w g, atDev w g, atCl w g])
def ws3 := [0xE0,0xE1,0xE2,0xE3,0xE4].flatMap (fun o => [wd o 0 0 0 0 0 0, wd o 0 0 0 0 8 0, wd o 1 0 0 0 0 0, wd o 0 1 0 0 0 8, wd o 0 0 1 0 0 12]) ++
  (Claims.scalarForms.map (·.op) ++ Claims.branchForms.map (·.2.1)).map (fun o => wd o 31 31 31 31 15 0xFFFFFFFF) ++
  [wd 0x10 1 0 1 0 0 0, wd 0 0 0 0 1 0 0, wd 0x18 0 1 0 0 0 0, wd 0x30 0 0 0 0 1 0, wd 0x11 0 0 0 0 0 0, wd 0xFF 1 1 1 1 1 1]
def ws4 := [0x41,0x42,0x50,0x60,0x91,0x8F,0xD1,0xD7].map (fun o => wd o 0 0 0 0 0 0)
def addrs : List W64 := [0x20000#64, 0x2FFFE#64, 0x30008#64, 0x40000#64, 0x50000#64, 0x60000#64, 0x20001#64, 0xFFFF#64, 0xFFFFFFFFFFFF#64]
def ws5 := [0x20,0x21,0x22,0x23].map (fun o => wd o 3 1 0 0 1 0) ++ [wd 0x60 3 1 0 0 0 0, wd 0x60 16 1 0 0 0 0, wd 0x62 15 1 0 2 0 0, wd 0x62 15 1 0 3 0 0,wd 0x23 0 1 0 0 0 0xFFFFFFF8]
def sts5 := ws5.flatMap (fun w => addrs.map (fun a => at0 w [(1, a), (2, 300#64)]))
def lc : PendLoad := { PendLoad.init with reg := 3#5, bytes := 4, va := 0x30000#64 }
def st6 (l : PendLoad) : State := let s := at0 0#64 []; { s with mem := Memory.writeN [] (coreStore 0 0x10000) [0xFE, 2, 3, 0xFF, 5,6,7,8], cores := [(0, core0 {thr 0#64 [] with st := .waitMem, wait := .load, load := some l}), (1, core0 (thr 0#64 []))] }
def ws7 := [0x24,0x25,0x26,0x27].map (fun o => wd o 0 1 2 0 0 0) ++ [wd 0x61 0 1 2 0 0 0, wd 0x61 0 1 16 0 0 0, wd 0x63 0 1 15 2 0 0, wd 0x63 0 1 15 3 0 0, wd 0x63 0 1 15 4 0 0]
def sts7 := ws7.flatMap (fun w => addrs.map (fun a => {at0 w [] with cores := [(0, core0 {thr w [(1, a), (2, 300#64), (4, 7#64)] with vr := [(2, BitVec.ofNat 2048 (2^2047+ 0x123456789)), (15, BitVec.allOnes 2048)]})]}))
def addrs2 : List W64 := [0xF000000000#64, 0xEFFFF00100#64, 0xEFFFFFFFFC#64, 0xF100010000#64, 0x40000#64, 0xF000000001#64, 0xFF00000000#64]
def ws8 := [0x20,0x21,0x22,0x23].map (fun o => wd o 3 1 0 0 1 0) ++ [0x24,0x25,0x26,0x27].map (fun o => wd o 0 1 2 0 0 0)
def sts8 := ws8.flatMap (fun w => addrs2.flatMap (fun a => [atCl w [(1, a), (2, 300#64)], atDev w [(1, a), (2, 0x123456789ABCDEF0#64)]]))
def ws9 := [wd 0xE0 1 2 0 0 0 0, wd 0xE0 1 2 0 0 0 4, wd 0xE0 1 2 0 0 0 8, wd 0xE0 1 2 0 0 0 12, wd 0xE0 1 2 0 0 0 16,wd 0xE0 0 2 0 0 0 16,wd 0xE0 3 2 0 0 0 20, wd 0xE1 0 2 3 0 0 8, wd 0xE1 0 2 3 0 0 12, wd 0xE2 4 0 0 0 0 0, wd 0xE3 0 0 0 0 0 0, wd 0xE4 0 5 0 0 0 0]
def ct9 (w : W64) (e : List W64) : Ctl := {ctlOf w [(3, 0x123456789ABCDEF0#64), (5, 0xF000000000#64)] with epc := 0xA123456789#40, ecause := 7#8, hbase := 0xB123456789#40, events := e}
def sts9 := ws9.flatMap (fun w => [[], [3#64, 4#64]].flatMap (fun e => [{base with devCtl := ct9 w e}, {base with clusters := [(0, { Cluster.init with powered := true, ctl := ct9 w e})], mem := [(0xF000000000, 1)]},
  {base with clusters := [(0, { Cluster.init with powered := true, ctl := ct9 w e})], parts := [(0, {Part.init with mbox := List.replicate 16 (0, [])})]}]))
def l2State_0 : List State := ws3.map (fun w => at0 w []) ++ [ { at0 (wd 0xE3 0 0 0 0 0 0) [] with clusters := [(0, { Cluster.init with powered := true, ctl := {Ctl.init with wfe := some 3} })] }]
def l2State_1 : List State := ws4.flatMap (fun w => [atDev w [], atCl w [], { base with devCtl := {ctlOf w [] with ecause := 1#8}}, { base with clusters := [(0, { Cluster.init with powered := true, ctl := {ctlOf w [] with ecause := 2#8} })] }])
def l2PendLo_2 : List PendLoad := [{ PendLoad.init with reg := 3#5, bytes := 4, sext := true, va := 0x20000#64 }, { PendLoad.init with reg := 15#5, vec := true, bytes := 256, va := 0x20000#64 },{ PendLoad.init with reg := 0#5, bytes := 8, sext := true, va := 0x20008#64 }]
def l2State_3 : List State := (l2PendLo_2).flatMap (fun l => [st6 l, {st6 l with cores := [(0, core0 {thr 0#64 [] with st := .waitMem, wait := .load, pc := 0x20000, load := some l})]} ])
def l2PendLo_4 : List PendLoad := [{ PendLoad.init with reg := 3#5, bytes := 4, sext := true, va := 0xF000000000#64 }, { PendLoad.init with reg := 0#5, bytes := 8, sext := true, va := 0xEFFFF00000#64 }]
def l2State_5 : List State := (l2PendLo_4).flatMap (fun l => [{base with devCtl := {ctlOf 0xFFFFFF#64 [] with load := some l}}, {base with clusters := [(0, { Cluster.init with powered := true, ctl := {ctlOf 0xFFFFFF#64 [] with load := some l} })], mem := [(0xF000000003, 0xF0)] }])
def ws31 := [0x44,0x45,0x46,0x47].flatMap (fun o => [wd o 3 1 2 0 0 0, wd o 3 1 2 4 0 0, wd o 0 1 2 4 0 0])
def at31 : List W64 := [0x20008#64, 0x30000#64, 0xF000000008#64, 0xF100010000#64, 0x40000#64, 0x20001#64]
def sts31 := ws31.flatMap (fun w => at31.flatMap (fun a => let g := [(1, a), (2, 5#64), (4, 0xF00000000000000A#64)]; [at0 w g, atDev w g, atCl w g].map (fun s => {s with mem := Memory.writeN (Memory.writeN [] 0xF000000008 [10,0,0,0,0,0,0,0xF0]) 0xF100010008 [10,0,0,0,0,0,0,0xF0]})))
def ws32 := [0x40,0x41,0x42,0x43].flatMap (fun o => [wd o 0 0 0 0 0 0, wd o 0 0 0 0 1 0])
def sts32 := ws32.flatMap (fun w => let s := at0 w []; [s, {s with dirty := [(0xF000000000, 8, gid 0 0), (0xF000000010, 8, gid 0 1)]}, {s with cores := [(0, {core0 (thr w []) with queue := [{QEntry.init with thr := 0}]})]}, {s with cores := [(0, {core0 (thr w []) with queue := [{QEntry.init with thr := 1}]})]}])
def thb : Thread := {thr 0#64 [] with st := .waitSync, wait := .barrier false}
def thf : Thread := {thr 0#64 [] with st := .free}
def ws33 := wd 0x5C 3 1 0 0 0 0 :: (Claims.laneForms.map (·.op)).flatMap (fun o => [wd o 3 1 2 0 0 0, wd o 3 1 2 4 0 0, wd o 3 1 2 0 1 0, wd o 15 1 0 0 2 0, wd o 15 1 0 0 0 8, wd o 3 1 2 4 0 8,wd o 3 1 0 0 1 4, wd o 3 1 0 0 0 2, wd o 3 1 0 0 4 5,wd o 3 1 2 4 1 0])
def vrs : SMap VReg := [(1, BitVec.ofNat 2048 ((List.range 64).foldl (fun a i => a + (0x3F800000 + i * 0x41230) * 2^(32*i)) 0)), (2, BitVec.ofNat 2048 ((List.range 64).foldl (fun a i => a + (0xBF800000 + i * 0x23412301) % 2^32 * 2^(32*i)) 0)), (4, BitVec.ofNat 2048 ((List.range 64).foldl (fun a i => a + (i % 2) * 2^(32*i)) 0))]
def atV (w : W64) : State := {base with cores := [(0, core0 {thr w [(1, 0x4000000F#64), (2, 0x3F000000#64), (4, 10#64)] with vr := vrs, sticky := 2#8})]}
def ws34 := [wd 0x5D 3 1 0 0 0 5, wd 0x5D 3 2 0 0 1 63, wd 0x64 3 1 0 0 0 0, wd 0x64 3 2 0 0 1 0, wd 0x65 3 1 0 0 0 0, wd 0x65 3 2 0 0 1 0, wd 0x66 3 2 0 0 0 0, wd 0x66 3 2 0 0 1 0, wd 0x74 3 1 0 4 0 5, wd 0x74 3 2 0 4 0 6, wd 0x74 3 2 0 0 0 6, wd 0x64 2 2 0 0 0 0]
def l3State_0 : List State := [[(0, thb), (1, thb), (2, thf)], [(0, thb), (1, thr 0#64 [])], [(0,thb)], [(0, {thb with wait := .barrier true})], [(0, {thb with pc := 0x10080, fcur := none})]].map (fun l => {base with cores := [(0, {Core.init with threads := l, job := some 1})], parts := [(0, {(base.part 0) with jobs := [(1, {Job.init with placed := [(0,0)]})]})]})
def l3State_1 : List State := ws33.map atV
def l3State_2 : List State := ws34.map atV
def ws41 := [qw 0x90 0 0 0 1 2 0 0 1 0, qw 0x90 0 0 0 1 0 0 0 1 3, qw 0x91 0 1 5 1 2 0 3 7 0, qw 0x91 0 0 0 1 2 0 3 3 0, wd 0xA2 0 0 0 0 0 0, qw 0xA3 0 0 0 1 0 0 0 0 0, qw 0xA4 0 0 0 1 0 0 0 0 0, qw 0xA7 0 0 0 1 0 0 0 0 0,
  qw 0xA5 0 0 0 1 2 0 3 0 0, qw 0xA5 0 0 0 1 2 0 3 2 4, qw 0xA6 0 1 3 1 2 3 3 0 0, wd 0xB1 0 1 0 0 0 3, wd 0xB7 0 1 2 0 0 5]
def st41 (w : W64) (own : Option Nat) (n : Nat) : State := {base with cores := [(0, {core0 (thr w [(1, 0x20000#64), (2, 0x200#64), (3, 0x28000#64)]) with slots := [(0, {Slot.init with owner := own})], queue := List.replicate n QEntry.init, serial := 5})]}
def st41' (w : W64) (own : Option Nat) (n : Nat) : State := {base with parts := [(0, {(base.part 0) with ptes := ((base.part 0).ptes.put 6 (mkPte false false false false false false 0 2)).put 7 (mkPte false false false false false false 0 3)})] , cores := [(0, {core0 (thr w [(1, 0x60000#64), (2, 0x200#64), (3, 0x28000#64)]) with slots := [(0, {Slot.init with owner := own})], queue := List.replicate n QEntry.init, serial := 5})]}
def dAttn : List Byte := recOf 128 [(32, 1), (8*16, 0x3F800000), (8*24, 0x100000), (8*32, 128), (8*36, 256), (8*40, 0x130000), (8*48, 0x140000), (8*56, 0x150000), (8*64, 0x160000 + 0x20000 - 0x20000), (8*80, 0x120000)]
def dRun : List Byte := recOf 64 [(32, 2), (64, 0x100000), (128, 0x110000), (192, 4), (224, 4)]
def dNms : List Byte := recOf 64 [(0, 4), (16, 2), (64, 0x3F000000), (128, 0x100000), (192, 0x101000), (256, 0x102000), (320, 0x103000)]
def ws42 := [wd 0xB0 2 1 0 0 0 0, wd 0xB0 2 1 0 0 1 0, wd 0xB0 14 1 0 0 2 0, wd 0xB2 0 1 0 0 0 0, wd 0xBA 0 1 0 0 0 0]
def st42 (w : W64) (d : List Byte) (c : Option Nat) : State := withMem {base with parts := bigParts, clusters := [(0, {Cluster.init with powered := true, reelBase := 0xF000000000#40, reelN := 16#13})], cores := [(0, {core0 {thr w [(1, 0x20000#64)] with chunk := c} with slots := [(0, {Slot.init with owner := some 0}), (1, {Slot.init with owner := some 0})], chunkq := [{Chunk.init with serial := 4, handle := 0x3002#32, len := 2#16}], serial := 5})]} [(0xF100010000, d), (0xF000000080, recOf 64 [(0,1), (16, 3), (256, 3)])]
def ws43 := [wd 0xA0 0 0 0 0 0 0, wd 0xA0 7 0 0 0 0 0, wd 0xA1 0 0 0 0 0 0, wd 0xA1 7 0 0 0 0 0]
def st43 (w : W64) (own : Option Nat) (cl : List (Nat × Nat)) : State := {base with cores := [(0, {Core.init with threads := [(0, thr w []), (1, {thr w [] with st := .waitSync, wait := .slot 7})], slots := [(0, {Slot.init with owner := own}), (7, {Slot.init with owner := own})], claims := cl})], dirty := [(1,2,gid 0 0)]}
def ws44 := [wd 0x80 3 1 2 3 0 0, wd 0x81 3 1 0 0 0 0, wd 0x82 3 4 5 0 0 0x21, wd 0x83 3 1 0 0 0 0, wd 0x8F 3 6 0 0 0 0, wd 0x8F 3 7 0 0 0 0, wd 0x8F 0 8 0 0 0 0, wd 0x80 0 1 2 3 0 0]
def st44 (w : W64) (tags : SMap TagSt) : State := withMem {base with cores := [(0, {core0 {thr w [(1, 0x20000#64), (4, 0x20000#64), (5, 0x10000#64), (6, 16#64), (7, 15#64), (8, 1#64)] with tags := tags} with serial := 9})], dirty := [(1,2,gid 0 0)]} [(0xF100010000, [2])]
def ws45 := [wd 0xB6 3 1 0 0 0 0, wd 0xB4 3 1 0 0 0 0, wd 0xB5 3 1 0 0 0 0, wd 0xB3 3 2 0 0 0 0, wd 0xB6 0 1 0 0 0 0, wd 0xB4 3 4 0 0 0 0, wd 0xB5 3 4 0 0 0 0, wd 0xB5 3 5 0 0 0 0]
def dChunk : List Byte := recOf 64 [(0, 0x3002), (32, 8), (48, 7), (64, 0x111), (46*8, 0x77)]
def st45 (w : W64) (pin rst : Nat) (job : Option Nat) : State := withMem {base with
  parts := [(0, {base.part 0 with reels := [(2, {ReelDyn.init with slots := [1,2], core := 0})], jobs := [(1, {Job.init with kind := 2, placed := [(0,0)], pinned := false})], chunkSerial := 7})],
  clusters := [(0, {Cluster.init with powered := true, reelBase := 0xF000000000#40, reelN := 16#13})],
  cores := [(0, {core0 (thr w [(1, 0x3002#64), (2, 0x20000#64), (4, 0x4002#64), (5, 0x100003002#64)]) with serial := 9, job := job, slots := [(1, {Slot.init with reel := some 2}), (2, {Slot.init with reel := some 2})], chunkq := [{Chunk.init with handle := 0x3002#32, len := 4#16, serial := 5}]})]}
  [(0xF000000080, recOf 64 [(0,1), (3, pin), (5,1), (16, 3), (256, 3), (272, rst), (320, 5)]), (0xF100010000, dChunk)]
def l4State_0 : List State := ws41.flatMap (fun w => [st41 w (some 0) 0, st41 w (some 1) 1, st41 w (some 0) 16, st41 w (some 0) 15, st41' w (some 0) 1, {st41 (w) (some 0) 1 with parts := bigParts, cores := [(0, {core0 (thr w [(1, 0x100000#64), (2, 0x200#64), (3, 0x28000#64)]) with slots := [(0, {Slot.init with owner := some 0})], serial := 5})]}])
def l4State_1 : List State := ws42.flatMap (fun w => [st42 w dAttn none, st42 w dRun (some 4), st42 w dNms none])
def l4State_2 : List State := ws43.flatMap (fun w => [none, some 0, some 1].flatMap (fun o => [[], [(7, 1)], [(0, 2), (7,1), (7,3)]].map (st43 w o)))
def l4State_3 : List State := ws44.flatMap (fun w => [[], [(0, TagSt.init), (1, {TagSt.init with done := some 0x305#16}), (2, TagSt.init)], (upTo 16).map (fun n => (n, {TagSt.init with serial := n}))].map (st44 w))
def l4State_4 : List State := ws45.flatMap (fun w => [0,1].flatMap (fun p => [0,1,2,3,4,5].flatMap (fun r => [none, some 1].map (st45 w p r))))
def ws51 := [wd 0xB8 3 1 2 3 0 3, wd 0xB8 3 1 2 3 2 3, wd 0xB8 3 1 2 3 5 3, wd 0xB9 4 0 5 6 0 0, wd 0xB9 4 4 5 6 1 0, wd 0xBB 12 7 3 0 0 0, wd 0xB8 15 1 0 0 4 255]
def st51 (w : W64) : State := withMem {base with parts := bigParts, cores := [(0, core0 {thr w [(1, 0x20000#64), (2, 0x100#64), (3, 0x3F800000#64), (5, 0x100000#64), (6, 0x101000#64), (7, 0x40000000#64)] with vr := vrs ++ [(12, BitVec.ofNat 2048 0x7FC00001_FF800000_40A00000), (13, BitVec.ofNat 2048 0x7FC00001_FF800000_40A00000)]})]} [(0xF100010000, (upTo 1024).map (fun i => BitVec.ofNat 8 (i * 7 + i / 5))), (0xF100020000, (upTo 1024).map (fun i => BitVec.ofNat 8 (i * 3 + i / 5))), (0xF100021000, (upTo 20).map (fun i => BitVec.ofNat 8 (63 + 5 * i)))]
def ws52 := [wd 0xD0 0 0 0 0 0 0, wd 0xD1 0 0 0 0 0 0, wd 0xD2 0 0 0 0 0 0x12345678, wd 0xD3 3 1 0 0 0 0, wd 0xD3 3 2 0 0 0 0, wd 0xD3 0 1 0 0 0 0, wd 0xD4 3 0 0 0 0 0, wd 0xD4 3 0 0 0 1 0, wd 0xD5 3 0 0 0 0 0, wd 0xD6 0 0 0 0 0 5, wd 0xD7 3 0 0 0 0 1, wd 0xD7 3 0 0 0 0 0, wd 0xD7 3 0 0 0 0 9999]
def st52 (w : W64) (q : List QEntry) : State := {base with time := {Time.init with slate := 0x123456789ABCDEF012345678#96}, dirty := [(1,2,gid 0 0), (1,2, gid 0 1)], cores := [(0, {core0 {thr w [(1, 0x123456789ABCDEF#64), (2, 0xFFFFFFFFFFFFFFFF#64)] with sticky := 7#8, tags := [(3, TagSt.init)]} with queue := q, cnt := [(1, 44#64)]})]}
def ws53 := [wd 0xD0 0 0 0 0 0 0, wd 0x40 0 0 0 0 0 0, wd 0x43 0 0 0 0 0 0, wd 0xD4 3 0 0 0 0 0, wd 0xD4 0 0 0 0 1 0, wd 0xD4 2 0 0 0 1 0]
def thc (n : Nat) (pc : W64) : Thread := {thr 0#64 [] with st := .waitSync, wait := .clap n, pc := pc}
def st54 : List State := [{base with time := {Time.init with slate := (20 * 2^32)}, cores := [(0, {Core.init with threads := [(0, thc 5 0x10000), (1, thc 20 0x20000), (2, thc 21 0), (3, thr 0#64 [])]})]}, 
 {base with cores := [(0, {Core.init with threads := [(0, {thr 0#64 [(1, 5#64)] with ending := true, st := .waitMem, wait := .ending, tags := [(1, TagSt.init)]}), (1, {thr 0#64 [(1, 5#64)] with st := .waitSync, wait := .slot 2})], slots := [(2, {Slot.init with owner := some 0}), (3, {Slot.init with owner := some 1})], claims := [(2, 1), (3, 0)]})]}]
def thw (pc : W64) : Thread := {thr 0#64 [(1,5#64)] with st := .waitMem, wait := .fetch, pc := pc, fcur := none, fwords := [], freq := [blockOf pc, 77#64]}
def th56 (d : Option (BitVec 8 × BitVec 48 × BitVec 48)) (sup : Bool) : Thread := {thr 0#64 [(1,5#64)] with deferred := d, supEnd := sup}
def l5State_0 : List State := ws51.map st51
def l5State_1 : List State := ws52.flatMap (fun w => [[], [QEntry.init], [{QEntry.init with thr := 1}]].map (st52 w))
def l5State_2 : List State := ws53.flatMap (fun w => [atCl w [], atDev w []].map (fun s => {s with time := {Time.init with slate := 0x123456789ABCDEF012345678#96}}))
def l5State_3 : List State := [0x10008#64, 0x20000#64, 0x40000#64, 0x60000#64, 0x10F88#64, 0xFFFF00000000#64].map (fun pc => {withMem base [(0xF100000000, [1,2,3,4,5,6,7,8,9,10,11])] with cores := [(0, core0 (thw pc))]})
def q6 (w : W64) (n : Nat) (va vb vc : W64) : QEntry := {QEntry.init with serial := n, thr := 0, pc := 0x10000#48, w := w, va := va, vb := vb, vc := vc}
def st6a (kind : Nat) (q : List QEntry) : State := withMem {base with
  parts := bigParts,
  clusters := [(0, {Cluster.init with powered := true, reelBase := 0xF000000000#40, reelN := 16#13})],
  cores := [(0, {core0 {thr 0#64 [] with st := .waitMtx, wait := .mwait} with queue := q, slots := [(0, {Slot.init with owner := some 0, kind := BitVec.ofNat 2 kind, fmt := 1#4}), (1, {Slot.init with owner := some 0})], sbuf := [(0, {StatBuf.init with fmt := some 1#4, rows := (upTo 64).map (fun i => (i, (upTo 128).map (fun j => BitVec.ofNat 8 (i+j))))})], fus := [(3, FusEntry.init)], fusLoaded := [3], job := some 1})]} [(0xF100010000, (upTo 3000).map (fun i => BitVec.ofNat 8 (i*5+i/7)))]
def es6 : List QEntry := [q6 (qw 0x90 0 0 0 1 2 0 0 1 0) 3 0x100000#64 128#64 0#64, q6 (qw 0x91 0 0 5 1 2 0 3 1 0) 3 0x20000#64 128#64 0#64, q6 (wd 0xA2 1 0 0 0 0 0) 3 7#64 0#64 0#64, q6 (qw 0xA3 0 0 0 1 0 0 0 0 0) 3 0x100000#64 0#64 0#64,
  q6 (qw 0xA4 0 0 0 1 0 0 0 0 0) 3 0x100000#64 0#64 0#64, q6 (qw 0xA7 0 0 0 1 0 0 0 0 0) 3 0x100000#64 0#64 0#64, q6 (qw 0xA5 0 0 0 1 2 0 3 1 0) 3 0x100000#64 0x200#64 0#64, q6 (qw 0xA6 0 0 0 1 2 0 3 0 0) 3 0x100000#64 0x200#64 0x20000#64, q6 (wd 0xB1 0 1 0 0 0 3) 3 0x20000#64 0#64 0#64, q6 (wd 0xB7 0 1 2 0 0 5) 3 0x20000#64 0x100#64 0#64, {q6 (wd 0xB2 0 0 0 0 0 0) 3 0 0 0 with desc := recOf 64 [(32, 2), (64, 0x100000), (128, 0x110000), (192, 4), (224, 4)], reel := some 2}]
def es6b : List QEntry := es6.map (fun e => {e with begun := true, opnd := (upTo 8400).map (fun i => BitVec.ofNat 8 (i*3+i/7)), tile := (upTo 64).map (fun i => (i, (upTo 128).map (fun j => BitVec.ofNat 8 (i+j))))})
def op0 : DmaOp := {DmaOp.init with serial := 7, tag := 3}
def dWin : List Byte := recOf 64 [(0,1), (64, 7), (80, 7), (128, 4), (144, 8), (48*8, 8), (24*8, 0x100000), (32*8, 0x110000)]
def dWin1 : List Byte := recOf 64 [(0,1), (64, 7), (80, 7), (128, 1), (144, 8), (48*8, 8), (24*8, 0x100000), (32*8, 64), (36*8, 8), (40*8, 0x110000)]
def dGat1 : List Byte := recOf 64 [(0,2), (32, 1), (64, 0x120000), (128, 0x100000), (192, 64), (224, 4), (256, 0x1000), (320, 0x110000), (384, 64), (416, 64)]
def dExp1 : List Byte := recOf 64 [(0,3), (32, 1), (64, 8208), (16*8, 0x100000 ), (24*8, 0x110000)]
def dGat : List Byte := recOf 64 [(0,2), (32, 2), (24*8, 64), (32*8, 0x100000), (48*8, 64), (52*8, 64), (40*8, 0x110000)]
def dExp (s : Nat) : List Byte := recOf 64 [(0,3), (16*8, 0x100000 ), (24*8, 0x110000 + s)]
def dSpl (v n : Nat) : List Byte := recOf 96 [(0, n), (64*8, 0), (65*8, 0x01), (68*8, 1), (72*8, v)]
def dPad : List Byte := recOf 64 [(0,1), (20, 1), (64, 7), (80, 7), (128, 1), (144, 8), (48*8, 8), (24*8, 0x100000), (32*8, 64), (36*8, 8), (40*8, 0x110000)]
def d2 : List Byte := recOf 64 [(32, 2), (64, 3), (16*8, 0x30000), (24*8, 0x20000), (32*8, 16), (40*8, 8)]
def ops6 : List DmaOp := [{op0 with kind := .desc, desc := dPad}, {op0 with kind := .desc, desc := d2}, {op0 with kind := .copy, src := 0x2F000#64, dst := 0x100000#64, len := 0x1000#64}, {op0 with kind := .copy, src := 0x20000#64, dst := 0x30000#64, len := 3#64}, {op0 with kind := .copy, src := 0x4FFFF#64, dst := 0x30000#64, len := 1#64},
  {op0 with kind := .desc, desc := recOf 64 [(0, 4)]}, {op0 with kind := .desc, desc := dWin},{op0 with kind := .desc, desc := dWin1},{op0 with kind := .desc, desc := dGat1},{op0 with kind := .desc, desc := dExp1},{op0 with kind := .copy, src := 0x20000#64, dst := 0x100000#64, len := 0x100#64}, {op0 with kind := .desc, desc := recOf 64 [(0,1)]}, {op0 with kind := .desc, desc := recOf 64 [(0,2)]}, {op0 with kind := .desc, desc := dGat}, {op0 with kind := .desc, desc := dExp 0}, {op0 with kind := .desc, desc := dExp 4},
  {op0 with kind := .move, dst := 0x20000#64, len := 0x10000#64, dest := 1#8}, {op0 with kind := .move, dst := 0x20000#64, len := 0x10000#64, dest := 3#8}, {op0 with kind := .move, dst := 0x60000#64, len := 0x10000#64, dest := 1#8}, {op0 with kind := .move, dst := 0x40000#64, len := 0#64, dest := 1#8},
  {op0 with kind := .splice, desc := dSpl 0x20000 1}, {op0 with kind := .splice, desc := dSpl 0x20000 0}, {op0 with kind := .splice, desc := dSpl 0x60000 1}, {op0 with kind := .move, dst := 0x30000#64, len := 0x20000#64, dest := 2#8}]
def st6d (o : DmaOp) : State := withMem {base with
  parts := bigParts,
  cores := [(0, {core0 (thr 0#64 []) with dmaq := [o, {op0 with serial := 8, tag := 4}]})]} [(0xF100010000, (upTo 40).map (fun i => BitVec.ofNat 8 (i*5+i/7)))]
def op6e (st : Option (BitVec 16)) : DmaOp := {op0 with kind := .copy, started := true, status := st, thr := 0}
def st6e (o : DmaOp) (wt : Wait) : State := {base with cores := [(0, {core0 {thr 0#64 [] with tags := [(3, {TagSt.init with serial := 7})], st := if wt = .none then .ready else .waitMem, wait := wt} with dmaq := [o]})]}
def rq (dst : W64) (write : Bool) : HostReq := {HostReq.init with num := 5, bytes := 3, core := 0, op := 7, dst := dst, dev := true, posted := true, write := write}
def st6f (r : HostReq) (q : List DmaOp) : State := {base with
  usb := {Usb.init with connected := true, speed := 5#3, funcs := [(0, {Func.init with st := .operating, reqs := [r]})]},
  time := {Time.init with slate := BitVec.ofNat 96 (1000000000 * 2^32)}, cores := [(0, {core0 (thr 0#64 []) with dmaq := q})]}
def l6State_0 : List State := es6.flatMap (fun e => [st6a 0 [e], st6a 1 [e, {e with serial := 4}, {q6 0 5 0 0 0 with thr := 1}], st6a 2 [e]])
def l6QEntry_1 : List QEntry := es6 ++ es6.map (fun e => {e with serial := 4}) ++ [{q6 0 5 0 0 0 with thr := 1}]
def l6State_2 : List State := es6b.flatMap (fun e => [st6a 0 [e], st6a 1 [e, {e with serial := 4}, {q6 0 5 0 0 0 with thr := 1}], st6a 2 [e]])
def l6QEntry_3 : List QEntry := es6b ++ es6b.map (fun e => {e with serial := 4}) ++ [{q6 0 5 0 0 0 with thr := 1}]
def l6State_4 : List State := ops6.map st6d
def ent (pin rz ns rst : Nat) : List Byte := recOf 64 [(0,1), (3, pin), (4, rz), (5, ns), (16, 3), (64, 0x40000), (256, 3), (272, rst), (320, 5)]
def ch7 (mark : Nat) : Chunk := {Chunk.init with handle := 0x3002#32, len := 4#16, serial := 5, mark := BitVec.ofNat 16 mark, inp := 0x111#64, out := 0x222#64, arg := 0x333#64, tag := 0x77#16}
def st7 (e : List Byte) (x : Chunk) (rd : ReelDyn) (th : SMap Thread) (lock : Bool) : State := withMem {base with
  parts := [(0, {base.part 0 with reels := [(2, rd)], jobs := [(1, {Job.init with kind := 2, placed := [(0,0)], pinned := true, cores := 1, lock := lock})], chunkSerial := 7, doneOrder := 4})],
  clusters := [(0, {Cluster.init with powered := true, reelBase := 0xF000000000#40, reelN := 16#13})],
  cores := [(0, {Core.init with threads := th, job := some 1, slots := [(1, {Slot.init with reel := some 2, count := 3}), (2, {Slot.init with reel := some 2})], chunkq := [x]})]}
  [(0xF000000080, e)]
def rd7 : ReelDyn := {ReelDyn.init with slots := [1,2], core := 0}
def chunks7 : List Chunk := [ch7 0, ch7 0xFFFF, ch7 3, {ch7 3 with handle := 0x4002#32}, {ch7 3 with held := true}, {ch7 3 with running := true}]
def job7 (k : Nat) : Job := {Job.init with kind := BitVec.ofNat 2 k, placed := [(0,0), (0,1)], pinned := true, cores := 2, threads := 3, argBlk := 0x77#64, startAt := some 20#64, running := some 8}
def st7a (j : Job) (cl : Cluster) (cs : SMap Core) (f : Func) : State := {base with
  parts := [(0, {base.part 0 with jobs := [(1, j)], reels := [(2, {rd7 with core := 9})], lockstep := true})],
  usb := {Usb.init with connected := true, funcs := [(0, f)]},
  time := {Time.init with slate := 20 * 2^32}, cores := cs, clusters := [(0, cl)]}
def cl7 : Cluster := {Cluster.init with powered := true, ckpt := false}
def cmd7 : HCmd := {HCmd.init with serial := 7, opc := 0x31#8, started := true, tArr := 3#64}
def f7 : Func := {Func.init with st := .operating, cmds := [cmd7]}
def jobD : Job := {job7 0 with startAt := none, placed := [(0,0)], cores := 1, late := 5#64}
def jobS : Job := {job7 0 with startAt := none, running := none, live := 0x3#8, saved := [(0, {Slot.init with count := 3, tag := 9#32}), (1, {Slot.init with kind := 1#2})], placed := [(0,0)], cores := 1}
def st7b : State := withMem (st7a jobD {cl7 with spareBusy := some (0, 0, 9, 0), coremap := [(0, 8#4), (1, 1#4), (2, 2#4)]} [] {f7 with cmds := []}) [(0xF100000000, [1,2,3]), (0xF100000000 + 0x3FFFFD, [4,5,6]), (0xF100000000 + 0x3FFFFF + 1, [4,5,6]), (0xF100000000 + 8 * 0x800000, [4,5,6,7])]
def st7c : State := {st7b with parts := [(0, {st7b.part 0 with jobs := []})]}
def l7State_0 : List State := [0,1].flatMap (fun rz => [1,2].flatMap (fun ns => [1,3,4,5].flatMap (fun r => chunks7.flatMap (fun x => [rd7, {rd7 with slots := []}].map (fun d => st7 (ent 0 rz ns r) x d [(0, thr 0#64 [])] false)))))
def l7State_1 : List State := [0,1].flatMap (fun rz => [2,4].flatMap (fun r => chunks7.flatMap (fun x => [rd7, {rd7 with destroyPend := true}].map (fun d => st7 (ent 0 rz 1 r) x d [(0, {thr 0#64 [(1,4#64)] with st := .free, chunk := some 5})] false))))
def hd8 : CmdHdr := {CmdHdr.init with tag := 0x55#32, fence := true}
def f8 : Func := {Func.init with st := .operating, serial := 7}
def st8 (f : Func) : State := {base with
  usb := {Usb.init with connected := true, speed := 5#3, funcs := [(0, f)]},
  parts := [(0, {base.part 0 with jobs := [(1, {Job.init with cores := 9})], hostMap := [(3, 4#64)], allocs := [(2, {Alloc.init with pages := 1, sh := true}), (3, {Alloc.init with pages := 1, home := 1#2})]})],
  clusters := [(0, {Cluster.init with powered := true, ckpt := false})]}
def hds8 : List CmdHdr := [hd8, {hd8 with resv := true}, {hd8 with job := 1#32}, {hd8 with job := 2#32}, {hd8 with arg5 := 1#64}, {hd8 with arg0 := 1#64}, {hd8 with arg1 := 1#64, job := 1#32}, {hd8 with arg2 := 3#64}]
def hds8b : List CmdHdr := hds8 ++ [0,1,2,3,4,8,9,10,11,16,18,19,20,0x20000,0x30000,0x60000,0x30001].flatMap (fun a => [{hd8 with arg0 := BitVec.ofNat 64 a}, {hd8 with arg0 := BitVec.ofNat 64 a, arg1 := 0x10000#64},{hd8 with arg0 := BitVec.ofNat 64 a, arg1 := 0x10000#64, arg2 := 1#64}, {hd8 with arg0 := BitVec.ofNat 64 a, payload := [1,2,3,4,5,6,7,8,9,10,11,12,13,14,15,16]}])
def hds8c : List CmdHdr := [0x20000, 0x2FFFD, 0x30000, 0x40000, 0x50000, 0x60000].flatMap (fun a => [{hd8 with arg0 := BitVec.ofNat 64 a, arg1 := 3, payload := recOf 67 [(0, 0x55), (64, 3), (512, 0x123456)]}, {hd8 with arg0 := BitVec.ofNat 64 a, arg1 := 3}, {hd8 with arg0 := BitVec.ofNat 64 a, arg1 := 0x10}])
def blk (kind cores thr live : Nat) (chg : Nat) : List Byte := recOf 64 [(0, kind), (8, 5), (16, cores), (24, thr), (40, live), (96, chg)]
def ej (j : Job) (seqs : SMap Seq) : Job := {j with cores := 1, pinned := true, seqs := seqs, nextSeq := 4}
def hj (f : Nat) : CmdHdr := {CmdHdr.init with tag := 0x55#32, job := BitVec.ofNat 32 f}
def stj (j : Job) (l : Bool) : State := {base with
  usb := {Usb.init with connected := true, speed := 5#3, funcs := [(0, {Func.init with st := .operating, serial := 7})]},
  parts := [(0, {base.part 0 with jobs := [(1, j)], lockstep := l, nextJob := 2, nextAdmit := 6})],
  cores := (upTo 8).map (fun i => (i, {Core.init with job := some 1})),
  time := {Time.init with slate := 20 * 2^32},
  clusters := [(0, {Cluster.init with powered := true, ckpt := false})]}
def jp : Job := ej {Job.init with placed := [(0,0)], threads := 2} []
def jq : Job := ej {Job.init with kind := 1#2, placed := [(0,0)], running := some 3} [(2, {Seq.init with remaining := 5})]
def jq2 : Job := ej {Job.init with kind := 1#2, mode := true, placed := [(0,0)]} [(2, {Seq.init with remaining := 5})]
def dC (h l m : Nat) : List Byte := recOf 64 [(0, h), (32, l), (48, m), (64, 0x111), (46*8, 0x77)]
def str (rst : Nat) (j : Job) : State := withMem {stj j false with
  parts := [(0, {base.part 0 with reels := [(2, {ReelDyn.init with slots := [1,2], core := 0})], jobs := [(1, j)], chunkSerial := 7})],
  clusters := [(0, {Cluster.init with powered := true, ckpt := false, reelBase := 0xF000000000#40, reelN := 16#13})]} [(0xF000000080, recOf 64 [(0,1), (5,1), (16, 3), (256, 3), (272, rst), (320, 5)])]
def z (n : Nat) : List Byte := List.replicate n 0#8
def st9 (conf : Bool) (x : SecPart) (f : Func) (j : SMap Job) : State := {base with
  dev := {base.dev with own := [(0, { clusters := 1#8, stks := 1#8, conf := conf, v := true })]},
  usb := {Usb.init with connected := true, speed := 5#3, funcs := [(0, f)], share := [(0, 8#7)]},
  sec := {Sec.init with parts := [(0, x)], signTurn := 8, hashTurn := 8},
  parts := [(0, {base.part 0 with jobs := j})],
  time := {Time.init with slate := 20 * 2^32}}
def c9 (n : Nat) : HCmd := {HCmd.init with serial := n, opc := 0x20#8, started := true, tArr := 3#64, hdr := {CmdHdr.init with tag := 9#32}}
def f9 : Func := {Func.init with st := .operating, serial := 7}
def x9 : SecPart := {SecPart.init with state := 1#2, session := some 5, keys := 7}
def hd9 : CmdHdr := {CmdHdr.init with tag := 0x55#32}
def H (a b c d e : Nat) : CmdHdr := {hd9 with arg0 := BitVec.ofNat 64 a, arg1 := BitVec.ofNat 64 b, arg2 := BitVec.ofNat 64 c, arg3 := BitVec.ofNat 64 d, arg4 := BitVec.ofNat 64 e}
def st9b (f : Func) (cs : SMap Core) (p : Part) : State := {base with
  usb := {Usb.init with connected := true, speed := 5#3, funcs := [(0, f)], mgmtSerial := 4, share := [(0, 10#7), (1, 20#7)]},
  gaf := {Gaf.init with state := 0#3},
  hbm := [(0, {Hbm.init with state := 2#2}), (1, {Hbm.init with state := 2#2})],
  sec := {Sec.init with parts := [(0, {SecPart.init with state := 1#2, session := some 4})]},
  cores := cs, parts := [(0, p)], time := {Time.init with slate := 20 * 2^32}, mem := [(0xF100000000, 1)]}
def p9 : Part := {base.part 0 with jobs := [(1, {Job.init with cores := 1})]}
def hs9 : List CmdHdr := [hd9, {hd9 with resv := true}, {hd9 with job := 1}, H 1 0 0 0 0, H 1 0x0102 0 100 10, H 1 0x0102 1 100 10, H 1 0x0202 1 100 10, H 1 0x0202 0 10 64, H 7 0xFEFE 1 500 54, H 1 0x0101 0 1 64, H 0 0x0102 0 1 64, H 0 0x0101 0 0 0, H 0 0x0303 0 0 0,H 0 0x0203 0 0 0, H 3 0 0 0 0, H 0 0 0 0 0, {H 0 0 0 0 0 with arg5 := 1}]
def f9b : Func := {Func.init with st := .operating, serial := 7}
def pl (kind n : Nat) (d : List Byte) : List Byte := recOf 64 [(0, 0x55), (32, kind), (64, n)] ++ d
def hs9c : List CmdHdr := [H 0 0 0 0 0, H 0 30 0 0 0, H 0 64 0 0 0, H 0 44 0 0 0, H 0 45 0 0 0, {H 0x1000000 0 0 0 0 with payload := pl 3 0 []}, {H 0x3FFF000 0x1000 0 0 0 with payload := pl 3 0x1000 ((upTo 0x1000).map (fun i => BitVec.ofNat 8 (i + 1)))}, {H 0x4000000 0x1000 0 0 0 with payload := pl 3 0x1000 ((upTo 0x1000).map (fun i => BitVec.ofNat 8 (i + 1)))}, {H 0 0 0 0 0 with payload := pl 3 0 []},
  H 0x1000000 0x1000 0 0 0, {H 0 0 0 0 0 with payload := pl 2 3 [1,2,3]}, {H 0 0 0 0 0 with payload := pl 1 0 []}, H 0 0x80 0 0 0, H 0 0x10 0 0 0, H 1 0 0 0 0, H 0 1 0 0 0, H 0 0x87 0 0 0]
def st9c (f : Func) (cl : Cluster) : State := {st9b f [] p9 with clusters := [(0, cl)], mem := [(0xF100000000, 1), (0xF100000000 + 8 * 0x800000, 7), (0xF100000000 + 8 * 0x800000 + 0x400000, 7)], links := [(6, {Link.init with state := 1#3}), (0, {Link.init with state := 1#3})]}
def cl9 : Cluster := {Cluster.init with powered := true}
def cc9 (st : Bool) : HCmd := {HCmd.init with serial := 3, opc := 0x42#8, started := st, tArr := 3#64, hdr := {CmdHdr.init with tag := 9#32}}
def st9d (f : Func) (p : Part) (m : List HCmd) (ss : Nat) : State := {base with
  usb := {Usb.init with connected := true, speed := 5#3, funcs := [(0, f)], mgmtSerial := 4, mgmtCmds := m, mgmtOut := [{Completion.init with tag := 5#32}, Completion.init]},
  sec := {Sec.init with parts := [(0, {SecPart.init with state := BitVec.ofNat 2 ss, session := some 4, jobKey := some 3})]},
  parts := [(0, p)], time := {Time.init with slate := 10000020 * 2^32}, mem := [(5, 1), (0xF000000005, 4), (0xF100000003, 1), (0xF100000000 + 8 * 0x800000, 7), (0xF100000000 + 8 * 0x800000 + 0x400000, 7)]}
def stu (c : Bool) (f : Func) : State := {base with usb := {Usb.init with connected := c, u3 := true, funcs := [(0, f)], evq := [(8, [EventRec.init, {EventRec.init with code := 3}])], lost := [(8, 300)], speed := 5#3, mgmtOut := []}, time := {Time.init with slate := 20 * 2^32}}
def stc (i : SMap IndBank) (eth : Bool) : State := {stu true Func.init with ind := i, ethUp := eth, dev := {base.dev with crcArmed := true, crcEn := true, eptab := [(3, 4#16)], eptabIdx := 3#18}}
def bk (w : List (Option W32)) (a : W32) (au : Bool) : IndBank := {IndBank.init with addr := a, auto := au, waiting := w}
def stdg (d : SMap Danger) (c : Nat) (dev : Dev) : State := {base with danger := d, cycle := c, dev := dev}
def dg (v : W32) (ok : Bool) : Danger := {Danger.init with val := v, atCyc := 100, ok := ok}
def msg (code ser : Nat) (f : List (Nat × Nat)) : List Byte := recOf 64 ([(0, code), (16, ser)] ++ f)
def sup (m : List Byte) (pw : Bool) (gs : Nat) : State := {base with
  parts := [(0, {base.part 0 with mbox := [(0, m), (0, z 64)]})],
  clusters := [(0, {Cluster.init with powered := pw})],
  gaf := {Gaf.init with state := BitVec.ofNat 3 gs, wakeThr := [(1, 100#16)]},
  aud := {Aud.init with own := 0xF0F0#16, calib := [(1, 0x1234#32)], ports := [(0, {TdmPort.init with cfg := 0x20#32})]},
  time := {Time.init with slate := 20 * 2^32}}
def msgs : List (List Byte) := [msg 1 7 [(64, 0)], msg 1 7 [(64, 1)], msg 2 7 [(64, 0)], msg 3 7 [(64, 1), (72, 3), (96, 100)], msg 3 7 [(64, 0), (72, 3)], msg 3 8 [(64, 2), (72, 2)], msg 3 8 [(64, 2), (72, 4)], msg 4 9 [(64, 0), (72, 7), (96, 0x801), (128, 0x10000)], msg 4 9 [(64, 1), (72, 0), (96, 0x801), (128, 0x10000)], msg 5 1 [(64, 2), (96, 0x3044), (128, 0x77)], msg 5 1 [(64, 2), (96, 0x3000), (128, 0x77)],msg 6 1 [(64, 2), (96, 0x3004), (192, 0xF000000010)], msg 6 1 [(64, 3)], msg 5 1 [(64, 3)], msg 7 1 [], msg 0 1 []]
def l10State_0 : List State := msgs.flatMap (fun m => [true, false].flatMap (fun b => [0,2].map (fun g => sup m b g))) ++ [{sup (msg 7 1 []) true 0 with mboxTurn := 7}, {sup (msg 6 1 [(64, 3)]) true 0 with mboxTurn := 7}, {base with mboxTurn := 7}, {sup (msg 3 8 [(64, 2), (72, 2)]) true 0 with mboxTurn := 7}] ++ [msg 3 8 [(64, 2), (72, 2)], msg 7 1 []].map (fun m => {sup m true 0 with parts := [(0, {base.part 0 with mbox := []}), (7, {base.part 0 with mbox := [(0, m)]})], mboxTurn := 7}) ++ [{sup (msg 7 1 []) true 0 with parts := [(0, {base.part 0 with mbox := []})], mboxDone := true}, {base with parts := [(0, {base.part 0 with mbox := [(0, msg 3 7 [(64, 0), (72, 3)])]})]},{base with parts := [(0, {base.part 0 with mbox := []}),(1, {base.part 0 with mbox := [(0, msg 3 7 [(64, 0), (72, 3)])]})], mboxDone := true}]
def l10NatLis_1 : List (Nat × List Byte) := msgs.map (fun m => (0, m))
def tr0 : Trans := {Trans.init with dev := true, target := 2}
def stg (st : Nat) (cur : Option Trans) (cl : List Trans) (g : Gaf) : State := {base with
  gaf := {g with state := BitVec.ofNat 3 st, cur := cur, clTrans := cl, hsLimit := 10#10},
  hbm := [(0, {Hbm.init with state := 2#2}), (1, {Hbm.init with state := 2#2})],
  links := (upTo 7).map (fun n => (n, {Link.init with en := n == 3})),
  aon := {Aon.init with lastWake := some 5#48, hold := 10#8, sampleNo := 3000#48},
  time := {Time.init with slate := 10000020 * 2^32}, mem := [(0xF000000005, 4), (0xF100000003, 1), (0xF000000000+0x1FFFFFF,1)]}
def tr1 (w : Bool) (a : SMap (BitVec 2)) : Trans := {Trans.init with dev := w, target := if w then 3 else 1, gate := 1#8, asked := a, startNs := 20#64, mbox := if w then none else some 4#16}
def asks (n : Nat) : SMap (BitVec 2) := (upTo 27).map (fun b => (b, BitVec.ofNat 2 n))
def trc (w : Bool) : Trans := {tr1 w [] with committed := true, plan := [], gate := 1#8}
def trr (w : Bool) (l : List Nat) : Trans := {tr1 w [] with rising := true, plan := l, raised := 2#8}
def stt (lv e : Nat) (b : Nat) (em : Bool) : State := {base with gaf := {Gaf.init with level := [(0, BitVec.ofNat 4 lv), (1, 3#4)], clkCur := [(0, 24#6)], budget := [(0, BitVec.ofNat 10 b)], emerg := em}, cores := [(0, {Core.init with winE := e}), (8, {Core.init with winE := e})], pins := {base.pins with vrAlert := true}}
def l11Trans_0 : List Trans := [3,2].flatMap (fun n => [true,false].map (fun w => tr1 w (asks n))) ++ [tr1 true [(1, 3#2)], tr1 false [(1, 3#2)]]
def l11State_1 : List State := (l11Trans_0).flatMap (fun x => let s := if x.dev then stg 0 (some x) [] Gaf.init else stg 1 none [x] Gaf.init; [s, {s with cores := [(0, {Core.init with dmaq := [{DmaOp.init with started := true, touch := [(0x40000, 65536)]}]})]}, {s with cam := {Cam.init with frames := [Frame.init]}, cores := [(0, {Core.init with job := some 1})], parts := [(0, {base.part 0 with jobs := [(1, {Job.init with pinned := true})]})]}, {s with parts := [(0, {base.part 0 with ptes := []})], aon := Aon.init}])
def l11Trans_2 : List Trans := [true,false].flatMap (fun w => [trc w, trr w [16], trr w [17,17], trr w [16,17], trr w []])
def l11State_3 : List State := (l11Trans_2).flatMap (fun x => [true,false].map (fun l => if x.dev then stg 1 (some x) [] {Gaf.init with listenRails := l} else stg 1 none [x] {Gaf.init with railEn := if l then 0x1FFF#13 else 0#13}))
def l11State_4 : List State := [0,1,14,15,12].flatMap (fun l => [0, 100000000000].flatMap (fun e => [20,22,25,26,100].flatMap (fun b => [true,false].map (stt l e b))))
def lk0 : Link := {Link.init with state := 2#3, slotmap := 0#256, rxSeq := 5#24, txSeq := 9#24}
def fl (q : Nat) (u : List (BitVec 3 × BitVec 256)) : Flit := {Flit.init with seq := BitVec.ofNat 24 q, owner := 0#4, units := u, ack := 7#24}
def pkL : Packet := {Packet.init with type := 1#4, len := 64#9, src := 1#18}
def stl (x : Link) : State := {base with links := [(0, x), (3, x)], dev := {base.dev with geom := true, sizes := 3#18}, time := {Time.init with slate := 20 * 2^32}}
def pkS : Packet := {Packet.init with type := 2#4, dst := 1#18, value := 7#64}
def fl9 : Flit := {fl 8 [] with owner := 9#4}
def entk (k : Packet) : TxEnt := {TxEnt.init with input := 7, inCls := packetClass k, cls := packetClass k, pkt := k, units := packetBits k}
def rp (f : Flit) (n : Nat) : TxFlit := {TxFlit.init with flit := f, count := n}
def pk (ty : Nat) : Packet := {Packet.init with type := BitVec.ofNat 4 ty, src := 1#18, len := 3#9, addr := 0x20000#48, data := if ty = 1 ∨ ty = 3 ∨ ty = 5 then [1,2,3] else [], tid := 4#16}
def pks : List Packet := [0,1,2,3,4,5].flatMap (fun t => [pk t, {pk t with addr := 0x60000#48}, {pk t with addr := 0x30008#48, value := 9#64}, {pk t with part := 1#3}, {pk t with addr := 0x50000#48}, {pk t with tid := 5#16}])
def stp (cl : Cluster) : State := withMem {base with
  links := (upTo 7).map (fun i => (i, lk0)), dev := {base.dev with geom := true, sizes := 3#18}, clusters := [(0, cl)],
  time := {Time.init with slate := 1000020 * 2^32}} [(0xF100010000, [7,8,9])]
def cl12 : Cluster := {Cluster.init with powered := true}
def fd (op lva len cpl : Nat) : List Byte := recOf 64 [(0, op), (32, 1), (64, lva), (128, 0x1234), (192, len), (256, 0x99), (320, cpl)]
def fc (sent : List (Nat × Nat × Nat)) (cpl : Nat) : FabCmd := {FabCmd.init with serial := 2, desc := fd 1 0x20000 3 cpl, sent := sent, dstNode := 1#18, sentAt := [(4, 20)]}
def stf (op lva len : Nat) : State := withMem (stp {cl12 with fqBase := 0xF000001000#40, fqSize := 16#13, fabSerial := 5}) [(0xF000001000, [2]), (0xF000001008, [1]), (0xF000001000 + 128, fd op lva len 0)]
def cmds12 (l : Fin 7) (k : Packet) : List Instr := [.rd l k .none, .wr l k .none, .notify l k .none, .rdata l k .none, .ackr l k, .stream l k .none, .enum l k, .report l k, .geom l k, .image l k, .csrRd l k, .csrWr l k, .launch l k, .faultmap l k, .mgmtFence l k, .syncRequest l k, .syncResponse l k]
def pks12 : List Packet := (List.range 6).map (fun t => {Packet.init with type := BitVec.ofNat 4 t, epoch := 3#16, src := 1#18}) ++ (List.range 9).map (fun t => {Packet.init with type := 6#4, sub := BitVec.ofNat 5 t, epoch := 3#16, src := 1#18}) ++ (List.range 2).map (fun t => {Packet.init with type := 7#4, sub := BitVec.ofNat 5 t, epoch := 3#16, src := 1#18})
def l12Fin7_0 : List (Fin 7) := [0, 6]
def l12Packet_1 : List Packet := pks12 ++ pks12.map (fun k => {k with pair := true, src := 0#18}) ++ pks12.map (fun k => {k with bc := true, dst := 3#18})
def l12Instr_2 : List Instr := (l12Fin7_0).flatMap (fun l => (l12Packet_1).flatMap (cmds12 l))
def mk13 (sub : Nat) : Packet := {Packet.init with type := 6#4, sub := BitVec.ofNat 5 sub, src := 0#18, dst := 1#18, epoch := 3#16}
def lnk13 : SMap Link := (upTo 7).map (fun i => (i, {Link.init with state := 2#3, slotmap := 0#256, cnt := [(0x120, 7)]}))
def fol : State := {base with links := lnk13, dev := {base.dev with master := false, node := 1#18, geom := true, sizes := 3#18, enumerated := true, epoch := 3#16, eptab := [(0, 3#16), (1, 3#16)], own := []}, parts := [], clusters := []}
def jb : Job := {Job.init with kind := 0#2, placed := [(0, 0)]}
def pk13 : List Packet := [{mk13 0 with dst := 4096#18}, {mk13 0 with dst := 8192#18}, {mk13 0 with dst := 0x3F000#18}, {mk13 1 with value := 5#64, src := 1#18}, {mk13 1 with value := 5#64, src := 0#18}, {mk13 2 with value := 3#64}, {mk13 2 with value := 0xFC3#64},
  {mk13 3 with data := List.replicate 8 1 ++ leBytes 4 14 ++ List.replicate 10 9}, {mk13 3 with data := List.replicate 8 1 ++ leBytes 4 14}, {mk13 3 with data := [1]}, {mk13 4 with addr := BitVec.ofNat 48 csrBase, value := 1#64, tid := 4#16},
  {mk13 5 with addr := BitVec.ofNat 48 (csrBase + 0x20), value := 77#64}, {mk13 6 with data := leBytes 4 1, value := 1000000000#64, addr := 0x20000#48}, {mk13 6 with data := leBytes 8 1 ++ leBytes 8 1000000000}, {mk13 7 with value := 1#64}, {mk13 7 with value := 0x80000001#64}, {mk13 7 with value := 0x300001#64}, {mk13 8 with value := 0#64, addr := 9#48}, {mk13 8 with value := 1#64, addr := 9#48}]
def own1 (s : State) : State := {s with dev := {s.dev with own := [(0, { clusters := 1#8, stks := 1#8, conf := false, v := true })]}, clusters := [(0, { Cluster.init with powered := true})], parts := [(0, { base.part 0 with jobs := [(1, jb)]})]}
def cmds12' (l : Fin 7) (k : Packet) : List Instr := [.image l k, .csrRd l k, .csrWr l k, .launch l k, .faultmap l k, .mgmtFence l k]
def tmS (x : Time) : State := {base with time := x}
def tms : List State := (List.range 3).flatMap (fun src => (List.range 5).flatMap (fun st => [true,false].flatMap (fun e => [0, 15, 3].map (fun g => tmS {Time.init with src := BitVec.ofNat 2 src, state := BitVec.ofNat 3 st, everLocked := e, slate := 77, inc := 0xD5555000#32, parent := 1, goodRun := g, badRun := g, kp := 100, ki := 3, incLimit := 1000000, stepThresh := 5000, ptpLo := 0xFFFFFC00#32}))))
def lnkT : SMap Link := (upTo 7).map (fun i => (i, {Link.init with state := 2#3, slotmap := 0#256, peer := BitVec.ofNat 18 (i+1)}))
def syn (sub : Nat) (d : List Nat) : Packet := {Packet.init with type := 7#4, sub := BitVec.ofNat 5 sub, src := 1#18, len := 48#9, data := d.flatMap (leBytes 12)}
def frm (o : Nat) : List Byte := (List.range 90).map (fun i => if i = 12 then 0x88#8 else if i = 13 then 0xF7#8 else if i = 14 then BitVec.ofNat 8 o else BitVec.ofNat 8 i)
def tmT (f : Time → Time) : State := {base with links := lnkT, dev := {base.dev with geom := true, sizes := 3#18}, time := f {Time.init with src := 2#2, state := 1#3, slate := 0x123456789ABCDEF0123456, asym := [(1, 9)], syncT1 := some (2 * 2^24), parent := 0, ethTx := 3, ethRx := 5}}
def l13Packet_0 : List Packet := pk13 ++ pk13.map (fun k => {k with src := 1#18}) ++ pk13.map (fun k => {k with epoch := 0#16, src := 0#18}) ++ pk13.map (fun k => {k with dst := 0#18})
def l13Packet_1 : List Packet := pk13.map (fun k => {k with src := 1#18})
def l13Fin7_2 : List (Fin 7) := [0, 1, 6]
def l13Instr_3 : List Instr := (l13Fin7_2).flatMap (fun l => (l13Packet_1).flatMap (cmds12' l))
def l13State_4 : List State := tms ++ tms.map (fun s => {s with gaf := {s.gaf with state := 2#3}, mem := [(0xF000000005, 4)]})
def cent (vc dt byp tgt ex w h : Nat) : W64 := BitVec.ofNat 64 (1 + vc * 2 + dt * 32 + byp * 2^11 + tgt * 2^12 + ex * 2^16 + (w-1) * 2^32 + (h-1) * 2^48)
def par0 : SMap W32 := [(0x100, 20#32), (0x108, 1#32), (0x10C, 1#32), (0x1C4, 3#32), (0x1C8, 1#32), (0x200, 0x20000#32), (0x208, 2#32), (0x20C, 192#32), (0x210, 64#32)]
def eB : W64 := cent 1 0x2A 1 2 0 4 2
def eP : W64 := cent 2 0x2A 0 3 0 4 2
def camS (g : Cam → Cam) : State := withMem {base with time := {Time.init with slate := 500000 * 2^32}, cam := g {Cam.init with
  own := 0xFFF0#16, ports := [(0, {CamPort.init with cfg := 0x00100001#32, entries := [(3, eB), (5, eP)]})],
  rings := [(2, [(0, 0x20000#32), (8, 2#32), (12, 192#32), (0x10, 64#32)])], ctx := [(3, {Ctx.init with en := true, enReq := true, shadow := par0})]}} []
def frB : Frame := {Frame.init with port := 0, idx := 3, entry := eB, lastNs := 1000#64}
def frP : Frame := {Frame.init with port := 0, idx := 5, entry := eP, par := par0, ring := ctxRing par0, lastNs := 1000#64, bufIdx := some 0#64}
def ln4 : List (BitVec 20) := [1, 2, 3, 4]
def withL (f : Frame) (n : Nat) : Frame := {f with lines := List.replicate n ln4, stamps := List.replicate n 99#64}
def frs : List Frame := [frB, frP, withL frP 1, withL frP 2, {withL frP 2 with done := 1}, {withL frP 1 with done := 1}, {withL frP 2 with done := 1, bufIdx := none}, {withL frP 2 with done := 2, closed := true}, {withL frP 2 with done := 2, closed := true, bufIdx := none}, {withL frP 2 with done := 2, closed := true, bufIdx := some 1#64}, {withL frP 2 with bufIdx := some 1#64}]
def stw (s : State) : List State := s.cam.frames.map (fun f =>
   let x := entTgt f.entry
   let pic : Picture := { w := entW f.entry, h := entH f.entry, par := f.par, depth := [dtBits (entDt f.entry)], raw := [f.lines] }
   let ws := ((upTo (outH f.par)).filter (fun y => pic.lastLine y == f.done)).flatMap pic.rowWrites
   (s.pixelWrites 0 f.ring (f.ring.buf (f.bufIdx.getD 0).toNat + 64) ws).1)
def pst : List State := frs.map (fun f => camS (fun c => {c with frames := [f], heads := [(3, 0#64)], dropped := [(3, 2#16)], ports := [(0, {c.ports.get CamPort.init 0 with eff := [(3, eB), (5, eP)]})]}))
def recS (s : State) : List State := s.cam.frames.flatMap (fun f =>
  let va := f.ring.buf (f.bufIdx.getD 0#64).toNat
  let st := s.flicker 0 f 3
  let w := (st.2.hostWrite 0 va (frameRecordBytes [f] (s.cam.dropped.get 0#16 3) st.1)).1
  [w, (w.hostWrite 0 (f.ring.base.toNat + 8) (leBytes 8 (s.cam.heads.get 0#64 3 + 1#64).toNat)).1])
def aonS (g : Aon → Aon) : State := {base with pins := {base.pins with insoleUp := true}, time := {Time.init with slate := 500000 * 2^32}, aon := g {Aon.init with pdmEn := 2#8, ring := true, sampleNo := BitVec.ofNat 48 (256 * 700 + 3), ringMem := [(512 * 2 + 5, [1,2])], pdm := [(5, [true])], hist := [(7, [1])], feedRing := {Ring.init with base := 0x20000#64, n := 4, pitch := 1664}}}
def tdS (g : TdmPort → TdmPort) (mem : List (Nat × List Byte)) : State := withMem {base with pins := {base.pins with audMclk := true}, time := {Time.init with slate := 500000 * 2^32}, aud := {Aud.init with own := 0xFF00, locked := true, calib := [(1, 0x80012000#32), (17, 0x80054000#32)], ports := [(1, g TdmPort.init), (0, {TdmPort.init with running := true})]}} mem
def tset : SMap W32 := [(0x14, 0x21000#32), (0x1C, 0x22000#32), (0x24, 0x20000#32), (0x2C, 0x20100#32), (0x54, 0x24000#32), (0x5C, 2#32), (0x60, 0x4100#32)]
def run (cfg : W32) (t : TdmPort) : TdmPort := {t with cfg := cfg, running := true, set := tset, frame := 3}
def mems : List (Nat × List Byte) := [(0xF100010000, [0,0,0,0,0,0]), (0xF100010100, [0,0,0,0,1,0]), (0xF100011000, (List.range 600).map (BitVec.ofNat 8)), (0xF100014000, [1]), (0xF100014080, (List.range 100).map (BitVec.ofNat 8))]
def tsl : List State := [tdS (fun t => {t with cfg := 0x22}) [], tdS (run 0x2A) [], tdS (fun t => {run 0x2A t with touched := true}) [], tdS (run 0x31) mems, tdS (run 0x3B) mems, tdS (run 0x33) [], tdS (run 0x23) mems, tdS (run 0x29) mems, tdS (fun t => {run 0x2A t with blk := List.replicate 250 []}) []]
def l14State_0 : List State := pst ++ pst.flatMap stw ++ pst.flatMap recS
def l14State_1 : List State := [camS id, camS (fun c => {c with heads := [(18, 1#64)]}), camS (fun c => {c with heads := [(18, 2#64)]}), camS (fun c => {c with ctx := [(3, {Ctx.init with en := true, pend := true, shadow := par0})]}), camS (fun c => {c with ctx := [(3, {Ctx.init with en := true, pend := true, shadow := []})]})]
  ++ frs.map (fun f => camS (fun c => {c with frames := [f], ports := [(0, {c.ports.get CamPort.init 0 with eff := [(3, eB), (5, eP)]})]}))
def c15 (g : Core → Core) (cl : Cluster → Cluster) : State := {base with
  time := {Time.init with slate := 1000020 * 2^32},
  clusters := [(0, cl {Cluster.init with powered := true})],
  cores := [(3, g {Core.init with threads := [(0, thr 0#64 [(1,5#64)])], serial := 4, cnt := [(0x26, 3#64)], chunkq := [{Chunk.init with running := true, serial := 2}]})]}
def ctl15 : List (Cluster → Cluster) := [id, fun c => {c with ctl := {c.ctl with halted := true}}, fun c => {c with ctl := {c.ctl with fenced := true, events := [5#64], gr := [(1, 3#64)]}}, fun c => {c with ctl := {c.ctl with fenced := true, gr := [(1, 3#64)]}, ctlEpoch := 9}, fun c => {c with aliveNs := 10#64, ctlEpoch := 0xFFFE#16}, fun c => {c with ctlEpoch := 0xFFFF#16, ctl := {c.ctl with fenced := true}}]
def dv15 (g : Dev → Dev) : State := {base with dev := g {base.dev with geom := true, sizes := 3#18, eptab := [(1, 5#16)]}}
def sg : SigRec := {SigRec.init with job := 1, n := 2, core := 3, sig := 9#64}
def trc15 : List Trace := [Trace.init, {Trace.init with cfg := 0x200#32, state := 1#2}, {Trace.init with cfg := 0x201#32, state := 2#2}, {Trace.init with cfg := 0x201#32, state := 3#2, missed := 5#32}, {Trace.init with cfg := 1#32, state := 1#2}, {Trace.init with cfg := 0x200#32, state := 1#2, trig := true, post := 5}]
def bb : State := {base with mem := [(5, 7), (0xF000000005, 4)], links := [(1, {Link.init with state := 2#3})], time := {Time.init with slate := 5 * 2^32}}
def cf (s : State) : State := {s with dev := {s.dev with own := [(0, { clusters := 1#8, stks := 1#8, conf := true, v := true })]}}
def l15State_0 : List State := ctl15.flatMap (fun f => [c15 id f, {c15 id f with time := {Time.init with slate := 100020 * 2^32}, parts := [(0, {base.part 0 with mbox := [(0, [5#8]), (2, [6#8])]})]}])
def l15State_1 : List State := [[sg],[{sg with n := 3}],[{sg with job := 2}],[sg,sg]].map (fun l => {base with links := [(6, {Link.init with state := 2#3, en := true})], time := {Time.init with slate := 20000020 * 2^32}, parts := [(0, {base.part 0 with lockstep := true, sigs := l, jobs := [(1, {Job.init with lock := true})]})]}) ++ [{base with dev := {base.dev with own := [(0, { clusters := 1#8, stks := 1#8, conf := true, v := true })]}, links := [(6, {Link.init with state := 2#3, en := true})], parts := [(0, {base.part 0 with lockstep := true, sigs := [sg], jobs := [(1, {Job.init with lock := true})]})]}]
def l15State_2 : List State := trc15.map (fun x => {base with dbg := {base.dbg with traces := [(0, x), (1, x)]}, mem := [(5,1)]})
def bb6 : State := {base with
  mem := [(5, 7), (0xF000000005, 4)], links := [(1, {Link.init with state := 2#3})], time := {Time.init with slate := 5 * 2^32, locked := true}, aon := {Aon.init with wakePin := true, pdmEn := 3#8}, pins := {base.pins with insoleUp := true, en := 0x1FFF#13, pg := 0x3FFF#14}}
def pinsv : List (Pins → Pins) := [id, fun p => {p with resetN := false, en := 0#13}, fun p => {p with resetN := false, en := 0#13, masterSel := true}, fun p => {p with resetN := false, en := 0#13, masterSel := true, bootSrcPin := true}, fun p => {p with vddAon := false}, fun p => {p with resetN := false, therm := true, mainOff := true}, fun p => {p with resetN := false, latched := true, shutdown := true, mainOff := true, en := 0#13, clocksOn := false}, fun p => {p with enSeq := some 3, en := 7#13}, fun p => {p with enSeq := some 12}, fun p => {p with en := 0#13}, fun p => {p with en := 2#13, pg := 0#14}, fun p => {p with resetN := false, shutdown := true, mainOff := true}]
def st16 : List State := pinsv.map (fun f => {bb6 with pins := f bb6.pins})
def img (n : Nat) : List Byte := leBytes 8 0 ++ leBytes 4 n
def bt (b : Nat) (g : Dev → Dev) (im : List Byte) : State := {bb6 with boot := {Boot.init with image := im}, dev := g {Dev.init with boot := BitVec.ofNat 4 b}, usb := {Usb.init with connected := true, speed := 5#3}}
def l16State_0 : List State := st16 ++ [{bb6 with time := {bb6.time with locked := false}}, {bb6 with dbg := {bb6.dbg with freeze := 5#25}}]

/-! ### Witnesses -/

/-- States and operands that meet the hypotheses of `Obligations.ScalarOnThread`, clause by clause. -/
theorem wit_ScalarOnThread :
    (∀ r ∈ Claims.scalarForms, ∃ x ∈ ([(0x000000000077df00#64, (l1State_0.getD 3 State.reset)), (0x800000010003c310#64, (l1State_0.getD 21 State.reset)), (0x000000000077df01#64, (l1State_0.getD 27 State.reset)), (0x000000000077df02#64, (l1State_0.getD 39 State.reset)), (0x800000010003c312#64, (l1State_0.getD 57 State.reset)), (0x000000000077df03#64, (l1State_0.getD 63 State.reset)), (0x800000010003c313#64, (l1State_0.getD 81 State.reset)), (0x000000000077df04#64, (l1State_0.getD 87 State.reset)), (0x800000010003c314#64, (l1State_0.getD 105 State.reset)), (0x000000000077df05#64, (l1State_0.getD 111 State.reset)), (0x800000010003c315#64, (l1State_0.getD 129 State.reset)), (0x000000000077df06#64, (l1State_0.getD 135 State.reset)), (0x800000010003c316#64, (l1State_0.getD 153 State.reset)), (0x000000000077df07#64, (l1State_0.getD 159 State.reset)), (0x800000010003c317#64, (l1State_0.getD 177 State.reset)), (0x000000000077df08#64, (l1State_0.getD 183 State.reset)), (0x000000000077df09#64, (l1State_0.getD 195 State.reset)), (0x000000000077df0a#64, (l1State_0.getD 207 State.reset)), (0x000000000077df0b#64, (l1State_0.getD 219 State.reset)), (0x000000000077df0c#64, (l1State_0.getD 231 State.reset)), (0x000000000077df0d#64, (l1State_0.getD 243 State.reset)), (0x000000000077df0e#64, (l1State_0.getD 255 State.reset)), (0x000000000077df0f#64, (l1State_0.getD 267 State.reset)), (0x800000010003c31f#64, (l1State_0.getD 285 State.reset)), (0x8000000100000318#64, (l1State_0.getD 0 State.reset)), (0x800000010003c319#64, (l1State_0.getD 309 State.reset))] : List (W64 × State)), let h : Hart := ⟨0, 0, 0⟩; let w := x.1; let s := x.2; opcOf w = r.op ∧ unusedSet w r.mask = false ∧ s.issues h w []) :=
  by dsimp only [State.issues, State.unarmed]; decide +kernel

/-- States and operands that meet the hypotheses of `Obligations.ScalarOnController`, clause by clause. -/
theorem wit_ScalarOnController :
    (∀ r ∈ Claims.scalarForms, ∃ x ∈ ([(0x000000000077df00#64, (l1State_0.getD 4 State.reset)), (0x800000010003c310#64, (l1State_0.getD 22 State.reset)), (0x000000000077df01#64, (l1State_0.getD 28 State.reset)), (0x000000000077df02#64, (l1State_0.getD 40 State.reset)), (0x800000010003c312#64, (l1State_0.getD 58 State.reset)), (0x000000000077df03#64, (l1State_0.getD 64 State.reset)), (0x800000010003c313#64, (l1State_0.getD 82 State.reset)), (0x000000000077df04#64, (l1State_0.getD 88 State.reset)), (0x800000010003c314#64, (l1State_0.getD 106 State.reset)), (0x000000000077df05#64, (l1State_0.getD 112 State.reset)), (0x800000010003c315#64, (l1State_0.getD 130 State.reset)), (0x000000000077df06#64, (l1State_0.getD 136 State.reset)), (0x800000010003c316#64, (l1State_0.getD 154 State.reset)), (0x000000000077df07#64, (l1State_0.getD 160 State.reset)), (0x800000010003c317#64, (l1State_0.getD 178 State.reset)), (0x000000000077df08#64, (l1State_0.getD 184 State.reset)), (0x000000000077df09#64, (l1State_0.getD 196 State.reset)), (0x000000000077df0a#64, (l1State_0.getD 208 State.reset)), (0x000000000077df0b#64, (l1State_0.getD 220 State.reset)), (0x000000000077df0c#64, (l1State_0.getD 232 State.reset)), (0x000000000077df0d#64, (l1State_0.getD 244 State.reset)), (0x000000000077df0e#64, (l1State_0.getD 256 State.reset)), (0x000000000077df0f#64, (l1State_0.getD 268 State.reset)), (0x800000010003c31f#64, (l1State_0.getD 286 State.reset)), (0x8000000100000318#64, (l1State_0.getD 1 State.reset)), (0x800000010003c319#64, (l1State_0.getD 310 State.reset))] : List (W64 × State)), let c : Option (Fin 8) := none; let w := x.1; let s := x.2; opcOf w = r.op ∧ unusedSet w r.mask = false ∧ s.ctlIssues (ctlNum c) w) :=
  by dsimp only [State.ctlIssues, State.ctlUnarmed]; decide +kernel

/-- States and operands that meet the hypotheses of `Obligations.BranchesGo`, clause by clause. -/
theorem wit_BranchesGo :
    (∀ r ∈ Claims.branchForms, ∃ x ∈ ([(0xffffffff00082030#64, (l1State_1.getD 0 State.reset)), (0xffffffff00082031#64, (l1State_1.getD 6 State.reset)), (0xffffffff00082032#64, (l1State_1.getD 12 State.reset)), (0xffffffff00082033#64, (l1State_1.getD 18 State.reset)), (0xffffffff00082034#64, (l1State_1.getD 24 State.reset)), (0xffffffff00082035#64, (l1State_1.getD 30 State.reset))] : List (W64 × State)), let h : Hart := ⟨0, 0, 0⟩; let w := x.1; let s := x.2; opcOf w = r.2.1 ∧ unusedSet w (mO + mA + mB + mI) = false ∧ s.issues h w []) ∧
    (∀ r ∈ Claims.branchForms, ∃ x ∈ ([(0xffffffff00082030#64, (l1State_1.getD 1 State.reset)), (0xffffffff00082031#64, (l1State_1.getD 7 State.reset)), (0xffffffff00082032#64, (l1State_1.getD 13 State.reset)), (0xffffffff00082033#64, (l1State_1.getD 19 State.reset)), (0xffffffff00082034#64, (l1State_1.getD 25 State.reset)), (0xffffffff00082035#64, (l1State_1.getD 31 State.reset))] : List (W64 × State)), let c : Option (Fin 8) := none; let w := x.1; let s := x.2; opcOf w = r.2.1 ∧ unusedSet w (mO + mA + mB + mI) = false ∧ s.ctlIssues (ctlNum c) w) :=
  ⟨by dsimp only [State.issues, State.unarmed]; decide +kernel,
   by dsimp only [State.ctlIssues, State.ctlUnarmed]; decide +kernel⟩

/-- States and operands that meet the hypotheses of `Obligations.JumpsLink`, clause by clause. -/
theorem wit_JumpsLink :
    (∃ (w : W64), ∃ (s : State), ∃ (h : Hart), s.issues h w [] ∧ opcOf w = 0x38 ∧ unusedSet w (mO + mD + mI) = false) ∧
    (∃ (w : W64), ∃ (s : State), ∃ (h : Hart), s.issues h w [] ∧ opcOf w = 0x39 ∧ unusedSet w (mO + mD + mA + mI) = false ∧ ((s.of h).g (fA w) + immS w).toNat % 8 = 0) ∧
    (∃ (w : W64), ∃ (s : State), ∃ (h : Hart), s.issues h w [] ∧ opcOf w = 0x39 ∧ unusedSet w (mO + mD + mA + mI) = false ∧ ((s.of h).g (fA w) + immS w).toNat % 8 ≠ 0) :=
  ⟨⟨0xffffffff00000138#64, (l1State_1.getD 36 State.reset), ⟨0, 0, 0⟩, by dsimp only [State.issues, State.unarmed]; decide +kernel⟩,
   ⟨0x0000000800002139#64, (l1State_1.getD 42 State.reset), ⟨0, 0, 0⟩, by dsimp only [State.issues, State.unarmed]; decide +kernel⟩,
   ⟨0x0000000400002239#64, (l1State_1.getD 45 State.reset), ⟨0, 0, 0⟩, by dsimp only [State.issues, State.unarmed]; decide +kernel⟩⟩

/-- States and operands that meet the hypotheses of `Obligations.ControllerJumps`, clause by clause. -/
theorem wit_ControllerJumps :
    (∃ (w : W64), ∃ (s : State), ∃ (c : Option (Fin 8)), s.ctlIssues (ctlNum c) w ∧ opcOf w = 0x38 ∧ unusedSet w (mO + mD + mI) = false) ∧
    (∃ (w : W64), ∃ (s : State), ∃ (c : Option (Fin 8)), s.ctlIssues (ctlNum c) w ∧ opcOf w = 0x39 ∧ unusedSet w (mO + mD + mA + mI) = false ∧ ((s.ctl (ctlNum c)).g (fA w) + immS w).toNat % 8 = 0) :=
  ⟨⟨0xffffffff00000138#64, (l1State_1.getD 37 State.reset), none, by dsimp only [State.ctlIssues, State.ctlUnarmed]; decide +kernel⟩,
   ⟨0x0000000800002139#64, (l1State_1.getD 43 State.reset), none, by dsimp only [State.ctlIssues, State.ctlUnarmed]; decide +kernel⟩⟩

/-- States and operands that meet the hypotheses of `Obligations.IllegalAndPrivHalt`, clause by clause. -/
theorem wit_IllegalAndPrivHalt :
    (∀ r ∈ Claims.privForms, ∃ x ∈ ([(0x00000000000000e0#64, (l2State_0.getD 0 State.reset)), (0x00000000000000e1#64, (l2State_0.getD 5 State.reset)), (0x00000000000000e2#64, (l2State_0.getD 10 State.reset)), (0x00000000000000e3#64, (l2State_0.getD 15 State.reset)), (0x00000000000000e4#64, (l2State_0.getD 20 State.reset))] : List (W64 × State)), let h : Hart := ⟨0, 0, 0⟩; let w := x.1; let s := x.2; s.issues h w [] ∧ opcOf w = r.2.1 ∧ unusedSet w r.2.2 = false) ∧
    (∀ r ∈ Claims.privForms, ∃ x ∈ ([(0x00000000800000e0#64, (l2State_0.getD 1 State.reset)), (0x00000000800000e1#64, (l2State_0.getD 6 State.reset)), (0x00000000800000e2#64, (l2State_0.getD 11 State.reset)), (0x00000000800000e3#64, (l2State_0.getD 16 State.reset)), (0x00000000800000e4#64, (l2State_0.getD 21 State.reset))] : List (W64 × State)), let h : Hart := ⟨0, 0, 0⟩; let w := x.1; let s := x.2; s.issues h w [] ∧ opcOf w = r.2.1 ∧ unusedSet w r.2.2 = true) ∧
    (∀ r ∈ Claims.scalarForms, ∃ x ∈ ([(0xffffffffffffff00#64, (l2State_0.getD 25 State.reset)), (0xffffffffffffff10#64, (l2State_0.getD 26 State.reset)), (0xffffffffffffff01#64, (l2State_0.getD 27 State.reset)), (0xffffffffffffff02#64, (l2State_0.getD 28 State.reset)), (0xffffffffffffff12#64, (l2State_0.getD 29 State.reset)), (0xffffffffffffff03#64, (l2State_0.getD 30 State.reset)), (0xffffffffffffff13#64, (l2State_0.getD 31 State.reset)), (0xffffffffffffff04#64, (l2State_0.getD 32 State.reset)), (0xffffffffffffff14#64, (l2State_0.getD 33 State.reset)), (0xffffffffffffff05#64, (l2State_0.getD 34 State.reset)), (0xffffffffffffff15#64, (l2State_0.getD 35 State.reset)), (0xffffffffffffff06#64, (l2State_0.getD 36 State.reset)), (0xffffffffffffff16#64, (l2State_0.getD 37 State.reset)), (0xffffffffffffff07#64, (l2State_0.getD 38 State.reset)), (0xffffffffffffff17#64, (l2State_0.getD 39 State.reset)), (0xffffffffffffff08#64, (l2State_0.getD 40 State.reset)), (0xffffffffffffff09#64, (l2State_0.getD 41 State.reset)), (0xffffffffffffff0a#64, (l2State_0.getD 42 State.reset)), (0xffffffffffffff0b#64, (l2State_0.getD 43 State.reset)), (0xffffffffffffff0c#64, (l2State_0.getD 44 State.reset)), (0xffffffffffffff0d#64, (l2State_0.getD 45 State.reset)), (0xffffffffffffff0e#64, (l2State_0.getD 46 State.reset)), (0xffffffffffffff0f#64, (l2State_0.getD 47 State.reset)), (0xffffffffffffff1f#64, (l2State_0.getD 48 State.reset)), (0xffffffffffffff18#64, (l2State_0.getD 49 State.reset)), (0xffffffffffffff19#64, (l2State_0.getD 50 State.reset))] : List (W64 × State)), let h : Hart := ⟨0, 0, 0⟩; let w := x.1; let s := x.2; s.issues h w [] ∧ opcOf w = r.op ∧ unusedSet w r.mask = true) ∧
    (∀ r ∈ Claims.branchForms, ∃ x ∈ ([(0xffffffffffffff30#64, (l2State_0.getD 51 State.reset)), (0xffffffffffffff31#64, (l2State_0.getD 52 State.reset)), (0xffffffffffffff32#64, (l2State_0.getD 53 State.reset)), (0xffffffffffffff33#64, (l2State_0.getD 54 State.reset)), (0xffffffffffffff34#64, (l2State_0.getD 55 State.reset)), (0xffffffffffffff35#64, (l2State_0.getD 56 State.reset))] : List (W64 × State)), let h : Hart := ⟨0, 0, 0⟩; let w := x.1; let s := x.2; s.issues h w [] ∧ opcOf w = r.2.1 ∧ unusedSet w (mO + mA + mB + mI) = true) ∧
    (∀ r ∈ Claims.scalarForms, let h : Hart := ⟨0, 0, 0⟩; let w : W64 := 0x0000000000000011#64; let s : State := (l2State_0.getD 61 State.reset); s.issues h w [] ∧ listedOpc (opcOf w) = false) :=
  ⟨by dsimp only [State.issues, State.unarmed]; decide +kernel,
   by dsimp only [State.issues, State.unarmed]; decide +kernel,
   by dsimp only [State.issues, State.unarmed]; decide +kernel,
   by dsimp only [State.issues, State.unarmed]; decide +kernel,
   by dsimp only [State.issues, State.unarmed]; decide +kernel⟩

/-- States and operands that meet the hypotheses of `Obligations.ControllerFaults`, clause by clause. -/
theorem wit_ControllerFaults :
    (∀ r ∈ ([(.bar, 0x41), (.mwait, 0x42), (.vadd, 0x50), (.vld, 0x60), (.mmul, 0x91), (.dmaWait, 0x8F), (.endThread, 0xD1), (.rdcnt, 0xD7)] : List ((Agent → W64 → Instr) × Nat)), ∃ x ∈ ([(0x0000000000000041#64, (l2State_1.getD 0 State.reset)), (0x0000000000000042#64, (l2State_1.getD 4 State.reset)), (0x0000000000000050#64, (l2State_1.getD 8 State.reset)), (0x0000000000000060#64, (l2State_1.getD 12 State.reset)), (0x0000000000000091#64, (l2State_1.getD 16 State.reset)), (0x000000000000008f#64, (l2State_1.getD 20 State.reset)), (0x00000000000000d1#64, (l2State_1.getD 24 State.reset)), (0x00000000000000d7#64, (l2State_1.getD 28 State.reset))] : List (W64 × State)), let c : Option (Fin 8) := none; let w := x.1; let s := x.2; opcOf w = r.2 ∧ s.ctlIssues (ctlNum c) w) :=
  by dsimp only [State.ctlIssues, State.ctlUnarmed]; decide +kernel

/-- States and operands that meet the hypotheses of `Obligations.LoadsWait`, clause by clause. -/
theorem wit_LoadsWait :
    (∀ r ∈ Claims.loadForms, ∃ x ∈ ([(0x0000000010002320#64, (sts5.getD 0 State.reset)), (0x0000000010002321#64, (sts5.getD 9 State.reset)), (0x0000000010002322#64, (sts5.getD 18 State.reset)), (0x0000000010002323#64, (sts5.getD 27 State.reset)), (0x0000000000002360#64, (sts5.getD 36 State.reset)), (0x0000000001002f62#64, (sts5.getD 54 State.reset))] : List (W64 × State)), let h : Hart := ⟨0, 0, 0⟩; let w := x.1; let s := x.2; opcOf w = r.op ∧ unusedSet w r.mask = false ∧ (r.vec = true → fD w < 16) ∧ s.issues h w (Claims.vecOf r.vec (fD w)) ∧ s.accessFault h.key (r.addr w (s.of h)).toNat (r.bytes w (s.of h)) r.align false = none ∧ s.mvRange h.key (r.addr w (s.of h)).toNat (r.bytes w (s.of h)) = false ∧ s.fencedCore h.key = false) ∧
    (∀ r ∈ Claims.loadForms, ∃ x ∈ ([(0x0000000010002320#64, (sts5.getD 3 State.reset)), (0x0000000010002321#64, (sts5.getD 12 State.reset)), (0x0000000010002322#64, (sts5.getD 19 State.reset)), (0x0000000010002323#64, (sts5.getD 28 State.reset)), (0x0000000000002360#64, (sts5.getD 39 State.reset)), (0x0000000001002f62#64, (sts5.getD 57 State.reset))] : List (W64 × State)), let h : Hart := ⟨0, 0, 0⟩; let w := x.1; let s := x.2; opcOf w = r.op ∧ unusedSet w r.mask = false ∧ (r.vec = true → fD w < 16) ∧ s.issues h w (Claims.vecOf r.vec (fD w)) ∧ (s.accessFault h.key (r.addr w (s.of h)).toNat (r.bytes w (s.of h)) r.align false).isSome = true) :=
  ⟨by dsimp only [State.issues, State.unarmed]; decide +kernel,
   by dsimp only [State.issues, State.unarmed]; decide +kernel⟩

/-- States and operands that meet the hypotheses of `Obligations.LoadReturns`, clause by clause. -/
theorem wit_LoadReturns :
    (∃ (h : Hart), ∃ (s : State), ∃ (l : PendLoad), ∃ off, ∃ a, ∃ j, ∃ o, s.live = true ∧ s.fencedCore h.key = false ∧ (s.of h).load = some l ∧ s.vbad (s.partOf h.key) l.va.toNat l.bytes = false ∧ s.ordered h.key h.thr.val l.va.toNat l.bytes ∧ (l.vec = true → l.reg.toNat < 16) ∧ off < l.bytes ∧ l.va.toNat + l.bytes ≤ 2 ^ 48 ∧ s.va? (s.partOf h.key) (l.va.toNat + off) = some a ∧ s.badAt a = false ∧ regionOf a = .cluster j o) ∧
    (∃ (h : Hart), ∃ (s : State), ∃ (l : PendLoad), ∃ off, ∃ a, ∃ j, ∃ o, s.live = true ∧ s.fencedCore h.key = false ∧ (s.of h).load = some l ∧ s.vbad (s.partOf h.key) l.va.toNat l.bytes = false ∧ s.ordered h.key h.thr.val l.va.toNat l.bytes ∧ (l.vec = true → l.reg.toNat < 16) ∧ off < l.bytes ∧ l.va.toNat + l.bytes ≤ 2 ^ 48 ∧ s.va? (s.partOf h.key) (l.va.toNat + off) = some a ∧ s.badAt a = false ∧ (regionOf a = .cluster j o ∨ regionOf a = .core j o)) ∧
    (∃ (h : Hart), ∃ (s : State), ∃ (l : PendLoad), s.live = true ∧ s.fencedCore h.key = false ∧ (s.of h).load = some l ∧ s.vbad (s.partOf h.key) l.va.toNat l.bytes = false ∧ s.ordered h.key h.thr.val l.va.toNat l.bytes ∧ (l.vec = true → l.reg.toNat < 16)) :=
  ⟨⟨⟨0, 0, 0⟩, (st6 lc), lc, 0, 0xF000010000, 0, 0x10000, by dsimp only [State.ordered]; decide +kernel⟩,
   ⟨⟨0, 0, 0⟩, (l2State_3.getD 0 State.reset), { PendLoad.init with reg := 3#5, bytes := 4, sext := true, va := 0x20000#64 }, 0, 1035087183872, 0, 65536, by dsimp only [State.ordered]; decide +kernel⟩,
   ⟨⟨0, 0, 0⟩, (l2State_3.getD 0 State.reset), { PendLoad.init with reg := 3#5, bytes := 4, sext := true, va := 0x20000#64 }, by dsimp only [State.ordered]; decide +kernel⟩⟩

/-- States and operands that meet the hypotheses of `Obligations.StoresWrite`, clause by clause. -/
theorem wit_StoresWrite :
    (∀ r ∈ Claims.storeForms, ∃ x ∈ ([(0x0000000000082024#64, (sts7.getD 0 State.reset)), (0x0000000000082025#64, (sts7.getD 9 State.reset)), (0x0000000000082026#64, (sts7.getD 18 State.reset)), (0x0000000000082027#64, (sts7.getD 27 State.reset)), (0x0000000000082061#64, (sts7.getD 36 State.reset)), (0x00000000013c2063#64, (sts7.getD 54 State.reset))] : List (W64 × State)), let h : Hart := ⟨0, 0, 0⟩; let w := x.1; let s := x.2; opcOf w = r.op ∧ unusedSet w r.mask = false ∧ (r.vec = true → fB w < 16) ∧ s.issues h w (Claims.vecOf r.vec (fB w)) ∧ (let va := (r.addr w (s.of h)).toNat; let l := r.data w (s.of h); s.accessFault h.key va l.length r.align true = none ∧ s.mvRange h.key va l.length = false ∧ s.fencedCore h.key = false ∧ s.vbadPart (s.partOf h.key) va l.length = false ∧ s.vraced h.key h.thr.val va l.length = false)) ∧
    (∀ r ∈ Claims.storeForms, ∃ x ∈ ([(0x0000000000082024#64, (sts7.getD 3 State.reset)), (0x0000000000082025#64, (sts7.getD 12 State.reset)), (0x0000000000082026#64, (sts7.getD 19 State.reset)), (0x0000000000082027#64, (sts7.getD 28 State.reset)), (0x0000000000082061#64, (sts7.getD 39 State.reset)), (0x00000000013c2063#64, (sts7.getD 57 State.reset))] : List (W64 × State)), let h : Hart := ⟨0, 0, 0⟩; let w := x.1; let s := x.2; opcOf w = r.op ∧ unusedSet w r.mask = false ∧ (r.vec = true → fB w < 16) ∧ s.issues h w (Claims.vecOf r.vec (fB w)) ∧ (let va := (r.addr w (s.of h)).toNat; let l := r.data w (s.of h); (s.accessFault h.key va l.length r.align true).isSome = true)) ∧
    (∃ r ∈ Claims.storeForms, ∃ (h : Hart), ∃ (w : W64), ∃ (s : State), ∃ e, opcOf w = r.op ∧ unusedSet w r.mask = false ∧ (r.vec = true → fB w < 16) ∧ s.issues h w (Claims.vecOf r.vec (fB w)) ∧ (let va := (r.addr w (s.of h)).toNat; let l := r.data w (s.of h); s.accessFault h.key va l.length r.align true = none ∧ s.mvRange h.key va l.length = false ∧ (s.meetV h.key (s.edges (s.partOf h.key) va l.length) e).vbadPart (s.partOf h.key) va l.length = true)) ∧
    (∃ r ∈ Claims.storeForms, ∃ (h : Hart), ∃ (w : W64), ∃ (s : State), opcOf w = r.op ∧ unusedSet w r.mask = false ∧ (r.vec = true → fB w < 16) ∧ s.issues h w (Claims.vecOf r.vec (fB w)) ∧ (let va := (r.addr w (s.of h)).toNat; let l := r.data w (s.of h); s.edges (s.partOf h.key) va l.length = [])) :=
  ⟨by dsimp only [State.issues, State.unarmed]; decide +kernel,
   by dsimp only [State.issues, State.unarmed]; decide +kernel,
   ⟨_, List.mem_of_getElem? (i := 0) rfl, ⟨0, 0, 0⟩, 0x0000000000082024#64, (sts7.getD 0 State.reset), (Sys2Proof.MemErr.failed 0), by dsimp only [State.issues, State.unarmed]; decide +kernel⟩,
   ⟨_, List.mem_of_getElem? (i := 5) rfl, ⟨0, 0, 0⟩, 0x0000000001bc2063#64, (sts7.getD 63 State.reset), by dsimp only [State.issues, State.unarmed]; decide +kernel⟩⟩

/-- States and operands that meet the hypotheses of `Obligations.ControllerLoadsStores`, clause by clause. -/
theorem wit_ControllerLoadsStores :
    (∀ r ∈ Claims.ctlLoads, ∃ x ∈ ([(0x0000000010002320#64, (sts8.getD 1 State.reset)), (0x0000000010002321#64, (sts8.getD 15 State.reset)), (0x0000000010002322#64, (sts8.getD 29 State.reset)), (0x0000000010002323#64, (sts8.getD 43 State.reset))] : List (W64 × State)), let c : Option (Fin 8) := none; let w := x.1; let s := x.2; s.ctlIssues (ctlNum c) w ∧ (let x := s.ctl (ctlNum c); let a := (x.g (fA w) + immS w).toNat; opcOf w = r.2.1 ∧ unusedSet w (mO + mD + mA + mX0 + mI) = false ∧ s.ctlFaultAt (ctlNum c) a r.2.2 = none ∧ Claims.inCsr a = false)) ∧
    (∃ (c : Option (Fin 8)), ∃ (w : W64), ∃ (s : State), ∃ r ∈ Claims.ctlStores, s.ctlIssues (ctlNum c) w ∧ (let x := s.ctl (ctlNum c); let a := (x.g (fA w) + immS w).toNat; opcOf w = r.2.1 ∧ unusedSet w (mO + mB + mA + mI) = false ∧ s.ctlFaultAt (ctlNum c) a r.2.2 = none ∧ Claims.inCsr a = false ∧ s.ctlWaits a r.2.2 = false ∧ s.ctlBadPart a r.2.2 = false ∧ Claims.noEntry s a (leBytes r.2.2 (x.g (fB w)).toNat))) :=
  ⟨by dsimp only [State.ctlIssues, State.ctlUnarmed]; decide +kernel,
   ⟨none, 0x0000000000082024#64, (sts8.getD 57 State.reset), _, List.mem_of_getElem? (i := 0) rfl, by (try dsimp only [State.ctlIssues, State.ctlUnarmed]); (repeat' with_reducible apply And.intro) <;> first | exact noEntry_of 0 0 0 (by decide +kernel) (by decide +kernel) (by decide +kernel) | decide +kernel⟩⟩

/-- States and operands that meet the hypotheses of `Obligations.ControllerLoadReturns`, clause by clause. -/
theorem wit_ControllerLoadReturns :
    (∃ (c : Option (Fin 8)), ∃ (s : State), ∃ (l : PendLoad), s.live = true ∧ (s.ctl (ctlNum c)).load = some l ∧ s.ctlBad l.va.toNat l.bytes = false ∧ s.bankBusy l.va.toNat l.bytes = false) :=
  ⟨none, (l2State_5.getD 0 State.reset), { PendLoad.init with reg := 3#5, bytes := 4, sext := true, va := 0xF000000000#64 }, by decide +kernel⟩

/-- States and operands that meet the hypotheses of `Obligations.ControllerOnly`, clause by clause. -/
theorem wit_ControllerOnly :
    (∃ (c : Option (Fin 8)), ∃ (w : W64), ∃ (s : State), s.ctlIssues (ctlNum c) w ∧ (let x := s.ctl (ctlNum c); let a := (x.g (fA w) + immS w).toNat; opcOf w = 0xE0 ∧ unusedSet w (mO + mD + mA + mI) = false ∧ a % 4 = 0 ∧ a < 0x100)) ∧
    (∃ (c : Option (Fin 8)), ∃ (w : W64), ∃ (s : State), s.ctlIssues (ctlNum c) w ∧ (let x := s.ctl (ctlNum c); let a := (x.g (fA w) + immS w).toNat; opcOf w = 0xE1 ∧ unusedSet w (mO + mB + mA + mI) = false ∧ a = 0x08)) ∧
    (∃ (c : Option (Fin 8)), ∃ (w : W64), ∃ (s : State), s.ctlIssues (ctlNum c) w ∧ (let x := s.ctl (ctlNum c); let a := (x.g (fA w) + immS w).toNat; opcOf w = 0xE1 ∧ unusedSet w (mO + mB + mA + mI) = false ∧ a = 0x0C)) ∧
    (∃ (c : Option (Fin 8)), ∃ (w : W64), ∃ (s : State), ∃ e, ∃ rest, s.ctlIssues (ctlNum c) w ∧ (let x := s.ctl (ctlNum c); opcOf w = 0xE2 ∧ unusedSet w (mO + mD) = false ∧ x.events = e :: rest)) ∧
    (∃ (c : Option (Fin 8)), ∃ (w : W64), ∃ (s : State), s.ctlIssues (ctlNum c) w ∧ (let x := s.ctl (ctlNum c); opcOf w = 0xE2 ∧ unusedSet w (mO + mD) = false ∧ x.events = [])) ∧
    (∃ (c : Option (Fin 8)), ∃ (w : W64), ∃ (s : State), s.ctlIssues (ctlNum c) w ∧ opcOf w = 0xE3 ∧ unusedSet w mO = false) ∧
    (∃ (c : Option (Fin 8)), ∃ (w : W64), ∃ (s : State), ∃ (n : Fin 8), ∃ (p : Nat), s.ctlIssues (ctlNum c) w ∧ (let x := s.ctl (ctlNum c); opcOf w = 0xE4 ∧ unusedSet w (mO + mA) = false ∧ c = some n ∧ s.ownerCl n.val = some p ∧ (∀ i, i < 64 → s.ctlFaultAt (ctlNum c) ((x.g (fA w)).toNat + i) 1 = none) ∧ s.ctlWaits (x.g (fA w)).toNat 64 = false ∧ s.ctlBad (x.g (fA w)).toNat 64 = false)) :=
  ⟨⟨none, 0x00000000000041e0#64, (sts9.getD 0 State.reset), by dsimp only [State.ctlIssues, State.ctlUnarmed]; decide +kernel⟩,
   ⟨none, 0x00000008000c40e1#64, (sts9.getD 42 State.reset), by dsimp only [State.ctlIssues, State.ctlUnarmed]; decide +kernel⟩,
   ⟨none, 0x0000000c000c40e1#64, (sts9.getD 48 State.reset), by dsimp only [State.ctlIssues, State.ctlUnarmed]; decide +kernel⟩,
   ⟨none, 0x00000000000004e2#64, (sts9.getD 57 State.reset), 0x0000000000000003#64, [0x0000000000000004#64], by dsimp only [State.ctlIssues, State.ctlUnarmed]; decide +kernel⟩,
   ⟨none, 0x00000000000004e2#64, (sts9.getD 54 State.reset), by dsimp only [State.ctlIssues, State.ctlUnarmed]; decide +kernel⟩,
   ⟨none, 0x00000000000000e3#64, (sts9.getD 60 State.reset), by dsimp only [State.ctlIssues, State.ctlUnarmed]; decide +kernel⟩,
   ⟨(some 0), 0x000000000000a0e4#64, (sts9.getD 67 State.reset), 0, 0, by dsimp only [State.ctlIssues, State.ctlUnarmed]; decide +kernel⟩⟩

/-- States and operands that meet the hypotheses of `Obligations.AtomicsExchange`, clause by clause. -/
theorem wit_AtomicsExchange :
    (∀ r ∈ Claims.atomicForms, ∃ x ∈ ([(0x0000000000082344#64, (sts31.getD 0 State.reset)), (0x0000000000082345#64, (sts31.getD 54 State.reset)), (0x0000000000082346#64, (sts31.getD 108 State.reset)), (0x0000000000082347#64, (sts31.getD 162 State.reset))] : List (W64 × State)), let h : Hart := ⟨0, 0, 0⟩; let a : Nat := 1035087183880; let w := x.1; let s := x.2; opcOf w = r.2.1 ∧ unusedSet w r.2.2.1 = false ∧ s.issues h w [] ∧ s.accessFault h.key ((s.of h).g (fA w)).toNat 8 8 true = none ∧ s.mvRange h.key ((s.of h).g (fA w)).toNat 8 = false ∧ s.fencedCore h.key = false ∧ s.vbad (s.partOf h.key) ((s.of h).g (fA w)).toNat 8 = false ∧ s.ordered h.key h.thr.val ((s.of h).g (fA w)).toNat 8 ∧ s.va? (s.partOf h.key) ((s.of h).g (fA w)).toNat = some a) ∧
    (∀ r ∈ Claims.atomicForms, ∃ x ∈ ([(0x0000000000082344#64, (sts31.getD 7 State.reset)), (0x0000000000082345#64, (sts31.getD 61 State.reset)), (0x0000000000082346#64, (sts31.getD 115 State.reset)), (0x0000000000082347#64, (sts31.getD 169 State.reset))] : List (W64 × State)), let c : Option (Fin 8) := none; let k : Nat := 0; let o : Nat := 8; let w := x.1; let s := x.2; opcOf w = r.2.1 ∧ unusedSet w r.2.2.1 = false ∧ s.ctlIssues (ctlNum c) w ∧ (let x := s.ctl (ctlNum c); let a := (x.g (fA w)).toNat; (regionOf a = .core k o ∨ regionOf a = .cluster k o) ∧ s.ctlFaultAt (ctlNum c) a 8 = none ∧ s.ctlBad a 8 = false)) :=
  ⟨by dsimp only [State.issues, State.unarmed, State.ordered]; decide +kernel,
   by dsimp only [State.ctlIssues, State.ctlUnarmed]; decide +kernel⟩

/-- States and operands that meet the hypotheses of `Obligations.SyncOrders`, clause by clause. -/
theorem wit_SyncOrders :
    (∃ (h : Hart), ∃ (w : W64), ∃ (s : State), s.issues h w [] ∧ opcOf w = 0x40 ∧ unusedSet w mO = false) ∧
    (∃ (h : Hart), ∃ (w : W64), ∃ (s : State), s.issues h w [] ∧ opcOf w = 0x41 ∧ unusedSet w (mO + mX0) = false) ∧
    (∃ (h : Hart), ∃ (w : W64), ∃ (s : State), s.issues h w [] ∧ opcOf w = 0x42 ∧ unusedSet w mO = false) ∧
    (∃ (h : Hart), ∃ (w : W64), ∃ (s : State), s.issues h w [] ∧ opcOf w = 0x43 ∧ unusedSet w mO = false) :=
  ⟨⟨⟨0, 0, 0⟩, 0x0000000000000040#64, (sts32.getD 0 State.reset), by dsimp only [State.issues, State.unarmed]; decide +kernel⟩,
   ⟨⟨0, 0, 0⟩, 0x0000000000000041#64, (sts32.getD 8 State.reset), by dsimp only [State.issues, State.unarmed]; decide +kernel⟩,
   ⟨⟨0, 0, 0⟩, 0x0000000000000042#64, (sts32.getD 16 State.reset), by dsimp only [State.issues, State.unarmed]; decide +kernel⟩,
   ⟨⟨0, 0, 0⟩, 0x0000000000000043#64, (sts32.getD 24 State.reset), by dsimp only [State.issues, State.unarmed]; decide +kernel⟩⟩

/-- States and operands that meet the hypotheses of `Obligations.BarrierReleases`, clause by clause. -/
theorem wit_BarrierReleases :
    (∃ (c : CoreId), ∃ (s : State), ∃ (j : Nat), s.live = true ∧ (s.core c.key).job = some j ∧ (∀ e ∈ (s.core c.key).threads, e.2.st = .free ∨ (e.2.st = .waitSync ∧ e.2.wait = .barrier false))) ∧
    (∃ (c : CoreId), ∃ (s : State), ∃ (j : Nat), s.live = true ∧ (s.core c.key).job = some j ∧ (∃ e ∈ (s.core c.key).threads, e.2.st ≠ .free ∧ ¬(e.2.st = .waitSync ∧ e.2.wait = .barrier false))) :=
  ⟨⟨⟨0, 0⟩, (l3State_0.getD 0 State.reset), 1, by decide +kernel⟩,
   ⟨⟨0, 0⟩, (l3State_0.getD 1 State.reset), 1, by decide +kernel⟩⟩

/-- States and operands that meet the hypotheses of `Obligations.VectorLanes`, clause by clause. -/
theorem wit_VectorLanes :
    (∀ r ∈ Claims.laneForms, ∃ x ∈ ([(0x0000000000082350#64, (l3State_1.getD 1 State.reset)), (0x0000000000082351#64, (l3State_1.getD 11 State.reset)), (0x0000000000082352#64, (l3State_1.getD 21 State.reset)), (0x0000000000082354#64, (l3State_1.getD 31 State.reset)), (0x0000000000082355#64, (l3State_1.getD 41 State.reset)), (0x0000000000082353#64, (l3State_1.getD 51 State.reset)), (0x0000000000082356#64, (l3State_1.getD 61 State.reset)), (0x0000000000082357#64, (l3State_1.getD 71 State.reset)), (0x0000000000082358#64, (l3State_1.getD 81 State.reset)), (0x0000000000082359#64, (l3State_1.getD 91 State.reset)), (0x000000000008235a#64, (l3State_1.getD 101 State.reset)), (0x0000000020002f5b#64, (l3State_1.getD 114 State.reset)), (0x000000000000235c#64, (l3State_1.getD 0 State.reset)), (0x0000000800002f5e#64, (l3State_1.getD 135 State.reset)), (0x0000000000082367#64, (l3State_1.getD 141 State.reset)), (0x0000000800002f68#64, (l3State_1.getD 155 State.reset)), (0x0000000800002f69#64, (l3State_1.getD 165 State.reset)), (0x0000000800002f70#64, (l3State_1.getD 175 State.reset)), (0x0000000410002371#64, (l3State_1.getD 187 State.reset)), (0x0000000800002f72#64, (l3State_1.getD 195 State.reset)), (0x0000000000082373#64, (l3State_1.getD 201 State.reset))] : List (W64 × State)), let h : Hart := ⟨0, 0, 0⟩; let w := x.1; let s := x.2; opcOf w = r.op ∧ unusedSet w r.mask = false ∧ (∀ n ∈ r.regs w, n < 16) ∧ r.ok w = true ∧ s.issues h w (r.regs w)) :=
  by dsimp only [State.issues, State.unarmed]; decide +kernel

/-- States and operands that meet the hypotheses of `Obligations.VectorOthers`, clause by clause. -/
theorem wit_VectorOthers :
    (∃ (h : Hart), ∃ (w : W64), ∃ (s : State), opcOf w = 0x5D ∧ unusedSet w (mO + mD + mA + mX0 + mIn 6) = false ∧ fA w < 16 ∧ s.issues h w [fA w]) ∧
    (∀ r ∈ ([(.vrsum, 0x64, fun l => roundFp32 (treeSum 6 (l.map fp)), fun l => l.foldl (fun x y => x + y) 0#32), (.vrmax, 0x65, fun l => l.foldl maxW 0xFF800000#32, fun l => l.foldl maxI 0x80000000#32), (.vrmin, 0x66, fun l => l.foldl minW 0x7F800000#32, fun l => l.foldl minI 0x7FFFFFFF#32)] : List ((Agent → W64 → Instr) × Nat × (List W32 → W32) × (List W32 → W32))), ∃ x ∈ ([(0x0000000000002364#64, (l3State_2.getD 2 State.reset)), (0x0000000000002365#64, (l3State_2.getD 4 State.reset)), (0x0000000000004366#64, (l3State_2.getD 6 State.reset))] : List (W64 × State)), let h : Hart := ⟨0, 0, 0⟩; let w := x.1; let s := x.2; opcOf w = r.2.1 ∧ unusedSet w (mO + mD + mA + mX0) = false ∧ fD w < 16 ∧ fA w < 16 ∧ s.issues h w [fD w, fA w]) ∧
    (∃ (h : Hart), ∃ (w : W64), ∃ (s : State), opcOf w = 0x74 ∧ unusedSet w (mO + mD + mA + mC + mIn 4) = false ∧ (fImm w % 16 = 5 ∨ fImm w % 16 = 6) ∧ fD w < 16 ∧ fA w < 16 ∧ s.issues h w [fD w, fA w]) :=
  ⟨⟨⟨0, 0, 0⟩, 0x000000050000235d#64, (l3State_2.getD 0 State.reset), by dsimp only [State.issues, State.unarmed]; decide +kernel⟩,
   by dsimp only [State.issues, State.unarmed]; decide +kernel,
   ⟨⟨0, 0, 0⟩, 0x0000000502002374#64, (l3State_2.getD 8 State.reset), by dsimp only [State.issues, State.unarmed]; decide +kernel⟩⟩

/-- States and operands that meet the hypotheses of `Obligations.MatrixEntersQueue`, clause by clause. -/
theorem wit_MatrixEntersQueue :
    (∀ r ∈ Claims.queueForms, ∃ x ∈ ([(0x0000004000820090#64, (l4State_0.getD 0 State.reset)), (0x000001c30082b091#64, (l4State_0.getD 12 State.reset)), (0x00000000000000a2#64, (l4State_0.getD 24 State.reset)), (0x00000000000200a3#64, (l4State_0.getD 35 State.reset)), (0x00000000000200a4#64, (l4State_0.getD 41 State.reset)), (0x00000000000200a7#64, (l4State_0.getD 47 State.reset)), (0x00000003008200a5#64, (l4State_0.getD 48 State.reset)), (0x00000003188270a6#64, (l4State_0.getD 60 State.reset)), (0x00000003000020b1#64, (l4State_0.getD 66 State.reset)), (0x00000005000820b7#64, (l4State_0.getD 72 State.reset))] : List (W64 × State)), let h : Hart := ⟨0, 0, 0⟩; let w := x.1; let s := x.2; opcOf w = r.op ∧ r.legal w (s.of h) = true ∧ s.issues h w (r.regs w) ∧ (s.core h.key).queue.length < 16 ∧ s.operandFault h.key h.thr.val (r.slots w) (r.aligned w (s.of h)) (r.ranges w (s.of h)) = none) ∧
    (∀ r ∈ Claims.queueForms, ∃ x ∈ ([(0x0000004000820090#64, (l4State_0.getD 2 State.reset)), (0x000001c30082b091#64, (l4State_0.getD 14 State.reset)), (0x00000000000000a2#64, (l4State_0.getD 26 State.reset)), (0x00000000000200a3#64, (l4State_0.getD 32 State.reset)), (0x00000000000200a4#64, (l4State_0.getD 38 State.reset)), (0x00000000000200a7#64, (l4State_0.getD 44 State.reset)), (0x00000003008200a5#64, (l4State_0.getD 50 State.reset)), (0x00000003188270a6#64, (l4State_0.getD 62 State.reset)), (0x00000003000020b1#64, (l4State_0.getD 68 State.reset)), (0x00000005000820b7#64, (l4State_0.getD 74 State.reset))] : List (W64 × State)), let h : Hart := ⟨0, 0, 0⟩; let w := x.1; let s := x.2; opcOf w = r.op ∧ r.legal w (s.of h) = true ∧ s.issues h w (r.regs w) ∧ 16 ≤ (s.core h.key).queue.length) :=
  ⟨by dsimp only [State.issues, State.unarmed]; decide +kernel,
   by dsimp only [State.issues, State.unarmed]; decide +kernel⟩

/-- States and operands that meet the hypotheses of `Obligations.DescriptorsEnterQueue`, clause by clause. -/
theorem wit_DescriptorsEnterQueue :
    (∀ r ∈ ([(.attnInit, 0), (.attnStep, 1), (.attnFinish, 2)] : List ((Agent → W64 → Instr) × Nat)), ∃ x ∈ ([(0x00000000000022b0#64, (l4State_1.getD 0 State.reset)), (0x00000000100022b0#64, (l4State_1.getD 3 State.reset)), (0x0000000020002eb0#64, (l4State_1.getD 6 State.reset))] : List (W64 × State)), let h : Hart := ⟨0, 0, 0⟩; let w := x.1; let s := x.2; (s.core h.key).queue.length < 16 ∧ (let va := ((s.of h).g (fA w)).toNat; opcOf w = 0xB0 ∧ unusedSet w (mO + mD + mA + 0x3 * 2 ^ 28) = false ∧ fX w % 4 = r.2 ∧ fD w % 2 = 0 ∧ fD w ≤ 14 ∧ s.issues h w [fD w, fD w + 1] ∧ Claims.readable s h va 128 128 ∧ (let d := s.vrdN (s.partOf h.key) va 128; attnBad d = false ∧ s.operandFault h.key h.thr.val (attnSlots d) ((attnAligned r.2 d).map (fun a => (a, 64))) (ownRanges (attnRanges r.2 d)) = none))) ∧
    (∃ (h : Hart), ∃ (w : W64), ∃ (s : State), ∃ c, (s.core h.key).queue.length < 16 ∧ (let va := ((s.of h).g (fA w)).toNat; opcOf w = 0xB2 ∧ unusedSet w (mO + mA) = false ∧ s.issues h w [] ∧ Claims.readable s h va 64 1 ∧ (let d := s.vrdN (s.partOf h.key) va 64; s.chunkOf h.key h.thr.val = some c ∧ (let r := s.reelRec (s.partOf h.key) (hIdx c.handle.toNat); rlKind r < 2 ∧ runBad d (rlKind r == 1) c.len.toNat = false ∧ s.operandFault h.key h.thr.val [] [] (ownRanges (runRanges d (rlWidth r))) = none)))) ∧
    (∃ (h : Hart), ∃ (w : W64), ∃ (s : State), (s.core h.key).queue.length < 16 ∧ opcOf w = 0xB2 ∧ unusedSet w (mO + mA) = false ∧ s.issues h w [] ∧ s.chunkOf h.key h.thr.val = none) ∧
    (∃ (h : Hart), ∃ (w : W64), ∃ (s : State), (s.core h.key).queue.length < 16 ∧ (let va := ((s.of h).g (fA w)).toNat; opcOf w = 0xBA ∧ unusedSet w (mO + mA) = false ∧ s.issues h w [] ∧ Claims.readable s h va 64 1 ∧ (let d := s.vrdN (s.partOf h.key) va 64; nmsBad d = false ∧ s.operandFault h.key h.thr.val [] [] (ownRanges (nmsRanges d)) = none))) :=
  ⟨by dsimp only [State.issues, State.unarmed, Claims.readable]; decide +kernel,
   ⟨⟨0, 0, 0⟩, 0x00000000000020b2#64, (l4State_1.getD 10 State.reset), { serial := 4, handle := 0x00003002#32, len := 0x0002#16, mark := 0xffff#16, inp := 0x0000000000000000#64, out := 0x0000000000000000#64, arg := 0x0000000000000000#64, recAddr := 0x0000000000000000#64, next := 0x00000000#32, nxv := false, tag := 0x0000#16, owner := none, cmd := none, running := false, held := false, sig := 0x0000000000000000#64, sigLo := 0xffffffff#32, sigHi := 0x00000000#32, changed := [] }, by dsimp only [State.issues, State.unarmed, Claims.readable]; decide +kernel⟩,
   ⟨⟨0, 0, 0⟩, 0x00000000000020b2#64, (l4State_1.getD 9 State.reset), by dsimp only [State.issues, State.unarmed]; decide +kernel⟩,
   ⟨⟨0, 0, 0⟩, 0x00000000000020ba#64, (l4State_1.getD 14 State.reset), by dsimp only [State.issues, State.unarmed, Claims.readable]; decide +kernel⟩⟩

/-- States and operands that meet the hypotheses of `Obligations.SlotsClaimed`, clause by clause. -/
theorem wit_SlotsClaimed :
    (∃ (h : Hart), ∃ (w : W64), ∃ (s : State), unusedSet w (mO + mqSlot) = false ∧ s.issues h w [] ∧ (let k := h.key; let sl := s.slot k (qSlot w); opcOf w = 0xA0 ∧ sl.reel = none)) ∧
    (∃ (h : Hart), ∃ (w : W64), ∃ (s : State), unusedSet w (mO + mqSlot) = false ∧ s.issues h w [] ∧ (let k := h.key; let sl := s.slot k (qSlot w); opcOf w = 0xA1 ∧ sl.owner = some h.thr.val)) ∧
    (∃ (h : Hart), ∃ (w : W64), ∃ (s : State), unusedSet w (mO + mqSlot) = false ∧ s.issues h w [] ∧ (let k := h.key; let sl := s.slot k (qSlot w); opcOf w = 0xA1 ∧ sl.owner ≠ some h.thr.val)) :=
  ⟨⟨⟨0, 0, 0⟩, 0x00000000000000a0#64, (l4State_2.getD 0 State.reset), by dsimp only [State.issues, State.unarmed]; decide +kernel⟩,
   ⟨⟨0, 0, 0⟩, 0x00000000000000a1#64, (l4State_2.getD 21 State.reset), by dsimp only [State.issues, State.unarmed]; decide +kernel⟩,
   ⟨⟨0, 0, 0⟩, 0x00000000000000a1#64, (l4State_2.getD 18 State.reset), by dsimp only [State.issues, State.unarmed]; decide +kernel⟩⟩

/-- States and operands that meet the hypotheses of `Obligations.DmaInstructions`, clause by clause. -/
theorem wit_DmaInstructions :
    (∃ (h : Hart), ∃ (w : W64), ∃ (s : State), ∃ n, s.issues h w [] ∧ (let x := s.of h; opcOf w = 0x80 ∧ unusedSet w (mO + mD + mA + mB + mC) = false ∧ Claims.lowestTag x n)) ∧
    (∃ (h : Hart), ∃ (w : W64), ∃ (s : State), s.issues h w [] ∧ (let x := s.of h; opcOf w = 0x80 ∧ unusedSet w (mO + mD + mA + mB + mC) = false ∧ (∀ n, n < 16 → x.tags.has n = true))) ∧
    (∃ (h : Hart), ∃ (w : W64), ∃ (s : State), ∃ n, s.issues h w [] ∧ (let x := s.of h; let va := (x.g (fA w)).toNat; opcOf w = 0x81 ∧ unusedSet w (mO + mD + mA) = false ∧ Claims.readable s h va 64 64 ∧ Claims.lowestTag x n)) ∧
    (∃ (h : Hart), ∃ (w : W64), ∃ (s : State), ∃ n, s.issues h w [] ∧ (let x := s.of h; let va := (x.g (fA w)).toNat; opcOf w = 0x82 ∧ unusedSet w (mO + mD + mA + mB + mI) = false ∧ homeImm (fImm w) = true ∧ va % 65536 = 0 ∧ (x.g (fB w)).toNat % 65536 = 0 ∧ Claims.lowestTag x n)) ∧
    (∃ (h : Hart), ∃ (w : W64), ∃ (s : State), ∃ n, s.issues h w [] ∧ (let x := s.of h; let va := (x.g (fA w)).toNat; let rd (n : Nat) := s.vrdN (s.partOf h.key) va n; opcOf w = 0x83 ∧ unusedSet w (mO + mD + mA) = false ∧ Claims.readable s h va 64 64 ∧ Claims.readable s h va (64 + 32 * recN (rd 64) 0 2) 64 ∧ Claims.lowestTag x n)) ∧
    (∃ (h : Hart), ∃ (w : W64), ∃ (s : State), s.issues h w [] ∧ (let x := s.of h; let va := (x.g (fA w)).toNat; opcOf w = 0x8F ∧ unusedSet w (mO + mD + mA) = false ∧ (16 ≤ va ∨ x.tags.find va = none))) ∧
    (∃ (h : Hart), ∃ (w : W64), ∃ (s : State), ∃ y, ∃ st, s.issues h w [] ∧ (let x := s.of h; let va := (x.g (fA w)).toNat; opcOf w = 0x8F ∧ unusedSet w (mO + mD + mA) = false ∧ va < 16 ∧ x.tags.find va = some y ∧ y.done = some st)) ∧
    (∃ (h : Hart), ∃ (w : W64), ∃ (s : State), ∃ y, s.issues h w [] ∧ (let x := s.of h; let va := (x.g (fA w)).toNat; opcOf w = 0x8F ∧ unusedSet w (mO + mD + mA) = false ∧ va < 16 ∧ x.tags.find va = some y ∧ y.done = none)) :=
  ⟨⟨⟨0, 0, 0⟩, 0x0000000001882380#64, (l4State_3.getD 0 State.reset), 0, by dsimp only [State.issues, State.unarmed, Claims.lowestTag]; decide +kernel⟩,
   ⟨⟨0, 0, 0⟩, 0x0000000001882380#64, (l4State_3.getD 2 State.reset), by dsimp only [State.issues, State.unarmed]; decide +kernel⟩,
   ⟨⟨0, 0, 0⟩, 0x0000000000002381#64, (l4State_3.getD 3 State.reset), 0, by dsimp only [State.issues, State.unarmed, Claims.readable, Claims.lowestTag]; decide +kernel⟩,
   ⟨⟨0, 0, 0⟩, 0x0000002100148382#64, (l4State_3.getD 6 State.reset), 0, by dsimp only [State.issues, State.unarmed, Claims.lowestTag]; decide +kernel⟩,
   ⟨⟨0, 0, 0⟩, 0x0000000000002383#64, (l4State_3.getD 9 State.reset), 0, by dsimp only [State.issues, State.unarmed, Claims.readable, Claims.lowestTag]; decide +kernel⟩,
   ⟨⟨0, 0, 0⟩, 0x000000000000c38f#64, (l4State_3.getD 12 State.reset), by dsimp only [State.issues, State.unarmed]; decide +kernel⟩,
   ⟨⟨0, 0, 0⟩, 0x000000000001008f#64, (l4State_3.getD 19 State.reset), { serial := 0, done := some 0x0305#16 }, 0x0305#16, by dsimp only [State.issues, State.unarmed]; decide +kernel⟩,
   ⟨⟨0, 0, 0⟩, 0x000000000000e38f#64, (l4State_3.getD 17 State.reset), { serial := 15, done := none }, by dsimp only [State.issues, State.unarmed]; decide +kernel⟩⟩

/-- States and operands that meet the hypotheses of `Obligations.ReelInstructions`, clause by clause. -/
theorem wit_ReelInstructions :
    (∃ (h : Hart), ∃ (w : W64), ∃ (s : State), ∃ k, unusedSet w (mO + mD + mA) = false ∧ s.issues h w [] ∧ (let p := s.partOf h.key; let hd := ((s.of h).g (fA w)).toNat; let r := s.reelRec p (hIdx hd); opcOf w = 0xB6 ∧ Claims.liveHandle s h w ∧ s.logKey p (rlCluster r) (rlCore r) = some k)) ∧
    (∃ (h : Hart), ∃ (w : W64), ∃ (s : State), unusedSet w (mO + mD + mA) = false ∧ s.issues h w [] ∧ opcOf w = 0xB4 ∧ ¬ Claims.liveHandle s h w) ∧
    (∃ (h : Hart), ∃ (w : W64), ∃ (s : State), unusedSet w (mO + mD + mA) = false ∧ s.issues h w [] ∧ (let p := s.partOf h.key; let hd := ((s.of h).g (fA w)).toNat; let r := s.reelRec p (hIdx hd); opcOf w = 0xB4 ∧ Claims.liveHandle s h w ∧ rlPin r = true)) ∧
    (∃ (h : Hart), ∃ (w : W64), ∃ (s : State), unusedSet w (mO + mD + mA) = false ∧ s.issues h w [] ∧ (let p := s.partOf h.key; let hd := ((s.of h).g (fA w)).toNat; let r := s.reelRec p (hIdx hd); opcOf w = 0xB4 ∧ Claims.liveHandle s h w ∧ rlPin r = false ∧ (∀ k, s.logKey p (rlCluster r) (rlCore r) = some k → s.pinnedCore k = false) ∧ (rlRstate r = 2 ∨ rlRstate r = 4))) ∧
    (∃ (h : Hart), ∃ (w : W64), ∃ (s : State), unusedSet w (mO + mD + mA) = false ∧ s.issues h w [] ∧ (let p := s.partOf h.key; let hd := ((s.of h).g (fA w)).toNat; let r := s.reelRec p (hIdx hd); opcOf w = 0xB4 ∧ Claims.liveHandle s h w ∧ rlPin r = false ∧ (∀ k, s.logKey p (rlCluster r) (rlCore r) = some k → s.pinnedCore k = false) ∧ rlRstate r = 1)) ∧
    (∃ (h : Hart), ∃ (w : W64), ∃ (s : State), unusedSet w (mO + mD + mA) = false ∧ s.issues h w [] ∧ opcOf w = 0xB5 ∧ ¬ Claims.liveHandle s h w) ∧
    (∃ (h : Hart), ∃ (w : W64), ∃ (s : State), unusedSet w (mO + mD + mA) = false ∧ s.issues h w [] ∧ (let p := s.partOf h.key; let hd := ((s.of h).g (fA w)).toNat; let r := s.reelRec p (hIdx hd); opcOf w = 0xB5 ∧ Claims.liveHandle s h w ∧ (rlRstate r = 2 ∨ rlRstate r = 4))) ∧
    (∃ (h : Hart), ∃ (w : W64), ∃ (s : State), ∃ n, ∃ k, unusedSet w (mO + mD + mA) = false ∧ s.issues h w [] ∧ (let p := s.partOf h.key; let hd := ((s.of h).g (fA w)).toNat; opcOf w = 0xB3 ∧ Claims.readable s h hd 64 64 ∧ Claims.lowestTag (s.of h) n ∧ (let c := chunkFrom (s.vrdN p hd 64); s.reelLive p c.handle.toNat = true ∧ c.len ≠ 0#16 ∧ (c.mark = 0xFFFF#16 ∨ c.mark.toNat < c.len.toNat) ∧ s.reelCore p (hIdx c.handle.toNat) = some k ∧ (s.core k).chunkq.length < 64))) :=
  ⟨⟨⟨0, 0, 0⟩, 0x00000000000023b6#64, (l4State_4.getD 0 State.reset), 0, by dsimp only [State.issues, State.unarmed, Claims.liveHandle]; decide +kernel⟩,
   ⟨⟨0, 0, 0⟩, 0x00000000000083b4#64, (l4State_4.getD 120 State.reset), by dsimp only [State.issues, State.unarmed, Claims.liveHandle]; decide +kernel⟩,
   ⟨⟨0, 0, 0⟩, 0x00000000000023b4#64, (l4State_4.getD 36 State.reset), by dsimp only [State.issues, State.unarmed, Claims.liveHandle]; decide +kernel⟩,
   ⟨⟨0, 0, 0⟩, 0x00000000000023b4#64, (l4State_4.getD 28 State.reset), by (try dsimp only [State.issues, State.unarmed, Claims.liveHandle]); (repeat' with_reducible apply And.intro) <;> first | exact opt_all (by decide +kernel) | decide +kernel⟩,
   ⟨⟨0, 0, 0⟩, 0x00000000000023b4#64, (l4State_4.getD 26 State.reset), by (try dsimp only [State.issues, State.unarmed, Claims.liveHandle]); (repeat' with_reducible apply And.intro) <;> first | exact opt_all (by decide +kernel) | decide +kernel⟩,
   ⟨⟨0, 0, 0⟩, 0x00000000000083b5#64, (l4State_4.getD 144 State.reset), by dsimp only [State.issues, State.unarmed, Claims.liveHandle]; decide +kernel⟩,
   ⟨⟨0, 0, 0⟩, 0x00000000000023b5#64, (l4State_4.getD 52 State.reset), by dsimp only [State.issues, State.unarmed, Claims.liveHandle]; decide +kernel⟩,
   ⟨⟨0, 0, 0⟩, 0x00000000000043b3#64, (l4State_4.getD 72 State.reset), 0, 0, by dsimp only [State.issues, State.unarmed, Claims.readable, Claims.lowestTag]; decide +kernel⟩⟩

/-- States and operands that meet the hypotheses of `Obligations.DetectionLanes`, clause by clause. -/
theorem wit_DetectionLanes :
    (∃ (h : Hart), ∃ (w : W64), ∃ (s : State), let x := s.of h; let a := (x.g (fA w)).toNat; let b := (x.g (fB w)).toNat; opcOf w = 0xB8 ∧ unusedSet w (mO + mD + mA + mB + mC + mX0 + mX12 + mIn 8) = false ∧ fD w < 16 ∧ fX w / 2 % 4 ≠ 3 ∧ a % 8 = 0 ∧ b % 8 = 0 ∧ s.issues h w [fD w] ∧ (let rs := (upTo (fImm w % 256 + 1)).map (fun j => ((a + j * b) % 2 ^ 64, if xBit w 0 then 128 else 256)); Claims.rowsReadable s h rs)) ∧
    (∃ (h : Hart), ∃ (w : W64), ∃ (s : State), let x := s.of h; let b := (x.g (fB w)).toNat; let c := (x.g (fC w)).toNat; opcOf w = 0xB9 ∧ unusedSet w (mO + mD + mA + mB + mC + mX0) = false ∧ fD w % 4 = 0 ∧ fA w % 4 = 0 ∧ fD w < 16 ∧ fA w < 16 ∧ b % 8 = 0 ∧ c % 8 = 0 ∧ s.issues h w (four (fD w) ++ four (fA w)) ∧ Claims.rowsReadable s h [(b, 1024), (c, 20)]) ∧
    (∃ (h : Hart), ∃ (w : W64), ∃ (s : State), opcOf w = 0xBB ∧ unusedSet w (mO + mD + mA + mB) = false ∧ fD w % 4 = 0 ∧ fD w < 16 ∧ s.issues h w (four (fD w))) :=
  ⟨⟨⟨0, 0, 0⟩, 0x00000003018823b8#64, (l5State_0.getD 0 State.reset), by dsimp only [State.issues, State.unarmed, Claims.rowsReadable, State.ordered]; decide +kernel⟩,
   ⟨⟨0, 0, 0⟩, 0x00000000031404b9#64, (l5State_0.getD 3 State.reset), by dsimp only [State.issues, State.unarmed, Claims.rowsReadable, State.ordered]; decide +kernel⟩,
   ⟨⟨0, 0, 0⟩, 0x00000000000cecbb#64, (l5State_0.getD 5 State.reset), by dsimp only [State.issues, State.unarmed]; decide +kernel⟩⟩

/-- States and operands that meet the hypotheses of `Obligations.SystemInstructions`, clause by clause. -/
theorem wit_SystemInstructions :
    (∃ (h : Hart), ∃ (w : W64), ∃ (s : State), s.issues h w [] ∧ opcOf w = 0xD0 ∧ unusedSet w mO = false) ∧
    (∃ (h : Hart), ∃ (w : W64), ∃ (s : State), s.issues h w [] ∧ opcOf w = 0xD1 ∧ unusedSet w mO = false) ∧
    (∃ (h : Hart), ∃ (w : W64), ∃ (s : State), s.issues h w [] ∧ opcOf w = 0xD2 ∧ unusedSet w (mO + mI) = false) ∧
    (∃ (h : Hart), ∃ (w : W64), ∃ (s : State), s.issues h w [] ∧ (let x := s.of h; opcOf w = 0xD3 ∧ unusedSet w (mO + mD + mA) = false ∧ (x.g (fA w)).toNat ≤ s.ns)) ∧
    (∃ (h : Hart), ∃ (w : W64), ∃ (s : State), s.issues h w [] ∧ (let x := s.of h; opcOf w = 0xD3 ∧ unusedSet w (mO + mD + mA) = false ∧ s.ns < (x.g (fA w)).toNat)) ∧
    (∃ (h : Hart), ∃ (w : W64), ∃ (s : State), s.issues h w [] ∧ opcOf w = 0xD4 ∧ unusedSet w (mO + mD + mX0) = false) ∧
    (∃ (h : Hart), ∃ (w : W64), ∃ (s : State), s.issues h w [] ∧ opcOf w = 0xD5 ∧ unusedSet w (mO + mD) = false) ∧
    (∃ (h : Hart), ∃ (w : W64), ∃ (s : State), s.issues h w [] ∧ opcOf w = 0xD6 ∧ unusedSet w (mO + mIn 8) = false) ∧
    (∃ (h : Hart), ∃ (w : W64), ∃ (s : State), s.issues h w [] ∧ opcOf w = 0xD7 ∧ unusedSet w (mO + mD + mI) = false ∧ cntListed (fImm w) = true) ∧
    (∃ (h : Hart), ∃ (w : W64), ∃ (s : State), s.issues h w [] ∧ opcOf w = 0xD7 ∧ unusedSet w (mO + mD + mI) = false ∧ cntListed (fImm w) = false) :=
  ⟨⟨⟨0, 0, 0⟩, 0x00000000000000d0#64, (l5State_1.getD 0 State.reset), by dsimp only [State.issues, State.unarmed]; decide +kernel⟩,
   ⟨⟨0, 0, 0⟩, 0x00000000000000d1#64, (l5State_1.getD 3 State.reset), by dsimp only [State.issues, State.unarmed]; decide +kernel⟩,
   ⟨⟨0, 0, 0⟩, 0x12345678000000d2#64, (l5State_1.getD 6 State.reset), by dsimp only [State.issues, State.unarmed]; decide +kernel⟩,
   ⟨⟨0, 0, 0⟩, 0x00000000000023d3#64, (l5State_1.getD 9 State.reset), by dsimp only [State.issues, State.unarmed]; decide +kernel⟩,
   ⟨⟨0, 0, 0⟩, 0x00000000000043d3#64, (l5State_1.getD 12 State.reset), by dsimp only [State.issues, State.unarmed]; decide +kernel⟩,
   ⟨⟨0, 0, 0⟩, 0x00000000000003d4#64, (l5State_1.getD 18 State.reset), by dsimp only [State.issues, State.unarmed]; decide +kernel⟩,
   ⟨⟨0, 0, 0⟩, 0x00000000000003d5#64, (l5State_1.getD 24 State.reset), by dsimp only [State.issues, State.unarmed]; decide +kernel⟩,
   ⟨⟨0, 0, 0⟩, 0x00000005000000d6#64, (l5State_1.getD 27 State.reset), by dsimp only [State.issues, State.unarmed]; decide +kernel⟩,
   ⟨⟨0, 0, 0⟩, 0x00000001000003d7#64, (l5State_1.getD 30 State.reset), by dsimp only [State.issues, State.unarmed]; decide +kernel⟩,
   ⟨⟨0, 0, 0⟩, 0x0000270f000003d7#64, (l5State_1.getD 36 State.reset), by dsimp only [State.issues, State.unarmed]; decide +kernel⟩⟩

/-- States and operands that meet the hypotheses of `Obligations.ControllerSystem`, clause by clause. -/
theorem wit_ControllerSystem :
    (∀ r ∈ ([(.nop, 0xD0), (.fence, 0x40), (.ibar, 0x43)] : List ((Agent → W64 → Instr) × Nat)), ∃ x ∈ ([(0x00000000000000d0#64, (l5State_2.getD 1 State.reset)), (0x0000000000000040#64, (l5State_2.getD 3 State.reset)), (0x0000000000000043#64, (l5State_2.getD 5 State.reset))] : List (W64 × State)), let c : Option (Fin 8) := none; let w := x.1; let s := x.2; s.ctlIssues (ctlNum c) w ∧ opcOf w = r.2 ∧ unusedSet w mO = false) ∧
    (∃ (c : Option (Fin 8)), ∃ (w : W64), ∃ (s : State), s.ctlIssues (ctlNum c) w ∧ opcOf w = 0xD4 ∧ unusedSet w (mO + mD + mX0) = false) :=
  ⟨by dsimp only [State.ctlIssues, State.ctlUnarmed]; decide +kernel,
   ⟨none, 0x00000000000003d4#64, (l5State_2.getD 7 State.reset), by dsimp only [State.ctlIssues, State.ctlUnarmed]; decide +kernel⟩⟩

/-- States and operands that meet the hypotheses of `Obligations.ThreadsEnd`, clause by clause. -/
theorem wit_ThreadsEnd :
    (∃ (s : State), s.live = true) ∧
    (∃ (h : Hart), ∃ (s : State), s.live = true ∧ s.mayFinish h.key h.thr.val = true) :=
  ⟨⟨(st54.getD 0 State.reset), by decide +kernel⟩,
   ⟨⟨0, 0, 0⟩, (st54.getD 1 State.reset), by decide +kernel⟩⟩

/-- States and operands that meet the hypotheses of `Obligations.FetchArrives`, clause by clause. -/
theorem wit_FetchArrives :
    (∃ (h : Hart), ∃ (s : State), ∃ (rest : List W64), s.live = true ∧ s.fencedCore h.key = false ∧ (s.of h).st = .waitMem ∧ (s.of h).wait = .fetch ∧ (s.of h).freq = blockOf (s.of h).pc :: rest ∧ (let b := (blockOf (s.of h).pc).toNat; s.fetchFault h.key b = none ∧ s.mvRange h.key b 128 = false)) ∧
    (∃ (h : Hart), ∃ (s : State), ∃ (rest : List W64), ∃ off, ∃ a, s.live = true ∧ s.fencedCore h.key = false ∧ (s.of h).st = .waitMem ∧ (s.of h).wait = .fetch ∧ (s.of h).freq = blockOf (s.of h).pc :: rest ∧ (let b := (blockOf (s.of h).pc).toNat; off < 128 ∧ s.fetchFault h.key b = none ∧ s.mvRange h.key b 128 = false ∧ s.va? (s.partOf h.key) (b + off) = some a ∧ (∃ j o, regionOf a = .cluster j o ∨ regionOf a = .core j o))) ∧
    (∃ (h : Hart), ∃ (s : State), ∃ (rest : List W64), ∃ code, s.live = true ∧ s.fencedCore h.key = false ∧ (s.of h).st = .waitMem ∧ (s.of h).wait = .fetch ∧ (s.of h).freq = blockOf (s.of h).pc :: rest ∧ (let b := (blockOf (s.of h).pc).toNat; s.fetchFault h.key b = some code)) :=
  ⟨⟨⟨0, 0, 0⟩, (l5State_3.getD 0 State.reset), [0x000000000000004d#64], by decide +kernel⟩,
   ⟨⟨0, 0, 0⟩, (l5State_3.getD 0 State.reset), [0x000000000000004d#64], 0, 1035087118336, by (try dsimp only); (repeat' with_reducible apply And.intro) <;> first | exact ⟨0, 0, by decide +kernel⟩ | decide +kernel⟩,
   ⟨⟨0, 0, 0⟩, (l5State_3.getD 1 State.reset), [0x000000000000004d#64], 4, by decide +kernel⟩⟩

/-- States and operands that meet the hypotheses of `Obligations.HaltsAndResumes`, clause by clause. -/
theorem wit_HaltsAndResumes :
    (∃ (h : Hart), ∃ (s : State), ∃ (d : BitVec 8 × BitVec 48 × BitVec 48), s.live = true ∧ (s.of h).st = .ready ∧ (s.of h).supEnd = false ∧ (s.of h).deferred = some d ∧ (s.of h).wait = .none) ∧
    (∃ (h : Hart), ∃ (s : State), ∃ (pc : W64), s.live = true ∧ (s.of h).st = .halted ∧ (s.of h).pc ≠ pc) ∧
    (∃ (h : Hart), ∃ (s : State), s.live = true ∧ (s.of h).st = .halted) ∧
    (∃ (c : CoreId), ∃ (s : State), ∃ (n : Nat), ∃ (x : Thread), s.live = true ∧ (s.core c.key).draining = true ∧ (s.core c.key).queue = [] ∧ (s.core c.key).dmaq = [] ∧ (s.core c.key).threads = [(n, x)] ∧ x.st = .ready ∧ x.load = none ∧ x.deferred = none ∧ x.supEnd = false ∧ x.wait = .none ∧ (s.core c.key).drainAll = false) :=
  ⟨⟨⟨0, 0, 0⟩, {base with cores := [(0, core0 (th56 (some (3#8, 0x1234#48, 0x5678#48)) false))]}, (0x03#8, (0x000000001234#48, 0x000000005678#48)), by decide +kernel⟩,
   ⟨⟨0, 0, 0⟩, {base with cores := [(0, core0 {thr 0#64 [(1,5#64)] with st := .halted, flt := {FaultRec.init with v := true, code := 4#8}})]}, 0x0000000000020000#64, by decide +kernel⟩,
   ⟨⟨0, 0, 0⟩, {base with cores := [(0, core0 {thr 0#64 [(1,5#64)] with st := .halted, flt := {FaultRec.init with v := true, code := 4#8}})]}, by decide +kernel⟩,
   ⟨⟨0, 0⟩, {base with cores := [(0, {core0 (thr 0#64 [(1,5#64)]) with draining := true})]}, 0, (thr 0#64 [(1,5#64)]), by decide +kernel⟩⟩

/-- States and operands that meet the hypotheses of `Obligations.QueueEntryBegins`, clause by clause. -/
theorem wit_QueueEntryBegins :
    (∃ (c : CoreId), ∃ (s : State), ∃ (e : QEntry), let k := c.key; s.live = true ∧ s.queueUp k = true ∧ (s.core k).queue.find? (fun x => !x.begun) = some e ∧ s.unarmed k ∧ s.mayBegin k e = true ∧ s.entryWait k e = none ∧ (let g := s.gather k (s.readRanges k e); s.entryFault k e g.1 = none ∧ g.2 = none ∧ e.tainted = false ∧ (∀ r ∈ s.readRanges k e, s.openRead k e.thr r.1 r.2 = false) ∧ (∀ r ∈ s.writeRanges k e, s.vbadPart (s.partOf k) r.1 r.2 = false))) ∧
    (∃ (c : CoreId), ∃ (s : State), ∃ (e : QEntry), ∃ code, let k := c.key; s.live = true ∧ s.queueUp k = true ∧ (s.core k).queue.find? (fun x => !x.begun) = some e ∧ s.unarmed k ∧ s.mayBegin k e = true ∧ s.entryWait k e = none ∧ (let g := s.gather k (s.readRanges k e); s.entryFault k e g.1 = some code ∧ opcNeed (opcOf e.w) ≤ g.1.length)) :=
  ⟨⟨⟨0, 0⟩, (l6State_0.getD 0 State.reset), (l6QEntry_1.getD 0 QEntry.init), by dsimp only [State.unarmed]; decide +kernel⟩,
   ⟨⟨0, 0⟩, (l6State_0.getD 4 State.reset), (l6QEntry_1.getD 1 QEntry.init), 10, by dsimp only [State.unarmed]; decide +kernel⟩⟩

set_option maxRecDepth 1000000 in
/-- States and operands that meet the hypotheses of `Obligations.QueueEntryCompletes`, clause by clause. -/
theorem wit_QueueEntryCompletes :
    (∃ (c : CoreId), ∃ (n : Nat), ∃ (s : State), ∃ (e : QEntry), let k := c.key; s.live = true ∧ s.engineUp k = true ∧ (s.core k).queue[n]? = some e ∧ e.begun = true ∧ s.slotBusy k e = false ∧ e.tainted = false ∧ (opcOf e.w = 0x91 → qRs e.w = false) ∧ opcOf e.w ∈ [0x90, 0x91, 0xA2, 0xB1, 0xB7]) :=
  ⟨⟨0, 0⟩, 0, (l6State_2.getD 0 State.reset), (l6QEntry_3.getD 0 QEntry.init), by decide +kernel⟩

/-- States and operands that meet the hypotheses of `Obligations.CopyMovesBytes`, clause by clause. -/
theorem wit_CopyMovesBytes :
    (∃ (c : CoreId), ∃ (s : State), ∃ (o : DmaOp), ∃ a, ∃ b, let k := c.key; let src := o.src.toNat; let dst := o.dst.toNat; let n := o.len.toNat; Claims.mayStart s k o 0 ∧ o.kind = .copy ∧ Claims.mayRead s k o src n a ∧ Claims.mayWrite s k o dst n b ∧ Claims.apart src dst n a b) ∧
    (∃ (c : CoreId), ∃ (s : State), ∃ (o : DmaOp), let k := c.key; let src := o.src.toNat; let dst := o.dst.toNat; let n := o.len.toNat; Claims.mayStart s k o 0 ∧ o.kind = .copy ∧ s.pieceWait k (if o.len = 0#64 then [] else rowPieces src dst 0 0 1 n) = none) ∧
    (∃ (c : CoreId), ∃ (s : State), ∃ (o : DmaOp), let k := c.key; let d := o.desc; Claims.mayStart s k o 0 ∧ o.kind = .desc ∧ recBits d 0 4 = 0 ∧ recZero d 4 28 = true ∧ recZero d 96 32 = true ∧ recZero d 384 128 = true ∧ (s.pieceWait k (if recN d 4 4 = 0 ∨ recN d 8 4 = 0 then [] else rowPieces (recN d 24 8) (recN d 16 8) (sextN 64 (recN d 40 8)) (sextN 64 (recN d 32 8)) (recN d 4 4) (recN d 8 4)) = none)) ∧
    (∃ (c : CoreId), ∃ (s : State), ∃ (o : DmaOp), let k := c.key; let d := o.desc; Claims.mayStart s k o 0 ∧ o.kind = .desc ∧ 3 < recBits d 0 4) :=
  ⟨⟨⟨0, 0⟩, (l6State_4.getD 10 State.reset), (ops6.getD 10 DmaOp.init), 1035087183872, 1035087249408, by (try dsimp only [Claims.mayStart, Claims.apart]); (repeat' with_reducible apply And.intro) <;> first | exact mayRead_of (by decide +kernel) | exact mayWrite_of (by decide +kernel) rfl | decide +kernel⟩,
   ⟨⟨0, 0⟩, (l6State_4.getD 2 State.reset), (ops6.getD 2 DmaOp.init), by dsimp only [Claims.mayStart]; decide +kernel⟩,
   ⟨⟨0, 0⟩, (l6State_4.getD 1 State.reset), (ops6.getD 1 DmaOp.init), by dsimp only [Claims.mayStart]; decide +kernel⟩,
   ⟨⟨0, 0⟩, (l6State_4.getD 5 State.reset), (ops6.getD 5 DmaOp.init), by dsimp only [Claims.mayStart]; decide +kernel⟩⟩

set_option maxRecDepth 1000000 in
/-- States and operands that meet the hypotheses of `Obligations.EngineStarts`, clause by clause. -/
theorem wit_EngineStarts :
    (∃ (c : CoreId), ∃ (s : State), ∃ (o : DmaOp), let k := c.key; let d := o.desc; Claims.mayStart s k o 1 ∧ recN d 16 2 = 0) ∧
    (∃ (c : CoreId), ∃ (s : State), ∃ (o : DmaOp), ∃ ow, let k := c.key; let d := o.desc; Claims.mayStart s k o 1 ∧ Claims.windowOk d ow ∧ s.pieceWait k (windowPieces d ow) = none) ∧
    (∃ (c : CoreId), ∃ (s : State), ∃ (o : DmaOp), ∃ ow, ∃ x, ∃ b, ∃ src, ∃ a, let k := c.key; let d := o.desc; Claims.mayStart s k o 1 ∧ Claims.windowOk d ow ∧ s.pieceWait k (windowPieces d ow) = none ∧ windowPieces d ow = [x] ∧ Claims.mayWrite s k o x.dst x.len b ∧ x.src = some src ∧ Claims.mayRead s k o src x.len a ∧ Claims.apart src x.dst x.len a b) ∧
    (∃ (c : CoreId), ∃ (s : State), ∃ (o : DmaOp), ∃ ow, ∃ x, ∃ b, let k := c.key; let d := o.desc; Claims.mayStart s k o 1 ∧ Claims.windowOk d ow ∧ s.pieceWait k (windowPieces d ow) = none ∧ windowPieces d ow = [x] ∧ Claims.mayWrite s k o x.dst x.len b ∧ x.src = none ∧ x.data.length = x.len) ∧
    (∃ (c : CoreId), ∃ (s : State), ∃ (o : DmaOp), let k := c.key; let d := o.desc; Claims.mayStart s k o 2 ∧ recBits d 32 11 = 0) ∧
    (∃ (c : CoreId), ∃ (s : State), ∃ (o : DmaOp), let k := c.key; let d := o.desc; Claims.mayStart s k o 2 ∧ Claims.gatherOk d ∧ (let g := ((Claims.gatherStart s k d).gatherPieces k o.thr d).1; s.pieceWait k g = none ∧ s.mvRange k (gatherTable d).1 (gatherTable d).2 = false)) ∧
    (∃ (c : CoreId), ∃ (s : State), ∃ (o : DmaOp), ∃ x, ∃ src, ∃ a, ∃ b, let k := c.key; let d := o.desc; Claims.mayStart s k o 2 ∧ Claims.gatherOk d ∧ (let g := ((Claims.gatherStart s k d).gatherPieces k o.thr d).1; s.pieceWait k g = none ∧ s.mvRange k (gatherTable d).1 (gatherTable d).2 = false ∧ recBits d 32 11 = 1 ∧ g = [x] ∧ x.src = some src ∧ Claims.mayRead s k o src x.len a ∧ Claims.mayWrite s k o x.dst x.len b ∧ Claims.apart src x.dst x.len a b)) ∧
    (∃ (c : CoreId), ∃ (s : State), ∃ (o : DmaOp), let k := c.key; let p := s.partOf k; let d := o.desc; Claims.mayStart s k o 3 ∧ Claims.expandOk s p d ∧ (let n := recN d 4 4; n = 0)) ∧
    (∃ (c : CoreId), ∃ (s : State), ∃ (o : DmaOp), let k := c.key; let p := s.partOf k; let d := o.desc; Claims.mayStart s k o 3 ∧ Claims.expandOk s p d ∧ (let n := recN d 4 4; let src := recN d 24 8; let dst := recN d 16 8; let win := min (recN d 8 8) (8208 * n); let pr := s.pair k (s.va? p src) (s.va? p dst); n ≠ 0 ∧ s.expTaken k = false ∧ s.mvRange k src win = false ∧ s.vbankBusy p src win = false ∧ s.pieceWait k (s.expandPieces k src win dst (min pr.1 128) pr.1 n 0 0 [] []).1 = none)) ∧
    (∃ (c : CoreId), ∃ (s : State), ∃ (o : DmaOp), ∃ b, let k := c.key; let p := s.partOf k; let d := o.desc; Claims.mayStart s k o 3 ∧ Claims.expandOk s p d ∧ (let n := recN d 4 4; let src := recN d 24 8; let dst := recN d 16 8; let win := min (recN d 8 8) (8208 * n); let pr := s.pair k (s.va? p src) (s.va? p dst); n ≠ 0 ∧ s.expTaken k = false ∧ s.mvRange k src win = false ∧ s.vbankBusy p src win = false ∧ s.pieceWait k (s.expandPieces k src win dst (min pr.1 128) pr.1 n 0 0 [] []).1 = none ∧ n = 1 ∧ (s.expandPieces k src win dst (min pr.1 128) pr.1 n 0 0 [] []).2.1 = none ∧ overlaps src win dst 4096 = false ∧ s.openRead k o.thr src win = false ∧ Claims.mayWrite s k o dst 4096 b)) ∧
    (∃ (c : CoreId), ∃ (s : State), ∃ (o : DmaOp), let k := c.key; let d := o.desc; Claims.mayStart s k o 3 ∧ recZero d 4 28 = true ∧ recZero d 256 256 = true ∧ recN d 24 8 % 8 ≠ 0) :=
  ⟨⟨⟨0, 0⟩, (l6State_4.getD 11 State.reset), (ops6.getD 11 DmaOp.init), by dsimp only [Claims.mayStart]; decide +kernel⟩,
   ⟨⟨0, 0⟩, (l6State_4.getD 0 State.reset), (ops6.getD 0 DmaOp.init), 8, by dsimp only [Claims.mayStart, Claims.windowOk]; decide +kernel⟩,
   ⟨⟨0, 0⟩, (st6d { op0 with kind := .desc, desc := dWin1 }), { op0 with kind := .desc, desc := dWin1 }, 8, { dst := 0x110000, src := some 0x100000, len := 8, data := [] }, 0xF100030000, 0x100000, 0xF100020000, by (try dsimp only [Claims.mayStart, Claims.windowOk, Claims.apart]); (repeat' with_reducible apply And.intro) <;> first | exact mayWrite_of (by decide +kernel) rfl | exact mayRead_of (by decide +kernel) | decide +kernel⟩,
   ⟨⟨0, 0⟩, (st6d { op0 with kind := .desc, desc := dPad }), { op0 with kind := .desc, desc := dPad }, 8, { dst := 0x110000, src := none, len := 8, data := List.replicate 8 0 }, 0xF100030000, by (try dsimp only [Claims.mayStart, Claims.windowOk]); (repeat' with_reducible apply And.intro) <;> first | exact mayWrite_of (by decide +kernel) rfl | decide +kernel⟩,
   ⟨⟨0, 0⟩, (l6State_4.getD 12 State.reset), (ops6.getD 12 DmaOp.init), by dsimp only [Claims.mayStart]; decide +kernel⟩,
   ⟨⟨0, 0⟩, (l6State_4.getD 8 State.reset), (ops6.getD 8 DmaOp.init), by dsimp only [Claims.mayStart, Claims.gatherOk]; decide +kernel⟩,
   ⟨⟨0, 0⟩, (st6d { op0 with kind := .desc, desc := dGat1 }), { op0 with kind := .desc, desc := dGat1 }, { dst := 0x110000, src := some 0x100000, len := 64, data := [] }, 0x100000, 0xF100020000, 0xF100030000, by (try dsimp only [Claims.mayStart, Claims.gatherOk, Claims.apart]); (repeat' with_reducible apply And.intro) <;> first | exact mayRead_of (by decide +kernel) | exact mayWrite_of (by decide +kernel) rfl | decide +kernel⟩,
   ⟨⟨0, 0⟩, (l6State_4.getD 14 State.reset), (ops6.getD 14 DmaOp.init), by dsimp only [Claims.mayStart, Claims.expandOk]; decide +kernel⟩,
   ⟨⟨0, 0⟩, (l6State_4.getD 9 State.reset), (ops6.getD 9 DmaOp.init), by dsimp only [Claims.mayStart, Claims.expandOk]; decide +kernel⟩,
   ⟨⟨0, 0⟩, (l6State_4.getD 9 State.reset), (ops6.getD 9 DmaOp.init), 1035087249408, by (try dsimp only [Claims.mayStart, Claims.expandOk]); (repeat' with_reducible apply And.intro) <;> first | exact mayWrite_of (by decide +kernel) rfl | decide +kernel⟩,
   ⟨⟨0, 0⟩, (l6State_4.getD 15 State.reset), (ops6.getD 15 DmaOp.init), by dsimp only [Claims.mayStart]; decide +kernel⟩⟩

/-- States and operands that meet the hypotheses of `Obligations.MovesStart`, clause by clause. -/
theorem wit_MovesStart :
    (∃ (c : CoreId), ∃ (s : State), ∃ (o : DmaOp), ∃ x, let k := c.key; let p := s.partOf k; Claims.mayStart s k o 4 ∧ s.motionMeets p (o.dst.toNat / 65536) (o.len.toNat / 65536) = false ∧ s.movePlan p o.dst.toNat o.len.toNat o.dest.toNat = .inl x) ∧
    (∃ (c : CoreId), ∃ (s : State), ∃ (o : DmaOp), ∃ gs, let k := c.key; let p := s.partOf k; Claims.mayStart s k o 4 ∧ s.motionMeets p (o.dst.toNat / 65536) (o.len.toNat / 65536) = false ∧ s.movePlan p o.dst.toNat o.len.toNat o.dest.toNat = .inr gs ∧ s.planBusy p gs = false) ∧
    (∃ (c : CoreId), ∃ (s : State), ∃ (o : DmaOp), ∃ x, let k := c.key; let p := s.partOf k; Claims.mayStart s k o 5 ∧ (∀ r ∈ o.ranges, s.motionMeets p r.1 r.2 = false) ∧ s.splicePlan p o.desc = .inl x) ∧
    (∃ (c : CoreId), ∃ (s : State), ∃ (o : DmaOp), ∃ es, let k := c.key; let p := s.partOf k; Claims.mayStart s k o 5 ∧ (∀ r ∈ o.ranges, s.motionMeets p r.1 r.2 = false) ∧ s.splicePlan p o.desc = .inr es ∧ s.planBusy p (es.flatMap (fun e => e.2)) = false) :=
  ⟨⟨⟨0, 0⟩, (l6State_4.getD 17 State.reset), (ops6.getD 17 DmaOp.init), (4, 0), by dsimp only [Claims.endsWith, Claims.groupMoves, Claims.startedWith, Claims.mayStart, State.noTrace]; decide +kernel⟩,
   ⟨⟨0, 0⟩, (l6State_4.getD 16 State.reset), (ops6.getD 16 DmaOp.init), [[(2, 0x0000000000000005#64)]], by dsimp only [Claims.endsWith, Claims.groupMoves, Claims.startedWith, Claims.mayStart, State.noTrace]; decide +kernel⟩,
   ⟨⟨0, 0⟩, (l6State_4.getD 21 State.reset), (ops6.getD 21 DmaOp.init), (2, 1), by dsimp only [Claims.endsWith, Claims.groupMoves, Claims.startedWith, Claims.mayStart, State.noTrace]; decide +kernel⟩,
   ⟨⟨0, 0⟩, (l6State_4.getD 20 State.reset), (ops6.getD 20 DmaOp.init), [({ op := 0, dest := 1, n := 1, va := 131072, vb := 0 }, [[(2, 0x0000000000000005#64)]])], by dsimp only [Claims.endsWith, Claims.groupMoves, Claims.startedWith, Claims.mayStart, State.noTrace]; decide +kernel⟩⟩

/-- States and operands that meet the hypotheses of `Obligations.OperationsEnd`, clause by clause. -/
theorem wit_OperationsEnd :
    (∃ (c : CoreId), ∃ (s : State), ∃ (o : DmaOp), ∃ (rest : List DmaOp), ∃ (st : BitVec 16), ∃ (y : TagSt), let k := c.key; s.live = true ∧ Claims.calm s (s.partOf k) ∧ s.engineUp k = true ∧ (s.core k).dmaq = o :: rest ∧ o.started = true ∧ o.status = some st ∧ o.waitHost = [] ∧ o.held = [] ∧ s.expHeld k o = false ∧ o.hostTag = none ∧ (s.thr k o.thr).tags.find o.tag = some y ∧ y.serial = o.serial ∧ s.noTrace k) ∧
    (∃ (p : Fin 8), ∃ (num : W32), ∃ (data : List Byte), ∃ (s : State), ∃ (r : HostReq), s.live = true ∧ s.funcTakes p.val = true ∧ Claims.calm (s.updFunc p.val (fun f => { f with reqs := [] })) p.val ∧ (s.func p.val).reqs = [r] ∧ r.num = num.toNat ∧ r.posted = true ∧ r.write = false ∧ r.bytes = data.length ∧ r.dev = true ∧ r.dst ≠ 0#64 ∧ s.deadStack r.dst.toNat = false ∧ (s.core r.core).dmaq = []) ∧
    (∃ (p : Fin 8), ∃ (num : W32), ∃ (s : State), ∃ (r : HostReq), ∃ (o : DmaOp), s.live = true ∧ Claims.calm (s.updFunc p.val (fun f => { f with reqs := [] })) p.val ∧ (s.func p.val).reqs = [r] ∧ r.num = num.toNat ∧ r.posted = true ∧ r.sentNs.toNat + 1000000000 ≤ s.ns ∧ (s.core r.core).dmaq = [o] ∧ o.serial = r.op ∧ o.held = []) :=
  ⟨⟨⟨0, 0⟩, (st6e (op6e (some 0x502#16)) .none), (op6e (some 0x502#16)), [], 0x0502#16, {TagSt.init with serial := 7}, by dsimp only [Claims.calm, State.noTrace]; decide +kernel⟩,
   ⟨0, 0x00000005#32, [0x01#8, 0x02#8, 0x03#8], (st6f (rq 0x40000000#64 false) []), (rq 0x40000000#64 false), by dsimp only [Claims.calm]; decide +kernel⟩,
   ⟨0, 0x00000005#32, (st6f (rq 0x40000000#64 true) [{op6e none with waitHost := [5]}]), (rq 0x40000000#64 true), {op6e none with waitHost := [5]}, by dsimp only [Claims.calm]; decide +kernel⟩⟩

/-- States and operands that meet the hypotheses of `Obligations.ChunksDispatch`, clause by clause. -/
theorem wit_ChunksDispatch :
    (∃ (c : CoreId), ∃ (s : State), ∃ (x : Chunk), ∃ n, let k := c.key; let p := s.partOf k; let i := hIdx x.handle.toNat; let r := s.reelRec p i; s.live = true ∧ s.mayDispatch p k = true ∧ (s.core k).chunkq = [x] ∧ x.running = false ∧ x.held = false ∧ s.reelLive p x.handle.toNat = true ∧ s.bankMoves p k i = false ∧ rlRstate r = 1 ∧ s.noTrace k ∧ s.freeThread k = some n) ∧
    (∃ (c : CoreId), ∃ (s : State), ∃ (x : Chunk), let k := c.key; let p := s.partOf k; let i := hIdx x.handle.toNat; let r := s.reelRec p i; s.live = true ∧ s.mayDispatch p k = true ∧ (s.core k).chunkq = [x] ∧ x.running = false ∧ x.held = false ∧ s.reelLive p x.handle.toNat = true ∧ s.bankMoves p k i = false ∧ rlRstate r = 3 ∧ rlSlots r ≤ (s.looseSlots k).length) ∧
    (∃ (c : CoreId), ∃ (s : State), ∃ (x : Chunk), let k := c.key; let p := s.partOf k; s.live = true ∧ s.mayDispatch p k = true ∧ (s.core k).chunkq = [x] ∧ x.running = false ∧ x.held = false ∧ s.reelLive p x.handle.toNat = false ∧ x.recAddr = 0#64 ∧ x.cmd = none ∧ x.owner = none) :=
  ⟨⟨⟨0, 0⟩, (l7State_0.getD 0 State.reset), (chunks7.getD 0 Chunk.init), 1, by dsimp only [State.noTrace]; decide +kernel⟩,
   ⟨⟨0, 0⟩, (l7State_0.getD 12 State.reset), (chunks7.getD 0 Chunk.init), by decide +kernel⟩,
   ⟨⟨0, 0⟩, (l7State_0.getD 6 State.reset), (chunks7.getD 3 Chunk.init), by decide +kernel⟩⟩

/-- States and operands that meet the hypotheses of `Obligations.ChunksEnd`, clause by clause. -/
theorem wit_ChunksEnd :
    (∃ (h : Hart), ∃ (s : State), ∃ (x : Chunk), ∃ (j : Nat), let k := h.key; let p := s.partOf k; let i := hIdx x.handle.toNat; s.live = true ∧ Claims.calm s p ∧ s.settled p ∧ (s.core k).chunkq = [x] ∧ (s.of h).chunk = some x.serial ∧ (s.of h).st = .free ∧ x.nxv = false ∧ x.recAddr = 0#64 ∧ x.cmd = none ∧ x.owner = none ∧ (s.core k).job = some j ∧ (s.part p).jobs.has j = true ∧ (s.job p j).lock = false ∧ (s.job p j).pendingSet = [] ∧ s.bankMoves p k i = false ∧ (s.reel p i).destroyPend = false ∧ (s.reel p i).swapPend = false) ∧
    (∃ (q : Fin 8), ∃ (idx : BitVec 12), ∃ (s : State), ∃ (x : Chunk), ∃ n, let p := q.val; let i := idx.toNat; let k := (s.reel p i).core; s.live = true ∧ rlRstate (s.reelRec p i) = 4 ∧ (s.reel p i).slots ≠ [] ∧ (s.core k).chunkq = [x] ∧ x.held = true ∧ hIdx x.handle.toNat = i ∧ s.noTrace k ∧ (s.cl (keyCl k)).spareBusy = none ∧ s.bankMoves p k i = false ∧ (s.reel p i).destroyPend = false ∧ s.freeThread k = some n) ∧
    (∃ (q : Fin 8), ∃ (idx : BitVec 12), ∃ (s : State), ∃ (x : Chunk), let p := q.val; let i := idx.toNat; let k := (s.reel p i).core; s.live = true ∧ rlRstate (s.reelRec p i) = 4 ∧ (s.reel p i).slots ≠ [] ∧ (s.core k).chunkq = [x] ∧ x.held = true ∧ hIdx x.handle.toNat = i ∧ s.noTrace k ∧ (s.cl (keyCl k)).spareBusy = none ∧ s.bankMoves p k i = false ∧ (s.reel p i).destroyPend = true ∧ Claims.calm s p ∧ x.recAddr = 0#64 ∧ x.cmd = none ∧ x.owner = none) :=
  ⟨⟨⟨0, 0, 0⟩, (l7State_1.getD 0 State.reset), (chunks7.getD 0 Chunk.init), 1, by (try dsimp only [Claims.calm]); (repeat' with_reducible apply And.intro) <;> first | exact settled_of (by decide +kernel) | decide +kernel⟩,
   ⟨0, 0x002#12, (l7State_1.getD 20 State.reset), (chunks7.getD 4 Chunk.init), 1, by dsimp only [State.noTrace]; decide +kernel⟩,
   ⟨0, 0x002#12, (l7State_1.getD 21 State.reset), (chunks7.getD 4 Chunk.init), by dsimp only [State.noTrace, Claims.calm]; decide +kernel⟩⟩

/-- States and operands that meet the hypotheses of `Obligations.StepsRun`, clause by clause. -/
theorem wit_StepsRun :
    (∃ (q : Fin 8), ∃ (j : Nat), ∃ (s : State), ∃ (n : BitVec 64), let p := q.val; s.live = true ∧ (s.job p j).startAt = some n ∧ n.toNat ≤ s.ns ∧ (∀ x ∈ (s.job p j).placed, ∃ k, s.logKey p x.1 x.2 = some k ∧ (s.cl (keyCl k)).powered = true) ∧ (∀ k ∈ s.jobCores p j, (s.cl (keyCl k)).spareBusy = none) ∧ (∀ k, s.noTrace k)) ∧
    (∃ (q : Fin 8), ∃ (j : Nat), ∃ (s : State), ∃ (c : HCmd), let p := q.val; let x := s.job p j; s.live = true ∧ s.stepEnded p j = true ∧ x.kind = 0#2 ∧ x.running = some (c.serial + 1) ∧ (s.func p).cmds = [c] ∧ (s.part p).jobs.has j = true ∧ x.lock = false ∧ x.seqs = [] ∧ x.pendingSet = [] ∧ x.retire = none ∧ (s.jobCores p j).length < 2 ∧ (s.part p).relPend = none ∧ (s.cl (s.lead p)).ckpt = false ∧ s.settled p ∧ (∀ d ∈ s.clustersOf p, (s.cl d).clPend = [])) ∧
    (∃ (c : CoreId), ∃ (s : State), ∃ (j : Nat), let k := c.key; let p := s.partOf k; let x := s.job p j; s.live = true ∧ Claims.calm s p ∧ (s.core k).switching = some j ∧ x.savedPages = [] ∧ s.settled p ∧ (s.part p).jobs.has j = true ∧ (∀ d ∈ (s.cl (keyCl k)).declPend, d.1 ≠ keyCore k)) ∧
    (∃ (c : Fin 8), ∃ (s : State), ∃ (f : Nat), ∃ (j : Nat), ∃ (p : Nat), ∃ (sp : Nat), ∃ (n : Nat), s.live = true ∧ Memory.wf s.mem = true ∧ (s.cl c.val).ctl.fenced = false ∧ (s.cl c.val).spareBusy = some (f, j, 9, n) ∧ s.ownerCl c.val = some p ∧ s.physCore c.val j = some sp ∧ f ≠ sp ∧ f < 9 ∧ sp < 9 ∧ (s.jobsOn p ((s.logCl p c.val).getD 0) j).filter (fun n => (s.job p n).kind != 2#2) = [] ∧ (∀ i ∈ (s.part p).reels.keys, (s.reel p i).core = coreKey c.val sp → (s.reel p i).slots = []) ∧ s.settled p ∧ Claims.calm s p) :=
  ⟨⟨0, 1, (st7a (job7 0) cl7 [] f7), 0x0000000000000014#64, by (try dsimp only); (repeat' with_reducible apply And.intro) <;> first | exact placed_of (by decide +kernel) | exact noTrace_of (by decide +kernel) | decide +kernel⟩,
   ⟨0, 1, (st7a jobD cl7 [(0, {Core.init with threads := [(0, {thr 0#64 [] with st := .free})]})] f7), cmd7, by (try dsimp only); (repeat' with_reducible apply And.intro) <;> first | exact settled_of (by decide +kernel) | decide +kernel⟩,
   ⟨⟨0, 0⟩, (st7a jobS cl7 [(0, {core0 (thr 0#64 []) with job := some 1, switching := some 1, fusLoaded := [3], sbuf := [(0, {StatBuf.init with fmt := some 3#4})], slots := [(0, {Slot.init with kind := 1#2}), (2, {Slot.init with reel := some 5, kind := 2#2}), (3, {Slot.init with kind := 2#2, base := 4#12})]})] {f7 with cmds := []}), 1, by (try dsimp only [Claims.calm]); (repeat' with_reducible apply And.intro) <;> first | exact settled_of (by decide +kernel) | decide +kernel⟩,
   ⟨0, st7c, 0, 0, 0, 8, 0, by (try dsimp only [Claims.calm]); (repeat' with_reducible apply And.intro) <;> first | exact settled_of (by decide +kernel) | decide +kernel⟩⟩

/-- States and operands that meet the hypotheses of `Obligations.HostChecks`, clause by clause. -/
theorem wit_HostChecks :
    (∃ (e : MemErr), ∃ r ∈ Claims.hostRows e, ∃ (q : Fin 8), ∃ (h : CmdHdr), ∃ (s : State), s.takes q.val r.2.1 h ∧ (h.resv = true ∨ (∃ a ∈ (CmdArgs h).drop r.2.2.1, a ≠ 0) ∨ (if r.2.2.2 then (s.part q.val).jobs.has h.job.toNat = false else h.job ≠ 0#32))) ∧
    (∃ (e : MemErr), ∃ r ∈ Claims.hostRows e, ∃ (q : Fin 8), ∃ (h : CmdHdr), ∃ (s : State), s.live = true ∧ s.boot.running = true ∧ s.portOpen = true ∧ (s.func q.val).st = .draining ∧ s.granted q.val (64 + h.payload.length)) ∧
    (∃ (e : MemErr), ∃ r ∈ Claims.hostRows e, ∃ (q : Fin 8), ∃ (s : State), s.live = true ∧ (s.boot.running = false ∨ s.portOpen = false ∨ (s.func q.val).st = .off)) ∧
    (∃ (e : MemErr), ∃ r ∈ Claims.hostRows e, ∃ (q : Fin 8), ∃ (s : State), s.live = true ∧ s.boot.running = true ∧ s.portOpen = true ∧ (s.func q.val).st = .operating ∧ 256 ≤ (s.func q.val).cmds.length) ∧
    (∃ (e : MemErr), ∃ r ∈ Claims.hostRows e, ∃ (q : Fin 8), ∃ (h : CmdHdr), ∃ (s : State), s.live = true ∧ s.boot.running = true ∧ s.portOpen = true ∧ (s.func q.val).st = .operating ∧ (s.func q.val).cmds.length < 256 ∧ ¬ s.granted q.val (64 + h.payload.length)) :=
  ⟨⟨(Sys2Proof.MemErr.none), _, List.mem_of_getElem? (i := 0) rfl, 0, (hds8.getD 1 CmdHdr.init), (st8 f8), by dsimp only [State.takes, State.granted]; decide +kernel⟩,
   ⟨(Sys2Proof.MemErr.none), _, List.mem_of_getElem? (i := 0) rfl, 0, (hds8.getD 0 CmdHdr.init), (st8 {f8 with st := .draining}), by dsimp only [State.granted]; decide +kernel⟩,
   ⟨(Sys2Proof.MemErr.none), _, List.mem_of_getElem? (i := 0) rfl, 0, (st8 {f8 with st := .off}), by decide +kernel⟩,
   ⟨(Sys2Proof.MemErr.none), _, List.mem_of_getElem? (i := 0) rfl, 0, (st8 {f8 with cmds := List.replicate 256 HCmd.init}), by decide +kernel⟩,
   ⟨(Sys2Proof.MemErr.none), _, List.mem_of_getElem? (i := 0) rfl, 0, (hds8.getD 0 CmdHdr.init), {st8 f8 with dev := {base.dev with own := [(0, { clusters := 1#8, stks := 1#8, conf := true, v := true })]}}, by dsimp only [State.granted]; decide +kernel⟩⟩

/-- States and operands that meet the hypotheses of `Obligations.HostMemoryMap`, clause by clause. -/
theorem wit_HostMemoryMap :
    (∃ (q : Fin 8), ∃ (h : CmdHdr), ∃ (s : State), let p := q.val; s.takes p 0x00 h ∧ s.cmdIllegal p 0x00 h = false) ∧
    (∃ (q : Fin 8), ∃ (h : CmdHdr), ∃ (s : State), ∃ a, ∃ f, let p := q.val; let fl := h.arg0.toNat; let big := bitAt fl 4; let u := if big then 32 else 1; let pl := h.arg2.toNat; let hm := match fl % 4 with | 0 => 4 * bitsAt pl 3 3 + 32 * (pl % 8) | 1 => 1 + 32 * (pl % 8) | n => n; s.takes p 0x08 h ∧ s.cmdIllegal p 0x08 h = false ∧ s.settled p ∧ 1 ≤ h.arg1.toNat ∧ h.arg1.toNat ≤ u * 65536 ∧ (bitAt fl 3 = true → fl % 4 = 1 ∨ fl % 4 = 2) ∧ (big = true → 2 ≤ fl % 4) ∧ s.homeOk p hm = true ∧ 1 ≤ s.homeUnits p (fl % 4) ∧ s.findRange p u u = some a ∧ s.freeFrame p hm u = some f ∧ s.unwalked p a u) ∧
    (∃ (q : Fin 8), ∃ (h : CmdHdr), ∃ (s : State), let p := q.val; let fl := h.arg0.toNat; let big := bitAt fl 4; let pl := h.arg2.toNat; let hm := match fl % 4 with | 0 => 4 * bitsAt pl 3 3 + 32 * (pl % 8) | 1 => 1 + 32 * (pl % 8) | n => n; s.takes p 0x08 h ∧ s.cmdIllegal p 0x08 h = false ∧ (h.arg1 = 0#64 ∨ (big = true ∧ fl % 4 < 2) ∨ (bitAt fl 3 = true ∧ fl % 4 ≠ 1 ∧ fl % 4 ≠ 2) ∨ s.homeOk p hm = false)) ∧
    (∃ (q : Fin 8), ∃ (h : CmdHdr), ∃ (s : State), ∃ al, let p := q.val; let pg := h.arg0.toNat / 65536; s.takes p 0x09 h ∧ s.cmdIllegal p 0x09 h = false ∧ s.settled p ∧ h.arg0.toNat % 65536 = 0 ∧ (s.part p).allocs.find pg = some al ∧ s.motionMeets p pg al.pages = false ∧ s.unwalked p pg al.pages) ∧
    (∃ (q : Fin 8), ∃ (h : CmdHdr), ∃ (s : State), let p := q.val; let pg := h.arg0.toNat / 65536; s.takes p 0x09 h ∧ s.cmdIllegal p 0x09 h = false ∧ (s.part p).allocs.find pg = none) ∧
    (∃ (q : Fin 8), ∃ (h : CmdHdr), ∃ (s : State), ∃ al, let p := q.val; let pg := h.arg0.toNat / 65536; s.takes p 0x0B h ∧ s.cmdIllegal p 0x0B h = false ∧ h.arg0.toNat % 65536 = 0 ∧ (s.part p).allocs.find pg = some al ∧ al.sh = true ∧ s.unwalked p pg al.pages) ∧
    (∃ (q : Fin 8), ∃ (h : CmdHdr), ∃ (s : State), ∃ al, let p := q.val; let pg := h.arg0.toNat / 65536; s.takes p 0x0B h ∧ s.cmdIllegal p 0x0B h = false ∧ (s.part p).allocs.find pg = some al ∧ al.sh = false) ∧
    (∃ (q : Fin 8), ∃ (h : CmdHdr), ∃ (s : State), let p := q.val; s.takes p 0x0E h ∧ s.cmdIllegal p 0x0E h = false) ∧
    (∃ (q : Fin 8), ∃ (h : CmdHdr), ∃ (s : State), ∃ k, let p := q.val; s.takes p 0x0A h ∧ s.cmdIllegal p 0x0A h = false ∧ s.hostCore p = some k) :=
  ⟨⟨0, (hds8b.getD 0 CmdHdr.init), (st8 f8), by dsimp only [State.takes, State.granted]; decide +kernel⟩,
   ⟨0, (hds8b.getD 9 CmdHdr.init), {st8 f8 with parts := [(0, {base.part 0 with ptes := (base.part 0).ptes, allocs := [(2, {Alloc.init with pages := 1, sh := true}), (3, {Alloc.init with pages := 1, home := 1#2})]})]}, 6, 2, by (try dsimp only [State.takes, State.granted, State.unwalked]); (repeat' with_reducible apply And.intro) <;> first | exact settled_of (by decide +kernel) | decide +kernel⟩,
   ⟨0, (hds8b.getD 0 CmdHdr.init), (st8 f8), by dsimp only [State.takes, State.granted]; decide +kernel⟩,
   ⟨0, (hds8b.getD 60 CmdHdr.init), {st8 f8 with parts := [(0, {base.part 0 with ptes := (base.part 0).ptes, allocs := [(2, {Alloc.init with pages := 1, sh := true}), (3, {Alloc.init with pages := 1, home := 1#2})]})]}, { pages := 1, big := false, home := 0x0#2, pin := false, sh := true, sealed := false }, by (try dsimp only [State.takes, State.granted, State.unwalked]); (repeat' with_reducible apply And.intro) <;> first | exact settled_of (by decide +kernel) | decide +kernel⟩,
   ⟨0, (hds8b.getD 0 CmdHdr.init), (st8 f8), by dsimp only [State.takes, State.granted]; decide +kernel⟩,
   ⟨0, (hds8b.getD 60 CmdHdr.init), (st8 f8), { pages := 1, big := false, home := 0x0#2, pin := false, sh := true, sealed := false }, by dsimp only [State.takes, State.granted, State.unwalked]; decide +kernel⟩,
   ⟨0, (hds8b.getD 64 CmdHdr.init), (st8 f8), { pages := 1, big := false, home := 0x1#2, pin := false, sh := false, sealed := false }, by dsimp only [State.takes, State.granted]; decide +kernel⟩,
   ⟨0, (hds8b.getD 0 CmdHdr.init), (st8 f8), by dsimp only [State.takes, State.granted]; decide +kernel⟩,
   ⟨0, (hds8b.getD 0 CmdHdr.init), (st8 f8), 0, by dsimp only [State.takes, State.granted]; decide +kernel⟩⟩

/-- States and operands that meet the hypotheses of `Obligations.HostReadsWrites`, clause by clause. -/
theorem wit_HostReadsWrites :
    (∃ (q : Fin 8), ∃ (h : CmdHdr), ∃ (s : State), ∃ d, let p := q.val; let va := h.arg0.toNat; let n := h.arg1.toNat; s.takes p 0x0C h ∧ s.cmdIllegal p 0x0C h = false ∧ recN h.payload 0 4 = h.tag.toNat ∧ recBits h.payload 32 2 = 0 ∧ recN h.payload 8 8 = n ∧ 64 + n ≤ h.payload.length ∧ 0 < n ∧ va % 65536 + n ≤ 65536 ∧ s.mvPart p va n = false ∧ s.hostFault p va true = none ∧ s.va? p va = some d ∧ s.badPart d n = none) ∧
    (∃ (q : Fin 8), ∃ (h : CmdHdr), ∃ (s : State), ∃ f, let p := q.val; let va := h.arg0.toNat; let n := h.arg1.toNat; s.takes p 0x0C h ∧ s.cmdIllegal p 0x0C h = false ∧ recN h.payload 0 4 = h.tag.toNat ∧ recBits h.payload 32 2 = 0 ∧ recN h.payload 8 8 = n ∧ 64 + n ≤ h.payload.length ∧ 0 < n ∧ va % 65536 + n ≤ 65536 ∧ s.mvPart p va n = false ∧ s.hostFault p va true = some f) ∧
    (∃ (q : Fin 8), ∃ (h : CmdHdr), ∃ (s : State), let p := q.val; let va := h.arg0.toNat; let n := h.arg1.toNat; s.takes p 0x0D h ∧ s.cmdIllegal p 0x0D h = false ∧ s.mvPart p va n = false ∧ (∀ a ∈ pagesOf va n, s.hostFault p a false = none) ∧ s.vbad p va n = false) ∧
    (∃ (q : Fin 8), ∃ (h : CmdHdr), ∃ (s : State), ∃ f, let p := q.val; let va := h.arg0.toNat; let n := h.arg1.toNat; s.takes p 0x0D h ∧ s.cmdIllegal p 0x0D h = false ∧ s.mvPart p va n = false ∧ 0 < n ∧ s.hostFault p va false = some f) :=
  ⟨⟨0, (hds8c.getD 0 CmdHdr.init), (st8 f8), 1035087183872, by dsimp only [State.takes, State.granted]; decide +kernel⟩,
   ⟨0, (hds8c.getD 12 CmdHdr.init), (st8 f8), 6, by dsimp only [State.takes, State.granted]; decide +kernel⟩,
   ⟨0, (hds8c.getD 1 CmdHdr.init), (st8 f8), by dsimp only [State.takes, State.granted]; decide +kernel⟩,
   ⟨0, (hds8c.getD 13 CmdHdr.init), (st8 f8), 6, by dsimp only [State.takes, State.granted]; decide +kernel⟩⟩

/-- States and operands that meet the hypotheses of `Obligations.HostJobs`, clause by clause. -/
theorem wit_HostJobs :
    (∃ (q : Fin 8), ∃ (h : CmdHdr), ∃ (s : State), let p := q.val; let b := h.payload; s.takes p 0x01 h ∧ s.cmdIllegal p 0x01 h = false ∧ s.settled p ∧ (∀ b, s.freeCores p b = []) ∧ blockChg b = 0 ∧ (jobOf b).ok = true ∧ (s.cl (s.lead p)).ckpt = false) ∧
    (∃ (q : Fin 8), ∃ (h : CmdHdr), ∃ (s : State), let p := q.val; let b := h.payload; s.takes p 0x01 h ∧ s.cmdIllegal p 0x01 h = false ∧ (blockChg b ≠ 0 ∨ (jobOf b).ok = false)) ∧
    (∃ (q : Fin 8), ∃ (h : CmdHdr), ∃ (s : State), let p := q.val; let j := h.job.toNat; let x := s.job p j; let b := h.payload; s.takes p 0x02 h ∧ s.cmdIllegal p 0x02 h = false ∧ s.settled p ∧ x.setOk b = true ∧ x.placed = [] ∧ s.atSwitch p j = true) ∧
    (∃ (q : Fin 8), ∃ (h : CmdHdr), ∃ (s : State), let p := q.val; let j := h.job.toNat; let x := s.job p j; let b := h.payload; s.takes p 0x02 h ∧ s.cmdIllegal p 0x02 h = false ∧ s.settled p ∧ x.setOk b = true ∧ s.atSwitch p j = false) ∧
    (∃ (q : Fin 8), ∃ (h : CmdHdr), ∃ (s : State), let p := q.val; let j := h.job.toNat; let x := s.job p j; s.takes p 0x03 h ∧ s.cmdIllegal p 0x03 h = false ∧ s.settled p ∧ x.placed = [] ∧ x.seqs = [] ∧ s.atSwitch p j = true) ∧
    (∃ (q : Fin 8), ∃ (h : CmdHdr), ∃ (s : State), let p := q.val; let j := h.job.toNat; s.takes p 0x03 h ∧ s.cmdIllegal p 0x03 h = false ∧ s.atSwitch p j = false) ∧
    (∃ (q : Fin 8), ∃ (h : CmdHdr), ∃ (s : State), let p := q.val; let j := h.job.toNat; let x := s.job p j; s.takes p 0x04 h ∧ s.cmdIllegal p 0x04 h = false ∧ s.mayLaunch p j = true ∧ h.arg1 = 0#64 ∧ (∀ y ∈ x.placed, ∃ k, s.logKey p y.1 y.2 = some k ∧ (s.cl (keyCl k)).powered = true) ∧ (∀ k, s.noTrace k)) ∧
    (∃ (q : Fin 8), ∃ (h : CmdHdr), ∃ (s : State), let p := q.val; let j := h.job.toNat; s.takes p 0x04 h ∧ s.cmdIllegal p 0x04 h = false ∧ s.mayLaunch p j = true ∧ s.ns < h.arg1.toNat) ∧
    (∃ (q : Fin 8), ∃ (h : CmdHdr), ∃ (s : State), let p := q.val; s.takes p 0x05 h ∧ s.cmdIllegal p 0x05 h = false ∧ s.settled p ∧ h.arg2.toNat ≤ 262144) ∧
    (∃ (q : Fin 8), ∃ (h : CmdHdr), ∃ (s : State), let p := q.val; s.takes p 0x05 h ∧ s.cmdIllegal p 0x05 h = false ∧ 262144 < h.arg2.toNat) ∧
    (∃ (q : Fin 8), ∃ (h : CmdHdr), ∃ (s : State), let p := q.val; let y := Claims.seqOf s p h h.arg0.toNat; s.takes p 0x06 h ∧ s.cmdIllegal p 0x06 h = false ∧ s.settled p ∧ y.run = none ∧ h.arg1 ≠ 0#64 ∧ y.pos + y.remaining + h.arg1.toNat ≤ 262144) ∧
    (∃ (q : Fin 8), ∃ (h : CmdHdr), ∃ (s : State), let p := q.val; let j := h.job.toNat; let x := s.job p j; s.takes p 0x07 h ∧ s.cmdIllegal p 0x07 h = false ∧ s.settled p ∧ x.running.isSome = true) ∧
    (∃ (q : Fin 8), ∃ (h : CmdHdr), ∃ (s : State), let p := q.val; let j := h.job.toNat; let x := s.job p j; s.takes p 0x07 h ∧ s.cmdIllegal p 0x07 h = false ∧ s.settled p ∧ x.running = none ∧ (∀ y ∈ x.seqs, y.2.ended = false) ∧ (Claims.seqOf s p h h.arg0.toNat).run = none) :=
  ⟨⟨0, {hj 0 with payload := blk 0 1 1 0 0}, (stj (ej Job.init []) false), by (try dsimp only [State.takes, State.granted]); (repeat' with_reducible apply And.intro) <;> first | exact settled_of (by decide +kernel) | decide +kernel⟩,
   ⟨0, {hj 0 with payload := blk 0 0 1 0 0}, (stj (ej Job.init []) false), by dsimp only [State.takes, State.granted]; decide +kernel⟩,
   ⟨0, {hj 1 with payload := blk 0 1 1 0 1}, (stj (ej Job.init []) false), by (try dsimp only [State.takes, State.granted]); (repeat' with_reducible apply And.intro) <;> first | exact settled_of (by decide +kernel) | decide +kernel⟩,
   ⟨0, {hj 1 with payload := blk 0 1 1 0 1}, (stj jq false), by (try dsimp only [State.takes, State.granted]); (repeat' with_reducible apply And.intro) <;> first | exact settled_of (by decide +kernel) | decide +kernel⟩,
   ⟨0, (hj 1), (stj (ej Job.init []) false), by (try dsimp only [State.takes, State.granted]); (repeat' with_reducible apply And.intro) <;> first | exact settled_of (by decide +kernel) | decide +kernel⟩,
   ⟨0, (hj 1), (stj jq false), by dsimp only [State.takes, State.granted]; decide +kernel⟩,
   ⟨0, (hj 1), (stj jp true), by (try dsimp only [State.takes, State.granted]); (repeat' with_reducible apply And.intro) <;> first | exact placed_of (by decide +kernel) | exact noTrace_of (by decide +kernel) | decide +kernel⟩,
   ⟨0, {hj 1 with arg0 := 0x777, arg1 := 21}, (stj jp true), by dsimp only [State.takes, State.granted]; decide +kernel⟩,
   ⟨0, (hj 1), (stj jq false), by (try dsimp only [State.takes, State.granted]); (repeat' with_reducible apply And.intro) <;> first | exact settled_of (by decide +kernel) | decide +kernel⟩,
   ⟨0, {hj 1 with arg0 := 3, arg1 := 0x20000, arg2 := 262145}, (stj jq false), by dsimp only [State.takes, State.granted]; decide +kernel⟩,
   ⟨0, {hj 1 with arg0 := 2, arg1 := 4, arg2 := 0x20000}, (stj jq false), by (try dsimp only [State.takes, State.granted]); (repeat' with_reducible apply And.intro) <;> first | exact settled_of (by decide +kernel) | decide +kernel⟩,
   ⟨0, {hj 1 with arg0 := 2}, (stj jq false), by (try dsimp only [State.takes, State.granted]); (repeat' with_reducible apply And.intro) <;> first | exact settled_of (by decide +kernel) | decide +kernel⟩,
   ⟨0, {hj 1 with arg0 := 2}, (stj {jq2 with placed := []} true), by (try dsimp only [State.takes, State.granted]); (repeat' with_reducible apply And.intro) <;> first | exact settled_of (by decide +kernel) | decide +kernel⟩⟩

/-- States and operands that meet the hypotheses of `Obligations.HostReels`, clause by clause. -/
theorem wit_HostReels :
    (∃ (q : Fin 8), ∃ (h : CmdHdr), ∃ (s : State), ∃ k, let p := q.val; let c := chunkFrom h.payload; s.takes p 0x0F h ∧ s.cmdIllegal p 0x0F h = false ∧ s.reelLive p c.handle.toNat = true ∧ c.len ≠ 0#16 ∧ (c.mark = 0xFFFF#16 ∨ c.mark.toNat < c.len.toNat) ∧ s.reelCore p (hIdx c.handle.toNat) = some k ∧ (s.core k).chunkq.length < 64) ∧
    (∃ (q : Fin 8), ∃ (h : CmdHdr), ∃ (s : State), let p := q.val; let c := chunkFrom h.payload; s.takes p 0x0F h ∧ s.cmdIllegal p 0x0F h = false ∧ c.recAddr = 0#64 ∧ (let bad := c.len = 0#16 ∨ (c.mark ≠ 0xFFFF#16 ∧ c.len.toNat ≤ c.mark.toNat); (bad ∨ s.reelLive p c.handle.toNat = false))) ∧
    (∃ (q : Fin 8), ∃ (h : CmdHdr), ∃ (s : State), let p := q.val; let hd := h.arg0.toNat; s.takes p 0x10 h ∧ s.cmdIllegal p 0x10 h = false ∧ s.reelLive p hd = false) ∧
    (∃ (q : Fin 8), ∃ (h : CmdHdr), ∃ (s : State), let p := q.val; let hd := h.arg0.toNat; s.takes p 0x10 h ∧ s.cmdIllegal p 0x10 h = false ∧ s.reelLive p hd = true ∧ (rlRstate (s.reelRec p (hIdx hd)) = 2 ∨ rlRstate (s.reelRec p (hIdx hd)) = 4)) ∧
    (∃ (q : Fin 8), ∃ (h : CmdHdr), ∃ (s : State), let p := q.val; s.takes p 0x11 h ∧ s.cmdIllegal p 0x11 h = false ∧ h.arg1 = 0#64 ∧ (∀ y ∈ (s.part p).jobs, y.2.running = none)) ∧
    (∃ (q : Fin 8), ∃ (h : CmdHdr), ∃ (s : State), let p := q.val; s.takes p 0x11 h ∧ s.cmdIllegal p 0x11 h = false ∧ h.arg1 = 0#64 ∧ (∃ y ∈ (s.part p).jobs, y.2.running.isSome = true)) :=
  ⟨⟨0, {hj 0 with payload := dC 0x3002 8 7}, (str 1 jp), 0, by dsimp only [State.takes, State.granted]; decide +kernel⟩,
   ⟨0, {hj 0 with payload := dC 0x3002 8 8}, (str 1 jp), by dsimp only [State.takes, State.granted]; decide +kernel⟩,
   ⟨0, {hj 0 with arg0 := 0x4002}, (str 1 jp), by dsimp only [State.takes, State.granted]; decide +kernel⟩,
   ⟨0, {hj 0 with arg0 := 0x3002}, (str 2 jp), by dsimp only [State.takes, State.granted]; decide +kernel⟩,
   ⟨0, {hj 0 with arg0 := 2, arg1 := 0, arg2 := 500}, (str 1 jp), by dsimp only [State.takes, State.granted]; decide +kernel⟩,
   ⟨0, {hj 0 with arg0 := 2, arg1 := 0, arg2 := 500}, (str 4 jq), by dsimp only [State.takes, State.granted]; decide +kernel⟩⟩

/-- States and operands that meet the hypotheses of `Obligations.HostSecurity`, clause by clause. -/
theorem wit_HostSecurity :
    (∃ (q : Fin 8), ∃ (h : CmdHdr), ∃ (s : State), let p := q.val; s.takes p 0x20 h ∧ s.cmdIllegal p 0x20 h = false) ∧
    (∃ (q : Fin 8), ∃ (h : CmdHdr), ∃ (s : State), let p := q.val; let x := s.secp p; s.takes p 0x21 h ∧ s.cmdIllegal p 0x21 h = false ∧ s.conf p = true ∧ x.session = none) ∧
    (∃ (q : Fin 8), ∃ (h : CmdHdr), ∃ (s : State), let p := q.val; let x := s.secp p; s.takes p 0x21 h ∧ s.cmdIllegal p 0x21 h = false ∧ (s.conf p = false ∨ x.session.isSome = true)) ∧
    (∃ (q : Fin 8), ∃ (h : CmdHdr), ∃ (s : State), let p := q.val; let va := h.arg0.toNat; let n := h.arg1.toNat; s.takes p 0x22 h ∧ s.cmdIllegal p 0x22 h = false ∧ s.mvPart p va n = false ∧ (∀ a ∈ pagesOf va n, s.hostFault p a false = none)) ∧
    (∃ (q : Fin 8), ∃ (h : CmdHdr), ∃ (s : State), let p := q.val; let j := h.job.toNat; let va := h.arg0.toNat; let n := h.arg1.toNat; let x := s.secp p; let l := (s.logCl p (s.lead p)).getD 0; s.takes p 0x23 h ∧ s.cmdIllegal p 0x23 h = false ∧ s.conf p = true ∧ (x.jobKey = none ∨ x.keyJob = j) ∧ ceilDiv (64 * n) 65536 ≤ s.clusterRoom p l + ceilDiv (64 * x.peers.length) 65536 ∧ s.mvPart p va (4 * n) = false ∧ (∀ a ∈ pagesOf va (4 * n), s.hostFault p a false = none) ∧ s.vbad p va (4 * n) = false) ∧
    (∃ (q : Fin 8), ∃ (h : CmdHdr), ∃ (s : State), let p := q.val; let j := h.job.toNat; let x := s.secp p; s.takes p 0x24 h ∧ s.cmdIllegal p 0x24 h = false ∧ x.keyJob = j ∧ x.jobKey.isSome = true ∧ (∀ c ∈ s.clustersOf p, (s.cl c).fab = [])) ∧
    (∃ (q : Fin 8), ∃ (h : CmdHdr), ∃ (s : State), let p := q.val; let j := h.job.toNat; let x := s.secp p; s.takes p 0x24 h ∧ s.cmdIllegal p 0x24 h = false ∧ (x.keyJob ≠ j ∨ x.jobKey = none) ∧ (∀ c ∈ s.clustersOf p, ∀ y ∈ (s.cl c).fab, y.job ≠ some j)) :=
  ⟨⟨0, {hd8 with payload := z 64}, (st9 true {x9 with session := none} f9 [(1, {Job.init with cores := 1})]), by dsimp only [State.takes, State.granted]; decide +kernel⟩,
   ⟨0, {hd8 with payload := z 1600}, (st9 true {x9 with session := none} f9 [(1, {Job.init with cores := 1})]), by dsimp only [State.takes, State.granted]; decide +kernel⟩,
   ⟨0, {hd8 with payload := z 1600}, (st9 true x9 f9 [(1, {Job.init with cores := 1})]), by dsimp only [State.takes, State.granted]; decide +kernel⟩,
   ⟨0, {hd8 with arg0 := 0x20000, arg1 := 0x40}, (st9 true x9 f9 [(1, {Job.init with cores := 1})]), by dsimp only [State.takes, State.granted]; decide +kernel⟩,
   ⟨0, {hd8 with arg0 := 0x20000, arg1 := 3, job := 1, payload := z 1664}, (st9 true x9 f9 [(1, {Job.init with cores := 1})]), by dsimp only [State.takes, State.granted]; decide +kernel⟩,
   ⟨0, {hd8 with job := 1}, (st9 true {x9 with jobKey := some 4, keyJob := 1} f9 [(1, {Job.init with cores := 1})]), by dsimp only [State.takes, State.granted]; decide +kernel⟩,
   ⟨0, {hd8 with job := 1}, (st9 true x9 f9 [(1, {Job.init with cores := 1})]), by dsimp only [State.takes, State.granted]; decide +kernel⟩⟩

/-- States and operands that meet the hypotheses of `Obligations.SecurityTurns`, clause by clause. -/
theorem wit_SecurityTurns :
    (∃ (s : State), let o := (s.sec.signTurn + 1) % 9; s.live = true ∧ (s.secp o).signQ = []) ∧
    (∃ (s : State), ∃ n, ∃ l, ∃ rest, ∃ c, let o := (s.sec.signTurn + 1) % 9; s.live = true ∧ (s.secp o).signQ = (n, l) :: rest ∧ o < 8 ∧ (s.func o).cmds = [c] ∧ c.serial = n) ∧
    (∃ (s : State), let o := (s.sec.hashTurn + 1) % 9; s.live = true ∧ (s.secp o).hashQ = []) ∧
    (∃ (s : State), ∃ n, ∃ va, ∃ left, ∃ got, ∃ rest, ∃ c, let o := (s.sec.hashTurn + 1) % 9; s.live = true ∧ (s.secp o).hashQ = (n, va, left, got) :: rest ∧ (s.func o).cmds = [c] ∧ c.serial = n ∧ s.mvPart o va (min 4096 left) = false ∧ (∀ a ∈ pagesOf va (min 4096 left), s.hostFault o a false = none) ∧ s.vbad o va (min 4096 left) = false ∧ left ≤ 4096) ∧
    (∃ (s : State), ∃ n, ∃ va, ∃ left, ∃ got, ∃ rest, ∃ c, let o := (s.sec.hashTurn + 1) % 9; s.live = true ∧ (s.secp o).hashQ = (n, va, left, got) :: rest ∧ (s.func o).cmds = [c] ∧ c.serial = n ∧ s.mvPart o va (min 4096 left) = false ∧ (∀ a ∈ pagesOf va (min 4096 left), s.hostFault o a false = none) ∧ s.vbad o va (min 4096 left) = false ∧ 4096 < left) ∧
    (∃ (q : Fin 8), ∃ (data : List Byte), ∃ (s : State), let p := q.val; s.live = true ∧ s.boot.running = true ∧ s.portOpen = true ∧ (s.func p).st = .operating ∧ (s.func p).cmds = [] ∧ s.granted p data.length ∧ (s.secp p).session.isSome = true) ∧
    (∃ (q : Fin 8), ∃ (data : List Byte), ∃ (s : State), let p := q.val; s.live = true ∧ s.boot.running = true ∧ s.portOpen = true ∧ (s.func p).st = .operating ∧ (s.func p).cmds = [] ∧ s.granted p data.length ∧ (s.secp p).session.isSome = true ∧ recN data 4 1 = 0 ∧ (s.secp p).ep1 = [] ∧ (s.secp p).ep2 = []) :=
  ⟨⟨(st9 true x9 f9 []), by decide +kernel⟩,
   ⟨(st9 true {x9 with signQ := [(1, z 64), (9, [])]} {f9 with cmds := [c9 1]} []), 1, (leBytes 64 0x0), [(9, [])], { serial := 1, opc := 0x20#8, hdr := { fence := false, resv := false, tag := 0x00000009#32, job := 0x00000000#32, arg0 := 0x0000000000000000#64, arg1 := 0x0000000000000000#64, arg2 := 0x0000000000000000#64, arg3 := 0x0000000000000000#64, arg4 := 0x0000000000000000#64, arg5 := 0x0000000000000000#64, payload := [] }, started := true, tArr := 0x0000000000000003#64, err := Sys2Proof.MemErr.none }, by decide +kernel⟩,
   ⟨(st9 true x9 f9 []), by decide +kernel⟩,
   ⟨(st9 true {x9 with hashQ := [(1, 0x20000, 0x40, []), (9,0,0,[])]} {f9 with cmds := [c9 1]} []), 1, 131072, 64, [], [(9, (0, (0, [])))], { serial := 1, opc := 0x20#8, hdr := { fence := false, resv := false, tag := 0x00000009#32, job := 0x00000000#32, arg0 := 0x0000000000000000#64, arg1 := 0x0000000000000000#64, arg2 := 0x0000000000000000#64, arg3 := 0x0000000000000000#64, arg4 := 0x0000000000000000#64, arg5 := 0x0000000000000000#64, payload := [] }, started := true, tArr := 0x0000000000000003#64, err := Sys2Proof.MemErr.none }, by decide +kernel⟩,
   ⟨(st9 true {x9 with hashQ := [(1, 0x20000, 0x1040, [])]} {f9 with cmds := [c9 1]} []), 1, 131072, 4160, [], [], { serial := 1, opc := 0x20#8, hdr := { fence := false, resv := false, tag := 0x00000009#32, job := 0x00000000#32, arg0 := 0x0000000000000000#64, arg1 := 0x0000000000000000#64, arg2 := 0x0000000000000000#64, arg3 := 0x0000000000000000#64, arg4 := 0x0000000000000000#64, arg5 := 0x0000000000000000#64, payload := [] }, started := true, tArr := 0x0000000000000003#64, err := Sys2Proof.MemErr.none }, by decide +kernel⟩,
   ⟨0, [], (st9 true x9 f9 []), by dsimp only [State.granted]; decide +kernel⟩,
   ⟨0, [], (st9 true x9 f9 []), by dsimp only [State.granted]; decide +kernel⟩⟩

/-- States and operands that meet the hypotheses of `Obligations.MgmtChecks`, clause by clause. -/
theorem wit_MgmtChecks :
    (∀ r ∈ Claims.mgmtRows, let h : CmdHdr := { CmdHdr.init with resv := true }; let s : State := { base with usb := { Usb.init with connected := true } }; s.takesMgmt ∧ (h.resv = true ∨ h.job ≠ 0#32 ∨ ∃ a ∈ (CmdArgs h).drop r.2.2, a ≠ 0)) ∧
    (let s : State := { base with usb := { Usb.init with connected := true }, dev := { base.dev with master := false } }; s.live = true ∧ s.usb.connected = true ∧ s.dev.master = false) :=
  ⟨fun _ _ => ⟨by dsimp only [State.takesMgmt]; decide +kernel, .inl rfl⟩,
   by decide +kernel⟩

/-- States and operands that meet the hypotheses of `Obligations.PartitionCommands`, clause by clause. -/
theorem wit_PartitionCommands :
    (∃ (h : CmdHdr), ∃ (s : State), let p := h.arg0.toNat; let cl := BitVec.ofNat 8 h.arg1.toNat; let st := BitVec.ofNat 8 (h.arg1.toNat / 256); s.takesMgmt ∧ mgmtIllegal 0x40 h = false ∧ s.createRefused p cl st h.arg4.toNat = false ∧ s.usbStreams = true) ∧
    (∃ (h : CmdHdr) (s : State), let p := h.arg0.toNat; let cl := BitVec.ofNat 8 h.arg1.toNat; s.takesMgmt ∧ mgmtIllegal 0x40 h = false ∧ (s.exists? p = true ∨ ∃ n, n < 8 ∧ cl.getLsbD n = true ∧ (s.ownerCl n).isSome = true)) ∧
    (∃ (h : CmdHdr), ∃ (s : State), let p := h.arg0.toNat; let cl := BitVec.ofNat 8 h.arg1.toNat; let st := BitVec.ofNat 8 (h.arg1.toNat / 256); s.takesMgmt ∧ mgmtIllegal 0x41 h = false ∧ s.changeRefused p cl st = false ∧ (s.part p).jobs = []) ∧
    (∃ (h : CmdHdr), ∃ (s : State), let p := h.arg0.toNat; s.takesMgmt ∧ mgmtIllegal 0x42 h = false ∧ s.exists? p = true ∧ (s.part p).scrubCmd = none ∧ (s.func p).st = .operating ∧ (s.func p).cmds = []) ∧
    (∃ (h : CmdHdr), ∃ (s : State), let p := h.arg0.toNat; s.takesMgmt ∧ mgmtIllegal 0x43 h = false ∧ s.exists? p = true ∧ s.scrubbing p = false ∧ s.settled p ∧ (s.func p).cmds = [] ∧ (∀ c ∈ s.clustersOf p, ∀ i, i < 9 → (s.core (coreKey c i)).chunkq = [] ∧ (s.core (coreKey c i)).dmaq = [] ∧ (s.core (coreKey c i)).claims = [])) ∧
    (∀ r ∈ ([(.partDestroy, 0x42), (.partReset, 0x43), (.funcDisable, 0x44), (.funcEnable, 0x45)] : List ((CmdHdr → Instr) × Nat)), let h : CmdHdr := (hs9.getD 3 CmdHdr.init); let s : State := (st9b f9b [] p9); let p := h.arg0.toNat; s.takesMgmt ∧ mgmtIllegal r.2 h = false ∧ s.exists? p = false) :=
  ⟨⟨(hs9.getD 6 CmdHdr.init), (st9b f9b [] p9), by dsimp only [State.takesMgmt]; decide +kernel⟩,
   ⟨H 0 0x0102 0 1 64, st9b f9b [] p9, by dsimp only [State.takesMgmt]; decide +kernel, by decide +kernel, .inl (by decide +kernel)⟩,
   ⟨(hs9.getD 11 CmdHdr.init), (st9b f9b [(0, core0 (thr 0#64 []))] {p9 with jobs := []}), by dsimp only [State.takesMgmt]; decide +kernel⟩,
   ⟨(hs9.getD 0 CmdHdr.init), (st9b f9b [] p9), by dsimp only [State.takesMgmt]; decide +kernel⟩,
   ⟨(hs9.getD 0 CmdHdr.init), (st9b f9b [(0, core0 (thr 0#64 []))] {p9 with jobs := []}), by (try dsimp only [State.takesMgmt]); (repeat' with_reducible apply And.intro) <;> first | exact settled_of (by decide +kernel) | decide +kernel⟩,
   by dsimp only [State.takesMgmt]; decide +kernel⟩

/-- States and operands that meet the hypotheses of `Obligations.ManagementCommands`, clause by clause. -/
theorem wit_ManagementCommands :
    (∃ (h : CmdHdr), ∃ (s : State), let p := h.arg0.toNat; s.takesMgmt ∧ mgmtIllegal 0x44 h = false ∧ s.exists? p = true ∧ (s.func p).st = .operating ∧ (s.func p).cmds = []) ∧
    (∃ (h : CmdHdr), ∃ (s : State), let p := h.arg0.toNat; s.takesMgmt ∧ mgmtIllegal 0x45 h = false ∧ s.exists? p = true ∧ s.scrubbing p = false ∧ (s.func p).st = .off ∧ (s.part p).scrubCmd = none ∧ s.usbStreams = true) ∧
    (∃ (h : CmdHdr), ∃ (s : State), let p := h.arg0.toNat; let n := h.arg1.toNat; let rest := (upTo 8).foldl (fun a q => if q = p then a else a + (s.usb.share.get 0#7 q).toNat) 0; s.takesMgmt ∧ mgmtIllegal 0x46 h = false ∧ rest + n ≤ 64) ∧
    (∃ (h : CmdHdr), ∃ (s : State), let p := h.arg0.toNat; let n := h.arg1.toNat; let rest := (upTo 8).foldl (fun a q => if q = p then a else a + (s.usb.share.get 0#7 q).toNat) 0; s.takesMgmt ∧ mgmtIllegal 0x46 h = false ∧ 64 < rest + n) ∧
    (∃ (h : CmdHdr), ∃ (s : State), let p := h.arg0.toNat; let n := h.arg1.toNat; s.takesMgmt ∧ mgmtIllegal 0x47 h = false ∧ headerFits h 3 n = true ∧ (s.mgmtData h.payload.length).isSome = true ∧ 0x1000000 ≤ p ∧ p + n ≤ 0x4000000) ∧
    (∃ (h : CmdHdr), ∃ (s : State), let p := h.arg0.toNat; let n := h.arg1.toNat; s.takesMgmt ∧ mgmtIllegal 0x47 h = false ∧ headerFits h 3 n = true ∧ (s.mgmtData h.payload.length).isSome = true ∧ (p < 0x1000000 ∨ 0x4000000 < p + n)) ∧
    (∃ (h : CmdHdr), ∃ (s : State), let p := h.arg0.toNat; let n := h.arg1.toNat; s.takesMgmt ∧ mgmtIllegal 0x48 h = false ∧ p + n ≤ 0x4000000) ∧
    (∃ (h : CmdHdr), ∃ (s : State), s.takesMgmt ∧ mgmtIllegal 0x49 h = false ∧ headerFits h 2 (recN h.payload 8 8) = true ∧ (s.mgmtData h.payload.length).isSome = true) ∧
    (∃ (h : CmdHdr), ∃ (s : State), s.takesMgmt ∧ mgmtIllegal 0x4A h = false) ∧
    (∃ (h : CmdHdr), ∃ (s : State), ∃ c, ∃ i, let p := h.arg0.toNat; let n := h.arg1.toNat; s.takesMgmt ∧ mgmtIllegal 0x4B h = false ∧ p = 0 ∧ n = 16 * i + c ∧ c < 8 ∧ i < 9 ∧ (s.cl c).pstate.get 0#2 i = 0#2 ∧ (s.core (coreKey c i)).switching = none) ∧
    (∃ (h : CmdHdr), ∃ (s : State), ∃ c, ∃ i, let p := h.arg0.toNat; let n := h.arg1.toNat; s.takesMgmt ∧ mgmtIllegal 0x4C h = false ∧ p = 0 ∧ n = 16 * i + c ∧ c < 8 ∧ i < 9 ∧ (s.cl c).pstate.get 0#2 i = 2#2 ∧ (s.cl c).pepoch.get 0#16 i ≠ 0xFFFF#16 ∧ (∀ l, l < 8 → (s.physCore c l).isSome = true)) ∧
    (∃ (h : CmdHdr), ∃ (s : State), let p := h.arg0.toNat; s.takesMgmt ∧ mgmtIllegal 0x4C h = false ∧ p = 1) ∧
    (∃ (h : CmdHdr), ∃ (s : State), let p := h.arg0.toNat; let n := h.arg1.toNat; s.takesMgmt ∧ mgmtIllegal 0x4D h = false ∧ s.exists? p = true ∧ (n = 0 ∨ (s.linkUp 6 = true ∧ (s.conf p = true → (s.secp p).jobKey.isSome = true)))) :=
  ⟨⟨(hs9c.getD 0 CmdHdr.init), (st9c f9 cl9), by dsimp only [State.takesMgmt]; decide +kernel⟩,
   ⟨(hs9c.getD 0 CmdHdr.init), (st9c {f9 with st := .off} cl9), by dsimp only [State.takesMgmt]; decide +kernel⟩,
   ⟨(hs9c.getD 0 CmdHdr.init), (st9c f9 cl9), by dsimp only [State.takesMgmt]; decide +kernel⟩,
   ⟨(hs9c.getD 2 CmdHdr.init), (st9c f9 cl9), by dsimp only [State.takesMgmt]; decide +kernel⟩,
   ⟨(hs9c.getD 5 CmdHdr.init), (st9c f9 cl9), by dsimp only [State.takesMgmt]; decide +kernel⟩,
   ⟨(hs9c.getD 7 CmdHdr.init), (st9c f9 cl9), by dsimp only [State.takesMgmt]; decide +kernel⟩,
   ⟨(hs9c.getD 0 CmdHdr.init), (st9c f9 cl9), by dsimp only [State.takesMgmt]; decide +kernel⟩,
   ⟨(hs9c.getD 10 CmdHdr.init), (st9c f9 cl9), by dsimp only [State.takesMgmt]; decide +kernel⟩,
   ⟨(hs9c.getD 8 CmdHdr.init), (st9c f9 cl9), by dsimp only [State.takesMgmt]; decide +kernel⟩,
   ⟨(hs9c.getD 0 CmdHdr.init), (st9c f9 cl9), 0, 0, by dsimp only [State.takesMgmt]; decide +kernel⟩,
   ⟨(hs9c.getD 0 CmdHdr.init), (st9c f9 {cl9 with pstate := [(0, 2#2), (8, 2#2)]}), 0, 0, by dsimp only [State.takesMgmt]; decide +kernel⟩,
   ⟨(hs9c.getD 14 CmdHdr.init), (st9c f9 cl9), by dsimp only [State.takesMgmt]; decide +kernel⟩,
   ⟨(hs9c.getD 0 CmdHdr.init), (st9c f9 cl9), by dsimp only [State.takesMgmt]; decide +kernel⟩⟩

/-- States and operands that meet the hypotheses of `Obligations.FunctionsEnd`, clause by clause. -/
theorem wit_FunctionsEnd :
    (∃ (s : State), ∃ (c : Completion), ∃ (rest : List Completion), s.live = true ∧ s.usb.connected = true ∧ s.boot.running = true ∧ s.dev.master = true ∧ s.usb.mgmtOut = c :: rest) ∧
    (∃ (s : State), s.live = true ∧ s.usb.connected = true) ∧
    (∃ (q : Fin 8), ∃ (s : State), ∃ (c : HCmd), s.live = true ∧ (s.func q.val).st = .draining ∧ (s.func q.val).dNs.toNat + 1000000 ≤ s.ns ∧ (s.func q.val).cmds = [c] ∧ c.started = false) ∧
    (∃ (q : Fin 8), ∃ (s : State), s.live = true ∧ (s.func q.val).st = .draining ∧ (s.func q.val).cmds = [] ∧ ((∀ x ∈ (s.func q.val).out, x.req = true) ∨ (s.func q.val).dNs.toNat + 10000000 ≤ s.ns)) ∧
    (∃ (q : Fin 8), ∃ (s : State), s.live = true ∧ (s.part q.val).scrubCmd.isSome = true ∧ s.scrubbing q.val = false ∧ (s.func q.val).cmds = []) ∧
    (∃ (q : Fin 8), ∃ (s : State), ∃ (c : HCmd), ∃ (x : Bool × BitVec 8 × BitVec 8), s.live = true ∧ (s.part q.val).scrub = some x ∧ (s.part q.val).scrubCmd = some c.serial ∧ s.scrubbing q.val = true ∧ s.usb.mgmtCmds = [c]) :=
  ⟨⟨(st9d {f9 with st := .draining, dNs := 1000#64, cmds := [cc9 false]} (base.part 0) [] 1), {Completion.init with tag := 5#32}, [Completion.init], by decide +kernel⟩,
   ⟨(st9d {f9 with st := .draining, dNs := 1000#64, cmds := [cc9 false]} (base.part 0) [] 1), by decide +kernel⟩,
   ⟨0, (st9d {f9 with st := .draining, dNs := 1000#64, cmds := [cc9 false]} (base.part 0) [] 1), (cc9 false), by decide +kernel⟩,
   ⟨0, (st9d {f9 with st := .draining, dNs := 10000020#64, in2 := []} (base.part 0) [] 1), by decide +kernel⟩,
   ⟨0, (st9d {f9 with st := .off} {base.part 0 with scrubCmd := some 3} [cc9 true] 1), by decide +kernel⟩,
   ⟨0, (st9d {f9 with st := .off} {base.part 0 with scrubCmd := some 3, scrub := some (true, 1#8, 1#8), scrubNs := 10#64} [cc9 true] 2), (cc9 true), (true, (0x01#8, 0x01#8)), by decide +kernel⟩⟩

/-- States and operands that meet the hypotheses of `Obligations.UsbEvents`, clause by clause. -/
theorem wit_UsbEvents :
    (∃ (v : BitVec 3), ∃ (s : State), s.live = true ∧ s.usb.connected = false ∧ 1 ≤ v.toNat ∧ v.toNat ≤ 5 ∧ s.usb.mgmtCmds = []) ∧
    (∃ (s : State), s.live = true ∧ (∀ p, p < 8 → (s.func p).cmds = [])) ∧
    (∃ (s : State), s.live = true ∧ s.usb.connected = true) ∧
    (∃ (p : Fin 8), ∃ (s : State), ∃ (c : Completion), ∃ (r : List Completion), s.live = true ∧ s.portOpen = true ∧ s.funcSends p.val = true ∧ (s.func p.val).out = c :: r ∧ s.usb.mgmtCmds = [] ∧ s.granted p.val 64) ∧
    (∃ (p : Fin 8), ∃ (s : State), ∃ (c : Completion), ∃ (r : List Completion), s.live = true ∧ s.portOpen = true ∧ s.funcSends p.val = true ∧ (s.func p.val).out = c :: r ∧ s.usb.mgmtCmds = [] ∧ ¬ s.granted p.val 64) ∧
    (∃ (s : State), ∃ (e : EventRec), ∃ (r : List EventRec), s.live = true ∧ s.usbBulk = true ∧ s.dev.master = true ∧ s.usb.evq.get [] 8 = e :: r) :=
  ⟨⟨0x1#3, (stu false {Func.init with st := .off}), by decide +kernel⟩,
   ⟨(stu false {Func.init with st := .off}), by decide +kernel⟩,
   ⟨(stu true {Func.init with st := .operating, out := [{Completion.init with tag := 5#32}, Completion.init]}), by decide +kernel⟩,
   ⟨0, (stu true {Func.init with st := .operating, out := [{Completion.init with tag := 5#32}, Completion.init]}), {Completion.init with tag := 5#32}, [Completion.init], by dsimp only [State.granted]; decide +kernel⟩,
   ⟨0, {stu true {Func.init with st := .operating, out := [{Completion.init with tag := 5#32}, Completion.init]} with dev := {base.dev with own := [(0, { clusters := 1#8, stks := 1#8, conf := true, v := true })]}}, {Completion.init with tag := 5#32}, [Completion.init], by dsimp only [State.granted]; decide +kernel⟩,
   ⟨(stu true {Func.init with st := .operating, out := [{Completion.init with tag := 5#32}, Completion.init]}), EventRec.init, ([{EventRec.init with code := 3}]), by decide +kernel⟩⟩

/-- States and operands that meet the hypotheses of `Obligations.CsrAccesses`, clause by clause. -/
theorem wit_CsrAccesses :
    (∃ (off : BitVec 24), ∃ (s : State), Claims.ep0 s ∧ off.toNat % 4 = 0 ∧ off.toNat < 0x10000 ∧ dangerChk off.toNat = none) ∧
    (∃ (s : State), Claims.ep0 s) ∧
    (∃ (data : List Byte), ∃ (s : State), Claims.ep0 s ∧ data.length = 4) ∧
    (∃ (off : BitVec 24), ∃ (n : BitVec 16), ∃ (s : State), Claims.ep0 s ∧ (off.toNat % 4 ≠ 0 ∨ n.toNat % 4 ≠ 0 ∨ n.toNat < 4 ∨ 1024 < n.toNat)) ∧
    (∃ (off : BitVec 24), ∃ (data : List Byte), ∃ (s : State), Claims.ep0 s ∧ (off.toNat % 4 ≠ 0 ∨ data.length % 4 ≠ 0 ∨ data.length < 4 ∨ 1024 < data.length)) ∧
    (∃ (s : State), s.live = true ∧ s.ethOn = true ∧ (s.bank .mgmt 1).addr = 0#32) ∧
    (∃ (s : State), s.live = true ∧ s.ethOn = false ∧ (s.bank .mgmt 1).waiting.length < 8) ∧
    (∃ (r : Requester), ∃ (blk : BitVec 24), ∃ (k : Nat), ∃ (s : State), ∃ (a : Option W32), ∃ (l : List (Option W32)), s.live = true ∧ pairOfBase blk.toNat = some k ∧ (s.bank r k).waiting = a :: l) ∧
    (∃ (r : Requester), ∃ (s : State), s.live = true ∧ (r = .mgmt ∨ r = .devCtl)) ∧
    (∃ (r : Requester), ∃ (c : CoreId), ∃ (n : BitVec 12), ∃ (s : State), s.live = true ∧ (r = .mgmt ∨ r = .devCtl) ∧ (s.cl c.cl.val).powered = true ∧ n.toNat < 128 ∧ s.confCl c.cl.val = false ∧ cntListed n.toNat = true) :=
  ⟨⟨0x000000#24, {stc [] true with gaf := {Gaf.init with state := 2#3}}, by dsimp only [Claims.ep0]; decide +kernel⟩,
   ⟨{stc [] true with gaf := {Gaf.init with state := 2#3}}, by dsimp only [Claims.ep0]; decide +kernel⟩,
   ⟨[0x01#8, 0x02#8, 0x03#8, 0x04#8], {stc [] true with gaf := {Gaf.init with state := 2#3}}, by dsimp only [Claims.ep0]; decide +kernel⟩,
   ⟨0x000000#24, 0x0000#16, {stc [] true with gaf := {Gaf.init with state := 2#3}}, by dsimp only [Claims.ep0]; decide +kernel⟩,
   ⟨0x000000#24, [], {stc [] true with gaf := {Gaf.init with state := 2#3}}, by dsimp only [Claims.ep0]; decide +kernel⟩,
   ⟨(stc [] true), by decide +kernel⟩,
   ⟨{stc [] true with gaf := {Gaf.init with state := 2#3}}, by decide +kernel⟩,
   ⟨Sys2Proof.Requester.devCtl, 0x060000#24, 1, (stc ((upTo 64).map (fun k => (k, bk [none, some 5#32] 0#32 true))) false), none, [(some 0x00000005#32)], by decide +kernel⟩,
   ⟨Sys2Proof.Requester.devCtl, {stc [] true with gaf := {Gaf.init with state := 2#3}}, by decide +kernel⟩,
   ⟨Sys2Proof.Requester.devCtl, ⟨0, 0⟩, 0x000#12, {stc [] true with gaf := {Gaf.init with state := 2#3}}, by decide +kernel⟩⟩

/-- States and operands that meet the hypotheses of `Obligations.DangerousRegisters`, clause by clause. -/
theorem wit_DangerousRegisters :
    (∃ (r : Requester), ∃ (s : State), s.live = true ∧ (r = .mgmt ∨ r = .devCtl)) ∧
    (∃ (r : Requester), ∃ (v : W32), ∃ (s : State), ∃ (d : Danger), s.live = true ∧ (r = .mgmt ∨ r = .devCtl) ∧ s.danger.find (dangerKey r 0x14) = some d ∧ d.ok = false ∧ s.cycle ≤ d.atCyc + 64 ∧ v = ~~~d.val) ∧
    (∃ (r : Requester), ∃ (v : W32), ∃ (s : State), ∃ (d : Danger), s.live = true ∧ (r = .mgmt ∨ r = .devCtl) ∧ s.danger.find (dangerKey r 0x14) = some d ∧ d.ok = false ∧ s.cycle ≤ d.atCyc + 64 ∧ v ≠ ~~~d.val) ∧
    (∃ (r : Requester), ∃ (s : State), ∃ (d : Danger), s.live = true ∧ s.danger.find (dangerKey r 0x14) = some d ∧ d.ok = false ∧ d.atCyc + 64 ≤ s.cycle) ∧
    (∃ (s : State), s.live = true ∧ s.dev.crcEn = true ∧ s.gaf.state ≠ 3#3) ∧
    (∃ (s : State), ∃ (b : Bool), s.live = true ∧ s.dev.crcRun = some b) ∧
    (∃ (s : State), s.live = true) :=
  ⟨⟨Sys2Proof.Requester.devCtl, (stdg [] 100 base.dev), by decide +kernel⟩,
   ⟨Sys2Proof.Requester.devCtl, 0xfffedcba#32, (stdg ((upTo 3).flatMap (fun r => [(dangerKey .mgmt 0x14, dg 0x12345#32 false), (dangerKey .devCtl 0x14, dg 0x12345#32 false)])) 164 base.dev), (dg 0x12345#32 false), by decide +kernel⟩,
   ⟨Sys2Proof.Requester.devCtl, 0x00012345#32, (stdg ((upTo 3).flatMap (fun r => [(dangerKey .mgmt 0x14, dg 0x12345#32 false), (dangerKey .devCtl 0x14, dg 0x12345#32 false)])) 164 base.dev), (dg 0x12345#32 false), by decide +kernel⟩,
   ⟨Sys2Proof.Requester.devCtl, (stdg ((upTo 3).flatMap (fun r => [(dangerKey .mgmt 0x14, dg 0x12345#32 false), (dangerKey .devCtl 0x14, dg 0x12345#32 false)])) 164 base.dev), (dg 0x12345#32 false), by decide +kernel⟩,
   ⟨(stdg [] 100 {base.dev with crcEn := true}), by decide +kernel⟩,
   ⟨(stdg [] 100 {base.dev with crcEn := true, crcRun := some false, crcArmed := true, crcRskip := 0}), false, by decide +kernel⟩,
   ⟨(stdg [] 100 base.dev), by decide +kernel⟩⟩

/-- States and operands that meet the hypotheses of `Obligations.SupplierDecides`, clause by clause. -/
theorem wit_SupplierDecides :
    (∃ (q : Fin 8), ∃ (s : State), ∃ (m : Nat × List Byte), ∃ (rest : List (Nat × List Byte)), ∃ c, let p := q.val; let l := m.2; let idle : Prop := s.gaf.cur = none ∧ s.gaf.waiting = [] ∧ s.gaf.clTrans = []; Claims.decides s p 1 m rest ∧ idle ∧ s.physCl p (recN l 8 1) = some c ∧ c < 8 ∧ s.gaf.state.toNat < 2 ∧ (s.cl c).powered = true) ∧
    (∃ (q : Fin 8), ∃ (s : State), ∃ (m : Nat × List Byte), ∃ (rest : List (Nat × List Byte)), ∃ c, let p := q.val; let l := m.2; let idle : Prop := s.gaf.cur = none ∧ s.gaf.waiting = [] ∧ s.gaf.clTrans = []; Claims.decides s p 2 m rest ∧ idle ∧ s.physCl p (recN l 8 1) = some c ∧ c < 8 ∧ s.gaf.state.toNat < 2 ∧ (s.cl c).powered = false) ∧
    (∃ (q : Fin 8), ∃ (s : State), ∃ (m : Nat × List Byte), ∃ (rest : List (Nat × List Byte)), ∃ (on : Bool), let p := q.val; let l := m.2; let idle : Prop := s.gaf.cur = none ∧ s.gaf.waiting = [] ∧ s.gaf.clTrans = []; Claims.decides s p (if on then 2 else 1) m rest ∧ (s.physCl p (recN l 8 1) = none ∨ (idle ∧ 2 ≤ s.gaf.state.toNat))) ∧
    (∃ (q : Fin 8), ∃ (s : State), ∃ (m : Nat × List Byte), ∃ (rest : List (Nat × List Byte)), ∃ (on : Bool), ∃ c, let p := q.val; let l := m.2; let idle : Prop := s.gaf.cur = none ∧ s.gaf.waiting = [] ∧ s.gaf.clTrans = []; Claims.decides s p (if on then 2 else 1) m rest ∧ idle ∧ s.physCl p (recN l 8 1) = some c ∧ c < 8 ∧ s.gaf.state.toNat < 2 ∧ (s.cl c).powered = on) ∧
    (∃ (q : Fin 8), ∃ (s : State), ∃ (m : Nat × List Byte), ∃ (rest : List (Nat × List Byte)), let p := q.val; let l := m.2; let idle : Prop := s.gaf.cur = none ∧ s.gaf.waiting = [] ∧ s.gaf.clTrans = []; Claims.decides s p 3 m rest ∧ idle ∧ recN l 8 1 = 1 ∧ recN l 9 1 = 3 ∧ s.gaf.state = 2#3 ∧ s.feedPart = 15 ∧ s.pins.mainOff = false ∧ (s.gaf.wakeThr.get 0x8000#16 1).toNat ≤ recN l 12 2 ∧ s.usb.evq.get [] 8 = [] ∧ (∀ c, c < 8 → bitsAt (s.trace c).cfg.toNat 20 8 ≠ 1)) ∧
    (∃ (q : Fin 8), ∃ (s : State), ∃ (m : Nat × List Byte), ∃ (rest : List (Nat × List Byte)), let p := q.val; let l := m.2; Claims.decides s p 3 m rest ∧ (recN l 8 1 < 1 ∨ 2 < recN l 8 1 ∨ recN l 9 1 ≤ recN l 8 1 ∨ 3 < recN l 9 1)) ∧
    (∃ (q : Fin 8), ∃ (s : State), ∃ (m : Nat × List Byte), ∃ (rest : List (Nat × List Byte)), ∃ k, let p := q.val; let l := m.2; Claims.decides s p 4 m rest ∧ recN l 8 1 < 64 ∧ recN l 9 1 ≤ 7 ∧ s.conf p = false ∧ s.logKey p (recN l 8 1 / 8 % 8) (recN l 8 1 % 8) = some k) ∧
    (∃ (q : Fin 8), ∃ (s : State), ∃ (m : Nat × List Byte), ∃ (rest : List (Nat × List Byte)), let p := q.val; let l := m.2; Claims.decides s p 5 m rest ∧ recN l 8 1 = 2 ∧ recN l 12 4 % 4 = 0 ∧ 0x3000 ≤ recN l 12 4 ∧ recN l 12 4 < 0x3100 ∧ s.tdmPart ((recN l 12 4 - 0x3000) / 64) = p) ∧
    (∃ (q : Fin 8), ∃ (s : State), ∃ (m : Nat × List Byte), ∃ (rest : List (Nat × List Byte)), ∃ c, ∃ o, let p := q.val; let l := m.2; Claims.decides s p 6 m rest ∧ recN l 8 1 = 2 ∧ recN l 12 4 % 4 = 0 ∧ 0x3000 ≤ recN l 12 4 ∧ recN l 12 4 < 0x3100 ∧ s.tdmPart ((recN l 12 4 - 0x3000) / 64) = p ∧ regionOf (recN l 24 8) = .cluster c o ∧ s.ownerCl c = some p ∧ recN l 24 8 % 4 = 0) ∧
    (∀ r ∈ ([(.portWr, 5), (.portRd, 6)] : List ((Fin 8 → Instr) × Nat)), ∃ x ∈ ([((l10State_0.getD 52 State.reset), (l10NatLis_1.getD 13 (0, []))), ((l10State_0.getD 48 State.reset), (l10NatLis_1.getD 12 (0, [])))] : List (State × Nat × List Byte)), let q : Fin 8 := 0; let rest : List (Nat × List Byte) := ([(0, z 64)]); let s := x.1; let m := x.2; let p := q.val; let l := m.2; Claims.decides s p r.2 m rest ∧ 3 ≤ recN l 8 1) ∧
    (∃ (q : Fin 8), ∃ (s : State), ∃ (m : Nat × List Byte), let p := q.val; s.live = true ∧ s.boot.running = true ∧ (s.mboxTurn + 1) % 8 = p ∧ (s.mboxDone = true ∨ (s.part s.mboxTurn).mbox = []) ∧ (s.part p).mbox = []) ∧
    (∃ (q : Fin 8), ∃ (s : State), ∃ (m : Nat × List Byte), ∃ (rest : List (Nat × List Byte)), let p := q.val; let l := m.2; s.live = true ∧ s.boot.running = true ∧ (s.mboxTurn + 1) % 8 = p ∧ (s.mboxDone = true ∨ (s.part s.mboxTurn).mbox = []) ∧ (s.part p).mbox = m :: rest ∧ 1 ≤ mbCode l ∧ mbCode l ≤ 6) ∧
    (∃ (q : Fin 8), ∃ (s : State), ∃ (m : Nat × List Byte), ∃ (rest : List (Nat × List Byte)), let p := q.val; let l := m.2; s.live = true ∧ s.boot.running = true ∧ (s.mboxTurn + 1) % 8 = p ∧ (s.mboxDone = true ∨ (s.part s.mboxTurn).mbox = []) ∧ (s.part p).mbox = m :: rest ∧ (mbCode l = 0 ∨ 6 < mbCode l) ∧ (∀ c ∈ s.clustersOf p, (s.cl c).ctl.mboxWait = none) ∧ (s.cl m.1).ctl.wfe = none) ∧
    (∃ (q : Fin 8), ∃ (s : State), ∃ (m : Nat × List Byte), ∃ (rest : List (Nat × List Byte)), let p := q.val; let l := m.2; Claims.decides s p 3 m rest ∧ (recN l 8 1 < 1 ∨ 2 < recN l 8 1 ∨ recN l 9 1 ≤ recN l 8 1 ∨ 3 < recN l 9 1) ∧ (s.part ((p + 1) % 8)).mbox = []) :=
  ⟨⟨0, (l10State_0.getD 0 State.reset), (l10NatLis_1.getD 0 (0, [])), ([(0, z 64)]), 0, by dsimp only [Claims.decides]; decide +kernel⟩,
   ⟨0, (l10State_0.getD 10 State.reset), (l10NatLis_1.getD 2 (0, [])), ([(0, z 64)]), 0, by dsimp only [Claims.decides]; decide +kernel⟩,
   ⟨0, (l10State_0.getD 1 State.reset), (l10NatLis_1.getD 0 (0, [])), ([(0, z 64)]), false, by dsimp only [Claims.decides]; decide +kernel⟩,
   ⟨0, (l10State_0.getD 2 State.reset), (l10NatLis_1.getD 0 (0, [])), ([(0, z 64)]), false, 0, by dsimp only [Claims.decides]; decide +kernel⟩,
   ⟨0, (l10State_0.getD 13 State.reset), (l10NatLis_1.getD 3 (0, [])), ([(0, z 64)]), by dsimp only [Claims.decides]; decide +kernel⟩,
   ⟨0, (l10State_0.getD 16 State.reset), (l10NatLis_1.getD 4 (0, [])), ([(0, z 64)]), by dsimp only [Claims.decides]; decide +kernel⟩,
   ⟨0, (l10State_0.getD 28 State.reset), (l10NatLis_1.getD 7 (0, [])), ([(0, z 64)]), 0, by dsimp only [Claims.decides]; decide +kernel⟩,
   ⟨0, (l10State_0.getD 40 State.reset), (l10NatLis_1.getD 10 (0, [])), ([(0, z 64)]), by dsimp only [Claims.decides]; decide +kernel⟩,
   ⟨0, (l10State_0.getD 44 State.reset), (l10NatLis_1.getD 11 (0, [])), ([(0, z 64)]), 0, 16, by dsimp only [Claims.decides]; decide +kernel⟩,
   by dsimp only [Claims.decides]; decide +kernel,
   ⟨0, (l10State_0.getD 66 State.reset), (l10NatLis_1.getD 0 (0, [])), by decide +kernel⟩,
   ⟨0, (l10State_0.getD 65 State.reset), (l10NatLis_1.getD 12 (0, [])), ([(0, z 64)]), by decide +kernel⟩,
   ⟨0, (l10State_0.getD 64 State.reset), (l10NatLis_1.getD 14 (0, [])), ([(0, z 64)]), by decide +kernel⟩,
   ⟨0, (l10State_0.getD 16 State.reset), (l10NatLis_1.getD 4 (0, [])), ([(0, z 64)]), by dsimp only [Claims.decides]; decide +kernel⟩⟩

/-- States and operands that meet the hypotheses of `Obligations.HbmEvents`, clause by clause. -/
theorem wit_HbmEvents :
    (∃ (n : Fin 8), ∃ (s : State), s.live = true ∧ (s.stack n.val).state = 2#2) ∧
    (∃ (n : Fin 8), ∃ (s : State), ∃ (r : Nat × Nat), ∃ (l : List (Nat × Nat)), s.live = true ∧ (s.stack n.val).repairing = r :: l) ∧
    (∃ (n : Fin 8), ∃ (s : State), s.live = true ∧ (s.stack n.val).failed = false ∧ (∀ k, s.noTrace k)) :=
  ⟨⟨0, {base with hbm := [(0, {Hbm.init with state := 2#2, repairing := [(3,4), (1,2)], repaired := 255#8}), (7, {Hbm.init with state := 2#2, repairing := [(3,4), (1,2)]})]}, by decide +kernel⟩,
   ⟨0, {base with hbm := [(0, {Hbm.init with state := 2#2, repairing := [(3,4), (1,2)], repaired := 255#8}), (7, {Hbm.init with state := 2#2, repairing := [(3,4), (1,2)]})]}, (3, 4), [(1, 2)], by decide +kernel⟩,
   ⟨0, {base with hbm := [(0, {Hbm.init with state := 2#2, repairing := [(3,4), (1,2)], repaired := 255#8}), (7, {Hbm.init with state := 2#2, repairing := [(3,4), (1,2)]})]}, by (try dsimp only); (repeat' with_reducible apply And.intro) <;> first | exact noTrace_of (by decide +kernel) | decide +kernel⟩⟩

/-- States and operands that meet the hypotheses of `Obligations.GafferRequests`, clause by clause. -/
theorem wit_GafferRequests :
    (∃ (s : State), s.gafLive = true ∧ Claims.still s ∧ s.gaf.state = 2#3) ∧
    (∃ (s : State), ∃ w, s.gafLive = true ∧ Claims.still s ∧ s.gaf.state.toNat ≤ 1 ∧ s.watchPart = some w) ∧
    (∃ (s : State), s.gafLive = true ∧ Claims.still s ∧ s.gaf.state.toNat ≤ 1 ∧ s.watchPart = none) ∧
    (∃ (s : State), s.gafLive = true ∧ Claims.still s ∧ s.gaf.state.toNat ≤ 1) ∧
    (∃ (s : State), s.gafLive = true ∧ s.gaf.cur.isSome = true) :=
  ⟨⟨(stg 2 none [] Gaf.init), by dsimp only [Claims.still, Job.still]; decide +kernel⟩,
   ⟨(stg 0 none [] Gaf.init), 0, by dsimp only [Claims.still, Job.still]; decide +kernel⟩,
   ⟨(stg 1 none [] {Gaf.init with watchCl := 1#3}), by dsimp only [Claims.still, Job.still]; decide +kernel⟩,
   ⟨(stg 0 none [] Gaf.init), by dsimp only [Claims.still, Job.still]; decide +kernel⟩,
   ⟨(stg 0 (some tr0) [] Gaf.init), by decide +kernel⟩⟩

/-- States and operands that meet the hypotheses of `Obligations.Handshake`, clause by clause. -/
theorem wit_Handshake :
    (∃ (w : Option (Fin 8)), ∃ (b : Fin 27), ∃ (s : State), ∃ (x : Trans), s.gafLive = true ∧ s.trans w = some x ∧ x.committed = false ∧ x.asked.find b.val = some 3#2 ∧ s.hsAnswer x b.val = .grant) ∧
    (∃ (w : Option (Fin 8)), ∃ (b : Fin 27), ∃ (s : State), ∃ (x : Trans), s.gafLive = true ∧ s.trans w = some x ∧ x.committed = false ∧ x.asked.find b.val = some 3#2 ∧ s.hsAnswer x b.val = .delay ∧ b.val ≠ 17) ∧
    (∃ (w : Option (Fin 8)), ∃ (b : Fin 27), ∃ (s : State), ∃ (x : Trans), s.gafLive = true ∧ s.trans w = some x ∧ x.committed = false ∧ x.asked.find b.val = some 2#2) ∧
    (∃ (w : Option (Fin 8)), ∃ (b : Fin 27), ∃ (s : State), ∃ (x : Trans), ∃ r, s.gafLive = true ∧ s.trans w = some x ∧ x.committed = false ∧ s.gaf.waiting = [] ∧ x.asked.has b.val = true ∧ s.hsAnswer x b.val = .refuse r) ∧
    (∃ (w : Option (Fin 8)), ∃ (s : State), ∃ (x : Trans), s.gafLive = true ∧ s.trans w = some x ∧ x.committed = false ∧ s.gaf.waiting = [] ∧ x.asked ≠ [] ∧ x.startNs.toNat + 1000000 * s.gaf.hsLimit.toNat ≤ s.ns) :=
  ⟨⟨none, 0, (l11State_1.getD 0 State.reset), (l11Trans_0.getD 0 Trans.init), by decide +kernel⟩,
   ⟨none, 0, (l11State_1.getD 1 State.reset), (l11Trans_0.getD 0 Trans.init), by decide +kernel⟩,
   ⟨none, 0, (l11State_1.getD 8 State.reset), (l11Trans_0.getD 2 Trans.init), by decide +kernel⟩,
   ⟨none, 1, (l11State_1.getD 2 State.reset), (l11Trans_0.getD 0 Trans.init), 2, by decide +kernel⟩,
   ⟨none, (l11State_1.getD 0 State.reset), (l11Trans_0.getD 0 Trans.init), by decide +kernel⟩⟩

/-- States and operands that meet the hypotheses of `Obligations.FallsAndRises`, clause by clause. -/
theorem wit_FallsAndRises :
    (∃ (s : State), ∃ (x : Trans), s.gafLive = true ∧ s.trans none = some x ∧ x.committed = true ∧ x.rising = false ∧ x.rise = 0#8 ∧ x.dev = true ∧ x.target = 3 ∧ s.gaf.waiting = []) ∧
    (∃ (p : Fin 8), ∃ (s : State), ∃ (x : Trans), s.gafLive = true ∧ s.trans (some p) = some x ∧ x.committed = true ∧ x.rising = false ∧ x.rise = 0#8 ∧ x.dev = false ∧ s.gaf.waiting = [] ∧ (∀ q i, (s.reel q i).slots ≠ [] → x.gate.getLsbD (keyCl (s.reel q i).core) = false)) ∧
    (∃ (w : Option (Fin 8)), ∃ (c : Nat), ∃ (s : State), ∃ (x : Trans), ∃ (r : List Nat), s.gafLive = true ∧ s.trans w = some x ∧ x.rising = true ∧ x.plan = (16 + c) :: r ∧ c < 8 ∧ s.gaf.railEn.getLsbD c = true) ∧
    (∃ (w : Option (Fin 8)), ∃ (c : Nat), ∃ (s : State), ∃ (x : Trans), ∃ (r : List Nat), s.gafLive = true ∧ s.trans w = some x ∧ x.rising = true ∧ x.plan = (16 + c) :: r ∧ c < 8 ∧ s.gaf.waiting = [] ∧ s.gaf.heldWake = none ∧ s.gaf.state.toNat ≤ 1) ∧
    (∃ (w : Option (Fin 8)), ∃ (s : State), ∃ (x : Trans), s.gafLive = true ∧ s.trans w = some x ∧ x.rising = true ∧ x.plan = [] ∧ s.gaf.waiting = [] ∧ s.gaf.heldWake = none) :=
  ⟨⟨(l11State_3.getD 0 State.reset), (l11Trans_2.getD 0 Trans.init), by decide +kernel⟩,
   ⟨0, (l11State_3.getD 10 State.reset), (l11Trans_2.getD 5 Trans.init), by (try dsimp only); (repeat' with_reducible apply And.intro) <;> first | exact fun q i h => absurd (noSlots_of (by decide +kernel) q i) h | decide +kernel⟩,
   ⟨none, 0, (l11State_3.getD 2 State.reset), (l11Trans_2.getD 1 Trans.init), [], by decide +kernel⟩,
   ⟨none, 0, (l11State_3.getD 2 State.reset), (l11Trans_2.getD 1 Trans.init), [], by decide +kernel⟩,
   ⟨none, (l11State_3.getD 8 State.reset), (l11Trans_2.getD 4 Trans.init), by decide +kernel⟩⟩

/-- States and operands that meet the hypotheses of `Obligations.Throttling`, clause by clause. -/
theorem wit_Throttling :
    (∃ (c : Fin 8), ∃ (s : State), ∃ (p : Nat), s.live = true ∧ s.ownerCl c.val = some p ∧ (s.cl c.val).powered = true ∧ s.gaf.emerg = false) ∧
    (∃ (v : Byte), ∃ (vr : Bool), ∃ (s : State), s.live = true ∧ (s.gaf.tempLimit.toNat ≤ v.toNat ∨ vr = true)) ∧
    (∃ (s : State), s.live = true) ∧
    (∃ (v : Byte), ∃ (s : State), s.dbg.freeze = 0#25 ∧ 105 ≤ v.toNat ∧ s.pins.mainOff = false ∧ s.pins.en ≠ 0#13) :=
  ⟨⟨0, (l11State_4.getD 1 State.reset), 0, by decide +kernel⟩,
   ⟨0x5e#8, true, (l11State_4.getD 0 State.reset), by decide +kernel⟩,
   ⟨(l11State_4.getD 0 State.reset), by decide +kernel⟩,
   ⟨0x69#8, (l11State_4.getD 0 State.reset), by decide +kernel⟩⟩

set_option maxRecDepth 1000000 in
/-- States and operands that meet the hypotheses of `Obligations.LinkFlits`, clause by clause. -/
theorem wit_LinkFlits :
    (∃ (l : Fin 7), ∃ (m : BitVec 5140), ∃ (s : State), s.live = true ∧ s.flitsOn l.val = true ∧ (s.link l.val).worn = [] ∧ crcGood m.toNat = true ∧ (let f := flitOf m.toNat; let x := s.link l.val; f.seq = x.rxSeq ∧ f.sb = none ∧ f.nak = false ∧ (∀ e ∈ f.cret, 9 < e.1.toNat) ∧ f.units = [])) ∧
    (∃ (l : Fin 7), ∃ (m : BitVec 5140), ∃ (s : State), ∃ c, ∃ u, s.live = true ∧ s.flitsOn l.val = true ∧ (s.link l.val).worn = [] ∧ crcGood m.toNat = true ∧ (let f := flitOf m.toNat; let x := s.link l.val; f.seq = x.rxSeq ∧ f.sb = none ∧ f.nak = false ∧ (∀ e ∈ f.cret, 9 < e.1.toNat) ∧ f.units = [(c, u)] ∧ 1 ≤ c.toNat ∧ c.toNat ≤ 6 ∧ f.owner.toNat ≤ 8 ∧ (let key := 8 * f.owner.toNat + c.toNat; x.part.get [] key = [] ∧ x.skip.get 0 key = 0 ∧ s.leaving l.val c.toNat f.owner.toNat = none ∧ s.transit l.val (packetOf u []) = none ∧ (packetOf u []).len ≠ 0#9))) ∧
    (∃ (l : Fin 7), ∃ (m : BitVec 5140), ∃ (s : State), ∃ c, ∃ u, ∃ o, s.live = true ∧ s.flitsOn l.val = true ∧ (s.link l.val).worn = [] ∧ crcGood m.toNat = true ∧ (let f := flitOf m.toNat; let x := s.link l.val; f.seq = x.rxSeq ∧ f.sb = none ∧ f.nak = false ∧ (∀ e ∈ f.cret, 9 < e.1.toNat) ∧ f.units = [(c, u)] ∧ 1 ≤ c.toNat ∧ c.toNat ≤ 6 ∧ f.owner.toNat ≤ 8 ∧ (let key := 8 * f.owner.toNat + c.toNat; x.part.get [] key = [] ∧ x.skip.get 0 key = 0 ∧ s.leaving l.val c.toNat f.owner.toNat = none ∧ s.transit l.val (packetOf u []) = some o ∧ o ≠ l.val))) ∧
    (∃ (l : Fin 7), ∃ (s : State), s.live = true ∧ s.flitsOn l.val = true) ∧
    (∃ (l : Fin 7), ∃ (m : BitVec 5140), ∃ (s : State), s.live = true ∧ s.flitsOn l.val = true ∧ (let x := s.link l.val; x.worn = [] ∧ crcGood m.toNat = false)) ∧
    (∃ (l : Fin 7), ∃ (m : BitVec 5140), ∃ (s : State), s.live = true ∧ s.flitsOn l.val = true ∧ (let x := s.link l.val; x.worn = [] ∧ crcGood m.toNat = true ∧ (flitOf m.toNat).seq ≠ x.rxSeq)) ∧
    (∃ (l : Fin 7), ∃ (i : Fin 544), ∃ (n : Nat), ∃ (s : State), s.live = true ∧ s.flitsOn l.val = true ∧ 1 ≤ n) ∧
    (∃ (l : Fin 7), ∃ (s : State), s.live = true ∧ s.flitsOn l.val = true ∧ (s.link l.val).discarding = true) ∧
    (∃ (l : Fin 7), ∃ (s : State), ∃ (n : BitVec 24), ∃ (r : List (BitVec 24)), ∃ (e : TxFlit), s.live = true ∧ s.flitsOn l.val = true ∧ (s.link l.val).resend = n :: r ∧ (s.link l.val).replay.find? (fun y => y.flit.seq == n) = some e ∧ e.sbPkt = none ∧ 8 ≤ e.flit.owner.toNat) ∧
    (∃ (l : Fin 7), ∃ (s : State), ∃ (c : Nat), ∃ (o : Nat), ∃ (k : Packet), s.live = true ∧ s.flitsOn l.val = true ∧ (s.link l.val).resend = [] ∧ (s.link l.val).replay.length < 256 ∧ (s.link l.val).sbq = [] ∧ (s.link l.val).txCur = [] ∧ (s.link l.val).txq = [{ TxEnt.init with input := 7, inCls := c, cls := c, pkt := k, units := packetBits k }] ∧ c = packetClass k ∧ c ≠ 0 ∧ k.len = 0#9 ∧ o = packetOwner k ∧ o = slotOwner (s.link l.val).slotmap ((s.link l.val).slotPos % 64) ∧ s.scrubbing o = false ∧ 28 ≤ (s.link l.val).credits o) :=
  ⟨⟨0, (codeword (fl 5 []) 3#16), (stl lk0), by decide +kernel⟩,
   ⟨0, (codeword (fl 5 [(1#3, packetHead pkL)]) 0#16), (stl lk0), 0x1#3, 0x0000000000000000000000000000000000000000004000000100000000000001#256, by decide +kernel⟩,
   ⟨0, (codeword (fl 5 [(1#3, packetHead {pkL with dst := 1#18})]) 0#16), (stl lk0), 0x1#3, 0x0000000000000000000000000000000000000000004000000100000100000001#256, 4, by decide +kernel⟩,
   ⟨0, (stl lk0), by decide +kernel⟩,
   ⟨0, 17#5140, (stl lk0), by decide +kernel⟩,
   ⟨0, (codeword (fl 6 []) 0#16), (stl lk0), by decide +kernel⟩,
   ⟨0, 0, 1, (stl lk0), by decide +kernel⟩,
   ⟨0, (stl {lk0 with discarding := true, replay := [rp (fl 6 []) 0, rp (fl 7 []) 1, rp fl9 0], resend := [8#24, 7#24], sbFree := 510}), by decide +kernel⟩,
   ⟨0, (stl {lk0 with discarding := true, replay := [rp (fl 6 []) 0, rp (fl 7 []) 1, rp fl9 0], resend := [8#24, 7#24], sbFree := 510}), 0x000008#24, [0x000007#24], (rp fl9 0), by decide +kernel⟩,
   ⟨0, (stl {lk0 with txq := [entk pkS]}), 1, 0, pkS, by decide +kernel⟩⟩

/-- States and operands that meet the hypotheses of `Obligations.LinkLanes`, clause by clause. -/
theorem wit_LinkLanes :
    (∃ (l : Fin 7), ∃ (s : State), s.live = true ∧ s.linkUp l.val = true) ∧
    (∃ (l : Fin 7), ∃ (ok : Byte), ∃ (s : State), s.live = true ∧ (s.link l.val).state = 1#3 ∧ (s.link l.val).en = true ∧ s.dev.faultMap.contains (s.dev.node, l.val) = false ∧ ok = 0xFF#8 ∧ ((s.link l.val).lanes = 0#2 ∨ (s.link l.val).full = true)) ∧
    (∃ (l : Fin 7), ∃ (ok : Byte), ∃ (s : State), s.live = true ∧ (s.link l.val).state = 1#3 ∧ (s.link l.val).en = true ∧ s.dev.faultMap.contains (s.dev.node, l.val) = false ∧ ok.extractLsb' 0 4 = 0xF#4 ∧ ok ≠ 0xFF#8) ∧
    (∃ (l : Fin 7), ∃ (ok : Byte), ∃ (s : State), s.live = true ∧ (s.link l.val).state = 1#3 ∧ (s.link l.val).en = true ∧ s.dev.faultMap.contains (s.dev.node, l.val) = false ∧ ok.extractLsb' 0 4 ≠ 0xF#4 ∧ ok.extractLsb' 4 4 = 0xF#4) ∧
    (∃ (l : Fin 7), ∃ (ok : Byte), ∃ (s : State), s.live = true ∧ (s.link l.val).state = 1#3 ∧ (s.link l.val).en = true ∧ s.dev.faultMap.contains (s.dev.node, l.val) = false ∧ ok.extractLsb' 0 4 ≠ 0xF#4 ∧ ok.extractLsb' 4 4 ≠ 0xF#4 ∧ s.dev.enumerated = false) ∧
    (∃ (l : Fin 7), ∃ (s : State), ∃ (m : BitVec 256), s.live = true ∧ (s.link l.val).slotmapNew = some m) :=
  ⟨⟨0, (stl lk0), by decide +kernel⟩,
   ⟨0, 0xff#8, (stl {lk0 with state := 1#3, replay := [rp (fl 6 []) 0, rp fl9 0]}), by decide +kernel⟩,
   ⟨0, 0x0f#8, (stl {lk0 with state := 1#3, replay := [rp (fl 6 []) 0, rp fl9 0]}), by decide +kernel⟩,
   ⟨0, 0xf0#8, (stl {lk0 with state := 1#3, replay := [rp (fl 6 []) 0, rp fl9 0]}), by decide +kernel⟩,
   ⟨0, 0x77#8, (stl {lk0 with state := 1#3, replay := [rp (fl 6 []) 0, rp fl9 0]}), by decide +kernel⟩,
   ⟨0, (stl {lk0 with slotmapNew := some 8#256}), 0x0000000000000000000000000000000000000000000000000000000000000008#256, by decide +kernel⟩⟩

/-- States and operands that meet the hypotheses of `Obligations.FabricRequests`, clause by clause. -/
theorem wit_FabricRequests :
    (∃ (l : Fin 7), ∃ (k : Packet), ∃ (s : State), ∃ (o : Nat), ∃ d, let p := k.part.toNat; let va := k.addr.toNat; let n := k.len.toNat; let a := Claims.counted s l k; let plain : Prop := s.exists? p = true ∧ s.conf p = false; let way : Prop := k.src ≠ s.dev.node ∧ s.dev.quar = false ∧ s.route k.src.toNat = some (some o); Claims.arrives s l k 0#4 ∧ plain ∧ way ∧ a.mvPart p va n = false ∧ a.hostRead p va n = .inl d) ∧
    (∃ (l : Fin 7), ∃ (k : Packet), ∃ (s : State), ∃ (o : Nat), ∃ f, let p := k.part.toNat; let va := k.addr.toNat; let n := k.len.toNat; let a := Claims.counted s l k; let plain : Prop := s.exists? p = true ∧ s.conf p = false; let way : Prop := k.src ≠ s.dev.node ∧ s.dev.quar = false ∧ s.route k.src.toNat = some (some o); Claims.arrives s l k 0#4 ∧ plain ∧ way ∧ a.mvPart p va n = false ∧ a.hostRead p va n = .inr f) ∧
    (∃ (l : Fin 7), ∃ (k : Packet), ∃ (s : State), ∃ (o : Nat), ∃ w, let p := k.part.toNat; let va := k.addr.toNat; let n := k.len.toNat; let a := Claims.counted s l k; let plain : Prop := s.exists? p = true ∧ s.conf p = false; let way : Prop := k.src ≠ s.dev.node ∧ s.dev.quar = false ∧ s.route k.src.toNat = some (some o); Claims.arrives s l k 1#4 ∧ plain ∧ way ∧ a.mvPart p va n = false ∧ a.hostWrite p va (k.data.take n) = (w, none) ∧ w.link o = a.link o ∧ w.dev = s.dev) ∧
    (∃ (l : Fin 7), ∃ (k : Packet), ∃ (s : State), ∃ (o : Nat), let p := k.part.toNat; let va := k.addr.toNat; let a := Claims.counted s l k; let plain : Prop := s.exists? p = true ∧ s.conf p = false; let way : Prop := k.src ≠ s.dev.node ∧ s.dev.quar = false ∧ s.route k.src.toNat = some (some o); Claims.arrives s l k 2#4 ∧ plain ∧ way ∧ a.mvPart p va 8 = false ∧ va % 8 = 0 ∧ a.hostFault p va true = none ∧ a.vbad p va 8 = false) ∧
    (∃ (l : Fin 7), ∃ (k : Packet), ∃ (s : State), ∃ (o : Nat), let p := k.part.toNat; let way : Prop := k.src ≠ s.dev.node ∧ s.dev.quar = false ∧ s.route k.src.toNat = some (some o); Claims.arrives s l k 0#4 ∧ way ∧ s.exists? p = false ∧ s.conf 8 = false) ∧
    (∃ (l : Fin 7), ∃ (k : Packet), ∃ (s : State), ∃ (o : Nat), let p := k.part.toNat; let va := k.addr.toNat; let n := k.len.toNat; let a := Claims.counted s l k; let plain : Prop := s.exists? p = true ∧ s.conf p = false; Claims.arrives s l k 5#4 ∧ plain ∧ a.mvPart p va n = false ∧ (pagesOf va n).findSome? (fun x => a.hostFault p x true) = none) :=
  ⟨⟨0, (pks.getD 0 Packet.init), (stp cl12), 4, [0x07#8, 0x08#8, 0x09#8], by dsimp only [Claims.arrives]; decide +kernel⟩,
   ⟨0, (pks.getD 1 Packet.init), (stp cl12), 4, 5, by dsimp only [Claims.arrives]; decide +kernel⟩,
   ⟨0, (pks.getD 6 Packet.init), (stp cl12), 4, (let l : Fin 7 := 0; let k : Packet := (pks.getD 6 Packet.init); let s : State := (stp cl12); let o : Nat := 4; let p := k.part.toNat; let va := k.addr.toNat; let n := k.len.toNat; let a := Claims.counted s l k; let plain : Prop := s.exists? p = true ∧ s.conf p = false; let way : Prop := k.src ≠ s.dev.node ∧ s.dev.quar = false ∧ s.route k.src.toNat = some (some o); (a.hostWrite p va (k.data.take n)).1), by dsimp only [Claims.arrives]; decide +kernel⟩,
   ⟨0, (pks.getD 12 Packet.init), (stp cl12), 4, by dsimp only [Claims.arrives]; decide +kernel⟩,
   ⟨0, (pks.getD 3 Packet.init), (stp cl12), 4, by dsimp only [Claims.arrives]; decide +kernel⟩,
   ⟨0, (pks.getD 30 Packet.init), (stp cl12), 0, by dsimp only [Claims.arrives]; decide +kernel⟩⟩

/-- States and operands that meet the hypotheses of `Obligations.FabricResponses`, clause by clause. -/
theorem wit_FabricResponses :
    (∃ (l : Fin 7), ∃ (k : Packet), ∃ (s : State), ∃ (c : Nat), ∃ (x : FabCmd), ∃ (off : Nat), ∃ (n : Nat), ∃ w, let p := k.part.toNat; let a := Claims.counted s l k; Claims.fabStill s p ∧ (let b := a.updFab c x.serial (fun z => { z with sent := z.sent.filter (fun w => w.1 != k.tid.toNat) }); a.findFab p k = some (c, x) ∧ x.sent = [(k.tid.toNat, off, n)] ∧ x.failed = none ∧ fbCpl x.desc = 0 ∧ s.conf p = false ∧ k.status = 0#8 ∧ (∀ y ∈ (s.cl c).fab, y.serial = x.serial → y = x) ∧ s.ownerCl c = some p ∧ Claims.arrives s l k 3#4 ∧ a.mvPart p ((fbLva x.desc + off) % 2 ^ 64) n = false ∧ b.hostWrite p ((fbLva x.desc + off) % 2 ^ 64) (k.data.take n) = (w, none) ∧ w.clusters = b.clusters ∧ w.sec = b.sec ∧ w.dev = b.dev)) ∧
    (∃ (l : Fin 7), ∃ (k : Packet), ∃ (s : State), ∃ (c : Nat), ∃ (x : FabCmd), ∃ (off : Nat), ∃ (n : Nat), let p := k.part.toNat; let a := Claims.counted s l k; Claims.fabStill s p ∧ a.findFab p k = some (c, x) ∧ x.sent = [(k.tid.toNat, off, n)] ∧ x.failed = none ∧ fbCpl x.desc = 0 ∧ s.conf p = false ∧ k.status = 0#8 ∧ (∀ y ∈ (s.cl c).fab, y.serial = x.serial → y = x) ∧ s.ownerCl c = some p ∧ Claims.arrives s l k 4#4) ∧
    (∃ (l : Fin 7), ∃ (k : Packet), ∃ (s : State), let p := k.part.toNat; let a := Claims.counted s l k; Claims.fabStill s p ∧ a.findFab p k = none ∧ s.conf p = false ∧ Claims.arrives s l k 3#4) ∧
    (∃ (l : Fin 7), ∃ (k : Packet), ∃ (s : State), let p := k.part.toNat; let a := Claims.counted s l k; Claims.fabStill s p ∧ a.findFab p k = none ∧ s.conf p = false ∧ Claims.arrives s l k 4#4) :=
  ⟨⟨0, (pks.getD 18 Packet.init), (stp {cl12 with fab := [fc [(4, 0, 3)] 0]}), 0, (fc [(4, 0, 3)] 0), 0, 3, (let l : Fin 7 := 0; let k : Packet := (pks.getD 18 Packet.init); let s : State := (stp {cl12 with fab := [fc [(4, 0, 3)] 0]}); let p := k.part.toNat; let a := Claims.counted s l k; let c : Nat := 0; let x : FabCmd := (fc [(4, 0, 3)] 0); let off : Nat := 0; let n : Nat := 3; let b := a.updFab c x.serial (fun z => { z with sent := z.sent.filter (fun w => w.1 != k.tid.toNat) }); (b.hostWrite p ((fbLva x.desc + off) % 2 ^ 64) (k.data.take n)).1), by dsimp only [Claims.fabStill, Claims.arrives]; decide +kernel⟩,
   ⟨0, (pks.getD 24 Packet.init), (stp {cl12 with fab := [fc [(4, 0, 3)] 0]}), 0, (fc [(4, 0, 3)] 0), 0, 3, by dsimp only [Claims.fabStill, Claims.arrives]; decide +kernel⟩,
   ⟨0, (pks.getD 18 Packet.init), (stp cl12), by dsimp only [Claims.fabStill, Claims.arrives]; decide +kernel⟩,
   ⟨0, (pks.getD 24 Packet.init), (stp cl12), by dsimp only [Claims.fabStill, Claims.arrives]; decide +kernel⟩⟩

/-- States and operands that meet the hypotheses of `Obligations.StaleEpochDrops`, clause by clause. -/
theorem wit_StaleEpochDrops :
    (∃ (i : Instr), ∃ (l : Fin 7), ∃ (k : Packet), ∃ (s : State), s.live = true ∧ s.linkUp l.val = true ∧ Claims.forThis s l k ∧ Claims.arrival i l k ∧ k.epoch ≠ s.dev.eptab.get 0#16 k.src.toNat ∧ (∀ c, s.noTrace c) ∧ (¬ (k.type = 6#4 ∧ k.sub = 6#5 ∧ s.dev.master = true ∧ fromMaster k = true))) :=
  ⟨(l12Instr_2.getD 0 .mboxTurn), 0, (l12Packet_1.getD 0 Packet.init), {base with links := (upTo 7).map (fun i => (i, {Link.init with state := 2#3})), dev := {base.dev with geom := true, sizes := 3#18}, usb := {Usb.init with connected := true}}, by (try dsimp only [Claims.forThis]); (repeat' with_reducible apply And.intro) <;> first | exact Or.inl ⟨MemErr.none, by decide +kernel⟩ | exact noTrace_of (by decide +kernel) | decide +kernel⟩

/-- States and operands that meet the hypotheses of `Obligations.FabricCommands`, clause by clause. -/
theorem wit_FabricCommands :
    (∃ (c : Fin 8), ∃ (s : State), ∃ (p : Nat), ∃ (op : Nat), ∃ (o : Nat), ∃ (data : List Byte), let base := (s.cl c.val).fqBase.toNat; let n := max 1 (s.cl c.val).fqSize.toNat; let head := s.rdVal (base + 8) 8; let d := s.rdN (base + 64 + 64 * (head % n)) 64; let i := (s.cl c.val).fabSerial; let len := if op = 2 then 0 else fbLen d; let node : BitVec 18 := BitVec.ofNat 18 (fbNode d); let x : FabCmd := { FabCmd.init with serial := i, desc := d, dstNode := node, job := s.fabJob p c.val }; let h := s.wrVal (base + 8) 8 ((head + 1) % n); let a := h.updCl c.val (fun y => { y with fabSerial := i + 1, fab := y.fab ++ [x] }); s.live = true ∧ s.ownerCl c.val = some p ∧ s.dev.quar = false ∧ (s.cl c.val).powered = true ∧ s.scrubbing p = false ∧ base / 0x4000000 = clStore c.val 0 / 0x4000000 ∧ head % n ≠ s.rdVal base 8 % n ∧ (∀ y ∈ (s.cl c.val).fab, y.serial ≠ i ∧ y.left = [] ∧ y.sent ≠ []) ∧ op ≤ 2 ∧ fbOp d = op ∧ fbPair d = false ∧ node ≠ s.dev.node ∧ s.conf p = false ∧ s.route (fbNode d) = some (some o) ∧ (op ≤ 1 → 1 ≤ fbLen d ∧ fbLen d ≤ 256) ∧ (op = 0 → s.mvPart p (fbLva d) (fbLen d) = false ∧ a.hostRead p (fbLva d % 2 ^ 64) (fbLen d) = .inl data) ∧ (op ≠ 0 → data = List.replicate len 0#8) ∧ s.tidBusy p node = false ∧ a.fabHeld c.val x = false) ∧
    (∀ g ∈ ([(fun c => .fabricWrite c .none), .fabricRead, .fabricNotify] : List (Fin 8 → Instr)), let c : Fin 8 := 0; let s : State := (stf 3 0 0); let p : Nat := 0; let op : Nat := 0; let base := (s.cl c.val).fqBase.toNat; let n := max 1 (s.cl c.val).fqSize.toNat; let head := s.rdVal (base + 8) 8; let d := s.rdN (base + 64 + 64 * (head % n)) 64; let i := (s.cl c.val).fabSerial; s.live = true ∧ s.ownerCl c.val = some p ∧ s.dev.quar = false ∧ (s.cl c.val).powered = true ∧ s.scrubbing p = false ∧ base / 0x4000000 = clStore c.val 0 / 0x4000000 ∧ head % n ≠ s.rdVal base 8 % n ∧ (∀ y ∈ (s.cl c.val).fab, y.serial ≠ i ∧ y.left = [] ∧ y.sent ≠ []) ∧ 2 < fbOp d ∧ fbCpl d = 0) ∧
    (∃ (c : Fin 8), ∃ (s : State), ∃ (p : Nat), ∃ (x : FabCmd), ∃ (n : Nat), s.live = true ∧ s.ownerCl c.val = some p ∧ (s.cl c.val).fab.find? (fun y => y.serial == n) = some x ∧ (∃ y ∈ x.sent, ∃ a, x.sentAt.find y.1 = some a ∧ a + 1000000 ≤ s.ns) ∧ (∀ y ∈ (s.cl c.val).fab, y.serial ≠ n → y.left = [] ∧ y.sent ≠ [])) :=
  ⟨⟨0, (stf 0 0x20000 3), 0, 0, 4, [0x07#8, 0x08#8, 0x09#8], by decide +kernel⟩,
   by dsimp only []; decide +kernel,
   ⟨0, (stp {cl12 with fab := [fc [(4, 0, 3)] 0x30000]}), 0, (fc [(4, 0, 3)] 0x30000), 2, by decide +kernel⟩⟩

/-- States and operands that meet the hypotheses of `Obligations.ManagementPackets`, clause by clause. -/
theorem wit_ManagementPackets :
    (∃ (l : Fin 7), ∃ (k : Packet), ∃ (s : State), ∃ (x : Nat), s.live = true ∧ l.val = 1 ∧ s.linkUp 1 = true ∧ s.linkUp 2 = true ∧ s.linkUp 4 = true ∧ k.type = 6#4 ∧ k.sub = 0#5 ∧ k.pair = false ∧ k.bc = false ∧ s.epochOk k = true ∧ s.dev.enumerated = false ∧ s.dev.geom = false ∧ s.dev.master = false ∧ s.dev.quar = false ∧ s.dev.early = [] ∧ 1 ≤ x ∧ x < 64 ∧ k.dst = BitVec.ofNat 18 (4096 * x)) ∧
    (∃ (l : Fin 7), ∃ (k : Packet), ∃ (s : State), Claims.arrives s l k 6#4 ∧ k.sub = 1#5 ∧ k.bc = false ∧ s.dev.master = true ∧ s.dev.geom = true ∧ mgmtWord k < 2 ^ 18) ∧
    (∃ (l : Fin 7), ∃ (k : Packet), ∃ (s : State), Claims.orders s l k 2#5) ∧
    (∃ (l : Fin 7), ∃ (k : Packet), ∃ (s : State), Claims.orders s l k 3#5 ∧ s.wantsImage = true ∧ s.dev.bootSrc = true ∧ k.addr = 0#48 ∧ k.data.length ≤ 256 ∧ 12 ≤ k.data.length ∧ recN k.data 8 4 ≤ k.data.length) ∧
    (∃ (l : Fin 7), ∃ (k : Packet), ∃ (s : State), Claims.orders s l k 3#5 ∧ s.wantsImage = true ∧ s.dev.bootSrc = true ∧ k.addr = 0#48 ∧ k.data.length ≤ 256 ∧ (k.data.length < 12 ∨ k.data.length < recN k.data 8 4)) ∧
    (∃ (l : Fin 7), ∃ (k : Packet), ∃ (s : State), ∃ (o : Nat), Claims.orders s l k 4#5 ∧ k.addr = BitVec.ofNat 48 csrBase ∧ s.dev.quar = false ∧ s.route 0 = some (some o)) ∧
    (∃ (l : Fin 7), ∃ (k : Packet), ∃ (s : State), Claims.orders s l k 5#5 ∧ k.addr = BitVec.ofNat 48 (csrBase + 0x20)) ∧
    (∃ (l : Fin 7), ∃ (k : Packet), ∃ (s : State), let p := k.part.toNat; let j := recN k.data 0 4; let n := recN k.data 8 8; let x := s.job p j; Claims.orders s l k 6#5 ∧ s.exists? p = true ∧ (s.cl (s.lead p)).ctl.wfe = none ∧ s.time.state ≠ 0#3 ∧ (s.part p).jobs.has j = true ∧ x.kind = 0#2 ∧ s.mayLaunch p j = true ∧ s.scrubbing p = false ∧ s.ns < n) ∧
    (∃ (l : Fin 7), ∃ (k : Packet), ∃ (s : State), let p := k.part.toNat; let j := recN k.data 0 4; let x := s.job p j; Claims.orders s l k 6#5 ∧ s.exists? p = true ∧ (s.cl (s.lead p)).ctl.wfe = none ∧ (s.time.state = 0#3 ∨ (s.part p).jobs.has j = false ∨ x.kind ≠ 0#2 ∨ s.mayLaunch p j = false ∨ s.scrubbing p = true)) ∧
    (∃ (l : Fin 7), ∃ (k : Packet), ∃ (s : State), Claims.orders s l k 7#5 ∧ (∀ c, c < 8 → (s.cl c).fab = [])) ∧
    (∃ (l : Fin 7), ∃ (k : Packet), ∃ (s : State), Claims.orders s l k 8#5 ∧ k.value = 0#64) ∧
    (∃ (l : Fin 7), ∃ (k : Packet), ∃ (s : State), Claims.orders s l k 8#5 ∧ k.value = 1#64) :=
  ⟨⟨1, (l13Packet_0.getD 38 Packet.init), {fol with dev := {base.dev with master := false, geom := false, enumerated := false}}, 1, by decide +kernel⟩,
   ⟨0, (l13Packet_0.getD 60 Packet.init), {fol with dev := {fol.dev with master := true, node := 0}}, by dsimp only [Claims.arrives]; decide +kernel⟩,
   ⟨0, (l13Packet_0.getD 5 Packet.init), fol, by dsimp only [Claims.orders, Claims.arrives]; decide +kernel⟩,
   ⟨0, (l13Packet_0.getD 7 Packet.init), {fol with time := {fol.time with locked := true}, boot := {Boot.init with running := false}, dev := {fol.dev with boot := 1#4, bootSrc := true}}, by dsimp only [Claims.orders, Claims.arrives]; decide +kernel⟩,
   ⟨0, (l13Packet_0.getD 8 Packet.init), {fol with time := {fol.time with locked := true}, boot := {Boot.init with running := false}, dev := {fol.dev with boot := 1#4, bootSrc := true}}, by dsimp only [Claims.orders, Claims.arrives]; decide +kernel⟩,
   ⟨0, (l13Packet_0.getD 10 Packet.init), fol, 5, by dsimp only [Claims.orders, Claims.arrives]; decide +kernel⟩,
   ⟨0, (l13Packet_0.getD 11 Packet.init), fol, by dsimp only [Claims.orders, Claims.arrives]; decide +kernel⟩,
   ⟨0, (l13Packet_0.getD 13 Packet.init), (own1 fol), by dsimp only [Claims.orders, Claims.arrives]; decide +kernel⟩,
   ⟨0, (l13Packet_0.getD 12 Packet.init), (let s := own1 fol; {s with time := {s.time with state := 0#3}}), by dsimp only [Claims.orders, Claims.arrives]; decide +kernel⟩,
   ⟨0, (l13Packet_0.getD 14 Packet.init), fol, by dsimp only [Claims.orders, Claims.arrives]; decide +kernel⟩,
   ⟨0, (l13Packet_0.getD 17 Packet.init), fol, by dsimp only [Claims.orders, Claims.arrives]; decide +kernel⟩,
   ⟨0, (l13Packet_0.getD 18 Packet.init), fol, by dsimp only [Claims.orders, Claims.arrives]; decide +kernel⟩⟩

/-- States and operands that meet the hypotheses of `Obligations.MasterOnly`, clause by clause. -/
theorem wit_MasterOnly :
    (∃ (l : Fin 7), ∃ (k : Packet), ∃ (s : State), ∃ (i : Instr), Claims.arrives s l k 6#4 ∧ k.bc = false ∧ k.src ≠ masterNode ∧ s.dev.node ≠ masterNode ∧ s.dev.master = false ∧ ((i = .image l k ∧ k.sub = 3#5) ∨ (i = .csrRd l k ∧ k.sub = 4#5) ∨ (i = .csrWr l k ∧ k.sub = 5#5) ∨ (i = .launch l k ∧ k.sub = 6#5) ∨ (i = .faultmap l k ∧ k.sub = 7#5) ∨ (i = .mgmtFence l k ∧ k.sub = 8#5))) :=
  ⟨0, (l13Packet_1.getD 7 Packet.init), fol, (l13Instr_3.getD 42 .mboxTurn), by dsimp only [Claims.arrives]; decide +kernel⟩

/-- States and operands that meet the hypotheses of `Obligations.TimeSource`, clause by clause. -/
theorem wit_TimeSource :
    (∃ (v : W32), ∃ (s : State), s.live = true ∧ (let src := v.extractLsb' 0 2; let par := v.extractLsb' 2 3; let chg : Bool := (src != s.time.src && src != 0#2) || par != s.time.parent; src ≠ 3#2 ∧ v.getLsbD 5 = false ∧ (chg = true → ∀ c, s.noTrace c))) ∧
    (∃ (v : W32), ∃ (s : State), s.live = true ∧ (let src := v.extractLsb' 0 2; src ≠ 3#2)) ∧
    (∃ (v : W32), ∃ (s : State), s.live = true ∧ (let src := v.extractLsb' 0 2; src = 3#2)) ∧
    (∃ (s : State), s.live = true ∧ s.time.src ≠ 0#2 ∧ s.time.state ≠ 4#3) ∧
    (∃ (s : State), s.live = true ∧ (s.time.src = 0#2 ∨ s.time.state = 4#3)) :=
  ⟨⟨0x00000000#32, (l13State_4.getD 0 State.reset), by (try dsimp only); (repeat' with_reducible apply And.intro) <;> first | exact fun _ => noTrace_of (by decide +kernel) | decide +kernel⟩,
   ⟨0x00000000#32, (l13State_4.getD 0 State.reset), by decide +kernel⟩,
   ⟨0x00000003#32, (l13State_4.getD 0 State.reset), by decide +kernel⟩,
   ⟨(l13State_4.getD 30 State.reset), by decide +kernel⟩,
   ⟨(l13State_4.getD 0 State.reset), by decide +kernel⟩⟩

/-- States and operands that meet the hypotheses of `Obligations.TimeServo`, clause by clause. -/
theorem wit_TimeServo :
    (∃ (hi : W32), ∃ (s : State), s.live = true ∧ (let th := (hi ++ s.time.ptpLo).toInt; s.time.src = 1#2 ∧ (s.time.state = 0#3 ∨ s.time.state = 1#3 ∨ s.time.state = 2#3) ∧ s.time.state = 0#3 ∧ s.time.stepThresh.toNat < th.natAbs)) ∧
    (∃ (hi : W32), ∃ (s : State), s.live = true ∧ (let th := (hi ++ s.time.ptpLo).toInt; s.time.src = 1#2 ∧ (s.time.state = 0#3 ∨ s.time.state = 1#3 ∨ s.time.state = 2#3) ∧ (s.time.state = 0#3 → th.natAbs ≤ s.time.stepThresh.toNat))) ∧
    (∃ (hi : W32), ∃ (s : State), s.live = true ∧ s.time.src ≠ 1#2) :=
  ⟨⟨0x00000000#32, (l13State_4.getD 30 State.reset), by decide +kernel⟩,
   ⟨0x00000000#32, (l13State_4.getD 36 State.reset), by decide +kernel⟩,
   ⟨0x00000000#32, (l13State_4.getD 0 State.reset), by decide +kernel⟩⟩

/-- States and operands that meet the hypotheses of `Obligations.Timestamps`, clause by clause. -/
theorem wit_Timestamps :
    (∃ (l : Fin 7), ∃ (k : Packet), ∃ (s : State), Claims.arrives s l k 7#4 ∧ k.sub = 0#5) ∧
    (∃ (l : Fin 7), ∃ (k : Packet), ∃ (s : State), ∃ (t0 : BitVec 96), Claims.arrives s l k 7#4 ∧ k.sub = 1#5 ∧ s.time.syncT1 = some t0 ∧ s.time.src = 2#2 ∧ s.parentLink = some l.val ∧ k.tid ≠ s.time.syncTid) ∧
    (∃ (l : Fin 7), ∃ (k : Packet), ∃ (s : State), ∃ (t0 : BitVec 96), Claims.arrives s l k 7#4 ∧ k.sub = 1#5 ∧ s.time.syncT1 = some t0 ∧ s.time.src = 2#2 ∧ s.parentLink = some l.val ∧ k.tid = s.time.syncTid ∧ recN k.data 36 1 % 2 = 1) ∧
    (∃ (l : Fin 7), ∃ (k : Packet), ∃ (s : State), ∃ (t0 : BitVec 96), Claims.arrives s l k 7#4 ∧ k.sub = 1#5 ∧ s.time.syncT1 = some t0 ∧ s.time.src = 2#2 ∧ s.parentLink = some l.val ∧ k.tid = s.time.syncTid ∧ recN k.data 36 1 % 2 = 0) ∧
    (∃ (s : State), ∃ (l : Nat), s.live = true ∧ s.time.src = 2#2 ∧ s.parentLink = some l ∧ s.linkUp l = true) ∧
    (∃ (s : State), s.live = true ∧ s.time.pps = false ∧ BitVec.ofNat 64 (s.ns / 1000000000) ≠ s.time.ppsSec) ∧
    (∃ (s : State), s.live = true ∧ s.time.pps = true ∧ s.time.ppsSec.toNat * 1000000000 + 1000000 ≤ s.ns) ∧
    (∃ (f : List Byte), ∃ (s : State), s.live = true ∧ s.gaf.state.toNat ≤ 1 ∧ ptpEvent f = false) ∧
    (∃ (f : List Byte), ∃ (s : State), s.live = true ∧ s.gaf.state.toNat ≤ 1 ∧ ptpEvent f = true) ∧
    (∃ (r : Requester), ∃ (s : State), s.live = true ∧ (∀ c, r ≠ .clCtl c)) :=
  ⟨⟨0, (syn 0 [5,6]), (tmT id), by dsimp only [Claims.arrives]; decide +kernel⟩,
   ⟨0, {syn 1 [3 * 2^24, 9 * 2^24, 13 * 2^24, 0] with tid := 9#16}, (tmT id), 0x000000000000000002000000#96, by dsimp only [Claims.arrives]; decide +kernel⟩,
   ⟨0, (syn 1 [3 * 2^24, 9 * 2^24, 13 * 2^24, 1]), (tmT id), 0x000000000000000002000000#96, by dsimp only [Claims.arrives]; decide +kernel⟩,
   ⟨0, (syn 1 []), (tmT id), 0x000000000000000002000000#96, by dsimp only [Claims.arrives]; decide +kernel⟩,
   ⟨(tmT id), 0, by decide +kernel⟩,
   ⟨(tmT id), by decide +kernel⟩,
   ⟨(tmT (fun x => {x with pps := true})), by decide +kernel⟩,
   ⟨[], (tmT id), by decide +kernel⟩,
   ⟨(frm 0), (tmT id), by decide +kernel⟩,
   ⟨Sys2Proof.Requester.devCtl, (tmT id), by (try dsimp only); (repeat' with_reducible apply And.intro) <;> first | (intro c; simp) | decide +kernel⟩⟩

/-- States and operands that meet the hypotheses of `Obligations.CameraPackets`, clause by clause. -/
theorem wit_CameraPackets :
    (∃ (q : Fin 4), ∃ (vc : BitVec 4), ∃ (hdr : BitVec 2), ∃ (s : State), ∃ (own : Nat), ∃ (i : Nat), ∃ (e : W64), let p := q.val; s.live = true ∧ s.camRx p = true ∧ s.camOwner p = some own ∧ i < 16 ∧ Claims.loneEntry s p i vc.toNat e ∧ s.cam.frames = [] ∧ 2 ≤ hdr.toNat) ∧
    (∃ (q : Fin 4), ∃ (vc : BitVec 4), ∃ (hdr : BitVec 2), ∃ (s : State), ∃ (own : Nat), ∃ (i : Nat), ∃ (e : W64), ∃ l, let p := q.val; s.live = true ∧ s.camRx p = true ∧ s.camOwner p = some own ∧ i < 16 ∧ Claims.loneEntry s p i vc.toNat e ∧ s.cam.frames = [] ∧ hdr.toNat ≤ 1 ∧ entByp e = true ∧ (s.bypassRing (entTgt e)).fabric = false ∧ s.mvPart own (s.bypassRing (entTgt e)).base.toNat 8 = false ∧ s.hostRead own (s.bypassRing (entTgt e)).base.toNat 8 = .inl l) ∧
    (∃ (q : Fin 4), ∃ (vc : BitVec 4), ∃ (hdr : BitVec 2), ∃ (s : State), ∃ (own : Nat), ∃ (i : Nat), ∃ (e : W64), let p := q.val; s.live = true ∧ s.camRx p = true ∧ s.camOwner p = some own ∧ i < 16 ∧ Claims.loneEntry s p i vc.toNat e ∧ s.cam.frames = [] ∧ hdr = 0#2 ∧ entByp e = false ∧ entExp e = 0 ∧ entDt e ≠ 0x12 ∧ entDt e ≠ 0x1E ∧ entW e ≤ 8192 ∧ (s.ctx (entTgt e)).en = true ∧ s.mvPart own (ctxRing (s.ctx (entTgt e)).active).base.toNat 8 = false ∧ s.mvPart own (ctxRing (s.ctx (entTgt e)).shadow).base.toNat 8 = false) ∧
    (∃ (q : Fin 4), ∃ (vc : BitVec 4), ∃ (s : State), ∃ (f : Frame), s.live = true ∧ s.camRx q.val = true ∧ s.cam.frames = [f] ∧ entByp f.entry = false ∧ f.closed = false ∧ f.tailDue = false ∧ f.port = q.val ∧ entVc f.entry = vc.toNat ∧ s.spareExpo (entTgt f.entry) (entExp f.entry) = false) ∧
    (∃ (q : Fin 4), ∃ (i : Fin 16), ∃ (s : State), ∃ (f : Frame), s.live = true ∧ s.cam.frames = [f] ∧ f.isOpen q.val i.val = true ∧ entByp f.entry = false ∧ f.tailDue = false ∧ s.spareExpo (entTgt f.entry) (entExp f.entry) = false ∧ f.lastNs.toNat + 1000 * bitsAt (s.camPort q.val).cfg.toNat 16 16 ≤ s.ns) ∧
    (∃ (q : Fin 4), ∃ (vc : BitVec 4), ∃ (dt : BitVec 6), ∃ (s : State), ∃ (hdr : BitVec 2), ∃ i, ∃ f, let p := q.val; let takes (j : Nat) : Bool := let e := (s.camPort p).eff.get 0#64 j; entV e && entVc e == vc.toNat && entDt e == dt.toNat; s.live = true ∧ s.camRx p = true ∧ hdr.toNat ≤ 1 ∧ dtLong dt.toNat = true ∧ i < 16 ∧ takes i = true ∧ (∀ j, j < i → takes j = false) ∧ s.cam.ignored.contains (p, i) = false ∧ s.cam.frames = [f] ∧ f.isOpen p i = true ∧ entByp f.entry = false ∧ f.tailDue = false ∧ f.lines.length < entH f.entry) ∧
    (∃ (q : Fin 4), ∃ (vc : BitVec 4), ∃ (dt : BitVec 6), ∃ (s : State), ∃ (hdr : BitVec 2), let p := q.val; s.live = true ∧ s.camRx p = true ∧ 2 ≤ hdr.toNat) ∧
    (∃ (q : Fin 4), ∃ (vc : BitVec 4), ∃ (dt : BitVec 6), ∃ (s : State), let p := q.val; s.live = true ∧ s.camRx p = true ∧ dtLong dt.toNat = false) ∧
    (∃ (q : Fin 4), ∃ (vc : BitVec 4), ∃ (dt : BitVec 6), ∃ (s : State), let p := q.val; let takes (j : Nat) : Bool := let e := (s.camPort p).eff.get 0#64 j; entV e && entVc e == vc.toNat && entDt e == dt.toNat; s.live = true ∧ s.camRx p = true ∧ dtLong dt.toNat = true ∧ (∀ j, j < 16 → takes j = false)) :=
  ⟨⟨0, 0x1#4, 0x2#2, (camS id), 0, 3, 0x0001000300002d43#64, by dsimp only [Claims.loneEntry]; decide +kernel⟩,
   ⟨0, 0x1#4, 0x0#2, (camS id), 0, 3, 0x0001000300002d43#64, [0x00#8, 0x00#8, 0x00#8, 0x00#8, 0x00#8, 0x00#8, 0x00#8, 0x00#8], by dsimp only [Claims.loneEntry]; decide +kernel⟩,
   ⟨0, 0x2#4, 0x0#2, (camS id), 0, 5, 0x0001000300003545#64, by dsimp only [Claims.loneEntry]; decide +kernel⟩,
   ⟨0, 0x2#4, (l14State_1.getD 6 State.reset), (frs.getD 1 Frame.init), by decide +kernel⟩,
   ⟨0, 5, (l14State_1.getD 6 State.reset), (frs.getD 1 Frame.init), by decide +kernel⟩,
   ⟨0, 0x2#4, 0x2a#6, (l14State_1.getD 6 State.reset), 0x0#2, 5, { port := 0, idx := 5, entry := 0x0001000300003545#64, lines := [], stamps := [], flags := 0x0000#16, fixed := 0, fnum := 0x0000#16, tFs := 0x0000000000000000#64, tEnd := 0x0000000000000000#64, par := [(256, 0x00000014#32), (264, 0x00000001#32), (268, 0x00000001#32), (452, 0x00000003#32), (456, 0x00000001#32), (512, 0x00020000#32), (520, 0x00000002#32), (524, 0x000000c0#32), (528, 0x00000040#32)], ring := { base := 0x0000000000020000#64, n := 2, pitch := 192, rowPitch := 64, planePitch := 0, fabric := false, node := 0x00000#18, padv := 0x00000000#32 }, closed := false, bufIdx := some 0x0000000000000000#64, done := 0, padded := [], tailDue := false, fcode := 0x00#8, gen := 0x0000#16, lastNs := 0x00000000000003e8#64 }, by decide +kernel⟩,
   ⟨0, 0x1#4, 0x2a#6, (camS id), 0x2#2, by decide +kernel⟩,
   ⟨0, 0x1#4, 0x10#6, (camS id), by decide +kernel⟩,
   ⟨0, 0x1#4, 0x2a#6, (camS id), by decide +kernel⟩⟩

/-- States and operands that meet the hypotheses of `Obligations.CameraPipeline`, clause by clause. -/
theorem wit_CameraPipeline :
    (∃ (x : Fin 16), ∃ (s : State), ∃ (f : Frame), s.live = true ∧ s.camPowered = true ∧ s.cam.frames = [f] ∧ entByp f.entry = false ∧ entTgt f.entry = x.val ∧ entExp f.entry = 0 ∧ parNexp f.par = 1 ∧ f.tailDue = false ∧ f.done < entH f.entry ∧ f.done < f.lines.length ∧ f.bufIdx = none) ∧
    (∃ (x : Fin 16), ∃ (s : State), ∃ (f : Frame), ∃ hd, ∃ p, ∃ w, s.live = true ∧ s.camPowered = true ∧ s.cam.frames = [f] ∧ entByp f.entry = false ∧ entTgt f.entry = x.val ∧ entExp f.entry = 0 ∧ parNexp f.par = 1 ∧ f.tailDue = false ∧ f.done < entH f.entry ∧ f.done < f.lines.length ∧ f.bufIdx = some hd ∧ s.camServes f.port = some p ∧ bitAt f.flags.toNat 7 = false ∧ f.ring.fabric = false ∧ (let pic : Picture := { w := entW f.entry, h := entH f.entry, par := f.par, depth := [dtBits (entDt f.entry)], raw := [f.lines] }; let ws := ((upTo (outH f.par)).filter (fun y => pic.lastLine y == f.done)).flatMap pic.rowWrites; let img := f.ring.buf hd.toNat + 64; (∀ y ∈ ws, s.mvPart p (img + y.1) y.2.length = false) ∧ s.pixelWrites p f.ring img ws = (w, none) ∧ w.cam = s.cam)) ∧
    (∃ (x : Fin 32), ∃ (s : State), ∃ (f : Frame), s.live = true ∧ s.camPowered = true ∧ s.cam.frames = [f] ∧ entByp f.entry = false ∧ entRing f.entry = x.val ∧ entExp f.entry = 0 ∧ parNexp f.par = 1 ∧ f.closed = true ∧ f.tailDue = false ∧ entH f.entry ≤ f.done ∧ f.bufIdx = none) ∧
    (∃ (x : Fin 32), ∃ (s : State), ∃ (f : Frame), ∃ hd, ∃ p, ∃ w, ∃ v, s.live = true ∧ s.camPowered = true ∧ s.cam.frames = [f] ∧ entByp f.entry = false ∧ entRing f.entry = x.val ∧ entExp f.entry = 0 ∧ parNexp f.par = 1 ∧ f.closed = true ∧ f.tailDue = false ∧ entH f.entry ≤ f.done ∧ f.bufIdx = some hd ∧ s.camServes f.port = some p ∧ f.ring.fabric = false ∧ (let va := f.ring.buf hd.toNat; let st := s.flicker p f x.val; let h := s.cam.heads.get 0#64 x.val + 1#64; s.mvPart p va 64 = false ∧ s.mvPart p f.ring.base.toNat 16 = false ∧ st.2.hostWrite p va (frameRecordBytes [f] (s.cam.dropped.get 0#16 x.val) st.1) = (w, none) ∧ w.hostWrite p (f.ring.base.toNat + 8) (leBytes 8 h.toNat) = (v, none) ∧ v.cam = s.cam)) ∧
    (∃ (s : State), s.live = true ∧ s.camPowered = true) :=
  ⟨⟨3, (l14State_0.getD 6 State.reset), (frs.getD 6 Frame.init), by decide +kernel⟩,
   ⟨3, (l14State_0.getD 2 State.reset), (frs.getD 2 Frame.init), 0x0000000000000000#64, 0, (let x : Fin 16 := 3; let s : State := (l14State_0.getD 2 State.reset); let f : Frame := (frs.getD 2 Frame.init); let hd := 0x0000000000000000#64; let p := 0; let pic : Picture := { w := entW f.entry, h := entH f.entry, par := f.par, depth := [dtBits (entDt f.entry)], raw := [f.lines] }; let ws := ((upTo (outH f.par)).filter (fun y => pic.lastLine y == f.done)).flatMap pic.rowWrites; let img := f.ring.buf hd.toNat + 64; (s.pixelWrites p f.ring img ws).1), by decide +kernel⟩,
   ⟨3, (l14State_0.getD 8 State.reset), (frs.getD 8 Frame.init), by decide +kernel⟩,
   ⟨3, (pst.getD 7 State.reset), (frs.getD 7 Frame.init), 0#64, 0, (((pst.getD 7 State.reset).flicker 0 (frs.getD 7 Frame.init) 3).2.hostWrite 0 ((frs.getD 7 Frame.init).ring.buf 0) (frameRecordBytes [(frs.getD 7 Frame.init)] ((pst.getD 7 State.reset).cam.dropped.get 0#16 3) ((pst.getD 7 State.reset).flicker 0 (frs.getD 7 Frame.init) 3).1)).1, (State.hostWrite ((((pst.getD 7 State.reset).flicker 0 (frs.getD 7 Frame.init) 3).2.hostWrite 0 ((frs.getD 7 Frame.init).ring.buf 0) (frameRecordBytes [(frs.getD 7 Frame.init)] ((pst.getD 7 State.reset).cam.dropped.get 0#16 3) ((pst.getD 7 State.reset).flicker 0 (frs.getD 7 Frame.init) 3).1)).1) 0 ((frs.getD 7 Frame.init).ring.base.toNat + 8) (leBytes 8 ((pst.getD 7 State.reset).cam.heads.get 0#64 3 + 1#64).toNat)).1, by dsimp only; (repeat' with_reducible apply And.intro) <;> first | exact pair_of (by decide +kernel) | decide +kernel⟩,
   ⟨(l14State_0.getD 0 State.reset), by decide +kernel⟩⟩

/-- States and operands that meet the hypotheses of `Obligations.Insole`, clause by clause. -/
theorem wit_Insole :
    (∃ (s : State), s.insoleLive = true ∧ s.aon.det = false ∧ s.feedPart = 15) ∧
    (∃ (s : State), s.insoleLive = true) ∧
    (∃ (s : State), s.live = true ∧ s.insoleLive = true) ∧
    (∃ (s : State), s.insoleLive = true ∧ s.feedOn = true ∧ s.aon.replay = true ∧ s.feedMoves = false ∧ (let now := s.aon.sampleNo.toNat / 256; let b := max s.aon.feedBlk.toNat s.oldestBlock; now ≤ b)) ∧
    (∃ (s : State), s.insoleLive = true ∧ s.feedOn = true ∧ s.aon.replay = true ∧ s.feedMoves = false ∧ (let now := s.aon.sampleNo.toNat / 256; let b := max s.aon.feedBlk.toNat s.oldestBlock; b < now)) :=
  ⟨⟨(aonS id), by decide +kernel⟩,
   ⟨(aonS id), by decide +kernel⟩,
   ⟨(aonS id), by decide +kernel⟩,
   ⟨(aonS (fun a => {a with replay := true, feedOwn := 0#4, feedBlk := 700#48})), by decide +kernel⟩,
   ⟨(aonS (fun a => {a with replay := true, feedOwn := 0#4, feedBlk := 600#48})), by decide +kernel⟩⟩

/-- States and operands that meet the hypotheses of `Obligations.TdmPorts`, clause by clause. -/
theorem wit_TdmPorts :
    (∃ (q : Fin 4), ∃ (s : State), let t0 := s.tdm q.val; s.live = true ∧ t0.on = true ∧ t0.running = false ∧ s.tdmStopped q.val = false ∧ t0.start.toNat ≤ s.ns) ∧
    (∃ (q : Fin 4), ∃ (s : State), let t0 := s.tdm q.val; s.live = true ∧ t0.running = true ∧ s.tdmStopped q.val = false ∧ t0.touched = true) ∧
    (∃ (q : Fin 4), ∃ (frame : List (List W32)), ∃ (s : State), let t0 := s.tdm q.val; s.live = true ∧ t0.running = true ∧ s.tdmStopped q.val = false ∧ t0.touched = false ∧ t0.use = 2 ∧ t0.blk.length + frame.length < 256) ∧
    (∃ (q : Fin 4), ∃ (f : Nat), ∃ (s : State), ∃ (own : Nat), ∃ l, ∃ k, let t0 := s.tdm q.val; let rec_ := t0.adr (0x24 + 8 * (f % 2)); s.live = true ∧ t0.running = true ∧ t0.use = 1 ∧ s.tdmStopped q.val = false ∧ s.tdmOwner q.val = some own ∧ s.hostRead own rec_ 32 = .inl l ∧ recN l 4 2 ≠ f % 65536 ∧ s.reelCore own (hIdx (t0.set.get 0#32 0).toNat) = some k) ∧
    (∃ (q : Fin 4), ∃ (s : State), ∃ (own : Nat), ∃ (l : List Byte), let t0 := s.tdm q.val; let r := t0.outRing; s.live = true ∧ t0.running = true ∧ 2 ≤ t0.use ∧ s.tdmStopped q.val = false ∧ s.tdmOwner q.val = some own ∧ r.n ≠ 0 ∧ s.ringMoves own r t0.rpos.toNat (64 + 4096 * sampleSize t0.int16) = false ∧ s.hostRead own r.base.toNat 8 = .inl l ∧ BitVec.ofNat 64 (leVal l) = t0.rpos) ∧
    (∃ (s : State), s.dbg.freeze = 0#25) :=
  ⟨⟨1, (tsl.getD 0 State.reset), by decide +kernel⟩,
   ⟨1, (tsl.getD 2 State.reset), by decide +kernel⟩,
   ⟨1, [[0x12345678#32, 0x2468acf0#32, 0x369d0368#32, 0x48d159e0#32, 0x5b05b058#32, 0x6d3a06d0#32, 0x7f6e5d48#32, 0x91a2b3c0#32, 0xa3d70a38#32, 0xb60b60b0#32, 0xc83fb728#32, 0xda740da0#32, 0xeca86418#32, 0xfedcba90#32, 0x11111108#32, 0x23456780#32], [0x1235dd0f#32, 0x246a3387#32, 0x369e89ff#32, 0x48d2e077#32, 0x5b0736ef#32, 0x6d3b8d67#32, 0x7f6fe3df#32, 0x91a43a57#32, 0xa3d890cf#32, 0xb60ce747#32, 0xc8413dbf#32, 0xda759437#32, 0xeca9eaaf#32, 0xfede4127#32, 0x1112979f#32, 0x2346ee17#32], [0x123763a6#32, 0x246bba1e#32, 0x36a01096#32, 0x48d4670e#32, 0x5b08bd86#32, 0x6d3d13fe#32, 0x7f716a76#32, 0x91a5c0ee#32, 0xa3da1766#32, 0xb60e6dde#32, 0xc842c456#32, 0xda771ace#32, 0xecab7146#32, 0xfedfc7be#32, 0x11141e36#32, 0x234874ae#32], [0x1238ea3d#32, 0x246d40b5#32, 0x36a1972d#32, 0x48d5eda5#32, 0x5b0a441d#32, 0x6d3e9a95#32, 0x7f72f10d#32, 0x91a74785#32, 0xa3db9dfd#32, 0xb60ff475#32, 0xc8444aed#32, 0xda78a165#32, 0xecacf7dd#32, 0xfee14e55#32, 0x1115a4cd#32, 0x2349fb45#32], [0x123a70d4#32, 0x246ec74c#32, 0x36a31dc4#32, 0x48d7743c#32, 0x5b0bcab4#32, 0x6d40212c#32, 0x7f7477a4#32, 0x91a8ce1c#32, 0xa3dd2494#32, 0xb6117b0c#32, 0xc845d184#32, 0xda7a27fc#32, 0xecae7e74#32, 0xfee2d4ec#32, 0x11172b64#32, 0x234b81dc#32], [0x123bf76b#32, 0x24704de3#32, 0x36a4a45b#32, 0x48d8fad3#32, 0x5b0d514b#32, 0x6d41a7c3#32, 0x7f75fe3b#32, 0x91aa54b3#32, 0xa3deab2b#32, 0xb61301a3#32, 0xc847581b#32, 0xda7bae93#32, 0xecb0050b#32, 0xfee45b83#32, 0x1118b1fb#32, 0x234d0873#32], [0x123d7e02#32, 0x2471d47a#32, 0x36a62af2#32, 0x48da816a#32, 0x5b0ed7e2#32, 0x6d432e5a#32, 0x7f7784d2#32, 0x91abdb4a#32, 0xa3e031c2#32, 0xb614883a#32, 0xc848deb2#32, 0xda7d352a#32, 0xecb18ba2#32, 0xfee5e21a#32, 0x111a3892#32, 0x234e8f0a#32], [0x123f0499#32, 0x24735b11#32, 0x36a7b189#32, 0x48dc0801#32, 0x5b105e79#32, 0x6d44b4f1#32, 0x7f790b69#32, 0x91ad61e1#32, 0xa3e1b859#32, 0xb6160ed1#32, 0xc84a6549#32, 0xda7ebbc1#32, 0xecb31239#32, 0xfee768b1#32, 0x111bbf29#32, 0x235015a1#32], [0x12408b30#32, 0x2474e1a8#32, 0x36a93820#32, 0x48dd8e98#32, 0x5b11e510#32, 0x6d463b88#32, 0x7f7a9200#32, 0x91aee878#32, 0xa3e33ef0#32, 0xb6179568#32, 0xc84bebe0#32, 0xda804258#32, 0xecb498d0#32, 0xfee8ef48#32, 0x111d45c0#32, 0x23519c38#32], [0x124211c7#32, 0x2476683f#32, 0x36aabeb7#32, 0x48df152f#32, 0x5b136ba7#32, 0x6d47c21f#32, 0x7f7c1897#32, 0x91b06f0f#32, 0xa3e4c587#32, 0xb6191bff#32, 0xc84d7277#32, 0xda81c8ef#32, 0xecb61f67#32, 0xfeea75df#32, 0x111ecc57#32, 0x235322cf#32], [0x1243985e#32, 0x2477eed6#32, 0x36ac454e#32, 0x48e09bc6#32, 0x5b14f23e#32, 0x6d4948b6#32, 0x7f7d9f2e#32, 0x91b1f5a6#32, 0xa3e64c1e#32, 0xb61aa296#32, 0xc84ef90e#32, 0xda834f86#32, 0xecb7a5fe#32, 0xfeebfc76#32, 0x112052ee#32, 0x2354a966#32], [0x12451ef5#32, 0x2479756d#32, 0x36adcbe5#32, 0x48e2225d#32, 0x5b1678d5#32, 0x6d4acf4d#32, 0x7f7f25c5#32, 0x91b37c3d#32, 0xa3e7d2b5#32, 0xb61c292d#32, 0xc8507fa5#32, 0xda84d61d#32, 0xecb92c95#32, 0xfeed830d#32, 0x1121d985#32, 0x23562ffd#32], [0x1246a58c#32, 0x247afc04#32, 0x36af527c#32, 0x48e3a8f4#32, 0x5b17ff6c#32, 0x6d4c55e4#32, 0x7f80ac5c#32, 0x91b502d4#32, 0xa3e9594c#32, 0xb61dafc4#32, 0xc852063c#32, 0xda865cb4#32, 0xecbab32c#32, 0xfeef09a4#32, 0x1123601c#32, 0x2357b694#32], [0x12482c23#32, 0x247c829b#32, 0x36b0d913#32, 0x48e52f8b#32, 0x5b198603#32, 0x6d4ddc7b#32, 0x7f8232f3#32, 0x91b6896b#32, 0xa3eadfe3#32, 0xb61f365b#32, 0xc8538cd3#32, 0xda87e34b#32, 0xecbc39c3#32, 0xfef0903b#32, 0x1124e6b3#32, 0x23593d2b#32], [0x1249b2ba#32, 0x247e0932#32, 0x36b25faa#32, 0x48e6b622#32, 0x5b1b0c9a#32, 0x6d4f6312#32, 0x7f83b98a#32, 0x91b81002#32, 0xa3ec667a#32, 0xb620bcf2#32, 0xc855136a#32, 0xda8969e2#32, 0xecbdc05a#32, 0xfef216d2#32, 0x11266d4a#32, 0x235ac3c2#32], [0x124b3951#32, 0x247f8fc9#32, 0x36b3e641#32, 0x48e83cb9#32, 0x5b1c9331#32, 0x6d50e9a9#32, 0x7f854021#32, 0x91b99699#32, 0xa3eded11#32, 0xb6224389#32, 0xc8569a01#32, 0xda8af079#32, 0xecbf46f1#32, 0xfef39d69#32, 0x1127f3e1#32, 0x235c4a59#32]], (tsl.getD 1 State.reset), by decide +kernel⟩,
   ⟨1, 5, (tdS (run 0x31) [(0xF100010104, [1])]), 0, (leBytes 32 0x100000000), 0, by decide +kernel⟩,
   ⟨1, (tsl.getD 1 State.reset), 0, [0x00#8, 0x00#8, 0x00#8, 0x00#8, 0x00#8, 0x00#8, 0x00#8, 0x00#8], by decide +kernel⟩,
   ⟨(tsl.getD 0 State.reset), by decide +kernel⟩⟩

/-- States and operands that meet the hypotheses of `Obligations.CoresFail`, clause by clause. -/
theorem wit_CoresFail :
    (∃ (c : CoreId) (s : State) (i : Instr) (j : Nat), let k := c.key; let cl := keyCl k; let f := keyCore k; s.live = true ∧ ((i = .coreHang c ∧ s.watched k = true) ∨ (i = .coreParity c ∧ (s.cl c.cl.val).powered = true)) ∧ s.fencedCore k = false ∧ s.logCore cl f = some j ∧ (s.core k).dmaq = [] ∧ (s.core k).switching.isSome = true) ∧
    (∃ (c : CoreId) (s : State) (i : Instr) (j sp : Nat), let k := c.key; let cl := keyCl k; let f := keyCore k; s.live = true ∧ ((i = .coreHang c ∧ s.watched k = true) ∨ (i = .coreParity c ∧ (s.cl c.cl.val).powered = true)) ∧ s.fencedCore k = false ∧ s.logCore cl f = some j ∧ (s.core k).dmaq = [] ∧ (s.core k).switching = none ∧ s.recovering = false ∧ s.spareOf cl = some sp ∧ sp ≠ f) ∧
    (∃ (c : CoreId) (s : State) (i : Instr) (j : Nat), let k := c.key; let cl := keyCl k; let f := keyCore k; s.live = true ∧ ((i = .coreHang c ∧ s.watched k = true) ∨ (i = .coreParity c ∧ (s.cl c.cl.val).powered = true)) ∧ s.fencedCore k = false ∧ s.logCore cl f = some j ∧ (s.core k).dmaq = [] ∧ (s.core k).switching = none ∧ s.spareOf cl = none ∧ (s.core k).chunkq = [] ∧ (∀ l, s.logCl (s.partOf k) cl = some l → s.jobsOn (s.partOf k) l j = []) ∧ (∀ n, (s.reel (s.partOf k) n).slots = [] ∨ (s.reel (s.partOf k) n).core ≠ k)) :=
  ⟨⟨⟨0, 3⟩, c15 (fun c => { c with switching := some 1 }) id, .coreParity ⟨0, 3⟩, 3, by (repeat' with_reducible apply And.intro) <;> first | exact Or.inr ⟨rfl, by decide +kernel⟩ | exact opt_all (by decide +kernel) | exact fun n => .inl rfl | decide +kernel⟩,
   ⟨⟨0, 3⟩, c15 id id, .coreParity ⟨0, 3⟩, 3, 8, by (repeat' with_reducible apply And.intro) <;> first | exact Or.inr ⟨rfl, by decide +kernel⟩ | exact opt_all (by decide +kernel) | exact fun n => .inl rfl | decide +kernel⟩,
   ⟨⟨0, 3⟩, c15 (fun c => { c with chunkq := [] }) (fun c => { c with pstate := [(8, 3#2)], pepoch := [(3, 0xFFFE#16)] }), .coreParity ⟨0, 3⟩, 3, by (repeat' with_reducible apply And.intro) <;> first | exact Or.inr ⟨rfl, by decide +kernel⟩ | exact opt_all (by decide +kernel) | exact fun n => .inl rfl | decide +kernel⟩⟩

/-- States and operands that meet the hypotheses of `Obligations.ControllersFail`, clause by clause. -/
theorem wit_ControllersFail :
    (∃ (c : Fin 8), ∃ (s : State), let x := s.cl c.val; s.live = true ∧ x.powered = true ∧ x.ctl.fenced = false ∧ x.ctl.stopped = false ∧ x.ctl.halted = false) ∧
    (∃ (c : Fin 8), ∃ (s : State), let x := s.cl c.val; s.live = true ∧ x.powered = true ∧ x.ctl.fenced = false ∧ x.ctl.halted = false ∧ x.aliveNs.toNat + 200000 ≤ s.ns ∧ (∀ k, s.noTrace k)) ∧
    (∃ (c : Fin 8), ∃ (s : State), let x := s.cl c.val; s.live = true ∧ x.powered = true ∧ x.ctl.fenced = true ∧ x.ctlEpoch ≠ 0xFFFF#16) ∧
    (∃ (s : State), s.live = true) :=
  ⟨⟨0, (l15State_0.getD 0 State.reset), by decide +kernel⟩,
   ⟨0, (l15State_0.getD 0 State.reset), by (try dsimp only); (repeat' with_reducible apply And.intro) <;> first | exact noTrace_of (by decide +kernel) | decide +kernel⟩,
   ⟨0, (l15State_0.getD 4 State.reset), by decide +kernel⟩,
   ⟨(l15State_0.getD 0 State.reset), by decide +kernel⟩⟩

/-- States and operands that meet the hypotheses of `Obligations.DevicesFail`, clause by clause. -/
theorem wit_DevicesFail :
    (∃ (node : BitVec 18), ∃ (s : State), s.live = true ∧ s.dev.master = true ∧ s.dev.geom = true ∧ node ≠ s.dev.node ∧ s.inFabric node = true ∧ s.dev.lostNodes.contains node = false ∧ (∀ c, c < 8 → (s.cl c).fab = [])) ∧
    (∃ (s : State), s.live = true) ∧
    (∃ (s : State), s.live = true ∧ (s.link 6).state = 5#3 ∧ s.dev.master = true ∧ (∀ p, p < 8 → (s.func p).cmds = [])) :=
  ⟨⟨0x00001#18, (dv15 id), by decide +kernel⟩,
   ⟨(dv15 id), by decide +kernel⟩,
   ⟨{dv15 id with links := [(6, {Link.init with state := 5#3})], parts := [(0, {base.part 0 with lockstep := true, sigs := [SigRec.init], jobs := [(1, {Job.init with lock := true})]})]}, by decide +kernel⟩⟩

/-- States and operands that meet the hypotheses of `Obligations.LockStep`, clause by clause. -/
theorem wit_LockStep :
    (∃ (q : Fin 8), ∃ (ctr : Nat), ∃ (data : List Byte), ∃ (s : State), ∃ (a : SigRec), let p := q.val; s.live = true ∧ s.linkUp 6 = true ∧ (s.part p).lockstep = true ∧ (s.func p).cmds = [] ∧ (s.part p).sigs = [a] ∧ (s.part p).peerSigs = [] ∧ s.openSig p ctr data = none) ∧
    (∃ (q : Fin 8), ∃ (ctr : Nat), ∃ (data : List Byte), ∃ (s : State), ∃ (a : SigRec), let p := q.val; s.live = true ∧ s.linkUp 6 = true ∧ (s.part p).lockstep = true ∧ (s.func p).cmds = [] ∧ (s.part p).sigs = [a] ∧ (s.part p).peerSigs = [] ∧ s.conf p = false) ∧
    (∃ (q : Fin 8), ∃ (ctr : Nat), ∃ (data : List Byte), ∃ (s : State), ∃ (a : SigRec), ∃ l, let p := q.val; s.live = true ∧ s.linkUp 6 = true ∧ (s.part p).lockstep = true ∧ (s.func p).cmds = [] ∧ (s.part p).sigs = [a] ∧ (s.part p).peerSigs = [] ∧ s.openSig p ctr data = some l ∧ (let r := sigOf l s.nsW; a.job = r.job ∧ a.n = r.n ∧ a.core = r.core ∧ a.sig = r.sig)) ∧
    (∃ (q : Fin 8), ∃ (ctr : Nat), ∃ (data : List Byte), ∃ (s : State), ∃ (a : SigRec), ∃ l, let p := q.val; s.live = true ∧ s.linkUp 6 = true ∧ (s.part p).lockstep = true ∧ (s.func p).cmds = [] ∧ (s.part p).sigs = [a] ∧ (s.part p).peerSigs = [] ∧ s.openSig p ctr data = some l ∧ (let r := sigOf l s.nsW; a.job = r.job ∧ a.n = r.n ∧ a.core = r.core ∧ a.sig ≠ r.sig ∧ r.job < 2 ^ 32 ∧ (s.job p r.job).lock = true)) ∧
    (∃ (q : Fin 8), ∃ (ctr : Nat), ∃ (data : List Byte), ∃ (s : State), ∃ (a : SigRec), ∃ l, let p := q.val; s.live = true ∧ s.linkUp 6 = true ∧ (s.part p).lockstep = true ∧ (s.func p).cmds = [] ∧ (s.part p).sigs = [a] ∧ (s.part p).peerSigs = [] ∧ s.openSig p ctr data = some l ∧ (let r := sigOf l s.nsW; (a.job ≠ r.job ∨ a.n ≠ r.n ∨ a.core ≠ r.core))) ∧
    (∃ (q : Fin 8), ∃ (job : Nat), ∃ (n : Nat), ∃ (core : Nat), ∃ (s : State), ∃ (r : SigRec), let p := q.val; s.live = true ∧ (s.func p).cmds = [] ∧ (s.part p).sigs.find? (fun r => r.job == job && r.n == n && r.core == core) = some r ∧ r.ns.toNat + 10000000 ≤ s.ns) :=
  ⟨⟨0, 1, sg.bytes, (l15State_1.getD 4 State.reset), sg, by decide +kernel⟩,
   ⟨0, 1, sg.bytes, (l15State_1.getD 0 State.reset), sg, by decide +kernel⟩,
   ⟨0, 1, sg.bytes, (l15State_1.getD 0 State.reset), sg, (leBytes 36 0x900000000000000000000000300000000000000020000000000000001), by decide +kernel⟩,
   ⟨0, 1, {sg with sig := 8}.bytes, (l15State_1.getD 0 State.reset), sg, (leBytes 36 0x800000000000000000000000300000000000000020000000000000001), by decide +kernel⟩,
   ⟨0, 1, sg.bytes, (l15State_1.getD 1 State.reset), {sg with n := 3}, (leBytes 36 0x900000000000000000000000300000000000000020000000000000001), by decide +kernel⟩,
   ⟨0, 1, 2, 3, (l15State_1.getD 0 State.reset), sg, by decide +kernel⟩⟩

/-- States and operands that meet the hypotheses of `Obligations.Dailies`, clause by clause. -/
theorem wit_Dailies :
    (∃ (r : Requester), ∃ (s : State), s.live = true ∧ (r = .mgmt ∨ r = .devCtl)) ∧
    (∃ (c : Fin 8), ∃ (v : W32), ∃ (s : State), s.live = true ∧ v.getLsbD 0 = false ∧ bitsAt v.toNat 1 2 ≠ 3) ∧
    (∃ (c : Fin 8), ∃ (v : W32), ∃ (s : State), s.live = true ∧ (let x := s.trace c.val; v.getLsbD 0 = true ∧ bitsAt v.toNat 1 2 ≠ 3 ∧ x.cfg.getLsbD 0 = false ∧ x.state = 0#2 ∧ s.carveFits c.val = true ∧ v.getLsbD 8 = false)) ∧
    (∃ (c : Fin 8), ∃ (s : State), s.live = true) :=
  ⟨⟨Sys2Proof.Requester.devCtl, (l15State_2.getD 0 State.reset), by decide +kernel⟩,
   ⟨0, 0x00000000#32, (l15State_2.getD 0 State.reset), by decide +kernel⟩,
   ⟨0, 0x00000001#32, (l15State_2.getD 0 State.reset), by decide +kernel⟩,
   ⟨0, (l15State_2.getD 0 State.reset), by decide +kernel⟩⟩

/-- States and operands that meet the hypotheses of `Obligations.Freezes`, clause by clause. -/
theorem wit_Freezes :
    (∃ (s : State), s.pins.vddAon = true ∧ s.dbg.freeze = 0#25 ∧ s.confAny = false) ∧
    (∃ (s : State), s.pins.vddAon = true ∧ s.dbg.freeze = 0#25 ∧ s.confAny = true) ∧
    (∃ (s : State), s.tapLive = true ∧ s.confAny = false) ∧
    (∃ (s : State), s.tapLive = true ∧ s.confAny = true) :=
  ⟨⟨bb, by decide +kernel⟩,
   ⟨(cf bb), by decide +kernel⟩,
   ⟨bb, by decide +kernel⟩,
   ⟨(cf bb), by decide +kernel⟩⟩

/-- States and operands that meet the hypotheses of `Obligations.TapPins`, clause by clause. -/
theorem wit_TapPins :
    (∃ (s : State), ∃ (i : Instr), ∃ (ir : Byte), ∃ (ctl : BitVec 2), s.tapLive = true ∧ ((i = .extest ∧ ir = 3#8 ∧ ctl = 1#2) ∨ (i = .extestPulse ∧ ir = 4#8 ∧ ctl = 1#2) ∨ (i = .extestTrain ∧ ir = 5#8 ∧ ctl = 1#2) ∨ (i = .clamp ∧ ir = 6#8 ∧ ctl = 1#2) ∨ (i = .highz ∧ ir = 7#8 ∧ ctl = 2#2)) ∧ s.confAny = false ∧ (s.pins.resetN = false ∨ s.dbg.freeze ≠ 0#25)) ∧
    (∃ (s : State), ∃ (i : Instr), ∃ (ir : Byte), ∃ (ctl : BitVec 2), s.tapLive = true ∧ ((i = .extest ∧ ir = 3#8 ∧ ctl = 1#2) ∨ (i = .extestPulse ∧ ir = 4#8 ∧ ctl = 1#2) ∨ (i = .extestTrain ∧ ir = 5#8 ∧ ctl = 1#2) ∨ (i = .clamp ∧ ir = 6#8 ∧ ctl = 1#2) ∨ (i = .highz ∧ ir = 7#8 ∧ ctl = 2#2)) ∧ s.pins.resetN = true ∧ s.dbg.freeze = 0#25) ∧
    (∃ (s : State), ∃ (i : Instr), ∃ (ir : Byte), ∃ (ctl : BitVec 2), s.tapLive = true ∧ ((i = .extest ∧ ir = 3#8 ∧ ctl = 1#2) ∨ (i = .extestPulse ∧ ir = 4#8 ∧ ctl = 1#2) ∨ (i = .extestTrain ∧ ir = 5#8 ∧ ctl = 1#2) ∨ (i = .clamp ∧ ir = 6#8 ∧ ctl = 1#2) ∨ (i = .highz ∧ ir = 7#8 ∧ ctl = 2#2)) ∧ s.confAny = true) :=
  ⟨⟨{bb with pins := {bb.pins with resetN := false}}, .extest, 0x03#8, 0x1#2, by decide +kernel⟩,
   ⟨bb, .extest, 0x03#8, 0x1#2, by decide +kernel⟩,
   ⟨(cf bb), .extest, 0x03#8, 0x1#2, by decide +kernel⟩⟩

/-- States and operands that meet the hypotheses of `Obligations.TestAccess`, clause by clause. -/
theorem wit_TestAccess :
    (∃ (s : State), s.tapLive = true) ∧
    (∃ s : State, s.tapLive = true ∧ s.confAny = true ∧ ∃ i : Instr, i = .chainOut ∨ (∃ n, i = .chainSel n) ∨ (∃ v, i = .memOut v) ∨ (∃ v w, i = .dbgCsr v w) ∨ (∃ c, i = .samplePreload c)) ∧
    (∃ (s : State), s.tapLive = true ∧ s.confAny = false) ∧
    (∃ (s : State), s.tapLive = true ∧ s.confAny = false ∧ s.dbg.freeze = 0#25) ∧
    (∃ (s : State), s.tapLive = true ∧ s.confAny = false ∧ s.dbg.freeze ≠ 0#25) ∧
    (∃ (s : State), ∃ (v : W64), s.tapLive = true ∧ s.confAny = false ∧ bitsAt v.toNat 0 24 = 0x40000) :=
  ⟨⟨bb, by decide +kernel⟩,
   ⟨cf bb, by decide +kernel, by decide +kernel, .chainOut, .inl rfl⟩,
   ⟨bb, by decide +kernel⟩,
   ⟨bb, by decide +kernel⟩,
   ⟨{bb with dbg := {bb.dbg with freeze := 5#25}}, by decide +kernel⟩,
   ⟨bb, 0x0000000000040000#64, by decide +kernel⟩⟩

/-- States and operands that meet the hypotheses of `Obligations.ResetAndRom`, clause by clause. -/
theorem wit_ResetAndRom :
    (∃ (s : State), s.pins.resetN = true) ∧
    (∃ (s : State), s.pins.resetN = false ∧ s.pins.vddAon = true ∧ s.pins.insoleUp = true ∧ s.pins.mainOff = false ∧ s.pins.enSeq = none) ∧
    (∃ (s : State), s.pins.resetN = true ∧ s.time.locked = false ∧ s.pins.mainOff = false ∧ s.dbg.freeze = 0#25) :=
  ⟨⟨(l16State_0.getD 0 State.reset), by decide +kernel⟩,
   ⟨(l16State_0.getD 1 State.reset), by decide +kernel⟩,
   ⟨(l16State_0.getD 12 State.reset), by decide +kernel⟩⟩

/-- States and operands that meet the hypotheses of `Obligations.Images`, clause by clause. -/
theorem wit_Images :
    (∃ (data : List Byte), ∃ (s : State), s.live = true ∧ s.wantsImage = true ∧ s.dev.bootSrc = false ∧ s.usbBulk = true ∧ (let bursts := max 1 (ceilDiv data.length burstBytes); s.takeBursts 8 bursts = none)) ∧
    (∃ (data : List Byte), ∃ (s : State), ∃ u, s.live = true ∧ s.wantsImage = true ∧ s.dev.bootSrc = false ∧ s.usbBulk = true ∧ (let bursts := max 1 (ceilDiv data.length burstBytes); s.takeBursts 8 bursts = some u)) ∧
    (∃ (s : State), s.live = true ∧ s.dev.boot = 2#4 ∧ s.dev.master = false ∧ s.dev.geom = false ∧ upLink s.node = none) :=
  ⟨⟨[], {bt 0 (fun d => {d with own := [(0, { clusters := 1#8, stks := 1#8, conf := true, v := true })]}) [] with usb := {Usb.init with connected := true, speed := 5#3, share := [(0, 64#7)]}}, by decide +kernel⟩,
   ⟨[], (bt 0 id []), (let data : List Byte := []; let last : Bool := false; let s : State := (bt 0 id []); let bursts := max 1 (ceilDiv data.length burstBytes); let l := s.usbData ++ data; (s.takeBursts 8 bursts).getD State.reset), by decide +kernel⟩,
   ⟨(bt 2 id (img 12)), by decide +kernel⟩⟩

/-- States and operands that meet the hypotheses of `Obligations.Rails`, clause by clause. -/
theorem wit_Rails :
    (∃ (s : State), s.pins.vddAon = false) ∧
    (∃ (s : State), s.pins.vddAon = true) ∧
    (∃ (s : State), s.pins.vddAon = true ∧ s.pins.insoleUp = true ∧ s.pins.mainOff = false ∧ s.pins.en = 0#13 ∧ s.pins.enSeq = none) ∧
    (∃ (s : State), ∃ (n : Fin 14), s.pins.vddAon = true ∧ n.val < 6 ∧ s.dbg.freeze = 0#25 ∧ (if n.val = 0 then !s.pins.mainOff else s.pins.en.getLsbD (n.val - 1)) = true) ∧
    (∃ (s : State), s.pins.vddAon = true ∧ s.pins.resetN = false ∧ s.pins.latched = false ∧ (s.pins.shutdown = true ∨ s.pins.therm = true)) ∧
    (∃ (s : State), s.pins.vddAon = true ∧ s.pins.latched = true) ∧
    (∃ (s : State), ∃ (i : Nat), s.pins.enSeq = some i ∧ i < 13) ∧
    (∃ (s : State), s.dbg.freeze = 0#25 ∧ s.pins.en.getLsbD 1 = true) ∧
    (∃ (s : State), s.pins.en.getLsbD 1 = false) ∧
    (∃ (c : Fin 8), ∃ (s : State), s.live = true ∧ (s.cl c.val).powered = true ∧ s.gaf.cur = none ∧ s.gaf.clTrans = [] ∧ (∀ p, s.ownerCl c.val = some p → (s.part p).jobs = [] ∧ ∀ j, j < 9 → (s.core (coreKey c.val j)).chunkq = [] ∧ (s.core (coreKey c.val j)).dmaq = [])) :=
  ⟨⟨(l16State_0.getD 4 State.reset), by decide +kernel⟩,
   ⟨(l16State_0.getD 0 State.reset), by decide +kernel⟩,
   ⟨(l16State_0.getD 1 State.reset), by decide +kernel⟩,
   ⟨(l16State_0.getD 0 State.reset), 0, by decide +kernel⟩,
   ⟨(l16State_0.getD 5 State.reset), by decide +kernel⟩,
   ⟨(l16State_0.getD 6 State.reset), by decide +kernel⟩,
   ⟨(l16State_0.getD 7 State.reset), 3, by decide +kernel⟩,
   ⟨(l16State_0.getD 0 State.reset), by decide +kernel⟩,
   ⟨(l16State_0.getD 1 State.reset), by decide +kernel⟩,
   ⟨0, (l16State_0.getD 0 State.reset), by (try dsimp only); (repeat' with_reducible apply And.intro) <;> first | exact opt_all (by decide +kernel) | decide +kernel⟩⟩

/-- States and operands that meet the hypotheses of `Obligations.PgTimeoutLatches`, clause by clause. -/
theorem wit_PgTimeoutLatches :
    (∃ (n : Fin 14), ∃ (s : State), s.pins.vddAon = true ∧ s.pins.resetN = false ∧ 1 ≤ n.val ∧ s.pins.en.getLsbD (n.val - 1) = true) ∧
    (∃ s : State, Claims.latchedOff s ∧ s.pending.head? ≠ some .vddAonLoss ∧ step s = .next (nxt (step s))) ∧
    (∃ (s : State), Claims.latchedOff s) :=
  ⟨⟨1, (l16State_0.getD 5 State.reset), by decide +kernel⟩,
   ⟨{ l16State_0.getD 6 State.reset with pending := [.usbConnect 5] }, by dsimp only [Claims.latchedOff]; decide +kernel, by decide, nxt_of (by decide +kernel)⟩,
   ⟨(l16State_0.getD 6 State.reset), by dsimp only [Claims.latchedOff]; decide +kernel⟩⟩

/-- States and operands that meet the hypotheses of `Obligations.StepRunsFront`, clause by clause. -/
theorem wit_StepRunsFront :
    (let s : State := { base with time := { Time.init with locked := true }, cores := [(0, { core0 { thr 0#64 [] with st := .waitMem, wait := .page 0x20000 } with qStall := [0x20], dmaq := [{ DmaOp.init with waitHost := [5] }] })] }; s.live = true ∧ s.time.locked = true ∧ s.pending = [] ∧ (∀ p, p < 8 → (s.secp p).ep1 = []) ∧ s.cores.has 0 = true ∧ (s.core 0).qStall = [0x20] ∧ (∃ x ∈ (s.core 0).threads, ∃ a, x.2.wait = .page a) ∧ (s.core 0).hostCame = false ∧ (∃ o ∈ (s.core 0).dmaq, o.waitHost ≠ [])) ∧
    ((State.reset.live = false ∨ State.reset.time.locked = false) ∧ State.reset.pending = []) :=
  ⟨⟨by decide +kernel, rfl, rfl, by decide +kernel, by decide +kernel, rfl, ⟨_, .head _, _, rfl⟩, rfl, ⟨_, .head _, by decide⟩⟩,
   by decide +kernel⟩

/-- States and operands that meet the hypotheses of `Obligations.FrozenStands`, clause by clause. -/
theorem wit_FrozenStands :
    (let s : State := { base with dbg := { Dbg.init with freeze := 5#25 }, pending := [.hbmRefresh 0] }; s.dbg.freeze ≠ 0#25 ∧ (∀ c, s.pending.head? = some c → c ≠ .resetNFall ∧ c ≠ .vddAonRise ∧ c ≠ .vddAonLoss) ∧ step s = .next (nxt (step s))) ∧
    (base.pins.resetN = true) :=
  ⟨⟨by decide, opt_all (by decide), nxt_of (by decide +kernel)⟩,
   rfl⟩

/-- States and operands that meet the hypotheses of `Obligations.ResetHolds`, clause by clause. -/
theorem wit_ResetHolds :
    (let s : State := { State.reset with pending := [.hbmRefresh 0] }; Claims.held s ∧ s.pending.head? ≠ some .resetNRise ∧ step s = .next (nxt (step s))) :=
  ⟨by dsimp only [Claims.held]; decide +kernel, by decide, nxt_of (by decide +kernel)⟩

/-- States and operands that meet the hypotheses of `Obligations.ResetStateHeld`, clause by clause. -/
theorem wit_ResetStateHeld :
    (∃ a, a < 8 * stackBytes) ∧
    (∃ i, i < 3) :=
  ⟨⟨0, by decide⟩,
   ⟨0, by decide⟩⟩

/-- A list that is read stands as the last witness of a mono port's block. -/
theorem tdmMono_of (q : Fin 4) (f : Nat) (s : State) (own : Nat)
    (h1 : s.live = true) (h2 : (s.tdm q.val).running = true) (h3 : (s.tdm q.val).use = 1)
    (h4 : s.tdmStopped q.val = false) (h5 : s.tdmOwner q.val = some own)
    (m1 : s.mvPart own ((s.tdm q.val).adr (0x24 + 8 * (f % 2))) 32 = false)
    (m2 : s.mvPart own ((s.tdm q.val).adr (0x14 + 8 * (f % 2))) (256 * sampleSize (s.tdm q.val).int16) = false)
    (h6 : (s.hostRead own ((s.tdm q.val).adr (0x24 + 8 * (f % 2))) 32).isLeft = true)
    (h7 : recN (getL (s.hostRead own ((s.tdm q.val).adr (0x24 + 8 * (f % 2))) 32)) 0 1 = 0)
    (h8 : recN (getL (s.hostRead own ((s.tdm q.val).adr (0x24 + 8 * (f % 2))) 32)) 4 2 = f % 65536)
    (h9 : (s.hostRead own ((s.tdm q.val).adr (0x14 + 8 * (f % 2)))
      (256 * sampleSize (s.tdm q.val).int16)).isLeft = true) :
    ∃ (q : Fin 4) (f : Nat) (s : State) (own : Nat) (l d : List Byte), let t0 := s.tdm q.val; let rec_ := t0.adr (0x24 + 8 * (f % 2)); let buf := t0.adr (0x14 + 8 * (f % 2)); s.live = true ∧ t0.running = true ∧ t0.use = 1 ∧ s.tdmStopped q.val = false ∧ s.tdmOwner q.val = some own ∧ s.mvPart own rec_ 32 = false ∧ s.mvPart own buf (256 * sampleSize t0.int16) = false ∧ s.hostRead own rec_ 32 = .inl l ∧ recN l 0 1 = 0 ∧ recN l 4 2 = f % 65536 ∧ s.hostRead own buf (256 * sampleSize t0.int16) = .inl d :=
  ⟨q, f, s, own, getL _, getL _, h1, h2, h3, h4, h5, m1, m2, getL_of h6, h7, h8, getL_of h9⟩

/-- A port pinned to a core whose block stands ready. -/
theorem wit_TdmPorts_mono :
    ∃ (q : Fin 4) (f : Nat) (s : State) (own : Nat) (l d : List Byte), let t0 := s.tdm q.val; let rec_ := t0.adr (0x24 + 8 * (f % 2)); let buf := t0.adr (0x14 + 8 * (f % 2)); s.live = true ∧ t0.running = true ∧ t0.use = 1 ∧ s.tdmStopped q.val = false ∧ s.tdmOwner q.val = some own ∧ s.mvPart own rec_ 32 = false ∧ s.mvPart own buf (256 * sampleSize t0.int16) = false ∧ s.hostRead own rec_ 32 = .inl l ∧ recN l 0 1 = 0 ∧ recN l 4 2 = f % 65536 ∧ s.hostRead own buf (256 * sampleSize t0.int16) = .inl d :=
  by apply tdmMono_of 1 0 (tdS (run 0x31) []) 0 <;>
    first | exact hostRead_left (by decide +kernel) (by decide +kernel) | decide +kernel

/-- The block that is read stands as the last witness of a port with a ring. -/
theorem tdmPlay_of (q : Fin 4) (s : State) (own : Nat)
    (h1 : s.live = true) (h2 : (s.tdm q.val).running = true) (h3 : 2 ≤ (s.tdm q.val).use)
    (h4 : s.tdmStopped q.val = false) (h5 : s.tdmOwner q.val = some own)
    (h6 : (s.tdm q.val).outRing.n ≠ 0)
    (m : s.ringMoves own (s.tdm q.val).outRing (s.tdm q.val).rpos.toNat (64 + 4096 * sampleSize (s.tdm q.val).int16) = false)
    (h7 : (s.hostRead own (s.tdm q.val).outRing.base.toNat 8).isLeft = true)
    (h8 : BitVec.ofNat 64 (leVal (getL (s.hostRead own (s.tdm q.val).outRing.base.toNat 8))) ≠ (s.tdm q.val).rpos)
    (h9 : (s.hostRead own ((s.tdm q.val).outRing.buf (s.tdm q.val).rpos.toNat + 64)
      (4096 * sampleSize (s.tdm q.val).int16)).isLeft = true) :
    ∃ (q : Fin 4) (s : State) (own : Nat) (l d : List Byte), let t0 := s.tdm q.val; let r := t0.outRing; s.live = true ∧ t0.running = true ∧ 2 ≤ t0.use ∧ s.tdmStopped q.val = false ∧ s.tdmOwner q.val = some own ∧ r.n ≠ 0 ∧ s.ringMoves own r t0.rpos.toNat (64 + 4096 * sampleSize t0.int16) = false ∧ s.hostRead own r.base.toNat 8 = .inl l ∧ BitVec.ofNat 64 (leVal l) ≠ t0.rpos ∧ s.hostRead own (r.buf t0.rpos.toNat + 64) (4096 * sampleSize t0.int16) = .inl d :=
  ⟨q, s, own, getL _, getL _, h1, h2, h3, h4, h5, h6, m, getL_of h7, h8, getL_of h9⟩

/-- A port with a ring whose next block stands ready. -/
theorem wit_TdmPorts_play :
    ∃ (q : Fin 4) (s : State) (own : Nat) (l d : List Byte), let t0 := s.tdm q.val; let r := t0.outRing; s.live = true ∧ t0.running = true ∧ 2 ≤ t0.use ∧ s.tdmStopped q.val = false ∧ s.tdmOwner q.val = some own ∧ r.n ≠ 0 ∧ s.ringMoves own r t0.rpos.toNat (64 + 4096 * sampleSize t0.int16) = false ∧ s.hostRead own r.base.toNat 8 = .inl l ∧ BitVec.ofNat 64 (leVal l) ≠ t0.rpos ∧ s.hostRead own (r.buf t0.rpos.toNat + 64) (4096 * sampleSize t0.int16) = .inl d :=
  by apply tdmPlay_of 1 (tdS (run 0x3B) [(0xF100014000, [1])]) 0 <;>
    first | exact hostRead_left (by decide +kernel) (by decide +kernel) | decide +kernel

/-- A MOVE of page 2 from core store 0 to the cluster store: its plan is one group, whose places are in order. -/
theorem wit_MovesStart_group :
    let o : DmaOp := { op0 with kind := .move, dst := 0x20000#64, len := 0x10000#64, dest := 1#8 }
    let s := st6d o
    ∃ g, s.movePlan 0 0x20000 0x10000 1 = .inr [g] ∧
      Claims.groupClean s 0 0 g (fun _ => 0xF100010000) (fun _ => 0xF000000000) :=
  ⟨[(2, 0x5#64)], by decide +kernel,
    by constructor <;> first | exact noTrace_of rfl 0 | decide +kernel⟩

/-! ### Ill-formed commands -/

/-- A row's word has the row's opcode (R184). -/
theorem test_illFormed_opcode : (Instr.add (.thread h0) (wd 0x01 1 2 3 0 0 0)).wf = false := by decide +kernel
theorem test_wellFormed_opcode : (Instr.add (.thread h0) (wd 0x00 1 2 3 0 0 0)).wf = true := by decide +kernel
/-- A payload is at most 4,032 bytes (Table HST-3). -/
theorem test_illFormed_payload :
    (Instr.cmdNop 0 { CmdHdr.init with payload := List.replicate 4033 0 }).wf = false := by decide +kernel
/-- A packet carries at most 256 bytes (R532). -/
theorem test_illFormed_packet : (Instr.wr 0 { Packet.init with data := List.replicate 257 0 } .none).wf = false := by decide +kernel
/-- Each corrected symbol is named once (R523). -/
theorem test_illFormed_flit : (Instr.flitReceive 0 [3, 3] true 0).wf = false := by decide +kernel
/-- A word with another opcode stops (log 1). -/
theorem test_malformed : isNxt (exec (.add (.thread h0) (wd 0x01 1 2 3 0 0 0)) (at0 (wd 0x01 1 2 3 0 0 0) [])) = false := by
  decide +kernel
/-- No row of the table has bits. -/
theorem test_noBits : decodeTableWord 64 0 = none := rfl

/-! ### Single steps -/

/-- A register of thread 0 after a row's word. -/
def regAfter (i : W64 → Instr) (w : W64) (gr : SMap W64) (n : Nat) : W64 := ((nxt (exec (i w) (at0 w gr))).thr 0 0).g n

/-- DIV by zero returns all ones (R189). -/
theorem test_div_zero : regAfter (.div (.thread h0)) (wd 0x0B 1 2 3 0 0 0) [(2, 5#64)] 1 = -1#64 := by decide +kernel
/-- REM of −2^63 by −1 is 0 (R190). -/
theorem test_rem_overflow :
    regAfter (.rem (.thread h0)) (wd 0x0D 1 2 3 0 0 0) [(1, 7#64), (2, 0x8000000000000000#64), (3, -1#64)] 1 = 0#64 := by decide +kernel
/-- D may be a source, and the sum wraps at 2^64 (R188). -/
theorem test_add_wraps : regAfter (.add (.thread h0)) (wd 0x00 1 1 2 0 0 0) [(1, -1#64), (2, 3#64)] 1 = 2#64 := by decide +kernel
/-- g0 reads zero and discards writes (R55). -/
theorem test_g0 : regAfter (.addi (.thread h0)) (wd 0x10 0 0 0 0 0 9) [] 0 = 0#64 := by decide +kernel
/-- SRA brings in the sign. -/
theorem test_sra_sign :
    regAfter (.srai (.thread h0)) (wd 0x17 1 2 0 0 0 4) [(2, 0x8000000000000000#64)] 1 = 0xF800000000000000#64 := by decide +kernel
/-- A branch goes to PC + sext(IMM) × 8 (R195). -/
theorem test_branch_back :
    ((nxt (exec (.beq (.thread h0) (wd 0x30 0 1 2 0 0 0xFFFFFFFF)) (at0 (wd 0x30 0 1 2 0 0 0xFFFFFFFF) []))).thr 0 0).pc =
      0xFFF8#64 := by decide +kernel
/-- A tick adds the increment, whose reset value is 0xD555_5555 (R584, R589). -/
theorem test_tick_slate :
    (nxt (step { base with time := { Time.init with locked := true } })).time.slate = 0xD5555555#96 := by decide +kernel
/-- A device in reset takes no command (R646). -/
theorem test_reset_holds : (nxt (exec (.usbConnect 5) State.reset)).usb.connected = false := by decide +kernel

end Sys2Proof.Tests
end

section
/-! Packets with a stale epoch (R566): what the queues of links and the event queues change, and what a dropped packet leaves. -/
namespace Sys2Proof.Machine

/-! ### Packets queued at links -/

/-- Nothing but the links differs, and no counter of theirs: packets have been queued. -/
structure State.onlyQueues (s t : State) : Prop where
  frame : t = { s with links := t.links }
  counts : ∀ j, (t.link j).cnt = (s.link j).cnt

theorem State.onlyQueues_refl (s : State) : s.onlyQueues s := ⟨rfl, fun _ => rfl⟩

theorem State.onlyQueues.trans {s t u : State} (h : s.onlyQueues t) (g : t.onlyQueues u) : s.onlyQueues u where
  frame := g.frame.trans (by rw [h.frame])
  counts j := (g.counts j).trans (h.counts j)

/-- An update of a link that keeps its counters. -/
theorem State.updLink_onlyQueues (s : State) (l : Nat) (f : Link → Link) (hf : ∀ x, (f x).cnt = x.cnt) :
    s.onlyQueues (s.updLink l f) where
  frame := rfl
  counts j := by
    by_cases h : j = l
    · rw [h, State.link_updLink_same, hf]
    · rw [State.link_updLink_ne s l j f h]

theorem State.enqueue_onlyQueues (s : State) (l input : Nat) (k : Packet) : s.onlyQueues (s.enqueue l input k) := by
  unfold State.enqueue
  split <;> exact s.updLink_onlyQueues l _ fun _ => rfl

theorem State.sendPacket_onlyQueues (s : State) (input : Nat) (k : Packet) : s.onlyQueues (s.sendPacket input k) := by
  unfold State.sendPacket
  split
  · exact s.onlyQueues_refl
  · split
    · exact s.enqueue_onlyQueues ..
    · split
      · exact s.enqueue_onlyQueues ..
      · exact s.onlyQueues_refl

/-- A broadcast passed on is queued at links, and no more. -/
theorem State.passOn_onlyQueues (s : State) (l : Nat) (k : Packet) : s.onlyQueues (s.passOn l k) :=
  List.foldlRecOn _ _ s.onlyQueues_refl fun t ht o _ => ht.trans (t.enqueue_onlyQueues o l _)

/-! ### Event records while no Dailies records -/

/-- Nothing but the USB port and Dailies differs; no Dailies starts or stops, and EP3 keeps every record queued on it. -/
structure State.onlyReports (s t : State) : Prop where
  frame : t = { s with usb := t.usb, dbg := t.dbg }
  tracing : ∀ c, (t.trace c).state = (s.trace c).state
  kept : ∀ e ∈ s.usb.evq.get [] 8, e ∈ t.usb.evq.get [] 8

theorem State.onlyReports_refl (s : State) : s.onlyReports s := ⟨rfl, fun _ => rfl, fun _ he => he⟩

theorem State.onlyReports.trans {s t u : State} (h : s.onlyReports t) (g : t.onlyReports u) : s.onlyReports u where
  frame := g.frame.trans (by rw [h.frame])
  tracing c := (g.tracing c).trans (h.tracing c)
  kept e he := g.kept e (h.kept e he)

theorem State.onlyReports.noTrace {s t : State} (h : s.onlyReports t) (hs : ∀ k, s.noTrace k) (k : Nat) : t.noTrace k := by
  rw [State.noTrace, h.tracing]
  exact hs k

theorem State.postRaw_onlyReports (s : State) (q : Nat) (r : EventRec) : s.onlyReports (s.postRaw q r) := by
  unfold State.postRaw
  split
  · exact s.onlyReports_refl
  · dsimp only
    split
    · exact ⟨rfl, fun _ => rfl, fun _ he => he⟩
    · refine ⟨rfl, fun _ => rfl, fun e he => ?_⟩
      by_cases hq : q = 8
      · subst hq; simp [he]
      · simpa [SMap.get_put_ne _ _ _ _ _ (Ne.symm hq)] using he

/-- EP3 always delivers, and queues a record while it holds fewer than 256 (R633). -/
theorem State.mem_postRaw (s : State) (r : EventRec) (h : (s.usb.evq.get [] 8).length < 256) :
    r ∈ (s.postRaw 8 r).usb.evq.get [] 8 := by
  have hopen : s.evOpen 8 = true := rfl
  simp [State.postRaw, hopen, Nat.not_le.2 h]

/-- An update of one Dailies that keeps whether it records. -/
theorem State.updTrace_onlyReports (s : State) (c : Nat) (f : Trace → Trace) (hf : (f (s.trace c)).state = (s.trace c).state) :
    s.onlyReports (s.updTrace c f) where
  frame := rfl
  tracing j := by
    by_cases h : j = c
    · subst h; simpa [State.trace, State.updTrace] using hf
    · simp [State.trace, State.updTrace, SMap.get_upd_ne _ _ _ _ _ h]
  kept _ he := he

/-- A Dailies that does not record takes no trigger: it misses it at most (R847). -/
theorem State.takeTrigger_onlyReports (s : State) (c cause core thr : Nat) (h : ∀ k, s.noTrace k) :
    s.onlyReports (s.takeTrigger c cause core thr).1 := by
  have hc : (s.trace c).state ≠ 1#2 ∧ (s.trace c).state ≠ 2#2 := by
    have := h (16 * c)
    rwa [State.noTrace, keyCl, Nat.mul_div_cancel_left c (by decide)] at this
  rw [State.takeTrigger, if_neg (not_or.2 hc)]
  split
  · exact s.updTrace_onlyReports c _ rfl
  · exact s.onlyReports_refl

/-- A device-level record, with the triggers that its code makes, changes the port and Dailies only. -/
theorem State.postDev_onlyReports (s : State) (code source unit part detail : Nat) (h : ∀ k, s.noTrace k) :
    (s.postRaw 8 (s.mkEvent code source unit part true detail)).onlyReports (s.postDev code source unit part detail) := by
  have hr := s.postRaw_onlyReports 8 (s.mkEvent code source unit part true detail)
  unfold State.postDev State.post
  dsimp only
  split
  · refine List.foldlRecOn _ _ (State.onlyReports_refl _) fun t ht c _ => ?_
    have hk := (hr.trans ht).noTrace h
    split
    · have htr := ht.trans (t.takeTrigger_onlyReports c 1 0 0 hk)
      split
      · exact htr.trans (State.postRaw_onlyReports ..)
      · exact htr
    · exact ht
  · exact State.onlyReports_refl _

/-! ### The drop -/

/-- What the arrival of a packet with a stale epoch on a link leaves (R566): no effect of the packet, the count, and EV_FENCE
unless the queue of EP3 is full. -/
structure State.staleDropped (s t : State) (l : Nat) : Prop where
  mem : t.mem = s.mem
  cores : t.cores = s.cores
  clusters : t.clusters = s.clusters
  dev : t.dev = s.dev
  time : t.time = s.time
  boot : t.boot = s.boot
  count : (t.link l).cnt.get 0#32 0x118 = satInc ((s.link l).cnt.get 0#32 0x118)
  event : (s.usb.evq.get [] 8).length < 256 → ∃ e, e ∈ t.usb.evq.get [] 8 ∧ e.code = 6#8 ∧ e.dev = true

/-- Packets queued after the drop change nothing of it. -/
theorem State.staleDropped.queues {s t u : State} {l : Nat} (h : s.staleDropped t l) (g : t.onlyQueues u) :
    s.staleDropped u l := by
  have hc := g.counts l
  rw [g.frame] at hc ⊢
  exact ⟨h.mem, h.cores, h.clusters, h.dev, h.time, h.boot, hc ▸ h.count, h.event⟩

theorem State.linkCnt_count (s : State) (l off : Nat) :
    ((s.linkCnt l off).link l).cnt.get 0#32 off = satInc ((s.link l).cnt.get 0#32 off) := by
  simp [State.linkCnt]

/-- The count and EV_FENCE, before anything is sent. -/
theorem State.postDev_staleDropped (s : State) (l source unit part detail : Nat) (h : ∀ c, s.noTrace c) :
    s.staleDropped ((s.linkCnt l 0x118).postDev 0x06 source unit part detail) l :=
  have hr := (s.linkCnt l 0x118).postRaw_onlyReports 8 (State.mkEvent _ 0x06 source unit part true detail)
  have hp := (s.linkCnt l 0x118).postDev_onlyReports 0x06 source unit part detail h
  have hf := (hr.trans hp).frame
  { mem := (congrArg State.mem hf :)
    cores := (congrArg State.cores hf :)
    clusters := (congrArg State.clusters hf :)
    dev := (congrArg State.dev hf :)
    time := (congrArg State.time hf :)
    boot := (congrArg State.boot hf :)
    count := (congrArg (fun t => (t.link l).cnt.get 0#32 0x118) hf).trans (s.linkCnt_count l 0x118)
    event := fun hn => ⟨_, hp.kept _ (State.mem_postRaw _ _ hn), rfl, rfl⟩ }

/-- The drop counts, posts EV_FENCE, and then sends at most a packet: a report to the master, or the master's FENCE (R808). -/
theorem State.epochDrop_staleDropped (s : State) (l : Nat) (k : Packet) (h : ∀ c, s.noTrace c) :
    s.staleDropped (s.epochDrop l k) l := by
  unfold State.epochDrop
  dsimp only
  split
  · exact (s.postDev_staleDropped l _ _ _ _ h).queues (State.sendPacket_onlyQueues ..)
  · exact (s.postDev_staleDropped l _ _ _ _ h).queues (State.sendPacket_onlyQueues ..)

/-- A packet that belongs on its link is dropped by the check of its epoch, whatever it would have done (R550, R566). -/
theorem State.checked_staleDropped (s : State) (l : Nat) (k : Packet) (f : State → State)
    (hpr : (if l = 6 then !k.pair || k.src != s.dev.node else k.pair) = false)
    (he : k.epoch ≠ s.dev.eptab.get 0#16 k.src.toNat) (h : ∀ c, s.noTrace c) : s.staleDropped (s.checked l k f) l := by
  have drop (ps : SMap Part) : s.staleDropped (({ s with parts := ps } : State).epochDrop l k) l :=
    let d := State.epochDrop_staleDropped { s with parts := ps } l k h
    ⟨d.mem, d.cores, d.clusters, d.dev, d.time, d.boot, d.count, d.event⟩
  have hep (ps : SMap Part) : ({ s with parts := ps } : State).epochOk k = false := beq_false_of_ne he
  unfold State.checked
  split
  · simpa [State.updPart, hpr, hep] using drop _
  · simpa [hpr, hep s.parts] using drop s.parts

/-! ### The rows of packets -/

/-- A packet for this device belongs on its link (R550). -/
theorem forThis_onLink {s : State} {l : Fin 7} {k : Packet} (h : Claims.forThis s l k) :
    (if l.val = 6 then !k.pair || k.src != s.dev.node else k.pair) = false := by
  obtain ⟨hl, hp, _⟩ | ⟨hl, hp, _⟩ | ⟨hl, hp, hs⟩ := h
  · rw [if_neg (by omega), hp]
  · rw [if_neg (by omega), hp]
  · simp [hl, hp, hs]

/-- An outcome in which a packet has been checked on arrival, and no more than passed on besides. -/
def State.checks (s : State) (l : Nat) (k : Packet) (o : Out) : Prop :=
  ∃ f, o = .next (s.checked l k f) ∨ o = .next ((s.checked l k f).passOn l k)

/-- A management packet for this device is checked, and a broadcast is passed on besides (R571). -/
theorem State.arriveMgmt_checks {s : State} {l : Fin 7} {k : Packet} (take : State → State) (h : Claims.forThis s l k) :
    s.checks l.val k (.next (s.arriveMgmt l.val k take)) := by
  refine ⟨take, ?_⟩
  unfold State.arriveMgmt
  split
  · exact .inl rfl
  · rename_i hpr
    split
    · exact .inr rfl
    · rename_i hbc
      split
      · exact .inl rfl
      · obtain ⟨_, _, hd⟩ | ⟨_, _, _, hb⟩ | ⟨hl, _⟩ := h
        · exact .inl (congrArg _ (if_pos hd))
        · exact absurd hb hbc
        · exact absurd (.inl hl) hpr

theorem State.here_forThis {s : State} {l : Fin 7} {k : Packet} (hup : s.linkUp l.val = true) (h : Claims.forThis s l k)
    (hk : k.type ≠ 6#4) : s.here l.val k = true := by
  obtain ⟨_, _, hd, _⟩ | ⟨_, _, ht, _⟩ | ⟨_, hp, _⟩ := h
  · simp [State.here, hup, hd]
  · exact absurd ht hk
  · simp [State.here, hup, hp]

section
variable {i : Instr} {l : Fin 7} {k : Packet} {s : State} (hl : s.live = true) (hup : s.linkUp l.val = true)
include hl hup

theorem execSyncRequest_checks (ht : k.type = 7#4) (hs : k.sub = 0#5) : s.checks l.val k (execSyncRequest l k s) := by
  rw [execSyncRequest, if_neg (by simp [ht, hs]), if_pos hup, whenLive_live _ _ hl, State.syncReq]
  exact ⟨_, .inl rfl⟩

theorem execSyncResponse_checks (ht : k.type = 7#4) (hs : k.sub = 1#5) : s.checks l.val k (execSyncResponse l k s) := by
  rw [execSyncResponse, if_neg (by simp [ht, hs]), if_pos hup, whenLive_live _ _ hl, State.syncRsp]
  exact ⟨_, .inl rfl⟩

variable (hf : Claims.forThis s l k)
include hf

theorem dataRow_checks (ty : Nat) (e : MemErr) (ht : k.type.toNat = ty) (h6 : ty ≠ 6) :
    s.checks l.val k (dataRow ty l k e s) := by
  have hk : k.type ≠ 6#4 := fun h => h6 (by rw [← ht, h]; rfl)
  rw [dataRow, if_neg (not_not.2 ht), if_pos (State.here_forThis hup hf hk), whenLive_live _ _ hl, State.arriveData]
  exact ⟨_, .inl rfl⟩

theorem mgmtPkt_checks (sub : Nat) (ht : k.type = 6#4) (hsub : k.sub.toNat = sub) : s.checks l.val k (mgmtPkt sub l k s) := by
  rw [mgmtPkt, if_neg (by simp [ht, hsub]), if_pos hup, whenLive_live _ _ hl]
  exact State.arriveMgmt_checks _ hf

/-- Every row for the arrival of a packet for this device checks it, and passes it on at most besides; a LAUNCH of the master's own is
none (log 36). -/
theorem exec_checks (hi : Claims.arrival i l k)
    (hown : ¬ (k.type = 6#4 ∧ k.sub = 6#5 ∧ s.dev.master = true ∧ fromMaster k = true)) :
    s.checks l.val k (exec i s) := by
  have data := dataRow_checks hl hup hf
  obtain ⟨e, hi⟩ | hi | ⟨ht, hi⟩ | ⟨ht, hi⟩ := hi
  · obtain ⟨rfl, ht⟩ | ⟨rfl, ht⟩ | ⟨rfl, ht⟩ | ⟨rfl, ht⟩ | ⟨rfl, ht⟩ := hi
    · exact data 0 e (congrArg BitVec.toNat ht) (by decide)
    · exact data 1 e (congrArg BitVec.toNat ht) (by decide)
    · exact data 2 e (congrArg BitVec.toNat ht) (by decide)
    · exact data 3 e (congrArg BitVec.toNat ht) (by decide)
    · exact data 5 e (congrArg BitVec.toNat ht) (by decide)
  · obtain ⟨rfl, ht⟩ := hi
    exact data 4 .none (congrArg BitVec.toNat ht) (by decide)
  · have mgmt (sub : Nat) := mgmtPkt_checks hl hup hf sub ht
    obtain ⟨rfl, hs⟩ | ⟨rfl, hs⟩ | ⟨rfl, hs⟩ | ⟨rfl, hs⟩ | ⟨rfl, hs⟩ | ⟨rfl, hs⟩ | ⟨rfl, hs⟩ | ⟨rfl, hs⟩ | ⟨rfl, hs⟩ := hi
    · exact mgmt 0 (congrArg BitVec.toNat hs)
    · exact mgmt 1 (congrArg BitVec.toNat hs)
    · exact mgmt 2 (congrArg BitVec.toNat hs)
    · exact mgmt 3 (congrArg BitVec.toNat hs)
    · exact mgmt 4 (congrArg BitVec.toNat hs)
    · exact mgmt 5 (congrArg BitVec.toNat hs)
    · have hrow : exec (.launch l k) s = mgmtPkt 6 l k s := if_neg fun ⟨_, _, hm⟩ => hown ⟨ht, hs, hm⟩
      rw [hrow]
      exact mgmt 6 (congrArg BitVec.toNat hs)
    · exact mgmt 7 (congrArg BitVec.toNat hs)
    · exact mgmt 8 (congrArg BitVec.toNat hs)
  · obtain ⟨rfl, hs⟩ | ⟨rfl, hs⟩ := hi
    · exact execSyncRequest_checks hl hup ht hs
    · exact execSyncResponse_checks hl hup ht hs

end

/-- Settles O18: each row that takes a packet runs it through the one check of its epoch, which drops it; what passes a broadcast on
only queues packets. -/
theorem staleEpochDrops : Obligations.StaleEpochDrops := by
  intro i l k s hl hup hf hi he htr hown
  obtain ⟨f, hx⟩ := exec_checks hl hup hf hi hown
  have hd := s.checked_staleDropped l.val k f (forThis_onLink hf) he htr
  obtain ⟨t, ht, h⟩ : ∃ t, exec i s = .next t ∧ s.staleDropped t l.val := by
    obtain hx | hx := hx
    · exact ⟨_, hx, hd⟩
    · exact ⟨_, hx, hd.queues (State.passOn_onlyQueues ..)⟩
  exact ⟨t, ht, h.mem, h.cores, h.clusters, h.dev, h.time, h.boot, h.count, h.event⟩

end Sys2Proof.Machine
end

section
/-! The freeze (R836): what a frozen device does at each command, and that nothing but the fall of RESET_N or of VDD_AON ends it. -/
namespace Sys2Proof.Machine

/-! ### A frozen device stands -/

/-- t is frozen, and the cores, the clusters, the controllers, the partitions, the USB port, the cycle count and the queue stand as
they do in s (R836). -/
structure State.stands (s t : State) : Prop where
  frozen : t.dbg.freeze ≠ 0#25
  pending : t.pending = s.pending := by rfl
  cores : t.cores = s.cores := by rfl
  clusters : t.clusters = s.clusters := by rfl
  devCtl : t.devCtl = s.devCtl := by rfl
  parts : t.parts = s.parts := by rfl
  usb : t.usb = s.usb := by rfl
  cycle : t.cycle = s.cycle := by rfl

/-- Where an outcome is a next state, the device stands in it. -/
def State.stays (s : State) (o : Out) : Prop := ∀ t, o = .next t → s.stands t

theorem State.stands.trans {s t u : State} (h : s.stands t) (g : t.stands u) : s.stands u where
  frozen := g.frozen
  pending := g.pending.trans h.pending
  cores := g.cores.trans h.cores
  clusters := g.clusters.trans h.clusters
  devCtl := g.devCtl.trans h.devCtl
  parts := g.parts.trans h.parts
  usb := g.usb.trans h.usb
  cycle := g.cycle.trans h.cycle

theorem State.stands.stays {s t : State} (h : s.stands t) : s.stays (.next t) := fun _ ht => (Host.Outcome.next.inj ht) ▸ h

theorem State.stays_fault (s : State) (r : Fault) : s.stays (.fault r) := by simp [State.stays]

/-- A freeze of the device keeps what stands in one, whether or not it is frozen already (R837). -/
theorem State.freezeAll_stands (s : State) : s.stands s.freezeAll := { frozen := by simp [State.freezeAll] }

section
variable {s : State} (hz : s.dbg.freeze ≠ 0#25)
include hz

theorem State.live_frozen : s.live = false := by simp [State.live, hz]
theorem State.insoleLive_frozen : s.insoleLive = false := by simp [State.insoleLive, hz]
theorem State.gafLive_frozen : s.gafLive = false := by simp [State.gafLive, hz]

theorem State.stays_next : s.stays (.next s) := State.stands.stays { frozen := hz }

/-! ### Rows under a guard that a frozen device does not meet -/

theorem whenLive_stays (x : State) : s.stays (whenLive s x) := by
  rw [whenLive_not s x (State.live_frozen hz)]
  exact State.stays_next hz

theorem whenInsole_stays (x : State) : s.stays (whenInsole s x) := by
  rw [whenInsole, State.insoleLive_frozen hz]
  exact State.stays_next hz

theorem whenGaf_stays (x : State) : s.stays (whenGaf s x) := by
  rw [whenGaf, State.gafLive_frozen hz]
  exact State.stays_next hz

theorem issueRow_stays (op : Nat) (w : W64) (x y : State) : s.stays (issueRow op w s x y) := by
  unfold issueRow
  split
  · exact whenLive_stays hz x
  · split
    · exact s.stays_fault _
    · exact whenLive_stays hz y

theorem attnRow_stays (op : Nat) (a : Agent) (w : W64) : s.stays (attnRow op a w s) := by
  unfold attnRow
  split
  · exact s.stays_fault _
  · exact issueRow_stays hz _ _ _ _

/-- A row of packets: a packet of another row is ill formed, and the row's own waits for the main domains. -/
theorem packetRow_stays (c : Prop) [Decidable c] (x : State) : s.stays (if c then .fault .malformed else whenLive s x) := by
  split
  · exact s.stays_fault _
  · exact whenLive_stays hz x

theorem execLaunch_stays (l : Fin 7) (k : Packet) : s.stays (execLaunch l k s) := by
  unfold execLaunch
  split
  · exact whenLive_stays hz _
  · exact packetRow_stays hz _ _

/-! ### The test access port -/

theorem State.tapLoad_stands (ir : Nat) (out : List Bool) : s.stands (s.tapLoad ir out) := { frozen := hz }

theorem tapRow_stays {x : State} (hx : s.stands x) : s.stays (tapRow s x) := by
  unfold tapRow
  split
  · exact State.stays_next hz
  · split
    · exact (State.tapLoad_stands hz _ _).stays
    · exact hx.stays

theorem State.tapPins_stands (ir : Nat) (ctl : BitVec 2) : s.stands (s.tapPins ir ctl) := by
  unfold State.tapPins
  split
  · exact State.tapLoad_stands hz _ _
  · exact { frozen := hz }

theorem execFreeze_stays : s.stays (execFreeze s) :=
  tapRow_stays hz ((State.tapLoad_stands hz _ _).trans (State.freezeAll_stands _))

theorem execChainOut_stays : s.stays (execChainOut s) := by
  refine tapRow_stays hz ?_
  dsimp only
  split <;> exact { frozen := hz }

theorem execMemOut_stays (v : BitVec 72) : s.stays (execMemOut v s) := by
  refine tapRow_stays hz ?_
  split <;> exact State.tapLoad_stands hz _ _

/-- A frozen device takes no write to its DBG block (log 53). -/
theorem execDbgCsr_stays (v : W64) (write : Bool) : s.stays (execDbgCsr v write s) := by
  refine tapRow_stays hz ?_
  simp only [State.live_frozen hz, Bool.and_false, Bool.false_eq_true, if_false]
  exact { frozen := hz }

/-- IDCODE and BYPASS load under a guard of their own. -/
theorem tapLive_stays (ir : Nat) (out : List Bool) : s.stays (if s.tapLive then .next (s.tapLoad ir out) else .next s) := by
  split
  · exact (State.tapLoad_stands hz _ _).stays
  · exact State.stays_next hz

/-! ### Pins, rails and clocks -/

theorem execFreezePin_stays : s.stays (execFreezePin s) := by
  unfold execFreezePin
  rw [if_pos (by simp [hz])]
  exact State.stands.stays { frozen := hz }

theorem execThermtrip_stays (temp : Byte) : s.stays (execThermtrip temp s) := by
  rw [execThermtrip, if_pos (by simp [hz])]
  exact State.stays_next hz

theorem execPgLoss_stays (n : Fin 14) : s.stays (execPgLoss n s) := by
  unfold execPgLoss
  dsimp only
  rw [if_pos (.inr (.inl hz))]
  exact State.stays_next hz

theorem execRefclkLoss_stays : s.stays (execRefclkLoss s) := by
  unfold execRefclkLoss
  dsimp only
  rw [if_neg fun h => hz h.1]
  exact State.stands.stays { frozen := hz }

theorem execPllLock_stays : s.stays (execPllLock s) := by
  unfold execPllLock
  rw [if_pos (by simp [hz])]
  exact State.stays_next hz

theorem execAudMclkLoss_stays : s.stays (execAudMclkLoss s) := by
  rw [execAudMclkLoss, if_pos hz]
  exact State.stays_next hz

theorem execCkAudLock_stays : s.stays (execCkAudLock s) := by
  rw [execCkAudLock, if_pos hz]
  exact State.stays_next hz

theorem execPgClFall_stays (c : Fin 8) : s.stays (execPgClFall c s) := by
  unfold execPgClFall
  rw [if_pos (by simp [State.live_frozen hz])]
  exact State.stays_next hz

theorem execInsolePorDone_stays : s.stays (execInsolePorDone s) := by
  refine State.stands.stays ?_
  split <;> exact { frozen := hz }

theorem execPgSocRise_stays : s.stays (execPgSocRise s) := by
  unfold execPgSocRise
  split
  · exact State.stays_next hz
  · exact State.stands.stays { frozen := hz }

theorem execEnSequenceStep_stays : s.stays (execEnSequenceStep s) := by
  unfold execEnSequenceStep
  split
  · exact State.stays_next hz
  · exact State.stands.stays { frozen := hz }

theorem execMainRestart_stays : s.stays (execMainRestart s) := by
  unfold execMainRestart
  split
  · exact State.stays_next hz
  · exact State.stands.stays { frozen := hz }

/-- A shutdown of the rails touches the ports of AUD, the pins and the Gaffer's transitions only (R901, R903). -/
theorem execPgTimeout_stays (n : Fin 14) : s.stays (execPgTimeout n s) := by
  unfold execPgTimeout
  split
  · exact State.stays_next hz
  · exact State.stands.stays { frozen := hz }

/-! ### The boot -/

/-- A device frozen while RESET_N is low is frozen still when the ROM starts, which touches DEV, the boot state and SEC only. -/
theorem State.romStart_stands : s.stands s.romStart := by
  unfold State.romStart
  dsimp only
  split
  · exact { frozen := hz }
  · split <;> exact { frozen := hz }

theorem execResetNRise_stays : s.stays (execResetNRise s) := by
  unfold execResetNRise
  split
  · exact State.stays_next hz
  · refine State.stands.stays (.trans { frozen := ?_ } (State.romStart_stands ?_)) <;> exact hz

theorem execImageReceive_stays (data : List Byte) (last : Bool) : s.stays (execImageReceive data last s) := by
  rw [execImageReceive, State.live_frozen hz]
  exact State.stays_next hz

theorem execImageVerifyDone_stays : s.stays (execImageVerifyDone s) := by
  unfold execImageVerifyDone
  rw [if_pos (by simp [State.live_frozen hz])]
  exact State.stays_next hz

/-! ### Every command -/

/-- Every row but the three of RESET_N and VDD_AON leaves a frozen device standing. What is not named below takes effect while the
main domains run, and so not at all. -/
theorem exec_stays (i : Instr) (hi : i ≠ .resetNFall ∧ i ≠ .vddAonRise ∧ i ≠ .vddAonLoss) : s.stays (exec i s) := by
  obtain ⟨hfall, hrise, hloss⟩ := hi
  cases i with
  | resetNFall => exact absurd rfl hfall
  | vddAonRise => exact absurd rfl hrise
  | vddAonLoss => exact absurd rfl hloss
  | add | addi | sub | and | andi | or | ori | xor | xori | shl | shli | shr | shri | sra | srai | mul | mulh | mulhu | div | divu
  | rem | remu | slt | slti | li | lih | ld8 | ld16 | ld32 | ld64 | st8 | st16 | st32 | st64 | beq | bne | blt | bge | bltu | bgeu
  | jal | jalr | fence | bar | mwait | ibar | amoadd | amoswap | amocas | amomax | vadd | vsub | vmul | vfma | vmin | vmax | vcmp
  | vsel | vand | vor | vxor | vsh | vbcast | vget | vput | vld | vst | vldb | vstb | vrsum | vrmax | vrmin | vperm | vpack | vunpk
  | vfn | vcvt | qcvt | dqcvt | mxq | dmaCopy | dmaDesc | move | splice | dmaWait | mloadw | mmul | accClaim | accFree | accZero
  | ladderSave | ladderMerge | drain | drainQ | ladderLoad | fuseSet | recRun | reelSubmit | reelSwapout | reelDestroy | reelQuery
  | gateLoad | pool | boxdec | nms | boxclip | nop | endThread | trap | clap | rdslate | rdtsw | clrtsw | rdcnt | csrr | csrw | wfe
  | eret | mboxPost => exact issueRow_stays hz _ _ _ _
  | attnInit | attnStep | attnFinish => exact attnRow_stays hz _ _ _
  | rd | wr | notify | rdata | ackr | stream | syncRequest | syncResponse | enum | report | geom | image | csrRd | csrWr | faultmap
  | mgmtFence => exact packetRow_stays hz _ _
  | launch l k => exact execLaunch_stays hz l k
  | insoleFrame | feedReplayBlock | fllLock => exact whenInsole_stays hz _
  | gafReqRun | gafReqTrim | gafReqWatch | gafReqListen | hsGrant | hsDelay | hsReask | hsRefuse | hsTimeout | fallComplete | riseStep
  | riseEnd => exact whenGaf_stays hz _
  | chainSel | samplePreload => exact tapRow_stays hz { frozen := hz }
  | extest | extestPulse | extestTrain | clamp | highz => exact tapRow_stays hz (State.tapPins_stands hz _ _)
  | idcode | bypass => exact tapLive_stays hz _ _
  | tapReset => exact State.stands.stays { frozen := hz }
  | freeze => exact execFreeze_stays hz
  | chainOut => exact execChainOut_stays hz
  | memOut v => exact execMemOut_stays hz v
  | dbgCsr v write => exact execDbgCsr_stays hz v write
  | freezePin => exact execFreezePin_stays hz
  | thermtrip temp => exact execThermtrip_stays hz temp
  | pgLoss n => exact execPgLoss_stays hz n
  | pgClFall c => exact execPgClFall_stays hz c
  | pgTimeout n => exact execPgTimeout_stays hz n
  | refclkLoss => exact execRefclkLoss_stays hz
  | pllLock => exact execPllLock_stays hz
  | audMclkLoss => exact execAudMclkLoss_stays hz
  | ckAudLock => exact execCkAudLock_stays hz
  | insolePorDone => exact execInsolePorDone_stays hz
  | pgSocRise => exact execPgSocRise_stays hz
  | enSequenceStep => exact execEnSequenceStep_stays hz
  | mainRestart => exact execMainRestart_stays hz
  | resetNRise => exact execResetNRise_stays hz
  | imageReceive data last => exact execImageReceive_stays hz data last
  | imageVerifyDone => exact execImageVerifyDone_stays hz
  | _ => exact whenLive_stays hz _

/-- With nothing commanded a frozen device does not count the cycle. -/
theorem State.tick_frozen : s.tick = s := by simp [State.tick, hz]

theorem step_stays (hc : ∀ c, s.pending.head? = some c → c ≠ .resetNFall ∧ c ≠ .vddAonRise ∧ c ≠ .vddAonLoss) :
    ({ s with pending := s.pending.tail } : State).stays (step s) := by
  unfold step
  split
  next hp =>
    rw [State.tick_frozen hz]
    exact State.stands.stays { frozen := hz, pending := by simp [hp] }
  next c rest hp =>
    rw [hp]
    exact exec_stays (s := { s with pending := rest }) hz c (hc c (by rw [hp]; rfl))

end

/-- Settles O30: every guard of the main domains, of Insole and of the Gaffer asks that the device is not frozen, and the rows
without one change the TAP, the pins and the rails, AUD, or what the ROM starts with. -/
theorem frozenStands : Obligations.FrozenStands := by
  refine ⟨fun s t hz hc ht => ?_, fun s hr => ⟨s.mainReset, if_pos hr, rfl⟩⟩
  obtain ⟨hfrozen, hpending, hcores, hclusters, hdevCtl, hparts, husb, hcycle⟩ := step_stays hz hc t ht
  exact ⟨hfrozen, hpending, hcores, hclusters, hdevCtl, hparts, husb, hcycle⟩

end Sys2Proof.Machine
end

section
/-! The pin instructions of the TAP (R840, R913), and the shutdown of the rails that a power-good timeout latches (R901). -/
namespace Sys2Proof.Machine

/-! ### The pin instructions of the test access port -/

/-- While a confidential partition exists a row that R840 restricts loads BYPASS. -/
theorem tapRow_confidential {s : State} (x : State) (hl : s.tapLive = true) (hc : s.confAny = true) :
    tapRow s x = .next s.tapBypass := by simp [tapRow, hl, hc]

theorem tapRow_accepted {s : State} (x : State) (hl : s.tapLive = true) (hc : s.confAny = false) : tapRow s x = .next x := by
  simp [tapRow, hl, hc]

/-- BYPASS in the place of a restricted row stands with and without a confidential partition. -/
theorem tapRow_tapBypass {s : State} (hl : s.tapLive = true) : tapRow s s.tapBypass = .next s.tapBypass := by simp [tapRow, hl]

/-- Without the main rails the TAP has no supply, and loads nothing (Table PIN-2). -/
theorem tapRow_unpowered {s : State} (x : State) (hl : s.tapLive = false) : tapRow s x = .next s := by simp [tapRow, hl]

/-- Out of reset and not frozen, BYPASS is loaded in the place of a pin instruction (R913). -/
theorem State.tapPins_running {s : State} (ir : Nat) (ctl : BitVec 2) (hr : s.pins.resetN = true) (hz : s.dbg.freeze = 0#25) :
    s.tapPins ir ctl = s.tapBypass := by simp [State.tapPins, hr, hz]

theorem State.tapPins_stopped {s : State} (ir : Nat) (ctl : BitVec 2) (h : s.pins.resetN = false ∨ s.dbg.freeze ≠ 0#25) :
    s.tapPins ir ctl = { s with dbg := { s.dbg with ir := BitVec.ofNat 8 ir, tdo := [], pinCtl := ctl } } := by
  refine if_neg fun hrun => ?_
  obtain ⟨hr, hz⟩ := Bool.and_eq_true_iff.1 hrun
  obtain h | h := h
  · exact absurd hr (by simp [h])
  · exact h (eq_of_beq hz)

/-- Each pin instruction is a restricted row that takes the pins under its own code. -/
theorem exec_pinInstr (s : State) {i : Instr} {ir : Byte} {ctl : BitVec 2}
    (hi : (i = .extest ∧ ir = 3#8 ∧ ctl = 1#2) ∨ (i = .extestPulse ∧ ir = 4#8 ∧ ctl = 1#2) ∨
      (i = .extestTrain ∧ ir = 5#8 ∧ ctl = 1#2) ∨ (i = .clamp ∧ ir = 6#8 ∧ ctl = 1#2) ∨ (i = .highz ∧ ir = 7#8 ∧ ctl = 2#2)) :
    exec i s = tapRow s (s.tapPins ir.toNat ctl) := by
  obtain ⟨rfl, rfl, rfl⟩ | ⟨rfl, rfl, rfl⟩ | ⟨rfl, rfl, rfl⟩ | ⟨rfl, rfl, rfl⟩ | ⟨rfl, rfl, rfl⟩ := hi <;> rfl

/-- Settles O23: the five rows differ in their code and in what they drive only, and the guards of R840 and R913 decide between
that and BYPASS. -/
theorem tapPins : Obligations.TapPins := by
  intro s i ir ctl hl hi
  have hrow := exec_pinInstr s hi
  refine ⟨fun hc hstop => ?_, fun hr hz => ?_, fun hc => hrow.trans (tapRow_confidential _ hl hc)⟩
  · rw [Claims.loads, hrow, tapRow_accepted _ hl hc, State.tapPins_stopped _ _ hstop, BitVec.ofNat_toNat, BitVec.setWidth_eq]
  · rw [State.tapPins_running _ _ hr hz] at hrow
    exact hrow.trans (tapRow_tapBypass hl)

/-! ### Rows that wait for the main domains -/

/-- Where an outcome is a next state, it is the state itself. -/
def State.rests (s : State) (o : Out) : Prop := ∀ t, o = .next t → t = s

theorem State.rests_next (s : State) : s.rests (.next s) := fun _ ht => (Host.Outcome.next.inj ht).symm

theorem State.rests_fault (s : State) (r : Fault) : s.rests (.fault r) := fun _ ht => nomatch ht

/-- The commands that can act while neither the main domains nor the Gaffer run: Insole's, the TAP's, and those of the pins, the
rails and the clocks. -/
def actsBesideMain : Instr → Bool
  | .insoleFrame _ | .feedReplayBlock | .fllLock | .chainSel _ | .samplePreload _ | .extest | .extestPulse | .extestTrain | .clamp
  | .highz | .idcode | .bypass | .tapReset | .freeze | .chainOut | .memOut _ | .dbgCsr _ _ | .freezePin | .thermtrip _ | .pgLoss _
  | .pgTimeout _ | .refclkLoss | .pllLock | .audMclkLoss | .ckAudLock | .vddAonRise | .vddAonLoss | .insolePorDone | .pgSocRise
  | .enSequenceStep | .mainRestart | .resetNFall | .resetNRise => true
  | _ => false

section
variable {s : State} (hl : s.live = false)
include hl

theorem whenLive_rests (x : State) : s.rests (whenLive s x) := by
  rw [whenLive_not s x hl]
  exact s.rests_next

theorem issueRow_rests (op : Nat) (w : W64) (x y : State) : s.rests (issueRow op w s x y) := by
  unfold issueRow
  split
  · exact whenLive_rests hl x
  · split
    · exact s.rests_fault _
    · exact whenLive_rests hl y

theorem attnRow_rests (op : Nat) (a : Agent) (w : W64) : s.rests (attnRow op a w s) := by
  unfold attnRow
  split
  · exact s.rests_fault _
  · exact issueRow_rests hl _ _ _ _

/-- A packet of another row is ill formed, and the row's own waits for the main domains. -/
theorem packetRow_rests (c : Prop) [Decidable c] (x : State) : s.rests (if c then .fault .malformed else whenLive s x) := by
  split
  · exact s.rests_fault _
  · exact whenLive_rests hl x

theorem execLaunch_rests (l : Fin 7) (k : Packet) : s.rests (execLaunch l k s) := by
  unfold execLaunch
  split
  · exact whenLive_rests hl _
  · exact packetRow_rests hl _ _

theorem execPgClFall_rests (c : Fin 8) : s.rests (execPgClFall c s) := by
  unfold execPgClFall
  rw [if_pos (by simp [hl])]
  exact s.rests_next

theorem execImageReceive_rests (data : List Byte) (last : Bool) : s.rests (execImageReceive data last s) := by
  rw [execImageReceive, hl]
  exact s.rests_next

theorem execImageVerifyDone_rests : s.rests (execImageVerifyDone s) := by
  unfold execImageVerifyDone
  rw [if_pos (by simp [hl])]
  exact s.rests_next

/-- With nothing commanded and the main domains still, a cycle changes nothing. -/
theorem State.tick_notLive : s.tick = s :=
  if_neg (show ¬ (s.live && s.time.locked) = true by simp [hl])

theorem State.feedOn_notLive : s.feedOn = false := by simp [State.feedOn, hl]

/-- Every other row does nothing while neither the main domains nor the Gaffer run. -/
theorem exec_rests (hg : s.gafLive = false) (i : Instr) (hi : actsBesideMain i = false) : s.rests (exec i s) := by
  have gaf (x : State) : s.rests (whenGaf s x) := by
    rw [whenGaf, hg]
    exact s.rests_next
  cases i with
  | insoleFrame | feedReplayBlock | fllLock | chainSel | samplePreload | extest | extestPulse | extestTrain | clamp | highz | idcode
  | bypass | tapReset | freeze | chainOut | memOut | dbgCsr | freezePin | thermtrip | pgLoss | pgTimeout | refclkLoss | pllLock
  | audMclkLoss | ckAudLock | vddAonRise | vddAonLoss | insolePorDone | pgSocRise | enSequenceStep | mainRestart | resetNFall
  | resetNRise => nomatch hi
  | gafReqRun | gafReqTrim | gafReqWatch | gafReqListen | hsGrant | hsDelay | hsReask | hsRefuse | hsTimeout | fallComplete | riseStep
  | riseEnd => exact gaf _
  | add | addi | sub | and | andi | or | ori | xor | xori | shl | shli | shr | shri | sra | srai | mul | mulh | mulhu | div | divu
  | rem | remu | slt | slti | li | lih | ld8 | ld16 | ld32 | ld64 | st8 | st16 | st32 | st64 | beq | bne | blt | bge | bltu | bgeu
  | jal | jalr | fence | bar | mwait | ibar | amoadd | amoswap | amocas | amomax | vadd | vsub | vmul | vfma | vmin | vmax | vcmp
  | vsel | vand | vor | vxor | vsh | vbcast | vget | vput | vld | vst | vldb | vstb | vrsum | vrmax | vrmin | vperm | vpack | vunpk
  | vfn | vcvt | qcvt | dqcvt | mxq | dmaCopy | dmaDesc | move | splice | dmaWait | mloadw | mmul | accClaim | accFree | accZero
  | ladderSave | ladderMerge | drain | drainQ | ladderLoad | fuseSet | recRun | reelSubmit | reelSwapout | reelDestroy | reelQuery
  | gateLoad | pool | boxdec | nms | boxclip | nop | endThread | trap | clap | rdslate | rdtsw | clrtsw | rdcnt | csrr | csrw | wfe
  | eret | mboxPost => exact issueRow_rests hl _ _ _ _
  | attnInit | attnStep | attnFinish => exact attnRow_rests hl _ _ _
  | rd | wr | notify | rdata | ackr | stream | syncRequest | syncResponse | enum | report | geom | image | csrRd | csrWr | faultmap
  | mgmtFence => exact packetRow_rests hl _ _
  | launch l k => exact execLaunch_rests hl l k
  | pgClFall c => exact execPgClFall_rests hl c
  | imageReceive data last => exact execImageReceive_rests hl data last
  | imageVerifyDone => exact execImageVerifyDone_rests hl
  | _ => exact whenLive_rests hl _

end

/-! ### Wakes while the rails are shut down -/

/-- A rail fault holds the device: a wake raises nothing (R728, R905). -/
theorem State.wakeRails_shutdown {s : State} (acc : Bool) (h : s.pins.shutdown = true) : s.wakeRails acc = s := by
  simp [State.wakeRails, h]

/-- With the rails shut down a posted wake moves no pin. -/
theorem State.postWake_pins {s : State} (stage target cls chan : Nat) (conf : BitVec 16) (onset unit unitDev : Nat)
    (hm : s.pins.mainOff = true) (hd : s.pins.shutdown = true) :
    (s.postWake stage target cls chan conf onset unit unitDev).pins = s.pins := by
  unfold State.postWake
  dsimp only
  rw [if_pos (by split <;> exact hm), State.wakeRails_shutdown _ (by split <;> exact hd)]
  split <;> rfl

theorem State.stage0_pins {s : State} (frame : Nat) (l : List (Nat × List Int)) (hm : s.pins.mainOff = true)
    (hd : s.pins.shutdown = true) : (s.stage0 frame l).pins = s.pins := by
  unfold State.stage0
  split
  · rfl
  · split
    · rfl
    · refine List.foldlRecOn (motive := fun t : State => t.pins = s.pins) _ _ rfl fun t ht w _ => ?_
      rw [State.postWake_pins _ _ _ _ _ _ _ _ (ht ▸ hm) (ht ▸ hd), ht]

/-! ### Rails that are shut down until VDD_AON is removed -/

/-- Where an outcome is a next state, the rails are shut down in it. -/
def staysOff (o : Out) : Prop := ∀ t, o = .next t → Claims.latchedOff t

theorem latchedOff_next {t : State} (h : Claims.latchedOff t) : staysOff (.next t) :=
  fun _ ht => Host.Outcome.next.inj ht ▸ h

/-- The pins alone say whether the rails are shut down. -/
theorem latchedOff_of_pins {s t : State} (h : Claims.latchedOff s) (hp : t.pins = s.pins) : Claims.latchedOff t := by
  unfold Claims.latchedOff at h ⊢
  rwa [hp]

section
variable {s : State} (h : Claims.latchedOff s)
include h

theorem staysOff_of_rests {o : Out} (ho : s.rests o) : staysOff o := fun t ht => (ho t ht) ▸ h

theorem State.live_latchedOff : s.live = false := by
  obtain ⟨-, -, -, -, -, -, hclocks⟩ := h
  simp [State.live, hclocks]

theorem State.gafLive_latchedOff : s.gafLive = false := by
  obtain ⟨-, -, -, -, hshut, -, -⟩ := h
  simp [State.gafLive, hshut]

theorem State.tapLive_latchedOff : s.tapLive = false := by
  obtain ⟨-, -, -, hmain, -, -, -⟩ := h
  simp [State.tapLive, hmain]

/-! ### Insole goes on -/

theorem whenInsole_staysOff {x : State} (hx : x.pins = s.pins) : staysOff (whenInsole s x) := by
  unfold whenInsole
  split
  · exact latchedOff_next (latchedOff_of_pins h hx)
  · exact latchedOff_next h

/-- The frame is recorded and scored, but its wakes raise no rail, and the feed does not write. -/
theorem execInsoleFrame_staysOff (bits : List (List Bool)) : staysOff (execInsoleFrame bits s) := by
  have ⟨_, _, _, hmain, hshut, _, _⟩ := h
  refine whenInsole_staysOff h ?_
  dsimp only
  generalize hu : State.stage0 _ _ _ = u
  have hp : u.pins = s.pins := by
    rw [← hu]
    exact State.stage0_pins _ _ hmain hshut
  have hfeed : u.feedOn = false := State.feedOn_notLive (State.live_latchedOff (latchedOff_of_pins h hp))
  simp only [hfeed, Bool.false_and, Bool.false_eq_true, if_false]
  exact hp

/-- A replay writes nothing while the feed does not. -/
theorem execFeedReplayBlock_staysOff : staysOff (execFeedReplayBlock s) := by
  refine whenInsole_staysOff h ?_
  simp [State.feedOn_notLive (State.live_latchedOff h)]

/-! ### Pins, rails and clocks -/

theorem tapRow_staysOff (x : State) : staysOff (tapRow s x) := by
  rw [tapRow_unpowered x (State.tapLive_latchedOff h)]
  exact latchedOff_next h

/-- IDCODE and BYPASS load under a guard of their own. -/
theorem tapLive_staysOff (x : State) : staysOff (if s.tapLive then .next x else .next s) := by
  rw [State.tapLive_latchedOff h]
  exact latchedOff_next h

theorem execFreezePin_staysOff : staysOff (execFreezePin s) := by
  unfold execFreezePin
  dsimp only
  split
  · exact latchedOff_next h
  · split <;> exact latchedOff_next h

theorem execResetNFall_staysOff : staysOff (execResetNFall s) := by
  unfold execResetNFall
  split
  · obtain ⟨haon, hlatch, hen, hmain, hshut, hseq, -⟩ := h
    exact latchedOff_next ⟨haon, hlatch, hen, hmain, hshut, hseq, rfl⟩
  · exact latchedOff_next h

theorem execAudMclkLoss_staysOff : staysOff (execAudMclkLoss s) := by
  unfold execAudMclkLoss
  split <;> exact latchedOff_next h

theorem execCkAudLock_staysOff : staysOff (execCkAudLock s) := by
  unfold execCkAudLock
  split <;> exact latchedOff_next h

theorem execInsolePorDone_staysOff : staysOff (execInsolePorDone s) := by
  unfold execInsolePorDone
  split <;> exact latchedOff_next h

/-- No EN output is high, so no rail supplies the input of REFCLK. -/
theorem execRefclkLoss_staysOff : staysOff (execRefclkLoss s) := by
  have ⟨_, _, hen, _⟩ := h
  have hon : ¬ (s.dbg.freeze = 0#25 ∧ s.pins.en.getLsbD 1 = true) := by simp [hen]
  unfold execRefclkLoss
  dsimp only
  rw [if_neg hon]
  exact latchedOff_next h

/-- Every row but the loss of VDD_AON leaves the rails shut down. The latch, MAIN_OFF, the low EN outputs and the ended sequence stop
each event of the rails that could raise them: there is no rail to lose, no sensor, no clock to lock, no sequence to go on with, and
neither a rise of RESET_N or of VDD_SOC nor the restart of R905 is taken. -/
theorem exec_staysOff (i : Instr) (hi : i ≠ .vddAonLoss) : staysOff (exec i s) := by
  have ⟨haon, hlatch, hen, hmain, _, hseq, _⟩ := h
  have still {o : Out} (ho : o = .next s) : staysOff o := ho ▸ latchedOff_next h
  cases i with
  | vddAonLoss => exact absurd rfl hi
  | insoleFrame bits => exact execInsoleFrame_staysOff h bits
  | feedReplayBlock => exact execFeedReplayBlock_staysOff h
  | fllLock => exact whenInsole_staysOff h rfl
  | chainSel | samplePreload | extest | extestPulse | extestTrain | clamp | highz | freeze | chainOut | memOut | dbgCsr =>
    exact tapRow_staysOff h _
  | idcode | bypass => exact tapLive_staysOff h _
  | tapReset => exact latchedOff_next h
  | freezePin => exact execFreezePin_staysOff h
  | resetNFall => exact execResetNFall_staysOff h
  | audMclkLoss => exact execAudMclkLoss_staysOff h
  | ckAudLock => exact execCkAudLock_staysOff h
  | insolePorDone => exact execInsolePorDone_staysOff h
  | refclkLoss => exact execRefclkLoss_staysOff h
  | thermtrip | pllLock | pgSocRise | resetNRise => exact still (if_pos (by simp [hmain]))
  | pgLoss => exact still (if_pos (by simp [hmain, hen]))
  | pgTimeout => exact still (if_pos (by simp [hen]))
  | vddAonRise => exact still (if_pos haon)
  | enSequenceStep => exact still (by simp [exec, execEnSequenceStep, hseq])
  | mainRestart => exact still (if_pos (by simp [hlatch]))
  | _ => exact staysOff_of_rests h (exec_rests (State.live_latchedOff h) (State.gafLive_latchedOff h) _ rfl)

theorem step_staysOff (hc : s.pending.head? ≠ some .vddAonLoss) : staysOff (step s) := by
  unfold step
  split
  · rw [State.tick_notLive (State.live_latchedOff h)]
    exact latchedOff_next h
  next c rest hp =>
    refine exec_staysOff (s := { s with pending := rest }) h c fun hloss => hc ?_
    rw [hp, hloss, List.head?_cons]

end

/-! ### The timeout, and the removal of VDD_AON -/

/-- A stopped span touches the ports of AUD only (R703). -/
theorem State.tdmTouchAll_frame (s : State) : s.tdmTouchAll = { s with aud := s.tdmTouchAll.aud } := rfl

/-- A shutdown touches the ports of AUD, the pins and the Gaffer's transitions only (R901, R903). -/
theorem State.stopAll_eq (s : State) : s.stopAll = { s with
    aud := s.tdmTouchAll.aud
    pins := { s.pins with clocksOn := false, en := 0#13, mainOff := true, shutdown := true, pwrRet := false, enSeq := none }
    gaf := { s.gaf with cur := none, waiting := [], clTrans := [], heldWake := none } } := by
  rw [State.stopAll, State.tdmTouchAll_frame]

/-- A PG input that has not risen in time shuts the rails down, and latches it. -/
theorem exec_pgTimeout_latches {n : Fin 14} {s : State} (ha : s.pins.vddAon = true) (hr : s.pins.resetN = false)
    (hn : 1 ≤ n.val) (he : s.pins.en.getLsbD (n.val - 1) = true) :
    exec (.pgTimeout n) s = .next { s.stopAll with
      pins := { s.stopAll.pins with latched := true, pg := s.pins.pg &&& ~~~(1#14 <<< n.val) } } :=
  if_neg (by simp [ha, hr, he, Nat.ne_of_gt hn])

/-- The loss of VDD_AON and its return clear the latch and lower MAIN_OFF (R897, R900). -/
theorem vddAon_cycle_unlatches {s : State} (ha : s.pins.vddAon = true) :
    ∃ t u, exec .vddAonLoss s = .next t ∧ exec .vddAonRise t = .next u ∧ u.pins.latched = false ∧ u.pins.mainOff = false :=
  ⟨_, _, if_neg (by simp [ha]), rfl, rfl, rfl⟩

/-- Settles O28: the timeout latches the shutdown; then no clock, no Gaffer and no TAP runs, and every event of the pins, the rails
and Insole meets a guard on the latch, MAIN_OFF or the EN outputs. -/
theorem pgTimeoutLatches : Obligations.PgTimeoutLatches := by
  refine ⟨fun n s ha hr hn he => ⟨_, exec_pgTimeout_latches ha hr hn he, ⟨ha, rfl, rfl, rfl, rfl, rfl, rfl⟩, ?_, ?_⟩,
    fun s t h hc => step_staysOff h hc t, fun s ⟨ha, _⟩ => vddAon_cycle_unlatches ha⟩
  · rw [State.stopAll_eq]
  · simp [n.isLt]

end Sys2Proof.Machine
end

section
/-! The main reset (R646, R648): what a device held in reset does at each command, and that nothing but the rise of RESET_N ends it. -/
namespace Sys2Proof.Machine

/-! ### The main device in reset -/

/-- What the main reset fixes stands in t as in s, and so does the queue. -/
structure State.resetStands (s t : State) : Prop where
  resetN : t.pins.resetN = s.pins.resetN
  cores : t.cores = s.cores
  clusters : t.clusters = s.clusters
  parts : t.parts = s.parts
  devCtl : t.devCtl = s.devCtl
  usb : t.usb = s.usb
  boot : t.boot = s.boot
  sec : t.sec = s.sec
  dev : t.dev = s.dev
  cam : t.cam = s.cam
  pending : t.pending = s.pending

/-- What the main reset fixes, and the queue. -/
def State.mainDomains (s : State) :=
  (s.pins.resetN, s.cores, s.clusters, s.parts, s.devCtl, s.usb, s.boot, s.sec, s.dev, s.cam, s.pending)

theorem State.resetStands.of_eq {s t : State} (h : t.mainDomains = s.mainDomains) : s.resetStands t := by
  simp only [State.mainDomains, Prod.mk.injEq] at h
  obtain ⟨h1, h2, h3, h4, h5, h6, h7, h8, h9, h10, h11⟩ := h
  exact ⟨h1, h2, h3, h4, h5, h6, h7, h8, h9, h10, h11⟩

/-- Where an outcome is a next state, the device is held in reset in it, the queue as it was. -/
def State.staysHeld (s : State) (o : Out) : Prop := ∀ t, o = .next t → Claims.held t ∧ t.pending = s.pending

theorem State.resetStands.trans {s t u : State} (h : s.resetStands t) (g : t.resetStands u) : s.resetStands u where
  resetN := g.resetN.trans h.resetN
  cores := g.cores.trans h.cores
  clusters := g.clusters.trans h.clusters
  parts := g.parts.trans h.parts
  devCtl := g.devCtl.trans h.devCtl
  usb := g.usb.trans h.usb
  boot := g.boot.trans h.boot
  sec := g.sec.trans h.sec
  dev := g.dev.trans h.dev
  cam := g.cam.trans h.cam
  pending := g.pending.trans h.pending

/-- State.reset is held in reset. -/
theorem held_reset : Claims.held State.reset := ⟨rfl, rfl, rfl, rfl, rfl, rfl, rfl, rfl, rfl, rfl⟩

theorem State.resetStands.held {s t : State} (h : s.resetStands t) (hs : Claims.held s) : Claims.held t := by
  unfold Claims.held at *
  rwa [h.resetN, h.cores, h.clusters, h.parts, h.devCtl, h.usb, h.boot, h.sec, h.dev, h.cam]

/-- A wake posted to a device in reset moves AON_WAKE and MAIN_OFF only (R728). -/
theorem State.postWake_resetStands {s : State} (stage target cls chan : Nat) (conf : BitVec 16) (onset unit unitDev : Nat)
    (hr : s.pins.resetN = false) : s.resetStands (s.postWake stage target cls chan conf onset unit unitDev) := by
  have rails {u : State} (acc : Bool) : u.resetStands (u.wakeRails acc) := by
    unfold State.wakeRails
    split <;> exact .of_eq rfl
  unfold State.postWake
  extract_lets acc frame aon u
  have su : s.resetStands u := by
    unfold u
    split <;> exact .of_eq rfl
  split
  · exact su.trans (rails _)
  · rw [if_pos (by simp [su.resetN, hr])]
    exact su

theorem State.stage0_resetStands {s : State} (frame : Nat) (l : List (Nat × List Int)) (hr : s.pins.resetN = false) :
    s.resetStands (s.stage0 frame l) := by
  unfold State.stage0
  split
  · exact .of_eq rfl
  · split
    · exact .of_eq rfl
    · refine List.foldlRecOn (motive := fun t : State => s.resetStands t) _ _ (.of_eq rfl) fun t ht w _ => ?_
      exact ht.trans (State.postWake_resetStands _ _ _ _ _ _ _ _ (ht.resetN.trans hr))

/-- A stopped span touches the ports of AUD only (R703). -/
theorem State.tdmTouchAll_resetStands (s : State) : s.resetStands s.tdmTouchAll := by
  rw [State.tdmTouchAll_frame]
  exact .of_eq rfl

theorem State.stopAll_resetStands (s : State) : s.resetStands s.stopAll := s.tdmTouchAll_resetStands.trans (.of_eq rfl)

theorem State.tapPins_resetStands (s : State) (ir : Nat) (ctl : BitVec 2) : s.resetStands (s.tapPins ir ctl) := by
  unfold State.tapPins
  split <;> exact .of_eq rfl

section
variable {s : State} (h : Claims.held s)
include h

theorem State.live_held : s.live = false := by simp [State.live, h.1]
theorem State.gafLive_held : s.gafLive = false := by simp [State.gafLive, h.1]

/-- No partition exists, so none is confidential. -/
theorem State.confAny_held : s.confAny = false := by
  obtain ⟨-, -, -, -, -, -, -, -, hdev, -⟩ := h
  simp [State.confAny, State.conf, State.own, hdev, Dev.init, Own.init]

theorem State.resetStands.staysHeld {t : State} (ht : s.resetStands t) : s.staysHeld (.next t) :=
  fun _ e => by cases e; exact ⟨ht.held h, ht.pending⟩

theorem staysHeld_of_rests {o : Out} (ho : s.rests o) : s.staysHeld o := fun t ht => by rw [ho t ht]; exact ⟨h, rfl⟩

/-! ### Rows that act beside the main domains -/

theorem whenInsole_staysHeld {x : State} (hx : s.resetStands x) : s.staysHeld (whenInsole s x) := by
  unfold whenInsole
  split
  · exact hx.staysHeld h
  · exact State.resetStands.staysHeld h (.of_eq rfl)

/-- The frame is recorded and scored; the feed does not write while the main domains stand. -/
theorem execInsoleFrame_staysHeld (bits : List (List Bool)) : s.staysHeld (execInsoleFrame bits s) := by
  refine whenInsole_staysHeld h ?_
  dsimp only
  generalize hu : State.stage0 _ _ _ = u
  have su : s.resetStands u := by
    rw [← hu]
    refine .trans ?_ (State.stage0_resetStands _ _ ?_)
    · exact .of_eq rfl
    · exact h.1
  have hfeed : u.feedOn = false := State.feedOn_notLive (State.live_held (su.held h))
  simp only [hfeed, Bool.false_and, Bool.false_eq_true, if_false]
  exact su

theorem execFeedReplayBlock_staysHeld : s.staysHeld (execFeedReplayBlock s) := by
  refine whenInsole_staysHeld h ?_
  rw [if_pos (by simp [State.feedOn_notLive (State.live_held h)])]
  exact .of_eq rfl

theorem tapRow_staysHeld {x : State} (hx : s.resetStands x) : s.staysHeld (tapRow s x) := by
  unfold tapRow
  split
  · exact State.resetStands.staysHeld h (.of_eq rfl)
  · split
    · exact State.resetStands.staysHeld h (.of_eq rfl)
    · exact hx.staysHeld h

/-- IDCODE and BYPASS load under a guard of their own. -/
theorem tapLive_staysHeld (ir : Nat) (out : List Bool) : s.staysHeld (if s.tapLive then .next (s.tapLoad ir out) else .next s) := by
  split <;> exact State.resetStands.staysHeld h (.of_eq rfl)

theorem execChainOut_staysHeld : s.staysHeld (execChainOut s) := by
  refine tapRow_staysHeld h ?_
  dsimp only
  split <;> exact .of_eq rfl

theorem execMemOut_staysHeld (v : BitVec 72) : s.staysHeld (execMemOut v s) := by
  refine tapRow_staysHeld h ?_
  split <;> exact .of_eq rfl

/-- A device in reset takes no write to its DBG block. -/
theorem execDbgCsr_staysHeld (v : W64) (write : Bool) : s.staysHeld (execDbgCsr v write s) := by
  refine tapRow_staysHeld h ?_
  simp only [State.live_held h, Bool.and_false, Bool.false_eq_true, if_false]
  exact .of_eq rfl

/-- No partition is confidential, so FREEZE_N freezes, and counts nothing in SEC. -/
theorem execFreezePin_staysHeld : s.staysHeld (execFreezePin s) := by
  unfold execFreezePin
  dsimp only
  split
  · exact State.resetStands.staysHeld h (.of_eq rfl)
  · split
    next hc => exact absurd hc (Bool.eq_false_iff.mp (State.confAny_held h))
    · exact State.resetStands.staysHeld h (.of_eq rfl)

/-- A row that acts where a guard is not met. -/
theorem guarded_staysHeld (c : Prop) [Decidable c] {x : State} (hx : s.resetStands x) :
    s.staysHeld (if c then .next s else .next x) := by
  split
  · exact State.resetStands.staysHeld h (.of_eq rfl)
  · exact hx.staysHeld h

theorem execThermtrip_staysHeld (temp : Byte) : s.staysHeld (execThermtrip temp s) :=
  guarded_staysHeld h _ (s.tdmTouchAll_resetStands.trans (.of_eq rfl))
theorem execPgLoss_staysHeld (n : Fin 14) : s.staysHeld (execPgLoss n s) :=
  guarded_staysHeld h _ (s.stopAll_resetStands.trans (.of_eq rfl))
theorem execPgTimeout_staysHeld (n : Fin 14) : s.staysHeld (execPgTimeout n s) :=
  guarded_staysHeld h _ (s.stopAll_resetStands.trans (.of_eq rfl))
theorem execPgSocRise_staysHeld : s.staysHeld (execPgSocRise s) := guarded_staysHeld h _ (.of_eq rfl)
theorem execMainRestart_staysHeld : s.staysHeld (execMainRestart s) := guarded_staysHeld h _ (.of_eq rfl)

theorem execRefclkLoss_staysHeld : s.staysHeld (execRefclkLoss s) := by
  refine State.resetStands.staysHeld h ?_
  split
  · refine .trans ?_ (State.stopAll_resetStands _)
    exact .of_eq rfl
  · exact .of_eq rfl

theorem execAudMclkLoss_staysHeld : s.staysHeld (execAudMclkLoss s) := by
  refine State.resetStands.staysHeld h ?_
  split
  · exact .of_eq rfl
  · refine .trans ?_ (State.tdmTouchAll_resetStands _)
    exact .of_eq rfl

theorem execCkAudLock_staysHeld : s.staysHeld (execCkAudLock s) := by
  refine State.resetStands.staysHeld h ?_
  split <;> exact .of_eq rfl

theorem execInsolePorDone_staysHeld : s.staysHeld (execInsolePorDone s) := by
  refine State.resetStands.staysHeld h ?_
  split <;> exact .of_eq rfl

theorem execEnSequenceStep_staysHeld : s.staysHeld (execEnSequenceStep s) := by
  unfold execEnSequenceStep
  split <;> exact State.resetStands.staysHeld h (.of_eq rfl)

/-- The loss or the return of VDD_AON resets the main device anew. -/
theorem reset_staysHeld (c : Prop) [Decidable c] {x : State} (hx : Claims.held x ∧ x.pending = s.pending) :
    s.staysHeld (if c then .next s else .next x) := by
  split
  · exact State.resetStands.staysHeld h (.of_eq rfl)
  · exact fun t ht => Host.Outcome.next.inj ht ▸ hx

theorem execVddAonRise_staysHeld : s.staysHeld (execVddAonRise s) := reset_staysHeld h _ ⟨held_reset, rfl⟩
theorem execVddAonLoss_staysHeld : s.staysHeld (execVddAonLoss s) := reset_staysHeld h _ ⟨held_reset, rfl⟩

/-- Every row but the rise of RESET_N leaves the device held: what waits for the main domains or the Gaffer does nothing, and what
acts beside them touches Insole, AUD, the pins, the rails, the TAP and memory only, or resets the main device anew. -/
theorem exec_staysHeld (i : Instr) (hi : i ≠ .resetNRise) : s.staysHeld (exec i s) := by
  have stands {x : State} (hx : s.resetStands x) : s.staysHeld (.next x) := hx.staysHeld h
  cases i with
  | resetNRise => exact absurd rfl hi
  | insoleFrame bits => exact execInsoleFrame_staysHeld h bits
  | feedReplayBlock => exact execFeedReplayBlock_staysHeld h
  | fllLock => exact whenInsole_staysHeld h (.of_eq rfl)
  | chainSel | samplePreload | freeze => exact tapRow_staysHeld h (.of_eq rfl)
  | extest | extestPulse | extestTrain | clamp | highz => exact tapRow_staysHeld h (State.tapPins_resetStands _ _ _)
  | idcode | bypass => exact tapLive_staysHeld h _ _
  | tapReset => exact stands (.of_eq rfl)
  | chainOut => exact execChainOut_staysHeld h
  | memOut v => exact execMemOut_staysHeld h v
  | dbgCsr v write => exact execDbgCsr_staysHeld h v write
  | freezePin => exact execFreezePin_staysHeld h
  | refclkLoss => exact execRefclkLoss_staysHeld h
  | insolePorDone => exact execInsolePorDone_staysHeld h
  | enSequenceStep => exact execEnSequenceStep_staysHeld h
  | audMclkLoss => exact execAudMclkLoss_staysHeld h
  | ckAudLock => exact execCkAudLock_staysHeld h
  | thermtrip temp => exact execThermtrip_staysHeld h temp
  | pgLoss n => exact execPgLoss_staysHeld h n
  | pgTimeout n => exact execPgTimeout_staysHeld h n
  | pgSocRise => exact execPgSocRise_staysHeld h
  | mainRestart => exact execMainRestart_staysHeld h
  | vddAonRise => exact execVddAonRise_staysHeld h
  | vddAonLoss => exact execVddAonLoss_staysHeld h
  | pllLock => exact staysHeld_of_rests h (by simp [exec, execPllLock, h.1, State.rests_next])
  | resetNFall => exact staysHeld_of_rests h (by simp [exec, execResetNFall, h.1, State.rests_next])
  | _ => exact staysHeld_of_rests h (exec_rests (State.live_held h) (State.gafLive_held h) _ rfl)

theorem step_staysHeld (hc : s.pending.head? ≠ some .resetNRise) :
    ({ s with pending := s.pending.tail } : State).staysHeld (step s) := by
  unfold step
  split
  next hp =>
    rw [State.tick_notLive (State.live_held h)]
    exact fun t ht => Host.Outcome.next.inj ht ▸ ⟨h, by simp [hp]⟩
  next c rest hp =>
    rw [hp]
    exact exec_staysHeld (s := { s with pending := rest }) h c fun hrise => hc (by rw [hp, hrise, List.head?_cons])

end

/-- Settles O31: while RESET_N is low neither the main domains nor the Gaffer run, and the rows that act beside them leave the main
device as its reset does. -/
theorem resetHolds : Obligations.ResetHolds :=
  fun _ t hs hc ht => step_staysHeld hs hc t ht

end Sys2Proof.Machine
end

section
/-! State.reset (R589, R590, R724, R739, R746, R886), and the step on a queue that is empty or not (log 2). -/
namespace Sys2Proof.Machine

/-! ### State.reset -/

theorem State.exists_reset (p : Nat) : State.reset.exists? p = false := rfl

/-- No partition exists, so no stack has an owner and no granule a key. -/
theorem State.xtsKey_reset (a : Nat) : State.reset.xtsKey a = none := by
  have owner : ∀ n, State.reset.ownerSt n = none := fun n =>
    List.find?_eq_none.2 fun p _ => by simp [show (State.reset.own p).v = false from State.exists_reset p]
  unfold State.xtsKey
  split
  · rw [owner]
  · rfl

theorem State.cipherAt_reset (g : Nat) : State.reset.cipherAt g = none := by
  unfold State.cipherAt
  split <;> rfl

theorem State.rd_reset (a : Nat) : State.reset.rd a = 0#8 := by
  have same : State.reset.sameKey (a / 64) = true := by
    rw [State.sameKey, State.cipherAt_reset, State.xtsKey_reset]
    rfl
  rw [State.rd, if_pos same]
  rfl

/-- Settles O32: the fields of State.reset, and memory that nothing has written and no key covers. -/
theorem resetStateHeld : Obligations.ResetStateHeld := by
  refine ⟨held_reset, rfl, rfl, rfl, rfl, rfl, rfl, State.exists_reset, fun a _ => State.rd_reset a, fun i hi => ?_⟩
  interval_cases i <;> rfl

end Sys2Proof.Machine
end

section
/-! What an issue leaves, case by case: a result in a register, a jump, a fault and the halt that it makes; the same of a
controller. -/
namespace Sys2Proof.Machine

/-! ### Writes to memory, and the records of Dailies -/

/-- Nothing but the contents of memory and their error marks differs. -/
def State.onlyMem (s t : State) : Prop :=
  t = { s with mem := t.mem, cipher := t.cipher, badWords := t.badWords, poison := t.poison }

theorem State.onlyMem_refl (s : State) : s.onlyMem s := rfl

theorem State.onlyMem.trans {s t u : State} (h : s.onlyMem t) (g : t.onlyMem u) : s.onlyMem u := by
  unfold State.onlyMem at *
  rw [g, h]

theorem State.rekey_onlyMem (s : State) (g : Nat) : s.onlyMem (s.rekey g) := by
  unfold State.rekey
  split <;> rfl

theorem State.wrN_onlyMem (s : State) (a : Nat) (l : List Byte) : s.onlyMem (s.wrN a l) := by
  have h : s.onlyMem ((granulesOf a l.length).foldl (fun s g => s.rekey g) s) :=
    List.foldlRecOn (motive := fun t : State => s.onlyMem t) _ _ s.onlyMem_refl fun t ht g _ => ht.trans (t.rekey_onlyMem g)
  exact h.trans rfl

theorem State.store_onlyMem (s : State) (a : Nat) (l : List Byte) : s.onlyMem (s.store a l) :=
  (s.wrN_onlyMem a l).trans rfl

/-- Nothing but the buffers of Dailies and memory, where they may spill, differs. -/
def State.onlyDailies (s t : State) : Prop :=
  t = { s with
    dbg := { s.dbg with traces := t.dbg.traces }, mem := t.mem, cipher := t.cipher, badWords := t.badWords, poison := t.poison }

theorem State.onlyDailies_refl (s : State) : s.onlyDailies s := rfl

theorem State.onlyDailies.trans {s t u : State} (h : s.onlyDailies t) (g : t.onlyDailies u) : s.onlyDailies u := by
  unfold State.onlyDailies at *
  rw [g, h]

theorem State.onlyMem.dailies {s t : State} (h : s.onlyMem t) : s.onlyDailies t := by
  unfold State.onlyMem State.onlyDailies at *
  rw [h]

theorem State.updTrace_onlyDailies (s : State) (c : Nat) (f : Trace → Trace) : s.onlyDailies (s.updTrace c f) := rfl

theorem State.tracePut_onlyDailies (s : State) (c : Nat) (r : BitVec 256) : s.onlyDailies (s.tracePut c r) := by
  unfold State.tracePut
  extract_lets t i full post t' u
  have hu : s.onlyDailies u := s.updTrace_onlyDailies _ _
  split
  · exact hu.trans (u.store_onlyMem _ _).dailies
  · exact hu

theorem State.traceWrite_onlyDailies (s : State) (c : Nat) (trig : Bool) (r : BitVec 256) :
    s.onlyDailies (s.traceWrite c trig r) := by
  unfold State.traceWrite
  extract_lets used gap u v
  have hu : s.onlyDailies u := by
    unfold u
    split
    · exact s.onlyDailies_refl
    · exact (s.tracePut_onlyDailies _ _).trans (State.updTrace_onlyDailies _ _ _)
  have hv : s.onlyDailies v := hu.trans (u.updTrace_onlyDailies _ _)
  split
  · exact s.updTrace_onlyDailies _ _
  · split
    · exact hv.trans (v.tracePut_onlyDailies _ _)
    · exact hv

theorem State.traceRec_onlyDailies (s : State) (k ty thr pc data : Nat) : s.onlyDailies (s.traceRec k ty thr pc data) := by
  unfold State.traceRec
  dsimp only
  split
  · exact s.traceWrite_onlyDailies _ _ _
  · exact s.onlyDailies_refl

/-- Where Dailies of the core's cluster does not record, a record leaves no trace. -/
theorem State.traceRec_noTrace {s : State} {k : Nat} (h : s.noTrace k) (ty thr pc data : Nat) : s.traceRec k ty thr pc data = s :=
  if_neg fun hc => hc.1.elim h.1 h.2

theorem State.onlyDailies.cores {s t : State} (h : s.onlyDailies t) : t.cores = s.cores := by rw [h]
theorem State.onlyDailies.clusters {s t : State} (h : s.onlyDailies t) : t.clusters = s.clusters := by rw [h]
theorem State.onlyDailies.parts {s t : State} (h : s.onlyDailies t) : t.parts = s.parts := by rw [h]

/-! ### Keys of threads -/

@[simp] theorem keyCl_key (h : Hart) : keyCl h.key = h.cl.val := by
  have := h.core.isLt
  unfold keyCl Hart.key coreKey
  omega

theorem State.core_congr {s t : State} (h : t.cores = s.cores) (k : Nat) : t.core k = s.core k := by rw [State.core, h, State.core]
theorem State.cl_congr {s t : State} (h : t.clusters = s.clusters) (c : Nat) : t.cl c = s.cl c := by rw [State.cl, h, State.cl]
theorem State.part_congr {s t : State} (h : t.parts = s.parts) (p : Nat) : t.part p = s.part p := by rw [State.part, h, State.part]

/-- The logical number of a core follows from the map of its cluster. -/
theorem State.logCore_congr {s t : State} (h : t.clusters = s.clusters) (k : Nat) : (t.logOf k).2 = (s.logOf k).2 := by
  simp only [State.logOf, State.logCore, State.physCore, State.cl_congr h]

/-! ### The halt of a thread -/

/-- u is what a fault of a thread leaves before the halt: counters of its core, and accesses counted as outside the ownership. -/
structure State.faultNoted (s u : State) (h : Hart) (code : Nat) : Prop where
  frame : u = { s with cores := u.cores, parts := u.parts }
  threads : (u.core h.key).threads = (s.core h.key).threads
  cores : ∀ j, j ≠ h.key → u.core j = s.core j
  part : ∀ p, u.part p = { s.part p with badAccess := (u.part p).badAccess }
  parts : code ≠ 0x05 → code ≠ 0x06 → u.parts = s.parts

/-- A halt, with what was counted before it, is the halt of the claims. -/
theorem State.faultNoted.haltsWith {s u : State} {h : Hart} {code : Nat} (hu : s.faultNoted u h code) (entry va imm : Nat) :
    s.haltsWith (u.halt h.key h.thr.val code entry va imm) h code entry va imm := by
  obtain ⟨frame, threads, cores, part, parts⟩ := hu
  have thr (j : Nat) : u.thr h.key j = s.thr h.key j := by rw [State.thr, threads, State.thr]
  have clusters : u.clusters = s.clusters := by rw [frame]
  unfold State.halt
  extract_lets th v w
  have hw : v.onlyDailies w := v.traceRec_onlyDailies _ _ _ _ _
  have wcl : w.clusters = s.clusters := hw.clusters.trans clusters
  have hth : th = s.of h := thr _
  have vthr : v.thr h.key h.thr.val = _ := State.thr_updThr_same u _ _ _
  rw [keyCl_key, State.logCore_congr wcl]
  have core (j : Nat) : (w.ctlEvent (some h.cl.val) (eventWord 0 (s.logOf h.key).2 h.thr.val code imm)).core j = v.core j :=
    State.core_congr hw.cores j
  have of_eq : (w.ctlEvent (some h.cl.val) (eventWord 0 (s.logOf h.key).2 h.thr.val code imm)).of h = v.thr h.key h.thr.val := by
    rw [State.of, State.thr, core, State.thr]
  refine ⟨?_, ?_, ?_, fun j hj => ?_, fun j hj => ?_, fun hwfe => ?_, fun ht => ?_⟩
  · rw [of_eq, vthr]
  · rw [of_eq, vthr, hth]
  · rw [of_eq, vthr, thr]
  · rw [State.thr, core]
    exact (State.thr_updThr_ne u _ _ _ _ hj).trans (thr j)
  · rw [core]
    exact (State.core_updCore_ne u _ _ _ hj).trans (cores j hj)
  · rw [State.ctlEvent, State.updCtl, State.cl_updCl_same, State.cl_congr wcl]
    simp only [hwfe]
  · have hv : v.noTrace h.key := by
      have : v.dbg = s.dbg := by rw [show v.dbg = u.dbg from rfl, frame]
      unfold State.noTrace State.trace at *
      rwa [this]
    have hwv : w = v := State.traceRec_noTrace hv _ _ _ _
    have hv' : v = { s with cores := v.cores, parts := u.parts } := congrArg (fun x : State => { x with cores := v.cores }) frame
    rw [hwv]
    have frame (cls : SMap Cluster) : ({ v with clusters := cls } : State) = { s with cores := v.cores, clusters := cls, parts := u.parts } :=
      congrArg (fun x : State => { x with clusters := cls }) hv'
    exact ⟨frame _, part, parts⟩

theorem State.faultNoted_refl (s : State) (h : Hart) (code : Nat) : s.faultNoted s h code :=
  ⟨rfl, rfl, fun _ _ => rfl, fun _ => rfl, fun _ _ => rfl⟩

/-- What a precise fault counts besides. -/
theorem State.noteFault_noted (s : State) (h : Hart) (code va : Nat) : s.faultNoted (s.noteFault h.key code va) h code := by
  unfold State.noteFault
  split
  · exact
      { frame := rfl
        threads := by simp [State.count]
        cores := fun j hj => State.core_updCore_ne _ _ _ _ hj
        part := fun _ => rfl
        parts := fun _ _ => rfl }
  · split
    next hc =>
      unfold State.noteOutside
      split
      · refine ⟨rfl, rfl, fun _ _ => rfl, fun p => ?_, fun h5 h6 => absurd hc (by simp [fcTier, fcPage, h5, h6])⟩
        by_cases hp : p = s.partOf h.key
        · subst hp; simp
        · simp [State.part_updPart_ne _ _ _ _ hp]
      · exact s.faultNoted_refl h code
    · exact s.faultNoted_refl h code

/-! ### The issue of a thread -/

theorem State.issues.ready {s : State} {h : Hart} {w : W64} {v : List Nat} (hi : s.issues h w v) : (s.of h).st = .ready := by
  have := hi.2.1
  simp only [State.canIssue, Bool.and_eq_true, beq_iff_eq] at this
  tauto

/-- A row that faults halts its thread. -/
theorem issueMeaning_fault (op : Nat) (h : Hart) (w : W64) (s : State) (vregs : List Nat) (touch : List (Nat × Nat × Nat))
    (thr : Hart → State → Res) (ctl : Option Nat → State → Res) {code va : Nat} (ho : opcOf w = op) (hi : s.issues h w vregs)
    (hs : thr h s = .fault code va) :
    ∃ t, issueMeaning op (.thread h) w s vregs touch thr ctl = .next t ∧ s.haltsWith t h code 0 va 0 := by
  refine ⟨_, ?_, (s.noteFault_noted h code va).haltsWith 0 va 0⟩
  rw [issueMeaning_legal _ _ _ _ _ _ _ _ ho hi.1]
  exact congrArg _ (State.issue_fault s h w vregs touch (thr h) code va hi.2.1 hi.2.2 hs)

/-- A word with a reserved opcode raises ILLEGAL in every row (R186). -/
theorem issueMeaning_unlisted (op : Nat) (h : Hart) (w : W64) (s : State) (vregs : List Nat) (touch : List (Nat × Nat × Nat))
    (thr : Hart → State → Res) (ctl : Option Nat → State → Res) (hop : listedOpc op = true) (ho : listedOpc (opcOf w) = false)
    (hi : s.issues h w []) :
    ∃ t, issueMeaning op (.thread h) w s vregs touch thr ctl = .next t ∧ s.haltsWith t h fcIllegal 0 0 0 := by
  have hne : opcOf w ≠ op := by rintro rfl; simp [hop] at ho
  refine ⟨_, ?_, (s.noteFault_noted h fcIllegal 0).haltsWith 0 0 0⟩
  rw [issueMeaning, issueRow, if_neg hne, ho, if_neg (by decide), whenLive_live _ _ hi.1]
  exact congrArg _ (State.issue_fault s h w [] [] (fun _ => .fault fcIllegal 0) _ _ hi.2.1 hi.2.2 rfl)

/-- A row that blocks leaves what its wait is. -/
theorem issueMeaning_block (op : Nat) (h : Hart) (w : W64) (s s' : State) (vregs : List Nat) (touch : List (Nat × Nat × Nat))
    (thr : Hart → State → Res) (ctl : Option Nat → State → Res) (ho : opcOf w = op) (hi : s.issues h w vregs)
    (hs : thr h s = .block s') : issueMeaning op (.thread h) w s vregs touch thr ctl = .next s' := by
  rw [issueMeaning_legal _ _ _ _ _ _ _ _ ho hi.1]
  exact congrArg _ (State.issue_block s s' h w vregs touch (thr h) hi.2.1 hs)

/-- The state after an instruction that jumps. -/
def State.jumpedBy (s : State) (h : Hart) (w pc from_ : W64) : State :=
  let u := (s.noteIssue h.key h.thr.val).updThr h.key h.thr.val (fun th => th.jump pc)
  if opcOf w = 0x43 then u else u.traceRec h.key 2 h.thr.val from_.toNat pc.toNat

theorem issueMeaning_jump (op : Nat) (h : Hart) (w : W64) (s s' : State) (vregs : List Nat) (touch : List (Nat × Nat × Nat))
    (thr : Hart → State → Res) (ctl : Option Nat → State → Res) {pc : W64} (ho : opcOf w = op) (hi : s.issues h w vregs)
    (hs : thr h s = .jump s' pc) :
    issueMeaning op (.thread h) w s vregs touch thr ctl = .next (s'.jumpedBy h w pc (s.of h).pc) := by
  rw [issueMeaning_legal _ _ _ _ _ _ _ _ ho hi.1]
  exact congrArg _ (State.issue_jump s s' h w vregs touch (thr h) pc hi.2.1 hi.2.2 hs)

theorem State.jumpedBy_of (s : State) (h : Hart) (w pc from_ : W64) : (s.jumpedBy h w pc from_).of h = (s.of h).jump pc := by
  unfold State.jumpedBy
  extract_lets u
  have hu : u.of h = (s.of h).jump pc := by simp [u, State.of]
  split
  · exact hu
  · rw [State.of, State.thr, State.core_congr (u.traceRec_onlyDailies _ _ _ _ _).cores]
    exact hu

/-- Where Dailies does not record, a jump touches one thread, and the counters and the last issuer of its core. -/
theorem State.onlyThread_jumpedBy {s t : State} {h : Hart} (a : s.near t h) (hn : t.noTrace h.key) (w pc from_ : W64) :
    s.onlyThread (t.jumpedBy h w pc from_) h := by
  have e : t.jumpedBy h w pc from_ = (t.noteIssue h.key h.thr.val).updThr h.key h.thr.val (fun th => th.jump pc) := by
    unfold State.jumpedBy
    extract_lets u
    have hu : u.noTrace h.key := hn
    split
    · rfl
    · exact State.traceRec_noTrace hu _ _ _ _
  obtain ⟨b1, b2, b3⟩ := State.near_trans (State.near_trans a (t.near_noteIssue h))
    ((t.noteIssue h.key h.thr.val).near_updThr h (fun th => th.jump pc))
  rw [e]
  refine ⟨b1, b2, b3.trans ?_⟩
  simp [State.noteIssue, State.updThr]

/-! ### A result in a register -/

theorem Thread.next_sameBut (x : Thread) : Thread.sameBut x x.next := by
  by_cases h : x.st = .ready
  · exact (Thread.next_wentOn x h).1
  · exact (Thread.next_waitsAs x h).1

theorem Thread.sameBut.g {x y : Thread} (h : Thread.sameBut x y) (n : Nat) : y.g n = x.g n := by rw [h]; rfl
theorem Thread.sameBut.gr {x y : Thread} (h : Thread.sameBut x y) : y.gr = x.gr := by rw [h]
theorem Thread.sameBut.v {x y : Thread} (h : Thread.sameBut x y) (n : Nat) : y.v n = x.v n := by rw [h]; rfl

/-- What a write of a scalar register leaves in every one: g0 keeps reading zero (R55). -/
theorem Thread.g_setG (t : Thread) (n m : Nat) (v : W64) : (t.setG n v).g m = if m ≠ 0 ∧ m = n then v else t.g m := by
  by_cases hm : m = 0
  · subst hm; simp
  · by_cases hn : m = n
    · subst hn; simp [hm, Thread.g_setG_same]
    · simp [hn, Thread.g_setG_ne _ _ _ _ hn]

/-- An instruction that only writes a scalar register of its thread: the register, the thread, and what else differs. -/
theorem State.issuedBy_setG {s : State} {h : Hart} (hr : (s.of h).st = .ready) (n : Nat) (v : W64) :
    let t := (s.updThr h.key h.thr.val (fun x => x.setG n v)).issuedBy h
    (∀ m, (t.of h).g m = if m ≠ 0 ∧ m = n then v else (s.of h).g m) ∧
      Thread.wentOn { s.of h with gr := (t.of h).gr } (t.of h) ∧ s.onlyThread t h ∧
      (t.core h.key).cnt.get 0#64 1 = (s.core h.key).cnt.get 0#64 1 + 1#64 := by
  intro t
  have e : t.of h = ((s.of h).setG n v).next := by simp [t, State.of]
  have b := ((s.of h).setG n v).next_sameBut
  refine ⟨fun m => ?_, ?_, State.onlyThread_issuedBy (s.near_updThr h _), ?_⟩
  · rw [e, b.g, Thread.g_setG]
  · rw [e, b.gr, ← Thread.setG_eq]
    exact Thread.next_wentOn _ (by simpa using hr)
  · simp [t, State.issuedBy_cnt, State.updThr]

/-! ### Controllers -/

theorem State.onlyCtl_updCtl (s : State) (c : Option Nat) (f : Ctl → Ctl) : s.onlyCtl (s.updCtl c f) c := by
  cases c with
  | none =>
    refine ⟨rfl, fun d hd => ?_, fun _ => rfl⟩
    cases d with
    | none => exact absurd rfl hd
    | some n => rfl
  | some m =>
    refine ⟨rfl, fun d hd => ?_, fun n => ?_⟩
    · cases d with
      | none => rfl
      | some n => exact congrArg Cluster.ctl (State.cl_updCl_ne s m n _ (by simpa using hd))
    · by_cases hn : n = m
      · subst hn; simp [State.updCtl]
      · simp [State.updCtl, State.cl_updCl_ne _ _ _ _ hn]

theorem State.onlyCtl.trans {s t u : State} {c : Option Nat} (h : s.onlyCtl t c) (g : t.onlyCtl u c) : s.onlyCtl u c := by
  obtain ⟨h1, h2, h3⟩ := h
  obtain ⟨g1, g2, g3⟩ := g
  refine ⟨?_, fun d hd => (g2 d hd).trans (h2 d hd), fun n => ?_⟩
  · rw [g1, h1]
  · rw [← h3 n, ← g3 n]

theorem Ctl.g_setG (t : Ctl) (n m : Nat) (v : W64) : (t.setG n v).g m = if m ≠ 0 ∧ m = n then v else t.g m := by
  by_cases hm : m = 0
  · subst hm; simp
  · by_cases hn : m = n
    · subst hn; simp [hm, Ctl.g_setG_same]
    · simp [hn, Ctl.g_setG_ne _ _ _ _ hn]

/-- The state after an instruction of a controller that changes only the controller and goes on. -/
theorem State.ctlDone (s : State) (c : Option Nat) (f : Ctl → Ctl) :
    let t := (s.updCtl c f).updCtl c (fun x => { x with pc := x.pc + 8#64 })
    t.ctl c = { f (s.ctl c) with pc := (f (s.ctl c)).pc + 8#64 } ∧ s.onlyCtl t c :=
  ⟨by simp, (s.onlyCtl_updCtl c f).trans (State.onlyCtl_updCtl _ c _)⟩

theorem issueMeaning_ctlRow (op : Nat) (c : Option (Fin 8)) (w : W64) (s : State) (vregs : List Nat)
    (touch : List (Nat × Nat × Nat)) (thr : Hart → State → Res) (ctl : Option Nat → State → Res) (ho : opcOf w = op)
    (hl : s.live = true) :
    issueMeaning op (ctlAgent c) w s vregs touch thr ctl = .next (s.ctlIssue (ctlNum c) w touch (ctl (ctlNum c))) := by
  rw [issueMeaning_legal _ _ _ _ _ _ _ _ ho hl]
  cases c <;> rfl

theorem issueMeaning_ctlJump (op : Nat) (c : Option (Fin 8)) (w : W64) (s s' : State) (vregs : List Nat)
    (touch : List (Nat × Nat × Nat)) (thr : Hart → State → Res) (ctl : Option Nat → State → Res) {pc : W64} (ho : opcOf w = op)
    (hx : ctlOpc op = true) (hi : s.ctlIssues (ctlNum c) w) (hs : ctl (ctlNum c) s = .jump s' pc) :
    issueMeaning op (ctlAgent c) w s vregs touch thr ctl = .next (s'.updCtl (ctlNum c) (fun t => { t with pc := pc })) := by
  rw [issueMeaning_ctlRow _ _ _ _ _ _ _ _ ho hi.1,
    State.ctlIssue_jump s s' _ w touch _ pc hi (by rw [ho]; exact hx) hs]

theorem issueMeaning_ctlBlock (op : Nat) (c : Option (Fin 8)) (w : W64) (s s' : State) (vregs : List Nat)
    (touch : List (Nat × Nat × Nat)) (thr : Hart → State → Res) (ctl : Option Nat → State → Res) (ho : opcOf w = op)
    (hi : s.ctlIssues (ctlNum c) w) (hs : ctl (ctlNum c) s = .block s') :
    issueMeaning op (ctlAgent c) w s vregs touch thr ctl = .next s' := by
  rw [issueMeaning_ctlRow _ _ _ _ _ _ _ _ ho hi.1, State.ctlIssue_block s s' _ w touch _ hi hs]

end Sys2Proof.Machine
end

section
/-! The scalar instructions of Table ISA-3, the branches and jumps of Table ISA-4, and words that may not be executed (R186, R188 to
R190, R195 to R197, R289, R295, R296). -/
namespace Sys2Proof.Machine

/-! ### Scalar instructions -/

/-- Signed and unsigned comparison as the numbers compare. -/
theorem sltV_eq (u : Bool) (a b : W64) :
    sltV u a b = if u then (if a.toNat < b.toNat then 1#64 else 0#64) else if a.toInt < b.toInt then 1#64 else 0#64 := by
  cases u <;> simp [sltV, BitVec.slt, BitVec.ult]

/-- A scalar row meets its third operand only as the immediate of its word. -/
theorem scalarRow_imm {f g : W64 → W64 → W64 → W64} {w : W64} (h : ∀ x y, f x y (immS w) = g x y (immS w)) {op mask : Nat}
    {a : Agent} {s : State} : scalarRow op mask f a w s = scalarRow op mask g a w s := by
  have thr : scalarThr mask f w = scalarThr mask g w := by
    funext k s
    simp only [scalarThr, h]
  have ctl : scalarCtl mask f w = scalarCtl mask g w := by
    funext c s
    simp only [scalarCtl, h]
  rw [scalarRow, scalarRow, thr, ctl]

/-- Every row of Table ISA-3 runs the one meaning of scalar rows, with its own function. -/
theorem exec_scalarForm : ∀ r ∈ Claims.scalarForms, ∀ (a : Agent) (w : W64) (s : State),
    exec (r.ins a w) s = scalarRow r.op r.mask (fun x y _ => r.f w x y) a w s := by
  simp only [Claims.scalarForms, List.cons_append, List.nil_append, List.forall_mem_cons, List.not_mem_nil, false_implies]
  iterate 22 refine ⟨fun _ _ _ => scalarRow_imm fun _ _ => rfl, ?_⟩
  exact ⟨fun _ _ _ => scalarRow_imm fun _ _ => sltV_eq _ _ _, fun _ _ _ => scalarRow_imm fun _ _ => sltV_eq _ _ _,
    fun _ _ _ => scalarRow_imm fun _ _ => rfl, fun _ _ _ => scalarRow_imm fun _ _ => by dsimp only, fun _ => trivial⟩

theorem scalarThr_legal {mask : Nat} {f : W64 → W64 → W64 → W64} {w : W64} (hm : unusedSet w mask = false) (h : Hart) (s : State) :
    scalarThr mask f w h s = .done (s.updThr h.key h.thr.val (fun x =>
      x.setG (fD w) (f ((s.of h).g (fA w)) ((s.of h).g (fB w)) (immS w)))) := by
  simp [scalarThr, hm]

theorem scalarCtl_legal {mask : Nat} {f : W64 → W64 → W64 → W64} {w : W64} (hm : unusedSet w mask = false) (c : Option Nat)
    (s : State) :
    scalarCtl mask f w c s = .done (s.updCtl c (fun x => x.setG (fD w) (f ((s.ctl c).g (fA w)) ((s.ctl c).g (fB w)) (immS w)))) := by
  simp [scalarCtl, hm]

/-- An instruction that only writes a register of its controller. -/
theorem State.ctlDone_setG (s : State) (c : Option Nat) (n : Nat) (v : W64) :
    let t := (s.updCtl c (fun x => x.setG n v)).updCtl c (fun x => { x with pc := x.pc + 8#64 })
    (∀ m, (t.ctl c).g m = if m ≠ 0 ∧ m = n then v else (s.ctl c).g m) ∧
      t.ctl c = { s.ctl c with gr := (t.ctl c).gr, pc := (s.ctl c).pc + 8#64 } ∧ s.onlyCtl t c := by
  obtain ⟨hctl, honly⟩ := s.ctlDone c (fun x => x.setG n v)
  refine ⟨fun m => ?_, ?_, honly⟩
  · rw [hctl]
    exact Ctl.g_setG _ _ _ _
  · rw [hctl, Ctl.setG_eq]

theorem scalarForms_ctl : ∀ r ∈ Claims.scalarForms, ctlOpc r.op = true := by decide

theorem scalarOnThread : Claims.ScalarOnThread := by
  intro r hr h w s ho hm hi
  rw [exec_scalarForm r hr, scalarRow, issueMeaning_done _ h w s _ _ _ _ _ ho hi (scalarThr_legal hm h s)]
  obtain ⟨hg, hgo, honly, hcnt⟩ := State.issuedBy_setG hi.ready (fD w) (r.f w ((s.of h).g (fA w)) ((s.of h).g (fB w)))
  refine ⟨_, rfl, fun hd => ?_, Thread.g_zero _, fun n hn => ?_, hgo, honly, hcnt⟩
  · rw [hg, if_pos ⟨hd, rfl⟩]
  · rw [hg, if_neg fun x => hn x.2]

theorem scalarOnController : Claims.ScalarOnController := by
  intro r hr c w s ho hm hi
  rw [exec_scalarForm r hr, scalarRow,
    issueMeaning_ctl _ c w s _ _ _ _ _ ho (scalarForms_ctl r hr) hi (scalarCtl_legal hm (ctlNum c) s)]
  obtain ⟨hg, hctl, honly⟩ := s.ctlDone_setG (ctlNum c) (fD w) (r.f w ((s.ctl (ctlNum c)).g (fA w)) ((s.ctl (ctlNum c)).g (fB w)))
  refine ⟨_, rfl, fun hd => ?_, fun n hn => ?_, hctl, honly⟩
  · rw [hg, if_pos ⟨hd, rfl⟩]
  · rw [hg, if_neg fun x => hn x.2]

/-- Settles O33: each row of Table ISA-3 is a scalar row, which writes one register and goes on. -/
theorem scalarInstructions : Obligations.ScalarInstructions := ⟨scalarOnThread, scalarOnController⟩

/-! ### Branches -/

theorem exec_branchForm : ∀ r ∈ Claims.branchForms, ∀ (a : Agent) (w : W64) (s : State),
    exec (r.1 a w) s = branchRow r.2.1 r.2.2 a w s := by
  have sge (x y : W64) : (!x.slt y) = decide (y.toInt ≤ x.toInt) := by
    rw [BitVec.slt, ← decide_not, decide_eq_decide, Int.not_lt]
  have uge (x y : W64) : (!x.ult y) = decide (y.toNat ≤ x.toNat) := by
    rw [BitVec.ult, ← decide_not, decide_eq_decide, Nat.not_lt]
  have ne (x y : W64) : (x != y) = decide (x ≠ y) := by
    rw [decide_not]
    rfl
  have row (op : Nat) {f g : W64 → W64 → Bool} (h : ∀ x y, f x y = g x y) (a : Agent) (w : W64) (s : State) :
      branchRow op f a w s = branchRow op g a w s := by rw [funext₂ h]
  simp only [Claims.branchForms, List.forall_mem_cons, List.not_mem_nil, false_implies]
  exact ⟨row 0x30 fun _ _ => rfl, row 0x31 ne, row 0x32 fun _ _ => rfl, row 0x33 sge, row 0x34 fun _ _ => rfl, row 0x35 uge,
    fun _ => trivial⟩

theorem branchForms_ctl : ∀ r ∈ Claims.branchForms, ctlOpc r.2.1 = true := by decide

theorem branchThr_taken {cond : W64 → W64 → Bool} {w : W64} (hm : unusedSet w (mO + mA + mB + mI) = false) {h : Hart} {s : State}
    (hc : cond ((s.of h).g (fA w)) ((s.of h).g (fB w)) = true) :
    branchThr cond w h s = .jump s ((s.of h).pc + immS w * 8#64) := by
  simp [branchThr, hm, hc, relTarget]

theorem branchThr_notTaken {cond : W64 → W64 → Bool} {w : W64} (hm : unusedSet w (mO + mA + mB + mI) = false) {h : Hart} {s : State}
    (hc : cond ((s.of h).g (fA w)) ((s.of h).g (fB w)) = false) : branchThr cond w h s = .done s := by
  simp [branchThr, hm, hc]

theorem branchCtl_taken {cond : W64 → W64 → Bool} {w : W64} (hm : unusedSet w (mO + mA + mB + mI) = false) {c : Option Nat}
    {s : State} (hc : cond ((s.ctl c).g (fA w)) ((s.ctl c).g (fB w)) = true) :
    branchCtl cond w c s = .jump s ((s.ctl c).pc + immS w * 8#64) := by
  simp [branchCtl, hm, hc, relTarget]

theorem branchCtl_notTaken {cond : W64 → W64 → Bool} {w : W64} (hm : unusedSet w (mO + mA + mB + mI) = false) {c : Option Nat}
    {s : State} (hc : cond ((s.ctl c).g (fA w)) ((s.ctl c).g (fB w)) = false) : branchCtl cond w c s = .done s := by
  simp [branchCtl, hm, hc]

theorem branchesGo : Claims.BranchesGo := by
  intro r hr w s ho hm
  refine ⟨fun h hi => ?_, fun c hi => ?_⟩
  · rw [exec_branchForm r hr, branchRow]
    cases hc : r.2.2 ((s.of h).g (fA w)) ((s.of h).g (fB w))
    · rw [issueMeaning_done _ h w s s _ _ _ _ ho hi (branchThr_notTaken hm hc)]
      refine ⟨_, rfl, ?_, fun _ => State.onlyThread_issuedBy (s.near_refl h)⟩
      rw [State.issuedBy_of]
      exact Thread.next_wentOn _ hi.ready
    · rw [issueMeaning_jump _ h w s s _ _ _ _ ho hi (branchThr_taken hm hc)]
      refine ⟨_, rfl, ?_, fun hn => State.onlyThread_jumpedBy (s.near_refl h) hn _ _ _⟩
      rw [State.jumpedBy_of]
      exact Thread.jump_jumpedTo _ _
  · rw [exec_branchForm r hr, branchRow]
    have hx := branchForms_ctl r hr
    cases hc : r.2.2 ((s.ctl (ctlNum c)).g (fA w)) ((s.ctl (ctlNum c)).g (fB w))
    · rw [issueMeaning_ctl _ c w s s _ _ _ _ ho hx hi (branchCtl_notTaken hm hc)]
      exact ⟨_, rfl, s.onlyCtl_updCtl _ _, by simp⟩
    · rw [issueMeaning_ctlJump _ c w s s _ _ _ _ ho hx hi (branchCtl_taken hm hc)]
      exact ⟨_, rfl, s.onlyCtl_updCtl _ _, by simp⟩

/-! ### Jumps -/

/-- A thread that links in D and jumps. -/
theorem State.jumpedBy_link (s : State) (h : Hart) (w pc from_ : W64) :
    let t := (s.updThr h.key h.thr.val (fun x => x.setG (fD w) ((s.of h).pc + 8#64))).jumpedBy h w pc from_
    Thread.jumpedTo ((s.of h).setG (fD w) ((s.of h).pc + 8#64)) (t.of h) pc ∧
      (fD w ≠ 0 → (t.of h).g (fD w) = (s.of h).pc + 8#64) ∧ (∀ n, n ≠ fD w → (t.of h).g n = (s.of h).g n) ∧
      (s.noTrace h.key → s.onlyThread t h) := by
  intro t
  have e : t.of h = ((s.of h).setG (fD w) ((s.of h).pc + 8#64)).jump pc := by
    rw [State.jumpedBy_of, State.of, State.thr_updThr_same]
  have g (n : Nat) : (t.of h).g n = ((s.of h).setG (fD w) ((s.of h).pc + 8#64)).g n := by rw [e]; rfl
  refine ⟨by rw [e]; exact Thread.jump_jumpedTo _ _, fun hd => ?_, fun n hn => ?_, fun hn =>
    State.onlyThread_jumpedBy (s.near_updThr h _) hn _ _ _⟩
  · rw [g, Thread.g_setG_same _ _ _ hd]
  · rw [g, Thread.g_setG_ne _ _ _ _ hn]

theorem jumpsLink : Claims.JumpsLink := by
  intro w s h hi
  refine ⟨fun ho hm => ?_, fun ho hm ha => ?_, fun ho hm ha => ?_⟩
  · have hs : jalThr w h s = .jump (s.updThr h.key h.thr.val (fun x => x.setG (fD w) ((s.of h).pc + 8#64)))
        ((s.of h).pc + immS w * 8#64) := by simp [jalThr, hm, relTarget]
    exact ⟨_, issueMeaning_jump _ h w s _ _ _ _ (jalCtl w) ho hi hs, s.jumpedBy_link h w _ _⟩
  · have hs : jalrThr w h s = .jump (s.updThr h.key h.thr.val (fun x => x.setG (fD w) ((s.of h).pc + 8#64)))
        ((s.of h).g (fA w) + immS w) := by simp only [jalrThr, hm, ha]; rfl
    exact ⟨_, issueMeaning_jump _ h w s _ _ _ _ (jalrCtl w) ho hi hs, s.jumpedBy_link h w _ _⟩
  · have hs : jalrThr w h s = .fault fcAlign 0 := by simp only [jalrThr, hm, if_pos ha]; rfl
    obtain ⟨t, ht, hst, hflt, hth, -⟩ := issueMeaning_fault 0x39 h w s [] [] (jalrThr w) (jalrCtl w) ho hi hs
    exact ⟨t, ht, hst, by rw [hflt]; rfl, by rw [hth], by rw [hth]⟩

/-- A controller that links in D and jumps. -/
theorem State.ctl_link (s : State) (c : Option Nat) (n : Nat) (v pc : W64) :
    let t := (s.updCtl c (fun x => x.setG n v)).updCtl c (fun x => { x with pc := pc })
    s.onlyCtl t c ∧ (t.ctl c).pc = pc ∧ (n ≠ 0 → (t.ctl c).g n = v) ∧ ∀ m, m ≠ n → (t.ctl c).g m = (s.ctl c).g m := by
  intro t
  have e : t.ctl c = { (s.ctl c).setG n v with pc := pc } := by simp [t]
  refine ⟨(s.onlyCtl_updCtl c _).trans (State.onlyCtl_updCtl _ c _), by rw [e], fun hn => ?_, fun m hm => ?_⟩
  · rw [e]
    exact Ctl.g_setG_same _ _ _ hn
  · rw [e]
    exact Ctl.g_setG_ne _ _ _ _ hm

theorem controllerJumps : Claims.ControllerJumps := by
  intro w s c hi
  refine ⟨fun ho hm => ?_, fun ho hm ha => ?_⟩
  · have hs : jalCtl w (ctlNum c) s = .jump (s.updCtl (ctlNum c) (fun x => x.setG (fD w) ((s.ctl (ctlNum c)).pc + 8#64)))
        ((s.ctl (ctlNum c)).pc + immS w * 8#64) := by simp [jalCtl, hm, relTarget]
    exact ⟨_, issueMeaning_ctlJump 0x38 c w s _ _ _ (jalThr w) _ ho (by decide) hi hs, s.ctl_link _ _ _ _⟩
  · have hs : jalrCtl w (ctlNum c) s = .jump (s.updCtl (ctlNum c) (fun x => x.setG (fD w) ((s.ctl (ctlNum c)).pc + 8#64)))
        ((s.ctl (ctlNum c)).g (fA w) + immS w) := by simp only [jalrCtl, hm, ha]; rfl
    exact ⟨_, issueMeaning_ctlJump 0x39 c w s _ _ _ (jalrThr w) _ ho (by decide) hi hs, s.ctl_link _ _ _ _⟩

/-- Settles O34: a branch leaves the state to the issue, which jumps or goes on; a jump links in D first. -/
theorem branchesAndJumps : Obligations.BranchesAndJumps := ⟨branchesGo, jumpsLink, controllerJumps⟩

end Sys2Proof.Machine
end

section
/-! Words that may not be executed (R186, R289, R295, R296), and what the reports of a failure leave unchanged. -/
namespace Sys2Proof.Machine

/-! ### Event records -/

/-- Nothing but the event queues, the buffers of Dailies, and memory, where they may spill, differs. -/
def State.onlyPosts (s t : State) : Prop :=
  t = { s with
    usb := { s.usb with evq := t.usb.evq, lost := t.usb.lost, remoteWake := t.usb.remoteWake }
    dbg := { s.dbg with traces := t.dbg.traces }, mem := t.mem, cipher := t.cipher, badWords := t.badWords, poison := t.poison }

theorem State.onlyPosts_refl (s : State) : s.onlyPosts s := rfl

theorem State.onlyPosts.trans {s t u : State} (h : s.onlyPosts t) (g : t.onlyPosts u) : s.onlyPosts u := by
  unfold State.onlyPosts at *
  rw [g, h]

theorem State.onlyDailies.posts {s t : State} (h : s.onlyDailies t) : s.onlyPosts t := by
  unfold State.onlyDailies State.onlyPosts at *
  rw [h]

theorem State.postRaw_onlyPosts (s : State) (q : Nat) (r : EventRec) : s.onlyPosts (s.postRaw q r) := by
  unfold State.postRaw
  split
  · rfl
  · dsimp only
    split <;> rfl

theorem State.takeTrigger_onlyPosts (s : State) (c cause core thr : Nat) : s.onlyPosts (s.takeTrigger c cause core thr).1 := by
  unfold State.takeTrigger
  dsimp only
  split
  · exact (((s.traceWrite_onlyDailies _ _ _).trans (State.updTrace_onlyDailies _ _ _)).trans
      (State.updTrace_onlyDailies _ _ _)).posts
  · split
    · exact (s.updTrace_onlyDailies _ _).posts
    · rfl

theorem State.post_onlyPosts (s : State) (q : Nat) (cl : Option Nat) (code source unit part : Nat) (dev : Bool) (detail : Nat) :
    s.onlyPosts (s.post q cl code source unit part dev detail) := by
  unfold State.post
  extract_lets u v
  have hu : s.onlyPosts u := s.postRaw_onlyPosts q _
  have hv : s.onlyPosts v := by
    refine hu.trans ?_
    unfold v
    split
    · exact (u.traceRec_onlyDailies _ _ _ _ _).posts
    · rfl
  split
  · refine hv.trans (List.foldlRecOn (motive := fun t : State => v.onlyPosts t) _ _ v.onlyPosts_refl fun t ht c _ => ht.trans ?_)
    split
    · dsimp only
      split
      · exact (t.takeTrigger_onlyPosts c 1 0 0).trans (State.postRaw_onlyPosts _ _ _)
      · exact t.takeTrigger_onlyPosts c 1 0 0
    · rfl
  · exact hv

theorem State.postUnit_onlyPosts (s : State) (code source c unitLog unitPhys kind action phys epoch a b : Nat) :
    s.onlyPosts (s.postUnit code source c unitLog unitPhys kind action phys epoch a b) := by
  unfold State.postUnit
  extract_lets u
  have hu : s.onlyPosts u := by
    unfold u
    split
    · exact s.post_onlyPosts _ _ _ _ _ _ _ _
    · rfl
  exact hu.trans (u.post_onlyPosts _ _ _ _ _ _ _ _)

theorem State.onlyPosts.clusters {s t : State} (h : s.onlyPosts t) : t.clusters = s.clusters := by rw [h]

/-! ### The failure of a cluster controller -/

/-- Requests dropped leave every controller as it was. -/
theorem State.dropStale_ctl (s : State) (c sender log n j : Nat) : ((s.dropStale c sender log n).cl j).ctl = (s.cl j).ctl := by
  have upd (t : State) (f : Cluster → Cluster) (hf : (f (t.cl c)).ctl = (t.cl c).ctl) : ((t.updCl c f).cl j).ctl = (t.cl j).ctl := by
    by_cases hj : j = c
    · subst hj; rw [State.cl_updCl_same, hf]
    · rw [State.cl_updCl_ne _ _ _ _ hj]
  unfold State.dropStale
  split
  · rfl
  · extract_lets u due v drops l
    have hu : (u.cl j).ctl = (s.cl j).ctl := upd s _ rfl
    have hv : (v.cl j).ctl = (s.cl j).ctl := (upd u _ rfl).trans hu
    split
    · exact hu
    · split
      · rw [State.cl_congr (v.postUnit_onlyPosts _ _ _ _ _ _ _ _ _ _ _).clusters, hv]
      · rw [State.cl_congr (v.postUnit_onlyPosts _ _ _ _ _ _ _ _ _ _ _).clusters, hv]

theorem State.updParts_clusters (l : List Nat) (f : Nat → Part → Part) (s : State) :
    (l.foldl (fun s p => s.updPart p (f p)) s).clusters = s.clusters :=
  List.foldlRecOn (motive := fun t : State => t.clusters = s.clusters) _ _ rfl fun _ ht _ _ => ht

/-- A failed controller is fenced, and it keeps whether it has stopped. -/
theorem State.ctlFail_ctl (s : State) (c kind : Nat) :
    ((s.ctlFail c kind).cl c).ctl = { (s.cl c).ctl with fenced := true, mboxWait := none, load := none, wfe := none } := by
  unfold State.ctlFail
  extract_lets e u n v w
  have hv : (v.cl c).ctl = (u.cl c).ctl :=
    congrArg Cluster.ctl (State.cl_congr (State.updParts_clusters (upTo 8) (fun _ x => { x with mbox := x.mbox.filter (fun m => m.1 != c) }) u) c)
  rw [State.cl_congr (w.postUnit_onlyPosts _ _ _ _ _ _ _ _ _ _ _).clusters, State.dropStale_ctl, hv, State.cl_updCl_same]

/-! ### Faults of controllers -/

theorem State.ctlFault_first (s : State) (c : Option Nat) (code : Nat) (h : (s.ctl c).ecause = 0#8) :
    s.onlyCtl (s.ctlFault c code) c ∧ (s.ctlFault c code).ctl c = { s.ctl c with
      epc := (s.ctl c).pc.setWidth 40, ecause := BitVec.ofNat 8 code, pc := (s.ctl c).hbase.setWidth 64 } := by
  rw [State.ctlFault, if_pos h]
  exact ⟨s.onlyCtl_updCtl c _, s.ctl_updCtl_same c _⟩

theorem State.completeMgmt_devCtl (s : State) (serial status fcode d0 d1 : Nat) :
    (s.completeMgmt serial status fcode d0 d1).devCtl = s.devCtl := by
  unfold State.completeMgmt
  split <;> rfl

theorem State.ctlFault_second (s : State) (c : Option Nat) (code : Nat) (h : (s.ctl c).ecause ≠ 0#8) :
    ((s.ctlFault c code).ctl c).stopped = true ∧ (c ≠ none → ((s.ctlFault c code).ctl c).fenced = true) := by
  rw [State.ctlFault, if_neg h]
  cases c with
  | none =>
    refine ⟨?_, fun x => absurd rfl x⟩
    dsimp only
    refine List.foldlRecOn (motive := fun t : State => (t.ctl none).stopped = true) _ _ (by simp) fun t ht x _ => ?_
    rwa [State.ctl, State.completeMgmt_devCtl]
  | some n =>
    have hc := (s.updCtl (some n) (fun t => { t with stopped := true })).ctlFail_ctl n 3
    rw [State.ctl]
    dsimp only
    rw [hc]
    exact ⟨by simp [State.updCtl], fun _ => rfl⟩

theorem State.ctlIssue_unlisted (s : State) (c : Option Nat) (w : W64) (touch : List (Nat × Nat × Nat)) (hi : s.ctlIssues c w)
    (ho : ctlOpc (opcOf w) = false) : s.ctlIssue c w touch (noCtl c) = s.ctlFault c fcIllegal := by
  obtain ⟨_, h1, h2, h3, h4, h5⟩ := hi
  cases c with
  | none => simp [State.ctlIssue, h1, h2, h3, h4, noCtl, ho]
  | some n => simp [State.ctlIssue, h1, h2, h3, h4, noCtl, ho, State.ctlBp_unarmed s n _ h5]

theorem controllerFaults : Claims.ControllerFaults := by
  have row (op : Nat) (c : Option (Fin 8)) (w : W64) (s : State) (vregs : List Nat) (touch : List (Nat × Nat × Nat))
      (thr : Hart → State → Res) (hop : ctlOpc op = false) (ho : opcOf w = op) (hi : s.ctlIssues (ctlNum c) w) :
      ∃ t, issueMeaning op (ctlAgent c) w s vregs touch thr noCtl = .next t ∧
        ((s.ctl (ctlNum c)).ecause = 0#8 → s.onlyCtl t (ctlNum c) ∧
          t.ctl (ctlNum c) = { s.ctl (ctlNum c) with
            epc := (s.ctl (ctlNum c)).pc.setWidth 40, ecause := 0x01#8, pc := (s.ctl (ctlNum c)).hbase.setWidth 64 }) ∧
        ((s.ctl (ctlNum c)).ecause ≠ 0#8 → (t.ctl (ctlNum c)).stopped = true ∧
          (∀ n : Fin 8, c = some n → (t.ctl (ctlNum c)).fenced = true)) := by
    rw [issueMeaning_ctlRow _ _ _ _ _ _ _ _ ho hi.1, State.ctlIssue_unlisted _ _ _ _ hi (by rw [ho]; exact hop)]
    refine ⟨_, rfl, fun h => s.ctlFault_first _ _ h, fun h => ?_⟩
    obtain ⟨hst, hf⟩ := s.ctlFault_second (ctlNum c) fcIllegal h
    exact ⟨hst, fun n hn => hf (by simp [hn, ctlNum])⟩
  simp only [Claims.ControllerFaults, List.forall_mem_cons, List.not_mem_nil, false_implies]
  refine ⟨?_, ?_, ?_, ?_, ?_, ?_, ?_, ?_, fun _ => trivial⟩
  all_goals exact fun c w s ho hi => row _ c w s _ _ _ (by decide) ho hi

/-! ### Faults of threads -/

theorem illegalAndPrivHalt : Claims.IllegalAndPrivHalt := by
  intro h w s hi
  have priv : ∀ r ∈ Claims.privForms, ∃ ctl,
      exec (r.1 (.thread h) w) s = issueMeaning r.2.1 (.thread h) w s [] [] (privThr r.2.2 w) ctl := by
    simp only [Claims.privForms, List.forall_mem_cons, List.not_mem_nil, false_implies]
    exact ⟨⟨_, rfl⟩, ⟨_, rfl⟩, ⟨_, rfl⟩, ⟨_, rfl⟩, ⟨_, rfl⟩, fun _ => trivial⟩
  have listed : ∀ r ∈ Claims.scalarForms, listedOpc r.op = true := by decide
  refine ⟨fun r hr ho hm => ?_, fun r hr ho hm => ?_, fun r hr ho hm => ?_, fun r hr ho hm => ?_, fun r hr ho => ?_⟩
  · obtain ⟨ctl, e⟩ := priv r hr
    rw [e]
    exact issueMeaning_fault _ h w s _ _ _ _ ho hi (by simp [privThr, hm, fcPriv])
  · obtain ⟨ctl, e⟩ := priv r hr
    rw [e]
    exact issueMeaning_fault _ h w s _ _ _ _ ho hi (by simp [privThr, hm, fcIllegal])
  · rw [exec_scalarForm r hr]
    exact issueMeaning_fault _ h w s _ _ _ _ ho hi (by simp [scalarThr, hm, fcIllegal])
  · rw [exec_branchForm r hr]
    exact issueMeaning_fault _ h w s _ _ _ _ ho hi (by simp [branchThr, hm, fcIllegal])
  · rw [exec_scalarForm r hr]
    exact issueMeaning_unlisted _ h w s _ _ _ _ (listed r hr) ho hi

/-- Settles O36: a fault of a thread is its halt, and one of a controller goes to its handler or stops it. -/
theorem instructionFaults : Obligations.InstructionFaults := ⟨illegalAndPrivHalt, controllerFaults⟩

end Sys2Proof.Machine
end

section
/-! Loads of threads (R53, R191, R193, R214). -/
namespace Sys2Proof.Machine

/-! ### Rows that go on or wait -/

/-- A row that leaves its thread running: the thread goes on at the next word. -/
theorem issueMeaning_goesOn (op : Nat) (h : Hart) (w : W64) (s s' : State) (vregs : List Nat) (touch : List (Nat × Nat × Nat))
    (thr : Hart → State → Res) (ctl : Option Nat → State → Res) (ho : opcOf w = op) (hi : s.issues h w vregs)
    (hs : thr h s = .done s') {u : State} (hn : u.near s' h) {x : Thread} (hx : s'.of h = x) (hst : x.st = .ready) :
    ∃ t, issueMeaning op (.thread h) w s vregs touch thr ctl = .next t ∧ u.onlyThread t h ∧ Thread.wentOn x (t.of h) := by
  refine ⟨_, issueMeaning_done _ h w s s' _ _ _ _ ho hi hs, State.onlyThread_issuedBy hn, ?_⟩
  rw [State.issuedBy_of, hx]
  exact Thread.next_wentOn _ hst

/-- A row that leaves its thread waiting: the program counter is at the next word. -/
theorem issueMeaning_waits (op : Nat) (h : Hart) (w : W64) (s s' : State) (vregs : List Nat) (touch : List (Nat × Nat × Nat))
    (thr : Hart → State → Res) (ctl : Option Nat → State → Res) (ho : opcOf w = op) (hi : s.issues h w vregs)
    (hs : thr h s = .done s') {u : State} (hn : u.near s' h) {x : Thread} (hx : s'.of h = x) (hst : x.st ≠ .ready) :
    ∃ t, issueMeaning op (.thread h) w s vregs touch thr ctl = .next t ∧ u.onlyThread t h ∧
      Thread.waitsAs x (t.of h) x.st x.wait := by
  refine ⟨_, issueMeaning_done _ h w s s' _ _ _ _ ho hi hs, State.onlyThread_issuedBy hn, ?_⟩
  rw [State.issuedBy_of, hx]
  exact Thread.next_waitsAs _ hst

theorem State.of_updThr (s : State) (h : Hart) (f : Thread → Thread) : (s.updThr h.key h.thr.val f).of h = f (s.of h) :=
  s.thr_updThr_same _ _ _

theorem State.of_count (s : State) (h : Hart) (k n v : Nat) : (s.count k n v).of h = s.of h := s.thr_count _ _ _ _ _

/-! ### Loads -/

/-- A thread that waits for a load. -/
def Thread.awaits (x : Thread) (l : PendLoad) : Thread := { x with st := .waitMem, wait := .load, load := some l }

/-- The load that a form makes of its word and thread. -/
def pendOf (r : Claims.LoadForm) (w : W64) (t : Thread) : PendLoad :=
  { PendLoad.init with
    reg := BitVec.ofNat 5 (fD w), vec := r.vec, bytes := r.bytes w t, sext := !r.vec && xBit w 0, va := r.addr w t }

/-- The row of a load form is the issue of one load. -/
theorem exec_loadForm : ∀ r ∈ Claims.loadForms, ∀ (h : Hart) (w : W64) (s : State), (r.vec = true → fD w < 16) →
    ∃ touch thr ctl, exec (r.ins (.thread h) w) s =
      issueMeaning r.op (.thread h) w s (Claims.vecOf r.vec (fD w)) touch thr ctl ∧
      ∀ s, thr h s = loadSem r.mask r.align w (pendOf r w) h s := by
  have addr (a w : W64) : BitVec.ofNat 64 (addrOf a w) = a + immS w := BitVec.ofNat_toNat .. |>.trans (BitVec.setWidth_eq _)
  simp only [Claims.loadForms, List.forall_mem_cons, List.not_mem_nil, false_implies]
  refine ⟨fun h w s _ => ⟨_, _, _, rfl, fun s => ?_⟩, fun h w s _ => ⟨_, _, _, rfl, fun s => ?_⟩,
    fun h w s _ => ⟨_, _, _, rfl, fun s => ?_⟩, fun h w s _ => ⟨_, _, _, rfl, fun s => ?_⟩,
    fun h w s hd => ⟨_, _, _, rfl, fun s => ?_⟩, fun h w s hd => ⟨_, _, _, rfl, fun s => ?_⟩, fun _ => trivial⟩
  case refine_5 =>
    have hv : vOk [fD w] = true := by simpa [vOk] using hd trivial
    have hl : vldLoad w = pendOf ⟨.vld, 0x60, mO + mD + mA + mI, true, fun _ _ => 256, fun w x => x.g (fA w) + immS w, 1⟩ w :=
      funext fun t => by simp only [vldLoad, pendOf, addr]; rfl
    simp only [hv, hl]
    rfl
  case refine_6 =>
    have hv : vOk [fD w] = true := by simpa [vOk] using hd trivial
    simp only [hv]
    rfl
  all_goals
    simp only [scalarLoad, addr]
    rfl

/-- A load whose bytes translate and stand still leaves its thread waiting for them. -/
theorem loadSem_waits {mask align : Nat} {w : W64} {ld : Thread → PendLoad} {h : Hart} {s : State}
    (hm : unusedSet w mask = false)
    (hf : s.accessFault h.key (ld (s.of h)).va.toNat (ld (s.of h)).bytes align false = none)
    (hmv : s.mvRange h.key (ld (s.of h)).va.toNat (ld (s.of h)).bytes = false) :
    ∃ due n v, loadSem mask align w ld h s = .done ((s.updThr h.key h.thr.val (fun x =>
      x.awaits { ld (s.of h) with due := due })).count h.key n v) := by
  unfold State.of at hf hmv
  exact ⟨_, _, _, by simp only [loadSem, hm, hf, hmv]; rfl⟩

theorem loadSem_faults {mask align code va : Nat} {w : W64} {ld : Thread → PendLoad} {h : Hart} {s : State}
    (hm : unusedSet w mask = false)
    (hf : s.accessFault h.key (ld (s.of h)).va.toNat (ld (s.of h)).bytes align false = some (code, va)) :
    loadSem mask align w ld h s = .fault code va := by
  unfold State.of at hf
  simp [loadSem, hm, hf]

/-- Settles O1: the row of a load records it in the waiting thread, or faults. -/
theorem loadsWait : Obligations.LoadsWait := by
  intro r hr h w s ho hm hd hi
  obtain ⟨touch, thr, ctl, hex, hthr⟩ := exec_loadForm r hr h w s hd
  rw [hex]
  refine ⟨fun hf hmv _ => ?_, fun code va hf => ?_⟩
  · obtain ⟨due, n, v, hs⟩ := loadSem_waits (ld := pendOf r w) hm hf hmv
    obtain ⟨t, ht, honly, hsame, hw⟩ := issueMeaning_waits _ h w s _ _ _ _ _ ho hi ((hthr s).trans hs)
      (State.near_trans (s.near_updThr h _) (State.near_count _ h _ _)) ((State.of_count _ _ _ _ _).trans (s.of_updThr h _)) nofun
    refine ⟨t, ht, honly, ⟨?_, hw⟩, ?_⟩
    · unfold Thread.sameBut at *
      rw [hsame]
      rfl
    · rw [hsame]
      rfl
  · exact issueMeaning_fault _ h w s _ _ _ _ ho hi ((hthr s).trans (loadSem_faults hm hf))

end Sys2Proof.Machine
end

section
/-! Halts that Dailies records in memory: three statements hold only where it does not spill (R283, R842, R850). -/
namespace Sys2Proof.Machine

/-! ### The states of the counterexamples -/

/-- Dailies of cluster 0 records the FAULT records of Table DBG-5, and spills them from an address on (R850). -/
def spillTrace (base : BitVec 40) : Trace :=
  { Trace.init with cfg := 0x900#32, state := 1#2, spillBase := base, spillSize := 64#32 }

/-- Partition 0 owns cluster 0; its page 2, which may be executed, lies in core store 0, where thread 0 is as given. Dailies spills
from an address on. -/
def spillState (x : Thread) (base : BitVec 40) : State :=
  { State.reset with
    pins := { Pins.init with resetN := true, clocksOn := true }
    boot := { Boot.init with running := true }
    dev := { Dev.init with own := [(0, { clusters := 1#8, stks := 0#8, conf := false, v := true })] }
    clusters := [(0, { Cluster.init with powered := true })]
    parts := [(0, { Part.init with lmap := [(0, 1)], ptes := [(2, mkPte false false false false true false 0 1)] })]
    cores := [(0, { Core.init with threads := [(0, x)] })]
    dbg := { State.reset.dbg with traces := [(0, spillTrace base)] } }

/-- Its number. -/
def spillHart : Hart := ⟨0, 0, 0⟩

/-- What an outcome leaves in memory. -/
def Out.mem (o : Out) : Option Memory := match o with
  | .next t => some t.mem
  | _ => none

/-- The store words that an outcome leaves with an error. -/
def Out.badWords (o : Out) : Option (List Nat) := match o with
  | .next t => some t.badWords
  | _ => none

/-! ### Loads -/

/-- A load of four bytes of page 2. -/
def spillLoad : PendLoad := { PendLoad.init with reg := 3#5, bytes := 4, va := 0x20000#64 }

/-- Its thread waits for it; Dailies spills into cluster store 0. -/
def spillLoading : State :=
  spillState { Thread.init with st := .waitMem, wait := .load, load := some spillLoad } 0xF000000000#40

/-- The record of the halt stands in memory. -/
theorem spillLoading_mem : Out.mem (exec (.loadReturn (.thread spillHart) (.failed 0)) spillLoading) ≠ some spillLoading.mem := by
  decide

/-- Refutes O35: a load that finds an uncorrectable error halts its thread, and the FAULT record of the halt, which Dailies spills,
changes memory. -/
theorem not_loadsReturn : ¬ Obligations.LoadsReturn := by
  rintro ⟨h, -⟩
  obtain ⟨herr, -⟩ := h spillHart spillLoading spillLoad (by decide) (by decide) (by decide)
    (by decide) ⟨by decide, by decide⟩ (by decide)
  obtain ⟨-, hfail⟩ := herr 0 0xF100010000 (by decide) (by decide) (by decide) (by decide)
  obtain ⟨t, ht, -, -, -, -, hmem, -⟩ := hfail 0 0x10000 (.inr (by decide))
  exact spillLoading_mem (by rw [ht, ← hmem]; rfl)

/-! ### Stores -/

/-- ST8 of register 2 at register 1. -/
def spillWord : W64 := 0x0000000000082024#64

/-- A thread READY at it, with the address of page 2 in register 1; Dailies spills into cluster store 0. -/
def spillStoring : State :=
  spillState { Thread.init with
    st := .ready, pc := 0x20080#64, fcur := some 0x20080#64, fwords := List.replicate 16 spillWord, gr := [(1, 0x20000#64)] } 0xF000000000#40

theorem spillStoring_mem : Out.mem (exec (.st8 (.thread spillHart) spillWord (.failed 0)) spillStoring) ≠ some spillStoring.mem := by
  decide +kernel

theorem spillStoring_issues : spillStoring.issues spillHart spillWord [] :=
  ⟨by decide, by decide, fun n _ => (by decide : bitAt Bp.init.ctl.toNat 0 = false)⟩

/-- Refutes O37: a store that finds an uncorrectable error in a word which it covers in part halts its thread, and the FAULT record of
the halt, which Dailies spills, changes memory. -/
theorem not_storesAndLoads : ¬ Obligations.StoresAndLoads := by
  rintro ⟨h, -⟩
  obtain ⟨-, -, herr, -⟩ := h _ (List.mem_of_getElem? (i := 0) rfl) spillHart spillWord spillStoring (by decide) (by decide) nofun
    spillStoring_issues
  obtain ⟨t, ht, -, -, -, -, hmem⟩ := herr (.failed 0) (by decide) (by decide) (by decide)
  exact spillStoring_mem (by rw [ht, ← hmem]; rfl)

/-! ### Fetches -/

/-- A thread waits for the block at page 2; Dailies spills over the block's first word. -/
def spillFetching : State :=
  spillState { Thread.init with st := .waitMem, wait := .fetch, pc := 0x20000#64, freq := [0x20000#64] } 0xF100010000#40

theorem spillFetching_badWords :
    Out.badWords (exec (.fetchBlockArrive spillHart (.failed 0)) spillFetching) = some [] := by
  decide

/-- Refutes O43: a fetch that finds an uncorrectable error halts its thread, and the FAULT record of the halt, which Dailies spills
over the word, clears the error (R452). -/
theorem not_threadsAndFetch : ¬ Obligations.ThreadsAndFetch := by
  rintro ⟨-, h⟩
  obtain ⟨-, hfail, -⟩ := h spillHart spillFetching [] (by decide) (by decide) (by decide)
    (by decide) (by decide)
  obtain ⟨t, ht, -, -, -, hbad⟩ := hfail 0 0xF100010000 (by decide) (by decide) (by decide) (by decide)
    ⟨0, 0x10000, .inr (by decide)⟩
  have e : t.badWords = [] := Option.some.inj ((congrArg Out.badWords ht).symm.trans spillFetching_badWords)
  rw [e] at hbad
  exact absurd hbad (List.not_mem_nil)

end Sys2Proof.Machine
end

section
/-! Fences, barriers, and the system instructions (R205 to R209, R271 to R276, R286, R821). -/
namespace Sys2Proof.Machine

/-! ### Reads and writes of one register -/

/-- A row that writes one scalar register of its thread. -/
theorem issueMeaning_setG (op : Nat) (h : Hart) (w : W64) (s : State) (vregs : List Nat) (touch : List (Nat × Nat × Nat))
    (thr : Hart → State → Res) (ctl : Option Nat → State → Res) (n : Nat) (v : W64) (ho : opcOf w = op) (hi : s.issues h w vregs)
    (hs : thr h s = .done (s.updThr h.key h.thr.val (fun x => x.setG n v))) :
    ∃ t, issueMeaning op (.thread h) w s vregs touch thr ctl = .next t ∧ s.onlyThread t h ∧
      (∀ m, (t.of h).g m = if m ≠ 0 ∧ m = n then v else (s.of h).g m) ∧
      Thread.wentOn { s.of h with gr := (t.of h).gr } (t.of h) := by
  obtain ⟨hg, hgo, honly, -⟩ := State.issuedBy_setG hi.ready n v
  exact ⟨_, issueMeaning_done _ h w s _ _ _ _ _ ho hi hs, honly, hg, hgo⟩

/-- A row of a controller that writes one of its registers. -/
theorem issueMeaning_ctlSetG (op : Nat) (c : Option (Fin 8)) (w : W64) (s : State) (vregs : List Nat)
    (touch : List (Nat × Nat × Nat)) (thr : Hart → State → Res) (ctl : Option Nat → State → Res) (n : Nat) (v : W64)
    (ho : opcOf w = op) (hx : ctlOpc op = true) (hi : s.ctlIssues (ctlNum c) w)
    (hs : ctl (ctlNum c) s = .done (s.updCtl (ctlNum c) (fun x => x.setG n v))) :
    ∃ t, issueMeaning op (ctlAgent c) w s vregs touch thr ctl = .next t ∧ s.onlyCtl t (ctlNum c) ∧
      t.ctl (ctlNum c) = { s.ctl (ctlNum c) with gr := (t.ctl (ctlNum c)).gr, pc := (s.ctl (ctlNum c)).pc + 8#64 } ∧
      ∀ m, (t.ctl (ctlNum c)).g m = if m ≠ 0 ∧ m = n then v else (s.ctl (ctlNum c)).g m := by
  obtain ⟨hg, hctl, honly⟩ := s.ctlDone_setG (ctlNum c) n v
  exact ⟨_, issueMeaning_ctl _ c w s _ _ _ _ _ ho hx hi hs, honly, hctl, hg⟩

/-! ### The order of a thread's writes -/

theorem State.order_dirty (s : State) (k t : Nat) : ∀ d ∈ (s.order k t).dirty, d.2.2.1 ≠ gid k t ∨ d.2.2.2 ≠ 0 := by
  intro d hd
  simpa using (List.mem_filter.mp hd).2

/-- Nothing but cores differs from the state whose writes are ordered. -/
theorem State.order_frame {s t : State} {h : Hart} {k n : Nat} (ho : (s.order k n).onlyThread t h) :
    t = { s with cores := t.cores, dirty := t.dirty } ∧ t.dirty = (s.order k n).dirty := by
  obtain ⟨⟨hf, -⟩, -, -⟩ := ho
  exact ⟨by rw [hf]; rfl, by rw [hf]⟩

theorem State.order_of (s : State) (h : Hart) (k n : Nat) : (s.order k n).of h = s.of h := rfl

/-- IBAR is no branch that Dailies records. -/
theorem State.jumpedBy_refetch (s : State) (h : Hart) (w pc from_ : W64) (ho : opcOf w = 0x43) :
    s.jumpedBy h w pc from_ = (s.noteIssue h.key h.thr.val).updThr h.key h.thr.val (fun th => th.jump pc) := by
  simp [State.jumpedBy, ho]

/-! ### Fences -/

theorem syncOrders : Claims.SyncOrders := by
  intro h w s hi
  have hr := hi.ready
  refine ⟨fun ho hm => ?_, fun ho hm => ?_, fun ho hm => ?_, fun ho hm => ?_⟩
  · obtain ⟨t, ht, honly, hgo⟩ := issueMeaning_goesOn 0x40 h w s (s.order h.key h.thr.val) [] [] (fenceThr w) (fenceCtl w) ho hi
      (by simp [fenceThr, hm]) (State.near_refl _ h) (s.order_of h _ _) hr
    obtain ⟨hf, hd⟩ := State.order_frame honly
    exact ⟨t, ht, hgo, hd ▸ s.order_dirty _ _, hf⟩
  · obtain ⟨t, ht, honly, hw⟩ := issueMeaning_waits 0x41 h w s _ [] [] (barThr w) noCtl ho hi
      (by simp only [barThr, hm]; rfl) (State.near_updThr (s.order h.key h.thr.val) h _)
      (State.of_updThr _ h fun x => { x with st := .waitSync, wait := .barrier (xBit w 0) }) nofun
    obtain ⟨hf, hd⟩ := State.order_frame honly
    exact ⟨t, ht, hw, hd ▸ s.order_dirty _ _, hf⟩
  · by_cases he : s.hasEntries h.key h.thr.val = true
    · obtain ⟨t, ht, honly, hw⟩ := issueMeaning_waits 0x42 h w s _ [] [] (mwaitThr w) noCtl ho hi
        (by simp only [mwaitThr, hm, he]; rfl) (s.near_updThr h _)
        (State.of_updThr _ h fun x => { x with st := .waitMtx, wait := .mwait }) nofun
      exact ⟨t, ht, honly, .inl ⟨by simpa [State.hasEntries] using he, hw⟩⟩
    · obtain ⟨t, ht, honly, hgo⟩ := issueMeaning_goesOn 0x42 h w s s [] [] (mwaitThr w) noCtl ho hi
        (by simp [mwaitThr, hm, he]) (s.near_refl h) rfl hr
      exact ⟨t, ht, honly, .inr ⟨by simpa [State.hasEntries] using he, hgo⟩⟩
  · refine ⟨_, issueMeaning_jump 0x43 h w s _ [] [] (ibarThr w) (fenceCtl w) ho hi (by simp only [ibarThr, hm]; rfl), ?_, ?_, fun _ => ?_⟩
    · rw [State.jumpedBy_of]
      exact Thread.jump_jumpedTo _ _
    · rw [State.jumpedBy_refetch _ _ _ _ _ ho]
      exact s.order_dirty _ _
    · rw [State.jumpedBy_refetch _ _ _ _ _ ho]
      rfl

/-! ### Barriers -/

theorem Thread.wake_waits (x : Thread) (h : x.st = .waitSync) : Thread.sameBut x x.wake ∧ x.wake.pc = x.pc ∧
    (x.wake.st = .ready ∨ (x.wake.st = .waitMem ∧ x.wake.wait = .fetch)) := by
  have e : x.wake = x.goOn := by simp [Thread.wake, h]
  rw [e]
  exact ⟨x.goOn_sameBut, x.goOn_pc, x.goOn_st⟩

/-- Whether every thread of a core is FREE or waits at a barrier. -/
theorem State.allAtBarrier_iff (s : State) (k : Nat) (job : Bool) : s.allAtBarrier k job = true ↔
    ∀ e ∈ (s.core k).threads, e.2.st = .free ∨ (e.2.st = .waitSync ∧ e.2.wait = .barrier job) := by
  simp [State.allAtBarrier]

theorem execBarrierRelease_core (c : CoreId) (s : State) {j : Nat} (hl : s.live = true) (hj : (s.core c.key).job = some j) :
    execBarrierRelease c false s =
      .next (if s.allAtBarrier c.key false then s.releaseBarrier c.key false else s) := by
  simp [execBarrierRelease, whenLive_live _ _ hl, hj]

theorem barrierReleases : Claims.BarrierReleases := by
  intro c s j hl hj
  rw [show exec (.barrierRelease c false) s = execBarrierRelease c false s from rfl, execBarrierRelease_core c s hl hj]
  refine ⟨fun hall => ?_, fun ⟨e, he, hf, hb⟩ => ?_⟩
  · rw [if_pos ((s.allAtBarrier_iff _ _).mpr hall)]
    refine ⟨_, rfl, ⟨rfl, fun i hi => State.core_updCore_ne _ _ _ _ hi⟩, fun n x hx hw hst => ?_⟩
    obtain ⟨hsame, hpc, hgo⟩ := x.wake_waits hst
    refine ⟨x.wake, ?_, hsame, hgo, hpc⟩
    rw [State.releaseBarrier, State.core_updCore_same]
    exact List.mem_map.mpr ⟨(n, x), hx, by simp [hw]⟩
  · rw [if_neg fun hall => ((s.allAtBarrier_iff _ _).mp hall e he).elim hf hb]

/-- Settles O38: the rows of fences and waits, and the release of a barrier of a core. -/
theorem fencesAndBarriers : Obligations.FencesAndBarriers := ⟨syncOrders, barrierReleases⟩

end Sys2Proof.Machine
end

section
/-! The system and time instructions (R271 to R276, R286, R821). -/
namespace Sys2Proof.Machine

/-- A row that traps halts its thread with the immediate. -/
theorem issueMeaning_trap (op : Nat) (h : Hart) (w : W64) (s : State) (vregs : List Nat) (touch : List (Nat × Nat × Nat))
    (thr : Hart → State → Res) (ctl : Option Nat → State → Res) {imm : Nat} (ho : opcOf w = op) (hi : s.issues h w vregs)
    (hs : thr h s = .trap imm) :
    ∃ t, issueMeaning op (.thread h) w s vregs touch thr ctl = .next t ∧ s.haltsWith t h fcTrap 0 0 imm := by
  refine ⟨_, ?_, (s.faultNoted_refl h fcTrap).haltsWith 0 0 imm⟩
  rw [issueMeaning_legal _ _ _ _ _ _ _ _ ho hi.1]
  exact congrArg _ (State.issue_trap s h w vregs touch (thr h) imm hi.2.1 hi.2.2 hs)

/-- A thread at its END. -/
def Thread.atEnd (x : Thread) (st : ThState) : Thread := { x with ending := true, st := st, wait := .ending }

/-- A thread that CLAP makes wait for a count. -/
def Thread.clapped (x : Thread) (d n : Nat) : Thread := { x.setG d 0#64 with st := .waitSync, wait := .clap n }

theorem State.slatePart_eq (s : State) (w : W64) : s.slatePart w =
    BitVec.ofNat 64 (if xBit w 0 then s.time.slate.toNat % 2 ^ 32 else s.time.slate.toNat / 2 ^ 32) := by
  unfold State.slatePart
  split <;> rfl

theorem systemInstructions : Claims.SystemInstructions := by
  intro h w s hi
  have hr := hi.ready
  refine ⟨fun ho hm => ?_, fun ho hm => ?_, fun ho hm => ?_, fun ho hm hn => ?_, fun ho hm hn => ?_, fun ho hm => ?_,
    fun ho hm => ?_, fun ho hm => ?_, fun ho hm hc => ?_, fun ho hm hc => ?_⟩
  · exact issueMeaning_goesOn 0xD0 h w s s [] [] (nopThr w) (fenceCtl w) ho hi (by simp [nopThr, hm]) (s.near_refl h) rfl hr
  · have hst : (if s.hasEntries h.key h.thr.val then ThState.waitMtx else .waitMem) ≠ .ready := by split <;> nofun
    obtain ⟨t, ht, honly, hsame, -, ht', hwait⟩ := issueMeaning_waits 0xD1 h w s _ [] [] (endThr w) noCtl ho hi
      (by simp only [endThr, hm]; rfl) (State.near_updThr (s.order h.key h.thr.val) h _)
      (State.of_updThr _ h fun x => x.atEnd (if s.hasEntries h.key h.thr.val then .waitMtx else .waitMem)) hst
    obtain ⟨hf, hd⟩ := State.order_frame honly
    refine ⟨t, ht, hf, by rw [hsame]; rfl, hwait, ?_, by rw [hsame]; rfl, hd ▸ s.order_dirty _ _⟩
    rw [ht']
    by_cases he : s.hasEntries h.key h.thr.val = true
    · simpa [Thread.atEnd, he] using List.any_eq_true.mp he
    · simpa [Thread.atEnd, he] using mt List.any_eq_true.mpr he
  · exact issueMeaning_trap 0xD2 h w s [] [] (trapThr w) noCtl ho hi (by simp [trapThr, hm])
  · exact issueMeaning_setG 0xD3 h w s [] [] (clapThr w) noCtl _ _ ho hi (by simp only [clapThr, hm, Nat.not_lt.mpr hn]; rfl)
  · obtain ⟨t, ht, honly, hsame, hw⟩ := issueMeaning_waits 0xD3 h w s _ [] [] (clapThr w) noCtl ho hi
      (by simp only [clapThr, hm, hn]; rfl) (s.near_updThr h _)
      (State.of_updThr _ h fun x => x.clapped (fD w) ((s.of h).g (fA w)).toNat) nofun
    have hg : (t.of h).gr = ((s.of h).setG (fD w) 0#64).gr := hsame.gr
    refine ⟨t, ht, honly, fun n => ?_, ?_⟩
    · rw [hsame.g, show ((s.of h).clapped (fD w) ((s.of h).g (fA w)).toNat).g n = ((s.of h).setG (fD w) 0#64).g n from rfl,
        Thread.g_setG]
      by_cases hn : n = 0
      · simp [hn]
      · simp [hn]
    · rw [hg]
      rw [Thread.clapped, Thread.setG_eq] at hsame hw
      exact ⟨hsame, hw⟩
  · exact issueMeaning_setG 0xD4 h w s [] [] (rdslateThr w) (rdslateCtl w) _ _ ho hi (by simp only [rdslateThr, hm, State.slatePart_eq]; rfl)
  · exact issueMeaning_setG 0xD5 h w s [] [] (rdtswThr w) noCtl _ _ ho hi (by simp only [rdtswThr, hm]; rfl)
  · obtain ⟨t, ht, honly, hgo⟩ := issueMeaning_goesOn 0xD6 h w s _ [] [] (clrtswThr w) noCtl ho hi
      (by simp only [clrtswThr, hm]; rfl) (s.near_updThr h _)
      (State.of_updThr _ h fun x => { x with sticky := x.sticky &&& ~~~(BitVec.ofNat 8 (fImm w)) }) hr
    obtain ⟨hsame, hpc, hst⟩ := hgo
    have hk : (t.of h).sticky = (s.of h).sticky &&& ~~~(BitVec.ofNat 8 (fImm w)) := by rw [hsame]
    refine ⟨t, ht, honly, fun i => ?_, ?_, hpc, hst⟩
    · rw [hk, BitVec.getLsbD_and, BitVec.getLsbD_not, BitVec.getLsbD_ofNat]
      by_cases hb : i < 8
      · simp [hb]
      · simp [BitVec.getLsbD_of_ge _ _ (Nat.not_lt.mp hb)]
    · rw [hk]
      exact hsame
  · exact issueMeaning_setG 0xD7 h w s [] [] (rdcntThr w) noCtl _ _ ho hi (by simp only [rdcntThr, hm, hc]; rfl)
  · exact issueMeaning_fault 0xD7 h w s [] [] (rdcntThr w) noCtl ho hi (by simp [rdcntThr, hm, hc, fcIllegal])

theorem controllerSystem : Claims.ControllerSystem := by
  intro c w s hi
  have fence (hm : unusedSet w mO = false) : fenceCtl w (ctlNum c) s = .done s := by simp [fenceCtl, hm]
  refine ⟨?_, fun ho hm => ?_⟩
  · simp only [List.forall_mem_cons, List.not_mem_nil, false_implies]
    refine ⟨fun ho hm => ?_, fun ho hm => ?_, fun ho hm => ?_, fun _ => trivial⟩
    all_goals exact ⟨_, issueMeaning_ctl _ c w s s _ _ _ _ ho (by decide) hi (fence hm), s.onlyCtl_updCtl _ _, s.ctl_updCtl_same _ _⟩
  · obtain ⟨t, ht, honly, hctl, hg⟩ := issueMeaning_ctlSetG 0xD4 c w s [] [] (rdslateThr w) (rdslateCtl w) _ _ ho (by decide) hi
      (by simp only [rdslateCtl, hm, State.slatePart_eq]; rfl)
    exact ⟨t, ht, honly, by rw [hctl], hg⟩

/-- Settles O42: row by row, what the instruction writes and how its thread or controller goes on. -/
theorem systemRows : Obligations.SystemRows := ⟨systemInstructions, controllerSystem⟩

end Sys2Proof.Machine
end

section
/-! The controller-only instructions (R293, R294, R297 to R300). -/
namespace Sys2Proof.Machine

/-- A row of a controller that changes only the controller. -/
theorem issueMeaning_updCtl (op : Nat) (c : Option (Fin 8)) (w : W64) (s : State) (vregs : List Nat)
    (touch : List (Nat × Nat × Nat)) (thr : Hart → State → Res) (ctl : Option Nat → State → Res) (f : Ctl → Ctl)
    (ho : opcOf w = op) (hx : ctlOpc op = true) (hi : s.ctlIssues (ctlNum c) w)
    (hs : ctl (ctlNum c) s = .done (s.updCtl (ctlNum c) f)) :
    ∃ t, issueMeaning op (ctlAgent c) w s vregs touch thr ctl = .next t ∧ s.onlyCtl t (ctlNum c) ∧
      t.ctl (ctlNum c) = { f (s.ctl (ctlNum c)) with pc := (f (s.ctl (ctlNum c))).pc + 8#64 } := by
  obtain ⟨hctl, honly⟩ := s.ctlDone (ctlNum c) f
  exact ⟨_, issueMeaning_ctl _ c w s _ _ _ _ _ ho hx hi hs, honly, hctl⟩

theorem State.updCtl_congr {s : State} {c : Option Nat} {f g : Ctl → Ctl} (h : f (s.ctl c) = g (s.ctl c)) :
    s.updCtl c f = s.updCtl c g := by
  cases c with
  | none => exact congrArg (fun x => { s with devCtl := x }) h
  | some n => exact congrArg (fun x => { s with clusters := s.clusters.put n { s.cl n with ctl := x } }) h

@[simp] theorem State.part_updCtl (s : State) (c : Option Nat) (f : Ctl → Ctl) (p : Nat) : (s.updCtl c f).part p = s.part p := by
  cases c <;> rfl

/-! ### The own registers -/

/-- An aligned address below 0x100 is that of an own register (R294). -/
theorem csrAt_own (c : Option Nat) {a : Nat} (h4 : a % 4 = 0) (h : a < 0x100) : csrAt c a = .own a := by
  simp [csrAt, h4, h]

theorem csrrCtl_own {w : W64} {c : Option Nat} {s : State} (hm : unusedSet w (mO + mD + mA + mI) = false)
    (h4 : addrOf ((s.ctl c).g (fA w)) w % 4 = 0) (h : addrOf ((s.ctl c).g (fA w)) w < 0x100) :
    csrrCtl w c s =
      .done (s.updCtl c (fun t => t.setG (fD w) (((s.ctl c).ownRd (addrOf ((s.ctl c).g (fA w)) w)).setWidth 64))) := by
  simp only [csrrCtl, hm, csrAt_own c h4 h]
  exact congrArg Res.done (State.updCtl_congr rfl)

theorem csrwCtl_own {w : W64} {c : Option Nat} {s : State} (hm : unusedSet w (mO + mB + mA + mI) = false)
    (h4 : addrOf ((s.ctl c).g (fA w)) w % 4 = 0) (h : addrOf ((s.ctl c).g (fA w)) w < 0x100) :
    csrwCtl w c s =
      .done (s.updCtl c (fun t => t.ownWr (addrOf ((s.ctl c).g (fA w)) w) (((s.ctl c).g (fB w)).setWidth 32))) := by
  simp only [csrwCtl, hm, csrAt_own c h4 h]
  rfl

/-- The high word of a 40-bit register, read as 32 bits. -/
theorem highWord (x : BitVec 40) :
    (BitVec.ofNat 32 (x.toNat / 2 ^ 32)).setWidth 64 = BitVec.ofNat 64 (x.toNat / 2 ^ 32) := by
  have := x.isLt
  apply BitVec.eq_of_toNat_eq
  simp only [BitVec.toNat_setWidth, BitVec.toNat_ofNat]
  omega

theorem lowByte (x : W64) : (x.setWidth 32).setWidth 8 = x.setWidth 8 := by
  apply BitVec.eq_of_toNat_eq
  simp only [BitVec.toNat_setWidth]
  omega

/-- A byte register, read as 32 bits. -/
theorem byteWord (x : BitVec 8) : (x.setWidth 32).setWidth 64 = x.setWidth 64 := by
  have := x.isLt
  apply BitVec.eq_of_toNat_eq
  simp only [BitVec.toNat_setWidth]
  omega

/-- A write of the low word of a 40-bit register leaves its high word. -/
theorem lowWord_written (x : BitVec 40) (v : W32) :
    ((x.extractLsb' 32 8 ++ v : BitVec 40).setWidth 32) = v ∧
      (x.extractLsb' 32 8 ++ v : BitVec 40).toNat / 2 ^ 32 = x.toNat / 2 ^ 32 := by
  have hx := x.isLt
  have hv := v.isLt
  have e : (x.extractLsb' 32 8 ++ v : BitVec 40).toNat = x.toNat / 2 ^ 32 * 2 ^ 32 + v.toNat := by
    rw [BitVec.toNat_append, ← Nat.shiftLeft_add_eq_or_of_lt hv, BitVec.extractLsb'_toNat, Nat.shiftRight_eq_div_pow,
      Nat.shiftLeft_eq]
    omega
  refine ⟨BitVec.eq_of_toNat_eq ?_, ?_⟩
  · rw [BitVec.toNat_setWidth, e]
    omega
  · rw [e]
    omega

/-! ### The mailbox -/

/-- Without an error nothing is met. -/
theorem State.meet_none (s : State) (k : Option Nat) (a : Nat) : s.meet k a .none = s := by
  unfold State.meet
  split <;> rfl

theorem State.ctlMeet_none (s : State) (a : Nat) (l : List (Nat × Nat)) : s.ctlMeet a l .none = s := by
  unfold State.ctlMeet State.meetA
  split
  · rfl
  · split
    · exact s.meet_none _ _
    · rfl

theorem mboxPostCtl_posts {w : W64} {n : Nat} {s : State} (hm : unusedSet w (mO + mA) = false)
    (hf : ∀ i, i < 64 → s.ctlFaultAt (some n) (((s.ctl (some n)).g (fA w)).toNat + i) 1 = none)
    (hw : s.ctlWaits ((s.ctl (some n)).g (fA w)).toNat 64 = false) (hb : s.ctlBad ((s.ctl (some n)).g (fA w)).toNat 64 = false) :
    mboxPostCtl w .none (some n) s = .done (s.mboxPut n (s.ctlRead (some n) ((s.ctl (some n)).g (fA w)).toNat 64)) := by
  have hn : (upTo 64).findSome? (fun i => s.ctlFaultAt (some n) (((s.ctl (some n)).g (fA w)).toNat + i) 1) = none :=
    List.findSome?_eq_none_iff.mpr fun i hi => hf i (by simpa [upTo] using hi)
  simp only [mboxPostCtl, hm, hn, hw, State.ctlMeet_none, hb]
  rfl

theorem State.mboxPut_room {s : State} {n p : Nat} (l : List Byte) (ho : s.ownerCl n = some p) (h : (s.part p).mbox.length < 16) :
    s.mboxPut n l = s.updPart p (fun x => { x with mbox := x.mbox ++ [(n, l)] }) := by
  simp [State.mboxPut, ho, Nat.not_le.mpr h]

theorem State.mboxPut_full {s : State} {n p : Nat} (l : List Byte) (ho : s.ownerCl n = some p) (h : 16 ≤ (s.part p).mbox.length) :
    s.mboxPut n l = s.updCtl (some n) (fun t => { t with mboxWait := some l }) := by
  simp [State.mboxPut, ho, h]

/-- Settles O2: each row changes its controller alone, or posts to the mailbox. -/
theorem controllerOnly : Obligations.ControllerOnly := by
  intro c w s hi
  refine ⟨fun ho hm h4 ha => ?_, fun ho hm ha => ?_, fun ho hm ha => ?_, fun ho hm e rest he => ?_, fun ho hm he => ?_,
    fun ho hm => ?_, fun ho hm n p hn hp hf hw hb => ?_⟩
  · obtain ⟨t, ht, honly, hctl, hg⟩ := issueMeaning_ctlSetG 0xE0 c w s [] [] (privThr (mO + mD + mA + mI) w) (csrrCtl w) _ _ ho
      (by decide) hi (csrrCtl_own hm h4 ha)
    refine ⟨t, ht, honly, by rw [hctl], fun n hn => (hg n).trans (if_neg fun x => hn x.2), fun hd => ?_⟩
    have hv := (hg (fD w)).trans (if_pos ⟨hd, rfl⟩)
    rw [hv]
    refine ⟨fun h => ?_, fun h => ?_, fun h => ?_, fun h => ?_, fun h => ?_⟩
    all_goals rw [addrOf, h]
    · rfl
    · exact highWord _
    · exact byteWord _
    · rfl
    · exact highWord _
  · obtain ⟨t, ht, honly, hctl⟩ := issueMeaning_updCtl 0xE1 c w s [] [] (privThr (mO + mB + mA + mI) w) (csrwCtl w) _ ho
      (by decide) hi (csrwCtl_own hm (by rw [addrOf, ha]) (by rw [addrOf, ha]; decide))
    refine ⟨t, ht, honly, ?_⟩
    rw [hctl, addrOf, ha]
    exact congrArg (fun v => { s.ctl (ctlNum c) with ecause := v, pc := (s.ctl (ctlNum c)).pc + 8#64 }) (lowByte _)
  · obtain ⟨t, ht, honly, hctl⟩ := issueMeaning_updCtl 0xE1 c w s [] [] (privThr (mO + mB + mA + mI) w) (csrwCtl w) _ ho
      (by decide) hi (csrwCtl_own hm (by rw [addrOf, ha]) (by rw [addrOf, ha]; decide))
    refine ⟨t, ht, honly, ?_⟩
    rw [hctl, addrOf, ha]
    exact lowWord_written _ _
  · obtain ⟨t, ht, honly, hctl⟩ := issueMeaning_updCtl 0xE2 c w s [] [] (privThr (mO + mD) w) (wfeCtl w) _ ho (by decide) hi
      (by simp only [wfeCtl, hm, he]; rfl)
    refine ⟨t, ht, honly, by rw [hctl], fun n => ?_, by rw [hctl, Ctl.setG_eq]⟩
    rw [hctl, ← Ctl.g_setG]
    rfl
  · exact ⟨_, issueMeaning_ctlBlock 0xE2 c w s _ [] [] (privThr (mO + mD) w) (wfeCtl w) ho hi (by simp only [wfeCtl, hm, he]; rfl),
      s.onlyCtl_updCtl _ _, s.ctl_updCtl_same _ _⟩
  · refine ⟨_, issueMeaning_ctlJump 0xE3 c w s _ [] [] (privThr mO w) (eretCtl w) ho (by decide) hi (by simp only [eretCtl, hm]; rfl),
      (s.onlyCtl_updCtl _ _).trans (State.onlyCtl_updCtl _ _ _), ?_⟩
    simp
  · subst hn
    refine ⟨_, issueMeaning_ctl 0xE4 (some n) w s _ [] [] (privThr (mO + mA) w) (mboxPostCtl w .none) ho (by decide) hi
      (mboxPostCtl_posts hm hf hw hb), ?_, fun h => ?_, fun h => ?_⟩
    · rw [State.ctl_updCtl_same]
      by_cases h : (s.part p).mbox.length < 16
      · rw [State.mboxPut_room _ hp h]
        rfl
      · rw [State.mboxPut_full _ hp (Nat.not_lt.mp h)]
        simp [ctlNum]
    · rw [State.mboxPut_room _ hp h, State.part_updCtl, State.part_updPart_same]
      rfl
    · rw [State.mboxPut_full _ hp h.ge]
      simp [ctlNum]

end Sys2Proof.Machine
end

section
/-! Numbers by their digits, and the lanes of a vector register. -/
namespace Sys2Proof.Machine

/-! ### Sums of digits -/

/-- The number whose digit i in base b is d i, of n digits. -/
def ofDigits (b : Nat) (d : Nat → Nat) (n : Nat) : Nat := (upTo n).foldl (fun acc i => acc + d i * b ^ i) 0

theorem ofDigits_succ (b : Nat) (d : Nat → Nat) (n : Nat) : ofDigits b d (n + 1) = ofDigits b d n + d n * b ^ n := by
  simp [ofDigits, upTo, List.range_succ]

theorem ofDigits_congr {b n : Nat} {d e : Nat → Nat} (h : ∀ i, i < n → d i = e i) : ofDigits b d n = ofDigits b e n := by
  induction n with
  | zero => rfl
  | succ n ih => rw [ofDigits_succ, ofDigits_succ, ih fun i hi => h i (by omega), h n (by omega)]

theorem ofDigits_lt {b n : Nat} {d : Nat → Nat} (h : ∀ i, d i < b) : ofDigits b d n < b ^ n := by
  induction n with
  | zero => simp [ofDigits, upTo]
  | succ n ih =>
    rw [ofDigits_succ]
    have hn := h n
    calc ofDigits b d n + d n * b ^ n < b ^ n + d n * b ^ n := by omega
      _ = (d n + 1) * b ^ n := by ring
      _ ≤ b * b ^ n := Nat.mul_le_mul_right _ hn
      _ = b ^ (n + 1) := by ring

/-- Digit k of the number. -/
theorem ofDigits_digit {b n : Nat} {d : Nat → Nat} (h : ∀ i, d i < b) (k : Nat) :
    ofDigits b d n / b ^ k % b = if k < n then d k else 0 := by
  have hb : 0 < b := Nat.lt_of_le_of_lt (Nat.zero_le _) (h 0)
  induction n with
  | zero => simp [ofDigits, upTo]
  | succ n ih =>
    rw [ofDigits_succ]
    have hlt := ofDigits_lt (n := n) h
    have hp : 0 < b ^ k := Nat.pow_pos hb
    rcases Nat.lt_trichotomy k n with hk | rfl | hk
    · have e : d n * b ^ n = (d n * b ^ (n - k - 1) * b) * b ^ k := by
        rw [Nat.mul_assoc _ b, ← Nat.pow_succ', Nat.mul_assoc, ← Nat.pow_add]
        congr 2
        omega
      rw [e, Nat.add_mul_div_right _ _ hp, Nat.add_mul_mod_self_right, ih, if_pos hk, if_pos (by omega)]
    · rw [Nat.add_mul_div_right _ _ hp, Nat.div_eq_of_lt hlt, Nat.zero_add, Nat.mod_eq_of_lt (h k), if_pos (by omega)]
    · have : ofDigits b d n + d n * b ^ n < b ^ k := by
        rw [← ofDigits_succ]
        exact (ofDigits_lt h).trans_le (Nat.pow_le_pow_right hb hk)
      rw [Nat.div_eq_of_lt this, Nat.zero_mod, if_neg (by omega)]

/-- The m digits from digit k on. -/
theorem ofDigits_block {b n : Nat} {d : Nat → Nat} (h : ∀ i, d i < b) (k m : Nat) :
    ofDigits b d n / b ^ k % b ^ m = ofDigits b (fun j => if k + j < n then d (k + j) else 0) m := by
  induction m with
  | zero => simp [ofDigits, upTo, Nat.mod_one]
  | succ m ih =>
    rw [Nat.mod_pow_succ, ih, ofDigits_succ, Nat.div_div_eq_div_mul, ← Nat.pow_add, ofDigits_digit h]
    ring

/-! ### Lanes -/

theorem ofLanes_eq (f : Nat → W32) : ofLanes f = BitVec.ofNat 2048 (ofDigits (2 ^ 32) (fun i => (f i).toNat) 64) := by
  simp only [ofLanes, ofDigits, Nat.shiftLeft_eq, Nat.pow_mul]

theorem lane_toNat (v : VReg) (i : Nat) : (lane v i).toNat = v.toNat / (2 ^ 32) ^ i % 2 ^ 32 := by
  rw [lane, BitVec.toNat_ofNat, Nat.shiftRight_eq_div_pow, Nat.pow_mul]

theorem lane_ofLanes (f : Nat → W32) {i : Nat} (h : i < 64) : lane (ofLanes f) i = f i := by
  have hf : ∀ i, (f i).toNat < 2 ^ 32 := fun i => (f i).isLt
  apply BitVec.eq_of_toNat_eq
  have hlt : ofDigits (2 ^ 32) (fun i => (f i).toNat) 64 < 2 ^ 2048 := by
    rw [show 2048 = 32 * 64 from rfl, Nat.pow_mul]
    exact ofDigits_lt hf
  rw [lane_toNat, ofLanes_eq, BitVec.toNat_ofNat, Nat.mod_eq_of_lt hlt, ofDigits_digit hf, if_pos h]

theorem lane_eq (v : VReg) (i : Nat) : lane v i = v.extractLsb' (32 * i) 32 := rfl

theorem lane_and (a b : VReg) (i : Nat) : lane (a &&& b) i = lane a i &&& lane b i := by simp [lane_eq, BitVec.extractLsb'_and]
theorem lane_or (a b : VReg) (i : Nat) : lane (a ||| b) i = lane a i ||| lane b i := by simp [lane_eq, BitVec.extractLsb'_or]
theorem lane_xor (a b : VReg) (i : Nat) : lane (a ^^^ b) i = lane a i ^^^ lane b i := by simp [lane_eq, BitVec.extractLsb'_xor]

/-- A lane of packed elements of n bits: the low bits of 32 / n lanes, from bit 0 up. -/
theorem lane_packed {n m : Nat} (hn : n * m = 32) (h64 : n * 64 ≤ 2048) (x : Nat → W32) (i : Nat) :
    lane (BitVec.ofNat 2048 ((upTo 64).foldl (fun acc i => acc + ((x i).toNat % 2 ^ n) <<< (n * i)) 0)) i =
      BitVec.ofNat 32 ((upTo m).foldl (fun acc j =>
        acc + ((if m * i + j < 64 then (x (m * i + j)).toNat else 0) % 2 ^ n) * 2 ^ (n * j)) 0) := by
  have hd : ∀ i, (x i).toNat % 2 ^ n < 2 ^ n := fun i => Nat.mod_lt _ (Nat.two_pow_pos n)
  have hlt : ofDigits (2 ^ n) (fun i => (x i).toNat % 2 ^ n) 64 < 2 ^ 2048 :=
    (ofDigits_lt hd).trans_le (by rw [← Nat.pow_mul]; gcongr; decide)
  have hp : 2 ^ 32 = (2 ^ n) ^ m := by rw [← Nat.pow_mul, hn]
  apply BitVec.eq_of_toNat_eq
  rw [lane_toNat, BitVec.toNat_ofNat, BitVec.toNat_ofNat]
  simp only [Nat.shiftLeft_eq, Nat.pow_mul 2 n]
  change ofDigits (2 ^ n) (fun i => (x i).toNat % 2 ^ n) 64 % 2 ^ 2048 / (2 ^ 32) ^ i % 2 ^ 32 = ofDigits (2 ^ n) _ m % 2 ^ 32
  rw [Nat.mod_eq_of_lt hlt, hp, ← Nat.pow_mul, ofDigits_block hd, Nat.mod_eq_of_lt (ofDigits_lt fun j => Nat.mod_lt _ (Nat.two_pow_pos n))]
  refine ofDigits_congr fun j _ => ?_
  split
  · rfl
  · rw [Nat.zero_mod]

end Sys2Proof.Machine
end

section
/-! The vector instructions (R180 to R183, R214 to R222, R276). -/
namespace Sys2Proof.Machine

/-! ### Rows that change one thread -/

/-- A vector row whose encoding is legal changes its thread alone, beside counters. -/
theorem vecRow_done (op mask ops vfn : Nat) (vregs : List Nat) (f : Thread → Thread) (h : Hart) (w : W64) (s : State)
    (ho : opcOf w = op) (hm : unusedSet w mask = false) (hv : ∀ n ∈ vregs, n < 16) (hi : s.issues h w vregs)
    (hf : (f (s.of h)).st = (s.of h).st) :
    ∃ t, vecRow op mask vregs true ops vfn f (.thread h) w s = .next t ∧ s.onlyThread t h ∧ Thread.wentOn (f (s.of h)) (t.of h) := by
  have hok : vOk vregs = true := by simpa [vOk] using hv
  refine issueMeaning_goesOn op h w s _ vregs [] _ noCtl ho hi (by simp only [vecSem, hm, hok]; rfl)
    ((State.near_trans (State.near_trans (s.near_updThr h f) (State.near_count _ h _ _)) (State.near_count _ h _ _))) ?_
    (hf.trans hi.ready)
  rw [State.of_count, State.of_count, State.of_updThr]

/-- A row whose encoding is legal. -/
theorem vecRow_legal {op mask ops vfn : Nat} {vregs : List Nat} {f : Thread → Thread} {a : Agent} {w : W64} {s : State}
    {legal : Bool} (hl : legal = true) : vecRow op mask vregs legal ops vfn f a w s = vecRow op mask vregs true ops vfn f a w s := by
  rw [hl]

theorem Thread.sameBut.vr {x y : Thread} (h : Thread.sameBut x y) : y.vr = x.vr := by rw [h]
theorem Thread.sameBut.sticky {x y : Thread} (h : Thread.sameBut x y) : y.sticky = x.sticky := by rw [h]

theorem Thread.setG_vr (x : Thread) (n : Nat) (v : W64) : (x.setG n v).vr = x.vr := by rw [Thread.setG_eq]
theorem Thread.setG_sticky (x : Thread) (n : Nat) (v : W64) : (x.setG n v).sticky = x.sticky := by rw [Thread.setG_eq]

/-! ### Lane-wise forms -/

/-- What a lane-wise form makes of a thread: the lanes of one register, and the sticky bits. -/
def laneResult (r : Claims.LaneForm) (w : W64) (x y : Thread) : Prop :=
  ∃ v, y = { x with vr := x.vr.put (fD w) v, sticky := x.sticky ||| orFlags (r.flags w x) } ∧
    ∀ i, i < 64 → lane v i = r.lane w x i

/-- A form's row runs a function whose result is the form's. -/
def laneRow (r : Claims.LaneForm) : Prop :=
  ∀ (h : Hart) (w : W64) (s : State), r.ok w = true → ∃ ops vfn f,
    exec (r.ins (.thread h) w) s = vecRow r.op r.mask (r.regs w) true ops vfn f (.thread h) w s ∧ ∀ x, laneResult r w x (f x)

theorem orFlags_zero : orFlags (fun _ => 0#8) = 0#8 := by decide

theorem laneResult_laneOp (r : Claims.LaneForm) (w : W64) (x : Thread) (f : Nat → W32) (fl : Nat → BitVec 8)
    (hl : ∀ i, i < 64 → f i = r.lane w x i) (hf : fl = r.flags w x) : laneResult r w x (laneOp (fD w) f fl x) :=
  ⟨ofLanes f, by rw [← hf]; rfl, fun i hi => (lane_ofLanes f hi).trans (hl i hi)⟩

theorem laneResult_setV (r : Claims.LaneForm) (w : W64) (x : Thread) (v : VReg)
    (hl : ∀ i, i < 64 → lane v i = r.lane w x i) (hf : r.flags w x = fun _ => 0#8) : laneResult r w x (x.setV (fD w) v) :=
  ⟨v, by rw [hf, orFlags_zero, BitVec.or_zero]; rfl, hl⟩

/-- A two-source arithmetic row. -/
theorem laneRow_arith (ins : Agent → W64 → Instr) (op : Nat) (ff fi gi : W32 → W32 → W32) (hg : fi = gi)
    (h : ∀ a w s, exec (ins a w) s = arithRow op ff fi a w s) : laneRow (Claims.arithForm ins op ff gi) := by
  subst hg
  refine fun hh w s _ => ⟨_, _, _, h _ w s, fun x => ?_⟩
  unfold arith2
  cases hb : xBit w 0
  · exact laneResult_laneOp _ _ _ _ _ (fun i _ => by simp only [Claims.arithForm, hb]; rfl) (by simp only [Claims.arithForm, hb]; rfl)
  · exact laneResult_laneOp _ _ _ _ _ (fun i _ => by simp only [Claims.arithForm, hb]; rfl) (by simp only [Claims.arithForm, hb]; rfl)

/-- The row of VFMA. -/
theorem laneRow_vfma : laneRow ⟨.vfma, 0x53, mO + mD + mA + mB + mC + mX0, fun w => [fD w, fA w, fB w, fC w], fun _ => true,
    fun w t i => if xBit w 0 then Claims.lA w t i * Claims.lB w t i + Claims.lC w t i
      else fmaW (Claims.lA w t i) (Claims.lB w t i) (Claims.lC w t i),
    fun w t i => if xBit w 0 then 0#8
      else f32Flags [Claims.lA w t i, Claims.lB w t i, Claims.lC w t i]
        (fmaW (Claims.lA w t i) (Claims.lB w t i) (Claims.lC w t i))⟩ := by
  refine fun hh w s _ => ⟨_, _, _, rfl, fun x => ?_⟩
  unfold vfmaT
  cases hb : xBit w 0
  · exact laneResult_laneOp _ _ _ _ _ (fun i _ => by simp only [hb]; rfl) (by simp only [hb]; rfl)
  · exact laneResult_laneOp _ _ _ _ _ (fun i _ => by simp only [hb]; rfl) (by simp only [hb]; rfl)

/-- The shift of a lane by its kind, which is not 3. -/
theorem shLane_eq {k : Nat} (hk : (k != 3) = true) (n : Nat) (x : W32) :
    shLane k n x = if k = 0 then x <<< n else if k = 1 then x >>> n else x.sshiftRight n := by
  unfold shLane
  split <;> simp_all

theorem lane_vpack {n : Nat} (hn : (n == 4 || n == 8 || n == 16) = true) (x : Nat → W32) (i : Nat) :
    lane (BitVec.ofNat 2048 ((upTo 64).foldl (fun acc i => acc + ((x i).toNat % 2 ^ n) <<< (n * i)) 0)) i =
      BitVec.ofNat 32 ((upTo (32 / n)).foldl (fun acc j =>
        acc + ((if 32 / n * i + j < 64 then (x (32 / n * i + j)).toNat else 0) % 2 ^ n) * 2 ^ (n * j)) 0) := by
  simp only [Bool.or_eq_true, beq_iff_eq] at hn
  obtain (rfl | rfl) | rfl := hn
  all_goals exact lane_packed (by decide) (by decide) x i

/-- The sign extension of a field, by its top bit. -/
theorem sextN_bitsAt (v lo : Nat) {n : Nat} (hn : n ≠ 0) : sextN n (bitsAt v lo n) =
    if bitsAt v lo n ≥ 2 ^ (n - 1) then (bitsAt v lo n : Int) - 2 ^ n else bitsAt v lo n := by
  have : bitsAt v lo n % 2 ^ n = bitsAt v lo n := Nat.mod_mod _ _
  simp [sextN, this, hn]

theorem packW_ne {n : Nat} (h : packW n = true) : n ≠ 0 := by
  rintro rfl
  exact Bool.noConfusion h

theorem laneForms_rows : ∀ r ∈ Claims.laneForms, laneRow r := by
  simp only [Claims.laneForms, List.cons_append, List.nil_append, List.forall_mem_cons, List.not_mem_nil, false_implies]
  refine ⟨laneRow_arith _ _ _ _ _ rfl fun _ _ _ => rfl, laneRow_arith _ _ _ _ _ rfl fun _ _ _ => rfl,
    laneRow_arith _ _ _ _ _ rfl fun _ _ _ => rfl, laneRow_arith _ _ _ minI _ ?_ fun _ _ _ => rfl,
    laneRow_arith _ _ _ maxI _ ?_ fun _ _ _ => rfl, ?_⟩
  · funext x y
    simp [minI, BitVec.slt]
  · funext x y
    simp [maxI, BitVec.slt]
  refine ⟨laneRow_vfma, fun h w s _ => ⟨_, _, _, rfl, fun x => laneResult_laneOp _ _ _ _ _ (fun i _ => rfl) rfl⟩,
    fun h w s _ => ⟨_, _, _, rfl, fun x => laneResult_laneOp _ _ _ _ _ (fun i _ => ite_not ..) rfl⟩,
    fun h w s _ => ⟨_, _, _, rfl, fun x => laneResult_setV _ _ _ _ (fun i _ => lane_and _ _ i) rfl⟩,
    fun h w s _ => ⟨_, _, _, rfl, fun x => laneResult_setV _ _ _ _ (fun i _ => lane_or _ _ i) rfl⟩,
    fun h w s _ => ⟨_, _, _, rfl, fun x => laneResult_setV _ _ _ _ (fun i _ => lane_xor _ _ i) rfl⟩, ?_⟩
  refine ⟨fun h w s hk => ⟨64, 0, _, vecRow_legal hk, fun x => laneResult_laneOp _ _ _ _ _ (fun i _ => shLane_eq hk _ _) rfl⟩,
    fun h w s _ => ⟨_, _, _, rfl, fun x => laneResult_setV _ _ _ _ (fun i hi => lane_ofLanes _ hi) rfl⟩,
    fun h w s _ => ⟨_, _, _, rfl, fun x => laneResult_setV _ _ _ _ (fun i hi => lane_ofLanes _ hi) rfl⟩,
    fun h w s _ => ⟨_, _, _, rfl, fun x => laneResult_setV _ _ _ _ (fun i hi => lane_ofLanes _ hi) rfl⟩, ?_⟩
  refine ⟨fun h w s hk => ⟨64, 0, _, vecRow_legal hk, fun x => laneResult_setV _ _ _ _ (fun i _ => lane_vpack hk _ i) rfl⟩,
    fun h w s hk => ⟨64, 0, _, vecRow_legal hk, fun x => laneResult_setV _ _ _ _ (fun i hi => (lane_ofLanes _ hi).trans ?_) rfl⟩,
    fun h w s hk => ⟨64, 64, _, vecRow_legal hk, fun x => laneResult_laneOp _ _ _ _ _ (fun i _ => rfl) rfl⟩,
    fun h w s hk => ⟨64, 0, _, vecRow_legal ((Bool.decide_and ..).symm.trans hk),
      fun x => laneResult_laneOp _ _ _ _ _ (fun i _ => rfl) rfl⟩,
    fun h w s hk => ⟨64, 0, _, vecRow_legal ((Bool.decide_and ..).symm.trans hk),
      fun x => laneResult_laneOp _ _ _ _ _ (fun i _ => rfl) rfl⟩,
    fun h w s _ => ⟨_, _, _, rfl, fun x => laneResult_laneOp _ _ _ _ _ (fun i _ => rfl) rfl⟩, fun _ => trivial⟩
  dsimp only [Claims.plainForm, Claims.lA]
  rw [sextN_bitsAt _ _ (packW_ne hk)]

theorem vectorLanes : Claims.VectorLanes := by
  intro r hr h w s ho hm hv hk hi
  obtain ⟨ops, vfn, f, hex, hf⟩ := laneForms_rows r hr h w s hk
  obtain ⟨v, hx, hl⟩ := hf (s.of h)
  obtain ⟨t, ht, honly, hsame, hgo⟩ := vecRow_done r.op r.mask ops vfn (r.regs w) f h w s ho hm hv hi (by rw [hx])
  have hvr : (t.of h).vr = (s.of h).vr.put (fD w) v := by rw [hsame, hx]
  have hst : (t.of h).sticky = (s.of h).sticky ||| orFlags (r.flags w (s.of h)) := by rw [hsame, hx]
  refine ⟨t, hex.trans ht, fun i hi => ?_, fun n hn => ?_, hst, ?_, honly⟩
  · rw [Thread.v, hvr, SMap.get_put_same, hl i hi]
  · rw [Thread.v, hvr, SMap.get_put_ne _ _ _ _ _ hn]
    rfl
  · rw [hvr, hst]
    rw [hx] at hsame hgo
    exact ⟨hsame, hgo⟩

/-! ### The other forms -/

/-- A reduction in one expression: lane 0 and the sticky bits. -/
theorem reduceT_eq (w : W64) (ff fi : List W32 → W32) (x : Thread) :
    reduceT w ff fi x = { x with
      vr := x.vr.put (fD w) (ofLanes (fun i => if i = 0 then
        (if xBit w 0 then fi (lanes (x.v (fA w))) else ff (lanes (x.v (fA w)))) else 0#32))
      sticky := x.sticky ||| (if xBit w 0 then 0#8 else f32Flags (lanes (x.v (fA w))) (ff (lanes (x.v (fA w))))) } := by
  unfold reduceT
  cases xBit w 0
  · rfl
  · simp only [Thread.setV, if_true, BitVec.or_zero]

theorem vectorOthers : Claims.VectorOthers := by
  intro h w s
  refine ⟨fun ho hm hA hi => ?_, ?_, fun ho hm hk hD hA hi => ?_⟩
  · obtain ⟨t, ht, honly, hsame, hgo⟩ := vecRow_done 0x5D (mO + mD + mA + mX0 + mIn 6) 1 0 [fA w]
      (fun t => t.setG (fD w) (if xBit w 0 then (lane (t.v (fA w)) (fImm w % 64)).signExtend 64
        else (lane (t.v (fA w)) (fImm w % 64)).setWidth 64)) h w s ho hm (by simpa using hA) hi (Thread.setG_st _ _ _)
    refine ⟨t, ht, honly, fun n => (hsame.g n).trans (Thread.g_setG _ _ _ _), ?_⟩
    rw [hsame.gr]
    rw [Thread.setG_eq] at hsame hgo
    exact ⟨hsame, hgo⟩
  · have red (op : Nat) (ff fi : List W32 → W32) (ho : opcOf w = op) (hm : unusedSet w (mO + mD + mA + mX0) = false)
        (hD : fD w < 16) (hA : fA w < 16) (hi : s.issues h w [fD w, fA w]) :
        let l := (upTo 64).map (Claims.lA w (s.of h))
        ∃ t, reduceRow op ff fi (.thread h) w s = .next t ∧ s.onlyThread t h ∧
          lane ((t.of h).v (fD w)) 0 = (if xBit w 0 then fi l else ff l) ∧
          (∀ i, 0 < i → i < 64 → lane ((t.of h).v (fD w)) i = 0#32) ∧ (∀ n, n ≠ fD w → (t.of h).v n = (s.of h).v n) ∧
          (t.of h).sticky = (s.of h).sticky ||| (if xBit w 0 then 0#8 else f32Flags l (ff l)) ∧
          Thread.wentOn { s.of h with vr := (t.of h).vr, sticky := (t.of h).sticky } (t.of h) := by
      obtain ⟨t, ht, honly, hsame, hgo⟩ := vecRow_done op (mO + mD + mA + mX0) 64 0 [fD w, fA w] (reduceT w ff fi) h w s ho hm
        (by simpa using ⟨hD, hA⟩) hi (by rw [reduceT_eq])
      rw [reduceT_eq] at hsame hgo
      have hvr := hsame.vr
      have hst := hsame.sticky
      refine ⟨t, ht, honly, ?_, fun i h0 hi => ?_, fun n hn => ?_, hst, ?_⟩
      · rw [Thread.v, hvr, SMap.get_put_same, lane_ofLanes _ (by decide), if_pos rfl]
        rfl
      · rw [Thread.v, hvr, SMap.get_put_same, lane_ofLanes _ hi, if_neg (by omega)]
      · rw [Thread.v, hvr, SMap.get_put_ne _ _ _ _ _ hn]
        rfl
      · rw [hvr, hst]
        exact ⟨hsame, hgo⟩
    simp only [List.forall_mem_cons, List.not_mem_nil, false_implies]
    exact ⟨red _ rsumF _, red _ _ _, red _ _ _, fun _ => trivial⟩
  · have hlegal : (fImm w % 16 == 5 || fImm w % 16 == 6) = true := by simpa using hk
    obtain ⟨t, ht, honly, hsame, hgo⟩ := vecRow_done 0x74 (mO + mD + mA + mC + mIn 4) 64 0 [fD w, fA w] (mxqT w) h w s ho hm
      (by simpa using ⟨hD, hA⟩) hi (Thread.setG_st _ _ _)
    have hvr : (t.of h).vr = ((s.of h).setV (fD w) _).vr := hsame.vr.trans (Thread.setG_vr _ _ _)
    have hst : (t.of h).sticky = (s.of h).sticky ||| _ := hsame.sticky.trans (congrArg (· ||| _) (Thread.setG_sticky _ _ _))
    have hgr : (t.of h).gr = (((s.of h).setV (fD w) _).setG (fC w) _).gr := hsame.gr
    refine ⟨t, (vecRow_legal hlegal).trans ht, honly, ?_, hst, fun n hn => ?_, fun n => (hsame.g n).trans (Thread.g_setG _ _ _ _), ?_⟩
    · rw [Thread.v, hvr]
      exact SMap.get_put_same _ _ _ _
    · rw [Thread.v, hvr]
      exact SMap.get_put_ne _ _ _ _ _ hn
    · rw [hvr, hst, hgr]
      rw [mxqT, Thread.setG_eq] at hsame hgo
      exact ⟨hsame, hgo⟩

/-- Settles O39: each row changes its thread by the function of its form. -/
theorem vectorInstructions : Obligations.VectorInstructions := ⟨vectorLanes, vectorOthers⟩

end Sys2Proof.Machine
end

section
/-! What the translation of addresses, the bytes that a partition reads, and the errors and races of R107 and R448 depend on. -/
namespace Sys2Proof.Machine

/-! ### Bytes -/

theorem State.rd_congr {s t : State} (hm : t.mem = s.mem) (hc : t.cipher = s.cipher) (ho : t.dev.own = s.dev.own)
    (hs : t.sec = s.sec) : t.rd = s.rd := by
  have own : t.own = s.own := by funext p; rw [State.own, ho, State.own]
  have ownerSt : t.ownerSt = s.ownerSt := by funext n; simp only [State.ownerSt, own]
  have secp : t.secp = s.secp := by funext p; rw [State.secp, hs, State.secp]
  have key : t.xtsKey = s.xtsKey := by funext a; simp only [State.xtsKey, ownerSt, State.conf, own, secp, hs] <;> rfl
  have pair : t.xtsPair = s.xtsPair := by funext a; simp only [State.xtsPair, hs]
  have cipherAt : t.cipherAt = s.cipherAt := by funext a; simp only [State.cipherAt, hc]
  have granule : t.granule = s.granule := by funext a; simp only [State.granule, hm, cipherAt, key, pair]
  funext a
  simp only [State.rd, State.sameKey, cipherAt, key, granule, hm] <;> rfl

theorem Memory.readN_eq (m : Memory) (a n : Nat) : m.readN a n = (upTo n).map (fun i => m.read (a + i)) := by
  induction n generalizing a with
  | zero => rfl
  | succ n ih => simp [Memory.readN, ih, upTo, List.range_succ_eq_map, Nat.add_right_comm, Nat.add_assoc]

/-- A run of bytes is its bytes. -/
theorem State.rdN_eq (s : State) (a n : Nat) : s.rdN a n = (upTo n).map (fun i => s.rd (a + i)) := by
  unfold State.rdN
  split
  next h =>
    rw [Memory.readN_eq]
    refine List.map_congr_left fun i hi => ?_
    have hi : i < n := List.mem_range.mp hi
    rw [State.rd, if_pos (List.all_eq_true.mp h _ (mem_granulesOf a n i hi))]
  · rfl

/-! ### The view of a partition -/

/-- What translation and reads depend on stands in t as in s. -/
structure State.sameMap (s t : State) : Prop where
  rd : t.rd = s.rd
  own : t.dev.own = s.dev.own
  ptRoot : ∀ c, (t.cl c).ptRoot = (s.cl c).ptRoot
  coremap : ∀ c, (t.cl c).coremap = (s.cl c).coremap
  ptes : ∀ p, (t.part p).ptes = (s.part p).ptes
  lmap : ∀ p, (t.part p).lmap = (s.part p).lmap
  dmaq : ∀ k, (t.core k).dmaq = (s.core k).dmaq

namespace State.sameMap
variable {s t : State} (h : s.sameMap t)
include h

theorem ownEq : t.own = s.own := by funext p; rw [State.own, h.own, State.own]
theorem ownerSt : t.ownerSt = s.ownerSt := by funext n; simp only [State.ownerSt, h.ownEq]
theorem ownerCl : t.ownerCl = s.ownerCl := by funext n; simp only [State.ownerCl, h.ownEq]
theorem partOf : t.partOf = s.partOf := by funext k; simp only [State.partOf, h.ownerCl]
theorem rdN : t.rdN = s.rdN := by funext a n; simp only [State.rdN_eq, h.rd]
theorem rdVal : t.rdVal = s.rdVal := by funext a n; simp only [State.rdVal, h.rdN]
theorem clustersOf : t.clustersOf = s.clustersOf := by funext p; simp only [State.clustersOf, h.ownEq]
theorem lead : t.lead = s.lead := by funext p; simp only [State.lead, h.clustersOf]
theorem ptRootEq : t.ptRoot = s.ptRoot := by funext p; simp only [State.ptRoot, h.lead, h.ptRoot, h.ownEq]
theorem nextTable : t.nextTable = s.nextTable := by funext p e; simp only [State.nextTable, h.lead]
theorem walk : t.walk = s.walk := by funext p g; simp only [State.walk, h.ptRootEq, h.nextTable, h.rdVal]
theorem walkOut : t.walkOut = s.walkOut := by funext p g; simp only [State.walkOut, h.ptRootEq, h.nextTable, h.rdVal]
theorem moving : t.moving = s.moving := by funext p g; simp only [State.moving, h.clustersOf, h.dmaq]
theorem entryOf : t.entryOf = s.entryOf := by funext p g v; simp only [State.entryOf, h.moving]
theorem pte : t.pte = s.pte := by funext p g; simp only [State.pte, h.walk, h.entryOf, h.rdVal, h.walkOut, h.ptes]
theorem physCl : t.physCl = s.physCl := by funext p l; simp only [State.physCl, h.lmap, h.ownEq]
theorem physCore : t.physCore = s.physCore := by funext c j; simp only [State.physCore, h.coremap]
theorem logKey : t.logKey = s.logKey := by funext p l j; simp only [State.logKey, h.physCl, h.physCore]
theorem devOf : t.devOf = s.devOf := by funext p e v; simp only [State.devOf, h.logKey, h.physCl, h.ownerSt]
theorem va? : t.va? = s.va? := by funext p v; simp only [State.va?, h.pte, h.devOf]
theorem reaches : t.reaches = s.reaches := by funext k r e v; simp only [State.reaches, h.devOf, h.partOf]
theorem pageFault : t.pageFault = s.pageFault := by funext k r b v; simp only [State.pageFault, h.pte, h.partOf, h.reaches]
theorem rangeFault : t.rangeFault = s.rangeFault := by
  funext k l
  induction l with
  | nil => rfl
  | cons r l ih => simp only [State.rangeFault, h.pageFault, ih]
theorem accessFault : t.accessFault = s.accessFault := by funext k v n a b; simp only [State.accessFault, h.rangeFault]
theorem mvRange : t.mvRange = s.mvRange := by funext k v n; simp only [State.mvRange, h.pte, h.partOf]
theorem vrd : t.vrd = s.vrd := by funext p v; simp only [State.vrd, h.va?, h.rd]
theorem vrdN : t.vrdN = s.vrdN := by funext p v n; simp only [State.vrdN, h.vrd]
theorem vrdVal : t.vrdVal = s.vrdVal := by funext p v n; simp only [State.vrdVal, h.vrdN]
theorem runs : t.runs = s.runs := by funext p v n; simp only [State.runs, h.va?]

end State.sameMap

/-- The errors that are known stand in t as in s. -/
structure State.sameErrors (s t : State) : Prop where
  badWords : t.badWords = s.badWords
  poison : t.poison = s.poison
  failed : ∀ n, (t.stack n).failed = (s.stack n).failed

namespace State.sameErrors
variable {s t : State} (h : s.sameErrors t)
include h

theorem deadStack : t.deadStack = s.deadStack := by funext a; simp only [State.deadStack, h.failed]
theorem badAt : t.badAt = s.badAt := by funext a; simp only [State.badAt, h.deadStack, h.badWords, h.poison]
theorem badPart : t.badPart = s.badPart := by funext a n; simp only [State.badPart, h.deadStack, h.badWords, h.poison]
theorem badIn : t.badIn = s.badIn := by funext a n; simp only [State.badIn, h.deadStack, h.badWords, h.poison]
theorem badFirst : t.badFirst = s.badFirst := by funext a n; simp only [State.badFirst, h.deadStack, h.badWords, h.poison]
theorem vbad (g : s.sameMap t) : t.vbad = s.vbad := by funext p v n; simp only [State.vbad, g.va?, h.badAt]
theorem vbadPart (g : s.sameMap t) : t.vbadPart = s.vbadPart := by funext p v n; simp only [State.vbadPart, g.runs, h.badPart]

end State.sameErrors

/-- What the races of R107 depend on stands in t as in s. -/
structure State.sameRaces (s t : State) : Prop where
  dirty : t.dirty = s.dirty
  chunk : ∀ k n, (t.thr k n).chunk = (s.thr k n).chunk
  chunkq : ∀ k, (t.core k).chunkq = (s.core k).chunkq
  job : ∀ k, (t.core k).job = (s.core k).job
  jobs : ∀ p, (t.part p).jobs = (s.part p).jobs

namespace State.sameRaces
variable {s t : State} (h : s.sameRaces t) (g : s.sameMap t)
include h

theorem chunkOf : t.chunkOf = s.chunkOf := by funext k n; simp only [State.chunkOf, h.chunk, h.chunkq]
theorem jobEq : t.job = s.job := by funext p j; simp only [State.job, h.jobs]
theorem raced : t.raced = s.raced := by funext a b c; simp only [State.raced, h.dirty]
include g
theorem vraced : t.vraced = s.vraced := by funext k n v l; simp only [State.vraced, g.runs, g.partOf, h.raced]
theorem vraced2 : t.vraced2 = s.vraced2 := by funext k n v l; simp only [State.vraced2, g.runs, g.partOf, h.dirty]
theorem changesOf : t.changesOf = s.changesOf := by
  funext k n; simp only [State.changesOf, h.chunkOf, h.job, h.jobEq, g.partOf]
theorem vchanged : t.vchanged = s.vchanged := by
  funext k n v l; simp only [State.vchanged, h.changesOf g, g.runs, g.partOf]
theorem ordered (k n v l : Nat) : t.ordered k n v l ↔ s.ordered k n v l := by
  simp only [State.ordered, h.vraced g, h.vchanged g]

end State.sameRaces

/-- A core whose counters, threads and queue of the arrays alone differ leaves the view as it is. -/
theorem State.sameMap_updCore (s : State) (k : Nat) (f : Core → Core) (hf : (f (s.core k)).dmaq = (s.core k).dmaq) :
    s.sameMap (s.updCore k f) where
  rd := rfl
  own := rfl
  ptRoot _ := rfl
  coremap _ := rfl
  ptes _ := rfl
  lmap _ := rfl
  dmaq j := by
    by_cases hj : j = k
    · subst hj; rw [State.core_updCore_same, hf]
    · rw [State.core_updCore_ne _ _ _ _ hj]

theorem State.sameErrors_updCore (s : State) (k : Nat) (f : Core → Core) : s.sameErrors (s.updCore k f) := ⟨rfl, rfl, fun _ => rfl⟩

end Sys2Proof.Machine
end

section
/-! The detection instructions (R412 to R415). -/
namespace Sys2Proof.Machine

/-! ### Reads of rows -/

/-- Bytes that are no case of R107 are read as they stand. -/
theorem State.settleRead_ordered {s : State} {k t va : Nat} {l : List Byte} (h : s.ordered k t va l.length) :
    s.settleRead k t va l = (l, s) := by
  simp [State.settleRead, h.1, h.2]

theorem State.vrdN_length (s : State) (p va n : Nat) : (s.vrdN p va n).length = n := by simp [State.vrdN, upTo]

/-- Nothing but counters of the thread's core differs, and it reads as before. -/
structure State.counted (s t : State) (h : Hart) : Prop where
  near : s.near t h
  of : t.of h = s.of h
  map : s.sameMap t
  races : s.sameRaces t

theorem State.counted_refl (s : State) (h : Hart) : s.counted s h where
  near := s.near_refl h
  of := rfl
  map := ⟨rfl, rfl, fun _ => rfl, fun _ => rfl, fun _ => rfl, fun _ => rfl, fun _ => rfl⟩
  races := ⟨rfl, fun _ _ => rfl, fun _ => rfl, fun _ => rfl, fun _ => rfl⟩

theorem State.counted.count {s t : State} {h : Hart} (c : s.counted t h) (n v : Nat) : s.counted (t.count h.key n v) h := by
  obtain ⟨near, of, map, races⟩ := c
  have hc (j : Nat) : (t.count h.key n v).core j = { t.core j with
      cnt := ((t.count h.key n v).core j).cnt, winE := ((t.count h.key n v).core j).winE } := by
    by_cases hj : j = h.key
    · subst hj
      rw [State.count, State.core_updCore_same]
      exact Core.count_eq _ _ _
    · rw [State.count, State.core_updCore_ne _ _ _ _ hj]
  have thr (j i : Nat) : (t.count h.key n v).thr j i = t.thr j i := State.thr_count _ _ _ _ _ _
  exact {
    near := State.near_trans near (t.near_count h n v)
    of := (thr _ _).trans of
    map := {
      rd := map.rd, own := map.own, ptRoot := map.ptRoot, coremap := map.coremap, ptes := map.ptes, lmap := map.lmap
      dmaq := fun j => by rw [hc j]; exact map.dmaq j }
    races := {
      dirty := races.dirty, jobs := races.jobs
      chunk := fun j i => by rw [thr]; exact races.chunk j i
      chunkq := fun j => by rw [hc j]; exact races.chunkq j
      job := fun j => by rw [hc j]; exact races.job j } }

/-- Rows that may be read hold their bytes, and their reads are counted. -/
theorem rowsSem_done {ill : Bool} {aligned : List Nat} {rs : List (Nat × Nat)} {h : Hart} {s : State}
    (f : List (List Byte) → State → State) (hill : ill = false) (hal : ∀ a ∈ aligned, a % 8 = 0) (hr : Claims.rowsReadable s h rs) :
    ∃ u, s.counted u h ∧
      rowsSem ill aligned rs h s f = .done (f (rs.map fun r => s.vrdN (s.partOf h.key) r.1 r.2) u) := by
  obtain ⟨hrows, hrange⟩ := hr
  have fold (l : List (Nat × Nat)) (hl : ∀ r ∈ l, s.ordered h.key h.thr.val r.1 r.2) (acc : List (List Byte)) (u : State)
      (hu : s.counted u h) : ∃ u', s.counted u' h ∧ l.foldl (fun acc r =>
        let y := acc.2.settleRead h.key h.thr.val r.1 (acc.2.vrdN (acc.2.partOf h.key) r.1 r.2)
        (acc.1 ++ [y.1], y.2.count h.key (byteCnt 0 false) r.2)) (acc, u) =
          (acc ++ l.map (fun r => s.vrdN (s.partOf h.key) r.1 r.2), u') := by
    induction l generalizing acc u with
    | nil => exact ⟨u, hu, by simp⟩
    | cons r l ih =>
      have ho : u.ordered h.key h.thr.val r.1 (u.vrdN (u.partOf h.key) r.1 r.2).length := by
        rw [State.vrdN_length]
        exact (hu.races.ordered hu.map _ _ _ _).mpr (hl r (List.mem_cons_self ..))
      obtain ⟨u', hu', e⟩ := ih (fun x hx => hl x (List.mem_cons_of_mem _ hx)) (acc ++ [s.vrdN (s.partOf h.key) r.1 r.2])
        (u.count h.key (byteCnt 0 false) r.2) (hu.count _ _)
      refine ⟨u', hu', ?_⟩
      rw [List.foldl_cons, State.settleRead_ordered ho, hu.map.vrdN, hu.map.partOf]
      simpa using e
  obtain ⟨u, hu, e⟩ := fold rs (fun r hr => (hrows r hr).2.2.2) [] s (s.counted_refl h)
  refine ⟨u, hu, ?_⟩
  have none (p : Nat × Nat → Bool) (hp : ∀ r ∈ rs, p r = false) : rs.find? p = none := List.find?_eq_none.mpr (by simpa using hp)
  have hal' : aligned.find? (fun a => a % 8 != 0) = Option.none := List.find?_eq_none.mpr (by simpa using hal)
  unfold rowsSem
  simp only [hill, Bool.false_eq_true, if_false, none _ fun r hr => (hrows r hr).1, hal', hrange,
    none _ fun r hr => (hrows r hr).2.1, none _ fun r hr => (hrows r hr).2.2.1, e, List.nil_append]

/-! ### POOL -/

/-- A row of class 0xB that reads rows and then changes its thread. -/
theorem issueMeaning_rows (op : Nat) (h : Hart) (w : W64) (s : State) (vregs : List Nat) (touch : List (Nat × Nat × Nat))
    (thr : Hart → State → Res) (ctl : Option Nat → State → Res) {ill : Bool} {aligned : List Nat} {rs : List (Nat × Nat)}
    (f : List (List Byte) → State → State) (g : Thread → Thread) (ho : opcOf w = op) (hi : s.issues h w vregs)
    (hs : thr h s = rowsSem ill aligned rs h s f) (hill : ill = false) (hal : ∀ a ∈ aligned, a % 8 = 0)
    (hr : Claims.rowsReadable s h rs) (hst : (g (s.of h)).st = (s.of h).st)
    (hf : ∀ u, u.near (f (rs.map fun r => s.vrdN (s.partOf h.key) r.1 r.2) u) h ∧
      (f (rs.map fun r => s.vrdN (s.partOf h.key) r.1 r.2) u).of h = g (u.of h)) :
    ∃ t, issueMeaning op (.thread h) w s vregs touch thr ctl = .next t ∧ s.onlyThread t h ∧
      Thread.wentOn (g (s.of h)) (t.of h) := by
  obtain ⟨u, hu, e⟩ := rowsSem_done f hill hal hr
  obtain ⟨hn, ho'⟩ := hf u
  exact issueMeaning_goesOn op h w s _ vregs touch thr ctl ho hi (hs.trans e) (State.near_trans hu.near hn)
    (ho'.trans (congrArg g hu.of)) (hst.trans hi.ready)

/-! ### Four registers -/

/-- The lanes of four registers from d on, and sticky bits. -/
def fourLanes (d : Nat) (f : Nat → Nat → W32) (fl : Nat → Nat → BitVec 8) (x : Thread) : Thread :=
  (upTo 4).foldl (fun x q => laneOp (d + q) (f q) (fl q) x) x

theorem fourLanes_steps (d : Nat) (f : Nat → Nat → W32) (fl : Nat → Nat → BitVec 8) (x : Thread) : fourLanes d f fl x =
    { x with
      vr := (((x.vr.put d (ofLanes (f 0))).put (d + 1) (ofLanes (f 1))).put (d + 2) (ofLanes (f 2))).put (d + 3) (ofLanes (f 3))
      sticky := x.sticky ||| orFlags (fl 0) ||| orFlags (fl 1) ||| orFlags (fl 2) ||| orFlags (fl 3) } := by
  have e : upTo 4 = [0, 1, 2, 3] := rfl
  rw [fourLanes, e]
  simp only [List.foldl_cons, List.foldl_nil, laneOp, Thread.setV, Thread.stick, Nat.add_zero]

theorem fourLanes_in (d : Nat) (f : Nat → Nat → W32) (fl : Nat → Nat → BitVec 8) (x : Thread) {q i : Nat} (hq : q < 4) (hi : i < 64) :
    lane ((fourLanes d f fl x).v (d + q)) i = f q i := by
  rw [fourLanes_steps, Thread.v, ← lane_ofLanes (f q) hi]
  refine congrArg (fun v => lane v i) ?_
  dsimp only
  interval_cases q
  · rw [SMap.get_put_ne _ _ _ _ _ (by omega), SMap.get_put_ne _ _ _ _ _ (by omega), SMap.get_put_ne _ _ _ _ _ (by omega)]
    exact SMap.get_put_same ..
  · rw [SMap.get_put_ne _ _ _ _ _ (by omega), SMap.get_put_ne _ _ _ _ _ (by omega), SMap.get_put_same]
  · rw [SMap.get_put_ne _ _ _ _ _ (by omega), SMap.get_put_same]
  · rw [SMap.get_put_same]

theorem fourLanes_out (d : Nat) (f : Nat → Nat → W32) (fl : Nat → Nat → BitVec 8) (x : Thread) {n : Nat} (hn : n < d ∨ d + 4 ≤ n) :
    (fourLanes d f fl x).v n = x.v n := by
  rw [fourLanes_steps, Thread.v]
  dsimp only
  rw [SMap.get_put_ne _ _ _ _ _ (by omega), SMap.get_put_ne _ _ _ _ _ (by omega), SMap.get_put_ne _ _ _ _ _ (by omega),
    SMap.get_put_ne _ _ _ _ _ (by omega)]
  rfl

/-- A thread that goes on from new vector registers and sticky bits. -/
theorem Thread.wentOn_lanes {x y : Thread} {vr : SMap VReg} {k : BitVec 8}
    (h : Thread.wentOn { x with vr := vr, sticky := k } y) : Thread.wentOn { x with vr := y.vr, sticky := y.sticky } y := by
  obtain ⟨hsame, hgo⟩ := h
  rw [hsame.vr, hsame.sticky]
  exact ⟨hsame, hgo⟩

/-- What the rows of four registers leave. -/
theorem fourLanes_done {s t : State} {h : Hart} {d : Nat} {f : Nat → Nat → W32} {fl : Nat → Nat → BitVec 8}
    (hgo : Thread.wentOn (fourLanes d f fl (s.of h)) (t.of h)) :
    (∀ q i, q < 4 → i < 64 → lane ((t.of h).v (d + q)) i = f q i) ∧ (∀ n, (n < d ∨ d + 4 ≤ n) → (t.of h).v n = (s.of h).v n) ∧
      Thread.wentOn { s.of h with vr := (t.of h).vr, sticky := (t.of h).sticky } (t.of h) := by
  refine ⟨fun q i hq hi => ?_, fun n hn => ?_, ?_⟩
  · rw [hgo.1.v, fourLanes_in d f fl _ hq hi]
  · rw [hgo.1.v, fourLanes_out d f fl _ hn]
  · rw [fourLanes_steps] at hgo
    exact Thread.wentOn_lanes hgo

theorem poolSem_eq (w : W64) (h : Hart) (s : State) :
    let a := ((s.of h).g (fA w)).toNat
    let b := ((s.of h).g (fB w)).toNat
    poolSem w h s =
      rowsSem (unusedSet w (mO + mD + mA + mB + mC + mX0 + mX12 + mIn 8) || !vOk [fD w] || fX w / 2 % 4 == 3) [a, b]
        ((upTo (fImm w % 256 + 1)).map (fun j => ((a + j * b) % 2 ^ 64, if xBit w 0 then 128 else 256))) h s
        (fun rows s => (s.updThr h.key h.thr.val (poolT w rows)).count h.key 0x1A (64 * (fImm w % 256 + 1))) := rfl

theorem boxdecSem_eq (w : W64) (h : Hart) (s : State) :
    let b := ((s.of h).g (fB w)).toNat
    let c := ((s.of h).g (fC w)).toNat
    boxdecSem w h s =
      rowsSem (unusedSet w (mO + mD + mA + mB + mC + mX0) || fD w % 4 != 0 || fA w % 4 != 0 || !vOk (four (fD w) ++ four (fA w)))
        [b, c] [(b, 1024), (c, 20)] h s
        (fun rows s => ((s.updThr h.key h.thr.val (boxdecT w rows)).count h.key 0x1A 256).count h.key 0x1B 128) := rfl

/-- Box i of BOXDEC (R414), from the rows of anchors and scales. -/
def boxAt (w : W64) (rows : List (List Byte)) (x : Thread) (i : Nat) : List W32 :=
  boxOf (xBit w 0) (fun q => lane (x.v (fA w + q)) i) (fun q => BitVec.ofNat 32 (recN (rows.getD 0 []) (16 * i + 4 * q) 4))
    (fun q => BitVec.ofNat 32 (recN (rows.getD 1 []) (4 * q) 4))

theorem boxdecT_eq (w : W64) (rows : List (List Byte)) (x : Thread) : boxdecT w rows x =
    fourLanes (fD w) (fun q i => (boxAt w rows x i).getD q 0#32)
      (fun q i => f32Flags ((upTo 4).map (fun q => lane (x.v (fA w + q)) i) ++
        (upTo 4).map (fun q => BitVec.ofNat 32 (recN (rows.getD 0 []) (16 * i + 4 * q) 4)) ++
        (upTo 5).map (fun q => BitVec.ofNat 32 (recN (rows.getD 1 []) (4 * q) 4))) ((boxAt w rows x i).getD q 0#32)) x := rfl

theorem boxclipT_eq (w : W64) (x : Thread) : boxclipT w x =
    fourLanes (fD w) (fun q i => clipTo ((x.g (if q % 2 = 0 then fA w else fB w)).setWidth 32) (lane (x.v (fD w + q)) i))
      (fun q i => f32Flags [lane (x.v (fD w + q)) i, (x.g (if q % 2 = 0 then fA w else fB w)).setWidth 32]
        (clipTo ((x.g (if q % 2 = 0 then fA w else fB w)).setWidth 32) (lane (x.v (fD w + q)) i))) x := rfl

/-- The four registers of an aligned base below 16 are registers. -/
theorem four_lt {n : Nat} (h4 : n % 4 = 0) (h : n < 16) : ∀ m ∈ four n, m < 16 := by
  simp only [four, List.forall_mem_cons, List.not_mem_nil, false_implies]
  exact ⟨by omega, by omega, by omega, by omega, fun _ => trivial⟩

/-- Settles O5: each row reads its operands, which stand still, and writes lanes. -/
theorem detectionLanes : Obligations.DetectionLanes := by
  intro h w s
  refine ⟨fun ho hm hD hX ha hb hi hr => ?_, fun ho hm hd4 ha4 hD hA hb hc hi hr => ?_, fun ho hm hd4 hD hi => ?_⟩
  · obtain ⟨t, ht, honly, hgo⟩ := issueMeaning_rows 0xB8 h w s [fD w] _ (poolSem w) noCtl _
      (poolT w _) ho hi (poolSem_eq w h s) (by simp [hm, vOk, hD, hX]) (by simp [ha, hb]) hr rfl
      (fun u => ⟨State.near_trans (u.near_updThr h _) (State.near_count _ h _ _), (State.of_count _ _ _ _ _).trans (u.of_updThr h _)⟩)
    refine ⟨t, ht, honly, fun i hi => ?_, fun n hn => ?_, Thread.wentOn_lanes hgo⟩
    · rw [hgo.1.v]
      exact (congrArg (fun v => lane v i) (SMap.get_put_same ..)).trans ((lane_ofLanes _ hi).trans (congrArg (poolOp _ _) List.map_map))
    · rw [hgo.1.v]
      exact SMap.get_put_ne _ _ _ _ _ hn
  · have hok : vOk (four (fD w) ++ four (fA w)) = true := by
      simpa [vOk, or_imp, forall_and] using ⟨four_lt hd4 hD, four_lt ha4 hA⟩
    obtain ⟨t, ht, honly, hgo⟩ := issueMeaning_rows 0xB9 h w s (four (fD w) ++ four (fA w)) _ (boxdecSem w) noCtl _
      (boxdecT w _) ho hi (boxdecSem_eq w h s) (by simp [hm, hd4, ha4, hok]) (by simp [hb, hc]) hr
      (by rw [boxdecT_eq, fourLanes_steps])
      (fun u => ⟨State.near_trans (State.near_trans (u.near_updThr h _) (State.near_count _ h _ _)) (State.near_count _ h _ _),
        (State.of_count _ _ _ _ _).trans ((State.of_count _ _ _ _ _).trans (u.of_updThr h _))⟩)
    rw [boxdecT_eq] at hgo
    obtain ⟨hin, hout, hgo⟩ := fourLanes_done hgo
    simp only [boxAt, List.map_cons, List.map_nil, List.getD_cons_zero, List.getD_cons_succ] at hin
    exact ⟨t, ht, honly, hin, hout, hgo⟩
  · obtain ⟨t, ht, honly, hgo⟩ := vecRow_done 0xBB (mO + mD + mA + mB) 256 0 (four (fD w)) (boxclipT w) h w s ho hm
      (four_lt hd4 hD) hi (by rw [boxclipT_eq, fourLanes_steps])
    rw [boxclipT_eq] at hgo
    obtain ⟨hin, hout, hgo⟩ := fourLanes_done hgo
    exact ⟨t, (vecRow_legal (by simp [hd4])).trans ht, honly, hin, hout, hgo⟩

end Sys2Proof.Machine
end

section
/-! Writes of a page by threads and controllers, and atomics (R192, R210 to R212, R290). -/
namespace Sys2Proof.Machine

/-! ### Addresses within a page -/

/-- The device byte at offset `o` of the store that an entry names. -/
def State.storeAt (s : State) (p : Nat) (e : W64) (o : Nat) : Option Nat :=
  match pteTier e with
  | 0 => if o < 0x400000 then (s.logKey p (pteCluster e) (pteCore e)).map (fun k => coreStore k o) else none
  | 1 => if o < 0x2000000 then (s.physCl p (pteCluster e)).map (fun c => clStore c o) else none
  | 2 => if o < 8 * stackBytes ∧ s.ownerSt (o / stackBytes) = some p then some o else none
  | _ => none

/-- The offset of an address in its page, large or small. -/
def pageOffset (e : W64) (va : Nat) : Nat := if pteL e then va % 0x200000 else va % 0x10000

theorem State.devOf_eq (s : State) (p : Nat) (e : W64) (va : Nat) :
    s.devOf p e va = s.storeAt p e (pteFrame e * 0x10000 + pageOffset e va) := rfl

theorem pageOffset_add (e : W64) {va i : Nat} (hi : va % 65536 + i < 65536) :
    pageOffset e (va + i) = pageOffset e va + i ∧ pageOffset e va % 65536 = va % 65536 := by
  unfold pageOffset
  split <;> constructor <;> omega

theorem State.storeAt_add {s : State} {p o a i : Nat} {e : W64} (h : s.storeAt p e o = some a) (hi : o % 65536 + i < 65536) :
    s.storeAt p e (o + i) = some (a + i) := by
  simp only [State.storeAt] at h ⊢
  split at h
  · split at h
    · rw [if_pos (by omega)]
      obtain ⟨k, hk, rfl⟩ := Option.map_eq_some_iff.mp h
      simp [hk, coreStore, Nat.add_assoc]
    · simp at h
  · split at h
    · rw [if_pos (by omega)]
      obtain ⟨k, hk, rfl⟩ := Option.map_eq_some_iff.mp h
      simp [hk, clStore, Nat.add_assoc]
    · simp at h
  · split at h
    next hc =>
      obtain ⟨ho, hown⟩ := hc
      have hs : (o + i) / stackBytes = o / stackBytes := by
        unfold stackBytes
        omega
      have hb : o + i < 8 * stackBytes := by
        unfold stackBytes at ho ⊢
        omega
      rw [hs, if_pos ⟨hb, hown⟩]
      simpa using h
    · simp at h
  · simp at h

/-- Addresses of one page lie as far apart in the device as they do in virtual memory. -/
theorem State.devOf_add {s : State} {p va a i : Nat} {e : W64} (h : s.devOf p e va = some a)
    (hi : va % 65536 + i < 65536) : s.devOf p e (va + i) = some (a + i) := by
  obtain ⟨hadd, hmod⟩ := pageOffset_add e hi
  rw [State.devOf_eq] at h ⊢
  rw [hadd, ← Nat.add_assoc]
  exact State.storeAt_add h (by omega)

theorem State.va?_add {s : State} {p va a i : Nat} (h : s.va? p va = some a) (hi : va % 65536 + i < 65536) :
    s.va? p (va + i) = some (a + i) := by
  unfold State.va? at *
  split at h
  · exact absurd h (by simp)
  · dsimp only at h
    split at h
    next hv =>
      have hp : (va + i) / 65536 = va / 65536 := by omega
      rw [if_neg (by omega)]
      dsimp only
      rw [hp, if_pos (by simp only [Bool.and_eq_true, decide_eq_true_eq] at *; exact ⟨hv.1, by omega⟩)]
      exact State.devOf_add h hi
    · exact absurd h (by simp)

/-- A range within a page is one run. -/
theorem State.runs_page (s : State) (p va n : Nat) (h0 : 0 < n) (h : va % 65536 + n ≤ 65536) :
    s.runs p va n = [(s.va? p va, 0, n)] := by
  have hp : pagesOf va n = [va] := by
    have : (va + n - 1) / 65536 - va / 65536 + 1 = 1 := by omega
    simp only [pagesOf, this, if_neg (Nat.ne_of_gt h0)]
    rfl
  simp only [State.runs, hp, List.map_cons, List.map_nil, Nat.sub_self, Nat.sub_zero]
  rw [Nat.min_eq_left (by omega)]

theorem State.vwr_page {s : State} {p va a : Nat} {l : List Byte} (h0 : 0 < l.length) (h : va % 65536 + l.length ≤ 65536)
    (ha : s.va? p va = some a) : s.vwr p va l = s.store a l := by
  simp [State.vwr, s.runs_page p va _ h0 h, ha]

theorem State.vrdN_page {s : State} {p va a n : Nat} (h : va % 65536 + n ≤ 65536) (ha : s.va? p va = some a) :
    s.vrdN p va n = s.rdN a n := by
  rw [State.rdN_eq, State.vrdN]
  refine List.map_congr_left fun i hi => ?_
  rw [State.vrd, State.va?_add ha (by have := List.mem_range.mp hi; omega)]

/-! ### What a write does besides -/

theorem SMap.find_mapV {α : Type} (m : SMap α) (f : Nat → α → α) (k : Nat) : (m.mapV f).find k = (m.find k).map (f k) := by
  induction m with
  | nil => rfl
  | cons e m ih =>
    obtain ⟨j, x⟩ := e
    by_cases hj : j = k
    · subst hj
      simp [SMap.mapV, SMap.find]
    · simpa [SMap.mapV, SMap.find, hj] using ih

theorem SMap.get_mapV {α : Type} (m : SMap α) (d : α) (f : Nat → α → α) (k : Nat) :
    (m.mapV f).get d k = if m.has k then f k (m.get d k) else m.get d k := by
  rw [SMap.get, SMap.find_mapV, SMap.get, SMap.has]
  cases m.find k <;> rfl

/-- Nothing differs but what the part keeps of writes: taints and changes of queues, jobs and chunks, and signatures. -/
structure State.keptBook (s t : State) : Prop where
  frame : t = { s with cores := t.cores, parts := t.parts }
  core : ∀ k, t.core k = { s.core k with
    queue := (t.core k).queue, chunkq := (t.core k).chunkq, sig := (t.core k).sig, sigLo := (t.core k).sigLo
    sigHi := (t.core k).sigHi }
  part : ∀ q, t.part q = { s.part q with jobs := (t.part q).jobs }

theorem State.keptBook_refl (s : State) : s.keptBook s := ⟨rfl, fun _ => rfl, fun _ => rfl⟩

theorem State.keptBook.trans {s t u : State} (h : s.keptBook t) (g : t.keptBook u) : s.keptBook u where
  frame := by rw [g.frame, h.frame]
  core k := by rw [g.core k, h.core k]
  part q := by rw [g.part q, h.part q]

theorem State.keptBook.thr {s t : State} (h : s.keptBook t) (k n : Nat) : t.thr k n = s.thr k n := by
  rw [State.thr, h.core k, State.thr]

theorem State.taintQueues_keptBook (s : State) (p va n : Nat) : s.keptBook (s.taintQueues p va n) where
  frame := rfl
  core k := by
    simp only [State.taintQueues, State.core, SMap.get_mapV]
    split
    · split <;> rfl
    · rfl
  part _ := rfl

theorem State.updCore_keptBook (s : State) (k : Nat) (f : Core → Core)
    (hf : f (s.core k) = { s.core k with
      queue := (f (s.core k)).queue, chunkq := (f (s.core k)).chunkq, sig := (f (s.core k)).sig, sigLo := (f (s.core k)).sigLo
      sigHi := (f (s.core k)).sigHi }) : s.keptBook (s.updCore k f) where
  frame := rfl
  core j := by
    by_cases hj : j = k
    · subst hj
      rw [State.core_updCore_same]
      exact hf
    · rw [State.core_updCore_ne _ _ _ _ hj]
  part _ := rfl

theorem State.signWrite_keptBook (s : State) (k n va : Nat) (l : List Byte) : s.keptBook (s.signWrite k n va l) := by
  unfold State.signWrite
  extract_lets lock
  split
  · exact s.keptBook_refl
  · split
    · refine s.updCore_keptBook _ _ ?_
      rfl
    · refine s.updCore_keptBook _ _ ?_
      rfl

/-- A change of memory in what the partition's running jobs keep of changes. -/
def Part.noted (x : Part) (job : Option Nat) (a n : Nat) : Part :=
  { x with jobs := x.jobs.mapV (fun j y =>
      if y.running.isNone then y
      else if job = some j then { y with wrote := (a, n) :: cutRange a n y.wrote, changed := cutRange a n y.changed }
      else { y with changed := y.changed ++ [(a, n)] }) }

theorem State.noteChange_part (s : State) (p : Nat) (j : Option Nat) (a n q : Nat) :
    (s.noteChange p j a n).part q = (s.updPart p (·.noted j a n)).part q := rfl

theorem State.noteChange_keptBook (s : State) (p : Nat) (j : Option Nat) (a n : Nat) : s.keptBook (s.noteChange p j a n) where
  frame := rfl
  core k := by
    simp only [State.noteChange, State.core, SMap.get_mapV]
    split
    · split <;> rfl
    · rfl
  part q := by
    by_cases hq : q = p
    · subst hq
      rw [State.noteChange_part, State.part_updPart_same]
      rfl
    · rw [State.noteChange_part, State.part_updPart_ne _ _ _ _ hq]

theorem State.noteChangeV_keptBook (s : State) (p : Nat) (j : Option Nat) (va n : Nat) : s.keptBook (s.noteChangeV p j va n) := by
  refine List.foldlRecOn (motive := fun t : State => s.keptBook t) _ _ s.keptBook_refl fun t ht r _ => ht.trans ?_
  split
  · exact t.noteChange_keptBook _ _ _ _
  · exact t.keptBook_refl

/-- A thread's write within a page: the store, and what the part keeps of it. -/
theorem State.write_page {s : State} {k n va a : Nat} {l : List Byte} (h0 : 0 < l.length) (h : va % 65536 + l.length ≤ 65536)
    (ha : s.va? (s.partOf k) va = some a) : (s.store a l).keptBook (s.write k n va l) := by
  unfold State.write
  dsimp only
  rw [State.vwr_page h0 h ha]
  exact ((State.taintQueues_keptBook _ _ _ _).trans (State.signWrite_keptBook _ _ _ _ _)).trans (State.noteChangeV_keptBook _ _ _ _ _)

end Sys2Proof.Machine
end

section
/-! Atomics exchange the word in memory (R210 to R212, R290). -/
namespace Sys2Proof.Machine

/-! ### Words of bytes -/

theorem leBytes_length (n v : Nat) : (leBytes n v).length = n := by
  induction n generalizing v with
  | zero => rfl
  | succ n ih => rw [leBytes, List.length_cons, ih]

theorem leVal_lt (l : List Byte) : leVal l < 256 ^ l.length := by
  induction l with
  | nil => simp [leVal]
  | cons b l ih =>
    rw [leVal, List.length_cons, Nat.pow_succ]
    have hb := b.isLt
    omega

theorem leBytes_leVal (l : List Byte) : leBytes l.length (leVal l) = l := by
  induction l with
  | nil => rfl
  | cons b l ih =>
    have hb := b.isLt
    rw [leVal, List.length_cons, leBytes, show (b.toNat + 256 * leVal l) / 256 = leVal l by omega, ih]
    exact congrArg (· :: l) (BitVec.eq_of_toNat_eq (by simp; omega))

theorem State.rdN_length (s : State) (a n : Nat) : (s.rdN a n).length = n := by simp [State.rdN_eq, upTo]

/-- The word that eight bytes are gives them back. -/
theorem State.leBytes_word (s : State) (a : Nat) : leBytes 8 (BitVec.ofNat 64 (s.rdVal a 8)).toNat = s.rdN a 8 := by
  have hl := leVal_lt (s.rdN a 8)
  have h := leBytes_leVal (s.rdN a 8)
  rw [State.rdN_length] at hl h
  rw [BitVec.toNat_ofNat, Nat.mod_eq_of_lt (by simpa [State.rdVal] using hl)]
  exact h

/-! ### The exchange -/

/-- The word at `a` has become `v`, and every other byte is as it was. -/
def State.exchanged (s t : State) (a : Nat) (v : W64) : Prop := t.rdN a 8 = leBytes 8 v.toNat ∧ s.sameOutside t a 8

theorem State.exchanged_store (s : State) (a : Nat) (v : W64) : s.exchanged (s.store a (leBytes 8 v.toNat)) a v := by
  have hl := leBytes_length 8 v.toNat
  have h := s.rdN_store a (leBytes 8 v.toNat)
  rw [hl] at h
  exact ⟨h, fun x hx => s.rd_store_out a x _ (by rwa [hl])⟩

theorem State.exchanged_self (s : State) (a : Nat) : s.exchanged s a (BitVec.ofNat 64 (s.rdVal a 8)) :=
  ⟨(s.leBytes_word a).symm, fun _ _ => rfl⟩

theorem State.exchanged.congr {s t u : State} {a : Nat} {v : W64} (h : s.exchanged t a v) (hr : u.rd = t.rd) :
    s.exchanged u a v := by
  obtain ⟨hw, ho⟩ := h
  refine ⟨by simpa only [State.rdN_eq, hr] using hw, fun x hx => ?_⟩
  rw [hr]
  exact ho x hx

theorem State.keptBook.rd {s t : State} (h : s.keptBook t) : t.rd = s.rd := by
  obtain ⟨hf, -, -⟩ := h
  exact State.rd_congr (by rw [hf]) (by rw [hf]) (by rw [hf]) (by rw [hf])

theorem State.onlyThread.rd {s t : State} {h : Hart} (g : s.onlyThread t h) : t.rd = s.rd := by
  obtain ⟨⟨hf, -⟩, -, -⟩ := g
  exact State.rd_congr (by rw [hf]) (by rw [hf]) (by rw [hf]) (by rw [hf])

theorem State.onlyCtl.rd {s t : State} {c : Option Nat} (g : s.onlyCtl t c) : t.rd = s.rd := by
  obtain ⟨hf, -, -⟩ := g
  exact State.rd_congr (by rw [hf]) (by rw [hf]) (by rw [hf]) (by rw [hf])

theorem State.thr_store (s : State) (a : Nat) (l : List Byte) (k j : Nat) : (s.store a l).thr k j = s.thr k j := by
  rw [s.store_onlyMem a l]
  rfl

theorem State.ctl_store (s : State) (a : Nat) (l : List Byte) (c : Option Nat) : (s.store a l).ctl c = s.ctl c := by
  rw [s.store_onlyMem a l]
  cases c <;> rfl

/-! ### The rows -/

/-- What an atomic stores beside what it has read and its operands: nothing where a compare fails. -/
def storedBy (f : W64 → W64 → W64 → Option W64) (o b c : W64) : W64 := (f o b c).getD o

theorem exec_atomicForm : ∀ r ∈ Claims.atomicForms, ∃ f, (∀ o b c, storedBy f o b c = r.2.2.2 o b c) ∧
    ∀ (a : Agent) (w : W64) (s : State), exec (r.1 a w) s = atomicRow r.2.1 r.2.2.1 f a w .none s := by
  simp only [Claims.atomicForms, List.forall_mem_cons, List.not_mem_nil, false_implies]
  refine ⟨⟨_, fun _ _ _ => rfl, fun _ _ _ => rfl⟩, ⟨_, fun _ _ _ => rfl, fun _ _ _ => rfl⟩,
    ⟨_, fun o b c => ?_, fun _ _ _ => rfl⟩, ⟨_, fun o b _ => ?_, fun _ _ _ => rfl⟩, fun _ => trivial⟩
  · by_cases h : o = c <;> simp [storedBy, h]
  · simp [storedBy, maxS, BitVec.slt]

theorem ctlOpc_atomicForm : ∀ r ∈ Claims.atomicForms, ctlOpc r.2.1 = true := by decide

/-- A word that an access may touch stands in one page. -/
theorem State.accessFault_aligned {s : State} {k va n align : Nat} {b : Bool} (h : s.accessFault k va n align b = none) :
    va % align = 0 := by
  unfold State.accessFault at h
  split at h
  · simp at h
  · split at h
    · simp at h
    · simp_all

/-- What an atomic of a thread has done when it has stored. -/
def State.swapped (s : State) (h : Hart) (d : Nat) (old : W64) (n m : Nat) : State :=
  ((s.updThr h.key h.thr.val (fun x => x.setG d old)).count h.key n 8).count h.key m 8

theorem atomicSem_done {w : W64} {mask a : Nat} {f : W64 → W64 → W64 → Option W64} {h : Hart} {s : State}
    (hm : unusedSet w mask = false) (hf : s.accessFault h.key ((s.of h).g (fA w)).toNat 8 8 true = none)
    (hmv : s.mvRange h.key ((s.of h).g (fA w)).toNat 8 = false)
    (hb : s.vbad (s.partOf h.key) ((s.of h).g (fA w)).toNat 8 = false)
    (ho : s.ordered h.key h.thr.val ((s.of h).g (fA w)).toNat 8)
    (ha : s.va? (s.partOf h.key) ((s.of h).g (fA w)).toNat = some a) :
    ∃ u n m, atomicSem w mask f .none h s = .done (u.swapped h (fD w) (BitVec.ofNat 64 (s.rdVal a 8)) n m) ∧
      (∀ k j, u.thr k j = s.thr k j) ∧
      s.exchanged u a (storedBy f (BitVec.ofNat 64 (s.rdVal a 8)) ((s.of h).g (fB w)) ((s.of h).g (fC w))) := by
  have hpage : ((s.of h).g (fA w)).toNat % 65536 + 8 ≤ 65536 := by
    have := State.accessFault_aligned hf
    omega
  have hread := State.vrdN_page hpage ha
  have hmeet (l : List (Nat × Nat)) : s.meetV h.key l .none = s := by
    unfold State.meetV
    split
    · exact s.meet_none _ _
    · rfl
  have hset : s.settleRead h.key h.thr.val ((s.of h).g (fA w)).toNat (s.rdN a 8) = (s.rdN a 8, s) :=
    State.settleRead_ordered (by rwa [State.rdN_length])
  unfold State.of at *
  refine ⟨_, _, _, by simp only [atomicSem, hm, hf, hmv, hmeet, hb, hread, hset]; rfl, fun k j => ?_, ?_⟩
  · split
    · exact ((State.write_page (by simp [leBytes_length]) (by rwa [leBytes_length]) ha).thr k j).trans (s.thr_store _ _ _ _)
    · rfl
  · unfold storedBy State.rdVal
    split
    next v hv =>
      rw [hv]
      exact (s.exchanged_store a v).congr (State.write_page (by simp [leBytes_length]) (by rwa [leBytes_length]) ha).rd
    next hv =>
      rw [hv]
      exact s.exchanged_self a

/-- The state when an atomic of a controller has stored its word, if any. -/
def State.storedAt (s : State) (a : Nat) (v : Option W64) : State :=
  match v with
  | some v => s.store a (leBytes 8 v.toNat)
  | none => s

theorem atomicCtl_done {w : W64} {mask k o : Nat} {f : W64 → W64 → W64 → Option W64} {c : Option Nat} {s : State}
    (hm : unusedSet w mask = false)
    (hr : regionOf ((s.ctl c).g (fA w)).toNat = .core k o ∨ regionOf ((s.ctl c).g (fA w)).toNat = .cluster k o)
    (hf : s.ctlFaultAt c ((s.ctl c).g (fA w)).toNat 8 = none) (hb : s.ctlBad ((s.ctl c).g (fA w)).toNat 8 = false) :
    let a := ((s.ctl c).g (fA w)).toNat
    let old := BitVec.ofNat 64 (s.rdVal a 8)
    ∃ u, atomicCtl mask f w .none c s = .done (u.updCtl c (fun x => x.setG (fD w) old)) ∧ u.ctl c = s.ctl c ∧
      s.exchanged u a (storedBy f old ((s.ctl c).g (fB w)) ((s.ctl c).g (fC w))) := by
  intro a old
  have hs : atomicCtl mask f w .none c s =
      .done ((s.storedAt a (f old ((s.ctl c).g (fB w)) ((s.ctl c).g (fC w)))).updCtl c (fun x => x.setG (fD w) old)) := by
    rcases hr with hr | hr <;> simp only [atomicCtl, hm, hf, hr, s.ctlMeet_none, hb] <;> rfl
  refine ⟨_, hs, ?_, ?_⟩
  · unfold State.storedAt
    split
    · exact s.ctl_store _ _ _
    · rfl
  · unfold storedBy State.storedAt
    split
    next v hv =>
      rw [hv]
      exact s.exchanged_store a v
    next hv =>
      rw [hv]
      exact s.exchanged_self a

/-- Settles O3: an atomic of either agent is a read and a store at one device word. -/
theorem atomicsExchange : Obligations.AtomicsExchange := by
  intro r hr w s ho hm
  obtain ⟨f, hsf, hex⟩ := exec_atomicForm r hr
  refine ⟨fun h a hi hf hmv _ hb hord ha => ?_, fun c k o hi => ?_⟩
  · intro old
    obtain ⟨u, n, m, hs, hthr, hexch⟩ := atomicSem_done (f := f) hm hf hmv hb hord ha
    have hof : (u.swapped h (fD w) old n m).of h = (s.of h).setG (fD w) old := by
      rw [State.swapped, State.of_count, State.of_count, State.of_updThr]
      exact congrArg (·.setG (fD w) old) (hthr _ _)
    obtain ⟨t, ht, honly, hgo⟩ := issueMeaning_goesOn _ h w s _ [] _ _ _ ho hi hs
      (State.near_trans (State.near_trans (u.near_updThr h _) (State.near_count _ h _ _)) (State.near_count _ h _ _)) hof
      (by rw [Thread.setG_eq]; exact hi.ready)
    obtain ⟨hsame, hpc, hst⟩ := hgo
    obtain ⟨hword, hout⟩ := hexch.congr honly.rd
    refine ⟨t, (hex _ _ _).trans ht, fun n => ?_, hsf _ _ _ ▸ hword, hout, ⟨?_, ?_, hst⟩, fun j hj => ?_⟩
    · rw [hsame.g, Thread.g_setG]
    · rw [Thread.setG_eq] at hsame
      rw [hsame]
      rfl
    · rw [hpc, Thread.setG_eq]
    · exact (honly.2.1 j hj).trans (hthr _ _)
  · intro x a hreg hf hb old
    obtain ⟨u, hs, hctl, hexch⟩ := atomicCtl_done (f := f) hm hreg hf hb
    obtain ⟨hg, hpc, honly⟩ := u.ctlDone_setG (ctlNum c) (fD w) old
    obtain ⟨hword, hout⟩ := hexch.congr honly.rd
    refine ⟨_, (hex _ _ _).trans (issueMeaning_ctl _ c w s _ [] _ _ _ ho (ctlOpc_atomicForm r hr) hi hs), fun n => ?_,
      hsf _ _ _ ▸ hword, hout, ?_⟩
    · rw [hg, hctl]
    · rw [hpc, hctl]

end Sys2Proof.Machine
end

section
/-! The ownership of accumulator slots (R58 to R60, R259 to R261). -/
namespace Sys2Proof.Machine

/-! ### Slots -/

@[simp] theorem State.slot_updSlot_same (s : State) (k n : Nat) (f : Slot → Slot) : (s.updSlot k n f).slot k n = f (s.slot k n) := by
  rw [State.slot, State.updSlot, State.core_updCore_same]
  exact SMap.get_upd_same _ _ _ _

theorem State.slot_updSlot_ne (s : State) (k : Nat) {n m : Nat} (f : Slot → Slot) (h : m ≠ n) :
    (s.updSlot k n f).slot k m = s.slot k m := by
  rw [State.slot, State.updSlot, State.core_updCore_same]
  exact SMap.get_upd_ne _ _ _ _ _ h

@[simp] theorem State.slot_updThr (s : State) (k j t n : Nat) (f : Thread → Thread) :
    (s.updThr k t f).slot j n = s.slot j n := by
  by_cases h : j = k
  · subst h
    simp [State.slot, State.updThr]
  · simp [State.slot, State.updThr, State.core_updCore_ne _ _ _ _ h]

@[simp] theorem State.claims_updThr (s : State) (k j t : Nat) (f : Thread → Thread) :
    ((s.updThr k t f).core j).claims = (s.core j).claims := by
  by_cases h : j = k
  · subst h
    simp [State.updThr]
  · simp [State.updThr, State.core_updCore_ne _ _ _ _ h]

@[simp] theorem State.claims_updSlot (s : State) (k n : Nat) (f : Slot → Slot) :
    ((s.updSlot k n f).core k).claims = (s.core k).claims := by
  simp [State.updSlot]

@[simp] theorem State.thr_updSlot (s : State) (k n t : Nat) (f : Slot → Slot) : (s.updSlot k n f).thr k t = s.thr k t := by
  simp [State.thr, State.updSlot]

theorem State.onlyThread.slot {s t : State} {h : Hart} (g : s.onlyThread t h) (n : Nat) : t.slot h.key n = s.slot h.key n := by
  obtain ⟨-, -, hc⟩ := g
  rw [State.slot, hc, State.slot]

theorem State.onlyThread.claims {s t : State} {h : Hart} (g : s.onlyThread t h) :
    (t.core h.key).claims = (s.core h.key).claims := by
  obtain ⟨-, -, hc⟩ := g
  rw [hc]

theorem State.onlyThread_issued (s : State) (h : Hart) : s.onlyThread (s.issuedBy h) h :=
  State.onlyThread_issuedBy (s.near_refl h)

/-- A row that changed one core only, and then issued. -/
theorem State.onlyCore.issued {s u : State} {h : Hart} (g : s.onlyCore u h.key) : s.onlyCore (u.issuedBy h) h.key := by
  obtain ⟨hf, hc⟩ := g
  obtain ⟨⟨hf', hc'⟩, -, -⟩ := u.onlyThread_issued h
  exact ⟨by rw [hf', hf], fun j hj => (hc' j hj).trans (hc j hj)⟩

theorem State.onlyCore_updCore (s : State) (k : Nat) (f : Core → Core) : s.onlyCore (s.updCore k f) k :=
  ⟨rfl, fun j hj => State.core_updCore_ne s k j f hj⟩

theorem State.onlyCore.trans {s t u : State} {k : Nat} (a : s.onlyCore t k) (b : t.onlyCore u k) : s.onlyCore u k := by
  obtain ⟨a1, a2⟩ := a
  obtain ⟨b1, b2⟩ := b
  exact ⟨by rw [b1, a1], fun j hj => (b2 j hj).trans (a2 j hj)⟩

/-! ### A slot given on -/

/-- A slot leaves its owner for the thread of claim `c`. -/
def State.slotTo (s : State) (k n t : Nat) : State :=
  ((s.updCore k (fun c => { c with claims := c.claims.filter (fun x => x != (n, t)) })).updSlot k n
    (fun x => { x with owner := some t })).updThr k t (fun th => if th.wait = .slot n then th.wake else th)

theorem State.slotTo_onlyCore (s : State) (k n t : Nat) : s.onlyCore (s.slotTo k n t) k :=
  ((s.onlyCore_updCore _ _).trans (State.onlyCore_updCore _ _ _)).trans (State.onlyCore_updCore _ _ _)

theorem State.slotTo_slot (s : State) (k n t : Nat) : (s.slotTo k n t).slot k n = { s.slot k n with owner := some t } := by
  rw [State.slotTo, State.slot_updThr, State.slot_updSlot_same]
  simp [State.slot]

theorem State.slotTo_slot_ne (s : State) (k t : Nat) {n m : Nat} (h : m ≠ n) : (s.slotTo k n t).slot k m = s.slot k m := by
  rw [State.slotTo, State.slot_updThr, State.slot_updSlot_ne _ _ _ h]
  simp [State.slot]

theorem State.slotTo_claims (s : State) (k n t : Nat) :
    ((s.slotTo k n t).core k).claims = (s.core k).claims.filter (fun x => x != (n, t)) := by
  rw [State.slotTo, State.claims_updThr, State.claims_updSlot, State.core_updCore_same]

theorem State.slotTo_thr (s : State) (k n t : Nat) :
    (s.slotTo k n t).thr k t = if (s.thr k t).wait = .slot n then (s.thr k t).wake else s.thr k t := by
  have hc : (s.updCore k (fun c => { c with claims := c.claims.filter (fun x => x != (n, t)) })).thr k t = s.thr k t := by
    simp [State.thr]
  rw [State.slotTo, State.thr_updThr_same, State.thr_updSlot, hc]

theorem State.slotTo_thr_ne (s : State) (k n : Nat) {t j : Nat} (h : j ≠ t) : (s.slotTo k n t).thr k j = s.thr k j := by
  rw [State.slotTo, State.thr_updThr_ne _ _ _ _ _ h, State.thr_updSlot]
  simp [State.thr]

theorem State.freeSlot_unclaimed {s : State} {k n : Nat} (h : ∀ c ∈ (s.core k).claims, c.1 ≠ n) :
    s.freeSlot k n = s.updSlot k n (fun x => { x with owner := none }) := by
  have hf : (s.core k).claims.find? (fun c => c.1 == n) = none := List.find?_eq_none.mpr fun c hc => by simpa using h c hc
  simp [State.freeSlot, hf]

theorem State.freeSlot_claimed {s : State} {k n : Nat} {c : Nat × Nat} (h : (s.core k).claims.find? (fun c => c.1 == n) = some c)
    (hr : (s.slot k n).reel = none) :
    s.freeSlot k n = (s.updSlot k n (fun x => { x with owner := none })).slotTo k n c.2 := by
  simp [State.freeSlot, h, hr, State.slotTo]

/-- A freed slot changes the claims and slots of its core, and wakes a thread. -/
theorem State.freeSlot_onlyCore (s : State) (k n : Nat) : s.onlyCore (s.freeSlot k n) k := by
  have h := s.onlyCore_updCore k (fun c => { c with slots := c.slots.upd Slot.init n (fun x => { x with owner := none }) })
  unfold State.freeSlot
  dsimp only
  split
  · split
    · exact h
    · exact h.trans (State.slotTo_onlyCore _ _ _ _)
  · exact h

theorem State.freeSlot_slot_ne (s : State) (k : Nat) {n m : Nat} (h : m ≠ n) : (s.freeSlot k n).slot k m = s.slot k m := by
  have hs := s.slot_updSlot_ne k (fun x => { x with owner := none }) h
  unfold State.freeSlot
  dsimp only
  split
  · split
    · exact hs
    · exact (State.slotTo_slot_ne _ _ _ h).trans hs
  · exact hs

/-! ### The rows -/

theorem claimSem_unowned {w : W64} {h : Hart} {s : State} (hm : unusedSet w (mO + mqSlot) = false)
    (hr : (s.slot h.key (qSlot w)).reel = none) (ho : (s.slot h.key (qSlot w)).owner = none) :
    claimSem w h s = .done (s.updSlot h.key (qSlot w) (fun x => { x with owner := some h.thr.val })) := by
  simp only [claimSem, hm, hr, ho]
  rfl

theorem claimSem_own {w : W64} {h : Hart} {s : State} (hm : unusedSet w (mO + mqSlot) = false)
    (hr : (s.slot h.key (qSlot w)).reel = none) (ho : (s.slot h.key (qSlot w)).owner = some h.thr.val) :
    claimSem w h s = .done s := by
  simp only [claimSem, hm, hr, ho]
  rfl

/-- A thread that waits for a slot. -/
def Thread.claiming (n : Nat) (x : Thread) : Thread := { x with st := .waitSync, wait := .slot n }

theorem claimSem_waits {w : W64} {h : Hart} {s : State} (hm : unusedSet w (mO + mqSlot) = false) {o : Nat}
    (hr : (s.slot h.key (qSlot w)).reel = none) (ho : (s.slot h.key (qSlot w)).owner = some o) (hne : o ≠ h.thr.val) :
    claimSem w h s = .done ((s.updCore h.key (fun c => { c with claims := c.claims ++ [(qSlot w, h.thr.val)] })).updThr h.key
      h.thr.val (Thread.claiming (qSlot w))) := by
  simp only [claimSem, hm, hr, ho, hne]
  rfl

theorem freeSem_owned {w : W64} {h : Hart} {s : State} (hm : unusedSet w (mO + mqSlot) = false)
    (ho : (s.slot h.key (qSlot w)).owner = some h.thr.val) :
    freeSem w h s = .done ((s.order h.key h.thr.val).freeSlot h.key (qSlot w)) := by
  simp [freeSem, hm, ho]

theorem freeSem_faults {w : W64} {h : Hart} {s : State} (hm : unusedSet w (mO + mqSlot) = false)
    (ho : (s.slot h.key (qSlot w)).owner ≠ some h.thr.val) : freeSem w h s = .fault fcOwner 0 := by
  simp [freeSem, hm, ho]

/-- A thread that a row leaves as it was goes on. -/
theorem State.wentOn_issued {s u : State} {h : Hart} (hu : u.of h = s.of h) (hr : (s.of h).st = .ready) :
    Thread.wentOn (s.of h) ((u.issuedBy h).of h) := by
  rw [State.issuedBy_of, hu]
  exact Thread.next_wentOn _ hr

theorem claim_claims {w : W64} {h : Hart} {s : State} (hm : unusedSet w (mO + mqSlot) = false) (hi : s.issues h w [])
    (hop : opcOf w = 0xA0) (hr : (s.slot h.key (qSlot w)).reel = none) :
    let k := h.key
    let sl := s.slot k (qSlot w)
    ∃ t, exec (.accClaim (.thread h) w) s = .next t ∧ s.onlyCore t k ∧ s.otherThreads t h ∧
      (∀ n, n ≠ qSlot w → t.slot k n = s.slot k n) ∧
      (sl.owner = none → t.slot k (qSlot w) = { sl with owner := some h.thr.val } ∧ Thread.wentOn (s.of h) (t.of h)) ∧
      (sl.owner = some h.thr.val → t.slot k (qSlot w) = sl ∧ Thread.wentOn (s.of h) (t.of h)) ∧
      (∀ o, sl.owner = some o → o ≠ h.thr.val → t.slot k (qSlot w) = sl ∧
        (t.core k).claims = (s.core k).claims ++ [(qSlot w, h.thr.val)] ∧
        Thread.waitsAs (s.of h) (t.of h) .waitSync (.slot (qSlot w))) := by
  intro k sl
  have row {u : State} (hs : claimSem w h s = .done u) : exec (.accClaim (.thread h) w) s = .next (u.issuedBy h) :=
    issueMeaning_done 0xA0 h w s u [] [] (claimSem w) noCtl hop hi hs
  cases ho : sl.owner with
  | none =>
    let u := s.updSlot k (qSlot w) (fun x => { x with owner := some h.thr.val })
    have hg := u.onlyThread_issued h
    refine ⟨_, row (claimSem_unowned hm hr ho), (s.onlyCore_updCore _ _).issued,
      fun j hj => (hg.2.1 j hj).trans (s.thr_updSlot _ _ _ _),
      fun n hn => (hg.slot n).trans (s.slot_updSlot_ne _ _ hn), fun _ => ⟨?_, ?_⟩, nofun, nofun⟩
    · exact (hg.slot _).trans (s.slot_updSlot_same _ _ _)
    · exact State.wentOn_issued (s.thr_updSlot _ _ _ _) hi.ready
  | some o =>
    by_cases hne : o = h.thr.val
    · subst hne
      have hg := s.onlyThread_issued h
      exact ⟨_, row (claimSem_own hm hr ho), hg.1, hg.2.1, fun n _ => hg.slot n, nofun,
        fun _ => ⟨hg.slot _, State.wentOn_issued rfl hi.ready⟩, fun o ho' hne => absurd (Option.some.inj ho').symm hne⟩
    · let u := (s.updCore h.key (fun c => { c with claims := c.claims ++ [(qSlot w, h.thr.val)] })).updThr h.key
        h.thr.val (Thread.claiming (qSlot w))
      have hg := u.onlyThread_issued h
      have hslot (n : Nat) : (u.issuedBy h).slot k n = s.slot k n := by
        rw [hg.slot, State.slot_updThr]
        simp [State.slot, k]
      refine ⟨_, row (claimSem_waits hm hr ho hne), ((s.onlyCore_updCore _ _).trans (State.onlyCore_updCore _ _ _)).issued,
        fun j hj => (hg.2.1 j hj).trans ((State.thr_updThr_ne _ _ _ _ _ hj).trans (by simp [State.thr])), fun n _ => hslot n, nofun,
        fun h' => absurd (Option.some.inj h') hne, fun o' ho' _ => ⟨hslot _, ?_, ?_⟩⟩
      · rw [hg.claims, State.claims_updThr, State.core_updCore_same]
      · have hof : u.of h = (s.of h).claiming (qSlot w) := by
          rw [State.of, State.thr_updThr_same]
          simp [State.thr, State.of]
        rw [State.issuedBy_of, hof]
        exact Thread.next_waitsAs _ (by simp [Thread.claiming])

theorem free_frees {w : W64} {h : Hart} {s : State} (hm : unusedSet w (mO + mqSlot) = false) (hi : s.issues h w [])
    (hop : opcOf w = 0xA1) (ho : (s.slot h.key (qSlot w)).owner = some h.thr.val) :
    let k := h.key
    let sl := s.slot k (qSlot w)
    ∃ t, exec (.accFree (.thread h) w) s = .next t ∧ t = { s with cores := t.cores, dirty := t.dirty } ∧
      (∀ n, n ≠ qSlot w → t.slot k n = s.slot k n) ∧
      ((∀ c ∈ (s.core k).claims, c.1 ≠ qSlot w) → t.slot k (qSlot w) = { sl with owner := none } ∧
        s.otherThreads t h ∧ Thread.wentOn (s.of h) (t.of h)) ∧
      (∀ c, (s.core k).claims.find? (fun c => c.1 == qSlot w) = some c → sl.reel = none → c.2 ≠ h.thr.val →
        t.slot k (qSlot w) = { sl with owner := some c.2 } ∧
        (t.core k).claims = (s.core k).claims.filter (fun x => x != c) ∧
        ((s.thr k c.2).wait = .slot (qSlot w) → (s.thr k c.2).st = .waitSync → (t.thr k c.2).st ≠ .waitSync) ∧
        Thread.wentOn (s.of h) (t.of h)) := by
  intro k sl
  let u := (s.order k h.thr.val).freeSlot k (qSlot w)
  have hg := u.onlyThread_issued h
  have hu : (s.order k h.thr.val).onlyCore u k := State.freeSlot_onlyCore _ _ _
  refine ⟨_, issueMeaning_done 0xA1 h w s u [] [] (freeSem w) noCtl hop hi (freeSem_owned hm ho), ?_,
    fun n hn => (hg.slot n).trans (State.freeSlot_slot_ne _ _ hn), fun hc => ?_, fun c hc hr hne => ?_⟩
  · obtain ⟨hf, -⟩ := hu.issued
    rw [hf]
    rfl
  · have hu : u = (s.order k h.thr.val).updSlot k (qSlot w) (fun x => { x with owner := none }) := State.freeSlot_unclaimed hc
    have hthr (j : Nat) : u.thr k j = s.thr k j := by
      rw [hu, State.thr_updSlot]
      rfl
    refine ⟨?_, fun j hj => (hg.2.1 j hj).trans (hthr j), State.wentOn_issued (hthr _) hi.ready⟩
    rw [hg.slot, hu, State.slot_updSlot_same]
    rfl
  · let v := (s.order k h.thr.val).updSlot k (qSlot w) (fun x => { x with owner := none })
    have hu : u = v.slotTo k (qSlot w) c.2 := State.freeSlot_claimed hc hr
    have hv (j : Nat) : v.thr k j = s.thr k j := State.thr_updSlot _ _ _ _ _
    have hcl : (v.core k).claims = (s.core k).claims := State.claims_updSlot _ _ _ _
    have hcn : c.1 = qSlot w := by simpa using List.find?_some hc
    refine ⟨?_, ?_, fun hw hst => ?_, State.wentOn_issued ?_ hi.ready⟩
    · rw [hg.slot, hu, State.slotTo_slot, State.slot_updSlot_same]
      rfl
    · rw [hg.claims, hu, State.slotTo_claims, hcl, ← hcn]
    · rw [hg.2.1 _ hne, hu, State.slotTo_thr, hv, if_pos hw]
      obtain ⟨-, -, h1 | ⟨h2, -⟩⟩ := Thread.wake_waits _ hst
      · simp [h1]
      · simp [h2]
    · rw [hu]
      exact (State.slotTo_thr_ne _ _ _ (Ne.symm hne)).trans (hv _)

/-- Settles O4: a claim takes a free slot or waits, and a freed slot goes to the oldest claim. -/
theorem slotsClaimed : Obligations.SlotsClaimed := by
  intro h w s hm hi k sl
  exact ⟨fun hop hr => claim_claims hm hi hop hr, fun hop ho => free_frees hm hi hop ho,
    fun hop ho => issueMeaning_fault 0xA1 h w s [] [] (freeSem w) noCtl hop hi (freeSem_faults hm ho)⟩

end Sys2Proof.Machine
end

section
/-! Deferred faults, resumed threads and drained cores (R279, R282 to R284, R288, R829, R830). -/
namespace Sys2Proof.Machine

theorem State.updThr_congr {s : State} {k t : Nat} {f g : Thread → Thread} (h : f (s.thr k t) = g (s.thr k t)) :
    s.updThr k t f = s.updThr k t g := by
  have hc : ∀ f : Thread → Thread, s.updThr k t f =
      { s with cores := s.cores.put k { s.core k with threads := (s.core k).threads.put t (f (s.thr k t)) } } := fun _ => rfl
  rw [hc, hc, h]

/-! ### Deferred faults -/

/-- A thread whose deferred fault is taken. -/
def Thread.undeferred (x : Thread) : Thread := { x with deferred := none }

theorem State.haltDeferred_ready {s : State} {h : Hart} {d : BitVec 8 × BitVec 48 × BitVec 48} (hd : (s.of h).deferred = some d)
    (hw : (s.of h).wait = .none) :
    s.haltDeferred h.key h.thr.val =
      (s.updThr h.key h.thr.val Thread.undeferred).halt h.key h.thr.val d.1.toNat d.2.1.toNat d.2.2.toNat 0 := by
  have hb : ({ (s.of h).backUp with deferred := none } : Thread) = (s.of h).undeferred := by simp [Thread.backUp, hw, Thread.undeferred]
  have hu : s.updThr h.key h.thr.val (fun x => { x.backUp with deferred := none }) = s.updThr h.key h.thr.val Thread.undeferred :=
    State.updThr_congr hb
  unfold State.haltDeferred
  unfold State.of at hd
  simp only [hd, hu]

theorem deferredHalt_halts {h : Hart} {s : State} {d : BitVec 8 × BitVec 48 × BitVec 48} (hl : s.live = true)
    (hr : (s.of h).st = .ready) (hs : (s.of h).supEnd = false) (hd : (s.of h).deferred = some d) (hw : (s.of h).wait = .none) :
    ∃ t, exec (.deferredHalt h) s = .next t ∧ (t.of h).st = .halted ∧ (t.of h).flt.code = d.1 ∧ (t.of h).flt.entry = d.2.1 ∧
      (t.of h).flt.va = d.2.2 ∧ (t.of h).flt.v = true ∧ (t.of h).deferred = none ∧ (t.of h).pc = (s.of h).pc ∧
      (t.of h).gr = (s.of h).gr ∧ s.otherThreads t h := by
  let u := s.updThr h.key h.thr.val Thread.undeferred
  obtain ⟨hst, hflt, hof, hoth, -⟩ := (u.faultNoted_refl h d.1.toNat).haltsWith d.2.1.toNat d.2.2.toNat 0
  have hu : u.of h = (s.of h).undeferred := s.of_updThr h _
  refine ⟨_, ?_, hst, ?_, ?_, ?_, ?_, ?_, ?_, ?_, fun j hj => (hoth j hj).trans (s.thr_updThr_ne _ _ _ _ hj)⟩
  · have : exec (.deferredHalt h) s = whenLive s (s.haltDeferred h.key h.thr.val) := by
      unfold State.of at hr hs
      simp [exec, execDeferredHalt, hr, hs, Thread.atIssue]
    rw [this, State.haltDeferred_ready hd hw]
    exact if_pos hl
  · rw [hflt]
    exact (BitVec.ofNat_toNat _ _).trans (BitVec.setWidth_eq _)
  · rw [hflt]
    exact (BitVec.ofNat_toNat _ _).trans (BitVec.setWidth_eq _)
  · rw [hflt]
    exact (BitVec.ofNat_toNat _ _).trans (BitVec.setWidth_eq _)
  · rw [hflt]
  · rw [hof, hu]
    rfl
  · rw [hof, hu]
    rfl
  · rw [hof, hu]
    rfl

/-! ### Resumed threads -/

theorem threadResume_jumps {h : Hart} {s : State} {pc : W64} (hl : s.live = true) (hst : (s.of h).st = .halted)
    (hpc : (s.of h).pc ≠ pc) :
    ∃ t, exec (.threadResume h (some pc)) s = .next t ∧ s.onlyCore t h.key ∧ s.otherThreads t h ∧ (t.of h).flt.v = false ∧
      (t.of h).gr = (s.of h).gr ∧ (t.of h).vr = (s.of h).vr ∧
      Thread.jumpedTo { s.of h with flt := (t.of h).flt } (t.of h) pc := by
  have hx : (s.of h).resume pc = { s.of h with flt := { (s.of h).flt with v := false } }.jump pc := by
    simp [Thread.resume, hpc]
  have hof : (s.updThr h.key h.thr.val (·.resume pc)).of h = _ := (s.of_updThr h _).trans hx
  refine ⟨s.updThr h.key h.thr.val (·.resume pc), ?_, s.onlyCore_updCore _ _, fun j hj => s.thr_updThr_ne _ _ _ _ hj, ?_⟩
  · unfold State.of at hst
    simp [exec, execThreadResume, hst, whenLive_live _ _ hl]
  · rw [hof]
    exact ⟨rfl, rfl, rfl, Thread.jump_jumpedTo _ _⟩

/-- Thread `t` has no claim on core `k`. -/
def State.claimless (s : State) (k t : Nat) : Prop := ∀ c ∈ (s.core k).claims, c.2 ≠ t

theorem State.freeSlot_claimless {s : State} {k t : Nat} (h : s.claimless k t) (n : Nat) :
    (s.freeSlot k n).claimless k t ∧ ((s.freeSlot k n).slot k n).owner ≠ some t := by
  have hv : (s.updSlot k n (fun x => { x with owner := none })).claimless k t := by
    simpa [State.claimless] using h
  have ho : ((s.updSlot k n (fun x => { x with owner := none })).slot k n).owner ≠ some t := by simp
  unfold State.freeSlot
  dsimp only
  split
  next m hm =>
    split
    · exact ⟨hv, ho⟩
    · have hmt : m ≠ t := hv _ (List.mem_of_find?_eq_some hm)
      refine ⟨?_, ?_⟩
      · intro c hc
        change c ∈ ((State.slotTo _ k n m).core k).claims at hc
        rw [State.slotTo_claims] at hc
        exact hv c (List.mem_of_mem_filter hc)
      · change ((State.slotTo _ k n m).slot k n).owner ≠ some t
        rw [State.slotTo_slot]
        simpa using hmt
  · exact ⟨hv, ho⟩

/-- One slot of a thread's: freed where the thread owns it. -/
def State.leave (t k : Nat) (s : State) (n : Nat) : State := if (s.slot k n).owner = some t then s.freeSlot k n else s

theorem State.leave_claimless {s : State} {k t : Nat} (h : s.claimless k t) (n : Nat) :
    (s.leave t k n).claimless k t ∧ ((s.leave t k n).slot k n).owner ≠ some t := by
  unfold State.leave
  split
  · exact State.freeSlot_claimless h n
  next ho => exact ⟨h, ho⟩

theorem State.leave_slot_ne (s : State) (k t : Nat) {n m : Nat} (h : m ≠ n) : (s.leave t k n).slot k m = s.slot k m := by
  unfold State.leave
  split
  · exact s.freeSlot_slot_ne k h
  · rfl

theorem State.leaveAll_slots {k t : Nat} (l : List Nat) {s : State} (h : s.claimless k t) {n : Nat}
    (hn : n ∈ l ∨ (s.slot k n).owner ≠ some t) : ((l.foldl (State.leave t k) s).slot k n).owner ≠ some t := by
  induction l generalizing s with
  | nil => simpa using hn
  | cons m l ih =>
    obtain ⟨hc, ho⟩ := State.leave_claimless h m
    refine ih hc ?_
    by_cases hm : n = m
    · exact .inr (hm ▸ ho)
    · rw [s.leave_slot_ne k t hm]
      exact hn.imp_left fun hn => (List.mem_cons.mp hn).resolve_left hm

/-- The claims of a thread dropped. -/
def State.unclaimed (s : State) (k t : Nat) : State :=
  s.updCore k (fun c => { c with claims := c.claims.filter (fun x => x.2 != t) })

theorem State.freeSlots_eq (s : State) (k t : Nat) : s.freeSlots k t = (upTo 8).foldl (State.leave t k) (s.unclaimed k t) := rfl

theorem State.unclaimed_claimless (s : State) (k t : Nat) : (s.unclaimed k t).claimless k t := by
  intro c hc
  rw [State.unclaimed, State.core_updCore_same] at hc
  simpa using (List.mem_filter.mp hc).2

/-- A thread that ends owns no slot. -/
theorem State.freeSlots_owner (s : State) (k t : Nat) {n : Nat} (hn : n < 8) : ((s.freeSlots k t).slot k n).owner ≠ some t := by
  rw [State.freeSlots_eq]
  exact State.leaveAll_slots (upTo 8) (s.unclaimed_claimless k t) (.inl (List.mem_range.mpr hn))

/-- What a thread that ends does with its slots changes its core alone. -/
theorem State.freeSlots_onlyCore (s : State) (k t : Nat) : s.onlyCore (s.freeSlots k t) k := by
  rw [State.freeSlots_eq]
  refine List.foldlRecOn (motive := fun u : State => s.onlyCore u k) _ _ (s.onlyCore_updCore k _) fun u hu n _ => ?_
  unfold State.leave
  split
  · exact hu.trans (u.freeSlot_onlyCore k n)
  · exact hu

/-! ### Threads that end -/

/-- The thread that FREE leaves. -/
def Thread.finished (now : W64) (x : Thread) : Thread :=
  { x with
    st := .free, wait := .none, ending := false, tags := [], deferred := none, pendV := [], load := none,
    fcur := none, fwords := [], fnext := none, fnwords := [], freq := [], freeNs := now }

theorem State.finishThread_eq (s : State) (k t : Nat) :
    s.finishThread k t = ((s.freeSlots k t).orderAll k t).updThr k t (Thread.finished s.nsW) := rfl

theorem State.slot_orderAll (s : State) (k t j n : Nat) : (s.orderAll k t).slot j n = s.slot j n := rfl
theorem State.thr_orderAll (s : State) (k t j n : Nat) : (s.orderAll k t).thr j n = s.thr j n := rfl

theorem State.finishThread_owner (s : State) (k t : Nat) {n : Nat} (hn : n < 8) :
    ((s.finishThread k t).slot k n).owner ≠ some t := by
  rw [State.finishThread_eq, State.slot_updThr, State.slot_orderAll]
  exact s.freeSlots_owner k t hn

theorem State.finishThread_thr (s : State) (k t : Nat) :
    (s.finishThread k t).thr k t = ((s.freeSlots k t).thr k t).finished s.nsW := by
  rw [State.finishThread_eq, State.thr_updThr_same, State.thr_orderAll]

theorem Thread.wake_flt (x : Thread) : x.wake.flt = x.flt := by
  unfold Thread.wake Thread.goOn
  dsimp only
  split
  · rfl
  · split
    · rfl
    · split <;> rfl

theorem State.freeSlot_flt (s : State) (k n j : Nat) : ((s.freeSlot k n).thr k j).flt = (s.thr k j).flt := by
  have hv := s.thr_updSlot k n j (fun x => { x with owner := none })
  unfold State.freeSlot
  dsimp only
  split
  next m hm =>
    split
    · rw [hv]
    · change ((State.slotTo _ k n m).thr k j).flt = _
      by_cases hj : j = m
      · subst hj
        rw [State.slotTo_thr, hv]
        split
        · exact Thread.wake_flt _
        · rfl
      · rw [State.slotTo_thr_ne _ _ _ hj, hv]
  · rw [hv]

theorem State.freeSlots_flt (s : State) (k t j : Nat) : ((s.freeSlots k t).thr k j).flt = (s.thr k j).flt := by
  rw [State.freeSlots_eq]
  have h0 : ((s.unclaimed k t).thr k j).flt = (s.thr k j).flt := by simp [State.unclaimed, State.thr]
  refine List.foldlRecOn (motive := fun u : State => (u.thr k j).flt = (s.thr k j).flt) _ _ h0 fun u hu n _ => ?_
  unfold State.leave
  split
  · rw [State.freeSlot_flt, hu]
  · exact hu

/-- A halted thread that the supervisor ends. -/
def Thread.supEnded (x : Thread) : Thread :=
  { x with st := .waitMem, wait := .ending, ending := true, supEnd := true, flt := { x.flt with v := false } }

/-- The job of the thread's core has a thread that the supervisor ended. -/
def State.noteEnded (s : State) (h : Hart) : State :=
  match (s.core h.key).job with
  | some j => s.updJob (s.partOf h.key) j (fun x => { x with faulted := true })
  | none => s

theorem State.noteEnded_core (s : State) (h : Hart) (k : Nat) : (s.noteEnded h).core k = s.core k := by
  unfold State.noteEnded
  split <;> rfl

/-- The state in which the supervisor has ended a thread that may still have work in the engines. -/
def State.supEnd (s : State) (h : Hart) : State :=
  ((s.freeSlots h.key h.thr.val).updThr h.key h.thr.val Thread.supEnded).noteEnded h

theorem State.supEnd_core (s : State) (h : Hart) :
    (s.supEnd h).core h.key = ((s.freeSlots h.key h.thr.val).updThr h.key h.thr.val Thread.supEnded).core h.key :=
  State.noteEnded_core _ _ _

theorem State.supEnd_of (s : State) (h : Hart) : (s.supEnd h).of h = ((s.freeSlots h.key h.thr.val).of h).supEnded := by
  rw [State.of, State.thr, State.supEnd_core]
  exact (s.freeSlots h.key h.thr.val).of_updThr h Thread.supEnded

theorem State.supEnd_owner (s : State) (h : Hart) {n : Nat} (hn : n < 8) :
    ((s.supEnd h).slot h.key n).owner ≠ some h.thr.val := by
  rw [State.slot, State.supEnd_core]
  have hs := (s.freeSlots h.key h.thr.val).slot_updThr h.key h.key h.thr.val n Thread.supEnded
  rw [State.slot] at hs
  rw [hs]
  exact s.freeSlots_owner _ _ hn

theorem execThreadResume_end (h : Hart) (s : State) :
    exec (.threadResume h none) s = whenLive s (if (s.of h).st ≠ .halted then s
      else if (s.supEnd h).mayFinish h.key h.thr.val then (s.supEnd h).finishThread h.key h.thr.val else s.supEnd h) := by
  change execThreadResume h none s = _
  unfold execThreadResume State.supEnd State.noteEnded
  dsimp only
  generalize s.freeSlots h.key h.thr.val = u
  rfl

theorem threadResume_ends {h : Hart} {s : State} (hl : s.live = true) (hst : (s.of h).st = .halted) :
    ∃ t, exec (.threadResume h none) s = .next t ∧ (t.of h).flt.v = false ∧
      (∀ n, n < 8 → (t.slot h.key n).owner ≠ some h.thr.val) ∧
      ((t.of h).st = .free ∨ ((t.of h).ending = true ∧ (t.of h).supEnd = true)) := by
  have hex : exec (.threadResume h none) s =
      .next (if (s.supEnd h).mayFinish h.key h.thr.val then (s.supEnd h).finishThread h.key h.thr.val else s.supEnd h) := by
    rw [execThreadResume_end, whenLive_live _ _ hl, if_neg (not_not.mpr hst)]
  have hof := s.supEnd_of h
  have hown (n : Nat) (hn : n < 8) := s.supEnd_owner h hn
  rw [hex]
  generalize s.supEnd h = u at hof hown
  refine ⟨_, rfl, ?_⟩
  split
  · have hf := u.freeSlots_flt h.key h.thr.val h.thr.val
    have ht : (u.finishThread h.key h.thr.val).of h = _ := u.finishThread_thr h.key h.thr.val
    refine ⟨?_, fun n hn => u.finishThread_owner _ _ hn, .inl ?_⟩
    · have hv : (u.of h).flt.v = false := by
        rw [hof]
        rfl
      rw [ht, Thread.finished, hf]
      exact hv
    · rw [ht]
      rfl
  · rw [hof]
    exact ⟨rfl, hown, .inr ⟨rfl, rfl⟩⟩

/-! ### Drained cores -/

/-- A thread halted with BREAK at its next instruction. -/
def Thread.broken (x : Thread) : Thread :=
  { x with st := .halted, wait := .none, flt := { code := 0x0F#8, v := true, pc := x.pc.setWidth 48, entry := 0#48, va := 0#48, imm := 0#32 } }

theorem State.thr_haltBreak (s : State) (k t : Nat) : (s.halt k t fcBreak 0 0 0).thr k t = (s.thr k t).broken := by
  unfold State.halt
  extract_lets th u v
  have hv : v.cores = u.cores := (u.traceRec_onlyDailies _ _ _ _ _).cores
  have hu : u.thr k t = _ := s.thr_updThr_same _ _ _
  have hc : (v.ctlEvent (some (keyCl k)) (eventWord 0 (v.logOf k).2 t fcBreak 0)).core k = u.core k := State.core_congr hv k
  rw [State.thr, hc]
  exact hu

/-- What a drained core's only thread becomes. -/
theorem State.thr_haltDrained {s : State} {k n : Nat} (hr : (s.thr k n).st = .ready) (hd : (s.thr k n).deferred = none)
    (he : (s.thr k n).supEnd = false) (hw : (s.thr k n).wait = .none) : (s.haltDrained k n).thr k n = (s.thr k n).broken := by
  have h : s.haltDrained k n = (s.halt k n fcBreak 0 0 0).updThr k n (fun x => { x with wait := .none }) := by
    simp [State.haltDrained, hr, hd, he, hw]
  rw [h, State.thr_updThr_same, State.thr_haltBreak]
  rfl

theorem coreDrainDone_halts {c : CoreId} {s : State} {n : Nat} {x : Thread} (hl : s.live = true)
    (hdr : (s.core c.key).draining = true) (hq : (s.core c.key).queue = []) (hdq : (s.core c.key).dmaq = [])
    (ht : (s.core c.key).threads = [(n, x)]) (hr : x.st = .ready) (hload : x.load = none) (hd : x.deferred = none)
    (he : x.supEnd = false) (hw : x.wait = .none) (hall : (s.core c.key).drainAll = false) :
    ∃ t, exec (.coreDrainDone c) s = .next t ∧ (t.core c.key).draining = false ∧ (t.thr c.key n).st = .halted ∧
      (t.thr c.key n).flt.code = 0x0F#8 ∧ (t.thr c.key n).pc = x.pc ∧ (t.thr c.key n).gr = x.gr := by
  have hx : s.thr c.key n = x := by simp [State.thr, ht, SMap.get, SMap.find]
  have hex : exec (.coreDrainDone c) s =
      .next ((s.haltDrained c.key n).updCore c.key (fun y => { y with draining := false, drainAll := false })) := by
    refine (whenLive_live _ _ hl).trans ?_
    simp [hdr, hq, hdq, ht, hload, hall, SMap.keys]
  have hb := State.thr_haltDrained (hx ▸ hr) (hx ▸ hd) (hx ▸ he) (hx ▸ hw)
  have hthr : ((s.haltDrained c.key n).updCore c.key (fun y => { y with draining := false, drainAll := false })).thr c.key n =
      x.broken := by
    rw [State.thr, State.core_updCore_same, ← hx]
    exact hb
  refine ⟨_, hex, by rw [State.core_updCore_same], ?_⟩
  rw [hthr]
  exact ⟨rfl, rfl, rfl, rfl⟩

/-- Settles O6: a deferred fault halts its thread, a halted thread resumes or ends, and a drained core halts. -/
theorem haltsAndResumes : Obligations.HaltsAndResumes :=
  ⟨fun _ _ _ hl hr hs hd hw => deferredHalt_halts hl hr hs hd hw, fun _ _ _ hl hst hpc => threadResume_jumps hl hst hpc,
    fun _ _ hl hst => threadResume_ends hl hst,
    fun _ _ _ _ hl hdr hq hdq ht hr hload hd he hw hall => coreDrainDone_halts hl hdr hq hdq ht hr hload hd he hw hall⟩

end Sys2Proof.Machine
end

section
/-! Instructions that enter the array queue (R186, R237, R241 to R243, R318 to R321, R371 to R376, R416, R420). -/
namespace Sys2Proof.Machine

/-! ### An entry at the end of the queue -/

/-- A core with an entry more. -/
def Core.pushed (e : QEntry) (c : Core) : Core := { c with serial := e.serial + 1, queue := c.queue ++ [e] }

/-- A thread with more pending registers. -/
def Thread.pending (l : List Nat) (x : Thread) : Thread := { x with pendV := x.pendV ++ l }

theorem State.pushEntry_eq (s : State) (h : Hart) (w : W64) {e : QEntry} (he : e.begun = false) (pend : List Nat) :
    s.pushEntry h.key h.thr.val w e pend =
      (s.updCore h.key (Core.pushed (Claims.entryOf s h w e))).updThr h.key h.thr.val (Thread.pending pend) := by
  rw [Claims.entryOf, ← he]
  rfl

/-- What a row that pushed an entry has done when its issue is over. -/
theorem State.pushEntry_queued {s : State} {h : Hart} (hr : (s.of h).st = .ready) (w : W64) {e : QEntry}
    (he : e.begun = false) (pend : List Nat) :
    Claims.queued s ((s.pushEntry h.key h.thr.val w e pend).issuedBy h) h (Claims.entryOf s h w e) pend := by
  let v := s.updCore h.key (Core.pushed (Claims.entryOf s h w e))
  let u := v.updThr h.key h.thr.val (Thread.pending pend)
  have hv (j : Nat) : v.thr h.key j = s.thr h.key j := by simp [v, State.thr, Core.pushed]
  have hc : v.core h.key = (s.core h.key).pushed (Claims.entryOf s h w e) := State.core_updCore_same _ _ _
  obtain ⟨honly, hoth, hcore⟩ : v.onlyThread (u.issuedBy h) h := State.onlyThread_issuedBy (v.near_updThr h _)
  have hof : (u.issuedBy h).of h = ((s.of h).pending pend).next := by
    rw [State.issuedBy_of, State.of_updThr]
    exact congrArg (fun x : Thread => (x.pending pend).next) (hv _)
  rw [hc] at hcore
  obtain ⟨hsame, hgo⟩ := Thread.next_wentOn ((s.of h).pending pend) hr
  rw [State.pushEntry_eq s h w he]
  refine ⟨by rw [hcore]; rfl, (s.onlyCore_updCore _ _).trans honly, fun j hj => (hoth j hj).trans (hv j),
    hcore.trans (by rw [hcore]; rfl), ?_⟩
  rw [hof]
  refine ⟨by rw [hsame]; rfl, ?_, hgo⟩
  unfold Thread.sameBut at *
  rw [hsame]
  rfl

/-- A row whose entry enters the queue. -/
theorem issueMeaning_queued (op : Nat) (h : Hart) (w : W64) (s : State) (vregs : List Nat) (touch : List (Nat × Nat × Nat))
    (thr : Hart → State → Res) (ctl : Option Nat → State → Res) {e : QEntry} (pend : List Nat) (ho : opcOf w = op)
    (he : e.begun = false) (hi : s.issues h w vregs) (hs : thr h s = .done (s.pushEntry h.key h.thr.val w e pend)) :
    ∃ t, issueMeaning op (.thread h) w s vregs touch thr ctl = .next t ∧ Claims.queued s t h (Claims.entryOf s h w e) pend :=
  ⟨_, issueMeaning_done _ h w s _ _ _ _ _ ho hi hs, State.pushEntry_queued hi.ready w he pend⟩

/-! ### The matrix class -/

/-- The entry of a form before its issue. -/
def formEntry (r : Claims.QueueForm) (w : W64) (x : Thread) : QEntry :=
  { QEntry.init with va := r.va w x, vb := r.vb w x, vc := r.vc w x, rs := r.rs w x }

/-- The vector registers that a form leaves pending. -/
def formPend (r : Claims.QueueForm) (w : W64) : List Nat := if r.op = 0x91 ∧ qRs w then [qRv w] else []

/-- The row of a form is the issue of one entry, with an encoding condition that legal words meet. -/
def QueueRow (r : Claims.QueueForm) : Prop :=
  ∀ (h : Hart) (w : W64) (s : State), ∃ ill thr,
    exec (r.ins (.thread h) w) s = issueMeaning r.op (.thread h) w s (r.regs w) [] thr noCtl ∧
    (r.legal w (s.of h) = true → ill = false) ∧
    thr h s = mxSem ill w h s (r.slots w) (r.aligned w (s.of h)) (r.ranges w (s.of h)) (formEntry r w (s.of h)) (formPend r w)

theorem queueRow_of {r : Claims.QueueForm} {thr : W64 → Hart → State → Res} {ill : W64 → Thread → Bool}
    (hex : ∀ h w s, exec (r.ins (.thread h) w) s = issueMeaning r.op (.thread h) w s (r.regs w) [] (thr w) noCtl)
    (hs : ∀ h w s, thr w h s = mxSem (ill w (s.of h)) w h s (r.slots w) (r.aligned w (s.of h)) (r.ranges w (s.of h))
      (formEntry r w (s.of h)) (formPend r w))
    (hill : ∀ w x, r.legal w x = true → ill w x = false) : QueueRow r :=
  fun h w s => ⟨_, _, hex h w s, hill w (s.of h), hs h w s⟩

theorem queueRows : ∀ r ∈ Claims.queueForms, QueueRow r := by
  simp only [Claims.queueForms, List.cons_append, List.nil_append, List.forall_mem_cons, List.not_mem_nil, false_implies]
  refine ⟨?mloadw, ?mmul, ?zero, ?save, ?merge, ?load, ?drain, ?drainQ, ?fuse, ?gate, fun _ => trivial⟩
  case mloadw =>
    refine queueRow_of (thr := mloadwSem) (ill := fun w x => unusedSet w (mO + mqBuf + mqFmt + mqE + mqA + mqB) ||
      !kFmt (qFmt w) || (qE w && (qFmt w != 1 || x.g (qB w) != 0#64))) (fun _ _ _ => rfl) (fun _ _ _ => rfl) fun w x hl => ?_
    simp only [Claims.mxForm, Bool.and_eq_true, Bool.not_eq_true'] at hl
    simp [hl]
  case mmul =>
    refine queueRow_of (thr := mmulSem) (ill := fun w _ =>
      unusedSet w (mO + mqSlot + mqOvw + mqRs + mqRv + mqA + mqB + mqM + mqFmt + mqBuf + mqKv) || !kFmt (qFmt w) ||
      decide (qKv w ≥ kB (qFmt w)) || (qRs w && qFmt w != 7 && qFmt w != 8)) (fun _ _ _ => rfl) (fun h w s => ?_) fun w x hl => ?_
    · simp only [mmulSem, formPend, Claims.mxForm, true_and]
      rfl
    · simp only [Claims.mxForm, Bool.and_eq_true, Bool.not_eq_true', decide_eq_true_eq] at hl
      simp [hl]
  case zero =>
    refine queueRow_of (thr := zeroSem) (ill := fun w _ =>
      unusedSet w mZero || zKind w == 3 || (zMode w && zKind w != 0) || (zF w != 0 && zKind w != 2))
      (fun _ _ _ => rfl) (fun _ _ _ => rfl) fun w x hl => ?_
    simp only [Claims.mxForm, Bool.and_eq_true, Bool.not_eq_true', bne_iff_ne, ne_eq] at hl
    simp [hl]
  case save =>
    refine queueRow_of (thr := ladderSem (mO + mqSlot + mqA) true) (ill := fun w _ => unusedSet w (mO + mqSlot + mqA))
      (fun _ _ _ => rfl) (fun _ _ _ => rfl) fun w x hl => ?_
    simpa [Claims.mxForm] using hl
  case merge =>
    refine queueRow_of (thr := ladderSem (mO + mqSlot + mqOvw + mqA) false) (ill := fun w _ => unusedSet w (mO + mqSlot + mqOvw + mqA))
      (fun _ _ _ => rfl) (fun _ _ _ => rfl) fun w x hl => ?_
    simpa [Claims.mxForm] using hl
  case load =>
    refine queueRow_of (thr := ladderSem (mO + mqSlot + mqA) false) (ill := fun w _ => unusedSet w (mO + mqSlot + mqA))
      (fun _ _ _ => rfl) (fun _ _ _ => rfl) fun w x hl => ?_
    simpa [Claims.mxForm] using hl
  case drain =>
    refine queueRow_of (thr := drainSem) (ill := fun w _ =>
      unusedSet w (mO + mqSlot + mqA + mqB + mqM + mqFmt + mqFus) || decide (qFmt w > 2))
      (fun _ _ _ => rfl) (fun _ _ _ => rfl) fun w x hl => ?_
    simpa [Claims.mxForm] using hl
  case drainQ =>
    refine queueRow_of (thr := drainQSem) (ill := fun w _ =>
      unusedSet w (mO + mqSlot + mqRs + mqRv + mqA + mqB + mqC + mqM + mqFus))
      (fun _ _ _ => rfl) (fun _ _ _ => rfl) fun w x hl => ?_
    simpa [Claims.mxForm] using hl
  case fuse =>
    refine queueRow_of (thr := fuseSem) (ill := fun w _ => unusedSet w (mO + mA + mIn 4) || fImm w % 16 == 0)
      (fun _ _ _ => rfl) (fun _ _ _ => rfl) fun w x hl => ?_
    simpa using hl
  case gate =>
    refine queueRow_of (thr := gateSem) (ill := fun w _ => unusedSet w (mO + mA + mB + mIn 6))
      (fun _ _ _ => rfl) (fun _ _ _ => rfl) fun w x hl => ?_
    simpa using hl

theorem mxSem_queued {w : W64} {h : Hart} {s : State} {slots : List Nat} {aligned : List (Nat × Nat)} {rs : List Range} {e : QEntry}
    {pend : List Nat} (hq : (s.core h.key).queue.length < 16)
    (hf : s.operandFault h.key h.thr.val slots aligned rs = none) :
    mxSem false w h s slots aligned rs e pend = .done (s.pushEntry h.key h.thr.val w e pend) := by
  simp [mxSem, queueSem, Nat.not_le.mpr hq, hf]

/-- A thread that waits for room in the queue. -/
def Thread.forRoom (x : Thread) : Thread := { x with st := .waitMtx, wait := .mtx }

theorem mxSem_full {w : W64} {h : Hart} {s : State} {slots : List Nat} {aligned : List (Nat × Nat)} {rs : List Range} {e : QEntry}
    {pend : List Nat} (hq : 16 ≤ (s.core h.key).queue.length) :
    mxSem false w h s slots aligned rs e pend = .block (s.updThr h.key h.thr.val Thread.forRoom) := by
  simp only [mxSem, queueSem, ge_iff_le, hq]
  rfl

theorem matrixEntersQueue : Claims.MatrixEntersQueue := by
  intro r hr h w s ho hl hi
  obtain ⟨ill, thr, hex, hill, hs⟩ := queueRows r hr h w s
  rw [hill hl] at hs
  rw [hex]
  refine ⟨fun hq hf => ?_, fun hq => ?_⟩
  · exact issueMeaning_queued r.op h w s _ _ _ _ _ ho rfl hi (hs.trans (mxSem_queued hq hf))
  · refine ⟨_, issueMeaning_block r.op h w s _ _ _ _ _ ho hi (hs.trans (mxSem_full hq)), s.of_updThr h _, ?_⟩
    obtain ⟨honly, hoth, -⟩ := s.near_updThr h Thread.forRoom
    exact ⟨hoth, honly, by rw [State.updThr, State.core_updCore_same]⟩

/-! ### Descriptors read at issue -/

theorem queueSem_room {h : Hart} {s : State} (f : State → Res) (hq : (s.core h.key).queue.length < 16) :
    queueSem false h s f = f s := by
  simp [queueSem, Nat.not_le.mpr hq]

theorem descSem_readable {h : Hart} {s : State} {va len align : Nat} (f : List Byte → Res) (hr : Claims.readable s h va len align) :
    descSem h.key h.thr.val va len align s f = f (s.vrdN (s.partOf h.key) va len) := by
  obtain ⟨hs, ha, hf, hmv, hb⟩ := hr
  simp [descSem, hs, ha, hf, hmv, hb]

theorem State.operandFault_priv {s : State} {k t : Nat} {slots : List Nat} {aligned : List (Nat × Nat)} {rs : List Range}
    (h : s.operandFault k t slots aligned rs = none) : privOf rs = none := by
  unfold State.operandFault at h
  split at h
  · simp at h
  next hp => exact hp

theorem attnSem_queued {op : Nat} {w : W64} {h : Hart} {s : State} (hm : unusedSet w (mO + mD + mA + 0x3 * 2 ^ 28) = false)
    (hx : fX w % 4 = op) (h2 : fD w % 2 = 0) (h14 : fD w ≤ 14) (hq : (s.core h.key).queue.length < 16)
    (hr : Claims.readable s h ((s.of h).g (fA w)).toNat 128 128)
    (hbad : attnBad (s.vrdN (s.partOf h.key) ((s.of h).g (fA w)).toNat 128) = false)
    (hf : let d := s.vrdN (s.partOf h.key) ((s.of h).g (fA w)).toNat 128
      s.operandFault h.key h.thr.val (attnSlots d) ((attnAligned op d).map (fun a => (a, 64))) (ownRanges (attnRanges op d)) = none) :
    attnSem op w h s = .done (s.pushEntry h.key h.thr.val w
      { QEntry.init with desc := s.vrdN (s.partOf h.key) ((s.of h).g (fA w)).toNat 128 } [fD w, fD w + 1]) := by
  have hill : (unusedSet w (mO + mD + mA + 0x3 * 2 ^ 28) || fX w % 4 != op || fD w % 2 != 0 || decide (fD w > 14)) = false := by
    rw [hm]
    simp [hx, h2, h14]
  unfold State.of at *
  dsimp only at hf
  simp only [attnSem, hill, queueSem_room _ hq, descSem_readable _ hr, State.operandFault_priv hf, hbad, hf]
  rfl

theorem recSem_queued {w : W64} {h : Hart} {s : State} {c : Chunk} (hm : unusedSet w (mO + mA) = false)
    (hq : (s.core h.key).queue.length < 16) (hc : s.chunkOf h.key h.thr.val = some c)
    (hr : Claims.readable s h ((s.of h).g (fA w)).toNat 64 1)
    (hk : rlKind (s.reelRec (s.partOf h.key) (hIdx c.handle.toNat)) < 2)
    (hbad : let r := s.reelRec (s.partOf h.key) (hIdx c.handle.toNat)
      runBad (s.vrdN (s.partOf h.key) ((s.of h).g (fA w)).toNat 64) (rlKind r == 1) c.len.toNat = false)
    (hf : let r := s.reelRec (s.partOf h.key) (hIdx c.handle.toNat)
      s.operandFault h.key h.thr.val [] []
        (ownRanges (runRanges (s.vrdN (s.partOf h.key) ((s.of h).g (fA w)).toNat 64) (rlWidth r))) = none) :
    recSem w h s = .done (s.pushEntry h.key h.thr.val w
      { QEntry.init with
        desc := s.vrdN (s.partOf h.key) ((s.of h).g (fA w)).toNat 64, reel := some (hIdx c.handle.toNat) } []) := by
  unfold State.of at *
  dsimp only at hf hbad
  simp only [recSem, hm, queueSem_room _ hq, hc, Nat.not_le.mpr hk, descSem_readable _ hr, State.operandFault_priv hf, hbad, hf]
  rfl

theorem recSem_noChunk {w : W64} {h : Hart} {s : State} (hm : unusedSet w (mO + mA) = false)
    (hq : (s.core h.key).queue.length < 16) (hc : s.chunkOf h.key h.thr.val = none) : recSem w h s = .fault fcNoChunk 0 := by
  simp [recSem, hm, queueSem_room _ hq, hc]

theorem nmsSem_queued {w : W64} {h : Hart} {s : State} (hm : unusedSet w (mO + mA) = false)
    (hq : (s.core h.key).queue.length < 16) (hr : Claims.readable s h ((s.of h).g (fA w)).toNat 64 1)
    (hbad : nmsBad (s.vrdN (s.partOf h.key) ((s.of h).g (fA w)).toNat 64) = false)
    (hf : s.operandFault h.key h.thr.val [] []
      (ownRanges (nmsRanges (s.vrdN (s.partOf h.key) ((s.of h).g (fA w)).toNat 64))) = none) :
    nmsSem w h s = .done (s.pushEntry h.key h.thr.val w
      { QEntry.init with desc := s.vrdN (s.partOf h.key) ((s.of h).g (fA w)).toNat 64 } []) := by
  unfold State.of at *
  simp only [nmsSem, hm, queueSem_room _ hq, descSem_readable _ hr, State.operandFault_priv hf, hbad, hf]
  rfl

theorem attn_queued {op : Nat} {h : Hart} {w : W64} {s : State} (hq : (s.core h.key).queue.length < 16) (ho : opcOf w = 0xB0)
    (hm : unusedSet w (mO + mD + mA + 0x3 * 2 ^ 28) = false) (hx : fX w % 4 = op) (h2 : fD w % 2 = 0) (h14 : fD w ≤ 14)
    (hi : s.issues h w [fD w, fD w + 1]) (hr : Claims.readable s h ((s.of h).g (fA w)).toNat 128 128)
    (hbad : attnBad (s.vrdN (s.partOf h.key) ((s.of h).g (fA w)).toNat 128) = false)
    (hf : let d := s.vrdN (s.partOf h.key) ((s.of h).g (fA w)).toNat 128
      s.operandFault h.key h.thr.val (attnSlots d) ((attnAligned op d).map (fun a => (a, 64))) (ownRanges (attnRanges op d)) = none) :
    ∃ t, attnRow op (.thread h) w s = .next t ∧ Claims.queued s t h (Claims.entryOf s h w
      { QEntry.init with desc := s.vrdN (s.partOf h.key) ((s.of h).g (fA w)).toNat 128 }) [fD w, fD w + 1] := by
  have hrow : attnRow op (.thread h) w s = issueMeaning 0xB0 (.thread h) w s [fD w, fD w + 1] [] (attnSem op w) noCtl := by
    simp [attnRow, hx]
  rw [hrow]
  exact issueMeaning_queued _ h w s _ _ _ _ _ ho rfl hi (attnSem_queued hm hx h2 h14 hq hr hbad hf)

theorem descriptorsEnterQueue : Claims.DescriptorsEnterQueue := by
  intro h w s hq va
  refine ⟨?_, fun ho hm hi hr c hc hk hbad hf => ?_, fun ho hm hi hc => ?_, fun ho hm hi hr hbad hf => ?_⟩
  · simp only [List.forall_mem_cons, List.not_mem_nil, false_implies]
    exact ⟨fun ho hm hx h2 h14 hi hr hbad hf => attn_queued hq ho hm hx h2 h14 hi hr hbad hf,
      fun ho hm hx h2 h14 hi hr hbad hf => attn_queued hq ho hm hx h2 h14 hi hr hbad hf,
      fun ho hm hx h2 h14 hi hr hbad hf => attn_queued hq ho hm hx h2 h14 hi hr hbad hf, fun _ => trivial⟩
  · exact issueMeaning_queued 0xB2 h w s [] [] (recSem w) noCtl _ ho rfl hi (recSem_queued hm hq hc hr hk hbad hf)
  · exact issueMeaning_fault 0xB2 h w s [] [] (recSem w) noCtl ho hi (recSem_noChunk hm hq hc)
  · exact issueMeaning_queued 0xBA h w s [] [] (nmsSem w) noCtl _ ho rfl hi (nmsSem_queued hm hq hr hbad hf)

/-- Settles O40: a legal word whose operands raise no fault pushes its entry, and a full queue makes it wait. -/
theorem queueInstructions : Obligations.QueueInstructions := ⟨matrixEntersQueue, descriptorsEnterQueue⟩

end Sys2Proof.Machine
end

section
/-! DMA instructions: a MOVE that a step issues is noted with the step's job (R799), which the statement leaves as it was. -/
namespace Sys2Proof.Machine

/-- MOVE of no page at address 0: D, A and B name g0. -/
def moveWord : W64 := 0x82#64

/-- Job 0 of partition 0 runs a step on core 0, where thread 0 is READY at the MOVE. -/
def movingStep : State :=
  let s := spillState { Thread.init with st := .ready, pc := 0x20080#64, fcur := some 0x20080#64, fwords := List.replicate 16 moveWord } 0#40
  (s.updCore 0 (fun c => { c with job := some 0 })).updJob 0 0 (fun x => { x with running := some 0 })

/-- Whether an outcome has job 0 of partition 0 noted as one whose step has issued a MOVE. -/
def Out.moved (o : Out) : Option Bool := match o with
  | .next t => some (t.job 0 0).moved
  | _ => none

theorem movingStep_moved : Out.moved (exec (.move (.thread spillHart) moveWord) movingStep) = some true := by decide +kernel

theorem movingStep_issues : movingStep.issues spillHart moveWord [] :=
  ⟨by decide, by decide, fun n _ => (by decide : bitAt Bp.init.ctl.toNat 0 = false)⟩

/-- Refutes O41: a MOVE changes more than cores and unordered writes; the job of the step that issues it keeps that it did (R799). -/
theorem not_engineInstructions : ¬ Obligations.EngineInstructions := by
  rintro ⟨h, -⟩
  obtain ⟨-, -, -, hmove, -⟩ := h spillHart moveWord movingStep movingStep_issues
  obtain ⟨t, ht, -, hframe, -⟩ := hmove (by decide) (by decide) (by decide) (by decide) (by decide) 0
    ⟨by decide, by decide, by simp⟩
  have hjob : (t.job 0 0).moved = (movingStep.job 0 0).moved := by
    rw [hframe]
    rfl
  have hmoved : (t.job 0 0).moved = true := Option.some.inj ((congrArg Out.moved ht).symm.trans movingStep_moved)
  rw [hmoved] at hjob
  exact absurd hjob (by decide)

end Sys2Proof.Machine
end

section
/-! The requests of operations that time out (R629): those of the scheduler (R399) name no operation. -/
namespace Sys2Proof.Machine

/-- A read of the scheduler for a sequence's page: it names core 0 and operation 0, as every request starts out. -/
def kvRequest : HostReq := { HostReq.init with bytes := 64, posted := true, kv := some (0, 0, 0, 0) }

/-- Operation 0 of core 0 runs, and the request of the scheduler has been outstanding for 1 s. -/
def kvWaiting : State :=
  let s := spillState Thread.init 0#40
  ({ s with time := { s.time with slate := BitVec.ofNat 96 (1000000000 * 2 ^ 32) } }.updCore 0
    (fun c => { c with dmaq := [{ DmaOp.init with started := true }] })).updFunc 0 (fun f => { f with reqs := [kvRequest] })

/-- The statuses of the operations of core 0 in an outcome. -/
def Out.statuses (o : Out) : Option (List (Option (BitVec 16))) := match o with
  | .next t => some ((t.core 0).dmaq.map (fun x => x.status))
  | _ => none

theorem kvWaiting_statuses : Out.statuses (exec (.hostRequestTimeout 0 0#32) kvWaiting) = some [none] := by decide +kernel

/-- Refutes O46: a timeout of a request of the scheduler leaves every operation as it was, also the one with the number that the
request carries. -/
theorem not_movesAndEnds : ¬ Obligations.MovesAndEnds := by
  rintro ⟨-, -, -, h⟩
  obtain ⟨t, ht, -, ⟨x, hx, hst, -⟩, -⟩ := h 0 0#32 kvWaiting kvRequest { DmaOp.init with started := true } (by decide)
    ⟨by decide, by decide, by decide, by decide, by decide⟩ (by decide)
    (by decide) (by decide) (by decide) (by decide) (by decide) (by decide)
  have e := (congrArg Out.statuses ht).symm.trans kvWaiting_statuses
  have hs : (t.core 0).dmaq.map (fun x => x.status) = [none] := Option.some.inj e
  rw [show (t.core 0).dmaq = [x] from hx] at hs
  simp [hst] at hs

end Sys2Proof.Machine
end

section
/-! Dangerous registers (R871 to R877) and the configuration CRC (R881 to R884). -/
namespace Sys2Proof.Machine

/-! ### EPOCH, a dangerous register that is one word -/

theorem dangerVal_epoch : dangerVal 0x14 = true := by decide
theorem mapWord_epoch : mapWord 0x14 = false := by decide
theorem dangerWords_epoch : dangerWords 0x14 = [0x14] := by decide

theorem State.nameOk_epoch (s : State) (r : Requester) (h : r = .mgmt ∨ r = .devCtl) : s.nameOk r 0x14 = true := by
  obtain rfl | rfl := h <;> rfl

/-- The pending word of EPOCH is gone. -/
theorem State.dangerDrop_epoch (s : State) (r : Requester) :
    s.dangerDrop r 0x14 = { s with danger := s.danger.erase (dangerKey r 0x14) } := by
  rw [State.dangerDrop, dangerWords_epoch]
  rfl

/-- A failure of EPOCH: counted, its address latched, its pending word discarded, and nothing else. -/
theorem State.dangerFail_epoch (s : State) (r : Requester) :
    s.dangerFail r 0x14 = { s with
      danger := s.danger.erase (dangerKey r 0x14)
      dev := { s.dev with dangerErr := satInc s.dev.dangerErr, dangerAddr := 0x14#24 } } := by
  rw [State.dangerFail, State.dangerDrop_epoch]
  rfl

/-- A new state of the time service leaves the DEV block and the pending words. -/
theorem State.enterTime_dev (s : State) (st : BitVec 3) :
    (s.enterTime st).dev = s.dev ∧ (s.enterTime st).danger = s.danger := by
  unfold State.enterTime
  extract_lets post src u
  have hu : u.onlyPosts (u.postDev 0x0A 6 0 0 0) := u.post_onlyPosts _ _ _ _ _ _ _ _
  split
  · rw [hu]
    exact ⟨rfl, rfl⟩
  · exact ⟨rfl, rfl⟩

/-- EPOCH with its value, and the check of the configuration disarmed (R872, R882). -/
def State.epochSet (s : State) (v : W32) : State :=
  { s.coverTouch with dev := { s.coverTouch.dev with epoch := v.setWidth 16 } }

theorem State.dangerCommit_epoch_eq (s : State) (r : Requester) (v : W32) :
    s.dangerCommit r 0x14 v =
      if (s.epochSet v).dev.master && (s.epochSet v).dev.epoch != s.coverTouch.dev.epoch then (s.epochSet v).newMaster
      else s.epochSet v := rfl

/-- EPOCH takes a value: a new master epoch reaches the time service alone. -/
theorem State.dangerCommit_epoch (s : State) (r : Requester) (v : W32) :
    (s.dangerCommit r 0x14 v).dev = (s.epochSet v).dev ∧ (s.dangerCommit r 0x14 v).danger = s.danger := by
  rw [s.dangerCommit_epoch_eq]
  split
  · exact (s.epochSet v).enterTime_dev tsHoldover
  · exact ⟨rfl, rfl⟩

/-! ### The check of the configuration -/

theorem State.crcPassEnd_dev (s : State) (b : Bool) (hl : s.live = true) (hb : s.dev.crcRun = some b) :
    ∃ t, execCrcPassEnd s = .next t ∧ t.dev = { s.dev with
      crcRun := none, crcLast := s.crcPass, crcValid := !b, crcSkip := s.crcSkipNow
      crcMatch := if !b && s.dev.crcArmed && s.crcSkipNow == s.dev.crcRskip then s.crcPass == s.dev.crcRef else s.dev.crcMatch
      crcDrift := if !b && s.dev.crcArmed && s.crcSkipNow == s.dev.crcRskip then !(s.crcPass == s.dev.crcRef)
        else s.dev.crcDrift } := by
  refine ⟨_, whenLive_live _ _ hl, ?_⟩
  simp only [hb]
  split
  · rw [State.postDev, State.post_onlyPosts]
  · rfl

/-- Settles O13. -/
theorem dangerousRegisters : Obligations.DangerousRegisters := by
  unfold Obligations.DangerousRegisters
  refine ⟨?val, ?chk, ?expire, ?start, ?done, ?ref⟩
  case val =>
    intro r v s hl hr
    refine (whenLive_live _ _ hl).trans ?_
    rw [if_pos (by rw [show (0x14#32).toNat = 0x14 from rfl, s.nameOk_epoch r hr, dangerVal_epoch]; rfl)]
    rfl
  case chk =>
    intro r v s d hl hr hd hok hcyc
    have hrun : exec (.dangerChkWrite r 0x14#32 v) s = .next (s.dangerChkWr r 0x14 v) := by
      refine (whenLive_live _ _ hl).trans ?_
      rw [if_pos (by rw [show (0x14#32).toNat = 0x14 from rfl, s.nameOk_epoch r hr, dangerVal_epoch]; rfl)]
      rfl
    refine ⟨fun hv => ⟨_, hrun, ?_⟩, fun hv => ⟨_, hrun, ?_⟩⟩
    · have hwr : s.dangerChkWr r 0x14 v = (s.dangerDrop r 0x14).dangerCommit r 0x14 d.val := by
        simp [State.dangerChkWr, hd, hok, hv, mapWord_epoch, Nat.not_lt.mpr hcyc]
      obtain ⟨hdev, hdan⟩ := (s.dangerDrop r 0x14).dangerCommit_epoch r d.val
      rw [hwr, hdev, hdan, s.dangerDrop_epoch]
      exact ⟨rfl, rfl, SMap.find_erase_same _ _, rfl⟩
    · have hwr : s.dangerChkWr r 0x14 v = s.dangerFail r 0x14 := by
        simp [State.dangerChkWr, hd, hv]
      rw [hwr, s.dangerFail_epoch]
      exact ⟨rfl, rfl, rfl, SMap.find_erase_same _ _⟩
  case expire =>
    intro r s d hl hd hok hcyc
    refine ⟨s.dangerFail r 0x14, ?_, ?_⟩
    · refine (whenLive_live _ _ hl).trans ?_
      rw [show (0x14#32).toNat = 0x14 from rfl, hd]
      simp [hok, Nat.not_lt.mpr hcyc]
    · rw [s.dangerFail_epoch]
      exact ⟨rfl, rfl, SMap.find_erase_same _ _⟩
  case start =>
    intro s hl hen hst
    refine (whenLive_live _ _ hl).trans ?_
    rw [if_neg (by simp [hen, hst])]
  case done =>
    intro s b hl hb
    obtain ⟨t, ht, hdev⟩ := s.crcPassEnd_dev b hl hb
    refine ⟨t, ht, ?_⟩
    rw [hdev]
    refine ⟨rfl, rfl, rfl, rfl, fun h0 ha hk => ?_, fun h1 => ?_⟩
    · simp [h0, ha, hk]
    · simp [h1]
  case ref =>
    intro v s hl
    exact whenLive_live _ _ hl

end Sys2Proof.Machine
end

section
/-! The CSR space as its requesters reach it (R635, R860, R864 to R870). -/
namespace Sys2Proof.Machine

/-! ### Offsets and names -/

/-- The registers of every pair lie beyond the DEV block. -/
theorem pairAt_dev (off : Nat) (h : off < 0x10000) : pairAt off = none := by
  have hb : ∀ k ∈ upTo 30, 0x4FF00 ≤ pairBase k + pairRegs k := by decide
  refine List.findSome?_eq_none_iff.mpr fun k hk => if_neg fun hc => ?_
  have := hb k hk
  omega

theorem csrNext_dev (off i : Nat) (h : off < 0x10000) : csrNext off i = off + 4 * i := by
  rw [csrNext, pairAt_dev off h]

theorem csrSpan_dev (off : Nat) (ha : off % 4 = 0) (h : off < 0x10000) : csrSpan off 4 = true := by
  simp [csrSpan, csrNext_dev off _ h, ha]
  omega

theorem csrSpan_bad (off n : Nat) (h : off % 4 ≠ 0 ∨ n % 4 ≠ 0 ∨ n < 4 ∨ 1024 < n) : csrSpan off n = false := by
  simp only [csrSpan, Bool.and_eq_false_iff, beq_eq_false_iff_ne, decide_eq_false_iff_not]
  omega

/-- The base of a pair's block finds the pair. -/
theorem pairOfBase_eth : pairOfBase (0x60000#24).toNat = some 1 := by decide

theorem idPair_pairId (k a : Nat) (h : a < 2 ^ 24) : idPair (pairId k a) = some k := by
  have hp : pairId k a = 2 ^ 24 * (k + 1) + a := rfl
  have hn : ¬ pairId k a < 2 ^ 24 := by omega
  have hk : pairId k a / 2 ^ 24 - 1 = k := by omega
  rw [idPair, if_neg hn, hk]

theorem keyCl_coreKey (c k : Nat) (h : k < 16) : keyCl (coreKey c k) = c := by
  unfold keyCl coreKey
  omega

/-! ### Requests on EP0 -/

theorem State.ep0Open_ep0 (s : State) (h : Claims.ep0 s) : s.live = true ∧ s.usb.connected = true ∧ s.ep0Open = true := by
  obtain ⟨hl, hc, hb, hm⟩ := h
  exact ⟨hl, hc, by simp [State.ep0Open, hc, hb, hm]⟩

theorem csrRead_taken (off : BitVec 24) (n : BitVec 16) (s : State) (h : Claims.ep0 s) (hs : csrSpan off.toNat n.toNat = true) :
    execCsrRead off n s =
      .next ((s.csrGetN off.toNat (n.toNat / 4)).2.ep0Data (s.csrGetN off.toNat (n.toNat / 4)).1) := by
  obtain ⟨hl, hc, ho⟩ := s.ep0Open_ep0 h
  refine (whenLive_live _ _ hl).trans ?_
  simp [hc, ho, hs]

theorem csrRead_stalls (off : BitVec 24) (n : BitVec 16) (s : State) (h : Claims.ep0 s) (hs : csrSpan off.toNat n.toNat = false) :
    execCsrRead off n s = .next s.ep0Stall := by
  obtain ⟨hl, hc, ho⟩ := s.ep0Open_ep0 h
  refine (whenLive_live _ _ hl).trans ?_
  simp [hc, ho, hs]

theorem csrWrite_taken (off : BitVec 24) (data : List Byte) (s : State) (h : Claims.ep0 s)
    (hs : csrSpan off.toNat data.length = true) :
    execCsrWrite off data s = .next ((s.csrPutN off.toNat
      ((upTo (data.length / 4)).map (fun i => BitVec.ofNat 32 (recN data (4 * i) 4)))).ep0Data []) := by
  obtain ⟨hl, hc, ho⟩ := s.ep0Open_ep0 h
  refine (whenLive_live _ _ hl).trans ?_
  simp [hc, ho, hs]

theorem csrWrite_stalls (off : BitVec 24) (data : List Byte) (s : State) (h : Claims.ep0 s)
    (hs : csrSpan off.toNat data.length = false) : execCsrWrite off data s = .next s.ep0Stall := by
  obtain ⟨hl, hc, ho⟩ := s.ep0Open_ep0 h
  refine (whenLive_live _ _ hl).trans ?_
  simp [hc, ho, hs]

/-! ### Registers of the DEV block -/

theorem State.csrGet_dev (s : State) (off : Nat) (h : off < 0x10000) (hc : dangerChk off = none) :
    s.csrGet .mgmt off = (s.devRd off, s) := by
  have h0 : off / 0x10000 = 0 := Nat.div_eq_of_lt h
  simp [State.csrGet, pairAt_dev off h, Requester.reaches, hc, State.directRd, h0]

theorem State.csrGetN_one (s : State) (off : Nat) (h : off < 0x10000) (hc : dangerChk off = none) :
    s.csrGetN off 1 = ([s.devRd off], s) := by
  have h1 : s.csrGetN off 1 = ([] ++ [(s.csrGet .mgmt (csrNext off 0)).1], (s.csrGet .mgmt (csrNext off 0)).2) := rfl
  rw [h1, csrNext_dev off 0 h, Nat.mul_zero, Nat.add_zero, s.csrGet_dev off h hc]
  rfl

theorem csrRead_dev (off : BitVec 24) (s : State) (h : Claims.ep0 s) (ha : off.toNat % 4 = 0) (hlt : off.toNat < 0x10000)
    (hc : dangerChk off.toNat = none) :
    execCsrRead off 4#16 s = .next { s with usb := { s.usb with ep0 := [s.devRd off.toNat], stall := false } } := by
  rw [csrRead_taken off 4#16 s h (csrSpan_dev _ ha hlt)]
  rw [show (4#16).toNat / 4 = 1 from rfl, s.csrGetN_one _ hlt hc]
  rfl

/-- A register of the DEV block that is neither dangerous nor covered, written by the management owner or the device controller. -/
theorem State.csrPut_dev (s : State) (r : Requester) (off : Nat) (v : W32) (h : off < 0x10000) (hr : r = .mgmt ∨ r = .devCtl)
    (hv : dangerVal off = false) (hc : dangerChk off = none) (hm : coverMask none off = 0) :
    s.csrPut r off v = s.devWr off v := by
  have hp : idPair off = none := if_pos (by omega)
  have hi : idAddr off = off := Nat.mod_eq_of_lt (by omega)
  have h0 : off / 0x10000 = 0 := Nat.div_eq_of_lt h
  have hre : Requester.reaches r (idOffset off) = true := by obtain rfl | rfl := hr <;> rfl
  simp [State.csrPut, pairAt_dev off h, State.regWr, hre, hv, hc, hp, hi, hm, State.directWr, h0]

theorem State.csrPutN_one (s : State) (off : Nat) (v : W32) : s.csrPutN off [v] = s.csrPut .mgmt (csrNext off 0) v := rfl

theorem csrWrite_eptabIdx (data : List Byte) (s : State) (h : Claims.ep0 s) (hn : data.length = 4) :
    execCsrWrite 0x20#24 data s = .next { s with
      dev := { s.dev with eptabIdx := BitVec.ofNat 18 (recN data 0 4) }, usb := { s.usb with ep0 := [], stall := false } } := by
  rw [csrWrite_taken _ data s h (by rw [hn]; exact csrSpan_dev _ (by decide) (by decide)), hn]
  have h0 : (upTo (4 / 4)).map (fun i => BitVec.ofNat 32 (recN data (4 * i) 4)) = [BitVec.ofNat 32 (recN data 0 4)] := rfl
  rw [h0, s.csrPutN_one]
  rw [csrNext_dev _ 0 (by decide), s.csrPut_dev .mgmt ((0x20#24).toNat + 4 * 0) _ (by decide) (.inl rfl) (by decide) (by decide) (by decide)]
  have hw : (BitVec.ofNat 32 (recN data 0 4)).setWidth 18 = BitVec.ofNat 18 (recN data 0 4) :=
    BitVec.setWidth_ofNat_of_le (by decide) _
  rw [← hw]
  rfl

/-! ### Indirect pairs -/

@[simp] theorem State.bank_updBank_same (s : State) (r : Requester) (k : Nat) (f : IndBank → IndBank) :
    (s.updBank r k f).bank r k = f (s.bank r k) := SMap.get_upd_same _ _ _ _

/-- The step of AUTOINC changes a bank alone. -/
theorem State.bankStep_eq (s : State) (r : Requester) (k : Nat) :
    s.bankStep r k = { s with ind := (s.bankStep r k).ind } ∧
      (s.bankStep r k).bank r k =
        { s.bank r k with addr := if (s.bank r k).auto then (s.bank r k).addr + 4#32 else (s.bank r k).addr } := by
  refine ⟨rfl, ?_⟩
  rw [State.bankStep, State.bank_updBank_same]
  split <;> rfl

/-- The low word of the Ethernet address, written by its name. -/
theorem State.regWr_eth (s : State) (r : Requester) (v : W32) (hr : Requester.reaches r 0x60000 = true) :
    s.regWr r (pairId 1 0) v = s.coverTouch.ethWr 0 v := by
  have hre : Requester.reaches r (idOffset (pairId 1 0)) = true := hr
  have hv : dangerVal (pairId 1 0) = false := by decide
  have hc : dangerChk (pairId 1 0) = none := by decide
  have hp : idPair (pairId 1 0) = some 1 := by decide
  have ha : idAddr (pairId 1 0) = 0 := by decide
  have hm : coverMask (some 1) 0 ≠ 0 := by decide
  simp only [State.regWr, hre, hv, hc, hp, ha, hm, State.pairWr, Bool.not_true, Bool.false_eq_true, if_false]

theorem State.pairOn_eth (s : State) : s.pairOn 1 = (s.live && s.ethOn) := rfl

/-- A write to the low word of the Ethernet address through its pair. -/
theorem indData_ethLow (s : State) (v : W32) (hl : s.live = true) (he : s.ethOn = true) (ha : (s.bank .mgmt 1).addr = 0#32) :
    execIndDataAccess .mgmt 0x60000#24 (some v) s = .next ((s.coverTouch.ethWr 0 v).bankStep .mgmt 1) := by
  refine (whenLive_live _ _ hl).trans ?_
  rw [pairOfBase_eth]
  have hi : indAddr (s.bank .mgmt 1) = some 0 := by rw [indAddr, ha]; rfl
  have hp : s.pairOn 1 = true := by simp [s.pairOn_eth, hl, he]
  have hw : s.indWr .mgmt 1 v = (s.coverTouch.ethWr 0 v).bankStep .mgmt 1 := by
    simp only [State.indWr, hp, hi, s.regWr_eth .mgmt v rfl]
    rfl
  simp only [Requester.reaches, hp, hw]
  rfl

/-- An access to a domain that stands waits at its pair. -/
theorem indData_ethWaits (s : State) (v : Option W32) (hl : s.live = true) (he : s.ethOn = false)
    (hw : (s.bank .mgmt 1).waiting.length < 8) :
    execIndDataAccess .mgmt 0x60000#24 v s =
      .next (s.updBank .mgmt 1 (fun b => { b with waiting := b.waiting ++ [v] })) := by
  refine (whenLive_live _ _ hl).trans ?_
  rw [pairOfBase_eth]
  have hp : s.pairOn 1 = false := by simp [s.pairOn_eth, he]
  simp [Requester.reaches, hp, Nat.not_le.mpr hw]

theorem indNoclk_oldest (r : Requester) (blk : BitVec 24) (k : Nat) (s : State) (a : Option W32) (l : List (Option W32))
    (hl : s.live = true) (hk : pairOfBase blk.toNat = some k) (hw : (s.bank r k).waiting = a :: l) :
    execIndNoclkTimeout r blk s =
      .next ((s.updBank r k (fun b => { b with waiting := l, noclk := true })).bankStep r k) := by
  refine (whenLive_live _ _ hl).trans ?_
  simp only [hk, hw]

/-! ### Writes by name and counters -/

theorem regWrite_crcEn (r : Requester) (v : W32) (s : State) (hl : s.live = true) (hr : r = .mgmt ∨ r = .devCtl) :
    execRegWrite r 0x80#32 v s = .next { s with dev := { s.dev with crcEn := v.getLsbD 0 } } := by
  refine (whenLive_live _ _ hl).trans ?_
  have hn : (r == Requester.walker) = false := by obtain rfl | rfl := hr <;> rfl
  rw [if_pos (by decide), hn, if_neg (by decide)]
  rw [s.csrPut_dev r (0x80#32).toNat v (by decide) hr (by decide) (by decide) (by decide)]
  rfl

/-- A read of a counter's low word latches its high word for the reader. -/
theorem counterLow_latches (r : Requester) (c : CoreId) (n : BitVec 12) (s : State) (hl : s.live = true)
    (hr : r = .mgmt ∨ r = .devCtl) (hp : (s.cl c.cl.val).powered = true) (hn : n.toNat < 128) (hc : s.confCl c.cl.val = false)
    (hls : cntListed n.toNat = true) :
    execCounterLowRead r c n s = .next { s with latches := (s.latches.put (latchKey r c.key n.toNat)
      (BitVec.ofNat 32 ((s.counter c.key n.toNat).toNat / 2 ^ 32))) } := by
  refine (whenLive_live _ _ hl).trans ?_
  have hcl : c.cl.val < 8 := c.cl.isLt
  have hid : idPair (pairId (21 + c.cl.val) 0) = some (21 + c.cl.val) := idPair_pairId _ 0 (by decide)
  have hon : s.pairOn (21 + c.cl.val) = true := by
    have h4 : 21 ≤ 21 + c.cl.val ∧ 21 + c.cl.val < 29 := by omega
    have h5 : 21 + c.cl.val - 21 = c.cl.val := by omega
    have h6 : 21 + c.cl.val ≠ 1 ∧ 21 + c.cl.val ≠ 2 ∧ 21 + c.cl.val ≠ 3 ∧ 21 + c.cl.val ≠ 4 := by omega
    simp [State.pairOn, hl, h4, h5, h6, hp]
  have hok : s.nameOk r (pairId (21 + c.cl.val) 0) = true := by
    have hreach : Requester.reaches r (idOffset (pairId (21 + c.cl.val) 0)) = true := by obtain rfl | rfl := hr <;> rfl
    have hnw : (r != Requester.walker) = true := by obtain rfl | rfl := hr <;> rfl
    have h30 : decide (21 + c.cl.val < 30) = true := decide_eq_true (by omega)
    simp only [State.nameOk, hreach, hnw, hid, hon, h30]
    rfl
  have hkey : keyCl c.key = c.cl.val := keyCl_coreKey _ _ (Nat.lt_of_lt_of_le c.core.isLt (by decide))
  have hseen : s.cntSeen c.key n.toNat = (s.counter c.key n.toNat).toNat := by simp [State.cntSeen, hls, hkey, hc]
  simp only [hok, hn, hc, State.cntLow]
  rw [← hseen]
  simp
  rfl

/-- Settles O12. -/
theorem csrAccesses : Obligations.CsrAccesses := by
  unfold Obligations.CsrAccesses
  refine ⟨fun off s h ha hlt hc => csrRead_dev off s h ha hlt hc, fun s h => csrRead_dev 0#24 s h (by decide) (by decide) (by decide),
    fun data s h hn => csrWrite_eptabIdx data s h hn, fun off n data s h => ⟨fun hb => ?read, fun hb => ?write⟩, ?eth, ?waits, ?noclk,
    fun r v s hl hr => regWrite_crcEn r v s hl hr, ?counter⟩
  case read => exact csrRead_stalls off n s h (csrSpan_bad _ _ hb)
  case write => exact csrWrite_stalls off data s h (csrSpan_bad _ _ hb)
  case eth =>
    intro s v hl he ha
    refine ⟨_, indData_ethLow s v hl he ha, rfl, ?_, rfl, rfl⟩
    obtain ⟨-, hb⟩ := (s.coverTouch.ethWr 0 v).bankStep_eq .mgmt 1
    rw [hb, show (s.coverTouch.ethWr 0 v).bank .mgmt 1 = s.bank .mgmt 1 from rfl, ha]
    rfl
  case waits =>
    intro s v hl he hw
    exact ⟨_, indData_ethWaits s v hl he hw, rfl, s.bank_updBank_same _ _ _⟩
  case noclk =>
    intro r blk k s a l hl hk hw
    refine ⟨_, indNoclk_oldest r blk k s a l hl hk hw, rfl, ?_⟩
    obtain ⟨-, hb⟩ := (s.updBank r k (fun b => { b with waiting := l, noclk := true })).bankStep_eq r k
    rw [hb, State.bank_updBank_same]
    exact ⟨rfl, rfl, rfl⟩
  case counter =>
    intro r c n s hl hr hp hn hc hls
    exact ⟨_, counterLow_latches r c n s hl hr hp hn hc hls, rfl, SMap.get_put_same _ _ _ _⟩

end Sys2Proof.Machine
end

section
/-! Refresh, row repair and failure of HBM (R453 to R458). -/
namespace Sys2Proof.Machine

/-! ### Events while no Dailies records -/

/-- No cluster's Dailies records. -/
def State.quietTraces (s : State) : Prop := ∀ c, (s.trace c).state ≠ 1#2 ∧ (s.trace c).state ≠ 2#2

/-- What a report leaves while no Dailies records: memory, and Dailies that still do not record. -/
def State.keepsQuiet (s t : State) : Prop := s.quietTraces → t.quietTraces ∧ t.mem = s.mem

theorem State.keepsQuiet_refl (s : State) : s.keepsQuiet s := fun h => ⟨h, rfl⟩

theorem State.keepsQuiet.trans {s t u : State} (h : s.keepsQuiet t) (g : t.keepsQuiet u) : s.keepsQuiet u := fun hs =>
  have ht := h hs
  have hu := g ht.1
  ⟨hu.1, hu.2.trans ht.2⟩

theorem State.keepsQuiet_of_eq {s t : State} (hd : t.dbg = s.dbg) (hm : t.mem = s.mem) : s.keepsQuiet t := fun h =>
  ⟨fun c => by simpa only [State.trace, hd] using h c, hm⟩

theorem State.postRaw_keepsQuiet (s : State) (q : Nat) (r : EventRec) : s.keepsQuiet (s.postRaw q r) := by
  refine State.keepsQuiet_of_eq ?_ ?_ <;>
  · unfold State.postRaw
    split
    · rfl
    · dsimp only
      split <;> rfl

@[simp] theorem State.trace_updTrace_same (s : State) (c : Nat) (f : Trace → Trace) : (s.updTrace c f).trace c = f (s.trace c) := by
  simp [State.trace, State.updTrace]

theorem State.trace_updTrace_ne (s : State) (c d : Nat) (f : Trace → Trace) (h : d ≠ c) : (s.updTrace c f).trace d = s.trace d := by
  simp [State.trace, State.updTrace, SMap.get_upd_ne _ _ _ _ _ h]

/-- A trigger reaches no buffer that records: a stopped one counts it as missed. -/
theorem State.takeTrigger_keepsQuiet (s : State) (c cause core thr : Nat) : s.keepsQuiet (s.takeTrigger c cause core thr).1 := by
  intro h
  have hc : ¬ ((s.trace c).state = 1#2 ∨ (s.trace c).state = 2#2) := by
    rintro (h1 | h2)
    · exact (h c).1 h1
    · exact (h c).2 h2
  unfold State.takeTrigger
  rw [if_neg hc]
  split
  · refine ⟨fun d => ?_, rfl⟩
    by_cases hd : d = c
    · subst hd
      rw [State.trace_updTrace_same]
      exact h d
    · rw [State.trace_updTrace_ne _ _ _ _ hd]
      exact h d
  · exact ⟨h, rfl⟩

theorem State.traceRec_quiet (s : State) (h : s.quietTraces) (k ty thr pc data : Nat) : s.traceRec k ty thr pc data = s :=
  State.traceRec_noTrace (h (keyCl k)) _ _ _ _

theorem State.post_keepsQuiet (s : State) (q : Nat) (cl : Option Nat) (code source unit part : Nat) (dev : Bool) (detail : Nat) :
    s.keepsQuiet (s.post q cl code source unit part dev detail) := by
  unfold State.post
  extract_lets u v
  have hv : s.keepsQuiet v := by
    refine State.keepsQuiet.trans (t := u) (s.postRaw_keepsQuiet q _) fun h => ?_
    have hvu : v = u := by
      unfold v
      split
      · exact u.traceRec_quiet h _ _ _ _ _
      · rfl
    rw [hvu]
    exact ⟨h, rfl⟩
  split
  · refine hv.trans (List.foldlRecOn (motive := fun t : State => v.keepsQuiet t) _ _ v.keepsQuiet_refl fun t ht c _ => ht.trans ?_)
    split
    · dsimp only
      split
      · exact (t.takeTrigger_keepsQuiet c 1 0 0).trans (State.postRaw_keepsQuiet _ _ _)
      · exact t.takeTrigger_keepsQuiet c 1 0 0
    · exact t.keepsQuiet_refl
  · exact hv

theorem State.postMemUe_keepsQuiet (s : State) (p : Option Nat) (st va : Nat) : s.keepsQuiet (s.postMemUe p st va) := by
  unfold State.postMemUe
  extract_lets u
  refine State.keepsQuiet.trans (t := u) ?_ (u.post_keepsQuiet _ _ _ _ _ _ _ _)
  unfold u
  split
  · split
    · exact s.post_keepsQuiet _ _ _ _ _ _ _ _
    · exact s.keepsQuiet_refl
  · exact s.keepsQuiet_refl

theorem State.postMemUe_onlyPosts (s : State) (p : Option Nat) (st va : Nat) : s.onlyPosts (s.postMemUe p st va) := by
  unfold State.postMemUe
  extract_lets u
  refine State.onlyPosts.trans (t := u) ?_ (u.post_onlyPosts _ _ _ _ _ _ _ _)
  unfold u
  split
  · split
    · exact s.post_onlyPosts _ _ _ _ _ _ _ _
    · exact s.onlyPosts_refl
  · exact s.onlyPosts_refl

/-! ### Stacks -/

theorem State.stack_updStack_ne (s : State) (n m : Nat) (f : Hbm → Hbm) (h : m ≠ n) : (s.updStack n f).stack m = s.stack m := by
  simp [State.stack, State.updStack, SMap.get_upd_ne _ _ _ _ _ h]

/-- A row recorded as repaired changes the flash alone. -/
theorem State.recordRepair_flash (s : State) (n : Nat) (r : Nat × Nat) :
    s.recordRepair n r = { s with flash := (s.recordRepair n r).flash } := by
  unfold State.recordRepair
  split <;> rfl

/-- The log of a stack's failure: an entry in the block of the stack, which says nothing of failed stacks. -/
theorem State.hbmLog_failed (s : State) (n m : Nat) : ((s.hbmLog (n * stackBytes) 2).stack m).failed = (s.stack m).failed := by
  have hn : n * stackBytes / stackBytes = n := Nat.mul_div_cancel _ (by unfold stackBytes; omega)
  unfold State.hbmLog
  extract_lets pl g own
  rw [if_pos rfl, hn]
  by_cases hm : m = n
  · subst hm
    rw [State.stack_updStack_same]
  · rw [State.stack_updStack_ne _ _ _ _ hm]

theorem State.hbmLog_hbm (s : State) (a kind : Nat) : s.hbmLog a kind = { s with hbm := (s.hbmLog a kind).hbm } := rfl

/-- A byte in the range of a failed stack cannot be read (R458). -/
theorem State.badAt_failed (s : State) (n a : Nat) (hn : n < 8) (hf : (s.stack n).failed = true) (hlo : n * stackBytes ≤ a)
    (hhi : a < (n + 1) * stackBytes) : s.badAt a = true := by
  have hq : a / stackBytes = n := Nat.div_eq_of_lt_le hlo hhi
  have hr : regionOf a = .hbm n := by
    have h8 : (n + 1) * stackBytes ≤ 8 * stackBytes := Nat.mul_le_mul_right _ hn
    rw [regionOf, if_pos (Nat.lt_of_lt_of_le hhi h8), hq]
  simp [State.badAt, State.deadStack, hr, hf]

/-- A stack that fails: marked, its failure logged and told. -/
theorem stackFail_failed (n : Fin 8) (s : State) (hl : s.live = true) (hf : (s.stack n.val).failed = false) :
    execStackFail n s = .next (((s.updStack n.val (fun h => { h with failed := true })).hbmLog (n.val * stackBytes) 2).postMemUe
      ((s.updStack n.val (fun h => { h with failed := true })).ownerSt n.val) n.val (n.val * stackBytes)) := by
  refine (whenLive_live _ _ hl).trans ?_
  rw [if_neg (by simp [hf])]

/-- Settles O15. -/
theorem hbmEvents : Obligations.HbmEvents := by
  unfold Obligations.HbmEvents
  refine ⟨fun n s hl hst => ?refresh, fun n s r l hl hr => ⟨?spare, ?none⟩, fun n s hl hf hq => ?fail⟩
  case refresh =>
    refine ⟨_, whenLive_live _ _ hl, ?_⟩
    rw [if_pos hst]
    exact ⟨rfl, s.stack_updStack_same _ _, fun m hm => s.stack_updStack_ne _ _ _ hm⟩
  case spare =>
    refine ⟨_, whenLive_live _ _ hl, ?_⟩
    simp only [hr, if_true]
    have hu := s.recordRepair_flash n.val r
    generalize s.recordRepair n.val r = u at hu ⊢
    have hsame : u.stack n.val = s.stack n.val := by rw [hu]; rfl
    rw [State.stack_updStack_same, hsame]
    exact ⟨by rw [State.updStack, hu], rfl, rfl, rfl, fun h => if_neg h⟩
  case none =>
    refine ⟨_, whenLive_live _ _ hl, ?_⟩
    simp only [hr, Bool.false_eq_true, if_false]
    rw [State.stack_updStack_same]
    exact ⟨rfl, rfl, rfl, rfl⟩
  case fail =>
    have hrun := stackFail_failed n s hl hf
    generalize hu : s.updStack n.val (fun h => { h with failed := true }) = u at hrun
    have hfu : (u.stack n.val).failed = true := by rw [← hu, State.stack_updStack_same]
    have hlog := u.hbmLog_failed n.val
    have hv := u.hbmLog_hbm (n.val * stackBytes) 2
    generalize hbyte : n.val * stackBytes = b at hrun hlog hv
    generalize u.hbmLog b 2 = v at hrun hlog hv
    have hp := v.postMemUe_onlyPosts (u.ownerSt n.val) n.val b
    have hk := v.postMemUe_keepsQuiet (u.ownerSt n.val) n.val b fun c => by
      have hc := hq (coreKey c 0)
      rw [State.noTrace, keyCl_coreKey c 0 (by decide)] at hc
      rw [hv, ← hu]
      exact hc
    generalize v.postMemUe (u.ownerSt n.val) n.val b = t at hrun hp hk
    have hfailed : ∀ m, (t.stack m).failed = (u.stack m).failed := fun m => by
      rw [← hlog m, hp]
      rfl
    refine ⟨t, hrun, hk.2.trans (by rw [hv, ← hu]; rfl), by rw [hp, hv, ← hu]; rfl, (hfailed n.val).trans hfu,
      fun a hlo hhi => State.badAt_failed _ n.val a n.isLt ((hfailed n.val).trans hfu) (hbyte ▸ hlo) hhi, fun m hm => ?_⟩
    rw [hfailed m, ← hu, State.stack_updStack_ne _ _ _ _ hm]

end Sys2Proof.Machine
end

section
/-! The USB port: its burst slots (R616 to R618) and its events (R609 to R615, R624, R633, R638, R645). -/
namespace Sys2Proof.Machine

/-! ### Burst slots -/

theorem State.burstNext_congr {s t : State} (h : t.burstTo = s.burstTo) (want : Nat) :
    ∀ n i last, t.burstNext want n i last = s.burstNext want n i last
  | 0, _, _ => rfl
  | n + 1, i, last => by
    simp only [State.burstNext, h]
    split
    · rfl
    · exact State.burstNext_congr h want n _ _

/-- What bursts granted change: the position in the frame, and the last borrower. -/
theorem State.takeBursts_usb (o : Nat) : ∀ (n : Nat) (s t : State), s.takeBursts o n = some t →
    t = { s with usb := { s.usb with slotPos := t.usb.slotPos, lastBorrow := t.usb.lastBorrow } }
  | 0, s, t, h => by
    obtain rfl := Option.some.inj h
    rfl
  | n + 1, s, t, h => by
    rw [State.takeBursts] at h
    split at h
    · cases h
    · rw [State.takeBursts_usb o n _ t h]

/-- Whether bursts are granted rests on the owners of the slots, on who is ready, and on the position in the frame. -/
theorem State.takeBursts_congr (o : Nat) : ∀ (n : Nat) (s t : State), t.burstTo = s.burstTo → t.usb.slotPos = s.usb.slotPos →
    t.usb.lastBorrow = s.usb.lastBorrow → (t.takeBursts o n).isSome = (s.takeBursts o n).isSome
  | 0, _, _, _, _, _ => rfl
  | n + 1, s, t, h, hp, hb => by
    simp only [State.takeBursts, State.burstNext_congr h, hp, hb]
    split
    · rfl
    · exact State.takeBursts_congr o n _ _ h rfl rfl

/-- A transfer whose bursts are granted happens. -/
theorem State.inBursts_granted (s : State) (o bytes : Nat) (f : State → State) (h : s.granted o bytes) :
    ∃ u, s.inBursts o bytes f = f u ∧
      u = { s with usb := { s.usb with slotPos := u.usb.slotPos, lastBorrow := u.usb.lastBorrow } } := by
  obtain ⟨u, hu⟩ := Option.isSome_iff_exists.mp h
  exact ⟨u, by rw [State.inBursts, hu], State.takeBursts_usb o _ s u hu⟩

theorem State.inBursts_not (s : State) (o bytes : Nat) (f : State → State) (h : ¬ s.granted o bytes) : s.inBursts o bytes f = s := by
  rw [State.inBursts, Option.not_isSome_iff_eq_none.mp h]

/-! ### What leaves on an endpoint -/

/-- Bytes that leave change the wire and the counters of a session. -/
theorem State.sealOut_frame (s : State) (p chan : Nat) (l : List Byte) :
    s.sealOut p chan l = { s with
      usb := { s.usb with wire := (s.sealOut p chan l).usb.wire }, sec := (s.sealOut p chan l).sec } := by
  unfold State.sealOut
  extract_lets x told n i
  split <;> rfl

theorem State.mgmtPump_none (s : State) (h : s.usb.mgmtCmds = []) : s.mgmtPump = s := by
  rw [State.mgmtPump, h]
  rfl

theorem State.func_updFunc_ne (s : State) (p q : Nat) (f : Func → Func) (h : q ≠ p) : (s.updFunc p f).func q = s.func q := by
  simp [State.func, State.updFunc, SMap.get_upd_ne _ _ _ _ _ h]

theorem State.secp_updSecp_ne (s : State) (p q : Nat) (f : SecPart → SecPart) (h : q ≠ p) : (s.updSecp p f).secp q = s.secp q := by
  simp [State.secp, State.updSecp, SMap.get_upd_ne _ _ _ _ _ h]

/-! ### The disable of a function that holds no command -/

/-- A function without commands, disabled: it drains from this moment, and its session closes. -/
theorem State.disableFunc_idle (s : State) (p : Nat) (h : (s.func p).cmds = []) (ho : (s.func p).st = .operating) :
    s.disableFunc p = (s.updFunc p (fun f => { f with st := .draining, dNs := s.nsW, nrdy := false })).closeSession p := by
  unfold State.disableFunc
  rw [if_neg (not_not.mpr ho)]
  simp only [State.func_updFunc_same, h, List.filter_nil, List.foldl_nil]

theorem State.disableFunc_not (s : State) (p : Nat) (h : (s.func p).st ≠ .operating) : s.disableFunc p = s := if_pos h

/-- What a reset of the port does to a function: one that operates drains from this moment, its session closed. -/
def State.funcReset (s t : State) (p : Nat) : Prop :=
  ((s.func p).st = .operating → (t.func p).st = .draining ∧ (t.func p).dNs = s.nsW ∧ (t.secp p).session = none) ∧
    ((s.func p).st ≠ .operating → t.func p = s.func p ∧ t.secp p = s.secp p)

/-- One more function reset, another one as it was. -/
theorem State.disableFunc_reset (s t : State) (n : Nat) (hc : (s.func n).cmds = []) (hf : t.func n = s.func n)
    (hsec : t.secp n = s.secp n) (hns : t.nsW = s.nsW) :
    t.disableFunc n = { t with
      usb := { t.usb with funcs := (t.disableFunc n).usb.funcs }, sec := { t.sec with parts := (t.disableFunc n).sec.parts } } ∧
    s.funcReset (t.disableFunc n) n ∧
    ∀ p, p ≠ n → (t.disableFunc n).func p = t.func p ∧ (t.disableFunc n).secp p = t.secp p := by
  by_cases ho : (s.func n).st = .operating
  · rw [t.disableFunc_idle n (by rw [hf]; exact hc) (by rw [hf]; exact ho)]
    refine ⟨rfl, ⟨fun _ => ⟨?_, ?_, ?_⟩, fun h => absurd ho h⟩, fun p hp => ⟨t.func_updFunc_ne n p _ hp, State.secp_updSecp_ne _ n p _ hp⟩⟩
    · exact congrArg Func.st (t.func_updFunc_same n _)
    · exact (congrArg Func.dNs (t.func_updFunc_same n _)).trans hns
    · exact congrArg SecPart.session (State.secp_updSecp_same _ n _)
  · rw [t.disableFunc_not n (by rw [hf]; exact ho)]
    exact ⟨rfl, ⟨fun h => absurd h ho, fun _ => ⟨hf, hsec⟩⟩, fun _ _ => ⟨rfl, rfl⟩⟩

/-- Every function below n disabled, none of which holds a command. -/
theorem State.disableBelow (s : State) (hc : ∀ p, p < 8 → (s.func p).cmds = []) :
    ∀ n, n ≤ 8 → ∃ t, (List.range n).foldl (fun s p => s.disableFunc p) s = t ∧
      t = { s with usb := { s.usb with funcs := t.usb.funcs }, sec := { s.sec with parts := t.sec.parts } } ∧
      (∀ p, p < n → s.funcReset t p) ∧ ∀ p, n ≤ p → t.func p = s.func p ∧ t.secp p = s.secp p
  | 0, _ => ⟨s, rfl, rfl, fun _ h => absurd h (Nat.not_lt_zero _), fun _ _ => ⟨rfl, rfl⟩⟩
  | n + 1, hn => by
    obtain ⟨t, ht, hfr, hlow, hhigh⟩ := s.disableBelow hc n (by omega)
    rw [List.range_succ, List.foldl_append, ht]
    obtain ⟨hf, hsec⟩ := hhigh n (Nat.le_refl n)
    obtain ⟨hfr', hn', hoth⟩ := s.disableFunc_reset t n (hc n (by omega)) hf hsec (by rw [hfr]; rfl)
    refine ⟨_, rfl, ?_, fun p hp => ?_, fun p hp => ?_⟩
    · simp only [List.foldl_cons, List.foldl_nil]
      rw [hfr', hfr]
    · simp only [List.foldl_cons, List.foldl_nil]
      by_cases hpn : p = n
      · subst hpn
        exact hn'
      · have hpp := hlow p (by omega)
        obtain ⟨h1, h2⟩ := hoth p hpn
        rw [State.funcReset, h1, h2]
        exact hpp
    · simp only [List.foldl_cons, List.foldl_nil]
      obtain ⟨h1, h2⟩ := hoth p (by omega)
      obtain ⟨h3, h4⟩ := hhigh p (by omega)
      exact ⟨h1.trans h3, h2.trans h4⟩

/-- An image that the ROM had begun to take is dropped, and no function or session changes. -/
theorem State.dropImage_frame (s : State) : s.dropImage = { s with usbData := s.dropImage.usbData, dev := s.dropImage.dev } := by
  unfold State.dropImage
  split <;> rfl

/-! ### Service of the IN endpoints -/

/-- The port as the service of an endpoint leaves it: out of suspend. -/
def State.served (s : State) : State := { s with usb := { s.usb with u3 := false, remoteWake := false } }

theorem usbInService_ep1 (p : Fin 8) (s : State) (hl : s.live = true) (ho : s.portOpen = true) :
    execUsbInService ⟨p.val, by omega⟩ s = .next (s.served.serveEp1 p.val).mgmtPump := by
  refine (whenLive_live _ _ hl).trans ?_
  obtain ⟨hst, hm⟩ : s.usbStreams = true ∧ s.dev.master = true := by simpa [State.portOpen] using ho
  have hb : s.usbBulk = true := by
    simp only [State.usbStreams, Bool.and_eq_true, decide_eq_true_eq] at hst
    simp only [State.usbBulk, Bool.and_eq_true, decide_eq_true_eq]
    exact ⟨hst.1, by omega⟩
  rw [if_neg (by simp [hb, hm])]
  simp only [p.isLt, if_true]
  rfl

/-- The host takes the oldest record of a function whose slot is granted. -/
theorem State.serveEp1_granted (s : State) (p : Nat) (c : Completion) (r : List Completion) (ho : s.portOpen = true)
    (hf : s.funcSends p = true) (hc : (s.func p).out = c :: r) (hg : s.granted p 64) :
    ∃ (u : State) (l : List Byte), u = { s with usb := { s.usb with slotPos := u.usb.slotPos, lastBorrow := u.usb.lastBorrow } } ∧
      s.serveEp1 p = (u.sealOut p 0 l).updFunc p (fun f => { f with out := r }) := by
  obtain ⟨u, hu, hfr⟩ := s.inBursts_granted p 64 (fun s => s.takeEp1 p) hg
  have hcu : (u.func p).out = c :: r := by rw [← hc, hfr]; rfl
  refine ⟨u, c.words.flatMap (fun w => leBytes 4 w.toNat), hfr, ?_⟩
  rw [State.serveEp1, if_neg (by simp [ho, hf, hc]), hu, State.takeEp1, hcu]

theorem State.serveEp1_not (s : State) (p : Nat) (hg : ¬ s.granted p 64) : s.serveEp1 p = s := by
  rw [State.serveEp1, s.inBursts_not p 64 _ hg]
  split <;> rfl

theorem State.granted_served (s : State) (p bytes : Nat) : s.served.granted p bytes ↔ s.granted p bytes := by
  unfold State.granted
  rw [State.takeBursts_congr p _ s s.served rfl rfl rfl]

theorem usbInService_ep3 (s : State) (hl : s.live = true) (hb : s.usbBulk = true) (hm : s.dev.master = true) :
    execUsbInService 17 s = .next (s.served.takeEvent 8) := by
  refine (whenLive_live _ _ hl).trans ?_
  rw [if_neg (by simp [hb, hm])]
  rfl

/-- The oldest record of EP3 is delivered. -/
theorem State.takeEvent_ep3 (s : State) (e : EventRec) (r : List EventRec) (h : s.usb.evq.get [] 8 = e :: r) :
    s.takeEvent 8 = { s with usb := { s.usb with
      wire := ({ e with lost := BitVec.ofNat 8 (min 255 (s.usb.lost.get 0 8)) } : EventRec).bytes
      evq := if r.isEmpty then s.usb.evq.erase 8 else s.usb.evq.put 8 r
      lost := s.usb.lost.erase 8
      delivered := some { e with lost := BitVec.ofNat 8 (min 255 (s.usb.lost.get 0 8)) } } } := by
  unfold State.takeEvent
  rw [h]
  rfl

/-- Settles O11. -/
theorem usbEvents : Obligations.UsbEvents := by
  unfold Obligations.UsbEvents
  refine ⟨fun v s hl hc h1 h5 hm => ?connect, fun s hl hc => ?reset, fun s hl hc => ?suspend,
    fun p s c r hl ho hf hc hm => ⟨fun hg => ?taken, fun hg => ?notReady⟩, fun s e r hl hb hm he => ?event⟩
  case connect =>
    refine (whenLive_live _ _ hl).trans ?_
    rw [if_neg (by simp [hc, Nat.not_lt.mpr h1, Nat.not_lt.mpr h5])]
    exact congrArg _ (State.mgmtPump_none _ hm)
  case reset =>
    obtain ⟨t, ht, hfr, hlow, -⟩ := s.disableBelow hc 8 (Nat.le_refl 8)
    refine ⟨_, whenLive_live _ _ hl, ?_⟩
    rw [show upTo 8 = List.range 8 from rfl, ht]
    extract_lets t' u src
    have hu : u = { t with usbData := u.usbData, dev := u.dev } := by
      unfold u t'
      split
      · rfl
      · exact t.dropImage_frame
    have hcores : u.cores = s.cores := by rw [hu, hfr]
    have hmem : u.mem = s.mem := by rw [hu, hfr]
    have hfu : ∀ p, u.func p = t.func p := fun p => by rw [hu]; rfl
    have hsu : ∀ p, u.secp p = t.secp p := fun p => by rw [hu]; rfl
    refine ⟨rfl, rfl, hcores, hmem, fun p h8 => ?_⟩
    have hpp := hlow p h8
    rw [State.funcReset, ← hfu, ← hsu] at hpp
    exact hpp
  case suspend =>
    refine (whenLive_live _ _ hl).trans ?_
    rw [if_pos hc]
  case taken =>
    obtain ⟨u, l, hu, hs⟩ := s.served.serveEp1_granted p.val c r ho hf hc ((s.granted_served _ _).mpr hg)
    refine ⟨_, usbInService_ep1 p s hl ho, ?_⟩
    have hso := u.sealOut_frame p.val 0 l
    rw [hs, State.mgmtPump_none _ (by rw [hso, hu]; exact hm), State.func_updFunc_same]
    have hfu : ∀ q, (u.sealOut p.val 0 l).func q = s.func q := fun q => by rw [hso, hu]; rfl
    refine ⟨by rw [hfu], by rw [hso, hu]; rfl, fun q hq => ?_, by rw [hso, hu]; rfl⟩
    rw [State.func_updFunc_ne _ _ _ _ hq, hfu]
  case notReady =>
    refine (usbInService_ep1 p s hl ho).trans ?_
    rw [State.serveEp1_not _ _ (fun h => hg ((s.granted_served _ _).mp h))]
    exact congrArg _ (s.served.mgmtPump_none hm)
  case event =>
    refine ⟨_, usbInService_ep3 s hl hb hm, ?_⟩
    rw [s.served.takeEvent_ep3 e r he]
    refine ⟨?_, ?_, rfl, rfl⟩
    · cases r with
      | nil => simp [SMap.get]
      | cons x xs => exact SMap.get_put_same _ _ _ _
    · simp [SMap.get]

end Sys2Proof.Machine
end

section
/-! The test access port (R838 to R840, R911, R912), Dailies (R842 to R851) and the freeze (R835 to R837). -/
namespace Sys2Proof.Machine

/-! ### The TAP -/

theorem tapRow_free (s x : State) (hl : s.tapLive = true) (hc : s.confAny = false) : tapRow s x = .next x := by
  simp [tapRow, hl, hc]

theorem tapRow_conf (s x : State) (hl : s.tapLive = true) (hc : s.confAny = true) : tapRow s x = .next s.tapBypass := by
  simp [tapRow, hl, hc]

theorem bitList_getD (n v i : Nat) (h : i < n) : (bitList n v).getD i false = bitAt v i := by
  simp [bitList, upTo, List.getD_eq_getElem?_getD, h]

@[simp] theorem bitList_length (n v : Nat) : (bitList n v).length = n := by simp [bitList, upTo]

/-- The word that MEM_OUT shifts out of a frozen device: its data, then its check bits. -/
theorem memOut_frozen (s : State) (v : BitVec 72) (hl : s.tapLive = true) (hc : s.confAny = false) (hf : s.dbg.freeze ≠ 0#25) :
    ∃ t, execMemOut v s = .next t ∧ t = { s with dbg := t.dbg } ∧ t.dbg.tdo.length = 72 ∧
      ∀ n, n < 64 → t.dbg.tdo.getD n false = bitAt (s.rdVal (Config.memOutAddr v) 8 % 2 ^ 64) n := by
  refine ⟨_, tapRow_free s _ hl hc, ?_⟩
  rw [if_neg hf]
  extract_lets d
  refine ⟨rfl, ?_, fun n hn => ?_⟩
  · rw [State.tapLoad, List.length_append, bitList_length, bitList_length]
  · rw [State.tapLoad, List.getD_append _ _ _ _ (by rw [bitList_length]; exact hn), bitList_getD _ _ _ hn]
    rfl

/-- CHAIN_OUT: the chosen chain of a frozen device, zeros of one that runs. -/
theorem chainOut_shifts (s : State) (hl : s.tapLive = true) (hc : s.confAny = false) :
    ∃ t, execChainOut s = .next t ∧ t = { s with freeCtr := s.freeCtr + 1, dbg := t.dbg } ∧
      (s.dbg.freeze = 0#25 → t.dbg.tdo.all (fun b => !b) = true) ∧
      (s.dbg.freeze ≠ 0#25 → t.dbg.tdo = Config.scanChain s.freeCtr s.dbg.chain) := by
  refine ⟨_, tapRow_free s _ hl hc, ?_⟩
  dsimp only
  split
  · rename_i hf
    exact ⟨rfl, fun _ => by simp [State.tapLoad], fun h => absurd hf h⟩
  · rename_i hf
    exact ⟨rfl, fun h => absurd h hf, fun _ => rfl⟩

/-- DBG_CSR reads FREEZE. -/
theorem dbgCsr_freeze (s : State) (v : W64) (hl : s.tapLive = true) (hc : s.confAny = false) (hv : bitsAt v.toNat 0 24 = 0x40000) :
    ∃ t, execDbgCsr v false s = .next t ∧ t = { s with dbg := t.dbg } ∧ t.dbg.ir = 0x24#8 ∧
      t.dbg.tapData = BitVec.ofNat 64 (0x40000 + 2 ^ 32 * s.dbg.freeze.toNat) := by
  refine ⟨_, tapRow_free s _ hl hc, ?_⟩
  rw [hv]
  refine ⟨rfl, rfl, ?_⟩
  have hw : (s.dbg.freeze.setWidth 32).toNat = s.dbg.freeze.toNat :=
    BitVec.toNat_setWidth_of_le (by decide)
  rw [← hw]
  rfl

/-- Settles O24. -/
theorem testAccess : Obligations.TestAccess := by
  unfold Obligations.TestAccess
  intro s hl loads
  refine ⟨?id, ?bypass, rfl, fun hc i hi => ?conf, fun hc => ⟨fun n => ?sel, fun c => ?sample, fun v hf => ?zeros, fun v hf => ?word,
    ?chain, fun v hv => ?csr⟩⟩
  case id => exact if_pos hl
  case bypass => exact if_pos hl
  case conf =>
    obtain rfl | ⟨n, rfl⟩ | ⟨v, rfl⟩ | ⟨v, w, rfl⟩ | ⟨c, rfl⟩ := hi
    all_goals exact tapRow_conf s _ hl hc
  case sel => exact tapRow_free s _ hl hc
  case sample => exact tapRow_free s _ hl hc
  case zeros =>
    refine (tapRow_free s _ hl hc).trans ?_
    rw [if_pos hf]
    rfl
  case word => exact memOut_frozen s v hl hc hf
  case chain => exact chainOut_shifts s hl hc
  case csr => exact dbgCsr_freeze s v hl hc hv

/-! ### Dailies -/

/-- The other buffers are as they were, and the missed triggers of this one too. -/
def State.tracesBut (s t : State) (c : Nat) : Prop :=
  (∀ d, d ≠ c → t.trace d = s.trace d) ∧ (t.trace c).missed = (s.trace c).missed

theorem State.tracesBut_refl (s : State) (c : Nat) : s.tracesBut s c := ⟨fun _ _ => rfl, rfl⟩

theorem State.tracesBut.trans {s t u : State} {c : Nat} (h : s.tracesBut t c) (g : t.tracesBut u c) : s.tracesBut u c :=
  ⟨fun d hd => (g.1 d hd).trans (h.1 d hd), g.2.trans h.2⟩

theorem State.updTrace_tracesBut (s : State) (c : Nat) (f : Trace → Trace) (h : (f (s.trace c)).missed = (s.trace c).missed) :
    s.tracesBut (s.updTrace c f) c :=
  ⟨fun _ hd => s.trace_updTrace_ne _ _ _ hd, by rw [State.trace_updTrace_same, h]⟩

theorem State.tracePut_tracesBut (s : State) (c : Nat) (r : BitVec 256) : s.tracesBut (s.tracePut c r) c := by
  unfold State.tracePut
  extract_lets t i full post t' u
  have hu : s.tracesBut u c := s.updTrace_tracesBut c _ rfl
  split
  · have hd : (u.store (t.spillBase.toNat + 32 * i) (leBytes 32 r.toNat)).dbg = u.dbg := by rw [u.store_onlyMem]
    exact hu.trans ⟨fun d _ => by rw [State.trace, hd, State.trace], by rw [State.trace, hd, State.trace]⟩
  · exact hu

theorem State.traceWrite_tracesBut (s : State) (c : Nat) (trig : Bool) (r : BitVec 256) :
    s.tracesBut (s.traceWrite c trig r) c := by
  unfold State.traceWrite
  extract_lets used gap u v
  have hu : s.tracesBut u c := by
    unfold u
    split
    · exact s.tracesBut_refl c
    · exact (s.tracePut_tracesBut _ _).trans (State.updTrace_tracesBut _ _ _ rfl)
  have hv : s.tracesBut v c := hu.trans (u.updTrace_tracesBut _ _ rfl)
  split
  · exact s.updTrace_tracesBut _ _ rfl
  · split
    · exact hv.trans (v.tracePut_tracesBut _ _)
    · exact hv

/-- What a trigger does to the buffer that takes it: a recording one is marked, a stopped one counts it. -/
def Trace.triggered (x y : Trace) : Prop :=
  (x.state = 1#2 ∨ x.state = 2#2 → y.trig = true ∧ y.missed = x.missed) ∧
    (x.state = 3#2 → x.missed ≠ 0xFFFFFFFF#32 → y.missed = x.missed + 1#32)

theorem State.takeTrigger_trace (s : State) (c cause core thr : Nat) :
    (∀ d, d ≠ c → (s.takeTrigger c cause core thr).1.trace d = s.trace d) ∧
      (s.trace c).triggered ((s.takeTrigger c cause core thr).1.trace c) := by
  unfold State.takeTrigger
  extract_lets t first u v w
  split
  · rename_i hrec
    have hu : s.tracesBut u c := s.traceWrite_tracesBut c _ _
    have hv : s.tracesBut v c := hu.trans (u.updTrace_tracesBut c _ rfl)
    have hw : v.tracesBut w c := v.updTrace_tracesBut c _ (by split <;> [rfl; split <;> rfl])
    have htrig : (w.trace c).trig = true := by
      have hvt : (v.trace c).trig = true := by unfold v; rw [State.trace_updTrace_same]
      unfold w
      rw [State.trace_updTrace_same]
      split <;> [exact hvt; split <;> exact hvt]
    refine ⟨(hv.trans hw).1, fun _ => ⟨htrig, (hv.trans hw).2⟩, fun h3 => absurd hrec ?_⟩
    unfold t
    rw [h3]
    decide
  · rename_i hrec
    split
    · rename_i h3
      refine ⟨fun d hd => s.trace_updTrace_ne _ _ _ hd, fun h => absurd h hrec, fun _ hm => ?_⟩
      dsimp only
      rw [State.trace_updTrace_same]
      exact if_neg hm
    · rename_i h3
      exact ⟨fun _ _ => rfl, fun h => absurd h hrec, fun h => absurd h h3⟩

/-- One cluster's part in a trigger. -/
def State.triggerAt (s : State) (origin : Option Nat) (cause core thr step low high job c : Nat) : State :=
  if origin = some c ∨ (s.trace c).cfg.getLsbD 9 then
    let r := s.takeTrigger c cause core thr
    if r.2.1 then
      r.1.postRaw 8 (s.mkEvent 0x09 8 c ((s.ownerCl c).getD 0) true (trigDetail cause r.2.2 c core step low high job))
    else r.1
  else s

theorem State.postRaw_trace (s : State) (q : Nat) (r : EventRec) (c : Nat) : (s.postRaw q r).trace c = s.trace c := by
  unfold State.postRaw
  split
  · rfl
  · dsimp only
    split <;> rfl

theorem State.triggerAt_onlyPosts (s : State) (origin : Option Nat) (cause core thr step low high job c : Nat) :
    s.onlyPosts (s.triggerAt origin cause core thr step low high job c) := by
  unfold State.triggerAt
  split
  · dsimp only
    split
    · exact (s.takeTrigger_onlyPosts _ _ _ _).trans (State.postRaw_onlyPosts _ _ _)
    · exact s.takeTrigger_onlyPosts _ _ _ _
  · exact s.onlyPosts_refl

theorem State.triggerAt_trace (s : State) (cause core thr step low high job c : Nat) :
    (∀ d, d ≠ c → (s.triggerAt none cause core thr step low high job c).trace d = s.trace d) ∧
      ((s.trace c).cfg.getLsbD 9 = false → (s.triggerAt none cause core thr step low high job c).trace c = s.trace c) ∧
      ((s.trace c).cfg.getLsbD 9 = true →
        (s.trace c).triggered ((s.triggerAt none cause core thr step low high job c).trace c)) := by
  unfold State.triggerAt
  obtain ⟨hoth, hown⟩ := s.takeTrigger_trace c cause core thr
  split
  · rename_i h
    have h9 : (s.trace c).cfg.getLsbD 9 = true := h.resolve_left (by simp)
    dsimp only
    split
    · simp only [State.postRaw_trace]
      exact ⟨hoth, fun h0 => absurd h9 (by rw [h0]; exact Bool.false_ne_true), fun _ => hown⟩
    · exact ⟨hoth, fun h0 => absurd h9 (by rw [h0]; exact Bool.false_ne_true), fun _ => hown⟩
  · rename_i h
    exact ⟨fun _ _ => rfl, fun _ => rfl, fun h9 => absurd (.inr h9) h⟩

/-- A fold whose step at n touches what is kept at n alone: what it leaves at c is the step's own work there. -/
theorem State.foldl_range_local {α : Type} (get : State → Nat → α) (f : State → Nat → State)
    (hf : ∀ s n d, d ≠ n → get (f s n) d = get s d) (s : State) (c : Nat) :
    ∀ n, (n ≤ c → get ((List.range n).foldl f s) c = get s c) ∧
      (c < n → ∃ u, get u c = get s c ∧ get ((List.range n).foldl f s) c = get (f u c) c)
  | 0 => ⟨fun _ => rfl, fun h => absurd h (Nat.not_lt_zero c)⟩
  | n + 1 => by
    obtain ⟨hbelow, habove⟩ := State.foldl_range_local get f hf s c n
    rw [List.range_succ, List.foldl_append, List.foldl_cons, List.foldl_nil]
    refine ⟨fun h => (hf _ n c (by omega)).trans (hbelow (by omega)), fun h => ?_⟩
    by_cases hc : c = n
    · subst hc
      exact ⟨_, hbelow (Nat.le_refl c), rfl⟩
    · obtain ⟨u, hu, hfu⟩ := habove (by omega)
      exact ⟨u, hu, (hf _ n c hc).trans hfu⟩

theorem State.trigger_onlyPosts (s : State) (origin : Option Nat) (cause core thr step low high job : Nat) :
    s.onlyPosts (s.trigger origin cause core thr step low high job) :=
  List.foldlRecOn (motive := fun t : State => s.onlyPosts t) _ _ s.onlyPosts_refl fun t ht c _ =>
    ht.trans (t.triggerAt_onlyPosts origin cause core thr step low high job c)

/-- A trigger of no cluster's own reaches the buffers with XTRIG and no other. -/
theorem State.trigger_trace (s : State) (cause core thr step low high job c : Nat) (hc : c < 8) :
    ((s.trace c).cfg.getLsbD 9 = false → (s.trigger none cause core thr step low high job).trace c = s.trace c) ∧
      ((s.trace c).cfg.getLsbD 9 = true →
        (s.trace c).triggered ((s.trigger none cause core thr step low high job).trace c)) := by
  obtain ⟨u, hu, ht⟩ := (State.foldl_range_local State.trace (fun s c => s.triggerAt none cause core thr step low high job c)
    (fun s n d hd => (s.triggerAt_trace cause core thr step low high job n).1 d hd) s c 8).2 hc
  have hown := (u.triggerAt_trace cause core thr step low high job c).2
  rw [← ht, hu] at hown
  exact hown

theorem dailies : Claims.Dailies := by
  unfold Claims.Dailies
  refine ⟨fun r s hl hr => ?trig, fun c v s hl => ?_⟩
  case trig =>
    refine ⟨s.dbgTrig, ?_, ?_⟩
    · obtain rfl | rfl := hr <;> exact whenLive_live _ _ hl
    have hp : s.onlyPosts s.dbgTrig := s.trigger_onlyPosts none 2 0 0 0 0 0 0
    refine ⟨by rw [hp], by rw [hp], by rw [hp], fun c hc => ?_⟩
    obtain ⟨h0, h1⟩ := s.trigger_trace 2 0 0 0 0 0 0 c hc
    exact ⟨h0, fun h9 => (h1 h9).1, fun h9 => (h1 h9).2⟩
  intro x one
  have hone : ∀ f : Trace → Trace, one (s.updTrace c.val f) (f x) := fun f =>
    ⟨rfl, s.trace_updTrace_same _ _, fun d hd => s.trace_updTrace_ne _ _ _ hd⟩
  refine ⟨fun h0 h3 => ⟨_, ?off, hone fun t => { t with cfg := v &&& 0x0FFFFFFF#32, state := 0#2, carve := false }⟩,
    fun h0 h3 hc hst hfit h8 => ⟨_, ?on, hone fun t => { t with
      cfg := v &&& 0x0FFFFFFF#32, state := 1#2, trig := false, wrptr := 0#32, trigPos := 0#32, buf := [], post := 0, written := 0
      carve := true }⟩, _, ?clear, hone fun t => { t with missed := 0#32 }⟩
  case off =>
    refine (whenLive_live _ _ hl).trans ?_
    unfold State.traceCfg
    rw [if_neg h3, if_pos (by rw [h0]; rfl)]
  case on =>
    refine (whenLive_live _ _ hl).trans ?_
    have hst' : (s.trace c.val).state = 0#2 := hst
    have hc' : (s.trace c.val).cfg.getLsbD 0 = false := hc
    unfold State.traceCfg
    dsimp only
    rw [if_neg h3, if_neg (by rw [h0]; decide), if_neg (by rw [hst']; decide), if_neg (by rw [hc']; decide),
      if_neg (by simp only [hfit, h8]; simp)]
  case clear => exact whenLive_live _ _ hl

/-! ### The freeze -/

/-- No partition that owns a stack is confidential: HBM is read as it stands. -/
theorem State.xtsKey_plain (s : State) (h : s.confAny = false) (a : Nat) : s.xtsKey a = none := by
  have hconf : ∀ p < 8, s.conf p = false := by simpa [State.confAny, upTo] using h
  unfold State.xtsKey
  split
  · split
    · rename_i p hp
      have h8 : p < 8 := List.mem_range.mp (List.mem_of_find?_eq_some hp)
      rw [hconf p h8]
      rfl
    · rfl
  · rfl

theorem SMap.find_filterKey {α : Type} (m : SMap α) (p : Nat → Bool) (k : Nat) :
    SMap.find (List.filter (fun c => p c.1) m) k = if p k then SMap.find m k else none := by
  induction m with
  | nil => simp [SMap.find]
  | cons e t ih =>
    obtain ⟨j, x⟩ := e
    simp only [List.filter_cons]
    by_cases hj : j = k
    · subst hj
      split
      · rename_i hp
        simp [SMap.find]
      · rename_i hp
        rw [ih, if_neg hp]
    · rw [SMap.find, if_neg hj, ← ih]
      split
      · rw [SMap.find, if_neg hj]
      · rfl

/-- A byte of a range that was cleared is blank, another as it was. -/
theorem State.clearRange_read (s : State) (a n x : Nat) :
    Memory.read (s.clearRange a n).mem x = if a ≤ x ∧ x < a + n then 0#8 else Memory.read s.mem x := by
  unfold Memory.read SMap.get State.clearRange
  dsimp only
  rw [SMap.find_filterKey s.mem (fun x => !(decide (a ≤ x) && decide (x < a + n)))]
  by_cases h : a ≤ x ∧ x < a + n
  · rw [if_pos h, if_neg (by simp [h])]
    rfl
  · have hout : (!(decide (a ≤ x) && decide (x < a + n))) = true := by
      rw [← Bool.decide_and, decide_eq_false h]
      rfl
    rw [if_neg h, if_pos hout]

theorem regionOf_hbm_lt (a n : Nat) (h : regionOf a = .hbm n) : a < 8 * stackBytes := by
  by_contra hg
  rw [regionOf, if_neg hg] at h
  simp only [apply_ite (· = Region.hbm n)] at h
  simp at h

/-- The granule of a byte beyond HBM lies beyond HBM. -/
theorem regionOf_beyond (a n : Nat) (h : 8 * stackBytes ≤ a) : regionOf (64 * (a / 64)) ≠ .hbm n := fun hr => by
  have hg := regionOf_hbm_lt _ _ hr
  unfold stackBytes at h hg
  omega

theorem State.cipherAt_beyond (s : State) (a : Nat) (h : 8 * stackBytes ≤ a) : s.cipherAt (a / 64) = none := by
  unfold State.cipherAt
  split
  · rename_i n hr
    exact absurd hr (regionOf_beyond a n h)
  · rfl

/-- A granule that has been cleared is under no key. -/
theorem State.clearRange_cipher (s : State) (a n g : Nat) (h1 : a ≤ 64 * g) (h2 : 64 * g < a + n) :
    (s.clearRange a n).cipher.find g = none := by
  unfold State.clearRange
  dsimp only
  rw [SMap.find_filterKey s.cipher (fun x => !(decide (a ≤ 64 * x) && decide (64 * x < a + n)))]
  rw [if_neg (by simp [h1, h2])]

theorem State.rd_plain (s : State) (a : Nat) (hc : s.cipherAt (a / 64) = none) (hx : s.xtsKey (64 * (a / 64)) = none) :
    s.rd a = Memory.read s.mem a := by
  rw [State.rd, if_pos (by rw [State.sameKey, hc, hx]; rfl)]

theorem State.freezeAll_cleared (s : State) :
    s.freezeAll.mem = (s.clearRange 0 (8 * stackBytes)).mem ∧ s.freezeAll.cipher = (s.clearRange 0 (8 * stackBytes)).cipher :=
  ⟨rfl, rfl⟩

theorem State.freezeAll_frozen (s : State) (h : s.confAny = false) : Claims.froze s s.freezeAll := by
  obtain ⟨hmem, hciph⟩ := s.freezeAll_cleared
  have hx : ∀ a, s.freezeAll.xtsKey a = none := fun a => s.freezeAll.xtsKey_plain h a
  refine ⟨rfl, rfl, rfl, rfl, rfl, rfl, fun a ha => ?_, fun a ha => ?_⟩
  · have hc : s.freezeAll.cipherAt (a / 64) = none := by
      unfold State.cipherAt
      split
      · rw [hciph]
        exact s.clearRange_cipher _ _ _ (Nat.zero_le _) (by omega)
      · rfl
    rw [State.rd_plain _ _ hc (hx _), hmem, State.clearRange_read, if_pos ⟨Nat.zero_le _, by omega⟩]
  · rw [State.rd_plain _ _ (State.cipherAt_beyond _ a ha) (hx _), hmem, State.clearRange_read, if_neg (by omega),
      s.rd_plain _ (s.cipherAt_beyond a ha) (s.xtsKey_plain h _)]

theorem State.froze_of_tap (s : State) (ir : Nat) (out : List Bool) (h : s.confAny = false) :
    Claims.froze s (s.tapLoad ir out).freezeAll := by
  obtain ⟨hf, hco, hcl, hd, hp, hl, hlow, hhigh⟩ := (s.tapLoad ir out).freezeAll_frozen h
  exact ⟨hf, hco, hcl, hd, hp, hl, hlow, hhigh⟩

theorem State.froze_of_pin (s : State) (p : Pins) (h : s.confAny = false) :
    Claims.froze s ({ s with pins := p } : State).freezeAll := by
  obtain ⟨hf, hco, hcl, hd, hp, hl, hlow, hhigh⟩ := ({ s with pins := p } : State).freezeAll_frozen h
  exact ⟨hf, hco, hcl, hd, hp, hl, hlow, hhigh⟩

theorem freezes : Claims.Freezes := by
  unfold Claims.Freezes
  refine ⟨fun s hv hz => ⟨fun hc => ?pin, fun hc => ?counted⟩, fun s hl => ⟨fun hc => ?tap, fun hc => ?bypass⟩⟩
  case pin =>
    exact ⟨_, (if_neg (by simp [hv, hz])).trans (if_neg fun h => Bool.false_ne_true (hc.symm.trans h)), s.froze_of_pin _ hc, rfl⟩
  case counted => exact (if_neg (by simp [hv, hz])).trans (if_pos hc)
  case tap => exact ⟨_, tapRow_free s _ hl hc, s.froze_of_tap _ _ hc, rfl, rfl, rfl⟩
  case bypass => exact tapRow_conf s _ hl hc

/-- Settles O60. -/
theorem dailiesAndFreezes : Obligations.DailiesAndFreezes := ⟨dailies, freezes⟩

end Sys2Proof.Machine
end

section
/-! A scrub of a stack that another, confidential partition owns (R764, R779, R780). -/
namespace Sys2Proof.Machine

/-- The PART_DESTROY whose scrub ends. -/
def sharedScrubCmd : HCmd :=
  { serial := 0, opc := 0x42#8, hdr := CmdHdr.init, started := true, tArr := 0#64, err := .none }

/-- Partition 0 is being destroyed, the scrub of stack 0 at its end, and the confidential partition 1 owns that stack. -/
def sharedScrub : State :=
  { State.reset with
    pins := { State.reset.pins with vddAon := true, resetN := true, clocksOn := true }
    dev := { State.reset.dev with own := State.reset.dev.own.put 1 { clusters := 0#8, stks := 1#8, conf := true, v := true } }
    parts := [(0, { Part.init with scrub := some (true, 0#8, 1#8), scrubCmd := some 0 })]
    sec := { State.reset.sec with parts := [(0, { SecPart.init with state := 2#2 })] }
    usb := { State.reset.usb with mgmtCmds := [sharedScrubCmd] } }

theorem sharedScrub_live : sharedScrub.live = true := by decide

/-! ### The ciphers a few rounds at a time -/

/-- A round of the cipher. -/
def encRound (s k : List Byte) : List Byte :=
  xorBytes (mixColumns [2#8, 3#8, 1#8, 1#8] (shiftRows false (s.map subByte))) k

/-- A round of the inverse cipher. -/
def decRound (s k : List Byte) : List Byte :=
  mixColumns [14#8, 11#8, 13#8, 9#8] (xorBytes ((shiftRows true s).map invSubByte) k)

/-- The cipher by its round keys: the first sum, three runs of rounds, and the last round. -/
theorem aesEnc_rounds (key b k0 kl : List Byte) (k1 k2 k3 : List (List Byte)) (h : aesKeys key = k0 :: (k1 ++ k2 ++ k3) ++ [kl])
    (hn : (k1 ++ k2 ++ k3).length = 13) :
    aesEnc key b =
      xorBytes (shiftRows false ((k3.foldl encRound (k2.foldl encRound (k1.foldl encRound (xorBytes b k0)))).map subByte)) kl := by
  rw [aesEnc, h, List.cons_append]
  dsimp only
  rw [List.take_left' hn, List.getD_append_right _ _ _ _ (Nat.le_of_eq hn), hn, List.foldl_append, List.foldl_append]
  rfl

theorem aesDec_rounds (key b k0 kl : List Byte) (k1 k2 k3 : List (List Byte))
    (h : (aesKeys key).reverse = k0 :: (k1 ++ k2 ++ k3) ++ [kl]) (hn : (k1 ++ k2 ++ k3).length = 13) :
    aesDec key b =
      xorBytes ((shiftRows true (k3.foldl decRound (k2.foldl decRound (k1.foldl decRound (xorBytes b k0))))).map invSubByte) kl := by
  rw [aesDec, h, List.cons_append]
  dsimp only
  rw [List.take_left' hn, List.getD_append_right _ _ _ _ (Nat.le_of_eq hn), hn, List.foldl_append, List.foldl_append]
  rfl

/-! ### The blank granule under its owner's key

Each step of the decryption is evaluated by itself: the master key, the pair of R764, the first tweak, and the block. -/

/-- The 16 bytes of each of some numbers. -/
def blocks16 (l : List Nat) : List (List Byte) := l.map (leBytes 16)

/-- The pair of R764 from the root secret 0 and the boot value 0: the key of the tweak, then the key of the data. -/
def blankPair : BitVec 512 :=
  88650674563581546366282095487536893494211332944251966444453953037113333130482#256 ++
    76847692970243942803245206699842661559109432865500813208128490872606944142471#256

/-- Round keys of the tweak's cipher, in three runs between the first and the last. -/
def tweakKeys : Nat → List (List Byte)
  | 1 => blocks16 [0xc3fe80f189cb26691bdacc14205a7262, 0xc406b548ca13caf81c52d49c745e9f3e, 0x6ddacdbcae244d4d27ef6b243c35a730,
    0x32563adc723d6e50d301c1d1162c881]
  | 2 => blocks16 [0xa31bb770cec17acc60e53781470a5ca5, 0x895ece798a7badd44d587b314068672c, 0xed6d2d2e4e769a5e80b7e092e052d713,
    0x3f404360b61e8d193c6520cd713d5bfc]
  | _ => blocks16 [0xb6f79a215b9ab70f15ec2d51955bcdc3, 0x3948dde006089e80b01613998c733354, 0x7f880c5dc97f967c92e5217387090c22,
    0x4ff7a77376bf7a9370b7e413c0a1f78a, 0x2773ebff58fbe7a2918471de036150ad]

/-- Round keys of the data's inverse cipher. -/
def dataKeys : Nat → List (List Byte)
  | 1 => blocks16 [0x15a03d2b8a220699cb0d702ddf9d79a, 0xb4311aa86cbaf4ea9cb0fdf04d7f5ce0, 0xb9f823bb2412f76b41490098503e7558,
    0xd88bee42f00a091ad1cfa110a7291de6]
  | 2 => blocks16 [0x9dead4d0655bf7f3117775c031035d74, 0x2881e75821c5a80a76e6bcf6d7779abe, 0xf8b12323742c8233207428b4050fc91e,
    0x9444f52572314fca1912648f1365290]
  | _ => blocks16 [0x8c9da1105458aa87257be1aa04144d1e, 0x5e675baef6b232b450a774d83b520ca6, 0xd8c50b9771234b2d216facb45c9174fa,
    0xa8d5691aa615466c6bf5787eb333aa8f, 0xa9e640ba504ce7997dfed84e9e928d58]

/-- The first tweak of granule 0 of partition 1 in epoch 0. -/
def blankTweak : List Byte := leBytes 16 0x2ee67848fbc641e023a0ac1eeb7fe00e

/-- The master key of R749 of the root secret 0. -/
def blankMaster : BitVec 256 := 87263707376230361386150111562000435793045541635895430830514334224415651762495#256

/-- What decides how granule 0 reads after a step: the bytes kept, the key that they were written under, the key of its owner, and the
root secret. They are blank, under none, and partition 1's with the root secret 0. -/
def State.blankForeign (t : State) : Bool :=
  Memory.readN t.mem 0 64 == List.replicate 64 0#8 && t.cipherAt 0 == none && t.xtsKey 0 == some (1, 0#32, 0#64) && t.sec.rs == 0#256

def Out.blankForeign : Out → Bool
  | .next t => t.blankForeign
  | _ => false

/-- The values of the decryption, each from the one before it, and the state after the scrub. -/
structure BlankValues : Prop where
  master : shake256 (leBytes 32 (0#256).toNat ++ ascii "TQ64 MEM") = blankMaster
  pair : shake512 (leBytes 32 blankMaster.toNat ++ ascii "TQ64 XTS" ++ leBytes 8 (0#64).toNat) = blankPair
  tweakKeys : aesKeys (leBytes 32 (blankPair.toNat / 2 ^ 256)) =
    leBytes 16 0xe157fb0d6411e64680c4ba2d57024f2 :: (tweakKeys 1 ++ tweakKeys 2 ++ tweakKeys 3) ++ [leBytes 16 0x9f9241d0d065e6a3a6da9c30d66d7823]
  tweak0 : xorBytes (leBytes 16 (xtsTweak 0 1 (0#32).toNat).toNat) (leBytes 16 0xe157fb0d6411e64680c4ba2d57024f2) =
    leBytes 16 0xe157fb0d6411e64680c4bb2d57024f2
  tweak1 : (Machine.tweakKeys 1).foldl encRound (leBytes 16 0xe157fb0d6411e64680c4bb2d57024f2) =
    leBytes 16 0x316aa8ea505e56c927556920d40ae105
  tweak2 : (Machine.tweakKeys 2).foldl encRound (leBytes 16 0x316aa8ea505e56c927556920d40ae105) =
    leBytes 16 0xd07627775a084ab36eefa1bccd9a4995
  tweak3 : (Machine.tweakKeys 3).foldl encRound (leBytes 16 0xd07627775a084ab36eefa1bccd9a4995) =
    leBytes 16 0x8bbd89e2563908640bcae2c367715bfa
  tweak : xorBytes (shiftRows false ((leBytes 16 0x8bbd89e2563908640bcae2c367715bfa).map subByte))
    (leBytes 16 0x9f9241d0d065e6a3a6da9c30d66d7823) = blankTweak
  dataKeys : (aesKeys (leBytes 32 blankPair.toNat)).reverse =
    leBytes 16 0xbc38f1690809ebc164b31f2bf803e2db :: (dataKeys 1 ++ dataKeys 2 ++ dataKeys 3) ++ [leBytes 16 0xec02f76cde03e12d8c6d2f147e02487]
  data0 : xorBytes blankTweak (leBytes 16 0xbc38f1690809ebc164b31f2bf803e2db) = leBytes 16 0x92de8921f3cfaa214713b335137c02d5
  data1 : (Machine.dataKeys 1).foldl decRound (leBytes 16 0x92de8921f3cfaa214713b335137c02d5) =
    leBytes 16 0x182511412b518e4f0f67eeedb42a1e50
  data2 : (Machine.dataKeys 2).foldl decRound (leBytes 16 0x182511412b518e4f0f67eeedb42a1e50) =
    leBytes 16 0xcda19783394ed9368d238edcbc38a414
  data3 : (Machine.dataKeys 3).foldl decRound (leBytes 16 0xcda19783394ed9368d238edcbc38a414) =
    leBytes 16 0x7fac8218b25acaa2041700200d8fd3c
  block : xorBytes (xorBytes ((shiftRows true (leBytes 16 0x7fac8218b25acaa2041700200d8fd3c)).map invSubByte)
    (leBytes 16 0xec02f76cde03e12d8c6d2f147e02487)) blankTweak = leBytes 16 0x72defd450e0baf9035725f85f85d75e4
  bytes : leBytes 16 (BitVec.ofNat 128 (leVal blankTweak)).toNat = blankTweak
  sum : xorBytes ((List.replicate 64 0#8).take 16) blankTweak = blankTweak
  scrubbed : Out.blankForeign (exec (.scrubDone 0) sharedScrub) = true

theorem blankValues : BlankValues := by
  constructor <;> decide +kernel

theorem blankTweak_enciphered :
    aesEnc (leBytes 32 (blankPair.toNat / 2 ^ 256)) (leBytes 16 (xtsTweak 0 1 (0#32).toNat).toNat) = blankTweak := by
  rw [aesEnc_rounds _ _ _ _ _ _ _ blankValues.tweakKeys rfl, blankValues.tweak0, blankValues.tweak1, blankValues.tweak2,
    blankValues.tweak3, blankValues.tweak]

theorem blankBlock_deciphered : xorBytes (aesDec (leBytes 32 blankPair.toNat) blankTweak) blankTweak =
    leBytes 16 0x72defd450e0baf9035725f85f85d75e4 := by
  rw [aesDec_rounds _ _ _ _ _ _ _ blankValues.dataKeys rfl, blankValues.data0, blankValues.data1, blankValues.data2,
    blankValues.data3, blankValues.block]

/-- The owner reads a blank granule through its own key. -/
theorem State.rd_blankForeign (t : State) (h : t.blankForeign = true) : t.rd 0 = 228#8 := by
  simp only [State.blankForeign, Bool.and_eq_true, beq_iff_eq] at h
  obtain ⟨⟨⟨hmem, hcipher⟩, hkey⟩, hrs⟩ := h
  have hpair : t.xtsPair 0#64 = blankPair := by
    rw [State.xtsPair, hrs, blankValues.master, blankValues.pair]
  have hgranule : t.granule 0 = xtsDec blankPair (xtsTweak 0 1 (0#32).toNat) (List.replicate 64 0#8) := by
    simp only [State.granule, Nat.mul_zero, hmem, hcipher, hkey, hpair]
  rw [State.rd, State.sameKey, Nat.zero_div, Nat.mul_zero, hcipher, hkey, hgranule, xtsDec, xtsFirst, blankTweak_enciphered,
    List.length_replicate, xtsBlocks]
  simp only [blankValues.bytes, blankValues.sum]
  rw [blankBlock_deciphered]
  rfl

theorem not_functionsEnd : ¬ Claims.FunctionsEnd := by
  unfold Claims.FunctionsEnd
  rintro ⟨-, -, -, -, -, hdone⟩
  obtain ⟨t, ht, -, -, -, -, -, -, hzero⟩ :=
    hdone 0 sharedScrub sharedScrubCmd (true, 0#8, 1#8) sharedScrub_live rfl rfl rfl rfl
  have hgranule := blankValues.scrubbed
  rw [ht] at hgranule
  have h0 : t.rd 0 = 0#8 := hzero 0 0 (by decide) (by decide) (Nat.zero_le _) (by unfold stackBytes; decide)
  exact absurd (h0.symm.trans (t.rd_blankForeign hgranule)) (by decide)

/-- Refutes O51: a stack that a scrub has zeroed need not read as zero, because a confidential partition that owns it by then reads the
blank granules through its own key. -/
theorem not_partitions : ¬ Obligations.Partitions := fun h => not_functionsEnd h.2

end Sys2Proof.Machine
end

section
/-! Reset and the ROM (R646 to R648, R752, R836), and the rails (R896, R897, R899 to R905). -/
namespace Sys2Proof.Machine

/-! ### Reset -/

theorem State.mainReset_rd (s : State) (a : Nat) : s.mainReset.rd a = 0#8 := by
  rw [show s.mainReset.rd = State.reset.rd from State.rd_congr rfl rfl rfl rfl, State.rd_reset]

theorem resetNFall_resets (s : State) (h : s.pins.resetN = true) : execResetNFall s = .next s.mainReset := if_pos h

theorem resetNRise_starts (s : State) (hr : s.pins.resetN = false) (hv : s.pins.vddAon = true) (hi : s.pins.insoleUp = true)
    (hm : s.pins.mainOff = false) (he : s.pins.enSeq = none) :
    execResetNRise s = .next (State.romStart { s with
      pins := { s.pins with resetN := true, en := 0x1FFF#13 }
      dbg := { s.dbg with ir := if s.dbg.pinCtl = 0#2 then s.dbg.ir else 0xFF#8, pinCtl := 0#2 } }) :=
  if_neg (by simp [hr, hv, hi, hm, he])

/-! ### The ROM -/

/-- The state with the straps sampled. -/
def State.strapped (s : State) : State :=
  { s with dev := { s.dev with master := s.pins.masterSel, bootSrc := s.pins.bootSrcPin } }

theorem State.romStart_straps (s : State) (h : (s.pins.masterSel && s.pins.bootSrcPin) = true) :
    s.romStart = { s.strapped with
      dev := { s.strapped.dev with boot := 6#4 }, boot := { s.boot with romStopped := true } } := if_pos h

theorem State.romStart_noSecret (s : State) (h : (s.pins.masterSel && s.pins.bootSrcPin) = false)
    (hp : pufSecret s.freeCtr s.flash = none) :
    s.romStart = { s.strapped with
      freeCtr := s.freeCtr + 1, dev := { s.strapped.dev with boot := 9#4 }, boot := { s.boot with romStopped := true } } := by
  unfold State.romStart
  simp only [h, hp]
  rfl

theorem State.romStart_waits (s : State) (rs : BitVec 256) (h : (s.pins.masterSel && s.pins.bootSrcPin) = false)
    (hp : pufSecret s.freeCtr s.flash = some rs) :
    s.romStart = { s.strapped with
      freeCtr := s.freeCtr + 1
      sec := { s.sec with pufOk := true, drbgOk := Config.drbgGood, rs := rs, bv := Config.bootValue s.freeCtr } } := by
  unfold State.romStart
  simp only [h, hp]
  rfl

/-- What the ROM's start leaves whatever it finds. -/
theorem State.romStart_frame (s : State) :
    s.romStart.pins = s.pins ∧ s.romStart.dev.master = s.pins.masterSel ∧ s.romStart.dev.bootSrc = s.pins.bootSrcPin ∧
      s.romStart.dbg = s.dbg ∧ s.romStart.cores = s.cores := by
  cases h : s.pins.masterSel && s.pins.bootSrcPin with
  | true => rw [s.romStart_straps h]; exact ⟨rfl, rfl, rfl, rfl, rfl⟩
  | false =>
    cases hp : pufSecret s.freeCtr s.flash with
    | none => rw [s.romStart_noSecret h hp]; exact ⟨rfl, rfl, rfl, rfl, rfl⟩
    | some rs => rw [s.romStart_waits rs h hp]; exact ⟨rfl, rfl, rfl, rfl, rfl⟩

/-! ### The clocks -/

/-- The links that are enabled train from now on. -/
def State.trainLinks (s : State) : State :=
  (List.range 7).foldl (fun s l => s.updLink l (fun x => if x.en then { x with state := 1#3, trainNs := s.nsW } else x)) s

theorem State.trainLinks_frame (s : State) : s.trainLinks = { s with links := s.trainLinks.links } :=
  List.foldlRecOn (motive := fun t : State => t = { s with links := t.links }) _ _ rfl fun t ht _ _ => by
    rw [State.updLink, ht]

theorem State.trainLinks_link (s : State) (l : Nat) (hl : l < 7) (he : (s.link l).en = true) :
    s.trainLinks.link l = { s.link l with state := 1#3, trainNs := s.nsW } := by
  obtain ⟨u, hu, ht⟩ := (State.foldl_range_local (fun t n => (t.link n, t.nsW))
    (fun s l => s.updLink l (fun x => if x.en then { x with state := 1#3, trainNs := s.nsW } else x))
    (fun t n d hd => by rw [State.link_updLink_ne _ _ _ _ hd]; rfl) s l 7).2 hl
  obtain ⟨hlink, hns⟩ := Prod.mk.inj hu
  have := (Prod.mk.inj ht).1
  rw [State.trainLinks, this, State.link_updLink_same, hlink, hns, if_pos he]

theorem pllLock_locks (s : State) (hr : s.pins.resetN = true) (ht : s.time.locked = false) (hm : s.pins.mainOff = false)
    (hf : s.dbg.freeze = 0#25) :
    execPllLock s = .next ({ s with
      pins := { s.pins with clocksOn := true, refclk := true }, time := { s.time with locked := true } } : State).trainLinks :=
  if_neg (by simp [hr, ht, hm, hf])

/-- Settles O25. -/
theorem resetAndRom : Obligations.ResetAndRom := by
  unfold Obligations.ResetAndRom
  refine ⟨fun s hr => ?fall, fun s hr hv hi hm he => ?rise, fun s hr ht hm hf => ?lock⟩
  case fall =>
    refine ⟨_, resetNFall_resets s hr, rfl, rfl, rfl, rfl, rfl, rfl, rfl, fun a _ => s.mainReset_rd a, State.exists_reset, rfl, rfl, rfl, rfl,
      rfl, rfl, rfl, fun i hi => ?_, rfl⟩
    interval_cases i <;> rfl
  case rise =>
    refine ⟨_, resetNRise_starts s hr hv hi hm he, ?_⟩
    generalize hu : ({ s with
      pins := { s.pins with resetN := true, en := 0x1FFF#13 }
      dbg := { s.dbg with ir := if s.dbg.pinCtl = 0#2 then s.dbg.ir else 0xFF#8, pinCtl := 0#2 } } : State) = u
    have hpins : u.pins = { s.pins with resetN := true, en := 0x1FFF#13 } := by rw [← hu]
    have hm : (u.pins.masterSel && u.pins.bootSrcPin) = (s.pins.masterSel && s.pins.bootSrcPin) := by rw [hpins]
    have hpuf : pufSecret u.freeCtr u.flash = pufSecret s.freeCtr s.flash := by rw [← hu]
    obtain ⟨h1, h2, h3, h4, h5⟩ := u.romStart_frame
    refine ⟨h1.trans hpins, by rw [h2, hpins], by rw [h3, hpins], by rw [h4, ← hu], by rw [h5, ← hu], fun ha hb => ?_, fun hn => ⟨?_, ?_⟩⟩
    · rw [u.romStart_straps (by rw [hm, ha, hb]; rfl)]
      exact ⟨rfl, rfl⟩
    · cases hp : pufSecret u.freeCtr u.flash with
      | none => rw [u.romStart_noSecret (hm.trans hn) hp, ← hu]
      | some rs => rw [u.romStart_waits rs (hm.trans hn) hp, ← hu]
    · refine ⟨fun hp => ?_, fun rs hp => ?_⟩
      · rw [u.romStart_noSecret (hm.trans hn) (hpuf.trans hp)]
        exact ⟨rfl, rfl⟩
      · rw [u.romStart_waits rs (hm.trans hn) (hpuf.trans hp), ← hu]
        exact ⟨rfl, rfl, rfl⟩
  case lock =>
    refine ⟨_, pllLock_locks s hr ht hm hf, ?_⟩
    generalize hu : ({ s with
      pins := { s.pins with clocksOn := true, refclk := true }, time := { s.time with locked := true } } : State) = u
    have hfr := u.trainLinks_frame
    refine ⟨?_, ?_, ?_, fun l hl he => ?_⟩
    · rw [hfr, ← hu]
    · rw [hfr, ← hu]
    · rw [hfr, ← hu]
    · rw [u.trainLinks_link l hl (by rw [← hu]; exact he), ← hu]
      rfl

end Sys2Proof.Machine
end

section
/-! The rails (R725, R896, R897, R899 to R905), and what a cluster that loses power leaves. -/
namespace Sys2Proof.Machine

/-! ### Reels that lose their slots (R341) -/

/-- Nothing but memory, the slots of cores and the Reels of partitions differs. -/
structure State.onlyReels (s t : State) : Prop where
  frame : t = { s with
    mem := t.mem, cipher := t.cipher, badWords := t.badWords, poison := t.poison, cores := t.cores, parts := t.parts }
  core : ∀ k, t.core k = { s.core k with slots := (t.core k).slots }
  part : ∀ p, t.part p = { s.part p with reels := (t.part p).reels }

theorem State.onlyReels_refl (s : State) : s.onlyReels s := ⟨rfl, fun _ => rfl, fun _ => rfl⟩

theorem State.onlyReels.trans {s t u : State} (h : s.onlyReels t) (g : t.onlyReels u) : s.onlyReels u :=
  ⟨by rw [g.frame, h.frame], fun k => by rw [g.core, h.core], fun p => by rw [g.part, h.part]⟩

theorem State.onlyMem.reels {s t : State} (h : s.onlyMem t) : s.onlyReels t := by
  unfold State.onlyMem at h
  have hcore : ∀ k, t.core k = s.core k := fun k => State.core_congr (by rw [h]) k
  have hpart : ∀ p, t.part p = s.part p := fun p => State.part_congr (by rw [h]) p
  exact ⟨by rw [h], fun k => by rw [hcore], fun p => by rw [hpart]⟩

theorem State.updSlot_onlyReels (s : State) (k n : Nat) (f : Slot → Slot) : s.onlyReels (s.updSlot k n f) := by
  refine ⟨rfl, fun j => ?_, fun _ => rfl⟩
  by_cases hj : j = k
  · subst hj
    rw [State.updSlot, State.core_updCore_same]
  · rw [State.updSlot, State.core_updCore_ne _ _ _ _ hj]

theorem State.updReel_onlyReels (s : State) (p idx : Nat) (f : ReelDyn → ReelDyn) : s.onlyReels (s.updReel p idx f) := by
  refine ⟨rfl, fun _ => rfl, fun q => ?_⟩
  by_cases hq : q = p
  · subst hq
    rw [State.updReel, State.part_updPart_same]
  · rw [State.updReel, State.part_updPart_ne _ _ _ _ hq]

theorem State.unbindReel_onlyReels (s : State) (p idx : Nat) : s.onlyReels (s.unbindReel p idx) := by
  unfold State.unbindReel
  extract_lets d u
  have hu : s.onlyReels u := List.foldlRecOn (motive := fun t : State => s.onlyReels t) _ _ s.onlyReels_refl fun t ht n _ =>
    ht.trans (t.updSlot_onlyReels d.core n _)
  exact hu.trans (u.updReel_onlyReels p idx _)

theorem State.setRstate_onlyReels (s : State) (p idx st : Nat) : s.onlyReels (s.setRstate p idx st) :=
  (s.wrN_onlyMem _ _).reels

theorem State.reelGone_onlyReels (s : State) (p idx : Nat) : s.onlyReels (s.reelGone p idx) := by
  unfold State.reelGone
  extract_lets u a
  have hu : s.onlyReels u := (s.unbindReel_onlyReels p idx).trans (State.setRstate_onlyReels _ _ _ _)
  exact (hu.trans (u.wrN_onlyMem _ _).reels).trans (State.updReel_onlyReels _ _ _ _)

theorem State.loseReels_onlyReels (s : State) (p k : Nat) : s.onlyReels (s.loseReels p k) :=
  List.foldlRecOn (motive := fun t : State => s.onlyReels t) _ _ s.onlyReels_refl fun t ht i _ => ht.trans (by
    split
    · exact t.onlyReels_refl
    · split
      · exact t.reelGone_onlyReels p i
      · exact (t.unbindReel_onlyReels p i).trans (State.setRstate_onlyReels _ _ _ _))

/-! ### A cluster that is gated -/

/-- What a cluster that is zeroed leaves: clusters, partitions and everything but memory, buffers and its cores. -/
theorem State.zeroCluster_frame (s : State) (c : Nat) :
    s.zeroCluster c = { s with
      mem := (s.zeroCluster c).mem, cipher := (s.zeroCluster c).cipher, badWords := (s.zeroCluster c).badWords
      poison := (s.zeroCluster c).poison, cores := (s.zeroCluster c).cores
      dbg := { s.dbg with traces := (s.zeroCluster c).dbg.traces } } := by
  unfold State.zeroCluster
  extract_lets u
  have hu : u = { s with
    mem := u.mem, cipher := u.cipher, badWords := u.badWords, poison := u.poison, dbg := { s.dbg with traces := u.dbg.traces } } := rfl
  exact List.foldlRecOn (motive := fun t : State => t = { s with
    mem := t.mem, cipher := t.cipher, badWords := t.badWords, poison := t.poison, cores := t.cores
    dbg := { s.dbg with traces := t.dbg.traces } }) _ _ (by rw [hu]) fun t ht j _ => by
      rw [State.updCore, State.clearRange, ht]

/-- What a gated cluster leaves: every other cluster, the frame of partitions, and the Gaffer but the cluster's clock. -/
structure State.gated (s t : State) (c : Nat) : Prop where
  frame : t = { s with
    mem := t.mem, cipher := t.cipher, badWords := t.badWords, poison := t.poison, cores := t.cores, parts := t.parts
    clusters := t.clusters, dbg := { s.dbg with traces := t.dbg.traces }
    gaf := { s.gaf with clkCur := t.gaf.clkCur } }
  part : ∀ p, t.part p = { s.part p with reels := (t.part p).reels }
  own : t.cl c = { s.cl c with powered := false, ctxBias := 0#2 }
  other : ∀ d, d ≠ c → t.cl d = s.cl d
  clock : t.gaf.clkCur = s.gaf.clkCur.put c 0#6

/-- The power of a cluster taken away, its clock stopped. -/
def State.unpower (s : State) (c : Nat) : State :=
  let v := s.updCl c (fun x => { x with powered := false, ctxBias := 0#2 })
  { v with gaf := { v.gaf with clkCur := v.gaf.clkCur.put c 0#6 } }

theorem State.unpower_gated (s : State) (c : Nat) : s.gated (s.unpower c) c :=
  ⟨rfl, fun _ => rfl, s.cl_updCl_same c (fun x => { x with powered := false, ctxBias := 0#2 }),
    fun d hd => s.cl_updCl_ne c d (fun x => { x with powered := false, ctxBias := 0#2 }) hd, rfl⟩

/-- The Reels of a cluster's cores lose their slots. -/
def State.loseClReels (s : State) (c : Nat) : State :=
  match s.ownerCl c with
  | some p => (upTo 9).foldl (fun (s : State) j => s.loseReels p (coreKey c j)) s
  | none => s

theorem State.loseClReels_onlyReels (s : State) (c : Nat) : s.onlyReels (s.loseClReels c) := by
  unfold State.loseClReels
  split
  · rename_i p _
    exact List.foldlRecOn (motive := fun t : State => s.onlyReels t) _ _ s.onlyReels_refl fun t ht j _ =>
      ht.trans (t.loseReels_onlyReels p (coreKey c j))
  · exact s.onlyReels_refl

theorem State.gateCluster_eq (s : State) (c : Nat) : s.gateCluster c = ((s.loseClReels c).zeroCluster c).unpower c := rfl

theorem State.gateCluster_gated (s : State) (c : Nat) : s.gated (s.gateCluster c) c := by
  rw [s.gateCluster_eq c]
  have hu := s.loseClReels_onlyReels c
  generalize s.loseClReels c = u at hu
  have hz := u.zeroCluster_frame c
  generalize u.zeroCluster c = z at hz
  obtain ⟨hframe, hpart, hown, hother, hclock⟩ := z.unpower_gated c
  have hcl : ∀ d, z.cl d = s.cl d := fun d => State.cl_congr (by rw [hz, hu.frame]) d
  have hzpart : ∀ p, z.part p = u.part p := fun p => State.part_congr (by rw [hz]) p
  refine ⟨?_, fun p => ?_, by rw [hown, hcl], fun d hd => (hother d hd).trans (hcl d), ?_⟩
  · rw [hframe, hz, hu.frame]
  · rw [hpart, hzpart, hu.part]
  · rw [hclock, hz, hu.frame]

theorem State.ownerCl_congr {s t : State} (h : t.dev.own = s.dev.own) (c : Nat) : t.ownerCl c = s.ownerCl c := by
  simp only [State.ownerCl, State.own, h]

/-! ### The power-good of a cluster falls (R902) -/

/-- A cluster of which nothing runs. -/
def State.clIdle (s : State) (p c : Nat) : Prop :=
  (s.part p).jobs = [] ∧ ∀ j, j < 9 → (s.core (coreKey c j)).chunkq = [] ∧ (s.core (coreKey c j)).dmaq = []

/-- What the loss of an idle cluster leaves before it is gated. -/
structure State.cut (s t : State) (c : Nat) : Prop where
  frame : t = { s with
    mem := t.mem, cipher := t.cipher, badWords := t.badWords, poison := t.poison, cores := t.cores, parts := t.parts
    clusters := t.clusters }
  jobs : ∀ p, (t.part p).jobs = (s.part p).jobs
  powered : ∀ d, (t.cl d).powered = (s.cl d).powered

/-- One core of an idle cluster that is lost. -/
def State.cutCore (s : State) (p c j : Nat) : State :=
  let k := coreKey c j
  let s := (s.abandonDma p k).loseReels p k
  let q := (s.core k).chunkq
  let s := s.updCore k (fun x => { x with chunkq := [] })
  q.foldl (fun s x => s.finishChunk p x stFaulted 0) s

/-- Nothing but memory, cores and partitions differs; the queues of cores and the jobs of partitions are as they were. -/
structure State.cutting (s t : State) : Prop where
  frame : t = { s with
    mem := t.mem, cipher := t.cipher, badWords := t.badWords, poison := t.poison, cores := t.cores, parts := t.parts }
  jobs : ∀ p, (t.part p).jobs = (s.part p).jobs
  queues : ∀ k, (s.core k).chunkq = [] → (t.core k).chunkq = [] ∧ (t.core k).dmaq = (s.core k).dmaq

theorem State.cutCore_cutting (s : State) (p c j : Nat) (hc : (s.core (coreKey c j)).chunkq = []) (hd : (s.core (coreKey c j)).dmaq = []) :
    s.cutting (s.cutCore p c j) := by
  have hab : s.abandonDma p (coreKey c j) = s := by rw [State.abandonDma, hd, List.foldl_nil]
  unfold State.cutCore
  extract_lets k u q v
  have hu : s.onlyReels u := by
    unfold u k
    rw [hab]
    exact s.loseReels_onlyReels p _
  have hq : q = [] := by unfold q; rw [hu.core]; exact hc
  rw [hq, List.foldl_nil]
  refine ⟨by unfold v; rw [State.updCore, hu.frame], fun r => ?_, fun i hi => ?_⟩
  · have hv : v.part r = u.part r := rfl
    rw [hv, hu.part]
  · unfold v
    by_cases hik : i = k
    · subst hik
      rw [State.core_updCore_same, hu.core]
      exact ⟨rfl, rfl⟩
    · rw [State.core_updCore_ne _ _ _ _ hik, hu.core]
      exact ⟨hi, rfl⟩

theorem State.cutting.trans {s t u : State} (h : s.cutting t) (g : t.cutting u) : s.cutting u :=
  ⟨by rw [g.frame, h.frame], fun p => (g.jobs p).trans (h.jobs p), fun k hk =>
    ⟨(g.queues k (h.queues k hk).1).1, (g.queues k (h.queues k hk).1).2.trans (h.queues k hk).2⟩⟩

theorem State.cutCores_cutting (s : State) (p c : Nat)
    (h : ∀ j, j < 9 → (s.core (coreKey c j)).chunkq = [] ∧ (s.core (coreKey c j)).dmaq = []) :
    s.cutting ((upTo 9).foldl (fun s j => s.cutCore p c j) s) := by
  refine List.foldlRecOn (motive := fun t : State => s.cutting t) _ _ ⟨rfl, fun _ => rfl, fun _ h => ⟨h, rfl⟩⟩ fun t ht j hj => ?_
  obtain ⟨hc, hd⟩ := h j (List.mem_range.mp hj)
  obtain ⟨hc', hd'⟩ := ht.queues _ hc
  exact ht.trans (t.cutCore_cutting p c j hc' (hd'.trans hd))

theorem State.dropMbox_frame (s : State) (c : Nat) :
    s.dropMbox c = { s with parts := (s.dropMbox c).parts } ∧ ∀ p, ((s.dropMbox c).part p).jobs = (s.part p).jobs := by
  refine List.foldlRecOn (motive := fun t : State => t = { s with parts := t.parts } ∧ ∀ p, (t.part p).jobs = (s.part p).jobs) _ _
    ⟨rfl, fun _ => rfl⟩ fun t ht q _ => ⟨by rw [State.updPart, ht.1], fun p => ?_⟩
  rw [← ht.2 p]
  by_cases hp : p = q
  · subst hp
    rw [State.part_updPart_same]
  · rw [State.part_updPart_ne _ _ _ _ hp]

theorem State.cutCluster_eq (s : State) (c : Nat) (h : ∀ p, s.ownerCl c = some p → s.clIdle p c) :
    s.cutCluster c = ((match s.ownerCl c with
      | none => s
      | some p => (upTo 9).foldl (fun s j => s.cutCore p c j) s).updCl c (fun x => { x with fab := [] })).dropMbox c := by
  cases ho : s.ownerCl c with
  | none => simp only [State.cutCluster, ho]
  | some p =>
    obtain ⟨hj, -⟩ := h p ho
    simp only [State.cutCluster, ho, hj, SMap.keys, List.map_nil, List.filter_nil, List.foldl_nil]
    rfl

theorem State.cutCluster_cut (s : State) (c : Nat) (h : ∀ p, s.ownerCl c = some p → s.clIdle p c) : s.cut (s.cutCluster c) c := by
  rw [s.cutCluster_eq c h]
  generalize hu : (match s.ownerCl c with
      | none => s
      | some p => (upTo 9).foldl (fun s j => s.cutCore p c j) s) = u
  have hcut : s.cutting u := by
    rw [← hu]
    split
    · exact ⟨rfl, fun _ => rfl, fun _ h => ⟨h, rfl⟩⟩
    · rename_i p hp
      exact s.cutCores_cutting p c (h p hp).2
  obtain ⟨hfr, hjobs⟩ := (u.updCl c (fun x => { x with fab := [] })).dropMbox_frame c
  generalize (u.updCl c (fun x => { x with fab := [] })).dropMbox c = t at hfr hjobs
  have hcl : ∀ d, t.cl d = (u.updCl c (fun x => { x with fab := [] })).cl d := fun d => State.cl_congr (by rw [hfr]) d
  have hucl : ∀ d, u.cl d = s.cl d := fun d => State.cl_congr (by rw [hcut.frame]) d
  refine ⟨by rw [hfr, State.updCl, hcut.frame], fun p => (hjobs p).trans (hcut.jobs p), fun d => ?_⟩
  rw [hcl]
  by_cases hd : d = c
  · subst hd
    rw [State.cl_updCl_same, hucl]
  · rw [State.cl_updCl_ne _ _ _ _ hd, hucl]

theorem State.failRiseOf_still (s : State) (c : Nat) (hc : s.gaf.cur = none) (ht : s.gaf.clTrans = []) : s.failRiseOf c = s := by
  simp [State.failRiseOf, hc, ht]

/-- Without jobs the scheduler has nothing to do. -/
theorem State.schedule_noJobs (s : State) (p : Nat) (h : (s.part p).jobs = []) : s.schedule p = s :=
  schedule_settled ⟨fun _ hx => (List.not_mem_nil (h ▸ hx)).elim, .inr fun _ hx => (List.not_mem_nil (h ▸ hx)).elim⟩

/-- The last of what the Gaffer does with a cluster whose rail has failed. -/
def State.railFailed (s : State) (c : Nat) : State :=
  State.settleTrim { s with
    pins := { s.pins with en := s.pins.en &&& ~~~(enCl c), pg := s.pins.pg &&& ~~~(1#14 <<< (6 + c)) }
    gaf := { s.gaf with railErr := true } }

theorem State.railFailed_frame (s : State) (c : Nat) :
    s.railFailed c = { s with pins := (s.railFailed c).pins, gaf := (s.railFailed c).gaf } ∧
      (s.railFailed c).gaf.railErr = true ∧ (s.railFailed c).pins.en = s.pins.en &&& ~~~(enCl c) ∧
      (s.railFailed c).pins.pg = s.pins.pg &&& ~~~(1#14 <<< (6 + c)) := by
  unfold State.railFailed State.settleTrim
  split <;> exact ⟨rfl, rfl, rfl, rfl⟩

theorem pgClFall_falls (c : Fin 8) (s : State) (hl : s.live = true) (hp : (s.cl c.val).powered = true) (hc : s.gaf.cur = none)
    (ht : s.gaf.clTrans = []) :
    ∃ v : State, (s.cutCluster c.val).onlyPosts v ∧
      execPgClFall c s = .next (match ((v.gateCluster c.val).railFailed c.val).ownerCl c.val with
        | some p => ((v.gateCluster c.val).railFailed c.val).schedule p
        | none => (v.gateCluster c.val).railFailed c.val) := by
  unfold execPgClFall
  dsimp only
  rw [if_neg (by simp [hl, hp]), s.failRiseOf_still c.val hc ht]
  exact ⟨_, (s.cutCluster c.val).postUnit_onlyPosts _ _ _ _ _ _ _ _ _ _ _, rfl⟩

theorem enCl_clears (x : BitVec 13) (c : Nat) (h : c < 8) : (x &&& ~~~(enCl c)).getLsbD (5 + c) = false := by
  have h1 : 5 + c < 13 := by omega
  simp [enCl, h1]

theorem pgCl_clears (x : BitVec 14) (c : Nat) (h : c < 8) : (x &&& ~~~(1#14 <<< (6 + c))).getLsbD (6 + c) = false := by
  have h1 : 6 + c < 14 := by omega
  simp [h1]

theorem pgClFall_left (c : Fin 8) (s : State) (hl : s.live = true) (hp : (s.cl c.val).powered = true) (hc : s.gaf.cur = none)
    (ht : s.gaf.clTrans = []) (hidle : ∀ p, s.ownerCl c.val = some p → s.clIdle p c.val) :
    ∃ t, execPgClFall c s = .next t ∧ (t.cl c.val).powered = false ∧ t.gaf.railErr = true ∧
      t.pins.en.getLsbD (5 + c.val) = false ∧ t.pins.pg.getLsbD (6 + c.val) = false ∧
      (∀ d, d < 8 → d ≠ c.val → (t.cl d).powered = (s.cl d).powered) := by
  obtain ⟨v, hv, hrun⟩ := pgClFall_falls c s hl hp hc ht
  have hcut := s.cutCluster_cut c.val hidle
  generalize s.cutCluster c.val = u at hv hcut
  have hg := v.gateCluster_gated c.val
  generalize v.gateCluster c.val = w at hg hrun
  obtain ⟨hfr, herr, hen, hpg⟩ := w.railFailed_frame c.val
  generalize w.railFailed c.val = t at hfr herr hen hpg hrun
  have hcl : ∀ d, t.cl d = w.cl d := fun d => State.cl_congr (by rw [hfr]) d
  have hvcl : ∀ d, v.cl d = u.cl d := fun d => State.cl_congr (by rw [hv]) d
  have hown : t.ownerCl c.val = s.ownerCl c.val := State.ownerCl_congr (by rw [hfr, hg.frame, hv, hcut.frame]) _
  have hpart : ∀ p, (t.part p).jobs = (s.part p).jobs := fun p => by
    have h1 : t.part p = w.part p := State.part_congr (by rw [hfr]) p
    have h2 : v.part p = u.part p := State.part_congr (by rw [hv]) p
    rw [h1, hg.part, h2, hcut.jobs]
  have hnext : execPgClFall c s = .next t := by
    rw [hrun]
    cases ho : t.ownerCl c.val with
    | none => rfl
    | some p => exact congrArg _ (t.schedule_noJobs p ((hpart p).trans (hidle p (hown ▸ ho)).1))
  refine ⟨t, hnext, by rw [hcl, hg.own], herr, by rw [hen]; exact enCl_clears _ _ c.isLt, by rw [hpg]; exact pgCl_clears _ _ c.isLt,
    fun d _ hd => ?_⟩
  rw [hcl, hg.other d hd, hvcl, hcut.powered]

/-! ### Rails that shut down -/

theorem refclkLoss_stops (s : State) (hf : s.dbg.freeze = 0#25) (he : s.pins.en.getLsbD 1 = true) :
    execRefclkLoss s = .next ({ s with pins := { s.pins with refclk := false } } : State).stopAll :=
  congrArg Host.Outcome.next (if_pos ⟨hf, he⟩)

theorem enSequenceStep_next (s : State) (i : Nat) (h : s.pins.enSeq = some i) :
    execEnSequenceStep s = .next { s with pins := { s.pins with
      en := s.pins.en ||| (1#13 <<< i), pg := s.pins.pg ||| (1#14 <<< (i + 1)), enSeq := if i ≥ 12 then none else some (i + 1) } } := by
  unfold execEnSequenceStep
  rw [h]

/-- Settles O27. -/
theorem rails : Obligations.Rails := by
  unfold Obligations.Rails
  refine ⟨fun s hv => ?rise, fun s hv => ⟨?loss, congrArg _ (if_pos hv), fun hi hm he hq => ?soc, fun n hn hf hu => ?pg, fun hr hlat hs => ?restart,
    fun hlat => ?latched⟩, fun s i hi hlt => ?enStep, fun s => ⟨fun hf he => ?refclk, fun he => ?noRefclk⟩,
    fun c s hl hp hc ht hidle => pgClFall_left c s hl hp hc ht hidle⟩
  case rise =>
    exact ⟨_, if_neg (by simp [hv]), rfl, rfl, rfl, rfl, rfl, rfl, rfl, rfl⟩
  case loss =>
    exact ⟨_, if_neg (by simp [hv]), rfl, rfl, rfl, rfl, rfl⟩
  case soc =>
    exact ⟨_, if_neg (by simp [hv, hi, hm, he, hq]), rfl, rfl, rfl⟩
  case pg =>
    refine ⟨_, if_neg ?_, ?_⟩
    · simp only [hf, hv, hu]
      simp
      omega
    rw [s.stopAll_eq]
    exact ⟨rfl, rfl, rfl, rfl, rfl, rfl, rfl, rfl, rfl⟩
  case restart =>
    have hoff : (s.pins.shutdown || s.pins.therm) = true := by simpa using hs
    exact if_neg (by simp [hr, hv, hlat, hoff])
  case latched => exact if_pos (by simp [hlat])
  case enStep =>
    refine (enSequenceStep_next s i hi).trans ?_
    congr 3
    by_cases h12 : i = 12
    · rw [if_pos (by omega), if_pos h12]
    · rw [if_neg (by omega), if_neg h12]
  case refclk =>
    refine ⟨_, refclkLoss_stops s hf he, ?_⟩
    rw [State.stopAll_eq]
    exact ⟨rfl, rfl, rfl, rfl, rfl⟩
  case noRefclk => exact congrArg _ (if_neg fun h => Bool.false_ne_true (he.symm.trans h.2))

end Sys2Proof.Machine
end

section
/-! Firmware images (R454, R616, R649, R651 to R653). -/
namespace Sys2Proof.Machine

/-! ### An image arrives -/

theorem imageReceive_bursts (data : List Byte) (last : Bool) (s : State) (hl : s.live = true) (hw : s.wantsImage = true)
    (hb : s.dev.bootSrc = false) (hu : s.usbBulk = true) :
    execImageReceive data last s = .next (s.inBursts 8 data.length (fun s =>
      let l := s.usbData ++ data
      if last then s.imageWhole l else s.imageSome l)) := if_pos (by simp [hl, hw, hb, hu])

/-- A piece of an image whose bursts are granted. -/
theorem State.imagePart_eq (u : State) (l : List Byte) (last : Bool) :
    (if last then u.imageWhole l else u.imageSome l) = { u.store (clStore 0 0) l with
      usbData := if last then [] else l, boot := if last then { u.boot with image := l } else u.boot
      dev := { u.dev with boot := if last then 2#4 else 1#4 } } := by
  have h := u.store_onlyMem (clStore 0 0) l
  unfold State.imageWhole State.imageSome
  generalize u.store (clStore 0 0) l = v at h ⊢
  cases last <;> rw [h] <;> rfl

/-! ### The firmware starts -/

theorem State.calibWr_frame (s : State) (i : Nat) (v : W32) :
    s.calibWr i v = { s with
      dev := { s.dev with csrRej := (s.calibWr i v).dev.csrRej }, aud := { s.aud with calib := (s.calibWr i v).aud.calib } } := rfl

/-- The calibration of the flash in AUD. -/
def State.calibAll (s : State) : State := (upTo 80).foldl (fun t i => t.calibWr i (s.calibWord i)) s

theorem State.calibAll_frame (s : State) : s.calibAll = { s with
    dev := { s.dev with csrRej := s.calibAll.dev.csrRej }, aud := { s.aud with calib := s.calibAll.aud.calib } } :=
  List.foldlRecOn (motive := fun t : State => t = { s with
    dev := { s.dev with csrRej := t.dev.csrRej }, aud := { s.aud with calib := t.aud.calib } }) _ _ rfl fun t ht i _ => by
      rw [t.calibWr_frame, ht]

theorem State.copyCalib_eq (s : State) : s.copyCalib = { s.calibAll with aon := { s.calibAll.aon with
    calib := (s.calibAll.aud.calib.filter (fun e => 64 ≤ e.1)).map (fun e => (e.1 - 64, e.2)) } } := rfl

theorem State.copyCalib_frame (s : State) : s.copyCalib = { s with
    dev := { s.dev with csrRej := s.copyCalib.dev.csrRej }, aud := { s.aud with calib := s.copyCalib.aud.calib }
    aon := { s.aon with calib := s.copyCalib.aon.calib } } := by
  rw [s.copyCalib_eq]
  have h := s.calibAll_frame
  generalize s.calibAll = t at h ⊢
  rw [h]

/-- The map of a list's bytes that are not zero, the first of them at an offset. -/
def nonzeroBytes (l : List Byte) (o : Nat) : SMap Byte :=
  ((l.zip (List.range' o l.length)).filter (fun x => x.1 != 0#8)).map (fun x => (x.2, x.1))

theorem nonzeroBytes_zero (l : List Byte) :
    nonzeroBytes l 0 = ((l.zip (upTo l.length)).filter (fun x => x.1 != 0#8)).map (fun x => (x.2, x.1)) := by
  rw [nonzeroBytes, ← List.range_eq_range']
  rfl

theorem nonzeroBytes_cons (b : Byte) (l : List Byte) (o : Nat) :
    nonzeroBytes (b :: l) o = if b = 0#8 then nonzeroBytes l (o + 1) else (o, b) :: nonzeroBytes l (o + 1) := by
  unfold nonzeroBytes
  by_cases hb : b = 0#8
  · subst hb
    simp [List.range'_succ]
  · simp [List.range'_succ, hb]

theorem nonzeroBytes_below (l : List Byte) (o k : Nat) (h : k < o) : SMap.find (nonzeroBytes l o) k = none := by
  induction l generalizing o with
  | nil => rfl
  | cons b l ih =>
    rw [nonzeroBytes_cons]
    split
    · exact ih (o + 1) (by omega)
    · rw [SMap.find, if_neg (by omega)]
      exact ih (o + 1) (by omega)

/-- What is read there is the list. -/
theorem nonzeroBytes_get (l : List Byte) (o i : Nat) (h : i < l.length) :
    SMap.get (nonzeroBytes l o) 0#8 (o + i) = l.getD i 0#8 := by
  induction l generalizing o i with
  | nil => exact absurd h (Nat.not_lt_zero i)
  | cons b l ih =>
    rw [nonzeroBytes_cons]
    cases i with
    | zero =>
      split
      · rename_i hb
        rw [SMap.get, nonzeroBytes_below l (o + 1) (o + 0) (by omega), hb]
        rfl
      · simp [SMap.get, SMap.find]
    | succ i =>
      have hi : i < l.length := Nat.lt_of_succ_lt_succ h
      have hs : SMap.get (nonzeroBytes l (o + 1)) 0#8 (o + (i + 1)) = (b :: l).getD (i + 1) 0#8 := by
        rw [show o + (i + 1) = o + 1 + i by omega, ih (o + 1) i hi]
        rfl
      split
      · exact hs
      · rw [← hs]
        unfold SMap.get
        rw [SMap.find, if_neg (by omega)]

/-- The state of an accepted image's firmware before the calibration is copied. -/
def State.firmware (s : State) (l : List Byte) : State :=
  { s.clearRange (clStore 0 0) 0x2000000 with
    boot := { s.boot with
      entry := BitVec.ofNat 32 (recN l 24 4), running := true, startNs := s.nsW, ctlImage := Config.ctlImage l }
    dev := { s.dev with boot := 8#4, fwver := BitVec.ofNat 32 (recN l 12 4) }
    sec := { s.sec with fwm := shake256 l }
    devCtl := { Ctl.init with
      pc := BitVec.ofNat 64 (localBase + recN l 24 4), mem := nonzeroBytes ((l.drop (recN l 16 4)).take (recN l 20 4)) 0 }
    hbm := (upTo 8).map (fun n => (n, { s.stack n with state := 3#2, hard := s.repairRows n }))
    time := { s.time with
      ethTx := Config.latency s.flash 0, ethRx := Config.latency s.flash 1
      ltx := (upTo 7).map (fun n => (n, Config.latency s.flash (2 + n)))
      lrx := (upTo 7).map (fun n => (n, Config.latency s.flash (9 + n))) } }

theorem State.startFirmware_eq (s : State) (l : List Byte) : s.startFirmware l = (s.firmware l).copyCalib := by
  unfold State.firmware
  rw [nonzeroBytes_zero]
  rfl

/-- What the start of the firmware leaves, whatever the calibration. -/
theorem State.startFirmware_frame (s : State) (l : List Byte) :
    s.startFirmware l = { s.firmware l with
      dev := { (s.firmware l).dev with csrRej := (s.startFirmware l).dev.csrRej }
      aud := { s.aud with calib := (s.startFirmware l).aud.calib }
      aon := { s.aon with calib := (s.startFirmware l).aon.calib } } := by
  rw [s.startFirmware_eq]
  exact (s.firmware l).copyCalib_frame

/-- The code of an image, read in the memory of the device controller. -/
theorem imageCode_get (l : List Byte) (off len i : Nat) (h : i < len) (hd : i < (l.drop off).length) :
    SMap.get (nonzeroBytes ((l.drop off).take len) 0) 0#8 i = l.getD (off + i) 0#8 := by
  have hlt : i < ((l.drop off).take len).length := by
    rw [List.length_take]
    omega
  have hg := nonzeroBytes_get ((l.drop off).take len) 0 i hlt
  rw [Nat.zero_add] at hg
  rw [hg]
  simp only [List.getD_eq_getElem?_getD, List.getElem?_take, List.getElem?_drop, h, if_true]

/-- A report that has no way to the master goes nowhere. -/
theorem State.sendReport_nowhere (s : State) (kind v : Nat) (hg : s.dev.geom = false) (hn : upLink s.node = none) :
    s.sendReport kind v = s := by
  unfold State.sendReport State.sendOn
  rw [if_neg (by rw [hg]; exact Bool.false_ne_true), hn]

theorem imageVerify_accepts (s : State) (hl : s.live = true) (hb : s.dev.boot = 2#4) (hm : s.dev.master = false)
    (hg : s.dev.geom = false) (hn : upLink s.node = none) (hv : imageVerdict s.boot.image = 8#4) :
    execImageVerifyDone s = .next (s.startFirmware s.boot.image) := by
  unfold execImageVerifyDone
  have hfr := s.startFirmware_frame s.boot.image
  rw [if_neg (by simp [hl, hb])]
  dsimp only
  rw [if_pos hv]
  generalize s.startFirmware s.boot.image = t at hfr ⊢
  have hdev : t.dev = { s.dev with boot := 8#4, fwver := BitVec.ofNat 32 (recN s.boot.image 12 4), csrRej := t.dev.csrRej } := by
    rw [hfr]
    rfl
  have hnode : t.node = s.node := by rw [State.node, hdev, State.node]
  rw [if_neg (by rw [hdev, hm]; decide), t.sendReport_nowhere 1 8 (by rw [hdev, hg]) (by rw [hnode, hn])]

theorem imageVerify_rejects (s : State) (hl : s.live = true) (hb : s.dev.boot = 2#4) (hm : s.dev.master = false)
    (hg : s.dev.geom = false) (hn : upLink s.node = none) (hv : imageVerdict s.boot.image ≠ 8#4) :
    execImageVerifyDone s = .next { s with
      dev := { s.dev with boot := imageVerdict s.boot.image }, boot := { s.boot with image := [] } } := by
  unfold execImageVerifyDone
  rw [if_neg (by simp [hl, hb])]
  dsimp only
  rw [if_neg hv]
  exact congrArg _ ((if_neg (by rw [hm]; decide)).trans (State.sendReport_nowhere _ _ _ hg hn))

/-- Settles O26. -/
theorem images : Obligations.Images := by
  unfold Obligations.Images
  refine ⟨fun data last s hl hw hb hu => ⟨fun hn => ?waits, fun u ht => ⟨State.takeBursts_usb 8 _ s u ht, ?taken⟩⟩,
    fun s hl hb hm hg hn => ?verdict⟩
  case waits =>
    rw [show exec (.imageReceive data last) s = _ from imageReceive_bursts data last s hl hw hb hu]
    rw [State.inBursts, hn]
  case taken =>
    rw [show exec (.imageReceive data last) s = _ from imageReceive_bursts data last s hl hw hb hu]
    rw [State.inBursts, ht]
    dsimp only
    have hfr := State.takeBursts_usb 8 _ s u ht
    rw [State.imagePart_eq]
    have h1 : u.usbData = s.usbData := by rw [hfr]
    have h2 : u.boot = s.boot := by rw [hfr]
    have h3 : u.dev = s.dev := by rw [hfr]
    rw [h1, h2, h3]
  case verdict =>
    by_cases hv : imageVerdict s.boot.image = 8#4
    · refine ⟨_, imageVerify_accepts s hl hb hm hg hn hv, ?_⟩
      have hfr := s.startFirmware_frame s.boot.image
      generalize s.startFirmware s.boot.image = t at hfr ⊢
      have hmem : t.mem = (s.clearRange (clStore 0 0) 0x2000000).mem := by rw [hfr]; rfl
      have hctl : t.devCtl = (s.firmware s.boot.image).devCtl := by rw [hfr]
      refine ⟨by rw [hfr, hv]; rfl, fun _ => ⟨by rw [hfr]; rfl, by rw [hfr]; rfl, by rw [hfr]; rfl, by rw [hctl]; rfl, by rw [hctl]; rfl,
        fun i hi hd => ?_, fun n hn8 => ?_, by rw [hfr]; rfl, fun a => ?_⟩, fun h => absurd hv h⟩
      · rw [hctl]
        exact imageCode_get _ _ _ i hi hd
      · have hh : t.hbm = (s.firmware s.boot.image).hbm := by rw [hfr]
        rw [State.stack, hh]
        interval_cases n <;> rfl
      · rw [hmem, State.clearRange_read]
    · refine ⟨_, imageVerify_rejects s hl hb hm hg hn hv, rfl, fun h => absurd h hv, fun _ => rfl⟩

end Sys2Proof.Machine
end

section
/-! A cluster powered in an emergency while Dailies spills into its store (R736, R743, R744, R850). -/
namespace Sys2Proof.Machine

/-- The transition whose next step powers cluster 0. -/
def spillRise : Trans := { Trans.init with rising := true, plan := [16] }

/-- In an emergency a rise is about to power cluster 0 of partition 0. Its Dailies takes EV_THROTTLE as a trigger, and spills into the
cluster's store. -/
def spillPower : State :=
  { State.reset with
    pins := { Pins.init with resetN := true, clocksOn := true }
    dev := { Dev.init with own := [(0, { clusters := 1#8, stks := 0#8, conf := false, v := true })] }
    gaf := { Gaf.init with emerg := true, railEn := 1#13, cur := some spillRise }
    dbg := { State.reset.dbg with traces := [(0, { spillTrace 0xF000000000#40 with cfg := 0x800100#32 })] } }

/-- The first byte of cluster store 0 after a step. -/
def Out.storeByte : Out → Byte
  | .next t => t.rd (clStore 0 0)
  | _ => 0#8

/-- The TRIGGER record of EV_THROTTLE stands where the store was cleared. -/
theorem spillPower_storeByte : Out.storeByte (exec (.riseStep none true) spillPower) = 1#8 := by decide

/-- Refutes O16: the emergency floor that is put in force as a cluster is powered posts EV_THROTTLE, whose record Dailies may spill into
the store that has just been cleared. -/
theorem not_fallsAndRises : ¬ Obligations.FallsAndRises := by
  unfold Obligations.FallsAndRises
  rintro ⟨-, -, hrise, -⟩
  obtain ⟨hok, -⟩ := hrise none 0 spillPower spillRise [] (by decide) rfl rfl rfl (by decide)
  obtain ⟨t, ht, -, -, -, hzero, -⟩ := hok (by decide)
  have hbyte := spillPower_storeByte
  rw [ht] at hbyte
  have h0 : t.rd (clStore 0 0) = 0#8 := hzero 0 (by decide)
  exact absurd (h0.symm.trans hbyte) (by decide)

end Sys2Proof.Machine
end

section
/-! Throttle windows, emergencies and THERMTRIP (R741 to R745, R904). -/
namespace Sys2Proof.Machine

/-! ### Throttle levels -/

/-- Of the Gaffer no more than the throttle levels differs, and the cores and the clusters are the same. -/
def State.onlyLevels (s t : State) : Prop :=
  t.gaf = { s.gaf with level := t.gaf.level } ∧ t.cores = s.cores ∧ t.clusters = s.clusters

theorem State.onlyLevels_refl (s : State) : s.onlyLevels s := ⟨rfl, rfl, rfl⟩

theorem State.onlyLevels.trans {s t u : State} (h : s.onlyLevels t) (g : t.onlyLevels u) : s.onlyLevels u := by
  obtain ⟨hgaf, hcores, hcl⟩ := h
  obtain ⟨ggaf, gcores, gcl⟩ := g
  exact ⟨by rw [ggaf, hgaf], gcores.trans hcores, gcl.trans hcl⟩

theorem State.onlyPosts.levels {s t : State} (h : s.onlyPosts t) : s.onlyLevels t ∧ t.gaf.level = s.gaf.level := by
  rw [h]
  exact ⟨⟨rfl, rfl, rfl⟩, rfl⟩

/-- The level of a cluster, without its event. -/
def State.withLevel (s : State) (c l : Nat) : State :=
  { s with gaf := { s.gaf with level := s.gaf.level.put c (BitVec.ofNat 4 l) } }

/-- A level set is the level, and may post EV_THROTTLE. -/
theorem State.setLevel_posts (s : State) (c l : Nat) : (s.withLevel c l).onlyPosts (s.setLevel c l) := by
  rw [show s.setLevel c l = match (s.withLevel c l).ownerCl c with
    | some p =>
      if ((s.gaf.level.get 0#4 c).toNat == 0) != (l == 0) then
        (s.withLevel c l).post p none 0x08 7 (((s.withLevel c l).logCl p c).getD 0) p false
          (throttleDetail l (((s.withLevel c l).logCl p c).getD 0) false)
      else s.withLevel c l
    | none => s.withLevel c l from rfl]
  generalize s.withLevel c l = u
  cases u.ownerCl c with
  | none => exact u.onlyPosts_refl
  | some p =>
    dsimp only
    split
    · exact u.post_onlyPosts _ _ _ _ _ _ _ _
    · exact u.onlyPosts_refl

theorem State.setLevel_level (s : State) (c l : Nat) : (s.setLevel c l).gaf.level = s.gaf.level.put c (BitVec.ofNat 4 l) :=
  (s.setLevel_posts c l).levels.2

theorem State.setLevel_onlyLevels (s : State) (c l : Nat) : s.onlyLevels (s.setLevel c l) :=
  State.onlyLevels.trans (t := s.withLevel c l) ⟨rfl, rfl, rfl⟩ (s.setLevel_posts c l).levels.1

/-! ### The emergency floor -/

theorem State.floorLevel_onlyLevels (s : State) (c : Nat) : s.onlyLevels (s.floorLevel c) := by
  unfold State.floorLevel
  split
  · exact s.setLevel_onlyLevels c 12
  · exact s.onlyLevels_refl

theorem State.floorLevel_same (s : State) (c : Nat) : 12 ≤ ((s.floorLevel c).gaf.level.get 0#4 c).toNat := by
  unfold State.floorLevel
  split
  · rw [State.setLevel_level, SMap.get_put_same]
    decide
  · omega

theorem State.floorLevel_ne (s : State) {c d : Nat} (h : d ≠ c) :
    (s.floorLevel c).gaf.level.get 0#4 d = s.gaf.level.get 0#4 d := by
  unfold State.floorLevel
  split
  · rw [State.setLevel_level, SMap.get_put_ne _ _ _ _ _ h]
  · rfl

theorem State.floorLevel_above (s : State) {c : Nat} (h : 12 ≤ (s.gaf.level.get 0#4 c).toNat) : s.floorLevel c = s :=
  if_neg (by omega)

/-- The floor of the clusters of a list: each of them is at 12 or above, and no other changes. -/
theorem State.floorLevels_spec : ∀ (l : List Nat) (s : State),
    let t := l.foldl (fun s c => s.floorLevel c) s
    s.onlyLevels t ∧ (∀ c, c ∈ l → 12 ≤ (t.gaf.level.get 0#4 c).toNat) ∧
      (∀ c, c ∉ l → t.gaf.level.get 0#4 c = s.gaf.level.get 0#4 c) ∧
      ((∀ c, c ∈ l → 12 ≤ (s.gaf.level.get 0#4 c).toNat) → t = s)
  | [], s => ⟨s.onlyLevels_refl, fun c h => absurd h List.not_mem_nil, fun _ _ => rfl, fun _ => rfl⟩
  | c :: l, s => by
    obtain ⟨hframe, hin, hout, hsame⟩ := State.floorLevels_spec l (s.floorLevel c)
    refine ⟨(s.floorLevel_onlyLevels c).trans hframe, fun d hd => ?_, fun d hd => ?_, fun h => ?_⟩
    · by_cases hl : d ∈ l
      · exact hin d hl
      · obtain rfl : d = c := (List.mem_cons.mp hd).resolve_right hl
        rw [List.foldl_cons, hout d hl]
        exact s.floorLevel_same d
    · rw [List.mem_cons, not_or] at hd
      rw [List.foldl_cons, hout d hd.2, s.floorLevel_ne hd.1]
    · have hc : s.floorLevel c = s := s.floorLevel_above (h c List.mem_cons_self)
      rw [List.foldl_cons, hsame (by rw [hc]; exact fun d hd => h d (List.mem_cons_of_mem _ hd)), hc]

/-! ### Windows -/

/-- At a window's end every core of the cluster counts the cycles held, and its estimate begins anew. -/
def State.newWindow (s : State) (c v n : Nat) : State :=
  (upTo n).foldl (fun s j => (s.count (coreKey c j) 0x26 v).updCore (coreKey c j) (fun x => { x with winE := 0 })) s

theorem State.newWindow_gaf (s : State) (c v n : Nat) : (s.newWindow c v n).gaf = s.gaf :=
  List.foldlRecOn (motive := fun t : State => t.gaf = s.gaf) _ _ rfl fun _ ht _ _ => ht

theorem State.newWindow_winE (s : State) (c v n j : Nat) (h : j < n) : ((s.newWindow c v n).core (coreKey c j)).winE = 0 := by
  let get : State → Nat → Core := fun t j => t.core (coreKey c j)
  have hlocal := State.foldl_range_local get
    (fun s j => (s.count (coreKey c j) 0x26 v).updCore (coreKey c j) (fun x => { x with winE := 0 })) (fun t i d hd => by
      have hk : coreKey c d ≠ coreKey c i := by unfold coreKey; omega
      exact (State.core_updCore_ne _ _ _ _ hk).trans (State.core_updCore_ne _ _ _ _ hk)) s j n
  obtain ⟨u, -, hu⟩ := hlocal.2 h
  have hcore : (s.newWindow c v n).core (coreKey c j) = _ := hu
  rw [hcore]
  simp only [get, State.core_updCore_same]

theorem nextLevel_throttle (l e b : Nat) : nextLevel l e b = Claims.throttle l e b := rfl

/-- Settles O17: a window's level is R742's of the estimate and the budget, an emergency puts every powered cluster at the floor,
and THERMTRIP takes clocks and rails away. -/
theorem throttling : Obligations.Throttling := by
  unfold Obligations.Throttling
  refine ⟨?window, ?enter, ?leave, ?trip⟩
  case window =>
    intro c s p hlive hown hpow hem n k dyn e b
    have hex : exec (.throttleWindow c) s = .next ((s.newWindow c.val (1250 * (s.gaf.level.get 0#4 c.val).toNat) 9).setLevel c.val
        (nextLevel (s.gaf.level.get 0#4 c.val).toNat e b)) := by
      refine (whenLive_live _ _ hlive).trans (congrArg _ ?_)
      rw [hown]
      simp only [hpow, hem, Bool.not_true, Bool.false_eq_true, if_false]
      simp only [State.newWindow, e, b, n, k, dyn]
    refine ⟨_, hex, ?_⟩
    refine ⟨?_, fun d hd => ?_, fun j hj => ?_⟩
    · rw [State.setLevel_level, SMap.get_put_same, nextLevel_throttle]
    · rw [State.setLevel_level, SMap.get_put_ne _ _ _ _ _ hd, State.newWindow_gaf]
    · rw [State.core_congr (State.setLevel_onlyLevels _ _ _).2.1]
      exact State.newWindow_winE _ _ _ _ _ hj
  case enter =>
    intro v vr s hlive hcause
    let u : State := { s with gaf := { s.gaf with temp := v, emerg := true }, pins := { s.pins with vrAlert := s.pins.vrAlert || vr } }
    let on := (upTo 8).filter (fun c => (s.cl c).powered)
    let floored := on.foldl (fun s c => s.floorLevel c) u
    obtain ⟨⟨hgaf, -, -⟩, hin, hout, hsame⟩ := State.floorLevels_spec on u
    have hon : ∀ c, c ∈ on ↔ c < 8 ∧ (s.cl c).powered = true := fun c => by
      rw [List.mem_filter, upTo, List.mem_range]
    have hposts : ∃ t, exec (.emergencyEnter v vr) s = .next t ∧ floored.onlyPosts t ∧ (s.gaf.emerg = true → t = floored) := by
      refine ⟨_, (whenLive_live _ _ hlive).trans (congrArg _ (if_neg (by
        rcases hcause with h | h
        · simp only [Bool.and_eq_true, decide_eq_true_eq, not_and]
          exact fun hlt => absurd hlt (Nat.not_lt.mpr h)
        · simp [h]))), ?_⟩
      cases hem : s.gaf.emerg
      · refine ⟨?_, fun h => absurd h Bool.false_ne_true⟩
        simp only [Bool.not_false, Bool.not_true, Bool.false_eq_true, if_false]
        exact List.foldlRecOn (motive := fun t : State => floored.onlyPosts t) _ _ (State.post_onlyPosts _ _ _ _ _ _ _ _ _)
          fun t ht p _ => ht.trans (State.post_onlyPosts _ _ _ _ _ _ _ _ _)
      · exact ⟨State.onlyPosts_refl _, fun _ => rfl⟩
    obtain ⟨t, hex, hpost, hagain⟩ := hposts
    have hlevel : t.gaf = floored.gaf := by rw [hpost]
    refine ⟨t, hex, ?_, ?_, fun c hc hp => ?_, fun c hp => ?_, fun hem hall => ?_⟩
    · rw [hlevel, hgaf]
    · rw [hlevel, hgaf]
    · rw [hlevel]
      exact hin c ((hon c).2 ⟨hc, hp⟩)
    · rw [hlevel]
      exact hout c (fun h => absurd hp (by rw [((hon c).1 h).2]; exact Bool.true_eq_false.mp))
    · rw [hagain hem]
      have hu : floored = u := hsame fun c hc => hall c ((hon c).1 hc).1 ((hon c).1 hc).2
      rw [hu]
  case leave =>
    intro v s hlive
    refine ⟨_, whenLive_live _ _ hlive, ?_⟩
    by_cases h : v.toNat + 5 ≤ s.gaf.tempLimit.toNat
    · simp [h]
    · simp [h]
  case trip =>
    intro v s hfreeze hhot hmain hen
    refine ⟨_, if_neg ?_, ?_⟩
    · simp [hfreeze, hmain, hen, hhot]
    · rw [State.tdmTouchAll_frame]
      exact ⟨rfl, rfl, rfl, rfl, rfl⟩

end Sys2Proof.Machine
end

section
/-! Requests to the Gaffer, and the handshake of a fall (R725 to R735, R739). -/
namespace Sys2Proof.Machine

theorem whenGaf_live (s x : State) (h : s.gafLive = true) : whenGaf s x = .next x := if_pos h

/-! ### Transitions that start -/

/-- No more than the cluster transitions and the controllers of the clusters differs, and no cluster transition has come. -/
def State.onlyAnswers (s t : State) : Prop :=
  t = { s with gaf := { s.gaf with clTrans := t.gaf.clTrans }, clusters := t.clusters } ∧
    t.gaf.clTrans.length ≤ s.gaf.clTrans.length

theorem State.onlyAnswers_refl (s : State) : s.onlyAnswers s := ⟨rfl, Nat.le_refl _⟩

theorem State.onlyAnswers.trans {s t u : State} (h : s.onlyAnswers t) (g : t.onlyAnswers u) : s.onlyAnswers u := by
  obtain ⟨heq, hlen⟩ := h
  obtain ⟨geq, glen⟩ := g
  exact ⟨by rw [geq, heq], glen.trans hlen⟩

/-- The answer to a mailbox request goes to the controller that sent it. -/
theorem State.answerTrans_onlyAnswers (s : State) (x : Trans) (st : Nat) : s.onlyAnswers (s.answerTrans x st) := by
  unfold State.answerTrans
  split
  · exact ⟨rfl, Nat.le_refl _⟩
  · exact s.onlyAnswers_refl

/-- Cluster transitions that may start do. -/
theorem State.startCls_onlyAnswers : ∀ (n : Nat) (s : State), s.onlyAnswers (s.startCls n)
  | 0, s => s.onlyAnswers_refl
  | n + 1, s => by
    rw [State.startCls]
    split
    · exact s.onlyAnswers_refl
    · refine State.onlyAnswers.trans ?_ (State.startCls_onlyAnswers n _)
      have herase : ∀ (i st : Nat) (x : Trans), s.onlyAnswers (State.answerTrans
          { s with gaf := { s.gaf with clTrans := s.gaf.clTrans.eraseIdx i } } x st) := fun i st x =>
        State.onlyAnswers.trans ⟨rfl, List.length_eraseIdx_le _ _⟩ (State.answerTrans_onlyAnswers _ _ _)
      split
      · exact herase _ _ _
      · split
        · exact herase _ _ _
        · exact ⟨rfl, Nat.le_of_eq List.length_set⟩

/-- Where no device transition waits, only cluster transitions start. -/
theorem State.startNext_none (s : State) (h : s.gaf.waiting = []) : s.startNext = s.startCls s.gaf.clTrans.length := by
  rw [State.startNext, h]
  rfl

/-- While a device transition is in progress nothing starts. -/
theorem State.startNext_busy (s : State) (h : s.gaf.cur.isSome = true) : s.startNext = s := by
  have hfold : (upTo s.gaf.waiting.length).foldl (fun s _ => match s.gaf.waiting with
      | t :: r => if s.transBusy then s else State.startDevice { s with gaf := { s.gaf with waiting := r } } t
      | [] => s) s = s := by
    refine List.foldlRecOn (motive := fun t : State => t = s) _ _ rfl fun t ht _ _ => ?_
    subst ht
    split
    · rw [if_pos (by rw [State.transBusy, h]; rfl)]
    · rfl
  have hcls : ∀ n, s.startCls n = s
    | 0 => rfl
    | n + 1 => by
      have hnone : (upTo s.gaf.clTrans.length).find? (fun i => (s.gaf.clTrans[i]?).any (fun t => s.startableCl i t)) = none := by
        rw [List.find?_eq_none]
        intro i _
        cases s.gaf.clTrans[i]? with
        | none => simp
        | some t => simp [State.startableCl, Option.isNone_eq_false_iff.mpr h]
      rw [State.startCls, hnone]
  exact (congrArg (fun t : State => t.startCls t.gaf.clTrans.length) hfold).trans (hcls _)

theorem State.withWaiting_self (s : State) (r : List Trans) (h : s.gaf.waiting = r) :
    ({ s with gaf := { s.gaf with waiting := r } } : State) = s := by
  subst h
  rfl

/-- Where nothing is in progress or waits, a device transition asked for starts. -/
theorem State.askDevice_still (s : State) (x : Trans) (h : Claims.still s) :
    s.askDevice x = (s.startDevice x).startCls (s.startDevice x).gaf.clTrans.length := by
  obtain ⟨hcur, hwait, hcl⟩ := h
  have hstart : State.startNext { s with gaf := { s.gaf with waiting := [x] } } =
      (State.startDevice { s with gaf := { s.gaf with waiting := [] } } x).startCls
        (State.startDevice { s with gaf := { s.gaf with waiting := [] } } x).gaf.clTrans.length :=
    congrArg (fun t : State => t.startCls t.gaf.clTrans.length) (if_neg (by simp [State.transBusy, hcur, hcl]))
  rw [State.askDevice, hwait, List.nil_append, hstart, s.withWaiting_self [] hwait]

/-- One that meets a transition in progress waits. -/
theorem State.askDevice_busy (s : State) (x : Trans) (h : s.gaf.cur.isSome = true) :
    s.askDevice x = { s with gaf := { s.gaf with waiting := s.gaf.waiting ++ [x] } } :=
  State.startNext_busy _ h

/-- One that starts as a transition in progress leaves the cluster transitions as they are. -/
theorem State.askDevice_starts (s t : State) (x : Trans) (h : Claims.still s) (hs : s.startDevice x = t)
    (ht : t.gaf.clTrans = []) : s.askDevice x = t := by
  rw [s.askDevice_still x h, hs, ht]
  rfl

/-! ### Requests -/

theorem gafferRequests : Claims.GafferRequests := by
  unfold Claims.GafferRequests
  refine ⟨?watch, ?run, ?busy⟩
  case watch =>
    intro s hlive hstill hstate
    have hcl : s.gaf.clTrans = [] := hstill.2.2
    refine ⟨(whenGaf_live _ _ hlive).trans (congrArg _ (s.askDevice_starts _ _ hstill ?_ hcl)),
      fun g => (whenGaf_live _ _ hlive).trans (congrArg _ (s.askDevice_starts _ _ hstill ?_ hcl))⟩
    · simp only [State.startDevice, hstate]
      rfl
    · simp only [State.startDevice, hstate]
      rfl
  case run =>
    intro s hlive hstill hstate on
    have hcl : s.gaf.clTrans = [] := hstill.2.2
    refine ⟨fun w hw => ?_, fun hw => ?_, ?_⟩
    · intro gate
      refine ⟨_, _, (whenGaf_live _ _ hlive).trans (congrArg _ (s.askDevice_starts
        { s with gaf := { s.gaf with cur := some (s.beginFall { Trans.init with
          target := 2, gate := gate, rise := bitsMask (s.ownedCl false) &&& bitsMask [s.gaf.watchCl.toNat] }) } } _ hstill ?_ hcl)),
        rfl, rfl, rfl, rfl, rfl, rfl, rfl⟩
      simp only [State.startDevice, if_pos hstate, hw]
      rfl
    · refine (whenGaf_live _ _ hlive).trans (congrArg _ (s.askDevice_starts _ _ hstill ?_ hcl))
      simp only [State.startDevice, if_pos hstate, hw]
      rfl
    · refine ⟨_, _, (whenGaf_live _ _ hlive).trans (congrArg _ (s.askDevice_starts
        { s with gaf := { s.gaf with cur := some (s.beginFall { Trans.init with target := 3, gate := on }) } } _ hstill ?_ hcl)),
        rfl, rfl, rfl, rfl, rfl, ?_⟩
      · simp only [State.startDevice, if_pos hstate]
        rfl
      · simp [State.beginFall, State.hsBlocks, Trans.init]
  case busy =>
    intro s hlive hcur waits
    exact ⟨(whenGaf_live _ _ hlive).trans (congrArg _ (s.askDevice_busy _ hcur)),
      fun g => (whenGaf_live _ _ hlive).trans (congrArg _ (s.askDevice_busy _ hcur)),
      (whenGaf_live _ _ hlive).trans (congrArg _ (s.askDevice_busy _ hcur)),
      (whenGaf_live _ _ hlive).trans (congrArg _ (s.askDevice_busy _ hcur))⟩

/-! ### The handshake -/

/-- The first element that meets a condition replaced by another that meets it. -/
theorem List.find_set_findIdx {α : Type} {p : α → Bool} {x y : α} (hy : p y = true) :
    ∀ {l : List α}, l.find? p = some x → (l.set (l.findIdx p) y).find? p = some y
  | [], h => absurd h (by simp)
  | a :: l, h => by
    cases ha : p a
    · rw [List.find?_cons_of_neg (by simp [ha])] at h
      rw [List.findIdx_cons, ha, cond_false, List.set_cons_succ, List.find?_cons_of_neg (by simp [ha])]
      exact List.find_set_findIdx hy h
    · rw [List.findIdx_cons, ha, cond_true, List.set_cons_zero, List.find?_cons_of_pos hy]

theorem State.setTrans_frame (s : State) (w : Option (Fin 8)) (x : Option Trans) :
    s.setTrans w x = { s with gaf := (s.setTrans w x).gaf } ∧
      (s.setTrans w x).gaf = { s.gaf with cur := (s.setTrans w x).gaf.cur, clTrans := (s.setTrans w x).gaf.clTrans } := by
  cases w <;> exact ⟨rfl, rfl⟩

/-- A transition updated is the one that its command names. -/
theorem State.trans_setTrans {s : State} {w : Option (Fin 8)} {x y : Trans} (h : s.trans w = some x) (hp : y.part = x.part) :
    (s.setTrans w (some y)).trans w = some y := by
  cases w with
  | none => rfl
  | some p =>
    have hx : (x.part == p.val) = true := List.find?_some (p := fun x : Trans => x.part == p.val) h
    exact List.find_set_findIdx (by rw [hp]; exact hx) h

/-- A transition taken off: the device's is none, a cluster's list is shorter by one. -/
theorem State.setTrans_none {s : State} {w : Option (Fin 8)} {x : Trans} (h : s.trans w = some x) :
    (w = none → (s.setTrans w none).gaf.cur = none) ∧
      (w ≠ none → (s.setTrans w none).gaf.clTrans.length + 1 ≤ s.gaf.clTrans.length) := by
  cases w with
  | none => exact ⟨fun _ => rfl, fun h => absurd rfl h⟩
  | some p =>
    refine ⟨fun h => (nomatch h), fun _ => ?_⟩
    have hlt : s.gaf.clTrans.findIdx (fun y => y.part == p.val) < s.gaf.clTrans.length :=
      List.findIdx_lt_length.mpr ⟨x, List.mem_of_find?_eq_some h, List.find?_some (p := fun x : Trans => x.part == p.val) h⟩
    have hlen : (s.setTrans (some p) none).gaf.clTrans.length = s.gaf.clTrans.length - 1 := List.length_eraseIdx_of_lt hlt
    omega

/-- What an abandoned transition leaves: its reason and block, and the transition gone. -/
def State.abandoned (s t : State) (w : Option (Fin 8)) (reason blk : Nat) : Prop :=
  t.gaf.hsReason = BitVec.ofNat 3 reason ∧ t.gaf.hsBlock = BitVec.ofNat 5 blk ∧ t.gaf.hsAbandon = true ∧
    t.gaf.state = s.gaf.state ∧ t.pins = s.pins ∧ (w = none → t.gaf.cur = none) ∧
    (w ≠ none → t.gaf.clTrans.length + 1 ≤ s.gaf.clTrans.length)

theorem State.abandon_abandoned {s : State} {w : Option (Fin 8)} {x : Trans} (h : s.trans w = some x) (hwait : s.gaf.waiting = [])
    (reason blk : Nat) : s.abandoned (s.abandon w reason blk) w reason blk := by
  obtain ⟨heq, -⟩ := State.answerTrans_onlyAnswers (s.recordAbandon reason blk) x stRefused
  have hcl : ((s.recordAbandon reason blk).answerTrans x stRefused).gaf.clTrans = s.gaf.clTrans := by
    unfold State.answerTrans
    split <;> rfl
  rw [hcl] at heq
  have hend : s.abandon w reason blk = ((s.recordAbandon reason blk).answerTrans x stRefused).endTrans w := by
    rw [State.abandon, h]
  rw [hend]
  generalize (s.recordAbandon reason blk).answerTrans x stRefused = u at heq hcl ⊢
  have hpins : u.pins = s.pins := by rw [heq]; rfl
  have hgaf : u.gaf = { (s.recordAbandon reason blk).gaf with clTrans := s.gaf.clTrans } := by rw [heq]
  have htrans : u.trans w = some x := by
    rw [← h]
    cases w with
    | none =>
      rw [State.trans, hgaf]
      rfl
    | some p => rw [State.trans, hcl, State.trans]
  obtain ⟨hcur, hlen⟩ := State.setTrans_none htrans
  rw [hcl] at hlen
  obtain ⟨hset, hsetGaf⟩ := u.setTrans_frame w none
  rw [State.endTrans]
  generalize u.setTrans w none = v at hcur hlen hset hsetGaf ⊢
  rw [State.startNext_none v (by rw [hsetGaf, hgaf]; exact hwait)]
  obtain ⟨hcls, hclsLen⟩ := v.startCls_onlyAnswers v.gaf.clTrans.length
  generalize v.startCls v.gaf.clTrans.length = t at hcls hclsLen ⊢
  have htGaf : t.gaf = { v.gaf with clTrans := t.gaf.clTrans } := by rw [hcls]
  have htPins : t.pins = s.pins := by rw [hcls, hset]; exact hpins
  refine ⟨?_, ?_, ?_, ?_, htPins, fun hw => ?_, fun hw => (Nat.succ_le_succ hclsLen).trans (hlen hw)⟩
  · rw [htGaf, hsetGaf, hgaf]; rfl
  · rw [htGaf, hsetGaf, hgaf]; rfl
  · rw [htGaf, hsetGaf, hgaf]; rfl
  · rw [htGaf, hsetGaf, hgaf]; rfl
  · rw [htGaf]
    exact hcur hw

theorem handshake : Claims.Handshake := by
  unfold Claims.Handshake
  intro w b s x hlive htrans hcom
  have hframe : ∀ y : Option Trans, (s.setTrans w y).gaf.state = s.gaf.state := fun y => by rw [(s.setTrans_frame w y).2]
  refine ⟨fun hask hans => ?grant, fun hask hans hcam => ?delay, fun hask => ?reask,
    fun hwait => ⟨fun r hask hans => ?refuse, fun hask htime => ?timeout⟩⟩
  case grant =>
    refine ⟨_, (whenGaf_live _ _ hlive).trans (congrArg _ ?_), (s.setTrans_frame w _).1, hframe _, State.trans_setTrans htrans ?_⟩
    · rw [htrans]
      exact if_neg (by simp [hcom, hask, hans])
    · rfl
  case delay =>
    refine ⟨_, (whenGaf_live _ _ hlive).trans (congrArg _ ?_), (s.setTrans_frame w _).1, State.trans_setTrans htrans ?_⟩
    · rw [htrans]
      refine (if_neg (by simp [hcom, hask, hans])).trans ?_
      have hfirst : (b.val == 17 && !x.asked.has 31) = false := by simp [hcam]
      simp only [hfirst, Bool.false_eq_true, if_false]
    · rfl
  case reask =>
    refine ⟨_, (whenGaf_live _ _ hlive).trans (congrArg _ ?_), (s.setTrans_frame w _).1, State.trans_setTrans htrans ?_⟩
    · rw [htrans]
      exact if_neg (by simp [hcom, hask])
    · rfl
  case refuse =>
    refine ⟨_, (whenGaf_live _ _ hlive).trans (congrArg _ ?_), State.abandon_abandoned htrans hwait r b.val⟩
    rw [htrans]
    refine (if_neg (by simp [hcom, hask])).trans ?_
    rw [hans]
  case timeout =>
    refine ⟨_, (whenGaf_live _ _ hlive).trans (congrArg _ ?_), State.abandon_abandoned htrans hwait 7 0⟩
    rw [htrans]
    exact if_neg (by simp [hcom, hask, htime])

/-- Settles O52, by its two parts. -/
theorem powerRequests : Obligations.PowerRequests := ⟨gafferRequests, handshake⟩

end Sys2Proof.Machine
end

section
/-! Commands of the host that a function takes: what is accepted, what completes at once, and what is turned away (R613 to R617, R620,
R623, R639). -/
namespace Sys2Proof.Machine

/-! ### The acceptance of a command -/

/-- The command that a function takes next. -/
def State.newCmd (s : State) (p opc : Nat) (h : CmdHdr) (e : MemErr) : HCmd :=
  { serial := (s.func p).serial, opc := BitVec.ofNat 8 opc, hdr := h, started := false, tArr := s.nsW, err := e }

/-- The state in which an accepted command is held: its number taken, and its event word with the lead controller. -/
def State.accepted (s : State) (p opc : Nat) (h : CmdHdr) (e : MemErr) : State :=
  let t := s.updFunc p (fun f => { f with serial := f.serial + 1 })
  ((t.freshP p 1).ctlEvent (some (t.lead p)) (eventWord 2 0 0 0 (Config.freeValue (t.freeAt p)).toNat)).updFunc p
    (fun f => { f with cmds := f.cmds ++ [s.newCmd p opc h e] })

/-- Commands of one function that are held have started. -/
def State.startedAll (s : State) (p : Nat) : State :=
  s.updFunc p (fun f => { f with cmds := f.cmds.map (fun x => { x with started := true }) })

theorem State.updCtl_onlyCtls (s : State) (c : Nat) (f : Ctl → Ctl) (d : Nat) :
    (s.updCtl (some c) f).cl d = { s.cl d with ctl := ((s.updCtl (some c) f).cl d).ctl } := by
  unfold State.updCtl
  by_cases h : d = c
  · subst h
    simp only [State.cl_updCl_same]
  · simp only [State.cl_updCl_ne _ _ _ _ h]

theorem State.ctlEvent_onlyCtls (s : State) (c : Nat) (w : W64) (d : Nat) :
    (s.ctlEvent (some c) w).cl d = { s.cl d with ctl := ((s.ctlEvent (some c) w).cl d).ctl } :=
  s.updCtl_onlyCtls c _ d

theorem State.part_updPart_frame (s : State) (p q n : Nat) : (s.freshP p n).part q =
    { s.part q with freeCtr := ((s.freshP p n).part q).freeCtr } := by
  unfold State.freshP
  by_cases h : q = p
  · subst h
    simp only [State.part_updPart_same]
  · simp only [State.part_updPart_ne _ _ _ _ h]

/-- What an acceptance touches. -/
theorem State.accepted_hostFrame (s : State) (p opc : Nat) (h : CmdHdr) (e : MemErr) : s.hostFrame (s.accepted p opc h e) p := by
  refine ⟨rfl, rfl, fun q hq => ?_, fun q => ?_, fun c => ?_⟩
  · exact (State.func_updFunc_ne _ _ _ _ hq).trans (State.func_updFunc_ne _ _ _ _ hq)
  · exact State.part_updPart_frame (s.updFunc p (fun f => { f with serial := f.serial + 1 })) p q 1
  · let t := s.updFunc p (fun f => { f with serial := f.serial + 1 })
    exact State.ctlEvent_onlyCtls (t.freshP p 1) (t.lead p) _ c

theorem State.func_accepted (s : State) (p opc : Nat) (h : CmdHdr) (e : MemErr) : (s.accepted p opc h e).func p =
    { s.func p with serial := (s.func p).serial + 1, cmds := (s.func p).cmds ++ [s.newCmd p opc h e] } := by
  have hf : ((((s.updFunc p (fun f => { f with serial := f.serial + 1 })).freshP p 1).ctlEvent
      (some ((s.updFunc p (fun f => { f with serial := f.serial + 1 })).lead p)) (eventWord 2 0 0 0
        (Config.freeValue ((s.updFunc p (fun f => { f with serial := f.serial + 1 })).freeAt p)).toNat))).func p =
      (s.updFunc p (fun f => { f with serial := f.serial + 1 })).func p := rfl
  rw [State.accepted]
  simp only [State.func_updFunc_same, hf]

/-- A command that a function accepts is held, and starts where it may. -/
theorem State.arriveCmd_operating (s : State) (p opc : Nat) (h : CmdHdr) (e : MemErr) (hst : (s.func p).st = .operating)
    (hc : s.conf p = true → (s.secp p).session = none → opc = 0x00 ∨ opc = 0x20 ∨ opc = 0x21) :
    s.arriveCmd p opc h e = (s.accepted p opc h e).pump p := by
  unfold State.arriveCmd
  dsimp only
  rw [hst]
  refine if_neg ?_
  rintro ⟨hconf, hsess, h0, h20, h21⟩
  rcases hc hconf (Option.isNone_iff_eq_none.mp hsess) with h | h | h
  · exact h0 h
  · exact h20 h
  · exact h21 h

/-! ### The only command of a function -/

theorem State.updFunc_congr (s : State) (p : Nat) {f g : Func → Func} (h : f (s.func p) = g (s.func p)) :
    s.updFunc p f = s.updFunc p g := by
  unfold State.updFunc SMap.upd
  rw [show s.usb.funcs.get Func.init p = s.func p from rfl, h]

theorem State.cmdReady_alone (s : State) (p : Nat) (c : HCmd) (h : (s.func p).cmds = [c]) (hs : c.started = false) :
    s.cmdReady p c = s.cmdFree p c := by
  simp [State.cmdReady, h, hs]

/-- The only command of a function starts where its resources are free. -/
theorem State.pump_alone (s : State) (p : Nat) (c : HCmd) (h : (s.func p).cmds = [c]) (hs : c.started = false)
    (hf : s.cmdFree p c = true) : s.pump p = (s.startedAll p).startCmd p c := by
  rw [State.pump, h, List.length_singleton, State.pumpN, h, List.find?_singleton, if_pos ((s.cmdReady_alone p c h hs).trans hf)]
  have hmap : s.updFunc p (fun f => { f with cmds := f.cmds.map (fun x => if x.serial = c.serial then { x with started := true } else x) }) =
      s.startedAll p := s.updFunc_congr p (by simp [h])
  simp only [hmap]
  rfl

/-! ### Commands that a function takes -/

/-- A command that a function has taken starts: beside what the acceptance touches, the function holds the command alone. -/
structure State.starts (s t : State) (p opc : Nat) (h : CmdHdr) (e : MemErr) : Prop where
  frame : s.hostFrame t p
  func : t.func p = { s.func p with
    serial := (s.func p).serial + 1, cmds := [{ s.newCmd p opc h e with started := true }] }

theorem State.hostFrame.nsW {s t : State} {p : Nat} (h : s.hostFrame t p) : t.nsW = s.nsW := by rw [h.1]; rfl
theorem State.hostFrame.cycle {s t : State} {p : Nat} (h : s.hostFrame t p) : t.cycle = s.cycle := by rw [h.1]

/-- What a further change of the function leaves of a frame. -/
theorem State.hostFrame.updFunc {s t : State} {p : Nat} (h : s.hostFrame t p) (f : Func → Func) : s.hostFrame (t.updFunc p f) p := by
  obtain ⟨hs, husb, hfunc, hpart, hcl⟩ := h
  refine ⟨by rw [State.updFunc, hs], ?_, fun q hq => (State.func_updFunc_ne _ _ _ _ hq).trans (hfunc q hq), hpart, hcl⟩
  rw [State.updFunc]
  simp only
  rw [husb]

/-- The bursts of a transfer taken, beside what the acceptance touches. -/
theorem State.hostFrame_bursts {s u t : State} {p : Nat}
    (hu : u = { s with usb := { s.usb with slotPos := u.usb.slotPos, lastBorrow := u.usb.lastBorrow } }) (h : u.hostFrame t p) :
    s.hostFrame t p := by
  obtain ⟨hs, husb, hfunc, hpart, hcl⟩ := h
  have hfu : ∀ q, u.func q = s.func q := fun q => by rw [hu]; rfl
  have hpu : ∀ q, u.part q = s.part q := fun q => by rw [hu]; rfl
  have hcu : ∀ c, u.cl c = s.cl c := fun c => by rw [hu]; rfl
  refine ⟨?_, ?_, fun q hq => (hfunc q hq).trans (hfu q), fun q => by rw [hpart q, hpu], fun c => by rw [hcl c, hcu]⟩
  · rw [hs, hu]
  · rw [husb, hu]

/-- A function that takes commands at its port takes this one when its bursts are granted. -/
theorem State.arrive_granted (s : State) (p opc : Nat) (h : CmdHdr) (e : MemErr) (hr : s.boot.running = true) (ho : s.portOpen = true)
    (hst : (s.func p).st ≠ .off) (hfull : (s.func p).st = .operating → (s.func p).cmds.length < 256)
    (hg : s.granted p (64 + h.payload.length)) :
    ∃ u : State, s.arrive p opc h e = u.arriveCmd p opc h e ∧
      u = { s with usb := { s.usb with slotPos := u.usb.slotPos, lastBorrow := u.usb.lastBorrow } } := by
  obtain ⟨u, hu, hframe⟩ := s.inBursts_granted p (64 + h.payload.length) (fun s => s.arriveCmd p opc h e) hg
  refine ⟨u, ?_, hframe⟩
  rw [State.arrive, if_neg (by simp [hr, ho, hst]), if_neg, hu]
  rw [Bool.and_eq_true, beq_iff_eq, State.funcFull, decide_eq_true_eq]
  exact fun hop => absurd (hfull hop.1) (Nat.not_lt.mpr hop.2)

/-- A command that its function takes is accepted alone. -/
theorem State.arrive_takes (s : State) (p opc : Nat) (h : CmdHdr) (e : MemErr) (ht : s.takes p opc h) :
    ∃ u : State, s.arrive p opc h e = u.pump p ∧ s.hostFrame u p ∧
      u.func p = { s.func p with serial := (s.func p).serial + 1, cmds := [s.newCmd p opc h e] } := by
  obtain ⟨-, hr, ho, hst, hcmds, hg, hc⟩ := ht
  obtain ⟨u, hu, hframe⟩ := s.arrive_granted p opc h e hr ho (by rw [hst]; decide) (fun _ => by rw [hcmds]; decide) hg
  have hfu : u.func p = s.func p := by rw [hframe]; rfl
  have hnew : u.newCmd p opc h e = s.newCmd p opc h e := by rw [hframe]; rfl
  refine ⟨u.accepted p opc h e, ?_, State.hostFrame_bursts hframe (u.accepted_hostFrame p opc h e), ?_⟩
  · rw [hu, u.arriveCmd_operating p opc h e (by rw [hfu]; exact hst)]
    rw [hframe]
    exact hc
  · rw [State.func_accepted, hfu, hcmds, hnew]
    rfl

/-- A command that its function takes starts where its resources are free. -/
theorem State.arrive_starts (s : State) (p opc : Nat) (h : CmdHdr) (e : MemErr) (ht : s.takes p opc h)
    (hfree : ∀ t, s.hostFrame t p → t.cmdFree p (s.newCmd p opc h e) = true) :
    ∃ t : State, s.arrive p opc h e = t.startCmd p (s.newCmd p opc h e) ∧ s.starts t p opc h e := by
  obtain ⟨u, hu, hframe, hfunc⟩ := s.arrive_takes p opc h e ht
  have hcmds : (u.func p).cmds = [s.newCmd p opc h e] := by rw [hfunc]
  refine ⟨u.startedAll p, hu.trans (u.pump_alone p _ hcmds rfl (hfree u hframe)), hframe.updFunc _, ?_⟩
  rw [State.startedAll, State.func_updFunc_same, hfunc]
  rfl

/-- The only command of a function completes. -/
theorem State.done1_completes {s t : State} {p opc : Nat} {h : CmdHdr} {e : MemErr} (hf : t.func p = { s.func p with
      serial := (s.func p).serial + 1, cmds := [{ s.newCmd p opc h e with started := true }] }) (hns : t.nsW = s.nsW)
    (hcycle : t.cycle = s.cycle) (st fc d0 : Nat) : s.completes (t.done1 p (s.newCmd p opc h e) st fc d0) p h opc st fc d0 := by
  have hcmds : (t.func p).cmds = [{ s.newCmd p opc h e with started := true }] := by rw [hf]
  have hfind : (t.func p).cmds.find? (fun c => c.serial == (s.newCmd p opc h e).serial) =
      some { s.newCmd p opc h e with started := true } := by rw [hcmds]; simp
  unfold State.done1 State.complete
  rw [hfind]
  refine ⟨?_, ?_⟩
  · simp only [State.func_updFunc_same, State.postCompletion, hcmds]
    simp
  · simp only [State.func_updFunc_same, State.postCompletion, hf, hns, hcycle]
    rfl

theorem State.starts.done1 {s t : State} {p opc : Nat} {h : CmdHdr} {e : MemErr} (ht : s.starts t p opc h e) (st fc d0 : Nat) :
    s.completes (t.done1 p (s.newCmd p opc h e) st fc d0) p h opc st fc d0 ∧
      s.hostFrame (t.done1 p (s.newCmd p opc h e) st fc d0) p := by
  refine ⟨State.done1_completes ht.func ht.frame.nsW ht.frame.cycle st fc d0, ?_⟩
  unfold State.done1 State.complete State.postCompletion
  split
  · exact ht.frame
  · exact (ht.frame.updFunc _).updFunc _

/-! ### Checks of a host command -/

/-- What a row of the host's commands is: the command of its opcode, with the arguments and the JOB of its shape. -/
theorem Claims.hostRows_meaning (e : MemErr) : ∀ r ∈ Claims.hostRows e, ∃ e' : MemErr,
    (∀ (q : Fin 8) (h : CmdHdr) (s : State), exec (r.1 q h) s = whenLive s (s.arrive q.val r.2.1 h e')) ∧
    r.2.1 < 256 ∧ ∃ len, cmdShape r.2.1 = some (r.2.2.1, r.2.2.2, len) := by
  simp only [Claims.hostRows, List.forall_mem_cons, List.not_mem_nil, false_implies, implies_true, and_true]
  refine ⟨⟨.none, ?_⟩, ⟨.none, ?_⟩, ⟨.none, ?_⟩, ⟨.none, ?_⟩, ⟨.none, ?_⟩, ⟨.none, ?_⟩, ⟨.none, ?_⟩, ⟨.none, ?_⟩, ⟨.none, ?_⟩,
    ⟨.none, ?_⟩, ⟨.none, ?_⟩, ⟨.none, ?_⟩, ⟨e, ?_⟩, ⟨e, ?_⟩, ⟨.none, ?_⟩, ⟨.none, ?_⟩, ⟨.none, ?_⟩, ⟨.none, ?_⟩, ⟨.none, ?_⟩,
    ⟨.none, ?_⟩, ⟨.none, ?_⟩, ⟨e, ?_⟩, ⟨.none, ?_⟩⟩ <;>
    exact ⟨fun _ _ _ => rfl, by decide, _, rfl⟩

/-- The checks of R623 depend on the jobs of the partition alone. -/
theorem State.cmdIllegal_congr {s t : State} {p : Nat} (h : (t.part p).jobs = (s.part p).jobs) (opc : Nat) (c : CmdHdr) :
    t.cmdIllegal p opc c = s.cmdIllegal p opc c := by
  have hjob : ∀ j, t.job p j = s.job p j := fun j => by rw [State.job, h, State.job]
  unfold State.cmdIllegal
  rw [h]
  simp only [hjob]

theorem State.hostFrame.jobs {s t : State} {p : Nat} (h : s.hostFrame t p) (q : Nat) : (t.part q).jobs = (s.part q).jobs := by
  obtain ⟨-, -, -, hpart, -⟩ := h
  rw [hpart q]

/-- A reserved bit, an unused argument or a wrong JOB makes a command illegal. -/
theorem State.cmdIllegal_of_header (s : State) (p opc n : Nat) (job : Bool) (len : Nat → Bool) (h : CmdHdr)
    (hshape : cmdShape opc = some (n, job, len))
    (hbad : h.resv = true ∨ (∃ a ∈ (CmdArgs h).drop n, a ≠ 0) ∨
      (if job then (s.part p).jobs.has h.job.toNat = false else h.job ≠ 0#32)) : s.cmdIllegal p opc h = true := by
  have hand : ∀ a b c d e : Bool, a = true ∨ b = true ∨ d = true → (a || b || c || d || e) = true := by decide
  unfold State.cmdIllegal
  rw [hshape]
  refine hand _ _ _ _ _ ?_
  rcases hbad with hr | ⟨a, ha, hne⟩ | hj
  · exact .inl hr
  · exact .inr (.inl (List.any_eq_true.mpr ⟨a, ha, bne_iff_ne.mpr hne⟩))
  · refine .inr (.inr ?_)
    cases job
    · exact bne_iff_ne.mpr hj
    · exact congrArg (!·) hj

/-- An illegal command completes FAULTED as it starts. -/
theorem State.startCmd_illegal (s : State) (p : Nat) (c : HCmd) (h : s.cmdIllegal p c.opc.toNat c.hdr = true) :
    s.startCmd p c = s.done1 p c stFaulted fcIllegal 0 := if_pos h

theorem State.newCmd_opc (s : State) (p opc : Nat) (h : CmdHdr) (e : MemErr) (ho : opc < 256) :
    (s.newCmd p opc h e).opc.toNat = opc := by
  rw [State.newCmd, BitVec.toNat_ofNat]
  exact Nat.mod_eq_of_lt ho

/-- A command turned away: its function drains. -/
theorem State.arrive_draining (s : State) (p opc : Nat) (h : CmdHdr) (e : MemErr) (hr : s.boot.running = true)
    (ho : s.portOpen = true) (hst : (s.func p).st = .draining) (hg : s.granted p (64 + h.payload.length)) :
    s.hostFrame (s.arrive p opc h e) p ∧ ((s.arrive p opc h e).func p).cmds = (s.func p).cmds ∧
      ((s.arrive p opc h e).func p).out = queueCompletion (s.func p).out { Completion.init with
        tag := h.tag, status := 4#8, opc := BitVec.ofNat 8 opc, tArr := s.nsW, tDone := s.nsW,
        serial := (s.func p).serial, cycle := s.cycle } := by
  obtain ⟨u, hu, hframe⟩ := s.arrive_granted p opc h e hr ho (by rw [hst]; decide) (fun hop => nomatch hst.symm.trans hop) hg
  have hfu : u.func p = s.func p := by rw [hframe]; rfl
  have hnew : u.newCmd p opc h e = s.newCmd p opc h e := by rw [hframe]; rfl
  have hns : u.nsW = s.nsW := by rw [hframe]; rfl
  have hcycle : u.cycle = s.cycle := by rw [hframe]
  have hpost : u.arriveCmd p opc h e = u.postCompletion p (u.newCmd p opc h e) stRefused 0 0 0 := by
    unfold State.arriveCmd
    dsimp only
    rw [hfu, hst, ← hfu]
    rfl
  have hself : u.hostFrame u p := ⟨rfl, rfl, fun _ _ => rfl, fun _ => rfl, fun _ => rfl⟩
  rw [hu, hpost, hnew]
  refine ⟨State.hostFrame_bursts hframe (hself.updFunc _), ?_, ?_⟩
  · rw [State.postCompletion, State.func_updFunc_same, hfu]
  · rw [State.postCompletion, State.func_updFunc_same, hfu, hns, hcycle]
    rfl

theorem hostChecks : Claims.HostChecks := by
  unfold Claims.HostChecks
  intro e r hr q h s
  obtain ⟨e', hex, hopc, len, hshape⟩ := Claims.hostRows_meaning e r hr
  refine ⟨fun ht hbad => ?illegal, fun hl hrun ho hst hg => ?draining, fun hl hoff => ?off, fun hl hrun ho hst => ⟨fun hfull => ?full,
    fun hroom hg => ?none⟩⟩
  case illegal =>
    have hill := s.cmdIllegal_of_header q.val r.2.1 _ _ len h hshape hbad
    have hopc' := s.newCmd_opc q.val r.2.1 h e' hopc
    have hframeIll : ∀ t, s.hostFrame t q.val → t.cmdIllegal q.val (s.newCmd q.val r.2.1 h e').opc.toNat h = true := fun t ht => by
      rw [hopc', State.cmdIllegal_congr (ht.jobs q.val), hill]
    obtain ⟨t, hstart, hst⟩ := s.arrive_starts q.val r.2.1 h e' ht fun t ht => by
      rw [State.cmdFree]
      exact Bool.or_eq_true_iff.mpr (.inl (hframeIll t ht))
    refine ⟨_, (hex q h s).trans ((whenLive_live _ _ ht.1).trans (congrArg _ (hstart.trans (t.startCmd_illegal q.val _ ?_)))),
      hst.done1 2 1 0⟩
    exact hframeIll t hst.frame
  case draining => exact ⟨_, (hex q h s).trans (whenLive_live _ _ hl), s.arrive_draining q.val r.2.1 h e' hrun ho hst hg⟩
  case off =>
    refine (hex q h s).trans ((whenLive_live _ _ hl).trans (congrArg _ (if_pos ?_)))
    rcases hoff with h | h | h
    · simp [h]
    · simp [h]
    · simp [h]
  case full =>
    refine (hex q h s).trans ((whenLive_live _ _ hl).trans (congrArg _ ((if_neg (by simp [hrun, ho, hst])).trans (if_pos ?_))))
    simp [hst, State.funcFull, hfull]
  case none =>
    refine (hex q h s).trans ((whenLive_live _ _ hl).trans (congrArg _ ((if_neg (by simp [hrun, ho, hst])).trans
      ((if_neg ?_).trans (s.inBursts_not q.val _ _ hg)))))
    simp [State.funcFull, hroom]

/-! ### Management commands that EP0 takes -/

/-- The management command that EP0 takes next. -/
def State.newMgmt (s : State) (opc : Nat) (h : CmdHdr) : HCmd :=
  { serial := s.usb.mgmtSerial, opc := BitVec.ofNat 8 opc, hdr := h, started := false, tArr := s.nsW, err := .none }

/-- The state in which it starts, alone, its data taken in the bursts up to a place. -/
def State.mgmtTaken (s : State) (opc : Nat) (h : CmdHdr) (pos last : Nat) : State :=
  { s with usb := { s.usb with
      mgmtSerial := s.usb.mgmtSerial + 1, mgmtCmds := [{ s.newMgmt opc h with started := true }], stall := false, ep0 := []
      slotPos := pos, lastBorrow := last } }

theorem State.newMgmt_opc (s : State) {opc : Nat} (h : CmdHdr) (ho : opc < 256) : (s.newMgmt opc h).opc.toNat = opc := by
  rw [State.newMgmt, BitVec.toNat_ofNat]
  exact Nat.mod_eq_of_lt ho

/-- A state after EP0 has taken a command that has not started. -/
def State.mgmtHeld (s : State) (opc : Nat) (h : CmdHdr) : State :=
  { s with usb := { s.usb with
      mgmtSerial := s.usb.mgmtSerial + 1, mgmtCmds := [s.newMgmt opc h], stall := false, ep0 := [] } }

theorem State.mgmtPump_held (s u : State) (opc : Nat) (h : CmdHdr)
    (hd : (s.mgmtHeld opc h).mgmtData (mgmtBulk (s.newMgmt opc h)) = some u)
    (hu : u = { s.mgmtHeld opc h with usb := { (s.mgmtHeld opc h).usb with
      slotPos := u.usb.slotPos, lastBorrow := u.usb.lastBorrow } }) :
    (s.mgmtHeld opc h).mgmtPump = (s.mgmtTaken opc h u.usb.slotPos u.usb.lastBorrow).runMgmt (s.newMgmt opc h) := by
  have hcmds : (s.mgmtHeld opc h).usb.mgmtCmds = [s.newMgmt opc h] := rfl
  have hfind : [s.newMgmt opc h].find? (fun c => !c.started &&
      !List.any [s.newMgmt opc h] (fun (x : HCmd) => decide (x.serial < c.serial) && (c.hdr.fence || !x.started))) =
      some (s.newMgmt opc h) := by simp [State.newMgmt]
  have hmap : [s.newMgmt opc h].map (fun (x : HCmd) => if x.serial = (s.newMgmt opc h).serial then { x with started := true } else x) =
      [{ s.newMgmt opc h with started := true }] := by simp
  have htaken : ({ u with usb := { u.usb with mgmtCmds := [{ s.newMgmt opc h with started := true }] } } : State) =
      s.mgmtTaken opc h u.usb.slotPos u.usb.lastBorrow := by rw [hu]; rfl
  rw [State.mgmtPump, hcmds, List.length_singleton, State.mgmtPumpN, hcmds, hfind]
  dsimp only
  rw [hd]
  dsimp only
  rw [hmap, htaken]
  rfl

/-- EP0 takes a management command, which starts when its data have come; a command without data takes no burst. -/
theorem State.mgmtRow_starts (s : State) (opc : Nat) (h : CmdHdr) (ht : s.takesMgmt)
    (hd : (s.mgmtData (mgmtBulk (s.newMgmt opc h))).isSome = true) :
    ∃ pos last, mgmtRow opc h s = .next ((s.mgmtTaken opc h pos last).runMgmt (s.newMgmt opc h)) ∧
      (mgmtBulk (s.newMgmt opc h) = 0 → pos = s.usb.slotPos ∧ last = s.usb.lastBorrow) := by
  obtain ⟨hl, hcon, hrun, hmas, hcmds⟩ := ht
  have hrow : mgmtRow opc h s = .next (s.mgmtHeld opc h).mgmtPump := by
    refine (whenLive_live _ _ hl).trans (congrArg _ ((if_neg (by simp [hcon])).trans ((if_neg ?_).trans ?_)))
    · simp [State.ep0Open, hcon, hrun, hmas]
    · rw [hcmds]
      rfl
  by_cases hb : mgmtBulk (s.newMgmt opc h) = 0
  · refine ⟨_, _, hrow.trans (congrArg _ (s.mgmtPump_held (s.mgmtHeld opc h) opc h (if_pos hb) rfl)), fun _ => ⟨rfl, rfl⟩⟩
  · rw [State.mgmtData, if_neg hb] at hd
    by_cases hbulk : s.usbBulk = true
    · rw [if_pos hbulk] at hd
      obtain ⟨u, hu⟩ := Option.isSome_iff_exists.mp
        ((State.takeBursts_congr 8 (ceilDiv (mgmtBulk (s.newMgmt opc h)) burstBytes) s (s.mgmtHeld opc h) rfl rfl rfl).trans hd)
      refine ⟨_, _, hrow.trans (congrArg _ (s.mgmtPump_held u opc h ((if_neg hb).trans ((if_pos hbulk).trans hu)) ?_)),
        fun h0 => absurd h0 hb⟩
      exact State.takeBursts_usb 8 _ _ u hu
    · rw [if_neg hbulk] at hd
      exact absurd hd (by decide)

/-- The only management command completes. -/
theorem State.completeMgmt_completes {s t : State} {opc : Nat} {h : CmdHdr} (hc : t.usb.mgmtCmds = [{ s.newMgmt opc h with started := true }])
    (ho : t.usb.mgmtOut = s.usb.mgmtOut) (hns : t.nsW = s.nsW) (st fc d0 : Nat) :
    s.completesMgmt (t.completeMgmt (s.newMgmt opc h).serial st fc d0 0) h opc st fc d0 := by
  unfold State.completeMgmt
  rw [hc]
  refine ⟨?_, ?_⟩
  · simp
  · simp only [List.find?_singleton, beq_self_eq_true, if_true, ho, hns]
    rfl

/-- What a completion touches. -/
theorem State.completeMgmt_frame (s : State) (n st fc d0 d1 : Nat) : s.completeMgmt n st fc d0 d1 =
    { s with usb := { s.usb with mgmtCmds := (s.completeMgmt n st fc d0 d1).usb.mgmtCmds, mgmtOut := (s.completeMgmt n st fc d0 d1).usb.mgmtOut } } := by
  unfold State.completeMgmt
  split <;> rfl

/-- A command that completes at its start touches no more than its acceptance. -/
theorem State.mgmtTaken_completes (s : State) (opc : Nat) (h : CmdHdr) (st fc d0 : Nat) :
    s.completesMgmt ((s.mgmtTaken opc h s.usb.slotPos s.usb.lastBorrow).completeMgmt (s.newMgmt opc h).serial st fc d0 0) h opc st fc d0 ∧
      s.mgmtFrame ((s.mgmtTaken opc h s.usb.slotPos s.usb.lastBorrow).completeMgmt (s.newMgmt opc h).serial st fc d0 0) := by
  refine ⟨State.completeMgmt_completes (s := s) (t := s.mgmtTaken opc h s.usb.slotPos s.usb.lastBorrow) rfl rfl rfl st fc d0, ?_⟩
  have hframe := (s.mgmtTaken opc h s.usb.slotPos s.usb.lastBorrow).completeMgmt_frame (s.newMgmt opc h).serial st fc d0 0
  unfold State.mgmtFrame
  generalize (s.mgmtTaken opc h s.usb.slotPos s.usb.lastBorrow).completeMgmt (s.newMgmt opc h).serial st fc d0 0 = t at hframe ⊢
  rw [hframe]
  rfl

/-! ### Checks of a management command -/

/-- What a row of the management commands is. -/
theorem Claims.mgmtRows_meaning : ∀ r ∈ Claims.mgmtRows,
    (∀ (h : CmdHdr) (s : State), exec (r.1 h) s = mgmtRow r.2.1 h s) ∧
    r.2.1 < 256 ∧ ∃ len, mgmtShape r.2.1 = some (r.2.2, len) := by
  simp only [Claims.mgmtRows, List.forall_mem_cons, List.not_mem_nil, false_implies, implies_true, and_true]
  refine ⟨?_, ?_, ?_, ?_, ?_, ?_, ?_, ?_, ?_, ?_, ?_, ?_, ?_, ?_⟩ <;> exact ⟨fun _ _ => rfl, by decide, _, rfl⟩

/-- A reserved bit, a JOB or an unused argument makes a management command illegal. -/
theorem mgmtIllegal_of_header (opc n : Nat) (len : Nat → Bool) (h : CmdHdr) (hshape : mgmtShape opc = some (n, len))
    (hbad : h.resv = true ∨ h.job ≠ 0#32 ∨ ∃ a ∈ (CmdArgs h).drop n, a ≠ 0) : mgmtIllegal opc h = true := by
  have hor : ∀ a b c d e : Bool, a = true ∨ b = true ∨ c = true → (a || b || c || d || e) = true := by decide
  unfold mgmtIllegal
  rw [hshape]
  refine hor _ _ _ _ _ ?_
  rcases hbad with hr | hj | ⟨a, ha, hne⟩
  · exact .inl hr
  · exact .inr (.inl (bne_iff_ne.mpr hj))
  · exact .inr (.inr (List.any_eq_true.mpr ⟨a, ha, bne_iff_ne.mpr hne⟩))

/-- A command that fails its checks takes no data. -/
theorem mgmtBulk_illegal (c : HCmd) (h : mgmtIllegal c.opc.toNat c.hdr = true) : mgmtBulk c = 0 := by
  simp [mgmtBulk, h]

theorem mgmtChecks : Claims.MgmtChecks := by
  unfold Claims.MgmtChecks
  intro r hr h s
  obtain ⟨hex, hopc, len, hshape⟩ := Claims.mgmtRows_meaning r hr
  refine ⟨fun ht hbad => ?_, fun hl hcon hmas => ?_⟩
  · have hill : mgmtIllegal (s.newMgmt r.2.1 h).opc.toNat h = true := by
      rw [s.newMgmt_opc h hopc]
      exact mgmtIllegal_of_header r.2.1 _ len h hshape hbad
    have hbulk := mgmtBulk_illegal (s.newMgmt r.2.1 h) hill
    obtain ⟨pos, last, hrow, hsame⟩ := s.mgmtRow_starts r.2.1 h ht (by rw [hbulk]; rfl)
    obtain ⟨rfl, rfl⟩ := hsame hbulk
    exact ⟨_, (hex h s).trans (hrow.trans (congrArg _ (if_pos hill))), s.mgmtTaken_completes r.2.1 h 2 1 0⟩
  · exact (hex h s).trans ((whenLive_live _ _ hl).trans (congrArg _ ((if_neg (by simp [hcon])).trans
      (if_pos (by simp [State.ep0Open, hmas])))))

/-- Settles O49, by the checks of the host's commands and those of management. -/
theorem commandChecks : Obligations.CommandChecks := ⟨hostChecks, mgmtChecks⟩

end Sys2Proof.Machine
end

section
/-! What the end of work touches: threads and operations that are cut off, chunks and Reels that end, commands that complete (R112,
R228, R341, R620, R790). -/
namespace Sys2Proof.Machine

/-- Nothing but memory, cores, partitions, functions, event queues and the buffers of Dailies differs. -/
def State.onlyWork (s t : State) : Prop :=
  t = { s with
    usb := { s.usb with funcs := t.usb.funcs, evq := t.usb.evq, lost := t.usb.lost, remoteWake := t.usb.remoteWake }
    dbg := { s.dbg with traces := t.dbg.traces }, mem := t.mem, cipher := t.cipher, badWords := t.badWords, poison := t.poison
    cores := t.cores, parts := t.parts, dirty := t.dirty }

theorem State.onlyWork_refl (s : State) : s.onlyWork s := rfl

theorem State.onlyWork.trans {s t u : State} (h : s.onlyWork t) (g : t.onlyWork u) : s.onlyWork u := by
  unfold State.onlyWork at *
  rw [g, h]

/-- A fold whose every step is work is work. -/
theorem State.onlyWork_foldl {α : Type} (f : State → α → State) (hf : ∀ t a, State.onlyWork t (f t a)) (l : List α) (s : State) :
    s.onlyWork (l.foldl f s) :=
  List.foldlRecOn (motive := fun t : State => s.onlyWork t) l f s.onlyWork_refl fun t ht a _ => ht.trans (hf t a)

theorem State.onlyMem.work {s t : State} (h : s.onlyMem t) : s.onlyWork t := by
  unfold State.onlyMem State.onlyWork at *
  rw [h]

theorem State.onlyPosts.work {s t : State} (h : s.onlyPosts t) : s.onlyWork t := by
  unfold State.onlyPosts State.onlyWork at *
  rw [h]

theorem State.onlyCore.work {s t : State} {k : Nat} (h : s.onlyCore t k) : s.onlyWork t := by
  obtain ⟨heq, -⟩ := h
  unfold State.onlyWork
  rw [heq]

theorem State.onlyReels.work {s t : State} (h : s.onlyReels t) : s.onlyWork t := by
  have heq := h.frame
  unfold State.onlyWork
  rw [heq]

theorem State.onlyWork.clusters {s t : State} (h : s.onlyWork t) : t.clusters = s.clusters := by rw [h]
theorem State.onlyWork.time {s t : State} (h : s.onlyWork t) : t.time = s.time := by rw [h]
theorem State.onlyWork.mgmt {s t : State} (h : s.onlyWork t) :
    t.usb.mgmtCmds = s.usb.mgmtCmds ∧ t.usb.mgmtOut = s.usb.mgmtOut := by
  rw [h]
  exact ⟨rfl, rfl⟩

theorem State.updPart_work (s : State) (p : Nat) (f : Part → Part) : s.onlyWork (s.updPart p f) := rfl
theorem State.updCore_work (s : State) (k : Nat) (f : Core → Core) : s.onlyWork (s.updCore k f) := rfl
theorem State.updFunc_work (s : State) (p : Nat) (f : Func → Func) : s.onlyWork (s.updFunc p f) := rfl

theorem State.updThr_work (s : State) (k t : Nat) (f : Thread → Thread) : s.onlyWork (s.updThr k t f) := rfl
theorem State.orderAll_work (s : State) (k t : Nat) : s.onlyWork (s.orderAll k t) := rfl

/-! ### Bytes and entries written -/

theorem State.vwr_onlyMem (s : State) (p va : Nat) (l : List Byte) : s.onlyMem (s.vwr p va l) :=
  List.foldlRecOn (motive := fun t : State => s.onlyMem t) _ _ s.onlyMem_refl fun t ht r _ => ht.trans (by
    split
    · exact t.store_onlyMem _ _
    · exact t.onlyMem_refl)

theorem State.noteOutside_work (s : State) (p va : Nat) : s.onlyWork (s.noteOutside p va) := by
  unfold State.noteOutside
  split
  · rfl
  · rfl

theorem State.putPart_work (s : State) (p va : Nat) (l : List Byte) : s.onlyWork (s.putPart p va l) :=
  State.onlyWork_foldl _ (fun t a => by
    dsimp only
    split
    · rfl
    · split
      · rfl
      · split
        · rfl
        · exact ((t.noteOutside_work p a).trans (State.vwr_onlyMem _ _ _ _).work).trans rfl) _ _

theorem State.setPte_work (s : State) (p page : Nat) (e : W64) : s.onlyWork (s.setPte p page e) := by
  unfold State.setPte
  split
  · exact (s.wrN_onlyMem _ _).work
  · rfl

theorem State.flushLate_work (s : State) (p : Nat) : s.onlyWork (s.flushLate p) := by
  unfold State.flushLate
  extract_lets l
  split
  · rfl
  · exact (s.updPart_work p _).trans (State.onlyWork_foldl (fun (t : State) (x : BitVec 64 × List Byte) => t.putPart p x.1.toNat x.2)
      (fun t x => t.putPart_work p x.1.toNat x.2) l _)

theorem State.wakePages_work (s : State) (p : Nat) : s.onlyWork (s.wakePages p) :=
  (s.flushLate_work p).trans rfl

theorem State.freeOutputs_work (s : State) (p : Nat) (l : List (Nat × Nat)) : s.onlyWork (s.freeOutputs p l) :=
  State.onlyWork_foldl (fun (t : State) (r : Nat × Nat) => (t.putPart p r.1 (freeBytes (t.freeAt p) 0 r.2)).freshP p 1)
    (fun t r => (t.putPart_work p r.1 _).trans (State.updPart_work _ p _)) l s

/-! ### Operations that are cut off -/

theorem State.complete_work (s : State) (p n st fc d0 d1 : Nat) : s.onlyWork (s.complete p n st fc d0 d1) := by
  unfold State.complete
  split <;> rfl

theorem State.releaseHeld_work (s : State) (p : Nat) (o : DmaOp) : s.onlyWork (s.releaseHeld p o) :=
  (State.onlyWork_foldl _ (fun t _ => t.setPte_work p _ _) _ s).trans (State.wakePages_work _ p)

theorem State.finishOp_work (s : State) (p k : Nat) (o : DmaOp) (st : BitVec 16) : s.onlyWork (s.finishOp p k o st) := by
  unfold State.finishOp
  extract_lets u v
  have hv : s.onlyWork v := by
    refine State.onlyWork.trans (t := u) rfl ?_
    simp only [v]
    split
    · exact u.complete_work _ _ _ _ _ _
    · split <;> rfl
  exact hv.trans (v.traceRec_onlyDailies _ _ _ _ _).posts.work

theorem State.pumpReqs_work (s : State) (p : Nat) : s.onlyWork (s.pumpReqs p) :=
  State.onlyWork_foldl _ (fun t r => by
    split
    · rfl
    · rfl) _ _

theorem State.abandonOp_work (s : State) (p k : Nat) (o : DmaOp) : s.onlyWork (s.abandonOp p k o) := by
  unfold State.abandonOp
  extract_lets u v
  have hv : s.onlyWork v := State.onlyWork.trans (t := u) rfl ((u.releaseHeld_work p o).trans (State.freeOutputs_work _ _ _))
  exact (hv.trans (v.finishOp_work p k o _)).trans (State.pumpReqs_work _ p)

theorem State.abandonDma_work (s : State) (p k : Nat) : s.onlyWork (s.abandonDma p k) :=
  State.onlyWork_foldl _ (fun t o => t.abandonOp_work p k o) _ _

/-! ### Threads, chunks and steps that end -/

theorem State.keepEntries_work (s : State) (k : Nat) (f : QEntry → Bool) : s.onlyWork (s.keepEntries k f) := by
  unfold State.keepEntries
  extract_lets u now
  split <;> rfl

theorem State.finishThread_work (s : State) (k t : Nat) : s.onlyWork (s.finishThread k t) :=
  ((s.freeSlots_onlyCore k t).work.trans (State.orderAll_work _ k t)).trans (State.updThr_work _ k t _)

theorem State.endThr_work (s : State) (k t : Nat) : s.onlyWork (s.endThr k t) := by
  unfold State.endThr
  split
  · rfl
  · extract_lets u v
    have hv : s.onlyWork v :=
      ((s.keepEntries_work k _).trans (u.freeSlots_onlyCore k t).work).trans (State.updCore_work _ k _)
    have hw : v.onlyWork (if v.hasDma k t then v else v.finishThread k t) := by
      split
      · exact v.onlyWork_refl
      · exact v.finishThread_work k t
    exact (hv.trans hw).trans (State.updCore_work _ k _)

theorem State.endThreads_work (s : State) (k : Nat) : s.onlyWork (s.endThreads k) :=
  State.onlyWork_foldl _ (fun t x => t.endThr_work k x) _ _

theorem State.stopJob_work (s : State) (p j : Nat) (lost : Bool) : s.onlyWork (s.stopJob p j lost) :=
  (State.onlyWork_foldl (fun (t : State) (k : Nat) => t.endThreads k) (fun t k => t.endThreads_work k) (s.jobCores p j) s).trans
    (State.updPart_work _ p _)

theorem State.finishChunk_work (s : State) (p : Nat) (c : Chunk) (st fc : Nat) : s.onlyWork (s.finishChunk p c st fc) := by
  unfold State.finishChunk
  extract_lets seq bad status fcode l u v
  have hu : s.onlyWork u := by
    simp only [u]
    split
    · rfl
    · exact s.putPart_work p _ _
  have hv : u.onlyWork v := by
    simp only [v]
    split <;> rfl
  refine (hu.trans hv).trans ?_
  split
  · exact v.complete_work _ _ _ _ _ _
  · rfl

theorem State.moveReels_work (s : State) (p k k' : Nat) : s.onlyWork (s.moveReels p k k') :=
  State.onlyWork_foldl _ (fun t i => by
    dsimp only
    split
    · exact (State.onlyWork_foldl _ (fun u n => (u.updSlot_onlyReels k' n _).work) _ t).trans (State.updReel_onlyReels _ _ _ _).work
    · rfl) _ _

theorem State.postCore_work (s : State) (k lg kind action us again : Nat) : s.onlyWork (s.postCore k lg kind action us again) :=
  (s.postUnit_onlyPosts _ _ _ _ _ _ _ _ _ _ _).work

end Sys2Proof.Machine
end

section
/-! Management commands (R616, R638, R643, R655, R754, R785, R809, R854). -/
namespace Sys2Proof.Machine

/-! ### A core that is declared failed (R787, R793, R794) -/

/-- A core has been fenced under an epoch; the time and the management commands stand. -/
structure State.fencedAs (s t : State) (c f : Nat) (e : BitVec 16) : Prop where
  time : t.time = s.time
  cmds : t.usb.mgmtCmds = s.usb.mgmtCmds
  out : t.usb.mgmtOut = s.usb.mgmtOut
  epoch : (t.cl c).pepoch.get 0#16 f = e
  state : 2 ≤ ((t.cl c).pstate.get 0#2 f).toNat

theorem State.fencedAs.work {s t u : State} {c f : Nat} {e : BitVec 16} (h : s.fencedAs t c f e) (g : t.onlyWork u) :
    s.fencedAs u c f e := by
  obtain ⟨htime, hcmds, hout, hepoch, hstate⟩ := h
  exact ⟨g.time.trans htime, g.mgmt.1.trans hcmds, g.mgmt.2.trans hout, by rw [State.cl_congr g.clusters, hepoch],
    by rw [State.cl_congr g.clusters]; exact hstate⟩

/-- A change of the cluster that leaves the core's plate. -/
theorem State.fencedAs.updCl {s t : State} {c f : Nat} {e : BitVec 16} (h : s.fencedAs t c f e) (g : Cluster → Cluster)
    (hepoch : ∀ x, (g x).pepoch = x.pepoch) (hstate : ∀ x, (g x).pstate.get 0#2 f = x.pstate.get 0#2 f) :
    s.fencedAs (t.updCl c g) c f e := by
  refine ⟨h.time, h.cmds, h.out, ?_, ?_⟩
  · rw [State.cl_updCl_same, hepoch]
    exact h.epoch
  · rw [State.cl_updCl_same, hstate]
    exact h.state

/-- A core fenced: its operations are cut off, its epoch is raised, and it is quarantined. -/
def State.fenced (s : State) (k : Nat) : State :=
  let f := keyCore k
  let e := nextEpoch ((s.cl (keyCl k)).pepoch.get 0#16 f)
  (s.abandonDma (s.partOf k) k).updCl (keyCl k) (fun x => { x with
    pepoch := x.pepoch.put f e, pstate := x.pstate.put f (if e = 0xFFFF#16 then 3#2 else 2#2)
    stale := if (s.core k).inFlight = 0 then x.stale else x.stale.put f ((s.logCore (keyCl k) f).getD 0, (s.core k).inFlight) })

/-- The jobs that a fenced core stops: those placed on its logical number. -/
def State.fencedJobs (s : State) (p c j : Nat) : List Nat := match s.logCl p c with
  | some l => s.jobsOn p l j
  | none => []

/-- The spare sp in place of core k, whose work it takes over. -/
def State.sparedBy (s : State) (k j sp : Nat) (busy : Bool) (old : Core) : State :=
  let s := s.updCl (keyCl k) (fun x => { x with coremap := x.coremap.put j (BitVec.ofNat 4 sp), pstate := x.pstate.put sp 0#2 })
  { s with cores := (s.cores.put (coreKey (keyCl k) sp) { Core.init with
      chunkq := (old.chunkq.filter (fun (x : Chunk) => !(busy && x.running))).map Chunk.again, cnt := old.cnt, full := old.full
      bp := old.bp, job := old.job, serial := old.serial }).put k Core.init }

/-- The members that a spare stops: Reels go over, chunks end where another recovery is under way, steps stop. -/
def State.stopMembers (s : State) (p k k' : Nat) (busy : Bool) (old : Core) (jobs : List Nat) : State :=
  let s := s.moveReels p k k'
  let s := if busy then (old.chunkq.filter (fun x => x.running)).foldl (fun s ch => s.finishChunk p ch stFaulted 0) s else s
  jobs.foldl (fun s n => if (s.job p n).kind = 2#2 then s
    else s.stopJob p n (busy || !(s.cl (s.lead p)).ckpt || !(s.job p n).ckptOn)) s

/-- A core that leaves the map without a spare: its Reels, steps and chunks end. -/
def State.lostCore (s : State) (p k j : Nat) (old : Core) (jobs : List Nat) : State :=
  let s := s.updCl (keyCl k) (fun x => { x with coremap := x.coremap.put j 15#4 })
  let s := s.updCore k (fun x => { Core.init with serial := x.serial })
  let s := if p ≥ 8 then s else s.loseReels p k
  let s := if p ≥ 8 then s else jobs.foldl (fun s n => s.stopJob p n true) s
  old.chunkq.foldl (fun s ch => s.finishChunk p ch stFaulted 0) s

/-- What a declaration does: by the logical number of the core and the spare of its cluster. -/
theorem State.fenceCore_eq (s : State) (k kind : Nat) : s.fenceCore k kind =
    (let p := s.partOf k
    let v := s.fenced k
    match s.logCore (keyCl k) (keyCore k) with
    | none => v.postCore k 0 kind 4 0 0
    | some j =>
      let jobs := v.fencedJobs p (keyCl k) j
      match s.spareOf (keyCl k) with
      | some sp =>
        let u := v.sparedBy k j sp s.recovering (s.core k)
        if p ≥ 8 || u.scrubbingCl (keyCl k) then u.postCore k j kind 1 0 0
        else
          let z := u.stopMembers p k (coreKey (keyCl k) sp) s.recovering (s.core k) jobs
          let w := if kind = 0 then (z.cl (keyCl k)).wdog.toNat * 1000 else 0
          z.updCl (keyCl k) (fun x => { x with spareBusy := some (keyCore k, j, kind, z.ns - w) })
      | none => (v.lostCore p k j (s.core k) jobs).postCore k j kind (if jobs.isEmpty then 4 else 3) 0 0) := by
  unfold State.fenceCore
  extract_lets c f p lg spare e old busy u v p' v'
  have hv : v = s.fenced k := rfl
  have hlg : s.logCore (keyCl k) (keyCore k) = lg := rfl
  have hspare : s.spareOf (keyCl k) = spare := rfl
  rw [hlg, hspare]
  simp only [v']
  clear_value v lg spare
  subst hv
  cases lg with
  | none => rfl
  | some j =>
    cases spare with
    | some sp => rfl
    | none => rfl

theorem State.stopMembers_work (s : State) (p k k' : Nat) (busy : Bool) (old : Core) (jobs : List Nat) :
    s.onlyWork (s.stopMembers p k k' busy old jobs) := by
  unfold State.stopMembers
  extract_lets u v
  have hu : s.onlyWork u := s.moveReels_work p k k'
  have hv : u.onlyWork v := by
    simp only [v]
    split
    · exact State.onlyWork_foldl (fun (t : State) (ch : Chunk) => t.finishChunk p ch stFaulted 0)
        (fun t ch => t.finishChunk_work p ch _ _) _ u
    · exact u.onlyWork_refl
  exact (hu.trans hv).trans (State.onlyWork_foldl (fun (t : State) (n : Nat) => if (t.job p n).kind = 2#2 then t
    else t.stopJob p n (busy || !(t.cl (t.lead p)).ckpt || !(t.job p n).ckptOn)) (fun t n => by
      split
      · exact t.onlyWork_refl
      · exact t.stopJob_work p n _) jobs v)

/-- Beside the map of its cluster, a core that leaves without a spare touches the work that ends. -/
theorem State.lostCore_work (s : State) (p k j : Nat) (old : Core) (jobs : List Nat) :
    (s.updCl (keyCl k) (fun x => { x with coremap := x.coremap.put j 15#4 })).onlyWork (s.lostCore p k j old jobs) := by
  unfold State.lostCore
  extract_lets u fresh v w x
  have hv : u.onlyWork v := u.updCore_work k _
  have hw : v.onlyWork w := by
    simp only [w]
    split
    · exact v.onlyWork_refl
    · exact (v.loseReels_onlyReels p k).work
  have hx : w.onlyWork x := by
    simp only [x]
    split
    · exact w.onlyWork_refl
    · exact State.onlyWork_foldl (fun (t : State) (n : Nat) => t.stopJob p n true) (fun t n => t.stopJob_work p n true) jobs w
  exact ((hv.trans hw).trans hx).trans (State.onlyWork_foldl (fun (t : State) (ch : Chunk) => t.finishChunk p ch stFaulted 0)
    (fun t ch => t.finishChunk_work p ch _ _) old.chunkq x)

/-- A core that is fenced has its new epoch and leaves service. -/
theorem State.fenced_fencedAs (s : State) (k : Nat) :
    s.fencedAs (s.fenced k) (keyCl k) (keyCore k) (nextEpoch ((s.cl (keyCl k)).pepoch.get 0#16 (keyCore k))) := by
  have hplate : ∀ w : BitVec 16, 2 ≤ (if w = 0xFFFF#16 then 3#2 else 2#2 : BitVec 2).toNat := fun w => by
    split <;> decide
  have hu := s.abandonDma_work (s.partOf k) k
  refine ⟨hu.time, hu.mgmt.1, hu.mgmt.2, ?_, ?_⟩
  · simp only [State.fenced, State.cl_updCl_same, SMap.get_put_same]
  · simp only [State.fenced, State.cl_updCl_same, SMap.get_put_same]
    exact hplate _

theorem State.fenceCore_fencedAs (s : State) (k kind : Nat) (hcore : (s.cl (keyCl k)).pstate.get 0#2 (keyCore k) ≠ 1#2) :
    s.fencedAs (s.fenceCore k kind) (keyCl k) (keyCore k) (nextEpoch ((s.cl (keyCl k)).pepoch.get 0#16 (keyCore k))) := by
  have hv := s.fenced_fencedAs k
  rw [State.fenceCore_eq]
  dsimp only
  generalize s.fenced k = v at hv ⊢
  cases s.logCore (keyCl k) (keyCore k) with
  | none => exact hv.work (v.postCore_work _ _ _ _ _ _)
  | some j =>
    dsimp only
    cases hs : s.spareOf (keyCl k) with
    | none =>
      have hmap := hv.updCl (fun x => { x with coremap := x.coremap.put j 15#4 }) (fun _ => rfl) (fun _ => rfl)
      exact (hmap.work (v.lostCore_work _ k j _ _)).work (State.postCore_work _ _ _ _ _ _ _)
    | some sp =>
      have hsp : keyCore k ≠ sp := fun h => by
        have hspare := List.find?_some hs
        rw [← h] at hspare
        exact hcore (beq_iff_eq.mp hspare)
      have hmap := hv.updCl (fun x => { x with coremap := x.coremap.put j (BitVec.ofNat 4 sp), pstate := x.pstate.put sp 0#2 })
        (fun _ => rfl) (fun _ => SMap.get_put_ne _ _ _ _ _ hsp)
      have hu : s.fencedAs (v.sparedBy k j sp s.recovering (s.core k)) _ _ _ := hmap.work rfl
      dsimp only
      generalize v.sparedBy k j sp s.recovering (s.core k) = u at hu ⊢
      split
      · exact hu.work (u.postCore_work _ _ _ _ _ _)
      · exact (hu.work (u.stopMembers_work _ _ _ _ _ _)).updCl _ (fun _ => rfl) (fun _ => rfl)

end Sys2Proof.Machine
end

section
/-! Management commands on functions, shares and units (R616, R638, R643, R655, R754, R785, R809, R854). -/
namespace Sys2Proof.Machine

/-! ### Ranges that are cleared -/

theorem State.xtsKey_beyond (s : State) (a : Nat) (h : 8 * stackBytes ≤ a) : s.xtsKey (64 * (a / 64)) = none := by
  unfold State.xtsKey
  split
  · rename_i n hr
    exact absurd hr (regionOf_beyond a n h)
  · rfl

/-- A cleared range beyond HBM reads as zero. -/
theorem State.clearRange_rd_in (s : State) {a n x : Nat} (h1 : a ≤ x) (h2 : x < a + n) (hx : 8 * stackBytes ≤ x) :
    (s.clearRange a n).rd x = 0#8 := by
  rw [State.rd_plain _ _ (State.cipherAt_beyond _ x hx) (State.xtsKey_beyond _ x hx), State.clearRange_read, if_pos ⟨h1, h2⟩]

theorem State.clearRange_cipher_out (s : State) (a n g : Nat) (h : ¬(a ≤ 64 * g ∧ 64 * g < a + n)) :
    (s.clearRange a n).cipher.find g = s.cipher.find g := by
  have hout : (!(decide (a ≤ 64 * g) && decide (64 * g < a + n))) = true := by
    rw [← Bool.decide_and, decide_eq_false h]
    rfl
  unfold State.clearRange
  dsimp only
  rw [SMap.find_filterKey s.cipher (fun x => !(decide (a ≤ 64 * x) && decide (64 * x < a + n))), if_pos hout]

/-- A byte whose granule meets no byte of a cleared range reads as before. -/
theorem State.clearRange_rd_out (s : State) {a n x : Nat} (h : 64 * (x / 64) + 64 ≤ a ∨ a + n ≤ 64 * (x / 64)) :
    (s.clearRange a n).rd x = s.rd x := by
  have hread : ∀ y, 64 * (x / 64) ≤ y → y < 64 * (x / 64) + 64 → Memory.read (s.clearRange a n).mem y = Memory.read s.mem y :=
    fun y h1 h2 => by rw [State.clearRange_read, if_neg (by omega)]
  have hreadN : Memory.readN (s.clearRange a n).mem (64 * (x / 64)) 64 = Memory.readN s.mem (64 * (x / 64)) 64 :=
    Memory.readN_congr _ _ _ _ fun i hi => hread _ (by omega) (by omega)
  have hcipher : (s.clearRange a n).cipherAt (x / 64) = s.cipherAt (x / 64) := by
    rw [State.cipherAt, State.clearRange_cipher_out _ _ _ _ (by omega), State.cipherAt]
  have hkey : (s.clearRange a n).xtsKey = s.xtsKey := rfl
  have hpair : (s.clearRange a n).xtsPair = s.xtsPair := rfl
  have hgranule : (s.clearRange a n).granule (x / 64) = s.granule (x / 64) := by
    simp only [State.granule, hreadN, hcipher, hkey, hpair]
  simp only [State.rd, State.sameKey, hcipher, hkey, hgranule, hread x (by omega) (by omega)]
  rfl

theorem coreStore_beyond (k a : Nat) : 8 * stackBytes ≤ coreStore k a := by
  unfold coreStore stackBytes
  omega

/-- A core store that is cleared reads as zero, and every other byte as before. -/
theorem State.clearRange_coreStore (s : State) (k : Nat) :
    (∀ a, a < 0x400000 → (s.clearRange (coreStore k 0) 0x400000).rd (coreStore k a) = 0#8) ∧
      s.sameOutside (s.clearRange (coreStore k 0) 0x400000) (coreStore k 0) 0x400000 := by
  refine ⟨fun a ha => ?_, fun x hx => ?_⟩
  · exact s.clearRange_rd_in (by unfold coreStore; omega) (by unfold coreStore; omega) (coreStore_beyond k a)
  · refine s.clearRange_rd_out ?_
    unfold coreStore at hx ⊢
    omega

/-! ### Ranges of the flash -/

/-- A run of entries written one after another. -/
theorem SMap.find_foldl_put {α : Type} (a : Nat) (f : Nat → α) (x : Nat) : ∀ (n : Nat) (m : SMap α),
    ((upTo n).foldl (fun m i => m.put (a + i) (f i)) m).find x = if a ≤ x ∧ x < a + n then some (f (x - a)) else m.find x
  | 0, m => by
    rw [if_neg (by omega)]
    rfl
  | n + 1, m => by
    have hn : upTo (n + 1) = upTo n ++ [n] := List.range_succ
    rw [hn, List.foldl_append, List.foldl_cons, List.foldl_nil, SMap.find_put, SMap.find_foldl_put a f x n m]
    by_cases h : a + n = x
    · subst h
      rw [if_pos rfl, if_pos (by omega), Nat.add_sub_cancel_left]
    · rw [if_neg h]
      by_cases h' : a ≤ x ∧ x < a + n
      · rw [if_pos h', if_pos (by omega)]
      · rw [if_neg h', if_neg (by omega)]

/-! ### Broadcasts -/

/-! The routes of a device follow from its DEV registers. -/

section
variable {s t : State} (h : t.dev = s.dev)
include h

theorem State.ringSize_congr (d : Nat) : t.ringSize d = s.ringSize d := by rw [State.ringSize, h, State.ringSize]

theorem State.linkBad_congr (node d : Nat) (pos : Bool) : t.linkBad node d pos = s.linkBad node d pos := by
  simp only [State.linkBad, State.ringSize_congr h, h]

theorem State.segBad_congr (d : Nat) (pos : Bool) : ∀ k node, t.segBad d pos k node = s.segBad d pos k node
  | 0, _ => rfl
  | k + 1, node => by
    simp only [State.segBad, State.linkBad_congr h, State.ringSize_congr h, State.segBad_congr d pos k]

theorem State.route_congr (dst : Nat) : t.route dst = s.route dst := by
  simp only [State.route, State.ringWay, State.ringSize_congr h, State.segBad_congr h, State.node, h]
  rfl

theorem State.treeLinks_congr (root : Nat) (input : Option Nat) : t.treeLinks root input = s.treeLinks root input := by
  simp only [State.treeLinks, State.startRing, State.ringFails, State.ringSize_congr h, State.segBad_congr h, State.linkBad_congr h,
    State.node, h]
  rfl

end

/-- A broadcast touches the queues of links. -/
theorem State.enqueue_frame (s : State) (l input : Nat) (k : Packet) :
    s.enqueue l input k = { s with links := (s.enqueue l input k).links } := by
  unfold State.enqueue
  dsimp only
  split <;> rfl

theorem State.broadcast_frame (s : State) (k : Packet) : s.broadcast k = { s with links := (s.broadcast k).links } := by
  unfold State.broadcast
  extract_lets k'
  exact List.foldlRecOn (motive := fun t : State => t = { s with links := t.links }) _ _ rfl fun t ht l _ => by
    rw [State.enqueue_frame, ht]

theorem State.sendImage_frame (s : State) (l : List Byte) : s.sendImage l = { s with links := (s.sendImage l).links } :=
  List.foldlRecOn (motive := fun t : State => t = { s with links := t.links }) _ _ rfl fun t ht i _ => by
    rw [State.broadcast_frame, ht]

/-- The same state with another USB port. -/
def State.withUsb (s : State) (u : Usb) : State := { s with usb := u }

theorem State.enqueue_withUsb (s : State) (u : Usb) (l input : Nat) (k : Packet) :
    (s.withUsb u).enqueue l input k = (s.enqueue l input k).withUsb u := by
  unfold State.enqueue
  dsimp only
  split <;> rfl

theorem State.foldl_withUsb {α : Type} (u : Usb) (f : State → α → State) (hf : ∀ (s : State) a, f (s.withUsb u) a = (f s a).withUsb u) :
    ∀ (l : List α) (s : State), l.foldl f (s.withUsb u) = (l.foldl f s).withUsb u
  | [], _ => rfl
  | a :: l, s => by rw [List.foldl_cons, List.foldl_cons, hf, State.foldl_withUsb u f hf l]

theorem State.broadcast_withUsb (s : State) (u : Usb) (k : Packet) : (s.withUsb u).broadcast k = (s.broadcast k).withUsb u := by
  have htree : (s.withUsb u).treeLinks (s.withUsb u).node none = s.treeLinks s.node none := State.treeLinks_congr (s := s) (t := s.withUsb u) rfl _ _
  rw [State.broadcast, htree]
  exact State.foldl_withUsb u (fun (t : State) (l : Nat) => t.enqueue l 7
    { s.ownPacket { k with type := 6#4, bc := true } with dl := t.dateline 7 l false })
    (fun t l => t.enqueue_withUsb u l 7 _) (s.treeLinks s.node none) s

theorem State.sendImage_withUsb (s : State) (u : Usb) (l : List Byte) : (s.withUsb u).sendImage l = (s.sendImage l).withUsb u :=
  State.foldl_withUsb u (fun (t : State) i => t.broadcast { Packet.init with
      sub := 3#5, addr := BitVec.ofNat 48 (256 * i), len := BitVec.ofNat 9 (pad16 ((l.drop (256 * i)).take 256)).length
      data := pad16 ((l.drop (256 * i)).take 256) }) (fun t _ => t.broadcast_withUsb u _) (upTo (ceilDiv l.length 256)) s

/-! ### The commands -/

/-- A command without data starts at once. -/
theorem State.mgmtRow_now (s : State) (opc : Nat) (h : CmdHdr) (ht : s.takesMgmt)
    (hb : mgmtBulk (s.newMgmt opc h) = 0) :
    mgmtRow opc h s = .next ((s.mgmtTaken opc h s.usb.slotPos s.usb.lastBorrow).runMgmt (s.newMgmt opc h)) := by
  obtain ⟨pos, last, hrow, hsame⟩ := s.mgmtRow_starts opc h ht (by rw [hb]; rfl)
  obtain ⟨rfl, rfl⟩ := hsame hb
  exact hrow

/-- A command that completes after its effect, which leaves the management commands and the time. -/
theorem State.mgmt_done {s t : State} {opc : Nat} {h : CmdHdr} {pos last : Nat} (hc : t.usb.mgmtCmds = (s.mgmtTaken opc h pos last).usb.mgmtCmds)
    (ho : t.usb.mgmtOut = s.usb.mgmtOut) (hns : t.time = s.time) (st fc d0 : Nat) :
    s.completesMgmt (t.completeMgmt (s.newMgmt opc h).serial st fc d0 0) h opc st fc d0 :=
  State.completeMgmt_completes hc ho (by rw [State.nsW, State.ns, hns]; rfl) st fc d0

/-- The functions of a partition, its work, its keys and the rest of the device outlive a completion. -/
theorem State.completeMgmt_same (s : State) (n st fc d0 d1 : Nat) :
    (∀ p, (s.completeMgmt n st fc d0 d1).func p = s.func p) ∧ (∀ p, (s.completeMgmt n st fc d0 d1).secp p = s.secp p) ∧
      (∀ p, (s.completeMgmt n st fc d0 d1).part p = s.part p) ∧ (∀ c, (s.completeMgmt n st fc d0 d1).cl c = s.cl c) ∧
      (∀ a, (s.completeMgmt n st fc d0 d1).rd a = s.rd a) ∧ (∀ o, (s.completeMgmt n st fc d0 d1).flashRd o = s.flashRd o) ∧
      (s.completeMgmt n st fc d0 d1).usb.evq = s.usb.evq ∧ (s.completeMgmt n st fc d0 d1).usb.share = s.usb.share ∧
      (s.completeMgmt n st fc d0 d1).mem = s.mem ∧ (s.completeMgmt n st fc d0 d1).links = s.links ∧
      (s.completeMgmt n st fc d0 d1).flash = s.flash := by
  rw [State.completeMgmt_frame]
  exact ⟨fun _ => rfl, fun _ => rfl, fun _ => rfl, fun _ => rfl, fun a => congrFun (State.rd_congr rfl rfl rfl rfl) a, fun _ => rfl, rfl, rfl,
    rfl, rfl, rfl⟩

theorem State.pump_none (s : State) (p : Nat) (h : (s.func p).cmds = []) : s.pump p = s := by
  rw [State.pump, h]
  rfl

/-- The legal command at its start, by its opcode. -/
theorem State.runMgmt_legal (s : State) (c : HCmd) {x : State} (hill : mgmtIllegal c.opc.toNat c.hdr = false)
    (hx : (if mgmtIllegal c.opc.toNat c.hdr = true then s.completeMgmt c.serial stFaulted fcIllegal 0 0 else x) = s.runMgmt c) :
    s.runMgmt c = x := by
  rw [← hx, if_neg (by rw [hill]; exact Bool.false_ne_true)]

/-- Settles O10: each command acts on the state in which it has been taken, and completes. -/
theorem managementCommands : Obligations.ManagementCommands := by
  unfold Obligations.ManagementCommands
  intro h s p n
  refine ⟨?disable, ?enable, ?share, ?flashWrite, ?flashRead, ?image, ?attest, ?declare, ?readmit, ?controller, ?lock⟩
  case disable =>
    intro ht hill hex hop hcmds
    let u := s.mgmtTaken 0x44 h s.usb.slotPos s.usb.lastBorrow
    have hdis : u.disableFunc p = (u.updFunc p (fun f => { f with st := .draining, dNs := s.nsW, nrdy := false })).closeSession p :=
      u.disableFunc_idle p hcmds hop
    have hfunc : (u.disableFunc p).func p = { s.func p with st := .draining, dNs := s.nsW, nrdy := false } := by
      rw [hdis]
      exact State.func_updFunc_same _ _ _
    have hrun : u.runMgmt (s.newMgmt 0x44 h) = (u.disableFunc p).completeMgmt (s.newMgmt 0x44 h).serial stOk 0 0 0 := by
      refine (u.runMgmt_legal (s.newMgmt 0x44 h) hill rfl).trans ((if_neg ?_).trans ?_)
      · exact Bool.eq_false_iff.mp (congrArg (!·) hex)
      · exact congrArg (fun t : State => t.completeMgmt _ stOk 0 0 0) (State.pump_none (u.disableFunc p) p (by rw [hfunc]; exact hcmds))
    have hsame := (u.disableFunc p).completeMgmt_same (s.newMgmt 0x44 h).serial stOk 0 0 0
    obtain ⟨func, secp, -⟩ := hsame
    refine ⟨_, (s.mgmtRow_now 0x44 h ht rfl).trans (congrArg _ hrun), State.mgmt_done (pos := s.usb.slotPos) (last := s.usb.lastBorrow) ?_ ?_ ?_ 0 0 0, ?_, ?_, ?_⟩
    · rw [hdis]; rfl
    · rw [hdis]; rfl
    · rw [hdis]; rfl
    · rw [func, hfunc]
    · rw [func, hfunc]
    · rw [secp, hdis, State.closeSession, State.secp, State.updSecp]
      simp only [SMap.get_upd_same]
  case attest =>
    intro ht hill
    let u := s.mgmtTaken 0x4A h s.usb.slotPos s.usb.lastBorrow
    have hrun : u.runMgmt (s.newMgmt 0x4A h) = u.updSecp 8 (fun x => { x with signQ := x.signQ ++ [((s.newMgmt 0x4A h).serial, h.payload)] }) :=
      u.runMgmt_legal (s.newMgmt 0x4A h) hill rfl
    refine ⟨_, (s.mgmtRow_now 0x4A h ht rfl).trans (congrArg _ hrun), ⟨rfl, rfl⟩, ?_⟩
    simp only [State.secp, State.updSecp, SMap.get_upd_same]
    rfl
  case enable =>
    intro ht hill hex hscrub hoff hcmd hstreams
    let u := s.mgmtTaken 0x45 h s.usb.slotPos s.usb.lastBorrow
    have hport : u.portOpen = true := by
      obtain ⟨-, -, -, hmas, -⟩ := ht
      exact Bool.and_eq_true_iff.mpr ⟨hstreams, hmas⟩
    have hstart : u.startFunc p = { u.updFunc p (fun f => { f with st := .operating, cmds := [], out := [], in2 := [], nrdy := false }) with
        usb := { (u.updFunc p (fun f => { f with st := .operating, cmds := [], out := [], in2 := [], nrdy := false })).usb with
          evq := u.usb.evq.erase p, lost := u.usb.lost.erase p } } := by
      rw [State.startFunc, hport]
      rfl
    have hfunc : (u.startFunc p).func p = { s.func p with st := .operating, cmds := [], out := [], in2 := [], nrdy := false } := by
      rw [hstart]
      have hsame := State.func_updFunc_same u p (fun f => { f with st := .operating, cmds := [], out := [], in2 := [], nrdy := false })
      exact hsame
    have hrun : u.runMgmt (s.newMgmt 0x45 h) = (u.startFunc p).completeMgmt (s.newMgmt 0x45 h).serial stOk 0 0 0 := by
      refine (u.runMgmt_legal (s.newMgmt 0x45 h) hill rfl).trans ((if_neg ?_).trans (if_neg ?_))
      · have hno : (!s.exists? p || s.scrubbing p || (s.func p).st == .draining || (s.part p).scrubCmd.isSome || !s.usbStreams) = false := by
          simp [hex, hscrub, hoff, hcmd, hstreams]
        exact Bool.eq_false_iff.mp hno
      · exact fun hop => nomatch hoff.symm.trans hop
    obtain ⟨func, -, -, -, -, -, hevq, -⟩ := (u.startFunc p).completeMgmt_same (s.newMgmt 0x45 h).serial stOk 0 0 0
    refine ⟨_, (s.mgmtRow_now 0x45 h ht rfl).trans (congrArg _ hrun), State.mgmt_done (pos := s.usb.slotPos)
      (last := s.usb.lastBorrow) ?_ ?_ ?_ 0 0 0, ?_, ?_, ?_, ?_⟩
    · rw [hstart]; rfl
    · rw [hstart]; rfl
    · rw [hstart]; rfl
    · rw [func, hfunc]
    · rw [func, hfunc]
    · rw [func, hfunc]
    · rw [hevq, hstart]
      exact SMap.find_erase_same _ _
  case share =>
    intro rest ht hill
    let u := s.mgmtTaken 0x46 h s.usb.slotPos s.usb.lastBorrow
    refine ⟨fun hroom => ?_, fun hfull => ?_⟩
    · let v : State := { u.coverTouch with usb := { u.usb with share := u.usb.share.put p (BitVec.ofNat 7 n) } }
      have hrun : u.runMgmt (s.newMgmt 0x46 h) = v.completeMgmt (s.newMgmt 0x46 h).serial stOk 0 0 0 := by
        refine (u.runMgmt_legal (s.newMgmt 0x46 h) hill rfl).trans (if_neg ?_)
        have hno : ¬(n > 64 ∨ rest + n > 64) := by omega
        exact hno
      obtain ⟨-, -, -, -, -, -, -, hshare, -⟩ := v.completeMgmt_same (s.newMgmt 0x46 h).serial stOk 0 0 0
      refine ⟨_, (s.mgmtRow_now 0x46 h ht rfl).trans (congrArg _ hrun), State.mgmt_done (t := v) (pos := s.usb.slotPos)
        (last := s.usb.lastBorrow) rfl rfl rfl 0 0 0, ?_, fun q hq => ?_⟩
      · rw [hshare]
        exact SMap.get_put_same _ _ _ _
      · rw [hshare]
        exact SMap.get_put_ne _ _ _ _ _ hq
    · refine ⟨_, (s.mgmtRow_now 0x46 h ht rfl).trans (congrArg _ ((u.runMgmt_legal (s.newMgmt 0x46 h) hill rfl).trans (if_pos ?_))),
        s.mgmtTaken_completes 0x46 h 4 0 0⟩
      have hno : n > 64 ∨ rest + n > 64 := .inr hfull
      exact hno
  case flashWrite =>
    intro ht hill hfits hdata
    have hbulk : mgmtBulk (s.newMgmt 0x47 h) = h.payload.length := by
      have hlegal : mgmtIllegal (s.newMgmt 0x47 h).opc.toNat (s.newMgmt 0x47 h).hdr = false := hill
      rw [mgmtBulk, hlegal]
      rfl
    obtain ⟨pos, last, hrow, -⟩ := s.mgmtRow_starts 0x47 h ht (by rw [hbulk]; exact hdata)
    let u := s.mgmtTaken 0x47 h pos last
    have hlegal : u.runMgmt (s.newMgmt 0x47 h) = if !flashMay p n then u.completeMgmt (s.newMgmt 0x47 h).serial stRefused 0 0 0
        else ({ u with flash := (upTo n).foldl (fun m i => m.put (p + i) (h.payload.getD (64 + i) 0#8)) u.flash } : State).completeMgmt
          (s.newMgmt 0x47 h).serial stOk 0 0 0 :=
      (u.runMgmt_legal (s.newMgmt 0x47 h) hill rfl).trans (if_neg (Bool.eq_false_iff.mp (congrArg (!·) hfits)))
    refine ⟨fun hlow hhigh => ?_, fun hout => ?_⟩
    · have hmay : flashMay p n = true := by simp [flashMay, hlow, hhigh]
      let v : State := { u with flash := (upTo n).foldl (fun m i => m.put (p + i) (h.payload.getD (64 + i) 0#8)) u.flash }
      obtain ⟨-, -, -, -, -, hrd, -⟩ := v.completeMgmt_same (s.newMgmt 0x47 h).serial stOk 0 0 0
      refine ⟨_, hrow.trans (congrArg _ (hlegal.trans (if_neg (by rw [hmay]; decide)))),
        State.mgmt_done (t := v) (pos := pos) (last := last) rfl rfl rfl 0 0 0, fun i hi => ?_, fun o ho => ?_⟩
      · rw [hrd, State.flashRd, SMap.find_foldl_put, if_pos (by omega), Nat.add_sub_cancel_left]
        rfl
      · rw [hrd, State.flashRd, SMap.find_foldl_put, if_neg (by omega)]
        rfl
    · have hmay : flashMay p n = false := by
        simp only [flashMay, Bool.and_eq_false_iff, decide_eq_false_iff_not]
        omega
      refine ⟨_, hrow.trans (congrArg _ (hlegal.trans (if_pos (by rw [hmay]; rfl)))),
        State.mgmt_done (t := u) (pos := pos) (last := last) rfl rfl rfl 4 0 0, ?_⟩
      rw [State.completeMgmt_frame]
      rfl
  case flashRead =>
    intro ht hill hroom
    let u := s.mgmtTaken 0x48 h s.usb.slotPos s.usb.lastBorrow
    refine ⟨_, (s.mgmtRow_now 0x48 h ht rfl).trans (congrArg _ ((u.runMgmt_legal (s.newMgmt 0x48 h) hill rfl).trans (if_neg ?_))),
      ⟨rfl, rfl⟩, rfl, rfl⟩
    have hno : ¬p + n > 0x4000000 := by omega
    exact hno
  case image =>
    intro ht hill hfits hdata
    have hbulk : mgmtBulk (s.newMgmt 0x49 h) = h.payload.length := by
      have hlegal : mgmtIllegal (s.newMgmt 0x49 h).opc.toNat (s.newMgmt 0x49 h).hdr = false := hill
      rw [mgmtBulk, hlegal]
      rfl
    obtain ⟨pos, last, hrow, -⟩ := s.mgmtRow_starts 0x49 h ht (by rw [hbulk]; exact hdata)
    let u := s.mgmtTaken 0x49 h pos last
    let l := sliceB h.payload 64 (recN h.payload 8 8)
    have hsend : u.sendImage l = (s.sendImage l).withUsb u.usb := s.sendImage_withUsb u.usb l
    have hframe := s.sendImage_frame l
    obtain ⟨-, -, -, -, -, -, -, -, hmem, hlinks, hflash⟩ := (u.sendImage l).completeMgmt_same (s.newMgmt 0x49 h).serial stOk 0 0 0
    refine ⟨_, hrow.trans (congrArg _ ((u.runMgmt_legal (s.newMgmt 0x49 h) hill rfl).trans
      (if_neg (Bool.eq_false_iff.mp (congrArg (!·) hfits))))),
      State.mgmt_done (t := u.sendImage l) (pos := pos) (last := last) ?_ ?_ ?_ 0 0 0, hmem.trans ?_, hflash.trans ?_, hlinks.trans ?_⟩
    · rw [hsend]; rfl
    · rw [hsend]; rfl
    · rw [hsend, hframe]; rfl
    · rw [hsend, hframe]; rfl
    · rw [hsend, hframe]; rfl
    · rw [hsend]; rfl
  case declare =>
    intro c i ht hill hp hn hc hi hplate hsw
    let u := s.mgmtTaken 0x4B h s.usb.slotPos s.usb.lastBorrow
    have hkey : keyCl (coreKey c i) = c := keyCl_coreKey c i (by omega)
    have hcore : keyCore (coreKey c i) = i := by unfold keyCore coreKey; omega
    have hfree : u.fencedCore (coreKey c i) = false := by
      unfold State.fencedCore
      rw [hkey, hcore]
      have hz : (u.cl c).pstate.get 0#2 i = 0#2 := hplate
      rw [hz]
      decide
    have hdecl : u.declare p n = u.fenceCore (coreKey c i) 2 := by
      rw [hp, State.declare, show n % 16 = c by omega, show n / 16 = i by omega]
      exact (if_neg (Bool.eq_false_iff.mp hfree)).trans (if_neg (by
        have hs : (u.core (coreKey c i)).switching = none := hsw
        rw [hs]; decide))
    obtain ⟨htime, hcmds, hout, hepoch, hstate⟩ := u.fenceCore_fencedAs (coreKey c i) 2 (by
      rw [hkey, hcore]
      have hz : (u.cl c).pstate.get 0#2 i = 0#2 := hplate
      rw [hz]
      decide)
    have hrun : u.runMgmt (s.newMgmt 0x4B h) = (u.fenceCore (coreKey c i) 2).completeMgmt (s.newMgmt 0x4B h).serial stOk 0 0 0 := by
      rw [← hdecl]
      exact u.runMgmt_legal (s.newMgmt 0x4B h) hill rfl
    obtain ⟨-, -, -, hcl, -⟩ := (u.fenceCore (coreKey c i) 2).completeMgmt_same (s.newMgmt 0x4B h).serial stOk 0 0 0
    refine ⟨_, (s.mgmtRow_now 0x4B h ht rfl).trans (congrArg _ hrun),
      State.mgmt_done (pos := s.usb.slotPos) (last := s.usb.lastBorrow) hcmds hout htime 0 0 0, ?_, ?_⟩
    · unfold State.fencedCore
      rw [hcl]
      exact decide_eq_true hstate
    · rw [hkey, hcore] at hepoch
      rw [hcl]
      exact hepoch
  case readmit =>
    intro c i ht hill hp hn hc hi hplate hepoch hmap
    let u := s.mgmtTaken 0x4C h s.usb.slotPos s.usb.lastBorrow
    let k := coreKey c i
    have hkey : keyCl k = c := keyCl_coreKey c i (by omega)
    have hcore : keyCore k = i := by simp only [k]; unfold keyCore coreKey; omega
    let v := (u.clearRange (coreStore k 0) 0x400000).updCore k Core.fresh
    let w := v.updCl c (fun x => { x with pstate := x.pstate.put i 1#2 })
    have hback : u.readmitCore k = w := by
      have hnone : (upTo 8).find? (fun l =>
          (((u.clearRange (coreStore k 0) 0x400000).updCore k Core.fresh).physCore c l).isNone) = none := by
        rw [List.find?_eq_none]
        intro l hl
        have hs := hmap l (List.mem_range.mp hl)
        exact fun hno => absurd (hs.symm.trans (Option.isSome_eq_false_iff.mpr hno)) (by decide)
      rw [State.readmitCore, hkey, hcore]
      dsimp only
      rw [hnone]
    have hrun : u.runMgmt (s.newMgmt 0x4C h) = w.completeMgmt (s.newMgmt 0x4C h).serial stOk 0 0 0 := by
      refine (u.runMgmt_legal (s.newMgmt 0x4C h) hill rfl).trans ((if_neg ?_).trans ?_)
      · have hok : s.readmitRefused p n = false := by
          rw [hp, State.readmitRefused, show n % 16 = c by omega, show n / 16 = i by omega, hplate]
          simpa using hepoch
        exact Bool.eq_false_iff.mp hok
      · have hread : u.readmit p n = w := by
          rw [hp, State.readmit, show n % 16 = c by omega, show n / 16 = i by omega]
          exact hback
        exact congrArg (fun t : State => t.completeMgmt (s.newMgmt 0x4C h).serial stOk 0 0 0) hread
    obtain ⟨-, -, -, hcl, hrd, -⟩ := w.completeMgmt_same (s.newMgmt 0x4C h).serial stOk 0 0 0
    have hw : ∀ a, w.rd a = (u.clearRange (coreStore k 0) 0x400000).rd a := fun a => congrFun (State.rd_congr rfl rfl rfl rfl) a
    have hu : ∀ a, u.rd a = s.rd a := fun a => congrFun (State.rd_congr rfl rfl rfl rfl) a
    obtain ⟨hin, hout⟩ := u.clearRange_coreStore k
    refine ⟨_, (s.mgmtRow_now 0x4C h ht rfl).trans (congrArg _ hrun),
      State.mgmt_done (t := w) (pos := s.usb.slotPos) (last := s.usb.lastBorrow) rfl rfl rfl 0 0 0, ?_, fun a ha => ?_, fun x hx => ?_⟩
    · rw [hcl, State.cl_updCl_same]
      exact SMap.get_put_same _ _ _ _
    · rw [hrd, hw, hin a ha]
    · rw [hrd, hw, hout x hx, hu]
  case controller =>
    intro ht hill hp
    refine ⟨_, (s.mgmtRow_now 0x4C h ht rfl).trans (congrArg _ ((State.runMgmt_legal _ (s.newMgmt 0x4C h) hill rfl).trans (if_pos ?_))),
      s.mgmtTaken_completes 0x4C h 4 0 0⟩
    have hno : s.readmitRefused p n = true := by rw [hp]; rfl
    exact hno
  case lock =>
    intro ht hill hex hmay
    let u := s.mgmtTaken 0x4D h s.usb.slotPos s.usb.lastBorrow
    let v := u.updPart p (fun x => { x with lockstep := h.arg1 == 1#64 })
    have hon : (h.arg1 == 1#64) = decide (n = 1) := by
      rw [Bool.eq_iff_iff, beq_iff_eq, decide_eq_true_eq]
      exact BitVec.toNat_inj.symm
    have hrun : u.runMgmt (s.newMgmt 0x4D h) = v.completeMgmt (s.newMgmt 0x4D h).serial stOk 0 0 0 := by
      refine (u.runMgmt_legal (s.newMgmt 0x4D h) hill rfl).trans (if_neg ?_)
      have hok : s.lockRefused p n = false := by
        rcases hmay with h0 | ⟨hlink, hkey⟩
        · simp [State.lockRefused, hex, h0]
        · simp only [State.lockRefused, hex, hlink, Bool.not_true, Bool.false_or, Bool.and_eq_false_iff]
          cases hconf : s.conf p
          · exact .inr (.inl rfl)
          · exact .inr (.inr (by rw [← Option.not_isSome, hkey hconf]; rfl))
      exact Bool.eq_false_iff.mp hok
    obtain ⟨-, -, hpart, -⟩ := v.completeMgmt_same (s.newMgmt 0x4D h).serial stOk 0 0 0
    refine ⟨_, (s.mgmtRow_now 0x4D h ht rfl).trans (congrArg _ hrun),
      State.mgmt_done (t := v) (pos := s.usb.slotPos) (last := s.usb.lastBorrow) rfl rfl rfl 0 0 0, ?_⟩
    rw [hpart, State.part_updPart_same]
    exact hon

end Sys2Proof.Machine
end

section
/-! The time service and its servo (R586, R589, R590, R593). -/
namespace Sys2Proof.Machine

/-! ### States of the time service -/

/-- The state with its time service in a state st. -/
def State.entered (s : State) (st : BitVec 3) : State :=
  { s with time := { s.time with
    state := st, goodRun := 0, badRun := 0
    everLocked := s.time.everLocked || st == tsLocked
    inc := if st = tsFree then BitVec.ofNat 32 incNom else s.time.inc } }

theorem State.enterTime_eq (s : State) (st : BitVec 3) :
    s.enterTime st = if st == tsHoldover && s.time.state != tsHoldover then (s.entered st).postDev 0x0A 6 0 0 0 else s.entered st := rfl

/-- Only HOLDOVER is reported. -/
theorem State.enterTime_unreported (s : State) (st : BitVec 3) (h : st ≠ tsHoldover) : s.enterTime st = s.entered st := by
  rw [State.enterTime_eq, if_neg (by simp [h])]

theorem State.enterTime_posts (s : State) (st : BitVec 3) : (s.entered st).onlyPosts (s.enterTime st) := by
  rw [State.enterTime_eq]
  split
  · exact State.post_onlyPosts _ _ _ _ _ _ _ _ _
  · exact State.onlyPosts_refl _

theorem State.enterTime_time (s : State) (st : BitVec 3) : (s.enterTime st).time = (s.entered st).time := by
  rw [s.enterTime_posts st]

theorem State.enterTime_cores (s : State) (st : BitVec 3) : (s.enterTime st).cores = s.cores := by
  rw [s.enterTime_posts st]
  rfl

theorem State.enterTime_keepsQuiet (s : State) (st : BitVec 3) : s.keepsQuiet (s.enterTime st) := by
  refine State.keepsQuiet.trans (t := s.entered st) (State.keepsQuiet_of_eq rfl rfl) ?_
  rw [State.enterTime_eq]
  split
  · exact State.post_keepsQuiet _ _ _ _ _ _ _ _ _
  · exact State.keepsQuiet_refl _

/-- What holds of the Dailies of every core's cluster holds of every cluster's. -/
theorem State.quietTraces_of_noTrace {s : State} (h : ∀ c, s.noTrace c) : s.quietTraces := fun c => by
  have hc := h (coreKey c 0)
  rwa [State.noTrace, keyCl_coreKey c 0 (by decide)] at hc

/-! ### Writes of TIME.CTL -/

/-- A source and a parent selected. -/
def State.sourced (s : State) (v : W32) : State :=
  let chg : Bool := (v.extractLsb' 0 2 != s.time.src && v.extractLsb' 0 2 != 0#2) || v.extractLsb' 2 3 != s.time.parent
  { s with time := { s.time with
    src := v.extractLsb' 0 2, parent := v.extractLsb' 2 3, syncT1 := if chg then none else s.time.syncT1 } }

/-- A write of TIME.CTL of a source that is not reserved: the state that it enters. -/
theorem State.timeCtl_eq (s : State) (v : W32) (h : v.extractLsb' 0 2 ≠ 3#2) :
    s.timeCtl v = if v.getLsbD 5 then (s.sourced v).enterTime tsAcquire
      else if v.extractLsb' 0 2 = 0#2 then (s.sourced v).enterTime tsFree
      else if !s.time.everLocked then (s.sourced v).enterTime tsAcquire
      else if (v.extractLsb' 0 2 != s.time.src && v.extractLsb' 0 2 != 0#2) || v.extractLsb' 2 3 != s.time.parent then
        (s.sourced v).enterTime tsHoldover
      else s.sourced v := if_neg h

/-- Settles the clauses of TIME.CTL and HOLDOVER, by the state that the write enters: it alone says whether an event, which may
spill to memory, is posted. -/
theorem timeSource : Claims.TimeSource := by
  unfold Claims.TimeSource
  refine ⟨fun v s hl => ?_, fun s hl => ⟨fun hsrc hst => ⟨_, whenLive_live _ _ hl, ?_⟩, fun hno => ?_⟩⟩
  · intro src par chg kept
    refine ⟨fun hsrc h5 hq => ?_, fun hsrc => ?_, fun hsrc => ?_⟩
    case refine_1 =>
      refine ⟨_, whenLive_live _ _ hl, ?_⟩
      have hrun : s.coverTouch.timeCtl v = if v.getLsbD 5 then (s.coverTouch.sourced v).enterTime tsAcquire
          else if src = 0#2 then (s.coverTouch.sourced v).enterTime tsFree
          else if !s.time.everLocked then (s.coverTouch.sourced v).enterTime tsAcquire
          else if chg then (s.coverTouch.sourced v).enterTime tsHoldover
          else s.coverTouch.sourced v := s.coverTouch.timeCtl_eq v hsrc
      rw [hrun, if_neg (Bool.eq_false_iff.mp h5)]
      by_cases h0 : src = 0#2
      · rw [if_pos h0, State.enterTime_unreported _ _ (by decide), if_pos h0, if_pos h0]
        exact ⟨⟨rfl, rfl, rfl, rfl⟩, rfl, rfl⟩
      · rw [if_neg h0, if_neg h0, if_neg h0]
        by_cases he : s.time.everLocked = false
        · rw [if_pos (by exact congrArg (!·) he), State.enterTime_unreported _ _ (by decide), if_pos he]
          exact ⟨⟨rfl, rfl, rfl, rfl⟩, rfl, rfl⟩
        · rw [if_neg (show ¬ (!s.time.everLocked) = true from fun h => he (by simpa using h)), if_neg he]
          by_cases hc : chg = true
          · rw [if_pos hc, if_pos hc]
            have hquiet : (s.coverTouch.sourced v).quietTraces := State.quietTraces_of_noTrace (hq hc)
            exact ⟨⟨by rw [State.enterTime_time]; rfl, by rw [State.enterTime_time]; rfl, by rw [State.enterTime_time]; rfl,
              ((State.enterTime_keepsQuiet _ _) hquiet).2⟩, by rw [State.enterTime_time]; rfl, by rw [State.enterTime_time]; rfl⟩
          · rw [if_neg hc, if_neg hc]
            exact ⟨⟨rfl, rfl, rfl, rfl⟩, rfl, rfl⟩
    case refine_2 =>
      have hs : (v ||| 0x20#32).extractLsb' 0 2 = src := by
        ext i hi
        have : i = 0 ∨ i = 1 := by omega
        rcases this with rfl | rfl <;> simp [src]
      have hp : (v ||| 0x20#32).extractLsb' 2 3 = par := by
        ext i hi
        have : i = 0 ∨ i = 1 ∨ i = 2 := by omega
        rcases this with rfl | rfl | rfl <;> simp [par]
      have h5 : (v ||| 0x20#32).getLsbD 5 = true := by simp
      refine ⟨_, whenLive_live _ _ hl, ?_⟩
      rw [State.timeCtl_eq _ _ (by rwa [hs]), if_pos h5, State.enterTime_unreported _ _ (by decide)]
      exact ⟨⟨hs, hp, rfl, rfl⟩, rfl, rfl⟩
    case refine_3 =>
      exact ⟨s.coverTouch.csrRejected, (whenLive_live _ _ hl).trans (congrArg _ (if_pos hsrc)), rfl, rfl⟩
  · rw [State.holdover, if_neg (by rintro (h | h); exacts [hsrc h, hst h]), State.enterTime_cores, State.enterTime_time]
    refine ⟨?_, rfl⟩
    rw [State.entered]
    simp [tsHoldover, tsLocked, tsFree]
  · exact (whenLive_live _ _ hl).trans (congrArg _ (if_pos hno))

/-! ### The servo -/

theorem clampI_eq (lo hi x : Int) (h : lo ≤ hi) : clampI lo hi x = max lo (min hi x) := by
  unfold clampI
  split
  · omega
  · split <;> omega

/-- An offset counted changes the state alone, beside the runs. -/
theorem State.countOffset_time (s : State) (th : Int) :
    let good : Bool := decide (th.natAbs ≤ 1024)
    let gr := if good then s.time.goodRun + 1 else 0
    let br := if good then 0 else s.time.badRun + 1
    let t := s.countOffset th
    t = { s with time := t.time } ∧ t.time.slate = s.time.slate ∧ t.time.inc = s.time.inc ∧ t.time.integ = s.time.integ ∧
      t.time.state = if s.time.state = 2#3 then (if 4 ≤ br then 1#3 else s.time.state)
        else if 16 ≤ gr then 2#3 else s.time.state := by
  intro good gr br t
  let u : State := { s with time := { s.time with goodRun := gr, badRun := br } }
  have ht : t = if s.time.state = tsLocked then (if br ≥ 4 then u.enterTime tsTrack else u)
      else if gr ≥ 16 then u.enterTime tsLocked else u := rfl
  rw [u.enterTime_unreported _ (by decide), u.enterTime_unreported _ (by decide)] at ht
  clear_value t
  subst ht
  by_cases h2 : s.time.state = 2#3
  · rw [if_pos (show s.time.state = tsLocked from h2), if_pos h2]
    by_cases hb : 4 ≤ br
    · rw [if_pos hb, if_pos hb]
      exact ⟨rfl, rfl, rfl, rfl, rfl⟩
    · rw [if_neg hb, if_neg hb]
      exact ⟨rfl, rfl, rfl, rfl, rfl⟩
  · rw [if_neg (show ¬ s.time.state = tsLocked from h2), if_neg h2]
    by_cases hg : 16 ≤ gr
    · rw [if_pos hg, if_pos hg]
      exact ⟨rfl, rfl, rfl, rfl, rfl⟩
    · rw [if_neg hg, if_neg hg]
      exact ⟨rfl, rfl, rfl, rfl, rfl⟩

/-- An offset that firmware writes while a device in ACQUIRE, TRACK or LOCKED follows it drives the servo. -/
theorem State.ptpOffset_eq (s : State) (hi : W32) (hsrc : s.time.src = 1#2)
    (hst : s.time.state = 0#3 ∨ s.time.state = 1#3 ∨ s.time.state = 2#3) :
    s.ptpOffset hi = (s.servo (hi ++ s.time.ptpLo).toInt).countOffset (hi ++ s.time.ptpLo).toInt := by
  have hne : s.time.state ≠ tsFree ∧ s.time.state ≠ tsHoldover := by
    rcases hst with h | h | h <;> rw [h] <;> decide
  rw [State.ptpOffset, if_pos hsrc, State.offset, if_neg (by rw [hsrc]; rintro (h | h); exacts [absurd h (by decide), hne.1 h]),
    if_neg hne.2]

/-- Settles the clauses of the servo, by what it does to Slate or the increment and by how an offset is counted. -/
theorem timeServo : Claims.TimeServo := by
  unfold Claims.TimeServo
  intro hi s hl th good gr br next
  refine ⟨fun hsrc hst => ⟨fun h0 hbig => ?_, fun hsmall => ?_⟩, fun hsrc => (whenLive_live _ _ hl).trans (congrArg _ (if_neg hsrc))⟩
  · let u : State := { s with time := { s.time with slate := s.time.slate - BitVec.ofInt 96 (th * (2 ^ 24 : Nat)), integ := 0 } }
    have hu : s.servo th = u := if_pos ⟨h0, hbig⟩
    obtain ⟨hframe, hslate, hinc, hint, hstate⟩ := u.countOffset_time th
    refine ⟨u.countOffset th, (whenLive_live _ _ hl).trans (congrArg _ ?_), hframe, hslate, hinc, hint, hstate⟩
    rw [s.ptpOffset_eq hi hsrc hst]
    exact congrArg (fun t : State => t.countOffset th) hu
  · let lim : Int := s.time.incLimit.toNat
    let integ := clampI (-(2 ^ 47 : Nat)) ((2 ^ 47 : Nat) - 1) (s.time.integ + s.time.ki.toNat * th)
    let inc := clampI 1 ((2 ^ 32 : Nat) - 1) (clampI (incNom - lim) (incNom + lim)
      (incNom - shiftRoundAway (s.time.kp.toNat * th + integ) 8))
    let u : State := { s with time := { s.time with integ := integ, inc := BitVec.ofInt 32 inc } }
    have hu : s.servo th = u := if_neg fun ⟨h0, hbig⟩ => absurd (hsmall h0) (Nat.not_le.mpr hbig)
    obtain ⟨hframe, hslate, hinc, hint, hstate⟩ := u.countOffset_time th
    have hinteg : integ = max (-(2 ^ 47)) (min (2 ^ 47 - 1) (s.time.integ + s.time.ki.toNat * th)) := clampI_eq _ _ _ (by decide)
    refine ⟨u.countOffset th, (whenLive_live _ _ hl).trans (congrArg _ ?_), hframe, hslate, hint.trans hinteg, ?_, hstate⟩
    · rw [s.ptpOffset_eq hi hsrc hst]
      exact congrArg (fun t : State => t.countOffset th) hu
    · rw [hinc, hint]
      refine congrArg (BitVec.ofInt 32) ((clampI_eq _ _ _ (by decide)).trans ?_)
      rw [clampI_eq _ _ _ (by omega)]
      rfl

/-- Settles O56, by the clauses of the source and of the servo. -/
theorem timeService : Obligations.TimeService := ⟨timeSource, timeServo⟩

end Sys2Proof.Machine
end

section
/-! Timestamps: SYNC exchanges, PPS, event messages and samples of Slate (R587, R596 to R603, R889, R908). -/
namespace Sys2Proof.Machine

/-! ### Values of records -/

theorem recN_lt (l : List Byte) (i n : Nat) : recN l i n < 256 ^ n := by
  simpa [recN, sliceB_length] using leVal_lt (sliceB l i n)

/-- Halves are rounded away from zero (R116). -/
theorem rdiv_two (n : Int) : rdiv n 2 = if 0 ≤ n then (n + 1) / 2 else -((1 - n) / 2) := by
  unfold rdiv
  dsimp only
  rw [if_neg (Nat.succ_ne_zero 1)]
  rcases Int.lt_or_le n 0 with h | h
  · rw [if_pos h, if_neg (by omega)]
    omega
  · rw [if_neg (by omega), if_pos h]
    omega

/-! ### Packets of the sideband -/

/-- A packet of the sideband of this device waits at the end of its link's queue. -/
theorem State.enqueue_side (s : State) (l : Nat) (k : Packet) (hk : packetClass k = 0) :
    s.enqueue l 7 k = s.updLink l (fun x => { x with sbq := x.sbq ++ [Claims.side (s.link l) k], sbNum := (s.link l).sbNum + 1 }) := by
  rw [State.enqueue, if_pos hk]
  rfl

theorem packetClass_sync (k : Packet) (h : k.type = 7#4) : packetClass k = 0 := by
  rw [packetClass, h]
  rfl

/-- A packet that arrives for this device on a torus link passes the checks of PR and of its epoch; one of more than type 5 does not
count. -/
theorem State.checked_arrives {s : State} {l : Fin 7} {k : Packet} (h : Claims.arrives s l k 7#4) (f : State → State) :
    s.checked l.val k f = f s := by
  obtain ⟨-, -, h6, hty, hpair, -, hep⟩ := h
  have hcount : ¬ k.type.toNat ≤ 5 := by rw [hty]; decide
  have hpr : (if l.val = 6 then !k.pair || k.src != s.dev.node else k.pair) = false := by rw [if_neg (by omega), hpair]
  unfold State.checked
  simp only [hcount, if_false, hpr, hep]
  rfl

/-- The answer of this device to a SYNC request received at t2, which leaves at t3 (R600). -/
def State.syncAnswer (s : State) (l : Nat) (k : Packet) (t2 t3 : BitVec 96) : Packet := { Packet.init with
  type := 7#4, sub := 1#5, dst := (s.link l).peer, src := s.dev.node, epoch := s.dev.epoch, tid := k.tid, len := 48#9
  dl := s.dateline 7 l false
  data := leBytes 12 (recN k.data 0 12) ++ leBytes 12 t2.toNat ++ leBytes 12 t3.toNat ++ leBytes 12 (b2n (s.time.state == 0#3)) }

theorem State.syncPacket_answer (s : State) (l : Nat) (k : Packet) (t2 t3 : BitVec 96) (h6 : l < 6) :
    s.syncPacket l 1 k.tid (BitVec.ofNat 96 (recN k.data 0 12)) t2 t3 (s.time.state == tsAcquire) = s.syncAnswer l k t2 t3 := by
  have hn : recN k.data 0 12 % 2 ^ 96 = recN k.data 0 12 := Nat.mod_eq_of_lt (recN_lt k.data 0 12)
  rw [State.syncPacket, BitVec.toNat_ofNat, hn, decide_eq_true h6, Bool.true_and,
    show (l == 6) = false from beq_false_of_ne (by omega)]
  rfl

/-- A SYNC packet begins with T1. -/
theorem State.syncPacket_first (s : State) (l sub : Nat) (tid : BitVec 16) (t1 t2 t3 : BitVec 96) (b : Bool) :
    (s.syncPacket l sub tid t1 t2 t3 b).data.take 12 = leBytes 12 t1.toNat := by
  simp only [State.syncPacket, State.ownPacket, List.append_assoc]
  exact List.take_left' (leBytes_length 12 _)

/-- A SYNC request that arrives on a link is answered at once (R600). -/
theorem State.syncReq_answered (l : Fin 7) (k : Packet) (s : State) (ha : Claims.arrives s l k 7#4) (t2 : BitVec 96) :
    s.syncReq l.val k t2 = State.updLink { s with time := { s.time with lastStamp := t2 } } l.val (fun x => { x with
      sbq := x.sbq ++ [Claims.side (s.link l.val) (s.syncAnswer l.val k t2 (s.linkStamp l.val true))]
      sbNum := (s.link l.val).sbNum + 1 }) := by
  rw [State.syncReq, State.checked_arrives ha]
  dsimp only
  generalize s.linkStamp l.val true = t3
  let u : State := { s with time := { s.time with lastStamp := t2 } }
  exact (congrArg (u.enqueue l.val 7) (u.syncPacket_answer l.val k t2 t3 ha.2.2.1)).trans
    (u.enqueue_side l.val _ (packetClass_sync _ rfl))

/-- What a SYNC response received at t4 gives (R602, R603). -/
theorem State.syncRsp_arrives (l : Fin 7) (k : Packet) (s : State) (ha : Claims.arrives s l k 7#4) (t4 : BitVec 96) :
    let t (i : Nat) : BitVec 96 := BitVec.ofNat 96 (recN k.data (12 * i) 12)
    let d := rdiv ((tsUnits t4 - tsUnits (t 0)) - (tsUnits (t 2) - tsUnits (t 1))) 2
    let h := rdiv ((tsUnits (t 0) - tsUnits (t 1)) + (tsUnits t4 - tsUnits (t 2))) 2
    s.syncRsp l.val k t4 =
      if s.time.syncT1.isNone ∨ s.time.src ≠ 2#2 ∨ s.parentLink ≠ some l.val ∨ k.tid ≠ s.time.syncTid then
        { s with time := { s.time with lastStamp := t4 } }
      else if recN k.data 36 1 % 2 = 1 then { s with time := { s.time with lastStamp := t4, syncT1 := none } }
      else State.offset { s with time := { s.time with
        lastStamp := t4, syncT1 := none, ldelay := s.time.ldelay.put l.val (BitVec.ofInt 32 d) } }
          (h + (s.time.asym.get 0#24 l.val).toInt) := by
  rw [State.syncRsp, State.checked_arrives ha]
  rfl

theorem State.stamp_tx (s : State) (lat : BitVec 24) :
    s.stamp lat true = BitVec.ofNat 96 (s.time.slate.toNat / 2 ^ 24 * 2 ^ 24 + lat.toNat * 2 ^ 24) := by
  rw [State.stamp, if_pos rfl]

theorem State.stamp_rx (s : State) (lat : BitVec 24) :
    s.stamp lat false = BitVec.ofNat 96 (s.time.slate.toNat / 2 ^ 24 * 2 ^ 24 + 2 ^ 96 - lat.toNat * 2 ^ 24) := by
  rw [State.stamp, if_neg Bool.false_ne_true]

/-- The state after an event message with a stamp: the register of the stamp, that of a Pdelay_Req, and a frame that leaves. -/
def State.stamped (s : State) (tx one : Bool) (f : List Byte) (t : BitVec 96) : State :=
  let req : Bool := match ptpAt f with
    | some (b, _) => recN f b 1 % 16 == 2
    | none => false
  { s with time := { s.time with
    lastStamp := t
    pdelayT2 := if !tx && req then t else s.time.pdelayT2
    ethFrame := if tx then (if one then oneStep f t s.time.pdelayT2 else f) else s.time.ethFrame } }

/-- An event message is stamped as it leaves or arrives (R596, R597). -/
theorem ptpEventMessage_stamps (tx one : Bool) (f : List Byte) (s : State) (hl : s.live = true) (hg : s.gaf.state.toNat ≤ 1)
    (hyes : ptpEvent f = true) :
    exec (.ptpEventMessage tx one f) s =
      .next (s.stamped tx one f (if tx then s.stamp s.time.ethTx true else s.stamp s.time.ethRx false)) := by
  have hon : ¬ (!s.ethOn) = true := by simp [State.ethOn, hg]
  have hev : ¬ (!ptpEvent f) = true := by simp [hyes]
  rw [show exec (.ptpEventMessage tx one f) s = execPtpEventMessage tx one f s from rfl]
  unfold execPtpEventMessage
  rw [if_neg hon, if_neg hev, whenLive_live _ _ hl]
  dsimp only
  generalize (if tx then s.stamp s.time.ethTx true else s.stamp s.time.ethRx false) = t
  rfl

theorem State.stamped_stamp (s : State) (tx one : Bool) (f : List Byte) (t : BitVec 96) :
    s.stamped tx one f t = { s with time := (s.stamped tx one f t).time } ∧ (s.stamped tx one f t).time.lastStamp = t ∧
      (s.stamped false one f t).time.ethFrame = s.time.ethFrame ∧ (s.stamped true false f t).time.ethFrame = f :=
  ⟨rfl, rfl, rfl, rfl⟩

/-- Settles O20, clause by clause. -/
theorem timestamps : Obligations.Timestamps := by
  unfold Obligations.Timestamps
  refine ⟨fun l k s ha hk => ?_, fun l k s t0 ha hk ht0 hsrc hpar => ?_, fun s l hl hsrc hpar hup => ?_, fun s hl => ⟨fun hp hn => ?_, fun hp hn => ?_⟩,
    fun tx one f s hl hg hno => ?_, fun tx one f s hl hg hyes => ?_, fun r s hl hr => ?_⟩
  case refine_1 =>
    intro x
    have hrun : exec (.syncRequest l k) s = .next (s.syncReq l.val k (s.linkStamp l.val false)) :=
      (if_neg (by simp [ha.2.2.2.1, hk])).trans ((whenLive_live _ _ ha.1).trans (congrArg _ (if_pos ha.2.1)))
    rw [State.syncReq_answered l k s ha] at hrun
    exact ⟨_, hrun, rfl, rfl, State.link_updLink_same _ _ _⟩
  case refine_2 =>
    have hex : exec (.syncResponse l k) s = .next (s.syncRsp l.val k (s.linkStamp l.val false)) :=
      (if_neg (by simp [ha.2.2.2.1, hk])).trans ((whenLive_live _ _ ha.1).trans (congrArg _ (if_pos ha.2.1)))
    rw [hex]
    generalize s.linkStamp l.val false = t4
    have hrun := State.syncRsp_arrives l k s ha t4
    rw [hrun]
    refine ⟨fun hne => congrArg _ (if_pos (.inr (.inr (.inr hne)))), fun heq hnr => ?_, fun heq hr => ?_⟩
    · rw [if_neg (by simp [ht0, hsrc, hpar, heq]), if_pos hnr]
    · rw [if_neg (by simp [ht0, hsrc, hpar, heq]), if_neg (by omega), rdiv_two, rdiv_two]
  case refine_3 =>
    let u : State := { s with time := { s.time with syncT1 := some (s.linkStamp l true), syncTid := s.time.syncTid + 1#16 } }
    let k := s.syncPacket l 0 (s.time.syncTid + 1#16) (s.linkStamp l true) 0#96 0#96 false
    have hpar' : State.parentLink { s with time := { s.time with syncT1 := none } } = some l := hpar
    have hrun : exec .syncInterval s = .next (u.enqueue l 7 k) := by
      refine (whenLive_live _ _ hl).trans (congrArg _ ((if_neg (not_not.mpr hsrc)).trans ?_))
      dsimp only
      rw [hpar']
      exact if_neg (show ¬ (!s.linkUp l) = true by rw [hup]; decide)
    rw [u.enqueue_side l k (packetClass_sync k rfl)] at hrun
    refine ⟨_, hrun, rfl, rfl, k, ?_, rfl, rfl, rfl, rfl, ?_⟩
    · rw [State.link_updLink_same]
      rfl
    · exact State.syncPacket_first s l 0 _ _ _ _ _
  case refine_4 => exact (whenLive_live _ _ hl).trans (congrArg _ (if_neg (by rintro (h | h); exacts [by simp [hp] at h, hn h])))
  case refine_5 => exact (whenLive_live _ _ hl).trans (congrArg _ (if_pos (by simp [hp]; omega)))
  case refine_6 =>
    have hon : (!s.ethOn) = false := by simp [State.ethOn, hg]
    exact (whenLive_live _ _ hl).trans (congrArg _ ((if_neg (by rw [hon]; decide)).trans (if_pos (by rw [hno]; rfl))))
  case refine_7 =>
    intro st
    have hrun := ptpEventMessage_stamps tx one f s hl hg hyes
    generalize hst : (if tx then s.stamp s.time.ethTx true else s.stamp s.time.ethRx false) = x at hrun
    obtain ⟨hframe, hlast, -, -⟩ := s.stamped_stamp tx one f x
    refine ⟨_, hrun, hframe, fun htx => ⟨?_, fun hone => ?_⟩, fun htx => ⟨?_, ?_⟩⟩
    · rw [hlast, ← hst, if_pos htx, State.stamp_tx]
    · rw [htx, hone, (s.stamped_stamp true false f x).2.2.2]
    · rw [hlast, ← hst, htx, if_neg Bool.false_ne_true, State.stamp_rx]
    · rw [htx, (s.stamped_stamp false one f x).2.2.1]
  case refine_8 =>
    cases r with
    | clCtl c => exact absurd rfl (hr c)
    | devCtl => exact whenLive_live _ _ hl
    | mgmt => exact whenLive_live _ _ hl
    | walker => exact whenLive_live _ _ hl

end Sys2Proof.Machine
end

section
/-! Cores and cluster controllers that fail, and their spares (R785 to R805, R834). -/
namespace Sys2Proof.Machine

/-! ### Cores whose threads are all free -/

/-- Every core but one stands. -/
def State.othersKept (s t : State) (k : Nat) : Prop := ∀ j, j ≠ k → t.core j = s.core j

theorem State.othersKept.trans {s t u : State} {k : Nat} (h : s.othersKept t k) (g : t.othersKept u k) : s.othersKept u k :=
  fun j hj => (g j hj).trans (h j hj)

theorem State.updCore_othersKept (s : State) (k : Nat) (f : Core → Core) : s.othersKept (s.updCore k f) k :=
  fun _ hj => s.core_updCore_ne k _ f hj

theorem State.keepEntries_othersKept (s : State) (k : Nat) (f : QEntry → Bool) : s.othersKept (s.keepEntries k f) k := by
  have hu := s.updCore_othersKept k (fun c => { c with queue := c.queue.filter f })
  unfold State.keepEntries
  extract_lets u now
  split
  · exact State.othersKept.trans (t := u) hu (u.updCore_othersKept k _)
  · exact hu

theorem State.finishThread_othersKept (s : State) (k t : Nat) : s.othersKept (s.finishThread k t) k := by
  intro j hj
  have h := (s.freeSlots_onlyCore k t).2 j hj
  unfold State.finishThread
  generalize s.freeSlots k t = u at h ⊢
  exact (State.core_updCore_ne (u.orderAll k t) k j _ hj).trans h

theorem State.endThr_othersKept (s : State) (k t : Nat) : s.othersKept (s.endThr k t) k := by
  unfold State.endThr
  split
  · exact fun _ _ => rfl
  · extract_lets u v
    have hv : s.othersKept v k := ((s.keepEntries_othersKept k _).trans (t := u) (u.freeSlots_onlyCore k t).2).trans
      (State.updCore_othersKept _ k _)
    have hw : v.othersKept (if v.hasDma k t then v else v.finishThread k t) k := by
      split
      · exact fun _ _ => rfl
      · exact v.finishThread_othersKept k t
    exact (hv.trans hw).trans (State.updCore_othersKept _ k _)

/-- Ending the threads of any core leaves a core that has none. -/
theorem State.endThreads_core (s : State) (d j : Nat) (h : (s.core j).threads = []) : (s.endThreads d).core j = s.core j := by
  by_cases hj : j = d
  · subst hj
    rw [State.endThreads, h]
    rfl
  · exact List.foldlRecOn (motive := fun t : State => t.core j = s.core j) _ _ rfl fun t ht x _ =>
      (t.endThr_othersKept d x j hj).trans ht

/-- A step that is stopped leaves a core without threads. -/
theorem State.stopJob_core (s : State) (p n j : Nat) (lost : Bool) (h : (s.core j).threads = []) :
    (s.stopJob p n lost).core j = s.core j :=
  List.foldlRecOn (motive := fun t : State => t.core j = s.core j) (s.jobCores p n) (fun t k => t.endThreads k) rfl fun t ht x _ =>
    (t.endThreads_core x j (by rw [ht, h])).trans ht

/-- A core on which no Reel holds slots loses none. -/
theorem State.loseReels_none {s : State} {p k : Nat} (h : ∀ n, (s.reel p n).slots = [] ∨ (s.reel p n).core ≠ k) :
    s.loseReels p k = s :=
  List.foldlRecOn (motive := fun t : State => t = s) _ _ rfl fun t ht i _ => by
    subst ht
    refine if_pos ?_
    rcases h i with h0 | h0
    · simp [h0]
    · simp [h0]

/-! ### The spare takes over -/

/-- Core k stands as reset left it, and core k' holds the work given and no thread. -/
structure State.tookOver (t : State) (k k' : Nat) (q : List Chunk) (cnt : SMap W64) : Prop where
  gone : t.core k = Core.init
  threads : (t.core k').threads = []
  chunks : (t.core k').chunkq = q
  counts : (t.core k').cnt = cnt

theorem State.tookOver.core {t u : State} {k k' : Nat} {q : List Chunk} {cnt : SMap W64} (h : t.tookOver k k' q cnt)
    (hk : u.core k = t.core k) (hk' : u.core k' = t.core k') : u.tookOver k k' q cnt := by
  obtain ⟨h1, h2, h3, h4⟩ := h
  rw [← hk] at h1
  rw [← hk'] at h2 h3 h4
  exact ⟨h1, h2, h3, h4⟩

theorem State.tookOver.updSlot {t : State} {k k' : Nat} {q : List Chunk} {cnt : SMap W64} (h : t.tookOver k k' q cnt) (hne : k ≠ k')
    (n : Nat) (f : Slot → Slot) : (t.updSlot k' n f).tookOver k k' q cnt := by
  obtain ⟨h1, h2, h3, h4⟩ := h
  refine ⟨(t.core_updCore_ne k' k _ hne).trans h1, ?_, ?_, ?_⟩
  · rw [State.updSlot, State.core_updCore_same]
    exact h2
  · rw [State.updSlot, State.core_updCore_same]
    exact h3
  · rw [State.updSlot, State.core_updCore_same]
    exact h4

theorem State.tookOver.moveReels {t : State} {k k' : Nat} {q : List Chunk} {cnt : SMap W64} (h : t.tookOver k k' q cnt)
    (hne : k ≠ k') (p : Nat) : (t.moveReels p k k').tookOver k k' q cnt :=
  List.foldlRecOn (motive := fun t : State => t.tookOver k k' q cnt) _ _ h fun t ht i _ => by
    split
    · have hu : ((t.reel p i).slots.foldl (fun s n => s.updSlot k' n (fun x => { x with reel := some i, owner := none })) t).tookOver
          k k' q cnt :=
        List.foldlRecOn (motive := fun t : State => t.tookOver k k' q cnt) _ _ ht fun u hu n _ => hu.updSlot hne n _
      exact hu.core rfl rfl
    · exact ht

theorem State.tookOver.stopMembers {t : State} {k k' : Nat} {q : List Chunk} {cnt : SMap W64} (h : t.tookOver k k' q cnt)
    (hne : k ≠ k') (p : Nat) (old : Core) (jobs : List Nat) : (t.stopMembers p k k' false old jobs).tookOver k k' q cnt :=
  List.foldlRecOn (motive := fun t : State => t.tookOver k k' q cnt) jobs _ (h.moveReels hne p) fun t ht n _ => by
    split
    · exact ht
    · exact ht.core (t.stopJob_core p n k _ (by rw [ht.gone]; rfl)) (t.stopJob_core p n k' _ ht.threads)

theorem State.sparedBy_tookOver (s : State) (k j sp : Nat) (old : Core) (hne : k ≠ coreKey (keyCl k) sp) :
    (s.sparedBy k j sp false old).tookOver k (coreKey (keyCl k) sp) (old.chunkq.map (fun x => { x with running := false })) old.cnt := by
  have hk : (s.sparedBy k j sp false old).core k = Core.init := by
    simp only [State.sparedBy, State.core, SMap.get_put_same]
  have hk' : (s.sparedBy k j sp false old).core (coreKey (keyCl k) sp) = { Core.init with
      chunkq := (old.chunkq.filter (fun (x : Chunk) => !(false && x.running))).map Chunk.again, cnt := old.cnt, full := old.full
      bp := old.bp, job := old.job, serial := old.serial } := by
    simp only [State.sparedBy, State.core, SMap.get_put_ne _ _ _ _ _ hne.symm, SMap.get_put_same]
  refine ⟨hk, by rw [hk']; rfl, ?_, by rw [hk']⟩
  rw [hk']
  exact congrArg (List.map Chunk.again) (List.filter_eq_self.mpr fun _ _ => rfl)

/-! ### The declaration of a core -/

/-- The cluster of a core fenced while no operation of its engine is under way. -/
theorem State.fenced_cl (s : State) (k : Nat) (hd : (s.core k).dmaq = []) :
    let f := keyCore k
    let e := nextEpoch ((s.cl (keyCl k)).pepoch.get 0#16 f)
    (s.fenced k).cores = s.cores ∧ (s.fenced k).parts = s.parts ∧ (s.fenced k).dev = s.dev ∧
      ((s.fenced k).cl (keyCl k)).pepoch.get 0#16 f = e ∧
      ((s.fenced k).cl (keyCl k)).pstate.get 0#2 f = (if e = 0xFFFF#16 then 3#2 else 2#2) := by
  intro f e
  have hab : s.abandonDma (s.partOf k) k = s := by rw [State.abandonDma, hd]; rfl
  rw [State.fenced, hab]
  refine ⟨rfl, rfl, rfl, ?_, ?_⟩
  · rw [State.cl_updCl_same]
    exact SMap.get_put_same _ _ _ _
  · rw [State.cl_updCl_same]
    exact SMap.get_put_same _ _ _ _

/-- Settles the clauses of cores that fail: a declaration that waits, a spare that takes over, and a core that leaves the map. -/
theorem coresFail : Claims.CoresFail := by
  unfold Claims.CoresFail
  intro c s i j k cl f e gone hl hi hfen hlog hdma
  let kind := if i = .coreHang c then 0 else 1
  have hrun : exec i s = .next (s.declareCore k kind) := by
    rcases hi with ⟨rfl, hw⟩ | ⟨rfl, hp⟩
    · refine (whenLive_live _ _ hl).trans (congrArg _ ((if_pos hw).trans ?_))
      rw [show kind = 0 from if_pos rfl]
    · refine (whenLive_live _ _ hl).trans (congrArg _ ((if_pos hp).trans ?_))
      rw [show kind = 1 from if_neg nofun]
  have hfree : s.declareCore k kind = if (s.core k).switching.isSome then
      s.updCl cl (fun x => { x with declPend := x.declPend ++ [(f, kind)] }) else s.fenceCore k kind :=
    if_neg (Bool.eq_false_iff.mp hfen)
  rw [hrun, hfree]
  obtain ⟨hcores, hparts, hdev, hepoch, hstate⟩ := s.fenced_cl k hdma
  refine ⟨fun hsw => ?waits, fun sp hsw hrec hspare hne => ?spare, fun hsw hspare hq hjobs hreels => ?lost⟩
  case waits =>
    rw [if_pos hsw]
    exact ⟨_, rfl, rfl, rfl, State.cl_updCl_same _ _ _⟩
  case spare =>
    have hkk : k ≠ coreKey cl sp := fun h => hne (by
      have h16 : k = 16 * cl + sp := h
      have hf : f = k % 16 := rfl
      have hcl : cl = k / 16 := rfl
      omega)
    rw [if_neg (by rw [hsw]; exact Bool.false_ne_true), State.fenceCore_eq]
    dsimp only
    rw [hlog, hspare, hrec]
    dsimp only
    generalize s.fenced k = v at hepoch hstate ⊢
    let u := v.sparedBy k j sp false (s.core k)
    have hu := v.sparedBy_tookOver k j sp (s.core k) hkk
    have hcl : u.cl cl = { v.cl cl with
        coremap := (v.cl cl).coremap.put j (BitVec.ofNat 4 sp), pstate := (v.cl cl).pstate.put sp 0#2 } :=
      State.cl_updCl_same v cl (fun x => { x with coremap := x.coremap.put j (BitVec.ofNat 4 sp), pstate := x.pstate.put sp 0#2 })
    have hmap {t : State} (h1 : (t.cl cl).pepoch = (u.cl cl).pepoch) (h2 : (t.cl cl).pstate = (u.cl cl).pstate)
        (h3 : (t.cl cl).coremap = (u.cl cl).coremap) :
        gone t ∧ (t.cl cl).coremap.get 0#4 j = BitVec.ofNat 4 sp ∧ (t.cl cl).pstate.get 0#2 sp = 0#2 := by
      rw [hcl] at h1 h2 h3
      refine ⟨⟨?_, ?_⟩, ?_, ?_⟩
      · rw [h1]
        exact hepoch
      · rw [h2]
        exact (SMap.get_put_ne _ _ _ _ _ (Ne.symm hne)).trans hstate
      · rw [h3, SMap.get_put_same]
      · rw [h2, SMap.get_put_same]
    split
    · have hp := u.postUnit_onlyPosts 0x03 1 cl (8 * ((u.logCl (u.partOf k) cl).getD 0) + j) (9 * cl + f) kind 1 f
        ((u.cl cl).pepoch.get 0#16 f).toNat 0 0
      have hc := State.cl_congr hp.clusters cl
      obtain ⟨hg, hm, hs⟩ := hmap (t := u.postCore k j kind 1 0 0) (congrArg Cluster.pepoch hc) (congrArg Cluster.pstate hc)
        (congrArg Cluster.coremap hc)
      have hcore : (u.postCore k j kind 1 0 0).cores = u.cores := by
        rw [State.postCore, hp]
      have ht := hu.core (State.core_congr hcore k) (State.core_congr hcore _)
      exact ⟨_, rfl, hg, hm, hs, ht.gone, ht.chunks, by rw [ht.counts]⟩
    · have hz := hu.stopMembers hkk (s.partOf k) (s.core k) (v.fencedJobs (s.partOf k) (keyCl k) j)
      have hw := u.stopMembers_work (s.partOf k) k (coreKey cl sp) false (s.core k) (v.fencedJobs (s.partOf k) (keyCl k) j)
      have hc := State.cl_congr hw.clusters cl
      change State.tookOver (u.stopMembers _ _ _ _ _ _) _ _ _ _ at hz
      change (u.stopMembers (s.partOf k) k (coreKey cl sp) false (s.core k) (v.fencedJobs (s.partOf k) (keyCl k) j)).tookOver _ _ _ _ at hz
      generalize u.stopMembers (s.partOf k) k (coreKey cl sp) false (s.core k) (v.fencedJobs (s.partOf k) (keyCl k) j) = z at hz hc
      have hc' (x : Option (Nat × Nat × Nat × Nat)) := State.cl_updCl_same z cl (fun y => { y with spareBusy := x })
      refine ⟨_, rfl, ?_⟩
      obtain ⟨hg, hm, hs⟩ := hmap (t := z.updCl cl (fun x => { x with
          spareBusy := some (f, j, kind, z.ns - if kind = 0 then (z.cl cl).wdog.toNat * 1000 else 0) }))
        (by rw [hc', hc]) (by rw [hc', hc]) (by rw [hc', hc])
      exact ⟨hg, hm, hs, hz.gone, hz.chunks, congrArg (fun m : SMap W64 => m.get 0#64 0x26) hz.counts⟩
  case lost =>
    rw [if_neg (by rw [hsw]; exact Bool.false_ne_true), State.fenceCore_eq]
    dsimp only
    rw [hlog, hspare]
    dsimp only
    generalize s.fenced k = v at hcores hparts hdev hepoch hstate ⊢
    have hnone : v.fencedJobs (s.partOf k) (keyCl k) j = [] := by
      rw [State.fencedJobs, show v.logCl (s.partOf k) (keyCl k) = s.logCl (s.partOf k) (keyCl k) by
        rw [State.logCl, State.part_congr hparts, State.logCl]]
      cases hlc : s.logCl (s.partOf k) (keyCl k) with
      | none => rfl
      | some l =>
        have hon : v.jobsOn (s.partOf k) l j = s.jobsOn (s.partOf k) l j := by
          unfold State.jobsOn
          rw [State.part_congr hparts]
        exact hon.trans (hjobs l hlc)
    rw [hnone]
    let w := (v.updCl cl (fun x => { x with coremap := x.coremap.put j 15#4 })).updCore k (fun x => { Core.init with serial := x.serial })
    have hlost : v.lostCore (s.partOf k) k j (s.core k) [] = w := by
      rw [State.lostCore, hq]
      dsimp only [List.foldl_nil]
      rw [ite_self]
      split
      · rfl
      · refine State.loseReels_none (s := w) fun n => ?_
        have hr : w.reel (s.partOf k) n = s.reel (s.partOf k) n := congrArg (fun x : Part => x.reels.get ReelDyn.init n) (State.part_congr hparts _)
        rw [hr]
        exact hreels n
    rw [hlost]
    have hp := w.postUnit_onlyPosts 0x03 1 cl (8 * ((w.logCl (w.partOf k) cl).getD 0) + j) (9 * cl + f) kind 4 f
      ((w.cl cl).pepoch.get 0#16 f).toNat 0 0
    have hc := (State.cl_congr hp.clusters cl).trans (State.cl_updCl_same v cl (fun x => { x with coremap := x.coremap.put j 15#4 }))
    have hcore : (w.postCore k j kind 4 0 0).cores = w.cores := by
      rw [State.postCore, hp]
    refine ⟨_, rfl, ⟨(congrArg (fun x : Cluster => x.pepoch.get 0#16 f) hc).trans hepoch,
      (congrArg (fun x : Cluster => x.pstate.get 0#2 f) hc).trans hstate⟩,
      (congrArg (fun x : Cluster => x.coremap.get 0#4 j) hc).trans (SMap.get_put_same _ _ _ _), ?_⟩
    refine (State.core_congr hcore k).trans ((State.core_updCore_same _ _ _).trans ?_)
    exact congrArg (fun x : Core => { Core.init with serial := x.serial }) (State.core_congr hcores k)

/-! ### Controllers -/

theorem execAlive_written (c : Fin 8) (s : State) (hl : s.live = true) (hp : (s.cl c.val).powered = true)
    (hf : (s.cl c.val).ctl.fenced = false) (hs : (s.cl c.val).ctl.stopped = false) (hh : (s.cl c.val).ctl.halted = false) :
    exec (.alive c) s = .next (s.updCl c.val (fun y => { y with aliveNs := s.nsW })) :=
  (whenLive_live _ _ hl).trans (congrArg _ (if_neg (by simp [hp, hf, hs, hh])))

/-- The boxes after the requests of controller c leave them. -/
def State.unposted (s : State) (c : Nat) : State :=
  (upTo 8).foldl (fun s p => s.updPart p (fun x => { x with mbox := x.mbox.filter (fun m => m.1 != c) })) s

theorem State.unposted_frame (s : State) (c : Nat) : s.unposted c = { s with parts := (s.unposted c).parts } :=
  List.foldlRecOn (motive := fun t : State => t = { s with parts := t.parts }) _ _ rfl fun t ht p _ => by rw [ht]; rfl

theorem State.unposted_mbox (s : State) (c p : Nat) (h : p < 8) :
    ((s.unposted c).part p).mbox = (s.part p).mbox.filter (fun m => m.1 != c) := by
  obtain ⟨u, hu, ht⟩ := (State.foldl_range_local State.part
    (fun s p => s.updPart p (fun x => { x with mbox := x.mbox.filter (fun m => m.1 != c) }))
    (fun t n d hd => State.part_updPart_ne t n d _ hd) s p 8).2 h
  rw [State.part_updPart_same, hu] at ht
  exact congrArg Part.mbox ht

theorem State.postUnit_keepsQuiet (s : State) (code source c unitLog unitPhys kind action phys epoch a b : Nat) :
    s.keepsQuiet (s.postUnit code source c unitLog unitPhys kind action phys epoch a b) := by
  unfold State.postUnit
  extract_lets u
  have hu : s.keepsQuiet u := by
    unfold u
    split
    · exact s.post_keepsQuiet _ _ _ _ _ _ _ _
    · exact s.keepsQuiet_refl
  exact hu.trans (u.post_keepsQuiet _ _ _ _ _ _ _ _)

/-- Requests dropped are counted and reported. -/
structure State.drops (s t : State) (c n : Nat) : Prop where
  cl : t.cl c = { s.cl c with
    fenceDrop := BitVec.ofNat 32 (min ((s.cl c).fenceDrop.toNat + n) 0xFFFFFFFF), fencePost := (t.cl c).fencePost }
  parts : t.parts = s.parts
  cores : t.cores = s.cores
  quiet : s.keepsQuiet t

theorem State.drops.posts {s t u : State} {c n : Nat} (h : s.drops t c n) (g : t.onlyPosts u) (k : t.keepsQuiet u) : s.drops u c n := by
  have hc := State.cl_congr g.clusters c
  refine ⟨by rw [hc]; exact h.cl, ?_, ?_, h.quiet.trans k⟩
  · rw [g]
    exact h.parts
  · rw [g]
    exact h.cores

theorem State.dropStale_drops (s : State) (c sender log n : Nat) : s.drops (s.dropStale c sender log n) c n := by
  unfold State.dropStale
  split
  · next h0 =>
    subst h0
    refine ⟨?_, rfl, rfl, s.keepsQuiet_refl⟩
    rw [Nat.add_zero, Nat.min_eq_left (Nat.le_of_lt_succ (s.cl c).fenceDrop.isLt), BitVec.ofNat_toNat, BitVec.setWidth_eq]
  · extract_lets u due v drops l
    have hu : s.drops u c n := ⟨by rw [State.cl_updCl_same], rfl, rfl, State.keepsQuiet_of_eq rfl rfl⟩
    have hv : s.drops v c n := by
      have hcl : v.cl c = { u.cl c with fencePost := (u.cl c).fencePost.put sender u.nsW } := State.cl_updCl_same _ _ _
      refine ⟨?_, rfl, rfl, State.keepsQuiet_of_eq rfl rfl⟩
      rw [hcl, hu.cl]
    split
    · exact hu
    · split
      · exact hv.posts (v.postUnit_onlyPosts _ _ _ _ _ _ _ _ _ _ _) (v.postUnit_keepsQuiet _ _ _ _ _ _ _ _ _ _ _)
      · exact hv.posts (v.postUnit_onlyPosts _ _ _ _ _ _ _ _ _ _ _) (v.postUnit_keepsQuiet _ _ _ _ _ _ _ _ _ _ _)

/-- A controller declared failed is fenced under its next epoch, and its requests leave the boxes and are counted (R801, R803). -/
theorem State.ctlFail_drops (s : State) (c kind : Nat) :
    let n := ((upTo 8).flatMap (fun p => (s.part p).mbox.filter (fun m => m.1 == c))).length
    let u := s.updCl c (fun x => { x with
      ctlEpoch := nextEpoch x.ctlEpoch, ctl := { x.ctl with fenced := true, mboxWait := none, load := none, wfe := none } })
    (u.unposted c).drops (s.ctlFail c kind) c n := by
  intro n u
  have hn : (upTo 8).foldl (fun n p => n + ((u.part p).mbox.filter (fun m => m.1 == c)).length) 0 = n := by
    have hsum (f : Nat → List (Nat × List (BitVec 8))) : (upTo 8).foldl (fun n p => n + (f p).length) 0 = ((upTo 8).flatMap f).length := by
      simp [upTo, List.range_succ, Nat.add_assoc]
    exact hsum fun p => (u.part p).mbox.filter (fun m => m.1 == c)
  have hd := (u.unposted c).dropStale_drops c 15 0 n
  have hrun : s.ctlFail c kind = ((u.unposted c).dropStale c 15 0 n).postUnit 0x03 2 c
      ((((u.unposted c).dropStale c 15 0 n).logCl ((((u.unposted c).dropStale c 15 0 n).ownerCl c).getD 8) c).getD 0) c kind 2 0
      (nextEpoch (s.cl c).ctlEpoch).toNat 0 0 := by
    rw [← hn]
    rfl
  rw [hrun]
  exact hd.posts (State.postUnit_onlyPosts _ _ _ _ _ _ _ _ _ _ _ _) (State.postUnit_keepsQuiet _ _ _ _ _ _ _ _ _ _ _ _)

theorem execResumeCl_cl (v : Byte) (s : State) (c : Nat) (hc : c < 8) :
    let f (s : State) (c : Nat) : State := if v.getLsbD c then s.updCtl (some c) (fun t => { t with halted := false }) else s
    ((upTo 8).foldl f s).cl c = { s.cl c with ctl := { (s.cl c).ctl with halted := (s.cl c).ctl.halted && !v.getLsbD c } } := by
  intro f
  obtain ⟨u, hu, ht⟩ := (State.foldl_range_local State.cl f (fun t n d hd => by
    simp only [f]
    split
    · exact State.cl_updCl_ne t n d _ hd
    · rfl) s c 8).2 hc
  refine ht.trans ?_
  simp only [f]
  split
  · next h =>
    refine (State.cl_updCl_same u c _).trans ?_
    rw [hu, h, Bool.not_true, Bool.and_false]
  · next h =>
    rw [hu, Bool.eq_false_iff.mpr h, Bool.not_false, Bool.and_true]

/-- Settles the clauses of controllers: their liveness, their silence, their restart, and RESUME_CL. -/
theorem controllersFail : Claims.ControllersFail := by
  unfold Claims.ControllersFail
  refine ⟨fun c s => ?_, fun v s hl => ⟨_, whenLive_live _ _ hl, ?_, fun c hc => execResumeCl_cl v s c hc⟩⟩
  · intro x hl hp
    refine ⟨fun hf hs hh => ?alive, fun hf hh hlate hq => ?silent, fun hf he => ?restart⟩
    case alive =>
      exact ⟨_, execAlive_written c s hl hp hf hs hh, rfl, State.cl_updCl_same _ _ _, fun d hd => State.cl_updCl_ne _ _ _ _ hd⟩
    case silent =>
      have hd := s.ctlFail_drops c.val 4
      dsimp only at hd
      have hrun : exec (.ctlSilence c) s = .next (s.ctlFail c.val 4) :=
        (whenLive_live _ _ hl).trans (congrArg _ (if_neg (by
          have hlt : decide (s.ns < (s.cl c.val).aliveNs.toNat + 200000) = false := decide_eq_false (Nat.not_lt.mpr hlate)
          rw [hlt]
          simp [show (s.cl c.val).powered = true from hp, show (s.cl c.val).ctl.fenced = false from hf,
            show (s.cl c.val).ctl.halted = false from hh])))
      let u := s.updCl c.val (fun x => { x with
        ctlEpoch := nextEpoch x.ctlEpoch, ctl := { x.ctl with fenced := true, mboxWait := none, load := none, wfe := none } })
      have hframe := u.unposted_frame c.val
      have hquiet : (u.unposted c.val).quietTraces := by
        rw [hframe]
        exact State.quietTraces_of_noTrace hq
      refine ⟨_, hrun, hd.cores.trans (by rw [hframe]; rfl), (hd.quiet hquiet).2.trans (by rw [hframe]; rfl), hd.cl.trans ?_, fun p hp => ?_⟩
      · rw [show (u.unposted c.val).cl c.val = _ from (State.cl_congr (by rw [hframe]) c.val).trans (State.cl_updCl_same s c.val _)]
      · rw [State.part_congr hd.parts]
        exact u.unposted_mbox c.val p hp
    case restart =>
      have hrun : exec (.ctlRestartDone c) s = .next (s.startCtl c.val) :=
        (whenLive_live _ _ hl).trans (congrArg _ (if_neg (by
          simp [show (s.cl c.val).powered = true from hp, show (s.cl c.val).ctl.fenced = true from hf,
            show (s.cl c.val).ctlEpoch ≠ 0xFFFF#16 from he])))
      have hcl := State.cl_updCl_same s c.val (fun x => { x with
        aliveNs := s.nsW
        ctl := { Ctl.init with
          pc := Config.ctlEntry s.boot.image
          mem := ((s.boot.ctlImage.zip (upTo s.boot.ctlImage.length)).filter (fun x => x.1 != 0#8)).map (fun x => (x.2, x.1))
          events := x.ctl.events, bp := x.ctl.bp } })
      refine ⟨_, hrun, rfl, ?_, ?_, ?_, ?_, ?_, ?_, ?_⟩ <;>
        rw [show (s.startCtl c.val).cl c.val = _ from hcl] <;> rfl
  · exact List.foldlRecOn (motive := fun t : State => t = { s with clusters := t.clusters }) _ _ rfl fun t ht c _ => by
      split
      · rw [ht]
        rfl
      · exact ht

/-- Settles O58, by the clauses of cores and of controllers. -/
theorem unitsFail : Obligations.UnitsFail := ⟨coresFail, controllersFail⟩

end Sys2Proof.Machine
end

section
/-! Devices and partners that fail, and the comparison of lock-step (R785, R806, R813 to R815, R855 to R857). -/
namespace Sys2Proof.Machine

/-! ### The loss of a device -/

/-- The device's state, the cores and the clusters stand. -/
structure State.unitsKept (s t : State) : Prop where
  dev : t.dev = s.dev
  cores : t.cores = s.cores
  clusters : t.clusters = s.clusters

theorem State.unitsKept.trans {s t u : State} (h : s.unitsKept t) (g : t.unitsKept u) : s.unitsKept u :=
  ⟨g.dev.trans h.dev, g.cores.trans h.cores, g.clusters.trans h.clusters⟩

theorem State.onlyPosts.units {s t : State} (h : s.onlyPosts t) : s.unitsKept t := by
  refine ⟨?_, ?_, ?_⟩ <;> rw [h]

theorem State.setEpoch_units (s : State) (node : BitVec 18) (e : BitVec 16) :
    ({ s with dev := { s.dev with eptab := s.dev.eptab.put node.toNat e } } : State).unitsKept (s.setEpoch node e) := by
  unfold State.setEpoch
  extract_lets dev old u
  split
  · exact (show u.unitsKept (u.entered tsHoldover) from ⟨rfl, rfl, rfl⟩).trans (u.enterTime_posts tsHoldover).units
  · exact ⟨rfl, rfl, rfl⟩

theorem State.broadcast_units (s : State) (k : Packet) : s.unitsKept (s.broadcast k) := by
  rw [s.broadcast_frame k]
  exact ⟨rfl, rfl, rfl⟩

/-- A new epoch of a node stands in the master's own table; the others' go out as packets (R806). -/
theorem State.spreadEpoch_units (s : State) (node : BitVec 18) (e : BitVec 16) :
    ({ s with dev := { s.dev with eptab := s.dev.eptab.put node.toNat e } } : State).unitsKept (s.spreadEpoch node e) :=
  (((s.setEpoch_units node e).trans (State.broadcast_units _ _)).trans (State.broadcast_units _ _)).trans (State.broadcast_units _ _)

/-- Where no cluster has a fabric command, no work spans a lost node. -/
theorem State.spanFault_none (s : State) (node : BitVec 18) (h : ∀ c, c < 8 → (s.cl c).fab = []) : s.spanFault node = s :=
  List.foldlRecOn (motive := fun t : State => t = s) _ _ rfl fun t ht c hc => by
    subst ht
    refine if_pos ?_
    rw [h c (List.mem_range.mp hc)]
    rfl

/-- The loss of a device that is not known yet raises its epoch in the master's table and remembers it (R785, R806). -/
theorem State.loseDevice_units (s : State) (node : BitVec 18) (kind : Nat) (hnew : s.dev.lostNodes.contains node = false)
    (hfab : ∀ c, c < 8 → (s.cl c).fab = []) :
    ({ s with dev := { s.dev with
      eptab := s.dev.eptab.put node.toNat (nextEpoch (s.dev.eptab.get 0#16 node.toNat))
      lostNodes := s.dev.lostNodes ++ [node] } } : State).unitsKept (s.loseDevice node kind) := by
  unfold State.loseDevice
  rw [if_neg (Bool.eq_false_iff.mp hnew)]
  extract_lets dev e u v
  have hw := u.spreadEpoch_units node e
  have hv : v = u.spreadEpoch node e := State.spanFault_none _ node fun c hc => by
    rw [State.cl_congr hw.clusters]
    exact hfab c hc
  rw [hv]
  exact hw.trans (State.post_onlyPosts _ _ _ _ _ _ _ _ _).units

/-! ### Comparison that stops -/

theorem State.lockTrigger_onlyPosts (s : State) (p cause core n lo hi job : Nat) :
    s.onlyPosts (s.lockTrigger p cause core n lo hi job) := by
  unfold State.lockTrigger
  split
  · rfl
  · extract_lets c off d u v
    have hv : u.onlyPosts v := by
      simp only [v]
      split
      · exact u.postRaw_onlyPosts _ _
      · exact u.onlyPosts_refl
    exact ((s.trigger_onlyPosts _ _ _ _ _ _ _ _).trans hv).trans (v.postRaw_onlyPosts _ _)

theorem State.onlyPosts.func {s t : State} (h : s.onlyPosts t) (p : Nat) : t.func p = s.func p := by
  rw [h]
  rfl

theorem State.onlyPosts.part {s t : State} (h : s.onlyPosts t) (p : Nat) : t.part p = s.part p := State.part_congr (by rw [h]) p

/-- Lock-step of a partition stops, with its trigger (R857). -/
def State.lockEnds (s : State) (p cause core n lo hi job : Nat) : State := (s.stopLock p).lockTrigger p cause core n lo hi job

theorem State.lockEnds_units (s : State) (p cause core n lo hi job : Nat) :
    s.unitsKept (s.lockEnds p cause core n lo hi job) ∧ ∀ q, (s.lockEnds p cause core n lo hi job).func q = s.func q :=
  have h := (s.stopLock p).lockTrigger_onlyPosts p cause core n lo hi job
  ⟨(show s.unitsKept (s.stopLock p) from ⟨rfl, rfl, rfl⟩).trans h.units, fun q => h.func q⟩

theorem State.lockEnds_part (s : State) (p cause core n lo hi job : Nat) :
    (s.lockEnds p cause core n lo hi job).part p = { s.part p with
      lockstep := false, sigs := [], peerSigs := [], jobs := (s.part p).jobs.mapV (fun _ j => { j with lock := false }) } :=
  (((s.stopLock p).lockTrigger_onlyPosts p cause core n lo hi job).part p).trans (State.part_updPart_same _ _ _)

theorem State.lockEnds_part_ne (s : State) (p cause core n lo hi job : Nat) {q : Nat} (h : q ≠ p) :
    (s.lockEnds p cause core n lo hi job).part q = s.part q :=
  (((s.stopLock p).lockTrigger_onlyPosts p cause core n lo hi job).part q).trans (State.part_updPart_ne _ _ _ _ h)

/-! ### The loss of the pair's partner -/

/-- What the loss of the partner stops of one partition that holds no host command (R857). -/
def State.partnerEnds (s : State) (p : Nat) : State :=
  if (s.part p).lockstep || (s.part p).jobs.any (fun j => j.2.lock) then
    match (s.part p).sigs.head? with
    | some r => s.lockEnds p 4 r.core r.n 0 0 (r.job % 65536)
    | none => s.lockEnds p 4 (8 * ((s.logCl p (s.lead p)).getD 0)) 0 0 0 0
  else s

theorem State.partnerEnds_units (s : State) (p : Nat) : s.unitsKept (s.partnerEnds p) ∧ ∀ q, (s.partnerEnds p).func q = s.func q := by
  unfold State.partnerEnds
  split
  · split
    · exact s.lockEnds_units _ _ _ _ _ _ _
    · exact s.lockEnds_units _ _ _ _ _ _ _
  · exact ⟨⟨rfl, rfl, rfl⟩, fun _ => rfl⟩

theorem State.partnerEnds_part_ne (s : State) (p q : Nat) (h : q ≠ p) : (s.partnerEnds p).part q = s.part q := by
  unfold State.partnerEnds
  split
  · split
    · exact s.lockEnds_part_ne _ _ _ _ _ _ _ h
    · exact s.lockEnds_part_ne _ _ _ _ _ _ _ h
  · rfl

theorem State.partnerEnds_part (s : State) (p : Nat) (h : (s.part p).lockstep = true) :
    ((s.partnerEnds p).part p).lockstep = false ∧ ((s.partnerEnds p).part p).sigs = [] ∧ ((s.partnerEnds p).part p).peerSigs = [] := by
  unfold State.partnerEnds
  rw [if_pos (by rw [h]; rfl)]
  split
  · rw [State.lockEnds_part]
    exact ⟨rfl, rfl, rfl⟩
  · rw [State.lockEnds_part]
    exact ⟨rfl, rfl, rfl⟩

/-- One partition of PR_PARTNER_TIMEOUT. -/
def State.partnerGone (s : State) (p : Nat) : State :=
  if (s.part p).lockstep || (s.part p).jobs.any (fun j => j.2.lock) then
    match (s.part p).sigs.head? with
    | some r => (s.lockEnds p 4 r.core r.n 0 0 (r.job % 65536)).pump p
    | none => s.lockEnds p 4 (8 * ((s.logCl p (s.lead p)).getD 0)) 0 0 0 0
  else s

theorem State.partnerGone_eq (s : State) (p : Nat) (h : (s.func p).cmds = []) : s.partnerGone p = s.partnerEnds p := by
  unfold State.partnerGone State.partnerEnds
  split
  · split
    · exact State.pump_none _ p (by rw [(s.lockEnds_units _ _ _ _ _ _ _).2, h])
    · rfl
  · rfl

/-- Partitions without host commands end lock-step one after the other. -/
theorem State.partnerGone_foldl : ∀ (l : List Nat) (s : State), (∀ p ∈ l, (s.func p).cmds = []) →
    l.foldl State.partnerGone s = l.foldl State.partnerEnds s
  | [], _, _ => rfl
  | p :: l, s, h => by
    rw [List.foldl_cons, List.foldl_cons, s.partnerGone_eq p (h p List.mem_cons_self)]
    refine State.partnerGone_foldl l _ fun q hq => ?_
    rw [(s.partnerEnds_units p).2]
    exact h q (List.mem_cons_of_mem _ hq)

/-- Settles the clauses of lost devices and partners. -/
theorem devicesFail : Claims.DevicesFail := by
  unfold Claims.DevicesFail
  refine ⟨fun node s hl hm hg hne hin hnew hfab => ?_, fun s hl => ⟨whenLive_live _ _ hl, fun hst hm hcmds => ?_⟩⟩
  · obtain ⟨hdev, hcores, hclusters⟩ := s.loseDevice_units node 5 hnew hfab
    exact ⟨_, (whenLive_live _ _ hl).trans (congrArg _ (if_neg (by simp [hm, hg, hin, hne]))), hdev, hcores, hclusters⟩
  · let u := s.postDev 0x03 0 0 0 (relDetail 6 0 0 0 s.dev.node.toNat 0 0)
    have hu : s.onlyPosts u := s.post_onlyPosts _ _ _ _ _ _ _ _
    have hrun : exec (.prPartnerTimeout false) s = .next ((upTo 8).foldl State.partnerGone u) :=
      (whenLive_live _ _ hl).trans (congrArg _ (if_neg (by simp [hst, hm])))
    rw [State.partnerGone_foldl (upTo 8) u fun p hp => by rw [hu.func]; exact hcmds p (List.mem_range.mp hp)] at hrun
    have hk : u.unitsKept ((upTo 8).foldl State.partnerEnds u) :=
      List.foldlRecOn (motive := fun t : State => u.unitsKept t) _ _ ⟨rfl, rfl, rfl⟩ fun t ht p _ => ht.trans (t.partnerEnds_units p).1
    have hall := hu.units.trans hk
    refine ⟨_, hrun, hall.cores, hall.clusters, fun p hp hlock => ?_⟩
    obtain ⟨v, hv, ht⟩ := (State.foldl_range_local State.part State.partnerEnds (fun t n d hd => t.partnerEnds_part_ne n d hd) u p 8).2 hp
    rw [show ((upTo 8).foldl State.partnerEnds u).part p = (v.partnerEnds p).part p from ht]
    exact v.partnerEnds_part p (by rw [hv, hu.part]; exact hlock)

/-! ### Signatures compared -/

/-- The signatures of a partition after the partner's has come. -/
def State.heard (s : State) (p : Nat) (r : SigRec) : State := s.updPart p (fun x => { x with peerSigs := x.peerSigs ++ [r] })

theorem State.heard_match {s : State} {p : Nat} {a r : SigRec} (hs : (s.part p).sigs = [a]) (hp : (s.part p).peerSigs = []) :
    (s.heard p r).matchSigs p = if a.same r then
        let t := (s.heard p r).updPart p (fun x => { x with
          sigs := x.sigs.filter (fun y => !y.same a), peerSigs := x.peerSigs.filter (fun y => !y.same a) })
        if a.sig = r.sig then t else t.lockMismatch p a r
      else s.heard p r := by
  have hsigs : ((s.heard p r).part p).sigs = [a] := by rw [State.heard, State.part_updPart_same]; exact hs
  have hpeer : ((s.heard p r).part p).peerSigs = [r] := by
    rw [State.heard, State.part_updPart_same]
    simp [hp]
  rw [State.matchSigs, hsigs, List.foldl_cons, List.foldl_nil, hpeer, List.find?_singleton]
  cases a.same r <;> rfl

theorem SigRec.same_comm (a b : SigRec) : a.same b = b.same a := by
  rw [SigRec.same, SigRec.same, BEq.comm, BEq.comm (a := a.n), BEq.comm (a := a.core)]

theorem SigRec.same_iff (a b : SigRec) : a.same b = true ↔ a.job = b.job ∧ a.n = b.n ∧ a.core = b.core := by
  simp [SigRec.same, and_assoc]

/-- Both signatures of compared work have left. -/
theorem State.heard_compared {s : State} {p : Nat} {a r : SigRec} (hs : (s.part p).sigs = [a]) (hp : (s.part p).peerSigs = [])
    (h : a.same r = true) : ((s.heard p r).updPart p (fun x => { x with
      sigs := x.sigs.filter (fun y => !y.same a), peerSigs := x.peerSigs.filter (fun y => !y.same a) })).part p =
        { s.part p with sigs := [], peerSigs := [] } := by
  have haa : a.same a = true := (SigRec.same_iff a a).mpr ⟨rfl, rfl, rfl⟩
  have hra : r.same a = true := by rw [SigRec.same_comm, h]
  rw [State.part_updPart_same, State.heard, State.part_updPart_same]
  simp [hs, hp, haa, hra]

/-- A mismatch ends the lock of its job; no signature and no host command comes of it (R856). -/
theorem State.lockMismatch_job {s : State} {p : Nat} {a b : SigRec} (hj : a.job < 2 ^ 32) (hl : (s.job p a.job).lock = true) :
    ((s.lockMismatch p a b).part p).sigs = (s.part p).sigs ∧ ((s.lockMismatch p a b).part p).peerSigs = (s.part p).peerSigs ∧
      ((s.lockMismatch p a b).job p a.job).lock = false ∧ (s.lockMismatch p a b).func p = s.func p := by
  let u := (s.jobCores p a.job).foldl (fun s k => s.drainCore k false) s
  have hu : u = { s with cores := u.cores } :=
    List.foldlRecOn (motive := fun t : State => t = { s with cores := t.cores }) _ _ rfl fun t ht k _ => by
      rw [ht]
      rfl
  let v := u.updJob p a.job (fun x => { x with lock := false })
  have hrun : s.lockMismatch p a b = v.lockTrigger p 3 a.core a.n (min a.lo.toNat b.lo.toNat) (max a.hi.toNat b.hi.toNat)
      (a.job % 65536) := by
    have hid : s.sigJob p a = some a.job := if_pos hj
    rw [State.lockMismatch, hid]
    exact if_neg (by rw [hl]; decide)
  have hpost := v.lockTrigger_onlyPosts p 3 a.core a.n (min a.lo.toNat b.lo.toNat) (max a.hi.toNat b.hi.toNat) (a.job % 65536)
  have hpart : (s.lockMismatch p a b).part p = { s.part p with
      jobs := (s.part p).jobs.upd Job.init a.job (fun x => { x with lock := false }) } := by
    rw [hrun, hpost.part]
    exact (State.part_updPart_same _ _ _).trans (congrArg (fun x : Part => { x with
      jobs := x.jobs.upd Job.init a.job (fun x => { x with lock := false }) }) (State.part_congr (by rw [hu]) p))
  refine ⟨by rw [hpart], by rw [hpart], ?_, ?_⟩
  · rw [State.job, hpart, SMap.get_upd_same]
  · rw [hrun, hpost.func]
    exact (congrArg (fun t : State => t.func p) hu :)

/-- Settles the clauses of signatures: one that does not open, one that agrees, one that differs, one that waits, and one too late. -/
theorem lockStep : Claims.LockStep := by
  unfold Claims.LockStep
  refine ⟨fun q ctr data s a => ?_, fun q job n core s r => ?_⟩
  · intro p i hl hup hlock hcmds hsig hpeer
    have hhear : ¬ (!s.linkUp 6 || (!(s.part p).lockstep && !(s.part p).jobs.any (fun j => j.2.lock))) = true := by
      rw [hup, hlock]
      exact Bool.false_ne_true
    refine ⟨fun hno => ?dropped, fun hplain => if_pos (congrArg (!·) hplain), fun l hopen => ?_⟩
    case dropped =>
      refine (whenLive_live _ _ hl).trans (congrArg _ ((if_neg hhear).trans ?_))
      rw [hno]
      rfl
    intro r
    have hrun : exec i s = .next (((s.heard p r).matchSigs p).pump p) := by
      refine (whenLive_live _ _ hl).trans (congrArg _ ((if_neg hhear).trans ?_))
      rw [hopen]
      rfl
    rw [State.heard_match hsig hpeer] at hrun
    refine ⟨fun hj hn hc hs => ?same, fun hj hn hc hs hlt hjob => ?differ, fun hne => ?other⟩
    case same =>
      have hsame := (SigRec.same_iff a r).mpr ⟨hj, hn, hc⟩
      rw [if_pos hsame, if_pos hs, State.pump_none ((s.heard p r).updPart p _) p hcmds] at hrun
      exact ⟨_, hrun, rfl, State.heard_compared hsig hpeer hsame⟩
    case differ =>
      have hsame := (SigRec.same_iff a r).mpr ⟨hj, hn, hc⟩
      rw [if_pos hsame, if_neg hs] at hrun
      have hpart := State.heard_compared hsig hpeer hsame
      generalize hu : (s.heard p r).updPart p (fun x => { x with
        sigs := x.sigs.filter (fun y => !y.same a), peerSigs := x.peerSigs.filter (fun y => !y.same a) }) = u at hrun hpart
      obtain ⟨h1, h2, h3, h4⟩ := State.lockMismatch_job (s := u) (p := p) (a := a) (b := r) (hj ▸ hlt) (by
        rw [State.job, hpart, hj]
        exact hjob)
      rw [State.pump_none _ _ (by rw [h4, ← hu]; exact hcmds)] at hrun
      exact ⟨_, hrun, by rw [h1, hpart], by rw [h2, hpart], hj ▸ h3⟩
    case other =>
      have hno : ¬ a.same r = true := fun h => by
        obtain ⟨hj, hn, hc⟩ := (SigRec.same_iff a r).mp h
        rcases hne with h | h | h
        exacts [h hj, h hn, h hc]
      rw [if_neg hno, State.pump_none (s.heard p r) p hcmds] at hrun
      refine ⟨_, hrun, rfl, ?_⟩
      rw [State.heard, State.part_updPart_same, hpeer]
      rfl
  · intro p hl hcmds hfind hlate
    have hrun : exec (.lockstepTimeout q job n core) s = .next ((s.lockEnds p 4 core n 0 0 (job % 65536)).pump p) := by
      refine (whenLive_live _ _ hl).trans (congrArg _ ?_)
      rw [hfind]
      exact if_neg (Nat.not_lt.mpr hlate)
    obtain ⟨hunits, hfunc⟩ := s.lockEnds_units p 4 core n 0 0 (job % 65536)
    rw [State.pump_none _ _ (by rw [hfunc]; exact hcmds)] at hrun
    have hpart := s.lockEnds_part p 4 core n 0 0 (job % 65536)
    refine ⟨_, hrun, by rw [hpart], by rw [hpart], by rw [hpart], fun j => ?_, hunits.cores⟩
    cases hf : (s.part p).jobs.find j with
    | none => exact .inr (by rw [SMap.has, hf]; rfl)
    | some x =>
      refine .inl ?_
      rw [State.job, hpart, SMap.get, SMap.find_mapV, hf]
      rfl

/-- Settles O59, by the clauses of lost devices and of lock-step. -/
theorem partnersFail : Obligations.PartnersFail := ⟨devicesFail, lockStep⟩

end Sys2Proof.Machine
end

section
/-! Insole: frames, the loop and replays (R695 to R699, R710, R714 to R717). -/
namespace Sys2Proof.Machine

theorem whenInsole_live (s x : State) (h : s.insoleLive = true) : whenInsole s x = .next x := if_pos h

/-! ### The bits of a frame -/

/-- What a channel that is on makes of its bits. -/
def Aon.heard (a : Aon) (bits : List (List Bool)) (c : Nat) : List Int × List Bool × List Int :=
  decimate a.div a.decim (a.calib.get 0x4000#32 c) (a.pdm.get [] c) (a.uhist.get [] c) (bits.getD c [])

/-- A calibration entry counts from its bit 31 on only, so the reset value and zero decimate alike (R708). -/
theorem decimate_uncalibrated (div : BitVec 2) (h : SMap (BitVec 16)) (m : SMap W32) (c : Nat) (old : List Bool) (us : List Int)
    (new : List Bool) : decimate div h (m.get 0x4000#32 c) old us new = decimate div h (m.get 0#32 c) old us new := by
  unfold SMap.get
  cases m.find c with
  | some v => rfl
  | none =>
    have hd : calDelay 0x4000#32 = calDelay 0#32 := rfl
    have hb : BitVec.getLsbD 0x4000#32 31 = BitVec.getLsbD 0#32 31 := rfl
    simp only [Option.getD_none]
    unfold decimate
    rw [hd, hb]
    rfl

/-- One channel of a frame taken in. -/
def Aon.takeChannel (a : Aon) (bits : List (List Bool)) (acc : List (Nat × List Int) × Aon) (c : Nat) : List (Nat × List Int) × Aon :=
  if a.chanOn c then
    (acc.1 ++ [(c, (a.heard bits c).1)], { acc.2 with
      pdm := acc.2.pdm.put c (a.heard bits c).2.1, uhist := acc.2.uhist.put c (a.heard bits c).2.2 })
  else (acc.1, { acc.2 with
    pdm := acc.2.pdm.erase c, uhist := acc.2.uhist.erase c, adpcm := acc.2.adpcm.erase c, hist := acc.2.hist.erase c })

theorem Aon.takeBits_eq (a : Aon) (bits : List (List Bool)) : a.takeBits bits = (upTo 16).foldl (a.takeChannel bits) ([], a) := rfl

/-- The first n channels of a frame taken in: the samples of those that are on, and nothing kept of the others. -/
structure Aon.taken (a : Aon) (bits : List (List Bool)) (n : Nat) (r : List (Nat × List Int) × Aon) : Prop where
  samples : r.1 = ((List.range n).filter a.chanOn).map (fun c => (c, (a.heard bits c).1))
  frame : r.2 = { a with pdm := r.2.pdm, uhist := r.2.uhist, adpcm := r.2.adpcm, hist := r.2.hist }
  kept : ∀ c, a.chanOn c = true → r.2.adpcm.get 0#24 c = a.adpcm.get 0#24 c
  off : ∀ c, c < n → a.chanOn c = false → r.2.pdm.find c = none ∧ r.2.hist.find c = none

theorem Aon.foldl_taken (a : Aon) (bits : List (List Bool)) : ∀ n, a.taken bits n ((List.range n).foldl (a.takeChannel bits) ([], a))
  | 0 => ⟨rfl, rfl, fun _ _ => rfl, fun _ h => absurd h (Nat.not_lt_zero _)⟩
  | n + 1 => by
    obtain ⟨hs, hf, hk, ho⟩ := a.foldl_taken bits n
    rw [List.range_succ, List.foldl_append, List.foldl_cons, List.foldl_nil]
    generalize (List.range n).foldl (a.takeChannel bits) ([], a) = r at hs hf hk ho ⊢
    unfold Aon.takeChannel
    by_cases hon : a.chanOn n = true
    · rw [if_pos hon]
      refine ⟨?_, ?_, hk, fun c hc hoff => ?_⟩
      · rw [hs, List.range_succ, List.filter_append, List.map_append]
        simp [hon]
      · rw [hf]
      · have hne : c ≠ n := fun h => by rw [h, hon] at hoff; exact absurd hoff (by decide)
        obtain ⟨h1, h2⟩ := ho c (by omega) hoff
        exact ⟨(SMap.find_put_ne _ _ _ _ hne).trans h1, h2⟩
    · rw [if_neg hon]
      refine ⟨?_, ?_, fun c hc => ?_, fun c hc hoff => ?_⟩
      · rw [hs, List.range_succ, List.filter_append, List.map_append]
        simp [hon]
      · rw [hf]
      · have hne : c ≠ n := fun h => hon (h ▸ hc)
        exact (congrArg (Option.getD · 0#24) (SMap.find_erase_ne _ _ _ hne)).trans (hk c hc)
      · by_cases hcn : c = n
        · subst hcn
          exact ⟨SMap.find_erase_same _ _, SMap.find_erase_same _ _⟩
        · obtain ⟨h1, h2⟩ := ho c (by omega) hoff
          exact ⟨(SMap.find_erase_ne _ _ _ hcn).trans h1, (SMap.find_erase_ne _ _ _ hcn).trans h2⟩

theorem Aon.takeBits_taken (a : Aon) (bits : List (List Bool)) : a.taken bits 16 (a.takeBits bits) := by
  rw [Aon.takeBits_eq]
  exact a.foldl_taken bits 16

/-! ### The ring -/

/-- One channel's block recorded. -/
def Aon.recordOne (b : Nat) (a : Aon) (x : Nat × List Int) : Aon :=
  { a with
    ringMem := a.ringMem.put (512 * x.1 + b % 500) (ringBlock (a.adpcm.get 0#24 x.1) x.2).1
    adpcm := a.adpcm.put x.1 (ringBlock (a.adpcm.get 0#24 x.1) x.2).2 }

/-- Recording touches the ring and the encoders alone. -/
theorem Aon.recordRing_frame (a : Aon) (b : Nat) (l : List (Nat × List Int)) : a.recordRing b l = { a with
    ringMem := (a.recordRing b l).ringMem, adpcm := (a.recordRing b l).adpcm, ringFrom := (a.recordRing b l).ringFrom } := by
  unfold Aon.recordRing
  split
  · rfl
  · exact List.foldlRecOn (motive := fun t : Aon => t = { a with ringMem := t.ringMem, adpcm := t.adpcm, ringFrom := t.ringFrom })
      l (Aon.recordOne b) rfl fun t ht x _ => by
        unfold Aon.recordOne
        rw [ht]

theorem Aon.recordAll_other (b c : Nat) : ∀ (l : List (Nat × List Int)) (a : Aon), (∀ x ∈ l, x.1 ≠ c) →
    (l.foldl (Aon.recordOne b) a).ringMem.get [] (512 * c + b % 500) = a.ringMem.get [] (512 * c + b % 500)
  | [], _, _ => rfl
  | x :: l, a, h => by
    have hx : x.1 ≠ c := h x List.mem_cons_self
    rw [List.foldl_cons, Aon.recordAll_other b c l _ fun y hy => h y (List.mem_cons_of_mem _ hy)]
    exact SMap.get_put_ne _ _ _ _ _ (by omega)

/-- The block of a channel that is recorded, each channel once. -/
theorem Aon.recordAll_own (b : Nat) (x : Nat × List Int) : ∀ (l : List (Nat × List Int)) (a : Aon), (l.map Prod.fst).Nodup → x ∈ l →
    (l.foldl (Aon.recordOne b) a).ringMem.get [] (512 * x.1 + b % 500) = (ringBlock (a.adpcm.get 0#24 x.1) x.2).1
  | y :: l, a, hnd, hx => by
    rw [List.map_cons, List.nodup_cons] at hnd
    rw [List.foldl_cons]
    rcases List.mem_cons.mp hx with rfl | hl
    · rw [Aon.recordAll_other b x.1 l _ fun z hz he => hnd.1 (he ▸ List.mem_map_of_mem hz)]
      exact SMap.get_put_same _ _ _ _
    · have hne : x.1 ≠ y.1 := fun he => hnd.1 (he ▸ List.mem_map_of_mem hl)
      rw [Aon.recordAll_own b x l _ hnd.2 hl]
      exact congrArg (fun v => (ringBlock v x.2).1) (SMap.get_put_ne _ _ _ _ _ hne)

/-! ### A frame -/

/-- Insole's own state after a frame is taken in and recorded. -/
def Aon.framed (a : Aon) (bits : List (List Bool)) (ns : W64) : Aon :=
  let b := a.sampleNo.toNat / 256
  let r := (a.takeBits bits).2.recordRing b (a.takeBits bits).1
  { r with sampleNo := BitVec.ofNat 48 (256 * (b + 1)), blkNs := r.blkNs.put (b % 500) ns }

/-- Without a detector and a feed, a frame does nothing else. -/
theorem insoleFrame_framed (bits : List (List Bool)) (s : State) (hl : s.insoleLive = true) (hd : s.aon.det = false)
    (hp : s.feedPart = 15) : exec (.insoleFrame bits) s = .next { s with aon := s.aon.framed bits s.nsW } := by
  let u : State := { s with aon := s.aon.framed bits s.nsW }
  have htake := s.aon.takeBits_taken bits
  have hrec := (s.aon.takeBits bits).2.recordRing_frame (s.aon.sampleNo.toNat / 256) (s.aon.takeBits bits).1
  have hdet : u.aon.det = false := by
    simp only [u, Aon.framed]
    rw [hrec]
    exact (congrArg Aon.det htake.frame :).trans hd
  have hown : u.aon.feedOwn = s.aon.feedOwn := by
    simp only [u, Aon.framed]
    rw [hrec]
    exact (congrArg Aon.feedOwn htake.frame :)
  have hfeed : u.feedOn = false := by
    have h15 : u.feedPart = 15 := by
      rw [← hp, State.feedPart, State.feedPart, hown]
      rfl
    rw [State.feedOn, h15]
    simp
  have hstage : u.stage0 (s.aon.sampleNo.toNat / 256) (s.aon.takeBits bits).1 = u := if_pos (by rw [hdet]; rfl)
  refine (whenInsole_live _ _ hl).trans (congrArg _ ?_)
  refine (congrArg (fun t : State => if t.feedOn && !t.aon.replay && decide (s.aon.sampleNo.toNat / 256 ≥ t.aon.feedBlk.toNat) then
      ({ t with aon := { t.aon with feedWait := t.aon.feedWait ++ [s.aon.sampleNo.toNat / 256] } } : State).feedFlush
    else t) hstage).trans ?_
  exact if_neg (by rw [hfeed]; simp)

/-- A replay that has ended. -/
def State.replayDone (s : State) : State := { s with aon := { s.aon with replay := false } }

/-- A replay that clips, where the block that it stands at is gone. -/
def State.replayClip (s : State) : State :=
  if s.aon.feedBlk.toNat < s.oldestBlock then { s with aon := { s.aon with feedPend := s.aon.feedPend ||| 2 } } else s

/-- A replay that may write its next block does, or ends (R717). -/
theorem feedReplayBlock_next (s : State) (hl : s.insoleLive = true) (hon : s.feedOn = true) (hrep : s.aon.replay = true)
    (hmv : s.feedMoves = false) :
    let now := s.aon.sampleNo.toNat / 256
    let b := max s.aon.feedBlk.toNat s.oldestBlock
    exec .feedReplayBlock s = .next (if b ≥ now then s.replayDone
      else if b + 1 ≥ now then (s.replayClip.feedWrite b true).replayDone else s.replayClip.feedWrite b true) := by
  intro now b
  have hgo : ¬ (!s.aon.replay || !s.feedOn || s.feedMoves) = true := by rw [hrep, hon, hmv]; exact Bool.false_ne_true
  have hclip : (if decide (s.aon.feedBlk.toNat < s.oldestBlock) = true then
      ({ s with aon := { s.aon with feedPend := s.aon.feedPend ||| 2 } } : State) else s) = s.replayClip := by
    simp only [State.replayClip, decide_eq_true_eq]
  rw [show exec .feedReplayBlock s = execFeedReplayBlock s from rfl]
  unfold execFeedReplayBlock
  extract_lets clip aon v w
  have hw : w = s.replayClip.feedWrite b true := congrArg (fun t : State => t.feedWrite b true) hclip
  rw [if_neg hgo, whenInsole_live _ _ hl, ← hw]
  clear_value w
  rfl

/-- A replay clips once. -/
theorem State.replayClip_twice (s : State) : s.replayClip.replayClip = s.replayClip := by
  by_cases hc : s.aon.feedBlk.toNat < s.oldestBlock
  · have h : s.replayClip = { s with aon := { s.aon with feedPend := s.aon.feedPend ||| 2 } } := if_pos hc
    have h2 : s.replayClip.replayClip =
        { s.replayClip with aon := { s.replayClip.aon with feedPend := s.replayClip.aon.feedPend ||| 2 } } := by
      rw [h]
      exact if_pos hc
    rw [h2, h]
    dsimp only
    rw [Nat.or_assoc, Nat.or_self]
  · have h : s.replayClip = s := if_neg hc
    rw [h, h]

/-- Clipping leaves what a replay asks for. -/
theorem State.replayClip_asks (s : State) : s.replayClip.insoleLive = s.insoleLive ∧ s.replayClip.feedOn = s.feedOn ∧
    s.replayClip.feedMoves = s.feedMoves ∧ s.replayClip.oldestBlock = s.oldestBlock ∧
    s.replayClip.aon = { s.aon with feedPend := s.replayClip.aon.feedPend } := by
  unfold State.replayClip
  split
  · exact ⟨rfl, rfl, rfl, rfl, rfl⟩
  · exact ⟨rfl, rfl, rfl, rfl, rfl⟩

/-- Settles O21: a frame by what the channels, the ring and the encoders take of it; the loop and the replays by the model's cases. -/
theorem insole : Obligations.Insole := by
  unfold Obligations.Insole
  refine ⟨fun bits s hl hd hp => ?frame, fun s hl => whenInsole_live _ _ hl, fun n s hl hi => ?write, fun s hl hon hrep hmv => ?replay⟩
  case frame =>
    intro b
    have htake := s.aon.takeBits_taken bits
    have hrec := (s.aon.takeBits bits).2.recordRing_frame b (s.aon.takeBits bits).1
    refine ⟨_, insoleFrame_framed bits s hl hd hp, rfl, rfl, SMap.get_put_same _ _ _ _, fun c hc hoff => ?_, fun hr => ?_, fun hr c hc hon => ?_⟩
    · obtain ⟨h1, h2⟩ := htake.off c hc hoff
      refine ⟨?_, ?_⟩
      · exact (congrArg (fun a : Aon => a.pdm.find c) hrec).trans h1
      · exact (congrArg (fun a : Aon => a.hist.find c) hrec).trans h2
    · have hring : (s.aon.takeBits bits).2.ring = false := (congrArg Aon.ring htake.frame :).trans hr
      have hnone : (s.aon.takeBits bits).2.recordRing b (s.aon.takeBits bits).1 =
          { (s.aon.takeBits bits).2 with ringFrom := b + 1 } := if_pos (by rw [hring]; rfl)
      exact (congrArg Aon.ringMem hnone).trans (congrArg Aon.ringMem htake.frame :)
    · have hring : (s.aon.takeBits bits).2.ring = true := (congrArg Aon.ring htake.frame :).trans hr
      have hmem : (c, (s.aon.heard bits c).1) ∈ (s.aon.takeBits bits).1 := by
        rw [htake.samples]
        exact List.mem_map_of_mem (List.mem_filter.mpr ⟨List.mem_range.mpr hc, hon⟩)
      have hne : (s.aon.takeBits bits).1.isEmpty = false := by
        rw [List.isEmpty_eq_false_iff]
        exact List.ne_nil_of_mem hmem
      have hnodup : ((s.aon.takeBits bits).1.map Prod.fst).Nodup := by
        rw [htake.samples, List.map_map]
        exact (List.map_id' ((List.range 16).filter s.aon.chanOn)).symm ▸ (List.nodup_range.filter _)
      have hall : (s.aon.takeBits bits).2.recordRing b (s.aon.takeBits bits).1 =
          (s.aon.takeBits bits).1.foldl (Aon.recordOne b) (s.aon.takeBits bits).2 := if_neg (by rw [hring, hne]; decide)
      have hown := Aon.recordAll_own b _ _ (s.aon.takeBits bits).2 hnodup hmem
      rw [← hall, htake.kept c hon] at hown
      refine hown.trans ?_
      rw [Aon.heard, decimate_uncalibrated]
  case write => exact (whenLive_live _ _ hl).trans (congrArg _ (if_pos hi))
  case replay =>
    intro now b
    refine ⟨fun hle => (feedReplayBlock_next s hl hon hrep hmv).trans (congrArg _ (if_pos hle)), fun hlt => ?_⟩
    intro u t
    have hu : u = s.replayClip := rfl
    have ht : t = s.replayClip.feedWrite b true := congrArg (fun s : State => s.feedWrite b true) hu
    clear_value t
    clear_value u
    rw [hu, ht]
    clear hu ht t u
    obtain ⟨hlive, hfeed, hmoves, hold, haon⟩ := s.replayClip_asks
    have hrun := feedReplayBlock_next s.replayClip (hlive.trans hl) (hfeed.trans hon)
      ((congrArg Aon.replay haon :).trans hrep) (hmoves.trans hmv)
    dsimp only at hrun
    rw [s.replayClip_twice, hold, (congrArg Aon.feedBlk haon :), (congrArg Aon.sampleNo haon :)] at hrun
    refine hrun.trans (congrArg _ ((if_neg (Nat.not_le.mpr hlt)).trans ?_))
    generalize s.replayClip.feedWrite b true = t
    by_cases hend : b + 1 ≥ now
    · rw [decide_eq_false (Nat.not_lt.mpr hend), Bool.and_false]
      exact if_pos hend
    · rw [decide_eq_true (Nat.not_le.mp hend), Bool.and_true]
      exact if_neg hend

end Sys2Proof.Machine
end

section
/-! The TDM ports (R696, R700 to R708). -/
namespace Sys2Proof.Machine

/-! ### Ports -/

@[simp] theorem State.tdm_updTdm_same (s : State) (p : Nat) (f : TdmPort → TdmPort) : (s.updTdm p f).tdm p = f (s.tdm p) := by
  simp [State.tdm, State.updTdm]

theorem State.tdm_updTdm_ne (s : State) (p q : Nat) (f : TdmPort → TdmPort) (h : q ≠ p) : (s.updTdm p f).tdm q = s.tdm q := by
  simp [State.tdm, State.updTdm, SMap.get_upd_ne _ _ _ _ _ h]

/-- A port that is not stopped has an owner (R696, R703). -/
theorem State.tdmOwner_running {s : State} {p : Nat} (h : s.tdmStopped p = false) : ∃ own, s.tdmOwner p = some own := by
  unfold State.tdmStopped at h
  cases ho : s.tdmOwner p with
  | some own => exact ⟨own, rfl⟩
  | none => simp [ho] at h

/-- A read that finds no error leaves the state. -/
theorem State.hostMeets_none (s : State) (p : Nat) (l : List (Nat × Nat)) (w : Bool) : s.hostMeets p l w .none = s := by
  unfold State.hostMeets
  split
  · split
    · exact s.meet_none _ _
    · rfl
  · rfl

theorem TdmPort.calibrate_length (t : TdmPort) (cal : Nat → W32) (frame : List (List W32)) :
    (t.calibrate cal frame).1.length = frame.length := by
  unfold TdmPort.calibrate
  suffices h : ∀ (l : List (List W32)) (acc : List (List (BitVec 24)) × SMap (List (BitVec 24))),
      (l.foldl (fun acc row =>
        let r := (upTo 16).foldl (fun (b : List (BitVec 24) × SMap (List (BitVec 24))) i =>
          let x : BitVec 24 := BitVec.ofInt 24 (slotSample t.wide (row.getD i 0#32))
          let q := x :: b.2.get [] i
          let y := (q.getD (calDelay (cal i) % 32) 0#24).toInt
          let z := (satN 24 (rdiv (y * (calGain (cal i) : Int)) (2 ^ 14))).1
          (b.1 ++ [BitVec.ofInt 24 z], b.2.put i (q.take 31))) ([], acc.2)
        (acc.1 ++ [r.1], r.2)) acc).1.length = acc.1.length + l.length by
    exact (h frame ([], t.delayQ)).trans (Nat.zero_add _)
  intro l
  induction l with
  | nil => exact fun _ => rfl
  | cons row l ih =>
    intro acc
    rw [List.foldl_cons, ih, List.length_append, List.length_singleton, List.length_cons]
    omega

/-! ### Input -/

/-- A frame of a running port whose clock and owner stand is delivered, unless a stop touched it (R703, R705). -/
theorem tdmInputFrame_next (q : Fin 4) (frame : List (List W32)) (s : State) (hl : s.live = true)
    (hr : (s.tdm q.val).running = true) (hs : s.tdmStopped q.val = false) :
    exec (.tdmInputFrame q frame .none) s = .next (if (s.tdm q.val).touched then
      s.updTdm q.val (fun t => { t with frame := t.frame + 1, gap := true, touched := false }) else s.tdmDeliver q.val frame .none) := by
  obtain ⟨own, ho⟩ := State.tdmOwner_running hs
  refine (whenLive_live _ _ hl).trans (congrArg _ ((if_neg (by simp [hr])).trans (if_congr Iff.rfl ?_ ?_)))
  · exact if_neg (Bool.eq_false_iff.mp hs)
  · rw [hs, ho]

/-- A frame of a ring port joins the block that is not whole yet (R702). -/
theorem State.tdmDeliver_block (s : State) (p : Nat) (frame : List (List W32)) (hu : (s.tdm p).use = 2)
    (hn : (s.tdm p).blk.length + frame.length < 256) :
    let c := (s.tdm p).calibrate (fun i => s.aud.calib.get 0x4000#32 (16 * p + i)) frame
    s.tdmDeliver p frame .none = (s.updTdm p (fun t => { t with delayQ := c.2, frame := (s.tdm p).frame + 1 })).updTdm p
      (fun t => { t with blk := (s.tdm p).blk ++ c.1 }) := by
  intro c
  have hlen : ¬ ((s.tdm p).blk ++ c.1).length ≥ 256 := by
    rw [List.length_append, TdmPort.calibrate_length]
    omega
  exact (if_pos hu).trans (if_neg hlen)

/-! ### Output -/

section
variable (q : Fin 4) (f : Nat) (s : State) (own : Nat) (hl : s.live = true) (hr : (s.tdm q.val).running = true)
  (hu : (s.tdm q.val).use = 1) (hs : s.tdmStopped q.val = false) (ho : s.tdmOwner q.val = some own) (l : List Byte)
  (hrec : s.hostRead own ((s.tdm q.val).adr (0x24 + 8 * (f % 2))) 32 = .inl l)
include hl hr hu hs ho hrec

/-- A chain that is complete at its output step drives its buffer (R706). -/
theorem tdmOutputStep_complete (d : List Byte) (hm : s.mvPart own ((s.tdm q.val).adr (0x24 + 8 * (f % 2))) 32 = false)
    (hb : s.mvPart own ((s.tdm q.val).adr (0x14 + 8 * (f % 2))) (256 * sampleSize (s.tdm q.val).int16) = false)
    (hst : recN l 0 1 = 0) (htag : recN l 4 2 = f % 65536)
    (hd : s.hostRead own ((s.tdm q.val).adr (0x14 + 8 * (f % 2))) (256 * sampleSize (s.tdm q.val).int16) = .inl d) :
    exec (.tdmOutputStep q f .none) s = .next (s.updTdm q.val (fun t => { t with sdo := t.words d 256 })) := by
  have hok : (recN l 0 1 == stOk && recN l 4 2 == f % 65536) = true := by
    rw [hst, htag, BEq.rfl]
    rfl
  have hrun : exec (.tdmOutputStep q f .none) s = execTdmOutputStep q f .none s := rfl
  rw [hrun]
  simp only [execTdmOutputStep, whenLive_live _ _ hl, hr, hu, hs, ho, State.hostMeets_none, ite_self, hrec, hm, hb, hd, hok,
    Nat.reduceMul, Bool.not_true, Bool.not_false, bne_self_eq_false, Bool.or_self, Bool.false_eq_true, if_false, Bool.and_self]

/-- A chain whose record is of another frame is late: zeros, and the count of the core (R354, R706). -/
theorem tdmOutputStep_late (k : Nat) (htag : recN l 4 2 ≠ f % 65536)
    (hk : s.reelCore own (hIdx ((s.tdm q.val).set.get 0#32 0).toNat) = some k) :
    exec (.tdmOutputStep q f .none) s = .next ((s.updTdm q.val (fun t => { t with sdo := [] })).count k 0x27 1) := by
  have hok : (recN l 4 2 == f % 65536) = false := beq_false_of_ne htag
  have hk' : (s.updTdm q.val (fun t => { t with sdo := [] })).reelCore own (hIdx ((s.tdm q.val).set.get 0#32 0).toNat) = some k := hk
  have hrun : exec (.tdmOutputStep q f .none) s = execTdmOutputStep q f .none s := rfl
  rw [hrun]
  simp only [execTdmOutputStep, whenLive_live _ _ hl, hr, hu, hs, ho, State.hostMeets_none, ite_self, hrec, hok, hk',
    Bool.not_true, bne_self_eq_false, Bool.or_self, Bool.false_eq_true, if_false, Bool.and_false]

end

section
variable (q : Fin 4) (s : State) (own : Nat) (l : List Byte) (hl : s.live = true) (hr : (s.tdm q.val).running = true)
  (hu : 2 ≤ (s.tdm q.val).use) (hs : s.tdmStopped q.val = false) (ho : s.tdmOwner q.val = some own) (hn : (s.tdm q.val).outRing.n ≠ 0)
  (hm : s.ringMoves own (s.tdm q.val).outRing (s.tdm q.val).rpos.toNat (64 + 4096 * sampleSize (s.tdm q.val).int16) = false)
  (hrec : s.hostRead own (s.tdm q.val).outRing.base.toNat 8 = .inl l)
include hl hr hu hs ho hn hm hrec

/-- A playback ring without a next block gives zeros, and counts (R702). -/
theorem playbackBlock_under (he : BitVec.ofNat 64 (leVal l) = (s.tdm q.val).rpos) :
    exec (.playbackBlock q .none) s = .next (s.updTdm q.val (fun t => { t with sdo := [], under := satInc t.under })) := by
  have hrun : exec (.playbackBlock q .none) s = execPlaybackBlock q .none s := rfl
  rw [hrun]
  simp only [execPlaybackBlock, whenLive_live _ _ hl, hr, hs, ho, hm, hrec, he, State.ringTail, decide_eq_false (Nat.not_lt.mpr hu),
    decide_eq_false hn, Bool.not_true, Bool.or_self, Bool.false_eq_true, if_false, if_true]

/-- A playback ring with a next block gives it, and its read count goes to memory (R702). -/
theorem playbackBlock_block (d : List Byte) (hne : BitVec.ofNat 64 (leVal l) ≠ (s.tdm q.val).rpos)
    (hd : s.hostRead own ((s.tdm q.val).outRing.buf (s.tdm q.val).rpos.toNat + 64) (4096 * sampleSize (s.tdm q.val).int16) = .inl d) :
    exec (.playbackBlock q .none) s = .next ((s.hostWrite own ((s.tdm q.val).outRing.base.toNat + 8)
      (leBytes 8 ((s.tdm q.val).rpos + 1#64).toNat)).1.updTdm q.val (fun t => { t with
        rpos := (s.tdm q.val).rpos + 1#64
        sdo := (upTo 4096).map (fun i => ((s.tdm q.val).words d 4096).getD (256 * (i % 16) + i / 16) 0#32) })) := by
  have hrun : exec (.playbackBlock q .none) s = execPlaybackBlock q .none s := rfl
  rw [hrun]
  simp only [execPlaybackBlock, whenLive_live _ _ hl, hr, hs, ho, hm, hrec, hne, hd, State.ringTail, State.hostMeets_none,
    decide_eq_false (Nat.not_lt.mpr hu), decide_eq_false hn, Bool.not_true, Bool.or_self, Bool.false_eq_true, if_false]

end

/-! ### The loss of the clock -/

theorem State.tdmTouch_tdm (s : State) (p : Nat) : (s.tdmTouch p).tdm p =
    if !(s.tdm p).running || (s.tdm p).touched then s.tdm p
    else { s.tdm p with touched := true, lost := satInc (s.tdm p).lost, sdo := [], delayQ := [], gap := true } :=
  s.tdm_updTdm_same p _

theorem State.tdmTouchAll_tdm (s : State) (p : Nat) (h : p < 4) : s.tdmTouchAll.tdm p =
    if !(s.tdm p).running || (s.tdm p).touched then s.tdm p
    else { s.tdm p with touched := true, lost := satInc (s.tdm p).lost, sdo := [], delayQ := [], gap := true } := by
  obtain ⟨u, hu, ht⟩ := (State.foldl_range_local State.tdm State.tdmTouch
    (fun t n d hd => State.tdm_updTdm_ne t n d _ hd) s p 4).2 h
  rw [State.tdmTouch_tdm, hu] at ht
  exact ht

/-- Settles O22, by what each event makes of its port. -/
theorem tdmPorts : Obligations.TdmPorts := by
  unfold Obligations.TdmPorts
  refine ⟨fun q s => ?start, fun q frame s => ?input, fun q f s own => ?output, fun q s own l => ?playback, fun s hf => ?clock⟩
  case start =>
    intro t0 hl hon hr hs hn
    refine ⟨_, (whenLive_live _ _ hl).trans (congrArg _ (if_neg ?_)), rfl, State.tdm_updTdm_same _ _ _,
      fun p hp => State.tdm_updTdm_ne _ _ _ _ hp⟩
    rw [show (s.tdm q.val).on = true from hon, show (s.tdm q.val).running = false from hr, hs,
      decide_eq_false (Nat.not_lt.mpr hn)]
    exact Bool.false_ne_true
  case input =>
    intro t0 hl hr hs
    have hrun := tdmInputFrame_next q frame s hl hr hs
    refine ⟨fun ht => ⟨_, hrun.trans (congrArg _ (if_pos ht)), rfl, State.tdm_updTdm_same _ _ _⟩, fun ht hu hn => ?_⟩
    intro c
    rw [if_neg (Bool.eq_false_iff.mp ht), State.tdmDeliver_block s q.val frame hu hn] at hrun
    refine ⟨_, hrun, rfl, ?_, fun p hp => ?_⟩
    · rw [State.tdm_updTdm_same, State.tdm_updTdm_same]
    · rw [State.tdm_updTdm_ne _ _ _ _ hp, State.tdm_updTdm_ne _ _ _ _ hp]
  case output =>
    intro t0 rec_ buf hl hr hu hs ho
    refine ⟨fun l d hm hb hrec hst htag hd => ⟨_, tdmOutputStep_complete q f s own hl hr hu hs ho l hrec d hm hb hst htag hd, rfl,
      State.tdm_updTdm_same _ _ _⟩, fun l k hrec htag hk => ⟨_, tdmOutputStep_late q f s own hl hr hu hs ho l hrec k htag hk, ?_, rfl⟩⟩
    exact State.tdm_updTdm_same s q.val _
  case playback =>
    intro t0 r hl hr hu hs ho hn hm hrec
    refine ⟨fun he => ⟨_, playbackBlock_under q s own l hl hr hu hs ho hn hm hrec he, rfl, State.tdm_updTdm_same _ _ _⟩,
      fun d hne hd => ⟨_, playbackBlock_block q s own l hl hr hu hs ho hn hm hrec d hne hd, rfl, ?_, ?_, fun i hi => ?_⟩⟩
    · rw [State.tdm_updTdm_same]
    · rw [State.tdm_updTdm_same]
      simp [upTo]
    · rw [State.tdm_updTdm_same]
      simp [upTo, List.getD_eq_getElem?_getD, hi]
      rfl
  case clock =>
    let u : State := { s with pins := { s.pins with audMclk := false }, aud := { s.aud with locked := false } }
    have hloss : exec .audMclkLoss s = .next u.tdmTouchAll := congrArg Host.Outcome.next (if_neg (not_not.mpr hf))
    refine ⟨⟨_, hloss, rfl, rfl, fun p hp => ?_⟩, congrArg Host.Outcome.next (if_neg (not_not.mpr hf))⟩
    have ht : u.tdmTouchAll.tdm p = if !(s.tdm p).running || (s.tdm p).touched then s.tdm p
        else { s.tdm p with touched := true, lost := satInc (s.tdm p).lost, sdo := [], delayQ := [], gap := true } :=
      u.tdmTouchAll_tdm p hp
    rw [ht]
    refine ⟨?_, fun hr => ?_, fun hr hn => ?_⟩
    · split <;> rfl
    · rw [hr]
      cases htch : (s.tdm p).touched with
      | false => rfl
      | true => exact htch
    · rw [hr, hn]
      exact ⟨rfl, rfl⟩

end Sys2Proof.Machine
end

section
/-! Requests of controllers that the device controller decides in their turns (R298 to R300, R693, R718, R729, R739, R826). -/
namespace Sys2Proof.Machine

/-! ### A request taken off -/

/-- The oldest request of a partition is off, and decided. -/
def State.reqTaken (s : State) (p : Nat) : State :=
  { s.updPart p (fun x => { x with mbox := x.mbox.tail }) with mboxDone := true }

/-- While no controller waits for room, no request enters. -/
theorem State.mboxPop_alone (s : State) (p : Nat) (h : ∀ c ∈ s.clustersOf p, (s.cl c).ctl.mboxWait = none) :
    s.mboxPop p = s.updPart p (fun x => { x with mbox := x.mbox.tail }) := by
  let u := s.updPart p (fun x => { x with mbox := x.mbox.tail })
  have hnone : (u.clustersOf p).find? (fun c => (u.cl c).powered && (u.cl c).ctl.mboxWait.isSome) = none := by
    rw [List.find?_eq_none]
    intro c hc
    have hw : (u.cl c).ctl.mboxWait = none := h c hc
    simp [hw]
  change (match (u.clustersOf p).find? (fun c => (u.cl c).powered && (u.cl c).ctl.mboxWait.isSome) with
    | none => u
    | some c => (u.updCtl (some c) (fun t => { t with mboxWait := none })).mboxPut c ((u.cl c).ctl.mboxWait.getD [])) = u
  rw [hnone]

theorem decideReq_taken {s : State} {p code : Nat} {m : Nat × List Byte} {rest : List (Nat × List Byte)}
    (h : Claims.decides s p code m rest) (f : Nat → List Byte → State → State) :
    s.decideReq p code f = .next (f m.1 m.2 (s.reqTaken p)) := by
  obtain ⟨hl, hrun, hturn, hdone, hbox, hcode, hwait, -⟩ := h
  have hfront : s.mboxFront p code = some m := by
    rw [State.mboxFront, if_neg (by simp [hturn, hdone, hrun]), hbox]
    exact if_pos hcode
  rw [State.decideReq, hfront, whenLive_live _ _ hl, s.mboxPop_alone p hwait]
  rfl

/-- A request has been taken off, and its controller stands. -/
structure State.tookReq (s t : State) (p cl : Nat) (rest : List (Nat × List Byte)) : Prop where
  box : (t.part p).mbox = rest
  done : t.mboxDone = true
  ctl : (t.cl cl).ctl = (s.cl cl).ctl

theorem State.reqTaken_took {s : State} {p code : Nat} {m : Nat × List Byte} {rest : List (Nat × List Byte)}
    (h : Claims.decides s p code m rest) : s.tookReq (s.reqTaken p) p m.1 rest := by
  obtain ⟨-, -, -, -, hbox, -⟩ := h
  refine ⟨?_, rfl, rfl⟩
  exact (congrArg Part.mbox (State.part_updPart_same s p (fun x => { x with mbox := x.mbox.tail }))).trans
    (congrArg List.tail hbox)

/-- An answer is posted to the controller that asked. -/
theorem State.tookReq.answered {s t : State} {p : Nat} {m : Nat × List Byte} {rest : List (Nat × List Byte)}
    (h : s.tookReq t p m.1 rest) (hw : (s.cl m.1).ctl.wfe = none) {st : Nat} (hst : st < 256) :
    Claims.answered s (t.mboxDoneWith m.1 m.2 st) p m rest st := by
  obtain ⟨hbox, hdone, hctl⟩ := h
  refine ⟨hbox, hdone, ?_⟩
  let w := eventWord 1 0 0 0 (st % 256 + 256 * (mbSerial m.2).toNat)
  have hcl : ((t.mboxDoneWith m.1 m.2 st).cl m.1).ctl = { (t.cl m.1).ctl with
      events := (t.cl m.1).ctl.events ++ [eventWord 1 0 0 0 (st % 256 + 256 * (mbSerial m.2).toNat)] } := by
    have hw' : (t.cl m.1).ctl.wfe = none := by rw [hctl, hw]
    have hrun : (t.mboxDoneWith m.1 m.2 st).cl m.1 = { t.cl m.1 with ctl := match (t.cl m.1).ctl.wfe with
        | some r => if (t.cl m.1).ctl.fenced then { (t.cl m.1).ctl with events := (t.cl m.1).ctl.events ++ [w] }
          else { ((t.cl m.1).ctl.setG r w) with wfe := none, pc := (t.cl m.1).ctl.pc + 8#64 }
        | none => { (t.cl m.1).ctl with events := (t.cl m.1).ctl.events ++ [w] } } := State.cl_updCl_same t m.1 _
    rw [hrun, hw']
  rw [hcl, hctl, Nat.mod_eq_of_lt hst]

/-- An answer changes a controller alone. -/
theorem State.mboxDoneWith_frame (s : State) (cl : Nat) (l : List Byte) (st : Nat) :
    s.mboxDoneWith cl l st = { s with clusters := (s.mboxDoneWith cl l st).clusters } := rfl

theorem State.mboxDoneWith_aud (s : State) (cl : Nat) (l : List Byte) (st : Nat) : (s.mboxDoneWith cl l st).aud = s.aud := rfl

/-! ### Cluster transitions -/

theorem maskBits_single (c : Nat) (h : c < 8) : maskBits (bitsMask [c]) = [c] := by
  have hall : ∀ c : Fin 8, maskBits (bitsMask [c.val]) = [c.val] := by decide
  exact hall ⟨c, h⟩

theorem bitsMask_single (c : Nat) : bitsMask [c] = 1#8 <<< c := by simp [bitsMask]

theorem bitsMask_ne (c : Nat) (h : c < 8) : bitsMask [c] ≠ 0#8 := by
  have hall : ∀ c : Fin 8, bitsMask [c.val] ≠ 0#8 := by decide
  exact hall ⟨c, h⟩

/-- A cluster transition asked for while the Gaffer stands is taken at once (R729). -/
theorem State.askCluster_still (s : State) (x : Trans) (h : Claims.still s) (hx : x.live = false) :
    s.askCluster x = if s.gaf.state.toNat ≥ 2 then s.answerTrans x stRefused else if s.clDone x then s.answerTrans x stOk
      else { s with gaf := { s.gaf with clTrans := [s.startCluster x] } } := by
  obtain ⟨hcur, hwait, hcl⟩ := h
  let u : State := { s with gaf := { s.gaf with clTrans := [x] } }
  have hu : s.askCluster x = u.startCls 1 := by
    have hask : s.askCluster x = State.startNext u := by
      rw [State.askCluster, hcl]
      rfl
    rw [hask, State.startNext_none u hwait]
    rfl
  have hstart : u.startableCl 0 x = true := by
    rw [State.startableCl, show u.gaf.cur = none from hcur, hx]
    rfl
  have hfind : (upTo u.gaf.clTrans.length).find? (fun i => (u.gaf.clTrans[i]?).any (fun t => u.startableCl i t)) = some 0 := by
    change [0].find? _ = some 0
    rw [List.find?_singleton]
    exact if_pos hstart
  have hself : ({ u with gaf := { u.gaf with clTrans := [] } } : State) = s := by
    rw [← hcl]
  rw [hu, State.startCls, hfind]
  refine (show _ = (if s.gaf.state.toNat ≥ 2 then
      State.answerTrans { u with gaf := { u.gaf with clTrans := [] } } x stRefused
    else if s.clDone x then State.answerTrans { u with gaf := { u.gaf with clTrans := [] } } x stOk
    else { s with gaf := { s.gaf with clTrans := [s.startCluster x] } }) from rfl).trans ?_
  rw [hself]

/-- The transition that CL_GATE or CL_UNGATE of cluster c asks for. -/
def gateTrans (p : Nat) (on : Bool) (c cl : Nat) (l : List Byte) : Trans :=
  { Trans.init with
    dev := false, target := 1, gate := if on then 0#8 else bitsMask [c], rise := if on then bitsMask [c] else 0#8, part := p
    mbox := some (mbSerial l), mboxCl := cl }

theorem State.physCl_reqTaken (s : State) (p n : Nat) : (s.reqTaken p).physCl p n = s.physCl p n := by
  have hlmap : ((s.reqTaken p).part p).lmap = (s.part p).lmap :=
    (congrArg Part.lmap (State.part_updPart_same s p (fun x => { x with mbox := x.mbox.tail })) :)
  unfold State.physCl
  rw [hlmap]
  rfl

/-- A cluster transition has nothing to do exactly when its cluster is already as it asks. -/
theorem State.clDone_gateTrans (s : State) (p : Nat) (on : Bool) (c cl : Nat) (l : List Byte) (h : c < 8) :
    s.clDone (gateTrans p on c cl l) = ((s.cl c).powered == on) := by
  have hzero : maskBits 0#8 = [] := by decide
  cases on
  · simp [State.clDone, gateTrans, maskBits_single c h, hzero]
  · simp [State.clDone, gateTrans, maskBits_single c h, hzero]

/-- CL_GATE and CL_UNGATE while the Gaffer stands (R725, R729). -/
theorem State.gateReq_still (s : State) (p : Nat) (on : Bool) (cl : Nat) (l : List Byte) (c : Nat)
    (hphys : s.physCl p (recN l 8 1) = some c) (hc : c < 8) (h : Claims.still s) :
    s.gateReq p on cl l = if s.gaf.state.toNat ≥ 2 then s.mboxDoneWith cl l stRefused
      else if (s.cl c).powered == on then s.mboxDoneWith cl l stOk
      else { s with gaf := { s.gaf with clTrans := [s.startCluster (gateTrans p on c cl l)] } } := by
  have hask : s.gateReq p on cl l = s.askCluster (gateTrans p on c cl l) := by
    rw [State.gateReq, hphys]
    rfl
  rw [hask, s.askCluster_still _ h rfl, s.clDone_gateTrans p on c cl l hc]
  rfl

/-- The transition of CL_GATE asks the cluster's controller. -/
theorem State.startCluster_gate (s : State) (p c cl : Nat) (l : List Byte) (hc : c < 8) :
    s.startCluster (gateTrans p false c cl l) = { Trans.init with
      dev := false, target := 1, gate := 1#8 <<< c, part := p, mbox := some (mbSerial l), mboxCl := cl
      asked := [(c + 1, 3#2)], startNs := s.nsW } := by
  have hblocks : s.hsBlocks 1 (bitsMask [c]) = [c + 1] := by
    rw [State.hsBlocks, maskBits_single c hc]
    rfl
  have hstart : s.startCluster (gateTrans p false c cl l) = s.beginFall (gateTrans p false c cl l) := if_neg (bitsMask_ne c hc)
  rw [hstart, State.beginFall]
  simp only [gateTrans, Bool.false_eq_true, if_false, hblocks, ← bitsMask_single c]
  rfl

theorem State.startCluster_ungate (s : State) (p c cl : Nat) (l : List Byte) (hc : c < 8) :
    s.startCluster (gateTrans p true c cl l) = { Trans.init with
      dev := false, target := 1, rise := 1#8 <<< c, part := p, mbox := some (mbSerial l), mboxCl := cl
      rising := true, plan := [16 + c] } := by
  have hstart : s.startCluster (gateTrans p true c cl l) = { gateTrans p true c cl l with
      rising := true, plan := (maskBits (bitsMask [c])).map (fun c => 16 + c) } := if_pos rfl
  rw [hstart, maskBits_single c hc, ← bitsMask_single c]
  rfl

theorem State.physCl_lt {s : State} {p l c : Nat} (h : s.physCl p l = some c) : c < 8 := by
  unfold State.physCl at h
  split at h
  · next n hn =>
    by_cases hb : (s.own p).clusters.getLsbD n = true
    · rw [if_pos hb] at h
      exact Option.some.inj h ▸ BitVec.lt_of_getLsbD hb
    · rw [if_neg hb] at h
      exact absurd h nofun
  · exact absurd h nofun

/-- The rows of CL_GATE and CL_UNGATE take their request off and decide it. -/
theorem gateRow_decides {s : State} {q : Fin 8} {m : Nat × List Byte} {rest : List (Nat × List Byte)} (on : Bool)
    (h : Claims.decides s q.val (if on then 2 else 1) m rest) :
    exec (if on then .clUngate q else .clGate q) s = .next ((s.reqTaken q.val).gateReq q.val on m.1 m.2) := by
  cases on
  · exact decideReq_taken h fun cl l s => s.gateReq q.val false cl l
  · exact decideReq_taken h fun cl l s => s.gateReq q.val true cl l

/-- Where the Gaffer stands, nothing but the answer comes of a request that is refused or has nothing to do. -/
theorem gateRow_answered {s : State} {q : Fin 8} {m : Nat × List Byte} {rest : List (Nat × List Byte)} (on : Bool)
    (h : Claims.decides s q.val (if on then 2 else 1) m rest) :
    (s.physCl q.val (recN m.2 8 1) = none ∨ (Claims.still s ∧ 2 ≤ s.gaf.state.toNat) →
      ∃ t, exec (if on then .clUngate q else .clGate q) s = .next t ∧ Claims.answered s t q.val m rest 4 ∧ t.gaf = s.gaf) ∧
    (∀ c, Claims.still s → s.physCl q.val (recN m.2 8 1) = some c → c < 8 → s.gaf.state.toNat < 2 → (s.cl c).powered = on →
      ∃ t, exec (if on then .clUngate q else .clGate q) s = .next t ∧ Claims.answered s t q.val m rest 0 ∧ t.gaf = s.gaf) := by
  have hrun := gateRow_decides on h
  have htook := State.reqTaken_took h
  have hphys := s.physCl_reqTaken q.val (recN m.2 8 1)
  obtain ⟨-, -, -, -, -, -, -, hwfe⟩ := h
  refine ⟨fun hor => ?_, fun c hs hc h8 hst hp => ?_⟩
  · refine ⟨_, hrun.trans (congrArg _ ?_), htook.answered hwfe (st := stRefused) (by decide), rfl⟩
    cases hpc : s.physCl q.val (recN m.2 8 1) with
    | none => rw [State.gateReq, hphys, hpc]
    | some c =>
      obtain hno | ⟨hstill, hst⟩ := hor
      · rw [hpc] at hno
        exact absurd hno nofun
      · exact (State.gateReq_still _ q.val on m.1 m.2 c (hphys.trans hpc) (State.physCl_lt hpc) hstill).trans (if_pos hst)
  · refine ⟨_, hrun.trans (congrArg _ ?_), htook.answered hwfe (st := stOk) (by decide), rfl⟩
    exact (State.gateReq_still _ q.val on m.1 m.2 c (hphys.trans hc) h8 hs).trans
      ((if_neg (Nat.not_le.mpr hst)).trans (if_pos (beq_iff_eq.mpr hp)))

/-! ### WAKE -/

/-- An accepted wake of a later stage, where no partition owns the feed, is reported and raises the state (R719, R721). -/
theorem State.postWake_raises (s : State) (stage target cls chan : Nat) (conf : BitVec 16) (onset unit unitDev : Nat)
    (hstage : stage ≠ 0) (hm : s.pins.mainOff = false) (hr : s.pins.resetN = true) (hown : s.feedPart = 15) (h3 : s.gaf.state ≠ 3#3)
    (hacc : (s.gaf.wakeThr.get 0x8000#16 stage).toNat ≤ conf.toNat) :
    ∃ d, s.postWake stage target cls chan conf onset unit unitDev = (s.post 8 none 0x01 1 unitDev 0 true d).raiseTo (stageState target) := by
  have hb : (stage == 0) = false := beq_false_of_ne hstage
  have hdec : decide (conf.toNat ≥ (s.gaf.wakeThr.get 0x8000#16 stage).toNat) = true := decide_eq_true hacc
  refine ⟨wakeDetail stage target true false cls chan conf.toNat onset, ?_⟩
  unfold State.postWake
  simp only [hstage, hb, hdec, hm, hr, hown, false_and, if_false, Bool.false_and, Bool.not_true, Bool.false_eq_true,
    show ¬ (15 : Nat) < 8 by decide]
  have hp := s.post_onlyPosts 8 none 0x01 1 unitDev 0 true (wakeDetail stage target true false cls chan conf.toNat onset)
  have hstate : (s.post 8 none 0x01 1 unitDev 0 true (wakeDetail stage target true false cls chan conf.toNat onset)).gaf.state =
      s.gaf.state := by rw [hp]
  rw [if_neg (by rw [hstate]; exact h3)]

/-- A wake to RUN in WATCH, while the Gaffer stands, starts the rise (R34, R736). -/
theorem State.raiseTo_run (s : State) (h : Claims.still s) (hst : s.gaf.state = 2#3) :
    s.raiseTo 0 = { s with gaf := { s.gaf with cur := some { Trans.init with
      target := 0, wake := true, rising := true, plan := s.planRun 0#8 false } } } := by
  have hcur := h.1
  have hraise : s.raiseTo 0 = s.askDevice { Trans.init with target := 0, wake := true } := by
    rw [State.raiseTo, hcur]
  have hlt : ¬ (true ∧ ¬ (0 < s.gaf.state.toNat)) := by rw [hst]; decide
  have hstart : s.startDevice { Trans.init with target := 0, wake := true } = { s with gaf := { s.gaf with cur := some { Trans.init with
      target := 0, wake := true, rising := true, plan := s.planRun 0#8 false } } } := by
    have h2 : s.gaf.state.toNat = 2 := by rw [hst]; rfl
    simp only [State.startDevice, h2]
    rfl
  rw [hraise]
  exact s.askDevice_starts _ _ h hstart h.2.2

/-- A WAKE request whose stages are out of range is refused (R718). -/
theorem State.wakeReq_refused (s : State) (p cl : Nat) (l : List Byte)
    (h : recN l 8 1 < 1 ∨ 2 < recN l 8 1 ∨ recN l 9 1 ≤ recN l 8 1 ∨ 3 < recN l 9 1) :
    s.wakeReq p cl l = s.mboxDoneWith cl l stRefused := if_pos h

/-! ### PORT_WR and PORT_RD -/

/-- A calibration register of a TDM port of the partition. -/
def Claims.calibOf (s : State) (p : Nat) (l : List Byte) : Prop :=
  recN l 8 1 = 2 ∧ recN l 12 4 % 4 = 0 ∧ 0x3000 ≤ recN l 12 4 ∧ recN l 12 4 < 0x3100 ∧ s.tdmPart ((recN l 12 4 - 0x3000) / 64) = p

theorem State.portMay_calib {s : State} {p : Nat} {l : List Byte} (h : Claims.calibOf s p l) (wr : Option W32) :
    s.portMay p (recN l 8 1) (recN l 12 4) wr = true := by
  obtain ⟨hblk, hal, hlo, hhi, hown⟩ := h
  have h1 : ¬ recN l 12 4 < 0x400 := by omega
  have h2 : ¬ (0x2000 ≤ recN l 12 4 ∧ recN l 12 4 < 0x2200) := by omega
  unfold State.portMay
  rw [hblk, hal]
  simp only [h1, h2, if_false, if_pos (And.intro hlo hhi), hown, beq_self_eq_true, Bool.and_self]

/-- A write of a calibration register reaches the AUD block, and only disarms the check of the configuration besides. -/
theorem State.regWr_calib (s : State) (ia : Nat) (v : W32) (hal : ia % 4 = 0) (hlo : 0x3000 ≤ ia) (hhi : ia < 0x3100) :
    s.regWr .devCtl (pairId 4 ia) v = s.calibWr ((ia - 0x3000) / 4) v ∨
      s.regWr .devCtl (pairId 4 ia) v = s.coverTouch.calibWr ((ia - 0x3000) / 4) v := by
  have hid : pairId 4 ia = 2 ^ 24 * 5 + ia := rfl
  have hpair : idPair (pairId 4 ia) = some 4 := idPair_pairId 4 ia (by omega)
  have haddr : idAddr (pairId 4 ia) = ia := by rw [idAddr, hid]; omega
  have hval : dangerVal (pairId 4 ia) = false := by
    rw [dangerVal, hpair, haddr]
    exact beq_false_of_ne (by omega)
  have hchk : dangerChk (pairId 4 ia) = none := by
    have hpair' : idPair (pairId 4 ia - 4) = some 4 := by
      rw [show pairId 4 ia - 4 = pairId 4 (ia - 4) by rw [hid, pairId]; omega]
      exact idPair_pairId 4 _ (by omega)
    have haddr' : idAddr (pairId 4 ia - 4) = ia - 4 := by rw [idAddr, hid]; omega
    have hval' : dangerVal (pairId 4 ia - 4) = false := by
      rw [dangerVal, hpair', haddr']
      exact beq_false_of_ne (by omega)
    rw [dangerChk, hpair]
    simp only [Nat.reduceLeDiff, decide_false, Bool.false_and, Bool.false_eq_true, if_false, hval']
  have haud (t : State) : t.audWr ia v = t.calibWr ((ia - 0x3000) / 4) v := by
    rw [State.audWr, if_neg (by omega), if_neg (by omega), if_neg (by omega), if_pos (by omega)]
  rw [State.regWr, if_neg (by simp [Requester.reaches]), if_neg (by simp [hval]), hchk]
  dsimp only
  rw [hpair, haddr]
  by_cases hc : coverMask (some 4) ia = 0
  · rw [if_pos hc]
    exact .inl (haud s)
  · rw [if_neg hc]
    exact .inr (haud s.coverTouch)

/-- A calibration register takes the value written where its delay is in range, and no other register differs (R707). -/
theorem State.calibWr_calib (s : State) (i n : Nat) (hi : i < 64) :
    (∀ j, j ≠ i → (s.calibWr i (BitVec.ofNat 32 n)).aud.calib.get 0x4000#32 j = s.aud.calib.get 0x4000#32 j) ∧
      (s.calibWr i (BitVec.ofNat 32 n)).aud.calib.get 0x4000#32 i =
        if bitsAt n 16 8 ≤ 31 then BitVec.ofNat 32 n &&& 0x80FFFFFF#32 else s.aud.calib.get 0x4000#32 i := by
  let v := BitVec.ofNat 32 n &&& 0x80FFFFFF#32
  have hbits : bitsAt v.toNat 16 8 = bitsAt n 16 8 := by
    have hmask : ∀ i, i < 8 → Nat.testBit 0x80FFFFFF (16 + i) = true := by decide
    have hv : v.toNat = (n % 2 ^ 32) &&& 0x80FFFFFF := rfl
    refine Nat.eq_of_testBit_eq fun i => ?_
    rw [bitsAt, bitsAt, Nat.testBit_mod_two_pow, Nat.testBit_mod_two_pow, Nat.testBit_shiftRight, Nat.testBit_shiftRight, hv, Nat.testBit_and,
      Nat.testBit_mod_two_pow]
    by_cases hi8 : i < 8
    · rw [hmask i hi8, decide_eq_true (show 16 + i < 32 by omega), Bool.true_and, Bool.and_true]
    · rw [decide_eq_false hi8, Bool.false_and, Bool.false_and]
  have hcal : (s.calibWr i (BitVec.ofNat 32 n)).aud.calib = if i < 64 ∧ bitsAt v.toNat 16 8 > 31 then s.aud.calib
      else if v = 0x4000#32 then s.aud.calib.erase i else s.aud.calib.put i v := rfl
  rw [hcal, hbits]
  by_cases hok : bitsAt n 16 8 ≤ 31
  · rw [if_neg (by omega), if_pos hok]
    by_cases hz : v = 0x4000#32
    · rw [if_pos hz]
      refine ⟨fun j hj => congrArg (Option.getD · 0x4000#32) (SMap.find_erase_ne _ _ _ hj), ?_⟩
      exact (congrArg (Option.getD · 0x4000#32) (SMap.find_erase_same _ _)).trans hz.symm
    · rw [if_neg hz]
      exact ⟨fun j hj => SMap.get_put_ne _ _ _ _ _ hj, SMap.get_put_same _ _ _ _⟩
  · rw [if_pos ⟨hi, by omega⟩, if_neg hok]
    exact ⟨fun _ _ => rfl, rfl⟩

/-- A write of a calibration register leaves the mailboxes and the controllers. -/
theorem State.tookReq.calibWr {s t : State} {p cl : Nat} {rest : List (Nat × List Byte)} (h : s.tookReq t p cl rest) (i : Nat) (v : W32) :
    s.tookReq (t.calibWr i v) p cl rest := by
  have hparts : (t.calibWr i v).parts = t.parts := rfl
  have hclusters : (t.calibWr i v).clusters = t.clusters := rfl
  exact ⟨(congrArg Part.mbox (State.part_congr hparts p)).trans h.box, h.done,
    (congrArg Cluster.ctl (State.cl_congr hclusters cl)).trans h.ctl⟩

theorem leVal_leBytes : ∀ (n v : Nat), v < 256 ^ n → leVal (leBytes n v) = v
  | 0, v, h => by
    rw [pow_zero] at h
    rw [leBytes, leVal]
    omega
  | n + 1, v, h => by
    rw [leBytes, leVal, leVal_leBytes n (v / 256) (by rw [pow_succ] at h; omega), BitVec.toNat_ofNat]
    omega

/-- A word of four bytes stored reads back. -/
theorem State.rdVal_store (s : State) (a : Nat) (v : W32) : (s.store a (leBytes 4 v.toNat)).rdVal a 4 = v.toNat := by
  have h := s.rdN_store a (leBytes 4 v.toNat)
  rw [leBytes_length] at h
  rw [State.rdVal, h, leVal_leBytes 4 _ v.isLt]

/-! ### Turns -/

/-- The oldest request of a partition decided at the end of its turn. -/
theorem State.decideFront_front {s : State} {p : Nat} {m : Nat × List Byte} {rest : List (Nat × List Byte)}
    (hbox : (s.part p).mbox = m :: rest) (hdone : s.mboxDone = false) (hw : ∀ c ∈ s.clustersOf p, (s.cl c).ctl.mboxWait = none) :
    s.decideFront p = (s.reqTaken p).decideCode p m.1 m.2 := by
  rw [State.decideFront, hbox]
  dsimp only
  rw [if_neg (by rw [hdone]; exact Bool.false_ne_true), s.mboxPop_alone p hw]
  rfl

/-- The next turn, once the request of the turn that ends is decided. -/
theorem mboxTurn_next {s u : State} {p : Nat} (hl : s.live = true) (hb : s.boot.running = true) (hu : s.decideFront s.mboxTurn = u)
    (hp : (u.mboxTurn + 1) % 8 = p) :
    exec .mboxTurn s = .next (match (u.part p).mbox with
      | m :: _ => if 1 ≤ mbCode m.2 ∧ mbCode m.2 ≤ 6 then { u with mboxTurn := p, mboxDone := false }
        else State.decideFront { u with mboxTurn := p, mboxDone := false } p
      | [] => { u with mboxTurn := p, mboxDone := false }) := by
  subst hu hp
  exact (whenLive_live _ _ hl).trans (congrArg _ (if_neg (by simp [hb])))

/-- A turn whose request is decided, or that has none, ends without another decision. -/
theorem State.decideFront_none {s : State} {p : Nat} (h : s.mboxDone = true ∨ (s.part p).mbox = []) : s.decideFront p = s := by
  unfold State.decideFront
  split
  · next m l hm =>
    obtain h | h := h
    · exact if_pos h
    · rw [hm] at h
      exact absurd h nofun
  · rfl

/-- A request of a code that is not listed is refused (R299). -/
theorem State.decideCode_unlisted (s : State) (p cl : Nat) (l : List Byte) (h : mbCode l = 0 ∨ 6 < mbCode l) :
    s.decideCode p cl l = s.mboxDoneWith cl l stRefused := by
  unfold State.decideCode
  split
  case h_7 => rfl
  all_goals omega

section
variable {q : Fin 8} {s : State} {m : Nat × List Byte} {rest : List (Nat × List Byte)}

/-- A WAKE request to RUN, accepted in WATCH while the Gaffer stands (R718, R719). -/
theorem wake_raises (h : Claims.decides s q.val 3 m rest) (hi : Claims.still s) (h1 : recN m.2 8 1 = 1) (h2 : recN m.2 9 1 = 3)
    (hst : s.gaf.state = 2#3) (hown : s.feedPart = 15) (hm : s.pins.mainOff = false)
    (hthr : (s.gaf.wakeThr.get 0x8000#16 1).toNat ≤ recN m.2 12 2) :
    ∃ t, exec (.wake q) s = .next t ∧ Claims.answered s t q.val m rest 0 ∧ t.gaf.state = s.gaf.state ∧
      t.gaf.cur = some { Trans.init with target := 0, wake := true, rising := true, plan := s.planRun 0#8 false } := by
  have htook := State.reqTaken_took h
  have hreset : s.pins.resetN = true := by
    have hl := h.1
    rw [State.live] at hl
    exact (Bool.and_eq_true_iff.mp hl).2
  have hconf : (BitVec.ofNat 16 (recN m.2 12 2)).toNat = recN m.2 12 2 := by
    rw [BitVec.toNat_ofNat]
    exact Nat.mod_eq_of_lt (recN_lt m.2 12 2)
  have hrun : exec (.wake q) s = .next ((s.reqTaken q.val).wakeReq q.val m.1 m.2) := decideReq_taken h fun cl l s => s.wakeReq q.val cl l
  let u := s.reqTaken q.val
  obtain ⟨d, hpost⟩ := u.postWake_raises 1 3 (recN m.2 10 1 % 16) 0 (BitVec.ofNat 16 (recN m.2 12 2)) (recN m.2 16 6)
    (8 * ((u.logCl q.val m.1).getD 0)) (9 * m.1) (by decide) hm hreset hown (by rw [show u.gaf.state = 2#3 from hst]; decide)
    (by rw [hconf]; exact hthr)
  have hreq : u.wakeReq q.val m.1 m.2 = ((u.post 8 none 0x01 1 (9 * m.1) 0 true d).raiseTo 0).mboxDoneWith m.1 m.2 stOk := by
    rw [State.wakeReq, if_neg (by omega), h1, h2]
    exact congrArg (fun t : State => t.mboxDoneWith m.1 m.2 stOk) hpost
  have hposts := u.post_onlyPosts 8 none 0x01 1 (9 * m.1) 0 true d
  generalize u.post 8 none 0x01 1 (9 * m.1) 0 true d = v at hreq hposts
  have hgaf : v.gaf = s.gaf := by rw [hposts]; rfl
  have hplan : v.planRun 0#8 false = s.planRun 0#8 false := by rw [hposts]; rfl
  rw [v.raiseTo_run (by rw [Claims.still, hgaf]; exact hi) (by rw [hgaf]; exact hst), hplan] at hreq
  refine ⟨_, hrun.trans (congrArg _ hreq), State.tookReq.answered ⟨?_, ?_, ?_⟩ h.2.2.2.2.2.2.2 (by decide), ?_, rfl⟩
  · exact (congrArg Part.mbox (hposts.part q.val) :).trans htook.box
  · rw [hposts]
    rfl
  · exact (congrArg Cluster.ctl (State.cl_congr hposts.clusters m.1)).trans htook.ctl
  · exact (congrArg Gaf.state hgaf :)

/-- A BP_ARM request of a core of a plain partition (R826). -/
theorem bpArm_arms {k : Nat} (h : Claims.decides s q.val 4 m rest) (hv : recN m.2 8 1 < 64) (hn : recN m.2 9 1 ≤ 7)
    (hconf : s.conf q.val = false) (hk : s.logKey q.val (recN m.2 8 1 / 8 % 8) (recN m.2 8 1 % 8) = some k) :
    ∃ t, exec (.bpArm q) s = .next t ∧ Claims.answered s t q.val m rest 0 ∧
      (((t.core k).bp.get Bp.init (recN m.2 9 1)).ctl) = BitVec.ofNat 32 (recN m.2 12 4) ∧
      (((t.core k).bp.get Bp.init (recN m.2 9 1)).lo) = BitVec.ofNat 32 (recN m.2 16 8) ∧
      (∀ n, n ≠ recN m.2 9 1 → (t.core k).bp.get Bp.init n = (s.core k).bp.get Bp.init n) := by
  have htook := State.reqTaken_took h
  have hrun : exec (.bpArm q) s = .next ((s.reqTaken q.val).bpReq q.val m.1 m.2) := decideReq_taken h fun cl l s => s.bpReq q.val cl l
  have hkey : (s.reqTaken q.val).logKey q.val (recN m.2 8 1 / 8 % 8) (recN m.2 8 1 % 8) = some k := by
    rw [← hk, State.logKey, s.physCl_reqTaken]
    rfl
  have hreq : (s.reqTaken q.val).bpReq q.val m.1 m.2 = ((s.reqTaken q.val).updCore k (fun x => { x with bp := x.bp.upd Bp.init (recN m.2 9 1) (fun b =>
      ((b.put 0 (BitVec.ofNat 32 (recN m.2 12 4))).put 4 (BitVec.ofNat 32 (recN m.2 16 8))).put 8
        (BitVec.ofNat 32 (recN m.2 16 8 / 2 ^ 32))) })).mboxDoneWith m.1 m.2 stOk := by
    rw [State.bpReq, hkey]
    refine if_neg ?_
    rw [show (s.reqTaken q.val).conf q.val = false from hconf]
    rintro (hbad | hbad | hbad)
    · omega
    · omega
    · exact absurd hbad Bool.false_ne_true
  let f (b : Bp) : Bp := ((b.put 0 (BitVec.ofNat 32 (recN m.2 12 4))).put 4 (BitVec.ofNat 32 (recN m.2 16 8))).put 8
    (BitVec.ofNat 32 (recN m.2 16 8 / 2 ^ 32))
  have hbp : (((s.reqTaken q.val).updCore k (fun x => { x with bp := x.bp.upd Bp.init (recN m.2 9 1) f })).core k).bp =
      (s.core k).bp.upd Bp.init (recN m.2 9 1) f :=
    congrArg Core.bp (State.core_updCore_same (s.reqTaken q.val) k (fun x => { x with bp := x.bp.upd Bp.init (recN m.2 9 1) f }))
  refine ⟨_, hrun.trans (congrArg _ hreq), State.tookReq.answered ⟨htook.box, rfl, htook.ctl⟩ h.2.2.2.2.2.2.2 (by decide), ?_, ?_,
    fun n hne => ?_⟩
  · exact (congrArg (fun b : SMap Bp => (b.get Bp.init (recN m.2 9 1)).ctl) hbp).trans (congrArg Bp.ctl (SMap.get_upd_same _ _ _ f))
  · exact (congrArg (fun b : SMap Bp => (b.get Bp.init (recN m.2 9 1)).lo) hbp).trans (congrArg Bp.lo (SMap.get_upd_same _ _ _ f))
  · exact (congrArg (fun b : SMap Bp => b.get Bp.init n) hbp).trans (SMap.get_upd_ne _ _ _ _ _ hne)

/-- A PORT_WR request of a calibration register (R693, R707). -/
theorem portWr_calib (h : Claims.decides s q.val 5 m rest) (hcal : Claims.calibOf s q.val m.2) :
    ∃ t, exec (.portWr q) s = .next t ∧ Claims.answered s t q.val m rest 0 ∧
      t.aud.calib.get 0x4000#32 ((recN m.2 12 4 - 0x3000) / 4) =
        (if bitsAt (recN m.2 16 4) 16 8 ≤ 31 then BitVec.ofNat 32 (recN m.2 16 4) &&& 0x80FFFFFF#32
         else s.aud.calib.get 0x4000#32 ((recN m.2 12 4 - 0x3000) / 4)) ∧
      (∀ n, n ≠ (recN m.2 12 4 - 0x3000) / 4 → t.aud.calib.get 0x4000#32 n = s.aud.calib.get 0x4000#32 n) := by
  have hmay : (s.reqTaken q.val).portMay q.val (recN m.2 8 1) (recN m.2 12 4) (some (BitVec.ofNat 32 (recN m.2 16 4))) = true :=
    State.portMay_calib hcal _
  obtain ⟨hblk, hal, hlo, hhi, -⟩ := hcal
  have htook := State.reqTaken_took h
  have hrun : exec (.portWr q) s = .next ((s.reqTaken q.val).portWrReq q.val m.1 m.2) := decideReq_taken h fun cl l s => s.portWrReq q.val cl l
  have hreq : (s.reqTaken q.val).portWrReq q.val m.1 m.2 =
      ((s.reqTaken q.val).regWr .devCtl (pairId 4 (recN m.2 12 4)) (BitVec.ofNat 32 (recN m.2 16 4))).mboxDoneWith m.1 m.2 stOk := by
    rw [State.portWrReq, if_neg (by rw [hmay]; decide), hblk]
  have hbase (t : State) := t.calibWr_calib ((recN m.2 12 4 - 0x3000) / 4) (recN m.2 16 4) (by omega)
  obtain hw | hw := (s.reqTaken q.val).regWr_calib (recN m.2 12 4) (BitVec.ofNat 32 (recN m.2 16 4)) hal hlo hhi
  · rw [hw] at hreq
    obtain ⟨hothers, hown⟩ := hbase (s.reqTaken q.val)
    rw [show (s.reqTaken q.val).aud = s.aud from rfl] at hown
    refine ⟨_, hrun.trans (congrArg _ hreq), (htook.calibWr _ _).answered h.2.2.2.2.2.2.2 (by decide), ?_⟩
    rw [State.mboxDoneWith_aud]
    exact ⟨hown, hothers⟩
  · rw [hw] at hreq
    obtain ⟨hothers, hown⟩ := hbase (s.reqTaken q.val).coverTouch
    rw [show (s.reqTaken q.val).coverTouch.aud = s.aud from rfl] at hown
    have hcover : s.tookReq (s.reqTaken q.val).coverTouch q.val m.1 rest := ⟨htook.box, rfl, htook.ctl⟩
    refine ⟨_, hrun.trans (congrArg _ hreq), (hcover.calibWr _ _).answered h.2.2.2.2.2.2.2 (by decide), ?_⟩
    rw [State.mboxDoneWith_aud]
    exact ⟨hown, hothers⟩

/-- A PORT_RD request of a calibration register, whose reply word lies in a store of the partition (R693). -/
theorem portRd_calib {c o : Nat} (h : Claims.decides s q.val 6 m rest) (hcal : Claims.calibOf s q.val m.2)
    (hreg : regionOf (recN m.2 24 8) = .cluster c o) (hcl : s.ownerCl c = some q.val) (ha : recN m.2 24 8 % 4 = 0) :
    ∃ t, exec (.portRd q) s = .next t ∧ Claims.answered s t q.val m rest 0 ∧
      t.rdVal (recN m.2 24 8) 4 = (s.aud.calib.get 0x4000#32 ((recN m.2 12 4 - 0x3000) / 4)).toNat ∧
      s.sameOutside t (recN m.2 24 8) 4 := by
  have hmay : (s.reqTaken q.val).portMay q.val (recN m.2 8 1) (recN m.2 12 4) none = true := State.portMay_calib hcal _
  obtain ⟨hblk, hal, hlo, hhi, -⟩ := hcal
  have htook := State.reqTaken_took h
  have hrun : exec (.portRd q) s = .next ((s.reqTaken q.val).portRdReq q.val m.1 m.2) := decideReq_taken h fun cl l s => s.portRdReq q.val cl l
  let v := s.aud.calib.get 0x4000#32 ((recN m.2 12 4 - 0x3000) / 4)
  have haud : (s.reqTaken q.val).audRd (recN m.2 12 4) = v := by
    rw [State.audRd, if_neg (by omega), if_neg (by omega), if_neg (by omega), if_neg (by omega), if_pos (by omega)]
    rfl
  have hreq : (s.reqTaken q.val).portRdReq q.val m.1 m.2 = ((s.reqTaken q.val).store (recN m.2 24 8) (leBytes 4 v.toNat)).mboxDoneWith m.1 m.2 stOk := by
    have hhome : (s.ownerCl c == some q.val && recN m.2 24 8 % 4 == 0) = true := by rw [hcl, ha, BEq.rfl]; rfl
    rw [State.portRdReq]
    dsimp only
    rw [hmay, hreg, hblk]
    dsimp only
    refine (if_neg ?_).trans ?_
    · rw [show ((s.reqTaken q.val).ownerCl c == some q.val && recN m.2 24 8 % 4 == 0) = true from hhome]
      decide
    exact congrArg (fun x : W32 => ((s.reqTaken q.val).store (recN m.2 24 8) (leBytes 4 x.toNat)).mboxDoneWith m.1 m.2 stOk) haud
  have hmem := (s.reqTaken q.val).store_onlyMem (recN m.2 24 8) (leBytes 4 v.toNat)
  have hrd : (((s.reqTaken q.val).store (recN m.2 24 8) (leBytes 4 v.toNat)).mboxDoneWith m.1 m.2 stOk).rd =
      ((s.reqTaken q.val).store (recN m.2 24 8) (leBytes 4 v.toNat)).rd := State.rd_congr rfl rfl rfl rfl
  have hval := (s.reqTaken q.val).rdVal_store (recN m.2 24 8) v
  have hlen := leBytes_length 4 v.toNat
  have hout := fun x hx => (s.reqTaken q.val).rd_store_out (recN m.2 24 8) x (leBytes 4 v.toNat) (hlen.symm ▸ hx)
  refine ⟨_, hrun.trans (congrArg _ hreq), State.tookReq.answered ⟨?_, ?_, ?_⟩ h.2.2.2.2.2.2.2 (by decide), ?_, fun x hx => ?_⟩
  · rw [hmem]
    exact htook.box
  · rw [hmem]
    rfl
  · rw [hmem]
    exact htook.ctl
  · rw [State.rdVal, State.rdN_eq, hrd, ← State.rdN_eq, ← State.rdVal, hval]
  · rw [hrd, hout x hx]
    exact congrFun (State.rd_congr rfl rfl rfl rfl) x

/-- PORT_WR and PORT_RD of no block that a partition has are refused. -/
theorem portRows_refused : ∀ r ∈ ([(.portWr, 5), (.portRd, 6)] : List ((Fin 8 → Instr) × Nat)), Claims.decides s q.val r.2 m rest →
    3 ≤ recN m.2 8 1 → ∃ t, exec (r.1 q) s = .next t ∧ Claims.answered s t q.val m rest 4 ∧ t.mem = s.mem := by
  have hno (t : State) (wr : Option W32) (h3 : 3 ≤ recN m.2 8 1) : t.portMay q.val (recN m.2 8 1) (recN m.2 12 4) wr = false := by
    unfold State.portMay
    split
    case h_4 => exact Bool.and_false _
    all_goals omega
  simp only [List.forall_mem_cons, List.not_mem_nil, false_implies, implies_true, and_true]
  refine ⟨fun h h3 => ?_, fun h h3 => ?_⟩
  · have hrun : exec (.portWr q) s = .next ((s.reqTaken q.val).portWrReq q.val m.1 m.2) := decideReq_taken h fun cl l s => s.portWrReq q.val cl l
    rw [State.portWrReq, if_pos (by rw [hno _ _ h3]; rfl)] at hrun
    exact ⟨_, hrun, (State.reqTaken_took h).answered h.2.2.2.2.2.2.2 (by decide), rfl⟩
  · have hrun : exec (.portRd q) s = .next ((s.reqTaken q.val).portRdReq q.val m.1 m.2) := decideReq_taken h fun cl l s => s.portRdReq q.val cl l
    rw [State.portRdReq, if_pos (by rw [hno _ _ h3]; exact Bool.or_true _)] at hrun
    exact ⟨_, hrun, (State.reqTaken_took h).answered h.2.2.2.2.2.2.2 (by decide), rfl⟩

/-- The turn passes to a partition (R299, R300). -/
theorem mboxTurn_passes (hl : s.live = true) (hb : s.boot.running = true) (hturn : (s.mboxTurn + 1) % 8 = q.val)
    (hdone : s.mboxDone = true ∨ (s.part s.mboxTurn).mbox = []) :
    ((s.part q.val).mbox = [] → exec .mboxTurn s = .next { s with mboxTurn := q.val, mboxDone := false }) ∧
    ((s.part q.val).mbox = m :: rest → 1 ≤ mbCode m.2 → mbCode m.2 ≤ 6 →
      exec .mboxTurn s = .next { s with mboxTurn := q.val, mboxDone := false }) ∧
    ((s.part q.val).mbox = m :: rest → (mbCode m.2 = 0 ∨ 6 < mbCode m.2) →
      (∀ c ∈ s.clustersOf q.val, (s.cl c).ctl.mboxWait = none) → (s.cl m.1).ctl.wfe = none →
      ∃ t, exec .mboxTurn s = .next t ∧ Claims.answered s t q.val m rest 4 ∧ t.mboxTurn = q.val) := by
  have hrun := mboxTurn_next hl hb (State.decideFront_none hdone) hturn
  refine ⟨fun hbox => ?_, fun hbox hlo hhi => ?_, fun hbox hcode hw hwfe => ?_⟩
  · rw [hbox] at hrun
    exact hrun
  · rw [hbox] at hrun
    exact hrun.trans (congrArg _ (if_pos ⟨hlo, hhi⟩))
  · let v : State := { s with mboxTurn := q.val, mboxDone := false }
    rw [hbox] at hrun
    have hfront := State.decideFront_front (s := v) (p := q.val) hbox rfl hw
    rw [State.decideCode_unlisted _ q.val m.1 m.2 hcode] at hfront
    have hbox' : ((v.reqTaken q.val).part q.val).mbox = rest :=
      (congrArg Part.mbox (State.part_updPart_same v q.val (fun x => { x with mbox := x.mbox.tail })) :).trans (congrArg List.tail hbox)
    exact ⟨_, hrun.trans (congrArg _ ((if_neg (by rintro ⟨h1, h6⟩; omega)).trans hfront)), State.tookReq.answered ⟨hbox', rfl, rfl⟩ hwfe (by decide), rfl⟩

/-- A request that its turn has left undecided is decided as the turn ends (log 58). -/
theorem mboxTurn_decides (h : Claims.decides s q.val 3 m rest)
    (hbad : recN m.2 8 1 < 1 ∨ 2 < recN m.2 8 1 ∨ recN m.2 9 1 ≤ recN m.2 8 1 ∨ 3 < recN m.2 9 1)
    (hnext : (s.part ((q.val + 1) % 8)).mbox = []) :
    ∃ t, exec .mboxTurn s = .next t ∧ (t.part q.val).mbox = rest ∧ t.mboxTurn = (q.val + 1) % 8 ∧ t.mboxDone = false ∧
      (t.cl m.1).ctl.events = (s.cl m.1).ctl.events ++ [eventWord 1 0 0 0 (4 + 256 * (mbSerial m.2).toNat)] ∧ t.gaf = s.gaf := by
  have htook := State.reqTaken_took h
  obtain ⟨hl, hb, hturn, hdone, hbox, hcode, hw, hwfe⟩ := h
  let w := (s.reqTaken q.val).mboxDoneWith m.1 m.2 stRefused
  have hans : Claims.answered s w q.val m rest 4 := htook.answered hwfe (by decide)
  have hfront : s.decideFront s.mboxTurn = w := by
    rw [hturn, State.decideFront_front hbox hdone hw, State.decideCode, hcode]
    exact State.wakeReq_refused _ q.val m.1 m.2 hbad
  have hrun := mboxTurn_next hl hb hfront (congrArg (fun n => (n + 1) % 8) (show w.mboxTurn = q.val from hturn))
  have hne : (q.val + 1) % 8 ≠ q.val := by
    have := q.isLt
    omega
  have hother : (w.part ((q.val + 1) % 8)).mbox = [] :=
    (congrArg Part.mbox (State.part_updPart_ne s q.val _ (fun x => { x with mbox := x.mbox.tail }) hne) :).trans hnext
  rw [hother] at hrun
  exact ⟨_, hrun, hans.1, rfl, rfl, hans.2.2, rfl⟩

end

/-- Settles O14, by the action of each code on the state that the request has left. -/
theorem supplierDecides : Obligations.SupplierDecides := by
  unfold Obligations.SupplierDecides
  intro q s m rest p l idle gates
  refine ⟨fun c h hi hc h8 hst hp => ?gate, fun c h hi hc h8 hst hp => ?ungate, fun on h => gateRow_answered on h,
    fun h hi h1 h2 hst hown hm hthr _ _ => wake_raises h hi h1 h2 hst hown hm hthr, fun h hbad => ?nowake, fun k h hv hn hconf hk => bpArm_arms h hv hn hconf hk,
    fun h hblk hal hlo hhi hown => portWr_calib h ⟨hblk, hal, hlo, hhi, hown⟩, 
    fun c o h hblk hal hlo hhi hown hreg hcl ha => portRd_calib h ⟨hblk, hal, hlo, hhi, hown⟩ hreg hcl ha, portRows_refused,
    fun hl hb hturn hdone => mboxTurn_passes hl hb hturn hdone, fun h hbad hnext => mboxTurn_decides h hbad hnext⟩
  case gate =>
    have hbox := (State.reqTaken_took h).box
    refine ⟨_, (gateRow_decides false h).trans (congrArg _ ((State.gateReq_still _ p false m.1 l c
      ((s.physCl_reqTaken p _).trans hc) h8 hi).trans ((if_neg (Nat.not_le.mpr hst)).trans (if_neg ?_)))), hbox, rfl, ?_, hp⟩
    · rw [show ((s.reqTaken p).cl c).powered = true from hp]
      decide
    · exact congrArg (fun x : Trans => [x]) (State.startCluster_gate _ p c m.1 l h8)
  case ungate =>
    have hbox := (State.reqTaken_took h).box
    refine ⟨_, (gateRow_decides true h).trans (congrArg _ ((State.gateReq_still _ p true m.1 l c
      ((s.physCl_reqTaken p _).trans hc) h8 hi).trans ((if_neg (Nat.not_le.mpr hst)).trans (if_neg ?_)))), hbox, rfl, ?_⟩
    · rw [show ((s.reqTaken p).cl c).powered = false from hp]
      decide
    · exact congrArg (fun x : Trans => [x]) (State.startCluster_ungate _ p c m.1 l h8)
  case nowake =>
    have htook := State.reqTaken_took h
    have hrun : exec (.wake q) s = .next ((s.reqTaken p).wakeReq p m.1 m.2) := decideReq_taken h fun cl l s => s.wakeReq q.val cl l
    rw [State.wakeReq_refused _ p m.1 m.2 hbad] at hrun
    exact ⟨_, hrun, htook.answered h.2.2.2.2.2.2.2 (by decide), rfl⟩

end Sys2Proof.Machine
end

section
/-! Fabric requests at their destination, and responses at their source (R533, R550, R558 to R560, R564, R574, R575). -/
namespace Sys2Proof.Machine

/-! ### Accesses of the fabric and of the host to memory -/

/-- Nothing but the logs of stacks and the counts of partitions differs. -/
def State.onlyNotes (s t : State) : Prop := t = { s with hbm := t.hbm, parts := t.parts }

/-- Nothing but memory, the logs of stacks, and what the part keeps of its cores and partitions differs. -/
def State.onlyHost (s t : State) : Prop :=
  t = { s with
    mem := t.mem, cipher := t.cipher, badWords := t.badWords, poison := t.poison, cores := t.cores, parts := t.parts
    hbm := t.hbm }

theorem State.onlyNotes.host {s t : State} (h : s.onlyNotes t) : s.onlyHost t := by
  unfold State.onlyNotes State.onlyHost at *
  rw [h]

theorem State.onlyMem.host {s t : State} (h : s.onlyMem t) : s.onlyHost t := by
  unfold State.onlyMem State.onlyHost at *
  rw [h]

theorem State.keptBook.host {s t : State} (h : s.keptBook t) : s.onlyHost t := by
  have heq := h.frame
  unfold State.onlyHost
  rw [heq]

theorem State.onlyHost.trans {s t u : State} (h : s.onlyHost t) (g : t.onlyHost u) : s.onlyHost u := by
  unfold State.onlyHost at *
  rw [g, h]

theorem State.onlyHost.dev {s t : State} (h : s.onlyHost t) : t.dev = s.dev := by rw [h]
theorem State.onlyHost.links {s t : State} (h : s.onlyHost t) : t.links = s.links := by rw [h]
theorem State.onlyHost.clusters {s t : State} (h : s.onlyHost t) : t.clusters = s.clusters := by rw [h]
theorem State.onlyHost.sec {s t : State} (h : s.onlyHost t) : t.sec = s.sec := by rw [h]
theorem State.onlyHost.usb {s t : State} (h : s.onlyHost t) : t.usb = s.usb := by rw [h]

theorem State.logUe_onlyNotes (s : State) (a : Nat) (f : Bool) : s.onlyNotes (s.logUe a f) := by
  unfold State.logUe
  split
  · split
    · rfl
    · split <;> rfl
  · rfl

theorem State.hostNote_onlyNotes (s : State) (p va c : Nat) : s.onlyNotes (s.hostNote p va c) := by
  unfold State.hostNote
  split
  · split
    · exact s.logUe_onlyNotes _ _
    · rfl
  · unfold State.noteOutside
    split <;> rfl

theorem State.hostMiss_onlyNotes (s : State) (p va n : Nat) (e : MemErr) : s.onlyNotes (s.hostMiss p va n e) := by
  unfold State.hostMiss State.logUeV
  split
  · exact s.hostNote_onlyNotes _ _ _
  · split
    · exact s.logUe_onlyNotes _ _
    · rfl

/-- Bytes written for the host or the fabric, and noted for the runs that have read them. -/
theorem State.hostPut_onlyHost (s : State) (p va n : Nat) (l : List Byte) :
    s.onlyHost (((s.vwr p va l).taintQueues p va n).noteChangeV p none va n) :=
  ((s.vwr_onlyMem p va l).host.trans (State.taintQueues_keptBook _ p va n).host).trans (State.noteChangeV_keptBook _ p none va n).host

theorem State.hostWrite_onlyHost (s : State) (p va : Nat) (l : List Byte) : s.onlyHost (s.hostWrite p va l).1 := by
  refine List.foldlRecOn (motive := fun t : State × Option Nat => s.onlyHost t.1) _ _ rfl fun t ht a _ => ht.trans ?_
  dsimp only
  split
  · rfl
  · split
    · exact (State.hostNote_onlyNotes _ _ _ _).host
    · rfl
    · exact State.hostPut_onlyHost _ _ _ _ _

theorem State.conf_congr {s t : State} (h : t.dev = s.dev) (p : Nat) : t.conf p = s.conf p := by
  simp only [State.conf, State.own, h]

theorem State.exists?_congr {s t : State} (h : t.dev = s.dev) (p : Nat) : t.exists? p = s.exists? p := by
  simp only [State.exists?, State.own, h]

theorem State.route_dev {s t : State} (h : t.dev = s.dev) (n : Nat) : t.route n = s.route n := State.route_congr h n

theorem State.dateline_congr {s t : State} (h : t.dev = s.dev) (i o : Nat) (b : Bool) : t.dateline i o b = s.dateline i o b := by
  simp only [State.dateline, State.node, State.ringSize, h]

/-! ### Answers -/

/-- A packet of this device in a class, queued at a link. -/
theorem State.enqueue_own (s : State) (o : Nat) (k : Packet) (h : packetClass k ≠ 0) :
    s.enqueue o 7 k = s.updLink o (fun x => { x with txq := x.txq ++ [Claims.leaves k] }) := by
  unfold State.enqueue
  dsimp only
  rw [if_neg h]
  rfl

/-- A packet of this device leaves by the route to its destination. -/
theorem State.sendPacket_routed {s : State} {k : Packet} {o : Nat} (hq : s.dev.quar = false) (hp : k.pair = false)
    (hr : s.route k.dst.toNat = some (some o)) (hc : packetClass { k with dl := s.dateline 7 o k.dl } ≠ 0) :
    s.sendPacket 7 k = s.updLink o (fun x => { x with txq := x.txq ++ [Claims.leaves { k with dl := s.dateline 7 o k.dl }] }) := by
  unfold State.sendPacket
  rw [hq, hp, hr]
  exact s.enqueue_own o _ hc

/-- The way of an answer: another node, to which a device that is not quarantined has a route. -/
def State.wayBack (s : State) (k : Packet) (o : Nat) : Prop :=
  k.src ≠ s.dev.node ∧ s.dev.quar = false ∧ s.route k.src.toNat = some (some o)

/-- A plain answer leaves on the link of its route. -/
theorem State.sendBack_respond {s w : State} {k : Packet} {o p : Nat} {ty : BitVec 4} (l ctr st fc : Nat) (data : List Byte)
    (hw : s.wayBack k o) (hd : w.dev = s.dev) (hp : k.pair = false) (hc : s.conf p = false)
    (hty : (if k.type = 0#4 then 3#4 else 4#4) = ty) :
    w.sendBack l (w.respond p k ctr st fc data) =
      w.updLink o (fun x => { x with txq := x.txq ++ [Claims.answer s o k ty st fc data] }) := by
  obtain ⟨hne, hq, hr⟩ := hw
  have hresp : w.respond p k ctr st fc data = { Packet.init with
      type := ty, part := k.part, dst := k.src, src := s.dev.node, epoch := s.dev.epoch, tid := k.tid
      status := BitVec.ofNat 8 st, fcode := BitVec.ofNat 8 fc, len := BitVec.ofNat 9 (pad16 data).length, data := pad16 data } := by
    simp only [State.respond, State.sealPacket, State.conf_congr hd, hc, Bool.not_false, if_true, State.ownPacket, hd, hp, hty]
    rfl
  have hclass (b : Bool) : packetClass { w.respond p k ctr st fc data with dl := b } ≠ 0 := by
    rw [hresp]
    subst hty
    unfold packetClass
    by_cases h0 : k.type = 0#4
    · simp [h0]
    · simp [h0]
  have hdst : (w.respond p k ctr st fc data).dst = k.src := by rw [hresp]
  have hpair : (w.respond p k ctr st fc data).pair = false := by rw [hresp]; rfl
  have hnode : ((w.respond p k ctr st fc data).dst == w.dev.node) = false := by
    rw [hdst, hd]
    exact beq_false_of_ne hne
  have hroute : w.route (w.respond p k ctr st fc data).dst.toNat = some (some o) := by rw [hdst, State.route_dev hd, hr]
  unfold State.sendBack
  rw [hpair, hnode, if_neg (by simp), State.sendPacket_routed (hd ▸ hq) hpair hroute (hclass _), hresp, State.dateline_congr hd]
  rfl

/-! ### Arrivals -/

/-- What a data packet does once it is accepted. -/
def State.takesData (s : State) (l : Nat) (k : Packet) (e : MemErr) : State :=
  if k.type.toNat ≤ 2 then s.arriveReq l k e
  else if k.type.toNat ≤ 4 then (s.arriveRsp l k e).pumpFabs k.part.toNat
  else s.arriveStream l k e

theorem dataRow_arrives {s : State} {l : Fin 7} {k : Packet} {ty : BitVec 4} (h : Claims.arrives s l k ty) (h5 : ty.toNat ≤ 5)
    (e : MemErr) : dataRow ty.toNat l k e s = .next ((Claims.counted s l k).takesData l.val k e) := by
  obtain ⟨hl, hup, h6, hty, hpair, hdst, hep⟩ := h
  have hcount : k.type.toNat ≤ 5 := by rw [hty]; exact h5
  have hpr : (if l.val = 6 then !k.pair || k.src != s.dev.node else k.pair) = false := by rw [if_neg (by omega), hpair]
  have hhere : s.here l.val k = true := by simp [State.here, hup, hdst]
  rw [dataRow, if_neg (by rw [hty]; simp), hhere, if_pos rfl, whenLive_live _ _ hl]
  have hchecked (f : State → State) : s.checked l.val k f = f (Claims.counted s l k) := by
    unfold State.checked
    rw [if_pos hcount]
    refine (if_neg (Bool.eq_false_iff.mp hpr)).trans (if_neg ?_)
    rw [Bool.not_eq_true', Bool.not_eq_false]
    exact hep
  exact congrArg _ (hchecked _)

/-! ### Requests -/

section
variable {s : State} {l o : Nat} {k : Packet}

/-- A plain request whose pages stand still is performed, and its answer sent. -/
theorem State.arriveReq_plain (e : MemErr) (hx : s.exists? k.part.toNat = true) (hc : s.conf k.part.toNat = false)
    (hm : s.mvPart k.part.toNat k.addr.toNat (if k.type = 2#4 then 8 else k.len.toNat) = false) :
    s.arriveReq l k e =
      (s.perform k.part.toNat k 0 k.len.toNat k.data e).1.sendBack l (s.perform k.part.toNat k 0 k.len.toNat k.data e).2 := by
  unfold State.arriveReq
  simp only [hx, hc, hm, Bool.not_true, Bool.false_eq_true, if_false, Nat.sub_zero]

/-- A request to a partition that does not exist. -/
theorem State.arriveReq_absent (e : MemErr) (hx : s.exists? k.part.toNat = false) :
    s.arriveReq l k e = s.sendBack l (s.respond 8 k 0 stRefused 0 []) := by
  unfold State.arriveReq
  simp only [hx, Bool.not_false, if_true]

theorem State.perform_rd (p n : Nat) (data : List Byte) (ht : k.type = 0#4) :
    s.perform p k 0 n data .none = match s.hostRead p k.addr.toNat n with
      | .inl d => (s, s.respond p k 0 stOk 0 d)
      | .inr f => (s.hostMiss p k.addr.toNat n .none, (s.hostMiss p k.addr.toNat n .none).respond p k 0 stFaulted f []) := by
  unfold State.perform
  simp only [ht, State.hostMeets_none]
  rfl

theorem State.perform_wr {w : State} (p n : Nat) (data : List Byte) (ht : k.type = 1#4)
    (hw : s.hostWrite p k.addr.toNat (data.take n) = (w, none)) :
    s.perform p k 0 n data .none = (w, w.respond p k 0 stOk 0 []) := by
  unfold State.perform
  simp only [ht, State.hostMeets_none]
  simp [hw]

/-- The state after an accepted NOTIFY. -/
def State.notified (s : State) (p : Nat) (k : Packet) : State :=
  ((s.vwr p k.addr.toNat (leBytes 8 (max (s.vrdVal p k.addr.toNat 8) k.value.toNat))).taintQueues p k.addr.toNat 8).noteChangeV p none
    k.addr.toNat 8

theorem State.perform_notify (p n : Nat) (data : List Byte) (ht : k.type = 2#4) (ha : k.addr.toNat % 8 = 0)
    (hf : s.hostFault p k.addr.toNat true = none) (hb : s.vbad p k.addr.toNat 8 = false) :
    s.perform p k 0 n data .none = (s.notified p k, (s.notified p k).respond p k 0 stOk 0 []) := by
  unfold State.perform
  simp only [ht, State.hostMeets_none]
  simp [ha, hf, hb, State.notified]

theorem State.notified_mem (s : State) (p : Nat) (k : Packet) :
    (s.notified p k).mem = (s.vwr p k.addr.toNat (leBytes 8 (max (s.vrdVal p k.addr.toNat 8) k.value.toNat))).mem := by
  unfold State.notified
  rw [(State.noteChangeV_keptBook _ _ _ _ _).frame]
  rfl

end

theorem State.arriveStream_plain {s : State} {k : Packet} (l : Nat) (hx : s.exists? k.part.toNat = true)
    (hc : s.conf k.part.toNat = false) (hm : s.mvPart k.part.toNat k.addr.toNat k.len.toNat = false)
    (hf : (pagesOf k.addr.toNat k.len.toNat).findSome? (fun x => s.hostFault k.part.toNat x true) = none) :
    s.arriveStream l k .none = (s.hostWrite k.part.toNat k.addr.toNat (k.data.take k.len.toNat)).1 := by
  have hnone : (pagesOf k.addr.toNat k.len.toNat).find? (fun a => (s.hostFault k.part.toNat a true).isSome) = none := by
    rw [List.find?_eq_none]
    intro a ha
    rw [List.findSome?_eq_none_iff.mp hf a ha]
    exact Bool.false_ne_true
  unfold State.arriveStream
  simp only [hx, hc, hm, Bool.not_true, Bool.or_false, Bool.false_eq_true, if_false, hnone, State.hostMeets_none]

/-- The state after an answer joins the queue of a link. -/
theorem State.link_queued {s t : State} {o : Nat} (h : t.link o = s.link o) (x : TxEnt) :
    (t.updLink o (fun y => { y with txq := y.txq ++ [x] })).link o = { s.link o with txq := (s.link o).txq ++ [x] } := by
  rw [State.link_updLink_same, h]

theorem State.link_answered {s t : State} {o : Nat} (h : t.links = s.links) (x : TxEnt) :
    (t.updLink o (fun y => { y with txq := y.txq ++ [x] })).link o = { s.link o with txq := (s.link o).txq ++ [x] } :=
  State.link_queued (by rw [State.link, h]; rfl) x

/-- A request of a type that is performed and answered acts so, on the state in which its bytes have counted. -/
theorem dataRow_answered {s w : State} {l : Fin 7} {k : Packet} {ty rty : BitVec 4} {o st fc : Nat} {data : List Byte}
    (h : Claims.arrives s l k ty) (h2 : ty.toNat ≤ 2) (hw : s.wayBack k o)
    (hx : s.exists? k.part.toNat = true) (hc : s.conf k.part.toNat = false)
    (hm : (Claims.counted s l k).mvPart k.part.toNat k.addr.toNat (if k.type = 2#4 then 8 else k.len.toNat) = false)
    (hp : (Claims.counted s l k).perform k.part.toNat k 0 k.len.toNat k.data .none = (w, w.respond k.part.toNat k 0 st fc data))
    (hd : w.dev = s.dev) (hr : (if k.type = 0#4 then 3#4 else 4#4) = rty) :
    dataRow ty.toNat l k .none s =
      .next (w.updLink o (fun x => { x with txq := x.txq ++ [Claims.answer s o k rty st fc data] })) := by
  obtain ⟨-, -, -, hty, hpair, -, -⟩ := id h
  rw [dataRow_arrives h (by omega), State.takesData, if_pos (by rw [hty]; exact h2), State.arriveReq_plain (s := Claims.counted s l k) _ hx hc hm, hp,
    State.sendBack_respond _ _ _ _ _ hw hd hpair hc hr]

theorem fabricRequests : Claims.FabricRequests := by
  intro l k s o p va n a plain way
  have hdev : a.dev = s.dev := rfl
  refine ⟨fun h ⟨hx, hc⟩ hw hm => ⟨fun d hd => ?_, fun f hf => ?_⟩, fun h ⟨hx, hc⟩ hw hm w hd hl hv => ?_,
    fun h ⟨hx, hc⟩ hw hm h8 hf hb => ?_, fun h hw hx hc => ?_, fun h ⟨hx, hc⟩ hm hf => ?_⟩
  all_goals obtain ⟨-, -, -, hty, hpair, -, -⟩ := id h
  · have hperf := (State.perform_rd (s := a) p n k.data hty).trans (by rw [hd])
    exact ⟨_, dataRow_answered h (by decide) hw hx hc (by rw [hty]; exact hm) hperf rfl (by rw [hty]; rfl), rfl,
      State.link_answered rfl _⟩
  · have hperf := (State.perform_rd (s := a) p n k.data hty).trans (by rw [hf])
    have hnotes := a.hostMiss_onlyNotes p va n .none
    refine ⟨_, dataRow_answered h (by decide) hw hx hc (by rw [hty]; exact hm) hperf hnotes.host.dev (by rw [hty]; rfl), ?_, ?_, ?_,
      State.link_answered hnotes.host.links _⟩
    · exact (congrArg State.mem hnotes :)
    · exact (congrArg State.cores hnotes :)
    · exact (congrArg State.clusters hnotes :)
  · exact ⟨_, dataRow_answered h (by decide) hw hx hc (by rw [hty]; exact hm) (State.perform_wr (s := a) p n k.data hty hd) hv
      (by rw [hty]; rfl), rfl, State.link_queued hl _⟩
  · have hhost : a.onlyHost (a.notified p k) := a.hostPut_onlyHost p va 8 _
    refine ⟨_, dataRow_answered h (by decide) hw hx hc (by rw [hty]; exact hm) (State.perform_notify (s := a) p n k.data hty h8 hf hb)
      hhost.dev (by rw [hty]; rfl), a.notified_mem p k, hhost.usb, hhost.clusters, State.link_answered hhost.links _⟩
  · refine ⟨a.updLink o (fun x => { x with txq := x.txq ++ [Claims.answer s o k 3#4 4 0 []] }),
      (dataRow_arrives h (by decide) .none).trans (congrArg _ ?_), rfl, State.link_answered (s := s) (t := a) rfl _⟩
    rw [State.takesData, if_pos (by rw [hty]; decide), State.arriveReq_absent (s := a) _ hx]
    exact State.sendBack_respond _ _ _ _ _ hw rfl hpair hc (by rw [hty]; rfl)
  · refine (dataRow_arrives h (by decide) .none).trans (congrArg _ ?_)
    rw [State.takesData, if_neg (by rw [hty]; decide), if_neg (by rw [hty]; decide)]
    exact State.arriveStream_plain _ hx hc hm hf

end Sys2Proof.Machine
end

section
/-! The commands of the fabric engines: what is still, what completes, and the responses that end them (R558, R560). -/
namespace Sys2Proof.Machine

/-! ### Engines with nothing to send -/

/-- Nothing of a list of commands is left to send, and each waits for a response. -/
def allSent (l : List FabCmd) : Prop := ∀ y ∈ l, y.left = [] ∧ y.sent ≠ []

theorem State.sendMore_sent {s : State} {c n : Nat} (p i : Nat)
    (h : ∀ x, (s.cl c).fab.find? (fun x => x.serial == n) = some x → x.left = []) : s.sendMore c p n i = s := by
  cases i with
  | zero => rfl
  | succ i =>
    unfold State.sendMore
    split
    · rfl
    · rename_i x hx
      rw [h x hx]

theorem State.settleFab_waits {s : State} {c n : Nat}
    (h : ∀ x, (s.cl c).fab.find? (fun x => x.serial == n) = some x → x.sent ≠ []) : s.settleFab c n = s := by
  unfold State.settleFab
  split
  · rfl
  · rename_i x hx
    have hne := h x hx
    rw [if_neg]
    rw [Bool.and_eq_true, List.isEmpty_iff]
    exact fun hc => hne hc.1

/-- A step of an engine for a command all of whose requests have been sent. -/
theorem State.pumpOne_sent {s : State} {c n : Nat} (p i : Nat)
    (h : ∀ x, (s.cl c).fab.find? (fun x => x.serial == n) = some x → x.left = [] ∧ x.sent ≠ []) :
    (s.sendMore c p n i).settleFab c n = s := by
  rw [State.sendMore_sent p i fun x hx => (h x hx).1, State.settleFab_waits fun x hx => (h x hx).2]

theorem State.pumpFab_sent {s : State} {c : Nat} (p : Nat) (h : allSent (s.cl c).fab) : s.pumpFab c p = s := by
  unfold State.pumpFab
  refine List.foldlRecOn (motive := fun t : State => t = s) _ _ rfl fun t ht x _ => ?_
  rw [ht, State.pumpOne_sent p _ fun y hy => h y (List.mem_of_find?_eq_some hy)]

theorem State.pumpFabs_sent {s : State} {p : Nat} (h : ∀ c ∈ s.clustersOf p, allSent (s.cl c).fab) : s.pumpFabs p = s := by
  unfold State.pumpFabs
  refine List.foldlRecOn (motive := fun t : State => t = s) _ _ rfl fun t ht c hc => ?_
  rw [ht, State.pumpFab_sent p (h c hc)]

/-! ### One command changed, and ended -/

section
variable {n : Nat} {f : FabCmd → FabCmd} (hf : ∀ y, (f y).serial = y.serial) (l : List FabCmd)
include hf

/-- The command of a number after that command changed. -/
theorem find_map_serial : (l.map (fun y => if y.serial = n then f y else y)).find? (fun x => x.serial == n) =
    (l.find? (fun x => x.serial == n)).map f := by
  induction l with
  | nil => rfl
  | cons y l ih =>
    by_cases hy : y.serial = n
    · simp [hy, hf]
    · simp [hy, ih]

/-- The other commands after one changed. -/
theorem filter_map_serial : (l.map (fun y => if y.serial = n then f y else y)).filter (fun x => x.serial != n) =
    l.filter (fun x => x.serial != n) := by
  induction l with
  | nil => rfl
  | cons y l ih =>
    by_cases hy : y.serial = n
    · simp [hy, hf, ih]
    · simp [hy, ih]

end

theorem State.updFab_fab (s : State) (c n : Nat) (f : FabCmd → FabCmd) :
    ((s.updFab c n f).cl c).fab = (s.cl c).fab.map (fun y => if y.serial = n then f y else y) := by
  rw [State.updFab, State.cl_updCl_same]

/-- Command n of cluster c leaves its engine. -/
def State.dropFab (s : State) (c n : Nat) : State := s.updCl c (fun y => { y with fab := y.fab.filter (fun z => z.serial != n) })

theorem State.dropFab_fab (s : State) (c n : Nat) : ((s.dropFab c n).cl c).fab = (s.cl c).fab.filter (fun z => z.serial != n) := by
  rw [State.dropFab, State.cl_updCl_same]

theorem State.dropFab_ne (s : State) {c d : Nat} (n : Nat) (h : d ≠ c) : (s.dropFab c n).cl d = s.cl d :=
  State.cl_updCl_ne _ _ _ _ h

theorem State.finishFab_unnamed {s : State} {c p : Nat} {x : FabCmd} (st : BitVec 16) (ho : s.ownerCl c = some p)
    (hc : fbCpl x.desc = 0) : s.finishFab c x st = s.dropFab c x.serial := by
  unfold State.finishFab State.fabStatus
  simp only [ho, hc, if_true]
  rfl

theorem State.settleFab_done {s : State} {c n : Nat} {x : FabCmd} (hx : (s.cl c).fab.find? (fun x => x.serial == n) = some x)
    (hs : x.sent = []) (hl : x.left = []) : s.settleFab c n = s.finishFab c x (x.failed.getD (dmaStatus stOk 0)) := by
  unfold State.settleFab
  simp only [hx, hs, hl, List.isEmpty_nil, Bool.and_self, if_true]

/-! ### A response -/

/-- A command that waits no longer for the answer of a number. -/
def FabCmd.answered (tid : Nat) (z : FabCmd) : FabCmd := { z with sent := z.sent.filter (fun w => w.1 != tid) }

/-- The state after a request of a command is answered. -/
def State.unsent (s : State) (c n tid : Nat) : State := s.updFab c n (FabCmd.answered tid)

/-- When its last request is answered a command that names no status word leaves its engine. -/
theorem State.settleFab_unsent {b w : State} {c p tid off n : Nat} {x : FabCmd} (hx : x ∈ (b.cl c).fab)
    (hone : ∀ y ∈ (b.cl c).fab, y.serial = x.serial → y = x) (hsent : x.sent = [(tid, off, n)]) (hleft : x.left = [])
    (hcpl : fbCpl x.desc = 0) (ho : w.ownerCl c = some p) (hw : w.clusters = (b.unsent c x.serial tid).clusters) :
    w.settleFab c x.serial = w.dropFab c x.serial := by
  have hfind : (b.cl c).fab.find? (fun y => y.serial == x.serial) = some x := by
    cases hy : (b.cl c).fab.find? (fun y => y.serial == x.serial) with
    | none => exact absurd (List.find?_eq_none.mp hy x hx) (by simp)
    | some y => rw [hone y (List.mem_of_find?_eq_some hy) (by simpa using List.find?_some hy)]
  have hwf : (w.cl c).fab.find? (fun y => y.serial == x.serial) = some { x with sent := [] } := by
    rw [State.cl_congr hw, State.unsent, State.updFab_fab, find_map_serial (f := FabCmd.answered tid) (fun _ => rfl), hfind]
    simp [FabCmd.answered, hsent]
  exact (State.settleFab_done hwf rfl hleft).trans (State.finishFab_unnamed _ ho hcpl)

/-- The other commands stay where one that was answered leaves. -/
theorem State.dropFab_unsent {b w : State} {c n tid : Nat} (hw : w.clusters = (b.unsent c n tid).clusters) :
    ((w.dropFab c n).cl c).fab = (b.cl c).fab.filter (fun z => z.serial != n) := by
  rw [State.dropFab_fab, State.cl_congr hw, State.unsent, State.updFab_fab,
    filter_map_serial (f := FabCmd.answered tid) (fun _ => rfl)]

theorem State.dropFab_unsent_ne {b w : State} {c d n tid : Nat} (hw : w.clusters = (b.unsent c n tid).clusters) (h : d ≠ c) :
    (w.dropFab c n).cl d = b.cl d := by
  rw [State.dropFab_ne _ _ h, State.cl_congr hw, State.unsent, State.updFab, State.cl_updCl_ne _ _ _ _ h]

theorem State.clustersOf_congr {s t : State} (h : t.dev = s.dev) (p : Nat) : t.clustersOf p = s.clustersOf p := by
  simp only [State.clustersOf, State.own, h]

/-- Once an answered command has left, nothing else of its partition goes on. -/
theorem State.dropFab_pump {b w : State} {c n tid p : Nat} (hw : w.clusters = (b.unsent c n tid).clusters)
    (hd : w.dev = b.dev) (hs : Claims.fabStill b p) : (w.dropFab c n).pumpFabs p = w.dropFab c n := by
  refine State.pumpFabs_sent fun d hdm y hy => ?_
  have hdb : d ∈ b.clustersOf p := by
    rw [← State.clustersOf_congr hd]
    exact hdm
  by_cases h : d = c
  · subst h
    rw [State.dropFab_unsent hw] at hy
    exact hs d hdb y (List.mem_of_mem_filter hy)
  · rw [State.dropFab_unsent_ne hw h] at hy
    exact hs d hdb y hy

/-- A command that an answer matches is outstanding. -/
theorem State.findFab_mem {s : State} {p c : Nat} {k : Packet} {x : FabCmd} (h : s.findFab p k = some (c, x)) :
    c ∈ s.clustersOf p ∧ x ∈ (s.cl c).fab := by
  obtain ⟨d, hd, hm⟩ := List.exists_of_findSome?_eq_some h
  obtain ⟨y, hy, heq⟩ := Option.map_eq_some_iff.mp hm
  obtain ⟨rfl, rfl⟩ := Prod.mk.inj heq
  exact ⟨hd, List.mem_of_find?_eq_some hy⟩

theorem State.arriveRsp_none {s : State} {k : Packet} (l : Nat) (e : MemErr) (h : s.findFab k.part.toNat k = none)
    (hc : s.conf k.part.toNat = false) : s.arriveRsp l k e = s := by
  unfold State.arriveRsp
  simp only [h, hc, Bool.false_eq_true, if_false]

/-- A plain answer that matches a command is taken, unless its page is in motion. -/
theorem State.arriveRsp_matched {s : State} {k : Packet} {c off n : Nat} {x : FabCmd} (l : Nat) (e : MemErr)
    (h : s.findFab k.part.toNat k = some (c, x)) (hs : x.sent = [(k.tid.toNat, off, n)]) (hc : s.conf k.part.toNat = false)
    (hm : k.type = 3#4 → s.mvPart k.part.toNat ((fbLva x.desc + off) % 2 ^ 64) n = false) :
    s.arriveRsp l k e = s.takeResponse k.part.toNat c x k k.data e := by
  have hfind : x.sent.find? (fun y => y.1 == k.tid.toNat) = some (k.tid.toNat, off, n) := by simp [hs]
  unfold State.arriveRsp
  simp only [h, hc, Bool.false_eq_true, if_false, hfind, Option.getD_some]
  rw [if_neg fun hall => Bool.false_ne_true ((hm hall.1).symm.trans hall.2.2)]

theorem State.takeResponse_ack {s : State} {k : Packet} (p c : Nat) (x : FabCmd) (data : List Byte) (e : MemErr)
    (hst : k.status = 0#8) (hty : k.type = 4#4) :
    s.takeResponse p c x k data e = (s.unsent c x.serial k.tid.toNat).settleFab c x.serial := by
  unfold State.takeResponse
  simp only [hst, hty, ne_eq, not_true_eq_false, if_false]
  rfl

theorem State.takeResponse_data {s w : State} {k : Packet} {p c off n : Nat} {x : FabCmd} {data : List Byte}
    (hst : k.status = 0#8) (hty : k.type = 3#4) (hs : x.sent = [(k.tid.toNat, off, n)])
    (hw : (s.unsent c x.serial k.tid.toNat).hostWrite p ((fbLva x.desc + off) % 2 ^ 64) (data.take n) = (w, none)) :
    s.takeResponse p c x k data .none = w.settleFab c x.serial := by
  have hfind : x.sent.find? (fun y => y.1 == k.tid.toNat) = some (k.tid.toNat, off, n) := by simp [hs]
  have hw' : (s.updFab c x.serial (fun z => { z with sent := z.sent.filter (fun w => w.1 != k.tid.toNat) })).hostWrite p
      ((fbLva x.desc + off) % 2 ^ 64) (data.take n) = (w, none) := hw
  unfold State.takeResponse
  simp only [hst, hty, ne_eq, not_true_eq_false, if_false, if_true, hfind, Option.getD_some, State.hostMeets_none, hw',
    Option.map_none]

theorem fabricResponses : Claims.FabricResponses := by
  intro l k s p a hstill
  refine ⟨fun c x off n => ?_, fun hfind hconf => ?_⟩
  · intro b hfind hsent hfail hcpl hconf hst hone hown
    obtain ⟨hcm, hxm⟩ := State.findFab_mem hfind
    have hleft := (hstill c hcm x hxm).1
    have settled (w : State) (hw : w.clusters = b.clusters) (hd : w.dev = b.dev) :
        (w.settleFab c x.serial).pumpFabs p = w.dropFab c x.serial := by
      have ho : w.ownerCl c = some p := (State.ownerCl_congr (congrArg Dev.own hd) c).trans hown
      rw [State.settleFab_unsent (b := a) hxm hone hsent hleft hcpl ho hw, State.dropFab_pump (b := a) hw hd hstill]
    refine ⟨fun h hm w hw hcl hsec hdev => ?_, fun h => ?_⟩
    all_goals obtain ⟨-, -, -, hty, -, -, -⟩ := id h
    · refine ⟨w.dropFab c x.serial, (dataRow_arrives h (by decide) .none).trans (congrArg _ ?_), rfl,
        State.dropFab_unsent (b := a) hcl⟩
      rw [State.takesData, if_neg (by rw [hty]; decide), if_pos (by rw [hty]; decide),
        State.arriveRsp_matched (s := a) _ _ hfind hsent hconf fun _ => hm, State.takeResponse_data (s := a) hst hty hsent hw]
      exact settled w hcl hdev
    · refine ⟨b.dropFab c x.serial, (dataRow_arrives h (by decide) .none).trans (congrArg _ ?_), rfl,
        State.dropFab_unsent (b := a) (w := b) rfl, fun d hd => State.dropFab_unsent_ne (b := a) (w := b) rfl hd⟩
      rw [State.takesData, if_neg (by rw [hty]; decide), if_pos (by rw [hty]; decide),
        State.arriveRsp_matched (s := a) _ _ hfind hsent hconf fun h3 => absurd (hty.symm.trans h3) (by decide),
        State.takeResponse_ack (s := a) _ _ _ _ _ hst hty]
      exact settled b rfl rfl
  · have hnone (ty : BitVec 4) (h : Claims.arrives s l k ty) (h3 : 3 ≤ ty.toNat ∧ ty.toNat ≤ 4) (e : MemErr) :
        dataRow ty.toNat l k e s = .next a := by
      obtain ⟨-, -, -, hty, -, -, -⟩ := id h
      rw [dataRow_arrives h (by omega), State.takesData, if_neg (by rw [hty]; omega), if_pos (by rw [hty]; omega),
        State.arriveRsp_none (s := a) _ _ hfind hconf]
      exact congrArg _ (State.pumpFabs_sent (s := a) hstill)
    exact ⟨fun h => hnone _ h (by decide) _, fun h => hnone _ h (by decide) _⟩

/-- Settles O54: a request is performed on the state in which its bytes count, and its answer joins the queue of the route to its source;
an answer takes its request off its command, which leaves once none is outstanding. -/
theorem fabricTraffic : Obligations.FabricTraffic := ⟨fabricRequests, fabricResponses⟩

end Sys2Proof.Machine
end

section
/-! The fabric engine: descriptors taken, packets sent, requests that time out (R555 to R564). -/
namespace Sys2Proof.Machine

/-! ### What host accesses depend on -/

theorem State.sameMap.hostFault {s t : State} (h : s.sameMap t) (g : s.sameErrors t) : t.hostFault = s.hostFault := by
  funext p va w
  simp only [State.hostFault, h.pte, h.devOf, g.deadStack]

theorem State.sameMap.hostRead {s t : State} (h : s.sameMap t) (g : s.sameErrors t) : t.hostRead = s.hostRead := by
  funext p va n
  simp only [State.hostRead, h.hostFault g, g.vbad h, h.vrdN]

/-- A cluster whose fabric engine alone differs leaves the view as it is. -/
theorem State.sameMap_updCl (s : State) (c : Nat) (f : Cluster → Cluster)
    (hf : (f (s.cl c)).ptRoot = (s.cl c).ptRoot ∧ (f (s.cl c)).coremap = (s.cl c).coremap) : s.sameMap (s.updCl c f) where
  rd := rfl
  own := rfl
  ptRoot j := by
    by_cases hj : j = c
    · subst hj; rw [State.cl_updCl_same, hf.1]
    · rw [State.cl_updCl_ne _ _ _ _ hj]
  coremap j := by
    by_cases hj : j = c
    · subst hj; rw [State.cl_updCl_same, hf.2]
    · rw [State.cl_updCl_ne _ _ _ _ hj]
  ptes _ := rfl
  lmap _ := rfl
  dmaq _ := rfl

theorem State.hostRead_updFab (s : State) (c n : Nat) (f : FabCmd → FabCmd) : (s.updFab c n f).hostRead = s.hostRead :=
  (s.sameMap_updCl c _ ⟨rfl, rfl⟩).hostRead ⟨rfl, rfl, fun _ => rfl⟩

/-! ### An engine whose youngest command alone has something to send -/

/-- The commands of an engine are sent, but for the youngest. -/
def State.fabLast (s : State) (c : Nat) (l : List FabCmd) (x : FabCmd) : Prop :=
  (s.cl c).fab = l ++ [x] ∧ allSent l ∧ ∀ y ∈ l, y.serial ≠ x.serial

section
variable {s : State} {c : Nat} {l : List FabCmd} {x : FabCmd}

theorem State.fabLast.find (h : s.fabLast c l x) : (s.cl c).fab.find? (fun y => y.serial == x.serial) = some x := by
  obtain ⟨hfab, -, hne⟩ := h
  have hl : l.find? (fun y => y.serial == x.serial) = none :=
    List.find?_eq_none.mpr fun y hy hc => hne y hy (by simpa using hc)
  rw [hfab, List.find?_append, hl]
  simp

/-- The youngest command changed. -/
theorem State.fabLast.updFab (h : s.fabLast c l x) {f : FabCmd → FabCmd} (hf : (f x).serial = x.serial) :
    (s.updFab c x.serial f).fabLast c l (f x) := by
  obtain ⟨hfab, hsent, hne⟩ := h
  refine ⟨?_, hsent, by rw [hf]; exact hne⟩
  have hl : l.map (fun y => if y.serial = x.serial then f y else y) = l :=
    (List.map_congr_left fun y hy => if_neg (hne y hy)).trans l.map_id
  rw [State.updFab_fab, hfab, List.map_append, hl]
  simp

theorem State.fabLast.congr {t : State} (h : s.fabLast c l x) (ht : t.clusters = s.clusters) : t.fabLast c l x := by
  unfold State.fabLast
  rw [State.cl_congr ht]
  exact h

/-- The engine goes on with its youngest command only. -/
theorem State.fabLast.pump (h : s.fabLast c l x) (p : Nat) :
    s.pumpFab c p = (s.sendMore c p x.serial (x.left.length + 1)).settleFab c x.serial := by
  have hold : (l.map (fun y => (y.serial, y.left.length))).foldl
      (fun s y => (s.sendMore c p y.1 (y.2 + 1)).settleFab c y.1) s = s := by
    refine List.foldlRecOn (motive := fun t : State => t = s) _ _ rfl fun t ht y hy => ?_
    obtain ⟨z, hz, rfl⟩ := List.mem_map.mp hy
    rw [ht, State.pumpOne_sent p _ fun w hw => ?_]
    have hmem := List.mem_of_find?_eq_some hw
    have hser : w.serial = z.serial := by simpa using List.find?_some hw
    obtain ⟨hfab, hsent, hne⟩ := h
    rw [hfab, List.mem_append, List.mem_singleton] at hmem
    rcases hmem with hwl | rfl
    · exact hsent w hwl
    · exact absurd hser.symm (hne z hz)
  unfold State.pumpFab
  rw [h.1, List.map_append, List.foldl_append, hold]
  rfl

end

/-! ### One piece sent -/

/-- The packet of a piece of a plain command, before its dateline class (R558). -/
def State.piece (s : State) (p : Nat) (x : FabCmd) (off n : Nat) (data : List Byte) : Packet := { Packet.init with
  type := if fbOp x.desc = 0 then 1#4 else if fbOp x.desc = 1 then 0#4 else 2#4, pair := fbPair x.desc, part := BitVec.ofNat 3 p
  dst := x.dstNode, src := s.dev.node, epoch := s.dev.epoch, tid := BitVec.ofNat 16 ((s.secp p).txCount.get 0#64 x.dstNode.toNat).toNat
  addr := BitVec.ofNat 48 (fbRva x.desc + off), value := BitVec.ofNat 64 (if fbOp x.desc = 2 then fbValue x.desc else 0)
  len := BitVec.ofNat 9 n, data := data }

/-- The next transaction number of a partition for a node is taken. -/
def State.tookTid (s : State) (p : Nat) (dst : BitVec 18) : State :=
  s.updSecp p (fun y => { y with
    txCount := y.txCount.put dst.toNat (BitVec.ofNat 64 (((s.secp p).txCount.get 0#64 dst.toNat).toNat + 1)) })

theorem State.fabReq_plain {s : State} {p off n : Nat} {x : FabCmd} {data : List Byte} (hc : s.conf p = false)
    (h0 : fbOp x.desc = 0 → s.hostRead p ((fbLva x.desc + off) % 2 ^ 64) n = .inl data)
    (h1 : fbOp x.desc ≠ 0 → data = List.replicate n 0#8) :
    s.fabReq p x off n = .inl (s.tookTid p x.dstNode, s.piece p x off n data) := by
  unfold State.fabReq State.piece
  match hop : fbOp x.desc with
  | 0 =>
    simp only [hop, h0 hop, if_true, State.sealPacket, hc, Bool.not_false]
    rfl
  | 1 =>
    simp only [hop, h1 (by omega), Nat.one_ne_zero, if_false, if_true, State.sealPacket, hc, Bool.not_false]
    rfl
  | m + 2 =>
    simp only [hop, h1 (by omega), Nat.succ_ne_zero, if_false, State.sealPacket, hc, Bool.not_false, if_true]
    rfl

/-- A command that waits for the answer of a request that has left the device. -/
def FabCmd.asks (t off n : Nat) (x : FabCmd) : FabCmd :=
  { x with sent := x.sent ++ [(t, off, n)], sentAt := x.sentAt.erase t }

theorem State.sendReq_routed {s : State} {k : Packet} {o : Nat} (c n off len : Nat) (hp : k.pair = false) (hd : k.dst ≠ s.dev.node)
    (hq : s.dev.quar = false) (hr : s.route k.dst.toNat = some (some o))
    (hk : packetClass { k with dl := s.dateline 7 o k.dl } ≠ 0) :
    s.sendReq c n off len k = (s.updFab c n (FabCmd.asks k.tid.toNat off len)).updLink o (fun x => { x with
      txq := x.txq ++ [Claims.leaves { k with dl := s.dateline 7 o k.dl }] }) := by
  have hown : (!k.pair && k.dst == s.dev.node) = false := by rw [hp, beq_false_of_ne hd]; rfl
  unfold State.sendReq
  simp only [hown, Bool.false_eq_true, if_false]
  exact State.sendPacket_routed (s := s.updFab c n (FabCmd.asks k.tid.toNat off len)) hq hp
    ((State.route_dev (s := s) (t := s.updFab c n (FabCmd.asks k.tid.toNat off len)) rfl _).trans hr) hk

/-- A command with nothing left to send. -/
def FabCmd.noneLeft (x : FabCmd) : FabCmd := { x with left := [] }

/-- The state after the only piece of a plain command has left on a link. -/
def State.asked (s : State) (c p o : Nat) (x : FabCmd) (off n : Nat) (data : List Byte) : State :=
  (((s.updFab c x.serial FabCmd.noneLeft).tookTid p x.dstNode).updFab c x.serial
    (FabCmd.asks (s.piece p x off n data).tid.toNat off n)).updLink o (fun y => { y with
      txq := y.txq ++ [Claims.leaves { s.piece p x off n data with dl := s.dateline 7 o false }] })

theorem State.packetClass_piece (s : State) (p off n : Nat) (x : FabCmd) (data : List Byte) (b : Bool) :
    packetClass { s.piece p x off n data with dl := b } ≠ 0 := by
  have h2 : (s.piece p x off n data).type.toNat ≤ 2 := by
    unfold State.piece
    dsimp only
    split
    · decide
    · split <;> decide
  unfold packetClass
  rw [if_pos h2]
  omega

/-- The way of a request: another node, to which a device that is not quarantined has a route. -/
def State.wayOut (s : State) (x : FabCmd) (o : Nat) : Prop :=
  fbPair x.desc = false ∧ x.dstNode ≠ s.dev.node ∧ s.dev.quar = false ∧ s.route x.dstNode.toNat = some (some o)

section
variable {s : State} {c p o off n : Nat} {l : List FabCmd} {x : FabCmd} {data : List Byte} (h : s.fabLast c l x)
include h

theorem State.fabLast.asked : (s.asked c p o x off n data).fabLast c l
    (x.noneLeft.asks (s.piece p x off n data).tid.toNat off n) := by
  have h1 := h.updFab (f := FabCmd.noneLeft) rfl
  exact ((h1.congr (t := (s.updFab c x.serial FabCmd.noneLeft).tookTid p x.dstNode) rfl).updFab rfl).congr rfl

/-- The engine sends the only piece of its youngest command, and nothing else. -/
theorem State.fabLast.pump_asks (hw : s.wayOut x o) (hleft : x.left = [(off, n)]) (hfail : x.failed = none)
    (hheld : s.fabHeld c x = false) (htid : s.tidBusy p x.dstNode = false) (hc : s.conf p = false)
    (h0 : fbOp x.desc = 0 → s.hostRead p ((fbLva x.desc + off) % 2 ^ 64) n = .inl data)
    (h1 : fbOp x.desc ≠ 0 → data = List.replicate n 0#8) : s.pumpFab c p = s.asked c p o x off n data := by
  obtain ⟨hpair, hdst, hq, hr⟩ := hw
  have hlast := h.asked (p := p) (o := o) (off := off) (n := n) (data := data)
  have hreq : (s.updFab c x.serial FabCmd.noneLeft).fabReq p x off n =
      .inl ((s.updFab c x.serial FabCmd.noneLeft).tookTid p x.dstNode, s.piece p x off n data) :=
    State.fabReq_plain hc (by rw [State.hostRead_updFab]; exact h0) h1
  have hsend : ((s.updFab c x.serial FabCmd.noneLeft).tookTid p x.dstNode).sendReq c x.serial off n (s.piece p x off n data) =
      s.asked c p o x off n data :=
    State.sendReq_routed c x.serial off n hpair hdst hq
      ((State.route_dev (s := s) (t := (s.updFab c x.serial FabCmd.noneLeft).tookTid p x.dstNode) rfl _).trans hr)
      (State.packetClass_piece s p off n x data _)
  have hmore : s.sendMore c p x.serial 2 = (s.asked c p o x off n data).sendMore c p x.serial 1 := by
    rw [State.sendMore, h.find]
    simp only [hleft, hfail, hheld, htid, Option.isSome_none, Bool.false_eq_true, if_false, Bool.or_self]
    rw [show s.updFab c x.serial (fun z => { z with left := [] }) = s.updFab c x.serial FabCmd.noneLeft from rfl, hreq]
    exact congrArg (fun t : State => t.sendMore c p x.serial 1) hsend
  rw [h.pump p, hleft]
  refine (congrArg (fun t : State => t.settleFab c x.serial) hmore).trans (State.pumpOne_sent p 1 fun y hy => ?_)
  obtain rfl := Option.some.inj (hy.symm.trans hlast.find)
  exact ⟨rfl, by simp [FabCmd.asks]⟩

end

/-! ### Descriptors taken -/

/-- The state in which a descriptor has been taken from the queue of a cluster: HEAD has advanced, and its command is outstanding. -/
def State.fabTaken (s : State) (c v : Nat) (x : FabCmd) : State :=
  (s.wrVal ((s.cl c).fqBase.toNat + 8) 8 v).updCl c (fun y => { y with fabSerial := x.serial + 1, fab := y.fab ++ [x] })

theorem State.wrVal_onlyMem (s : State) (a n v : Nat) : s.onlyMem (s.wrVal a n v) := s.wrN_onlyMem _ _

theorem State.fabTaken_last {s : State} {c v : Nat} {x : FabCmd} (h : allSent (s.cl c).fab)
    (hne : ∀ y ∈ (s.cl c).fab, y.serial ≠ x.serial) : (s.fabTaken c v x).fabLast c (s.cl c).fab x := by
  refine ⟨?_, h, hne⟩
  rw [State.fabTaken, State.cl_updCl_same, State.cl_congr (s.wrVal_onlyMem _ _ _).host.clusters]

/-- The place of the next descriptor in the queue of a cluster. -/
def State.fabAt (s : State) (c : Nat) : Nat :=
  s.rdVal ((s.cl c).fqBase.toNat + 8) 8 % max 1 (s.cl c).fqSize.toNat

/-- The descriptor at the HEAD of the queue of a cluster. -/
def State.fabDesc (s : State) (c : Nat) : List Byte := s.rdN ((s.cl c).fqBase.toNat + 64 + 64 * s.fabAt c) 64

/-- The HEAD after that descriptor. -/
def State.fabNext (s : State) (c : Nat) : Nat :=
  (s.rdVal ((s.cl c).fqBase.toNat + 8) 8 + 1) % max 1 (s.cl c).fqSize.toNat

/-- The command of that descriptor. -/
def State.fabNew (s : State) (p c : Nat) : FabCmd := { FabCmd.init with
  serial := (s.cl c).fabSerial, desc := s.fabDesc c
  dstNode := if fbPair (s.fabDesc c) then s.dev.node else BitVec.ofNat 18 (fbNode (s.fabDesc c)), job := s.fabJob p c }

/-- A descriptor waits at the HEAD of the queue of a cluster, which lies in its store. -/
def State.fabWaits (s : State) (c : Nat) : Prop :=
  (s.cl c).fqBase.toNat / 0x4000000 = clStore c 0 / 0x4000000 ∧
    s.fabAt c ≠ s.rdVal (s.cl c).fqBase.toNat 8 % max 1 (s.cl c).fqSize.toNat

theorem State.onlyMem.fabJob {s t : State} (h : s.onlyMem t) (p c : Nat) : t.fabJob p c = s.fabJob p c := by
  rw [h]
  rfl

/-- What becomes of a command that has been taken. -/
def State.fabGoes (t : State) (c p op : Nat) (x : FabCmd) : State :=
  if fbOp x.desc > 2 then t.finishFab c x (dmaStatus stFaulted fcIllegal)
  else if !t.fabWay x.desc || (t.conf p && !t.keyed p x) then t.finishFab c x (dmaStatus stRefused 0)
  else
    let u := if op = 0 then t.hostMeets p [(fbLva x.desc, fbLen x.desc)] false .none else t
    (u.updFab c x.serial (fun z => { z with left := fabPieces op (fbLen x.desc) (u.fabMax p) })).pumpFab c p

/-- The engine takes the descriptor that waits, when it is one that the row takes. -/
theorem State.startFab_takes {s : State} {c p op : Nat} (hw : s.fabWaits c)
    (hop : fbOp (s.fabDesc c) = op ∨ 2 < fbOp (s.fabDesc c))
    (hm : fbOp (s.fabDesc c) = 0 → s.mvPart p (fbLva (s.fabDesc c)) (fbLen (s.fabDesc c)) = false) :
    s.startFab c p op .none = (s.fabTaken c (s.fabNext c) (s.fabNew p c)).fabGoes c p op (s.fabNew p c) := by
  obtain ⟨hbase, hne⟩ := hw
  have h1 : ¬ ((s.cl c).fqBase.toNat / 0x4000000 ≠ clStore c 0 / 0x4000000 ∨
      s.rdVal ((s.cl c).fqBase.toNat + 8) 8 % max 1 (s.cl c).fqSize.toNat =
        s.rdVal (s.cl c).fqBase.toNat 8 % max 1 (s.cl c).fqSize.toNat) :=
    not_or.mpr ⟨not_not.mpr hbase, hne⟩
  have h2 : ¬ (fbOp (s.fabDesc c) ≠ op ∧ fbOp (s.fabDesc c) ≤ 2) := by omega
  have h3 : ¬ (fbOp (s.fabDesc c) = 0 ∧ s.mvPart p (fbLva (s.fabDesc c)) (fbLen (s.fabDesc c)) = true) :=
    fun ⟨h0, ht⟩ => Bool.false_ne_true ((hm h0).symm.trans ht)
  have hmem := s.wrVal_onlyMem ((s.cl c).fqBase.toNat + 8) 8 (s.fabNext c)
  have hnew : ({ FabCmd.init with
      serial := ((s.wrVal ((s.cl c).fqBase.toNat + 8) 8 (s.fabNext c)).cl c).fabSerial, desc := s.fabDesc c
      dstNode := if fbPair (s.fabDesc c) then (s.wrVal ((s.cl c).fqBase.toNat + 8) 8 (s.fabNext c)).dev.node
        else BitVec.ofNat 18 (fbNode (s.fabDesc c))
      job := (s.wrVal ((s.cl c).fqBase.toNat + 8) 8 (s.fabNext c)).fabJob p c } : FabCmd) = s.fabNew p c := by
    rw [hmem.fabJob, hmem.host.dev, State.cl_congr hmem.host.clusters]
    rfl
  unfold State.startFab
  refine (if_neg h1).trans ((if_neg h2).trans ((if_neg h3).trans ?_))
  rw [← hnew]
  unfold State.fabGoes State.fabTaken State.fabDesc State.fabNext State.fabAt
  rfl

theorem State.fabHeld_updFab (s : State) (c n : Nat) (g : FabCmd → FabCmd)
    (hg : ∀ y, (g y).serial = y.serial ∧ (g y).desc = y.desc ∧ (g y).dstNode = y.dstNode) (x : FabCmd) :
    (s.updFab c n g).fabHeld c (g x) = s.fabHeld c x := by
  have hmap (y : FabCmd) : (if y.serial = n then g y else y).serial = y.serial ∧
      (if y.serial = n then g y else y).desc = y.desc ∧ (if y.serial = n then g y else y).dstNode = y.dstNode := by
    split
    · exact hg y
    · exact ⟨rfl, rfl, rfl⟩
  obtain ⟨hs, hd, hn⟩ := hg x
  unfold State.fabHeld
  rw [State.updFab_fab, List.any_map, hs, hd, hn]
  congr 1
  refine congrArg (fun q => List.any _ q) (funext fun y => ?_)
  obtain ⟨hs, hd, hn⟩ := hmap y
  simp only [Function.comp_apply, hs, hd, hn]

/-- A command that has sent nothing uses no transaction number. -/
theorem State.tidBusy_last {s t : State} {c p : Nat} {x : FabCmd} (dst : BitVec 18) (hd : t.dev = s.dev) (hsec : t.sec = s.sec)
    (hne : ∀ d, d ≠ c → t.cl d = s.cl d) (hc : (t.cl c).fab = (s.cl c).fab ++ [x]) (hx : x.sent = [])
    (h : s.tidBusy p dst = false) : t.tidBusy p dst = false := by
  have hsecp : t.secp p = s.secp p := by rw [State.secp, hsec, State.secp]
  unfold State.tidBusy at h ⊢
  rw [List.any_eq_false] at h ⊢
  intro d hdm
  rw [State.clustersOf_congr hd] at hdm
  have hold := h d hdm
  by_cases hdc : d = c
  · subst hdc
    rw [hc, List.any_append, hsecp]
    simpa [hx] using hold
  · rw [hne d hdc, hsecp]
    exact hold

/-- The one piece of a command of at most 256 bytes. -/
theorem fabPieces_one {op len : Nat} (h : op ≤ 1 → 1 ≤ len ∧ len ≤ 256) :
    fabPieces op len 256 = [(0, if op ≥ 2 then 0 else len)] := by
  unfold fabPieces
  by_cases hop : op ≥ 2
  · rw [if_pos hop, if_pos hop]
  · obtain ⟨h1, h2⟩ := h (by omega)
    have hone : ceilDiv len 256 = 1 := by
      unfold ceilDiv
      omega
    rw [if_neg hop, if_neg hop, hone]
    simp [upTo, h2]

/-- A plain command whose destination has a way sends its pieces. -/
theorem State.fabGoes_sends {t : State} {c p op : Nat} {x : FabCmd} (hop : fbOp x.desc ≤ 2) (hp : fbPair x.desc = false)
    (hr : (t.route (fbNode x.desc)).isSome = true) (hc : t.conf p = false) :
    t.fabGoes c p op x = (t.updFab c x.serial (fun z => { z with left := fabPieces op (fbLen x.desc) 256 })).pumpFab c p := by
  have hway : t.fabWay x.desc = true := by rw [State.fabWay, hp, if_neg Bool.false_ne_true, hr]
  unfold State.fabGoes
  rw [if_neg (by omega), hway, hc, if_neg (by simp)]
  simp only [State.hostMeets_none, ite_self, State.fabMax, hc, Bool.false_eq_true, if_false]

/-- One with a reserved OP leaves at once, when it names no status word. -/
theorem State.fabGoes_reserved {t : State} {c p op : Nat} {x : FabCmd} (hop : 2 < fbOp x.desc) (ho : t.ownerCl c = some p)
    (hc : fbCpl x.desc = 0) : t.fabGoes c p op x = t.dropFab c x.serial := by
  unfold State.fabGoes
  rw [if_pos hop, State.finishFab_unnamed _ ho hc]

theorem State.asked_link (s : State) (c p o : Nat) (x : FabCmd) (off n : Nat) (data : List Byte) :
    ((s.asked c p o x off n data).link o).txq =
      (s.link o).txq ++ [Claims.leaves { s.piece p x off n data with dl := s.dateline 7 o false }] := by
  rw [State.asked, State.link_updLink_same]
  rfl

theorem State.updFab_serial (s : State) (c n : Nat) (f : FabCmd → FabCmd) : ((s.updFab c n f).cl c).fabSerial = (s.cl c).fabSerial := by
  rw [State.updFab, State.cl_updCl_same]

theorem State.asked_serial (s : State) (c p o : Nat) (x : FabCmd) (off n : Nat) (data : List Byte) :
    ((s.asked c p o x off n data).cl c).fabSerial = (s.cl c).fabSerial := by
  have h1 := (s.updFab c x.serial FabCmd.noneLeft).updFab_serial c x.serial (FabCmd.asks (s.piece p x off n data).tid.toNat off n)
  exact h1.trans (s.updFab_serial c x.serial FabCmd.noneLeft)

end Sys2Proof.Machine
end

section
/-! What a fabric row and a timeout of a request leave (R555 to R564, R107). -/
namespace Sys2Proof.Machine

/-- A fabric row of an engine that may run. -/
theorem fabRow_starts {s : State} {c : Fin 8} {p : Nat} (op : Nat) (e : MemErr) (hl : s.live = true) (ho : s.ownerCl c.val = some p)
    (hq : s.dev.quar = false) (hp : (s.cl c.val).powered = true) (hs : s.scrubbing p = false) :
    fabRow op c e s = .next (s.startFab c.val p op e) := by
  unfold fabRow
  rw [whenLive_live _ _ hl, ho]
  simp only [hq, hp, hs, Bool.not_true, Bool.or_self, Bool.false_eq_true, if_false]

/-- The row of an OP. -/
def fabInstr (op : Nat) (c : Fin 8) : Instr := if op = 0 then .fabricWrite c .none else if op = 1 then .fabricRead c else .fabricNotify c

theorem exec_fabInstr {op : Nat} (h : op ≤ 2) (c : Fin 8) (s : State) : exec (fabInstr op c) s = fabRow op c .none s := by
  obtain rfl | rfl | rfl : op = 0 ∨ op = 1 ∨ op = 2 := by omega
  · rfl
  · rfl
  · rfl

theorem fbNode_lt (d : List Byte) : fbNode d < 2 ^ 18 := Nat.mod_lt _ (by decide)

/-- A command with one piece to send. -/
def FabCmd.toSend (n : Nat) (x : FabCmd) : FabCmd := { x with left := [(0, n)] }

/-- Data bytes of the one packet of a command. -/
def fabBytes (op : Nat) (d : List Byte) : Nat := if op = 2 then 0 else fbLen d

theorem State.tidBusy_updFab (s : State) (c n : Nat) (g : FabCmd → FabCmd) (hg : ∀ y, (g y).sent = y.sent ∧ (g y).dstNode = y.dstNode)
    (p : Nat) (dst : BitVec 18) : (s.updFab c n g).tidBusy p dst = s.tidBusy p dst := by
  have hmap (y : FabCmd) : (if y.serial = n then g y else y).sent = y.sent ∧ (if y.serial = n then g y else y).dstNode = y.dstNode := by
    split
    · exact hg y
    · exact ⟨rfl, rfl⟩
  unfold State.tidBusy
  refine congrArg (fun q => List.any (s.clustersOf p) q) (funext fun d => ?_)
  by_cases hd : d = c
  · subst hd
    rw [State.updFab_fab, List.any_map]
    refine congrArg (fun q => List.any _ q) (funext fun y => ?_)
    obtain ⟨hs, hn⟩ := hmap y
    simp only [Function.comp_apply, hs, hn]
    rfl
  · rw [State.updFab, State.cl_updCl_ne _ _ _ _ hd]
    rfl

/-- A plain command of one packet sends it. -/
theorem State.fabGoes_asks {a : State} {c p op o : Nat} {l : List FabCmd} {x : FabCmd} {data : List Byte} (hlast : a.fabLast c l x)
    (h2 : op ≤ 2) (hop : fbOp x.desc = op) (hw : a.wayOut x o) (hdst : x.dstNode.toNat = fbNode x.desc) (hfail : x.failed = none)
    (hc : a.conf p = false) (hlen : op ≤ 1 → 1 ≤ fbLen x.desc ∧ fbLen x.desc ≤ 256)
    (hread : op = 0 → a.hostRead p (fbLva x.desc % 2 ^ 64) (fbLen x.desc) = .inl data)
    (hzero : op ≠ 0 → data = List.replicate (fabBytes op x.desc) 0#8) (htid : a.tidBusy p x.dstNode = false)
    (hheld : a.fabHeld c x = false) :
    a.fabGoes c p op x = (a.updFab c x.serial (FabCmd.toSend (fabBytes op x.desc))).asked c p o (x.toSend (fabBytes op x.desc)) 0
      (fabBytes op x.desc) data := by
  obtain ⟨hpair, hne, hq, hr⟩ := hw
  have hbytes : (if op ≥ 2 then 0 else fbLen x.desc) = fabBytes op x.desc := by
    unfold fabBytes
    by_cases h : op = 2
    · rw [if_pos (by omega), if_pos h]
    · rw [if_neg (by omega), if_neg h]
  rw [State.fabGoes_sends (by omega) hpair (by rw [← hdst, hr]; rfl) hc, fabPieces_one hlen, hbytes]
  have hnext := hlast.updFab (f := FabCmd.toSend (fabBytes op x.desc)) rfl
  refine hnext.pump_asks ⟨hpair, hne, hq, (State.route_dev (s := a) (t := a.updFab c x.serial _) rfl _).trans hr⟩ rfl hfail ?_ ?_ hc (fun h0 => ?_) fun h0 => ?_
  · rw [State.fabHeld_updFab _ _ _ (FabCmd.toSend (fabBytes op x.desc)) fun _ => ⟨rfl, rfl, rfl⟩]
    exact hheld
  · rw [State.tidBusy_updFab _ _ _ (FabCmd.toSend (fabBytes op x.desc)) fun _ => ⟨rfl, rfl⟩]
    exact htid
  · rw [State.hostRead_updFab]
    have h0 : op = 0 := hop.symm.trans h0
    rw [fabBytes, if_neg (by omega)]
    exact hread h0
  · exact hzero (by rw [← hop]; exact h0)

/-! ### A descriptor taken from a queue -/

section
variable (s : State) (c v : Nat) (x : FabCmd)

theorem State.fabTaken_host : s.onlyHost (s.wrVal ((s.cl c).fqBase.toNat + 8) 8 v) := (s.wrVal_onlyMem _ _ _).host

theorem State.fabTaken_dev : (s.fabTaken c v x).dev = s.dev := (s.fabTaken_host c v).dev
theorem State.fabTaken_sec : (s.fabTaken c v x).sec = s.sec := (s.fabTaken_host c v).sec
theorem State.fabTaken_links : (s.fabTaken c v x).links = s.links := (s.fabTaken_host c v).links

theorem State.fabTaken_fab : ((s.fabTaken c v x).cl c).fab = (s.cl c).fab ++ [x] := by
  rw [State.fabTaken, State.cl_updCl_same, State.cl_congr (s.fabTaken_host c v).clusters]

theorem State.fabTaken_serial : ((s.fabTaken c v x).cl c).fabSerial = x.serial + 1 := by
  rw [State.fabTaken, State.cl_updCl_same]

theorem State.fabTaken_ne {d : Nat} (h : d ≠ c) : (s.fabTaken c v x).cl d = s.cl d := by
  rw [State.fabTaken, State.cl_updCl_ne _ _ _ _ h, State.cl_congr (s.fabTaken_host c v).clusters]

end

/-- What a row leaves that has sent the one packet of a plain command. -/
theorem State.asked_taken {s : State} {c p o v n : Nat} {x : FabCmd} {data : List Byte}
    (hsent : ∀ y ∈ (s.cl c).fab, y.serial ≠ x.serial ∧ y.left = [] ∧ y.sent ≠ []) (hx : x.sent = [] ∧ x.sentAt = [] ∧ x.left = []) :
    let t := ((s.fabTaken c v x).updFab c x.serial (FabCmd.toSend n)).asked c p o (x.toSend n) 0 n data
    t.mem = (s.wrVal ((s.cl c).fqBase.toNat + 8) 8 v).mem ∧ (t.cl c).fabSerial = x.serial + 1 ∧
      (t.cl c).fab = (s.cl c).fab ++ [{ x with sent := [((s.piece p x 0 n data).tid.toNat, 0, n)] }] ∧
      (t.link o).txq = (s.link o).txq ++ [Claims.leaves { s.piece p x 0 n data with dl := s.dateline 7 o false }] := by
  have hdev := s.fabTaken_dev c v x
  have hsec := s.fabTaken_sec c v x
  have hlast : (s.fabTaken c v x).fabLast c (s.cl c).fab x :=
    State.fabTaken_last (fun y hy => (hsent y hy).2) fun y hy => (hsent y hy).1
  have hpiece : (((s.fabTaken c v x).updFab c x.serial (FabCmd.toSend n)).piece p (x.toSend n) 0 n data) = s.piece p x 0 n data := by
    unfold State.piece State.secp
    rw [show ((s.fabTaken c v x).updFab c x.serial (FabCmd.toSend n)).dev = s.dev from hdev,
      show ((s.fabTaken c v x).updFab c x.serial (FabCmd.toSend n)).sec = s.sec from hsec]
    rfl
  refine ⟨rfl, ?_, ?_, ?_⟩
  · rw [State.asked_serial, State.updFab_serial, State.fabTaken_serial]
  · have h2 := (hlast.updFab (f := FabCmd.toSend n) rfl).asked (p := p) (o := o) (off := 0) (n := n) (data := data)
    rw [h2.1, hpiece]
    obtain ⟨h1, h2, h3⟩ := hx
    refine congrArg (fun y => (s.cl c).fab ++ [y]) ?_
    simp [FabCmd.asks, FabCmd.noneLeft, FabCmd.toSend, h1, h2, h3, SMap.erase]
  · have hdl : ((s.fabTaken c v x).updFab c x.serial (FabCmd.toSend n)).dateline 7 o false = s.dateline 7 o false :=
      State.dateline_congr hdev 7 o false
    rw [State.asked_link, hpiece, hdl]
    refine congrArg (· ++ _) (congrArg Link.txq ?_)
    rw [State.link, State.link]
    exact congrArg (fun m : SMap Link => m.get _ o) (s.fabTaken_links c v x)

/-- A descriptor of one packet is taken and sent; one with a reserved OP leaves at once. -/
theorem fabricDescriptors (c : Fin 8) (s : State) (p op o : Nat) (data : List Byte) (hl : s.live = true)
    (ho : s.ownerCl c.val = some p) (hq : s.dev.quar = false) (hpw : (s.cl c.val).powered = true) (hsc : s.scrubbing p = false)
    (hw : s.fabWaits c.val)
    (hsent : ∀ y ∈ (s.cl c.val).fab, y.serial ≠ (s.cl c.val).fabSerial ∧ y.left = [] ∧ y.sent ≠ [])
    (hc : s.conf p = false) (h2 : op ≤ 2) (hop : fbOp (s.fabDesc c.val) = op) (hpair : fbPair (s.fabDesc c.val) = false)
    (hne : BitVec.ofNat 18 (fbNode (s.fabDesc c.val)) ≠ s.dev.node)
    (hr : s.route (fbNode (s.fabDesc c.val)) = some (some o))
    (hlen : op ≤ 1 → 1 ≤ fbLen (s.fabDesc c.val) ∧ fbLen (s.fabDesc c.val) ≤ 256)
    (hread : op = 0 → s.mvPart p (fbLva (s.fabDesc c.val)) (fbLen (s.fabDesc c.val)) = false ∧
      (s.fabTaken c.val (s.fabNext c.val) (s.fabNew p c.val)).hostRead p (fbLva (s.fabDesc c.val) % 2 ^ 64) (fbLen (s.fabDesc c.val)) =
        .inl data)
    (hzero : op ≠ 0 → data = List.replicate (fabBytes op (s.fabDesc c.val)) 0#8)
    (htid : s.tidBusy p (BitVec.ofNat 18 (fbNode (s.fabDesc c.val))) = false)
    (hheld : (s.fabTaken c.val (s.fabNext c.val) (s.fabNew p c.val)).fabHeld c.val (s.fabNew p c.val) = false) :
    fabRow op c .none s = .next (((s.fabTaken c.val (s.fabNext c.val) (s.fabNew p c.val)).updFab c.val (s.fabNew p c.val).serial
      (FabCmd.toSend (fabBytes op (s.fabDesc c.val)))).asked c.val p o ((s.fabNew p c.val).toSend (fabBytes op (s.fabDesc c.val))) 0
        (fabBytes op (s.fabDesc c.val)) data) := by
  rw [fabRow_starts op .none hl ho hq hpw hsc, State.startFab_takes hw (.inl hop) fun h0 => (hread (by omega)).1]
  have hdev := s.fabTaken_dev c.val (s.fabNext c.val) (s.fabNew p c.val)
  have hlast : (s.fabTaken c.val (s.fabNext c.val) (s.fabNew p c.val)).fabLast c.val (s.cl c.val).fab (s.fabNew p c.val) :=
    State.fabTaken_last (fun y hy => (hsent y hy).2) fun y hy => (hsent y hy).1
  have hdst : (s.fabNew p c.val).dstNode = BitVec.ofNat 18 (fbNode (s.fabDesc c.val)) := by
    rw [State.fabNew, hpair]
    rfl
  have hnat : (s.fabNew p c.val).dstNode.toNat = fbNode (s.fabDesc c.val) := by
    rw [hdst, BitVec.toNat_ofNat, Nat.mod_eq_of_lt (fbNode_lt _)]
  have hbusy : (s.fabTaken c.val (s.fabNext c.val) (s.fabNew p c.val)).tidBusy p (s.fabNew p c.val).dstNode = false :=
    State.tidBusy_last _ hdev (s.fabTaken_sec _ _ _) (fun d hd => s.fabTaken_ne _ _ _ hd) (s.fabTaken_fab _ _ _) rfl
      (by rw [hdst]; exact htid)
  have hway : (s.fabTaken c.val (s.fabNext c.val) (s.fabNew p c.val)).wayOut (s.fabNew p c.val) o :=
    ⟨hpair, by rw [hdst, hdev]; exact hne, by rw [hdev]; exact hq, by rw [hnat, State.route_dev hdev, hr]⟩
  exact congrArg _ (State.fabGoes_asks hlast h2 hop hway hnat rfl (by rw [State.conf_congr hdev, hc]) hlen
    (fun h0 => (hread h0).2) hzero hbusy hheld)

/-- A descriptor with a reserved OP is taken by any row, and its command leaves at once. -/
theorem fabricReserved {s : State} {c : Fin 8} {p : Nat} (op : Nat) (hl : s.live = true) (ho : s.ownerCl c.val = some p)
    (hq : s.dev.quar = false) (hpw : (s.cl c.val).powered = true) (hsc : s.scrubbing p = false) (hw : s.fabWaits c.val)
    (hres : 2 < fbOp (s.fabDesc c.val)) (hcpl : fbCpl (s.fabDesc c.val) = 0) :
    fabRow op c .none s =
      .next ((s.fabTaken c.val (s.fabNext c.val) (s.fabNew p c.val)).dropFab c.val (s.cl c.val).fabSerial) := by
  have hown : (s.fabTaken c.val (s.fabNext c.val) (s.fabNew p c.val)).ownerCl c.val = some p :=
    (State.ownerCl_congr (congrArg Dev.own (s.fabTaken_dev _ _ _)) c.val).trans ho
  rw [fabRow_starts op .none hl ho hq hpw hsc, State.startFab_takes hw (.inr hres) fun h0 => absurd h0 (by omega),
    State.fabGoes_reserved (x := s.fabNew p c.val) hres hown hcpl]
  rfl

theorem fabricReserved_leaves {s : State} {c p : Nat} (hne : ∀ y ∈ (s.cl c).fab, y.serial ≠ (s.cl c).fabSerial) :
    let t := (s.fabTaken c (s.fabNext c) (s.fabNew p c)).dropFab c (s.cl c).fabSerial
    t.mem = (s.wrVal ((s.cl c).fqBase.toNat + 8) 8 (s.fabNext c)).mem ∧ (t.cl c).fabSerial = (s.cl c).fabSerial + 1 ∧
      (t.cl c).fab = (s.cl c).fab ∧ t.links = s.links := by
  have hold : (s.cl c).fab.filter (fun z => z.serial != (s.cl c).fabSerial) = (s.cl c).fab :=
    List.filter_eq_self.mpr fun y hy => by simpa using hne y hy
  have hserial (u : State) : ((u.dropFab c (s.cl c).fabSerial).cl c).fabSerial = (u.cl c).fabSerial := by
    rw [State.dropFab, State.cl_updCl_same]
  refine ⟨rfl, (hserial _).trans (s.fabTaken_serial _ _ _), ?_, s.fabTaken_links c (s.fabNext c) (s.fabNew p c)⟩
  rw [State.dropFab_fab, State.fabTaken_fab, List.filter_append, hold]
  simp [State.fabNew]

/-! ### Requests that time out -/

/-- Packets withdrawn leave their links, and their command has nothing left to send. -/
theorem State.withdraw_links (s : State) (c n : Nat) :
    s.withdraw c n = { s with links := (s.withdraw c n).links, clusters := (s.withdraw c n).clusters } := by
  unfold State.withdraw
  split
  · rfl
  · extract_lets p mine gone u
    have hu : u = { s with links := u.links } :=
      List.foldlRecOn (motive := fun t : State => t = { s with links := t.links }) _ _ rfl fun t ht l _ => by
        rw [ht]
        rfl
    generalize u = v at hu ⊢
    rw [hu]
    rfl

theorem State.withdraw_others (s : State) (c n : Nat) :
    ((s.withdraw c n).cl c).fab.filter (fun y => y.serial != n) = (s.cl c).fab.filter (fun y => y.serial != n) := by
  unfold State.withdraw
  split
  · rfl
  · extract_lets p mine gone u
    have hu : u.clusters = s.clusters :=
      List.foldlRecOn (motive := fun t : State => t.clusters = s.clusters) _ _ rfl fun t ht l _ => ht
    have hfab : (u.cl c).fab = (s.cl c).fab := by rw [State.cl_congr hu]
    rw [State.updFab_fab, ← hfab]
    exact filter_map_serial (f := fun y : FabCmd => { y with sent := y.sent.filter (fun z => !gone.contains z.1), left := [] })
      (fun _ => rfl) _

theorem State.fabOpen_work (s : State) (p : Nat) (x : FabCmd) : s.onlyWork (s.fabOpen p x) := by
  unfold State.fabOpen
  dsimp only
  split
  · exact s.freeOutputs_work _ _
  · split
    · rfl
    · exact (s.updPart_work p _).trans (State.freeOutputs_work _ _ _)

/-- A command completes: its status word is written, and it leaves. -/
theorem State.finishFab_owned {s : State} {c p : Nat} (x : FabCmd) (st : BitVec 16) (ho : s.ownerCl c = some p) :
    s.finishFab c x st = (s.fabStatus p x.desc st).dropFab c x.serial := by
  unfold State.finishFab
  rw [ho]
  rfl

theorem State.fabStatus_work (s : State) (p : Nat) (d : List Byte) (st : BitVec 16) : s.onlyWork (s.fabStatus p d st) := by
  unfold State.fabStatus
  split
  · rfl
  · exact s.putPart_work _ _ _

theorem fabricTimeout (c : Fin 8) (s : State) (p : Nat) (x : FabCmd) (n : Nat) (hl : s.live = true) (ho : s.ownerCl c.val = some p)
    (hfind : (s.cl c.val).fab.find? (fun y => y.serial == n) = some x)
    (hlate : ∃ y ∈ x.sent, ∃ a, x.sentAt.find y.1 = some a ∧ a + 1000000 ≤ s.ns)
    (hrest : ∀ y ∈ (s.cl c.val).fab, y.serial ≠ n → y.left = [] ∧ y.sent ≠ []) :
    let t := (((s.fabOpen p x).withdraw c.val n).fabStatus p x.desc (dmaStatus stAbandoned 0)).dropFab c.val n
    exec (.fabricReqTimeout c n) s = .next t ∧ (t.cl c.val).fab = (s.cl c.val).fab.filter (fun y => y.serial != n) := by
  have hser : x.serial = n := by simpa using List.find?_some hfind
  have hlate : x.late s.ns = true := by
    obtain ⟨y, hy, a, ha, hle⟩ := hlate
    exact List.any_eq_true.mpr ⟨y, hy, by simp [ha, hle]⟩
  have hopen := s.fabOpen_work p x
  have hwd := (s.fabOpen p x).withdraw_links c.val n
  have hst := ((s.fabOpen p x).withdraw c.val n).fabStatus_work p x.desc (dmaStatus stAbandoned 0)
  have hfab : (((((s.fabOpen p x).withdraw c.val n).fabStatus p x.desc (dmaStatus stAbandoned 0)).dropFab c.val n).cl c.val).fab =
      (s.cl c.val).fab.filter (fun y => y.serial != n) := by
    rw [State.dropFab_fab, State.cl_congr hst.clusters, State.withdraw_others, State.cl_congr hopen.clusters]
  have hown : ((s.fabOpen p x).withdraw c.val n).ownerCl c.val = some p := by
    rw [State.ownerCl_congr (s := s) (by rw [hwd, hopen]), ho]
  refine ⟨(whenLive_live _ _ hl).trans (congrArg _ ?_), hfab⟩
  rw [hfind]
  simp only [hlate, Bool.not_true, Bool.false_eq_true, if_false, ho, Option.getD_some]
  rw [State.finishFab_owned x _ hown, hser]
  refine State.pumpFab_sent p fun y hy => ?_
  rw [hfab, List.mem_filter] at hy
  exact hrest y hy.1 (by simpa using hy.2)

/-- Settles O19: a row takes the descriptor at HEAD, whose command alone has something to send; a request that times out ends its
command, and nothing else goes on. -/
theorem fabricCommands : Obligations.FabricCommands := by
  refine ⟨?_, ?_⟩
  · intro c s p op o data base n head d i len node x h a tid hl ho hq hpw hsc hbase hne hsent
    have hw : s.fabWaits c.val := ⟨hbase, hne⟩
    refine ⟨fun h2 hop hpair hnode hc hr hlen hread hzero htid hheld => ?_, fun g hg hres hcpl => ?_⟩
    · have hpair : fbPair (s.fabDesc c.val) = false := hpair
      have hop : fbOp (s.fabDesc c.val) = op := hop
      have hx : s.fabNew p c.val = x := by
        unfold State.fabNew
        rw [hpair]
        rfl
      have hrow := fabricDescriptors c s p op o data hl ho hq hpw hsc hw hsent hc h2 hop hpair hnode hr hlen
        (by rw [hx]; exact hread) hzero htid (by rw [hx]; exact hheld)
      obtain ⟨hm, hs, hf, ht⟩ := State.asked_taken (s := s) (c := c.val) (p := p) (o := o) (v := s.fabNext c.val)
        (n := fabBytes op (s.fabDesc c.val)) (x := s.fabNew p c.val) (data := data) hsent ⟨rfl, rfl, rfl⟩
      rw [← exec_fabInstr h2] at hrow
      intro k
      refine ⟨_, fun h0 => ?_, fun h1 => ?_, fun h2 => ?_, hm, hs, ?_, ?_⟩
      · subst h0; exact hrow
      · subst h1; exact hrow
      · subst h2; exact hrow
      · refine hf.trans ?_
        rw [hx]
        rfl
      · refine ht.trans ?_
        have hk : ({ s.piece p (s.fabNew p c.val) 0 len data with dl := s.dateline 7 o false } : Packet) = k := by
          rw [hx]
          unfold State.piece
          rw [show fbOp x.desc = op from hop, show fbPair x.desc = false from hpair]
          rfl
        exact congrArg (fun k => (s.link o).txq ++ [Claims.leaves k]) hk
    · obtain ⟨j, hj⟩ : ∃ j, exec (g c) s = fabRow j c .none s := by
        simp only [List.mem_cons, List.not_mem_nil, or_false] at hg
        obtain rfl | rfl | rfl := hg
        · exact ⟨0, rfl⟩
        · exact ⟨1, rfl⟩
        · exact ⟨2, rfl⟩
      exact ⟨_, hj.trans (fabricReserved j hl ho hq hpw hsc hw hres hcpl), fabricReserved_leaves (fun y hy => (hsent y hy).1)⟩
  · intro c s p x n hl ho hfind hlate hrest f
    obtain ⟨hex, hfab⟩ := fabricTimeout c s p x n hl ho hfind hlate hrest
    refine ⟨_, hex, hfab, fun h0 => ?_, fun h0 => ?_⟩
    · have hwd := f.withdraw_links c.val n
      rw [State.fabStatus, if_pos h0]
      exact (congrArg State.mem hwd :)
    · rw [State.fabStatus, if_neg h0]
      rfl

end Sys2Proof.Machine
end

section
/-! Security commands of the host: ATTEST, SESSION_OPEN, MEASURE, LINK_KEY and LINK_KEY_ERASE (R754 to R760, R767, R768). -/
namespace Sys2Proof.Machine

/-! ### What an acceptance leaves as it is -/

section
variable {s t : State} {p : Nat} (h : s.hostFrame t p)
include h

theorem State.hostFrame.sec : t.sec = s.sec := by rw [h.1]
theorem State.hostFrame.secp (q : Nat) : t.secp q = s.secp q := by rw [State.secp, h.sec, State.secp]
theorem State.hostFrame.mem : t.mem = s.mem := by rw [h.1]
theorem State.hostFrame.dev : t.dev = s.dev := by rw [h.1]
theorem State.hostFrame.cores : t.cores = s.cores := by rw [h.1]
theorem State.hostFrame.dbg : t.dbg = s.dbg := by rw [h.1]

theorem State.hostFrame.conf (q : Nat) : t.conf q = s.conf q := State.conf_congr h.dev q

theorem State.hostFrame.cl (c : Nat) : t.cl c = { s.cl c with ctl := (t.cl c).ctl } := h.2.2.2.2 c

theorem State.hostFrame.part (q : Nat) : t.part q = { s.part q with freeCtr := (t.part q).freeCtr } := h.2.2.2.1 q

theorem State.hostFrame.sameMap : s.sameMap t where
  rd := State.rd_congr h.mem (by rw [h.1]) (by rw [h.dev]) h.sec
  own := by rw [h.dev]
  ptRoot c := by rw [h.cl c]
  coremap c := by rw [h.cl c]
  ptes q := by rw [h.part q]
  lmap q := by rw [h.part q]
  dmaq k := by rw [State.core_congr h.cores]

theorem State.hostFrame.sameErrors : s.sameErrors t where
  badWords := by rw [h.1]
  poison := by rw [h.1]
  failed n := by
    rw [State.stack, show t.hbm = s.hbm by rw [h.1]]
    rfl

theorem State.hostFrame.mvPart : t.mvPart = s.mvPart := by
  funext p va n
  simp only [State.mvPart, h.sameMap.pte]

theorem State.hostFrame.hostFault : t.hostFault = s.hostFault := h.sameMap.hostFault h.sameErrors

theorem State.hostFrame.hostRead : t.hostRead = s.hostRead := h.sameMap.hostRead h.sameErrors

theorem State.hostFrame.logCl (p c : Nat) : t.logCl p c = s.logCl p c := by
  simp only [State.logCl, h.sameMap.lmap]

theorem State.hostFrame.usedFrames : t.usedFrames = s.usedFrames := by
  funext p home
  simp only [State.usedFrames, State.mapped, State.inMotion, State.partOps, State.tablePages, h.sameMap.ptes, h.sameMap.walk, h.sameMap.pte,
    h.sameMap.ptRootEq, h.sameMap.nextTable, h.sameMap.rdVal, h.sameMap.clustersOf, h.sameMap.dmaq]

theorem State.hostFrame.reserved : t.reserved = s.reserved := by
  funext p l
  have htrace (c : Nat) : t.trace c = s.trace c := by rw [State.trace, h.dbg, State.trace]
  simp only [State.reserved, h.jobs, h.sameMap.pte, h.conf, h.logCl, h.sameMap.lead, h.secp, h.sameMap.physCl, htrace]

theorem State.hostFrame.clusterRoom : t.clusterRoom = s.clusterRoom := by
  funext p l
  simp only [State.clusterRoom, h.usedFrames, h.reserved]

end

/-! ### A command that starts and passes its checks -/

/-- A legal command of a function that takes it starts alone, where its resources are free. -/
theorem State.runs_legal {s : State} {q : Fin 8} {opc : Nat} {h : CmdHdr} {e : MemErr} {i : Instr} (ht : s.takes q.val opc h)
    (ho : opc < 256) (hi : exec i s = whenLive s (s.arrive q.val opc h e)) (hleg : s.cmdIllegal q.val opc h = false)
    (hfree : ∀ t, s.hostFrame t q.val → t.cmdFree q.val (s.newCmd q.val opc h e) = true) :
    ∃ t, exec i s = .next (t.startCmd q.val (s.newCmd q.val opc h e)) ∧ s.starts t q.val opc h e ∧
      t.cmdIllegal q.val opc h = false ∧ (s.newCmd q.val opc h e).opc.toNat = opc := by
  obtain ⟨t, hstart, hst⟩ := s.arrive_starts q.val opc h e ht hfree
  exact ⟨t, hi.trans ((whenLive_live _ _ ht.1).trans (congrArg _ hstart)), hst,
    (State.cmdIllegal_congr (hst.frame.jobs q.val) opc h).trans hleg, s.newCmd_opc q.val opc h e ho⟩

/-- Only the security state of a partition differs from a state in which a command has started. -/
theorem State.starts.updSecp {s t : State} {p opc : Nat} {h : CmdHdr} {e : MemErr} (ht : s.starts t p opc h e) (f : SecPart → SecPart) :
    (t.updSecp p f).secp p = f (s.secp p) ∧ (t.updSecp p f).func p = t.func p ∧ (t.updSecp p f).nsW = s.nsW ∧
      (t.updSecp p f).cycle = s.cycle ∧ (t.updSecp p f).mem = s.mem :=
  ⟨by rw [State.secp_updSecp_same, ht.frame.secp], rfl, ht.frame.nsW, ht.frame.cycle, ht.frame.mem⟩

/-- A command that has started and is held. -/
theorem State.starts.holds {s t u : State} {p opc : Nat} {h : CmdHdr} (ht : s.starts t p opc h .none) (hu : u.func p = t.func p) :
    s.holdsCmd u p h opc := by
  unfold State.holdsCmd
  rw [hu, ht.func]
  exact ⟨rfl, rfl⟩

/-- A command that touches no resource of R622 may start. -/
theorem State.cmdFree_of_opc (s : State) (p : Nat) (c : HCmd) (h : c.opc.toNat ∉ [0x04, 0x06, 0x09, 0x0C, 0x0D, 0x22, 0x23]) :
    s.cmdFree p c = true := by
  unfold State.cmdFree
  refine Bool.or_eq_true_iff.mpr (.inr ?_)
  split
  case h_8 => rfl
  all_goals simp_all

/-! ### The security commands at their start -/

section
variable {t : State} {p : Nat} {c : HCmd}

theorem State.startCmd_attest (ho : c.opc.toNat = 0x20) (hl : t.cmdIllegal p 0x20 c.hdr = false) :
    t.startCmd p c = t.updSecp p (fun x => { x with signQ := x.signQ ++ [(c.serial, c.hdr.payload)] }) := by
  unfold State.startCmd
  rw [ho]
  exact if_neg (Bool.eq_false_iff.mp hl)

theorem State.startCmd_sessionOpen (ho : c.opc.toNat = 0x21) (hl : t.cmdIllegal p 0x21 c.hdr = false) :
    t.startCmd p c = t.doSession p c := by
  unfold State.startCmd
  rw [ho]
  exact if_neg (Bool.eq_false_iff.mp hl)

theorem State.startCmd_measure (ho : c.opc.toNat = 0x22) (hl : t.cmdIllegal p 0x22 c.hdr = false) :
    t.startCmd p c = t.doMeasure p c := by
  unfold State.startCmd
  rw [ho]
  exact if_neg (Bool.eq_false_iff.mp hl)

theorem State.startCmd_linkKey (ho : c.opc.toNat = 0x23) (hl : t.cmdIllegal p 0x23 c.hdr = false) :
    t.startCmd p c = t.doLinkKey p c := by
  unfold State.startCmd
  rw [ho]
  exact if_neg (Bool.eq_false_iff.mp hl)

theorem State.startCmd_linkKeyErase (ho : c.opc.toNat = 0x24) (hl : t.cmdIllegal p 0x24 c.hdr = false) :
    t.startCmd p c = (t.dropLinkKey p c.hdr.job.toNat).done1 p c stOk 0 0 := by
  unfold State.startCmd
  rw [ho]
  exact if_neg (Bool.eq_false_iff.mp hl)

/-- A session opened: its keys derived from the shared secret (R758, R760). -/
def State.openSession (t : State) (p : Nat) (h : CmdHdr) : State :=
  t.updSecp p (fun y => { y with
    session := some (shake256 (h.payload.take 1568)), rxCtr := [], txCtr := []
    keys := shake512 (b256 (kemDecap t.sec.rs (h.payload.take 1568)) ++ ascii "TQ64 SES" ++ [BitVec.ofNat 8 p] ++
      b256 (shake256 (h.payload.take 1568))) })

theorem State.doSession_opens (hc : t.conf p = true) (hx : (t.secp p).session = none) :
    t.doSession p c = (t.openSession p c.hdr).done1 p c stOk 0 0 := by
  unfold State.doSession
  exact if_neg (by simp [hc, hx])

theorem State.doSession_refused (h : t.conf p = false ∨ (t.secp p).session.isSome = true) :
    t.doSession p c = t.done1 p c stRefused 0 0 := by
  unfold State.doSession
  refine if_pos ?_
  rcases h with h | h
  · exact .inl (by rw [h]; rfl)
  · exact .inr h

theorem State.doMeasure_waits (h : ∀ a ∈ pagesOf c.hdr.arg0.toNat c.hdr.arg1.toNat, t.hostFault p a false = none) :
    t.doMeasure p c = t.updSecp p (fun x => { x with
      hashQ := x.hashQ ++ [(c.serial, c.hdr.arg0.toNat, c.hdr.arg1.toNat, [])] }) := by
  have hnone : (pagesOf c.hdr.arg0.toNat c.hdr.arg1.toNat).findSome? (fun a => t.hostFault p a false) = none :=
    List.findSome?_eq_none_iff.mpr h
  unfold State.doMeasure
  simp only [hnone]

end

/-- What completes after a change of the security state alone. -/
theorem State.starts.done1_secp {s t : State} {p opc : Nat} {h : CmdHdr} {e : MemErr} (ht : s.starts t p opc h e) (f : SecPart → SecPart)
    (st fc d0 : Nat) : s.completes ((t.updSecp p f).done1 p (s.newCmd p opc h e) st fc d0) p h opc st fc d0 ∧
      ((t.updSecp p f).done1 p (s.newCmd p opc h e) st fc d0).secp p = f (s.secp p) ∧
      ((t.updSecp p f).done1 p (s.newCmd p opc h e) st fc d0).mem = s.mem := by
  obtain ⟨hsec, hfunc, hns, hcyc, hmem⟩ := ht.updSecp f
  have hframe : (t.updSecp p f).done1 p (s.newCmd p opc h e) st fc d0 =
      { t.updSecp p f with usb := ((t.updSecp p f).done1 p (s.newCmd p opc h e) st fc d0).usb } := by
    unfold State.done1 State.complete
    split <;> rfl
  refine ⟨State.done1_completes (hfunc.trans ht.func) hns hcyc st fc d0, ?_, ?_⟩
  · rw [hframe]
    exact hsec
  · rw [hframe]
    exact hmem

/-- A read of bytes that may be read. -/
theorem State.hostRead_good {s : State} {p va n : Nat} (hf : ∀ a ∈ pagesOf va n, s.hostFault p a false = none)
    (hb : s.vbad p va n = false) : s.hostRead p va n = .inl (s.vrdN p va n) := by
  unfold State.hostRead
  rw [List.findSome?_eq_none_iff.mpr hf, hb]
  rfl

/-- The key under which a job's key comes (R768). -/
def State.linkKek (t : State) (p : Nat) (h : CmdHdr) : BitVec 256 :=
  shake256 (b256 (kemDecap t.sec.rs (h.payload.take 1568)) ++ ascii "TQ64 LNK" ++ [BitVec.ofNat 8 p] ++ leBytes 4 h.job.toNat)

/-- A job's key and its peers take their place. -/
def SecPart.linked (h : CmdHdr) (k b : List Byte) (y : SecPart) : SecPart := { y with
  jobKey := some (BitVec.ofNat 256 (leVal (k.take 32))), keyJob := h.job.toNat, txCount := [], rxHigh := [], rxSeen := []
  peers := (upTo h.arg1.toNat).map (fun i => BitVec.ofNat 18 (recN b (4 * i) 4)) }

/-- The unwrapped key that a LINK_KEY carries, when its tag verifies. -/
def State.linkOpen (t : State) (p : Nat) (h : CmdHdr) : Option (List Byte) :=
  gcmOpen (t.linkKek p h) 0#96 [] ((sliceB h.payload 1568 48).take 32) ((sliceB h.payload 1568 48).drop 32)

/-- A LINK_KEY is unwrapped: the partition is confidential, holds no other job's key and has room for the peers (R767, R768). -/
structure State.mayLink (t : State) (p : Nat) (h : CmdHdr) (b : List Byte) : Prop where
  conf : t.conf p = true
  key : (t.secp p).jobKey = none ∨ (t.secp p).keyJob = h.job.toNat
  room : ceilDiv (64 * h.arg1.toNat) 65536 ≤
    t.clusterRoom p ((t.logCl p (t.lead p)).getD 0) + ceilDiv (64 * (t.secp p).peers.length) 65536
  read : t.hostRead p h.arg0.toNat (4 * h.arg1.toNat) = .inl b

theorem State.mayLink.goes {t : State} {p : Nat} {h : CmdHdr} {b : List Byte} (hm : t.mayLink p h b) :
    ¬ (!t.conf p ∨ ((t.secp p).jobKey.isSome ∧ (t.secp p).keyJob ≠ h.job.toNat) ∨
      ceilDiv (64 * h.arg1.toNat) 65536 >
        t.clusterRoom p ((t.logCl p (t.lead p)).getD 0) + ceilDiv (64 * (t.secp p).peers.length) 65536) := by
  rintro (hc | ⟨hsome, hne⟩ | hr)
  · rw [hm.conf] at hc
    exact Bool.false_ne_true hc
  · rcases hm.key with hk | hk
    · rw [hk] at hsome
      exact Bool.false_ne_true hsome
    · exact hne hk
  · exact absurd hm.room (Nat.not_le.mpr hr)

theorem State.doLinkKey_opens {t : State} {p : Nat} {c : HCmd} {b k : List Byte} (he : c.err = .none) (hm : t.mayLink p c.hdr b)
    (hk : t.linkOpen p c.hdr = some k) : t.doLinkKey p c = (t.updSecp p (SecPart.linked c.hdr k b)).done1 p c stOk 0 0 := by
  unfold State.linkOpen State.linkKek at hk
  unfold State.doLinkKey
  dsimp only
  rw [if_neg hm.goes, he, State.hostMeets_none, hm.read]
  dsimp only
  rw [hk]
  rfl

theorem State.doLinkKey_refused {t : State} {p : Nat} {c : HCmd} {b : List Byte} (he : c.err = .none) (hm : t.mayLink p c.hdr b)
    (hk : t.linkOpen p c.hdr = none) : t.doLinkKey p c = t.done1 p c stRefused 0 0 := by
  unfold State.linkOpen State.linkKek at hk
  unfold State.doLinkKey
  dsimp only
  rw [if_neg hm.goes, he, State.hostMeets_none, hm.read]
  dsimp only
  rw [hk]

/-- A job without fabric commands has none to abandon. -/
theorem State.abandonFabOf_none {t : State} {p j : Nat} (h : ∀ c ∈ t.clustersOf p, ∀ y ∈ (t.cl c).fab, y.job ≠ some j) :
    t.abandonFabOf p j = t := by
  unfold State.abandonFabOf
  refine List.foldlRecOn (motive := fun u : State => u = t) _ _ rfl fun u hu c hc => ?_
  have hnil : (t.cl c).fab.filter (fun x => x.job == some j) = [] :=
    List.filter_eq_nil_iff.mpr fun y hy hj => h c hc y hy (beq_iff_eq.mp hj)
  rw [hu, hnil]
  rfl

theorem hostSecurity : Claims.HostSecurity := by
  intro q h s p j va n x ct ss
  refine ⟨fun ht hleg => ?attest, fun ht hleg hc hx => ?opened, fun ht hleg hc => ?notOpened, fun ht hleg hmv hf => ?measure, ?link,
    fun ht hleg hk hj hfab => ?erased, fun ht hleg hk hfab => ?notHeld⟩
  case attest =>
    obtain ⟨t, hex, hst, hleg, hopc⟩ := State.runs_legal (e := .none) (i := .attest q h) ht (by decide) rfl hleg fun t _ =>
      t.cmdFree_of_opc _ _ (by rw [s.newCmd_opc _ _ _ _ (by decide)]; decide)
    obtain ⟨hsec, hfunc, -, -, hmem⟩ := hst.updSecp (fun x => { x with signQ := x.signQ ++ [((s.func p).serial, h.payload)] })
    exact ⟨_, hex.trans (congrArg _ (State.startCmd_attest hopc hleg)), hst.holds hfunc, hsec, hmem⟩
  case opened =>
    obtain ⟨t, hex, hst, hleg, hopc⟩ := State.runs_legal (e := .none) (i := .sessionOpen q h) ht (by decide) rfl hleg fun t _ =>
      t.cmdFree_of_opc _ _ (by rw [s.newCmd_opc _ _ _ _ (by decide)]; decide)
    have hrun := (State.startCmd_sessionOpen hopc hleg).trans
      (State.doSession_opens ((hst.frame.conf p).trans hc) ((congrArg SecPart.session (hst.frame.secp p)).trans hx))
    obtain ⟨hdone, hsec, -⟩ := hst.done1_secp (fun y => { y with
      session := some (shake256 ct), rxCtr := [], txCtr := []
      keys := shake512 (b256 (kemDecap t.sec.rs ct) ++ ascii "TQ64 SES" ++ [BitVec.ofNat 8 p] ++ b256 (shake256 ct)) }) 0 0 0
    refine ⟨_, hex.trans (congrArg _ hrun), hdone, hsec.trans ?_⟩
    rw [hst.frame.sec]
  case notOpened =>
    obtain ⟨t, hex, hst, hleg, hopc⟩ := State.runs_legal (e := .none) (i := .sessionOpen q h) ht (by decide) rfl hleg fun t _ =>
      t.cmdFree_of_opc _ _ (by rw [s.newCmd_opc _ _ _ _ (by decide)]; decide)
    have hrun := (State.startCmd_sessionOpen hopc hleg).trans
      (State.doSession_refused (by rw [hst.frame.conf, hst.frame.secp]; exact hc))
    exact ⟨_, hex.trans (congrArg _ hrun), hst.done1 4 0 0⟩
  case measure =>
    obtain ⟨t, hex, hst, hleg, hopc⟩ := State.runs_legal (e := .none) (i := .measure q h) ht (by decide) rfl hleg fun t hf => by
      unfold State.cmdFree
      rw [s.newCmd_opc _ _ _ _ (by decide), hf.mvPart]
      exact Bool.or_eq_true_iff.mpr (.inr (congrArg (!·) hmv))
    have hrun := (State.startCmd_measure hopc hleg).trans (State.doMeasure_waits (by rw [hst.frame.hostFault]; exact hf))
    obtain ⟨hsec, hfunc, -, -, hmem⟩ := hst.updSecp (fun x => { x with hashQ := x.hashQ ++ [((s.func p).serial, va, n, [])] })
    exact ⟨_, hex.trans (congrArg _ hrun), hst.holds hfunc, hsec, hmem⟩
  case link =>
    intro l b kek w ht hleg hc hk hroom hmv hf hb
    obtain ⟨t, hex, hst, hleg, hopc⟩ := State.runs_legal (e := .none) (i := .linkKey q h .none) ht (by decide) rfl hleg fun t hf => by
      unfold State.cmdFree
      rw [s.newCmd_opc _ _ _ _ (by decide), hf.mvPart]
      exact Bool.or_eq_true_iff.mpr (.inr (congrArg (!·) hmv))
    have hread : t.hostRead p va (4 * n) = .inl b := by
      rw [hst.frame.hostRead]
      exact State.hostRead_good hf hb
    have hlink : t.mayLink p h b := ⟨(hst.frame.conf p).trans hc, by rw [hst.frame.secp]; exact hk,
      by rw [hst.frame.clusterRoom, hst.frame.logCl, hst.frame.sameMap.lead, hst.frame.secp]; exact hroom, hread⟩
    have hopens : t.linkOpen p h = gcmOpen kek 0#96 [] (w.take 32) (w.drop 32) := by
      rw [State.linkOpen, State.linkKek, hst.frame.sec]
    refine ⟨_, hex.trans (congrArg _ (State.startCmd_linkKey hopc hleg)), fun k hopen => ?_, fun hopen => ?_⟩
    · obtain ⟨hdone, hsec, hmem⟩ := hst.done1_secp (SecPart.linked h k b) 0 0 0
      rw [State.doLinkKey_opens (c := s.newCmd p 0x23 h .none) rfl hlink (hopens.trans hopen)]
      exact ⟨hdone, (congrArg SecPart.keyJob hsec :), (congrArg SecPart.jobKey hsec :), (congrArg SecPart.peers hsec :), hmem⟩
    · rw [State.doLinkKey_refused (c := s.newCmd p 0x23 h .none) rfl hlink (hopens.trans hopen)]
      exact hst.done1 4 0 0
  case erased =>
    obtain ⟨t, hex, hst, hleg, hopc⟩ := State.runs_legal (e := .none) (i := .linkKeyErase q h) ht (by decide) rfl hleg fun t _ =>
      t.cmdFree_of_opc _ _ (by rw [s.newCmd_opc _ _ _ _ (by decide)]; decide)
    have hdrop : t.dropLinkKey p j = t.eraseKey p := by
      unfold State.dropLinkKey
      rw [State.abandonFabOf_none fun c hc y hy => ?_]
      · exact if_pos (by rw [hst.frame.secp]; exact ⟨hk, hj⟩)
      · rw [hst.frame.sameMap.clustersOf] at hc
        rw [hst.frame.cl c, show ({ s.cl c with ctl := (t.cl c).ctl } : Cluster).fab = [] from hfab c hc] at hy
        exact absurd hy List.not_mem_nil
    obtain ⟨hdone, hsec, hmem⟩ := hst.done1_secp (fun x => { x with
      jobKey := none, keyJob := 0, peers := [], txCount := [], rxHigh := [], rxSeen := [] }) 0 0 0
    refine ⟨_, hex.trans (congrArg _ ((State.startCmd_linkKeyErase hopc hleg).trans
      (congrArg (fun u : State => u.done1 p (s.newCmd p 0x24 h .none) stOk 0 0) hdrop))), hdone, ?_, ?_, ?_, hmem⟩
    · exact (congrArg SecPart.jobKey hsec :)
    · exact (congrArg SecPart.peers hsec :)
    · exact (congrArg SecPart.session hsec :)
  case notHeld =>
    obtain ⟨t, hex, hst, hleg, hopc⟩ := State.runs_legal (e := .none) (i := .linkKeyErase q h) ht (by decide) rfl hleg fun t _ =>
      t.cmdFree_of_opc _ _ (by rw [s.newCmd_opc _ _ _ _ (by decide)]; decide)
    have hdrop : t.dropLinkKey p j = t := by
      unfold State.dropLinkKey
      rw [State.abandonFabOf_none fun c hc y hy => ?_]
      · refine if_neg ?_
        rw [hst.frame.secp]
        rintro ⟨hj, hsome⟩
        rcases hk with hk | hk
        · exact hk hj
        · rw [show (s.secp p).jobKey = none from hk] at hsome
          exact Bool.false_ne_true hsome
      · rw [hst.frame.sameMap.clustersOf] at hc
        rw [hst.frame.cl c] at hy
        exact hfab c hc y hy
    exact ⟨_, hex.trans (congrArg _ ((State.startCmd_linkKeyErase hopc hleg).trans
      (congrArg (fun u : State => u.done1 p (s.newCmd p 0x24 h .none) stOk 0 0) hdrop))), hst.done1 0 0 0⟩

end Sys2Proof.Machine
end

section
/-! The turns of the signer and the hash engine, and sealed records (R754 to R757, R761, R762). -/
namespace Sys2Proof.Machine

/-! ### The signer -/

/-- The turn of the signer has passed to an owner. -/
def State.signing (s : State) (o : Nat) : State := { s with sec := { s.sec with signTurn := o } }

theorem State.signing_certificate (s : State) (o q : Nat) (l : List Byte) : (s.signing o).certificate q l = s.certificate q l := rfl

theorem execSignerTurn_idle {s : State} (hl : s.live = true) (h : (s.secp ((s.sec.signTurn + 1) % 9)).signQ = []) :
    exec .signerTurn s = .next (s.signing ((s.sec.signTurn + 1) % 9)) := by
  refine (whenLive_live _ _ hl).trans (congrArg _ ?_)
  generalize (s.sec.signTurn + 1) % 9 = o at h ⊢
  have h' : ((s.signing o).secp o).signQ = [] := h
  unfold State.signing at h'
  simp only [h']
  rfl

/-- The state in which a certificate has been made: the request has left its queue. -/
def State.signed (s : State) (o : Nat) (rest : List (Nat × List Byte)) : State :=
  State.updSecp { s.signing o with freeCtr := s.freeCtr + 1 } o (fun x => { x with signQ := rest })

theorem execSignerTurn_signs {s : State} {o n : Nat} {l : List Byte} {rest : List (Nat × List Byte)} {c : HCmd} (hl : s.live = true)
    (hturn : (s.sec.signTurn + 1) % 9 = o) (h : (s.secp o).signQ = (n, l) :: rest) (ho : o < 8) (hc : (s.func o).cmds = [c])
    (hn : c.serial = n) : exec .signerTurn s = .next ((s.signed o rest).sendData o c (s.certificate o l)) := by
  refine (whenLive_live _ _ hl).trans (congrArg _ ?_)
  rw [hturn]
  have h' : ((s.signing o).secp o).signQ = (n, l) :: rest := h
  have hfind : ((s.signed o rest).func o).cmds.find? (fun x => x.serial == n) = some c := by
    rw [show ((s.signed o rest).func o).cmds = [c] from hc]
    simp [hn]
  unfold State.signing at h'
  simp only [h']
  rw [if_neg (by omega)]
  refine (congrArg (fun r : Option HCmd => match r with
    | none => s.signed o rest
    | some c => (s.signed o rest).sendData o c ((s.signing o).certificate o l)) hfind :)

/-! ### The hash engine -/

/-- The slot of the hash engine has passed to an owner. -/
def State.hashing (s : State) (o : Nat) : State := { s with sec := { s.sec with hashTurn := o } }

theorem State.hashing_sameMap (s : State) (o : Nat) : s.sameMap (s.hashing o) where
  rd := rfl
  own := rfl
  ptRoot _ := rfl
  coremap _ := rfl
  ptes _ := rfl
  lmap _ := rfl
  dmaq _ := rfl

theorem State.hashing_hostRead (s : State) (o : Nat) : (s.hashing o).hostRead = s.hostRead :=
  (s.hashing_sameMap o).hostRead ⟨rfl, rfl, fun _ => rfl⟩

theorem State.hashing_mvPart (s : State) (o p va n : Nat) : (s.hashing o).mvPart p va n = s.mvPart p va n := by
  simp only [State.mvPart, (s.hashing_sameMap o).pte]

theorem execHashSlot_idle {s : State} (hl : s.live = true) (h : (s.secp ((s.sec.hashTurn + 1) % 9)).hashQ = []) :
    exec (.hashSlot .none) s = .next (s.hashing ((s.sec.hashTurn + 1) % 9)) := by
  refine (whenLive_live _ _ hl).trans (congrArg _ ?_)
  generalize (s.sec.hashTurn + 1) % 9 = o at h ⊢
  have h' : ((s.hashing o).secp o).hashQ = [] := h
  unfold State.hashing at h'
  simp only [h']
  rfl

/-- The queue of measurements of an owner. -/
def State.hashQueue (s : State) (o : Nat) (l : List (Nat × Nat × Nat × List Byte)) : State := s.updSecp o (fun x => { x with hashQ := l })

/-- A slot takes a piece of the oldest MEASURE of its owner, the last one or not. -/
theorem execHashSlot_takes {s : State} {o n va left : Nat} {got : List Byte} {rest : List (Nat × Nat × Nat × List Byte)}
    (hl : s.live = true) (hturn : (s.sec.hashTurn + 1) % 9 = o) (h : (s.secp o).hashQ = (n, va, left, got) :: rest)
    (hm : s.mvPart o va (min 4096 left) = false) (hf : ∀ a ∈ pagesOf va (min 4096 left), s.hostFault o a false = none)
    (hb : s.vbad o va (min 4096 left) = false) :
    exec (.hashSlot .none) s = .next (
      if left ≤ 4096 then ((s.hashing o).hashQueue o rest).measured o n (got ++ s.vrdN o va (min 4096 left))
      else (s.hashing o).hashQueue o ((n, va + min 4096 left, left - min 4096 left, got ++ s.vrdN o va (min 4096 left)) :: rest)) := by
  refine (whenLive_live _ _ hl).trans (congrArg _ ?_)
  rw [hturn]
  have h' : ((s.hashing o).secp o).hashQ = (n, va, left, got) :: rest := h
  have hm' : (s.hashing o).mvPart o va (min 4096 left) = false := (s.hashing_mvPart o o va _).trans hm
  have hread : (s.hashing o).hostRead o va (min 4096 left) = .inl (s.vrdN o va (min 4096 left)) := by
    rw [State.hashing_hostRead]
    exact State.hostRead_good hf hb
  unfold State.hashing at h' hm' hread
  simp only [h', hm', State.hostMeets_none, hread]
  rfl

/-- The only command of a function completes. -/
theorem State.complete_only {s : State} {p : Nat} {c : HCmd} (h : (s.func p).cmds = [c]) (st fc d0 d1 : Nat) :
    s.complete p c.serial st fc d0 d1 = (s.postCompletion p c st fc d0 d1).updFunc p (fun f => { f with cmds := [], nrdy := false }) := by
  have hfind : (s.func p).cmds.find? (fun x => x.serial == c.serial) = some c := by simp [h]
  have hcmds : ((s.postCompletion p c st fc d0 d1).func p).cmds = [c] := by
    rw [State.postCompletion, State.func_updFunc_same, h]
  unfold State.complete
  rw [hfind]
  exact State.updFunc_congr _ _ (by simp [hcmds])

/-- The last piece of a range: the measurement register is extended, and the MEASURE completes. -/
theorem State.measured_completes {s : State} {o : Nat} {c : HCmd} (h : (s.func o).cmds = [c]) (l : List Byte) :
    let t := s.measured o c.serial l
    (t.secp o).hashQ = (s.secp o).hashQ ∧ (t.func o).cmds = [] ∧
      (t.secp o).pm = shake256 (b256 (s.secp o).pm ++ b256 (shake256 l)) ∧ (t.secp o).next = (s.secp o).next + 1#64 ∧
      (t.func o).out = queueCompletion (s.func o).out { Completion.init with
        tag := c.hdr.tag, opc := c.opc, tArr := c.tArr, tDone := s.nsW, d0 := (s.secp o).next + 1#64, serial := c.serial, cycle := s.cycle } := by
  let f (y : SecPart) : SecPart := { y with
    pm := shake256 (b256 (s.secp o).pm ++ b256 (shake256 l)), next := (s.secp o).next + 1#64 }
  have hmeasured : s.measured o c.serial l = ((s.updSecp o f).postCompletion o c stOk 0 ((s.secp o).next + 1#64).toNat 0).updFunc o
      (fun f => { f with cmds := [], nrdy := false }) := by
    unfold State.measured
    dsimp only
    rw [State.complete_only (s := s.updSecp o f) h]
    exact State.pump_none _ _ (by rw [State.func_updFunc_same])
  have hsecp : (((s.updSecp o f).postCompletion o c stOk 0 ((s.secp o).next + 1#64).toNat 0).updFunc o
      (fun f => { f with cmds := [], nrdy := false })).secp o = f (s.secp o) := State.secp_updSecp_same s o f
  dsimp only
  rw [hmeasured]
  refine ⟨?_, ?_, ?_, ?_, ?_⟩
  · rw [hsecp]
  · rw [State.func_updFunc_same]
  · rw [hsecp]
  · rw [hsecp]
  · rw [State.func_updFunc_same]
    simp only [State.postCompletion, State.func_updFunc_same]
    rw [BitVec.ofNat_toNat, BitVec.setWidth_eq]
    rfl

/-- What a slot of the hash engine does to the oldest MEASURE of its owner (R756, R757). -/
theorem hashSlots (s : State) :
    let o := (s.sec.hashTurn + 1) % 9
    s.live = true →
    ∀ n va left got rest c, (s.secp o).hashQ = (n, va, left, got) :: rest → (s.func o).cmds = [c] → c.serial = n →
      s.mvPart o va (min 4096 left) = false →
      (∀ a ∈ pagesOf va (min 4096 left), s.hostFault o a false = none) → s.vbad o va (min 4096 left) = false →
      (left ≤ 4096 →
        ∃ t, exec (.hashSlot .none) s = .next t ∧ (t.secp o).hashQ = rest ∧ (t.func o).cmds = [] ∧
          (t.secp o).pm = shake256 (b256 (s.secp o).pm ++ b256 (shake256 (got ++ s.vrdN o va left))) ∧
          (t.secp o).next = (s.secp o).next + 1#64 ∧
          (t.func o).out = queueCompletion (s.func o).out { Completion.init with
            tag := c.hdr.tag, opc := c.opc, tArr := c.tArr, tDone := s.nsW, d0 := (s.secp o).next + 1#64, serial := c.serial,
            cycle := s.cycle }) ∧
      (4096 < left →
        ∃ t, exec (.hashSlot .none) s = .next t ∧ (t.secp o).pm = (s.secp o).pm ∧ (t.func o).cmds = [c] ∧
          (t.secp o).hashQ = (n, va + 4096, left - 4096, got ++ s.vrdN o va 4096) :: rest) := by
  intro o hl n va left got rest c hq hc hn hm hf hb
  have htakes := execHashSlot_takes hl rfl hq hm hf hb
  refine ⟨fun hle => ?_, fun hlt => ?_⟩
  · have hmin : min 4096 left = left := by omega
    rw [if_pos hle, hmin, ← hn] at htakes
    have hsame : (((s.hashing o).hashQueue o rest).secp o) = { s.secp o with hashQ := rest } := State.secp_updSecp_same _ _ _
    obtain ⟨hq', hcmds, hpm, hnext, hout⟩ := State.measured_completes (s := (s.hashing o).hashQueue o rest) (o := o) (c := c) hc
      (got ++ s.vrdN o va left)
    rw [hsame] at hq' hpm hnext hout
    exact ⟨_, htakes, hq', hcmds, hpm, hnext, hout⟩
  · have hmin : min 4096 left = 4096 := by omega
    rw [if_neg (by omega), hmin] at htakes
    refine ⟨_, htakes, ?_, hc, ?_⟩
    · rw [State.hashQueue, State.secp_updSecp_same]
      rfl
    · rw [State.hashQueue, State.secp_updSecp_same]

/-! ### Sealed records -/

/-- The state in which a record has been opened: the next count of its channel, and its plaintext. -/
def SecPart.opened (chan : Nat) (l : List Byte) (x : SecPart) : SecPart := { x with
  rxCtr := x.rxCtr.upd 0#64 chan (fun v => v + 1#64)
  ep1 := if chan = 0 then x.ep1 ++ l else x.ep1
  ep2 := if chan = 1 then x.ep2 ++ l else x.ep2 }

theorem State.takeRecord_bad {s : State} {p : Nat} {data : List Byte} (h : s.openRecord p data = none) :
    s.takeRecord p data = (s.disableFunc p).closeSession p := by
  rw [State.takeRecord, h]

theorem State.takeRecord_good {s : State} {p : Nat} {data l : List Byte} (h : s.openRecord p data = some l) :
    s.takeRecord p data = (s.updSecp p (SecPart.opened (recN data 4 1) l)).takeAll p := by
  rw [State.takeRecord, h]
  rfl

/-- A function with an open session takes a record when its bursts are granted. -/
theorem execSealedRecord_granted {s : State} {q : Fin 8} {data : List Byte} (hl : s.live = true) (hr : s.boot.running = true)
    (ho : s.portOpen = true) (hst : (s.func q.val).st = .operating) (hc : (s.func q.val).cmds = [])
    (hg : s.granted q.val data.length) (hx : (s.secp q.val).session.isSome = true) :
    ∃ u : State, exec (.sealedRecord q data) s = .next (u.takeRecord q.val data) ∧
      u = { s with usb := { s.usb with slotPos := u.usb.slotPos, lastBorrow := u.usb.lastBorrow } } := by
  obtain ⟨u, hu, hframe⟩ := s.inBursts_granted q.val data.length (fun s => s.takeRecord q.val data) hg
  refine ⟨u, (whenLive_live _ _ hl).trans (congrArg _ ((if_neg ?_).trans ((if_neg ?_).trans hu))), hframe⟩
  · rw [Option.isNone_eq_false_iff.mpr hx, hr, ho, hst]
    decide
  · simp [State.funcFull, hc]

/-- Plaintext without host data: none is taken. -/
theorem State.takeHostData_none {s : State} {p : Nat} (h : (s.secp p).ep2 = []) :
    s.takeHostData p ((s.secp p).ep2.length / 64) = s := by
  rw [h]
  rfl

/-- Plaintext shorter than a command waits. -/
theorem State.takeCmds_short {s : State} {p n : Nat} (h2 : (s.secp p).ep2 = []) (h1 : (s.secp p).ep1.length < 64) :
    s.takeCmds p n = s := by
  cases n with
  | zero => rfl
  | succ n =>
    unfold State.takeCmds
    simp only [State.takeHostData_none h2]
    exact if_pos (by omega)

/-- The command that stands alone in the plaintext arrives, and nothing is left of it. -/
theorem State.takeCmds_one {s : State} {p n : Nat} (h2 : (s.secp p).ep2 = []) (h1 : (s.secp p).ep1.length = 64)
    (hlen : recBits (s.secp p).ep1 96 12 = 0) (hopc : recN (s.secp p).ep1 0 1 ≠ 0x0C) (hfull : s.funcFull p = false) :
    s.takeCmds p (n + 1) = State.takeCmds ((s.updSecp p (fun x => { x with ep1 := [] })).arriveCmd p (recN (s.secp p).ep1 0 1)
      (headerOf (s.secp p).ep1 []) .none) p n := by
  have hdrop : (s.secp p).ep1.drop 64 = [] := List.drop_eq_nil_of_le (by omega)
  rw [State.takeCmds]
  simp only [State.takeHostData_none h2, hlen, h1, hfull, hopc, Nat.add_zero, Nat.lt_irrefl, if_false, Bool.false_eq_true, hdrop]
  rfl

/-- A command that arrives at a function without others starts where its resources are free. -/
theorem State.arriveCmd_starts (s : State) (p opc : Nat) (h : CmdHdr) (e : MemErr) (hst : (s.func p).st = .operating)
    (hcmds : (s.func p).cmds = []) (hc : s.conf p = true → (s.secp p).session = none → opc = 0x00 ∨ opc = 0x20 ∨ opc = 0x21)
    (hfree : ∀ t, s.hostFrame t p → t.cmdFree p (s.newCmd p opc h e) = true) :
    ∃ t : State, s.arriveCmd p opc h e = t.startCmd p (s.newCmd p opc h e) ∧ s.starts t p opc h e := by
  have hfunc : (s.accepted p opc h e).func p = { s.func p with serial := (s.func p).serial + 1, cmds := [s.newCmd p opc h e] } := by
    rw [State.func_accepted, hcmds]
    rfl
  have hframe := s.accepted_hostFrame p opc h e
  refine ⟨(s.accepted p opc h e).startedAll p, ?_, hframe.updFunc _, ?_⟩
  · rw [s.arriveCmd_operating p opc h e hst hc]
    exact State.pump_alone _ p _ (by rw [hfunc]) rfl (hfree _ hframe)
  · rw [State.startedAll, State.func_updFunc_same, hfunc]
    rfl

theorem State.startCmd_nop {t : State} {p : Nat} {c : HCmd} (ho : c.opc.toNat = 0x00) (hl : t.cmdIllegal p 0x00 c.hdr = false) :
    t.startCmd p c = t.done1 p c stOk 0 0 := by
  unfold State.startCmd
  rw [ho]
  exact if_neg (Bool.eq_false_iff.mp hl)

theorem State.done1_sec (s : State) (p : Nat) (c : HCmd) (st fc d0 : Nat) : (s.done1 p c st fc d0).sec = s.sec := by
  unfold State.done1 State.complete
  split <;> rfl

/-- A NOP that a record brings completes, and leaves no plaintext. -/
theorem State.takeCmds_nop {v : State} {p : Nat} (h2 : (v.secp p).ep2 = []) (h1 : (v.secp p).ep1.length = 64)
    (hlen : recBits (v.secp p).ep1 96 12 = 0) (hopc : recN (v.secp p).ep1 0 1 = 0) (hst : (v.func p).st = .operating)
    (hc : (v.func p).cmds = []) (hx : (v.secp p).session.isSome = true)
    (hill : v.cmdIllegal p 0x00 (headerOf (v.secp p).ep1 []) = false) :
    v.completes (v.takeCmds p 2) p (headerOf (v.secp p).ep1 []) 0x00 0 0 0 ∧
      (v.takeCmds p 2).secp p = { v.secp p with ep1 := [] } := by
  have hsecp : (v.updSecp p (fun x => { x with ep1 := [] })).secp p = { v.secp p with ep1 := [] } := State.secp_updSecp_same _ _ _
  rw [State.takeCmds_one h2 h1 hlen (by rw [hopc]; decide) (by simp [State.funcFull, hc]), hopc]
  obtain ⟨t, hex, ht⟩ := (v.updSecp p (fun x => { x with ep1 := [] })).arriveCmd_starts p 0x00 (headerOf (v.secp p).ep1 []) .none hst hc
    (fun _ hn => by
      have hnone : (v.secp p).session = none := (congrArg SecPart.session hsecp).symm.trans hn
      rw [hnone] at hx
      exact absurd hx Bool.false_ne_true)
    fun t _ => t.cmdFree_of_opc _ _ (by rw [State.newCmd_opc _ _ _ _ _ (by decide)]; decide)
  have hleg : t.cmdIllegal p 0x00 (headerOf (v.secp p).ep1 []) = false :=
    (State.cmdIllegal_congr (s := v) (ht.frame.jobs p) _ _).trans hill
  have hnop := State.startCmd_nop (t := t) (p := p) (State.newCmd_opc (v.updSecp p (fun x => { x with ep1 := [] })) p 0x00
    (headerOf (v.secp p).ep1 []) .none (by decide)) hleg
  have hleft : ∀ st fc d0 c, (t.done1 p c st fc d0).secp p = { v.secp p with ep1 := [] } := fun st fc d0 c => by
    rw [State.secp, State.done1_sec]
    exact (ht.frame.secp p).trans hsecp
  rw [hex, hnop, State.takeCmds_short (by rw [hleft]; exact h2) (by rw [hleft]; exact Nat.zero_lt_succ 63)]
  exact ⟨(ht.done1 0 0 0).1, hleft _ _ _ _⟩

theorem securityTurns : Claims.SecurityTurns := by
  refine ⟨fun s => ?signer, fun s => ?hash, fun q data s => ?record⟩
  case signer =>
    intro o hl
    refine ⟨fun h => execSignerTurn_idle hl h, fun n l rest c h ho hc hn => ?_⟩
    refine ⟨_, execSignerTurn_signs hl rfl h ho hc hn, rfl, ?_, ?_, ?_⟩
    · exact (congrArg SecPart.signQ (State.secp_updSecp_same _ _ _) :)
    · rw [State.sendData, State.func_updFunc_same]
      exact hc
    · rw [State.sendData, State.func_updFunc_same, hn]
      rfl
  case hash => exact fun hl => ⟨fun h => execHashSlot_idle hl h, hashSlots s hl⟩
  case record =>
    intro p hl hr ho hst hc hg hx
    obtain ⟨u, hex, hu⟩ := execSealedRecord_granted hl hr ho hst hc hg hx
    have hfu : u.func p = s.func p := by rw [hu]; rfl
    have hopen : u.openRecord p data = s.openRecord p data := by rw [hu]; rfl
    have hsu : u.secp p = s.secp p := by rw [hu]; rfl
    have hcount : ((s.secp p).rxCtr.upd 0#64 0 (fun v => v + 1#64)).get 0#64 0 = (s.secp p).rxCtr.get 0#64 0 + 1#64 :=
      SMap.get_upd_same (s.secp p).rxCtr 0#64 0 (fun v => v + 1#64)
    refine ⟨⟨_, hex, fun hbad => ?_⟩, fun hchan h1 h2 => ⟨_, hex, fun l hl hlen => ?_, fun l hl hlen hplen hopc hill => ?_⟩⟩
    · rw [State.takeRecord_bad (hopen.trans hbad), State.disableFunc_idle u p (by rw [hfu]; exact hc) (by rw [hfu]; exact hst)]
      refine ⟨?_, ?_, ?_, by rw [hu]; rfl⟩
      · exact (congrArg Func.st (State.func_updFunc_same u p (fun f => { f with st := .draining, dNs := u.nsW, nrdy := false })) :)
      · exact (congrArg SecPart.session (State.secp_updSecp_same _ p _) :)
      · exact (congrArg SecPart.keys (State.secp_updSecp_same _ p _) :)
    all_goals
      have hsecp : (u.updSecp p (SecPart.opened (recN data 4 1) l)).secp p = { s.secp p with
          ep1 := l, rxCtr := (s.secp p).rxCtr.upd 0#64 0 (fun v => v + 1#64) } := by
        rw [State.secp_updSecp_same, hchan, hsu]
        simp [SecPart.opened, h1]
      rw [State.takeRecord_good (hopen.trans hl), State.takeAll]
    · rw [State.takeCmds_short (by rw [hsecp]; exact h2) (by rw [hsecp]; exact hlen), hsecp]
      exact ⟨rfl, by rw [hu]; rfl, hcount⟩
    · rw [show ((u.updSecp p (SecPart.opened (recN data 4 1) l)).secp p).ep1.length / 64 + 1 = 2 by rw [hsecp, hlen]]
      generalize hv : u.updSecp p (SecPart.opened (recN data 4 1) l) = v at hsecp ⊢
      have hep : (v.secp p).ep1 = l := by rw [hsecp]
      have hfv : v.func p = s.func p := by rw [← hv]; exact hfu
      have hill' : v.cmdIllegal p 0x00 (headerOf (v.secp p).ep1 []) = false := by
        rw [hep, State.cmdIllegal_congr (s := s) (by rw [← hv, hu]; rfl)]
        exact hill
      obtain ⟨hdone, hsec⟩ := State.takeCmds_nop (v := v) (p := p) (by rw [hsecp]; exact h2) (by rw [hep]; exact hlen)
        (by rw [hep]; exact hplen) (by rw [hep]; exact hopc) (by rw [hfv]; exact hst) (by rw [hfv]; exact hc) (by rw [hsecp]; exact hx) hill'
      rw [hep] at hdone
      refine ⟨?_, by rw [hsec], by rw [hsec, hsecp]; exact hcount⟩
      obtain ⟨hcmds, hout⟩ := hdone
      refine ⟨hcmds, ?_⟩
      rw [hout, hfv, ← hv, hu]
      rfl

/-- Settles O50: the security commands by what they do as they start; the turns of the engines, and records, by their branches. -/
theorem security : Obligations.Security := ⟨hostSecurity, securityTurns⟩

end Sys2Proof.Machine
end

section
/-! A SEAL of a page whose walk meets a pointer out of the lead cluster's store (R79, R95, R930). -/
namespace Sys2Proof.Machine

/-- Partition 0 has tables whose first level-1 entry points into a stack, and holds an allocation of page 1, which may be shared; no table
in memory reaches that page. -/
def strayTables : State :=
  { State.reset with
    pins := { Pins.init with resetN := true, clocksOn := true }
    boot := { State.reset.boot with running := true }
    dev := { Dev.init with master := true, own := [(0, { clusters := 1#8, stks := 0#8, conf := false, v := true })] }
    clusters := [(0, { Cluster.init with powered := true, ptRoot := 0xF000000000#40 })]
    parts := [(0, { Part.init with allocs := [(1, { Alloc.init with pages := 1, sh := true })] })]
    mem := Memory.writeN [] 0xF000000000 [0, 0, 0, 0, 0, 0, 0, 0x80]
    usb := { Usb.init with connected := true, speed := 5#3, funcs := [(0, { Func.init with st := .operating })] } }

/-- The SEAL of that allocation. -/
def straySeal : CmdHdr := { CmdHdr.init with arg0 := 0x10000#64 }

/-- Whether the entry of page 1 is read-only after a step. -/
def Out.sealed : Out → Bool
  | .next t => pteRo (t.pte 0 1)
  | _ => true

theorem strayTables_takes : strayTables.takes 0 0x0B straySeal := by
  dsimp only [State.takes, State.granted]
  decide

theorem strayTables_unwalked : strayTables.unwalked 0 1 1 := by
  dsimp only [State.unwalked]
  decide

/-- The page reads as unmapped, before the SEAL and after it. -/
theorem strayTables_unsealed : Out.sealed (exec (.seal 0 straySeal) strayTables) = false := by decide

/-- Refutes O8: where the walk of a page is blocked no entry of the part's own map is seen, so that a SEAL, as an ALLOC, leaves the page
without an entry. -/
theorem not_hostMemoryMap : ¬ Obligations.HostMemoryMap := by
  unfold Obligations.HostMemoryMap
  intro h
  obtain ⟨-, -, -, -, -, hseal, -⟩ := h 0 straySeal strayTables
  obtain ⟨t, ht, -, -, hro, -⟩ := hseal { Alloc.init with pages := 1, sh := true } strayTables_takes (by decide) (by decide) (by decide) rfl
    strayTables_unwalked
  have hstep := strayTables_unsealed
  rw [ht] at hstep
  exact absurd ((hro 0 (by decide)).symm.trans hstep) (by decide)

end Sys2Proof.Machine
end

section
/-! Host WRITEs and READs (R625, R626, R928). -/
namespace Sys2Proof.Machine

/-! ### Accesses of the host within a page -/

theorem pagesOf_page {va n : Nat} (h0 : 0 < n) (h : va % 65536 + n ≤ 65536) : pagesOf va n = [va] := by
  have : (va + n - 1) / 65536 - va / 65536 + 1 = 1 := by omega
  simp only [pagesOf, this, if_neg (Nat.ne_of_gt h0)]
  rfl

/-- The first page of a range is that of its address. -/
theorem pagesOf_cons {va n : Nat} (h0 : 0 < n) : ∃ l, pagesOf va n = va :: l := by
  rw [pagesOf, if_neg (Nat.ne_of_gt h0)]
  refine ⟨(upTo ((va + n - 1) / 65536 - va / 65536)).map (fun i => (va / 65536 + (i + 1)) * 65536), ?_⟩
  simp only [upTo, List.range_succ_eq_map, List.map_cons, List.map_map]
  rfl

section
variable {s : State} {p va : Nat} {l : List Byte} (h0 : 0 < l.length) (h : va % 65536 + l.length ≤ 65536)
include h0 h

theorem State.hostWrite_page {a : Nat} (hf : s.hostFault p va true = none) (ha : s.va? p va = some a)
    (hb : s.badPart a l.length = none) :
    s.hostWrite p va l = (((s.store a l).taintQueues p va l.length).noteChangeV p none va l.length, none) := by
  have hmin : min (l.length - 0) (65536 - va % 65536) = l.length := by omega
  unfold State.hostWrite
  rw [pagesOf_page h0 h, List.foldl_cons, List.foldl_nil]
  simp only [hf, ha, hmin, hb, Option.getD_none, Nat.sub_self, List.drop_zero, List.take_length, Nat.lt_irrefl, if_false,
    State.vwr_page h0 h ha]

theorem State.hostWrite_fault {f : Nat} (hf : s.hostFault p va true = some f) :
    s.hostWrite p va l = (s.hostNote p va f, some f) := by
  unfold State.hostWrite
  rw [pagesOf_page h0 h, List.foldl_cons, List.foldl_nil]
  simp only [hf]

end

/-- A read whose first page faults notes that page. -/
theorem State.hostRead_fault {s : State} {p va n f : Nat} (h0 : 0 < n) (hf : s.hostFault p va false = some f) :
    s.hostRead p va n = .inr f ∧ s.hostMiss p va n .none = s.hostNote p va f := by
  obtain ⟨l, hl⟩ := pagesOf_cons (va := va) h0
  refine ⟨?_, ?_⟩
  · unfold State.hostRead
    rw [hl, List.findSome?_cons, hf]
  · unfold State.hostMiss
    rw [hl, List.find?_cons, hf]
    simp [hf]

/-- The bytes of a good write, and of the rest of memory, after it. -/
theorem State.hostPut_rd (s : State) (p va a n : Nat) (l : List Byte) :
    (((s.store a l).taintQueues p va n).noteChangeV p none va n).rd = (s.store a l).rd := by
  have hbook := ((s.store a l).taintQueues_keptBook p va n).trans (State.noteChangeV_keptBook _ p none va n)
  exact State.rd_congr (by rw [hbook.frame]) (by rw [hbook.frame]) (by rw [hbook.frame]) (by rw [hbook.frame])

/-! ### What a refused access leaves -/

theorem State.hostFrame.outside {s t : State} {p : Nat} (h : s.hostFrame t p) : t.outside = s.outside := by
  funext p va
  simp only [State.outside, h.sameMap.pte, h.sameMap.walkOut, h.sameMap.physCl, h.sameMap.ownerSt]

/-- An access outside the ownership counts; one to a failed stack enters the stack's log, and no other. -/
theorem State.hostNote_counts (s : State) (p va f : Nat) : (f ≠ 8 → (s.hostNote p va f).hbm = s.hbm) ∧
    ((s.hostNote p va f).part p).badAccess = (s.part p).badAccess + (if f ≠ 8 ∧ s.outside p va then 1 else 0) := by
  have h8 : fcUe = 8 := rfl
  unfold State.hostNote
  by_cases hf : f = 8
  · rw [if_pos (hf.trans h8.symm)]
    refine ⟨fun h => absurd hf h, ?_⟩
    rw [if_neg fun h => h.1 hf]
    split
    · unfold State.logUe
      split
      · split
        · rfl
        · split <;> rfl
      · rfl
    · rfl
  · rw [if_neg (by rw [h8]; exact hf)]
    unfold State.noteOutside
    by_cases ho : s.outside p va = true
    · rw [if_pos ho, if_pos ⟨hf, ho⟩, State.part_updPart_same]
      exact ⟨fun _ => rfl, rfl⟩
    · rw [if_neg ho, if_neg fun h => ho h.2]
      exact ⟨fun _ => rfl, rfl⟩

theorem State.done1_frame (s : State) (p : Nat) (c : HCmd) (st fc d0 : Nat) :
    s.done1 p c st fc d0 = { s with usb := (s.done1 p c st fc d0).usb } := by
  unfold State.done1 State.complete
  split <;> rfl

/-- A command whose access is refused completes FAULTED. -/
theorem State.starts.missed {s t : State} {p opc : Nat} {h : CmdHdr} {e : MemErr} (ht : s.starts t p opc h e) (va f : Nat) :
    s.completes ((t.hostNote p va f).done1 p (s.newCmd p opc h e) stFaulted f 0) p h opc 2 f 0 ∧
      Claims.hostMissed s ((t.hostNote p va f).done1 p (s.newCmd p opc h e) stFaulted f 0) p va f := by
  have hnote := t.hostNote_onlyNotes p va f
  obtain ⟨hhbm, hbad⟩ := t.hostNote_counts p va f
  have hdone := (t.hostNote p va f).done1_frame p (s.newCmd p opc h e) stFaulted f 0
  have hfunc : (t.hostNote p va f).func p = t.func p := by rw [hnote]; rfl
  have hns : (t.hostNote p va f).nsW = s.nsW := by rw [hnote]; exact ht.frame.nsW
  have hcyc : (t.hostNote p va f).cycle = s.cycle := by rw [hnote]; exact ht.frame.cycle
  refine ⟨State.done1_completes (hfunc.trans ht.func) hns hcyc _ _ _, ?_, fun hf => ?_, ?_⟩
  · rw [hdone, hnote, ht.frame.1]
  · rw [hdone]
    exact (hhbm hf).trans (by rw [ht.frame.1])
  · rw [hdone]
    refine hbad.trans ?_
    rw [ht.frame.outside, ht.frame.part p]

/-! ### The commands -/

section
variable {t : State} {p : Nat} {c : HCmd}

theorem State.startCmd_write (ho : c.opc.toNat = 0x0C) (hl : t.cmdIllegal p 0x0C c.hdr = false) : t.startCmd p c = t.cmdWrite p c := by
  unfold State.startCmd
  rw [ho]
  exact if_neg (Bool.eq_false_iff.mp hl)

theorem State.startCmd_read (ho : c.opc.toNat = 0x0D) (hl : t.cmdIllegal p 0x0D c.hdr = false) : t.startCmd p c = t.doRead p c := by
  unfold State.startCmd
  rw [ho]
  exact if_neg (Bool.eq_false_iff.mp hl)

/-- The data header of a WRITE fits its command (R625). -/
def fitsData (h : CmdHdr) : Prop :=
  recN h.payload 0 4 = h.tag.toNat ∧ recBits h.payload 32 2 = 0 ∧ recN h.payload 8 8 = h.arg1.toNat

theorem State.cmdWrite_done {w : State} (hf : fitsData c.hdr) (he : c.err = .none)
    (hput : t.hostWrite p c.hdr.arg0.toNat (sliceB c.hdr.payload 64 c.hdr.arg1.toNat) = (w, none)) :
    t.cmdWrite p c = w.done1 p c stOk 0 0 := by
  obtain ⟨htag, hres, hlen⟩ := hf
  unfold State.cmdWrite
  dsimp only
  rw [if_neg (by simp [htag, hres, hlen]), he, State.hostMeets_none, hput]

theorem State.cmdWrite_fault {w : State} {f : Nat} (hf : fitsData c.hdr) (he : c.err = .none)
    (hput : t.hostWrite p c.hdr.arg0.toNat (sliceB c.hdr.payload 64 c.hdr.arg1.toNat) = (w, some f)) :
    t.cmdWrite p c = w.done1 p c stFaulted f 0 := by
  obtain ⟨htag, hres, hlen⟩ := hf
  unfold State.cmdWrite
  dsimp only
  rw [if_neg (by simp [htag, hres, hlen]), he, State.hostMeets_none, hput]

theorem State.doRead_sends {l : List Byte} (he : c.err = .none) (hread : t.hostRead p c.hdr.arg0.toNat c.hdr.arg1.toNat = .inl l) :
    t.doRead p c = t.sendData p c l := by
  unfold State.doRead
  rw [he]
  simp only [State.hostMeets_none, hread]

theorem State.doRead_fault {f : Nat} (he : c.err = .none) (hread : t.hostRead p c.hdr.arg0.toNat c.hdr.arg1.toNat = .inr f) :
    t.doRead p c = (t.hostMiss p c.hdr.arg0.toNat c.hdr.arg1.toNat .none).done1 p c stFaulted f 0 := by
  unfold State.doRead
  rw [he]
  simp only [State.hostMeets_none, hread]

end

/-- Settles O9: the command starts alone, and its access is a store of one page, a read of bytes that may be read, or a refusal. -/
theorem hostReadsWrites : Obligations.HostReadsWrites := by
  intro q h s p va n
  have writes (ht : s.takes p 0x0C h) (hleg : s.cmdIllegal p 0x0C h = false) (hmv : s.mvPart p va n = false) :=
    State.runs_legal (e := .none) (i := .write q h .none) ht (by decide) rfl hleg fun t hf => by
      unfold State.cmdFree
      rw [s.newCmd_opc _ _ _ _ (by decide), hf.mvPart]
      exact Bool.or_eq_true_iff.mpr (.inr (congrArg (!·) hmv))
  have reads (ht : s.takes p 0x0D h) (hleg : s.cmdIllegal p 0x0D h = false) (hmv : s.mvPart p va n = false) :=
    State.runs_legal (e := .none) (i := .read q h .none) ht (by decide) rfl hleg fun t hf => by
      unfold State.cmdFree
      rw [s.newCmd_opc _ _ _ _ (by decide), hf.mvPart]
      exact Bool.or_eq_true_iff.mpr (.inr (congrArg (!·) hmv))
  have hlen : (sliceB h.payload 64 n).length = n := sliceB_length _ _ _
  refine ⟨fun d ht hleg htag hres hn hpay h0 hpage hmv hf hd hb => ?_, fun f ht hleg htag hres hn hpay h0 hpage hmv hf => ?_,
    fun ht hleg hmv hf hb => ?_, fun f ht hleg hmv h0 hf => ?_⟩
  · obtain ⟨t, hex, hst, hleg, hopc⟩ := writes ht hleg hmv
    have hput := State.hostWrite_page (s := t) (p := p) (l := sliceB h.payload 64 n) (by rw [hlen]; exact h0)
      (by rw [hlen]; exact hpage) (by rw [hst.frame.hostFault]; exact hf) (by rw [hst.frame.sameMap.va?]; exact hd)
      (by rw [hlen, hst.frame.sameErrors.badPart]; exact hb)
    have hrun := (State.startCmd_write hopc hleg).trans (State.cmdWrite_done ⟨htag, hres, hn⟩ rfl hput)
    have hhost : t.onlyHost (((t.store d (sliceB h.payload 64 n)).taintQueues p va (sliceB h.payload 64 n).length).noteChangeV p none va
        (sliceB h.payload 64 n).length) :=
      ((t.store_onlyMem d _).host.trans (State.taintQueues_keptBook _ p va _).host).trans (State.noteChangeV_keptBook _ p none va _).host
    have hrd := t.hostPut_rd p va d (sliceB h.payload 64 n).length (sliceB h.payload 64 n)
    generalize ((t.store d (sliceB h.payload 64 n)).taintQueues p va (sliceB h.payload 64 n).length).noteChangeV p none va
        (sliceB h.payload 64 n).length = w at hrun hhost hrd
    have hdone := w.done1_frame p (s.newCmd p 0x0C h .none) stOk 0 0
    have hrd : (w.done1 p (s.newCmd p 0x0C h .none) stOk 0 0).rd = (t.store d (sliceB h.payload 64 n)).rd :=
      (State.rd_congr (by rw [hdone]) (by rw [hdone]) (by rw [hdone]) (by rw [hdone])).trans hrd
    refine ⟨_, hex.trans (congrArg _ hrun), State.done1_completes ((by rw [State.func, hhost.usb]; rfl : w.func p = t.func p).trans hst.func)
      ?_ ?_ 0 0 0, ?_, fun x hx => ?_⟩
    · rw [hhost]
      exact hst.frame.nsW
    · rw [hhost]
      exact hst.frame.cycle
    · have hstored := State.rdN_store t d (sliceB h.payload 64 n)
      rw [hlen] at hstored
      rw [State.rdN_eq, hrd, ← State.rdN_eq, hstored]
    · rw [hrd, State.rd_store_out _ _ _ _ (by rw [hlen]; exact hx), hst.frame.sameMap.rd]
  · obtain ⟨t, hex, hst, hleg, hopc⟩ := writes ht hleg hmv
    have hput := State.hostWrite_fault (s := t) (p := p) (l := sliceB h.payload 64 n) (by rw [hlen]; exact h0)
      (by rw [hlen]; exact hpage) (f := f) (by rw [hst.frame.hostFault]; exact hf)
    exact ⟨_, hex.trans (congrArg _ ((State.startCmd_write hopc hleg).trans (State.cmdWrite_fault ⟨htag, hres, hn⟩ rfl hput))), hst.missed va f⟩
  · obtain ⟨t, hex, hst, hleg, hopc⟩ := reads ht hleg hmv
    have hread : t.hostRead p va n = .inl (s.vrdN p va n) := by
      rw [hst.frame.hostRead]
      exact State.hostRead_good hf hb
    refine ⟨_, hex.trans (congrArg _ ((State.startCmd_read hopc hleg).trans (State.doRead_sends rfl hread))),
      hst.frame.updFunc _, ⟨?_, ?_⟩, ?_⟩
    all_goals
      unfold State.sendData
      rw [State.func_updFunc_same, hst.func]
    · rfl
    · rfl
  · obtain ⟨t, hex, hst, hleg, hopc⟩ := reads ht hleg hmv
    obtain ⟨hread, hmiss⟩ := State.hostRead_fault (s := t) (p := p) h0 (by rw [hst.frame.hostFault]; exact hf)
    refine ⟨_, hex.trans (congrArg _ (((State.startCmd_read hopc hleg).trans (State.doRead_fault rfl hread)).trans ?_)),
      hst.missed va f⟩
    exact congrArg (fun u : State => u.done1 p (s.newCmd p 0x0D h .none) stFaulted f 0) hmiss

end Sys2Proof.Machine
end

section
/-! Management packets that a follower takes (R568 to R571, R582, R605 to R607). -/
namespace Sys2Proof.Machine

/-! ### Their arrival -/

/-- A packet of a torus link passes the checks of PR and of its epoch; one of more than type 5 does not count. -/
theorem State.checked_torus {s : State} {l : Nat} {k : Packet} (hl : l < 6) (hty : ¬ k.type.toNat ≤ 5) (hpair : k.pair = false)
    (hep : s.epochOk k = true) (f : State → State) : s.checked l k f = f s := by
  have hpr : (if l = 6 then !k.pair || k.src != s.dev.node else k.pair) = false := by rw [if_neg (by omega), hpair]
  unfold State.checked
  simp only [hty, if_false, hpr, hep]
  rfl

/-- A management packet for this device alone is taken. -/
theorem State.arriveMgmt_arrives {s : State} {l : Fin 7} {k : Packet} (h : Claims.arrives s l k 6#4) (hbc : k.bc = false)
    (hsub : k.sub ≠ 0#5) (hm : s.dev.node ≠ masterNode ∨ s.dev.master = true) (f : State → State) :
    s.arriveMgmt l.val k f = f s := by
  obtain ⟨-, -, hl, hty, hpair, hdst, hep⟩ := h
  have hc := State.checked_torus hl (by rw [hty]; decide) hpair hep f
  unfold State.arriveMgmt
  rw [if_neg (by simp [hpair]; omega), if_neg (by simp [hbc]), if_neg hsub, if_pos ⟨hdst, by rw [hdst]; exact hm⟩, hc]

theorem mgmtPkt_arrives {s : State} {l : Fin 7} {k : Packet} {n : Nat} (h : Claims.arrives s l k 6#4) (hbc : k.bc = false)
    (hsub : k.sub ≠ 0#5) (hm : s.dev.node ≠ masterNode ∨ s.dev.master = true) (hn : k.sub.toNat = n) :
    mgmtPkt n l k s = .next (s.takeMgmt l.val k) := by
  have htake := State.arriveMgmt_arrives h hbc hsub hm (fun s => s.takeMgmt l.val k)
  obtain ⟨hlive, hup, -, hty, -⟩ := h
  unfold mgmtPkt
  rw [if_neg (by simp [hty, hn])]
  refine (whenLive_live _ _ hlive).trans (congrArg _ ((if_pos hup).trans htake))

/-- What the master orders is taken as the SUB says. -/
theorem mgmtPkt_orders {s : State} {l : Fin 7} {k : Packet} {sub : BitVec 5} (h : Claims.orders s l k sub) (h0 : sub ≠ 0#5) :
    mgmtPkt sub.toNat l k s = .next (s.takeMgmt l.val k) := by
  obtain ⟨ha, hsub, hbc, -, hnode, -⟩ := h
  exact mgmtPkt_arrives ha hbc (hsub ▸ h0) (.inl hnode) (by rw [hsub])

theorem fromMaster_orders {s : State} {l : Fin 7} {k : Packet} {sub : BitVec 5} (h : Claims.orders s l k sub) :
    fromMaster k = true ∧ s.dev.master = false := by
  obtain ⟨⟨-, -, -, -, hpair, -⟩, -, -, hsrc, -, hm⟩ := h
  simp [fromMaster, hsrc, hpair, hm]

theorem State.masterOnly_orders {s : State} {l : Fin 7} {k : Packet} {sub : BitVec 5} (h : Claims.orders s l k sub)
    (f : State → State) : s.masterOnly l.val k f = f s := by
  obtain ⟨hf, hm⟩ := fromMaster_orders h
  simp [State.masterOnly, hf, hm]

/-! ### What takes a packet, by its SUB -/

section
variable (s : State) (l : Nat) {k : Packet}

theorem State.takeMgmt_enum (h : k.sub = 0#5) : s.takeMgmt l k =
    s.takeEnum l k := by
  unfold State.takeMgmt
  rw [h]
  rfl

theorem State.takeMgmt_report (h : k.sub = 1#5) : s.takeMgmt l k =
    if s.dev.master then s.takeReport k else s := by
  unfold State.takeMgmt
  rw [h]
  rfl

theorem State.takeMgmt_geom (h : k.sub = 2#5) : s.takeMgmt l k =
    if s.dev.master || !fromMaster k then s else s.setGeom (BitVec.ofNat 18 (mgmtWord k)) := by
  unfold State.takeMgmt
  rw [h]
  rfl

theorem State.takeMgmt_image (h : k.sub = 3#5) : s.takeMgmt l k =
    s.masterOnly l k (fun s => s.imagePiece k.addr.toNat k.data) := by
  unfold State.takeMgmt
  rw [h]
  rfl

theorem State.takeMgmt_csrRd (h : k.sub = 4#5) : s.takeMgmt l k =
    if s.dev.master || fromMaster k then s.takeCsrRd k else s.linkCnt l 0x120 := by
  unfold State.takeMgmt
  rw [h]
  rfl

theorem State.takeMgmt_csrWr (h : k.sub = 5#5) : s.takeMgmt l k =
    s.masterOnly l k (fun s => s.takeCsrWr k) := by
  unfold State.takeMgmt
  rw [h]
  rfl

theorem State.takeMgmt_launch (h : k.sub = 6#5) : s.takeMgmt l k =
    s.masterOnly l k (fun s => s.takeLaunch k) := by
  unfold State.takeMgmt
  rw [h]
  rfl

theorem State.takeMgmt_faultmap (h : k.sub = 7#5) : s.takeMgmt l k =
    s.masterOnly l k
      (fun s => s.setFault (BitVec.ofNat 18 (mgmtWord k)) (bitsAt (mgmtWord k) 20 3) (bitAt (mgmtWord k) 31)) := by
  unfold State.takeMgmt
  rw [h]
  rfl

theorem State.takeMgmt_fence (h : k.sub = 8#5) : s.takeMgmt l k =
    s.masterOnly l k (fun s => s.takeFence k) := by
  unfold State.takeMgmt
  rw [h]
  rfl

end

/-! ### Coordinates -/

theorem State.sendEnum_eq (s : State) (l node : Nat) : s.sendEnum l node = s.updLink l (fun x => { x with
    sbq := x.sbq ++ [Claims.side (s.link l) (s.ownPacket { Packet.init with type := 6#4, dst := BitVec.ofNat 18 node })]
    sbNum := (s.link l).sbNum + 1 }) :=
  s.enqueue_side l _ rfl

/-- What a step of the enumeration keeps: the device's record, its own link's queue, and which links are up. -/
def State.enumKept (s t : State) (l : Nat) : Prop :=
  t.dev = s.dev ∧ (t.link l).sbq = (s.link l).sbq ∧ ∀ m, t.linkUp m = s.linkUp m

theorem State.enumKept.trans {s t u : State} {l : Nat} (h : s.enumKept t l) (g : t.enumKept u l) : s.enumKept u l := by
  obtain ⟨hd, hq, hup⟩ := h
  obtain ⟨gd, gq, gup⟩ := g
  exact ⟨gd.trans hd, gq.trans hq, fun m => (gup m).trans (hup m)⟩

theorem State.linkUp_updLink (s : State) (l m : Nat) (f : Link → Link)
    (h : (f (s.link l)).en = (s.link l).en ∧ (f (s.link l)).state = (s.link l).state) : (s.updLink l f).linkUp m = s.linkUp m := by
  obtain ⟨hen, hst⟩ := h
  unfold State.linkUp
  by_cases hm : m = l
  · subst hm
    simp only [State.link_updLink_same, hen, hst]
  · rw [State.link_updLink_ne _ _ _ _ hm]

theorem State.enqueue_enumKept (s : State) (l m : Nat) (k : Packet) (hk : packetClass k = 0) (h : l ≠ m) :
    s.enumKept (s.enqueue m 7 k) l := by
  rw [s.enqueue_side m k hk]
  exact ⟨rfl, by rw [State.link_updLink_ne _ _ _ _ h], fun i => s.linkUp_updLink m i _ ⟨rfl, rfl⟩⟩

theorem State.beginRing_up {s : State} {d : Nat} (h : s.linkUp (2 * d) = true) : s.beginRing d = s.sendEnum (2 * d) (withCoord s.node d 1) :=
  if_pos h

/-- A follower without the geometry whose coordinates came on link 1 reports there, if it reports at all. -/
theorem State.maybeReport_enumKept {s : State} {l : Nat} (hm : s.dev.master = false) (hg : s.dev.geom = false)
    (hup : upLink s.node = some 1) (h : l ≠ 1) : s.enumKept s.maybeReport l := by
  have hrefl : s.enumKept s l := ⟨rfl, rfl, fun _ => rfl⟩
  unfold State.maybeReport
  split
  · exact hrefl
  · rw [hm, if_neg Bool.false_ne_true]
    unfold State.sendReport State.sendOn
    rw [hg, hup]
    exact s.enqueue_enumKept l 1 (s.ownPacket (withWord { Packet.init with type := 6#4, sub := 1#5, dst := masterNode }
      (reportValue 0 s.dev.sizesSeen.toNat))) rfl h

theorem coord_mul (x : Nat) (h : x < 64) : coord (4096 * x) 0 = x ∧ coord (4096 * x) 1 = 0 ∧ coord (4096 * x) 2 = 0 := by
  simp only [coord, bitsAt]
  omega

/-- The coordinates (x, 0, 0). -/
theorem toNat_xNode {v : BitVec 18} {x : Nat} (hv : v = BitVec.ofNat 18 (4096 * x)) (hx : x < 64) : v.toNat = 4096 * x := by
  rw [hv, BitVec.toNat_ofNat]
  exact Nat.mod_eq_of_lt (by omega)

theorem originDims_x (x : Nat) (h0 : 1 ≤ x) (hx : x < 64) : originDims (4096 * x) = [1, 2] := by
  obtain ⟨-, h1, h2⟩ := coord_mul x hx
  simp [originDims, h1, h2]
  omega

/-- An ENUM for a node (x, 0, 0) on link 1. -/
theorem State.takeEnum_x (s : State) (k : Packet) (x : Nat) (h2 : s.linkUp 2 = true) (h4 : s.linkUp 4 = true)
    (hen : s.dev.enumerated = false) (hg : s.dev.geom = false) (hm : s.dev.master = false) (he : s.dev.early = []) (h0 : 1 ≤ x)
    (hx : x < 64) (hk : k.dst = BitVec.ofNat 18 (4096 * x)) :
    let t := s.takeEnum 1 k
    t.dev.node = k.dst ∧ t.dev.enumerated = true ∧
      (t.link 0).sbq = (s.link 0).sbq ++ [Claims.side (s.link 0) { Packet.init with
        type := 6#4, dst := BitVec.ofNat 18 (4096 * ((x + 1) % 64)), src := k.dst, epoch := s.dev.epoch }] := by
  intro t
  have hc := toNat_xNode hk hx
  obtain ⟨c0, c1, c2⟩ := coord_mul x hx
  let u : State := { s with dev := { s.dev with node := k.dst, enumerated := true } }
  have hu : State.earlyFaults u = { u with dev := { u.dev with early := [] } } := by
    unfold State.earlyFaults
    rw [show u.dev.early = [] from he]
    rfl
  let v : State := { u with dev := { u.dev with early := [] } }
  have hup (m : Nat) : v.linkUp m = s.linkUp m := rfl
  have hwith : withCoord (4096 * x) 0 ((x + 1) % 64) = 4096 * ((x + 1) % 64) := by
    unfold withCoord
    rw [c0]
    omega
  let w := v.sendEnum 0 (4096 * ((x + 1) % 64))
  have ht : t = ((w.beginRing 1).beginRing 2).maybeReport := by
    have hflat : (upTo 3).all (fun i => decide (i ≤ 1 / 2) || coord (4096 * x) i == 0) = true := by
      simp [upTo, List.range, List.range.loop, c1, c2]
    show s.takeEnum 1 k = _
    have hx0 : (coord (4096 * x) (1 / 2) == 0) = false := by rw [c0]; simp; omega
    unfold State.takeEnum
    dsimp only
    rw [hc, originDims_x x h0 hx, hflat, hx0, hen]
    refine (if_pos rfl).trans ((if_neg (by decide)).trans ?_)
    rw [show State.earlyFaults _ = v from hu, c0, hwith]
    rfl
  have hw : w.dev = v.dev ∧ (∀ m, w.linkUp m = s.linkUp m) := by
    have h := State.sendEnum_eq v 0 (4096 * ((x + 1) % 64))
    exact ⟨by rw [show w = _ from h]; rfl, fun m => by rw [show w = _ from h, State.linkUp_updLink _ _ _ _ ⟨rfl, rfl⟩, hup]⟩
  obtain ⟨hwd, hwu⟩ := hw
  have k1 : w.enumKept (w.beginRing 1) 0 := by
    rw [State.beginRing_up (by rw [hwu]; exact h2)]
    refine w.enqueue_enumKept 0 2 _ ?_ (by decide)
    rfl
  have k2 : (w.beginRing 1).enumKept ((w.beginRing 1).beginRing 2) 0 := by
    have h4' : (w.beginRing 1).linkUp (2 * 2) = true := (k1.2.2 4).trans ((hwu 4).trans h4)
    rw [State.beginRing_up h4']
    refine (w.beginRing 1).enqueue_enumKept 0 4 _ ?_ (by decide)
    rfl
  have k12 := k1.trans k2
  have hdev : ((w.beginRing 1).beginRing 2).dev = v.dev := k12.1.trans hwd
  have hnode : ((w.beginRing 1).beginRing 2).node = 4096 * x := by rw [State.node, hdev]; exact hc
  have k3 := State.maybeReport_enumKept (l := 0) (by rw [hdev]; exact hm) (by rw [hdev]; exact hg)
    (by rw [hnode]; simp only [upLink, c0, c1, c2]; simp; omega) (by decide)
  obtain ⟨hd, hq, -⟩ := k12.trans k3
  have hd' : t.dev = v.dev := by rw [ht]; exact hd.trans hwd
  refine ⟨by rw [hd'], by rw [hd'], ?_⟩
  rw [ht, hq, show w = _ from State.sendEnum_eq v 0 (4096 * ((x + 1) % 64)), State.link_updLink_same]
  rfl

theorem enum_takes (l : Fin 7) (k : Packet) (s : State) (hlive : s.live = true) (hl : l.val = 1) (hup : s.linkUp 1 = true)
    (hty : k.type = 6#4) (hsub : k.sub = 0#5) (hp : k.pair = false) (hbc : k.bc = false) (hep : s.epochOk k = true) :
    execEnum l k s = .next (s.takeEnum 1 k) := by
  unfold execEnum mgmtPkt
  rw [if_neg (by simp [hty, hsub]), hl]
  refine (whenLive_live _ _ hlive).trans (congrArg _ ((if_pos hup).trans ?_))
  unfold State.arriveMgmt
  rw [if_neg (by simp [hp]), if_neg (by simp [hbc]), if_pos hsub, State.checked_torus (by decide) (by rw [hty]; decide) hp hep]
  exact s.takeMgmt_enum 1 hsub

/-! ### Reports and the geometry -/

theorem State.takeReport_enumerated (s : State) (k : Packet) (hg : s.dev.geom = true) (hw : mgmtWord k < 2 ^ 18) :
    s.takeReport k = { s with dev := { s.dev with
      reports := s.dev.reports.put k.src.toNat (BitVec.ofNat 18 (mgmtWord k)) } } := by
  unfold State.takeReport
  rw [Nat.div_eq_of_lt (by omega), Nat.mod_eq_of_lt (by omega)]
  unfold State.checkGeom
  simp [hg]

/-- The neighbour of a device on a link of its torus, or itself on PR. -/
def State.nearNode (s : State) (l : Nat) : Nat :=
  if l = 6 then s.node else withCoord s.node (l / 2) (ringNext (s.ringSize (l / 2)) (coord s.node (l / 2)) (l % 2 == 0))

def State.withGeom (s : State) (v : BitVec 18) : State := { s with dev := { s.dev with sizes := v, geom := true } }

def State.named (s : State) (v : BitVec 18) : State :=
  (upTo 7).foldl (fun t l => t.updLink l (fun x => { x with peer := BitVec.ofNat 18 ((s.withGeom v).nearNode l) })) (s.withGeom v)

theorem State.setGeom_eq (s : State) (v : BitVec 18) : s.setGeom v = (s.named v).enterTime tsHoldover := rfl

theorem State.named_peer (s : State) (v : BitVec 18) (m : Nat) (h : m < 7) :
    ((s.named v).link m).peer = BitVec.ofNat 18 ((s.withGeom v).nearNode m) := by
  obtain ⟨-, hset⟩ := State.foldl_range_local (fun t m => (t.link m).peer)
    (fun t l => t.updLink l (fun x => { x with peer := BitVec.ofNat 18 ((s.withGeom v).nearNode l) }))
    (fun t n d hd => by rw [State.link_updLink_ne _ _ _ _ hd]) (s.withGeom v) m 7
  obtain ⟨u, -, hu⟩ := hset h
  exact hu.trans (by rw [State.link_updLink_same])

theorem State.named_frame (s : State) (v : BitVec 18) : s.named v = { s.withGeom v with links := (s.named v).links } :=
  List.foldlRecOn (motive := fun t : State => t = { s.withGeom v with links := t.links }) (upTo 7) _ rfl
    fun t ht _ _ => by rw [ht]; rfl

theorem State.setGeom_takes (s : State) (v : BitVec 18) :
    let t := s.setGeom v
    t.dev = { s.dev with sizes := v, geom := true } ∧
      (∀ m, m < 6 → (t.link m).peer = BitVec.ofNat 18
        (withCoord s.node (m / 2) (ringNext (t.ringSize (m / 2)) (coord s.node (m / 2)) (m % 2 == 0)))) ∧
      (t.link 6).peer = s.dev.node ∧ t.time.state = 3#3 ∧ t.time.slate = s.time.slate ∧ t.cores = s.cores := by
  intro t
  have ht : t = (s.named v).enterTime tsHoldover := s.setGeom_eq v
  have hf := s.named_frame v
  have hposts := (s.named v).enterTime_posts tsHoldover
  have hdev : t.dev = { s.dev with sizes := v, geom := true } := by rw [ht, ((s.named v).enterTime_dev tsHoldover).1, hf]; rfl
  have hlink (m : Nat) : t.link m = (s.named v).link m := by rw [ht, State.link, hposts]; rfl
  have hring (d : Nat) : t.ringSize d = (s.withGeom v).ringSize d := by rw [State.ringSize, hdev]; rfl
  refine ⟨hdev, fun m hm => ?_, ?_, ?_, ?_, ?_⟩
  · rw [hlink, s.named_peer v m (by omega), hring, State.nearNode, if_neg (by omega)]
    rfl
  · rw [hlink, s.named_peer v 6 (by decide)]
    exact BitVec.ofNat_toNat 18 s.dev.node |>.trans (BitVec.setWidth_eq _)
  · rw [ht, State.enterTime_time]
    rfl
  · rw [ht, State.enterTime_time, hf]
    rfl
  · rw [ht, State.enterTime_cores, hf]
    rfl

/-! ### Images -/

theorem State.imagePiece_first (s : State) (d : List Byte) (hw : s.wantsImage = true) (hb : s.dev.bootSrc = true) :
    s.imagePiece 0 d = if d.length ≥ 12 ∧ recN d 8 4 ≤ d.length then s.imageWhole (d.take (recN d 8 4)) else s.imageSome d := by
  unfold State.imagePiece
  simp only [hw, hb]
  rfl

/-- What stands in cluster store 0, and nothing else. -/
theorem State.store_whole (s : State) (a : Nat) (d : List Byte) :
    (s.store a d).rdN a d.length = d ∧ s.sameOutside (s.store a d) a d.length :=
  ⟨s.rdN_store a d, fun x hx => s.rd_store_out a x d hx⟩

/-! ### CSR accesses -/

theorem csrOff_of {k : Packet} {n : Nat} (hk : k.addr = BitVec.ofNat 48 (csrBase + n)) (hn : n < 0x1000000) (h4 : n % 4 = 0) :
    csrOff k = some n := by
  have hb : csrBase = 0xFF00000000 := rfl
  have ha : k.addr.toNat = csrBase + n := by
    rw [hk, BitVec.toNat_ofNat]
    exact Nat.mod_eq_of_lt (by omega)
  unfold csrOff
  rw [ha, if_pos (by omega), Nat.add_sub_cancel_left]

end Sys2Proof.Machine
end

section
/-! What the orders of the master do on a follower (R570, R582, R605 to R607). -/
namespace Sys2Proof.Machine

/-! ### CSR accesses -/

/-- The reply to a CSR_RD. -/
def State.csrReply (s : State) (k : Packet) (v : Nat) : Packet :=
  s.ownPacket (withWord { Packet.init with type := 6#4, sub := 4#5, dst := k.src, tid := k.tid, addr := k.addr } v)

theorem State.takeCsrRd_dev (s : State) (k : Packet) (hm : s.dev.master = false) (hk : k.addr = BitVec.ofNat 48 csrBase) :
    s.takeCsrRd k = s.sendPacket 7 (s.csrReply k (s.devRd 0).toNat) := by
  unfold State.takeCsrRd
  rw [hm, csrOff_of (n := 0) hk (by decide) (by decide)]
  dsimp only
  rw [s.csrGet_dev 0 (by decide) (by decide)]
  rfl

theorem State.devRd_ident (s : State) : (s.devRd 0).toNat = 0x5000B040 + 65536 * s.dev.bin.toNat := by
  have h : s.dev.bin.toNat < 256 := s.dev.bin.isLt
  show (BitVec.ofNat 32 (0x5000B040 + 65536 * s.dev.bin.toNat)).toNat = _
  rw [BitVec.toNat_ofNat]
  exact Nat.mod_eq_of_lt (by omega)

theorem State.sendPacket_side {s : State} {k : Packet} {o : Nat} (hq : s.dev.quar = false) (hp : k.pair = false)
    (hr : s.route k.dst.toNat = some (some o)) (hc : packetClass { k with dl := s.dateline 7 o k.dl } = 0) :
    s.sendPacket 7 k = s.updLink o (fun x => { x with
      sbq := x.sbq ++ [Claims.side (s.link o) { k with dl := s.dateline 7 o k.dl }], sbNum := (s.link o).sbNum + 1 }) := by
  unfold State.sendPacket
  rw [hq, hp, hr]
  exact s.enqueue_side o _ hc

theorem csrRd_orders (l : Fin 7) (k : Packet) (s : State) (o : Nat) (h : Claims.orders s l k 4#5)
    (hk : k.addr = BitVec.ofNat 48 csrBase) (hq : s.dev.quar = false) (hr : s.route 0 = some (some o)) :
    ∃ t, execCsrRd l k s = .next t ∧ t = { s with links := t.links } ∧
      t.link o = { s.link o with
        sbNum := (s.link o).sbNum + 1
        sbq := (s.link o).sbq ++ [Claims.side (s.link o) { Packet.init with
          type := 6#4, sub := 4#5, dst := masterNode, src := s.dev.node, epoch := s.dev.epoch, tid := k.tid, addr := k.addr
          len := 16#9, dl := s.dateline 7 o false
          data := leBytes 16 (0x5000B040 + 65536 * s.dev.bin.toNat) }] } := by
  obtain ⟨hf, hm⟩ := fromMaster_orders h
  have hsrc := h.2.2.2.1
  have hsend := State.sendPacket_side (k := s.csrReply k (s.devRd 0).toNat) hq rfl
    (by rw [show (s.csrReply k (s.devRd 0).toNat).dst = masterNode from hsrc]; exact hr) rfl
  have htake : s.takeMgmt l.val k = s.updLink o (fun x => { x with
      sbq := x.sbq ++ [Claims.side (s.link o) { s.csrReply k (s.devRd 0).toNat with dl := s.dateline 7 o false }]
      sbNum := (s.link o).sbNum + 1 }) := by
    rw [s.takeMgmt_csrRd l.val h.2.1, hf, hm]
    exact (if_pos rfl).trans ((s.takeCsrRd_dev k hm hk).trans hsend)
  refine ⟨_, (mgmtPkt_orders h (by decide)).trans (congrArg _ htake), rfl, ?_⟩
  have hlt : 0x5000B040 + 65536 * s.dev.bin.toNat < 2 ^ 64 := by have := s.dev.bin.isLt; omega
  rw [State.link_updLink_same, s.devRd_ident, State.csrReply, withWord, Nat.mod_eq_of_lt hlt, hsrc]
  rfl

theorem csrWr_orders (l : Fin 7) (k : Packet) (s : State) (h : Claims.orders s l k 5#5)
    (hk : k.addr = BitVec.ofNat 48 (csrBase + 0x20)) :
    execCsrWr l k s = .next { s with dev := { s.dev with eptabIdx := BitVec.ofNat 18 (mgmtWord k) } } := by
  refine (mgmtPkt_orders h (by decide)).trans (congrArg _ ?_)
  rw [s.takeMgmt_csrWr l.val h.2.1, State.masterOnly_orders h]
  unfold State.takeCsrWr
  rw [csrOff_of (n := 0x20) hk (by decide) (by decide)]
  have hw : (BitVec.ofNat 32 (mgmtWord k)).setWidth 18 = BitVec.ofNat 18 (mgmtWord k) := BitVec.setWidth_ofNat_of_le (by decide) _
  refine (s.csrPut_dev .mgmt 0x20 _ (by decide) (.inl rfl) (by decide) (by decide) (by decide)).trans ?_
  rw [← hw]
  rfl

/-! ### LAUNCH -/

theorem State.job_updJob_same (s : State) (p j : Nat) (f : Job → Job) : (s.updJob p j f).job p j = f (s.job p j) := by
  unfold State.job State.updJob
  rw [State.part_updPart_same]
  exact SMap.get_upd_same _ _ _ _

/-- A step prepared for a count that Slate has not reached. -/
theorem State.beginStep_prepared (s : State) (p j running n : Nat) (arg : BitVec 64) (h : s.ns < n) :
    s.beginStep p j running arg (some n) = s.updJob p j (fun x => { x with
      running := some running, argBlk := arg, faulted := false, again := false, launched := false, changed := [], wrote := [],
      moved := false, fcode := 0#8, late := 0#64, startAt := some (BitVec.ofNat 64 n) }) := by
  have hn : n > s.ns := h
  unfold State.beginStep
  simp only [Option.getD_some, if_pos hn, Nat.sub_eq_zero_of_le (Nat.le_of_lt h)]
  exact if_pos h

/-- Whether a LAUNCH starts a step of a job. -/
def State.launches (s : State) (p j : Nat) : Prop :=
  s.time.state ≠ 0#3 ∧ (s.part p).jobs.has j = true ∧ (s.job p j).kind = 0#2 ∧ s.mayLaunch p j = true ∧ s.scrubbing p = false

theorem State.takeLaunch_prepared (s : State) (k : Packet) (he : s.exists? k.part.toNat = true)
    (hl : s.launches k.part.toNat (recN k.data 0 4)) (hn : s.ns < recN k.data 8 8) :
    let p := k.part.toNat
    let j := recN k.data 0 4
    ∃ t, s.takeLaunch k = t ∧ t = { s with parts := t.parts } ∧ t.job p j = { s.job p j with
        running := some 0, argBlk := k.addr.setWidth 64, faulted := false, again := false, late := 0#64, launched := true
        changed := [], wrote := [], moved := false, fcode := 0#8, startAt := some (BitVec.ofNat 64 (recN k.data 8 8)) } := by
  intro p j
  obtain ⟨hst, hj, hk, hml, hsc⟩ := hl
  refine ⟨(s.beginStep p j 0 (k.addr.setWidth 64) (some (recN k.data 8 8))).updJob p j (fun x => { x with launched := true }),
    ?_, ?_⟩
  · unfold State.takeLaunch
    dsimp only
    rw [he]
    refine (if_neg (by decide)).trans (if_neg ?_)
    simp [hst, hj, hk, hml, hsc]
  · rw [s.beginStep_prepared p j 0 _ _ hn]
    refine ⟨rfl, ?_⟩
    rw [State.job_updJob_same, State.job_updJob_same]

theorem State.takeLaunch_refused (s : State) (k : Packet) (he : s.exists? k.part.toNat = true)
    (h : s.time.state = 0#3 ∨ (s.part k.part.toNat).jobs.has (recN k.data 0 4) = false ∨
      (s.job k.part.toNat (recN k.data 0 4)).kind ≠ 0#2 ∨ s.mayLaunch k.part.toNat (recN k.data 0 4) = false ∨
      s.scrubbing k.part.toNat = true) : s.takeLaunch k = s.launchDone k.part.toNat stRefused 0 := by
  unfold State.takeLaunch
  dsimp only
  rw [he]
  refine (if_neg (by decide)).trans (if_pos ?_)
  simpa using h

theorem State.launchDone_event (s : State) (p st : Nat) (h : (s.cl (s.lead p)).ctl.wfe = none) :
    let t := s.launchDone p st 0
    (t.cl (s.lead p)).ctl.events = (s.cl (s.lead p)).ctl.events ++ [eventWord 3 0 0 st 0] ∧ t = { s with clusters := t.clusters } := by
  refine ⟨?_, rfl⟩
  unfold State.launchDone State.ctlEvent State.updCtl
  rw [State.cl_updCl_same]
  dsimp only
  rw [h]
  rfl

/-! ### FAULTMAP -/

/-- Without fabric commands no request is sent again. -/
theorem State.reroute_idle (s old : State) (h : ∀ c, c < 8 → (s.cl c).fab = []) : s.reroute old = s :=
  List.foldlRecOn (motive := fun t : State => t = s) (upTo 8) _ rfl fun t ht c hc => by
    subst ht
    rw [h c (List.mem_range.mp hc)]
    rfl

/-! ### What only the master may send -/

theorem State.linkCnt_onlyLink (s : State) (l : Nat) :
    let t := s.linkCnt l 0x120
    Claims.onlyLink s t l ∧ t.link l = { s.link l with cnt := (t.link l).cnt } ∧
      (t.link l).cnt.get 0#32 0x120 = satInc ((s.link l).cnt.get 0#32 0x120) := by
  refine ⟨⟨rfl, fun m hm => State.link_updLink_ne _ _ _ _ hm⟩, ?_, ?_⟩
  · rw [State.linkCnt, State.link_updLink_same]
  · rw [State.linkCnt, State.link_updLink_same]
    exact SMap.get_upd_same _ _ _ _

theorem fromMaster_other {k : Packet} (h : k.src ≠ masterNode) : fromMaster k = false := by
  simp [fromMaster, h]

theorem masterOnly : Claims.MasterOnly := by
  intro l k s ha hbc hsrc hnode hm i hi
  have hf := fromMaster_other hsrc
  have hdrop (f : State → State) : s.masterOnly l.val k f = s.linkCnt l.val 0x120 := by
    unfold State.masterOnly
    rw [hf]
    exact if_pos (by simp)
  have hpkt (n : Nat) (hn : k.sub.toNat = n) (h0 : k.sub ≠ 0#5) (ht : s.takeMgmt l.val k = s.linkCnt l.val 0x120) :
      mgmtPkt n l k s = .next (s.linkCnt l.val 0x120) := (mgmtPkt_arrives ha hbc h0 (.inl hnode) hn).trans (congrArg _ ht)
  refine ⟨s.linkCnt l.val 0x120, ?_, s.linkCnt_onlyLink l.val⟩
  rcases hi with ⟨rfl, hs⟩ | ⟨rfl, hs⟩ | ⟨rfl, hs⟩ | ⟨rfl, hs⟩ | ⟨rfl, hs⟩ | ⟨rfl, hs⟩
  · exact hpkt 3 (by rw [hs]; rfl) (by rw [hs]; decide) ((s.takeMgmt_image l.val hs).trans (hdrop _))
  · exact hpkt 4 (by rw [hs]; rfl) (by rw [hs]; decide) ((s.takeMgmt_csrRd l.val hs).trans (if_neg (by simp [hm, hf])))
  · exact hpkt 5 (by rw [hs]; rfl) (by rw [hs]; decide) ((s.takeMgmt_csrWr l.val hs).trans (hdrop _))
  · exact (if_neg (by simp [hm])).trans (hpkt 6 (by rw [hs]; rfl) (by rw [hs]; decide) ((s.takeMgmt_launch l.val hs).trans (hdrop _)))
  · exact hpkt 7 (by rw [hs]; rfl) (by rw [hs]; decide) ((s.takeMgmt_faultmap l.val hs).trans (hdrop _))
  · exact hpkt 8 (by rw [hs]; rfl) (by rw [hs]; decide) ((s.takeMgmt_fence l.val hs).trans (hdrop _))

end Sys2Proof.Machine
end

section
/-! The FENCE of a device (R808, R809), and the statement on management packets. -/
namespace Sys2Proof.Machine

/-! ### Work that is cut off -/

/-- What cuts work off: the record of the device stands, no fabric command is queued, no session opens. -/
structure State.cutsOff (s t : State) : Prop where
  dev : t.dev = s.dev
  fab : ∀ c, (s.cl c).fab = [] → (t.cl c).fab = []
  session : ∀ p, (s.secp p).session = none → (t.secp p).session = none

theorem State.cutsOff_refl (s : State) : s.cutsOff s := ⟨rfl, fun _ h => h, fun _ h => h⟩

theorem State.cutsOff.trans {s t u : State} (h : s.cutsOff t) (g : t.cutsOff u) : s.cutsOff u :=
  ⟨g.dev.trans h.dev, fun c hc => g.fab c (h.fab c hc), fun p hp => g.session p (h.session p hp)⟩

theorem State.cutsOff_foldl {α : Type} (f : State → α → State) (hf : ∀ t a, State.cutsOff t (f t a)) (l : List α) (s : State) :
    s.cutsOff (l.foldl f s) :=
  List.foldlRecOn (motive := fun t : State => s.cutsOff t) l f s.cutsOff_refl fun t ht a _ => ht.trans (hf t a)

theorem State.cutsOff_of_eq {s t : State} (hd : t.dev = s.dev) (hc : t.clusters = s.clusters) (hs : t.sec = s.sec) :
    s.cutsOff t := by
  refine ⟨hd, fun c h => ?_, fun p h => ?_⟩
  · rw [State.cl_congr hc]
    exact h
  · rw [State.secp, hs]
    exact h

theorem State.onlyWork.cutsOff {s t : State} (h : s.onlyWork t) : s.cutsOff t :=
  State.cutsOff_of_eq (by rw [h]) h.clusters (by rw [h])

theorem State.onlyDailies.work {s t : State} (h : s.onlyDailies t) : s.onlyWork t := by
  unfold State.onlyDailies State.onlyWork at *
  rw [h]

/-- Security state that keeps every session. -/
theorem State.updSecp_cutsOff (s : State) (p : Nat) (f : SecPart → SecPart)
    (hf : (s.secp p).session = none → (f (s.secp p)).session = none) : s.cutsOff (s.updSecp p f) := by
  refine ⟨rfl, fun _ h => h, fun q h => ?_⟩
  by_cases hq : q = p
  · subst hq
    rw [State.secp_updSecp_same]
    exact hf h
  · rw [State.secp_updSecp_ne _ _ _ _ hq]
    exact h

theorem State.updCl_cutsOff (s : State) (c : Nat) (f : Cluster → Cluster)
    (hf : (s.cl c).fab = [] → (f (s.cl c)).fab = []) : s.cutsOff (s.updCl c f) := by
  refine ⟨rfl, fun d h => ?_, fun _ h => h⟩
  by_cases hd : d = c
  · subst hd
    rw [State.cl_updCl_same]
    exact hf h
  · rw [State.cl_updCl_ne _ _ _ _ hd]
    exact h

/-! ### Chunks and steps -/

theorem State.count_work (s : State) (k n v : Nat) : s.onlyWork (s.count k n v) := s.updCore_work k _

theorem State.loadImages_work (s : State) (p k : Nat) (slots : List Nat) (head : Nat) (at_ : Nat → Nat) :
    s.onlyWork (s.loadImages p k slots head at_) := by
  unfold State.loadImages
  extract_lets l bytes
  have hload : s.onlyWork (l.foldl (fun s x => s.loadImage p k x.1 (at_ x.2)) s) :=
    State.onlyWork_foldl _ (fun t x => by
      unfold State.loadImage
      extract_lets h
      split
      · exact t.onlyWork_refl
      · exact (t.updSlot_onlyReels _ _ _).work) l s
  exact hload.trans (State.count_work _ _ _ _)

theorem State.loadReset_work (s : State) (p k idx : Nat) : s.onlyWork (s.loadReset p k idx) := by
  unfold State.loadReset
  dsimp only
  split
  · exact State.onlyWork_foldl _ (fun t x => (t.updSlot_onlyReels _ _ _).work) _ s
  · exact s.loadImages_work p k (s.reel p idx).slots 0 (resetImage (s.reelRec p idx))

/-- A Reel restored from a bank, or from its reset value. -/
def State.restored (s : State) (p k idx : Nat) : Option Nat → State
  | none => s.loadReset p k idx
  | some b => s.loadImages p k (s.reel p idx).slots 64 (fun i => bankVa (s.reelRec p idx) b + 64 + 196672 * i)

-- The definition is unfolded as a function: applied, the kernel would evaluate the search for the newest bank.
theorem State.restoreReel_eq (s : State) (p k idx : Nat) :
    s.restoreReel p k idx = s.restored p k idx (s.newestBank p (s.reelRec p idx)) := by
  have h : @State.restoreReel = @State.restoreReel := rfl
  conv at h => rhs; delta State.restoreReel
  rw [h]
  beta_reduce
  dsimp only
  generalize s.newestBank p (s.reelRec p idx) = o
  cases o <;> rfl

theorem State.restoreReel_work (s : State) (p k idx : Nat) : s.onlyWork (s.restoreReel p k idx) := by
  rw [s.restoreReel_eq]
  rcases s.newestBank p (s.reelRec p idx) with _ | b
  · rw [State.restored]
    exact s.loadReset_work p k idx
  · rw [State.restored]
    exact s.loadImages_work p k (s.reel p idx).slots 64 _

theorem State.reelRests_work (s : State) (p idx : Nat) : s.onlyWork (s.reelRests p idx) := by
  unfold State.reelRests
  extract_lets d n u
  have hu : s.onlyWork u := rfl
  split
  · exact hu.trans (u.reelGone_onlyReels p idx).work
  · split
    · exact hu.trans ((u.unbindReel_onlyReels p idx).trans (State.setRstate_onlyReels _ _ _ _)).work
    · exact hu.trans (u.setRstate_onlyReels _ _ _).work

theorem State.lockMismatch_work (s : State) (p : Nat) (a b : SigRec) : s.onlyWork (s.lockMismatch p a b) := by
  unfold State.lockMismatch
  split
  · exact s.onlyWork_refl
  · next j _ =>
    split
    · exact s.onlyWork_refl
    · have hdrain : s.onlyWork ((s.jobCores p j).foldl (fun s k => s.drainCore k false) s) :=
        State.onlyWork_foldl _ (fun t k => t.updCore_work _ _) _ s
      exact (hdrain.trans (State.updPart_work _ _ _)).trans (State.lockTrigger_onlyPosts _ _ _ _ _ _ _ _).work

theorem State.matchSigs_work (s : State) (p : Nat) : s.onlyWork (s.matchSigs p) :=
  State.onlyWork_foldl _ (fun t a => by
    split
    · exact t.onlyWork_refl
    · next b _ =>
      dsimp only
      split
      · exact t.updPart_work _ _
      · exact (t.updPart_work _ _).trans (State.lockMismatch_work _ _ _ _)) _ s

theorem State.overPr_cutsOff (s : State) (p : Nat) (l : List Byte) : s.cutsOff (s.overPr p l) := by
  unfold State.overPr
  extract_lets put n ctr
  split
  · exact s.cutsOff_refl
  · split
    · exact State.cutsOff_of_eq rfl rfl rfl
    · split
      · exact s.cutsOff_refl
      · exact (s.updSecp_cutsOff p _ fun h => h).trans (State.cutsOff_of_eq rfl rfl rfl)

theorem State.sendChunkSig_cutsOff (s : State) (p k t idx serial : Nat) : s.cutsOff (s.sendChunkSig p k t idx serial) := by
  unfold State.sendChunkSig
  split
  · next j c _ _ =>
    split
    · exact s.cutsOff_refl
    · extract_lets u l
      have hu : s.cutsOff u := (s.traceRec_onlyDailies _ _ _ _ _).work.cutsOff
      unfold State.sendSig
      exact ((hu.trans (State.updPart_work _ _ _).cutsOff).trans (State.overPr_cutsOff _ _ _)).trans
        (State.matchSigs_work _ _).cutsOff
  · exact s.cutsOff_refl

/-- A chunk that does not end well restores its Reel, and nothing is forwarded. -/
theorem State.endChunk_cutsOff (s : State) (p k t : Nat) (c : Chunk) (fcode : Nat) :
    s.cutsOff (s.endChunk p k t c stAbandoned fcode) := by
  unfold State.endChunk
  extract_lets idx fwd f st fc u v w
  have hst : st ≠ stOk := by
    simp only [st]
    split <;> decide
  have hu : s.cutsOff u := by
    simp only [u]
    rw [if_neg hst]
    exact (s.restoreReel_work p k idx).cutsOff
  have hw : s.cutsOff w :=
    ((hu.trans (u.sendChunkSig_cutsOff p k t idx c.serial)).trans (State.updCore_work _ _ _).cutsOff).trans
      ((State.finishChunk_work _ _ _ _ _).trans (State.reelRests_work _ _ _)).cutsOff
  rw [if_neg (fun h => hst h.1)]
  exact hw

theorem State.abandonChunk_cutsOff (s : State) (p k : Nat) (c : Chunk) : s.cutsOff (s.abandonChunk p k c) := by
  have hdrop : s.cutsOff ((s.dropChunk k c.serial).finishChunk p c stAbandoned 0) :=
    ((s.updCore_work _ _).trans (State.finishChunk_work _ _ _ _ _)).cutsOff
  unfold State.abandonChunk
  split
  · split
    · next t _ =>
      extract_lets u v w
      have hu : s.onlyWork u := State.onlyWork_foldl _ (fun s o => s.abandonOp_work p k o) _ s
      exact ((hu.trans (u.endThr_work k t.1)).cutsOff.trans (v.endChunk_cutsOff p k t.1 c 0)).trans (w.updThr_work _ _ _).cutsOff
    · exact hdrop
  · exact hdrop

/-- Threads that have nothing left to wait for end. -/
theorem State.finishThreads_work (s : State) (k : Nat) :
    s.onlyWork ((s.core k).threads.keys.foldl (fun s t => if s.mayFinish k t then s.finishThread k t else s) s) :=
  State.onlyWork_foldl _ (fun t i => by
    split
    · exact t.finishThread_work k i
    · exact t.onlyWork_refl) _ s

theorem State.endJobStep_work (s : State) (p j : Nat) : s.onlyWork (s.endJobStep p j) := by
  unfold State.endJobStep
  split
  · exact s.updPart_work _ _
  · extract_lets u
    exact (s.stopJob_work p j true).trans (State.onlyWork_foldl _ (fun t k =>
      (t.abandonDma_work p k).trans (State.finishThreads_work _ k)) _ u)

/-! ### Commands that are abandoned -/

theorem State.abandonCmd_cutsOff (s : State) (p : Nat) (c : HCmd) : s.cutsOff (s.abandonCmd p c) := by
  unfold State.abandonCmd
  refine State.cutsOff.trans ?_ (State.complete_work _ _ _ _ _ _ _).cutsOff
  have hstep (t : State) (j : Nat) : t.cutsOff (t.endJobStep p j) := (t.endJobStep_work p j).cutsOff
  have hpart (f : Part → Part) : s.cutsOff (s.updPart p f) := (s.updPart_work p f).cutsOff
  split
  · exact s.cutsOff_refl
  · split
    case h_1 => exact hpart _
    case h_2 =>
      split
      · exact hstep s _
      · exact s.cutsOff_refl
    case h_3 =>
      dsimp only
      split
      · exact (hpart _).trans (hstep _ _)
      · exact hpart _
    case h_4 =>
      exact State.cutsOff_foldl _ (fun t cl => State.cutsOff_foldl _ (fun t i => State.cutsOff_foldl _ (fun t o =>
        (t.abandonOp_work p _ o).cutsOff) _ t) _ t) _ s
    case h_5 => exact ((s.updPart_work _ _).trans (State.updFunc_work _ _ _)).cutsOff
    case h_6 =>
      exact State.cutsOff_foldl _ (fun t cl => State.cutsOff_foldl _ (fun t i => State.cutsOff_foldl _ (fun t x =>
        t.abandonChunk_cutsOff p _ x) _ t) _ t) _ s
    case h_7 => exact s.updSecp_cutsOff p _ fun h => h
    case h_8 => exact s.updSecp_cutsOff p _ fun h => h
    all_goals exact s.cutsOff_refl

theorem State.finishFab_cutsOff (s : State) (c : Nat) (x : FabCmd) (st : BitVec 16) : s.cutsOff (s.finishFab c x st) := by
  have hdrop (t : State) : t.cutsOff (t.updCl c (fun y => { y with fab := y.fab.filter (fun z => z.serial != x.serial) })) :=
    t.updCl_cutsOff c _ fun h => by dsimp only; rw [h]; rfl
  unfold State.finishFab
  split
  · exact hdrop s
  · exact (s.fabStatus_work _ _ _).cutsOff.trans (hdrop _)

theorem State.abandonFab_cutsOff (s : State) (p : Nat) : s.cutsOff (s.abandonFab p) :=
  State.cutsOff_foldl _ (fun t c => State.cutsOff_foldl _ (fun u x => u.finishFab_cutsOff c x _) _ t) _ s

theorem State.closeSession_cutsOff (s : State) (p : Nat) : s.cutsOff (s.closeSession p) := s.updSecp_cutsOff p _ fun _ => rfl

theorem State.finishFab_fab (s : State) (c : Nat) (x : FabCmd) (st : BitVec 16) :
    ((s.finishFab c x st).cl c).fab = (s.cl c).fab.filter (fun z => z.serial != x.serial) := by
  unfold State.finishFab
  split
  · rw [State.cl_updCl_same]
  · next p _ =>
    rw [State.cl_updCl_same, State.cl_congr (s.fabStatus_work p x.desc st).clusters]

/-- The commands of a cluster's engine end one after another, until none is left. -/
theorem State.finishFabs_none (c : Nat) (st : BitVec 16) : ∀ (l : List FabCmd) (s : State),
    (∀ x ∈ (s.cl c).fab, ∃ y ∈ l, y.serial = x.serial) →
    ((l.foldl (fun s x => s.finishFab c x st) s).cl c).fab = []
  | [], s, h => by
    simp only [List.not_mem_nil, false_and, exists_false] at h
    exact List.eq_nil_iff_forall_not_mem.mpr h
  | y :: l, s, h => by
    refine State.finishFabs_none c st l _ fun x hx => ?_
    rw [s.finishFab_fab, List.mem_filter] at hx
    obtain ⟨hx, hne⟩ := hx
    obtain ⟨z, hz, heq⟩ := h x hx
    rcases List.mem_cons.mp hz with rfl | hz
    · simp [heq] at hne
    · exact ⟨z, hz, heq⟩

/-! ### What a fold establishes for each item -/

theorem State.foldl_each {α : Type} (P : α → State → Prop) (f : State → α → State) (hkeep : ∀ a b t, P a t → P a (f t b))
    (hset : ∀ a t, P a (f t a)) : ∀ (l : List α) (s : State), ∀ a ∈ l, P a (l.foldl f s)
  | [], _, _, h => nomatch h
  | b :: l, s, a, h => by
    rcases List.mem_cons.mp h with rfl | h
    · exact List.foldlRecOn (motive := fun t : State => P a t) l f (hset a s) fun t ht b _ => hkeep a b t ht
    · exact State.foldl_each P f hkeep hset l (f s b) a h

/-- A partition's fabric commands all end. -/
theorem State.abandonFab_none (s : State) (p c : Nat) (h : c ∈ s.clustersOf p) : ((s.abandonFab p).cl c).fab = [] :=
  State.foldl_each (fun c t => (t.cl c).fab = []) _
    (fun c d t ht => (State.cutsOff_foldl _ (fun u x => u.finishFab_cutsOff d x _) _ t).fab c ht)
    (fun c t => State.finishFabs_none c _ _ t fun x hx => ⟨x, hx, rfl⟩) _ s c h

/-! ### The reset of a partition's work -/

/-- A reset up to the fabric commands: host commands, chunks, threads, operations and launches end. -/
def State.workReset (s : State) (p : Nat) : State :=
  let s := s.abandonCmds p
  let s := (s.clustersOf p).foldl (fun s c => (upTo 9).foldl (fun s i =>
    let k := coreKey c i
    let s := (s.core k).chunkq.foldl (fun s x => s.abandonChunk p k x) s
    let s := s.endThreads k
    let s := s.abandonDma p k
    (s.core k).threads.keys.foldl (fun s t => if s.mayFinish k t then s.finishThread k t else s) s) s) s
  let s := ((s.part p).jobs.filter (fun x => x.2.launched)).foldl (fun s x => s.launchDone p stAbandoned x.2.late.toNat) s
  s.updPart p (fun x => { x with jobs := x.jobs.mapV (fun _ j =>
    if j.running.isSome then { j with faulted := true, startAt := none, launched := false } else j) })

theorem State.resetPart_eq (s : State) (p : Nat) : s.resetPart p = ((s.workReset p).abandonFab p).closeSession p := rfl

theorem State.launchDone_cutsOff (s : State) (p st late : Nat) : s.cutsOff (s.launchDone p st late) :=
  s.updCl_cutsOff (s.lead p) _ fun h => h

theorem State.workReset_cutsOff (s : State) (p : Nat) : s.cutsOff (s.workReset p) := by
  unfold State.workReset
  extract_lets t u v
  have ht : s.cutsOff t := State.cutsOff_foldl _ (fun t c => t.abandonCmd_cutsOff p c) _ s
  have hu : t.cutsOff u := State.cutsOff_foldl _ (fun t c => State.cutsOff_foldl _ (fun t i => by
    extract_lets k w x y
    have hw : t.cutsOff w := State.cutsOff_foldl _ (fun t x => t.abandonChunk_cutsOff p k x) _ t
    exact hw.trans (((w.endThreads_work k).trans (x.abandonDma_work p k)).trans (y.finishThreads_work k)).cutsOff) _ t) _ t
  have hv : u.cutsOff v := State.cutsOff_foldl _ (fun t x => t.launchDone_cutsOff p _ _) _ u
  exact ((ht.trans hu).trans hv).trans (v.updPart_work p _).cutsOff

theorem State.resetPart_cutsOff (s : State) (p : Nat) : s.cutsOff (s.resetPart p) := by
  rw [s.resetPart_eq]
  exact ((s.workReset_cutsOff p).trans (State.abandonFab_cutsOff _ p)).trans (State.closeSession_cutsOff _ p)

/-- A reset leaves a partition no session and no fabric command. -/
theorem State.resetPart_cut (s : State) (p : Nat) :
    ((s.resetPart p).secp p).session = none ∧ ∀ c ∈ s.clustersOf p, ((s.resetPart p).cl c).fab = [] := by
  rw [s.resetPart_eq]
  refine ⟨by rw [State.closeSession, State.secp_updSecp_same], fun c hc => ?_⟩
  refine (State.closeSession_cutsOff _ p).fab c (State.abandonFab_none _ p c ?_)
  rw [clustersOf_congr (s.workReset_cutsOff p).dev]
  exact hc

/-! ### Quarantine -/

/-- The reset of a partition that exists. -/
def State.resetIf (s : State) (p : Nat) : State := if s.exists? p then s.resetPart p else s

theorem State.resetIf_cutsOff (s : State) (p : Nat) : s.cutsOff (s.resetIf p) := by
  unfold State.resetIf
  split
  · exact s.resetPart_cutsOff p
  · exact s.cutsOff_refl

/-- What a partition of a device has lost, where the device's record stands. -/
def State.partCut (s : State) (p : Nat) (t : State) : Prop :=
  t.dev = s.dev → s.exists? p = true → (t.secp p).session = none ∧ ∀ c ∈ s.clustersOf p, (t.cl c).fab = []

theorem State.partCut_kept {s t : State} {p : Nat} (h : s.partCut p t) (q : Nat) : s.partCut p (t.resetIf q) := fun hd he =>
  have hq := t.resetIf_cutsOff q
  have ⟨hs, hf⟩ := h (hq.dev.symm.trans hd) he
  ⟨hq.session p hs, fun c hc => hq.fab c (hf c hc)⟩

theorem State.partCut_reset (s t : State) (p : Nat) : s.partCut p (t.resetIf p) := fun hd he => by
  have hdev : t.dev = s.dev := (t.resetIf_cutsOff p).dev.symm.trans hd
  rw [← State.exists?_congr hdev] at he
  rw [State.resetIf, if_pos he, ← State.clustersOf_congr hdev]
  exact t.resetPart_cut p

def State.inQuarantine (s : State) : State := { s with dev := { s.dev with quar := true } }

theorem State.quarantine_eq (s : State) : s.quarantine = ((upTo 8).foldl State.resetIf s).inQuarantine := by
  have hf : (fun (s : State) p => if s.exists? p then s.resetPart p else s) = State.resetIf := rfl
  unfold State.quarantine
  rw [hf]
  generalize (upTo 8).foldl State.resetIf s = u
  rfl

theorem State.quarantine_cut (s : State) :
    let t := s.quarantine
    t.dev.quar = true ∧ t.dev.epoch = s.dev.epoch ∧
      ∀ p, p < 8 → s.exists? p = true → (t.secp p).session = none ∧ ∀ c ∈ s.clustersOf p, (t.cl c).fab = [] := by
  have hu : ((upTo 8).foldl State.resetIf s).dev = s.dev := (State.cutsOff_foldl _ State.resetIf_cutsOff _ s).dev
  have hcut : ∀ p ∈ upTo 8, s.partCut p ((upTo 8).foldl State.resetIf s) := State.foldl_each (s.partCut) State.resetIf
    (fun p q t ht => State.partCut_kept ht q) (fun p t => s.partCut_reset t p) (upTo 8) s
  rw [s.quarantine_eq]
  generalize (upTo 8).foldl State.resetIf s = u at hu hcut ⊢
  exact ⟨rfl, (congrArg Dev.epoch hu :), fun p hp he => hcut p (List.mem_range.mpr hp) hu he⟩

/-! ### Re-admission -/

/-- A fold whose every step leaves the device's record. -/
theorem State.foldl_dev {α : Type} (f : State → α → State) (hf : ∀ t a, (f t a).dev = t.dev) (l : List α) (s : State) :
    (l.foldl f s).dev = s.dev :=
  List.foldlRecOn (motive := fun t : State => t.dev = s.dev) l f rfl fun t ht a _ => (hf t a).trans ht

theorem State.beginScrub_dev (s : State) (p : Nat) (whole : Bool) (cl st : BitVec 8) : (s.beginScrub p whole cl st).dev = s.dev := by
  unfold State.beginScrub
  refine (State.foldl_dev _ (fun t c => ?_) (maskBits cl) s :)
  rw [t.zeroCluster_frame c]
  rfl

theorem State.camEnd_dev (s : State) (p : Nat) : (s.camEnd p).dev = s.dev := by
  unfold State.camEnd
  extract_lets fed xs u
  refine State.foldl_dev _ (fun t x => ?_) xs u
  rfl

theorem State.camScrub_dev (s : State) (o : Nat) : (s.camScrub o).dev = s.dev :=
  State.foldl_dev _ (fun t p => by
    split
    · exact t.camEnd_dev p
    · rfl) _ s

theorem State.tdmScrub_dev (s : State) (o : Nat) : (s.tdmScrub o).dev = s.dev :=
  State.foldl_dev _ (fun t p => by
    split
    · rfl
    · rfl) _ s

theorem State.scrubPart_dev (s : State) (p : Nat) : (s.scrubPart p).dev = s.dev := by
  unfold State.scrubPart
  extract_lets o cmd u src v w src' x
  have hu : u.dev = s.dev := (s.abandonFab_cutsOff p).dev
  have hw : w.dev = s.dev := (v.beginScrub_dev p true o.clusters o.stks).trans hu
  exact (State.tdmScrub_dev _ p).trans ((x.camScrub_dev p).trans hw)

theorem State.endScrub_dev (s : State) (p : Nat) : (s.endScrub p).dev = s.dev := by
  unfold State.endScrub
  split
  · rfl
  · next x _ =>
    extract_lets u v
    have hu : u.dev = s.dev := State.foldl_dev _ (fun t c => by
      have h : (t.gateCluster c).dev = t.dev := by rw [(t.gateCluster_gated c).frame]
      exact h) _ s
    have hv : v.dev = u.dev := by
      refine State.foldl_dev _ (fun t n => ?_) _ u
      rfl
    exact hv.trans hu

theorem State.mapSlots_dev (s : State) (f : BitVec 256 → BitVec 256) : (s.mapSlots f).dev = s.coverTouch.dev := by
  refine State.foldl_dev _ (fun t l => ?_) _ s.coverTouch
  rfl

theorem State.camOwn_dev (s : State) (v : BitVec 16) : (s.camOwn v).dev = s.dev :=
  State.foldl_dev _ (fun t p => by
    split
    · rfl
    · exact t.camEnd_dev p) _ s

theorem State.audOwn_dev (s : State) (v : BitVec 16) : (s.audOwn v).dev = s.dev :=
  State.foldl_dev _ (fun t p => by
    split
    · rfl
    · rfl) _ s

theorem State.setFeedOwn_dev (s : State) (v : BitVec 4) : (s.setFeedOwn v).dev = s.dev := by
  unfold State.setFeedOwn
  split <;> rfl

/-- A partition that leaves takes its ownership with it. -/
theorem State.dropPart_dev (s : State) (p : Nat) :
    (s.dropPart p).dev = { s.coverTouch.dev with own := s.dev.own.upd Own.init p (fun _ => Own.init) } := by
  unfold State.dropPart
  extract_lets u v w x y z
  have hw : w.dev = s.coverTouch.dev := (v.audOwn_dev _).trans ((u.camOwn_dev _).trans (s.mapSlots_dev _))
  have hx : x.dev = s.coverTouch.dev := by
    simp only [x]
    split
    · exact (w.setFeedOwn_dev _).trans hw
    · exact hw
  have hy : y.dev = s.coverTouch.dev := hx
  have hz : z.dev = { y.dev with own := y.dev.own.upd Own.init p (fun _ => Own.init) } := rfl
  refine hz.trans ?_
  rw [hy]
  rfl


/-- A partition that exists leaves the device. -/
def State.leaveIf (s : State) (p : Nat) : State := if s.exists? p then ((s.scrubPart p).endScrub p).dropPart p else s

theorem State.leaveIf_dev (s : State) (p : Nat) (h : s.exists? p = true) :
    (s.leaveIf p).dev = { s.coverTouch.dev with own := s.dev.own.upd Own.init p (fun _ => Own.init) } := by
  have hd : ((s.scrubPart p).endScrub p).dev = s.dev := (State.endScrub_dev _ p).trans (s.scrubPart_dev p)
  rw [State.leaveIf, if_pos h, State.dropPart_dev]
  simp only [State.coverTouch, hd]

theorem State.leaveIf_node (s : State) (p : Nat) : (s.leaveIf p).dev.node = s.dev.node := by
  by_cases h : s.exists? p = true
  · rw [s.leaveIf_dev p h]
    rfl
  · rw [State.leaveIf, if_neg h]

theorem State.leaveIf_gone (s : State) (p : Nat) : (s.leaveIf p).exists? p = false := by
  by_cases h : s.exists? p = true
  · rw [State.exists?, State.own, s.leaveIf_dev p h, SMap.get_upd_same]
    rfl
  · rw [State.leaveIf, if_neg h]
    exact Bool.eq_false_iff.mpr h

theorem State.leaveIf_keepsGone {s : State} {q : Nat} (hq : s.exists? q = false) (p : Nat) : (s.leaveIf p).exists? q = false := by
  by_cases h : s.exists? p = true
  · have hne : q ≠ p := fun he => by rw [he, h] at hq; exact absurd hq (by decide)
    rw [State.exists?, State.own, s.leaveIf_dev p h]
    dsimp only
    rw [SMap.get_upd_ne _ _ _ _ _ hne]
    exact hq
  · rw [State.leaveIf, if_neg h]
    exact hq

def State.outOfQuarantine (s : State) (e : BitVec 16) : State :=
  { s.coverTouch with dev := { s.coverTouch.dev with epoch := e, quar := false } }

theorem State.unquarantine_eq (s : State) (e : BitVec 16) :
    s.unquarantine e =
      (((upTo 8).foldl State.leaveIf s).setEpoch ((upTo 8).foldl State.leaveIf s).dev.node e).outOfQuarantine e := by
  have hf : (fun (s : State) p => if s.exists? p then ((s.scrubPart p).endScrub p).dropPart p else s) = State.leaveIf := rfl
  unfold State.unquarantine
  rw [hf]
  generalize (upTo 8).foldl State.leaveIf s = u
  rfl

theorem State.unquarantine_empties (s : State) (e : BitVec 16) (hn : s.dev.node ≠ masterNode) :
    let t := s.unquarantine e
    t.dev.quar = false ∧ t.dev.epoch = e ∧ t.dev.eptab.get 0#16 s.dev.node.toNat = e ∧ ∀ p, p < 8 → t.exists? p = false := by
  have hnode : ((upTo 8).foldl State.leaveIf s).dev.node = s.dev.node :=
    List.foldlRecOn (motive := fun t : State => t.dev.node = s.dev.node) _ State.leaveIf rfl
      fun t ht p _ => (t.leaveIf_node p).trans ht
  have hgone : ∀ p ∈ upTo 8, ((upTo 8).foldl State.leaveIf s).exists? p = false :=
    State.foldl_each (fun p t => t.exists? p = false) State.leaveIf (fun p q t ht => State.leaveIf_keepsGone ht q)
      (fun p t => t.leaveIf_gone p) (upTo 8) s
  rw [s.unquarantine_eq]
  generalize (upTo 8).foldl State.leaveIf s = u at hnode hgone ⊢
  have hset : u.setEpoch u.dev.node e = { u with dev := { u.dev with eptab := u.dev.eptab.put u.dev.node.toNat e } } :=
    if_neg fun h => hn (hnode ▸ h.1)
  rw [hset, hnode]
  refine ⟨rfl, rfl, ?_, fun p hp => hgone p (List.mem_range.mpr hp)⟩
  exact SMap.get_put_same _ _ _ _

/-! ### Management packets -/

theorem image_orders (l : Fin 7) (k : Packet) (s : State) (h : Claims.orders s l k 3#5) (hw : s.wantsImage = true)
    (hb : s.dev.bootSrc = true) (ha : k.addr = 0#48) :
    execImage l k s = .next (if k.data.length ≥ 12 ∧ recN k.data 8 4 ≤ k.data.length
      then s.imageWhole (k.data.take (recN k.data 8 4)) else s.imageSome k.data) := by
  refine (mgmtPkt_orders h (by decide)).trans (congrArg _ ?_)
  rw [s.takeMgmt_image l.val h.2.1, State.masterOnly_orders h, ha]
  exact s.imagePiece_first k.data hw hb

theorem launch_orders (l : Fin 7) (k : Packet) (s : State) (h : Claims.orders s l k 6#5) :
    execLaunch l k s = .next (s.takeLaunch k) := by
  have hm := (fromMaster_orders h).2
  refine (if_neg (by simp [hm])).trans ((mgmtPkt_orders h (by decide)).trans (congrArg _ ?_))
  rw [s.takeMgmt_launch l.val h.2.1, State.masterOnly_orders h]

/-- What an image in cluster store 0 leaves of the boot and of the device's record. -/
theorem State.store_boot (s : State) (a : Nat) (d : List Byte) : (s.store a d).boot = s.boot ∧ (s.store a d).dev = s.dev := by
  rw [s.store_onlyMem a d]
  exact ⟨rfl, rfl⟩

theorem mgmtFence_orders (l : Fin 7) (k : Packet) (s : State) (h : Claims.orders s l k 8#5) :
    (k.value = 0#64 → ∃ t, execMgmtFence l k s = .next t ∧ t.dev.quar = true ∧ t.dev.epoch = s.dev.epoch ∧
      ∀ p, p < 8 → s.exists? p = true → (t.secp p).session = none ∧ ∀ c ∈ s.clustersOf p, (t.cl c).fab = []) ∧
    (k.value = 1#64 → ∃ t, execMgmtFence l k s = .next t ∧ t.dev.quar = false ∧ t.dev.epoch = k.addr.setWidth 16 ∧
      t.dev.eptab.get 0#16 s.dev.node.toNat = k.addr.setWidth 16 ∧ ∀ p, p < 8 → t.exists? p = false) := by
  have htake : execMgmtFence l k s = .next (s.takeFence k) := (mgmtPkt_orders h (by decide)).trans (congrArg _
    ((s.takeMgmt_fence l.val h.2.1).trans (State.masterOnly_orders h _)))
  refine ⟨fun hv => ⟨s.quarantine, htake.trans (congrArg _ (if_pos hv)), s.quarantine_cut⟩, fun hv => ?_⟩
  have hun : s.takeFence k = s.unquarantine (k.addr.setWidth 16) :=
    (if_neg (by rw [hv]; decide)).trans (if_pos hv)
  exact ⟨_, htake.trans (congrArg _ hun), s.unquarantine_empties _ h.2.2.2.2.1⟩

theorem managementPackets : Claims.ManagementPackets := by
  refine ⟨fun l k s x hlive hl h1 h2 h4 hty hsub hp hbc hep hen hg hm _ he h0 hx hk => ?_,
    fun l k s ha hsub hbc hm hg hw => ?_, fun l k s h => ?_, fun l k s h hw hb ha _ => ⟨fun h12 hn => ?_, fun hn => ?_⟩,
    fun l k s o h hk hq hr => csrRd_orders l k s o h hk hq hr, fun l k s h hk => csrWr_orders l k s h hk, ?_,
    fun l k s h hfab => ?_, fun l k s h => mgmtFence_orders l k s h⟩
  · exact ⟨_, enum_takes l k s hlive hl h1 hty hsub hp hbc hep, s.takeEnum_x k x h2 h4 hen hg hm he h0 hx hk⟩
  · refine (mgmtPkt_arrives ha hbc (by rw [hsub]; decide) (.inr hm) (by rw [hsub]; rfl)).trans (congrArg _ ?_)
    rw [s.takeMgmt_report l.val hsub, if_pos hm, s.takeReport_enumerated k hg hw]
  · obtain ⟨hf, hm⟩ := fromMaster_orders h
    refine ⟨_, (mgmtPkt_orders h (by decide)).trans (congrArg _ ?_), s.setGeom_takes _⟩
    rw [s.takeMgmt_geom l.val h.2.1, hf, hm]
    rfl
  · obtain ⟨hst, hout⟩ := s.store_whole (clStore 0 0) (k.data.take (recN k.data 8 4))
    obtain ⟨hboot, hdev⟩ := s.store_boot (clStore 0 0) (k.data.take (recN k.data 8 4))
    exact ⟨_, (image_orders l k s h hw hb ha).trans (congrArg _ (if_pos ⟨h12, hn⟩)), ⟨hst, hout⟩, rfl,
      congrArg (fun b : Boot => { b with image := k.data.take (recN k.data 8 4) }) hboot,
      congrArg (fun d : Dev => { d with boot := 2#4 }) hdev⟩
  · obtain ⟨hst, hout⟩ := s.store_whole (clStore 0 0) k.data
    obtain ⟨hboot, hdev⟩ := s.store_boot (clStore 0 0) k.data
    exact ⟨_, (image_orders l k s h hw hb ha).trans (congrArg _ (if_neg (by omega))), ⟨hst, hout⟩, rfl, hboot,
      congrArg (fun d : Dev => { d with boot := 1#4 }) hdev⟩
  · intro l k s p j n x done h he hwfe
    refine ⟨fun hst hj hk hml hsc hn => ?_, fun hr => ?_⟩
    · obtain ⟨t, ht, hparts, hjob⟩ := s.takeLaunch_prepared k he ⟨hst, hj, hk, hml, hsc⟩ hn
      exact ⟨t, (launch_orders l k s h).trans (congrArg _ ht), hparts, hjob⟩
    · obtain ⟨hev, hcl⟩ := s.launchDone_event p stRefused hwfe
      exact ⟨_, (launch_orders l k s h).trans (congrArg _ (s.takeLaunch_refused k he hr)), hev, hcl⟩
  · have hset : s.takeMgmt l.val k = s.setFault (BitVec.ofNat 18 (mgmtWord k)) (bitsAt (mgmtWord k) 20 3) (bitAt (mgmtWord k) 31) :=
      (s.takeMgmt_faultmap l.val h.2.1).trans (State.masterOnly_orders h _)
    exact (mgmtPkt_orders h (by decide)).trans (congrArg _ (hset.trans (State.reroute_idle _ s hfab)))

/-- Settles O55: the orders of the master act as their SUB says, and a follower drops the same packets of any other node. -/
theorem managementTraffic : Obligations.ManagementTraffic := ⟨managementPackets, masterOnly⟩

end Sys2Proof.Machine
end

section
/-! Camera packets (R659 to R667, R677, R682, R688). -/
namespace Sys2Proof.Machine

/-! ### A list of one frame, or of none -/

@[simp] theorem State.setFrames_frames (s : State) (l : List Frame) : (s.setFrames l).cam.frames = l := rfl
@[simp] theorem State.setFrames_setFrames (s : State) (l m : List Frame) : (s.setFrames l).setFrames m = s.setFrames m := rfl

theorem State.setFrames_self {s : State} {l : List Frame} (h : s.cam.frames = l) : s.setFrames l = s := by
  subst h
  rfl

/-- A pipeline frame whose buffer is chosen and which its context takes, or which is still open. -/
def State.settled1 (s : State) (f : Frame) : Prop :=
  s.cam.frames = [f] ∧ entByp f.entry = false ∧ f.tailDue = false ∧
    (f.closed = true → s.spareExpo (entTgt f.entry) (entExp f.entry) = false)

/-- Such a frame does nothing by itself. -/
theorem State.flushAll_settled {s : State} {f : Frame} (h : s.settled1 f) : s.flushAll = s := by
  obtain ⟨hf, hb, ht, hx⟩ := h
  have htail : s.settleTail 0 = s := by
    unfold State.settleTail
    rw [hf]
    dsimp only [List.getElem?_cons_zero]
    split
    · rw [ht]
      rfl
    · rfl
  have hflush : s.flushAt 0 = s := by
    unfold State.flushAt
    rw [hf]
    dsimp only [List.getElem?_cons_zero]
    rw [hb]
    rfl
  have hdrop : s.dropSpare = s := by
    have hkeep : (f.closed && !entByp f.entry && s.spareExpo (entTgt f.entry) (entExp f.entry)) = false := by
      rcases hc : f.closed with _ | _
      · rfl
      · rw [hx hc, Bool.and_false]
    unfold State.dropSpare
    rw [hf]
    rw [List.filter_cons_of_pos (by rw [hkeep]; rfl)]
    exact State.setFrames_self hf
  have hone : s.flushAll = ((s.settleTail 0).flushAt 0).dropSpare := by
    unfold State.flushAll
    rw [hf]
    rfl
  rw [hone, htail, hflush, hdrop]

theorem State.flushAll_none {s : State} (h : s.cam.frames = []) : s.flushAll = s := by
  have hone : s.flushAll = s.dropSpare := by
    unfold State.flushAll
    rw [h]
    rfl
  rw [hone]
  unfold State.dropSpare
  rw [h]
  exact State.setFrames_self h

/-- A context takes exposure 0 of its frames. -/
theorem State.spareExpo_zero (s : State) (x : Nat) : s.spareExpo x 0 = false := by
  have h : ¬ parNexp (s.ctx x).active ≤ 0 := by unfold parNexp; omega
  simp [State.spareExpo, h]

theorem State.updOpen_one {s : State} {f : Frame} (hf : s.cam.frames = [f]) {p i : Nat} (ho : f.isOpen p i = true)
    (g : Frame → Frame) : s.updOpen p i g = s.setFrames [g f] := by
  unfold State.updOpen
  rw [hf]
  simp [ho]

/-! ### Headers -/

theorem State.camCnt_frame (s : State) (p off : Nat) : (s.camCnt p off).cam = { s.cam with ports := (s.camCnt p off).cam.ports } := rfl

theorem State.camPort_camCnt (s : State) (p off : Nat) : (s.camCnt p off).camPort p =
    { s.camPort p with cnt := (s.camPort p).cnt.upd 0#32 off satInc } :=
  (SMap.get_upd_same s.cam.ports CamPort.init p (fun x => { x with cnt := x.cnt.upd 0#32 off satInc }) :)

/-- What a header with wrong bits counts. -/
theorem State.camHeader_zero (s : State) (p : Nat) : s.camHeader p 0#2 = s := rfl

theorem State.camHeader_one (s : State) (p : Nat) : s.camHeader p 1#2 = s.camCnt p 0x10 := rfl

theorem State.camHeader_bad (s : State) (p : Nat) {hdr : BitVec 2} (h : 2 ≤ hdr.toNat) : s.camHeader p hdr = s.camCnt p 0x14 := by
  unfold State.camHeader
  rw [if_neg (by rintro rfl; exact absurd h (by decide)), if_neg (by rintro rfl; exact absurd h (by decide))]

/-- Headers count at a port, and touch nothing else. -/
def State.counts (s t : State) : Prop := ∃ m, t = { s with cam := { s.cam with ports := m } }

/-- A counter of a port that is untouched but for headers. -/
theorem State.camHeader_good (s : State) (p : Nat) {hdr : BitVec 2} (h : hdr.toNat ≤ 1) :
    let t := s.camHeader p hdr
    t = { s with cam := { s.cam with ports := t.cam.ports } } ∧
      t.camPort p = { s.camPort p with cnt := (t.camPort p).cnt } ∧
      (t.camPort p).cnt = if hdr = 1#2 then (s.camPort p).cnt.upd 0#32 0x10 satInc else (s.camPort p).cnt := by
  have hd : hdr = 0#2 ∨ hdr = 1#2 := by
    rcases Nat.le_one_iff_eq_zero_or_eq_one.mp h with h | h
    · exact .inl (BitVec.eq_of_toNat_eq h)
    · exact .inr (BitVec.eq_of_toNat_eq h)
  rcases hd with rfl | rfl
  · exact ⟨rfl, rfl, rfl⟩
  · rw [State.camHeader_one]
    exact ⟨rfl, by rw [State.camPort_camCnt], by rw [State.camPort_camCnt]; rfl⟩

/-! ### Frame ends and timeouts -/

theorem Frame.close_as (f : Frame) (ns : W64) : Claims.closedAs f (f.close ns) ns 0#16 := by
  unfold Claims.closedAs Frame.close
  extract_lets n g
  by_cases h : n > 0
  · rw [if_pos h]
    refine ⟨rfl, rfl, rfl, rfl, ?_, rfl, rfl⟩
    rw [if_neg (by omega)]
    simp [Frame.flag, g]
  · rw [if_neg h]
    refine ⟨rfl, rfl, rfl, rfl, ?_, rfl, rfl⟩
    rw [if_pos (by omega)]
    simp [g]

theorem Frame.close_entry (f : Frame) (ns : W64) : (f.close ns).entry = f.entry ∧ (f.close ns).tailDue = f.tailDue ∧
    (f.close ns).par = f.par := by
  unfold Frame.close
  extract_lets n g
  split <;> exact ⟨rfl, rfl, rfl⟩

/-- Exposures that a context takes do not change with the frame that ends. -/
theorem State.spareExpo_setFrames {s : State} {f g : Frame} (hf : s.cam.frames = [f]) (he : g.entry = f.entry) (hp : g.par = f.par)
    (x e : Nat) : (s.setFrames [g]).spareExpo x e = s.spareExpo x e := by
  unfold State.spareExpo
  rw [hf]
  simp [he, hp]
  rfl

/-- A frame that is closed stays in the list. -/
theorem State.closed_settled {s : State} {f g : Frame} (hf : s.cam.frames = [f]) (he : g.entry = f.entry) (hp : g.par = f.par)
    (hb : entByp f.entry = false) (ht : g.tailDue = false) (hx : s.spareExpo (entTgt f.entry) (entExp f.entry) = false) :
    (s.setFrames [g]).flushAll = s.setFrames [g] :=
  State.flushAll_settled (f := g) ⟨rfl, by rw [he, hb], ht, fun _ => by rw [he, State.spareExpo_setFrames hf he hp, hx]⟩

theorem frameEnd_closes (q : Fin 4) (vc : BitVec 4) (fnum : BitVec 16) (s : State) (f : Frame) (hl : s.live = true)
    (hr : s.camRx q.val = true) (hf : s.cam.frames = [f]) (hb : entByp f.entry = false) (hc : f.closed = false)
    (ht : f.tailDue = false) (hp : f.port = q.val) (hv : entVc f.entry = vc.toNat)
    (hx : s.spareExpo (entTgt f.entry) (entExp f.entry) = false) :
    execCsiFrameEnd q vc fnum 0#2 s = .next (s.setFrames [f.close s.nsW]) := by
  obtain ⟨he, htd, hpar⟩ := f.close_entry s.nsW
  refine (whenLive_live _ _ hl).trans (congrArg _ ?_)
  rw [hr]
  refine (if_neg (by decide)).trans ((if_neg (by decide)).trans ?_)
  rw [State.camHeader_zero, hf]
  have hone : [f].map (fun f => if !f.closed && f.port == q.val && entVc f.entry == vc.toNat then f.close s.nsW else f) =
      [f.close s.nsW] := by simp [hc, hp, hv]
  rw [hone]
  exact State.closed_settled hf he hpar hb (htd.trans ht) hx

theorem lineTimeout_closes (q : Fin 4) (i : Fin 16) (s : State) (f : Frame) (hl : s.live = true) (hf : s.cam.frames = [f])
    (ho : f.isOpen q.val i.val = true) (hb : entByp f.entry = false) (ht : f.tailDue = false)
    (hx : s.spareExpo (entTgt f.entry) (entExp f.entry) = false)
    (hlate : f.lastNs.toNat + 1000 * bitsAt (s.camPort q.val).cfg.toNat 16 16 ≤ s.ns) :
    execCsiLineTimeout q i s = .next (s.setFrames [(f.close s.nsW).flag 4]) := by
  obtain ⟨he, htd, hpar⟩ := f.close_entry s.nsW
  have hfind : s.cam.frames.find? (fun f => f.isOpen q.val i.val) = some f := by rw [hf]; simp [ho]
  refine (whenLive_live _ _ hl).trans (congrArg _ ?_)
  rw [hfind]
  refine (if_neg (by omega)).trans ?_
  rw [State.updOpen_one hf ho]
  exact State.closed_settled (g := (f.close s.nsW).flag 4) hf he hpar hb (htd.trans ht) hx

end Sys2Proof.Machine
end

section
/-! Long packets and frame starts of cameras (R659 to R667, R677, R682, R688). -/
namespace Sys2Proof.Machine

/-! ### Counters of a port -/

/-- Only the counters of a port differ. -/
def State.portCounts (s t : State) (p : Nat) : Prop :=
  t = { s with cam := { s.cam with ports := t.cam.ports } } ∧ t.camPort p = { s.camPort p with cnt := (t.camPort p).cnt }

theorem State.camCnt_portCounts {s t : State} {p : Nat} (h : s.portCounts t p) (off : Nat) : s.portCounts (t.camCnt p off) p := by
  obtain ⟨hs, hp⟩ := h
  refine ⟨?_, ?_⟩
  · rw [State.camCnt, State.updCamPort, hs]
  · rw [State.camPort_camCnt, hp]

/-- The state in which a long packet is matched: its header and its CRC have counted. -/
def State.packetCounted (s : State) (p : Nat) (hdr : BitVec 2) (ok : Bool) : State :=
  if ok then s.camHeader p hdr else (s.camHeader p hdr).camCnt p 0x18

theorem State.packetCounted_portCounts (s : State) (p : Nat) {hdr : BitVec 2} (h : hdr.toNat ≤ 1) (ok : Bool) :
    s.portCounts (s.packetCounted p hdr ok) p := by
  obtain ⟨hs, hp, -⟩ := s.camHeader_good p h
  unfold State.packetCounted
  split
  · exact ⟨hs, hp⟩
  · exact State.camCnt_portCounts ⟨hs, hp⟩ 0x18

theorem State.packetCounted_cnt (s : State) (p : Nat) {hdr : BitVec 2} (h : hdr.toNat ≤ 1) (ok : Bool) :
    let t := s.packetCounted p hdr ok
    (hdr = 1#2 → (t.camPort p).cnt.get 0#32 0x10 = satInc ((s.camPort p).cnt.get 0#32 0x10)) ∧
      (ok = false → (t.camPort p).cnt.get 0#32 0x18 = satInc ((s.camPort p).cnt.get 0#32 0x18)) ∧
      ∀ off, off ≠ 0x10 → off ≠ 0x18 → (t.camPort p).cnt.get 0#32 off = (s.camPort p).cnt.get 0#32 off := by
  obtain ⟨-, -, hc⟩ := s.camHeader_good p h
  have h18 : ((s.camHeader p hdr).camPort p).cnt.get 0#32 0x18 = (s.camPort p).cnt.get 0#32 0x18 := by
    rw [hc]
    split
    · rw [SMap.get_upd_ne _ _ _ _ _ (by decide)]
    · rfl
  have hother (off : Nat) (h0 : off ≠ 0x10) :
      ((s.camHeader p hdr).camPort p).cnt.get 0#32 off = (s.camPort p).cnt.get 0#32 off := by
    rw [hc]
    split
    · rw [SMap.get_upd_ne _ _ _ _ _ h0]
    · rfl
  unfold State.packetCounted
  rcases ok with _ | _
  · simp only [Bool.false_eq_true, if_false, State.camPort_camCnt]
    refine ⟨fun h1 => ?_, fun _ => by rw [SMap.get_upd_same, h18], fun off h0 h1 => ?_⟩
    · rw [SMap.get_upd_ne _ _ _ _ _ (by decide), hc, if_pos h1, SMap.get_upd_same]
    · rw [SMap.get_upd_ne _ _ _ _ _ h1, hother off h0]
  · simp only [if_true]
    refine ⟨fun h1 => by rw [hc, if_pos h1, SMap.get_upd_same], fun h => absurd h (by decide), fun off h0 _ => hother off h0⟩

/-! ### Lines -/

theorem Frame.flag_six (f : Frame) : f.flag 6 = { f with flags := f.flags ||| 0x40#16 } := rfl

/-- The frame of a stream after the CRC of a packet. -/
def Frame.arrived (f : Frame) (ns : W64) (ok : Bool) : Frame :=
  { f with lastNs := ns, flags := if ok then f.flags else f.flags ||| 0x20#16 }

theorem Frame.arrived_eq (f : Frame) (ns : W64) (ok : Bool) :
    (if ok then { f with lastNs := ns } else ({ f with lastNs := ns } : Frame).flag 5) = f.arrived ns ok := by
  rcases ok with _ | _ <;> rfl

section
variable {s : State} {f : Frame} {p i : Nat} (hf : s.cam.frames = [f]) (ho : f.isOpen p i = true) (hb : entByp f.entry = false)
  (ht : f.tailDue = false) (hn : f.lines.length < entH f.entry)
include hf ho hb ht hn

omit hn in
/-- A line changes its frame and the overruns. -/
theorem State.takeLine_frame (ok : Bool) (l : List Nat) : s.takeLine p i f ok l = { s with cam := { s.cam with
    frames := (s.takeLine p i f ok l).cam.frames, overrun := (s.takeLine p i f ok l).cam.overrun } } := by
  have hopen : f.closed = false := by
    unfold Frame.isOpen at ho
    simp at ho
    exact ho.1.1
  unfold State.takeLine
  extract_lets full w ns x g ovr t cam u
  have hg : (g f).entry = f.entry ∧ (g f).tailDue = f.tailDue ∧ (g f).closed = f.closed := by
    simp only [g]
    split_ifs <;> exact ⟨rfl, rfl, rfl⟩
  obtain ⟨he, htd, hcl⟩ := hg
  have ht' : t = s.setFrames [g f] := State.updOpen_one hf ho g
  have hu : u.cam.frames = [g f] ∧ u = { s with cam := { s.cam with frames := u.cam.frames, overrun := u.cam.overrun } } := by
    have hcam : cam = (s.setFrames [g f]).cam := congrArg State.cam ht'
    simp only [u]
    rw [ht', hcam]
    split <;> exact ⟨rfl, rfl⟩
  rw [State.flushAll_settled (f := g f) ⟨hu.1, by rw [he, hb], by rw [htd, ht], fun h => nomatch (hopen.symm.trans (hcl.symm.trans h))⟩]
  exact hu.2

/-- A line of the right length that has room. -/
theorem State.takeLine_room (ok : Bool) (l : List Nat) (hr : s.heldLines (entTgt f.entry / 8) < 32) (hl : l.length = entW f.entry) :
    s.takeLine p i f ok l = s.setFrames [{ f with
      lastNs := s.nsW, flags := if ok then f.flags else f.flags ||| 0x20#16
      lines := f.lines ++ [l.map (fun v => BitVec.ofNat 20 v)], stamps := f.stamps ++ [s.nsW] }] := by
  have hfull : ¬ s.heldLines (entTgt f.entry / 8) ≥ 32 := by omega
  have hopen : f.closed = false := by
    unfold Frame.isOpen at ho
    simp at ho
    exact ho.1.1
  unfold State.takeLine
  rw [decide_eq_false hfull]
  dsimp only
  rw [State.updOpen_one hf ho, Frame.arrived_eq]
  have h1 : ¬ (f.arrived s.nsW ok).lines.length ≥ entH (f.arrived s.nsW ok).entry := by
    show ¬ f.lines.length ≥ entH f.entry
    omega
  have htake : (l.take (entW f.entry)).map (fun v => BitVec.ofNat 20 v) = l.map (fun v => BitVec.ofNat 20 v) := by
    rw [← hl, List.take_length]
  have hpad : entW f.entry - (l.map (fun v => BitVec.ofNat 20 v)).length = 0 := by rw [List.length_map, hl, Nat.sub_self]
  have hent : (f.arrived s.nsW ok).entry = f.entry := rfl
  rw [if_neg h1]
  simp only [Bool.false_and, Bool.false_eq_true, if_false, htake, hpad, List.replicate_zero, List.append_nil, hl, Nat.lt_irrefl, gt_iff_lt]
  exact State.flushAll_settled (f := (f.arrived s.nsW ok).addLine s.nsW (l.map (fun v => BitVec.ofNat 20 v)))
    ⟨rfl, hb, ht, fun h => nomatch (hopen.symm.trans h : false = true)⟩

/-- A line that finds 32 lines waiting is padded and counted. -/
theorem State.takeLine_full (ok : Bool) (l : List Nat) (hr : 32 ≤ s.heldLines (entTgt f.entry / 8)) :
    s.takeLine p i f ok l = State.setFrames
      { s with cam := { s.cam with overrun := s.cam.overrun.upd 0#32 (entTgt f.entry / 8) satInc } } [{ f with
      lastNs := s.nsW, flags := (if ok then f.flags else f.flags ||| 0x20#16) ||| 0x40#16
      fixed := f.fixed + 1, padded := f.padded ++ [f.lines.length]
      lines := f.lines ++ [List.replicate (entW f.entry) f.padv], stamps := f.stamps ++ [s.nsW] }] := by
  have hopen : f.closed = false := by
    unfold Frame.isOpen at ho
    simp at ho
    exact ho.1.1
  have hfull : s.heldLines (entTgt f.entry / 8) ≥ 32 := hr
  unfold State.takeLine
  rw [decide_eq_true hfull]
  dsimp only
  rw [State.updOpen_one hf ho, Frame.arrived_eq]
  have h1 : ¬ (f.arrived s.nsW ok).lines.length ≥ entH (f.arrived s.nsW ok).entry := by
    show ¬ f.lines.length ≥ entH f.entry
    omega
  have hby : entByp (f.arrived s.nsW ok).entry = false := hb
  rw [if_neg h1, hby, hb, decide_eq_true hn]
  exact State.flushAll_settled (f := { ((f.arrived s.nsW ok).addLine s.nsW f.padLine).flag 6 with
    fixed := f.fixed + 1, padded := f.padded ++ [f.lines.length] })
    ⟨rfl, hb, ht, fun h => nomatch (hopen.symm.trans h : false = true)⟩

end

/-! ### Long packets -/

/-- Whether an entry of a port, as its last frame start read it, takes packets of a channel and a type. -/
def State.takesPacket (s : State) (p : Nat) (vc : BitVec 4) (dt : BitVec 6) (j : Nat) : Bool :=
  let e := (s.camPort p).eff.get 0#64 j
  entV e && entVc e == vc.toNat && entDt e == dt.toNat

/-- A long packet of a good header and a long type, as the entries match it. -/
def State.matchPacket (s : State) (p : Nat) (vc : BitVec 4) (dt : BitVec 6) (ok : Bool) (data : List Byte) : State :=
  match (upTo 16).find? (s.takesPacket p vc dt) with
  | none => s.camCnt p 0x1C
  | some i =>
    if s.cam.ignored.contains (p, i) then s.camCnt p 0x1C
    else match s.cam.frames.find? (fun f => f.isOpen p i) with
      | none => s.camCnt p 0x24
      | some f => s.takeLine p i f ok (samplesOf dt.toNat data)

section
variable {q : Fin 4} {s : State} (hl : s.live = true) (hr : s.camRx q.val = true) (vc : BitVec 4) (dt : BitVec 6)
  (ok : Bool) (data : List Byte)
include hl hr

theorem longPacket_bad {hdr : BitVec 2} (h : 2 ≤ hdr.toNat) :
    execCsiLongPacket q vc dt hdr ok data s = .next (s.camCnt q.val 0x14) := by
  refine (whenLive_live _ _ hl).trans (congrArg _ ?_)
  rw [hr]
  exact (if_neg (by decide)).trans ((if_pos h).trans (s.camHeader_bad q.val h))

theorem longPacket_short {hdr : BitVec 2} (h : hdr.toNat ≤ 1) (hd : dtLong dt.toNat = false) :
    execCsiLongPacket q vc dt hdr ok data s = .next ((s.packetCounted q.val hdr ok).camCnt q.val 0x20) := by
  refine (whenLive_live _ _ hl).trans (congrArg _ ?_)
  rw [hr]
  refine (if_neg (by decide)).trans ((if_neg (by omega)).trans ?_)
  rw [hd]
  rfl

theorem longPacket_long {hdr : BitVec 2} (h : hdr.toNat ≤ 1) (hd : dtLong dt.toNat = true) :
    execCsiLongPacket q vc dt hdr ok data s = .next ((s.packetCounted q.val hdr ok).matchPacket q.val vc dt ok data) := by
  refine (whenLive_live _ _ hl).trans (congrArg _ ?_)
  rw [hr]
  refine (if_neg (by decide)).trans ((if_neg (by omega)).trans ?_)
  rw [hd]
  rfl

end

theorem State.portCounts.takesPacket {s t : State} {p : Nat} (h : s.portCounts t p) (vc : BitVec 4) (dt : BitVec 6) (j : Nat) :
    t.takesPacket p vc dt j = s.takesPacket p vc dt j := by
  unfold State.takesPacket
  rw [h.2]

theorem State.portCounts.frames {s t : State} {p : Nat} (h : s.portCounts t p) : t.cam.frames = s.cam.frames := by rw [h.1]

theorem find_first (f : Nat → Bool) {n i : Nat} (hi : i < n) (h : f i = true) (hlt : ∀ j, j < i → f j = false) :
    (List.range n).find? f = some i := by
  rw [List.find?_range_eq_some]
  exact ⟨h, List.mem_range.mpr hi, fun j hj => by rw [hlt j hj]; rfl⟩

/-- A packet of an open frame is a line of it. -/
theorem State.matchPacket_line {s : State} {p i : Nat} {f : Frame} {vc : BitVec 4} {dt : BitVec 6} (ok : Bool) (data : List Byte)
    (hi : i < 16) (ht : s.takesPacket p vc dt i = true) (hlt : ∀ j, j < i → s.takesPacket p vc dt j = false)
    (hig : s.cam.ignored.contains (p, i) = false) (hf : s.cam.frames = [f]) (ho : f.isOpen p i = true) :
    s.matchPacket p vc dt ok data = s.takeLine p i f ok (samplesOf dt.toNat data) := by
  have hfind : (upTo 16).find? (s.takesPacket p vc dt) = some i := find_first _ hi ht hlt
  have hopen : s.cam.frames.find? (fun f => f.isOpen p i) = some f := by rw [hf]; simp [ho]
  unfold State.matchPacket
  rw [hfind]
  dsimp only
  rw [hig, hopen]
  rfl

theorem State.matchPacket_none {s : State} {p : Nat} {vc : BitVec 4} {dt : BitVec 6} (ok : Bool) (data : List Byte)
    (h : ∀ j, j < 16 → s.takesPacket p vc dt j = false) : s.matchPacket p vc dt ok data = s.camCnt p 0x1C := by
  have hfind : (upTo 16).find? (s.takesPacket p vc dt) = none :=
    List.find?_eq_none.mpr fun j hj => Bool.eq_false_iff.mp (h j (List.mem_range.mp hj))
  unfold State.matchPacket
  rw [hfind]


end Sys2Proof.Machine
end

section
/-! Frame starts of cameras (R664 to R667, R677, R682), and the statement on camera packets. -/
namespace Sys2Proof.Machine

/-! ### One entry of a port -/

/-- An iteration that alone does something. -/
theorem foldl_range_single {α : Type} (f : α → Nat → α) {s : α} {i : Nat} : ∀ {n : Nat}, i < n → (∀ j, j < i → f s j = s) →
    (∀ j, i < j → j < n → f (f s i) j = f s i) → (List.range n).foldl f s = f s i
  | 0, hi, _, _ => absurd hi (Nat.not_lt_zero i)
  | n + 1, hi, hpre, hpost => by
    rw [List.range_succ, List.foldl_append, List.foldl_cons, List.foldl_nil]
    rcases Nat.lt_succ_iff_lt_or_eq.mp hi with hlt | rfl
    · rw [foldl_range_single f hlt hpre fun j h1 h2 => hpost j h1 (by omega)]
      exact hpost n hlt (Nat.lt_succ_self n)
    · have hid : (List.range i).foldl f s = s :=
        List.foldlRecOn (motive := fun t => t = s) _ f rfl fun t ht j hj => by
          rw [ht]
          exact hpre j (List.mem_range.mp hj)
      rw [hid]

/-- What a frame start does at one entry of a port. -/
def State.startEntry (s : State) (p v own : Nat) (fnum : BitVec 16) (i : Nat) : State :=
  let cur := (s.camPort p).entries.get 0#64 i
  let old := (s.camPort p).eff.get 0#64 i
  let isCur : Bool := entV cur && entVc cur == v
  let isOld : Bool := entV old && entVc old == v
  if !isCur && !isOld then s
  else
    let s := s.updOpen p i (fun f => (f.close s.nsW).flag 8)
    let s := s.flushAll
    let s := s.updCamPort p (fun x => { x with eff := x.eff.put i cur })
    if isCur then s.openStream p i cur fnum own else s

theorem State.frameStart_eq (s : State) (p v own : Nat) (fnum : BitVec 16) :
    s.frameStart p v own fnum = (upTo 16).foldl (fun s i => s.startEntry p v own fnum i) s := rfl

theorem State.startEntry_other {s : State} {p v i : Nat} (own : Nat) (fnum : BitVec 16)
    (hc : (entV ((s.camPort p).entries.get 0#64 i) && entVc ((s.camPort p).entries.get 0#64 i) == v) = false)
    (ho : (entV ((s.camPort p).eff.get 0#64 i) && entVc ((s.camPort p).eff.get 0#64 i) == v) = false) :
    s.startEntry p v own fnum i = s := by
  unfold State.startEntry
  dsimp only
  rw [hc, ho]
  rfl

/-- The entry as a frame start reads it. -/
def State.withEff (s : State) (p i : Nat) (e : W64) : State := s.updCamPort p (fun x => { x with eff := x.eff.put i e })

theorem State.startEntry_opens {s : State} {p v i : Nat} {e : W64} (own : Nat) (fnum : BitVec 16) (h : Claims.loneEntry s p i v e)
    (hf : s.cam.frames = []) : s.startEntry p v own fnum i = (s.withEff p i e).openStream p i e fnum own := by
  obtain ⟨rfl, hv, rfl, -⟩ := h
  have hopen (g : Frame → Frame) : s.updOpen p i g = s := by
    unfold State.updOpen
    rw [hf]
    exact State.setFrames_self hf
  unfold State.startEntry
  dsimp only
  rw [hv, hopen, State.flushAll_none hf]
  simp only [beq_self_eq_true, Bool.and_self, if_true, Bool.not_true, Bool.false_and, Bool.false_eq_true, if_false]
  rfl

theorem State.camPort_withEff (s : State) (p i : Nat) (e : W64) :
    (s.withEff p i e).camPort p = { s.camPort p with eff := (s.camPort p).eff.put i e } :=
  (SMap.get_upd_same s.cam.ports CamPort.init p (fun x => { x with eff := x.eff.put i e }) :)

/-- A frame start of a channel that one entry has opens that entry's frame, where opening keeps the port as read. -/
theorem State.frameStart_lone {s : State} {p v i : Nat} {e : W64} (own : Nat) (fnum : BitVec 16) (hi : i < 16)
    (h : Claims.loneEntry s p i v e) (hf : s.cam.frames = [])
    (hk : ((s.withEff p i e).openStream p i e fnum own).camPort p = (s.withEff p i e).camPort p) :
    s.frameStart p v own fnum = (s.withEff p i e).openStream p i e fnum own := by
  have hopen := State.startEntry_opens own fnum h hf
  obtain ⟨-, -, -, hother⟩ := h
  rw [s.frameStart_eq, ← hopen]
  refine foldl_range_single (fun (s : State) i => s.startEntry p v own fnum i) hi (fun j hj => ?_) (fun j hj hn => ?_)
  · obtain ⟨h1, h2⟩ := hother j (by omega) (by omega)
    exact State.startEntry_other own fnum h1 h2
  · obtain ⟨h1, h2⟩ := hother j hn (by omega)
    refine State.startEntry_other own fnum ?_ ?_
    · rw [hopen, hk, State.camPort_withEff]
      exact h1
    · rw [hopen, hk, State.camPort_withEff]
      dsimp only
      rw [SMap.get_put_ne _ _ _ _ _ (by omega)]
      exact h2

/-! ### The frame that is opened -/

/-- The frame that a frame start opens for an entry. -/
def State.newFrame (s : State) (p i : Nat) (e : W64) (fnum : BitVec 16) (buf : Option W64) (ring : Ring) (par : SMap W32)
    (gen : BitVec 16) : Frame :=
  { Frame.init with
    port := p, idx := i, entry := e, tailDue := false, fnum := fnum, tFs := s.nsW, lastNs := s.nsW, bufIdx := buf, ring := ring
    par := par, gen := gen }

theorem State.newFrame_opened (s : State) (p i : Nat) (e : W64) (fnum : BitVec 16) (buf : Option W64) (ring : Ring) (par : SMap W32)
    (gen : BitVec 16) : Claims.opened s p i e fnum (s.newFrame p i e fnum buf ring par gen) :=
  ⟨rfl, rfl, rfl, rfl, rfl, rfl, rfl, rfl, rfl, rfl, rfl⟩

/-- Without frames of its ring no buffer is held. -/
theorem State.takeBuf_first {s : State} (hf : s.cam.frames = []) (p k : Nat) {r : Ring} (hr : r.fabric = false) :
    s.takeBuf p k r =
      if (s.cam.heads.get 0#64 k - BitVec.ofNat 64 (s.ringTail p r).1).toNat < r.n then
        (some (s.cam.heads.get 0#64 k), (s.ringTail p r).2)
      else (none, { (s.ringTail p r).2 with cam := { (s.ringTail p r).2.cam with
        dropped := (s.ringTail p r).2.cam.dropped.upd 0#16 k (fun n => if n = 0xFFFF#16 then n else n + 1#16) } }) := by
  have h0 : s.cam.heads.get 0#64 k + BitVec.ofNat 64 (s.heldBufs k) = s.cam.heads.get 0#64 k := by
    rw [State.heldBufs, hf]
    exact BitVec.add_zero _
  unfold State.takeBuf
  rw [h0, hr]
  rfl

/-- The stream's packets are no longer ignored. -/
def State.unignored (s : State) (p i : Nat) : State :=
  { s with cam := { s.cam with ignored := s.cam.ignored.filter (fun y => y != (p, i)) } }

/-- A frame opened in a ring, with the ring's next buffer. -/
def State.opens (s : State) (p i own : Nat) (e : W64) (fnum : BitVec 16) (r : Ring) (par : SMap W32) (gen : BitVec 16) : State :=
  let b := s.takeBuf own (entRing e) r
  b.2.setFrames (b.2.cam.frames ++ [b.2.newFrame p i e fnum b.1 r par gen])

/-- The last step of opening a stream: its frame joins the list. -/
def State.openFrame (s : State) (p i : Nat) (e : W64) (fnum : BitVec 16) (own : Nat) : State :=
  let c := s.ctx (entTgt e)
  let ring := if entByp e then s.bypassRing (entTgt e) else ctxRing c.active
  let takes := entByp e || entExp e == 0
  let late := takes && s.tailWaits own ring
  let b := if takes && !late then s.takeBuf own (entRing e) ring else (none, s)
  let s := b.2
  s.setFrames (s.cam.frames ++ [{ Frame.init with
    port := p, idx := i, entry := e, tailDue := late, fnum := fnum, tFs := s.nsW, lastNs := s.nsW, bufIdx := b.1, ring := ring
    par := if entByp e then [] else c.active, gen := if entByp e then 0#16 else c.gen }])

/-- The frame of a bypass stream, or of exposure 0, whose TAIL can be read. -/
theorem State.openFrame_opens (s : State) (p i : Nat) (e : W64) (fnum : BitVec 16) (own : Nat) (ht : (entByp e || entExp e == 0) = true)
    {r : Ring} (hr : (if entByp e then s.bypassRing (entTgt e) else ctxRing (s.ctx (entTgt e)).active) = r)
    (hl : s.tailWaits own r = false) : s.openFrame p i e fnum own = s.opens p i own e fnum r
      (if entByp e then [] else (s.ctx (entTgt e)).active) (if entByp e then 0#16 else (s.ctx (entTgt e)).gen) := by
  unfold State.openFrame
  dsimp only
  rw [ht, hr, hl]
  rfl

/-- A bypass stream opens its frame. -/
theorem State.openStream_bypass (s : State) (p i own : Nat) {e : W64} (fnum : BitVec 16) (hb : entByp e = true) :
    s.openStream p i e fnum own = (s.unignored p i).openFrame p i e fnum own := by
  unfold State.openStream
  simp only [hb, Bool.not_true, Bool.false_and, Bool.false_eq_true, if_false]
  unfold State.openFrame
  simp only [hb]
  rfl

/-- A pipeline stream of exposure 0 whose context runs opens its frame with the parameters that its context takes. -/
theorem State.openStream_pipeline (s : State) (p i own : Nat) {e : W64} (fnum : BitVec 16) (hb : entByp e = false) (hx : entExp e = 0)
    (hd : entDt e ≠ 0x12) (hd' : entDt e ≠ 0x1E) (hw : entW e ≤ 8192) (hen : (s.ctx (entTgt e)).en = true) :
    s.openStream p i e fnum own = ((s.unignored p i).commitCtx (entTgt e)).openFrame p i e fnum own := by
  have henable : s.enableAtFs (entTgt e) = s := by
    unfold State.enableAtFs
    rw [hen]
    simp
  unfold State.openStream
  simp only [hb, Bool.not_false, if_true, henable, hen, hx]
  rw [if_neg (by simp [hd, hd', hw])]
  unfold State.openFrame
  simp only [hb, hx, beq_self_eq_true, Bool.and_self, if_true]
  rfl

/-! ### The buffer of the frame -/

theorem State.ringTail_onlyNotes (s : State) (p : Nat) (r : Ring) : s.onlyNotes (s.ringTail p r).2 := by
  unfold State.ringTail
  split
  · rfl
  · have h := s.hostMiss_onlyNotes p r.base.toNat 8 .none
    dsimp only
    generalize s.hostMiss p r.base.toNat 8 .none = m at h ⊢
    unfold State.onlyNotes at h ⊢
    rw [h]
    rfl

theorem State.takeBuf_frame (s : State) (p k : Nat) (r : Ring) : (s.takeBuf p k r).2 = { s with
    hbm := (s.takeBuf p k r).2.hbm, parts := (s.takeBuf p k r).2.parts
    cam := { s.cam with dropped := (s.takeBuf p k r).2.cam.dropped } } := by
  have htail := s.ringTail_onlyNotes p r
  unfold State.takeBuf
  dsimp only
  generalize s.ringTail p r = tail at htail ⊢
  obtain ⟨n, u⟩ := tail
  dsimp only [State.onlyNotes] at htail ⊢
  rw [htail]
  split
  · rfl
  · split <;> rfl

/-- What opening a frame leaves of the cameras. -/
theorem State.opens_cam {s : State} (hf : s.cam.frames = []) (p i own : Nat) (e : W64) (fnum : BitVec 16) (r : Ring) (par : SMap W32)
    (gen : BitVec 16) :
    let t := s.opens p i own e fnum r par gen
    t.cam.frames = [s.newFrame p i e fnum (s.takeBuf own (entRing e) r).1 r par gen] ∧ t.cam.ports = s.cam.ports ∧
      t.cam.ctx = s.cam.ctx := by
  have hb := s.takeBuf_frame own (entRing e) r
  unfold State.opens
  dsimp only [State.setFrames_frames]
  generalize s.takeBuf own (entRing e) r = b at hb ⊢
  obtain ⟨o, u⟩ := b
  dsimp only at hb ⊢
  rw [hb]
  refine ⟨?_, rfl, rfl⟩
  rw [hf]
  rfl

section
variable {s : State} (hf : s.cam.frames = []) {own : Nat} {r : Ring} {l : List Byte} (hr : r.fabric = false)
  (ht : s.hostRead own r.base.toNat 8 = .inl l)
include hf hr ht

/-- The next buffer of a ring whose TAIL can be read. -/
theorem State.takeBuf_read (k : Nat) :
    let head := s.cam.heads.get 0#64 k
    let room : Bool := decide ((head - BitVec.ofNat 64 (leVal l)).toNat < r.n)
    (s.takeBuf own k r).1 = (if room then some head else none) ∧
      (s.takeBuf own k r).2 = { s with cam := (s.takeBuf own k r).2.cam } ∧
      (room = true → (s.takeBuf own k r).2.cam.dropped = s.cam.dropped) := by
  intro head room
  have htail : s.ringTail own r = (leVal l, s) := by
    unfold State.ringTail
    rw [ht]
  have hbuf := State.takeBuf_first hf own k hr
  rw [htail] at hbuf
  rw [hbuf]
  by_cases h : (head - BitVec.ofNat 64 (leVal l)).toNat < r.n
  · rw [if_pos h, show room = true from decide_eq_true h]
    exact ⟨rfl, rfl, fun _ => rfl⟩
  · rw [if_neg h, show room = false from decide_eq_false h]
    exact ⟨rfl, rfl, fun h => absurd h (by decide)⟩

theorem State.opens_read (p i : Nat) (e : W64) (fnum : BitVec 16) (par : SMap W32) (gen : BitVec 16) :
    let head := s.cam.heads.get 0#64 (entRing e)
    let room : Bool := decide ((head - BitVec.ofNat 64 (leVal l)).toNat < r.n)
    let t := s.opens p i own e fnum r par gen
    t = { s with cam := t.cam } ∧
      t.cam.frames = [s.newFrame p i e fnum (if room then some head else none) r par gen] ∧
      (room = true → t.cam.dropped = s.cam.dropped) := by
  intro head room t
  obtain ⟨hbuf, hst, hdrop⟩ := State.takeBuf_read hf hr ht (entRing e)
  obtain ⟨hfr, -, -⟩ := State.opens_cam hf p i own e fnum r par gen
  refine ⟨?_, hfr.trans (by rw [hbuf]), fun h => (hdrop h :)⟩
  have hset : t = { (s.takeBuf own (entRing e) r).2 with cam := t.cam } := rfl
  rw [hset, hst]

end

/-! ### Frame starts -/

/-- What a frame start has read before it opens a frame: the port's counters, its calibration and the entry. -/
structure State.entryRead (s u : State) (p i : Nat) (e : W64) (hdr : BitVec 2) (sk : Bool) : Prop where
  frame : u = { s with cam := { s.cam with ports := u.cam.ports, ignored := u.cam.ignored } }
  eff : (u.camPort p).eff.get 0#64 i = e
  skew : (u.camPort p).skewOk = sk
  cnt : hdr = 1#2 → (u.camPort p).cnt.get 0#32 0x10 = satInc ((s.camPort p).cnt.get 0#32 0x10)

/-- A port whose calibration has been reported and whose header has counted. -/
def State.portHeard (s : State) (p : Nat) (hdr : BitVec 2) (sk : Bool) : State :=
  (s.updCamPort p (fun x => { x with skewOk := sk })).camHeader p hdr

theorem State.portHeard_port (s : State) (p : Nat) {hdr : BitVec 2} (sk : Bool) (h : hdr.toNat ≤ 1) :
    (s.portHeard p hdr sk).camPort p = { s.camPort p with
      skewOk := sk, cnt := if hdr = 1#2 then (s.camPort p).cnt.upd 0#32 0x10 satInc else (s.camPort p).cnt } ∧
    s.portHeard p hdr sk = { s with cam := { s.cam with ports := (s.portHeard p hdr sk).cam.ports } } := by
  obtain ⟨hs, hp, hc⟩ := (s.updCamPort p (fun x => { x with skewOk := sk })).camHeader_good p h
  have hport : (s.updCamPort p (fun x => { x with skewOk := sk })).camPort p = { s.camPort p with skewOk := sk } :=
    (SMap.get_upd_same s.cam.ports CamPort.init p (fun x => { x with skewOk := sk }) :)
  refine ⟨?_, ?_⟩
  · rw [State.portHeard, hp, hc, hport]
  · rw [State.portHeard, hs]
    rfl

/-- The state in which a frame start opens a stream. -/
def State.heardStart (s : State) (p i : Nat) (e : W64) (hdr : BitVec 2) (sk : Bool) : State :=
  ((s.portHeard p hdr sk).withEff p i e).unignored p i

theorem State.heardStart_read (s : State) (p i : Nat) (e : W64) {hdr : BitVec 2} (sk : Bool) (hh : hdr.toNat ≤ 1) :
    s.entryRead (s.heardStart p i e hdr sk) p i e hdr sk := by
  obtain ⟨hport, hframe⟩ := s.portHeard_port p sk hh
  refine ⟨?_, ?_, ?_, ?_⟩
  · rw [State.heardStart, State.unignored, State.withEff, State.updCamPort, hframe]
  · show ((State.withEff _ _ _ _).camPort p).eff.get 0#64 i = e
    rw [State.camPort_withEff, SMap.get_put_same]
  · show ((State.withEff _ _ _ _).camPort p).skewOk = sk
    rw [State.camPort_withEff, hport]
  · intro h1
    show ((State.withEff _ _ _ _).camPort p).cnt.get 0#32 0x10 = _
    rw [State.camPort_withEff, hport]
    dsimp only
    rw [if_pos h1, SMap.get_upd_same]

/-- A frame start reads its entry and opens its stream. -/
theorem frameStart_opens (q : Fin 4) (vc : BitVec 4) (fnum : BitVec 16) {hdr : BitVec 2} (sk : Bool) {s t : State} {own i : Nat} {e : W64}
    (hl : s.live = true) (hr : s.camRx q.val = true) (ho : s.camOwner q.val = some own) (hi : i < 16)
    (h : Claims.loneEntry s q.val i vc.toNat e) (hf : s.cam.frames = []) (hh : hdr.toNat ≤ 1)
    (ht : ((s.portHeard q.val hdr sk).withEff q.val i e).openStream q.val i e fnum own = t)
    (hk : t.cam.ports = (s.heardStart q.val i e hdr sk).cam.ports) :
    exec (.csiFrameStart q vc fnum hdr sk) s = .next t := by
  obtain ⟨hport, hframe⟩ := s.portHeard_port q.val sk hh
  have hlone : Claims.loneEntry (s.portHeard q.val hdr sk) q.val i vc.toNat e := by
    unfold Claims.loneEntry
    rw [hport]
    exact h
  have hnone : (s.portHeard q.val hdr sk).cam.frames = [] := by rw [hframe]; exact hf
  subst ht
  refine (whenLive_live _ _ hl).trans (congrArg _ ?_)
  rw [ho]
  dsimp only
  rw [hr]
  refine (if_neg (by decide)).trans ((if_neg (by omega)).trans ?_)
  exact State.frameStart_lone own fnum hi hlone hnone (congrArg (fun m : SMap CamPort => m.get CamPort.init q.val) hk :)

/-! ### The commit of a context's parameters -/

theorem State.ctx_updCtx_same (s : State) (x : Nat) (f : Ctx → Ctx) : (s.updCtx x f).ctx x = f (s.ctx x) :=
  (SMap.get_upd_same s.cam.ctx Ctx.init x f :)

theorem State.commitCtx_frame (s : State) (x : Nat) :
    s.commitCtx x = { s with cam := { s.cam with ctx := (s.commitCtx x).cam.ctx } } := by
  unfold State.commitCtx
  split
  · rfl
  · split <;> rfl

/-- What a commit leaves in its context. -/
theorem State.commitCtx_ctx (s : State) (x : Nat) :
    let c := s.ctx x
    let d := (s.commitCtx x).ctx x
    (d.active = c.active ∨ d.active = c.shadow) ∧ (c.pend = false → d.gen = c.gen) ∧
      (c.pend = true → d.pend = false ∧ (d.cerr = false → d.active = c.shadow ∧ d.gen = c.gen + 1#16)) := by
  intro c d
  by_cases hp : c.pend = true
  · by_cases hok : s.commitOk x = true
    · have hd : d = { c with pend := false, active := c.shadow, gen := c.gen + 1#16 } := by
        show (s.commitCtx x).ctx x = _
        rw [State.commitCtx, if_neg (by simp [show (s.ctx x).pend = true from hp]), if_pos hok, State.ctx_updCtx_same]
      rw [hd]
      exact ⟨.inr rfl, fun h => absurd h (by rw [hp]; decide), fun _ => ⟨rfl, fun _ => ⟨rfl, rfl⟩⟩⟩
    · have hd : d = { c with pend := false, cerr := true } := by
        show (s.commitCtx x).ctx x = _
        rw [State.commitCtx, if_neg (by simp [show (s.ctx x).pend = true from hp]), if_neg hok, State.ctx_updCtx_same]
      rw [hd]
      exact ⟨.inl rfl, fun h => absurd h (by rw [hp]; decide), fun _ => ⟨rfl, fun h => Bool.noConfusion (h : true = false)⟩⟩
  · have hd : d = c := by
      show (s.commitCtx x).ctx x = _
      rw [State.commitCtx, if_pos (by simp [show ¬ (s.ctx x).pend = true from hp])]
    rw [hd]
    exact ⟨.inl rfl, fun _ => rfl, fun h => absurd h hp⟩

/-! ### Streams that open -/

theorem State.withCam_mvPart (s : State) (c : Cam) (p a n : Nat) : State.mvPart { s with cam := c } p a n = s.mvPart p a n := rfl
theorem State.withCam_hostRead (s : State) (c : Cam) (p a n : Nat) : State.hostRead { s with cam := c } p a n = s.hostRead p a n := rfl

theorem State.bypassRing_congr {s t : State} (h : t.cam.rings = s.cam.rings) (r : Nat) : t.bypassRing r = s.bypassRing r := by
  simp only [State.bypassRing, h]

theorem State.withCam_eq {s u : State} {c : Cam} (h : u = { s with cam := c }) (d : Cam) : { u with cam := d } = { s with cam := d } := by
  rw [h]

theorem State.tailWaits_still {s : State} {own : Nat} {r : Ring} (h : s.mvPart own r.base.toNat 8 = false) :
    s.tailWaits own r = false := by
  rw [State.tailWaits, h, Bool.and_false]

/-- A frame opened in a state that has read an entry is opened at its frame start. -/
theorem State.newFrame_read {s u : State} (hu : u.time = s.time) (p i : Nat) (e : W64) (fnum : BitVec 16) (buf : Option W64) (ring : Ring)
    (par : SMap W32) (gen : BitVec 16) : Claims.opened s p i e fnum (u.newFrame p i e fnum buf ring par gen) := by
  have h : u.nsW = s.nsW := by unfold State.nsW State.ns; rw [hu]
  obtain ⟨h1, h2, h3, h4, h5, h6⟩ := u.newFrame_opened p i e fnum buf ring par gen
  exact ⟨h1, h2, h3, h4, h5.trans h, h6⟩

section
variable (q : Fin 4) (vc : BitVec 4) (fnum : BitVec 16) {hdr : BitVec 2} (sk : Bool) {s : State} {own i : Nat} {e : W64}
  (hl : s.live = true) (hr : s.camRx q.val = true) (ho : s.camOwner q.val = some own) (hi : i < 16)
  (h : Claims.loneEntry s q.val i vc.toNat e) (hf : s.cam.frames = [])
include hl hr ho hi h hf

theorem frameStart_bypass (hh : hdr.toNat ≤ 1) (hb : entByp e = true) (hfab : (s.bypassRing (entTgt e)).fabric = false)
    (hm : s.mvPart own (s.bypassRing (entTgt e)).base.toNat 8 = false) {l : List Byte}
    (ht : s.hostRead own (s.bypassRing (entTgt e)).base.toNat 8 = .inl l) :
    let head := s.cam.heads.get 0#64 (entRing e)
    let room : Bool := decide ((head - BitVec.ofNat 64 (leVal l)).toNat < (s.bypassRing (entTgt e)).n)
    ∃ t f, exec (.csiFrameStart q vc fnum hdr sk) s = .next t ∧ t = { s with cam := t.cam } ∧ t.cam.frames = [f] ∧
      Claims.opened s q.val i e fnum f ∧ f.bufIdx = (if room then some head else none) ∧
      (t.camPort q.val).eff.get 0#64 i = e ∧ (t.camPort q.val).skewOk = sk ∧ (room = true → t.cam.dropped = s.cam.dropped) ∧
      (hdr = 1#2 → (t.camPort q.val).cnt.get 0#32 0x10 = satInc ((s.camPort q.val).cnt.get 0#32 0x10)) := by
  intro head room
  have hread := s.heardStart_read q.val i e sk hh
  have hopen := ((s.portHeard q.val hdr sk).withEff q.val i e).openStream_bypass q.val i own fnum hb
  change _ = (s.heardStart q.val i e hdr sk).openFrame q.val i e fnum own at hopen
  have hexec {t : State} := frameStart_opens q vc fnum sk (t := t) hl hr ho hi h hf hh
  obtain ⟨hu, heff, hskew, hcnt⟩ := hread
  generalize s.heardStart q.val i e hdr sk = u at hu heff hskew hcnt hopen hexec
  have hfu : u.cam.frames = [] := by rw [hu]; exact hf
  have hring : (if entByp e then u.bypassRing (entTgt e) else ctxRing (u.ctx (entTgt e)).active) = s.bypassRing (entTgt e) := by
    rw [hb, if_pos rfl]
    exact State.bypassRing_congr (by rw [hu]) _
  have hmu : u.mvPart own (s.bypassRing (entTgt e)).base.toNat 8 = false := by rw [hu, State.withCam_mvPart, hm]
  have htu : u.hostRead own (s.bypassRing (entTgt e)).base.toNat 8 = .inl l := by rw [hu, State.withCam_hostRead, ht]
  rw [u.openFrame_opens q.val i e fnum own (by rw [hb]; rfl) hring (State.tailWaits_still hmu), hb, if_pos rfl, if_pos rfl] at hopen
  obtain ⟨-, hports, -⟩ := State.opens_cam hfu q.val i own e fnum (s.bypassRing (entTgt e)) [] 0#16
  obtain ⟨hst, hfr, hdrop⟩ := State.opens_read hfu hfab htu q.val i e fnum [] 0#16
  have hheads : u.cam.heads.get 0#64 (entRing e) = head := by rw [hu]
  have hdropped : u.cam.dropped = s.cam.dropped := by rw [hu]
  rw [hheads] at hfr hdrop
  refine ⟨_, _, hexec hopen hports, hst.trans (State.withCam_eq hu _), hfr, State.newFrame_read (by rw [hu]) _ _ _ _ _ _ _ _, rfl, ?_, ?_,
    fun hroom => (hdrop hroom).trans hdropped, fun h1 => ?_⟩
  · rw [State.camPort, hports]
    exact heff
  · rw [State.camPort, hports]
    exact hskew
  · rw [State.camPort, hports]
    exact hcnt h1

theorem frameStart_pipeline (hb : entByp e = false) (hx : entExp e = 0) (hd : entDt e ≠ 0x12) (hd' : entDt e ≠ 0x1E)
    (hw : entW e ≤ 8192) (hen : (s.ctx (entTgt e)).en = true)
    (hm : s.mvPart own (ctxRing (s.ctx (entTgt e)).active).base.toNat 8 = false)
    (hm' : s.mvPart own (ctxRing (s.ctx (entTgt e)).shadow).base.toNat 8 = false) :
    ∃ t f, exec (.csiFrameStart q vc fnum 0#2 sk) s = .next t ∧ t.cam.frames = [f] ∧ Claims.opened s q.val i e fnum f ∧
      f.gen = (t.ctx (entTgt e)).gen ∧ f.par = (t.ctx (entTgt e)).active ∧
      ((s.ctx (entTgt e)).pend = false → (t.ctx (entTgt e)).gen = (s.ctx (entTgt e)).gen) ∧
      ((s.ctx (entTgt e)).pend = true → (t.ctx (entTgt e)).pend = false ∧
        ((t.ctx (entTgt e)).cerr = false → (t.ctx (entTgt e)).active = (s.ctx (entTgt e)).shadow ∧
          (t.ctx (entTgt e)).gen = (s.ctx (entTgt e)).gen + 1#16)) := by
  have hread := s.heardStart_read q.val i e sk (hdr := 0#2) (by decide)
  have hexec {t : State} := frameStart_opens q vc fnum sk (hdr := 0#2) (t := t) hl hr ho hi h hf (by decide)
  have hwctx : ((s.portHeard q.val 0#2 sk).withEff q.val i e).ctx (entTgt e) = s.ctx (entTgt e) := rfl
  have hopen := ((s.portHeard q.val 0#2 sk).withEff q.val i e).openStream_pipeline q.val i own fnum hb hx hd hd' hw (by rw [hwctx, hen])
  change _ = ((s.heardStart q.val i e 0#2 sk).commitCtx (entTgt e)).openFrame q.val i e fnum own at hopen
  obtain ⟨hu, heff, hskew, hcnt⟩ := hread
  generalize s.heardStart q.val i e 0#2 sk = u at hu heff hskew hcnt hopen hexec
  have huctx : u.ctx (entTgt e) = s.ctx (entTgt e) := by rw [State.ctx, hu]; rfl
  obtain ⟨hact, hgen, hpend⟩ := u.commitCtx_ctx (entTgt e)
  have hc := u.commitCtx_frame (entTgt e)
  rw [huctx] at hact hgen hpend
  generalize u.commitCtx (entTgt e) = c at hact hgen hpend hc hopen
  have hfc : c.cam.frames = [] := by rw [hc, hu]; exact hf
  have hmc : c.mvPart own (ctxRing (c.ctx (entTgt e)).active).base.toNat 8 = false := by
    rw [hc, State.withCam_mvPart, hu, State.withCam_mvPart, ← hu, ← hc]
    rcases hact with h | h
    · rw [h, hm]
    · rw [h, hm']
  rw [c.openFrame_opens q.val i e fnum own (by rw [hx]; simp) (by rw [hb]; rfl) (State.tailWaits_still hmc), hb,
    if_neg Bool.false_ne_true, if_neg Bool.false_ne_true] at hopen
  obtain ⟨hfr, hports, hctx⟩ := State.opens_cam hfc q.val i own e fnum (ctxRing (c.ctx (entTgt e)).active) (c.ctx (entTgt e)).active
    (c.ctx (entTgt e)).gen
  have hsame {t : State} (ht : t.cam.ctx = c.cam.ctx) : t.ctx (entTgt e) = c.ctx (entTgt e) := by rw [State.ctx, ht]; rfl
  refine ⟨_, _, hexec hopen (hports.trans (by rw [hc])), hfr, State.newFrame_read (by rw [hc, hu]) _ _ _ _ _ _ _ _, ?_, ?_, ?_, ?_⟩
  · rw [hsame hctx]
    rfl
  · rw [hsame hctx]
    rfl
  · rw [hsame hctx]
    exact hgen
  · rw [hsame hctx]
    exact hpend

end

end Sys2Proof.Machine
end

section
/-! The statements on camera packets, and the pipeline of the cameras (R669, R675, R676, R681, R683, R686). -/
namespace Sys2Proof.Machine

theorem frameStart_dropped (q : Fin 4) (vc : BitVec 4) (fnum : BitVec 16) {hdr : BitVec 2} (sk : Bool) {s : State} {own : Nat}
    (hl : s.live = true) (hr : s.camRx q.val = true) (ho : s.camOwner q.val = some own) (hh : 2 ≤ hdr.toNat) :
    exec (.csiFrameStart q vc fnum hdr sk) s =
      .next ((s.updCamPort q.val (fun x => { x with skewOk := sk })).camCnt q.val 0x14) := by
  refine (whenLive_live _ _ hl).trans (congrArg _ ?_)
  rw [ho]
  dsimp only
  rw [hr]
  exact (if_neg (by decide)).trans ((if_pos hh).trans (State.camHeader_bad _ _ hh))

/-- The frame of a stop is closed with a further flag. -/
theorem Frame.close_flag (f : Frame) (ns : W64) (i : Nat) : Claims.closedAs f ((f.close ns).flag i) ns (1#16 <<< i) := by
  obtain ⟨h1, h2, h3, h4, h5, h6, h7⟩ := f.close_as ns
  refine ⟨h1, h2, h3, h4, ?_, h6, h7⟩
  show (f.close ns).flags ||| (1#16 <<< i) = _
  rw [h5, BitVec.or_zero]

theorem cameraPackets : Claims.CameraPackets := by
  refine ⟨?starts, fun q vc fnum s f hl hr hf hb hc ht hp hv hx => ?_, fun q i s f hl hf ho hb ht hx hlate => ?_,
    fun q vc b s => ?marker, ?long⟩
  case starts =>
    intro q vc fnum hdr sk s own i e p hl hr ho hi h hf
    refine ⟨fun hh => ?_, fun l hh hb hfab hm ht => ?_, fun hh hb hx hd hd' hw hen hm hm' => ?_⟩
    · refine ⟨_, frameStart_dropped q vc fnum sk hl hr ho hh, rfl, hf, ?_⟩
      rw [State.camPort_camCnt, SMap.get_upd_same]
      have hport : (s.updCamPort p (fun x => { x with skewOk := sk })).camPort p = { s.camPort p with skewOk := sk } :=
        (SMap.get_upd_same s.cam.ports CamPort.init p (fun x => { x with skewOk := sk }) :)
      rw [hport]
    · exact frameStart_bypass q vc fnum sk hl hr ho hi h hf hh hb hfab hm ht
    · subst hh
      exact frameStart_pipeline q vc fnum sk hl hr ho hi h hf hb hx hd hd' hw hen hm hm'
  · refine ⟨_, f.close s.nsW, frameEnd_closes q vc fnum s f hl hr hf hb hc ht hp hv hx, rfl, f.close_as s.nsW⟩
  · exact ⟨_, _, lineTimeout_closes q i s f hl hf ho hb ht hx hlate, rfl, f.close_flag s.nsW 4⟩
  case marker =>
    show whenLive s (if s.camRx q.val then s.camHeader q.val 0#2 else s) = .next s
    rw [State.camHeader_zero, ite_self]
    unfold whenLive
    exact ite_self _
  case long =>
    intro q vc dt ok data s p takes counts hl hr
    have hcounts {t : State} (h : s.portCounts t p) {off : Nat} (hc : (t.camPort p).cnt.get 0#32 off = (s.camPort p).cnt.get 0#32 off) :
        counts (t.camCnt p off) off := by
      obtain ⟨hs, -⟩ := State.camCnt_portCounts h off
      refine ⟨by rw [hs], by rw [hs], ?_, by rw [hs]⟩
      rw [State.camPort_camCnt, SMap.get_upd_same, hc]
    have hzero := s.packetCounted_portCounts p (hdr := 0#2) (by decide) ok
    obtain ⟨-, -, hsame⟩ := s.packetCounted_cnt p (hdr := 0#2) (by decide) ok
    refine ⟨fun hdr i f h1 hd hi ht hlt hig hf ho hb htd hn => ?line, fun hdr h2 => ?_, fun hd => ?_, fun hd hnone => ?_⟩
    case line =>
      have hcnt := s.packetCounted_cnt p h1 ok
      have hv := s.packetCounted_portCounts p h1 ok
      have hexec := longPacket_long hl hr vc dt ok data h1 hd
      change _ = Host.Outcome.next ((s.packetCounted p hdr ok).matchPacket p vc dt ok data) at hexec
      generalize s.packetCounted p hdr ok = v at hcnt hv hexec
      obtain ⟨hc10, hc18, -⟩ := hcnt
      have hvf : v.cam.frames = [f] := by rw [hv.frames, hf]
      have hvs : v = { s with cam := { s.cam with ports := v.cam.ports } } := hv.1
      have hmatch := State.matchPacket_line (s := v) (vc := vc) (dt := dt) ok data hi ((hv.takesPacket vc dt i).trans ht)
        (fun j hj => (hv.takesPacket vc dt j).trans (hlt j hj)) (by rw [hvs]; exact hig) hvf ho
      have hframe := State.takeLine_frame hvf ho hb htd ok (samplesOf dt.toNat data)
      have hheld : v.heldLines (entTgt f.entry / 8) = s.heldLines (entTgt f.entry / 8) := by
        rw [hvs]
        rfl
      have hns : v.nsW = s.nsW := by
        rw [hvs]
        rfl
      have hover : v.cam.overrun = s.cam.overrun := by rw [hvs]
      rw [hmatch] at hexec
      refine ⟨_, hexec, ?_, fun h => ?_, fun h => ?_, fun hroom hlen => ?_, fun hfull => ?_⟩
      · rw [hframe]
        exact State.withCam_eq hvs _
      · rw [State.camPort, hframe]
        exact hc10 h
      · rw [State.camPort, hframe]
        exact hc18 h
      · rw [State.takeLine_room hvf ho hb htd hn ok _ (by rw [hheld]; exact hroom) hlen, hns]
        exact ⟨hover, rfl⟩
      · rw [State.takeLine_full hvf ho hb htd hn ok _ (by rw [hheld]; exact hfull), hns]
        exact ⟨congrArg (fun m : SMap W32 => m.upd 0#32 (entTgt f.entry / 8) satInc) hover, rfl⟩
    · exact ⟨_, longPacket_bad hl hr vc dt ok data h2, hcounts ⟨rfl, rfl⟩ rfl⟩
    · exact ⟨_, longPacket_short hl hr vc dt ok data (by decide) hd, hcounts hzero (hsame 0x20 (by decide) (by decide))⟩
    · refine ⟨_, longPacket_long hl hr vc dt ok data (by decide) hd, ?_⟩
      rw [State.matchPacket_none ok data fun j hj => (hzero.takesPacket vc dt j).trans (hnone j hj)]
      exact hcounts hzero (hsame 0x1C (by decide) (by decide))

/-! ### The one frame of a context -/

/-- The frame of exposure 0 of a context that takes one exposure, in a list of its own. -/
structure State.loneFrame (s : State) (f : Frame) (x : Nat) : Prop where
  frames : s.cam.frames = [f]
  ring : entRing f.entry = x
  byp : entByp f.entry = false
  exp : entExp f.entry = 0
  expos : parNexp f.par = 1
  tail : f.tailDue = false

section
variable {s : State} {f : Frame} {x : Nat} (h : s.loneFrame f x)
include h

theorem State.loneFrame.flushAll : s.flushAll = s :=
  State.flushAll_settled (f := f) ⟨h.frames, h.byp, h.tail, fun _ => by rw [h.exp]; exact s.spareExpo_zero _⟩

theorem State.loneFrame.frameAt : s.frameAt 0 = f := by
  rw [State.frameAt, h.frames]
  rfl

theorem State.loneFrame.expoAt : s.expoAt x = some [0] := by
  have hz : (entRing f.entry == x && entExp f.entry == 0) = true := by rw [h.ring, h.exp]; simp
  have hidx : s.cam.frames.findIdx? (fun f => entRing f.entry == x && entExp f.entry == 0) = some 0 := by
    rw [h.frames, List.findIdx?_cons, if_pos hz]
  have hpar : parNexp (s.cam.frames.getD 0 Frame.init).par = 1 := by
    rw [h.frames]
    exact h.expos
  have hup : upTo 1 = [0] := rfl
  unfold State.expoAt
  dsimp only
  rw [hidx]
  dsimp only
  rw [hpar, hup]
  simp only [List.map_cons, List.map_nil, hidx]
  rfl

theorem State.loneFrame.expoAt_ne {y : Nat} (hy : y ≠ x) : s.expoAt y = none := by
  have hz : (entRing f.entry == y && entExp f.entry == 0) = false := by
    rw [h.ring]
    simp [Ne.symm hy]
  have hidx : s.cam.frames.findIdx? (fun f => entRing f.entry == y && entExp f.entry == 0) = none := by
    rw [h.frames, List.findIdx?_cons, hz]
    rfl
  unfold State.expoAt
  dsimp only
  rw [hidx]

/-- A context with a line to process, while no other has one. -/
theorem State.loneFrame.lineReady (hd : f.done < entH f.entry) (hn : f.done < f.lines.length) :
    ∃ n, s.lineReady x = some n := by
  have hat := h.frameAt
  refine ⟨[0].foldl (fun m n => max m ((s.frameAt n).stamps.getD (s.frameAt 0).done 0#64).toNat) 0, ?_⟩
  unfold State.lineReady
  rw [h.expoAt]
  refine (if_neg ?_)
  rintro (hge | hany)
  · rw [List.headD_cons, hat] at hge
    omega
  · simp only [List.any_cons, List.any_nil, Bool.or_false, decide_eq_true_eq, List.headD_cons, hat] at hany
    omega

theorem State.loneFrame.lineReady_ne {y : Nat} (hy : y ≠ x) : s.lineReady y = none := by
  unfold State.lineReady
  rw [h.expoAt_ne hy]

theorem State.loneFrame.step (g : Frame → Frame) : s.updFrameAt 0 g = { s with cam := { s.cam with frames := [g f] } } := by
  unfold State.updFrameAt
  rw [h.frames]
  rfl

end

/-- The pipeline takes the next line of the only context that has one. -/
theorem ispLine_steps (x : Fin 16) (e : MemErr) {s : State} {f : Frame} (h : s.loneFrame f x.val) (hl : s.live = true)
    (hp : s.camPowered = true) (hd : f.done < entH f.entry) (hn : f.done < f.lines.length) :
    exec (.ispLine x e) s = .next (s.ispStep x.val e) := by
  obtain ⟨n, hready⟩ := h.lineReady hd hn
  refine (whenLive_live _ _ hl).trans (congrArg _ ?_)
  rw [h.flushAll]
  dsimp only
  rw [hready]
  refine if_neg ?_
  have hfirst (first : Nat → Bool) (hf : ∀ y, first y = true) : ((!(upTo 16).all first) || !s.camPowered) = false := by
    rw [List.all_eq_true.mpr fun y _ => hf y, hp]
    rfl
  refine Bool.eq_false_iff.mp (hfirst _ fun y => ?_)
  by_cases hy : y = x.val
  · simp [hy]
  · rw [h.lineReady_ne hy]
    simp

/-- The picture of a frame alone. -/
def Frame.picture (f : Frame) : Picture :=
  { w := entW f.entry, h := entH f.entry, par := f.par, depth := [dtBits (entDt f.entry)], raw := [f.lines] }

theorem State.loneFrame.pictureOf {s : State} {f : Frame} {x : Nat} (h : s.loneFrame f x) : s.pictureOf [0] = f.picture := by
  unfold State.pictureOf
  simp only [List.headD_cons, List.map_cons, List.map_nil, h.frameAt]
  rfl

section
variable {s : State} {f : Frame} {x : Nat} (h : s.loneFrame f x)
include h

/-- A frame without a buffer goes through the pipeline unwritten. -/
theorem State.ispStep_unwritten (e : MemErr) (hb : f.bufIdx = none) :
    s.ispStep x e = { s with cam := { s.cam with frames := [{ f with done := f.done + 1 }] } } := by
  have hstep : _ = ({ s with cam := { s.cam with frames := [{ f with done := f.done + 1 }] } } : State) :=
    h.step (fun g => { g with done := g.done + 1 })
  rw [← hstep]
  unfold State.ispStep
  rw [h.expoAt]
  dsimp only [List.headD_cons]
  simp only [h.frameAt, h.tail, hb, Bool.false_eq_true, if_false]

/-- The output rows that a line completes are written where no page is in motion and no write faults. -/
theorem State.ispStep_writes {hd : W64} {p : Nat} {w : State} (hb : f.bufIdx = some hd) (hs : s.camServes f.port = some p)
    (h7 : bitAt f.flags.toNat 7 = false) (hfab : f.ring.fabric = false)
    (hmv : ∀ y ∈ ((upTo (outH f.par)).filter (fun y => f.picture.lastLine y == f.done)).flatMap f.picture.rowWrites,
      s.mvPart p (f.ring.buf hd.toNat + 64 + y.1) y.2.length = false)
    (hw : s.pixelWrites p f.ring (f.ring.buf hd.toNat + 64)
      (((upTo (outH f.par)).filter (fun y => f.picture.lastLine y == f.done)).flatMap f.picture.rowWrites) = (w, none))
    (hcam : w.cam = s.cam) :
    s.ispStep x .none = { w with cam := { s.cam with frames := [{ f with done := f.done + 1 }] } } := by
  have hany : (((upTo (outH f.par)).filter (fun y => f.picture.lastLine y == f.done)).flatMap f.picture.rowWrites).any
      (fun y => s.mvPart p (f.ring.buf hd.toNat + 64 + y.1) y.2.length) = false :=
    List.any_eq_false.mpr fun y hy => Bool.eq_false_iff.mp (hmv y hy)
  have hwf : w.loneFrame f x := ⟨by rw [hcam, h.frames], h.ring, h.byp, h.exp, h.expos, h.tail⟩
  have hstep : _ = ({ w with cam := { w.cam with frames := [{ f with done := f.done + 1 }] } } : State) :=
    hwf.step (fun g => { g with done := g.done + 1 })
  rw [← hcam, ← hstep]
  unfold State.ispStep
  rw [h.expoAt]
  dsimp only [List.headD_cons]
  simp only [h.frameAt, h.tail, hb, hs, h.pictureOf, h7, hfab, hany, Bool.false_eq_true, if_false, Bool.not_false, Bool.and_false,
    s.hostMeets_none, hw]

end

/-! ### Records -/

/-- A frame leaves its list, and its context ends where it waits for that. -/
theorem State.dropFrames_lone {s : State} {f : Frame} {x : Nat} (hf : s.cam.frames = [f]) (hx : x < 16) :
    let t := s.dropFrames x [0]
    let c := s.ctx x
    t = { s with cam := t.cam } ∧ t.cam.frames = [] ∧ t.cam.heads = s.cam.heads ∧ t.cam.dropped = s.cam.dropped ∧
      t.ctx x = if c.en && !c.enReq then { c with offIn := c.offIn - 1, en := decide (1 < c.offIn) } else c := by
  have hdrop : s.dropFrames x [0] = (s.setFrames []).updCtx x (fun c =>
      if c.en && !c.enReq then { c with offIn := c.offIn - 1, en := decide (1 < c.offIn) } else c) := by
    unfold State.dropFrames
    rw [hf]
    exact if_pos hx
  rw [hdrop]
  exact ⟨rfl, rfl, rfl, rfl, State.ctx_updCtx_same _ _ _⟩

theorem frameRecord_writes (x : Fin 32) (e : MemErr) {s : State} {f : Frame} (h : s.loneFrame f x.val) (hx : x.val < 16)
    (hl : s.live = true) (hp : s.camPowered = true) (hc : f.closed = true) (hd : entH f.entry ≤ f.done) :
    exec (.frameRecord x e) s = .next (s.writeRecord x.val [0] e) := by
  refine (whenLive_live _ _ hl).trans (congrArg _ ?_)
  rw [h.flushAll]
  dsimp only
  rw [if_pos hx, h.expoAt]
  refine if_neg ?_
  simp only [List.headD_cons, List.any_cons, List.any_nil, h.frameAt, hc, h.tail, hp]
  simp
  exact hd

theorem State.flicker_cam (s : State) (p : Nat) (f : Frame) (x : Nat) :
    (s.flicker p f x).2 = { s with parts := (s.flicker p f x).2.parts } := by
  unfold State.flicker
  extract_lets q b open3 m100 m120 thr
  split
  · rfl
  · split <;> rfl

theorem State.ringWrite_host (s : State) (p : Nat) {r : Ring} (h : r.fabric = false) (va : Nat) (l : List Byte) :
    s.ringWrite p r va l = s.hostWrite p va l := by
  rw [State.ringWrite, h]
  rfl

section
variable {s : State} {f : Frame} {x : Nat} (h : s.loneFrame f x) (hx : x < 16)
include h hx

omit hx in
theorem State.writeRecord_none (e : MemErr) (hb : f.bufIdx = none) : s.writeRecord x [0] e = s.dropFrames x [0] := by
  unfold State.writeRecord
  simp only [List.headD_cons, h.frameAt, hb]

omit hx in
theorem State.writeRecord_writes {hd : W64} {p : Nat} {w v : State} (hb : f.bufIdx = some hd) (hs : s.camServes f.port = some p)
    (hfab : f.ring.fabric = false) (hm : s.mvPart p (f.ring.buf hd.toNat) 64 = false)
    (hm' : s.mvPart p f.ring.base.toNat 16 = false)
    (hw : (s.flicker p f x).2.hostWrite p (f.ring.buf hd.toNat)
      (frameRecordBytes [f] (s.cam.dropped.get 0#16 x) (s.flicker p f x).1) = (w, none))
    (hv : w.hostWrite p (f.ring.base.toNat + 8) (leBytes 8 (s.cam.heads.get 0#64 x + 1#64).toNat) = (v, none)) :
    s.writeRecord x [0] .none = State.dropFrames { v with cam := { v.cam with
      heads := v.cam.heads.put x (s.cam.heads.get 0#64 x + 1#64), dropped := v.cam.dropped.put x 0#16 } } x [0] := by
  have hfl : (s.flicker p f x).2.cam = s.cam := by rw [s.flicker_cam p f x]
  have hat : (s.flicker p f x).2.frameAt 0 = f := by
    rw [State.frameAt, hfl]
    exact h.frameAt
  unfold State.writeRecord
  simp only [List.headD_cons, List.map_cons, List.map_nil, h.frameAt, hb, hs, hfab, hm, hm', Bool.not_false, Bool.or_self,
    Bool.and_false, Bool.false_eq_true, if_false, State.hostMeets_none, State.ringWrite_host _ p hfab, hfl, hat, hw, hv]

end

/-- What a context does when its frame leaves. -/
def Ctx.leaves (c : Ctx) : Ctx := if c.en && !c.enReq then { c with offIn := c.offIn - 1, en := decide (1 < c.offIn) } else c

theorem records (x : Fin 32) (s : State) (f : Frame) (hl : s.live = true) (hp : s.camPowered = true) (h : s.loneFrame f x.val)
    (hc : f.closed = true) (hd : entH f.entry ≤ f.done) :
    (∀ e, f.bufIdx = none →
      ∃ t, exec (.frameRecord x e) s = .next t ∧ t = { s with cam := t.cam } ∧ t.cam.frames = [] ∧
        t.ctx x.val = Ctx.leaves (s.ctx x.val)) ∧
    (∀ hd p w v, f.bufIdx = some hd → s.camServes f.port = some p → f.ring.fabric = false →
      s.mvPart p (f.ring.buf hd.toNat) 64 = false → s.mvPart p f.ring.base.toNat 16 = false →
      (s.flicker p f x.val).2.hostWrite p (f.ring.buf hd.toNat)
        (frameRecordBytes [f] (s.cam.dropped.get 0#16 x.val) (s.flicker p f x.val).1) = (w, none) →
      w.hostWrite p (f.ring.base.toNat + 8) (leBytes 8 (s.cam.heads.get 0#64 x.val + 1#64).toNat) = (v, none) → v.cam = s.cam →
      ∃ t, exec (.frameRecord x .none) s = .next t ∧ t = { v with cam := t.cam } ∧ t.cam.frames = [] ∧
        t.cam.heads.get 0#64 x.val = s.cam.heads.get 0#64 x.val + 1#64 ∧ t.cam.dropped.get 0#16 x.val = 0#16 ∧
        t.ctx x.val = Ctx.leaves (s.ctx x.val)) := by
  have hx : x.val < 16 := by
    have h1 : entTgt f.entry + 16 * b2n (entByp f.entry) = x.val := h.ring
    have h2 : entTgt f.entry < 16 := Nat.mod_lt _ (by decide)
    rw [h.byp] at h1
    exact lt_of_eq_of_lt h1.symm h2
  refine ⟨fun e hb => ?_, fun hd' p w v hb hs hfab hm hm' hw hv hcam => ?_⟩
  · obtain ⟨hst, hfr, -, -, hctx⟩ := State.dropFrames_lone h.frames hx
    exact ⟨_, (frameRecord_writes x e h hx hl hp hc hd).trans (congrArg _ (State.writeRecord_none h e hb)), hst, hfr, hctx⟩
  · let u : State := { v with cam := { v.cam with
      heads := v.cam.heads.put x (s.cam.heads.get 0#64 x + 1#64), dropped := v.cam.dropped.put x 0#16 } }
    have hfu : u.cam.frames = [f] := by
      show v.cam.frames = [f]
      rw [hcam, h.frames]
    have hcu : u.ctx x.val = s.ctx x.val := by
      show v.cam.ctx.get Ctx.init x.val = _
      rw [hcam]
      rfl
    obtain ⟨hst, hfr, hheads, hdrop, hctx⟩ := State.dropFrames_lone (s := u) hfu hx
    refine ⟨_, (frameRecord_writes x .none h hx hl hp hc hd).trans (congrArg _
      (State.writeRecord_writes h hb hs hfab hm hm' hw hv)), hst, hfr, ?_, ?_, hctx.trans (by rw [hcu]; rfl)⟩
    · exact (congrArg (fun m : SMap W64 => m.get 0#64 x.val) hheads).trans (SMap.get_put_same _ _ _ _)
    · exact (congrArg (fun m : SMap (BitVec 16) => m.get 0#16 x.val) hdrop).trans (SMap.get_put_same _ _ _ _)

/-! ### Contexts -/

theorem State.ctx_updCtx_ne (s : State) {x y : Nat} (f : Ctx → Ctx) (h : y ≠ x) : (s.updCtx x f).ctx y = s.ctx y :=
  SMap.get_upd_ne _ _ _ _ _ h

/-- Settles the clauses of lines, records, COMMIT and CTL.EN. -/
theorem cameraPipeline : Claims.CameraPipeline := by
  refine ⟨fun x s f hl hp hf hb ht hx hn htail hd hlen => ?_, fun x s f hl hp hf hb hr hx hn hc htail hd => ?_,
    fun x s hl hp => ⟨?commit, fun en => ?enable⟩⟩
  · have h : s.loneFrame f x.val := ⟨hf, by rw [entRing, hb, ht]; rfl, hb, hx, hn, htail⟩
    refine ⟨fun e hbuf => ?_, ?_⟩
    · exact (ispLine_steps x e h hl hp hd hlen).trans (congrArg _ (State.ispStep_unwritten h e hbuf))
    · intro hd' p w hbuf hs h7 hfab pic ws img hmv hw hcam
      exact (ispLine_steps x .none h hl hp hd hlen).trans (congrArg _ (State.ispStep_writes h hbuf hs h7 hfab hmv hw hcam))
  · exact records x s f hl hp ⟨hf, hr, hb, hx, hn, htail⟩ hc hd
  case commit =>
    refine ⟨_, (whenLive_live _ _ hl).trans (congrArg _ (if_pos hp)), rfl, State.ctx_updCtx_same _ _ _,
      fun y hy => State.ctx_updCtx_ne _ _ hy⟩
  case enable =>
    refine ⟨_, (whenLive_live _ _ hl).trans (congrArg _ (if_pos hp)), rfl, fun y hy => State.ctx_updCtx_ne _ _ hy, ?_⟩
    intro c n
    rw [State.setCtxEn, State.ctx_updCtx_same]
    rcases en with _ | _
    · rcases hq : c.enReq with _ | _
      · simp [c]
      · simp [n, c]
    · simp [c]

/-- Settles O57, over a list of one frame. -/
theorem cameras : Obligations.Cameras := ⟨cameraPackets, cameraPipeline⟩

end Sys2Proof.Machine
end

section
/-! How an entry of the array queue begins, is discarded, and completes (R140, R238, R243 to R245, R249, R279, R280, R303, R306, R919). -/
namespace Sys2Proof.Machine

/-! ### A core and its books -/

/-- Nothing but the books of a core differ: its counters, the cycles that it owes, its queue's stall, and its engine's operations. -/
def State.booked (s t : State) (k : Nat) : Prop :=
  s.onlyCore t k ∧ t.core k = { s.core k with
    dmaq := (t.core k).dmaq, owed := (t.core k).owed, cnt := (t.core k).cnt, winE := (t.core k).winE,
    qStall := (t.core k).qStall, qStallEnd := (t.core k).qStallEnd }

theorem State.onlyCore_refl (s : State) (k : Nat) : s.onlyCore s k := ⟨rfl, fun _ _ => rfl⟩

theorem State.booked_refl (s : State) (k : Nat) : s.booked s k := ⟨s.onlyCore_refl k, rfl⟩

theorem State.booked.trans {s t u : State} {k : Nat} (a : s.booked t k) (b : t.booked u k) : s.booked u k := by
  obtain ⟨a1, a2⟩ := a
  obtain ⟨b1, b2⟩ := b
  exact ⟨a1.trans b1, by rw [b2, a2]⟩

theorem State.updCore_booked (s : State) (k : Nat) {f : Core → Core}
    (h : ∀ c, f c = { c with
      dmaq := (f c).dmaq, owed := (f c).owed, cnt := (f c).cnt, winE := (f c).winE, qStall := (f c).qStall,
      qStallEnd := (f c).qStallEnd }) : s.booked (s.updCore k f) k := by
  refine ⟨s.onlyCore_updCore k f, ?_⟩
  rw [State.core_updCore_same]
  exact h _

theorem State.count_booked (s : State) (k n v : Nat) : s.booked (s.count k n v) k :=
  s.updCore_booked k fun c => by unfold Core.count; dsimp only; split <;> rfl

theorem State.owe_booked (s : State) (k cause n : Nat) : s.booked (s.owe k cause n) k := by
  unfold State.owe
  split
  · exact s.booked_refl k
  · exact s.updCore_booked k fun _ => rfl

theorem State.takeExpander_booked (s : State) (k : Nat) : s.booked (s.takeExpander k) k := s.updCore_booked k fun _ => rfl

/-- Entries dropped leave the others; what the engine's operations hold of the expander is a book. -/
theorem State.keepEntries_booked (s : State) (k : Nat) (f : QEntry → Bool) :
    (s.updCore k (fun c => { c with queue := c.queue.filter f })).booked (s.keepEntries k f) k := by
  unfold State.keepEntries
  dsimp only
  split
  · exact State.updCore_booked _ k fun _ => rfl
  · exact State.booked_refl _ k

theorem State.onlyDailies.core {s t : State} (h : s.onlyDailies t) (k : Nat) : t.core k = s.core k := by
  rw [h]
  rfl

/-! ### Begin -/

/-- The entry as it has begun. -/
def QEntry.begins (e : QEntry) (keep : List Byte) (tile : SMap (List Byte)) (cyc : Nat) (sizes : List Nat) (due : Nat) : QEntry :=
  { e with begun := true, opnd := keep, tile := tile, tainted := false, cycles := cyc, sizes := sizes, due := due }

/-- The operands that an entry keeps as it begins, where none is open. -/
def State.keptBy (s : State) (k : Nat) (e : QEntry) (l : List Byte) : List Byte :=
  if opcOf e.w = 0xB0 ∨ opcOf e.w = 0xB2 then [] else if opcOf e.w = 0x90 ∧ qE e.w then s.codedTile k e.va.toNat else l

/-- The coded blocks of an MLOADW. -/
def State.sizesOf (s : State) (k : Nat) (e : QEntry) : List Nat :=
  if opcOf e.w = 0x90 ∧ qE e.w then s.codedSizes k e.va.toNat else []

/-- A core in whose queue an entry begins. -/
def Core.beginning (e : QEntry) (keep : List Byte) (cyc : Nat) (sizes : List Nat) (due : Nat) (c : Core) : Core :=
  { c with
    qStall := [], qStallEnd := 0
    queue := c.queue.map (fun x =>
      if x.serial = e.serial then
        e.begins keep (if opcOf e.w = 0x91 then (c.sbuf.get StatBuf.init (qBuf e.w)).rows else []) cyc sizes due
      else x) }

/-- The state in which the expander is taken by an MLOADW that reads a coded tile. -/
def State.expanderFor (s : State) (k : Nat) (e : QEntry) : State :=
  if opcOf e.w = 0x90 ∧ qE e.w then s.takeExpander k else s

theorem State.beginEntry_eq (s : State) (k : Nat) (e : QEntry) (l : List Byte) (ht : e.tainted = false)
    (ho : ∀ r ∈ s.readRanges k e, s.openRead k e.thr r.1 r.2 = false) :
    s.beginEntry k e l =
      (((s.expanderFor k e).updCore k (Core.beginning e (s.keptBy k e l) (s.entryCycles k e l) (s.sizesOf k e)
        (s.clCycle (keyCl k) + s.entryCycles k e l))).owe k 0x24
          ((s.sizesOf k e).foldl (fun a n => a + (ceilDiv n 128 - 32)) 0)).traceRec k 4 e.thr e.pc.toNat (s.qData k e) := by
  have hany : (s.readRanges k e).any (fun r => s.openRead k e.thr r.1 r.2) = false := by
    rw [List.any_eq_false]
    intro r hr
    simp [ho r hr]
  unfold State.beginEntry
  dsimp only
  rw [hany, ht]
  simp only [Bool.or_false, Bool.false_eq_true, false_and, if_false]
  rfl

theorem State.expanderFor_booked (s : State) (k : Nat) (e : QEntry) : s.booked (s.expanderFor k e) k := by
  unfold State.expanderFor
  split
  · exact s.takeExpander_booked k
  · exact s.booked_refl k

/-- What a core is when an entry of it has begun. -/
theorem State.beginEntry_core (s : State) (k : Nat) (e : QEntry) (l : List Byte) (ht : e.tainted = false)
    (ho : ∀ r ∈ s.readRanges k e, s.openRead k e.thr r.1 r.2 = false) :
    ∃ cyc sizes due, ((s.beginEntry k e l).core k).queue =
        ((s.core k).beginning e (s.keptBy k e l) cyc sizes due).queue ∧
      ((s.beginEntry k e l).core k).slots = (s.core k).slots ∧ ((s.beginEntry k e l).core k).threads = (s.core k).threads := by
  refine ⟨s.entryCycles k e l, s.sizesOf k e, s.clCycle (keyCl k) + s.entryCycles k e l, ?_⟩
  rw [s.beginEntry_eq k e l ht ho, (State.traceRec_onlyDailies _ k 4 _ _ _).core k, (State.owe_booked _ k _ _).2,
    State.core_updCore_same, (s.expanderFor_booked k e).2]
  exact ⟨rfl, rfl, rfl⟩

theorem State.beginEntry_noTrace (s : State) (k : Nat) (e : QEntry) (l : List Byte) (ht : e.tainted = false)
    (ho : ∀ r ∈ s.readRanges k e, s.openRead k e.thr r.1 r.2 = false) (hq : s.noTrace k) :
    s.beginEntry k e l = { s with cores := (s.beginEntry k e l).cores } := by
  rw [s.beginEntry_eq k e l ht ho]
  generalize hu : ((s.expanderFor k e).updCore k _).owe k 0x24 _ = u
  have hus : s.onlyCore u k := by
    rw [← hu]
    exact ((s.expanderFor_booked k e).1.trans (State.onlyCore_updCore _ k _)).trans (State.owe_booked _ k _ _).1
  have hn : u.noTrace k := by
    unfold State.noTrace State.trace
    rw [hus.1]
    exact hq
  rw [State.traceRec_noTrace hn]
  exact hus.1

/-! ### The checks of an entry -/

theorem State.meetV_none (s : State) (k : Nat) (l : List (Nat × Nat)) : s.meetV k l .none = s := by
  unfold State.meetV
  split
  · exact State.meet_none _ _ _
  · rfl

theorem State.owe_zero (s : State) (k cause : Nat) : s.owe k cause 0 = s := if_pos rfl

/-- The fault codes of the checks before the operands are read. -/
theorem mergeSlots_code {s l r : Slot} {c : Nat} (h : mergeSlots s l r = .inr c) : c ≠ fcTier ∧ c ≠ fcPage := by
  unfold mergeSlots at h
  dsimp only at h
  split at h
  · cases h; decide
  split at h
  · cases h; decide
  split at h
  · cases h; decide
  split at h
  · cases h; decide
  split at h
  · cases h
  split at h
  · cases h
  split at h
  · cases h; decide
  · cases h

theorem loadFault_code {l : List Byte} {c : Nat} (h : loadFault l = some c) : c ≠ fcTier ∧ c ≠ fcPage := by
  unfold loadFault at h
  split at h
  · cases h; decide
  split at h
  · cases h; decide
  · cases h

/-- Of two checks in their order, each with its code. -/
theorem check_code {p : Prop} [Decidable p] {a c : Nat} {f : Option Nat} (ha : a ≠ fcTier ∧ a ≠ fcPage)
    (hf : f = some c → c ≠ fcTier ∧ c ≠ fcPage) (h : (if p then some a else f) = some c) : c ≠ fcTier ∧ c ≠ fcPage := by
  split at h
  · cases h; exact ha
  · exact hf h

theorem none_code {c : Nat} (h : (none : Option Nat) = some c) : c ≠ fcTier ∧ c ≠ fcPage := nomatch h

theorem State.entryFault_code {s : State} {k : Nat} {e : QEntry} {l : List Byte} {c : Nat} (h : s.entryFault k e l = some c) :
    c ≠ fcTier ∧ c ≠ fcPage := by
  have hk : fcKind ≠ fcTier ∧ fcKind ≠ fcPage := by decide
  have hu : fcFuse ≠ fcTier ∧ fcFuse ≠ fcPage := by decide
  unfold State.entryFault at h
  dsimp only at h
  split at h
  · exact check_code hk (check_code hk (check_code (by decide) none_code)) h
  · split at h
    · cases h
    next hm =>
      cases h
      split at hm
      · exact mergeSlots_code hm
      · exact mergeSlots_code hm
  · exact loadFault_code h
  · exact check_code hk (check_code hu none_code) h
  · exact check_code (by decide) (check_code hu none_code) h
  · exact check_code hu none_code h
  · split at h
    · cases h
    · exact check_code (by decide) (check_code (by decide) none_code) h
  · cases h

/-! ### An entry that finds a fault -/

theorem State.wakeQueue_onlyCore (s : State) (k : Nat) : s.onlyCore (s.wakeQueue k) k := s.onlyCore_updCore k _

/-- The queue, the slots, the buffers and the fusion table of a core are as they were. -/
def State.sameArray (s t : State) (k : Nat) : Prop :=
  (t.core k).queue = (s.core k).queue ∧ (t.core k).slots = (s.core k).slots ∧ (t.core k).sbuf = (s.core k).sbuf ∧
  (t.core k).gate = (s.core k).gate ∧ (t.core k).fus = (s.core k).fus ∧ (t.core k).fusLoaded = (s.core k).fusLoaded

theorem State.sameArray.trans {s t u : State} {k : Nat} (a : s.sameArray t k) (b : t.sameArray u k) : s.sameArray u k := by
  obtain ⟨a1, a2, a3, a4, a5, a6⟩ := a
  obtain ⟨b1, b2, b3, b4, b5, b6⟩ := b
  exact ⟨b1.trans a1, b2.trans a2, b3.trans a3, b4.trans a4, b5.trans a5, b6.trans a6⟩

theorem State.sameArray_refl (s : State) (k : Nat) : s.sameArray s k := ⟨rfl, rfl, rfl, rfl, rfl, rfl⟩

theorem State.booked.array {s t : State} {k : Nat} (h : s.booked t k) : s.sameArray t k := by
  obtain ⟨-, h⟩ := h
  unfold State.sameArray
  rw [h]
  exact ⟨rfl, rfl, rfl, rfl, rfl, rfl⟩

theorem State.onlyDailies.array {s t : State} (h : s.onlyDailies t) (k : Nat) : s.sameArray t k := by
  unfold State.sameArray
  rw [h.core k]
  exact ⟨rfl, rfl, rfl, rfl, rfl, rfl⟩

/-- An update of a core's threads. -/
theorem State.threads_array (s : State) (k : Nat) (f : Core → SMap Thread) :
    s.sameArray (s.updCore k (fun c => { c with threads := f c })) k := by
  unfold State.sameArray
  rw [State.core_updCore_same]
  exact ⟨rfl, rfl, rfl, rfl, rfl, rfl⟩

theorem State.wakeQueue_array (s : State) (k : Nat) : s.sameArray (s.wakeQueue k) k := s.threads_array k _

theorem State.updThr_array (s : State) (k t : Nat) (f : Thread → Thread) : s.sameArray (s.updThr k t f) k := s.threads_array k _

theorem State.keepEntries_onlyCore (s : State) (k : Nat) (f : QEntry → Bool) : s.onlyCore (s.keepEntries k f) k :=
  (s.onlyCore_updCore k _).trans (s.keepEntries_booked k f).1

theorem State.keepEntries_queue (s : State) (k : Nat) (f : QEntry → Bool) :
    ((s.keepEntries k f).core k).queue = (s.core k).queue.filter f := by
  rw [(s.keepEntries_booked k f).array.1, State.core_updCore_same]

theorem State.keepEntries_slots (s : State) (k : Nat) (f : QEntry → Bool) :
    ((s.keepEntries k f).core k).slots = (s.core k).slots := by
  rw [(s.keepEntries_booked k f).array.2.1, State.core_updCore_same]

theorem State.keepEntries_thr (s : State) (k : Nat) (f : QEntry → Bool) (t : Nat) : (s.keepEntries k f).thr k t = s.thr k t := by
  rw [State.thr, (s.keepEntries_booked k f).2, State.core_updCore_same]
  rfl

theorem Thread.wake_deferred (x : Thread) : x.wake.deferred = x.deferred := by
  unfold Thread.wake Thread.goOn
  dsimp only
  split
  · rfl
  split
  · rfl
  · split <;> rfl

/-- A thread that a core wakes keeps its deferred fault. -/
theorem State.wakeQueue_deferred (s : State) (k t : Nat) : ((s.wakeQueue k).thr k t).deferred = (s.thr k t).deferred := by
  unfold State.wakeQueue State.thr
  rw [State.core_updCore_same]
  dsimp only
  unfold SMap.get
  rw [SMap.find_mapV]
  cases (s.core k).threads.find t with
  | none => rfl
  | some x =>
    simp only [Option.map_some, Option.getD_some]
    split
    · exact x.wake_deferred
    split
    · exact x.wake_deferred
    · rfl

theorem State.deferFault_discards (s : State) (k : Nat) (e : QEntry) {code : Nat} (hc : code ≠ fcTier ∧ code ≠ fcPage) :
    s.onlyCore (s.deferFault k e code 0) k ∧
    ((s.deferFault k e code 0).core k).queue =
      (s.core k).queue.filter (fun x => x.thr != e.thr || decide (x.serial < e.serial)) ∧
    ((s.deferFault k e code 0).core k).slots = (s.core k).slots ∧
    ((s.thr k e.thr).deferred = none →
      ((s.deferFault k e code 0).thr k e.thr).deferred = some (BitVec.ofNat 8 code, e.pc, 0#48)) := by
  have hn : ¬ (code = fcTier ∨ code = fcPage) := fun h => h.elim hc.1 hc.2
  unfold State.deferFault
  rw [if_neg hn]
  extract_lets s' u v
  have hu : s.onlyCore u k := (s.keepEntries_onlyCore k _).trans ((s.keepEntries k _).onlyCore_updCore k _)
  have hua : (s.keepEntries k _).sameArray u k := (State.updCore_booked _ k fun _ => rfl).array
  have huv : u.sameArray v k := u.updThr_array k _ _
  have hvw := v.wakeQueue_array k
  refine ⟨(hu.trans (u.onlyCore_updCore k _)).trans (v.wakeQueue_onlyCore k), ?_, ?_, fun hd => ?_⟩
  · rw [((hua.trans huv).trans hvw).1, State.keepEntries_queue]
  · rw [((hua.trans huv).trans hvw).2.1, State.keepEntries_slots]
  · have hdu : (u.thr k e.thr).deferred = none := by
      have : u.thr k e.thr = s.thr k e.thr := by
        rw [State.thr, State.core_updCore_same]
        exact s'.keepEntries_thr k _ e.thr
      rw [this, hd]
    rw [State.wakeQueue_deferred, State.thr_updThr_same]
    simp [hdu]

/-! ### QUEUE_ENTRY_BEGIN -/

/-- The oldest entry, free to begin, is tried. -/
theorem execQueueEntryBegin_tries {c : CoreId} {s : State} {e : QEntry} (hl : s.live = true) (hq : s.queueUp c.key = true)
    (he : (s.core c.key).queue.find? (fun x => !x.begun) = some e) (hb : s.unarmed c.key)
    (hm : s.mayBegin c.key e = true) (hw : s.entryWait c.key e = none) :
    exec (.queueEntryBegin c .none) s = .next (s.tryEntry c.key e .none) := by
  refine (whenLive_live _ _ hl).trans (congrArg _ ?_)
  simp only [hq, he, hm, hw, Bool.not_true, Bool.false_eq_true, if_false, State.bpScan_unarmed s _ _ _ hb]

theorem State.tryEntry_fault {s : State} {k : Nat} {e : QEntry} {code : Nat}
    (hf : s.entryFault k e (s.gather k (s.readRanges k e)).1 = some code)
    (hl : opcNeed (opcOf e.w) ≤ (s.gather k (s.readRanges k e)).1.length) :
    s.tryEntry k e .none = s.deferFault k e code 0 := by
  unfold State.tryEntry
  dsimp only
  rw [if_pos hl, hf]

theorem State.tryEntry_begins {s : State} {k : Nat} {e : QEntry}
    (hf : s.entryFault k e (s.gather k (s.readRanges k e)).1 = none) (hg : (s.gather k (s.readRanges k e)).2 = none)
    (hw : ∀ r ∈ s.writeRanges k e, s.vbadPart (s.partOf k) r.1 r.2 = false) :
    s.tryEntry k e .none = s.beginEntry k e (s.gather k (s.readRanges k e)).1 := by
  have hfind : (s.writeRanges k e).find? (fun r => s.vbadPart (s.partOf k) r.1 r.2) = none := by
    rw [List.find?_eq_none]
    intro r hr
    simp [hw r hr]
  unfold State.tryEntry
  dsimp only
  rw [hf, ite_self]
  dsimp only
  rw [State.meetV_none, Nat.sub_self, State.owe_zero, ite_self, hg]
  dsimp only
  rw [hfind]

theorem State.slot_of_slots {s t : State} {k : Nat} (h : (t.core k).slots = (s.core k).slots) (n : Nat) :
    t.slot k n = s.slot k n := by
  rw [State.slot, h, State.slot]

theorem queueEntryBegins : Claims.QueueEntryBegins := by
  intro c s e k hl hq he hb hm hw g
  refine ⟨fun hf hg ht ho hwr => ?_, fun code hf hlen => ?_⟩
  · obtain ⟨cyc, sizes, due, hqu, hsl, hth⟩ := s.beginEntry_core k e g.1 ht ho
    have hmem : e ∈ (s.core k).queue := List.mem_of_find?_eq_some he
    have heq := (execQueueEntryBegin_tries hl hq he hb hm hw).trans (congrArg _ (State.tryEntry_begins hf hg hwr))
    refine ⟨_, heq, ?_, fun x hx hxe => ?_, ?_, State.slot_of_slots hsl, hth, s.beginEntry_noTrace k e g.1 ht ho⟩
    · rw [hqu]
      exact List.length_map _
    · rw [hqu]
      exact List.mem_map.mpr ⟨x, hx, if_neg hxe⟩
    · refine ⟨_, by rw [hqu]; exact List.mem_map.mpr ⟨e, hmem, rfl⟩, ?_⟩
      rw [if_pos rfl]
      refine ⟨rfl, rfl, rfl, rfl, fun h1 h2 h3 => ?_, fun h91 => ?_⟩
      · simp [QEntry.begins, State.keptBy, h1, h2, h3]
      · exact if_pos h91
  · obtain ⟨honly, hqu, hsl, hd⟩ := s.deferFault_discards k e (State.entryFault_code hf)
    have heq := (execQueueEntryBegin_tries hl hq he hb hm hw).trans (congrArg _ (State.tryEntry_fault hf hlen))
    refine ⟨_, heq, honly, fun x => ?_, hd, State.slot_of_slots hsl⟩
    rw [hqu, List.mem_filter]
    simp

/-! ### QUEUE_ENTRY_COMPLETE -/

/-- An entry that leaves, and the registers of its thread that are pending then. -/
def State.leaveQueue (s : State) (k : Nat) (e : QEntry) : State :=
  let s := s.keepEntries k (fun x => x.serial != e.serial)
  let s := s.updThr k e.thr (fun th => { th with
    pendV := ((s.core k).queue.filter (fun x => x.thr == e.thr)).flatMap QEntry.pend })
  let s := s.traceRec k 5 e.thr e.pc.toNat (s.qData k e)
  s.wakeQueue k

/-- Only the queue of the array changes as an entry leaves. -/
theorem State.leaveQueue_array (s : State) (k : Nat) (e : QEntry) :
    (s.updCore k (fun c => { c with queue := c.queue.filter (fun x => x.serial != e.serial) })).sameArray (s.leaveQueue k e) k := by
  unfold State.leaveQueue
  extract_lets u v w
  have hu := (s.keepEntries_booked k (fun x => x.serial != e.serial)).array
  have hv : u.sameArray v k := u.updThr_array k _ _
  have hw : v.sameArray w k := (v.traceRec_onlyDailies k 5 _ _ _).array k
  exact ((hu.trans hv).trans hw).trans (w.wakeQueue_array k)

theorem execQueueEntryComplete_leaves {c : CoreId} {n : Nat} {s : State} {e : QEntry} (hl : s.live = true)
    (hu : s.engineUp c.key = true) (hn : (s.core c.key).queue[n]? = some e) (hb : e.begun = true)
    (hs : s.slotBusy c.key e = false) :
    exec (.queueEntryComplete c n) s = .next ((s.entryEffect c.key e).leaveQueue c.key e) := by
  refine (whenLive_live _ _ hl).trans (congrArg _ ?_)
  simp only [hn, hb, hs, hu, Bool.not_true, Bool.or_false, Bool.false_eq_true, if_false]
  rfl

/-- The state with the cycles of the drain path counted. -/
def State.pathCounted (s : State) (k : Nat) (e : QEntry) : State :=
  if pathOpc (opcOf e.w) then s.count k 3 e.cycles else s

theorem State.pathCounted_array (s : State) (k : Nat) (e : QEntry) : s.sameArray (s.pathCounted k e) k := by
  unfold State.pathCounted
  split
  · exact (s.count_booked k 3 _).array
  · exact s.sameArray_refl k

theorem State.entryEffect_mloadw (s : State) (k : Nat) {e : QEntry} (h : opcOf e.w = 0x90) :
    s.entryEffect k e = (s.pathCounted k e).endMloadw k e := by
  unfold State.entryEffect
  simp only [h]
  unfold State.pathCounted
  rw [h]

theorem State.entryEffect_mmul (s : State) (k : Nat) {e : QEntry} (h : opcOf e.w = 0x91) :
    s.entryEffect k e = (s.pathCounted k e).endMmul k e := by
  unfold State.entryEffect
  simp only [h]
  unfold State.pathCounted
  rw [h]

theorem State.entryEffect_zero (s : State) (k : Nat) {e : QEntry} (h : opcOf e.w = 0xA2) :
    s.entryEffect k e = (s.pathCounted k e).updSlot k (qSlot e.w) e.onSlot := by
  unfold State.entryEffect
  simp only [h]
  unfold State.pathCounted
  rw [h]

theorem State.entryEffect_fuse (s : State) (k : Nat) {e : QEntry} (h : opcOf e.w = 0xB1) :
    s.entryEffect k e = (s.pathCounted k e).endFuse k e := by
  unfold State.entryEffect
  simp only [h]
  unfold State.pathCounted
  rw [h]

theorem State.entryEffect_gate (s : State) (k : Nat) {e : QEntry} (h : opcOf e.w = 0xB7) :
    s.entryEffect k e = (s.pathCounted k e).updCore k (fun c => { c with
      gate := gateRows c.gate (fImm e.w % 64 + 1) (fun i => BitVec.ofNat 32 (recN e.opnd (4 * i) 4)) }) := by
  unfold State.entryEffect
  simp only [h]
  unfold State.pathCounted
  rw [h]

/-- An entry that leaves with an effect which left the queue alone. -/
theorem State.leaveQueue_effect {s u : State} {k : Nat} {e : QEntry} (hq : (u.core k).queue = (s.core k).queue) :
    (∀ x, x ∈ ((u.leaveQueue k e).core k).queue ↔ x ∈ (s.core k).queue ∧ x.serial ≠ e.serial) ∧
      (∀ m, (u.leaveQueue k e).slot k m = u.slot k m) ∧ ((u.leaveQueue k e).core k).sbuf = (u.core k).sbuf ∧
      ((u.leaveQueue k e).core k).gate = (u.core k).gate ∧ ((u.leaveQueue k e).core k).fus = (u.core k).fus ∧
      ((u.leaveQueue k e).core k).fusLoaded = (u.core k).fusLoaded := by
  obtain ⟨h1, h2, h3, h4, h5, h6⟩ := u.leaveQueue_array k e
  rw [State.core_updCore_same] at h1 h2 h3 h4 h5 h6
  refine ⟨fun x => ?_, State.slot_of_slots h2, h3, h4, h5, h6⟩
  rw [h1, List.mem_filter, hq]
  simp

/-! ### Maps of tiles and rows -/

theorem SMap.find_append {α : Type} (a b : SMap α) (k : Nat) : SMap.find (a ++ b) k = (SMap.find a k).or (SMap.find b k) := by
  induction a with
  | nil => rfl
  | cons x t ih =>
    obtain ⟨j, x⟩ := x
    simp only [List.cons_append, SMap.find]
    split
    · rfl
    · exact ih

/-- A table of the first n numbers. -/
theorem SMap.find_filterMap_upTo {α : Type} (n : Nat) (f : Nat → Option α) (k : Nat) :
    SMap.find ((upTo n).filterMap (fun i => (f i).map (fun x => (i, x)))) k = if k < n then f k else none := by
  induction n with
  | zero => rfl
  | succ n ih =>
    have hn : upTo (n + 1) = upTo n ++ [n] := List.range_succ
    rw [hn, List.filterMap_append, SMap.find_append, ih]
    have hlast : SMap.find (List.filterMap (fun i => (f i).map (fun x => (i, x))) [n]) k = if n = k then f n else none := by
      cases hf : f n with
      | none => simp [hf, SMap.find]
      | some x => simp [hf, SMap.find]
    rw [hlast]
    by_cases h : k < n
    · rw [if_pos h, if_neg (by omega), if_pos (by omega), Option.or_none]
    · rw [if_neg h, Option.none_or]
      by_cases h' : n = k
      · subst h'
        rw [if_pos rfl, if_pos (by omega)]
      · rw [if_neg h', if_neg (by omega)]

theorem SMap.get_map_upTo {α : Type} (n : Nat) (f : Nat → α) (d : α) {k : Nat} (h : k < n) :
    SMap.get ((upTo n).map (fun i => (i, f i))) d k = f k := by
  have heq : (upTo n).map (fun i => (i, f i)) = (upTo n).filterMap (fun i => (some (f i)).map (fun x => (i, x))) := by
    simp
  rw [SMap.get, heq, SMap.find_filterMap_upTo n (fun i => some (f i)), if_pos h]
  rfl

theorem tileList_get (f : Nat → W32) {k : Nat} (h : k < 4096) : SMap.get (tileList 0 f) 0#32 k = f k := by
  have heq : tileList 0 f = (upTo 4096).filterMap (fun i => (if f i = 0#32 then none else some (f i)).map (fun x => (i, x))) := by
    unfold tileList
    refine List.filterMap_congr fun i _ => ?_
    dsimp only
    rw [Nat.zero_add]
    split <;> rfl
  rw [SMap.get, heq, SMap.find_filterMap_upTo 4096 (fun i => if f i = 0#32 then none else some (f i)), if_pos h]
  split
  next h0 => exact h0.symm
  · rfl

theorem gateRows_get (g : SMap W32) {m : Nat} (hm : m ≤ 64) (f : Nat → W32) (i : Nat) :
    (gateRows g m f).get 0#32 i = if i < 64 * m then f i else g.get 0#32 i := by
  unfold gateRows
  rw [SMap.get, SMap.find_append, SMap.find_filterKey _ (fun x => decide (x < 64 * m)),
    SMap.find_filterKey _ (fun x => decide (x ≥ 64 * m))]
  by_cases h : i < 64 * m
  · rw [if_pos (decide_eq_true h), if_neg (by simpa using h), if_pos h, Option.or_none]
    exact tileList_get f (by omega)
  · rw [if_neg (by simpa using h), if_pos (decide_eq_true (by omega)), if_neg h, Option.none_or]
    rfl

/-! ### The effects -/

/-- Counting leaves the array as it is. -/
theorem State.count_array (s : State) (k n v : Nat) : s.sameArray (s.count k n v) k := (s.count_booked k n v).array

/-- MMUL without row sums, on operands that nothing wrote meanwhile. -/
theorem State.endMmul_array (s : State) (k : Nat) {e : QEntry} (ht : e.tainted = false) (hr : qRs e.w = false) :
    (s.updSlot k (qSlot e.w) e.onSlot).sameArray (s.endMmul k e) k := by
  unfold State.endMmul
  simp only [ht, hr, Bool.false_eq_true, if_false]
  exact ((State.count_array _ k _ _).trans (State.count_array _ k _ _)).trans (State.count_array _ k _ _)

/-- The buffer that an MLOADW leaves. -/
def QEntry.buffer (e : QEntry) : StatBuf :=
  { fmt := some (BitVec.ofNat 4 (qFmt e.w))
    rows := (upTo 64).map (fun r => (r, sliceB e.opnd (r * rowBytes (qFmt e.w)) (rowBytes (qFmt e.w)))) }

theorem State.endMloadw_array (s : State) (k : Nat) (e : QEntry) :
    (s.updCore k (fun c => { c with sbuf := c.sbuf.put (qBuf e.w) e.buffer })).sameArray (s.endMloadw k e) k :=
  State.count_array _ k _ _

/-- An update of a slot leaves the rest of the array. -/
theorem State.updSlot_rest (s : State) (k n : Nat) (f : Slot → Slot) : ((s.updSlot k n f).core k).queue = (s.core k).queue := by
  rw [State.updSlot, State.core_updCore_same]

/-- An entry that acts on its slot alone. -/
theorem QEntry.onSlot_zero {e : QEntry} (h : opcOf e.w = 0xA2) (x : Slot) :
    e.onSlot x = x.zeroed (zKind e.w) (zMode e.w) (zF e.w) (zBase e.w) (e.va.toNat % 2 ^ 32) := by
  unfold QEntry.onSlot
  simp only [h]

theorem QEntry.onSlot_mmul {e : QEntry} (h : opcOf e.w = 0x91) (x : Slot) :
    e.onSlot x = ((if qOvw e.w then x.restarted else x).addBlock (qFmt e.w) e.sumF e.sumI).getD x := by
  unfold QEntry.onSlot
  simp only [h]

/-- What the array of a core is when an entry has made its effect. -/
structure EntryMade (s u : State) (k : Nat) (e : QEntry) : Prop where
  queue : (u.core k).queue = (s.core k).queue
  others : ∀ m, (opcOf e.w = 0xA2 ∨ opcOf e.w = 0x91 → m ≠ qSlot e.w) → u.slot k m = s.slot k m
  own : opcOf e.w = 0xA2 ∨ opcOf e.w = 0x91 → u.slot k (qSlot e.w) = e.onSlot (s.slot k (qSlot e.w))
  buf : opcOf e.w = 0x90 → (u.core k).sbuf = (s.core k).sbuf.put (qBuf e.w) e.buffer
  gate : opcOf e.w = 0xB7 → (u.core k).gate =
    gateRows (s.core k).gate (fImm e.w % 64 + 1) (fun i => BitVec.ofNat 32 (recN e.opnd (4 * i) 4))
  fus : opcOf e.w = 0xB1 → (u.core k).fus = ((s.endFuse k e).core k).fus ∧ (u.core k).fusLoaded = ((s.endFuse k e).core k).fusLoaded

/-- An effect on the own slot. -/
theorem State.sameArray.entryMade {s v u : State} {k : Nat} {e : QEntry} (hs : opcOf e.w = 0xA2 ∨ opcOf e.w = 0x91)
    (h : s.sameArray v k) (g : (v.updSlot k (qSlot e.w) e.onSlot).sameArray u k) : EntryMade s u k e where
  queue := by rw [g.1, State.updSlot_rest, h.1]
  others m hm := by rw [State.slot_of_slots g.2.1, State.slot_updSlot_ne v k _ (hm hs), State.slot_of_slots h.2.1]
  own _ := by rw [State.slot_of_slots g.2.1, State.slot_updSlot_same, State.slot_of_slots h.2.1]
  buf h0 := by omega
  gate h0 := by omega
  fus h0 := by omega

theorem State.entryEffect_made (s : State) (k : Nat) {e : QEntry} (ht : e.tainted = false)
    (hr : opcOf e.w = 0x91 → qRs e.w = false) (ho : opcOf e.w ∈ [0x90, 0x91, 0xA2, 0xB1, 0xB7]) :
    EntryMade s (s.entryEffect k e) k e := by
  have hp := s.pathCounted_array k e
  simp only [List.mem_cons, List.not_mem_nil, or_false] at ho
  rcases ho with ho | ho | ho | ho | ho
  · obtain ⟨gq, gs, gb, -⟩ := (s.pathCounted k e).endMloadw_array k e
    rw [State.core_updCore_same] at gq gs gb
    rw [s.entryEffect_mloadw k ho]
    exact ⟨gq.trans hp.1, fun m _ => State.slot_of_slots (gs.trans hp.2.1) m, fun h => by omega,
      fun _ => by rw [gb, hp.2.2.1], fun h => by omega, fun h => by omega⟩
  · rw [s.entryEffect_mmul k ho]
    exact hp.entryMade (.inr ho) ((s.pathCounted k e).endMmul_array k ht (hr ho))
  · rw [s.entryEffect_zero k ho]
    exact hp.entryMade (.inl ho) (State.sameArray_refl _ k)
  · rw [s.entryEffect_fuse k ho]
    obtain ⟨pq, ps, -, -, pf, pl⟩ := hp
    unfold State.endFuse
    dsimp only
    refine ⟨?_, fun m _ => State.slot_of_slots ?_ m, fun h => by omega, fun h => by omega, fun h => by omega, fun _ => ?_⟩
    · rw [State.core_updCore_same, pq]
    · rw [State.core_updCore_same, ps]
    · unfold State.endFuse
      simp only [State.core_updCore_same, pf, pl, and_self]
  · rw [s.entryEffect_gate k ho]
    obtain ⟨pq, ps, -, pg, -⟩ := hp
    refine ⟨?_, fun m _ => State.slot_of_slots ?_ m, fun h => by omega, fun h => by omega, fun _ => ?_, fun h => by omega⟩
    · rw [State.core_updCore_same, pq]
    · rw [State.core_updCore_same, ps]
    · rw [State.core_updCore_same, pg]

/-- A fusion entry loaded. -/
theorem State.endFuse_loaded (s : State) (k : Nat) (e : QEntry) :
    (fImm e.w % 16) ∈ ((s.endFuse k e).core k).fusLoaded ∧
      (((s.endFuse k e).core k).fus.get FusEntry.init (fImm e.w % 16)).act = recBits e.opnd 0 4 ∧
      (((s.endFuse k e).core k).fus.get FusEntry.init (fImm e.w % 16)).gate = recBits e.opnd 6 2 := by
  unfold State.endFuse
  dsimp only
  rw [State.core_updCore_same]
  dsimp only
  rw [SMap.get_put_same]
  refine ⟨?_, rfl, rfl⟩
  split
  next h => exact List.contains_iff_mem.mp h
  · exact List.mem_append_right _ (List.mem_singleton.mpr rfl)

theorem queueEntryCompletes : Claims.QueueEntryCompletes := by
  intro c n s e k hl hu hn hb hs ht hr ho
  obtain ⟨hq, hoth, hown, hbuf, hgate, hfus⟩ := s.entryEffect_made k ht hr ho
  obtain ⟨lq, ls, lb, lg, lf, ll⟩ := State.leaveQueue_effect (e := e) hq
  refine ⟨_, execQueueEntryComplete_leaves hl hu hn hb hs, lq, fun m hm => (ls m).trans (hoth m hm), fun h => ?_, fun h y hy => ?_,
    fun h => ?_, fun h i => ?_, fun h => ?_⟩
  · rw [ls, hown (.inl h), QEntry.onSlot_zero h]
    have htag : BitVec.ofNat 32 (e.va.toNat % 2 ^ 32) = e.va.setWidth 32 := by bv_omega
    unfold Slot.zeroed
    rw [htag]
  · rw [ls, hown (.inr h), QEntry.onSlot_mmul h, hy]
    rfl
  · rw [lb, hbuf h, SMap.get_put_same]
    exact ⟨rfl, fun r hr => SMap.get_map_upTo 64 _ _ hr⟩
  · rw [lg, hgate h]
    exact gateRows_get _ (by omega) _ i
  · rw [lf, ll, (hfus h).1, (hfus h).2]
    exact s.endFuse_loaded k e

/-- Settles O44: the oldest entry free to begin keeps what it reads or leaves its thread a deferred fault, and one that completes
leaves the queue with its effect. -/
theorem queueEntries : Obligations.QueueEntries := ⟨queueEntryBegins, queueEntryCompletes⟩

end Sys2Proof.Machine
end

section
/-! Chunks that start: the thread of a chunk, the slots of its Reel, and the byte of RSTATE (R334 to R340). -/
namespace Sys2Proof.Machine

/-! ### A thread that starts -/

/-- The registers that a thread starts with. -/
def startRegs (regs : List (Nat × W64)) (x : Thread) : Thread := regs.foldl (fun (x : Thread) r => x.setG r.1 r.2) x

/-- A thread as it starts. -/
def Thread.started (pc : W64) (regs : List (Nat × W64)) (chunk : Option Nat) (ns : W64) : Thread :=
  (startRegs regs { Thread.init with chunk := chunk, startNs := ns }).jump pc

theorem State.startThread_eq (s : State) (k t : Nat) (pc : W64) (regs : List (Nat × W64)) (chunk : Option Nat) :
    s.startThread k t pc regs chunk = s.updThr k t (fun _ => Thread.started pc regs chunk s.nsW) := rfl

theorem Thread.setG_keeps (x : Thread) (n : Nat) (v : W64) :
    (x.setG n v).vr = x.vr ∧ (x.setG n v).chunk = x.chunk := by
  unfold Thread.setG
  split
  · exact ⟨rfl, rfl⟩
  · exact ⟨rfl, rfl⟩

theorem startRegs_keeps (regs : List (Nat × W64)) (x : Thread) :
    (startRegs regs x).vr = x.vr ∧ (startRegs regs x).chunk = x.chunk :=
  List.foldlRecOn (motive := fun y : Thread => y.vr = x.vr ∧ y.chunk = x.chunk) regs _ ⟨rfl, rfl⟩ fun y hy r _ => by
    obtain ⟨h1, h2⟩ := y.setG_keeps r.1 r.2
    exact ⟨h1.trans hy.1, h2.trans hy.2⟩

theorem Thread.jump_g (x : Thread) (pc : W64) (i : Nat) : (x.jump pc).g i = x.g i := rfl

/-- What the thread of a core is when it has started. -/
theorem Claims.starts_of {t : State} {k n : Nat} {pc : W64} {regs : List (Nat × W64)} {c : Option Nat} {ns : W64} {g : Nat → W64}
    (h : t.thr k n = Thread.started pc regs c ns)
    (hg : ∀ i, (startRegs regs { Thread.init with chunk := c, startNs := ns }).g i = g i) : Claims.starts t k n pc g := by
  unfold Claims.starts
  rw [h]
  refine ⟨rfl, rfl, rfl, rfl, hg, fun i => ?_⟩
  unfold Thread.started Thread.v Thread.jump
  dsimp only
  rw [(startRegs_keeps _ _).1]
  rfl

/-! ### Slots of a core -/

/-- Nothing but some slots and the counters of a core differ. -/
structure State.slotsOnly (s t : State) (k : Nat) (l : List Nat) : Prop where
  only : s.onlyCore t k
  core : t.core k = { s.core k with slots := (t.core k).slots, cnt := (t.core k).cnt, winE := (t.core k).winE }
  others : ∀ m, m ∉ l → t.slot k m = s.slot k m

theorem State.slotsOnly_refl (s : State) (k : Nat) (l : List Nat) : s.slotsOnly s k l := ⟨s.onlyCore_refl k, rfl, fun _ _ => rfl⟩

theorem State.slotsOnly.trans {s t u : State} {k : Nat} {l : List Nat} (h : s.slotsOnly t k l) (g : t.slotsOnly u k l) :
    s.slotsOnly u k l :=
  ⟨h.only.trans g.only, by rw [g.core, h.core], fun m hm => (g.others m hm).trans (h.others m hm)⟩

theorem State.updSlot_slotsOnly (s : State) (k : Nat) {n : Nat} {l : List Nat} (f : Slot → Slot) (h : n ∈ l) :
    s.slotsOnly (s.updSlot k n f) k l where
  only := s.onlyCore_updCore k _
  core := by rw [State.updSlot, State.core_updCore_same]
  others m hm := s.slot_updSlot_ne k f fun hmn => hm (hmn ▸ h)

theorem State.count_slotsOnly (s : State) (k n v : Nat) (l : List Nat) : s.slotsOnly (s.count k n v) k l where
  only := s.onlyCore_updCore k _
  core := by rw [State.count, State.core_updCore_same, Core.count_eq]
  others m _ := by rw [State.slot, State.count, State.core_updCore_same, Core.count_eq, State.slot]

theorem State.slotsOnly_foldl {α : Type} (f : State → α → State) (k : Nat) {l : List Nat} (xs : List α) (s : State)
    (hf : ∀ t, ∀ x ∈ xs, State.slotsOnly t (f t x) k l) : s.slotsOnly (xs.foldl f s) k l :=
  List.foldlRecOn (motive := fun t : State => s.slotsOnly t k l) xs f (s.slotsOnly_refl k l) fun t ht x hx => ht.trans (hf t x hx)

/-- Each slot of a list updated alike. -/
def State.updSlots (s : State) (k : Nat) (l : List Nat) (f : Slot → Slot) : State := l.foldl (fun s n => s.updSlot k n f) s

theorem State.updSlots_slotsOnly (s : State) (k : Nat) (l : List Nat) (f : Slot → Slot) : s.slotsOnly (s.updSlots k l f) k l :=
  State.slotsOnly_foldl _ k l s fun t _ hn => t.updSlot_slotsOnly k f hn

/-- What an update gives every slot, the slots of the list have. -/
theorem State.updSlots_gives {P : Slot → Prop} {f : Slot → Slot} (hP : ∀ x, P (f x)) (k m : Nat) :
    ∀ (l : List Nat) (s : State), (m ∈ l ∨ P (s.slot k m)) → P ((s.updSlots k l f).slot k m)
  | [], s, h => h.resolve_left List.not_mem_nil
  | n :: l, s, h => by
    refine State.updSlots_gives hP k m l (s.updSlot k n f) ?_
    by_cases hm : m = n
    · subst hm
      exact .inr (by rw [State.slot_updSlot_same]; exact hP _)
    · rw [s.slot_updSlot_ne k f hm]
      exact h.imp_left fun h => (List.mem_cons.mp h).resolve_left hm

/-- An update that keeps what q tells of a slot. -/
theorem State.updSlots_keeps {α : Type} (q : Slot → α) {f : Slot → Slot} (hq : ∀ x, q (f x) = q x) (k m : Nat) :
    ∀ (l : List Nat) (s : State), q ((s.updSlots k l f).slot k m) = q (s.slot k m)
  | [], _ => rfl
  | n :: l, s => by
    refine (State.updSlots_keeps q hq k m l (s.updSlot k n f)).trans ?_
    by_cases hm : m = n
    · subst hm
      rw [State.slot_updSlot_same, hq]
    · rw [s.slot_updSlot_ne k f hm]

theorem State.loadImage_slotsOnly (s : State) (p k : Nat) {n : Nat} {l : List Nat} (va : Nat) (h : n ∈ l) :
    s.slotsOnly (s.loadImage p k n va) k l := by
  unfold State.loadImage
  extract_lets hd
  split
  · exact s.slotsOnly_refl k l
  · exact s.updSlot_slotsOnly k _ h

theorem State.loadImages_slotsOnly (s : State) (p k : Nat) (l : List Nat) (head : Nat) (at_ : Nat → Nat) :
    s.slotsOnly (s.loadImages p k l head at_) k l := by
  unfold State.loadImages
  extract_lets xs bytes
  have hload : s.slotsOnly (xs.foldl (fun s x => s.loadImage p k x.1 (at_ x.2)) s) k l :=
    State.slotsOnly_foldl _ k xs s fun t x hx => t.loadImage_slotsOnly p k _ (List.of_mem_zip hx).1
  exact hload.trans (State.count_slotsOnly _ k _ _ l)

/-- A Reel's slots as its reset value leaves them without an image. -/
def Slot.cleared (kind : Nat) (x : Slot) : Slot := x.zeroed 0 (kind != 2) 0 0 0

theorem State.loadReset_eq (s : State) (p k idx : Nat) :
    s.loadReset p k idx = if rlRz (s.reelRec p idx) then s.updSlots k (s.reel p idx).slots (Slot.cleared (rlKind (s.reelRec p idx)))
      else s.loadImages p k (s.reel p idx).slots 0 (resetImage (s.reelRec p idx)) := by
  unfold State.loadReset State.updSlots Slot.cleared
  dsimp only

theorem State.loadReset_slotsOnly (s : State) (p k idx : Nat) : s.slotsOnly (s.loadReset p k idx) k (s.reel p idx).slots := by
  rw [s.loadReset_eq]
  split
  · exact s.updSlots_slotsOnly k _ _
  · exact s.loadImages_slotsOnly p k _ 0 _

theorem State.restoreReel_slotsOnly (s : State) (p k idx : Nat) : s.slotsOnly (s.restoreReel p k idx) k (s.reel p idx).slots := by
  rw [s.restoreReel_eq]
  rcases s.newestBank p (s.reelRec p idx) with _ | b
  · rw [State.restored]
    exact s.loadReset_slotsOnly p k idx
  · rw [State.restored]
    exact s.loadImages_slotsOnly p k (s.reel p idx).slots 64 _

/-! ### The Reel table -/

theorem State.reelAddr_congr {s t : State} (hd : t.dev = s.dev) (hc : t.clusters = s.clusters) (p i : Nat) :
    t.reelAddr p i = s.reelAddr p i := by
  unfold State.reelAddr State.lead
  rw [State.clustersOf_congr hd, State.cl_congr hc]

theorem State.reel_congr {s t : State} (h : t.parts = s.parts) (p i : Nat) : t.reel p i = s.reel p i := by
  unfold State.reel
  rw [State.part_congr h]

theorem State.rdN_congr {s t : State} (a n : Nat) (h : ∀ i, i < n → t.rd (a + i) = s.rd (a + i)) : t.rdN a n = s.rdN a n := by
  rw [State.rdN_eq, State.rdN_eq]
  exact List.map_congr_left fun i hi => h i (List.mem_range.mp hi)

theorem State.reelRec_congr {s t : State} (hd : t.dev = s.dev) (hc : t.clusters = s.clusters) (hr : t.rd = s.rd) (p i : Nat) :
    t.reelRec p i = s.reelRec p i := by
  have hN : t.rdN = s.rdN := by
    funext a n
    exact State.rdN_congr a n fun _ _ => by rw [hr]
  unfold State.reelRec State.lead
  rw [State.clustersOf_congr hd, State.cl_congr hc, State.reelAddr_congr hd hc, hN]

theorem State.onlyCore.rdEq {s t : State} {k : Nat} (h : s.onlyCore t k) : t.rd = s.rd := by
  obtain ⟨heq, -⟩ := h
  exact State.rd_congr (by rw [heq]) (by rw [heq]) (by rw [heq]) (by rw [heq])

theorem State.onlyCore.reelRec {s t : State} {k : Nat} (h : s.onlyCore t k) (p i : Nat) : t.reelRec p i = s.reelRec p i :=
  State.reelRec_congr (by rw [h.1]) (by rw [h.1]) h.rdEq p i

theorem State.onlyCore.reel {s t : State} {k : Nat} (h : s.onlyCore t k) (p i : Nat) : t.reel p i = s.reel p i :=
  State.reel_congr (by rw [h.1]) p i

theorem State.onlyCore.reelAddr {s t : State} {k : Nat} (h : s.onlyCore t k) (p i : Nat) : t.reelAddr p i = s.reelAddr p i :=
  State.reelAddr_congr (by rw [h.1]) (by rw [h.1]) p i

theorem State.partOf_congr {s t : State} (h : t.dev = s.dev) (k : Nat) : t.partOf k = s.partOf k := by
  unfold State.partOf
  rw [State.ownerCl_congr (congrArg Dev.own h)]

theorem State.logOf_congr {s t : State} (hd : t.dev = s.dev) (hc : t.clusters = s.clusters) (hp : t.parts = s.parts) (k : Nat) :
    t.logOf k = s.logOf k := by
  unfold State.logOf State.logCl State.logCore State.physCore
  rw [State.partOf_congr hd, State.part_congr hp, State.cl_congr hc]

theorem State.g2At_congr {s t : State} (hd : t.dev = s.dev) (hc : t.clusters = s.clusters) (hp : t.parts = s.parts) (k n : Nat) :
    t.g2At k n = s.g2At k n := by
  unfold State.g2At
  rw [State.logOf_congr hd hc hp]

/-- One byte written. -/
theorem State.wrVal_rd (s : State) (a v : Nat) : (s.wrVal a 1 v).rd a = BitVec.ofNat 8 v := by
  have h := (s.rdN_store a (leBytes 1 v)).symm
  have hrd : (s.store a (leBytes 1 v)).rd = (s.wrVal a 1 v).rd := State.rd_congr rfl rfl rfl rfl
  rw [State.rdN_eq, leBytes_length] at h
  have h0 : (upTo 1).map (fun i => (s.store a (leBytes 1 v)).rd (a + i)) = [(s.wrVal a 1 v).rd a] := by rw [hrd]; rfl
  rw [h0] at h
  exact (List.cons.inj h).1.symm

theorem State.wrVal_outside (s : State) (a v : Nat) : s.sameOutside (s.wrVal a 1 v) a 1 := fun x hx =>
  s.rd_wrN_out a x _ (by rw [leBytes_length]; exact hx)

/-- RSTATE written stands in the table. -/
theorem State.setRstate_rd (s : State) (p i st : Nat) : (s.setRstate p i st).rd (s.reelAddr p i + 34) = BitVec.ofNat 8 st :=
  s.wrVal_rd _ _

theorem State.setRstate_outside (s : State) (p i st : Nat) : s.sameOutside (s.setRstate p i st) (s.reelAddr p i + 34) 1 :=
  s.wrVal_outside _ _

theorem State.setRstate_onlyMem (s : State) (p i st : Nat) : s.onlyMem (s.setRstate p i st) := s.wrVal_onlyMem _ _ _

theorem State.sameOutside.trans {s t u : State} {a n : Nat} (h : s.sameOutside t a n) (g : t.sameOutside u a n) : s.sameOutside u a n :=
  fun x hx => (g x hx).trans (h x hx)

theorem State.sameOutside_of {s t : State} (h : t.rd = s.rd) (a n : Nat) : s.sameOutside t a n := fun x _ => by rw [h]

theorem sliceB_getD (l : List Byte) {i n : Nat} (h : i + n ≤ l.length) : sliceB l i n = (upTo n).map (fun j => l.getD (i + j) 0#8) := by
  apply List.ext_getElem
  · simp [sliceB_length, upTo]
  · intro j h1 h2
    rw [sliceB_length] at h1
    have hj : i + j < l.length := by omega
    simp only [sliceB, upTo, List.getElem_map, List.getElem_range, List.getD_eq_getElem?_getD]
    rw [List.getElem_append_left (by simp; omega)]
    simp [List.getElem?_eq_getElem hj]

/-- A field of a table entry is read in its own bytes. -/
theorem State.recN_rdN {s t : State} (a : Nat) {i n len : Nat} (hlen : i + n ≤ len)
    (h : ∀ j, i ≤ j → j < i + n → t.rd (a + j) = s.rd (a + j)) : recN (t.rdN a len) i n = recN (s.rdN a len) i n := by
  unfold recN
  rw [sliceB_getD _ (by rw [State.rdN_length]; exact hlen), sliceB_getD _ (by rw [State.rdN_length]; exact hlen)]
  refine congrArg leVal (List.map_congr_left fun j hj => ?_)
  have hj : j < n := List.mem_range.mp hj
  rw [State.rdN_eq, State.rdN_eq]
  have hlt : i + j < len := by omega
  simp only [upTo, List.getD_eq_getElem?_getD, List.getElem?_map, List.getElem?_range hlt, Option.map_some, Option.getD_some]
  exact h (i + j) (by omega) (by omega)

/-- ENTRY does not change with RSTATE. -/
theorem State.rlEntry_setRstate (s : State) (p i st : Nat) :
    rlEntry ((s.setRstate p i st).reelRec p i) = rlEntry (s.reelRec p i) := by
  have hm := s.setRstate_onlyMem p i st
  have hd : (s.setRstate p i st).dev = s.dev := by rw [hm]
  have hc : (s.setRstate p i st).clusters = s.clusters := by rw [hm]
  unfold rlEntry State.reelRec State.lead
  rw [State.clustersOf_congr hd, State.cl_congr hc, State.reelAddr_congr hd hc]
  split
  · exact State.recN_rdN _ (by omega) fun j _ hj => s.setRstate_outside p i st _ (.inl (by omega))
  · rfl

end Sys2Proof.Machine
end

section
/-! CHUNK_DISPATCH and the start of a chunk (R334 to R340). -/
namespace Sys2Proof.Machine

/-! ### The start of a chunk -/

/-- The slots of a Reel as a chunk with a mark at position 0 finds them. -/
def State.markedReset (s : State) (p k idx : Nat) (c : Chunk) : State := if c.mark = 0#16 then s.loadReset p k idx else s

/-- A slot that a thread owns. -/
def Slot.ownedBy (t : Nat) (x : Slot) : Slot := { x with owner := some t }

/-- g4 of a chunk's thread (R337). -/
def chunkG4 (slots : List Nat) (c : Chunk) : Nat :=
  slots.foldl (fun a n => a + 2 ^ n) 0 + 2 ^ 8 * c.len.toNat + 2 ^ 24 * c.mark.toNat + 2 ^ 40 * c.tag.toNat

/-- The registers that a chunk's thread starts with (R337). -/
def State.chunkStart (s : State) (k t : Nat) (slots : List Nat) (c : Chunk) : List (Nat × W64) :=
  [(1, c.inp), (2, s.g2At k t), (3, c.handle.setWidth 64), (4, BitVec.ofNat 64 (chunkG4 slots c)), (5, c.out), (6, c.arg)]

/-- A chunk that runs. -/
def Chunk.runs (x : Chunk) : Chunk := { x with running := true, held := false, sig := 0#64, sigLo := 0xFFFFFFFF#32, sigHi := 0#32 }

/-- A chunk's thread started on the slots of its Reel. -/
def State.chunkThread (s : State) (k t : Nat) (slots : List Nat) (entry : Nat) (c : Chunk) : State :=
  ((s.updSlots k slots (Slot.ownedBy t)).startThread k t (BitVec.ofNat 64 entry)
    ((s.updSlots k slots (Slot.ownedBy t)).chunkStart k t slots c) (some c.serial)).updChunk k c.serial Chunk.runs

theorem State.startChunk_eq (s : State) (p k t idx : Nat) (c : Chunk) :
    s.startChunk p k t idx c = ((((s.markedReset p k idx c).chunkThread k t ((s.markedReset p k idx c).reel p idx).slots
      (rlEntry (s.reelRec p idx)) c).setRstate p idx 2).traceRec k 8 t (rlEntry (s.reelRec p idx)) c.handle.toNat) := by
  unfold State.startChunk State.markedReset State.chunkThread State.chunkStart chunkG4 State.updSlots Slot.ownedBy Chunk.runs
  dsimp only

theorem State.onlyCore.g2At {s t : State} {k : Nat} (h : s.onlyCore t k) : t.g2At = s.g2At := by
  funext j n
  exact State.g2At_congr (by rw [h.1]) (by rw [h.1]) (by rw [h.1]) j n

theorem startRegs_chunk (s : State) (k t : Nat) (slots : List Nat) (c : Chunk) (x : Thread) (hx : ∀ i, x.g i = 0#64) (i : Nat) :
    (startRegs (s.chunkStart k t slots c) x).g i = Claims.chunkRegs s k t slots c i := by
  unfold State.chunkStart startRegs
  simp only [List.foldl_cons, List.foldl_nil, Thread.g_setG, hx]
  unfold Claims.chunkRegs chunkG4
  by_cases h : i < 7
  · interval_cases i <;> rfl
  · obtain ⟨n, rfl⟩ : ∃ n, i = n + 7 := ⟨i - 7, by omega⟩
    simp

/-- What a chunk that starts on a thread leaves: its thread, the slots of its Reel, its core's chunks and the byte of RSTATE. -/
structure ChunkStarted (s u : State) (p k t idx : Nat) (c : Chunk) : Prop where
  starts : Claims.starts u k t (BitVec.ofNat 64 (rlEntry (s.reelRec p idx))) (Claims.chunkRegs s k t (s.reel p idx).slots c)
  chunk : (u.thr k t).chunk = some c.serial
  threads : ∀ m, m ≠ t → u.thr k m = s.thr k m
  owned : ∀ m ∈ (s.reel p idx).slots, (u.slot k m).owner = some t
  otherSlots : ∀ m, m ∉ (s.reel p idx).slots → u.slot k m = s.slot k m
  unmarked : c.mark ≠ 0#16 → ∀ m, u.slot k m = { s.slot k m with owner := (u.slot k m).owner }
  marked : c.mark = 0#16 → rlRz (s.reelRec p idx) = true →
    ∀ m ∈ (s.reel p idx).slots, (u.slot k m).acc = [] ∧ (u.slot k m).lad = [] ∧ (u.slot k m).count = 0
  chunks : (u.core k).chunkq = (s.core k).chunkq.map (fun x => if x.serial = c.serial then x.runs else x)
  rstate : u.rd (s.reelAddr p idx + 34) = 2#8
  outside : s.sameOutside u (s.reelAddr p idx + 34) 1

theorem State.updChunk_core (s : State) (k serial : Nat) (f : Chunk → Chunk) :
    (s.updChunk k serial f).core k = { s.core k with
      chunkq := (s.core k).chunkq.map (fun x => if x.serial = serial then f x else x) } := State.core_updCore_same _ _ _

theorem State.updThr_core (s : State) (k t : Nat) (f : Thread → Thread) :
    (s.updThr k t f).core k = { s.core k with threads := (s.core k).threads.upd Thread.init t f } := State.core_updCore_same _ _ _

/-- A started thread leaves all but its thread, the owners of its slots, and its chunk. -/
theorem State.chunkThread_core (s : State) (k t : Nat) (slots : List Nat) (entry : Nat) (c : Chunk) :
    s.onlyCore (s.chunkThread k t slots entry c) k ∧
    (∀ m, (s.chunkThread k t slots entry c).slot k m = (s.updSlots k slots (Slot.ownedBy t)).slot k m) ∧
    (s.chunkThread k t slots entry c).thr k t = Thread.started (BitVec.ofNat 64 entry) (s.chunkStart k t slots c) (some c.serial) s.nsW ∧
    (∀ m, m ≠ t → (s.chunkThread k t slots entry c).thr k m = s.thr k m) ∧
    ((s.chunkThread k t slots entry c).core k).chunkq =
      (s.core k).chunkq.map (fun x => if x.serial = c.serial then x.runs else x) := by
  have ha := s.updSlots_slotsOnly k slots (Slot.ownedBy t)
  have hregs : (s.updSlots k slots (Slot.ownedBy t)).chunkStart k t slots c = s.chunkStart k t slots c := by
    unfold State.chunkStart
    rw [ha.only.g2At]
  have hns : (s.updSlots k slots (Slot.ownedBy t)).nsW = s.nsW := by rw [ha.only.1]; rfl
  unfold State.chunkThread
  rw [hregs]
  generalize hv : s.updSlots k slots (Slot.ownedBy t) = v at ha hns ⊢
  have hcore : ((v.startThread k t (BitVec.ofNat 64 entry) (s.chunkStart k t slots c) (some c.serial)).updChunk k c.serial
      Chunk.runs).core k = { v.core k with
        threads := (v.core k).threads.upd Thread.init t
          (fun _ => Thread.started (BitVec.ofNat 64 entry) (s.chunkStart k t slots c) (some c.serial) v.nsW)
        chunkq := (v.core k).chunkq.map (fun x => if x.serial = c.serial then x.runs else x) } := by
    rw [State.updChunk_core, State.startThread_eq, State.updThr_core]
  refine ⟨(ha.only.trans (v.onlyCore_updCore k _)).trans (State.onlyCore_updCore _ k _), fun m => ?_, ?_, fun m hm => ?_, ?_⟩
  · rw [State.slot, hcore, State.slot]
  · rw [State.thr, hcore, ← hns]
    dsimp only
    exact SMap.get_upd_same _ _ _ _
  · rw [State.thr, hcore]
    dsimp only
    refine (SMap.get_upd_ne _ _ _ _ _ hm).trans ?_
    rw [State.thr, ha.core]
  · rw [hcore, ha.core]

theorem Slot.cleared_empty (kind : Nat) (x : Slot) :
    (x.cleared kind).acc = [] ∧ (x.cleared kind).lad = [] ∧ (x.cleared kind).count = 0 := ⟨rfl, rfl, rfl⟩

/-- What is kept of a slot whose owner changes. -/
def Slot.body (x : Slot) : Slot := { x with owner := none }

theorem Slot.body_ownedBy (t : Nat) (x : Slot) : (x.ownedBy t).body = x.body := rfl

theorem Slot.eq_of_body {x y : Slot} (h : x.body = y.body) : x = { y with owner := x.owner } := by
  have : { x.body with owner := x.owner } = { y.body with owner := x.owner } := by rw [h]
  exact this

theorem State.markedReset_slotsOnly (s : State) (p k idx : Nat) (c : Chunk) :
    s.slotsOnly (s.markedReset p k idx c) k (s.reel p idx).slots := by
  unfold State.markedReset
  split
  · exact s.loadReset_slotsOnly p k idx
  · exact s.slotsOnly_refl k _

theorem State.noTrace_congr {s t : State} (h : t.dbg = s.dbg) {k : Nat} (hn : s.noTrace k) : t.noTrace k := by
  unfold State.noTrace State.trace
  rw [h]
  exact hn

theorem State.startChunk_started {s : State} {k : Nat} (hn : s.noTrace k) (p t idx : Nat) (c : Chunk) :
    ChunkStarted s (s.startChunk p k t idx c) p k t idx c := by
  have ha := s.markedReset_slotsOnly p k idx c
  have hreel : ((s.markedReset p k idx c).reel p idx).slots = (s.reel p idx).slots := by rw [ha.only.reel]
  rw [s.startChunk_eq, hreel]
  generalize hl : (s.reel p idx).slots = l at ha
  obtain ⟨honly, hslot, hthr, hoth, hq⟩ := (s.markedReset p k idx c).chunkThread_core k t l (rlEntry (s.reelRec p idx)) c
  generalize hv : (s.markedReset p k idx c).chunkThread k t l (rlEntry (s.reelRec p idx)) c = v at honly hslot hthr hoth hq ⊢
  have hsv : s.onlyCore v k := ha.only.trans honly
  have hm := v.setRstate_onlyMem p idx 2
  have hvn : v.noTrace k := State.noTrace_congr (by rw [hsv.1]) hn
  have htr : (v.setRstate p idx 2).noTrace k := State.noTrace_congr (by rw [hm]) hvn
  rw [State.traceRec_noTrace htr]
  have hcore : ∀ j, (v.setRstate p idx 2).core j = v.core j := fun j => State.core_congr (by rw [hm]) j
  have hus : ∀ m, (v.setRstate p idx 2).slot k m = ((s.markedReset p k idx c).updSlots k l (Slot.ownedBy t)).slot k m := fun m => by
    rw [State.slot, hcore, ← hslot, State.slot]
  have hut : ∀ m, (v.setRstate p idx 2).thr k m = v.thr k m := fun m => by rw [State.thr, hcore, State.thr]
  have hb := (s.markedReset p k idx c).updSlots_slotsOnly k l (Slot.ownedBy t)
  refine ⟨?_, ?_, fun m hmt => ?_, fun m hml => ?_, fun m hml => ?_, fun hk m => ?_, fun hk hz m hml => ?_, ?_, ?_, ?_⟩
  · rw [hl]
    refine Claims.starts_of ((hut t).trans hthr) fun i => ?_
    rw [startRegs_chunk _ _ _ _ _ _ (fun i => by unfold Thread.g; split <;> rfl)]
    unfold Claims.chunkRegs
    rw [ha.only.g2At]
  · rw [hut, hthr]
    exact (startRegs_keeps _ _).2
  · rw [hut, hoth m hmt, State.thr, ha.core, State.thr]
  · rw [hus]
    exact State.updSlots_gives (P := fun x => x.owner = some t) (fun _ => rfl) k m l _ (.inl (hl ▸ hml))
  · rw [hus, hb.others m (hl ▸ hml), ha.others m (hl ▸ hml)]
  · rw [hus]
    refine Slot.eq_of_body ((State.updSlots_keeps Slot.body (Slot.body_ownedBy t) k m l _).trans ?_)
    rw [State.markedReset, if_neg hk]
  · rw [hus]
    have hclear : ((s.markedReset p k idx c).slot k m).acc = [] ∧ ((s.markedReset p k idx c).slot k m).lad = [] ∧
        ((s.markedReset p k idx c).slot k m).count = 0 := by
      rw [State.markedReset, if_pos hk, s.loadReset_eq, if_pos hz]
      exact State.updSlots_gives (P := fun x => x.acc = [] ∧ x.lad = [] ∧ x.count = 0) (Slot.cleared_empty _) k m _ s (.inl hml)
    have hkeep := State.updSlots_keeps (fun x => (x.acc, x.lad, x.count)) (f := Slot.ownedBy t) (fun _ => rfl) k m l
      (s.markedReset p k idx c)
    obtain ⟨h1, h2⟩ := Prod.mk.inj hkeep
    obtain ⟨h2, h3⟩ := Prod.mk.inj h2
    exact ⟨h1.trans hclear.1, h2.trans hclear.2.1, h3.trans hclear.2.2⟩
  · rw [hcore, hq, ha.core]
  · rw [← hsv.reelAddr p idx]
    exact v.setRstate_rd p idx 2
  · rw [← hsv.reelAddr p idx]
    exact (State.sameOutside_of hsv.rdEq _ _).trans (v.setRstate_outside p idx 2)

/-! ### CHUNK_DISPATCH -/

/-- The dispatcher with one chunk in its core's queue. -/
theorem execChunkDispatch_one {c : CoreId} {s : State} {x : Chunk} (hl : s.live = true)
    (hm : s.mayDispatch (s.partOf c.key) c.key = true) (hq : (s.core c.key).chunkq = [x]) :
    exec (.chunkDispatch c) s = .next (s.tryChunk (s.partOf c.key) c.key x).1 := by
  refine (whenLive_live _ _ hl).trans (congrArg _ ?_)
  simp only [hm, hq, Bool.not_true, Bool.false_eq_true, if_false, List.foldl_cons, List.foldl_nil]

theorem State.chunk_first {s : State} {k : Nat} {x : Chunk} (hq : (s.core k).chunkq = [x]) :
    (s.core k).chunkq.any (fun y => decide (y.serial < x.serial) && hIdx y.handle.toNat == hIdx x.handle.toNat) = false := by
  simp [hq]

theorem State.tryChunk_idle {s : State} {p k n : Nat} {x : Chunk} (hq : (s.core k).chunkq = [x]) (hr : x.running = false)
    (hh : x.held = false) (hv : s.reelLive p x.handle.toNat = true) (hb : s.bankMoves p k (hIdx x.handle.toNat) = false)
    (hs : rlRstate (s.reelRec p (hIdx x.handle.toNat)) = 1) (hf : s.freeThread k = some n) :
    (s.tryChunk p k x).1 = s.startChunk p k n (hIdx x.handle.toNat) x := by
  unfold State.tryChunk
  dsimp only
  rw [State.chunk_first hq, hr, hh, hv, hb, hs, hf]
  rfl

/-- With enough loose slots nothing is swapped out. -/
theorem State.makeRoom_enough {s : State} {p k need : Nat} (h : need ≤ (s.looseSlots k).length) : s.makeRoom p k need = s := by
  unfold State.makeRoom
  refine List.foldlRecOn (motive := fun t : State => t = s) _ _ rfl fun t ht i _ => ?_
  subst ht
  exact if_pos h

/-- A chunk whose Reel swaps in. -/
def Chunk.holds (x : Chunk) : Chunk := { x with held := true }

theorem State.tryChunk_out {s : State} {p k : Nat} {x : Chunk} (hq : (s.core k).chunkq = [x]) (hr : x.running = false)
    (hh : x.held = false) (hv : s.reelLive p x.handle.toNat = true) (hb : s.bankMoves p k (hIdx x.handle.toNat) = false)
    (hs : rlRstate (s.reelRec p (hIdx x.handle.toNat)) = 3)
    (hn : rlSlots (s.reelRec p (hIdx x.handle.toNat)) ≤ (s.looseSlots k).length) :
    (s.tryChunk p k x).1 = ((s.bindReel p k (hIdx x.handle.toNat) (rlSlots (s.reelRec p (hIdx x.handle.toNat)))).updChunk k x.serial
      Chunk.holds).setRstate p (hIdx x.handle.toNat) 4 := by
  unfold State.tryChunk
  dsimp only
  rw [State.chunk_first hq, hr, hh, hv, hb]
  simp only [hs, State.makeRoom_enough hn, Bool.or_false, Bool.false_eq_true, if_false, Bool.not_true, if_neg (Nat.not_lt.mpr hn)]
  rfl

/-- A chunk that tells nobody that it completed. -/
theorem State.finishChunk_silent (s : State) (p : Nat) {c : Chunk} (st fc : Nat) (hr : c.recAddr = 0#64) (hc : c.cmd = none)
    (ho : c.owner = none) : s.finishChunk p c st fc = s := by
  unfold State.finishChunk
  dsimp only
  rw [if_pos hr, hc, ho]

theorem State.tryChunk_gone {s : State} {p k : Nat} {x : Chunk} (hq : (s.core k).chunkq = [x]) (hr : x.running = false)
    (hh : x.held = false) (hv : s.reelLive p x.handle.toNat = false) (ha : x.recAddr = 0#64) (hc : x.cmd = none)
    (ho : x.owner = none) : (s.tryChunk p k x).1 = s.dropChunk k x.serial := by
  unfold State.tryChunk
  dsimp only
  rw [State.chunk_first hq, hr, hh, hv, State.finishChunk_silent _ p _ _ ha hc ho]
  rfl

theorem State.dropChunk_core (s : State) (k serial : Nat) :
    (s.dropChunk k serial).core k = { s.core k with chunkq := (s.core k).chunkq.filter (fun x => x.serial != serial) } :=
  State.core_updCore_same _ _ _

theorem Chunk.dropped (x : Chunk) : [x].filter (fun y => y.serial != x.serial) = [] := by simp

/-- A slot bound to a Reel. -/
def Slot.boundTo (i : Nat) (x : Slot) : Slot := { x with reel := some i }

theorem State.bindReel_eq (s : State) (p k idx need : Nat) :
    s.bindReel p k idx need = (s.updSlots k ((s.looseSlots k).take need) (Slot.boundTo idx)).updReel p idx (fun x => { x with
      slots := (s.looseSlots k).take need, core := k }) := rfl

theorem Slot.boundTo_twice (i : Nat) (x : Slot) : (x.boundTo i).boundTo i = x.boundTo i := rfl

/-- An update that made twice is made once. -/
theorem State.updSlots_idem {f : Slot → Slot} (hf : ∀ x, f (f x) = f x) (k m : Nat) :
    ∀ (l : List Nat) (s : State), m ∈ l → (s.updSlots k l f).slot k m = f (s.slot k m)
  | [], _, h => absurd h List.not_mem_nil
  | n :: l, s, h => by
    have hstep : (s.updSlots k (n :: l) f).slot k m = ((s.updSlot k n f).updSlots k l f).slot k m := rfl
    rw [hstep]
    by_cases hl : m ∈ l
    · rw [State.updSlots_idem hf k m l _ hl]
      by_cases hm : m = n
      · subst hm
        rw [State.slot_updSlot_same, hf]
      · rw [s.slot_updSlot_ne k f hm]
    · have hm : m = n := (List.mem_cons.mp h).resolve_right hl
      subst hm
      rw [((s.updSlot k m f).updSlots_slotsOnly k l f).others m hl, State.slot_updSlot_same]

theorem State.reel_updReel_same (s : State) (p i : Nat) (f : ReelDyn → ReelDyn) : (s.updReel p i f).reel p i = f (s.reel p i) := by
  rw [State.reel, State.updReel, State.part_updPart_same]
  exact SMap.get_upd_same _ _ _ _

theorem chunksDispatch : Claims.ChunksDispatch := by
  intro c s x k p i r sl hl hm hq hr hh
  have hex := execChunkDispatch_one hl hm hq
  refine ⟨fun hv hb hs hn n hf => ?_, fun hv hb hs hroom => ?_, fun hv ha hc ho => ?_⟩
  · rw [hex, State.tryChunk_idle hq hr hh hv hb hs hf]
    obtain ⟨h1, h2, h3, h4, h5, h6, h7, h8, h9, h10⟩ := State.startChunk_started hn p n i x
    refine ⟨_, rfl, h1, h2, h3, h4, h5, h6, h7, ?_, h9, h10⟩
    rw [h8, hq, List.map_singleton, if_pos rfl]
    unfold Chunk.runs
    rw [hh]
  · rw [hex, State.tryChunk_out hq hr hh hv hb hs hroom, State.bindReel_eq]
    change ∃ t, Host.Outcome.next (State.setRstate (State.updChunk (State.updReel (State.updSlots s k ((s.looseSlots k).take (rlSlots r))
      (Slot.boundTo i)) p i (fun x => { x with slots := (s.looseSlots k).take (rlSlots r), core := k })) k x.serial Chunk.holds)
      p i 4) = .next t ∧ _
    have ha := s.updSlots_slotsOnly k ((s.looseSlots k).take (rlSlots r)) (Slot.boundTo i)
    have hidem := fun m hm => State.updSlots_idem (Slot.boundTo_twice i) k m ((s.looseSlots k).take (rlSlots r)) s hm
    generalize s.updSlots k ((s.looseSlots k).take (rlSlots r)) (Slot.boundTo i) = v at ha hidem
    generalize hw : (v.updReel p i _).updChunk k x.serial Chunk.holds = w
    have hwv : w = { v with cores := w.cores, parts := w.parts } := by rw [← hw]; rfl
    have hwc : w.core k = { v.core k with chunkq := (v.core k).chunkq.map (fun y => if y.serial = x.serial then y.holds else y) } := by
      rw [← hw, State.updChunk_core]
      rfl
    have hwr : w.reel p i = { v.reel p i with slots := (s.looseSlots k).take (rlSlots r), core := k } := by
      rw [← hw]
      exact State.reel_updReel_same v p i _
    have hms := w.setRstate_onlyMem p i 4
    have hrd : w.rd = s.rd :=
      (State.rd_congr (by rw [hwv]) (by rw [hwv]) (by rw [hwv]) (by rw [hwv])).trans ha.only.rdEq
    have haddr : w.reelAddr p i = s.reelAddr p i :=
      (State.reelAddr_congr (by rw [hwv]) (by rw [hwv]) p i).trans (ha.only.reelAddr p i)
    have hcore : (w.setRstate p i 4).core k = w.core k := State.core_congr (by rw [hms]) k
    have hreel : (w.setRstate p i 4).reel p i = w.reel p i := State.reel_congr (by rw [hms]) p i
    refine ⟨_, rfl, ?_, ?_, ?_, fun m hm => ?_, ?_, ?_, ?_⟩
    · rw [hcore, hwc, ha.core, hq]
      simp [Chunk.holds]
    · rw [hreel, hwr]
    · rw [hreel, hwr]
    · rw [State.slot, hcore, hwc]
      exact hidem m hm
    · rw [← haddr]
      exact w.setRstate_rd p i 4
    · rw [← haddr]
      exact (State.sameOutside_of hrd _ _).trans (w.setRstate_outside p i 4)
    · rw [hcore, hwc, ha.core]
  · rw [hex, State.tryChunk_gone hq hr hh hv ha hc ho]
    refine ⟨_, rfl, s.onlyCore_updCore k _, ?_⟩
    rw [State.dropChunk_core, hq, Chunk.dropped]

end Sys2Proof.Machine
end

section
/-! CHUNK_END and REEL_SWAPIN_DONE (R335, R338, R340, R343 to R348). -/
namespace Sys2Proof.Machine

/-! ### Checkpoints and restores -/

/-- Nothing but memory, writes that wait, and the queues, slots and counters of cores differs. -/
structure State.banked (s t : State) : Prop where
  frame : t = { s with
    mem := t.mem, cipher := t.cipher, badWords := t.badWords, poison := t.poison, cores := t.cores, parts := t.parts }
  core : ∀ k, t.core k = { s.core k with
    queue := (t.core k).queue, slots := (t.core k).slots, cnt := (t.core k).cnt, winE := (t.core k).winE }
  part : ∀ p, t.part p = { s.part p with late := (t.part p).late, badAccess := (t.part p).badAccess }

theorem State.banked_refl (s : State) : s.banked s := ⟨rfl, fun _ => rfl, fun _ => rfl⟩

theorem State.banked.trans {s t u : State} (h : s.banked t) (g : t.banked u) : s.banked u where
  frame := by rw [g.frame, h.frame]
  core k := by rw [g.core k, h.core k]
  part p := by rw [g.part p, h.part p]

theorem State.banked_foldl {α : Type} (f : State → α → State) (xs : List α) (s : State)
    (hf : ∀ t, s.banked t → ∀ x, t.banked (f t x)) : s.banked (xs.foldl f s) :=
  List.foldlRecOn (motive := fun t : State => s.banked t) xs f s.banked_refl fun t ht x _ => ht.trans (hf t ht x)

theorem State.onlyMem.banked {s t : State} (h : s.onlyMem t) : s.banked t where
  frame := by rw [h]
  core k := by rw [State.core_congr (s := s) (t := t) (by rw [h]) k]
  part p := by rw [State.part_congr (s := s) (t := t) (by rw [h]) p]

theorem State.slotsOnly.banked {s t : State} {k : Nat} {l : List Nat} (h : s.slotsOnly t k l) : s.banked t where
  frame := by rw [h.only.1]
  core j := by
    by_cases hj : j = k
    · subst hj
      rw [h.core]
    · rw [h.only.2 j hj]
  part p := by rw [State.part_congr (s := s) (t := t) (by rw [h.only.1]) p]

/-- An update of the waiting writes and of the count of accesses outside. -/
theorem State.updPart_banked (s : State) (p : Nat) {f : Part → Part}
    (h : ∀ x, f x = { x with late := (f x).late, badAccess := (f x).badAccess }) : s.banked (s.updPart p f) where
  frame := rfl
  core _ := rfl
  part q := by
    by_cases hq : q = p
    · subst hq
      rw [State.part_updPart_same]
      exact h _
    · rw [State.part_updPart_ne _ _ _ _ hq]

theorem State.noteOutside_banked (s : State) (p va : Nat) : s.banked (s.noteOutside p va) := by
  unfold State.noteOutside
  split
  · exact s.updPart_banked p fun _ => rfl
  · exact s.banked_refl

theorem State.taintQueues_banked (s : State) (p va n : Nat) : s.banked (s.taintQueues p va n) where
  frame := rfl
  core k := by
    simp only [State.taintQueues, State.core, SMap.get_mapV]
    split
    · split <;> rfl
    · rfl
  part _ := rfl

theorem State.putPart_banked (s : State) (p va : Nat) (l : List Byte) : s.banked (s.putPart p va l) :=
  State.banked_foldl _ _ s fun t _ a => by
    dsimp only
    split
    · exact t.banked_refl
    · split
      · exact t.updPart_banked p fun _ => rfl
      · split
        · exact t.banked_refl
        · exact ((t.noteOutside_banked p a).trans (State.vwr_onlyMem _ _ _ _).banked).trans (State.taintQueues_banked _ _ _ _)

/-- The job on a core is not in lock-step. -/
def State.unlocked (s : State) (p k : Nat) : Prop :=
  s.partOf k = p ∧ ∃ j, (s.core k).job = some j ∧ (s.job p j).lock = false

theorem State.banked.unlocked {s t : State} (h : s.banked t) {p k : Nat} (hu : s.unlocked p k) : t.unlocked p k := by
  obtain ⟨hp, j, hj, hl⟩ := hu
  refine ⟨(State.partOf_congr (by rw [h.frame]) k).trans hp, j, by rw [h.core]; exact hj, ?_⟩
  rw [State.job, h.part]
  exact hl

theorem State.signWrite_unlocked {s : State} {p k : Nat} (h : s.unlocked p k) (t va : Nat) (l : List Byte) :
    s.signWrite k t va l = s := by
  obtain ⟨hp, j, hj, hl⟩ := h
  unfold State.signWrite
  dsimp only
  rw [hj, hp]
  dsimp only
  rw [if_pos (by rw [hl]; rfl)]

theorem State.writeBank_banked {s : State} {p k : Nat} (h : s.unlocked p k) (t va : Nat) (l : List Byte) :
    s.banked (s.writeBank p k t va l) := by
  have hb := s.putPart_banked p va l
  unfold State.writeBank
  rw [State.signWrite_unlocked (hb.unlocked h)]
  exact hb

theorem State.checkpointReel_banked {s : State} {p k : Nat} (h : s.unlocked p k) (t idx : Nat) :
    s.banked (s.checkpointReel p k t idx) := by
  unfold State.checkpointReel
  extract_lets r b l seq bytes u v
  have hc : s.banked (s.count k 3 (ceilDiv bytes 256)) := (s.count_slotsOnly k _ _ []).banked
  have hu : s.banked u := hc.trans (State.banked_foldl _ _ _ fun t' ht x =>
    State.writeBank_banked ((hc.trans ht).unlocked h) t _ _)
  have hv : s.banked v := hu.trans (State.writeBank_banked (hu.unlocked h) t _ _)
  exact hv.trans (v.wrVal_onlyMem _ _ _).banked

theorem State.restoreReel_banked (s : State) (p k idx : Nat) : s.banked (s.restoreReel p k idx) :=
  (s.restoreReel_slotsOnly p k idx).banked

/-! ### A chunk that forwards nothing ends -/

theorem State.sendChunkSig_unlocked {s : State} {p k : Nat} (h : s.unlocked p k) (t idx serial : Nat) :
    s.sendChunkSig p k t idx serial = s := by
  obtain ⟨-, j, hj, hl⟩ := h
  unfold State.sendChunkSig
  rw [hj]
  split
  next hj' _ =>
    cases hj'
    rw [hl]
    rfl
  · rfl

/-- The state after a chunk that nobody waits for has made its checkpoint, or was restored, and has left. -/
theorem State.endChunk_silent {s : State} {p k : Nat} (h : s.unlocked p k) (t : Nat) {c : Chunk} (st fc : Nat) (hn : c.nxv = false)
    (ha : c.recAddr = 0#64) (hc : c.cmd = none) (ho : c.owner = none) :
    ∃ u, s.banked u ∧ s.endChunk p k t c st fc = (u.dropChunk k c.serial).reelRests p (hIdx c.handle.toNat) := by
  unfold State.endChunk
  extract_lets idx fwd f st' fc' u v w
  have hu : s.banked u := by
    simp only [u]
    split
    · exact State.checkpointReel_banked h t idx
    · exact s.restoreReel_banked p k idx
  have hv : v = u := State.sendChunkSig_unlocked (hu.unlocked h) t idx c.serial
  refine ⟨u, hu, ?_⟩
  rw [if_neg (by simp [hn])]
  simp only [w, State.finishChunk_silent _ p st' fc' ha hc ho, hv]
  rfl

/-- A Reel that rests, with neither a destroy nor a swap-out waiting. -/
def State.reelIdle (s : State) (p idx : Nat) : State :=
  ((s.updPart p (fun x => { x with doneOrder := (s.part p).doneOrder + 1 })).updReel p idx (fun x => { x with
    lastDone := (s.part p).doneOrder + 1, swapPend := false })).setRstate p idx 1

theorem State.reelRests_idle {s : State} {p idx : Nat} (hd : (s.reel p idx).destroyPend = false)
    (hs : (s.reel p idx).swapPend = false) : s.reelRests p idx = s.reelIdle p idx := by
  unfold State.reelRests
  dsimp only
  rw [hd, hs]
  rfl

/-! ### The chunk boundary with nothing to schedule -/

/-- No core of a partition that a scheduler could use is free. -/
def State.noneFree (s : State) (p : Nat) : Prop :=
  ∀ l j, l < 8 → j < 8 → ∀ k, s.logKey p l j = some k → ((s.core k).job.isNone && s.engineUp k) = false

theorem State.noneFree_of {s : State} {p : Nat} (h : s.freeCores p true = []) : s.noneFree p := by
  intro l j hl hj k hk
  have hmem : (l, j) ∈ (upTo 8).flatMap (fun l => (upTo 8).map (fun j => (l, j))) :=
    List.mem_flatMap.mpr ⟨l, List.mem_range.mpr hl, List.mem_map.mpr ⟨j, List.mem_range.mpr hj, rfl⟩⟩
  have hx := List.filter_eq_nil_iff.mp h _ hmem
  simpa [hk] using hx

theorem State.freeCores_nil {s : State} {p : Nat} (h : s.noneFree p) (b : Bool) : s.freeCores p b = [] := by
  unfold State.freeCores
  rw [List.filter_eq_nil_iff]
  intro x hx
  obtain ⟨l, hl, hx⟩ := List.mem_flatMap.mp hx
  obtain ⟨j, hj, rfl⟩ := List.mem_map.mp hx
  dsimp only
  split
  next k hk =>
    rw [h l j (List.mem_range.mp hl) (List.mem_range.mp hj) k hk]
    simp
  · simp

/-- What the scheduler looks at stands in t as in s, but for settings of jobs that change nothing of where they stand. -/
structure State.sameStand (s t : State) (p : Nat) : Prop where
  dev : t.dev = s.dev
  lmap : (t.part p).lmap = (s.part p).lmap
  cl : ∀ c, (t.cl c).coremap = (s.cl c).coremap ∧ (t.cl c).pstate = (s.cl c).pstate ∧ (t.cl c).powered = (s.cl c).powered
  job : ∀ k, (t.core k).job = (s.core k).job
  jobs : ∀ x ∈ (t.part p).jobs, ∃ y ∈ (s.part p).jobs, x.2.placed = y.2.placed ∧ (y.2.still → x.2.still)

theorem State.sameStand.logKey {s t : State} {p : Nat} (h : s.sameStand t p) (l j : Nat) : t.logKey p l j = s.logKey p l j := by
  have hown : t.own p = s.own p := by rw [State.own, h.dev, State.own]
  have hcore : ∀ c, t.physCore c j = s.physCore c j := fun c => by
    unfold State.physCore
    rw [(h.cl c).1]
  unfold State.logKey State.physCl
  rw [h.lmap, hown]
  simp only [hcore]

theorem State.sameStand.engineUp {s t : State} {p : Nat} (h : s.sameStand t p) (k : Nat) : t.engineUp k = s.engineUp k := by
  obtain ⟨-, hps, hpw⟩ := h.cl (keyCl k)
  unfold State.engineUp State.fencedCore
  rw [hps, hpw]

theorem State.sameStand.settled {s t : State} {p : Nat} (h : s.sameStand t p) (hs : s.settled p) : t.settled p := by
  obtain ⟨hstill, hfree⟩ := hs
  refine ⟨fun x hx => ?_, hfree.imp (fun hf => ?_) fun hpl x hx => ?_⟩
  · obtain ⟨y, hy, -, hst⟩ := h.jobs x hx
    exact hst (hstill _ hy)
  · refine State.freeCores_nil fun l j hl hj k hk => ?_
    rw [h.logKey] at hk
    rw [h.job, h.engineUp]
    exact State.noneFree_of (hf true) l j hl hj k hk
  · obtain ⟨y, hy, hp, -⟩ := h.jobs x hx
    rw [hp]
    exact hpl _ hy

/-- A job as it stands after a boundary without settings that wait. -/
def Job.bounded (lock : Bool) (x : Job) : Job := { x with pendingSet := [], lock := lock }

theorem Job.still.bounded {x : Job} (h : x.still) (b : Bool) : (x.bounded b).still := ⟨h.1, h.2, h.3, h.4, h.5, h.6⟩

theorem State.updJob_jobs (s : State) (p j : Nat) (f : Job → Job) :
    ((s.updJob p j f).part p).jobs = (s.part p).jobs.upd Job.init j f := by
  rw [State.updJob, State.part_updPart_same]

theorem State.has_job {s : State} {p j : Nat} (h : (s.part p).jobs.has j = true) : (j, s.job p j) ∈ (s.part p).jobs := job_mem h

theorem SMap.mem_upd_has {α : Type} {m : SMap α} {d : α} {k : Nat} {f : α → α} {x : Nat × α} (h : x ∈ m.upd d k f) :
    x = (k, f (m.get d k)) ∨ x ∈ m := SMap.mem_put _ _ _ _ h

theorem SMap.has_upd {α : Type} (m : SMap α) (d : α) (k : Nat) (f : α → α) : (m.upd d k f).has k = true := by
  simp [SMap.upd, SMap.has]

/-- A boundary of a core whose job stands still. -/
theorem State.chunkBoundary_still {s : State} {p k j : Nat} (hj : (s.core k).job = some j) (hh : (s.part p).jobs.has j = true)
    (hs : s.settled p) (hp : (s.job p j).pendingSet = []) (hc : (s.func p).cmds = []) :
    s.chunkBoundary p k = (s.applyCl (keyCl k)).updJob p j (Job.bounded (s.part p).lockstep) := by
  have hjob := hs.job hh
  have hstep : s.chunkBoundary p k = (((((s.applyCl (keyCl k)).updJob p j (fun x =>
      { x.pendingSet.foldl (fun z b => z.setFrom b) x with pendingSet := [], lock := (s.part p).lockstep })).switchPoint p j).schedule
        p).pump p) := by
    unfold State.chunkBoundary
    have hj' : ((s.applyCl (keyCl k)).core k).job = some j := hj
    dsimp only
    rw [hj']
    rfl
  have hset : (s.applyCl (keyCl k)).updJob p j (fun x =>
      { x.pendingSet.foldl (fun z b => z.setFrom b) x with pendingSet := [], lock := (s.part p).lockstep }) =
      (s.applyCl (keyCl k)).updJob p j (Job.bounded (s.part p).lockstep) := by
    have hget : (s.part p).jobs.get Job.init j = s.job p j := rfl
    unfold State.updJob State.updPart SMap.upd
    dsimp only
    have hpart : SMap.get (s.applyCl (keyCl k)).parts Part.init p = s.part p := rfl
    rw [hpart, hget, hp]
    rfl
  rw [hstep, hset]
  generalize hv : (s.applyCl (keyCl k)).updJob p j (Job.bounded (s.part p).lockstep) = v
  have hvj : (v.part p).jobs = (s.part p).jobs.upd Job.init j (Job.bounded (s.part p).lockstep) := by
    rw [← hv, State.updJob_jobs]
    rfl
  have hvs : s.sameStand v p := by
    refine ⟨by rw [← hv]; rfl, ?_, fun c => ?_, fun _ => by rw [← hv]; rfl, fun x hx => ?_⟩
    · rw [← hv, State.updJob, State.part_updPart_same]
      rfl
    · rw [← hv]
      change (((s.applyCl (keyCl k)).cl c).coremap = _ ∧ ((s.applyCl (keyCl k)).cl c).pstate = _ ∧
        ((s.applyCl (keyCl k)).cl c).powered = _)
      unfold State.applyCl
      by_cases hc : c = keyCl k
      · subst hc
        rw [State.cl_updCl_same]
        exact ⟨rfl, rfl, rfl⟩
      · rw [State.cl_updCl_ne _ _ _ _ hc]
        exact ⟨rfl, rfl, rfl⟩
    · rw [hvj] at hx
      rcases SMap.mem_upd_has hx with rfl | hx
      · exact ⟨(j, s.job p j), State.has_job hh, rfl, fun h => h.bounded _⟩
      · exact ⟨x, hx, rfl, id⟩
  have hset := hvs.settled hs
  have hvh : (v.part p).jobs.has j = true := by
    rw [hvj]
    exact SMap.has_upd _ _ _ _
  have hsw : v.switchPoint p j = v := by
    unfold State.switchPoint
    dsimp only
    rw [(hset.job hvh).destroy, preempt_settled hset hvh]
    rfl
  rw [hsw, schedule_settled hset, State.pump_none v p (by rw [← hv]; exact hc)]

/-! ### CHUNK_END -/

theorem execChunkEnd_ends {h : Hart} {s : State} {x : Chunk} (hl : s.live = true) (hq : (s.core h.key).chunkq = [x])
    (hc : (s.of h).chunk = some x.serial) (hf : (s.of h).st = .free)
    (hb : s.bankMoves (s.partOf h.key) h.key (hIdx x.handle.toNat) = false) :
    ∃ st fc, exec (.chunkEnd h) s = .next (((s.endChunk (s.partOf h.key) h.key h.thr.val x st fc).updThr h.key h.thr.val
      (fun x => { x with chunk := none, supEnd := false })).chunkBoundary (s.partOf h.key) h.key) := by
  have hfind : (s.core h.key).chunkq.find? (fun y => y.serial == x.serial) = some x := by simp [hq]
  refine ⟨if (s.of h).supEnd then stFaulted else stOk, if (s.of h).supEnd then (s.of h).flt.code.toNat else 0, ?_⟩
  refine (whenLive_live _ _ hl).trans (congrArg _ ?_)
  unfold State.of at hc hf
  rw [hc]
  dsimp only
  rw [if_neg (not_not_intro hf), hfind]
  dsimp only
  rw [hb]
  rfl

theorem State.applyCl_core (s : State) (c k : Nat) : (s.applyCl c).core k = s.core k := rfl

/-- A Reel that goes idle: the byte of RSTATE, and the order in which chunks ended. -/
theorem State.reelIdle_reel (s : State) (p i : Nat) :
    (s.reelIdle p i).rd (s.reelAddr p i + 34) = 1#8 ∧ ((s.reelIdle p i).reel p i).slots = (s.reel p i).slots ∧
      ((s.reelIdle p i).reel p i).lastDone = (s.part p).doneOrder + 1 := by
  unfold State.reelIdle
  generalize hu : (s.updPart p _).updReel p i _ = u
  have hus : u = { s with parts := u.parts } := by rw [← hu]; rfl
  have hur : u.reel p i = { s.reel p i with lastDone := (s.part p).doneOrder + 1, swapPend := false } := by
    rw [← hu, State.reel_updReel_same, State.reel, State.part_updPart_same]
    rfl
  have hm := u.setRstate_onlyMem p i 1
  have hr : (u.setRstate p i 1).reel p i = u.reel p i := State.reel_congr (by rw [hm]) p i
  refine ⟨?_, by rw [hr, hur], by rw [hr, hur]⟩
  rw [← State.reelAddr_congr (s := s) (t := u) (by rw [hus]) (by rw [hus]) p i]
  exact u.setRstate_rd p i 1

/-- What else a Reel that goes idle leaves. -/
theorem State.reelIdle_frame (s : State) (p i : Nat) :
    s.reelIdle p i = { s with
      mem := (s.reelIdle p i).mem, cipher := (s.reelIdle p i).cipher, badWords := (s.reelIdle p i).badWords
      poison := (s.reelIdle p i).poison, parts := (s.reelIdle p i).parts } ∧
    (s.reelIdle p i).part p = { s.part p with
      reels := ((s.reelIdle p i).part p).reels, doneOrder := ((s.reelIdle p i).part p).doneOrder } := by
  unfold State.reelIdle
  generalize hu : (s.updPart p _).updReel p i _ = u
  have hus : u = { s with parts := u.parts } := by rw [← hu]; rfl
  have hup : u.part p = { s.part p with reels := (u.part p).reels, doneOrder := (u.part p).doneOrder } := by
    rw [← hu, State.updReel, State.part_updPart_same, State.part_updPart_same]
  have hm := u.setRstate_onlyMem p i 1
  have hp : (u.setRstate p i 1).part p = u.part p := State.part_congr (by rw [hm]) p
  exact ⟨by rw [hm, hus], by rw [hp, hup]⟩

theorem chunkEnd_ends (h : Hart) (s : State) (x : Chunk) (j : Nat) (hl : s.live = true) (hcalm : Claims.calm s (s.partOf h.key))
    (hs : s.settled (s.partOf h.key)) (hq : (s.core h.key).chunkq = [x]) (hc : (s.of h).chunk = some x.serial)
    (hf : (s.of h).st = .free) (hn : x.nxv = false) (ha : x.recAddr = 0#64) (hcmd : x.cmd = none) (ho : x.owner = none)
    (hj : (s.core h.key).job = some j) (hh : (s.part (s.partOf h.key)).jobs.has j = true)
    (hlock : (s.job (s.partOf h.key) j).lock = false) (hpend : (s.job (s.partOf h.key) j).pendingSet = [])
    (hb : s.bankMoves (s.partOf h.key) h.key (hIdx x.handle.toNat) = false)
    (hd : (s.reel (s.partOf h.key) (hIdx x.handle.toNat)).destroyPend = false)
    (hsw : (s.reel (s.partOf h.key) (hIdx x.handle.toNat)).swapPend = false) :
    ∃ t, exec (.chunkEnd h) s = .next t ∧ (t.core h.key).chunkq = [] ∧ (t.of h).chunk = none ∧ (t.of h).st = .free ∧
      (t.of h).gr = (s.of h).gr ∧ t.rd (s.reelAddr (s.partOf h.key) (hIdx x.handle.toNat) + 34) = 1#8 ∧
      (t.reel (s.partOf h.key) (hIdx x.handle.toNat)).slots = (s.reel (s.partOf h.key) (hIdx x.handle.toNat)).slots ∧
      (t.reel (s.partOf h.key) (hIdx x.handle.toNat)).lastDone = (s.part (s.partOf h.key)).doneOrder + 1 := by
  obtain ⟨st, fc, hex⟩ := execChunkEnd_ends hl hq hc hf hb
  rw [hex]
  obtain ⟨u, hu, heq⟩ := State.endChunk_silent (s := s) (p := s.partOf h.key) (k := h.key) ⟨rfl, j, hj, hlock⟩ h.thr.val st fc hn
    ha hcmd ho
  rw [heq]
  generalize s.partOf h.key = p at *
  generalize hIdx x.handle.toNat = i at *
  generalize hv : u.dropChunk h.key x.serial = v
  have hvu : v = { u with cores := v.cores } := by rw [← hv]; rfl
  have hvc : v.core h.key = { u.core h.key with chunkq := [] } := by
    rw [← hv, State.dropChunk_core, hu.core, hq]
    rw [Chunk.dropped]
  have hvr : v.reel p i = s.reel p i := by
    rw [State.reel_congr (s := u) (by rw [hvu]), State.reel, hu.part]
    rfl
  rw [State.reelRests_idle (by rw [hvr]; exact hd) (by rw [hvr]; exact hsw)]
  obtain ⟨hrd, hslots, hlast⟩ := v.reelIdle_reel p i
  obtain ⟨hwf, hwp⟩ := v.reelIdle_frame p i
  generalize v.reelIdle p i = w at hrd hslots hlast hwf hwp ⊢
  have hvp : v.part p = { s.part p with late := (v.part p).late, badAccess := (v.part p).badAccess } := by
    rw [State.part_congr (s := u) (t := v) (by rw [hvu]) p, hu.part]
  have haddr : v.reelAddr p i = s.reelAddr p i :=
    State.reelAddr_congr (by rw [hvu, hu.frame]) (by rw [hvu, hu.frame]) p i
  have hdone : (v.part p).doneOrder = (s.part p).doneOrder := by rw [hvp]
  generalize hz : w.updThr h.key h.thr.val _ = z
  have hzw : z = { w with cores := z.cores } := by rw [← hz]; rfl
  have hwv : w.core h.key = v.core h.key := State.core_congr (by rw [hwf]) _
  have hzc : z.core h.key = { s.core h.key with
      queue := (u.core h.key).queue, slots := (u.core h.key).slots, cnt := (u.core h.key).cnt, winE := (u.core h.key).winE
      chunkq := [], threads := (z.core h.key).threads } := by
    rw [← hz, State.updThr_core, hwv, hvc, hu.core]
  have hzt : z.thr h.key h.thr.val = { s.of h with chunk := none, supEnd := false } := by
    rw [← hz, State.thr_updThr_same, State.thr, hwv, hvc, hu.core]
    rfl
  have hzp : z.part p = { s.part p with
      late := (v.part p).late, badAccess := (v.part p).badAccess, reels := (w.part p).reels, doneOrder := (w.part p).doneOrder } := by
    rw [State.part_congr (s := w) (t := z) (by rw [hzw]) p, hwp, hvp]
  have hzj : z.job p j = s.job p j := by rw [State.job, hzp, State.job]
  have hzst : s.sameStand z p := by
    refine ⟨by rw [hzw, hwf, hvu, hu.frame], by rw [hzp], fun c => ?_, fun k => ?_, fun y hy => ?_⟩
    · rw [State.cl_congr (s := s) (t := z) (by rw [hzw, hwf, hvu, hu.frame]) c]
      exact ⟨rfl, rfl, rfl⟩
    · by_cases hk : k = h.key
      · rw [hk, hzc]
      · rw [← hz, State.updThr, State.core_updCore_ne _ _ _ _ hk, State.core_congr (s := v) (t := w) (by rw [hwf]) k, ← hv,
          State.dropChunk, State.core_updCore_ne _ _ _ _ hk, hu.core]
    · rw [hzp] at hy
      exact ⟨y, hy, rfl, id⟩
  have hzh : (z.part p).jobs.has j = true := by rw [hzp]; exact hh
  have hcmds : (z.func p).cmds = [] := by
    rw [State.func, show z.usb = s.usb by rw [hzw, hwf, hvu, hu.frame]]
    exact hcalm.1
  rw [State.chunkBoundary_still (by rw [hzc]; exact hj) hzh (hzst.settled hs) (by rw [hzj]; exact hpend) hcmds]
  generalize hy : (z.applyCl (keyCl h.key)).updJob p j _ = y
  have hyc : y.core h.key = z.core h.key := by rw [← hy]; rfl
  have hyr : y.reel p i = w.reel p i := by
    rw [← hy, State.reel, State.updJob, State.part_updPart_same]
    change (z.part p).reels.get _ _ = _
    rw [State.part_congr (s := w) (t := z) (by rw [hzw]) p]
    rfl
  have hyt : y.of h = { s.of h with chunk := none, supEnd := false } := by
    rw [State.of, State.thr, hyc]
    exact hzt
  have hyrd : y.rd = w.rd := by
    refine State.rd_congr ?_ ?_ ?_ ?_ <;> rw [← hy, hzw] <;> rfl
  refine ⟨y, rfl, by rw [hyc, hzc], by rw [hyt], by rw [hyt]; exact hf, by rw [hyt], ?_, ?_, ?_⟩
  · rw [hyrd, ← haddr]
    exact hrd
  · rw [hyr, hslots, hvr]
  · rw [hyr, hlast, hdone]

/-! ### REEL_SWAPIN_DONE -/

theorem State.freeThread_congr {s t : State} {k : Nat} (h : ∀ n, t.thr k n = s.thr k n) : t.freeThread k = s.freeThread k := by
  unfold State.freeThread
  simp only [h]

/-- A swap-in that may end finds the chunk held for it. -/
theorem execReelSwapinDone_finds {q : Fin 8} {idx : BitVec 12} {s : State} {x : Chunk} (hl : s.live = true)
    (hr : rlRstate (s.reelRec q.val idx.toNat) = 4) (hs : (s.reel q.val idx.toNat).slots ≠ [])
    (hq : (s.core (s.reel q.val idx.toNat).core).chunkq = [x]) (hh : x.held = true) (hi : hIdx x.handle.toNat = idx.toNat)
    (hsp : (s.cl (keyCl (s.reel q.val idx.toNat).core)).spareBusy = none)
    (hb : s.bankMoves q.val (s.reel q.val idx.toNat).core idx.toNat = false) :
    ((s.reel q.val idx.toNat).destroyPend = true → exec (.reelSwapinDone q idx) s =
      .next ((((s.dropChunk (s.reel q.val idx.toNat).core x.serial).finishChunk q.val x stGone 0).reelGone q.val idx.toNat).pump
        q.val)) ∧
    ((s.reel q.val idx.toNat).destroyPend = false → ∀ n,
      ((s.restoreReel q.val (s.reel q.val idx.toNat).core idx.toNat).setRstate q.val idx.toNat 1).freeThread
        (s.reel q.val idx.toNat).core = some n →
      exec (.reelSwapinDone q idx) s =
        .next (((s.restoreReel q.val (s.reel q.val idx.toNat).core idx.toNat).setRstate q.val idx.toNat 1).startChunk q.val
          (s.reel q.val idx.toNat).core n idx.toNat x)) := by
  have hfind : (s.core (s.reel q.val idx.toNat).core).chunkq.find? (fun y => y.held && hIdx y.handle.toNat == idx.toNat) = some x := by
    simp [hq, hh, hi]
  have hne : ¬ (rlRstate (s.reelRec q.val idx.toNat) ≠ 4 ∨ (s.reel q.val idx.toNat).slots.isEmpty = true ∨
      (s.cl (keyCl (s.reel q.val idx.toNat).core)).spareBusy.isSome = true ∨
      s.bankMoves q.val (s.reel q.val idx.toNat).core idx.toNat = true) := by
    simp [hr, hs, hsp, hb]
  refine ⟨fun hd => (whenLive_live _ _ hl).trans (congrArg _ ?_), fun hd n hf => (whenLive_live _ _ hl).trans (congrArg _ ?_)⟩
  · dsimp only
    rw [if_neg hne, hfind]
    exact if_pos hd
  · dsimp only
    rw [if_neg hne, hfind]
    refine (if_neg (by rw [hd]; decide)).trans ?_
    generalize (s.restoreReel q.val (s.reel q.val idx.toNat).core idx.toNat).setRstate q.val idx.toNat 1 = v at hf ⊢
    rw [hf]

/-- The chunk held for a swap-in starts on the restored Reel as it would on the one before. -/
theorem State.slotsOnly.swappedIn_starts {s v : State} {p i n : Nat} {x : Chunk} {l : List Nat}
    (ha : s.slotsOnly v (s.reel p i).core l) (hn : s.noTrace (s.reel p i).core) :
    let k := (s.reel p i).core
    let u := (v.setRstate p i 1).startChunk p k n i x
    Claims.starts u k n (BitVec.ofNat 64 (rlEntry (s.reelRec p i))) (Claims.chunkRegs s k n (s.reel p i).slots x) ∧
      (u.thr k n).chunk = some x.serial ∧ (∀ m ∈ (s.reel p i).slots, (u.slot k m).owner = some n) ∧
      u.rd (s.reelAddr p i + 34) = 2#8 ∧ s.sameOutside u (s.reelAddr p i + 34) 1 := by
  intro k u
  have hm := v.setRstate_onlyMem p i 1
  have hentry : rlEntry ((v.setRstate p i 1).reelRec p i) = rlEntry (s.reelRec p i) := by
    rw [State.rlEntry_setRstate, ha.only.reelRec]
  have haddr : (v.setRstate p i 1).reelAddr p i = s.reelAddr p i :=
    (State.reelAddr_congr (by rw [hm]) (by rw [hm]) p i).trans (ha.only.reelAddr p i)
  have hreel : (v.setRstate p i 1).reel p i = s.reel p i :=
    (State.reel_congr (by rw [hm]) p i).trans (ha.only.reel p i)
  have hg : (v.setRstate p i 1).g2At = s.g2At := by
    funext a b
    exact State.g2At_congr (by rw [hm, ha.only.1]) (by rw [hm, ha.only.1]) (by rw [hm, ha.only.1]) a b
  have hout : s.sameOutside (v.setRstate p i 1) (s.reelAddr p i + 34) 1 := by
    rw [← ha.only.reelAddr p i]
    exact (State.sameOutside_of ha.only.rdEq _ _).trans (v.setRstate_outside p i 1)
  have hst := State.startChunk_started (State.noTrace_congr (by rw [hm, ha.only.1]) hn : (v.setRstate p i 1).noTrace k) p n i x
  obtain ⟨h1, hchunk, -, h4, -, -, -, -, h2, h3⟩ := hst
  rw [hreel] at h1 h4
  rw [hentry] at h1
  rw [haddr] at h2 h3
  have hregs : Claims.chunkRegs (v.setRstate p i 1) k n (s.reel p i).slots x = Claims.chunkRegs s k n (s.reel p i).slots x := by
    funext a
    unfold Claims.chunkRegs
    rw [hg]
  rw [hregs] at h1
  exact ⟨h1, hchunk, h4, h2, hout.trans h3⟩

theorem State.unbindReel_frame (s : State) (p i : Nat) :
    s.unbindReel p i = { s with cores := (s.unbindReel p i).cores, parts := (s.unbindReel p i).parts } := by
  unfold State.unbindReel
  extract_lets d u
  have hu : u = { s with cores := u.cores } :=
    List.foldlRecOn (motive := fun t : State => t = { s with cores := t.cores }) _ _ rfl fun t ht n _ => by
      rw [State.updSlot, State.updCore]
      rw [ht]
  rw [hu]
  rfl

/-- A Reel that is gone: its slots are released, RSTATE says so and V is clear. -/
theorem State.reelGone_table (s : State) (p i : Nat) :
    ((s.reelGone p i).reel p i).slots = [] ∧ ((s.reelGone p i).reel p i).destroyPend = false ∧
      (s.reelGone p i).rd (s.reelAddr p i + 34) = 5#8 ∧
      (s.reelGone p i).rd (s.reelAddr p i) = BitVec.ofNat 8 ((s.rd (s.reelAddr p i)).toNat / 2 * 2) := by
  have hub := s.unbindReel_onlyReels p i
  have hslots : ((s.unbindReel p i).reel p i).slots = [] := by
    unfold State.unbindReel
    dsimp only
    rw [State.reel_updReel_same]
  unfold State.reelGone
  dsimp only
  have hfr := s.unbindReel_frame p i
  generalize s.unbindReel p i = v at hub hslots hfr ⊢
  have haddr : v.reelAddr p i = s.reelAddr p i := State.reelAddr_congr (by rw [hub.frame]) (by rw [hub.frame]) p i
  have hrd : v.rd = s.rd := State.rd_congr (by rw [hfr]) (by rw [hfr]) (by rw [hfr]) (by rw [hfr])
  have hm := v.setRstate_onlyMem p i 5
  have haddr' : (v.setRstate p i 5).reelAddr p i = s.reelAddr p i :=
    (State.reelAddr_congr (by rw [hm]) (by rw [hm]) p i).trans haddr
  have h5 : (v.setRstate p i 5).rd (s.reelAddr p i + 34) = 5#8 := by
    rw [← haddr]
    exact v.setRstate_rd p i 5
  have h0 : (v.setRstate p i 5).rd (s.reelAddr p i) = s.rd (s.reelAddr p i) := by
    rw [← haddr, v.setRstate_outside p i 5 _ (.inl (by omega)), hrd]
  rw [haddr', h0]
  have hwr : (v.setRstate p i 5).reel p i = v.reel p i := State.reel_congr (by rw [hm]) p i
  generalize v.setRstate p i 5 = w at h5 hwr ⊢
  have hwm := w.wrVal_onlyMem (s.reelAddr p i) 1 ((s.rd (s.reelAddr p i)).toNat / 2 * 2)
  have hout := w.wrVal_outside (s.reelAddr p i) ((s.rd (s.reelAddr p i)).toNat / 2 * 2)
  have hat := w.wrVal_rd (s.reelAddr p i) ((s.rd (s.reelAddr p i)).toNat / 2 * 2)
  generalize w.wrVal (s.reelAddr p i) 1 ((s.rd (s.reelAddr p i)).toNat / 2 * 2) = y at hwm hout hat ⊢
  have hyr : y.reel p i = w.reel p i := State.reel_congr (by rw [hwm]) p i
  have hrdu : ∀ f : ReelDyn → ReelDyn, (y.updReel p i f).rd = y.rd := fun f => State.rd_congr rfl rfl rfl rfl
  rw [State.reel_updReel_same, hrdu]
  exact ⟨by rw [hyr, hwr, hslots], rfl, (hout _ (.inr (by omega))).trans h5, hat⟩

theorem State.slotsOnly.freeThread_setRstate {s v : State} {k n : Nat} {l : List Nat} (hv : s.slotsOnly v k l)
    (hf : s.freeThread k = some n) (p i st : Nat) : (v.setRstate p i st).freeThread k = some n := by
  have hm := v.setRstate_onlyMem p i st
  rw [← hf]
  exact State.freeThread_congr fun m => by
    rw [State.thr, State.core_congr (s := v) (t := v.setRstate p i st) (by rw [hm]) k, hv.core, State.thr]

theorem reelSwapinDone_starts {q : Fin 8} {idx : BitVec 12} {s : State} {x : Chunk} {n : Nat} (hl : s.live = true)
    (hr : rlRstate (s.reelRec q.val idx.toNat) = 4) (hs : (s.reel q.val idx.toNat).slots ≠ [])
    (hq : (s.core (s.reel q.val idx.toNat).core).chunkq = [x]) (hh : x.held = true) (hi : hIdx x.handle.toNat = idx.toNat)
    (hsp : (s.cl (keyCl (s.reel q.val idx.toNat).core)).spareBusy = none)
    (hb : s.bankMoves q.val (s.reel q.val idx.toNat).core idx.toNat = false) (hd : (s.reel q.val idx.toNat).destroyPend = false)
    (hf : s.freeThread (s.reel q.val idx.toNat).core = some n) :
    ∃ v, s.slotsOnly v (s.reel q.val idx.toNat).core (s.reel q.val idx.toNat).slots ∧ exec (.reelSwapinDone q idx) s =
      .next ((v.setRstate q.val idx.toNat 1).startChunk q.val (s.reel q.val idx.toNat).core n idx.toNat x) :=
  ⟨_, s.restoreReel_slotsOnly q.val (s.reel q.val idx.toNat).core idx.toNat,
    (execReelSwapinDone_finds hl hr hs hq hh hi hsp hb).2 hd n ((s.restoreReel_slotsOnly _ _ _).freeThread_setRstate hf _ _ _)⟩

theorem reelSwapinDone_ends (q : Fin 8) (idx : BitVec 12) (s : State) (x : Chunk) :
    let p := q.val
    let i := idx.toNat
    let k := (s.reel p i).core
    s.live = true → rlRstate (s.reelRec p i) = 4 → (s.reel p i).slots ≠ [] → (s.core k).chunkq = [x] → x.held = true →
    hIdx x.handle.toNat = i → s.noTrace k → (s.cl (keyCl k)).spareBusy = none → s.bankMoves p k i = false →
    (∀ n, (s.reel p i).destroyPend = false → s.freeThread k = some n →
      ∃ t, exec (.reelSwapinDone q idx) s = .next t ∧
        Claims.starts t k n (BitVec.ofNat 64 (rlEntry (s.reelRec p i))) (Claims.chunkRegs s k n (s.reel p i).slots x) ∧
        (t.thr k n).chunk = some x.serial ∧ (∀ m ∈ (s.reel p i).slots, (t.slot k m).owner = some n) ∧
        t.rd (s.reelAddr p i + 34) = 2#8 ∧ s.sameOutside t (s.reelAddr p i + 34) 1) ∧
    ((s.reel p i).destroyPend = true → Claims.calm s p → x.recAddr = 0#64 → x.cmd = none → x.owner = none →
      ∃ t, exec (.reelSwapinDone q idx) s = .next t ∧ (t.core k).chunkq = [] ∧ (t.reel p i).slots = [] ∧
        (t.reel p i).destroyPend = false ∧ t.rd (s.reelAddr p i + 34) = 5#8 ∧
        t.rd (s.reelAddr p i) = BitVec.ofNat 8 ((s.rd (s.reelAddr p i)).toNat / 2 * 2)) := by
  intro p i k hl hr hs hq hh hi hn hsp hb
  refine ⟨fun n hd hf => ?_, fun hd hc ha hcmd ho => ?_⟩
  · obtain ⟨v, hv, hex⟩ := reelSwapinDone_starts hl hr hs hq hh hi hsp hb hd hf
    exact ⟨_, hex, hv.swappedIn_starts (n := n) hn⟩
  · have hdrop : s.onlyCore (s.dropChunk k x.serial) k := s.onlyCore_updCore k _
    obtain ⟨h1, h2, h3, h4⟩ := (s.dropChunk k x.serial).reelGone_table p i
    have hreels := (s.dropChunk k x.serial).reelGone_onlyReels p i
    have hcmds : (((s.dropChunk k x.serial).reelGone p i).func p).cmds = [] := by
      rw [State.func, show ((s.dropChunk k x.serial).reelGone p i).usb = s.usb by rw [hreels.frame, hdrop.1]]
      exact hc.1
    refine ⟨_, ((execReelSwapinDone_finds hl hr hs hq hh hi hsp hb).1 hd).trans (congrArg _ ?_), ?_, h1, h2, ?_, ?_⟩
    · rw [State.finishChunk_silent _ p _ _ ha hcmd ho]
      exact State.pump_none _ p hcmds
    · rw [hreels.core, State.dropChunk_core, hq]
      exact x.dropped
    · rw [← hdrop.reelAddr p i]
      exact h3
    · rw [← hdrop.reelAddr p i, h4, hdrop.rdEq]

/-- Settles O47: the dispatcher starts, swaps in or completes the one chunk of a core, and a chunk or a swap-in that ends leaves its
Reel idle, running or gone. -/
theorem reelChunks : Obligations.ReelChunks :=
  ⟨chunksDispatch, fun h s x j hl hc hs hq hch hf hn ha hcmd ho hj hh hk hp hb hd hsw =>
    chunkEnd_ends h s x j hl hc hs hq hch hf hn ha hcmd ho hj hh hk hp hb hd hsw, reelSwapinDone_ends⟩

end Sys2Proof.Machine
end

section
/-! LAUNCH_START and STEP_BOUNDARY (R45 to R47, R288, R499, R605, R607). -/
namespace Sys2Proof.Machine

/-! ### The threads of a step -/

/-- A thread of a step as it starts. -/
def State.stepThread (s : State) (k : Nat) (arg : W64) (n : Nat) : Thread :=
  Thread.started (Config.stepEntry arg) [(1, arg), (2, s.g2At k n)] none s.nsW

/-- The threads of a core started at a step's entry. -/
def State.startAll (s : State) (k n : Nat) (arg : W64) : State :=
  (upTo n).foldl (fun s t => s.startThread k t (Config.stepEntry arg) [(1, arg), (2, s.g2At k t)] none) s

theorem State.onlyCore.stepThread {s t : State} {k : Nat} (h : s.onlyCore t k) (j : Nat) (arg : W64) (n : Nat) :
    t.stepThread j arg n = s.stepThread j arg n := by
  have hns : t.nsW = s.nsW := by rw [h.1]; rfl
  unfold State.stepThread
  rw [h.g2At, hns]

theorem State.startAll_starts (s : State) (k : Nat) (arg : W64) :
    ∀ n, s.onlyCore (s.startAll k n arg) k ∧ ∀ m, m < n → (s.startAll k n arg).thr k m = s.stepThread k arg m
  | 0 => ⟨s.onlyCore_refl k, fun m hm => absurd hm (Nat.not_lt_zero m)⟩
  | n + 1 => by
    obtain ⟨ho, ht⟩ := s.startAll_starts k arg n
    have hstep : s.startAll k (n + 1) arg = (s.startAll k n arg).updThr k n (fun _ => (s.startAll k n arg).stepThread k arg n) := by
      unfold State.startAll
      have hn : upTo (n + 1) = upTo n ++ [n] := List.range_succ
      rw [hn, List.foldl_append]
      rfl
    rw [hstep, ho.stepThread]
    refine ⟨ho.trans (State.onlyCore_updCore _ k _), fun m hm => ?_⟩
    by_cases hmn : m = n
    · subst hmn
      rw [State.thr_updThr_same]
    · rw [State.thr_updThr_ne _ _ _ _ _ hmn]
      exact ht m (by omega)

theorem startRegs_step (s : State) (k : Nat) (arg : W64) (n : Nat) (x : Thread) (hx : ∀ i, x.g i = 0#64) (i : Nat) :
    (startRegs [(1, arg), (2, s.g2At k n)] x).g i = (match i with
      | 1 => arg
      | 2 => s.g2At k n
      | _ => 0#64) := by
  unfold startRegs
  simp only [List.foldl_cons, List.foldl_nil, Thread.g_setG, hx]
  by_cases h : i < 3
  · interval_cases i <;> rfl
  · obtain ⟨n, rfl⟩ : ∃ n, i = n + 3 := ⟨i - 3, by omega⟩
    simp

/-! ### LAUNCH_START -/

/-- The signature of a core as a step starts. -/
def Core.unsigned (c : Core) : Core := { c with sig := 0#64, sigLo := 0xFFFFFFFF#32, sigHi := 0#32 }

/-- A core of a job whose step starts. -/
def State.launchCore (s : State) (p j n : Nat) (arg : W64) (k : Nat) : State :=
  (((s.updCore k Core.unsigned).startAll k n arg).traceRec k 9 0 0
    (((s.updCore k Core.unsigned).startAll k n arg).job p j).stepNo)

theorem State.launchCore_quiet {s : State} (hn : ∀ k, s.noTrace k) (p j n : Nat) (arg : W64) (k : Nat) :
    s.launchCore p j n arg k = (s.updCore k Core.unsigned).startAll k n arg := by
  have ho := ((s.updCore k Core.unsigned).startAll_starts k arg n).1
  unfold State.launchCore
  exact State.traceRec_noTrace (State.noTrace_congr (by rw [ho.1]; rfl) (hn k)) _ _ _ _

/-- The cores of a step: only cores change, and every thread of each is started. -/
theorem State.launchCores_starts (p j n : Nat) (arg : W64) (k : Nat) :
    ∀ (ks : List Nat) (s : State), (∀ i, s.noTrace i) →
      (ks.foldl (fun s k => s.launchCore p j n arg k) s = { s with
        cores := (ks.foldl (fun s k => s.launchCore p j n arg k) s).cores }) ∧
      ((k ∈ ks ∨ ∀ m, m < n → s.thr k m = s.stepThread k arg m) → ∀ m, m < n →
        (ks.foldl (fun s k => s.launchCore p j n arg k) s).thr k m = s.stepThread k arg m)
  | [], s, _ => ⟨rfl, fun h => h.resolve_left List.not_mem_nil⟩
  | i :: ks, s, hn => by
    rw [List.foldl_cons, State.launchCore_quiet hn]
    obtain ⟨ho, ht⟩ := (s.updCore i Core.unsigned).startAll_starts i arg n
    have hu := (s.onlyCore_updCore i Core.unsigned).trans ho
    have hsame := fun m => (s.onlyCore_updCore i Core.unsigned).stepThread k arg m
    generalize (s.updCore i Core.unsigned).startAll i n arg = u at hu ht ⊢
    obtain ⟨hf, hs⟩ := State.launchCores_starts p j n arg k ks u fun a => State.noTrace_congr (by rw [hu.1]) (hn a)
    refine ⟨?_, fun h m hm => ?_⟩
    · rw [hf, hu.1]
    · have hpre : k ∈ ks ∨ ∀ m, m < n → u.thr k m = u.stepThread k arg m := by
        by_cases hk : k = i
        · subst hk
          refine .inr fun m hm => ?_
          rw [ht m hm, hu.stepThread, hsame]
        · refine h.imp (fun h => (List.mem_cons.mp h).resolve_left hk) fun h m hm => ?_
          rw [State.thr, hu.2 k hk, hu.stepThread]
          exact h m hm
      rw [hs hpre m hm, hu.stepThread]

/-- What a launch notes in its job. -/
def Job.launchedAt (ns : BitVec 64) (y : Job) : Job :=
  { y with startAt := none, launchNs := ns, faulted := false, stepNo := if y.again then y.stepNo else y.stepNo + 1 }

theorem State.launch_powered {s : State} {p j : Nat}
    (h : ∀ x ∈ (s.job p j).placed, ∃ k, s.logKey p x.1 x.2 = some k ∧ (s.cl (keyCl k)).powered = true) :
    s.launch p j = (((s.updJob p j (Job.launchedAt s.nsW)).jobCores p j).foldl
      (fun t k => t.launchCore p j (s.job p j).threads (s.job p j).argBlk k) (s.updJob p j (Job.launchedAt s.nsW))) := by
  unfold State.launch
  dsimp only
  rw [List.any_eq_false.mpr]
  · rfl
  · intro x hx
    obtain ⟨k, hk, hp⟩ := h x hx
    simp [hk, hp]

theorem State.logKey_updJob (s : State) (p j : Nat) (f : Job → Job) (l q : Nat) : (s.updJob p j f).logKey p l q = s.logKey p l q := by
  have hl : ((s.updJob p j f).part p).lmap = (s.part p).lmap := by rw [State.updJob, State.part_updPart_same]
  unfold State.logKey State.physCl
  rw [hl]
  rfl

theorem State.jobCores_updJob (s : State) (p j : Nat) {f : Job → Job} (hf : ∀ x, (f x).placed = x.placed) :
    (s.updJob p j f).jobCores p j = s.jobCores p j := by
  unfold State.jobCores
  rw [State.job_updJob_same, hf]
  simp only [State.logKey_updJob]

theorem State.logOf_updJob (s : State) (p j : Nat) (f : Job → Job) (k : Nat) : (s.updJob p j f).logOf k = s.logOf k := by
  have hlm : ∀ a, ((s.updJob p j f).part a).lmap = (s.part a).lmap := fun a => by
    by_cases ha : a = p
    · rw [ha, State.updJob, State.part_updPart_same]
    · rw [State.updJob, State.part_updPart_ne _ _ _ _ ha]
  unfold State.logOf State.logCl
  rw [hlm]
  rfl

theorem State.stepThread_updJob (s : State) (p j : Nat) (f : Job → Job) (k : Nat) (arg : W64) (n : Nat) :
    (s.updJob p j f).stepThread k arg n = s.stepThread k arg n := by
  unfold State.stepThread State.g2At
  rw [State.logOf_updJob]
  rfl

/-- A launch on powered cores: the job notes it, and the threads of each core start. -/
theorem State.launch_starts {s : State} {p j : Nat}
    (hp : ∀ x ∈ (s.job p j).placed, ∃ k, s.logKey p x.1 x.2 = some k ∧ (s.cl (keyCl k)).powered = true) (hn : ∀ k, s.noTrace k) :
    s.launch p j = { s with parts := (s.launch p j).parts, cores := (s.launch p j).cores } ∧
      (s.launch p j).job p j = (s.job p j).launchedAt s.nsW ∧ Claims.stepStarts s (s.launch p j) p j (s.job p j).argBlk := by
  rw [State.launch_powered hp, State.jobCores_updJob s p j (f := Job.launchedAt s.nsW) fun _ => rfl]
  have hu : s.updJob p j (Job.launchedAt s.nsW) = { s with parts := (s.updJob p j (Job.launchedAt s.nsW)).parts } := rfl
  have hjob : (s.updJob p j (Job.launchedAt s.nsW)).job p j = (s.job p j).launchedAt s.nsW := State.job_updJob_same _ _ _ _
  have hg := s.stepThread_updJob p j (Job.launchedAt s.nsW)
  generalize s.updJob p j (Job.launchedAt s.nsW) = u at hu hjob hg ⊢
  have hun : ∀ k, u.noTrace k := fun k => State.noTrace_congr (by rw [hu]) (hn k)
  have hcores := fun k => State.launchCores_starts p j (s.job p j).threads (s.job p j).argBlk k (s.jobCores p j) u hun
  generalize (s.jobCores p j).foldl _ u = t at hcores ⊢
  obtain ⟨hf, -⟩ := hcores 0
  refine ⟨by rw [hf, hu], ?_, fun k hk m hm => ?_⟩
  · rw [State.job, State.part_congr (s := u) (t := t) (by rw [hf]) p]
    exact hjob
  · have h := ((hcores k).2 (.inl hk) m hm).trans (hg k _ m)
    exact Claims.starts_of h fun i => startRegs_step s k _ m _ (fun i => by unfold Thread.g; split <;> rfl) i

theorem launchStart_starts (q : Fin 8) (j : Nat) (s : State) (n : BitVec 64) :
    let p := q.val
    s.live = true → (s.job p j).startAt = some n → n.toNat ≤ s.ns →
    (∀ x ∈ (s.job p j).placed, ∃ k, s.logKey p x.1 x.2 = some k ∧ (s.cl (keyCl k)).powered = true) →
    (∀ k ∈ s.jobCores p j, (s.cl (keyCl k)).spareBusy = none) →
    (∀ k, s.noTrace k) →
    ∃ t, exec (.launchStart q j) s = .next t ∧ (t.job p j).startAt = none ∧ t.mem = s.mem ∧
      (t.job p j).placed = (s.job p j).placed ∧ (t.job p j).running = (s.job p j).running ∧
      Claims.stepStarts s t p j (s.job p j).argBlk := by
  intro p hl hst hns hp hsp hn
  have hex : exec (.launchStart q j) s = .next (s.launch p j) := by
    refine (whenLive_live _ _ hl).trans (congrArg _ ?_)
    rw [hst]
    refine if_neg ?_
    have hany : (s.jobCores p j).any (fun k => (s.cl (keyCl k)).spareBusy.isSome) = false := by
      rw [List.any_eq_false]
      intro k hk
      simp [hsp k hk]
    rw [hany]
    simpa using hns
  obtain ⟨hf, hjob, hstarts⟩ := State.launch_starts hp hn
  exact ⟨_, hex, by rw [hjob]; rfl, by rw [hf], by rw [hjob]; rfl, by rw [hjob]; rfl, hstarts⟩

end Sys2Proof.Machine
end

section
/-! STEP_BOUNDARY with nothing to schedule (R288, R499, R607). -/
namespace Sys2Proof.Machine

/-! ### Registers of clusters with no write that waits -/

/-- What the work at a boundary leaves of a cluster: what the scheduler and the REL settings look at. -/
structure Cluster.sameRoom (x y : Cluster) : Prop where
  coremap : y.coremap = x.coremap
  pstate : y.pstate = x.pstate
  powered : y.powered = x.powered
  ckpt : y.ckpt = x.ckpt

theorem Cluster.sameRoom_refl (x : Cluster) : x.sameRoom x := ⟨rfl, rfl, rfl, rfl⟩

theorem Cluster.sameRoom.trans {x y z : Cluster} (h : x.sameRoom y) (g : y.sameRoom z) : x.sameRoom z :=
  ⟨g.1.trans h.1, g.2.trans h.2, g.3.trans h.3, g.4.trans h.4⟩

theorem State.applyCl_room (s : State) (c d : Nat) : (s.cl d).sameRoom ((s.applyCl c).cl d) := by
  unfold State.applyCl
  by_cases h : d = c
  · subst h
    rw [State.cl_updCl_same]
    exact ⟨rfl, rfl, rfl, rfl⟩
  · rw [State.cl_updCl_ne _ _ _ _ h]
    exact Cluster.sameRoom_refl _

theorem State.updCtl_room (s : State) (c d : Nat) (f : Ctl → Ctl) : (s.cl d).sameRoom ((s.updCtl (some c) f).cl d) := by
  unfold State.updCtl
  by_cases h : d = c
  · subst h
    rw [State.cl_updCl_same]
    exact ⟨rfl, rfl, rfl, rfl⟩
  · rw [State.cl_updCl_ne _ _ _ _ h]
    exact Cluster.sameRoom_refl _

/-! ### A job at its boundary -/

/-- A job that differs in the marks of its step and its settings only. -/
def Job.sameTerms (x y : Job) : Prop :=
  y = { x with
    running := y.running, again := y.again, stopped := y.stopped, launched := y.launched, retire := y.retire
    pendingSet := y.pendingSet, lock := y.lock, ckptOn := y.ckptOn }

theorem Job.sameTerms.trans {x y z : Job} (h : x.sameTerms y) (g : y.sameTerms z) : x.sameTerms z := by
  unfold Job.sameTerms at *
  rw [g, h]

theorem Job.sameTerms_refl (x : Job) : x.sameTerms x := rfl

theorem Job.sameTerms.still {x y : Job} (h : x.sameTerms y) (hk : x.kind ≠ 1#2) (hs : x.still) : y.still := by
  rw [h]
  exact ⟨hs.held, hs.victim, hs.destroy, hs.cores, hs.whole, hs.rest.imp_right fun g => ⟨g.1, .inl hk⟩⟩

/-- What the boundary of one job leaves of the state: registers of clusters, and the job's own record. -/
structure State.atBoundary (s t : State) (p j : Nat) : Prop where
  frame : t = { s with clusters := t.clusters, parts := t.parts }
  cl : ∀ d, (s.cl d).sameRoom (t.cl d)
  lmap : (t.part p).lmap = (s.part p).lmap
  lockstep : (t.part p).lockstep = (s.part p).lockstep
  relPend : (t.part p).relPend = (s.part p).relPend
  jobs : ∀ x ∈ (t.part p).jobs, x ∈ (s.part p).jobs ∨ (s.job p j).sameTerms x.2
  has : (s.part p).jobs.has j = true → (t.part p).jobs.has j = true
  terms : (s.job p j).sameTerms (t.job p j)

theorem State.atBoundary_refl (s : State) (p j : Nat) : s.atBoundary s p j :=
  ⟨rfl, fun _ => Cluster.sameRoom_refl _, rfl, rfl, rfl, fun _ hx => .inl hx, id, rfl⟩

theorem State.atBoundary.trans {s t u : State} {p j : Nat} (h : s.atBoundary t p j) (g : t.atBoundary u p j) : s.atBoundary u p j :=
  ⟨by rw [g.frame, h.frame], fun d => (h.cl d).trans (g.cl d), g.lmap.trans h.lmap, g.lockstep.trans h.lockstep,
    g.relPend.trans h.relPend, fun x hx => (g.jobs x hx).elim (h.jobs x) fun hx => .inr (h.terms.trans hx),
    fun hh => g.has (h.has hh), h.terms.trans g.terms⟩

theorem State.updJob_atBoundary (s : State) (p j : Nat) (f : Job → Job) (hf : (s.job p j).sameTerms (f (s.job p j))) :
    s.atBoundary (s.updJob p j f) p j where
  frame := rfl
  cl _ := Cluster.sameRoom_refl _
  lmap := by rw [State.updJob, State.part_updPart_same]
  lockstep := by rw [State.updJob, State.part_updPart_same]
  relPend := by rw [State.updJob, State.part_updPart_same]
  jobs x hx := by
    rw [State.updJob_jobs] at hx
    rcases SMap.mem_upd_has hx with rfl | hx
    · exact .inr hf
    · exact .inl hx
  has _ := by
    rw [State.updJob_jobs]
    exact SMap.has_upd _ _ _ _
  terms := by rw [State.job_updJob_same]; exact hf

theorem State.applyCl_atBoundary (s : State) (c p j : Nat) : s.atBoundary (s.applyCl c) p j :=
  ⟨rfl, s.applyCl_room c, rfl, rfl, rfl, fun _ hx => .inl hx, id, rfl⟩

/-- The clusters of a boundary take their registers; jobs stay. -/
theorem State.applyCls_atBoundary (s : State) (p j : Nat) (l : List Nat) :
    s.atBoundary (l.foldl (fun s c => s.applyCl c) s) p j ∧ (l.foldl (fun s c => s.applyCl c) s).parts = s.parts :=
  List.foldlRecOn (motive := fun t : State => s.atBoundary t p j ∧ t.parts = s.parts) l _
    ⟨s.atBoundary_refl p j, rfl⟩ fun t ht c _ => ⟨ht.1.trans (t.applyCl_atBoundary c p j), ht.2⟩

/-- A boundary leaves the scheduler as little to do as there was. -/
theorem State.atBoundary.settled {s t : State} {p j : Nat} (h : s.atBoundary t p j) (hh : (s.part p).jobs.has j = true)
    (hk : (s.job p j).kind ≠ 1#2) (hs : s.settled p) : t.settled p := by
  refine State.sameStand.settled (s := s) ⟨by rw [h.frame], h.lmap, fun c => ?_, fun k => ?_, fun x hx => ?_⟩ hs
  · obtain ⟨h1, h2, h3, -⟩ := h.cl c
    exact ⟨h1, h2, h3⟩
  · rw [State.core_congr (s := s) (t := t) (by rw [h.frame])]
  · rcases h.jobs x hx with hx | hx
    · exact ⟨x, hx, rfl, id⟩
    · exact ⟨(j, s.job p j), State.has_job hh, by rw [hx], fun hst => hx.still hk hst⟩

/-! ### STEP_BOUNDARY -/

/-- The state when the completion of a job's STEP has been posted. -/
theorem State.stepDone_completes {s : State} {p j : Nat} {c : HCmd} (hr : (s.job p j).running = some (c.serial + 1))
    (hc : (s.func p).cmds = [c]) (st : Nat) :
    s.stepDone p j st = { s with clusters := (s.stepDone p j st).clusters, usb := (s.stepDone p j st).usb } ∧
    (∀ d, (s.cl d).sameRoom ((s.stepDone p j st).cl d)) ∧ ((s.stepDone p j st).func p).cmds = [] ∧
    ((s.stepDone p j st).func p).out = queueCompletion (s.func p).out { Completion.init with
      tag := c.hdr.tag, status := BitVec.ofNat 8 st, fcode := (s.job p j).fcode, opc := c.opc, tArr := c.tArr, tDone := s.nsW
      d0 := (s.job p j).late, serial := c.serial, cycle := s.cycle } := by
  unfold State.stepDone
  extract_lets x u
  have hu : u = { s with clusters := u.clusters } ∧ ∀ d, (s.cl d).sameRoom (u.cl d) := by
    simp only [u]
    split
    · exact ⟨rfl, fun d => s.updCtl_room _ d _⟩
    · exact ⟨rfl, fun _ => Cluster.sameRoom_refl _⟩
  obtain ⟨hu, hroom⟩ := hu
  have hr' : x.running = some (c.serial + 1) := hr
  have hfu : u.func p = s.func p := by rw [State.func, show u.usb = s.usb by rw [hu], State.func]
  rw [hr']
  dsimp only
  rw [State.complete_only (hfu ▸ hc)]
  have hns : u.nsW = s.nsW := by rw [hu]; rfl
  have hcyc : u.cycle = s.cycle := by rw [hu]
  refine ⟨?_, hroom, by rw [State.func_updFunc_same], ?_⟩
  · rw [State.postCompletion, State.updFunc, State.updFunc, hu]
  · rw [State.func_updFunc_same, State.postCompletion, State.func_updFunc_same, hfu, hns, hcyc]
    dsimp only
    rw [BitVec.ofNat_toNat, BitVec.ofNat_toNat, BitVec.setWidth_eq, BitVec.setWidth_eq]
    rfl

/-- The marks of a step that has ended. -/
def Job.rested (retire : Option Nat) (y : Job) : Job :=
  { y with running := none, again := false, stopped := false, launched := false, retire := if retire = y.retire then none else y.retire }

theorem State.settleSeqs_none {s : State} {p j : Nat} (h : (s.job p j).seqs = []) (ok : Bool) : s.settleSeqs p j ok = s := by
  unfold State.settleSeqs
  rw [h]
  rfl

theorem State.retireSeqs_none {s : State} {p j : Nat} (h : (s.job p j).seqs = []) : s.retireSeqs p j = s := by
  unfold State.retireSeqs
  rw [h]
  rfl

/-- The jobs of a partition that stand still launch nothing at the boundary of one of them. -/
theorem State.boundaryBuilds_still {s : State} {p j : Nat} (hs : s.settled p) :
    (s.jobsByAdm p).foldl (fun s i => if i = j then s.buildStep p i
      else if s.mayLaunch p i then (s.kvAct p i).buildStep p i else s) s = s := by
  have key : ∀ l : List Nat, (∀ v ∈ l, (s.part p).jobs.has v = true) →
      l.foldl (fun s i => if i = j then s.buildStep p i
        else if s.mayLaunch p i then (s.kvAct p i).buildStep p i else s) s = s := by
    intro l hl
    refine List.foldlRecOn (motive := fun t : State => t = s) l _ rfl fun t ht i hi => ?_
    subst ht
    have hst := hs.job (hl i hi)
    split
    · exact buildStep_settled hst
    · exact launchPart_settled hst
  refine key _ fun v hv => ?_
  simp only [State.jobsByAdm, List.mem_map, List.mem_mergeSort] at hv
  obtain ⟨e, he, rfl⟩ := hv
  exact has_of_mem he

/-- The settings that waited, in force (R486). -/
def Job.takesSettings (lock : Bool) (y : Job) : Job :=
  { y.pendingSet.foldl (fun z b => z.setFrom b) y with pendingSet := [], lock := lock }

/-- Every sequence of a job active. -/
def Job.activated (y : Job) : Job := { y with seqs := y.seqs.mapV (fun _ q => { q with active := true }) }

/-- The first part of a boundary after the step's completion: the marks of the step, its sequences, and the settings that waited. -/
def State.boundarySettles (s : State) (p j : Nat) (retire : Option Nat) (ok : Bool) : State :=
  let s := ((s.updJob p j (Job.rested retire)).settleSeqs p j ok).retireSeqs p j
  s.updJob p j (Job.takesSettings (s.part p).lockstep)

/-- The second part: registers and REL settings, the checkpoint, and the sequences that have become active. -/
def State.boundaryRegisters (s : State) (p j : Nat) : State :=
  let s := (s.clustersOf p).foldl (fun s c => s.applyCl c) (s.takeRel p)
  (s.checkpointJob p j).updJob p j Job.activated

/-- The third part: what begins next. -/
def State.boundaryBegins (s : State) (p j : Nat) (retire : Option Nat) : State :=
  let s := match retire with
    | some k => s.fenceCore k 9
    | none => s
  let s := (s.kvAct p j).switchPoint p j
  let s := s.placeLoop p ((s.part p).jobs.length + 1)
  (s.jobsByAdm p).foldl (fun s i => if i = j then s.buildStep p i
    else if s.mayLaunch p i then (s.kvAct p i).buildStep p i else s) s

theorem State.boundary_eq (s : State) (p j : Nat) :
    s.boundary p j = (((((s.sendSigs p j).countLag p j).stepDone p j (if (s.job p j).faulted then stFaulted else stOk)).boundarySettles p
      j (s.job p j).retire ((if (s.job p j).faulted then stFaulted else stOk) == stOk)).boundaryRegisters p j).boundaryBegins p j
        (s.job p j).retire := by
  unfold State.boundary State.boundarySettles State.boundaryRegisters State.boundaryBegins Job.rested Job.takesSettings Job.activated
  rfl

theorem Job.takesSettings_none {y : Job} (h : y.pendingSet = []) (lock : Bool) : y.takesSettings lock = y.bounded lock := by
  unfold Job.takesSettings
  rw [h]
  rfl

theorem Job.activated_none {y : Job} (h : y.seqs = []) : y.activated = y := by
  unfold Job.activated
  rw [h]
  cases y
  cases h
  rfl

theorem State.boundarySettles_none {s : State} {p j : Nat} (hseq : (s.job p j).seqs = []) (hset : (s.job p j).pendingSet = [])
    (retire : Option Nat) (ok : Bool) :
    s.atBoundary (s.boundarySettles p j retire ok) p j ∧
      (s.boundarySettles p j retire ok).job p j = ((s.job p j).rested retire).bounded (s.part p).lockstep := by
  unfold State.boundarySettles
  have b4 : s.atBoundary (s.updJob p j (Job.rested retire)) p j := s.updJob_atBoundary p j (Job.rested retire) rfl
  have hj4 : (s.updJob p j (Job.rested retire)).job p j = (s.job p j).rested retire := State.job_updJob_same _ _ _ _
  generalize s.updJob p j (Job.rested retire) = u at b4 hj4 ⊢
  rw [State.settleSeqs_none (by rw [hj4]; exact hseq), State.retireSeqs_none (by rw [hj4]; exact hseq)]
  dsimp only
  rw [b4.lockstep]
  have hb : (u.job p j).takesSettings (s.part p).lockstep = ((s.job p j).rested retire).bounded (s.part p).lockstep := by
    rw [hj4]
    exact Job.takesSettings_none (y := (s.job p j).rested retire) hset _
  refine ⟨b4.trans (u.updJob_atBoundary p j _ ?_), ?_⟩
  · rw [hb, hj4]
    rfl
  · rw [State.job_updJob_same, hb]

theorem State.lead_congr {s t : State} (h : t.dev = s.dev) (p : Nat) : t.lead p = s.lead p := by
  unfold State.lead
  rw [State.clustersOf_congr h]

theorem State.boundaryRegisters_none {s : State} {p j : Nat} (hrel : (s.part p).relPend = none)
    (hck : (s.cl (s.lead p)).ckpt = false) (hseq : (s.job p j).seqs = []) :
    s.atBoundary (s.boundaryRegisters p j) p j ∧
      (s.boundaryRegisters p j).job p j = { s.job p j with ckptOn := false } := by
  unfold State.boundaryRegisters
  have hrel7 : s.takeRel p = s := if_pos (by rw [hrel]; rfl)
  rw [hrel7]
  obtain ⟨b8, hp8⟩ := s.applyCls_atBoundary p j (s.clustersOf p)
  generalize (s.clustersOf p).foldl (fun s c => s.applyCl c) s = u at b8 hp8 ⊢
  have hlead : u.lead p = s.lead p := State.lead_congr (by rw [b8.frame]) p
  have hck8 : (u.cl (u.lead p)).ckpt = false := by rw [hlead, (b8.cl _).ckpt, hck]
  have h9 : u.checkpointJob p j = u.updJob p j (fun y => { y with ckptOn := false }) := by
    unfold State.checkpointJob
    dsimp only
    rw [hck8]
    rfl
  have hju : u.job p j = s.job p j := by rw [State.job, State.part_congr hp8, State.job]
  dsimp only
  rw [h9]
  have b9 : u.atBoundary (u.updJob p j (fun y => { y with ckptOn := false })) p j := u.updJob_atBoundary p j _ rfl
  have hj9 : (u.updJob p j (fun y => { y with ckptOn := false })).job p j = { s.job p j with ckptOn := false } := by
    rw [State.job_updJob_same, hju]
  generalize u.updJob p j (fun y => { y with ckptOn := false }) = v at b9 hj9 ⊢
  have hact : (v.job p j).activated = v.job p j := Job.activated_none (by rw [hj9]; exact hseq)
  refine ⟨(b8.trans b9).trans (v.updJob_atBoundary p j _ (by rw [hact]; exact Job.sameTerms_refl _)), ?_⟩
  rw [State.job_updJob_same, hact, hj9]

theorem State.boundaryBegins_still {s : State} {p j : Nat} (hs : s.settled p) (hh : (s.part p).jobs.has j = true)
    (hk : (s.job p j).kind ≠ 1#2) : s.boundaryBegins p j none = s := by
  have hkv : s.kvAct p j = s := if_pos hk
  have hsw : s.switchPoint p j = s := by
    unfold State.switchPoint
    dsimp only
    rw [(hs.job hh).destroy, preempt_settled hs hh]
    rfl
  unfold State.boundaryBegins
  dsimp only
  rw [hkv, hsw, placeLoop_settled hs]
  exact State.boundaryBuilds_still hs

/-- A boundary of a BATCH job with no settings, sequences or declarations that wait. -/
theorem State.boundary_batch {s : State} {p j : Nat} {c : HCmd} (hk : (s.job p j).kind = 0#2)
    (hr : (s.job p j).running = some (c.serial + 1)) (hc : (s.func p).cmds = [c]) (hh : (s.part p).jobs.has j = true)
    (hlock : (s.job p j).lock = false) (hseq : (s.job p j).seqs = []) (hset : (s.job p j).pendingSet = [])
    (hret : (s.job p j).retire = none) (hlen : (s.jobCores p j).length < 2) (hrel : (s.part p).relPend = none)
    (hck : (s.cl (s.lead p)).ckpt = false) (hs : s.settled p) :
    ∃ u, (s.stepDone p j (if (s.job p j).faulted then stFaulted else stOk)).atBoundary u p j ∧ (u.job p j).running = none ∧
      (u.job p j).lock = (s.part p).lockstep ∧ s.boundary p j = u := by
  have hk1 : (s.job p j).kind ≠ 1#2 := by rw [hk]; decide
  obtain ⟨hf, hroom, -, -⟩ := s.stepDone_completes hr hc (if (s.job p j).faulted then stFaulted else stOk)
  have h1 : s.sendSigs p j = s := by
    unfold State.sendSigs
    dsimp only
    rw [hlock]
    rfl
  have h2 : s.countLag p j = s := if_pos (.inl hlen)
  rw [s.boundary_eq, h1, h2, hret]
  generalize s.stepDone p j (if (s.job p j).faulted then stFaulted else stOk) = d at hf hroom ⊢
  have hp : d.part p = s.part p := State.part_congr (by rw [hf]) p
  have hj : d.job p j = s.job p j := by rw [State.job, hp, State.job]
  have hds : d.settled p := State.sameStand.settled (s := s) ⟨by rw [hf], by rw [hp], fun c => ⟨(hroom c).coremap, (hroom c).pstate,
    (hroom c).powered⟩, fun k => by rw [State.core_congr (s := s) (t := d) (by rw [hf])], fun y hy => ⟨y, hp ▸ hy, rfl, id⟩⟩ hs
  obtain ⟨b1, hj1⟩ := State.boundarySettles_none (s := d) (p := p) (j := j) (by rw [hj]; exact hseq) (by rw [hj]; exact hset) none
    ((if (s.job p j).faulted then stFaulted else stOk) == stOk)
  generalize d.boundarySettles p j none ((if (s.job p j).faulted then stFaulted else stOk) == stOk) = u at b1 hj1 ⊢
  rw [hj, hp] at hj1
  have hlead : u.lead p = s.lead p := State.lead_congr (by rw [b1.frame, hf]) p
  obtain ⟨b2, hj2⟩ := State.boundaryRegisters_none (s := u) (p := p) (j := j) (by rw [b1.relPend, hp]; exact hrel)
    (by rw [hlead, (b1.cl _).ckpt, (hroom _).ckpt]; exact hck) (by rw [hj1]; exact hseq)
  generalize u.boundaryRegisters p j = v at b2 hj2 ⊢
  rw [hj1] at hj2
  have hb := b1.trans b2
  have hv : v.boundaryBegins p j none = v := State.boundaryBegins_still
    (hb.settled (by rw [hp]; exact hh) (by rw [hj]; exact hk1) hds) (hb.has (by rw [hp]; exact hh)) (by rw [hj2]; exact hk1)
  exact ⟨v, hb, by rw [hj2]; rfl, by rw [hj2]; rfl, hv⟩

theorem stepBoundary_ends (q : Fin 8) (j : Nat) (s : State) (c : HCmd) :
    let p := q.val
    let x := s.job p j
    s.live = true → s.stepEnded p j = true → x.kind = 0#2 → x.running = some (c.serial + 1) → (s.func p).cmds = [c] →
    (s.part p).jobs.has j = true → x.lock = false → x.seqs = [] → x.pendingSet = [] → x.retire = none →
    (s.jobCores p j).length < 2 → (s.part p).relPend = none → (s.cl (s.lead p)).ckpt = false → s.settled p →
    (∀ d ∈ s.clustersOf p, (s.cl d).clPend = []) →
    ∃ t, exec (.stepBoundary q j) s = .next t ∧ (t.job p j).running = none ∧ (t.job p j).placed = x.placed ∧
      (t.job p j).lock = (s.part p).lockstep ∧ (t.func p).cmds = [] ∧
      (t.func p).out = queueCompletion (s.func p).out { Completion.init with
        tag := c.hdr.tag, status := if x.faulted then 2#8 else 0#8, fcode := x.fcode, opc := c.opc, tArr := c.tArr, tDone := s.nsW,
        d0 := x.late, serial := c.serial, cycle := s.cycle } ∧ t.mem = s.mem ∧ t.cores = s.cores := by
  intro p x hl he hk hr hc hh hlock hseq hset hret hlen hrel hck hs _
  obtain ⟨u, hb, hrun, hlk, heq⟩ := State.boundary_batch hk hr hc hh hlock hseq hset hret hlen hrel hck hs
  obtain ⟨hf, -, hcmds, hout⟩ := s.stepDone_completes hr hc (if (s.job p j).faulted then stFaulted else stOk)
  generalize hd : s.stepDone p j (if (s.job p j).faulted then stFaulted else stOk) = d at hb hf hcmds hout
  have hdj : d.job p j = x := by rw [State.job, State.part_congr (s := s) (t := d) (by rw [hf]) p]; rfl
  have huf : u.func p = d.func p := by rw [State.func, show u.usb = d.usb by rw [hb.frame], State.func]
  refine ⟨u, ?_, hrun, by rw [hb.terms, hdj], hlk, by rw [huf, hcmds], ?_, by rw [hb.frame, hf], by rw [hb.frame, hf]⟩
  · refine (whenLive_live _ _ hl).trans (congrArg _ ((if_pos he).trans ?_))
    rw [heq]
    exact State.pump_none u p (by rw [huf, hcmds])
  · have hstat : BitVec.ofNat 8 (if x.faulted then stFaulted else stOk) = if x.faulted then 2#8 else 0#8 := by
      split <;> rfl
    rw [huf, hout, ← hstat]

end Sys2Proof.Machine
end

section
/-! CONTEXT_SWITCH_END and REPLACE_RESUME (R501, R503, R504, R792, R798, R800). -/
namespace Sys2Proof.Machine

/-! ### Slots restored -/

/-- A slot that no thread owns. -/
def Slot.disowned (x : Slot) : Slot := { x with owner := none }

/-- A slot of a core at the restore of a switch, from what was saved of it. -/
def Slot.restored (sl : Slot) (o : Option Slot) : Slot :=
  if sl.reel.isSome then sl
  else match o with
    | some x => (sl.ofImage x.image).disowned
    | none => (sl.zeroed 0 false 0 0 0).disowned

theorem Slot.restored_saved {sl : Slot} (h : sl.reel = none) (y : Slot) :
    sl.restored (some y) = { sl.ofImage y.image with owner := none } := by
  unfold Slot.restored
  rw [h]
  dsimp only
  generalize sl.ofImage y.image = z
  rfl

/-- One slot restored. -/
def State.restoreSlot (s : State) (k i : Nat) (saved : SMap Slot) (n : Nat) : State :=
  if (s.slot k n).reel.isSome then s
  else match saved.find (8 * i + n) with
    | some x => s.updSlot k n (fun sl => { sl.ofImage x.image with owner := none })
    | none => s.updSlot k n (fun sl => { sl.zeroed 0 false 0 0 0 with owner := none })

theorem State.restoreSlots_eq (s : State) (k i : Nat) (saved : SMap Slot) :
    s.restoreSlots k i saved = (List.range 8).foldl (fun s n => s.restoreSlot k i saved n) s := rfl

theorem State.restoreSlot_slot (s : State) (k i : Nat) (saved : SMap Slot) (n : Nat) :
    (s.restoreSlot k i saved n).slot k n = (s.slot k n).restored (saved.find (8 * i + n)) := by
  unfold State.restoreSlot Slot.restored
  split
  · rfl
  · split
    · rw [State.slot_updSlot_same, Slot.disowned]
    · rw [State.slot_updSlot_same, Slot.disowned]

theorem State.restoreSlot_slotsOnly (s : State) (k i : Nat) (saved : SMap Slot) {n : Nat} {l : List Nat} (h : n ∈ l) :
    s.slotsOnly (s.restoreSlot k i saved n) k l := by
  unfold State.restoreSlot
  split
  · exact s.slotsOnly_refl k l
  · split
    · exact s.updSlot_slotsOnly k _ h
    · exact s.updSlot_slotsOnly k _ h

theorem State.restoreSlots_slotsOnly (s : State) (k i : Nat) (saved : SMap Slot) :
    s.slotsOnly (s.restoreSlots k i saved) k (List.range 8) := by
  rw [State.restoreSlots_eq]
  exact State.slotsOnly_foldl _ k (List.range 8) s fun t _ hn => t.restoreSlot_slotsOnly k i saved hn

/-- Each slot is restored once. -/
theorem State.restoreSlots_slot (s : State) (k i : Nat) (saved : SMap Slot) {n : Nat} (h : n < 8) :
    (s.restoreSlots k i saved).slot k n = (s.slot k n).restored (saved.find (8 * i + n)) := by
  obtain ⟨u, hu, ht⟩ := (State.foldl_range_local (fun t n => t.slot k n) (fun s n => s.restoreSlot k i saved n)
    (fun t n d hd => (t.restoreSlot_slotsOnly k i saved (List.mem_singleton.mpr rfl)).others d
      (fun hm => hd (List.mem_singleton.mp hm))) s n 8).2 h
  rw [State.restoreSlots_eq]
  exact ht.trans ((u.restoreSlot_slot k i saved n).trans (by rw [hu]))

/-! ### CONTEXT_SWITCH_END -/

/-- A job whose saved slots of one core are back. -/
def Job.unsaved (i : Nat) (x : Job) : Job := { x with saved := x.saved.filter (fun z => z.1 / 8 != i) }

/-- A job whose saved pages of one home are back. -/
def Job.pagesHome (home : Nat) (x : Job) : Job := { x with savedPages := x.savedPages.filter (fun y => y.2 != home) }

theorem Job.still.unsaved {x : Job} (h : x.still) (i : Nat) : (x.unsaved i).still := ⟨h.1, h.2, h.3, h.4, h.5, h.6⟩
theorem Job.still.pagesHome {x : Job} (h : x.still) (home : Nat) : (x.pagesHome home).still := ⟨h.1, h.2, h.3, h.4, h.5, h.6⟩

/-- A core that issues again after a switch. -/
def Core.switched (y : Core) : Core :=
  { y with switching := none, sbuf := y.sbuf.mapV (fun _ b => { b with fmt := none }), fusLoaded := [] }

theorem Core.switched_slots (y : Core) : y.switched.slots = y.slots := rfl
theorem Core.switched_threads (y : Core) : y.switched.threads = y.threads := rfl

/-- Without saved pages nothing moves. -/
theorem State.pagesBack_none {s : State} {p j : Nat} (h : (s.job p j).savedPages = []) (k : Nat) :
    s.pagesBack p j k = s.updJob p j (Job.pagesHome (4 * (s.logOf k).2 + 32 * (s.logOf k).1)) := by
  unfold State.pagesBack
  dsimp only
  rw [h]
  rfl

/-- Declarations that waited for a switch, when none waits for this core. -/
theorem State.takeDecl_none {s : State} {k : Nat} (hs : (s.core k).switching = none)
    (h : ∀ d ∈ (s.cl (keyCl k)).declPend, d.1 ≠ keyCore k) :
    s.takeDecl k = s.updCl (keyCl k) (fun y => { y with declPend := y.declPend.filter (fun d => d.1 != keyCore k) }) := by
  have hf : (s.cl (keyCl k)).declPend.filter (fun d => d.1 == keyCore k) = [] := by
    rw [List.filter_eq_nil_iff]
    intro d hd
    simp [h d hd]
  unfold State.takeDecl
  dsimp only
  rw [hs, hf]
  rfl

/-- The state of a switch that ends, before anything begins. -/
def State.switchedIn (s : State) (p j k : Nat) : State :=
  ((((s.restoreSlots k (s.rank p j k) (s.job p j).saved).updJob p j (Job.unsaved (s.rank p j k))).pagesBack p j k).updCore k
    Core.switched).takeDecl k

theorem execContextSwitchEnd_ends {c : CoreId} {s : State} {j : Nat} (hl : s.live = true)
    (hs : (s.core c.key).switching = some j) :
    exec (.contextSwitchEnd c) s = .next ((((s.switchedIn (s.partOf c.key) j c.key).switchPoint (s.partOf c.key) j).schedule
      (s.partOf c.key)).pump (s.partOf c.key)) := by
  refine (whenLive_live _ _ hl).trans (congrArg _ ?_)
  rw [hs]
  rfl

/-- What a switch that ends leaves: one core, the records of its job, and its cluster's declarations. -/
theorem State.switchedIn_core {s : State} {p j k : Nat} (hh : (s.part p).jobs.has j = true) (hp : (s.job p j).savedPages = [])
    (hd : ∀ d ∈ (s.cl (keyCl k)).declPend, d.1 ≠ keyCore k) :
    let u := s.switchedIn p j k
    u = { s with clusters := u.clusters, cores := u.cores, parts := u.parts } ∧
      u.core k = ((s.restoreSlots k (s.rank p j k) (s.job p j).saved).core k).switched ∧ (∀ q, q ≠ k → u.core q = s.core q) ∧
      s.sameStand u p ∧ (u.part p).jobs.has j = true := by
  intro u
  have ha := s.restoreSlots_slotsOnly k (s.rank p j k) (s.job p j).saved
  have hu : u = State.takeDecl (((s.restoreSlots k (s.rank p j k) (s.job p j).saved).updJob p j
    (Job.unsaved (s.rank p j k))).pagesBack p j k |>.updCore k Core.switched) k := rfl
  generalize s.restoreSlots k (s.rank p j k) (s.job p j).saved = a at ha hu ⊢
  have hap : a.part p = s.part p := State.part_congr (by rw [ha.only.1]) p
  have hb2 : ((a.updJob p j (Job.unsaved (s.rank p j k))).job p j).savedPages = [] := by
    rw [State.job_updJob_same, State.job, hap]
    exact hp
  rw [State.pagesBack_none hb2 k] at hu
  generalize hhome : 4 * ((a.updJob p j (Job.unsaved (s.rank p j k))).logOf k).2 +
    32 * ((a.updJob p j (Job.unsaved (s.rank p j k))).logOf k).1 = home at hu
  generalize hv : ((a.updJob p j (Job.unsaved (s.rank p j k))).updJob p j (Job.pagesHome home)).updCore k Core.switched = v at hu
  have hva : v = { a with cores := v.cores, parts := v.parts } := by rw [← hv]; rfl
  have hvk : v.core k = (a.core k).switched := by
    rw [← hv]
    exact State.core_updCore_same _ _ _
  have hvq : ∀ q, q ≠ k → v.core q = s.core q := fun q hq => by
    rw [← hv, State.core_updCore_ne _ _ _ _ hq]
    exact ha.only.2 q hq
  have hvp : (v.part p).lmap = (s.part p).lmap ∧ (v.part p).jobs =
      ((s.part p).jobs.upd Job.init j (Job.unsaved (s.rank p j k))).upd Job.init j (Job.pagesHome home) := by
    rw [← hv]
    change ((State.part (State.updJob _ p j _) p).lmap = _ ∧ (State.part (State.updJob _ p j _) p).jobs = _)
    rw [State.updJob_jobs, State.updJob_jobs, hap, State.updJob, State.part_updPart_same, State.updJob, State.part_updPart_same, hap]
    exact ⟨rfl, rfl⟩
  have hcl : ∀ d, v.cl d = s.cl d := fun d => State.cl_congr (by rw [hva, ha.only.1]) d
  rw [State.takeDecl_none (by rw [hvk]; rfl) (by rw [hcl]; exact hd)] at hu
  have huv : u = { v with clusters := u.clusters } := by rw [hu]; rfl
  have huc : ∀ q, u.core q = v.core q := fun q => State.core_congr (by rw [huv]) q
  have hup : u.part p = v.part p := State.part_congr (by rw [huv]) p
  refine ⟨by rw [huv, hva, ha.only.1], (huc k).trans hvk, fun q hq => (huc q).trans (hvq q hq), ?_, ?_⟩
  · refine ⟨by rw [huv, hva, ha.only.1], by rw [hup]; exact hvp.1, fun d => ?_, fun q => ?_, fun x hx => ?_⟩
    · rw [hu]
      by_cases hdk : d = keyCl k
      · subst hdk
        rw [State.cl_updCl_same, hcl]
        exact ⟨rfl, rfl, rfl⟩
      · rw [State.cl_updCl_ne _ _ _ _ hdk, hcl]
        exact ⟨rfl, rfl, rfl⟩
    · by_cases hqk : q = k
      · subst hqk
        rw [huc, hvk, ha.core]
        rfl
      · rw [huc, hvq q hqk]
    · rw [hup, hvp.2] at hx
      rcases SMap.mem_upd_has hx with rfl | hx
      · rw [SMap.get_upd_same]
        exact ⟨(j, s.job p j), State.has_job hh, rfl, fun h => (h.unsaved _).pagesHome _⟩
      · rcases SMap.mem_upd_has hx with rfl | hx
        · exact ⟨(j, s.job p j), State.has_job hh, rfl, fun h => h.unsaved _⟩
        · exact ⟨x, hx, rfl, id⟩
  · rw [hup, hvp.2]
    exact SMap.has_upd _ _ _ _

/-- A core's buffers after a switch. -/
theorem Core.switched_fmt (y : Core) (b : Nat) :
    (y.switched.sbuf.get StatBuf.init b).fmt = none ∨ y.sbuf.find b = none := by
  unfold Core.switched SMap.get
  dsimp only
  rw [SMap.find_mapV]
  cases y.sbuf.find b with
  | none => exact .inr rfl
  | some x => exact .inl rfl

theorem contextSwitchEnd_ends (c : CoreId) (s : State) (j : Nat) :
    let k := c.key
    let p := s.partOf k
    let x := s.job p j
    s.live = true → Claims.calm s p → (s.core k).switching = some j → x.savedPages = [] →
    s.settled p → (s.part p).jobs.has j = true →
    (∀ d ∈ (s.cl (keyCl k)).declPend, d.1 ≠ keyCore k) →
    ∃ t, exec (.contextSwitchEnd c) s = .next t ∧ (t.core k).switching = none ∧ (t.core k).fusLoaded = [] ∧
      (∀ b, ((t.core k).sbuf.get StatBuf.init b).fmt = none ∨ (s.core k).sbuf.find b = none) ∧
      (t.core k).threads = (s.core k).threads ∧ t.mem = s.mem ∧
      (∀ n, n < 8 → (s.slot k n).reel.isSome = true → t.slot k n = s.slot k n) ∧
      (∀ n y, n < 8 → (s.slot k n).reel = none → x.saved.find (8 * s.rank p j k + n) = some y →
        t.slot k n = { (s.slot k n).ofImage y.image with owner := none }) ∧
      (∀ n, n < 8 → (s.slot k n).reel = none → x.saved.find (8 * s.rank p j k + n) = none →
        (t.slot k n).kind = 0#2 ∧ (t.slot k n).mode = false ∧ (t.slot k n).base = 0#12 ∧ (t.slot k n).tag = 0#32 ∧
          (t.slot k n).lad = [] ∧ (t.slot k n).acc = [] ∧ (t.slot k n).owner = none) := by
  intro k p x hl hc hsw hp hs hh hd
  have hex := execContextSwitchEnd_ends hl hsw
  have ha := s.restoreSlots_slotsOnly k (s.rank p j k) x.saved
  obtain ⟨hf, hcore, -, hst, hhas⟩ := State.switchedIn_core hh hp hd
  change exec (.contextSwitchEnd c) s = .next ((((s.switchedIn p j k).switchPoint p j).schedule p).pump p) at hex
  generalize s.switchedIn p j k = u at hex hf hcore hst hhas
  have hset := hst.settled hs
  have hpoint : u.switchPoint p j = u := by
    unfold State.switchPoint
    dsimp only
    rw [(hset.job hhas).destroy, preempt_settled hset hhas]
    rfl
  have hcmds : (u.func p).cmds = [] := by
    rw [State.func, show u.usb = s.usb by rw [hf]]
    exact hc.1
  rw [hpoint, schedule_settled hset, State.pump_none u p hcmds] at hex
  have hslot : ∀ n, n < 8 → u.slot k n = (s.slot k n).restored (x.saved.find (8 * s.rank p j k + n)) := fun n hn => by
    rw [← s.restoreSlots_slot k (s.rank p j k) x.saved hn, State.slot, hcore, Core.switched_slots, State.slot]
  refine ⟨u, hex, by rw [hcore, Core.switched], by rw [hcore, Core.switched], fun b => ?_, ?_, by rw [hf], fun n hn hr => ?_, fun n y hn hr hy => ?_,
    fun n hn hr hy => ?_⟩
  · rw [hcore]
    have hb := ((s.restoreSlots k (s.rank p j k) x.saved).core k).switched_fmt b
    have hsb : ((s.restoreSlots k (s.rank p j k) x.saved).core k).sbuf = (s.core k).sbuf := by rw [ha.core]
    rw [hsb] at hb
    exact hb
  · rw [hcore, Core.switched_threads, ha.core]
  · rw [hslot n hn]
    unfold Slot.restored
    rw [if_pos hr]
  · rw [hslot n hn, hy, Slot.restored_saved hr]
  · rw [hslot n hn, hy]
    unfold Slot.restored
    rw [if_neg (by rw [hr]; decide)]
    exact ⟨rfl, rfl, rfl, rfl, rfl, rfl, rfl⟩

/-! ### A store copied -/

/-- Cells written one after another, each address once. -/
theorem Memory.read_foldl_write (g : Nat → Nat) (v : Byte → Byte) (z : Nat) :
    ∀ (l : Memory) (m : Memory), l.Pairwise (fun c d => g c.1 ≠ g d.1) →
      Memory.read (l.foldl (fun (m : Memory) c => Memory.write m (g c.1) (v c.2)) m) z =
        match l.find? (fun c => g c.1 == z) with
        | some c => v c.2
        | none => Memory.read m z
  | [], _, _ => rfl
  | c :: l, m, h => by
    obtain ⟨hc, hl⟩ := List.pairwise_cons.mp h
    rw [List.foldl_cons, Memory.read_foldl_write g v z l _ hl, List.find?_cons]
    by_cases hz : g c.1 = z
    · have hnone : l.find? (fun d => g d.1 == z) = none := by
        rw [List.find?_eq_none]
        intro d hd hdz
        exact hc d hd (hz.trans (beq_iff_eq.mp hdz).symm)
      rw [hnone, beq_iff_eq.mpr hz]
      dsimp only
      rw [hz, Memory.read_write_same]
    · rw [beq_eq_false_iff_ne.mpr hz]
      dsimp only
      cases List.find? (fun d => g d.1 == z) l with
      | some d => rfl
      | none => exact Memory.read_write_ne _ _ _ _ (Ne.symm hz)

theorem Memory.pairwise_of_sorted : ∀ m : Memory, SMap.Sorted m = true → m.Pairwise (fun c d => c.1 < d.1)
  | [], _ => List.Pairwise.nil
  | (j, _) :: t, h => by
    rw [SMap.Sorted, Bool.and_eq_true, List.all_eq_true] at h
    exact List.pairwise_cons.mpr ⟨fun d hd => of_decide_eq_true (h.1 d hd), Memory.pairwise_of_sorted t h.2⟩

theorem Memory.read_find (m : Memory) (a : Nat) :
    Memory.read m a = match List.find? (fun c => c.1 == a) m with
      | some c => c.2
      | none => Memory.blank := by
  unfold Memory.read SMap.get
  induction m with
  | nil => rfl
  | cons c t ih =>
    obtain ⟨j, x⟩ := c
    rw [SMap.find, List.find?_cons]
    by_cases h : j = a
    · rw [if_pos h, beq_iff_eq.mpr h]
      rfl
    · rw [if_neg h, beq_eq_false_iff_ne.mpr h]
      exact ih

/-- Whether an address lies in a range of n bytes. -/
def inBytes (n x y : Nat) : Bool := decide (y ≤ x) && decide (x < y + n)

theorem inBytes_iff (n x y : Nat) : inBytes n x y = true ↔ y ≤ x ∧ x < y + n := by simp [inBytes]

/-- The memory with one range's bytes at another. -/
def Memory.copied (m : Memory) (a b n : Nat) : Memory :=
  (List.filter (fun c => inBytes n c.1 a) m).foldl (fun (m : Memory) c => Memory.write m (b + (c.1 - a)) c.2)
    ((List.filter (fun c => inBytes n c.1 b) m).foldl (fun (m : Memory) c => Memory.write m c.1 Memory.blank) m)

theorem State.copyStore_mem (s : State) (a b n : Nat) : (s.copyStore a b n).mem = Memory.copied s.mem a b n := rfl

theorem State.copyStore_frame (s : State) (a b n : Nat) :
    s.copyStore a b n = { s with mem := (s.copyStore a b n).mem, badWords := (s.copyStore a b n).badWords } := rfl

theorem Memory.find_filter (m : Memory) (p q : Host.Cell → Bool) :
    List.find? q (List.filter p m) = List.find? (fun c => p c && q c) m := by
  rw [List.find?_filter]
  congr 1
  funext c
  simp

/-- What a copy leaves at each address. -/
theorem Memory.copied_read {m : Memory} (hm : m.wf = true) (a b n x : Nat) :
    Memory.read (Memory.copied m a b n) x = Memory.read m (if b ≤ x ∧ x < b + n then a + (x - b) else x) := by
  have hp : m.Pairwise (fun c d => c.1 < d.1) := by
    rw [Memory.wf, Bool.and_eq_true] at hm
    exact Memory.pairwise_of_sorted m hm.1
  have hnew : (List.filter (fun c => inBytes n c.1 a) m).Pairwise (fun c d => b + (c.1 - a) ≠ b + (d.1 - a)) := by
    refine List.Pairwise.imp_of_mem (fun {c d} hc hd h => ?_) (hp.filter _)
    obtain ⟨hc1, -⟩ := (inBytes_iff n c.1 a).mp (List.mem_filter.mp hc).2
    obtain ⟨hd1, -⟩ := (inBytes_iff n d.1 a).mp (List.mem_filter.mp hd).2
    omega
  have hold : (List.filter (fun c => inBytes n c.1 b) m).Pairwise (fun c d => id c.1 ≠ id d.1) :=
    (hp.filter _).imp fun h => Nat.ne_of_lt h
  unfold Memory.copied
  refine (Memory.read_foldl_write (fun y => b + (y - a)) (fun w => w) x _ _ hnew).trans ?_
  rw [Memory.find_filter]
  by_cases hx : b ≤ x ∧ x < b + n
  · rw [if_pos hx, Memory.read_find m]
    have hpred : (fun c : Host.Cell => inBytes n c.1 a && (b + (c.1 - a) == x)) = fun c => c.1 == a + (x - b) := by
      funext c
      rw [Bool.eq_iff_iff, Bool.and_eq_true, inBytes_iff, beq_iff_eq, beq_iff_eq]
      omega
    rw [hpred]
    cases List.find? (fun c => c.1 == a + (x - b)) m with
    | some c => rfl
    | none =>
      dsimp only
      refine (Memory.read_foldl_write id (fun _ => Memory.blank) x _ _ hold).trans ?_
      rw [Memory.find_filter]
      have hpred' : (fun c : Host.Cell => inBytes n c.1 b && (id c.1 == x)) = fun c => c.1 == x := by
        funext c
        rw [Bool.eq_iff_iff, Bool.and_eq_true, inBytes_iff, beq_iff_eq, beq_iff_eq, id]
        omega
      rw [hpred', Memory.read_find m]
      cases List.find? (fun c => c.1 == x) m <;> rfl
  · rw [if_neg hx]
    have hnone : List.find? (fun c : Host.Cell => inBytes n c.1 a && (b + (c.1 - a) == x)) m = none := by
      rw [List.find?_eq_none]
      intro c _ hc
      rw [Bool.and_eq_true, inBytes_iff, beq_iff_eq] at hc
      omega
    have hnone' : List.find? (fun c : Host.Cell => inBytes n c.1 b && (id c.1 == x)) m = none := by
      rw [List.find?_eq_none]
      intro c _ hc
      rw [Bool.and_eq_true, inBytes_iff, beq_iff_eq, id] at hc
      omega
    rw [hnone]
    dsimp only
    refine (Memory.read_foldl_write id (fun _ => Memory.blank) x _ _ hold).trans ?_
    rw [Memory.find_filter, hnone']

/-! ### REPLACE_RESUME -/

/-- A core store holds no ciphertext. -/
theorem State.rd_coreStore (s : State) (k i : Nat) : s.rd (coreStore k i) = Memory.read s.mem (coreStore k i) :=
  s.rd_plain _ (s.cipherAt_beyond _ (coreStore_beyond k i)) (s.xtsKey_beyond _ (coreStore_beyond k i))

/-- A byte reads as before where its granule's bytes do. -/
theorem State.rd_of_granule {s t : State} {x : Nat} (hc : t.cipher = s.cipher) (ho : t.dev.own = s.dev.own) (hs : t.sec = s.sec)
    (h : ∀ y, y / 64 = x / 64 → Memory.read t.mem y = Memory.read s.mem y) : t.rd x = s.rd x := by
  have hrd := State.rd_congr (s := { s with mem := t.mem }) (t := t) rfl hc ho hs
  rw [hrd]
  have hgran : Memory.readN t.mem (64 * (x / 64)) 64 = Memory.readN s.mem (64 * (x / 64)) 64 := by
    rw [Memory.readN_eq, Memory.readN_eq]
    exact List.map_congr_left fun i hi => h _ (by have := List.mem_range.mp hi; omega)
  have hg : ({ s with mem := t.mem } : State).granule (x / 64) = s.granule (x / 64) := by
    unfold State.granule
    dsimp only
    rw [hgran]
    rfl
  rw [State.rd, hg, h x rfl]
  rfl

/-- The store of one core copied to another's. -/
theorem State.copyStore_rd {s : State} (hm : Memory.wf s.mem = true) (k k' : Nat) :
    (∀ i, i < 0x400000 → (s.copyStore (coreStore k 0) (coreStore k' 0) 0x400000).rd (coreStore k' i) = s.rd (coreStore k i)) ∧
      s.sameOutside (s.copyStore (coreStore k 0) (coreStore k' 0) 0x400000) (coreStore k' 0) 0x400000 := by
  refine ⟨fun i hi => ?_, fun x hx => ?_⟩
  · rw [State.rd_coreStore, s.rd_coreStore, State.copyStore_mem, Memory.copied_read hm, if_pos (by unfold coreStore; omega)]
    exact congrArg _ (by unfold coreStore; omega)
  · refine State.rd_of_granule rfl rfl rfl fun y hy => ?_
    rw [State.copyStore_mem, Memory.copied_read hm, if_neg]
    unfold coreStore at hx ⊢
    omega

theorem State.cl_updCore (s : State) (k : Nat) (f : Core → Core) (d : Nat) : (s.updCore k f).cl d = s.cl d := rfl

/-- The replacement of a core whose jobs and Reels are gone. -/
theorem State.replaceResume_alone {s : State} {c f j n p sp : Nat} (hb : (s.cl c).spareBusy = some (f, j, 9, n))
    (ho : s.ownerCl c = some p) (hp : s.physCore c j = some sp)
    (hj : (s.jobsOn p ((s.logCl p c).getD 0) j).filter (fun n => (s.job p n).kind != 2#2) = [])
    (hr : ∀ i ∈ (s.part p).reels.keys, (s.reel p i).core = coreKey c sp → (s.reel p i).slots = []) :
    s.replaceResume c true = ((((((s.updCl c (fun x => { x with spareBusy := none })).updCore (coreKey c sp)
      (fun x => { x with lab := [] })).copyStore (coreStore (coreKey c f) 0) (coreStore (coreKey c sp) 0) 0x400000).schedule p).pump
        p)) := by
  have ho' : (s.updCl c (fun x => { x with spareBusy := none })).ownerCl c = some p := ho
  have hp' : (s.updCl c (fun x => { x with spareBusy := none })).physCore c j = some sp := by
    rw [← hp]
    unfold State.physCore
    rw [State.cl_updCl_same]
  have hreels : (s.part p).reels.keys.filter (fun i => !(s.reel p i).slots.isEmpty && (s.reel p i).core == coreKey c sp) = [] := by
    rw [List.filter_eq_nil_iff]
    intro i hi
    by_cases hc : (s.reel p i).core = coreKey c sp
    · simp [hr i hi hc]
    · simp [hc]
  unfold State.replaceResume
  rw [hb]
  dsimp only
  rw [ho', hp']
  generalize hv : s.updCl c (fun x => { x with spareBusy := none }) = v
  have hj' : (v.jobsOn p ((v.logCl p c).getD 0) j).filter (fun n => (v.job p n).kind != 2#2) = [] := by
    rw [← hv]
    exact hj
  dsimp only
  rw [hj']
  simp only [List.foldl_nil, List.filter_nil, Bool.not_true, Bool.false_eq_true, if_false, if_true]
  generalize hw : (v.updCore (coreKey c sp) (fun x => { x with lab := [] })).copyStore (coreStore (coreKey c f) 0)
    (coreStore (coreKey c sp) 0) 0x400000 = w
  have hreels' : (w.part p).reels.keys.filter (fun i => !(w.reel p i).slots.isEmpty && (w.reel p i).core == coreKey c sp) = [] := by
    rw [← hw, ← hv]
    exact hreels
  rw [hreels']
  rfl

theorem replaceResume_ends (c : Fin 8) (s : State) (f j p sp : Nat) (n : Nat) :
    s.live = true → Memory.wf s.mem = true → (s.cl c.val).ctl.fenced = false → (s.cl c.val).spareBusy = some (f, j, 9, n) →
    s.ownerCl c.val = some p → s.physCore c.val j = some sp → f ≠ sp → f < 9 → sp < 9 →
    (s.jobsOn p ((s.logCl p c.val).getD 0) j).filter (fun n => (s.job p n).kind != 2#2) = [] →
    (∀ i ∈ (s.part p).reels.keys, (s.reel p i).core = coreKey c.val sp → (s.reel p i).slots = []) →
    s.settled p → Claims.calm s p →
    ∃ t, exec (.replaceResume c true) s = .next t ∧ (t.cl c.val).spareBusy = none ∧
      (∀ i, i < 0x400000 → t.rd (coreStore (coreKey c.val sp) i) = s.rd (coreStore (coreKey c.val f) i)) ∧
      s.sameOutside t (coreStore (coreKey c.val sp) 0) 0x400000 ∧
      ∀ q, t.core q = { s.core q with lab := if q = coreKey c.val sp then [] else (s.core q).lab } := by
  intro hl hm hfen hb ho hp _ _ _ hj hr hs hc
  have hex : exec (.replaceResume c true) s = .next (s.replaceResume c.val true) :=
    (whenLive_live _ _ hl).trans (congrArg _ (if_neg (by rw [hfen]; decide)))
  rw [hex, State.replaceResume_alone hb ho hp hj hr]
  generalize hv : (s.updCl c.val (fun x => { x with spareBusy := none })).updCore (coreKey c.val sp) (fun x => { x with lab := [] }) = v
  have hvs : v = { s with clusters := v.clusters, cores := v.cores } := by rw [← hv]; rfl
  have hcl : ∀ d, (v.cl d).coremap = (s.cl d).coremap ∧ (v.cl d).pstate = (s.cl d).pstate ∧ (v.cl d).powered = (s.cl d).powered := by
    intro d
    rw [← hv]
    rw [State.cl_updCore]
    by_cases hd : d = c.val
    · subst hd
      rw [State.cl_updCl_same]
      exact ⟨rfl, rfl, rfl⟩
    · rw [State.cl_updCl_ne _ _ _ _ hd]
      exact ⟨rfl, rfl, rfl⟩
  have hspare : (v.cl c.val).spareBusy = none := by
    rw [← hv]
    rw [State.cl_updCore, State.cl_updCl_same]
  have hcore : ∀ q, v.core q = { s.core q with lab := if q = coreKey c.val sp then [] else (s.core q).lab } := by
    intro q
    rw [← hv]
    by_cases hq : q = coreKey c.val sp
    · rw [hq, State.core_updCore_same, if_pos rfl]
      rfl
    · rw [State.core_updCore_ne _ _ _ _ hq, if_neg hq]
      rfl
  have hrd : v.rd = s.rd := State.rd_congr (by rw [hvs]) (by rw [hvs]) (by rw [hvs]) (by rw [hvs])
  obtain ⟨hin, hout⟩ := State.copyStore_rd (s := v) (by rw [hvs]; exact hm) (coreKey c.val f) (coreKey c.val sp)
  have hf := v.copyStore_frame (coreStore (coreKey c.val f) 0) (coreStore (coreKey c.val sp) 0) 0x400000
  generalize v.copyStore (coreStore (coreKey c.val f) 0) (coreStore (coreKey c.val sp) 0) 0x400000 = w at hin hout hf ⊢
  have hwp : w.part p = s.part p := State.part_congr (by rw [hf, hvs]) p
  have hset : w.settled p := by
    refine State.sameStand.settled (s := s) ⟨by rw [hf, hvs], by rw [hwp], fun d => ?_, fun q => ?_, fun x hx => ?_⟩ hs
    · rw [State.cl_congr (s := v) (t := w) (by rw [hf])]
      exact hcl d
    · rw [State.core_congr (s := v) (t := w) (by rw [hf]), hcore]
    · rw [hwp] at hx
      exact ⟨x, hx, rfl, id⟩
  have hcmds : (w.func p).cmds = [] := by
    rw [State.func, show w.usb = s.usb by rw [hf, hvs]]
    exact hc.1
  rw [schedule_settled hset, State.pump_none w p hcmds]
  refine ⟨w, rfl, ?_, fun i hi => ?_, ?_, fun q => ?_⟩
  · rw [State.cl_congr (s := v) (t := w) (by rw [hf])]
    exact hspare
  · rw [hin i hi, hrd]
  · exact (State.sameOutside_of hrd _ _).trans hout
  · rw [State.core_congr (s := v) (t := w) (by rw [hf]), hcore]

/-- Settles O7: a prepared step whose count has come starts its threads, a step that has ended completes its command, a switch that
ends restores the slots saved of the core, and a replacement that ends has copied the store. -/
theorem stepsRun : Obligations.StepsRun :=
  ⟨launchStart_starts, stepBoundary_ends, contextSwitchEnd_ends, replaceResume_ends⟩

end Sys2Proof.Machine
end

section
/-! Host commands on jobs, steps and sequences (R396, R485, R486, R494, R519, R605, R621). -/
namespace Sys2Proof.Machine

/-! ### What a command changes of a job -/

/-- Only the table of a partition's jobs changes, and no job of it comes to stand elsewhere. -/
structure State.jobEdit (s t : State) (p : Nat) : Prop where
  frame : t = { s with parts := t.parts }
  stand : s.sameStand t p

theorem State.sameStand.trans {s t u : State} {p : Nat} (h : s.sameStand t p) (g : t.sameStand u p) : s.sameStand u p where
  dev := g.dev.trans h.dev
  lmap := g.lmap.trans h.lmap
  cl c := by
    obtain ⟨a, b, d⟩ := h.cl c
    obtain ⟨a', b', d'⟩ := g.cl c
    exact ⟨a'.trans a, b'.trans b, d'.trans d⟩
  job k := (g.job k).trans (h.job k)
  jobs x hx := by
    obtain ⟨y, hy, hp, hs⟩ := g.jobs x hx
    obtain ⟨z, hz, hp', hs'⟩ := h.jobs y hy
    exact ⟨z, hz, hp.trans hp', fun hz => hs (hs' hz)⟩

theorem State.jobEdit_refl (s : State) (p : Nat) : s.jobEdit s p :=
  ⟨rfl, rfl, rfl, fun _ => ⟨rfl, rfl, rfl⟩, fun _ => rfl, fun x hx => ⟨x, hx, rfl, id⟩⟩

theorem State.jobEdit.trans {s t u : State} {p : Nat} (h : s.jobEdit t p) (g : t.jobEdit u p) : s.jobEdit u p :=
  ⟨by rw [g.frame, h.frame], h.stand.trans g.stand⟩

theorem State.updJob_jobEdit {s : State} {p j : Nat} (hj : (s.part p).jobs.has j = true) {f : Job → Job}
    (hp : (f (s.job p j)).placed = (s.job p j).placed) (hs : (s.job p j).still → (f (s.job p j)).still) : s.jobEdit (s.updJob p j f) p where
  frame := rfl
  stand := {
    dev := rfl
    lmap := by rw [State.updJob, State.part_updPart_same]
    cl := fun _ => ⟨rfl, rfl, rfl⟩
    job := fun _ => rfl
    jobs := fun x hx => by
      rw [State.updJob_jobs] at hx
      rcases SMap.mem_upd_has hx with rfl | hx
      · exact ⟨_, State.has_job hj, hp, hs⟩
      · exact ⟨x, hx, rfl, id⟩ }

theorem State.has_updJob (s : State) (p j : Nat) (f : Job → Job) : ((s.updJob p j f).part p).jobs.has j = true := by
  rw [State.updJob_jobs]
  exact SMap.has_upd _ _ _ _

theorem State.hostFrame.stand {s t : State} {p : Nat} (h : s.hostFrame t p) : s.sameStand t p where
  dev := h.dev
  lmap := by rw [h.part p]
  cl c := by rw [h.cl c]; exact ⟨rfl, rfl, rfl⟩
  job k := by rw [State.core_congr h.cores]
  jobs x hx := ⟨x, by rw [← h.jobs p]; exact hx, rfl, id⟩

theorem State.hostFrame.job {s t : State} {p : Nat} (h : s.hostFrame t p) (q j : Nat) : t.job q j = s.job q j := by
  rw [State.job, h.jobs, State.job]

theorem State.done1_stand (s : State) (p : Nat) (c : HCmd) (st fc d0 : Nat) : s.sameStand (s.done1 p c st fc d0) p := by
  have hd := s.done1_frame p c st fc d0
  have hpart := State.part_congr (s := s) (t := s.done1 p c st fc d0) (by rw [hd]) p
  refine ⟨by rw [hd], by rw [hpart], fun k => ?_, fun k => ?_, fun x hx => ⟨x, by rw [← hpart]; exact hx, rfl, id⟩⟩
  · rw [State.cl_congr (s := s) (t := s.done1 p c st fc d0) (by rw [hd]) k]
    exact ⟨rfl, rfl, rfl⟩
  · rw [State.core_congr (s := s) (t := s.done1 p c st fc d0) (by rw [hd]) k]

/-- A command that completes and changes only jobs of a partition at rest: the scheduler does nothing. -/
theorem State.starts.edited {s t u : State} {p opc : Nat} {h : CmdHdr} (ht : s.starts t p opc h .none) (hs : s.settled p)
    (hu : t.jobEdit u p) (st fc d0 : Nat) :
    ∃ v, (u.done1 p (s.newCmd p opc h .none) st fc d0).schedule p = v ∧ s.completes v p h opc st fc d0 ∧ v.parts = u.parts := by
  have hset := (((ht.frame.stand.trans hu.stand).trans (u.done1_stand p (s.newCmd p opc h .none) st fc d0))).settled hs
  refine ⟨_, schedule_settled hset, State.done1_completes ?_ ?_ ?_ st fc d0, by rw [u.done1_frame]⟩
  · rw [State.func, hu.frame]
    exact ht.func
  · rw [hu.frame]
    exact ht.frame.nsW
  · rw [hu.frame]
    exact ht.frame.cycle

/-- A command that is held and changes only jobs of a partition at rest. -/
theorem State.starts.editHolds {s t u : State} {p opc : Nat} {h : CmdHdr} (ht : s.starts t p opc h .none) (hs : s.settled p)
    (hu : t.jobEdit u p) : u.schedule p = u ∧ s.holdsCmd u p h opc :=
  ⟨schedule_settled ((ht.frame.stand.trans hu.stand).settled hs), ht.holds (by rw [State.func, hu.frame]; rfl)⟩

/-! ### The commands at their start -/

section
variable {t : State} {p : Nat} {c : HCmd}

theorem State.startCmd_create (ho : c.opc.toNat = 0x01) (hl : t.cmdIllegal p 0x01 c.hdr = false) : t.startCmd p c = t.doCreate p c := by
  unfold State.startCmd
  rw [ho]
  exact if_neg (Bool.eq_false_iff.mp hl)

theorem State.startCmd_set (ho : c.opc.toNat = 0x02) (hl : t.cmdIllegal p 0x02 c.hdr = false) : t.startCmd p c = t.doSet p c := by
  unfold State.startCmd
  rw [ho]
  exact if_neg (Bool.eq_false_iff.mp hl)

/-- A job whose JOB_DESTROY has started. -/
def State.destroying (t : State) (p j n : Nat) : State := t.updJob p j (fun x => { x with destroy := some n })

theorem State.startCmd_destroy (ho : c.opc.toNat = 0x03) (hl : t.cmdIllegal p 0x03 c.hdr = false) :
    t.startCmd p c = if (t.destroying p c.hdr.job.toNat c.serial).atSwitch p c.hdr.job.toNat then
      ((t.destroying p c.hdr.job.toNat c.serial).removeJob p c.hdr.job.toNat).schedule p
    else t.destroying p c.hdr.job.toNat c.serial := by
  unfold State.startCmd
  rw [ho]
  exact if_neg (Bool.eq_false_iff.mp hl)

theorem State.startCmd_step (ho : c.opc.toNat = 0x04) (hl : t.cmdIllegal p 0x04 c.hdr = false) :
    t.startCmd p c = t.beginStep p c.hdr.job.toNat (c.serial + 1) c.hdr.arg0
      (if c.hdr.arg1 = 0#64 then none else some c.hdr.arg1.toNat) := by
  unfold State.startCmd
  rw [ho]
  exact if_neg (Bool.eq_false_iff.mp hl)

theorem State.startCmd_admit (ho : c.opc.toNat = 0x05) (hl : t.cmdIllegal p 0x05 c.hdr = false) : t.startCmd p c = t.doAdmit p c := by
  unfold State.startCmd
  rw [ho]
  exact if_neg (Bool.eq_false_iff.mp hl)

theorem State.startCmd_run (ho : c.opc.toNat = 0x06) (hl : t.cmdIllegal p 0x06 c.hdr = false) : t.startCmd p c = t.doRun p c := by
  unfold State.startCmd
  rw [ho]
  exact if_neg (Bool.eq_false_iff.mp hl)

theorem State.startCmd_end (ho : c.opc.toNat = 0x07) (hl : t.cmdIllegal p 0x07 c.hdr = false) : t.startCmd p c = t.doEnd p c := by
  unfold State.startCmd
  rw [ho]
  exact if_neg (Bool.eq_false_iff.mp hl)

end

/-! ### JOB_CREATE -/

/-- A job as JOB_CREATE queues it. -/
def State.newJob (s : State) (p : Nat) (b : List Byte) : Job :=
  { jobOf b with admNo := (s.part p).nextAdmit, lock := (s.part p).lockstep }

/-- The table of a partition with the new job. -/
def State.queueJob (s : State) (p : Nat) (b : List Byte) : State :=
  s.updPart p (fun x => { x with
    nextJob := (s.part p).nextJob + 1, nextAdmit := (s.part p).nextAdmit + 1
    jobs := x.jobs.put (s.part p).nextJob { jobOf b with admNo := (s.part p).nextAdmit, lock := x.lockstep } })

theorem Job.ok.still {x : Job} (h : x.ok = true) (hh : x.held = []) (hv : x.victim = false) (hd : x.destroy = none) (hp : x.placed = []) :
    x.still := by
  simp only [Job.ok, Bool.and_eq_true, Bool.or_eq_true, Bool.not_eq_true', decide_eq_true_eq, beq_iff_eq] at h
  obtain ⟨⟨⟨⟨⟨⟨⟨⟨-, -⟩, h1⟩, -⟩, hw⟩, -⟩, -⟩, -⟩, -⟩ := h
  exact ⟨hh, hv, hd, h1, fun hx => by rcases hw with hw | hw; simp [hx] at hw; omega, .inl hp⟩

theorem State.queueJob_settled {s : State} {p : Nat} {b : List Byte} (hs : s.settled p) (hf : ∀ b, s.freeCores p b = [])
    (hb : (jobOf b).ok = true) : (s.queueJob p b).settled p := by
  have hstill : (s.newJob p b).still := Job.ok.still hb rfl rfl rfl rfl
  have hlmap : ((s.queueJob p b).part p).lmap = (s.part p).lmap := by rw [State.queueJob, State.part_updPart_same]
  have hlog : ∀ l j, (s.queueJob p b).logKey p l j = s.logKey p l j := fun l j => by
    unfold State.logKey State.physCl
    rw [hlmap]
    rfl
  refine ⟨fun x hx => ?_, .inl (State.freeCores_nil fun l j hl hj k hk => ?_)⟩
  · rw [State.queueJob, State.part_updPart_same] at hx
    rcases SMap.mem_put _ _ _ _ hx with rfl | hx
    · exact hstill
    · exact hs.1 x hx
  · rw [hlog] at hk
    exact State.noneFree_of (hf true) l j hl hj k hk

theorem State.doCreate_queues {t : State} {p : Nat} {c : HCmd} (hch : blockChg c.hdr.payload = 0) (hok : (jobOf c.hdr.payload).ok = true)
    (hck : (t.cl (t.lead p)).ckpt = false) :
    t.doCreate p c = ((t.queueJob p c.hdr.payload).done1 p c stOk 0 (t.part p).nextJob).schedule p := by
  unfold State.doCreate
  dsimp only
  rw [if_neg (by simp [hch, hok]), if_neg (by simp [hck])]
  rfl

theorem State.doCreate_refused {t : State} {p : Nat} {c : HCmd} (h : blockChg c.hdr.payload ≠ 0 ∨ (jobOf c.hdr.payload).ok = false) :
    t.doCreate p c = t.done1 p c stRefused 0 0 := by
  unfold State.doCreate
  exact if_pos (by simpa using h)

theorem State.hostFrame.freeCores {s t : State} {p : Nat} (h : s.hostFrame t p) (hf : ∀ b, s.freeCores p b = []) (b : Bool) :
    t.freeCores p b = [] :=
  State.freeCores_nil (fun l j hl hj k hk => by
    rw [h.stand.logKey] at hk
    rw [h.stand.job, h.stand.engineUp]
    exact State.noneFree_of (hf true) l j hl hj k hk) b

theorem jobCreate_queues (q : Fin 8) (h : CmdHdr) (s : State) (ht : s.takes q.val 0x01 h) (hleg : s.cmdIllegal q.val 0x01 h = false)
    (hs : s.settled q.val) (hf : ∀ b, s.freeCores q.val b = []) (hch : blockChg h.payload = 0) (hok : (jobOf h.payload).ok = true)
    (hck : (s.cl (s.lead q.val)).ckpt = false) :
    ∃ t, exec (.jobCreate q h) s = .next t ∧ s.completes t q.val h 0x01 0 0 (s.part q.val).nextJob ∧
      (t.part q.val).jobs.find (s.part q.val).nextJob = some (s.newJob q.val h.payload) ∧
      (t.part q.val).nextJob = (s.part q.val).nextJob + 1 ∧ t.cores = s.cores := by
  obtain ⟨t, hex, hst, hleg, hopc⟩ := State.runs_legal ht (by decide) (i := .jobCreate q h) rfl hleg fun t _ =>
    t.cmdFree_of_opc _ _ (by rw [s.newCmd_opc _ 0x01 h .none (by decide)]; decide)
  have hpart := hst.frame.part q.val
  have hlead : t.lead q.val = s.lead q.val := State.lead_congr hst.frame.dev _
  have hrun := (State.startCmd_create hopc hleg).trans (State.doCreate_queues (t := t) (p := q.val) (c := s.newCmd q.val 0x01 h .none)
    hch hok (by rw [hlead, hst.frame.cl]; exact hck))
  have hset := ((t.queueJob q.val h.payload).done1_stand q.val (s.newCmd q.val 0x01 h .none) stOk 0 (t.part q.val).nextJob).settled
    (State.queueJob_settled (b := h.payload) (hst.frame.stand.settled hs) (hst.frame.freeCores hf) hok)
  have hnext : (t.part q.val).nextJob = (s.part q.val).nextJob := by rw [hpart]
  have hd := (t.queueJob q.val h.payload).done1_frame q.val (s.newCmd q.val 0x01 h .none) stOk 0 (t.part q.val).nextJob
  have hcomp : s.completes _ q.val h 0x01 0 0 (t.part q.val).nextJob := State.done1_completes (t := t.queueJob q.val h.payload)
    (e := .none) hst.func hst.frame.nsW hst.frame.cycle stOk 0 (t.part q.val).nextJob
  have hrun : exec (.jobCreate q h) s = .next ((t.queueJob q.val h.payload).done1 q.val (s.newCmd q.val 0x01 h .none) stOk 0
      (t.part q.val).nextJob) := hex.trans (congrArg _ (hrun.trans (schedule_settled hset)))
  have hfinal : (t.queueJob q.val h.payload).part q.val = { s.part q.val with
      freeCtr := (t.part q.val).freeCtr, nextJob := (s.part q.val).nextJob + 1, nextAdmit := (s.part q.val).nextAdmit + 1
      jobs := (s.part q.val).jobs.put (s.part q.val).nextJob (s.newJob q.val h.payload) } := by
    rw [State.queueJob, State.part_updPart_same, hpart]
    rfl
  generalize (t.queueJob q.val h.payload).done1 q.val _ stOk 0 _ = v at hrun hd hcomp
  have hv : v.part q.val = (t.queueJob q.val h.payload).part q.val := State.part_congr (by rw [hd]) _
  rw [hnext] at hcomp
  refine ⟨v, hrun, hcomp, ?_, ?_, ?_⟩
  · rw [hv, hfinal]
    exact SMap.find_put_same _ _ _
  · rw [hv, hfinal]
  · rw [hd]
    exact hst.frame.cores

/-! ### JOB_SET and JOB_DESTROY -/

theorem State.sameStand.jobCores {s t : State} {p : Nat} (h : s.sameStand t p) {j : Nat} (hj : (t.job p j).placed = (s.job p j).placed) :
    t.jobCores p j = s.jobCores p j := by
  unfold State.jobCores
  rw [hj]
  simp only [h.logKey]

theorem State.atSwitch_congr {s t : State} {p j : Nat} (h : s.sameStand t p) (hc : t.cores = s.cores)
    (hk : (t.job p j).kind = (s.job p j).kind) (hp : (t.job p j).placed = (s.job p j).placed)
    (hr : (t.job p j).running = (s.job p j).running) : t.atSwitch p j = s.atSwitch p j := by
  have hidle : ∀ k, t.chunkIdle k = s.chunkIdle k := fun k => by
    unfold State.chunkIdle
    rw [State.core_congr hc k]
  unfold State.atSwitch
  dsimp only
  rw [hk, h.jobCores hp, hr]
  simp only [hidle]

theorem State.hostFrame.atSwitch {s t : State} {p : Nat} (h : s.hostFrame t p) (j : Nat) : t.atSwitch p j = s.atSwitch p j :=
  State.atSwitch_congr h.stand h.cores (by rw [h.job]) (by rw [h.job]) (by rw [h.job])

theorem State.cmdIllegal_job {s : State} {p opc : Nat} {h : CmdHdr} {n : Nat} {f : Nat → Bool} (hs : cmdShape opc = some (n, true, f))
    (hl : s.cmdIllegal p opc h = false) : (s.part p).jobs.has h.job.toNat = true := by
  cases hh : (s.part p).jobs.has h.job.toNat with
  | true => rfl
  | false => exact absurd (s.cmdIllegal_of_header p opc n true f h hs (.inr (.inr hh))) (by rw [hl]; decide)

theorem State.doSet_rest {t : State} {p : Nat} {c : HCmd} (hok : (t.job p c.hdr.job.toNat).setOk c.hdr.payload = true)
    (ha : t.atSwitch p c.hdr.job.toNat = true) :
    t.doSet p c = ((t.updJob p c.hdr.job.toNat (fun x => x.setFrom c.hdr.payload)).done1 p c stOk 0 0).schedule p := by
  unfold State.doSet State.jobBusy
  dsimp only
  rw [hok, ha]
  rfl

theorem State.doSet_busy {t : State} {p : Nat} {c : HCmd} (hok : (t.job p c.hdr.job.toNat).setOk c.hdr.payload = true)
    (ha : t.atSwitch p c.hdr.job.toNat = false) :
    t.doSet p c = ((t.updJob p c.hdr.job.toNat (fun x => { x with pendingSet := x.pendingSet ++ [c.hdr.payload] })).done1 p c
      stOk 0 0).schedule p := by
  unfold State.doSet State.jobBusy
  dsimp only
  rw [hok, ha]
  rfl

theorem Job.still.setFrom {x : Job} (h : x.still) (hp : x.placed = []) (b : List Byte) : (x.setFrom b).still :=
  ⟨h.held, h.victim, h.destroy, h.cores, h.whole, .inl hp⟩

/-- A command that changes its job, whose place stays, and completes. -/
theorem State.starts.editsJob {s t : State} {p opc : Nat} {h : CmdHdr} (ht : s.starts t p opc h .none) (hs : s.settled p) {j : Nat}
    (hj : (s.part p).jobs.has j = true) (f : Job → Job) (hp : (f (s.job p j)).placed = (s.job p j).placed)
    (hst : (s.job p j).still → (f (s.job p j)).still) (st fc d0 : Nat) :
    ∃ v, ((t.updJob p j f).done1 p (s.newCmd p opc h .none) st fc d0).schedule p = v ∧ s.completes v p h opc st fc d0 ∧
      v.job p j = f (s.job p j) := by
  have hjob := ht.frame.job p j
  have hedit : t.jobEdit (t.updJob p j f) p := State.updJob_jobEdit (by rw [ht.frame.jobs]; exact hj) (by rw [hjob]; exact hp)
    (by rw [hjob]; exact hst)
  obtain ⟨v, hv, hcomp, hparts⟩ := ht.edited hs hedit st fc d0
  refine ⟨v, hv, hcomp, ?_⟩
  rw [State.job, State.part_congr hparts p, ← State.job, State.job_updJob_same, hjob]

theorem jobSet_rest (q : Fin 8) (h : CmdHdr) (s : State) (ht : s.takes q.val 0x02 h) (hleg : s.cmdIllegal q.val 0x02 h = false)
    (hs : s.settled q.val) (hok : (s.job q.val h.job.toNat).setOk h.payload = true) (hp : (s.job q.val h.job.toNat).placed = [])
    (ha : s.atSwitch q.val h.job.toNat = true) :
    ∃ t, exec (.jobSet q h) s = .next t ∧ s.completes t q.val h 0x02 0 0 0 ∧
      t.job q.val h.job.toNat = (s.job q.val h.job.toNat).setFrom h.payload := by
  have hhas := State.cmdIllegal_job rfl hleg
  obtain ⟨t, hex, hst, hleg, hopc⟩ := State.runs_legal ht (by decide) (i := .jobSet q h) rfl hleg fun t _ =>
    t.cmdFree_of_opc _ _ (by rw [s.newCmd_opc _ 0x02 h .none (by decide)]; decide)
  obtain ⟨v, hv, hcomp, hjob⟩ := hst.editsJob hs hhas (fun x => x.setFrom h.payload) rfl (fun hx => hx.setFrom hp _) stOk 0 0
  refine ⟨v, hex.trans (congrArg _ ((State.startCmd_set hopc hleg).trans ((State.doSet_rest ?_ ?_).trans hv))), hcomp, hjob⟩
  · rw [hst.frame.job]
    exact hok
  · rw [hst.frame.atSwitch]
    exact ha

theorem jobSet_busy (q : Fin 8) (h : CmdHdr) (s : State) (ht : s.takes q.val 0x02 h) (hleg : s.cmdIllegal q.val 0x02 h = false)
    (hs : s.settled q.val) (hok : (s.job q.val h.job.toNat).setOk h.payload = true) (ha : s.atSwitch q.val h.job.toNat = false) :
    ∃ t, exec (.jobSet q h) s = .next t ∧ s.completes t q.val h 0x02 0 0 0 ∧
      t.job q.val h.job.toNat = { s.job q.val h.job.toNat with
        pendingSet := (s.job q.val h.job.toNat).pendingSet ++ [h.payload] } := by
  have hhas := State.cmdIllegal_job rfl hleg
  obtain ⟨t, hex, hst, hleg, hopc⟩ := State.runs_legal ht (by decide) (i := .jobSet q h) rfl hleg fun t _ =>
    t.cmdFree_of_opc _ _ (by rw [s.newCmd_opc _ 0x02 h .none (by decide)]; decide)
  obtain ⟨v, hv, hcomp, hjob⟩ := hst.editsJob hs hhas (fun x => { x with pendingSet := x.pendingSet ++ [h.payload] }) rfl
    (fun hx => ⟨hx.1, hx.2, hx.3, hx.4, hx.5, hx.6⟩) stOk 0 0
  refine ⟨v, hex.trans (congrArg _ ((State.startCmd_set hopc hleg).trans ((State.doSet_busy ?_ ?_).trans hv))), hcomp, hjob⟩
  · rw [hst.frame.job]
    exact hok
  · rw [hst.frame.atSwitch]
    exact ha

theorem State.destroying_atSwitch (t : State) (p j n : Nat) : (t.destroying p j n).atSwitch p j = t.atSwitch p j := by
  have hjob : (t.destroying p j n).job p j = { t.job p j with destroy := some n } := State.job_updJob_same _ _ _ _
  have hcores : (t.destroying p j n).jobCores p j = t.jobCores p j := t.jobCores_updJob p j (f := fun x => { x with destroy := some n })
    fun _ => rfl
  unfold State.atSwitch
  rw [hjob, hcores]
  rfl

/-- A job without cores and sequences leaves its partition's table, and its JOB_DESTROY completes. -/
theorem State.removeJob_idle {u : State} {p j n : Nat} (hp : (u.job p j).placed = []) (hq : (u.job p j).seqs = [])
    (hd : (u.job p j).destroy = some n) (hc : ∀ c ∈ (u.func p).cmds, c.started = true) :
    u.removeJob p j = (u.updPart p (fun y => { y with jobs := y.jobs.erase j })).complete p n stOk 0 0 0 := by
  have hw : (u.func p).cmds.filter (fun c => !c.started && c.hdr.job.toNat == j && some c.serial != (u.job p j).destroy) = [] :=
    List.filter_eq_nil_iff.mpr fun c hm => by rw [hc c hm]; simp
  unfold State.removeJob
  dsimp only
  rw [hp, hq]
  simp only [List.zip_nil_left, List.foldl_nil, List.filterMap_nil]
  rw [hw, hd]
  rfl

theorem jobDestroy_done (q : Fin 8) (h : CmdHdr) (s : State) (ht : s.takes q.val 0x03 h) (hleg : s.cmdIllegal q.val 0x03 h = false)
    (hs : s.settled q.val) (hp : (s.job q.val h.job.toNat).placed = []) (hq : (s.job q.val h.job.toNat).seqs = [])
    (ha : s.atSwitch q.val h.job.toNat = true) :
    ∃ t, exec (.jobDestroy q h) s = .next t ∧ s.completes t q.val h 0x03 0 0 0 ∧ (t.part q.val).jobs.has h.job.toNat = false := by
  obtain ⟨t, hex, hst, hleg, hopc⟩ := State.runs_legal ht (by decide) (i := .jobDestroy q h) rfl hleg fun t _ =>
    t.cmdFree_of_opc _ _ (by rw [s.newCmd_opc _ 0x03 h .none (by decide)]; decide)
  have hsw : (t.destroying q.val h.job.toNat (s.func q.val).serial).atSwitch q.val h.job.toNat = true := by
    rw [State.destroying_atSwitch, hst.frame.atSwitch]
    exact ha
  have hrun := (State.startCmd_destroy hopc hleg).trans (if_pos hsw)
  have hjob : (t.destroying q.val h.job.toNat (s.func q.val).serial).job q.val h.job.toNat =
      { s.job q.val h.job.toNat with destroy := some (s.func q.val).serial } :=
    (State.job_updJob_same _ _ _ _).trans (by rw [hst.frame.job])
  have hidle := State.removeJob_idle (n := (s.func q.val).serial) (by rw [hjob]; exact hp) (by rw [hjob]; exact hq) (by rw [hjob])
    (u := t.destroying q.val h.job.toNat (s.func q.val).serial) (p := q.val) fun c hc => by
      have hc : c ∈ (t.func q.val).cmds := hc
      rw [hst.func] at hc
      rw [List.mem_singleton.mp hc]
  have hedit : t.jobEdit ((t.destroying q.val h.job.toNat (s.func q.val).serial).updPart q.val
      (fun y => { y with jobs := y.jobs.erase h.job.toNat })) q.val := by
    refine ⟨rfl, rfl, ?_, fun _ => ⟨rfl, rfl, rfl⟩, fun _ => rfl, fun x hx => ⟨x, ?_, rfl, id⟩⟩
    · rw [State.part_updPart_same, State.destroying, State.updJob, State.part_updPart_same]
    · rw [State.part_updPart_same] at hx
      obtain ⟨hx, hne⟩ := List.mem_filter.mp hx
      rw [State.destroying, State.updJob_jobs] at hx
      rcases SMap.mem_upd_has hx with rfl | hx
      · exact absurd rfl (bne_iff_ne.mp hne)
      · exact hx
  obtain ⟨v, hv, hcomp, hparts⟩ := hst.edited hs hedit stOk 0 0
  have hfin := congrArg (fun u : State => u.schedule q.val) hidle
  refine ⟨v, hex.trans (congrArg _ (hrun.trans (hfin.trans hv))), hcomp, ?_⟩
  rw [State.part_congr hparts, State.part_updPart_same, SMap.has, SMap.find_erase_same]
  rfl

theorem jobDestroy_held (q : Fin 8) (h : CmdHdr) (s : State) (ht : s.takes q.val 0x03 h) (hleg : s.cmdIllegal q.val 0x03 h = false)
    (ha : s.atSwitch q.val h.job.toNat = false) :
    ∃ t, exec (.jobDestroy q h) s = .next t ∧ s.holdsCmd t q.val h 0x03 ∧
      t.job q.val h.job.toNat = { s.job q.val h.job.toNat with destroy := some (s.func q.val).serial } := by
  obtain ⟨t, hex, hst, hleg, hopc⟩ := State.runs_legal ht (by decide) (i := .jobDestroy q h) rfl hleg fun t _ =>
    t.cmdFree_of_opc _ _ (by rw [s.newCmd_opc _ 0x03 h .none (by decide)]; decide)
  have hsw : (t.destroying q.val h.job.toNat (s.func q.val).serial).atSwitch q.val h.job.toNat = false := by
    rw [State.destroying_atSwitch, hst.frame.atSwitch]
    exact ha
  refine ⟨_, hex.trans (congrArg _ ((State.startCmd_destroy hopc hleg).trans (if_neg (Bool.eq_false_iff.mp hsw)))), hst.holds rfl, ?_⟩
  refine (State.job_updJob_same _ _ _ _).trans ?_
  exact congrArg (fun x : Job => { x with destroy := some (s.func q.val).serial }) (hst.frame.job q.val h.job.toNat)

end Sys2Proof.Machine
end

section
/-! STEP and the commands on sequences (R45 to R47, R396, R494, R605), and the host commands on jobs together. -/
namespace Sys2Proof.Machine

/-! ### STEP -/

/-- A job whose step begins at a count, or at once. -/
def Job.begun (n : Nat) (arg : BitVec 64) (late : BitVec 64) (at_ : Option (BitVec 64)) (x : Job) : Job := { x with
  running := some n, argBlk := arg, faulted := false, again := false, launched := false, changed := [], wrote := []
  moved := false, fcode := 0#8, late := late, startAt := at_ }

theorem State.beginStep_now (s : State) (p j n : Nat) (arg : BitVec 64) :
    s.beginStep p j n arg none = (s.updJob p j (Job.begun n arg 0#64 none)).launch p j := by
  have hn : ¬ s.ns > s.ns := Nat.lt_irrefl _
  unfold State.beginStep
  simp only [Option.getD_none, if_neg hn, Nat.sub_self]
  exact if_neg hn

theorem State.mayLaunch_congr {s t : State} {p j : Nat} (hj : t.job p j = s.job p j) (hs : s.sameStand t p)
    (hb : ∀ c, (t.cl c).spareBusy = (s.cl c).spareBusy) (hsig : (t.part p).sigs = (s.part p).sigs) :
    t.mayLaunch p j = s.mayLaunch p j := by
  have hown : t.own p = s.own p := by rw [State.own, hs.dev, State.own]
  have hphys : ∀ l, t.physCl p l = s.physCl p l := fun l => by
    unfold State.physCl
    rw [hs.lmap, hown]
  unfold State.mayLaunch
  dsimp only
  rw [hj, hsig]
  simp only [hphys, hb]

theorem State.hostFrame.mayLaunch {s t : State} {p : Nat} (h : s.hostFrame t p) (j : Nat) : t.mayLaunch p j = s.mayLaunch p j :=
  State.mayLaunch_congr (h.job p j) h.stand (fun c => by rw [h.cl c]) (by rw [h.part p])

theorem State.cmdFree_step {s t : State} {p : Nat} {h : CmdHdr} (hf : s.hostFrame t p) (hm : s.mayLaunch p h.job.toNat = true) :
    t.cmdFree p (s.newCmd p 0x04 h .none) = true := by
  unfold State.cmdFree
  rw [s.newCmd_opc p 0x04 h .none (by decide)]
  exact Bool.or_eq_true_iff.mpr (.inr ((hf.mayLaunch _).trans hm))

theorem State.hostFrame.logOf {s t : State} {p : Nat} (h : s.hostFrame t p) (k : Nat) : t.logOf k = s.logOf k := by
  have hcore : t.logCore = s.logCore := by
    funext c i
    unfold State.logCore State.physCore
    rw [h.cl c]
  unfold State.logOf
  rw [h.sameMap.partOf, h.logCl, hcore]

theorem step_starts (q : Fin 8) (h : CmdHdr) (s : State) (ht : s.takes q.val 0x04 h) (hleg : s.cmdIllegal q.val 0x04 h = false)
    (hm : s.mayLaunch q.val h.job.toNat = true) (h0 : h.arg1 = 0#64)
    (hp : ∀ y ∈ (s.job q.val h.job.toNat).placed, ∃ k, s.logKey q.val y.1 y.2 = some k ∧ (s.cl (keyCl k)).powered = true)
    (hn : ∀ k, s.noTrace k) :
    ∃ t, exec (.step q h) s = .next t ∧ s.holdsCmd t q.val h 0x04 ∧
      (t.job q.val h.job.toNat).running = some ((s.func q.val).serial + 1) ∧ (t.job q.val h.job.toNat).late = 0#64 ∧
      Claims.stepStarts s t q.val h.job.toNat h.arg0 ∧ t.mem = s.mem := by
  obtain ⟨t, hex, hst, hleg, hopc⟩ := State.runs_legal ht (by decide) (i := .step q h) rfl hleg fun t hf => State.cmdFree_step hf hm
  have hrun := (State.startCmd_step hopc hleg).trans ((congrArg (t.beginStep q.val h.job.toNat ((s.func q.val).serial + 1) h.arg0)
    (if_pos h0)).trans (t.beginStep_now q.val h.job.toNat ((s.func q.val).serial + 1) h.arg0))
  have hframe : t.updJob q.val h.job.toNat (Job.begun ((s.func q.val).serial + 1) h.arg0 0#64 none) = { t with
    parts := (t.updJob q.val h.job.toNat (Job.begun ((s.func q.val).serial + 1) h.arg0 0#64 none)).parts } := rfl
  have hjob : (t.updJob q.val h.job.toNat (Job.begun ((s.func q.val).serial + 1) h.arg0 0#64 none)).job q.val h.job.toNat =
      Job.begun ((s.func q.val).serial + 1) h.arg0 0#64 none (s.job q.val h.job.toNat) :=
    (State.job_updJob_same _ _ _ _).trans (by rw [hst.frame.job])
  have hlog := t.logKey_updJob q.val h.job.toNat (Job.begun ((s.func q.val).serial + 1) h.arg0 0#64 none)
  have hg2 : ∀ k n, (t.updJob q.val h.job.toNat (Job.begun ((s.func q.val).serial + 1) h.arg0 0#64 none)).g2At k n = s.g2At k n := by
    intro k n
    unfold State.g2At
    rw [State.logOf_updJob, hst.frame.logOf]
  generalize t.updJob q.val h.job.toNat (Job.begun ((s.func q.val).serial + 1) h.arg0 0#64 none) = u at hrun hframe hjob hlog hg2
  have hlog' : ∀ l j, u.logKey q.val l j = s.logKey q.val l j := fun l j => (hlog l j).trans (hst.frame.stand.logKey l j)
  obtain ⟨hf, hlj, hstarts⟩ := State.launch_starts (s := u) (p := q.val) (j := h.job.toNat) (fun y hy => by
      rw [hjob] at hy
      obtain ⟨k, hk, hpw⟩ := hp y hy
      refine ⟨k, (hlog' _ _).trans hk, ?_⟩
      rw [State.cl_congr (s := t) (t := u) (by rw [hframe]), hst.frame.cl]
      exact hpw) fun k => State.noTrace_congr (by rw [hframe]; exact hst.frame.dbg) (hn k)
  have hjc : u.jobCores q.val h.job.toNat = s.jobCores q.val h.job.toNat := by
    unfold State.jobCores
    rw [hjob]
    simp only [hlog']
    rfl
  refine ⟨_, hex.trans (congrArg _ hrun), hst.holds ?_, ?_, ?_, ?_, ?_⟩
  · rw [State.func, hf, hframe]
    rfl
  · rw [hlj, hjob]
    rfl
  · rw [hlj, hjob]
    rfl
  · unfold Claims.stepStarts at hstarts ⊢
    rw [hjc, hjob] at hstarts
    simp only [hg2] at hstarts
    exact hstarts
  · rw [hf, hframe]
    exact hst.frame.mem

theorem step_prepared (q : Fin 8) (h : CmdHdr) (s : State) (ht : s.takes q.val 0x04 h) (hleg : s.cmdIllegal q.val 0x04 h = false)
    (hm : s.mayLaunch q.val h.job.toNat = true) (hns : s.ns < h.arg1.toNat) :
    ∃ t, exec (.step q h) s = .next t ∧ s.holdsCmd t q.val h 0x04 ∧
      (t.job q.val h.job.toNat).startAt = some h.arg1 ∧ (t.job q.val h.job.toNat).argBlk = h.arg0 ∧ t.cores = s.cores := by
  obtain ⟨t, hex, hst, hleg, hopc⟩ := State.runs_legal ht (by decide) (i := .step q h) rfl hleg fun t hf => State.cmdFree_step hf hm
  have hne : h.arg1 ≠ 0#64 := fun h0 => by rw [h0] at hns; exact absurd hns (Nat.not_lt_zero _)
  have htns : t.ns < h.arg1.toNat := by
    have : t.ns = s.ns := by rw [State.ns, hst.frame.1]; rfl
    rw [this]
    exact hns
  refine ⟨_, hex.trans (congrArg _ ((State.startCmd_step hopc hleg).trans
    ((congrArg (t.beginStep q.val h.job.toNat ((s.func q.val).serial + 1) h.arg0) (if_neg hne)).trans
      (t.beginStep_prepared q.val h.job.toNat ((s.func q.val).serial + 1) h.arg1.toNat h.arg0 htns)))), hst.holds rfl, ?_, ?_,
    hst.frame.cores⟩
  · rw [State.job_updJob_same, BitVec.ofNat_toNat, BitVec.setWidth_eq]
  · rw [State.job_updJob_same]

/-! ### Sequences -/

theorem Job.still.edit {x y : Job} (h : x.still) (hh : y.held = x.held) (hv : y.victim = x.victim) (hd : y.destroy = x.destroy)
    (hc : y.cores = x.cores) (hw : y.whole = x.whole) (hp : y.placed = x.placed) (hpin : y.pinned = x.pinned) (hk : y.kind = x.kind)
    (hr : y.running = x.running) : y.still :=
  ⟨hh.trans h.held, hv.trans h.victim, hd.trans h.destroy, by rw [hc]; exact h.cores, by rw [hw, hc]; exact h.whole, by
    rw [hp, hpin, hk, hr]; exact h.rest⟩

/-- A job with a sequence admitted. -/
def Job.admitted (h : CmdHdr) (y : Job) : Job := { y with
  nextSeq := y.nextSeq + 1
  seqs := y.seqs.put y.nextSeq { Seq.init with
    prio := h.arg0.toNat, admNo := y.nextSeq, remaining := h.arg2.toNat, prompt := h.arg1, active := y.running.isNone } }

theorem State.updJob_congr {s : State} {p j : Nat} {f g : Job → Job} (h : f (s.job p j) = g (s.job p j)) :
    s.updJob p j f = s.updJob p j g := by
  have h' : f ((s.part p).jobs.get Job.init j) = g ((s.part p).jobs.get Job.init j) := h
  unfold State.updJob State.updPart SMap.upd
  dsimp only
  unfold State.part at h'
  rw [h']

theorem State.doAdmit_admits {t : State} {p : Nat} {c : HCmd} (h : c.hdr.arg2.toNat ≤ 262144) :
    t.doAdmit p c = ((t.updJob p c.hdr.job.toNat (Job.admitted c.hdr)).done1 p c stOk 0 (t.job p c.hdr.job.toNat).nextSeq).schedule p := by
  unfold State.doAdmit
  dsimp only
  rw [if_neg (Nat.not_lt.mpr h)]
  exact congrArg (fun u : State => (u.done1 p c stOk 0 (t.job p c.hdr.job.toNat).nextSeq).schedule p) (State.updJob_congr rfl)

theorem State.doAdmit_refused {t : State} {p : Nat} {c : HCmd} (h : 262144 < c.hdr.arg2.toNat) :
    t.doAdmit p c = t.done1 p c stRefused 0 0 := if_pos h

theorem seqAdmit_admits (q : Fin 8) (h : CmdHdr) (s : State) (ht : s.takes q.val 0x05 h) (hleg : s.cmdIllegal q.val 0x05 h = false)
    (hs : s.settled q.val) (hle : h.arg2.toNat ≤ 262144) :
    ∃ t, exec (.seqAdmit q h) s = .next t ∧ s.completes t q.val h 0x05 0 0 (s.job q.val h.job.toNat).nextSeq ∧
      t.job q.val h.job.toNat = (s.job q.val h.job.toNat).admitted h := by
  have hhas := State.cmdIllegal_job rfl hleg
  obtain ⟨t, hex, hst, hleg, hopc⟩ := State.runs_legal ht (by decide) (i := .seqAdmit q h) rfl hleg fun t _ =>
    t.cmdFree_of_opc _ _ (by rw [s.newCmd_opc _ 0x05 h .none (by decide)]; decide)
  obtain ⟨v, hv, hcomp, hjob⟩ := hst.editsJob hs hhas (Job.admitted h) rfl
    (fun hx => hx.edit rfl rfl rfl rfl rfl rfl rfl rfl rfl) stOk 0 (t.job q.val h.job.toNat).nextSeq
  refine ⟨v, hex.trans (congrArg _ ((State.startCmd_admit hopc hleg).trans ((State.doAdmit_admits hle).trans hv))), ?_, hjob⟩
  rw [hst.frame.job] at hcomp
  exact hcomp

/-- A job with one sequence changed. -/
def Job.withSeq (n : Nat) (f : Seq → Seq) (x : Job) : Job := { x with seqs := x.seqs.upd Seq.init n f }

/-- A sequence that SEQ_RUN lets decode. -/
def Seq.asked (serial want : Nat) (out : BitVec 64) (z : Seq) : Seq := { z with run := some serial, want := want, outAddr := out }

theorem State.doRun_asks {t : State} {p : Nat} {c : HCmd}
    (hle : ((t.job p c.hdr.job.toNat).seqs.get Seq.init c.hdr.arg0.toNat).pos +
      ((t.job p c.hdr.job.toNat).seqs.get Seq.init c.hdr.arg0.toNat).remaining + c.hdr.arg1.toNat ≤ 262144) (hn : c.hdr.arg1 ≠ 0#64) :
    t.doRun p c = (t.updJob p c.hdr.job.toNat
      (Job.withSeq c.hdr.arg0.toNat (Seq.asked c.serial c.hdr.arg1.toNat c.hdr.arg2))).schedule p := by
  unfold State.doRun
  dsimp only
  rw [if_neg (Nat.not_lt.mpr hle), if_neg fun h : c.hdr.arg1.toNat = 0 => hn (BitVec.eq_of_toNat_eq h)]
  rfl

theorem State.cmdFree_seqRun {s t : State} {p : Nat} {h : CmdHdr} (hf : s.hostFrame t p)
    (hr : (Claims.seqOf s p h h.arg0.toNat).run = none) : t.cmdFree p (s.newCmd p 0x06 h .none) = true := by
  unfold State.cmdFree
  rw [s.newCmd_opc p 0x06 h .none (by decide)]
  refine Bool.or_eq_true_iff.mpr (.inr ?_)
  have hy : (((t.job p h.job.toNat).seqs.get Seq.init h.arg0.toNat).run).isNone = true := by
    rw [hf.job]
    exact Option.isNone_iff_eq_none.mpr hr
  exact hy

theorem seqRun_asks (q : Fin 8) (h : CmdHdr) (s : State) (ht : s.takes q.val 0x06 h) (hleg : s.cmdIllegal q.val 0x06 h = false)
    (hs : s.settled q.val) (hr : (Claims.seqOf s q.val h h.arg0.toNat).run = none) (hn : h.arg1 ≠ 0#64)
    (hle : (Claims.seqOf s q.val h h.arg0.toNat).pos + (Claims.seqOf s q.val h h.arg0.toNat).remaining + h.arg1.toNat ≤ 262144) :
    ∃ t, exec (.seqRun q h) s = .next t ∧ s.holdsCmd t q.val h 0x06 ∧
      Claims.seqOf t q.val h h.arg0.toNat =
        (Claims.seqOf s q.val h h.arg0.toNat).asked (s.func q.val).serial h.arg1.toNat h.arg2 := by
  have hhas := State.cmdIllegal_job rfl hleg
  obtain ⟨t, hex, hst, hleg, hopc⟩ := State.runs_legal ht (by decide) (i := .seqRun q h) rfl hleg fun t hf => State.cmdFree_seqRun hf hr
  have hedit : t.jobEdit (t.updJob q.val h.job.toNat
      (Job.withSeq h.arg0.toNat (Seq.asked (s.func q.val).serial h.arg1.toNat h.arg2))) q.val :=
    State.updJob_jobEdit (by rw [hst.frame.jobs]; exact hhas) rfl fun hx => hx.edit rfl rfl rfl rfl rfl rfl rfl rfl rfl
  obtain ⟨hsch, hheld⟩ := hst.editHolds hs hedit
  refine ⟨_, hex.trans (congrArg _ ((State.startCmd_run hopc hleg).trans ((State.doRun_asks ?_ hn).trans hsch))), hheld, ?_⟩
  · rw [hst.frame.job]
    exact hle
  · unfold Claims.seqOf
    rw [State.job_updJob_same, hst.frame.job]
    exact SMap.get_upd_same _ _ _ _

/-- A sequence that SEQ_END retires. -/
def Seq.retired (z : Seq) : Seq := { z with ended := true }

/-- SEQ_END has marked its sequence. -/
def State.endSeq (t : State) (p j n : Nat) : State := t.updJob p j (Job.withSeq n Seq.retired)

theorem State.doEnd_running {t : State} {p : Nat} {c : HCmd}
    (hr : ((t.endSeq p c.hdr.job.toNat c.hdr.arg0.toNat).job p c.hdr.job.toNat).running.isSome = true) :
    t.doEnd p c = ((t.endSeq p c.hdr.job.toNat c.hdr.arg0.toNat).done1 p c stOk 0 0).schedule p := by
  unfold State.doEnd
  exact congrArg (fun u : State => (u.done1 p c stOk 0 0).schedule p) (if_pos hr)

theorem State.doEnd_rest {t : State} {p : Nat} {c : HCmd}
    (hr : ((t.endSeq p c.hdr.job.toNat c.hdr.arg0.toNat).job p c.hdr.job.toNat).running.isSome = false) :
    t.doEnd p c = (((t.endSeq p c.hdr.job.toNat c.hdr.arg0.toNat).retireSeqs p c.hdr.job.toNat).done1 p c stOk 0 0).schedule p := by
  unfold State.doEnd
  exact congrArg (fun u : State => (u.done1 p c stOk 0 0).schedule p) (if_neg (Bool.eq_false_iff.mp hr))

theorem seqEnd_running (q : Fin 8) (h : CmdHdr) (s : State) (ht : s.takes q.val 0x07 h) (hleg : s.cmdIllegal q.val 0x07 h = false)
    (hs : s.settled q.val) (hr : (s.job q.val h.job.toNat).running.isSome = true) :
    ∃ t, exec (.seqEnd q h) s = .next t ∧ s.completes t q.val h 0x07 0 0 0 ∧
      Claims.seqOf t q.val h h.arg0.toNat = (Claims.seqOf s q.val h h.arg0.toNat).retired := by
  have hhas := State.cmdIllegal_job rfl hleg
  obtain ⟨t, hex, hst, hleg, hopc⟩ := State.runs_legal ht (by decide) (i := .seqEnd q h) rfl hleg fun t _ =>
    t.cmdFree_of_opc _ _ (by rw [s.newCmd_opc _ 0x07 h .none (by decide)]; decide)
  obtain ⟨v, hv, hcomp, hjob⟩ := hst.editsJob hs hhas (Job.withSeq h.arg0.toNat Seq.retired) rfl
    (fun hx => hx.edit rfl rfl rfl rfl rfl rfl rfl rfl rfl) stOk 0 0
  refine ⟨v, hex.trans (congrArg _ ((State.startCmd_end hopc hleg).trans ((State.doEnd_running ?_).trans hv))), hcomp, ?_⟩
  · rw [State.endSeq, State.job_updJob_same, hst.frame.job]
    exact hr
  · unfold Claims.seqOf
    rw [hjob]
    exact SMap.get_upd_same _ _ _ _

/-! ### A sequence leaves -/

/-- The sequence n of a job is the only one that may have ended, and has no request. -/
def Job.endsOnly (x : Job) (n : Nat) : Prop :=
  (∀ i, i ≠ n → (x.seqs.get Seq.init i).ended = false) ∧ (x.seqs.get Seq.init n).run = none

/-- What the retirement of one sequence does. -/
def State.retireSeq (s : State) (p j i : Nat) : State :=
  if !((s.job p j).seqs.get Seq.init i).ended then s
  else
    ((match ((s.job p j).seqs.get Seq.init i).run with
      | some n => (s.giveKv p j i).complete p n stAbandoned 0 0 0
      | none => s.giveKv p j i).updJob p j (fun x => { x with seqs := x.seqs.erase i }))

theorem State.retireSeqs_eq (s : State) (p j : Nat) :
    s.retireSeqs p j = (s.job p j).seqs.keys.foldl (fun s i => s.retireSeq p j i) s := rfl

theorem SMap.get_of_has {α : Type} {m : SMap α} {d : α} {k : Nat} (h : m.has k = false) : m.get d k = d := by
  unfold SMap.has at h
  unfold SMap.get
  rw [Option.isSome_eq_false_iff.mp h |> Option.isNone_iff_eq_none.mp]
  rfl

theorem SMap.has_upd_ne {α : Type} (m : SMap α) (d : α) (k i : Nat) (f : α → α) (h : i ≠ k) : (m.upd d k f).has i = m.has i := by
  unfold SMap.has SMap.upd
  rw [SMap.find_put_ne _ _ _ _ h]

/-- An ended sequence without a request leaves its job's table; the others stay. -/
theorem State.retireSeq_ended {s : State} {p j n : Nat} (hj : (s.part p).jobs.has j = true) (he : (s.job p j).endsOnly n)
    (hend : ((s.job p j).seqs.get Seq.init n).ended = true) :
    s.jobEdit (s.retireSeq p j n) p ∧ ((s.retireSeq p j n).job p j).endsOnly n ∧
      ((s.retireSeq p j n).job p j).seqs.has n = false := by
  obtain ⟨hother, hrun⟩ := he
  have hr : s.retireSeq p j n = (s.giveKv p j n).updJob p j (fun x => { x with seqs := x.seqs.erase n }) := by
    unfold State.retireSeq
    rw [hend, hrun]
    rfl
  have hg : s.jobEdit (s.giveKv p j n) p := State.updJob_jobEdit hj rfl fun hx => hx.edit rfl rfl rfl rfl rfl rfl rfl rfl rfl
  have hgj : ((s.giveKv p j n).part p).jobs.has j = true := State.has_updJob _ _ _ _
  have he2 : (s.giveKv p j n).jobEdit ((s.giveKv p j n).updJob p j (fun x => { x with seqs := x.seqs.erase n })) p :=
    State.updJob_jobEdit hgj rfl fun hx => hx.edit rfl rfl rfl rfl rfl rfl rfl rfl rfl
  have hjob : ((s.retireSeq p j n).job p j).seqs =
      ((s.job p j).seqs.upd Seq.init n (fun y => { y with pages := [], swap := [] })).erase n := by
    rw [hr, State.job_updJob_same]
    unfold State.giveKv
    rw [State.job_updJob_same]
  have hfind : ∀ i, i ≠ n → ((s.retireSeq p j n).job p j).seqs.get Seq.init i = (s.job p j).seqs.get Seq.init i := fun i hi => by
    rw [hjob, SMap.get, SMap.find_erase_ne _ _ _ hi, SMap.upd, SMap.find_put_ne _ _ _ _ hi, SMap.get]
  have hnone : ((s.retireSeq p j n).job p j).seqs.has n = false := by
    rw [hjob, SMap.has, SMap.find_erase_same]
    rfl
  refine ⟨by rw [hr]; exact hg.trans he2, ⟨fun i hi => ?_, ?_⟩, hnone⟩
  · rw [hfind i hi]
    exact hother i hi
  · rw [SMap.get_of_has hnone]
    rfl

theorem State.retireSeq_stays {s : State} {p j i : Nat} (h : ((s.job p j).seqs.get Seq.init i).ended = false) : s.retireSeq p j i = s := by
  unfold State.retireSeq
  rw [h]
  rfl

/-- The retirement of the only sequence of a job that may have ended. -/
theorem State.retireSeqs_only {p j n : Nat} : ∀ (l : List Nat) (s : State), (s.part p).jobs.has j = true → (s.job p j).endsOnly n →
    ((n ∈ l ∧ ((s.job p j).seqs.get Seq.init n).ended = true) ∨ (s.job p j).seqs.has n = false) →
    s.jobEdit (l.foldl (fun s i => s.retireSeq p j i) s) p ∧
      ((l.foldl (fun s i => s.retireSeq p j i) s).job p j).seqs.has n = false
  | [], s, _, _, h => ⟨s.jobEdit_refl p, h.resolve_left fun hm => absurd hm.1 List.not_mem_nil⟩
  | i :: l, s, hj, he, h => by
    rw [List.foldl_cons]
    by_cases hend : ((s.job p j).seqs.get Seq.init i).ended = true
    · have hin : i = n := by
        by_contra hne
        rw [he.1 i hne] at hend
        exact absurd hend (by decide)
      subst hin
      obtain ⟨hedit, he', hnone⟩ := State.retireSeq_ended hj he hend
      have hj' : ((s.retireSeq p j i).part p).jobs.has j = true := by
        unfold State.retireSeq
        rw [hend]
        exact State.has_updJob _ _ _ _
      obtain ⟨hrest, hfin⟩ := State.retireSeqs_only l (s.retireSeq p j i) hj' he' (.inr hnone)
      exact ⟨hedit.trans hrest, hfin⟩
    · have hstay := State.retireSeq_stays (Bool.eq_false_iff.mpr hend)
      rw [hstay]
      refine State.retireSeqs_only l s hj he (h.imp_left fun ⟨hm, hn⟩ => ⟨?_, hn⟩)
      exact (List.mem_cons.mp hm).resolve_left fun hi => hend (by rw [← hi]; exact hn)

theorem SMap.mem_keys_of_has {α : Type} {m : SMap α} {k : Nat} (h : m.has k = true) : k ∈ m.keys := by
  obtain ⟨x, hx⟩ := Option.isSome_iff_exists.mp h
  exact List.mem_map.mpr ⟨_, find_mem hx, rfl⟩

theorem SMap.get_ended {m : SMap Seq} (h : ∀ y ∈ m, y.2.ended = false) (i : Nat) : (m.get Seq.init i).ended = false := by
  unfold SMap.get
  cases hf : m.find i with
  | none => rfl
  | some x => exact h _ (find_mem hf)

theorem seqEnd_rest (q : Fin 8) (h : CmdHdr) (s : State) (ht : s.takes q.val 0x07 h) (hleg : s.cmdIllegal q.val 0x07 h = false)
    (hs : s.settled q.val) (hr : (s.job q.val h.job.toNat).running = none)
    (hend : ∀ y ∈ (s.job q.val h.job.toNat).seqs, y.2.ended = false) (hrun : (Claims.seqOf s q.val h h.arg0.toNat).run = none) :
    ∃ t, exec (.seqEnd q h) s = .next t ∧ s.completes t q.val h 0x07 0 0 0 ∧
      (t.job q.val h.job.toNat).seqs.has h.arg0.toNat = false := by
  have hhas := State.cmdIllegal_job rfl hleg
  obtain ⟨t, hex, hst, hleg, hopc⟩ := State.runs_legal ht (by decide) (i := .seqEnd q h) rfl hleg fun t _ =>
    t.cmdFree_of_opc _ _ (by rw [s.newCmd_opc _ 0x07 h .none (by decide)]; decide)
  have hjob : (t.endSeq q.val h.job.toNat h.arg0.toNat).job q.val h.job.toNat =
      (s.job q.val h.job.toNat).withSeq h.arg0.toNat Seq.retired := (State.job_updJob_same _ _ _ _).trans (by rw [hst.frame.job])
  have hedit : t.jobEdit (t.endSeq q.val h.job.toNat h.arg0.toNat) q.val :=
    State.updJob_jobEdit (by rw [hst.frame.jobs]; exact hhas) rfl fun hx => hx.edit rfl rfl rfl rfl rfl rfl rfl rfl rfl
  have hends : ((t.endSeq q.val h.job.toNat h.arg0.toNat).job q.val h.job.toNat).endsOnly h.arg0.toNat := by
    rw [hjob]
    refine ⟨fun i hi => ?_, ?_⟩
    · exact (congrArg Seq.ended (SMap.get_upd_ne _ _ _ _ _ hi)).trans (SMap.get_ended hend i)
    · exact (congrArg Seq.run (SMap.get_upd_same _ _ _ _)).trans hrun
  have hkey : h.arg0.toNat ∈ ((t.endSeq q.val h.job.toNat h.arg0.toNat).job q.val h.job.toNat).seqs.keys := by
    rw [hjob]
    exact SMap.mem_keys_of_has (SMap.has_upd _ _ _ _)
  have hmark : (((t.endSeq q.val h.job.toNat h.arg0.toNat).job q.val h.job.toNat).seqs.get Seq.init h.arg0.toNat).ended = true := by
    rw [hjob]
    exact congrArg Seq.ended (SMap.get_upd_same _ _ _ _)
  obtain ⟨hret, hgone⟩ := State.retireSeqs_only ((t.endSeq q.val h.job.toNat h.arg0.toNat).job q.val h.job.toNat).seqs.keys
    (t.endSeq q.val h.job.toNat h.arg0.toNat) (State.has_updJob _ _ _ _) hends (.inl ⟨hkey, hmark⟩)
  rw [← State.retireSeqs_eq] at hret hgone
  obtain ⟨v, hv, hcomp, hparts⟩ := hst.edited hs (hedit.trans hret) stOk 0 0
  refine ⟨v, hex.trans (congrArg _ ((State.startCmd_end hopc hleg).trans ((State.doEnd_rest ?_).trans hv))), hcomp, ?_⟩
  · have hnone : ((t.endSeq q.val h.job.toNat h.arg0.toNat).job q.val h.job.toNat).running = none := by
      rw [hjob]
      exact hr
    exact congrArg Option.isSome hnone
  · rw [State.job, State.part_congr hparts]
    exact hgone

/-! ### Refusals, and the obligation's first half -/

theorem hostJobs : Claims.HostJobs := by
  intro q h s p j x b nj
  refine ⟨fun ht hl hs hf hc ho hk => jobCreate_queues q h s ht hl hs hf hc ho hk, fun ht hleg hbad => ?createRefused,
    fun ht hl hs ho hp ha => jobSet_rest q h s ht hl hs ho hp ha, fun ht hl hs ho ha => jobSet_busy q h s ht hl hs ho ha,
    fun ht hl hs hp hq ha => jobDestroy_done q h s ht hl hs hp hq ha, fun ht hl ha => jobDestroy_held q h s ht hl ha,
    fun ht hl hm h0 hp hn => step_starts q h s ht hl hm h0 hp hn, fun ht hl hm hn => step_prepared q h s ht hl hm hn,
    fun ht hl hs hle => seqAdmit_admits q h s ht hl hs hle, fun ht hleg hgt => ?admitRefused,
    fun ht hl hs hr hn hle => seqRun_asks q h s ht hl hs hr hn hle, fun ht hl hs hr => seqEnd_running q h s ht hl hs hr,
    fun ht hl hs hr he hrun => seqEnd_rest q h s ht hl hs hr he hrun⟩
  case createRefused =>
    obtain ⟨t, hex, hst, hleg, hopc⟩ := State.runs_legal ht (by decide) (i := .jobCreate q h) rfl hleg fun t _ =>
      t.cmdFree_of_opc _ _ (by rw [s.newCmd_opc _ 0x01 h .none (by decide)]; decide)
    exact ⟨_, hex.trans (congrArg _ ((State.startCmd_create hopc hleg).trans (State.doCreate_refused hbad))), hst.done1 4 0 0⟩
  case admitRefused =>
    obtain ⟨t, hex, hst, hleg, hopc⟩ := State.runs_legal ht (by decide) (i := .seqAdmit q h) rfl hleg fun t _ =>
      t.cmdFree_of_opc _ _ (by rw [s.newCmd_opc _ 0x05 h .none (by decide)]; decide)
    exact ⟨_, hex.trans (congrArg _ ((State.startCmd_admit hopc hleg).trans (State.doAdmit_refused hgt))), hst.done1 4 0 0⟩

end Sys2Proof.Machine
end

section
/-! Host commands on Reels, and REL_SET (R332, R333, R340, R816). -/
namespace Sys2Proof.Machine

/-! ### The table of Reels -/

theorem State.hostFrame.reelRec {s t : State} {p : Nat} (h : s.hostFrame t p) : t.reelRec = s.reelRec := by
  funext q i
  unfold State.reelRec State.reelAddr
  rw [h.sameMap.lead, h.sameMap.rdN, h.cl]

theorem State.hostFrame.reelLive {s t : State} {p : Nat} (h : s.hostFrame t p) : t.reelLive = s.reelLive := by
  funext q i
  unfold State.reelLive
  rw [h.reelRec]

theorem State.hostFrame.reelCore {s t : State} {p : Nat} (h : s.hostFrame t p) : t.reelCore = s.reelCore := by
  funext q i
  unfold State.reelCore
  rw [h.reelRec, h.sameMap.logKey]

section
variable {t : State} {p : Nat} {c : HCmd}

theorem State.startCmd_reelSubmit (ho : c.opc.toNat = 0x0F) (hl : t.cmdIllegal p 0x0F c.hdr = false) :
    t.startCmd p c = t.submitChunk p { chunkFrom c.hdr.payload with cmd := some c.serial } := by
  unfold State.startCmd
  rw [ho]
  exact if_neg (Bool.eq_false_iff.mp hl)

theorem State.startCmd_reelDestroy (ho : c.opc.toNat = 0x10) (hl : t.cmdIllegal p 0x10 c.hdr = false) :
    t.startCmd p c = (t.destroyReel p c.hdr.arg0.toNat).2.done1 p c
      (if (t.destroyReel p c.hdr.arg0.toNat).1 = 0 then stOk else stRefused) 0 0 := by
  unfold State.startCmd
  rw [ho]
  exact if_neg (Bool.eq_false_iff.mp hl)

theorem State.startCmd_relSet (ho : c.opc.toNat = 0x11) (hl : t.cmdIllegal p 0x11 c.hdr = false) : t.startCmd p c = t.doRelSet p c := by
  unfold State.startCmd
  rw [ho]
  exact if_neg (Bool.eq_false_iff.mp hl)

end

/-! ### CMD_REEL_SUBMIT -/

/-- A partition that has numbered a chunk. -/
def State.numbered (s : State) (p : Nat) : State := s.updPart p (fun x => { x with chunkSerial := (s.part p).chunkSerial + 1 })

/-- A chunk as it enters a queue. -/
def Chunk.fresh (c : Chunk) (n : Nat) : Chunk := { c with serial := n, running := false, held := false, changed := [] }

theorem State.numbered_lmap (s : State) (p q : Nat) : ((s.numbered p).part q).lmap = (s.part q).lmap := by
  by_cases hq : q = p
  · rw [hq, State.numbered, State.part_updPart_same]
  · rw [State.numbered, State.part_updPart_ne _ _ _ _ hq]

theorem State.numbered_reelCore (s : State) (p q i : Nat) : (s.numbered p).reelCore q i = s.reelCore q i := by
  unfold State.reelCore State.logKey State.physCl
  rw [State.numbered_lmap]
  rfl

/-- A chunk that may not be submitted: its length or its mark is none that a chunk may have. -/
def Chunk.misfits (c : Chunk) : Prop := c.len = 0#16 ∨ (c.mark ≠ 0xFFFF#16 ∧ c.len.toNat ≤ c.mark.toNat)

theorem State.submitChunk_queues {s : State} {p k : Nat} {c : Chunk} (hm : ¬ c.misfits) (hl : s.reelLive p c.handle.toNat = true)
    (hk : s.reelCore p (hIdx c.handle.toNat) = some k) (hq : (s.core k).chunkq.length < 64) :
    s.submitChunk p c = (s.numbered p).updCore k (fun x => { x with chunkq := x.chunkq ++ [c.fresh (s.part p).chunkSerial] }) := by
  have hk' : (s.numbered p).reelCore p (hIdx c.handle.toNat) = some k := (s.numbered_reelCore p p _).trans hk
  have hl' : ((s.numbered p).reelLive p c.handle.toNat) = true := hl
  unfold State.submitChunk
  refine (if_neg hm).trans ((if_neg (by rw [Bool.not_eq_true']; exact Bool.eq_false_iff.not_left.mpr hl')).trans ?_)
  refine Eq.trans (b := (match (s.numbered p).reelCore p (hIdx c.handle.toNat) with
    | none => _
    | some k => _)) rfl ?_
  rw [hk']
  exact if_neg (Nat.not_le.mpr hq)

theorem State.submitChunk_misfits {s : State} {p : Nat} {c : Chunk} (hm : c.misfits) :
    s.submitChunk p c = (s.numbered p).finishChunk p (c.fresh (s.part p).chunkSerial) stRefused 0 := if_pos hm

theorem State.submitChunk_gone {s : State} {p : Nat} {c : Chunk} (hm : ¬ c.misfits) (hl : s.reelLive p c.handle.toNat = false) :
    s.submitChunk p c = (s.numbered p).finishChunk p (c.fresh (s.part p).chunkSerial) stGone 0 := by
  have hl' : ((s.numbered p).reelLive p c.handle.toNat) = false := hl
  unfold State.submitChunk
  exact (if_neg hm).trans (if_pos (by rw [Bool.not_eq_true']; exact hl'))

/-- A chunk of a host command without a record: its end is the command's. -/
theorem State.finishChunk_command {s : State} {p n : Nat} {c : Chunk} (hr : c.recAddr = 0#64) (ho : c.owner = none) (hc : c.cmd = some n)
    (st fc : Nat) : s.finishChunk p c st fc = s.complete p n st fc (rlSeq (s.reelRec p (hIdx c.handle.toNat))) 0 := by
  unfold State.finishChunk
  simp only [hr, ho, hc, if_true, Option.isSome_none, Option.getD_none, Bool.false_eq_true, if_false]

theorem reelSubmit_queues (q : Fin 8) (h : CmdHdr) (s : State) (k : Nat) (ht : s.takes q.val 0x0F h)
    (hleg : s.cmdIllegal q.val 0x0F h = false) (hl : s.reelLive q.val (chunkFrom h.payload).handle.toNat = true)
    (hlen : (chunkFrom h.payload).len ≠ 0#16)
    (hmark : (chunkFrom h.payload).mark = 0xFFFF#16 ∨ (chunkFrom h.payload).mark.toNat < (chunkFrom h.payload).len.toNat)
    (hk : s.reelCore q.val (hIdx (chunkFrom h.payload).handle.toNat) = some k) (hq : (s.core k).chunkq.length < 64) :
    ∃ t, exec (.cmdReelSubmit q h) s = .next t ∧ s.holdsCmd t q.val h 0x0F ∧
      s.core k = { t.core k with chunkq := (s.core k).chunkq } ∧
      (t.core k).chunkq = (s.core k).chunkq ++ [{ chunkFrom h.payload with
        serial := (s.part q.val).chunkSerial, cmd := some (s.func q.val).serial }] ∧ t.mem = s.mem := by
  obtain ⟨t, hex, hst, hleg, hopc⟩ := State.runs_legal ht (by decide) (i := .cmdReelSubmit q h) rfl hleg fun t _ =>
    t.cmdFree_of_opc _ _ (by rw [s.newCmd_opc _ 0x0F h .none (by decide)]; decide)
  have hcore := State.core_congr hst.frame.cores k
  have hnumCore : (t.numbered q.val).core k = s.core k := hcore
  have hnum : (t.part q.val).chunkSerial = (s.part q.val).chunkSerial := by rw [hst.frame.part]
  have hfit : ¬ Chunk.misfits { chunkFrom h.payload with cmd := some (s.func q.val).serial } := by
    rintro (h0 | ⟨hne, hle⟩)
    · exact hlen h0
    · exact hmark.elim hne fun hlt => absurd hle (Nat.not_le.mpr hlt)
  have hrun := State.submitChunk_queues hfit (s := t) (p := q.val) (by rw [hst.frame.reelLive]; exact hl)
    (by rw [hst.frame.reelCore]; exact hk) (by rw [hcore]; exact hq)
  refine ⟨_, hex.trans (congrArg _ ((State.startCmd_reelSubmit hopc hleg).trans hrun)), hst.holds rfl, ?_, ?_, hst.frame.mem⟩
  · rw [State.core_updCore_same, hnumCore]
  · rw [State.core_updCore_same, hnumCore, hnum]
    rfl

theorem reelSubmit_refused (q : Fin 8) (h : CmdHdr) (s : State) (ht : s.takes q.val 0x0F h)
    (hleg : s.cmdIllegal q.val 0x0F h = false) (hr : (chunkFrom h.payload).recAddr = 0#64)
    (hbad : (chunkFrom h.payload).misfits ∨ s.reelLive q.val (chunkFrom h.payload).handle.toNat = false) :
    ∃ t, exec (.cmdReelSubmit q h) s = .next t ∧
      ((chunkFrom h.payload).misfits →
        s.completes t q.val h 0x0F 4 0 (rlSeq (s.reelRec q.val (hIdx (chunkFrom h.payload).handle.toNat)))) ∧
      (¬ (chunkFrom h.payload).misfits →
        s.completes t q.val h 0x0F 5 0 (rlSeq (s.reelRec q.val (hIdx (chunkFrom h.payload).handle.toNat)))) ∧
      t.cores = s.cores ∧ t.mem = s.mem := by
  obtain ⟨t, hex, hst, hleg, hopc⟩ := State.runs_legal ht (by decide) (i := .cmdReelSubmit q h) rfl hleg fun t _ =>
    t.cmdFree_of_opc _ _ (by rw [s.newCmd_opc _ 0x0F h .none (by decide)]; decide)
  have hrun := fun st => State.finishChunk_command (s := t.numbered q.val) (p := q.val) (n := (s.func q.val).serial)
    (c := Chunk.fresh { chunkFrom h.payload with cmd := some (s.func q.val).serial } (t.part q.val).chunkSerial) hr rfl rfl st 0
  have hseq : (t.numbered q.val).reelRec = s.reelRec := (show (t.numbered q.val).reelRec = t.reelRec from rfl).trans hst.frame.reelRec
  have hcomp := fun st => State.done1_completes (s := s) (t := t.numbered q.val) (p := q.val) (opc := 0x0F) (h := h) (e := .none) hst.func
    hst.frame.nsW hst.frame.cycle st 0 (rlSeq (s.reelRec q.val (hIdx (chunkFrom h.payload).handle.toNat)))
  have hframe := fun st => (t.numbered q.val).done1_frame q.val (s.newCmd q.val 0x0F h .none) st 0
    (rlSeq (s.reelRec q.val (hIdx (chunkFrom h.payload).handle.toNat)))
  rw [hseq] at hrun
  by_cases hm : (chunkFrom h.payload).misfits
  · exact ⟨_, hex.trans (congrArg _ ((State.startCmd_reelSubmit hopc hleg).trans ((State.submitChunk_misfits
        (c := { chunkFrom h.payload with cmd := some (s.func q.val).serial }) hm).trans (hrun 4)))),
      fun _ => hcomp 4, fun hn => absurd hm hn, (congrArg State.cores (hframe 4)).trans hst.frame.cores,
      (congrArg State.mem (hframe 4)).trans hst.frame.mem⟩
  · have hl := hbad.resolve_left hm
    exact ⟨_, hex.trans (congrArg _ ((State.startCmd_reelSubmit hopc hleg).trans ((State.submitChunk_gone
        (c := { chunkFrom h.payload with cmd := some (s.func q.val).serial }) hm
        (by rw [hst.frame.reelLive]; exact hl)).trans (hrun 5)))),
      fun hn => absurd hn hm, fun _ => hcomp 5, (congrArg State.cores (hframe 5)).trans hst.frame.cores,
      (congrArg State.mem (hframe 5)).trans hst.frame.mem⟩

/-! ### CMD_REEL_DESTROY -/

theorem State.destroyReel_gone {t : State} {p n : Nat} (h : t.reelLive p n = false) : t.destroyReel p n = (4, t) := by
  unfold State.destroyReel
  dsimp only
  rw [h]
  rfl

theorem State.destroyReel_busy {t : State} {p n : Nat} (h : t.reelLive p n = true)
    (hs : rlRstate (t.reelRec p (hIdx n)) = 2 ∨ rlRstate (t.reelRec p (hIdx n)) = 4) :
    t.destroyReel p n = (0, t.updReel p (hIdx n) (fun x => { x with destroyPend := true })) := by
  unfold State.destroyReel
  dsimp only
  rw [h]
  rcases hs with hs | hs <;> rw [hs] <;> rfl

theorem reelDestroy_gone (q : Fin 8) (h : CmdHdr) (s : State) (ht : s.takes q.val 0x10 h) (hleg : s.cmdIllegal q.val 0x10 h = false)
    (hl : s.reelLive q.val h.arg0.toNat = false) :
    ∃ t, exec (.cmdReelDestroy q h) s = .next t ∧ s.completes t q.val h 0x10 4 0 0 ∧ s.hostFrame t q.val := by
  obtain ⟨t, hex, hst, hleg, hopc⟩ := State.runs_legal ht (by decide) (i := .cmdReelDestroy q h) rfl hleg fun t _ =>
    t.cmdFree_of_opc _ _ (by rw [s.newCmd_opc _ 0x10 h .none (by decide)]; decide)
  have hrun := State.startCmd_reelDestroy hopc hleg
  rw [State.destroyReel_gone (by rw [hst.frame.reelLive]; exact hl)] at hrun
  exact ⟨_, hex.trans (congrArg _ hrun), hst.done1 4 0 0⟩

theorem reelDestroy_busy (q : Fin 8) (h : CmdHdr) (s : State) (ht : s.takes q.val 0x10 h) (hleg : s.cmdIllegal q.val 0x10 h = false)
    (hl : s.reelLive q.val h.arg0.toNat = true)
    (hs : rlRstate (s.reelRec q.val (hIdx h.arg0.toNat)) = 2 ∨ rlRstate (s.reelRec q.val (hIdx h.arg0.toNat)) = 4) :
    ∃ t, exec (.cmdReelDestroy q h) s = .next t ∧ s.completes t q.val h 0x10 0 0 0 ∧
      t.reel q.val (hIdx h.arg0.toNat) = { s.reel q.val (hIdx h.arg0.toNat) with destroyPend := true } ∧ t.mem = s.mem := by
  obtain ⟨t, hex, hst, hleg, hopc⟩ := State.runs_legal ht (by decide) (i := .cmdReelDestroy q h) rfl hleg fun t _ =>
    t.cmdFree_of_opc _ _ (by rw [s.newCmd_opc _ 0x10 h .none (by decide)]; decide)
  have hrun := State.startCmd_reelDestroy hopc hleg
  rw [State.destroyReel_busy (by rw [hst.frame.reelLive]; exact hl) (by rw [hst.frame.reelRec]; exact hs)] at hrun
  have hreel := t.reel_updReel_same q.val (hIdx h.arg0.toNat) (fun x => { x with destroyPend := true })
  have hcomp := State.done1_completes (s := s) (t := t.updReel q.val (hIdx h.arg0.toNat) (fun x => { x with destroyPend := true }))
    (p := q.val) (opc := 0x10) (h := h) (e := .none) hst.func hst.frame.nsW hst.frame.cycle 0 0 0
  have hframe := (t.updReel q.val (hIdx h.arg0.toNat) (fun x => { x with destroyPend := true })).done1_frame q.val
    (s.newCmd q.val 0x10 h .none) 0 0 0
  refine ⟨_, hex.trans (congrArg _ hrun), hcomp, ?_, (congrArg State.mem hframe).trans hst.frame.mem⟩
  refine (State.reel_congr (congrArg State.parts hframe) _ _).trans (hreel.trans ?_)
  refine congrArg (fun x : ReelDyn => { x with destroyPend := true }) ?_
  unfold State.reel
  rw [hst.frame.part]

/-! ### REL_SET -/

/-- The settings of REL_SET on a cluster. -/
def Cluster.settings (r : Nat × Nat × Nat) (x : Cluster) : Cluster := { x with
  policy := BitVec.ofNat 2 r.1, ckpt := r.2.1 == 1, wdog := BitVec.ofNat 9 r.2.2 }

/-- Whether a cluster has these settings. -/
def Cluster.hasSettings (r : Nat × Nat × Nat) (x : Cluster) : Prop :=
  x.policy = BitVec.ofNat 2 r.1 ∧ x.ckpt = (r.2.1 == 1) ∧ x.wdog = BitVec.ofNat 9 r.2.2

theorem State.foldl_settings (r : Nat × Nat × Nat) : ∀ (l : List Nat) (s : State),
    l.foldl (fun s c => s.updCl c (Cluster.settings r)) s = { s with
      clusters := (l.foldl (fun s c => s.updCl c (Cluster.settings r)) s).clusters } ∧
      ∀ d, (d ∈ l ∨ (s.cl d).hasSettings r) → ((l.foldl (fun s c => s.updCl c (Cluster.settings r)) s).cl d).hasSettings r
  | [], s => ⟨rfl, fun _ h => h.resolve_left List.not_mem_nil⟩
  | c :: l, s => by
    rw [List.foldl_cons]
    obtain ⟨hf, hd⟩ := State.foldl_settings r l (s.updCl c (Cluster.settings r))
    refine ⟨by rw [hf]; rfl, fun d h => hd d ?_⟩
    by_cases hdc : d = c
    · subst hdc
      rw [State.cl_updCl_same]
      exact .inr ⟨rfl, rfl, rfl⟩
    · rw [State.cl_updCl_ne _ _ _ _ hdc]
      exact h.imp_left fun hm => (List.mem_cons.mp hm).resolve_left hdc

/-- The settings that wait are in force on every cluster of the partition. -/
theorem State.applyRel_settings {s : State} {p : Nat} {r : Nat × Nat × Nat} (hr : (s.part p).relPend = some r) :
    s.applyRel p = { s with clusters := (s.applyRel p).clusters, parts := (s.applyRel p).parts } ∧
      ((s.applyRel p).part p).relPend = none ∧ ∀ d ∈ s.clustersOf p, ((s.applyRel p).cl d).hasSettings r := by
  have heq : s.applyRel p = ((s.clustersOf p).foldl (fun s c => s.updCl c (Cluster.settings r)) s).updPart p
      (fun x => { x with relPend := none }) := by
    unfold State.applyRel
    rw [hr]
    rfl
  obtain ⟨hf, hd⟩ := State.foldl_settings r (s.clustersOf p) s
  rw [heq]
  generalize (s.clustersOf p).foldl (fun s c => s.updCl c (Cluster.settings r)) s = v at hf hd ⊢
  refine ⟨by rw [hf]; rfl, by rw [State.part_updPart_same], fun d hm => hd d (.inl hm)⟩

/-- Only the table of jobs of a partition changes. -/
def State.onlyJobs (s t : State) (p : Nat) : Prop :=
  t = { s with parts := t.parts } ∧ t.part p = { s.part p with jobs := (t.part p).jobs }

theorem State.updJob_onlyJobs (s : State) (p j : Nat) (f : Job → Job) : s.onlyJobs (s.updJob p j f) p :=
  ⟨rfl, by rw [State.updJob, State.part_updPart_same]⟩

theorem State.checkpointJob_onlyJobs (s : State) (p j : Nat) : s.onlyJobs (s.checkpointJob p j) p := by
  unfold State.checkpointJob
  dsimp only
  split <;> exact s.updJob_onlyJobs p j _

theorem State.takeRel_settings {s : State} {p : Nat} {r : Nat × Nat × Nat} (hr : (s.part p).relPend = some r) :
    s.takeRel p = { s with clusters := (s.takeRel p).clusters, parts := (s.takeRel p).parts } ∧
      ((s.takeRel p).part p).relPend = none ∧ ∀ d ∈ s.clustersOf p, ((s.takeRel p).cl d).hasSettings r := by
  obtain ⟨hf, hp, hd⟩ := State.applyRel_settings hr
  have hfold : (s.applyRel p).onlyJobs (s.takeRel p) p := by
    unfold State.takeRel
    rw [if_neg (by rw [hr]; exact Bool.false_ne_true)]
    refine List.foldlRecOn (motive := fun t : State => (s.applyRel p).onlyJobs t p) _ _ ⟨rfl, rfl⟩ fun t ⟨ht, hpt⟩ x _ => ?_
    obtain ⟨hu, hpu⟩ := t.checkpointJob_onlyJobs p x.1
    exact ⟨by rw [hu, ht], by rw [hpu, hpt]⟩
  obtain ⟨ht, hpt⟩ := hfold
  refine ⟨by rw [ht, hf], by rw [hpt]; exact hp, fun d hm => ?_⟩
  rw [State.cl_congr (s := s.applyRel p) (t := s.takeRel p) (by rw [ht])]
  exact hd d hm

/-- A partition with the settings of a REL_SET that wait. -/
def State.relWaits (t : State) (p : Nat) (h : CmdHdr) : State :=
  t.updPart p (fun x => { x with relPend := some (h.arg0.toNat, h.arg1.toNat, h.arg2.toNat) })

theorem State.doRelSet_waits {t : State} {p : Nat} {c : HCmd} (h1 : c.hdr.arg1 = 0#64) :
    t.doRelSet p c = (if ((t.relWaits p c.hdr).part p).jobs.any (fun j => j.2.running.isSome) then t.relWaits p c.hdr
      else (t.relWaits p c.hdr).takeRel p).done1 p c stOk 0 0 := by
  have hne : ¬ (c.hdr.arg1 = 1#64 ∧
      ((t.part p).jobs.any (fun j => j.2.kind != 2#2 && decide (ckptBytes j.2.live > j.2.save * 65536))) = true) := by
    rintro ⟨h, -⟩
    rw [h1] at h
    exact absurd h (by decide)
  unfold State.doRelSet
  exact if_neg hne

theorem State.relWaits_part (t : State) (p : Nat) (h : CmdHdr) :
    (t.relWaits p h).part p = { t.part p with relPend := some (h.arg0.toNat, h.arg1.toNat, h.arg2.toNat) } := by
  rw [State.relWaits, State.part_updPart_same]

theorem relSet_now (q : Fin 8) (h : CmdHdr) (s : State) (ht : s.takes q.val 0x11 h) (hleg : s.cmdIllegal q.val 0x11 h = false)
    (h1 : h.arg1 = 0#64) (hr : ∀ y ∈ (s.part q.val).jobs, y.2.running = none) :
    ∃ t, exec (.relSet q h) s = .next t ∧ s.completes t q.val h 0x11 0 0 0 ∧ (t.part q.val).relPend = none ∧
      ∀ d ∈ s.clustersOf q.val, (t.cl d).policy = BitVec.ofNat 2 h.arg0.toNat ∧ (t.cl d).ckpt = false ∧
        (t.cl d).wdog = BitVec.ofNat 9 h.arg2.toNat := by
  obtain ⟨t, hex, hst, hleg, hopc⟩ := State.runs_legal ht (by decide) (i := .relSet q h) rfl hleg fun t _ =>
    t.cmdFree_of_opc _ _ (by rw [s.newCmd_opc _ 0x11 h .none (by decide)]; decide)
  have hany : ((t.relWaits q.val h).part q.val).jobs.any (fun j => j.2.running.isSome) = false := by
    rw [State.relWaits_part]
    refine List.any_eq_false.mpr fun y hy => ?_
    rw [hst.frame.jobs] at hy
    rw [hr y hy]
    exact Bool.false_ne_true
  have hrun : t.startCmd q.val (s.newCmd q.val 0x11 h .none) =
      ((t.relWaits q.val h).takeRel q.val).done1 q.val (s.newCmd q.val 0x11 h .none) stOk 0 0 := (State.startCmd_relSet hopc hleg).trans ((State.doRelSet_waits h1).trans
    (congrArg (fun u : State => u.done1 q.val (s.newCmd q.val 0x11 h .none) stOk 0 0) (if_neg (Bool.eq_false_iff.mp hany))))
  obtain ⟨hf, hp, hd⟩ := State.takeRel_settings (s := t.relWaits q.val h) (p := q.val) (congrArg Part.relPend (t.relWaits_part q.val h))
  have hcl : (t.relWaits q.val h).clustersOf q.val = s.clustersOf q.val := State.clustersOf_congr hst.frame.dev _
  rw [hcl] at hd
  generalize (t.relWaits q.val h).takeRel q.val = v at hf hp hd hrun
  have hdone := v.done1_frame q.val (s.newCmd q.val 0x11 h .none) stOk 0 0
  refine ⟨_, hex.trans (congrArg _ hrun), State.done1_completes ?_ ?_ ?_ stOk 0 0, ?_, fun d hm => ?_⟩
  · rw [State.func, hf]
    exact hst.func
  · rw [hf]
    exact hst.frame.nsW
  · rw [hf]
    exact hst.frame.cycle
  · rw [State.part_congr (s := v) (by rw [hdone])]
    exact hp
  · rw [State.cl_congr (s := v) (by rw [hdone])]
    obtain ⟨ha, hb, hc⟩ := hd d hm
    refine ⟨ha, hb.trans ?_, hc⟩
    rw [h1]
    rfl

theorem relSet_waits (q : Fin 8) (h : CmdHdr) (s : State) (ht : s.takes q.val 0x11 h) (hleg : s.cmdIllegal q.val 0x11 h = false)
    (h1 : h.arg1 = 0#64) (hr : ∃ y ∈ (s.part q.val).jobs, y.2.running.isSome = true) :
    ∃ t, exec (.relSet q h) s = .next t ∧ s.completes t q.val h 0x11 0 0 0 ∧
      (t.part q.val).relPend = some (h.arg0.toNat, 0, h.arg2.toNat) ∧ ∀ d, (t.cl d).policy = (s.cl d).policy := by
  obtain ⟨t, hex, hst, hleg, hopc⟩ := State.runs_legal ht (by decide) (i := .relSet q h) rfl hleg fun t _ =>
    t.cmdFree_of_opc _ _ (by rw [s.newCmd_opc _ 0x11 h .none (by decide)]; decide)
  have hany : ((t.relWaits q.val h).part q.val).jobs.any (fun j => j.2.running.isSome) = true := by
    rw [State.relWaits_part]
    obtain ⟨y, hy, hyr⟩ := hr
    refine List.any_eq_true.mpr ⟨y, ?_, hyr⟩
    rw [hst.frame.jobs]
    exact hy
  have hrun : t.startCmd q.val (s.newCmd q.val 0x11 h .none) =
      (t.relWaits q.val h).done1 q.val (s.newCmd q.val 0x11 h .none) stOk 0 0 := (State.startCmd_relSet hopc hleg).trans ((State.doRelSet_waits h1).trans
    (congrArg (fun u : State => u.done1 q.val (s.newCmd q.val 0x11 h .none) stOk 0 0) (if_pos hany)))
  have hdone := (t.relWaits q.val h).done1_frame q.val (s.newCmd q.val 0x11 h .none) stOk 0 0
  refine ⟨_, hex.trans (congrArg _ hrun),
    State.done1_completes (t := t.relWaits q.val h) hst.func hst.frame.nsW hst.frame.cycle stOk 0 0, ?_, fun d => ?_⟩
  · rw [State.part_congr (s := t.relWaits q.val h) (by rw [hdone]), State.relWaits_part, h1]
    rfl
  · rw [State.cl_congr (s := t) (by rw [hdone]; rfl), hst.frame.cl]

theorem hostReels : Claims.HostReels := by
  intro q h s p c hd
  exact ⟨fun k ht hl hlive hlen hmark hk hq => reelSubmit_queues q h s k ht hl hlive hlen hmark hk hq,
    fun ht hl hr hbad => reelSubmit_refused q h s ht hl hr hbad, fun ht hl hlive => reelDestroy_gone q h s ht hl hlive,
    fun ht hl hlive hs => reelDestroy_busy q h s ht hl hlive hs, fun ht hl h1 hr => relSet_now q h s ht hl h1 hr,
    fun ht hl h1 hr => relSet_waits q h s ht hl h1 hr⟩

/-- Settles O48: the commands on jobs, steps and sequences are one change of a job each, after which the scheduler of a partition at
rest does nothing; those on Reels and REL_SET change the one queue, mark or setting that they name. -/
theorem hostJobsAndReels : Obligations.HostJobsAndReels := ⟨hostJobs, hostReels⟩

end Sys2Proof.Machine
end

section
/-! What work on memory, operations and the fabric leaves as it is: the count of cycles, the time service, the queue of commands, and
the corrected symbols of the links. -/
namespace Sys2Proof.Machine

/-- The count of cycles, the time service, the queue of commands, and the corrected symbols of each link. -/
def State.beat (s : State) : Nat × Time × List Instr × (Nat → BitVec 32) :=
  (s.cycle, s.time, s.pending, fun l => (s.link l).cnt.get 0#32 0x100)

/-! ### Updates of one part of the state -/

@[simp] theorem State.ite_beat (c : Prop) [Decidable c] (s t : State) :
    (if c then s else t).beat = if c then s.beat else t.beat := apply_ite State.beat c s t

@[simp] theorem State.foldl_beat {α : Type} (f : State → α → State) (l : List α) (s : State) (h : ∀ t a, (f t a).beat = t.beat) :
    (l.foldl f s).beat = s.beat :=
  List.foldlRecOn (motive := fun t : State => t.beat = s.beat) l f rfl fun t ht a _ => (h t a).trans ht

/-- A fold of steps that each may fail. -/
theorem State.foldl_beat_fst {α β : Type} (f : State × β → α → State × β) (l : List α) (x : State × β)
    (h : ∀ t a, (f t a).1.beat = t.1.beat) : (l.foldl f x).1.beat = x.1.beat :=
  List.foldlRecOn (motive := fun t : State × β => t.1.beat = x.1.beat) l f rfl fun t ht a _ => (h t a).trans ht

@[simp] theorem State.updPart_beat (s : State) (p : Nat) (f : Part → Part) : (s.updPart p f).beat = s.beat := rfl
@[simp] theorem State.updCore_beat (s : State) (k : Nat) (f : Core → Core) : (s.updCore k f).beat = s.beat := rfl
@[simp] theorem State.updThr_beat (s : State) (k t : Nat) (f : Thread → Thread) : (s.updThr k t f).beat = s.beat := rfl
@[simp] theorem State.updSlot_beat (s : State) (k n : Nat) (f : Slot → Slot) : (s.updSlot k n f).beat = s.beat := rfl
@[simp] theorem State.updCl_beat (s : State) (c : Nat) (f : Cluster → Cluster) : (s.updCl c f).beat = s.beat := rfl
@[simp] theorem State.updFab_beat (s : State) (c n : Nat) (f : FabCmd → FabCmd) : (s.updFab c n f).beat = s.beat := rfl
@[simp] theorem State.updFunc_beat (s : State) (p : Nat) (f : Func → Func) : (s.updFunc p f).beat = s.beat := rfl
@[simp] theorem State.updSecp_beat (s : State) (p : Nat) (f : SecPart → SecPart) : (s.updSecp p f).beat = s.beat := rfl
@[simp] theorem State.updStack_beat (s : State) (n : Nat) (f : Hbm → Hbm) : (s.updStack n f).beat = s.beat := rfl
@[simp] theorem State.updJob_beat (s : State) (p j : Nat) (f : Job → Job) : (s.updJob p j f).beat = s.beat := rfl
@[simp] theorem State.updReel_beat (s : State) (p i : Nat) (f : ReelDyn → ReelDyn) : (s.updReel p i f).beat = s.beat := rfl
@[simp] theorem State.updTdm_beat (s : State) (p : Nat) (f : TdmPort → TdmPort) : (s.updTdm p f).beat = s.beat := rfl
@[simp] theorem State.updOp_beat (s : State) (k n : Nat) (f : DmaOp → DmaOp) : (s.updOp k n f).beat = s.beat := rfl
@[simp] theorem State.setStatus_beat (s : State) (k n st fc : Nat) : (s.setStatus k n st fc).beat = s.beat := rfl
@[simp] theorem State.freshP_beat (s : State) (p n : Nat) : (s.freshP p n).beat = s.beat := rfl
@[simp] theorem State.count_beat (s : State) (k n v : Nat) : (s.count k n v).beat = s.beat := rfl
@[simp] theorem State.addReq_beat (s : State) (p k n : Nat) (r : HostReq) : (s.addReq p k n r).beat = s.beat := rfl
@[simp] theorem State.taintQueues_beat (s : State) (p va n : Nat) : (s.taintQueues p va n).beat = s.beat := rfl
@[simp] theorem State.noteChange_beat (s : State) (p : Nat) (j : Option Nat) (a n : Nat) : (s.noteChange p j a n).beat = s.beat := rfl
@[simp] theorem State.waited_beat (s : State) (k t n : Nat) : (s.waited k t n).beat = s.beat := rfl
@[simp] theorem State.markSrc_beat (s : State) (k t va n m : Nat) : (s.markSrc k t va n m).beat = s.beat := rfl
@[simp] theorem State.carryDirty_beat (s : State) (l : List (Nat × Nat)) : (s.carryDirty l).beat = s.beat := rfl
@[simp] theorem State.hbmLog_beat (s : State) (a n : Nat) : (s.hbmLog a n).beat = s.beat := rfl
@[simp] theorem State.startRepair_beat (s : State) (a : Nat) : (s.startRepair a).beat = s.beat := rfl
@[simp] theorem State.authDrop_beat (s : State) (p : Nat) : (s.authDrop p).beat = s.beat := rfl
@[simp] theorem State.noteCount_beat (s : State) (p a n : Nat) : (s.noteCount p a n).beat = s.beat := rfl
@[simp] theorem State.notReady_beat (s : State) (p : Nat) : (s.notReady p).beat = s.beat := rfl
@[simp] theorem State.setJobs_beat (s : State) (x : SMap Core) : ({ s with cores := x } : State).beat = s.beat := rfl
@[simp] theorem State.setPoisons_beat (s : State) (x : List Nat) : ({ s with poison := x } : State).beat = s.beat := rfl
@[simp] theorem State.setBads_beat (s : State) (x : List Nat) : ({ s with badWords := x } : State).beat = s.beat := rfl

@[simp] theorem State.updCtl_beat (s : State) (c : Option Nat) (f : Ctl → Ctl) : (s.updCtl c f).beat = s.beat := by
  cases c <;> rfl

@[simp] theorem State.ctlEvent_beat (s : State) (c : Option Nat) (w : W64) : (s.ctlEvent c w).beat = s.beat := s.updCtl_beat c _

/-- A change of a link that leaves its corrected symbols. -/
theorem State.updLink_beat (s : State) (l : Nat) (f : Link → Link) (h : ∀ x, (f x).cnt.get 0#32 0x100 = x.cnt.get 0#32 0x100) :
    (s.updLink l f).beat = s.beat := by
  have hl : (fun m => ((s.updLink l f).link m).cnt.get 0#32 0x100) = fun m => (s.link m).cnt.get 0#32 0x100 := by
    funext m
    by_cases hm : m = l
    · subst hm
      rw [State.link_updLink_same, h]
    · rw [State.link_updLink_ne _ _ _ _ hm]
  unfold State.beat
  rw [hl]
  rfl

@[simp] theorem State.linkCnt_beat (s : State) (l : Nat) {off : Nat} (h : off ≠ 0x100) : (s.linkCnt l off).beat = s.beat :=
  s.updLink_beat l _ fun _ => SMap.get_upd_ne _ _ _ _ _ (Ne.symm h)

/-! ### Frames of earlier parts -/

theorem State.onlyMem.beat {s t : State} (h : s.onlyMem t) : t.beat = s.beat := by rw [h]; rfl
theorem State.onlyWork.beat {s t : State} (h : s.onlyWork t) : t.beat = s.beat := by rw [h]; rfl
theorem State.onlyPosts.beat {s t : State} (h : s.onlyPosts t) : t.beat = s.beat := by rw [h]; rfl
theorem State.onlyNotes.beat {s t : State} (h : s.onlyNotes t) : t.beat = s.beat := by rw [h]; rfl
theorem State.onlyCore.beat {s t : State} {k : Nat} (h : s.onlyCore t k) : t.beat = s.beat := by rw [h.1]; rfl
theorem State.onlyReels.beat {s t : State} (h : s.onlyReels t) : t.beat = s.beat := by rw [h.frame]; rfl
theorem State.onlyDailies.beat {s t : State} (h : s.onlyDailies t) : t.beat = s.beat := by rw [h]; rfl

@[simp] theorem State.store_beat (s : State) (a : Nat) (l : List Byte) : (s.store a l).beat = s.beat := (s.store_onlyMem a l).beat
@[simp] theorem State.vwr_beat (s : State) (p va : Nat) (l : List Byte) : (s.vwr p va l).beat = s.beat := (s.vwr_onlyMem p va l).beat
@[simp] theorem State.putPart_beat (s : State) (p va : Nat) (l : List Byte) : (s.putPart p va l).beat = s.beat := (s.putPart_work p va l).beat
@[simp] theorem State.setPte_beat (s : State) (p n : Nat) (e : W64) : (s.setPte p n e).beat = s.beat := (s.setPte_work p n e).beat
@[simp] theorem State.pumpReqs_beat (s : State) (p : Nat) : (s.pumpReqs p).beat = s.beat := (s.pumpReqs_work p).beat
@[simp] theorem State.wakePages_beat (s : State) (p : Nat) : (s.wakePages p).beat = s.beat := (s.wakePages_work p).beat
@[simp] theorem State.complete_beat (s : State) (p n st fc d0 d1 : Nat) : (s.complete p n st fc d0 d1).beat = s.beat :=
  (s.complete_work p n st fc d0 d1).beat
@[simp] theorem State.releaseHeld_beat (s : State) (p : Nat) (o : DmaOp) : (s.releaseHeld p o).beat = s.beat := (s.releaseHeld_work p o).beat
@[simp] theorem State.noteOutside_beat (s : State) (p va : Nat) : (s.noteOutside p va).beat = s.beat := (s.noteOutside_work p va).beat
@[simp] theorem State.finishChunk_beat (s : State) (p : Nat) (c : Chunk) (st fc : Nat) : (s.finishChunk p c st fc).beat = s.beat :=
  (s.finishChunk_work p c st fc).beat
@[simp] theorem State.hostNote_beat (s : State) (p va f : Nat) : (s.hostNote p va f).beat = s.beat := (s.hostNote_onlyNotes p va f).beat
@[simp] theorem State.traceRec_beat (s : State) (k ty t pc d : Nat) : (s.traceRec k ty t pc d).beat = s.beat :=
  (s.traceRec_onlyDailies k ty t pc d).beat
@[simp] theorem State.postUnit_beat (s : State) (a b c d e f g h i j k : Nat) : (s.postUnit a b c d e f g h i j k).beat = s.beat :=
  (s.postUnit_onlyPosts a b c d e f g h i j k).beat
@[simp] theorem State.setRstate_beat (s : State) (p i st : Nat) : (s.setRstate p i st).beat = s.beat := (s.setRstate_onlyMem p i st).beat

/-! ### Errors -/

@[simp] theorem State.logUe_beat (s : State) (a : Nat) (b : Bool) : (s.logUe a b).beat = s.beat := by
  unfold State.logUe
  split
  · simp
  · rfl

@[simp] theorem State.logUeV_beat (s : State) (p va n : Nat) (b : Bool) : (s.logUeV p va n b).beat = s.beat := by
  unfold State.logUeV
  split
  · simp
  · rfl

@[simp] theorem State.tellUe_beat (s : State) (k a : Nat) (b : Bool) : (s.tellUe k a b).beat = s.beat := by
  unfold State.tellUe
  simp

@[simp] theorem State.tellUeV_beat (s : State) (k va n : Nat) (b : Bool) : (s.tellUeV k va n b).beat = s.beat := by
  unfold State.tellUeV
  split <;> simp

@[simp] theorem State.correct_beat (s : State) (a : Nat) : (s.correct a).beat = s.beat := by
  unfold State.correct
  split <;> simp

@[simp] theorem State.owe_beat (s : State) (k i n : Nat) : (s.owe k i n).beat = s.beat := by
  unfold State.owe
  simp

@[simp] theorem State.retry_beat (s : State) (k : Option Nat) (a : Nat) : (s.retry k a).beat = s.beat := by
  unfold State.retry
  split <;> simp

@[simp] theorem State.post_beat (s : State) (q : Nat) (c : Option Nat) (a b d e : Nat) (f : Bool) (g : Nat) :
    (s.post q c a b d e f g).beat = s.beat := (s.post_onlyPosts q c a b d e f g).beat

@[simp] theorem State.postMemUe_beat (s : State) (p : Option Nat) (st va : Nat) : (s.postMemUe p st va).beat = s.beat := by
  unfold State.postMemUe
  cases p <;> simp

@[simp] theorem State.newUe_beat (s : State) (a : Nat) : (s.newUe a).beat = s.beat := by
  unfold State.newUe
  split <;> simp

@[simp] theorem State.meet_beat (s : State) (k : Option Nat) (a : Nat) (e : MemErr) : (s.meet k a e).beat = s.beat := by
  unfold State.meet
  split
  · rfl
  · cases e <;> simp

@[simp] theorem State.hostMeets_beat (s : State) (p : Nat) (l : List (Nat × Nat)) (b : Bool) (e : MemErr) :
    (s.hostMeets p l b e).beat = s.beat := by
  unfold State.hostMeets
  split
  · split
    · simp
    · rfl
  · rfl

@[simp] theorem State.hostMiss_beat (s : State) (p va n : Nat) (e : MemErr) : (s.hostMiss p va n e).beat = s.beat := by
  unfold State.hostMiss
  split <;> simp

/-! ### Bytes written and signed -/

@[simp] theorem State.signWrite_beat (s : State) (k t va : Nat) (l : List Byte) : (s.signWrite k t va l).beat = s.beat := by
  unfold State.signWrite
  extract_lets lock g0 n sum lo hi
  split
  · rfl
  · split <;> rfl

@[simp] theorem State.noteChangeV_beat (s : State) (p : Nat) (j : Option Nat) (va n : Nat) : (s.noteChangeV p j va n).beat = s.beat :=
  State.foldl_beat _ _ _ fun t r => by
    split
    · simp
    · rfl

@[simp] theorem State.hostWrite_beat (s : State) (p va : Nat) (l : List Byte) : (s.hostWrite p va l).1.beat = s.beat := by
  refine State.foldl_beat_fst _ _ (s, none) fun t a => ?_
  dsimp only
  split
  · rfl
  · split
    · simp
    · rfl
    · simp

@[simp] theorem State.setGroup_beat (s : State) (p : Nat) (g : Group) : (s.setGroup p g).beat = s.beat :=
  State.foldl_beat _ _ _ fun t _ => t.setPte_beat _ _ _

@[simp] theorem State.markGroup_beat (s : State) (p : Nat) (g : Group) (b : Bool) : (s.markGroup p g b).beat = s.beat :=
  State.foldl_beat _ _ _ fun t _ => t.setPte_beat _ _ _

@[simp] theorem State.moveGroup_beat (s : State) (k t p : Nat) (g : Group) : (s.moveGroup k t p g).beat = s.beat := by
  unfold State.moveGroup
  simp only [State.setGroup_beat, State.carryDirty_beat]
  rw [State.foldl_beat]
  · rw [State.foldl_beat]
    · rw [State.foldl_beat]
      simp
    · simp
  · intro t a
    simp

/-! ### The engine's reads and writes -/

@[simp] theorem State.settleRead2_beat (s : State) (k t va : Nat) (l : List Byte) : (s.settleRead2 k t va l).2.beat = s.beat := by
  unfold State.settleRead2
  split <;> rfl

@[simp] theorem State.readOp_beat (s : State) (k n a m : Nat) (b : Bool) : (s.readOp k n a m b).2.1.beat = s.beat := by
  unfold State.readOp
  dsimp only
  rw [State.settleRead2_beat]
  split
  · simp
  · simp

@[simp] theorem State.sendHost_beat (s : State) (k n va : Nat) (l : List Byte) : (s.sendHost k n va l).beat = s.beat := by
  unfold State.sendHost
  simp

@[simp] theorem State.write_beat (s : State) (k t va : Nat) (l : List Byte) : (s.write k t va l).beat = s.beat := by
  unfold State.write
  simp

@[simp] theorem State.settle2_beat (s : State) (k t va : Nat) (l : List Byte) : (s.settle2 k t va l).2.beat = s.beat := by
  unfold State.settle2
  split <;> rfl

@[simp] theorem State.writeUpto_beat (s : State) (k t va : Nat) (l : List Byte) : (s.writeUpto k t va l).1.beat = s.beat := by
  refine (State.foldl_beat_fst _ _ ((s.settle2 k t va l).2, none) fun u a => ?_).trans (s.settle2_beat k t va l)
  dsimp only
  split
  · rfl
  · split
    · simp
    · split
      · rfl
      · split <;> simp

@[simp] theorem State.doWrite_beat (s : State) (k n a : Nat) (l : List Byte) : (s.doWrite k n a l).1.beat = s.beat := by
  unfold State.doWrite
  split
  · rfl
  · split
    · split <;> simp
    · simp

@[simp] theorem State.emit_beat (s : State) (k n a : Nat) (l : List Byte) : (s.emit k n a l).1.beat = s.beat := by
  unfold State.emit
  split <;> simp

@[simp] theorem State.copyChunk_beat (s : State) (k n : Nat) (put : List Byte → List Byte) (a b m : Nat) (f : Bool) :
    (s.copyChunk k n put a b m f).1.beat = s.beat := by
  unfold State.copyChunk
  dsimp only
  split
  · split <;> simp
  · simp

@[simp] theorem untilFault_beat {α : Type} (l : List α) (s : State) (f : State → α → State × Option Nat)
    (h : ∀ t a, (f t a).1.beat = t.beat) : (untilFault l s f).1.beat = s.beat :=
  State.foldl_beat_fst _ _ (s, none) fun t a => by
    split
    · rfl
    · exact h _ _

@[simp] theorem State.runPiece_beat (s : State) (k n : Nat) (u : Option Nat) (f : Bool) (x : Piece) :
    (s.runPiece k n u f x).1.beat = s.beat := by
  unfold State.runPiece
  extract_lets p dst l put
  split
  · split
    · exact untilFault_beat _ _ _ fun t _ => t.emit_beat _ _ _ _
    · simp
  · dsimp only
    split
    · exact untilFault_beat _ _ _ fun t _ => t.copyChunk_beat _ _ _ _ _ _ _
    · simp

@[simp] theorem State.failCopy_beat (s : State) (k p n c : Nat) : (s.failCopy k p n c).beat = s.beat := rfl

theorem State.flushWrites_beat (k p n : Nat) : ∀ (m : Nat) (s : State), (s.flushWrites k p n m).beat = s.beat
  | 0, _ => rfl
  | m + 1, s => by
    unfold State.flushWrites
    split
    · dsimp only
      split
      · simp
      · rw [State.flushWrites_beat k p n m]
        simp
    · rfl

@[simp] theorem State.walkRead_beat (s : State) (k t va n : Nat) : (s.walkRead k t va n).2.beat = s.beat := by
  unfold State.walkRead
  dsimp only
  split
  · simp
  · simp

theorem State.labHit_beat {s u : State} {k : Nat} {r : W64} {hi : BitVec 5} {x : W64} (h : s.labHit k r hi = some (x, u)) :
    u.beat = s.beat := by
  unfold State.labHit at h
  split at h
  · obtain ⟨-, rfl⟩ := Prod.mk.inj (Option.some.inj h)
    rfl
  · exact absurd h (by simp)

@[simp] theorem State.labInstall_beat (s : State) (k : Nat) (r : W64) (hi : BitVec 5) (x : W64) : (s.labInstall k r hi x).beat = s.beat := rfl

@[simp] theorem State.kvEntry_beat (s : State) (k t : Nat) (f : Bool) (l n : Nat) : (s.kvEntry k t f l n).2.1.beat = s.beat := by
  unfold State.kvEntry
  split
  · simp
  · split
    · rfl
    · dsimp only
      split
      next h => simp [State.labHit_beat h]
      · split
        · simp
        · split <;> simp

@[simp] theorem State.gatherPiece_beat (s : State) (k t : Nat) (d : List Byte) (i : Nat) : (s.gatherPiece k t d i).2.1.beat = s.beat := by
  unfold State.gatherPiece
  dsimp only
  split
  · simp
  · split <;> simp

@[simp] theorem State.gatherRun_beat (s : State) (k n : Nat) (u : Option Nat) (f : Bool) (d : List Byte) (i : Nat) :
    (s.gatherRun k n u f d i).1.beat = s.beat := by
  unfold State.gatherRun
  refine (untilFault_beat _ _ _ fun t a => ?_).trans (s.updOp_beat k n _)
  dsimp only
  split
  · rfl
  · split
    · rfl
    · split <;> simp

@[simp] theorem State.foundStatus_beat (s : State) (k n : Nat) (c : Option Nat) : (s.foundStatus k n c).beat = s.beat := by
  unfold State.foundStatus
  cases c <;> simp

@[simp] theorem State.gatherOn_beat (s : State) (k n : Nat) : (s.gatherOn k n).beat = s.beat := by
  unfold State.gatherOn State.gatherFound
  dsimp only
  split
  · simp
  · rfl

/-! ### Plans of pages, and host requests that end -/

theorem State.groupFault_beat {s u : State} {k p c : Nat} {g : Group} (h : s.groupFault k p g = some (u, c)) : u.beat = s.beat := by
  unfold State.groupFault at h
  split at h
  · obtain ⟨rfl, -⟩ := Prod.mk.inj (Option.some.inj h)
    simp
  · split at h
    · obtain ⟨rfl, -⟩ := Prod.mk.inj (Option.some.inj h)
      simp
    · split at h
      · obtain ⟨rfl, -⟩ := Prod.mk.inj (Option.some.inj h)
        simp
      · exact absurd h (by simp)

@[simp] theorem State.sendGroup_beat (s : State) (k p n m : Nat) (g : Group) : (s.sendGroup k p n m g).beat = s.beat := by
  unfold State.sendGroup
  simp only [State.pumpReqs_beat, State.markGroup_beat, State.updOp_beat]
  rw [State.foldl_beat]
  · rw [State.foldl_beat]
    exact fun t _ => t.addReq_beat _ _ _ _
  · intro t x
    split <;> simp

@[simp] theorem State.runPlan_beat (k p n : Nat) : ∀ (l : List Group) (s : State), (s.runPlan k p n l).beat = s.beat
  | [], _ => rfl
  | g :: l, s => by
    unfold State.runPlan
    split
    next h => simp [State.groupFault_beat h]
    · split
      · simp
      · rw [State.runPlan_beat k p n l, State.foldl_beat _ _ _ fun t _ => t.taintQueues_beat _ _ _]
        simp

@[simp] theorem State.failPlan_beat (s : State) (k p n c : Nat) : (s.failPlan k p n c).beat = s.beat := by
  unfold State.failPlan
  simp only [State.setStatus_beat, State.updOp_beat, State.updFunc_beat]
  split <;> simp

@[simp] theorem State.endGroup_beat (s : State) (k p n m : Nat) : (s.endGroup k p n m).beat = s.beat := by
  unfold State.endGroup
  split
  · rfl
  · split
    · rfl
    · dsimp only
      split
      · rfl
      · rw [apply_ite State.beat, State.runPlan_beat, ite_self, State.updOp_beat, State.foldl_beat _ _ _ fun t _ => t.taintQueues_beat _ _ _,
          apply_ite State.beat, State.foldl_beat _ _ _ fun t _ => t.markSrc_beat _ _ _ _ _, ite_self,
          State.foldl_beat _ _ _ fun t _ => t.signWrite_beat _ _ _ _, State.setGroup_beat]

/-! ### The fabric -/

theorem State.enqueue_beat (s : State) (l i : Nat) (k : Packet) : (s.enqueue l i k).beat = s.beat := by
  unfold State.enqueue
  dsimp only
  split <;> exact s.updLink_beat l _ fun _ => rfl

@[simp] theorem State.sendPacket_beat (s : State) (i : Nat) (k : Packet) : (s.sendPacket i k).beat = s.beat := by
  unfold State.sendPacket
  split
  · rfl
  · split
    · exact s.enqueue_beat _ _ _
    · split
      · exact s.enqueue_beat _ _ _
      · rfl

@[simp] theorem State.fabStatus_beat (s : State) (p : Nat) (d : List Byte) (st : BitVec 16) : (s.fabStatus p d st).beat = s.beat := by
  unfold State.fabStatus
  split <;> simp

@[simp] theorem State.finishFab_beat (s : State) (c : Nat) (x : FabCmd) (st : BitVec 16) : (s.finishFab c x st).beat = s.beat := by
  unfold State.finishFab
  split <;> simp

@[simp] theorem State.perform_beat (s : State) (p : Nat) (k : Packet) (ctr n : Nat) (d : List Byte) (e : MemErr) :
    (s.perform p k ctr n d e).1.beat = s.beat := by
  unfold State.perform
  extract_lets va u v r m w z
  have hu : u.beat = s.beat := by
    simp only [u]
    split
    · simp
    · simp
    · simp
  rw [← hu]
  split
  · split <;> simp [v]
  · split <;> simp [r]
  · split
    · rfl
    · split <;> simp [w, z]

@[simp] theorem State.withdraw_beat (s : State) (c n : Nat) : (s.withdraw c n).beat = s.beat := by
  unfold State.withdraw
  split
  · rfl
  · exact State.foldl_beat _ _ _ fun t l => t.updLink_beat l _ fun _ => rfl

@[simp] theorem State.settleFab_beat (s : State) (c n : Nat) : (s.settleFab c n).beat = s.beat := by
  unfold State.settleFab
  split
  · rfl
  · split <;> simp

@[simp] theorem State.takeResponse_beat (s : State) (p c : Nat) (x : FabCmd) (k : Packet) (d : List Byte) (e : MemErr) :
    (s.takeResponse p c x k d e).beat = s.beat := by
  unfold State.takeResponse
  extract_lets y u va w r v
  have hr : r.1.beat = s.beat := by
    simp only [r]
    split
    · rfl
    · split
      · simp [w, u]
      · rfl
  have hv : v.beat = r.1.beat := by
    simp only [v]
    split
    · rfl
    · simp
  rw [State.settleFab_beat, hv, hr]

@[simp] theorem State.arriveRsp_beat (s : State) (l : Nat) (k : Packet) (e : MemErr) : (s.arriveRsp l k e).beat = s.beat := by
  unfold State.arriveRsp
  dsimp only
  split
  · simp
  · split
    · simp
    · split <;> simp

@[simp] theorem State.sendBack_beat (s : State) (l : Nat) (k : Packet) : (s.sendBack l k).beat = s.beat := by
  unfold State.sendBack
  split <;> simp

@[simp] theorem State.arriveReq_beat (s : State) (l : Nat) (k : Packet) (e : MemErr) : (s.arriveReq l k e).beat = s.beat := by
  unfold State.arriveReq
  extract_lets p n r
  split
  · simp
  · refine (apply_ite State.beat _ _ _).trans ?_
    refine ite_eq_left_iff.mpr fun _ => ?_
    split
    · split <;> simp
    · simp [r]

@[simp] theorem State.arriveStream_beat (s : State) (l : Nat) (k : Packet) (e : MemErr) : (s.arriveStream l k e).beat = s.beat := by
  unfold State.arriveStream
  dsimp only
  split
  · simp
  · split
    · simp
    · split <;> simp

@[simp] theorem State.sendReq_beat (s : State) (c n off len : Nat) (k : Packet) : (s.sendReq c n off len k).beat = s.beat := by
  unfold State.sendReq
  simp

theorem State.fabReq_beat {s : State} {p : Nat} {x : FabCmd} {off n : Nat} {q : State × Packet} (h : s.fabReq p x off n = .inl q) :
    q.1.beat = s.beat := by
  unfold State.fabReq at h
  dsimp only at h
  split at h
  · split at h
    · obtain rfl := Sum.inl.inj h
      rfl
    · exact absurd h (by simp)
  · obtain rfl := Sum.inl.inj h
    rfl

theorem State.sendMore_beat (c p n : Nat) : ∀ (m : Nat) (s : State), (s.sendMore c p n m).beat = s.beat
  | 0, _ => rfl
  | m + 1, s => by
    unfold State.sendMore
    split
    · rfl
    · split
      · rfl
      · split
        · simp
        · split
          · rfl
          · dsimp only
            split
            next h => rw [State.sendMore_beat c p n m, State.sendReq_beat, State.fabReq_beat h, State.updFab_beat]
            · simp

@[simp] theorem State.pumpFab_beat (s : State) (c p : Nat) : (s.pumpFab c p).beat = s.beat :=
  State.foldl_beat _ _ _ fun t _ => (State.settleFab_beat _ _ _).trans (State.sendMore_beat _ _ _ _ t)

@[simp] theorem State.pumpFabs_beat (s : State) (p : Nat) : (s.pumpFabs p).beat = s.beat :=
  State.foldl_beat _ _ _ fun t _ => t.pumpFab_beat _ p

@[simp] theorem State.retryFab_beat (s : State) (p : Nat) : (s.retryFab p).beat = s.beat := by
  unfold State.retryFab
  dsimp only
  rw [State.pumpFabs_beat]
  refine (State.foldl_beat _ _ _ fun t x => ?_).trans (s.updPart_beat p _)
  split
  · simp
  · split <;> simp

end Sys2Proof.Machine
end

section
/-! What the scheduler and the host's commands leave as it is: the count of cycles, the time service, the queue of commands, and the
corrected symbols of the links. -/
namespace Sys2Proof.Machine

/-! ### Jobs that are placed and leave -/

@[simp] theorem State.unbindReel_beat (s : State) (p i : Nat) : (s.unbindReel p i).beat = s.beat := (s.unbindReel_onlyReels p i).beat
@[simp] theorem State.reelGone_beat (s : State) (p i : Nat) : (s.reelGone p i).beat = s.beat := (s.reelGone_onlyReels p i).beat

@[simp] theorem State.shiftPage_beat (s : State) (p k n h : Nat) : (s.shiftPage p k n h).beat = s.beat := by
  unfold State.shiftPage
  dsimp only
  split <;> simp

@[simp] theorem State.leaveCore_beat (s : State) (p j i l q : Nat) (b : Bool) : (s.leaveCore p j i l q b).beat = s.beat := by
  unfold State.leaveCore
  split
  · rfl
  · dsimp only
    rw [State.updCore_beat, State.foldl_beat _ _ _ fun t r => (t.unbindReel p r).setRstate_beat _ _ _ |>.trans (t.unbindReel_beat p r),
      State.foldl_beat _ _ _ fun t n => (State.shiftPage_beat _ p _ n _).trans (t.updJob_beat p j _)]
    simp

@[simp] theorem State.placeJob_beat (s : State) (p j : Nat) (l : List (Nat × Nat)) : (s.placeJob p j l).beat = s.beat := by
  unfold State.placeJob
  refine (State.foldl_beat _ _ _ fun t x => ?_).trans (s.updJob_beat p j _)
  split <;> rfl

@[simp] theorem State.preempt_beat (s : State) (p j : Nat) : (s.preempt p j).beat = s.beat := by
  unfold State.preempt
  extract_lets x l a b
  have ha : a.beat = s.beat := State.foldl_beat _ _ _ fun t y => by
    split
    · split <;> simp
    · rfl
  have hb : b.beat = s.beat := State.foldl_beat _ _ _ fun t y => t.leaveCore_beat _ _ _ _ _ _
  simp [ha, hb]

theorem State.markVictims_beat (p h : Nat) : ∀ (n : Nat) (s : State), (s.markVictims p h n).beat = s.beat
  | 0, _ => rfl
  | n + 1, s => by
    unfold State.markVictims
    dsimp only
    split
    · rfl
    · split
      · rfl
      · exact (State.markVictims_beat p h n _).trans (s.updJob_beat p _ _)

theorem State.placeLoop_beat (p : Nat) : ∀ (n : Nat) (s : State), (s.placeLoop p n).beat = s.beat
  | 0, _ => rfl
  | n + 1, s => by
    unfold State.placeLoop
    split
    · rfl
    · extract_lets x u v
      have hv : v.beat = s.beat := (State.foldl_beat _ _ _ fun t i => t.preempt_beat p i).trans (s.markVictims_beat p _ _)
      split
      · split
        · exact (State.placeLoop_beat p n _).trans (s.placeJob_beat p _ _)
        · rfl
      · split
        · split
          · exact (State.placeLoop_beat p n _).trans ((v.placeJob_beat p _ _).trans hv)
          · exact hv
        · exact hv

/-! ### The KV pool -/

@[simp] theorem State.setList_beat (s : State) (p j q i n : Nat) : (s.setList p j q i n).beat = s.beat := s.putPart_beat p _ _
@[simp] theorem State.addKvReq_beat (s : State) (p j q i : Nat) (x : Nat × Nat × Nat) (d : Option (List Byte)) :
    (s.addKvReq p j q i x d).beat = s.beat := rfl
@[simp] theorem State.giveKv_beat (s : State) (p j q : Nat) : (s.giveKv p j q).beat = s.beat := rfl

@[simp] theorem State.takeKv_beat (s : State) (p j q n : Nat) : (s.takeKv p j q n).beat = s.beat := by
  unfold State.takeKv
  simp

@[simp] theorem State.kvRead_beat (s : State) (p j n : Nat) : (s.kvRead p j n).2.beat = s.beat :=
  List.foldlRecOn (motive := fun t : List Byte × State => t.2.beat = s.beat) _ _ rfl fun t ht a _ => by
    dsimp only
    split
    · simp [ht]
    · exact ht

@[simp] theorem State.kvWrite_beat (s : State) (p j q i n : Nat) (d : List Byte) : (s.kvWrite p j q i n d).beat = s.beat := by
  unfold State.kvWrite
  dsimp only
  rw [State.pumpReqs_beat, State.foldl_beat _ _ _ fun t x => t.addKvReq_beat p j q i x _,
    State.foldl_beat _ _ _ fun t l => t.putPart_beat p _ _]

@[simp] theorem State.swapOutPage_beat (s : State) (p j q i : Nat) : (s.swapOutPage p j q i).beat = s.beat := by
  unfold State.swapOutPage
  dsimp only
  split
  · rfl
  · rw [State.setList_beat, State.pumpReqs_beat, State.foldl_beat _ _ _ fun t x => t.addKvReq_beat p j q i x _, State.updJob_beat,
      State.kvRead_beat]

@[simp] theorem State.swapOutSeq_beat (s : State) (p j q : Nat) (b : Bool) : (s.swapOutSeq p j q b).beat = s.beat := by
  have hfold := State.foldl_beat (fun (s : State) (i : Nat) => s.swapOutPage p j q i)
    (upTo ((s.job p j).seqs.get Seq.init q).pages.length) s fun t i => t.swapOutPage_beat p j q i
  unfold State.swapOutSeq
  dsimp only
  split <;> simp [hfold]

theorem State.onePage_beat (p j q : Nat) : ∀ (n : Nat) (s : State), (s.onePage p j q n).beat = s.beat
  | 0, _ => rfl
  | n + 1, s => by
    unfold State.onePage
    split
    · rfl
    · split
      · simp
      · split
        · rfl
        · exact (State.onePage_beat p j q n _).trans (s.swapOutSeq_beat p j _ _)

@[simp] theorem State.swapInSeq_beat (s : State) (p j q : Nat) : (s.swapInSeq p j q).beat = s.beat := by
  unfold State.swapInSeq
  refine (State.foldl_beat _ _ _ fun t d => ?_).trans (s.updJob_beat p j _)
  split <;> simp

theorem State.swapIns_beat (p j : Nat) : ∀ (n : Nat) (s : State), (s.swapIns p j n).beat = s.beat
  | 0, _ => rfl
  | n + 1, s => by
    unfold State.swapIns
    dsimp only
    split
    · rfl
    · split
      · rfl
      · exact (State.swapIns_beat p j n _).trans (s.swapInSeq_beat p j _)

theorem State.growPlan_beat (p j : Nat) : ∀ (n : Nat) (s : State), (s.growPlan p j n).beat = s.beat
  | 0, _ => rfl
  | n + 1, s => by
    unfold State.growPlan
    dsimp only
    split
    · rfl
    · exact (State.growPlan_beat p j n _).trans (State.onePage_beat p j _ _ s)

@[simp] theorem State.kvAct_beat (s : State) (p j : Nat) : (s.kvAct p j).beat = s.beat := by
  unfold State.kvAct
  dsimp only
  split
  · rfl
  · exact (State.growPlan_beat p j _ _).trans (s.swapIns_beat p j _)

/-! ### Steps -/

@[simp] theorem State.startThread_beat (s : State) (k t : Nat) (pc : W64) (r : List (Nat × W64)) (c : Option Nat) :
    (s.startThread k t pc r c).beat = s.beat := rfl

@[simp] theorem State.launch_beat (s : State) (p j : Nat) : (s.launch p j).beat = s.beat := by
  unfold State.launch
  dsimp only
  split
  · rfl
  · refine (State.foldl_beat _ _ _ fun t k => ?_).trans (s.updJob_beat p j _)
    rw [State.traceRec_beat, State.foldl_beat _ _ _ fun t n => t.startThread_beat k n _ _ _]
    rfl

@[simp] theorem State.beginStep_beat (s : State) (p j n : Nat) (a : BitVec 64) (c : Option Nat) : (s.beginStep p j n a c).beat = s.beat := by
  unfold State.beginStep
  dsimp only
  split <;> simp

@[simp] theorem State.buildStep_beat (s : State) (p j : Nat) : (s.buildStep p j).beat = s.beat := by
  unfold State.buildStep
  dsimp only
  split
  · rfl
  · split <;> simp

@[simp] theorem State.schedule_beat (s : State) (p : Nat) : (s.schedule p).beat = s.beat := by
  unfold State.schedule
  refine (State.foldl_beat _ _ _ fun t j => ?_).trans (s.placeLoop_beat p _)
  split <;> simp

@[simp] theorem State.retireSeqs_beat (s : State) (p j : Nat) : (s.retireSeqs p j).beat = s.beat := by
  unfold State.retireSeqs
  refine State.foldl_beat _ _ _ fun t q => ?_
  dsimp only
  split
  · rfl
  · split <;> simp

/-! ### Cores that are declared failed, and jobs that end -/

@[simp] theorem State.postCore_beat (s : State) (k lg kind a u w : Nat) : (s.postCore k lg kind a u w).beat = s.beat :=
  (s.postCore_work k lg kind a u w).beat

theorem State.fenced_beat (s : State) (k : Nat) : (s.fenced k).beat = s.beat := (s.abandonDma_work (s.partOf k) k).beat

@[simp] theorem State.fenceCore_beat (s : State) (k kind : Nat) : (s.fenceCore k kind).beat = s.beat := by
  have hlost : ∀ j jobs, ((s.fenced k).lostCore (s.partOf k) k j (s.core k) jobs).beat = s.beat := fun j jobs =>
    ((s.fenced k).lostCore_work (s.partOf k) k j (s.core k) jobs).beat.trans (s.fenced_beat k)
  have hspared : ∀ j sp b, ((s.fenced k).sparedBy k j sp b (s.core k)).beat = s.beat := fun j sp b => s.fenced_beat k
  rw [State.fenceCore_eq]
  dsimp only
  split
  · simp [State.fenced_beat]
  · split
    · split
      · simp [hspared]
      · rw [State.updCl_beat, (State.stopMembers_work _ _ _ _ _ _ _).beat, hspared]
    · simp [hlost]

@[simp] theorem State.takeDecl_beat (s : State) (k : Nat) : (s.takeDecl k).beat = s.beat := by
  unfold State.takeDecl
  split
  · rfl
  · refine (State.foldl_beat _ _ _ fun t d => ?_).trans (s.updCl_beat _ _)
    unfold State.declareCore
    simp

@[simp] theorem State.removeJob_beat (s : State) (p j : Nat) : (s.removeJob p j).beat = s.beat := by
  unfold State.removeJob
  extract_lets x l a b waits c d e
  have ha : a.beat = s.beat := State.foldl_beat _ _ _ fun t y => by
    split
    · split <;> simp
    · rfl
  have hb : b.beat = a.beat := State.foldl_beat _ _ _ fun t q => by
    split <;> simp
  have hc : c.beat = b.beat := State.foldl_beat _ _ _ fun t w => t.complete_beat p _ _ _ _ _
  have he : e.beat = d.beat := State.foldl_beat _ _ _ fun t k => t.takeDecl_beat k
  have hall : e.beat = s.beat := he.trans (hc.trans (hb.trans ha))
  split
  · rw [State.complete_beat, hall]
  · exact hall

/-! ### The host's commands -/

@[simp] theorem State.done1_beat (s : State) (p : Nat) (c : HCmd) (st fc d0 : Nat) : (s.done1 p c st fc d0).beat = s.beat :=
  s.complete_beat p _ _ _ _ _

theorem State.findFrames_beat (s : State) (p h u : Nat) (mk : Nat → Nat → W64) : ∀ (n a : Nat) (t v : State),
    s.findFrames p h u mk n a t = some v → v.beat = t.beat
  | 0, _, t, v, hv => by
    obtain rfl := Option.some.inj hv
    rfl
  | n + 1, a, t, v, hv => by
    unfold State.findFrames at hv
    split at hv
    · exact absurd hv (by simp)
    · rw [State.findFrames_beat s p h u mk n _ _ v hv, State.foldl_beat _ _ _ fun t _ => t.setPte_beat p _ _]

theorem State.alloc_beat {s : State} {p f b l : Nat} {r : State × Nat} (h : s.alloc p f b l = some r) : r.1.beat = s.beat := by
  unfold State.alloc at h
  extract_lets home pin sh big pl q u n hm at h
  clear_value hm
  split at h
  · exact absurd h (by simp)
  · split at h
    · exact absurd h (by simp)
    · split at h
      · exact absurd h (by simp)
      next hf =>
        obtain rfl := Option.some.inj h
        exact (State.updPart_beat _ p _).trans (State.findFrames_beat _ _ _ _ _ _ _ _ _ hf)

@[simp] theorem State.free_beat (s : State) (p n : Nat) (a : Alloc) : (s.free p n a).beat = s.beat :=
  State.foldl_beat _ _ _ fun t _ => t.setPte_beat p _ _

@[simp] theorem State.sealPages_beat (s : State) (p n : Nat) (a : Alloc) : (s.sealPages p n a).beat = s.beat :=
  State.foldl_beat _ _ _ fun t _ => t.setPte_beat p _ _

@[simp] theorem State.submitChunk_beat (s : State) (p : Nat) (c : Chunk) : (s.submitChunk p c).beat = s.beat := by
  unfold State.submitChunk
  dsimp only
  split
  · simp
  · split
    · simp
    · split
      · simp
      · split <;> simp

@[simp] theorem State.destroyReel_beat (s : State) (p h : Nat) : (s.destroyReel p h).2.beat = s.beat := by
  unfold State.destroyReel
  dsimp only
  split
  · rfl
  · split <;> simp

@[simp] theorem State.checkpointJob_beat (s : State) (p j : Nat) : (s.checkpointJob p j).beat = s.beat := by
  rw [(s.checkpointJob_onlyJobs p j).1]
  rfl

@[simp] theorem State.takeRel_beat (s : State) (p : Nat) : (s.takeRel p).beat = s.beat := by
  unfold State.takeRel
  split
  · rfl
  · refine (State.foldl_beat _ _ _ fun t x => t.checkpointJob_beat p _).trans ?_
    unfold State.applyRel
    split
    · rfl
    · exact (State.updPart_beat _ _ _).trans (State.foldl_beat _ _ _ fun t c => t.updCl_beat c _)

@[simp] theorem State.dropLinkKey_beat (s : State) (p j : Nat) : (s.dropLinkKey p j).beat = s.beat := by
  have h : (s.abandonFabOf p j).beat = s.beat := State.foldl_beat _ _ _ fun t c =>
    State.foldl_beat _ _ _ fun u x => u.finishFab_beat c x _
  unfold State.dropLinkKey
  dsimp only
  split
  · exact h
  · exact h

@[simp] theorem State.doLinkKey_beat (s : State) (p : Nat) (c : HCmd) : (s.doLinkKey p c).beat = s.beat := by
  unfold State.doLinkKey
  dsimp only
  split
  · simp
  · split
    · simp
    · split <;> simp

@[simp] theorem State.cmdWrite_beat (s : State) (p : Nat) (c : HCmd) : (s.cmdWrite p c).beat = s.beat := by
  unfold State.cmdWrite
  dsimp only
  split
  · simp
  · split <;> simp

@[simp] theorem State.doRead_beat (s : State) (p : Nat) (c : HCmd) : (s.doRead p c).beat = s.beat := by
  unfold State.doRead
  dsimp only
  split
  · simp
  · exact (State.updFunc_beat _ _ _).trans (s.hostMeets_beat p _ _ _)

@[simp] theorem State.doMove_beat (s : State) (p : Nat) (c : HCmd) : (s.doMove p c).beat = s.beat := by
  unfold State.doMove
  split <;> simp

@[simp] theorem State.doMeasure_beat (s : State) (p : Nat) (c : HCmd) : (s.doMeasure p c).beat = s.beat := by
  unfold State.doMeasure
  dsimp only
  split <;> simp

@[simp] theorem State.doSession_beat (s : State) (p : Nat) (c : HCmd) : (s.doSession p c).beat = s.beat := by
  unfold State.doSession
  dsimp only
  split <;> simp

@[simp] theorem State.doRelSet_beat (s : State) (p : Nat) (c : HCmd) : (s.doRelSet p c).beat = s.beat := by
  unfold State.doRelSet
  dsimp only
  split
  · simp
  · rw [State.done1_beat]
    split <;> simp

@[simp] theorem State.doCreate_beat (s : State) (p : Nat) (c : HCmd) : (s.doCreate p c).beat = s.beat := by
  unfold State.doCreate
  simp

@[simp] theorem State.doSet_beat (s : State) (p : Nat) (c : HCmd) : (s.doSet p c).beat = s.beat := by
  unfold State.doSet
  simp

@[simp] theorem State.doAdmit_beat (s : State) (p : Nat) (c : HCmd) : (s.doAdmit p c).beat = s.beat := by
  unfold State.doAdmit
  simp

@[simp] theorem State.doRun_beat (s : State) (p : Nat) (c : HCmd) : (s.doRun p c).beat = s.beat := by
  unfold State.doRun
  simp

@[simp] theorem State.doEnd_beat (s : State) (p : Nat) (c : HCmd) : (s.doEnd p c).beat = s.beat := by
  unfold State.doEnd
  simp

@[simp] theorem State.doHostmap_beat (s : State) (p : Nat) (c : HCmd) : (s.doHostmap p c).beat = s.beat := by
  unfold State.doHostmap
  simp

@[simp] theorem State.startCmd_beat (s : State) (p : Nat) (c : HCmd) : (s.startCmd p c).beat = s.beat := by
  unfold State.startCmd
  extract_lets h j u ch r
  split
  · simp
  · split
    case h_3 => simp [u, State.ite_beat]
    case h_8 =>
      split
      next hr => simp [State.alloc_beat hr]
      · simp
    case h_9 => split <;> simp
    case h_11 =>
      split
      · split <;> simp
      · simp
    case h_16 => simp [r]
    all_goals simp

theorem State.pumpN_beat (p : Nat) : ∀ (n : Nat) (s : State), (s.pumpN p n).beat = s.beat
  | 0, _ => rfl
  | n + 1, s => by
    unfold State.pumpN
    split
    · rfl
    · exact (State.pumpN_beat p n _).trans ((State.startCmd_beat _ _ _).trans (s.updFunc_beat p _))

@[simp] theorem State.pump_beat (s : State) (p : Nat) : (s.pump p).beat = s.beat := s.pumpN_beat p _

@[simp] theorem State.arriveCmd_beat (s : State) (p n : Nat) (h : CmdHdr) (e : MemErr) : (s.arriveCmd p n h e).beat = s.beat := by
  unfold State.arriveCmd
  dsimp only
  split
  · rfl
  · rfl
  · split
    · rfl
    · simp

end Sys2Proof.Machine
end

section
/-! One step of the device: the command at the front, or a cycle of CK_CTL (R445, R584, R588). -/
namespace Sys2Proof.Machine

/-! ### Records, audio and the feed -/

@[simp] theorem State.after_beat (s : State) (p : Nat) : (s.after p).beat = s.beat := by
  unfold State.after
  simp

@[simp] theorem State.reqDone_beat (s : State) (p n : Nat) : (s.reqDone p n).beat = s.beat := by
  unfold State.reqDone
  split
  · rfl
  · dsimp only
    split <;> simp

@[simp] theorem State.hostLand_beat (s : State) (p : Nat) (r : HostReq) (d : List Byte) : (s.hostLand p r d).beat = s.beat := by
  unfold State.hostLand
  split
  · split
    · rfl
    · split <;> simp
  · dsimp only
    rw [State.gatherOn_beat, State.flushWrites_beat, State.updOp_beat]

@[simp] theorem State.kvLand_beat (s : State) (p : Nat) (x : Nat × Nat × Nat × Nat) (d : List Byte) : (s.kvLand p x d).beat = s.beat := by
  unfold State.kvLand
  dsimp only
  split <;> rfl

@[simp] theorem State.hostArrive_beat (s : State) (p n : Nat) (d : List Byte) : (s.hostArrive p n d).beat = s.beat := by
  unfold State.hostArrive
  split
  · rfl
  · rw [State.reqDone_beat]
    split <;> simp

theorem State.takeHostData_beat (p : Nat) : ∀ (n : Nat) (s : State), (s.takeHostData p n).beat = s.beat
  | 0, _ => rfl
  | n + 1, s => by
    unfold State.takeHostData
    dsimp only
    split
    · rfl
    · exact (State.takeHostData_beat p n _).trans ((State.hostArrive_beat _ p _ _).trans (s.updSecp_beat p _))

theorem State.takeCmds_beat (p : Nat) : ∀ (n : Nat) (s : State), (s.takeCmds p n).beat = s.beat
  | 0, _ => rfl
  | n + 1, s => by
    have hdata := s.takeHostData_beat p ((s.secp p).ep2.length / 64)
    unfold State.takeCmds
    generalize s.takeHostData p ((s.secp p).ep2.length / 64) = u at hdata
    dsimp only
    split
    · exact hdata
    · split
      · exact hdata
      · split
        · split
          · exact hdata
          · exact (State.takeCmds_beat p n _).trans ((State.arriveCmd_beat _ p _ _ _).trans hdata)
        · exact (State.takeCmds_beat p n _).trans ((State.arriveCmd_beat _ p _ _ _).trans hdata)

@[simp] theorem State.ringTail_beat (s : State) (p : Nat) (r : Ring) : (s.ringTail p r).2.beat = s.beat := by
  unfold State.ringTail
  split <;> simp

@[simp] theorem State.sendStream_beat (s : State) (p : Nat) (n : BitVec 18) (va : Nat) (l : List Byte) :
    (s.sendStream p n va l).beat = s.beat :=
  State.foldl_beat _ _ _ fun t i => by
    dsimp only
    split
    · simp
    · split <;> simp

@[simp] theorem State.ringWrite_beat (s : State) (p : Nat) (r : Ring) (va : Nat) (l : List Byte) : (s.ringWrite p r va l).1.beat = s.beat := by
  unfold State.ringWrite
  split <;> simp

@[simp] theorem State.tdmBlock_beat (s : State) (own p f : Nat) (ns : W64) (b : List (List (BitVec 24))) (e : MemErr) :
    (s.tdmBlock own p f ns b e).beat = s.beat := by
  unfold State.tdmBlock
  extract_lets t r tl u recd data v w h w'
  have hu : u.beat = s.beat := by
    simp only [u, tl]
    split <;> simp
  have hv : v.beat = s.beat := by
    simp only [v]
    split <;> simp [hu]
  have hw : w.1.beat = s.beat := (v.ringWrite_beat own r _ _).trans hv
  have hw' : w'.1.beat = s.beat := by
    simp only [w']
    split <;> simp [hw]
  split
  · exact hu
  · split
    · exact hw'
    · exact hw'

@[simp] theorem State.pinnedFrame_beat (s : State) (own p f : Nat) (g : Bool) (x : List (List (BitVec 24))) (e : MemErr) :
    (s.pinnedFrame own p f g x e).1.beat = s.beat := by
  unfold State.pinnedFrame
  extract_lets t b ib tp data u w
  have hw : w.1.beat = s.beat := by simp [w, u]
  split
  · simp [hw]
  · simp [hw]
  · exact hw

@[simp] theorem State.tdmLand_beat (s : State) (own p : Nat) (x : Nat × Bool × W64 × List (List (BitVec 24))) (e : MemErr) :
    (s.tdmLand own p x e).beat = s.beat := by
  unfold State.tdmLand
  dsimp only
  split
  · simp
  · split <;> simp

theorem State.tdmFlushN_beat (p : Nat) : ∀ (n : Nat) (e : MemErr) (s : State), (s.tdmFlushN p e n).beat = s.beat
  | 0, _, _ => rfl
  | n + 1, e, s => by
    unfold State.tdmFlushN
    split
    · split
      · rfl
      · rw [State.tdmFlushN_beat p n]
        simp
    · rfl

@[simp] theorem State.feedWrite_beat (s : State) (b : Nat) (r : Bool) : (s.feedWrite b r).beat = s.beat := by
  unfold State.feedWrite
  extract_lets p q head t u aon next slot flags recd data w h w'
  have hu : u.beat = s.beat := s.ringTail_beat p q
  have hw : w.1.beat = s.beat := (u.hostWrite_beat p _ _).trans hu
  have hw' : w'.1.beat = s.beat := by
    simp only [w']
    split <;> simp [hw]
  split
  · exact hu
  · split
    · exact hw'
    · exact hw'

theorem State.feedFlushN_beat : ∀ (n : Nat) (s : State), (s.feedFlushN n).beat = s.beat
  | 0, _ => rfl
  | n + 1, s => by
    unfold State.feedFlushN
    split
    · split
      · rfl
      · exact (State.feedFlushN_beat n _).trans (State.feedWrite_beat _ _ _)
    · rfl

/-! ### The stalls of a core -/

/-- A core with a list of stall causes counted. -/
def Core.countAll (l : List (Nat × Nat)) (c : Core) : Core := l.foldl (fun c x => if x.2 = 0 then c else c.count x.1 x.2) c

theorem Core.countAll_eq (l : List (Nat × Nat)) (c : Core) :
    c.countAll l = { c with cnt := (c.countAll l).cnt, winE := (c.countAll l).winE } :=
  List.foldlRecOn (motive := fun d : Core => d = { c with cnt := d.cnt, winE := d.winE }) l _ rfl fun d hd x _ => by
    split
    · exact hd
    · rw [Core.count_eq d x.1 x.2, hd]

theorem Core.countAll_owed (l : List (Nat × Nat)) (c : Core) : (c.countAll l).owed = c.owed := by
  rw [Core.countAll_eq]

theorem Core.count_get {n : Nat} (h : cntAlways n = true) (c : Core) (v i : Nat) :
    (c.count n v).cnt.get 0#64 i = c.cnt.get 0#64 i + (if i = n then BitVec.ofNat 64 v else 0#64) := by
  unfold Core.count
  simp only [h, Bool.true_or, if_true]
  by_cases hi : i = n
  · subst hi
    rw [SMap.get_put_same, if_pos rfl, BitVec.ofNat_add, BitVec.ofNat_toNat, BitVec.setWidth_eq]
  · rw [SMap.get_put_ne _ _ _ _ _ hi, if_neg hi, BitVec.add_zero]

/-- What a list of stall causes adds to a counter. -/
def stallOf (l : List (Nat × Nat)) (i : Nat) : Nat := ((l.filter (fun x => x.1 == i)).map (fun x => x.2)).sum

theorem stallOf_cons (x : Nat × Nat) (l : List (Nat × Nat)) (i : Nat) :
    stallOf (x :: l) i = (if i = x.1 then x.2 else 0) + stallOf l i := by
  unfold stallOf
  by_cases h : i = x.1
  · simp [h]
  · simp [h, Ne.symm h]

theorem Core.countAll_get (i : Nat) : ∀ (l : List (Nat × Nat)) (c : Core), (∀ x ∈ l, cntAlways x.1 = true) →
    (c.countAll l).cnt.get 0#64 i = c.cnt.get 0#64 i + BitVec.ofNat 64 (stallOf l i)
  | [], c, _ => (BitVec.add_zero _).symm
  | x :: l, c, h => by
    have hx := h x (List.mem_cons_self ..)
    have hstep : c.countAll (x :: l) = (if x.2 = 0 then c else c.count x.1 x.2).countAll l := rfl
    rw [hstep, Core.countAll_get i l _ fun y hy => h y (List.mem_cons_of_mem _ hy), stallOf_cons, BitVec.ofNat_add, ← BitVec.add_assoc]
    congr 1
    by_cases h0 : x.2 = 0
    · simp [h0]
    · rw [if_neg h0, Core.count_get hx]
      split <;> rfl

/-- A core whose clock has gone on by d cycles, in which the causes of a list stalled it. -/
def Core.stalled (l : List (Nat × Nat)) (d : Nat) (c : Core) : Core :=
  { c.countAll l with hostCame := false, owed := c.owed.filterMap (fun x => if x.2 ≤ d then none else some (x.1, x.2 - d)) }

theorem State.countAll_core (k : Nat) : ∀ (l : List (Nat × Nat)) (t : State),
    t.onlyCore (l.foldl (fun t x => if x.2 = 0 then t else t.count k x.1 x.2) t) k ∧
      (l.foldl (fun t x => if x.2 = 0 then t else t.count k x.1 x.2) t).core k = (t.core k).countAll l
  | [], t => ⟨t.onlyCore_refl k, rfl⟩
  | x :: l, t => by
    rw [List.foldl_cons]
    obtain ⟨ho, hc⟩ := State.countAll_core k l (if x.2 = 0 then t else t.count k x.1 x.2)
    by_cases h0 : x.2 = 0
    · rw [if_pos h0] at ho hc ⊢
      refine ⟨ho, hc.trans ?_⟩
      unfold Core.countAll
      rw [List.foldl_cons, if_pos h0]
    · rw [if_neg h0] at ho hc ⊢
      refine ⟨State.onlyCore.trans (State.onlyCore_updCore t k _) ho, hc.trans ?_⟩
      unfold Core.countAll
      rw [List.foldl_cons, if_neg h0, State.count, State.core_updCore_same]

/-- The cycles that a core's clock brought in a cycle of CK_CTL. -/
def State.newCycles (s t : State) (k : Nat) : Nat := t.clCycle (keyCl k) - s.clCycle (keyCl k)

/-- A core after a cycle of CK_CTL. -/
def State.ticked (s t : State) (k : Nat) : Core :=
  if s.clCycle (keyCl k) = t.clCycle (keyCl k) then s.core k
  else (s.core k).stalled (s.waits k (s.clCycle (keyCl k)) (t.clCycle (keyCl k))) (s.newCycles t k)

theorem State.countWaits_core {s t : State} {k : Nat} (h : t.core k = s.core k) :
    t.onlyCore (s.countWaits t k) k ∧ (s.countWaits t k).core k = s.ticked t k := by
  unfold State.countWaits State.ticked
  dsimp only
  by_cases hab : s.clCycle (keyCl k) = t.clCycle (keyCl k)
  · rw [if_pos hab, if_pos hab]
    exact ⟨t.onlyCore_refl k, h⟩
  · rw [if_neg hab, if_neg hab]
    obtain ⟨ho, hc⟩ := State.countAll_core k (s.waits k (s.clCycle (keyCl k)) (t.clCycle (keyCl k))) t
    refine ⟨ho.trans (State.onlyCore_updCore _ k _), ?_⟩
    rw [State.core_updCore_same, hc, h]
    unfold Core.stalled State.newCycles
    rw [Core.countAll_owed]

theorem State.onlyCore.clCycle {s t : State} {k : Nat} (h : s.onlyCore t k) (c : Nat) : t.clCycle c = s.clCycle c := by
  unfold State.clCycle State.clkMHz
  rw [h.1]

/-- The cores of a list, each once, after a cycle of CK_CTL. -/
theorem State.foldl_countWaits (s : State) : ∀ (l : List Nat) (t : State), l.Nodup → (∀ k ∈ l, t.core k = s.core k) →
    (l.foldl (fun t k => s.countWaits t k) t = { t with cores := (l.foldl (fun t k => s.countWaits t k) t).cores }) ∧
      ∀ k, (l.foldl (fun t k => s.countWaits t k) t).core k = if k ∈ l then s.ticked t k else t.core k
  | [], t, _, _ => ⟨rfl, fun _ => rfl⟩
  | j :: l, t, hnd, h => by
    rw [List.foldl_cons]
    obtain ⟨hj, hnd⟩ := List.nodup_cons.mp hnd
    obtain ⟨ho, hc⟩ := State.countWaits_core (h j (List.mem_cons_self ..))
    obtain ⟨hf, hk⟩ := State.foldl_countWaits s l (s.countWaits t j) hnd fun k hk => by
      rw [ho.2 k fun he => hj (he ▸ hk)]
      exact h k (List.mem_cons_of_mem _ hk)
    have htick : ∀ k, s.ticked (s.countWaits t j) k = s.ticked t k := fun k => by
      unfold State.ticked State.newCycles
      rw [ho.clCycle]
    refine ⟨by rw [hf, ho.1], fun k => ?_⟩
    rw [hk k, htick]
    by_cases hkj : k = j
    · subst hkj
      rw [if_neg hj, if_pos (List.mem_cons_self ..), hc]
    · rw [ho.2 k hkj]
      simp only [List.mem_cons, hkj, false_or]

/-! ### What each counter takes -/

theorem State.waits_always (s : State) (k a b : Nat) : ∀ x ∈ s.waits k a b, cntAlways x.1 = true := by
  unfold State.waits
  simp only [List.forall_mem_cons, List.not_mem_nil, false_implies, implies_true, and_true]
  exact ⟨by decide, by decide, by decide, by decide, by decide, by decide⟩

theorem State.ticked_get (s t : State) (k i : Nat) : (s.ticked t k).cnt.get 0#64 i = (s.core k).cnt.get 0#64 i +
    (if s.clCycle (keyCl k) = t.clCycle (keyCl k) then 0#64
      else BitVec.ofNat 64 (stallOf (s.waits k (s.clCycle (keyCl k)) (t.clCycle (keyCl k))) i)) := by
  unfold State.ticked
  split
  · exact (BitVec.add_zero _).symm
  · exact Core.countAll_get i _ _ (s.waits_always k _ _)

/-- A counter takes what its cause stalls, which is nothing where the clock brings no cycle. -/
theorem State.ticked_grows {s t : State} {k i v : Nat} (h0 : s.newCycles t k = 0 → v = 0)
    (hv : stallOf (s.waits k (s.clCycle (keyCl k)) (t.clCycle (keyCl k))) i = v) :
    (s.ticked t k).cnt.get 0#64 i = (s.core k).cnt.get 0#64 i + BitVec.ofNat 64 v := by
  rw [State.ticked_get]
  split
  next he =>
    have : s.newCycles t k = 0 := by
      unfold State.newCycles
      omega
    rw [h0 this]
  · rw [hv]

theorem State.ticked_frame (s t : State) (k : Nat) : s.ticked t k = { s.core k with
    cnt := (s.ticked t k).cnt, winE := (s.ticked t k).winE, hostCame := (s.ticked t k).hostCame, owed := (s.ticked t k).owed } := by
  unfold State.ticked
  split
  · rfl
  · unfold Core.stalled
    rw [Core.countAll_eq]

/-! ### A cycle -/

theorem State.cycle_of_beat {s t : State} (h : s.beat = t.beat) : s.cycle = t.cycle := congrArg Prod.fst h
theorem State.time_of_beat {s t : State} (h : s.beat = t.beat) : s.time = t.time := congrArg (fun b => b.2.1) h
theorem State.pending_of_beat {s t : State} (h : s.beat = t.beat) : s.pending = t.pending := congrArg (fun b => b.2.2.1) h

/-- The state after a cycle in which only Slate went on. -/
def State.slated (s : State) : State :=
  { s with cycle := s.cycle + 1, time := { s.time with slate := s.time.slate + s.time.inc.setWidth 96 } }

/-- The state after a cycle in which Slate went on and the cores counted. -/
def State.tallied (s : State) : State := s.cores.keys.dedup.foldl (fun t k => s.countWaits t k) s.slated

theorem State.tallied_frame (s : State) : s.tallied = { s.slated with cores := s.tallied.cores } :=
  (s.foldl_countWaits _ s.slated (List.nodup_dedup _) fun _ _ => rfl).1

theorem State.tallied_core (s : State) (k : Nat) :
    s.tallied.core k = if k ∈ s.cores.keys then s.ticked s.slated k else s.core k :=
  ((s.foldl_countWaits _ s.slated (List.nodup_dedup _) fun _ _ => rfl).2 k).trans (if_congr List.mem_dedup rfl rfl)

/-- What lands after the count: sealed commands that find room, and audio that waited for a page. -/
def State.landed (s : State) : State :=
  ((upTo 4).foldl (fun t p => t.tdmFlush p .none)
    ((upTo 8).foldl (fun t p => if (t.secp p).ep1.isEmpty then t else t.takeAll p) s)).feedFlush

theorem State.landed_beat (s : State) : s.landed.beat = s.beat := by
  unfold State.landed State.feedFlush
  rw [State.feedFlushN_beat, State.foldl_beat (fun t p => t.tdmFlush p .none) _ _ fun t p => State.tdmFlushN_beat p _ _ t]
  refine State.foldl_beat _ _ _ fun t p => ?_
  split
  · rfl
  · exact State.takeCmds_beat p _ t

theorem State.landed_of_none {s : State} (h1 : ∀ p, p < 8 → (s.secp p).ep1 = []) (h2 : ∀ p, p < 4 → (s.tdm p).held = [])
    (h3 : s.aon.feedWait = []) : s.landed = s := by
  have hcmds : (upTo 8).foldl (fun t p => if (t.secp p).ep1.isEmpty then t else t.takeAll p) s = s :=
    List.foldlRecOn (motive := fun t : State => t = s) _ _ rfl fun t ht p hp => by
      subst ht
      rw [h1 p (List.mem_range.mp hp)]
      rfl
  have htdm : (upTo 4).foldl (fun t p => t.tdmFlush p .none) s = s :=
    List.foldlRecOn (motive := fun t : State => t = s) _ _ rfl fun t ht p hp => by
      subst ht
      unfold State.tdmFlush
      rw [h2 p (List.mem_range.mp hp)]
      rfl
  unfold State.landed State.feedFlush
  rw [hcmds, htdm, h3]
  rfl

theorem State.tick_runs {s : State} (hl : s.live = true) (ht : s.time.locked = true) : s.tick = s.tallied.landed := by
  unfold State.live at hl
  unfold State.tick State.landed State.tallied State.slated
  rw [hl, ht]
  exact if_pos rfl

theorem State.tick_stands {s : State} (h : s.live = false ∨ s.time.locked = false) : s.tick = s := by
  unfold State.live at h
  unfold State.tick
  rcases h with h | h
  · rw [h]
    rfl
  · rw [h, Bool.and_false]
    rfl

theorem step_of_empty {s : State} (h : s.pending = []) : step s = .next s.tick := by
  unfold step
  rw [h]

/-! ### The counters of a core after a cycle -/

/-- What each cause stalls a core, where each counter has the cause of its number. -/
theorem stallOf_six (v w x y z u i : Nat) : stallOf [(0x20, v), (0x21, w), (0x23, x), (0x24, y), (0x25, z), (0x2B, u)] i =
    (if i = 0x20 then v else 0) + ((if i = 0x21 then w else 0) + ((if i = 0x23 then x else 0) +
      ((if i = 0x24 then y else 0) + ((if i = 0x25 then z else 0) + (if i = 0x2B then u else 0))))) := by
  simp only [stallOf_cons]
  rfl

theorem stallOf_0x25 (v w x y z u : Nat) :
    stallOf [(0x20, v), (0x21, w), (0x23, x), (0x24, y), (0x25, z), (0x2B, u)] 0x25 = z := by
  rw [stallOf_six]
  simp

/-- A core has, after a cycle, grown a counter by a number of cycles. -/
def State.grows (s t : State) (k i v : Nat) : Prop :=
  (s.ticked t k).cnt.get 0#64 i = (s.core k).cnt.get 0#64 i + BitVec.ofNat 64 v

theorem State.grows_0x20 {s t : State} {k : Nat} (h : 0x20 ∈ (s.core k).qStall ∨ (s.core k).dmaStall = 0x20) :
    s.grows t k 0x20 (s.newCycles t k) := by
  refine State.ticked_grows id ?_
  unfold State.waits State.newCycles
  have hh : ((s.core k).qStall.contains 0x20 || (s.core k).dmaStall == 0x20) = true := by simpa using h
  simp only [stallOf_six, hh, if_true]
  simp

theorem State.grows_0x21 (s t : State) (k : Nat) : s.grows t k 0x21 (min (s.newCycles t k) ((s.core k).owed.get 0 0x21)) := by
  refine State.ticked_grows (fun h => by rw [h, Nat.zero_min]) ?_
  unfold State.waits State.newCycles
  simp only [stallOf_six]
  simp

theorem State.grows_0x24 {s : State} (t : State) {k : Nat} (hq : 0x24 ∉ (s.core k).qStall) (hd : (s.core k).dmaStall ≠ 0x24) :
    s.grows t k 0x24 (min (s.newCycles t k) ((s.core k).owed.get 0 0x24)) := by
  refine State.ticked_grows (fun h => by rw [h, Nat.zero_min]) ?_
  unfold State.waits State.newCycles
  have hh : ((s.core k).qStall.contains 0x24 || (s.core k).dmaStall == 0x24) = false := by simp [hq, hd]
  simp only [stallOf_six, hh]
  simp

theorem State.grows_0x25 {s : State} (t : State) {k : Nat} (h : 0x25 ∈ (s.core k).qStall ∨ (s.core k).dmaStall = 0x25 ∨
    ∃ x ∈ (s.core k).threads, ∃ a, x.2.wait = .page a) : s.grows t k 0x25 (s.newCycles t k) := by
  refine State.ticked_grows id ?_
  unfold State.waits State.newCycles
  refine (stallOf_0x25 ..).trans (if_pos ?_)
  rcases h with h | h | ⟨x, hx, a, ha⟩
  · simp [h]
  · simp [h]
  · refine Bool.or_eq_true_iff.mpr (.inr (List.any_eq_true.mpr ⟨x, hx, ?_⟩))
    dsimp only
    rw [ha]

theorem State.grows_0x23 {s : State} (t : State) {k : Nat} (hc : (s.core k).hostCame = false)
    (h : ∃ o ∈ (s.core k).dmaq, o.waitHost ≠ []) : s.grows t k 0x23 (s.newCycles t k) := by
  refine State.ticked_grows id ?_
  unfold State.waits State.newCycles
  have hh : (s.core k).dmaq.any (fun o => !o.waitHost.isEmpty) = true := by
    obtain ⟨o, ho, hw⟩ := h
    exact List.any_eq_true.mpr ⟨o, ho, by simpa using hw⟩
  simp only [stallOf_six, hh, hc]
  simp [b2n]

theorem State.grows_other (s t : State) (k : Nat) {i : Nat} (h : i ∉ [0x20, 0x21, 0x23, 0x24, 0x25, 0x2B]) : s.grows t k i 0 := by
  refine State.ticked_grows (fun _ => rfl) ?_
  simp only [List.mem_cons, List.not_mem_nil, or_false, not_or] at h
  obtain ⟨h0, h1, h2, h3, h4, h5⟩ := h
  unfold State.waits
  simp only [stallOf_six, h0, h1, h2, h3, h4, h5, if_false]

/-! ### The obligation -/

theorem State.tallied_core_frame (s : State) (k : Nat) : s.tallied.core k = { s.core k with
    cnt := (s.tallied.core k).cnt, winE := (s.tallied.core k).winE
    hostCame := (s.tallied.core k).hostCame, owed := (s.tallied.core k).owed } := by
  rw [s.tallied_core k]
  split
  · exact s.ticked_frame s.slated k
  · rfl

/-- Settles O29: the match on the queue gives the first clause; on an empty queue the cycle counts each core once and what lands
after it keeps the cycle count, the time service and the queue. -/
theorem stepRunsFront : Obligations.StepRunsFront := by
  unfold Obligations.StepRunsFront
  refine ⟨fun _ _ _ => rfl, fun s hl ht hp => ?_, fun s h hp => by rw [step_of_empty hp, State.tick_stands h]⟩
  have hb : s.tallied.landed.beat = s.slated.beat := s.tallied.landed_beat.trans (by rw [s.tallied_frame]; rfl)
  refine ⟨s.tallied.landed, by rw [step_of_empty hp, State.tick_runs hl ht], State.cycle_of_beat hb,
    State.time_of_beat hb, (State.pending_of_beat hb).trans hp, fun h1 h2 h3 => ?_⟩
  have hf := s.tallied_frame
  have hland : s.tallied.landed = s.tallied :=
    State.landed_of_none (by rw [hf]; exact h1) (by rw [hf]; exact h2) (by rw [hf]; exact h3)
  rw [hland]
  refine ⟨by rw [hf]; rfl, fun k => s.tallied_core_frame k, fun k hk => ?_⟩
  have hn : s.tallied.clCycle (keyCl k) - s.clCycle (keyCl k) = s.newCycles s.slated k := by
    rw [hf]
    rfl
  have hcore : s.tallied.core k = s.ticked s.slated k := (s.tallied_core k).trans (if_pos (SMap.mem_keys_of_has hk))
  dsimp only
  rw [hn, hcore]
  exact ⟨State.grows_0x20, s.grows_0x21 s.slated k, State.grows_0x24 s.slated, State.grows_0x25 s.slated,
    State.grows_0x23 s.slated, fun i hi => s.grows_other s.slated k hi⟩

end Sys2Proof.Machine
end

section
/-! What power, partitions and management leave as it is: the count of cycles, the time service, the queue of commands, and the
corrected symbols of the links. -/
namespace Sys2Proof.Machine

/-! ### Records and triggers -/

theorem State.withPins_beat (s : State) (x : Pins) : ({ s with pins := x } : State).beat = s.beat := rfl
theorem State.withGaf_beat (s : State) (x : Gaf) : ({ s with gaf := x } : State).beat = s.beat := rfl
@[simp] theorem State.updTrace_beat (s : State) (c : Nat) (f : Trace → Trace) : (s.updTrace c f).beat = s.beat := rfl
@[simp] theorem State.updOwn_beat (s : State) (p : Nat) (f : Own → Own) : (s.updOwn p f).beat = s.beat := rfl
@[simp] theorem State.updCtx_beat (s : State) (x : Nat) (f : Ctx → Ctx) : (s.updCtx x f).beat = s.beat := rfl
@[simp] theorem State.updCamPort_beat (s : State) (p : Nat) (f : CamPort → CamPort) : (s.updCamPort p f).beat = s.beat := rfl
@[simp] theorem State.setFrames_beat (s : State) (l : List Frame) : (s.setFrames l).beat = s.beat := rfl
@[simp] theorem State.csrRejected_beat (s : State) : s.csrRejected.beat = s.beat := rfl
@[simp] theorem State.coverTouch_beat (s : State) : s.coverTouch.beat = s.beat := rfl
@[simp] theorem State.updBank_beat (s : State) (r : Requester) (k : Nat) (f : IndBank → IndBank) : (s.updBank r k f).beat = s.beat := rfl
@[simp] theorem State.closeSession_beat (s : State) (p : Nat) : (s.closeSession p).beat = s.beat := rfl
@[simp] theorem State.setStack_beat (s : State) (n : Nat) (st : BitVec 2) : (s.setStack n st).beat = s.beat := rfl
@[simp] theorem State.clearRange_beat (s : State) (a n : Nat) : (s.clearRange a n).beat = s.beat := rfl
@[simp] theorem State.startCtl_beat (s : State) (c : Nat) : (s.startCtl c).beat = s.beat := rfl
@[simp] theorem State.stopFunc_beat (s : State) (p : Nat) : (s.stopFunc p).beat = s.beat := rfl
@[simp] theorem State.tdmTouch_beat (s : State) (p : Nat) : (s.tdmTouch p).beat = s.beat := rfl
@[simp] theorem State.launchDone_beat (s : State) (p st late : Nat) : (s.launchDone p st late).beat = s.beat :=
  s.ctlEvent_beat _ _
@[simp] theorem State.postDev_beat (s : State) (c so u p d : Nat) : (s.postDev c so u p d).beat = s.beat := s.post_beat ..
@[simp] theorem State.dbgTrig_beat (s : State) : s.dbgTrig.beat = s.beat := (s.trigger_onlyPosts ..).beat

@[simp] theorem State.broadcast_beat (s : State) (k : Packet) : (s.broadcast k).beat = s.beat := by
  unfold State.broadcast
  exact State.foldl_beat _ _ _ fun t l => t.enqueue_beat l 7 _

@[simp] theorem State.sendMgmt_beat (s : State) (d : BitVec 18) (sub v : Nat) : (s.sendMgmt d sub v).beat = s.beat :=
  s.sendPacket_beat ..
@[simp] theorem State.fenceNode_beat (s : State) (n : BitVec 18) (v : Nat) : (s.fenceNode n v).beat = s.beat :=
  s.sendPacket_beat ..

/-! ### Work that ends -/

@[simp] theorem State.abandonFab_beat (s : State) (p : Nat) : (s.abandonFab p).beat = s.beat :=
  State.foldl_beat _ _ _ fun t c => State.foldl_beat _ _ _ fun u x => u.finishFab_beat c x _

@[simp] theorem State.eraseJobKey_beat (s : State) (p : Nat) : (s.eraseJobKey p).beat = s.beat := s.abandonFab_beat p

@[simp] theorem State.overPr_beat (s : State) (p : Nat) (l : List Byte) : (s.overPr p l).beat = s.beat := by
  unfold State.overPr
  extract_lets put n ctr
  have hput (t : State) (c : Nat) (m : List Byte) : (put t c m).beat = t.beat := t.updLink_beat 6 _ fun _ => rfl
  split
  · rfl
  · split
    · exact hput _ _ _
    · split
      · rfl
      · exact hput _ _ _

@[simp] theorem State.sendChunkSig_beat (s : State) (p k t idx n : Nat) : (s.sendChunkSig p k t idx n).beat = s.beat := by
  unfold State.sendChunkSig
  split
  · split
    · rfl
    · dsimp only [State.sendSig]
      rw [(State.matchSigs_work _ p).beat, State.overPr_beat, State.updPart_beat, State.traceRec_beat]
  · rfl

/-- A chunk that ends abandoned restores its Reel. -/
theorem State.endChunk_beat (s : State) (p k t : Nat) (c : Chunk) (fcode : Nat) :
    (s.endChunk p k t c stAbandoned fcode).beat = s.beat := by
  unfold State.endChunk
  extract_lets idx fwd f st fc u v w
  have hst : st ≠ stOk := by
    simp only [st]
    split <;> decide
  have hu : u.beat = s.beat := by
    simp only [u]
    rw [if_neg hst]
    exact (s.restoreReel_work p k idx).beat
  have hw : w.beat = v.beat :=
    (State.reelRests_work _ p idx).beat.trans ((State.finishChunk_beat _ p c st fc).trans (v.updCore_beat k _))
  rw [if_neg (fun h => hst h.1), hw, u.sendChunkSig_beat, hu]

@[simp] theorem State.abandonChunk_beat (s : State) (p k : Nat) (c : Chunk) : (s.abandonChunk p k c).beat = s.beat := by
  have hdrop : ((s.dropChunk k c.serial).finishChunk p c stAbandoned 0).beat = s.beat :=
    (State.finishChunk_beat _ _ _ _ _).trans (s.updCore_beat k _)
  unfold State.abandonChunk
  split
  · split
    · next t _ =>
      extract_lets u v w
      have hu : u.beat = s.beat := State.foldl_beat _ _ _ fun t o => (t.abandonOp_work p k o).beat
      rw [State.updThr_beat, State.endChunk_beat, (u.endThr_work k t.1).beat, hu]
    · exact hdrop
  · exact hdrop

@[simp] theorem State.abandonCmd_beat (s : State) (p : Nat) (c : HCmd) : (s.abandonCmd p c).beat = s.beat := by
  have hstep (t : State) (j : Nat) : (t.endJobStep p j).beat = t.beat := (t.endJobStep_work p j).beat
  unfold State.abandonCmd
  refine (State.complete_beat _ _ _ _ _ _ _).trans ?_
  split
  · rfl
  · split
    case h_1 => rfl
    case h_2 =>
      split
      · exact hstep s _
      · rfl
    case h_3 =>
      dsimp only
      split
      · exact hstep _ _
      · rfl
    case h_4 =>
      exact State.foldl_beat _ _ _ fun t cl => State.foldl_beat _ _ _ fun t i => State.foldl_beat _ _ _ fun t o =>
        (t.abandonOp_work p _ o).beat
    case h_5 => rfl
    case h_6 =>
      exact State.foldl_beat _ _ _ fun t cl => State.foldl_beat _ _ _ fun t i => State.foldl_beat _ _ _ fun t x =>
        t.abandonChunk_beat p _ x
    case h_7 => rfl
    case h_8 => rfl
    all_goals rfl

@[simp] theorem State.resetPart_beat (s : State) (p : Nat) : (s.resetPart p).beat = s.beat := by
  rw [s.resetPart_eq, State.closeSession_beat, State.abandonFab_beat]
  unfold State.workReset
  extract_lets t u v
  have ht : t.beat = s.beat := State.foldl_beat _ _ _ fun t c => t.abandonCmd_beat p c
  have hu : u.beat = t.beat := State.foldl_beat _ _ _ fun t c => State.foldl_beat _ _ _ fun t i => by
    extract_lets k w x y
    have hw : w.beat = t.beat := State.foldl_beat _ _ _ fun t x => t.abandonChunk_beat p k x
    rw [(y.finishThreads_work k).beat, (x.abandonDma_work p k).beat, (w.endThreads_work k).beat, hw]
  have hv : v.beat = u.beat := State.foldl_beat _ _ _ fun t x => t.launchDone_beat p _ _
  rw [v.updPart_beat, hv, hu, ht]

/-! ### Clusters and stacks -/

@[simp] theorem State.zeroCluster_beat (s : State) (c : Nat) : (s.zeroCluster c).beat = s.beat := by
  rw [s.zeroCluster_frame c]
  rfl

@[simp] theorem State.gateCluster_beat (s : State) (c : Nat) : (s.gateCluster c).beat = s.beat := by
  rw [(s.gateCluster_gated c).frame]
  rfl

@[simp] theorem State.floorLevel_beat (s : State) (c : Nat) : (s.floorLevel c).beat = s.beat := by
  unfold State.floorLevel
  split
  · exact (s.setLevel_posts c 12).beat
  · rfl

@[simp] theorem State.powerCluster_beat (s : State) (c : Nat) (w : Bool) : (s.powerCluster c w).beat = s.beat := by
  unfold State.powerCluster
  extract_lets f u g v
  have hv : v.beat = s.beat := (State.withGaf_beat _ _).trans ((State.updCl_beat _ _ _).trans (s.zeroCluster_beat c))
  rw [State.startCtl_beat, State.ite_beat, State.floorLevel_beat, ite_self, hv]

@[simp] theorem State.settleTrim_beat (s : State) : s.settleTrim.beat = s.beat := by
  unfold State.settleTrim
  split <;> rfl

@[simp] theorem State.takeCluster_beat (s : State) (c : Nat) : (s.takeCluster c).beat = s.beat := by
  unfold State.takeCluster
  dsimp only
  split
  · exact State.powerCluster_beat _ c false
  · rfl

@[simp] theorem State.takeStack_beat (s : State) (n : Nat) : (s.takeStack n).beat = s.beat := by
  unfold State.takeStack
  split <;> rfl

@[simp] theorem State.beginScrub_beat (s : State) (p : Nat) (w : Bool) (cl st : BitVec 8) : (s.beginScrub p w cl st).beat = s.beat := by
  unfold State.beginScrub
  refine (State.updPart_beat _ p _).trans (State.foldl_beat _ _ _ fun t c => ?_)
  rw [State.updTrace_beat, State.updCl_beat, State.zeroCluster_beat]

@[simp] theorem State.ownSet_beat (s : State) (p : Nat) (cl st : BitVec 8) (conf v : Bool) : (s.ownSet p cl st conf v).beat = s.beat := by
  unfold State.ownSet
  extract_lets o u x y z lc ls w
  have hy : y.beat = s.beat := State.foldl_beat _ _ _ fun t c => t.takeCluster_beat c
  have hz : z.beat = y.beat := State.foldl_beat _ _ _ fun t n => t.takeStack_beat n
  have hw : w.beat = z.beat := by
    simp only [w]
    rw [State.ite_beat, State.beginScrub_beat, ite_self]
  rw [State.settleTrim_beat, hw, hz, hy]

@[simp] theorem State.mapSlots_beat (s : State) (f : BitVec 256 → BitVec 256) : (s.mapSlots f).beat = s.beat :=
  State.foldl_beat _ _ _ fun t l => t.updLink_beat l _ fun _ => rfl

@[simp] theorem State.startFunc_beat (s : State) (p : Nat) : (s.startFunc p).beat = s.beat := by
  unfold State.startFunc
  split <;> rfl

@[simp] theorem State.createPart_beat (s : State) (p : Nat) (cl st : BitVec 8) (conf : Bool) (b n : Nat) :
    (s.createPart p cl st conf b n).beat = s.beat := by
  unfold State.createPart
  extract_lets y t g u v w
  have hv : v.beat = s.beat := u.mapSlots_beat _
  rw [State.startFunc_beat, State.updSecp_beat, State.ownSet_beat, hv]

@[simp] theorem State.clearLogical_beat (s : State) (p l : Nat) : (s.clearLogical p l).beat = s.beat := by
  unfold State.clearLogical
  refine State.foldl_beat _ _ _ fun t j => ?_
  rw [State.updJob_beat]
  exact State.foldl_beat _ _ _ fun u y => u.leaveCore_beat p _ _ _ _ _

@[simp] theorem State.changePart_beat (s : State) (p : Nat) (cl st : BitVec 8) : (s.changePart p cl st).beat = s.beat := by
  unfold State.changePart
  dsimp only
  rw [State.schedule_beat, State.ownSet_beat]
  exact State.foldl_beat _ _ _ fun t l => t.clearLogical_beat p l

/-! ### Ports -/

@[simp] theorem State.camEnd_beat (s : State) (p : Nat) : (s.camEnd p).beat = s.beat := by
  unfold State.camEnd
  extract_lets fed xs u
  exact State.foldl_beat _ _ _ fun t x => t.updCtx_beat x _

@[simp] theorem State.camOwn_beat (s : State) (v : BitVec 16) : (s.camOwn v).beat = s.beat :=
  State.foldl_beat _ _ s fun t p => by
    split
    · rfl
    · exact t.camEnd_beat p

@[simp] theorem State.camScrub_beat (s : State) (o : Nat) : (s.camScrub o).beat = s.beat :=
  State.foldl_beat _ _ s fun t p => by
    split
    · exact t.camEnd_beat p
    · rfl

@[simp] theorem State.tdmScrub_beat (s : State) (o : Nat) : (s.tdmScrub o).beat = s.beat :=
  State.foldl_beat _ _ s fun t p => by split <;> rfl

@[simp] theorem State.audOwn_beat (s : State) (v : BitVec 16) : (s.audOwn v).beat = s.beat :=
  State.foldl_beat _ _ s fun t p => by split <;> rfl

@[simp] theorem State.setFeedOwn_beat (s : State) (v : BitVec 4) : (s.setFeedOwn v).beat = s.beat := by
  unfold State.setFeedOwn
  split <;> rfl

/-! ### Partitions that end -/

@[simp] theorem State.scrubPart_beat (s : State) (p : Nat) : (s.scrubPart p).beat = s.beat := by
  unfold State.scrubPart
  extract_lets o cmd u v w x
  rw [State.tdmScrub_beat, State.camScrub_beat]
  exact (State.updPart_beat _ p _).trans ((State.beginScrub_beat _ p _ _ _).trans (s.eraseJobKey_beat p))

@[simp] theorem State.endScrub_beat (s : State) (p : Nat) : (s.endScrub p).beat = s.beat := by
  unfold State.endScrub
  split
  · rfl
  · extract_lets u v
    have hu : u.beat = s.beat := State.foldl_beat _ _ _ fun t c =>
      (State.withPins_beat _ _).trans (t.gateCluster_beat c)
    have hv : v.beat = u.beat := State.foldl_beat _ _ _ fun t n => (State.setStack_beat _ n _).trans (t.clearRange_beat _ _)
    exact hv.trans hu

@[simp] theorem State.dropPart_beat (s : State) (p : Nat) : (s.dropPart p).beat = s.beat := by
  unfold State.dropPart
  extract_lets u v w x y z
  have hx : x.beat = w.beat := by
    simp only [x]
    rw [State.ite_beat, State.setFeedOwn_beat, ite_self]
  have hz : z.beat = x.beat := (y.updOwn_beat p _).trans (x.stopFunc_beat p)
  refine (State.updSecp_beat _ p _).trans ?_
  refine Eq.trans (b := z.beat) rfl ?_
  exact hz.trans (hx.trans ((v.audOwn_beat _).trans ((u.camOwn_beat _).trans (s.mapSlots_beat _))))

@[simp] theorem State.keyErase_beat (s : State) (v : W32) : (s.keyErase v).beat = s.beat :=
  State.foldl_beat _ _ s fun t p => by
    split
    · exact t.eraseJobKey_beat p
    · rfl

@[simp] theorem State.ownCommit_beat (s : State) (p : Nat) (v : W32) : (s.ownCommit p v).beat = s.beat := by
  unfold State.ownCommit
  extract_lets cl st conf u sc w
  split
  · split
    · rfl
    · split
      · split
        · rfl
        · exact s.changePart_beat p cl st
      · split
        · rfl
        · exact s.createPart_beat p cl st conf _ 0
  · split
    · rfl
    · split
      · rfl
      · have hu : u.beat = s.beat := (State.scrubPart_beat _ p).trans (s.resetPart_beat p)
        have hw : w.beat = u.beat := u.dropPart_beat p
        rw [State.settleTrim_beat, hw, hu]

/-! ### Requests to the Gaffer -/

theorem State.onlyAnswers.beat {s t : State} (h : s.onlyAnswers t) : t.beat = s.beat := by
  rw [h.1]
  rfl

@[simp] theorem State.wakeRails_beat (s : State) (acc : Bool) : (s.wakeRails acc).beat = s.beat := by
  unfold State.wakeRails
  split <;> rfl

@[simp] theorem State.startDevice_beat (s : State) (t : Trans) : (s.startDevice t).beat = s.beat := by
  unfold State.startDevice
  extract_lets st tg owned gated on gaf begin_ rise want add back
  have hb (x : Trans) : (begin_ x).beat = s.beat := rfl
  have hr (p : List Nat) : (rise p).beat = s.beat := rfl
  have ha (a b : Nat) : (s.recordAbandon a b).beat = s.beat := rfl
  repeat' split
  all_goals simp only [hb, hr, ha, State.wakeRails_beat]

@[simp] theorem State.startNext_beat (s : State) : s.startNext.beat = s.beat := by
  unfold State.startNext
  refine (State.startCls_onlyAnswers _ _).beat.trans (State.foldl_beat _ _ s fun t _ => ?_)
  split
  · split
    · rfl
    · exact State.startDevice_beat _ _
  · rfl

@[simp] theorem State.gafReq_beat (s : State) (n : Nat) (g : BitVec 8) : (s.gafReq n g).beat = s.beat := by
  unfold State.gafReq
  split
  · rfl
  · exact State.startNext_beat _

end Sys2Proof.Machine
end

section
/-! What the time service and register accesses leave as it is: the corrected symbols of the links. -/
namespace Sys2Proof.Machine

/-- The corrected symbols that each link has counted. -/
def State.fecs (s : State) : Nat → BitVec 32 := s.beat.2.2.2

theorem State.fecs_of_beat {s t : State} (h : s.beat = t.beat) : s.fecs = t.fecs := congrArg (fun b => b.2.2.2) h

theorem State.foldl_fecs {α : Type} (f : State → α → State) (l : List α) (s : State) (h : ∀ t a, (f t a).fecs = t.fecs) :
    (l.foldl f s).fecs = s.fecs :=
  List.foldlRecOn (motive := fun t : State => t.fecs = s.fecs) l f rfl fun t ht a _ => (h t a).trans ht

/-! ### The time service -/

theorem State.withTime_fecs (s : State) (x : Time) : ({ s with time := x } : State).fecs = s.fecs := rfl

theorem State.enterTime_fecs (s : State) (st : BitVec 3) : (s.enterTime st).fecs = s.fecs := by
  unfold State.enterTime
  extract_lets post time u
  have hu : u.fecs = s.fecs := rfl
  split
  · exact (State.fecs_of_beat (u.postDev_beat _ _ _ _ _)).trans hu
  · exact hu

theorem State.newMaster_fecs (s : State) : s.newMaster.fecs = s.fecs := s.enterTime_fecs tsHoldover

theorem State.setEpoch_fecs (s : State) (n : BitVec 18) (e : BitVec 16) : (s.setEpoch n e).fecs = s.fecs := by
  unfold State.setEpoch
  dsimp only
  split
  · exact State.newMaster_fecs _
  · rfl

theorem State.countOffset_fecs (s : State) (th : Int) : (s.countOffset th).fecs = s.fecs := by
  unfold State.countOffset
  extract_lets good time u
  have hu : u.fecs = s.fecs := rfl
  split
  · split
    · exact (u.enterTime_fecs _).trans hu
    · exact hu
  · split
    · exact (u.enterTime_fecs _).trans hu
    · exact hu

theorem State.servo_fecs (s : State) (th : Int) : (s.servo th).fecs = s.fecs := by
  unfold State.servo
  split <;> rfl

theorem State.offset_fecs (s : State) (th : Int) : (s.offset th).fecs = s.fecs := by
  unfold State.offset
  split
  · rfl
  · extract_lets u
    have hu : u.fecs = s.fecs := by
      simp only [u]
      split
      · exact s.enterTime_fecs _
      · rfl
    rw [State.countOffset_fecs, State.servo_fecs, hu]

theorem State.timeCtl_fecs (s : State) (v : W32) : (s.timeCtl v).fecs = s.fecs := by
  unfold State.timeCtl
  extract_lets src par chg time u
  have hu : u.fecs = s.fecs := rfl
  have he (st : BitVec 3) : (u.enterTime st).fecs = s.fecs := (u.enterTime_fecs st).trans hu
  split
  · rfl
  · split
    · exact he _
    · split
      · exact he _
      · split
        · exact he _
        · split
          · exact he _
          · exact hu

theorem State.ptpOffset_fecs (s : State) (v : W32) : (s.ptpOffset v).fecs = s.fecs := by
  unfold State.ptpOffset
  split
  · exact s.offset_fecs _
  · rfl

theorem State.timeWr_fecs (s : State) (off : Nat) (v : W32) : (s.timeWr off v).fecs = s.fecs := by
  unfold State.timeWr
  extract_lets t i
  split
  case h_1 => exact s.timeCtl_fecs v
  case h_2 => split <;> rfl
  case h_8 => exact s.ptpOffset_fecs v
  case h_11 => split <;> rfl
  case h_12 =>
    split
    · rfl
    · split <;> rfl
  all_goals rfl

theorem State.timeRd_fecs (s : State) (r off : Nat) : (s.timeRd r off).2.fecs = s.fecs := by
  unfold State.timeRd
  dsimp only
  split <;> rfl

/-! ### Registers -/

theorem State.withEth_beat (s : State) (x : BitVec 48) : ({ s with eth := x } : State).beat = s.beat := rfl
theorem State.withSec_beat (s : State) (x : Sec) : ({ s with sec := x } : State).beat = s.beat := rfl
theorem State.withAon_beat (s : State) (x : Aon) : ({ s with aon := x } : State).beat = s.beat := rfl

@[simp] theorem State.devWr_beat (s : State) (off : Nat) (v : W32) : (s.devWr off v).beat = s.beat := by
  unfold State.devWr
  split <;> rfl

@[simp] theorem State.gafWr_beat (s : State) (off : Nat) (v : W32) : (s.gafWr off v).beat = s.beat := by
  unfold State.gafWr
  extract_lets g n
  split
  case h_2 => exact s.gafReq_beat _ _
  case h_4 => split <;> rfl
  case h_7 => split <;> rfl
  case h_11 =>
    split
    · rfl
    · split
      · split <;> rfl
      · split
        · split <;> rfl
        · rfl
  all_goals rfl

@[simp] theorem State.traceCfg_beat (s : State) (c : Nat) (v : W32) : (s.traceCfg c v).beat = s.beat := by
  unfold State.traceCfg
  dsimp only
  repeat' split
  all_goals rfl

@[simp] theorem State.dbgWr_beat (s : State) (off : Nat) (v : W32) : (s.dbgWr off v).beat = s.beat := by
  have hm (c : Nat) : (s.clearMissed c v).beat = s.beat := by
    unfold State.clearMissed
    split <;> rfl
  unfold State.dbgWr
  split
  · rfl
  · split
    · exact s.dbgTrig_beat
    · split
      · refine State.foldl_beat _ _ _ fun t c => ?_
        split
        · exact t.updCtl_beat _ _
        · rfl
      · split
        · rfl
        · split
          · dsimp only
            split
            case h_1 => exact s.traceCfg_beat _ _
            case h_3 => exact hm _
            case h_6 => split <;> rfl
            all_goals rfl
          · rfl

@[simp] theorem State.usbWr_beat (s : State) (ia : Nat) (v : W32) : (s.usbWr ia v).beat = s.beat := by
  unfold State.usbWr
  dsimp only
  repeat' split
  all_goals rfl

@[simp] theorem State.ethWr_beat (s : State) (ia : Nat) (v : W32) : (s.ethWr ia v).beat = s.beat := by
  unfold State.ethWr
  split
  · exact s.withEth_beat _
  · split
    · exact s.withEth_beat _
    · rfl

@[simp] theorem State.camWr_beat (s : State) (ia : Nat) (v : W32) : (s.camWr ia v).beat = s.beat := by
  unfold State.camWr
  dsimp only
  repeat' split
  all_goals rfl

@[simp] theorem State.ispWr_beat (s : State) (ia : Nat) (v : W32) : (s.ispWr ia v).beat = s.beat := by
  unfold State.ispWr
  dsimp only
  repeat' split
  all_goals rfl

@[simp] theorem State.audWr_beat (s : State) (ia : Nat) (v : W32) : (s.audWr ia v).beat = s.beat := by
  have hc (i : Nat) : (s.calibWr i v).beat = s.beat := rfl
  unfold State.audWr
  extract_lets p c o
  repeat' split
  all_goals simp only [State.updTdm_beat, hc]

theorem State.feedFrom_beat (s : State) (n : BitVec 48) : (s.feedFrom n).beat = s.beat := rfl

@[simp] theorem State.aonWr_beat (s : State) (ia : Nat) (v : W32) : (s.aonWr ia v).beat = s.beat := by
  unfold State.aonWr
  extract_lets a n i o
  split
  · rfl
  · split
    case h_1 =>
      split
      · rfl
      · exact s.withAon_beat _
    case h_5 => exact s.feedFrom_beat _
    case h_12 =>
      split
      · split
        · rfl
        · exact s.withAon_beat _
      · split
        · exact s.withAon_beat _
        · split
          · exact s.withAon_beat _
          · rfl
    all_goals exact s.withAon_beat _

@[simp] theorem State.hbmWr_beat (s : State) (n ia : Nat) (v : W32) : (s.hbmWr n ia v).beat = s.beat := by
  unfold State.hbmWr
  split <;> rfl

@[simp] theorem State.clWr_beat (s : State) (r : Requester) (c ia : Nat) (v : W32) : (s.clWr r c ia v).beat = s.beat := by
  unfold State.clWr
  extract_lets pend k o
  have hpend (i : Nat) : (pend i).beat = s.beat := rfl
  repeat' split
  all_goals simp only [State.updCl_beat, State.updCore_beat, State.updCtl_beat, State.csrRejected_beat, State.withSec_beat, hpend]

@[simp] theorem State.pairWr_beat (s : State) (r : Requester) (k ia : Nat) (v : W32) : (s.pairWr r k ia v).beat = s.beat := by
  unfold State.pairWr
  split
  case h_8 =>
    split
    · exact s.hbmWr_beat _ _ _
    · split
      · rfl
      · exact s.clWr_beat _ _ _ _
  all_goals simp

theorem State.directWr_fecs (s : State) (off : Nat) (v : W32) : (s.directWr off v).fecs = s.fecs := by
  unfold State.directWr
  split
  · exact State.fecs_of_beat (s.devWr_beat _ _)
  · exact State.fecs_of_beat (s.gafWr_beat _ _)
  · exact s.timeWr_fecs _ _
  · exact State.fecs_of_beat (s.dbgWr_beat _ _)
  · rfl

theorem State.lnkCfg_beat (s : State) (r : Requester) (n : Nat) (v : W32) : (s.lnkCfg r n v).beat = s.beat :=
  s.updLink_beat n _ fun _ => rfl

theorem State.dangerCommit_fecs (s : State) (r : Requester) (id : Nat) (v : W32) : (s.dangerCommit r id v).fecs = s.fecs := by
  unfold State.dangerCommit
  extract_lets a u old dev w n m
  have hu : u.fecs = s.fecs := by
    simp only [u]
    split <;> rfl
  have hb {t : State} (h : t.beat = u.beat) : t.fecs = s.fecs := (State.fecs_of_beat h).trans hu
  split
  · split
    · split
      · exact (State.newMaster_fecs _).trans hu
      · exact hu
    · split
      · exact (u.setEpoch_fecs _ _).trans hu
      · split
        · split
          · exact hb rfl
          · exact hb rfl
        · split
          · exact hb rfl
          · split
            · exact hb (u.keyErase_beat v)
            · exact hb (u.ownCommit_beat _ v)
  · split
    · exact hb (u.camOwn_beat _)
    · exact hb rfl
  · split
    · exact hb (u.audOwn_beat _)
    · exact hb rfl
  · split
    · exact hb (u.setFeedOwn_beat _)
    · exact hb rfl
  · split
    · exact hb (u.lnkCfg_beat _ _ _)
    · split
      · exact hb (u.updLink_beat _ _ fun _ => rfl)
      · exact hb rfl

theorem State.dangerChkWr_fecs (s : State) (r : Requester) (id : Nat) (v : W32) : (s.dangerChkWr r id v).fecs = s.fecs := by
  unfold State.dangerChkWr
  split
  · rfl
  next d _ =>
    split
    · rfl
    · split
      · rfl
      · split
        · exact (State.dangerCommit_fecs _ _ _ _).trans rfl
        · dsimp only
          split
          · exact (State.dangerCommit_fecs _ _ _ _).trans rfl
          · rfl

theorem State.regWr_fecs (s : State) (r : Requester) (id : Nat) (v : W32) : (s.regWr r id v).fecs = s.fecs := by
  unfold State.regWr
  split
  · rfl
  · split
    · rfl
    · split
      · exact s.dangerChkWr_fecs _ _ _
      · extract_lets u
        have hu : u.fecs = s.fecs := by
          simp only [u]
          split <;> rfl
        split
        · exact (u.directWr_fecs _ _).trans hu
        · exact (State.fecs_of_beat (u.pairWr_beat _ _ _ _)).trans hu

theorem State.indWr_fecs (s : State) (r : Requester) (k : Nat) (v : W32) : (s.indWr r k v).fecs = s.fecs := by
  unfold State.indWr
  split
  · rfl
  · split
    · rfl
    · exact (s.regWr_fecs r _ v : (s.regWr r _ v).fecs = s.fecs)

theorem State.csrPut_fecs (s : State) (r : Requester) (off : Nat) (v : W32) : (s.csrPut r off v).fecs = s.fecs := by
  unfold State.csrPut
  split
  · split
    · rfl
    · split
      · rfl
      · exact s.indWr_fecs _ _ _
      · rfl
      · rfl
  · exact s.regWr_fecs _ _ _

theorem State.clRd_fecs (s : State) (r : Requester) (c ia : Nat) : (s.clRd r c ia).2.fecs = s.fecs := by
  unfold State.clRd State.coreRd State.cntLow
  dsimp only
  repeat' split
  all_goals rfl

theorem State.pairRd_fecs (s : State) (r : Requester) (k ia : Nat) : (s.pairRd r k ia).2.fecs = s.fecs := by
  unfold State.pairRd
  split
  case h_8 =>
    split
    · rfl
    · split
      · rfl
      · exact s.clRd_fecs _ _ _
  all_goals rfl

theorem State.indRd_fecs (s : State) (r : Requester) (k : Nat) : (s.indRd r k).2.fecs = s.fecs := by
  unfold State.indRd
  split
  · rfl
  · split
    · rfl
    · dsimp only
      split
      · exact s.pairRd_fecs r k _
      · rfl

theorem State.csrGet_fecs (s : State) (r : Requester) (off : Nat) : (s.csrGet r off).2.fecs = s.fecs := by
  unfold State.csrGet
  split
  · split
    · rfl
    · split
      · rfl
      · exact s.indRd_fecs _ _
      · rfl
      · rfl
  · split
    · rfl
    · unfold State.directRd
      split
      · rfl
      · rfl
      · rfl
      · exact s.timeRd_fecs _ _
      · rfl
      · rfl

end Sys2Proof.Machine
end

section
/-! What management packets, synchronisation and accepted flits leave as it is: the corrected symbols of the links. -/
namespace Sys2Proof.Machine

/-! ### Packets checked -/

@[simp] theorem State.epochDrop_beat (s : State) (l : Nat) (k : Packet) : (s.epochDrop l k).beat = s.beat := by
  unfold State.epochDrop
  dsimp only
  split
  · rw [State.fenceNode_beat, State.postDev_beat, State.linkCnt_beat _ _ (by decide)]
  · rw [State.sendMgmt_beat, State.postDev_beat, State.linkCnt_beat _ _ (by decide)]

/-- A packet that is checked leaves what its taking leaves. -/
theorem State.checked_fecs (s : State) (l : Nat) (k : Packet) (f : State → State) (h : ∀ t, (f t).fecs = t.fecs) :
    (s.checked l k f).fecs = s.fecs := by
  unfold State.checked
  extract_lets u
  have hu : u.fecs = s.fecs := by
    simp only [u]
    split <;> rfl
  have hdrop : (u.linkCnt l 0x120).fecs = u.fecs := State.fecs_of_beat (u.linkCnt_beat l (by decide))
  split
  · split
    · exact hdrop.trans hu
    · split
      · exact (State.fecs_of_beat (u.epochDrop_beat l k)).trans hu
      · exact (h u).trans hu
  · split
    · exact hdrop.trans hu
    · split
      · exact (State.fecs_of_beat (u.epochDrop_beat l k)).trans hu
      · exact (h u).trans hu

theorem State.arriveData_fecs (s : State) (l : Nat) (k : Packet) (e : MemErr) : (s.arriveData l k e).fecs = s.fecs :=
  s.checked_fecs l k _ fun t => State.fecs_of_beat (by
    split
    · simp
    · split <;> simp)

/-! ### Synchronisation -/

theorem State.syncReq_fecs (s : State) (l : Nat) (k : Packet) (t2 : BitVec 96) : (s.syncReq l k t2).fecs = s.fecs :=
  s.checked_fecs l k _ fun t => State.fecs_of_beat (State.enqueue_beat _ _ _ _) |>.trans (t.withTime_fecs _)

theorem State.syncRsp_fecs (s : State) (l : Nat) (k : Packet) (t4 : BitVec 96) : (s.syncRsp l k t4).fecs = s.fecs := by
  refine s.checked_fecs l k _ fun t => ?_
  dsimp only
  split
  · rfl
  · split
    · rfl
    · exact (State.offset_fecs _ _).trans rfl

/-! ### The fault map -/

@[simp] theorem State.resendFab_beat (s : State) (c n : Nat) : (s.resendFab c n).beat = s.beat := by
  unfold State.resendFab
  split
  · split
    · rfl
    · dsimp only
      rw [State.pumpFab_beat, State.updFab_beat, State.withdraw_beat]
  · rfl

@[simp] theorem State.setFault_beat (s : State) (n : BitVec 18) (l : Nat) (r : Bool) : (s.setFault n l r).beat = s.beat := by
  unfold State.setFault State.reroute
  exact State.foldl_beat _ _ _ fun t c => State.foldl_beat _ _ _ fun u x => u.resendFab_beat c _

@[simp] theorem State.spreadFault_beat (s : State) (n : BitVec 18) (l : Nat) (r : Bool) : (s.spreadFault n l r).beat = s.beat := by
  unfold State.spreadFault
  rw [State.broadcast_beat, State.setFault_beat]

@[simp] theorem State.sendOn_beat (s : State) (i : Nat) (k : Packet) : (s.sendOn i k).beat = s.beat := by
  unfold State.sendOn
  split
  · exact s.sendPacket_beat _ _
  · split
    · exact s.enqueue_beat _ _ _
    · rfl

@[simp] theorem State.sendReport_beat (s : State) (a b : Nat) : (s.sendReport a b).beat = s.beat := s.sendOn_beat _ _

@[simp] theorem State.ownFault_beat (s : State) (l : Nat) (r : Bool) : (s.ownFault l r).beat = s.beat := by
  unfold State.ownFault
  split
  · exact s.spreadFault_beat _ _ _
  · rw [State.sendReport_beat, State.setFault_beat]

@[simp] theorem State.earlyFaults_beat (s : State) : s.earlyFaults.beat = s.beat := by
  unfold State.earlyFaults
  exact State.foldl_beat _ _ _ fun t l => t.ownFault_beat l false

@[simp] theorem State.passOn_beat (s : State) (l : Nat) (k : Packet) : (s.passOn l k).beat = s.beat :=
  State.foldl_beat _ _ _ fun t o => t.enqueue_beat o l _

/-! ### Enumeration -/

theorem State.setGeom_fecs (s : State) (v : BitVec 18) : (s.setGeom v).fecs = s.fecs := by
  unfold State.setGeom
  extract_lets d u near w
  have hw : w.beat = u.beat := State.foldl_beat _ _ _ fun t l => t.updLink_beat l _ fun _ => rfl
  rw [State.newMaster_fecs, State.fecs_of_beat hw]
  rfl

theorem State.checkGeom_fecs (s : State) : s.checkGeom.fecs = s.fecs := by
  unfold State.checkGeom
  dsimp only
  split
  · rfl
  · split
    · split
      · rw [State.foldl_fecs _ _ _ fun t x => State.fecs_of_beat (t.broadcast_beat _), State.fecs_of_beat (State.broadcast_beat _ _),
          State.setGeom_fecs]
      · rfl
    · rfl

theorem State.maybeReport_fecs (s : State) : s.maybeReport.fecs = s.fecs := by
  unfold State.maybeReport
  split
  · rfl
  · split
    · exact s.checkGeom_fecs
    · exact State.fecs_of_beat (s.sendReport_beat _ _)

@[simp] theorem State.setSize_beat (s : State) (i : Nat) (v : BitVec 6) : (s.setSize i v).beat = s.beat := by
  unfold State.setSize
  split <;> rfl

@[simp] theorem State.beginRing_beat (s : State) (d : Nat) : (s.beginRing d).beat = s.beat := by
  unfold State.beginRing State.sendEnum
  split
  · exact s.enqueue_beat _ _ _
  · exact s.setSize_beat _ _

@[simp] theorem State.enumFail_beat (s : State) (l : Nat) : (s.enumFail l).beat = s.beat := by
  unfold State.enumFail
  split
  · rfl
  · exact State.postDev_beat _ _ _ _ _ _

@[simp] theorem State.wiring_beat (s : State) (l : Nat) : (s.wiring l).beat = s.beat := by
  unfold State.wiring
  extract_lets u
  have hu : u.beat = s.beat := s.updLink_beat l _ fun _ => rfl
  split
  · rw [State.enumFail_beat, hu]
  · split
    · rw [State.sendReport_beat, hu]
    · rw [State.enqueue_beat, hu]

theorem State.takeEnum_fecs (s : State) (l : Nat) (k : Packet) : (s.takeEnum l k).fecs = s.fecs := by
  unfold State.takeEnum
  extract_lets d c neg flat dev u v
  have hv : v.beat = s.beat := (State.enqueue_beat _ _ _ _).trans (State.earlyFaults_beat _)
  split
  · split
    · exact State.fecs_of_beat (s.wiring_beat l)
    · rw [State.maybeReport_fecs]
      exact State.fecs_of_beat ((State.foldl_beat _ _ _ fun t i => t.beginRing_beat i).trans hv)
  · split
    · rw [State.maybeReport_fecs]
      exact State.fecs_of_beat (s.setSize_beat _ _)
    · split
      · rfl
      · exact State.fecs_of_beat (s.wiring_beat l)

/-! ### What the master orders -/

theorem State.takeReport_fecs (s : State) (k : Packet) : (s.takeReport k).fecs = s.fecs := by
  unfold State.takeReport
  dsimp only
  split
  · exact State.checkGeom_fecs _
  · exact State.fecs_of_beat (s.spreadFault_beat _ _ _)
  · exact State.fecs_of_beat (s.fenceNode_beat _ _)
  · exact State.fecs_of_beat (s.enumFail_beat _)
  · rfl

@[simp] theorem State.imagePiece_beat (s : State) (off : Nat) (d : List Byte) : (s.imagePiece off d).beat = s.beat := by
  have hwhole (l : List Byte) : (s.imageWhole l).beat = s.beat := by
    unfold State.imageWhole
    exact s.store_beat _ _
  have hsome (l : List Byte) : (s.imageSome l).beat = s.beat := by
    unfold State.imageSome
    exact s.store_beat _ _
  unfold State.imagePiece
  extract_lets got l n
  clear_value got
  split
  · rfl
  · split
    · rfl
    · split
      · exact hwhole _
      · exact hsome _

@[simp] theorem State.takeLaunch_beat (s : State) (k : Packet) : (s.takeLaunch k).beat = s.beat := by
  unfold State.takeLaunch
  dsimp only
  split
  · rfl
  · split
    · exact s.launchDone_beat _ _ _
    · rw [State.updJob_beat, State.beginStep_beat]

theorem State.takeCsrRd_fecs (s : State) (k : Packet) : (s.takeCsrRd k).fecs = s.fecs := by
  unfold State.takeCsrRd
  split
  · rfl
  · split
    · rfl
    · exact (State.fecs_of_beat (State.sendPacket_beat _ _ _)).trans (s.csrGet_fecs _ _)

theorem State.takeCsrWr_fecs (s : State) (k : Packet) : (s.takeCsrWr k).fecs = s.fecs := by
  unfold State.takeCsrWr
  split
  · rfl
  · exact s.csrPut_fecs _ _ _

@[simp] theorem State.quarantine_beat (s : State) : s.quarantine.beat = s.beat := by
  have hu : ((upTo 8).foldl State.resetIf s).beat = s.beat := State.foldl_beat _ _ s fun t p => by
    unfold State.resetIf
    split
    · exact t.resetPart_beat p
    · rfl
  rw [s.quarantine_eq]
  generalize (upTo 8).foldl State.resetIf s = u at hu
  exact hu

theorem State.leaveIf_beat (s : State) (p : Nat) : (s.leaveIf p).beat = s.beat := by
  unfold State.leaveIf
  split
  · rw [State.dropPart_beat, State.endScrub_beat, State.scrubPart_beat]
  · rfl

theorem State.unquarantine_fecs (s : State) (e : BitVec 16) : (s.unquarantine e).fecs = s.fecs := by
  have hu : ((upTo 8).foldl State.leaveIf s).beat = s.beat := State.foldl_beat _ _ _ fun t p => t.leaveIf_beat p
  rw [s.unquarantine_eq]
  generalize (upTo 8).foldl State.leaveIf s = u at hu
  have he := (u.setEpoch_fecs u.dev.node e).trans (State.fecs_of_beat hu)
  generalize u.setEpoch u.dev.node e = v at he
  exact he

theorem State.takeFence_fecs (s : State) (k : Packet) : (s.takeFence k).fecs = s.fecs := by
  unfold State.takeFence
  split
  · exact State.fecs_of_beat s.quarantine_beat
  · split
    · exact s.unquarantine_fecs _
    · rfl

theorem State.masterOnly_fecs (s : State) (l : Nat) (k : Packet) (f : State → State) (h : (f s).fecs = s.fecs) :
    (s.masterOnly l k f).fecs = s.fecs := by
  unfold State.masterOnly
  split
  · exact State.fecs_of_beat (s.linkCnt_beat l (by decide))
  · exact h

theorem State.takeMgmt_fecs (s : State) (l : Nat) (k : Packet) : (s.takeMgmt l k).fecs = s.fecs := by
  have hdrop : (s.linkCnt l 0x120).fecs = s.fecs := State.fecs_of_beat (s.linkCnt_beat l (by decide))
  unfold State.takeMgmt
  split
  · exact s.takeEnum_fecs l k
  · split
    · exact s.takeReport_fecs k
    · rfl
  · split
    · rfl
    · exact s.setGeom_fecs _
  · exact s.masterOnly_fecs l k _ (State.fecs_of_beat (s.imagePiece_beat _ _))
  · split
    · exact s.takeCsrRd_fecs k
    · exact hdrop
  · exact s.masterOnly_fecs l k _ (s.takeCsrWr_fecs k)
  · exact s.masterOnly_fecs l k _ (State.fecs_of_beat (s.takeLaunch_beat k))
  · exact s.masterOnly_fecs l k _ (State.fecs_of_beat (s.setFault_beat _ _ _))
  · exact s.masterOnly_fecs l k _ (s.takeFence_fecs k)
  · exact hdrop

theorem State.arriveMgmt_fecs (s : State) (l : Nat) (k : Packet) (f : State → State) (h : ∀ t, (f t).fecs = t.fecs) :
    (s.arriveMgmt l k f).fecs = s.fecs := by
  have hc := s.checked_fecs l k f h
  unfold State.arriveMgmt
  split
  · exact hc
  · split
    · exact (State.fecs_of_beat (State.passOn_beat _ _ _)).trans hc
    · split
      · exact hc
      · split
        · exact hc
        · exact State.fecs_of_beat (s.sendOn_beat _ _)

/-! ### The sideband -/

@[simp] theorem State.sbReturn_beat (s : State) (i id n : Nat) : (s.sbReturn i id n).beat = s.beat := by
  unfold State.sbReturn
  split
  · rfl
  · exact s.updLink_beat _ _ fun _ => rfl

@[simp] theorem State.sbBegin_beat (s : State) (l : Nat) : (s.sbBegin l).beat = s.beat := s.updLink_beat l _ fun _ => rfl

theorem State.updPass_beat (s : State) (l id : Nat) (f : SbEnt → SbEnt) : (s.updPass l id f).beat = s.beat :=
  State.foldl_beat _ _ _ fun t m => t.updLink_beat m _ fun _ => rfl

theorem State.sidebandIn_fecs (s : State) (l : Nat) (k : Packet) (t : BitVec 96) : (s.sidebandIn l k t).fecs = s.fecs := by
  unfold State.sidebandIn
  extract_lets u id v
  have hu : u.fecs = s.fecs := State.fecs_of_beat (s.sbBegin_beat l)
  have hdrop : (u.linkCnt l 0x120).fecs = u.fecs := State.fecs_of_beat (u.linkCnt_beat l (by decide))
  have hv : v.fecs = u.fecs := by
    simp only [v]
    split
    · exact u.arriveMgmt_fecs l k _ fun t => t.takeMgmt_fecs l k
    · split
      · split
        · exact u.syncReq_fecs l k t
        · split
          · exact u.syncRsp_fecs l k t
          · exact hdrop
      · exact hdrop
  rw [State.fecs_of_beat (v.sbReturn_beat _ _ _), hv, hu]

theorem State.sbHead_fecs (s : State) (l key : Nat) (k : Packet) : (s.sbHead l key k).fecs = s.fecs := by
  unfold State.sbHead
  extract_lets u id v
  have hv : v.beat = s.beat := by
    simp only [v]
    split
    · exact (u.passOn_beat l k).trans (s.sbBegin_beat l)
    · exact (u.sendOn_beat l k).trans (s.sbBegin_beat l)
  refine State.fecs_of_beat (Eq.trans ?_ ((v.updPass_beat l id (fun e => { e with due := chunksOf k - 2 })).trans hv))
  exact State.updLink_beat _ l _ fun _ => rfl

theorem State.sbMore_fecs (s : State) (l key id : Nat) (k : Packet) (last : Bool) : (s.sbMore l key id k last).fecs = s.fecs := by
  unfold State.sbMore
  extract_lets u v w
  have hu : u.fecs = s.fecs := State.fecs_of_beat (s.updPass_beat l id _)
  have hvu : v.beat = u.beat := u.updLink_beat l _ fun _ => rfl
  have hv : v.fecs = s.fecs := (State.fecs_of_beat hvu).trans hu
  have hw : w.fecs = s.fecs := by
    simp only [w]
    split
    · exact (v.checked_fecs l k _ fun t => t.takeMgmt_fecs l k).trans hv
    · exact hv
  split
  · exact hu
  · exact (State.fecs_of_beat (w.sbReturn_beat _ _ _)).trans hw

theorem State.chunkIn_fecs (s : State) (l : Nat) (dl : Bool) (c : BitVec 128) : (s.chunkIn l dl c).fecs = s.fecs := by
  unfold State.chunkIn
  extract_lets key got t u k last at_ v
  have hu : u.beat = s.beat := by
    simp only [u]
    split
    · exact s.updLink_beat l _ fun _ => rfl
    · rfl
  have hvu : v.beat = u.beat := u.updLink_beat l _ fun _ => rfl
  have hv : v.fecs = s.fecs := State.fecs_of_beat (hvu.trans hu)
  split
  · exact (v.sbMore_fecs l key _ k last).trans hv
  · split
    · exact (v.sidebandIn_fecs l k at_).trans hv
    · split
      · exact (v.sbHead_fecs l key k).trans hv
      · exact hv

/-! ### Flits accepted -/

@[simp] theorem State.freeUnits_beat (s : State) (l o n : Nat) : (s.freeUnits l o n).beat = s.beat := s.updLink_beat l _ fun _ => rfl

theorem State.arriveWhole_fecs (s : State) (l o : Nat) (k : Packet) : (s.arriveWhole l o k).fecs = s.fecs := by
  unfold State.arriveWhole
  dsimp only
  split
  · exact (State.fecs_of_beat (State.freeUnits_beat _ _ _ _)).trans (s.arriveData_fecs l k .none)
  · exact State.fecs_of_beat ((State.freeUnits_beat _ _ _ _).trans (s.linkCnt_beat l (by decide)))

theorem State.unitIn_fecs (s : State) (l o : Nat) (u : BitVec 3 × BitVec 256) : (s.unitIn l o u).fecs = s.fecs := by
  unfold State.unitIn
  extract_lets c key v old got
  have hv : v.fecs = s.fecs := State.fecs_of_beat (s.updLink_beat l _ fun _ => rfl)
  have hone (m : Nat) (f : Link → Link) (hf : ∀ x, (f x).cnt.get 0#32 0x100 = x.cnt.get 0#32 0x100) :
      (v.updLink m f).fecs = s.fecs := (State.fecs_of_beat (v.updLink_beat m f hf)).trans hv
  split
  · rfl
  · split
    · exact State.fecs_of_beat (s.linkCnt_beat l (by decide))
    · split
      · exact (State.fecs_of_beat (State.freeUnits_beat _ _ _ _)).trans (hone _ _ fun _ => rfl)
      · split
        · exact hone _ _ fun _ => rfl
        · split
          · exact hone _ _ fun _ => rfl
          · split
            · exact hone _ _ fun _ => rfl
            · exact (State.arriveWhole_fecs _ _ _ _).trans (hone _ _ fun _ => rfl)

@[simp] theorem State.retrain_beat (s : State) (l : Nat) : (s.retrain l).beat = s.beat :=
  (State.linkCnt_beat _ l (by decide)).trans (s.updLink_beat l _ fun _ => rfl)

theorem Link.addCredits_cnt (x : Link) (o n : Nat) : (x.addCredits o n).cnt = x.cnt := by
  have hrep (f : List Nat) (t : Nat) : (x.repay f t).cnt = x.cnt :=
    List.foldlRecOn (motive := fun y : Link => y.cnt = x.cnt) _ _ rfl fun y hy i _ => hy
  unfold Link.addCredits
  extract_lets from_ t y cap a z
  have hy : y.cnt = x.cnt := by
    simp only [y]
    split
    · rfl
    · exact hrep _ _
  split <;> exact hy

theorem State.cretIn_beat (s : State) (l : Nat) (f : Flit) : (s.cretIn l f).beat = s.beat := by
  unfold State.cretIn
  extract_lets u
  have hu : u.beat = s.beat := State.foldl_beat _ _ _ fun t e => by
    split
    · exact t.updLink_beat l _ fun x => by rw [Link.addCredits_cnt]
    · rfl
  refine Eq.trans ?_ hu
  exact u.updLink_beat l _ fun _ => rfl

theorem State.ackIn_beat (s : State) (l : Nat) (f : Flit) : (s.ackIn l f).beat = s.beat := by
  unfold State.ackIn
  extract_lets u
  have hu : u.beat = s.beat := s.updLink_beat l _ fun _ => rfl
  split
  · exact hu
  · split
    · rw [State.retrain_beat, hu]
    · rw [State.linkCnt_beat _ _ (by decide)]
      refine Eq.trans ?_ hu
      exact u.updLink_beat l _ fun _ => rfl

/-- An accepted flit leaves the corrected symbols of every link. -/
theorem State.accept_fecs (s : State) (l : Nat) (f : Flit) : (s.accept l f).fecs = s.fecs := by
  unfold State.accept
  extract_lets u v w
  have hu : u.fecs = s.fecs := State.fecs_of_beat (s.updLink_beat l _ fun _ => rfl)
  have hv : v.fecs = s.fecs := (State.fecs_of_beat ((State.ackIn_beat _ l f).trans (u.cretIn_beat l f))).trans hu
  have hw : w.fecs = s.fecs := (State.foldl_fecs _ _ _ fun t x => t.unitIn_fecs l _ x).trans hv
  split
  · exact (w.chunkIn_fecs l _ _).trans hw
  · exact hw

end Sys2Proof.Machine
end

section
/-! Flits received: accepted, discarded, and the lanes whose symbols the FEC corrected (R523 to R534, R551, R577). -/
namespace Sys2Proof.Machine

/-! ### One link differs -/

theorem onlyLink_refl (s : State) (l : Nat) : Claims.onlyLink s s l := ⟨rfl, fun _ _ => rfl⟩

theorem onlyLink_trans {s t u : State} {l : Nat} (h : Claims.onlyLink s t l) (g : Claims.onlyLink t u l) : Claims.onlyLink s u l := by
  obtain ⟨hs, hl⟩ := h
  obtain ⟨gs, gl⟩ := g
  exact ⟨by rw [gs, hs], fun m hm => (gl m hm).trans (hl m hm)⟩

theorem State.updLink_onlyLink (s : State) (l : Nat) (f : Link → Link) : Claims.onlyLink s (s.updLink l f) l :=
  ⟨rfl, fun _ hm => State.link_updLink_ne _ _ _ _ hm⟩

/-- A counter of a link goes on, and nothing else differs. -/
theorem State.linkCnt_link (s : State) (l off : Nat) :
    (s.linkCnt l off).link l = { s.link l with cnt := (s.link l).cnt.upd 0#32 off satInc } := s.link_updLink_same l _

theorem State.discard_link (s : State) (l : Nat) : (s.discard l).link l =
    { s.link l with discarding := true, nakOut := (s.link l).nakOut || !(s.link l).discarding } := by
  unfold State.discard
  rw [State.link_updLink_same]
  generalize s.link l = x
  cases h : x.discarding
  · simp
  · rw [if_pos rfl, Bool.not_true, Bool.or_false, ← h]

theorem State.discard_onlyLink (s : State) (l : Nat) : Claims.onlyLink s (s.discard l) l := s.updLink_onlyLink l _

theorem State.retrain_onlyLink (s : State) (l : Nat) : Claims.onlyLink s (s.retrain l) l :=
  onlyLink_trans (s.updLink_onlyLink l _) (State.updLink_onlyLink _ l _)

/-! ### A flit with a good CRC -/

/-- The codeword count noted. -/
def State.cwHeard (s : State) (l : Nat) (n : Nat) : State := s.updLink l (fun x => { x with rxCount := BitVec.ofNat 16 n })

theorem State.cwHeard_link (s : State) (l n : Nat) : (s.cwHeard l n).link l = { s.link l with rxCount := BitVec.ofNat 16 n } :=
  s.link_updLink_same l _

/-- A codeword without corrected symbols on a link no lane of which is worn is taken by its CRC and its number. -/
theorem flitReceive_whole {l : Fin 7} {m : BitVec 5140} {s : State} (hl : s.live = true) (hf : s.flitsOn l.val = true)
    (hw : (s.link l.val).worn = []) :
    exec (.flitReceive l [] true m) s = .next
      (if !crcGood m.toNat then ((s.cwHeard l.val (m.toNat / 2 ^ 5120)).linkCnt l.val 0x108).discard l.val
      else if (flitOf m.toNat).seq ≠ (s.link l.val).rxSeq then (s.cwHeard l.val (m.toNat / 2 ^ 5120)).discard l.val
      else (s.cwHeard l.val (m.toNat / 2 ^ 5120)).accept l.val (flitOf m.toNat)) := by
  refine (whenLive_live _ _ hl).trans (congrArg _ ?_)
  have hworn : ((s.cwHeard l.val (m.toNat / 2 ^ 5120)).link l.val).worn = [] := by
    rw [State.cwHeard_link]
    exact hw
  have hseq : ((s.cwHeard l.val (m.toNat / 2 ^ 5120)).link l.val).rxSeq = (s.link l.val).rxSeq := by rw [State.cwHeard_link]
  rw [hf]
  generalize hu : s.cwHeard l.val (m.toNat / 2 ^ 5120) = u at hworn hseq
  rw [← hseq]
  have hfix : (s.countFixes l.val []).updLink l.val (fun x => { x with rxCount := BitVec.ofNat 16 (m.toNat / 2 ^ 5120) }) = u := hu
  simp only [hfix, hworn]
  rfl

/-- A link after a flit that carries no credits, no NAK and no sideband chunk. -/
def Link.kept (x : Link) (f : Flit) (n : Nat) : Link :=
  { x with
    rxSeq := x.rxSeq + 1#24, discarding := false, nakOut := false, sbFree := min 512 (x.sbFree + f.sbcret)
    replay := x.replay.filter (fun e => !seqLe e.flit.seq f.ack), resend := x.resend.filter (fun n => !seqLe n f.ack)
    rxCount := BitVec.ofNat 16 n }

/-- The header of a flit taken. -/
def State.headed (s : State) (l : Nat) (f : Flit) : State :=
  ((s.updLink l (fun x => { x with rxSeq := x.rxSeq + 1#24, discarding := false, nakOut := false })).cretIn l f).ackIn l f

theorem State.cretIn_none (s : State) (l : Nat) (f : Flit) (hc : ∀ e ∈ f.cret, 9 < e.1.toNat) :
    s.cretIn l f = s.updLink l (fun x => { x with sbFree := min 512 (x.sbFree + f.sbcret) }) := by
  unfold State.cretIn
  rw [show f.cret.foldl (fun s e => if e.1.toNat ≤ 9 then s.updLink l (fun x => x.addCredits e.1.toNat e.2) else s) s = s from
    List.foldlRecOn (motive := fun t : State => t = s) _ _ rfl fun t ht e he => by
      rw [if_neg (Nat.not_le.mpr (hc e he)), ht]]

theorem State.ackIn_plain (s : State) (l : Nat) (f : Flit) (hn : f.nak = false) :
    s.ackIn l f = s.updLink l (fun x => { x with
      replay := x.replay.filter (fun e => !seqLe e.flit.seq f.ack), resend := x.resend.filter (fun n => !seqLe n f.ack) }) := by
  unfold State.ackIn
  rw [hn]
  rfl

theorem State.headed_link (s : State) (l n : Nat) (f : Flit) (hn : f.nak = false) (hc : ∀ e ∈ f.cret, 9 < e.1.toNat) :
    Claims.onlyLink s ((s.cwHeard l n).headed l f) l ∧ ((s.cwHeard l n).headed l f).link l = (s.link l).kept f n := by
  unfold State.headed
  rw [State.cretIn_none _ _ _ hc, State.ackIn_plain _ _ _ hn]
  refine ⟨onlyLink_trans (s.updLink_onlyLink l _) (onlyLink_trans (State.updLink_onlyLink _ l _)
    (onlyLink_trans (State.updLink_onlyLink _ l _) (State.updLink_onlyLink _ l _))), ?_⟩
  rw [State.link_updLink_same, State.link_updLink_same, State.link_updLink_same, State.cwHeard_link]
  rfl

theorem State.accept_eq {s : State} {l : Nat} {f : Flit} (hs : f.sb = none) :
    s.accept l f = f.units.foldl (fun s u => s.unitIn l f.owner.toNat u) (s.headed l f) := by
  unfold State.accept
  rw [hs]
  rfl

/-- The flit that is expected, in a good codeword: its header and its units are taken. -/
theorem flitReceive_accepts {l : Fin 7} {m : BitVec 5140} {s : State} (hl : s.live = true) (hf : s.flitsOn l.val = true)
    (hw : (s.link l.val).worn = []) (hg : crcGood m.toNat = true) (hq : (flitOf m.toNat).seq = (s.link l.val).rxSeq)
    (hs : (flitOf m.toNat).sb = none) :
    exec (.flitReceive l [] true m) s = .next ((flitOf m.toNat).units.foldl
      (fun s u => s.unitIn l.val (flitOf m.toNat).owner.toNat u) ((s.cwHeard l.val (m.toNat / 2 ^ 5120)).headed l.val (flitOf m.toNat))) := by
  rw [flitReceive_whole hl hf hw, hg, if_neg (not_not.mpr hq), State.accept_eq hs]
  rfl

/-! ### The unit that a flit brings -/

/-- A unit more is held for an owner. -/
def Link.holdUnit (x : Link) (o : Nat) : Link := { x with rxFree := x.rxFree - 1, rxHeld := x.rxHeld.upd 0 o (fun a => a + 1) }

/-- Which link a packet being forwarded leaves on hangs on the queues alone. -/
theorem State.leaving_congr {s t : State} (h : ∀ m, (t.link m).txq = (s.link m).txq ∧ (t.link m).txCur = (s.link m).txCur)
    (l c o : Nat) : t.leaving l c o = s.leaving l c o := by
  unfold State.leaving
  refine congrArg (fun f => (upTo 7).find? f) (funext fun m => ?_)
  rw [(h m).1, (h m).2]

theorem State.transit_congr {s t : State} (h : t.dev = s.dev) (l : Nat) (k : Packet) : t.transit l k = s.transit l k := by
  unfold State.transit
  rw [h, State.route_dev h]

/-- The first unit of a packet that is neither skipped nor being forwarded. -/
theorem State.unitIn_first {s : State} {l o : Nat} {c : BitVec 3} {u : BitVec 256} (h1 : 1 ≤ c.toNat) (h6 : c.toNat ≤ 6) (ho : o ≤ 8)
    (hp : (s.link l).part.get [] (8 * o + c.toNat) = []) (hk : (s.link l).skip.get 0 (8 * o + c.toNat) = 0)
    (hv : s.leaving l c.toNat o = none) :
    s.unitIn l o (c, u) = match s.transit l (packetOf u []) with
      | some m => (s.updLink l (fun x => x.holdUnit o)).passHead m l c.toNat (packetOf u [])
      | none =>
        if 1 < packetUnits (packetOf u []).len.toNat then
          (s.updLink l (fun x => x.holdUnit o)).updLink l (fun x => { x with part := x.part.put (8 * o + c.toNat) [u] })
        else ((s.updLink l (fun x => x.holdUnit o)).updLink l (fun x => { x with part := x.part.erase (8 * o + c.toNat) })).arriveWhole
          l o (packetOf u []) := by
  have hlink : (s.updLink l (fun x => x.holdUnit o)).link l = (s.link l).holdUnit o := s.link_updLink_same l _
  have hskip : ¬ (((s.updLink l (fun x => x.holdUnit o)).link l).skip.get 0 (8 * o + c.toNat) > 0) := by
    rw [hlink]
    exact Nat.not_lt.mpr (Nat.le_of_eq hk)
  have hleave : (s.updLink l (fun x => x.holdUnit o)).leaving l c.toNat o = none :=
    (State.leaving_congr (fun m => by
      by_cases hm : m = l
      · rw [hm, hlink]
        exact ⟨rfl, rfl⟩
      · rw [State.link_updLink_ne _ _ _ _ hm]
        exact ⟨rfl, rfl⟩) l c.toNat o).trans hv
  have hpart : ((s.updLink l (fun x => x.holdUnit o)).link l).part.get [] (8 * o + c.toNat) = [] := by
    rw [hlink]
    exact hp
  have htrans : (s.updLink l (fun x => x.holdUnit o)).transit l (packetOf u []) = s.transit l (packetOf u []) :=
    State.transit_congr (s := s) (t := s.updLink l (fun x => x.holdUnit o)) rfl l _
  unfold State.unitIn
  dsimp only
  rw [if_neg (by omega), if_neg (by omega)]
  generalize hg : s.updLink l (fun x => x.holdUnit o) = v at hskip hleave hpart htrans ⊢
  have hv' : s.updLink l (fun x => { x with rxFree := x.rxFree - 1, rxHeld := x.rxHeld.upd 0 o (fun a => a + 1) }) = v := hg
  rw [hv', if_neg hskip, hleave, hpart, ← htrans]
  rfl

/-- The dateline class and the queue of a link are all that the start of a forwarding needs. -/
theorem State.passHead_link (s : State) (o l c : Nat) (k : Packet) :
    (s.passHead o l c k).link o = { s.link o with txq := (s.link o).txq ++ [{ TxEnt.init with
      input := l, inCls := c, cls := packetClass { k with dl := s.dateline l o k.dl }, pkt := { k with dl := s.dateline l o k.dl }
      units := [packetHead { k with dl := s.dateline l o k.dl }], due := packetUnits k.len.toNat - 1 }] } := s.link_updLink_same o _

theorem one_lt_packetUnits {n : BitVec 9} (h : n ≠ 0#9) : 1 < packetUnits n.toNat := by
  have h0 : n.toNat ≠ 0 := fun he => h (BitVec.eq_of_toNat_eq he)
  unfold packetUnits ceilDiv
  have : 1 ≤ (n.toNat + 32 - 1) / 32 := by omega
  omega

/-- What the header of a flit without credits, NAK and sideband leaves of the link. -/
structure Link.tookHeader (x y : Link) (f : Flit) (n : Nat) : Prop where
  rxSeq : y.rxSeq = x.rxSeq + 1#24
  discarding : y.discarding = false
  nakOut : y.nakOut = false
  sbFree : y.sbFree = min 512 (x.sbFree + f.sbcret)
  replay : y.replay = x.replay.filter (fun e => !seqLe e.flit.seq f.ack)
  resend : y.resend = x.resend.filter (fun n => !seqLe n f.ack)
  rxCount : y.rxCount = BitVec.ofNat 16 n

/-- The first unit of a packet for this device is kept until the packet is whole. -/
theorem State.unitIn_kept {s v : State} {l o : Nat} {c : BitVec 3} {u : BitVec 256} {f : Flit} {n : Nat} (hv : Claims.onlyLink s v l)
    (hx : v.link l = (s.link l).kept f n) (h1 : 1 ≤ c.toNat) (h6 : c.toNat ≤ 6) (ho : o ≤ 8)
    (hp : (s.link l).part.get [] (8 * o + c.toNat) = []) (hk : (s.link l).skip.get 0 (8 * o + c.toNat) = 0)
    (hl : s.leaving l c.toNat o = none) (ht : s.transit l (packetOf u []) = none) (hn : (packetOf u []).len ≠ 0#9) :
    Claims.onlyLink s (v.unitIn l o (c, u)) l ∧ (s.link l).tookHeader ((v.unitIn l o (c, u)).link l) f n ∧
      ((v.unitIn l o (c, u)).link l).part.get [] (8 * o + c.toNat) = [u] ∧
      ((v.unitIn l o (c, u)).link l).rxFree = (s.link l).rxFree - 1 := by
  have hdev : v.dev = s.dev := by rw [hv.1]
  have hleave : v.leaving l c.toNat o = none := (State.leaving_congr (fun m => by
    by_cases hm : m = l
    · rw [hm, hx]
      exact ⟨rfl, rfl⟩
    · rw [hv.2 m hm]
      exact ⟨rfl, rfl⟩) l c.toNat o).trans hl
  rw [State.unitIn_first h1 h6 ho (by rw [hx]; exact hp) (by rw [hx]; exact hk) hleave, State.transit_congr hdev, ht]
  dsimp only
  rw [if_pos (one_lt_packetUnits hn)]
  have hlink : ((v.updLink l (fun x => x.holdUnit o)).updLink l (fun x => { x with part := x.part.put (8 * o + c.toNat) [u] })).link l =
      { ((s.link l).kept f n).holdUnit o with part := (s.link l).part.put (8 * o + c.toNat) [u] } := by
    rw [State.link_updLink_same, State.link_updLink_same, hx]
    rfl
  refine ⟨onlyLink_trans hv (onlyLink_trans (v.updLink_onlyLink l _) (State.updLink_onlyLink _ l _)), ?_⟩
  rw [hlink]
  exact ⟨⟨rfl, rfl, rfl, rfl, rfl, rfl, rfl⟩, SMap.get_put_same _ _ _ _, rfl⟩

/-- The first unit of a packet for another node goes on at once. -/
theorem State.unitIn_passed {s v : State} {l o q : Nat} {c : BitVec 3} {u : BitVec 256} {f : Flit} {n : Nat} (hv : Claims.onlyLink s v l)
    (hx : v.link l = (s.link l).kept f n) (h1 : 1 ≤ c.toNat) (h6 : c.toNat ≤ 6) (ho : o ≤ 8)
    (hp : (s.link l).part.get [] (8 * o + c.toNat) = []) (hk : (s.link l).skip.get 0 (8 * o + c.toNat) = 0)
    (hl : s.leaving l c.toNat o = none) (ht : s.transit l (packetOf u []) = some q) (hq : q ≠ l) :
    (v.unitIn l o (c, u) = { s with links := (v.unitIn l o (c, u)).links }) ∧
      (s.link l).tookHeader ((v.unitIn l o (c, u)).link l) f n ∧
      let k := { packetOf u [] with dl := s.dateline l q (packetOf u []).dl }
      (v.unitIn l o (c, u)).link q = { s.link q with txq := (s.link q).txq ++ [{ TxEnt.init with
        input := l, inCls := c.toNat, cls := packetClass k, pkt := k, units := [packetHead k], due := packetUnits k.len.toNat - 1 }] } := by
  have hdev : v.dev = s.dev := by rw [hv.1]
  have hleave : v.leaving l c.toNat o = none := (State.leaving_congr (fun m => by
    by_cases hm : m = l
    · rw [hm, hx]
      exact ⟨rfl, rfl⟩
    · rw [hv.2 m hm]
      exact ⟨rfl, rfl⟩) l c.toNat o).trans hl
  rw [State.unitIn_first h1 h6 ho (by rw [hx]; exact hp) (by rw [hx]; exact hk) hleave, State.transit_congr hdev, ht]
  dsimp only
  have hdate : (v.updLink l (fun x => x.holdUnit o)).dateline l q (packetOf u []).dl = s.dateline l q (packetOf u []).dl :=
    State.dateline_congr (s := s) hdev l q _
  have hlink : ((v.updLink l (fun x => x.holdUnit o)).passHead q l c.toNat (packetOf u [])).link l = ((s.link l).kept f n).holdUnit o := by
    unfold State.passHead
    rw [State.link_updLink_ne _ _ _ _ hq.symm, State.link_updLink_same, hx]
  refine ⟨?_, ?_, ?_⟩
  · unfold State.passHead
    rw [hv.1]
    rfl
  · rw [hlink]
    exact ⟨rfl, rfl, rfl, rfl, rfl, rfl, rfl⟩
  · rw [State.passHead_link, hdate, State.link_updLink_ne _ _ _ _ hq, hv.2 q hq]

/-! ### Flits that are not accepted -/

/-- A flit that is discarded, after a count: the first one after an accepted flit calls for a NAK. -/
theorem State.discard_counted (s : State) (l off : Nat) (n : BitVec 16) :
    let u := s.updLink l (fun x => { x with rxCount := n })
    let t := (u.linkCnt l off).discard l
    Claims.onlyLink s t l ∧ t.link l = { s.link l with
      discarding := true, nakOut := (s.link l).nakOut || !(s.link l).discarding, cnt := (t.link l).cnt, rxCount := (t.link l).rxCount } ∧
      (t.link l).cnt.get 0#32 off = satInc ((s.link l).cnt.get 0#32 off) := by
  intro u t
  have hu : u.link l = { s.link l with rxCount := n } := s.link_updLink_same l _
  have ht : t.link l = { s.link l with
      discarding := true, nakOut := (s.link l).nakOut || !(s.link l).discarding
      cnt := (s.link l).cnt.upd 0#32 off satInc, rxCount := n } := by
    rw [State.discard_link, State.linkCnt_link, hu]
  refine ⟨onlyLink_trans (s.updLink_onlyLink l _) (onlyLink_trans (u.updLink_onlyLink l _) (State.discard_onlyLink _ l)), ?_⟩
  rw [ht]
  exact ⟨rfl, SMap.get_upd_same _ _ _ _⟩

theorem flitReceive_bad {l : Fin 7} (fix : List (Fin 544)) (m : BitVec 5140) {s : State} (hl : s.live = true)
    (hf : s.flitsOn l.val = true) : exec (.flitReceive l fix false m) s = .next ((s.linkCnt l.val 0x104).discard l.val) := by
  refine (whenLive_live _ _ hl).trans (congrArg _ ?_)
  rw [hf]
  rfl

end Sys2Proof.Machine
end

section
/-! Corrected symbols, the flits that a slot sends, and lanes (R539 to R543, R577 to R581, R877). -/
namespace Sys2Proof.Machine

/-! ### Corrected symbols -/

/-- The lane counts of a list of one symbol many times. -/
theorem SMap.foldl_upd_get (k : Nat) : ∀ (n : Nat) (m : SMap Nat) (i : Fin 544) (f : Fin 544 → Nat), f i = k →
    ((List.replicate n i).foldl (fun (m : SMap Nat) i => m.upd 0 (f i) (fun a => a + 1)) m).get 0 k = m.get 0 k + n
  | 0, _, _, _, _ => rfl
  | n + 1, m, i, f, h => by
    rw [List.replicate_succ, List.foldl_cons, SMap.foldl_upd_get k n _ i f h, h, SMap.get_upd_same]
    omega

/-- A link that has counted its corrected symbols. -/
def Link.counted (x : Link) (w : BitVec 64) (fix : List (Fin 544)) (n : BitVec 16) : Link :=
  { x with
    cnt := x.cnt.upd 0#32 0x100 (fun a => BitVec.ofNat 32 (min (2 ^ 32 - 1) (a.toNat + fix.length)))
    corrWin := w
    corr := fix.foldl (fun m i => m.upd 0 (x.laneOf i.val) (fun a => a + 1)) (if w = x.corrWin then x.corr else []), rxCount := n }

/-- The symbols of a codeword counted, and its count noted. -/
def State.fixed (s : State) (l : Nat) (fix : List (Fin 544)) (n : BitVec 16) : State :=
  (s.countFixes l fix).updLink l (fun x => { x with rxCount := n })

theorem State.fixed_link (s : State) (l : Nat) {fix : List (Fin 544)} (n : BitVec 16) (h : fix ≠ []) :
    Claims.onlyLink s (s.fixed l fix n) l ∧ (s.fixed l fix n).link l = (s.link l).counted (BitVec.ofNat 64 (s.ns / 8000)) fix n := by
  unfold State.fixed State.countFixes
  rw [if_neg (by simp [h])]
  refine ⟨onlyLink_trans (s.updLink_onlyLink l _) (State.updLink_onlyLink _ l _), ?_⟩
  rw [State.link_updLink_same, State.link_updLink_same]
  rfl

/-- What becomes of a codeword whose symbols have been counted. -/
def State.judged (u : State) (l : Nat) (m : BitVec 5140) : State :=
  if !(u.link l).worn.isEmpty then u.failLanes l (u.link l).worn
  else if !crcGood m.toNat then (u.linkCnt l 0x108).discard l
  else if (flitOf m.toNat).seq ≠ (u.link l).rxSeq then u.discard l else u.accept l (flitOf m.toNat)

theorem flitReceive_fixed {l : Fin 7} (fix : List (Fin 544)) (m : BitVec 5140) {s : State} (hl : s.live = true)
    (hf : s.flitsOn l.val = true) : exec (.flitReceive l fix true m) s =
      .next ((s.fixed l.val fix (BitVec.ofNat 16 (m.toNat / 2 ^ 5120))).judged l.val m) := by
  refine (whenLive_live _ _ hl).trans (congrArg _ ?_)
  rw [hf]
  rfl

theorem State.discard_beat (s : State) (l : Nat) : (s.discard l).beat = s.beat := s.updLink_beat l _ fun x => by split <;> rfl

theorem State.failLanes_beat (s : State) (l : Nat) (lanes : List Nat) : (s.failLanes l lanes).beat = s.beat :=
  (State.retrain_beat _ l).trans (s.updLink_beat l _ fun _ => rfl)

/-- However a codeword is judged, the corrected symbols stay as they were counted. -/
theorem State.judged_fecs (u : State) (l : Nat) (m : BitVec 5140) : (u.judged l m).fecs = u.fecs := by
  unfold State.judged
  split
  · exact State.fecs_of_beat (u.failLanes_beat l _)
  · split
    · exact State.fecs_of_beat ((State.discard_beat _ l).trans (u.linkCnt_beat l (by decide)))
    · split
      · exact State.fecs_of_beat (u.discard_beat l)
      · exact u.accept_fecs l _

theorem SMap.mem_of_get {m : SMap Nat} {k : Nat} (h : 0 < m.get 0 k) : (k, m.get 0 k) ∈ m := by
  unfold SMap.get at *
  cases hf : m.find k with
  | none => rw [hf] at h; exact absurd h (by decide)
  | some x => exact find_mem hf

theorem Link.mem_worn {x : Link} {k : Nat} (h : 16 * x.deg.toNat < x.corr.get 0 k) : k ∈ x.worn :=
  List.mem_map.mpr ⟨_, List.mem_filter.mpr ⟨SMap.mem_of_get (Nat.lt_of_le_of_lt (Nat.zero_le _) h), decide_eq_true h⟩, rfl⟩

/-- A lane that is cleared stays clear. -/
theorem clearLanes_getLsbD (k : Nat) : ∀ (l : List Nat) (m : BitVec 8), (k ∈ l ∨ m.getLsbD k = false) →
    (l.foldl (fun m i => m &&& ~~~(1#8 <<< i)) m).getLsbD k = false
  | [], m, h => h.resolve_left (by simp)
  | i :: l, m, h => by
    rw [List.foldl_cons]
    refine clearLanes_getLsbD k l _ ?_
    rcases h with h | h
    · rcases List.mem_cons.mp h with h | h
      · subst h
        refine .inr ?_
        by_cases hk : k < 8
        · simp [BitVec.getLsbD_and, hk]
        · exact BitVec.getLsbD_of_ge _ _ (by omega)
      · exact .inl h
    · exact .inr (by rw [BitVec.getLsbD_and, h, Bool.false_and])

/-- A link whose lanes fail stops and retrains. -/
theorem State.failLanes_link (s : State) (l : Nat) (lanes : List Nat) :
    Claims.onlyLink s (s.failLanes l lanes) l ∧ (s.failLanes l lanes).link l = { s.link l with
      corr := [], laneOk := lanes.foldl (fun m i => m &&& ~~~(1#8 <<< i)) (s.link l).laneOk, state := 1#3, trainNs := s.nsW
      cnt := (s.link l).cnt.upd 0#32 0x110 satInc } := by
  refine ⟨onlyLink_trans (s.updLink_onlyLink l _) (State.retrain_onlyLink _ l), ?_⟩
  unfold State.failLanes State.retrain
  rw [State.linkCnt_link, State.link_updLink_same, State.link_updLink_same]
  rfl

/-- Symbols of one lane counted: their number, and the lane's end where they are too many. -/
theorem flitReceive_corrected (l : Fin 7) (i : Fin 544) (n : Nat) (m : BitVec 5140) (s : State) (hl : s.live = true)
    (hf : s.flitsOn l.val = true) (hn : 1 ≤ n) :
    let x := s.link l.val
    let old := if x.corrWin = BitVec.ofNat 64 (s.ns / 8000) then x.corr.get 0 (x.laneOf i.val) else 0
    ∃ t, exec (.flitReceive l (List.replicate n i) true m) s = .next t ∧
      (t.link l.val).cnt.get 0#32 0x100 = BitVec.ofNat 32 (min (2 ^ 32 - 1) ((x.cnt.get 0#32 0x100).toNat + n)) ∧
      (16 * x.deg.toNat < old + n → Claims.onlyLink s t l.val ∧ (t.link l.val).state = 1#3 ∧
        (t.link l.val).laneOk.getLsbD (x.laneOf i.val) = false ∧ (t.link l.val).rxSeq = x.rxSeq) := by
  intro x old
  have hne : List.replicate n i ≠ [] := fun h => by rw [List.replicate_eq_nil_iff] at h; omega
  obtain ⟨ho, hu⟩ := s.fixed_link l.val (BitVec.ofNat 16 (m.toNat / 2 ^ 5120)) hne
  refine ⟨_, flitReceive_fixed _ m hl hf, ?_, fun hw => ?_⟩
  · refine (congrFun (State.judged_fecs _ l.val m) l.val : _).trans ?_
    show ((State.link _ l.val).cnt.get 0#32 0x100) = _
    rw [hu]
    unfold Link.counted
    dsimp only
    rw [SMap.get_upd_same, List.length_replicate]
  · generalize s.fixed l.val (List.replicate n i) (BitVec.ofNat 16 (m.toNat / 2 ^ 5120)) = u at ho hu ⊢
    have hcorr : (u.link l.val).corr.get 0 (x.laneOf i.val) = old + n := by
      rw [hu]
      refine (SMap.foldl_upd_get _ n _ i (fun i => x.laneOf i.val) rfl).trans ?_
      simp only [old]
      by_cases hwin : x.corrWin = BitVec.ofNat 64 (s.ns / 8000)
      · rw [if_pos hwin, if_pos hwin.symm]
      · rw [if_neg hwin, if_neg (Ne.symm hwin)]
        rfl
    have hmem : x.laneOf i.val ∈ (u.link l.val).worn := Link.mem_worn (by
      rw [hcorr, hu]
      exact hw)
    have hj : u.judged l.val m = u.failLanes l.val (u.link l.val).worn := by
      unfold State.judged
      rw [if_pos]
      simpa using List.ne_nil_of_mem hmem
    obtain ⟨hol, hlk⟩ := u.failLanes_link l.val (u.link l.val).worn
    rw [hj]
    refine ⟨onlyLink_trans ho hol, ?_⟩
    rw [hlk]
    refine ⟨rfl, clearLanes_getLsbD _ _ _ (.inl hmem), ?_⟩
    show (u.link l.val).rxSeq = _
    rw [hu]
    rfl

/-! ### Flits that are sent again -/

theorem flitsOn_linkSlot {l : Fin 7} {s : State} (hl : s.live = true) (hf : s.flitsOn l.val = true) :
    exec (.linkSlot l) s = .next (State.updLink (match (s.link l.val).resend with
      | n :: _ => match (s.link l.val).replay.find? (fun (e : TxFlit) => e.flit.seq == n) with
        | some e => s.resendFlit l.val e
        | none => s.updLink l.val (fun x => { x with resend := x.resend.tail })
      | [] => if (s.link l.val).replay.length ≥ 256 then s else s.sendFlit l.val) l.val
        (fun x => { x with slotPos := (x.slotPos + 1) % 64 })) := by
  refine (whenLive_live _ _ hl).trans (congrArg _ ?_)
  rw [hf]
  rfl

/-- A flit of no partition and without a sideband chunk is sent again. -/
theorem State.resendFlit_link (s : State) (l : Nat) {e : TxFlit} (hk : e.sbPkt = none) (ho : 8 ≤ e.flit.owner.toNat) :
    let x := s.link l
    let f : Flit := { e.flit with ack := x.rxSeq - 1#24, nak := x.nakOut, sb := none }
    Claims.onlyLink s (s.resendFlit l e) l ∧ (s.resendFlit l e).link l = { x with
      resend := x.resend.tail, nakOut := false, txMsg := codeword f x.txCount, txCount := x.txCount + 1#16
      replay := x.replay.map (fun y => if y.flit.seq = e.flit.seq then { e with flit := f, count := e.count + 1 } else y) } := by
  intro x f
  unfold State.resendFlit
  simp only [hk, Option.map_none]
  rw [if_neg (Nat.not_lt.mpr ho)]
  refine ⟨onlyLink_trans (s.updLink_onlyLink l _) (State.updLink_onlyLink _ l _), ?_⟩
  unfold State.emitFlit
  rw [State.link_updLink_same, State.link_updLink_same]

/-! ### New flits -/

theorem packetClass_le (k : Packet) : packetClass k ≤ 6 := by
  have hb : ∀ b, b2n b ≤ 1 := by decide
  have := hb k.dl
  unfold packetClass
  split
  · omega
  · split
    · omega
    · split <;> omega

theorem packetOwner_le (k : Packet) : packetOwner k ≤ 8 := by
  have := k.part.isLt
  unfold packetOwner
  split <;> omega

/-- A packet of this device that waits alone on a link. -/
structure State.waitsAlone (s : State) (l : Nat) (k : Packet) : Prop where
  txCur : (s.link l).txCur = []
  txq : (s.link l).txq = [Claims.leaves k]
  class0 : packetClass k ≠ 0
  len : k.len = 0#9
  credits : 28 ≤ (s.link l).credits (packetOwner k)

theorem packetUnits_zero {k : Packet} (h : k.len = 0#9) : packetUnits k.len.toNat = 1 := by
  rw [h]
  rfl

theorem packetBits_zero {k : Packet} (h : k.len = 0#9) : packetBits k = [packetHead k] := by
  unfold packetBits
  rw [h]
  rfl

theorem Link.creditFor_own {x : Link} (conf : Bool) {o : Nat} (c : Nat) (h : 28 ≤ x.credits o) : x.creditFor conf o c 1 = some o := by
  unfold Link.creditFor
  exact if_pos (by omega)

theorem List.findSome?_of_one {α β : Type} {f : α → Option β} {l : List α} {b : β} (h : ∀ a ∈ l, f a = none ∨ f a = some b)
    {a : α} (ha : a ∈ l) (hb : f a = some b) : l.findSome? f = some b := by
  cases hf : l.findSome? f with
  | none => rw [List.findSome?_eq_none_iff.mp hf a ha] at hb; exact hb
  | some y =>
    obtain ⟨c, hc, hy⟩ := List.exists_of_findSome?_eq_some hf
    rcases h c hc with h | h
    · rw [h] at hy; exact absurd hy (by simp)
    · exact hy.symm.trans h

/-- The packet that waits alone is the next of its owner and class, and no other class has one. -/
theorem Link.nextOf_alone {x : Link} {e : TxEnt} (h : x.txq = [e]) (hi : e.input = 7) (o c : Nat) :
    x.nextOf o c = if e.cls = c ∧ packetOwner e.pkt = o then some e else none := by
  unfold Link.nextOf
  dsimp only
  rw [h]
  by_cases hc : e.cls = c ∧ packetOwner e.pkt = o
  · rw [if_pos hc]
    have hone (i : Nat) : ([e].find? fun y => y.input == (x.lastInput.get 7 c + 1 + i) % 8 && y.cls == c && packetOwner y.pkt == o) =
        if (x.lastInput.get 7 c + 1 + i) % 8 = 7 then some e else none := by
      rw [List.find?_singleton, hi, hc.1, hc.2]
      by_cases h7 : (x.lastInput.get 7 c + 1 + i) % 8 = 7
      · simp [h7]
      · simp [h7, Ne.symm h7]
    refine List.findSome?_of_one (a := (6 + 7 * (x.lastInput.get 7 c)) % 8) (fun i _ => ?_)
      (List.mem_range.mpr (Nat.mod_lt _ (by decide))) ?_
    · rw [hone]
      split
      · exact .inr rfl
      · exact .inl rfl
    · rw [hone, if_pos (by omega)]
  · rw [if_neg hc, List.findSome?_eq_none_iff]
    intro i _
    rw [List.find?_eq_none]
    intro y hy
    rw [List.mem_singleton.mp hy]
    simpa using fun _ h1 h2 => hc ⟨h1, h2⟩

theorem Link.readyIn_alone {x : Link} {k : Packet} (h : x.txq = [Claims.leaves k]) (hc : x.txCur = []) (hl : k.len = 0#9)
    (hr : 28 ≤ x.credits (packetOwner k)) (conf : Bool) (c : Nat) :
    x.readyIn conf (packetOwner k) c = decide (packetClass k = c) := by
  unfold Link.readyIn
  rw [hc, Link.nextOf_alone h rfl]
  by_cases hk : packetClass k = c
  · have he : (Claims.leaves k).cls = c ∧ packetOwner (Claims.leaves k).pkt = packetOwner k := ⟨hk, rfl⟩
    have hu : packetUnits (Claims.leaves k).pkt.len.toNat = 1 := packetUnits_zero hl
    rw [if_pos he]
    simp only [SMap.find]
    rw [hu, Link.creditFor_own conf c hr, decide_eq_true hk]
    rfl
  · rw [if_neg (fun h => hk h.1), decide_eq_false hk]
    rfl

theorem Link.readyIn_none {x : Link} (h : x.txq = []) (hc : x.txCur = []) (conf : Bool) (o c : Nat) : x.readyIn conf o c = false := by
  have hn : x.nextOf o c = none := by
    unfold Link.nextOf
    rw [h]
    exact List.findSome?_eq_none_iff.mpr fun _ _ => rfl
  unfold Link.readyIn
  rw [hc, hn]
  rfl

theorem find_classOrder {c : Nat} (h0 : c ≠ 0) (h6 : c ≤ 6) : classOrder.find? (fun d => decide (c = d)) = some c := by
  interval_cases c
  · exact absurd rfl h0
  all_goals rfl

/-- The owner of a slot whose only packet waits sends. -/
theorem State.slotSender_alone {s : State} {l : Nat} {k : Packet} (h : s.waitsAlone l k)
    (ho : packetOwner k = slotOwner (s.link l).slotmap ((s.link l).slotPos % 64)) (hs : s.scrubbing (packetOwner k) = false) :
    s.slotSender l = (packetOwner k, false) := by
  obtain ⟨hcur, hq, hcls, hlen, hcred⟩ := h
  unfold State.slotSender
  dsimp only
  rw [← ho]
  refine if_pos ⟨packetOwner_le k, ?_⟩
  rw [hs, Bool.and_false]
  refine List.any_eq_true.mpr ⟨packetClass k, List.mem_of_find?_eq_some (find_classOrder hcls (packetClass_le k)), ?_⟩
  rw [Link.readyIn_alone hq hcur hlen hcred, decide_eq_true rfl]

/-- The link after its only packet has left whole. -/
def Link.sentAlone (x : Link) (k : Packet) : Link :=
  { x with
    txq := [], lastInput := x.lastInput.put (packetClass k) 7
    holding := x.holding.put (packetOwner k) (x.credits (packetOwner k) - 1), txCur := [] }

theorem State.noteSent_link (s : State) (k : Packet) (l : Nat) : (s.noteSent k).link l = s.link l := by
  unfold State.noteSent
  dsimp only
  split
  · rfl
  · exact List.foldlRecOn (motive := fun t : State => t.link l = s.link l) _ _ rfl fun t ht c _ => ht

/-- The only packet of a link begins to leave. -/
theorem State.startPacket_alone {s : State} {l : Nat} {k : Packet} (h : s.waitsAlone l k) :
    (s.startPacket l (packetOwner k) (packetClass k) (Claims.leaves k) (packetOwner k)).link l = { (s.link l).sentAlone k with
      txCur := [(8 * packetOwner k + packetClass k, Claims.leaves k)] } := by
  obtain ⟨hcur, hq, hcls, hlen, hcred⟩ := h
  have hu : packetUnits (Claims.leaves k).pkt.len.toNat = 1 := packetUnits_zero hlen
  unfold State.startPacket
  extract_lets u
  have hlu : u.link l = { (s.link l).sentAlone k with
      txCur := [(8 * packetOwner k + packetClass k, Claims.leaves k)] } := by
    simp only [u]
    rw [State.link_updLink_same, hq, hcur, hu, List.erase_cons_head]
    rfl
  split
  · rw [State.noteSent_link]
    exact hlu
  · exact hlu

/-- The units of the only packet, which has no data, are taken. -/
theorem State.takeUnits_alone {s : State} {l : Nat} {k : Packet} (hl : k.len = 0#9)
    (hc : (s.link l).txCur = [(8 * packetOwner k + packetClass k, Claims.leaves k)]) :
    (s.takeUnits l (packetOwner k) (packetClass k) 18).2 = [packetHead k] ∧
      (s.takeUnits l (packetOwner k) (packetClass k) 18).1.link l = { s.link l with txCur := [] } := by
  have hf : (s.link l).txCur.find (8 * packetOwner k + packetClass k) = some (Claims.leaves k) := by
    rw [hc]
    exact if_pos rfl
  have hu : (Claims.leaves k).units = [packetHead k] := packetBits_zero hl
  unfold State.takeUnits
  rw [hf]
  dsimp only
  rw [hu, if_neg (show ¬ (Claims.leaves k).input < 7 from Nat.lt_irrefl 7)]
  refine ⟨rfl, ?_⟩
  rw [State.link_updLink_same]
  have he : (s.link l).txCur.erase (8 * packetOwner k + packetClass k) = [] := by
    rw [hc]
    simp [SMap.erase]
  simp only [he]
  rfl

theorem State.fillFlit_stop {s : State} {l o : Nat} {conf : Bool} (hq : (s.link l).txq = []) (hc : (s.link l).txCur = []) :
    ∀ (n room : Nat) (acc : List (BitVec 3 × BitVec 256)), s.fillFlit l o conf n room acc = (s, acc)
  | 0, _, _ => rfl
  | n + 1, room, acc => by
    have hnone : classOrder.find? (fun c => (s.link l).readyIn conf o c) = none :=
      List.find?_eq_none.mpr fun c _ => by rw [Link.readyIn_none hq hc]; decide
    unfold State.fillFlit
    rw [hnone]
    split <;> rfl

/-- A flit takes the only packet, whole. -/
theorem State.fillFlit_alone {s : State} {l : Nat} {k : Packet} (h : s.waitsAlone l k) (conf : Bool) :
    (s.fillFlit l (packetOwner k) conf 19 18 []).2 = [(BitVec.ofNat 3 (packetClass k), packetHead k)] ∧
      (s.fillFlit l (packetOwner k) conf 19 18 []).1.link l = (s.link l).sentAlone k := by
  have hstart := State.startPacket_alone h
  obtain ⟨hcur, hq, hcls, hlen, hcred⟩ := h
  have hfind : classOrder.find? (fun c => (s.link l).readyIn conf (packetOwner k) c) = some (packetClass k) := by
    simp only [Link.readyIn_alone hq hcur hlen hcred]
    exact find_classOrder hcls (packetClass_le k)
  have hnone : (s.link l).txCur.find (8 * packetOwner k + packetClass k) = none := by rw [hcur]; rfl
  have hnext : (s.link l).nextOf (packetOwner k) (packetClass k) = some (Claims.leaves k) :=
    (Link.nextOf_alone hq rfl _ _).trans (if_pos ⟨rfl, rfl⟩)
  have hfor : ((s.link l).creditFor conf (packetOwner k) (packetClass k) (packetUnits (Claims.leaves k).pkt.len.toNat)).getD
      (packetOwner k) = packetOwner k := by
    rw [show packetUnits (Claims.leaves k).pkt.len.toNat = 1 from packetUnits_zero hlen, Link.creditFor_own _ _ hcred]
    rfl
  unfold State.fillFlit
  simp only [hfind, hnone, hnext, hfor]
  generalize s.startPacket l (packetOwner k) (packetClass k) (Claims.leaves k) (packetOwner k) = u at hstart
  obtain ⟨htaken, hlink⟩ := State.takeUnits_alone (s := u) (l := l) hlen (by rw [hstart])
  rw [hstart] at hlink
  simp only [Option.isSome_none, Bool.false_eq_true, if_false, htaken]
  generalize u.takeUnits l (packetOwner k) (packetClass k) 18 = r at hlink htaken
  rw [State.fillFlit_stop (by rw [hlink]; rfl) (by rw [hlink])]
  exact ⟨rfl, hlink⟩

/-- The flit that a link without sideband packets sends with some units. -/
def Link.newFlit (x : Link) (o : Nat) (units : List (BitVec 3 × BitVec 256)) : Flit :=
  { Flit.init with
    seq := x.txSeq, owner := BitVec.ofNat 4 o, ack := x.rxSeq - 1#24, nak := x.nakOut, units := units
    cret := (x.cretPend.take 4).map (fun e => (BitVec.ofNat 4 e.1, min 4095 e.2)), sbcret := min 255 x.sbPend, sb := none }

/-- A link that has sent a flit. -/
def Link.sentFlit (x : Link) (f : Flit) : Link :=
  { x with
    txSeq := x.txSeq + 1#24, nakOut := false, sbPend := x.sbPend - min 255 x.sbPend
    cretPend := (x.cretPend.take 4).foldl (fun m e => if e.2 ≤ 4095 then m.erase e.1 else m.put e.1 (e.2 - 4095)) x.cretPend
    replay := x.replay ++ [{ TxFlit.init with flit := f }], txMsg := codeword f x.txCount, txCount := x.txCount + 1#16 }

/-- The slot of the owner of the only packet sends it in a new flit. -/
theorem State.sendFlit_alone {s : State} {l : Nat} {k : Packet} (h : s.waitsAlone l k)
    (ho : packetOwner k = slotOwner (s.link l).slotmap ((s.link l).slotPos % 64)) (hs : s.scrubbing (packetOwner k) = false)
    (hsb : (s.link l).sbq = []) :
    (s.sendFlit l).link l = ((s.link l).sentAlone k).sentFlit
      (((s.link l).sentAlone k).newFlit (packetOwner k) [(BitVec.ofNat 3 (packetClass k), packetHead k)]) := by
  obtain ⟨hunits, hlink⟩ := State.fillFlit_alone h (decide (packetOwner k < 8) && s.conf (packetOwner k))
  have h9 : packetOwner k ≠ 9 := by have := packetOwner_le k; omega
  unfold State.sendFlit
  rw [State.slotSender_alone h ho hs]
  simp only [Bool.false_eq_true, if_false, if_neg h9]
  generalize s.fillFlit l (packetOwner k) (decide (packetOwner k < 8) && s.conf (packetOwner k)) 19 18 [] = r at hunits hlink
  have hnext : (r.1.link l).nextSb = none := by
    unfold Link.nextSb
    rw [hlink, show ((s.link l).sentAlone k).sbq = [] from hsb]
    rfl
  simp only [hnext, Option.map_none]
  simp only [hunits, hlink]
  unfold State.emitFlit
  rw [State.link_updLink_same, State.link_updLink_same, hlink]
  rfl

/-! ### The obligation's first half -/

/-- A new flit with the oldest packet of the slot's owner. -/
theorem linkSlot_new (l : Fin 7) (s : State) (k : Packet) (hl : s.live = true) (hf : s.flitsOn l.val = true)
    (hr : (s.link l.val).resend = []) (hn : (s.link l.val).replay.length < 256) (hsb : (s.link l.val).sbq = [])
    (h : s.waitsAlone l.val k)
    (ho : packetOwner k = slotOwner (s.link l.val).slotmap ((s.link l.val).slotPos % 64)) (hs : s.scrubbing (packetOwner k) = false) :
    let x := s.link l.val
    ∃ t f, exec (.linkSlot l) s = .next t ∧ (t.link l.val).replay = x.replay ++ [{ TxFlit.init with flit := f }] ∧
      f.seq = x.txSeq ∧ f.owner.toNat = packetOwner k ∧ f.ack = x.rxSeq - 1#24 ∧ f.nak = x.nakOut ∧
      f.units = [(BitVec.ofNat 3 (packetClass k), packetHead k)] ∧ f.sb = none ∧ (t.link l.val).txSeq = x.txSeq + 1#24 ∧
      (t.link l.val).txMsg = codeword f x.txCount ∧ (t.link l.val).txCount = x.txCount + 1#16 ∧
      (t.link l.val).txq = [] ∧ (t.link l.val).txCur = [] ∧ (t.link l.val).nakOut = false ∧
      (t.link l.val).holding.find (packetOwner k) = some (x.credits (packetOwner k) - 1) ∧
      (t.link l.val).slotPos = (x.slotPos + 1) % 64 := by
  intro x
  have hsent := State.sendFlit_alone h ho hs hsb
  have hrun := flitsOn_linkSlot hl hf
  rw [hr] at hrun
  dsimp only at hrun
  rw [if_neg (Nat.not_le.mpr hn)] at hrun
  refine ⟨_, (x.sentAlone k).newFlit (packetOwner k) [(BitVec.ofNat 3 (packetClass k), packetHead k)], hrun, ?_⟩
  rw [State.link_updLink_same, hsent]
  have howner : (BitVec.ofNat 4 (packetOwner k)).toNat = packetOwner k := by
    have := packetOwner_le k
    rw [BitVec.toNat_ofNat]
    omega
  exact ⟨rfl, rfl, howner, rfl, rfl, rfl, rfl, rfl, rfl, rfl, rfl, rfl, rfl, SMap.find_put_same _ _ _, rfl⟩

/-- A flit called for is sent again. -/
theorem linkSlot_again (l : Fin 7) (s : State) (n : BitVec 24) (r : List (BitVec 24)) (e : TxFlit) (hl : s.live = true)
    (hf : s.flitsOn l.val = true) (hr : (s.link l.val).resend = n :: r)
    (he : (s.link l.val).replay.find? (fun y => y.flit.seq == n) = some e) (hk : e.sbPkt = none) (ho : 8 ≤ e.flit.owner.toNat) :
    let x := s.link l.val
    let f : Flit := { e.flit with ack := x.rxSeq - 1#24, nak := x.nakOut, sb := none }
    ∃ t, exec (.linkSlot l) s = .next t ∧ Claims.onlyLink s t l.val ∧
      t.link l.val = { x with
        resend := r, nakOut := false, slotPos := (x.slotPos + 1) % 64, txMsg := codeword f x.txCount, txCount := x.txCount + 1#16
        replay := x.replay.map (fun y => if y.flit.seq = n then { e with flit := f, count := e.count + 1 } else y) } := by
  intro x f
  have hrun := flitsOn_linkSlot hl hf
  rw [hr] at hrun
  dsimp only at hrun
  rw [he] at hrun
  obtain ⟨hol, hlk⟩ := s.resendFlit_link l.val hk ho
  have hseq : e.flit.seq = n := by simpa using List.find?_some he
  refine ⟨_, hrun, onlyLink_trans hol (State.updLink_onlyLink _ _ _), ?_⟩
  rw [State.link_updLink_same, hlk, hseq, hr]
  rfl

/-- The facts of a header taken, in the order in which the statement has them. -/
def State.keeps (s : State) (l : Nat) (f : Flit) (n : Nat) (t : State) : Prop :=
  (t.link l).rxSeq = (s.link l).rxSeq + 1#24 ∧ (t.link l).discarding = false ∧ (t.link l).nakOut = false ∧
    (t.link l).sbFree = min 512 ((s.link l).sbFree + f.sbcret) ∧
    (t.link l).replay = (s.link l).replay.filter (fun e => !seqLe e.flit.seq f.ack) ∧
    (t.link l).resend = (s.link l).resend.filter (fun n => !seqLe n f.ack) ∧ (t.link l).rxCount = BitVec.ofNat 16 n

theorem Link.tookHeader.keeps {s t : State} {l n : Nat} {f : Flit} (h : (s.link l).tookHeader (t.link l) f n) : s.keeps l f n t :=
  ⟨h.rxSeq, h.discarding, h.nakOut, h.sbFree, h.replay, h.resend, h.rxCount⟩

section
variable {l : Fin 7} {m : BitVec 5140} {s : State} (hl : s.live = true) (hf : s.flitsOn l.val = true)
  (hw : (s.link l.val).worn = []) (hg : crcGood m.toNat = true) (hq : (flitOf m.toNat).seq = (s.link l.val).rxSeq)
  (hs : (flitOf m.toNat).sb = none) (hn : (flitOf m.toNat).nak = false) (hc : ∀ e ∈ (flitOf m.toNat).cret, 9 < e.1.toNat)
include hl hf hw hg hq hs hn hc

theorem flitReceive_header (hu : (flitOf m.toNat).units = []) : ∃ t, exec (.flitReceive l [] true m) s = .next t ∧
    Claims.onlyLink s t l.val ∧ s.keeps l.val (flitOf m.toNat) (m.toNat / 2 ^ 5120) t := by
  have hrun := flitReceive_accepts hl hf hw hg hq hs
  obtain ⟨hol, hlk⟩ := s.headed_link l.val (m.toNat / 2 ^ 5120) (flitOf m.toNat) hn hc
  rw [hu, List.foldl_nil] at hrun
  refine ⟨_, hrun, hol, ?_⟩
  unfold State.keeps
  rw [hlk]
  exact ⟨rfl, rfl, rfl, rfl, rfl, rfl, rfl⟩

section
variable {c : BitVec 3} {u : BitVec 256} (hu : (flitOf m.toNat).units = [(c, u)]) (h1 : 1 ≤ c.toNat) (h6 : c.toNat ≤ 6)
  (ho : (flitOf m.toNat).owner.toNat ≤ 8) (hp : (s.link l.val).part.get [] (8 * (flitOf m.toNat).owner.toNat + c.toNat) = [])
  (hk : (s.link l.val).skip.get 0 (8 * (flitOf m.toNat).owner.toNat + c.toNat) = 0)
  (hv : s.leaving l.val c.toNat (flitOf m.toNat).owner.toNat = none)
include hu h1 h6 ho hp hk hv

theorem flitReceive_kept (ht : s.transit l.val (packetOf u []) = none) (hlen : (packetOf u []).len ≠ 0#9) :
    ∃ t, exec (.flitReceive l [] true m) s = .next t ∧ Claims.onlyLink s t l.val ∧
      s.keeps l.val (flitOf m.toNat) (m.toNat / 2 ^ 5120) t ∧
      (t.link l.val).part.get [] (8 * (flitOf m.toNat).owner.toNat + c.toNat) = [u] ∧
      (t.link l.val).rxFree = (s.link l.val).rxFree - 1 := by
  have hrun := flitReceive_accepts hl hf hw hg hq hs
  obtain ⟨hol, hlk⟩ := s.headed_link l.val (m.toNat / 2 ^ 5120) (flitOf m.toNat) hn hc
  rw [hu] at hrun
  obtain ⟨h, hkeep, hpart, hfree⟩ := State.unitIn_kept hol hlk h1 h6 ho hp hk hv ht hlen
  exact ⟨_, hrun, h, hkeep.keeps, hpart, hfree⟩

theorem flitReceive_passed {o : Nat} (ht : s.transit l.val (packetOf u []) = some o) (hne : o ≠ l.val) :
    let k := { packetOf u [] with dl := s.dateline l.val o (packetOf u []).dl }
    ∃ t, exec (.flitReceive l [] true m) s = .next t ∧ t = { s with links := t.links } ∧
      s.keeps l.val (flitOf m.toNat) (m.toNat / 2 ^ 5120) t ∧
      t.link o = { s.link o with txq := (s.link o).txq ++ [{ TxEnt.init with
        input := l.val, inCls := c.toNat, cls := packetClass k, pkt := k, units := [packetHead k]
        due := packetUnits k.len.toNat - 1 }] } := by
  have hrun := flitReceive_accepts hl hf hw hg hq hs
  obtain ⟨hol, hlk⟩ := s.headed_link l.val (m.toNat / 2 ^ 5120) (flitOf m.toNat) hn hc
  rw [hu] at hrun
  obtain ⟨h, hkeep, hout⟩ := State.unitIn_passed hol hlk h1 h6 ho hp hk hv ht hne
  exact ⟨_, hrun, h, hkeep.keeps, hout⟩

end
end

/-- Each way in which a flit comes, goes or is discarded. -/
theorem linkFlits : Claims.LinkFlits := by
  unfold Claims.LinkFlits
  refine ⟨fun l m s hl hf hw hg => ?_, fun l fix m s hl hf => ⟨?_, ?_, ?_⟩, fun l i n m s hl hf hn => flitReceive_corrected l i n m s hl hf hn,
    fun l s hl hf hd => ?_, fun l s n r e hl hf hr he hk ho => linkSlot_again l s n r e hl hf hr he hk ho,
    fun l s c o k hl hf hr hn hsb hcur hq hc hc0 hlen ho hos hs hcr => ?_⟩
  · intro f x kept hseq hs hn hc
    refine ⟨fun hu => flitReceive_header hl hf hw hg hseq hs hn hc hu, ?_⟩
    intro c u hu h1 h6 hown key hp hsk hleave
    exact ⟨fun ht hlen => flitReceive_kept hl hf hw hg hseq hs hn hc hu h1 h6 hown hp hsk hleave ht hlen,
      fun o ht ho => flitReceive_passed hl hf hw hg hseq hs hn hc hu h1 h6 hown hp hsk hleave ht ho⟩
  · refine ⟨_, flitReceive_bad fix m hl hf, onlyLink_trans (s.updLink_onlyLink _ _) (State.discard_onlyLink _ _), ?_, ?_⟩
    · rw [State.discard_link, State.linkCnt_link]
    · rw [State.discard_link, State.linkCnt_link]
      exact SMap.get_upd_same _ _ _ _
  · intro hw hg
    refine ⟨_, flitReceive_whole hl hf hw, ?_⟩
    rw [hg]
    exact s.discard_counted l.val 0x108 _
  · intro hw hg hq
    have hrun := flitReceive_whole (m := m) hl hf hw
    rw [hg, if_neg (by decide), if_pos hq] at hrun
    refine ⟨_, hrun, onlyLink_trans (s.updLink_onlyLink _ _) (State.discard_onlyLink _ _), ?_, ?_⟩
    · rw [State.discard_link, State.cwHeard_link]
    · rw [State.discard_link, State.cwHeard_link]
  · refine ⟨_, (whenLive_live _ _ hl).trans (congrArg _ (if_pos (by rw [hf, hd]; rfl))), s.updLink_onlyLink _ _, ?_⟩
    exact s.link_updLink_same _ _
  · subst hc ho
    exact linkSlot_new l s k hl hf hr hn hsb ⟨hcur, hq, hc0, hlen, hcr⟩ hos hs

end Sys2Proof.Machine
end

section
/-! Lanes that fail, links that have retrained, and slot maps that take effect (R541, R577 to R581, R877). -/
namespace Sys2Proof.Machine

/-! ### A lane that fails -/

theorem laneFail_stops (l : Fin 7) (lane : Fin 8) (s : State) (hl : s.live = true) (hu : s.linkUp l.val = true) :
    ∃ t, exec (.laneFail l lane) s = .next t ∧ Claims.onlyLink s t l.val ∧
      t.link l.val = { s.link l.val with
        laneOk := (s.link l.val).laneOk &&& ~~~(1#8 <<< lane.val), state := 1#3, trainNs := s.nsW, corr := [],
        cnt := (t.link l.val).cnt } ∧
      (t.link l.val).cnt.get 0#32 0x110 = satInc ((s.link l.val).cnt.get 0#32 0x110) := by
  obtain ⟨hol, hlk⟩ := s.failLanes_link l.val [lane.val]
  refine ⟨_, (whenLive_live _ _ hl).trans (congrArg _ (if_neg (by rw [hu]; decide))), hol, ?_⟩
  rw [hlk]
  exact ⟨rfl, SMap.get_upd_same _ _ _ _⟩

/-! ### A slot map -/

/-- Credits that a map gives an owner, or the loan pool. -/
def mapCap (map : BitVec 256) (i : Nat) : Nat := 64 * (if i = 9 then slotsFree map else slotsOf map i)

theorem takeFrom_zero (l : List Nat) (m : SMap Nat) : takeFrom l m 0 = m := by
  have h : l.foldl (fun (a : SMap Nat × Nat) o =>
      let t := min a.2 (a.1.get 0 o)
      (if t = 0 then a.1 else if t = a.1.get 0 o then a.1.erase o else a.1.put o (a.1.get 0 o - t), a.2 - t)) (m, 0) = (m, 0) :=
    List.foldlRecOn (motive := fun a : SMap Nat × Nat => a = (m, 0)) _ _ rfl fun a ha o _ => by
      rw [ha]
      simp
  exact congrArg Prod.fst h

theorem filterMap_upTo_none {β : Type} {n : Nat} {f : Nat → Option β} (h : ∀ i, i < n → f i = none) : (upTo n).filterMap f = [] :=
  List.filterMap_eq_nil_iff.mpr fun i hi => h i (List.mem_range.mp hi)

/-- Credits of an owner that are in use. -/
def Link.inUse (x : Link) (o : Nat) : Nat := mapCap x.slotmap o + x.debt.get 0 o - (x.credits o + x.short.get 0 o)

/-- What a map would leave an owner free. -/
def Link.freeUnder (x : Link) (m : BitVec 256) : SMap Nat := (upTo 10).map (fun o => (o, mapCap m o - x.inUse o))

/-- What owners owe under a map. -/
def Link.debtUnder (x : Link) (m : BitVec 256) : SMap Nat :=
  (upTo 10).filterMap (fun o => if x.inUse o ≤ mapCap m o then none else some (o, x.inUse o - mapCap m o))

/-- What a map leaves owners, once what is owed is taken off. -/
def Link.restUnder (x : Link) (m : BitVec 256) : SMap Nat :=
  takeFrom holders (x.freeUnder m) ((x.debtUnder m).foldl (fun a e => a + e.2) 0)

theorem Link.applyMap_eq (x : Link) (m : BitVec 256) : x.applyMap m = { x with
    slotmap := m, slotmapNew := none, debt := x.debtUnder m
    holding := (upTo 10).map (fun o => (o, (x.restUnder m).get 0 o))
    short := (upTo 10).filterMap (fun o => if (x.freeUnder m).get 0 o = (x.restUnder m).get 0 o then none
      else some (o, (x.freeUnder m).get 0 o - (x.restUnder m).get 0 o)) } := rfl

/-- A map under which no owner's credits in use exceed its slots leaves no debt, and each owner what its slots leave free. -/
theorem Link.applyMap_solvent {x : Link} {m : BitVec 256} (hd : x.debt = []) (hs : x.short = [])
    (h : ∀ i, i < 10 → mapCap x.slotmap i ≤ x.credits i + mapCap m i) :
    (x.applyMap m).debt = [] ∧ (x.applyMap m).short = [] ∧
      ∀ i, i < 10 → (x.applyMap m).credits i = mapCap m i - (mapCap x.slotmap i - x.credits i) := by
  have hused (i : Nat) : x.inUse i = mapCap x.slotmap i - x.credits i := by
    unfold Link.inUse
    rw [hd, hs]
    rfl
  have hdebt : x.debtUnder m = [] := filterMap_upTo_none fun i hi => if_pos (by
    have := h i hi
    rw [hused]
    omega)
  have hrest : x.restUnder m = x.freeUnder m := by
    unfold Link.restUnder
    rw [hdebt]
    exact takeFrom_zero _ _
  have hfree (i : Nat) (hi : i < 10) : (x.freeUnder m).get 0 i = mapCap m i - (mapCap x.slotmap i - x.credits i) := by
    rw [Link.freeUnder, SMap.get_map_upTo 10 _ 0 hi, hused]
  rw [x.applyMap_eq m, hrest]
  refine ⟨hdebt, filterMap_upTo_none fun i _ => if_pos rfl, fun i hi => ?_⟩
  exact (SMap.get_map_upTo 10 _ _ hi).trans (hfree i hi)

theorem slotmapApply_applies (l : Fin 7) (s : State) (m : BitVec 256) (hl : s.live = true) (hm : (s.link l.val).slotmapNew = some m) :
    exec (.slotmapApply l) s = .next (s.updLink l.val (fun x => x.applyMap m)) := by
  refine (whenLive_live _ _ hl).trans (congrArg _ ?_)
  rw [hm]

/-! ### A link that has retrained -/

/-- A link whose lanes have been checked. -/
def Link.checkedLanes (x : Link) (ok : Byte) : Link :=
  { x with
    state := x.trained ok, laneOk := ok, full := false, discarding := false, nakOut := false
    lanes := if x.trained ok = 2#3 then 0#2 else if x.trained ok = 3#3 then 1#2 else if x.trained ok = 4#3 then 2#2 else x.lanes
    resend := x.replay.map (fun e => e.flit.seq), corr := [] }

/-- The links that failed before the coordinates came, without one. -/
def State.notEarly (s : State) (l : Nat) : State :=
  { s with dev := { s.dev with early := s.dev.early.filter (fun m => m != l) } }

/-- A link among those that failed before the coordinates came. -/
def State.early (s : State) (l : Nat) : State :=
  { s with dev := { s.dev with early := s.dev.early.filter (fun m => m != l) ++ [l] } }

section
variable {l : Fin 7} {ok : Byte} {s : State} (hl : s.live = true) (hs : (s.link l.val).state = 1#3) (he : (s.link l.val).en = true)
  (hb : s.dev.faultMap.contains (s.dev.node, l.val) = false)
include hl hs he hb

/-- A link that is not in the fault map comes up. -/
theorem retrainDone_up (ht : (s.link l.val).trained ok ≠ 5#3) : exec (.retrainDone l ok) s = .next
    (if (s.link l.val).trained ok = 2#3 then (s.updLink l.val (fun x => x.checkedLanes ok)).notEarly l.val
      else (((s.updLink l.val (fun x => x.checkedLanes ok)).notEarly l.val).linkCnt l.val 0x114).postDev 0x05 3 l.val 0 0) := by
  refine (whenLive_live _ _ hl).trans (congrArg _ ?_)
  have hbu : (s.updLink l.val (fun x => x.checkedLanes ok)).dev.faultMap.contains
      ((s.updLink l.val (fun x => x.checkedLanes ok)).dev.node, l.val) = false := hb
  have hup : s.updLink l.val (fun x => { x with
      state := (s.link l.val).trained ok, laneOk := ok, full := false, discarding := false, nakOut := false
      lanes := if (s.link l.val).trained ok = 2#3 then 0#2 else if (s.link l.val).trained ok = 3#3 then 1#2
        else if (s.link l.val).trained ok = 4#3 then 2#2 else x.lanes
      resend := x.replay.map (fun e => e.flit.seq), corr := [] }) = s.updLink l.val (fun x => x.checkedLanes ok) := rfl
  rw [if_neg (by rw [hs, he]; decide)]
  dsimp only
  rw [if_neg ht, hup]
  generalize s.updLink l.val (fun x => x.checkedLanes ok) = u at hbu ⊢
  simp only [hbu, Bool.false_eq_true, if_false]
  rfl

/-- A link fails on a device without coordinates. -/
theorem retrainDone_fails (ht : (s.link l.val).trained ok = 5#3) (hn : s.dev.enumerated = false) : exec (.retrainDone l ok) s = .next
    ((((s.updLink l.val (fun x => x.checkedLanes ok)).early l.val).flushLink l.val).postDev 0x04 3 l.val 0 0) := by
  refine (whenLive_live _ _ hl).trans (congrArg _ ?_)
  have hbu : (s.updLink l.val (fun x => x.checkedLanes ok)).dev.faultMap.contains
      ((s.updLink l.val (fun x => x.checkedLanes ok)).dev.node, l.val) = false := hb
  have hnu : (s.updLink l.val (fun x => x.checkedLanes ok)).dev.enumerated = false := hn
  have hup : s.updLink l.val (fun x => { x with
      state := (s.link l.val).trained ok, laneOk := ok, full := false, discarding := false, nakOut := false
      lanes := if (s.link l.val).trained ok = 2#3 then 0#2 else if (s.link l.val).trained ok = 3#3 then 1#2
        else if (s.link l.val).trained ok = 4#3 then 2#2 else x.lanes
      resend := x.replay.map (fun e => e.flit.seq), corr := [] }) = s.updLink l.val (fun x => x.checkedLanes ok) := rfl
  rw [if_neg (by rw [hs, he]; decide)]
  dsimp only
  rw [if_pos ht, hup]
  generalize s.updLink l.val (fun x => x.checkedLanes ok) = u at hbu hnu ⊢
  rw [if_neg (by rw [hbu]; decide), if_neg (by rw [hnu]; decide)]
  rfl

end

/-! ### A link that failed -/

/-- A link that has failed, on a device that remembers it, with nothing to send again and nothing begun. -/
structure State.linkDead (s : State) (l : Nat) : Prop where
  failed : (s.link l).state = 5#3
  kept : (s.link l).replay = []
  again : (s.link l).resend = []
  begun : (s.link l).txCur = []
  known : l ∈ s.dev.early

/-- A change of the links that leaves what a link sends again or has begun leaves it failed. -/
theorem State.linkDead.of_eq {s t : State} {l : Nat} (h : s.linkDead l) (hs : (t.link l).state = (s.link l).state)
    (hr : (t.link l).replay = (s.link l).replay) (ha : (t.link l).resend = (s.link l).resend)
    (hc : (s.link l).txCur = [] → (t.link l).txCur = []) (hd : t.dev.early = s.dev.early) : t.linkDead l where
  failed := hs.trans h.failed
  kept := hr.trans h.kept
  again := ha.trans h.again
  begun := hc h.begun
  known := by
    rw [hd]
    exact h.known

theorem State.linkDead.updLink {s : State} {l : Nat} (h : s.linkDead l) (m : Nat) (f : Link → Link) (hs : ∀ x, (f x).state = x.state)
    (hr : ∀ x, (f x).replay = x.replay) (ha : ∀ x, (f x).resend = x.resend) (hc : ∀ x, x.txCur = [] → (f x).txCur = []) :
    (s.updLink m f).linkDead l := by
  by_cases hm : l = m
  · subst hm
    refine h.of_eq ?_ ?_ ?_ ?_ rfl <;> rw [State.link_updLink_same]
    · exact hs _
    · exact hr _
    · exact ha _
    · exact hc _
  · have hk := s.link_updLink_ne m l f hm
    exact h.of_eq (by rw [hk]) (by rw [hk]) (by rw [hk]) (fun hx => by rw [hk, hx]) rfl

theorem State.linkDead.fold {β : Type} {s : State} {l : Nat} (h : s.linkDead l) (q : List β) (f : State → β → State)
    (hf : ∀ (t : State) b, t.linkDead l → (f t b).linkDead l) : (q.foldl f s).linkDead l :=
  List.foldlRecOn (motive := fun t : State => t.linkDead l) q f h fun t ht b _ => hf t b ht

theorem State.linkDead.freeUnits {s : State} {l : Nat} (h : s.linkDead l) (m o n : Nat) : (s.freeUnits m o n).linkDead l :=
  h.updLink m _ (fun _ => rfl) (fun _ => rfl) (fun _ => rfl) fun _ hx => hx

theorem State.linkDead.dropTransit {s : State} {l : Nat} (h : s.linkDead l) (e : TxEnt) : (s.dropTransit e).linkDead l := by
  unfold State.dropTransit
  extract_lets o
  refine State.linkDead.freeUnits ?_ _ _ _
  exact h.updLink e.input _ (fun _ => rfl) (fun _ => rfl) (fun _ => rfl) fun _ hx => hx

theorem State.linkDead.sbReturn {s : State} {l : Nat} (h : s.linkDead l) (i id n : Nat) : (s.sbReturn i id n).linkDead l := by
  unfold State.sbReturn
  split
  · exact h
  · exact h.updLink i _ (fun _ => rfl) (fun _ => rfl) (fun _ => rfl) fun _ hx => hx

theorem State.linkDead.enqueue {s : State} {l : Nat} (h : s.linkDead l) (o i : Nat) (k : Packet) : (s.enqueue o i k).linkDead l := by
  unfold State.enqueue
  split
  · exact h.updLink o _ (fun _ => rfl) (fun _ => rfl) (fun _ => rfl) fun _ hx => hx
  · exact h.updLink o _ (fun _ => rfl) (fun _ => rfl) (fun _ => rfl) fun _ hx => hx

theorem State.linkDead.sendPacket {s : State} {l : Nat} (h : s.linkDead l) (i : Nat) (k : Packet) : (s.sendPacket i k).linkDead l := by
  unfold State.sendPacket
  split
  · exact h
  · split
    · exact h.enqueue _ _ _
    · split
      · exact h.enqueue _ _ _
      · exact h

theorem State.linkDead.breakOff {s : State} {l : Nat} (h : s.linkDead l) (m : Nat) : (s.breakOff m).linkDead l := by
  unfold State.breakOff
  extract_lets pad side u v
  have hu : u.linkDead l := h.fold _ _ fun t j ht =>
    ht.updLink j _ (fun _ => rfl) (fun _ => rfl) (fun _ => rfl) fun x hx => by
      show x.txCur.mapV (fun _ e => pad e) = []
      rw [hx]
      rfl
  have hv : v.linkDead l := hu.of_eq rfl rfl rfl id rfl
  exact hv.fold _ _ fun t p ht => ht.of_eq rfl rfl rfl id rfl

/-- A link that fails on a device without coordinates is dead once its queues are cleared. -/
theorem State.flushLink_dead (s : State) (l : Nat) (hs : (s.link l).state = 5#3) (he : l ∈ s.dev.early) : (s.flushLink l).linkDead l := by
  unfold State.flushLink
  extract_lets x q transit side u v w y z
  have hu : u.linkDead l := by
    have hk : u.link l = _ := s.link_updLink_same l _
    exact ⟨by rw [hk]; exact hs, by rw [hk], by rw [hk], by rw [hk], he⟩
  have hv : v.linkDead l := hu.fold _ _ fun t e ht => ht.dropTransit e
  have hw : w.linkDead l := hv.fold _ _ fun t e ht => ht.sbReturn _ _ _
  have hy : y.linkDead l := hw.breakOff l
  have hz : z.linkDead l := hy.fold _ _ fun t e ht => by
    split
    · exact ht
    · exact ht.sendPacket 7 _
  exact hz.fold _ _ fun t e ht => ht.sendPacket 7 _

theorem State.onlyPosts.link {s t : State} (h : s.onlyPosts t) (l : Nat) : t.link l = s.link l := by
  unfold State.onlyPosts at h
  rw [h]
  rfl

theorem State.onlyPosts.early {s t : State} (h : s.onlyPosts t) : t.dev.early = s.dev.early := by
  unfold State.onlyPosts at h
  rw [h]

theorem State.postDev_link (s : State) (c so u p d l : Nat) : (s.postDev c so u p d).link l = s.link l :=
  (s.post_onlyPosts 8 none c so u p true d).link l

theorem State.postDev_early (s : State) (c so u p d : Nat) : (s.postDev c so u p d).dev.early = s.dev.early :=
  (s.post_onlyPosts 8 none c so u p true d).early

/-! ### What the lanes say -/

theorem State.checked_link (s : State) (l : Nat) (ok : Byte) :
    (s.updLink l (fun x => x.checkedLanes ok)).link l = (s.link l).checkedLanes ok := s.link_updLink_same l _

theorem Link.trained_full {x : Link} {ok : Byte} (h : ok = 0xFF#8) (hx : x.lanes = 0#2 ∨ x.full = true) : x.trained ok = 2#3 :=
  if_pos ⟨h, hx⟩

theorem Link.trained_low {x : Link} {ok : Byte} (h : ok.extractLsb' 0 4 = 0xF#4) (hf : ok ≠ 0xFF#8) : x.trained ok = 3#3 :=
  (if_neg fun g => hf g.1).trans (if_pos h)

/-- Lanes of which one below is bad are not all good. -/
theorem not_all_of_low {ok : Byte} (h : ok.extractLsb' 0 4 ≠ 0xF#4) : ok ≠ 0xFF#8 := fun g => h (by rw [g]; decide)

theorem Link.trained_high {x : Link} {ok : Byte} (h : ok.extractLsb' 0 4 ≠ 0xF#4) (g : ok.extractLsb' 4 4 = 0xF#4) : x.trained ok = 4#3 :=
  (if_neg fun k => not_all_of_low h k.1).trans ((if_neg h).trans (if_pos g))

theorem Link.trained_none {x : Link} {ok : Byte} (h : ok.extractLsb' 0 4 ≠ 0xF#4) (g : ok.extractLsb' 4 4 ≠ 0xF#4) : x.trained ok = 5#3 :=
  (if_neg fun k => not_all_of_low h k.1).trans ((if_neg h).trans (if_neg g))

section
variable {l : Fin 7} {ok : Byte} {s : State} (hl : s.live = true) (hs : (s.link l.val).state = 1#3) (he : (s.link l.val).en = true)
  (hb : s.dev.faultMap.contains (s.dev.node, l.val) = false)
include hl hs he hb

/-- With all lanes good the link comes up on 8. -/
theorem retrainDone_full (h : ok = 0xFF#8) (hx : (s.link l.val).lanes = 0#2 ∨ (s.link l.val).full = true) :
    ∃ t, exec (.retrainDone l ok) s = .next t ∧ Claims.onlyLink (s.notEarly l.val) t l.val ∧
      t.link l.val = { s.link l.val with
        state := 2#3, laneOk := ok, full := false, discarding := false, nakOut := false, lanes := 0#2, corr := []
        resend := (s.link l.val).replay.map (fun e => e.flit.seq) } := by
  have ht : (s.link l.val).trained ok = 2#3 := Link.trained_full h hx
  refine ⟨_, (retrainDone_up hl hs he hb (by rw [ht]; decide)).trans (congrArg _ (if_pos ht)), ?_, ?_⟩
  · exact (s.notEarly l.val).updLink_onlyLink l.val (fun x => x.checkedLanes ok)
  · refine (s.checked_link l.val ok).trans ?_
    simp only [Link.checkedLanes, ht, if_true]

/-- A link that comes up on one half: on which, what it sends again, and the count. -/
theorem retrainDone_half (h2 : (s.link l.val).trained ok ≠ 2#3) (h5 : (s.link l.val).trained ok ≠ 5#3) :
    ∃ t, exec (.retrainDone l ok) s = .next t ∧
      t.link l.val = { (s.link l.val).checkedLanes ok with cnt := (s.link l.val).cnt.upd 0#32 0x114 satInc } := by
  refine ⟨_, (retrainDone_up hl hs he hb h5).trans (congrArg _ (if_neg h2)), ?_⟩
  rw [State.postDev_link, State.linkCnt_link]
  have hk : ((s.updLink l.val (fun x => x.checkedLanes ok)).notEarly l.val).link l.val = _ := s.checked_link l.val ok
  rw [hk]
  rfl

theorem retrainDone_low (h : ok.extractLsb' 0 4 = 0xF#4) (hf : ok ≠ 0xFF#8) :
    ∃ t, exec (.retrainDone l ok) s = .next t ∧ (t.link l.val).state = 3#3 ∧ (t.link l.val).lanes = 1#2 ∧
      (t.link l.val).resend = (s.link l.val).replay.map (fun e => e.flit.seq) ∧
      (t.link l.val).cnt.get 0#32 0x114 = satInc ((s.link l.val).cnt.get 0#32 0x114) := by
  have ht : (s.link l.val).trained ok = 3#3 := Link.trained_low h hf
  obtain ⟨t, hx, hk⟩ := retrainDone_half hl hs he hb (by rw [ht]; decide) (by rw [ht]; decide)
  refine ⟨t, hx, ?_⟩
  rw [hk]
  refine ⟨ht, ?_, rfl, SMap.get_upd_same _ _ _ _⟩
  simp only [Link.checkedLanes, ht]
  exact (if_neg (by decide)).trans (if_pos trivial)

theorem retrainDone_high (h : ok.extractLsb' 0 4 ≠ 0xF#4) (g : ok.extractLsb' 4 4 = 0xF#4) :
    ∃ t, exec (.retrainDone l ok) s = .next t ∧ (t.link l.val).state = 4#3 ∧ (t.link l.val).lanes = 2#2 := by
  have ht : (s.link l.val).trained ok = 4#3 := Link.trained_high h g
  obtain ⟨t, hx, hk⟩ := retrainDone_half hl hs he hb (by rw [ht]; decide) (by rw [ht]; decide)
  refine ⟨t, hx, ?_⟩
  rw [hk]
  refine ⟨ht, ?_⟩
  simp only [Link.checkedLanes, ht]
  exact (if_neg (by decide)).trans ((if_neg (by decide)).trans (if_pos trivial))

theorem retrainDone_none (h : ok.extractLsb' 0 4 ≠ 0xF#4) (g : ok.extractLsb' 4 4 ≠ 0xF#4) (hn : s.dev.enumerated = false) :
    ∃ t, exec (.retrainDone l ok) s = .next t ∧ (t.link l.val).state = 5#3 ∧ (t.link l.val).replay = [] ∧
      (t.link l.val).resend = [] ∧ (t.link l.val).txCur = [] ∧ l.val ∈ t.dev.early := by
  have ht : (s.link l.val).trained ok = 5#3 := Link.trained_none h g
  refine ⟨_, retrainDone_fails hl hs he hb ht hn, ?_⟩
  have hk : ((s.updLink l.val (fun x => x.checkedLanes ok)).early l.val).link l.val = _ := s.checked_link l.val ok
  obtain ⟨hst, hrp, hrs, htx, hea⟩ := State.flushLink_dead ((s.updLink l.val (fun x => x.checkedLanes ok)).early l.val) l.val
    (by rw [hk]; exact ht) (List.mem_append_right _ (List.mem_singleton_self _))
  rw [State.postDev_link, State.postDev_early]
  exact ⟨hst, hrp, hrs, htx, hea⟩

end

theorem slotmapApply_link (l : Fin 7) (s : State) (m : BitVec 256) (hl : s.live = true) (hm : (s.link l.val).slotmapNew = some m) :
    ∃ t, exec (.slotmapApply l) s = .next t ∧ Claims.onlyLink s t l.val ∧ t.link l.val = (s.link l.val).applyMap m :=
  ⟨_, slotmapApply_applies l s m hl hm, s.updLink_onlyLink l.val _, s.link_updLink_same l.val _⟩

theorem linkLanes : Claims.LinkLanes := by
  refine ⟨laneFail_stops, fun l ok s hl hs he hb => ⟨?_, ?_, ?_, ?_⟩, fun l s m hl hm => ?_⟩
  · exact retrainDone_full hl hs he hb
  · exact retrainDone_low hl hs he hb
  · exact retrainDone_high hl hs he hb
  · exact retrainDone_none hl hs he hb
  · obtain ⟨t, hx, ho, hk⟩ := slotmapApply_link l s m hl hm
    refine ⟨t, hx, ho, ?_, fun hd hh hc => ?_⟩
    · rw [hk, Link.applyMap_eq]
    · rw [hk]
      exact Link.applyMap_solvent hd hh hc

/-- Settles O53: what a flit does to its link, and what the lanes and a slot map do. -/
theorem links : Obligations.Links := ⟨linkFlits, linkLanes⟩

end Sys2Proof.Machine
end

section
/-! The DMA engine: what its reads, writes and pieces leave of the list of operations (R227, R228, R928). -/
namespace Sys2Proof.Machine

/-! ### The operations of a core -/

/-- Number, tag and start of the operations of a core's engine. -/
def Core.ops (c : Core) : List (Nat × Nat × Bool) := c.dmaq.map (fun o => (o.serial, o.tag, o.started))

/-- Number, tag and start of the operations of a core. -/
def State.ops (s : State) (j : Nat) : List (Nat × Nat × Bool) := (s.core j).ops

theorem State.ops_of_cores {s t : State} (h : t.cores = s.cores) (j : Nat) : t.ops j = s.ops j := by
  unfold State.ops
  rw [State.core_congr h]

theorem State.updCore_ops (s : State) (k j : Nat) (f : Core → Core) (h : ∀ c, (f c).ops = c.ops) : (s.updCore k f).ops j = s.ops j := by
  unfold State.ops
  by_cases hj : j = k
  · subst hj
    rw [State.core_updCore_same, h]
  · rw [State.core_updCore_ne _ _ _ _ hj]

/-- A change of an operation that keeps its number, tag and start. -/
theorem State.updOp_ops (s : State) (k n j : Nat) (f : DmaOp → DmaOp)
    (h : ∀ o, ((f o).serial, (f o).tag, (f o).started) = (o.serial, o.tag, o.started)) : (s.updOp k n f).ops j = s.ops j :=
  s.updCore_ops k j _ fun c => by
    unfold Core.ops
    rw [List.map_map]
    refine List.map_congr_left fun o _ => ?_
    by_cases ho : o.serial = n
    · simp only [Function.comp_apply, if_pos ho]
      exact h o
    · simp only [Function.comp_apply, if_neg ho]

/-- A fold of steps that keep the operations. -/
theorem State.foldl_ops {α : Type} (f : State → α → State) (l : List α) (s : State) (j : Nat) (h : ∀ t a, (f t a).ops j = t.ops j) :
    (l.foldl f s).ops j = s.ops j :=
  List.foldlRecOn (motive := fun t : State => t.ops j = s.ops j) l f rfl fun t ht a _ => (h t a).trans ht

/-- A fold of steps that keep the operations and may fail. -/
theorem State.foldl_ops_fst {α β : Type} (f : State × β → α → State × β) (l : List α) (x : State × β) (j : Nat)
    (h : ∀ t a, (f t a).1.ops j = t.1.ops j) : (l.foldl f x).1.ops j = x.1.ops j :=
  List.foldlRecOn (motive := fun t : State × β => t.1.ops j = x.1.ops j) l f rfl fun t ht a _ => (h t a).trans ht

theorem State.onlyMem.ops {s t : State} (h : s.onlyMem t) (j : Nat) : t.ops j = s.ops j := State.ops_of_cores (by rw [h]) j
theorem State.keptBook.ops {s t : State} (h : s.keptBook t) (j : Nat) : t.ops j = s.ops j := by
  unfold State.ops
  rw [h.core j]
  rfl

section
variable (s : State) (j : Nat)

@[simp] theorem State.updPart_ops (p : Nat) (f : Part → Part) : (s.updPart p f).ops j = s.ops j := rfl
@[simp] theorem State.updFunc_ops (p : Nat) (f : Func → Func) : (s.updFunc p f).ops j = s.ops j := rfl
@[simp] theorem State.freshP_ops (p n : Nat) : (s.freshP p n).ops j = s.ops j := rfl
@[simp] theorem State.count_ops (k n v : Nat) : (s.count k n v).ops j = s.ops j := s.updCore_ops k j _ fun c => by
  unfold Core.count
  dsimp only
  split <;> rfl
@[simp] theorem State.hbmLog_ops (a n : Nat) : (s.hbmLog a n).ops j = s.ops j := rfl
@[simp] theorem State.setStatus_ops (k n st fc : Nat) : (s.setStatus k n st fc).ops j = s.ops j := s.updOp_ops k n j _ fun _ => rfl
@[simp] theorem State.traceRec_ops (k ty t pc d : Nat) : (s.traceRec k ty t pc d).ops j = s.ops j :=
  State.ops_of_cores (by rw [s.traceRec_onlyDailies k ty t pc d]) j

@[simp] theorem State.noteOutside_ops (p va : Nat) : (s.noteOutside p va).ops j = s.ops j := by
  unfold State.noteOutside
  split <;> rfl

@[simp] theorem State.logUe_ops (a : Nat) (b : Bool) : (s.logUe a b).ops j = s.ops j := by
  unfold State.logUe
  split
  · split
    · simp
    · split <;> simp
  · rfl

@[simp] theorem State.tellUe_ops (k a : Nat) (b : Bool) : (s.tellUe k a b).ops j = s.ops j := by
  unfold State.tellUe
  simp

@[simp] theorem State.tellUeV_ops (k va n : Nat) (b : Bool) : (s.tellUeV k va n b).ops j = s.ops j := by
  unfold State.tellUeV
  split <;> simp

@[simp] theorem State.addReq_ops (p k n : Nat) (r : HostReq) : (s.addReq p k n r).ops j = s.ops j := by
  unfold State.addReq
  extract_lets m u
  rw [State.count_ops]
  refine (u.updOp_ops k n j _ ?_).trans rfl
  exact fun _ => rfl

/-! ### Reads and writes of the engine -/

@[simp] theorem State.settle2_ops (k t va : Nat) (l : List Byte) : (s.settle2 k t va l).2.ops j = s.ops j := by
  unfold State.settle2
  split <;> rfl

@[simp] theorem State.settleRead2_ops (k t va : Nat) (l : List Byte) : (s.settleRead2 k t va l).2.ops j = s.ops j := by
  unfold State.settleRead2
  split <;> rfl

@[simp] theorem State.write_ops (k t va : Nat) (l : List Byte) : (s.write k t va l).ops j = s.ops j := by
  unfold State.write
  extract_lets p
  rw [(State.noteChangeV_keptBook _ _ _ _ _).ops, (State.signWrite_keptBook _ _ _ _ _).ops, (State.taintQueues_keptBook _ _ _ _).ops,
    (s.vwr_onlyMem p va l).ops]

@[simp] theorem State.writeUpto_ops (k t va : Nat) (l : List Byte) : (s.writeUpto k t va l).1.ops j = s.ops j := by
  refine (State.foldl_ops_fst _ _ ((s.settle2 k t va l).2, none) j fun u a => ?_).trans (s.settle2_ops j k t va l)
  dsimp only
  split
  · rfl
  · split
    · simp
    · split
      · rfl
      · split <;> simp

@[simp] theorem State.sendHost_ops (k n va : Nat) (l : List Byte) : (s.sendHost k n va l).ops j = s.ops j := by
  unfold State.sendHost
  extract_lets p h u
  rw [State.addReq_ops]
  exact (s.signWrite_keptBook _ _ _ _).ops j

@[simp] theorem State.doWrite_ops (k n a : Nat) (l : List Byte) : (s.doWrite k n a l).1.ops j = s.ops j := by
  unfold State.doWrite
  split
  · rfl
  · split
    · split <;> simp
    · simp

@[simp] theorem State.emit_ops (k n a : Nat) (l : List Byte) : (s.emit k n a l).1.ops j = s.ops j := by
  unfold State.emit
  split
  · simp
  · exact s.updOp_ops k n j _ fun _ => rfl

@[simp] theorem State.readOp_ops (k n a m : Nat) (b : Bool) : (s.readOp k n a m b).2.1.ops j = s.ops j := by
  unfold State.readOp
  dsimp only
  rw [State.settleRead2_ops]
  split
  · split <;> simp
  · simp

@[simp] theorem State.copyChunk_ops (k n : Nat) (put : List Byte → List Byte) (a b m : Nat) (f : Bool) :
    (s.copyChunk k n put a b m f).1.ops j = s.ops j := by
  unfold State.copyChunk
  dsimp only
  split
  · split
    · simp
    · refine (State.updOp_ops _ k n j _ ?_).trans (s.addReq_ops j _ _ _ _)
      exact fun _ => rfl
  · simp

theorem untilFault_ops {α : Type} (l : List α) (f : State → α → State × Option Nat) (h : ∀ t a, (f t a).1.ops j = t.ops j) :
    (untilFault l s f).1.ops j = s.ops j :=
  State.foldl_ops_fst _ _ (s, none) j fun t a => by
    split
    · rfl
    · exact h _ _

@[simp] theorem State.runPiece_ops (k n : Nat) (u : Option Nat) (f : Bool) (x : Piece) : (s.runPiece k n u f x).1.ops j = s.ops j := by
  unfold State.runPiece
  extract_lets p dst l put
  split
  · split
    · exact untilFault_ops s j _ _ fun t _ => t.emit_ops j _ _ _ _
    · simp
  · dsimp only
    split
    · exact untilFault_ops s j _ _ fun t _ => t.copyChunk_ops j _ _ _ _ _ _ _
    · simp

@[simp] theorem State.runPieces_ops (k n : Nat) (u : Option Nat) (f : Bool) (l : List Piece) : (s.runPieces k n u f l).1.ops j = s.ops j :=
  untilFault_ops s j _ _ fun t x => t.runPiece_ops j k n u f x

@[simp] theorem State.drawUndef_ops (k : Nat) (o : DmaOp) (u : Bool) : (s.drawUndef k o u).2.ops j = s.ops j := by
  unfold State.drawUndef
  split
  · exact State.updOp_ops _ k o.serial j _ fun _ => rfl
  · rfl

/-! ### Page gathers -/

@[simp] theorem State.walkRead_ops (k t va n : Nat) : (s.walkRead k t va n).2.ops j = s.ops j := by
  unfold State.walkRead
  dsimp only
  split
  · split <;> simp
  · simp

theorem State.labHit_ops {s u : State} {k : Nat} {r : W64} {hi : BitVec 5} {x : W64} (h : s.labHit k r hi = some (x, u)) (j : Nat) :
    u.ops j = s.ops j := by
  unfold State.labHit at h
  split at h
  · obtain ⟨-, rfl⟩ := Prod.mk.inj (Option.some.inj h)
    rw [State.count_ops]
    exact s.updCore_ops k j _ fun _ => rfl
  · exact absurd h (by simp)

@[simp] theorem State.labInstall_ops (k : Nat) (r : W64) (hi : BitVec 5) (x : W64) : (s.labInstall k r hi x).ops j = s.ops j :=
  s.updCore_ops k j _ fun _ => rfl

@[simp] theorem State.kvEntry_ops (k t : Nat) (f : Bool) (l n : Nat) : (s.kvEntry k t f l n).2.1.ops j = s.ops j := by
  unfold State.kvEntry
  split
  · simp
  · split
    · rfl
    · dsimp only
      split
      next h => simp [State.labHit_ops h]
      · split
        · simp
        · split <;> simp

@[simp] theorem State.gatherPiece_ops (k t : Nat) (d : List Byte) (i : Nat) : (s.gatherPiece k t d i).2.1.ops j = s.ops j := by
  unfold State.gatherPiece
  extract_lets r src dst pr
  split
  · simp [r]
  · split <;> simp [r]

@[simp] theorem State.gatherRun_ops (k n : Nat) (u : Option Nat) (f : Bool) (d : List Byte) (i : Nat) :
    (s.gatherRun k n u f d i).1.ops j = s.ops j := by
  unfold State.gatherRun
  refine (untilFault_ops _ j _ _ fun t a => ?_).trans (s.updOp_ops k n j _ fun _ => rfl)
  dsimp only
  split
  · rfl
  · split
    · exact t.updOp_ops k n j _ fun _ => rfl
    · split <;> simp

end

/-! ### A start -/

theorem engineStep_starts {c : CoreId} {s : State} {o : DmaOp} {form : Nat} (h : Claims.mayStart s c.key o form)
    (f : Nat → DmaOp → State) : engineStep c form s f = .next (f c.key o) := by
  obtain ⟨hl, hu, ht, ho, hf⟩ := h
  refine (whenLive_live _ _ hl).trans (congrArg _ ?_)
  rw [ho]
  exact if_pos ⟨hf, hu, by rw [ht]; rfl⟩

theorem mayStart_queue {s : State} {k : Nat} {o : DmaOp} {form : Nat} (h : Claims.mayStart s k o form) :
    ∃ rest, (s.core k).dmaq = o :: rest := by
  obtain ⟨-, -, -, ho, -⟩ := h
  unfold State.dmaHead at ho
  split at ho
  next x rest hx =>
    split at ho
    · exact absurd ho (by simp)
    · exact ⟨rest, by rw [hx, Option.some.inj ho]⟩
  · exact absurd ho (by simp)

/-- The operation that begins. -/
def State.begun (s : State) (k : Nat) (o : DmaOp) (touch : List (Nat × Nat)) (cycles : Nat) (x : DmaOp) : DmaOp :=
  if x.serial = o.serial then
    { x with started := true, cycles := cycles, due := s.clCycle (keyCl k) + cycles, touch := touch }
  else x

/-- The engine's own notes of a begin, Dailies' record left out. -/
def State.noteBegin (s : State) (k : Nat) (o : DmaOp) (touch : List (Nat × Nat)) (cycles : Nat) : State :=
  (s.updCore k (fun c => { c with dmaq := c.dmaq.map (s.begun k o touch cycles) })).updCore k (fun c => { c with dmaStall := 0 })

theorem State.beginOp_eq (s : State) (k : Nat) (o : DmaOp) (touch : List (Nat × Nat)) (bytes cycles : Nat) :
    s.beginOp k o touch bytes cycles = (s.noteBegin k o touch cycles).traceRec k 6 o.thr 0 (o.tag + 2 ^ 8 * bytes) := rfl

theorem State.noteBegin_core (s : State) (k : Nat) (o : DmaOp) (touch : List (Nat × Nat)) (cycles : Nat) :
    (s.noteBegin k o touch cycles).core k =
      { s.core k with dmaq := (s.core k).dmaq.map (s.begun k o touch cycles), dmaStall := 0 } := by
  unfold State.noteBegin
  rw [State.core_updCore_same, State.core_updCore_same]

/-- An operation that begins is the oldest of its core, and has started. -/
theorem State.beginOp_ops {s : State} {k : Nat} {o : DmaOp} {rest : List DmaOp} (h : (s.core k).dmaq = o :: rest)
    (touch : List (Nat × Nat)) (bytes cycles : Nat) :
    ∃ r, (s.beginOp k o touch bytes cycles).ops k = (o.serial, o.tag, true) :: r := by
  refine ⟨(rest.map (s.begun k o touch cycles)).map (fun x => (x.serial, x.tag, x.started)), ?_⟩
  rw [s.beginOp_eq, State.traceRec_ops, State.ops, s.noteBegin_core, Core.ops, h, List.map_cons, List.map_cons]
  simp only [State.begun, if_true]

/-- The status that an operation finds. -/
def foundWord (code : Option Nat) : BitVec 16 := match code with
  | some c => BitVec.ofNat 16 (2 + 256 * c)
  | none => 0#16

theorem foundWord_found (code : Option Nat) : Claims.found (foundWord code) := by
  cases code with
  | none => exact .inl rfl
  | some c => exact .inr ⟨c, rfl⟩

theorem State.pumpReqs_usb (s : State) (p : Nat) : s.pumpReqs p = { s with usb := (s.pumpReqs p).usb } :=
  List.foldlRecOn (motive := fun t : State => t = { s with usb := t.usb }) _ _ rfl fun t ht r _ => by
    dsimp only
    split
    · exact ht
    · rw [ht]
      rfl

/-- The oldest operation, which has started, with a status. -/
theorem State.setStatus_started {u : State} {k : Nat} {o : DmaOp} {r : List (Nat × Nat × Bool)}
    (h : u.ops k = (o.serial, o.tag, true) :: r) (st fc : Nat) :
    Claims.startedWith (u.setStatus k o.serial st fc) k o (fun x => x = BitVec.ofNat 16 (st + 256 * fc)) := by
  unfold State.ops Core.ops at h
  obtain ⟨x, rest, hx, hid, -⟩ := List.map_eq_cons_iff.mp h
  obtain ⟨hs, hg, hb⟩ : x.serial = o.serial ∧ x.tag = o.tag ∧ x.started = true := by simpa using hid
  refine ⟨{ x with status := some (dmaStatus st fc) }, rest.map (fun y => if y.serial = o.serial then
    { y with status := some (dmaStatus st fc) } else y), dmaStatus st fc, ?_, hs, hg, hb, rfl, rfl⟩
  unfold State.setStatus State.updOp
  rw [State.core_updCore_same, hx, List.map_cons, if_pos hs]

theorem startedWith_congr {s t : State} {k : Nat} {o : DmaOp} {ok ok' : BitVec 16 → Prop} (h : Claims.startedWith s k o ok)
    (hc : t.cores = s.cores) (hi : ∀ st, ok st → ok' st) : Claims.startedWith t k o ok' := by
  obtain ⟨x, rest, st, hq, hs, hg, hb, hst, hok⟩ := h
  exact ⟨x, rest, st, by rw [State.core_congr hc]; exact hq, hs, hg, hb, hst, hi st hok⟩

/-- What an operation found. -/
theorem State.foundStatus_started {u : State} {k : Nat} {o : DmaOp} {r : List (Nat × Nat × Bool)}
    (h : u.ops k = (o.serial, o.tag, true) :: r) (code : Option Nat) :
    Claims.startedWith (u.foundStatus k o.serial code) k o (fun x => x = foundWord code) := by
  cases code with
  | none =>
    exact startedWith_congr (State.setStatus_started h stOk 0) (by unfold State.foundStatus; rw [State.pumpReqs_usb]) fun _ h => h
  | some c =>
    exact startedWith_congr (State.setStatus_started h stFaulted c) (by unfold State.foundStatus; rw [State.pumpReqs_usb]) fun _ h => h

/-- A start that ends at once. -/
theorem State.endOp_ends {s : State} {k : Nat} {o : DmaOp} {form : Nat} (h : Claims.mayStart s k o form) (st fc : Nat) :
    Claims.endsWith s (s.endOp k o st fc) k o st fc := by
  obtain ⟨rest, hq⟩ := mayStart_queue h
  obtain ⟨r, hr⟩ := State.beginOp_ops hq [] 0 16
  refine ⟨State.setStatus_started hr st fc, fun hn => ?_⟩
  unfold State.endOp
  rw [s.beginOp_eq, State.traceRec_noTrace (s := s.noteBegin k o [] 16) hn]
  rfl

/-- Pieces that wait for nothing start, with the status that they find. -/
theorem State.startPieces_found {s : State} {k : Nat} {o : DmaOp} {form : Nat} (h : Claims.mayStart s k o form) {l : List Piece}
    (hw : s.pieceWait k l = none) (after : Option Nat) (cycles : Nat) :
    Claims.startedWith (s.startPieces k o l after cycles .none) k o Claims.found := by
  obtain ⟨rest, hq⟩ := mayStart_queue h
  unfold State.startPieces
  rw [hw, s.meetV_none]
  extract_lets v u' u r
  obtain ⟨y, hy⟩ := State.beginOp_ops hq (pieceTouch l) (l.foldl (fun a x => a + x.len) 0) cycles
  have hr : r.1.ops k = (o.serial, o.tag, true) :: y := by
    rw [State.runPieces_ops, State.drawUndef_ops]
    exact hy
  exact startedWith_congr (State.foundStatus_started hr _) rfl fun st hst => by
    rw [hst]
    exact foundWord_found _

end Sys2Proof.Machine
end

section
/-! The DMA engine: its own notes, which leave what a partition reads and where its accesses lie, and a write and a read within one
page (R86, R107, R228, R448, R449). -/
namespace Sys2Proof.Machine

/-! ### The engine's own notes -/

/-- Nothing differs but what an engine notes: its operations, but not the pages that they hold, its stalls, counters and look-aside
entries, and the free values drawn. -/
structure State.engineNotes (s t : State) : Prop where
  frame : t = { s with cores := t.cores, parts := t.parts }
  core : ∀ j, t.core j = { s.core j with
    dmaq := (t.core j).dmaq, dmaStall := (t.core j).dmaStall, cnt := (t.core j).cnt, winE := (t.core j).winE
    lab := (t.core j).lab, expBusy := (t.core j).expBusy }
  held : ∀ j, (t.core j).dmaq.map (fun o => o.held) = (s.core j).dmaq.map (fun o => o.held)
  part : ∀ q, t.part q = { s.part q with freeCtr := (t.part q).freeCtr }

theorem State.engineNotes_refl (s : State) : s.engineNotes s := ⟨rfl, fun _ => rfl, fun _ => rfl, fun _ => rfl⟩

theorem State.engineNotes.trans {s t u : State} (h : s.engineNotes t) (g : t.engineNotes u) : s.engineNotes u where
  frame := by rw [g.frame, h.frame]
  core j := by rw [g.core j, h.core j]
  held j := (g.held j).trans (h.held j)
  part q := by rw [g.part q, h.part q]

theorem State.engineNotes.symm {s t : State} (h : s.engineNotes t) : t.engineNotes s where
  frame := by rw [h.frame]
  core j := by rw [h.core j]
  held j := (h.held j).symm
  part q := by rw [h.part q]

/-- A change of a core in which an engine notes something. -/
theorem State.updCore_notes (s : State) (k : Nat) (f : Core → Core)
    (hf : f (s.core k) = { s.core k with
      dmaq := (f (s.core k)).dmaq, dmaStall := (f (s.core k)).dmaStall, cnt := (f (s.core k)).cnt, winE := (f (s.core k)).winE
      lab := (f (s.core k)).lab, expBusy := (f (s.core k)).expBusy })
    (hh : (f (s.core k)).dmaq.map (fun o => o.held) = (s.core k).dmaq.map (fun o => o.held)) : s.engineNotes (s.updCore k f) where
  frame := rfl
  core j := by
    by_cases hj : j = k
    · subst hj
      rw [State.core_updCore_same]
      exact hf
    · rw [State.core_updCore_ne _ _ _ _ hj]
  held j := by
    by_cases hj : j = k
    · subst hj
      rw [State.core_updCore_same, hh]
    · rw [State.core_updCore_ne _ _ _ _ hj]
  part _ := rfl

theorem State.updOp_notes (s : State) (k n : Nat) (f : DmaOp → DmaOp) (h : ∀ o, (f o).held = o.held) : s.engineNotes (s.updOp k n f) := by
  refine s.updCore_notes k _ rfl ?_
  rw [List.map_map]
  refine List.map_congr_left fun o _ => ?_
  by_cases ho : o.serial = n
  · simp only [Function.comp_apply, if_pos ho]
    exact h o
  · simp only [Function.comp_apply, if_neg ho]

theorem State.count_notes (s : State) (k n v : Nat) : s.engineNotes (s.count k n v) := by
  refine s.updCore_notes k _ ?_ ?_
  · unfold Core.count
    dsimp only
    split <;> rfl
  · unfold Core.count
    dsimp only
    split <;> rfl

theorem State.freshP_notes (s : State) (p n : Nat) : s.engineNotes (s.freshP p n) where
  frame := rfl
  core _ := rfl
  held _ := rfl
  part q := by
    by_cases hq : q = p
    · subst hq
      rw [State.freshP, State.part_updPart_same]
    · rw [State.freshP, State.part_updPart_ne _ _ _ _ hq]

theorem State.noteBegin_notes (s : State) (k : Nat) (o : DmaOp) (touch : List (Nat × Nat)) (cycles : Nat) :
    s.engineNotes (s.noteBegin k o touch cycles) := by
  refine (s.updCore_notes k _ rfl ?_).trans (State.updCore_notes _ k _ rfl rfl)
  rw [List.map_map]
  refine List.map_congr_left fun x _ => ?_
  unfold State.begun
  by_cases hx : x.serial = o.serial
  · simp only [Function.comp_apply, if_pos hx]
  · simp only [Function.comp_apply, if_neg hx]

section
variable {s t : State} (h : s.engineNotes t)
include h

/-- Translation and reads stand, with the operations of s put back. -/
theorem State.engineNotes.map : s.sameMap { t with cores := s.cores } where
  rd := by rw [h.frame]; rfl
  own := by rw [h.frame]
  ptRoot c := by rw [h.frame]; rfl
  coremap c := by rw [h.frame]; rfl
  ptes p := by
    show (t.part p).ptes = _
    rw [h.part p]
  lmap p := by
    show (t.part p).lmap = _
    rw [h.part p]
  dmaq _ := rfl

theorem State.engineNotes.rd : t.rd = s.rd := (rfl : t.rd = State.rd { t with cores := s.cores }).trans h.map.rd
theorem State.engineNotes.partOf : t.partOf = s.partOf := (rfl : t.partOf = State.partOf { t with cores := s.cores }).trans h.map.partOf
theorem State.engineNotes.rdN : t.rdN = s.rdN := (rfl : t.rdN = State.rdN { t with cores := s.cores }).trans h.map.rdN
theorem State.engineNotes.rdVal : t.rdVal = s.rdVal := (rfl : t.rdVal = State.rdVal { t with cores := s.cores }).trans h.map.rdVal
theorem State.engineNotes.walk : t.walk = s.walk := (rfl : t.walk = State.walk { t with cores := s.cores }).trans h.map.walk
theorem State.engineNotes.walkOut : t.walkOut = s.walkOut :=
  (rfl : t.walkOut = State.walkOut { t with cores := s.cores }).trans h.map.walkOut
theorem State.engineNotes.devOf : t.devOf = s.devOf := (rfl : t.devOf = State.devOf { t with cores := s.cores }).trans h.map.devOf
theorem State.engineNotes.clustersOf : t.clustersOf = s.clustersOf :=
  (rfl : t.clustersOf = State.clustersOf { t with cores := s.cores }).trans h.map.clustersOf

theorem State.engineNotes.moving : t.moving = s.moving := by
  funext p g
  have hq (j : Nat) : (t.core j).dmaq.any (fun o => o.held.any (fun x => x.2.1 == g)) =
      (s.core j).dmaq.any (fun o => o.held.any (fun x => x.2.1 == g)) := by
    have hm := congrArg (fun l : List (List (Nat × Nat × BitVec 64)) => l.any (fun y => y.any (fun x => x.2.1 == g))) (h.held j)
    simpa only [List.any_map, Function.comp_def] using hm
  simp only [State.moving, h.clustersOf, hq]

theorem State.engineNotes.pte : t.pte = s.pte := by
  funext p g
  have hp : (t.part p).ptes = (s.part p).ptes := by rw [h.part p]
  simp only [State.pte, State.entryOf, h.walk, h.walkOut, h.rdVal, h.moving, hp]

theorem State.engineNotes.va? : t.va? = s.va? := by funext p v; simp only [State.va?, h.pte, h.devOf]
theorem State.engineNotes.pageFault : t.pageFault = s.pageFault := by
  have hr : t.reaches = s.reaches := (rfl : t.reaches = State.reaches { t with cores := s.cores }).trans h.map.reaches
  funext k r b v
  simp only [State.pageFault, h.pte, h.partOf, hr]
theorem State.engineNotes.dmaFault : t.dmaFault = s.dmaFault := by funext k r b v; simp only [State.dmaFault, h.pageFault]
theorem State.engineNotes.runs : t.runs = s.runs := by funext p v n; simp only [State.runs, h.va?]
theorem State.engineNotes.hostRange : t.hostRange = s.hostRange := by funext p v n; simp only [State.hostRange, h.pte]

theorem State.engineNotes.errors : s.sameErrors t where
  badWords := by rw [h.frame]
  poison := by rw [h.frame]
  failed n := by rw [h.frame]; rfl

theorem State.engineNotes.races : s.sameRaces t where
  dirty := by rw [h.frame]
  chunk k n := by rw [State.thr, h.core k, State.thr]
  chunkq k := by rw [h.core k]
  job k := by rw [h.core k]
  jobs p := by rw [h.part p]

theorem State.engineNotes.vraced2 : t.vraced2 = s.vraced2 := by
  funext k n v l
  simp only [State.vraced2, h.runs, h.partOf, h.races.dirty]

theorem State.engineNotes.openRead : t.openRead = s.openRead := by
  funext k n v l
  simp only [State.openRead, State.vchanged, State.changesOf, h.vraced2, h.runs, h.partOf, h.races.chunkOf, h.races.job, h.races.jobEq]

end

/-! ### Reads and writes within one page -/

/-- Bytes stand at b in v, every other byte is that of s, and the operations of the core are those of u. -/
structure State.bytesPut (s u v : State) (k b : Nat) (l : List Byte) : Prop where
  bytes : v.rdN b l.length = l
  outside : s.sameOutside v b l.length
  queue : (v.core k).dmaq = (u.core k).dmaq

theorem State.count_dmaq (s : State) (k n v : Nat) : ((s.count k n v).core k).dmaq = (s.core k).dmaq := by
  rw [State.count, State.core_updCore_same]
  unfold Core.count
  dsimp only
  split <;> rfl

theorem pagesOf_one {va n : Nat} (h0 : 0 < n) (h : va % 65536 + n ≤ 65536) : pagesOf va n = [va] := by
  have : (va + n - 1) / 65536 - va / 65536 + 1 = 1 := by omega
  simp only [pagesOf, this, if_neg (Nat.ne_of_gt h0)]
  rfl

/-- A place in the device is none of the host tier. -/
theorem State.devOf_tier {s : State} {p va a : Nat} {e : W64} (h : s.devOf p e va = some a) : pteTier e ≠ 3 := by
  intro ht
  unfold State.devOf at h
  rw [ht] at h
  exact absurd h (by simp)

theorem State.va?_dev {s : State} {p va a : Nat} (h : s.va? p va = some a) : va < 2 ^ 48 ∧ s.devOf p (s.pte p (va / 65536)) va = some a := by
  unfold State.va? at h
  split at h
  · exact absurd h (by simp)
  next hv =>
    dsimp only at h
    split at h
    · exact ⟨by omega, h⟩
    · exact absurd h (by simp)

theorem State.hostRange_page {s : State} {p va n a : Nat} (h : va % 65536 + n ≤ 65536) (ha : s.va? p va = some a) :
    s.hostRange p va n = false := by
  obtain ⟨-, hd⟩ := State.va?_dev ha
  unfold State.hostRange
  cases n with
  | zero => rfl
  | succ n =>
    rw [pagesOf_one (Nat.succ_pos n) h]
    simp [State.devOf_tier hd]

section
variable {s : State} {k : Nat} {o : DmaOp}

/-- A range within one page whose bytes all may be read. -/
theorem State.readUpto_page {r : Reach} {src n a : Nat} (h0 : 0 < n) (hp : src % 65536 + n ≤ 65536)
    (hf : s.dmaFault k r false src = none) (ha : s.va? (s.partOf k) src = some a) (hb : s.badFirst a n = none) :
    s.readUpto k r src n = (s.rdN a n, none) := by
  obtain ⟨hv, -⟩ := State.va?_dev ha
  have hm : src % 2 ^ 64 = src := Nat.mod_eq_of_lt (by omega)
  have hl : min (n - (src - src)) (65536 - src % 65536) = n := by omega
  unfold State.readUpto
  rw [pagesOf_one h0 hp, List.foldl_cons, List.foldl_nil]
  simp only [hf, hm, ha, hl, hb, List.nil_append]

variable {u : State} (h : s.engineNotes u)
include h

/-- The bytes that an operation reads within one page. -/
theorem State.readOp_page {src n a serial : Nat} (h0 : 0 < n) (hr : Claims.mayRead s k o src n a) (ht : u.opThr k serial = o.thr)
    (fresh : Bool) : (u.readOp k serial src n fresh).1 = s.rdN a n ∧ (u.readOp k serial src n fresh).2.2 = none ∧
      u.engineNotes (u.readOp k serial src n fresh).2.1 ∧ (u.readOp k serial src n fresh).2.1.core k =
        (u.count k (byteCnt (tierOf a) false) n).core k := by
  obtain ⟨hp, hf, ha, hg, -, -, ho⟩ := hr
  have hx : u.readUpto k .any src n = (s.rdN a n, none) := by
    rw [State.readUpto_page h0 hp (by rw [h.dmaFault]; exact hf) (by rw [h.va?, h.partOf]; exact ha)
      (by rw [h.errors.badFirst]; exact hg), h.rdN]
  have hn : (s.rdN a n).length = n := s.rdN_length a n
  have hc := u.count_notes k (byteCnt (tierOf a) false) n
  have hop : (u.count k (byteCnt (tierOf a) false) n).openRead k o.thr src n = false := by
    rw [hc.openRead, h.openRead]
    exact ho
  have hthr : (u.count k (byteCnt (tierOf a) false) n).opThr k serial = o.thr := by
    rw [← ht]
    unfold State.opThr
    rw [State.count, State.core_updCore_same]
    unfold Core.count
    dsimp only
    split <;> rfl
  have hva : u.va? (u.partOf k) src = some a := by
    rw [h.va?, h.partOf]
    exact ha
  have key : u.readOp k serial src n fresh = (s.rdN a n, u.count k (byteCnt (tierOf a) false) n, none) := by
    unfold State.readOp
    simp only [hx, hn, hva, hthr, State.settleRead2, hop, Bool.false_eq_true, if_false]
  rw [key]
  exact ⟨rfl, rfl, hc, rfl⟩

/-- The bytes that an operation writes within one page. -/
theorem State.writeUpto_page {dst n b : Nat} {l : List Byte} (hw : Claims.mayWrite s k o dst n b) (hl : l.length = n) :
    (u.writeUpto k o.thr dst l).2 = none ∧ s.bytesPut u (u.writeUpto k o.thr dst l).1 k b l := by
  obtain ⟨h0, hp, hf, ha, hb, -, -, ho, -, -⟩ := hw
  subst hl
  obtain ⟨hv, -⟩ := State.va?_dev ha
  have hm : dst % 2 ^ 64 = dst := Nat.mod_eq_of_lt (by omega)
  have hln : min (l.length - 0) (65536 - dst % 65536) = l.length := by omega
  have hs : u.settle2 k o.thr dst l = (l, u) := if_neg (by rw [h.vraced2, ho]; decide)
  have hva : u.va? (u.partOf k) dst = some b := by
    rw [h.va?, h.partOf]
    exact ha
  have hfu : u.dmaFault k .any true dst = none := by
    rw [h.dmaFault]
    exact hf
  have hbu : u.badPart b l.length = none := by
    rw [h.errors.badPart]
    exact hb
  have key : u.writeUpto k o.thr dst l = ((u.write k o.thr dst l).count k (byteCnt (tierOf b) true) l.length, none) := by
    unfold State.writeUpto
    rw [hs]
    dsimp only
    rw [pagesOf_one h0 hp, List.foldl_cons, List.foldl_nil]
    simp only [hfu, hm, hva, hln, hbu, Nat.sub_self, List.drop_zero, Option.getD_none, List.take_length, Nat.lt_irrefl, if_false]
  have hk := State.write_page (s := u) (n := o.thr) h0 hp hva
  have hrd : ((u.write k o.thr dst l).count k (byteCnt (tierOf b) true) l.length).rd = (u.store b l).rd :=
    (State.count_notes _ _ _ _).rd.trans (State.rd_congr (by rw [hk.frame]) (by rw [hk.frame]) (by rw [hk.frame]) (by rw [hk.frame]))
  rw [key]
  refine ⟨rfl, ?_, fun c hc => ?_, ?_⟩
  · exact (State.rdN_congr b l.length fun i _ => congrFun hrd _).trans (u.rdN_store b l)
  · exact (congrFun hrd c).trans ((u.rd_store_out b c l hc).trans (congrFun h.rd c))
  · rw [State.count_dmaq, hk.core k, State.core_congr (s := u) (t := u.store b l) (by rw [u.store_onlyMem b l])]

/-- A write of an operation that waits for no host data. -/
theorem State.emit_page {dst n b serial : Nat} {l : List Byte} (hw : Claims.mayWrite s k o dst n b) (hl : l.length = n)
    (ht : u.opThr k serial = o.thr) (hq : (u.opOf k serial).writes = []) :
    (u.emit k serial dst l).2 = none ∧ s.bytesPut u (u.emit k serial dst l).1 k b l := by
  have hne : l.isEmpty = false := by
    rw [List.isEmpty_eq_false_iff]
    rintro rfl
    exact absurd hw.bytes (by rw [← hl]; decide)
  have hh : u.hostRange (u.partOf k) dst l.length = false := by
    rw [h.hostRange, h.partOf, hl]
    exact State.hostRange_page hw.page hw.place
  have key : u.emit k serial dst l = u.writeUpto k o.thr dst l := by
    unfold State.emit State.doWrite
    simp only [hq, List.isEmpty_nil, if_true, hne, hh, ht, Bool.false_eq_true, if_false]
  rw [key]
  exact State.writeUpto_page h hw hl

/-- A chunk copied within one page of each side. -/
theorem State.copyChunk_page {src n a dst b serial : Nat} (hr : Claims.mayRead s k o src n a) (hw : Claims.mayWrite s k o dst n b)
    (ht : u.opThr k serial = o.thr) (hq : (u.opOf k serial).writes = []) (fresh : Bool) :
    (u.copyChunk k serial (fun l => l) src dst n fresh).2 = none ∧
      s.bytesPut u (u.copyChunk k serial (fun l => l) src dst n fresh).1 k b (s.rdN a n) := by
  obtain ⟨hl, hc, hnotes, hcore⟩ := State.readOp_page h hw.bytes hr ht fresh
  have hh : u.hostRange (u.partOf k) src n = false := by
    rw [h.hostRange, h.partOf]
    exact State.hostRange_page hr.page hr.place
  have hdq : ((u.readOp k serial src n fresh).2.1.core k).dmaq = (u.core k).dmaq := by rw [hcore, State.count_dmaq]
  have ht' : (u.readOp k serial src n fresh).2.1.opThr k serial = o.thr := by
    rw [State.opThr, hdq]
    exact ht
  have hw' : ((u.readOp k serial src n fresh).2.1.opOf k serial).writes = [] := by
    rw [State.opOf, hdq]
    exact hq
  obtain ⟨he, hb, hs, hd⟩ := State.emit_page (h.trans hnotes) (l := s.rdN a n) hw (s.rdN_length a n) ht' hw'
  have key : u.copyChunk k serial (fun l => l) src dst n fresh =
      (((u.readOp k serial src n fresh).2.1.emit k serial dst (s.rdN a n)).1, none) := by
    unfold State.copyChunk
    simp only [hh, hl, he, hc, Bool.false_eq_true, if_false]
  rw [key]
  exact ⟨rfl, hb, hs, hd.trans hdq⟩

/-- A piece with a source, within one page of each side. -/
theorem State.runPiece_copies {x : Piece} {src a b serial : Nat} (hx : x.src = some src) (hr : Claims.mayRead s k o src x.len a)
    (hw : Claims.mayWrite s k o x.dst x.len b) (ht : u.opThr k serial = o.thr) (hq : (u.opOf k serial).writes = []) (fresh : Bool) :
    (u.runPiece k serial none fresh x).2 = none ∧ s.bytesPut u (u.runPiece k serial none fresh x).1 k b (s.rdN a x.len) := by
  obtain ⟨hv, -⟩ := State.va?_dev hr.place
  obtain ⟨hv', -⟩ := State.va?_dev hw.place
  have hm : src % 2 ^ 64 = src := Nat.mod_eq_of_lt (by omega)
  have hm' : x.dst % 2 ^ 64 = x.dst := Nat.mod_eq_of_lt (by omega)
  have hh : u.hostRange (u.partOf k) src x.len = false := by
    rw [h.hostRange, h.partOf]
    exact State.hostRange_page hr.page hr.place
  have hh' : u.hostRange (u.partOf k) x.dst x.len = false := by
    rw [h.hostRange, h.partOf]
    exact State.hostRange_page hw.page hw.place
  have key : u.runPiece k serial none fresh x = u.copyChunk k serial (fun l => l) src x.dst x.len fresh := by
    unfold State.runPiece
    simp only [hx, hm, hm', hh, hh', Bool.or_false, Bool.false_eq_true, if_false]
  rw [key]
  exact State.copyChunk_page h hr hw ht hq fresh

/-- A piece of bytes given, within one page. -/
theorem State.runPiece_gives {x : Piece} {b serial : Nat} (hx : x.src = none) (hl : x.data.length = x.len)
    (hw : Claims.mayWrite s k o x.dst x.len b) (ht : u.opThr k serial = o.thr) (hq : (u.opOf k serial).writes = []) (fresh : Bool) :
    (u.runPiece k serial none fresh x).2 = none ∧ s.bytesPut u (u.runPiece k serial none fresh x).1 k b x.data := by
  obtain ⟨hv, -⟩ := State.va?_dev hw.place
  have hm : x.dst % 2 ^ 64 = x.dst := Nat.mod_eq_of_lt (by omega)
  have hh : u.hostRange (u.partOf k) x.dst x.data.length = false := by
    rw [h.hostRange, h.partOf, hl]
    exact State.hostRange_page hw.page hw.place
  have key : u.runPiece k serial none fresh x = u.emit k serial x.dst x.data := by
    unfold State.runPiece
    simp only [hx, hm, hh, Bool.false_eq_true, if_false]
  rw [key]
  exact State.emit_page h hw hl ht hq

end

end Sys2Proof.Machine
end

section
/-! Copies and window streams start, and what one piece moves (R224, R227, R228, R232, R233, R404, R405). -/
namespace Sys2Proof.Machine

/-! ### One piece -/

theorem State.opThr_head {u : State} {k n : Nat} {y : DmaOp} {rest : List DmaOp} (h : (u.core k).dmaq = y :: rest)
    (hn : y.serial = n) : u.opThr k n = y.thr := by
  simp [State.opThr, h, hn]

theorem State.opOf_head {u : State} {k n : Nat} {y : DmaOp} {rest : List DmaOp} (h : (u.core k).dmaq = y :: rest)
    (hn : y.serial = n) : u.opOf k n = y := by
  simp [State.opOf, h, hn]

theorem State.runPieces_one (u : State) (k n : Nat) (undef : Option Nat) (f : Bool) (x : Piece) :
    u.runPieces k n undef f [x] = u.runPiece k n undef f x := rfl

/-- The oldest operation once it has begun. -/
theorem State.noteBegin_queue {s : State} {k : Nat} {o : DmaOp} {rest : List DmaOp} (h : (s.core k).dmaq = o :: rest)
    (touch : List (Nat × Nat)) (cycles : Nat) :
    ∃ y r, ((s.noteBegin k o touch cycles).core k).dmaq = y :: r ∧ y.serial = o.serial ∧ y.tag = o.tag ∧ y.started = true ∧
      y.thr = o.thr ∧ y.writes = o.writes := by
  refine ⟨s.begun k o touch cycles o, rest.map (s.begun k o touch cycles), ?_, ?_⟩
  · rw [s.noteBegin_core, h, List.map_cons]
  · rw [State.begun, if_pos rfl]
    exact ⟨rfl, rfl, rfl, rfl, rfl⟩

theorem foundStatus_rd (u : State) (k n : Nat) (code : Option Nat) : (u.foundStatus k n code).rd = u.rd := by
  unfold State.foundStatus
  rw [State.pumpReqs_usb]
  cases code <;> rfl

/-- What an operation whose bytes are put leaves, with its status. -/
theorem State.bytesPut.wrote {s u v : State} {k b : Nat} {l : List Byte} {o : DmaOp} {r : List (Nat × Nat × Bool)}
    (h : s.bytesPut u v k b l) (hr : u.ops k = (o.serial, o.tag, true) :: r) :
    Claims.wrote s (v.foundStatus k o.serial none) k o b l := by
  have hv : v.ops k = (o.serial, o.tag, true) :: r := by
    rw [← hr, State.ops, State.ops, Core.ops, Core.ops, h.queue]
  have hrd := foundStatus_rd v k o.serial none
  refine ⟨?_, fun c hc => ?_, State.foundStatus_started hv none⟩
  · rw [State.rdN_congr b l.length fun i _ => congrFun hrd _]
    exact h.bytes
  · rw [hrd]
    exact h.outside c hc

/-- Pieces that start where Dailies records nothing and no value is open. -/
theorem State.startPieces_plain {s : State} {k : Nat} {o : DmaOp} {l : List Piece} (hw : s.pieceWait k l = none) (hn : s.noTrace k)
    (hs : o.stale = false) (ho : piecesOverlap l = false) (after : Option Nat) (cycles : Nat) :
    s.startPieces k o l after cycles .none =
      (((s.noteBegin k o (pieceTouch l) cycles).runPieces k o.serial none false l).1.foundStatus k o.serial
        (match ((s.noteBegin k o (pieceTouch l) cycles).runPieces k o.serial none false l).2 with
          | some c => some c
          | none => after)) := by
  unfold State.startPieces
  rw [hw, s.meetV_none]
  dsimp only
  rw [s.beginOp_eq, State.traceRec_noTrace (s := s.noteBegin k o (pieceTouch l) cycles) hn, hs, ho]
  rfl

theorem piecesOverlap_one {x : Piece} (h : ∀ src, x.src = some src → overlaps src x.len x.dst x.len = false) :
    piecesOverlap [x] = false := by
  unfold piecesOverlap
  cases hx : x.src with
  | none => simp [hx]
  | some a => simp [hx, h a hx]

section
variable {s : State} {k : Nat} {o : DmaOp} {form : Nat} (h : Claims.mayStart s k o form) {x : Piece} (hpw : s.pieceWait k [x] = none)
  {b : Nat} (hw : Claims.mayWrite s k o x.dst x.len b)
include h hpw hw

/-- One piece with a source moves its bytes. -/
theorem State.startPieces_copies {src a : Nat} (hx : x.src = some src) (hr : Claims.mayRead s k o src x.len a)
    (hap : Claims.apart src x.dst x.len a b) (cycles : Nat) :
    Claims.wrote s (s.startPieces k o [x] none cycles .none) k o b (s.rdN a x.len) := by
  obtain ⟨rest, hq⟩ := mayStart_queue h
  obtain ⟨hst, hws⟩ := hw.fresh
  obtain ⟨y, r, hy, hys, hyg, hyb, hyt, hyw⟩ := State.noteBegin_queue hq (pieceTouch [x]) cycles
  have hov : piecesOverlap [x] = false := piecesOverlap_one fun c hc => by
    rw [Option.some.inj (hc.symm.trans hx)]
    exact hap.1
  rw [State.startPieces_plain hpw hw.quiet hst hov]
  obtain ⟨hf, hp⟩ := State.runPiece_copies (s.noteBegin_notes k o (pieceTouch [x]) cycles) hx hr hw (serial := o.serial)
    ((State.opThr_head hy hys).trans hyt) (by rw [State.opOf_head hy hys, hyw, hws]) false
  rw [State.runPieces_one, hf]
  exact hp.wrote (by rw [State.ops, Core.ops, hy, List.map_cons, hys, hyg, hyb])

/-- One piece of bytes given puts them. -/
theorem State.startPieces_gives (hx : x.src = none) (hl : x.data.length = x.len) (cycles : Nat) :
    Claims.wrote s (s.startPieces k o [x] none cycles .none) k o b x.data := by
  obtain ⟨rest, hq⟩ := mayStart_queue h
  obtain ⟨hst, hws⟩ := hw.fresh
  obtain ⟨y, r, hy, hys, hyg, hyb, hyt, hyw⟩ := State.noteBegin_queue hq (pieceTouch [x]) cycles
  have hov : piecesOverlap [x] = false := piecesOverlap_one fun c hc => absurd (hc.symm.trans hx) (by simp)
  rw [State.startPieces_plain hpw hw.quiet hst hov]
  obtain ⟨hf, hp⟩ := State.runPiece_gives (s.noteBegin_notes k o (pieceTouch [x]) cycles) hx hl hw (serial := o.serial)
    ((State.opThr_head hy hys).trans hyt) (by rw [State.opOf_head hy hys, hyw, hws]) false
  rw [State.runPieces_one, hf]
  exact hp.wrote (by rw [State.ops, Core.ops, hy, List.map_cons, hys, hyg, hyb])

end

/-! ### Copies -/

/-- The one row of a linear copy. -/
def copyPiece (o : DmaOp) : Piece := { dst := o.dst.toNat, src := some o.src.toNat, len := o.len.toNat, data := [] }

theorem wrapN_nat {n x : Nat} (h : x < 2 ^ n) : wrapN n (x : Int) = x := by
  unfold wrapN
  rw [← Int.natCast_mod, Int.toNat_natCast, Nat.mod_eq_of_lt h]

theorem rowPieces_linear (o : DmaOp) : rowPieces o.src.toNat o.dst.toNat 0 0 1 o.len.toNat = [copyPiece o] := by
  have hd := wrapN_nat (n := 64) (x := o.dst.toNat) o.dst.isLt
  have hs := wrapN_nat (n := 64) (x := o.src.toNat) o.src.isLt
  simp [rowPieces, copyPiece, upTo, hd, hs]

/-- A linear copy starts its pieces. -/
theorem twoDCopy_copy {c : CoreId} {s : State} {o : DmaOp} (h : Claims.mayStart s c.key o 0) (hk : o.kind = .copy) :
    ∃ cycles, exec (.twoDCopy c .none) s = .next (s.startPieces c.key o
      (if o.len = 0#64 then [] else rowPieces o.src.toNat o.dst.toNat 0 0 1 o.len.toNat) none cycles .none) := by
  show ∃ cycles, execTwoDCopy c .none s = _
  unfold execTwoDCopy
  rw [engineStep_starts h, hk]
  exact ⟨_, rfl⟩

theorem State.pieceWait_one {s : State} {k : Nat} {o : DmaOp} {x : Piece} {src a b : Nat} (hx : x.src = some src)
    (hr : Claims.mayRead s k o src x.len a) (hw : Claims.mayWrite s k o x.dst x.len b) : s.pieceWait k [x] = none := by
  obtain ⟨hv, -⟩ := State.va?_dev hr.place
  obtain ⟨hv', -⟩ := State.va?_dev hw.place
  have hm : src % 2 ^ 64 = src := Nat.mod_eq_of_lt (by omega)
  have hm' : x.dst % 2 ^ 64 = x.dst := Nat.mod_eq_of_lt (by omega)
  unfold State.pieceWait State.piecesMv
  simp only [List.any_cons, List.any_nil, hx, hm, hm', hw.still, hr.still, hw.bank, hr.bank, Bool.or_false, Bool.false_eq_true, if_false]

/-- A linear copy within one page of each side moves its bytes. -/
theorem twoDCopy_moves {c : CoreId} {s : State} {o : DmaOp} (h : Claims.mayStart s c.key o 0) (hk : o.kind = .copy) {a b : Nat}
    (hr : Claims.mayRead s c.key o o.src.toNat o.len.toNat a) (hw : Claims.mayWrite s c.key o o.dst.toNat o.len.toNat b)
    (hap : Claims.apart o.src.toNat o.dst.toNat o.len.toNat a b) :
    ∃ t, exec (.twoDCopy c .none) s = .next t ∧ Claims.wrote s t c.key o b (s.rdN a o.len.toNat) := by
  obtain ⟨cycles, hx⟩ := twoDCopy_copy h hk
  have hne : o.len ≠ 0#64 := fun he => absurd hw.bytes (by rw [he]; decide)
  rw [if_neg hne, rowPieces_linear] at hx
  exact ⟨_, hx, State.startPieces_copies (x := copyPiece o) h (State.pieceWait_one rfl hr hw) hw rfl hr hap cycles⟩

theorem copyMovesBytes : Claims.CopyMovesBytes := by
  intro c s o k src dst n d h
  refine ⟨fun a b hk hr hw hap => twoDCopy_moves h hk hr hw hap, fun hk hp => ?_, fun hk h0 h1 h2 h3 hp => ?_, fun hk h0 => ?_⟩
  · obtain ⟨cycles, hx⟩ := twoDCopy_copy h hk
    exact ⟨_, hx, State.startPieces_found h hp none cycles⟩
  · show ∃ t, execTwoDCopy c .none s = _ ∧ _
    unfold execTwoDCopy
    rw [engineStep_starts h, hk]
    dsimp only
    rw [if_neg (by simpa using h0), if_neg (by rw [h1, h2, h3]; decide)]
    exact ⟨_, rfl, State.startPieces_found h hp none _⟩
  · show ∃ t, execTwoDCopy c .none s = _ ∧ _
    unfold execTwoDCopy
    rw [engineStep_starts h, hk]
    dsimp only
    have h3 : 3 < recBits o.desc 0 4 := h0
    rw [if_pos (by omega)]
    exact ⟨_, rfl, State.endOp_ends h 2 1⟩

end Sys2Proof.Machine
end

section
/-! Window streams, expansions and page gathers start (R360, R361, R404, R405, R465, R477, R478). -/
namespace Sys2Proof.Machine

/-! ### Window streams -/

section
variable {c : CoreId} {s : State} {o : DmaOp} (h : Claims.mayStart s c.key o 1)
include h

/-- A window stream without a pixel is illegal. -/
theorem windowStream_empty (h0 : recN o.desc 16 2 = 0) :
    exec (.windowStream c .none) s = .next (s.endOp c.key o stFaulted fcIllegal) := by
  show execWindowStream c .none s = _
  unfold execWindowStream
  rw [engineStep_starts h]
  dsimp only
  split
  · rw [if_pos]
    rw [h0]
    simp
  · rfl

/-- A legal window stream starts its pieces. -/
theorem windowStream_legal {ow : Nat} (hd : Claims.windowOk o.desc ow) : exec (.windowStream c .none) s =
    .next (s.startPieces c.key o (windowPieces o.desc ow) none (s.windowCycles c.key (windowPieces o.desc ow)) .none) := by
  obtain ⟨⟨oh, hoh, hle⟩, how, h1, h2, h3, h4, h5, h6, h7, h8, h9, h10, h11⟩ := hd
  show execWindowStream c .none s = _
  unfold execWindowStream
  rw [engineStep_starts h]
  dsimp only
  rw [hoh, how]
  dsimp only
  rw [if_neg]
  simp only [h1, h2, h3, h4, h9, h10, Bool.or_eq_true, decide_eq_true_eq, Bool.not_true, Bool.false_eq_true, false_or, or_false, ne_eq, not_true_eq_false]
  omega

end

/-! ### Expansions -/

theorem decodeVals_length (rd : Nat → Byte) (sm base eb : Nat) (code : List (Nat × Nat × Nat)) :
    ∀ n i pos, (decodeVals rd sm base eb code n i pos).length = 2 * n
  | 0, _, _ => rfl
  | n + 1, i, pos => by
    rw [decodeVals, List.length_append, decodeVals_length rd sm base eb code n]
    simp only [leBytes_length]
    omega

/-- A block has 4,096 bytes of values. -/
theorem blockVals_length (rd : Nat → Byte) (off : Nat) : (blockVals rd off).length = 4096 := by
  unfold blockVals
  dsimp only
  split
  · rw [decodeVals_length]
  · rw [List.length_map, upTo, List.length_range]

/-- The pieces of an expansion, with the fault that ends them and the cycles of the blocks. -/
def State.blocksOf (s : State) (k : Nat) (d : List Byte) : List Piece × Option (Nat × Nat) × List Nat :=
  let pr := s.pair k (s.va? (s.partOf k) (recN d 24 8)) (s.va? (s.partOf k) (recN d 16 8))
  s.expandPieces k (recN d 24 8) (min (recN d 8 8) (8208 * recN d 4 4)) (recN d 16 8) (min pr.1 128) pr.1 (recN d 4 4) 0 0 [] []

/-- An expansion begun, with the cycles of its blocks and the free value of its destination. -/
def State.expandBegun (s : State) (k : Nat) (o : DmaOp) : Option Nat × State :=
  let d := o.desc
  let src := recN d 24 8
  let dst := recN d 16 8
  let win := min (recN d 8 8) (8208 * recN d 4 4)
  let pr := s.pair k (s.va? (s.partOf k) src) (s.va? (s.partOf k) dst)
  let r := s.blocksOf k d
  let s2 := s.beginOp k o [(src, win), (dst, 4096 * recN d 4 4)] (4096 * r.1.length) (16 + pr.2 + r.2.2.foldl (fun a x => a + x) 0)
  let u := s2.drawUndef k o (o.stale || overlaps src win dst (4096 * recN d 4 4) || s.openRead k o.thr src win)
  (u.1, (u.2.updOp k o.serial (fun x => { x with
    blocks := r.2.2, blockAt := s.clCycle (keyCl k) + 16 + pr.2 })).updCore k (fun c => { c with expBusy := true }))

/-- An expansion that has begun, its source's fault told and its blocks written. -/
def State.expandRun (s : State) (k : Nat) (o : DmaOp) : State :=
  let r := s.blocksOf k o.desc
  let u := s.expandBegun k o
  let v := match r.2.1 with
    | some x => if x.1 = fcUe then u.2.tellUeV k x.2 1 false else u.2.noteOutside (s.partOf k) x.2
    | none => u.2
  let y := v.runPieces k o.serial u.1 false r.1
  y.1.foundStatus k o.serial (match y.2 with | some c => some c | none => r.2.1.map (fun x => x.1))

section
variable {c : CoreId} {s : State} {o : DmaOp} (h : Claims.mayStart s c.key o 3)
include h

/-- An expansion whose source is not aligned. -/
theorem expansion_unaligned (h1 : recZero o.desc 4 28 = true) (h2 : recZero o.desc 256 256 = true) (h3 : recN o.desc 24 8 % 8 ≠ 0) :
    exec (.expansion c .none) s = .next (s.endOp c.key o stFaulted fcAlign) := by
  show execExpansion c .none s = _
  unfold execExpansion
  rw [engineStep_starts h]
  dsimp only
  rw [if_neg (by rw [h1, h2]; decide), if_pos (.inl h3)]

variable (hd : Claims.expandOk s (s.partOf c.key) o.desc)
include hd

/-- An expansion of no block. -/
theorem expansion_empty (h0 : recN o.desc 4 4 = 0) : exec (.expansion c .none) s = .next (s.endOp c.key o stOk 0) := by
  obtain ⟨h1, h2, h3, h4, h5, h6⟩ := hd
  show execExpansion c .none s = _
  unfold execExpansion
  rw [engineStep_starts h]
  dsimp only
  rw [if_neg (by rw [h1, h2]; decide), if_neg (by omega), if_neg (by rw [h5, h6]; decide), if_pos h0]

/-- A legal expansion runs. -/
theorem expansion_runs (h0 : recN o.desc 4 4 ≠ 0) (ht : s.expTaken c.key = false)
    (hm : s.mvRange c.key (recN o.desc 24 8) (min (recN o.desc 8 8) (8208 * recN o.desc 4 4)) = false)
    (hv : s.vbankBusy (s.partOf c.key) (recN o.desc 24 8) (min (recN o.desc 8 8) (8208 * recN o.desc 4 4)) = false)
    (hw : s.pieceWait c.key (s.blocksOf c.key o.desc).1 = none) :
    exec (.expansion c .none) s = .next (s.expandRun c.key o) := by
  obtain ⟨h1, h2, h3, h4, h5, h6⟩ := hd
  show execExpansion c .none s = _
  unfold execExpansion
  rw [engineStep_starts h]
  dsimp only
  rw [if_neg (by rw [h1, h2]; decide), if_neg (by omega), if_neg (by rw [h5, h6]; decide), if_neg h0, if_neg (by rw [ht]; decide),
    if_neg (by rw [hm]; decide), if_neg (by rw [hv]; decide)]
  simp only [s.meetV_none]
  unfold State.blocksOf at hw
  dsimp only at hw
  rw [hw]
  rfl

end

theorem State.expandBegun_ops {s : State} {k : Nat} {o : DmaOp} {rest : List DmaOp} (h : (s.core k).dmaq = o :: rest) :
    ∃ r, (s.expandBegun k o).2.ops k = (o.serial, o.tag, true) :: r := by
  unfold State.expandBegun
  extract_lets d src dst win pr r s2 u
  obtain ⟨y, hy⟩ := State.beginOp_ops h [(src, win), (dst, 4096 * recN d 4 4)] (4096 * r.1.length)
    (16 + pr.2 + r.2.2.foldl (fun a x => a + x) 0)
  refine ⟨y, ?_⟩
  refine (State.updCore_ops _ k k _ ?_).trans ?_
  · exact fun _ => rfl
  refine (State.updOp_ops _ k o.serial k _ ?_).trans ?_
  · exact fun _ => rfl
  · rw [State.drawUndef_ops]
    exact hy

/-- What an expansion finds. -/
theorem State.expandRun_found {s : State} {k : Nat} {o : DmaOp} {rest : List DmaOp} (h : (s.core k).dmaq = o :: rest) :
    Claims.startedWith (s.expandRun k o) k o Claims.found := by
  obtain ⟨y, hy⟩ := State.expandBegun_ops h
  unfold State.expandRun
  extract_lets r u v z
  have hv : v.ops k = u.2.ops k := by
    show State.ops (match r.2.1 with
      | some x => if x.1 = fcUe then u.2.tellUeV k x.2 1 false else u.2.noteOutside (s.partOf k) x.2
      | none => u.2) k = _
    split
    · split
      · rw [State.tellUeV_ops]
      · rw [State.noteOutside_ops]
    · rfl
  have hz : z.1.ops k = (o.serial, o.tag, true) :: y := by
    rw [State.runPieces_ops, hv]
    exact hy
  exact startedWith_congr (State.foundStatus_started hz _) rfl fun st hst => by
    rw [hst]
    exact foundWord_found _

/-- The source of an expansion as its blocks read it. -/
def State.windowByte (s : State) (p src win : Nat) (i : Nat) : Byte := if i < win then s.vrd p ((src + i) % 2 ^ 64) else 0#8

/-- The one piece of an expansion of one block that finds no fault. -/
theorem State.expandPieces_one {s : State} {k src win dst a b : Nat} (h : (s.expandPieces k src win dst a b 1 0 0 [] []).2.1 = none) :
    (s.expandPieces k src win dst a b 1 0 0 [] []).1 =
      [{ dst := dst, src := none, len := 4096, data := blockVals (s.windowByte (s.partOf k) src win) 0 }] := by
  unfold State.expandPieces at h ⊢
  dsimp only at h ⊢
  split at h
  · exact absurd h (by simp)
  · split at h
    · exact absurd h (by simp)
    · rfl

/-- The values of the first block of an expansion. -/
def State.blockBytes (s : State) (k : Nat) (d : List Byte) : List Byte :=
  blockVals (s.windowByte (s.partOf k) (recN d 24 8) (min (recN d 8 8) (8208 * recN d 4 4))) 0

/-- The piece of the first block of an expansion. -/
def State.blockPiece (s : State) (k : Nat) (d : List Byte) : Piece :=
  { dst := recN d 16 8, src := none, len := 4096, data := s.blockBytes k d }

theorem State.blockPiece_data (s : State) (k : Nat) (d : List Byte) : (s.blockPiece k d).data = s.blockBytes k d := by
  rw [State.blockPiece]

theorem State.blockPiece_length (s : State) (k : Nat) (d : List Byte) : (s.blockPiece k d).data.length = (s.blockPiece k d).len := by
  unfold State.blockPiece State.blockBytes
  dsimp only
  rw [blockVals_length]

/-- An expansion begun where Dailies records nothing and no value is open. -/
theorem State.expandBegun_plain {s : State} {k : Nat} {o : DmaOp} {rest : List DmaOp} (h : (s.core k).dmaq = o :: rest)
    (hn : s.noTrace k) (hst : o.stale = false)
    (hov : overlaps (recN o.desc 24 8) (min (recN o.desc 8 8) (8208 * recN o.desc 4 4)) (recN o.desc 16 8) (4096 * recN o.desc 4 4) = false)
    (hop : s.openRead k o.thr (recN o.desc 24 8) (min (recN o.desc 8 8) (8208 * recN o.desc 4 4)) = false) :
    (s.expandBegun k o).1 = none ∧ s.engineNotes (s.expandBegun k o).2 ∧
      ∃ y r, ((s.expandBegun k o).2.core k).dmaq = y :: r ∧ y.serial = o.serial ∧ y.thr = o.thr ∧ y.writes = o.writes := by
  unfold State.expandBegun
  extract_lets d src dst win pr r s2 u
  have hs2 : s2 = s.noteBegin k o [(src, win), (dst, 4096 * recN d 4 4)] (16 + pr.2 + r.2.2.foldl (fun a x => a + x) 0) :=
    State.traceRec_noTrace (s := s.noteBegin k o _ _) hn _ _ _ _
  have hu : u = (none, s2) := by
    show s2.drawUndef k o _ = _
    rw [hst, hov, hop]
    rfl
  obtain ⟨y, q, hy, hys, -, -, hyt, hyw⟩ := State.noteBegin_queue h [(src, win), (dst, 4096 * recN d 4 4)]
    (16 + pr.2 + r.2.2.foldl (fun a x => a + x) 0)
  rw [hu, hs2]
  refine ⟨rfl, ?_, ?_⟩
  · dsimp only
    refine (s.noteBegin_notes k o _ _).trans (State.engineNotes.trans (State.updOp_notes _ k o.serial _ ?_)
      (State.updCore_notes _ k _ ?_ ?_))
    · exact fun _ => rfl
    · rfl
    · rfl
  · refine ⟨{ y with blocks := r.2.2, blockAt := s.clCycle (keyCl k) + 16 + pr.2 }, q.map (fun x =>
      if x.serial = o.serial then { x with blocks := r.2.2, blockAt := s.clCycle (keyCl k) + 16 + pr.2 } else x), ?_, hys, hyt, hyw⟩
    dsimp only
    rw [State.core_updCore_same, State.updOp, State.core_updCore_same, hy, List.map_cons, if_pos hys]

/-- An expansion of one block writes its values. -/
theorem State.expandRun_writes {s : State} {k : Nat} {o : DmaOp} {rest : List DmaOp} (h : (s.core k).dmaq = o :: rest) {b : Nat}
    (h1 : recN o.desc 4 4 = 1) (hf : (s.blocksOf k o.desc).2.1 = none)
    (hov : overlaps (recN o.desc 24 8) (min (recN o.desc 8 8) (8208 * recN o.desc 4 4)) (recN o.desc 16 8) 4096 = false)
    (hop : s.openRead k o.thr (recN o.desc 24 8) (min (recN o.desc 8 8) (8208 * recN o.desc 4 4)) = false)
    (hw : Claims.mayWrite s k o (recN o.desc 16 8) 4096 b) :
    Claims.wrote s (s.expandRun k o) k o b (s.blockBytes k o.desc) := by
  obtain ⟨hst, hws⟩ := hw.fresh
  have hlen : 4096 * recN o.desc 4 4 = 4096 := by rw [h1]
  have hone : (s.blocksOf k o.desc).1 = [s.blockPiece k o.desc] := by
    unfold State.blocksOf State.blockPiece State.blockBytes at *
    rw [h1] at hf ⊢
    exact State.expandPieces_one hf
  obtain ⟨hu, hnotes, y, r, hy, hys, hyt, hyw⟩ := State.expandBegun_plain h hw.quiet hst (by rw [hlen]; exact hov) hop
  obtain ⟨q, hq⟩ := State.expandBegun_ops h
  obtain ⟨hx, hp⟩ := State.runPiece_gives hnotes (x := s.blockPiece k o.desc) rfl (s.blockPiece_length k o.desc) hw (serial := o.serial)
    ((State.opThr_head hy hys).trans hyt) (by rw [State.opOf_head hy hys, hyw, hws]) false
  unfold State.expandRun
  dsimp only
  rw [hf, hone, hu]
  dsimp only
  rw [State.runPieces_one, hx]
  rw [State.blockPiece_data] at hp
  exact hp.wrote hq

/-! ### Claims of window streams and expansions -/

theorem windowStream_starts {c : CoreId} {s : State} {o : DmaOp} (h : Claims.mayStart s c.key o 1) {ow : Nat}
    (hd : Claims.windowOk o.desc ow) (hw : s.pieceWait c.key (windowPieces o.desc ow) = none) :
    (∃ t, exec (.windowStream c .none) s = .next t ∧ Claims.startedWith t c.key o Claims.found) ∧
    ∀ x b, windowPieces o.desc ow = [x] → Claims.mayWrite s c.key o x.dst x.len b →
      (∀ src a, x.src = some src → Claims.mayRead s c.key o src x.len a → Claims.apart src x.dst x.len a b →
        ∃ t, exec (.windowStream c .none) s = .next t ∧ Claims.wrote s t c.key o b (s.rdN a x.len)) ∧
      (x.src = none → x.data.length = x.len →
        ∃ t, exec (.windowStream c .none) s = .next t ∧ Claims.wrote s t c.key o b x.data) := by
  have hx := windowStream_legal h hd
  refine ⟨⟨_, hx, State.startPieces_found h hw none _⟩, fun x b hone hmw => ?_⟩
  rw [hone] at hx hw
  exact ⟨fun src a hs hr hap => ⟨_, hx, State.startPieces_copies h hw hmw hs hr hap _⟩,
    fun hs hl => ⟨_, hx, State.startPieces_gives h hw hmw hs hl _⟩⟩

theorem expansion_starts {c : CoreId} {s : State} {o : DmaOp} (h : Claims.mayStart s c.key o 3)
    (hd : Claims.expandOk s (s.partOf c.key) o.desc) (h0 : recN o.desc 4 4 ≠ 0) (ht : s.expTaken c.key = false)
    (hm : s.mvRange c.key (recN o.desc 24 8) (min (recN o.desc 8 8) (8208 * recN o.desc 4 4)) = false)
    (hv : s.vbankBusy (s.partOf c.key) (recN o.desc 24 8) (min (recN o.desc 8 8) (8208 * recN o.desc 4 4)) = false)
    (hw : s.pieceWait c.key (s.blocksOf c.key o.desc).1 = none) :
    (∃ t, exec (.expansion c .none) s = .next t ∧ Claims.startedWith t c.key o Claims.found) ∧
    ∀ b, recN o.desc 4 4 = 1 → (s.blocksOf c.key o.desc).2.1 = none →
      overlaps (recN o.desc 24 8) (min (recN o.desc 8 8) (8208 * recN o.desc 4 4)) (recN o.desc 16 8) 4096 = false →
      s.openRead c.key o.thr (recN o.desc 24 8) (min (recN o.desc 8 8) (8208 * recN o.desc 4 4)) = false →
      Claims.mayWrite s c.key o (recN o.desc 16 8) 4096 b →
      ∃ t, exec (.expansion c .none) s = .next t ∧ Claims.wrote s t c.key o b (s.blockBytes c.key o.desc) := by
  obtain ⟨rest, hq⟩ := mayStart_queue h
  have hx := expansion_runs h hd h0 ht hm hv hw
  exact ⟨⟨_, hx, State.expandRun_found hq⟩,
    fun b h1 hf hov hop hmw => ⟨_, hx, State.expandRun_writes hq h1 hf hov hop hmw⟩⟩

end Sys2Proof.Machine
end

section
/-! Page gathers start, and what a gather of one page moves (R359 to R368). -/
namespace Sys2Proof.Machine

/-! ### Table entries -/

/-- Two states that an engine's walks find alike: its own notes aside, and with the same look-aside entries and free values. -/
structure State.twins (s t : State) (k : Nat) : Prop where
  notes : s.engineNotes t
  lab : (t.core k).lab = (s.core k).lab
  free : ∀ q, (t.part q).freeCtr = (s.part q).freeCtr

theorem State.twins.symm {s t : State} {k : Nat} (h : s.twins t k) : t.twins s k := ⟨h.notes.symm, h.lab.symm, fun q => (h.free q).symm⟩

/-- A walk that finds no fault: notes of the engine, and the operations of its core as they were. -/
structure State.walked (s t : State) (k : Nat) : Prop where
  notes : s.engineNotes t
  queue : (t.core k).dmaq = (s.core k).dmaq

theorem State.walked_refl (s : State) (k : Nat) : s.walked s k := ⟨s.engineNotes_refl, rfl⟩

theorem State.walked.trans {s t u : State} {k : Nat} (h : s.walked t k) (g : t.walked u k) : s.walked u k :=
  ⟨h.notes.trans g.notes, g.queue.trans h.queue⟩

theorem State.freshP_walked (s : State) (k p n : Nat) : s.walked (s.freshP p n) k := ⟨s.freshP_notes p n, rfl⟩
theorem State.count_walked (s : State) (k n v : Nat) : s.walked (s.count k n v) k := ⟨s.count_notes k n v, s.count_dmaq k n v⟩

theorem State.updLab_walked (s : State) (k : Nat) (f : List LabEnt → List LabEnt) :
    s.walked (s.updCore k (fun c => { c with lab := f c.lab })) k :=
  ⟨s.updCore_notes k _ rfl rfl, by rw [State.core_updCore_same]⟩

section
variable {s t : State} {k : Nat} (h : s.twins t k)
include h

theorem State.twins.readUpto (r : Reach) (va n : Nat) : t.readUpto k r va n = s.readUpto k r va n := by
  simp only [State.readUpto, h.notes.dmaFault, h.notes.va?, h.notes.partOf, h.notes.errors.badFirst, h.notes.rdN]

theorem State.twins.freshP (p n : Nat) : (s.freshP p n).twins (t.freshP p n) k where
  notes := (s.freshP_notes p n).symm.trans (h.notes.trans (t.freshP_notes p n))
  lab := h.lab
  free q := by
    by_cases hq : q = p
    · subst hq
      rw [State.freshP, State.freshP, State.part_updPart_same, State.part_updPart_same, h.free]
    · rw [State.freshP, State.freshP, State.part_updPart_ne _ _ _ _ hq, State.part_updPart_ne _ _ _ _ hq, h.free]

theorem State.twins.updLab (f g : List LabEnt → List LabEnt) (hf : f (s.core k).lab = g (s.core k).lab) :
    (s.updCore k (fun c => { c with lab := f c.lab })).twins (t.updCore k (fun c => { c with lab := g c.lab })) k where
  notes := (s.updLab_walked k f).notes.symm.trans (h.notes.trans (t.updLab_walked k g).notes)
  lab := by rw [State.core_updCore_same, State.core_updCore_same, hf, h.lab]
  free := h.free

theorem State.twins.count (n v m w : Nat) : (s.count k n v).twins (t.count k m w) k where
  notes := (s.count_notes k n v).symm.trans (h.notes.trans (t.count_notes k m w))
  lab := by
    have hl (u : State) (n v : Nat) : ((u.count k n v).core k).lab = (u.core k).lab := by
      rw [State.count, State.core_updCore_same]
      unfold Core.count
      dsimp only
      split <;> rfl
    rw [hl, hl, h.lab]
  free := h.free

end

/-- A table entry read: the value with the state, where the bytes that it reads are free of faults. -/
theorem State.walkRead_eq {s : State} {k th va n : Nat} (hn : (s.walkRead k th va n).1.2 = none) :
    (s.readUpto k .ownStores va n).2 = none ∧ s.walkRead k th va n =
      ((leVal (s.settleRead2 k th va (s.readUpto k .ownStores va n).1).1, none),
        (s.settleRead2 k th va (s.readUpto k .ownStores va n).1).2) := by
  unfold State.walkRead at hn ⊢
  dsimp only at hn ⊢
  cases hr : (s.readUpto k .ownStores va n).2 with
  | some c =>
    rw [hr] at hn
    exact absurd hn (by simp)
  | none => exact ⟨rfl, rfl⟩

theorem State.settleRead2_walked (s : State) (k th va : Nat) (l : List Byte) : s.walked (s.settleRead2 k th va l).2 k := by
  unfold State.settleRead2
  split
  · exact s.freshP_walked k _ _
  · exact s.walked_refl k

theorem State.walkRead_walked {s : State} {k th va n : Nat} (hn : (s.walkRead k th va n).1.2 = none) :
    s.walked (s.walkRead k th va n).2 k := by
  rw [(State.walkRead_eq hn).2]
  exact s.settleRead2_walked k th va _

theorem State.twins.settleRead2 {s t : State} {k : Nat} (h : s.twins t k) (th va : Nat) (l : List Byte) :
    (t.settleRead2 k th va l).1 = (s.settleRead2 k th va l).1 ∧ (s.settleRead2 k th va l).2.twins (t.settleRead2 k th va l).2 k := by
  unfold State.settleRead2
  rw [h.notes.openRead, h.notes.partOf]
  split
  · refine ⟨?_, h.freshP _ _⟩
    unfold State.freeAt
    rw [h.free]
  · exact ⟨rfl, h⟩

/-- Twins read alike. -/
theorem State.twins.walkRead {s t : State} {k : Nat} (h : s.twins t k) {th va n : Nat} (hn : (s.walkRead k th va n).1.2 = none) :
    (t.walkRead k th va n).1 = (s.walkRead k th va n).1 ∧ (s.walkRead k th va n).2.twins (t.walkRead k th va n).2 k := by
  obtain ⟨hr, hs⟩ := State.walkRead_eq hn
  obtain ⟨hv, ht⟩ := h.settleRead2 th va (s.readUpto k .ownStores va n).1
  have key : t.walkRead k th va n = ((leVal (t.settleRead2 k th va (s.readUpto k .ownStores va n).1).1, none),
      (t.settleRead2 k th va (s.readUpto k .ownStores va n).1).2) := by
    unfold State.walkRead
    simp only [h.readUpto, hr]
  rw [key, hs, hv]
  exact ⟨rfl, ht⟩

/-- A look-aside hit. -/
theorem State.labHit_some {s u : State} {k : Nat} {r : W64} {hi : BitVec 5} {x : W64} (hx : s.labHit k r hi = some (x, u)) :
    ∃ e : LabEnt, (s.core k).lab.find? (fun e => e.root == r && e.hi == hi) = some e ∧ x = e.l2 ∧
      u = (s.updCore k (fun c => { c with lab := e :: c.lab.filter (fun y => y.slot != e.slot) })).count k 0x28 1 := by
  unfold State.labHit at hx
  split at hx
  next e he =>
    obtain ⟨rfl, rfl⟩ := Prod.mk.inj (Option.some.inj hx)
    exact ⟨e, he, rfl, rfl⟩
  · exact absurd hx (by simp)

theorem State.labHit_walked {s u : State} {k : Nat} {r : W64} {hi : BitVec 5} {x : W64} (hx : s.labHit k r hi = some (x, u)) :
    s.walked u k := by
  obtain ⟨e, -, -, rfl⟩ := State.labHit_some hx
  exact (s.updLab_walked k (fun l => e :: l.filter (fun y => y.slot != e.slot))).trans (State.count_walked _ k _ _)

theorem State.twins.labHit {s t u : State} {k : Nat} (h : s.twins t k) {r : W64} {hi : BitVec 5} {x : W64}
    (hx : s.labHit k r hi = some (x, u)) : ∃ v, t.labHit k r hi = some (x, v) ∧ u.twins v k := by
  obtain ⟨e, he, rfl, rfl⟩ := State.labHit_some hx
  refine ⟨_, ?_, (h.updLab (fun l => e :: l.filter (fun y => y.slot != e.slot)) (fun l => e :: l.filter (fun y => y.slot != e.slot))
    rfl).count 0x28 1 0x28 1⟩
  unfold State.labHit
  rw [h.lab, he]

theorem State.twins.labHit_none {s t : State} {k : Nat} (h : s.twins t k) {r : W64} {hi : BitVec 5} (hx : s.labHit k r hi = none) :
    t.labHit k r hi = none := by
  unfold State.labHit at hx ⊢
  rw [h.lab]
  split at hx
  · exact absurd hx (by simp)
  · rfl

theorem State.labInstall_walked (s : State) (k : Nat) (r : W64) (hi : BitVec 5) (l2 : W64) : s.walked (s.labInstall k r hi l2) k := by
  unfold State.labInstall
  extract_lets lab slot
  exact s.updLab_walked k (fun l => { slot := slot, root := r, hi := hi, l2 := l2 } :: l.filter (fun e => e.slot != slot))

theorem State.twins.labInstall {s t : State} {k : Nat} (h : s.twins t k) (r : W64) (hi : BitVec 5) (l2 : W64) :
    (s.labInstall k r hi l2).twins (t.labInstall k r hi l2) k := by
  unfold State.labInstall
  rw [h.lab]
  extract_lets lab slot
  exact h.updLab (fun l => { slot := slot, root := r, hi := hi, l2 := l2 } :: l.filter (fun e => e.slot != slot))
    (fun l => { slot := slot, root := r, hi := hi, l2 := l2 } :: l.filter (fun e => e.slot != slot)) rfl

/-! ### The entry of a page -/

/-- Twins find the entry of a page alike where it has no fault, and it costs notes alone. -/
structure State.findsAlike {α : Type} (s t : State) (k : Nat) (x y : α × State) : Prop where
  value : y.1 = x.1
  twins : x.2.twins y.2 k
  walked : t.walked y.2 k

theorem State.twins.walkAlike {s t : State} {k : Nat} (h : s.twins t k) {th va n : Nat} (hn : (s.walkRead k th va n).1.2 = none) :
    s.findsAlike t k (s.walkRead k th va n) (t.walkRead k th va n) := by
  obtain ⟨hv, ht⟩ := h.walkRead hn
  exact ⟨hv, ht, State.walkRead_walked (by rw [hv]; exact hn)⟩

theorem State.findsAlike.after {α : Type} {s t u v : State} {k : Nat} {x y : α × State} (h : u.findsAlike v k x y) (g : t.walked v k) :
    s.findsAlike t k x y := ⟨h.value, h.twins, g.trans h.walked⟩

/-- The entry of a page in a fork table, once its pair is known. -/
theorem State.twins.kvEntry_fork {s t : State} {k : Nat} (h : s.twins t k) {th list page : Nat}
    (hn : (s.kvEntry k th true list page).1.2 = none) :
    s.findsAlike t k ((s.kvEntry k th true list page).1, (s.kvEntry k th true list page).2.1)
      ((t.kvEntry k th true list page).1, (t.kvEntry k th true list page).2.1) := by
  unfold State.kvEntry at hn ⊢
  simp only [Bool.not_true, Bool.false_eq_true, if_false] at hn ⊢
  by_cases hl : list % 256 ≠ 0
  · rw [if_pos hl] at hn
    exact absurd hn (by simp)
  rw [if_neg hl] at hn
  rw [if_neg hl, if_neg hl]
  cases hh : s.labHit k (BitVec.ofNat 64 list) (BitVec.ofNat 5 (page / 32)) with
  | some e =>
    obtain ⟨l2, s1⟩ := e
    obtain ⟨v, hv, hw⟩ := h.labHit hh
    rw [hh] at hn
    rw [hv]
    exact (hw.walkAlike hn).after (State.labHit_walked hv)
  | none =>
    rw [hh] at hn
    rw [h.labHit_none hh]
    dsimp only at hn ⊢
    have hc := h.count 0x29 1 0x29 1
    have hcw := t.count_walked k 0x29 1
    cases hr : ((s.count k 0x29 1).walkRead k th (list + 8 * (page / 32)) 8).1.2 with
    | some c =>
      rw [hr] at hn
      exact absurd hn (by simp)
    | none =>
      rw [hr] at hn
      obtain ⟨hv, htw, hwk⟩ := hc.walkAlike hr
      rw [hv, hr]
      dsimp only at hn ⊢
      split at hn
      · exact absurd hn (by simp)
      next hz =>
        rw [if_neg hz, if_neg hz]
        exact ((htw.labInstall _ _ _).walkAlike hn).after ((hcw.trans hwk).trans (State.labInstall_walked _ k _ _ _))

theorem State.twins.kvEntry {s t : State} {k : Nat} (h : s.twins t k) {th list page : Nat} (fork : Bool)
    (hn : (s.kvEntry k th fork list page).1.2 = none) :
    s.findsAlike t k ((s.kvEntry k th fork list page).1, (s.kvEntry k th fork list page).2.1)
      ((t.kvEntry k th fork list page).1, (t.kvEntry k th fork list page).2.1) := by
  cases fork with
  | false =>
    unfold State.kvEntry at hn ⊢
    simp only [Bool.not_false, if_true] at hn ⊢
    exact h.walkAlike hn
  | true => exact h.kvEntry_fork hn

/-- Twins find the piece of a page alike. -/
theorem State.twins.gatherPiece {s t : State} {k : Nat} (h : s.twins t k) {th i : Nat} {d : List Byte} {y : Piece}
    (hy : (s.gatherPiece k th d i).1 = .inl y) :
    (t.gatherPiece k th d i).1 = .inl y ∧ t.walked (t.gatherPiece k th d i).2.1 k := by
  unfold State.gatherPiece at hy ⊢
  dsimp only at hy ⊢
  cases hr : (s.kvEntry k th (bitAt (recN d 0 1) 4) (recN d 8 8) (recBits d 16 10 + i)).1.2 with
  | some c =>
    rw [hr] at hy
    exact absurd hy (by simp)
  | none =>
    rw [hr] at hy
    obtain ⟨hv, -, hw⟩ := h.kvEntry (bitAt (recN d 0 1) 4) hr
    dsimp only at hv hw hy
    rw [hv, hr]
    dsimp only
    split at hy
    · exact absurd hy (by simp)
    next hlt =>
      rw [if_neg hlt]
      exact ⟨hy, hw⟩

end Sys2Proof.Machine
end

section
/-! Page gathers start, and the claims of the DMA engine (R360, R361). -/
namespace Sys2Proof.Machine

/-! ### A gather that starts -/

theorem gatherStart_walked (s : State) (k : Nat) (d : List Byte) : s.walked (Claims.gatherStart s k d) k := by
  unfold Claims.gatherStart
  split
  · exact s.updLab_walked k (fun _ => [])
  · exact s.walked_refl k

theorem gatherStart_dbg (s : State) (k : Nat) (d : List Byte) : (Claims.gatherStart s k d).dbg = s.dbg := by
  unfold Claims.gatherStart
  split <;> rfl

/-- A gather begun, with the free value of its destination. -/
def State.gatherBegun (s : State) (k : Nat) (o : DmaOp) (g : List Piece × Nat) : Option Nat × State :=
  (s.beginOp k o (gatherTable o.desc :: pieceTouch g.1) (g.1.foldl (fun a x => a + x.len) 0) g.2).drawUndef k o
    (o.stale || piecesOverlap g.1)

/-- A gather that starts with its look-aside buffer as it finds it. -/
def State.gatherGo (s : State) (k : Nat) (o : DmaOp) : State :=
  let u := s.gatherBegun k o (s.gatherPieces k o.thr o.desc)
  let r := u.2.gatherRun k o.serial u.1 false o.desc 0
  r.1.gatherFound k o.serial r.2

section
variable {c : CoreId} {s : State} {o : DmaOp} (h : Claims.mayStart s c.key o 2)
include h

/-- A gather of no page is illegal. -/
theorem pageGather_empty (h0 : recBits o.desc 32 11 = 0) :
    exec (.pageGather c .none) s = .next (s.endOp c.key o stFaulted fcIllegal) := by
  show execPageGather c .none s = _
  unfold execPageGather
  rw [engineStep_starts h]
  dsimp only
  rw [if_pos]
  rw [h0]
  simp

/-- A legal gather whose pages and table stand still starts. -/
theorem pageGather_legal (hd : Claims.gatherOk o.desc)
    (hw : s.pieceWait c.key ((Claims.gatherStart s c.key o.desc).gatherPieces c.key o.thr o.desc).1 = none)
    (hm : s.mvRange c.key (gatherTable o.desc).1 (gatherTable o.desc).2 = false) :
    exec (.pageGather c .none) s = .next ((Claims.gatherStart s c.key o.desc).gatherGo c.key o) := by
  obtain ⟨h1, h2, h3, h4, h5, h6, h7, h8, h9, h10, h11, h12, h13⟩ := hd
  show execPageGather c .none s = _
  unfold execPageGather
  rw [engineStep_starts h]
  dsimp only
  rw [if_neg, if_neg (by omega), if_neg (by rw [hm]; decide)]
  · show Host.Outcome.next (match s.pieceWait c.key ((Claims.gatherStart s c.key o.desc).gatherPieces c.key o.thr o.desc).1 with
      | some cause => s.holdDma c.key cause
      | none => _) = _
    rw [hw]
    dsimp only
    rw [State.meetV_none]
    rfl
  · simp only [h1, h2, h3, h4, h7, h8, h9, h12, Bool.or_eq_true, decide_eq_true_eq, Bool.not_true, Bool.false_eq_true, false_or,
      or_false, ne_eq, not_true_eq_false]
    omega

end

/-- What a gather finds, or the page before which it waits for the host. -/
theorem State.gatherFound_gathers {u : State} {k : Nat} {o : DmaOp} {r : List (Nat × Nat × Bool)}
    (h : u.ops k = (o.serial, o.tag, true) :: r) (code : Option Nat) : Claims.gathers (u.gatherFound k o.serial code) k o := by
  unfold State.gatherFound
  split
  next hw =>
    unfold State.ops Core.ops at h
    obtain ⟨x, rest, hx, hid, -⟩ := List.map_eq_cons_iff.mp h
    obtain ⟨hs, hg, hb⟩ : x.serial = o.serial ∧ x.tag = o.tag ∧ x.started = true := by simpa using hid
    rw [State.opOf_head hx hs, Bool.and_eq_true] at hw
    refine ⟨x, rest, ?_, hs, hg, hb, .inl hw.1⟩
    rw [State.core_congr (s := u) (by rw [State.pumpReqs_usb]), hx]
  · obtain ⟨x, rest, st, hq, hs, hg, hb, hst, hok⟩ := State.foundStatus_started h code
    refine ⟨x, rest, hq, hs, hg, hb, .inr ?_⟩
    rw [hst, hok]
    obtain hf | ⟨c, hf⟩ := foundWord_found code
    · exact .inl (by rw [hf])
    · exact .inr ⟨c, by rw [hf]⟩

theorem State.gatherBegun_ops {s : State} {k : Nat} {o : DmaOp} {rest : List DmaOp} (h : (s.core k).dmaq = o :: rest)
    (g : List Piece × Nat) : ∃ r, (s.gatherBegun k o g).2.ops k = (o.serial, o.tag, true) :: r := by
  obtain ⟨r, hr⟩ := State.beginOp_ops h (gatherTable o.desc :: pieceTouch g.1) (g.1.foldl (fun a x => a + x.len) 0) g.2
  refine ⟨r, ?_⟩
  unfold State.gatherBegun
  rw [State.drawUndef_ops]
  exact hr

theorem State.gatherGo_gathers {s : State} {k : Nat} {o : DmaOp} {rest : List DmaOp} (h : (s.core k).dmaq = o :: rest) :
    Claims.gathers (s.gatherGo k o) k o := by
  obtain ⟨r, hr⟩ := State.gatherBegun_ops h (s.gatherPieces k o.thr o.desc)
  exact State.gatherFound_gathers (r := r) (by rw [State.gatherRun_ops]; exact hr) _

/-! ### A gather of one page -/

theorem State.gatherPieces_one {s : State} {k th : Nat} {d : List Byte} {x : Piece} (h1 : recBits d 32 11 = 1)
    (h : (s.gatherPieces k th d).1 = [x]) : (s.gatherPiece k th d 0).1 = .inl x := by
  unfold State.gatherPieces at h
  rw [h1] at h
  cases hy : (s.gatherPiece k th d 0).1 with
  | inl y =>
    simp [upTo, hy] at h
    rw [h]
  | inr c => simp [upTo, hy] at h

/-- A run over one page whose entry is found. -/
theorem State.gatherRun_one {u : State} {k n th : Nat} {d : List Byte} {x : Piece} (h1 : recBits d 32 11 = 1) {undef : Option Nat} {f : Bool}
    (hg : ((u.updOp k n (fun o => { o with gatherAt := none })).opOf k n).gatherAt = none)
    (hw : ((u.updOp k n (fun o => { o with gatherAt := none })).opOf k n).writes = [])
    (ht : (u.updOp k n (fun o => { o with gatherAt := none })).opThr k n = th)
    (hx : ((u.updOp k n (fun o => { o with gatherAt := none })).gatherPiece k th d 0).1 = .inl x) :
    u.gatherRun k n undef f d 0 =
      ((u.updOp k n (fun o => { o with gatherAt := none })).gatherPiece k th d 0).2.1.runPiece k n undef f x := by
  unfold State.gatherRun untilFault
  dsimp only
  rw [h1]
  simp only [upTo, List.range_one, List.drop_zero, List.foldl_cons, List.foldl_nil, hg, hw, ht, hx, Option.isSome_none,
    Bool.false_eq_true, if_false, List.isEmpty_nil, Bool.not_true]

/-- A gather begun where Dailies records nothing and no value is open. -/
theorem State.gatherBegun_plain {s : State} {k : Nat} {o : DmaOp} {g : List Piece × Nat} (hn : s.noTrace k) (hs : o.stale = false)
    (ho : piecesOverlap g.1 = false) :
    s.gatherBegun k o g = (none, s.noteBegin k o (gatherTable o.desc :: pieceTouch g.1) g.2) := by
  unfold State.gatherBegun
  rw [s.beginOp_eq, State.traceRec_noTrace (s := s.noteBegin k o (gatherTable o.desc :: pieceTouch g.1) g.2) hn, hs, ho]
  rfl

theorem State.noteBegin_twins (s : State) (k : Nat) (o : DmaOp) (touch : List (Nat × Nat)) (cycles n : Nat) :
    s.twins ((s.noteBegin k o touch cycles).updOp k n (fun o => { o with gatherAt := none })) k where
  notes := (s.noteBegin_notes k o touch cycles).trans (State.updOp_notes _ k n _ fun _ => rfl)
  lab := by rw [State.updOp, State.core_updCore_same, s.noteBegin_core]
  free _ := rfl

/-- The oldest operation, once it has begun, about to read the entry of its first page. -/
theorem State.gatherHead {s : State} {k : Nat} {o : DmaOp} {rest : List DmaOp} (h : (s.core k).dmaq = o :: rest)
    (touch : List (Nat × Nat)) (cycles : Nat) :
    ∃ y r, (((s.noteBegin k o touch cycles).updOp k o.serial (fun o => { o with gatherAt := none })).core k).dmaq = y :: r ∧
      y.serial = o.serial ∧ y.tag = o.tag ∧ y.started = true ∧ y.thr = o.thr ∧ y.writes = o.writes ∧ y.gatherAt = none := by
  obtain ⟨y, r, hy, hys, hyg, hyb, hyt, hyw⟩ := State.noteBegin_queue h touch cycles
  refine ⟨{ y with gatherAt := none }, r.map (fun x => if x.serial = o.serial then { x with gatherAt := none } else x), ?_,
    hys, hyg, hyb, hyt, hyw, rfl⟩
  rw [State.updOp, State.core_updCore_same, hy, List.map_cons, if_pos hys]

/-- A gather of one page moves it. -/
theorem State.gatherGo_copies {s : State} {k : Nat} {o : DmaOp} {rest : List DmaOp} (hq : (s.core k).dmaq = o :: rest)
    (h1 : recBits o.desc 32 11 = 1) {x : Piece} {src a b : Nat}
    (hg : ((Claims.gatherStart s k o.desc).gatherPieces k o.thr o.desc).1 = [x]) (hx : x.src = some src)
    (hr : Claims.mayRead s k o src x.len a) (hw : Claims.mayWrite s k o x.dst x.len b) (hap : Claims.apart src x.dst x.len a b) :
    Claims.wrote s ((Claims.gatherStart s k o.desc).gatherGo k o) k o b (s.rdN a x.len) := by
  obtain ⟨hst, hws⟩ := hw.fresh
  obtain ⟨hn0, hq0⟩ := gatherStart_walked s k o.desc
  have hnt : (Claims.gatherStart s k o.desc).noTrace k := State.noTrace_congr (gatherStart_dbg s k o.desc) hw.quiet
  have hpiece := State.gatherPieces_one h1 hg
  have hov : piecesOverlap ((Claims.gatherStart s k o.desc).gatherPieces k o.thr o.desc).1 = false := by
    rw [hg]
    exact piecesOverlap_one fun c hc => by
      rw [Option.some.inj (hc.symm.trans hx)]
      exact hap.1
  have hbegun := State.gatherBegun_plain (s := Claims.gatherStart s k o.desc) hnt hst hov
  rw [hq] at hq0
  unfold State.gatherGo
  dsimp only
  rw [hbegun]
  generalize Claims.gatherStart s k o.desc = s0 at *
  generalize s0.gatherPieces k o.thr o.desc = g at *
  obtain ⟨y, r, hy, hys, hyg, hyb, hyt, hyw, hya⟩ := State.gatherHead hq0 (gatherTable o.desc :: pieceTouch g.1) g.2
  have htw := s0.noteBegin_twins k o (gatherTable o.desc :: pieceTouch g.1) g.2 o.serial
  obtain ⟨hgp, hgw⟩ := htw.gatherPiece hpiece
  have hrun := State.gatherRun_one (u := s0.noteBegin k o (gatherTable o.desc :: pieceTouch g.1) g.2) (undef := none) (f := false) h1
    (by rw [State.opOf_head hy hys, hya]) (by rw [State.opOf_head hy hys, hyw, hws]) ((State.opThr_head hy hys).trans hyt) hgp
  have hyv := hgw.queue.trans hy
  obtain ⟨hf, hp⟩ := State.runPiece_copies (hn0.trans (htw.notes.trans hgw.notes)) hx hr hw (serial := o.serial)
    ((State.opThr_head hyv hys).trans hyt) (by rw [State.opOf_head hyv hys, hyw, hws]) false
  dsimp only
  rw [hrun, hf]
  unfold State.gatherFound
  rw [State.opOf_head (hp.queue.trans hyv) hys, hya]
  exact hp.wrote (by rw [State.ops, Core.ops, hyv, List.map_cons, hys, hyg, hyb])

/-! ### Claims of the engine -/

theorem pageGather_starts {c : CoreId} {s : State} {o : DmaOp} (h : Claims.mayStart s c.key o 2) (hd : Claims.gatherOk o.desc)
    (hw : s.pieceWait c.key ((Claims.gatherStart s c.key o.desc).gatherPieces c.key o.thr o.desc).1 = none)
    (hm : s.mvRange c.key (gatherTable o.desc).1 (gatherTable o.desc).2 = false) :
    (∃ t, exec (.pageGather c .none) s = .next t ∧ Claims.gathers t c.key o) ∧
    ∀ x src a b, recBits o.desc 32 11 = 1 → ((Claims.gatherStart s c.key o.desc).gatherPieces c.key o.thr o.desc).1 = [x] →
      x.src = some src → Claims.mayRead s c.key o src x.len a → Claims.mayWrite s c.key o x.dst x.len b →
      Claims.apart src x.dst x.len a b →
      ∃ t, exec (.pageGather c .none) s = .next t ∧ Claims.wrote s t c.key o b (s.rdN a x.len) := by
  obtain ⟨rest, hq⟩ := mayStart_queue h
  have hx := pageGather_legal h hd hw hm
  refine ⟨⟨_, hx, State.gatherGo_gathers (rest := rest) ?_⟩, fun x src a b h1 hg hs hr hmw hap => ⟨_, hx, ?_⟩⟩
  · exact (gatherStart_walked s c.key o.desc).queue.trans hq
  · exact State.gatherGo_copies hq h1 hg hs hr hmw hap

theorem engineStarts : Claims.EngineStarts := by
  intro c s o k p d
  refine ⟨fun h h0 => ?_, fun h ow hd hw => windowStream_starts h hd hw, fun h h0 => ?_, fun h hd hw hm => pageGather_starts h hd hw hm,
    fun h hd => ?_, fun h h1 h2 h3 => ?_⟩
  · exact ⟨_, windowStream_empty h h0, State.endOp_ends h 2 1⟩
  · exact ⟨_, pageGather_empty h h0, State.endOp_ends h 2 1⟩
  · exact ⟨fun h0 => ⟨_, expansion_empty h hd h0, State.endOp_ends h 0 0⟩,
      fun h0 ht hm hv hw => expansion_starts h hd h0 ht hm hv hw⟩
  · exact ⟨_, expansion_unaligned h h1 h2 h3, State.endOp_ends h 2 3⟩

/-- Settles O45: what the DMA engine starts, and what one piece moves. -/
theorem dmaEngine : Obligations.DmaEngine := ⟨copyMovesBytes, engineStarts⟩

end Sys2Proof.Machine
end
